-- ==== Sys2Proof/Word.lean ====
section
/-! DEFINITION. The word types of the IZ-880 model, the status codes and fault classes that every block shares (R11, R13),
and the operand types of the commands of `Syntax.lean`: what arrives from outside with a command (a flash image, a
configuration request, a fabric frame, a measurement of an analogue value). -/
namespace Sys2Proof

abbrev Byte := BitVec 8
abbrev W16 := BitVec 16
abbrev W32 := BitVec 32
abbrev W64 := BitVec 64

/-- Table — Status codes (R11). -/
inductive Status where
  | ok | state | range | access | format | fault | gone | overrun | retry | quota | timeout | integrity
deriving DecidableEq, Repr

/-- The 8-bit code of a status (R11). -/
def Status.code : Status → Nat
  | .ok => 0 | .state => 1 | .range => 2 | .access => 3 | .format => 4 | .fault => 5
  | .gone => 6 | .overrun => 7 | .retry => 8 | .quota => 9 | .timeout => 10 | .integrity => 11

/-- Table — Fault classes, in order of severity (R13). -/
inductive FaultClass where
  | corrected | retried | job | bay | device
deriving DecidableEq, Repr

/-- The severity of a class (R13). -/
def FaultClass.severity : FaultClass → Nat
  | .corrected => 1 | .retried => 2 | .job => 3 | .bay => 4 | .device => 5

/-- The route by which a dictionary request reaches the server (R98, R114, R572). -/
inductive Route where
  | can (p : Fin 2) | pf | bay (n : Fin 16) | fabPf | fabBay (n : Fin 16)
deriving DecidableEq, Repr

/-- What a boot directory copy with a correct magic and CRC says (Table — Boot directory, R62, R63). -/
structure DirCopy where
  seq : Nat := 0
  active : Nat := 0
deriving DecidableEq, Repr

/-- A firmware image: the header fields of Table — Image header (R64), and the digests of the section bytes that stand
behind the header, as they stream in. -/
structure Image where
  magic : Nat := 0
  hdrVersion : Nat := 0
  keyIndex : Nat := 0
  reserved : Nat := 0
  svn : Nat := 0
  fwVersion : Nat := 0
  mLen : Nat := 0
  dLen : Nat := 0
  pubkey : List Byte := []
  mHash : List Byte := []
  dHash : List Byte := []
  sig : List Byte := []
  mBytes : List Byte := []
  dBytes : List Byte := []
deriving DecidableEq, Repr

/-- One record of the dictionary store with a correct CRC (Table — Store record, R115). -/
structure StoreRec where
  index : Nat
  sub : Nat
  cls : Nat
  value : List Byte
deriving DecidableEq, Repr

/-- One bank of the dictionary store whose header has a correct magic and CRC, as R116 reads it: its generation, its records up to
the first one erased or torn, the bank offset at which they end, and whether what stands there is torn and not erased. -/
structure StoreBank where
  generation : Nat := 0
  recs : List StoreRec := []
  stop : Nat := 0x40
  torn : Bool := false
deriving DecidableEq, Repr

/-- What the SPI NOR holds, by the parts of Table — Flash layout (R60 to R62, R115): its SFDP space, the bytes of the two directory
copies, the two image slots, and the bytes of the two banks of the store area. Bytes behind the end of a list are erased. -/
structure Flash where
  sfdp : List Byte := []
  dir0 : List Byte := []
  dir1 : List Byte := []
  slotA : Image := {}
  slotB : Image := {}
  bank0 : List Byte := []
  bank1 : List Byte := []
deriving DecidableEq, Repr

/-- How the service of a dictionary request ends (R117, R118, R125, R128): as its checks and its value have it; with a failure between
the checks and the service tick; with a failure of the management RAM or of the server; for a save, with a flash that fails; or, for
a save, not yet: it runs on. -/
inductive Served where
  | done | valueFault | serverFault | flashFault | running
deriving DecidableEq, Repr

/-- A capability of a function (Table — Supported capabilities). -/
inductive Capability where
  | pciExpress | srIov | ari | ats | pri | pasid | acs | aer | doe | device3 | ide | vfResizableBar | msix | powerManagement | cxlDvsec | registerLocator
deriving DecidableEq, Repr

/-- The fields of configuration space whose values this manual gives (R157 to R159, R166 to R168, R170, R174, R180), by name: their offsets
are those of PCIe 6.0 and CXL 3.1. -/
inductive CfgField where
  | interruptPin | aspmSupport | atomicRequesterEnable | atomicRouting | atomicCompleter
  | maxPayloadSupported | maxPayload | maxReadRequest | tags10 | tags14 | nonFatalReport | fatalReport | relaxedOrdering | noSnoop
  | totalVfs | initialVfs | firstVfOffset | vfStride | vfEnable | ariNext
  | atsQueueDepth | atsPageAligned | atsGlobal | atsEnable
  | priCapacity | priPasidRequired | priAllocation | priEnable | priFailure
  | pasidWidth | pasidExecute | pasidPrivileged | pasidEnable
  | acsSupported | acsEgress | acsControl
  | aerStatus | aerSeverity | aerFirst | aerHeader
  | doeProtocols | ideStreams | ideLink | ideTee | barSizes | barSize | msixVectors | msixEnable
  | pmStates | pmState | noSoftReset | ecrcCheck | ecrcGeneration | ecrcCheckEnable | ecrcGenerationEnable
  | cxlCache | cxlIo | cxlMem | hdmCount | cacheSize
  | bar (i : Fin 6) | vfBar (i : Fin 6)
deriving DecidableEq, Repr

/-- The configuration requests to PF0 and the VFs that this manual gives an effect (R79, R157, R158, R166, R217, R253, R314). -/
inductive CfgOp where
  | readIdentity (fn : Fin 17)
  | readCaps (fn : Fin 17)
  | readField (fn : Fin 17) (f : CfgField)
  | writeField (fn : Fin 17) (f : CfgField) (v : Nat)
  | vfEnableSet
  | atsEnable (fn : Fin 17) (on : Bool)
  | pasidEnable (fn : Fin 17) (on : Bool)
  | priEnable (on : Bool)
  | priAllocation (n : Nat)
  | relaxedOrdering (fn : Fin 17) (on : Bool)
  | noSnoop (fn : Fin 17) (on : Bool)
  | msixEnable (fn : Fin 17) (on : Bool)
  | msixMask (fn : Fin 17) (v : Fin 8) (on : Bool)
deriving DecidableEq, Repr

/-- A received AtomicOp: the function and BAR it decodes to, the byte offset, its operand size and its operands (R178).
`bar` 0 is VF BAR0 or BAR0, 2 is VF BAR2, 4 is BAR4, any other value is no BAR. -/
structure AtomicReq where
  fn : Fin 17
  bar : Nat
  off : Nat
  size : Nat
  operand : Nat
  compare : Nat := 0
  tag : Nat := 0
deriving DecidableEq, Repr

/-- A TLP received in violation of the protocol (Table — Partner violations, R179). -/
structure Violation where
  kind : Nat
  rid : Nat := 0
  tag : Nat := 0
  nonPosted : Bool := false
  readable : Bool := true
  fn : Option (Fin 17) := none
  lines : List Nat := []
  hostLines : List Nat := []
  reqTag : Nat := 0
  header : List Byte := []
deriving DecidableEq, Repr

/-- The status of a completion for a device request (R179, R183). -/
inductive CplStatus where
  | success | ur | ca | rrs
deriving DecidableEq, Repr

/-- A Purlin frame as received or sent: the fields of Table — Purlin header and the payload (R558). -/
structure Frame where
  ty : Nat := 0
  vc : Nat := 0
  st : Nat := 0
  dst : Nat := 0
  src : Nat := 0
  seq : Nat := 0
  hops : Nat := 0
  poison : Bool := false
  directed : Bool := false
  linkLocal : Bool := false
  key : Nat := 0
  aux : Nat := 0
  tn : Nat := 0
  addr : Nat := 0
  payload : List Byte := []
  version : Nat := 1
  reserved : Nat := 0
  len : Nat := 0
deriving DecidableEq, Repr

/-- A RoCEv2 request packet after its headers (R578, R596, R597). `first`/`last` place the packet in its message. -/
structure RocePkt where
  qpn : Nat
  srcQpn : Nat := 0
  srcAddr : List Byte := []
  ipv6 : Bool := false
  icrcOk : Bool := true
  wellFormed : Bool := true
  psn : Nat := 0
  rkey : Nat := 0
  va : Nat := 0
  dmaLen : Nat := 0
  first : Bool := true
  last : Bool := true
  ecnCe : Bool := false
  data : List Byte := []
deriving DecidableEq, Repr

/-- The content of a PTP message (R580). Times in nanoseconds. -/
structure PtpMsg where
  domain : Nat := 0
  seq : Nat := 0
  clockId : Nat := 0
  priority : Nat := 0
  clockClass : Nat := 0
  time : Int := 0
deriving DecidableEq, Repr

/-- One reading of a column ADC: array, plane, physical column, and its codes (R487). -/
structure AdcRead where
  array : Nat
  plane : Nat
  column : Nat
  codes : List Nat
deriving DecidableEq, Repr

/-- What a calibration run measures of one pair: the fitted gain and offset of its two columns and the residual (R497). -/
structure PairFit where
  pair : Nat
  gHi : Nat
  oHi : Int
  gLo : Nat
  oLo : Int
  residual : Nat
deriving DecidableEq, Repr

/-- What a seat measures: the pairs it marks weak, the spares that fail, and the fits of its calibration run (R493). -/
structure SeatMeas where
  weak : List Nat := []
  badSpares : List Nat := []
  shadowError : Bool := false
  fits : List PairFit := []
deriving DecidableEq, Repr

/-- What the CPMs of an island report: its least slack, its slack predicted at the next ratio, and whether it wants a
higher ratio (R629, R630). -/
structure Slack where
  island : Nat
  slack : Int
  predicted : Int
  wantsMore : Bool := false
deriving DecidableEq, Repr

end Sys2Proof
end

