-- ==== Sys2Proof/Syntax.lean ====
section
/-! DEFINITION. The commands of the IZ-880: one constructor per row of spec/opcode_table.json, in its order. Object numbers are
`Fin` types of their ranges (R10), register values bit vectors of their widths; a write through the object dictionary carries
its route (R98). -/
namespace Sys2Proof

/-- The commands of the block, one constructor per row of the table. -/
inductive Instr where
  /-- SYS_RST_N_RELEASE, R58: Release of SYS_RST_N with standby rails in range starts device time at 0 and a new span. -/
  | sysRstNRelease (flash : Option Flash)
  /-- SYS_RST_N_ASSERT, R53: Assertion of SYS_RST_N returns every pad to its reset state and the device to RESET. -/
  | sysRstNAssert
  /-- STANDBY_RAIL_LOSS, R53: A standby rail leaving its range ends the span and takes the device to RESET. -/
  | standbyRailLoss
  /-- STRAP_SAMPLE, R36: Every 20 µs after reset release the sampler takes one of eight samples of every strap pin. -/
  | strapSample (pins : BitVec 23)
  /-- ROM_SLOT_CHECK_END, R65: The ROM finishes checking an image slot and either enters POWERING or fails the slot and tries the next. -/
  | romSlotCheckEnd (answered : Bool)
  /-- MGMT_FIRMWARE_TAKEOVER, R74: The management firmware takes over the dictionary server at its next idle point. -/
  | mgmtFirmwareTakeover
  /-- MAIN_PG_RISE, R59: MAIN_PG going high moves the device from POWERING to TRAINING. -/
  | mainPgRise
  /-- MAIN_PG_FALL, R52: An unrequested MAIN_PG fall records a DEVICE fault and releases MAIN_PWR_REQ_N. -/
  | mainPgFall
  /-- MAIN_RAILS_TIMEOUT, R75: MAIN_PG not high within 100 ms of POWERING records a DEVICE fault and enters FAILED. -/
  | mainRailsTimeout
  /-- HBM_TRAINING_END, R76: An HBM stack finishes training, or fails a third time and the device enters FAILED. -/
  | hbmTrainingEnd (stack : Fin 8) (trained : Bool)
  /-- HBM_ZEROING_END, R76: Zeroing of all HBM with valid ECC ends. -/
  | hbmZeroingEnd
  /-- D_SECTION_CHECK_END, R67: The D section digest check ends; on failure the device releases the rails and reboots the other slot. -/
  | dSectionCheckEnd
  /-- EAVE_READY, R77: The Eave becomes ready, allowing Detect once PERST_N has risen. -/
  | eaveReady
  /-- ENTER_READY, R81: The device enters READY once every condition of its attach mode holds. -/
  | enterReady
  /-- BOOT_WATCHDOG_EXPIRE, R86: The 900 ms boot watchdog expires, recording a DEVICE fault and entering FAILED. -/
  | bootWatchdogExpire
  /-- BOOT_RESTART, R87: A write of 1 to restart in FAILED releases the rails and returns to ROM. -/
  | bootRestart (r : Route)
  /-- RECOVERY_IMAGE_DOWNLOAD, R71: A complete recovery image download is checked and either started or aborted. -/
  | recoveryImageDownload (p : Fin 2) (img : Image)
  /-- PERST_N_RISE, R77: PERST_N rising lets the link enter Detect once the Eave is ready. -/
  | perstNRise
  /-- PERST_N_FALL, R88: PERST_N falling resets the host link only. -/
  | perstNFall
  /-- THERMAL_TRIP, R46: A die or HBM trip temperature drives THERM_TRIP_N low, releases the rails and records a DEVICE fault. -/
  | thermalTrip (stack : Option (Fin 8)) (temp : Int)
  /-- HBM_THROTTLE, R46: An HBM stack reaching 95 °C has its bandwidth halved until it cools. -/
  | hbmThrottle (stack : Fin 8) (temp : Int)
  /-- VR_HOT_N_ASSERT, R48: VR_HOT_N low for 1 µs limits core demand to 80 % by clock stretching. -/
  | vrHotNAssert
  /-- SMB_READ_DIE_TEMP, R49: SMBus command 0x01 returns the hottest die sensor. -/
  | smbReadDieTemp
  /-- SMB_READ_HBM_TEMP, R49: SMBus command 0x02 returns the hottest HBM stack. -/
  | smbReadHbmTemp
  /-- SMB_READ_STATUS, R49: SMBus command 0x03 returns the status word. -/
  | smbReadStatus
  /-- SMB_READ_FRU, R49: SMBus commands 0x20–0x27 return 32-byte blocks of FRU identity. -/
  | smbReadFru (block : Fin 8)
  /-- CONFIG_REQUEST, R79: A configuration request to the PF before READY or FAILED completes with Request Retry Status. -/
  | configRequest (tag : Nat) (op : CfgOp)
  /-- USDO_INITIATE, R101: A USDO initiate request opens a transfer on its port, or is aborted if one is open. -/
  | usdoInitiate (p : Fin 2) (write : Bool) (idx : W16) (sub : Byte) (data : List Byte) (last : Bool)
  /-- USDO_SEGMENT, R104: A USDO segment arrives; the last one submits the whole request to the server. -/
  | usdoSegment (p : Fin 2) (data : List Byte) (last : Bool)
  /-- USDO_TIMEOUT, R103: No next segment within usdo_timeout aborts the transfer with 0x0504_0000. -/
  | usdoTimeout (p : Fin 2)
  /-- CAN_BUS_OFF, R105: A CAN FD port enters bus-off and is counted. -/
  | canBusOff (p : Fin 2)
  /-- CAN_BUS_OFF_RECOVERY, R105: A bus-off port completes the standard recovery sequence. -/
  | canBusOffRecovery (p : Fin 2)
  /-- OD_READ, R112: EV_OD_CMD operation 1 starts a dictionary read through a window. -/
  | odRead (fn : Fin 17)
  /-- OD_WRITE, R108: EV_OD_CMD operation 2 starts a dictionary write or closes a DOMAIN transfer. -/
  | odWrite (fn : Fin 17)
  /-- OD_WRITE_APPEND, R113: EV_OD_CMD operation 3 sends one chunk of a DOMAIN write. -/
  | odWriteAppend (fn : Fin 17)
  /-- OD_CMD_NONE, R680: EV_OD_CMD operation 0 completes with FORMAT before any check. -/
  | odCmdNone (fn : Fin 17)
  /-- OD_WINDOW_TIMEOUT, R113: An open window DOMAIN transfer with no chunk for usdo_timeout is discarded. -/
  | odWindowTimeout (fn : Fin 17)
  /-- DICT_REQUEST_SERVE, R114: The dictionary server takes the next request in arrival order, checks it, applies it and journals writes. -/
  | dictRequestServe (x : Served := .done)
  /-- SAVE_ALL, R118: The save signature written to 0x1010.01 appends stored values to the store. -/
  | saveAll (r : Route) (x : Served := .done)
  /-- RESTORE_ALL, R118: The load signature written to 0x1011.01 discards stored values at the next cold start. -/
  | restoreAll (r : Route)
  /-- JOURNAL_SELECT, R120: A sequence number written to journal_select makes journal_record return that change record. -/
  | journalSelect (r : Route) (v : W64)
  /-- FW_STAGE, R121: An image written to fw_stage starts staging into the slot that did not boot. -/
  | fwStage (r : Route) (img : Image)
  /-- FW_STAGE_END, R121: Staging ends with the image staged and a directory copy rewritten, or failed. -/
  | fwStageEnd (flashOk : Bool)
  /-- ACTIVATE, R122: A write of 1 to activate starts early activation of a staged image. -/
  | activate (r : Route)
  /-- ACTIVATION_TAKEOVER, R123: At the server's idle point the staged M section starts and takes over the server. -/
  | activationTakeover
  /-- FUSE_SVN_RAISE, R124: A write to fuse_svn_raise irreversibly raises the fused minimum SVN. -/
  | fuseSvnRaise (r : Route) (v : W32)
  /-- CLAIM, R132: bay_ctl CLAIM moves a FREE Bay to CONFIGURING with defaults. -/
  | claim (r : Route) (n : Fin 16)
  /-- COMMIT, R134: bay_ctl COMMIT checks the Bay against all others and grants its resources. -/
  | commit (r : Route) (n : Fin 16)
  /-- COMMIT_SCRUB_END, R135: The scrub of units dropped by a reconfigured COMMIT ends and the Bay enters IDLE. -/
  | commitScrubEnd (n : Fin 16)
  /-- RECONFIGURE, R132: bay_ctl RECONFIGURE returns an IDLE Bay to CONFIGURING keeping its resources. -/
  | reconfigure (r : Route) (n : Fin 16)
  /-- STOP, R132: bay_ctl STOP starts a drain with target IDLE. -/
  | stop (r : Route) (n : Fin 16)
  /-- RELEASE, R132: bay_ctl RELEASE starts a drain with target FREE. -/
  | release (r : Route) (n : Fin 16)
  /-- RESET, R153: bay_ctl RESET starts, or retargets, a drain to FREE. -/
  | reset (r : Route) (n : Fin 16)
  /-- DRAIN_END, R137: A Bay's drain ends when its scrub or stopping finishes and it enters FREE, IDLE or PARKED. -/
  | drainEnd (n : Fin 16)
  /-- BAY_BECOMES_IDLE, R141: A RUNNING Bay with no job, empty queues and nothing outstanding returns to IDLE. -/
  | bayBecomesIdle (n : Fin 16)
  /-- HOLD_TIME_EXPIRE, R144: A parked Bay's hold timer expires and a RESET starts. -/
  | holdTimeExpire (n : Fin 16)
  /-- SHARE_GRANT, R148: A write to a share_grant slot offers a region to a peer Bay. -/
  | shareGrant (r : Route) (n : Fin 16) (slot : Fin 8) (v : W64)
  /-- SHARE_ACCEPT, R148: A write to a share_accept slot takes a peer Bay's offered region. -/
  | shareAccept (r : Route) (n : Fin 16) (slot : Fin 8) (v : W64)
  /-- DL_UP, R164: Data link up moves the host link from TRAINING to UP. -/
  | dlUp (width : Nat) (rate : Nat) (flit : Bool) (cxl : Bool)
  /-- LINK_RECOVERY_ENTER, R184: The LTSSM enters Recovery and the link holds its requests in RECOVERING. -/
  | linkRecoveryEnter
  /-- LINK_RECOVERY_EXIT, R184: The link returns to UP, possibly at a new width or rate, and resumes held requests. -/
  | linkRecoveryExit (width : Nat) (rate : Nat) (flit : Bool) (cxl : Bool)
  /-- DL_DOWN, R166: DL_Down enters LOST and every Bay with owner_link 0 loses its owner. -/
  | dlDown
  /-- HOT_RESET_RECEIVED, R164: A received Hot Reset takes the link to LOST. -/
  | hotResetReceived
  /-- LINK_DISABLE, R164: Link Disable takes the link to LOST. -/
  | linkDisable
  /-- LINK_CTL_RETRAIN, R165: A write of 1 to link_ctl retrains an UP link. -/
  | linkCtlRetrain (r : Route)
  /-- FLR_PF0, R166: Function Level Reset of PF0 is owner loss for every Bay with owner_link 0. -/
  | flrPf0 (tag : Nat := 0)
  /-- FLR_VF, R166: Function Level Reset of VF(n+1) is owner loss for Bay n. -/
  | flrVf (n : Fin 16) (tag : Nat := 0)
  /-- VF_ENABLE_CLEAR, R166: Clearing VF Enable is owner loss for every Bay with owner_link 0. -/
  | vfEnableClear (tag : Nat := 0)
  /-- BUS_MASTER_ENABLE_CLEAR, R167: Clearing a VF's Bus Master Enable holds its Bay's requests and device writes. -/
  | busMasterEnableClear (fn : Fin 17) (tag : Nat := 0)
  /-- BUS_MASTER_ENABLE_SET, R167: Setting Bus Master Enable issues held writes in order and resumes halted work. -/
  | busMasterEnableSet (fn : Fin 17) (tag : Nat := 0)
  /-- VF_RESIZABLE_BAR_WRITE, R170: A VF Resizable BAR write sets the Skylight size, or is ignored and logged while VF Enable is set. -/
  | vfResizableBarWrite (gib : Nat) (tag : Nat := 0)
  /-- HDM_DECODER_COMMIT, R171: A host commit of HDM decoder k is accepted or leaves it uncommitted. -/
  | hdmDecoderCommit (k : Fin 16) (base : Nat) (size : Nat)
  /-- HDM_MAP_WRITE, R172: A write of hdm_map sets the granules an IDLE Bay's decoder maps. -/
  | hdmMapWrite (r : Route) (k : Fin 16) (v : W32)
  /-- MSIX_UNMASK, R176: Unmasking or enabling a vector with its pending bit set sends one message. -/
  | msixUnmask (fn : Fin 17) (vec : Option (Fin 8))
  /-- IDE_KM_KEY, R177: IDE_KM over SPDM sets the keys of a selective IDE stream. -/
  | ideKmKey (stream : Fin 4) (vfs : List (Fin 17)) (ranges : List (Nat × Nat) := [])
  /-- IDE_INTEGRITY_FAILURE, R177: An IDE check failure makes the stream Insecure and faults the covered Bays. -/
  | ideIntegrityFailure (stream : Fin 4) (header : List Byte)
  /-- ATOMICOP_FETCHADD, R178: A received FetchAdd AtomicOp is completed per Table — AtomicOp completion. -/
  | atomicopFetchadd (q : AtomicReq)
  /-- ATOMICOP_SWAP, R178: A received Swap AtomicOp is completed per Table — AtomicOp completion. -/
  | atomicopSwap (q : AtomicReq)
  /-- ATOMICOP_CAS, R178: A received CAS AtomicOp is completed per Table — AtomicOp completion. -/
  | atomicopCas (q : AtomicReq)
  /-- PARTNER_VIOLATION, R179: A received TLP that violates the protocol is answered per Table — Partner violations and logged. -/
  | partnerViolation (v : Violation)
  /-- COMPLETION_RECEIVED, R183: A completion for a device request arrives, or is dropped as stale. -/
  | completionReceived (tag : Nat) (st : CplStatus) (data : List Byte)
  /-- COMPLETION_TIMEOUT, R179: A device request without completion in the timeout range ends with TIMEOUT. -/
  | completionTimeout (tag : Nat)
  /-- VIOL_SELECT, R181: A sequence number written to viol_select makes viol_record return that violation. -/
  | violSelect (r : Route) (v : W64)
  /-- MEM_RD, R304: A CXL.mem MemRd is served as RdOwn, RdShared or NcRead by its MetaValue. -/
  | memRd (k : Fin 16) (off : Nat) (mv : Fin 3) (tag : Nat)
  /-- MEM_RD_DATA, R304: A CXL.mem MemRdData is served as RdShared. -/
  | memRdData (k : Fin 16) (off : Nat) (tag : Nat)
  /-- MEM_WR, R304: A CXL.mem MemWr is served as WbDirty or NcWrite. -/
  | memWr (k : Fin 16) (off : Nat) (mv : Fin 3) (data : List Byte) (tag : Nat)
  /-- MEM_WR_PTL, R304: A CXL.mem MemWrPtl is served as WbDirty or NcWrite. -/
  | memWrPtl (k : Fin 16) (off : Nat) (mv : Fin 3) (mask : W64) (data : List Byte) (tag : Nat)
  /-- EV_DB_Q, R190: A doorbell write hands a new producer position to a command queue. -/
  | evDbQ (n : Fin 16) (q : Fin 8) (v : W32)
  /-- EV_DB_FENCE, R201: A fence doorbell holds the function's later writes until earlier ones apply. -/
  | evDbFence (n : Fin 16) (v : W32)
  /-- FENCE_RELEASE, R201: All earlier writes applied: EV_FENCE_DONE is written and held writes are released. -/
  | fenceRelease (n : Fin 16)
  /-- FENCE_DONE_READ, R202: A read of EV_FENCE_DONE is served after every earlier fence completes. -/
  | fenceDoneRead (n : Fin 16) (tag : Nat)
  /-- HATCH_POST, R192: A 64-byte host write to an inbound slot posts it, or is refused. -/
  | hatchPost (n : Fin 16) (slot : Fin 16) (data : List Byte)
  /-- HT_OUT_ACK, R194: An HT_OUT_ACK write returns named full outbound slots to EMPTY. -/
  | htOutAck (n : Fin 16) (v : W32)
  /-- SKYLIGHT_WRITE, R199: A Skylight write is performed line by line at the home slices, or dropped. -/
  | skylightWrite (n : Fin 16) (off : Nat) (data : List Byte)
  /-- SKYLIGHT_READ, R198: A Skylight read returns the newest value from the home slices, or UR. -/
  | skylightRead (n : Fin 16) (off : Nat) (len : Nat) (tag : Nat)
  /-- SKY_MAP_WRITE, R196: A write of sky_map sets a Skylight window of the Bay. -/
  | skyMapWrite (r : Route) (n : Fin 16) (w : Fin 8) (v : W64)
  /-- LOW_HALF_READ, R204: A 4-byte read of a 64-bit register's low half stores its high half in the shadow. -/
  | lowHalfRead (fn : Fin 17) (off : Nat) (tag : Nat) (len : Nat := 4)
  /-- HIGH_HALF_READ, R204: A 4-byte read of the high half returns the shadow or the live value, counting a torn read. -/
  | highHalfRead (fn : Fin 17) (off : Nat) (tag : Nat)
  /-- REGISTER_WRITE_OTHER, R188: A write to a register or entry with no behaviour of its own is applied, ignored or dropped by its shape. -/
  | registerWriteOther (fn : Fin 17) (off : Nat) (data : List Byte)
  /-- LATH_WALK_END, R222: A Lath walk ends with a leaf filled into the Device TLB or a translation fault. -/
  | lathWalkEnd (id : Nat) (readError : Bool)
  /-- TRANSLATION_COMPLETION, R232: An ATS Translation Completion forms a TLB entry, ends in HOST_FAULT, or is discarded as stale. -/
  | translationCompletion (tag : Nat) (malformed : Bool) (hpa : Nat) (size : Nat) (canRead : Bool) (canWrite : Bool)
  /-- ATS_INVALIDATE_REQUEST, R240: An ATS Invalidate Request removes the matching ATS-formed entries. -/
  | atsInvalidateRequest (n : Fin 16) (itag : Nat) (pasid : Option (BitVec 20)) (base : Nat) (size : Nat)
  /-- ATS_INVALIDATE_COMPLETE, R240: Once accesses by removed entries have taken effect, the Invalidate Completion is sent. -/
  | atsInvalidateComplete (n : Fin 16) (itag : Nat)
  /-- LATH_INVAL_WRITE, R239: A write of lath_inval accepts a Lath invalidation. -/
  | lathInvalWrite (r : Route) (n : Fin 16) (v : W64)
  /-- LATH_INVAL_COMPLETE, R238: A Lath invalidation completes once all three conditions hold. -/
  | lathInvalComplete (n : Fin 16)
  /-- PRG_SUCCESS, R254: A Success PRG response resumes every requester of the PRG. -/
  | prgSuccess (idx : Nat) (pasid : Option (BitVec 20))
  /-- PRG_INVALID_REQUEST, R254: An Invalid Request PRG response ends the PRG's requesters with FAULT. -/
  | prgInvalidRequest (idx : Nat) (pasid : Option (BitVec 20))
  /-- PRG_RESPONSE_FAILURE, R254: A Response Failure ends the PRG's requesters and stops Page Requests until cleared. -/
  | prgResponseFailure (idx : Nat) (pasid : Option (BitVec 20))
  /-- PRI_STATUS_CLEAR, R254: Host clears Response Failure in PF0's PRI status and Page Requests resume. -/
  | priStatusClear (tag : Nat := 0)
  /-- PRG_TIMEOUT, R255: A PRG without response within pri_timeout ends its requesters with TIMEOUT. -/
  | prgTimeout (idx : Nat)
  /-- FAULT_RESUME_RESUME, R264: fault_resume 1 resumes requesters halted with cause 0x01 or 0x03. -/
  | faultResumeResume (r : Route) (n : Fin 16)
  /-- FAULT_RESUME_ABORT, R264: fault_resume 2 ends requesters halted with causes 0x01–0x04 with FAULT. -/
  | faultResumeAbort (r : Route) (n : Fin 16)
  /-- RD_SHARED, R277: A home serves RdShared from a caching agent. -/
  | rdShared (a : Fin 33) (line : Nat) (ecc : Bool) (tn : Nat := 0)
  /-- RD_OWN, R277: A home serves RdOwn from a caching agent. -/
  | rdOwn (a : Fin 33) (line : Nat) (ecc : Bool) (tn : Nat := 0)
  /-- UPGRADE, R277: A home serves Upgrade from a caching agent. -/
  | upgrade (a : Fin 33) (line : Nat) (ecc : Bool) (tn : Nat := 0)
  /-- WB_DIRTY, R277: A home absorbs or discards a WbDirty eviction. -/
  | wbDirty (a : Fin 33) (line : Nat) (data : List Byte) (poison : Bool) (tn : Nat := 0)
  /-- NC_READ, R277: A home serves a non-caching read. -/
  | ncRead (isl : Fin 350) (line : Nat) (tn : Nat) (ecc : Bool) (mask : W64 := BitVec.allOnes 64)
  /-- NC_WRITE, R288: A home serves a non-caching invalidating write. -/
  | ncWrite (isl : Fin 350) (line : Nat) (tn : Nat) (mask : W64) (data : List Byte) (ecc : Bool)
  /-- NC_ATOMIC, R287: A home performs an atomic indivisibly after its snoops. -/
  | ncAtomic (isl : Fin 350) (line : Nat) (tn : Nat) (op : Fin 10) (off : Nat) (size : Nat) (operand : Nat) (compare : Nat) (returning : Bool) (ecc : Bool)
  /-- SNP_SHARED, R278: An agent answers SnpShared from its present state. -/
  | snpShared (c : Fin 17) (line : Nat) (tn : Nat := 0)
  /-- SNP_INV, R278: An agent answers SnpInv from its present state. -/
  | snpInv (c : Fin 17) (line : Nat) (tn : Nat := 0)
  /-- SNP_CUR, R278: An agent answers SnpCur from its present state. -/
  | snpCur (c : Fin 17) (line : Nat) (tn : Nat := 0)
  /-- SNP_ACK, R277: A home collects a snoop answer without data. -/
  | snpAck (a : Fin 33) (line : Nat) (st : Fin 5)
  /-- SNP_DATA, R277: A home collects a snoop answer with dirty data. -/
  | snpData (a : Fin 33) (line : Nat) (st : Fin 5) (data : List Byte) (poison : Bool)
  /-- CMP_ACK, R272: A requester's CmpAck ends a data-granting transaction at the home. -/
  | cmpAck (a : Fin 33) (line : Nat)
  /-- WB_ACK, R296: A WbAck ends a writer's WbDirty. -/
  | wbAck (c : Fin 17) (line : Nat)
  /-- CMP, R273: A requester receives Cmp for an Upgrade, NcWrite or non-returning NcAtomic. -/
  | cmp (isl : Fin 350) (line : Nat) (tn : Nat) (st : Status)
  /-- DATA, R279: A requester installs granted line data and sends CmpAck. -/
  | data (isl : Fin 350) (line : Nat) (tn : Nat) (data : List Byte) (st : Fin 5) (poison : Bool)
  /-- RETRY, R623: A closing island's Retry makes the requester resend after 1 µs. -/
  | retry (isl : Fin 350) (line : Nat) (tn : Nat)
  /-- GONE, R621: A Gone answer ends the requester's operation with GONE. -/
  | gone (isl : Fin 350) (line : Nat) (tn : Nat)
  /-- RETRY_RESEND, R623: 1 µs after a Retry the requester resends the same request unchanged. -/
  | retryResend (isl : Fin 350) (line : Nat) (tn : Nat)
  /-- SNOOP_TIMEOUT, R298: A snoop to a cell member unanswered within snoop_timeout poisons or clears the line. -/
  | snoopTimeout (a : Fin 33) (line : Nat)
  /-- CELL_TABLE_WRITE, R293: A write changing the cell starts the recall of leaving members' lines. -/
  | cellTableWrite (r : Route) (sub : Fin 18) (v : W16)
  /-- CELL_CHANGE_END, R293: The cell change's recall and scan end and the change takes effect. -/
  | cellChangeEnd
  /-- BIRSP, R305: The host's BIRsp, possibly after a MemWr, is taken as the snoop answer. -/
  | birsp (line : Nat) (st : Fin 5) (data : Option (List Byte))
  /-- BICONFLICT, R306: A BIConflict is answered with BIConflictAck at once. -/
  | biconflict (line : Nat)
  /-- BISNP_TIMEOUT, R307: A BISnp unanswered within snoop_timeout is handled as a silent member. -/
  | bisnpTimeout (line : Nat)
  /-- H2D_SNP_DATA, R311: The proxy cache answers a host SnpData. -/
  | h2dSnpData (hpa : Nat)
  /-- H2D_SNP_INV, R311: The proxy cache answers a host SnpInv, invalidating inside sharers. -/
  | h2dSnpInv (hpa : Nat)
  /-- H2D_SNP_CUR, R311: The proxy cache answers a host SnpCur. -/
  | h2dSnpCur (hpa : Nat)
  /-- HOST_GO_RESPONSE, R310: The host's grant for a proxy D2H request installs the line. -/
  | hostGoResponse (hpa : Nat) (st : Fin 5) (data : List Byte)
  /-- SP_VALUE_WRITE, R326: A host write of SP_VALUE performs SET on the Spar. -/
  | spValueWrite (n : Fin 16) (j : Fin 1024) (v : W64)
  /-- SP_ADD, R326: A host write of SP_ADD performs ADD on the Spar. -/
  | spAdd (n : Fin 16) (j : Fin 1024) (v : W64)
  /-- SP_THRESH_WRITE, R333: A write of SP_THRESH sets the threshold at once and may fire the Spar. -/
  | spThreshWrite (n : Fin 16) (j : Fin 1024) (v : W64)
  /-- ARM, R333: An SP_CTL write with bit 0 set arms the threshold, or latches a re-arm while firing. -/
  | arm (n : Fin 16) (j : Fin 1024) (v : W64)
  /-- DISARM, R333: An SP_CTL write with bit 0 clear disarms the Spar and empties any latch. -/
  | disarm (n : Fin 16) (j : Fin 1024) (v : W64)
  /-- SPAR_CTL_DICT_ARM, R334: An arm written through spar_ctl is a command refused with STATE while firing. -/
  | sparCtlDictArm (r : Route) (n : Fin 16) (v : W64)
  /-- SPAR_FIRE_END, R332: The fire sequence ends once mirror and message are issued, applying any latched re-arm. -/
  | sparFireEnd (s : Fin 4096)
  /-- COMMAND_FETCH, R347: The command processor fetches a batch of up to 16 commands from the highest-ranking queue. -/
  | commandFetch (n : Fin 16) (readError : Bool)
  /-- COMMAND_START, R352: A fetched command starts once its ordering conditions hold. -/
  | commandStart (n : Fin 16) (q : Fin 8)
  /-- NOP, R351: NOP completes on starting. -/
  | nop (n : Fin 16) (q : Fin 8) (p : W32)
  /-- FENCE, R354: FENCE waits for earlier commands and received writes. -/
  | fence (n : Fin 16) (q : Fin 8) (p : W32)
  /-- FENCE_COMPLETE, R354: A FENCE command completes when its conditions hold. -/
  | fenceComplete (n : Fin 16) (q : Fin 8) (p : W32)
  /-- WAIT, R355: WAIT starts waiting for a Spar to reach its target. -/
  | wait (n : Fin 16) (q : Fin 8) (p : W32)
  /-- WAIT_SATISFIED, R355: The Spar reaches the target and WAIT completes OK. -/
  | waitSatisfied (n : Fin 16) (q : Fin 8) (p : W32)
  /-- WAIT_TIMEOUT, R355: WAIT's deadline expires and it completes with TIMEOUT. -/
  | waitTimeout (n : Fin 16) (q : Fin 8) (p : W32)
  /-- SIGNAL, R356: SIGNAL performs SET or ADD on a Spar, or sends a remote ADD. -/
  | signal (n : Fin 16) (q : Fin 8) (p : W32)
  /-- HOLD, R357: HOLD stops preparation until earlier commands complete. -/
  | hold (n : Fin 16) (q : Fin 8) (p : W32)
  /-- HOLD_COMPLETE, R357: HOLD completes when every earlier command of its queue has completed. -/
  | holdComplete (n : Fin 16) (q : Fin 8) (p : W32)
  /-- LAYER, R359: LAYER starts waiting for the pipeline to drain. -/
  | layer (n : Fin 16) (q : Fin 8) (p : W32)
  /-- LAYER_COMPLETE, R359: LAYER completes when nothing earlier is outstanding, journaling or checkpointing. -/
  | layerComplete (n : Fin 16) (q : Fin 8) (p : W32)
  /-- BEGIN_JOB, R361: BEGIN_JOB opens a job and, in a strict Bay, the replay record and input digests. -/
  | beginJob (n : Fin 16) (q : Fin 8) (p : W32)
  /-- END_JOB, R536: END_JOB digests outputs and closes the job, signing it in a strict Bay. -/
  | endJob (n : Fin 16) (q : Fin 8) (p : W32)
  /-- LATH_INVAL, R362: The LATH_INVAL command performs a Lath invalidation. -/
  | lathInval (n : Fin 16) (q : Fin 8) (p : W32)
  /-- GUTTER, R386: GUTTER starts a channel on its descriptor chain. -/
  | gutter (n : Fin 16) (q : Fin 8) (p : W32)
  /-- COURSE, R409: COURSE is prepared and admitted, then starts streaming its block list. -/
  | course (n : Fin 16) (q : Fin 8) (p : W32)
  /-- CHAIN, R360: CHAIN starts every stage of its stage table as one command. -/
  | chain (n : Fin 16) (q : Fin 8) (p : W32)
  /-- RUN, R434: RUN loads a program onto its cores and starts them. -/
  | run (n : Fin 16) (q : Fin 8) (p : W32)
  /-- ENGINE, R438: ENGINE queues an operation descriptor on an engine. -/
  | engine (n : Fin 16) (q : Fin 8) (p : W32)
  /-- SEAT, R490: SEAT starts seating a Thatch array from its shadow. -/
  | seat (n : Fin 16) (q : Fin 8) (p : W32)
  /-- TRIM, R495: TRIM starts reprogramming one data pair of a seated array. -/
  | trim (n : Fin 16) (q : Fin 8) (p : W32)
  /-- ENABLE, R366: cq_action ENABLE activates a DISABLED queue. -/
  | enable (r : Route) (n : Fin 16) (q : Fin 8)
  /-- DISABLE, R366: cq_action DISABLE disables an idle queue. -/
  | disable (r : Route) (n : Fin 16) (q : Fin 8)
  /-- RESUME, R366: cq_action RESUME returns a HALTED queue to ACTIVE. -/
  | resume (r : Route) (n : Fin 16) (q : Fin 8)
  /-- SKIP, R366: cq_action SKIP discards a HALTED queue's unstarted commands. -/
  | skip (r : Route) (n : Fin 16) (q : Fin 8)
  /-- DESCRIPTOR_FETCH, R376: A Gutter descriptor read returns and is checked before data moves. -/
  | descriptorFetch (c : Fin 256) (ecc : Bool)
  /-- DESCRIPTOR_END, R385: A descriptor's writes take effect, its CRC is stored and checked and its Spar pulsed. -/
  | descriptorEnd (c : Fin 256) (ecc : Bool)
  /-- RESTART, R389: gt_action RESTART re-runs the failing descriptor from its first byte. -/
  | restart (r : Route) (n : Fin 16)
  /-- ABORT, R389: gt_action ABORT ends the chain with the latched status. -/
  | abort (r : Route) (n : Fin 16)
  /-- BLOCK_LIST_BURST_RETURN, R398: A burst of Course block-list entries returns. -/
  | blockListBurstReturn (c : Fin 512) (ecc : Bool)
  /-- COURSE_PASS_END, R410: A Course pass ends, pulsing its end Spar and re-arming, waiting or completing. -/
  | coursePassEnd (c : Fin 512) (ecc : Bool)
  /-- DERATE_RECOMPUTE, R401: Every 1 µs each arbiter recomputes its derated capacity. -/
  | derateRecompute (eccRetryPpm : Nat)
  /-- PROPORTIONAL_SERVICE_END, R407: 1 ms after the last projected miss the resource returns to earliest deadline. -/
  | proportionalServiceEnd (res : Fin 59)
  /-- HALT, R433: Core operation HALT ends the core's program. -/
  | halt (c : Fin 256)
  /-- LOAD, R432: Core operation LOAD copies memory into the local store. -/
  | load (c : Fin 256) (ecc : Bool)
  /-- STORE, R432: Core operation STORE copies the local store to memory. -/
  | store (c : Fin 256)
  /-- MATVEC, R461: Core operation MATVEC computes y := W·x + bias. -/
  | matvec (c : Fin 256)
  /-- ELTWISE, R462: Core operation ELTWISE applies an element function. -/
  | eltwise (c : Fin 256)
  /-- REQUANT, R467: Core operation REQUANT requantises int32 elements. -/
  | requant (c : Fin 256)
  /-- RING_TAKE, R442: Core operation RING_TAKE takes bytes from a ring. -/
  | ringTake (c : Fin 256)
  /-- RING_PUT, R442: Core operation RING_PUT puts bytes into a ring. -/
  | ringPut (c : Fin 256)
  /-- SPAR_SET, R429: Core SPAR operation with a = 0 sets a Spar. -/
  | sparSet (c : Fin 256)
  /-- SPAR_ADD, R429: Core SPAR operation with a = 1 adds to a Spar. -/
  | sparAdd (c : Fin 256)
  /-- SPAR_WAIT, R429: Core SPAR operation with a = 2 waits for a Spar. -/
  | sparWait (c : Fin 256)
  /-- SPAR_FETCHADD, R431: Core SPAR operation with a = 3 fetch-adds, refused in strict Bays. -/
  | sparFetchadd (c : Fin 256)
  /-- HATCH_TAKE, R526: Core HATCH take moves a FULL inbound slot to TAKEN. -/
  | hatchTake (c : Fin 256)
  /-- HATCH_RELEASE, R194: Core HATCH release returns a TAKEN inbound slot to EMPTY. -/
  | hatchRelease (c : Fin 256)
  /-- HATCH_FILL, R194: Core HATCH fill fills an outbound slot and raises vector 2. -/
  | hatchFill (c : Fin 256)
  /-- LOOP, R429: Core operation LOOP repeats earlier operations. -/
  | loop (c : Fin 256)
  /-- BRANCH, R429: Core operation BRANCH skips forward if its condition is true. -/
  | branch (c : Fin 256)
  /-- BARRIER, R429: Core operation BARRIER waits for every core of the RUN. -/
  | barrier (c : Fin 256)
  /-- CORE_WAIT_SATISFIED, R433: A waiting core's condition holds and it runs again. -/
  | coreWaitSatisfied (c : Fin 256)
  /-- ENGINE_OP_START, R439: A queued engine operation starts when the engine is free. -/
  | engineOpStart (g : Fin 42)
  /-- ENGINE_OP_END, R439: An engine operation ends, pulsing its end Spar and freeing the engine. -/
  | engineOpEnd (g : Fin 42)
  /-- FLASH_TASK_END, R516: A flash task's exact recompute ends and its output is written. -/
  | flashTaskEnd (n : Fin 16) (poisoned : Bool)
  /-- THATCH_EVALUATION, R487: One input vector is evaluated on the stage's arrays and output records written. -/
  | thatchEvaluation (n : Fin 16) (q : Fin 8) (p : W32) (stage : Fin 8) (reads : List AdcRead)
  /-- SEAT_END, R493: A seat ends with the array SEATED, RETIRED or UNSHADOWED. -/
  | seatEnd (a : Fin 256) (m : SeatMeas)
  /-- TRIM_END, R495: A trim ends, possibly sparing the pair. -/
  | trimEnd (a : Fin 256) (pair : Fin 1152) (fit : PairFit) (spareOk : Bool)
  /-- CALIBRATION_START, R497: A latched calibration trigger starts a run between evaluations. -/
  | calibrationStart (a : Fin 256)
  /-- CALIBRATION_END, R497: A calibration run ends, recording residuals and trimming drifting pairs. -/
  | calibrationEnd (a : Fin 256) (fits : List PairFit)
  /-- CAL_TIME_TRIGGER, R498: 7,200 s after the last run a calibration trigger fires. -/
  | calTimeTrigger (a : Fin 256)
  /-- CAL_TEMPERATURE_SAMPLE, R498: A 1 ms bank temperature sample fires a trigger when it has moved over 8 °C. -/
  | calTemperatureSample (b : Fin 8) (temp : Int)
  /-- CAL_REQUEST, R498: A write of 1 to cal_request starts a run on the selected array. -/
  | calRequest (r : Route) (n : Fin 16)
  /-- CERTIFY, R514: The requantise engine tests a record and certifies or sends it to flash. -/
  | certify (n : Fin 16) (q : Fin 8) (p : W32) (stage : Fin 8)
  /-- AUDIT_END, R519: An audit task ends, passing or finding a bound failure. -/
  | auditEnd (n : Fin 16)
  /-- INPUT_DIGEST_END, R606: An input region's digest ends: INPUT record, Spar pulse, seal. -/
  | inputDigestEnd (n : Fin 16) (i : Fin 64)
  /-- OUTPUT_DIGEST_END, R536: An output region's digest ends and its OUTPUT record is emitted. -/
  | outputDigestEnd (n : Fin 16) (i : Fin 64)
  /-- SIGNATURE_END, R537: The replay signer finishes signing JOB_CLOSE or JOB_ABANDON. -/
  | signatureEnd (n : Fin 16) (signerOk : Bool)
  /-- SINK_RECORD_WRITE, R540: A held record is written to the sink once room exists, then the head and Spar. -/
  | sinkRecordWrite (n : Fin 16)
  /-- SINK_READ_WRITE, R543: A write of sink_read moves Rd and frees sink room. -/
  | sinkReadWrite (r : Route) (n : Fin 16) (v : W64)
  /-- SINK_CTL_WRITE, R542: A write of sink_ctl with valid set resumes sink writing. -/
  | sinkCtlWrite (r : Route) (n : Fin 16) (v : W32)
  /-- PORT_LOCK, R555: PCS and FEC lock moves a port from TRAINING to LINKED. -/
  | portLock (p : Fin 12)
  /-- PORT_LINK_LOSS, R555: Link loss returns a port to TRAINING. -/
  | portLinkLoss (p : Fin 12)
  /-- PORT_CTL_RETRAIN, R555: port_ctl 1 retrains the port. -/
  | portCtlRetrain (r : Route) (p : Fin 12)
  /-- PORT_CTL_CLEAR, R585: port_ctl 2 clears a quarantine. -/
  | portCtlClear (r : Route) (p : Fin 12)
  /-- HELLO_SEND, R556: Every 100 µs a linked Purlin port sends a HELLO. -/
  | helloSend (p : Fin 12)
  /-- HELLO, R556: A received HELLO updates the neighbour and may bring the port into service. -/
  | hello (p : Fin 12) (id : BitVec 12) (assigned : Bool) (port : Fin 16)
  /-- HELLO_TIMEOUT, R556: No HELLO for 1 ms returns an IN_SERVICE port to LINKED. -/
  | helloTimeout (p : Fin 12)
  /-- ASSIGN, R557: A received ASSIGN sets the device ID or is refused. -/
  | assign (p : Fin 12) (f : Frame)
  /-- LACK, R559: A received LACK acknowledges frames and returns credits. -/
  | lack (p : Fin 12) (f : Frame)
  /-- LNAK, R559: A received LNAK triggers retransmission from the sequence given. -/
  | lnak (p : Fin 12) (f : Frame)
  /-- LACK_SEND, R559: Every 1 µs while frames arrive the receiver sends a LACK. -/
  | lackSend (p : Fin 12)
  /-- RETRANSMIT_TIMEOUT, R559: No LACK within 20 µs retransmits from the oldest unacknowledged frame. -/
  | retransmitTimeout (p : Fin 12)
  /-- FABRIC_VIOLATION, R583: A violating frame is dropped, logged and answered with VIOL, possibly quarantining. -/
  | fabricViolation (p : Fin 12) (kind : Fin 10) (f : Frame)
  /-- PUT, R569: A received PUT is checked and written into a registered region. -/
  | put (p : Fin 12) (f : Frame)
  /-- GET, R569: A received GET is checked and answered with the data. -/
  | get (p : Fin 12) (f : Frame)
  /-- PURLIN_SIGNAL, R335: A received SIGNAL performs a remote ADD on a Spar, or is refused. -/
  | purlinSignal (p : Fin 12) (f : Frame)
  /-- CTL_RD, R573: A received CTL_RD reads the control aperture. -/
  | ctlRd (p : Fin 12) (f : Frame)
  /-- CTL_WR, R572: A received CTL_WR writes the control aperture as the page's owner. -/
  | ctlWr (p : Fin 12) (f : Frame)
  /-- PUT_ACK, R570: A PUT_ACK ends the requester's PUT or asks a resend. -/
  | putAck (p : Fin 12) (f : Frame)
  /-- GET_RSP, R570: A GET_RSP delivers data to the requester. -/
  | getRsp (p : Fin 12) (f : Frame)
  /-- SIG_ACK, R356: A SIG_ACK completes a remote SIGNAL command. -/
  | sigAck (p : Fin 12) (f : Frame)
  /-- CTL_RSP, R570: A CTL_RSP answers a CTL request. -/
  | ctlRsp (p : Fin 12) (f : Frame)
  /-- REMOTE_RESEND, R570: 1 µs after RETRY the requester resends the remote request. -/
  | remoteResend (tn : Nat)
  /-- REMOTE_TIMEOUT, R570: A remote request without final response in remote_timeout ends with TIMEOUT. -/
  | remoteTimeout (tn : Nat)
  /-- HB, R575: A heartbeat from owner_id refreshes hb_last for the Bays it names. -/
  | hb (p : Fin 12) (f : Frame)
  /-- HB_TIMEOUT, R575: hb_timeout after hb_last the Bay's owner link is lost. -/
  | hbTimeout (n : Fin 16)
  /-- RDMA_WRITE, R578: A RoCEv2 RDMA WRITE packet is checked and placed into a region. -/
  | rdmaWrite (p : Fin 12) (k : RocePkt)
  /-- RDMA_READ, R578: A RoCEv2 RDMA READ request is checked and answered from a region. -/
  | rdmaRead (p : Fin 12) (k : RocePkt)
  /-- ARP_REQUEST, R579: An Ethernet-mode port answers ARP for its IPv4 address. -/
  | arpRequest (p : Fin 12) (ip : W32) (mac : BitVec 48)
  /-- NEIGHBOUR_SOLICITATION, R579: An Ethernet-mode port answers IPv6 Neighbour Discovery. -/
  | neighbourSolicitation (p : Fin 12) (ip : BitVec 128) (mac : BitVec 48)
  /-- ICMP_ECHO_REQUEST, R579: An Ethernet-mode port answers ICMP or ICMPv6 echo. -/
  | icmpEchoRequest (p : Fin 12) (v6 : Bool) (ip : BitVec 128) (data : List Byte)
  /-- PFC_FRAME, R579: A received priority flow control frame pauses the priority. -/
  | pfcFrame (p : Fin 12) (prio : Fin 8) (quanta : W16)
  /-- SYNC, R580: A received PTP Sync feeds the rate discipline. -/
  | sync (p : Fin 12) (m : PtpMsg)
  /-- FOLLOW_UP, R580: A received PTP Follow_Up supplies the Sync timestamp. -/
  | followUp (p : Fin 12) (m : PtpMsg)
  /-- DELAY_REQ, R580: A received Delay_Req is answered on a served port. -/
  | delayReq (p : Fin 12) (m : PtpMsg)
  /-- DELAY_RESP, R580: A received Delay_Resp completes a path-delay measurement. -/
  | delayResp (p : Fin 12) (m : PtpMsg)
  /-- ANNOUNCE, R580: A received Announce feeds the best master clock algorithm. -/
  | announce (p : Fin 12) (m : PtpMsg)
  /-- ANNOUNCE_RECEIPT_TIMEOUT, R580: Missing Announces trigger reselection of the time port. -/
  | announceReceiptTimeout (p : Fin 12)
  /-- SYNC_INTERVAL, R580: Each Sync interval a served port sends Sync and the device sends Delay_Req. -/
  | syncInterval (p : Fin 12)
  /-- PPS_IN_EDGE, R582: A rising PPS_IN edge sets the PTP second phase as grandmaster. -/
  | ppsInEdge
  /-- PPS_OUT_PULSE, R581: At each PTP second PPS_OUT pulses while locked or grandmaster. -/
  | ppsOutPulse
  /-- BAR4_WRITE, R595: A BAR4 write is checked and placed into a registered region. -/
  | bar4Write (rid : W16) (ap : Fin 256) (off : Nat) (data : List Byte)
  /-- BAR4_READ, R595: A BAR4 read is checked and served from a registered region. -/
  | bar4Read (rid : W16) (ap : Fin 256) (off : Nat) (len : Nat) (tag : Nat)
  /-- PLACEMENT_APPLIED, R600: A placement access's bytes take effect and are added to reg_arrived and reg_spar. -/
  | placementApplied (n : Fin 16) (i : Nat)
  /-- REG_CTL_WRITE, R602: A write of reg_ctl registers or unregisters a region. -/
  | regCtlWrite (r : Route) (n : Fin 16) (v : W64)
  /-- ISLAND_RESET, R617: island_ctl RESET closes an island and restarts it. -/
  | islandReset (r : Route)
  /-- POWER_DOWN, R617: island_ctl POWER_DOWN closes an unheld island to OFF. -/
  | powerDown (r : Route)
  /-- WAKE, R617: island_ctl WAKE starts an OFF island. -/
  | wake (r : Route)
  /-- RETRAIN, R617: island_ctl RETRAIN starts island retraining. -/
  | retrain (r : Route)
  /-- GATE_TIMER, R618: 1 ms after an island becomes eligible with gate_enable set it is powered down. -/
  | gateTimer (i : Fin 350)
  /-- FLUSH_END, R619: An island's coherent flush ends and it enters CLOSING. -/
  | flushEnd (i : Fin 350)
  /-- CLOSE_WINDOW_END, R620: The closing window ends, synthesising Gone for what remains. -/
  | closeWindowEnd (i : Fin 350)
  /-- ISLAND_START_END, R616: Reset and retraining of a STARTING island end and it becomes ACTIVE. -/
  | islandStartEnd (i : Fin 350)
  /-- RETRAIN_PERIOD, R627: 60 s since the last retraining fires a retraining trigger. -/
  | retrainPeriod (i : Fin 350)
  /-- RETRAIN_TEMPERATURE, R627: A change over 10 °C at the island sensor fires a retraining trigger. -/
  | retrainTemperature (i : Fin 350) (temp : Int)
  /-- CPM_MARGIN_ALARM, R627: A CPM margin alarm fires a retraining trigger. -/
  | cpmMarginAlarm (i : Fin 350)
  /-- RETRAINING_END, R627: Island retraining ends, starting any latched one. -/
  | retrainingEnd (i : Fin 350) (temp : Int)
  /-- VOLTAGE_LOOP_PERIOD, R629: Every 10 µs the voltage loop steps each domain request and the core set-point. -/
  | voltageLoopPeriod (slacks : List Slack)
  /-- FREQUENCY_LOOP_PERIOD, R630: Every 10 µs the frequency loop steps each island's ratio. -/
  | frequencyLoopPeriod (slacks : List Slack)
  /-- CAP_STEP, R630: Every 1 ms the thermal and power caps move. -/
  | capStep (temps : List (Nat × Int)) (powerW : Nat)
  /-- DROOP, R631: A detected droop stretches the island's clock. -/
  | droop (i : Fin 350)
  /-- ADC_THRESHOLD_LOOP, R634: Every 1 ms the ADC threshold loop computes new thresholds per bank. -/
  | adcThresholdLoop (b : Fin 8) (thresholds : List (Nat × Int))
  /-- PLACEMENT_LOOP, R628: Every 1 ms core temperatures for placement are sampled. -/
  | placementLoop (temps : List (Nat × Int))
  /-- SENSE_OPEN_DETECT, R636: An open or implausible sense pair freezes its loop and commands the safe setting. -/
  | senseOpenDetect (rail : Fin 3) (kind : Fin 4)
  /-- SENSE_CLEAR, R637: A write to sense_clear unlatches a rail and resumes its loop. -/
  | senseClear (r : Route) (v : Byte) (intact : List (Fin 3))
  /-- AVS_NACK, R638: An unacknowledged AVSBus command is resent, then taken as stuck. -/
  | avsNack (mv : Nat)
  /-- LOOP_FREEZE, R639: A write of loop_freeze freezes or resumes loops. -/
  | loopFreeze (r : Route) (v : Byte)
  /-- DOMAIN_OVERRIDE, R639: A write of domain_override forces a frozen domain voltage. -/
  | domainOverride (r : Route) (v : W16)
  /-- RATIO_OVERRIDE, R639: A write of ratio_override forces a frozen island ratio. -/
  | ratioOverride (r : Route) (v : W16)
  /-- SCRUB_INTERVAL_TRIGGER, R642: scrub_interval after the last pass a patrol trigger fires for the stack. -/
  | scrubIntervalTrigger (s : Fin 8)
  /-- SCRUB_REQUEST, R642: A write of 1 to scrub_request starts a patrol pass. -/
  | scrubRequest (r : Route)
  /-- SCRUB_PASS_END, R644: A patrol pass ends, starting any latched pass. -/
  | scrubPassEnd (s : Fin 8) (corrected : List Nat) (bad : List Nat)
  /-- RESTART_DRAINED, R655: A restarting strict job has drained: Spars are reset and fetch rewinds to BEGIN_JOB. -/
  | restartDrained (n : Fin 16)
  /-- REATTACH, R667: A token written to reattach returns a parked Bay, revalidating host translations. -/
  | reattach (r : Route) (n : Fin 16) (token : List Byte)
  /-- LOG_SELECT, R653: A sequence number written to log_select makes log_record return that fault record. -/
  | logSelect (r : Route) (v : W64)
  /-- BAY_LOG_SELECT, R653: A sequence number written to bay_log_select returns that Bay's fault record. -/
  | bayLogSelect (r : Route) (n : Fin 16) (v : W64)
  /-- LTSSM_DETECT, R164: The host link leaves LOST for TRAINING when the LTSSM next enters Detect, with PERST_N already high and the Eave ready. -/
  | ltssmDetect
  /-- HBM_THROTTLE_END, R644: An HBM stack cools below its throttle temperature, its bandwidth is restored and a paused patrol pass resumes. -/
  | hbmThrottleEnd (stack : Fin 8) (temp : Int)
  /-- VR_HOT_N_DEASSERT, R48: VR_HOT_N returns high and the 80 % current limit by clock stretching ends. -/
  | vrHotNDeassert
  /-- FRAME_FORWARD, R562: A Purlin frame received for another destination, or a directed frame not yet at its end, is forwarded on a chosen port, or dropped as no route or out of hops. -/
  | frameForward (p : Fin 12) (f : Frame)
  /-- VIOL, R583: A VIOL frame received from a peer is consumed and acknowledged, and never answered with a VIOL. -/
  | viol (p : Fin 12) (f : Frame)
deriving DecidableEq, Repr

end Sys2Proof
end

