-- ==== Sys2Proof/Decode.lean ====
section
/-! DEFINITION. The decoding of the table's words. No row of the opcode table gives its command any bits: a command arrives
as its name and operands, so no word spells one. -/
namespace Sys2Proof

/-- The command that the low `nbits` bits of `w` spell by the table's bits: the table gives no row any, so none. -/
def decodeTableWord (_nbits _w : Nat) : Option Instr := none

end Sys2Proof
end

