-- ==== Sys2Proof/Machine/Digest.lean ====
section
/-! DEFINITION. The digests, checks and signatures the spec names by their standards: SHA-384 (FIPS 180-4, R64, R492, R534), CRC-64
of ECMA-182 (R382), and ECDSA P-384 with SHA-384, deterministic when signing (FIPS 186-5, R65, R537). The standards' constants
are not in the spec (PRESUMED, log entry 6). -/
namespace Sys2Proof.Machine

/-- CRC-64 of one more byte: polynomial 0x42F0_E1EB_A9EA_3693, most significant bit first (R382). -/
def crc64Byte (c : Nat) (b : Byte) : Nat :=
  let step (c : Nat) : Nat := if c < 2 ^ 63 then c * 2 else (c * 2 % 2 ^ 64) ^^^ 0x42F0E1EBA9EA3693
  (List.range 8).foldl (fun c _ => step c) (c ^^^ (b.toNat * 2 ^ 56))

/-- CRC-64 of a byte string that continues from `c` (R382, R383). -/
def crc64From (c : Nat) (bs : List Byte) : Nat := bs.foldl crc64Byte c

/-- CRC-64 of a byte string (R382). -/
def crc64 (bs : List Byte) : Nat := crc64From 0 bs

/-- A byte string read most significant byte first. -/
def beNat (bs : List Byte) : Nat := bs.foldl (fun a b => a * 256 + b.toNat) 0

/-- The `n` low bytes of a number, most significant first. -/
def beBytes (n v : Nat) : List Byte := (List.range n).map fun i => BitVec.ofNat 8 (v / 256 ^ (n - 1 - i))

/-- The primes below 410, of which there are eighty; a number below 21 squared is prime where nothing from 2 to 20 but itself divides
it. -/
def shaPrimes : List Nat := (List.range 410).filter fun n => Nat.ble 2 n && (List.range 19).all fun k => n % (k + 2) != 0 || n == k + 2

/-- One step of Newton's method towards a root of degree `k + 1` of `n`, from above: it never rises again once it stands at the root
rounded down. -/
def rootStep (k n r : Nat) : Nat := min r ((k * r + n / r ^ k) / (k + 1))

/-- The first 64 bits behind the point of a prime's root of degree `k + 1`; twenty steps from 2 ^ 68 reach it for the primes in use. -/
def rootFrac (k p : Nat) : W64 :=
  BitVec.ofNat 64 ((List.range 20).foldl (fun r _ => rootStep k (p * 2 ^ (64 * (k + 1))) r) (2 ^ 68))

/-- The round constants of SHA-384: the cube roots of the eighty primes (FIPS 180-4). -/
def shaK : List W64 := shaPrimes.map (rootFrac 2)

/-- The initial hash value of SHA-384: the square roots of the ninth to the sixteenth prime (FIPS 180-4). -/
def shaH0 : List W64 := ((shaPrimes.drop 8).take 8).map (rootFrac 1)

/-- The message padded to blocks of 128 bytes (FIPS 180-4). -/
def shaPad (m : List Byte) : List Byte :=
  m ++ [0x80] ++ List.replicate ((239 - m.length % 128) % 128) 0 ++ beBytes 16 (m.length * 8)

/-- The message schedule of a block, newest word first (FIPS 180-4). -/
def shaSchedule (ws : List W64) : List W64 :=
  (List.range 64).foldl (fun acc _ =>
    let g (i : Nat) : W64 := acc.getD i 0
    let s0 := (g 14).rotateRight 1 ^^^ (g 14).rotateRight 8 ^^^ ((g 14) >>> 7)
    let s1 := (g 1).rotateRight 19 ^^^ (g 1).rotateRight 61 ^^^ ((g 1) >>> 6)
    (s1 + g 6 + s0 + g 15) :: acc) ws.reverse

/-- One round on the eight working variables (FIPS 180-4). -/
def shaRound (h : List W64) (kw : W64 × W64) : List W64 :=
  match h with
  | [a, b, c, d, e, f, g, hh] =>
    let s1 := e.rotateRight 14 ^^^ e.rotateRight 18 ^^^ e.rotateRight 41
    let t1 := hh + s1 + ((e &&& f) ^^^ (~~~e &&& g)) + kw.1 + kw.2
    let s0 := a.rotateRight 28 ^^^ a.rotateRight 34 ^^^ a.rotateRight 39
    let t2 := s0 + ((a &&& b) ^^^ (a &&& c) ^^^ (b &&& c))
    [t1 + t2, a, b, c, d + t1, e, f, g]
  | h => h

/-- The hash value after one block. -/
def shaBlock (h : List W64) (block : List Byte) : List W64 :=
  let ws := (List.range 16).map fun i => BitVec.ofNat 64 (beNat ((block.drop (8 * i)).take 8))
  List.zipWith (· + ·) h ((shaK.zip (shaSchedule ws).reverse).foldl shaRound h)

/-- SHA-384 of a byte string, 48 bytes in FIPS 180-4 order (R4). -/
def sha384 (m : List Byte) : List Byte :=
  let p := shaPad m
  let h := (List.range (p.length / 128)).foldl (fun h i => shaBlock h ((p.drop (128 * i)).take 128)) shaH0
  (h.take 6).flatMap fun w => beBytes 8 w.toNat

/-- HMAC with SHA-384, for the deterministic nonce. -/
def hmac384 (key m : List Byte) : List Byte :=
  let k := key ++ List.replicate (128 - key.length) 0
  sha384 (k.map (· ^^^ 0x5c) ++ sha384 (k.map (· ^^^ 0x36) ++ m))

/-- The prime of P-384. -/
def p384p : Nat := 2 ^ 384 - 2 ^ 128 - 2 ^ 96 + 2 ^ 32 - 1

/-- The order of the P-384 group. -/
def p384n : Nat := 0xffffffffffffffffffffffffffffffffffffffffffffffffc7634d81f4372ddf581a0db248b0a77aecec196accc52973

/-- The base point of P-384. -/
def p384g : Option (Nat × Nat) := some
  (0xaa87ca22be8b05378eb1c71ef320ad746e1d3b628ba79b9859f741e082542a385502f25dbf55296c3a545e3872760ab7,
   0x3617de4a96262c6f5d9e98bf9292dc29f8f41dbd289a147ce9da3113b5f0b8c00a60b1ce1d7e819d7a431d7c90ea0e5f)

/-- The coefficient b of P-384. -/
def p384b : Nat := 0xb3312fa7e23ee7e4988e056be3f82d19181d9c6efe8141120314088f5013875ac656398d8a2ed19d2a85c8edd3ec2aef

/-- A power modulo m: the low `k` hexadecimal digits of the exponent, each raising to the sixteenth and multiplying. -/
def powMod (b e m : Nat) : Nat → Nat
  | 0 => 1 % m
  | k + 1 => (powMod b (e / 16) m k) ^ 16 % m * b ^ (e % 16) % m

/-- The inverse modulo a prime (Fermat). -/
def invMod (a m : Nat) : Nat := powMod (a % m) (m - 2) m 96

/-- Point addition on P-384; `none` is the point at infinity. -/
def p384add : Option (Nat × Nat) → Option (Nat × Nat) → Option (Nat × Nat)
  | none, b => b
  | a, none => a
  | some (x1, y1), some (x2, y2) =>
    if x1 = x2 ∧ (y1 + y2) % p384p = 0 then none else
    let l := if x1 = x2 then (3 * x1 * x1 + p384p - 3) * invMod (2 * y1) p384p % p384p
             else (y2 + p384p - y1) * invMod (x2 + p384p - x1) p384p % p384p
    let x3 := (l * l + 2 * p384p - x1 - x2) % p384p
    some (x3, (l * (x1 + p384p - x3) + p384p - y1) % p384p)

/-- Scalar multiplication over the low `k` bits of `e`. -/
def p384mul (e : Nat) (q : Option (Nat × Nat)) : Nat → Option (Nat × Nat)
  | 0 => none
  | k + 1 =>
    let t := p384mul (e / 2) q k
    let s := p384add t t
    if e % 2 = 1 then p384add s q else s

/-- Is the signature r ‖ s over the message valid under the public key x ‖ y (check 6 of R65)? -/
def ecdsaVerify (pub m sig : List Byte) : Bool :=
  let x := beNat (pub.take 48); let y := beNat (pub.drop 48)
  let r := beNat (sig.take 48); let s := beNat (sig.drop 48)
  let z := beNat (sha384 m)
  pub.length == 96 && sig.length == 96 && decide (x < p384p) && decide (y < p384p) &&
  (y * y % p384p == (x * x * x + (p384p - 3) * x + p384b) % p384p) &&
  decide (0 < r) && decide (r < p384n) && decide (0 < s) && decide (s < p384n) &&
  (let w := invMod s p384n
   match p384add (p384mul (z * w % p384n) p384g 384) (p384mul (r * w % p384n) (some (x, y)) 384) with
   | some (vx, _) => vx % p384n == r
   | none => false)

/-- The deterministic nonce candidates: `k` tries of the HMAC generator, the first in range taken. -/
def ecdsaNonce (kk v : List Byte) : Nat → Nat
  | 0 => 1
  | t + 1 =>
    let v := hmac384 kk v
    let c := beNat v
    if 0 < c ∧ c < p384n then c
    else
      let kk' := hmac384 kk (v ++ [0])
      ecdsaNonce kk' (hmac384 kk' v) t

/-- The deterministic ECDSA P-384 signature r ‖ s of a message under a private key (R537). -/
def ecdsaSign (d : Nat) (m : List Byte) : List Byte :=
  let h := sha384 m
  let x := beBytes 48 d
  let z := beNat h
  let h' := beBytes 48 (z % p384n)
  let v0 := List.replicate 48 (1 : Byte)
  let k1 := hmac384 (List.replicate 48 0) (v0 ++ [0] ++ x ++ h')
  let v1 := hmac384 k1 v0
  let k2 := hmac384 k1 (v1 ++ [1] ++ x ++ h')
  let v2 := hmac384 k2 v1
  let k := ecdsaNonce k2 v2 8
  match p384mul k p384g 384 with
  | some (px, _) =>
    let r := px % p384n
    beBytes 48 r ++ beBytes 48 (invMod k p384n * (z + r * d) % p384n)
  | none => List.replicate 96 0

/-- The public key x ‖ y of a private key (R538). -/
def ecdsaPublic (d : Nat) : List Byte :=
  match p384mul d p384g 384 with
  | some (x, y) => beBytes 48 x ++ beBytes 48 y
  | none => List.replicate 96 0

end Sys2Proof.Machine
end

