-- ==== Sys2Proof/Config.lean ====
section
/-! DEFINITION. What the spec fixes per device or leaves free: constants with no body, so that nothing proved rests on a
value of theirs (DESIGN CHOICE, log entries 2 and 4). -/
namespace Sys2Proof

/-- A value that the spec leaves open where the machine goes on (DESIGN CHOICE, log entry 2): the k-th one drawn. -/
opaque Config.freeValue : Nat → Nat

/-- The HBM stack on which a line lies: the HBM interleave is per implementation (R641). -/
opaque Config.hbmStack : Nat → Fin 8

/-- OD 0x1018.04 serial: per device (R130). -/
opaque Config.serial : Nat

/-- OD 0x2200.01 pci_vendor_id: the PCI vendor ID of every function (R157, R186). -/
opaque Config.pciVendorId : Nat

/-- The private half of the device replay key, generated on the die at manufacture (R537). -/
opaque Config.replayKey : Nat

/-- OD 0x2C00.03 replay_cert: the X.509 chain that binds the replay key to the serial (R538). -/
opaque Config.replayCert : List Byte

/-- The 256 bytes of FRU identity that SMBus commands 0x20 to 0x27 return: the part name, the stepping as R1 gives it, the serial number
and strap_raw, in a layout that the spec does not give (R49). -/
opaque Config.fru (part : List Byte) (stepping serial strapRaw : Nat) : List Byte

/-- The part name of the FRU identity (R49): its spelling there is not given. -/
opaque Config.partName : List Byte

end Sys2Proof
end

