-- ==== Sys2Proof/Machine/Entries.lean ====
section
/-! DEFINITION. The entries of the object dictionary, row by row from the tables of the chapters (R57, R91, R130, R156, R186, R211,
R247, R268, R301, R320, R340, R373, R395, R424, R450, R481, R509, R525, R552, R592, R611, R649, R675, R676 to R679). -/
namespace Sys2Proof.Machine

/-- Table — Dictionary types (R92): sizes in bytes. -/
inductive Ty where
  | u (n : Nat) | i (n : Nat) | oct (n : Nat) | dom
deriving DecidableEq, Repr

/-- Table — Access classes (R94). -/
inductive Acc where
  | const | ro | rw | rwIdle | wo
deriving DecidableEq, Repr

/-- A row of the entry tables: the first index and how many objects the family has (R677), the subindices from `lo` to `hi`
in steps of `stride`, type, access class, whether a Bay may write it at its own index (R98), whether it is stored (R678), and
the default. A default outside the range of the type stands for one that depends on the state (DESIGN CHOICE, log entry 15). -/
structure Ent where
  base : Nat
  fam : Nat
  lo : Nat
  hi : Nat
  stride : Nat
  ty : Ty
  acc : Acc
  bayW : Bool
  stored : Bool
  dflt : Nat
deriving DecidableEq, Repr

/-- Rows 0 to 39 of the entry tables. -/
def entries0 : List Ent := [
  ⟨0x2E00, 1, 0x00, 0x00, 1, (.u 1), .const, false, false, 0x8⟩ /- highest_sub -/,
  ⟨0x2E00, 1, 0x01, 0x01, 1, (.u 4), .ro, false, false, 0x0⟩ /- strap_raw -/,
  ⟨0x2E00, 1, 0x02, 0x02, 1, (.u 1), .ro, false, false, 0x0⟩ /- attach_mode -/,
  ⟨0x2E00, 1, 0x03, 0x03, 1, (.u 1), .ro, false, false, 0x0⟩ /- can_node -/,
  ⟨0x2E00, 1, 0x04, 0x04, 1, (.u 1), .ro, false, false, 0x0⟩ /- boot_src -/,
  ⟨0x2E00, 1, 0x05, 0x05, 1, (.u 1), .ro, false, false, 0x0⟩ /- fab_id_src -/,
  ⟨0x2E00, 1, 0x06, 0x06, 1, (.u 2), .ro, false, false, 0x0⟩ /- fab_id_strap -/,
  ⟨0x2E00, 1, 0x07, 0x07, 1, (.u 4), .ro, false, false, 0x0⟩ /- strap_unstable -/,
  ⟨0x2E00, 1, 0x08, 0x08, 1, (.u 1), .ro, false, false, 0x0⟩ /- strap_notes -/,
  ⟨0x2E01, 1, 0x00, 0x00, 1, (.u 1), .const, false, false, 0x6⟩ /- highest_sub -/,
  ⟨0x2E01, 1, 0x01, 0x01, 1, (.u 2), .ro, false, false, 0x320⟩ /- core_setpoint -/,
  ⟨0x2E01, 1, 0x02, 0x02, 1, (.u 2), .ro, false, false, 0x0⟩ /- core_sense -/,
  ⟨0x2E01, 1, 0x03, 0x03, 1, (.u 2), .ro, false, false, 0x0⟩ /- hbm_sense -/,
  ⟨0x2E01, 1, 0x04, 0x04, 1, (.u 2), .ro, false, false, 0x0⟩ /- hbmq_sense -/,
  ⟨0x2E01, 1, 0x05, 0x05, 1, (.u 4), .ro, false, false, 0x0⟩ /- main_pg_loss -/,
  ⟨0x2E01, 1, 0x06, 0x06, 1, (.u 4), .ro, false, false, 0x0⟩ /- vr_hot_events -/,
  ⟨0x2E02, 1, 0x00, 0x00, 1, (.u 1), .const, false, false, 0x5⟩ /- highest_sub -/,
  ⟨0x2E02, 1, 0x01, 0x01, 1, (.i 2), .ro, false, false, 0x0⟩ /- tj_max -/,
  ⟨0x2E02, 1, 0x02, 0x02, 1, (.i 2), .rw, false, false, 0x5F⟩ /- throttle_onset -/,
  ⟨0x2E02, 1, 0x03, 0x03, 1, (.i 2), .const, false, false, 0x73⟩ /- trip -/,
  ⟨0x2E02, 1, 0x04, 0x04, 1, (.i 2), .ro, false, false, 0x0⟩ /- hbm_temp_max -/,
  ⟨0x2E02, 1, 0x05, 0x05, 1, (.u 1), .ro, false, false, 0x0⟩ /- trip_latched -/,
  ⟨0x2E03, 1, 0x01, 0x01, 1, (.u 1), .const, false, false, 0x62⟩ /- smb_address -/,
  ⟨0x2001, 1, 0x00, 0x00, 1, (.u 1), .const, false, false, 0xD⟩ /- highest_sub -/,
  ⟨0x2001, 1, 0x01, 0x01, 1, (.u 1), .ro, false, false, 0x0⟩ /- boot_state -/,
  ⟨0x2001, 1, 0x02, 0x02, 1, (.u 1), .ro, false, false, 0xFF⟩ /- boot_slot -/,
  ⟨0x2001, 1, 0x03, 0x03, 1, (.u 1), .ro, false, false, 0x0⟩ /- fail_cause_a -/,
  ⟨0x2001, 1, 0x04, 0x04, 1, (.u 1), .ro, false, false, 0x0⟩ /- fail_cause_b -/,
  ⟨0x2001, 1, 0x05, 0x05, 1, (.u 4), .ro, false, false, 0x0⟩ /- fw_version -/,
  ⟨0x2001, 1, 0x06, 0x06, 1, (.u 4), .ro, false, false, 0x0⟩ /- fw_svn -/,
  ⟨0x2001, 1, 0x07, 0x07, 1, (.u 4), .ro, false, false, 0x0⟩ /- fuse_svn -/,
  ⟨0x2001, 1, 0x08, 0x08, 1, (.oct 48), .ro, false, false, 0x0⟩ /- fw_digest -/,
  ⟨0x2001, 1, 0x09, 0x09, 1, (.u 8), .ro, false, false, 0x0⟩ /- ready_time -/,
  ⟨0x2001, 1, 0x0A, 0x0A, 1, (.u 4), .ro, false, false, 0x0⟩ /- boot_restarts -/,
  ⟨0x2001, 1, 0x0B, 0x0B, 1, (.u 1), .wo, false, false, 0x0⟩ /- restart -/,
  ⟨0x2001, 1, 0x0C, 0x0C, 1, .dom, .wo, false, false, 0x0⟩ /- recovery_image -/,
  ⟨0x2001, 1, 0x0D, 0x0D, 1, (.u 4), .const, false, false, 0x384⟩ /- boot_watchdog -/,
  ⟨0x1000, 1, 0x00, 0x00, 1, (.u 4), .const, false, false, 0x0⟩ /- device_type -/,
  ⟨0x1001, 1, 0x00, 0x00, 1, (.u 1), .ro, false, false, 0x0⟩ /- error_register -/,
  ⟨0x1010, 1, 0x01, 0x01, 1, (.u 4), .wo, false, false, 0x0⟩ /- save_all -/]

/-- Rows 40 to 79 of the entry tables. -/
def entries1 : List Ent := [
  ⟨0x1011, 1, 0x01, 0x01, 1, (.u 4), .wo, false, false, 0x0⟩ /- restore_all -/,
  ⟨0x1018, 1, 0x00, 0x00, 1, (.u 1), .const, false, false, 0x4⟩ /- highest_sub -/,
  ⟨0x1018, 1, 0x01, 0x01, 1, (.u 4), .const, false, false, 0xD7E⟩ /- vendor_id -/,
  ⟨0x1018, 1, 0x02, 0x02, 1, (.u 4), .const, false, false, 0x880⟩ /- product_code -/,
  ⟨0x1018, 1, 0x03, 0x03, 1, (.u 4), .const, false, false, 0x20000⟩ /- revision -/,
  ⟨0x1018, 1, 0x04, 0x04, 1, (.u 4), .const, false, false, 0x0⟩ /- serial -/,
  ⟨0x2002, 1, 0x00, 0x00, 1, (.u 1), .const, false, false, 0x8⟩ /- highest_sub -/,
  ⟨0x2002, 1, 0x01, 0x01, 1, (.u 2), .rw, false, true, 0x1F4⟩ /- can_nominal_rate -/,
  ⟨0x2002, 1, 0x02, 0x02, 1, (.u 2), .rw, false, true, 0x7D0⟩ /- can_data_rate -/,
  ⟨0x2002, 1, 0x03, 0x03, 1, (.u 2), .rw, false, true, 0x1F4⟩ /- usdo_timeout -/,
  ⟨0x2002, 1, 0x04, 0x04, 1, (.u 1), .rw, false, true, 0x3⟩ /- port_enable -/,
  ⟨0x2002, 1, 0x05, 0x05, 1, (.u 4), .ro, false, false, 0x0⟩ /- bus_off_0 -/,
  ⟨0x2002, 1, 0x06, 0x06, 1, (.u 4), .ro, false, false, 0x0⟩ /- bus_off_1 -/,
  ⟨0x2002, 1, 0x07, 0x07, 1, (.u 4), .ro, false, false, 0x0⟩ /- aborts_sent -/,
  ⟨0x2002, 1, 0x08, 0x08, 1, (.u 4), .ro, false, false, 0x0⟩ /- window_rejects -/,
  ⟨0x2003, 1, 0x00, 0x00, 1, (.u 1), .const, false, false, 0x3⟩ /- highest_sub -/,
  ⟨0x2003, 1, 0x01, 0x01, 1, (.u 8), .ro, false, false, 0x0⟩ /- journal_head -/,
  ⟨0x2003, 1, 0x02, 0x02, 1, (.u 8), .rw, false, false, 0x0⟩ /- journal_select -/,
  ⟨0x2003, 1, 0x03, 0x03, 1, (.oct 32), .ro, false, false, 0x0⟩ /- journal_record -/,
  ⟨0x2004, 1, 0x00, 0x00, 1, (.u 1), .const, false, false, 0x6⟩ /- highest_sub -/,
  ⟨0x2004, 1, 0x01, 0x01, 1, .dom, .wo, false, false, 0x0⟩ /- fw_stage -/,
  ⟨0x2004, 1, 0x02, 0x02, 1, (.u 1), .ro, false, false, 0x0⟩ /- stage_state -/,
  ⟨0x2004, 1, 0x03, 0x03, 1, (.u 1), .ro, false, false, 0x0⟩ /- stage_cause -/,
  ⟨0x2004, 1, 0x04, 0x04, 1, (.u 1), .wo, false, false, 0x0⟩ /- activate -/,
  ⟨0x2004, 1, 0x05, 0x05, 1, (.u 4), .wo, false, false, 0x0⟩ /- fuse_svn_raise -/,
  ⟨0x2004, 1, 0x06, 0x06, 1, (.u 4), .ro, false, false, 0x0⟩ /- staged_version -/,
  ⟨0x2005, 1, 0x00, 0x00, 1, (.u 1), .const, false, false, 0x3⟩ /- highest_sub -/,
  ⟨0x2005, 1, 0x01, 0x01, 1, (.u 4), .ro, false, false, 0x0⟩ /- store_generation -/,
  ⟨0x2005, 1, 0x02, 0x02, 1, (.u 4), .ro, false, false, 0x0⟩ /- store_free -/,
  ⟨0x2005, 1, 0x03, 0x03, 1, (.u 4), .ro, false, false, 0x0⟩ /- store_skipped -/,
  ⟨0x2100, 16, 0x00, 0x00, 1, (.u 1), .const, false, false, 0x32⟩ /- highest_sub -/,
  ⟨0x2100, 16, 0x01, 0x01, 1, (.u 1), .ro, false, false, 0x0⟩ /- bay_state -/,
  ⟨0x2100, 16, 0x02, 0x02, 1, (.u 1), .wo, false, false, 0x0⟩ /- bay_ctl -/,
  ⟨0x2100, 16, 0x03, 0x03, 1, (.u 1), .rwIdle, false, false, 0x0⟩ /- mode -/,
  ⟨0x2100, 16, 0x04, 0x04, 1, (.u 1), .rwIdle, false, false, 0x0⟩ /- owner_policy -/,
  ⟨0x2100, 16, 0x05, 0x05, 1, (.u 1), .rwIdle, false, false, 0x100⟩ /- owner_link -/,
  ⟨0x2100, 16, 0x06, 0x06, 1, (.u 2), .rwIdle, false, false, 0x0⟩ /- hbm_base -/,
  ⟨0x2100, 16, 0x07, 0x07, 1, (.u 2), .rwIdle, false, false, 0x0⟩ /- hbm_granules -/,
  ⟨0x2100, 16, 0x08, 0x08, 1, (.u 2), .rwIdle, false, false, 0x0⟩ /- loft_base -/,
  ⟨0x2100, 16, 0x09, 0x09, 1, (.u 2), .rwIdle, false, false, 0x0⟩ /- loft_mib -/]

/-- Rows 80 to 119 of the entry tables. -/
def entries2 : List Ent := [
  ⟨0x2100, 16, 0x0A, 0x0A, 1, (.u 2), .rwIdle, false, false, 0x0⟩ /- core_base -/,
  ⟨0x2100, 16, 0x0B, 0x0B, 1, (.u 2), .rwIdle, false, false, 0x0⟩ /- core_count -/,
  ⟨0x2100, 16, 0x0C, 0x0C, 1, (.u 2), .rwIdle, false, false, 0x0⟩ /- thatch_base -/,
  ⟨0x2100, 16, 0x0D, 0x0D, 1, (.u 2), .rwIdle, false, false, 0x0⟩ /- thatch_count -/,
  ⟨0x2100, 16, 0x0E, 0x0E, 1, (.u 2), .rwIdle, false, false, 0x0⟩ /- gpack_base -/,
  ⟨0x2100, 16, 0x0F, 0x0F, 1, (.u 2), .rwIdle, false, false, 0x0⟩ /- gpack_count -/,
  ⟨0x2100, 16, 0x10, 0x10, 1, (.u 2), .rwIdle, false, false, 0x80⟩ /- gstrict_base -/,
  ⟨0x2100, 16, 0x11, 0x11, 1, (.u 2), .rwIdle, false, false, 0x0⟩ /- gstrict_count -/,
  ⟨0x2100, 16, 0x12, 0x12, 1, (.u 2), .rwIdle, false, false, 0x0⟩ /- course_base -/,
  ⟨0x2100, 16, 0x13, 0x13, 1, (.u 2), .rwIdle, false, false, 0x0⟩ /- course_count -/,
  ⟨0x2100, 16, 0x14, 0x14, 1, (.u 2), .rwIdle, false, false, 0x0⟩ /- spar_base -/,
  ⟨0x2100, 16, 0x15, 0x15, 1, (.u 2), .rwIdle, false, false, 0x0⟩ /- spar_count -/,
  ⟨0x2100, 16, 0x16, 0x19, 1, (.u 4), .rwIdle, false, false, 0x0⟩ /- bw_hbm, bw_host, bw_fabric, bw_loft -/,
  ⟨0x2100, 16, 0x1A, 0x1A, 1, (.u 4), .rwIdle, false, false, 0x258⟩ /- hold_time -/,
  ⟨0x2100, 16, 0x1B, 0x1B, 1, (.oct 16), .wo, false, false, 0x0⟩ /- reattach_token -/,
  ⟨0x2100, 16, 0x20, 0x27, 1, (.u 8), .rw, true, false, 0x0⟩ /- share_grant -/,
  ⟨0x2100, 16, 0x28, 0x2F, 1, (.u 8), .rw, true, false, 0x0⟩ /- share_accept -/,
  ⟨0x2100, 16, 0x30, 0x30, 1, (.u 4), .ro, false, false, 0x0⟩ /- rejections -/,
  ⟨0x2100, 16, 0x31, 0x31, 1, (.u 4), .ro, false, false, 0x0⟩ /- bay_faults -/,
  ⟨0x2100, 16, 0x32, 0x32, 1, (.u 4), .ro, false, false, 0x0⟩ /- hold_remaining -/,
  ⟨0x2200, 1, 0x00, 0x00, 1, (.u 1), .const, false, false, 0x15⟩ /- highest_sub -/,
  ⟨0x2200, 1, 0x01, 0x01, 1, (.u 2), .const, false, false, 0x0⟩ /- pci_vendor_id -/,
  ⟨0x2200, 1, 0x02, 0x02, 1, (.u 1), .ro, false, false, 0x0⟩ /- link_state -/,
  ⟨0x2200, 1, 0x03, 0x03, 1, (.u 1), .ro, false, false, 0x0⟩ /- link_speed -/,
  ⟨0x2200, 1, 0x04, 0x04, 1, (.u 1), .ro, false, false, 0x0⟩ /- link_width -/,
  ⟨0x2200, 1, 0x05, 0x05, 1, (.u 1), .ro, false, false, 0x0⟩ /- flit_mode -/,
  ⟨0x2200, 1, 0x06, 0x06, 1, (.u 1), .ro, false, false, 0x0⟩ /- cxl_active -/,
  ⟨0x2200, 1, 0x07, 0x07, 1, (.u 1), .rw, false, true, 0x10⟩ /- max_width -/,
  ⟨0x2200, 1, 0x08, 0x08, 1, (.u 1), .rw, false, true, 0x40⟩ /- max_speed -/,
  ⟨0x2200, 1, 0x09, 0x09, 1, (.u 4), .ro, false, false, 0x0⟩ /- link_down_events -/,
  ⟨0x2200, 1, 0x0A, 0x0A, 1, (.u 4), .ro, false, false, 0x0⟩ /- retrain_events -/,
  ⟨0x2200, 1, 0x0B, 0x0B, 1, (.u 4), .ro, false, false, 0x0⟩ /- corrected_errors -/,
  ⟨0x2200, 1, 0x0C, 0x0C, 1, (.u 8), .ro, false, false, 0x0⟩ /- viol_head -/,
  ⟨0x2200, 1, 0x0D, 0x0D, 1, (.u 8), .rw, false, false, 0x0⟩ /- viol_select -/,
  ⟨0x2200, 1, 0x0E, 0x0E, 1, (.oct 64), .ro, false, false, 0x0⟩ /- viol_record -/,
  ⟨0x2200, 1, 0x0F, 0x0F, 1, (.u 1), .ro, false, false, 0x1⟩ /- vf_bar2_size -/,
  ⟨0x2200, 1, 0x10, 0x10, 1, (.u 1), .const, false, false, 0x40⟩ /- bar4_size -/,
  ⟨0x2200, 1, 0x11, 0x11, 1, (.u 1), .ro, false, false, 0x0⟩ /- ide_streams -/,
  ⟨0x2200, 1, 0x12, 0x12, 1, (.u 1), .wo, false, false, 0x0⟩ /- link_ctl -/,
  ⟨0x2200, 1, 0x13, 0x13, 1, (.u 4), .ro, false, false, 0x0⟩ /- hdm_refused -/]

/-- Rows 120 to 159 of the entry tables. -/
def entries3 : List Ent := [
  ⟨0x2200, 1, 0x14, 0x14, 1, (.u 4), .ro, false, false, 0x0⟩ /- atomics_ca -/,
  ⟨0x2200, 1, 0x15, 0x15, 1, (.u 4), .ro, false, false, 0x0⟩ /- stale_completions -/,
  ⟨0x2201, 1, 0x00, 0x00, 1, (.u 1), .const, false, false, 0x10⟩ /- highest_sub -/,
  ⟨0x2201, 1, 0x01, 0x10, 1, (.u 4), .rwIdle, false, false, 0x0⟩ /- hdm_map -/,
  ⟨0x2980, 1, 0x00, 0x00, 1, (.u 1), .const, false, false, 0x4⟩ /- highest_sub -/,
  ⟨0x2980, 1, 0x01, 0x01, 1, (.u 4), .ro, false, false, 0x0⟩ /- hatch_latency_max -/,
  ⟨0x2980, 1, 0x02, 0x02, 1, (.u 4), .ro, false, false, 0x0⟩ /- fence_latency_max -/,
  ⟨0x2980, 1, 0x03, 0x03, 1, (.u 4), .ro, false, false, 0x0⟩ /- pf_torn_reads -/,
  ⟨0x2980, 1, 0x04, 0x04, 1, (.u 4), .ro, false, false, 0x0⟩ /- pf_partial_writes -/,
  ⟨0x2990, 16, 0x00, 0x00, 1, (.u 1), .const, false, false, 0xE⟩ /- highest_sub -/,
  ⟨0x2990, 16, 0x01, 0x01, 1, (.u 2), .rwIdle, false, false, 0xFFFF⟩ /- hatch_in_spar -/,
  ⟨0x2990, 16, 0x02, 0x09, 1, (.u 8), .rwIdle, false, false, 0x0⟩ /- sky_map -/,
  ⟨0x2990, 16, 0x0B, 0x0B, 1, (.u 4), .ro, false, false, 0x0⟩ /- torn_reads -/,
  ⟨0x2990, 16, 0x0C, 0x0C, 1, (.u 4), .ro, false, false, 0x0⟩ /- partial_writes -/,
  ⟨0x2990, 16, 0x0D, 0x0D, 1, (.u 4), .ro, false, false, 0x0⟩ /- fences -/,
  ⟨0x2990, 16, 0x0E, 0x0E, 1, (.u 4), .ro, false, false, 0x0⟩ /- sky_refused -/,
  ⟨0x2300, 1, 0x00, 0x00, 1, (.u 1), .const, false, false, 0x6⟩ /- highest_sub -/,
  ⟨0x2300, 1, 0x01, 0x01, 1, (.u 2), .const, false, false, 0x4000⟩ /- tlb_entries -/,
  ⟨0x2300, 1, 0x02, 0x02, 1, (.u 1), .const, false, false, 0x8⟩ /- tlb_ways -/,
  ⟨0x2300, 1, 0x03, 0x03, 1, (.u 8), .ro, false, false, 0x0⟩ /- walks -/,
  ⟨0x2300, 1, 0x04, 0x04, 1, (.u 8), .ro, false, false, 0x0⟩ /- walk_cache_hits -/,
  ⟨0x2300, 1, 0x05, 0x05, 1, (.u 4), .ro, false, false, 0x0⟩ /- hint_mismatch -/,
  ⟨0x2300, 1, 0x06, 0x06, 1, (.u 4), .ro, false, false, 0x0⟩ /- ats_invals -/,
  ⟨0x2310, 16, 0x00, 0x00, 1, (.u 1), .const, false, false, 0xF⟩ /- highest_sub -/,
  ⟨0x2310, 16, 0x01, 0x04, 1, (.u 8), .rwIdle, true, false, 0x0⟩ /- lath_root -/,
  ⟨0x2310, 16, 0x05, 0x08, 1, (.u 4), .rwIdle, false, false, 0x0⟩ /- pasid -/,
  ⟨0x2310, 16, 0x09, 0x09, 1, (.u 1), .rwIdle, false, false, 0xFF⟩ /- tlb_way_mask -/,
  ⟨0x2310, 16, 0x0A, 0x0A, 1, (.u 8), .wo, true, false, 0x0⟩ /- lath_inval -/,
  ⟨0x2310, 16, 0x0B, 0x0B, 1, (.u 4), .ro, false, false, 0x0⟩ /- inval_done -/,
  ⟨0x2310, 16, 0x0C, 0x0C, 1, (.u 4), .ro, false, false, 0x0⟩ /- trans_faults -/,
  ⟨0x2310, 16, 0x0D, 0x0D, 1, (.u 8), .ro, false, false, 0x0⟩ /- last_fault_dva -/,
  ⟨0x2310, 16, 0x0E, 0x0E, 1, (.u 4), .ro, false, false, 0x0⟩ /- last_fault_info -/,
  ⟨0x2310, 16, 0x0F, 0x0F, 1, (.u 2), .ro, false, false, 0x0⟩ /- tlb_occupancy -/,
  ⟨0x2320, 16, 0x00, 0x00, 1, (.u 1), .const, false, false, 0x4⟩ /- highest_sub -/,
  ⟨0x2320, 16, 0x01, 0x01, 1, (.u 8), .rwIdle, false, false, 0x0⟩ /- peer_base -/,
  ⟨0x2320, 16, 0x02, 0x02, 1, (.u 4), .rwIdle, false, false, 0x0⟩ /- peer_pages -/,
  ⟨0x2320, 16, 0x03, 0x03, 1, (.u 2), .rwIdle, false, false, 0x0⟩ /- peer_bay_mask -/,
  ⟨0x2320, 16, 0x04, 0x04, 1, (.u 1), .rwIdle, false, false, 0x0⟩ /- peer_flags -/,
  ⟨0x2330, 16, 0x00, 0x00, 1, (.u 1), .const, false, false, 0xA⟩ /- highest_sub -/,
  ⟨0x2330, 16, 0x01, 0x01, 1, (.u 2), .rwIdle, false, false, 0x100⟩ /- fault_limit -/]

/-- Rows 160 to 199 of the entry tables. -/
def entries4 : List Ent := [
  ⟨0x2330, 16, 0x02, 0x02, 1, (.u 2), .rwIdle, false, false, 0xC8⟩ /- pri_timeout -/,
  ⟨0x2330, 16, 0x03, 0x03, 1, (.u 1), .wo, true, false, 0x0⟩ /- fault_resume -/,
  ⟨0x2330, 16, 0x04, 0x04, 1, (.u 2), .ro, false, false, 0x0⟩ /- halted_now -/,
  ⟨0x2330, 16, 0x05, 0x05, 1, (.u 1), .ro, false, false, 0x0⟩ /- pri_outstanding -/,
  ⟨0x2330, 16, 0x06, 0x06, 1, (.u 4), .ro, false, false, 0x0⟩ /- pri_requests -/,
  ⟨0x2330, 16, 0x07, 0x07, 1, (.u 4), .ro, false, false, 0x0⟩ /- pri_invalid -/,
  ⟨0x2330, 16, 0x08, 0x08, 1, (.u 4), .ro, false, false, 0x0⟩ /- pri_coalesced -/,
  ⟨0x2330, 16, 0x09, 0x09, 1, (.u 4), .ro, false, false, 0x0⟩ /- fault_limit_hits -/,
  ⟨0x2330, 16, 0x0A, 0x0A, 1, (.u 4), .ro, false, false, 0x0⟩ /- races -/,
  ⟨0x2400, 1, 0x00, 0x00, 1, (.u 1), .const, false, false, 0xC⟩ /- highest_sub -/,
  ⟨0x2400, 1, 0x01, 0x01, 1, (.u 1), .const, false, false, 0x10⟩ /- slices -/,
  ⟨0x2400, 1, 0x02, 0x02, 1, (.u 4), .const, false, false, 0x20000⟩ /- dir_sets -/,
  ⟨0x2400, 1, 0x03, 0x03, 1, (.u 1), .const, false, false, 0x10⟩ /- dir_ways -/,
  ⟨0x2400, 1, 0x04, 0x04, 1, (.u 8), .ro, false, false, 0x0⟩ /- dir_hits -/,
  ⟨0x2400, 1, 0x05, 0x05, 1, (.u 8), .ro, false, false, 0x0⟩ /- dir_misses -/,
  ⟨0x2400, 1, 0x06, 0x06, 1, (.u 8), .ro, false, false, 0x0⟩ /- reconstructs -/,
  ⟨0x2400, 1, 0x07, 0x07, 1, (.u 8), .ro, false, false, 0x0⟩ /- stale_snoops -/,
  ⟨0x2400, 1, 0x08, 0x08, 1, (.u 4), .ro, false, false, 0x0⟩ /- wb_discards -/,
  ⟨0x2400, 1, 0x09, 0x09, 1, (.u 4), .rw, false, true, 0x3E8⟩ /- snoop_timeout -/,
  ⟨0x2400, 1, 0x0A, 0x0A, 1, (.u 4), .ro, false, false, 0x0⟩ /- snoop_timeouts -/,
  ⟨0x2400, 1, 0x0B, 0x0B, 1, (.u 4), .ro, false, false, 0x0⟩ /- poisoned_lines -/,
  ⟨0x2400, 1, 0x0C, 0x0C, 1, (.u 4), .ro, false, false, 0x0⟩ /- meta_errors -/,
  ⟨0x2401, 1, 0x00, 0x00, 1, (.u 1), .const, false, false, 0x13⟩ /- highest_sub -/,
  ⟨0x2401, 1, 0x01, 0x01, 1, (.u 1), .rwIdle, false, false, 0x0⟩ /- cell_enable -/,
  ⟨0x2401, 1, 0x02, 0x02, 1, (.u 1), .rwIdle, false, false, 0x0⟩ /- own_slot -/,
  ⟨0x2401, 1, 0x03, 0x12, 1, (.u 2), .rwIdle, false, false, 0xFFFF⟩ /- cell_table -/,
  ⟨0x2401, 1, 0x13, 0x13, 1, (.u 1), .ro, false, false, 0x0⟩ /- cell_busy -/,
  ⟨0x2410, 16, 0x00, 0x00, 1, (.u 1), .const, false, false, 0x4⟩ /- highest_sub -/,
  ⟨0x2410, 16, 0x01, 0x01, 1, (.u 2), .rwIdle, false, false, 0xFFFF⟩ /- dir_way_mask -/,
  ⟨0x2410, 16, 0x02, 0x02, 1, (.u 4), .ro, false, false, 0x0⟩ /- dir_occupancy -/,
  ⟨0x2410, 16, 0x03, 0x03, 1, (.u 4), .ro, false, false, 0x0⟩ /- reconstructs -/,
  ⟨0x2410, 16, 0x04, 0x04, 1, (.u 4), .ro, false, false, 0x0⟩ /- poisoned -/,
  ⟨0x2402, 1, 0x00, 0x00, 1, (.u 1), .const, false, false, 0x9⟩ /- highest_sub -/,
  ⟨0x2402, 1, 0x01, 0x01, 1, (.u 4), .const, false, false, 0x20000⟩ /- proxy_lines -/,
  ⟨0x2402, 1, 0x02, 0x02, 1, (.u 1), .const, false, false, 0x10⟩ /- proxy_ways -/,
  ⟨0x2402, 1, 0x03, 0x03, 1, (.u 8), .ro, false, false, 0x0⟩ /- bisnp_sent -/,
  ⟨0x2402, 1, 0x04, 0x04, 1, (.u 4), .ro, false, false, 0x0⟩ /- bisnp_conflicts -/,
  ⟨0x2402, 1, 0x05, 0x05, 1, (.u 4), .ro, false, false, 0x0⟩ /- bisnp_timeouts -/,
  ⟨0x2402, 1, 0x06, 0x06, 1, (.u 8), .ro, false, false, 0x0⟩ /- host_snoops -/,
  ⟨0x2402, 1, 0x07, 0x07, 1, (.u 4), .ro, false, false, 0x0⟩ /- proxy_dirty_evicts -/]

/-- Rows 200 to 239 of the entry tables. -/
def entries5 : List Ent := [
  ⟨0x2402, 1, 0x08, 0x08, 1, (.u 4), .ro, false, false, 0x0⟩ /- proxy_lost -/,
  ⟨0x2402, 1, 0x09, 0x09, 1, (.u 8), .ro, false, false, 0x0⟩ /- coh_uncached -/,
  ⟨0x2420, 16, 0x00, 0x00, 1, (.u 1), .const, false, false, 0x3⟩ /- highest_sub -/,
  ⟨0x2420, 16, 0x01, 0x01, 1, (.u 2), .rwIdle, false, false, 0xFFFF⟩ /- proxy_way_mask -/,
  ⟨0x2420, 16, 0x02, 0x02, 1, (.u 1), .rwIdle, false, false, 0x0⟩ /- nosnoop -/,
  ⟨0x2420, 16, 0x03, 0x03, 1, (.u 4), .ro, false, false, 0x0⟩ /- proxy_occupancy -/,
  ⟨0x2900, 1, 0x00, 0x00, 1, (.u 1), .const, false, false, 0x4⟩ /- highest_sub -/,
  ⟨0x2900, 1, 0x01, 0x01, 1, (.u 2), .const, false, false, 0x1000⟩ /- spars -/,
  ⟨0x2900, 1, 0x02, 0x02, 1, (.u 2), .const, false, false, 0x400⟩ /- window_spars -/,
  ⟨0x2900, 1, 0x03, 0x03, 1, (.u 4), .ro, false, false, 0x0⟩ /- fire_latency_max -/,
  ⟨0x2900, 1, 0x04, 0x04, 1, (.u 4), .ro, false, false, 0x0⟩ /- remote_unknown -/,
  ⟨0x2910, 16, 0x00, 0x00, 1, (.u 1), .const, false, false, 0xA⟩ /- highest_sub -/,
  ⟨0x2910, 16, 0x01, 0x01, 1, (.u 8), .rwIdle, true, false, 0x0⟩ /- mirror_base -/,
  ⟨0x2910, 16, 0x02, 0x02, 1, (.u 2), .rw, true, false, 0x0⟩ /- spar_select -/,
  ⟨0x2910, 16, 0x03, 0x03, 1, (.u 8), .rw, true, false, 0x0⟩ /- spar_value -/,
  ⟨0x2910, 16, 0x04, 0x04, 1, (.u 8), .rw, true, false, 0x0⟩ /- spar_thresh -/,
  ⟨0x2910, 16, 0x05, 0x05, 1, (.u 8), .rw, true, false, 0x0⟩ /- spar_ctl -/,
  ⟨0x2910, 16, 0x06, 0x06, 1, (.u 4), .ro, false, false, 0x0⟩ /- fires -/,
  ⟨0x2910, 16, 0x07, 0x07, 1, (.u 8), .ro, false, false, 0x0⟩ /- mirror_writes -/,
  ⟨0x2910, 16, 0x08, 0x08, 1, (.u 4), .ro, false, false, 0x0⟩ /- mirror_faults -/,
  ⟨0x2910, 16, 0x09, 0x09, 1, (.u 4), .ro, false, false, 0x0⟩ /- remote_refused -/,
  ⟨0x2910, 16, 0x0A, 0x0A, 1, (.u 4), .ro, false, false, 0x0⟩ /- spar_refused -/,
  ⟨0x2680, 16, 0x00, 0x00, 1, (.u 1), .const, false, false, 0x7C⟩ /- highest_sub -/,
  ⟨0x2680, 16, 0x01, 0x71, 16, (.u 8), .rwIdle, true, false, 0x0⟩ /- cq_ring -/,
  ⟨0x2680, 16, 0x02, 0x72, 16, (.u 8), .rwIdle, true, false, 0x0⟩ /- cq_compl -/,
  ⟨0x2680, 16, 0x03, 0x73, 16, (.u 2), .rwIdle, true, false, 0x0⟩ /- cq_ctl -/,
  ⟨0x2680, 16, 0x04, 0x74, 16, (.u 1), .wo, true, false, 0x0⟩ /- cq_action -/,
  ⟨0x2680, 16, 0x05, 0x75, 16, (.u 1), .ro, false, false, 0x0⟩ /- cq_state -/,
  ⟨0x2680, 16, 0x06, 0x76, 16, (.u 8), .ro, false, false, 0x0⟩ /- cq_pos -/,
  ⟨0x2680, 16, 0x07, 0x77, 16, (.u 4), .ro, false, false, 0x0⟩ /- cq_producer -/,
  ⟨0x2680, 16, 0x08, 0x78, 16, (.u 8), .ro, false, false, 0x0⟩ /- cq_error -/,
  ⟨0x2680, 16, 0x79, 0x79, 1, (.u 8), .ro, false, false, 0x0⟩ /- cmds_started -/,
  ⟨0x2680, 16, 0x7A, 0x7A, 1, (.u 4), .ro, false, false, 0x0⟩ /- cmds_failed -/,
  ⟨0x2680, 16, 0x7B, 0x7B, 1, (.u 4), .ro, false, false, 0x0⟩ /- db_refused -/,
  ⟨0x2680, 16, 0x7C, 0x7C, 1, (.u 4), .ro, false, false, 0x0⟩ /- jobs_opened -/,
  ⟨0x2500, 1, 0x00, 0x00, 1, (.u 1), .const, false, false, 0x4⟩ /- highest_sub -/,
  ⟨0x2500, 1, 0x01, 0x01, 1, (.u 2), .const, false, false, 0x100⟩ /- channels -/,
  ⟨0x2500, 1, 0x02, 0x02, 1, (.u 2), .const, false, false, 0x80⟩ /- packing_channels -/,
  ⟨0x2500, 1, 0x03, 0x03, 1, (.u 4), .const, false, false, 0xFA00⟩ /- channel_rate -/,
  ⟨0x2500, 1, 0x04, 0x04, 1, (.u 4), .const, false, false, 0x10000⟩ /- chain_max -/]

/-- Rows 240 to 279 of the entry tables. -/
def entries6 : List Ent := [
  ⟨0x2510, 16, 0x00, 0x00, 1, (.u 1), .const, false, false, 0xA⟩ /- highest_sub -/,
  ⟨0x2510, 16, 0x01, 0x01, 1, (.u 2), .rw, true, false, 0x10000⟩ /- gt_select -/,
  ⟨0x2510, 16, 0x02, 0x02, 1, (.u 4), .ro, false, false, 0x0⟩ /- gt_status -/,
  ⟨0x2510, 16, 0x03, 0x03, 1, (.u 8), .ro, false, false, 0x0⟩ /- gt_desc -/,
  ⟨0x2510, 16, 0x04, 0x04, 1, (.u 8), .ro, false, false, 0x0⟩ /- gt_pos -/,
  ⟨0x2510, 16, 0x05, 0x05, 1, (.u 8), .ro, false, false, 0x0⟩ /- gt_addr -/,
  ⟨0x2510, 16, 0x06, 0x06, 1, (.u 8), .ro, false, false, 0x0⟩ /- gt_crc -/,
  ⟨0x2510, 16, 0x07, 0x07, 1, (.u 1), .wo, true, false, 0x0⟩ /- gt_action -/,
  ⟨0x2510, 16, 0x08, 0x08, 1, (.u 4), .ro, false, false, 0x0⟩ /- gt_errors -/,
  ⟨0x2510, 16, 0x09, 0x09, 1, (.u 4), .ro, false, false, 0x0⟩ /- crc_mismatch -/,
  ⟨0x2510, 16, 0x0A, 0x0A, 1, (.u 4), .ro, false, false, 0x0⟩ /- misaligned -/,
  ⟨0x2600, 1, 0x00, 0x00, 1, (.u 1), .const, false, false, 0xB⟩ /- highest_sub -/,
  ⟨0x2600, 1, 0x01, 0x01, 1, (.u 2), .const, false, false, 0x200⟩ /- courses -/,
  ⟨0x2600, 1, 0x02, 0x02, 1, (.u 1), .const, false, false, 0x40⟩ /- battens -/,
  ⟨0x2600, 1, 0x03, 0x03, 1, (.u 1), .const, false, false, 0x55⟩ /- admit_limit -/,
  ⟨0x2600, 1, 0x04, 0x04, 1, (.u 1), .const, false, false, 0x40⟩ /- burst -/,
  ⟨0x2600, 1, 0x05, 0x05, 1, (.u 1), .rw, false, false, 0x0⟩ /- res_select -/,
  ⟨0x2600, 1, 0x06, 0x06, 1, (.u 4), .ro, false, false, 0x0⟩ /- res_nominal -/,
  ⟨0x2600, 1, 0x07, 0x07, 1, (.u 4), .ro, false, false, 0x0⟩ /- res_derated -/,
  ⟨0x2600, 1, 0x08, 0x08, 1, (.u 4), .ro, false, false, 0x0⟩ /- res_admitted -/,
  ⟨0x2600, 1, 0x09, 0x09, 1, (.u 1), .ro, false, false, 0x0⟩ /- res_mode -/,
  ⟨0x2600, 1, 0x0A, 0x0A, 1, (.u 4), .ro, false, false, 0x0⟩ /- res_switches -/,
  ⟨0x2600, 1, 0x0B, 0x0B, 1, (.u 4), .const, false, false, 0x0⟩ /- res_latency -/,
  ⟨0x2610, 16, 0x00, 0x00, 1, (.u 1), .const, false, false, 0x15⟩ /- highest_sub -/,
  ⟨0x2610, 16, 0x01, 0x01, 1, (.u 2), .rw, true, false, 0x10000⟩ /- cs_select -/,
  ⟨0x2610, 16, 0x02, 0x02, 1, (.u 4), .ro, false, false, 0x0⟩ /- cs_status -/,
  ⟨0x2610, 16, 0x03, 0x03, 1, (.u 8), .ro, false, false, 0x0⟩ /- cs_pos -/,
  ⟨0x2610, 16, 0x04, 0x04, 1, (.u 8), .ro, false, false, 0x0⟩ /- cs_addr -/,
  ⟨0x2610, 16, 0x05, 0x05, 1, (.u 4), .ro, false, false, 0x0⟩ /- cs_rate -/,
  ⟨0x2610, 16, 0x06, 0x06, 1, (.u 4), .ro, false, false, 0x0⟩ /- misses -/,
  ⟨0x2610, 16, 0x07, 0x07, 1, (.u 4), .ro, false, false, 0x0⟩ /- rearm_overruns -/,
  ⟨0x2610, 16, 0x08, 0x0E, 1, (.u 8), .ro, false, false, 0x0⟩ /- stall_1–stall_7 -/,
  ⟨0x2610, 16, 0x10, 0x13, 1, (.u 4), .ro, false, false, 0x0⟩ /- adm_hbm, adm_host, adm_fabric, adm_loft -/,
  ⟨0x2610, 16, 0x14, 0x14, 1, (.u 4), .ro, false, false, 0x0⟩ /- deadline_short -/,
  ⟨0x2610, 16, 0x15, 0x15, 1, (.u 4), .ro, false, false, 0x0⟩ /- undeclared -/,
  ⟨0x2800, 1, 0x00, 0x00, 1, (.u 1), .const, false, false, 0xA⟩ /- highest_sub -/,
  ⟨0x2800, 1, 0x01, 0x01, 1, (.u 2), .const, false, false, 0x100⟩ /- cores -/,
  ⟨0x2800, 1, 0x02, 0x02, 1, (.u 2), .const, false, false, 0x640⟩ /- core_clock_max -/,
  ⟨0x2800, 1, 0x03, 0x03, 1, (.u 1), .const, false, false, 0x2A⟩ /- engines -/,
  ⟨0x2800, 1, 0x04, 0x04, 1, (.u 1), .const, false, false, 0x10⟩ /- l2_ways -/]

/-- Rows 280 to 319 of the entry tables. -/
def entries7 : List Ent := [
  ⟨0x2800, 1, 0x05, 0x05, 1, (.u 8), .ro, false, false, 0x0⟩ /- placements -/,
  ⟨0x2800, 1, 0x06, 0x06, 1, (.u 8), .ro, false, false, 0x0⟩ /- flash_outputs_all -/,
  ⟨0x2800, 1, 0x07, 0x07, 1, (.u 1), .rw, false, false, 0x0⟩ /- engine_select -/,
  ⟨0x2800, 1, 0x08, 0x08, 1, (.u 1), .ro, false, false, 0x0⟩ /- engine_state -/,
  ⟨0x2800, 1, 0x09, 0x09, 1, (.u 8), .ro, false, false, 0x0⟩ /- engine_ops -/,
  ⟨0x2800, 1, 0x0A, 0x0A, 1, (.u 4), .ro, false, false, 0x0⟩ /- engine_faults -/,
  ⟨0x2810, 16, 0x00, 0x00, 1, (.u 1), .const, false, false, 0x7⟩ /- highest_sub -/,
  ⟨0x2810, 16, 0x01, 0x01, 1, (.u 2), .rwIdle, false, false, 0xFFFF⟩ /- l2_way_mask -/,
  ⟨0x2810, 16, 0x02, 0x02, 1, (.u 2), .rwIdle, false, false, 0x10000⟩ /- flash_base -/,
  ⟨0x2810, 16, 0x03, 0x03, 1, (.u 2), .rwIdle, false, false, 0x0⟩ /- flash_count -/,
  ⟨0x2810, 16, 0x04, 0x04, 1, (.u 8), .ro, false, false, 0x0⟩ /- flash_outputs -/,
  ⟨0x2810, 16, 0x05, 0x05, 1, (.u 4), .ro, false, false, 0x0⟩ /- runs -/,
  ⟨0x2810, 16, 0x06, 0x06, 1, (.u 4), .ro, false, false, 0x0⟩ /- core_faults -/,
  ⟨0x2810, 16, 0x07, 0x07, 1, (.u 4), .ro, false, false, 0x0⟩ /- free_order_refused -/,
  ⟨0x2801, 1, 0x00, 0x00, 1, (.u 1), .const, false, false, 0x3⟩ /- highest_sub -/,
  ⟨0x2801, 1, 0x01, 0x01, 1, (.u 2), .const, false, false, 0x1⟩ /- arith_version -/,
  ⟨0x2801, 1, 0x02, 0x02, 1, (.u 1), .const, false, false, 0x10⟩ /- reduce_block -/,
  ⟨0x2801, 1, 0x03, 0x03, 1, (.u 4), .const, false, false, 0x7FC00000⟩ /- canonical_nan -/,
  ⟨0x2700, 1, 0x00, 0x00, 1, (.u 1), .const, false, false, 0x7⟩ /- highest_sub -/,
  ⟨0x2700, 1, 0x01, 0x01, 1, (.u 2), .const, false, false, 0x100⟩ /- arrays -/,
  ⟨0x2700, 1, 0x02, 0x02, 1, (.u 2), .const, false, false, 0x2710⟩ /- seat_budget -/,
  ⟨0x2700, 1, 0x03, 0x03, 1, (.u 2), .const, false, false, 0x1C20⟩ /- cal_period -/,
  ⟨0x2700, 1, 0x04, 0x04, 1, (.u 1), .const, false, false, 0x8⟩ /- cal_temp_delta -/,
  ⟨0x2700, 1, 0x05, 0x05, 1, (.u 4), .const, false, false, 0x100000⟩ /- cal_evals -/,
  ⟨0x2700, 1, 0x06, 0x06, 1, (.u 2), .const, false, false, 0x18⟩ /- resid_limit -/,
  ⟨0x2700, 1, 0x07, 0x07, 1, (.u 1), .const, false, false, 0x28⟩ /- plane_time -/,
  ⟨0x2710, 16, 0x00, 0x00, 1, (.u 1), .const, false, false, 0x13⟩ /- highest_sub -/,
  ⟨0x2710, 16, 0x01, 0x01, 1, (.u 2), .rw, true, false, 0x10000⟩ /- th_select -/,
  ⟨0x2710, 16, 0x02, 0x02, 1, (.u 1), .ro, false, false, 0x0⟩ /- th_state -/,
  ⟨0x2710, 16, 0x03, 0x03, 1, (.u 4), .ro, false, false, 0x0⟩ /- th_set -/,
  ⟨0x2710, 16, 0x04, 0x04, 1, (.u 8), .ro, false, false, 0x0⟩ /- th_shadow -/,
  ⟨0x2710, 16, 0x05, 0x05, 1, (.oct 48), .ro, false, false, 0x0⟩ /- th_digest -/,
  ⟨0x2710, 16, 0x06, 0x06, 1, (.u 2), .ro, false, false, 0x0⟩ /- th_seats -/,
  ⟨0x2710, 16, 0x07, 0x07, 1, (.u 1), .ro, false, false, 0x40⟩ /- spares_left -/,
  ⟨0x2710, 16, 0x08, 0x08, 1, (.u 8), .ro, false, false, 0x0⟩ /- evals_total -/,
  ⟨0x2710, 16, 0x09, 0x09, 1, (.u 4), .ro, false, false, 0x0⟩ /- evals_since_cal -/,
  ⟨0x2710, 16, 0x0A, 0x0A, 1, (.u 8), .ro, false, false, 0x0⟩ /- cal_last -/,
  ⟨0x2710, 16, 0x0B, 0x0B, 1, (.i 2), .ro, false, false, 0x0⟩ /- cal_temp -/,
  ⟨0x2710, 16, 0x0C, 0x0C, 1, (.u 4), .ro, false, false, 0x0⟩ /- cal_runs -/,
  ⟨0x2710, 16, 0x0D, 0x0D, 1, (.u 4), .ro, false, false, 0x0⟩ /- cal_overruns -/]

/-- Rows 320 to 359 of the entry tables. -/
def entries8 : List Ent := [
  ⟨0x2710, 16, 0x0E, 0x0E, 1, (.u 4), .ro, false, false, 0x0⟩ /- tv_misses -/,
  ⟨0x2710, 16, 0x0F, 0x0F, 1, (.u 4), .ro, false, false, 0x0⟩ /- trims -/,
  ⟨0x2710, 16, 0x10, 0x10, 1, (.u 2), .rw, true, false, 0x0⟩ /- pair_select -/,
  ⟨0x2710, 16, 0x11, 0x11, 1, (.u 4), .ro, false, false, 0x0⟩ /- pair_info -/,
  ⟨0x2710, 16, 0x12, 0x12, 1, (.u 1), .wo, true, false, 0x0⟩ /- cal_request -/,
  ⟨0x2710, 16, 0x13, 0x13, 1, (.u 4), .ro, false, false, 0x0⟩ /- retirements -/,
  ⟨0x2701, 1, 0x00, 0x00, 1, (.u 1), .const, false, false, 0x4⟩ /- highest_sub -/,
  ⟨0x2701, 1, 0x01, 0x01, 1, (.u 1), .const, false, false, 0x2⟩ /- bound_guard -/,
  ⟨0x2701, 1, 0x02, 0x02, 1, (.u 1), .const, false, false, 0x10⟩ /- alpha_a1 -/,
  ⟨0x2701, 1, 0x03, 0x03, 1, (.u 1), .const, false, false, 0xC⟩ /- alpha_a2 -/,
  ⟨0x2701, 1, 0x04, 0x04, 1, (.u 1), .const, false, false, 0x8⟩ /- alpha_a4 -/,
  ⟨0x2730, 16, 0x00, 0x00, 1, (.u 1), .const, false, false, 0x8⟩ /- highest_sub -/,
  ⟨0x2730, 16, 0x01, 0x01, 1, (.u 2), .rwIdle, false, false, 0x1000⟩ /- audit_interval -/,
  ⟨0x2730, 16, 0x02, 0x02, 1, (.u 8), .ro, false, false, 0x0⟩ /- certified -/,
  ⟨0x2730, 16, 0x03, 0x03, 1, (.u 8), .ro, false, false, 0x0⟩ /- flash_required -/,
  ⟨0x2730, 16, 0x04, 0x04, 1, (.u 8), .ro, false, false, 0x0⟩ /- flash_straddle -/,
  ⟨0x2730, 16, 0x05, 0x05, 1, (.u 4), .ro, false, false, 0x0⟩ /- flash_wrap -/,
  ⟨0x2730, 16, 0x06, 0x06, 1, (.u 8), .ro, false, false, 0x0⟩ /- audits -/,
  ⟨0x2730, 16, 0x07, 0x07, 1, (.u 4), .ro, false, false, 0x0⟩ /- bound_failures -/,
  ⟨0x2730, 16, 0x08, 0x08, 1, (.u 4), .ro, false, false, 0x0⟩ /- flash_pending_max -/,
  ⟨0x2C00, 1, 0x00, 0x00, 1, (.u 1), .const, false, false, 0x6⟩ /- highest_sub -/,
  ⟨0x2C00, 1, 0x01, 0x01, 1, (.u 2), .const, false, false, 0x1⟩ /- record_version -/,
  ⟨0x2C00, 1, 0x02, 0x02, 1, (.oct 96), .const, false, false, 0x0⟩ /- replay_pubkey -/,
  ⟨0x2C00, 1, 0x03, 0x03, 1, .dom, .ro, false, false, 0x0⟩ /- replay_cert -/,
  ⟨0x2C00, 1, 0x04, 0x04, 1, (.oct 16), .ro, false, false, 0x0⟩ /- boot_nonce -/,
  ⟨0x2C00, 1, 0x05, 0x05, 1, (.u 8), .ro, false, false, 0x0⟩ /- journal_seq -/,
  ⟨0x2C00, 1, 0x06, 0x06, 1, (.u 4), .ro, false, false, 0x0⟩ /- sign_latency_max -/,
  ⟨0x2C10, 16, 0x00, 0x00, 1, (.u 1), .const, false, false, 0xE⟩ /- highest_sub -/,
  ⟨0x2C10, 16, 0x01, 0x01, 1, (.u 8), .rw, true, false, 0x0⟩ /- sink_base -/,
  ⟨0x2C10, 16, 0x02, 0x02, 1, (.u 4), .rw, true, false, 0x0⟩ /- sink_ctl -/,
  ⟨0x2C10, 16, 0x03, 0x03, 1, (.u 8), .rw, true, false, 0x0⟩ /- sink_head_dva -/,
  ⟨0x2C10, 16, 0x04, 0x04, 1, (.u 8), .rw, true, false, 0x0⟩ /- sink_read -/,
  ⟨0x2C10, 16, 0x05, 0x05, 1, (.u 8), .ro, false, false, 0x0⟩ /- sink_write -/,
  ⟨0x2C10, 16, 0x06, 0x06, 1, (.u 1), .ro, false, false, 0x0⟩ /- sink_state -/,
  ⟨0x2C10, 16, 0x07, 0x07, 1, (.u 4), .ro, false, false, 0x0⟩ /- held_bytes -/,
  ⟨0x2C10, 16, 0x08, 0x08, 1, (.u 4), .ro, false, false, 0x0⟩ /- sink_lost -/,
  ⟨0x2C10, 16, 0x09, 0x09, 1, (.u 2), .rw, true, false, 0xFFFF⟩ /- sink_spar -/,
  ⟨0x2C10, 16, 0x0A, 0x0A, 1, (.u 1), .ro, false, false, 0x0⟩ /- job_state -/,
  ⟨0x2C10, 16, 0x0B, 0x0B, 1, (.u 8), .ro, false, false, 0x0⟩ /- job_id -/,
  ⟨0x2C10, 16, 0x0C, 0x0C, 1, (.u 4), .ro, false, false, 0x0⟩ /- attempt -/]

/-- Rows 360 to 399 of the entry tables. -/
def entries9 : List Ent := [
  ⟨0x2C10, 16, 0x0D, 0x0D, 1, (.u 4), .ro, false, false, 0x0⟩ /- layers -/,
  ⟨0x2C10, 16, 0x0E, 0x0E, 1, (.u 4), .ro, false, false, 0x0⟩ /- restarts -/,
  ⟨0x2A00, 1, 0x00, 0x00, 1, (.u 1), .const, false, false, 0x10⟩ /- highest_sub -/,
  ⟨0x2A00, 1, 0x01, 0x01, 1, (.u 2), .ro, false, false, 0xFFFF⟩ /- fab_id -/,
  ⟨0x2A00, 1, 0x02, 0x02, 1, (.u 2), .rw, false, true, 0xFFFF⟩ /- fm_id -/,
  ⟨0x2A00, 1, 0x03, 0x03, 1, (.u 2), .ro, false, false, 0xFFFF⟩ /- fm_latched -/,
  ⟨0x2A00, 1, 0x04, 0x04, 1, (.u 2), .rw, false, true, 0x88B5⟩ /- ethertype -/,
  ⟨0x2A00, 1, 0x05, 0x05, 1, (.u 1), .rw, false, true, 0x20⟩ /- hops_initial -/,
  ⟨0x2A00, 1, 0x06, 0x06, 1, (.u 2), .rw, false, true, 0x7D0⟩ /- remote_timeout -/,
  ⟨0x2A00, 1, 0x07, 0x07, 1, (.u 2), .rw, false, false, 0x0⟩ /- route_select -/,
  ⟨0x2A00, 1, 0x08, 0x08, 1, (.u 2), .rw, false, false, 0x0⟩ /- route_mask -/,
  ⟨0x2A00, 1, 0x09, 0x09, 1, (.u 4), .ro, false, false, 0x0⟩ /- no_route -/,
  ⟨0x2A00, 1, 0x0A, 0x0A, 1, (.u 4), .ro, false, false, 0x0⟩ /- hop_drops -/,
  ⟨0x2A00, 1, 0x0B, 0x0B, 1, (.u 1), .rw, false, true, 0x0⟩ /- ptp_domain -/,
  ⟨0x2A00, 1, 0x0C, 0x0C, 1, (.u 1), .rw, false, true, 0x0⟩ /- ptp_source -/,
  ⟨0x2A00, 1, 0x0D, 0x0D, 1, (.u 1), .ro, false, false, 0x0⟩ /- ptp_state -/,
  ⟨0x2A00, 1, 0x0E, 0x0E, 1, (.u 1), .ro, false, false, 0xFF⟩ /- ptp_port -/,
  ⟨0x2A00, 1, 0x0F, 0x0F, 1, (.i 8), .ro, false, false, 0x0⟩ /- ptp_offset -/,
  ⟨0x2A00, 1, 0x10, 0x10, 1, (.i 4), .ro, false, false, 0x0⟩ /- ptp_rate -/,
  ⟨0x2A20, 12, 0x00, 0x00, 1, (.u 1), .const, false, false, 0x11⟩ /- highest_sub -/,
  ⟨0x2A20, 12, 0x01, 0x01, 1, (.u 1), .rw, false, true, 0x0⟩ /- port_enable -/,
  ⟨0x2A20, 12, 0x02, 0x02, 1, (.u 1), .rw, false, true, 0x0⟩ /- port_mode -/,
  ⟨0x2A20, 12, 0x03, 0x03, 1, (.u 1), .ro, false, false, 0x0⟩ /- port_state -/,
  ⟨0x2A20, 12, 0x04, 0x04, 1, (.u 4), .ro, false, false, 0x0⟩ /- neighbour -/,
  ⟨0x2A20, 12, 0x05, 0x05, 1, (.u 1), .wo, false, false, 0x0⟩ /- port_ctl -/,
  ⟨0x2A20, 12, 0x06, 0x06, 1, (.u 4), .ro, false, false, 0x0⟩ /- violations -/,
  ⟨0x2A20, 12, 0x07, 0x07, 1, (.u 4), .ro, false, false, 0x0⟩ /- last_viol -/,
  ⟨0x2A20, 12, 0x08, 0x08, 1, (.u 4), .ro, false, false, 0x0⟩ /- quarantines -/,
  ⟨0x2A20, 12, 0x09, 0x09, 1, (.u 4), .ro, false, false, 0x0⟩ /- link_retries -/,
  ⟨0x2A20, 12, 0x0A, 0x0A, 1, (.u 4), .ro, false, false, 0x0⟩ /- dup_id -/,
  ⟨0x2A20, 12, 0x0B, 0x0B, 1, (.oct 6), .ro, false, false, 0x0⟩ /- mac -/,
  ⟨0x2A20, 12, 0x0C, 0x0C, 1, (.u 4), .rw, false, true, 0x0⟩ /- ipv4 -/,
  ⟨0x2A20, 12, 0x0D, 0x0D, 1, (.oct 16), .rw, false, true, 0x0⟩ /- ipv6 -/,
  ⟨0x2A20, 12, 0x0E, 0x0E, 1, (.u 1), .rw, false, true, 0x3⟩ /- pfc_priority -/,
  ⟨0x2A20, 12, 0x0F, 0x0F, 1, (.u 8), .ro, false, false, 0x0⟩ /- rx_frames -/,
  ⟨0x2A20, 12, 0x10, 0x10, 1, (.u 8), .ro, false, false, 0x0⟩ /- tx_frames -/,
  ⟨0x2A20, 12, 0x11, 0x11, 1, (.u 4), .ro, false, false, 0x0⟩ /- rx_errors -/,
  ⟨0x2A40, 16, 0x00, 0x00, 1, (.u 1), .const, false, false, 0x14⟩ /- highest_sub -/,
  ⟨0x2A40, 16, 0x01, 0x01, 1, (.u 2), .rwIdle, false, false, 0xFFFF⟩ /- owner_id -/,
  ⟨0x2A40, 16, 0x02, 0x02, 1, (.u 2), .rwIdle, false, false, 0x1E⟩ /- hb_timeout -/]

/-- Rows 400 to 439 of the entry tables. -/
def entries10 : List Ent := [
  ⟨0x2A40, 16, 0x03, 0x03, 1, (.u 8), .ro, false, false, 0x0⟩ /- hb_last -/,
  ⟨0x2A40, 16, 0x04, 0x04, 1, (.u 4), .ro, false, false, 0x0⟩ /- ctl_refused -/,
  ⟨0x2A40, 16, 0x05, 0x14, 1, (.u 4), .rwIdle, true, false, 0x0⟩ /- fabric_key -/,
  ⟨0x2A80, 1, 0x00, 0x00, 1, (.u 1), .const, false, false, 0x5⟩ /- highest_sub -/,
  ⟨0x2A80, 1, 0x01, 0x01, 1, (.u 4), .const, false, false, 0x100⟩ /- aperture_size -/,
  ⟨0x2A80, 1, 0x02, 0x02, 1, (.u 1), .const, false, false, 0x10⟩ /- regions_per_bay -/,
  ⟨0x2A80, 1, 0x03, 0x03, 1, (.u 1), .const, false, false, 0x4⟩ /- qps_per_bay -/,
  ⟨0x2A80, 1, 0x04, 0x04, 1, (.u 4), .ro, false, false, 0x0⟩ /- place_unknown -/,
  ⟨0x2A80, 1, 0x05, 0x05, 1, (.u 4), .ro, false, false, 0x0⟩ /- roce_dropped -/,
  ⟨0x2A60, 16, 0x00, 0x00, 1, (.u 1), .const, false, false, 0x10⟩ /- highest_sub -/,
  ⟨0x2A60, 16, 0x01, 0x01, 1, (.u 1), .rw, true, false, 0x0⟩ /- reg_select -/,
  ⟨0x2A60, 16, 0x02, 0x02, 1, (.u 8), .rw, true, false, 0x0⟩ /- reg_base -/,
  ⟨0x2A60, 16, 0x03, 0x03, 1, (.u 8), .rw, true, false, 0x0⟩ /- reg_ctl -/,
  ⟨0x2A60, 16, 0x04, 0x04, 1, (.u 2), .rw, true, false, 0xFFFF⟩ /- reg_spar -/,
  ⟨0x2A60, 16, 0x05, 0x05, 1, (.u 1), .ro, false, false, 0x0⟩ /- reg_state -/,
  ⟨0x2A60, 16, 0x06, 0x06, 1, (.u 8), .ro, false, false, 0x0⟩ /- reg_arrived -/,
  ⟨0x2A60, 16, 0x07, 0x07, 1, (.u 4), .ro, false, false, 0x0⟩ /- reg_pages_arrived -/,
  ⟨0x2A60, 16, 0x08, 0x08, 1, (.u 4), .ro, false, false, 0x0⟩ /- reg_refused -/,
  ⟨0x2A60, 16, 0x09, 0x0F, 2, (.u 8), .rwIdle, true, false, 0x0⟩ /- qp_conf -/,
  ⟨0x2A60, 16, 0x0A, 0x10, 2, (.oct 16), .rwIdle, true, false, 0x0⟩ /- qp_remote -/,
  ⟨0x2B00, 1, 0x00, 0x00, 1, (.u 1), .const, false, false, 0xC⟩ /- highest_sub -/,
  ⟨0x2B00, 1, 0x01, 0x01, 1, (.u 2), .const, false, false, 0x15E⟩ /- islands -/,
  ⟨0x2B00, 1, 0x02, 0x02, 1, (.u 1), .const, false, false, 0x18⟩ /- domains -/,
  ⟨0x2B00, 1, 0x03, 0x03, 1, (.u 1), .rw, false, false, 0x0⟩ /- loop_freeze -/,
  ⟨0x2B00, 1, 0x04, 0x04, 1, (.u 2), .rw, false, true, 0x2BC⟩ /- power_limit -/,
  ⟨0x2B00, 1, 0x05, 0x05, 1, (.u 1), .rw, false, true, 0x0⟩ /- gate_enable -/,
  ⟨0x2B00, 1, 0x06, 0x06, 1, (.u 1), .const, false, false, 0x32⟩ /- rail_headroom -/,
  ⟨0x2B00, 1, 0x07, 0x07, 1, (.u 4), .ro, false, false, 0x0⟩ /- avs_failures -/,
  ⟨0x2B00, 1, 0x08, 0x08, 1, (.u 1), .ro, false, false, 0x0⟩ /- sense_state -/,
  ⟨0x2B00, 1, 0x09, 0x09, 1, (.u 4), .ro, false, false, 0x0⟩ /- sense_faults -/,
  ⟨0x2B00, 1, 0x0A, 0x0A, 1, (.u 1), .wo, false, false, 0x0⟩ /- sense_clear -/,
  ⟨0x2B00, 1, 0x0B, 0x0B, 1, (.u 2), .const, false, false, 0xA⟩ /- close_window -/,
  ⟨0x2B00, 1, 0x0C, 0x0C, 1, (.u 8), .ro, false, false, 0x0⟩ /- stretch_events -/,
  ⟨0x2B01, 1, 0x00, 0x00, 1, (.u 1), .const, false, false, 0x4⟩ /- highest_sub -/,
  ⟨0x2B01, 1, 0x01, 0x01, 1, (.u 1), .rw, false, false, 0x0⟩ /- domain_select -/,
  ⟨0x2B01, 1, 0x02, 0x02, 1, (.u 2), .ro, false, false, 0x0⟩ /- domain_mv -/,
  ⟨0x2B01, 1, 0x03, 0x03, 1, (.u 2), .ro, false, false, 0x0⟩ /- domain_request -/,
  ⟨0x2B01, 1, 0x04, 0x04, 1, (.u 2), .rw, false, false, 0x0⟩ /- domain_override -/,
  ⟨0x2B02, 1, 0x00, 0x00, 1, (.u 1), .const, false, false, 0xF⟩ /- highest_sub -/,
  ⟨0x2B02, 1, 0x01, 0x01, 1, (.u 2), .rw, false, false, 0x0⟩ /- island_select -/]

/-- Rows 440 to 479 of the entry tables. -/
def entries11 : List Ent := [
  ⟨0x2B02, 1, 0x02, 0x02, 1, (.u 1), .ro, false, false, 0x0⟩ /- island_state -/,
  ⟨0x2B02, 1, 0x03, 0x03, 1, (.u 1), .wo, false, false, 0x0⟩ /- island_ctl -/,
  ⟨0x2B02, 1, 0x04, 0x04, 1, (.u 2), .ro, false, false, 0x100⟩ /- clock_ratio -/,
  ⟨0x2B02, 1, 0x05, 0x05, 1, (.u 2), .rw, false, false, 0x0⟩ /- ratio_override -/,
  ⟨0x2B02, 1, 0x06, 0x06, 1, (.i 2), .ro, false, false, 0x0⟩ /- island_temp -/,
  ⟨0x2B02, 1, 0x07, 0x07, 1, (.i 2), .ro, false, false, 0x0⟩ /- cpm_slack -/,
  ⟨0x2B02, 1, 0x08, 0x08, 1, (.u 4), .ro, false, false, 0x0⟩ /- closes -/,
  ⟨0x2B02, 1, 0x09, 0x09, 1, (.u 4), .ro, false, false, 0x0⟩ /- gone_sent -/,
  ⟨0x2B02, 1, 0x0A, 0x0A, 1, (.u 4), .ro, false, false, 0x0⟩ /- retry_sent -/,
  ⟨0x2B02, 1, 0x0B, 0x0B, 1, (.u 4), .ro, false, false, 0x0⟩ /- replies_dropped -/,
  ⟨0x2B02, 1, 0x0C, 0x0C, 1, (.u 4), .ro, false, false, 0x0⟩ /- retrains -/,
  ⟨0x2B02, 1, 0x0D, 0x0D, 1, (.u 4), .ro, false, false, 0x0⟩ /- retrain_overruns -/,
  ⟨0x2B02, 1, 0x0E, 0x0E, 1, (.u 4), .ro, false, false, 0x0⟩ /- stretches -/,
  ⟨0x2B02, 1, 0x0F, 0x0F, 1, (.u 1), .const, false, false, 0x0⟩ /- domain -/,
  ⟨0x2B03, 1, 0x00, 0x00, 1, (.u 1), .const, false, false, 0x8⟩ /- highest_sub -/,
  ⟨0x2B03, 1, 0x01, 0x01, 1, (.u 4), .rw, false, false, 0x15180⟩ /- scrub_interval -/,
  ⟨0x2B03, 1, 0x02, 0x02, 1, (.u 1), .rw, false, false, 0x0⟩ /- scrub_select -/,
  ⟨0x2B03, 1, 0x03, 0x03, 1, (.u 1), .wo, false, false, 0x0⟩ /- scrub_request -/,
  ⟨0x2B03, 1, 0x04, 0x04, 1, (.u 1), .ro, false, false, 0x0⟩ /- scrub_state -/,
  ⟨0x2B03, 1, 0x05, 0x05, 1, (.u 4), .ro, false, false, 0x0⟩ /- scrub_passes -/,
  ⟨0x2B03, 1, 0x06, 0x06, 1, (.u 4), .ro, false, false, 0x0⟩ /- scrub_overruns -/,
  ⟨0x2B03, 1, 0x07, 0x07, 1, (.u 8), .ro, false, false, 0x0⟩ /- scrub_corrected -/,
  ⟨0x2B03, 1, 0x08, 0x08, 1, (.u 4), .ro, false, false, 0x0⟩ /- scrub_uncorrected -/,
  ⟨0x2D00, 1, 0x00, 0x00, 1, (.u 1), .const, false, false, 0xA⟩ /- highest_sub -/,
  ⟨0x2D00, 1, 0x01, 0x01, 1, (.u 8), .ro, false, false, 0x0⟩ /- log_head -/,
  ⟨0x2D00, 1, 0x02, 0x02, 1, (.u 8), .rw, false, false, 0x0⟩ /- log_select -/,
  ⟨0x2D00, 1, 0x03, 0x03, 1, (.oct 64), .ro, false, false, 0x0⟩ /- log_record -/,
  ⟨0x2D00, 1, 0x04, 0x04, 1, (.u 8), .ro, false, false, 0x0⟩ /- faults_corrected -/,
  ⟨0x2D00, 1, 0x05, 0x05, 1, (.u 4), .ro, false, false, 0x0⟩ /- faults_retried -/,
  ⟨0x2D00, 1, 0x06, 0x06, 1, (.u 4), .ro, false, false, 0x0⟩ /- faults_job -/,
  ⟨0x2D00, 1, 0x07, 0x07, 1, (.u 4), .ro, false, false, 0x0⟩ /- faults_bay -/,
  ⟨0x2D00, 1, 0x08, 0x08, 1, (.u 4), .ro, false, false, 0x0⟩ /- faults_device -/,
  ⟨0x2D00, 1, 0x09, 0x09, 1, (.u 4), .ro, false, false, 0x0⟩ /- events -/,
  ⟨0x2D00, 1, 0x0A, 0x0A, 1, (.u 2), .const, false, false, 0x400⟩ /- log_size -/,
  ⟨0x2D10, 16, 0x00, 0x00, 1, (.u 1), .const, false, false, 0x8⟩ /- highest_sub -/,
  ⟨0x2D10, 16, 0x01, 0x01, 1, (.u 1), .rwIdle, false, false, 0x3⟩ /- restart_limit -/,
  ⟨0x2D10, 16, 0x02, 0x02, 1, (.oct 16), .wo, true, false, 0x0⟩ /- reattach -/,
  ⟨0x2D10, 16, 0x03, 0x03, 1, (.u 4), .ro, false, false, 0x0⟩ /- reattach_refused -/,
  ⟨0x2D10, 16, 0x04, 0x04, 1, (.u 4), .ro, false, false, 0x0⟩ /- reattaches -/,
  ⟨0x2D10, 16, 0x05, 0x05, 1, (.u 8), .rw, true, false, 0x0⟩ /- bay_log_select -/]

/-- Rows 480 to 495 of the entry tables. -/
def entries12 : List Ent := [
  ⟨0x2D10, 16, 0x06, 0x06, 1, (.oct 64), .ro, false, false, 0x0⟩ /- bay_log_record -/,
  ⟨0x2D10, 16, 0x07, 0x07, 1, (.u 4), .ro, false, false, 0x0⟩ /- job_faults -/,
  ⟨0x2D10, 16, 0x08, 0x08, 1, (.u 8), .ro, false, false, 0x0⟩ /- last_fault_seq -/,
  ⟨0x2D20, 16, 0x00, 0x00, 1, (.u 1), .const, false, false, 0xC⟩ /- highest_sub -/,
  ⟨0x2D20, 16, 0x01, 0x01, 1, (.u 1), .rwIdle, false, false, 0x0⟩ /- ckpt_enable -/,
  ⟨0x2D20, 16, 0x02, 0x02, 1, (.u 2), .rwIdle, false, false, 0xFFFF⟩ /- ckpt_peer -/,
  ⟨0x2D20, 16, 0x03, 0x03, 1, (.u 2), .rwIdle, false, false, 0x0⟩ /- ckpt_key -/,
  ⟨0x2D20, 16, 0x04, 0x04, 1, (.u 8), .rwIdle, false, false, 0x0⟩ /- ckpt_dst -/,
  ⟨0x2D20, 16, 0x05, 0x05, 1, (.u 1), .rwIdle, false, false, 0x10⟩ /- ckpt_slot_log2 -/,
  ⟨0x2D20, 16, 0x06, 0x06, 1, (.u 8), .rwIdle, false, false, 0x0⟩ /- ckpt_list -/,
  ⟨0x2D20, 16, 0x07, 0x07, 1, (.u 1), .rwIdle, false, false, 0x1⟩ /- ckpt_count -/,
  ⟨0x2D20, 16, 0x08, 0x08, 1, (.u 2), .rwIdle, false, false, 0xFFFF⟩ /- ckpt_spar -/,
  ⟨0x2D20, 16, 0x09, 0x09, 1, (.u 2), .rwIdle, false, false, 0x0⟩ /- ckpt_sig_key -/,
  ⟨0x2D20, 16, 0x0A, 0x0A, 1, (.u 8), .ro, false, false, 0x0⟩ /- ckpt_seq -/,
  ⟨0x2D20, 16, 0x0B, 0x0B, 1, (.u 4), .ro, false, false, 0x0⟩ /- ckpt_layer -/,
  ⟨0x2D20, 16, 0x0C, 0x0C, 1, (.u 4), .ro, false, false, 0x0⟩ /- ckpt_failed -/]

/-- The whole dictionary (R676). -/
def entries : List Ent :=
  entries0 ++ entries1 ++ entries2 ++ entries3 ++ entries4 ++ entries5 ++ entries6 ++ entries7 ++ entries8 ++ entries9 ++ entries10 ++ entries11 ++ entries12

/-- Does the row hold the entry (index, subindex)? -/
def Ent.holds (t : Ent) (idx sub : Nat) : Bool :=
  t.base ≤ idx && idx < t.base + t.fam && t.lo ≤ sub && sub ≤ t.hi && (sub - t.lo) % t.stride == 0

/-- The row of an entry, if the device provides it (R676). -/
def entryOf (idx sub : Nat) : Option Ent := entries.find? (·.holds idx sub)

/-- Does the device provide the index at all (check 1 of R99)? -/
def indexExists (idx : Nat) : Bool := entries.any fun t => t.base ≤ idx && idx < t.base + t.fam

/-- The value an entry has before anything writes it. -/
def odDefault (idx sub : Nat) : Nat := match entryOf idx sub with | some t => t.dflt | none => 0

end Sys2Proof.Machine
end

