-- ==== Sys2Proof/Machine/State.lean ====
section
/-! DEFINITION. The state of the IZ-880 as plain data: every register, table, queue, buffer, mode and pin the spec gives
the device, and the queue of waiting commands. The default of each field is its value at reset. Tables keyed by an object
number are sparse: a list of (number, object) pairs, strictly rising, that lists no object equal to its default. -/
namespace Sys2Proof.Machine

/-- A sparse table keyed by object number, address or line. -/
abbrev SMap (α : Type) := List (Nat × α)

/-- An agent that issues translated accesses or remote requests (R237, R248, R329, R346). -/
inductive Who where
  | gutter (c : Nat) | course (c : Nat) | core (c : Nat) | engine (g : Nat) | queue (k : Nat) | cmd (k p : Nat)
  | mirror (s : Nat) | sink (n : Nat) | ckpt (n : Nat) | job (n i : Nat) | walker (id : Nat) | record (n : Nat) | sky (n : Nat) | place (i : Nat)
deriving DecidableEq, Repr

/-- Table — Boot states (R59). -/
inductive BootSt where
  | reset | rom | recovery | powering | training | joining | ready | failed
deriving DecidableEq, Repr

/-- What survives the loss of standby power: the SPI NOR, the fuses and the metadata rows of the Thatch arrays. -/
structure Nv where
  /-- the SPI NOR contents: directory copies, image slots, store banks (R60 to R62, R115) -/
  flash : Flash := {}
  /-- 32 bits, fused minimum SVN, OD 0x2001.07 (R65, R124) -/
  fuseSvn : Nat := 0
  /-- 4 bits, key-revocation mask in fuses (R65) -/
  revoked : BitVec 4 := 0
  /-- four SHA-384 hashes of the root keys in fuses (R65) -/
  keyHash : SMap (List Byte) := []
  /-- 16 bits per array, seat counts kept in each array's metadata row, OD 0x2710+n.06 (R493) -/
  seats : SMap Nat := []
  /-- the weights in each array's cells, as last seated or trimmed: the bytes of its shadow (R83, R493) -/
  cells : SMap (List Byte) := []
  /-- 1 bit, a restore is due at the next cold start (R118) -/
  restoreDue : Bool := false
deriving DecidableEq, Repr

/-- The states of the boundary-scan controller (R35; IEEE 1149.1: PRESUMED, log entry 58). -/
inductive Tap where
  | reset | idle | selectDr | captureDr | shiftDr | exit1Dr | pauseDr | exit2Dr | updateDr
  | selectIr | captureIr | shiftIr | exit1Ir | pauseIr | exit2Ir | updateIr
deriving DecidableEq, Repr

/-- The board edge: pins, straps, rails, temperatures (chapter 02). -/
structure Board where
  /-- 1 bit, SYS_RST_N high (R53) -/
  rstN : Bool := false
  /-- 1 bit, the three standby rails are in range (R41) -/
  standby : Bool := false
  /-- up to eight samples of the 23 strap pins (R36) -/
  samples : List (BitVec 23) := []
  /-- 1 bit, straps latched (R36) -/
  latched : Bool := false
  /-- 23 bits, latched straps, OD 0x2E00.01 (R36, R57) -/
  strapRaw : BitVec 23 := 0
  /-- 23 bits, OD 0x2E00.07 strap_unstable (R36) -/
  unstable : BitVec 23 := 0
  /-- 3 bits, OD 0x2E00.08 strap_notes (R38) -/
  notes : BitVec 3 := 0
  /-- 1 bit, MAIN_PWR_REQ_N driven low (R33, R75) -/
  mainPwrReq : Bool := false
  /-- 1 bit, MAIN_PG high (R42) -/
  mainPg : Bool := false
  /-- 1 bit, THERM_TRIP_N driven low (R46, R47) -/
  thermTrip : Bool := false
  /-- 1 bit, PERST_N high (R55, R77) -/
  perst : Bool := false
  /-- 1 bit, the Eave is ready (R77) -/
  eaveReady : Bool := false
  /-- 1 bit, VR_HOT_N has been low for 1 µs (R48) -/
  vrHot : Bool := false
  /-- 16 bits, the SMBus status bits that have been read since they were last clear: `SMB_ALERT_N` is low while a set bit is not
  among them (R33, R49) -/
  smbSeen : Nat := 0
  /-- island sensors, 0.125 °C (R649) -/
  islandTemp : SMap Int := []
  /-- island sensors as the placement loop sampled them (R628, R640) -/
  placeTemp : SMap Int := []
  /-- HBM stack sensors, 0.125 °C (R46) -/
  hbmTemp : SMap Int := []
  /-- HBM stacks whose bandwidth is halved (R46) -/
  throttled : List Nat := []
  /-- ppm of HBM cycles spent on ECC retries in the last 1 ms: e of R401 -/
  eccRetryPpm : Nat := 0
  /-- 1 bit, CAN port 0/1 in bus-off (R105) -/
  busOff : SMap Bool := []
  /-- the transmit and the receive error counter of CAN port 0/1 (R105) -/
  txErr : SMap Nat := []
  rxErr : SMap Nat := []
  /-- the tick of the last MAIN_PG fall that was recorded as a fault (R52, R56) -/
  fellAt : Option Nat := none
  /-- 1 bit, TRST_N high (R34, R35) -/
  trstN : Bool := false
  /-- the boundary-scan controller (R35) -/
  tap : Tap := .reset
deriving DecidableEq, Repr

/-- From cold to first command (chapter 03). -/
structure Boot where
  /-- 8 bits, OD 0x2001.01 boot_state (R59) -/
  st : BootSt := .reset
  /-- slots not yet tried in this pass through ROM, first first (R63, R66, R67) -/
  tries : List Nat := []
  /-- 8 bits, OD 0x2001.02 boot_slot (R91) -/
  slot : Nat := 0xFF
  /-- the image that booted (R69, R91) -/
  image : Image := {}
  /-- 384 bits, OD 0x2001.08 fw_digest (R69) -/
  fwDigest : List Byte := List.replicate 48 0
  /-- 64 bits, OD 0x2001.09 ready_time (R81) -/
  readyTime : Nat := 0
  /-- 32 bits, OD 0x2001.0A boot_restarts (R67) -/
  restarts : Nat := 0
  /-- 1 bit, the management firmware runs the dictionary server (R74) -/
  firmware : Bool := false
  /-- 1 bit, the management firmware has started in this span: the store's values stand (R96, R116) -/
  started : Bool := false
  /-- 1 bit, the ROM's restricted server runs (R73) -/
  restricted : Bool := false
  /-- deadline of MAIN_PG after POWERING (R75) -/
  pgDeadline : Option Nat := none
  /-- deadline of the boot watchdog (R86) -/
  watchdog : Option Nat := none
  /-- time the paused watchdog has left (R86) -/
  watchdogLeft : Nat := 0
  /-- 1 bit, the device waits for MAIN_PG low to return to ROM (R67, R87) -/
  waitPgLow : Bool := false
  /-- failed trainings per HBM stack (R76) -/
  trainFails : SMap Nat := []
  /-- HBM stacks trained (R76) -/
  trained : List Nat := []
  /-- 1 bit, HBM zeroed (R76, R81) -/
  zeroed : Bool := false
  /-- 1 bit, D section checked (R67, R81) -/
  dOk : Bool := false
  /-- failures with cause 9 in this boot (R67) -/
  dFails : Nat := 0
deriving DecidableEq, Repr

/-- What a dictionary request asks (R107, R113). -/
inductive OdOp where
  | read | write | append
deriving DecidableEq, Repr

/-- A request waiting at the dictionary server (R114). -/
structure Req where
  route : Route
  op : OdOp
  idx : Nat
  sub : Nat
  off : Nat := 0
  len : Nat := 0
  tag : Nat := 0
  data : List Byte := []
  /-- the tick of its arrival -/
  time : Nat := 0
  /-- the MODEL's own: a row carries it whole, so that it is served on its tick (log entry 9) -/
  row : Bool := false
  /-- the image that the row carries (R71, R121), and the sense pairs that it says read intact (R637) -/
  img : Option Image := none
  intact : Option (List Nat) := none
  /-- how its service ends (R117, R118, R125, R128) -/
  served : Served := .done
deriving DecidableEq, Repr

/-- An open transfer: a USDO transfer on a port (R101), which holds what is received of a write or what is still to go out of a read,
or a DOMAIN write through a window (R113). -/
structure Xfer where
  idx : Nat
  sub : Nat
  write : Bool
  data : List Byte := []
  deadline : Nat
  /-- the route of its last chunk, as its change record shows it (R119) -/
  route : Route := .pf
deriving DecidableEq, Repr

/-- A dictionary window (Table — Dictionary window, R107). -/
structure Win where
  addr : W32 := 0
  len : W32 := 0
  off : W32 := 0
  tag : W32 := 0
  busy : Bool := false
  done : Bool := false
  rejected : Bool := false
  status : Nat := 0
  echo : Nat := 0
  abort : Nat := 0
  rlen : Nat := 0
  data : SMap Byte := []
  xfer : Option Xfer := none
  dropped : Bool := false
deriving DecidableEq, Repr

/-- A record of the journal of changes (Table — Change record, R119). -/
structure ChangeRec where
  seq : Nat
  time : Nat
  idx : Nat
  sub : Nat
  principal : Nat
  status : Nat
  crc : Nat
deriving DecidableEq, Repr

/-- The dictionary server (chapter 04). -/
structure Server where
  /-- the entries' values, keyed index × 256 + subindex: configuration and counters (R92, R676) -/
  od : SMap Nat := []
  /-- requests in arrival order (R114) -/
  reqs : List Req := []
  /-- the transfer open on each CAN FD port (R101) -/
  usdo : SMap (Option Xfer) := []
  /-- the dictionary windows, by function (R107) -/
  wins : SMap Win := []
  /-- the last 1,024 change records, newest first (R119) -/
  ring : List ChangeRec := []
  /-- OD 0x2003.01 journal_head (R119) -/
  seq : Nat := 0
  /-- the image being staged, or staged (R121) -/
  stageImg : Option Image := none
  /-- 1 bit, an accepted activation has not yet started the staged M section (R123) -/
  activating : Bool := false
  /-- the save that runs: its route, and the banks as it leaves them (R117, R118) -/
  saving : Option (Route × List Byte × List Byte) := none
  /-- the nominal and the data-phase bit rate in force on both CAN FD ports [kbit/s]; 0 while no server runs (R73, R74, R106) -/
  nominal : Nat := 0
  dataRate : Nat := 0
deriving DecidableEq, Repr

/-- One contiguous range of object numbers (R138). -/
structure Rng where
  base : Nat := 0
  count : Nat := 0
deriving DecidableEq, Repr

/-- The ranges a Bay holds (Table — Quota units, R138). -/
structure Ranges where
  hbm : Rng := {}
  loft : Rng := {}
  core : Rng := {}
  thatch : Rng := {}
  gpack : Rng := {}
  gstrict : Rng := {}
  course : Rng := {}
  spar : Rng := {}
deriving DecidableEq, Repr

/-- Table — Bay states (R131). -/
inductive BaySt where
  | free | configuring | idle | running | parked | draining | faulted
deriving DecidableEq, Repr

/-- One Bay (chapter 05). -/
structure Bay where
  /-- OD 0x2100+n.01 bay_state [5:0] (R131) -/
  st : BaySt := .free
  /-- bay_state [7]: the drain's target is FREE (R156) -/
  toFree : Bool := false
  /-- bay_state [6]: a COMMIT waits for its scrub (R135) -/
  scrubbing : Bool := false
  /-- the drain ends in PARKED in place of IDLE (R144, R146) -/
  toParked : Bool := false
  /-- the ranges granted (R134) -/
  held : Ranges := {}
  /-- the ranges a waiting COMMIT will grant (R135) -/
  next : Ranges := {}
  /-- the hold timer's deadline (R144) -/
  hold : Option Nat := none
  /-- the tick the last fetched queue served, for round robin (R347) -/
  lastQueue : Nat := 7
  /-- its owner link has been lost to heartbeats: they are ignored until the next COMMIT or re-attach (R576) -/
  hbLost : Bool := false
  /-- the tick on which the drain under way began (R137) -/
  drainAt : Nat := 0
  /-- the route that awaits the end of a COMMIT (R135) -/
  commitRt : Option Route := none
deriving DecidableEq, Repr

/-- The errors that AER reports (Table — Supported capabilities, Table — Partner violations). -/
inductive Aer where
  | malformed | poisoned | unsupported | unexpectedCpl | cplTimeout | ecrc | internal | ide | completerAbort
deriving DecidableEq, Repr

/-- Table — Link states (R164). -/
inductive LinkSt where
  | dark | training | up | recovering | lost
deriving DecidableEq, Repr

/-- A request the device has outstanding on the host link (R158, R179, R183, R231). -/
structure HostReq where
  tag : Nat
  bay : Option Nat
  who : Who
  addr : Nat
  len : Nat
  time : Nat
  /-- the space and DVA of the access -/
  space : Nat := 0
  dva : Nat := 0
  stale : Bool := false
  dead : Bool := false
deriving DecidableEq, Repr

/-- A record of the violation ring (Table — Violation record, R181). -/
structure ViolRec where
  seq : Nat
  time : Nat
  rid : Nat
  kind : Nat
  answer : Nat
  header : List Byte
deriving DecidableEq, Repr

/-- A configuration write deferred to the next configuration access (R185). -/
inductive Deferred where
  | vfEnable (on : Bool) | barSize (gib : Nat) | hdm (k base size : Nat)
deriving DecidableEq, Repr

/-- A completion record not yet written (R364): its Bay, queue and space, the DVA of its slot, its bytes, whether IRQ is set, and since when it
is due (R167). -/
structure HeldRec where
  bay : Nat
  q : Nat
  space : Nat
  addr : Nat
  data : List Byte
  irq : Bool
  at_ : Nat
deriving DecidableEq, Repr

/-- What the device sends out: on the host link, the fabric, CAN FD, SMBus, AVSBus, SPI and its pins, and the answers it
gives on the Ridge network. The list grows at its end; nothing in the device reads it back. -/
inductive Out where
  | msix (fn v : Nat)
  | evt (dst aux : Nat)
  | cpl (tag : Nat) (kind : String) (data : List Byte)
  | hostWr (fn addr : Nat) (data : List Byte) (ro ido noSnoop translated : Bool) (pasid : Option Nat)
  | hostRd (fn tag addr len : Nat) (noSnoop translated : Bool) (pasid : Option Nat)
  | transReq (fn tag addr len : Nat) (write : Bool) (pasid : Option Nat)
  | pageReq (fn idx addr : Nat) (write last execute privileged : Bool) (pasid : Option Nat)
  | err (fatal : Bool)
  | invalCpl (fn itag : Nat)
  | frame (port : Nat) (f : Frame)
  | eth (port : Nat) (kind : String) (dst : Nat) (data : List Byte)
  | roce (port : Nat) (kind : String) (qpn psn : Nat) (data : List Byte)
  | ptp (port : Nat) (kind : String) (m : PtpMsg)
  | can (port : Nat) (kind : String) (code : Nat) (data : List Byte)
  | smb (data : List Byte) (pec : Byte)
  | spi (instr addr len dummy khz : Nat)
  | avs (mv : Nat)
  | pps
  | ridge (kind : String) (src dst line tn : Nat) (st : Nat) (data : List Byte)
  | cxl (kind : String) (line tag : Nat) (data : List Byte)
deriving DecidableEq, Repr

/-- A keyed IDE stream: the functions of its Requester ID range, and its address ranges, first and last address (R177). -/
structure IdeStream where
  fns : List Nat
  ranges : List (Nat × Nat) := []
deriving DecidableEq, Repr

/-- The host link (chapter 06). Functions are numbered 0 for PF0 and n+1 for VF(n+1). -/
structure Link where
  /-- OD 0x2200.02 link_state (R164) -/
  st : LinkSt := .dark
  /-- lanes (R160) -/
  width : Nat := 0
  /-- GT/s (R160) -/
  rate : Nat := 0
  /-- max_width and max_speed as taken at the last entry to `TRAINING` (R162) -/
  limW : Nat := 16
  limR : Nat := 64
  /-- AER: the error status bits set, the first error, and the header log of 14 DW (R158, R179) -/
  aer : List Aer := []
  aerFirst : Option Aer := none
  aerLog : List Byte := List.replicate 56 0
  /-- AER: the severity bits (R180); the others' defaults are those of PCIe 6.0 (PRESUMED, log entry 59) -/
  aerSeverity : Nat := 0x10022030
  /-- the base address registers, 32 bits each: BAR0 to BAR5 of PF0 at 0 to 5, VF BAR0 to VF BAR5 at 8 to 13 (R166, R168) -/
  bars : SMap Nat := []
  /-- the other writable fields of configuration space, keyed fn × 16 + field (R158) -/
  cfg : SMap Nat := []
  /-- OD 0x2200.05 flit_mode (R161) -/
  flit : Bool := false
  /-- OD 0x2200.06 cxl_active, 3 bits (R161) -/
  cxl : Nat := 0
  /-- SR-IOV VF Enable (R166) -/
  vfEnable : Bool := false
  /-- functions whose Bus Master Enable is set (R167) -/
  bme : List Nat := []
  /-- functions whose ATS Enable is set (R231) -/
  ats : List Nat := []
  /-- functions whose PASID Enable is set (R217) -/
  pasid : List Nat := []
  /-- functions whose Relaxed Ordering enable is set (R206) -/
  ro : List Nat := []
  /-- functions whose Enable No Snoop is set (R314) -/
  noSnoop : List Nat := []
  /-- PF0 PRI Enable (R248) -/
  priEnable : Bool := false
  /-- PF0 Outstanding Page Request Allocation (R253) -/
  priAlloc : Nat := 0
  /-- PF0 PRI status: Response Failure (R254) -/
  priFailure : Bool := false
  /-- OD 0x2200.0F vf_bar2_size, GiB (R170) -/
  barSize : Nat := 1
  /-- committed HDM decoders: base and size (R171) -/
  hdm : SMap (Option Rng) := []
  /-- decoders with Error Not Committed (R171) -/
  hdmError : List Nat := []
  /-- functions with MSI-X enabled (R176) -/
  msixOn : List Nat := []
  /-- vectors whose Mask bit is clear, fn × 8 + v (R175); every vector is masked at reset (PRESUMED, log entry 7) -/
  msixOpen : List Nat := []
  /-- pending vectors, fn × 8 + v (R176) -/
  msixPend : List Nat := []
  /-- message address low, high and data of the MSI-X tables, keyed fn × 32 + 4v + word (R169) -/
  msixTab : SMap Nat := []
  /-- keyed IDE streams (R177) -/
  ide : SMap (Option IdeStream) := []
  /-- Insecure IDE streams (R177) -/
  ideBad : List Nat := []
  /-- the last 256 violation records, newest first (R181) -/
  viol : List ViolRec := []
  /-- OD 0x2200.0C viol_head (R181) -/
  violSeq : Nat := 0
  /-- configuration writes that take effect later (R185) -/
  deferred : List Deferred := []
  /-- requests outstanding (R158) -/
  reqs : List HostReq := []
  /-- the next tag -/
  nextTag : Nat := 0
  /-- answers to reads received and not yet used: requester, host address, data, status (R179, R248) -/
  rx : List (Who × Nat × List Byte × Status) := []
  /-- completion records not yet written, in order (R364) -/
  heldRecs : List HeldRec := []
  /-- requests held while the link is RECOVERING, in order (R184) -/
  held : List Out := []
deriving DecidableEq, Repr

/-- Table — Hatch states (R194). -/
inductive SlotSt where
  | empty | full | taken
deriving DecidableEq, Repr

/-- A write held behind a fence, to the Bay page or to the Skylights (R201), or a Skylight read that waits for a held write of one of its
lines: its length and tag (R199). -/
structure HeldWr where
  sky : Bool
  off : Nat
  data : List Byte
  read : Option (Nat × Nat) := none
  /-- the tick of receipt (R354) -/
  at_ : Nat := 0
deriving DecidableEq, Repr

/-- A Skylight access that waits at the homes of its lines (R198, R199): a write, a read, or an AtomicOp. -/
structure SkyReq where
  /-- 0 write, 1 read, 2 AtomicOp -/
  kind : Nat
  a : Nat
  data : List Byte := []
  len : Nat := 0
  tag : Nat := 0
  aop : Nat := 0
  operand : Nat := 0
  compare : Nat := 0
  /-- the tick of receipt (R354) -/
  at_ : Nat := 0
deriving DecidableEq, Repr

/-- The Bay page of one Bay (chapter 07). -/
structure Page where
  /-- the states of inbound slots 0 to 15 (R194) -/
  inSt : SMap SlotSt := []
  /-- the outbound slots that are FULL (R194) -/
  outFull : List Nat := []
  /-- HT_IN_ERR, 12 bits used (R187, R193) -/
  inErr : Nat := 0
  /-- EV_FENCE_DONE, 32 bits (R201) -/
  fenceDone : W32 := 0
  /-- pending fences, oldest first: tag and tick of receipt; each after the first has its write among the held ones (R201) -/
  fences : List (W32 × Nat) := []
  /-- writes held behind the oldest fence, with later fences among them as 4-byte writes of 0x140 (R201) -/
  held : List HeldWr := []
  /-- Skylight accesses received and not yet applied, in order of receipt (R199) -/
  sky : List SkyReq := []
  /-- reads of EV_FENCE_DONE: tag, and how many fences each still waits for (R202) -/
  reads : List (Nat × Nat) := []
deriving DecidableEq, Repr

/-- A Device TLB entry (R235). -/
structure Tlb where
  bay : Nat
  space : Nat
  va : Nat
  log : Nat
  way : Nat
  kind : Nat
  oa : Nat
  r : Bool
  w : Bool
  coh : Bool
  ats : Bool
  peer : Bool
  host : Nat
  stamp : Nat
deriving DecidableEq, Repr

/-- A walker-cache entry: the table that a non-leaf entry names (R224). -/
structure WCache where
  bay : Nat
  space : Nat
  level : Nat
  va : Nat
  table : Nat
deriving DecidableEq, Repr

/-- A walk in progress (R224). -/
structure Walk where
  id : Nat
  bay : Nat
  space : Nat
  dva : Nat
  write : Bool
  who : Who
  bypass : Bool := false
  /-- the level of the next entry to read, 4 before the root is looked up, and the table it stands in -/
  level : Nat := 4
  table : Nat := 0
  /-- the level-0 leaf already read, while its group of 16 is read (R227) -/
  leaf : Option Nat := none
deriving DecidableEq, Repr

/-- A Translation Request outstanding (R231). -/
structure TReq where
  tag : Nat
  walk : Walk
  host : Nat
  log : Nat
  r : Bool
  w : Bool
  coh : Bool
  /-- an overlapping ATS Invalidate Request arrived after it (R258) -/
  stale : Bool := false
  /-- its walk is no longer wanted: the completion is discarded -/
  dead : Bool := false
  /-- it was sent before an FLR of its function or before entry to `LOST` (R183) -/
  gone : Bool := false
  /-- the tick it was sent (R179) -/
  time : Nat := 0
deriving DecidableEq, Repr

/-- A pending invalidation by Lath (R238) or ATS (R240), with the accesses translated by the entries it removed that have not
taken effect: tags of host requests, numbers of remote requests, and the lines asked for at a home. -/
structure Inval where
  bay : Nat
  space : Nat
  ats : Bool
  itag : Nat := 0
  cmd : Option (Nat × W32) := none
  tags : List Nat := []
  tns : List Nat := []
  lines : List (Who × Nat) := []
deriving DecidableEq, Repr

/-- A page request group (R251). -/
structure Prg where
  idx : Nat
  bay : Nat
  space : Nat
  page : Nat
  write : Bool
  who : List Who
  deadline : Nat
  ended : Bool := false
  /-- the PASID that its request carried (R251, R254) -/
  pasid : Option Nat := none
  /-- it was issued before an FLR of its function or before entry to `LOST` (R183, R263) -/
  gone : Bool := false
deriving DecidableEq, Repr

/-- A halted requester (Table — Translation outcomes, R248). -/
structure Halt where
  who : Who
  bay : Nat
  cause : Nat
  dva : Nat
  space : Nat
  write : Bool
  /-- the host page of a halt that PRI serves (R251) -/
  page : Nat := 0
  /-- the tick of the halt (R253) -/
  time : Nat := 0
deriving DecidableEq, Repr

/-- What a translation gives. -/
inductive Tr where
  | loc (a : Nat)
  | host (a iova : Nat) (ats coh peer : Bool)
  | fab (a : Nat)
  | miss
deriving DecidableEq, Repr

/-- Translation and faults in flight (chapters 08 and 09). -/
structure Trans where
  /-- Device TLB, 16,384 entries in 2,048 sets of 8 ways (R235) -/
  tlb : List Tlb := []
  /-- walker cache, 1,024 entries, newest first (R224) -/
  wcache : List WCache := []
  /-- walks in progress, up to 64 (R224) -/
  walks : List Walk := []
  /-- the number of the next walk -/
  nextWalk : Nat := 0
  /-- Translation Requests outstanding (R231) -/
  treqs : List TReq := []
  /-- pending invalidations, oldest first (R239, R240) -/
  invals : List Inval := []
  /-- outstanding page request groups (R251) -/
  prgs : List Prg := []
  /-- halted requesters, in order of halt tick (R253) -/
  halts : List Halt := []
  /-- requesters whose next translation must walk anew: requester, space, page (R250) -/
  anew : List (Who × Nat × Nat) := []
  /-- per Bay: window number, halts counted in it, limit reached (R260) -/
  windows : SMap (Nat × Nat × Bool) := []
  /-- accesses issued at a home, on the host link or on the fabric, and not yet answered: requester, space, DVA, write, and the translation
  under which they were issued (R229, R238) -/
  issued : List (Who × Nat × Nat × Bool × Tr) := []
  /-- parts of an access done while another part waits: requester, space, DVA, data, poison -/
  buf : List (Who × Nat × Nat × List Byte × Bool) := []
  /-- LRU stamp of the Device TLB (R236) -/
  stamp : Nat := 0
  /-- the micro-TLBs, 64 entries each, newest first: core c at c, engine g at 256 + g, Batten b at 512 + b, Gutter/Course
  group q at 768 + q (R237) -/
  micro : SMap (List Tlb) := []
deriving DecidableEq, Repr

/-- The states of Table — Caching agents (R269). -/
inductive Coh where
  | i | s | e | o | m
deriving DecidableEq, Repr

/-- The kind of a directory entry: S, X, O, or the proxy entry of a remote line (R280). -/
inductive DirKind where
  | s | x | o | p
deriving DecidableEq, Repr

/-- A directory cache entry (Table — Directory cache entry, R280). `bay` is 0xFF for a line that no Bay holds; a proxy entry holds this
device's state toward the remote home (R292). -/
structure Dir where
  kind : DirKind := .s
  owner : Nat := 0
  sharers : List Nat := []
  st : Coh := .i
  bay : Nat := 0
  way : Nat := 0
  age : Nat := 0
deriving DecidableEq, Repr

/-- A request at a home (Table — Ridge messages, class REQ, R273). -/
inductive RReq where
  | rdShared | rdOwn | upgrade | ncRead | ncWrite | ncAtomic | wbDirty
deriving DecidableEq, Repr

/-- A request at a home with its operands: the requester is agent `a` for the caching requests, island `a` for the others. -/
structure HomeReq where
  op : RReq
  a : Nat
  tn : Nat := 0
  mask : Nat := 0
  data : List Byte := []
  /-- the data of a WbDirty is poisoned -/
  poison : Bool := false
  aop : Nat := 0
  off : Nat := 0
  size : Nat := 0
  operand : Nat := 0
  compare : Nat := 0
  returning : Bool := false
  ecc : Bool := true
  /-- the agent of this device that reads or writes for itself, where no message carries the request -/
  who : Option Who := none
  /-- the request of a cluster L2 for its cores, whose messages no row carries (log entry 10) -/
  self : Bool := false
  /-- the requester's Bay, where the request tells it (R299, R308) -/
  bay : Option Nat := none
  /-- the tick of its arrival (R272) -/
  time : Nat := 0
deriving DecidableEq, Repr

/-- A transaction at a home: waiting for the answers of `wait` to its snoop, or, `granted`, for the requester's CmpAck (R272). -/
structure Txn where
  line : Nat
  req : HomeReq
  /-- the snoop sent: 1 SnpShared, 2 SnpInv, 3 SnpCur -/
  snp : Nat := 0
  wait : List Nat := []
  /-- answers: agent and the state after (0 I, 1 S, 2 E, 3 O, 4 M) -/
  ans : List (Nat × Nat) := []
  dirty : Option (Nat × List Byte × Bool) := none
  /-- the entry found; none where it was I or is being rebuilt -/
  entry : Option Dir := none
  /-- the summary byte the entry is rebuilt from (R283) -/
  rebuilt : Option Nat := none
  lost : Bool := false
  granted : Bool := false
  /-- the way of the directory cache that it will fill (R285) -/
  way : Option Nat := none
  time : Nat := 0
deriving DecidableEq, Repr

/-- A line of a cluster L2, or of the proxy cache (R278, R308). -/
structure CLine where
  st : Coh := .i
  data : List Byte := []
  poison : Bool := false
  bay : Nat := 0
  stamp : Nat := 0
  sharers : List Nat := []
  way : Nat := 0
  /-- a WbDirty or DirtyEvict is in flight (R296, R312) -/
  wb : Bool := false
deriving DecidableEq, Repr

/-- A request this device has outstanding at a home, kept for Retry (R623). -/
structure Resend where
  isl : Nat
  line : Nat
  tn : Nat
  at_ : Nat
deriving DecidableEq, Repr

/-- A request that a cluster L2 has outstanding at the home of a cell member (R290), and the way its proxy entry will fill (R285, R292). -/
structure L2Req where
  c : Nat
  line : Nat
  op : RReq
  tn : Nat
  bay : Nat
  way : Option Nat := none
  /-- the core whose access asked -/
  who : Option Who := none
deriving DecidableEq, Repr

/-- The Ridge and the proxy cache (chapters 10 and 11). Lines are keyed by line number: LPA / 64, or fabric address / 64
for a line homed on another device. -/
structure Ridge where
  /-- directory caches of the 16 slices (R280) -/
  dir : SMap (Option Dir) := []
  /-- cluster L2 lines, keyed cluster × 2^60 + line (R426) -/
  l2 : SMap CLine := []
  /-- dirty remote lines whose WbDirty is in flight to their home (R292, R296) -/
  remote : SMap CLine := []
  /-- requests of cluster L2s outstanding at the homes of cell members (R290) -/
  l2out : List L2Req := []
  /-- the MODEL's own: clusters whose L2's messages have come as rows, and so travel as rows (DESIGN CHOICE, log entry 10) -/
  rowed : List Nat := []
  /-- transactions running (R272, R276) -/
  txns : List Txn := []
  /-- requests waiting for their line, in order of arrival (R272) -/
  waiting : List (Nat × HomeReq) := []
  /-- answers to non-caching requests of this device's own agents, not yet used: agent, line, data, poison, status (R288) -/
  fresh : List (Who × Nat × List Byte × Bool × Status) := []
  /-- the host-line proxy cache, keyed HPA / 64 (R308) -/
  proxy : SMap CLine := []
  /-- proxy requests waiting for the host's grant: line, requester island, write mask, data, atomic operands (R310) -/
  proxyWait : List (Nat × HomeReq) := []
  /-- non-caching requests of this device's agents at the home of a cell member: agent, line, transaction, operation (R290) -/
  away : List (Who × Nat × Nat × HomeReq) := []
  /-- requests answered Retry, and when each is resent (R623) -/
  resends : List Resend := []
  /-- 1 bit, OD 0x2401.13 cell_busy, and the members that leave (R293) -/
  cellBusy : Bool := false
  leaving : List Nat := []
  /-- the cell as it is in force: enable, own slot, members (R289) -/
  cellOn : Bool := false
  ownSlot : Nat := 0
  members : SMap Nat := []
  /-- snoops of transactions that ended with Gone, whose answers are still to come: line and agent (R624) -/
  lateAns : List (Nat × Nat) := []
  /-- requests that a closing island abandoned, whose replies are still to come: island and transaction number (R624) -/
  abandoned : List (Nat × Nat) := []
  /-- replacement stamp -/
  stamp : Nat := 0
deriving DecidableEq, Repr

/-- One Spar (R321, R326, R331). -/
structure Spar where
  value : W64 := 0
  thresh : W64 := 0
  armed : Bool := false
  mirror : Bool := false
  route : BitVec 2 := 0
  remote : Bool := false
  key : W16 := 0
  overrun : Nat := 0
  firing : Bool := false
  fireStart : Nat := 0
  latched : Bool := false
  /-- a mirror write is due, since this tick (R167, R329) -/
  pend : Bool := false
  pendAt : Nat := 0
deriving DecidableEq, Repr

/-- Table — Queue states (R366). -/
inductive QSt where
  | disabled | active | halted
deriving DecidableEq, Repr

/-- How far a fetched command has come: fetched, started (its own step performs it), running (its operation is under way). -/
inductive CPh where
  | fetched | started | running
deriving DecidableEq, Repr

/-- A fetched command that has not completed (R350). -/
structure Cmd where
  pos : W32
  bytes : List Byte
  ph : CPh := .fetched
  deadline : Option Nat := none
  snap : List (Nat × Nat) := []
  ended : List Status := []
  /-- the tick of its fetch (R354) -/
  at_ : Nat := 0
deriving DecidableEq, Repr

/-- A command queue (R341, R342). -/
structure Queue where
  st : QSt := .disabled
  p : W32 := 0
  fe : W32 := 0
  fr : W32 := 0
  error : Nat := 0
  cmds : List Cmd := []
  job : Option W32 := none
  jobId : Nat := 0
  walk : Bool := false
deriving DecidableEq, Repr

/-- Table — Gutter channel states (R386). -/
inductive GSt where
  | idle | running | halted | error
deriving DecidableEq, Repr

/-- A Gutter channel with its status block (R375, R387, R394). -/
structure Gutter where
  st : GSt := .idle
  bay : Nat := 0
  q : Nat := 0
  p : W32 := 0
  space : Nat := 0
  desc : Nat := 0
  index : Nat := 0
  fetched : Bool := false
  d : List Byte := []
  row : Nat := 0
  off : Nat := 0
  crc0 : Nat := 0
  crc : Nat := 0
  crcMode : Nat := 0
  bytes : Nat := 0
  status : Nat := 0
  cause : Nat := 0
  dir : Nat := 0
  /-- the offset of the field that a failed check names (R376) -/
  detail : Nat := 0
  jobOpen : Bool := false
  addr : Nat := 0
  crcs : List (Nat × Nat × Nat) := []
  /-- the stage of the CHAIN command at q, p that the channel runs (R414) -/
  stage : Option Nat := none
  /-- the present descriptor has written host memory (R261); the ring bytes of its rows that are done, for a restart of it (R261, R389) -/
  hostWrote : Bool := false
  sent : List Byte := []
  /-- the MODEL's own: the earlier descriptors of the chain, for the breach of R378 -/
  before : List (List Byte) := []
deriving DecidableEq, Repr

/-- Table — Course states (R409). -/
inductive CSt where
  | idle | prepared | running | halted | rearmWait
deriving DecidableEq, Repr

/-- A Course with its status block and counters (R396, R409, R423, R424). -/
structure Course where
  st : CSt := .idle
  bay : Nat := 0
  q : Nat := 0
  p : W32 := 0
  space : Nat := 0
  list : Nat := 0
  hdr : List Byte := []
  entries : List (List Byte) := []
  entry : Nat := 0
  rep : Nat := 0
  line : Nat := 0
  placed : Nat := 0
  released : Nat := 0
  pass : Nat := 0
  latched : Bool := false
  loads : List (Nat × Nat) := []
  status : Nat := 0
  cause : Nat := 0
  addr : Nat := 0
  misses : Nat := 0
  overruns : Nat := 0
  stall : Nat := 0
  since : Nat := 0
  stalls : SMap Nat := []
  /-- the stage of the CHAIN command at q, p that the Course runs, or whose reservation a Gutter stage carries (R414, R416) -/
  stage : Option Nat := none
  /-- the LPAs of the ring's pages (R396) -/
  pages : List Nat := []
  /-- where a block-list read halted it: the first entry not yet fetched (R398) -/
  burstAt : Option Nat := none
  /-- the header and entries are read and judged up to here; admission has been asked (R399) -/
  admitted : Bool := false
  /-- the bytes an out-Course has written of the current entry, one of them at least to the host, and those it writes again (R261) -/
  sent : List Byte := []
  hostWrote : Bool := false
  again : List Byte := []
  /-- the re-arm triggers of one tick: the tick, how many, and the latch and the overruns before the first of them (R420) -/
  trigAt : Nat := 0
  trigs : Nat := 0
  trig0 : Bool × Nat := (false, 0)
  /-- the place of its preparation or start among those of the device's Courses (R399) -/
  ord : Nat := 0
deriving DecidableEq, Repr

/-- The arbiter of one resource (R401, R407). -/
structure Arb where
  derated : Nat := 0
  proportional : Bool := false
  lastMiss : Nat := 0
  switches : Nat := 0
deriving DecidableEq, Repr

/-- A ring in the Loft: the LPAs of its pages, its depth as log2, bytes put and bytes released (R442). -/
structure Ring where
  pages : List Nat := []
  log : Nat := 12
  put : Nat := 0
  rel : Nat := 0
deriving DecidableEq, Repr

/-- A stage of a chain (Table — Stage entry, R414), with what it holds between its input and its output ring. -/
structure Stage where
  kind : Nat
  ekind : Nat := 0
  obj : Nat := 0
  count : Nat := 0
  res : Nat := 0xFFFF
  dva : Nat := 0
  rate : Nat := 0
  /-- the output ring; for a COURSE stage that is first, the ring of its block list -/
  ring : Option Ring := none
  ended : Bool := false
  /-- bytes taken from the input ring and not yet used, bytes made and not yet placed -/
  inb : List Byte := []
  outb : List Byte := []
  /-- the operation descriptor or layer descriptor, and the parameter block or the biases -/
  desc : List Byte := []
  aux : List Byte := []
  /-- vectors evaluated (THATCH), or the vector whose records are being tested and how many have been (requantise) -/
  vec : Nat := 0
  idx : Nat := 0
  /-- outputs resolved and not yet placed, by their place in the stage's output (R515), and bytes placed -/
  outs : SMap Byte := []
  placed : Nat := 0
  /-- it has asked its input ring for bytes that the ring does not hold, or found its output ring full, and waits (R408) -/
  short : Bool := false
  full : Bool := false
deriving DecidableEq, Repr

/-- A running chain (R360, R414). -/
structure Chain where
  bay : Nat
  q : Nat
  p : W32
  space : Nat
  stages : List Stage
  loads : List (Nat × Nat) := []
deriving DecidableEq, Repr

/-- Table — Core states (R433). -/
inductive CoreSt where
  | idle | running | waiting | halted
deriving DecidableEq, Repr

/-- A Rafter core (R425, R433). -/
structure Core where
  st : CoreSt := .idle
  run : Option Nat := none
  logical : Nat := 0
  pc : Nat := 0
  loops : SMap Nat := []
  atBarrier : Bool := false
  part : Nat := 0
deriving DecidableEq, Repr

/-- A RUN under way (R428, R434). -/
structure RunRec where
  id : Nat
  bay : Nat
  q : Nat
  p : W32
  space : Nat
  ops : Nat
  slot0 : Option (Nat × Nat) := none
  slot1 : Option (Nat × Nat) := none
  cores : List Nat := []
  ended : List Nat := []
  status : Option Status := none
  detail : Nat := 0
  stage : Option Nat := none
deriving DecidableEq, Repr

/-- An engine operation (R438). -/
structure EngOp where
  bay : Nat
  q : Nat
  p : W32
  space : Nat
  d : List Byte
  /-- the stage of the CHAIN command at q, p that the operation is (R414) -/
  stage : Option Nat := none
  /-- the DVA at which the operation was suspended (R440) -/
  at_ : Nat := 0
  /-- source bytes read so far of a decompression, and rows done of a gather or scatter -/
  buf : List Byte := []
  done : Nat := 0
  /-- the operation has written host memory (R261) -/
  hostWrote : Bool := false
  /-- the MODEL's own: the first of the free values that its order is drawn from (R431, R475; DESIGN CHOICE, log entry 2) -/
  ord : Nat := 0
deriving DecidableEq, Repr

/-- An engine (R439). -/
structure Engine where
  queue : List EngOp := []
  run : Option EngOp := none
  suspended : List EngOp := []
  reserved : Bool := false
  lastBay : Nat := 15
  ops : Nat := 0
deriving DecidableEq, Repr

/-- Table — Thatch array states (R502). -/
inductive ASt where
  | unshadowed | seating | seated | calibrating | retired
deriving DecidableEq, Repr

/-- One pair of an array: its fit, residual and spare (R487, R497, R500). -/
structure Pair where
  gHi : Nat := 65536
  oHi : Int := 0
  gLo : Nat := 65536
  oLo : Int := 0
  residual : Nat := 0
  spare : Option Nat := none
  trimming : Bool := false
  /-- the trim programs new weights, so that the digest is due at its end (R495) -/
  renewed : Bool := false
  /-- the TRIM command that reprograms the pair: its queue and position (R495) -/
  cmd : Option (Nat × W32) := none
deriving DecidableEq, Repr

/-- A Thatch array (R482, R502, R509). -/
structure Arr where
  st : ASt := .unshadowed
  bay : Nat := 0
  set : Nat := 0
  shadow : Nat := 0
  digest : List Byte := List.replicate 48 0
  sparesUsed : Nat := 0
  evals : Nat := 0
  sinceCal : Nat := 0
  calLast : Nat := 0
  calTemp : Int := 0
  calRuns : Nat := 0
  calOverruns : Nat := 0
  calLatched : Bool := false
  /-- a trigger has arrived, and its run starts between evaluations (R499) -/
  calDue : Bool := false
  /-- the time trigger has fired since the last run's end (R498) -/
  calTimed : Bool := false
  tvMisses : Nat := 0
  trims : Nat := 0
  pairs : SMap Pair := []
  /-- pairs still to be trimmed after a calibration run (R497) -/
  toTrim : List Nat := []
  /-- the SEAT command under way: its queue and position -/
  seatCmd : Option (Nat × W32) := none
  /-- the column ADCs' thresholds in use, and those computed for the next calibration run, by column (R634) -/
  thresholds : SMap Int := []
  newThresholds : SMap Int := []
deriving DecidableEq, Repr

/-- A flash task or an audit task (R516, R518): the requantise stage, the vector and output, and for an audit the record. -/
structure Task where
  bay : Nat
  q : Nat
  p : W32
  stage : Nat
  vec : Nat
  out : Nat
  audit : Bool := false
  est : Int := 0
  bound : Int := 0
deriving DecidableEq, Repr

/-- Table — Job states (R528). -/
inductive JobSt where
  | none | open_ | restarting | signed
deriving DecidableEq, Repr

/-- A region of a job's list (Table — Region list entry, R605). -/
structure JobRegion where
  dva : Nat
  len : Nat
  await : Bool
  spar : Nat
  digest : Option (List Byte) := none
  /-- the registered region that the entry names as a whole (R605) -/
  slot : Option Nat := none
  /-- the digest engine that reads it, and its place among the digests that engines have (R439) -/
  eng : Option (Nat × Nat) := none
deriving DecidableEq, Repr

/-- A journal record emitted on a tick, before its number and its chain: its Bay, whether it is a DICT or REJECT record, the position of the command
it is tied to, counted from `BEGIN_JOB`, and what it holds (R530, R532). -/
structure TickRec where
  bay : Nat
  late : Bool
  key : Nat
  ty : Nat
  chained : Bool
  id : Nat
  attempt : Nat
  signed : Bool
  body : List Byte
deriving DecidableEq, Repr

/-- The records of one tick, in their order: the tick, the last number before them, each Bay's chain before them (R532). -/
structure TickRecs where
  time : Nat := 0
  seq0 : Nat := 0
  chains : SMap (List Byte) := []
  recs : List TickRec := []
deriving DecidableEq, Repr

/-- The journal and job of one Bay (chapter 20). -/
structure Journal where
  /-- OD 0x2C10+n.0A job_state (R528) -/
  st : JobSt := .none
  /-- job_id (R552) -/
  id : Nat := 0
  /-- attempt (R529) -/
  attempt : Nat := 0
  /-- the queue of the job, and the position of its BEGIN_JOB (R361) -/
  q : Nat := 0
  pos : W32 := 0
  space : Nat := 0
  /-- the space of the output regions: that of END_JOB -/
  outSpace : Nat := 0
  /-- the tick from which the signature of JOB_CLOSE may run (R537) -/
  signFrom : Nat := 0
  /-- completion ticks of the first and the final BEGIN_JOB (R530) -/
  first : Nat := 0
  final : Nat := 0
  /-- restarts of the job (R657) -/
  restarts : Nat := 0
  /-- LAYER completions of the attempt (R530) -/
  layers : Nat := 0
  /-- records of the job discarded (R541) -/
  lost : Nat := 0
  /-- outputs certified and flashed in the attempt (R530) -/
  certified : Nat := 0
  flashed : Nat := 0
  /-- the commands of the attempt, as fetched (R534) -/
  stream : List (List Byte) := []
  /-- the input and output regions (R605) -/
  inputs : List JobRegion := []
  outputs : List JobRegion := []
  /-- the weight set number and its digest (R534) -/
  weightSet : Nat := 0
  weights : List Byte := []
  /-- SHA-384 of the job's previous record (R530) -/
  chain : List Byte := List.replicate 48 0
  /-- the Bay's Spars as attempt 0 began: values (R655) -/
  spars : SMap W64 := []
  /-- END_JOB is closing the job: its position (R536) -/
  closing : Option W32 := none
  /-- the JOB_CLOSE record has been handed to the sink; its sequence number (R536) -/
  closeSeq : Option Nat := none
  /-- position and status of the command that failed the attempt (R530) -/
  failPos : Nat := 0
  /-- records held in order, each with its sequence number (R541) -/
  heldRecs : List (Nat × List Byte) := []
  /-- sink write position W (R540) -/
  w : Nat := 0
  /-- since when Bus Master Enable, or parking, holds the writes of the sink (R167, R542) -/
  sinkAt : Option Nat := none
  /-- the sink has faulted (R542) -/
  faulted : Bool := false
  /-- the restart waits for the job's operations to end: steps 3 to 5 of R655 are to come -/
  draining : Bool := false
deriving DecidableEq, Repr

/-- Table — Port states (R555). -/
inductive PortSt where
  | off | training | linked | inService | quarantined
deriving DecidableEq, Repr

/-- A Purlin port (chapter 21). -/
structure Port where
  st : PortSt := .off
  /-- 0 Purlin, 1 Ethernet: as taken at the last entry to TRAINING (R554) -/
  mode : Nat := 0
  /-- the EtherType taken at the last entry to TRAINING (R592) -/
  ethertype : Nat := 0x88B5
  /-- neighbour ID, port, valid, assigned (R556) -/
  nbId : Nat := 0
  nbPort : Nat := 0
  nbValid : Bool := false
  nbAssigned : Bool := false
  lastHello : Nat := 0
  lastHelloSent : Nat := 0
  txSeq : W16 := 0
  rxSeq : W16 := 0
  unacked : List (W16 × Frame) := []
  queued : List Frame := []
  credits : SMap Int := []
  rxRoom : SMap Int := []
  retries : Nat := 0
  /-- the last LACK sent, and when (R559) -/
  lastLack : Nat := 0
  lackFrame : Option Frame := none
  owesLack : Bool := false
  lnakSent : Bool := false
  /-- the tick from which the retransmission timeout runs (R559) -/
  lastSend : Nat := 0
  /-- frames held while their priority is paused, oldest first (R579) -/
  held : List Out := []
  window : Nat := 0
  windowCount : Nat := 0
  paused : List (Nat × Nat) := []
  cnp : SMap Nat := []
  /-- PTP: what Announce last offered (priority, clock class, clock), and when (R580) -/
  ann : Option (Nat × Nat × Nat) := none
  annTime : Nat := 0
  /-- a Sync received whose Follow_Up is to come: the tick and the sequence; ticks of the last Sync or Delay_Req and of the last
  Announce sent, and the sequence of the next (R580) -/
  syncTime : Option (Nat × Nat) := none
  syncLast : Nat := 0
  annSent : Nat := 0
  ptpSeq : Nat := 0
deriving DecidableEq, Repr

/-- A remote request outstanding (R569, R570). -/
structure Remote where
  tn : Nat
  who : Who
  bay : Nat
  f : Frame
  sent : Nat
  retryAt : Option Nat := none
  dead : Bool := false
deriving DecidableEq, Repr

/-- The fabric (chapter 21). -/
structure Fabric where
  /-- OD 0x2A00.01 fab_id (R557) -/
  id : Option Nat := none
  /-- OD 0x2A00.03 fm_latched (R557) -/
  fm : Nat := 0xFFFF
  /-- fm_id as the cold start left it (R588) -/
  fmId : Nat := 0xFFFF
  /-- route masks by destination (R562) -/
  routes : SMap Nat := []
  /-- the ports in force for a destination with frames queued (R563) -/
  chosen : SMap (List Nat) := []
  ports : SMap Port := []
  /-- the remote requests outstanding (R570) -/
  remotes : List Remote := []
  nextTn : Nat := 0
  /-- responses received and not yet used: requester, fabric address, data, status (R569 to R571) -/
  acks : List (Who × Nat × List Byte × Status) := []
  /-- PTP state, port, offset [ns] and rate [ppb] (R580 to R582) -/
  ptpState : Nat := 0
  ptpPort : Nat := 0xFF
  ptpOffset : Int := 0
  ptpRate : Int := 0
  ptpGood : Nat := 0
  /-- the path delay measured, the receipt less the origin time of the last Sync, and the tick and sequence of the Delay_Req
  outstanding (R580) -/
  lastDelay : Int := 0
  lastDelta : Int := 0
  delaySent : Option (Nat × Nat) := none
  /-- the last PTP second pulsed (R581) -/
  lastPps : Option Int := none
deriving DecidableEq, Repr

/-- Table — Region states (R602). -/
inductive RegSt where
  | unregistered | open_ | awaiting | sealed
deriving DecidableEq, Repr

/-- A region slot (R593, R602). -/
structure Region where
  base : Nat := 0
  ctl : Nat := 0
  spar : Nat := 0xFFFF
  st : RegSt := .unregistered
  arrived : Nat := 0
  pages : SMap Nat := []
deriving DecidableEq, Repr

/-- A queue pair's running state (R596). -/
structure Qp where
  /-- packets accepted since the configuration: the expected PSN is that of qp_conf plus these, modulo 2^24 -/
  psn : Nat := 0
  /-- the message under way: slot, offset of the next byte, bytes left, DMA length -/
  msg : Option (Nat × Nat × Nat × Nat) := none
  /-- a sequence error has been answered, and no packet in order has come since -/
  nakSent : Bool := false
deriving DecidableEq, Repr

/-- A placement access accepted and not yet performed (R600). -/
structure Place where
  id : Nat
  bay : Nat
  slot : Nat
  lpa : Nat
  data : List Byte
  /-- the bytes of a read; none for a write -/
  read : Option Nat := none
  /-- the bytes that its application adds to reg_arrived: 0 for a RoCEv2 packet before the last of its message -/
  count : Nat := 0
  /-- the island that asks at the homes -/
  isl : Nat := 327
  /-- the response of a Purlin access, the tag of a BAR4 read, and the port, queue pair, PSN and place in its message of a
  RoCEv2 packet -/
  reply : Option Frame := none
  tag : Option Nat := none
  roce : Option (Nat × Nat × Nat × Bool) := none
deriving DecidableEq, Repr

/-- Table — Island states (R616). -/
inductive IslSt where
  | off | starting | active | closing
deriving DecidableEq, Repr

/-- An island (chapter 23). -/
structure Island where
  st : IslSt := .off
  flush : Bool := false
  toOff : Bool := false
  since : Nat := 0
  retraining : Bool := false
  latched : Bool := false
  lastRetrain : Nat := 0
  /-- the 60 s trigger has fired since the last retraining (R627) -/
  timed : Bool := false
  lastTemp : Int := 0
  ratio : Nat := 256
  thermCap : Nat := 256
  powerCap : Nat := 256
  slack : Int := 0
  eligible : Option Nat := none
  closes : Nat := 0
  gone : Nat := 0
  retry : Nat := 0
  dropped : Nat := 0
  retrains : Nat := 0
  overruns : Nat := 0
  stretches : Nat := 0
  override : Nat := 0
deriving DecidableEq, Repr

/-- A voltage domain (R612, R629). -/
structure Domain where
  mv : Nat := 750
  request : Nat := 750
  override : Nat := 0
deriving DecidableEq, Repr

/-- The patrol scrub of one HBM stack (R641, R642). -/
structure Scrub where
  running : Bool := false
  /-- the interval trigger has fired since the last pass ended (R642) -/
  timed : Bool := false
  latched : Bool := false
  paused : Bool := false
  passes : Nat := 0
  overruns : Nat := 0
  lastEnd : Option Nat := none
deriving DecidableEq, Repr

/-- The adaptive loops and the sense lines (R628, R636, R638). -/
structure Loops where
  /-- VDD_CORE set-point, OD 0x2E01.01 core_setpoint [mV] (R57, R629) -/
  coreMv : Nat := 800
  /-- the set-point acknowledged before the last AVSBus command (R638) -/
  prevMv : Nat := 800
  /-- the last AVSBus value acknowledged, when a command failed (R638) -/
  stuck : Option Nat := none
  /-- rails whose loop is frozen by a sense fault, with the tick of detection (R636) -/
  frozen : SMap (Option Nat) := []
  /-- sense_state, two bits a rail (R636) -/
  sense : SMap Nat := []
  /-- device power averaged over 1 ms [W] (R630) -/
  power : Nat := 0
  islands : SMap Island := []
  domains : SMap Domain := []
  scrubs : SMap Scrub := []
deriving DecidableEq, Repr

/-- A fault record (Table — Fault record, R652). -/
structure FRec where
  seq : Nat
  time : Nat
  severity : Nat
  bay : Nat
  status : Nat
  source : Nat
  island : Nat
  object : Nat
  cause : Nat
  pos : Nat
  addr : Nat
  jobId : Nat
  attempt : Nat
deriving DecidableEq, Repr

/-- A checkpoint being copied, or held behind one (R661, R673). -/
structure Ckpt where
  layer : Nat
  pos : W32
  q : Nat
  jobId : Nat
  /-- the region list has been read -/
  loaded : Bool := false
  /-- the base B of the slot -/
  base : Nat := 0
  count : Nat := 0
  /-- the regions still to copy, the bytes of the first one copied, and where its next byte goes -/
  regions : List (Nat × Nat) := []
  off : Nat := 0
  next : Nat := 0x1000
  copied : Nat := 0
  crc : Nat := 0
  /-- the PUT of the header has been sent -/
  header : Bool := false
  /-- a PUT waits for its acknowledgement -/
  awaiting : Bool := false
deriving DecidableEq, Repr

/-- A write to memory that a command makes: bytes at an address, zeros over a range, a poison mark set or cleared. -/
inductive MemOp where
  | write (a : Nat) (bs : List Byte)
  | zero (lo hi : Nat)
  | poison (line : Nat)
  | clean (line : Nat)
deriving DecidableEq, Repr

/-- The fields of a fault that its source knows (R652). -/
structure Flt where
  status : Status := .fault
  source : Nat := 0
  island : Nat := 0
  object : Nat := 0xFFFF
  cause : Nat := 0
  pos : Nat := 0xFFFFFFFF
  addr : Nat := 0
  q : Nat := 8
deriving DecidableEq, Repr

/-- Everything the device holds but time, memory and the queue of commands. -/
structure Dev where
  nv : Nv := {}
  board : Board := {}
  boot : Boot := {}
  srv : Server := {}
  /-- the 16 Bays (R131) -/
  bays : SMap Bay := []
  link : Link := {}
  /-- the 16 Bay pages (R187) -/
  pages : SMap Page := []
  /-- the split-read shadows: by function 0–16, and by fabric source × 32 + page + 17 (R205, R573): offset and high half -/
  shadows : SMap (Option (Nat × Nat)) := []
  trans : Trans := {}
  ridge : Ridge := {}
  /-- the 4,096 Spars (R321) -/
  spars : SMap Spar := []
  /-- the command queues, keyed 8n + q (R341) -/
  queues : SMap Queue := []
  /-- the 256 Gutter channels (R374) -/
  gutters : SMap Gutter := []
  /-- the 512 Courses (R396) -/
  courses : SMap Course := []
  /-- the 59 arbiters (R401) -/
  arbs : SMap Arb := []
  /-- chains running (R414) -/
  chains : List Chain := []
  /-- chains prepared: read, judged and admitted, and not yet started (R357, R416) -/
  prepared : List Chain := []
  /-- the MODEL's own: this command has released admitted loads, and what waits for admission has not asked again yet (R403; DESIGN CHOICE, log entry 64) -/
  released : Bool := false
  /-- the 256 Rafter cores (R425) -/
  cores : SMap Core := []
  /-- RUNs under way, and the number of the next (R428) -/
  runs : List RunRec := []
  nextRun : Nat := 0
  /-- the 42 engines by global number (R436) -/
  engines : SMap Engine := []
  /-- the 256 Thatch arrays (R482) -/
  arrays : SMap Arr := []
  /-- flash and audit tasks queued, oldest first (R516, R518) -/
  tasks : List Task := []
  /-- job and journal per Bay (R528) -/
  journals : SMap Journal := []
  /-- OD 0x2C00.05 journal_seq (R531) -/
  jseq : Nat := 0
  /-- the journal records of the latest tick that emitted one (R532) -/
  jtick : TickRecs := {}
  /-- OD 0x2C00.04 boot_nonce (R531) -/
  nonce : Nat := 0
  fabric : Fabric := {}
  /-- region slots, keyed 16n + r (R593) -/
  regions : SMap Region := []
  /-- queue pairs, keyed 4n + i (R596) -/
  qps : SMap Qp := []
  /-- placement accesses accepted and not yet performed, and the number of the next (R600) -/
  places : List Place := []
  nextPlace : Nat := 0
  loops : Loops := {}
  /-- the last 1,024 fault records, newest first (R653) -/
  flog : List FRec := []
  /-- OD 0x2D00.01 log_head (R652) -/
  flogSeq : Nat := 0
  /-- checkpoints being copied, by Bay, and those held behind (R661, R673) -/
  ckpts : SMap (List Ckpt) := []
  /-- what the device has sent out, oldest first -/
  out : List Out := []
  /-- the MODEL's own: how many free values have been drawn (DESIGN CHOICE, log entry 2) -/
  free : Nat := 0
  /-- the MODEL's own: waiting commands that have taken their effect ahead of their turn, because a rule gives them precedence over another
  event of their tick (DESIGN CHOICE, log entry 60) -/
  ahead : List Instr := []
  /-- 1 bit, the replay signer has failed (R539) -/
  signerFailed : Bool := false
  /-- the MODEL's own: faults detected by the command under way, by class and Bay; empty between commands -/
  faults : List (FaultClass × Nat × Flt) := []
  /-- the MODEL's own: memory writes made by the command under way; empty between commands -/
  stores : List MemOp := []
deriving DecidableEq, Repr

/-- Why the device stops: nothing in this model does (every command of the table has an effect the spec gives, or is no
event of the device and leaves it as it is). The constructor is raised by no meaning; an access to memory that does not
exist is answered as the spec answers it. Safe: a stop only shortens runs. -/
inductive Fault where
  /-- raised by nobody; safe -/
  | none
deriving DecidableEq, Repr

/-- Why a command is refused by the MODEL. -/
inductive Refusal where
  /-- the command has no meaning yet: raised by its arm in Dispatch.lean only. Safe: nothing is claimed of it. -/
  | notModelled (mnemonic : String)
deriving DecidableEq, Repr


/-- The state of the machine. -/
structure State where
  /-- the commands that wait, first in, first out -/
  pending : List Instr := []
  /-- 64 bits, device time [ns] (R7, R58) -/
  time : Nat := 0
  /-- the memory behind Table — Local physical address map (R23): HBM with its Ridge metadata, Loft, local stores, Hatch
  slots, as (LPA, byte) pairs, strictly rising, listing no zero byte; an unlisted byte reads as 0 (DESIGN CHOICE, log entry 5) -/
  mem : List Host.Cell := []
  /-- the lines (LPA / 64) marked poisoned or uncorrectable in memory, strictly rising (R299) -/
  poison : List Nat := []
  /-- everything else -/
  dev : Dev := {}
deriving DecidableEq, Repr

/-- The machine right after reset: standby rails out of range or SYS_RST_N low, boot state RESET (R53, R59). -/
def State.reset : State := {}

/-- The outcome of a meaning. -/
abbrev Outc := Host.Outcome State Fault Refusal

end Sys2Proof.Machine
end

