-- ==== Sys2Proof/Machine/Ops.lean ====
section
/-! DEFINITION. The operations every family uses: sparse tables, bytes and bit fields, memory, the dictionary's values and
counters, Bay ownership and shares, interrupts, frames, the violation ring, the fault log and the rejection of commands. -/
namespace Sys2Proof.Machine

/-! ### Sparse tables -/

/-- The object with number `k`, `dflt` where the table lists none. -/
def smGet {α : Type} (dflt : α) : SMap α → Nat → α
  | [], _ => dflt
  | (i, v) :: r, k => if i = k then v else smGet dflt r k

/-- A table without object `k`. -/
def smDel {α : Type} (m : SMap α) (k : Nat) : SMap α := m.filter fun c => c.1 != k

/-- `v` put at `k`, before the first larger number. -/
def smIns {α : Type} (k : Nat) (v : α) : SMap α → SMap α
  | [] => [(k, v)]
  | (i, w) :: r => if k < i then (k, v) :: (i, w) :: r else (i, w) :: smIns k v r

/-- Object `k` becomes `v`; a default object is not listed. -/
def smSet {α : Type} [DecidableEq α] (dflt : α) (m : SMap α) (k : Nat) (v : α) : SMap α :=
  if v = dflt then smDel m k else smIns k v (smDel m k)

/-! ### Bytes and bit fields -/

/-- Bits [hi:lo] of a number. -/
def bits (v hi lo : Nat) : Nat := v / 2 ^ lo % 2 ^ (hi + 1 - lo)

/-- Bit `i` of a number. -/
def bit (v i : Nat) : Bool := v / 2 ^ i % 2 == 1

/-- 1 for true. -/
def b2n (b : Bool) : Nat := if b then 1 else 0

/-- `n` bytes of a number, little-endian (R3). -/
def leBytes : Nat → Nat → List Byte
  | 0, _ => []
  | n + 1, v => BitVec.ofNat 8 v :: leBytes n (v / 256)

/-- The number that bytes stand for, little-endian (R3). -/
def leNat : List Byte → Nat
  | [] => 0
  | b :: r => b.toNat + 256 * leNat r

/-- The little-endian field of `n` bytes at offset `off` of a structure (R3). -/
def fld (bs : List Byte) (off n : Nat) : Nat := leNat ((bs.drop off).take n)

/-- `n` zero bytes. -/
def zeros (n : Nat) : List Byte := List.replicate n 0

/-- Bytes cut or padded with zeros to length `n`. -/
def fit (n : Nat) (bs : List Byte) : List Byte := (bs ++ zeros (n - bs.length)).take n

/-- Two's complement of an integer in `n` bits. -/
def ofInt (n : Nat) (i : Int) : Nat := (i % (2 ^ n : Int)).toNat

/-- The integer that an `n`-bit number stands for in two's complement. -/
def toInt (n v : Nat) : Int := if v % 2 ^ n < 2 ^ (n - 1) then (v % 2 ^ n : Nat) else (v % 2 ^ n : Int) - 2 ^ n

/-- A list with `x` put in, if it is not in it already, in rising order. -/
def listIns (x : Nat) : List Nat → List Nat
  | [] => [x]
  | y :: r => if x = y then y :: r else if x < y then x :: y :: r else y :: listIns x r

/-- A list without `x`. -/
def listDel (x : Nat) (l : List Nat) : List Nat := l.filter (· != x)

/-- `x` in the list exactly when `b`. -/
def listPut (x : Nat) (b : Bool) (l : List Nat) : List Nat := if b then listIns x l else listDel x l

/-- Element `i` of a list replaced. -/
def listSet {α : Type} : List α → Nat → α → List α
  | [], _, _ => []
  | _ :: r, 0, v => v :: r
  | x :: r, i + 1, v => x :: listSet r i v

/-- `a` divided by `b`, rounded up. -/
def cdiv (a b : Nat) : Nat := (a + b - 1) / b

/-! ### Memory -/

/-- What a meaning sees besides the device: device time, memory as it was when the command began, its poison marks, the commands that
still wait on this tick, and how the service of the request at hand ends. -/
structure Env where
  time : Nat
  mem : List Host.Cell
  poison : List Nat
  tick : List Instr := []
  served : Served := .done
deriving DecidableEq, Repr

/-- One memory operation on the bytes of memory. A zero byte is not listed, so memory keeps its canonical form. -/
def MemOp.onMem (m : List Host.Cell) : MemOp → List Host.Cell
  | .write a bs => (bs.zipIdx a).foldl (fun m c => smSet 0 m c.2 c.1) m
  | .zero lo hi => m.filter fun c => c.1 < lo || hi ≤ c.1
  | .poison _ => m
  | .clean _ => m

/-- One memory operation on the poison marks. -/
def MemOp.onPoison (p : List Nat) : MemOp → List Nat
  | .write _ _ => p
  | .zero lo hi => p.filter fun l => l * 64 < lo || hi ≤ l * 64
  | .poison l => listIns l p
  | .clean l => listDel l p

/-- The byte a memory operation leaves at an address, where it touches it. -/
def MemOp.byteAt (x : Nat) : MemOp → Option Byte
  | .write a bs => if a ≤ x then bs[x - a]? else none
  | .zero lo hi => if lo ≤ x && x < hi then some 0 else none
  | .poison _ => none
  | .clean _ => none

/-- The poison mark a memory operation leaves on a line, where it touches it. -/
def MemOp.poisonAt (x : Nat) : MemOp → Option Bool
  | .write _ _ => none
  | .zero lo hi => if lo ≤ x * 64 && x * 64 < hi then some false else none
  | .poison l => if x = l then some true else none
  | .clean l => if x = l then some false else none

/-- The byte at an LPA, with the writes of the command under way applied. -/
def Dev.byte (d : Dev) (e : Env) (x : Nat) : Byte := (d.stores.findSome? (·.byteAt x)).getD (smGet 0 e.mem x)

/-- `n` bytes from an LPA. -/
def Dev.bytes (d : Dev) (e : Env) (x n : Nat) : List Byte := (List.range n).map fun i => d.byte e (x + i)

/-- The line is marked poisoned or uncorrectable in memory. -/
def Dev.poisoned (d : Dev) (e : Env) (l : Nat) : Bool := (d.stores.findSome? (·.poisonAt l)).getD (e.poison.contains l)

/-- A memory operation is made. -/
def Dev.store (d : Dev) (o : MemOp) : Dev := { d with stores := o :: d.stores }

/-- Bytes are written at an LPA. -/
def Dev.poke (d : Dev) (a : Nat) (bs : List Byte) : Dev := d.store (.write a bs)

/-- The memory operations of a command, newest first, take effect in the order made. -/
def State.commit (s : State) (d : Dev) : State :=
  { s with
    mem := d.stores.foldr (fun o m => o.onMem m) s.mem
    poison := d.stores.foldr (fun o p => o.onPoison p) s.poison
    dev := { d with stores := [] } }

/-- The environment of a command that begins in `s`. -/
def State.env (s : State) : Env := ⟨s.time, s.mem, s.poison, s.pending, .done⟩

/-- A command whose effect on the device is `f` completes. -/
def State.run (s : State) (f : Env → Dev → Dev) : Outc := .next (s.commit (f s.env s.dev))

/-- The byte of memory at an LPA. -/
def State.byte (s : State) (x : Nat) : Byte := smGet 0 s.mem x

/-- One nanosecond of device time passes while a span runs (R7, R58); before it, nothing happens. -/
def State.idle (s : State) : State :=
  if s.dev.board.rstN && s.dev.board.standby then { s with time := s.time + 1 } else s

/-- The canonical form of memory: addresses strictly rising, no entry equal to what an unlisted address reads as. -/
def memWf : List Host.Cell → Bool
  | [] => true
  | [c] => c.2 != 0
  | c :: c' :: r => c.2 != 0 && Nat.blt c.1 c'.1 && memWf (c' :: r)

/-! ### Objects -/

def Dev.bay (d : Dev) (n : Nat) : Bay := smGet {} d.bays n
def Dev.setBay (d : Dev) (n : Nat) (b : Bay) : Dev := { d with bays := smSet {} d.bays n b }
def Dev.page (d : Dev) (n : Nat) : Page := smGet {} d.pages n
def Dev.setPage (d : Dev) (n : Nat) (b : Page) : Dev := { d with pages := smSet {} d.pages n b }
def Dev.win (d : Dev) (fn : Nat) : Win := smGet {} d.srv.wins fn
def Dev.setWin (d : Dev) (fn : Nat) (w : Win) : Dev := { d with srv := { d.srv with wins := smSet {} d.srv.wins fn w } }
def Dev.spar (d : Dev) (s : Nat) : Spar := smGet {} d.spars s
def Dev.setSpar (d : Dev) (s : Nat) (x : Spar) : Dev := { d with spars := smSet {} d.spars s x }
def Dev.queue (d : Dev) (n q : Nat) : Queue := smGet {} d.queues (8 * n + q)
def Dev.setQueue (d : Dev) (n q : Nat) (x : Queue) : Dev := { d with queues := smSet {} d.queues (8 * n + q) x }
def Dev.gutter (d : Dev) (c : Nat) : Gutter := smGet {} d.gutters c
def Dev.setGutter (d : Dev) (c : Nat) (x : Gutter) : Dev := { d with gutters := smSet {} d.gutters c x }
def Dev.course (d : Dev) (c : Nat) : Course := smGet {} d.courses c
def Dev.setCourse (d : Dev) (c : Nat) (x : Course) : Dev := { d with courses := smSet {} d.courses c x }
def Dev.arb (d : Dev) (r : Nat) : Arb := smGet {} d.arbs r
def Dev.setArb (d : Dev) (r : Nat) (x : Arb) : Dev := { d with arbs := smSet {} d.arbs r x }
def Dev.core (d : Dev) (c : Nat) : Core := smGet {} d.cores c
def Dev.setCore (d : Dev) (c : Nat) (x : Core) : Dev := { d with cores := smSet {} d.cores c x }
def Dev.engine (d : Dev) (g : Nat) : Engine := smGet {} d.engines g
def Dev.setEngine (d : Dev) (g : Nat) (x : Engine) : Dev := { d with engines := smSet {} d.engines g x }
def Dev.arr (d : Dev) (a : Nat) : Arr := smGet {} d.arrays a
def Dev.setArr (d : Dev) (a : Nat) (x : Arr) : Dev := { d with arrays := smSet {} d.arrays a x }
def Dev.jour (d : Dev) (n : Nat) : Journal := smGet {} d.journals n
def Dev.setJour (d : Dev) (n : Nat) (x : Journal) : Dev := { d with journals := smSet {} d.journals n x }
def Dev.port (d : Dev) (p : Nat) : Port := smGet {} d.fabric.ports p
def Dev.setPort (d : Dev) (p : Nat) (x : Port) : Dev := { d with fabric := { d.fabric with ports := smSet {} d.fabric.ports p x } }
def Dev.region (d : Dev) (n r : Nat) : Region := smGet {} d.regions (16 * n + r)
def Dev.setRegion (d : Dev) (n r : Nat) (x : Region) : Dev := { d with regions := smSet {} d.regions (16 * n + r) x }
def Dev.qp (d : Dev) (n i : Nat) : Qp := smGet {} d.qps (4 * n + i)
def Dev.setQp (d : Dev) (n i : Nat) (x : Qp) : Dev := { d with qps := smSet {} d.qps (4 * n + i) x }
def Dev.island (d : Dev) (i : Nat) : Island := smGet {} d.loops.islands i
def Dev.setIsland (d : Dev) (i : Nat) (x : Island) : Dev := { d with loops := { d.loops with islands := smSet {} d.loops.islands i x } }
def Dev.domain (d : Dev) (i : Nat) : Domain := smGet {} d.loops.domains i
def Dev.setDomain (d : Dev) (i : Nat) (x : Domain) : Dev := { d with loops := { d.loops with domains := smSet {} d.loops.domains i x } }

/-- The clock ratio an island runs at: 64/256 while it retrains, else the loop's output or the value forced, under the thermal cap
(R614, R627, R632, R639). -/
def Island.eff (x : Island) : Nat := if x.retraining then 64 else min (if x.override = 0 then x.ratio else x.override) x.thermCap

/-- The VR_HOT cap: while `VR_HOT_N` is low, 204/256 for every island that VDD_CORE feeds (R48, R612, R630; DEDUCED, log entry 35). -/
def Dev.vrCap (d : Dev) (i : Nat) : Nat := if d.board.vrHot && Nat.blt i 348 then 204 else 256

/-- The clock ratio that an island runs at under the caps that no freeze suspends (R614, R632). -/
def Dev.eff (d : Dev) (i : Nat) : Nat := min (d.island i).eff (d.vrCap i)

/-- An island that is off starts (R616). -/
def Dev.wakeIsland (d : Dev) (e : Env) (i : Nat) : Dev :=
  if (d.island i).st == .off then d.setIsland i { d.island i with st := .starting, since := e.time } else d

/-- An island drops and counts a reply (R624). -/
def Dev.dropReply (d : Dev) (i : Nat) : Dev := let x := d.island i; d.setIsland i { x with dropped := x.dropped + 1 }

def Dev.scrub (d : Dev) (k : Nat) : Scrub := smGet {} d.loops.scrubs k
def Dev.setScrub (d : Dev) (k : Nat) (x : Scrub) : Dev := { d with loops := { d.loops with scrubs := smSet {} d.loops.scrubs k x } }

/-- A patrol trigger of a stack (R15, R642): it starts a pass, or is latched while one runs or while the controller island is not
`ACTIVE`, or is counted where one is latched already. -/
def Dev.scrubTrigger (d : Dev) (k : Nat) : Dev :=
  let x := d.scrub k
  if !x.running && !x.latched && (d.island (304 + k)).st == .active then
    d.setScrub k { x with running := true, paused := d.board.throttled.contains k }
  else if !x.latched then d.setScrub k { x with latched := true }
  else d.setScrub k { x with overruns := x.overruns + 1 }

/-- Something goes out. -/
def Dev.send (d : Dev) (o : Out) : Dev := { d with out := d.out ++ [o] }

/-- The free values that an operation with free order may have drawn, `k` of them, are used (DESIGN CHOICE, log entry 2). -/
def Dev.drawn (d : Dev) (free : Bool) (k : Nat) : Dev := if free then { d with free := d.free + k } else d

/-- Bytes that the spec leaves open, by the free values drawn from `k` on (DESIGN CHOICE, log entry 2). -/
def freeBytes (k n : Nat) : List Byte := (List.range n).map fun i => BitVec.ofNat 8 (Config.freeValue (k + i))

/-- How many bytes of a Hatch slot lie beyond the length that its header gives (R191). -/
def slotOpen (bs : List Byte) : Nat := 64 - min 64 (8 + fld bs 3 1)

/-- What a Hatch slot holds once it is written: payload bytes beyond the length are undefined to the reader (R191). -/
def slotLine (k : Nat) (bs : List Byte) : List Byte := bs.take (min 64 (8 + fld bs 3 1)) ++ freeBytes k (slotOpen bs)

/-- The next free value (DESIGN CHOICE, log entry 2). -/
def Dev.draw (d : Dev) : Nat × Dev := (Config.freeValue d.free, { d with free := d.free + 1 })

/-! ### The dictionary's values (R92, R676) -/

/-- Size in bytes of a type; 0 for a DOMAIN (R92). -/
def Ty.size : Ty → Nat
  | .u n => n | .i n => n | .oct n => n | .dom => 0

/-- Size in bytes of an entry's value. -/
def odSize (idx sub : Nat) : Nat := match entryOf idx sub with | some t => t.ty.size | none => 8

/-- The value an entry holds: what was last written or counted, else its default. -/
def Dev.od (d : Dev) (idx sub : Nat) : Nat := smGet (odDefault idx sub) d.srv.od (idx * 256 + sub)

/-- An entry takes a value. -/
def Dev.setOd (d : Dev) (idx sub v : Nat) : Dev :=
  { d with srv := { d.srv with od := smSet (odDefault idx sub) d.srv.od (idx * 256 + sub) v } }

/-- A counter rises by `k`. What a counter reads past its width is stated nowhere: a free value (DESIGN CHOICE, log entry 2). -/
def Dev.count (d : Dev) (idx sub k : Nat) : Dev :=
  if d.od idx sub + k < 256 ^ odSize idx sub then d.setOd idx sub (d.od idx sub + k)
  else (d.draw.2).setOd idx sub (d.draw.1 % 256 ^ odSize idx sub)

/-- An entry keeps the largest value. -/
def Dev.maxOd (d : Dev) (idx sub v : Nat) : Dev := if d.od idx sub < v then d.setOd idx sub v else d

/-- The effective attach mode: 11 is treated as 00 (R38). -/
def Dev.attachMode (d : Dev) : Nat := if d.board.strapRaw.toNat % 4 = 3 then 0 else d.board.strapRaw.toNat % 4

/-- CAN_NODE as latched (R38). -/
def Dev.canNode (d : Dev) : Nat := bits d.board.strapRaw.toNat 8 2

/-! ### Bays: modes, ranges and shares (R138, R140, R148) -/

/-- The Bay is strict (R140). -/
def Dev.strict (d : Dev) (n : Nat) : Bool := d.od (0x2100 + n) 3 == 1

/-- The Bay is detachable (R140). -/
def Dev.detachable (d : Dev) (n : Nat) : Bool := d.od (0x2100 + n) 4 == 1

/-- owner_link: its default depends on the attach mode (R140, R156). -/
def Dev.ownerLink (d : Dev) (n : Nat) : Nat :=
  if d.od (0x2100 + n) 5 < 0x100 then d.od (0x2100 + n) 5 else b2n (d.attachMode == 1)

/-- A number lies in a range. -/
def Rng.has (r : Rng) (x : Nat) : Bool := r.base ≤ x && x < r.base + r.count

/-- Two ranges share a number. -/
def Rng.meets (r s : Rng) : Bool := r.count != 0 && s.count != 0 && Nat.blt r.base (s.base + s.count) && Nat.blt s.base (r.base + r.count)

/-- The Bay numbers. -/
def bays16 : List Nat := List.range 16

/-- The Bay that holds number `x` of a resource. -/
def Dev.holder (d : Dev) (sel : Ranges → Rng) (x : Nat) : Option Nat := bays16.find? fun n => (sel (d.bay n).held).has x

/-- The Bay that holds a Spar (R320, R324). -/
def Dev.sparBay (d : Dev) (s : Nat) : Option Nat := d.holder (·.spar) s

/-- The Bay holds a Gutter channel, packing or strict. -/
def Ranges.hasGutter (r : Ranges) (c : Nat) : Bool := r.gpack.has c || r.gstrict.has c

/-- `IDLE`, `RUNNING` or `PARKED`. -/
def BaySt.live : BaySt → Bool
  | .idle => true | .running => true | .parked => true
  | .free => false | .configuring => false | .draining => false | .faulted => false

/-- `IDLE` or `RUNNING`. -/
def BaySt.awake : BaySt → Bool
  | .idle => true | .running => true
  | .parked => false | .free => false | .configuring => false | .draining => false | .faulted => false

/-- A share in force, as the accepting Bay sees it (R148). -/
structure Share where
  granter : Nat
  taker : Nat
  first : Nat
  count : Nat
  write : Bool
deriving DecidableEq, Repr

/-- The shares in force that Bay `m` has accepted (R148). -/
def Dev.shares (d : Dev) (m : Nat) : List Share :=
  if !(d.bay m).st.live then [] else
  (List.range 8).filterMap fun i =>
    let a := d.od (0x2100 + m) (0x28 + i)
    let n := bits a 35 32
    -- a strict Bay neither grants nor accepts a share with the write bit set (R149)
    if bit a 37 && n != m && (d.bay n).st.live && !(bit a 36 && (d.strict n || d.strict m)) &&
       (List.range 8).any (fun j =>
         let g := d.od (0x2100 + n) (0x20 + j)
         bit g 37 && bits g 35 32 == m && bits g 31 0 == bits a 31 0 && bit g 36 == bit a 36) then
      some ⟨n, m, bits a 15 0, bits a 31 16, bit a 36⟩
    else none

/-- A granule lies in a share. -/
def Share.has (h : Share) (g : Nat) : Bool := h.first ≤ g && g < h.first + h.count

/-- Bay `n`'s own writes to granule `g` are refused: a read-only share of it is in force whose accepting Bay is strict (R149). -/
def Dev.frozenGranule (d : Dev) (n g : Nat) : Bool :=
  bays16.any fun m => d.strict m && (d.shares m).any fun h => h.granter == n && !h.write && h.has g

/-- How the Bay boundaries answer an access (R228, R149). -/
inductive Reach where
  | ok | bad | perm | access
deriving DecidableEq, Repr

/-- The granule of an LPA in software-visible HBM (R138). -/
def granule (a : Nat) : Nat := a / 0x10000000

/-- One byte's LPA against Bay `n`'s reachable set, judged at the tick of the access (R228, R149, R150). -/
def Dev.reach1 (d : Dev) (n a : Nat) (write : Bool) : Reach :=
  if a < 0x5E80000000 then
    if (d.bay n).held.hbm.has (granule a) then
      if write && d.frozenGranule n (granule a) then .access else .ok
    else match (d.shares n).find? (·.has (granule a)) with
      | some h => if write && !h.write then .perm else .ok
      | none => .bad
  else if 0x10000000000 ≤ a && a < 0x10018000000 then
    if (d.bay n).held.loft.has ((a - 0x10000000000) / 0x100000) then .ok else .bad
  else if 0x11000000000 ≤ a && a < 0x11008000000 then
    if (d.bay n).held.core.has ((a - 0x11000000000) / 0x80000) then .ok else .bad
  else if 0x12000000000 ≤ a && a < 0x12000008000 then
    if (d.bay n).held.spar.has ((a - 0x12000000000) / 8) then .ok else .bad
  else if 0x13000000000 ≤ a && a < 0x13000008000 then
    if (a - 0x13000000000) / 2048 = n && (d.bay n).st != .free then .ok else .bad
  else .bad

/-- An access of `len` bytes against Bay `n`'s reachable set: its first and its last byte (R228). -/
def Dev.reach (d : Dev) (n a len : Nat) (write : Bool) : Reach :=
  match d.reach1 n a write with
  | .ok => d.reach1 n (a + len - 1) write
  | r => r

/-- A range of bytes meets the shadow of an array that protects it: one that is not UNSHADOWED (R491). -/
def Dev.shadowed (d : Dev) (a len : Nat) : Bool :=
  d.arrays.any fun c => c.2.st != .unshadowed && Nat.blt a (c.2.shadow + 0x100000) && Nat.blt c.2.shadow (a + len)

/-- Bytes of a region (R593, R611). -/
def Region.len (r : Region) : Nat := (r.ctl % 65536 + 1) * 4096

/-- A range of bytes meets a region of Bay `n` that its own requesters may not write: `AWAITING` or `SEALED` (R603). -/
def Dev.sealed (d : Dev) (n a len : Nat) : Bool :=
  d.regions.any fun c => c.1 / 16 == n && (c.2.st == .awaiting || c.2.st == .sealed) &&
    Nat.blt a (c.2.base + c.2.len) && Nat.blt c.2.base (a + len)

/-- The job of Bay `n` is over: its `AWAITING` and `SEALED` regions are `OPEN` (R602). -/
def Dev.unseal (d : Dev) (n : Nat) : Dev :=
  { d with regions := d.regions.map fun c =>
      if c.1 / 16 = n && (c.2.st == .awaiting || c.2.st == .sealed) then (c.1, { c.2 with st := .open_, pages := [] }) else c }

/-- An LPA is coherent: HBM (R26, R27). -/
def inHbm (a : Nat) : Bool := Nat.blt a 0x5E80000000

/-- The island of an engine, by its global number (Table — Engine groups, R435, R436). -/
def engineIsland (g : Nat) : Nat :=
  if g < 4 then 320 + g            -- sort/top-k: groups 8 to 11
  else if g < 12 then 312 + (g - 4)
  else if g < 20 then 312 + (g - 12)
  else if g < 28 then 320 + (g - 20) / 2
  else if g < 32 then 324 + (g - 28) / 2
  else if g < 40 then 312 + (g - 32)
  else 324 + (g - 40)

/-- The first global number of an engine kind, and how many engines it has (Table — Engine functions). -/
def engineBase : Nat → Nat × Nat
  | 0 => (0, 4) | 1 => (4, 8) | 2 => (12, 8) | 3 => (20, 8) | 4 => (28, 4) | 5 => (32, 8) | 6 => (40, 2) | _ => (42, 0)

/-! ### Frames (R559 to R566) -/

/-- Credits a frame costs, of 64 bytes each, its header and payload together (R560; DESIGN CHOICE, log entry 10). -/
def frameCost (f : Frame) : Nat := cdiv (32 + f.payload.length) 64

/-- A port's remaining credits for a virtual channel: 512 at link-up (R560). -/
def Port.credit (p : Port) (vc : Nat) : Int := smGet 512 p.credits vc

/-- A sequenced frame leaves a port, or joins the port's queue while it lacks credits (R559, R560). -/
def Dev.portSend (d : Dev) (p : Nat) (f : Frame) : Dev :=
  let x := d.port p
  if (frameCost f : Int) ≤ x.credit f.vc && !(x.queued.any (·.vc == f.vc)) then
    let g := { f with seq := x.txSeq.toNat, len := f.payload.length }
    ((d.setPort p { x with
        txSeq := x.txSeq + 1
        unacked := x.unacked ++ [(x.txSeq, g)]
        credits := smSet 512 x.credits f.vc (x.credit f.vc - frameCost f) }).send (.frame p g)).count (0x2A20 + p) 0x10 1
  else d.setPort p { x with queued := x.queued ++ [f] }

/-- A link frame leaves a port: neither sequenced nor retransmitted (R559). -/
def Dev.linkSend (d : Dev) (p : Nat) (f : Frame) : Dev :=
  (d.send (.frame p { f with vc := 7, linkLocal := true, len := f.payload.length })).count (0x2A20 + p) 0x10 1

/-- The ports of a destination's mask that are in service, in ascending order (R562). -/
def Dev.routeList (d : Dev) (dst : Nat) : List Nat :=
  (List.range 12).filter fun p => bit (smGet 0 d.fabric.routes dst) p && (d.port p).st == .inService

/-- Frames for a destination are queued in this device's switch (R563). -/
def Dev.queuedFor (d : Dev) (dst : Nat) : Bool := d.fabric.ports.any fun c => c.2.queued.any fun f => !f.directed && f.dst == dst

/-- The ports for a destination: while frames for it are queued, they stay those by which they were queued (R563). -/
def Dev.routesFor (d : Dev) (dst : Nat) : List Nat :=
  if d.queuedFor dst then smGet (d.routeList dst) d.fabric.chosen dst else d.routeList dst

/-- The port of R562 for a frame, by its source and destination. -/
def Dev.routePort (d : Dev) (src dst : Nat) : Option Nat := let l := d.routesFor dst; l[(src ^^^ dst) % l.length]?

/-- A frame is switched towards its destination (R562). -/
def Dev.switch (d : Dev) (f : Frame) : Dev :=
  let l := d.routesFor f.dst
  let d := match d.routePort f.src f.dst with
    | some p => if (d.port p).st == PortSt.inService then d.portSend p f else d.count 0x2A00 9 1
    | none => d.count 0x2A00 9 1
  { d with fabric := { d.fabric with chosen := if d.queuedFor f.dst then smIns f.dst l (smDel d.fabric.chosen f.dst) else smDel d.fabric.chosen f.dst } }

/-- This device's ID (R557); 0xFFF while unassigned. -/
def Dev.fabId (d : Dev) : Nat := d.fabric.id.getD 0xFFF

/-- The device originates a frame (R558, R565). -/
def Dev.originate (d : Dev) (f : Frame) : Dev := d.switch { f with src := d.fabId, hops := d.od 0x2A00 5 }

/-! ### Interrupts (R175 to R177, R577) -/

/-- The function for which the device sends a TLP, and the host address it names. -/
def Out.fnAddr : Out → Option Nat × Option Nat
  | .msix fn _ => (some fn, none)
  | .hostWr fn a _ _ _ _ _ _ => (some fn, some a)
  | .hostRd fn _ a _ _ _ _ => (some fn, some a)
  | .transReq fn _ a _ _ _ => (some fn, some a)
  | .pageReq fn _ a _ _ _ _ _ => (some fn, some a)
  | .invalCpl fn _ => (some fn, none)
  | .evt .. | .cpl .. | .err .. | .frame .. | .eth .. | .roce .. | .ptp .. | .can .. | .smb .. | .spi .. | .avs .. | .pps | .ridge .. | .cxl .. => (none, none)

/-- A keyed stream covers a function. -/
def Dev.ideFns (d : Dev) (k : Nat) : List Nat := ((smGet none d.link.ide k).map (·.fns)).getD []

/-- An Insecure IDE stream covers the function: its TLPs are dropped (R177). -/
def Dev.insecure (d : Dev) (fn : Nat) : Bool := d.link.ideBad.any fun k => (d.ideFns k).contains fn

/-- An Insecure IDE stream carries a TLP that the device sends: by its function, or by the host address it names (R177). -/
def Dev.insecureOut (d : Dev) (o : Out) : Bool :=
  d.link.ideBad.any fun k =>
    (match o.fnAddr.1 with | some fn => (d.ideFns k).contains fn | none => false) ||
    (match (o.fnAddr.2, smGet none d.link.ide k) with | (some a, some x) => x.ranges.any fun r => r.1 ≤ a && a ≤ r.2 | _ => false)

/-- Something goes out on the host link: at once while it is UP, after its return while it is RECOVERING (R184); on a link
that is dark, training or lost, and on an Insecure stream, nothing goes out (R177). -/
def Dev.hostSend (d : Dev) (o : Out) : Dev :=
  if d.insecureOut o then d else
  match d.link.st with
  | .up => d.send o
  | .recovering => { d with link := { d.link with held := d.link.held ++ [o] } }
  | .dark => d | .training => d | .lost => d

/-- A RoCEv2 packet leaves an Ethernet port, or waits while its priority is paused (R578, R579). -/
def Dev.roceOut (d : Dev) (p : Nat) (kind : String) (qpn psn : Nat) (data : List Byte) : Dev :=
  let x := d.port p
  let o := Out.roce p kind qpn psn data
  if x.paused.any fun c => c.1 == d.od (0x2A20 + p) 0xE then d.setPort p { x with held := x.held ++ [o] }
  else (d.send o).count (0x2A20 + p) 0x10 1

/-- Bay `n` drains: its regions become UNREGISTERED, placement accesses not yet performed are refused with `STATE`, and its
queue pairs return to their defaults (R602, R609). -/
def Dev.dropRegions (d : Dev) (n : Nat) : Dev :=
  let gone := d.places.filter (·.bay == n)
  let d := { d with
    regions := (d.regions.map fun c => if c.1 / 16 = n then (c.1, { c.2 with st := .unregistered, ctl := c.2.ctl / 2 ^ 17 * 2 ^ 17 + c.2.ctl % 65536, pages := [] }) else c).filter
      fun c => c.2 != {}
    places := d.places.filter (·.bay != n)
    qps := d.qps.filter fun c => c.1 / 4 != n }
  let d := gone.foldl (fun d p =>
    let d := d.count (0x2A60 + n) 8 1
    let d := match p.reply with | some f => d.originate { f with st := Status.state.code, payload := [], len := 0 } | none => d
    let d := match p.tag with | some t => d.hostSend (.cpl t "UR" []) | none => d
    match p.roce with | some r => d.roceOut r.1 "NAK Remote Access Error" r.2.1 r.2.2.1 [] | none => d) d
  (List.range 8).foldl (fun d i => d.setOd (0x2A60 + n) (9 + i) (odDefault (0x2A60 + n) (9 + i))) d

/-- The vector's Mask bit is clear (R175). -/
def Dev.unmasked (d : Dev) (fn v : Nat) : Bool := d.link.msixOpen.contains (fn * 8 + v)

/-- A Bay's causes go over the fabric (R577). -/
def Dev.bayEvt (d : Dev) (n : Nat) : Bool := d.ownerLink n == 1

/-- Vector `v` of Bay `n` may be sent now (R176). -/
def Dev.bayVecOk (d : Dev) (n v : Nat) : Bool :=
  d.unmasked (n + 1) v && (d.bay n).st != .draining && (d.bay n).st != .free &&
  (d.bayEvt n || (d.link.msixOn.contains (n + 1) && d.link.bme.contains (n + 1)))

/-- The message of Bay `n`'s vector `v` is sent: MSI-X, or EVT to owner_id (R175, R577). -/
def Dev.bayMsg (d : Dev) (n v : Nat) : Dev :=
  if d.bayEvt n then d.originate { ty := 0x32, vc := 6, dst := d.od (0x2A40 + n) 1, aux := v + 16 * n }
  else d.hostSend (.msix (n + 1) v)

/-- A vector becomes pending. -/
def Dev.pendVec (d : Dev) (fn v : Nat) : Dev :=
  { d with link := { d.link with msixPend := listIns (fn * 8 + v) d.link.msixPend } }

/-- A cause of Bay `n`'s vector `v` arises (R175, R176). A Bay in `FREE` has none. -/
def Dev.raiseBay (d : Dev) (n v : Nat) : Dev :=
  if d.bayVecOk n v then d.bayMsg n v
  else if (d.bay n).st == .free then d else d.pendVec (n + 1) v

/-- PF vector causes go over the fabric in attach mode 01 (R577). -/
def Dev.pfVecOk (d : Dev) (v : Nat) : Bool :=
  d.unmasked 0 v && (d.attachMode == 1 || (d.link.msixOn.contains 0 && d.link.bme.contains 0))

/-- The message of PF vector `v` (R175, R577). -/
def Dev.pfMsg (d : Dev) (v : Nat) : Dev :=
  if d.attachMode == 1 then d.originate { ty := 0x32, vc := 6, dst := d.fabric.fm, aux := v + 256 }
  else d.hostSend (.msix 0 v)

/-- A cause of PF vector `v` arises (R175, R176). -/
def Dev.raisePf (d : Dev) (v : Nat) : Dev := if d.pfVecOk v then d.pfMsg v else d.pendVec 0 v

/-- Every pending vector that may now be sent is sent once (R176). -/
def Dev.flushVecs (d : Dev) : Dev :=
  d.link.msixPend.foldl (fun d k =>
    let fn := k / 8
    let v := k % 8
    if (if fn = 0 then d.pfVecOk v else d.bayVecOk (fn - 1) v) then
      let d := { d with link := { d.link with msixPend := listDel k d.link.msixPend } }
      if fn = 0 then d.pfMsg v else d.bayMsg (fn - 1) v
    else d) d

/-! ### The violation ring (R179, R181, R583) -/

/-- The AER error of a partner violation's kind (Table — Partner violations). -/
def aerOf : Nat → Option Aer
  | 1 => some .malformed | 2 => some .poisoned | 3 => some .unsupported | 4 => some .unexpectedCpl | 5 => some .cplTimeout
  | 7 => some .ecrc | 8 => some .unexpectedCpl | 9 => some .internal | 10 => some .ide | 11 => some .completerAbort
  | _ => none

/-- The bit of an AER error in the status, severity and first-error fields (PCIe 6.0; PRESUMED, log entry 59). -/
def Aer.bitNo : Aer → Nat
  | .malformed => 18 | .poisoned => 12 | .unsupported => 20 | .unexpectedCpl => 16 | .cplTimeout => 14 | .ecrc => 19 | .internal => 22
  | .ide => 28 | .completerAbort => 15

/-- AER takes an error: its status bit, and for the first one the header (R158, R179). -/
def Link.report (l : Link) (kind : Nat) (header : List Byte) : Link :=
  match aerOf kind with
  | none => l
  | some x =>
    let l := { l with aer := if l.aer.contains x then l.aer else l.aer ++ [x] }
    if l.aerFirst.isSome then l else { l with aerFirst := some x, aerLog := fit 56 header }

/-- The error message that a violation draws, by the severity the host has set, where PF0's reporting of it is enabled; a poisoned TLP is
advisory (R179, R180; PCIe 6.0: PRESUMED, log entry 59). The device's answer does not rest on it. -/
def Dev.errMsg (d : Dev) (kind : Nat) : Dev :=
  match aerOf kind with
  | none => d
  | some x =>
    let fatal := bit d.link.aerSeverity x.bitNo
    if smGet 0 d.link.cfg (if fatal then 3 else 2) % 2 = 1 && (fatal || kind != 2) then d.hostSend (.err fatal) else d

/-- A violation record is written and PF vector 2 raised (R179, R181). `answer`: 0 none, 1 UR, 2 CA. -/
def Dev.violate (d : Dev) (e : Env) (rid kind answer : Nat) (header : List Byte) : Dev :=
  let r : ViolRec := ⟨d.link.violSeq + 1, e.time, rid, kind, answer, fit 40 header⟩
  (({ d with link := { d.link.report kind header with violSeq := r.seq, viol := (r :: d.link.viol).take 256 } } : Dev).errMsg kind).raisePf 2

/-! ### The fault log (R650 to R654) -/

/-- A job is open in the Bay: strict by its journal, open by any of its queues (R361, R528). -/
def Dev.jobOpen (d : Dev) (n : Nat) : Bool := (List.range 8).any fun q => (d.queue n q).job.isSome

/-- The job ID and attempt that a record of the Bay carries (R652); 0 outside a job. -/
def Dev.jobIds (d : Dev) (n q : Nat) : Nat × Nat :=
  if d.strict n then if (d.jour n).st == .none then (0, 0) else ((d.jour n).id, (d.jour n).attempt)
  else if (d.queue n q).job.isSome then ((d.queue n q).jobId, 0) else (0, 0)

/-- A record stands before another of its tick: lower island, or the same and a lower object (R654). -/
def FRec.before (a b : FRec) : Bool := Nat.blt a.island b.island || (a.island == b.island && Nat.blt a.object b.object)

/-- A record put in its place among those of its tick, in a log whose newest stands first (R654). -/
def fRecIns (f : FRec) : List FRec → List FRec
  | [] => [f]
  | x :: l => if x.time = f.time && f.before x then x :: fRecIns f l else f :: x :: l

/-- The records of tick `t` at the head of the log, numbered down from `s`. -/
def fRecNums (t : Nat) : Nat → List FRec → List FRec
  | _, [] => []
  | s, x :: l => if x.time = t then { x with seq := s } :: fRecNums t (s - 1) l else x :: l

/-- The log holds these records, those of the tick numbered anew; each Bay's newest follows (R653, R654). -/
def Dev.setLog (d : Dev) (e : Env) (l : List FRec) : Dev :=
  let l := fRecNums e.time d.flogSeq l
  ((l.takeWhile fun x => x.time == e.time).reverse).foldl (fun d x => if x.bay < 16 then d.setOd (0x2D10 + x.bay) 8 x.seq else d)
    { d with flog := l.take 1024 }

/-- A fault or event record is written, in its place among those of its tick, and counted (R651 to R654). `f.seq` and `f.time` are filled in. -/
def Dev.logRec (d : Dev) (e : Env) (f : FRec) : Dev :=
  (({ d with flogSeq := d.flogSeq + 1 } : Dev).setLog e (fRecIns { f with time := e.time } d.flog)).count 0x2D00
    (match f.severity with | 2 => 5 | 3 => 6 | 4 => 7 | 5 => 8 | _ => 9) 1

/-- The number of the first record of the tick that `p` names. -/
def Dev.tickFault (d : Dev) (e : Env) (p : FRec → Bool) : Nat :=
  (d.flog.filter fun x => x.time == e.time && p x).foldl (fun _ x => x.seq) d.flogSeq

/-- The record of a fault of the given class for a Bay; 0xFF for none (R652). -/
def Dev.fltRec (d : Dev) (cls : FaultClass) (bay : Nat) (f : Flt) : FRec :=
  let j := if bay < 16 then d.jobIds bay f.q else (0, 0)
  ⟨0, 0, cls.severity, bay, f.status.code, f.source, f.island, f.object, f.cause, f.pos, f.addr, j.1, j.2⟩

/-- An event of Table — Logged events is recorded (R651, R665). -/
def Dev.event (d : Dev) (e : Env) (bay cause : Nat) : Dev :=
  let j := d.jobIds bay 8
  d.logRec e ⟨0, 0, 0, bay, 0, 0x0F, 348, 0xFFFF, cause, 0xFFFFFFFF, 0, j.1, j.2⟩

/-- A fault is detected; what follows from its class takes effect as the command ends (R650). -/
def Dev.fault (d : Dev) (cls : FaultClass) (bay : Nat) (f : Flt) : Dev := { d with faults := d.faults ++ [(cls, bay, f)] }

/-- A fault of class CORRECTED is counted and not recorded (R650, R651). -/
def Dev.corrected (d : Dev) : Dev := d.count 0x2D00 4 1

/-- A fault of class RETRIED is counted and recorded (R650). -/
def Dev.retried (d : Dev) (e : Env) (bay : Nat) (f : Flt) : Dev := d.logRec e (d.fltRec .retried bay f)

/-! ### Journal records (R530 to R533) -/

/-- Bytes held in the Bay's holding buffer: OD 0x2C10+n.07 (R541). -/
def Dev.heldBytes (d : Dev) (n : Nat) : Nat := ((d.jour n).heldRecs.map (·.2.length)).sum

/-- The holding buffer has room for a record of the given length (R541). -/
def Dev.roomFor (d : Dev) (n len : Nat) : Bool := d.heldBytes n + len ≤ 65536

/-- The signature of the replay signer over bytes; 96 zero bytes once it has failed (R537, R668). -/
def Dev.sign (d : Dev) (bs : List Byte) : List Byte :=
  if d.signerFailed then zeros 96 else ecdsaSign Config.replayKey bs

/-- A journal record takes the next sequence number, chains to the record before it in its job, and joins the holding buffer, from which
SINK_RECORD_WRITE takes it (R530, R531, R540); a signed one ends with its signature (R537). -/
def Dev.putRec (d : Dev) (time : Nat) (r : TickRec) : Dev :=
  let j := d.jour r.bay
  let s := d.jseq + 1
  let chain := if !r.chained || (r.ty == 1 && r.attempt == 0) then zeros 48 else j.chain
  let hd := leBytes 4 0x08804A52 ++ leBytes 2 r.ty ++ leBytes 2 1 ++ leBytes 4 (0x60 + r.body.length + 96 * b2n r.signed) ++ leBytes 1 r.bay ++
    leBytes 1 (b2n r.chained) ++ leBytes 2 0 ++ leBytes 8 s ++ leBytes 8 time ++ leBytes 8 r.id ++ leBytes 4 r.attempt ++ leBytes 4 0 ++ chain
  let x := hd ++ r.body ++ (if r.signed then d.sign (hd ++ r.body) else [])
  ({ d with jseq := s } : Dev).setJour r.bay { j with
    heldRecs := j.heldRecs ++ [(s, x)]
    chain := if r.chained then sha384 x else j.chain
    closeSeq := if r.ty == 9 then some s else j.closeSeq }

/-- A record stands before another of its tick: by Bay, those tied to a command first and by its position (R532). -/
def TickRec.before (a b : TickRec) : Bool :=
  Nat.blt a.bay b.bay || (a.bay == b.bay && ((!a.late && b.late) || (a.late == b.late && Nat.blt a.key b.key)))

/-- A record put in its place among those of its tick (R532). -/
def recIns (x : TickRec) : List TickRec → List TickRec
  | [] => [x]
  | y :: l => if x.before y then x :: y :: l else y :: recIns x l

/-- The records of the tick, all of them still held, are emitted afresh in their order (R532). -/
def Dev.recast (d : Dev) (e : Env) : Dev :=
  let g := d.jtick
  let d := g.chains.foldl (fun d c =>
    let j := d.jour c.1
    d.setJour c.1 { j with heldRecs := j.heldRecs.filter fun x => x.1 ≤ g.seq0, chain := c.2 }) { d with jseq := g.seq0 }
  g.recs.foldl (fun d r => d.putRec e.time r) d

/-- What the records of the present tick are so far; none where the latest stand fixed. -/
def Dev.tickRecs (d : Dev) (e : Env) : TickRecs :=
  if d.jtick.time = e.time && d.jtick.seq0 + d.jtick.recs.length = d.jseq then d.jtick else { time := e.time, seq0 := d.jseq }

/-- A journal record is emitted, in its place among those of its tick (R530, R532). `pos` is the position of the command it is tied to, all ones
for none; `chained` places it inside the Bay's job; `signed` adds the signature at its end (R537). -/
def Dev.emitRec (d : Dev) (e : Env) (n ty pos : Nat) (chained signed : Bool) (body : List Byte) : Dev :=
  let j := d.jour n
  let r : TickRec := ⟨n, ty == 6 || ty == 7, if pos = 0xFFFFFFFF then 2 ^ 32 else (pos + 2 ^ 32 - j.pos.toNat) % 2 ^ 32, ty, chained,
    if chained then j.id else 0, if chained then j.attempt else 0, signed, body⟩
  let g := d.tickRecs e
  let g := if g.chains.any (·.1 == n) then g else { g with chains := g.chains ++ [(n, j.chain)] }
  let d : Dev := { d with jtick := { g with recs := recIns r g.recs } }
  if g.recs.any fun y => r.before y then d.recast e else d.putRec e.time r

/-- The records emitted so far stand fixed: no later one of their tick goes before them. -/
def Dev.fixRecs (d : Dev) : Dev := { d with jtick := {} }

/-- A job whose JOB_CLOSE was signed on this tick, and is still held, is `OPEN` again: a fault of the tick takes effect first (R548). -/
def Dev.unsign (d : Dev) (e : Env) (n : Nat) : Dev :=
  let g := d.tickRecs e
  let mine (r : TickRec) : Bool := r.bay == n && r.ty == 9
  if (d.jour n).st == .signed && g.recs.any mine then
    let d := ({ d with jtick := { g with recs := g.recs.filter fun r => !(mine r) } } : Dev).recast e
    d.setJour n { d.jour n with st := .open_, closeSeq := none }
  else d

/-- The record that a RESTART of severity `sev` in Bay n names is one of class JOB or BAY of the Bay, or of class DEVICE (R655, R658, R668). -/
def FRec.restarts (n sev : Nat) (x : FRec) : Bool := x.severity == sev && (sev == 5 || x.bay == n)

/-- The RESTART records of the tick that are still held name the first of their faults' records as they are numbered now (R654, R658). -/
def Dev.nameRestarts (d : Dev) (e : Env) : Dev :=
  let g := d.tickRecs e
  let recs := g.recs.map fun r =>
    if r.ty = 8 then { r with body := r.body.take 16 ++ leBytes 8 (d.tickFault e (FRec.restarts r.bay (leNat (r.body.take 1)))) } else r
  if recs == g.recs then d else ({ d with jtick := { g with recs := recs } } : Dev).recast e

/-- A job is open in a strict Bay's journal (R528). -/
def Dev.inJob (d : Dev) (n : Nat) : Bool := (d.jour n).st != .none

/-- A rejection under R17: counted in the Bay's rejections; in a strict Bay a REJECT record, discarded and counted in
sink_lost where the holding buffer has no room (R17, R530, R541). -/
def Dev.reject (d : Dev) (e : Env) (n kind : Nat) (st : Status) (obj pos : Nat) : Dev :=
  let d := d.count (0x2100 + n) 0x30 1
  if !d.strict n then d
  else if d.roomFor n 112 then
    d.emitRec e n 7 0xFFFFFFFF (d.inJob n) false (leBytes 1 kind ++ leBytes 1 st.code ++ leBytes 2 obj ++ leBytes 4 pos ++ zeros 8)
  else (d.setJour n { d.jour n with lost := (d.jour n).lost + b2n (d.inJob n) }).count (0x2C10 + n) 8 1

end Sys2Proof.Machine
end

