-- ==== Sys2Proof/Machine/Arith.lean ====
section
/-! DEFINITION. Arithmetic reference version 1 (chapter 17): integers, binary32 and bf16 with their rounding, the fixed-shape
reduction, the element functions, requantisation, the transcendentals, sort, top-k, histogram and the compression formats.
A binary32 or bf16 value is its bit pattern. -/
namespace Sys2Proof.Machine

/-! ### Formats and rounding (R453 to R457) -/

/-- The value of a pattern: m × 2^e, with its sign. -/
inductive Fp where
  | nan
  | inf (neg : Bool)
  | fin (neg : Bool) (m : Nat) (e : Int)
deriving DecidableEq, Repr

/-- The canonical NaN (R456). -/
def nan32 : Nat := 0x7FC00000

/-- A binary32 pattern as read: a subnormal is a zero of its sign (R454). -/
def dec32 (x : Nat) : Fp :=
  let neg := bit x 31
  let ex := bits x 30 23
  let fr := x % 2 ^ 23
  if ex = 255 then (if fr = 0 then .inf neg else .nan)
  else if ex = 0 then .fin neg 0 0
  else .fin neg (2 ^ 23 + fr) ((ex : Int) - 150)

/-- A sign and a magnitude of 31 bits. -/
def sgn32 (neg : Bool) (mag : Nat) : Nat := b2n neg * 2 ^ 31 + mag

def inf32 (neg : Bool) : Nat := sgn32 neg 0x7F800000

/-- A positive number rounded to an integer below 2^p times a power of two: nearest, ties to even. -/
def roundTo (p m : Nat) (e : Int) : Nat × Int :=
  let n := Nat.log2 m + 1
  if n ≤ p then (m, e) else
  let k := n - p
  let q := m / 2 ^ k
  let r := m % 2 ^ k
  let h := 2 ^ (k - 1)
  (if h < r || (r = h && q % 2 = 1) then q + 1 else q, e + k)

/-- The binary32 pattern of ±m × 2^e rounded to `p` bits: overflow to infinity, flush to zero (R455). -/
def roundFp (p : Nat) (neg : Bool) (m : Nat) (e : Int) : Nat :=
  if m = 0 then sgn32 neg 0 else
  let r := roundTo p m e
  let l := Nat.log2 r.1
  let top : Int := r.2 + l
  if 128 ≤ top then inf32 neg
  else if top < -126 then sgn32 neg 0
  else sgn32 neg ((top + 127).toNat * 2 ^ 23 + (r.1 * 2 ^ 23 / 2 ^ l) % 2 ^ 23)

def round32 (neg : Bool) (m : Nat) (e : Int) : Nat := roundFp 24 neg m e

/-- An operand returned as read: subnormals as zeros, NaNs canonical (R454). -/
def read32 (x : Nat) : Nat :=
  match dec32 x with
  | .nan => nan32 | .inf s => inf32 s | .fin s 0 _ => sgn32 s 0 | .fin _ _ _ => x % 2 ^ 32

def neg32 (x : Nat) : Nat := x ^^^ 0x80000000

def add32 (x y : Nat) : Nat :=
  match dec32 x, dec32 y with
  | .nan, _ => nan32
  | _, .nan => nan32
  | .inf s, .inf t => if s = t then inf32 s else nan32
  | .inf s, .fin _ _ _ => inf32 s
  | .fin _ _ _, .inf t => inf32 t
  | .fin s m e, .fin t n f =>
    let g := min e f
    let a : Int := (m * 2 ^ (e - g).toNat : Nat)
    let b : Int := (n * 2 ^ (f - g).toNat : Nat)
    let v := (if s then -a else a) + (if t then -b else b)
    if v = 0 then sgn32 (s && t && m = 0 && n = 0) 0 else round32 (v < 0) v.natAbs g

def sub32 (x y : Nat) : Nat := match dec32 y with | .nan => nan32 | _ => add32 x (neg32 y)

def mul32 (x y : Nat) : Nat :=
  match dec32 x, dec32 y with
  | .nan, _ => nan32
  | _, .nan => nan32
  | .inf s, .inf t => inf32 (s != t)
  | .inf s, .fin t n _ => if n = 0 then nan32 else inf32 (s != t)
  | .fin s m _, .inf t => if m = 0 then nan32 else inf32 (s != t)
  | .fin s m e, .fin t n f => round32 (s != t) (m * n) (e + f)

def div32 (x y : Nat) : Nat :=
  match dec32 x, dec32 y with
  | .nan, _ => nan32
  | _, .nan => nan32
  | .inf _, .inf _ => nan32
  | .inf s, .fin t _ _ => inf32 (s != t)
  | .fin s _ _, .inf t => sgn32 (s != t) 0
  | .fin s m e, .fin t n f =>
    if n = 0 then (if m = 0 then nan32 else inf32 (s != t))
    else if m = 0 then sgn32 (s != t) 0
    else
      let q := m * 2 ^ 64 / n
      round32 (s != t) (2 * q + b2n (m * 2 ^ 64 % n != 0)) (e - f - 65)

/-- The integer square root, bit by bit from bit `k` down. -/
def isqrt (x : Nat) : Nat → Nat → Nat
  | 0, r => r
  | k + 1, r => if (r + 2 ^ k) * (r + 2 ^ k) ≤ x then isqrt x k (r + 2 ^ k) else isqrt x k r

def sqrt32 (x : Nat) : Nat :=
  match dec32 x with
  | .nan => nan32
  | .inf s => if s then nan32 else inf32 false
  | .fin s m e =>
    if m = 0 then sgn32 s 0
    else if s then nan32
    else
      -- an even exponent, and 80 more bits
      let odd := e % 2 = 1
      let a := (if odd then 2 * m else m) * 2 ^ 80
      let r := isqrt a 56 0
      round32 false (2 * r + b2n (r * r != a)) ((if odd then e - 1 else e) / 2 - 41)

/-- The order of numbers, -0 below +0. -/
def key32 (x : Nat) : Int := if bit x 31 then -((x % 2 ^ 31 : Nat) : Int) - 1 else ((x % 2 ^ 31 : Nat) : Int)

def isNan (x : Nat) : Bool := match dec32 x with | .nan => true | _ => false

def max32 (x y : Nat) : Nat :=
  if isNan x || isNan y then nan32 else if key32 (read32 x) < key32 (read32 y) then read32 y else read32 x

def min32 (x y : Nat) : Nat :=
  if isNan x || isNan y then nan32 else if key32 (read32 y) < key32 (read32 x) then read32 y else read32 x

/-! ### Conversions (R458) -/

def fromBf16 (x : Nat) : Nat := read32 (x % 2 ^ 16 * 2 ^ 16)

def toBf16 (x : Nat) : Nat :=
  match dec32 x with
  | .nan => 0x7FC0
  | .inf s => inf32 s / 2 ^ 16
  | .fin s m e => roundFp 8 s m e / 2 ^ 16

/-- An integer as binary32, rounded by R455. -/
def ofInt32 (i : Int) : Nat := if i = 0 then 0 else round32 (i < 0) i.natAbs 0

/-- A number m × 2^e rounded to an integer, ties to even. -/
def roundInt (m : Nat) (e : Int) : Nat :=
  if 0 ≤ e then m * 2 ^ e.toNat else
  let k := (-e).toNat
  let q := m / 2 ^ k
  let r := m % 2 ^ k
  let h := 2 ^ (k - 1)
  if h < r || (r = h && q % 2 = 1) then q + 1 else q

/-- binary32 to int32, as a 32-bit pattern. -/
def toInt32 (x : Nat) : Nat :=
  match dec32 x with
  | .nan => 0
  | .inf s => if s then 2 ^ 31 else 2 ^ 31 - 1
  | .fin s m e =>
    let v : Int := if s then -(roundInt m e : Int) else (roundInt m e : Int)
    ofInt 32 (max (-2 ^ 31) (min (2 ^ 31 - 1) v))

/-! ### The fixed-shape reduction (R459) -/

/-- One block of at most 16 terms, starting from its own first term. -/
def blockSum : List Nat → Nat
  | [] => 0
  | v :: r => r.foldl add32 (read32 v)

/-- The sums of the blocks of 16 terms. -/
def blocks (v : List Nat) : List Nat := (List.range (cdiv v.length 16)).map fun b => blockSum ((v.drop (16 * b)).take 16)

/-- One round of the pairwise tree. -/
def pairUp : List Nat → List Nat
  | a :: b :: r => add32 a b :: pairUp r
  | l => l

/-- Rounds of the tree until one term is left. -/
def tree : Nat → List Nat → Nat
  | 0, l => l.headD 0
  | f + 1, l => match l with | [] => 0 | [a] => a | l => tree f (pairUp l)

def fsum (v : List Nat) : Nat := tree v.length (blocks v)

/-- The terms summed by `add32` in the association and order that `f` chooses: two terms at a time give way to their sum. Every
association and order is some `f`'s. -/
def anySum (f : Nat → Nat) : Nat → List Nat → Nat
  | n + 1, a :: b :: r =>
    let v := a :: b :: r
    let i := f (2 * n) % v.length
    let u := v.eraseIdx i
    let j := f (2 * n + 1) % u.length
    anySum f n (u.eraseIdx j ++ [add32 ((v[i]?).getD 0) ((u[j]?).getD 0)])
  | _, v => v.headD 0

/-- A sum of an operation: of the fixed shape, or with free order in an order that nothing fixes, by the free values drawn from
`k` on (R21, R431, R460; DESIGN CHOICE, log entry 2). -/
def sumOf (free : Bool) (k : Nat) (v : List Nat) : Nat :=
  if free then anySum (fun i => Config.freeValue (k + i)) v.length (v.map read32) else fsum v

/-- The numbers of a list in an order that nothing fixes, by the free values drawn from `k` on. -/
def anyOrder (k : Nat) : Nat → List Nat → List Nat
  | 0, _ => []
  | n + 1, l =>
    let i := Config.freeValue (k + n) % l.length
    match l[i]? with
    | some x => x :: anyOrder k n (l.eraseIdx i)
    | none => []

/-! ### Requantisation (R464 to R467) -/

/-- One entry of a parameter block. -/
structure Rq where
  m : Int
  s : Nat
  z : Int
  lo : Int
  hi : Int
deriving DecidableEq, Repr

/-- x × m / 2^s to the nearest integer, ties to even (R465). -/
def rqRound (p : Int) (s : Nat) : Int :=
  let q := p / 2 ^ s
  if s = 0 then q else
  let r := p - q * 2 ^ s
  let h : Int := 2 ^ (s - 1)
  if h < r || (r = h && q % 2 = 1) then q + 1 else q

def requant (x : Int) (k : Rq) : Int := min (max (rqRound (x * k.m) k.s + k.z) k.lo) k.hi

/-- An entry of the block. -/
def rqEntry (blk : List Byte) (i : Nat) : Rq :=
  let o := 16 + 16 * (i % max 1 (fld blk 0 4))
  ⟨toInt 32 (fld blk o 4), fld blk (o + 4) 1, toInt 8 (fld blk (o + 5) 1), toInt 8 (fld blk (o + 6) 1), toInt 8 (fld blk (o + 7) 1)⟩

/-- The offset of the first non-zero byte of a range that must be zero. -/
def firstNonZero (bs : List Byte) (off n : Nat) : Option Nat := ((List.range n).map (off + ·)).find? fun i => fld bs i 1 != 0

/-- What is wrong with a parameter block: a reserved field first, then a range (R464). `int4`: the clamps must fit int4. -/
def rqBad (blk : List Byte) (int4 : Bool) : Option (Status × Nat) :=
  let c := fld blk 0 4
  let es := if 1 ≤ c && c ≤ 65536 then List.range c else []
  match (firstNonZero blk 4 12).orElse fun _ => es.findSome? fun i => firstNonZero blk (16 + 16 * i + 8) 8 with
  | some o => some (.format, o)
  | none =>
    if c = 0 || 65536 < c then some (.range, 0)
    else es.findSome? fun i =>
      let k := rqEntry blk i
      let o := 16 + 16 * i
      if k.m < 1 then some (.range, o)
      else if 62 < k.s then some (.range, o + 4)
      else if int4 && (k.lo < -8 || 7 < k.lo) then some (.range, o + 6)
      else if k.hi < k.lo || (int4 && 7 < k.hi) then some (.range, o + 7)
      else none

/-- The bytes of int8 results, or of int4 results two to a byte (R467). -/
def packInt (four : Bool) (vs : List Int) : List Byte :=
  if four then (List.range (cdiv vs.length 2)).map fun i =>
    BitVec.ofNat 8 (ofInt 4 ((vs[2 * i]?).getD 0) + 16 * ofInt 4 ((vs[2 * i + 1]?).getD 0))
  else vs.map fun v => BitVec.ofNat 8 (ofInt 8 v)

/-! ### Elements in bytes -/

/-- The elements of `w` bytes that a byte string holds. -/
def elems (w : Nat) (bs : List Byte) : List Nat := (List.range (bs.length / w)).map fun i => fld bs (w * i) w

/-- Elements laid out in bytes. -/
def unelems (w : Nat) (vs : List Nat) : List Byte := (vs.map (leBytes w)).flatten

/-! ### MATVEC (R461) -/

/-- The dot product in int8 mode with a bias, as a 32-bit pattern. -/
def dotInt8 (w x : List Byte) (bias : Nat) : Nat :=
  ofInt 32 ((List.zip w x).foldl (fun a p => a + toInt 8 p.1.toNat * toInt 8 p.2.toNat) (toInt 32 bias))

/-- A row in bf16 mode. -/
def dotBf16 (sum : List Nat → Nat) (w x : List Nat) (bias : Option Nat) : Nat :=
  let s := sum ((List.zip w x).map fun p => mul32 (fromBf16 p.1) (fromBf16 p.2))
  match bias with | some b => add32 s b | none => s

/-- MATVEC: the outputs, as binary32 or int32 patterns; `sum i` sums the products of row i. -/
def matvec (sum : Nat → List Nat → Nat) (bf : Bool) (r c : Nat) (w x : List Byte) (bias : Option (List Nat)) : List Nat :=
  (List.range r).map fun i =>
    if bf then dotBf16 (sum i) (elems 2 ((w.drop (2 * c * i)).take (2 * c))) (elems 2 (x.take (2 * c))) (bias.bind (·[i]?))
    else dotInt8 ((w.drop (c * i)).take c) (x.take c) ((bias.bind (·[i]?)).getD 0)

/-! ### Transcendentals (R468 to R472) -/

/-- 2^k, for k from -126 to 127. -/
def pow2 (k : Int) : Nat := (k + 127).toNat * 2 ^ 23

/-- A number is at least / at most another, neither NaN. -/
def ge32 (x y : Nat) : Bool := key32 y ≤ key32 x

/-- A binary32 number rounded to an integer, ties to even. -/
def nearInt (x : Nat) : Int :=
  match dec32 x with
  | .nan => 0
  | .inf _ => 0
  | .fin s m e => if s then -(roundInt m e : Int) else (roundInt m e : Int)

def exp32 (x : Nat) : Nat :=
  match dec32 x with
  | .nan => nan32
  | .inf s => if s then 0 else inf32 false
  | .fin _ _ _ =>
    let t := mul32 x 0x3FB8AA3B
    if ge32 t 0x43000000 then inf32 false
    else if ge32 0xC2FE0000 t then 0
    else
      let k := nearInt t
      let kf := ofInt32 k
      let r := sub32 (sub32 x (mul32 kf 0x3F317200)) (mul32 kf 0x35BFBE8E)
      let p := [0x3C088889, 0x3D2AAAAB, 0x3E2AAAAB, 0x3F000000, 0x3F800000, 0x3F800000].foldl
        (fun p c => add32 (mul32 p r) c) 0x3AB60B61
      if k = 128 then mul32 (mul32 p 0x7F000000) 0x40000000
      else if k = -127 then mul32 (mul32 p 0x00800000) 0x3F000000
      else mul32 p (pow2 k)

def log32 (x : Nat) : Nat :=
  match dec32 x with
  | .nan => nan32
  | .inf s => if s then nan32 else inf32 false
  | .fin s m _ =>
    if m = 0 then inf32 true
    else if s then nan32
    else
      let e0 : Int := (bits x 30 23 : Int) - 127
      let m0 := x % 2 ^ 23 + 0x3F800000
      let big := !(ge32 0x3FB504F3 m0)
      let m := if big then mul32 m0 0x3F000000 else m0
      let e := if big then e0 + 1 else e0
      let s := div32 (sub32 m 0x3F800000) (add32 m 0x3F800000)
      let z := mul32 s s
      let q := [0x3E124925, 0x3E4CCCCD, 0x3EAAAAAB].foldl (fun q c => add32 (mul32 q z) c) 0x3DE38E39
      let l := mul32 (add32 s (mul32 (mul32 q z) s)) 0x40000000
      let ef := ofInt32 e
      add32 (mul32 ef 0x3F317200) (add32 (mul32 ef 0x35BFBE8E) l)

def rcp32 (x : Nat) : Nat := div32 0x3F800000 x
def rsqrt32 (x : Nat) : Nat := div32 0x3F800000 (sqrt32 x)

def softmax32 (sum : List Nat → Nat) (v : List Nat) : List Nat :=
  match v with
  | [] => []
  | v0 :: r =>
    let mx := r.foldl max32 v0
    let es := v.map fun x => exp32 (sub32 x mx)
    let g := rcp32 (sum es)
    es.map fun y => mul32 y g

/-! ### Element functions (R462, R463) -/

/-- Width in bytes of the sources and of the destination, number of sources, and whether one element is written, of a function
code of Table — Element functions; none where the code is not in it. -/
structure EltForm where
  src : Nat
  dst : Nat
  two : Bool := false
  one : Bool := false
deriving DecidableEq, Repr

def eltForm (code : Nat) : Option EltForm :=
  if code ≤ 4 then some { src := 4, dst := 4, two := true }
  else if code = 5 then some { src := 4, dst := 4 }
  else if code = 6 then some { src := 4, dst := 2 }
  else if code = 7 then some { src := 2, dst := 4 }
  else if code = 8 || code = 9 then some { src := 4, dst := 4 }
  else if 0xA ≤ code && code ≤ 0xC then some { src := 4, dst := 4, two := true }
  else if code = 0xD || code = 0xE then some { src := 4, dst := 4, one := true }
  else if 0x10 ≤ code && code ≤ 0x14 then some { src := 4, dst := 4 }
  else if 0x20 ≤ code && code ≤ 0x24 then some { src := 2, dst := 2, two := true }
  else if code = 0x25 || (0x30 ≤ code && code ≤ 0x34) then some { src := 2, dst := 2 }
  else none

/-- Two int32 patterns added, exactly. -/
def exactAdd (x y : Nat) : Int := toInt 32 x + toInt 32 y

/-- A binary32 code applied to its elements. -/
def eltF32 (sum : List Nat → Nat) (code : Nat) (b c : List Nat) : List Nat :=
  match code with
  | 0 => List.zipWith add32 b c
  | 1 => List.zipWith sub32 b c
  | 2 => List.zipWith mul32 b c
  | 3 => List.zipWith max32 b c
  | 4 => List.zipWith min32 b c
  | 5 => b.map fun x => max32 x 0
  | 0x10 => b.map exp32
  | 0x11 => b.map log32
  | 0x12 => b.map rcp32
  | 0x13 => b.map rsqrt32
  | _ => softmax32 sum b

/-- ELTWISE on element patterns (R462, R463). -/
def eltwise (sum : List Nat → Nat) (code : Nat) (b c : List Nat) : List Nat :=
  if 0x20 ≤ code then (eltF32 sum (code - 0x20) (b.map fromBf16) (c.map fromBf16)).map toBf16 else
  match code with
  | 6 => b.map toBf16
  | 7 => b.map fromBf16
  | 8 => b.map fun x => ofInt32 (toInt 32 x)
  | 9 => b.map toInt32
  | 0xA => List.zipWith (fun x y => ofInt 32 (exactAdd x y)) b c
  | 0xB => List.zipWith (fun x y => ofInt 32 (max (-2 ^ 31) (min (2 ^ 31 - 1) (exactAdd x y)))) b c
  | 0xC => List.zipWith (fun x y => x * y % 2 ^ 32) b c
  | 0xD => [sum b]
  | 0xE => [(b.foldl (· + ·) 0) % 2 ^ 32]
  | _ => eltF32 sum code b c

/-! ### Sort, histogram, compression (R436, R437, R473, R474) -/

/-- A pair put in its place behind those that stand before or with it. -/
def pairIns (before : Nat → Nat → Bool) (x : Nat × Nat) : List (Nat × Nat) → List (Nat × Nat)
  | [] => [x]
  | y :: r => if before x.1 y.1 then x :: y :: r else y :: pairIns before x r

/-- A stable sort of (key, payload) pairs. -/
def stableSort (before : Nat → Nat → Bool) (l : List (Nat × Nat)) : List (Nat × Nat) := l.foldl (fun r x => pairIns before x r) []

/-- Sort or top-k (R473). -/
def sortFn (fn k : Nat) (l : List (Nat × Nat)) : List (Nat × Nat) :=
  match fn with
  | 0 => stableSort (fun a b => Nat.blt a b) l
  | 1 => stableSort (fun a b => Nat.blt b a) l
  | 2 => (stableSort (fun a b => Nat.blt b a) l).take k
  | _ => (stableSort (fun a b => Nat.blt a b) l).take k

/-- The counts after a histogram of indices (R474). -/
def histogram (counts : List Nat) (idx : List Nat) : List Nat :=
  idx.foldl (fun cs i => match cs[i]? with | some v => listSet cs i ((v + 1) % 2 ^ 32) | none => cs) counts

/-- One ZMASK record: the line, and the bytes used; none where the input is too short (R437). -/
def zmask (bs : List Byte) : Option (List Byte × Nat) :=
  let m := fld bs 0 8
  let body := bs.drop 8
  let r := (List.range 64).foldl (fun (c : List Byte × Nat) i =>
    if bit m i then (c.1 ++ [(body[c.2]?).getD 0], c.2 + 1) else (c.1 ++ [0], c.2)) (([], 0) : List Byte × Nat)
  if bs.length < 8 || body.length < r.2 then none else some (r.1, 8 + r.2)

/-- One N4S record: 32 bytes, and the bytes used; the second none for a broken header (R437). -/
def n4s (bs : List Byte) : Option (Option (List Byte) × Nat) :=
  match bs with
  | [] => none
  | h :: r =>
    if h = 0 then (if r.length < 32 then none else some (some (r.take 32), 33))
    else if h = 1 then
      if r.length < 17 then none
      else
        let base := fld r 0 1
        some (some ((List.range 32).map fun j =>
          let b := fld r (1 + j / 2) 1
          BitVec.ofNat 8 (base + if j % 2 = 0 then b % 16 else b / 16)), 18)
    else some (none, 0)

/-- What decompressing has come to: output made and bytes used, or input that is too short, or a broken format. -/
inductive Dec where
  | ok (out : List Byte) (used : Nat)
  | short
  | bad
deriving DecidableEq, Repr

/-- `n` records decompressed, in order. -/
def decompress (fmt : Nat) : Nat → List Byte → Nat → List Byte → Dec
  | 0, _, used, out => .ok out used
  | n + 1, bs, used, out =>
    if fmt = 1 then
      match zmask bs with
      | some (l, u) => decompress fmt n (bs.drop u) (used + u) (out ++ l)
      | none => .short
    else match n4s bs with
      | some (some l, u) => decompress fmt n (bs.drop u) (used + u) (out ++ l)
      | some (none, _) => .bad
      | none => .short

/-! ### Gutter conversion (R379) -/

/-- One element converted from `ws` to `wd` bits. -/
def gutConv (ws wd : Nat) (signed sat : Bool) (v : Nat) : Nat :=
  if ws ≤ wd then (if signed then ofInt wd (toInt ws v) else v)
  else if !sat then v % 2 ^ wd
  else if signed then ofInt wd (max (-2 ^ (wd - 1)) (min (2 ^ (wd - 1) - 1) (toInt ws v)))
  else min v (2 ^ wd - 1)

end Sys2Proof.Machine
end

