-- ==== Sys2Proof/Machine/Tick.lean ====
section
/-! DEFINITION. What stands in the queue is one tick's: the writes that waiting commands make to the pages of functions, the routes of their
dictionary requests, and the commands to which a rule gives precedence over another event of their tick (R114, R154, R182, R209, R241, R258,
R266, R272, R318, R323). -/
namespace Sys2Proof.Machine

/-- The write to a page that a command of a function makes: the function, the page offset, the bytes (R187, R189). -/
def Instr.pageWrite : Instr → Option (Nat × Nat × List Byte)
  | .evDbQ n q v => some (n + 1, 0x100 + 8 * q, leBytes 4 v.toNat)
  | .evDbFence n v => some (n + 1, 0x140, leBytes 4 v.toNat)
  | .hatchPost n slot data => some (n + 1, 0x1000 + 64 * slot, data)
  | .htOutAck n v => some (n + 1, 0x1808, leBytes 4 v.toNat)
  | .registerWriteOther fn off data => some (fn, off, data)
  | .spValueWrite n j v => some (n + 1, 0x4000 + 8 * j, leBytes 8 v.toNat)
  | .spAdd n j v => some (n + 1, 0x6000 + 8 * j, leBytes 8 v.toNat)
  | .spThreshWrite n j v => some (n + 1, 0x8000 + 8 * j, leBytes 8 v.toNat)
  | .arm n j v => some (n + 1, 0xA000 + 8 * j, leBytes 8 (v.toNat ||| 1))
  | .disarm n j v => some (n + 1, 0xA000 + 8 * j, leBytes 8 (v.toNat / 2 * 2))
  | .msixUnmask fn (some v) => some (fn, 0xD00C + 16 * v, leBytes 4 0)
  | .odRead fn => some (fn, 0xE000, leBytes 4 1)
  | .odWrite fn => some (fn, 0xE000, leBytes 4 2)
  | .odWriteAppend fn => some (fn, 0xE000, leBytes 4 3)
  | .odCmdNone fn => some (fn, 0xE000, leBytes 4 0)
  | _ => none

/-- The route of a function's window. -/
def winRoute (fn : Nat) : Route := if h : 0 < fn ∧ fn ≤ 16 then .bay ⟨fn - 1, by omega⟩ else .pf

/-- The order in which requests of one tick are served: those through CTL last (R114, R572). -/
def routeRank : Route → Nat
  | .can p => p | .pf => 2 | .bay n => 3 + n | .fabPf => 19 | .fabBay _ => 19

/-- The route by which a command brings a request to the dictionary server (R98, R114). -/
def Instr.dictRoute : Instr → Option Route
  | .usdoInitiate p .. => some (.can p) | .usdoSegment p .. => some (.can p) | .recoveryImageDownload p _ => some (.can p)
  | .odRead fn => some (winRoute fn) | .odWrite fn => some (winRoute fn) | .odWriteAppend fn => some (winRoute fn)
  | .registerWriteOther fn 0xE000 _ => some (winRoute fn)
  | .bootRestart r => some r | .saveAll r _ => some r | .restoreAll r => some r | .journalSelect r _ => some r | .fwStage r _ => some r
  | .activate r => some r | .fuseSvnRaise r _ => some r | .claim r _ => some r | .commit r _ => some r | .reconfigure r _ => some r
  | .stop r _ => some r | .release r _ => some r | .reset r _ => some r | .shareGrant r .. => some r | .shareAccept r .. => some r
  | .linkCtlRetrain r => some r | .hdmMapWrite r .. => some r | .violSelect r _ => some r | .skyMapWrite r .. => some r
  | .lathInvalWrite r .. => some r | .faultResumeResume r _ => some r | .faultResumeAbort r _ => some r | .cellTableWrite r .. => some r
  | .sparCtlDictArm r .. => some r | .enable r .. => some r | .disable r .. => some r | .resume r .. => some r | .skip r .. => some r
  | .restart r _ => some r | .abort r _ => some r | .calRequest r _ => some r | .sinkReadWrite r .. => some r | .sinkCtlWrite r .. => some r
  | .portCtlRetrain r _ => some r | .portCtlClear r _ => some r | .regCtlWrite r .. => some r | .islandReset r => some r
  | .powerDown r => some r | .wake r => some r | .retrain r => some r | .senseClear r .. => some r | .loopFreeze r _ => some r
  | .domainOverride r _ => some r | .ratioOverride r _ => some r | .scrubRequest r => some r | .reattach r .. => some r
  | .logSelect r _ => some r | .bayLogSelect r .. => some r
  | _ => none

/-- The command is one that a rule may give precedence over another event of its tick: an owner loss (R154, R182), a PRG response (R266), an
invalidation (R241, R258), a host's snoop (R318), a write to a page or a Hatch operation of a core (R209), a request at a home (R272), a
requester at an arbiter (R406, R418), an evaluation or a test (R499, R520), an operation on a Spar (R323), or a request to the dictionary server (R114). -/
def Instr.first : Instr → Bool
  | .dlDown | .hotResetReceived | .linkDisable | .perstNFall | .flrPf0 .. | .flrVf .. | .vfEnableClear .. | .hbTimeout .. => true
  | .prgSuccess .. | .prgInvalidRequest .. | .prgResponseFailure .. | .atsInvalidateRequest .. | .lathInval .. => true
  | .h2dSnpData .. | .h2dSnpInv .. | .h2dSnpCur .. => true
  | .rdShared .. | .rdOwn .. | .upgrade .. | .wbDirty .. | .ncRead .. | .ncWrite .. | .ncAtomic .. => true
  | .memRd .. | .memRdData .. | .memWr .. | .memWrPtl .. => true
  | .thatchEvaluation .. | .certify .. => true
  | .descriptorEnd .. | .coursePassEnd .. | .blockListBurstReturn .. => true
  | .islandStartEnd .. | .flushEnd .. | .gateTimer .. => true
  | .ctlWr .. | .fabricViolation .. | .dictRequestServe .. | .beginJob .. => true
  | .hatchRelease .. | .drainEnd .. | .holdTimeExpire .. | .bayBecomesIdle .. => true
  | .sparSet .. | .sparAdd .. | .sparFetchadd .. | .signal .. | .atomicopFetchadd .. | .atomicopSwap .. | .atomicopCas .. | .purlinSignal .. => true
  | c => (Instr.pageWrite c).isSome || (Instr.dictRoute c).isSome

/-- The command tells of an event that may end Bay n's owner link (R166, R575). -/
def Instr.loses (n : Nat) : Instr → Bool
  | .dlDown | .hotResetReceived | .linkDisable | .perstNFall | .flrPf0 .. | .vfEnableClear .. => true
  | .flrVf m _ => m.val == n
  | .hbTimeout m => m.val == n
  | _ => false

/-- A number put in its place in a rising list without repeats. -/
def riseIns (k : Nat) : List Nat → List Nat
  | [] => [k]
  | x :: l => if k < x then k :: x :: l else if k = x then x :: l else x :: riseIns k l

/-- The waiting commands of this tick that `p` names take their effect `f` now, ahead of their turn (DESIGN CHOICE, log entry 60). -/
def Dev.lead (d : Dev) (e : Env) (p : Instr → Bool) (f : Dev → Instr → Dev) : Dev :=
  e.tick.foldl (fun d c => if p c && !(d.ahead.contains c) then { f d c with ahead := c :: (f d c).ahead } else d) d

/-- The effect `f` of command `c` at its turn: none, if it has been taken ahead of it. -/
def Dev.turn (c : Instr) (f : Env → Dev → Dev) (e : Env) (d : Dev) : Dev :=
  if d.ahead.contains c then { d with ahead := d.ahead.erase c } else f e d

/-- The same for the command that `p` names. -/
def Dev.turnOf (p : Instr → Bool) (f : Env → Dev → Dev) (e : Env) (d : Dev) : Dev :=
  if d.ahead.any p then { d with ahead := d.ahead.eraseP p } else f e d

end Sys2Proof.Machine
end

