-- ==== Sys2Proof/Machine/Directory.lean ====
section
/-! DEFINITION. The Ridge's lines, agents, messages and directory: which slice homes a line, what the directory says, and how an entry finds
a way (R269 to R285, R289, R294). A line homed here is named by LPA / 64, one of another device by 2^55 + fabric address / 64, a host line by
2^56 + HPA / 64. -/
namespace Sys2Proof.Machine

/-- The key of a line homed on another device: its fabric address / 64. -/
def awayKey (l : Nat) : Nat := 2 ^ 55 + l

/-- The key of a host line: its HPA / 64. -/
def hostKey (l : Nat) : Nat := 2 ^ 56 + l

/-- The key of a cluster's L2 line. -/
def l2Key (c line : Nat) : Nat := c * 2 ^ 60 + line

/-- A line homed on another device, and that device. -/
def remoteLine? (line : Nat) : Option Nat := if awayKey 0 ≤ line && line < hostKey 0 then some ((line - awayKey 0) / 2 ^ 42) else none

/-- The line is one of software-visible HBM, which has a home here (R271). -/
def homed (line : Nat) : Bool := inHbm (line * 64)

/-- The home slice of a line: the exclusive OR of nine 4-bit groups of its address (R271). -/
def sliceOf (line : Nat) : Nat := (List.range 9).foldl (fun s i => s ^^^ (line / 16 ^ i % 16)) 0

/-- Where the summary byte of a line stands (R281). -/
def sumAddr (line : Nat) : Nat := 0x5E80000000 + line

/-- The island of a line: the slice that homes it or that keeps its proxy entry, or the proxy cache of host lines (R28, R271, R292). -/
def lineIsl (line : Nat) : Nat := if hostKey 0 ≤ line then 331 else 272 + sliceOf (line % 2 ^ 42)

/-- How an island answers a request: `RETRY` while it starts or closes, `GONE` while it is off (R615, R616, R620). -/
def Dev.islAnswer (d : Dev) (i : Nat) : Option Status :=
  match (d.island i).st with
  | .off => some .gone | .starting => some .retry | .closing => some .retry | .active => none

/-- The Bay that holds a line's granule. -/
def Dev.lineBay (d : Dev) (line : Nat) : Option Nat := d.holder (·.hbm) (granule (line * 64))

/-- The directory cache entry of a line (R280). -/
def Dev.dir (d : Dev) (line : Nat) : Option Dir := smGet none d.ridge.dir line

def Dev.setRidge (d : Dev) (r : Ridge) : Dev := { d with ridge := r }

def Dev.setDir (d : Dev) (line : Nat) (x : Option Dir) : Dev :=
  d.setRidge { d.ridge with dir := smSet none d.ridge.dir line x }

/-- The summary byte of an entry (R281). -/
def Dir.summary (x : Dir) : Nat :=
  let l := x.sharers ++ (match x.kind with | .s => [] | .x => [x.owner] | .o => [x.owner] | .p => [])
  (match x.kind with | .s => 1 | .x => 2 | .o => 2 | .p => 0) +
  (List.range 4).foldl (fun v g => v + b2n (l.any fun a => a / 4 == g) * 2 ^ (2 + g)) 0 +
  b2n (l.contains 16) * 64 + b2n (l.any (17 ≤ ·)) * 128

/-- The byte of a line is written, if it differs (R282). -/
def Dev.setSummary (d : Dev) (e : Env) (line v : Nat) : Dev :=
  if (d.byte e (sumAddr line)).toNat = v then d else d.poke (sumAddr line) [BitVec.ofNat 8 v]

/-- The summary byte as read; an uncorrectable error reads as 0xFE, counted and of class RETRIED (R297). -/
def Dev.readSummary (d : Dev) (e : Env) (line : Nat) : Nat × Dev :=
  if d.poisoned e (sumAddr line / 64) then
    (0xFE, (d.count 0x2400 0xC 1).fault .retried 0xFF { source := 3, island := 272 + sliceOf line, addr := line * 64, status := .integrity })
  else ((d.byte e (sumAddr line)).toNat, d)

/-- The cell member in a slot (R289); this device's own slot is never used. -/
def Dev.member (d : Dev) (s : Nat) : Option Nat :=
  if d.ridge.cellOn && s != d.ridge.ownSlot then
    if smGet 0xFFFF d.ridge.members s < 4096 then some (smGet 0xFFFF d.ridge.members s) else none
  else none

/-- The slot of a cell member by its device ID (R289, R290). -/
def Dev.slotOf (d : Dev) (dev : Nat) : Option Nat := (List.range 16).find? fun s => d.member s == some dev

/-- A cluster L2 may hold the line: one homed here, one of a cell member, or a host line (R290, R426). -/
def Dev.cacheable (d : Dev) (line : Nat) : Bool :=
  homed line || hostKey 0 ≤ line || match remoteLine? line with | some v => (d.slotOf v).isSome | none => false

/-- The agents a summary byte covers (R283). -/
def Dev.covered (d : Dev) (v : Nat) : List Nat :=
  ((List.range 16).filter fun a => bit v (2 + a / 4)) ++ (if bit v 6 then [16] else []) ++
  (if bit v 7 then ((List.range 16).filter fun s => (d.member s).isSome).map (17 + ·) else [])

/-- Message numbers of the fabric, in the order of Table — Ridge messages (R558, R567). -/
def ridgeTy (kind : String) : Nat :=
  match kind with
  | "RdShared" => 1 | "RdOwn" => 2 | "Upgrade" => 3 | "WbDirty" => 4 | "NcRead" => 5 | "NcWrite" => 6 | "NcAtomic" => 7
  | "SnpShared" => 8 | "SnpInv" => 9 | "SnpCur" => 10 | "SnpAck" => 11 | "WbAck" => 12 | "Cmp" => 13 | "CmpAck" => 14
  | "Retry" => 15 | "Gone" => 16 | "Data" => 17 | _ => 18

/-- The virtual channel of a message by its class (R273, R558). -/
def ridgeVc (kind : String) : Nat :=
  let t := ridgeTy kind
  if t ≤ 7 then 0 else if t ≤ 10 then 1 else if t ≤ 16 then 2 else 3

/-- A Ridge message to a cell member (R567): the address is the line's fabric address. -/
def Dev.ridgeFrame (d : Dev) (dst : Nat) (kind : String) (addr tn st : Nat) (data : List Byte) (poison : Bool) : Dev :=
  d.originate { ty := ridgeTy kind, vc := ridgeVc kind, st := st, dst := dst, poison := poison, tn := tn, addr := addr, payload := data }

/-- The fabric address of a line homed here (R214). -/
def Dev.fabLine (d : Dev) (line : Nat) : Nat := d.fabId * 2 ^ 48 + line * 64

/-- The poison bit of a message (R273). -/
def poisonName (poison : Bool) : String := if poison then " poison" else ""

/-- The state granted, as a CXL.mem response carries it (R304). -/
def grantName : Nat → String
  | 1 => " S" | 2 => " E" | 4 => " M" | _ => ""

/-- A message from a home to a caching agent: on the die, to the host, or to a cell member. -/
def Dev.toAgent (d : Dev) (a : Nat) (kind : String) (line tn st : Nat) (data : List Byte) (poison : Bool) : Dev :=
  if a < 16 then d.send (.ridge (kind ++ poisonName poison) (lineIsl line) a line tn st data)
  else if a = 16 then d.hostSend (.cxl (kind ++ grantName st ++ poisonName poison) line tn data)
  else match d.member (a - 17) with
    | some m => d.ridgeFrame m kind (d.fabLine line) tn st data poison
    | none => d

/-- The snoop messages, by their numbers in a transaction. -/
def snpName : Nat → String
  | 1 => "SnpShared" | 2 => "SnpInv" | _ => "SnpCur"

/-- The back-invalidate snoops that carry them to the host (R305). -/
def biName : Nat → String
  | 1 => "BISnpData" | 2 => "BISnpInv" | _ => "BISnpCur"

/-- A snoop is sent, under the transaction number of the request that needs it (R273, R277, R305). -/
def Dev.snoop (d : Dev) (snp a line tn : Nat) : Dev :=
  if a = 16 then (d.hostSend (.cxl (biName snp) line tn [])).count 0x2402 3 1
  else d.toAgent a (snpName snp) line tn 0 [] false

/-- A line is marked poisoned in memory, and counted where it was not before (R299, R301). -/
def Dev.poisonLine (d : Dev) (e : Env) (line : Nat) : Dev :=
  if d.poisoned e line then d else
  let d := (d.store (.poison line)).count 0x2400 0xB 1
  match d.lineBay line with
  | some n => d.count (0x2410 + n) 4 1
  | none => d

/-- A line's bytes and poison in memory; `ecc` false: the read meets an uncorrectable error, which poisons the line and is a patrol trigger
(R299, R642). -/
def Dev.memLine (d : Dev) (e : Env) (line : Nat) (ecc : Bool) : List Byte × Bool × Dev :=
  if ecc then (d.bytes e (line * 64) 64, d.poisoned e line, d)
  else (d.bytes e (line * 64) 64, true, (d.poisonLine e line).scrubTrigger (Config.hbmStack line))

/-- A whole line is written to memory, with or without poison (R299). -/
def Dev.putLine (d : Dev) (e : Env) (line : Nat) (data : List Byte) (poison : Bool) : Dev :=
  let d := d.poke (line * 64) (fit 64 data)
  if poison then d.poisonLine e line else d.store (.clean line)

/-- Bytes merged under a byte mask (R288). -/
def mergeMask (old new : List Byte) (mask : Nat) : List Byte :=
  (List.range 64).map fun i => if bit mask i then (new[i]?).getD 0 else (old[i]?).getD 0

/-- The result of an atomic operation of R287 on an integer of `size` bytes: ADD, AND, OR, XOR, SMIN, SMAX, UMIN, UMAX, SWAP, CAS. -/
def atomicResult (op size old operand compare : Nat) : Nat :=
  let m := 256 ^ size
  let o := operand % m
  match op with
  | 0 => (old + o) % m
  | 1 => old &&& o
  | 2 => old ||| o
  | 3 => old ^^^ o
  | 4 => if toInt (8 * size) old ≤ toInt (8 * size) o then old else o
  | 5 => if toInt (8 * size) old ≤ toInt (8 * size) o then o else old
  | 6 => min old o
  | 7 => max old o
  | 8 => o
  | _ => if old = compare % m then o else old

/-- The operand size is one R287 gives the operation. -/
def atomicSizeOk (op size : Nat) : Bool := size == 4 || size == 8 || (op == 9 && size == 16)

/-- Bytes of a line replaced from an offset on. -/
def patch (line : List Byte) (off : Nat) (bs : List Byte) : List Byte :=
  line.take off ++ bs ++ line.drop (off + bs.length)

/-- The set of the directory cache that a line falls in: its slice and LPA[26:10] (R280). -/
def dirSet (line : Nat) : Nat := sliceOf (line % 2 ^ 42) * 131072 + line / 16 % 131072

/-- A transaction runs on the line (R272). -/
def Dev.lineBusy (d : Dev) (line : Nat) : Bool := d.ridge.txns.any (·.line == line)

/-- The Bay that an entry carries: its granule's holder, or for a proxy entry the accessing Bay; 0xFF for none (R280, R294). -/
def Dev.dirBay (d : Dev) (line bay : Nat) : Nat := if homed line then (d.lineBay line).getD 0xFF else bay

/-- The ways of a set that the line's Bay may fill (R285, R294). -/
def Dev.dirMask (d : Dev) (line bay : Nat) : Nat := if d.dirBay line bay < 16 then d.od (0x2410 + d.dirBay line bay) 1 else 0xFFFF

/-- The entries of a line's set that stand in the ways of a mask. -/
def Dev.dirSetOf (d : Dev) (line mask : Nat) : List (Nat × Dir) :=
  d.ridge.dir.filterMap fun c => match c.2 with
    | some x => if dirSet c.1 = dirSet line && bit mask x.way then some (c.1, x) else none
    | none => none

/-- The ways of a line's set that running requests will fill (R285). -/
def Dev.dirTaken (d : Dev) (line : Nat) : List Nat :=
  (d.ridge.txns.filterMap fun t => if dirSet t.line = dirSet line then t.way else none) ++
  (d.ridge.l2out.filterMap fun t => if dirSet t.line = dirSet line then t.way else none)

/-- The oldest of some entries. -/
def oldest (l : List (Nat × Dir)) : Option (Nat × Dir) :=
  l.foldl (fun b c => match b with | none => some c | some x => if c.2.age < x.2.age then some c else b) none

/-- The way a new entry of the line takes, and the line whose entry it evicts: a free way of the Bay's mask, else the oldest
entry not busy; none where every way is busy (R285). -/
def Dev.dirVictim (d : Dev) (line bay : Nat) : Option (Nat × Option Nat) :=
  let mask := d.dirMask line bay
  let l := d.dirSetOf line mask
  let taken := d.dirTaken line
  match (List.range 16).find? fun w => bit mask w && !(taken.contains w) && !(l.any (·.2.way == w)) with
  | some w => some (w, none)
  | none => match oldest (l.filter fun c => !(d.lineBusy c.1) && !(d.ridge.l2out.any (·.line == c.1))) with
    | some c => some (c.2.way, some c.1)
    | none => none

/-- The entry of a line becomes `x`: in its way, or, for a line that has none, in the way kept for it; an entry in state I is not kept, and
the byte of a line homed here is made 0x00 (R280, R282). -/
def Dev.putDir (d : Dev) (e : Env) (line : Nat) (x : Option Dir) (way : Option Nat) : Dev :=
  match x with
  | none => if homed line then (d.setDir line none).setSummary e line 0 else d.setDir line none
  | some x =>
    let stamp := d.ridge.stamp + 1
    let bay := d.dirBay line x.bay
    let d := d.setRidge { d.ridge with stamp := stamp }
    match d.dir line with
    | some o => d.setDir line (some { x with way := o.way, age := o.age, bay := bay })
    | none => match way with
      | some w => d.setDir line (some { x with way := w, age := stamp, bay := bay })
      | none => if homed line then d.setSummary e line x.summary else d

/-- The holders an entry lists. -/
def Dir.holders (x : Dir) : List Nat :=
  match x.kind with
  | .s => x.sharers | .x => [x.owner] | .o => listIns x.owner x.sharers | .p => []

end Sys2Proof.Machine
end

