-- ==== Sys2Proof/Machine/L2.lean ====
section
/-! DEFINITION. The cluster L2s: what they hold, how they answer snoops, what they evict and install, and the proxy entries of remote lines
(R269, R270, R278, R279, R290, R292, R296, R302, R303, R426). -/
namespace Sys2Proof.Machine

/-- A line of a cluster's L2. -/
def Dev.l2 (d : Dev) (c line : Nat) : CLine := smGet {} d.ridge.l2 (l2Key c line)
def Dev.setL2 (d : Dev) (c line : Nat) (x : CLine) : Dev := d.setRidge { d.ridge with l2 := smSet {} d.ridge.l2 (l2Key c line) x }

/-- A dirty remote line whose WbDirty is in flight (R292, R296). -/
def Dev.remoteLine (d : Dev) (line : Nat) : CLine := smGet {} d.ridge.remote line
def Dev.setRemoteLine (d : Dev) (line : Nat) (x : CLine) : Dev := d.setRidge { d.ridge with remote := smSet {} d.ridge.remote line x }

/-- The messages of a cluster's L2 come and go as rows from its first one on (DESIGN CHOICE, log entry 10). -/
def Dev.rowed (d : Dev) (c : Nat) : Dev := d.setRidge { d.ridge with rowed := listIns c d.ridge.rowed }

/-- The state as a message carries it. -/
def Coh.code : Coh → Nat
  | .i => 0 | .s => 1 | .e => 2 | .o => 3 | .m => 4

/-- The state a grant gives: 1 S, 2 E, 3 O, 4 M. -/
def grantOf (st : Nat) : Coh := match st with | 1 => .s | 2 => .e | 3 => .o | 4 => .m | _ => .i

/-- A state in which a copy may be newer than memory. -/
def Coh.dirty (x : Coh) : Bool := x == .m || x == .o

/-- Table — Snoop answers: the state after, and whether the answer carries dirty data (R278). -/
def snoopAnswer (snp : Nat) (st : Coh) : Coh × Bool :=
  match snp, st with
  | _, .i => (.i, false)
  | 1, .m => (.o, true) | 1, .o => (.o, true) | 1, .e => (.s, false) | 1, .s => (.s, false)
  | 2, .m => (.i, true) | 2, .o => (.i, true) | 2, .e => (.i, false) | 2, .s => (.i, false)
  | _, .m => (.m, true) | _, .o => (.o, true) | _, .e => (.e, false) | _, .s => (.s, false)

/-- A cluster L2 answers a snoop from its present state, as it would before its own WbDirty is acknowledged (R278, R296): the line as it
was, whether the answer carries data, and what stays. -/
def Dev.l2Snoop (d : Dev) (snp c line : Nat) : CLine × Bool × Dev :=
  let x := d.l2 c line
  let a := snoopAnswer snp x.st
  (x, a.2, d.setL2 c line (if a.1 == .i then {} else { x with st := a.1 }))

/-- A message of this device to the home of a remote line. -/
def Dev.toRemoteHome (d : Dev) (dev line : Nat) (kind : String) (tn st : Nat) (data : List Byte) (poison : Bool) : Dev :=
  d.ridgeFrame dev kind ((line - awayKey 0) * 64) tn st data poison

/-- Copies of a line leave the L2s of some clusters, without write-back. -/
def Dev.l2Drop (d : Dev) (cs : List Nat) (line : Nat) : Dev := cs.foldl (fun d c => d.setL2 c line {}) d

/-- A proxy slice lets a remote line go: SnpInv to its clusters, and WbDirty to its home if the device held it dirty; E and S are dropped
silently (R270, R292). -/
def Dev.remoteRecall (d : Dev) (line : Nat) : Dev :=
  match d.dir line, remoteLine? line with
  | some x, some dev =>
    let dirty := (x.sharers.map fun c => d.l2 c line).find? fun y => y.st.dirty
    let d := (((x.sharers.filter d.ridge.rowed.contains).foldl (fun d c => d.send (.ridge "SnpInv" (lineIsl line) c line 0 0 [])) d).l2Drop
      x.sharers line).setDir line none
    match dirty with
    | some y => (d.setRemoteLine line { y with wb := true, sharers := [] }).toRemoteHome dev line "WbDirty" 0 0 y.data y.poison
    | none => d
  | _, _ => d

/-- An entry leaves the directory cache: a line homed here by its summary byte, a proxy entry by the recall of its line (R282, R292). -/
def Dev.dirEvict (d : Dev) (e : Env) (line : Nat) : Dev :=
  match d.dir line with
  | none => d
  | some x => if x.kind == DirKind.p then d.remoteRecall line else (d.setSummary e line x.summary).setDir line none

/-- A cluster no longer holds a remote line: with dirty data the device lets the whole line go; a clean copy goes silently, and with the last
one the proxy entry (R270, R292; DESIGN CHOICE, log entry 10). -/
def Dev.remoteEvict (d : Dev) (c line : Nat) : Dev :=
  if (d.l2 c line).st.dirty then d.remoteRecall line
  else
    let d := d.setL2 c line {}
    match d.dir line with
    | some x =>
      let rest := listDel c x.sharers
      d.setDir line (if rest.isEmpty then none else some { x with sharers := rest })
    | none => d

/-- The WbDirty of a cluster's line that is homed here: a message, or, where no row carries it, a request that waits at the home (R270,
R296). -/
def Dev.l2WriteBack (d : Dev) (e : Env) (c line : Nat) : Dev :=
  let x := d.l2 c line
  let d := d.setL2 c line { x with wb := true }
  if d.ridge.rowed.contains c then d.send (.ridge ("WbDirty" ++ poisonName x.poison) c (lineIsl line) line 0 0 x.data)
  else d.setRidge { d.ridge with waiting := d.ridge.waiting ++
    [(line, { op := .wbDirty, a := c, self := true, data := x.data, mask := 2 ^ 64 - 1, poison := x.poison, time := e.time })] }

/-- An L2 evicts a line: M or O by WbDirty, kept until WbAck; E or S silently (R270, R296). -/
def Dev.l2Evict (d : Dev) (e : Env) (c line : Nat) : Dev :=
  if (remoteLine? line).isSome then d.remoteEvict c line
  else if (d.l2 c line).st.dirty then d.l2WriteBack e c line
  else d.setL2 c line {}

/-- The Bay that a line is filled for, where the access does not tell it: its granule's, its allocator in the proxy cache, or the Bay of the
cluster's cores (R426; DESIGN CHOICE, log entry 10). -/
def Dev.l2Bay (d : Dev) (c line : Nat) : Option Nat :=
  if homed line then d.lineBay line
  else if hostKey 0 ≤ line then some (smGet {} d.ridge.proxy (line - hostKey 0)).bay
  else d.holder (·.core) (16 * c)

/-- The lines of a cluster's L2 that stand in a line's set (R426). -/
def Dev.l2Set (d : Dev) (c line : Nat) : List (Nat × CLine) :=
  d.ridge.l2.filterMap fun x => if x.1 / 2 ^ 60 = c && x.1 % 8192 = line % 8192 then some (x.1 % 2 ^ 60, x.2) else none

/-- A way of an L2 set for a line of a Bay, evicting the least recently used line of the Bay's ways (R426). -/
def Dev.l2Way (d : Dev) (e : Env) (c line : Nat) (bay : Option Nat) : Nat × Dev :=
  let mask := match bay with | some n => d.od (0x2810 + n) 1 | none => 0xFFFF
  let set := (d.l2Set c line).filter fun x => !x.2.wb && bit mask x.2.way
  match (List.range 16).find? fun w => bit mask w && !(set.any fun x => x.2.way == w) with
  | some w => (w, d)
  | none => match set.foldl (fun (b : Option (Nat × CLine)) x => match b with
        | none => some x
        | some y => if x.2.stamp < y.2.stamp then some x else b) none with
    | some x => (x.2.way, d.l2Evict e c x.1)
    | none => (0, d)

/-- A line enters a cluster's L2 for a Bay, in place of the copy it had (R426). -/
def Dev.l2Fill (d : Dev) (e : Env) (c line : Nat) (bay : Option Nat) (st : Coh) (data : List Byte) (poison : Bool) : Dev :=
  let old := d.l2 c line
  let w : Nat × Dev := if old.st == .i then d.l2Way e c line bay else (old.way, d)
  let stamp := w.2.ridge.stamp + 1
  (w.2.setRidge { w.2.ridge with stamp := stamp }).setL2 c line
    { st := st, data := fit 64 data, poison := poison, bay := bay.getD 0, way := w.1, stamp := stamp }

/-- A remote line is granted to a cluster: the proxy entry takes the state granted and the cluster, in the way kept for it (R292). -/
def Dev.proxyEntry (d : Dev) (e : Env) (c line bay : Nat) (st : Coh) (way : Option Nat) : Dev :=
  let x := (d.dir line).getD { kind := .p }
  d.putDir e line (some { x with kind := .p, st := st, bay := bay, sharers := listIns c x.sharers }) way

/-- An Upgrade is granted: an S holder goes to E, an O owner to M (R277). -/
def Coh.upgraded : Coh → Coh
  | .s => .e | .o => .m | .i => .i | .e => .e | .m => .m

/-- A copy's rights rise with a Cmp (R273, R277). -/
def Dev.l2Upgrade (d : Dev) (c line : Nat) : Dev :=
  let x := d.l2 c line
  if x.st == .s || x.st == .o then d.setL2 c line { x with st := x.st.upgraded } else d

end Sys2Proof.Machine
end

