-- ==== Sys2Proof/Machine/Home.lean ====
section
/-! DEFINITION. The Ridge home: the snoops a request needs, and what a transaction leaves (R269 to R300). Snoops and answers are messages: a
transaction waits until the answers have arrived. -/
namespace Sys2Proof.Machine

/-- The snoop a request needs: its kind (0 none), and the agents it goes to, for an exact entry (R277). -/
def snoopFor (op : RReq) (r : Nat) (x : Dir) : Nat × List Nat :=
  match op with
  | .rdShared => match x.kind with | .s => (0, []) | .x => (1, listDel r [x.owner]) | .o => (1, listDel r [x.owner]) | .p => (0, [])
  | .rdOwn => (2, listDel r x.holders)
  | .upgrade => (2, listDel r x.holders)
  | .ncRead => match x.kind with | .s => (0, []) | .x => (3, listDel r [x.owner]) | .o => (3, listDel r [x.owner]) | .p => (0, [])
  | .ncWrite => (2, listDel r x.holders)
  | .ncAtomic => (2, listDel r x.holders)
  | .wbDirty => (0, [])

/-- The requester of a request is a caching agent. -/
def RReq.caching : RReq → Bool
  | .rdShared => true | .rdOwn => true | .upgrade => true | .wbDirty => true
  | .ncRead => false | .ncWrite => false | .ncAtomic => false

/-- The requester number that the directory knows: none for a non-caching agent; the host's reads and writes through CXL.mem
(island 326) are those of agent 16 (R304). -/
def HomeReq.r (q : HomeReq) : Nat := if q.op.caching then q.a else if q.a = 326 then 16 else 99

/-- The transaction number of a request that a closing island has abandoned (R620, R624). -/
def goneTn : Nat := 2 ^ 32

/-- The marker of the home transactions by which a change of the cell recalls lines (R293), and of those by which a scrub clears them (R295):
islands 348 and 349 have no request of their own. -/
def recallIsl : Nat := 348
def scrubIsl : Nat := 349

/-- The answer to a cluster L2's own request takes its effect there at once: a grant is installed, an Upgrade raises the copy, a WbAck ends
the write-back; a refusal goes to the core that asked, and a WbDirty turned away waits on (R279, R296; log entry 10). -/
def Dev.l2Answer (d : Dev) (e : Env) (line : Nat) (q : HomeReq) (kind : String) (st : Nat) (data : List Byte) (poison : Bool) (s : Status) : Dev :=
  if q.op == .wbDirty then
    if kind == "Retry" then d.setRidge { d.ridge with waiting := d.ridge.waiting ++ [(line, q)] }
    else if (d.l2 q.a line).wb then d.setL2 q.a line {} else d
  else if s != .ok then match q.who with
    | some w => d.setRidge { d.ridge with fresh := d.ridge.fresh ++ [(w, line, [], true, s)] }
    | none => d
  else if kind == "Cmp" then d.l2Upgrade q.a line
  else d.l2Fill e q.a line q.bay (grantOf st) data poison

/-- An answer to the requester of a transaction: a message to a caching agent, to an island, or to the non-caching agent of the
member in slot s, which the model numbers 400 + s; what an L2 of this device asked for itself; or the answer kept for one of its own agents. -/
def Dev.homeAnswer (d : Dev) (e : Env) (line : Nat) (q : HomeReq) (kind : String) (st : Nat) (data : List Byte) (poison : Bool) (s : Status) : Dev :=
  if q.self then d.l2Answer e line q kind st data poison s else
  match q.who with
  | some w => d.setRidge { d.ridge with fresh := d.ridge.fresh ++ [(w, line, data, poison, s)] }
  | none =>
    if q.tn = goneTn then d.dropReply q.a
    else if q.op.caching then d.toAgent q.a kind line q.tn st data poison
    else if q.a = 326 then d.toAgent 16 kind line q.tn st data poison
    else if 400 ≤ q.a then d.toAgent (q.a - 400 + 17) kind line q.tn st data poison
    else if q.a = recallIsl || q.a = scrubIsl then d
    else d.send (.ridge (kind ++ poisonName poison) (lineIsl line) q.a line q.tn st data)

/-- The transaction of a line ends. -/
def Dev.dropTxn (d : Dev) (line : Nat) : Dev := d.setRidge { d.ridge with txns := d.ridge.txns.filter (·.line != line) }

/-- A line is lost: written to memory poisoned, its entry I, its Bay given a fault of class JOB (R298, R622). -/
def Dev.loseLine (d : Dev) (e : Env) (line : Nat) : Dev :=
  let d := ((d.store (.poison line)).putDir e line none none).count 0x2400 0xB 1
  match d.lineBay line with
  | some n => (d.count (0x2410 + n) 4 1).fault .job n { source := 3, island := 272 + sliceOf line, addr := line * 64, status := .integrity }
  | none => d

/-- The sharers that remain after a transaction's snoops: those it did not snoop, and those that answered S. -/
def Txn.remain (t : Txn) : List Nat :=
  let asked := t.ans.map (·.1)
  let kept := match t.entry with | some x => (x.sharers).filter fun a => !(asked.contains a) | none => []
  (t.ans.filter fun (a : Nat × Nat) => a.2 == 1).foldl (fun l a => listIns a.1 l) kept

/-- The entry of a holder or of a set of sharers; none where there is no sharer. -/
def mkX (a : Nat) : Option Dir := some { kind := .x, owner := a }
def mkS (s : List Nat) : Option Dir := if s.isEmpty then none else some { kind := .s, sharers := s }
def mkO (a : Nat) (s : List Nat) : Option Dir := some { kind := .o, owner := a, sharers := s }

/-- A granted transaction waits for the requester's CmpAck, which an L2 of this device that asked for itself has sent (R272, R279). -/
def Dev.grant (d : Dev) (t : Txn) : Dev :=
  if t.req.self then d.dropTxn t.line
  else d.setRidge { d.ridge with txns := { t with granted := true, wait := [] } :: d.ridge.txns.filter (·.line != t.line) }

/-- The Bay whose fault an atomic on poisoned data is: the requester's, as far as the request tells it, else the line's (R299). -/
def Dev.reqBay (d : Dev) (line : Nat) (q : HomeReq) : Nat :=
  match q.bay with
  | some n => n
  | none => ((if q.a < 256 then d.holder (·.core) q.a else none).orElse fun _ => d.lineBay line).getD 0xFF

/-- The request is the home's own, of a scrub or of a change of the cell (R293, R295). -/
def HomeReq.sweeps (q : HomeReq) : Bool := q.who.isNone && !q.self && (q.a == recallIsl || q.a == scrubIsl)

/-- A request of the granter's agents for a line that a share in force keeps it from writing; an access of this device's agents has been judged
as it was issued (R149, R229). -/
def Dev.frozenFor (d : Dev) (line : Nat) (q : HomeReq) : Bool :=
  q.who.isNone && !q.self && !q.sweeps && (if q.op.caching then q.a < 17 else q.a < 332 || (344 ≤ q.a && q.a < 400)) &&
  match d.lineBay line with | some n => d.frozenGranule n (granule (line * 64)) | none => false

/-- What a transaction leaves once its snoops are answered (R277, R278, R287, R288, R299). -/
def Dev.finishTxn (d : Dev) (e : Env) (t : Txn) : Dev :=
  let d := if t.lost then d.loseLine e t.line else d
  let t := if t.lost then { t with entry := none, dirty := none } else t
  -- the host's dirty data is written to memory (R277, R278)
  let d := match t.dirty with | some (16, data, p) => d.putLine e t.line data p | _ => d
  let m := d.memLine e t.line t.req.ecc
  let d := m.2.2
  let data := match t.dirty with | some x => x.2.1 | none => m.1
  let poison := match t.dirty with | some x => x.2.2 | none => m.2.1
  let r := t.req.r
  match t.req.op with
  | .rdShared =>
    let rest := listDel r t.remain
    let res : Nat × Option Dir :=
      match t.dirty with
      | some (a, _, _) => if a = 16 then (1, mkS (listIns r (listIns 16 rest))) else (1, mkO a (listIns r (listDel a rest)))
      | none =>
        if (match t.entry with | some x => x.kind == DirKind.s | none => false) || !rest.isEmpty || d.shadowed (t.line * 64) 64 || d.frozenFor t.line t.req then
          (1, mkS (listIns r rest))
        else (2, mkX r)
    (((d.putDir e t.line res.2 t.way).homeAnswer e t.line t.req "Data" res.1 data poison .ok)).grant t
  | .rdOwn =>
    (((d.putDir e t.line (mkX r) t.way).homeAnswer e t.line t.req "Data" (if t.dirty.isSome then 4 else 2) data poison .ok)).grant t
  | .upgrade =>
    let held := match t.entry with
      | some x => (x.kind == DirKind.s && x.sharers.contains r) || (x.kind == DirKind.o && x.owner == r)
      | none => false
    if held then
      ((d.putDir e t.line (mkX r) t.way).homeAnswer e t.line t.req "Cmp" 0 [] false .ok).dropTxn t.line
    else
      (((d.putDir e t.line (mkX r) t.way).homeAnswer e t.line t.req "Data" (if t.dirty.isSome then 4 else 2) data poison .ok)).grant t
  | .ncRead =>
    let d := match t.entry with
      | some x => if x.kind == DirKind.x && (x.owner == r || t.ans.contains (x.owner, 0)) then d.putDir e t.line none t.way else d
      | none =>
        if t.rebuilt.isSome && t.snp != 0 then
          match t.ans.find? fun (a : Nat × Nat) => a.2 == 4 || a.2 == 2 with
          | some a => d.putDir e t.line (mkX a.1) t.way
          | none => match t.ans.find? fun (a : Nat × Nat) => a.2 == 3 with
            | some a => d.putDir e t.line (mkO a.1 t.remain) t.way
            | none => d.putDir e t.line (mkS t.remain) t.way
        else d
    (d.homeAnswer e t.line t.req "Data" 0 data poison .ok).dropTxn t.line
  | .ncWrite =>
    let full := (List.range 64).all fun i => bit t.req.mask i
    let d := (d.putLine e t.line (mergeMask data t.req.data t.req.mask) (poison && !full)).putDir e t.line none t.way
    (d.homeAnswer e t.line t.req "Cmp" 0 [] false .ok).dropTxn t.line
  | .ncAtomic =>
    let old := fld data t.req.off t.req.size
    let bay := d.reqBay t.line t.req
    let d := if poison then
        -- an atomic on a poisoned line writes nothing (R299); dirty data that was supplied goes back to memory
        ((if t.dirty.isSome then d.putLine e t.line data true else d).putDir e t.line none t.way).fault .job bay
          { source := 3, island := 272 + sliceOf t.line, addr := t.line * 64, status := .integrity }
      else (d.putLine e t.line (patch data t.req.off
          (leBytes t.req.size (atomicResult t.req.aop t.req.size old t.req.operand t.req.compare))) false).putDir e t.line none t.way
    (if t.req.returning then d.homeAnswer e t.line t.req "Data" 0 (leBytes t.req.size old) poison .ok
     else d.homeAnswer e t.line t.req "Cmp" 0 [] false .ok).dropTxn t.line
  | .wbDirty =>
    -- an owner whose entry has left the directory cache is known by its summary of class 10 (DEDUCED, log entry 14)
    let own : Option (Option Dir) := match t.entry with
      | some x => if x.kind != DirKind.s && x.owner == r then some (if x.kind == DirKind.x then none else mkS (listDel r x.sharers)) else none
      | none => none
    let late := t.entry.isNone && (match t.rebuilt with | some v => v % 4 == 2 && (d.covered v).contains r | none => false)
    let full := (List.range 64).all fun i => bit t.req.mask i
    let put := d.putLine e t.line (mergeMask data t.req.data t.req.mask) (t.req.poison || (poison && !full))
    let d := match own with
      | some x => put.putDir e t.line x t.way
      | none => if late then put else d.count 0x2400 8 1
    (d.homeAnswer e t.line t.req "WbAck" 0 [] false .ok).dropTxn t.line

/-- A snoop to the agent takes effect as a timeout at once: the host, while CXL.mem is not active (R307). -/
def Dev.deadAgent (d : Dev) (a : Nat) : Bool := a == 16 && !(bit d.link.cxl 2)

/-- A silent agent loses the line if it may hold it dirty: listed as X holder or O owner, or covered by a rebuild from class 10
whose peers bit (for the host, its host bit) is set (R298, R307). -/
def Txn.mayBeDirty (t : Txn) (a : Nat) : Bool :=
  match t.entry with
  | some x => x.kind != DirKind.s && x.owner == a
  | none => match t.rebuilt with | some v => v % 4 == 2 && bit v (if a = 16 then 6 else 7) | none => false

/-- One agent's answer arrives, or is taken as given by a timeout; the last one finishes the transaction (R277, R284). -/
def Dev.snpAnswer (d : Dev) (e : Env) (t : Txn) (a st : Nat) (dirty : Option (List Byte × Bool)) (lost : Bool) : Dev :=
  let d := if dirty.isNone && st = 0 && !lost then d.count 0x2400 7 1 else d
  let t := { t with
    wait := listDel a t.wait
    ans := t.ans ++ [(a, st)]
    lost := t.lost || lost
    dirty := match dirty with | some x => some (a, x.1, x.2) | none => t.dirty }
  if t.wait.isEmpty then d.finishTxn e t
  else d.setRidge { d.ridge with txns := t :: d.ridge.txns.filter (·.line != t.line) }

/-- An answer to no waiting snoop is dropped. -/
def Dev.answerOf (d : Dev) (e : Env) (line a st : Nat) (dirty : Option (List Byte × Bool)) (lost : Bool) : Dev :=
  match d.ridge.txns.find? fun t => t.line == line && t.wait.contains a with
  | some t => d.snpAnswer e t a st dirty lost
  | none => d

/-- The way that a request of the line will fill, where it has no entry and will get one: a caching agent's, or the rebuild for an NcRead
(R283, R285). -/
def Dev.needsWay (d : Dev) (e : Env) (line : Nat) (q : HomeReq) : Bool :=
  (d.dir line).isNone && match q.op with
  | .rdShared => true | .rdOwn => true | .upgrade => true
  | .ncRead => d.poisoned e (sumAddr line / 64) || (d.byte e (sumAddr line)).toNat % 4 == 2
  | .ncWrite => false | .ncAtomic => false | .wbDirty => false

/-- A way is kept for the line's entry, and what stood in it leaves (R282, R285). -/
def Dev.keepWay (d : Dev) (e : Env) (line bay : Nat) : Option Nat × Dev :=
  match d.dirVictim line bay with
  | some (w, some l) => (some w, d.dirEvict e l)
  | some (w, none) => (some w, d)
  | none => (none, d)

/-- A cluster L2 whose messages no row carries answers a snoop at once (R275; log entry 10). -/
def Dev.answersAtOnce (d : Dev) (a : Nat) : Bool := Nat.blt a 16 && !(d.ridge.rowed.contains a)

/-- The snoops of a transaction go out; the agents that answer at once do, and one that is dead is taken as silent (R277, R307). -/
def Dev.snoopAll (d : Dev) (e : Env) (t : Txn) : Dev :=
  let d := d.setRidge { d.ridge with txns := t :: d.ridge.txns }
  let d := t.wait.foldl (fun d a => if d.deadAgent a || d.answersAtOnce a then d else d.snoop t.snp a t.line t.req.tn) d
  t.wait.foldl (fun d a =>
    if d.deadAgent a then (d.count 0x2402 5 1).answerOf e t.line a 0 none (t.mayBeDirty a)
    else if d.answersAtOnce a then
      let r := d.l2Snoop t.snp a t.line
      r.2.2.answerOf e t.line a (snoopAnswer t.snp r.1.st).1.code (if r.2.1 then some (r.1.data, r.1.poison) else none) false
    else d) d

/-- A request starts its transaction: the directory is looked up, the snoops go out; with none due it finishes at once (R272,
R277, R282, R283). -/
def Dev.startTxn (d : Dev) (e : Env) (line : Nat) (q : HomeReq) : Dev :=
  -- a protected shadow, or a granule that the granter may not write: writes and atomics are refused, RdOwn and Upgrade served as RdShared; the
  -- Thatch banks are exempt from the former (R149, R491)
  let sh := (d.shadowed (line * 64) 64 && !(296 ≤ q.a && q.a < 304 && !q.op.caching) && !q.sweeps) || d.frozenFor line q
  if sh && (q.op == .ncWrite || q.op == .ncAtomic) then d.homeAnswer e line q "Cmp" Status.access.code [] false .access else
  let q := if sh && (q.op == .rdOwn || q.op == .upgrade) then { q with op := .rdShared } else q
  -- the host's write where it is not the X holder is an NcWrite (R304)
  let q := if q.op == .wbDirty && q.a = 16 && !(match d.dir line with | some x => x.kind == DirKind.x && x.owner == 16 | none => false)
    then { q with op := .ncWrite, a := 326 } else q
  let way : Option Nat × Dev := if d.needsWay e line q then d.keepWay e line 0xFF else (none, d)
  let d := way.2
  let d0 : Dev × Txn × List Nat :=
    match d.dir line with
    | some x =>
      let s := snoopFor q.op q.r x
      (d.count 0x2400 4 1, { line := line, req := q, snp := s.1, entry := some x, time := e.time }, s.2)
    | none =>
      let v := (d.count 0x2400 5 1).readSummary e line
      if v.1 = 0 then (v.2, { line := line, req := q, way := way.1, time := e.time }, [])
      else
        let d := if q.op == .wbDirty then v.2 else
          let d := v.2.count 0x2400 6 1
          match d.lineBay line with | some n => d.count (0x2410 + n) 3 1 | none => d
        let ag := listDel q.r (d.covered v.1)
        let s : Nat × List Nat := match q.op with
          | .rdShared => (1, ag) | .ncRead => if v.1 % 4 = 1 then (0, []) else (3, ag)
          | .rdOwn => (2, ag) | .upgrade => (2, ag) | .ncWrite => (2, ag) | .ncAtomic => (2, ag) | .wbDirty => (0, [])
        (d, { line := line, req := q, snp := s.1, rebuilt := some v.1, way := way.1, time := e.time }, s.2)
  let d := d0.1
  let t := { d0.2.1 with wait := d0.2.2 }
  if t.wait.isEmpty then d.finishTxn e t else d.snoopAll e t

/-- Trackers of a slice in use by requests other than WbDirty for lines of a Bay (R276). -/
def Dev.trackers (d : Dev) (sl : Nat) (bay : Option Nat) : Nat :=
  (d.ridge.txns.filter fun t => sliceOf t.line == sl && t.req.op != .wbDirty && d.lineBay t.line == bay).length

/-- The slice has a tracker for the request: for a WbDirty of the 8 held for it, for any request of the 8 of the Bay that holds the line's
granule, else of the 120 shared (R276). -/
def Dev.hasTracker (d : Dev) (line : Nat) (op : RReq) : Bool :=
  let sl := sliceOf line
  (op == .wbDirty && Nat.blt (d.ridge.txns.filter fun t => sliceOf t.line == sl && t.req.op == .wbDirty).length 8) ||
  (match d.lineBay line with | some n => Nat.blt (d.trackers sl (some n)) 8 | none => false) ||
  Nat.blt ((bays16.map fun n => d.trackers sl (some n) - 8).sum + d.trackers sl none) 120

/-- The rank of a request among those that reach a slice on one tick: the cluster L2s, the islands of the non-caching agents, the Eave,
the ports (R272). -/
def HomeReq.rank (q : HomeReq) : Nat :=
  if q.op.caching then if q.a < 16 then q.a else if q.a = 16 then 1000 else 1001
  else if 326 ≤ q.a && q.a < 330 then 1000 else if q.a = 331 then 1000 else if 332 ≤ q.a && q.a < 344 then 1001 + (q.a - 332)
  else if 400 ≤ q.a then 1013 else 16 + q.a

/-- The line that an offset in decoder k's range names: the decoder is committed and the offset inside it and inside hdm_map
(R171). -/
def Dev.hdmLine (d : Dev) (k off : Nat) : Option Nat :=
  match smGet none d.link.hdm k with
  | none => none
  | some r =>
    let m := d.od 0x2201 (k + 1)
    if bit d.link.cxl 2 && off < r.count && off / 0x10000000 < m / 65536 then some ((m % 65536 * 0x10000000 + off) / 64) else none

/-- The agent exists: a cluster L2, the host while CXL.mem is active, a member of the cell (R269, R291, R307). -/
def Dev.agentHere (d : Dev) (a : Nat) : Bool :=
  if a < 16 then true else if a = 16 then bit d.link.cxl 2 else (d.member (a - 17)).isSome

/-- The request that a waiting command of this tick brings to a home: its line and its rank (R272). -/
def Dev.rowReq (d : Dev) (c : Instr) : Option (Nat × Nat) :=
  let ag (a line : Nat) : Option (Nat × Nat) := if homed line && d.agentHere a then some (line, HomeReq.rank { op := .rdShared, a := a }) else none
  let nc (isl line : Nat) : Option (Nat × Nat) := if homed line then some (line, HomeReq.rank { op := .ncRead, a := isl }) else none
  let mem (k off : Nat) : Option (Nat × Nat) := if (d.bay k).st.live then (d.hdmLine k off).map fun l => (l, 1000) else none
  match c with
  | .rdShared a line _ _ => ag a line | .rdOwn a line _ _ => ag a line | .upgrade a line _ _ => ag a line | .wbDirty a line _ _ _ => ag a line
  | .ncRead isl line _ _ _ => nc isl line | .ncWrite isl line .. => nc isl line | .ncAtomic isl line .. => nc isl line
  | .memRd k off .. => mem k off | .memRdData k off _ => mem k off | .memWr k off .. => mem k off | .memWrPtl k off .. => mem k off
  | _ => none

/-- A request that arrived on this tick lets one of the same line go before it that has yet to come on the tick and ranks before it (R272). -/
def Dev.defers (d : Dev) (e : Env) (line : Nat) (q : HomeReq) : Bool :=
  q.time == e.time && e.tick.any fun c => !(d.ahead.contains c) && match d.rowReq c with
    | some (l, r) => l == line && Nat.blt r q.rank
    | none => false

/-- A WbDirty of a cluster L2 that no row carries: it is not yet at a slice that does not take it, and waits before it (R619, R623). -/
def HomeReq.backlog (q : HomeReq) : Bool := q.self && q.op == .wbDirty

/-- The request may start now: the line is free, a tracker and, where it will fill an entry, a way are free, and none that ranks before it
comes on the tick (R272, R276, R285). -/
def Dev.mayStart (d : Dev) (e : Env) (line : Nat) (q : HomeReq) : Bool :=
  !(d.lineBusy line) && !(q.backlog && (d.island (272 + sliceOf line)).st != .active) && d.hasTracker line q.op && (!(d.needsWay e line q) || (d.dirVictim line 0xFF).isSome) && !(d.defers e line q)

/-- A request joins those that wait, behind the earlier ones of its line and those of its tick that rank before it (R272). -/
def waitIns (line : Nat) (q : HomeReq) : List (Nat × HomeReq) → List (Nat × HomeReq)
  | [] => [(line, q)]
  | w :: r => if w.1 = line && w.2.time = q.time && Nat.blt q.rank w.2.rank then (line, q) :: w :: r else w :: waitIns line q r

/-- A request arrives at its home: it starts, or waits (R272). -/
def Dev.homeArrive (d : Dev) (e : Env) (line : Nat) (q : HomeReq) : Dev :=
  let q := { q with time := e.time }
  if d.mayStart e line q && !(d.ridge.waiting.any (·.1 == line)) then d.startTxn e line q
  else d.setRidge { d.ridge with waiting := waitIns line q d.ridge.waiting }

/-- The first waiting request that may start: for each line, the first that waits for it (R272). `seen`: the lines passed over. -/
def Dev.nextUp (d : Dev) (e : Env) (seen : List Nat) : List (Nat × HomeReq) → Option (Nat × HomeReq)
  | [] => none
  | w :: r => if !(seen.contains w.1) && d.mayStart e w.1 w.2 then some w else d.nextUp e (w.1 :: seen) r

/-- The waiting requests that may now start do, in order of arrival (R272). -/
def Dev.homeNext (d : Dev) (e : Env) : Nat → Dev
  | 0 => d
  | k + 1 =>
    match d.nextUp e [] d.ridge.waiting with
    | some w => ((d.setRidge { d.ridge with waiting := d.ridge.waiting.erase w }).startTxn e w.1 w.2).homeNext e k
    | none => d

/-- After a transaction has ended, waiting requests start; each may make one line of an L2 be written back. -/
def Dev.homePump (d : Dev) (e : Env) : Dev := d.homeNext e (2 * d.ridge.waiting.length)

/-- The answer of an island to a message of class REQ that it does not serve (R615, R620). -/
def Dev.refuseReq (d : Dev) (e : Env) (line : Nat) (q : HomeReq) (s : Status) : Dev :=
  let i := 272 + sliceOf line
  let x := d.island i
  (d.setIsland i (if s = .gone then { x with gone := x.gone + 1 } else { x with retry := x.retry + 1 })).homeAnswer e line q
    (if s = .gone then "Gone" else "Retry") 0 [] (s = .gone) s

/-- A request message reaches its slice. A slice that does not serve answers Retry or Gone. -/
def Dev.homeReq (d : Dev) (e : Env) (line : Nat) (q : HomeReq) : Dev :=
  match d.islAnswer (272 + sliceOf line) with
  | some s => d.refuseReq e line q s
  | none => (d.homeArrive e line q).homePump e

/-- What an access at the home has come to: done with data, poison and a status, or waiting. -/
inductive Got where
  | data (bs : List Byte) (poison : Bool)
  | done
  | refused (s : Status)
  | wait
deriving DecidableEq, Repr

/-- The answer kept for an agent's request of a line is taken. -/
def Dev.takeFresh (d : Dev) (w : Who) (line : Nat) : Option (List Byte × Bool × Status) × Dev :=
  match d.ridge.fresh.find? fun f => f.1 == w && f.2.1 == line with
  | some f => (some f.2.2, d.setRidge { d.ridge with fresh := d.ridge.fresh.erase f })
  | none => (none, d)

/-- The agent has a request for the line under way. -/
def Dev.asking (d : Dev) (w : Who) (line : Nat) : Bool :=
  d.ridge.txns.any (fun t => t.line == line && t.req.who == some w) ||
  d.ridge.waiting.any (fun q => q.1 == line && q.2.who == some w)

/-- One of this device's agents reads, writes or operates on a line at its home (R288). The answer comes at once where no
snoop is due; otherwise it is kept until the agent asks again. A slice that is closing or starting makes the agent wait, one
that is off answers `GONE` (R621, R623). -/
def Dev.ncAccess (d : Dev) (e : Env) (w : Who) (line : Nat) (q : HomeReq) : Got × Dev :=
  let take (d : Dev) : Got × Dev :=
    match d.takeFresh w line with
    | (some (bs, p, s), d) => (if s = .ok then (if q.op = .ncRead || q.returning then .data bs p else .done) else .refused s, d)
    | (none, d) => (.wait, d)
  match take d with
  | (.wait, _) =>
    if d.asking w line then (.wait, d)
    else match d.islAnswer (272 + sliceOf line) with
      | some .retry => (.wait, d)
      | some s => (.refused s, d)
      | none => take ((d.homeArrive e line { q with who := some w }).homePump e)
  | r => r

end Sys2Proof.Machine
end

