-- ==== Sys2Proof/Machine/Proxy.lean ====
section
/-! DEFINITION. The host-line proxy cache: device-side requests, evictions and the host's grants (R308 to R312). -/
namespace Sys2Proof.Machine

/-- A proxy line (R308), keyed by HPA / 64. -/
def Dev.pline (d : Dev) (l : Nat) : CLine := smGet {} d.ridge.proxy l
def Dev.setPline (d : Dev) (l : Nat) (x : CLine) : Dev := d.setRidge { d.ridge with proxy := smSet {} d.ridge.proxy l x }

/-- A proxy line's inside sharers are invalidated: their copies go with the SnpInv (R303, R310). -/
def Dev.dropSharers (d : Dev) (l : Nat) : Dev :=
  let x := d.pline l
  let d := (x.sharers.foldl (fun d c => d.send (.ridge "SnpInv" 331 c (hostKey l) 0 0 [])) d).l2Drop x.sharers (hostKey l)
  d.setPline l { d.pline l with sharers := [] }

/-- A cluster drops its own copy of a host line, on the tick of its core's store (R303). -/
def Dev.dropOwn (d : Dev) (c l : Nat) : Dev :=
  let d := d.setL2 c (hostKey l) {}
  let x := d.pline l
  if x.sharers.contains c then d.setPline l { x with sharers := listDel c x.sharers } else d

/-- The proxy evicts a line: M by DirtyEvict, kept until the host acknowledges it; E by CleanEvictNoData; S silently (R310). -/
def Dev.proxyEvict (d : Dev) (l : Nat) : Dev :=
  let d := d.dropSharers l
  let x := d.pline l
  match x.st with
  | .m => ((d.setPline l { x with wb := true }).hostSend (.cxl "DirtyEvict" l 0 x.data)).count 0x2402 7 1
  | .e => (d.setPline l {}).hostSend (.cxl "CleanEvictNoData" l 0 [])
  | .s => d.setPline l {}
  | .o => d.setPline l {}
  | .i => d.setPline l {}

/-- A line has a request to the host outstanding. -/
def Dev.proxyBusy (d : Dev) (l : Nat) : Bool := d.ridge.proxyWait.any (·.1 == l)

/-- A way for a line of Bay `n`, evicting the oldest entry of its mask's ways that is not busy (R308). -/
def Dev.proxyWay (d : Dev) (n l : Nat) : Nat × Dev :=
  let mask := d.od (0x2420 + n) 1
  let set := d.ridge.proxy.filter fun c => c.1 % 8192 == l % 8192 && !c.2.wb && bit mask c.2.way
  match (List.range 16).find? fun w => bit mask w && !(set.any (·.2.way == w)) with
  | some w => (w, d)
  | none =>
    match (set.filter fun c => !(d.proxyBusy c.1)).foldl (fun b c => match b with
        | none => some c
        | some y => if c.2.stamp < y.2.stamp then some c else b) (none : Option (Nat × CLine)) with
    | some c => (c.2.way, d.proxyEvict c.1)
    | none => (0, d)

/-- A line is installed for Bay `n` in the state granted (R308, R310). -/
def Dev.proxyFill (d : Dev) (n l : Nat) (st : Coh) (data : List Byte) : Dev :=
  let w := d.proxyWay n l
  let stamp := w.2.ridge.stamp + 1
  (w.2.setRidge { w.2.ridge with stamp := stamp }).setPline l { st := st, data := fit 64 data, bay := n, way := w.1, stamp := stamp }

/-- A request is performed on a line that the proxy holds in a state that allows it, and answered (R310). An NcAtomic on poisoned data writes
nothing and is its requester's fault (R299). -/
def Dev.proxyDo (d : Dev) (e : Env) (l : Nat) (q : HomeReq) : Dev :=
  let x := d.pline l
  match q.op with
  | .rdShared =>
    (d.setPline l { x with sharers := listIns q.a x.sharers }).homeAnswer e (hostKey l) q "Data" 1 x.data x.poison .ok
  | .rdOwn => d
  | .upgrade => d
  | .wbDirty => d
  | .ncRead => d.homeAnswer e (hostKey l) q "Data" 0 x.data x.poison .ok
  | .ncWrite =>
    let d := d.dropSharers l
    let full := (List.range 64).all fun i => bit q.mask i
    (d.setPline l { d.pline l with st := .m, data := mergeMask x.data q.data q.mask, poison := x.poison && !full }).homeAnswer e (hostKey l) q "Cmp" 0 [] false .ok
  | .ncAtomic =>
    let old := fld x.data q.off q.size
    let d := d.dropSharers l
    let d := if x.poison then d.fault .job (q.bay.getD x.bay) { source := 3, island := 331, addr := l * 64, status := .integrity }
      else d.setPline l { d.pline l with
        st := .m
        data := patch x.data q.off (leBytes q.size (atomicResult q.aop q.size old q.operand q.compare)) }
    if q.returning then d.homeAnswer e (hostKey l) q "Data" 0 (leBytes q.size old) x.poison .ok
    else d.homeAnswer e (hostKey l) q "Cmp" 0 [] false .ok

/-- The proxy holds the line in a state in which it serves the request itself (R310). -/
def proxyServes (op : RReq) (st : Coh) : Bool :=
  match op with
  | .ncRead => st == .m || st == .e || st == .s
  | .rdShared => st == .m || st == .e || st == .s
  | .rdOwn => false | .upgrade => false | .wbDirty => false
  | .ncWrite => st == .m || st == .e
  | .ncAtomic => st == .m || st == .e

/-- The D2H message that a request needs (R310). -/
def proxyMsg (q : HomeReq) : String :=
  match q.op with
  | .ncRead => "RdShared" | .rdShared => "RdShared" | .rdOwn => "RdOwn" | .upgrade => "RdOwn"
  | .ncWrite => if (List.range 64).all fun i => bit q.mask i then "ItoMWr" else "RdOwn"
  | .ncAtomic => "RdOwn" | .wbDirty => "RdOwn"

/-- Table — Host snoops: the answer, whether it carries data, and the state after. -/
def hostSnoop (snp : Nat) (st : Coh) : String × Bool × Coh :=
  match snp, st with
  | _, .i => ("RspIHitI", false, .i)
  | 1, .m => ("RspSFwdM", true, .s) | 1, _ => ("RspSHitSE", false, .s)
  | 2, .m => ("RspIFwdM", true, .i) | 2, _ => ("RspIHitSE", false, .i)
  | _, .m => ("RspVFwdV", true, .m) | _, x => ("RspVHitV", false, x)

/-- A host snoop is answered from the line's present state, even while a request or a DirtyEvict of the line is under way (R311,
R312). -/
def Dev.h2dSnoop (d : Dev) (snp hpa : Nat) : Dev :=
  if !bit d.link.cxl 1 then d else
  let l := hpa / 64
  let x := d.pline l
  let a := hostSnoop snp x.st
  let d := if snp = 2 then d.dropSharers l else d
  let y := d.pline l
  let d := d.setPline l (if a.2.2 == .i && !x.wb then {} else { y with st := a.2.2 })
  (d.count 0x2402 6 1).hostSend (.cxl (a.1 ++ poisonName (a.2.1 && x.poison)) l 0 (if a.2.1 then x.data else []))

/-- The host snoop that a command brings: its kind and its line. -/
def Instr.hostSnp : Instr → Option (Nat × Nat)
  | .h2dSnpData a => some (1, a) | .h2dSnpInv a => some (2, a) | .h2dSnpCur a => some (3, a)
  | _ => none

/-- The host snoops of a line that still wait on the tick are served first (R318). -/
def Dev.leadSnoops (d : Dev) (e : Env) (l : Nat) : Dev :=
  d.lead e (fun c => match Instr.hostSnp c with | some x => x.2 / 64 == l | none => false)
    fun d c => match Instr.hostSnp c with | some x => d.h2dSnoop x.1 x.2 | none => d

/-- A device-side request of a Bay for a host line: served from the line, or sent to the host; one at a time per line (R310). -/
def Dev.proxyStep (d : Dev) (e : Env) (l : Nat) (q : HomeReq) : Dev :=
  let x := d.pline l
  if d.proxyBusy l || x.wb then d.setRidge { d.ridge with proxyWait := d.ridge.proxyWait ++ [(l, q)] }
  else if proxyServes q.op x.st then d.proxyDo e l q
  else
    let d := if x.st == .s && proxyMsg q != "RdShared" then (d.dropSharers l).setPline l {} else d
    (d.setRidge { d.ridge with proxyWait := d.ridge.proxyWait ++ [(l, q)] }).hostSend
      (.cxl (proxyMsg q) l 0 (if proxyMsg q = "ItoMWr" then fit 64 q.data else []))

/-- A device-side request arrives, after the host snoops of its line and tick (R310, R318). -/
def Dev.proxyReq (d : Dev) (e : Env) (l : Nat) (q : HomeReq) : Dev := (d.leadSnoops e l).proxyStep e l { q with time := e.time }

/-- Requests that waited for a line are taken up again, in order. -/
def Dev.proxyPump (d : Dev) (e : Env) (l : Nat) : Dev :=
  let ws := d.ridge.proxyWait.filter (·.1 == l)
  ws.foldl (fun d w => d.proxyStep e w.1 w.2)
    (d.setRidge { d.ridge with proxyWait := d.ridge.proxyWait.filter (·.1 != l) })

/-- The host's grant or acknowledgement for a line arrives: `st` 1 S, 2 E, 4 M, 0 I (R310, R312). -/
def Dev.proxyGo (d : Dev) (e : Env) (l st : Nat) (data : List Byte) : Dev :=
  let x := d.pline l
  if x.wb then (d.setPline l {}).proxyPump e l
  else match d.ridge.proxyWait.find? (·.1 == l) with
    | none => d
    | some w =>
      let d := d.setRidge { d.ridge with proxyWait := d.ridge.proxyWait.erase w }
      let q := w.2
      let d := if proxyMsg q = "ItoMWr" then d.homeAnswer e (hostKey l) q "Cmp" 0 [] false .ok
        else (d.proxyFill (q.bay.getD 0) l (if proxyMsg q = "RdOwn" then .m else if st = 2 then .e else .s) data).proxyDo e l q
      d.proxyPump e l

/-- The proxy discards every line: M lines are counted in proxy_lost, and each Bay that allocated one gets one fault of class
JOB (R316). -/
def Dev.proxyLose (d : Dev) : Dev :=
  let dirty := d.ridge.proxy.filter fun c => c.2.st == .m
  let d := d.count 0x2402 8 dirty.length
  let d := (bays16.filter fun n => dirty.any (·.2.bay == n)).foldl (fun d n =>
    d.fault .job n { source := 3, island := 331, status := .gone }) d
  d.setRidge { d.ridge with proxy := [], proxyWait := [], l2 := d.ridge.l2.filter fun c => c.1 % 2 ^ 60 < 2 ^ 56 }

end Sys2Proof.Machine
end

