-- ==== Sys2Proof/Machine/SparOps.lean ====
section
/-! DEFINITION. Operations on Spars: values, thresholds, arming and firing (R321 to R339). The mirror writes that they make
due are issued as the command ends (R329). -/
namespace Sys2Proof.Machine

/-- The local index of a Spar in its Bay (R320). -/
def Dev.sparIdx (d : Dev) (n s : Nat) : Nat := s - (d.bay n).held.spar.base

/-- The fire sequence starts: the armed bit clears, the mirror write is due (R332). -/
def Dev.fire (d : Dev) (e : Env) (s : Nat) : Dev :=
  let x := d.spar s
  let d := d.setSpar s { x with armed := false, firing := true, fireStart := e.time, pend := x.pend || x.mirror, pendAt := if x.mirror && !x.pend then e.time else x.pendAt }
  match d.sparBay s with
  | some n => d.count (0x2910 + n) 6 1
  | none => d

/-- The threshold of a Spar is judged; in `DRAINING` and `FAULTED` no fire sequence starts (R331, R336). -/
def Dev.judge (d : Dev) (e : Env) (s : Nat) : Dev :=
  let x := d.spar s
  let stopped := match d.sparBay s with
    | some n => (d.bay n).st == .draining || (d.bay n).st == .faulted
    | none => true
  if x.armed && x.thresh.toNat ≤ x.value.toNat && !stopped then d.fire e s else d

/-- A Spar takes a value; its mirror is due if the value changed (R321, R329). -/
def Dev.sparPut (d : Dev) (e : Env) (s : Nat) (v : W64) : Dev :=
  let x := d.spar s
  (d.setSpar s { x with
    value := v
    pend := x.pend || (x.mirror && x.value != v)
    pendAt := if x.mirror && x.value != v && !x.pend then e.time else x.pendAt }).judge e s

/-- SET v (R321). -/
def Dev.sparSet (d : Dev) (e : Env) (s v : Nat) : Dev := d.sparPut e s (BitVec.ofNat 64 v)

/-- A re-arm trigger of a Course (R15, R411): the next pass at once in REARM_WAIT, a latch or an overrun while it runs. -/
def Course.rearm (x : Course) : Course :=
  match x.st with
  | .rearmWait => { x with st := .running, entry := 0, rep := 0, line := 0, entries := [], pass := x.pass + 1 }
  | .running => if x.latched then { x with overruns := x.overruns + 1 } else { x with latched := true }
  | .halted => if x.latched then { x with overruns := x.overruns + 1 } else { x with latched := true }
  | .idle => x
  | .prepared => x

/-- A trigger at a tick, with what an end of the pass on that tick needs to come first (R420). -/
def Course.trigger (t : Nat) (x : Course) : Course :=
  if x.trigs != 0 && x.trigAt == t then { x.rearm with trigs := x.trigs + 1 }
  else { x.rearm with trigAt := t, trigs := 1, trig0 := (x.latched, x.overruns) }

/-- The pass ends, before the triggers of its tick, which are then judged against the resulting state (R409, R411, R420). -/
def Course.passEnd (t : Nat) (x : Course) : Course :=
  let k := if x.trigAt == t then x.trigs else 0
  let x := if k = 0 then x else { x with latched := x.trig0.1, overruns := x.trig0.2 }
  let x : Course := if x.latched then { x with latched := false, entry := 0, rep := 0, line := 0, entries := [], pass := x.pass + 1 }
    else { x with st := .rearmWait }
  { (List.range k).foldl (fun x _ => x.rearm) x with trigs := 0 }

/-- Every Course whose re-arm Spar this is receives a trigger (R411). -/
def Dev.rearmBy (d : Dev) (e : Env) (s : Nat) : Dev :=
  { d with courses := d.courses.map fun c =>
      if !c.2.hdr.isEmpty && fld c.2.hdr 0x16 2 == s && c.2.st != .idle && c.2.st != .prepared then (c.1, c.2.trigger e.time) else c }

/-- ADD v, modulo 2^64 (R321, R337); it triggers the Courses that re-arm on the Spar unless v is 0 (R411). -/
def Dev.sparAdd (d : Dev) (e : Env) (s v : Nat) : Dev :=
  let d := d.sparPut e s ((d.spar s).value + BitVec.ofNat 64 v)
  if v % 2 ^ 64 = 0 then d else d.rearmBy e s

/-- PULSE: the value rises by 1 (R321). -/
def Dev.sparPulse (d : Dev) (e : Env) (s : Nat) : Dev := d.sparAdd e s 1

/-- A pulse of a device-side agent of Bay `n`: refused where the Bay does not hold the Spar or stands in `DRAINING` or
`FAULTED` (R324, R336). 0xFFFF names none. -/
def Dev.pulse (d : Dev) (e : Env) (n s : Nat) : Dev :=
  if s = 0xFFFF || !(d.bay n).held.spar.has s then d
  else if (d.bay n).st == .draining || (d.bay n).st == .faulted then d
  else d.sparPulse e s

/-- The control of a Spar as SP_CTL reads (R326). -/
def Spar.ctl (x : Spar) : Nat :=
  b2n x.armed + 2 * b2n x.mirror + 4 * x.route.toNat + 16 * b2n x.remote + 0x10000 * x.key.toNat + 0x1000000000000 * x.overrun

/-- A write of SP_CTL or spar_ctl: the fields take effect at once; bit 0 set arms, clear disarms; an arm while `FIRING` is
latched or counted as an overrun (R326, R331, R333, R15). -/
def Dev.sparCtl (d : Dev) (e : Env) (s v : Nat) : Dev :=
  let x := d.spar s
  let x := { x with
    mirror := bit v 1
    route := BitVec.ofNat 2 (v / 4)
    remote := bit v 4
    key := BitVec.ofNat 16 (v / 0x10000)
    pend := x.pend && bit v 1 }
  if bit v 0 then
    if x.firing then
      if x.latched then d.setSpar s { x with overrun := min 0xFFFF (x.overrun + 1) } else d.setSpar s { x with latched := true }
    else (d.setSpar s { x with armed := true }).judge e s
  else d.setSpar s { x with armed := false, latched := false }

/-- A threshold is written (R331, R333). -/
def Dev.sparThresh (d : Dev) (e : Env) (s v : Nat) : Dev :=
  (d.setSpar s { d.spar s with thresh := BitVec.ofNat 64 v }).judge e s

/-- The vector of a Spar's route: 1, 6, 7, or none (R326). -/
def Spar.vector (x : Spar) : Option Nat :=
  match x.route.toNat with | 0 => some 1 | 1 => some 6 | 2 => some 7 | _ => none

/-- The fire sequence ends, once its mirror write has been issued: the message of its route is sent, and a latched re-arm
takes effect, discarded in `DRAINING` and `FAULTED` (R15, R332, R333, R336). -/
def Dev.fireEnd (d : Dev) (e : Env) (s : Nat) : Dev :=
  let x := d.spar s
  if !x.firing || (x.pend && x.mirror) then d else
  match d.sparBay s with
  | none => d.setSpar s { x with firing := false, latched := false }
  | some n =>
    let d := d.maxOd 0x2900 3 (e.time - x.fireStart)
    let d := match x.vector with | some v => d.raiseBay n v | none => d
    let stopped := (d.bay n).st == .draining || (d.bay n).st == .faulted
    (d.setSpar s { x with firing := false, latched := false, armed := x.latched && !stopped }).judge e s

end Sys2Proof.Machine
end

