-- ==== Sys2Proof/Machine/Trans.lean ====
section
/-! DEFINITION. Lath translation: the entry format, the translation caches, walks, and what a walk ends in (R212 to R246). -/
namespace Sys2Proof.Machine

/-- The kinds of Table — Translation fault kinds (R224), by code. -/
def kNotPresent : Nat := 1
def kPermission : Nat := 2
def kBadEntry : Nat := 3
def kHostFault : Nat := 4
def kWalkError : Nat := 5
def kHostError : Nat := 6

def Dev.setTrans (d : Dev) (t : Trans) : Dev := { d with trans := t }

/-- The micro-TLB of a requester (R237); the Batten of a Course is one of its group (DESIGN CHOICE, log entry 16). -/
def Who.unit : Who → Option Nat
  | .core c => some c
  | .engine g => some (256 + g)
  | .course c => some (512 + 16 * (c / 128) + c % 16)
  | .gutter c => some (768 + c / 64)
  | .queue _ => none | .cmd _ _ => none | .mirror _ => none | .sink _ => none | .ckpt _ => none | .job _ _ => none
  | .walker _ => none | .record _ => none | .sky _ => none | .place _ => none

/-- A cached translation serves an access: its Bay, space, range and permission (R235). -/
def Tlb.hit (x : Tlb) (n s dva : Nat) (write : Bool) : Bool :=
  x.bay == n && x.space == s && x.va ≤ dva && dva < x.va + 2 ^ x.log && (if write then x.w else x.r)

/-- The output of a cached translation; a fabric output that names this device's own ID is local (R230). -/
def Dev.trOf (d : Dev) (x : Tlb) (dva : Nat) : Tr :=
  let a := x.oa + (dva - x.va)
  match x.kind with
  | 0 => .loc a
  | 1 => .host a (x.host + (dva - x.va)) x.ats x.coh x.peer
  | _ => if d.fabric.id = some (a / 2 ^ 48) then .loc (a % 2 ^ 48) else .fab a

/-- The set of the Device TLB that an entry falls in (R235; DESIGN CHOICE, log entry 16). -/
def Tlb.set (x : Tlb) : Nat := x.va / 2 ^ x.log % 2048

/-- The valid peer range that a host address lies in (R233). -/
def Dev.peerRange (d : Dev) (a : Nat) : Option Nat :=
  bays16.find? fun r => bit (d.od (0x2320 + r) 4) 0 && d.od (0x2320 + r) 1 ≤ a &&
    a < d.od (0x2320 + r) 1 + d.od (0x2320 + r) 2 * 4096

/-- The PASID that requests of a space carry; none goes without a prefix (R217). -/
def Dev.pasidOf (d : Dev) (n s : Nat) : Option Nat :=
  if d.link.pasid.contains (n + 1) && bit (d.od (0x2310 + n) (s + 5)) 31 then some (d.od (0x2310 + n) (s + 5) % 2 ^ 20) else none

/-- A cached host translation serves an access while its requests may go out, and while R231 still gives the access the route by which the
entry was formed; another access walks, and is judged at the leaf (R217, R231, R233; DEDUCED, log entry 63). -/
def Dev.serves (d : Dev) (x : Tlb) (dva : Nat) (write : Bool) : Bool :=
  x.kind != 1 || ((x.space == 0 || (d.pasidOf x.bay x.space).isSome) &&
    match d.peerRange (x.host + (dva - x.va)) with
    | some p => x.peer && bit (d.od (0x2320 + p) 3) x.bay && (write || !bit (d.od (0x2320 + p) 4) 1)
    | none => !x.peer && x.ats == d.link.ats.contains (x.bay + 1))

/-- A lookup in the requester's micro-TLB, then in the Device TLB, whose hit is copied and made the newest; a requester that
must walk anew finds nothing for its page (R235 to R237, R250). -/
def Dev.lookup (d : Dev) (w : Who) (n s dva : Nat) (write : Bool) : Option Tlb × Dev :=
  if d.trans.anew.contains (w, s, dva / 4096) then (none, d) else
  let mic := match w.unit with | some u => smGet [] d.trans.micro u | none => []
  let good (x : Tlb) : Bool := x.hit n s dva write && d.serves x dva write
  match mic.find? good with
  | some x => (some x, d)
  | none =>
    match d.trans.tlb.find? good with
    | some x =>
      let y := { x with stamp := d.trans.stamp + 1 }
      let tl := d.trans.tlb.map fun z => if z = x then y else z
      let mc := match w.unit with
        | some u => smSet [] d.trans.micro u ((y :: smGet [] d.trans.micro u).take 64)
        | none => d.trans.micro
      (some y, d.setTrans { d.trans with tlb := tl, micro := mc, stamp := d.trans.stamp + 1 })
    | none => (none, d)

/-- A walk for the access is in progress, at the walker or at the host. -/
def Dev.walking (d : Dev) (w : Who) (n s dva : Nat) (write : Bool) : Bool :=
  let same (k : Walk) : Bool := k.who == w && k.bay == n && k.space == s && k.dva / 4096 == dva / 4096 && k.write == write
  d.trans.walks.any same || d.trans.treqs.any fun t => !t.dead && !t.gone && same t.walk

/-- A walk starts, unless 64 are in progress (R222, R224). -/
def Dev.startWalk (d : Dev) (w : Who) (n s dva : Nat) (write : Bool) : Dev :=
  if d.walking w n s dva write || 64 ≤ d.trans.walks.length then d
  else (d.setTrans { d.trans with
      walks := d.trans.walks ++ [{ id := d.trans.nextWalk, bay := n, space := s, dva := dva, write := write, who := w }]
      nextWalk := d.trans.nextWalk + 1 }).count 0x2300 3 1

/-- A DVA is translated for an access: a hit, or a walk is under way. -/
def Dev.translate (d : Dev) (w : Who) (n s dva : Nat) (write : Bool) : Tr × Dev :=
  match d.lookup w n s dva write with
  | (some x, d) => (d.trOf x dva, d)
  | (none, d) => (.miss, d.startWalk w n s dva write)

/-! ### Entries and walks (R219 to R227) -/

/-- An entry with v = 1 breaks R220 at a level. -/
def lathBad (v level : Nat) : Bool :=
  let leaf := bit v 1
  let kind := bits v 5 4
  bits v 63 60 != 0 || bits v 11 8 != 0 ||
  (if leaf then
    level == 3 || kind == 3 || (bit v 6 && kind != 1) || (bit v 7 && level != 0) ||
    bits v 59 12 * 4096 % 2 ^ (12 + 9 * level) != 0 ||
    (kind == 0 && bits v 59 48 != 0) || (kind == 1 && bits v 59 57 != 0)
   else level == 0 || bits v 7 2 != 0 || bits v 59 48 != 0)

/-- The whole 4 KiB table lies inside the Bay's own HBM granules (R222). -/
def Dev.inOwnHbm (d : Dev) (n a : Nat) : Bool := inHbm a && (d.bay n).held.hbm.has (granule a) && (d.bay n).held.hbm.has (granule (a + 4095))

/-- What one advance of a walk comes to. -/
inductive WalkRes where
  | more (k : Walk)
  | wait (k : Walk)
  | leaf (v level : Nat) (big : Bool)
  | fault (kind level : Nat)
deriving DecidableEq, Repr

/-- Entry addresses: the table's, by the DVA's index at a level (R222). -/
def walkIdx (dva level : Nat) : Nat := if level = 3 then dva / 2 ^ 39 else dva / 2 ^ (12 + 9 * level) % 512

/-- The walker reads 8 bytes at an LPA at the line's home, as a non-caching agent (R222). -/
def Dev.walkRead (d : Dev) (e : Env) (k : Walk) (a : Nat) (err : Bool) : Option (Nat × Bool) × Dev :=
  match d.ncAccess e (.walker k.id) (a / 64) { op := .ncRead, a := 330, ecc := !err } with
  | (.data bs p, d) => (some (fld bs (a % 64) 8, p), d)
  | (.done, d) => (none, d)
  | (.refused _, d) => (some (0, true), d)
  | (.wait, d) => (none, d)

/-- The non-leaf entry nearest the leaf that the walker cache holds for a DVA (R224). -/
def Dev.wcacheHit (d : Dev) (n s dva : Nat) : Option WCache :=
  [1, 2, 3].findSome? fun l => d.trans.wcache.find? fun c =>
    c.bay == n && c.space == s && c.level == l && c.va == dva / 2 ^ (12 + 9 * l)

/-- The 16 entries of the aligned group of a contiguous leaf form one 64 KiB entry (R227). -/
def groupOk (vs : List Nat) : Bool :=
  match vs with
  | [] => false
  | v0 :: _ => bits v0 59 12 % 16 == 0 &&
    (vs.zipIdx.all fun c => bit c.1 0 && bit c.1 1 && bit c.1 7 && !(lathBad c.1 0) && bits c.1 6 2 == bits v0 6 2 &&
      bits c.1 59 12 == bits v0 59 12 + c.2)

/-- The group read of a contiguous leaf `v` has ended: it forms a 64 KiB entry, or, where the hint does not hold or the read failed, the
4 KiB entry of the leaf alone (R227). -/
def Dev.groupEnd (d : Dev) (k : Walk) (v : Nat) (bs : Option (List Byte)) : WalkRes × Dev :=
  let ok := match bs with
    | some bs => groupOk (listSet ((List.range 16).map fun i => fld bs (8 * i) 8) (walkIdx k.dva 0 % 16) v)
    | none => false
  (.leaf v 0 ok, if ok then d else d.count 0x2300 5 1)

/-- One read of a walk: the root, the next level's entry, or the group of a contiguous leaf (R222, R227). `err`: the read
fails uncorrectably. A non-leaf entry read without fault joins the walker cache at once, whatever the walk ends in: R221 keeps the walk's
result out of the caches, not the entries on its way (DESIGN CHOICE, log entry 63). -/
def Dev.walkStep (d : Dev) (e : Env) (k : Walk) (err : Bool) : WalkRes × Dev :=
  match k.leaf with
  | some v =>
    let base := k.table + walkIdx k.dva 0 / 16 * 128
    match d.ncAccess e (.walker k.id) (base / 64) { op := .ncRead, a := 330 } with
    | (.data b0 p0, d) =>
      match d.ncAccess e (.walker k.id) (base / 64 + 1) { op := .ncRead, a := 330 } with
      | (.data b1 p1, d) => d.groupEnd k v (if p0 || p1 || err then none else some (b0 ++ b1))
      | (.wait, d) =>
        -- the first half is asked for again with the second
        (.wait k, d.setRidge { d.ridge with fresh := d.ridge.fresh ++ [(.walker k.id, base / 64, b0, p0, .ok)] })
      | (_, d) => d.groupEnd k v none
    | (.wait, d) => (.wait k, d)
    | (_, d) => d.groupEnd k v none
  | none =>
    if k.level = 4 then
      let root := d.od (0x2310 + k.bay) (k.space + 1)
      if !bit root 0 || k.dva / 2 ^ (39 + bits root 5 1) != 0 then (.fault kNotPresent 3, d)
      else match d.wcacheHit k.bay k.space k.dva with
        | some c => (.more { k with level := c.level - 1, table := c.table }, d.count 0x2300 4 1)
        | none => (.more { k with level := 3, table := bits root 47 12 * 4096 }, d)
    else
      match d.walkRead e k (k.table + walkIdx k.dva k.level * 8) err with
      | (none, d) => (.wait k, d)
      | (some (v, bad), d) =>
        if bad then (.fault kWalkError k.level, d)
        else if !bit v 0 then (.fault kNotPresent k.level, d)
        else if lathBad v k.level then (.fault kBadEntry k.level, d)
        else if bit v 1 then
          if k.level = 0 && bit v 7 then (.more { k with leaf := some v }, d) else (.leaf v k.level false, d)
        else
          let t := bits v 47 12 * 4096
          if !(d.inOwnHbm k.bay t) then (.fault kBadEntry k.level, d)
          else
            let c : WCache := ⟨k.bay, k.space, k.level, k.dva / 2 ^ (12 + 9 * k.level), t⟩
            (.more { k with level := k.level - 1, table := t },
              d.setTrans { d.trans with wcache := (c :: d.trans.wcache).take 1024 })

/-- A walk advances until it ends or has to wait for a read; `err` fails its first read. -/
def Dev.walkRun (d : Dev) (e : Env) (k : Walk) (err : Bool) : Nat → WalkRes × Dev
  | 0 => (.wait k, d)
  | f + 1 =>
    match d.walkStep e k (err && (k.level != 4)) with
    | (.more k', d) => d.walkRun e k' (err && k.level == 4) f
    | r => r

/-- An entry for the page of `dva` fills the Device TLB, in the ways of the Bay's mask: in place of the entries that cover that page, in a
free way, or in that of the least recently used (R236, R250). -/
def Dev.fillTlb (d : Dev) (x : Tlb) (dva : Nat) : Dev :=
  let mask := d.od (0x2310 + x.bay) 9
  let tl := d.trans.tlb.filter fun y => !(y.bay == x.bay && y.space == x.space && y.va ≤ dva && dva < y.va + 2 ^ y.log)
  let ins := tl.filter fun y => y.set == x.set && bit mask y.way
  let stamp := d.trans.stamp + 1
  match (List.range 8).find? fun w => bit mask w && !(tl.any fun y => y.set == x.set && y.way == w) with
  | some w => d.setTrans { d.trans with tlb := { x with way := w, stamp := stamp } :: tl, stamp := stamp }
  | none =>
    match ins.foldl (fun b y => match b with
        | none => some y
        | some z => if y.stamp < z.stamp then some y else b) (none : Option Tlb) with
    | some y => d.setTrans { d.trans with tlb := { x with way := y.way, stamp := stamp } :: tl.filter (· != y), stamp := stamp }
    | none => d

/-- The walk leaves the list of walks in progress. -/
def Dev.dropWalk (d : Dev) (id : Nat) : Dev := d.setTrans { d.trans with walks := d.trans.walks.filter (·.id != id) }

/-- The requester no longer has to walk anew for a page (R250). -/
def Dev.dropAnew (d : Dev) (k : Walk) : Dev :=
  d.setTrans { d.trans with anew := d.trans.anew.filter (· != (k.who, k.space, k.dva / 4096)) }

/-- How the end of a walk answers its requester. -/
inductive WalkEnd where
  | filled
  | asked
  | wait
  | fault (kind level : Nat)
  | absent
  | master
deriving DecidableEq, Repr

/-- A leaf is reached: permissions, the kind's route, and the fill of the Device TLB, or a Translation Request (R217, R223,
R226, R231, R233). -/
def Dev.walkLeaf (d : Dev) (e : Env) (k : Walk) (v level : Nat) (big : Bool) : WalkEnd × Dev :=
  let log := if big then 16 else 12 + 9 * level
  let va := k.dva / 2 ^ log * 2 ^ log
  let oa := bits v 59 12 * 4096 / 2 ^ log * 2 ^ log
  let r := bit v 2
  let w := bit v 3
  let kind := bits v 5 4
  let n := k.bay
  let base : Tlb := ⟨n, k.space, va, log, 0, kind, oa, r, w, bit v 6, false, false, oa, 0⟩
  if !(if k.write then w else r) then (.fault kPermission level, d)
  else if kind != 1 then (.filled, ((d.dropAnew k).dropWalk k.id).fillTlb base k.dva)
  else if k.space != 0 && (d.pasidOf n k.space).isNone then (.fault kBadEntry level, d)
  else
    let a := oa + (k.dva - va)
    let ats := d.link.ats.contains (n + 1)
    match d.peerRange a with
    | some p =>
      let wo := bit (d.od (0x2320 + p) 4) 1
      if !bit (d.od (0x2320 + p) 3) n then (.fault kBadEntry level, d)
      else if wo && !k.write then (.fault kPermission level, d)
      else
        -- the entry covers the one page, which lies in the range as a whole
        let x := { base with va := k.dva / 4096 * 4096, log := 12, oa := a / 4096 * 4096, host := a / 4096 * 4096, r := r && !wo, peer := true }
        (.filled, ((d.dropAnew k).dropWalk k.id).fillTlb x k.dva)
    | none =>
      if !ats then (.filled, ((d.dropAnew k).dropWalk k.id).fillTlb base k.dva)
      else if (d.bay n).st == .parked then (.absent, d)
      else if !(d.link.bme.contains (n + 1)) then (.master, d)
      else if d.link.st != .up then (.wait, d)
      else
        let log' := min log 21
        let va' := k.dva / 2 ^ log' * 2 ^ log'
        let host := oa + (va' - va)
        let t : TReq := { tag := d.link.nextTag, walk := k, host := host, log := log', r := r, w := w, coh := bit v 6, time := e.time }
        let d := (d.dropWalk k.id).setTrans { (d.dropWalk k.id).trans with treqs := d.trans.treqs ++ [t] }
        (.asked, ({ d with link := { d.link with nextTag := d.link.nextTag + 1 } } : Dev).hostSend
          (.transReq (n + 1) t.tag host (2 ^ log') k.write (d.pasidOf n k.space)))

/-- A walk comes to its end, or waits for a read at a home (R222). -/
def Dev.walkEnd (d : Dev) (e : Env) (k : Walk) (err : Bool) : WalkEnd × Dev :=
  match d.walkRun e k err 7 with
  | (.leaf v level big, d) => d.walkLeaf e k v level big
  | (.fault kind level, d) => (.fault kind level, d)
  | (.more k', d) | (.wait k', d) =>
    (.wait, d.setTrans { d.trans with walks := d.trans.walks.map fun x => if x.id = k.id then k' else x })

/-- A translation fault is counted, and the Bay's latest fault recorded (R247, R249). A fault that arises at no level of a walk (the local
check of R228, `HOST_FAULT`, `HOST_ERROR`) shows level 0 (DESIGN CHOICE, log entry 63). -/
def Dev.noteFault (d : Dev) (n s dva kind level : Nat) (write : Bool) : Dev :=
  ((d.count (0x2310 + n) 0xC 1).setOd (0x2310 + n) 0xD dva).setOd (0x2310 + n) 0xE
    (kind + 256 * s + 1024 * level + 4096 * b2n write)

/-- A Translation Completion arrives for a request: the fill, HOST_FAULT, or HOST_ERROR, whose level the spec does not give and is 0 here
(R224, R232; DESIGN CHOICE, log entry 63). `log`: its granted size. -/
def Dev.transDone (d : Dev) (t : TReq) (malformed : Bool) (hpa log : Nat) (canR canW : Bool) : WalkEnd × Dev :=
  let d := d.setTrans { d.trans with treqs := d.trans.treqs.filter (·.tag != t.tag) }
  let k := t.walk
  if malformed then (.fault kHostError 0, d)
  else if !(if k.write then canW && t.w else canR && t.r) then (.fault kHostFault 0, d)
  else
    let l := min t.log log
    let va := k.dva / 2 ^ l * 2 ^ l
    let host := t.host + (va - k.dva / 2 ^ t.log * 2 ^ t.log)
    let oa := hpa / 2 ^ log * 2 ^ log + host % 2 ^ log
    let x : Tlb := ⟨k.bay, k.space, va, l, 0, 1, oa, t.r && canR, t.w && canW, t.coh, true, false, host, 0⟩
    (.filled, (d.dropAnew k).fillTlb x k.dva)

/-- Every cached translation that `p` names is removed from the Device TLB and the micro-TLBs. -/
def Dev.dropTlb (d : Dev) (p : Tlb → Bool) : Dev :=
  d.setTrans { d.trans with
    tlb := d.trans.tlb.filter fun x => !p x
    micro := (d.trans.micro.map fun c => (c.1, c.2.filter fun x => !p x)).filter fun c => !c.2.isEmpty }

end Sys2Proof.Machine
end

