-- ==== Sys2Proof/Machine/Move.lean ====
section
/-! DEFINITION. Translated accesses of a Bay's agents: reads and writes by DVA, page by page (R242), to local memory, the
host, and other devices. An access that must wait for a walk, a snoop or an answer has no effect yet; it is tried again. -/
namespace Sys2Proof.Machine

/-- What an access has come to. -/
inductive Mv where
  | got (bs : List Byte) (poison : Bool)
  | done
  | wait
  | fault (kind level dva : Nat)
  | absent (dva : Nat)
  | master (dva : Nat)
  | fail (s : Status)
deriving DecidableEq, Repr

/-- Where a non-caching request goes: a home here, the proxy cache for Bay `n`, the home of a cell member. -/
inductive Dest where
  | here | proxy (n : Nat) | away (member : Nat)
deriving DecidableEq, Repr

/-- The key of the answer of a request. -/
def Dest.key (t : Dest) (line : Nat) : Nat :=
  match t with | .here => line | .proxy _ => hostKey line | .away _ => awayKey line

/-- The request for a line is under way, or its answer is there. -/
def Dev.asked (d : Dev) (w : Who) (t : Dest) (line : Nat) : Bool :=
  d.ridge.fresh.any (fun f => f.1 == w && f.2.1 == t.key line) ||
  (match t with
   | .here => d.asking w line
   | .proxy _ => d.ridge.proxyWait.any fun p => p.1 == line && p.2.who == some w
   | .away _ => d.ridge.away.any fun a => a.1 == w && a.2.1 == line)

/-- The 32-byte payload of NcAtomic after its control bytes, and the other payloads (R558). -/
def ncPayload (q : HomeReq) : List Byte :=
  match q.op with
  | .ncRead => leBytes 8 q.mask
  | .ncWrite => fit 64 q.data ++ leBytes 8 q.mask
  | .ncAtomic => leBytes 8 (q.aop + 16 * (if q.size = 4 then 0 else if q.size = 8 then 1 else 2) + 64 * b2n q.returning) ++
      (if q.aop = 9 then leBytes 16 q.compare ++ leBytes 16 q.operand else leBytes 16 q.operand ++ zeros 16)
  | .rdShared => [] | .rdOwn => [] | .upgrade => []
  | .wbDirty => fit 64 q.data

/-- The message name of a request. -/
def RReq.msg : RReq → String
  | .rdShared => "RdShared" | .rdOwn => "RdOwn" | .upgrade => "Upgrade" | .ncRead => "NcRead" | .ncWrite => "NcWrite"
  | .ncAtomic => "NcAtomic" | .wbDirty => "WbDirty"

/-- A request is made, unless it is under way or answered (R288, R290, R310). -/
def Dev.ask (d : Dev) (e : Env) (w : Who) (t : Dest) (line : Nat) (q : HomeReq) : Dev :=
  if d.asked w t line then d else
  let q := { q with who := some w }
  let refused (i : Nat) (f : Dev → Dev) : Dev := match d.islAnswer i with
    | some .retry => d
    | some s => d.setRidge { d.ridge with fresh := d.ridge.fresh ++ [(w, t.key line, [], true, s)] }
    | none => f d
  match t with
  | .here => refused (272 + sliceOf line) fun d => (d.homeArrive e line q).homePump e
  | .proxy n => refused 331 fun d => d.proxyReq e line { q with bay := some n }
  | .away m =>
    let tn := d.fabric.nextTn
    let d := { d with fabric := { d.fabric with nextTn := tn + 1 } }
    (d.setRidge { d.ridge with away := d.ridge.away ++ [(w, line, tn, q)] }).ridgeFrame m q.op.msg (line * 64 + q.off) tn 0 (ncPayload q) false

/-- The answers of several requests, once all are there; meanwhile none is used. -/
def Dev.gather (d : Dev) (e : Env) (w : Who) (t : Dest) (qs : List (Nat × HomeReq)) : Option (List (List Byte × Bool × Status)) × Dev :=
  let d := qs.foldl (fun d q => d.ask e w t q.1 q.2) d
  let fs := qs.map fun q => d.ridge.fresh.find? fun f => f.1 == w && f.2.1 == t.key q.1
  if fs.all Option.isSome then
    let fs := fs.filterMap id
    (some (fs.map (·.2.2)), d.setRidge { d.ridge with fresh := fs.foldl (fun l f => l.erase f) d.ridge.fresh })
  else (none, d)

/-- The parts of a byte range by line: line, offset in it, length. -/
def lineParts (a len : Nat) : List (Nat × Nat × Nat) :=
  if len = 0 then [] else
  (List.range ((a + len - 1) / 64 + 1 - a / 64)).map fun i =>
    let l := a / 64 + i
    let lo := max a (l * 64)
    (l, lo - l * 64, min (a + len) (l * 64 + 64) - lo)

/-- The byte mask of a part of a line. -/
def partMask (off len : Nat) : Nat := (2 ^ len - 1) * 2 ^ off

/-- A read of a byte range by line requests. -/
def Dev.readLines (d : Dev) (e : Env) (w : Who) (t : Dest) (isl a len : Nat) : Mv × Dev :=
  let ps := lineParts a len
  match d.gather e w t (ps.map fun p => (p.1, { op := .ncRead, a := isl, mask := partMask p.2.1 p.2.2 })) with
  | (none, d) => (.wait, d)
  | (some rs, d) =>
    match rs.find? (·.2.2 != .ok) with
    | some r => (.fail r.2.2, d)
    | none => (.got (((ps.zip rs).map fun c => (c.2.1.drop c.1.2.1).take c.1.2.2).flatten) (rs.any (·.2.1)), d)

/-- A write of a byte range by line requests. -/
def Dev.writeLines (d : Dev) (e : Env) (w : Who) (t : Dest) (isl a : Nat) (bs : List Byte) : Mv × Dev :=
  let ps := lineParts a bs.length
  let part (p : Nat × Nat × Nat) : List Byte := zeros p.2.1 ++ (bs.drop (p.1 * 64 + p.2.1 - a)).take p.2.2
  match d.gather e w t (ps.map fun p => (p.1, { op := .ncWrite, a := isl, mask := partMask p.2.1 p.2.2, data := part p })) with
  | (none, d) => (.wait, d)
  | (some rs, d) =>
    match rs.find? (·.2.2 != .ok) with
    | some r => (.fail r.2.2, d)
    | none => (.done, d)

/-- The island that a requester sends from (R28): the requester number of its messages. The table of islands gives the command processor and
the Spar unit none: queue fetches, command reads, mirror writes and completion records go out from island 327, the link's function, which
they leave through (DESIGN CHOICE, log entry 45). -/
def Who.island : Who → Nat
  | .core c => c
  | .gutter c => 344 + c / 64
  | .course c => 344 + c / 128
  | .engine g => engineIsland g
  | .sky _ => 328 | .place _ => 327
  | .queue _ => 327 | .cmd _ _ => 327 | .mirror _ => 327 | .sink _ => 348 | .ckpt _ => 348 | .job _ _ => 348
  | .walker _ => 330 | .record _ => 327

/-- A strict Bay's cores and engines may not read a Spar (R325). -/
def Who.isWorker : Who → Bool
  | .core _ => true | .engine _ => true
  | .gutter _ => false | .course _ => false | .queue _ => false | .cmd _ _ => false | .mirror _ => false | .sink _ => false
  | .ckpt _ => false | .job _ _ => false | .walker _ => false | .record _ => false | .sky _ => false | .place _ => false

/-- The island that serves an LPA outside HBM: a Loft bank group, a core, or none that closes (R28). -/
def homeIsland (a : Nat) : Option Nat :=
  if 0x10000000000 ≤ a && a < 0x10018000000 then some (288 + (a - 0x10000000000) / 0xC00000 / 4)
  else if 0x11000000000 ≤ a && a < 0x11008000000 then some ((a - 0x11000000000) / 0x80000)
  else none

/-- A Spar operation that a requester may not issue: refused with `ACCESS`, counted, and for a core or engine of class JOB (R325). -/
def Dev.sparRefuse (d : Dev) (w : Who) (n s : Nat) : Dev :=
  let d := d.count (0x2910 + n) 0xA 1
  if w.isWorker then
    d.fault .job n { status := .access, source := (match w with | .core _ => 6 | _ => 7), island := w.island, object := s }
  else d

/-! ### A core's accesses through the L2 of its cluster (R270, R286, R290, R302, R303, R426) -/

/-- The cluster of a core, which caches what the core reads and writes. -/
def Who.cluster : Who → Option Nat
  | .core c => some (c / 16)
  | .gutter _ => none | .course _ => none | .engine _ => none | .queue _ => none | .cmd _ _ => none | .mirror _ => none | .sink _ => none
  | .ckpt _ => none | .job _ _ => none | .walker _ => none | .record _ => none | .sky _ => none | .place _ => none

/-- An L2 asks for a line of another device at its home. A line that other clusters of this device hold in more than S is let go first,
since the home knows the device as one agent (R290, R292; DESIGN CHOICE, log entry 10). -/
def Dev.l2AskAway (d : Dev) (e : Env) (w : Who) (n c m line : Nat) (op : RReq) : Dev :=
  let key := awayKey line
  if d.ridge.l2out.any (fun r => r.line == key) || (d.remoteLine key).wb then d else
  let others := match d.dir key with | some x => listDel c x.sharers | none => []
  let d : Dev := match d.dir key with
    | some x => if others.isEmpty then d
        else if x.st == .s && op == .rdShared then d
        else if x.st == .s then (d.l2Drop others key).setDir key (if x.sharers.contains c then some { x with sharers := [c] } else none)
        else d.remoteRecall key
    | none => d
  if (d.remoteLine key).wb then d else
  let way : Option Nat × Dev := if (d.dir key).isSome then (none, d) else d.keepWay e key n
  if (d.dir key).isNone && way.1.isNone then d else
  let d := way.2
  let op : RReq := if (d.l2 c key).st == .i && op == .upgrade then .rdOwn else op
  let tn := d.fabric.nextTn
  let d := { d with fabric := { d.fabric with nextTn := tn + 1 } }
  (d.setRidge { d.ridge with l2out := d.ridge.l2out ++ [{ c := c, line := key, op := op, tn := tn, bay := n, way := way.1, who := some w }] }).ridgeFrame
    m op.msg (line * 64) tn 0 [] false

/-- An L2 asks for a line for a core's access, unless it is asking already (R290, R302). -/
def Dev.l2Ask (d : Dev) (e : Env) (w : Who) (n c : Nat) (t : Dest) (line : Nat) (op : RReq) : Dev :=
  let q : HomeReq := { op := op, a := c, who := some w, self := true, bay := some n }
  let refused (i : Nat) (f : Dev → Dev) : Dev := match d.islAnswer i with
    | some .retry => d
    | some s => d.setRidge { d.ridge with fresh := d.ridge.fresh ++ [(w, t.key line, [], true, s)] }
    | none => f d
  match t with
  | .here =>
    if d.ridge.txns.any (fun x => x.line == line && x.req.self && x.req.op != .wbDirty && x.req.a == c) ||
      d.ridge.waiting.any (fun x => x.1 == line && x.2.self && x.2.op != .wbDirty && x.2.a == c) then d
    else refused (272 + sliceOf line) fun d => (d.homeArrive e line q).homePump e
  | .proxy _ => if d.ridge.proxyWait.any fun x => x.1 == line && x.2.self && x.2.a == c then d else refused 331 fun d => d.proxyReq e line q
  | .away m => d.l2AskAway e w n c m line op

/-- The request that a copy needs before a read or a write of it; none where its state allows the access (R270, R277). -/
def Coh.need (x : Coh) (write : Bool) : Option RReq :=
  match x with
  | .i => some (if write then .rdOwn else .rdShared)
  | .s => if write then some .upgrade else none
  | .o => if write then some .upgrade else none
  | .e => none
  | .m => none

/-- The lines of an access are brought into the L2 in a state that allows it, as far as that goes at once. A line whose WbDirty is not yet
acknowledged is not the L2's. -/
def Dev.l2Want (d : Dev) (e : Env) (w : Who) (n c : Nat) (t : Dest) (ls : List Nat) (write : Bool) : Dev :=
  ls.foldl (fun d l =>
    let x := d.l2 c (t.key l)
    if x.wb then d else match x.st.need write with
    | some op => d.l2Ask e w n c t l op
    | none => d) d

/-- A refusal that an L2's request drew, for the core that asked. -/
def Dev.l2Refused (d : Dev) (w : Who) (keys : List Nat) : Option Status × Dev :=
  match d.ridge.fresh.find? fun f => f.1 == w && keys.contains f.2.1 && f.2.2.2.2 != .ok with
  | some f => (some f.2.2.2.2, d.setRidge { d.ridge with fresh := d.ridge.fresh.erase f })
  | none => (none, d)

/-- The copies of some lines become the newest of their sets (R426). -/
def Dev.l2Touch (d : Dev) (c : Nat) (keys : List Nat) : Dev :=
  keys.foldl (fun d k =>
    let stamp := d.ridge.stamp + 1
    (d.setRidge { d.ridge with stamp := stamp }).setL2 c k { d.l2 c k with stamp := stamp }) d

/-- A core's access is ready: every line is in the L2 in a state that allows it. -/
def Dev.l2Ready (d : Dev) (c : Nat) (keys : List Nat) (write : Bool) : Bool :=
  keys.all fun k => !(d.l2 c k).wb && ((d.l2 c k).st.need write).isNone

/-- A core reads a byte range through the L2 of its cluster. -/
def Dev.l2Read (d : Dev) (e : Env) (w : Who) (n c : Nat) (t : Dest) (a len : Nat) : Mv × Dev :=
  let ps := lineParts a len
  let keys := ps.map fun p => t.key p.1
  let d := d.l2Want e w n c t (ps.map (·.1)) false
  match d.l2Refused w keys with
  | (some s, d) => (.fail s, d)
  | (none, d) =>
    if !(d.l2Ready c keys false) then (.wait, d)
    else (.got ((ps.map fun p => ((d.l2 c (t.key p.1)).data.drop p.2.1).take p.2.2).flatten) (keys.any fun k => (d.l2 c k).poison), d.l2Touch c keys)

/-- A core writes a byte range through the L2 of its cluster: each copy is in E or M, and becomes M without a message (R270). A line keeps its
poison unless it is written whole (R299). -/
def Dev.l2Write (d : Dev) (e : Env) (w : Who) (n c : Nat) (t : Dest) (a : Nat) (bs : List Byte) : Mv × Dev :=
  let ps := lineParts a bs.length
  let keys := ps.map fun p => t.key p.1
  let d := d.l2Want e w n c t (ps.map (·.1)) true
  match d.l2Refused w keys with
  | (some s, d) => (.fail s, d)
  | (none, d) =>
    if !(d.l2Ready c keys true) then (.wait, d)
    else (.done, (ps.foldl (fun d p =>
      let x := d.l2 c (t.key p.1)
      let part := (bs.drop (p.1 * 64 + p.2.1 - a)).take p.2.2
      let d := match d.dir (t.key p.1) with
        | some y => if y.kind == DirKind.p then d.setDir (t.key p.1) (some { y with st := .m }) else d
        | none => d
      d.setL2 c (t.key p.1) { x with st := .m, data := patch x.data p.2.1 part, poison := x.poison && p.2.2 != 64 }) d).l2Touch c keys)

/-- A read by line: of a core through its cluster's L2, of any other agent at the home (R288, R290, R302). -/
def Dev.lineRead (d : Dev) (e : Env) (w : Who) (n : Nat) (t : Dest) (a len : Nat) : Mv × Dev :=
  match w.cluster with
  | some c => d.l2Read e w n c t a len
  | none => d.readLines e w t w.island a len

/-- A write by line. A core's store to a host line goes to the proxy cache, and the cluster drops its copy (R303). -/
def Dev.lineWrite (d : Dev) (e : Env) (w : Who) (n : Nat) (t : Dest) (a : Nat) (bs : List Byte) : Mv × Dev :=
  match w.cluster, t with
  | some c, .proxy _ => ((lineParts a bs.length).foldl (fun d p => d.dropOwn c p.1) d).writeLines e w t w.island a bs
  | some c, _ => d.l2Write e w n c t a bs
  | none, _ => d.writeLines e w t w.island a bs

/-- An access to a byte range has been issued by line and is not yet answered. -/
def Dev.lineAsked (d : Dev) (w : Who) (t : Dest) (a len : Nat) : Bool :=
  (lineParts a len).any fun p => d.asked w t p.1 || match w.cluster, t with
    | some c, .here => d.ridge.txns.any (fun x => x.line == p.1 && x.req.self && x.req.a == c) ||
        d.ridge.waiting.any fun x => x.1 == p.1 && x.2.self && x.2.a == c
    | some c, .proxy _ => d.ridge.proxyWait.any fun x => x.1 == p.1 && x.2.self && x.2.a == c
    | some c, .away _ => d.ridge.l2out.any fun r => r.c == c && r.line == awayKey p.1
    | none, _ => false

/-- A local read within a page, after the check of the Bay's reachable set, which an access already issued has passed (R228, R229, R322). -/
def Dev.readLocal (d : Dev) (e : Env) (w : Who) (n a len : Nat) (issued : Bool) : Mv × Dev :=
  match if issued then .ok else d.reach n a len false with
  | .bad => (.fault kBadEntry 0 0, d)
  | .perm => (.fault kPermission 0 0, d)
  | .access => (.fail .access, d)
  | .ok =>
    if inHbm a then d.lineRead e w n .here a len
    else if 0x12000000000 ≤ a && a < 0x12000008000 then
      if d.strict n then (.fail .access, d.sparRefuse w n ((a - 0x12000000000) / 8))
      else
        let s0 := (a - 0x12000000000) / 8
        let all := ((List.range (len / 8 + 2)).map fun i => leBytes 8 (d.spar (s0 + i)).value.toNat).flatten
        (.got ((all.drop (a % 8)).take len) false, d)
    else match (homeIsland a).bind d.islAnswer with
      | some .retry => (.wait, d)
      | some s => (.fail s, d)
      | none => (.got (d.bytes e a len) ((lineParts a len).any fun p => d.poisoned e p.1), d)

/-- Bytes written over the Spar values they cover, each a SET of the merged value (R321). -/
def Dev.setSpars (d : Dev) (e : Env) (a : Nat) (bs : List Byte) : Dev :=
  (List.range ((a % 8 + bs.length + 7) / 8)).foldl (fun d i =>
    let s := (a - 0x12000000000) / 8 + i
    let old := leBytes 8 (d.spar s).value.toNat
    let new := (List.range 8).map fun j =>
      let x := 0x12000000000 + 8 * s + j
      if a ≤ x && x < a + bs.length then (bs[x - a]?).getD 0 else (old[j]?).getD 0
    d.sparSet e s (leNat new)) d

/-- A local write within a page, after the check of the Bay's reachable set, of protected shadows and of sealed regions, which an access
already issued has passed (R228, R229, R491, R603, R683). -/
def Dev.writeLocal (d : Dev) (e : Env) (w : Who) (n a : Nat) (bs : List Byte) (issued : Bool) : Mv × Dev :=
  if !issued && (d.shadowed a bs.length || d.sealed n a bs.length) then (.fault kPermission 0 0, d) else
  match if issued then .ok else d.reach n a bs.length true with
  | .bad => (.fault kBadEntry 0 0, d)
  | .perm => (.fault kPermission 0 0, d)
  | .access => (.fail .access, d)
  | .ok =>
    if inHbm a then d.lineWrite e w n .here a bs
    else if 0x12000000000 ≤ a && a < 0x12000008000 then
      if (d.bay n).st == .draining || (d.bay n).st == .faulted then (.fail .state, d) else (.done, d.setSpars e a bs)
    else match (homeIsland a).bind d.islAnswer with
      | some .retry => (.wait, d)
      | some s => (.fail s, d)
      | none =>
        let ls := (lineParts a bs.length).filter fun p => p.2.2 = 64
        (.done, ls.foldl (fun d p => d.store (.clean p.1)) (d.poke a bs))

/-- Whether a host-kind access of the Bay may be issued now (R167, R184, R248). -/
inductive HostGate where
  | open_ | absent | master | wait
deriving DecidableEq, Repr

def Dev.hostGate (d : Dev) (n : Nat) : HostGate :=
  if (d.bay n).st == .parked then .absent
  else if !(d.link.bme.contains (n + 1)) then .master
  else if d.link.st != .up || d.islAnswer 326 == some .retry then .wait
  else .open_

/-- No Snoop goes on a request (R314). -/
def Dev.noSnoopBit (d : Dev) (n : Nat) (coh : Bool) : Bool := !coh && d.od (0x2420 + n) 2 == 1 && d.link.noSnoop.contains (n + 1)

/-- An access goes through the proxy cache (R309). -/
def Dev.viaProxy (d : Dev) (coh ats peer : Bool) : Bool := coh && ats && !peer && bit d.link.cxl 1

/-- An answered read is taken from the answers received. -/
def Dev.takeRx (d : Dev) (w : Who) (a : Nat) : Option (List Byte × Status) × Dev :=
  match d.link.rx.find? fun f => f.1 == w && f.2.1 == a with
  | some f => (some f.2.2, { d with link := { d.link with rx := d.link.rx.erase f } })
  | none => (none, d)

/-- A read of host memory within a page (R231, R309). -/
def Dev.readHost (d : Dev) (e : Env) (w : Who) (n s dva a iova len : Nat) (ats coh peer : Bool) : Mv × Dev :=
  match d.takeRx w a with
  | (some (bs, .ok), d) => (.got bs false, d)
  | (some (_, st), d) => (.fail st, d)
  | (none, d) =>
    match d.hostGate n with
    | .absent => (.absent dva, d)
    | .master => (.master dva, d)
    | .wait => (.wait, d)
    | .open_ =>
      if d.viaProxy coh ats peer then d.lineRead e w n (.proxy n) a len
      else if d.link.reqs.any (fun r => r.who == w && r.addr == a && !r.stale && !r.dead) || 4096 ≤ (d.link.reqs.filter fun r => !r.stale).length then (.wait, d)
      else
        let tag := d.link.nextTag
        let d := if coh then d.count 0x2402 9 1 else d
        let r : HostReq := { tag := tag, bay := some n, who := w, addr := a, len := len, time := e.time, space := s, dva := dva }
        let d := { d with link := { d.link with nextTag := tag + 1, reqs := d.link.reqs ++ [r] } }
        (.wait, d.hostSend (.hostRd (n + 1) tag (if ats || peer then a else iova) len (d.noSnoopBit n coh)
          (ats || (peer && d.link.ats.contains (n + 1))) (d.pasidOf n s)))

/-- A write of host memory within a page: bulk data goes relaxed, a mirror or a record (`strong`) goes ordered (R206). -/
def Dev.writeHost (d : Dev) (e : Env) (w : Who) (n s dva a iova : Nat) (bs : List Byte) (ats coh peer strong : Bool) : Mv × Dev :=
  match d.hostGate n with
  | .absent => (.absent dva, d)
  | .master => (.master dva, d)
  | .wait => (.wait, d)
  | .open_ =>
    if d.viaProxy coh ats peer then d.lineWrite e w n (.proxy n) a bs
    else
      let d := if coh then d.count 0x2402 9 1 else d
      let d := match w with
        | .gutter c => d.setGutter c { d.gutter c with hostWrote := true }
        | .course c => d.setCourse c { d.course c with hostWrote := true }
        | .engine g => d.setEngine g { d.engine g with run := (d.engine g).run.map fun (o : EngOp) => ({ o with hostWrote := true } : EngOp) }
        | _ => d
      (.done, d.hostSend (.hostWr (n + 1) (if ats || peer then a else iova) bs
        (!strong && d.link.ro.contains (n + 1)) false (!strong && d.noSnoopBit n coh)
        (ats || (peer && d.link.ats.contains (n + 1))) (d.pasidOf n s)))

/-- The key that a PUT or GET of the Bay carries for a device; 0 where no valid entry names it (R569). -/
def Dev.fabricKey (d : Dev) (n dev : Nat) : Nat :=
  match (List.range 16).find? fun i => bit (d.od (0x2A40 + n) (5 + i)) 12 && bits (d.od (0x2A40 + n) (5 + i)) 11 0 == dev with
  | some i => bits (d.od (0x2A40 + n) (5 + i)) 31 16
  | none => 0

/-- A response for a requester's access at a fabric address is taken. -/
def Dev.takeAck (d : Dev) (w : Who) (a : Nat) : Option (List Byte × Status) × Dev :=
  match d.fabric.acks.find? fun f => f.1 == w && f.2.1 == a with
  | some f => (some f.2.2, { d with fabric := { d.fabric with acks := d.fabric.acks.erase f } })
  | none => (none, d)

/-- A remote request is sent and kept until its final response (R569, R570). -/
def Dev.sendRemote (d : Dev) (e : Env) (w : Who) (n : Nat) (f : Frame) : Dev :=
  let tn := d.fabric.nextTn
  let f := { f with tn := tn }
  let r : Remote := { tn := tn, who := w, bay := n, f := f, sent := e.time }
  ({ d with fabric := { d.fabric with nextTn := tn + 1, remotes := d.fabric.remotes ++ [r] } } : Dev).originate f

/-- A fabric-kind access within one 4 KiB page of the target: NcRead or NcWrite at a cell member's home, else one GET or PUT
(R290, R569). -/
def Dev.remoteAcc (d : Dev) (e : Env) (w : Who) (n a : Nat) (wr : Option (List Byte)) (len : Nat) : Mv × Dev :=
  let dev := a / 2 ^ 48
  match d.slotOf dev with
  | some _ => match wr with
    | none => d.lineRead e w n (.away dev) a len
    | some bs => d.lineWrite e w n (.away dev) a bs
  | none =>
    match d.takeAck w a with
    | (some (bs, .ok), d) => (if wr.isSome then .done else .got bs false, d)
    | (some (_, s), d) => (.fail s, d)
    | (none, d) =>
      if d.fabric.remotes.any fun r => r.who == w && r.f.addr == a && !r.dead then (.wait, d)
      else (.wait, d.sendRemote e w n (match wr with
        | none => { ty := 0x21, vc := 4, dst := dev, key := d.fabricKey n dev, addr := a, payload := leBytes 4 len }
        | some bs => { ty := 0x20, vc := 4, dst := dev, key := d.fabricKey n dev, addr := a, payload := bs }))

/-- A part of an access done before, while another part waited, is taken. -/
def Dev.takeBuf (d : Dev) (w : Who) (s dva len : Nat) : Option (List Byte × Bool) × Dev :=
  match d.trans.buf.find? fun b => b.1 == w && b.2.1 == s && b.2.2.1 == dva && b.2.2.2.1.length == len with
  | some b => (some b.2.2.2, d.setTrans { d.trans with buf := d.trans.buf.erase b })
  | none => (none, d)

def Dev.putBuf (d : Dev) (w : Who) (s dva : Nat) (bs : List Byte) (p : Bool) : Dev :=
  d.setTrans { d.trans with buf := d.trans.buf ++ [(w, s, dva, bs, p)] }

/-- The DVA of a fault found at a local check is that of the access. -/
def Mv.atDva (a : Mv) (dva : Nat) : Mv := match a with | .fault k l _ => .fault k l dva | x => x

/-- A requester's island, or the L2 of its cluster, sends nothing new while it closes or starts, and nothing passes a Lath walker that does
(R615, R620). -/
def Dev.mute (d : Dev) (w : Who) : Bool :=
  d.islAnswer w.island == some .retry || d.islAnswer 330 == some .retry ||
  match w.cluster with | some c => d.islAnswer (256 + c) == some .retry | none => false

/-- An access under a translation has been issued, at a home, on the host link or on the fabric, and is not yet answered (R229, R238). -/
def Dev.inFlight (d : Dev) (w : Who) (n : Nat) (len : Nat) : Tr → Bool
  | .loc a => inHbm a && d.lineAsked w .here a len
  | .host a _ _ _ _ => d.link.reqs.any (fun r => r.who == w && r.addr == a && !r.stale && !r.dead) || d.link.rx.any (fun f => f.1 == w && f.2.1 == a) ||
      d.lineAsked w (.proxy n) a len
  | .fab a => d.fabric.remotes.any (fun r => r.who == w && r.f.addr == a && !r.dead) || d.fabric.acks.any (fun f => f.1 == w && f.2.1 == a) ||
      d.lineAsked w (.away (a / 2 ^ 48)) a len
  | .miss => false

/-- The translation under which an access was issued, while it is not answered. -/
def Dev.issuedTr (d : Dev) (w : Who) (n s dva len : Nat) (write : Bool) : Option Tr :=
  ((d.trans.issued.find? fun i => i.1 == w && i.2.1 == s && i.2.2.1 == dva && i.2.2.2.1 == write).map (·.2.2.2.2)).bind fun t =>
    if d.inFlight w n len t then some t else none

/-- What an access has come to is noted: one that waits for its answer stays issued under its translation. -/
def Dev.noteIssued (d : Dev) (w : Who) (n s dva len : Nat) (write : Bool) (t : Tr) (m : Mv) : Dev :=
  let rest := d.trans.issued.filter fun i => !(i.1 == w && i.2.1 == s && i.2.2.1 == dva && i.2.2.2.1 == write)
  let now := if m == .wait && d.inFlight w n len t then rest ++ [(w, s, dva, write, t)] else rest
  if now = d.trans.issued then d else d.setTrans { d.trans with issued := now }

/-- A read within a page under a translation; `issued`: it has passed the checks of its issue. -/
def Dev.readAt (d : Dev) (e : Env) (w : Who) (n s dva len : Nat) (issued : Bool) (t : Tr) : Mv × Dev :=
  let r : Mv × Dev := match t with
    | .miss => (.wait, d)
    | .loc a => let r := d.readLocal e w n a len issued; (r.1.atDva dva, r.2)
    | .host a iova ats coh peer => d.readHost e w n s dva a iova len ats coh peer
    | .fab a => d.remoteAcc e w n a none len
  (r.1, r.2.noteIssued w n s dva len false t r.1)

/-- A write within a page under a translation. -/
def Dev.writeAt (d : Dev) (e : Env) (w : Who) (n s dva : Nat) (bs : List Byte) (strong issued : Bool) (t : Tr) : Mv × Dev :=
  let r : Mv × Dev := match t with
    | .miss => (.wait, d)
    | .loc a => let r := d.writeLocal e w n a bs issued; (r.1.atDva dva, r.2)
    | .host a iova ats coh peer => d.writeHost e w n s dva a iova bs ats coh peer strong
    | .fab a => d.remoteAcc e w n a (some bs) bs.length
  (r.1, r.2.noteIssued w n s dva bs.length true t r.1)

/-- A read of `len` bytes within a 4 KiB page of Bay `n`'s space `s`. -/
def Dev.readPage (d : Dev) (e : Env) (w : Who) (n s dva len : Nat) : Mv × Dev :=
  match d.takeBuf w s dva len with
  | (some (bs, p), d) => (.got bs p, d)
  | (none, d) =>
    match d.issuedTr w n s dva len false with
    | some t => d.readAt e w n s dva len true t
    | none =>
      if d.mute w then (.wait, d) else
      let r := d.translate w n s dva false
      r.2.readAt e w n s dva len false r.1

/-- A write within a 4 KiB page of Bay `n`'s space `s`. -/
def Dev.writePage (d : Dev) (e : Env) (w : Who) (n s dva : Nat) (bs : List Byte) (strong : Bool) : Mv × Dev :=
  match d.takeBuf w s (dva + 2 ^ 60) 0 with
  | (some _, d) => (.done, d)
  | (none, d) =>
    match d.issuedTr w n s dva bs.length true with
    | some t => d.writeAt e w n s dva bs strong true t
    | none =>
      if d.mute w then (.wait, d) else
      let r := d.translate w n s dva true
      r.2.writeAt e w n s dva bs strong false r.1

/-- A demand read at a DVA meets an uncorrectable error: of HBM, it is a patrol trigger for the line's stack (R642). -/
def Dev.demandErr (d : Dev) (ecc : Bool) (w : Who) (n s dva : Nat) : Dev :=
  if ecc then d else match (d.translate w n s dva false).1 with
    | .loc a => if inHbm a then d.scrubTrigger (Config.hbmStack (a / 64)) else d
    | .miss => d | .host _ _ _ _ _ => d | .fab _ => d

/-- A DVA field has its bits [63:57] zero (R212). -/
def dvaOk (v : Nat) : Bool := v < 2 ^ 57

/-- The parts of a byte range by 4 KiB page: DVA and length (R242). -/
def pageParts (a len : Nat) : List (Nat × Nat) :=
  if len = 0 then [] else
  (List.range ((a + len - 1) / 4096 + 1 - a / 4096)).map fun i =>
    let lo := max a ((a / 4096 + i) * 4096)
    (lo, min (a + len) ((a / 4096 + i) * 4096 + 4096) - lo)

/-- A read of a byte range, page by page, complete when every page has answered; parts read meanwhile are kept (R242). -/
def Dev.readRange (d : Dev) (e : Env) (w : Who) (n s dva len : Nat) : Mv × Dev :=
  let r := (pageParts dva len).foldl (fun (c : List (Nat × Mv) × Dev) p =>
    let x := c.2.readPage e w n s p.1 p.2
    (c.1 ++ [(p.1, x.1)], x.2)) (([], d) : List (Nat × Mv) × Dev)
  match r.1.find? fun c => match c.2 with | .got _ _ => false | _ => true with
  | some c =>
    (c.2, r.1.foldl (fun d x => match x.2 with | .got bs p => d.putBuf w s x.1 bs p | _ => d) r.2)
  | none =>
    (.got (r.1.map fun c => match c.2 with | .got bs _ => bs | _ => []).flatten
      (r.1.any fun c => match c.2 with | .got _ p => p | _ => false), r.2)

/-- A write of a byte range, page by page; pages done stay in force (R242). -/
def Dev.writeRange (d : Dev) (e : Env) (w : Who) (n s dva : Nat) (bs : List Byte) (strong : Bool) : Mv × Dev :=
  let r := (pageParts dva bs.length).foldl (fun (c : List (Nat × Mv) × Dev) p =>
    let x := c.2.writePage e w n s p.1 ((bs.drop (p.1 - dva)).take p.2) strong
    (c.1 ++ [(p.1, x.1)], x.2)) (([], d) : List (Nat × Mv) × Dev)
  match r.1.find? fun c => match c.2 with | .done => false | _ => true with
  | some c => (c.2, r.1.foldl (fun d x => match x.2 with | .done => d.putBuf w s (x.1 + 2 ^ 60) [] false | _ => d) r.2)
  | none => (.done, r.2)

/-- A read from page pieces that all wait for nothing, of a structure; poison reads as a failure INTEGRITY. -/
def Mv.clean (a : Mv) : Mv := match a with | .got _ true => .fail .integrity | x => x

/-- The halts of an engine are those of its suspended operations, which another operation's end does not touch (R262, R264, R440). -/
def Who.isEngine : Who → Bool
  | .engine _ => true
  | .gutter _ => false | .course _ => false | .core _ => false | .queue _ => false | .cmd _ _ => false | .mirror _ => false | .sink _ => false
  | .ckpt _ => false | .job _ _ => false | .walker _ => false | .record _ => false | .sky _ => false | .place _ => false

/-- Everything kept for a requester is forgotten: answers, parts, walks, halts but those of suspended operations (R142, R244, R267). -/
def Dev.forget (d : Dev) (p : Who → Bool) : Dev :=
  let gone (w : Who) : Bool := p w && !w.isEngine
  let q0 (q : HomeReq) : HomeReq := match q.who with | some w => if p w then { q with who := none } else q | none => q
  let d := d.setRidge { d.ridge with
    txns := d.ridge.txns.map fun (t : Txn) => ({ t with req := q0 t.req } : Txn)
    waiting := d.ridge.waiting.map fun (c : Nat × HomeReq) => (c.1, q0 c.2)
    fresh := d.ridge.fresh.filter fun f => !p f.1
    away := d.ridge.away.filter fun f => !p f.1
    l2out := d.ridge.l2out.map fun (r : L2Req) => (match r.who with | some w => if p w then { r with who := none } else r | none => r)
    proxyWait := d.ridge.proxyWait.filter fun q => q.2.self || !(match q.2.who with | some w => p w | none => false) }
  let d := { d with
    link := { d.link with
      rx := d.link.rx.filter fun f => !p f.1
      reqs := d.link.reqs.map fun (r : HostReq) => ({ r with dead := r.dead || p r.who } : HostReq) }
    fabric := { d.fabric with
      acks := d.fabric.acks.filter fun f => !p f.1
      remotes := d.fabric.remotes.map fun (r : Remote) => ({ r with dead := r.dead || p r.who } : Remote) } }
  d.setTrans { d.trans with
    walks := d.trans.walks.filter fun k => !p k.who
    treqs := d.trans.treqs.map fun (t : TReq) => ({ t with dead := t.dead || p t.walk.who } : TReq)
    prgs := d.trans.prgs.map fun (g : Prg) =>
      ({ g with who := g.who.filter fun w => !gone w, ended := g.ended || (g.who.any gone && g.who.all gone) } : Prg)
    halts := d.trans.halts.filter fun h => !gone h.who
    anew := d.trans.anew.filter fun a => !gone a.1
    issued := d.trans.issued.filter fun i => !p i.1
    buf := d.trans.buf.filter fun b => !p b.1 }

/-- The halt is of a suspended operation that its engine no longer holds. -/
def Dev.haltGone (d : Dev) (h : Halt) : Bool :=
  match h.who with
  | .engine g => !((d.engine g).suspended.any fun o => o.bay == h.bay && o.at_ == h.dva)
  | _ => false

/-- The halts of suspended operations that have left their engines go; a page request group that no requester waits for any more has ended
(R264, R267). -/
def Dev.tidyHalts (d : Dev) : Dev :=
  let hs := d.trans.halts.filter fun h => !d.haltGone h
  let waits (g : Prg) (w : Who) : Bool := !w.isEngine ||
    hs.any fun h => h.who == w && h.cause == 2 && h.bay == g.bay && h.space == g.space && h.page == g.page
  d.setTrans { d.trans with
    halts := hs
    prgs := d.trans.prgs.map fun (g : Prg) =>
      if g.who.all (waits g) then g else ({ g with who := g.who.filter (waits g), ended := g.ended || !(g.who.any (waits g)) } : Prg) }

end Sys2Proof.Machine
end

