-- ==== Sys2Proof/Machine/Work.lean ====
section
/-! DEFINITION. Ending work: the completion of a command (R364, R365), the closing and the restart of a job (R655 to R659),
the stop of a Bay's work (R142), and what follows from the class of each fault (R650). -/
namespace Sys2Proof.Machine

/-! ### Queues -/

/-- cq_ctl of a queue: k, the address space, the priority (R341, R373). -/
def Dev.cqCtl (d : Dev) (n q : Nat) : Nat := d.od (0x2680 + n) (0x10 * q + 3)
def Dev.cqK (d : Dev) (n q : Nat) : Nat := bits (d.cqCtl n q) 4 0
def Dev.cqSpace (d : Dev) (n q : Nat) : Nat := bits (d.cqCtl n q) 6 5

/-- The command at a position. -/
def Queue.cmd? (x : Queue) (p : W32) : Option Cmd := x.cmds.find? (·.pos == p)

/-- A field of a command (R350). -/
def Cmd.f (c : Cmd) (off n : Nat) : Nat := fld c.bytes off n
def Cmd.op (c : Cmd) : Nat := c.f 0 1
def Cmd.flag (c : Cmd) (i : Nat) : Bool := bit (c.f 1 1) i
def Cmd.space (c : Cmd) : Nat := c.f 2 1 % 4

/-- The island that a GUTTER, COURSE, ENGINE, SEAT or TRIM command goes to (R28). -/
def Cmd.island (c : Cmd) : Option Nat :=
  match c.op with
  | 0x10 => some (344 + c.f 8 2 / 64)
  | 0x11 => some (344 + c.f 8 2 / 128)
  | 0x21 => some (engineIsland ((engineBase (c.f 8 1)).1 + c.f 9 1))
  | 0x30 => some (296 + c.f 8 2 / 32)
  | 0x31 => some (296 + c.f 8 2 / 32)
  | _ => none

/-- The command waits: its island closes or starts, and answers `RETRY` (R616, R623). -/
def Dev.cmdWaits (d : Dev) (c : Cmd) : Bool :=
  match c.island with
  | some i => (d.island i).st == .starting || (d.island i).st == .closing
  | none => false

/-- The command at a position has started, its own step is to come, its opcode is `op`, and its island takes it. -/
def Dev.startedCmd (d : Dev) (n q : Nat) (p : W32) (op : Nat) : Option Cmd :=
  (d.queue n q).cmds.find? fun c => c.pos == p && c.ph == .started && c.op == op && c.ended.isEmpty && !(d.cmdWaits c)

/-- A command changes. -/
def Dev.modCmd (d : Dev) (n q : Nat) (p : W32) (f : Cmd → Cmd) : Dev :=
  let x := d.queue n q
  d.setQueue n q { x with cmds := x.cmds.map fun c => if c.pos = p then f c else c }

/-- Fr follows Fe; in a strict Bay it stays at the `BEGIN_JOB` of the open job, and at the first one fetched and not
completed, which may come to be fetched again (R345). -/
def Dev.moveFr (d : Dev) (n q : Nat) : Dev :=
  let x := d.queue n q
  let held := if !d.strict n then none else match x.job with
    | some p => some p
    | none => (x.cmds.find? fun c => c.op == 6).map (·.pos)
  d.setQueue n q { x with fr := held.getD x.fe }

/-- A command leaves its queue. -/
def Dev.dropCmd (d : Dev) (n q : Nat) (p : W32) : Dev :=
  let x := d.queue n q
  (d.setQueue n q { x with cmds := x.cmds.filter (·.pos != p) }).moveFr n q

/-- The job open in the queue is open: its commands are inside a job (R361, R529). -/
def Dev.cmdInJob (d : Dev) (n q : Nat) : Bool := (d.queue n q).job.isSome

/-- A completion record joins the records to be written (R364). -/
def Dev.addRecord (d : Dev) (e : Env) (n q : Nat) (c : Cmd) (st : Status) (detail : Nat) (jobAfter halted : Bool) : Dev :=
  let k := d.cqK n q
  let p := c.pos.toNat
  let bs := leBytes 4 (c.f 4 4) ++ leBytes 1 st.code ++ leBytes 1 c.op ++
    leBytes 1 ((p / 2 ^ k + 1) % 2 + 2 * b2n jobAfter + 4 * b2n halted) ++ leBytes 1 0 ++
    leBytes 4 p ++ leBytes 4 (d.queue n q).fr.toNat ++ leBytes 8 e.time ++ leBytes 8 detail
  let r : HeldRec := ⟨n, q, d.cqSpace n q, d.od (0x2680 + n) (0x10 * q + 2) + p % 2 ^ k * 32, bs, c.flag 1, e.time⟩
  { d with link := { d.link with heldRecs := d.link.heldRecs ++ [r] } }

/-- The records of a choice that can be written are, in the order of each Bay; vector 0 follows a record whose command has IRQ set. A
record whose slot does not translate is lost (R364; DESIGN CHOICE, log entry 10). -/
def Dev.writeRecs (d : Dev) (e : Env) (p : HeldRec → Bool) : Dev :=
  let rs := d.link.heldRecs
  let r := rs.foldl (fun (c : List HeldRec × List Nat × Dev) h =>
    if c.2.1.contains h.bay || !p h then (c.1 ++ [h], c.2.1, c.2.2) else
    match c.2.2.writePage e (.record h.bay) h.bay h.space h.addr (patch h.data 12 (leBytes 4 (c.2.2.queue h.bay h.q).fr.toNat)) true with
    | (.done, d) => (c.1, c.2.1, if h.irq then d.raiseBay h.bay 0 else d)
    | (.wait, d) => (c.1 ++ [h], h.bay :: c.2.1, d)
    | (.absent _, d) => (c.1 ++ [h], h.bay :: c.2.1, d)
    | (.master _, d) => (c.1 ++ [h], h.bay :: c.2.1, d)
    | (.fault k l dva, d) => (c.1, c.2.1, (d.noteFault h.bay h.space dva k l true).raiseBay h.bay 5)
    | (.fail _, d) => (c.1, c.2.1, d)
    | (.got _ _, d) => (c.1, c.2.1, d)) (([], [], d) : List HeldRec × List Nat × Dev)
  { r.2.2 with link := { r.2.2.link with heldRecs := r.1 } }

/-- The records that can be written are (R364). -/
def Dev.flushRecs (d : Dev) (e : Env) : Dev := d.writeRecs e fun _ => true

/-- A halt of the queue: cq_error names the command, and the vector tells the Bay (R366). -/
def Dev.haltQueue (d : Dev) (n q : Nat) (vec : Nat) : Dev :=
  (d.setQueue n q { d.queue n q with st := .halted }).raiseBay n vec

/-- cq_error is written (R343, R346, R365). -/
def Dev.cqError (d : Dev) (n q pos st code : Nat) : Dev :=
  d.setQueue n q { d.queue n q with error := pos + 2 ^ 32 * st + 2 ^ 40 * code }

/-- The status is one of `FAULT`, `GONE`, `TIMEOUT`, `INTEGRITY` (R365). -/
def grave : Status → Bool
  | .fault => true | .gone => true | .timeout => true | .integrity => true
  | .ok => false | .state => false | .range => false | .access => false | .format => false | .overrun => false
  | .retry => false | .quota => false

/-- The journal's job closes without its signed record: JOB_ABANDON (R528, R530, R549). A job whose JOB_CLOSE is signed keeps
that record. -/
def Dev.abandon (d : Dev) (e : Env) (n reason : Nat) (st sev : Nat) : Dev :=
  let j := d.jour n
  if j.st == .none then d else
  let d := if j.st == .signed then d else
    (d.emitRec e n 0xA 0xFFFFFFFF true true (leBytes 1 st ++ leBytes 1 sev ++ leBytes 2 reason ++ leBytes 4 j.restarts ++ zeros 8)).fixRecs
  (d.setJour n { d.jour n with st := .none, closing := none, closeSeq := none, draining := false }).unseal n

/-- The job of a queue closes: the queue carries none (R345, R361). -/
def Dev.clearJob (d : Dev) (n q : Nat) : Dev := (d.setQueue n q { d.queue n q with job := none }).moveFr n q

/-- A job closed as one that does not reach `END_JOB` (R365): in a strict Bay with JOB_ABANDON, reason 2. -/
def Dev.closeJob (d : Dev) (e : Env) (n q : Nat) (st : Status) (sev : Nat) : Dev :=
  (if d.strict n then (d.abandon e n 2 st.code sev).forget fun w => match w with | .job m _ => m == n | _ => false else d).clearJob n q

/-- A command that ends with a status other than `OK` is reported: cq_error, cmds_failed, its record, and the halt (R364, R365). -/
def Dev.failCmd (d : Dev) (e : Env) (n q : Nat) (c : Cmd) (st : Status) (detail : Nat) (halt : Bool) : Dev :=
  let d := ((d.dropCmd n q c.pos).count (0x2680 + n) 0x7A 1).cqError n q c.pos.toNat st.code c.op
  let d := d.addRecord e n q c st detail (d.cmdInJob n q) halt
  if halt then d.haltQueue n q 4 else d

/-- Whose fault of class JOB a failing command is: its own by R365, one that its source records, or one recorded already. -/
inductive Blame where
  | own | by_ (f : Flt) | noted
deriving DecidableEq, Repr

/-- A RUN that completes is counted (R450). -/
def Dev.runDone (d : Dev) (n : Nat) (c : Cmd) : Dev := if c.op = 0x20 then d.count (0x2810 + n) 5 1 else d

/-- A command completes with a status (R353, R364, R365). Inside the open job of a strict Bay a fault of class JOB restarts the
job (R655), or closes it at its limit (R657); otherwise the command is reported, and a job is closed. -/
def Dev.endCmd (d : Dev) (e : Env) (n q : Nat) (p : W32) (st : Status) (detail : Nat) (b : Blame) : Dev :=
  match (d.queue n q).cmd? p with
  | none => d
  | some c =>
    if st = .ok then
      let d := (d.dropCmd n q p).runDone n c
      if c.flag 0 then d.addRecord e n q c .ok detail (d.cmdInJob n q) false else d
    else
      let d := if b = .own && !(grave st) then d else d.unsign e n
      -- a job that is SIGNED counts as none (R529, R674)
      let inJob := d.cmdInJob n q && !(d.strict n && (d.jour n).st == .signed)
      let flt := match b with
        | .by_ f => some { f with pos := p.toNat, q := q, status := st }
        | .own => if inJob && grave st then
            some { status := st, source := 0x10, island := 327, object := q, pos := p.toNat, q := q : Flt } else none
        | .noted => none
      let d := match flt with | some f => d.fault .job n f | none => d
      if inJob && d.strict n && (grave st || flt.isSome) then
        -- reported as the restart, or the closure at its limit, takes it on the same tick (R365, R655, R657)
        d.modCmd n q p fun c => { c with ended := [st] }
      else if inJob then
        d.closeJob e n q st (if flt.isSome || b = .noted then 3 else 0) |>.runDone n c |>.failCmd e n q c st detail true
      else (d.runDone n c).failCmd e n q c st detail (c.flag 3)

/-- A command not legal in the present state completes with `STATE` under R17: a rejection too (R367). -/
def Dev.stateCmd (d : Dev) (e : Env) (n q : Nat) (p : W32) (obj : Nat) : Dev :=
  (d.reject e n 1 .state obj p.toNat).endCmd e n q p .state 0 .own

/-! ### Stopping work (R142, R446) -/

/-- A Course's or a chain's loads are released (R403). -/
def Dev.dropLoads (d : Dev) (c : Nat) : Dev := d.setCourse c { d.course c with loads := [] }

/-- The stall time of a Course runs on under its present cause up to a tick, and another cause takes over (R408). -/
def Course.stallTo (x : Course) (t cause : Nat) : Course :=
  { x with
    stalls := if x.stall = 0 then x.stalls else smSet 0 x.stalls x.stall (smGet 0 x.stalls x.stall + (t - x.since))
    stall := cause
    since := t }

/-- A Course that is IDLE: its loads released, its latch and its reads empty (R403, R409). -/
def Course.rest (x : Course) : Course :=
  { x with st := .idle, loads := [], latched := false, stage := none, admitted := false, hdr := [], entries := [], sent := [], hostWrote := false, again := [], trigs := 0 }

/-- The requester works for Bay `n` and for a queue that `sel` names. -/
def Dev.worksFor (d : Dev) (n : Nat) (sel : Nat → Bool) (w : Who) : Bool :=
  match w with
  | .gutter c => (d.gutter c).bay == n && sel (d.gutter c).q && (d.gutter c).st != .idle
  | .course c => (d.course c).bay == n && sel (d.course c).q && (d.course c).st != .idle
  | .core c => d.runs.any fun r => r.bay == n && sel r.q && some r.id == (d.core c).run
  | .engine g => match (d.engine g).run with | some o => o.bay == n && sel o.q | none => false
  | .cmd k _ => k / 8 == n && sel (k % 8)
  | .queue k => k / 8 == n && sel (k % 8)
  | .job m _ => m == n
  | .mirror _ => false | .sink _ => false | .ckpt _ => false | .walker _ => false | .record _ => false | .sky _ => false | .place _ => false

/-- What a discarded command has had prepared is undone: its Courses are IDLE, and its loads are released (R403; log entry 64). -/
def Dev.unprepare (d : Dev) (t n q : Nat) (p : W32) : Dev :=
  let mine (c : Nat × Course) : Bool := c.2.st == .prepared && c.2.bay == n && c.2.q == q && c.2.p == p
  let ours (c : Chain) : Bool := c.bay == n && c.q == q && c.p == p
  let d := d.forget (· == .cmd (8 * n + q) p.toNat)
  if !(d.courses.any mine) && !(d.prepared.any ours) then d else
  { d with
    courses := d.courses.map fun c => if mine c then (c.1, (c.2.stallTo t 0).rest) else c
    prepared := d.prepared.filter fun c => !ours c
    released := true }

/-- Every operation of Bay `n` started by the queues that `sel` names, or prepared for them, ends at its next boundary, without completing its
command: Gutters, Courses, cores, engines, chains and flash tasks (R142, R446, R655). A Thatch seat or trim goes on. -/
def Dev.stopOps (d : Dev) (t n : Nat) (sel : Nat → Bool) : Dev :=
  let d := d.forget (d.worksFor n sel)
  let mine (b q : Nat) : Bool := b == n && sel q
  let ch := d.chains.filter fun c => mine c.bay c.q
  -- engines that a chain reserved return to FREE
  let resv := (ch.map fun c => (c.stages.filter (·.kind == 3)).map fun s => s.obj).flatten
  let gone := d.runs.filter fun r => mine r.bay r.q
  let loaded := (d.courses.any fun c => mine c.2.bay c.2.q && c.2.st != .idle && !c.2.loads.isEmpty) ||
    ((d.chains ++ d.prepared).any fun c => mine c.bay c.q && !c.loads.isEmpty)
  ({ d with
    gutters := (d.gutters.map fun c => if mine c.2.bay c.2.q && c.2.st != .idle then (c.1, { c.2 with st := .idle }) else c).filter
      fun c => c.2 != {}
    courses := (d.courses.map fun c => if mine c.2.bay c.2.q && c.2.st != .idle then (c.1, (c.2.stallTo t 0).rest) else c).filter
      fun c => c.2 != {}
    chains := d.chains.filter fun c => !mine c.bay c.q
    prepared := d.prepared.filter fun c => !mine c.bay c.q
    released := d.released || loaded
    runs := d.runs.filter fun r => !mine r.bay r.q
    cores := (d.cores.map fun c =>
        if (gone.any fun r => some r.id == c.2.run) then (c.1, { c.2 with st := .idle, run := none, loops := [], pc := 0, atBarrier := false, part := 0 })
        else c).filter fun c => c.2 != {}
    engines := (d.engines.map fun c => (c.1, { c.2 with
        queue := c.2.queue.filter fun o => !mine o.bay o.q
        suspended := c.2.suspended.filter fun o => !mine o.bay o.q
        run := match c.2.run with | some o => if mine o.bay o.q then none else some o | none => none
        reserved := c.2.reserved && !(resv.contains c.1) })).filter fun c => c.2 != {}
    tasks := d.tasks.filter fun t => !mine t.bay t.q } : Dev).tidyHalts

/-- A seat or trim of the Bay and queue that `f` names goes on without its command. -/
def Arr.orphan (x : Arr) (f : Nat → Nat → Bool) : Arr :=
  { x with
    seatCmd := match x.seatCmd with | some c => if f x.bay c.1 then none else some c | none => none
    pairs := x.pairs.map fun (p : Nat × Pair) => (p.1, match p.2.cmd with
      | some c => if f x.bay c.1 then { p.2 with cmd := none } else p.2
      | none => p.2) }

/-- Seats and trims of the Bay and queue that `f` names go on without their commands. -/
def Dev.dropSeats (d : Dev) (f : Nat → Nat → Bool) : Dev :=
  { d with arrays := d.arrays.map fun (a : Nat × Arr) => (a.1, a.2.orphan f) }

/-- The commands of Bay `n` that are fetched and not completed end with `STATE`, each with a record; the unfetched ones are
discarded (R142, R368). -/
def Dev.endCmds (d : Dev) (e : Env) (n : Nat) : Dev :=
  (List.range 8).foldl (fun d q =>
    let x := d.queue n q
    let d := x.cmds.foldl (fun d c => ((d.dropCmd n q c.pos).runDone n c).addRecord e n q c .state 0 false false) d
    let x := d.queue n q
    d.setQueue n q { x with fe := x.p, fr := x.p, walk := false }) d

/-- Bay `n`'s work stops (R142, R147, R244, R368): operations end, commands complete with `STATE`, walks are discarded, pending
invalidations complete, page request groups are left to their responses. -/
def Dev.stopWork (d : Dev) (e : Env) (n : Nat) : Dev :=
  let d := (d.stopOps e.time n fun _ => true).endCmds e n
  let inv := (d.trans.invals.filter fun i => i.bay == n && !i.ats).length
  let d := d.setTrans { d.trans with
    walks := d.trans.walks.filter (·.bay != n)
    treqs := d.trans.treqs.map fun (t : TReq) => ({ t with dead := t.dead || t.walk.bay == n } : TReq)
    invals := d.trans.invals.filter fun i => i.bay != n || i.ats
    halts := d.trans.halts.filter (·.bay != n)
    prgs := d.trans.prgs.map fun (g : Prg) => (if g.bay = n then { g with ended := true, who := [] } else g) }
  let d := if inv = 0 then d else d.count (0x2310 + n) 0xB inv
  -- SEAT and TRIM run to their end, but their commands have completed
  { d.dropSeats fun b _ => b == n with
    ckpts := smDel d.ckpts n }

/-! ### Bay states -/

/-- A Bay enters a state; PF vector 3 tells of it (R131, R175). -/
def Dev.toState (d : Dev) (n : Nat) (st : BaySt) : Dev := (d.setBay n { d.bay n with st := st }).raisePf 3

/-- The split-read shadows of a function empty (R205). -/
def Dev.dropShadow (d : Dev) (fn : Nat) : Dev := { d with shadows := d.shadows.filter fun c => !(c.1 == fn || (17 ≤ c.1 && (c.1 - 17) % 32 == fn)) }

/-- The proxy cache evicts every line that a Bay allocated (R317). -/
def Dev.evictProxy (d : Dev) (n : Nat) : Dev :=
  (d.ridge.proxy.filter fun c => c.2.bay == n && !c.2.wb).foldl (fun d c => d.proxyEvict c.1) d

/-! ### The scrub of the lines that leave a Bay (R136, R295) -/

/-- The lines homed here that `inH` names and that an entry or a summary byte shows. -/
def Dev.shownLines (d : Dev) (e : Env) (inH : Nat → Bool) : List Nat :=
  (d.ridge.dir.filterMap fun c => if homed c.1 && inH c.1 && c.2.isSome then some c.1 else none) ++
  (e.mem.filterMap fun c =>
    let l := c.1 - 0x5E80000000
    if 0x5E80000000 ≤ c.1 && homed l && inH l && (d.dir l).isNone then some l else none)

/-- A line is scrubbed: the L2s drop it, and the host and the members that may hold it are sent SnpInv, whose data is discarded: what they hold
counts as clean (R295). -/
def Dev.scrubLine (d : Dev) (e : Env) (l : Nat) : Dev :=
  let v := (d.byte e (sumAddr l)).toNat
  let ag := (match d.dir l with | some x => x.holders | none => d.covered v).filter (16 ≤ ·)
  let d := d.l2Drop (List.range 16) l
  if ag.isEmpty then d else
  let d := match d.dir l with
    | some x => d.setDir l (some { x with kind := .s, sharers := ag })
    | none => d.poke (sumAddr l) [BitVec.ofNat 8 (v / 64 * 64 + 1)]
  d.homeArrive e l { op := .ncWrite, a := scrubIsl, mask := 2 ^ 64 - 1, data := zeros 64 }

/-- The scrub of some granules begins at their homes; the write-backs of the L2s that wait there are dropped with the lines (R136, R295). -/
def Dev.scrubStart (d : Dev) (e : Env) (rs : List Rng) : Dev :=
  let inH (l : Nat) : Bool := rs.any fun r => r.has (granule (l * 64))
  let d := d.setRidge { d.ridge with waiting := d.ridge.waiting.filter fun w => !(w.2.self && inH w.1) }
  (d.shownLines e inH).foldl (fun d l => d.scrubLine e l) d

/-- A Bay enters `DRAINING` (R132, R142, R205, R317, R368, R549): its work stops, an open job closes with JOB_ABANDON, reason 1,
carrying the status and severity of the fault that stopped it, if one did. -/
def Dev.drain (d : Dev) (e : Env) (n : Nat) (toFree : Bool) (st sev : Nat) : Dev :=
  let parked := (d.bay n).st == .parked
  let d := d.stopWork e n
  let d := (List.range 8).foldl (fun d q =>
    let x := d.queue n q
    if x.job.isSome then d.setQueue n q { x with job := none } else d) d
  let d := if d.strict n then d.abandon e n 1 st sev else d
  let d := (((d.toState n .draining).dropShadow (n + 1)).evictProxy n).dropRegions n
  let b := d.bay n
  let d := d.setBay n { b with toFree := toFree, scrubbing := false, drainAt := e.time, toParked := parked && !toFree, hold := if toFree then none else b.hold }
  if toFree then d.scrubStart e [b.held.hbm] else d

/-- A fault of class BAY or DEVICE moves a Bay to `FAULTED` and stops its work (R147, R668). -/
def Dev.toFaulted (d : Dev) (e : Env) (n : Nat) : Dev :=
  let b := d.bay n
  if b.st.live || (b.st == .draining && !b.toFree) then
    let d := (d.stopWork e n).toState n .faulted
    d.setBay n { d.bay n with toParked := false, hold := none }
  else d

/-! ### Whole-job restart (R655 to R658) -/

/-- The RESTART record of the open attempt (R528, R530): the attempt number and the counts rise after it. -/
def Dev.restartRec (d : Dev) (e : Env) (n sev : Nat) (f : Flt) (seq : Nat) : Dev :=
  let j := d.jour n
  let d := (d.emitRec e n 8 f.pos true false (leBytes 1 sev ++ leBytes 1 f.status.code ++ zeros 2 ++ leBytes 4 j.attempt ++
    leBytes 4 f.pos ++ zeros 4 ++ leBytes 8 seq))
  (d.setJour n { d.jour n with
    st := .restarting
    attempt := j.attempt + 1
    restarts := j.restarts + 1
    closing := none
    closeSeq := none }).count (0x2C10 + n) 0xE 1

/-- Every Spar of the Bay is SET to its value as attempt 0 began (R655 step 4). -/
def Dev.resetSpars (d : Dev) (e : Env) (n : Nat) : Dev :=
  let r := (d.bay n).held.spar
  (List.range r.count).foldl (fun d i => d.sparSet e (r.base + i) (smGet 0 (d.jour n).spars (r.base + i)).toNat) d

/-- The commands of a queue that have ended with a fault of class JOB are reported; the queue goes on (R364, R365). -/
def Dev.reportEnded (d : Dev) (e : Env) (n q : Nat) : Dev :=
  (d.queue n q).cmds.foldl (fun d c => match c.ended with | st :: _ => (d.runDone n c).failCmd e n q c st 0 false | [] => d) d

/-- A fault of class JOB meets the open job of a strict Bay: the job restarts from its `BEGIN_JOB`, or at its limit closes; the failing
command is reported in both cases (R365, R655, R657). `seq`: the fault record. -/
def Dev.restartJob (d : Dev) (e : Env) (n : Nat) (f : Flt) (seq : Nat) : Dev :=
  let j := d.jour n
  let q := j.q
  if d.od (0x2D10 + n) 1 < j.restarts + 1 then
    let d := d.event e n 6
    match ((d.queue n q).cmds.find? fun c => !c.ended.isEmpty) with
    | some c => (((d.closeJob e n q f.status 3).runDone n c).failCmd e n q c (c.ended.headD f.status) 0 true).reportEnded e n q
    | none => ((d.closeJob e n q f.status 3).cqError n q f.pos f.status.code 0).haltQueue n q 4
  else
    let d := (d.restartRec e n 3 f seq).reportEnded e n q
    let d := d.stopOps e.time n fun x => x == q
    let d := d.forget fun w => match w with | .job m _ => m == n | _ => false
    -- invalidations and seats run on, without their commands
    let d := d.setTrans { d.trans with invals := d.trans.invals.map fun (i : Inval) =>
      (if i.bay = n && (i.cmd.any fun c => c.1 == q) then { i with cmd := none } else i : Inval) }
    let d := d.dropSeats fun b k => b == n && k == q
    (d.setQueue n q { d.queue n q with cmds := [] }).setJour n { d.jour n with draining := true }

/-! ### What follows from each class (R650, R668) -/

/-- A fault of class JOB (R650, R655, R658): recorded, counted, Bay vector 4; a strict Bay's open job restarts, once on a tick.
`done`: the Bays whose job has restarted on this tick. -/
def Dev.jobFault (d : Dev) (e : Env) (done : List Nat) (n : Nat) (f : Flt) : List Nat × Dev :=
  let d := (((d.logRec e (d.fltRec .job n f)).count (0x2D10 + n) 7 1).raiseBay n 4).unsign e n
  let j := d.jour n
  if d.strict n && (d.bay n).st.live && !(done.contains n) &&
     (j.st == .open_ || (j.st == .restarting && f.pos != 0xFFFFFFFF && (d.queue n j.q).cmds.any fun c => !c.ended.isEmpty)) then
    (n :: done, d.restartJob e n f (d.tickFault e (FRec.restarts n 3)))
  else (done, d)

/-- A fault of class BAY (R147, R650). -/
def Dev.bayFault (d : Dev) (e : Env) (n : Nat) (f : Flt) : Dev :=
  let d := ((d.logRec e (d.fltRec .bay n f)).count (0x2100 + n) 0x31 1).raiseBay n 4
  let b := d.bay n
  let d := if (d.jour n).st == .open_ && (b.st.live || (b.st == .draining && !b.toFree)) then d.restartRec e n 4 f (d.tickFault e (FRec.restarts n 4)) else d
  d.toFaulted e n

/-- A fault of class DEVICE (R650, R668). -/
def Dev.deviceFault (d : Dev) (e : Env) (f : Flt) : Dev :=
  let d := ((d.logRec e (d.fltRec .device 0xFF f))).raisePf 1
  let seq := d.tickFault e (FRec.restarts 0 5)
  bays16.foldl (fun d n =>
    let d := if (d.jour n).st == .open_ then d.restartRec e n 5 f seq else d
    d.toFaulted e n) (d.setOd 0x1001 0 (d.od 0x1001 0 / 128 * 128 % 256 + 128))

/-- A fault stands before another: lower island, or the same and a lower object (R654). -/
def faultBefore (a b : FaultClass × Nat × Flt) : Bool :=
  Nat.blt a.2.2.island b.2.2.island || (a.2.2.island == b.2.2.island && Nat.blt a.2.2.object b.2.2.object)

/-- A fault put in its place, after those that do not stand behind it. -/
def faultIns (x : FaultClass × Nat × Flt) : List (FaultClass × Nat × Flt) → List (FaultClass × Nat × Flt)
  | [] => [x]
  | y :: r => if faultBefore x y then x :: y :: r else y :: faultIns x r

/-- The faults of a tick in the order of R654: ascending island, then object. -/
def faultOrder (l : List (FaultClass × Nat × Flt)) : List (FaultClass × Nat × Flt) := l.foldl (fun r x => faultIns x r) []

/-- An owner loss of Bay n waits on the tick: it takes effect before a fault of the Bay (R670). -/
def Dev.lossWaits (d : Dev) (e : Env) (n : Nat) : Bool := n < 16 && e.tick.any fun c => Instr.loses n c && !(d.ahead.contains c)

/-- The faults detected by the command take effect (R650), but for those of a Bay whose owner loss waits on the tick (R670). -/
def Dev.settleFaults (d : Dev) (e : Env) : Dev :=
  let fs := faultOrder (d.faults.filter fun x => !(d.lossWaits e x.2.1))
  if fs.isEmpty then d else
  (fs.foldl (fun (c : List Nat × Dev) x =>
    match x.1 with
    | .corrected => (c.1, c.2.corrected)
    | .retried => (c.1, c.2.retried e x.2.1 x.2.2)
    | .job => if x.2.1 < 16 then c.2.jobFault e c.1 x.2.1 x.2.2 else (c.1, c.2.logRec e (c.2.fltRec .job 0xFF x.2.2))
    | .bay => (c.1, c.2.bayFault e x.2.1 x.2.2)
    | .device => (c.1, c.2.deviceFault e x.2.2)) (([], { d with faults := d.faults.filter fun x => d.lossWaits e x.2.1 }) : List Nat × Dev)).2.nameRestarts e

/-- The mirror writes of a choice that are due are issued (R329, R330). -/
def Dev.writeMirrors (d : Dev) (e : Env) (p : Nat × Spar → Bool) : Dev :=
  (d.spars.filter fun c => c.2.pend && p c).foldl (fun d c =>
    let s := c.1
    let x := d.spar s
    if !x.mirror then d.setSpar s { x with pend := false } else
    match d.sparBay s with
    | none => d.setSpar s { x with pend := false }
    | some n =>
      match d.writePage e (.mirror s) n 0 (d.od (0x2910 + n) 1 + 8 * d.sparIdx n s) (leBytes 8 x.value.toNat) true with
      | (.done, d) => (d.setSpar s { x with pend := false }).count (0x2910 + n) 7 1
      | (.wait, d) => d
      | (.absent _, d) => d
      | (.master _, d) => d
      | (.got _ _, d) => d
      | (.fault k l dva, d) => (((d.noteFault n 0 dva k l true).setSpar s { x with pend := false, mirror := false }).count (0x2910 + n) 8 1).raiseBay n 5
      | (.fail _, d) => ((d.setSpar s { x with pend := false, mirror := false }).count (0x2910 + n) 8 1).raiseBay n 5) d

/-- The mirror writes that are due are issued (R329, R330). -/
def Dev.flushMirrors (d : Dev) (e : Env) : Dev := d.writeMirrors e fun _ => true

end Sys2Proof.Machine
end

