-- ==== Sys2Proof/Machine/Ends.lean ====
section
/-! DEFINITION. Chains and their rings (R414 to R417, R442); how an operation of a Gutter, Course, core or engine ends (R385,
R387, R409, R434, R439); halts and resumptions (R248 to R267). -/
namespace Sys2Proof.Machine

/-! ### Rings (R442) -/

def Ring.depth (r : Ring) : Nat := 2 ^ r.log
def Ring.fill (r : Ring) : Nat := r.put - r.rel
def Ring.room (r : Ring) : Nat := r.depth - r.fill

/-- The LPA of a byte of the stream that runs through a ring. -/
def Ring.lpa (r : Ring) (off : Nat) : Nat := (r.pages[off % r.depth / 4096]?).getD 0 + off % 4096

/-- The lines of a byte string. -/
def lines64 (bs : List Byte) : List (List Byte) := (List.range (bs.length / 64)).map fun i => (bs.drop (64 * i)).take 64

/-- Bytes padded with zeros to whole lines. -/
def padLine (bs : List Byte) : List Byte := bs ++ zeros ((64 - bs.length % 64) % 64)

/-- `n` rounded up to whole lines. -/
def pad64 (n : Nat) : Nat := cdiv n 64 * 64

/-- The Loft islands that hold a ring serve it: `RETRY` waits, `GONE` ends (R615, R620). -/
def Dev.ringGate (d : Dev) (r : Ring) : Option Status :=
  r.pages.findSome? fun a => (homeIsland a).bind d.islAnswer

/-- Whole lines are placed in a ring from its put position on; the caller keeps to its room. -/
def Dev.ringWrite (d : Dev) (r : Ring) (bs : List Byte) : Dev :=
  ((lines64 bs).zipIdx).foldl (fun d c => (d.poke (r.lpa (r.put + 64 * c.2)) c.1).store (.clean (r.lpa (r.put + 64 * c.2) / 64))) d

/-- Bytes of a ring's stream, with their poison (R427). -/
def Dev.ringRead (d : Dev) (e : Env) (r : Ring) (off n : Nat) : List Byte × Bool :=
  ((List.range n).map fun i => d.byte e (r.lpa (off + i)),
   (List.range (cdiv n 64)).any fun i => d.poisoned e (r.lpa (off + 64 * i) / 64))

/-! ### Chains -/

def Dev.chainOf (d : Dev) (n q : Nat) (p : W32) : Option Chain := d.chains.find? fun c => c.bay == n && c.q == q && c.p == p

def Dev.modChain (d : Dev) (n q : Nat) (p : W32) (f : Chain → Chain) : Dev :=
  { d with chains := d.chains.map fun c => if c.bay == n && c.q == q && c.p == p then f c else c }

def Dev.modStage (d : Dev) (n q : Nat) (p : W32) (i : Nat) (f : Stage → Stage) : Dev :=
  d.modChain n q p fun c => { c with stages := c.stages.zipIdx.map fun s => if s.2 = i then f s.1 else s.1 }

def Dev.stageOf (d : Dev) (n q : Nat) (p : W32) (i : Nat) : Option Stage := (d.chainOf n q p).bind fun c => c.stages[i]?

/-- The input ring of a stage: its predecessor's output ring (R414). -/
def Chain.inRing (c : Chain) (i : Nat) : Option Ring := if i = 0 then none else (c.stages[i - 1]?).bind (·.ring)

/-- A stage has all the input it will ever get: its predecessor has ended and its input ring is empty (R417). -/
def Chain.dry (c : Chain) (i : Nat) : Bool :=
  i != 0 && (match c.stages[i - 1]? with | some s => s.ended && s.outb.isEmpty | none => true) &&
  (match c.inRing i with | some r => r.fill == 0 | none => true)

/-- The Course at a stage misses, once for each time its partner has to wait, while it runs or is HALTED and its pass has not ended
(R408, R421). -/
def Dev.stageMiss (d : Dev) (n q : Nat) (p : W32) (i : Nat) (again : Bool) : Dev :=
  match d.stageOf n q p i with
  | some s =>
    let x := d.course s.obj
    if s.kind = 1 && !again && (x.st == .running || x.st == .halted) && Nat.blt x.entry (fld x.hdr 0 4) then d.setCourse s.obj { x with misses := x.misses + 1 } else d
  | none => d

/-- The stage finds its input ring short of what it asks for, or no longer so: a miss of a first in-Course (R408). -/
def Dev.stageShort (d : Dev) (n q : Nat) (p : W32) (i : Nat) (now : Bool) : Dev :=
  let was := ((d.stageOf n q p i).map (·.short)).getD false
  let d := if was == now then d else d.modStage n q p i fun s => { s with short := now }
  if now && i = 1 then d.stageMiss n q p 0 was else d

/-- The stage finds its output ring full, or no longer so: a miss of a last out-Course (R408). -/
def Dev.stageFull (d : Dev) (n q : Nat) (p : W32) (i : Nat) (now : Bool) : Dev :=
  let was := ((d.stageOf n q p i).map (·.full)).getD false
  let d := if was == now then d else d.modStage n q p i fun s => { s with full := now }
  if now then d.stageMiss n q p (i + 1) was else d

/-- What a stage has made goes into its output ring, as far as there is room, in whole lines (R442). -/
def Dev.stagePut (d : Dev) (n q : Nat) (p : W32) (i : Nat) : Dev :=
  match d.stageOf n q p i with
  | none => d
  | some s => match s.ring with
    | none => d
    | some r =>
      if (d.ringGate r).isSome then d else
      let k := min (s.outb.length / 64) (r.room / 64) * 64
      ((d.ringWrite r (s.outb.take k)).modStage n q p i fun s =>
        { s with outb := s.outb.drop k, ring := some { r with put := r.put + k } }).stageFull n q p i (64 ≤ s.outb.length - k)

/-- The ring between two stages changes: it is kept with the stage that fills it. -/
def Dev.setInRing (d : Dev) (n q : Nat) (p : W32) (i : Nat) (r : Ring) : Dev := d.modStage n q p (i - 1) fun s => { s with ring := some r }

/-- Poisoned bytes in a ring: the consumer's Bay has a fault of class JOB (R299, R427). -/
def Dev.ringPoison (d : Dev) (n : Nat) (r : Ring) : Dev :=
  d.fault .job n { status := .integrity, source := 7, island := (homeIsland (r.lpa r.rel)).getD 288, addr := r.lpa r.rel }

/-- Whole lines are taken from a stage's input ring, at most `k` of them: the bytes, and whether one was poisoned. -/
def Dev.stageTake (d : Dev) (e : Env) (n q : Nat) (p : W32) (i k : Nat) : List Byte × Bool × Dev :=
  let d := d.stagePut n q p (i - 1)
  match (d.chainOf n q p).bind (·.inRing i) with
  | none => ([], false, d)
  | some r =>
    if (d.ringGate r).isSome then ([], false, d) else
    let m := min k (r.fill / 64) * 64
    let x := d.ringRead e r r.rel m
    let d := ((d.setInRing n q p i { r with rel := r.rel + m }).stageShort n q p i (m < 64 * k)).stagePut n q p (i - 1)
    (x.1, x.2, if x.2 then d.ringPoison n r else d)

/-! ### Ends -/

/-- A Course's stall time runs on under the present cause, and another cause takes over (R408). -/
def Dev.courseStall (d : Dev) (e : Env) (c cause : Nat) : Dev :=
  d.setCourse c ((d.course c).stallTo e.time cause)

/-- A Course enters IDLE: its loads are released, its latch empties (R403, R409). -/
def Dev.courseIdle (d : Dev) (e : Env) (c : Nat) : Dev :=
  let d := d.courseStall e c 0
  let d := if (d.course c).loads.isEmpty then d else { d with released := true }
  d.setCourse c (d.course c).rest

/-- The GUTTER_CRC records that a channel's end emits in a strict Bay (R530, R533). -/
def Dev.crcRecs (d : Dev) (e : Env) (c : Nat) : Dev :=
  let g := d.gutter c
  if g.crcs.isEmpty || !d.strict g.bay then d else
  let d := (List.range (cdiv g.crcs.length 64)).foldl (fun d i =>
    let es := (g.crcs.drop (64 * i)).take 64
    let body := leBytes 2 c ++ leBytes 2 es.length ++ leBytes 4 g.p.toNat ++
      (es.map fun x => leBytes 8 x.1 ++ leBytes 8 x.2.1 ++ leBytes 8 x.2.2).flatten
    if d.roomFor g.bay (96 + body.length) || d.heldBytes g.bay = 0 then d.emitRec e g.bay 5 g.p.toNat (d.inJob g.bay) false body
    else (d.setJour g.bay { d.jour g.bay with lost := (d.jour g.bay).lost + b2n (d.inJob g.bay) }).count (0x2C10 + g.bay) 8 1) d
  d.setGutter c { d.gutter c with crcs := [] }

/-- The holding buffer takes the GUTTER_CRC records of a channel, with `k` entries more (R541). -/
def Dev.crcRoom (d : Dev) (c k : Nat) : Bool :=
  let g := d.gutter c
  let m := g.crcs.length + k
  m = 0 || !d.strict g.bay || d.heldBytes g.bay = 0 || d.roomFor g.bay (104 * cdiv m 64 + 24 * m)

/-- The requester works for the command at a position. -/
def Dev.forCmd (d : Dev) (n q : Nat) (p : W32) (w : Who) : Bool :=
  match w with
  | .gutter c => (d.gutter c).bay == n && (d.gutter c).q == q && (d.gutter c).p == p && (d.gutter c).st != .idle
  | .course c => (d.course c).bay == n && (d.course c).q == q && (d.course c).p == p && (d.course c).st != .idle
  | .core c => d.runs.any fun r => r.bay == n && r.q == q && r.p == p && some r.id == (d.core c).run
  | .engine g => match (d.engine g).run with | some o => o.bay == n && o.q == q && o.p == p | none => false
  | .cmd k x => k == 8 * n + q && x == p.toNat
  | .queue _ => false | .job _ _ => false | .mirror _ => false | .sink _ => false | .ckpt _ => false | .walker _ => false
  | .record _ => false | .sky _ => false | .place _ => false

/-- Cores that a predicate names return to IDLE. -/
def Dev.idleCores (d : Dev) (f : Core → Bool) : Dev :=
  { d with cores := (d.cores.map fun c => if f c.2 then
      (c.1, { c.2 with st := .idle, run := none, loops := [], pc := 0, atBarrier := false, part := 0 }) else c).filter fun c => c.2 != {} }

/-- Every operation of one command ends at its next boundary, without completing the command (R360, R434). -/
def Dev.stopCmd (d : Dev) (e : Env) (n q : Nat) (p : W32) : Dev :=
  let d := d.forget (d.forCmd n q p)
  let gs := (d.gutters.filter fun c => c.2.bay == n && c.2.q == q && c.2.p == p && c.2.st != .idle).map (·.1)
  let cs := (d.courses.filter fun c => c.2.bay == n && c.2.q == q && c.2.p == p && c.2.st != .idle).map (·.1)
  let d := gs.foldl (fun d c => (d.setGutter c { d.gutter c with st := .idle }).crcRecs e c) d
  let d := cs.foldl (fun d c => d.courseIdle e c) d
  let ids := (d.runs.filter fun r => r.bay == n && r.q == q && r.p == p).map (·.id)
  let d := d.idleCores fun c => match c.run with | some i => ids.contains i | none => false
  let ours (c : Chain) : Bool := c.bay == n && c.q == q && c.p == p
  let resv := ((d.chains.filter ours).map fun c =>
    (c.stages.filter (·.kind == 3)).map fun s => s.obj).flatten
  let mine (o : EngOp) : Bool := o.bay == n && o.q == q && o.p == p
  ({ d with
    chains := d.chains.filter fun c => !ours c
    prepared := d.prepared.filter fun c => !ours c
    released := d.released || ((d.chains ++ d.prepared).any fun c => ours c && !c.loads.isEmpty)
    runs := d.runs.filter fun r => !(ids.contains r.id)
    engines := (d.engines.map fun c => (c.1, { c.2 with
        queue := c.2.queue.filter fun o => !mine o
        suspended := c.2.suspended.filter fun o => !mine o
        run := match c.2.run with | some o => if mine o then none else some o | none => none
        reserved := c.2.reserved && !(resv.contains c.1) })).filter fun c => c.2 != {}
    tasks := d.tasks.filter fun t => !(t.bay == n && t.q == q && t.p == p) } : Dev).tidyHalts

/-- A stage ends. The chain ends with its last stage, or with the first stage that ends otherwise than `OK` (R360, R417). -/
def Dev.stageEnd (d : Dev) (e : Env) (n q : Nat) (p : W32) (i : Nat) (st : Status) (detail : Nat) (b : Blame) : Dev :=
  match d.chainOf n q p with
  | none => d
  | some ch =>
    if st = .ok && i + 1 < ch.stages.length then
      -- a Course whose reservation a GUTTER stage carried returns to IDLE (R416)
      let d := match ch.stages[i]? with
        | some s => if s.res = 0xFFFF then d else d.courseIdle e s.res
        | none => d
      d.modStage n q p i fun s => { s with ended := true }
    else (d.stopCmd e n q p).endCmd e n q p st detail b

/-- An operation ends: its command completes, or the stage of a chain ends. -/
def Dev.opEnd (d : Dev) (e : Env) (n q : Nat) (p : W32) (stage : Option Nat) (st : Status) (detail : Nat) (b : Blame) : Dev :=
  match stage with
  | none => d.endCmd e n q p st detail b
  | some i => d.stageEnd e n q p i st detail b

/-- A channel returns to IDLE, its latched fields kept, and its operation ends (R385, R386, R388). -/
def Dev.gutterEnd (d : Dev) (e : Env) (c : Nat) (st : Status) (detail : Nat) (b : Blame) : Dev :=
  let g := d.gutter c
  let d := (d.setGutter c { g with st := .idle }).crcRecs e c
  (d.forget (· == .gutter c)).opEnd e g.bay g.q g.p g.stage st detail b

/-- A Gutter error (R387, R388): latched, counted, a fault of class JOB; inside an open job the command completes at once.
`kind`: a translation fault kind, 0 for none; `dir`: 0 read, 1 write, 2 descriptor, 3 check. -/
def Dev.gutterErr (d : Dev) (e : Env) (c : Nat) (st : Status) (dir addr kind detail : Nat) : Dev :=
  let g := d.gutter c
  let n := g.bay
  let job := d.cmdInJob n g.q
  let d := d.setGutter c { g with st := .error, status := st.code, cause := if kind = 0 then g.cause else kind, dir := dir, addr := addr, jobOpen := job, detail := detail }
  let d := (d.forget (· == .gutter c)).count (0x2510 + n) 8 1
  let f : Flt := { status := st, source := 4, island := 344 + c / 64, object := c, cause := kind, pos := g.p.toNat, addr := addr, q := g.q }
  if job then d.gutterEnd e c st detail (if grave st then .by_ f else .own) else d.fault .job n f

/-- A Course ends with a status: latched, loads released, its operation ends (R409, R412). -/
def Dev.courseEnd (d : Dev) (e : Env) (c : Nat) (st : Status) (addr cause detail : Nat) (b : Blame) : Dev :=
  let x := d.course c
  let d := (d.setCourse c { x with status := st.code, addr := addr, cause := cause }).courseIdle e c
  (d.forget (· == .course c)).opEnd e x.bay x.q x.p x.stage st detail b

/-- A Course error (R412). -/
def Dev.courseErr (d : Dev) (e : Env) (c : Nat) (st : Status) (addr kind : Nat) : Dev :=
  let x := d.course c
  d.courseEnd e c st addr kind 0 (if d.cmdInJob x.bay x.q && !grave st then .own else
    .by_ { status := st, source := 5, island := 344 + c / 128, object := c, cause := kind, pos := x.p.toNat, addr := addr, q := x.q })

/-- The RUN a core runs. -/
def Dev.runOf (d : Dev) (c : Nat) : Option RunRec := match (d.core c).run with | some i => d.runs.find? (·.id == i) | none => none

def Dev.modRun (d : Dev) (i : Nat) (f : RunRec → RunRec) : Dev := { d with runs := d.runs.map fun r => if r.id = i then f r else r }

/-- A RUN ends: every core returns to IDLE, the RUN is counted, and its operation ends (R434, R450). -/
def Dev.runEnd (d : Dev) (e : Env) (r : RunRec) (st : Status) (detail : Nat) (b : Blame) : Dev :=
  let d := d.forget fun w => match w with | .core c => (d.core c).run == some r.id | _ => false
  let d := d.idleCores fun c => c.run == some r.id
  let d := if r.stage.isSome then d.count (0x2810 + r.bay) 5 1 else d
  ({ d with runs := d.runs.filter (·.id != r.id) } : Dev).opEnd e r.bay r.q r.p r.stage st detail b

/-- A core ends with an error: the RUN's other cores end too, and the RUN completes with the status (R434). -/
def Dev.coreErr (d : Dev) (e : Env) (c : Nat) (st : Status) (addr kind : Nat) : Dev :=
  match d.runOf c with
  | none => d
  | some r =>
    (d.count (0x2810 + r.bay) 6 1).runEnd e r st 0 (if !grave st then .own else
      .by_ { status := st, source := 6, island := c, object := c, cause := kind, pos := r.p.toNat, addr := addr, q := r.q })

/-- A core ends with an operation that a strict Bay refuses, which is a fault of class JOB (R325, R431, R526). -/
def Dev.coreRefuse (d : Dev) (e : Env) (c obj : Nat) : Dev :=
  match d.runOf c with
  | none => d
  | some r =>
    ((d.count (0x2810 + r.bay) 6 1).count (0x2810 + r.bay) 7 1).runEnd e r .access 0
      (.by_ { status := .access, source := 6, island := c, object := obj, pos := r.p.toNat, q := r.q })

/-! ### The digests of jobs (R439, R536) -/

/-- A region of a job, an input at its index, an output at 64 and its index, changes. -/
def Dev.modJobRegion (d : Dev) (n i : Nat) (f : JobRegion → JobRegion) : Dev :=
  let j := d.jour n
  let g (l : List JobRegion) (i : Nat) : List JobRegion := match l[i]? with | some r => listSet l i (f r) | none => l
  d.setJour n (if i < 64 then { j with inputs := g j.inputs i } else { j with outputs := g j.outputs (i - 64) })

/-- A region of a job, by that index. -/
def Dev.jobRegion (d : Dev) (n i : Nat) : Option JobRegion := if i < 64 then (d.jour n).inputs[i]? else (d.jour n).outputs[i - 64]?

/-- The digests that engines have to make: the engine, the place, the Bay and the index (R439). -/
def Dev.digests (d : Dev) : List (Nat × Nat × Nat × Nat) :=
  (bays16.map fun n =>
    if (d.jour n).st != .open_ then [] else
    ((d.jour n).inputs.zipIdx ++ (d.jour n).outputs.zipIdx 64).filterMap fun r =>
      if r.1.digest.isSome then none else r.1.eng.map fun x => (x.1, x.2, n, r.2)).flatten

/-- Those of one engine. -/
def Dev.digestsOn (d : Dev) (g : Nat) : List (Nat × Nat × Nat × Nat) := d.digests.filter (·.1 == g)

/-- The digest that an engine makes, as Bay and index: the first of those that no fault has suspended, unless the engine runs an
operation or is RESERVED (R439, R440). -/
def Dev.digestAt (d : Dev) (g : Nat) : Option (Nat × Nat) :=
  if (d.engine g).run.isSome || (d.engine g).reserved then none else
  (((d.digestsOn g).filter fun c => !(d.trans.halts.any (·.who == .job c.2.2.1 c.2.2.2))).foldl (fun b c => match b with
    | some y => if c.2.1 < y.2.1 then some c else b
    | none => some c) none).map (·.2.2)

/-- The engine is FREE (R439). -/
def Dev.engFree (d : Dev) (g : Nat) : Bool :=
  (d.engine g).run.isNone && !(d.engine g).reserved && (d.digestAt g).isNone

/-- A digest goes to the lowest-numbered digest engine that is FREE, else to the lowest whose queue has room (R439; DEDUCED from the worked case
of the spec's chapter 20, log entry 19). -/
def Dev.queueDigest (d : Dev) (n i : Nat) : Dev :=
  match ([28, 29, 30, 31].find? d.engFree).orElse fun _ =>
      [28, 29, 30, 31].find? fun g => Nat.blt ((d.engine g).queue.length + (d.digestsOn g).length) 32 with
  | some g => d.modJobRegion n i fun r => { r with eng := some (g, (d.digests.map fun c => c.2.1).foldl max 0 + 1) }
  | none => d

/-- The digest leaves its engine, which has ended an operation more. -/
def Dev.digestDone (d : Dev) (n i : Nat) : Dev :=
  match (d.jobRegion n i).bind (·.eng) with
  | some x => (d.modJobRegion n i fun r => { r with eng := none }).setEngine x.1 { d.engine x.1 with ops := (d.engine x.1).ops + 1 }
  | none => d

/-- An engine's operation leaves it (R439). -/
def Dev.engineFree (d : Dev) (g : Nat) : Dev :=
  (d.forget (· == .engine g)).setEngine g { (d.forget (· == .engine g)).engine g with run := none }

/-- An engine's operation ends with an error. -/
def Dev.engineErr (d : Dev) (e : Env) (g : Nat) (st : Status) (addr kind detail : Nat) : Dev :=
  match (d.engine g).run with
  | none => d
  | some o =>
    let d := d.engineFree g
    let x := d.engine g
    let d := (d.setEngine g { x with ops := x.ops + 1 })
    let f : Flt := { status := st, source := 7, island := engineIsland g, object := g, cause := kind, pos := o.p.toNat, addr := addr, q := o.q }
    let d := if grave st then d.count 0x2800 0xA 1 else d
    d.opEnd e o.bay o.q o.p o.stage st detail (if grave st then .by_ f else .own)

end Sys2Proof.Machine
end

