-- ==== Sys2Proof/Machine/Halt.lean ====
section
/-! DEFINITION. What a translation fault does to its requester: halts, the PRI cycle, the fault limit, resumptions and forced
ends (R248 to R267). -/
namespace Sys2Proof.Machine

/-- The requester is halted. -/
def Dev.halted (d : Dev) (w : Who) : Bool := d.trans.halts.any (·.who == w)

/-- A queue halts over a command it could not fetch: `code` a fault kind, or 0 where the read failed (R346, R366). -/
def Dev.fetchFault (d : Dev) (n q code : Nat) : Dev :=
  let x := d.queue n q
  let d := (d.cqError n q x.fe.toNat (if code = 0 then Status.fault.code else 0) code).haltQueue n q (if code = 0 then 4 else 5)
  if d.cmdInJob n q then
    d.fault .job n { status := .fault, source := 0x10, island := 327, object := q, cause := code, pos := x.fe.toNat, q := q }
  else d

/-- The mirror of a Spar is refused: its enable bit clears, and vector 5 tells of it (R330). -/
def Dev.mirrorFault (d : Dev) (n s : Nat) : Dev :=
  ((d.setSpar s { d.spar s with pend := false, mirror := false }).count (0x2910 + n) 8 1).raiseBay n 5

/-- The sink has faulted (R542). -/
def Dev.sinkFault (d : Dev) (n : Nat) : Dev := (d.setJour n { d.jour n with faulted := true }).raiseBay n 5

/-- A checkpoint fails; the job continues (R663). -/
def Dev.ckptFail (d : Dev) (e : Env) (n : Nat) : Dev :=
  let d := (d.forget (· == .ckpt n)).count (0x2D20 + n) 0xC 1
  ({ d with ckpts := smSet [] d.ckpts n ((smGet [] d.ckpts n).drop 1) } : Dev).event e n 7

/-- A job's digest cannot read its region: its Bay has a fault of class JOB, with which END_JOB completes (R299, R536). -/
def Dev.digestErr (d : Dev) (e : Env) (n i : Nat) (st : Status) (addr kind : Nat) : Dev :=
  let g := (((d.jobRegion n i).bind (·.eng)).map (·.1)).getD 28
  let d := d.digestDone n i
  let j := d.jour n
  let f : Flt := { status := st, source := 7, island := engineIsland g, object := g, cause := kind, addr := addr, q := j.q }
  match j.closing with
  | some p => d.endCmd e n j.q p st 0 (.by_ f)
  | none => d.fault .job n f

/-- A requester's operation ends with an error of its own (R248, R387, R412, R432, R440). `dir`: 0 read, 1 write, 2 descriptor. -/
def Dev.reqErr (d : Dev) (e : Env) (w : Who) (n dva dir kind : Nat) (st : Status) : Dev :=
  match w with
  | .gutter c => d.gutterErr e c st dir dva kind 0
  | .course c => d.courseErr e c st dva kind
  | .core c => d.coreErr e c st dva kind
  | .engine g => d.engineErr e g st dva kind 0
  | .queue k => d.fetchFault n (k % 8) kind
  | .cmd k p =>
    -- an await entry of BEGIN_JOB that does not translate draws RANGE (R605)
    match ((d.queue n (k % 8)).cmd? (BitVec.ofNat 32 p)).bind fun c => if c.op = 6 && kind != 0 then c.snap.head? else none with
    | some i => (d.forget (· == w)).endCmd e n (k % 8) (BitVec.ofNat 32 p) .range (32 * i.1) .own
    | none => (d.forget (· == w)).endCmd e n (k % 8) (BitVec.ofNat 32 p) st 0 .own
  | .mirror s => d.mirrorFault n s
  | .sink _ => d.sinkFault n
  | .ckpt _ => d.ckptFail e n
  | .job _ i => d.digestErr e n i st dva kind
  | .walker _ => d
  -- a record whose slot does not translate is lost (DESIGN CHOICE, log entry 10)
  | .record b => match d.link.heldRecs.find? (·.bay == b) with
    | some h => { d with link := { d.link with heldRecs := d.link.heldRecs.erase h } }
    | none => d
  | .sky _ => d | .place _ => d

/-! ### Forced ends (R254, R260, R264) -/

/-- A halted requester ends: its halt goes, its command completes with the status. -/
def Dev.abortReq (d : Dev) (e : Env) (h : Halt) (st : Status) (b : Blame) : Dev :=
  let d := d.setTrans { d.trans with halts := d.trans.halts.erase h }
  match h.who with
  | .gutter c => (d.setGutter c { d.gutter c with status := st.code }).gutterEnd e c st 0 b
  | .course c => d.courseEnd e c st h.dva h.cause 0 b
  | .core c => match d.runOf c with
    | some r => (d.count (0x2810 + r.bay) 6 1).runEnd e r st 0 b
    | none => d
  | .engine g =>
    let x := d.engine g
    match x.suspended.find? fun o => o.bay == h.bay && o.at_ == h.dva with
    | some o =>
      let d := ((d.setEngine g { x with suspended := x.suspended.erase o, ops := x.ops + 1 }).count 0x2800 0xA 1).tidyHalts
      d.opEnd e o.bay o.q o.p o.stage st 0 b
    | none => d
  | .job _ _ => match (d.jour h.bay).closing with
    | some p => d.endCmd e h.bay (d.jour h.bay).q p st 0 b
    | none => d
  | .queue _ => d | .cmd _ _ => d | .mirror _ => d | .sink _ => d | .ckpt _ => d | .walker _ => d | .record _ => d | .sky _ => d | .place _ => d

/-! ### Page requests (R251 to R253) -/

/-- An index of a Bay's page request groups, if one is free and the allocation allows it (R253). -/
def Dev.prgIndex (d : Dev) (n : Nat) : Option Nat :=
  if d.link.priFailure || d.link.priAlloc ≤ d.trans.prgs.length || !(d.link.bme.contains (n + 1)) then none
  else ((List.range 32).map (32 * n + ·)).find? fun i => !(d.trans.prgs.any (·.idx == i))

/-- A page is asked for: the requester joins a group that asked for it, or one is sent; 2 where either did, 4 where no index is
available (R251 to R253). -/
def Dev.pageAsk (d : Dev) (e : Env) (w : Who) (n s page : Nat) (write : Bool) : Nat × Dev :=
  match d.trans.prgs.find? fun g => g.bay == n && g.space == s && g.page == page && g.write == write && !g.ended && !g.gone with
  | some g =>
    (2, (d.setTrans { d.trans with
      prgs := d.trans.prgs.map fun x => if x.idx = g.idx then { x with who := x.who ++ [w] } else x }).count (0x2330 + n) 8 1)
  | none =>
    match d.prgIndex n with
    | none => (4, d)
    | some i =>
      let g : Prg := { idx := i, bay := n, space := s, page := page, write := write, who := [w],
                       deadline := e.time + d.od (0x2330 + n) 2 * 1000000, pasid := d.pasidOf n s }
      (2, ((d.setTrans { d.trans with prgs := d.trans.prgs ++ [g] }).hostSend
        (.pageReq (n + 1) i page write true false false (d.pasidOf n s))).count (0x2330 + n) 6 1)

/-! ### Halting -/

/-- The rank of requesters on one tick: Gutters before Courses, lower numbers first (R253); cores and engines follow. -/
def Who.rank : Who → Nat
  | .gutter c => c | .course c => 1000 + c | .core c => 2000 + c | .engine g => 3000 + g
  | .job _ _ => 4000 | .queue _ => 5000 | .cmd _ _ => 5000 | .mirror _ => 5000 | .sink _ => 5000 | .ckpt _ => 5000
  | .walker _ => 5000 | .record _ => 5000 | .sky _ => 5000 | .place _ => 5000

/-- A halt put in its place: by tick, then by rank (R253). -/
def haltIns (h : Halt) : List Halt → List Halt
  | [] => [h]
  | x :: r => if h.time < x.time || (h.time == x.time && Nat.blt h.who.rank x.who.rank) then h :: x :: r else x :: haltIns h r

/-- The operation an engine runs is scatter-add, which no fault may suspend (R440). -/
def Dev.scatterAdd (d : Dev) (g : Nat) : Bool :=
  match (d.engine g).run with | some o => fld o.d 0 1 == 3 && fld o.d 1 1 == 2 | none => false

/-- A requester shows that it is halted (R249, R386, R409, R433, R440). -/
def Dev.showHalt (d : Dev) (e : Env) (w : Who) (cause dva : Nat) (write : Bool) : Dev :=
  match w with
  | .gutter c => d.setGutter c { d.gutter c with st := .halted, cause := cause, addr := dva, dir := b2n write }
  | .course c =>
    let d := d.courseStall e c (if cause = 5 then 2 else 1)
    d.setCourse c { d.course c with st := .halted, cause := cause, addr := dva }
  | .core c => match d.runOf c with
    | some r => (d.setCore c { d.core c with st := .halted, part := 0 }).count (0x2810 + r.bay) 6 1
    | none => d
  | .engine g =>
    let x := d.engine g
    match x.run with
    | some o => (d.setEngine g { x with run := none, suspended := x.suspended ++ [{ o with at_ := dva }] }).count 0x2800 0xA 1
    | none => d
  | .job _ _ => d.count 0x2800 0xA 1
  | .queue _ => d | .cmd _ _ => d | .mirror _ => d | .sink _ => d | .ckpt _ => d | .walker _ => d
  | .record _ => d | .sky _ => d | .place _ => d

/-- What a requester has read or asked for and not used is discarded (R248); its page leaves its micro-TLB (R250). -/
def Dev.dropReads (d : Dev) (w : Who) (n s dva : Nat) : Dev :=
  let d := d.forget (· == w)
  match w.unit with
  | some u =>
    let l := (smGet [] d.trans.micro u).filter fun x => !(x.bay == n && x.space == s && x.va ≤ dva && dva < x.va + 2 ^ x.log)
    d.setTrans { d.trans with micro := smSet [] d.trans.micro u l }
  | none => d

/-- One more halt of the Bay in the present window: whether the limit had been reached before, and whether it is now (R260). -/
def Dev.windowHit (d : Dev) (e : Env) (n : Nat) : Bool × Bool × Dev :=
  let k := e.time / 1000000
  let w := smGet (0, 0, false) d.trans.windows n
  let cnt := if w.1 = k then w.2.1 + 1 else 1
  let hit := w.1 = k && w.2.2
  let now := !hit && d.od (0x2330 + n) 1 ≤ cnt
  (hit, now, d.setTrans { d.trans with windows := smSet (0, 0, false) d.trans.windows n (k, cnt, hit || now) })

/-- A requester halts with a cause (R248 to R253, R260, R440). -/
def Dev.haltReq (d : Dev) (e : Env) (w : Who) (n s dva cause : Nat) (write : Bool) (page : Nat) : Dev :=
  if (match w with | .engine g => d.scatterAdd g | _ => false) then d.reqErr e w n dva (b2n write) cause .fault
  else
    let d := (d.dropReads w n s dva)
    let a : Nat × Dev := if cause != 2 then (cause, d) else if d.link.bme.contains (n + 1) then d.pageAsk e w n s page write else (6, d)
    let h : Halt := ⟨w, n, a.1, dva, s, write, page, e.time⟩
    let d := (a.2.setTrans { a.2.trans with halts := haltIns h a.2.trans.halts }).showHalt e w a.1 dva write
    let d := if a.1 = 1 || a.1 = 3 then d.raiseBay n 5 else d
    if a.1 = 5 || a.1 = 6 then d else
    let r := d.windowHit e n
    if r.1 then r.2.2.abortReq e h .fault .own
    else if r.2.1 then
      let d := (r.2.2.fault .job n { status := .fault, source := 2, island := 330, cause := a.1, addr := dva }).count (0x2330 + n) 9 1
      (d.trans.halts.filter fun x => x.bay == n && 1 ≤ x.cause && x.cause ≤ 4).foldl (fun d x => d.abortReq e x .fault .noted) d
    else r.2.2

/-- The cause a halted requester shows. -/
def Dev.showCause (d : Dev) (w : Who) (cause : Nat) : Dev :=
  match w with
  | .gutter c => d.setGutter c { d.gutter c with cause := cause }
  | .course c => d.setCourse c { d.course c with cause := cause }
  | .core _ => d | .engine _ => d | .job _ _ => d | .queue _ => d | .cmd _ _ => d | .mirror _ => d | .sink _ => d
  | .ckpt _ => d | .walker _ => d | .record _ => d | .sky _ => d | .place _ => d

/-- The requesters that wait for an index receive one, in order of halt tick (R248 cause 0x04, R253). -/
def Dev.pumpPri (d : Dev) (e : Env) : Dev :=
  (d.trans.halts.filter fun h => h.cause == 4).foldl (fun d h =>
    if !(d.trans.halts.contains h) then d else
    let a := d.pageAsk e h.who h.bay h.space h.page h.write
    if a.1 = 2 then
      (a.2.setTrans { a.2.trans with halts := a.2.trans.halts.map fun x => if x = h then { x with cause := 2 } else x }).showCause h.who 2
    else d) d

/-- A suspended operation as it rejoins its engine's queue: it runs again from its first element (R440). What a stage has taken of its ring
stays its input. -/
def EngOp.restart (o : EngOp) : EngOp :=
  { o with done := 0, hostWrote := false, buf := match o.stage with | some (_ + 1) => o.buf | _ => [] }

/-- A halted requester resumes from its saved position: it translates the page anew (R250, R432, R440). -/
def Dev.resumeReq (d : Dev) (e : Env) (h : Halt) : Dev :=
  let d := d.setTrans { d.trans with
    halts := d.trans.halts.erase h
    anew := (h.who, h.space, h.dva / 4096) :: d.trans.anew.filter (· != (h.who, h.space, h.dva / 4096)) }
  match h.who with
  | .gutter c => d.setGutter c { d.gutter c with st := .running }
  | .course c => let d := d.courseStall e c 0; d.setCourse c { d.course c with st := .running }
  | .core c => d.setCore c { d.core c with st := .running }
  | .engine g =>
    let x := d.engine g
    match x.suspended.find? fun o => o.bay == h.bay && o.at_ == h.dva with
    | some o => d.setEngine g { x with suspended := x.suspended.erase o, queue := o.restart :: x.queue }
    | none => d
  | .job _ _ => d | .queue _ => d | .cmd _ _ => d | .mirror _ => d | .sink _ => d | .ckpt _ => d | .walker _ => d
  | .record _ => d | .sky _ => d | .place _ => d

/-- Every requester that a predicate names resumes, in order of halt tick. -/
def Dev.resumeAll (d : Dev) (e : Env) (f : Halt → Bool) : Dev := (d.trans.halts.filter f).foldl (fun d h => d.resumeReq e h) d

/-- The requesters that R248 lets halt: Gutters, Courses, cores, engines, and the digests of a job (R432, R440). -/
def Who.halts : Who → Bool
  | .gutter _ => true | .course _ => true | .core _ => true | .engine _ => true | .job _ _ => true
  | .queue _ => false | .cmd _ _ => false | .mirror _ => false | .sink _ => false | .ckpt _ => false | .walker _ => false
  | .record _ => false | .sky _ => false | .place _ => false

/-- A fault of this requester's access halts it: a Gutter's descriptor read ends in an error (Table — Gutter errors). -/
def Dev.mayHalt (d : Dev) (w : Who) : Bool :=
  w.halts && (match w with | .gutter c => (d.gutter c).fetched | _ => true)

/-- The cause with which a translation fault halts a requester; none where it ends it (Table — Translation outcomes). -/
def Dev.haltCause (d : Dev) (kind : Nat) : Option Nat :=
  if kind = kNotPresent || kind = kPermission then some 1
  else if kind = kHostFault then some (if d.link.priEnable then 2 else 3)
  else none

/-- A translation fault of a requester: counted, then its outcome (R248, R249). `page`: the host page, for HOST_FAULT. -/
def Dev.transFault (d : Dev) (e : Env) (w : Who) (n s dva kind level : Nat) (write : Bool) (page dir : Nat) : Dev :=
  let d := d.noteFault n s dva kind level write
  match if d.mayHalt w then d.haltCause kind else none with
  | some c => d.haltReq e w n s dva c write page
  | none =>
    let own := match w with | .mirror _ => true | .sink _ => true | _ => false
    (if own then d else d.raiseBay n 5).reqErr e w n dva dir kind .fault

/-- An access of a requester has failed: a fault found at its local check, a host that is absent, a status (R228, R248). -/
def Dev.accFail (d : Dev) (e : Env) (w : Who) (n s : Nat) (dva : Nat) (write : Bool) (dir : Nat) (m : Mv) : Dev :=
  match m with
  | .fault k l a => d.transFault e w n s a k l write 0 dir
  | .absent dva => if w.halts then d.haltReq e w n s dva 5 write 0 else d
  | .master dva => if w.halts then d.haltReq e w n s dva 6 write 0 else d
  | .fail st => d.reqErr e w n dva dir 0 st
  | .got _ _ => d | .done => d | .wait => d

end Sys2Proof.Machine
end

