-- ==== Sys2Proof/Machine/Places.lean ====
section
/-! DEFINITION. Placement into registered regions (chapter 22): the checks of Table — Placement checks, what an accepted access
does at the homes, and how it is answered (R593 to R610). -/
namespace Sys2Proof.Machine

/-- Bits of reg_ctl (Table — Region entries): the route that each operation needs. -/
def bar4Wr : Nat := 17
def bar4Rd : Nat := 18
def roceWr : Nat := 19
def roceRd : Nat := 20
def fabPut : Nat := 21
def fabGet : Nat := 22

/-- The pages of a region that an access of `len` bytes at offset `off` touches, and its bytes in each. -/
def pageBytes (off len : Nat) : List (Nat × Nat) := (pageParts off len).map fun p => (p.1 / 4096, p.2)

/-- The region's state permits a placement write (R602). -/
def Region.takes (x : Region) (off len : Nat) : Bool :=
  match x.st with
  | .open_ => true
  | .awaiting => !((pageBytes off len).any fun p => 4096 ≤ smGet 0 x.pages p.1)
  | .unregistered => false
  | .sealed => false

/-- Checks 5 and 6: the Bay's state; for a write the region's state and the protected shadows (R599). -/
def Dev.placeLate (d : Dev) (n r off len : Nat) (write : Bool) : Option Status :=
  if !(d.bay n).st.live then some .state
  else if write && (!((d.region n r).takes off len) || d.shadowed ((d.region n r).base + off) len) then some .access
  else none

/-- Checks 2 to 6 for an access to region r of Bay n (R599). -/
def Dev.placeBad (d : Dev) (n r route : Nat) (keyOk : Bool) (off len : Nat) (write : Bool) : Option Status :=
  let x := d.region n r
  if !bit x.ctl route || !keyOk || x.len < off + len then some .access else d.placeLate n r off len write

/-- A placement access is refused and counted (R599). -/
def Dev.placeRefuse (d : Dev) (n : Nat) : Dev := d.count (0x2A60 + n) 8 1

/-- An accepted write: its bytes count towards the pages of a region that awaits them (R600, R602). -/
def Dev.placeWrite (d : Dev) (n r off : Nat) (bs : List Byte) (p : Place) : Dev :=
  let x := d.region n r
  let d := if x.st == .awaiting then
      d.setRegion n r { x with pages := (pageBytes off bs.length).foldl (fun m c => smSet 0 m c.1 (smGet 0 m c.1 + c.2)) x.pages }
    else d
  { d with nextPlace := d.nextPlace + 1, places := d.places ++ [{ p with id := d.nextPlace, bay := n, slot := r, lpa := x.base + off, data := bs }] }

/-- An accepted read. -/
def Dev.placeRead (d : Dev) (n r off len : Nat) (p : Place) : Dev :=
  { d with
    nextPlace := d.nextPlace + 1
    places := d.places ++ [{ p with id := d.nextPlace, bay := n, slot := r, lpa := (d.region n r).base + off, data := [], read := some len }] }

/-- An access is answered: with PUT_ACK or GET_RSP, a completion, or a RoCEv2 acknowledgement or read response (R569, R578,
R595). -/
def Dev.placeReply (d : Dev) (p : Place) (st : Status) (bs : List Byte) (poison : Bool) : Dev :=
  let d := match p.reply with
    | some f => d.originate { f with st := st.code, payload := bs, len := bs.length, poison := poison }
    | none => d
  let d := match p.tag with
    | some t => d.hostSend (if st = .ok then .cpl t (if poison then "poison" else "OK") bs else .cpl t "UR" [])
    | none => d
  match p.roce with
  | some r =>
    if !r.2.2.2 && st = .ok then d
    else d.roceOut r.1 (if st != .ok then "NAK Remote Operational Error" else if p.read.isSome then "READ Response" else "ACK") r.2.1 r.2.2.1 bs
  | none => d

/-- The access leaves those not yet performed. -/
def Dev.dropPlace (d : Dev) (p : Place) : Dev := { d with places := d.places.erase p }

/-- The last packet of a RoCEv2 message counts once every packet before it has been applied (R600). -/
def Dev.placeTurn (d : Dev) (p : Place) : Bool :=
  p.count = 0 || !(d.places.any fun x => x.id < p.id && x.read.isNone && x.bay == p.bay && x.roce.isSome && (x.roce.map (·.2.1)) == p.roce.map (·.2.1))

/-- The bytes of a write have taken effect: they are added to reg_arrived, and by one ADD to the region's Spar (R600). -/
def Dev.placeCount (d : Dev) (e : Env) (p : Place) : Dev :=
  let x := d.region p.bay p.slot
  let d := d.setRegion p.bay p.slot { x with arrived := x.arrived + p.count }
  if p.count = 0 || x.spar = 0xFFFF || !(d.bay p.bay).held.spar.has x.spar then d else d.sparAdd e x.spar p.count

/-- A packet of a RoCEv2 message could not take effect: its message counts nothing (R600). -/
def Dev.placeBroken (d : Dev) (p : Place) : Dev :=
  match p.roce with
  | none => d
  | some (_, qpn, _, last) =>
    if last then d else
    match d.places.find? fun x => p.id < x.id && x.read.isNone && x.bay == p.bay && x.roce.any fun r => r.2.1 == qpn && r.2.2.2 with
    | some y => { d with places := d.places.map fun x => if x.id = y.id then { x with count := 0 } else x }
    | none => let i := (qpn - 0x880000) % 4; d.setQp p.bay i { d.qp p.bay i with msg := none }

/-- A write is performed as NcWrites at the homes (R288, R600). -/
def Dev.placeApply (d : Dev) (e : Env) (p : Place) : Dev :=
  if !(d.placeTurn p) then d else
  match d.writeLines e (.place p.id) .here p.isl p.lpa p.data with
  | (.wait, d) => d
  | (.fail st, d) => ((d.dropPlace p).placeBroken p).placeReply p st [] false
  | (_, d) => ((d.dropPlace p).placeCount e p).placeReply p .ok [] false

/-- A read is performed as NcReads at the homes (R288, R600). -/
def Dev.placeFetch (d : Dev) (e : Env) (p : Place) (len : Nat) : Dev :=
  match d.readLines e (.place p.id) .here p.isl p.lpa len with
  | (.wait, d) => d
  | (.got bs poison, d) => (d.dropPlace p).placeReply p .ok bs poison
  | (.fail st, d) => (d.dropPlace p).placeReply p st [] false
  | (_, d) => d

/-- The reads under way advance; a write waits for its own command, PLACEMENT_APPLIED. -/
def Dev.flushPlaces (d : Dev) (e : Env) : Dev :=
  d.places.foldl (fun d p => match p.read with | some k => d.placeFetch e p k | none => d) d

end Sys2Proof.Machine
end

