-- ==== Sys2Proof/Machine/Closing.lean ====
section
/-! DEFINITION. How an island closes, starts and is gated, and what of that comes before a request of its tick (R616 to R625, R645). -/
namespace Sys2Proof.Machine

/-! ### Gating (R617, R618) -/

/-- An island may be powered down and gated: it is `ACTIVE`, a core that no Bay holds or an L2 none of whose cores any Bay holds
(R617, R618). -/
def Dev.gateable (d : Dev) (i : Nat) : Bool :=
  (d.island i).st == .active &&
  (if i < 256 then (d.holder (·.core) i).isNone
   else i < 272 && (List.range 16).all fun k => (d.holder (·.core) (16 * (i - 256) + k)).isNone)

/-- The tick from which islands are eligible for gating (R618). -/
def Dev.markGates (d : Dev) (e : Env) (is : List Nat) : Dev :=
  is.foldl (fun d i =>
    let x := d.island i
    if d.gateable i then (if x.eligible.isSome then d else d.setIsland i { x with eligible := some e.time })
    else if x.eligible.isSome then d.setIsland i { x with eligible := none } else d) d

/-- The core islands of a range and their L2s. -/
def coreIslands (r : Rng) : List Nat :=
  ((List.range r.count).map (r.base + ·)) ++ (List.range 16).filterMap fun k =>
    if (Rng.mk (16 * k) 16).meets r then some (256 + k) else none

/-! ### Closing (R616 to R620, R645) -/

/-- The lines of a cluster L2. -/
def Dev.l2Lines (d : Dev) (c : Nat) : List Nat := (d.ridge.l2.filter fun x => x.1 / 2 ^ 60 == c).map (·.1 % 2 ^ 60)

/-- An island that holds coherent state flushes it: an L2 evicts every line, the proxy cache evicts every line (R619). -/
def Dev.flushOut (d : Dev) (e : Env) (i : Nat) : Dev :=
  if i = 331 then (d.ridge.proxy.filter fun c => !c.2.wb).foldl (fun d c => d.proxyEvict c.1) d
  else if 256 ≤ i && i < 272 then
    (d.l2Lines (i - 256)).foldl (fun d l => if (d.l2 (i - 256) l).wb then d else d.l2Evict e (i - 256) l) d
  else d

/-- The entries of a slice go to their summary bytes, and the lines of its proxy entries go home (R282, R292, R619). -/
def Dev.flushDir (d : Dev) (e : Env) (sl : Nat) : Dev :=
  (d.ridge.dir.filter fun c => lineIsl c.1 == 272 + sl).foldl (fun d c => d.dirEvict e c.1) d

/-- The L2 of a cluster has a request of its own outstanding. -/
def Dev.l2Asking (d : Dev) (c : Nat) : Bool :=
  d.ridge.txns.any (fun t => t.req.self && t.req.a == c) || d.ridge.waiting.any (fun w => w.2.self && w.2.a == c) ||
  d.ridge.proxyWait.any (fun w => w.2.self && w.2.a == c) || d.ridge.l2out.any (·.c == c)

/-- An island abandons the requests it has outstanding (R620). -/
def Dev.abandonReqs (d : Dev) (i : Nat) : Dev :=
  let q0 (q : HomeReq) : HomeReq := match q.who with
    | some w => if w.island = i then (if q.self then { q with who := none } else { q with who := none, a := i, tn := goneTn }) else q
    | none => q
  let lost := d.ridge.away.filter fun a => a.1.island == i
  (d.setRidge { d.ridge with
    txns := d.ridge.txns.map fun (t : Txn) => ({ t with req := q0 t.req } : Txn)
    waiting := d.ridge.waiting.map fun (c : Nat × HomeReq) => (c.1, q0 c.2)
    abandoned := d.ridge.abandoned ++ lost.map fun a => (i, a.2.2.1) }).forget (·.island == i)

/-- A patrol pass ends before its last line (R644). -/
def Dev.scrubStop (d : Dev) (e : Env) (k : Nat) : Dev :=
  let x := d.scrub k
  if !x.running then d
  else d.setScrub k { x with running := false, paused := false, timed := false, passes := x.passes + 1, lastEnd := some e.time }

/-- An island enters `CLOSING` (R616, R620, R644). -/
def Dev.enterClosing (d : Dev) (e : Env) (i : Nat) : Dev :=
  let x := d.island i
  let d := d.setIsland i { x with st := .closing, flush := false, retraining := false, latched := false, since := e.time, eligible := none, closes := x.closes + 1 }
  let d := d.abandonReqs i
  if 304 ≤ i && i < 312 then d.scrubStop e (i - 304) else d

/-- The island holds coherent state, which it flushes before it closes (R619). -/
def holdsLines (i : Nat) : Bool := (256 ≤ i && i < 288) || i == 331

/-- An island closes, after any flush; a trigger latched for it is discarded (R616, R619, R645). -/
def Dev.closeIsland (d : Dev) (e : Env) (i : Nat) (toOff : Bool) : Dev :=
  let d := d.setIsland i { d.island i with toOff := toOff, latched := false }
  if holdsLines i then (d.setIsland i { d.island i with flush := true }).flushOut e i else d.enterClosing e i

/-- The flush of an island ends (R619): an L2 or the proxy cache has no line left, a slice's entries stand in their summary bytes. -/
def Dev.flushEnd (d : Dev) (e : Env) (i : Nat) : Dev :=
  let x := d.island i
  if !(x.st == .active && x.flush) then d
  else if 272 ≤ i && i < 288 then (d.flushDir e (i - 272)).enterClosing e i
  else
    let d := d.flushOut e i
    if i = 331 then (if d.ridge.proxy.isEmpty then d.enterClosing e i else d)
    else if (d.l2Lines (i - 256)).isEmpty && !(d.l2Asking (i - 256)) then d.enterClosing e i else d

/-- An island that has been eligible for 1 ms is powered down (R618). -/
def Dev.gateDue (d : Dev) (e : Env) (i : Nat) : Dev :=
  match (d.island i).eligible with
  | none => d
  | some t => if d.od 0x2B00 5 = 1 && d.gateable i && t + 1000000 ≤ e.time && !(d.island i).flush then d.closeIsland e i true else d

/-! ### Starting (R616, R625, R644) -/

/-- The reset and the retraining of an island that starts are done: a core's local store and state are cleared, and a patrol pass latched for a
controller starts. -/
def Dev.islandStart (d : Dev) (e : Env) (i : Nat) : Dev :=
  let x := d.island i
  if x.st != .starting then d else
  let d := d.setIsland i { x with
    st := .active
    since := e.time
    -- a trigger latched before the island had power starts its retraining now (R90)
    retraining := x.latched
    latched := false
    timed := false
    retrains := x.retrains + 1
    lastRetrain := e.time
    lastTemp := smGet 0 d.board.islandTemp i }
  if i < 256 then
    ((d.store (.zero (0x11000000000 + i * 0x80000) (0x11000000000 + (i + 1) * 0x80000))).setCore i {}).markGates e [i]
  else if i < 272 then d.markGates e [i]
  else if 304 ≤ i && i < 312 && (d.scrub (i - 304)).latched then
    d.setScrub (i - 304) { d.scrub (i - 304) with latched := false, running := true, paused := d.board.throttled.contains (i - 304) }
  else d

/-! ### Precedence (R620, R623) -/

/-- The island that a command lets enter `ACTIVE` or `CLOSING`. -/
def Instr.moves : Instr → Option Nat
  | .islandStartEnd i => some i
  | .flushEnd i => some i
  | .gateTimer i => some i
  | _ => none

/-- An island that becomes `ACTIVE` on a tick serves the requests of that tick, and one that enters `CLOSING` on it answers them with `RETRY`: the
waiting commands of the tick that say so take effect before any other (R620, R623). -/
def Dev.leadIslands (d : Dev) (e : Env) : Dev :=
  d.lead e (fun c => (Instr.moves c).isSome) fun d c => match c with
    | .islandStartEnd i => d.islandStart e i
    | .flushEnd i => d.flushEnd e i
    | .gateTimer i => d.gateDue e i
    | _ => d

end Sys2Proof.Machine
end

