-- ==== Sys2Proof/Machine/Gutters.lean ====
section
/-! DEFINITION. Gutter channels: descriptors, their checks, the copy with its conversion and CRC, descriptor ends, restart and
abort (R374 to R395). -/
namespace Sys2Proof.Machine

/-- The channel that gt_select names; by default the first the Bay holds (R395). -/
def Dev.gtSel (d : Dev) (n : Nat) : Nat :=
  let v := d.od (0x2510 + n) 1
  let h := (d.bay n).held
  if v < 0x10000 then v else if h.gpack.count != 0 then h.gpack.base else h.gstrict.base

/-- Bits of an element width code (R375). -/
def widthBits (code : Nat) : Nat := 4 * 2 ^ code

/-! The fields of a descriptor (Table — Gutter descriptor, R375). -/
def gSrc (x : List Byte) : Nat := fld x 0 8
def gDst (x : List Byte) : Nat := fld x 8 8
def gLen (x : List Byte) : Nat := fld x 0x10 4
def gRows (x : List Byte) : Nat := fld x 0x14 2
def gWs (x : List Byte) : Nat := widthBits (fld x 0x16 1 % 16)
def gWd (x : List Byte) : Nat := widthBits (fld x 0x16 1 / 16)
def gSigned (x : List Byte) : Bool := bit (fld x 0x17 1) 0
def gSat (x : List Byte) : Bool := bit (fld x 0x17 1) 1
def gSrcStride (x : List Byte) : Nat := fld x 0x18 4
def gDstStride (x : List Byte) : Nat := fld x 0x1C 4
def gNext (x : List Byte) : Nat := fld x 0x20 8
def gSpar (x : List Byte) : Nat := fld x 0x28 2
def gMode (x : List Byte) : Nat := fld x 0x2A 1
def gCont (x : List Byte) : Bool := bit (fld x 0x2B 1) 0
def gWant (x : List Byte) : Nat := fld x 0x38 8

/-- Destination bytes of a row (R377). -/
def gDstLen (x : List Byte) : Nat := gLen x * gWd x / gWs x

/-- The first of some offsets whose condition holds. -/
def firstBad (l : List (Bool × Nat)) : Option Nat := (l.find? (·.1)).map (·.2)

/-- The checks of Table — Descriptor checks, in order: status, offset of the offending field, and whether check 5 failed (R376). -/
def Dev.gutterCheck (d : Dev) (c : Nat) (g : Gutter) (x : List Byte) : Option (Status × Nat × Bool) :=
  let strict := 128 ≤ c
  match firstBad [(!dvaOk (gSrc x), 0), (!dvaOk (gDst x), 8), (4 < fld x 0x16 1 % 16 || 4 < fld x 0x16 1 / 16, 0x16),
      (4 ≤ fld x 0x17 1, 0x17), (!dvaOk (gNext x), 0x20), (2 < gMode x, 0x2A),
      (2 ≤ fld x 0x2B 1 || (gCont x && g.crcMode = 0), 0x2B)] with
  | some o => some (.format, o, false)
  | none => match firstNonZero x 0x2C 4 with
    | some o => some (.format, o, false)
    | none =>
      if gLen x = 0 || 0x40000000 < gLen x then some (.range, 0x10, false)
      else if gRows x = 0 then some (.range, 0x14, false)
      else if gSpar x != 0xFFFF && 4095 < gSpar x then some (.range, 0x28, false)
      else if gLen x * 8 % gWs x != 0 || gLen x * gWd x % gWs x != 0 then some (.format, 0x10, false)
      else match if strict then firstBad [(gSrc x % 64 != 0, 0), (gDst x % 64 != 0, 8), (gLen x % 64 != 0, 0x10),
          (gWs x != gWd x, 0x16), (fld x 0x17 1 != 0, 0x17), (gSrcStride x % 64 != 0, 0x18), (gDstStride x % 64 != 0, 0x1C)] else none with
        | some o => some (.format, o, true)
        | none =>
          if gSpar x != 0xFFFF && !(d.bay g.bay).held.spar.has (gSpar x) then some (.access, 0x28, false)
          else if 65536 ≤ g.index then some (.range, 0, false)
          else none

/-- A failed check: latched with direction "descriptor", the offending field in the detail (R376, R387). -/
def Dev.gutterRefuse (d : Dev) (e : Env) (c : Nat) (st : Status) (off : Nat) (mis : Bool) : Dev :=
  let g := d.gutter c
  (if mis then d.count (0x2510 + g.bay) 0xA 1 else d).gutterErr e c st 2 g.desc 0 off

/-- The descriptor is read and checked (R375, R376). `ecc`: its read succeeds. -/
def Dev.gutterFetch (d : Dev) (e : Env) (c : Nat) (ecc : Bool) : Dev :=
  let g := d.gutter c
  if g.st != .running || g.fetched then d
  else if g.desc % 64 != 0 || !dvaOk g.desc then d.gutterRefuse e c .format 0 false
  else if !ecc then (d.demandErr ecc (.gutter c) g.bay g.space g.desc).gutterErr e c .fault 2 g.desc 0 0
  else match d.readRange e (.gutter c) g.bay g.space g.desc 64 with
    | (.wait, d) => d
    | (.got _ true, d) => d.gutterErr e c .fault 2 g.desc 0 0
    | (.got x false, d) =>
      let g := { g with d := x, fetched := true, row := 0, off := 0 }
      let g := { g with crc0 := if gMode x = 0 || gCont x then g.crc else 0 }
      let g := if gMode x = 0 then g else { g with crc := g.crc0 }
      let d := d.setGutter c g
      match d.gutterCheck c g x with
      | some (st, o, mis) => d.gutterRefuse e c st o mis
      | none => d
    | (.fail _, d) => d.gutterErr e c .fault 2 g.desc 0 0
    | (m, d) => d.accFail e (.gutter c) g.bay g.space g.desc false 2 m

/-- Destination bytes [o, o + k) of a row, from the source bytes that hold their elements: the elements lie in both as one
little-endian string of bits (R379). `i0` is the first element, `sb` the source bytes from the byte in which it begins. -/
def gutConvert (x : List Byte) (o k i0 i1 : Nat) (sb : List Byte) : List Byte :=
  let ws := gWs x
  let wd := gWd x
  let n := leNat sb
  let base := i0 * ws / 8 * 8
  let out := (List.range (i1 - i0)).foldl (fun a j =>
    a + gutConv ws wd (gSigned x) (gSat x) (n / 2 ^ ((i0 + j) * ws - base) % 2 ^ ws) * 2 ^ (j * wd)) 0
  leBytes k (out / 2 ^ (8 * o - i0 * wd))

/-- The bytes of the stage's input are ready: at least `k` of them stand in its buffer. -/
def Dev.stageFeed (d : Dev) (e : Env) (n q : Nat) (p : W32) (i k : Nat) : Bool × Dev :=
  match d.stageOf n q p i with
  | none => (false, d)
  | some s =>
    let t := d.stageTake e n q p i (cdiv (k - s.inb.length) 64)
    if t.2.1 then (false, t.2.2)
    else
      let d := t.2.2.modStage n q p i fun s => { s with inb := s.inb ++ t.1 }
      (k ≤ s.inb.length + t.1.length, d)

/-- A row of descriptor `x` reads a byte that a row of descriptor `y` writes. -/
def rowsMeet (x y : List Byte) : Bool :=
  (List.range (gRows x)).any fun r => (List.range (gRows y)).any fun t =>
    let a := gSrc x + r * gSrcStride x
    let b := gDst y + t * gDstStride y
    Nat.blt a (b + gDstLen y) && Nat.blt b (a + gLen x)

/-- The present descriptor is in breach of R378: its source bytes overlap its destination bytes, or bytes that an earlier
descriptor of the chain writes. Its results are then not defined. -/
def Gutter.breach (g : Gutter) : Bool := g.stage.isNone && (rowsMeet g.d g.d || g.before.any (rowsMeet g.d ·))

/-- What a channel takes for source bytes read: in a breach of R378 nothing fixes them (DESIGN CHOICE, log entry 2). -/
def Dev.gutterSrc (d : Dev) (g : Gutter) (bs : List Byte) : List Byte := if g.breach then freeBytes d.free bs.length else bs

/-- Source bytes of the present row of a channel: from memory, or from the input ring of its stage, where the row stands in the
stage's buffer as a whole (R377, R442). -/
def Dev.gutterRead (d : Dev) (e : Env) (c a off len : Nat) (ecc : Bool) : Mv × Dev :=
  let g := d.gutter c
  match g.stage with
  | some (i + 1) =>
    match d.stageFeed e g.bay g.q g.p (i + 1) (gLen g.d) with
    | (true, d) => match d.stageOf g.bay g.q g.p (i + 1) with
      | some s => (.got ((s.inb.drop off).take len) false, d)
      | none => (.wait, d)
    | (false, d) => (.wait, d)
  | _ =>
    match d.readRange e (.gutter c) g.bay g.space (a + off) len with
    | (.got bs p, d) => (.got bs (p || !ecc), d.demandErr ecc (.gutter c) g.bay g.space (a + off))
    | r => r

/-- Destination bytes go to memory, or to the output ring of the channel's stage (R377, R442). -/
def Dev.gutterWrite (d : Dev) (e : Env) (c a : Nat) (bs : List Byte) : Mv × Dev :=
  let g := d.gutter c
  match g.stage.bind fun i => (d.stageOf g.bay g.q g.p i).bind fun s => s.ring.map fun _ => i with
  | some i => (.done, (d.modStage g.bay g.q g.p i fun s => { s with outb := s.outb ++ bs }).stagePut g.bay g.q g.p i)
  | none => d.writeRange e (.gutter c) g.bay g.space a bs false

/-- A read of the present part is kept while its write waits. -/
def Dev.keepRead (d : Dev) (w : Who) (s dva : Nat) (bs : List Byte) : Dev :=
  (pageParts dva bs.length).foldl (fun d p => d.putBuf w s p.1 ((bs.drop (p.1 - dva)).take p.2) false) d

/-- The next part of a descriptor moves: destination bytes up to the end of the row or of the destination line (R377, R380,
R381). True where the channel moved on. -/
def Dev.gutterPart (d : Dev) (e : Env) (c : Nat) (ecc : Bool) : Bool × Dev :=
  let g := d.gutter c
  let x := g.d
  if gDstLen x ≤ g.off then
    -- the row is done; a ring stage drops its source bytes
    let ring := match g.stage with
      | some (i + 1) => ((d.stageOf g.bay g.q g.p (i + 1)).map fun s => s.inb.take (gLen x)).getD []
      | _ => []
    let d := match g.stage with
      | some (i + 1) => d.modStage g.bay g.q g.p (i + 1) fun s => { s with inb := s.inb.drop (gLen x) }
      | _ => d
    (true, d.setGutter c { g with row := g.row + 1, off := 0, sent := g.sent ++ ring })
  else
    let src := gSrc x + g.row * gSrcStride x
    let dst := gDst x + g.row * gDstStride x
    let k := min (gDstLen x - g.off) (64 - (dst + g.off) % 64)
    let i0 := 8 * g.off / gWd x
    let i1 := cdiv (8 * (g.off + k)) (gWd x)
    let b0 := i0 * gWs x / 8
    let b1 := cdiv (i1 * gWs x) 8
    match d.gutterRead e c src b0 (b1 - b0) ecc with
    | (.wait, d) => (false, d)
    | (.got _ true, d) => (false, d.gutterErr e c .integrity 0 (src + b0) 0 0)
    | (.got rb false, d) =>
      let sb := d.gutterSrc g rb
      let d := d.drawn g.breach rb.length
      let out := gutConvert x g.off k i0 i1 sb
      match d.gutterWrite e c (dst + g.off) out with
      | (.done, d) =>
        let g := d.gutter c
        (true, d.setGutter c { g with
          off := g.off + k
          bytes := g.bytes + k
          crc := if gMode x = 0 then g.crc else crc64From g.crc out })
      | (.wait, d) => (false, match g.stage with
        | some (_ + 1) => d
        | _ => d.keepRead (.gutter c) g.space (src + b0) sb)
      | (m, d) => (false, d.accFail e (.gutter c) g.bay g.space (dst + g.off) true 1 m)
    | (m, d) => (false, d.accFail e (.gutter c) g.bay g.space (src + b0) false 0 m)

/-- Parts move until the rows are done or the channel has to wait. -/
def Dev.gutterMove (d : Dev) (e : Env) (c : Nat) (ecc : Bool) : Nat → Dev
  | 0 => d
  | f + 1 =>
    let g := d.gutter c
    if g.st != .running || gRows g.d ≤ g.row then d else
    match d.gutterPart e c ecc with
    | (true, d) => d.gutterMove e c true f
    | (false, d) => d

/-- The next descriptor, or the end of the chain of descriptors; a stage pads its last line with zeros (R385, R442). -/
def Dev.gutterNext (d : Dev) (e : Env) (c : Nat) : Dev :=
  let g := d.gutter c
  if gNext g.d = 0 then
    let d := match g.stage with
      | some i => (d.modStage g.bay g.q g.p i fun s => { s with outb := padLine s.outb }).stagePut g.bay g.q g.p i
      | none => d
    d.gutterEnd e c .ok 0 .own
  else d.setGutter c { g with desc := gNext g.d, index := g.index + 1, fetched := false, crcMode := gMode g.d, hostWrote := false, sent := [], before := g.before ++ [g.d] }

/-- A descriptor whose bytes have all been written ends: its CRC is stored and checked, its Spar pulsed (R384, R385). -/
def Dev.gutterDone (d : Dev) (e : Env) (c : Nat) : Dev :=
  let g := d.gutter c
  let x := g.d
  -- the records of the chain need room before it may end (R541)
  if gNext x = 0 && !(d.crcRoom c (b2n (gMode x != 0))) then d
  else if gMode x = 0 then (d.pulse e g.bay (gSpar x)).gutterNext e c
  else match d.writeRange e (.gutter c) g.bay g.space (g.desc + 0x30) (leBytes 8 g.crc) false with
    | (.wait, d) => d
    | (.done, d) =>
      if gMode x = 2 && g.crc != gWant x then
        (d.count (0x2510 + g.bay) 9 1).gutterErr e c .integrity 3 g.desc 0 0
      else
        let d := d.setGutter c { d.gutter c with crcs := (d.gutter c).crcs ++ [(gDst x, gRows x * gDstLen x, g.crc)] }
        (d.pulse e g.bay (gSpar x)).gutterNext e c
    | (m, d) => d.accFail e (.gutter c) g.bay g.space (g.desc + 0x30) true 1 m

/-- A stage whose predecessor has ended and whose input ring is empty ends (R417). -/
def Dev.gutterDry (d : Dev) (e : Env) (c : Nat) : Dev :=
  let g := d.gutter c
  match g.stage with
  | some i =>
    if g.st == .running && ((d.chainOf g.bay g.q g.p).map fun h => h.dry i).getD false &&
       ((d.stageOf g.bay g.q g.p i).map fun s => Nat.blt s.inb.length (gLen g.d)).getD false then
      ((d.modStage g.bay g.q g.p i fun s => { s with outb := padLine s.outb }).stagePut g.bay g.q g.p i).gutterEnd e c .ok 0 .own
    else d
  | none => d

/-- The descriptor's data moves as far as it can, and where all of it has, the descriptor ends (R377, R385). -/
def Dev.gutterRun (d : Dev) (e : Env) (c : Nat) (ecc : Bool) : Dev :=
  let g := d.gutter c
  if g.st != .running || !g.fetched then d else
  let d := d.gutterMove e c ecc (gRows g.d * (gDstLen g.d / 64 + 3))
  let g := d.gutter c
  if g.st == .running && gRows g.d ≤ g.row then d.gutterDone e c else d.gutterDry e c

/-- A GUTTER command, or a stage of a chain, starts a channel (R386, R394). -/
def Dev.gutterStart (d : Dev) (c n q : Nat) (p : W32) (space desc : Nat) (stage : Option Nat) : Dev :=
  d.setGutter c { st := .running, bay := n, q := q, p := p, space := space, desc := desc, stage := stage, addr := (d.gutter c).addr }

/-- GT_STAT of a channel (Table — Gutter status block). -/
def Dev.gtStat (d : Dev) (c : Nat) : Nat :=
  let g := d.gutter c
  let own := bays16.find? fun n => (d.bay n).held.hasGutter c
  (match g.st with | .idle => 0 | .running => 1 | .halted => 2 | .error => 3) + 256 * g.status + 65536 * g.cause +
    2 ^ 24 * g.dir + 2 ^ 26 * own.getD 0 + 2 ^ 30 * b2n own.isSome + 2 ^ 31 * b2n g.jobOpen

/-- GT_POS of a channel: the first source byte not yet applied, the row, the descriptor's index (R394). -/
def Gutter.pos (g : Gutter) : Nat := (8 * g.off / gWd g.d * gWs g.d / 8) % 2 ^ 32 + 2 ^ 32 * (g.row % 65536) + 2 ^ 48 * (g.index % 65536)

/-- A channel goes back to the first byte of its descriptor; the ring bytes that its stage has used are its input again (R261, R389). -/
def Dev.gutterBack (d : Dev) (c crc : Nat) : Dev :=
  let g := d.gutter c
  let d := d.setGutter c { g with row := 0, off := 0, crc := crc, hostWrote := false, sent := [] }
  match g.stage with
  | some (i + 1) => d.modStage g.bay g.q g.p (i + 1) fun s => { s with inb := g.sent ++ s.inb }
  | _ => d

/-- A gt_action write: RESTART runs the failing descriptor again from its first byte, ABORT ends the chain (R389). -/
def Dev.gtAction (d : Dev) (e : Env) (n v : Nat) : Status × Dev :=
  let c := d.gtSel n
  let g := d.gutter c
  if v != 1 && v != 2 then (.range, d)
  else if !((d.bay n).held.hasGutter c) then (.access, d)
  else if g.st != .error then (.state, d)
  else if v = 1 then
    (.ok, (d.setGutter c { g with st := .running, fetched := false }).gutterBack c (if g.fetched then g.crc0 else g.crc))
  else (.ok, d.gutterEnd e c (match g.status with
      | 1 => .state | 2 => .range | 3 => .access | 4 => .format | 5 => .fault | 6 => .gone | 10 => .timeout | _ => .integrity) g.detail .noted)

end Sys2Proof.Machine
end

