-- ==== Sys2Proof/Machine/Courses.lean ====
section
/-! DEFINITION. Courses: block lists, resources and admission, streaming, passes and re-arms (R396 to R424). -/
namespace Sys2Proof.Machine

/-- The Course that cs_select names; by default the first the Bay holds (R424). -/
def Dev.csSel (d : Dev) (n : Nat) : Nat := if d.od (0x2610 + n) 1 < 0x10000 then d.od (0x2610 + n) 1 else (d.bay n).held.course.base

/-! ### Resources (R401) -/

/-- Usable host-link bandwidth per direction [MB/s] (R163); 0 unless the link is UP. -/
def Dev.linkBw (d : Dev) : Nat :=
  if d.link.st != .up then 0 else
  (match d.link.rate with | 64 => 112000 | 32 => 56000 | 16 => 28000 | _ => 0) * d.link.width / 16

/-- The nominal capacity of a resource [MB/s]. -/
def Dev.resNominal (d : Dev) (r : Nat) : Nat :=
  if r = 0 then 12000000 else if r ≤ 2 then d.linkBw else if r ≤ 26 then 95000 else 1500000

/-- The derated capacity from the present state (R401). -/
def Dev.resDerate (d : Dev) (r : Nat) : Nat :=
  if r = 0 then
    let refresh := if (List.range 8).any fun s => 85 * 8 < smGet 0 d.board.hbmTemp s then 70000 else 35000
    12000000 * (1000000 - refresh - 10000 - d.board.eccRetryPpm) * (16 - d.board.throttled.length) / 16000000
  else if r ≤ 2 then d.linkBw
  else if r ≤ 26 then (if (d.port ((r - 3) % 12)).st == .inService then 95000 else 0)
  else 1500000 * d.eff (288 + (r - 27) / 4) / 256

/-- The latency bound of a resource [ns]. -/
def resLatency (r : Nat) : Nat := if r = 0 then 2000 else if r ≤ 2 then 6000 else if r ≤ 26 then 8000 else 500

/-- The class of bandwidth ceiling of a resource: HBM, host link, fabric, Loft (R402). -/
def resClass (r : Nat) : Nat := if r = 0 then 0 else if r ≤ 2 then 1 else if r ≤ 26 then 2 else 3

/-- Every load admitted, with the Bay it is admitted for. -/
def Dev.allLoads (d : Dev) : List (Nat × Nat × Nat) :=
  (d.courses.map fun c => c.2.loads.map fun l => (c.2.bay, l.1, l.2)).flatten ++
  ((d.chains ++ d.prepared).map fun c => c.loads.map fun l => (c.bay, l.1, l.2)).flatten

/-- The sum of the loads admitted on a resource: A (R402). -/
def Dev.resAdmitted (d : Dev) (r : Nat) : Nat := ((d.allLoads.filter fun l => l.2.1 == r).map fun l => l.2.2).sum

/-- The Bay's admitted total in a class (R139, R424). -/
def Dev.bayAdmitted (d : Dev) (n k : Nat) : Nat := ((d.allLoads.filter fun l => l.1 == n && resClass l.2.1 == k).map fun l => l.2.2).sum

/-- The load that some loads put on a resource. -/
def loadOn (ls : List (Nat × Nat)) (r : Nat) : Nat := ((ls.filter fun l => l.1 == r).map fun l => l.2).sum

/-- Checks 1 and 2 of admission (R402). -/
def Dev.admits (d : Dev) (n : Nat) (ls : List (Nat × Nat)) : Bool :=
  (ls.all fun l => d.resAdmitted l.1 + loadOn ls l.1 ≤ (d.arb l.1).derated * 85 / 100) &&
  ([0, 1, 2, 3].all fun k =>
    let t := ((ls.filter fun l => resClass l.1 == k).map fun l => l.2).sum
    t = 0 || d.bayAdmitted n k + t ≤ d.od (0x2100 + n) (0x16 + k))

/-- Check 3 of admission: the ring covers the latency of the resources loaded (R402). -/
def ringDeep (depth rate : Nat) (ls : List (Nat × Nat)) : Bool :=
  let l := ((ls.filter fun l => resClass l.1 != 3).map fun l => resLatency l.1).foldl max 0
  rate * l ≤ depth * 1000 && 8192 ≤ depth

/-- The Loft bank of an LPA, as a resource (R401, R427). -/
def bankRes (a : Nat) : Nat := 27 + (a - 0x10000000000) / 0xC00000

def inLoft (a : Nat) : Bool := 0x10000000000 ≤ a && a < 0x10018000000

/-! ### Block lists (R396, R397) -/

def cCount (h : List Byte) : Nat := fld h 0 4
def cOut (h : List Byte) : Bool := fld h 4 1 == 1
def cRes (h : List Byte) : Nat := fld h 5 1
def cPort (h : List Byte) : Nat := fld h 6 1
def cLog (h : List Byte) : Nat := fld h 7 1
def cRing (h : List Byte) : Nat := fld h 8 8
def cRate (h : List Byte) : Nat := fld h 0x10 4
def cPasses (h : List Byte) : Nat := fld h 0x14 2
def cRearm (h : List Byte) : Nat := fld h 0x16 2
def cEnd (h : List Byte) : Nat := fld h 0x18 2

/-- What is wrong with a header: format first, then ranges, then objects the Bay does not hold, each by offset (R397, R351). -/
def Dev.hdrBad (d : Dev) (n : Nat) (h : List Byte) : Option (Status × Nat) :=
  match firstBad [(cRes h != 2 && cPort h != 0, 6),
      (!dvaOk (cRing h) || (12 ≤ cLog h && cLog h ≤ 24 && cRing h % 2 ^ cLog h != 0), 8)] with
  | some o => some (.format, o)
  | none => match firstNonZero h 0x1A 38 with
    | some o => some (.format, o)
    | none => match firstBad [(cCount h = 0 || 0x1000000 < cCount h, 0), (1 < fld h 4 1, 4), (3 < cRes h, 5),
        (cRes h = 2 && 11 < cPort h, 6), (cLog h < 12 || 24 < cLog h, 7), (cRate h = 0 || 1500000 < cRate h, 0x10),
        (cPasses h = 0 || (cPasses h != 1 && cRearm h = 0xFFFF), 0x14),
        (cRearm h != 0xFFFF && 4095 < cRearm h, 0x16), (cEnd h != 0xFFFF && 4095 < cEnd h, 0x18)] with
      | some o => some (.range, o)
      | none => (firstBad [(cRearm h != 0xFFFF && !(d.bay n).held.spar.has (cRearm h), 0x16),
          (cEnd h != 0xFFFF && !(d.bay n).held.spar.has (cEnd h), 0x18)]).map fun o => (.access, o)

def eDva (x : List Byte) : Nat := fld x 0 8
def eLen (x : List Byte) : Nat := fld x 8 4
def eReps (x : List Byte) : Nat := fld x 0xC 2
def eStride (x : List Byte) : Nat := fld x 0x10 4

/-- What is wrong with an entry (R397). -/
def entryBad (x : List Byte) : Option (Status × Nat) :=
  match firstBad [(!dvaOk (eDva x) || eDva x % 64 != 0, 0), (eLen x % 64 != 0, 8), (eStride x % 64 != 0, 0x10)] with
  | some o => some (.format, o)
  | none => match (firstNonZero x 0xE 2).orElse fun _ => firstNonZero x 0x14 12 with
    | some o => some (.format, o)
    | none => (firstBad [(eLen x = 0 || 0x40000000 < eLen x, 8), (eReps x = 0, 0xC)]).map fun o => (.range, o)

/-- The entries of a burst. -/
def entriesOf (bs : List Byte) : List (List Byte) := (List.range (bs.length / 32)).map fun i => (bs.drop (32 * i)).take 32

/-- The LPAs of a ring's pages, which must be Loft bytes that the Bay holds: `none` while a walk is under way, a failure where
a page is not (R396). -/
def Dev.ringPages (d : Dev) (w : Who) (n s dva log : Nat) (write : Bool) : Option (Option (List Nat)) × Dev :=
  let r := (List.range (2 ^ log / 4096)).foldl (fun (c : List Tr × Dev) i =>
    let t := c.2.translate w n s (dva + 4096 * i) write
    (c.1 ++ [t.1], t.2)) (([], d) : List Tr × Dev)
  if r.1.any (· == .miss) then (none, r.2)
  else
    let l := r.1.filterMap fun t => match t with
      | .loc a => if inLoft a && r.2.reach n a 4096 write == .ok then some a else none
      | _ => none
    (some (if l.length = r.1.length then some l else none), r.2)

/-- What reading a block list has come to. -/
inductive Prep where
  | wait
  | bad (st : Status) (off : Nat)
  | failed (dva : Nat) (m : Mv)
  | ok
deriving DecidableEq, Repr

/-- A read of a structure, as a Prep or its bytes. -/
def Dev.readPrep (d : Dev) (e : Env) (w : Who) (n s dva len : Nat) : (List Byte ⊕ Prep) × Dev :=
  match d.readRange e w n s dva len with
  | (.got bs false, d) => (.inl bs, d)
  | (.got _ true, d) => (.inr (.failed dva (.fail .fault)), d)
  | (.wait, d) => (.inr .wait, d)
  | (m, d) => (.inr (.failed dva m), d)

/-- The header, the first burst and the ring's pages are read and judged (R396 to R399). -/
def Dev.courseLoad (d : Dev) (e : Env) (c n s list : Nat) : Prep × Dev :=
  if !dvaOk list then (.bad .format 0x10, d) else
  let x := d.course c
  let hd : (List Byte ⊕ Prep) × Dev := if x.hdr.isEmpty then d.readPrep e (.course c) n s list 64 else (.inl x.hdr, d)
  match hd with
  | (.inr p, d) => (p, d)
  | (.inl h, d) =>
    match d.hdrBad n h with
    | some (st, o) => (.bad st o, d)
    | none =>
      let d := d.setCourse c { d.course c with hdr := h }
      let en : (List Byte ⊕ Prep) × Dev :=
        if x.entries.isEmpty then d.readPrep e (.course c) n s (list + 64) (32 * min 64 (cCount h)) else (.inl x.entries.flatten, d)
      match en with
      | (.inr p, d) => (p, d)
      | (.inl bs, d) =>
        match (entriesOf bs).findSome? entryBad with
        | some (st, o) => (.bad st o, d)
        | none =>
          let d := d.setCourse c { d.course c with entries := entriesOf bs }
          match d.ringPages (.course c) n s (cRing h) (cLog h) (!cOut h) with
          | (none, d) => (.wait, d)
          | (some none, d) => (.bad .format 8, d)
          | (some (some l), d) => (.ok, d.setCourse c { d.course c with pages := l })

/-- The memory resource of a block list: HBM, the host link, a Purlin port, or the Loft bank of its first entry, else the
ring's (R401, R402). -/
def Dev.courseRes (d : Dev) (x : Course) (n s : Nat) : Nat :=
  let out := b2n (cOut x.hdr)
  match cRes x.hdr with
  | 0 => 0
  | 1 => 1 + out
  | 2 => 3 + 12 * out + cPort x.hdr
  | _ =>
    let first := match x.entries with | en :: _ => eDva en | [] => 0
    match d.lookup (.sky 16) n s first (cOut x.hdr) with
    | (some t, _) => match d.trOf t first with
      | .loc a => if inLoft a then bankRes a else bankRes (x.pages.headD 0)
      | _ => bankRes (x.pages.headD 0)
    | (none, _) => bankRes (x.pages.headD 0)

/-- The loads a Course asks for (Table — Course loads). -/
def Dev.courseLoads (d : Dev) (c n s : Nat) : List (Nat × Nat) :=
  let x := d.course c
  [(d.courseRes x n s, cRate x.hdr), (bankRes (x.pages.headD 0), 2 * cRate x.hdr)]

/-- Admission is asked for a Course that has been loaded (R402, R403). -/
def Dev.courseAdmit (d : Dev) (c n s : Nat) : Bool × Dev :=
  let x := d.course c
  let ls := d.courseLoads c n s
  if d.admits n ls && ringDeep (2 ^ cLog x.hdr) (cRate x.hdr) ls then (true, d.setCourse c { x with loads := ls, admitted := true })
  else (false, d)

/-- The place of a Course that is prepared or started now (R399). -/
def Dev.nextOrd (d : Dev) : Nat := (d.courses.map fun c => c.2.ord).foldl max 0 + 1

/-- A Course that has been loaded and admitted is PREPARED (R399, R409). -/
def Dev.courseReady (d : Dev) (e : Env) (c : Nat) : Dev :=
  let d := d.setCourse c { d.course c with
    st := .prepared
    admitted := true
    entry := 0
    rep := 0
    line := 0
    placed := 0
    released := 0
    pass := 0
    cause := 0
    status := 0
    stage := none
    ord := d.nextOrd }
  d.courseStall e c 7

/-- A fetched COURSE command is prepared: its Course, still IDLE, is loaded and admission asked; what fails leaves it
unprepared, to be judged at its start (R357, R399, R403). -/
def Dev.coursePrepare (d : Dev) (e : Env) (n q : Nat) (k : Cmd) : Dev :=
  let c := k.f 8 2
  let x := d.course c
  if x.st != .idle then d else
  let mine := x.bay == n && x.q == q && x.p == k.pos && x.list == k.f 0x10 8
  let d := if mine && !x.hdr.isEmpty then d else
    d.setCourse c { x with bay := n, q := q, p := k.pos, space := k.space, list := k.f 0x10 8, hdr := [], entries := [], pages := [] }
  match d.courseLoad e c n k.space (k.f 0x10 8) with
  | (.ok, d) => match d.courseAdmit c n k.space with
    | (true, d) => d.courseReady e c
    | (false, d) => d
  | (_, d) => d

/-! ### Streaming (R397 to R400, R404, R408, R410) -/

/-- The resource that an access of a Course reaches is not the one its header declares (R404). -/
def Dev.courseStray (d : Dev) (x : Course) (dva : Nat) : Bool :=
  match d.lookup (.sky 16) x.bay x.space dva (cOut x.hdr) with
  | (some t, _) => match d.trOf t dva with
    | .loc a => if inHbm a then cRes x.hdr != 0 else cRes x.hdr != 3
    | .host _ _ _ _ _ => cRes x.hdr != 1
    | .fab a => cRes x.hdr != 2 || d.routePort d.fabId (a / 2 ^ 48) != some (cPort x.hdr)
    | .miss => false
  | (none, _) => false

/-- The ring of a Course: of its stage, or its own with an implicit partner (DESIGN CHOICE, log entry 18). -/
def Dev.courseRing (d : Dev) (x : Course) : Ring :=
  match x.stage.bind fun i => if cOut x.hdr then (d.chainOf x.bay x.q x.p).bind fun c => c.inRing i else (d.stageOf x.bay x.q x.p i).bind (·.ring) with
  | some r => r
  | none => { pages := x.pages, log := cLog x.hdr, put := x.placed, rel := x.released }

/-! ### Arbitration (R401, R406, R407, R418) -/

/-- The resource that an access reaches; none where it does not translate yet (R401). -/
def Dev.resOf (d : Dev) (n s dva : Nat) (write : Bool) : Option Nat :=
  match d.lookup (.sky 16) n s dva write with
  | (some t, _) => match d.trOf t dva with
    | .loc a => if inLoft a then some (bankRes a) else some 0
    | .host _ _ _ _ _ => some (1 + b2n write)
    | .fab a => (d.routePort d.fabId (a / 2 ^ 48)).map (3 + 12 * b2n write + ·)
    | .miss => none
  | (none, _) => none

/-- A Course has a request for memory: room in its ring (in), or a line in it (out) (R400). -/
def Dev.courseAsks (d : Dev) (x : Course) : Bool :=
  x.admitted && Nat.blt x.entry (cCount x.hdr) && (let g := d.courseRing x; if cOut x.hdr then 64 ≤ g.fill else 64 ≤ g.room)

/-- Its deadline, from now (R406). -/
def Dev.courseDue (d : Dev) (x : Course) : Nat :=
  let g := d.courseRing x
  (if cOut x.hdr then g.room else g.fill) * 1000 / cRate x.hdr

/-- A RUNNING Course has a request waiting at a resource (R406). -/
def Dev.waitsAt (d : Dev) (r : Nat) (x : Course) : Bool := x.st == .running && d.courseAsks x && d.courseRes x x.bay x.space == r

/-- The rates of the stages of a chain: a stage whose rate is 0 has that of its input (R414, R416). -/
def Dev.stageRates (d : Dev) (ss : List Stage) : List Nat :=
  (ss.foldl (fun (c : Nat × List Nat) s =>
    let r := if s.kind = 1 then cRate (d.course s.obj).hdr else if s.rate = 0 then c.1 else s.rate
    (r, c.2 ++ [r])) ((0, []) : Nat × List Nat)).2

/-- The stage that a channel runs carries the reservation of this Course (R416). -/
def Dev.reservedBy (d : Dev) (g : Gutter) : Option Nat :=
  (g.stage.bind fun i => d.stageOf g.bay g.q g.p i).bind fun s => if s.res = 0xFFFF then none else some s.res

/-- The deadline, from now, of a stage that carries a reservation: that of an in-Course by its output ring, of an out-Course by its
input ring (R406, R416). -/
def Dev.stageDue (d : Dev) (g : Gutter) : Nat :=
  match g.stage, d.chainOf g.bay g.q g.p with
  | some i, some h =>
    let rate := (d.stageRates h.stages).getD i 1
    (match (h.stages[i]?).bind (·.ring), h.inRing i with | some r, _ => r.fill | none, some r => r.room | none, none => 0) * 1000 / rate
  | _, _ => 0

/-- The place of a requester in the service of an arbiter: RUNNING Courses and stages that carry a reservation by deadline, then by
number; best-effort traffic behind them, by the island of its requester (R406, R418). -/
def Dev.serviceKey (d : Dev) (w : Who) : Nat :=
  match w with
  | .course c => let x := d.course c; if x.st == .running then 1024 * d.courseDue x + c else 2 ^ 64 + w.island
  | .gutter c => match d.reservedBy (d.gutter c) with
    | some k => 1024 * d.stageDue (d.gutter c) + k
    | none => 2 ^ 64 + w.island
  | _ => 2 ^ 64 + w.island

/-- The addresses, read and written, of the present row of a channel (R377). -/
def Gutter.here (g : Gutter) : Nat × Nat := (gSrc g.d + g.row * gSrcStride g.d, gDst g.d + g.row * gDstStride g.d + g.off)

/-- A channel has a request waiting at a resource. -/
def Dev.gutterAt (d : Dev) (r : Nat) (g : Gutter) : Bool :=
  g.st == .running && g.fetched && Nat.blt g.row (gRows g.d) &&
  (d.resOf g.bay g.space g.here.1 false == some r || d.resOf g.bay g.space g.here.2 true == some r)

/-- The Bays that have a request waiting at a resource (R407). -/
def Dev.baysAt (d : Dev) (r : Nat) : List Nat :=
  let cs := (d.courses.filter fun c => (c.2.st == .running || c.2.st == .prepared) && d.courseAsks c.2 && d.courseRes c.2 c.2.bay c.2.space == r).map (·.2.bay)
  let gs := (d.gutters.filter fun g => d.gutterAt r g.2).map (·.2.bay)
  bays16.filter fun n => cs.contains n || gs.contains n

/-- A request waiting at a resource is due within the resource's latency: a projected miss (R407). -/
def Dev.projectsMiss (d : Dev) (r : Nat) (x : Course) : Bool := d.waitsAt r x && Nat.blt (d.courseDue x) (resLatency r)

/-- The projected misses of the requests that a resource holds are judged: it serves proportionally from then on (R407). -/
def Dev.arbJudge (d : Dev) (e : Env) (r : Nat) : Dev :=
  let a := d.arb r
  if !(d.courses.any fun c => d.projectsMiss r c.2) then d
  else if a.proportional then d.setArb r { a with lastMiss := e.time }
  else
    let d := d.setArb r { a with proportional := true, lastMiss := e.time, switches := a.switches + 1 }
    (d.baysAt r).foldl (fun d n => (d.count (0x2610 + n) 0x14 1).raiseBay n 4) d

/-- One resource is recomputed: its derated capacity, and the projected misses of the requests it holds (R401, R407). -/
def Dev.arbStep (d : Dev) (e : Env) (r : Nat) : Dev := (d.setArb r { d.arb r with derated := d.resDerate r }).arbJudge e r

/-- Best-effort traffic is granted nothing at a resource in proportional service at which a Course's request waits (R407). -/
def Dev.starved (d : Dev) (r : Option Nat) : Bool :=
  match r with
  | some r => (d.arb r).proportional && d.courses.any fun c => d.waitsAt r c.2
  | none => false

/-- A ring that overlaps the ring of an earlier Course of the Bay waits until that Course is IDLE (R399). -/
def Dev.ringBehind (d : Dev) (c : Nat) (x : Course) : Bool :=
  d.courses.any fun y => y.1 != c && y.2.bay == x.bay && y.2.st != .idle && y.2.ord < x.ord && y.2.pages.any x.pages.contains

/-- A line is placed in the ring of an in-Course (R397, R400). -/
def Dev.coursePlace (d : Dev) (c : Nat) (bs : List Byte) : Dev :=
  let x := d.course c
  let r := d.courseRing x
  let d := (d.ringWrite r bs).setCourse c { x with
    placed := x.placed + 64
    -- the implicit partner of a Course that stands alone takes a line as it is placed, once the Course runs
    released := if x.stage.isNone && x.st == .running then x.placed + 64 else x.released }
  match x.stage with
  | some i => d.modStage x.bay x.q x.p i fun s => { s with ring := some { r with put := r.put + 64 } }
  | none => d

/-- The Course moves to its next line (R397). -/
def Course.advance (x : Course) : Course :=
  match x.entries with
  | [] => x
  | en :: rest =>
    if 64 * (x.line + 1) < eLen en then { x with line := x.line + 1 }
    else if x.rep + 1 < eReps en then { x with line := 0, rep := x.rep + 1 }
    else { x with line := 0, rep := 0, entry := x.entry + 1, entries := rest, sent := [], hostWrote := false }

/-- The stall cause of a Course that waits at its memory resource (R408). -/
def Dev.resStall (d : Dev) (x : Course) : Nat := if (d.arb (d.courseRes x x.bay x.space)).proportional then 4 else 5

/-- The next line of a Course moves. True where it did. -/
def Dev.courseLine (d : Dev) (e : Env) (c : Nat) (ecc : Bool) : Bool × Dev :=
  let x := d.course c
  match x.entries with
  | [] => (false, d.courseStall e c 3)
  | en :: _ =>
    let dva := eDva en + x.rep * eStride en + 64 * x.line
    let r := d.courseRing x
    let stray := d.courseStray x dva
    -- what a RUNNING Course asks of its own resource may be due too soon (R407)
    let d := if x.st == .running && d.projectsMiss (d.courseRes x x.bay x.space) x then d.arbJudge e (d.courseRes x x.bay x.space) else d
    if x.st == .prepared && (d.ringBehind c x || d.starved (some (d.courseRes x x.bay x.space))) then (false, d.courseStall e c 7)
    else if x.st == .running && stray && d.starved (d.resOf x.bay x.space dva (cOut x.hdr)) then (false, d.courseStall e c 4)
    else if (d.ringGate r).isSome then
      (false, match d.ringGate r with | some .gone => if x.st == .running then d.courseErr e c .gone dva 0 else d | _ => d)
    else if cOut x.hdr then
      -- a line of the ring goes to memory
      let feed : Bool × List Byte × Dev := if !x.again.isEmpty then (true, x.again.take 64, d) else match x.stage with
        | some i =>
          let f := d.stageFeed e x.bay x.q x.p i 64
          (f.1, (((f.2.stageOf x.bay x.q x.p i).map (·.inb)).getD []).take 64, f.2)
        | none => let b := d.ringRead e r x.released 64; (!b.2, b.1, if b.2 then d.courseErr e c .integrity dva 0 else d)
      if !feed.1 then (false, if (feed.2.2.course c).st == .running then feed.2.2.courseStall e c 6 else feed.2.2)
      else
        let d := feed.2.2
        match d.writeRange e (.course c) x.bay x.space dva feed.2.1 false with
        | (.done, d) =>
          let d := if stray then d.count (0x2610 + x.bay) 0x15 1 else d
          let y := { d.course c with sent := (d.course c).sent ++ feed.2.1 }
          if !x.again.isEmpty then (true, d.setCourse c ({ y with again := y.again.drop 64 } : Course).advance) else
          let d := match x.stage with
            | some i => d.modStage x.bay x.q x.p i fun s => { s with inb := s.inb.drop 64 }
            | none => d
          (true, d.setCourse c { (y.advance) with placed := y.placed + 64, released := y.released + 64 })
        | (.wait, d) => (false, d.courseStall e c (d.resStall x))
        | (m, d) => (false, d.accFail e (.course c) x.bay x.space dva true 1 m)
    else if r.room < 64 then (false, d.courseStall e c (if x.st == .prepared then 7 else 6))
    else
      match d.readRange e (.course c) x.bay x.space dva 64 with
      | (.got bs p, d) =>
        if p || !ecc then
          let d := d.demandErr ecc (.course c) x.bay x.space dva
          (false, if x.st == .running then d.courseErr e c .integrity dva 0 else d)
        else
          let d := if stray then d.count (0x2610 + x.bay) 0x15 1 else d
          let d := d.coursePlace c bs
          (true, d.setCourse c (d.course c).advance)
      | (.wait, d) => (false, d.courseStall e c (if x.st == .prepared then 7 else d.resStall x))
      | (m, d) =>
        -- what a prefetch cannot read is left for the start (R399, R409)
        (false, if x.st == .running then d.accFail e (.course c) x.bay x.space dva false 0 m else d)

/-- Lines move until the list is through or the Course has to wait. -/
def Dev.courseMove (d : Dev) (e : Env) (c : Nat) (ecc : Bool) : Nat → Dev
  | 0 => d
  | f + 1 =>
    let x := d.course c
    -- an out-Course that is only PREPARED writes nothing yet (R399)
    if !(x.st == .running || (x.st == .prepared && !(cOut x.hdr))) || cCount x.hdr ≤ x.entry then d else
    match d.courseLine e c ecc with
    | (true, d) => d.courseMove e c true f
    | (false, d) => d

/-- Lines that the fetched entries hold: a bound on what one command moves. -/
def Course.linesLeft (x : Course) : Nat := (x.entries.map fun en => eReps en * (eLen en / 64)).sum

/-- A pass whose lines have all moved ends: for an in-Course, once every byte has been released (R410, R411, R420). -/
def Dev.coursePass (d : Dev) (e : Env) (c : Nat) : Dev :=
  let x := d.course c
  let r := d.courseRing x
  if x.st != .running || x.hdr.isEmpty || x.entry < cCount x.hdr || (!cOut x.hdr && r.fill != 0) then d else
  if cPasses x.hdr ≤ x.pass then (d.courseEnd e c .ok 0 0 0 .own).pulse e x.bay (cEnd x.hdr)
  else (d.setCourse c (x.passEnd e.time)).pulse e x.bay (cEnd x.hdr)

/-- A Course streams as far as it can, and ends its pass where all of it is through. -/
def Dev.courseRun (d : Dev) (e : Env) (c : Nat) (ecc : Bool) : Dev :=
  let x := d.course c
  if x.hdr.isEmpty || !x.admitted then d else
  -- the implicit partner of a Course that stands alone takes what was prefetched
  let d := if x.st == .running && x.stage.isNone then d.setCourse c { x with released := x.placed } else d
  let d := d.courseMove e c ecc (x.linesLeft + 1)
  -- a last out-Course whose input has run dry ends (R417)
  let x := d.course c
  match x.stage with
  | some i =>
    if cOut x.hdr && x.st == .running && ((d.chainOf x.bay x.q x.p).map fun h => h.dry i).getD false &&
       (((d.stageOf x.bay x.q x.p i).map fun s => s.inb.isEmpty).getD false) && x.entry < cCount x.hdr then
      d.courseEnd e c .ok 0 0 0 .own
    else d.coursePass e c
  | none => d.coursePass e c

/-- A burst of entries returns (R398); a Course that is PREPARED fills its ring ahead (R399). -/
def Dev.courseBurst (d : Dev) (e : Env) (c : Nat) (ecc : Bool) : Dev :=
  let x := d.course c
  if (x.st != .running && x.st != .prepared) || x.hdr.isEmpty then d else
  let at_ := x.entry + x.entries.length
  let d := if cCount x.hdr ≤ at_ || 16 < x.entries.length then d
    else if !ecc then
      let d := d.demandErr ecc (.course c) x.bay x.space (x.list + 64 + 32 * at_)
      if x.st == .running then d.courseErr e c .fault (x.list + 64 + 32 * at_) 0 else d
    else match d.readPrep e (.course c) x.bay x.space (x.list + 64 + 32 * at_) (32 * min 64 (cCount x.hdr - at_)) with
      | (.inl bs, d) => match (entriesOf bs).findSome? entryBad with
        | some (st, o) => if x.st == .running then d.courseEnd e c st 0 0 o .own else d
        | none => d.setCourse c { d.course c with entries := (d.course c).entries ++ entriesOf bs }
      | (.inr (.failed a (.fail _)), d) => if x.st == .running then d.courseErr e c .fault a 0 else d
      | (.inr (.failed a m), d) =>
        if x.st == .running then
          (d.setCourse c { d.course c with burstAt := some at_ }).accFail e (.course c) x.bay x.space a false 2 m
        else d
      | (.inr _, d) => d
  if (d.course c).st == .prepared && !(cOut x.hdr) then d.courseMove e c true ((d.course c).linesLeft + 1) else d

/-- A Course begins: its list loaded, its loads admitted (R403, R409). -/
def Dev.courseBegin (d : Dev) (e : Env) (c : Nat) : Dev :=
  let x := d.course c
  match d.courseLoad e c x.bay x.space x.list with
  | (.wait, d) => d
  | (.bad st o, d) => d.courseEnd e c st 0 0 o .own
  | (.failed a (.fail _), d) => d.courseErr e c .fault a 0
  | (.failed a m, d) => (d.setCourse c { d.course c with burstAt := some 0 }).accFail e (.course c) x.bay x.space a false 2 m
  | (.ok, d) => match d.courseAdmit c x.bay x.space with
    | (true, d) => d.courseStall e c 0
    | (false, d) => d.courseEnd e c .quota 0 0 0 .own

/-- COURSE (R409): the Course starts, or completes with `STATE` where it may not (R367, R399, R403). -/
def Dev.courseCmd (d : Dev) (e : Env) (n q : Nat) (p : W32) : Dev :=
  match d.startedCmd n q p 0x11 with
  | none => d
  | some k =>
    let c := k.f 8 2
    let x := d.course c
    let mine := x.bay == n && x.q == q && x.p == p
    if x.st == .prepared && mine then
      (d.setCourse c { x with st := .running, pass := 1, burstAt := none }).courseStall e c 0
    else if x.st == .running && mine && !x.admitted then d.courseBegin e c
    else if x.st == .idle then
      let d := d.setCourse c { x with
        st := .running
        bay := n
        q := q
        p := p
        space := k.space
        list := k.f 0x10 8
        hdr := []
        entries := []
        pages := []
        entry := 0
        rep := 0
        line := 0
        placed := 0
        released := 0
        pass := 1
        cause := 0
        status := 0
        latched := false
        stage := none
        burstAt := none
        admitted := false
        trigs := 0
        ord := d.nextOrd }
      d.courseBegin e c
    else if mine then d
    else d.stateCmd e n q p c

/-- CS_STAT of a Course (Table — Course status block). -/
def Dev.csStat (d : Dev) (c : Nat) : Nat :=
  let x := d.course c
  let own := (d.holder (·.course) c).getD 0
  (match x.st with | .idle => 0 | .prepared => 1 | .running => 2 | .halted => 3 | .rearmWait => 4) + 256 * x.status +
    65536 * x.cause + 2 ^ 24 * x.stall + 2 ^ 28 * own

/-- CS_POS of a Course. -/
def Course.pos (x : Course) : Nat :=
  match x.burstAt with
  | some k => if x.st == .halted then k % 2 ^ 24 else x.entry % 2 ^ 24 + 2 ^ 24 * (x.rep % 65536) + 2 ^ 40 * (x.line % 2 ^ 24)
  | none => x.entry % 2 ^ 24 + 2 ^ 24 * (x.rep % 65536) + 2 ^ 40 * (x.line % 2 ^ 24)

/-- A stall counter of a Course as read: the cause that lasts counts up to the present tick (R408). -/
def Course.stallNs (x : Course) (time k : Nat) : Nat := smGet 0 x.stalls k + if x.stall = k then time - x.since else 0

/-- The data of a channel moves, unless its traffic is best-effort and the arbiter grants it nothing (R377, R407). -/
def Dev.gutterServed (d : Dev) (e : Env) (c : Nat) (ecc : Bool) : Dev :=
  let g := d.gutter c
  if g.st == .running && g.fetched && (d.reservedBy g).isNone &&
     (d.starved (d.resOf g.bay g.space g.here.1 false) || d.starved (d.resOf g.bay g.space g.here.2 true)) then d
  else d.gutterRun e c ecc

/-- The requester that a row of an arbiter serves, and what it does for it. -/
def Instr.service : Instr → Option (Who × (Env → Dev → Dev))
  | .descriptorEnd c ecc => some (.gutter c, fun e d => d.gutterServed e c ecc)
  | .coursePassEnd c ecc => some (.course c, fun e d => d.courseRun e c ecc)
  | .blockListBurstReturn c ecc => some (.course c, fun e d => d.courseBurst e c ecc)
  | _ => none

/-- A key put in its place in a rising list; equal keys keep their order. -/
def keyIns {α : Type} (k : Nat) (x : α) : List (Nat × α) → List (Nat × α)
  | [] => [(k, x)]
  | y :: l => if k < y.1 then (k, x) :: y :: l else y :: keyIns k x l

/-- The requesters of this tick that an arbiter serves before this one are served (R406, R418; log entry 60). -/
def Dev.leadService (d : Dev) (e : Env) (w : Who) : Dev :=
  let l := e.tick.filterMap fun c => if d.ahead.contains c then none else (Instr.service c).map fun s => (d.serviceKey s.1, c, s.2)
  let l := (l.filter fun x => Nat.blt x.1 (d.serviceKey w)).foldl (fun r x => keyIns x.1 x.2 r) []
  l.foldl (fun d x => { x.2.2 e d with ahead := x.2.1 :: (x.2.2 e d).ahead }) d

/-- The turn of a row that serves a requester. -/
def Dev.service (d : Dev) (e : Env) (w : Who) (f : Env → Dev → Dev) : Dev :=
  d.turnOf (fun c => match Instr.service c with | some s => s.1 == w | none => false) (fun e d => f e (d.leadService e w)) e

end Sys2Proof.Machine
end

