-- ==== Sys2Proof/Machine/Engines.lean ====
section
/-! DEFINITION. The engines around the Loft: operation descriptors, their checks, queues, and what each function does (R435 to
R441, R473 to R475). -/
namespace Sys2Proof.Machine

/-! The fields of an operation descriptor (Table — Engine descriptor). The places of the parameters in their 16 bytes are the
model's: k, row size or bins at 0x20, the index width in bytes at 0x24 (DESIGN CHOICE, log entry 19). -/
def oKind (x : List Byte) : Nat := fld x 0 1
def oFn (x : List Byte) : Nat := fld x 1 1
def oFmt (x : List Byte) : Nat := fld x 2 1
def oFlags (x : List Byte) : Nat := fld x 3 1
def oCount (x : List Byte) : Nat := fld x 4 4
def oSrc (x : List Byte) : Nat := fld x 8 8
def oDst (x : List Byte) : Nat := fld x 0x10 8
def oAux (x : List Byte) : Nat := fld x 0x18 8
def oPar (x : List Byte) : Nat := fld x 0x20 4
def oIdx (x : List Byte) : Nat := fld x 0x24 4
def oSpar (x : List Byte) : Nat := fld x 0x30 2

/-- The format is one that Table — Engine functions gives the function. -/
def fmtOk (kind fn fmt : Nat) : Bool :=
  match kind with
  | 0 => fmt == 4
  | 1 => fmt == 0 || fmt == 1
  | 2 => fmt == 6
  | 3 => if fn = 2 then fmt == 4 || fmt == 5 || fmt == 0 else fmt == 6
  | 4 => fmt == 6
  | 5 => fmt == 4
  | _ => if fn = 0 then fmt == 2 else fmt == 3

/-- The function is one that Table — Engine functions gives the kind. -/
def fnOk (kind fn : Nat) : Bool :=
  match kind with
  | 0 => fn ≤ 3 | 1 => fn ≤ 4 | 2 => fn == 1 || fn == 2 | 3 => fn ≤ 2 | 4 => fn ≤ 1 | 5 => fn ≤ 2 | 6 => fn ≤ 1 | _ => false

/-- The bytes of one element of a transcendental's format. -/
def fmtW (fmt : Nat) : Nat := if fmt = 1 then 2 else 4

/-- Source bytes of an operation; a decompression reads what its records need. -/
def oSrcLen (x : List Byte) : Nat :=
  match oKind x with
  | 0 => 8 * oCount x
  | 1 => fmtW (oFmt x) * oCount x
  | 2 => 0
  | 3 => if oFn x = 0 then 0 else oPar x * oCount x
  | 4 => oCount x
  | 5 => 4 * oCount x
  | _ => (if oFn x = 0 then 1 else 2) * oCount x

/-- Destination bytes of an operation. -/
def oDstLen (x : List Byte) : Nat :=
  match oKind x with
  | 0 => 8 * (if oFn x < 2 then oCount x else min (oPar x) (oCount x))
  | 1 => fmtW (oFmt x) * oCount x
  | 2 => if oFn x = 1 then 64 * oCount x else oCount x
  | 3 => if oFn x = 0 then oPar x * oCount x else 0
  | 4 => if oFn x = 0 then 48 else 8
  | 5 => if oFn x = 1 then cdiv (oCount x) 2 else oCount x
  | _ => 4 * oPar x

/-- Two byte ranges share a byte. -/
def overlap (a n b m : Nat) : Bool := n != 0 && m != 0 && Nat.blt a (b + m) && Nat.blt b (a + n)

/-- What is wrong with a descriptor for an engine of `kind`; `src` and `dst` say whether the stage has an input and an output
ring, `cert` whether certified requantisation is legal here (R438, R441, R512). -/
def Dev.descBad (d : Dev) (n kind : Nat) (x : List Byte) (src dst cert : Bool) : Option (Status × Nat) :=
  match firstBad [(oKind x != kind, 0), (!fnOk kind (oFn x) || (kind = 5 && oFn x = 2 && !cert), 1), (!fmtOk kind (oFn x) (oFmt x), 2),
      (8 ≤ oFlags x || bit (oFlags x) 1 != src || bit (oFlags x) 2 != dst, 3),
      (kind = 2 && oFn x = 2 && oCount x % 32 != 0, 4),
      (!dvaOk (oSrc x), 8), (!dvaOk (oDst x), 0x10), (!dvaOk (oAux x), 0x18),
      (!src && !dst && overlap (oSrc x) (oSrcLen x) (oDst x) (oDstLen x), 8)] with
  | some o => some (.format, o)
  | none =>
    let used := match kind with | 0 => if oFn x < 2 then 0 else 4 | 3 => 8 | 6 => 4 | _ => 0
    match (firstNonZero x (0x20 + used) (16 - used)).orElse fun _ => firstNonZero x 0x32 14 with
    | some o => some (.format, o)
    | none =>
      match firstBad [(kind = 1 && oFn x = 4 && (oCount x = 0 || 1048576 < oCount x), 4),
          (kind = 0 && 2 ≤ oFn x && (oPar x = 0 || 4096 < oPar x), 0x20),
          (kind = 3 && (oPar x % 64 != 0 || oPar x < 64 || 4096 < oPar x), 0x20),
          (kind = 3 && oIdx x != 4 && oIdx x != 8, 0x24),
          (kind = 6 && (oPar x = 0 || 65536 < oPar x), 0x20),
          (oSpar x != 0xFFFF && 4095 < oSpar x, 0x30)] with
      | some o => some (.range, o)
      | none =>
        if oSpar x != 0xFFFF && !(d.bay n).held.spar.has (oSpar x) then some (.access, 0x30)
        else if d.strict n && (bit (oFlags x) 0 || (kind = 3 && oFn x = 2 && oFmt x = 0)) then some (.access, 3)
        else none

/-- The refusal of free order in a strict Bay is counted (R441). -/
def Dev.countFree (d : Dev) (n : Nat) (x : List Byte) : Dev :=
  if d.strict n && (bit (oFlags x) 0 || (oKind x = 3 && oFn x = 2 && oFmt x = 0)) then d.count (0x2810 + n) 7 1 else d

/-! ### What an operation does -/

/-- What an advance of an operation has come to. -/
inductive Eng where
  | wait
  | ok
  | bad (st : Status) (off : Nat)
  | failed (dva : Nat) (write : Bool) (m : Mv)
deriving DecidableEq, Repr

/-- The source bytes of an operation: from memory, or from the input ring of its stage, as many as there are once the stage
has run dry. -/
def Dev.engSource (d : Dev) (e : Env) (g : Nat) (o : EngOp) (len : Nat) : (List Byte ⊕ Eng) × Dev :=
  match o.stage with
  | some (i + 1) =>
    match d.stageFeed e o.bay o.q o.p (i + 1) len with
    | (true, d) => (.inl ((((d.stageOf o.bay o.q o.p (i + 1)).map (·.inb)).getD []).take len), d)
    | (false, d) =>
      if ((d.chainOf o.bay o.q o.p).map fun h => h.dry (i + 1)).getD false then
        (.inl (((d.stageOf o.bay o.q o.p (i + 1)).map (·.inb)).getD []), d)
      else (.inr .wait, d)
  | _ =>
    match d.readRange e (.engine g) o.bay o.space (oSrc o.d) len with
    | (.got bs p, d) => if p then (.inr (.failed (oSrc o.d) false (.fail .integrity)), d) else (.inl bs, d)
    | (.wait, d) => (.inr .wait, d)
    | (m, d) => (.inr (.failed (oSrc o.d) false m), d)

/-- The result of an operation goes to memory, or to the output ring of its stage. `src`: what was read of memory, kept while
the write waits. -/
def Dev.engSink (d : Dev) (e : Env) (g : Nat) (o : EngOp) (bs src : List Byte) : Eng × Dev :=
  match o.stage.bind fun i => (d.stageOf o.bay o.q o.p i).bind fun s => s.ring.map fun _ => i with
  | some i => (.ok, (d.modStage o.bay o.q o.p i fun s => { s with outb := s.outb ++ padLine bs }).stagePut o.bay o.q o.p i)
  | none =>
    match d.writeRange e (.engine g) o.bay o.space (oDst o.d) bs false with
    | (.done, d) => (.ok, d)
    | (.wait, d) => (.wait, match o.stage with | some (_ + 1) => d | _ => d.keepRead (.engine g) o.space (oSrc o.d) src)
    | (m, d) => (.failed (oDst o.d) true m, d)

/-- The pairs of a sort's bytes. -/
def pairsOf (bs : List Byte) : List (Nat × Nat) := (List.range (bs.length / 8)).map fun i => (fld bs (8 * i) 4, fld bs (8 * i + 4) 4)

/-- The operation has an order that nothing fixes: free order, or a binary32 scatter-add (R441, R460, R475). -/
def oFree (x : List Byte) : Bool := bit (oFlags x) 0 || (oKind x == 3 && oFn x == 2 && oFmt x == 0)

/-- How an operation sums its terms. -/
def EngOp.sum (o : EngOp) : List Nat → Nat := sumOf (oFree o.d) o.ord

/-- The row that a gather or scatter takes as its r-th: a binary32 scatter-add goes through its rows in an order that is not
defined (R475). -/
def EngOp.row (o : EngOp) (r : Nat) : Nat :=
  if oFree o.d && oFn o.d == 2 then ((anyOrder o.ord (oCount o.d) (List.range (oCount o.d)))[r]?).getD r else r

/-- The result of an operation whose source is read as a whole (R436, R467, R468, R473, R474). -/
def engResult (sum : List Nat → Nat) (x bs blk : List Byte) : List Byte :=
  match oKind x with
  | 0 => ((sortFn (oFn x) (oPar x) (pairsOf bs)).map fun p => leBytes 4 p.1 ++ leBytes 4 p.2).flatten
  | 1 =>
    let w := fmtW (oFmt x)
    unelems w (eltwise sum ((if w = 2 then 0x30 else 0x10) + oFn x) (elems w bs) [])
  | 4 => if oFn x = 0 then sha384 bs else leBytes 8 (crc64 bs)
  | 5 => packInt (oFn x = 1) ((elems 4 bs).zipIdx.map fun v => requant (toInt 32 v.1) (rqEntry blk v.2))
  | _ => unelems 4 (histogram (List.replicate (oPar x) 0) (elems (if oFn x = 0 then 1 else 2) bs))

/-- A parameter block read is kept as it is read: its header, then its entries. -/
def Dev.keepParams (d : Dev) (w : Who) (s dva : Nat) (b : List Byte) : Dev :=
  (d.keepRead w s dva (b.take 16)).keepRead w s (dva + 16) (b.drop 16)

/-- The parameter block at a DVA: its header, then its entries (R464). -/
def Dev.readParams (d : Dev) (e : Env) (w : Who) (n s dva : Nat) : (List Byte ⊕ Mv) × Dev :=
  match d.readRange e w n s dva 16 with
  | (.got h false, d) =>
    if fld h 0 4 = 0 || 65536 < fld h 0 4 then (.inl h, d)
    else match d.readRange e w n s (dva + 16) (16 * fld h 0 4) with
      | (.got b false, d) => (.inl (h ++ b), d)
      | (.got _ true, d) => (.inr (.fail .integrity), d)
      | (.wait, d) => (.inr .wait, d.keepRead w s dva h)
      | (m, d) => (.inr m, d)
  | (.got _ true, d) => (.inr (.fail .integrity), d)
  | (m, d) => (.inr m, d)

/-- An operation that reads its source as a whole and writes its result. -/
def Dev.engWhole (d : Dev) (e : Env) (g : Nat) (o : EngOp) : Eng × Dev :=
  let par : (List Byte ⊕ Eng) × Dev :=
    if oKind o.d = 5 then
      match d.readParams e (.engine g) o.bay o.space (oAux o.d) with
      | (.inl b, d) => match rqBad b (oFn o.d = 1) with
        | some (st, off) => (.inr (.bad st off), d)
        | none => (.inl b, d)
      | (.inr .wait, d) => (.inr .wait, d)
      | (.inr m, d) => (.inr (.failed (oAux o.d) false m), d)
    else (.inl [], d)
  match par with
  | (.inr r, d) => (r, d)
  | (.inl blk, d) =>
    match d.engSource e g o (oSrcLen o.d) with
    | (.inr .wait, d) => (.wait, if oKind o.d = 5 then d.keepParams (.engine g) o.space (oAux o.d) blk else d)
    | (.inr r, d) => (r, d)
    | (.inl bs, d) =>
      match d.engSink e g o (engResult o.sum o.d bs blk) bs with
      | (.wait, d) => (.wait, if oKind o.d = 5 then d.keepParams (.engine g) o.space (oAux o.d) blk else d)
      | r => r

/-- The operation that an engine runs changes. -/
def Dev.modOp (d : Dev) (g : Nat) (f : EngOp → EngOp) : Dev := d.setEngine g { d.engine g with run := (d.engine g).run.map f }

/-- A decompression reads its source line by line until its records are whole, then writes them (R437). -/
def Dev.engUnpack (d : Dev) (e : Env) (g : Nat) : Nat → Eng × Dev
  | 0 => (.wait, d)
  | f + 1 =>
    match (d.engine g).run with
    | none => (.wait, d)
    | some o =>
      match decompress (oFn o.d) (if oFn o.d = 1 then oCount o.d else oCount o.d / 32) o.buf 0 [] with
      | .bad => (.bad .format 8, d)
      | .ok out used =>
        if o.stage.isNone && overlap (oSrc o.d) used (oDst o.d) (oDstLen o.d) then (.bad .format 8, d)
        else d.engSink e g o out []
      | .short =>
        match o.stage with
        | some (i + 1) =>
          match d.stageFeed e o.bay o.q o.p (i + 1) 64 with
          | (true, d) =>
            let bs := (((d.stageOf o.bay o.q o.p (i + 1)).map (·.inb)).getD []).take 64
            ((d.modStage o.bay o.q o.p (i + 1) fun s => { s with inb := s.inb.drop 64 }).modOp g fun o => { o with buf := o.buf ++ bs }).engUnpack e g f
          | (false, d) =>
            if ((d.chainOf o.bay o.q o.p).map fun h => h.dry (i + 1)).getD false then (.ok, d) else (.wait, d)
        | _ =>
          let a := oSrc o.d + o.buf.length
          match d.readRange e (.engine g) o.bay o.space a (64 - a % 64) with
          | (.got bs false, d) => (d.modOp g fun o => { o with buf := o.buf ++ bs }).engUnpack e g f
          | (.got _ true, d) => (.failed a false (.fail .integrity), d)
          | (.wait, d) => (.wait, d)
          | (m, d) => (.failed a false m, d)

/-- The elements of a row added into those of another, wrapping, or by add32 (R475). -/
def rowAdd (fmt : Nat) (old new : List Byte) : List Byte :=
  let w := if fmt = 5 then 8 else 4
  unelems w (List.zipWith (fun a b => if fmt = 0 then add32 a b else (a + b) % 256 ^ w) (elems w old) (elems w new))

/-- The rows of a gather or scatter, one after another (R436, R475). -/
def Dev.engRows (d : Dev) (e : Env) (g : Nat) : Nat → Eng × Dev
  | 0 => (.wait, d)
  | f + 1 =>
    match (d.engine g).run with
    | none => (.wait, d)
    | some o =>
      let x := o.d
      let n := o.bay
      let r := o.row o.done
      let w := Who.engine g
      if oCount x ≤ o.done then (.ok, d) else
      match d.readRange e w n o.space (oAux x + oIdx x * r) (oIdx x) with
      | (.wait, d) => (.wait, d)
      | (.got ib pi, d) =>
        let i := leNat ib
        let row := oPar x
        let src := if oFn x = 0 then oSrc x + i * row else oSrc x + r * row
        let dst := if oFn x = 0 then oDst x + r * row else oDst x + i * row
        let keep (d : Dev) : Dev := d.keepRead w o.space (oAux x + oIdx x * r) ib
        if pi then (.failed (oAux x + oIdx x * r) false (.fail .integrity), d) else
        match d.readRange e w n o.space src row with
        | (.wait, d) => (.wait, keep d)
        | (.got bs ps, d) =>
          if ps then (.failed src false (.fail .integrity), d) else
          let keep (d : Dev) : Dev := (keep d).keepRead w o.space src bs
          let old : Mv × Dev := if oFn x = 2 then d.readRange e w n o.space dst row else (.got [] false, d)
          match old with
          | (.wait, d) => (.wait, keep d)
          | (.got ob po, d) =>
            if po then (.failed dst false (.fail .integrity), d) else
            match d.writeRange e w n o.space dst (if oFn x = 2 then rowAdd (oFmt x) ob bs else bs) false with
            | (.done, d) => (d.modOp g fun o => { o with done := o.done + 1 }).engRows e g f
            | (.wait, d) => (.wait, if oFn x = 2 then (keep d).keepRead w o.space dst ob else keep d)
            | (m, d) => (.failed dst true m, d)
          | (m, d) => (.failed dst false m, d)
        | (m, d) => (.failed src false m, d)
      | (m, d) => (.failed (oAux x + oIdx x * r) false m, d)

/-- An operation advances. -/
def Dev.engDo (d : Dev) (e : Env) (g : Nat) (o : EngOp) : Eng × Dev :=
  match oKind o.d with
  | 2 => d.engUnpack e g (oCount o.d * 2 + 4)
  | 3 => d.engRows e g (oCount o.d + 1)
  | _ => d.engWhole e g o

/-- An operation that an engine runs ends where it can (R438, R439). Certified requantisation is CERTIFY's. -/
def Dev.engEnd (d : Dev) (e : Env) (g : Nat) : Dev :=
  match (d.engine g).run with
  | none => d
  | some o =>
    if oKind o.d = 5 && oFn o.d = 2 then d else
    match d.engDo e g o with
    | (.wait, d) => d
    | (.bad st off, d) => d.engineErr e g st 0 0 off
    | (.failed a wr m, d) => d.accFail e (.engine g) o.bay o.space a wr (b2n wr) m
    | (.ok, d) =>
      let d := d.engineFree g
      let d := d.setEngine g { d.engine g with ops := (d.engine g).ops + 1 }
      (d.pulse e o.bay (oSpar o.d)).opEnd e o.bay o.q o.p o.stage .ok 0 .own

/-- A CHAIN waits for this engine alone: it takes it before any standalone operation (R447). -/
def Dev.chainWants (d : Dev) (g : Nat) : Bool :=
  d.queues.any fun k => k.2.cmds.any fun c => c.op == 0x12 && c.ph == .started && c.snap.any (fun x => x.1 == g) &&
    c.snap.all fun x => x.1 == g || d.engFree x.1

/-- The next operation of an engine's queue: round robin between Bays, in arrival order within one (R439). A resumed stage of
a chain goes first. -/
def Dev.engPick (d : Dev) (g : Nat) : Option EngOp :=
  let x := d.engine g
  match x.queue.find? fun o => o.stage.isSome with
  | some o => some o
  | none => if x.reserved || (d.digestAt g).isSome || d.chainWants g then none else
    ((List.range 16).map fun i => (x.lastBay + 1 + i) % 16).findSome? fun n => x.queue.find? fun o => o.bay == n

/-- ENGINE: the descriptor is read and judged, and the operation queued; a full queue makes it wait to start (R438, R439). -/
def Dev.engineCmd (d : Dev) (e : Env) (n q : Nat) (p : W32) : Dev :=
  match d.startedCmd n q p 0x21 with
  | none => d
  | some k =>
    let g := (engineBase (k.f 8 1)).1 + k.f 9 1
    let w := Who.cmd (8 * n + q) p.toNat
    match d.readRange e w n k.space (k.f 0x10 8) 64 with
    | (.wait, d) => d
    | (.got _ true, d) => d.endCmd e n q p .integrity 0 .own
    | (.got x false, d) =>
      match d.descBad n (k.f 8 1) x false false false with
      | some (st, o) => (d.countFree n x).endCmd e n q p st o .own
      | none =>
        let t := d.engine g
        if 32 ≤ t.queue.length + (d.digestsOn g).length then d.keepRead w k.space (k.f 0x10 8) x
        else (d.setEngine g { t with queue := t.queue ++ [{ bay := n, q := q, p := p, space := k.space, d := x }] }).modCmd n q p
          fun c => { c with ph := .running }
    | (m, d) => d.accFail e w n k.space (k.f 0x10 8) false 2 m

end Sys2Proof.Machine
end

