-- ==== Sys2Proof/Machine/Cores.lean ====
section
/-! DEFINITION. Rafter cores: programs and their checks, RUN, and every core operation (R425 to R434, R442, R443, R526). -/
namespace Sys2Proof.Machine

/-- The LPA of core c's local store (R23). -/
def localBase (c : Nat) : Nat := 0x11000000000 + c * 0x80000

/-! The fields of a core operation (R429). -/
def cOp (x : List Byte) : Nat := fld x 0 1
def cFlags (x : List Byte) : Nat := fld x 1 1
/-- The operation has free order (R429, R431). -/
def cFree (x : List Byte) : Bool := cFlags x == 1
def cCnt (x : List Byte) : Nat := fld x 2 2
def cA (x : List Byte) : Nat := fld x 4 4
def cB (x : List Byte) : Nat := fld x 8 8
def cC (x : List Byte) : Nat := fld x 0x10 8
def cD (x : List Byte) : Nat := fld x 0x18 8

/-- What an operation reads and writes of the local store: its field, offset and length. -/
structure OpUse where
  reads : List (Nat × Nat × Nat) := []
  writes : List (Nat × Nat × Nat) := []
deriving DecidableEq, Repr

def matCols (x : List Byte) : Nat := cA x % 65536
def matBf (x : List Byte) : Bool := bits (cA x) 17 16 == 1
def matW (x : List Byte) : Nat := if matBf x then 2 else 1
def matOut (x : List Byte) : Nat := cD x % 2 ^ 32
def matBias (x : List Byte) : Option Nat := if cD x / 2 ^ 32 = 0xFFFFFFFF then none else some (cD x / 2 ^ 32)

/-- The ranges of the local store that an operation uses (R429). The parameter block of REQUANT is judged as it runs. -/
def opUse (x : List Byte) : OpUse :=
  match cOp x with
  | 1 => { writes := [(0x10, cC x, cA x)] }
  | 2 => { reads := [(0x10, cC x, cA x)] }
  | 3 =>
    let e := matW x
    { reads := [(8, cB x, cCnt x * matCols x * e), (0x10, cC x, matCols x * e)] ++
        (match matBias x with | some b => [(0x1C, b, 4 * cCnt x)] | none => [])
      writes := [(0x18, matOut x, 4 * cCnt x)] }
  | 4 => match eltForm (cA x % 256) with
    | some f =>
      { reads := [(8, cB x, f.src * cCnt x)] ++ (if f.two then [(0x10, cC x, f.src * cCnt x)] else [])
        writes := [(0x18, cD x, if f.one then f.dst else f.dst * cCnt x)] }
    | none => {}
  | 5 => { reads := [(8, cB x, 4 * cCnt x), (0x10, cC x, 32)], writes := [(0x18, cD x, if cA x % 4 = 1 then cdiv (cCnt x) 2 else cCnt x)] }
  | 6 => { writes := [(0x10, cC x, cB x)] }
  | 7 => { reads := [(0x10, cC x, cB x)] }
  | 8 => if cA x = 3 then { writes := [(0x18, cD x, 8)] } else {}
  | 9 => if cA x = 0 then { writes := [(0x10, cC x, 64)] } else if cA x = 2 then { reads := [(0x10, cC x, 64)] } else {}
  | 0xB => { reads := [(8, cB x, 4)] }
  | _ => {}

/-- The fields that an operation does not use, as byte ranges of the operation. -/
def opUnused (x : List Byte) : List (Nat × Nat) :=
  match cOp x with
  | 0 => [(2, 30)]
  | 1 => [(2, 2), (0x18, 8)]
  | 2 => [(2, 2), (0x18, 8)]
  | 4 => [(5, 3)] ++ (match eltForm (cA x % 256) with | some f => if f.two then [] else [(0x10, 8)] | none => [])
  | 6 => [(2, 2), (0x18, 8)]
  | 7 => [(2, 2), (0x18, 8)]
  | 8 => [(2, 2)] ++ (if cA x = 3 then [] else [(0x18, 8)])
  | 9 => [(2, 2), (0x18, 8)] ++ (if cA x = 1 then [(0x10, 8)] else [])
  | 0xA => [(8, 24)]
  | 0xB => [(2, 2)]
  | 0xC => [(2, 30)]
  | _ => []

/-- The ring of a slot of a RUN stage: its input and its output ring (R428). -/
def Dev.slotRing (d : Dev) (r : RunRec) (slot : Nat) : Option Ring :=
  match r.stage.bind fun i => (d.chainOf r.bay r.q r.p).map fun c => (c, i) with
  | none => none
  | some (c, i) => if slot = 0 then c.inRing i else if slot = 1 then (c.stages[i]?).bind (·.ring) else none

/-- What is wrong with operation `i` of a program of `n`, by offset in the operation; `ring` gives a slot's depth (R430, R449,
R462). -/
def opBad (n i : Nat) (ring : Nat → Option Nat) (x : List Byte) : Option (Status × Nat) :=
  let u := opUse x
  let out (r : Nat × Nat × Nat) : Bool := 0x80000 < r.2.1 + r.2.2
  let special (r : Nat × Nat × Nat) : Bool := overlap r.2.1 r.2.2 0 (32 * n) || overlap r.2.1 r.2.2 0x7FFB8 0x48
  match firstBad (([(decide (0xC < cOp x), 0), (decide (2 ≤ cFlags x) || (cFlags x == 1 && cOp x != 3 && cOp x != 4), 1)] : List (Bool × Nat)) ++
      (opUnused x).filterMap (fun r => (firstNonZero x r.1 r.2).map fun o => (true, o)) ++
      ([((cOp x = 1 || cOp x = 2) && cA x % 64 != 0, 4), ((cOp x = 1 || cOp x = 2) && !dvaOk (cB x), 8),
       (cOp x = 3 && (4 ≤ cA x / 65536 || 1 < cA x / 65536), 6),
       (cOp x = 4 && (eltForm (cA x % 256)).isNone, 4), (cOp x = 5 && 1 < cA x, 4),
       ((cOp x = 6 || cOp x = 7) && (match ring (cA x) with
          | some k => cB x % 64 != 0 || k < 2 * cB x
          | none => true), if (ring (cA x)).isNone then 4 else 8),
       (cOp x = 8 && 3 < cA x, 4), (cOp x = 9 && 2 < cA x, 4), (cOp x = 0xA && i < cA x, 4),
       (cOp x = 0xB && 3 < cA x, 4), (cOp x = 0xB && n < i + 1 + cD x, 0x18)] : List (Bool × Nat)) ++
      (u.reads.map fun r => (out r, r.1)) ++ (u.writes.map fun r => (out r || special r, r.1)) ++
      (u.writes.map fun w => (u.reads.any fun r => overlap r.2.1 r.2.2 w.2.1 w.2.2, w.1))) with
  | some o => some (.format, o)
  | none => (firstBad [(cOp x = 3 && (cCnt x = 0 || 4096 < cCnt x), 2), (cOp x = 3 && (matCols x = 0 || 4096 < matCols x), 4),
      (cOp x = 4 && cA x % 16 = 4 && 0x10 ≤ cA x && cA x != 0x24 && cCnt x = 0, 2),
      (cOp x = 9 && 15 < cB x, 8), (cOp x = 8 && 4095 < cB x, 8)]).map fun o => (.range, o)

/-- The operations of a program. -/
def opsOf (bs : List Byte) : List (List Byte) := (List.range (bs.length / 32)).map fun i => (bs.drop (32 * i)).take 32

/-- What is wrong with a program, by offset from its start (R428, R430). Inside a chain the device fills the ring table. -/
def progBad (h ops : List Byte) (ring : Nat → Option Nat) (staged : Bool) : Option (Status × Nat) :=
  if fld h 0 4 = 0 || 4096 < fld h 0 4 then some (.format, 0)
  else match (if staged then none else firstNonZero h 4 16).orElse fun _ => firstNonZero h 0x14 44 with
    | some o => some (.format, o)
    | none => (opsOf ops).zipIdx.findSome? fun o => (opBad (fld h 0 4) o.2 ring o.1).map fun b => (b.1, 64 + 32 * o.2 + b.2)

/-! ### RUN (R428, R434, R443) -/

/-- A core may take a RUN: it is IDLE, and its island is `ACTIVE` (R434, R618). -/
def Dev.coreFree (d : Dev) (c : Nat) : Bool := (d.core c).st == .idle && (d.island c).st == .active

/-- The coolest `k` IDLE cores of a Bay, lower numbers first where temperatures are equal (R443). -/
def Dev.coolest (d : Dev) (n k : Nat) : List Nat :=
  let idle := ((List.range 256).filter fun c => (d.bay n).held.core.has c && d.coreFree c)
  let sorted := idle.foldl (fun l c => insertCool c l) []
  sorted.take k
where
  /-- A core put behind those at most as warm. -/
  insertCool (c : Nat) : List Nat → List Nat
    | [] => [c]
    | x :: r => if smGet 0 d.board.placeTemp c < smGet 0 d.board.placeTemp x then c :: x :: r else x :: insertCool c r

/-- The cores of a RUN are loaded and start (R428, R433). -/
def Dev.runStart (d : Dev) (r : RunRec) (ops args : List Byte) : Dev :=
  let d := r.cores.zipIdx.foldl (fun d c =>
    let b := localBase c.1
    let d := ((d.poke b ops).poke (b + 0x7FFC0) (fit 64 args)).poke (b + 0x7FFB8)
      (leBytes 2 c.2 ++ leBytes 2 r.cores.length)
    d.setCore c.1 { st := .running, run := some r.id, logical := c.2 }) d
  { d with runs := d.runs ++ [r], nextRun := d.nextRun + 1 }

/-- What preparing a RUN has come to: its operations and arguments, or why not. -/
def Dev.runLoad (d : Dev) (e : Env) (w : Who) (n s prog args : Nat) (ring : Nat → Option Nat) (staged : Bool) :
    ((List Byte × List Byte) ⊕ Prep) × Dev :=
  match d.readPrep e w n s prog 64 with
  | (.inr p, d) => (.inr p, d)
  | (.inl h, d) =>
    if fld h 0 4 = 0 || 4096 < fld h 0 4 then (.inr (.bad .format 0), d) else
    match d.readPrep e w n s (prog + 64) (32 * fld h 0 4) with
    | (.inr .wait, d) => (.inr .wait, d.keepRead w s prog h)
    | (.inr p, d) => (.inr p, d)
    | (.inl ops, d) =>
      match progBad h ops ring staged with
      | some (st, o) => (.inr (.bad st o), d)
      | none =>
        if staged then (.inl (ops, zeros 64), d)
        else match d.readPrep e w n s args 64 with
          | (.inl a, d) => (.inl (ops, a), d)
          | (.inr .wait, d) => (.inr .wait, (d.keepRead w s prog h).keepRead w s (prog + 64) ops)
          | (.inr p, d) => (.inr p, d)

/-- The cores that a RUN takes: the range it names once all are IDLE, or those the device chooses (R434, R443). -/
def Dev.runCores (d : Dev) (n first count : Nat) : Option (List Nat) :=
  if first = 0xFFFF then
    let l := d.coolest n count
    if l.length = count then some l else none
  else
    let l := (List.range count).map (first + ·)
    if l.all d.coreFree then some l else none

/-- RUN: the program is loaded and judged, and the cores start once all are IDLE (R428, R430, R434). -/
def Dev.runCmd (d : Dev) (e : Env) (n q : Nat) (p : W32) : Dev :=
  match d.startedCmd n q p 0x20 with
  | none => d
  | some k =>
    let first := k.f 8 2
    let count := k.f 0xA 2
    let w := Who.cmd (8 * n + q) p.toNat
    if first = 0xFFFF && (d.bay n).held.core.count < count then
      d.endCmd e n q p .range 0xA .own
    else match d.runLoad e w n k.space (k.f 0x10 8) (k.f 0x18 8) (fun _ => none) false with
      | (.inr .wait, d) => d
      | (.inr .ok, d) => d
      | (.inr (.bad st o), d) => d.endCmd e n q p st o .own
      | (.inr (.failed a m), d) => d.accFail e w n k.space a false 2 m
      | (.inl (ops, args), d) =>
        match d.runCores n first count with
        | none => d
        | some cs =>
          let d := if first = 0xFFFF then d.count 0x2800 5 1 else d
          (d.runStart { id := d.nextRun, bay := n, q := q, p := p, space := k.space, ops := ops.length / 32, cores := cs } ops args).modCmd
            n q p fun c => { c with ph := .running }

/-! ### Core operations -/

/-- Bytes of a core's local store, and whether one is marked uncorrectable (R299). -/
def Dev.lsRead (d : Dev) (e : Env) (c off len : Nat) : List Byte × Bool :=
  (d.bytes e (localBase c + off) len, (lineParts (localBase c + off) len).any fun p => d.poisoned e p.1)

/-- Bytes written to a core's local store; whole lines lose their mark. -/
def Dev.lsWrite (d : Dev) (c off : Nat) (bs : List Byte) : Dev :=
  ((lineParts (localBase c + off) bs.length).filter fun p => p.2.2 == 64).foldl (fun d p => d.store (.clean p.1))
    (d.poke (localBase c + off) bs)

/-- The core goes on with its next operation. -/
def Dev.coreNext (d : Dev) (c : Nat) (skip : Nat) : Dev :=
  let x := d.core c
  d.setCore c { x with st := .running, pc := x.pc + 1 + skip, atBarrier := false }

/-- The core waits (R433). -/
def Dev.coreWait (d : Dev) (c : Nat) : Dev := d.setCore c { d.core c with st := .waiting }

/-- The cores of a RUN that wait at a BARRIER go on once every core still running has reached one (R429). -/
def Dev.barrierCheck (d : Dev) (r : RunRec) : Dev :=
  let live := r.cores.filter fun c => (d.core c).run == some r.id
  if live.all fun c => (d.core c).atBarrier then live.foldl (fun d c => d.coreNext c 0) d else d

/-- HALT: the core's program ends; with its last core the RUN completes (R429, R433, R434). -/
def Dev.coreHalt (d : Dev) (e : Env) (c : Nat) (r : RunRec) : Dev :=
  let d := d.setCore c {}
  let r := { r with ended := r.ended ++ [c] }
  let d := d.modRun r.id fun _ => r
  if r.cores.all r.ended.contains then d.runEnd e r .ok 0 .own else d.barrierCheck r

/-- The state of a Hatch slot of Bay n: inbound slot i at i, outbound slot i at 16 + i (R194). -/
def slotAddr (n i : Nat) : Nat := 0x13000000000 + (32 * n + i) * 64

/-- A Hatch operation that a core issues in a state that does not allow it: a rejection, and the core ends with STATE (R17, R194). -/
def Dev.hatchRefuse (d : Dev) (e : Env) (c n slot : Nat) : Dev := (d.reject e n 3 .state slot 0xFFFFFFFF).coreErr e c .state 0 0

/-- One operation of a core runs, or makes the core wait (R429 to R433). `ecc`: what it reads of memory is correct. -/
def Dev.coreOp (d : Dev) (e : Env) (c : Nat) (r : RunRec) (x : List Byte) (ecc : Bool) : Dev :=
  let n := r.bay
  let w := Who.core c
  let core := d.core c
  -- operands marked uncorrectable end the operation (R477)
  let bad := (opUse x).reads.any fun u => (d.lsRead e c u.2.1 u.2.2).2
  if bad then d.coreErr e c .integrity 0 0
  else if d.strict n && cFlags x = 1 then d.coreRefuse e c c
  else match cOp x with
  | 0 => d.coreHalt e c r
  | 1 => match d.readRange e w n r.space (cB x) (cA x) with
    | (.got bs p, d) => if p || !ecc then (d.demandErr ecc w n r.space (cB x)).coreErr e c .integrity (cB x) 0 else (d.lsWrite c (cC x) bs).coreNext c 0
    | (.wait, d) => d
    | (m, d) => d.accFail e w n r.space (cB x) false 0 m
  | 2 => match d.writeRange e w n r.space (cB x) (d.lsRead e c (cC x) (cA x)).1 false with
    | (.done, d) => d.coreNext c 0
    | (.wait, d) => d
    | (m, d) => d.accFail e w n r.space (cB x) true 1 m
  | 3 =>
    let e1 := matW x
    let wt := (d.lsRead e c (cB x) (cCnt x * matCols x * e1)).1
    let xs := (d.lsRead e c (cC x) (matCols x * e1)).1
    let bias := (matBias x).map fun b => elems 4 (d.lsRead e c b (4 * cCnt x)).1
    let sum (i : Nat) : List Nat → Nat := sumOf (cFree x) (d.free + 2 * matCols x * i)
    ((d.lsWrite c (matOut x) (unelems 4 (matvec sum (matBf x) (cCnt x) (matCols x) wt xs bias))).drawn (cFree x) (2 * matCols x * cCnt x)).coreNext c 0
  | 4 => match eltForm (cA x % 256) with
    | none => d
    | some f =>
      let b := elems f.src (d.lsRead e c (cB x) (f.src * cCnt x)).1
      let s := if f.two then elems f.src (d.lsRead e c (cC x) (f.src * cCnt x)).1 else []
      ((d.lsWrite c (cD x) (unelems f.dst (eltwise (sumOf (cFree x) d.free) (cA x % 256) b s))).drawn (cFree x) (2 * cCnt x)).coreNext c 0
  | 5 =>
    let len := 16 + 16 * fld (d.lsRead e c (cC x) 4).1 0 4
    if 0x80000 < cC x + len then d.coreErr e c .format 0 0
    else
      let blk := (d.lsRead e c (cC x) len).1
      match rqBad blk (cA x = 1) with
      | some (st, _) => d.coreErr e c st 0 0
      | none =>
        let vs := (elems 4 (d.lsRead e c (cB x) (4 * cCnt x)).1).zipIdx.map fun v => requant (toInt 32 v.1) (rqEntry blk v.2)
        (d.lsWrite c (cD x) (packInt (cA x = 1) vs)).coreNext c 0
  | 6 => match r.stage with
    | none => d
    | some i =>
      let d := d.stagePut n r.q r.p (i - 1)
      match (d.chainOf n r.q r.p).bind (·.inRing i) with
      | none => d
      | some g =>
        if (d.ringGate g).isSome then d
        else if g.fill < cB x then
          -- an in-Course that still runs has missed (R408); a stage run dry ends (R417)
          let d := (if core.st == CoreSt.running then (d.stageShort n r.q r.p i false).stageShort n r.q r.p i true else d).coreWait c
          if ((d.chainOf n r.q r.p).map fun h => h.dry i).getD false &&
             r.cores.all (fun k => (d.core k).run != some r.id || (d.core k).st == .waiting) then d.runEnd e r .ok 0 .own
          else d
        else
          let b := d.ringRead e g g.rel (cB x)
          if b.2 then (d.ringPoison n g).coreErr e c .integrity 0 0
          else
            let d := d.setInRing n r.q r.p i { g with rel := g.rel + cB x }
            ((d.lsWrite c (cC x) b.1).stagePut n r.q r.p (i - 1)).coreNext c 0
  | 7 => match r.stage with
    | none => d
    | some i => match (d.stageOf n r.q r.p i).bind (·.ring) with
      | none => d
      | some g =>
        if (d.ringGate g).isSome then d
        else if g.room < cB x then (if core.st == CoreSt.running then (d.stageFull n r.q r.p i false).stageFull n r.q r.p i true else d).coreWait c
        else
          let d := d.ringWrite g (d.lsRead e c (cC x) (cB x)).1
          (d.modStage n r.q r.p i fun s => { s with ring := some { g with put := g.put + cB x } }).coreNext c 0
  | 8 =>
    let s := cB x
    if !(d.bay n).held.spar.has s then d.coreErr e c .access 0 0
    else match cA x with
      | 0 => (d.sparSet e s (cC x)).coreNext c 0
      | 1 => (d.sparAdd e s (cC x)).coreNext c 0
      | 2 => if cC x ≤ (d.spar s).value.toNat then d.coreNext c 0 else d.coreWait c
      | _ =>
        if d.strict n then (d.count (0x2910 + n) 0xA 1).coreRefuse e c s
        else
          let old := (d.spar s).value
          ((d.sparPut e s (old + BitVec.ofNat 64 (cC x))).lsWrite c (cD x) (leBytes 8 old.toNat)).coreNext c 0
  | 9 =>
    let i := cB x
    let g := d.page n
    match cA x with
    | 0 =>
      if d.strict n && d.inJob n then d.coreRefuse e c i
      else match smGet .empty g.inSt i with
        | .empty => d.coreWait c
        | .taken => d.hatchRefuse e c n i
        | .full =>
          ((d.setPage n { g with inSt := smSet .empty g.inSt i .taken }).lsWrite c (cC x) (d.bytes e (slotAddr n i) 64)).coreNext c 0
    | 1 => match smGet .empty g.inSt i with
      | .taken => (d.setPage n { g with inSt := smSet .empty g.inSt i .empty }).coreNext c 0
      | .empty => d.hatchRefuse e c n i
      | .full => d.hatchRefuse e c n i
    | _ =>
      if g.outFull.contains i then d.hatchRefuse e c n i
      else
        let bs := (d.lsRead e c (cC x) 64).1
        let d := ((d.setPage n { g with outFull := listIns i g.outFull }).poke (slotAddr n (16 + i)) (slotLine d.free bs)).drawn true (slotOpen bs)
        (d.raiseBay n 2).coreNext c 0
  | 0xA =>
    -- the body runs `count` times in all; the first pass is done when LOOP is reached
    let left := match core.loops.find? fun l => l.1 == core.pc with | some l => l.2 | none => max 1 (cCnt x)
    if left ≤ 1 then (d.setCore c { core with loops := smDel core.loops core.pc }).coreNext c 0
    else d.setCore c { core with
      loops := smIns core.pc (left - 1) (smDel core.loops core.pc)
      pc := core.pc - cA x }
  | 0xB =>
    let v := fld (d.lsRead e c (cB x) 4).1 0 4
    let t := match cA x with
      | 0 => v == cC x | 1 => v != cC x | 2 => Nat.blt v (cC x) | _ => cC x ≤ v
    d.coreNext c (if t then cD x else 0)
  | _ => (d.setCore c { core with st := .waiting, atBarrier := true }).barrierCheck r

/-- The next operation of a running core, where it is of the kind that a command names; past the last operation stands HALT. -/
def Dev.coreStep (d : Dev) (e : Env) (c op : Nat) (sel : Nat → Bool) (ecc : Bool) : Dev :=
  match d.runOf c with
  | none => d
  | some r =>
    let x := d.core c
    if x.st != .running || d.halted (.core c) then d
    else
      let b := if r.ops ≤ x.pc then zeros 32 else (d.lsRead e c (32 * x.pc) 32).1
      if cOp b = op && sel (cA b) then d.coreOp e c r b ecc else d

/-- A waiting core tries its operation again (R433). -/
def Dev.coreRetry (d : Dev) (e : Env) (c : Nat) : Dev :=
  match d.runOf c with
  | none => d
  | some r =>
    let x := d.core c
    if x.st != .waiting || x.atBarrier then d else d.coreOp e c r (d.lsRead e c (32 * x.pc) 32).1 true

/-- Any operand a. -/
def anyA : Nat → Bool := fun _ => true

/-- The core and the operand `a` of a row that is an operation of a core on a Spar other than WAIT (R323, R429). -/
def Instr.coreSpar : Instr → Option (Nat × Nat)
  | .sparSet c => some (c, 0) | .sparAdd c => some (c, 1) | .sparFetchadd c => some (c, 3)
  | _ => none

/-- The Spar that the next operation of a running core names, a SPAR with operand `a` (R429). -/
def Dev.coreSparAt (d : Dev) (e : Env) (c a : Nat) : Option Nat :=
  (d.runOf c).bind fun r =>
    let x := d.core c
    let b := (d.lsRead e c (32 * x.pc) 32).1
    if x.st == .running && x.pc < r.ops && cOp b = 8 && cA b = a then some (cB b) else none

/-- Operations of the tick on a Spar by cores below `k` take effect first, in ascending island number (R323). -/
def Dev.leadCores (d : Dev) (e : Env) (s k : Nat) : Dev :=
  ((e.tick.filterMap fun c => (Instr.coreSpar c).bind fun x =>
    if x.1 < k && d.coreSparAt e x.1 x.2 == some s then some x.1 else none).foldr riseIns []).foldl (fun d i =>
      d.lead e (fun c => match Instr.coreSpar c with | some x => x.1 == i | none => false)
        fun d c => match Instr.coreSpar c with | some x => d.coreStep e x.1 8 (· == x.2) true | none => d) d

/-- An operation of a core on a Spar, behind those of the tick on that Spar by cores of lower number (R323). -/
def Dev.coreSparStep (d : Dev) (e : Env) (c a : Nat) : Dev :=
  (match d.coreSparAt e c a with | some s => d.leadCores e s c | none => d).coreStep e c 8 (· == a) true

/-- The next operation of a running core is HATCH with operand `a`: its Bay and slot (R429). -/
def Dev.coreHatch (d : Dev) (e : Env) (c a : Nat) : Option (Nat × Nat) :=
  (d.runOf c).bind fun r =>
    let x := d.core c
    let b := (d.lsRead e c (32 * x.pc) 32).1
    if x.st == .running && x.pc < r.ops && cOp b = 9 && cA b = a then some (r.bay, cB b) else none

end Sys2Proof.Machine
end

