-- ==== Sys2Proof/Machine/Thatch.lean ====
section
/-! DEFINITION. Thatch arrays: seats, trims, calibration, sparing, and the evaluation of a THATCH stage (R482 to R510). -/
namespace Sys2Proof.Machine

/-- The island of the bank that holds an array: 32 arrays to a bank (R28). -/
def bankIsland (a : Nat) : Nat := 296 + a / 32

/-- A pair of an array, by its place among the 1,152: data 0–1,023, spares, reference from 1,088, calibration from 1,120 (R483). -/
def Arr.pair (x : Arr) (k : Nat) : Pair := smGet {} x.pairs k

def Arr.setPair (x : Arr) (k : Nat) (p : Pair) : Arr := { x with pairs := smSet {} x.pairs k p }

def Dev.modArr (d : Dev) (a : Nat) (f : Arr → Arr) : Dev := d.setArr a (f (d.arr a))

/-- The array's shadow, in address order (R490). -/
def Dev.shadowBytes (d : Dev) (e : Env) (a : Nat) : List Byte := d.bytes e (d.arr a).shadow 0x100000

/-- Data pair k's weights in the shadow: row i at base + 1,024 i + k (R490). -/
def Dev.shadowCol (d : Dev) (e : Env) (a k rows : Nat) : List Byte :=
  (List.range rows).map fun i => d.byte e ((d.arr a).shadow + 1024 * i + k)

/-- A line of the shadow that column k uses is poisoned. -/
def Dev.shadowPoison (d : Dev) (e : Env) (a k rows : Nat) : Bool :=
  (List.range rows).any fun i => d.poisoned e (((d.arr a).shadow + 1024 * i + k) / 64)

/-- A running THATCH stage names the array (R490, R495). -/
def Dev.arrayBusy (d : Dev) (a : Nat) : Bool :=
  d.chains.any fun c => c.stages.any fun s => s.kind == 4 && !s.ended && s.obj ≤ a && Nat.blt a (s.obj + s.count)

/-! ### Calibration (R497 to R499) -/

/-- A calibration trigger for an array (R15, R498): discarded in UNSHADOWED, SEATING and RETIRED; latched, or counted as an
overrun, while a run is due or under way. -/
def Arr.trigger (x : Arr) : Arr :=
  match x.st with
  | .unshadowed => x
  | .seating => x
  | .retired => x
  | .seated => if x.calDue then (if x.calLatched then { x with calOverruns := x.calOverruns + 1 } else { x with calLatched := true })
    else { x with calDue := true }
  | .calibrating => if x.calLatched then { x with calOverruns := x.calOverruns + 1 } else { x with calLatched := true }

/-- The fit of one pair: gains, offsets and residual in force from now on; a pair being trimmed keeps its own (R497, R505). -/
def Arr.fit (x : Arr) (f : PairFit) : Arr :=
  let p := x.pair f.pair
  if p.trimming then x else x.setPair f.pair { p with gHi := f.gHi, oHi := f.oHi, gLo := f.gLo, oLo := f.oLo, residual := f.residual }

/-- The pairs whose residual exceeds resid_limit, in ascending order (R497). -/
def Arr.drifted (x : Arr) : List Nat := (x.pairs.filter fun c => Nat.blt 24 c.2.residual && !c.2.trimming).map (·.1)

/-- The next pair that drifts is trimmed from the shadow, one at a time (R497). -/
def Arr.trimNext (x : Arr) : Arr :=
  match x.toTrim with
  | [] => x
  | k :: _ => if (x.pair k).trimming then x else x.setPair k { x.pair k with trimming := true }

/-- A calibration run ends: fits, the tick, the bank temperature, the counters; then pairs that drift are trimmed (R497). -/
def Arr.calibrated (x : Arr) (time : Nat) (temp : Int) (fits : List PairFit) : Arr :=
  let x := fits.foldl Arr.fit x
  let x := { x with
    calLast := time
    calTemp := temp
    sinceCal := 0
    calRuns := x.calRuns + 1
    calTimed := false
    calDue := x.calDue || x.calLatched
    calLatched := false }
  ({ x with toTrim := x.toTrim ++ (x.drifted.filter fun k => !(x.toTrim.contains k)) } : Arr).trimNext

/-- The thresholds computed since the last run are applied before the first vector of this one (R634). -/
def Arr.newThresh (x : Arr) : Arr :=
  { x with thresholds := x.newThresholds.foldl (fun m c => smSet 0 m c.1 c.2) x.thresholds, newThresholds := [] }

/-! ### Sparing (R500, R501) -/

/-- The array enters RETIRED, counted for its Bay (R501). -/
def Dev.retireArr (d : Dev) (a : Nat) : Dev :=
  (d.modArr a fun x => { x with st := .retired, calDue := false, calLatched := false, toTrim := [] }).count (0x2710 + (d.arr a).bay) 0x13 1

/-- A pair takes the lowest free spare, passing over those that fail, which stay consumed; none where all are consumed (R500). -/
def Arr.takeSpare (x : Arr) (k : Nat) (bad : List Nat) : Option Arr :=
  match (List.range 64).find? fun s => x.sparesUsed ≤ s && !(bad.contains s) with
  | some s => some ({ x with sparesUsed := s + 1 }.setPair k { x.pair k with spare := some s })
  | none => none

/-! ### Seats (R490 to R494) -/

/-- The contiguous 1 MiB of local memory that a DVA names: `none` while a walk is under way, no address where it is none (R490). -/
def Dev.seatRange (d : Dev) (w : Who) (n s dva : Nat) : Option (Option Nat) × Dev :=
  let r := (List.range 256).foldl (fun (c : List Tr × Dev) i =>
    let t := c.2.translate w n s (dva + 4096 * i) false
    (c.1 ++ [t.1], t.2)) (([], d) : List Tr × Dev)
  if r.1.any (· == .miss) then (none, r.2)
  else match r.1 with
    | .loc a :: _ => (some (if a % 0x100000 = 0 && r.1 == (List.range 256).map fun i => Tr.loc (a + 4096 * i) then some a else none), r.2)
    | _ => (some none, r.2)

/-- Every holder of a shadow line is snooped with SnpInv and its data written back (R277, R493): an invalidating request of
the bank that writes no byte. -/
def Dev.seatSnoops (d : Dev) (e : Env) (a base : Nat) : Dev :=
  let l0 := base / 64
  let known := (d.ridge.dir.map (·.1)) ++ ((e.mem.map (·.1)).filter fun x => 0x5E80000000 ≤ x).map (· - 0x5E80000000)
  ((known.filter fun l => l0 ≤ l && Nat.blt l (l0 + 16384)).foldl (fun l x => listIns x l) []).foldl (fun d l =>
    d.homeArrive e l { op := .ncWrite, a := bankIsland a, mask := 0 }) d

/-- SEAT (R490, R493): judged in the order of R490; accepted, the seat counts and the array enters SEATING. -/
def Dev.seatCmd (d : Dev) (e : Env) (n q : Nat) (p : W32) : Dev :=
  match d.startedCmd n q p 0x30 with
  | none => d
  | some k =>
    let a := k.f 8 2
    let src := k.f 0x10 8
    let x := d.arr a
    if src % 0x100000 != 0 then d.endCmd e n q p .format 0x10 .own
    else match d.seatRange (.cmd (8 * n + q) p.toNat) n k.space src with
      | (none, d) => d
      | (some none, d) => d.endCmd e n q p .format 0x10 .own
      | (some (some base), d) =>
        if !(inHbm base && (d.bay n).held.hbm.has (granule base)) then d.endCmd e n q p .access 0 .own
        else if !(x.st == .unshadowed || x.st == .seated || x.st == .retired) || d.arrayBusy a || (d.strict n && d.cmdInJob n q) then
          d.stateCmd e n q p a
        else if 10000 ≤ smGet 0 d.nv.seats a then d.endCmd e n q p .quota 0 .own
        else
          let d := d.seatSnoops e a base
          let d := { d with nv := { d.nv with seats := smSet 0 d.nv.seats a (smGet 0 d.nv.seats a + 1) } }
          (d.setArr a { x with
            st := .seating
            bay := n
            set := k.f 0x18 4
            shadow := base
            sparesUsed := 0
            evals := 0
            calDue := false
            calLatched := false
            pairs := []
            toTrim := []
            seatCmd := some (q, p) }).modCmd n q p fun c => { c with ph := .running }

/-- The command of a seat or trim completes, if it has not already (R142). -/
def Dev.arrCmd (d : Dev) (e : Env) (n : Nat) (c : Option (Nat × W32)) (st : Status) : Dev :=
  match c with
  | some (q, p) => d.endCmd e n q p st 0 .own
  | none => d

/-- An invalidation or a write of a line of the array's shadow still waits at its home (R491, R493, R495). -/
def Dev.shadowBusy (d : Dev) (a : Nat) : Bool :=
  let l0 := (d.arr a).shadow / 64
  let own (l : Nat) : Bool := l0 ≤ l && Nat.blt l (l0 + 16384)
  (d.ridge.txns.any fun t => own t.line && !t.granted) || d.ridge.waiting.any fun c => own c.1

/-- The cells of an array hold new weights, across cold starts too (R83, R493). -/
def Dev.setCells (d : Dev) (a : Nat) (bs : List Byte) : Dev := { d with nv := { d.nv with cells := smSet [] d.nv.cells a bs } }

/-- A seat ends: on a shadow that cannot be read, `INTEGRITY` and UNSHADOWED; spares exhausted, `FAULT` and RETIRED; else the
array is SEATED with its calibration run done (R492 to R494, R500). What the cells hold where it ends after some row is open: free values. -/
def Dev.seatEnd (d : Dev) (e : Env) (a : Nat) (m : SeatMeas) : Dev :=
  let x := d.arr a
  if x.st != .seating || d.shadowBusy a then d else
  let n := x.bay
  if m.shadowError || (List.range 16384).any fun i => d.poisoned e (x.shadow / 64 + i) then
    (((d.drawn true 0x100000).setCells a (freeBytes d.free 0x100000)).setArr a { x with st := .unshadowed, seatCmd := none }).arrCmd e n x.seatCmd .integrity
  else
    let d := d.setCells a (d.shadowBytes e a)
    let y := { x with digest := sha384 (d.shadowBytes e a), seatCmd := none }
    match (m.weak.foldl (fun l k => listIns k l) []).foldl (fun (c : Option Arr) k => c.bind fun y => y.takeSpare k m.badSpares) (some y) with
    | none => ((d.setArr a { y with sparesUsed := 64 }).retireArr a).arrCmd e n x.seatCmd .fault
    | some y =>
      (d.setArr a (({ y with st := .seated } : Arr).calibrated e.time (smGet 0 d.board.islandTemp (bankIsland a)) m.fits)).arrCmd
        e n x.seatCmd .ok

/-! ### Trims (R495, R496, R500) -/

/-- New weights replace column k of the shadow, at the lines' homes (R491, R495). -/
def Dev.shadowPut (d : Dev) (e : Env) (a k : Nat) (ws : List Byte) : Dev :=
  ws.zipIdx.foldl (fun d w =>
    let x := (d.arr a).shadow + 1024 * w.2 + k
    d.homeArrive e (x / 64) { op := .ncWrite, a := bankIsland a, mask := partMask (x % 64) 1, data := zeros (x % 64) ++ [w.1] }) d

/-- TRIM (R495): legal on a SEATED array and a pair not being trimmed, outside the open job of a strict Bay; new weights are
read first, and need that no running THATCH stage names the array. -/
def Dev.trimCmd (d : Dev) (e : Env) (n q : Nat) (p : W32) : Dev :=
  match d.startedCmd n q p 0x31 with
  | none => d
  | some c =>
    let a := c.f 8 2
    let k := c.f 0xA 2
    let src := c.f 0x10 8
    let x := d.arr a
    let go (d : Dev) : Dev := (d.modArr a fun x => x.setPair k { x.pair k with trimming := true, renewed := src != 0, cmd := some (q, p) }).modCmd n q p
      fun c => { c with ph := .running }
    if x.st != .seated || (x.pair k).trimming || (d.strict n && d.cmdInJob n q) || (src != 0 && d.arrayBusy a) then d.stateCmd e n q p a
    else if src = 0 then go d
    else match d.readRange e (.cmd (8 * n + q) p.toNat) n c.space src 1024 with
      | (.got _ true, d) => d.endCmd e n q p .integrity 0 .own
      | (.got bs false, d) => go (d.shadowPut e a k bs)
      | (.wait, d) => d
      | (m, d) => d.accFail e (.cmd (8 * n + q) p.toNat) n c.space src false 0 m

/-- A trim ends: its fit is in force if it holds, else the pair takes a spare, whose own fit is to come; with none free the
array retires (R495, R496, R500, R501). -/
def Dev.trimEnd (d : Dev) (e : Env) (a k : Nat) (f : PairFit) (spareOk : Bool) : Dev :=
  let x := d.arr a
  let y := x.pair k
  let digest := if y.renewed then sha384 (d.shadowBytes e a) else x.digest
  if !y.trimming || d.shadowBusy a then d
  else
  let d := if y.renewed then d.setCells a (d.shadowBytes e a) else d
  if f.residual ≤ 24 && (y.spare.isNone || spareOk) then
    let z := x.setPair k { y with
      gHi := f.gHi
      oHi := f.oHi
      gLo := f.gLo
      oLo := f.oLo
      residual := f.residual
      trimming := false
      renewed := false
      cmd := none }
    let z := { z with
      trims := x.trims + 1
      toTrim := x.toTrim.filter (· != k)
      digest := digest }
    (d.setArr a z.trimNext).arrCmd e x.bay y.cmd .ok
  else match x.takeSpare k [] with
    | some z => d.setArr a z
    | none =>
      ((d.setArr a ({ x with trims := x.trims + 1, digest := digest }.setPair k
        { y with residual := f.residual, trimming := false, renewed := false, cmd := none })).retireArr a).arrCmd e x.bay y.cmd .fault

/-! ### Evaluation (R484 to R488, R510) -/

/-! The fields of a layer descriptor (Table — Thatch layer descriptor). -/
def lK (x : List Byte) : Nat := fld x 0 2
def lN (x : List Byte) : Nat := fld x 2 2
def lAvg (x : List Byte) : Nat := fld x 4 1
def lSet (x : List Byte) : Nat := fld x 8 4
def lBias (x : List Byte) : Nat := fld x 0x10 8
def lRt (x : List Byte) : Nat := cdiv (lK x) 1024
def lCt (x : List Byte) : Nat := cdiv (lN x) 1024

/-- To nearest, ties away from zero. -/
def roundAway (p q : Int) : Int := if 0 ≤ p then (2 * p + q) / (2 * q) else -((-2 * p + q) / (2 * q))

/-- The estimate of a column's level sum (R487). -/
def estCol (codes : List Nat) (g : Nat) (o : Int) (a : Nat) : Int :=
  roundAway (((codes.sum : Nat) - (a : Int) * o) * g) (a * 65536)

/-- The pair that serves pair k after sparing (R483, R500). -/
def Arr.serves (x : Arr) (k : Nat) : Nat := match (x.pair k).spare with | some s => 1024 + s | none => k

/-- Driven rows of a tile with bit j of their input set (R485, R486). -/
def planeCount (xs : List Byte) (j : Nat) : Nat := (xs.filter fun b => bit b.toNat j).length

/-- The planes that an evaluation does not skip (R486). -/
def planesOf (xs : List Byte) : List Nat := (List.range 8).filter fun j => planeCount xs j != 0

/-- The codes read of a column in a plane. -/
def codesOf (reads : List AdcRead) (a j col : Nat) : Option (List Nat) :=
  (reads.find? fun r => r.array == a && r.plane == j && r.column == col).map (·.codes)

/-- The estimate of pair k from the columns read; none where a reading is missing (R487). -/
def Arr.estimate (x : Arr) (a k avg : Nat) (xs : List Byte) (reads : List AdcRead) : Option Int :=
  let y := x.pair k
  let c := 2 * x.serves k
  (planesOf xs).foldl (fun s j => s.bind fun s =>
    match codesOf reads a j c, codesOf reads a j (c + 1) with
    | some hi, some lo =>
      let v := 16 * estCol hi y.gHi y.oHi avg + estCol lo y.gLo y.oLo avg - 128 * (planeCount xs j : Int)
      some (if j = 7 then s - 128 * v else s + 2 ^ j * v)
    | _, _ => none) (some 0)

/-- The bound of a pair (R510). -/
def boundOf (avg residual : Nat) (xs : List Byte) : Nat :=
  let ps := planesOf xs
  if ps.isEmpty then 0
  else cdiv (2 * (if avg = 1 then 16 else if avg = 2 then 12 else 8) * residual * (ps.map fun j => if j = 7 then 128 else 2 ^ j).sum) 2040 + 1

/-- The weight that reference pair r holds in row i (R483). -/
def refWeight (r i : Nat) : Int := ((i * (2 * r + 1) + 37 * r) % 256 : Nat) - 128

/-- The weight that calibration pair c holds in every row (R483). -/
def calWeight (c : Nat) : Int := (17 * (c % 16) : Nat) - 128

/-- The weight that the cells of row i hold in a pair of an array, by its place: a data pair's as last programmed, a spare's that of the pair
it serves (R482, R483). -/
def Dev.cellWeight (d : Dev) (a k i : Nat) : Int :=
  let k := if 1024 ≤ k && k < 1088 then ((((d.arr a).pairs.find? fun p => p.2.spare == some (k - 1024)).map (·.1)).getD k) else k
  if k < 1024 then toInt 8 (fld (smGet [] d.nv.cells a) (1024 * i + k) 1)
  else if k < 1120 then refWeight (k - 1088) i
  else calWeight (k - 1120)

/-- The level of the cell of row i in a column: a weight's offset value is split by nibble over its pair's two columns (R482). -/
def Dev.cellLevel (d : Dev) (a col i : Nat) : Nat :=
  let u := (d.cellWeight a (col / 2) i + 128).toNat
  if col % 2 = 0 then u / 16 else u % 16

/-- The exact sum of the levels of a pair's cells over the inputs: 16 h + l - 128 is the weight (R487). -/
def Dev.exactSum (d : Dev) (a k : Nat) (xs : List Byte) : Int :=
  xs.zipIdx.foldl (fun t b => t + ((16 * d.cellLevel a (2 * k) b.2 + d.cellLevel a (2 * k + 1) b.2 : Nat) - 128) * toInt 8 b.1.toNat) 0

/-- A reference pair misses its bound in an evaluation (R498). -/
def Dev.refMiss (d : Dev) (a avg : Nat) (xs : List Byte) (reads : List AdcRead) : Bool :=
  let x := d.arr a
  (List.range 32).any fun r =>
    match x.estimate a (1088 + r) avg xs reads with
    | some s => boundOf avg (x.pair (1088 + r)).residual xs <
        (s - d.exactSum a (1088 + r) xs).natAbs
    | none => false

/-- Inputs of a row tile. -/
def tileOf (xs : List Byte) (rt : Nat) : List Byte := (xs.drop (1024 * rt)).take 1024

/-- The record of output `o`: estimate and bound summed over the row tiles, or flash required (R488, R496, R501, R511). An
estimate that a reading is missing for is taken as `free` where flash is required; otherwise there is no record. -/
def Dev.thatchRecord (d : Dev) (s : Stage) (xs : List Byte) (reads : List AdcRead) (o free : Nat) : Option (List Byte) :=
  let l := s.desc
  let k := o % 1024
  let ts := (List.range (lRt l)).map fun rt => (rt, s.obj + rt * lCt l + o / 1024)
  let flash := ts.any fun t => (d.arr t.2).st == .retired || ((d.arr t.2).pair k).trimming
  let est := ts.foldl (fun c t => c.bind fun c => ((d.arr t.2).estimate t.2 k (lAvg l) (tileOf xs t.1) reads).map (c + ·))
    (some (toInt 32 (fld s.aux (4 * o) 4)))
  let bound := (ts.map fun t => boundOf (lAvg l) ((d.arr t.2).pair k).residual (tileOf xs t.1)).sum
  if flash then some (leBytes 4 (match est with | some v => ofInt 32 v | none => free) ++ leBytes 2 0xFFFF ++ leBytes 2 1)
  else est.map fun v => leBytes 4 (ofInt 32 v) ++ leBytes 2 (min 0xFFFE bound) ++ leBytes 2 0

/-- Every array of a stage has evaluated a vector: counts, and the triggers that follow (R498). -/
def Dev.thatchCount (d : Dev) (s : Stage) (xs : List Byte) (reads : List AdcRead) : Dev :=
  (List.range s.count).foldl (fun d i =>
    let a := s.obj + i
    let x := d.arr a
    let x := { x with evals := x.evals + 1, sinceCal := x.sinceCal + 1 }
    let x := if x.sinceCal = 2 ^ 20 then x.trigger else x
    let x := if d.refMiss a (lAvg s.desc) (tileOf xs (i / max 1 (lCt s.desc))) reads then { x with tvMisses := x.tvMisses + 1 }.trigger else x
    d.setArr a x) d

/-- One evaluation of stage i: the next vector of its input ring on every array of the stage, its records to the output ring.
It waits while an array calibrates or the output ring is full; the stage ends with its input (R417, R485 to R488, R499). -/
def Dev.thatchEval (d : Dev) (e : Env) (n q : Nat) (p : W32) (i : Nat) (reads : List AdcRead) : Dev :=
  let d := (d.stagePut n q p (i - 1)).stagePut n q p i
  match d.stageOf n q p i, (d.chainOf n q p).bind (·.inRing i), d.stageOf n q p (i - 1) with
  | some s, some r, some prev =>
    let kp := pad64 (lK s.desc)
    if s.ended || (d.ringGate r).isSome || !s.outb.isEmpty then d
    else if r.put < (s.vec + 1) * kp then
      if prev.ended && prev.outb.isEmpty then d.stageEnd e n q p i .ok 0 .own else d
    else if (List.range s.count).any fun j => (d.arr (s.obj + j)).st == .calibrating then
      if prev.kind = 1 && (d.course prev.obj).st == .running then d.courseStall e prev.obj 6 else d
    else
      let x := d.ringRead e r (s.vec * kp) (lK s.desc)
      if x.2 then (d.ringPoison n r).stageEnd e n q p i .integrity 0 .noted
      else
        match (List.range (lN s.desc)).mapM fun o => d.thatchRecord s x.1 reads o (Config.freeValue (d.free + o) % 2 ^ 32) with
        | none => d
        | some rs =>
          let d := { d with free := d.free + lN s.desc }
          (((d.modStage n q p i fun s => { s with vec := s.vec + 1, outb := s.outb ++ padLine rs.flatten }).stagePut n q p i).thatchCount
            s x.1 reads)
  | _, _, _ => d

/-- A row that evaluates a vector: the stage of the chain at a queue's position, and the codes read. -/
def Instr.evaluates : Instr → Option (Nat × Nat × W32 × Nat × List AdcRead)
  | .thatchEvaluation n q p i reads => some (n.val, q.val, p, i.val, reads)
  | _ => none

/-- The evaluation that such a row is. -/
def Dev.evaluation (d : Dev) (e : Env) (c : Nat × Nat × W32 × Nat × List AdcRead) : Dev :=
  match d.stageOf c.1 c.2.1 c.2.2.1 c.2.2.2.1 with
  | some t => if t.kind = 4 then d.thatchEval e c.1 c.2.1 c.2.2.1 c.2.2.2.1 c.2.2.2.2 else d
  | none => d

/-- The evaluation is one of an array. -/
def Dev.evaluatesArr (d : Dev) (a : Nat) (c : Nat × Nat × W32 × Nat × List AdcRead) : Bool :=
  match d.stageOf c.1 c.2.1 c.2.2.1 c.2.2.2.1 with
  | some t => t.kind == 4 && t.obj ≤ a && Nat.blt a (t.obj + t.count)
  | none => false

end Sys2Proof.Machine
end

