-- ==== Sys2Proof/Machine/Certify.lean ====
section
/-! DEFINITION. Certified requantisation: the test of each record, the Flashing path, and the audit (R511 to R524). -/
namespace Sys2Proof.Machine

/-- What the test makes of a record. -/
inductive Verdict where
  | certified (v : Int)
  | required
  | wraps
  | straddles
deriving DecidableEq, Repr

/-- The test of a record: estimate e, bound b, the flash-required bit, and the output's entry (R511, R514). -/
def certTest (e : Int) (b : Nat) (flash : Bool) (k : Rq) : Verdict :=
  if flash || 0xFFFE ≤ b then .required
  else if e - b < -2 ^ 31 || 2 ^ 31 - 1 < e + b then .wraps
  else if requant (e - b) k = requant (e + b) k then .certified (requant e k)
  else .straddles

/-- Outputs of the layer that a requantise stage follows. -/
def Dev.certLayer (d : Dev) (n q : Nat) (p : W32) (i : Nat) : List Byte := ((d.stageOf n q p (i - 1)).map (·.desc)).getD []

/-- The exact int32 sum of output `out` of input vector `vec`, from the shadows and the THATCH stage's input ring; none where
what it reads is poisoned (R516, R521). -/
def Dev.flashSum (d : Dev) (e : Env) (n q : Nat) (p : W32) (i vec out : Nat) : Option Nat :=
  match d.stageOf n q p (i - 1), (d.chainOf n q p).bind (·.inRing (i - 1)) with
  | some s, some r =>
    let l := s.desc
    let k := out % 1024
    let x := d.ringRead e r (vec * pad64 (lK l)) (lK l)
    let ts := (List.range (lRt l)).map fun rt => (s.obj + rt * lCt l + out / 1024, min 1024 (lK l - 1024 * rt))
    if x.2 || ts.any fun t => d.shadowPoison e t.1 k t.2 then none
    else some (dotInt8 (ts.map fun t => d.shadowCol e t.1 k t.2).flatten x.1 (fld s.aux (4 * out) 4))
  | _, _ => none

/-- The next line of outputs of a requantise stage, once every output of it is resolved: its bytes, padded with zeros at the
end of a vector (R515; DESIGN CHOICE, log entry 17). -/
def certLine (s : Stage) (outs : Nat) : Option (List Byte) :=
  (List.range 64).mapM fun t =>
    if outs ≤ (s.placed + t) % pad64 outs then some 0 else (s.outs.find? fun c => c.1 == s.placed + t).map (·.2)

/-- Resolved lines go to the output ring, or to memory where the stage is the chain's last (R515). -/
def Dev.certPlace (d : Dev) (e : Env) (n q : Nat) (p : W32) (i : Nat) : Nat → Dev
  | 0 => d
  | f + 1 =>
    match d.stageOf n q p i with
    | none => d
    | some s =>
      let outs := lN (d.certLayer n q p i)
      match if s.vec * pad64 outs + s.idx ≤ s.placed then none else certLine s outs with
      | none => d
      | some bs =>
        let next (d : Dev) : Dev := d.modStage n q p i fun s => { s with
          placed := s.placed + 64
          outs := s.outs.filter fun c => s.placed + 64 ≤ c.1 }
        match s.ring with
        | some _ => (((next d).modStage n q p i fun s => { s with outb := s.outb ++ bs }).stagePut n q p i).certPlace e n q p i f
        | none =>
          let g := s.obj
          match d.writeRange e (.engine g) n ((d.chainOf n q p).map (·.space) |>.getD 0) (oDst s.desc + s.placed) bs false with
          | (.done, d) => (next d).certPlace e n q p i f
          | (.wait, d) => d
          | (m, d) => d.accFail e (.engine g) n ((d.chainOf n q p).map (·.space) |>.getD 0) (oDst s.desc + s.placed) true 1 m

/-- The input vectors of which every output is resolved leave the THATCH stage's input ring (R513). -/
def Dev.certRelease (d : Dev) (n q : Nat) (p : W32) (i : Nat) : Dev :=
  match d.stageOf n q p i, (d.chainOf n q p).bind (·.inRing (i - 1)) with
  | some s, some r =>
    let v := (d.tasks.filter fun t => t.bay == n && t.q == q && t.p == p && t.stage == i).foldl (fun v t => min v t.vec) s.vec
    (d.setInRing n q p (i - 1) { r with rel := v * pad64 (lK (d.certLayer n q p i)) }).stagePut n q p (i - 2)
  | _, _ => d

/-- An output is resolved (R515). -/
def Dev.certOut (d : Dev) (n q : Nat) (p : W32) (i vec out : Nat) (v : Int) : Dev :=
  let at_ := vec * pad64 (lN (d.certLayer n q p i)) + out
  d.modStage n q p i fun s => { s with outs := smIns at_ (BitVec.ofNat 8 (ofInt 8 v)) s.outs }

/-- The stage ends once its input has run dry and every output is placed (R417, R515). -/
def Dev.certEnd (d : Dev) (e : Env) (n q : Nat) (p : W32) (i : Nat) : Dev :=
  match d.stageOf n q p i, d.chainOf n q p with
  | some s, some ch =>
    let g := s.obj
    if ch.dry i && s.idx = 0 && s.vec * pad64 (lN (d.certLayer n q p i)) ≤ s.placed && (d.engine g).run.isSome then
      let d := d.engineFree g
      let d := d.setEngine g { d.engine g with ops := (d.engine g).ops + 1 }
      (d.pulse e n (oSpar s.desc)).opEnd e n q p (some i) .ok 0 .own
    else d
  | _, _ => d

/-- What resolving an output lets happen: lines placed, vectors released, the stage's end. -/
def Dev.certSettle (d : Dev) (e : Env) (n q : Nat) (p : W32) (i : Nat) : Dev :=
  let lines := ((d.stageOf n q p i).map fun s => s.outs.length).getD 0 + 2
  ((d.certPlace e n q p i lines).certRelease n q p i).certEnd e n q p i

/-- A flash task is queued (R516); for an audit with the record it judges (R518). -/
def Dev.queueTask (d : Dev) (t : Task) : Dev :=
  let d := { d with tasks := d.tasks ++ [t] }
  d.maxOd (0x2730 + t.bay) 8 (d.tasks.filter fun x => x.bay == t.bay).length

/-- Outputs certified and flashed count for the open job of a strict Bay (R530). -/
def Dev.jobOutputs (d : Dev) (n cert flash : Nat) : Dev :=
  if d.inJob n then d.setJour n { d.jour n with certified := (d.jour n).certified + cert, flashed := (d.jour n).flashed + flash } else d

/-- CERTIFY: the requantise stage tests its next record (R514 to R518). -/
def Dev.certify (d : Dev) (e : Env) (n q : Nat) (p : W32) (i : Nat) : Dev :=
  match d.stageOf n q p i with
  | none => d
  | some s0 =>
    if s0.kind != 3 || s0.ekind != 5 || oFn s0.desc != 2 || s0.ended || i = 0 then d else
    let d := d.stagePut n q p i
    let l := d.certLayer n q p i
    match d.stageFeed e n q p i 8 with
    | (false, d) => d.certSettle e n q p i
    | (true, d) =>
      match d.stageOf n q p i with
      | none => d
      | some s =>
        let rec_ := s.inb.take 8
        let k := rqEntry s.aux s.idx
        let est := toInt 32 (fld rec_ 0 4)
        let bound := fld rec_ 4 2
        let task : Task := { bay := n, q := q, p := p, stage := i, vec := s.vec, out := s.idx }
        let last := lN l ≤ s.idx + 1
        -- the record is used up, and at a vector's end the padding behind it
        let used := if last then 8 + (pad64 (8 * lN l) - 8 * lN l) else 8
        let d := d.modStage n q p i fun s => { s with
          inb := s.inb.drop used
          idx := if last then 0 else s.idx + 1
          vec := if last then s.vec + 1 else s.vec }
        let d := match certTest est bound (bit (fld rec_ 6 2) 0) k with
          | .required => (d.count (0x2730 + n) 3 1).queueTask task
          | .wraps => (d.count (0x2730 + n) 5 1).queueTask task
          | .straddles => (d.count (0x2730 + n) 4 1).queueTask task
          | .certified v =>
            let d := (d.count (0x2730 + n) 2 1).jobOutputs n 1 0
            let every := d.od (0x2730 + n) 1
            -- an audited output is placed with the flashed value (R518)
            if every != 0 && d.od (0x2730 + n) 2 % every = 0 then
              d.queueTask { task with audit := true, est := est, bound := bound }
            else d.certOut n q p i s.vec s.idx v
        d.certSettle e n q p i

/-- A requantise stage ends with an error found on the Flashing path: a fault of class JOB (R299, R519, R521). -/
def Dev.certErr (d : Dev) (e : Env) (t : Task) (st : Status) : Dev :=
  match d.stageOf t.bay t.q t.p t.stage with
  | none => d
  | some s =>
    let g := s.obj
    (d.engineFree g).opEnd e t.bay t.q t.p (some t.stage) st 0
      (.by_ { status := st, source := 9, island := engineIsland g, object := g, pos := t.p.toNat, q := t.q })

/-- The flash task that Bay n's flash cores end next, of one kind. -/
def Dev.nextTask (d : Dev) (n : Nat) (audit : Bool) : Option Task := d.tasks.find? fun t => t.bay == n && t.audit == audit

/-- A flash task or an audit ends: its exact sum, by which its output is resolved (R516 to R519). -/
def Dev.taskEnd (d : Dev) (e : Env) (t : Task) (poisoned : Bool) : Dev :=
  let d := { d with tasks := d.tasks.erase t }
  let n := t.bay
  let d := ((d.count (0x2810 + n) 4 1).count 0x2800 6 1).jobOutputs n 0 (b2n !t.audit)
  match if poisoned then none else d.flashSum e n t.q t.p t.stage t.vec t.out with
  | none => d.certErr e t .integrity
  | some x =>
    match d.stageOf n t.q t.p t.stage with
    | none => d
    | some s =>
      let y := toInt 32 x
      if t.audit && (y < t.est - t.bound || t.est + t.bound < y) then
        let d := d.count (0x2730 + n) 7 1
        let d := match d.stageOf n t.q t.p (t.stage - 1) with
          | some h => (List.range (lRt h.desc)).foldl (fun (d : Dev) rt =>
              d.modArr (h.obj + rt * lCt h.desc + t.out / 1024) fun a => ({ a with tvMisses := a.tvMisses + 1 } : Arr).trigger) d
          | none => d
        d.certErr e t .fault
      else
        let d := if t.audit then d.count (0x2730 + n) 6 1 else d
        (d.certOut n t.q t.p t.stage t.vec t.out (requant y (rqEntry s.aux t.out))).certSettle e n t.q t.p t.stage

/-- A row that tests a record: the stage of the chain at a queue's position. -/
def Instr.certifies : Instr → Option (Nat × Nat × W32 × Nat)
  | .certify n q p i => some (n.val, q.val, p, i.val)
  | _ => none

/-- A task's result arrives behind the tests of its tick at its requantise stage (R520). -/
def Dev.taskArrives (d : Dev) (e : Env) (t : Task) (poisoned : Bool) : Dev :=
  (d.lead e (fun c => Instr.certifies c == some (t.bay, t.q, t.p, t.stage)) fun d c =>
    match Instr.certifies c with | some x => d.certify e x.1 x.2.1 x.2.2.1 x.2.2.2 | none => d).taskEnd e t poisoned

end Sys2Proof.Machine
end

