-- ==== Sys2Proof/Machine/Commands.lean ====
section
/-! DEFINITION. The format of commands and its checks (R350, R351). -/
namespace Sys2Proof.Machine

/-- The operand bytes that an opcode names: offset and length. -/
def opNamed (op : Nat) : List (Nat × Nat) :=
  match op with
  | 0x01 => [(8, 1)]
  | 0x02 => [(8, 2), (0x10, 8), (0x18, 4)]
  | 0x03 => [(8, 2), (0xA, 2), (0xC, 2), (0xE, 2), (0x10, 8)]
  | 0x05 => [(8, 4)]
  | 0x06 => [(8, 8), (0x10, 8), (0x18, 2), (0x1C, 4)]
  | 0x07 => [(0x10, 8), (0x18, 2)]
  | 0x08 => [(8, 8)]
  | 0x10 => [(8, 2), (0x10, 8)]
  | 0x11 => [(8, 2), (0x10, 8)]
  | 0x12 => [(8, 8), (0x10, 1)]
  | 0x20 => [(8, 2), (0xA, 2), (0x10, 8), (0x18, 8)]
  | 0x21 => [(8, 1), (9, 1), (0x10, 8)]
  | 0x30 => [(8, 2), (0x10, 8), (0x18, 4)]
  | 0x31 => [(8, 2), (0xA, 2), (0x10, 8)]
  | _ => []

/-- The operand fields of an opcode that hold a DVA. -/
def opDvas (op : Nat) : List Nat :=
  match op with
  | 0x06 => [0x10] | 0x07 => [0x10] | 0x10 => [0x10] | 0x11 => [0x10] | 0x12 => [8] | 0x20 => [0x10, 0x18] | 0x21 => [0x10]
  | 0x30 => [0x10] | 0x31 => [0x10] | _ => []

/-- The opcodes of Table — Opcodes. -/
def opKnown (op : Nat) : Bool := op ≤ 8 || (0x10 ≤ op && op ≤ 0x12) || op == 0x20 || op == 0x21 || op == 0x30 || op == 0x31

/-- The class barrier of Table — Opcodes. -/
def opBarrier (op : Nat) : Bool := op == 1 || (3 ≤ op && op ≤ 7)

/-- A byte of a reserved field that is not zero (R351): the first one, by offset. -/
def Cmd.badByte (c : Cmd) : Option Nat :=
  (List.range 64).find? fun i =>
    let b := c.f i 1
    match i with
    | 0 => !opKnown c.op
    | 1 => 16 ≤ b
    | 2 => 4 ≤ b
    | 3 => b != 0
    | _ =>
      if i < 8 then false
      else if !((opNamed c.op).any fun r => r.1 ≤ i && i < r.1 + r.2) then b != 0
      else (c.op == 1 && i == 8 && 2 ≤ b) || (c.op == 3 && ((i == 0xA && 4 ≤ b) || (i == 0xB && b != 0))) ||
        (c.op == 8 && ((i == 9 && 2 ≤ b % 16 && (b / 2) % 8 != 0) || (i == 0xF && 2 ≤ b))) ||
        -- a DVA above bit 56: its first offending byte is its field's (R364)
        ((opDvas c.op).contains i && !dvaOk (c.f i 8))

/-- The fields of an invalidation (R247): space, whole space, k, base. -/
def invFields (v : Nat) : Nat × Bool × Nat × Nat := (v % 4, bit v 2, bits v 8 3, bits v 56 12 * 4096)

/-- An invalidation whose k or alignment is out of range (R243). -/
def invBad (v : Nat) : Bool :=
  let f := invFields v
  !f.2.1 && (45 < f.2.2.1 || f.2.2.2 % 2 ^ (12 + f.2.2.1) != 0)

/-- A number of a command that is out of its range, by offset (R10, R351). -/
def Cmd.badRange (c : Cmd) : Option Nat :=
  match c.op with
  | 0x02 => firstBad [(4095 < c.f 8 2, 8)]
  | 0x03 => firstBad [(4095 < c.f 8 2, 8), (bit (c.f 0xA 2) 1 && 4095 < c.f 0xE 2, 0xE)]
  | 0x08 => firstBad [(invBad (c.f 8 8), 8)]
  | 0x10 => firstBad [(255 < c.f 8 2, 8)]
  | 0x11 => firstBad [(511 < c.f 8 2, 8)]
  | 0x12 => firstBad [(c.f 0x10 1 = 0 || 8 < c.f 0x10 1, 0x10)]
  | 0x20 => firstBad [(c.f 8 2 != 0xFFFF && 255 < c.f 8 2, 8),
      (c.f 0xA 2 = 0 || 256 < c.f 0xA 2 || (c.f 8 2 != 0xFFFF && 256 < c.f 8 2 + c.f 0xA 2), 0xA)]
  | 0x21 => firstBad [(6 < c.f 8 1, 8), ((engineBase (c.f 8 1)).2 ≤ c.f 9 1, 9)]
  | 0x30 => firstBad [(255 < c.f 8 2, 8)]
  | 0x31 => firstBad [(255 < c.f 8 2, 8), (1023 < c.f 0xA 2, 0xA)]
  | _ => none

/-- The Bay does not hold an object that a command names (R150, R324, R351). -/
def Dev.cmdAccess (d : Dev) (n : Nat) (c : Cmd) : Bool :=
  let h := (d.bay n).held
  match c.op with
  | 0x02 => !(h.spar.has (c.f 8 2))
  | 0x03 => !(bit (c.f 0xA 2) 1) && !(h.spar.has (c.f 8 2))
  | 0x10 => !(h.hasGutter (c.f 8 2))
  | 0x11 => !(h.course.has (c.f 8 2))
  | 0x20 => c.f 8 2 != 0xFFFF && !((List.range (c.f 0xA 2)).all fun i => h.core.has (c.f 8 2 + i))
  | 0x30 => !(h.thatch.has (c.f 8 2))
  | 0x31 => !(h.thatch.has (c.f 8 2))
  | _ => false

/-- What is wrong with a command in itself: status and detail (R351, R364). -/
def Dev.cmdBad (d : Dev) (n : Nat) (c : Cmd) : Option (Status × Nat) :=
  match c.badByte with
  | some o => some (.format, o)
  | none => match c.badRange with
    | some o => some (.range, o)
    | none => if d.cmdAccess n c then some (.access, 0) else none

end Sys2Proof.Machine
end

