-- ==== Sys2Proof/Machine/Chains.lean ====
section
/-! DEFINITION. CHAIN: the stage table and its checks, preparation, admission, and the start of every stage (R357, R360, R399, R403, R414 to R416, R512). -/
namespace Sys2Proof.Machine

/-! The fields of a stage entry (Table — Stage entry). -/
def tKind (x : List Byte) : Nat := fld x 0 1
def tEng (x : List Byte) : Nat := fld x 1 1
def tObj (x : List Byte) : Nat := fld x 2 2
def tCount (x : List Byte) : Nat := fld x 4 2
def tRes (x : List Byte) : Nat := fld x 6 2
def tDva (x : List Byte) : Nat := fld x 8 8
def tRing (x : List Byte) : Nat := fld x 0x10 8
def tLog (x : List Byte) : Nat := fld x 0x18 1
def tRate (x : List Byte) : Nat := fld x 0x1C 4

/-- A field of stage i that is malformed, by offset in the table (R414, R415, R512). -/
def stageForm (n : Nat) (i : Nat) (x : List Byte) (prev : Option (List Byte)) : Option Nat :=
  let k := tKind x
  let noRing := i + 1 = n || k = 1
  (firstBad [(k = 0 || 5 < k || (i = 0 && k != 1 && k != 2) || (k = 1 && i != 0 && i + 1 != n) || (k = 4 && i + 1 = n), 0),
      (prev.any fun y => tKind y == 4 && (k != 3 || tEng x != 5), 0),
      (k != 3 && tEng x != 0, 1), (k != 4 && k != 5 && tCount x != 0, 4), (k != 2 && tRes x != 0xFFFF, 6), (!dvaOk (tDva x), 8),
      (if noRing then tRing x != 0
       else !dvaOk (tRing x) || tRing x = 0 || (12 ≤ tLog x && tLog x ≤ 24 && tRing x % 2 ^ tLog x != 0), 0x10),
      (noRing && tLog x != 0, 0x18), (fld x 0x19 1 != 0, 0x19), (fld x 0x1A 1 != 0, 0x1A), (fld x 0x1B 1 != 0, 0x1B)]).map (32 * i + ·)

/-- A number of stage i that is out of its range (R351). -/
def stageRange (n i : Nat) (x : List Byte) : Option Nat :=
  let k := tKind x
  (firstBad [(k = 3 && 6 < tEng x, 1),
      ((k = 1 && 512 ≤ tObj x) || (k = 2 && 256 ≤ tObj x) || (k = 3 && (engineBase (tEng x)).2 ≤ tObj x) ||
       (k = 4 && 256 < tObj x + tCount x) || (k = 5 && tObj x != 0xFFFF && 256 < tObj x + tCount x), 2),
      (k = 5 && (tCount x = 0 || 256 < tCount x), 4), (k = 2 && tRes x != 0xFFFF && 512 ≤ tRes x, 6),
      (i + 1 != n && k != 1 && (tLog x < 12 || 24 < tLog x), 0x18)]).map (32 * i + ·)

/-- The Bay does not hold an object that stage i names (R351, R415). -/
def Dev.stageAccess (d : Dev) (n : Nat) (x : List Byte) : Bool :=
  let h := (d.bay n).held
  let all (r : Rng) : Bool := (List.range (tCount x)).all fun j => r.has (tObj x + j)
  match tKind x with
  | 1 => !(h.course.has (tObj x))
  | 2 => !(h.hasGutter (tObj x)) || (tRes x != 0xFFFF && !(h.course.has (tRes x)))
  | 4 => !(all h.thatch)
  | 5 => tObj x != 0xFFFF && !(all h.core)
  | _ => false

/-- What has been read for a chain so far; it is kept where another read has to wait. -/
structure Ld where
  d : Dev
  got : List (Nat × List Byte) := []

/-- A structure of a chain is read. -/
def Ld.read (l : Ld) (e : Env) (w : Who) (n s dva len : Nat) : (List Byte ⊕ Prep) × Ld :=
  match l.d.readPrep e w n s dva len with
  | (.inl b, d) => (.inl b, ⟨d, l.got ++ [(dva, b)]⟩)
  | (.inr p, d) => (.inr p, ⟨d, l.got⟩)

/-- The layer descriptor of a THATCH stage (R484): what is wrong with it. -/
def layerBad (count : Nat) (x : List Byte) : Option (Status × Nat) :=
  match (firstBad [(lAvg x != 1 && lAvg x != 2 && lAvg x != 4, 4)]).orElse fun _ => (firstNonZero x 5 3).orElse fun _ =>
      (firstNonZero x 0xC 4).orElse fun _ => (firstBad [(!dvaOk (lBias x), 0x10)]).orElse fun _ => firstNonZero x 0x18 40 with
  | some o => some (.format, o)
  | none => match firstBad [(lK x = 0 || 32768 < lK x, 0), (lN x = 0 || 32768 < lN x, 2)] with
    | some o => some (.range, o)
    | none => if lRt x * lCt x != count then some (.format, 0) else none

/-- The structures that a stage names are read and judged. `ring`: depths of its input and output rings. -/
def Ld.stage (l : Ld) (e : Env) (w : Who) (n q : Nat) (p : W32) (s i : Nat) (x : List Byte) (prev : Option (List Byte))
    (ring : Nat → Option Nat) : (Stage ⊕ Prep) × Ld :=
  let st : Stage := { kind := tKind x, ekind := tEng x, obj := if tKind x = 3 then (engineBase (tEng x)).1 + tObj x else tObj x, count := tCount x, res := tRes x, dva := tDva x, rate := tRate x }
  match tKind x with
  | 1 =>
    let c := tObj x
    let y := l.d.course c
    if y.st != .idle then (.inl st, l) else
    let d := if y.bay == n && y.q == q && y.p == p && y.list == tDva x && !y.hdr.isEmpty then l.d else
      l.d.setCourse c { y with bay := n, q := q, p := p, space := s, list := tDva x, hdr := [], entries := [], pages := [] }
    match d.courseLoad e c n s (tDva x) with
    | (.ok, d) =>
      if cOut (d.course c).hdr == (i == 0) then (.inr (.bad .format 4), ⟨d, l.got⟩)
      else (.inl st, ⟨d, l.got⟩)
    | (r, d) => (.inr r, ⟨d, l.got⟩)
  | 2 =>
    -- the first descriptor of a stage that carries a reservation says what its source loads (R416)
    if i = 0 && tRes x != 0xFFFF && tRate x != 0 then
      match l.read e w n s (tDva x) 64 with
      | (.inl b, l) => (.inl { st with desc := b }, l)
      | (.inr r, l) => (.inr r, l)
    else (.inl st, l)
  | 3 =>
    match l.read e w n s (tDva x) 64 with
    | (.inr r, l) => (.inr r, l)
    | (.inl b, l) =>
      let cert := prev.any fun y => tKind y == 4
      match l.d.descBad n (tEng x) b (i != 0) (tRing x != 0) cert with
      | some (t, o) => (.inr (.bad t o), l)
      | none =>
        if cert && oFn b != 2 then (.inr (.bad .format 1), l)
        else if !cert then (.inl { st with desc := b }, l)
        else match l.read e w n s (oAux b) 16 with
          | (.inr r, l) => (.inr r, l)
          | (.inl h, l) =>
            match (if fld h 0 4 = 0 || 65536 < fld h 0 4 then (.inl [], l) else l.read e w n s (oAux b + 16) (16 * fld h 0 4)) with
            | (.inr r, l) => (.inr r, l)
            | (.inl t, l) => match rqBad (h ++ t) false with
              | some (t, o) => (.inr (.bad t o), l)
              | none => (.inl { st with desc := b, aux := h ++ t }, l)
  | 4 =>
    match l.read e w n s (tDva x) 64 with
    | (.inr r, l) => (.inr r, l)
    | (.inl b, l) => match layerBad (tCount x) b with
      | some (t, o) => (.inr (.bad t o), l)
      | none =>
        if lBias b = 0 then (.inl { st with desc := b }, l)
        else match l.read e w n s (lBias b) (4 * lN b) with
          | (.inl t, l) => (.inl { st with desc := b, aux := t }, l)
          | (.inr r, l) => (.inr r, l)
  | _ =>
    match l.read e w n s (tDva x) 64 with
    | (.inr r, l) => (.inr r, l)
    | (.inl h, l) =>
      match (if fld h 0 4 = 0 || 4096 < fld h 0 4 then (.inl [], l) else l.read e w n s (tDva x + 64) (32 * fld h 0 4)) with
      | (.inr r, l) => (.inr r, l)
      | (.inl ops, l) => match progBad h ops ring true with
        | some (t, o) => (.inr (.bad t o), l)
        | none => (.inl { st with desc := h, aux := ops }, l)

/-- The rings of a chain: the block list's for a first COURSE stage, else the entry's, whose pages must be the Bay's Loft bytes
(R414, R415). None while a walk is under way, no list where a ring is refused, by the stage that names it. -/
def Dev.chainRings (d : Dev) (w : Who) (n s : Nat) (xs : List (List Byte)) : Option (List (Option Ring) ⊕ Nat) × Dev :=
  let r := xs.zipIdx.foldl (fun (c : List (Option Ring) × Option (Option Nat) × Dev) x =>
    if c.2.1.isSome then c else
    if tKind x.1 = 1 then
      (c.1 ++ [if x.2 = 0 then some { pages := (c.2.2.course (tObj x.1)).pages, log := cLog (c.2.2.course (tObj x.1)).hdr : Ring } else none],
        none, c.2.2)
    else if tRing x.1 = 0 then (c.1 ++ [none], none, c.2.2)
    else match c.2.2.ringPages w n s (tRing x.1) (tLog x.1) true with
      | (none, d) => (c.1, some none, d)
      | (some none, d) => (c.1, some (some x.2), d)
      | (some (some l), d) => (c.1 ++ [some { pages := l, log := tLog x.1 }], none, d)) (([], none, d) : List (Option Ring) × Option (Option Nat) × Dev)
  match r.2.1 with
  | some none => (none, r.2.2)
  | some (some i) => (some (.inr i), r.2.2)
  | none => (some (.inl r.1), r.2.2)

/-- The first stage whose ring shares a byte with an earlier one (R415). -/
def ringClash (rs : List (Option Ring)) : Option Nat :=
  ((List.range rs.length).find? fun i => (rs.take i).any fun r => match r, (rs[i]?).getD none with
    | some a, some b => a.pages.any b.pages.contains
    | _, _ => false)

/-- A last out-Course names another ring than its predecessor's, or another depth (R415). -/
def Dev.outCourseBad (d : Dev) (xs : List (List Byte)) : Option Nat :=
  let n := xs.length
  match xs[n - 1]?, xs[n - 2]? with
  | some x, some y =>
    if n < 2 || tKind x != 1 then none else
    let h := (d.course (tObj x)).hdr
    let r : Nat × Nat := if tKind y = 1 then (cRing (d.course (tObj y)).hdr, cLog (d.course (tObj y)).hdr) else (tRing y, tLog y)
    if cRing h != r.1 then some 8 else if cLog h != r.2 then some 7 else none
  | _, _ => none

/-- The loads that a chain asks for, in one step (R416). -/
def Dev.chainLoads (d : Dev) (n s : Nat) (ss : List Stage) : List (Nat × Nat) :=
  let rates := d.stageRates ss
  ((ss.zip rates).zipIdx.map fun c =>
    let x := c.1.1
    let mem := if x.kind = 1 then [(d.courseRes (d.course x.obj) n s, cRate (d.course x.obj).hdr)]
      else if c.2 = 0 && x.kind = 2 && x.res != 0xFFFF && x.rate != 0 then
        match d.resOf n s (gSrc x.desc) false with | some r => [(r, x.rate)] | none => []
      else []
    mem ++ (match x.ring with | some r => [(bankRes (r.pages.headD 0), 2 * c.1.2)] | none => [])).flatten

/-- The rings of COURSE stages are deep enough for what they load (R402). -/
def Dev.chainDeep (d : Dev) (n s : Nat) (ss : List Stage) : Bool :=
  ss.all fun x => x.kind != 1 || (let y := d.course x.obj; ringDeep (2 ^ cLog y.hdr) (cRate y.hdr) (d.courseLoads x.obj n s))

/-- The Course is IDLE, or was prepared for the command at a position (R367, R399). -/
def Dev.courseFree (d : Dev) (n q : Nat) (p : W32) (c : Nat) : Bool :=
  let y := d.course c
  y.st == .idle || (y.st == .prepared && y.bay == n && y.q == q && y.p == p)

/-- An object that a stage names is not in the state that its start needs (R367, R415, R484). -/
def Dev.stageState (d : Dev) (n q : Nat) (p : W32) (x : Stage) : Bool :=
  match x.kind with
  | 1 => !(d.courseFree n q p x.obj)
  | 2 => (d.gutter x.obj).st != .idle || (x.res != 0xFFFF && (d.course x.res).st != .idle)
  | 4 => (List.range x.count).any fun j =>
    let a := d.arr (x.obj + j)
    !(a.st == .seated || a.st == .retired) || a.set != lSet x.desc
  | _ => false

/-- Two stages name one object. -/
def stageTwice (ss : List Stage) : Bool :=
  (List.range ss.length).any fun i => (ss.take i).any fun a => match ss[i]? with
    | some b => a.kind == b.kind && a.kind != 5 && a.ekind == b.ekind && a.obj == b.obj
    | none => false

/-- The global numbers of the engines that a chain reserves. -/
def chainEngines (ss : List Stage) : List Nat := (ss.filter (·.kind == 3)).map (·.obj)

/-- The cores of each RUN stage, none where some are not IDLE; no core serves two stages (R434, R443). -/
def Dev.chainCores (d : Dev) (n : Nat) (ss : List Stage) : List (Option (List Nat)) :=
  (ss.foldl (fun (c : List Nat × List (Option (List Nat))) s =>
    if s.kind != 5 then (c.1, c.2 ++ [some []]) else
    let l := if s.obj = 0xFFFF then
        ((d.coolest n (s.count + c.1.length)).filter fun x => !(c.1.contains x)).take s.count
      else (List.range s.count).map (s.obj + ·)
    if l.length = s.count && l.all fun x => d.coreFree x && !(c.1.contains x) then (c.1 ++ l, c.2 ++ [some l])
    else (c.1, c.2 ++ [none])) (([], []) : List Nat × List (Option (List Nat)))).2

/-- Stage i starts (R360). -/
def Dev.stageStart (d : Dev) (e : Env) (n q : Nat) (p : W32) (s i : Nat) (x : Stage) (cores : List Nat) : Dev :=
  match x.kind with
  | 1 =>
    let y := d.course x.obj
    if y.st == .prepared then
      -- the stage goes on from what its Course has prefetched (R399)
      let d := d.modStage n q p i fun (z : Stage) => { z with ring := z.ring.map fun r => { r with put := y.placed } }
      (d.setCourse x.obj { y with st := .running, pass := 1, stage := some i, burstAt := none }).courseStall e x.obj 0
    else
    (d.setCourse x.obj { y with
      st := .running
      entry := 0
      rep := 0
      line := 0
      placed := 0
      released := 0
      pass := 1
      cause := 0
      status := 0
      latched := false
      stage := some i
      burstAt := none
      admitted := true
      trigs := 0
      ord := d.nextOrd }).courseStall e x.obj 0
  | 2 =>
    let d := d.gutterStart x.obj n q p s x.dva (some i)
    if x.res = 0xFFFF then d else
    (d.setCourse x.res { d.course x.res with
      st := .running
      bay := n
      q := q
      p := p
      hdr := []
      entries := []
      stage := some i
      admitted := false }).courseStall e x.res 0
  | 3 =>
    let g := x.obj
    (d.setEngine g { d.engine g with reserved := true, run := some { bay := n, q := q, p := p, space := s, d := x.desc, stage := some i, ord := d.free } }).drawn
      (oFree x.desc) (2 * oCount x.desc)
  | 5 =>
    (if x.obj = 0xFFFF then d.count 0x2800 5 1 else d).runStart { id := d.nextRun, bay := n, q := q, p := p, space := s, ops := x.aux.length / 32, cores := cores, stage := some i }
      x.aux (zeros 64)
  | _ => d

/-- What reading a chain has come to: a read under way or what is wrong, an object that is not in the state needed, or its stages. -/
inductive ChainPrep where
  | stop (r : Prep)
  | busy (obj : Nat)
  | ok (ss : List Stage)
deriving DecidableEq, Repr

/-- What has been read for a chain is kept, so that it is not read again. -/
def Ld.keep (l : Ld) (w : Who) (s : Nat) (d : Dev) : Dev := l.got.foldl (fun d g => d.keepRead w s g.1 g.2) d

/-- A chain's table and structures are read and judged, and its objects' states by `busy` (R360, R414, R415, R512). -/
def Dev.chainLoad (d : Dev) (e : Env) (n q : Nat) (p : W32) (k : Cmd) (busy : Dev → Stage → Bool) : ChainPrep × Ld :=
  let w := Who.cmd (8 * n + q) p.toNat
  let cnt := k.f 0x10 1
  match (Ld.mk d []).read e w n k.space (k.f 8 8) (32 * cnt) with
  | (.inr r, l) => (.stop r, l)
  | (.inl tb, l) =>
    let xs := (List.range cnt).map fun i => (tb.drop (32 * i)).take 32
    let prev (i : Nat) : Option (List Byte) := if i = 0 then none else xs[i - 1]?
    match (xs.zipIdx.findSome? fun x => stageForm cnt x.2 x.1 (prev x.2)) with
    | some o => (.stop (.bad .format o), l)
    | none => match xs.zipIdx.findSome? fun x => stageRange cnt x.2 x.1 with
      | some o => (.stop (.bad .range o), l)
      | none => if xs.any fun x => l.d.stageAccess n x then (.stop (.bad .access 0), l) else
        let depth (y : List Byte) (l : Ld) : Nat := if tKind y = 1 then cLog (l.d.course (tObj y)).hdr else tLog y
        let r := xs.zipIdx.foldl (fun (c : (List Stage ⊕ Prep) × Ld) x => match c.1 with
          | .inr _ => c
          | .inl ss =>
            let ring (slot : Nat) : Option Nat :=
              if slot = 0 then (prev x.2).map fun y => 2 ^ depth y c.2
              else if slot = 1 && tRing x.1 != 0 then some (2 ^ tLog x.1) else none
            match c.2.stage e w n q p k.space x.2 x.1 (prev x.2) ring with
            | (.inl s, l) => (.inl (ss ++ [s]), l)
            | (.inr b, l) => (.inr b, l)) ((.inl [], l) : (List Stage ⊕ Prep) × Ld)
        match r with
        | (.inr r, l) => (.stop r, l)
        | (.inl ss, l) =>
          if ss.any (busy l.d) || stageTwice ss then (.busy (((ss.find? (busy l.d)).map (·.obj)).getD 0xFFFF), l)
          else match l.d.chainRings w n k.space xs with
            | (none, d) => (.stop .wait, ⟨d, l.got⟩)
            | (some (.inr i), d) => (.stop (.bad .format (32 * i + 0x10)), ⟨d, l.got⟩)
            | (some (.inl rs), d) =>
              match (ringClash rs).map (fun i => 32 * i + 0x10) |>.orElse fun _ => d.outCourseBad xs with
              | some o => (.stop (.bad .format o), ⟨d, l.got⟩)
              | none => (.ok ((ss.zip rs).map fun c => ({ c.1 with ring := c.2 } : Stage)), ⟨d, l.got⟩)

/-- The chain that has been prepared for the command at a position. -/
def Dev.preparedFor (d : Dev) (n q : Nat) (p : W32) : Option Chain := d.prepared.find? fun c => c.bay == n && c.q == q && c.p == p

/-- A fetched CHAIN command is prepared: what it names is read and judged, its loads are admitted in one step, and its Courses, still IDLE,
are PREPARED; what fails leaves it unprepared, to be judged at its start (R357, R399, R403, R416). -/
def Dev.chainPrepare (d : Dev) (e : Env) (n q : Nat) (k : Cmd) : Dev :=
  if (d.preparedFor n q k.pos).isSome then d else
  match d.chainLoad e n q k.pos k fun d x => x.kind == 1 && !(d.courseFree n q k.pos x.obj) with
  | (.ok ss, l) =>
    let loads := l.d.chainLoads n k.space ss
    if !(l.d.admits n loads && l.d.chainDeep n k.space ss) then l.keep (.cmd (8 * n + q) k.pos.toNat) k.space l.d
    else (ss.filter (·.kind == 1)).foldl (fun d x => d.courseReady e x.obj)
      { l.d with prepared := l.d.prepared ++ [{ bay := n, q := q, p := k.pos, space := k.space, stages := ss, loads := loads }] }
  | (.stop .wait, l) => l.keep (.cmd (8 * n + q) k.pos.toNat) k.space l.d
  | (_, l) => l.d

/-- Fetched COURSE and CHAIN commands with nothing wrong in themselves are prepared, and those that wait for admission ask again; preparation stops at a HOLD and at a WAIT
that has not completed (R357, R399, R403, R416). -/
def Dev.prepareAll (d : Dev) (e : Env) : Dev :=
  d.queues.foldl (fun d k =>
    let n := k.1 / 8
    let q := k.1 % 8
    ((d.queue n q).cmds.takeWhile fun c => c.op != 2 && c.op != 4).foldl (fun d c =>
      if c.ph != .fetched || (d.cmdBad n c).isSome then d
      else if c.op == 0x11 then d.coursePrepare e n q c
      else if c.op == 0x12 then d.chainPrepare e n q c
      else d) d) d

/-- A chain that has been read starts, once the engines and cores that it takes are free: its loads are admitted in one step, unless they
were at its preparation, and every stage starts. `keep`: what is kept while it waits (R360, R416, R434, R439). -/
def Dev.chainGo (d : Dev) (e : Env) (n q : Nat) (p : W32) (s : Nat) (ss : List Stage) (held : Option (List (Nat × Nat))) (keep : Dev → Dev) : Dev :=
  let engs := chainEngines ss
  let cores := d.chainCores n ss
  if engs.any (fun g => !(d.engFree g)) || cores.any Option.isNone then
    (keep d).modCmd n q p fun (c : Cmd) => { c with snap := engs.map fun g => (g, 0) }
  else
    let loads := held.getD (d.chainLoads n s ss)
    if held.isNone && !(d.admits n loads && d.chainDeep n s ss) then d.endCmd e n q p .quota 0 .own
    else
      let d : Dev := { d with
        prepared := d.prepared.filter fun c => !(c.bay == n && c.q == q && c.p == p)
        chains := d.chains ++ [{ bay := n, q := q, p := p, space := s, stages := ss, loads := loads }] }
      let d := ((ss.zip cores).zipIdx.foldl (fun d c => d.stageStart e n q p s c.2 c.1.1 (c.1.2.getD [])) d)
      d.modCmd n q p fun c => { c with ph := .running, snap := [] }

/-- CHAIN: what was prepared starts; else its table and structures are read and judged, its objects and engines are taken, its loads admitted
in one step, and every stage starts (R360, R414 to R416, R439, R512). -/
def Dev.chainCmd (d : Dev) (e : Env) (n q : Nat) (p : W32) : Dev :=
  match d.startedCmd n q p 0x12 with
  | none => d
  | some k =>
    let w := Who.cmd (8 * n + q) p.toNat
    match d.preparedFor n q p with
    | some h =>
      match h.stages.find? (d.stageState n q p) with
      | some x => (d.unprepare e.time n q p).stateCmd e n q p x.obj
      | none => d.chainGo e n q p k.space h.stages (some h.loads) id
    | none =>
      match d.chainLoad e n q p k fun d x => d.stageState n q p x with
      | (.stop .wait, l) => l.keep w k.space l.d
      | (.stop .ok, l) => l.d
      | (.stop (.bad st o), l) => l.d.endCmd e n q p st o .own
      | (.stop (.failed a m), l) => l.d.accFail e w n k.space a false 2 m
      | (.busy x, l) => l.d.stateCmd e n q p x
      | (.ok ss, l) => l.d.chainGo e n q p k.space ss none (l.keep w k.space)

end Sys2Proof.Machine
end

