-- ==== Sys2Proof/Machine/Settle.lean ====
section
/-! DEFINITION. What every command ends with: Skylight accesses and placement reads, faults by their class, checkpoints, mirror writes and completion records that are
due (R329, R364, R650, R661). -/
namespace Sys2Proof.Machine

/-! ### Checkpoints (R659 to R663, R673) -/

/-- The checkpoint that Bay n copies, and those held behind it. -/
def Dev.ckptHead (d : Dev) (n : Nat) : Option Ckpt := (smGet [] d.ckpts n).head?

def Dev.setCkpt (d : Dev) (n : Nat) (c : Ckpt) : Dev := { d with ckpts := smSet [] d.ckpts n (c :: (smGet [] d.ckpts n).drop 1) }

/-- Where the regions of a checkpoint end, from its slot's base: each begins at a 64-byte boundary (R661). -/
def ckptEnd (rs : List (Nat × Nat)) : Nat := rs.foldl (fun a r => cdiv a 64 * 64 + r.2) 0x1000

/-- A PUT of a checkpoint goes to the peer (R569, R661). -/
def Dev.ckptPut (d : Dev) (e : Env) (n addr : Nat) (bs : List Byte) : Dev :=
  d.sendRemote e (.ckpt n) n { ty := 0x20, vc := 4, dst := d.od (0x2D20 + n) 2, key := d.od (0x2D20 + n) 3, addr := addr, payload := bs }

/-- The header of a checkpoint (Table — Checkpoint header). -/
def Dev.ckptHeader (d : Dev) (e : Env) (n : Nat) (c : Ckpt) : List Byte :=
  let h := leBytes 4 0x0880C4B7 ++ leBytes 4 c.layer ++ leBytes 8 (d.od (0x2D20 + n) 0xA + 1) ++ leBytes 8 c.jobId ++ leBytes 4 c.pos.toNat ++
    leBytes 1 c.q ++ leBytes 1 c.count ++ leBytes 2 d.fabId ++ leBytes 8 c.copied ++ leBytes 8 c.crc ++ leBytes 8 e.time
  h ++ leBytes 8 (crc64 h)

/-- The checkpoint of Bay n advances: its list is read, the next part is PUT, or after the last part the header (R661). -/
def Dev.ckptStep (d : Dev) (e : Env) (n : Nat) : Dev :=
  match d.ckptHead n with
  | none => d
  | some c =>
    let w := Who.ckpt n
    if c.awaiting then d
    else if !c.loaded then
      let cnt := d.od (0x2D20 + n) 7
      match d.readRange e w n 0 (d.od (0x2D20 + n) 6) (32 * cnt) with
      | (.got bs false, d) =>
        let rs := (List.range cnt).map fun i => (fld bs (32 * i) 8, fld bs (32 * i + 8) 8)
        let log := d.od (0x2D20 + n) 5
        if 2 ^ log < ckptEnd rs || (List.range cnt).any (fun i => fld bs (32 * i + 0x10) 2 != 0) || !(rs.all fun r => dvaOk r.1) then d.ckptFail e n
        else d.setCkpt n { c with
          loaded := true
          base := d.od (0x2D20 + n) 4 + (d.od (0x2D20 + n) 0xA + 1) % 2 * 2 ^ log
          count := cnt
          regions := rs }
      | (.wait, d) => d
      | (.absent _, d) => d
      | (.master _, d) => d
      | (.fault k l a, d) => (d.noteFault n 0 a k l false).ckptFail e n
      | (_, d) => d.ckptFail e n
    else match c.regions with
      | [] =>
        if c.header then d
        else (d.ckptPut e n c.base (d.ckptHeader e n c)).setCkpt n { c with header := true, awaiting := true }
      | r :: rest =>
        if r.2 ≤ c.off then d.setCkpt n { c with regions := rest, off := 0, next := cdiv c.next 64 * 64 }
        else
          let a := r.1 + c.off
          let k := min (r.2 - c.off) (min (4096 - a % 4096) (4096 - (c.base + c.next) % 4096))
          match d.readRange e w n 0 a k with
          | (.got bs false, d) =>
            (d.ckptPut e n (c.base + c.next) bs).setCkpt n { c with
              off := c.off + k
              next := c.next + k
              copied := c.copied + k
              crc := crc64From c.crc bs
              awaiting := true }
          | (.wait, d) => d
          | (.absent _, d) => d
          | (.master _, d) => d
          | (.fault k l a, d) => (d.noteFault n 0 a k l false).ckptFail e n
          | (_, d) => d.ckptFail e n

/-- Steps that no acknowledgement has to precede follow at once; 64 regions and the header bound them. -/
def Dev.ckptRun (d : Dev) (e : Env) (n : Nat) : Nat → Dev
  | 0 => d
  | f + 1 => (d.ckptStep e n).ckptRun e n f

/-- The checkpoints under way advance. -/
def Dev.flushCkpts (d : Dev) (e : Env) : Dev := d.ckpts.foldl (fun d c => d.ckptRun e c.1 70) d

/-- The acknowledgement of a checkpoint's PUT: it goes on, ends with its header, or fails (R661, R663). -/
def Dev.ckptAck (d : Dev) (e : Env) (n : Nat) (ok : Bool) : Dev :=
  match d.ckptHead n with
  | none => d
  | some c =>
    if !c.awaiting then d
    else if !ok then d.ckptFail e n
    else if !c.header then d.setCkpt n { c with awaiting := false }
    else
      let d := ((({ d with ckpts := smSet [] d.ckpts n ((smGet [] d.ckpts n).drop 1) } : Dev)).count (0x2D20 + n) 0xA 1).setOd (0x2D20 + n) 0xB c.layer
      let s := d.od (0x2D20 + n) 8
      if s = 0xFFFF then d
      else d.sendRemote e (.ckpt n) n { ty := 0x22, vc := 4, dst := d.od (0x2D20 + n) 2, key := d.od (0x2D20 + n) 9, addr := s, payload := leBytes 8 1 }

/-! ### Skylight accesses (R198, R199) -/

/-- The island that Skylights request from (R28). -/
def skyIsland : Nat := 328

/-- A Skylight access at the homes of its lines; a read of a poisoned line completes with poison, of class JOB (R198). -/
def Dev.skyTry (d : Dev) (e : Env) (n : Nat) (r : SkyReq) : Bool × Dev :=
  let w := Who.sky n
  match r.kind with
  | 0 => match d.writeLines e w .here skyIsland r.a r.data with
    | (.wait, d) => (false, d)
    | (_, d) => (true, d)
  | 1 => match d.readLines e w .here skyIsland r.a r.len with
    | (.wait, d) => (false, d)
    | (.got bs true, d) =>
      (true, (d.hostSend (.cpl r.tag "poison" bs)).fault .job n { status := .integrity, source := 3, island := skyIsland, addr := r.a })
    | (.got bs false, d) => (true, d.hostSend (.cpl r.tag "OK" bs))
    | (_, d) => (true, d.hostSend (.cpl r.tag "UR" []))
  | _ => match d.gather e w .here [(r.a / 64, { op := .ncAtomic, a := skyIsland, aop := r.aop, off := r.a % 64, size := r.len, operand := r.operand, compare := r.compare, returning := true, bay := some n })] with
    | (none, d) => (false, d)
    | (some ((bs, p, .ok) :: _), d) => (true, d.hostSend (.cpl r.tag (if p then "poison" else "OK") bs))
    | (some _, d) => (true, d.hostSend (.cpl r.tag "UR" []))

/-- The lines a Skylight access touches. -/
def SkyReq.lines (r : SkyReq) : List Nat := (lineParts r.a (if r.kind = 0 then r.data.length else r.len)).map (·.1)

/-- A Bay's Skylight accesses advance, in order of receipt on each line. -/
def Dev.flushSky (d : Dev) (e : Env) (n : Nat) : Dev :=
  let r := (d.page n).sky.foldl (fun (c : List SkyReq × List Nat × Dev) x =>
    if x.lines.any c.2.1.contains then (c.1 ++ [x], c.2.1 ++ x.lines, c.2.2)
    else match c.2.2.skyTry e n x with
      | (true, d) => (c.1, c.2.1, d)
      | (false, d) => (c.1 ++ [x], c.2.1 ++ x.lines, d)) ([], [], d)
  r.2.2.setPage n { r.2.2.page n with sky := r.1 }

/-- The Skylight accesses under way advance. -/
def Dev.flushSkies (d : Dev) (e : Env) : Dev :=
  (d.pages.filter fun c => !c.2.sky.isEmpty).foldl (fun d c => d.flushSky e c.1) d

/-- Pauses that have run out end, and what they held goes out in order (R579). -/
def Dev.flushPaused (d : Dev) (e : Env) : Dev :=
  (List.range 12).foldl (fun d p =>
    let x := d.port p
    if x.paused.isEmpty && x.held.isEmpty then d else
    let left := x.paused.filter fun c => e.time < c.2
    if left.any fun c => c.1 == d.od (0x2A20 + p) 0xE then d.setPort p { x with paused := left }
    else (x.held.foldl (fun d o => d.send o) (d.setPort p { x with paused := left, held := [] })).count (0x2A20 + p) 0x10 x.held.length) d

/-- The retransmission timer of a port runs from the tick on which its oldest unacknowledged frame waits for a LACK (R559). -/
def Dev.stampPorts (d : Dev) (e : Env) : Dev :=
  { d with fabric := { d.fabric with ports := d.fabric.ports.map fun (c : Nat × Port) =>
      (c.1, if c.2.unacked.isEmpty then { c.2 with lastSend := 0 } else if c.2.lastSend = 0 then { c.2 with lastSend := e.time } else c.2) } }

/-! ### The SMBus status (R33, R46, R48, R49) -/

/-- A protective action stretches clocks or a trip has happened: bit 3 of error_register, bit 1 of the SMBus status (R46, R48, R49,
R130). -/
def Dev.throttling (d : Dev) : Bool :=
  d.board.vrHot || !d.board.throttled.isEmpty || d.loops.islands.any fun c => c.2.thermCap != 256

/-- The status word of SMBus command 0x03; all zeros in `ROM` (R49, R85). -/
def Dev.smbStatus (d : Dev) : Nat :=
  if d.boot.st == .rom then 0 else
  b2n d.board.mainPg + 2 * b2n d.throttling + 4 * b2n d.board.thermTrip + 8 * b2n (d.loops.sense.any fun c => c.2 != 0) + 16 * b2n (d.boot.st == .ready)

/-- `SMB_ALERT_N` is low while a status bit is newly set: set, and not yet read since it was last clear (R33). -/
def Dev.smbAlert (d : Dev) : Bool := (List.range 5).any fun i => bit d.smbStatus i && !(bit d.board.smbSeen i)

/-- A status bit that clears is new again when it next sets (R33). -/
def Dev.noteSmb (d : Dev) : Dev :=
  if d.board.smbSeen = 0 then d else { d with board := { d.board with smbSeen := d.board.smbSeen &&& d.smbStatus } }

/-- Nothing of a port is due: no pause, nothing held, and its retransmission timer runs as R559 has it. -/
def Port.still (x : Port) : Bool := x.paused.isEmpty && x.held.isEmpty && (x.unacked.isEmpty == (x.lastSend == 0))

/-- Nothing is due at the end of a command: no Skylight access, placement access, fault, checkpoint, mirror write, completion record
or paused frame waits, no SMBus status bit stands as read, and no load has been released. -/
def Dev.quiet (d : Dev) : Bool :=
  (d.pages.all fun c => c.2.sky.isEmpty) && d.places.isEmpty && d.faults.isEmpty && d.ckpts.isEmpty && (d.spars.all fun c => !c.2.pend) &&
  d.link.heldRecs.isEmpty && (d.fabric.ports.all fun c => c.2.still) && d.board.smbSeen == 0 && !d.released

/-- The state rests: nothing is due, no memory write is under way, and no command that goes before another waits on this tick. -/
def State.rests (s : State) : Bool := s.dev.quiet && s.dev.stores.isEmpty && s.dev.ahead.isEmpty && s.pending.all fun c => !(Instr.first c)

/-- Loads that the command released: what waits for admission asks again (R403). -/
def Dev.askAgain (d : Dev) (e : Env) : Dev := if d.released then ({ d with released := false } : Dev).prepareAll e else d

/-- What every command ends with. -/
def Dev.settle (d : Dev) (e : Env) : Dev := (((((d.flushSkies e).flushPlaces e).settleFaults e).flushCkpts e).flushMirrors e).flushRecs e |>.flushPaused e |>.askAgain e |>.stampPorts e |>.noteSmb

/-- A command whose effect on the device is `f` completes, after the islands that its tick starts or closes, and what it made due follows. -/
def State.go (s : State) (f : Env → Dev → Dev) : Outc := s.run fun e d => (f e (d.leadIslands e)).settle e

end Sys2Proof.Machine
end

