-- ==== Sys2Proof/Machine/Streams.lean ====
section
/-! DEFINITION. The commands of Gutters, Courses, arbiters and chains (R374 to R424). -/
namespace Sys2Proof.Machine

/-- DESCRIPTOR_FETCH (R375, R376). -/
def execDescriptorFetch (c : Fin 256) (ecc : Bool) (s : State) : Outc := s.go fun e d => d.gutterFetch e c ecc

/-- BLOCK_LIST_BURST_RETURN (R398). What a Course that is still IDLE reads is for its preparation (R399). -/
def execBlockListBurstReturn (c : Fin 512) (ecc : Bool) (s : State) : Outc :=
  s.go fun e d => d.service e (.course c) fun e d => if (d.course c).st == .idle && ecc then d.prepareAll e else d.courseBurst e c ecc

/-- COURSE_PASS_END (R410). -/
def execCoursePassEnd (c : Fin 512) (ecc : Bool) (s : State) : Outc :=
  s.go fun e d => d.service e (.course c) fun e d => d.courseRun e c ecc

/-- DESCRIPTOR_END (R377 to R385). -/
def execDescriptorEnd (c : Fin 256) (ecc : Bool) (s : State) : Outc :=
  s.go fun e d => d.service e (.gutter c) fun e d => d.gutterServed e c ecc

/-- DERATE_RECOMPUTE (R401): every 1 µs; `eccRetryPpm` is e, the share of HBM cycles spent on ECC retries. -/
def execDerateRecompute (eccRetryPpm : Nat) (s : State) : Outc :=
  s.go fun e d =>
    if e.time % 1000 != 0 || 955000 < eccRetryPpm then d
    else (List.range 59).foldl (fun d r => d.arbStep e r) { d with board := { d.board with eccRetryPpm := eccRetryPpm } }

/-- PROPORTIONAL_SERVICE_END (R407, R419): 1 ms after the latest projected miss. -/
def execProportionalServiceEnd (res : Fin 59) (s : State) : Outc :=
  s.go fun e d =>
    -- a miss projected now keeps it proportional (R419)
    let d := d.arbJudge e res
    let a := d.arb res
    if a.proportional && a.lastMiss + 1000000 ≤ e.time then d.setArb res { a with proportional := false } else d

/-- COURSE (R399, R409). -/
def execCourse (n : Fin 16) (q : Fin 8) (p : W32) (s : State) : Outc := s.go fun e d => d.courseCmd e n q p

/-- CHAIN (R360). -/
def execChain (n : Fin 16) (q : Fin 8) (p : W32) (s : State) : Outc := s.go fun e d => d.chainCmd e n q p

end Sys2Proof.Machine
end

