-- ==== Sys2Proof/Machine/Compute.lean ====
section
/-! DEFINITION. The commands of Rafter cores, engines, Thatch arrays and certified rounding (R425 to R526). -/
namespace Sys2Proof.Machine

/-! ### Engines (R438, R439) -/

/-- ENGINE (R438). -/
def execEngine (n : Fin 16) (q : Fin 8) (p : W32) (s : State) : Outc := s.go fun e d => d.engineCmd e n q p

/-- ENGINE_OP_START (R439, R447). -/
def execEngineOpStart (g : Fin 42) (s : State) : Outc :=
  s.go fun _ d =>
    let x := d.engine g
    if x.run.isSome then d else
    match d.engPick g with
    | some o => (d.setEngine g { x with queue := x.queue.erase o, run := some { o with ord := d.free }, lastBay := o.bay }).drawn (oFree o.d) (2 * oCount o.d)
    | none => d

/-- ENGINE_OP_END (R439). -/
def execEngineOpEnd (g : Fin 42) (s : State) : Outc := s.go fun e d => d.engEnd e g

/-! ### Rafter cores (R428 to R437) -/

/-- RUN (R428, R434). -/
def execRun (n : Fin 16) (q : Fin 8) (p : W32) (s : State) : Outc := s.go fun e d => d.runCmd e n q p

/-- HALT (R429, R433). -/
def execHalt (c : Fin 256) (s : State) : Outc := s.go fun e d => d.coreStep e c 0 anyA true

/-- LOAD (R429, R432). -/
def execLoad (c : Fin 256) (ecc : Bool) (s : State) : Outc := s.go fun e d => d.coreStep e c 1 anyA ecc

/-- STORE (R429, R432). -/
def execStore (c : Fin 256) (s : State) : Outc := s.go fun e d => d.coreStep e c 2 anyA true

/-- MATVEC (R429, R461). -/
def execMatvec (c : Fin 256) (s : State) : Outc := s.go fun e d => d.coreStep e c 3 anyA true

/-- ELTWISE (R429, R462). -/
def execEltwise (c : Fin 256) (s : State) : Outc := s.go fun e d => d.coreStep e c 4 anyA true

/-- REQUANT (R429, R467). -/
def execRequant (c : Fin 256) (s : State) : Outc := s.go fun e d => d.coreStep e c 5 anyA true

/-- RING_TAKE (R429, R442). -/
def execRingTake (c : Fin 256) (s : State) : Outc := s.go fun e d => d.coreStep e c 6 anyA true

/-- RING_PUT (R429, R442). -/
def execRingPut (c : Fin 256) (s : State) : Outc := s.go fun e d => d.coreStep e c 7 anyA true

/-- SPAR_SET: SPAR with a = 0 (R321, R323, R429). -/
def execSparSet (c : Fin 256) (s : State) : Outc := s.go (Dev.turn (.sparSet c) fun e d => d.coreSparStep e c 0)

/-- SPAR_ADD: SPAR with a = 1 (R321, R323, R429). -/
def execSparAdd (c : Fin 256) (s : State) : Outc := s.go (Dev.turn (.sparAdd c) fun e d => d.coreSparStep e c 1)

/-- SPAR_WAIT: SPAR with a = 2 (R429, R433). -/
def execSparWait (c : Fin 256) (s : State) : Outc := s.go fun e d => d.coreStep e c 8 (· == 2) true

/-- SPAR_FETCHADD: SPAR with a = 3 (R323, R325, R429, R431). -/
def execSparFetchadd (c : Fin 256) (s : State) : Outc := s.go (Dev.turn (.sparFetchadd c) fun e d => d.coreSparStep e c 3)

/-- HATCH_TAKE: HATCH with a = 0 (R194, R526). -/
def execHatchTake (c : Fin 256) (s : State) : Outc := s.go fun e d => d.coreStep e c 9 (· == 0) true

/-- HATCH_RELEASE: HATCH with a = 1 (R194, R209). -/
def execHatchRelease (c : Fin 256) (s : State) : Outc :=
  s.go (Dev.turn (.hatchRelease c) fun e d => d.coreStep e c 9 (· == 1) true)

/-- LOOP (R429). -/
def execLoop (c : Fin 256) (s : State) : Outc := s.go fun e d => d.coreStep e c 0xA anyA true

/-- BRANCH (R429). -/
def execBranch (c : Fin 256) (s : State) : Outc := s.go fun e d => d.coreStep e c 0xB anyA true

/-- BARRIER (R429, R448). -/
def execBarrier (c : Fin 256) (s : State) : Outc := s.go fun e d => d.coreStep e c 0xC anyA true

/-- CORE_WAIT_SATISFIED (R433): a waiting core's condition holds, and it performs its operation. -/
def execCoreWaitSatisfied (c : Fin 256) (s : State) : Outc := s.go fun e d => d.coreRetry e c

/-! ### Thatch arrays (R484 to R505) -/

/-- CALIBRATION_END (R497). -/
def execCalibrationEnd (a : Fin 256) (fits : List PairFit) (s : State) : Outc :=
  s.go fun e d =>
    let x := d.arr a
    if x.st == .calibrating then
      d.setArr a (({ x with st := .seated } : Arr).calibrated e.time (smGet 0 d.board.islandTemp (bankIsland a)) fits)
    else d

/-- CAL_TIME_TRIGGER (R498): 7,200 s after the last run's end. -/
def execCalTimeTrigger (a : Fin 256) (s : State) : Outc :=
  s.go fun e d =>
    let x := d.arr a
    if (x.st == .seated || x.st == .calibrating) && !x.calTimed && x.calLast + 7200000000000 ≤ e.time then
      d.setArr a ({ x with calTimed := true } : Arr).trigger
    else d

/-- CAL_TEMPERATURE_SAMPLE (R498): the 1 ms sample of a bank's sensor, in 0.125 °C. -/
def execCalTemperatureSample (b : Fin 8) (temp : Int) (s : State) : Outc :=
  s.go fun e d =>
    if e.time % 1000000 != 0 then d else
    let d := { d with board := { d.board with islandTemp := smSet 0 d.board.islandTemp (296 + b.val) temp } }
    (List.range 32).foldl (fun d i =>
      let a := 32 * b.val + i
      if 64 < (temp - (d.arr a).calTemp).natAbs then d.modArr a Arr.trigger else d) d

/-- SEAT (R490). -/
def execSeat (n : Fin 16) (q : Fin 8) (p : W32) (s : State) : Outc := s.go fun e d => d.seatCmd e n q p

/-- TRIM (R495). -/
def execTrim (n : Fin 16) (q : Fin 8) (p : W32) (s : State) : Outc := s.go fun e d => d.trimCmd e n q p

/-- SEAT_END (R493). -/
def execSeatEnd (a : Fin 256) (m : SeatMeas) (s : State) : Outc := s.go fun e d => d.seatEnd e a m

/-- TRIM_END (R495). -/
def execTrimEnd (a : Fin 256) (pair : Fin 1152) (fit : PairFit) (spareOk : Bool) (s : State) : Outc :=
  s.go fun e d => d.trimEnd e a pair fit spareOk

/-- CALIBRATION_START (R497, R499, R634): a trigger's run starts between evaluations, behind those that start on its tick. -/
def execCalibrationStart (a : Fin 256) (s : State) : Outc :=
  s.go fun e d =>
    let d := d.lead e (fun c => match Instr.evaluates c with | some x => d.evaluatesArr a x | none => false)
      fun d c => match Instr.evaluates c with | some x => d.evaluation e x | none => d
    let x := d.arr a
    if x.st == .seated && x.calDue then d.setArr a { (x.newThresh) with st := .calibrating, calDue := false } else d

/-- THATCH_EVALUATION (R487, R499): of a stage of the chain at a queue's position. -/
def execThatchEvaluation (n : Fin 16) (q : Fin 8) (p : W32) (stage : Fin 8) (reads : List AdcRead) (s : State) : Outc :=
  s.go fun e d =>
    d.turnOf (fun c => Instr.evaluates c == some (n.val, q.val, p, stage.val, reads)) (fun e d => d.evaluation e (n, q, p, stage, reads)) e

/-! ### Certified rounding (R512 to R526) -/

/-- CERTIFY (R514). -/
def execCertify (n : Fin 16) (q : Fin 8) (p : W32) (stage : Fin 8) (s : State) : Outc :=
  s.go fun e d => d.turnOf (fun c => Instr.certifies c == some (n.val, q.val, p, stage.val)) (fun e d => d.certify e n q p stage) e

/-- FLASH_TASK_END (R516, R520). -/
def execFlashTaskEnd (n : Fin 16) (poisoned : Bool) (s : State) : Outc :=
  s.go fun e d => match d.nextTask n false with | some t => d.taskArrives e t poisoned | none => d

/-- AUDIT_END (R518, R519, R520). -/
def execAuditEnd (n : Fin 16) (s : State) : Outc :=
  s.go fun e d => match d.nextTask n true with | some t => d.taskArrives e t false | none => d

end Sys2Proof.Machine
end

