-- ==== Sys2Proof/Machine/Replay.lean ====
section
/-! DEFINITION. Jobs and the journal: BEGIN_JOB and END_JOB, region lists, digests, the signed record, and the sink (R361, R526
to R551, R604 to R606). -/
namespace Sys2Proof.Machine

/-! ### Region lists (R605) -/

/-- A field of a region list entry that is malformed, out of range, or names a Spar that the Bay does not hold. `close`: an
`END_JOB` list. -/
def Dev.listBad (d : Dev) (n : Nat) (close : Bool) (xs : List (List Byte)) : Option (Status × Nat) :=
  let at_ (f : List Byte → Option Nat) : Option Nat := xs.zipIdx.findSome? fun x => (f x.1).map (32 * x.2 + ·)
  match at_ fun x => (firstBad [(!dvaOk (fld x 0 8), 0), (2 ≤ fld x 0x10 1 || (close && bit (fld x 0x10 1) 0), 0x10),
      (fld x 0x11 1 != 0, 0x11)]).orElse fun _ => firstNonZero x 0x14 12 with
  | some o => some (.format, o)
  | none => match at_ fun x => firstBad [(fld x 8 8 = 0 || 0x10000000000 < fld x 8 8, 8),
      (fld x 0x12 2 != 0xFFFF && 4095 < fld x 0x12 2, 0x12)] with
    | some o => some (.range, o)
    | none => (at_ fun x => firstBad [(fld x 0x12 2 != 0xFFFF && !(d.bay n).held.spar.has (fld x 0x12 2), 0x12)]).map fun o => (.access, o)

/-- The entries of a region list. -/
def regionsOf (bs : List Byte) : List JobRegion :=
  (List.range (bs.length / 32)).map fun i =>
    let x := (bs.drop (32 * i)).take 32
    { dva := fld x 0 8, len := fld x 8 8, await := bit (fld x 0x10 1) 0, spar := fld x 0x12 2 }

/-- The region list that a command names is read and judged. -/
def Dev.readList (d : Dev) (e : Env) (n q : Nat) (p : W32) (k : Cmd) (close : Bool) : (List Byte ⊕ Prep) × Dev :=
  if k.f 0x10 8 % 32 != 0 || !dvaOk (k.f 0x10 8) then (.inr (.bad .format 0x10), d)
  else if k.f 0x18 2 = 0 || 64 < k.f 0x18 2 then (.inr (.bad .format 0x18), d)
  else match d.readPrep e (.cmd (8 * n + q) p.toNat) n k.space (k.f 0x10 8) (32 * k.f 0x18 2) with
    | (.inl bs, d) => match d.listBad n close (opsOf bs) with
      | some (st, o) => (.inr (.bad st o), d)
      | none => (.inl bs, d)
    | r => r

/-- The contiguous local range onto which a DVA range translates: `none` while a walk is under way, no address where it is not
one. -/
def Dev.localRange (d : Dev) (w : Who) (n s dva len : Nat) : Option (Option Nat) × Dev :=
  let r := (pageParts dva len).foldl (fun (c : List Tr × Dev) p =>
    let t := c.2.translate w n s p.1 false
    (c.1 ++ [t.1], t.2)) (([], d) : List Tr × Dev)
  if r.1.any (· == .miss) then (none, r.2)
  else match r.1 with
    | .loc a :: _ => (some (if r.1 == (pageParts dva len).map fun p => Tr.loc (a + (p.1 - dva)) then some a else none), r.2)
    | _ => (some none, r.2)

/-- The registered region that an entry is, as a whole: OPEN, or left AWAITING or SEALED by an earlier attempt (R602, R605). -/
def Dev.wholeRegion (d : Dev) (n a len : Nat) (again : Bool) : Option Nat :=
  (List.range 16).find? fun r =>
    let x := d.region n r
    x.base == a && x.len == len && (x.st == .open_ || (again && (x.st == .awaiting || x.st == .sealed)))

/-- The entries of a `BEGIN_JOB` list with the regions they name; an await entry that names none draws `RANGE` (R605). None
while a walk is under way; `Nat` is the entry then judged. -/
def Dev.placeList (d : Dev) (w : Who) (n s : Nat) (again : Bool) (rs : List JobRegion) :
    (List JobRegion ⊕ (Nat × Option (Status × Nat))) × Dev :=
  rs.zipIdx.foldl (fun (c : (List JobRegion ⊕ (Nat × Option (Status × Nat))) × Dev) r =>
    match c.1 with
    | .inr _ => c
    | .inl l =>
      -- an entry without await is looked up only where some region has its length
      if !r.1.await && !((List.range 16).any fun i => (c.2.region n i).st != .unregistered && (c.2.region n i).len == r.1.len) then
        (.inl (l ++ [r.1]), c.2)
      else match c.2.localRange w n s r.1.dva r.1.len with
        | (none, d) => (.inr (r.2, none), d)
        | (some a, d) => match a.bind fun a => d.wholeRegion n a r.1.len again with
          | some i => (.inl (l ++ [{ r.1 with slot := some i }]), d)
          | none => if r.1.await then (.inr (r.2, some (.range, 32 * r.2)), d) else (.inl (l ++ [r.1]), d))
    ((.inl [], d) : (List JobRegion ⊕ (Nat × Option (Status × Nat))) × Dev)

/-! ### Opening (R361, R528 to R530, R602) -/

/-- The replay state block (Table — Digests). -/
def Dev.replayBlock (d : Dev) (n : Nat) : List Byte :=
  leBytes 2 (d.od 0x2801 1) ++ leBytes 1 (d.od 0x2801 2) ++ leBytes 1 (d.od (0x2100 + n) 3) ++ leBytes 4 (d.od 0x2801 3) ++
    leBytes 2 1 ++ zeros 6

/-- The weight-set digest of a Bay (Table — Digests). -/
def Dev.weightDigest (d : Dev) (n set : Nat) : List Byte :=
  sha384 (((List.range 256).filter fun a => (d.bay n).held.thatch.has a &&
      ((d.arr a).st == .seated || (d.arr a).st == .calibrating || (d.arr a).st == .retired) && (d.arr a).set == set).map fun a =>
    leBytes 2 a ++ zeros 6 ++ (d.arr a).digest).flatten

/-- A job opens in the journal of a strict Bay, or its next attempt does: JOB_OPEN is emitted, and the regions listed are
AWAITING or SEALED (R528 to R530, R602, R604). -/
def Dev.openJob (d : Dev) (e : Env) (n q : Nat) (k : Cmd) (again : Bool) (rs : List JobRegion) : Dev :=
  let j := d.jour n
  let set := k.f 0x1C 4
  let ws := d.weightDigest n set
  let h := (d.bay n).held.spar
  let j : Journal := { j with
    st := .open_
    id := k.f 8 8
    attempt := if again then j.attempt else 0
    q := q
    pos := k.pos
    space := k.space
    first := if again then j.first else e.time
    final := e.time
    restarts := if again then j.restarts else 0
    layers := 0
    lost := if again then j.lost else 0
    certified := 0
    flashed := 0
    stream := [k.bytes]
    inputs := rs
    outputs := []
    weightSet := set
    weights := ws
    chain := if again then j.chain else zeros 48
    spars := if again then j.spars else
      ((List.range h.count).map fun i => (h.base + i, (d.spar (h.base + i)).value)).filter fun c => c.2 != 0
    closing := none
    closeSeq := none
    draining := false }
  let d := (d.setJour n j).emitRec e n 1 k.pos.toNat true false (leBytes 4 (d.od 0x1018 4) ++ leBytes 4 (d.od 0x1018 3) ++ leBytes 16 d.nonce ++
    fit 48 d.boot.fwDigest ++ d.replayBlock n ++ ws ++ leBytes 4 set ++ leBytes 1 q ++ leBytes 1 (d.cqK n q) ++ leBytes 2 rs.length ++
    leBytes 4 k.pos.toNat ++ zeros 4)
  let d := rs.foldl (fun d r => match r.slot with
    | some i =>
      let x := d.region n i
      if x.st == .open_ then d.setRegion n i { x with st := if r.await then .awaiting else .sealed, pages := [] } else d
    | none => d) d
  -- the digests of what need not arrive start at once (R439, R536)
  rs.zipIdx.foldl (fun d r => if r.1.await then d else d.queueDigest n r.2) d

/-- BEGIN_JOB (R361, R367, R605): in a strict Bay it also opens the journal, once the holding buffer takes JOB_OPEN (R541). -/
def Dev.beginJob (d : Dev) (e : Env) (n q : Nat) (p : W32) : Dev :=
  match d.startedCmd n q p 6 with
  | none => d
  | some k =>
    let j := d.jour n
    let again := d.strict n && j.st == .restarting && j.q == q && j.pos == p
    let w := Who.cmd (8 * n + q) p.toNat
    if !again && ((d.queue n q).job.isSome || (d.strict n && j.st != .none)) then d.stateCmd e n q p q
    else match d.readList e n q p k false with
      | (.inr .wait, d) => d
      | (.inr .ok, d) => d
      | (.inr (.bad st o), d) => d.endCmd e n q p st o .own
      | (.inr (.failed a m), d) => d.accFail e w n k.space a false 2 m
      | (.inl bs, d) =>
        match d.placeList w n k.space again (regionsOf bs) with
        | (.inr (i, none), d) => (d.keepRead w k.space (k.f 0x10 8) bs).modCmd n q p fun c => { c with snap := [(i, 0)] }
        | (.inr (_, some (st, o)), d) => d.endCmd e n q p st o .own
        | (.inl rs, d) =>
          if d.strict n && !(d.roomFor n 248) then d.keepRead w k.space (k.f 0x10 8) bs
          else
            let d := if d.strict n then d.openJob e n q k again rs else d
            let d := if again then d else d.count (0x2680 + n) 0x7C 1
            let d := d.setQueue n q { d.queue n q with job := some p, jobId := k.f 8 8 }
            d.endCmd e n q p .ok 0 .own

/-! ### Digests (R534, R536, R606) -/

/-- The INPUT or OUTPUT record of a region. -/
def Dev.regionRec (d : Dev) (e : Env) (n ty i : Nat) (r : JobRegion) (dg : List Byte) : Dev :=
  let pos := if ty = 3 then ((d.jour n).closing.map (·.toNat)).getD 0xFFFFFFFF else (d.jour n).pos.toNat
  (d.emitRec e n ty pos true false (leBytes 2 i ++ zeros 6 ++ leBytes 8 r.dva ++ leBytes 8 r.len ++ dg)).pulse e n r.spar

/-- Every page of an AWAITING region has arrived, and what was accepted has been applied (R602, R606). -/
def Dev.allArrived (d : Dev) (n i : Nat) : Bool :=
  let x := d.region n i
  x.st != .awaiting ||
    ((List.range (x.len / 4096)).all (fun p => 4096 ≤ smGet 0 x.pages p) && !(d.places.any fun p => p.bay == n && p.slot == i && p.read.isNone))

/-- All digests of the attempt that closes have ended: the signer may run (R536, R537). -/
def Journal.digested (j : Journal) : Bool :=
  j.st == .open_ && j.closing.isSome && j.inputs.all (·.digest.isSome) && j.outputs.all (·.digest.isSome)

/-- The tick from which the signature may run is kept. -/
def Dev.markSign (d : Dev) (e : Env) (n : Nat) : Dev :=
  if (d.jour n).digested then d.setJour n { d.jour n with signFrom := e.time } else d

/-- A digest of the job ends, on the engine that makes it (R439): the record, the Spar, and for an await entry the seal (R606). -/
def Dev.digestEnd (d : Dev) (e : Env) (n i : Nat) (out : Bool) : Dev :=
  let j := d.jour n
  let rs := if out then j.outputs else j.inputs
  let k := if out then 64 + i else i
  let w := Who.job n k
  match rs[i]? with
  | none => d
  | some r =>
    let d := if r.digest.isNone && r.eng.isNone && !(d.halted w) && (r.slot.all fun s => out || !r.await || d.allArrived n s) then d.queueDigest n k else d
    if ([28, 29, 30, 31].all fun g => d.digestAt g != some (n, k)) || j.st != .open_ || r.digest.isSome || (out && j.closing.isNone) || d.halted w || !(d.roomFor n 168) ||
       !(r.slot.all fun s => out || !r.await || d.allArrived n s) then d
    else match d.readRange e w n (if out then j.outSpace else j.space) r.dva r.len with
      | (.wait, d) => d
      | (.got _ true, d) => d.digestErr e n k .integrity r.dva 0
      | (.got bs false, d) =>
        let dg := sha384 bs
        let d := ((d.digestDone n k).modJobRegion n k fun r => { r with digest := some dg }).regionRec e n (if out then 3 else 2) i r dg
        let d := match r.slot with
          | some s => if !out && (d.region n s).st == RegSt.awaiting then d.setRegion n s { d.region n s with st := RegSt.sealed } else d
          | none => d
        d.markSign e n
      | (m, d) => d.accFail e w n (if out then j.outSpace else j.space) r.dva false 0 m

/-- END_JOB starts (R361, R536): its list is judged; in a strict Bay the journal's job begins to close, in an open Bay the
output regions are read and the job closes. -/
def Dev.endJob (d : Dev) (e : Env) (n q : Nat) (p : W32) : Dev :=
  match d.startedCmd n q p 7 with
  | none => d
  | some k =>
    let w := Who.cmd (8 * n + q) p.toNat
    if (d.queue n q).job.isNone then d.stateCmd e n q p q
    else match d.readList e n q p k true with
      | (.inr .wait, d) => d
      | (.inr .ok, d) => d
      | (.inr (.bad st o), d) => d.endCmd e n q p st o .own
      | (.inr (.failed a m), d) => d.accFail e w n k.space a false 2 m
      | (.inl bs, d) =>
        let rs := regionsOf bs
        if d.strict n then
          ((List.range rs.length).foldl (fun d i => d.queueDigest n (64 + i))
            (d.setJour n { d.jour n with closing := some p, outputs := rs, outSpace := k.space })).modCmd n q p fun c => { c with ph := .running }
        else
          -- regions already read stand in the snap of the command
          match rs[k.snap.length]? with
          | some r =>
            match d.readRange e w n k.space r.dva r.len with
            | (.got _ true, d) => d.endCmd e n q p .integrity 0 .own
            | (.got _ false, d) =>
              let d := ((d.pulse e n r.spar).keepRead w k.space (k.f 0x10 8) bs).modCmd n q p fun c => { c with snap := c.snap ++ [(0, 0)] }
              if k.snap.length + 1 < rs.length then d else ((d.forget (· == w)).clearJob n q).endCmd e n q p .ok 0 .own
            | (.wait, d) => d.keepRead w k.space (k.f 0x10 8) bs
            | (m, d) => d.accFail e w n k.space r.dva false 0 m
          | none => (d.clearJob n q).endCmd e n q p .ok 0 .own

/-! ### Signing (R536, R537, R539) -/

/-- The SHA-384 fields of a job's regions, one after another. -/
def digestsOf (rs : List JobRegion) : List Byte := (rs.map fun r => r.digest.getD []).flatten

/-- The body of JOB_CLOSE (Table — Record bodies). -/
def Dev.closeBody (d : Dev) (n : Nat) : List Byte :=
  let j := d.jour n
  sha384 j.stream.flatten ++ sha384 (digestsOf j.inputs) ++ sha384 (digestsOf j.outputs) ++ j.weights ++ sha384 (d.replayBlock n) ++
    fit 48 d.boot.fwDigest ++ leBytes 8 j.first ++ leBytes 8 j.final ++ leBytes 4 j.restarts ++ leBytes 4 j.stream.length ++
    leBytes 4 j.layers ++ leBytes 4 j.lost ++ leBytes 8 j.certified ++ leBytes 8 j.flashed ++ leBytes 2 j.outputs.length ++
    leBytes 2 j.inputs.length ++ zeros 4

/-- SIGNATURE_END: JOB_CLOSE is signed and emitted, and the job is SIGNED; a failure of the signer is a fault of class DEVICE,
with which END_JOB completes `FAULT`; the job stays open until its Bay drains, which closes it with JOB_ABANDON (R528, R536, R537, R539,
R668). -/
def Dev.signatureEnd (d : Dev) (e : Env) (n : Nat) (ok : Bool) : Dev :=
  let j := d.jour n
  match j.closing with
  | none => d
  | some p =>
    if !j.digested then d
    else if !ok then
      let d := ({ d with signerFailed := true } : Dev).fault .device 0xFF { status := .fault, source := 0x0A, island := 348, pos := p.toNat, q := j.q }
      match (d.queue n j.q).cmd? p with
      | some c => d.failCmd e n j.q c .fault 0 true
      | none => d
    else if !(d.roomFor n 536) then d
    else
      let d := (d.emitRec e n 9 p.toNat true true (d.closeBody n)).maxOd 0x2C00 6 (e.time - j.signFrom)
      d.setJour n { d.jour n with st := .signed }

/-! ### The sink (R540 to R543, R551) -/

/-- Writes of a byte range that were made stay made while a later one waits. -/
def Dev.keepWrite (d : Dev) (w : Who) (s dva len : Nat) : Dev :=
  (pageParts dva len).foldl (fun d p => d.putBuf w s (p.1 + 2 ^ 60) [] false) d

/-- Several writes of one requester, in order; those made stay in force while a later one waits. -/
def Dev.writeAll (d : Dev) (e : Env) (w : Who) (n s : Nat) (ws : List (Nat × List Byte)) : Mv × Dev :=
  let r := ws.foldl (fun (c : Mv × List (Nat × Nat) × Dev) x =>
    match c.1 with
    | .done => match c.2.2.writeRange e w n s x.1 x.2 true with
      | (.done, d) => (.done, c.2.1 ++ [(x.1, x.2.length)], d)
      | (m, d) => (m, c.2.1, d)
    | _ => c) ((.done, [], d) : Mv × List (Nat × Nat) × Dev)
  match r.1 with
  | .wait => (.wait, r.2.1.foldl (fun d x => d.keepWrite w s x.1 x.2) r.2.2)
  | m => (m, r.2.2)

/-- The job of a Bay is over with its signed record in the sink: END_JOB completes, its detail the record's sequence number
(R364, R528, R536). -/
def Dev.jobDone (d : Dev) (e : Env) (n seq : Nat) : Dev :=
  let j := d.jour n
  match j.closing with
  | none => d
  | some p =>
    let d := (d.setJour n { j with st := .none, closing := none, closeSeq := none }).unseal n
    (d.clearJob n j.q).endCmd e n j.q p .ok seq .own

/-- What a sink holds: its size, and whether it is valid. -/
def Dev.sinkSize (d : Dev) (n : Nat) : Nat := 2 ^ (d.od (0x2C10 + n) 2 % 32)
def Dev.sinkValid (d : Dev) (n : Nat) : Bool := bit (d.od (0x2C10 + n) 2) 5

/-- Bus Master Enable is clear, or the Bay is parked: the sink's writes are held (R167, R542). -/
def Dev.holdSink (d : Dev) (e : Env) (n : Nat) : Dev :=
  let j := d.jour n
  d.setJour n { j with sinkAt := some (j.sinkAt.getD e.time) }

/-- SINK_RECORD_WRITE: the oldest record held is written, if the ring has room: padding before the ring's end, the record, the
head, and the Spar's pulse (R540, R542). -/
def Dev.sinkWrite (d : Dev) (e : Env) (n : Nat) : Dev :=
  let j := d.jour n
  match j.heldRecs with
  | [] => d
  | (seq, r) :: rest =>
    let sz := d.sinkSize n
    let base := d.od (0x2C10 + n) 1
    let left := sz - j.w % sz
    let pad := if r.length ≤ left then 0 else left
    if !(d.sinkValid n) || j.faulted || sz < j.w + pad + r.length - d.od (0x2C10 + n) 4 then d
    else
      let w' := j.w + pad + r.length
      let padRec := if 16 ≤ pad then [(base + j.w % sz, fit pad (leBytes 4 0x08804A52 ++ leBytes 2 0 ++ leBytes 2 1 ++ leBytes 4 pad))] else []
      let head := if d.od (0x2C10 + n) 3 = 0 then [] else [(d.od (0x2C10 + n) 3, leBytes 8 w')]
      match d.writeAll e (.sink n) n 0 (padRec ++ [(base + (j.w + pad) % sz, r)] ++ head) with
      | (.done, d) =>
        -- what has been written stands fixed (R532)
        let d := if d.jtick.seq0 < seq then d.fixRecs else d
        let d := (d.setJour n { d.jour n with heldRecs := rest, w := w' }).pulse e n (d.od (0x2C10 + n) 9)
        if j.closeSeq = some seq then d.jobDone e n seq else d
      | (.wait, d) => d
      | (.master _, d) => d.holdSink e n
      | (.absent _, d) => d.holdSink e n
      | (m, d) => d.accFail e (.sink n) n 0 base true 1 m

/-- The writes to host memory that Bus Master Enable, or parking, held for Bay `n` are issued, in the order in which they came to be due: mirror
writes, completion records and every record that the sink holds (R167, R330, R542). Of one tick, mirror writes go first and the sink's last
(DESIGN CHOICE, log entry 61). -/
def Dev.issueHeld (d : Dev) (e : Env) (n : Nat) : Dev :=
  let ts := ((d.spars.filter fun c => c.2.pend && d.sparBay c.1 == some n).map (·.2.pendAt)) ++
    ((d.link.heldRecs.filter (·.bay == n)).map (·.at_)) ++ (d.jour n).sinkAt.toList
  (ts.foldr riseIns []).foldl (fun d t =>
    let d := (d.writeMirrors e fun c => d.sparBay c.1 == some n && c.2.pendAt == t).writeRecs e fun h => h.bay == n && h.at_ == t
    let j := d.jour n
    if j.sinkAt != some t then d
    else j.heldRecs.foldl (fun d _ => d.sinkWrite e n) (d.setJour n { j with sinkAt := none })) d

/-- BEGIN_JOB (R361). -/
def execBeginJob (n : Fin 16) (q : Fin 8) (p : W32) (s : State) : Outc :=
  s.go (Dev.turnOf (fun c => match c with | .beginJob m r k => m == n && r == q && k == p | _ => false) fun e d => d.beginJob e n q p)

/-- END_JOB (R361, R536). -/
def execEndJob (n : Fin 16) (q : Fin 8) (p : W32) (s : State) : Outc := s.go fun e d => d.endJob e n q p

/-- INPUT_DIGEST_END (R606). -/
def execInputDigestEnd (n : Fin 16) (i : Fin 64) (s : State) : Outc := s.go fun e d => d.digestEnd e n i false

/-- OUTPUT_DIGEST_END (R536). -/
def execOutputDigestEnd (n : Fin 16) (i : Fin 64) (s : State) : Outc := s.go fun e d => d.digestEnd e n i true

/-- SIGNATURE_END (R536, R537, R539). -/
def execSignatureEnd (n : Fin 16) (signerOk : Bool) (s : State) : Outc := s.go fun e d => d.signatureEnd e n signerOk

/-- SINK_RECORD_WRITE (R540). -/
def execSinkRecordWrite (n : Fin 16) (s : State) : Outc := s.go fun e d => d.sinkWrite e n

end Sys2Proof.Machine
end

