-- ==== Sys2Proof/Machine/Queues.lean ====
section
/-! DEFINITION. Command queues: fetch, starting in order, and the control commands (R341 to R372). -/
namespace Sys2Proof.Machine

/-! ### Fetch (R345 to R349) -/

/-- Commands of a queue that are fetched and not started (R348). -/
def Queue.ahead (x : Queue) : Nat := (x.cmds.filter fun c => c.ph == .fetched).length

/-- Commands of a Bay that are started and not completed (R348). -/
def Dev.started (d : Dev) (n : Nat) : Nat :=
  ((List.range 8).map fun q => ((d.queue n q).cmds.filter fun c => c.ph != .fetched).length).sum

/-- Fetching from a queue is blocked: reason 4, another queue's strict job is open; reason 5, a limit (R348, R349). -/
def Dev.blocked (d : Dev) (n q : Nat) : Option Nat :=
  let j := d.jour n
  if d.strict n && j.st != .none && j.q != q then some 4
  else if 64 ≤ (d.queue n q).ahead || 256 ≤ d.started n then some 5
  else none

/-- A queue ranks for fetch (R347). A restart fetches once its drain is over (R655). -/
def Dev.ranks (d : Dev) (n q : Nat) : Bool :=
  let x := d.queue n q
  x.st == .active && x.p != x.fe && (d.blocked n q).isNone && (d.bay n).st.awake &&
    !(d.strict n && (d.jour n).draining && (d.jour n).q == q)

/-- The queue that ranks highest: priority, then round robin from the queue after the one last served (R347). -/
def Dev.pickQueue (d : Dev) (n : Nat) : Option Nat :=
  ((List.range 8).map fun i => ((d.bay n).lastQueue + 1 + i) % 8).foldl (fun (b : Option Nat) q =>
    if !(d.ranks n q) then b
    else match b with
      | none => some q
      | some c => if bits (d.cqCtl n c) 8 7 < bits (d.cqCtl n q) 8 7 then some q else b) none

/-- One command is fetched (R346); a Bay in IDLE is RUNNING from then on (R141). False where the fetch has to wait or stop. -/
def Dev.fetchOne (d : Dev) (e : Env) (n q : Nat) (readError : Bool) : Bool × Dev :=
  let x := d.queue n q
  let w := Who.queue (8 * n + q)
  let s := d.cqSpace n q
  let a := d.od (0x2680 + n) (0x10 * q + 1) + x.fe.toNat % 2 ^ d.cqK n q * 64
  match d.readRange e w n s a 64 with
  | (.got bs p, d) =>
    if readError || p then (false, d.fetchFault n q 0)
    else
      let x := d.queue n q
      let c : Cmd := { pos := x.fe, bytes := bs, at_ := e.time }
      let d := (d.setQueue n q { x with fe := x.fe + 1, cmds := x.cmds ++ [c] }).moveFr n q
      (true, if (d.bay n).st == .idle then d.toState n .running else d)
  | (.wait, d) => (false, d)
  -- with Bus Master Enable clear the fetch waits for it (R167)
  | (.master _, d) => (false, d)
  | (.absent _, d) => (false, d)
  | (.fault k l dva, d) => (false, (d.noteFault n s dva k l false).fetchFault n q k)
  | (_, d) => (false, d.fetchFault n q 0)

/-- A batch of up to 16 commands. -/
def Dev.fetchBatch (d : Dev) (e : Env) (n q : Nat) (readError : Bool) : Nat → Dev
  | 0 => d
  | f + 1 =>
    if !(d.ranks n q) then d else
    match d.fetchOne e n q readError with
    | (true, d) => d.fetchBatch e n q false f
    | (false, d) => d

/-- COMMAND_FETCH (R346, R347). -/
def execCommandFetch (n : Fin 16) (readError : Bool) (s : State) : Outc :=
  s.go fun e d =>
    match d.pickQueue n with
    | none => d
    | some q => ((d.setBay n { d.bay n with lastQueue := q }).fetchBatch e n q readError 16).prepareAll e

/-! ### Starting (R352, R367, R662) -/

/-- The next command of a queue may start (R352). -/
def Dev.mayBegin (d : Dev) (n q : Nat) (c : Cmd) : Bool :=
  let x := d.queue n q
  let before := x.cmds.takeWhile fun k => k.ph != .fetched
  x.st == .active && (d.bay n).st.live &&
    (before.isEmpty || (!(opBarrier c.op) && !(c.flag 2) && !(before.any fun k => opBarrier k.op || k.op == 2))) &&
    !((smGet [] d.ckpts n).any fun k => k.q == q)

/-- COMMAND_START: the next command of a queue starts, or completes with what is wrong with it; its own step performs it (R351,
R352, R534). -/
def Dev.startNext (d : Dev) (e : Env) (n q : Nat) : Dev :=
  match (d.queue n q).cmds.find? fun c => c.ph == .fetched with
  | none => d
  | some c =>
    if !(d.mayBegin n q c) then d
    else match d.cmdBad n c with
      | some (st, o) => d.endCmd e n q c.pos st o .own
      | none =>
        let d := (d.modCmd n q c.pos fun c => { c with ph := .started }).count (0x2680 + n) 0x79 1
        let j := d.jour n
        if d.strict n && j.st == .open_ && j.q == q then d.setJour n { j with stream := j.stream ++ [c.bytes] } else d

/-- COMMAND_START (R352). -/
def execCommandStart (n : Fin 16) (q : Fin 8) (s : State) : Outc := s.go fun e d => (d.prepareAll e).startNext e n q

/-! ### Control commands -/

/-- A command of an opcode that is under way. -/
def Dev.runningCmd (d : Dev) (n q : Nat) (p : W32) (op : Nat) : Option Cmd :=
  (d.queue n q).cmds.find? fun c => c.pos == p && c.ph == .running && c.op == op && c.ended.isEmpty

/-- A command's own step begins: it is under way. -/
def Dev.setRunning (d : Dev) (n q : Nat) (p : W32) : Dev := d.modCmd n q p fun c => { c with ph := .running }

/-- Every earlier command of the queue has completed. -/
def Dev.isHead (d : Dev) (n q : Nat) (p : W32) : Bool :=
  match (d.queue n q).cmds with | c :: _ => c.pos == p | [] => false

/-- NOP (R351). -/
def execNop (n : Fin 16) (q : Fin 8) (p : W32) (s : State) : Outc :=
  s.go fun e d => match d.startedCmd n q p 0 with | some _ => d.endCmd e n q p .ok 0 .own | none => d

/-- A write or fence of the Bay's page, or a Skylight write, received by tick `t` has still to be applied (R354). -/
def Page.unapplied (g : Page) (t : Nat) : Bool :=
  (g.held.any fun w => w.read.isNone && w.at_ ≤ t) || (g.sky.any fun r => r.kind == 0 && r.at_ ≤ t) || g.fences.any (·.2 ≤ t)

/-- FENCE completes once earlier commands, the writes received before its fetch, and the commands it waits for in other queues are done
(R354). -/
def Dev.fenceTry (d : Dev) (e : Env) (n q : Nat) (p : W32) : Dev :=
  match d.runningCmd n q p 1 with
  | none => d
  | some c =>
    let other := c.snap.any fun k => ((d.queue n k.1).cmds.any fun x => x.pos.toNat == k.2)
    if d.isHead n q p && !(d.page n).unapplied c.at_ && !other then d.endCmd e n q p .ok 0 .own else d

/-- FENCE (R354): it takes note of what the other queues have started. -/
def execFence (n : Fin 16) (q : Fin 8) (p : W32) (s : State) : Outc :=
  s.go fun e d =>
    match d.startedCmd n q p 1 with
    | none => d
    | some c =>
      let snap := if bit (c.f 8 1) 0 then
          ((List.range 8).map fun k => if k = q.val then [] else
            ((d.queue n k).cmds.filter fun x => x.ph != .fetched).map fun x => (k, x.pos.toNat)).flatten
        else []
      (d.modCmd n q p fun c => { c with ph := .running, snap := snap }).fenceTry e n q p

/-- FENCE_COMPLETE (R354). -/
def execFenceComplete (n : Fin 16) (q : Fin 8) (p : W32) (s : State) : Outc := s.go fun e d => d.fenceTry e n q p

/-- A WAIT whose Spar has reached its target completes; past its deadline it times out (R355). -/
def Dev.waitTry (d : Dev) (e : Env) (n q : Nat) (p : W32) : Dev :=
  match d.runningCmd n q p 2 with
  | none => d
  | some c =>
    if c.f 0x10 8 ≤ (d.spar (c.f 8 2)).value.toNat then d.endCmd e n q p .ok 0 .own
    else match c.deadline with
      | some t => if t ≤ e.time then d.endCmd e n q p .timeout 0 .own else d
      | none => d

/-- WAIT (R355): its time limit runs from its start. -/
def execWait (n : Fin 16) (q : Fin 8) (p : W32) (s : State) : Outc :=
  s.go fun e d =>
    match d.startedCmd n q p 2 with
    | none => d
    | some c =>
      (d.modCmd n q p fun k => { k with
        ph := .running
        deadline := if c.f 0x18 4 = 0 then none else some (e.time + c.f 0x18 4 * 1000) }).waitTry e n q p

/-- WAIT_SATISFIED (R355). -/
def execWaitSatisfied (n : Fin 16) (q : Fin 8) (p : W32) (s : State) : Outc := s.go fun e d => d.waitTry e n q p

/-- A SIGNAL: a SET or ADD here, behind the cores' operations of the tick on the Spar, or a remote ADD that completes with the peer's
acknowledgement (R323, R356). -/
def Dev.signalCmd (d : Dev) (e : Env) (n q : Nat) (p : W32) : Dev :=
  match d.startedCmd n q p 3 with
  | none => d
  | some c =>
    if bit (c.f 0xA 2) 1 then
      (d.setRunning n q p).sendRemote e (.cmd (8 * n + q) p.toNat) n
        { ty := 0x22, vc := 4, dst := c.f 0xE 2, key := c.f 0xC 2, addr := c.f 8 2, payload := leBytes 8 (c.f 0x10 8) }
    else
      let d := d.leadCores e (c.f 8 2) 256
      if bit (c.f 0xA 2) 0 then (d.sparSet e (c.f 8 2) (c.f 0x10 8)).endCmd e n q p .ok 0 .own
      else (d.sparAdd e (c.f 8 2) (c.f 0x10 8)).endCmd e n q p .ok 0 .own

/-- The command that a row SIGNAL performs here names the Spar. -/
def Dev.signalsHere (d : Dev) (s : Nat) : Instr → Bool
  | .signal n q p => match d.startedCmd n q p 3 with | some c => !bit (c.f 0xA 2) 1 && c.f 8 2 == s | none => false
  | _ => false

/-- Operations of the tick on a Spar by device-side agents take effect first: cores', then the command processor's (R323). -/
def Dev.leadAgents (d : Dev) (e : Env) (s : Nat) : Dev :=
  (d.leadCores e s 256).lead e (d.signalsHere s) fun d c => match c with | .signal n q p => d.signalCmd e n q p | _ => d

/-- SIGNAL (R323, R356). -/
def execSignal (n : Fin 16) (q : Fin 8) (p : W32) (s : State) : Outc := s.go (Dev.turn (.signal n q p) fun e d => d.signalCmd e n q p)

/-- HOLD completes once every earlier command of its queue has (R357). -/
def Dev.holdTry (d : Dev) (e : Env) (n q : Nat) (p : W32) : Dev :=
  match d.runningCmd n q p 4 with
  | some _ => if d.isHead n q p then d.endCmd e n q p .ok 0 .own else d
  | none => d

/-- HOLD (R357). -/
def execHold (n : Fin 16) (q : Fin 8) (p : W32) (s : State) : Outc :=
  s.go fun e d => match d.startedCmd n q p 4 with | some _ => (d.setRunning n q p).holdTry e n q p | none => d

/-- HOLD_COMPLETE (R357). -/
def execHoldComplete (n : Fin 16) (q : Fin 8) (p : W32) (s : State) : Outc := s.go fun e d => (d.holdTry e n q p).prepareAll e

/-- LAYER completes once everything before it has: the journal's record in a strict Bay, the checkpoint in an open one (R359,
R541, R661). -/
def Dev.layerTry (d : Dev) (e : Env) (n q : Nat) (p : W32) : Dev :=
  match d.runningCmd n q p 5 with
  | none => d
  | some c =>
    if !(d.isHead n q p) || (d.strict n && !(d.roomFor n 120)) then d
    else
      let d := d.count (0x2C10 + n) 0xD 1
      let j := d.jour n
      let d := if d.strict n then
          (d.setJour n { j with layers := j.layers + 1 }).emitRec e n 4 p.toNat true false
            (leBytes 4 (c.f 8 4) ++ leBytes 4 p.toNat ++ leBytes 8 j.certified ++ leBytes 8 j.flashed)
        else if d.od (0x2D20 + n) 1 = 1 then
          { d with ckpts := smSet [] d.ckpts n (smGet [] d.ckpts n ++
            [{ layer := c.f 8 4, pos := p, q := q, jobId := (d.queue n q).jobId }]) }
        else d
      d.endCmd e n q p .ok 0 .own

/-- LAYER (R359, R367). -/
def execLayer (n : Fin 16) (q : Fin 8) (p : W32) (s : State) : Outc :=
  s.go fun e d =>
    match d.startedCmd n q p 5 with
    | none => d
    | some _ => if d.cmdInJob n q then (d.setRunning n q p).layerTry e n q p else d.stateCmd e n q p q

/-- LAYER_COMPLETE (R359). -/
def execLayerComplete (n : Fin 16) (q : Fin 8) (p : W32) (s : State) : Outc := s.go fun e d => d.layerTry e n q p

/-- GUTTER (R367, R386): the channel starts, where it is IDLE. -/
def execGutter (n : Fin 16) (q : Fin 8) (p : W32) (s : State) : Outc :=
  s.go fun e d =>
    match d.startedCmd n q p 0x10 with
    | none => d
    | some c =>
      let ch := c.f 8 2
      -- a return to IDLE on this tick comes first (R390)
      let d := if (d.gutter ch).st == .idle then d else d.lead e (fun c => match c with | .descriptorEnd x _ => x.val == ch | _ => false) fun d c =>
        match Instr.service c with | some s => s.2 e d | none => d
      if (d.gutter ch).st == .idle then (d.gutterStart ch n q p c.space (c.f 0x10 8) none).setRunning n q p
      else d.stateCmd e n q p ch

end Sys2Proof.Machine
end

