-- ==== Sys2Proof/Machine/Walks.lean ====
section
/-! DEFINITION. The ends of walks, ATS completions, invalidations by Lath and by ATS, the PRI cycle, fault_resume, and what
parking does to a Bay's work (R222 to R268). -/
namespace Sys2Proof.Machine

/-! ### Walks (R222 to R232) -/

/-- A violation whose TLP header no operand carries: what its bytes are is free (DESIGN CHOICE, log entry 2). Where the command carries no Requester ID
either, `rid` is the number of the function addressed, and 0 for an unexpected completion (R181; DESIGN CHOICE, log entry 61). -/
def Dev.violateFn (d : Dev) (e : Env) (rid kind answer : Nat) : Dev :=
  d.draw.2.violate e rid kind answer (leBytes 40 d.draw.1)

/-- How a requester's status shows the access that failed: a read, a write, or the read of a descriptor (R394). -/
def Dev.walkDir (d : Dev) (w : Who) (write : Bool) : Nat :=
  match w with
  | .gutter c => if (d.gutter c).fetched then b2n write else 2
  | _ => b2n write

/-- A walk error of a requester whose end by itself draws no fault of class JOB (R225). -/
def Dev.walkError (d : Dev) (w : Who) (n dva kind : Nat) : Dev :=
  let own := match w with
    | .queue k => d.cmdInJob n (k % 8)
    | .cmd k _ => d.cmdInJob n (k % 8)
    | .gutter _ => true | .course _ => true | .core _ => true | .engine _ => true | .job _ _ => true
    | .mirror _ => false | .sink _ => false | .ckpt _ => false | .walker _ => false | .record _ => false | .sky _ => false | .place _ => false
  if kind != kWalkError || own then d
  else d.fault .job n { source := 2, island := 330, cause := kind, addr := dva }

/-- What the end of a walk does to its requester; one that may not halt keeps its walk while the host is absent (R245, R248).
`page`: the host page, for HOST_FAULT. -/
def Dev.walkAnswer (d : Dev) (e : Env) (k : Walk) (page : Nat) (r : WalkEnd) : Dev :=
  match r with
  | .filled => d | .asked => d | .wait => d
  | .fault kind level =>
    ((d.dropWalk k.id).walkError k.who k.bay k.dva kind).transFault e k.who k.bay k.space k.dva kind level k.write page (d.walkDir k.who k.write)
  | .absent => if k.who.halts then (d.dropWalk k.id).haltReq e k.who k.bay k.space k.dva 5 k.write 0 else d
  | .master => if k.who.halts then (d.dropWalk k.id).haltReq e k.who k.bay k.space k.dva 6 k.write 0 else d

/-- A Lath invalidation of the walk's space waits on its tick (R241). -/
def Walk.struck (k : Walk) : Instr → Bool
  | .lathInvalWrite _ n v => n.val == k.bay && (invFields v.toNat).1 == k.space
  | .lathInval n _ _ => n.val == k.bay
  | _ => false

/-- LATH_WALK_END (R222). An invalidation of the same tick comes first: the walk goes on, and is discarded and restarted by it (R241). -/
def execLathWalkEnd (id : Nat) (readError : Bool) (s : State) : Outc :=
  s.go fun e d =>
    match d.trans.walks.find? (·.id == id) with
    | none => d
    | some k => if e.tick.any k.struck then d else let r := d.walkEnd e k readError; r.2.walkAnswer e k 0 r.1

/-! ### Invalidations (R238 to R244) -/

/-- Requests at a home or the proxy cache that have not been answered: who asks, and the key of the line. -/
def Dev.underWay (d : Dev) : List (Who × Nat) :=
  (d.ridge.txns.filterMap fun t => t.req.who.map fun w => (w, t.line)) ++
  (d.ridge.waiting.filterMap fun q => q.2.who.map fun w => (w, q.1)) ++
  (d.ridge.proxyWait.filterMap fun q => q.2.who.map fun w => (w, hostKey q.1)) ++
  (d.ridge.away.map fun a => (a.1, awayKey a.2.1))

/-- The accesses of an output range that have not taken effect. -/
def Dev.openAccesses (d : Dev) (gone : List Tlb) : List Nat × List Nat × List (Who × Nat) :=
  let hit (kind a : Nat) : Bool := gone.any fun x => x.kind == kind && x.oa ≤ a && a < x.oa + 2 ^ x.log
  let here (a : Nat) : Bool := hit 0 a || hit 2 (d.fabId * 2 ^ 48 + a)
  ((d.link.reqs.filter fun r => hit 1 r.addr).map (·.tag),
   (d.fabric.remotes.filter fun r => hit 2 r.f.addr).map (·.tn),
   d.underWay.filter fun u =>
     if hostKey 0 ≤ u.2 then hit 1 ((u.2 - hostKey 0) * 64)
     else if awayKey 0 ≤ u.2 then hit 2 ((u.2 - awayKey 0) * 64)
     else here (u.2 * 64))

/-- Condition 3 of R238 holds: each of those accesses has taken effect. -/
def Dev.invalDone (d : Dev) (i : Inval) : Bool :=
  !(i.tags.any fun t => d.link.reqs.any (·.tag == t)) && !(i.tns.any fun t => d.fabric.remotes.any fun r => r.tn == t && !r.dead) &&
  !(i.lines.any fun u => d.underWay.contains u)

/-- Every cached translation, of the Device TLB and the micro-TLBs. -/
def Dev.allTlb (d : Dev) : List Tlb := d.trans.tlb ++ (d.trans.micro.map (·.2)).flatten

/-- The walks of a Bay's space are discarded and restarted (R238 condition 2, R241). -/
def Dev.restartWalks (d : Dev) (n s : Nat) : Dev :=
  let ws := d.trans.walks.filter fun k => k.bay == n && k.space == s
  let ts := d.trans.treqs.filter fun t => t.walk.bay == n && t.walk.space == s && !t.dead && !t.gone
  let d := d.setTrans { d.trans with
    walks := d.trans.walks.filter fun k => !(k.bay == n && k.space == s)
    treqs := d.trans.treqs.map fun (t : TReq) => ({ t with dead := t.dead || (t.walk.bay == n && t.walk.space == s) } : TReq) }
  (ws ++ ts.map (·.walk)).foldl (fun d k => d.startWalk k.who n s k.dva k.write) d

/-- A Lath invalidation is accepted (R238, R239, R243). -/
def Dev.acceptInval (d : Dev) (n v : Nat) (cmd : Option (Nat × W32)) : Dev :=
  let f := invFields v
  let p (x : Tlb) : Bool := x.bay == n && x.space == f.1 &&
    (f.2.1 || (Nat.blt x.va (f.2.2.2 + 2 ^ (12 + f.2.2.1)) && Nat.blt f.2.2.2 (x.va + 2 ^ x.log)))
  let o := d.openAccesses (d.allTlb.filter p)
  let d := d.dropTlb p
  let d := d.setTrans { d.trans with
    wcache := d.trans.wcache.filter fun c => !(c.bay == n && c.space == f.1)
    invals := d.trans.invals ++ [{ bay := n, space := f.1, ats := false, cmd := cmd, tags := o.1, tns := o.2.1, lines := o.2.2 }] }
  d.restartWalks n f.1

/-- Lath invalidations of a Bay that are pending (R239). -/
def Dev.invalsOf (d : Dev) (n : Nat) : Nat := (d.trans.invals.filter fun i => i.bay == n && !i.ats).length

/-- LATH_INVAL, the queued command (R239, R362). -/
def execLathInval (n : Fin 16) (q : Fin 8) (p : W32) (s : State) : Outc :=
  s.go fun e d =>
    match d.startedCmd n q p 8 with
    | none => d
    | some c =>
      if 8 ≤ d.invalsOf n then d.endCmd e n q p .overrun 0 .own
      else (d.setRunning n q p).acceptInval n (c.f 8 8) (some (q.val, p))

/-- LATH_INVAL_COMPLETE: the Bay's oldest pending invalidation (R238, R239). -/
def execLathInvalComplete (n : Fin 16) (s : State) : Outc :=
  s.go fun e d =>
    match d.trans.invals.find? fun i => i.bay == n.val && !i.ats with
    | none => d
    | some i =>
      if !(d.invalDone i) then d else
      let d := (d.setTrans { d.trans with invals := d.trans.invals.erase i }).count (0x2310 + n) 0xB 1
      match i.cmd with
      | some c => d.endCmd e n c.1 c.2 .ok 0 .own
      | none => d

/-- An ATS Invalidate Request arrives (R240, R258): no PASID stands for the Global Invalidate bit. -/
def Dev.atsInvalidate (d : Dev) (n itag : Nat) (pasid : Option (BitVec 20)) (base size : Nat) : Dev :=
  if d.link.st != .up || d.insecure (n + 1) then d else
  let sp (x : Nat) : Bool := match pasid with | none => true | some v => d.pasidOf n x == some v.toNat
  let meets (a log : Nat) : Bool := Nat.blt a (base + size) && Nat.blt base (a + 2 ^ log)
  let p (x : Tlb) : Bool := x.bay == n && x.ats && sp x.space && meets x.host x.log
  let o := d.openAccesses (d.allTlb.filter p)
  let d := (d.dropTlb p).count 0x2300 6 1
  d.setTrans { d.trans with
    treqs := d.trans.treqs.map fun (t : TReq) =>
      ({ t with stale := t.stale || (t.walk.bay == n && sp t.walk.space && meets t.host t.log) } : TReq)
    invals := d.trans.invals ++ [{ bay := n, space := 0, ats := true, itag := itag, tags := o.1, tns := o.2.1, lines := o.2.2 }] }

/-- ATS_INVALIDATE_REQUEST (R240, R258). -/
def execAtsInvalidateRequest (n : Fin 16) (itag : Nat) (pasid : Option (BitVec 20)) (base size : Nat) (s : State) : Outc :=
  s.go (Dev.turn (.atsInvalidateRequest n itag pasid base size) fun _ d => d.atsInvalidate n itag pasid base size)

/-- An ATS Invalidate Request of the tick takes effect before a Translation Completion or a PRG response (R258). -/
def Dev.leadInval (d : Dev) (e : Env) : Dev :=
  d.lead e (fun c => match c with | .atsInvalidateRequest .. => true | _ => false) fun d c =>
    match c with | .atsInvalidateRequest n itag pasid base size => d.atsInvalidate n itag pasid base size | _ => d

/-- A Translation Request is sent again with a tag of its own, and the race counted (R258); with Bus Master Enable clear nothing is sent,
and the requester halts (R167). -/
def Dev.resendReq (d : Dev) (e : Env) (t : TReq) : Dev :=
  let k := t.walk
  let d := (d.setTrans { d.trans with treqs := d.trans.treqs.filter (·.tag != t.tag) }).count (0x2330 + k.bay) 0xA 1
  if !(d.link.bme.contains (k.bay + 1)) then d.walkAnswer e k 0 .master else
  let x : TReq := { t with tag := d.link.nextTag, stale := false }
  ({ d with
      trans := { d.trans with treqs := d.trans.treqs ++ [x] }
      link := { d.link with nextTag := d.link.nextTag + 1 } } : Dev).hostSend
    (.transReq (k.bay + 1) x.tag t.host (2 ^ t.log) k.write (d.pasidOf k.bay k.space))

/-- TRANSLATION_COMPLETION (R183, R232, R258): `size` bytes are granted; a size that is no power of two of at least 4 KiB is
malformed. -/
def execTranslationCompletion (tag : Nat) (malformed : Bool) (hpa size : Nat) (canRead canWrite : Bool) (s : State) : Outc :=
  s.go fun e d =>
    let d := d.leadInval e
    match d.trans.treqs.find? (·.tag == tag) with
    | none => if d.link.st == .up then d.violateFn e 0 4 0 else d
    | some t =>
      let drop := d.setTrans { d.trans with treqs := d.trans.treqs.filter (·.tag != tag) }
      let bad := malformed || size < 4096 || 2 ^ Nat.log2 size != size
      if d.insecure (t.walk.bay + 1) then d
      else if t.gone then drop.count 0x2200 0x15 1
      else
        let d := if bad then d.violateFn e (t.walk.bay + 1) 8 0 else d
        if t.dead then d.setTrans { d.trans with treqs := d.trans.treqs.filter (·.tag != tag) }
        else if t.stale && !bad then d.resendReq e t
        else
          let r := d.transDone t bad hpa (Nat.log2 size) canRead canWrite
          r.2.walkAnswer e t.walk ((t.host + t.walk.dva % 2 ^ t.log) / 4096 * 4096) r.1

/-- ATS_INVALIDATE_COMPLETE (R240). -/
def execAtsInvalidateComplete (n : Fin 16) (itag : Nat) (s : State) : Outc :=
  s.go fun _ d =>
    match d.trans.invals.find? fun i => i.bay == n.val && i.ats && i.itag == itag with
    | none => d
    | some i =>
      if !(d.invalDone i) then d
      else (d.setTrans { d.trans with invals := d.trans.invals.erase i }).hostSend (.invalCpl (n + 1) itag)

/-! ### The PRI cycle (R251 to R259) -/

/-- A page request group leaves the list: its index is free. -/
def Dev.dropPrg (d : Dev) (i : Nat) : Dev := d.setTrans { d.trans with prgs := d.trans.prgs.filter (·.idx != i) }

/-- The halted requesters of a group. -/
def Dev.prgHalts (d : Dev) (g : Prg) : List Halt :=
  d.trans.halts.filter fun h => h.cause == 2 && h.bay == g.bay && h.space == g.space && h.page == g.page && g.who.contains h.who

/-- A fault of class JOB over a requester that PRI could not serve. -/
def prgFlt (h : Halt) (st : Status) : Flt := { status := st, source := 2, island := 330, cause := 2, addr := h.dva }

/-- Every requester of a group ends with `FAULT`, and its Bay has a fault of class JOB (R254). -/
def Dev.prgInvalid (d : Dev) (e : Env) (g : Prg) : Dev :=
  (d.prgHalts g).foldl (fun d h => d.abortReq e h .fault (.by_ (prgFlt h .fault))) ((d.dropPrg g.idx).count (0x2330 + g.bay) 7 1)

/-- A PRG response arrives: `f` is its effect on an outstanding group; an unknown index or another PASID is a violation, the
response to a group that has ended is discarded (R183, R254, R255, R264). -/
def Dev.prgResponse (d : Dev) (e : Env) (idx : Nat) (pasid : Option (BitVec 20)) (f : Dev → Prg → Dev) : Dev :=
  match d.trans.prgs.find? (·.idx == idx) with
  | none => if d.link.st == .up then d.violateFn e 0 8 0 else d
  | some g =>
    if d.insecure (g.bay + 1) then d
    else if g.gone then ((d.dropPrg idx).count 0x2200 0x15 1).pumpPri e
    else if d.link.st != .up then d
    else if g.pasid != pasid.map (·.toNat) then d.violateFn e (g.bay + 1) 8 0
    else (if g.ended then d.dropPrg idx else f d g).pumpPri e

/-- A Success response (R175, R254). -/
def Dev.prgSuccess (d : Dev) (e : Env) (idx : Nat) (pasid : Option (BitVec 20)) : Dev :=
  (d.leadInval e).prgResponse e idx pasid fun d g =>
    ((d.prgHalts g).foldl (fun d h => d.resumeReq e h) (d.dropPrg idx)).raiseBay g.bay 5

/-- An Invalid Request response (R175, R254). -/
def Dev.prgRefused (d : Dev) (e : Env) (idx : Nat) (pasid : Option (BitVec 20)) : Dev :=
  (d.leadInval e).prgResponse e idx pasid fun d g => (d.prgInvalid e g).raiseBay g.bay 5

/-- A Response Failure: every other outstanding group is treated as answered with Invalid Request (R175, R254). -/
def Dev.prgFailure (d : Dev) (e : Env) (idx : Nat) (pasid : Option (BitVec 20)) : Dev :=
  (d.leadInval e).prgResponse e idx pasid fun d g =>
    let d := (({ d with link := { d.link with priFailure := true } } : Dev).prgInvalid e g).raiseBay g.bay 5
    d.trans.prgs.foldl (fun d x => if x.ended || x.gone then d.dropPrg x.idx else (d.prgInvalid e x).raiseBay x.bay 5) d

/-- PRG_SUCCESS (R254). -/
def execPrgSuccess (idx : Nat) (pasid : Option (BitVec 20)) (s : State) : Outc :=
  s.go (Dev.turn (.prgSuccess idx pasid) fun e d => d.prgSuccess e idx pasid)

/-- PRG_INVALID_REQUEST (R254). -/
def execPrgInvalidRequest (idx : Nat) (pasid : Option (BitVec 20)) (s : State) : Outc :=
  s.go (Dev.turn (.prgInvalidRequest idx pasid) fun e d => d.prgRefused e idx pasid)

/-- PRG_RESPONSE_FAILURE (R254). -/
def execPrgResponseFailure (idx : Nat) (pasid : Option (BitVec 20)) (s : State) : Outc :=
  s.go (Dev.turn (.prgResponseFailure idx pasid) fun e d => d.prgFailure e idx pasid)

/-- A PRG response of the tick takes effect before a write of fault_resume (R266). -/
def Dev.leadPrg (d : Dev) (e : Env) : Dev :=
  d.lead e (fun c => match c with | .prgSuccess .. => true | .prgInvalidRequest .. => true | .prgResponseFailure .. => true | _ => false)
    fun d c => match c with
      | .prgSuccess i p => d.prgSuccess e i p | .prgInvalidRequest i p => d.prgRefused e i p | .prgResponseFailure i p => d.prgFailure e i p
      | _ => d

/-- PRG_TIMEOUT (R255, R264): the index of a group that timed out stays reserved until its response; an aborted group's is
released. -/
def execPrgTimeout (idx : Nat) (s : State) : Outc :=
  s.go fun e d =>
    match d.trans.prgs.find? (·.idx == idx) with
    | none => d
    | some g =>
      if e.time < g.deadline || g.deadline = 0 || g.gone then d
      else if g.ended then (d.dropPrg idx).pumpPri e
      else
        let hs := d.prgHalts g
        let d := (d.setTrans { d.trans with prgs := d.trans.prgs.map fun (x : Prg) =>
          (if x.idx = idx then { x with ended := true, deadline := 0, who := [] } else x : Prg) }).count (0x2330 + g.bay) 7 1
        let d := d.fault .job g.bay { status := .timeout, source := 2, island := 330, cause := 2, addr := (hs.head?.map (·.dva)).getD 0 }
        hs.foldl (fun d h => d.abortReq e h .timeout .noted) d

/-! ### fault_resume and parking (R261 to R267) -/

/-- A halted requester of the Bay with one of the causes from 1 to `hi` that `f` names. -/
def haltsOf (n : Nat) (f : Nat → Bool) (h : Halt) : Bool := h.bay == n && f h.cause

/-- The causes that a value of fault_resume acts on (R264). -/
def resumeCauses (v cause : Nat) : Bool := if v = 1 then cause == 1 || cause == 3 else 1 ≤ cause && cause ≤ 4

/-- A write of fault_resume may take effect (R265). -/
def Dev.resumeOk (d : Dev) (n v : Nat) : Bool := (d.bay n).st.live && d.trans.halts.any (haltsOf n (resumeCauses v))

/-- fault_resume takes effect: 1 resumes, 2 ends (R264). -/
def Dev.faultResume (d : Dev) (e : Env) (n v : Nat) : Dev :=
  if v = 1 then d.resumeAll e (haltsOf n (resumeCauses 1))
  else
    let hs := d.trans.halts.filter (haltsOf n (resumeCauses 2))
    let d := d.fault .job n { source := 2, island := 330 }
    let d := d.setTrans { d.trans with prgs := d.trans.prgs.map fun (g : Prg) =>
      (if g.bay = n && !g.ended && !g.gone then { g with ended := true, who := [] } else g : Prg) }
    hs.foldl (fun d h => d.abortReq e h .fault .noted) d

/-- The space and DVA that a Bay reaches a host address by, from its cached translations. -/
def Dev.dvaOf (d : Dev) (n a : Nat) : Nat × Nat :=
  match d.allTlb.find? fun x => x.bay == n && x.kind == 1 && x.oa ≤ a && a < x.oa + 2 ^ x.log with
  | some x => (x.space, x.va + (a - x.oa))
  | none => (0, 0)

/-- A requester of Bay n that R261 halts: a Gutter, Course, core, engine or digest with a host access issued and not complete. -/
def Dev.hostBusy (d : Dev) (n : Nat) : List (Who × Nat × Nat × Bool) :=
  (d.link.reqs.filterMap fun r => if r.bay = some n && r.who.halts && !r.stale && !r.dead then some (r.who, r.space, r.dva, false) else none) ++
  (d.trans.treqs.filterMap fun t => if t.walk.bay = n && t.walk.who.halts && !t.dead then some (t.walk.who, t.walk.space, t.walk.dva, t.walk.write) else none) ++
  (d.ridge.proxyWait.filterMap fun q => match q.2.who with
    | some w => if q.2.bay = some n && w.halts then some (w, (d.dvaOf n (q.1 * 64)).1, (d.dvaOf n (q.1 * 64)).2, q.2.op != .ncRead) else none
    | none => none) ++
  (d.gutters.filterMap fun c => if c.2.bay = n && c.2.st == .running && c.2.hostWrote then some (.gutter c.1, c.2.space, gDst c.2.d, true) else none) ++
  (d.courses.filterMap fun c => if c.2.bay = n && c.2.st == .running && c.2.hostWrote then
    some (.course c.1, c.2.space, (match c.2.entries with | en :: _ => eDva en | [] => 0), true) else none) ++
  (d.engines.filterMap fun c => c.2.run.bind fun o => if o.bay = n && o.hostWrote then some (.engine c.1, o.space, oDst o.d, true) else none)

/-- A Gutter channel that has written host memory goes back to the start of its descriptor, an out-Course to the start of its block-list
entry, whose lines it writes again (R261). -/
def Dev.rewind (d : Dev) (w : Who) : Dev :=
  match w with
  | .gutter c =>
    let g := d.gutter c
    if g.hostWrote then d.gutterBack c (if gMode g.d = 0 then g.crc else g.crc0) else d
  | .course c =>
    let x := d.course c
    if x.hostWrote then d.setCourse c { x with rep := 0, line := 0, again := x.sent ++ x.again, sent := [], hostWrote := false } else d
  | _ => d

/-- The requester still works: an engine that runs an operation, whatever others it has suspended; any other that is not halted. -/
def Dev.atWork (d : Dev) (w : Who) : Bool :=
  match w with
  | .engine g => (d.engine g).run.isSome
  | _ => !d.halted w

/-- A Bay enters `PARKED`: its page request groups are discarded, what needs the host halts with cause 5 (R261). -/
def Dev.parkWork (d : Dev) (e : Env) (n : Nat) : Dev :=
  let d := d.setTrans { d.trans with
    prgs := d.trans.prgs.filter (·.bay != n)
    halts := d.trans.halts.map fun (h : Halt) => (if h.bay = n && (h.cause = 2 || h.cause = 4) then { h with cause := 5 } else h : Halt) }
  let d := d.trans.halts.foldl (fun d h => if h.bay = n && h.cause = 5 then d.showCause h.who 5 else d) d
  (d.hostBusy n).foldl (fun d b =>
    if !d.atWork b.1 then d
    else (d.rewind b.1).haltReq e b.1 n b.2.1 b.2.2.1 5 b.2.2.2 0) d |>.pumpPri e

/-- A Bay is attached again: requesters halted for the host's absence resume (R262). -/
def Dev.unpark (d : Dev) (e : Env) (n : Nat) : Dev := d.resumeAll e (haltsOf n (· == 5))

end Sys2Proof.Machine
end

