-- ==== Sys2Proof/Machine/Ridge.lean ====
section
/-! DEFINITION. The messages of the Ridge and of CXL.mem and CXL.cache, as rows: requests at a home, snoop answers, what a
caching agent and the proxy slice do with snoops and grants, timeouts, and the change of a cell (R269 to R319). -/
namespace Sys2Proof.Machine

/-! ### Requests at a home (R271 to R288, R304) -/

/-- A registered region admits requests of cell members to the line: its cell bit is set (R568, R594). -/
def Dev.cellAdmits (d : Dev) (line : Nat) : Bool :=
  d.regions.any fun c => c.2.st != .unregistered && bit c.2.ctl 23 && c.2.base ≤ line * 64 && Nat.blt (line * 64) (c.2.base + c.2.len)

/-- A request from a cell member for a line that it may not reach is answered `ACCESS`; any other reaches the home (R568). -/
def Dev.memberReq (d : Dev) (e : Env) (line : Nat) (q : HomeReq) : Dev :=
  if d.cellAdmits line then d.homeReq e line q else d.homeAnswer e line q "Cmp" Status.access.code [] false .access

/-- An L2 reads a host line through the proxy cache, which gives S alone (R302, R310). -/
def Dev.hostLineReq (d : Dev) (e : Env) (a line : Nat) (q : HomeReq) : Dev :=
  if a < 16 && hostKey 0 ≤ line && q.op == .rdShared && bit d.link.cxl 1 then
    (d.rowed a).proxyReq e (line - hostKey 0) { q with bay := d.holder (·.core) (16 * a) }
  else d

/-- A request of a caching agent. -/
def Dev.agentReq (d : Dev) (e : Env) (a line : Nat) (q : HomeReq) : Dev :=
  if !(homed line && d.agentHere a) then d.hostLineReq e a line q
  else if a < 16 then (d.rowed a).homeReq e line { q with a := a }
  else if 17 ≤ a then d.memberReq e line { q with a := a }
  else d.homeReq e line { q with a := a }

/-- A request of a non-caching agent; those of the cell's members come in through the ports, islands 332 to 343 (R568). -/
def Dev.islReq (d : Dev) (e : Env) (line : Nat) (q : HomeReq) : Dev :=
  if !(homed line) then d else if 332 ≤ q.a && q.a < 344 then d.memberReq e line q else d.homeReq e line q

/-- RD_SHARED (R277, R302). -/
def execRdShared (a : Fin 33) (line : Nat) (ecc : Bool) (s : State) (tn : Nat := 0) : Outc :=
  s.go fun e d => d.agentReq e a line { op := .rdShared, a := a, tn := tn, ecc := ecc }

/-- RD_OWN (R277). -/
def execRdOwn (a : Fin 33) (line : Nat) (ecc : Bool) (s : State) (tn : Nat := 0) : Outc :=
  s.go fun e d => d.agentReq e a line { op := .rdOwn, a := a, tn := tn, ecc := ecc }

/-- UPGRADE (R277). -/
def execUpgrade (a : Fin 33) (line : Nat) (ecc : Bool) (s : State) (tn : Nat := 0) : Outc :=
  s.go fun e d => d.agentReq e a line { op := .upgrade, a := a, tn := tn, ecc := ecc }

/-- WB_DIRTY (R277, R296). -/
def execWbDirty (a : Fin 33) (line : Nat) (data : List Byte) (poison : Bool) (s : State) (tn : Nat := 0) : Outc :=
  s.go fun e d =>
    d.agentReq e a line { op := .wbDirty, a := a, tn := tn, data := data, mask := 2 ^ 64 - 1, poison := poison }

/-- NC_READ (R277, R288). -/
def execNcRead (isl : Fin 350) (line tn : Nat) (ecc : Bool) (s : State) (mask : W64 := BitVec.allOnes 64) : Outc :=
  s.go fun e d =>
    d.islReq e line { op := .ncRead, a := isl, tn := tn, mask := mask.toNat, ecc := ecc }

/-- NC_WRITE (R277, R288, R299). -/
def execNcWrite (isl : Fin 350) (line tn : Nat) (mask : W64) (data : List Byte) (ecc : Bool) (s : State) : Outc :=
  s.go fun e d =>
    d.islReq e line { op := .ncWrite, a := isl, tn := tn, mask := mask.toNat, data := fit 64 data, ecc := ecc }

/-- What R287 answers an NcAtomic with before it is served: `FORMAT` for its operand, `ACCESS` for a strict Bay's line. -/
def Dev.atomicBad (d : Dev) (line op off size : Nat) (returning : Bool) : Option Status :=
  if !(atomicSizeOk op size) || off % size != 0 || 64 < off + size then some .format
  else if (returning || op = 8 || op = 9) && (match d.lineBay line with | some n => d.strict n | none => false) then some .access
  else none

/-- NC_ATOMIC (R287). -/
def execNcAtomic (isl : Fin 350) (line tn : Nat) (op : Fin 10) (off size operand compare : Nat) (returning ecc : Bool) (s : State) : Outc :=
  s.go fun e d =>
    if !(homed line) then d else
    let q : HomeReq := { op := .ncAtomic, a := isl, tn := tn, aop := op, off := off, size := size, operand := operand, compare := compare,
                         returning := returning, ecc := ecc }
    match d.atomicBad line op off size returning with
    | some st => d.homeAnswer e line q "Cmp" st.code [] false st
    | none => d.islReq e line q

/-! ### Answers at a home (R277, R284, R298, R300, R307) -/

/-- A snoop answer reaches a home: a slice that is not active drops and counts it, and so does any slice whose transaction ended
with Gone (R300, R624). -/
def Dev.takeAnswer (d : Dev) (e : Env) (line a st : Nat) (dirty : Option (List Byte × Bool)) : Dev :=
  let i := 272 + sliceOf line
  if (d.island i).st != .active then d.dropReply i
  else if !(d.ridge.txns.any fun t => t.line == line && t.wait.contains a) then
    if d.ridge.lateAns.contains (line, a) then
      (d.setRidge { d.ridge with lateAns := d.ridge.lateAns.erase (line, a) }).dropReply i
    else d
  else (d.answerOf e line a st dirty false).homePump e

/-- SNP_ACK (R277, R284). -/
def execSnpAck (a : Fin 33) (line : Nat) (st : Fin 5) (s : State) : Outc :=
  s.go fun e d => if homed line then d.takeAnswer e line a st none else d

/-- SNP_DATA (R277, R278). -/
def execSnpData (a : Fin 33) (line : Nat) (st : Fin 5) (data : List Byte) (poison : Bool) (s : State) : Outc :=
  s.go fun e d => if homed line then d.takeAnswer e line a st (some (fit 64 data, poison)) else d

/-- CMP_ACK ends a transaction that granted data (R272). -/
def execCmpAck (a : Fin 33) (line : Nat) (s : State) : Outc :=
  s.go fun e d =>
    match d.ridge.txns.find? fun t => t.line == line && t.granted && t.req.op.caching && t.req.a == a.val with
    | some _ => (d.dropTxn line).homePump e
    | none => if homed line && (d.island (272 + sliceOf line)).st != .active then d.dropReply (272 + sliceOf line) else d

/-- A snoop that has had no answer within snoop_timeout (R298). -/
def Dev.snoopLate (d : Dev) (e : Env) (line a : Nat) : Option Txn :=
  d.ridge.txns.find? fun t => t.line == line && t.wait.contains a && t.time + d.od 0x2400 9 * 1000 ≤ e.time

/-- A silent agent (R298, R307). -/
def Dev.silent (d : Dev) (e : Env) (line a : Nat) : Dev :=
  match d.snoopLate e line a with
  | none => d
  | some t =>
    ((if a = 16 then d.count 0x2402 5 1 else d.count 0x2400 0xA 1).answerOf e line a 0 none (t.mayBeDirty a)).homePump e

/-- SNOOP_TIMEOUT (R298). -/
def execSnoopTimeout (a : Fin 33) (line : Nat) (s : State) : Outc := s.go fun e d => if 16 ≤ a.val then d.silent e line a else d

/-- BISNP_TIMEOUT (R307). -/
def execBisnpTimeout (line : Nat) (s : State) : Outc := s.go fun e d => d.silent e line 16

/-- BIRSP (R305): a MemWr before it supplies the data. -/
def execBirsp (line : Nat) (st : Fin 5) (data : Option (List Byte)) (s : State) : Outc :=
  s.go fun e d =>
    if !(homed line) then d else
    let i := 272 + sliceOf line
    -- of two messages that are dropped, each is counted (R624)
    let late := data.isSome && ((d.island i).st != .active || d.ridge.lateAns.contains (line, 16))
    (if late then d.dropReply i else d).takeAnswer e line 16 st (data.map fun x => (fit 64 x, false))

/-- BICONFLICT (R306). -/
def execBiconflict (line : Nat) (s : State) : Outc :=
  s.go fun _ d =>
    if d.ridge.txns.any fun t => t.line == line && t.wait.contains 16 then (d.hostSend (.cxl "BIConflictAck" line 0 [])).count 0x2402 4 1 else d

/-! ### Caching agents (R269, R270, R278, R279, R290, R292, R296, R426) -/

/-- A cluster L2 answers a snoop with a message to the line's slice (R278). -/
def Dev.l2Answers (d : Dev) (snp c line tn : Nat) : Dev :=
  let r := d.l2Snoop snp c line
  let st := (snoopAnswer snp r.1.st).1.code
  if r.2.1 then r.2.2.send (.ridge ("SnpData" ++ poisonName r.1.poison) c (lineIsl line) line tn st r.1.data)
  else r.2.2.send (.ridge "SnpAck" c (lineIsl line) line tn st [])

/-- The clusters of a proxy entry answer a snoop: the copy that was dirty, if one was (R292). -/
def Dev.askClusters (d : Dev) (snp line : Nat) (cs : List Nat) : Option CLine × Dev :=
  cs.foldl (fun a k =>
    let y := a.2.l2Snoop snp k line
    (if y.2.1 then some y.1 else a.1, y.2.2)) ((none, d) : Option CLine × Dev)

/-- The proxy slice answers a snoop of the remote home in the device's name: from the clusters of its entry; from the written-back data of
a WbDirty in flight; else SnpAck I (R278, R292, R296). -/
def Dev.deviceAnswers (d : Dev) (snp dev line tn : Nat) : Dev :=
  match d.dir line with
  | some x =>
    let a := snoopAnswer snp x.st
    let r := d.askClusters snp line x.sharers
    let d := r.2.setDir line (if a.1 == .i then none else some { x with st := a.1 })
    match r.1 with
    | some y => d.toRemoteHome dev line "SnpData" tn a.1.code y.data y.poison
    | none => d.toRemoteHome dev line "SnpAck" tn a.1.code [] false
  | none =>
    let x := d.remoteLine line
    let a := snoopAnswer snp x.st
    let d := d.setRemoteLine line (if a.1 == .i then {} else { x with st := a.1 })
    if a.2 then d.toRemoteHome dev line "SnpData" tn a.1.code x.data x.poison
    else d.toRemoteHome dev line "SnpAck" tn a.1.code [] false

/-- A snoop reaches a cluster L2, or as agent 16 the proxy slice of a remote line (R278, R292). -/
def Dev.snooped (d : Dev) (snp c line tn : Nat) : Dev :=
  if c < 16 then (if d.cacheable line then d.l2Answers snp c line tn else d)
  else match remoteLine? line with
    | none => d
    | some dev => d.deviceAnswers snp dev line tn

/-- SNP_SHARED (R278). -/
def execSnpShared (c : Fin 17) (line : Nat) (s : State) (tn : Nat := 0) : Outc := s.go fun _ d => d.snooped 1 c line tn

/-- SNP_INV (R278). -/
def execSnpInv (c : Fin 17) (line : Nat) (s : State) (tn : Nat := 0) : Outc := s.go fun _ d => d.snooped 2 c line tn

/-- SNP_CUR (R278). -/
def execSnpCur (c : Fin 17) (line : Nat) (s : State) (tn : Nat := 0) : Outc := s.go fun _ d => d.snooped 3 c line tn

/-- A line granted by a home here, or by the proxy cache, is installed, and CmpAck sent; a host line is held in S alone (R279, R302). -/
def Dev.l2Install (d : Dev) (e : Env) (c line tn : Nat) (st : Coh) (data : List Byte) (poison : Bool) : Dev :=
  if (homed line && (st == .s || st == .e || st == .m)) || (hostKey 0 ≤ line && st == .s) then
    (d.l2Fill e c line (d.l2Bay c line) st data poison).send (.ridge "CmpAck" c (lineIsl line) line tn 0 [])
  else d

/-- The answer that a request outstanding at a member's home has drawn (R290). -/
inductive CellAns where
  | data (st : Coh) (bs : List Byte) (poison : Bool)
  | cmp (s : Status)
deriving DecidableEq, Repr

/-- The request that a cluster L2 has outstanding under a transaction number (R290). -/
def Dev.l2Out (d : Dev) (tn : Nat) : Option L2Req := d.ridge.l2out.find? (·.tn == tn)

/-- The answer of a member's home to the request of a cluster L2: data is installed, with the proxy entry, and CmpAck sent; a Cmp raises the
copy and the device's state; a status is the core's (R277, R279, R290, R292). -/
def Dev.l2Granted (d : Dev) (e : Env) (r : L2Req) (a : CellAns) : Dev :=
  let d := d.setRidge { d.ridge with l2out := d.ridge.l2out.erase r }
  match a, remoteLine? r.line with
  | .data st bs p, some dev =>
    ((d.proxyEntry e r.c r.line r.bay st r.way).l2Fill e r.c r.line (some r.bay) st bs p).toRemoteHome dev r.line "CmpAck" r.tn 0 [] false
  | .cmp .ok, _ =>
    let d := d.l2Upgrade r.c r.line
    match d.dir r.line with
    | some x => d.setDir r.line (some { x with st := x.st.upgraded })
    | none => d
  | .cmp s, _ => match r.who with
    | some w => d.setRidge { d.ridge with fresh := d.ridge.fresh ++ [(w, r.line, [], true, s)] }
    | none => d
  | .data _ _ _, none => d

/-- An answer from the home of a cell member: for a request of a cluster L2; kept for one of this device's other agents; for one that a
closing island abandoned it is dropped and counted (R290, R624). -/
def Dev.cellAnswer (d : Dev) (e : Env) (tn : Nat) (a : CellAns) : Dev :=
  match d.l2Out tn with
  | some r => d.l2Granted e r a
  | none =>
    match d.ridge.away.find? (·.2.2.1 == tn) with
    | none =>
      match d.ridge.abandoned.find? (·.2 == tn) with
      | some a => (d.setRidge { d.ridge with abandoned := d.ridge.abandoned.erase a }).dropReply a.1
      | none => d
    | some x =>
      let v : List Byte × Bool × Status := match a with | .data _ bs p => (bs, p, .ok) | .cmp s => ([], s == .gone, s)
      d.setRidge { d.ridge with
        away := d.ridge.away.erase x
        fresh := d.ridge.fresh ++ [(x.1, awayKey x.2.1, v.1, v.2.1, v.2.2)] }

/-- DATA (R273, R279): a cluster L2 installs the line; a read at a member's home is answered. -/
def execData (isl : Fin 350) (line tn : Nat) (data : List Byte) (st : Fin 5) (poison : Bool) (s : State) : Outc :=
  s.go fun e d =>
    if 256 ≤ isl.val && isl.val < 272 && (remoteLine? line).isNone then
      if d.cacheable line then (d.rowed (isl - 256)).l2Install e (isl - 256) line tn (grantOf st) data poison else d
    else d.cellAnswer e tn (.data (grantOf st) (fit 64 data) poison)

/-- CMP (R273, R277): an Upgrade gives an S holder E and an O owner M. -/
def execCmp (isl : Fin 350) (line tn : Nat) (st : Status) (s : State) : Outc :=
  s.go fun e d =>
    if 256 ≤ isl.val && isl.val < 272 && (remoteLine? line).isNone then
      let d := d.rowed (isl - 256)
      if st == .ok && homed line then d.l2Upgrade (isl - 256) line else d
    else d.cellAnswer e tn (.cmp st)

/-- A WbAck ends the write-back of a line (R296). -/
def Dev.wbAcked (d : Dev) (line : Nat) : Dev := if (d.remoteLine line).wb then d.setRemoteLine line {} else d

/-- WB_ACK (R296). -/
def execWbAck (c : Fin 17) (line : Nat) (s : State) : Outc :=
  s.go fun _ d => if c.val < 16 then (if (d.l2 c line).wb then d.setL2 c line {} else d) else d.wbAcked line

/-! ### Retry and Gone (R621, R623) -/

/-- RETRY (R623): the request is sent again 1 µs later. -/
def execRetry (isl : Fin 350) (line tn : Nat) (s : State) : Outc :=
  s.go fun e d =>
    if homed line || hostKey 0 ≤ line || (remoteLine? line).isSome then
      d.setRidge { d.ridge with resends := d.ridge.resends ++ [⟨isl, line, tn, e.time + 1000⟩] }
    else d

/-- RETRY_RESEND (R623): the same request, unchanged. -/
def execRetryResend (isl : Fin 350) (line tn : Nat) (s : State) : Outc :=
  s.go fun e d =>
    match d.ridge.resends.find? fun r => r.isl == isl.val && r.line == line && r.tn == tn with
    | none => d
    | some r =>
      if e.time < r.at_ then d else
      let d := d.setRidge { d.ridge with resends := d.ridge.resends.erase r }
      match d.l2Out tn, d.ridge.away.find? (·.2.2.1 == tn) with
      | some r, _ => match remoteLine? r.line with
        | some dev => d.toRemoteHome dev r.line r.op.msg tn 0 [] false
        | none => d
      | none, some a => d.ridgeFrame (a.2.1 / 2 ^ 42) a.2.2.2.op.msg (a.2.1 * 64 + a.2.2.2.off) tn 0 (ncPayload a.2.2.2) false
      | none, none => d.send (.ridge "resend" isl (lineIsl line) line tn 0 [])

/-- GONE (R298, R621): the requester's operation ends with `GONE`. -/
def execGone (isl : Fin 350) (line tn : Nat) (s : State) : Outc :=
  s.go fun e d =>
    let d := d.setRidge { d.ridge with resends := d.ridge.resends.filter fun r => !(r.isl == isl.val && r.line == line && r.tn == tn) }
    d.cellAnswer e tn (.cmp .gone)

/-! ### The cell (R289, R293) -/

/-- The lines homed here that a device leaving the cell may hold: an exact entry lists its slot, or the summary byte has bit 7
set (R293). -/
def Dev.peerLines (d : Dev) (e : Env) (slots : List Nat) : List Nat :=
  (d.ridge.dir.filterMap fun c => match c.2 with
    | some x => if x.holders.any fun a => 17 ≤ a && slots.contains (a - 17) then some c.1 else none
    | none => none) ++
  (e.mem.filterMap fun c =>
    let l := c.1 - 0x5E80000000
    if 0x5E80000000 ≤ c.1 && homed l && (d.dir l).isNone && bit (d.byte e c.1).toNat 7 then some l else none)

/-- The cell as the dictionary now defines it. -/
def Dev.cellNext (d : Dev) : Bool × Nat × SMap Nat :=
  (d.od 0x2401 1 == 1, d.od 0x2401 2, (List.range 16).foldl (fun m s => smSet 0xFFFF m s (d.od 0x2401 (s + 3))) [])

/-- A write has changed the cell: lines of devices that leave are recalled, with write-back, and those devices are snooped out
of the lines homed here (R293). -/
def Dev.cellChange (d : Dev) (e : Env) : Dev :=
  let nx := d.cellNext
  if d.ridge.cellOn = nx.1 && d.ridge.ownSlot = nx.2.1 && d.ridge.members = nx.2.2 then d else
  let stays (s m : Nat) : Bool := nx.1 && s != nx.2.1 && smGet 0xFFFF nx.2.2 s == m
  let slots := (List.range 16).filter fun s => match d.member s with | some m => !(stays s m) | none => false
  let devs := slots.filterMap fun s => d.member s
  let d := d.setRidge { d.ridge with cellBusy := true, leaving := slots }
  let mine := (d.ridge.dir.map (·.1)).filter fun l => match remoteLine? l with | some v => devs.contains v | none => false
  let d := mine.foldl (fun d l => d.remoteRecall l) d
  (d.peerLines e slots).foldl (fun d l => d.homeReq e l { op := .ncWrite, a := recallIsl, data := zeros 64 }) d

/-- CELL_CHANGE_END (R293): the change takes effect once the recall has ended. -/
def execCellChangeEnd (s : State) : Outc :=
  s.go fun _ d =>
    let leaves (l : Nat) : Bool := match remoteLine? l with | some v => d.ridge.leaving.any fun s => d.member s == some v | none => false
    let open_ := (d.ridge.txns.any (·.req.a == recallIsl)) || d.ridge.waiting.any (·.2.a == recallIsl) ||
      d.ridge.remote.any (fun c => c.2.wb && leaves c.1) || d.ridge.l2out.any fun r => leaves r.line
    if !d.ridge.cellBusy || open_ then d else
    let nx := d.cellNext
    d.setRidge { d.ridge with cellBusy := false, leaving := [], cellOn := nx.1, ownSlot := nx.2.1, members := nx.2.2 }

/-! ### CXL.mem requests (R173, R304) -/

/-- A read of the host through a decoder: poison where its Bay does not stand, whatever its decoder says (R173). -/
def Dev.hdmRead (d : Dev) (e : Env) (k off tag : Nat) (op : RReq) : Dev :=
  if !(bit d.link.cxl 2) then d
  else if !(d.bay k).st.live then (d.count 0x2200 0x13 1).toAgent 16 "Data" ((d.hdmLine k off).getD (off / 64)) tag 0 (zeros 64) true
  else match d.hdmLine k off with
    | none => d
    | some l => d.homeReq e l { op := op, a := if op.caching then 16 else 326, tn := tag, mask := 2 ^ 64 - 1, bay := some k }

/-- A write of the host through a decoder: WbDirty with MetaValue I from the X holder, else NcWrite (R304). -/
def Dev.hdmWrite (d : Dev) (e : Env) (k off mv mask : Nat) (data : List Byte) (tag : Nat) : Dev :=
  if !(bit d.link.cxl 2) then d
  else if !(d.bay k).st.live then d.count 0x2200 0x13 1
  else match d.hdmLine k off with
    | none => d
    | some l =>
      if d.shadowed (l * 64) 64 then d.count 0x2200 0x13 1
      else if mv = 2 then d.homeReq e l { op := .wbDirty, a := 16, tn := tag, mask := mask, data := fit 64 data }
      else d.homeReq e l { op := .ncWrite, a := 326, tn := tag, mask := mask, data := fit 64 data }

/-- MEM_RD (R304): MetaValue 0 A, 1 S, 2 I. -/
def execMemRd (k : Fin 16) (off : Nat) (mv : Fin 3) (tag : Nat) (s : State) : Outc :=
  s.go fun e d => d.hdmRead e k off tag (match mv.val with | 0 => .rdOwn | 1 => .rdShared | _ => .ncRead)

/-- MEM_RD_DATA (R304). -/
def execMemRdData (k : Fin 16) (off tag : Nat) (s : State) : Outc := s.go fun e d => d.hdmRead e k off tag .rdShared

/-- MEM_WR (R304). -/
def execMemWr (k : Fin 16) (off : Nat) (mv : Fin 3) (data : List Byte) (tag : Nat) (s : State) : Outc :=
  s.go fun e d => d.hdmWrite e k off mv (2 ^ 64 - 1) data tag

/-- MEM_WR_PTL (R304). -/
def execMemWrPtl (k : Fin 16) (off : Nat) (mv : Fin 3) (mask : W64) (data : List Byte) (tag : Nat) (s : State) : Outc :=
  s.go fun e d => d.hdmWrite e k off mv mask.toNat data tag

/-! ### The proxy cache and the host (R310 to R312) -/

/-- H2D_SNP_DATA (R311). -/
def execH2dSnpData (hpa : Nat) (s : State) : Outc := s.go (Dev.turn (.h2dSnpData hpa) fun _ d => d.h2dSnoop 1 hpa)

/-- H2D_SNP_INV (R311). -/
def execH2dSnpInv (hpa : Nat) (s : State) : Outc := s.go (Dev.turn (.h2dSnpInv hpa) fun _ d => d.h2dSnoop 2 hpa)

/-- H2D_SNP_CUR (R311). -/
def execH2dSnpCur (hpa : Nat) (s : State) : Outc := s.go (Dev.turn (.h2dSnpCur hpa) fun _ d => d.h2dSnoop 3 hpa)

/-- HOST_GO_RESPONSE (R310): a grant, or the acknowledgement of a DirtyEvict. -/
def execHostGoResponse (hpa : Nat) (st : Fin 5) (data : List Byte) (s : State) : Outc :=
  s.go fun e d => if bit d.link.cxl 1 then d.proxyGo e (hpa / 64) st data else d

end Sys2Proof.Machine
end

