-- ==== Sys2Proof/Machine/Pages.lean ====
section
/-! DEFINITION. The pages of the control aperture: the dictionary windows (R107 to R113), the Bay page and the PF page (R169,
R187, R682), fences (R201), Hatches (R191 to R194), the Spar window (R326), split reads (R204), and the Skylights (R196 to
R200). -/
namespace Sys2Proof.Machine

/-! ### Dictionary windows (R107 to R113) -/

/-- Table — Status to abort code (R100). -/
def abortOf : Status → Nat
  | .ok => 0 | .state => 0x08000022 | .range => 0x06090030 | .access => 0x06010000 | .format => 0x06070010 | .fault => 0x06060000
  | .gone => 0x06060000 | .overrun => 0x05040005 | .retry => 0x08000021 | .quota => 0x06040043 | .timeout => 0x05040000
  | .integrity => 0x08000020

/-- The function whose window a route uses; none for CAN FD. -/
def routeFn : Route → Option Nat
  | .can _ => none | .pf => some 0 | .bay n => some (n + 1) | .fabPf => some 0 | .fabBay n => some (n + 1)

/-- A window's request ends: the status, its abort code, done, and the vector that tells of it (R107, R111, R175). -/
def Dev.winDone (d : Dev) (fn : Nat) (st : Status) (abort : Nat) : Dev :=
  let w := d.win fn
  let d := d.setWin fn { w with busy := false, done := true, status := st.code, abort := abort }
  if fn = 0 then d.raisePf 0 else d.raiseBay (fn - 1) 3

/-- A request that a route carries is answered: through its window, or on its CAN FD port with the value read, if it was a
read; a port that 0x2002.04 disables sends nothing (R100, R101, R111, R130). -/
def Dev.odAnswer (d : Dev) (rt : Route) (st : Status) (abort : Nat) (data : List Byte) : Dev :=
  match rt with
  | .can p => if !bit (d.od 0x2002 4) p then d
    else if st = .ok then d.send (.can p "response" 0 data) else (d.send (.can p "abort" abort [])).count 0x2002 7 1
  | .pf => d.winDone 0 st abort
  | .bay n => d.winDone (n + 1) st abort
  | .fabPf => d.winDone 0 st abort
  | .fabBay n => d.winDone (n + 1) st abort

/-- A request put in its place: by tick of arrival, then by route (R114). -/
def reqIns (r : Req) : List Req → List Req
  | [] => [r]
  | x :: l => if x.time = r.time && Nat.blt (routeRank r.route) (routeRank x.route) then r :: x :: l else x :: reqIns r l

/-- The principal of a route, as a change record shows it (Table — Change record, R572). -/
def principal : Route → Nat
  | .can p => p | .pf => 2 | .bay n => 0x10 + n | .fabPf => 0x20 | .fabBay n => 0x10 + n

/-- A write request is journaled: its status, and the CRC-64 of the value written or 0 (R119). -/
def Dev.journalChange (d : Dev) (e : Env) (rt : Route) (idx sub : Nat) (st : Status) (crc : Nat) : Dev :=
  let r : ChangeRec := ⟨d.srv.seq + 1, e.time, idx, sub, principal rt, st.code, crc⟩
  { d with srv := { d.srv with seq := r.seq, ring := (r :: d.srv.ring).take 1024 } }

/-- A request that finds the server closed to it is answered with `RETRY`, and a write is journaled (R102, R119, R123). -/
def Dev.odRetry (d : Dev) (e : Env) (rt : Route) (write : Bool) (idx sub : Nat) : Dev :=
  (if write then d.journalChange e rt idx sub .retry 0 else d).odAnswer rt .retry (abortOf .retry) []

/-- An accepted activation stands at the server's idle point: no request is served, and no save runs (R118, R123). -/
def Dev.closing (d : Dev) : Bool := d.srv.activating && d.srv.reqs.isEmpty && d.srv.saving.isNone

/-- A request arrives at island 348. From the idle point of an accepted activation on, it is answered with `RETRY` (R114,
R123). -/
def Dev.odArrive (d : Dev) (e : Env) (r : Req) : Dev :=
  if d.closing then d.odRetry e r.route (r.op == .write) r.idx r.sub
  else { d with srv := { d.srv with reqs := reqIns { r with time := e.time } d.srv.reqs } }

/-- Bytes of a window's data buffer. -/
def Win.bytes (w : Win) (n : Nat) : List Byte := (List.range n).map fun i => smGet 0 w.data i

/-- EV_OD_CMD is written: rejected while busy, completed with FORMAT for operation 0, else a request for the server (R108,
R110, R680). -/
def Dev.winCmd (d : Dev) (e : Env) (rt : Route) (fn v : Nat) : Dev :=
  let w := d.win fn
  let op := v % 4
  if w.busy then
    let d := (d.setWin fn { w with rejected := true }).count 0x2002 8 1
    if fn = 0 then d else d.reject e (fn - 1) 5 .state 0xFFFF 0xE000
  else
    let w := { w with busy := true, done := false, rejected := false, echo := w.tag.toNat % 65536 }
    let d := d.setWin fn w
    if op = 0 then d.winDone fn .format (abortOf .format)
    else
      let len := w.len.toNat % 8192
      let r : Req := { route := rt, op := if op = 1 then .read else if op = 2 then .write else .append, idx := w.addr.toNat % 65536,
                       sub := w.addr.toNat / 65536 % 256, off := w.off.toNat, len := len, tag := w.tag.toNat,
                       data := if op = 1 then [] else w.bytes (min len 4097) }
      d.odArrive e r

/-- A register of a window is written, aligned and at its width (R107). -/
def Dev.winWrite (d : Dev) (e : Env) (rt : Route) (fn off v : Nat) : Dev :=
  let w := d.win fn
  match off with
  | 0xE000 => d.winCmd e rt fn v
  | 0xE004 => d.setWin fn { w with addr := BitVec.ofNat 32 (v % 2 ^ 24) }
  | 0xE008 => d.setWin fn { w with len := BitVec.ofNat 32 (v % 2 ^ 13) }
  | 0xE00C => d.setWin fn { w with off := BitVec.ofNat 32 v }
  | 0xE010 => d.setWin fn { w with tag := BitVec.ofNat 32 v }
  | _ =>
    if 0xF000 ≤ off then
      d.setWin fn { w with data := (List.range 4).foldl (fun m i => smSet 0 m (off - 0xF000 + i) (BitVec.ofNat 8 (v / 256 ^ i))) w.data }
    else d

/-- A register of a window as read (R107, R188). -/
def Win.read (w : Win) (off : Nat) : Nat :=
  match off with
  | 0xE004 => w.addr.toNat | 0xE008 => w.len.toNat | 0xE00C => w.off.toNat | 0xE010 => w.tag.toNat
  | 0xE014 => w.status + 256 * b2n w.busy + 512 * b2n w.done + 1024 * b2n w.rejected + 65536 * w.echo
  | 0xE018 => w.abort | 0xE01C => w.rlen
  | _ => if 0xF000 ≤ off then leNat ((List.range 4).map fun i => smGet 0 w.data (off - 0xF000 + i)) else 0

/-! ### Registers of a page -/

/-- How a register may be accessed. -/
inductive RegAcc where
  | ro | wo | rw
deriving DecidableEq, Repr

/-- What stands at an offset of a page (R169, R187, R394, R423, R682). -/
inductive At where
  /-- an offset that no table names -/
  | none
  /-- a register: its offset, its width in bytes, its access -/
  | reg (base width : Nat) (a : RegAcc)
  /-- a Hatch slot -/
  | slot (i : Nat)
  /-- the MSI-X table or its PBA -/
  | msix
  /-- a status block of the PF page -/
  | block (base width : Nat)
deriving DecidableEq, Repr

/-- The registers of the dictionary window (R107). -/
def winAt (off : Nat) : At :=
  if off < 0xE004 then .reg 0xE000 4 .wo
  else if off < 0xE014 then .reg (off / 4 * 4) 4 .rw
  else if off < 0xE020 then .reg (off / 4 * 4) 4 .ro
  else if off < 0xF000 then .none
  else .reg (off / 4 * 4) 4 .rw

/-- What stands at an offset of a Bay page. -/
def bayAt (off : Nat) : At :=
  if off < 4 then .reg 0 4 .ro
  else if off < 8 then .reg 4 4 .ro
  else if 0x10 ≤ off && off < 0x18 then .reg 0x10 8 .ro
  else if 0x100 ≤ off && off < 0x140 then (if off % 8 < 4 then .reg (off / 8 * 8) 4 .wo else .none)
  else if 0x140 ≤ off && off < 0x144 then .reg 0x140 4 .wo
  else if 0x148 ≤ off && off < 0x14C then .reg 0x148 4 .ro
  else if 0x1000 ≤ off && off < 0x1800 then .slot ((off - 0x1000) / 64)
  else if 0x1800 ≤ off && off < 0x1810 then .reg (off / 4 * 4) 4 (if off / 4 * 4 = 0x1808 then .wo else .ro)
  else if 0x4000 ≤ off && off < 0xC000 then .reg (off / 8 * 8) 8 (if 0x6000 ≤ off && off < 0x8000 then .wo else .rw)
  else if (0xD000 ≤ off && off < 0xD080) || (0xD800 ≤ off && off < 0xD808) then .msix
  else if 0xE000 ≤ off then winAt off
  else .none

/-- What stands at an offset of the PF page. -/
def pfAt (off : Nat) : At :=
  if 0x10 ≤ off && off < 0x18 then .reg 0x10 8 .ro
  else if 0x2000 ≤ off && off < 0x6000 then
    let o := off % 0x40
    if o < 4 then .block (off / 4 * 4) 4 else if 8 ≤ o && o < 0x30 then .block (off / 8 * 8) 8 else .none
  else if 0x6000 ≤ off && off < 0xA000 then
    let o := off % 0x20
    if o < 8 || 0x18 ≤ o then .block (off / 4 * 4) 4 else .block (off / 8 * 8) 8
  else if (0xD000 ≤ off && off < 0xD040) || (0xD800 ≤ off && off < 0xD808) then .msix
  else if 0xE000 ≤ off then winAt off
  else .none

/-- Page `fn`: 0 the PF page, n + 1 the page of Bay n. -/
def pageAt (fn off : Nat) : At := if fn = 0 then pfAt off else bayAt off

/-- A register of a Spar through the window: its value (R326). -/
def Dev.sparReg (d : Dev) (s off : Nat) : Nat :=
  let x := d.spar s
  if off < 0x6000 then x.value.toNat else if off < 0x8000 then 0 else if off < 0xA000 then x.thresh.toNat else x.ctl

/-- The Spar that an offset of the Spar window names, if the Bay has it (R326, R328). -/
def Dev.sparAt (d : Dev) (n off : Nat) : Option Nat :=
  let j := (off - 0x4000) % 0x2000 / 8
  let r := (d.bay n).held.spar
  if j < r.count then some (r.base + j) else none

/-- A field of a status block of the PF page (R394, R423). -/
def Dev.blockReg (d : Dev) (base : Nat) : Nat :=
  if base < 0x6000 then
    let c := (base - 0x2000) / 0x40
    let g := d.gutter c
    match base % 0x40 with
    | 0 => d.gtStat c | 8 => g.desc | 0x10 => g.pos | 0x18 => g.addr | 0x20 => g.crc | _ => g.bytes
  else
    let c := (base - 0x6000) / 0x20
    let x := d.course c
    match base % 0x20 with
    | 0 => d.csStat c | 4 => (d.courseRing x).fill | 8 => x.pos | 0x10 => x.addr | 0x18 => x.pass % 65536 | _ => x.misses

/-- bay_state as read (R156). -/
def Dev.bayState (d : Dev) (n : Nat) : Nat :=
  let b := d.bay n
  (match b.st with | .free => 0 | .configuring => 1 | .idle => 2 | .running => 3 | .parked => 4 | .draining => 5 | .faulted => 6) +
    64 * b2n b.scrubbing + 128 * b2n (b.st == .draining && b.toFree)

/-- HT_IN_STATE as read (R187). -/
def Page.inState (p : Page) : Nat :=
  (List.range 16).foldl (fun v i => v + (match smGet .empty p.inSt i with | .empty => 0 | .full => 1 | .taken => 2) * 4 ^ i) 0

/-- A register's value; a write-only register reads 0 (R187, R188). -/
def Dev.regVal (d : Dev) (e : Env) (fn base : Nat) : Nat :=
  if 0xE000 ≤ base then (d.win fn).read base
  else if base = 0x10 then e.time
  else if fn = 0 then 0
  else
    let n := fn - 1
    let p := d.page n
    match base with
    | 0 => n + 16 * b2n (d.strict n) + 32 * b2n (d.detachable n)
    | 4 => d.bayState n
    | 0x148 => p.fenceDone.toNat
    | 0x1800 => p.inState
    | 0x1804 => p.outFull.foldl (fun v i => v + 2 ^ i) 0
    | 0x180C => p.inErr
    | _ => if 0x4000 ≤ base && base < 0xC000 then (match d.sparAt n base with | some s => d.sparReg s base | none => 0) else 0

/-- A byte of an MSI-X table or of its PBA (R169): the Mask bit stands at bit 0 of each vector's last word. -/
def Dev.msixByte (d : Dev) (fn off : Nat) : Byte :=
  if 0xD800 ≤ off then
    BitVec.ofNat 8 ((List.range 8).foldl (fun v i => v + b2n (d.link.msixPend.contains (fn * 8 + 8 * (off - 0xD800) + i)  && off = 0xD800) * 2 ^ i) 0)
  else
    let v := (off - 0xD000) / 16
    let w := off % 16 / 4
    let x := if w = 3 then b2n (!(d.unmasked fn v)) else smGet 0 d.link.msixTab (fn * 32 + 4 * v + w)
    BitVec.ofNat 8 (x / 256 ^ (off % 4))

/-- A torn read: the high half of a register is read without its low half (R204). -/
def Dev.torn (d : Dev) (fn : Nat) : Dev := if fn = 0 then d.count 0x2980 3 1 else d.count (0x2990 + (fn - 1)) 0xB 1

/-- A read of a 64-bit register, whole or in halves, with the shadow of the reader `key` (R204). -/
def Dev.read64 (d : Dev) (key fn base off len v : Nat) : Option (List Byte) × Dev :=
  if off = base && len = 8 then (some (leBytes 8 v), d)
  else if off = base && len = 4 then
    (some (leBytes 4 v), { d with shadows := smSet none d.shadows key (some (base, v / 2 ^ 32)) })
  else if off = base + 4 && len = 4 then
    match smGet none d.shadows key with
    | some (b, h) =>
      if b = base then (some (leBytes 4 h), { d with shadows := smSet none d.shadows key none })
      else (some (leBytes 4 (v / 2 ^ 32)), d.torn fn)
    | none => (some (leBytes 4 (v / 2 ^ 32)), d.torn fn)
  else (none, d)

/-- A read of a page by its owner; none is UR (R188, R192, R204, R328). `key`: the reader's shadow. -/
def Dev.pageRead (d : Dev) (e : Env) (key fn off len : Nat) : Option (List Byte) × Dev :=
  match pageAt fn off with
  | .none => (some (zeros len), d)
  | .slot i =>
    if off + len ≤ 0x1000 + 64 * (i + 1) then
      (some (d.bytes e (0x13000000000 + (fn - 1) * 2048 + (off - 0x1000)) len), d)
    else (none, d)
  | .msix => (some ((List.range len).map fun i => d.msixByte fn (off + i)), d)
  | .block base width => if width = 8 then d.read64 key fn base off len (d.blockReg base)
      else if off = base && len = 4 then (some (leBytes 4 (d.blockReg base)), d) else (none, d)
  | .reg base width _ =>
    if fn != 0 && 0x4000 ≤ base && base < 0xC000 && (d.sparAt (fn - 1) base).isNone then (none, d.count (0x2910 + (fn - 1)) 0xA 1)
    else if width = 8 then d.read64 key fn base off len (d.regVal e fn base)
    else if off = base && len = 4 then (some (leBytes 4 (d.regVal e fn base)), d) else (none, d)

/-! ### Writes of a page -/

/-- A write dropped for its shape (R188, R682). -/
def Dev.partialWrite (d : Dev) (fn : Nat) : Dev := if fn = 0 then d.count 0x2980 4 1 else d.count (0x2990 + (fn - 1)) 0xC 1

/-- A doorbell (R190, R343). -/
def Dev.doorbell (d : Dev) (e : Env) (n q v : Nat) : Dev :=
  let x := d.queue n q
  if !(d.bay n).st.live || x.st == .disabled then d.reject e n 2 .state q (0x100 + 8 * q)
  else
    let nv := BitVec.ofNat 32 v
    if (x.p - x.fr).toNat ≤ (nv - x.fr).toNat && (nv - x.fr).toNat ≤ 2 ^ d.cqK n q then d.setQueue n q { x with p := nv }
    else (d.count (0x2680 + n) 0x7B 1).cqError n q (v % 2 ^ 32) Status.overrun.code 0

/-- A post to an inbound slot by one write of 64 bytes (R192 to R194). -/
def Dev.hatchPost (d : Dev) (e : Env) (n i : Nat) (bs : List Byte) : Dev :=
  let p := d.page n
  let refuse (st : Status) : Dev := d.setPage n { p with inErr := st.code + 256 * i }
  if fld bs 2 1 != 0 || 56 < fld bs 3 1 then refuse .format
  else if !(d.bay n).st.awake || smGet .empty p.inSt i != .empty then (refuse .state).reject e n 3 .state i (0x1000 + 64 * i)
  else (((d.setPage n { p with inSt := smSet .empty p.inSt i .full }).poke (0x13000000000 + (32 * n + i) * 64) (slotLine d.free bs)).drawn true
    (slotOpen bs)).pulse e n (d.od (0x2990 + n) 1)

/-- HT_OUT_ACK: each set bit acts on its own (R194). -/
def Dev.hatchAck (d : Dev) (e : Env) (n v : Nat) : Dev :=
  (List.range 16).foldl (fun d i =>
    if !bit v i then d
    else
      let p := d.page n
      if p.outFull.contains i then d.setPage n { p with outFull := listDel i p.outFull } else d.reject e n 3 .state i 0x1808) d

/-- A write to the Spar window (R326 to R328, R336). -/
def Dev.sparWrite (d : Dev) (e : Env) (n off v : Nat) : Dev :=
  match d.sparAt n off with
  | none => d.count (0x2910 + n) 0xA 1
  | some s =>
    if (d.bay n).st == .draining || (d.bay n).st == .faulted then d.reject e n 4 .state s off
    else if off < 0x6000 then d.sparSet e s v
    else if off < 0x8000 then d.sparAdd e s v
    else if off < 0xA000 then d.sparThresh e s v
    else d.sparCtl e s v

/-- A word of an MSI-X table: a message's address and data, or its Mask bit, whose clearing sends what is pending (R175, R176). -/
def Dev.msixWrite (d : Dev) (fn off v : Nat) : Dev :=
  if 0xD800 ≤ off then d else
  let k := (off - 0xD000) / 16
  let w := off % 16 / 4
  if w = 3 then ({ d with link := { d.link with msixOpen := listPut (fn * 8 + k) (!bit v 0) d.link.msixOpen } } : Dev).flushVecs
  else { d with link := { d.link with msixTab := smSet 0 d.link.msixTab (fn * 32 + 4 * k + w) v } }

/-- A write to a page takes effect (R187 to R194, R682). -/
def Dev.pageApply (d : Dev) (e : Env) (rt : Route) (fn off : Nat) (bs : List Byte) : Dev :=
  match pageAt fn off with
  | .none => d
  | .block _ _ => d
  | .msix =>
    if off % 4 = 0 && bs.length % 4 = 0 then
      (List.range (bs.length / 4)).foldl (fun d i => d.msixWrite fn (off + 4 * i) (fld bs (4 * i) 4)) d
    else d.partialWrite fn
  | .slot i =>
    if i < 16 && off = 0x1000 + 64 * i && bs.length = 64 then d.hatchPost e (fn - 1) i bs else d.partialWrite fn
  | .reg base width a =>
    if off != base || bs.length != width then d.partialWrite fn
    else if a == .ro then d
    else
      let v := leNat bs
      if 0xE000 ≤ base then d.winWrite e rt fn base v
      else if fn = 0 then d
      else
        let n := fn - 1
        if base < 0x140 then d.doorbell e n ((base - 0x100) / 8) v
        else if base = 0x1808 then d.hatchAck e n v
        else if 0x4000 ≤ base then d.sparWrite e n base v
        else d

/-! ### Skylight accesses (R196 to R200) -/

/-- The LPA of an offset of VF BAR2 (R196, R197). -/
def Dev.skyLpa (d : Dev) (n x : Nat) : Option Nat :=
  (List.range 8).findSome? fun w =>
    let m := d.od (0x2990 + n) (w + 2)
    let o := bits m 31 24
    let g := x / 0x10000000
    if bit m 32 && o ≤ g && g < o + bits m 23 16 then some ((bits m 15 0 + g - o) * 0x10000000 + x % 0x10000000) else none

/-- What an access to VF BAR2 comes to: a place, a violation of a kind, or a refusal under R200. -/
inductive SkyAt where
  | lpa (a : Nat) | viol (kind : Nat) | refused
deriving DecidableEq, Repr

/-- Where an access to VF BAR2 goes (R195 to R197, R200). One that no valid window covers is of kind 0x03 in every state of the Bay, and does not count
in sky_refused (DESIGN CHOICE, log entry 61). -/
def Dev.skyAt (d : Dev) (n off len : Nat) (write : Bool) : SkyAt :=
  if off / 4096 != (off + len - 1) / 4096 then .viol 1
  else match d.skyLpa n off with
    | none => .viol 3
    | some a => if !(d.bay n).st.live || d.reach n a len write != .ok then .refused else .lpa a

/-- A Skylight access joins those of its function (R199). -/
def Dev.skyQueue (d : Dev) (n : Nat) (r : SkyReq) : Dev := d.setPage n { d.page n with sky := (d.page n).sky ++ [r] }

/-- A Skylight write, received on tick `t`, takes effect (R197 to R200, R491). -/
def Dev.skyApply (d : Dev) (e : Env) (n off : Nat) (bs : List Byte) (t : Nat) : Dev :=
  match d.skyAt n off bs.length true with
  | .viol k => d.violateFn e (n + 1) k 0
  | .refused => d.count (0x2990 + n) 0xE 1
  | .lpa a =>
    if d.shadowed a bs.length then d.count (0x2990 + n) 0xE 1
    else d.skyQueue n { kind := 0, a := a, data := bs, at_ := t }

/-! ### Writes of a function, in order and behind its fences (R189, R201) -/

/-- A fence is pending in the Bay's page. -/
def Dev.fenced (d : Dev) (n : Nat) : Bool := !(d.page n).fences.isEmpty

/-- A Skylight read is judged, and joins the accesses of its function (R197 to R200). -/
def Dev.skyRead (d : Dev) (e : Env) (n off len tag : Nat) : Dev :=
  match d.skyAt n off len false with
  | .viol k => (d.violateFn e (n + 1) k 1).hostSend (.cpl tag "UR" [])
  | .refused => (d.count (0x2990 + n) 0xE 1).hostSend (.cpl tag "UR" [])
  | .lpa a => d.skyQueue n { kind := 1, a := a, len := len, tag := tag }

/-- The lines that a held Skylight write names, or an access of `len` bytes at an offset of VF BAR2. -/
def Dev.skyLines (d : Dev) (n off len : Nat) : List Nat :=
  match d.skyLpa n off with
  | some a => (lineParts a len).map (·.1)
  | none => []

/-- A write of one of the lines that a Skylight read touches is held behind a fence (R199). -/
def Dev.skyBehind (d : Dev) (n off len : Nat) : Bool :=
  let l := d.skyLines n off len
  (d.page n).held.any fun w => w.sky && w.read.isNone && (d.skyLines n w.off w.data.length).any l.contains

/-- A write of a function to its page or its Skylights: held behind a pending fence, or applied (R189, R201). -/
def Dev.fnWrite (d : Dev) (e : Env) (n : Nat) (w : HeldWr) : Dev :=
  let p := d.page n
  let fence := !w.sky && w.off = 0x140 && w.data.length = 4
  let p' := if fence then { p with fences := p.fences ++ [(BitVec.ofNat 32 (leNat w.data), e.time)] } else p
  if !p.fences.isEmpty then d.setPage n { p' with held := p.held ++ [{ w with at_ := e.time }] }
  else if fence then d.setPage n p'
  else if w.sky then d.skyApply e n w.off w.data e.time
  else d.pageApply e (.bay (Fin.ofNat 16 n)) (n + 1) w.off w.data

/-- What was held takes effect: a write, or a read that waited for one. -/
def Dev.heldApply (d : Dev) (e : Env) (n : Nat) (w : HeldWr) : Dev :=
  match w.read with
  | some x => d.skyRead e n w.off x.1 x.2
  | none => if w.sky then d.skyApply e n w.off w.data w.at_ else d.pageApply e (.bay (Fin.ofNat 16 n)) (n + 1) w.off w.data

/-- Held writes are applied until the next fence among them. -/
def Dev.releaseHeld (d : Dev) (e : Env) (n : Nat) : List HeldWr → Dev
  | [] => d.setPage n { d.page n with held := [] }
  | w :: r =>
    if !w.sky && w.off = 0x140 && w.data.length = 4 then d.setPage n { d.page n with held := r }
    else (d.heldApply e n w).releaseHeld e n r

/-- Reads of EV_FENCE_DONE that wait for no fence are served (R202, R208). -/
def Dev.serveFenceReads (d : Dev) (n : Nat) : Dev :=
  let p := d.page n
  let now := p.reads.filter (·.2 == 0)
  now.foldl (fun d r => d.hostSend (.cpl r.1 "OK" (leBytes 4 p.fenceDone.toNat)))
    (d.setPage n { p with reads := p.reads.filter (·.2 != 0) })

/-- The oldest fence completes, once every write received before it has been applied (R201, R202). -/
def Dev.fenceDone (d : Dev) (e : Env) (n : Nat) : Dev :=
  let p := d.page n
  match p.fences with
  | [] => d
  | f :: r =>
    if p.sky.any (·.kind == 0) then d
    else
      let d := ((d.setPage n { p with fences := r, fenceDone := f.1, reads := p.reads.map fun x => (x.1, x.2 - 1) }).count (0x2990 + n) 0xD 1).maxOd
        0x2980 2 (e.time - f.2)
      (d.serveFenceReads n).releaseHeld e n p.held

/-- Fences and held writes of a function are discarded; the reads that waited for them are served (R208): at entry to `LOST`, on the entries
from `UP`, where the link still carries a completion (DESIGN CHOICE, log entry 61). -/
def Dev.dropFences (d : Dev) (e : Env) (n : Nat) : Dev :=
  let p := d.page n
  let d := (d.setPage n { p with fences := [], held := [], reads := p.reads.map fun x => (x.1, 0) }).serveFenceReads n
  (p.held.filter (·.read.isSome)).foldl (fun d w => d.heldApply e n w) d

/-! ### Host accesses -/

/-- A function can send requests: the link is up, a VF exists, and its stream is not Insecure (R85, R127, R166, R169, R177). -/
def Dev.hostHere (d : Dev) (fn : Nat) : Bool :=
  d.link.st == .up && (fn = 0 || (d.link.vfEnable && d.boot.st == .ready)) && !(d.insecure fn)

/-- A request names a VF that is not there: the link is up, and no BAR takes it (R169, R179). -/
def Dev.noFn (d : Dev) (fn : Nat) : Bool := d.link.st == .up && !(d.insecure fn) && !(d.hostHere fn)

/-- A read that no BAR takes, or that is to a page which is reserved or another function's: UR, and a violation of kind 3 (R169). -/
def Dev.readMiss (d : Dev) (e : Env) (fn tag : Nat) : Dev := (d.violateFn e fn 3 1).hostSend (.cpl tag "UR" [])

/-- FENCE_RELEASE (R201). -/
def execFenceRelease (n : Fin 16) (s : State) : Outc := s.go fun e d => d.fenceDone e n

/-- SPAR_FIRE_END (R332, R333). -/
def execSparFireEnd (sp : Fin 4096) (s : State) : Outc := s.go fun e d => d.fireEnd e sp

end Sys2Proof.Machine
end

