-- ==== Sys2Proof/Machine/HostLink.lean ====
section
/-! DEFINITION. The host link (chapter 06): link states, loss of the owner link, functions and their configuration, IDE,
AtomicOps as completer, partner violations and the completions of the device's own requests. -/
namespace Sys2Proof.Machine

def Dev.setLink (d : Dev) (l : Link) : Dev := { d with link := l }

/-! ### Loss of the owner link (R143 to R146, R166) -/

/-- A detachable Bay is parked: its hold timer starts, work that needs the host halts, vector 4 tells of it (R144, R261, R665). -/
def Dev.park (d : Dev) (e : Env) (n : Nat) : Dev :=
  let d := d.toState n .parked
  let d := d.setBay n { d.bay n with hold := some ((d.bay n).hold.getD (e.time + d.od (0x2100 + n) 0x1A * 1000000000)) }
  ((d.parkWork e n).event e n 2).raiseBay n 4

/-- A RESET of a Bay: a drain starts with target `FREE`, or a drain under way takes that target (R132, R153). -/
def Dev.resetBay (d : Dev) (e : Env) (n : Nat) : Dev :=
  if (d.bay n).st == .draining then
    (d.setBay n { d.bay n with toFree := true, toParked := false, hold := none }).scrubStart e (if (d.bay n).toFree then [] else [(d.bay n).held.hbm])
  else d.drain e n true 0 0

/-- Bay `n` loses its owner link (R143 to R146, R665). -/
def Dev.ownerLoss (d : Dev) (e : Env) (n : Nat) : Dev :=
  let b := d.bay n
  match b.st with
  | .free => d | .configuring => d | .parked => d
  | .idle => if d.detachable n then (d.event e n 1).park e n else (d.event e n 1).resetBay e n
  | .running => if d.detachable n then (d.event e n 1).park e n else (d.event e n 1).resetBay e n
  | .faulted => if d.detachable n then d else (d.event e n 1).resetBay e n
  | .draining =>
    if d.detachable n then
      if b.toFree || b.toParked then d else (d.event e n 1).setBay n { b with toParked := true }
    else (d.event e n 1).resetBay e n

/-- Every Bay whose owner is its host VF loses its owner link (R166). -/
def Dev.ownersLost (d : Dev) (e : Env) : Dev := (bays16.filter fun n => d.ownerLink n == 0).foldl (fun d n => d.ownerLoss e n) d

/-! ### Functions and requests -/

/-- The configuration space of the functions that `p` names takes its reset values: enables off, vectors masked (R166; PRESUMED, log entry
7). -/
def Dev.resetFns (d : Dev) (p : Nat → Bool) : Dev :=
  let keep (l : List Nat) : List Nat := l.filter fun f => !p f
  d.setLink { d.link with
    bme := keep d.link.bme
    ats := keep d.link.ats
    pasid := keep d.link.pasid
    ro := keep d.link.ro
    noSnoop := keep d.link.noSnoop
    msixOn := keep d.link.msixOn
    msixOpen := d.link.msixOpen.filter fun k => !p (k / 8)
    msixPend := d.link.msixPend.filter fun k => !p (k / 8)
    msixTab := d.link.msixTab.filter fun c => !p (c.1 / 32)
    cfg := d.link.cfg.filter fun c => !p (c.1 / 16) }

/-- PF0's own configuration takes its reset values (R166, R170; PRESUMED, log entry 7). -/
def Dev.resetPf (d : Dev) : Dev :=
  (d.resetFns (· == 0)).setLink { (d.resetFns (· == 0)).link with
    vfEnable := false, priEnable := false, priAlloc := 0, priFailure := false, barSize := 1, hdm := [], hdmError := [], bars := [] }

/-- Requests, Translation Requests and page request groups of the Bays that `p` names are answered too late from now on (R183, R263). -/
def Dev.staleReqs (d : Dev) (p : Nat → Bool) : Dev :=
  let d := d.setLink { d.link with reqs := d.link.reqs.map fun (r : HostReq) =>
    ({ r with stale := r.stale || (match r.bay with | some n => p n | none => true) } : HostReq) }
  d.setTrans { d.trans with
    treqs := d.trans.treqs.map fun (t : TReq) => ({ t with gone := t.gone || p t.walk.bay } : TReq)
    prgs := d.trans.prgs.map fun (g : Prg) => ({ g with gone := g.gone || p g.bay } : Prg) }

/-- The reset of a VF: its Bay's fences and requests go with it (R183, R208). -/
def Dev.resetVf (d : Dev) (e : Env) (n : Nat) : Dev := ((d.resetFns (· == n + 1)).staleReqs (· == n)).dropFences e n

/-! ### Link states (R160 to R166, R184) -/

/-- The capacities of both host-link resources follow the link at once (R184, R401). -/
def Dev.linkMoved (d : Dev) (e : Env) : Dev := (d.arbStep e 1).arbStep e 2

/-- The link enters `TRAINING`: max_width and max_speed take effect (R162). -/
def Dev.linkTrain (d : Dev) : Dev := d.setLink { d.link with st := .training, limW := d.od 0x2200 7, limR := d.od 0x2200 8 }

/-- The LTSSM may enter Detect: `PERST_N` is high, the Eave is ready, and the attach mode has a host link (R77). -/
def Dev.mayDetect (d : Dev) : Bool := d.board.perst && d.board.eaveReady && d.attachMode != 1

/-- The LTSSM enters Detect from `DARK` or `LOST`, if it may (R77, R88, R164). -/
def Dev.detect (d : Dev) : Dev :=
  if d.mayDetect && (d.link.st == .dark || d.link.st == .lost) then d.linkTrain else d

/-- The width that comes of `w` lanes under a limit (R160). -/
def trainWidth (w lim : Nat) : Nat :=
  let m := min w lim
  if 16 ≤ m then 16 else if 8 ≤ m then 8 else if 4 ≤ m then 4 else 1

/-- The rate that comes of `r` GT/s under a limit; 2 stands for 2.5 (R160, R161). -/
def trainRate (r lim : Nat) (flit : Bool) : Nat :=
  let m := min (min r lim) (if flit then 64 else 32)
  if 64 ≤ m then 64 else if 32 ≤ m then 32 else if 16 ≤ m then 16 else if 8 ≤ m then 8 else if 5 ≤ m then 5 else 2

/-- The link is `UP` at a width, rate and mode: what a lower rate or a missing CXL.cache brings takes effect, and what was held
goes out in order (R161, R163, R184, R316). -/
def Dev.linkUp (d : Dev) (e : Env) (w r : Nat) (flit cxl : Bool) : Dev :=
  let rate := trainRate r d.link.limR flit
  let full := cxl && flit && 32 ≤ rate
  let d := if bit d.link.cxl 1 && !full then d.proxyLose else d
  let held := d.link.held
  let d := d.setLink { d.link with st := .up, width := trainWidth w d.link.limW, rate := rate, flit := flit, cxl := if full then 7 else 1, held := [] }
  (held.foldl (fun d o => d.send o) d).linkMoved e

/-- The link enters `LOST` (R164, R166, R183, R208, R245, R316; PRESUMED, log entry 7). -/
def Dev.linkLost (d : Dev) (e : Env) : Dev :=
  let d := d.count 0x2200 9 1
  let d := d.ownersLost e
  let d := d.proxyLose
  let d := d.dropTlb fun x => x.ats && d.ownerLink x.bay == 0
  let d := d.staleReqs fun _ => true
  let d := bays16.foldl (fun d n => d.dropFences e n) d
  let d := (d.resetPf).resetFns fun f => f != 0 && d.ownerLink (f - 1) == 0
  let d := d.setLink { d.link with st := .lost, flit := false, cxl := 0, held := [], ide := [], ideBad := [], bme := [], ats := [], pasid := [], ro := [], noSnoop := [] }
  d.linkMoved e

/-- An event that ends the link from `TRAINING`, `UP` or `RECOVERING` (R164). -/
def Dev.linkEnd (d : Dev) (e : Env) : Dev :=
  match d.link.st with
  | .training => d.linkLost e | .up => d.linkLost e | .recovering => d.linkLost e
  | .dark => d | .lost => d

/-- A retraining: the link enters Recovery and holds its requests (R165, R184). -/
def Dev.linkRecover (d : Dev) (e : Env) : Dev :=
  if d.link.st != .up then d else
  ((d.setLink { d.link with st := .recovering }).count 0x2200 0xA 1).linkMoved e

/-- DL_UP (R160 to R164). -/
def execDlUp (width rate : Nat) (flit cxl : Bool) (s : State) : Outc :=
  s.go fun e d => if d.link.st == .training then d.linkUp e width rate flit cxl else d

/-- LINK_RECOVERY_ENTER (R184). -/
def execLinkRecoveryEnter (s : State) : Outc := s.go fun e d => d.linkRecover e

/-- LINK_RECOVERY_EXIT (R184). -/
def execLinkRecoveryExit (width rate : Nat) (flit cxl : Bool) (s : State) : Outc :=
  s.go fun e d => if d.link.st == .recovering then d.linkUp e width rate flit cxl else d

/-- LTSSM_DETECT (R77, R88, R164). -/
def execLtssmDetect (s : State) : Outc := s.go fun _ d => if d.link.st == .lost then d.detect else d

/-- PERST_N_RISE: used after boot in attach modes 00 and 10 (R55, R77, R88). -/
def execPerstNRise (s : State) : Outc :=
  s.go fun _ d =>
    if d.boot.st == .reset || d.board.perst then d
    else ({ d with board := { d.board with perst := true } } : Dev).detect

/-! ### Function resets and enables (R166, R167, R185) -/

/-- VF Enable is cleared: an owner loss, and the VFs are gone (R166). -/
def Dev.clearVfs (d : Dev) (e : Env) : Dev :=
  if !d.link.vfEnable then d else
  let d := d.ownersLost e
  let d := bays16.foldl (fun d n => d.resetVf e n) d
  d.setLink { d.link with vfEnable := false }

/-- A write to the VF Resizable BAR control (R170); a size that the device does not offer changes nothing (DESIGN CHOICE, log entry 61). -/
def Dev.setBarSize (d : Dev) (e : Env) (gib : Nat) : Dev :=
  if d.link.vfEnable then d.violateFn e 0 0xC 0
  else if gib = 1 || gib = 2 || gib = 4 || gib = 8 || gib = 16 || gib = 32 then d.setLink { d.link with barSize := gib }
  else d

/-- A host commit of HDM decoder k (R171). -/
def Dev.commitHdm (d : Dev) (k base size : Nat) : Dev :=
  if bits (d.od 0x2201 (k + 1)) 31 16 * 0x10000000 < size then
    d.setLink { d.link with hdm := smSet none d.link.hdm k none, hdmError := listIns k d.link.hdmError }
  else d.setLink { d.link with hdm := smSet none d.link.hdm k (some ⟨base, size⟩), hdmError := listDel k d.link.hdmError }

/-- VF Enable is set; it has no effect before `READY` and in `FAILED` (R79, R85). -/
def Dev.setVfs (d : Dev) : Dev := if d.boot.st == .ready then d.setLink { d.link with vfEnable := true } else d

/-- A configuration access completes: the writes deferred take effect, in order (R185). -/
def Dev.applyDeferred (d : Dev) (e : Env) : Dev :=
  d.link.deferred.foldl (fun d x => match x with
    | .vfEnable true => d.setVfs
    | .vfEnable false => d.clearVfs e
    | .barSize g => d.setBarSize e g
    | .hdm k b s => d.commitHdm k b s) (d.setLink { d.link with deferred := [] })

/-- Configuration accesses complete (R79, R85). -/
def Dev.cfgHere (d : Dev) : Bool := d.link.st == .up && (d.boot.st == .ready || d.boot.st == .failed)

/-- A configuration write is deferred (R185). -/
def Dev.mayDefer (d : Dev) : Bool := (d.link.st == .training || d.link.st == .lost) && d.boot.st == .ready

def Dev.defer (d : Dev) (x : Deferred) : Dev := d.setLink { d.link with deferred := d.link.deferred ++ [x] }

/-- The function exists (R157, R166). -/
def Dev.fnHere (d : Dev) (fn : Nat) : Bool := fn = 0 || d.link.vfEnable

/-- A configuration request to a function whose effect is `f`, and its completion: Request Retry Status before `READY` or `FAILED`, UR of a
function that is not there (R79, R85, R157, R185); an Insecure stream drops it (R177). -/
def Dev.cfgWrite (d : Dev) (e : Env) (fn tag : Nat) (f : Dev → Dev) : Dev :=
  if d.link.st != .up || d.insecure fn then d
  else if !d.cfgHere then d.hostSend (.cpl tag "RRS" [])
  else
    let d := d.applyDeferred e
    if d.fnHere fn then (f d).hostSend (.cpl tag "OK" []) else d.hostSend (.cpl tag "UR" [])

/-! ### Owner-loss events (R164, R166, R182) -/

/-- Function Level Reset of PF0 (R166, R183, R205). -/
def Dev.flrPf (d : Dev) (e : Env) (tag : Nat) : Dev :=
  d.cfgWrite e 0 tag fun d =>
    let d := d.ownersLost e
    let d := bays16.foldl (fun d n => d.resetVf e n) d
    (d.resetPf).dropShadow 0

/-- Function Level Reset of VF(n+1) (R166, R183, R205, R208). -/
def Dev.flrVf (d : Dev) (e : Env) (n tag : Nat) : Dev :=
  d.cfgWrite e (n + 1) tag fun d => ((if d.ownerLink n == 0 then d.ownerLoss e n else d).resetVf e n).dropShadow (n + 1)

/-- VF Enable is cleared by the host (R166, R185). -/
def Dev.vfEnableOff (d : Dev) (e : Env) (tag : Nat) : Dev :=
  if d.mayDefer then d.defer (.vfEnable false) else d.cfgWrite e 0 tag fun d => d.clearVfs e

/-- `PERST_N` falls: it resets the host link only (R55, R88). -/
def Dev.perstFall (d : Dev) (e : Env) : Dev :=
  let d := { d with board := { d.board with perst := false } }
  if d.attachMode = 1 then d else d.linkEnd e

/-- The owner-loss events of Table — Owner-loss events; `n`: those that concern Bay n's function. -/
def Instr.lossOf (n : Nat) : Instr → Bool
  | .hbTimeout _ => false
  | c => Instr.loses n c

/-- The effect of an owner-loss event. -/
def Dev.lossNow (d : Dev) (e : Env) : Instr → Dev
  | .dlDown => if d.link.st == .up || d.link.st == .recovering then d.linkLost e else d
  | .hotResetReceived => d.linkEnd e
  | .linkDisable => d.linkEnd e
  | .perstNFall => d.perstFall e
  | .flrPf0 tag => d.flrPf e tag
  | .flrVf n tag => d.flrVf e n tag
  | .vfEnableClear tag => d.vfEnableOff e tag
  | _ => d

/-- An owner-loss event of the tick takes effect before what Bay n's function or owner writes on it (R154, R182). -/
def Dev.leadLoss (d : Dev) (e : Env) (n : Nat) : Dev := d.lead e (Instr.lossOf n) fun d c => d.lossNow e c

/-- DL_DOWN: from `UP` or `RECOVERING` (R164, R166). -/
def execDlDown (s : State) : Outc := s.go (Dev.turn .dlDown fun e d => d.lossNow e .dlDown)

/-- HOT_RESET_RECEIVED (R164). -/
def execHotResetReceived (s : State) : Outc := s.go (Dev.turn .hotResetReceived fun e d => d.lossNow e .hotResetReceived)

/-- LINK_DISABLE (R164). -/
def execLinkDisable (s : State) : Outc := s.go (Dev.turn .linkDisable fun e d => d.lossNow e .linkDisable)

/-- PERST_N_FALL (R55, R88). -/
def execPerstNFall (s : State) : Outc := s.go (Dev.turn .perstNFall fun e d => d.lossNow e .perstNFall)

/-- FLR_PF0 (R166, R183). -/
def execFlrPf0 (s : State) (tag : Nat := 0) : Outc := s.go (Dev.turn (.flrPf0 tag) fun e d => d.lossNow e (.flrPf0 tag))

/-- FLR_VF (R166, R183, R208). -/
def execFlrVf (n : Fin 16) (s : State) (tag : Nat := 0) : Outc := s.go (Dev.turn (.flrVf n tag) fun e d => d.lossNow e (.flrVf n tag))

/-- VF_ENABLE_CLEAR (R166, R185). -/
def execVfEnableClear (s : State) (tag : Nat := 0) : Outc := s.go (Dev.turn (.vfEnableClear tag) fun e d => d.lossNow e (.vfEnableClear tag))

/-! ### Enables (R167, R170, R171) -/

/-- BUS_MASTER_ENABLE_CLEAR (R167). -/
def execBusMasterEnableClear (fn : Fin 17) (s : State) (tag : Nat := 0) : Outc :=
  s.go fun e d => d.cfgWrite e fn tag fun d => d.setLink { d.link with bme := listDel fn d.link.bme }

/-- BUS_MASTER_ENABLE_SET: what was held is issued, and halted work resumes (R167). -/
def execBusMasterEnableSet (fn : Fin 17) (s : State) (tag : Nat := 0) : Outc :=
  s.go fun e d => d.cfgWrite e fn tag fun d =>
    let d := d.setLink { d.link with bme := listIns fn d.link.bme }
    (if fn.val = 0 then d else (((d.issueHeld e (fn - 1)).resumeAll e (haltsOf (fn - 1) (· == 6))).pumpPri e)).flushVecs

/-- VF_RESIZABLE_BAR_WRITE (R170, R185). -/
def execVfResizableBarWrite (gib : Nat) (s : State) (tag : Nat := 0) : Outc :=
  s.go fun e d => if d.mayDefer then d.defer (.barSize gib) else d.cfgWrite e 0 tag fun d => d.setBarSize e gib

/-- HDM_DECODER_COMMIT: a write to the component registers of page 17, which nothing answers in `FAILED` (R85, R169, R171, R185). -/
def execHdmDecoderCommit (k : Fin 16) (base size : Nat) (s : State) : Outc :=
  s.go fun _ d => if d.mayDefer then d.defer (.hdm k base size) else if d.cfgHere && d.boot.st == .ready then d.commitHdm k base size else d

/-- PRI_STATUS_CLEAR (R79, R254). -/
def execPriStatusClear (s : State) (tag : Nat := 0) : Outc :=
  s.go fun e d => d.cfgWrite e 0 tag fun d => (d.setLink { d.link with priFailure := false }).pumpPri e

/-- A vector's Mask bit, by function and vector (R175, R176). -/
def Dev.maskVec (d : Dev) (fn v : Nat) (masked : Bool) : Dev :=
  if (if fn = 0 then v < 4 else v < 8) then
    (d.setLink { d.link with msixOpen := listPut (fn * 8 + v) (!masked) d.link.msixOpen }).flushVecs
  else d

/-- MSI-X of a function is enabled or disabled (R176). -/
def Dev.enableMsix (d : Dev) (fn : Nat) (on : Bool) : Dev :=
  (d.setLink { d.link with msixOn := listPut fn on d.link.msixOn }).flushVecs

/-! ### Configuration space (R157 to R159, R168, R180) -/

/-- The capabilities of a function; none of those that R159 leaves out is among them (Table — Supported capabilities). -/
def fnCaps (fn : Nat) : List Capability :=
  if fn = 0 then [.pciExpress, .srIov, .ari, .ats, .pri, .pasid, .acs, .aer, .doe, .device3, .ide, .vfResizableBar, .msix, .powerManagement,
    .cxlDvsec, .registerLocator]
  else [.pciExpress, .ari, .ats, .pasid, .acs, .aer, .msix, .powerManagement]

/-- A capability's ID and, for one of PCIe's extended space, its flag (PCIe 6.0, CXL 3.1; PRESUMED, log entry 59). -/
def Capability.code : Capability → Nat
  | .pciExpress => 0x10 | .msix => 0x11 | .powerManagement => 0x01 | .aer => 0x10001 | .srIov => 0x10010 | .ari => 0x1000E | .ats => 0x1000F
  | .pri => 0x10013 | .pasid => 0x1001B | .acs => 0x1000D | .doe => 0x1002E | .device3 => 0x1002F | .ide => 0x10030 | .vfResizableBar => 0x10024
  | .cxlDvsec => 0x10023 | .registerLocator => 0x810023

/-- Size in bytes of the BAR whose low half stands at register i of PF0, or of the VF BARs for i from 8 on; 0 of none (Table — BARs). -/
def Dev.barBytes (d : Dev) (i : Nat) : Nat :=
  match i with
  | 0 => 0x200000 | 4 => 0x1000000000 | 8 => 0x10000 | 10 => d.link.barSize * 0x40000000 | _ => 0

/-- The type bits of a BAR: 64-bit, and prefetchable where Table — BARs says so. -/
def barType (i : Nat) : Nat := if i = 4 || i = 10 then 0xC else 4

/-- A base address register as it reads: the base's bits above the size, the type bits in the low half; 0 of one that is not implemented
(R168). -/
def Dev.barReg (d : Dev) (i : Nat) : Nat :=
  let lo := i / 2 * 2
  let z := d.barBytes lo
  if z = 0 then 0 else
  let base := (smGet 0 d.link.bars lo + 2 ^ 32 * smGet 0 d.link.bars (lo + 1)) / z * z
  if i = lo then base % 2 ^ 32 + barType lo else base / 2 ^ 32

/-- The key of a writable field among those of its function. -/
def CfgField.slot : CfgField → Option Nat
  | .maxPayload => some 0 | .maxReadRequest => some 1 | .nonFatalReport => some 2 | .fatalReport => some 3 | .acsControl => some 4
  | .pmState => some 5 | .ecrcCheckEnable => some 6 | .ecrcGenerationEnable => some 7
  | _ => none

/-- The values that a writable field can take, and its default: those of PCIe 6.0 where R158 gives none (PRESUMED, log entry 59). -/
def CfgField.takes (v : Nat) : CfgField → Bool
  | .maxPayload => v == 128 || v == 256 || v == 512
  | .maxReadRequest => [128, 256, 512, 1024, 2048, 4096].contains v
  | .acsControl => Nat.blt v 128
  | .pmState => v == 0 || v == 3
  | _ => v ≤ 1

def CfgField.dflt : CfgField → Nat
  | .maxPayload => 128 | .maxReadRequest => 512 | _ => 0

/-- AER's uncorrectable status: a bit for each error (PCIe 6.0; PRESUMED, log entry 59). -/
def Link.aerBits (l : Link) : Nat := l.aer.foldl (fun v x => v ||| 2 ^ x.bitNo) 0

/-- The value of a configuration field of a function (R157 to R159, R168, R174, R180). -/
def Dev.cfgField (d : Dev) (fn : Nat) (f : CfgField) : Nat :=
  let l := d.link
  let pf (v : Nat) : Nat := if fn = 0 then v else 0
  match f with
  | .interruptPin => 0 | .aspmSupport => 0 | .atomicRequesterEnable => 0 | .atomicRouting => 0
  | .atomicCompleter => 7
  | .maxPayloadSupported => 512 | .tags10 => 1 | .tags14 => pf 1
  | .relaxedOrdering => b2n (l.ro.contains fn) | .noSnoop => b2n (l.noSnoop.contains fn)
  | .totalVfs => pf 16 | .initialVfs => pf 16 | .firstVfOffset => pf 1 | .vfStride => pf 1 | .vfEnable => pf (b2n l.vfEnable) | .ariNext => 0
  | .atsQueueDepth => 0 | .atsPageAligned => 1 | .atsGlobal => 1 | .atsEnable => b2n (l.ats.contains fn)
  | .priCapacity => pf 512 | .priPasidRequired => pf 1 | .priAllocation => pf l.priAlloc | .priEnable => pf (b2n l.priEnable)
  | .priFailure => pf (b2n l.priFailure)
  | .pasidWidth => 20 | .pasidExecute => 0 | .pasidPrivileged => 0 | .pasidEnable => b2n (l.pasid.contains fn)
  | .acsSupported => 0x4D | .acsEgress => 0
  | .aerStatus => l.aerBits | .aerSeverity => l.aerSeverity | .aerFirst => ((l.aerFirst.map (·.bitNo)).getD 0) | .aerHeader => leNat l.aerLog
  | .doeProtocols => pf 7 | .ideStreams => pf 4 | .ideLink => 0 | .ideTee => 0
  | .barSizes => pf 0x3F | .barSize => pf l.barSize | .msixVectors => if fn = 0 then 4 else 8 | .msixEnable => b2n (l.msixOn.contains fn)
  | .pmStates => 3 | .noSoftReset => 1 | .ecrcCheck => pf 1 | .ecrcGeneration => pf 1
  | .cxlCache => pf 1 | .cxlIo => pf 1 | .cxlMem => pf 1 | .hdmCount => pf 16 | .cacheSize => pf 0x800000
  | .bar i => pf (d.barReg i) | .vfBar i => pf (d.barReg (8 + i))
  | .maxPayload | .maxReadRequest | .nonFatalReport | .fatalReport | .acsControl | .pmState | .ecrcCheckEnable | .ecrcGenerationEnable =>
    match CfgField.slot f with | some k => smGet (CfgField.dflt f) l.cfg (fn * 16 + k) | none => 0

/-- Bytes of a field as a completion carries it. -/
def CfgField.size : CfgField → Nat
  | .aerHeader => 56 | _ => 4

/-- A write of a configuration field: the severity bits and the AER status, whose bits clear where 1 is written, a BAR, or a field that this
model keeps; every other field is read-only or has a request of its own (R158, R168, R180). -/
def Dev.cfgPut (d : Dev) (fn : Nat) (f : CfgField) (v : Nat) : Dev :=
  let l := d.link
  match f with
  | .aerSeverity => d.setLink { l with aerSeverity := v % 2 ^ 32 }
  | .aerStatus =>
    let left := l.aer.filter fun x => !bit v x.bitNo
    d.setLink { l with aer := left, aerFirst := if l.aerFirst.any (bit v ·.bitNo) then none else l.aerFirst }
  | .bar i => if fn = 0 then d.setLink { l with bars := smSet 0 l.bars i.val (v % 2 ^ 32) } else d
  | .vfBar i => if fn = 0 then d.setLink { l with bars := smSet 0 l.bars (8 + i.val) (v % 2 ^ 32) } else d
  | f => match CfgField.slot f with
    | some k => if CfgField.takes v f then d.setLink { l with cfg := smSet (CfgField.dflt f) l.cfg (fn * 16 + k) v } else d
    | none => d

/-- A configuration read's completion. -/
def Dev.cfgRead (d : Dev) (fn tag : Nat) (bs : List Byte) : Dev := d.hostSend (if d.fnHere fn then .cpl tag "OK" bs else .cpl tag "UR" [])

/-- A configuration request to a function that exists changes it and completes. -/
def Dev.cfgSet (d : Dev) (fn tag : Nat) (f : Dev → Dev) : Dev :=
  if d.fnHere fn then (f d).hostSend (.cpl tag "OK" []) else d.hostSend (.cpl tag "UR" [])

/-- The function that a configuration request names. -/
def CfgOp.fn : CfgOp → Nat
  | .readIdentity fn => fn | .readCaps fn => fn | .readField fn _ => fn | .writeField fn _ _ => fn | .atsEnable fn _ => fn | .pasidEnable fn _ => fn
  | .relaxedOrdering fn _ => fn | .noSnoop fn _ => fn | .msixEnable fn _ => fn | .msixMask fn _ _ => fn
  | .vfEnableSet => 0 | .priEnable _ => 0 | .priAllocation _ => 0

/-- What a configuration request to a function does (R157, R158, R217, R253, R314). -/
def Dev.cfgApply (d : Dev) (e : Env) (tag : Nat) : CfgOp → Dev
  | .readIdentity fn => d.cfgRead fn tag (leBytes 2 Config.pciVendorId ++ leBytes 2 (if fn.val = 0 then 0x0880 else 0x0881) ++
      leBytes 1 0x20 ++ leBytes 3 0x120000)
  | .readCaps fn => d.cfgRead fn tag (((fnCaps fn).map fun c => leBytes 4 (Capability.code c)).flatten)
  | .readField fn f => d.cfgRead fn tag (leBytes (CfgField.size f) (d.cfgField fn f))
  | .writeField fn f v => d.cfgSet fn tag fun d => d.cfgPut fn f v
  | .vfEnableSet => d.cfgSet 0 tag Dev.setVfs
  | .atsEnable fn on => d.cfgSet fn tag fun d => d.setLink { d.link with ats := listPut fn on d.link.ats }
  | .pasidEnable fn on => d.cfgSet fn tag fun d => d.setLink { d.link with pasid := listPut fn on d.link.pasid }
  | .priEnable on => d.cfgSet 0 tag fun d => d.setLink { d.link with priEnable := on }
  | .priAllocation k => d.cfgSet 0 tag fun d => (d.setLink { d.link with priAlloc := k }).pumpPri e
  | .relaxedOrdering fn on => d.cfgSet fn tag fun d => d.setLink { d.link with ro := listPut fn on d.link.ro }
  | .noSnoop fn on => d.cfgSet fn tag fun d => d.setLink { d.link with noSnoop := listPut fn on d.link.noSnoop }
  | .msixEnable fn on => d.cfgSet fn tag fun d => d.enableMsix fn on
  | .msixMask fn v on => d.cfgSet fn tag fun d => d.maskVec fn v on

/-- CONFIG_REQUEST (R79, R157, R177, R185): before `READY` or `FAILED`, Request Retry Status. -/
def execConfigRequest (tag : Nat) (op : CfgOp) (s : State) : Outc :=
  s.go fun e d =>
    if d.mayDefer && op == .vfEnableSet then d.defer (.vfEnable true)
    else if d.link.st != .up || d.insecure (CfgOp.fn op) then d
    else if !d.cfgHere then d.hostSend (.cpl tag "RRS" [])
    else (d.applyDeferred e).cfgApply e tag op

/-! ### IDE (R177) -/

/-- IDE_KM_KEY: keys of a stream are set, with its Requester ID range and its address ranges; it is Secure again. -/
def execIdeKmKey (stream : Fin 4) (vfs : List (Fin 17)) (s : State) (ranges : List (Nat × Nat) := []) : Outc :=
  s.go fun _ d =>
    if d.link.st != .up then d
    else d.setLink { d.link with
      ide := smSet none d.link.ide stream (some ⟨vfs.map (·.val), ranges.take 4⟩), ideBad := listDel stream d.link.ideBad }

/-- A stream becomes Insecure, and every Bay whose VF it covers has a fault of class JOB (R177). -/
def Dev.ideFail (d : Dev) (k : Nat) : Dev :=
  if (smGet none d.link.ide k).isNone || d.link.ideBad.contains k then d else
  (bays16.filter fun n => (d.ideFns k).contains (n + 1)).foldl (fun d n =>
    d.fault .job n { status := .integrity, source := 1, island := 326, object := k, cause := 0xA })
    (d.setLink { d.link with ideBad := listIns k d.link.ideBad })

/-- IDE_INTEGRITY_FAILURE (R177): the Requester ID of the failing TLP is in its header, whose layout is not the manual's: a
free value. -/
def execIdeIntegrityFailure (stream : Fin 4) (header : List Byte) (s : State) : Outc :=
  s.go fun e d =>
    if d.link.st != .up || (smGet none d.link.ide stream).isNone || d.link.ideBad.contains stream.val then d
    else (d.draw.2.violate e (d.draw.1 % 65536) 0xA 0 header).ideFail stream

/-! ### Completions of the device's requests (R179, R183) -/

/-- A request of the device ends with a status or its data, which its requester takes up. -/
def Dev.endReq (d : Dev) (tag : Nat) (bs : List Byte) (st : Status) : Dev :=
  match d.link.reqs.find? (·.tag == tag) with
  | none => d
  | some r =>
    d.setLink { d.link with
      reqs := d.link.reqs.filter (·.tag != tag)
      rx := if r.dead || r.stale then d.link.rx else d.link.rx ++ [(r.who, r.addr, fit r.len bs, st)] }

/-- A Translation Request ends without a completion that could be used: its requester has a translation fault of kind
`HOST_ERROR` (R179, R224). -/
def Dev.badTreq (d : Dev) (e : Env) (tag : Nat) : Dev :=
  match d.trans.treqs.find? (·.tag == tag) with
  | none => d
  | some t =>
    if t.dead || t.gone then d.setTrans { d.trans with treqs := d.trans.treqs.filter (·.tag != tag) }
    else let r := d.transDone t true 0 12 false false; r.2.walkAnswer e t.walk 0 r.1

/-- COMPLETION_RECEIVED (R179, R183). -/
def execCompletionReceived (tag : Nat) (st : CplStatus) (data : List Byte) (s : State) : Outc :=
  s.go fun e d =>
    match d.link.reqs.find? (·.tag == tag) with
    | some r =>
      if d.insecure ((r.bay.map (· + 1)).getD 0) then d
      else if r.stale then (d.endReq tag [] .ok).count 0x2200 0x15 1
      else if d.link.st != .up then d
      else if st = .success then d.endReq tag data .ok
      else (d.violateFn e ((r.bay.map (· + 1)).getD 0) 6 0).endReq tag [] .fault
    | none => match d.trans.treqs.find? (·.tag == tag) with
      | some t =>
        if d.insecure (t.walk.bay + 1) then d
        else if t.gone then (d.badTreq e tag).count 0x2200 0x15 1
        else if d.link.st != .up then d
        else (d.violateFn e (t.walk.bay + 1) (if st = .success then 8 else 6) 0).badTreq e tag
      | none => if d.link.st == .up then d.violateFn e 0 4 0 else d

/-- COMPLETION_TIMEOUT: 16 ms or more after a request, with no completion (R179). -/
def execCompletionTimeout (tag : Nat) (s : State) : Outc :=
  s.go fun e d =>
    match d.link.reqs.find? (·.tag == tag) with
    | some r =>
      if e.time < r.time + 16000000 then d
      else if r.stale then d.endReq tag [] .timeout
      else (d.violateFn e ((r.bay.map (· + 1)).getD 0) 5 0).endReq tag [] .timeout
    | none => match d.trans.treqs.find? (·.tag == tag) with
      | some t =>
        if e.time < t.time + 16000000 then d
        else
          let k := t.walk
          let d := d.setTrans { d.trans with treqs := d.trans.treqs.filter (·.tag != tag) }
          if t.gone then d
          else if t.dead then d.violateFn e (k.bay + 1) 5 0
          else (d.violateFn e (k.bay + 1) 5 0).reqErr e k.who k.bay k.dva (d.walkDir k.who k.write) 0 .timeout
      | none => d

/-! ### Partner violations (R179) -/

/-- The completion that a violation draws: 0 none, 1 UR, 2 CA. -/
def violAnswer (v : Violation) : Nat :=
  if !v.nonPosted || !v.readable then 0
  else if v.kind = 1 || v.kind = 2 || v.kind = 3 || v.kind = 7 then 1
  else if v.kind = 0xB then 2 else 0

/-- A line that the proxy cache holds is poisoned for its Bay (R179 kind 9). -/
def Dev.poisonProxy (d : Dev) (l : Nat) : Dev :=
  let x := smGet {} d.ridge.proxy l
  if x.st == .i then d
  else ({ d with ridge := { d.ridge with proxy := smSet {} d.ridge.proxy l { x with poison := true } } } : Dev).count (0x2410 + x.bay) 4 1

/-- A violation is logged and answered; what its row of Table — Partner violations adds follows. -/
def Dev.partnerViolation (d : Dev) (e : Env) (v : Violation) : Dev :=
  let a := violAnswer v
  let d := d.violate e v.rid v.kind a v.header
  let d := if a = 0 then d else d.hostSend (.cpl v.tag (if a = 1 then "UR" else "CA") [])
  match v.kind with
  | 2 => match v.fn with
    | some f => if f.val = 0 then d else d.fault .job (f - 1) { status := .integrity, source := 1, island := 326, cause := 2 }
    | none => d
  | 5 => d.endReq v.reqTag [] .timeout
  | 6 => d.endReq v.reqTag [] .fault
  | 8 => d.badTreq e v.reqTag
  | 9 =>
    let d := (v.lines.filter homed).foldl (fun d l =>
      let d := (d.store (.poison l)).count 0x2400 0xB 1
      match d.lineBay l with | some n => d.count (0x2410 + n) 4 1 | none => d) d
    v.hostLines.foldl (fun d l => d.poisonProxy l) d
  | 0xA => match v.fn with
    | some f => ((List.range 4).filter fun k => (d.ideFns k).contains f.val).foldl (fun d k => d.ideFail k) d
    | none => d
  | _ => d

/-- PARTNER_VIOLATION (R179): kinds 0x01 to 0x0C. Kind 0 stands for an error of the data link or the physical layer that replay or retraining
has repaired: it is counted and not logged (DESIGN CHOICE, log entry 62). -/
def execPartnerViolation (v : Violation) (s : State) : Outc :=
  s.go fun e d =>
    if d.link.st != .up || 0xC < v.kind then d
    else if v.kind = 0 then d.count 0x2200 0xB 1
    else d.partnerViolation e v

/-! ### AtomicOps as completer (R178) -/

/-- What a host AtomicOp comes to at a Spar: the old value, and the Spar operation (R178, R321). `op`: 0 ADD, 8 SWAP, 9 CAS. -/
def Dev.sparAtomic (d : Dev) (e : Env) (s op operand compare : Nat) : Nat × Dev :=
  let old := (d.spar s).value.toNat
  (old, match op with
    | 0 => d.sparAdd e s operand
    | 8 => d.sparSet e s operand
    | _ => if old = compare % 2 ^ 64 then d.sparSet e s operand else d)

/-- The function reaches the BAR and the offset that an AtomicOp names (R168, R169). -/
def atomicDecoded (q : AtomicReq) : Bool :=
  if q.fn.val = 0 then (q.bar == 0 && (q.off < 0x10000 || (0x110000 ≤ q.off && q.off < 0x120000))) || (q.bar == 4 && q.off < 0x1000000000)
  else (q.bar == 0 && q.off < 0x10000) || q.bar == 2

/-- An AtomicOp to a Spar value address, a 64-bit one (R178, R321, R336). -/
def Dev.atomicSpar (d : Dev) (e : Env) (q : AtomicReq) (op : Nat) : Dev :=
  let n := q.fn.val - 1
  match d.sparAt n q.off with
  | none => (d.count (0x2910 + n) 0xA 1).hostSend (.cpl q.tag "UR" [])
  | some s =>
    if (d.bay n).st == .draining || (d.bay n).st == .faulted then (d.reject e n 4 .state s q.off).hostSend (.cpl q.tag "UR" [])
    else
      let r := (d.leadAgents e s).sparAtomic e s op q.operand q.compare
      r.2.hostSend (.cpl q.tag "OK" (leBytes 8 r.1))

/-- An AtomicOp that the device answers as a violation of a kind. -/
def Dev.atomicViol (d : Dev) (e : Env) (q : AtomicReq) (k a : Nat) : Dev :=
  (d.violateFn e q.fn k a).hostSend (.cpl q.tag (if a = 1 then "UR" else "CA") [])

/-- An AtomicOp to VF BAR2: what R197 and R200 refuse; a strict Bay's; an open Bay's, of a size that AtomicOps have (R158, R178). -/
def Dev.atomicSky (d : Dev) (e : Env) (q : AtomicReq) (op : Nat) : Dev :=
  let n := q.fn.val - 1
  match d.skyAt n q.off q.size true with
  | .viol k => d.atomicViol e q k 1
  | .refused => (d.count (0x2990 + n) 0xE 1).hostSend (.cpl q.tag "UR" [])
  | .lpa a =>
    if d.strict n then (d.count 0x2200 0x14 1).hostSend (.cpl q.tag "CA" [])
    else if !(q.size = 4 || q.size = 8 || (q.size = 16 && op = 9)) then d.atomicViol e q 0xB 2
    else if d.shadowed a q.size then (d.count (0x2990 + n) 0xE 1).hostSend (.cpl q.tag "UR" [])
    else d.skyQueue n { kind := 2, a := a, len := q.size, tag := q.tag, aop := op, operand := q.operand, compare := q.compare }

/-- A host AtomicOp, by the first row of Table — AtomicOp completion that applies. `op`: 0 ADD, 8 SWAP, 9 CAS. -/
def Dev.atomicOp (d : Dev) (e : Env) (q : AtomicReq) (op : Nat) : Dev :=
  if d.noFn q.fn then d.atomicViol e q 3 1
  else if !(d.hostHere q.fn) then d
  else if d.boot.st == .failed then d.hostSend (.cpl q.tag "UR" [])
  else if !(atomicDecoded q) then d.atomicViol e q 3 1
  else if q.size = 0 || q.off % q.size != 0 then d.atomicViol e q 1 1
  else if q.bar = 0 then
    if q.fn.val = 0 || q.off < 0x4000 || 0x6000 ≤ q.off then d.hostSend (.cpl q.tag "UR" [])
    else if q.size != 8 then d.atomicViol e q 0xB 2
    else d.atomicSpar e q op
  else if q.bar = 2 then d.atomicSky e q op
  else d.hostSend (.cpl q.tag "UR" [])

/-- The Spar that a waiting AtomicOp names, and its operation (R178). -/
def Instr.atomic : Instr → Option (AtomicReq × Nat)
  | .atomicopFetchadd q => some (q, 0) | .atomicopSwap q => some (q, 8) | .atomicopCas q => some (q, 9)
  | _ => none

/-- ATOMICOP_FETCHADD (R178). -/
def execAtomicopFetchadd (q : AtomicReq) (s : State) : Outc := s.go (Dev.turn (.atomicopFetchadd q) fun e d => d.atomicOp e q 0)

/-- ATOMICOP_SWAP (R178). -/
def execAtomicopSwap (q : AtomicReq) (s : State) : Outc := s.go (Dev.turn (.atomicopSwap q) fun e d => d.atomicOp e q 8)

/-- ATOMICOP_CAS (R178). -/
def execAtomicopCas (q : AtomicReq) (s : State) : Outc := s.go (Dev.turn (.atomicopCas q) fun e d => d.atomicOp e q 9)

end Sys2Proof.Machine
end

