-- ==== Sys2Proof/Machine/Access.lean ====
section
/-! DEFINITION. What a function of the host reads and writes: its page, its Skylights and its vectors (chapters 07, 12), with the events of
its tick that a rule places first (R182, R209). -/
namespace Sys2Proof.Machine

/-! ### Reads (R169, R188, R192, R202, R204, R682) -/

/-- A read of EV_FENCE_DONE: served after every earlier fence (R202). -/
def Dev.fenceRead (d : Dev) (n tag : Nat) : Dev :=
  let p := d.page n
  (d.setPage n { p with reads := p.reads ++ [(tag, p.fences.length)] }).serveFenceReads n

/-- Offsets of BAR0 that PF0 reaches and that are neither its page nor the component registers: pages of the VFs and reserved pages, or, for a
VF, offsets beyond its page (R168, R169). -/
def beyondPage (fn off len : Nat) : Bool :=
  !(Nat.ble (off + len) 0x10000 || (fn == 0 && Nat.ble 0x110000 off && Nat.ble (off + len) 0x120000))

/-- A host read of `len` bytes at an offset of BAR0 or VF BAR0, and its completion. What the component registers of page 17 read is open but for
what R171 gives: free values (DESIGN CHOICE, log entry 2). -/
def Dev.hostRead (d : Dev) (e : Env) (fn off len tag : Nat) : Dev :=
  if d.noFn fn then d.readMiss e fn tag
  else if !(d.hostHere fn) then d
  else if beyondPage fn off len then d.readMiss e fn tag
  else if 0x10000 ≤ off then
    if d.boot.st == .failed then d.hostSend (.cpl tag "UR" [])
    else (d.drawn true len).hostSend (.cpl tag "OK" (freeBytes d.free len))
  else if fn != 0 && off = 0x148 && len = 4 then d.fenceRead (fn - 1) tag
  else
    let r := d.pageRead e fn fn off len
    match r.1 with
    | some bs => r.2.hostSend (.cpl tag "OK" bs)
    | none => r.2.hostSend (.cpl tag "UR" [])

/-- LOW_HALF_READ (R204): `off` is that of the low half and `len` is 4; the row stands for every other read of a page too, at its offset and
length (DESIGN CHOICE, log entry 62). -/
def execLowHalfRead (fn : Fin 17) (off tag : Nat) (s : State) (len : Nat := 4) : Outc := s.go fun e d => d.hostRead e fn off len tag

/-- HIGH_HALF_READ (R204): `off` is that of the high half. -/
def execHighHalfRead (fn : Fin 17) (off tag : Nat) (s : State) : Outc := s.go fun e d => d.hostRead e fn off 4 tag

/-- FENCE_DONE_READ (R202). -/
def execFenceDoneRead (n : Fin 16) (tag : Nat) (s : State) : Outc := s.go fun e d => d.hostRead e (n + 1) 0x148 4 tag

/-! ### Writes (R169, R182, R189, R209) -/

/-- A host write to the page of a function, by that function (R169, R189). -/
def Dev.pageWrite (d : Dev) (e : Env) (fn off : Nat) (bs : List Byte) : Dev :=
  if fn = 0 then d.pageApply e .pf 0 off bs else d.fnWrite e (fn - 1) { sky := false, off := off, data := bs }

/-- A host write to an offset of BAR0 or VF BAR0. An owner loss of the tick takes effect first, and the write is judged against what it leaves
(R182); a write that no page takes is dropped, and a violation of kind 3 (R169). -/
def Dev.hostPage (d : Dev) (e : Env) (fn off : Nat) (bs : List Byte) : Dev :=
  if d.noFn fn then d.violateFn e fn 3 0
  else if !(d.hostHere fn) then d
  else if beyondPage fn off bs.length then d.violateFn e fn 3 0
  else if 0x10000 ≤ off then d
  else (if fn = 0 then d else d.leadLoss e (fn - 1)).pageWrite e fn off bs

/-- A device release of an inbound slot takes effect before a post of the tick to that slot (R209). -/
def Dev.leadRelease (d : Dev) (e : Env) (n i : Nat) : Dev :=
  d.lead e (fun c => match c with | .hatchRelease k => d.coreHatch e k 1 == some (n, i) | _ => false)
    fun d c => match c with | .hatchRelease k => d.coreStep e k 9 (· == 1) true | _ => d

/-- The Spar on which a write to Bay `n`'s page operates: of its Spar window, or the one that a post pulses (R194, R326). -/
def Dev.sparOf (d : Dev) (n off : Nat) : Option Nat :=
  if 0x4000 ≤ off && off < 0xC000 then d.sparAt n off
  else if 0x1000 ≤ off && off < 0x1400 then some (d.od (0x2990 + n) 1)
  else none

/-- What a rule puts before a write to Bay `n`'s page: a release of the slot by a core (R209), device-side operations on the Spar (R323). -/
def Dev.leadPage (d : Dev) (e : Env) (n off : Nat) : Dev :=
  let d := if 0x1000 ≤ off && off < 0x1400 then d.leadRelease e n ((off - 0x1000) / 64) else d
  match d.sparOf n off with
  | some s => d.leadAgents e s
  | none => d

/-- The write of a page that a waiting or present command makes. -/
def Dev.pageNow (d : Dev) (e : Env) (c : Instr) : Dev :=
  match Instr.pageWrite c with
  | some w => if w.2.2.isEmpty then d else (if w.1 != 0 then d.leadPage e (w.1 - 1) w.2.1 else d).hostPage e w.1 w.2.1 w.2.2
  | none => d

/-- The waiting writes of a function's page up to the last one for which `p` holds of its offset and its bytes, in the order received (R189). -/
def Dev.pagesUpTo (d : Dev) (e : Env) (fn : Nat) (p : Nat → List Byte → Bool) : List Instr :=
  let is (c : Instr) : Bool := match Instr.pageWrite c with | some w => w.1 == fn && p w.2.1 w.2.2 | none => false
  ((e.tick.filter fun c => !(d.ahead.contains c) && match Instr.pageWrite c with | some w => w.1 == fn | none => false).reverse.dropWhile
    fun c => !(is c)).reverse

/-- Those writes take effect now (R189). -/
def Dev.leadPages (d : Dev) (e : Env) (fn : Nat) (p : Nat → List Byte → Bool) : Dev :=
  d.lead e (d.pagesUpTo e fn p).contains fun d c => d.pageNow e c

/-- The host's acknowledgement of an outbound slot takes effect before a fill of the tick, behind the earlier writes of the function (R209). -/
def Dev.leadAck (d : Dev) (e : Env) (n i : Nat) : Dev := d.leadPages e (n + 1) fun off bs => off == 0x1808 && bit (leNat bs) i

/-- Operations of the tick on a Spar by device-side agents and by the Eave take effect first (R323). -/
def Dev.leadEave (d : Dev) (e : Env) (s : Nat) : Dev :=
  let d := d.leadAgents e s
  match d.sparBay s with
  | none => d
  | some n =>
    (d.leadPages e (n + 1) fun off _ => d.sparOf n off == some s).lead e
      (fun c => match Instr.atomic c with
        | some x => x.1.fn.val == n + 1 && x.1.bar == 0 && 0x4000 ≤ x.1.off && x.1.off < 0x6000 && d.sparAt n x.1.off == some s
        | none => false)
      fun d c => match Instr.atomic c with | some x => d.atomicOp e x.1 x.2 | none => d

/-- A command that writes a page of a function. -/
def State.pageRow (s : State) (c : Instr) : Outc := s.go (Dev.turn c fun e d => d.pageNow e c)

/-- EV_DB_Q (R190, R343). -/
def execEvDbQ (n : Fin 16) (q : Fin 8) (v : W32) (s : State) : Outc := s.pageRow (.evDbQ n q v)

/-- EV_DB_FENCE (R201). -/
def execEvDbFence (n : Fin 16) (v : W32) (s : State) : Outc := s.pageRow (.evDbFence n v)

/-- HATCH_POST (R192 to R194, R209). -/
def execHatchPost (n : Fin 16) (slot : Fin 16) (data : List Byte) (s : State) : Outc := s.pageRow (.hatchPost n slot data)

/-- HATCH_FILL: HATCH with a = 2 (R194, R209). -/
def execHatchFill (c : Fin 256) (s : State) : Outc :=
  s.go fun e d => (match d.coreHatch e c 2 with | some x => d.leadAck e x.1 x.2 | none => d).coreStep e c 9 (· == 2) true

/-- HT_OUT_ACK (R194). -/
def execHtOutAck (n : Fin 16) (v : W32) (s : State) : Outc := s.pageRow (.htOutAck n v)

/-- SKYLIGHT_WRITE (R182, R197 to R201). -/
def execSkylightWrite (n : Fin 16) (off : Nat) (data : List Byte) (s : State) : Outc :=
  s.go fun e d =>
    if data.isEmpty then d
    else if d.noFn (n + 1) then d.violateFn e (n + 1) 3 0
    else if d.hostHere (n + 1) then (d.leadLoss e n).fnWrite e n { sky := true, off := off, data := data }
    else d

/-- SKYLIGHT_READ (R198 to R200): behind a held write of one of its lines, it waits with it. -/
def execSkylightRead (n : Fin 16) (off len tag : Nat) (s : State) : Outc :=
  s.go fun e d =>
    if len = 0 then d
    else if d.noFn (n + 1) then d.readMiss e (n + 1) tag
    else if !(d.hostHere (n + 1)) then d
    else if d.skyBehind n off len then d.setPage n { d.page n with held := (d.page n).held ++ [{ sky := true, off := off, data := [], read := some (len, tag), at_ := e.time }] }
    else d.skyRead e n off len tag

/-- MSIX_UNMASK: a vector's Mask bit is cleared by a write to the table, or, with none named, MSI-X is enabled for the function (R176). -/
def execMsixUnmask (fn : Fin 17) (vec : Option (Fin 8)) (s : State) : Outc :=
  s.go (Dev.turn (.msixUnmask fn vec) fun e d =>
    match vec with
    | some v => d.pageNow e (.msixUnmask fn (some v))
    | none => if d.hostHere fn then d.enableMsix fn true else d)

/-! ### The Spar window's rows (R326 to R333) -/

/-- SP_VALUE_WRITE (R321, R326). -/
def execSpValueWrite (n : Fin 16) (j : Fin 1024) (v : W64) (s : State) : Outc := s.pageRow (.spValueWrite n j v)

/-- SP_ADD (R321, R326). -/
def execSpAdd (n : Fin 16) (j : Fin 1024) (v : W64) (s : State) : Outc := s.pageRow (.spAdd n j v)

/-- SP_THRESH_WRITE (R333). -/
def execSpThreshWrite (n : Fin 16) (j : Fin 1024) (v : W64) (s : State) : Outc := s.pageRow (.spThreshWrite n j v)

/-- ARM: a write of SP_CTL with bit 0 set (R331, R333). -/
def execArm (n : Fin 16) (j : Fin 1024) (v : W64) (s : State) : Outc := s.pageRow (.arm n j v)

/-- DISARM: a write of SP_CTL with bit 0 clear (R331, R333). -/
def execDisarm (n : Fin 16) (j : Fin 1024) (v : W64) (s : State) : Outc := s.pageRow (.disarm n j v)

end Sys2Proof.Machine
end

