-- ==== Sys2Proof/Machine/Ports.lean ====
section
/-! DEFINITION. The Purlin ports (chapter 21): states, neighbours, violations and quarantine, the link layer with its credits,
and what a received frame comes to before it is delivered (R553 to R566, R583 to R589). -/
namespace Sys2Proof.Machine

/-- The port's entries in the dictionary. -/
def portOd (p : Nat) : Nat := 0x2A20 + p

/-! ### Port states (R554 to R556, R584 to R586) -/

/-- The link is up. -/
def PortSt.linkUp : PortSt → Bool
  | .linked => true | .inService => true | .quarantined => true
  | .off => false | .training => false

/-- The port may train (R554). -/
def Dev.portMay (d : Dev) (p : Nat) : Bool :=
  d.od (portOd p) 1 == 1 &&
  (if d.attachMode = 0 then d.boot.st == .ready else d.boot.st == .training || d.boot.st == .joining || d.boot.st == .ready)

/-- A port leaves `IN_SERVICE`: the frames queued for it are dropped (R586). -/
def Dev.unqueue (d : Dev) (p : Nat) : Dev :=
  let x := d.port p
  (d.setPort p { x with queued := [] }).count 0x2A00 9 x.queued.length

/-- The link layer as at link-up (R559, R560). -/
def Port.fresh (x : Port) : Port :=
  { x with
    txSeq := 0, rxSeq := 0, unacked := [], queued := [], credits := [], rxRoom := [], retries := 0, lastLack := 0,
    lackFrame := none, owesLack := false, lnakSent := false, lastSend := 0, paused := [], held := [] }

/-- A port enters `OFF`. -/
def Dev.portOff (d : Dev) (p : Nat) : Dev := let d := d.unqueue p; d.setPort p { (d.port p).fresh with st := .off }

/-- A port has power: in attach mode 00 its island starts as the port may first train (R76, R554, R616; DESIGN CHOICE, log entry 38). -/
def Dev.portPower (d : Dev) (p : Nat) : Dev :=
  let x := d.island (332 + p)
  if x.st == .off then d.setIsland (332 + p) { x with st := .starting } else d

/-- A port enters `TRAINING`: port_mode and ethertype take effect (R554, R592). -/
def Dev.portTrain (d : Dev) (p : Nat) : Dev :=
  let d := (d.unqueue p).portPower p
  d.setPort p { (d.port p).fresh with st := .training, mode := d.od (portOd p) 2, ethertype := d.od 0x2A00 4 }

/-- Ports that may train and stand in `OFF` do; those that may not are `OFF` (R554, R555). -/
def Dev.portsMove (d : Dev) : Dev :=
  (List.range 12).foldl (fun d p =>
    if d.portMay p then (if (d.port p).st == .off then d.portTrain p else d)
    else if (d.port p).st == .off then d else d.portOff p) d

/-- A Purlin port enters `IN_SERVICE` once this device's ID is known and a HELLO of the last 1 ms carries another assigned ID
(R556). -/
def Dev.portServe (d : Dev) (e : Env) (p : Nat) : Dev :=
  let x := d.port p
  match d.fabric.id with
  | some i =>
    if x.st == .linked && x.mode = 0 && x.nbValid && x.nbAssigned && x.nbId != i && e.time < x.lastHello + 1000000 then
      d.setPort p { x with st := .inService }
    else d
  | none => d

/-- A port leaves the link: it trains anew, if it may (R555). -/
def Dev.portLost (d : Dev) (p : Nat) : Dev := if d.portMay p then d.portTrain p else d.portOff p

/-- Packets go in and out of an Ethernet-mode port in service; until `READY` it carries PTP alone (R80, R578). -/
def Dev.etherUp (d : Dev) (p : Nat) : Bool := (d.port p).mode = 1 && (d.port p).st == .inService && d.boot.st == .ready

/-- PORT_LOCK: an Ethernet port is in service at once (R555, R556). -/
def execPortLock (p : Fin 12) (s : State) : Outc :=
  s.go fun e d =>
    let x := d.port p
    if x.st != .training then d
    else if x.mode = 0 then (d.setPort p { x with st := .linked }).portServe e p
    else d.setPort p { x with st := .inService }

/-- PORT_LINK_LOSS (R555). -/
def execPortLinkLoss (p : Fin 12) (s : State) : Outc :=
  s.go fun _ d => if (d.port p).st.linkUp then d.portLost p else d

/-! ### Violations (R583, R584) -/

/-- The header and payload of a frame as they stand on the wire (Table — Purlin header). -/
def frameBytes (f : Frame) : List Byte :=
  leBytes 1 f.version ++ leBytes 1 f.ty ++ leBytes 1 f.vc ++ leBytes 1 f.st ++ leBytes 2 f.dst ++ leBytes 2 f.src ++ leBytes 2 f.seq ++
  leBytes 1 f.hops ++ leBytes 1 (b2n f.poison + 2 * b2n f.directed + 4 * b2n f.linkLocal) ++ leBytes 2 f.key ++ leBytes 2 f.aux ++
  leBytes 4 f.tn ++ leBytes 4 f.len ++ leBytes 8 f.addr ++ f.payload

/-- A violation of kind `kind` from source `src` is counted and logged; the 64th in a window quarantines the port (R583,
R584). -/
def Dev.portViolation (d : Dev) (e : Env) (p kind src : Nat) (header : List Byte) : Dev :=
  let d := ((d.count (portOd p) 6 1).setOd (portOd p) 7 (kind % 256 + src % 4096 * 256)).violate e src (0x10 + kind) 0 header
  let x := d.port p
  let k := e.time / 1000000
  let cnt := if x.window = k then x.windowCount + 1 else 1
  let d := d.setPort p { x with window := k, windowCount := cnt }
  if cnt = 64 && x.st == .inService then
    let d := (d.unqueue p).count (portOd p) 8 1
    d.setPort p { d.port p with st := .quarantined }
  else d

/-- A frame with a violation is dropped, and a VIOL sent to its source, link-local where the source is not known; a VIOL draws
none (R583). -/
def Dev.fabViol (d : Dev) (e : Env) (p kind : Nat) (f : Frame) : Dev :=
  let v : Frame := { ty := 0x34, vc := 6, dst := f.src, tn := f.tn, payload := leBytes 1 kind ++ leBytes 1 f.ty ++ zeros 2 }
  let d := if f.ty = 0x34 then d
    else if d.fabric.id.isNone || f.linkLocal || 4095 ≤ f.src then d.portSend p { v with src := d.fabId, linkLocal := true }
    else d.originate v
  d.portViolation e p kind f.src (frameBytes f)

/-! ### The link layer (R559, R560) -/

/-- A LACK: the last sequence received in order, and the credits returned since the last one. -/
def Dev.sendLack (d : Dev) (e : Env) (p : Nat) : Dev :=
  let x := d.port p
  let back := (List.range 7).map fun v => leBytes 2 (512 - smGet 512 x.rxRoom v).toNat
  let f : Frame := { ty := 0x39, src := d.fabId, addr := (x.rxSeq - 1).toNat, payload := back.flatten }
  (d.setPort p { x with rxRoom := [], lastLack := e.time, lackFrame := some f, owesLack := false }).linkSend p f

/-- Frames that wait for credits leave, in order. -/
def Dev.portPump (d : Dev) (p : Nat) : Dev :=
  let x := d.port p
  x.queued.foldl (fun d f => d.portSend p f) (d.setPort p { x with queued := [] })

/-- Frames from a sequence number on are sent again, in order; after 32 times in a row without progress the port retrains. -/
def Dev.retransmit (d : Dev) (e : Env) (p : Nat) (seq : W16) : Dev :=
  let x := d.port p
  let fs := x.unacked.filter fun u => (u.1 - seq).toNat < 0x8000
  if fs.isEmpty then d else
  let d := (fs.foldl (fun d u => (d.send (.frame p u.2)).count (portOd p) 0x10 1) d).count (portOd p) 9 1
  if 32 ≤ x.retries + 1 then d.portLost p
  else d.setPort p { d.port p with retries := x.retries + 1, lastSend := e.time }

/-- A LACK arrives: frames up to its sequence are acknowledged, and its credits added. -/
def Dev.takeLack (d : Dev) (e : Env) (p : Nat) (f : Frame) : Dev :=
  let x := d.port p
  let left := x.unacked.filter fun u => !((BitVec.ofNat 16 f.addr - u.1).toNat < 0x8000)
  let cr := (List.range 7).foldl (fun m v => smSet 512 m v (min 512 (smGet 512 m v + (fld f.payload (2 * v) 2 : Int)))) x.credits
  (d.setPort p { x with
    unacked := left
    credits := cr
    retries := if left.length < x.unacked.length then 0 else x.retries
    lastSend := e.time }).portPump p

/-- A link frame counts where the link is up in Purlin mode. -/
def Dev.linkFrame (d : Dev) (p : Nat) (f : Dev → Dev) : Dev :=
  let x := d.port p
  if x.st.linkUp && x.mode = 0 then f (d.count (portOd p) 0xF 1) else d

/-- LACK. -/
def execLack (p : Fin 12) (f : Frame) (s : State) : Outc :=
  s.go fun e d => if f.ty = 0x39 then d.linkFrame p fun d => d.takeLack e p f else d

/-- LNAK. -/
def execLnak (p : Fin 12) (f : Frame) (s : State) : Outc :=
  s.go fun e d => if f.ty = 0x3A then d.linkFrame p fun d => d.retransmit e p (BitVec.ofNat 16 f.addr) else d

/-- LACK_SEND: every 1 µs while frames arrive. -/
def execLackSend (p : Fin 12) (s : State) : Outc :=
  s.go fun e d =>
    let x := d.port p
    if x.st.linkUp && x.owesLack && x.lastLack + 1000 ≤ e.time then d.sendLack e p else d

/-- RETRANSMIT_TIMEOUT: 20 µs without a LACK. -/
def execRetransmitTimeout (p : Fin 12) (s : State) : Outc :=
  s.go fun e d =>
    let x := d.port p
    match x.unacked with
    | [] => d
    | u :: _ => if x.st.linkUp && x.lastSend != 0 && x.lastSend + 20000 ≤ e.time then d.retransmit e p u.1 else d

/-! ### Neighbours (R556) -/

/-- HELLO_SEND: every 100 µs. -/
def execHelloSend (p : Fin 12) (s : State) : Outc :=
  s.go fun e d =>
    let x := d.port p
    if x.st.linkUp && x.mode = 0 && x.lastHelloSent + 100000 ≤ e.time then
      (d.setPort p { x with lastHelloSent := e.time }).linkSend p
        { ty := 0x38, src := d.fabId, payload := leBytes 4 (d.fabId + 4096 * b2n d.fabric.id.isSome + 65536 * p) }
    else d

/-- HELLO: the neighbour, and perhaps service; one that carries this device's own ID is counted. -/
def execHello (p : Fin 12) (id : BitVec 12) (assigned : Bool) (port : Fin 16) (s : State) : Outc :=
  s.go fun e d => d.linkFrame p fun d =>
    let d := d.setPort p { d.port p with nbId := id.toNat, nbPort := port, nbValid := true, nbAssigned := assigned, lastHello := e.time }
    if d.fabric.id = some id.toNat then d.count (portOd p) 0xA 1 else d.portServe e p

/-- HELLO_TIMEOUT: 1 ms without a HELLO. -/
def execHelloTimeout (p : Fin 12) (s : State) : Outc :=
  s.go fun e d =>
    let x := d.port p
    if x.st == .inService && x.mode = 0 && x.lastHello + 1000000 ≤ e.time then
      let d := d.unqueue p
      d.setPort p { d.port p with st := .linked }
    else d

/-! ### Received frames (R558 to R566, R585, R589) -/

/-- The virtual channel of a type (Table — Purlin message types); none for a type that the table does not give. -/
def frameVc (ty : Nat) : Option Nat :=
  if ty = 0 then none
  else if ty ≤ 7 then some 0 else if ty ≤ 10 then some 1 else if ty ≤ 16 then some 2 else if ty ≤ 18 then some 3
  else if 0x20 ≤ ty && ty ≤ 0x24 then some 4
  else if 0x28 ≤ ty && ty ≤ 0x2B then some 5
  else if 0x30 ≤ ty && ty ≤ 0x34 then some 6
  else if 0x38 ≤ ty && ty ≤ 0x3A then some 7
  else none

/-- The payload is one that the type's row gives. -/
def payloadOk (ty : Nat) (bs : List Byte) : Bool :=
  let k := bs.length
  let v := leNat (bs.take 8)
  match ty with
  | 4 => k == 64 | 5 => k == 8 | 6 => k == 72
  | 7 => k == 40 && v % 16 < 10 && v / 16 % 4 < 3 && v < 128
  | 0x11 => k == 64 | 0x12 => k == 64
  | 0x20 => 1 ≤ k && k ≤ 4096
  | 0x21 => k == 4 && 1 ≤ v && v ≤ 4096
  | 0x22 => k == 8
  | 0x23 => k == 4 && (v == 4 || v == 8)
  | 0x24 => k == 4 || k == 8 || k == 64
  | 0x29 => k ≤ 4096
  | 0x2B => k ≤ 8
  | 0x31 => k == 8
  | 0x33 => k == 2 && v < 4096
  | 0x34 => k == 4
  | 0x38 => k == 4 && v % 4096 < 4096 && v / 8192 % 8 == 0 && v < 2 ^ 20
  | 0x39 => k == 14
  | _ => k == 0

/-- The header is malformed: version, reserved bits, the channel of its type, or a payload length that does not match. -/
def frameBad (f : Frame) : Bool :=
  f.version != 1 || f.reserved != 0 || frameVc f.ty != some f.vc || f.len != f.payload.length || !(payloadOk f.ty f.payload) ||
  4096 ≤ f.dst || 4096 ≤ f.src

/-- A frame of fabric-manager traffic: ASSIGN, or a CTL of the PF page from fm_latched or on a directed path (R80, R566, R585). -/
def Dev.fmFrame (d : Dev) (f : Frame) : Bool :=
  f.ty == 0x33 || ((f.ty == 0x23 || f.ty == 0x24) && (f.directed || (f.src == d.fabric.fm && f.addr < 0x10000)))

/-- What a quarantined port carries of sequenced frames (R585). -/
def Dev.quarantineFrame (d : Dev) (f : Frame) : Bool :=
  (f.ty == 0x23 || f.ty == 0x24) && f.src == d.fabric.fm && (f.directed || f.addr < 0x10000) && !(frameBad f)

/-- The link layer takes a sequenced frame: true where it is the next in sequence (R559). -/
def Dev.takeSeq (d : Dev) (p : Nat) (f : Frame) : Bool × Dev :=
  let x := d.port p
  let seq := BitVec.ofNat 16 f.seq
  if f.vc = 7 then (true, d)
  else if seq = x.rxSeq then (true, d.setPort p { x with rxSeq := x.rxSeq + 1, owesLack := true, lnakSent := false })
  else if (seq - x.rxSeq).toNat < 0x8000 then
    if x.lnakSent then (false, d)
    else (false, (d.setPort p { x with lnakSent := true }).linkSend p { ty := 0x3A, src := d.fabId, addr := x.rxSeq.toNat })
  else match x.lackFrame with
    | some l => (false, d.linkSend p l)
    | none => (false, d)

/-- The credits a frame uses of those this port has given; false where it came without (R560). -/
def Dev.takeRoom (d : Dev) (p : Nat) (f : Frame) : Bool × Dev :=
  let x := d.port p
  let room : Int := smGet 512 x.rxRoom f.vc
  if f.vc = 7 then (true, d)
  else if room < frameCost f then (false, d)
  else (true, d.setPort p { x with rxRoom := smSet 512 x.rxRoom f.vc (room - frameCost f) })

/-- A nibble of a directed path. -/
def pathAt (a i : Nat) : Nat := a / 16 ^ i % 16

/-- A directed frame goes on: port d[i], with the port of arrival written in its place (R566). -/
def Dev.forwardDirected (d : Dev) (p : Nat) (f : Frame) : Dev :=
  let i := f.hops % 16
  let q := pathAt f.addr i
  if !((d.port q).st.linkUp && (d.port q).mode = 0) then d.count 0x2A00 9 1
  else d.portSend q { f with addr := f.addr - q * 16 ^ i + p * 16 ^ i, hops := f.hops + 1 }

/-- A frame for another device is forwarded with one hop less, or dropped where none is left (R562, R565). -/
def Dev.forward (d : Dev) (f : Frame) : Dev :=
  if f.hops ≤ 1 then d.count 0x2A00 0xA 1 else d.switch { f with hops := f.hops - 1 }

/-- A sequenced frame has arrived on a port: true where it is to be delivered here. -/
def Dev.receive (d : Dev) (e : Env) (p : Nat) (f : Frame) : Bool × Dev :=
  let x := d.port p
  if !(x.st.linkUp && x.mode = 0) || 0x38 ≤ f.ty && f.ty ≤ 0x3A then (false, d) else
  let l := (d.count (portOd p) 0xF 1).takeSeq p f
  if !l.1 then l else
  let r := l.2.takeRoom p f
  let d := r.2
  if x.st == .quarantined && !(d.quarantineFrame f) then (false, d)
  else if !r.1 then (false, d.fabViol e p 3 f)
  else if (frameVc f.ty).isNone then (false, d.fabViol e p 2 f)
  else if frameBad f then (false, d.fabViol e p 1 f)
  else if d.fabric.id.isNone && !f.directed && !f.linkLocal then (false, d.count 0x2A00 9 1)
  else if d.boot.st != .ready && !(d.fmFrame f) then (false, d)
  else if f.directed then
    if f.hops / 16 < f.hops % 16 || !(f.ty == 0x33 || f.ty == 0x23 || f.ty == 0x24 || f.ty == 0x2B) then (false, d.fabViol e p 7 f)
    else if f.hops % 16 < f.hops / 16 then (false, d.forwardDirected p f)
    else (true, d)
  else if f.linkLocal then (true, d)
  else if x.st == .linked then (false, d)
  else match d.fabric.id with
    | none => (false, d)
    | some i => if f.dst = i then (true, d) else (false, d.forward f)

/-- The path back of a directed frame (R566). -/
def revPath (c a : Nat) : Nat := (List.range c).foldl (fun v k => v + pathAt a (c - 1 - k) * 16 ^ k) 0

/-- A response leaves: directed on the port of arrival, on that port while it is quarantined, else by the switch (R566, R585). -/
def Dev.respond (d : Dev) (p : Nat) (f r : Frame) : Dev :=
  let r := { r with dst := f.src, src := d.fabId, tn := f.tn }
  if f.directed then
    let c := f.hops / 16
    d.portSend p { r with directed := true, hops := c * 16, addr := revPath c f.addr }
  else if (d.port p).st == .quarantined || f.linkLocal then d.portSend p { r with linkLocal := f.linkLocal, hops := d.od 0x2A00 5 }
  else d.originate r

end Sys2Proof.Machine
end

