-- ==== Sys2Proof/Machine/Fabric.lean ====
section
/-! DEFINITION. What frames delivered to this device do (chapter 21): Ridge messages of cell members, PUT, GET and SIGNAL, the
control aperture over the fabric, IDs, responses, heartbeats; and the placement rows of BAR4 (R557, R566 to R577, R595 to
R600). -/
namespace Sys2Proof.Machine

/-- The status that a code stands for (R11). -/
def statusOf : Nat → Status
  | 0 => .ok | 1 => .state | 2 => .range | 3 => .access | 4 => .format | 6 => .gone | 7 => .overrun | 8 => .retry | 9 => .quota
  | 10 => .timeout | 11 => .integrity | _ => .fault

/-! ### Cell traffic (R567, R568) -/

/-- The key of a line that another device homes. -/
def remoteKey (f : Frame) : Nat := awayKey (f.addr / 64)

/-- A Ridge request of a member: its agent, or for a non-caching one its slot (R567, R568). -/
def Dev.ridgeReq (d : Dev) (e : Env) (slot : Nat) (f : Frame) : Dev :=
  let l := f.addr % 2 ^ 48 / 64
  let a := 17 + slot
  let v := leNat (f.payload.take 8)
  let op (k n : Nat) : Nat := leNat ((f.payload.drop k).take n)
  match f.ty with
  | 1 => d.agentReq e a l { op := .rdShared, a := a, tn := f.tn }
  | 2 => d.agentReq e a l { op := .rdOwn, a := a, tn := f.tn }
  | 3 => d.agentReq e a l { op := .upgrade, a := a, tn := f.tn }
  | 4 => d.agentReq e a l { op := .wbDirty, a := a, tn := f.tn, data := f.payload, mask := 2 ^ 64 - 1, poison := f.poison }
  | 5 => d.memberReq e l { op := .ncRead, a := 400 + slot, tn := f.tn, mask := v }
  | 6 => d.memberReq e l { op := .ncWrite, a := 400 + slot, tn := f.tn, data := f.payload.take 64, mask := op 64 8 }
  | _ =>
    let q : HomeReq := { op := .ncAtomic, a := 400 + slot, tn := f.tn, aop := v % 16, off := f.addr % 64, size := 4 * 2 ^ (v / 16 % 4),
                         operand := if v % 16 = 9 then op 24 16 else op 8 16, compare := op 8 16, returning := bit v 6 }
    match d.atomicBad l q.aop q.off q.size q.returning with
    | some st => d.homeAnswer e l q "Cmp" st.code [] false st
    | none => d.memberReq e l q

/-- A request of this device is outstanding at a member's home under the transaction number, or its island has abandoned it (R290, R624). -/
def Dev.awaits (d : Dev) (tn : Nat) : Bool :=
  d.ridge.away.any (·.2.2.1 == tn) || (d.l2Out tn).isSome || d.ridge.abandoned.any (·.2 == tn)

/-- A Ridge message is one that a transaction here waits for; otherwise it is a violation of kind 5. -/
def Dev.ridgeExpected (d : Dev) (slot : Nat) (f : Frame) : Bool :=
  let l := f.addr % 2 ^ 48 / 64
  let here := f.addr / 2 ^ 48 = d.fabId && homed l
  match f.ty with
  | 11 => here && d.ridge.txns.any fun t => t.line == l && t.wait.contains (17 + slot)
  | 0x12 => here && d.ridge.txns.any fun t => t.line == l && t.wait.contains (17 + slot)
  | 14 => here && d.ridge.txns.any fun t => t.line == l && t.granted && t.req.op.caching && t.req.a == 17 + slot
  | 12 => (d.remoteLine (remoteKey f)).wb
  | 8 => f.addr / 2 ^ 48 = f.src | 9 => f.addr / 2 ^ 48 = f.src | 10 => f.addr / 2 ^ 48 = f.src
  | 13 => d.awaits f.tn | 15 => d.awaits f.tn | 16 => d.awaits f.tn | 0x11 => d.awaits f.tn
  | _ => here

/-- A Ridge message of a member takes effect (R567). -/
def Dev.ridgeIn (d : Dev) (e : Env) (p : Nat) (f : Frame) : Dev :=
  let l := f.addr % 2 ^ 48 / 64
  match d.slotOf f.src with
  | none => d.fabViol e p 4 f
  | some slot =>
    if !(d.ridgeExpected slot f) then d.fabViol e p 5 f else
    match f.ty with
    | 8 => d.snooped 1 16 (remoteKey f) f.tn
    | 9 => d.snooped 2 16 (remoteKey f) f.tn
    | 10 => d.snooped 3 16 (remoteKey f) f.tn
    | 11 => d.takeAnswer e l (17 + slot) f.st none
    | 0x12 => d.takeAnswer e l (17 + slot) f.st (some (f.payload, f.poison))
    | 12 => d.wbAcked (remoteKey f)
    | 13 => d.cellAnswer e f.tn (.cmp (statusOf f.st))
    | 14 => (d.dropTxn l).homePump e
    | 15 => d.setRidge { d.ridge with resends := d.ridge.resends ++ [⟨332 + p, remoteKey f, f.tn, e.time + 1000⟩] }
    | 16 => d.cellAnswer e f.tn (.cmp .gone)
    | 0x11 => d.cellAnswer e f.tn (.data (grantOf f.st) f.payload f.poison)
    | _ => d.ridgeReq e slot f

/-! ### PUT, GET and SIGNAL (R335, R569, R598, R599) -/

/-- The Bay and the slot of the valid region that holds an LPA (R598). -/
def Dev.regionOf (d : Dev) (a : Nat) : Option (Nat × Nat) :=
  (d.regions.find? fun c => c.2.st != .unregistered && c.2.base ≤ a && Nat.blt a (c.2.base + c.2.len)).map fun c => (c.1 / 16, c.1 % 16)

/-- A PUT or GET is checked, and performed or refused (R599). -/
def Dev.fabPlace (d : Dev) (e : Env) (p : Nat) (f : Frame) : Dev :=
  let a := f.addr % 2 ^ 48
  let write := f.ty == 0x20
  let len := if write then f.payload.length else leNat f.payload
  let rsp : Frame := { ty := f.ty + 8, vc := 5, dst := f.src, tn := f.tn }
  match d.regionOf a with
  | none => (d.count 0x2A80 4 1).respond p f { rsp with st := Status.access.code }
  | some (n, r) =>
    let x := d.region n r
    match d.placeBad n r (if write then fabPut else fabGet) (f.key == bits x.ctl 47 32) (a - x.base) len write with
    | some st => (d.placeRefuse n).respond p f { rsp with st := st.code }
    | none =>
      let pl : Place := { id := 0, bay := n, slot := r, lpa := 0, data := [], isl := 332 + p, reply := some { rsp with src := d.fabId } }
      if write then d.placeWrite n r (a - x.base) f.payload { pl with count := len }
      else (d.placeRead n r (a - x.base) len pl).flushPlaces e

/-- A remote ADD is performed or refused with `ACCESS` (R335). -/
def Dev.fabSignal (d : Dev) (e : Env) (p : Nat) (f : Frame) : Dev :=
  let rsp : Frame := { ty := 0x2A, vc := 5 }
  match if f.addr < 4096 then d.sparBay f.addr else none with
  | none => (d.count 0x2900 4 1).respond p f { rsp with st := Status.access.code }
  | some n =>
    let x := d.spar f.addr
    if !x.remote || x.key.toNat != f.key || !(d.bay n).st.live then (d.count (0x2910 + n) 9 1).respond p f { rsp with st := Status.access.code }
    else (d.sparAdd e f.addr (leNat f.payload)).respond p f rsp

/-! ### The control aperture (R566, R572, R573) -/

/-- Where a CTL goes: the page's function and the offset in it, or a refusal, counted for Bay n's page. A directed CTL goes to
the PF page; its offset stands in aux, since the address holds the path (DESIGN CHOICE, log entry 42). -/
inductive CtlAt where
  | page (fn off : Nat) (rt : Route) | refused (n : Option Nat)
deriving DecidableEq, Repr

def Dev.ctlAt (d : Dev) (f : Frame) : CtlAt :=
  if f.directed then .page 0 f.aux .fabPf
  else
    let k := f.addr / 0x10000
    if k = 0 then (if f.src = d.fabric.fm then .page 0 f.addr .fabPf else .refused none)
    else if k ≤ 16 then
      if d.ownerLink (k - 1) = 1 && d.od (0x2A40 + (k - 1)) 1 = f.src then .page k (f.addr % 0x10000) (.fabBay (Fin.ofNat 16 (k - 1)))
      else .refused (some (k - 1))
    else .refused none

/-- A write of the control aperture over the fabric takes effect; a fence orders only the owner's CTL writes, which have all
taken effect (R572, R574). -/
def Dev.ctlWrite (d : Dev) (e : Env) (rt : Route) (fn off : Nat) (bs : List Byte) : Dev :=
  if fn != 0 && off = 0x140 && bs.length = 4 then
    (d.setPage (fn - 1) { d.page (fn - 1) with fenceDone := BitVec.ofNat 32 (leNat bs) }).count (0x2990 + (fn - 1)) 0xD 1
  else d.pageApply e rt fn off bs

/-- A CTL frame (R566, R572, R573). -/
def Dev.fabCtl (d : Dev) (e : Env) (p : Nat) (f : Frame) : Dev :=
  let rsp : Frame := { ty := 0x2B, vc := 5 }
  if f.directed && d.fabric.fm != 0xFFFF && f.src != d.fabric.fm then d.fabViol e p 8 f else
  -- with a strapped ID the first directed CTL names the manager, where fm_id is 0xFFFF (R557)
  let d := if f.directed && d.fabric.fm = 0xFFFF && bit d.board.strapRaw.toNat 10 then
      { d with fabric := { d.fabric with fm := f.src } } else d
  match d.ctlAt f with
  | .refused n =>
    (match n with | some n => d.count (0x2A40 + n) 4 1 | none => d).respond p f { rsp with st := Status.access.code }
  | .page fn off rt =>
    if f.ty = 0x24 then (d.ctlWrite e rt fn off f.payload).respond p f rsp
    else match d.pageRead e (17 + 32 * f.src + fn) fn off (leNat f.payload) with
      | (some bs, d) => d.respond p f { rsp with payload := bs }
      | (none, d) => d.respond p f { rsp with st := Status.access.code }

/-! ### IDs (R557, R588) -/

/-- ASSIGN: the first one from an accepted manager gives this device its ID. -/
def Dev.fabAssign (d : Dev) (e : Env) (p : Nat) (f : Frame) : Dev :=
  let rsp : Frame := { ty := 0x33, vc := 6, payload := f.payload }
  if d.fabric.id.isSome then d.respond p f { rsp with st := Status.state.code }
  else if d.fabric.fmId != 0xFFFF && f.src != d.fabric.fmId then d.fabViol e p 8 f
  else
    let d := { d with fabric := { d.fabric with id := some (leNat f.payload), fm := f.src } }
    let d := d.respond p f rsp
    (List.range 12).foldl (fun d q => d.portServe e q) d

/-! ### Responses (R356, R570, R661) -/

/-- A remote request ends with its final status. -/
def Dev.remoteEnd (d : Dev) (e : Env) (r : Remote) (bs : List Byte) (st : Status) : Dev :=
  match r.who with
  | .ckpt n => if r.f.ty = 0x22 then d else d.ckptAck e n (st == .ok)
  | .cmd k p =>
    if r.f.ty = 0x22 then d.endCmd e (k / 8) (k % 8) (BitVec.ofNat 32 p) st 0 .own
    else { d with fabric := { d.fabric with acks := d.fabric.acks ++ [(r.who, r.f.addr, bs, st)] } }
  | _ => { d with fabric := { d.fabric with acks := d.fabric.acks ++ [(r.who, r.f.addr, bs, st)] } }

/-- The requests outstanding without one. -/
def Dev.dropRemote (d : Dev) (tn : Nat) : Dev :=
  { d with fabric := { d.fabric with remotes := d.fabric.remotes.filter fun r => r.tn != tn } }

/-- PUT_ACK, GET_RSP and SIG_ACK: the request ends, or is sent again 1 µs after `RETRY`; poisoned data counts as failed (R570). -/
def Dev.fabResponse (d : Dev) (e : Env) (p : Nat) (f : Frame) : Dev :=
  match d.fabric.remotes.find? fun r => r.tn == f.tn && r.f.dst == f.src && r.f.ty + 8 == f.ty with
  | none => d.fabViol e p 6 f
  | some r =>
    if r.dead then d.dropRemote r.tn
    else if f.st = Status.retry.code then
      { d with fabric := { d.fabric with remotes := d.fabric.remotes.map fun (x : Remote) => (if x.tn = r.tn then { x with retryAt := some (e.time + 1000) } else x : Remote) } }
    else (d.dropRemote r.tn).remoteEnd e r f.payload (if f.st = 0 && f.poison then .integrity else statusOf f.st)

/-- REMOTE_RESEND: 1 µs after `RETRY` (R570). -/
def execRemoteResend (tn : Nat) (s : State) : Outc :=
  s.go fun e d =>
    match d.fabric.remotes.find? fun r => r.tn == tn && !r.dead with
    | some r => match r.retryAt with
      | some t =>
        if e.time < t then d
        else ({ d with fabric := { d.fabric with remotes := d.fabric.remotes.map fun (x : Remote) => (if x.tn = tn then { x with retryAt := none } else x : Remote) } } : Dev).originate r.f
      | none => d
    | none => d

/-- REMOTE_TIMEOUT: remote_timeout after the first sending; a later response is dropped (R570). -/
def execRemoteTimeout (tn : Nat) (s : State) : Outc :=
  s.go fun e d =>
    match d.fabric.remotes.find? fun r => r.tn == tn && !r.dead with
    | some r =>
      if e.time < r.sent + d.od 0x2A00 6 * 1000 then d
      else ({ d with fabric := { d.fabric with remotes := d.fabric.remotes.map fun (x : Remote) => (if x.tn = tn then { x with dead := true, retryAt := none } else x : Remote) } } : Dev).remoteEnd e r [] .timeout
    | none => d

/-! ### Heartbeats (R575, R576) -/

/-- A Bay stands under a fabric owner whose link is judged by heartbeats: from its COMMIT on, until the link is lost. -/
def Dev.beats (d : Dev) (n : Nat) : Bool :=
  d.ownerLink n == 1 && !(d.bay n).hbLost && (d.bay n).st != .free && (d.bay n).st != .configuring

/-- The first tick on which Bay n's owner link is lost for want of heartbeats. -/
def Dev.hbEnd (d : Dev) (n : Nat) : Nat := d.od (0x2A40 + n) 3 + d.od (0x2A40 + n) 2 * 1000000

/-- HB: each Bay named whose owner is the source takes the tick, and the answer names those Bays. -/
def Dev.fabHb (d : Dev) (e : Env) (p : Nat) (f : Frame) : Dev :=
  let ok := bays16.filter fun n => bit f.aux n && d.beats n && d.od (0x2A40 + n) 1 == f.src && Nat.blt e.time (d.hbEnd n)
  (ok.foldl (fun d n => d.setOd (0x2A40 + n) 3 e.time) d).respond p f
    { ty := 0x31, vc := 6, aux := (ok.map (2 ^ ·)).sum, payload := leBytes 8 e.time }

/-- The Bay's heartbeats have stopped for hb_timeout: its owner link is lost (R575). -/
def Dev.hbStop (d : Dev) (e : Env) (n : Nat) : Dev :=
  if !(d.beats n) || e.time < d.hbEnd n then d
  else (d.setBay n { d.bay n with hbLost := true }).ownerLoss e n

/-- The command tells that Bay n's heartbeats have stopped. -/
def Instr.hbOf (n : Nat) : Instr → Bool
  | .hbTimeout m => m.val == n
  | _ => false

/-- A loss of the owner link of the tick takes effect before a write of bay_ctl (R154). -/
def Dev.leadOwner (d : Dev) (e : Env) (n : Nat) : Dev :=
  (d.leadLoss e n).lead e (Instr.hbOf n) fun d _ => d.hbStop e n

/-- HB_TIMEOUT: the Bay's owner link is lost. -/
def execHbTimeout (n : Fin 16) (s : State) : Outc := s.go (Dev.turnOf (Instr.hbOf n) fun e d => d.hbStop e n)

/-! ### Delivery -/

/-- The island of a port does not serve: requests are answered `RETRY` or `GONE`, other frames dropped and counted (R590, R615,
R620, R624). -/
def Dev.portRefuse (d : Dev) (p : Nat) (f : Frame) (st : Status) : Dev :=
  let x := d.island (332 + p)
  let cnt : Dev := d.setIsland (332 + p) (if st = .gone then { x with gone := x.gone + 1 } else { x with retry := x.retry + 1 })
  if 1 ≤ f.ty && f.ty ≤ 7 then cnt.respond p f { ty := if st = .gone then 16 else 15, vc := 2, addr := f.addr }
  else if 0x20 ≤ f.ty && f.ty ≤ 0x24 then cnt.respond p f { ty := if f.ty ≤ 0x22 then f.ty + 8 else 0x2B, vc := 5, st := st.code }
  else d.dropReply (332 + p)

/-- A frame is delivered to this device. -/
def Dev.deliver (d : Dev) (e : Env) (p : Nat) (f : Frame) : Dev :=
  match d.islAnswer (332 + p) with
  | some st => d.portRefuse p f st
  | none =>
    if f.ty ≤ 0x12 then d.ridgeIn e p f
    else match f.ty with
      | 0x20 => d.fabPlace e p f
      | 0x21 => d.fabPlace e p f
      | 0x22 => d.fabSignal e p f
      | 0x23 => d.fabCtl e p f
      | 0x24 => d.fabCtl e p f
      | 0x28 => d.fabResponse e p f
      | 0x29 => d.fabResponse e p f
      | 0x2A => d.fabResponse e p f
      | 0x2B => d.fabViol e p 6 f
      | 0x30 => d.fabHb e p f
      | 0x31 => d.fabViol e p 6 f
      | 0x33 => d.fabAssign e p f
      | _ => d

/-- A sequenced frame arrives on a port (R559 to R566). -/
def Dev.frameIn (d : Dev) (e : Env) (p : Nat) (f : Frame) : Dev :=
  match d.receive e p f with
  | (true, d) => d.deliver e p f
  | (false, d) => d

/-- A frame row whose frame is of its own type. -/
def Dev.typedFrame (d : Dev) (e : Env) (p : Nat) (f : Frame) (ty : Nat) : Dev := if f.ty = ty then d.frameIn e p f else d

/-- ASSIGN (R557, R588). -/
def execAssign (p : Fin 12) (f : Frame) (s : State) : Outc := s.go fun e d => d.typedFrame e p f 0x33

/-- Operations of the tick on a Spar by device-side agents, by the Eave and by ports below `k` take effect first (R323). -/
def Dev.leadPorts (d : Dev) (e : Env) (s k : Nat) : Dev :=
  let d := d.leadEave e s
  ((e.tick.filterMap fun c => match c with
    | .purlinSignal p f => if p.val < k && f.addr = s then some p.val else none
    | _ => none).foldr riseIns []).foldl (fun d i =>
      d.lead e (fun c => match c with | .purlinSignal p f => p.val == i && f.addr == s | _ => false)
        fun d c => match c with | .purlinSignal p f => d.typedFrame e p f 0x22 | _ => d) d

/-- WAIT_TIMEOUT (R355, R371): the operations of the tick on its Spar come before the deadline. -/
def execWaitTimeout (n : Fin 16) (q : Fin 8) (p : W32) (s : State) : Outc :=
  s.go fun e d =>
    match d.runningCmd n q p 2 with
    | some c => if c.deadline.any (· ≤ e.time) then (d.leadPorts e (c.f 8 2) 12).waitTry e n q p else d.waitTry e n q p
    | none => d

/-- SIGNAL from a peer (R323, R335). -/
def execPurlinSignal (p : Fin 12) (f : Frame) (s : State) : Outc :=
  s.go (Dev.turn (.purlinSignal p f) fun e d => (d.leadPorts e f.addr p).typedFrame e p f 0x22)

/-- CTL_RD (R572, R573). -/
def execCtlRd (p : Fin 12) (f : Frame) (s : State) : Outc := s.go fun e d => d.typedFrame e p f 0x23

/-- A CTL_WR makes a request to the dictionary server: it writes EV_OD_CMD (R107, R572). -/
def ctlOd (f : Frame) : Bool := (if f.directed then f.aux else f.addr % 0x10000) = 0xE000

/-- Requests of the tick that CTL_WRs bring through lower ports reach the server first (R572). -/
def Dev.leadCtl (d : Dev) (e : Env) (p : Nat) (f : Frame) : Dev :=
  if !(ctlOd f) then d else
  ((e.tick.filterMap fun c => match c with | .ctlWr q g => if q.val < p && ctlOd g then some q.val else none | _ => none).foldr riseIns []).foldl
    (fun d i => d.lead e (fun c => match c with | .ctlWr q g => q.val == i && ctlOd g | _ => false)
      fun d c => match c with | .ctlWr q g => d.typedFrame e q g 0x24 | _ => d) d

/-- CTL_WR (R572). -/
def execCtlWr (p : Fin 12) (f : Frame) (s : State) : Outc :=
  s.go (Dev.turnOf (fun c => match c with | .ctlWr q g => q == p && g == f | _ => false) fun e d => (d.leadCtl e p f).typedFrame e p f 0x24)

/-- PUT_ACK (R570). -/
def execPutAck (p : Fin 12) (f : Frame) (s : State) : Outc := s.go fun e d => d.typedFrame e p f 0x28

/-- GET_RSP (R570). -/
def execGetRsp (p : Fin 12) (f : Frame) (s : State) : Outc := s.go fun e d => d.typedFrame e p f 0x29

/-- SIG_ACK (R356, R570). -/
def execSigAck (p : Fin 12) (f : Frame) (s : State) : Outc := s.go fun e d => d.typedFrame e p f 0x2A

/-- CTL_RSP: this device sends no CTL request, so none is outstanding (R583, kind 6). -/
def execCtlRsp (p : Fin 12) (f : Frame) (s : State) : Outc := s.go fun e d => d.typedFrame e p f 0x2B

/-- HB (R575). -/
def execHb (p : Fin 12) (f : Frame) (s : State) : Outc := s.go fun e d => d.typedFrame e p f 0x30

/-- VIOL: consumed and acknowledged, and never answered (R583). -/
def execViol (p : Fin 12) (f : Frame) (s : State) : Outc := s.go fun e d => d.typedFrame e p f 0x34

/-- FRAME_FORWARD: a frame for another device, or not yet at the end of its path; one for this device is delivered (R562, R565,
R566). -/
def execFrameForward (p : Fin 12) (f : Frame) (s : State) : Outc := s.go fun e d => d.frameIn e p f

/-- A frame with a violation of kinds 1 to 8 is consumed at the link layer, dropped and answered (R583); in Ethernet mode, kind 9 is answered with
a NAK. -/
def Dev.fabricViolation (d : Dev) (e : Env) (p kind : Nat) (f : Frame) : Dev :=
  let x := d.port p
  if kind = 0 || !(x.st == .linked || x.st == .inService) then d
  else if kind = 9 then
    if !(d.etherUp p) then d
    else
      let d := d.draw.2.portViolation e p 9 f.src (leBytes 40 d.draw.1)
      d.roceOut p "NAK Invalid Request" 0 0 []
  else if x.mode != 0 then d
  else
    let l := (d.count (portOd p) 0xF 1).takeSeq p f
    if !l.1 then l.2 else ((l.2.takeRoom p f).2).fabViol e p kind f

/-- The command is a violation on port `p`. -/
def Instr.violatesOn (p : Nat) : Instr → Bool
  | .fabricViolation q _ _ => q.val == p
  | _ => false

/-- The violations of the tick on a port are counted before a clear of its quarantine is judged (R587). -/
def Dev.leadViolations (d : Dev) (e : Env) (p : Nat) : Dev :=
  d.lead e (Instr.violatesOn p) fun d c => match c with | .fabricViolation q k f => d.fabricViolation e q k f | _ => d

/-- FABRIC_VIOLATION (R583). -/
def execFabricViolation (p : Fin 12) (kind : Fin 10) (f : Frame) (s : State) : Outc :=
  s.go (Dev.turnOf (fun c => match c with | .fabricViolation q k g => q == p && k == kind && g == f | _ => false) fun e d => d.fabricViolation e p kind f)

/-! ### Placement through BAR4, and the end of a placement (R595, R599, R600) -/

/-- An access to aperture `ap`: check 1, with the Requester ID (R595, R599). -/
def Dev.barBad (d : Dev) (rid ap route off len : Nat) (write : Bool) : Option Status :=
  let x := d.region (ap / 16) (ap % 16)
  let want := bits x.ctl 63 48
  if x.st == .unregistered || (want != 0xFFFF && want != rid) then some .access
  else d.placeBad (ap / 16) (ap % 16) route true off len write

/-- PLACEMENT_APPLIED (R600). -/
def execPlacementApplied (n : Fin 16) (i : Nat) (s : State) : Outc :=
  s.go fun e d =>
    match d.places.find? fun p => p.id == i && p.bay == n.val && p.read.isNone with
    | some p => d.placeApply e p
    | none => d

end Sys2Proof.Machine
end

