-- ==== Sys2Proof/Machine/Ether.lean ====
section
/-! DEFINITION. Ports in Ethernet mode and the PTP timebase (chapters 21 and 22): RoCEv2 queue pairs and placement, the replies
an Ethernet port gives, priority flow control, and the boundary clock (R578 to R582, R596, R597, R601). -/
namespace Sys2Proof.Machine

/-! ### RoCEv2 (R578, R596, R597) -/

/-- The Bay and index of a local queue pair number (R596). -/
def qpOf (qpn : Nat) : Option (Nat × Nat) :=
  if 0x880000 ≤ qpn && qpn < 0x880040 then some ((qpn - 0x880000) / 4, (qpn - 0x880000) % 4) else none

/-- qp_conf of a queue pair. -/
def Dev.qpConf (d : Dev) (n i : Nat) : Nat := d.od (0x2A60 + n) (9 + 2 * i)

/-- The packet comes from the configured remote end, on the configured port (R596). -/
def Dev.qpTakes (d : Dev) (n i p : Nat) (k : RocePkt) : Bool :=
  let c := d.qpConf n i
  bit c 52 && bits c 51 48 == p && bits c 23 0 == k.srcQpn && bit c 53 == k.ipv6 && leBytes 16 (d.od (0x2A60 + n) (0xA + 2 * i)) == fit 16 k.srcAddr

/-- The PSN that a queue pair expects. -/
def Dev.qpPsn (d : Dev) (n i : Nat) : Nat := (bits (d.qpConf n i) 47 24 + (d.qp n i).psn) % 2 ^ 24

/-- A congestion notification for a packet marked CE: at most one per queue pair per 50 µs (R579). -/
def Dev.cnp (d : Dev) (e : Env) (p : Nat) (k : RocePkt) : Dev :=
  let x := d.port p
  let i := k.qpn - 0x880000
  if !k.ecnCe || e.time < smGet 0 x.cnp i then d
  else (d.setPort p { x with cnp := smSet 0 x.cnp i (e.time + 50000) }).roceOut p "CNP" k.qpn 0 []

/-- The queue pair moves on by `k` sequence numbers. -/
def Dev.qpNext (d : Dev) (n i k : Nat) (msg : Option (Nat × Nat × Nat × Nat)) : Dev :=
  let q := d.qp n i
  d.setQp n i { q with psn := q.psn + k, msg := msg, nakSent := false }

/-- A message ends with a NAK; its earlier packets stay in force, and nothing more of it is expected (R601). -/
def Dev.qpNak (d : Dev) (n i p : Nat) (k : RocePkt) (kind : String) : Dev :=
  (d.setQp n i { d.qp n i with msg := none }).roceOut p kind k.qpn k.psn []

/-- A refused RoCEv2 access (R599). -/
def Dev.qpRefuse (d : Dev) (n i p : Nat) (k : RocePkt) : Dev := (d.placeRefuse n).qpNak n i p k "NAK Remote Access Error"

/-- The slot that an R_Key names for a queue pair of Bay n, and whether the key is right: check 1 and check 3 (R597, R599). -/
def Dev.rkeySlot (d : Dev) (n rkey : Nat) : Option (Nat × Bool) :=
  let r := rkey % 16
  if bits rkey 15 8 = 0x88 && bits rkey 7 4 = n && (d.region n r).st != .unregistered then some (r, bits rkey 31 16 == bits (d.region n r).ctl 47 32)
  else none

/-- The placement of a packet of a message. -/
def rocePlace (p : Nat) (k : RocePkt) (count : Nat) : Place :=
  { id := 0, bay := 0, slot := 0, lpa := 0, data := [], isl := 332 + p, count := count, roce := some (p, k.qpn, k.psn, k.last) }

/-- A packet of an RDMA WRITE, in sequence (R599 to R601). -/
def Dev.roceWrite (d : Dev) (n i p : Nat) (k : RocePkt) : Dev :=
  if k.first then
    if (d.qp n i).msg.isSome || k.dmaLen < k.data.length || (k.last && k.data.length != k.dmaLen) then d.qpNak n i p k "NAK Invalid Request"
    else match d.rkeySlot n k.rkey with
      | none => d.qpRefuse n i p k
      | some (r, ok) => match d.placeBad n r roceWr ok k.va k.dmaLen true with
        | some _ => d.qpRefuse n i p k
        | none =>
          (d.placeWrite n r k.va k.data (rocePlace p k (if k.last then k.dmaLen else 0))).qpNext n i 1
            (if k.last then none else some (r, k.va + k.data.length, k.dmaLen - k.data.length, k.dmaLen))
  else match (d.qp n i).msg with
    | none => d.qpNak n i p k "NAK Invalid Request"
    | some (r, off, left, len) =>
      if left < k.data.length || (k.last && k.data.length != left) then d.qpNak n i p k "NAK Invalid Request"
      else match d.placeLate n r off k.data.length true with
        | some _ => d.qpRefuse n i p k
        | none =>
          (d.placeWrite n r off k.data (rocePlace p k (if k.last then len else 0))).qpNext n i 1
            (if k.last then none else some (r, off + k.data.length, left - k.data.length, len))

/-- An RDMA READ request, in sequence: it takes as many sequence numbers as its response has packets of 4,096 bytes; a queue pair
holds at most 16 of them (R578, R596). -/
def Dev.roceRead (d : Dev) (e : Env) (n i p : Nat) (k : RocePkt) : Dev :=
  if (d.qp n i).msg.isSome || 16 ≤ (d.places.filter fun x => x.read.isSome && x.bay == n && x.roce.map (·.2.1) == some k.qpn).length then
    d.qpNak n i p k "NAK Invalid Request"
  else match d.rkeySlot n k.rkey with
    | none => d.qpRefuse n i p k
    | some (r, ok) => match d.placeBad n r roceRd ok k.va k.dmaLen false with
      | some _ => d.qpRefuse n i p k
      | none => ((d.placeRead n r k.va k.dmaLen { rocePlace p k 0 with roce := some (p, k.qpn, k.psn, true) }).qpNext n i (max 1 (cdiv k.dmaLen 4096)) none).flushPlaces e

/-- A RoCEv2 request arrives: dropped for its ICRC, a violation for its headers, dropped where the queue pair does not take it,
answered for its sequence, else executed (R578, R583, R596). -/
def Dev.roceIn (d : Dev) (e : Env) (p : Nat) (k : RocePkt) (write : Bool) : Dev :=
  if !(d.etherUp p) then d else
  let d := d.count (portOd p) 0xF 1
  if !k.icrcOk then d.count (portOd p) 0x11 1
  else if !k.wellFormed || 4096 < k.data.length then
    (d.draw.2.portViolation e p 9 0xFFF (leBytes 40 d.draw.1)).roceOut p "NAK Invalid Request" k.qpn k.psn []
  else match qpOf k.qpn with
    | none => d
    | some (n, i) =>
      if !(d.qpTakes n i p k) then d.count 0x2A80 5 1
      else
        let d := d.cnp e p k
        let ahead := (k.psn + 2 ^ 24 - d.qpPsn n i) % 2 ^ 24
        if ahead = 0 then (if write then d.roceWrite n i p k else d.roceRead e n i p k)
        else if ahead < 2 ^ 23 then
          if (d.qp n i).nakSent then d
          else (d.setQp n i { d.qp n i with nakSent := true }).roceOut p "NAK PSN Sequence Error" k.qpn (d.qpPsn n i) []
        else if write then d.roceOut p "ACK" k.qpn ((d.qpPsn n i + 2 ^ 24 - 1) % 2 ^ 24) []
        else match d.rkeySlot n k.rkey with
          | none => d.qpRefuse n i p k
          | some (r, ok) => match d.placeBad n r roceRd ok k.va k.dmaLen false with
            | some _ => d.qpRefuse n i p k
            | none => (d.placeRead n r k.va k.dmaLen { rocePlace p k 0 with roce := some (p, k.qpn, k.psn, true) }).flushPlaces e

/-! ### Ethernet (R558, R579) -/

/-- The port's MAC address: 06-E8-80-00-0h-hh, or 06-E8-80-FF-FF-FF without an ID (R558). -/
def Dev.macBytes (d : Dev) : List Byte :=
  [0x06, 0xE8, 0x80] ++ (match d.fabric.id with
    | some i => [0x00, BitVec.ofNat 8 (i / 256), BitVec.ofNat 8 (i % 256)]
    | none => [0xFF, 0xFF, 0xFF])

/-- A frame received and answered by an Ethernet port, where `ok` says that it is addressed to the port; others are dropped. -/
def Dev.etherReply (d : Dev) (p : Nat) (ok : Bool) (kind : String) (dst : Nat) (data : List Byte) : Dev :=
  if !(d.etherUp p) then d else
  let d := d.count (portOd p) 0xF 1
  if ok then (d.send (.eth p kind dst data)).count (portOd p) 0x10 1 else d

/-- ipv4 and ipv6 of a port (R579); the octets of ipv6 stand in network order. -/
def Dev.ip4 (d : Dev) (p : Nat) : Nat := d.od (portOd p) 0xC
def Dev.ip6 (d : Dev) (p : Nat) : Nat := beNat (leBytes 16 (d.od (portOd p) 0xD))

/-- ARP_REQUEST (R579). -/
def execArpRequest (p : Fin 12) (ip : W32) (mac : BitVec 48) (s : State) : Outc :=
  s.go fun _ d => d.etherReply p (ip.toNat == d.ip4 p) "ARP reply" mac.toNat (d.macBytes ++ beBytes 4 ip.toNat)

/-- NEIGHBOUR_SOLICITATION (R579). -/
def execNeighbourSolicitation (p : Fin 12) (ip : BitVec 128) (mac : BitVec 48) (s : State) : Outc :=
  s.go fun _ d => d.etherReply p (ip.toNat == d.ip6 p) "Neighbour Advertisement" mac.toNat (d.macBytes ++ beBytes 16 ip.toNat)

/-- ICMP_ECHO_REQUEST (R579): `ip` is the address it was sent to. -/
def execIcmpEchoRequest (p : Fin 12) (v6 : Bool) (ip : BitVec 128) (data : List Byte) (s : State) : Outc :=
  s.go fun _ d => d.etherReply p (ip.toNat == (if v6 then d.ip6 p else d.ip4 p)) (if v6 then "ICMPv6 echo reply" else "ICMP echo reply") 0 data

/-- PFC_FRAME (R579): the priority pauses for so many quanta of 512 bit times at 800 Gb/s. -/
def execPfcFrame (p : Fin 12) (prio : Fin 8) (quanta : W16) (s : State) : Outc :=
  s.go fun e d =>
    if !(d.etherUp p) then d else
    let d := d.count (portOd p) 0xF 1
    let x := d.port p
    let rest := x.paused.filter fun c => c.1 != prio.val
    d.setPort p { x with paused := if quanta = 0 then rest else rest ++ [(prio.val, e.time + cdiv (quanta.toNat * 512) 800)] }

/-! ### PTP (R580 to R582) -/

/-- A port runs PTP (R580, R585). -/
def Dev.ptpUp (d : Dev) (p : Nat) : Bool := (d.port p).st == .inService || (d.port p).st == .quarantined

def Dev.setFabric (d : Dev) (f : Fabric) : Dev := { d with fabric := f }

/-- A received PTP message counts where the port runs PTP in the message's domain. -/
def Dev.ptpIn (d : Dev) (p : Nat) (m : PtpMsg) (f : Dev → Dev) : Dev :=
  if d.ptpUp p then
    let d := d.count (portOd p) 0xF 1
    if m.domain = d.od 0x2A00 0xB then f d else d
  else d

/-- One announced clock is better than another: priority, clock class, identity (IEEE 1588). -/
def annBetter (a b : Nat × Nat × Nat) : Bool :=
  Nat.blt a.1 b.1 || (a.1 == b.1 && (Nat.blt a.2.1 b.2.1 || (a.2.1 == b.2.1 && Nat.blt a.2.2 b.2.2)))

/-- The port with the best announced clock, the lowest among equals. -/
def Dev.bestPort (d : Dev) : Option Nat :=
  ((List.range 12).foldl (fun (b : Option (Nat × Nat × Nat × Nat)) p =>
    match (if d.ptpUp p then (d.port p).ann else none) with
    | none => b
    | some a => match b with
      | none => some (p, a)
      | some x => if annBetter a x.2 then some (p, a) else b) none).map (·.1)

/-- The best master clock algorithm chooses the port that time is taken from; as grandmaster the device takes it from none (R580,
R582). -/
def Dev.ptpSelect (d : Dev) : Dev :=
  let f := d.fabric
  if d.od 0x2A00 0xC != 0 then d.setFabric { f with ptpState := 3, ptpPort := 0xFF, ptpGood := 0, delaySent := none }
  else match d.bestPort with
    | none => d.setFabric { f with ptpState := 0, ptpPort := 0xFF, ptpGood := 0, delaySent := none }
    | some p => if f.ptpPort = p && f.ptpState != 3 then d else d.setFabric { f with ptpState := 1, ptpPort := p, ptpGood := 0, delaySent := none }

/-- SYNC: its origin time comes with the Follow_Up (R580). -/
def execSync (p : Fin 12) (m : PtpMsg) (s : State) : Outc :=
  s.go fun e d => d.ptpIn p m fun d =>
    if d.fabric.ptpPort = p.val then d.setPort p { d.port p with syncTime := some (e.time, m.seq) } else d

/-- One Sync is complete: the offset is stepped to the measurement, the rate is set within ±100 ppm by a servo that the manual
does not state, a free value; 16 Syncs in a row with an error below 100 ns lock (R581). -/
def Dev.ptpSync (d : Dev) (t2 : Nat) (t1 : Int) : Dev :=
  let f := d.fabric
  let off := t1 + f.lastDelay - t2
  let good := if (off - f.ptpOffset).natAbs < 100 then min 16 (f.ptpGood + 1) else 0
  let rate : Int := (d.draw.1 % 200001 : Nat) - 100000
  d.draw.2.setFabric { f with ptpOffset := off, ptpRate := rate, ptpGood := good, lastDelta := t2 - t1, ptpState := if good = 16 then 2 else 1 }

/-- FOLLOW_UP (R580, R581). -/
def execFollowUp (p : Fin 12) (m : PtpMsg) (s : State) : Outc :=
  s.go fun _ d => d.ptpIn p m fun d =>
    match (d.port p).syncTime with
    | some (t2, seq) =>
      if d.fabric.ptpPort != p.val || seq != m.seq then d
      else (d.setPort p { d.port p with syncTime := none }).ptpSync t2 m.time
    | none => d

/-- DELAY_REQ: answered on a port that the device serves (R580). -/
def execDelayReq (p : Fin 12) (m : PtpMsg) (s : State) : Outc :=
  s.go fun e d => d.ptpIn p m fun d =>
    if d.fabric.ptpPort = p.val then d
    else (d.send (.ptp p "Delay_Resp" { m with time := e.time + d.fabric.ptpOffset })).count (portOd p) 0x10 1

/-- DELAY_RESP: the path delay is half the round trip (R580). -/
def execDelayResp (p : Fin 12) (m : PtpMsg) (s : State) : Outc :=
  s.go fun _ d => d.ptpIn p m fun d =>
    match d.fabric.delaySent with
    | some (t3, seq) =>
      if d.fabric.ptpPort != p.val || seq != m.seq then d
      else d.setFabric { d.fabric with delaySent := none, lastDelay := (d.fabric.lastDelta + (m.time - t3)) / 2 }
    | none => d

/-- ANNOUNCE (R580). -/
def execAnnounce (p : Fin 12) (m : PtpMsg) (s : State) : Outc :=
  s.go fun e d => d.ptpIn p m fun d =>
    (d.setPort p { d.port p with ann := some (m.priority, m.clockClass, m.clockId), annTime := e.time }).ptpSelect

/-- ANNOUNCE_RECEIPT_TIMEOUT: three Announce intervals of 1 s (R580). -/
def execAnnounceReceiptTimeout (p : Fin 12) (s : State) : Outc :=
  s.go fun e d =>
    let x := d.port p
    if x.ann.isNone || e.time < x.annTime + 3000000000 then d
    else (d.setPort p { x with ann := none }).ptpSelect

/-- What the device announces: clock class 248 as grandmaster, else the clock that it follows (R580, R582). -/
def Dev.announce (d : Dev) (seq : Nat) : PtpMsg :=
  match if d.fabric.ptpState = 3 then none else (d.port d.fabric.ptpPort).ann with
  | some a => { domain := d.od 0x2A00 0xB, seq := seq, priority := a.1, clockClass := a.2.1, clockId := a.2.2 }
  | none => { domain := d.od 0x2A00 0xB, seq := seq, priority := 128, clockClass := 248, clockId := d.fabId }

/-- SYNC_INTERVAL: every 2^-3 s a Delay_Req on the port that time comes from, a Sync with its Follow_Up on the others, and there
every 1 s an Announce (R580). -/
def execSyncInterval (p : Fin 12) (s : State) : Outc :=
  s.go fun e d =>
    let x := d.port p
    if !(d.ptpUp p) || e.time < x.syncLast + 125000000 then d
    else
      let m : PtpMsg := { domain := d.od 0x2A00 0xB, seq := x.ptpSeq, clockId := d.fabId, time := e.time + d.fabric.ptpOffset }
      let d := d.setPort p { x with syncLast := e.time, ptpSeq := x.ptpSeq + 1 }
      if d.fabric.ptpPort = p.val then
        ((d.setFabric { d.fabric with delaySent := some (e.time, m.seq) }).send (.ptp p "Delay_Req" m)).count (portOd p) 0x10 1
      else
        let d := (((d.send (.ptp p "Sync" m)).send (.ptp p "Follow_Up" m))).count (portOd p) 0x10 2
        if e.time < x.annSent + 1000000000 && x.annSent != 0 then d
        else ((d.setPort p { d.port p with annSent := e.time }).send (.ptp p "Announce" (d.announce m.seq))).count (portOd p) 0x10 1

/-- PPS_IN_EDGE: the phase of the PTP seconds follows the edge (R582). -/
def execPpsInEdge (s : State) : Outc :=
  s.go fun e d =>
    if d.od 0x2A00 0xC != 1 then d
    else
      let r := (e.time + d.fabric.ptpOffset) % 1000000000
      d.setFabric { d.fabric with ptpOffset := if r < 500000000 then d.fabric.ptpOffset - r else d.fabric.ptpOffset - r + 1000000000 }

/-- PPS_OUT_PULSE: at each PTP second while ptp_state is 2 or 3 (R581). -/
def execPpsOutPulse (s : State) : Outc :=
  s.go fun e d =>
    let t : Int := e.time + d.fabric.ptpOffset
    if (d.fabric.ptpState = 2 || d.fabric.ptpState = 3) && t % 1000000000 = 0 && d.fabric.lastPps != some (t / 1000000000) then
      (d.setFabric { d.fabric with lastPps := some (t / 1000000000) }).send .pps
    else d

end Sys2Proof.Machine
end

