-- ==== Sys2Proof/Machine/Bays.lean ====
section
/-! DEFINITION. The life of a Bay (chapter 05): the checks of COMMIT, the scrub of units that leave a Bay, the end of a drain,
and the return to `FREE` (R131 to R156). -/
namespace Sys2Proof.Machine

/-! ### Ranges (R134, R138, R681) -/

/-- The ranges that a Bay's configuration entries name (R138). -/
def Dev.wantRanges (d : Dev) (n : Nat) : Ranges :=
  let r (sub : Nat) : Rng := ⟨d.od (0x2100 + n) sub, d.od (0x2100 + n) (sub + 1)⟩
  { hbm := r 6, loft := r 8, core := r 0xA, thatch := r 0xC, gpack := r 0xE, gstrict := r 0x10, course := r 0x12, spar := r 0x14 }

/-- The ranges that a written value is judged against (R681). -/
def Dev.judgeRanges (d : Dev) (n : Nat) : Ranges := if (d.bay n).st == .configuring then d.wantRanges n else (d.bay n).held

/-- The ranges of each resource, in one order. -/
def Ranges.list (r : Ranges) : List Rng := [r.hbm, r.loft, r.core, r.thatch, r.gpack, r.gstrict, r.course, r.spar]

/-- The numbering of each resource, first and one past the last, in the same order (Table — Quota units). -/
def numbering : List (Nat × Nat) := [(0, 1512), (0, 384), (0, 256), (0, 256), (0, 128), (128, 256), (0, 512), (0, 4096)]

/-- Check 1 of R134: every range lies inside its numbering. -/
def Ranges.inside (r : Ranges) : Bool := (r.list.zip numbering).all fun c => c.2.1 ≤ c.1.base && c.1.base + c.1.count ≤ c.2.2

/-- Two Bays' ranges have a unit in common. -/
def Ranges.meets (a b : Ranges) : Bool := (a.list.zip b.list).any fun c => c.1.meets c.2

/-- Check 2 of R134: a range overlaps one that another Bay holds, or will hold once its scrub has ended. -/
def Dev.rangeTaken (d : Dev) (n : Nat) (r : Ranges) : Bool :=
  bays16.any fun m => m != n && (d.bay m).st != .free && (r.meets (d.bay m).held || ((d.bay m).scrubbing && r.meets (d.bay m).next))

/-- `count` numbers from `first` lie in a range. -/
def Rng.holds (r : Rng) (first count : Nat) : Bool := r.base ≤ first && first + count ≤ r.base + r.count

/-- `len` bytes at an LPA lie in a Bay's HBM range. -/
def Ranges.hbmHolds (r : Ranges) (a len : Nat) : Bool := r.hbm.base * 0x10000000 ≤ a && a + len ≤ (r.hbm.base + r.hbm.count) * 0x10000000

/-- A Spar entry names no Spar, or one of the ranges. -/
def Ranges.sparOk (r : Ranges) (v : Nat) : Bool := v == 0xFFFF || r.spar.has v

/-- The HBM range that a Lath root table takes: its base and bytes (R247). -/
def rootBytes (v : Nat) : Nat × Nat := (bits v 47 12 * 4096, max 4096 (2 ^ (bits v 5 1 + 3)))

/-- A lath_root lies inside the ranges, where it is valid. -/
def Ranges.rootOk (r : Ranges) (v : Nat) : Bool := !bit v 0 || r.hbmHolds (rootBytes v).1 (rootBytes v).2

/-- A sky_map lies inside the ranges, where it is valid (R196). -/
def Ranges.skyOk (r : Ranges) (v : Nat) : Bool := !bit v 32 || r.hbm.holds (bits v 15 0) (bits v 23 16)

/-- A share_grant lies inside the ranges, where it is valid (R148). -/
def Ranges.grantOk (r : Ranges) (v : Nat) : Bool := !bit v 37 || r.hbm.holds (bits v 15 0) (bits v 31 16)

/-- flash_base and flash_count lie inside the core range; flash_base stands at core_base while nothing is written (R445). -/
def Dev.flashOk (d : Dev) (n : Nat) (r : Ranges) : Bool :=
  let b := d.od (0x2810 + n) 2
  let c := d.od (0x2810 + n) 3
  if 0x10000 ≤ b then c ≤ r.core.count else r.core.has b && r.core.holds b c

/-- A selector that has been written names a unit inside the ranges; one that stands at its default follows them (R395, R424, R509). -/
def Dev.selectorsOk (d : Dev) (n : Nat) (r : Ranges) : Bool :=
  let ok (idx : Nat) (f : Nat → Bool) : Bool := 0x10000 ≤ d.od (idx + n) 1 || f (d.od (idx + n) 1)
  ok 0x2510 (fun v => r.gpack.has v || r.gstrict.has v) && ok 0x2610 r.course.has && ok 0x2710 r.thatch.has &&
  (d.od (0x2910 + n) 2 == 0 || Nat.blt (d.od (0x2910 + n) 2) r.spar.count)

/-- Check 4 of R134: every value that names a resource names one inside the ranges (R681). -/
def Dev.valuesInside (d : Dev) (n : Nat) (r : Ranges) : Bool :=
  r.sparOk (d.od (0x2990 + n) 1) && r.sparOk (d.od (0x2C10 + n) 9) && d.flashOk n r && d.selectorsOk n r &&
  (List.range 8).all (fun i => r.skyOk (d.od (0x2990 + n) (2 + i)) && r.grantOk (d.od (0x2100 + n) (0x20 + i))) &&
  (List.range 4).all (fun i => r.rootOk (d.od (0x2310 + n) (1 + i))) &&
  (let m := d.od 0x2201 (n + 1); bits m 31 16 == 0 || r.hbm.holds (bits m 15 0) (bits m 31 16)) &&
  (List.range 16).all (fun i =>
    let x := d.region n i
    r.sparOk x.spar && (!bit x.ctl 16 || x.st == .unregistered || r.hbmHolds x.base x.len))

/-- The checks of R134, in order: the status of the first that fails. -/
def Dev.commitBad (d : Dev) (n : Nat) : Option Status :=
  let r := d.wantRanges n
  if !r.inside then some .range
  else if d.rangeTaken n r then some .quota
  else if r.thatch.count != 0 && r.core.count = 0 then some .quota
  else if !(d.valuesInside n r) then some .range
  else none

/-! ### Scrub (R135 to R137) -/

/-- The numbers of `a` that are not in `b`. -/
def Rng.minus (a b : Rng) : List Rng :=
  let lo := max a.base (b.base + b.count)
  [⟨a.base, min a.count (b.base - a.base)⟩, ⟨lo, a.base + a.count - lo⟩].filter fun r : Rng => r.count != 0

/-- A number lies in one of some ranges. -/
def rngsHave (l : List Rng) (x : Nat) : Bool := l.any (·.has x)

/-- The units of `a` that are not in `b` go to their reset state (R136): memory is zero, no L2, directory or translation entry
covers it, cores, Spars, channels and Courses are as at reset, arrays are UNSHADOWED. -/
def Dev.scrubUnits (d : Dev) (n : Nat) (a b : Ranges) : Dev :=
  let hbm := a.hbm.minus b.hbm
  let core := a.core.minus b.core
  let arr := a.thatch.minus b.thatch
  let gut := a.gpack.minus b.gpack ++ a.gstrict.minus b.gstrict
  let crs := a.course.minus b.course
  let spr := a.spar.minus b.spar
  let inH (l : Nat) : Bool := rngsHave hbm (granule (l * 64))
  let d := hbm.foldl (fun d r =>
    let lo := r.base * 0x10000000
    let hi := (r.base + r.count) * 0x10000000
    (d.store (.zero lo hi)).store (.zero (sumAddr (lo / 64)) (sumAddr (hi / 64)))) d
  let d := (a.loft.minus b.loft).foldl (fun d r =>
    d.store (.zero (0x10000000000 + r.base * 0x100000) (0x10000000000 + (r.base + r.count) * 0x100000))) d
  let d := core.foldl (fun d r =>
    d.store (.zero (0x11000000000 + r.base * 0x80000) (0x11000000000 + (r.base + r.count) * 0x80000))) d
  let d := (d.dropTlb (·.bay == n)).setRidge { d.ridge with
    dir := d.ridge.dir.filter fun c => !inH c.1
    l2 := d.ridge.l2.filter fun c => !inH (c.1 % 2 ^ 60)
    txns := d.ridge.txns.filter fun t => !inH t.line
    waiting := d.ridge.waiting.filter fun c => !inH c.1 }
  { d with
    trans := { d.trans with wcache := d.trans.wcache.filter fun x => x.bay != n }
    cores := d.cores.filter fun c => !(rngsHave core c.1)
    arrays := d.arrays.filter fun c => !(rngsHave arr c.1)
    gutters := d.gutters.filter fun c => !(rngsHave gut c.1)
    courses := d.courses.filter fun c => !(rngsHave crs c.1)
    spars := d.spars.filter fun c => !(rngsHave spr c.1) }

/-- The lines of some granules have no transaction open at a home that still waits for a snoop, or for its turn: those of their scrub have
ended too, each with every answer, or its timeout (R295). -/
def Dev.homesQuiet (d : Dev) (rs : List Rng) : Bool :=
  let own (l : Nat) : Bool := rngsHave rs (granule (l * 64))
  !(d.ridge.txns.any fun t => own t.line && !t.granted) && !(d.ridge.waiting.any fun c => own c.1)

/-- A seat or a trim of an array of the Bay is under way (R142, R503). -/
def Dev.seating (d : Dev) (n : Nat) : Bool :=
  d.arrays.any fun c => (d.bay n).held.thatch.has c.1 && (c.2.st == .seating || c.2.pairs.any fun p => p.2.trimming)

/-! ### COMMIT (R134, R135, R518, R575, R616, R660) -/

/-- A COMMIT grants its resources: the Bay is `IDLE`; gated cores and their L2s wake (R616, R618), heartbeats count from now
(R575), and a strict Bay takes the audit interval and the checkpoint setting that its mode asks for (R518, R660). -/
def Dev.commitDone (d : Dev) (e : Env) (n : Nat) : Dev :=
  let r := d.wantRanges n
  let d := (d.setBay n { d.bay n with held := r, next := {}, scrubbing := false, commitRt := none, hbLost := false }).toState n .idle
  let d := if d.ownerLink n = 1 then d.setOd (0x2A40 + n) 3 e.time else d
  let d := if d.strict n then
      (if d.od (0x2730 + n) 1 = 0 then d.setOd (0x2730 + n) 1 4096 else d).setOd (0x2D20 + n) 1 0
    else d
  ((coreIslands r.core).foldl (fun d i => d.wakeIsland e i) d).markGates e (coreIslands r.core)

/-- Units that the Bay holds and no longer names. -/
def Dev.dropsUnits (d : Dev) (n : Nat) : Bool :=
  (((d.bay n).held.list.zip (d.wantRanges n).list).any fun c => !(c.1.minus c.2).isEmpty)

/-- A COMMIT that has passed its checks: done, or waiting for the scrub of what the Bay drops (R134, R135). -/
def Dev.commitBay (d : Dev) (e : Env) (n : Nat) (rt : Route) : Dev :=
  if d.dropsUnits n then
    (d.setBay n { d.bay n with scrubbing := true, next := d.wantRanges n, commitRt := some rt }).scrubStart e
      ((d.bay n).held.hbm.minus (d.wantRanges n).hbm)
  else d.commitDone e n

/-- COMMIT_SCRUB_END (R135): the Bay enters `IDLE`, and the COMMIT's response follows. -/
def execCommitScrubEnd (n : Fin 16) (s : State) : Outc :=
  s.go fun e d =>
    let b := d.bay n
    if !(b.st == .configuring && b.scrubbing && d.homesQuiet (b.held.hbm.minus b.next.hbm)) then d else
    let d := ((d.scrubUnits n b.held b.next).commitDone e n).markGates e (coreIslands b.held.core)
    match b.commitRt with
    | some rt => d.odAnswer rt .ok 0 []
    | none => d

/-! ### The return to `FREE` (R97, R136, R156) -/

/-- The families of entries that belong to a Bay (R677). -/
def bayFamilies : List Nat :=
  [0x2100, 0x2310, 0x2330, 0x2410, 0x2420, 0x2510, 0x2610, 0x2680, 0x2710, 0x2730, 0x2810, 0x2910, 0x2990, 0x2A40, 0x2A60, 0x2C10,
   0x2D10, 0x2D20]

/-- The families whose every entry, counters too, returns to its default as the Bay enters `FREE` (R156, R244, R366, R550). -/
def bayWhole : List Nat := [0x2100, 0x2310, 0x2680, 0x2C10]

/-- The entry is writable, and so has a persistence class (R94, R96). -/
def writable (idx sub : Nat) : Bool :=
  match entryOf idx sub with
  | some t => t.acc == Acc.rw || t.acc == Acc.rwIdle || t.acc == Acc.wo
  | none => false

/-- The entry returns to its default when Bay `n` enters `FREE`. -/
def freesEntry (n idx sub : Nat) : Bool :=
  (n ≤ idx && (bayWhole.contains (idx - n) || (bayFamilies.contains (idx - n) && writable idx sub))) || (idx == 0x2201 && sub == n + 1)

/-- A Bay enters `FREE`: every unit it held is in its reset state, and every object and entry of its own at its default. A pending fence of its
function and what it holds stay, for R208 alone ends them otherwise (R201, R202). -/
def Dev.freeBay (d : Dev) (n : Nat) : Dev :=
  let d := (d.scrubUnits n (d.bay n).held {}).store (.zero (0x13000000000 + 2048 * n) (0x13000000000 + 2048 * (n + 1)))
  let d := { d with
    srv := { d.srv with od := d.srv.od.filter fun c => !(freesEntry n (c.1 / 256) (c.1 % 256)) }
    pages := smSet {} d.pages n { fences := (d.page n).fences, held := (d.page n).held, sky := (d.page n).sky, reads := (d.page n).reads }
    queues := d.queues.filter fun c => c.1 / 8 != n
    journals := smDel d.journals n
    jtick := {}
    regions := d.regions.filter fun c => c.1 / 16 != n
    qps := d.qps.filter fun c => c.1 / 4 != n
    trans := { d.trans with windows := smDel d.trans.windows n }
    link := { d.link with
      hdm := smDel d.link.hdm n
      hdmError := listDel n d.link.hdmError
      heldRecs := d.link.heldRecs.filter (·.bay != n)
      msixPend := d.link.msixPend.filter fun k => k / 8 != n + 1 } }
  (d.setBay n {}).toState n .free

/-! ### Drains (R133, R137, R141, R144, R146, R549) -/

/-- Held records that no sink write can take any more are discarded and counted (R549). -/
def Dev.loseHeld (d : Dev) (n : Nat) : Dev :=
  let j := d.jour n
  if j.heldRecs.isEmpty then d
  else (d.fixRecs.setJour n { j with heldRecs := [] }).count (0x2C10 + n) 8 j.heldRecs.length

/-- The sink cannot be written: it has faulted, is not valid, or the host is out of reach (R549, R551). -/
def Dev.sinkDead (d : Dev) (n : Nat) : Bool := (d.jour n).faulted || !(d.sinkValid n) || d.hostGate n != .open_

/-- A drain may end: a tick has passed, seats and trims have ended, the proxy has evicted the Bay's lines, the homes of its lines
are quiet, and its held records are written or lost (R137, R142, R317, R503, R549). -/
def Dev.drained (d : Dev) (e : Env) (n : Nat) : Bool :=
  Nat.blt (d.bay n).drainAt e.time && !(d.seating n) && !(d.ridge.proxy.any fun c => c.2.bay == n) && d.homesQuiet [(d.bay n).held.hbm] &&
  ((d.jour n).heldRecs.isEmpty || d.sinkDead n)

/-- A drain ends, where it may (R137, R141, R144, R146). -/
def Dev.drainEnd (d : Dev) (e : Env) (n : Nat) : Dev :=
  let b := d.bay n
  if !(b.st == .draining && d.drained e n) then d else
  let d := d.loseHeld n
  if b.toFree then (d.freeBay n).markGates e (coreIslands b.held.core)
  else if b.toParked then ((d.setBay n { d.bay n with toParked := false }).park e n).flushVecs
  else (d.toState n .idle).flushVecs

/-- DRAIN_END (R137, R141, R144, R146). -/
def execDrainEnd (n : Fin 16) (s : State) : Outc := s.go (Dev.turn (.drainEnd n) fun e d => d.drainEnd e n)

/-- Nothing of the Bay is outstanding: no job, no command, no operation (R141). -/
def Dev.bayQuiet (d : Dev) (n : Nat) : Bool :=
  !(d.jobOpen n) && (d.jour n).st == .none &&
  (List.range 8).all (fun q => (d.queue n q).cmds.isEmpty && (d.queue n q).p == (d.queue n q).fe) &&
  !(d.gutters.any fun c => c.2.bay == n && (c.2.st == .running || c.2.st == .halted)) &&
  !(d.courses.any fun c => c.2.bay == n && c.2.st != .idle) &&
  !(d.chains.any (·.bay == n)) && !(d.runs.any (·.bay == n)) && !(d.tasks.any (·.bay == n)) &&
  !(d.engines.any fun c => (c.2.queue ++ c.2.suspended ++ c.2.run.toList).any (·.bay == n)) && !(d.seating n)

/-- A running Bay with nothing outstanding is `IDLE` (R141). -/
def Dev.becomeIdle (d : Dev) (n : Nat) : Dev := if (d.bay n).st == .running && d.bayQuiet n then d.toState n .idle else d

/-- BAY_BECOMES_IDLE (R141). -/
def execBayBecomesIdle (n : Fin 16) (s : State) : Outc := s.go (Dev.turn (.bayBecomesIdle n) fun _ d => d.becomeIdle n)

/-- The hold time of a Bay runs out: a RESET starts (R9, R144, R153, R665). -/
def Dev.holdEnd (d : Dev) (e : Env) (n : Nat) : Dev :=
  let b := d.bay n
  match b.hold with
  | none => d
  | some t =>
    if e.time < t || !(b.st == .parked || (b.st == .draining && !b.toFree)) then d
    else (d.event e n 5).resetBay e n

/-- HOLD_TIME_EXPIRE (R9, R144, R153, R665). -/
def execHoldTimeExpire (n : Fin 16) (s : State) : Outc := s.go (Dev.turn (.holdTimeExpire n) fun e d => d.holdEnd e n)

/-- Changes of a Bay's state on this tick take effect first: an owner loss, the end of a drain or of the hold time, the last of its work
(R391, R671). -/
def Dev.leadBay (d : Dev) (e : Env) (n : Nat) : Dev :=
  (d.leadOwner e n).lead e
    (fun c => match c with | .drainEnd k => k.val == n | .holdTimeExpire k => k.val == n | .bayBecomesIdle k => k.val == n | _ => false)
    fun d c => match c with | .drainEnd _ => d.drainEnd e n | .holdTimeExpire _ => d.holdEnd e n | _ => d.becomeIdle n

/-! ### bay_ctl (R132, R133, R153) -/

/-- The status that refuses a bay_ctl action, if one does (Table — Bay actions, R134, R135). -/
def Dev.bayCtlBad (d : Dev) (n v : Nat) : Option Status :=
  let b := d.bay n
  let when (ok : Bool) : Option Status := if ok && !b.scrubbing then none else some .state
  match v with
  | 1 => when (b.st == .free)
  | 2 => if b.st == .configuring && !b.scrubbing then d.commitBad n else some .state
  | 3 => when (b.st == .idle)
  | 4 => when (b.st == .running || b.st == .parked)
  | 5 => when (b.st == .idle || b.st == .faulted)
  | 6 => if b.st == .free || (b.st == .draining && b.toFree) then some .state else none
  | _ => some .range

/-- A bay_ctl action that has passed its checks. A COMMIT that waits for its scrub when a RESET comes is answered with `STATE`
(DESIGN CHOICE, log entry 33). -/
def Dev.bayCtl (d : Dev) (e : Env) (n v : Nat) (rt : Route) : Dev :=
  match v with
  | 1 => ((List.range 0x18).foldl (fun d i => d.setOd (0x2100 + n) (3 + i) (odDefault (0x2100 + n) (3 + i))) d).toState n .configuring
  | 2 => d.commitBay e n rt
  | 3 => d.toState n .configuring
  | 4 => d.drain e n false 0 0
  | 5 => d.drain e n true 0 0
  | _ =>
    let w := (d.bay n).commitRt
    let d := (d.setBay n { d.bay n with commitRt := none }).resetBay e n
    match w with
    | some r => d.odAnswer r .state (abortOf .state) []
    | none => d

end Sys2Proof.Machine
end

