-- ==== Sys2Proof/Machine/Flash.lean ====
section
/-! DEFINITION. The SPI NOR as bytes: its SFDP space, the flash layout, the boot directory and the banks of the dictionary store, read and
written (R60 to R64, R115 to R117). -/
namespace Sys2Proof

/-- `n` bytes at an offset of a part of the flash; those beyond what is listed are erased and read 0xFF. -/
def flashBytes (bs : List Byte) (off n : Nat) : List Byte := (List.range n).map fun i => bs.getD (off + i) 0xFF

/-- The little-endian field of `n` bytes at an offset of a part of the flash. -/
def flashField (bs : List Byte) (off n : Nat) : Nat := Machine.leNat (flashBytes bs off n)

/-- Where the basic parameter table stands in the SFDP space: its first parameter header names it (JESD216; PRESUMED, log entry 57). -/
def Flash.sfdpTable (f : Flash) : Nat := flashField f.sfdp 0xC 3

/-- The SFDP signature stands, the first parameter header is that of the basic table, and the table advertises the 1-1-4 fast read: bit
22 of its first word (R60, R61; the layout is that of JESD216: PRESUMED, log entry 57). -/
def Flash.sfdpOk (f : Flash) : Bool :=
  flashField f.sfdp 0 4 == 0x50444653 && flashField f.sfdp 8 1 == 0 && flashField f.sfdp 0xF 1 == 0xFF &&
  Nat.ble 3 (flashField f.sfdp 0xB 1) && Machine.bit (flashField f.sfdp f.sfdpTable 4) 22

/-- The instruction and the dummy cycles of the 1-1-4 fast read, from the third word of the basic table (R61; PRESUMED, log entry 57). -/
def Flash.fastRead (f : Flash) : Nat × Nat :=
  let w := flashField f.sfdp (f.sfdpTable + 8) 4
  (Machine.bits w 31 24, Machine.bits w 20 16 + Machine.bits w 23 21)

end Sys2Proof

namespace Sys2Proof.Machine

/-! ### Table — Flash layout (R62) -/

/-- Offsets of the parts of the flash. -/
def flashDirAt (k : Nat) : Nat := 0x1000 * k
def flashSlotAt (k : Nat) : Nat := if k = 0 then 0x100000 else 0x800000
def flashBankAt (k : Nat) : Nat := 0xF00000 + 0x80000 * k

/-- Bytes of a store bank, and of an image slot. -/
def bankSize : Nat := 0x80000
def slotSize : Nat := 0x700000

/-! ### The boot directory (R62, R63) -/

/-- A boot directory copy as its bytes stand: its magic and the CRC over bytes 0x00 to 0x0F are correct (Table — Boot directory). -/
def dirOf (bs : List Byte) : Option DirCopy :=
  if flashField bs 0 4 == 0x0880D1C7 && flashField bs 0x10 8 == crc64 (flashBytes bs 0 16) then
    some ⟨flashField bs 4 4, flashField bs 8 1⟩
  else none

/-- The bytes of a boot directory copy (Table — Boot directory). -/
def dirBytes (c : DirCopy) : List Byte :=
  let h := leBytes 4 0x0880D1C7 ++ leBytes 4 c.seq ++ leBytes 1 c.active ++ zeros 7
  h ++ leBytes 8 (crc64 h)

/-- The boot directory copy in use: the higher sequence number, copy 0 where they are equal (R63). -/
def flashDir (f : Flash) : Option DirCopy :=
  match (dirOf f.dir0, dirOf f.dir1) with
  | (some a, some b) => some (if a.seq < b.seq then b else a)
  | (some a, none) => some a
  | (none, b) => b

/-! ### The dictionary store (R115 to R117) -/

/-- Bytes of a store record (Table — Store record). -/
def recSize (r : StoreRec) : Nat := 16 + cdiv r.value.length 8 * 8

/-- The bytes of a store record (Table — Store record). -/
def recBytes (r : StoreRec) : List Byte :=
  let h := leBytes 2 r.index ++ leBytes 1 r.sub ++ leBytes 1 r.cls ++ leBytes 4 r.value.length ++ fit (cdiv r.value.length 8 * 8) r.value
  h ++ leBytes 8 (crc64 h)

/-- The record that the bytes from here on begin with, where its length is one of R115 and its CRC is correct. -/
def recOf (bs : List Byte) : Option StoreRec :=
  let n := fld bs 4 4
  let k := 8 + cdiv n 8 * 8
  if fld bs 0 2 != 0xFFFF && Nat.ble 1 n && Nat.ble n 4096 && Nat.ble (k + 8) bs.length && fld bs k 8 == crc64 (bs.take k) then
    some ⟨fld bs 0 2, fld bs 2 1, fld bs 3 1, (bs.drop 8).take n⟩
  else none

/-- The records that some bytes begin with, up to the first one erased or torn, and the bytes that follow them; `fuel` bounds their
number. -/
def recsOf : Nat → List Byte → List StoreRec × List Byte
  | 0, bs => ([], bs)
  | fuel + 1, bs =>
    match recOf bs with
    | some r => let x := recsOf fuel (bs.drop (recSize r)); (r :: x.1, x.2)
    | none => ([], bs)

/-- The header of a store bank (Table — Store bank header). -/
def bankHeader (g : Nat) : List Byte :=
  let h := leBytes 4 0x08805D0E ++ leBytes 4 g ++ zeros 48
  h ++ leBytes 8 (crc64 h)

/-- A bank as R116 reads it: none where its header's magic or CRC is wrong. -/
def bankOf (bs : List Byte) : Option StoreBank :=
  if flashField bs 0 4 == 0x08805D0E && flashField bs 0x38 8 == crc64 (flashBytes bs 0 56) then
    let x := recsOf (bankSize / 24) (bs.drop 0x40)
    some ⟨flashField bs 4 4, x.1, 0x40 + (x.1.map recSize).sum, x.2.any (· != 0xFF)⟩
  else none

/-- The bank of the store in use, and whether it is bank 1: a correct header, the higher generation (R116); bank 0 where the generations
are equal. -/
def bankInUse (f : Flash) : Option (Bool × StoreBank) :=
  match (bankOf f.bank0, bankOf f.bank1) with
  | (some a, some b) => some (if a.generation < b.generation then (true, b) else (false, a))
  | (some a, none) => some (false, a)
  | (none, some b) => some (true, b)
  | (none, none) => none

/-- The bank of the store in use (R116). -/
def flashBank (f : Flash) : Option StoreBank := (bankInUse f).map (·.2)

/-- Bytes free in a bank of 512 KiB (R115). -/
def bankFree (b : StoreBank) : Nat := bankSize - b.stop

/-- The records of the bank in use (R116). -/
def storeRecs (f : Flash) : List StoreRec := ((flashBank f).map (·.recs)).getD []

/-- The latest record of an entry in a bank (R116). -/
def latestRec (b : StoreBank) (idx sub : Nat) : Option StoreRec := (b.recs.filter fun r => r.index == idx && r.sub == sub).getLast?

/-- The flash with a bank rewritten by compaction: the other bank is erased and holds the records, and its header, written last, carries
the generation raised by one (R117). With no valid bank, bank 0 takes generation 1 (DESIGN CHOICE, log entry 39). -/
def compacted (f : Flash) (recs : List StoreRec) : Flash :=
  let b (g : Nat) : List Byte := bankHeader g ++ (recs.map recBytes).flatten
  match bankInUse f with
  | some (false, x) => { f with bank1 := b (x.generation + 1) }
  | some (true, x) => { f with bank0 := b (x.generation + 1) }
  | none => { f with bank0 := b 1 }

/-- The flash with records appended to the bank in use, behind its last good record (R117). -/
def appended (f : Flash) (recs : List StoreRec) : Flash :=
  let bs := (recs.map recBytes).flatten
  match bankInUse f with
  | some (false, x) => { f with bank0 := flashBytes f.bank0 0 x.stop ++ bs }
  | some (true, x) => { f with bank1 := flashBytes f.bank1 0 x.stop ++ bs }
  | none => f

/-! ### Image slots (R62, R64, R121) -/

/-- The image in slot 0 (A) or 1 (B). -/
def flashSlot (f : Flash) (k : Nat) : Image := if k = 0 then f.slotA else f.slotB

/-- The flash with an image staged: the slot written, and one directory copy rewritten with it as the active slot (R121). -/
def stagedFlash (f : Flash) (k : Nat) (i : Image) : Flash :=
  let f := if k = 0 then { f with slotA := i } else { f with slotB := i }
  let a := dirOf f.dir0
  let b := dirOf f.dir1
  let top := max ((a.map (·.seq)).getD 0) ((b.map (·.seq)).getD 0)
  let c := dirBytes { seq := top + 1, active := k }
  let one := match (a, b) with
    | (some a, some b) => decide (b.seq ≤ a.seq)
    | (_, none) => true
    | (none, some _) => false
  if one then { f with dir1 := c } else { f with dir0 := c }

end Sys2Proof.Machine
end

