-- ==== Sys2Proof/Machine/Islands.lean ====
section
/-! DEFINITION. Islands and loops (chapter 23): closing, gating and retraining of islands, the adaptive loops, the protective
actions, the sense lines and the patrol scrub (R612 to R648). -/
namespace Sys2Proof.Machine

/-! ### Closing (R616 to R625) -/

/-- FLUSH_END (R619). -/
def execFlushEnd (i : Fin 350) (s : State) : Outc :=
  s.go (Dev.turnOf (fun c => match c with | .flushEnd j => j == i | _ => false) fun e d => d.flushEnd e i)

/-- Transactions and waiting requests of a slice. -/
def Dev.sliceTxns (d : Dev) (sl : Nat) : List Txn := d.ridge.txns.filter fun t => sliceOf t.line == sl
def Dev.sliceWaits (d : Dev) (sl : Nat) : List (Nat × HomeReq) :=
  d.ridge.waiting.filter fun c => sliceOf c.1 == sl && !c.2.backlog

/-- THATCH stages that run on arrays of bank b: the Bay, queue, position and stage. -/
def Dev.bankStages (d : Dev) (b : Nat) : List (Nat × Nat × W32 × Nat) :=
  (d.chains.map fun c => (c.stages.zipIdx.filter fun s =>
    s.1.kind == 4 && !s.1.ended && Nat.blt s.1.obj (32 * b + 32) && Nat.blt (32 * b) (s.1.obj + s.1.count)).map fun s => (c.bay, c.q, c.p, s.2)).flatten

/-- How many requests that an island has accepted are outstanding (R620). -/
def Dev.islandLoad (d : Dev) (i : Nat) : Nat :=
  if i < 256 then b2n (d.core i).run.isSome
  else if i < 272 then 0
  else if i < 288 then (d.sliceTxns (i - 272)).length + (d.sliceWaits (i - 272)).length
  else if i < 296 then 0
  else if i < 304 then (d.bankStages (i - 296)).length +
    (d.arrays.filter fun c => c.1 / 32 == i - 296 && (c.2.st == .seating || c.2.pairs.any fun p => p.2.trimming)).length
  else if i < 312 then 0
  else if i < 326 then ((d.engines.filter fun c => engineIsland c.1 == i).map fun c => c.2.queue.length + c.2.suspended.length + b2n c.2.run.isSome).sum +
    (d.digests.filter fun c => engineIsland c.1 == i).length
  else if i = 326 then (d.link.reqs.filter fun r => !r.stale && !r.dead).length + (d.trans.treqs.filter fun t => !t.dead && !t.gone).length
  else if i = 330 then d.trans.walks.length
  else if i = 331 then d.ridge.proxyWait.length
  else if i < 332 then 0
  else if i < 344 then (d.places.filter fun p => p.isl == i).length
  else if i < 348 then
    (d.gutters.filter fun c => 344 + c.1 / 64 == i && (c.2.st == .running || c.2.st == .halted)).length +
    (d.courses.filter fun c => 344 + c.1 / 128 == i && c.2.st != .idle && c.2.st != .prepared).length
  else 0

/-- A transaction ends with Gone. One that waits for the answer of a holder that may be dirty loses its line (R622). -/
def Dev.goneTxn (d : Dev) (e : Env) (t : Txn) : Dev :=
  let d := d.dropTxn t.line
  if t.granted then d
  else
    let d := if t.wait.any fun a => t.mayBeDirty a then d.loseLine e t.line else d
    let d := d.setRidge { d.ridge with lateAns := d.ridge.lateAns ++ t.wait.map fun a => (t.line, a) }
    d.refuseReq e t.line t.req .gone

/-- A seat or a trim under way on an array of a bank that closes is given up (R620; DESIGN CHOICE, log entry 34). -/
def Dev.goneArr (d : Dev) (e : Env) (a : Nat) : Dev :=
  let x := d.arr a
  if x.st == .seating then (d.setArr a { x with st := .unshadowed, seatCmd := none }).arrCmd e x.bay x.seatCmd .gone
  else (x.pairs.filter fun p => p.2.trimming).foldl (fun d p =>
    (d.modArr a fun y => y.setPair p.1 { y.pair p.1 with trimming := false, cmd := none }).arrCmd e x.bay p.2.cmd .gone) d

/-- Every request that the island still has outstanding is answered with `GONE` (R620, R621). -/
def Dev.goneAll (d : Dev) (e : Env) (i : Nat) : Dev :=
  if i < 256 then if (d.core i).run.isSome then d.coreErr e i .gone 0 0 else d
  else if i < 272 then d
  else if i < 288 then
    let d := (d.sliceTxns (i - 272)).foldl (fun d t => d.goneTxn e t) d
    let ws := d.sliceWaits (i - 272)
    (ws.foldl (fun d c => d.refuseReq e c.1 c.2 .gone) (d.setRidge { d.ridge with
      waiting := d.ridge.waiting.filter fun c => sliceOf c.1 != i - 272 || c.2.backlog })).flushDir e (i - 272)
  else if i < 296 then d
  else if i < 304 then
    let d := (d.bankStages (i - 296)).foldl (fun d t => d.stageEnd e t.1 t.2.1 t.2.2.1 t.2.2.2 .gone 0 .own) d
    (List.range 32).foldl (fun d k => d.goneArr e (32 * (i - 296) + k)) d
  else if i < 312 then d
  else if i < 326 then
    ((List.range 42).filter fun g => engineIsland g == i).foldl (fun d g =>
      let d := if (d.engine g).run.isSome then d.engineErr e g .gone 0 0 0 else d
      let d := (d.digestsOn g).foldl (fun d c => (d.forget (· == .job c.2.2.1 c.2.2.2)).digestErr e c.2.2.1 c.2.2.2 .gone 0 0) d
      let x := d.engine g
      let os := x.queue ++ x.suspended
      os.foldl (fun d o => d.opEnd e o.bay o.q o.p o.stage .gone 0 .own) (d.setEngine g { x with queue := [], suspended := [], ops := x.ops + os.length }).tidyHalts) d
  else if i = 326 then
    let d := (d.link.reqs.filter fun r => !r.stale && !r.dead).foldl (fun d r => d.endReq r.tag [] .gone) d
    (d.trans.treqs.filter fun t => !t.dead && !t.gone).foldl (fun d t =>
      let k := t.walk
      (d.setTrans { d.trans with treqs := d.trans.treqs.filter (·.tag != t.tag) }).reqErr e k.who k.bay k.dva (d.walkDir k.who k.write) 0 .gone) d
  else if i = 330 then
    d.trans.walks.foldl (fun d k => (d.dropWalk k.id).reqErr e k.who k.bay k.dva (d.walkDir k.who k.write) 0 .gone) d
  else if i = 331 then
    let ws := d.ridge.proxyWait
    ws.foldl (fun d c => d.homeAnswer e (hostKey c.1) c.2 "Gone" 0 [] true .gone) (d.setRidge { d.ridge with proxyWait := [] })
  else if i < 332 then d
  else if i < 344 then (d.places.filter fun p => p.isl == i).foldl (fun d p => (d.dropPlace p).placeReply p .gone [] false) d
  else if i < 348 then
    let gs := (d.gutters.filter fun c => 344 + c.1 / 64 == i && (c.2.st == .running || c.2.st == .halted)).map (·.1)
    let cs := (d.courses.filter fun c => 344 + c.1 / 128 == i && c.2.st != .idle && c.2.st != .prepared).map (·.1)
    let d := gs.foldl (fun d c => d.gutterErr e c .gone 0 0 0 0) d
    cs.foldl (fun d c => d.courseErr e c .gone 0 0) d
  else d

/-- CLOSE_WINDOW_END (R616, R620): 10 µs after it closed, or once nothing is outstanding, an island starts again or is off. A core
granted meanwhile wakes (R618). -/
def execCloseWindowEnd (i : Fin 350) (s : State) : Outc :=
  s.go fun e d =>
    let x := d.island i
    let k := d.islandLoad i
    if !(x.st == .closing && (k = 0 || x.since + 10000 ≤ e.time)) then d else
    let d := d.goneAll e i
    let x := d.island i
    let held := i.val < 272 && (coreIslands ⟨if i.val < 256 then i else 16 * (i - 256), if i.val < 256 then 1 else 16⟩).contains i.val &&
      (if i.val < 256 then (d.holder (·.core) i).isSome else (List.range 16).any fun c => (d.holder (·.core) (16 * (i - 256) + c)).isSome)
    -- a slice has counted its own answers
    let x := if 272 ≤ i.val && i.val < 288 then x else { x with gone := x.gone + k }
    d.setIsland i { x with st := if x.toOff && !held then .off else .starting, toOff := false, since := e.time }

/-- ISLAND_START_END (R616, R625, R644). -/
def execIslandStartEnd (i : Fin 350) (s : State) : Outc :=
  s.go (Dev.turnOf (fun c => match c with | .islandStartEnd j => j == i | _ => false) fun e d => d.islandStart e i)

/-! ### Actions and gating (R617, R618) -/

/-- The status that refuses an island action, if one does (Table — Island actions). -/
def Dev.islandCtlBad (d : Dev) (i v : Nat) : Option Status :=
  let x := d.island i
  match v with
  | 1 => if x.st != .active then some .state else if 348 ≤ i then some .access else none
  | 2 => if x.st != .active then some .state else if d.gateable i then none else some .access
  | 3 => if x.st == .off then none else some .state
  | 4 => if x.st == .active && !x.retraining then none else some .state
  | _ => some .range

/-- An island action that has passed its checks. -/
def Dev.islandCtl (d : Dev) (e : Env) (i v : Nat) : Dev :=
  match v with
  | 1 => d.closeIsland e i false
  | 2 => d.closeIsland e i true
  | 3 => d.wakeIsland e i
  | _ => d.setIsland i { d.island i with retraining := true }

/-- GATE_TIMER (R618). -/
def execGateTimer (i : Fin 350) (s : State) : Outc :=
  s.go (Dev.turnOf (fun c => match c with | .gateTimer j => j == i | _ => false) fun e d => d.gateDue e i)

/-! ### Retraining (R627) -/

/-- An island retraining trigger (R15, R627): before `READY` it is latched for an island that has no power yet (R90); `STARTING` retrains
the island in any case (R645). -/
def Dev.retrainTrigger (d : Dev) (i : Nat) : Dev :=
  let x := d.island i
  if x.st != .active then
    if x.st == .off && d.boot.st != .ready then
      d.setIsland i (if x.latched then { x with overruns := x.overruns + 1 } else { x with latched := true })
    else d
  else d.setIsland i (if !x.retraining then { x with retraining := true }
    else if !x.latched then { x with latched := true } else { x with overruns := x.overruns + 1 })

/-- RETRAIN_PERIOD: 60 s since the last retraining (R627). -/
def execRetrainPeriod (i : Fin 350) (s : State) : Outc :=
  s.go fun e d =>
    let x := d.island i
    if x.st != .active || x.timed || e.time < x.lastRetrain + 60000000000 then d
    else (d.setIsland i { x with timed := true }).retrainTrigger i

/-- RETRAIN_TEMPERATURE: the island's sensor, in 0.125 °C, has moved by more than 10 °C since the last retraining (R627). -/
def execRetrainTemperature (i : Fin 350) (temp : Int) (s : State) : Outc :=
  s.go fun _ d =>
    let d := { d with board := { d.board with islandTemp := smSet 0 d.board.islandTemp i temp } }
    if 80 < (temp - (d.island i).lastTemp).natAbs then d.retrainTrigger i else d

/-- CPM_MARGIN_ALARM (R627). -/
def execCpmMarginAlarm (i : Fin 350) (s : State) : Outc := s.go fun _ d => d.retrainTrigger i

/-- RETRAINING_END: a latched trigger starts its retraining on this tick (R15, R627). -/
def execRetrainingEnd (i : Fin 350) (temp : Int) (s : State) : Outc :=
  s.go fun e d =>
    let x := d.island i
    if !(x.st == .active && x.retraining) then d
    else ({ d with board := { d.board with islandTemp := smSet 0 d.board.islandTemp i temp } } : Dev).setIsland i { x with
      retraining := x.latched
      latched := false
      timed := false
      retrains := x.retrains + 1
      lastRetrain := e.time
      lastTemp := temp }

/-! ### The loops (R628 to R634, R639, R640) -/

/-- The main rails are on: islands other than 348 and 349 have power. -/
def Dev.railsOn (d : Dev) : Bool := d.board.mainPg

/-- A loop is frozen (R628). -/
def Dev.loopFrozen (d : Dev) (k : Nat) : Bool := bit (d.od 0x2B00 3) k

/-- The voltage domain of an island (Table — Voltage domains). -/
def islandDomain (i : Nat) : Nat :=
  if i < 256 then i / 16
  else if i < 272 then i - 256
  else if i < 288 then 16
  else if i < 296 then 17
  else if i < 304 then 18
  else if i < 312 then 19
  else if i < 326 then 17
  else if i < 332 then 20
  else if i < 344 then 21
  else if i < 348 then 22
  else 23

/-- VDD_CORE as last acknowledged: the set-point, unless its command failed (R638). -/
def Dev.railMv (d : Dev) : Nat := d.loops.stuck.getD d.loops.coreMv

/-- Every domain's regulator follows its request, or the value forced, within 0.55 V to 0.90 V and 50 mV below the set-point
(R613, R639). -/
def Dev.setDomains (d : Dev) : Dev :=
  (List.range 23).foldl (fun d k =>
    let x := d.domain k
    d.setDomain k { x with mv := max 550 (min (min 900 (d.railMv - 50)) (if x.override = 0 then x.request else x.override)) }) d

/-- A set-point is commanded over AVSBus; the command is acknowledged unless AVS_NACK says otherwise (R638). -/
def Dev.commandCore (d : Dev) (mv : Nat) : Dev :=
  ({ d with loops := { d.loops with prevMv := d.railMv, coreMv := mv, stuck := none } } : Dev).send (.avs mv)

/-- The set-point is commanded if it changes (R629). -/
def Dev.setCore_mv (d : Dev) (mv : Nat) : Dev := if d.loops.coreMv = mv && d.loops.stuck.isNone then d else d.commandCore mv

/-- A domain's next request from the slacks of its islands that are `ACTIVE` (R629, R648). -/
def nextRequest (mv : Nat) (rs : List Slack) : Nat :=
  if rs.any fun r => decide (r.slack < 4) || (r.wantsMore && decide (r.predicted < 4)) then min 900 (mv + 5)
  else if !rs.isEmpty && rs.all fun r => decide (12 < r.slack) then max 550 (mv - 5)
  else mv

/-- The set-point for the domain requests (R629). -/
def Dev.wantedCore (d : Dev) : Nat :=
  min 950 (max 650 (cdiv ((List.range 23).foldl (fun m k => max m (d.domain k).request) 0 + 50) 5 * 5))

/-- The least slack of each island reported, as read in cpm_slack (R649). -/
def Dev.noteSlacks (d : Dev) (rs : List Slack) : Dev :=
  rs.foldl (fun d r => if r.island < 350 then d.setIsland r.island { d.island r.island with slack := r.slack } else d) d

/-- The reports of islands that are `ACTIVE`. -/
def Dev.liveSlacks (d : Dev) (rs : List Slack) : List Slack := rs.filter fun r => (d.island r.island).st == .active

/-- VOLTAGE_LOOP_PERIOD: every 10 µs (R629). -/
def execVoltageLoopPeriod (slacks : List Slack) (s : State) : Outc :=
  s.go fun e d =>
    if e.time % 10000 != 0 || !d.railsOn then d else
    let d := d.noteSlacks slacks
    if d.loopFrozen 0 || (d.loops.frozen.any (·.1 == 0)) then d else
    let rs := d.liveSlacks slacks
    let d := (List.range 23).foldl (fun d k =>
      let x := d.domain k
      d.setDomain k { x with request := nextRequest x.request (rs.filter fun r => islandDomain r.island == k) }) d
    (d.setCore_mv d.wantedCore).setDomains

/-- The caps on an island's ratio: thermal, VR_HOT, and for a core the power cap (R48, R630). -/
def Dev.ratioCap (d : Dev) (i : Nat) : Nat :=
  let x := d.island i
  min (min x.thermCap (if i < 256 then x.powerCap else 256)) (d.vrCap i)

/-- One step of an island's ratio (R614, R630). -/
def Dev.nextRatio (d : Dev) (r : Slack) : Nat :=
  let x := d.island r.island
  let cap := d.ratioCap r.island
  if r.slack < 4 || cap < x.ratio then max 64 (x.ratio - 1)
  else if 4 ≤ r.predicted && x.ratio < cap then min 256 (x.ratio + 1)
  else x.ratio

/-- FREQUENCY_LOOP_PERIOD: every 10 µs (R630). -/
def execFrequencyLoopPeriod (slacks : List Slack) (s : State) : Outc :=
  s.go fun e d =>
    if e.time % 10000 != 0 || !d.railsOn then d else
    let d := d.noteSlacks slacks
    if d.loopFrozen 1 then d
    else (d.liveSlacks slacks).foldl (fun d r => d.setIsland r.island { d.island r.island with ratio := d.nextRatio r }) d

/-- CAP_STEP: every 1 ms, from the island sensors in 0.125 °C and the device power in W (R630, R632). -/
def execCapStep (temps : List (Nat × Int)) (powerW : Nat) (s : State) : Outc :=
  s.go fun e d =>
    if e.time % 1000000 != 0 || !d.railsOn then d else
    let onset := toInt 16 (d.od 0x2E02 2)
    let d := (temps.filter fun t => Nat.blt t.1 350).foldl (fun d t =>
      let x := d.island t.1
      let cap := if onset * 8 ≤ t.2 then max 64 (x.thermCap - 16)
        else if t.2 ≤ (onset - 2) * 8 then min 256 (x.thermCap + 16) else x.thermCap
      ({ d with board := { d.board with islandTemp := smSet 0 d.board.islandTemp t.1 t.2 } } : Dev).setIsland t.1 { x with thermCap := cap }) d
    let d := { d with loops := { d.loops with power := powerW } }
    let lim := d.od 0x2B00 4
    let step (c : Nat) : Nat := if lim < powerW then max 64 (c - 4) else if powerW * 100 < lim * 95 then min 256 (c + 4) else c
    (List.range 256).foldl (fun d c => d.setIsland c { d.island c with powerCap := step (d.island c).powerCap }) d

/-- DROOP (R631). -/
def execDroop (i : Fin 350) (s : State) : Outc :=
  s.go fun _ d =>
    if !((d.island i).st == .active) then d
    else (d.setIsland i { d.island i with stretches := (d.island i).stretches + 1 }).count 0x2B00 0xC 1

/-- ADC_THRESHOLD_LOOP: every 1 ms, for a bank; `thresholds` names array × 4096 + physical column (R634; DESIGN CHOICE, log entry 36). -/
def execAdcThresholdLoop (b : Fin 8) (thresholds : List (Nat × Int)) (s : State) : Outc :=
  s.go fun e d =>
    if e.time % 1000000 != 0 || d.loopFrozen 4 || (d.island (296 + b)).st != .active then d
    else (thresholds.filter fun t => t.1 / 4096 / 32 == b.val).foldl (fun d t =>
      d.modArr (t.1 / 4096) fun x => { x with newThresholds := smSet 0 x.newThresholds (t.1 % 4096) t.2 }) d

/-- PLACEMENT_LOOP: every 1 ms, the core temperatures that R443 ranks (R628, R640). -/
def execPlacementLoop (temps : List (Nat × Int)) (s : State) : Outc :=
  s.go fun e d =>
    if e.time % 1000000 != 0 || !d.railsOn then d else
    let put (m : SMap Int) : SMap Int := (temps.filter fun t => Nat.blt t.1 256).foldl (fun m t => smSet 0 m t.1 t.2) m
    { d with board := { d.board with
        islandTemp := put d.board.islandTemp
        placeTemp := if d.loopFrozen 5 then d.board.placeTemp else put d.board.placeTemp } }

/-- loop_freeze is written: a loop that runs again starts from what it held or what was forced (R639). -/
def Dev.setFreeze (d : Dev) (v : Nat) : Dev :=
  let d := if d.loopFrozen 0 && !bit v 0 then
      (List.range 23).foldl (fun d k =>
        let x := d.domain k
        if x.override = 0 then d else d.setDomain k { x with request := x.override, override := 0 }) d
    else d
  let d := if d.loopFrozen 1 && !bit v 1 then
      { d with loops := { d.loops with islands := d.loops.islands.map fun (c : Nat × Island) =>
          (c.1, if c.2.override = 0 then c.2 else { c.2 with ratio := c.2.override, override := 0 }) } }
    else d
  d.setOd 0x2B00 3 v

/-- The status that refuses a domain override, if one does (R613, R639). -/
def Dev.domainOverrideBad (d : Dev) (k v : Nat) : Option Status :=
  if v != 0 && (k = 23 || v < 550 || 900 < v || v % 5 != 0 || d.railMv < v + 50) then some .range
  else if !(d.loopFrozen 0) then some .state else none

def Dev.domainOverride (d : Dev) (k v : Nat) : Dev := (d.setDomain k { d.domain k with override := v }).setDomains

/-- The status that refuses a ratio override, if one does (R614, R639). -/
def Dev.ratioOverrideBad (d : Dev) (v : Nat) : Option Status :=
  if v != 0 && (v < 64 || 256 < v) then some .range else if !(d.loopFrozen 1) then some .state else none

def Dev.ratioOverride (d : Dev) (i v : Nat) : Dev := d.setIsland i { d.island i with override := v }

/-! ### Sense lines and AVSBus (R636 to R638, R647) -/

/-- SENSE_OPEN_DETECT: `rail` 0 VDD_CORE, 1 VDD_HBM, 2 VDDQ_HBM; `kind` 1 positive leg open, 2 negative, 3 implausible (R636). -/
def execSenseOpenDetect (rail : Fin 3) (kind : Fin 4) (s : State) : Outc :=
  s.go fun e d =>
    if kind.val = 0 || !d.railsOn || smGet 0 d.loops.sense rail != 0 then d else
    let d := { d with loops := { d.loops with
      sense := smSet 0 d.loops.sense rail kind
      frozen := smSet none d.loops.frozen rail (some e.time) } }
    let d := (d.count 0x2B00 9 1).fault .retried 0xFF { status := .fault, source := 0xD, island := 348, object := rail, cause := kind }
    if rail.val = 0 then (d.commandCore 850).setDomains else d

/-- The status that refuses a write of sense_clear, if one does; `intact` names the pairs that have read intact for 100 ms (R637). -/
def Dev.senseClearBad (d : Dev) (e : Env) (v : Nat) (intact : Nat → Bool) : Option Status :=
  if v = 0 || 8 ≤ v then some .range
  else if (List.range 3).all fun k => !bit v k || (smGet 0 d.loops.sense k != 0 && intact k &&
      (match smGet none d.loops.frozen k with | some t => t + 100000000 ≤ e.time | none => false)) then none
  else some .state

/-- The fields of the rails named clear, and their loops resume from the safe setting (R637). -/
def Dev.senseClear (d : Dev) (v : Nat) : Dev :=
  (List.range 3).foldl (fun d k =>
    if !bit v k then d else
    let d := { d with loops := { d.loops with sense := smSet 0 d.loops.sense k 0, frozen := smSet none d.loops.frozen k none } }
    if k = 0 then (List.range 23).foldl (fun d i => d.setDomain i { d.domain i with request := (d.domain i).mv }) d else d) d

/-- AVS_NACK: the command for a set-point is not acknowledged, nor its three resends: the rail is taken as stuck at its last
acknowledged value (R638). -/
def execAvsNack (mv : Nat) (s : State) : Outc :=
  s.go fun _ d =>
    if mv != d.loops.coreMv || d.loops.stuck.isSome || d.loops.prevMv = mv then d else
    let d := (((d.send (.avs mv)).send (.avs mv)).send (.avs mv)).count 0x2B00 7 1
    ({ d with loops := { d.loops with stuck := some d.loops.prevMv } } : Dev).setDomains.fault .retried 0xFF
      { status := .fault, source := 0xD, island := 348, object := 0 }

/-! ### HBM patrol scrub (R641 to R644) -/

/-- SCRUB_INTERVAL_TRIGGER (R9, R642). -/
def execScrubIntervalTrigger (k : Fin 8) (s : State) : Outc :=
  s.go fun e d =>
    let x := d.scrub k
    if d.boot.st != .ready || x.timed || e.time < x.lastEnd.getD d.boot.readyTime + d.od 0x2B03 1 * 1000000000 then d
    else (d.setScrub k { x with timed := true }).scrubTrigger k

/-- The status that refuses a scrub_request, if one does (R642). -/
def Dev.scrubRequestBad (d : Dev) (k v : Nat) : Option Status :=
  if v != 1 then some .range
  else if (d.scrub k).running || (d.scrub k).latched || (d.island (304 + k)).st != .active then some .state else none

/-- SCRUB_PASS_END: `corrected` and `bad` are the lines that the pass corrected, and those it could not correct, of those that the interleave places
on the stack (R641 to R644). -/
def execScrubPassEnd (k : Fin 8) (corrected bad : List Nat) (s : State) : Outc :=
  s.go fun e d =>
    let x := d.scrub k
    if !x.running || x.paused then d else
    let own (l : Nat) : Bool := Nat.blt l 0x180000000 && Config.hbmStack l == k.val
    let fixed := corrected.filter own
    let d := d.count 0x2B03 7 fixed.length
    let d := fixed.foldl (fun d _ => d.corrected) d
    let d := (bad.filter own).foldl (fun d l =>
      ((d.poisonLine e l).count 0x2B03 8 1).fault .retried ((d.lineBay l).getD 0xFF)
        { status := .integrity, source := 0x11, island := 304 + k, addr := l * 64 }) d
    d.setScrub k { x with
      running := x.latched
      latched := false
      timed := false
      passes := x.passes + 1
      lastEnd := some e.time }

end Sys2Proof.Machine
end

