-- ==== Sys2Proof/Machine/Recovery.lean ====
section
/-! DEFINITION. Restart of a strict job and re-attach of a parked Bay (chapter 24): what these add to the fault handling of
`Work.lean`, `Halt.lean` and `Settle.lean` (R655, R666, R667). -/
namespace Sys2Proof.Machine

/-- RESTART_DRAINED: steps 3 to 5 of R655. Every operation of the job has ended; the Spars return to the values they had as
attempt 0 began, and fetch goes back to `BEGIN_JOB`. A Bay that has stopped in the meantime restarts nothing (R672). -/
def execRestartDrained (n : Fin 16) (s : State) : Outc :=
  s.go fun e d =>
    let j := d.jour n
    if !(j.draining && (d.bay n).st.live) then d else
    let d := d.resetSpars e n
    (d.fixRecs.setQueue n j.q { d.queue n j.q with fe := j.pos, cmds := [] }).setJour n { d.jour n with draining := false }

/-- Re-attach may be asked for: the Bay is `PARKED`, and a host owner is there (R666). -/
def Dev.mayReattach (d : Dev) (n : Nat) : Bool :=
  (d.bay n).st == .parked &&
  (d.ownerLink n != 0 || (d.link.st == .up && d.link.vfEnable && d.link.bme.contains (n + 1)))

/-- The status that refuses a token written to reattach, if one does (R666). -/
def Dev.reattachBad (d : Dev) (n token : Nat) : Option Status :=
  if !(d.mayReattach n) then some .state
  else if token = 0 || token != d.od (0x2100 + n) 0x1B then some .access else none

/-- A refused token is counted and recorded (R666). -/
def Dev.reattachRefused (d : Dev) (e : Env) (n : Nat) : Dev := (d.count (0x2D10 + n) 3 1).event e n 4

/-- Steps 1 to 3 of an accepted re-attach (R667): the hold timer stops, translations that leave the device go, heartbeats count
from now. -/
def Dev.reattach (d : Dev) (e : Env) (n : Nat) : Dev :=
  let d := (d.setBay n { d.bay n with hold := none, hbLost := false }).dropTlb fun x => x.bay == n && (x.kind == 1 || x.peer)
  if d.ownerLink n = 1 then d.setOd (0x2A40 + n) 3 e.time else d

/-- Steps 5 to 7, which follow the answer (R667). -/
def Dev.reattached (d : Dev) (e : Env) (n : Nat) : Dev :=
  let d := (d.setBay n { d.bay n with st := if d.bayQuiet n then .idle else .running }).raisePf 3
  ((((d.issueHeld e n).unpark e n).raiseBay n 4).count (0x2D10 + n) 4 1).event e n 3

end Sys2Proof.Machine
end

