-- ==== Sys2Proof/Machine/Values.lean ====
section
/-! DEFINITION. What each entry of the dictionary reads (R92 to R94, R112, R676): the value last written or counted, or, where the
entry shows state of the device, that state. -/
namespace Sys2Proof.Machine

/-! ### Records (R119, R181, R652) -/

/-- A change record (Table — Change record). -/
def ChangeRec.bytes (r : ChangeRec) : List Byte :=
  leBytes 8 r.seq ++ leBytes 8 r.time ++ leBytes 2 r.idx ++ leBytes 1 r.sub ++ leBytes 1 r.principal ++ leBytes 1 r.status ++ zeros 3 ++
  leBytes 8 r.crc

/-- A violation record (Table — Violation record). -/
def ViolRec.bytes (r : ViolRec) : List Byte :=
  leBytes 8 r.seq ++ leBytes 8 r.time ++ leBytes 2 r.rid ++ leBytes 1 r.kind ++ leBytes 1 r.answer ++ zeros 4 ++ fit 40 r.header

/-- A fault record (Table — Fault record). -/
def FRec.bytes (r : FRec) : List Byte :=
  leBytes 8 r.seq ++ leBytes 8 r.time ++ leBytes 1 r.severity ++ leBytes 1 r.bay ++ leBytes 1 r.status ++ leBytes 1 r.source ++
  leBytes 2 r.island ++ leBytes 2 r.object ++ leBytes 2 r.cause ++ zeros 2 ++ leBytes 4 r.pos ++ leBytes 8 r.addr ++ leBytes 8 r.jobId ++
  leBytes 4 r.attempt ++ zeros 12

/-- The change record with a sequence number, if it is still in the ring (R120). -/
def Dev.changeAt (d : Dev) (v : Nat) : Option ChangeRec := d.srv.ring.find? (·.seq == v)

/-- The violation record with a sequence number, if it is still in the ring (R181). -/
def Dev.violAt (d : Dev) (v : Nat) : Option ViolRec := d.link.viol.find? (·.seq == v)

/-- The fault record with a sequence number, if it is still in the ring (R653). -/
def Dev.faultAt (d : Dev) (v : Nat) : Option FRec := d.flog.find? (·.seq == v)

/-! ### Codes -/

/-- Table — Boot states (R59). -/
def BootSt.code : BootSt → Nat
  | .reset => 0 | .rom => 1 | .recovery => 2 | .powering => 3 | .training => 4 | .joining => 5 | .ready => 6 | .failed => 7

/-- Table — Link states (R164). -/
def LinkSt.code : LinkSt → Nat
  | .dark => 0 | .training => 1 | .up => 2 | .recovering => 3 | .lost => 4

/-- Table — Port states (R555). -/
def PortSt.code : PortSt → Nat
  | .off => 0 | .training => 1 | .linked => 2 | .inService => 3 | .quarantined => 4

/-- Table — Island states (R616). -/
def IslSt.code : IslSt → Nat
  | .off => 0 | .starting => 1 | .active => 2 | .closing => 3

/-- Table — Region states (R602). -/
def RegSt.code : RegSt → Nat
  | .unregistered => 0 | .open_ => 1 | .awaiting => 2 | .sealed => 3

/-- Table — Job states (R528). -/
def JobSt.code : JobSt → Nat
  | .none => 0 | .open_ => 1 | .restarting => 2 | .signed => 3

/-- Table — Thatch array states (R502). -/
def ASt.code : ASt → Nat
  | .unshadowed => 0 | .seating => 1 | .seated => 2 | .calibrating => 3 | .retired => 4

/-! ### Selections -/

/-- The array that th_select names: thatch_base while nothing is written (R509). -/
def Dev.thSel (d : Dev) (n : Nat) : Nat := if d.od (0x2710 + n) 1 < 0x10000 then d.od (0x2710 + n) 1 else (d.bay n).held.thatch.base

/-- The Spar that spar_select names, if the Bay has one (R340). -/
def Dev.sparSel (d : Dev) (n : Nat) : Option Nat :=
  let r := (d.bay n).held.spar
  if d.od (0x2910 + n) 2 < r.count then some (r.base + d.od (0x2910 + n) 2) else none

/-- flash_base: core_base while nothing is written (R445, R450). -/
def Dev.flashBase (d : Dev) (n : Nat) : Nat := if d.od (0x2810 + n) 2 < 0x10000 then d.od (0x2810 + n) 2 else d.od (0x2100 + n) 0xA

/-! ### Readings of chapters 02 to 04 -/

/-- The hottest of some sensors; 0 °C where none has been read. -/
def hottest (m : SMap Int) : Int := match m with | [] => 0 | c :: r => r.foldl (fun t x => max t x.2) c.2

/-- error_register (R105, R130): a fault of class `JOB` or worse is open while a Bay is `FAULTED` or one of its queues is `HALTED`
(DESIGN CHOICE, log entry 37). -/
def Dev.errorRegister (d : Dev) : Nat :=
  b2n (bays16.any (fun n => (d.bay n).st == .faulted) || d.queues.any (fun c => c.2.st == .halted)) +
  4 * b2n (d.loops.sense.any fun c => c.2 != 0) + 8 * b2n (d.throttling || d.board.thermTrip) + 16 * b2n (d.board.busOff.any (·.2)) +
  d.od 0x1001 0 / 128 % 2 * 128

/-- Readings at the board edge (R57): the straps, the set-point, the temperatures; a sense reading while its rail's sense state is latched
(R636). Other sense readings are measured, and open: the caller gives a free value. -/
def Dev.valBoard (d : Dev) (base sub : Nat) : Option Nat :=
  let r := d.board.strapRaw.toNat
  if base = 0x2E00 then
    match sub with
    | 1 => some r | 2 => some d.attachMode | 3 => some d.canNode | 4 => some (bits r 9 9) | 5 => some (bits r 10 10)
    | 6 => some (bits r 22 11) | 7 => some d.board.unstable.toNat | 8 => some d.board.notes.toNat | _ => none
  else if base = 0x2E01 then
    (if sub = 1 then some d.loops.coreMv else if 2 ≤ sub && sub ≤ 4 && smGet 0 d.loops.sense (sub - 2) != 0 then some 0xFFFF else none)
  else if base = 0x2E02 then
    match sub with
    | 1 => some (ofInt 16 (hottest d.board.islandTemp)) | 4 => some (ofInt 16 (hottest d.board.hbmTemp))
    | 5 => some (b2n d.board.thermTrip) | _ => none
  else none

/-- Readings of the boot state, the server and the store (R91, R130). A journal_record whose number has been overwritten in the ring since it was
selected reads as zeros (R120; DESIGN CHOICE, log entry 37). -/
def Dev.valBoot (d : Dev) (base sub : Nat) : Option Nat :=
  if base = 0x1001 then some d.errorRegister
  else if base = 0x1018 then (if sub = 4 then some Config.serial else none)
  else if base = 0x2001 then
    match sub with
    | 1 => some d.boot.st.code | 2 => some d.boot.slot | 5 => some d.boot.image.fwVersion | 6 => some d.boot.image.svn
    | 7 => some d.nv.fuseSvn | 8 => some (leNat d.boot.fwDigest) | 9 => some d.boot.readyTime | 0xA => some d.boot.restarts | _ => none
  else if base = 0x2003 then
    match sub with
    | 1 => some d.srv.seq
    | 3 => some (match d.changeAt (d.od 0x2003 2) with | some x => leNat x.bytes | none => 0)
    | _ => none
  else if base = 0x2005 then
    match sub with
    | 1 => some ((flashBank d.nv.flash).map (·.generation) |>.getD 0)
    | 2 => some ((flashBank d.nv.flash).map bankFree |>.getD 0)
    | _ => none
  else none

/-! ### Readings of a Bay's entries -/

/-- hold_remaining, in whole milliseconds rounded up (R156). -/
def Dev.holdLeft (d : Dev) (e : Env) (n : Nat) : Nat :=
  let b := d.bay n
  match b.hold with
  | some t => if b.st == .parked || (b.st == .draining && !b.toFree) then cdiv (t - e.time) 1000000 else 0
  | none => 0

/-- cq_state (R373). -/
def Dev.cqState (d : Dev) (n q : Nat) : Nat :=
  let x := d.queue n q
  let run := x.cmds.filter (·.ph != .fetched)
  -- the next command waits for those before it
  let next := if run.isEmpty then none else x.cmds.find? (·.ph == .fetched)
  let at_ (p : Cmd → Bool) : Bool := run.any p || next.any p
  let why := if x.st == .disabled then 0 else if run.any (·.op == 2) then 1 else if at_ (·.op == 4) then 2
    else if run.any (fun c => opBarrier c.op) || next.any (fun c => opBarrier c.op || c.flag 2) then 3 else (d.blocked n q).getD 0
  (match x.st with | .disabled => 0 | .active => 1 | .halted => 2) + 4 * why + 32 * b2n x.job.isSome

/-- Readings of a Bay's entries in chapters 05 to 12. -/
def Dev.valBay (d : Dev) (e : Env) (base n sub : Nat) : Option Nat :=
  match base with
  | 0x2100 => match sub with | 1 => some (d.bayState n) | 5 => some (d.ownerLink n) | 0x32 => some (d.holdLeft e n) | _ => none
  | 0x2310 => if sub = 0xF then some (d.trans.tlb.filter (·.bay == n)).length else none
  | 0x2330 => if sub = 4 then some (d.trans.halts.filter (·.bay == n)).length
    else if sub = 5 then some (d.trans.prgs.filter (·.bay == n)).length else none
  | 0x2410 => if sub = 2 then some (d.ridge.dir.filter fun c => c.2.any (·.bay == n)).length else none
  | 0x2420 => if sub = 3 then some (d.ridge.proxy.filter (·.2.bay == n)).length else none
  | 0x2680 =>
    if 0x79 ≤ sub then none else
    let x := d.queue n (sub / 16)
    match sub % 16 with
    | 5 => some (d.cqState n (sub / 16)) | 6 => some (x.fe.toNat + 2 ^ 32 * x.fr.toNat) | 7 => some x.p.toNat | 8 => some x.error | _ => none
  | 0x2910 =>
    match d.sparSel n with
    | some s =>
      let x := d.spar s
      match sub with | 3 => some x.value.toNat | 4 => some x.thresh.toNat | 5 => some x.ctl | _ => none
    | none => if 3 ≤ sub && sub ≤ 5 then some 0 else none
  | _ => none

/-- The entries of the selected Gutter channel or Course (R395, R424); zeros of one that the Bay does not hold (R148; DESIGN CHOICE, log entry 37). -/
def Dev.valMove (d : Dev) (e : Env) (base n sub : Nat) : Option Nat :=
  if base = 0x2510 then
    let c := d.gtSel n
    let g := d.gutter c
    if 2 ≤ sub && sub ≤ 6 && !((d.bay n).held.hasGutter c) then some 0 else
    match sub with
    | 1 => some c | 2 => some (d.gtStat c) | 3 => some g.desc | 4 => some g.pos | 5 => some g.addr | 6 => some g.crc | _ => none
  else
    let c := d.csSel n
    let x := d.course c
    if 2 ≤ sub && sub ≤ 0xE && !((d.bay n).held.course.has c) then some 0 else
    match sub with
    | 1 => some c | 2 => some (d.csStat c) | 3 => some x.pos | 4 => some x.addr
    | 5 => some (if x.loads.isEmpty then 0 else cRate x.hdr)
    | 6 => some x.misses | 7 => some x.overruns
    | _ => if 8 ≤ sub && sub ≤ 0xE then some (x.stallNs e.time (sub - 7))
           else if 0x10 ≤ sub && sub ≤ 0x13 then some (d.bayAdmitted n (sub - 0x10)) else none

/-- The entries of the selected array (R509); zeros of one that the Bay does not hold (DESIGN CHOICE, log entry 37). -/
def Dev.valArray (d : Dev) (n sub : Nat) : Option Nat :=
  let a := d.thSel n
  let x := d.arr a
  let p := x.pair (d.od (0x2710 + n) 0x10)
  if 2 ≤ sub && sub ≤ 0x11 && sub != 0x10 && !((d.bay n).held.thatch.has a) then some 0 else
  match sub with
  | 1 => some a | 2 => some (x.st.code + 8 * b2n (x.pairs.any fun c => c.2.trimming)) | 3 => some x.set | 4 => some x.shadow
  | 5 => some (leNat x.digest) | 6 => some (smGet 0 d.nv.seats a) | 7 => some (64 - x.sparesUsed) | 8 => some x.evals | 9 => some x.sinceCal
  | 0xA => some x.calLast | 0xB => some (ofInt 16 x.calTemp) | 0xC => some x.calRuns | 0xD => some x.calOverruns | 0xE => some x.tvMisses
  | 0xF => some x.trims
  | 0x11 => some (p.residual % 65536 + 65536 * p.spare.getD 0 + 2 ^ 22 * b2n p.spare.isSome + 2 ^ 23 * b2n p.trimming)
  | _ => none

/-- The entries of a Bay's regions and journal (R552, R611). -/
def Dev.valJob (d : Dev) (base n sub : Nat) : Option Nat :=
  if base = 0x2A60 then
    let x := d.region n (d.od (0x2A60 + n) 1)
    match sub with
    | 2 => some x.base | 3 => some x.ctl | 4 => some x.spar | 5 => some x.st.code | 6 => some x.arrived
    | 7 => some (if x.st == .awaiting then (x.pages.filter fun c => 4096 ≤ c.2).length else 0)
    | _ => none
  else
    let j := d.jour n
    match sub with
    | 5 => some j.w | 6 => some (if j.faulted then 2 else if j.heldRecs.isEmpty then 0 else 1) | 7 => some (d.heldBytes n)
    | 0xA => some j.st.code | 0xB => some j.id | 0xC => some j.attempt | _ => none

/-! ### Readings of the device's entries -/

/-- The host link (R186). -/
def Dev.valLink (d : Dev) (sub : Nat) : Option Nat :=
  let l := d.link
  match sub with
  | 1 => some (Config.pciVendorId % 65536) | 2 => some l.st.code
  | 3 => some (if l.st == .up then l.rate else 0) | 4 => some (if l.st == .up then l.width else 0)
  | 5 => some (b2n l.flit) | 6 => some l.cxl | 0xC => some l.violSeq
  | 0xE => some (match d.violAt (d.od 0x2200 0xD) with | some x => leNat x.bytes | none => 0)
  | 0xF => some l.barSize
  | 0x11 => some (l.ide.filter fun c => c.2.isSome).length
  | _ => none

/-- Resources and engines (R424, R450). -/
def Dev.valRes (d : Dev) (base sub : Nat) : Option Nat :=
  if base = 0x2600 then
    let r := d.od 0x2600 5
    match sub with
    | 6 => some (d.resNominal r) | 7 => some (d.resDerate r) | 8 => some (d.resAdmitted r)
    | 9 => some (b2n (d.arb r).proportional) | 0xA => some (d.arb r).switches | 0xB => some (resLatency r) | _ => none
  else
    let g := d.od 0x2800 7
    let x := d.engine g
    match sub with
    | 8 => some ((if x.reserved then 2 else if d.engFree g then 0 else 1) +
        16 * ((x.queue.length + (d.digestsOn g).length - b2n (d.digestAt g).isSome) / 2 % 16))
    | 9 => some x.ops
    | _ => none

/-- The fabric and its ports (R592). -/
def Dev.valFabric (d : Dev) (base p sub : Nat) : Option Nat :=
  let f := d.fabric
  if base = 0x2A00 then
    match sub with
    | 1 => some (f.id.getD 0xFFFF) | 3 => some f.fm | 8 => some (smGet 0 f.routes (d.od 0x2A00 7)) | 0xD => some f.ptpState
    | 0xE => some f.ptpPort | 0xF => some (ofInt 64 f.ptpOffset) | 0x10 => some (ofInt 32 f.ptpRate) | _ => none
  else
    let x := d.port p
    match sub with
    | 3 => some x.st.code
    | 4 => some (x.nbId % 4096 + 4096 * (x.nbPort % 16) + 2 ^ 16 * b2n x.nbValid + 2 ^ 17 * b2n x.nbAssigned)
    | 0xB => some (leNat d.macBytes)
    | _ => none

/-- Islands, domains and scrubs (R649). -/
def Dev.valIsland (d : Dev) (base sub : Nat) : Option Nat :=
  if base = 0x2B00 then
    (if sub = 8 then some (smGet 0 d.loops.sense 0 + 4 * smGet 0 d.loops.sense 1 + 16 * smGet 0 d.loops.sense 2) else none)
  else if base = 0x2B01 then
    let x := d.domain (d.od 0x2B01 1)
    match sub with | 2 => some x.mv | 3 => some x.request | 4 => some x.override | _ => none
  else if base = 0x2B02 then
    let i := d.od 0x2B02 1
    let x := d.island i
    match sub with
    | 2 => some (x.st.code + 128 * b2n x.retraining) | 4 => some (d.eff (d.od 0x2B02 1)) | 5 => some x.override
    | 6 => some (ofInt 16 (smGet 0 d.board.islandTemp i)) | 7 => some (ofInt 16 x.slack) | 8 => some x.closes | 9 => some x.gone
    | 0xA => some x.retry | 0xB => some x.dropped | 0xC => some x.retrains | 0xD => some x.overruns | 0xE => some x.stretches
    | 0xF => some (islandDomain i) | _ => none
  else
    let x := d.scrub (d.od 0x2B03 2)
    match sub with
    | 4 => some (b2n x.running + 2 * b2n x.latched + 4 * b2n x.paused) | 5 => some x.passes | 6 => some x.overruns | _ => none

/-- The replay key and the fault log (R552, R675). -/
def Dev.valLog (d : Dev) (base n sub : Nat) : Option Nat :=
  match base with
  | 0x2C00 => match sub with | 2 => some (leNat (ecdsaPublic Config.replayKey)) | 4 => some d.nonce | 5 => some d.jseq | _ => none
  | 0x2D00 => match sub with
    | 1 => some d.flogSeq
    | 3 => some (match d.faultAt (d.od 0x2D00 2) with | some x => leNat x.bytes | none => 0)
    | _ => none
  | 0x2D10 => if sub = 6 then some (match d.faultAt (d.od (0x2D10 + n) 5) with
      | some x => if x.bay = n then leNat x.bytes else 0
      | none => 0) else none
  | _ => none

/-- The number that an entry's bytes stand for, where the entry shows state of the device; none where it holds what was written or
counted. `base`, `n`: the family of the index and the object number (R677). -/
def Dev.valLive (d : Dev) (e : Env) (base n sub : Nat) : Option Nat :=
  if 0x2E00 ≤ base then d.valBoard base sub
  else if base < 0x2100 then d.valBoot base sub
  else if base = 0x2200 then d.valLink sub
  else if base = 0x2401 then (if sub = 0x13 then some (b2n d.ridge.cellBusy) else none)
  else if base = 0x2510 || base = 0x2610 then d.valMove e base n sub
  else if base = 0x2600 || base = 0x2800 then d.valRes base sub
  else if base = 0x2710 then d.valArray n sub
  else if base = 0x2810 then (if sub = 2 then some (d.flashBase n) else none)
  else if base = 0x2A00 || base = 0x2A20 then d.valFabric base n sub
  else if base = 0x2A60 || base = 0x2C10 then d.valJob base n sub
  else if 0x2B00 ≤ base && base < 0x2C00 then d.valIsland base sub
  else if base = 0x2C00 || 0x2D00 ≤ base then d.valLog base n sub
  else d.valBay e base n sub

/-- The reading of a sense pair that is not latched is measured: a free value (DESIGN CHOICE, log entry 2). -/
def Dev.isMeasured (d : Dev) (idx sub : Nat) : Bool := idx == 0x2E01 && 2 ≤ sub && sub ≤ 4 && smGet 0 d.loops.sense (sub - 2) == 0

/-- An entry is read: its bytes, captured at one tick (R93). -/
def Dev.odBytes (d : Dev) (e : Env) (t : Ent) (idx sub : Nat) : List Byte × Dev :=
  if t.ty == .dom then (Config.replayCert, d)
  else if d.isMeasured idx sub then (leBytes t.ty.size (d.draw.1), d.draw.2)
  else (leBytes t.ty.size ((d.valLive e t.base (idx - t.base) sub).getD (d.od idx sub)), d)

end Sys2Proof.Machine
end

