-- ==== Sys2Proof/Machine/Boot.lean ====
section
/-! DEFINITION. Boot states, images and the flash (chapter 03), and the part of the dictionary server that a change of firmware
touches: the journal of changes and the transfers under way (R59 to R76, R87, R89, R114 to R124). -/
namespace Sys2Proof.Machine

/-! ### Images (R64, R65, R69) -/

/-- Header bytes 0x000 to 0x0FF of an image (Table — Image header); `reserved` holds the reserved bytes in order of offset. -/
def imageHeader (i : Image) : List Byte :=
  leBytes 4 i.magic ++ leBytes 2 i.hdrVersion ++ leBytes 1 i.keyIndex ++ leBytes 1 i.reserved ++ leBytes 4 i.svn ++ leBytes 4 i.fwVersion ++
  leBytes 4 i.mLen ++ leBytes 4 i.dLen ++ leBytes 8 (i.reserved / 2 ^ 8) ++ fit 96 i.pubkey ++ fit 48 i.mHash ++ fit 48 i.dHash ++
  leBytes 32 (i.reserved / 2 ^ 72)

/-- The firmware digest of an image (R69). -/
def imageDigest (i : Image) : List Byte := sha384 (imageHeader i)

/-- An image as its bytes stand in a download, header first (R64). -/
def imageOf (bs : List Byte) : Image :=
  let m := fld bs 0x10 4
  { magic := fld bs 0 4
    hdrVersion := fld bs 4 2
    keyIndex := fld bs 6 1
    reserved := fld bs 7 1 + 2 ^ 8 * fld bs 0x18 8 + 2 ^ 72 * fld bs 0xE0 32
    svn := fld bs 8 4
    fwVersion := fld bs 0xC 4
    mLen := m
    dLen := fld bs 0x14 4
    pubkey := (bs.drop 0x20).take 96
    mHash := (bs.drop 0x80).take 48
    dHash := (bs.drop 0xB0).take 48
    sig := (bs.drop 0x100).take 96
    mBytes := (bs.drop 0x1000).take m
    dBytes := (bs.drop (0x1000 + cdiv m 4096 * 4096)).take (fld bs 0x14 4) }

/-- An image as its bytes stand in a download, header first (R64). -/
def imageBytes (i : Image) : List Byte :=
  imageHeader i ++ fit 96 i.sig ++ zeros 0xEA0 ++ fit (cdiv i.mLen 4096 * 4096) (fit i.mLen i.mBytes) ++ fit i.dLen i.dBytes

/-- The cause of the first of checks 3 to 8 that an image fails (Table — Image checks). -/
def Dev.imageBad (d : Dev) (i : Image) : Option Nat :=
  if i.magic != 0x08801A6E || i.hdrVersion != 1 then some 3
  else if i.mLen < 0x1000 || 0x100000 < i.mLen || i.dLen < 0x1000 || 0x400000 < i.dLen || i.reserved != 0 then some 4
  else if 3 < i.keyIndex || bit d.nv.revoked.toNat i.keyIndex || sha384 (fit 96 i.pubkey) != smGet [] d.nv.keyHash i.keyIndex then some 5
  else if !(ecdsaVerify (fit 96 i.pubkey) (imageHeader i) (fit 96 i.sig)) then some 6
  else if i.svn < d.nv.fuseSvn then some 7
  else if sha384 (fit i.mLen i.mBytes) != fit 48 i.mHash then some 8
  else none

/-- The digest of the D section does not match: cause 9. -/
def imageDBad (i : Image) : Bool := sha384 (fit i.dLen i.dBytes) != fit 48 i.dHash

/-- The cause of the first of checks 3 to 9 that an image fails (R71, R121). -/
def Dev.imageBadAll (d : Dev) (i : Image) : Option Nat :=
  match d.imageBad i with
  | some c => some c
  | none => if imageDBad i then some 9 else none

/-! ### Transfers under way (R101 to R104, R113) -/

/-- A USDO transfer open on a port. -/
def Dev.usdo (d : Dev) (p : Nat) : Option Xfer := smGet none d.srv.usdo p
def Dev.setUsdo (d : Dev) (p : Nat) (x : Option Xfer) : Dev := { d with srv := { d.srv with usdo := smSet none d.srv.usdo p x } }

/-- The transfer open on a port is aborted; a write that it carried is journaled with the status (R74, R103, R119, R123). -/
def Dev.usdoAbort (d : Dev) (e : Env) (p : Fin 2) (st : Status) : Dev :=
  match d.usdo p with
  | none => d
  | some x =>
    let d := (d.setUsdo p none).odAnswer (.can p) st (abortOf st) []
    if x.write then d.journalChange e (.can p) x.idx x.sub st 0 else d

/-- Every transfer by USDO that is open is aborted with 0x0800_0021 (R74, R123). -/
def Dev.usdoAbortAll (d : Dev) (e : Env) : Dev := (d.usdoAbort e 0 .retry).usdoAbort e 1 .retry

/-- The DOMAIN transfer open through a window is discarded, and journaled with the status under the route of its last chunk (R113, R119). -/
def Dev.winDiscard (d : Dev) (e : Env) (fn : Nat) (st : Status) (dropped : Bool) : Dev :=
  let w := d.win fn
  match w.xfer with
  | none => d
  | some x => (d.setWin fn { w with xfer := none, dropped := dropped }).journalChange e x.route x.idx x.sub st 0

/-- Every DOMAIN transfer open through a window is discarded (R123). -/
def Dev.winDiscardAll (d : Dev) (e : Env) : Dev :=
  (List.range 17).foldl (fun d fn => d.winDiscard e fn .retry false) d

/-! ### Return to `ROM` (R63, R67, R70, R76, R82, R87, R89) -/

/-- CAN_NODE is not 0. -/
def Dev.canOn (d : Dev) : Bool := d.canNode != 0

/-- BOOT_SRC asks for the recovery boot, and an image can come (R38, R70). -/
def Dev.bootSrc (d : Dev) : Bool := bit d.board.strapRaw.toNat 9

/-- The boot watchdog pauses (R86). -/
def Dev.pauseWatchdog (d : Dev) (e : Env) : Dev :=
  match d.boot.watchdog with
  | some t => { d with boot := { d.boot with watchdog := none, watchdogLeft := t - e.time } }
  | none => d

/-- The device enters `RECOVERY` (R66, R70, R86). -/
def Dev.toRecovery (d : Dev) (e : Env) : Dev :=
  let d := d.pauseWatchdog e
  { d with boot := { d.boot with st := .recovery, tries := [] } }

/-- The device enters `FAILED`: the rails are released, and PF vector 1 tells of it (R66, R75, R86, R175). A fault of class
`DEVICE` raises the vector itself: `fault` says that one is recorded. -/
def Dev.toFailed (d : Dev) (fault : Bool) : Dev :=
  let d := { d with
    board := { d.board with mainPwrReq := false }
    boot := { d.boot with st := .failed, pgDeadline := none, watchdog := none, waitPgLow := false, tries := [] } }
  (if fault then d else d.raisePf 1).portsMove

/-- A fault of class DEVICE of the board or of power (R52, R75, R76, R86, R89). Chapters 02 and 03 give their causes no code. -/
def Dev.boardFault (d : Dev) (island object : Nat) : Dev :=
  d.fault .device 0xFF { status := .fault, source := 0xD, island := island, object := object }

/-- Both slots have failed (R66). -/
def Dev.noImage (d : Dev) (e : Env) : Dev := if d.canOn then d.toRecovery e else d.toFailed false

/-- What the main rails held is gone: every block but islands 348 and 349 is as at reset, and no Bay survives (R52, R82, R84;
DESIGN CHOICE, log entry 38). The flash, the fuses, the journals, the logs and the dictionary's other values stand. -/
def Dev.unpower (d : Dev) : Dev :=
  let own (idx : Nat) : Bool := bays16.any fun n => n ≤ idx && bayFamilies.contains (idx - n)
  let z : Dev := {}
  let i (k : Nat) : Island := d.island k
  { z with
    nv := d.nv
    board := d.board
    boot := { d.boot with trained := [], trainFails := [], zeroed := false, dOk := false }
    srv := { d.srv with od := d.srv.od.filter fun c => !(own (c.1 / 256) || c.1 / 256 == 0x2201) }
    link := { z.link with viol := d.link.viol, violSeq := d.link.violSeq }
    fabric := { z.fabric with id := d.fabric.id, fm := d.fabric.fm, fmId := d.fabric.fmId, nextTn := d.fabric.nextTn }
    loops := { z.loops with islands := [(348, i 348), (349, i 349)] }
    jseq := d.jseq
    nonce := d.nonce
    flog := d.flog
    flogSeq := d.flogSeq
    out := d.out
    free := d.free
    signerFailed := d.signerFailed
    faults := d.faults
    stores := [MemOp.zero 0 (2 ^ 64)] ++ d.stores }

/-- The Eave, the host link, the ports and islands 0 to 347 lose their power (R35, R52, R85; DESIGN CHOICE, log entry 50). -/
def Dev.railsGone (d : Dev) : Dev :=
  let l := d.link
  let z : Link := {}
  { d with
    board := { d.board with eaveReady := false, throttled := [] }
    link := { z with viol := l.viol, violSeq := l.violSeq, nextTag := l.nextTag, aer := l.aer, aerFirst := l.aerFirst, aerLog := l.aerLog }
    fabric := { d.fabric with ports := [], chosen := [] }
    loops := { d.loops with islands := d.loops.islands.map fun (c : Nat × Island) =>
      (c.1, if c.1 < 348 then { c.2 with st := .off, flush := false, retraining := false, latched := false, eligible := none } else c.2) } }

/-! ### Reading the flash (R61 to R64) -/

/-- Bytes of the SFDP space are read, with instruction 0x5A at 12.5 MHz (R61; its eight dummy cycles are those of JESD216: PRESUMED, log
entry 57). -/
def Dev.sfdpRead (d : Dev) (a len : Nat) : Dev := d.send (.spi 0x5A a len 8 12500)

/-- Bytes of the flash are read, with the 1-1-4 instruction and the dummy cycles that the table advertises, at 100 MHz (R61). -/
def Dev.flashRead (d : Dev) (a len : Nat) : Dev := let r := d.nv.flash.fastRead; d.send (.spi r.1 a len r.2 100000)

/-- The ROM reads the SFDP header and the basic parameter table, and, where they let it, the two directory copies (R61, R63). -/
def Dev.readFlash (d : Dev) : Dev :=
  let f := d.nv.flash
  let d := (d.sfdpRead 0 16).sfdpRead f.sfdpTable (4 * flashField f.sfdp 0xB 1)
  if f.sfdpOk then (d.flashRead (flashDirAt 0) 24).flashRead (flashDirAt 1) 24 else d

/-- The ROM reads the header of the slot it tries, and the M section that streams in behind a header whose checks pass (R64, R65). -/
def Dev.readSlot (d : Dev) : Dev :=
  match (d.nv.flash.sfdpOk, d.boot.tries) with
  | (true, k :: _) =>
    let i := flashSlot d.nv.flash k
    let d := d.flashRead (flashSlotAt k) 0x160
    match d.imageBad i with
    | none => d.flashRead (flashSlotAt k + 0x1000) i.mLen
    | some c => if c = 8 then d.flashRead (flashSlotAt k + 0x1000) i.mLen else d
  | _ => d

/-- The slots to try, in order (R63). With no valid directory copy slot A is still checked, and may boot: cause 2 stands recorded against it
until a check of it fails and records another (DESIGN CHOICE, log entry 39). -/
def Dev.romSlots (d : Dev) : Dev :=
  let d := d.readFlash
  (match flashDir d.nv.flash with
  | some c => { d with boot := { d.boot with tries := [c.active % 2, 1 - c.active % 2] } }
  | none => ({ d with boot := { d.boot with tries := [0, 1] } } : Dev).setOd 0x2001 3 2).readSlot

/-- The nominal and the data-phase rate of both CAN FD ports from now on; with CAN_NODE = 0 no rate is in force (R73, R74, R129). -/
def Dev.setRates (d : Dev) (nominal data : Nat) : Dev :=
  { d with srv := { d.srv with nominal := if d.canOn then nominal else 0, dataRate := if d.canOn then data else 0 } }

/-- A waiting request ends unserved with a status: its answer, and the change record of a write (R100, R119). -/
def Dev.endRequest (d : Dev) (e : Env) (st : Status) (r : Req) : Dev :=
  (if r.op = .read then d else d.journalChange e r.route r.idx r.sub st 0).odAnswer r.route st (abortOf st) []

/-- Every request that waits at the server ends with a status, and the save that runs (R73, R128). -/
def Dev.endRequests (d : Dev) (e : Env) (st : Status) : Dev :=
  let rs := d.srv.reqs
  let sv := d.srv.saving
  let d := rs.foldl (fun d r => d.endRequest e st r) ({ d with srv := { d.srv with reqs := [], saving := none } } : Dev)
  match sv with
  | some x => d.endRequest e st { route := x.1, op := .write, idx := 0x1010, sub := 1 }
  | none => d

/-- The restricted server of the ROM runs on both CAN FD ports, at 500 kbit/s and 2 Mbit/s (R73). -/
def Dev.romCan (d : Dev) : Dev :=
  ({ d with boot := { d.boot with firmware := false, restricted := d.canOn } } : Dev).setRates 500 2000

/-- The server goes to the ROM: requests under way end with `RETRY`, and only the restricted server answers (R73; DESIGN CHOICE, log entry 38). -/
def Dev.romServer (d : Dev) (e : Env) : Dev :=
  let d := (((d.endRequests e .retry).usdoAbortAll e).winDiscardAll e)
  (({ d with srv := { d.srv with activating := false, stageImg := none } } : Dev).romCan).setOd 0x2004 2 0

/-- The device returns to `ROM` with the latched straps, the rails down (R67, R87). `tries`: the other slot, after a D section that
failed; none: as at a first boot. -/
def Dev.toRom (d : Dev) (e : Env) (tries : Option (List Nat)) : Dev :=
  let d := (d.unpower).romServer e
  let d := { d with boot := { d.boot with st := .rom, restarts := d.boot.restarts + 1, waitPgLow := false } }
  match tries with
  | some l => ({ d with boot := { d.boot with tries := l } } : Dev).readFlash.readSlot
  | none =>
    let d := { d with boot := { d.boot with dFails := 0, watchdog := some (e.time + 900000000) } }
    if d.bootSrc && d.canOn then d.toRecovery e else d.romSlots

/-- `MAIN_PG` is low: a return to `ROM` that waited for it takes place (R67, R87). -/
def Dev.romIfDown (d : Dev) (e : Env) : Dev :=
  if !d.boot.waitPgLow || d.board.mainPg then d
  else d.toRom e (if d.boot.st == .failed then none else some d.boot.tries)

/-- The restart of R87, after its answer: the rails are released, and the device returns to `ROM` once `MAIN_PG` is low. -/
def Dev.bootRestart (d : Dev) (e : Env) : Dev :=
  if d.boot.st != .failed then d else
  ({ d with board := { d.board with mainPwrReq := false }, boot := { d.boot with waitPgLow := true } } : Dev).romIfDown e

/-! ### Starting an image (R59, R69, R75, R90) -/

/-- The islands that `TRAINING` powers, by attach mode: the fabric ports' in modes 01 and 10, the Eave's link, Skylights and proxy cache in modes
00 and 10 (R76; what mode 01 leaves of the Eave: DESIGN CHOICE, log entry 38). -/
def powersIsland (mode i : Nat) : Bool :=
  if 332 ≤ i && i < 344 then mode != 0
  else if i = 326 || i = 328 || i = 331 then mode != 1
  else Nat.blt i 348

/-- The main rails are in range: the device enters `TRAINING`, the islands of its attach mode start, and the D section of a slot is read (R59, R64,
R76, R616). -/
def Dev.toTraining (d : Dev) (e : Env) : Dev :=
  let d := { d with boot := { d.boot with st := .training, pgDeadline := none } }
  let i := d.boot.image
  let d := if d.boot.slot < 2 then d.flashRead (flashSlotAt d.boot.slot + 0x1000 + cdiv i.mLen 4096 * 4096) i.dLen else d
  (((List.range 348).filter (powersIsland d.attachMode)).foldl (fun d k => d.wakeIsland e k) d).portsMove

/-- An image that has passed its checks starts: its M section runs as the management firmware, the main rails are asked for
(R59, R69, R75, R86). `slot`: 0 A, 1 B, 2 recovery. -/
def Dev.startImage (d : Dev) (e : Env) (i : Image) (slot : Nat) : Dev :=
  let b := d.boot
  let wd := if b.st == .recovery then some (e.time + b.watchdogLeft) else b.watchdog
  let d := { d with
    board := { d.board with mainPwrReq := true }
    boot := { b with st := .powering, slot := slot, image := i, fwDigest := imageDigest i, pgDeadline := some (e.time + 100000000), watchdog := wd } }
  if d.board.mainPg then d.toTraining e else d

/-- A slot has failed with a cause (R65, R66). -/
def Dev.slotFail (d : Dev) (e : Env) (k cause : Nat) : Dev :=
  let d := d.setOd 0x2001 (3 + k) cause
  let l := d.boot.tries.drop 1
  let d := { d with boot := { d.boot with tries := l } }
  if l.isEmpty then d.noImage e else d.readSlot

/-! ### Staging and activation (R117, R118, R121 to R124) -/

/-- The slot that did not boot; slot A after a recovery boot (R121; DESIGN CHOICE, log entry 39). -/
def Dev.stageSlot (d : Dev) : Nat := if d.boot.slot = 0 then 1 else 0

/-- The status that refuses an activation, if one does (R122). -/
def Dev.activateBad (d : Dev) : Option Status :=
  let open_ := bays16.any fun n => d.strict n && d.inJob n
  match d.srv.stageImg with
  | some i => if d.od 0x2004 2 = 2 && fit 48 i.dHash == fit 48 d.boot.image.dHash && !open_ then none else some .state
  | none => some .state

/-- The stored entries, as index and subindex (R96, R678). -/
def storedEntries : List (Nat × Nat) :=
  ((entries.filter (·.stored)).map fun t => ((List.range t.fam).map fun k =>
    ((List.range ((t.hi - t.lo) / t.stride + 1)).map fun j => (t.base + k, t.lo + j * t.stride))).flatten).flatten

/-- A record of an entry's present value. -/
def Dev.storeRec (d : Dev) (x : Nat × Nat) : StoreRec := ⟨x.1, x.2, 1, leBytes (odSize x.1 x.2) (d.od x.1 x.2)⟩

/-- The flash as a save command leaves it: a record more for each stored entry whose value is not that of its latest record, or, with none, not
its default; where the bank in use has no room, or ends in a torn record, the other bank with every stored entry (R117, R118; DESIGN CHOICE, log
entry 39). -/
def Dev.savedFlash (d : Dev) : Flash :=
  let f := d.nv.flash
  let latest (x : Nat × Nat) : List Byte := match (flashBank f).bind fun b => latestRec b x.1 x.2 with
    | some r => r.value
    | none => leBytes (odSize x.1 x.2) (odDefault x.1 x.2)
  let new := (storedEntries.filter fun x => (d.storeRec x).value != latest x).map d.storeRec
  if new.isEmpty then f else
  match flashBank f with
  | some b => if !b.torn && (new.map recSize).sum ≤ bankFree b then appended f new else compacted f (storedEntries.map d.storeRec)
  | none => compacted f (storedEntries.map d.storeRec)

/-- A save has written and read back its last record (R117). -/
def Dev.saveBanks (d : Dev) (b0 b1 : List Byte) : Dev :=
  { d with nv := { d.nv with flash := { d.nv.flash with bank0 := b0, bank1 := b1 } } }

/-- The save command, written and read back (R117, R118). -/
def Dev.saveAll (d : Dev) : Dev := d.saveBanks d.savedFlash.bank0 d.savedFlash.bank1

/-- FW_STAGE_END (R121): the image is checked, written and named by a directory copy, or has failed. Cause 10 stands for a flash that
does not answer. -/
def execFwStageEnd (flashOk : Bool) (s : State) : Outc :=
  s.go fun _ d =>
    match d.srv.stageImg with
    | none => d
    | some i =>
      if d.od 0x2004 2 != 1 then d else
      match (d.imageBadAll i, flashOk) with
      | (some c, _) => (d.setOd 0x2004 2 3).setOd 0x2004 3 c
      | (none, false) => (d.setOd 0x2004 2 3).setOd 0x2004 3 10
      | (none, true) => ((({ d with nv := { d.nv with flash := stagedFlash d.nv.flash d.stageSlot i } } : Dev).setOd 0x2004 2 2).setOd 0x2004 3 0).setOd 0x2004 6 i.fwVersion

end Sys2Proof.Machine
end

