-- ==== Sys2Proof/Machine/Dict.lean ====
section
/-! DEFINITION. The dictionary server (chapter 04): rights, the checks of a request in their order, the ranges of values, the states
that accept a write, what a write does, and the service of requests (R92 to R114, R119, R535, R680, R681). -/
namespace Sys2Proof.Machine

/-! ### Whose an entry is, and who may touch it (R98, R535, R572) -/

/-- The Bay to whose index ranges an entry belongs (R98, R171, R677). -/
def entBay (t : Ent) (idx sub : Nat) : Option Nat :=
  if t.base = 0x2201 then (if 1 ≤ sub && sub ≤ 16 then some (sub - 1) else none)
  else if bayFamilies.contains t.base then some (idx - t.base) else none

/-- The core island that an entry of the selected island names (R649). -/
def Dev.entCore (d : Dev) (t : Ent) (sub : Nat) : Option Nat :=
  if t.base = 0x2B02 && 2 ≤ sub && d.od 0x2B02 1 < 256 then some (d.od 0x2B02 1) else none

/-- The Bay whose object an entry is: the Bay of the index range, or the holder of the core named (R17, R535). -/
def Dev.objBay (d : Dev) (t : Ent) (idx sub : Nat) : Option Nat :=
  match entBay t idx sub with
  | some n => some n
  | none => (d.entCore t sub).bind fun c => d.holder (·.core) c

/-- The Bay whose journal a write to an entry concerns: that of its object, but for the journal's own entries (R535). -/
def Dev.journalBay (d : Dev) (t : Ent) (idx sub : Nat) : Option Nat := if t.base = 0x2C10 then none else d.objBay t idx sub

/-- Table — Access rights, for principal `bay n` (R98). -/
def Dev.bayRight (d : Dev) (t : Ent) (idx sub n : Nat) (read : Bool) : Bool :=
  if idx < 0x2000 then read
  else if idx < 0x2100 then read && idx < 0x2002
  else match entBay t idx sub with
    | some m => m = n && (read || t.bayW)
    | none => read && t.base != 0x2320 && t.base != 0x2D00 &&
      (match d.entCore t sub with | some c => (d.bay n).held.core.has c | none => true)

/-- The right of a route's principal (R98, R572). -/
def Dev.right (d : Dev) (rt : Route) (t : Ent) (idx sub : Nat) (read : Bool) : Bool :=
  match rt with
  | .can _ => true | .pf => true | .fabPf => true
  | .bay n => d.bayRight t idx sub n read
  | .fabBay n => d.bayRight t idx sub n read

/-- The indices that the restricted server answers for, and the PF window before `READY` (R73, R127). -/
def earlyIndex (idx : Nat) : Bool := idx == 0x1000 || idx == 0x1018 || idx == 0x2001 || idx == 0x2E00

/-- The route reaches only the early indices at present (R73, R127). -/
def Dev.earlyOnly (d : Dev) (rt : Route) : Bool :=
  !d.boot.firmware || (match rt with | .can _ => false | _ => d.boot.st != .ready)

/-- Checks 1 to 4 of Table — Request checks: the entry, or the status and abort code (R99). -/
def Dev.odGate (d : Dev) (rt : Route) (read : Bool) (idx sub : Nat) : (Status × Nat) ⊕ Ent :=
  if d.earlyOnly rt && !(earlyIndex idx) then .inl (.state, 0x08000022)
  else if !(indexExists idx) then .inl (.range, 0x06020000)
  else match entryOf idx sub with
    | none => .inl (.range, 0x06090011)
    | some t =>
      if !(d.right rt t idx sub read) then .inl (.access, 0x06010000)
      else if read then (if t.acc == Acc.wo then .inl (.access, 0x06010001) else .inr t)
      else if t.acc == Acc.const || t.acc == Acc.ro then .inl (.access, 0x06010002) else .inr t

/-- The block of an entry has power: the management island's own always, the others once `TRAINING` has ended (R74, R99). -/
def Dev.powered (d : Dev) (idx : Nat) : Bool :=
  idx < 0x2100 || idx == 0x2C00 || idx == 0x2D00 || 0x2E00 ≤ idx || d.boot.st == .joining || d.boot.st == .ready ||
    (d.boot.st == .failed && d.board.mainPg)

/-! ### Check 6: values (R99, R681) -/

/-- A value lies between two bounds. -/
def inR (lo v hi : Nat) : Bool := lo ≤ v && v ≤ hi

/-- Values of the device's own entries, keyed index × 256 + subindex. -/
def Dev.sysValueOk (d : Dev) (k v : Nat) : Bool :=
  match k with
  | 0x101001 => v == 0x65766173
  | 0x101101 => v == 0x64616F6C
  | 0x20010B => v == 1
  | 0x200201 => [125, 250, 500, 1000].contains v
  | 0x200202 => [1000, 2000, 4000, 5000].contains v
  | 0x200203 => inR 50 v 5000
  | 0x200204 => inR 1 v 3
  | 0x200302 => (d.changeAt v).isSome
  | 0x200404 => v == 1
  | 0x200405 => Nat.blt d.nv.fuseSvn v && v ≤ d.boot.image.svn
  | 0x220007 => [1, 4, 8, 16].contains v
  | 0x220008 => [16, 32, 64].contains v
  | 0x22000D => (d.violAt v).isSome
  | 0x220012 => v == 1
  | 0x240009 => inR 100 v 100000
  | 0x240101 => v ≤ 1
  | 0x240102 => v ≤ 15 && d.fabric.id == some (d.od 0x2401 (3 + v))
  | 0x260005 => v ≤ 58
  | 0x280007 => v ≤ 41
  | 0x2A0002 => v ≤ 4095 || v == 0xFFFF
  | 0x2A0005 => inR 1 v 255
  | 0x2A0006 => inR 10 v 60000
  | 0x2A0007 => v ≤ 4095
  | 0x2A0008 => v ≤ 4095
  | 0x2A000C => v ≤ 2
  | 0x2B0003 => v ≤ 63
  | 0x2B0004 => inR 300 v 700
  | 0x2B0005 => v ≤ 1
  | 0x2B0101 => v ≤ 23
  | 0x2B0201 => v ≤ 349
  | 0x2B0203 => inR 1 v 4
  | 0x2B0301 => inR 3600 v 604800
  | 0x2B0302 => v ≤ 7
  | 0x2B0303 => v == 1
  | 0x2D0002 => (d.faultAt v).isSome
  | 0x2E0202 => inR 85 v 100
  | _ => true

/-- A member of the cell table: a device ID in one slot only, or empty (R289, R301). -/
def Dev.memberOk (d : Dev) (sub v : Nat) : Bool :=
  v == 0xFFFF || (v ≤ 4095 && (List.range 16).all fun s => s + 3 == sub || d.od 0x2401 (3 + s) != v)

/-- A peer range with one field written: its base is aligned, and where it is valid it ends by 2^57 and meets no other (R233, R234). -/
def Dev.peerOk (d : Dev) (r sub v : Nat) : Bool :=
  let f (i : Nat) : Nat := if i = sub then v else d.od (0x2320 + r) i
  let hi := f 1 + f 2 * 4096
  f 1 % 4096 == 0 && f 4 < 4 &&
  (!bit (f 4) 0 || (hi ≤ 2 ^ 57 && bays16.all fun k =>
    let b := d.od (0x2320 + k) 1
    k == r || !bit (d.od (0x2320 + k) 4) 0 || hi ≤ b || b + d.od (0x2320 + k) 2 * 4096 ≤ f 1))

/-- A share slot: inside the granter's HBM, of at least one granule, with another Bay, and read-only for a strict Bay (R148, R149). -/
def Dev.shareOk (d : Dev) (n sub v : Nat) : Bool :=
  !(d.strict n && bit v 36) &&
  (!bit v 37 || (bits v 35 32 != n && bits v 31 16 != 0 && (0x28 ≤ sub || (d.judgeRanges n).grantOk v)))

/-- Values of a Bay's entries at 0x2100 + n (R138, R140, R148, R156). -/
def Dev.bayValueOk (d : Dev) (n sub v : Nat) : Bool :=
  match sub with
  | 2 => inR 1 v 6
  | 3 => v ≤ 1
  | 4 => v ≤ 1
  | 5 => (v == 0 && d.attachMode != 1) || (v == 1 && d.attachMode != 0)
  | 6 => v ≤ 1511
  | 8 => v ≤ 383
  | 0xA => v ≤ 255
  | 0xC => v ≤ 255
  | 0xE => v ≤ 127
  | 0x10 => inR 128 v 255
  | 0x12 => v ≤ 511
  | 0x14 => v ≤ 4095
  | 0x1A => inR 1 v 86400
  | _ => if 0x20 ≤ sub && sub ≤ 0x2F then d.shareOk n sub v else true

/-- Values of a Bay's translation entries (R218, R239, R247). -/
def Dev.transValueOk (d : Dev) (n sub v : Nat) : Bool :=
  if sub ≤ 4 then
    bits v 11 6 == 0 && bits v 63 48 == 0 &&
    (!bit v 0 || (inR 9 (bits v 5 1) 18 && (rootBytes v).1 % (rootBytes v).2 == 0 && (d.judgeRanges n).rootOk v))
  else if sub ≤ 8 then
    bits v 30 20 == 0 && (!bit v 31 || (List.range 4).all fun s => s + 5 == sub || d.od (0x2310 + n) (5 + s) != v)
  else if sub = 9 then v != 0
  else !(invBad v)

/-- A sky_map: 1 to 128 granules inside the Bay's HBM and inside BAR2, meeting no other window (R196). -/
def Dev.skyOk (d : Dev) (n sub v : Nat) : Bool :=
  !bit v 32 ||
  (inR 1 (bits v 23 16) 128 && (d.judgeRanges n).skyOk v && bits v 31 24 + bits v 23 16 ≤ 4 * d.link.barSize &&
   (List.range 8).all fun w =>
     let o := d.od (0x2990 + n) (w + 2)
     w + 2 == sub || !bit o 32 || !((Rng.mk (bits v 31 24) (bits v 23 16)).meets ⟨bits o 31 24, bits o 23 16⟩))

/-- A slot's base and control make a region: inside the Bay's HBM, meeting no other valid region (R593). -/
def Dev.regionOk (d : Dev) (n slot base ctl : Nat) : Bool :=
  let len := (ctl % 65536 + 1) * 4096
  !bit ctl 16 ||
  ((d.judgeRanges n).hbmHolds base len && (List.range 16).all fun r =>
    let x := d.region n r
    r == slot || x.st == .unregistered || base + len ≤ x.base || x.base + x.len ≤ base)

/-- Values of a Bay's region entries (R592, R593, R596, R611). -/
def Dev.regValueOk (d : Dev) (n sub v : Nat) : Bool :=
  let s := d.od (0x2A60 + n) 1
  let x := d.region n s
  match sub with
  | 1 => v ≤ 15
  | 2 => v % 4096 == 0 && v < 2 ^ 48 && d.regionOk n s v x.ctl
  | 3 => bits v 31 24 == 0 && d.regionOk n s x.base v
  | 4 => (d.judgeRanges n).sparOk v
  | _ => if sub % 2 = 1 then v < 2 ^ 54 else true

/-- Values of a Bay's journal entries (R542, R543, R552). -/
def Dev.sinkValueOk (d : Dev) (n sub v : Nat) : Bool :=
  let c := d.od (0x2C10 + n) 2
  let b := d.od (0x2C10 + n) 1
  let w := (d.jour n).w
  match sub with
  | 1 => v < 2 ^ 57 && (c % 32 < 16 || v % 2 ^ (c % 32) == 0)
  | 2 => v < 64 && (inR 16 (v % 32) 30 || (v == 0)) && (!bit v 5 || b % 2 ^ (v % 32) == 0)
  | 3 => v % 8 == 0 && v < 2 ^ 57
  | 4 => (w + 2 ^ 64 - v) % 2 ^ 64 ≤ (w + 2 ^ 64 - d.od (0x2C10 + n) 4) % 2 ^ 64
  | _ => (d.judgeRanges n).sparOk v

/-- Values of a Bay's fault and checkpoint entries (R653, R657, R660, R661, R675). -/
def Dev.recValueOk (d : Dev) (base n sub v : Nat) : Bool :=
  if base = 0x2D10 then
    match sub with
    | 1 => v ≤ 15
    | 5 => (d.faultAt v).any (·.bay == n)
    | _ => true
  else
    match sub with
    | 1 => v == 0 || (v == 1 && !(d.strict n))
    | 2 => v ≤ 4095 || v == 0xFFFF
    | 4 => v % 2 ^ d.od (0x2D20 + n) 5 == 0
    | 5 => inR 16 v 40
    | 6 => v % 32 == 0
    | 7 => inR 1 v 64
    | 8 => v ≤ 4095 || v == 0xFFFF
    | _ => true

/-- Values of the other entries that belong to a Bay. -/
def Dev.ownValueOk (d : Dev) (base n sub v : Nat) : Bool :=
  match base with
  | 0x2330 => if sub = 1 then 1 ≤ v else if sub = 2 then inR 1 v 10000 else inR 1 v 2
  | 0x2410 => v != 0
  | 0x2420 => if sub = 1 then v != 0 else v ≤ 1
  | 0x2510 => if sub = 1 then v ≤ 255 else inR 1 v 2
  | 0x2610 => v ≤ 511
  | 0x2680 =>
    match sub % 16 with
    | 1 => v % 4096 == 0 && v < 2 ^ 57
    | 2 => v % 4096 == 0 && v < 2 ^ 57
    | 3 => inR 6 (v % 32) 16 && v < 2 ^ 9
    | _ => inR 1 v 4
  | 0x2710 => if sub = 1 then v ≤ 255 else if sub = 0x10 then v ≤ 1023 else v == 1
  | 0x2730 => v != 0 || !(d.strict n)
  | 0x2810 =>
    let c := (d.judgeRanges n).core
    if sub = 1 then v != 0
    else if sub = 2 then c.has v
    else v == 0 || c.holds (if d.od (0x2810 + n) 2 < 0x10000 then d.od (0x2810 + n) 2 else c.base) v
  | 0x2910 => if sub = 1 then v % 8 == 0 && v < 2 ^ 57 else if sub = 2 then Nat.blt v (d.judgeRanges n).spar.count else true
  | 0x2990 => if sub = 1 then (d.judgeRanges n).sparOk v else d.skyOk n sub v
  | 0x2A40 => if sub = 1 then v ≤ 4095 || v == 0xFFFF else if sub = 2 then inR 1 v 10000 else if 5 ≤ sub then bits v 15 13 == 0 else true
  | _ => true

/-- Check 6: the value lies inside the range that the defining chapter gives (R99). -/
def Dev.valueOk (d : Dev) (t : Ent) (idx sub v : Nat) : Bool :=
  let k := idx - t.base
  if t.base = 0x2100 then d.bayValueOk k sub v
  else if t.base = 0x2310 then d.transValueOk k sub v
  else if t.base = 0x2A60 then d.regValueOk k sub v
  else if t.base = 0x2C10 then d.sinkValueOk k sub v
  else if t.base = 0x2D10 || t.base = 0x2D20 then d.recValueOk t.base k sub v
  else if t.base = 0x2320 then d.peerOk k sub v
  else if t.base = 0x2201 then (let r : Rng := ⟨bits v 15 0, bits v 31 16⟩; r.count == 0 || (d.bay (sub - 1)).held.hbm.holds r.base r.count)
  else if t.base = 0x2A20 then (match sub with | 1 => v ≤ 1 | 2 => v ≤ 1 | 5 => inR 1 v 2 | 0xE => v ≤ 7 | _ => true)
  else if t.base = 0x2401 && 3 ≤ sub then d.memberOk sub v
  else if bayFamilies.contains t.base then d.ownValueOk t.base k sub v
  else d.sysValueOk (idx * 256 + sub) v

/-! ### Check 7: states (R94, R95, R99) -/

/-- Every Bay is in `FREE`, `CONFIGURING` or `IDLE` (R95). -/
def Dev.allIdle (d : Dev) (m : Nat → Bool) : Bool :=
  bays16.all fun n => !m n || (d.bay n).st == .free || (d.bay n).st == .configuring || (d.bay n).st == .idle

/-- The governing object of a `rw-idle` entry accepts the write (R95, R133, R172, R234, R373, R592). -/
def Dev.idleOk (d : Dev) (t : Ent) (idx sub v : Nat) : Bool :=
  let n := idx - t.base
  let st := (d.bay n).st
  if t.base = 0x2100 || (t.base = 0x2A40 && sub ≤ 2) then st == .configuring && !(d.bay n).scrubbing
  else if t.base = 0x2201 then (d.bay (sub - 1)).st == .idle
  else if t.base = 0x2320 then d.allIdle fun m => bit (d.od idx 3) m || (sub == 3 && bit v m)
  else if bayFamilies.contains t.base then
    (st == .configuring || st == .idle) && (t.base != 0x2680 || (d.queue n (sub / 16)).st == .disabled)
  else d.allIdle fun _ => true

/-- The status that refuses a queue action, if one does (Table — Queue states). -/
def Dev.queueBad (d : Dev) (n q v : Nat) : Option Status :=
  let x := d.queue n q
  let busy := x.cmds.any fun c => c.ph != .fetched
  let ok := match x.st with
    | .disabled => v == 1 && inR 6 (d.cqK n q) 16
    | .active => v == 2 && x.job.isNone && !busy
    | .halted => ((v == 3 || v == 4) && x.job.isNone) || (v == 2 && !busy)
  if ok then none else some .state

/-- A queue action that has passed its checks (Table — Queue states). What the commands that it discards had prepared is undone. -/
def Dev.queueAct (d : Dev) (e : Env) (n q v : Nat) : Dev :=
  let x := d.queue n q
  let gone := if v = 2 || v = 4 then x.cmds.filter fun c => c.ph == .fetched else []
  let d := gone.foldl (fun d c => d.unprepare e.time n q c.pos) d
  match v with
  | 1 => d.setQueue n q { x with st := .active, p := 0, fe := 0, fr := 0 }
  | 2 => d.setQueue n q { x with st := .disabled, p := x.fe, cmds := [] }
  | 3 => d.setQueue n q { x with st := .active }
  | _ => d.setQueue n q { x with st := .active, fe := x.p, fr := x.p, cmds := x.cmds.filter fun c => c.ph != .fetched }

/-- A write to a selection of channel, Course or array, judged as R681 has it, or to an action on the one selected (R389, R395, R424, R498, R509). -/
def Dev.selBad (d : Dev) (base n sub v : Nat) : Option Status :=
  let h := (d.bay n).held
  let want := d.judgeRanges n
  let need (b : Bool) (st : Status) : Option Status := if b then none else some st
  match base with
  | 0x2510 =>
    if sub = 1 then need (want.hasGutter v) .access
    else if !(h.hasGutter (d.gtSel n)) then some .access else need ((d.gutter (d.gtSel n)).st == .error) .state
  | 0x2610 => need (want.course.has v) .access
  | _ =>
    if sub = 1 then need (want.thatch.has v) .access
    else if sub = 0x10 then none
    else if !(h.thatch.has (d.thSel n)) then some .access else need ((d.arr (d.thSel n)).st == .seated) .state

/-- The status by which an entry's own rules refuse a write, if they do: what follows check 7's general part. `intact` names the sense
pairs that have read intact (R637). -/
def Dev.entryBad (d : Dev) (e : Env) (t : Ent) (idx sub v : Nat) (intact : Nat → Bool) (img : Image) : Option Status :=
  let n := idx - t.base
  let need (b : Bool) : Option Status := if b then none else some .state
  match t.base with
  | 0x1010 => need d.srv.saving.isNone
  | 0x1011 => need d.srv.saving.isNone
  | 0x2001 =>
    if sub = 0xB then need (d.boot.st == .failed)
    else if d.boot.st != .recovery then some .state
    else if (d.imageBadAll img).isSome then some .integrity else none
  | 0x2004 => if sub = 1 then need (d.od 0x2004 2 != 1) else if sub = 4 then d.activateBad else none
  | 0x2100 =>
    if sub = 2 then d.bayCtlBad n v else none
  | 0x2200 => if sub = 0x12 then need (d.link.st == .up) else none
  | 0x2310 => if sub = 0xA && 8 ≤ d.invalsOf n then some .overrun else none
  | 0x2330 => if sub = 3 then need (d.resumeOk n v) else none
  | 0x2401 => need (!d.ridge.cellBusy)
  | 0x2510 => d.selBad 0x2510 n sub v
  | 0x2610 => d.selBad 0x2610 n sub v
  | 0x2680 => if sub % 16 = 4 then d.queueBad n (sub / 16) v else none
  | 0x2710 => d.selBad 0x2710 n sub v
  | 0x2910 =>
    if sub ≤ 2 then none
    else match d.sparSel n with
      | none => some .state
      | some s =>
        if (d.bay n).st == .draining || (d.bay n).st == .faulted then some .state
        else need (!(sub == 5 && bit v 0 && (d.spar s).firing))
  | 0x2A20 =>
    let x := (d.port n).st
    if sub != 5 then none
    else if v = 1 then need (x == .linked || x == .inService || x == .quarantined) else need (x == .quarantined)
  | 0x2A60 =>
    let x := (d.region n (d.od (0x2A60 + n) 1)).st
    if sub = 2 || sub = 3 then need (x == .unregistered || x == .open_) else none
  | 0x2B00 => if sub = 0xA then d.senseClearBad e v intact else none
  | 0x2B01 => if sub = 4 then d.domainOverrideBad (d.od 0x2B01 1) v else none
  | 0x2B02 => if sub = 3 then d.islandCtlBad (d.od 0x2B02 1) v else if sub = 5 then d.ratioOverrideBad v else none
  | 0x2B03 => if sub = 3 then d.scrubRequestBad (d.od 0x2B03 2) v else none
  | 0x2C10 =>
    if sub = 1 || sub = 2 then need (!((d.jobOpen n || d.inJob n) && d.sinkValid n && !(d.jour n).faulted)) else none
  | 0x2D10 => if sub = 2 then d.reattachBad n v else none
  | _ => none

/-- Check 7 in its general part: the class, the power of the block, `READY`, the governing object (R82, R94, R95, R99). -/
def Dev.stateOk (d : Dev) (t : Ent) (idx sub v : Nat) : Bool :=
  d.powered idx &&
  (match t.acc with
   | .rw => d.boot.st == .ready
   | .rwIdle => d.boot.st == .ready && d.idleOk t idx sub v
   | .wo => d.boot.st == .ready || !(bayFamilies.contains t.base)
   | .const => true
   | .ro => true)

/-- Checks 6 to 9: the status and abort code of the first that fails (R99). -/
def Dev.odJudge (d : Dev) (e : Env) (t : Ent) (idx sub v : Nat) (intact : Nat → Bool) (img : Image) : Option (Status × Nat) :=
  let ab (s : Status) : Status × Nat := (s, abortOf s)
  if !(d.valueOk t idx sub v) then some (ab .range)
  else if !(d.stateOk t idx sub v) then some (ab .state)
  else match d.entryBad e t idx sub v intact img with
    | some s => some (ab s)
    | none => match d.journalBay t idx sub with
      | some n => if d.inJob n && !(d.roomFor n 128) then some (ab .retry) else none
      | none => none

/-! ### What a write does -/

/-- A write to the slot that reg_select names (R593, R600, R602). -/
def Dev.regWrite (d : Dev) (n sub v : Nat) (bs : List Byte) : Dev :=
  let s := d.od (0x2A60 + n) 1
  let x := d.region n s
  match sub with
  | 2 => d.setRegion n s { x with base := v }
  | 3 =>
    let on := bit v 16
    d.setRegion n s { x with
      ctl := v
      st := if !on then .unregistered else .open_ }
  | 4 => d.setRegion n s { x with spar := v }
  | _ => if 9 ≤ sub then (d.setOd (0x2A60 + n) sub (leNat bs)).setQp n ((sub - 9) / 2) {} else d.setOd (0x2A60 + n) sub v

/-- A write to a Bay's entry takes effect; `none` where the entry just takes the value. -/
def Dev.ownApply (d : Dev) (e : Env) (rt : Route) (base n sub v : Nat) (bs : List Byte) : Option Dev :=
  match base with
  | 0x2100 =>
    if sub = 2 then some (d.bayCtl e n v rt)
    else if 0x20 ≤ sub then some (d.setOd (0x2100 + n) sub (v % 2 ^ 38)) else none
  | 0x2310 => if sub = 0xA then some (d.acceptInval n v none) else none
  | 0x2330 => if sub = 3 then some (d.faultResume e n v) else none
  | 0x2510 => if sub = 7 then some (d.gtAction e n v).2 else none
  | 0x2680 => if sub % 16 = 4 then some (d.queueAct e n (sub / 16) v) else none
  | 0x2710 => if sub = 0x12 then some (d.modArr (d.thSel n) fun x => { x with calDue := true }) else none
  | 0x2910 =>
    match d.sparSel n with
    | some s => if sub = 3 then some (d.sparSet e s v) else if sub = 4 then some (d.sparThresh e s v) else if sub = 5 then some (d.sparCtl e s v) else none
    | none => none
  | 0x2990 => if 2 ≤ sub then some (d.setOd (0x2990 + n) sub (v % 2 ^ 33)) else none
  | 0x2A60 => some (d.regWrite n sub v bs)
  | 0x2C10 =>
    if sub = 2 && bit v 5 then some ((d.setOd (0x2C10 + n) 2 v).setJour n { d.jour n with faulted := false }) else none
  | 0x2D10 => if sub = 2 then some (d.reattach e n) else none
  | _ => none

/-- A write to an entry of the device takes effect; `none` where the entry just takes the value. -/
def Dev.sysApply (d : Dev) (e : Env) (rt : Route) (idx sub v : Nat) (intact : Nat → Bool) (img : Image) : Option Dev :=
  match idx * 256 + sub with
  | 0x101001 =>
    -- a save that runs on holds the banks as it will leave them (R117, R118)
    some (if e.served = .running then { d with srv := { d.srv with saving := some (rt, d.savedFlash.bank0, d.savedFlash.bank1) } } else d.saveAll)
  | 0x101101 => some { d with nv := { d.nv with restoreDue := true } }
  | 0x20010B => some d
  | 0x20010C => some (d.startImage e img 2)
  | 0x200401 => some (({ d with srv := { d.srv with stageImg := some img } } : Dev).setOd 0x2004 2 1)
  | 0x200404 => some { d with srv := { d.srv with activating := true } }
  | 0x200405 => some { d with nv := { d.nv with fuseSvn := v } }
  | 0x220012 => some (d.linkRecover e)
  | 0x2A0008 => some (d.setFabric { d.fabric with routes := smSet 0 d.fabric.routes (d.od 0x2A00 7) v })
  | 0x2A000B => some (d.setOd idx sub v).ptpSelect
  | 0x2A000C => some (d.setOd idx sub v).ptpSelect
  | 0x2B0003 => some (d.setFreeze v)
  | 0x2B000A => some (if (d.senseClearBad e v intact).isNone then d.senseClear v else d)
  | 0x2B0104 => some (d.domainOverride (d.od 0x2B01 1) v)
  | 0x2B0203 => some (d.islandCtl e (d.od 0x2B02 1) v)
  | 0x2B0205 => some (d.ratioOverride (d.od 0x2B02 1) v)
  | 0x2B0303 => some (d.scrubTrigger (d.od 0x2B03 2))
  | _ =>
    if idx = 0x2401 then some ((d.setOd idx sub v).cellChange e)
    else if 0x2A20 ≤ idx && idx < 0x2A2C then
      let p := idx - 0x2A20
      if sub = 1 then some (if v = 0 then (d.setOd idx sub v).portOff p else (d.setOd idx sub v).portsMove)
      else if sub = 5 then some (if v = 1 then d.portLost p else d.setPort p { d.port p with st := .inService })
      else none
    else none

/-- An accepted write takes effect at its service tick (R99, R111). -/
def Dev.odApply (d : Dev) (e : Env) (rt : Route) (t : Ent) (idx sub v : Nat) (bs : List Byte) (intact : Nat → Bool) (img : Image) : Dev :=
  let n := idx - t.base
  let r := if bayFamilies.contains t.base then d.ownApply e rt t.base n sub v bs else d.sysApply e rt idx sub v intact img
  match r with
  | some d => d
  | none => d.setOd idx sub v

/-! ### The end of a request (R100, R110 to R112, R119, R535) -/

/-- The DICT record of a write that a strict job's journal takes; it holds the change record (R530, R535, R541). -/
def Dev.dictRec (d : Dev) (e : Env) (t : Ent) (idx sub : Nat) : Dev :=
  match (d.journalBay t idx sub, d.srv.ring) with
  | (some n, r :: _) => if d.inJob n && d.roomFor n 128 then d.emitRec e n 6 0xFFFFFFFF true false r.bytes else d
  | _ => d

/-- What a refusal leaves besides its record: it is counted for the Bay whose object it names where it is one of R17; a refused token, and the cause
of a recovery image that fails, are kept (R17, R71, R666). -/
def Dev.refusalMarks (d : Dev) (e : Env) (t : Ent) (idx sub : Nat) (st : Status) (img : Image) : Dev :=
  let d := match d.objBay t idx sub with
    | some n => if st = .state then d.count (0x2100 + n) 0x30 1 else d
    | none => d
  let d := if t.base = 0x2D10 && sub = 2 && st = .access && d.mayReattach (idx - 0x2D10) then d.reattachRefused e (idx - 0x2D10) else d
  if idx = 0x2001 && sub = 0xC && st = .integrity then d.setOd 0x2001 3 ((d.imageBadAll img).getD 0) else d

/-- What a refused write leaves: its change record, its DICT record, and its marks (R119, R535). -/
def Dev.writeRefused (d : Dev) (e : Env) (rt : Route) (t : Option Ent) (idx sub : Nat) (st : Status) (img : Image) : Dev :=
  let d := d.journalChange e rt idx sub st 0
  match t with
  | none => d
  | some t => (if st = .retry then d else d.dictRec e t idx sub).refusalMarks e t idx sub st img

/-- A request is refused (R99, R100, R119). -/
def Dev.odRefuse (d : Dev) (e : Env) (rt : Route) (read : Bool) (t : Option Ent) (idx sub : Nat) (st : Status) (abort : Nat) (img : Image) : Dev :=
  let d := if read then (match routeFn rt with | some fn => d.setWin fn { d.win fn with rlen := 0 } | none => d)
    else d.writeRefused e rt t idx sub st img
  d.odAnswer rt st abort []

/-- The end of a chunk's or a segment's time (R103, R113): with CAN_NODE = 0 usdo_timeout has no effect, and its default stands (R129; DESIGN
CHOICE, log entry 37). -/
def Dev.chunkEnd (d : Dev) (e : Env) : Nat := e.time + (if d.canOn then d.od 0x2002 3 else 500) * 1000000

/-- The data bytes that one USDO frame carries (CiA 1301; PRESUMED, log entry 9). -/
def usdoChunk : Nat := 56

/-- The next part of a value that is read in segments goes out (R101; CiA 1301: PRESUMED, log entry 9). -/
def Dev.usdoPart (d : Dev) (e : Env) (p : Fin 2) (x : Xfer) : Dev :=
  let rest := x.data.drop usdoChunk
  let d := d.send (.can p (if rest.isEmpty then "last segment" else "segment") 0 (x.data.take usdoChunk))
  d.setUsdo p (if rest.isEmpty then none else some { x with data := rest, deadline := d.chunkEnd e })

/-- A read is answered: through the window's buffer, or on CAN FD in one frame, or in segments, the first of which tells the length (R101, R112). -/
def Dev.readAnswer (d : Dev) (e : Env) (r : Req) (bs : List Byte) : Dev :=
  match (r.route, routeFn r.route) with
  | (.can p, _) =>
    if bs.length ≤ usdoChunk || !bit (d.od 0x2002 4) p then d.odAnswer r.route .ok 0 bs
    else (d.send (.can p "segmented response" bs.length (bs.take usdoChunk))).setUsdo p
      (some ⟨r.idx, r.sub, false, bs.drop usdoChunk, d.chunkEnd e, r.route⟩)
  | (_, some fn) =>
    let w := d.win fn
    (d.setWin fn { w with rlen := bs.length, data := (bs.zipIdx).foldl (fun m c => smSet 0 m c.2 c.1) w.data }).odAnswer r.route .ok 0 []
  | (_, none) => d

/-- What follows the answer of a write: a restart, a re-attach, a restored window (R87, R667). -/
def Dev.odAfter (d : Dev) (e : Env) (idx sub : Nat) : Dev :=
  if idx = 0x2001 && sub = 0xB then d.bootRestart e
  else if 0x2D10 ≤ idx && idx < 0x2D20 && sub = 2 then d.reattached e (idx - 0x2D10)
  else d

/-- The status with which a write that its checks accept fails all the same: with a failure before its service tick (R125), or, for a save, with
a flash that fails (R117). -/
def Env.fails (e : Env) (idx : Nat) : Option Status :=
  if e.served = .valueFault then some .fault else if e.served = .flashFault && idx = 0x1010 then some .integrity else none

/-- A write whose length and place are right: checks 6 to 9, its effect, its records and its answer (R99, R104, R111, R117, R119, R125, R135). -/
def Dev.writeValue (d : Dev) (e : Env) (rt : Route) (t : Ent) (idx sub : Nat) (bs : List Byte) (intact : Nat → Bool) (img : Image) : Dev :=
  let v := leNat bs
  match d.odJudge e t idx sub v intact img with
  | some (st, ab) => d.odRefuse e rt false (some t) idx sub st ab img
  | none =>
    match e.fails idx with
    | some st => d.odRefuse e rt false (some t) idx sub st (abortOf st) img
    | none =>
      let d := d.odApply e rt t idx sub v bs intact img
      if d.srv.saving.isSome && idx = 0x1010 then d else
      let d := (d.journalChange e rt idx sub .ok (crc64 bs)).dictRec e t idx sub
      if t.base = 0x2100 && sub = 2 && v = 2 && (d.bay (idx - 0x2100)).scrubbing then d
      else (d.odAnswer rt .ok 0 []).odAfter e idx sub

/-! ### Service (R99, R112 to R114, R128, R680) -/

/-- A read that has passed checks 1 to 4 (R93, R112, R125, R680). -/
def Dev.serveRead (d : Dev) (e : Env) (r : Req) (t : Ent) : Dev :=
  let refuse (st : Status) : Dev := d.odRefuse e r.route true (some t) r.idx r.sub st (abortOf st) {}
  if t.ty == .dom then
    let x := (d.odBytes e t r.idx r.sub).1
    if e.served = .valueFault then refuse .fault
    else if (routeFn r.route).isNone then d.readAnswer e r x
    else if 4096 < r.len then refuse .format
    else if x.length < r.off then refuse .range
    else d.readAnswer e r ((x.drop r.off).take (if r.len = 0 then 4096 else r.len))
  else if r.off != 0 then refuse .format
  else if !(d.powered r.idx) then refuse .state
  else if e.served = .valueFault then refuse .fault
  else
    let x := d.odBytes e t r.idx r.sub
    x.2.readAnswer e r x.1

/-- A chunk of a DOMAIN write through a window, or its closing write: the whole value once it closes (R113). A closing write at offset 0 with no
transfer open carries a whole value, and a chunk longer than 4,096 bytes draws `FORMAT` and ends the transfer (DESIGN CHOICE, log entry 37). The chunk
after a timeout draws `STATE`; its transfer has had its record (R119). -/
def Dev.serveChunk (d : Dev) (e : Env) (r : Req) (t : Ent) (fn : Nat) : Option (List Byte) × Dev :=
  let w := d.win fn
  let sent := match w.xfer with | some x => x.data | none => []
  if w.dropped then
    (none, ((d.setWin fn { w with dropped := false }).refusalMarks e t r.idx r.sub .state {}).odAnswer r.route .state (abortOf .state) [])
  else if r.off != sent.length || 4096 < r.len || 0x800000 < sent.length + r.data.length then
    (none, (d.setWin fn { w with xfer := none }).odRefuse e r.route false (some t) r.idx r.sub .format (abortOf .format) {})
  else if r.op == .append then
    if e.served = .valueFault then
      (none, (d.setWin fn { w with xfer := none }).odRefuse e r.route false (some t) r.idx r.sub .fault (abortOf .fault) {})
    else (none, (d.setWin fn { w with xfer := some ⟨r.idx, r.sub, true, sent ++ r.data, d.chunkEnd e, r.route⟩ }).odAnswer r.route .ok 0 [])
  else (some (sent ++ r.data), d.setWin fn { w with xfer := none })

/-- A write that has passed checks 1 to 4 (R99, R113, R680). -/
def Dev.serveWrite (d : Dev) (e : Env) (r : Req) (t : Ent) (intact : Nat → Bool) : Dev :=
  let refuse : Dev := d.odRefuse e r.route false (some t) r.idx r.sub .format (abortOf .format) {}
  let done (d : Dev) (bs : List Byte) : Dev :=
    if t.ty == .dom && 0x800000 < bs.length then d.odRefuse e r.route false (some t) r.idx r.sub .format (abortOf .format) {}
    else d.writeValue e r.route t r.idx r.sub bs intact (if t.ty == .dom then imageOf bs else {})
  match (routeFn r.route, t.ty == .dom) with
  | (some fn, true) =>
    match r.img with
    | some i => d.writeValue e r.route t r.idx r.sub (imageBytes i) intact i
    | none =>
      match d.serveChunk e r t fn with
      | (some bs, d) => done d bs
      | (none, d) => d
  | (none, true) =>
    match r.img with
    | some i => d.writeValue e r.route t r.idx r.sub (imageBytes i) intact i
    | none => done d r.data
  | (_, false) => if r.op == .append || r.off != 0 || r.data.length != t.ty.size then refuse else done d r.data

/-- A write or a write-append through a window whose open transfer names another entry, or a whole image in place of its next chunk, breaks the
sequence of the transfer (R113). -/
def Dev.breaksChunks (d : Dev) (r : Req) : Option Nat :=
  match routeFn r.route with
  | some fn => if r.op != .read && (d.win fn).xfer.any (fun x => x.idx != r.idx || x.sub != r.sub || r.img.isSome) then some fn else none
  | none => none

/-- What a rule puts before a request of the tick takes effect: an owner loss before bay_ctl (R154), a PRG response before fault_resume (R266),
the other agents' operations before those on the selected Spar (R323), a doorbell before cq_action (R369), a change of the Bay's state before
gt_action and reattach (R391, R671), a violation before the clear of a quarantine (R587). -/
def Dev.leadWrite (d : Dev) (e : Env) (r : Req) : Dev :=
  if 0x2910 ≤ r.idx && r.idx < 0x2920 && 3 ≤ r.sub && r.sub ≤ 5 then
    (match d.sparSel (r.idx - 0x2910) with | some s => d.leadPorts e s 12 | none => d)
  else if r.op == .read then d
  else if 0x2100 ≤ r.idx && r.idx < 0x2110 && r.sub = 2 then d.leadOwner e (r.idx - 0x2100)
  else if 0x2330 ≤ r.idx && r.idx < 0x2340 && r.sub = 3 then d.leadPrg e
  else if 0x2680 ≤ r.idx && r.idx < 0x2690 && r.sub % 16 = 4 then
    d.leadPages e (r.idx - 0x2680 + 1) fun off _ => off == 0x100 + 8 * (r.sub / 16)
  else if 0x2510 ≤ r.idx && r.idx < 0x2520 && r.sub = 7 then d.leadBay e (r.idx - 0x2510)
  else if 0x2D10 ≤ r.idx && r.idx < 0x2D20 && r.sub = 2 then d.leadBay e (r.idx - 0x2D10)
  else if 0x2A20 ≤ r.idx && r.idx < 0x2A2C && r.sub = 5 && r.data = [2] then d.leadViolations e (r.idx - 0x2A20)
  else d

/-- A request is served (R99). `intact`: the sense pairs that have read intact, for sense_clear. -/
def Dev.serve (d : Dev) (e : Env) (r : Req) (intact : Nat → Bool) : Dev :=
  let d := d.leadWrite e r
  match d.breaksChunks r with
  | some fn => (d.winDiscard e fn .format false).odRefuse e r.route false (entryOf r.idx r.sub) r.idx r.sub .format (abortOf .format) {}
  | none =>
    match d.odGate r.route (r.op == .read) r.idx r.sub with
    | .inl (st, ab) => d.odRefuse e r.route (r.op == .read) (entryOf r.idx r.sub) r.idx r.sub st ab {}
    | .inr t => if r.op == .read then d.serveRead e r t else d.serveWrite e r t intact

/-- Which sense pairs read intact when a request clears them: as its row says, else measured, a free value (R637; DESIGN CHOICE, log entry 2). -/
def Dev.drawIntact (d : Dev) (r : Req) : (Nat → Bool) × Dev :=
  if r.idx = 0x2B00 && r.sub = 0xA && r.op == .write then
    (match r.intact with
     | some l => (l.contains, d)
     | none => (fun k => bit d.draw.1 k, d.draw.2))
  else (fun _ => false, d)

/-- The management RAM or the server fails during a request: a `DEVICE` fault, and every request in flight ends with `FAULT` (R128). -/
def Dev.serverFail (d : Dev) (e : Env) (r : Req) : Dev :=
  let d := d.fault .device 0xFF { status := .fault, source := 0xE, island := 348 }
  (((d.endRequest e .fault r).endRequests e .fault).usdoAbort e 0 .fault).usdoAbort e 1 .fault

/-- A request leaves the queue and is served as it says (R114, R128). -/
def Dev.serveReq (d : Dev) (e : Env) (r : Req) : Dev :=
  if r.served = .serverFault then d.serverFail e r
  else
    let x := d.drawIntact r
    x.2.serve { e with served := r.served } r x.1

/-- The server takes the next request in order of arrival (R114). -/
def Dev.serveNext (d : Dev) (e : Env) : Dev :=
  match d.srv.reqs with
  | [] => d
  | r :: l => ({ d with srv := { d.srv with reqs := l } } : Dev).serveReq e r

/-- The save that runs ends as `x` says: its answer and its change record (R100, R117, R119, R125, R128). -/
def Dev.saveEnd (d : Dev) (e : Env) (x : Served) : Dev :=
  match d.srv.saving with
  | none => d
  | some (rt, b0, b1) =>
    let off : Dev := { d with srv := { d.srv with saving := none } }
    let r : Req := { route := rt, op := .write, idx := 0x1010, sub := 1 }
    match x with
    | .running => d
    | .done => ((off.saveBanks b0 b1).journalChange e rt 0x1010 1 .ok (crc64 (leBytes 4 0x65766173))).odAnswer rt .ok 0 []
    | .flashFault => off.endRequest e .integrity r
    | .valueFault => off.endRequest e .fault r
    | .serverFault => off.serverFail e r

/-- The next request is served as `x` says; with none waiting, the save that runs ends. -/
def Dev.serveTop (d : Dev) (e : Env) (x : Served) : Dev :=
  match d.srv.reqs with
  | [] => d.saveEnd e x
  | r :: l => ({ d with srv := { d.srv with reqs := l } } : Dev).serveReq e { r with served := x }

/-- DICT_REQUEST_SERVE (R99, R114, R125, R128): the next request is served; with none waiting, the save that runs ends (R117; DESIGN CHOICE, log
entry 49). -/
def execDictRequestServe (s : State) (x : Served := .done) : Outc :=
  s.go (Dev.turnOf (fun c => match c with | .dictRequestServe y => y == x | _ => false) fun e d => d.serveTop e x)

/-! ### A write by its route -/

/-- A CAN FD port serves USDO: a server runs, the device has a node ID, the port is enabled and not in bus-off (R73, R101, R105,
R130). -/
def Dev.canHere (d : Dev) (p : Fin 2) : Bool :=
  (d.boot.firmware || d.boot.restricted) && d.canOn && bit (d.od 0x2002 4) p && !(smGet false d.board.busOff p)

/-- A transfer is open on a port: its data is still to come or to go, or it waits at the server (R102). -/
def Dev.usdoOpen (d : Dev) (p : Fin 2) : Bool := (d.usdo p).isSome || d.srv.reqs.any fun r => r.route == .can p

/-- A fabric owner can reach the page of a function (R566, R572): the PF page from the fabric manager latched, the page of Bay n from
its owner. -/
def Dev.fabHere (d : Dev) (fn : Nat) : Bool :=
  d.fabric.id.isSome && (if fn = 0 then d.fabric.fm != 0xFFFF else d.boot.st == .ready && d.ownerLink (fn - 1) == 1 && d.od (0x2A40 + (fn - 1)) 1 != 0xFFFF)

/-- A 4-byte write to a window by its function's route (R107, R189, R201, R572). -/
def Dev.routeWrite (d : Dev) (e : Env) (rt : Route) (off v : Nat) : Dev :=
  match rt with
  | .can _ => d
  | .pf => d.hostPage e 0 off (leBytes 4 v)
  | .bay n => d.hostPage e (n + 1) off (leBytes 4 v)
  | .fabPf => if d.fabHere 0 then d.ctlWrite e rt 0 off (leBytes 4 v) else d
  | .fabBay n => if d.fabHere (n + 1) then d.ctlWrite e rt (n + 1) off (leBytes 4 v) else d

/-- A window is set up and its command written: a write of a whole value to an entry (R107, R108). -/
def Dev.windowSend (d : Dev) (e : Env) (rt : Route) (idx sub : Nat) (bs : List Byte) : Dev :=
  let d := ((d.routeWrite e rt 0xE004 (idx + 65536 * sub)).routeWrite e rt 0xE008 bs.length).routeWrite e rt 0xE00C 0
  let d := (List.range (cdiv bs.length 4)).foldl (fun d i => d.routeWrite e rt (0xF000 + 4 * i) (fld bs (4 * i) 4)) d
  d.routeWrite e rt 0xE000 2

/-- The request that a row has brought by a route takes from it what the row says besides its value; `free`: no request of the route waited
before it (log entry 9). -/
def Dev.markRow (d : Dev) (rt : Route) (free : Bool) (f : Req → Req) : Dev :=
  if free then { d with srv := { d.srv with reqs := d.srv.reqs.map fun r => if r.route == rt then f { r with row := true } else r } } else d

/-- A write of a whole value to an entry reaches the server by its route: in one USDO transfer, or through a window (R102, R108, R119). -/
def Dev.odSend (d : Dev) (e : Env) (rt : Route) (idx sub : Nat) (bs : List Byte) (f : Req → Req) : Dev :=
  let free := d.srv.reqs.all fun r => r.route != rt
  match rt with
  | .can p =>
    if !(d.canHere p) then d
    else if d.usdoOpen p then d.odRetry e rt true idx sub
    else (d.odArrive e { route := rt, op := .write, idx := idx, sub := sub, data := bs, len := bs.length }).markRow rt free f
  | _ => (d.windowSend e rt idx sub bs).markRow rt free f

/-- The requests that rows have brought are served, each with those before it, once no further request of the tick is to come (R114; log entry
9). -/
def Dev.serveRows (d : Dev) (e : Env) : Dev :=
  if e.tick.any fun c => (Instr.dictRoute c).isSome then d
  else d.srv.reqs.foldl (fun d _ => if d.srv.reqs.any (·.row) then d.serveNext e else d) d

/-- A write of a value by a route, and its service in the order of the tick's requests (R99, R114). -/
def Dev.odWrite (d : Dev) (e : Env) (rt : Route) (idx sub : Nat) (bs : List Byte) (f : Req → Req) : Dev := (d.odSend e rt idx sub bs f).serveRows e

/-- A write of `size` bytes, as a command of a route. -/
def State.odRow (s : State) (rt : Route) (idx sub size v : Nat) : Outc := s.go fun e d => d.odWrite e rt idx sub (leBytes size v) id

end Sys2Proof.Machine
end

