-- ==== Sys2Proof/Machine/Serve.lean ====
section
/-! DEFINITION. The commands that write an entry of the dictionary, each by its route, and the exchange of USDO on CAN FD (R98, R101
to R105, R113). -/
namespace Sys2Proof.Machine

/-! ### USDO (R101 to R105) -/

/-- USDO_INITIATE (R101, R102, R104): a read, a write that is whole, or a write whose segments follow. -/
def execUsdoInitiate (p : Fin 2) (write : Bool) (idx : W16) (sub : Byte) (data : List Byte) (last : Bool) (s : State) : Outc :=
  s.go fun e d =>
    (if !(d.canHere p) then d
    else if d.usdoOpen p || d.closing then d.odRetry e (.can p) write idx.toNat sub.toNat
    else if !write then d.odArrive e { route := .can p, op := .read, idx := idx.toNat, sub := sub.toNat }
    else if last then d.odArrive e { route := .can p, op := .write, idx := idx.toNat, sub := sub.toNat, data := data, len := data.length }
    else (d.setUsdo p (some ⟨idx.toNat, sub.toNat, true, data, d.chunkEnd e, .can p⟩)).send (.can p "segment response" 0 [])).serveRows e

/-- USDO_SEGMENT (R101, R104): the last one of a write hands the whole value to the server; of a read, it asks for the next part. -/
def execUsdoSegment (p : Fin 2) (data : List Byte) (last : Bool) (s : State) : Outc :=
  s.go fun e d =>
    (match d.usdo p with
    | none => d
    | some x =>
      if !(d.canHere p) then d
      else if !x.write then d.usdoPart e p x
      else if last then
        let bs := x.data ++ data
        (d.setUsdo p none).odArrive e { route := .can p, op := .write, idx := x.idx, sub := x.sub, data := bs, len := bs.length }
      else (d.setUsdo p (some { x with data := x.data ++ data, deadline := d.chunkEnd e })).send (.can p "segment response" 0 [])).serveRows e

/-- USDO_TIMEOUT (R9, R103). -/
def execUsdoTimeout (p : Fin 2) (s : State) : Outc :=
  s.go fun e d =>
    match d.usdo p with
    | none => d
    | some x => if x.deadline ≤ e.time then d.usdoAbort e p .timeout else d

/-- CAN_BUS_OFF (R105): the transmit error counter has passed 255 (ISO 11898-1; PRESUMED, log entry 9). -/
def execCanBusOff (p : Fin 2) (s : State) : Outc :=
  s.go fun _ d =>
    if !(d.canHere p) then d
    else ({ d with board := { d.board with busOff := smSet false d.board.busOff p true, txErr := smSet 0 d.board.txErr p 256 } } : Dev).count 0x2002 (5 + p) 1

/-- CAN_BUS_OFF_RECOVERY (R105): both error counters are 0 again (ISO 11898-1; PRESUMED, log entry 9). -/
def execCanBusOffRecovery (p : Fin 2) (s : State) : Outc :=
  s.go fun _ d => { d with board := { d.board with
    busOff := smSet false d.board.busOff p false, txErr := smSet 0 d.board.txErr p 0, rxErr := smSet 0 d.board.rxErr p 0 } }

/-! ### The dictionary windows (R107 to R113, R680) -/

/-- A command of a window, or another write to a page of a function: where it may be the tick's last request to the server, what rows have brought is
served (R114, R209). -/
def State.windowRow (s : State) (c : Instr) : Outc := s.go fun e d => (d.turn c (fun e d => d.pageNow e c) e).serveRows e

/-- OD_READ (R108, R112). -/
def execOdRead (fn : Fin 17) (s : State) : Outc := s.windowRow (.odRead fn)

/-- OD_WRITE (R108, R113). -/
def execOdWrite (fn : Fin 17) (s : State) : Outc := s.windowRow (.odWrite fn)

/-- OD_WRITE_APPEND (R113). -/
def execOdWriteAppend (fn : Fin 17) (s : State) : Outc := s.windowRow (.odWriteAppend fn)

/-- OD_CMD_NONE (R680). -/
def execOdCmdNone (fn : Fin 17) (s : State) : Outc := s.windowRow (.odCmdNone fn)

/-- REGISTER_WRITE_OTHER (R188, R682). -/
def execRegisterWriteOther (fn : Fin 17) (off : Nat) (data : List Byte) (s : State) : Outc := s.windowRow (.registerWriteOther fn off data)

/-- OD_WINDOW_TIMEOUT (R9, R113). -/
def execOdWindowTimeout (fn : Fin 17) (s : State) : Outc :=
  s.go fun e d =>
    match (d.win fn).xfer with
    | none => d
    | some x => if x.deadline ≤ e.time then d.winDiscard e fn .timeout true else d

/-! ### Images (R71, R121) -/

/-- A whole image reaches the server by a route: a port or a window that is free carries it, and one that is not refuses it (R102, R110, R113). -/
def Dev.imageSend (d : Dev) (e : Env) (rt : Route) (idx sub : Nat) (i : Image) : Dev :=
  let r : Req := { route := rt, op := .write, idx := idx, sub := sub, img := some i, row := true }
  match rt with
  | .can p =>
    if !(d.canHere p) then d
    else if d.usdoOpen p then d.odRetry e rt true idx sub
    else d.odArrive e r
  | _ =>
    let fn := (routeFn rt).getD 0
    let here := match rt with | .fabPf => d.fabHere fn | .fabBay _ => d.fabHere fn | _ => d.hostHere fn
    let w := d.win fn
    if !here then d
    else if w.busy then d.winCmd e rt fn 2
    else (d.setWin fn { w with busy := true, done := false, rejected := false, echo := w.tag.toNat % 65536, dropped := false }).odArrive e r

/-- RECOVERY_IMAGE_DOWNLOAD (R71, R72). -/
def execRecoveryImageDownload (p : Fin 2) (img : Image) (s : State) : Outc :=
  s.go fun e d => (d.imageSend e (.can p) 0x2001 0xC img).serveRows e

/-- FW_STAGE (R121). -/
def execFwStage (r : Route) (img : Image) (s : State) : Outc := s.go fun e d => (d.imageSend e r 0x2004 1 img).serveRows e

/-! ### Boot, store, journal and firmware (R87, R118 to R124) -/

/-- BOOT_RESTART (R87). -/
def execBootRestart (r : Route) (s : State) : Outc := s.odRow r 0x2001 0xB 1 1

/-- SAVE_ALL (R117, R118). -/
def execSaveAll (r : Route) (s : State) (x : Served := .done) : Outc :=
  s.go fun e d => d.odWrite e r 0x1010 1 (leBytes 4 0x65766173) fun q => { q with served := x }

/-- RESTORE_ALL (R118). -/
def execRestoreAll (r : Route) (s : State) : Outc := s.odRow r 0x1011 1 4 0x64616F6C

/-- JOURNAL_SELECT (R120). -/
def execJournalSelect (r : Route) (v : W64) (s : State) : Outc := s.odRow r 0x2003 2 8 v.toNat

/-- ACTIVATE (R122). -/
def execActivate (r : Route) (s : State) : Outc := s.odRow r 0x2004 4 1 1

/-- FUSE_SVN_RAISE (R124). -/
def execFuseSvnRaise (r : Route) (v : W32) (s : State) : Outc := s.odRow r 0x2004 5 4 v.toNat

/-! ### Bays (R132 to R135, R148, R153) -/

/-- CLAIM (R132). -/
def execClaim (r : Route) (n : Fin 16) (s : State) : Outc := s.odRow r (0x2100 + n) 2 1 1

/-- COMMIT (R134, R135). -/
def execCommit (r : Route) (n : Fin 16) (s : State) : Outc := s.odRow r (0x2100 + n) 2 1 2

/-- RECONFIGURE (R132). -/
def execReconfigure (r : Route) (n : Fin 16) (s : State) : Outc := s.odRow r (0x2100 + n) 2 1 3

/-- STOP (R132, R142). -/
def execStop (r : Route) (n : Fin 16) (s : State) : Outc := s.odRow r (0x2100 + n) 2 1 4

/-- RELEASE (R132). -/
def execRelease (r : Route) (n : Fin 16) (s : State) : Outc := s.odRow r (0x2100 + n) 2 1 5

/-- RESET (R132, R153). -/
def execReset (r : Route) (n : Fin 16) (s : State) : Outc := s.odRow r (0x2100 + n) 2 1 6

/-- SHARE_GRANT (R148, R149). -/
def execShareGrant (r : Route) (n : Fin 16) (slot : Fin 8) (v : W64) (s : State) : Outc := s.odRow r (0x2100 + n) (0x20 + slot) 8 v.toNat

/-- SHARE_ACCEPT (R148, R149). -/
def execShareAccept (r : Route) (n : Fin 16) (slot : Fin 8) (v : W64) (s : State) : Outc := s.odRow r (0x2100 + n) (0x28 + slot) 8 v.toNat

/-- REATTACH (R666, R667). -/
def execReattach (r : Route) (n : Fin 16) (token : List Byte) (s : State) : Outc := s.go fun e d => d.odWrite e r (0x2D10 + n) 2 token id

/-! ### The host link, Skylights, translation and faults in flight (R165, R172, R181, R196, R239, R264) -/

/-- LINK_CTL_RETRAIN (R165). -/
def execLinkCtlRetrain (r : Route) (s : State) : Outc := s.odRow r 0x2200 0x12 1 1

/-- HDM_MAP_WRITE (R172). -/
def execHdmMapWrite (r : Route) (k : Fin 16) (v : W32) (s : State) : Outc := s.odRow r 0x2201 (k + 1) 4 v.toNat

/-- VIOL_SELECT (R181). -/
def execViolSelect (r : Route) (v : W64) (s : State) : Outc := s.odRow r 0x2200 0xD 8 v.toNat

/-- SKY_MAP_WRITE (R196). -/
def execSkyMapWrite (r : Route) (n : Fin 16) (w : Fin 8) (v : W64) (s : State) : Outc := s.odRow r (0x2990 + n) (w + 2) 8 v.toNat

/-- LATH_INVAL_WRITE (R239). -/
def execLathInvalWrite (r : Route) (n : Fin 16) (v : W64) (s : State) : Outc := s.odRow r (0x2310 + n) 0xA 8 v.toNat

/-- FAULT_RESUME_RESUME (R264, R265). -/
def execFaultResumeResume (r : Route) (n : Fin 16) (s : State) : Outc := s.odRow r (0x2330 + n) 3 1 1

/-- FAULT_RESUME_ABORT (R264, R265). -/
def execFaultResumeAbort (r : Route) (n : Fin 16) (s : State) : Outc := s.odRow r (0x2330 + n) 3 1 2

/-! ### The cell, Spars, queues, channels, arrays (R293, R334, R366, R389, R498) -/

/-- CELL_TABLE_WRITE (R289, R293): `sub` counts from cell_enable at .01. -/
def execCellTableWrite (r : Route) (sub : Fin 18) (v : W16) (s : State) : Outc :=
  s.odRow r 0x2401 (sub + 1) (if sub.val < 2 then 1 else 2) v.toNat

/-- SPAR_CTL_DICT_ARM (R334): a write of spar_ctl with the arm bit set. -/
def execSparCtlDictArm (r : Route) (n : Fin 16) (v : W64) (s : State) : Outc := s.odRow r (0x2910 + n) 5 8 (v.toNat / 2 * 2 + 1)

/-- ENABLE (R366). -/
def execEnable (r : Route) (n : Fin 16) (q : Fin 8) (s : State) : Outc := s.odRow r (0x2680 + n) (16 * q + 4) 1 1

/-- DISABLE (R366). -/
def execDisable (r : Route) (n : Fin 16) (q : Fin 8) (s : State) : Outc := s.odRow r (0x2680 + n) (16 * q + 4) 1 2

/-- RESUME (R366). -/
def execResume (r : Route) (n : Fin 16) (q : Fin 8) (s : State) : Outc := s.odRow r (0x2680 + n) (16 * q + 4) 1 3

/-- SKIP (R366). -/
def execSkip (r : Route) (n : Fin 16) (q : Fin 8) (s : State) : Outc := s.odRow r (0x2680 + n) (16 * q + 4) 1 4

/-- RESTART (R389). -/
def execRestart (r : Route) (n : Fin 16) (s : State) : Outc := s.odRow r (0x2510 + n) 7 1 1

/-- ABORT (R389). -/
def execAbort (r : Route) (n : Fin 16) (s : State) : Outc := s.odRow r (0x2510 + n) 7 1 2

/-- CAL_REQUEST (R498). -/
def execCalRequest (r : Route) (n : Fin 16) (s : State) : Outc := s.odRow r (0x2710 + n) 0x12 1 1

/-! ### The sink, ports, regions and logs (R542, R543, R555, R585, R602, R653) -/

/-- SINK_READ_WRITE (R543). -/
def execSinkReadWrite (r : Route) (n : Fin 16) (v : W64) (s : State) : Outc := s.odRow r (0x2C10 + n) 4 8 v.toNat

/-- SINK_CTL_WRITE (R542, R543). -/
def execSinkCtlWrite (r : Route) (n : Fin 16) (v : W32) (s : State) : Outc := s.odRow r (0x2C10 + n) 2 4 v.toNat

/-- PORT_CTL_RETRAIN (R555). -/
def execPortCtlRetrain (r : Route) (p : Fin 12) (s : State) : Outc := s.odRow r (0x2A20 + p) 5 1 1

/-- PORT_CTL_CLEAR (R555, R585). -/
def execPortCtlClear (r : Route) (p : Fin 12) (s : State) : Outc := s.odRow r (0x2A20 + p) 5 1 2

/-- REG_CTL_WRITE (R593, R602). -/
def execRegCtlWrite (r : Route) (n : Fin 16) (v : W64) (s : State) : Outc :=
  s.go fun e d => (Dev.turnOf (fun c => match c with | .regCtlWrite q m x => q == r && m == n && x == v | _ => false)
    (fun e d => d.odSend e r (0x2A60 + n) 3 (leBytes 8 v.toNat) id) e d).serveRows e

/-- LOG_SELECT (R653). -/
def execLogSelect (r : Route) (v : W64) (s : State) : Outc := s.odRow r 0x2D00 2 8 v.toNat

/-- BAY_LOG_SELECT (R653). -/
def execBayLogSelect (r : Route) (n : Fin 16) (v : W64) (s : State) : Outc := s.odRow r (0x2D10 + n) 5 8 v.toNat

/-! ### Islands and loops (R617, R637, R639, R642) -/

/-- ISLAND_RESET (R617). -/
def execIslandReset (r : Route) (s : State) : Outc := s.odRow r 0x2B02 3 1 1

/-- POWER_DOWN (R617). -/
def execPowerDown (r : Route) (s : State) : Outc := s.odRow r 0x2B02 3 1 2

/-- WAKE (R617). -/
def execWake (r : Route) (s : State) : Outc := s.odRow r 0x2B02 3 1 3

/-- RETRAIN (R617). -/
def execRetrain (r : Route) (s : State) : Outc := s.odRow r 0x2B02 3 1 4

/-- SENSE_CLEAR (R637): `intact` names the rails whose pair has read intact for 100 ms. -/
def execSenseClear (r : Route) (v : Byte) (intact : List (Fin 3)) (s : State) : Outc :=
  s.go fun e d => d.odWrite e r 0x2B00 0xA [v] fun q => { q with intact := some (intact.map (·.val)) }

/-- LOOP_FREEZE (R628, R639). -/
def execLoopFreeze (r : Route) (v : Byte) (s : State) : Outc := s.odRow r 0x2B00 3 1 v.toNat

/-- DOMAIN_OVERRIDE (R639). -/
def execDomainOverride (r : Route) (v : W16) (s : State) : Outc := s.odRow r 0x2B01 4 2 v.toNat

/-- RATIO_OVERRIDE (R639). -/
def execRatioOverride (r : Route) (v : W16) (s : State) : Outc := s.odRow r 0x2B02 5 2 v.toNat

/-- SCRUB_REQUEST (R642). -/
def execScrubRequest (r : Route) (s : State) : Outc := s.odRow r 0x2B03 3 1 1

end Sys2Proof.Machine
end

