-- ==== Sys2Proof/Machine/Board.lean ====
section
/-! DEFINITION. The board edge and the way from cold to `READY` (chapters 02 and 03): reset, straps, the ROM, the firmware's start, rails,
`TRAINING`, the watchdog, thermal limits and the SMBus target (R36 to R56, R58 to R90, R116). -/
namespace Sys2Proof.Machine

/-! ### Reset (R53, R58, R59) -/

/-- A device in `RESET`: what lies in the flash, the fuses and the arrays' cells stands, and the board's own pins (R53, R84). -/
def Dev.inReset (d : Dev) (rstN standby : Bool) : Dev :=
  let z : Dev := {}
  let b : Board := {}
  { z with
    nv := d.nv
    board := { b with rstN := rstN, standby := standby, perst := d.board.perst, mainPg := d.board.mainPg, trstN := d.board.trstN }
    boot := { z.boot with restarts := if standby then d.boot.restarts else 0 }
    out := d.out
    free := d.free }

/-- The release of SYS_RST_N: device time starts at 0; islands 348 and 349 run; the span has a nonce of its own (R29, R58, R531). -/
def Dev.begin (d : Dev) (flash : Option Flash) : Dev :=
  let d := (d.inReset true true).draw
  { d.2 with
    nv := { d.2.nv with flash := flash.getD d.2.nv.flash }
    nonce := d.1 % 2 ^ 128
    loops := { d.2.loops with islands := [(348, { st := .active }), (349, { st := .active })] } }

/-- A device in `RESET` replaces the one in `s`: no memory of the main rails survives (R53, R76, R84). -/
def State.renew (s : State) (d : Dev) : State := { s with time := 0, mem := [], poison := [], dev := d }

/-- SYS_RST_N_RELEASE, from SYS_RST_N low: `flash` is the flash's content where a board programmer has driven it (R54, R58). -/
def execSysRstNRelease (flash : Option Flash) (s : State) : Outc :=
  if s.dev.board.rstN then .next s else .next (s.renew (s.dev.begin flash))

/-- SYS_RST_N_ASSERT (R53, R59). -/
def execSysRstNAssert (s : State) : Outc := .next (s.renew (s.dev.inReset false s.dev.board.standby))

/-- STANDBY_RAIL_LOSS (R53, R59): SYS_RST_N goes low with the rails (R41). -/
def execStandbyRailLoss (s : State) : Outc := .next (s.renew (s.dev.inReset false false))

/-! ### Straps (R36 to R38, R70, R73, R86) -/

/-- How many of the samples of a strap pin read 1. -/
def highs (l : List (BitVec 23)) (i : Nat) : Nat := (l.filter fun (x : BitVec 23) => bit x.toNat i).length

/-- The pins at which a test of the number of their 1 samples holds. -/
def pinsWhere (l : List (BitVec 23)) (p : Nat → Bool) : Nat := ((List.range 23).map fun i => b2n (p (highs l i)) * 2 ^ i).sum

/-- strap_notes: mode 11, node 0, a recovery boot ignored (R38). -/
def strapNotes (raw : Nat) : Nat :=
  b2n (raw % 4 == 3) + 2 * b2n (bits raw 8 2 == 0) + 4 * b2n (bit raw 9 && bits raw 8 2 == 0)

/-- The straps latch: the device enters `ROM` (R36, R38, R59, R70, R73, R86, R557). -/
def Dev.latchStraps (d : Dev) (e : Env) (l : List (BitVec 23)) : Dev :=
  let raw := pinsWhere l fun k => 5 ≤ k
  let d : Dev := { d with
    board := { d.board with
      samples := l
      latched := true
      strapRaw := BitVec.ofNat 23 raw
      unstable := BitVec.ofNat 23 (pinsWhere l fun k => k != 0 && k != 8)
      notes := BitVec.ofNat 3 (strapNotes raw) }
    boot := { d.boot with st := .rom, watchdog := some (e.time + 900000000) }
    fabric := { d.fabric with id := if bit raw 10 then some (bits raw 22 11) else none } }
  let d := d.romCan
  let d := if d.canOn then (d.send (.can 0 "boot-up" (0x700 + d.canNode) [0])).send (.can 1 "boot-up" (0x700 + d.canNode) [0]) else d
  if d.bootSrc && d.canOn then d.toRecovery e else d.romSlots

/-- STRAP_SAMPLE: one of eight, 20 µs apart (R36). -/
def execStrapSample (pins : BitVec 23) (s : State) : Outc :=
  s.go fun e d =>
    if !d.board.rstN || d.board.latched || e.time < 20000 * (d.board.samples.length + 1) then d else
    let l := d.board.samples ++ [pins]
    if l.length < 8 then { d with board := { d.board with samples := l } } else d.latchStraps e l

/-! ### The ROM (R61 to R67) -/

/-- Cause 1: the flash cannot be read, for both slots (R61, R66). -/
def Dev.noFlash (d : Dev) (e : Env) : Dev := ((d.setOd 0x2001 3 1).setOd 0x2001 4 1).noImage e

/-- ROM_SLOT_CHECK_END (R65, R66): `answered` is false where the flash did not answer, or a read exceeded 50 ms. -/
def execRomSlotCheckEnd (answered : Bool) (s : State) : Outc :=
  s.go fun e d =>
    match (d.boot.st == .rom, d.boot.tries) with
    | (true, k :: _) =>
      let i := flashSlot d.nv.flash k
      if !d.nv.flash.sfdpOk then d.noFlash e
      else if !answered then d.slotFail e k 10
      else match d.imageBad i with
        | some c => d.slotFail e k c
        | none => d.startImage e i k
    | _ => d

/-! ### The start of the management firmware (R69, R74, R96, R116, R118) -/

/-- A record is one of a stored entry whose value passes checks 5 and 6 (R99, R116). No entry of this device is sealed. -/
def Dev.recGood (d : Dev) (r : StoreRec) : Bool :=
  match entryOf r.index r.sub with
  | some t => t.stored && r.cls == 1 && r.value.length == t.ty.size && d.valueOk t r.index r.sub (leNat r.value)
  | none => false

/-- The flash is read for the store: the header of each bank, and the records of the bank in use (R115, R116). -/
def Dev.readBanks (d : Dev) : Dev :=
  let d := (d.flashRead (flashBankAt 0) 0x40).flashRead (flashBankAt 1) 0x40
  match bankInUse d.nv.flash with
  | some (k, b) => d.flashRead (flashBankAt (b2n k) + 0x40) (b.stop - 0x40)
  | none => d

/-- The store is read (R116, R118): values of good records apply in order, the others are counted; a restore that is due discards the
stored entries' records. The values in force stand where the firmware starts again in one span (R96, R123; DEDUCED, log entry 39). -/
def Dev.readStore (d : Dev) : Dev :=
  let d := d.readBanks
  let rs := storeRecs d.nv.flash
  let d := d.count 0x2005 3 (rs.filter fun r => !(d.recGood r)).length
  if d.boot.started then d
  else if d.nv.restoreDue then
    let keep := rs.filter fun (r : StoreRec) => r.cls != 1
    { d with nv := { d.nv with restoreDue := false, flash := if (flashBank d.nv.flash).isSome then compacted d.nv.flash keep else d.nv.flash } }
  else rs.foldl (fun d r => if d.recGood r then d.setOd r.index r.sub (leNat r.value) else d) d

/-- A start of the management firmware: transfers by USDO are aborted, the store is read, and both ports run at the stored bit rates (R74,
R106, R116). -/
def Dev.firmwareStart (d : Dev) (e : Env) : Dev :=
  let d := (d.usdoAbortAll e).readStore
  d.setRates (d.od 0x2002 1) (d.od 0x2002 2)

/-- fm_id as the cold start leaves it; with a strapped ID it is the fabric manager at once (R557, R588). -/
def Dev.takeFmId (d : Dev) : Dev :=
  let m := d.od 0x2A00 2
  { d with fabric := { d.fabric with fmId := m, fm := if bit d.board.strapRaw.toNat 10 then m else d.fabric.fm } }

/-- The management firmware runs once an image has started. -/
def BootSt.booted : BootSt → Bool
  | .powering => true | .training => true | .joining => true
  | .reset => false | .rom => false | .recovery => false | .ready => false | .failed => false

/-- MGMT_FIRMWARE_TAKEOVER, at an idle point of the server (R74, R116). -/
def execMgmtFirmwareTakeover (s : State) : Outc :=
  s.go fun e d =>
    if d.boot.firmware || !d.srv.reqs.isEmpty || !d.boot.st.booted then d else
    let d := d.firmwareStart e
    let d := if d.boot.started then d else d.takeFmId
    { d with boot := { d.boot with firmware := true, restricted := false, started := true } }

/-- ACTIVATION_TAKEOVER, at the server's idle point: the staged image is the one that runs (R69, R106, R116, R123). -/
def execActivationTakeover (s : State) : Outc :=
  s.go fun e d =>
    match d.srv.stageImg with
    | none => d
    | some i =>
      if !d.closing then d else
      let d := (d.firmwareStart e).winDiscardAll e
      { d with
        srv := { d.srv with activating := false }
        boot := { d.boot with image := i, fwDigest := imageDigest i, slot := d.stageSlot } }

/-! ### Main rails (R52, R59, R75, R89) -/

/-- MAIN_PG_RISE (R59): the device uses the pin from the latching of the straps on (R34). -/
def execMainPgRise (s : State) : Outc :=
  s.go fun e d =>
    if d.board.mainPg then d else
    let d : Dev := { d with board := { d.board with mainPg := true } }
    if d.board.latched && d.boot.st == .powering && d.board.mainPwrReq then d.toTraining e else d

/-- MAIN_PG_FALL (R34, R52, R67, R87, R89, R644): a fall that was not asked for is a fault. -/
def execMainPgFall (s : State) : Outc :=
  s.go fun e d =>
    if !d.board.mainPg then d else
    if !d.board.latched then { d with board := { d.board with mainPg := false } } else
    let d := (List.range 8).foldl (fun d k => d.scrubStop e k) ({ d with board := { d.board with mainPg := false } } : Dev)
    let d := d.railsGone
    let d :=
      if d.board.mainPwrReq then
        ((({ d with board := { d.board with fellAt := some e.time } } : Dev).count 0x2E01 5 1).boardFault 348 0xFFFF).toFailed true
      else if (d.boot.st == .training || d.boot.st == .joining || d.boot.st == .ready) && !d.boot.waitPgLow then d.toFailed true
      else d
    d.romIfDown e

/-- MAIN_RAILS_TIMEOUT (R75). -/
def execMainRailsTimeout (s : State) : Outc :=
  s.go fun e d =>
    match d.boot.pgDeadline with
    | some t => if d.boot.st == .powering && t ≤ e.time && !d.board.mainPg then (d.boardFault 348 0xFFFF).toFailed true else d
    | none => d

/-! ### `TRAINING` (R59, R76, R77, R81, R86) -/

/-- In attach mode 01, the device waits in `JOINING` for its ID and a port once its own parts are in service (R59, R81, R86). -/
def Dev.trainingEnd (d : Dev) : Dev :=
  if d.attachMode = 1 && d.boot.st == .training && d.boot.zeroed && d.boot.dOk then
    ({ d with boot := { d.boot with st := .joining, watchdog := none } } : Dev).portsMove
  else d

/-- HBM_TRAINING_END (R76): a third failure of a stack ends the boot. -/
def execHbmTrainingEnd (stack : Fin 8) (trained : Bool) (s : State) : Outc :=
  s.go fun _ d =>
    if d.boot.st != .training || d.boot.trained.contains stack.val then d
    else if trained then { d with boot := { d.boot with trained := listIns stack.val d.boot.trained } }
    else
      let k := smGet 0 d.boot.trainFails stack + 1
      let d : Dev := { d with boot := { d.boot with trainFails := smSet 0 d.boot.trainFails stack k } }
      if 3 ≤ k then (d.boardFault (304 + stack) stack).toFailed true else d

/-- HBM_ZEROING_END: all of HBM, its Ridge metadata included, is zero with valid ECC (R23, R76). -/
def execHbmZeroingEnd (s : State) : Outc :=
  s.go fun _ d =>
    if d.boot.st != .training || d.boot.zeroed || d.boot.trained.length != 8 then d
    else (({ d with boot := { d.boot with zeroed := true } } : Dev).store (.zero 0 0x6000000000)).trainingEnd

/-- The D section has failed (R67): the rails are released, and the other slot boots once they are down; a second failure in one boot
ends it. -/
def Dev.dFail (d : Dev) (e : Env) : Dev :=
  let d := d.setOd 0x2001 (if d.boot.slot = 1 then 4 else 3) 9
  let k := d.boot.dFails + 1
  let d : Dev := { d with boot := { d.boot with dFails := k } }
  if 2 ≤ k then d.toFailed false
  else ({ d with
    board := { d.board with mainPwrReq := false }
    boot := { d.boot with waitPgLow := true, tries := [1 - d.boot.slot % 2] } } : Dev).romIfDown e

/-- D_SECTION_CHECK_END (R67, R76). -/
def execDSectionCheckEnd (s : State) : Outc :=
  s.go fun e d =>
    if d.boot.st != .training || d.boot.dOk || d.boot.waitPgLow then d
    else if imageDBad d.boot.image then d.dFail e
    else ({ d with boot := { d.boot with dOk := true } } : Dev).trainingEnd

/-- EAVE_READY: attach modes 00 and 10, with the main rails in range (R76, R77). -/
def execEaveReady (s : State) : Outc :=
  s.go fun _ d =>
    if d.attachMode = 1 || !d.board.mainPg || d.board.eaveReady || !(d.boot.st == .training || d.boot.st == .ready) then d
    else ({ d with board := { d.board with eaveReady := true } } : Dev).detect

/-- Table — Ready conditions (R81). -/
def Dev.readyNow (d : Dev) : Bool :=
  if d.attachMode = 1 then
    d.boot.st == .joining && d.fabric.id.isSome && (List.range 12).any fun p => (d.port p).st == .inService
  else d.boot.st == .training && d.boot.zeroed && d.boot.dOk && d.board.eaveReady

/-- ENTER_READY (R81, R86). -/
def execEnterReady (s : State) : Outc :=
  s.go fun e d =>
    if d.readyNow then ({ d with boot := { d.boot with st := .ready, readyTime := e.time, watchdog := none } } : Dev).portsMove else d

/-- BOOT_WATCHDOG_EXPIRE (R86). -/
def execBootWatchdogExpire (s : State) : Outc :=
  s.go fun e d =>
    match d.boot.watchdog with
    | some t => if t ≤ e.time then (d.boardFault 348 0xFFFF).toFailed true else d
    | none => d

/-! ### Thermal limits (R46 to R48, R56, R644) -/

/-- A sensor has read a trip temperature: 115 °C on the die, 105 °C on an HBM stack (R46). -/
def tripTemp (stack : Option (Fin 8)) (temp : Int) : Bool :=
  decide ((match stack with | none => 115 * 8 | some _ => 105 * 8) ≤ temp)

/-- The reading of a sensor: the stack's, or the die's hottest, kept at island 348 (R46, R49; DESIGN CHOICE, log entry 38). -/
def Dev.takeTemp (d : Dev) (stack : Option (Fin 8)) (temp : Int) : Dev :=
  { d with board := match stack with
      | some k => { d.board with hbmTemp := smSet 0 d.board.hbmTemp k temp }
      | none => { d.board with islandTemp := smSet 0 d.board.islandTemp 348 temp } }

/-- The record of a `MAIN_PG` fall (R47, R56). -/
def FRec.isFall (t : Nat) (f : FRec) : Bool := f.time == t && f.severity == 5 && f.source == 0xD && f.island == 348 && f.object == 0xFFFF

/-- The record of a `MAIN_PG` fall of this tick becomes the trip's, in its new place: its cause is the trip (R56, R654). -/
def Dev.fallIsTrip (d : Dev) (e : Env) (x : Nat × Nat) : Dev :=
  match d.flog.find? (FRec.isFall e.time) with
  | some f => d.setLog e (fRecIns { f with island := x.1, object := x.2 } (d.flog.erase f))
  | none => d

/-- The island and the object of a trip. -/
def tripAt (stack : Option (Fin 8)) : Nat × Nat := match stack with | some k => (304 + k.val, k.val) | none => (348, 0xFFFF)

/-- THERMAL_TRIP (R46, R47, R56, R89, R644): of a die sensor, or of a stack's. -/
def execThermalTrip (stack : Option (Fin 8)) (temp : Int) (s : State) : Outc :=
  s.go fun e d =>
    if !d.board.latched || d.board.thermTrip || !(tripTemp stack temp) then d else
    let d := d.takeTemp stack temp
    let d : Dev := { d with board := { d.board with thermTrip := true, mainPwrReq := false } }
    let d := (List.range 8).foldl (fun d k => d.scrubStop e k) d
    let x := tripAt stack
    if d.board.fellAt = some e.time then
      let d := d.fallIsTrip e x
      ({ d with board := { d.board with fellAt := none } } : Dev).setOd 0x2E01 5 (d.od 0x2E01 5 - 1)
    else
      let d := d.boardFault x.1 x.2
      if d.boot.st.booted then d.toFailed true else d

/-- HBM_THROTTLE (R46, R644): a stack reaches 95 °C; its bandwidth is halved and its patrol pass pauses. -/
def execHbmThrottle (stack : Fin 8) (temp : Int) (s : State) : Outc :=
  s.go fun _ d =>
    if !d.board.mainPg || temp < 95 * 8 then d else
    let d := d.takeTemp (some stack) temp
    let d : Dev := { d with board := { d.board with throttled := listIns stack.val d.board.throttled } }
    let x := d.scrub stack
    if x.running then d.setScrub stack { x with paused := true } else d

/-- HBM_THROTTLE_END (R46, R644). -/
def execHbmThrottleEnd (stack : Fin 8) (temp : Int) (s : State) : Outc :=
  s.go fun _ d =>
    if !(d.board.throttled.contains stack.val) || 95 * 8 ≤ temp then d else
    let d := d.takeTemp (some stack) temp
    let d : Dev := { d with board := { d.board with throttled := listDel stack.val d.board.throttled } }
    d.setScrub stack { d.scrub stack with paused := false }

/-- VR_HOT_N_ASSERT: low for 1 µs (R34, R48). -/
def execVrHotNAssert (s : State) : Outc :=
  s.go fun _ d =>
    if !d.board.latched || d.board.vrHot then d
    else ({ d with board := { d.board with vrHot := true } } : Dev).count 0x2E01 6 1

/-- VR_HOT_N_DEASSERT (R48). -/
def execVrHotNDeassert (s : State) : Outc := s.go fun _ d => { d with board := { d.board with vrHot := false } }

/-! ### The SMBus target (R33, R49, R85) -/

/-- The device answers on SMBus: after the straps have latched (R49, R85). -/
def Dev.smbHere (d : Dev) : Bool := d.board.rstN && d.board.latched && d.boot.st != .reset

/-- A temperature in °C, as a signed byte (R49; PRESUMED, log entry 52). -/
def smbTemp (t : Int) : Byte := BitVec.ofNat 8 (ofInt 8 (t / 8))

/-- One byte more in a packet error code: x^8 + x^2 + x + 1, the highest bit first (R49; SMBus 3.2: PRESUMED, log entry 52). -/
def pecByte (c b : Byte) : Byte :=
  (List.range 8).foldl (fun (c : Byte) _ => if c.msb then (c <<< 1) ^^^ 7 else c <<< 1) (c ^^^ b)

/-- What a read by a command code returns, with the bytes that its packet error code also covers: the count of a block. None: the code is
none of Table — SMBus commands, and the device NAKs it (R49). The device's stepping is that of R1. -/
def Dev.smbCmd (d : Dev) (code : Nat) : Option (List Byte × List Byte) :=
  if code = 1 then some ([], [smbTemp (hottest d.board.islandTemp)])
  else if code = 2 then some ([], [smbTemp (hottest d.board.hbmTemp)])
  else if code = 3 then some ([], leBytes 2 d.smbStatus)
  else if 0x20 ≤ code && code < 0x28 then
    some ([32], fit 32 ((Config.fru Config.partName 0x00020000 Config.serial d.board.strapRaw.toNat).drop (32 * (code - 0x20))))
  else none

/-- An SMBus read at address 0x62: an answer with its packet error code, or a NAK, of the address where the device does not answer and of a
code that it does not support (R49). -/
def Dev.smbRead (d : Dev) (code : Nat) : Dev :=
  match (d.smbHere, d.smbCmd code) with
  | (true, some (n, bs)) => d.send (.smb bs (([0xC4, BitVec.ofNat 8 code, 0xC5] ++ n ++ bs).foldl pecByte 0))
  | _ => d

/-- SMB_READ_DIE_TEMP (R49). -/
def execSmbReadDieTemp (s : State) : Outc := s.go fun _ d => d.smbRead 1

/-- SMB_READ_HBM_TEMP (R49). -/
def execSmbReadHbmTemp (s : State) : Outc := s.go fun _ d => d.smbRead 2

/-- SMB_READ_STATUS. A bit that is read is no longer newly set, and `SMB_ALERT_N` is released (R33, R49; that the read ends 'newly set':
DESIGN CHOICE, log entry 52). -/
def execSmbReadStatus (s : State) : Outc :=
  s.go fun _ d =>
    let x := d.smbRead 3
    if d.smbHere then { x with board := { d.board with smbSeen := d.board.smbSeen ||| d.smbStatus } } else x

/-- SMB_READ_FRU: a block of 32 bytes of the FRU identity (R49). -/
def execSmbReadFru (block : Fin 8) (s : State) : Outc := s.go fun _ d => d.smbRead (0x20 + block)

/-! ### The pads (R30, R33 to R35, R53, R54) -/

/-- The output and bidirectional pads (Table — Output signals). -/
inductive Pad where
  | mainPwrReqN | thermTripN | ppsOut | smbScl | smbSda | smbAlertN | avsClk | avsMdata | spiClk | spiCsN | spiIo (bit : Fin 4) | tdo
  | canTxd (port : Fin 2) | canStb (port : Fin 2) | clkreqN | wakeN
deriving DecidableEq, Repr

/-- What the device does at a pad: nothing, and the board's resistor sets the level (`z`, or `rel` at an open-drain pad); a level; or the
traffic of the pad's bus, which `Out` gives message by message. -/
inductive Drive where
  | z | rel | low | high | bus
deriving DecidableEq, Repr

/-- The open-drain pads (Table — Output signals). -/
def Pad.openDrain : Pad → Bool
  | .mainPwrReqN => true | .thermTripN => true | .smbScl => true | .smbSda => true | .smbAlertN => true | .clkreqN => true | .wakeN => true
  | .ppsOut => false | .avsClk => false | .avsMdata => false | .spiClk => false | .spiCsN => false | .spiIo _ => false | .tdo => false
  | .canTxd _ => false | .canStb _ => false

/-- An open-drain pad pulls low, or is released. -/
def pull (low : Bool) : Drive := if low then .low else .rel

/-- What the device does at each pad; before the straps latch, and so in reset and without standby power, it drives none (R30, R33, R38,
R53, R54). `PPS_OUT` is low but for the pulse that the output `pps` stands for. -/
def Dev.drive (d : Dev) (p : Pad) : Drive :=
  if !d.board.latched then (if Pad.openDrain p then .rel else .z) else
  match p with
  | .mainPwrReqN => pull d.board.mainPwrReq
  | .thermTripN => pull d.board.thermTrip
  | .smbAlertN => pull d.smbAlert
  | .clkreqN => pull (d.attachMode != 1)
  | .wakeN => .rel
  | .ppsOut => .low
  | .smbScl => .bus | .smbSda => .bus | .avsClk => .bus | .avsMdata => .bus | .spiClk => .bus | .spiCsN => .bus | .spiIo _ => .bus
  | .tdo => if d.board.mainPg && (d.board.tap == .shiftDr || d.board.tap == .shiftIr) then .bus else .z
  | .canTxd _ => if d.canOn then .high else .z
  | .canStb _ => .low

/-- The PCIe transmitters drive and the receivers present their termination: never before the straps latch, nor in attach mode 01 (R35). -/
def Dev.pcieLanes (d : Dev) : Bool := d.board.latched && d.attachMode != 1

/-- The same of the Purlin lanes (R35). -/
def Dev.purlinLanes (d : Dev) : Bool := d.board.latched

/-! ### Boundary scan (R33 to R35) -/

/-- The state that a rising edge of `TCK` takes the boundary-scan controller to, by the level of `TMS` (IEEE 1149.1: PRESUMED, log entry
58). -/
def Tap.next (tms : Bool) : Tap → Tap
  | .reset => if tms then .reset else .idle
  | .idle => if tms then .selectDr else .idle
  | .selectDr => if tms then .selectIr else .captureDr
  | .captureDr => if tms then .exit1Dr else .shiftDr
  | .shiftDr => if tms then .exit1Dr else .shiftDr
  | .exit1Dr => if tms then .updateDr else .pauseDr
  | .pauseDr => if tms then .exit2Dr else .pauseDr
  | .exit2Dr => if tms then .updateDr else .shiftDr
  | .updateDr => if tms then .selectDr else .idle
  | .selectIr => if tms then .reset else .captureIr
  | .captureIr => if tms then .exit1Ir else .shiftIr
  | .shiftIr => if tms then .exit1Ir else .shiftIr
  | .exit1Ir => if tms then .updateIr else .pauseIr
  | .pauseIr => if tms then .exit2Ir else .pauseIr
  | .exit2Ir => if tms then .updateIr else .shiftIr
  | .updateIr => if tms then .selectDr else .idle

/-- A rising edge of `TCK`: boundary scan needs the main rails, and `TMS` is ignored while `TRST_N` is low, which holds the controller in reset
(R35). No row of the command table clocks `TCK` or moves `TRST_N`: log entry 58. -/
def Dev.tapStep (d : Dev) (tms : Bool) : Dev :=
  { d with board := { d.board with tap := if !d.board.trstN then .reset else if d.board.mainPg then Tap.next tms d.board.tap else d.board.tap } }

end Sys2Proof.Machine
end

