-- ==== Sys2Proof/Machine/Placing.lean ====
section
/-! DEFINITION. The rows that bring a placement access: through BAR4, by RoCEv2, and by PUT and GET (chapter 22), with what takes effect before an
access of its tick (R607, R608). -/
namespace Sys2Proof.Machine

/-- The command opens a job in a strict Bay, and may seal regions (R602). -/
def Dev.seals (d : Dev) : Instr → Bool
  | .beginJob n _ _ => d.strict n
  | _ => false

/-- The command writes reg_base or reg_ctl: by its row, or as the service of such a request that waits (R602). -/
def Dev.setsRegion (d : Dev) : Instr → Bool
  | .regCtlWrite .. => true
  | .dictRequestServe _ => d.srv.reqs.head?.any fun r => r.op != .read && 0x2A60 ≤ r.idx && r.idx < 0x2A70 && (r.sub == 2 || r.sub == 3)
  | _ => false

/-- Writes of reg_ctl and reg_base, and seals, of the tick take effect before a placement access of it is checked (R607, R608). -/
def Dev.leadPlace (d : Dev) (e : Env) : Dev :=
  (d.lead e (Dev.setsRegion d) fun d c => match c with
    | .regCtlWrite r n v => d.odWrite { e with tick := [] } r (0x2A60 + n) 3 (leBytes 8 v.toNat) id
    | .dictRequestServe x => d.serveTop e x
    | _ => d).lead e (Dev.seals d) fun d c => match c with
    | .beginJob n q p => d.beginJob e n q p
    | _ => d

/-! ### Purlin (R569, R599) -/

/-- PUT. -/
def execPut (p : Fin 12) (f : Frame) (s : State) : Outc := s.go fun e d => (d.leadPlace e).typedFrame e p f 0x20

/-- GET. -/
def execGet (p : Fin 12) (f : Frame) (s : State) : Outc := s.go fun e d => (d.leadPlace e).typedFrame e p f 0x21

/-! ### RoCEv2 (R578, R599) -/

/-- RDMA_WRITE. -/
def execRdmaWrite (p : Fin 12) (k : RocePkt) (s : State) : Outc := s.go fun e d => (d.leadPlace e).roceIn e p k true

/-- RDMA_READ. -/
def execRdmaRead (p : Fin 12) (k : RocePkt) (s : State) : Outc := s.go fun e d => (d.leadPlace e).roceIn e p k false

/-! ### BAR4 (R595, R599) -/

/-- BAR4_WRITE: refused, it is dropped. -/
def execBar4Write (rid : W16) (ap : Fin 256) (off : Nat) (data : List Byte) (s : State) : Outc :=
  s.go fun e d =>
    let d := d.leadPlace e
    if !(d.hostHere 0) || d.boot.st != .ready then d
    else if off / 4096 != (off + data.length - 1) / 4096 then d.violateFn e rid.toNat 1 0
    else match d.barBad rid.toNat ap bar4Wr off data.length true with
      | some _ => d.placeRefuse (ap / 16)
      | none => d.placeWrite (ap / 16) (ap % 16) off data { id := 0, bay := 0, slot := 0, lpa := 0, data := [], count := data.length }

/-- BAR4_READ: refused, it completes with UR. -/
def execBar4Read (rid : W16) (ap : Fin 256) (off len tag : Nat) (s : State) : Outc :=
  s.go fun e d =>
    let d := d.leadPlace e
    if !(d.hostHere 0) then d
    else if d.boot.st != .ready then d.hostSend (.cpl tag "UR" [])
    else if off / 4096 != (off + len - 1) / 4096 then (d.violateFn e rid.toNat 1 1).hostSend (.cpl tag "UR" [])
    else match d.barBad rid.toNat ap bar4Rd off len false with
      | some _ => (d.placeRefuse (ap / 16)).hostSend (.cpl tag "UR" [])
      | none => (d.placeRead (ap / 16) (ap % 16) off len { id := 0, bay := 0, slot := 0, lpa := 0, data := [], tag := some tag }).flushPlaces e

end Sys2Proof.Machine
end

