-- ==== Sys2Proof/Machine/Dispatch.lean ====
section
/-! DEFINITION. The effect of each command on everything but the queue of commands: one arm per row of the table. -/
namespace Sys2Proof.Machine

def exec (i : Instr) (s : State) : Host.Outcome State Fault Refusal :=
  match i with
  | .sysRstNRelease flash => Sys2Proof.Machine.execSysRstNRelease flash s
  | .sysRstNAssert => Sys2Proof.Machine.execSysRstNAssert s
  | .standbyRailLoss => Sys2Proof.Machine.execStandbyRailLoss s
  | .strapSample pins => Sys2Proof.Machine.execStrapSample pins s
  | .romSlotCheckEnd answered => Sys2Proof.Machine.execRomSlotCheckEnd answered s
  | .mgmtFirmwareTakeover => Sys2Proof.Machine.execMgmtFirmwareTakeover s
  | .mainPgRise => Sys2Proof.Machine.execMainPgRise s
  | .mainPgFall => Sys2Proof.Machine.execMainPgFall s
  | .mainRailsTimeout => Sys2Proof.Machine.execMainRailsTimeout s
  | .hbmTrainingEnd stack trained => Sys2Proof.Machine.execHbmTrainingEnd stack trained s
  | .hbmZeroingEnd => Sys2Proof.Machine.execHbmZeroingEnd s
  | .dSectionCheckEnd => Sys2Proof.Machine.execDSectionCheckEnd s
  | .eaveReady => Sys2Proof.Machine.execEaveReady s
  | .enterReady => Sys2Proof.Machine.execEnterReady s
  | .bootWatchdogExpire => Sys2Proof.Machine.execBootWatchdogExpire s
  | .bootRestart r => Sys2Proof.Machine.execBootRestart r s
  | .recoveryImageDownload p img => Sys2Proof.Machine.execRecoveryImageDownload p img s
  | .perstNRise => Sys2Proof.Machine.execPerstNRise s
  | .perstNFall => Sys2Proof.Machine.execPerstNFall s
  | .thermalTrip stack temp => Sys2Proof.Machine.execThermalTrip stack temp s
  | .hbmThrottle stack temp => Sys2Proof.Machine.execHbmThrottle stack temp s
  | .vrHotNAssert => Sys2Proof.Machine.execVrHotNAssert s
  | .smbReadDieTemp => Sys2Proof.Machine.execSmbReadDieTemp s
  | .smbReadHbmTemp => Sys2Proof.Machine.execSmbReadHbmTemp s
  | .smbReadStatus => Sys2Proof.Machine.execSmbReadStatus s
  | .smbReadFru block => Sys2Proof.Machine.execSmbReadFru block s
  | .configRequest tag op => Sys2Proof.Machine.execConfigRequest tag op s
  | .usdoInitiate p write idx sub data last => Sys2Proof.Machine.execUsdoInitiate p write idx sub data last s
  | .usdoSegment p data last => Sys2Proof.Machine.execUsdoSegment p data last s
  | .usdoTimeout p => Sys2Proof.Machine.execUsdoTimeout p s
  | .canBusOff p => Sys2Proof.Machine.execCanBusOff p s
  | .canBusOffRecovery p => Sys2Proof.Machine.execCanBusOffRecovery p s
  | .odRead fn => Sys2Proof.Machine.execOdRead fn s
  | .odWrite fn => Sys2Proof.Machine.execOdWrite fn s
  | .odWriteAppend fn => Sys2Proof.Machine.execOdWriteAppend fn s
  | .odCmdNone fn => Sys2Proof.Machine.execOdCmdNone fn s
  | .odWindowTimeout fn => Sys2Proof.Machine.execOdWindowTimeout fn s
  | .dictRequestServe x => Sys2Proof.Machine.execDictRequestServe s x
  | .saveAll r x => Sys2Proof.Machine.execSaveAll r s x
  | .restoreAll r => Sys2Proof.Machine.execRestoreAll r s
  | .journalSelect r v => Sys2Proof.Machine.execJournalSelect r v s
  | .fwStage r img => Sys2Proof.Machine.execFwStage r img s
  | .fwStageEnd flashOk => Sys2Proof.Machine.execFwStageEnd flashOk s
  | .activate r => Sys2Proof.Machine.execActivate r s
  | .activationTakeover => Sys2Proof.Machine.execActivationTakeover s
  | .fuseSvnRaise r v => Sys2Proof.Machine.execFuseSvnRaise r v s
  | .claim r n => Sys2Proof.Machine.execClaim r n s
  | .commit r n => Sys2Proof.Machine.execCommit r n s
  | .commitScrubEnd n => Sys2Proof.Machine.execCommitScrubEnd n s
  | .reconfigure r n => Sys2Proof.Machine.execReconfigure r n s
  | .stop r n => Sys2Proof.Machine.execStop r n s
  | .release r n => Sys2Proof.Machine.execRelease r n s
  | .reset r n => Sys2Proof.Machine.execReset r n s
  | .drainEnd n => Sys2Proof.Machine.execDrainEnd n s
  | .bayBecomesIdle n => Sys2Proof.Machine.execBayBecomesIdle n s
  | .holdTimeExpire n => Sys2Proof.Machine.execHoldTimeExpire n s
  | .shareGrant r n slot v => Sys2Proof.Machine.execShareGrant r n slot v s
  | .shareAccept r n slot v => Sys2Proof.Machine.execShareAccept r n slot v s
  | .dlUp width rate flit cxl => Sys2Proof.Machine.execDlUp width rate flit cxl s
  | .linkRecoveryEnter => Sys2Proof.Machine.execLinkRecoveryEnter s
  | .linkRecoveryExit width rate flit cxl => Sys2Proof.Machine.execLinkRecoveryExit width rate flit cxl s
  | .dlDown => Sys2Proof.Machine.execDlDown s
  | .hotResetReceived => Sys2Proof.Machine.execHotResetReceived s
  | .linkDisable => Sys2Proof.Machine.execLinkDisable s
  | .linkCtlRetrain r => Sys2Proof.Machine.execLinkCtlRetrain r s
  | .flrPf0 tag => Sys2Proof.Machine.execFlrPf0 s tag
  | .flrVf n tag => Sys2Proof.Machine.execFlrVf n s tag
  | .vfEnableClear tag => Sys2Proof.Machine.execVfEnableClear s tag
  | .busMasterEnableClear fn tag => Sys2Proof.Machine.execBusMasterEnableClear fn s tag
  | .busMasterEnableSet fn tag => Sys2Proof.Machine.execBusMasterEnableSet fn s tag
  | .vfResizableBarWrite gib tag => Sys2Proof.Machine.execVfResizableBarWrite gib s tag
  | .hdmDecoderCommit k base size => Sys2Proof.Machine.execHdmDecoderCommit k base size s
  | .hdmMapWrite r k v => Sys2Proof.Machine.execHdmMapWrite r k v s
  | .msixUnmask fn vec => Sys2Proof.Machine.execMsixUnmask fn vec s
  | .ideKmKey stream vfs ranges => Sys2Proof.Machine.execIdeKmKey stream vfs s ranges
  | .ideIntegrityFailure stream header => Sys2Proof.Machine.execIdeIntegrityFailure stream header s
  | .atomicopFetchadd q => Sys2Proof.Machine.execAtomicopFetchadd q s
  | .atomicopSwap q => Sys2Proof.Machine.execAtomicopSwap q s
  | .atomicopCas q => Sys2Proof.Machine.execAtomicopCas q s
  | .partnerViolation v => Sys2Proof.Machine.execPartnerViolation v s
  | .completionReceived tag st data => Sys2Proof.Machine.execCompletionReceived tag st data s
  | .completionTimeout tag => Sys2Proof.Machine.execCompletionTimeout tag s
  | .violSelect r v => Sys2Proof.Machine.execViolSelect r v s
  | .memRd k off mv tag => Sys2Proof.Machine.execMemRd k off mv tag s
  | .memRdData k off tag => Sys2Proof.Machine.execMemRdData k off tag s
  | .memWr k off mv data tag => Sys2Proof.Machine.execMemWr k off mv data tag s
  | .memWrPtl k off mv mask data tag => Sys2Proof.Machine.execMemWrPtl k off mv mask data tag s
  | .evDbQ n q v => Sys2Proof.Machine.execEvDbQ n q v s
  | .evDbFence n v => Sys2Proof.Machine.execEvDbFence n v s
  | .fenceRelease n => Sys2Proof.Machine.execFenceRelease n s
  | .fenceDoneRead n tag => Sys2Proof.Machine.execFenceDoneRead n tag s
  | .hatchPost n slot data => Sys2Proof.Machine.execHatchPost n slot data s
  | .htOutAck n v => Sys2Proof.Machine.execHtOutAck n v s
  | .skylightWrite n off data => Sys2Proof.Machine.execSkylightWrite n off data s
  | .skylightRead n off len tag => Sys2Proof.Machine.execSkylightRead n off len tag s
  | .skyMapWrite r n w v => Sys2Proof.Machine.execSkyMapWrite r n w v s
  | .lowHalfRead fn off tag len => Sys2Proof.Machine.execLowHalfRead fn off tag s len
  | .highHalfRead fn off tag => Sys2Proof.Machine.execHighHalfRead fn off tag s
  | .registerWriteOther fn off data => Sys2Proof.Machine.execRegisterWriteOther fn off data s
  | .lathWalkEnd id readError => Sys2Proof.Machine.execLathWalkEnd id readError s
  | .translationCompletion tag malformed hpa size canRead canWrite => Sys2Proof.Machine.execTranslationCompletion tag malformed hpa size canRead canWrite s
  | .atsInvalidateRequest n itag pasid base size => Sys2Proof.Machine.execAtsInvalidateRequest n itag pasid base size s
  | .atsInvalidateComplete n itag => Sys2Proof.Machine.execAtsInvalidateComplete n itag s
  | .lathInvalWrite r n v => Sys2Proof.Machine.execLathInvalWrite r n v s
  | .lathInvalComplete n => Sys2Proof.Machine.execLathInvalComplete n s
  | .prgSuccess idx pasid => Sys2Proof.Machine.execPrgSuccess idx pasid s
  | .prgInvalidRequest idx pasid => Sys2Proof.Machine.execPrgInvalidRequest idx pasid s
  | .prgResponseFailure idx pasid => Sys2Proof.Machine.execPrgResponseFailure idx pasid s
  | .priStatusClear tag => Sys2Proof.Machine.execPriStatusClear s tag
  | .prgTimeout idx => Sys2Proof.Machine.execPrgTimeout idx s
  | .faultResumeResume r n => Sys2Proof.Machine.execFaultResumeResume r n s
  | .faultResumeAbort r n => Sys2Proof.Machine.execFaultResumeAbort r n s
  | .rdShared a line ecc tn => Sys2Proof.Machine.execRdShared a line ecc s tn
  | .rdOwn a line ecc tn => Sys2Proof.Machine.execRdOwn a line ecc s tn
  | .upgrade a line ecc tn => Sys2Proof.Machine.execUpgrade a line ecc s tn
  | .wbDirty a line data poison tn => Sys2Proof.Machine.execWbDirty a line data poison s tn
  | .ncRead isl line tn ecc mask => Sys2Proof.Machine.execNcRead isl line tn ecc s mask
  | .ncWrite isl line tn mask data ecc => Sys2Proof.Machine.execNcWrite isl line tn mask data ecc s
  | .ncAtomic isl line tn op off size operand compare returning ecc => Sys2Proof.Machine.execNcAtomic isl line tn op off size operand compare returning ecc s
  | .snpShared c line tn => Sys2Proof.Machine.execSnpShared c line s tn
  | .snpInv c line tn => Sys2Proof.Machine.execSnpInv c line s tn
  | .snpCur c line tn => Sys2Proof.Machine.execSnpCur c line s tn
  | .snpAck a line st => Sys2Proof.Machine.execSnpAck a line st s
  | .snpData a line st data poison => Sys2Proof.Machine.execSnpData a line st data poison s
  | .cmpAck a line => Sys2Proof.Machine.execCmpAck a line s
  | .wbAck c line => Sys2Proof.Machine.execWbAck c line s
  | .cmp isl line tn st => Sys2Proof.Machine.execCmp isl line tn st s
  | .data isl line tn data st poison => Sys2Proof.Machine.execData isl line tn data st poison s
  | .retry isl line tn => Sys2Proof.Machine.execRetry isl line tn s
  | .gone isl line tn => Sys2Proof.Machine.execGone isl line tn s
  | .retryResend isl line tn => Sys2Proof.Machine.execRetryResend isl line tn s
  | .snoopTimeout a line => Sys2Proof.Machine.execSnoopTimeout a line s
  | .cellTableWrite r sub v => Sys2Proof.Machine.execCellTableWrite r sub v s
  | .cellChangeEnd => Sys2Proof.Machine.execCellChangeEnd s
  | .birsp line st data => Sys2Proof.Machine.execBirsp line st data s
  | .biconflict line => Sys2Proof.Machine.execBiconflict line s
  | .bisnpTimeout line => Sys2Proof.Machine.execBisnpTimeout line s
  | .h2dSnpData hpa => Sys2Proof.Machine.execH2dSnpData hpa s
  | .h2dSnpInv hpa => Sys2Proof.Machine.execH2dSnpInv hpa s
  | .h2dSnpCur hpa => Sys2Proof.Machine.execH2dSnpCur hpa s
  | .hostGoResponse hpa st data => Sys2Proof.Machine.execHostGoResponse hpa st data s
  | .spValueWrite n j v => Sys2Proof.Machine.execSpValueWrite n j v s
  | .spAdd n j v => Sys2Proof.Machine.execSpAdd n j v s
  | .spThreshWrite n j v => Sys2Proof.Machine.execSpThreshWrite n j v s
  | .arm n j v => Sys2Proof.Machine.execArm n j v s
  | .disarm n j v => Sys2Proof.Machine.execDisarm n j v s
  | .sparCtlDictArm r n v => Sys2Proof.Machine.execSparCtlDictArm r n v s
  | .sparFireEnd sp => Sys2Proof.Machine.execSparFireEnd sp s
  | .commandFetch n readError => Sys2Proof.Machine.execCommandFetch n readError s
  | .commandStart n q => Sys2Proof.Machine.execCommandStart n q s
  | .nop n q p => Sys2Proof.Machine.execNop n q p s
  | .fence n q p => Sys2Proof.Machine.execFence n q p s
  | .fenceComplete n q p => Sys2Proof.Machine.execFenceComplete n q p s
  | .wait n q p => Sys2Proof.Machine.execWait n q p s
  | .waitSatisfied n q p => Sys2Proof.Machine.execWaitSatisfied n q p s
  | .waitTimeout n q p => Sys2Proof.Machine.execWaitTimeout n q p s
  | .signal n q p => Sys2Proof.Machine.execSignal n q p s
  | .hold n q p => Sys2Proof.Machine.execHold n q p s
  | .holdComplete n q p => Sys2Proof.Machine.execHoldComplete n q p s
  | .layer n q p => Sys2Proof.Machine.execLayer n q p s
  | .layerComplete n q p => Sys2Proof.Machine.execLayerComplete n q p s
  | .beginJob n q p => Sys2Proof.Machine.execBeginJob n q p s
  | .endJob n q p => Sys2Proof.Machine.execEndJob n q p s
  | .lathInval n q p => Sys2Proof.Machine.execLathInval n q p s
  | .gutter n q p => Sys2Proof.Machine.execGutter n q p s
  | .course n q p => Sys2Proof.Machine.execCourse n q p s
  | .chain n q p => Sys2Proof.Machine.execChain n q p s
  | .run n q p => Sys2Proof.Machine.execRun n q p s
  | .engine n q p => Sys2Proof.Machine.execEngine n q p s
  | .seat n q p => Sys2Proof.Machine.execSeat n q p s
  | .trim n q p => Sys2Proof.Machine.execTrim n q p s
  | .enable r n q => Sys2Proof.Machine.execEnable r n q s
  | .disable r n q => Sys2Proof.Machine.execDisable r n q s
  | .resume r n q => Sys2Proof.Machine.execResume r n q s
  | .skip r n q => Sys2Proof.Machine.execSkip r n q s
  | .descriptorFetch c ecc => Sys2Proof.Machine.execDescriptorFetch c ecc s
  | .descriptorEnd c ecc => Sys2Proof.Machine.execDescriptorEnd c ecc s
  | .restart r n => Sys2Proof.Machine.execRestart r n s
  | .abort r n => Sys2Proof.Machine.execAbort r n s
  | .blockListBurstReturn c ecc => Sys2Proof.Machine.execBlockListBurstReturn c ecc s
  | .coursePassEnd c ecc => Sys2Proof.Machine.execCoursePassEnd c ecc s
  | .derateRecompute eccRetryPpm => Sys2Proof.Machine.execDerateRecompute eccRetryPpm s
  | .proportionalServiceEnd res => Sys2Proof.Machine.execProportionalServiceEnd res s
  | .halt c => Sys2Proof.Machine.execHalt c s
  | .load c ecc => Sys2Proof.Machine.execLoad c ecc s
  | .store c => Sys2Proof.Machine.execStore c s
  | .matvec c => Sys2Proof.Machine.execMatvec c s
  | .eltwise c => Sys2Proof.Machine.execEltwise c s
  | .requant c => Sys2Proof.Machine.execRequant c s
  | .ringTake c => Sys2Proof.Machine.execRingTake c s
  | .ringPut c => Sys2Proof.Machine.execRingPut c s
  | .sparSet c => Sys2Proof.Machine.execSparSet c s
  | .sparAdd c => Sys2Proof.Machine.execSparAdd c s
  | .sparWait c => Sys2Proof.Machine.execSparWait c s
  | .sparFetchadd c => Sys2Proof.Machine.execSparFetchadd c s
  | .hatchTake c => Sys2Proof.Machine.execHatchTake c s
  | .hatchRelease c => Sys2Proof.Machine.execHatchRelease c s
  | .hatchFill c => Sys2Proof.Machine.execHatchFill c s
  | .loop c => Sys2Proof.Machine.execLoop c s
  | .branch c => Sys2Proof.Machine.execBranch c s
  | .barrier c => Sys2Proof.Machine.execBarrier c s
  | .coreWaitSatisfied c => Sys2Proof.Machine.execCoreWaitSatisfied c s
  | .engineOpStart g => Sys2Proof.Machine.execEngineOpStart g s
  | .engineOpEnd g => Sys2Proof.Machine.execEngineOpEnd g s
  | .flashTaskEnd n poisoned => Sys2Proof.Machine.execFlashTaskEnd n poisoned s
  | .thatchEvaluation n q p stage reads => Sys2Proof.Machine.execThatchEvaluation n q p stage reads s
  | .seatEnd a m => Sys2Proof.Machine.execSeatEnd a m s
  | .trimEnd a pair fit spareOk => Sys2Proof.Machine.execTrimEnd a pair fit spareOk s
  | .calibrationStart a => Sys2Proof.Machine.execCalibrationStart a s
  | .calibrationEnd a fits => Sys2Proof.Machine.execCalibrationEnd a fits s
  | .calTimeTrigger a => Sys2Proof.Machine.execCalTimeTrigger a s
  | .calTemperatureSample b temp => Sys2Proof.Machine.execCalTemperatureSample b temp s
  | .calRequest r n => Sys2Proof.Machine.execCalRequest r n s
  | .certify n q p stage => Sys2Proof.Machine.execCertify n q p stage s
  | .auditEnd n => Sys2Proof.Machine.execAuditEnd n s
  | .inputDigestEnd n j => Sys2Proof.Machine.execInputDigestEnd n j s
  | .outputDigestEnd n j => Sys2Proof.Machine.execOutputDigestEnd n j s
  | .signatureEnd n signerOk => Sys2Proof.Machine.execSignatureEnd n signerOk s
  | .sinkRecordWrite n => Sys2Proof.Machine.execSinkRecordWrite n s
  | .sinkReadWrite r n v => Sys2Proof.Machine.execSinkReadWrite r n v s
  | .sinkCtlWrite r n v => Sys2Proof.Machine.execSinkCtlWrite r n v s
  | .portLock p => Sys2Proof.Machine.execPortLock p s
  | .portLinkLoss p => Sys2Proof.Machine.execPortLinkLoss p s
  | .portCtlRetrain r p => Sys2Proof.Machine.execPortCtlRetrain r p s
  | .portCtlClear r p => Sys2Proof.Machine.execPortCtlClear r p s
  | .helloSend p => Sys2Proof.Machine.execHelloSend p s
  | .hello p id assigned port => Sys2Proof.Machine.execHello p id assigned port s
  | .helloTimeout p => Sys2Proof.Machine.execHelloTimeout p s
  | .assign p f => Sys2Proof.Machine.execAssign p f s
  | .lack p f => Sys2Proof.Machine.execLack p f s
  | .lnak p f => Sys2Proof.Machine.execLnak p f s
  | .lackSend p => Sys2Proof.Machine.execLackSend p s
  | .retransmitTimeout p => Sys2Proof.Machine.execRetransmitTimeout p s
  | .fabricViolation p kind f => Sys2Proof.Machine.execFabricViolation p kind f s
  | .put p f => Sys2Proof.Machine.execPut p f s
  | .get p f => Sys2Proof.Machine.execGet p f s
  | .purlinSignal p f => Sys2Proof.Machine.execPurlinSignal p f s
  | .ctlRd p f => Sys2Proof.Machine.execCtlRd p f s
  | .ctlWr p f => Sys2Proof.Machine.execCtlWr p f s
  | .putAck p f => Sys2Proof.Machine.execPutAck p f s
  | .getRsp p f => Sys2Proof.Machine.execGetRsp p f s
  | .sigAck p f => Sys2Proof.Machine.execSigAck p f s
  | .ctlRsp p f => Sys2Proof.Machine.execCtlRsp p f s
  | .remoteResend tn => Sys2Proof.Machine.execRemoteResend tn s
  | .remoteTimeout tn => Sys2Proof.Machine.execRemoteTimeout tn s
  | .hb p f => Sys2Proof.Machine.execHb p f s
  | .hbTimeout n => Sys2Proof.Machine.execHbTimeout n s
  | .rdmaWrite p k => Sys2Proof.Machine.execRdmaWrite p k s
  | .rdmaRead p k => Sys2Proof.Machine.execRdmaRead p k s
  | .arpRequest p ip mac => Sys2Proof.Machine.execArpRequest p ip mac s
  | .neighbourSolicitation p ip mac => Sys2Proof.Machine.execNeighbourSolicitation p ip mac s
  | .icmpEchoRequest p v6 ip data => Sys2Proof.Machine.execIcmpEchoRequest p v6 ip data s
  | .pfcFrame p prio quanta => Sys2Proof.Machine.execPfcFrame p prio quanta s
  | .sync p m => Sys2Proof.Machine.execSync p m s
  | .followUp p m => Sys2Proof.Machine.execFollowUp p m s
  | .delayReq p m => Sys2Proof.Machine.execDelayReq p m s
  | .delayResp p m => Sys2Proof.Machine.execDelayResp p m s
  | .announce p m => Sys2Proof.Machine.execAnnounce p m s
  | .announceReceiptTimeout p => Sys2Proof.Machine.execAnnounceReceiptTimeout p s
  | .syncInterval p => Sys2Proof.Machine.execSyncInterval p s
  | .ppsInEdge => Sys2Proof.Machine.execPpsInEdge s
  | .ppsOutPulse => Sys2Proof.Machine.execPpsOutPulse s
  | .bar4Write rid ap off data => Sys2Proof.Machine.execBar4Write rid ap off data s
  | .bar4Read rid ap off len tag => Sys2Proof.Machine.execBar4Read rid ap off len tag s
  | .placementApplied n j => Sys2Proof.Machine.execPlacementApplied n j s
  | .regCtlWrite r n v => Sys2Proof.Machine.execRegCtlWrite r n v s
  | .islandReset r => Sys2Proof.Machine.execIslandReset r s
  | .powerDown r => Sys2Proof.Machine.execPowerDown r s
  | .wake r => Sys2Proof.Machine.execWake r s
  | .retrain r => Sys2Proof.Machine.execRetrain r s
  | .gateTimer j => Sys2Proof.Machine.execGateTimer j s
  | .flushEnd j => Sys2Proof.Machine.execFlushEnd j s
  | .closeWindowEnd j => Sys2Proof.Machine.execCloseWindowEnd j s
  | .islandStartEnd j => Sys2Proof.Machine.execIslandStartEnd j s
  | .retrainPeriod j => Sys2Proof.Machine.execRetrainPeriod j s
  | .retrainTemperature j temp => Sys2Proof.Machine.execRetrainTemperature j temp s
  | .cpmMarginAlarm j => Sys2Proof.Machine.execCpmMarginAlarm j s
  | .retrainingEnd j temp => Sys2Proof.Machine.execRetrainingEnd j temp s
  | .voltageLoopPeriod slacks => Sys2Proof.Machine.execVoltageLoopPeriod slacks s
  | .frequencyLoopPeriod slacks => Sys2Proof.Machine.execFrequencyLoopPeriod slacks s
  | .capStep temps powerW => Sys2Proof.Machine.execCapStep temps powerW s
  | .droop j => Sys2Proof.Machine.execDroop j s
  | .adcThresholdLoop b thresholds => Sys2Proof.Machine.execAdcThresholdLoop b thresholds s
  | .placementLoop temps => Sys2Proof.Machine.execPlacementLoop temps s
  | .senseOpenDetect rail kind => Sys2Proof.Machine.execSenseOpenDetect rail kind s
  | .senseClear r v intact => Sys2Proof.Machine.execSenseClear r v intact s
  | .avsNack mv => Sys2Proof.Machine.execAvsNack mv s
  | .loopFreeze r v => Sys2Proof.Machine.execLoopFreeze r v s
  | .domainOverride r v => Sys2Proof.Machine.execDomainOverride r v s
  | .ratioOverride r v => Sys2Proof.Machine.execRatioOverride r v s
  | .scrubIntervalTrigger sp => Sys2Proof.Machine.execScrubIntervalTrigger sp s
  | .scrubRequest r => Sys2Proof.Machine.execScrubRequest r s
  | .scrubPassEnd sp corrected bad => Sys2Proof.Machine.execScrubPassEnd sp corrected bad s
  | .restartDrained n => Sys2Proof.Machine.execRestartDrained n s
  | .reattach r n token => Sys2Proof.Machine.execReattach r n token s
  | .logSelect r v => Sys2Proof.Machine.execLogSelect r v s
  | .bayLogSelect r n v => Sys2Proof.Machine.execBayLogSelect r n v s
  | .ltssmDetect => Sys2Proof.Machine.execLtssmDetect s
  | .hbmThrottleEnd stack temp => Sys2Proof.Machine.execHbmThrottleEnd stack temp s
  | .vrHotNDeassert => Sys2Proof.Machine.execVrHotNDeassert s
  | .frameForward p f => Sys2Proof.Machine.execFrameForward p f s
  | .viol p f => Sys2Proof.Machine.execViol p f s

end Sys2Proof.Machine
end

