-- ==== Sys2Proof/Safety.lean ====
section
/-! DEFINITION. What counts as a safe run, and the terms in which statements speak of a state between commands: that nothing is due, that
a dictionary write is accepted, and what of the device its own records are. -/
namespace Sys2Proof

/-- A state whose memory is in canonical form. -/
def Safe (s : Machine.State) : Prop := Machine.memWf s.mem = true

/-- `k` steps from `s`, each of which answers a next state that is safe. -/
def SafeRun : Nat → Machine.State → Prop
  | 0, s => Safe s
  | k + 1, s => Safe s ∧ ∃ t, Machine.step s = .next t ∧ SafeRun k t

end Sys2Proof

namespace Sys2Proof.Machine

/-- The state rests, no Bay is claimed, no journal is kept, PF vector 1 is masked and the counter of `DEVICE` records has room: a fault of
the device itself changes its log, error_register and the vector's pending bit alone. -/
def State.fresh (s : State) : Bool :=
  s.rests && s.dev.bays.isEmpty && s.dev.journals.isEmpty && !(s.dev.unmasked 0 1) && Nat.blt (s.dev.od 0x2D00 8 + 1) (2 ^ 32)

/-- No record of the fault log is of this tick. -/
def State.logOpen (s : State) : Bool := s.dev.flog.all fun f => f.time != s.time

/-- The device but for what it has sent, what it has still to tell the host, and the dictionary server's own books: its windows, its
requests, the journal of changes. -/
def Dev.books (d : Dev) : Dev :=
  { d with out := [], link := { d.link with msixPend := [], held := [] }, srv := { d.srv with wins := [], reqs := [], ring := [], seq := 0 } }

/-- A command answers a state whose device is `d` but for the books, with memory and device time as they were. -/
def Gives (c : Instr) (s : State) (d : Dev) : Prop :=
  ∃ t, exec c s = .next t ∧ t.dev.books = d.books ∧ t.mem = s.mem ∧ t.poison = s.poison ∧ t.time = s.time ∧ t.pending = s.pending

/-- The device once a write has reached the head of the server's queue by its route, the request taken. -/
def State.atServer (s : State) (r : Route) (idx sub : Nat) (bs : List Byte) : Dev :=
  let d := s.dev.odSend s.env r idx sub bs id
  { d with srv := { d.srv with reqs := [] } }

/-- A window's completion, if it is not masked, is told to the host and not over the fabric (R175, R577); CAN FD has none. -/
def Dev.tells (d : Dev) (r : Route) : Bool :=
  match routeFn r with
  | none => true
  | some fn => !(d.unmasked fn (if fn = 0 then 0 else 3)) || !(if fn = 0 then d.attachMode == 1 else d.bayEvt (fn - 1))

/-- The route carries a write to an idle server: the request waits alone, whole, and the device is as it was but for the route's window. A
window's completion, if it is not masked, is told to the host. -/
def State.carries (s : State) (r : Route) (idx sub : Nat) (bs : List Byte) : Bool :=
  let d := s.dev.odSend s.env r idx sub bs id
  s.dev.srv.reqs.isEmpty &&
  decide (s.atServer r idx sub bs = { s.dev with srv := { s.dev.srv with wins := d.srv.wins } }) &&
  (match d.srv.reqs with
   | [q] => decide (q = { route := r, op := .write, idx := idx, sub := sub, len := bs.length, tag := q.tag, data := bs, time := q.time, row := true })
   | _ => false) &&
  (match routeFn r with
   | none => true
   | some fn => (d.win fn).xfer.isNone) && d.tells r

/-- The server accepts a write of a whole value by a route: the nothing-due state carries it, checks 1 to 9 of Table — Request checks pass
(R99), and no strict job's journal takes it (R535). -/
def State.accepts (s : State) (r : Route) (idx sub : Nat) (bs : List Byte) : Bool :=
  let d := s.atServer r idx sub bs
  s.rests && s.carries r idx sub bs &&
  (match d.odGate r false idx sub with
   | .inr t => t.ty != .dom && t.ty.size == bs.length && (d.odJudge s.env t idx sub (leNat bs) (fun _ => false) {}).isNone &&
       (match d.journalBay t idx sub with | some n => !(d.inJob n) | none => true)
   | .inl _ => false)

/-- The status and abort code with which the server refuses a write of a whole value by a route, outside a strict job (R99, R100). -/
def State.refuses (s : State) (r : Route) (idx sub : Nat) (bs : List Byte) : Option (Status × Nat) :=
  let d := s.atServer r idx sub bs
  if !(s.rests && s.carries r idx sub bs) then none else
  match d.odGate r false idx sub with
  | .inl x => if (match entryOf idx sub with | some t => (match d.journalBay t idx sub with | some n => !(d.inJob n) | none => true) | none => true) then some x else none
  | .inr t =>
    if t.ty != .dom && t.ty.size == bs.length && (match d.journalBay t idx sub with | some n => !(d.inJob n) | none => true) then
      d.odJudge s.env t idx sub (leNat bs) (fun _ => false) {}
    else none

/-- No command, operation, transaction, translation or response is under way in any block: the device has nothing but what it holds. -/
def Dev.unworked (d : Dev) : Bool :=
  (d.queues.all fun c => c.2.cmds.isEmpty && c.2.job.isNone && !c.2.walk) && (d.gutters.all fun c => c.2.st == .idle || c.2.st == .error) &&
  (d.courses.all fun c => c.2.st == .idle) && d.chains.isEmpty && d.prepared.isEmpty && (d.cores.all fun c => c.2.run.isNone) && d.runs.isEmpty &&
  (d.engines.all fun c => c.2.queue.isEmpty && c.2.run.isNone && c.2.suspended.isEmpty) && d.tasks.isEmpty && d.journals.isEmpty &&
  decide (d.trans = { tlb := d.trans.tlb, wcache := d.trans.wcache, micro := d.trans.micro, stamp := d.trans.stamp, nextWalk := d.trans.nextWalk,
                      windows := d.trans.windows }) &&
  d.ridge.txns.isEmpty && d.ridge.waiting.isEmpty && d.ridge.fresh.isEmpty && d.ridge.away.isEmpty && d.ridge.resends.isEmpty && d.ridge.proxy.isEmpty &&
  d.ridge.proxyWait.isEmpty && d.link.reqs.isEmpty && d.link.rx.isEmpty && d.fabric.remotes.isEmpty && d.fabric.acks.isEmpty &&
  (d.arrays.all fun c => c.2.st != .seating && c.2.seatCmd.isNone && c.2.pairs.all fun p => !p.2.trimming)

/-- No line of HBM is shown to be held, by the directory cache or by a summary: a sweep of any lines asks nobody. -/
def State.unshown (s : State) : Bool := (s.dev.shownLines s.env fun _ => true).isEmpty

/-- The line's granule is under no read share with a strict Bay (R149). -/
def State.thawed (s : State) (line : Nat) : Bool :=
  match s.dev.lineBay line with
  | some n => !(s.dev.frozenGranule n (granule (line * 64)))
  | none => true

/-- No fence of the function's Bay page is pending; PF0 has none. -/
def Dev.noFence (d : Dev) (fn : Nat) : Bool := fn == 0 || (d.page (fn - 1)).fences.isEmpty

/-- The rows that write a whole value to an entry: the route, the entry and the bytes. -/
def dictWrite : Instr → Option (Route × Nat × Nat × List Byte)
  | .bootRestart r => some (r, 0x2001, 0xB, [1])
  | .saveAll r .done => some (r, 0x1010, 1, leBytes 4 0x65766173)
  | .restoreAll r => some (r, 0x1011, 1, leBytes 4 0x64616F6C)
  | .journalSelect r v => some (r, 0x2003, 2, leBytes 8 v.toNat)
  | .activate r => some (r, 0x2004, 4, [1])
  | .fuseSvnRaise r v => some (r, 0x2004, 5, leBytes 4 v.toNat)
  | .claim r n => some (r, 0x2100 + n, 2, [1])
  | .commit r n => some (r, 0x2100 + n, 2, [2])
  | .reconfigure r n => some (r, 0x2100 + n, 2, [3])
  | .stop r n => some (r, 0x2100 + n, 2, [4])
  | .release r n => some (r, 0x2100 + n, 2, [5])
  | .reset r n => some (r, 0x2100 + n, 2, [6])
  | .enable r n q => some (r, 0x2680 + n, 16 * q + 4, [1])
  | .disable r n q => some (r, 0x2680 + n, 16 * q + 4, [2])
  | .resume r n q => some (r, 0x2680 + n, 16 * q + 4, [3])
  | .skip r n q => some (r, 0x2680 + n, 16 * q + 4, [4])
  | .restart r n => some (r, 0x2510 + n, 7, [1])
  | .abort r n => some (r, 0x2510 + n, 7, [2])
  | .hdmMapWrite r k v => some (r, 0x2201, k + 1, leBytes 4 v.toNat)
  | .skyMapWrite r n w v => some (r, 0x2990 + n, w + 2, leBytes 8 v.toNat)
  | .lathInvalWrite r n v => some (r, 0x2310 + n, 0xA, leBytes 8 v.toNat)
  | .portCtlRetrain r p => some (r, 0x2A20 + p, 5, [1])
  | .portCtlClear r p => some (r, 0x2A20 + p, 5, [2])
  | .regCtlWrite r n v => some (r, 0x2A60 + n, 3, leBytes 8 v.toNat)
  | .islandReset r => some (r, 0x2B02, 3, [1])
  | .scrubRequest r => some (r, 0x2B03, 3, [1])
  | _ => none

/-- The home of a line serves, nothing is under way, and nobody holds the line: a request at it needs no snoop. -/
def State.homeFree (s : State) (line : Nat) : Bool :=
  s.rests && homed line && (s.dev.island (272 + sliceOf line)).st == .active && s.dev.ridge.txns.isEmpty && s.dev.ridge.waiting.isEmpty &&
  s.dev.ridge.fresh.isEmpty && (s.dev.dir line).isNone && s.byte (sumAddr line) == 0 && !(s.poison.contains (sumAddr line / 64)) && s.dev.arrays.isEmpty

/-- The transaction is an NcRead of `line` for an island of this device, and waits for the answer of agent `a` alone, on whose account entry `x` stands. -/
def Txn.readsFor (t : Txn) (line a : Nat) (x : Dir) : Prop :=
  t.line = line ∧ t.req.op = .ncRead ∧ t.req.who = none ∧ t.req.self = false ∧ t.req.ecc = true ∧ t.req.a < 348 ∧ t.req.a ≠ 326 ∧ t.req.tn ≠ goneTn ∧
  t.entry = some x ∧ t.rebuilt = none ∧ t.wait = [a] ∧ t.ans = [] ∧ t.dirty = none ∧ t.lost = false

/-- The value of the entry that a walk reads next. -/
def State.walkEntry (s : State) (k : Walk) : Nat :=
  leNat ((List.range 8).map fun i => s.byte (k.table + walkIdx k.dva k.level * 8 + i))

/-- No journal record of this tick stands yet. -/
def State.firstRec (s : State) : Bool := (s.dev.tickRecs s.env).recs.isEmpty

/-- The regions of a job but for the engines that make their digests. -/
def unbound (rs : List JobRegion) : List JobRegion := rs.map fun r => { r with eng := none }

/-- The command `c` at position `p` stands alone in queue `q` of Bay `n`, its operation has come to `ph`, and its island takes it. -/
def State.stands (s : State) (n q : Nat) (p : W32) (op : Nat) (ph : CPh) (c : Cmd) : Bool :=
  s.rests && decide ((s.dev.queue n q).cmds = [c]) && c.pos == p && c.ph == ph && c.op == op && c.ended.isEmpty && !(s.dev.cmdWaits c)

/-- The queue once its one command has completed and left it: Fr at Fe, or in a strict Bay at the `BEGIN_JOB` of its open job. -/
def Dev.served (d : Dev) (n q : Nat) : Dev :=
  d.setQueue n q { d.queue n q with cmds := [], fr := if d.strict n then (d.queue n q).job.getD (d.queue n q).fe else (d.queue n q).fe }

/-- The queue with its one command's operation under way. -/
def Dev.running (d : Dev) (n q : Nat) (c : Cmd) : Dev := d.setQueue n q { d.queue n q with cmds := [{ c with ph := .running }] }

/-- A read of Bay `n`'s space `sp` is answered at once, and changes nothing but the translation caches. -/
def State.reads (s : State) (w : Who) (n sp dva len : Nat) (bs : List Byte) (tr : Trans) : Prop :=
  s.dev.readRange s.env w n sp dva len = (.got bs false, { s.dev with trans := tr })

/-- The same with the translation caches as an earlier access left them. -/
def State.readsAfter (s : State) (tr0 : Trans) (w : Who) (n sp dva len : Nat) (bs : List Byte) (tr : Trans) : Prop :=
  ({ s.dev with trans := tr0 } : Dev).readRange s.env w n sp dva len = (.got bs false, { s.dev with trans := tr })

/-- A write of Bay `n`'s space `sp` is made at once, and changes nothing but the translation caches and local memory. -/
def State.writesAfter (s : State) (tr0 : Trans) (w : Who) (n sp dva : Nat) (bs : List Byte) (strong : Bool) (tr : Trans) (st : List MemOp) : Prop :=
  ({ s.dev with trans := tr0 } : Dev).writeRange s.env w n sp dva bs strong = (.done, { s.dev with trans := tr, stores := st })

/-- Bytes of memory from an address. -/
def State.bytes (s : State) (a len : Nat) : List Byte := (List.range len).map fun i => s.byte (a + i)

/-- Memory differs from that of `s` in the bytes written at `a` alone. -/
def State.wrote (s t : State) (a : Nat) (bs : List Byte) : Prop :=
  ∀ x, t.byte x = if a ≤ x ∧ x < a + bs.length then (bs[x - a]?).getD 0 else s.byte x

/-- No fetched command waits to be prepared: no `COURSE` whose Course is IDLE, no `CHAIN` that has not been. -/
def Dev.noPrep (d : Dev) : Bool := d.queues.all fun k => k.2.cmds.all fun c => c.ph != .fetched ||
  ((c.op != 0x11 || (d.course (c.f 8 2)).st != .idle) && (c.op != 0x12 || (d.preparedFor (k.1 / 8) (k.1 % 8) c.pos).isSome))

/-- The next operation of core `c`, which runs RUN `r`, is `x`; nothing else is due, no memory is poisoned, and the order it asks for is one its Bay allows. -/
def State.atOp (s : State) (c : Nat) (r : RunRec) (op : Nat) (x : List Byte) : Bool :=
  s.rests && s.poison.isEmpty && decide (s.dev.runOf c = some r) && (s.dev.core c).st == .running && !(s.dev.halted (.core c)) &&
  Nat.blt (s.dev.core c).pc r.ops && s.bytes (localBase c + 32 * (s.dev.core c).pc) 32 == x && cOp x == op && !(s.dev.strict r.bay && cFlags x == 1)

/-- The core at its next operation. -/
def Dev.stepped (d : Dev) (c : Nat) : Dev :=
  d.setCore c { d.core c with st := .running, pc := (d.core c).pc + 1, atBarrier := false }

/-- The sequenced frame `f`, next in its sequence and within the credits given, is for this device, and nothing is wrong with it: its port is in
service as a Purlin port, the device is READY, and the port's island serves. -/
def State.frameHere (s : State) (p : Nat) (f : Frame) : Bool :=
  let x := s.dev.port p
  s.rests && x.st == .inService && x.mode == 0 && f.vc != 7 && BitVec.ofNat 16 f.seq == x.rxSeq && (frameCost f : Int) ≤ smGet 512 x.rxRoom f.vc &&
  !(frameBad f) && !f.directed && !f.linkLocal && s.dev.boot.st == .ready && s.dev.fabric.id == some f.dst && (s.dev.islAnswer (332 + p)).isNone

/-- The device once the link layer has taken a frame: counted, the next sequence number expected, its credits used, a LACK owed. -/
def Dev.tookFrame (d : Dev) (p : Nat) (f : Frame) : Dev :=
  let x := d.port p
  (d.count (0x2A20 + p) 0xF 1).setPort p { x with
    rxSeq := x.rxSeq + 1
    owesLack := true
    lnakSent := false
    rxRoom := smSet 512 x.rxRoom f.vc (smGet 512 x.rxRoom f.vc - frameCost f) }

/-- Frames to `dst` leave by port `p'` alone, where nothing waits, and one of channel `vc` with `len` payload bytes has its credits. -/
def State.route (s : State) (dst p' vc len : Nat) : Bool :=
  !(s.dev.queuedFor dst) && s.dev.routeList dst == [p'] && (s.dev.port p').queued.isEmpty && (cdiv (32 + len) 64 : Int) ≤ (s.dev.port p').credit vc

/-- One frame has gone out by port `p'`: `f`, with its sequence number and length. -/
def State.sent (s t : State) (p' : Nat) (f : Frame) : Prop :=
  ∃ k, t.dev.out = s.dev.out ++ [.frame p' { f with seq := k, len := f.payload.length }]

/-- The response of this device to frame `f`. -/
def State.response (s : State) (f : Frame) (ty vc st : Nat) (bs : List Byte) : Frame :=
  { ty := ty, vc := vc, st := st, dst := f.src, src := s.dev.fabId, tn := f.tn, hops := s.dev.od 0x2A00 5, payload := bs }

/-- A sound RoCEv2 packet, not marked CE, has come to queue pair `i` of Bay `n` from its configured end, on its port in Ethernet mode. -/
def State.roceHere (s : State) (p : Nat) (k : RocePkt) (n i : Nat) : Bool :=
  s.rests && s.dev.etherUp p && k.icrcOk && k.wellFormed && Nat.ble k.data.length 4096 && decide (qpOf k.qpn = some (n, i)) && s.dev.qpTakes n i p k && !k.ecnCe

/-- A retraining trigger at an island: it retrains, or the trigger is latched, or counted. -/
def Island.triggered (x : Island) : Island :=
  if !x.retraining then { x with retraining := true } else if !x.latched then { x with latched := true } else { x with overruns := x.overruns + 1 }

/-- The server accepts a write of a whole value as `State.accepts` has it, where the sense pairs named have read intact for 100 ms. -/
def State.acceptsIf (s : State) (r : Route) (idx sub : Nat) (bs : List Byte) (intact : List (Fin 3)) : Bool :=
  let d := s.atServer r idx sub bs
  s.rests && s.carries r idx sub bs &&
  (match d.odGate r false idx sub with
   | .inr t => t.ty != .dom && t.ty.size == bs.length &&
       (d.odJudge s.env t idx sub (leNat bs) (fun k => intact.any fun i => i.val == k) {}).isNone &&
       (match d.journalBay t idx sub with | some n => !(d.inJob n) | none => true)
   | .inl _ => false)

/-- The rows of sequenced frames: the port and the frame, where the frame is of the row's type. -/
def frameRow : Instr → Option (Fin 12 × Frame)
  | .frameForward p f => some (p, f)
  | .put p f => if f.ty = 0x20 then some (p, f) else none
  | .get p f => if f.ty = 0x21 then some (p, f) else none
  | .purlinSignal p f => if f.ty = 0x22 then some (p, f) else none
  | .ctlRd p f => if f.ty = 0x23 then some (p, f) else none
  | .ctlWr p f => if f.ty = 0x24 then some (p, f) else none
  | .putAck p f => if f.ty = 0x28 then some (p, f) else none
  | .getRsp p f => if f.ty = 0x29 then some (p, f) else none
  | .sigAck p f => if f.ty = 0x2A then some (p, f) else none
  | .ctlRsp p f => if f.ty = 0x2B then some (p, f) else none
  | .hb p f => if f.ty = 0x30 then some (p, f) else none
  | .viol p f => if f.ty = 0x34 then some (p, f) else none
  | _ => none

/-- The rows of the link layer of the ports, of Ethernet replies, PTP, retraining and the adaptive loops. -/
def portOrLoopRow : Instr → Bool
  | .portLock _ => true | .portLinkLoss _ => true | .helloSend _ => true | .hello _ _ _ _ => true | .helloTimeout _ => true
  | .lack _ _ => true | .lnak _ _ => true | .lackSend _ => true | .retransmitTimeout _ => true
  | .arpRequest _ _ _ => true | .neighbourSolicitation _ _ _ => true | .icmpEchoRequest _ _ _ _ => true | .pfcFrame _ _ _ => true
  | .sync _ _ => true | .followUp _ _ => true | .delayReq _ _ => true | .delayResp _ _ => true | .announce _ _ => true
  | .announceReceiptTimeout _ => true | .syncInterval _ => true | .ppsInEdge => true | .ppsOutPulse => true
  | .retrainPeriod _ => true | .retrainTemperature _ _ => true | .cpmMarginAlarm _ => true | .retrainingEnd _ _ => true
  | .voltageLoopPeriod _ => true | .frequencyLoopPeriod _ => true | .capStep _ _ => true | .droop _ => true
  | .adcThresholdLoop _ _ => true | .placementLoop _ => true
  | _ => false

/-- How many samples of a pin read 1. -/
def pinHighs (l : List (BitVec 23)) (i : Nat) : Nat := l.countP fun x => x.getLsbD i

/-- The counter of Bay `n`'s certify entry that a verdict raises. -/
def verdictCount : Verdict → Nat
  | .certified _ => 2 | .required => 3 | .straddles => 4 | .wraps => 5

end Sys2Proof.Machine
end

