-- ==== Sys2Proof/Certificates/Slice0/Obligations.lean ====
section
/-! DEFINITION. The statements for the provers: what the commands of the IZ-880 do, by families of the command table, and what every
command and step does. -/

open Sys2Proof Sys2Proof.Machine

/-! ### The step, the queue and time -/

/-- A step takes the command at the front of the queue: it is that command's effect on the state with the rest of the queue. -/
def Obligations.StepTakesFront : Prop :=
  ∀ (c : Instr) (rest : List Instr) (s : State), s.pending = c :: rest → step s = exec c { s with pending := rest }

/-- Every command of the table answers a next state, from every state, and leaves the queue of waiting commands alone. -/
def Obligations.EveryCommandCompletes : Prop :=
  ∀ (c : Instr) (s : State), ∃ t, exec c s = .next t ∧ t.pending = s.pending

/-- R58: the release of SYS_RST_N starts device time at 0, and each tick that no command takes adds one nanosecond while the span runs; outside a span
time stands. The tick of an empty queue is the model's choice (log entry 1). No command but those of SYS_RST_N and the standby rails moves device
time. -/
def Obligations.DeviceTime : Prop :=
  (∀ (f : Option Flash) (s : State), s.dev.board.rstN = false → ∃ t, exec (.sysRstNRelease f) s = .next t ∧ t.time = 0 ∧ t.dev.board.rstN = true) ∧
  (∀ s : State, s.pending = [] →
    step s = .next (if s.dev.board.rstN && s.dev.board.standby then { s with time := s.time + 1 } else s)) ∧
  (∀ (c : Instr) (s t : State), (∀ f, c ≠ .sysRstNRelease f) → c ≠ .sysRstNAssert → c ≠ .standbyRailLoss → exec c s = .next t → t.time = s.time)

/-- Every step keeps the canonical form of memory: addresses strictly rising, no entry equal to what an unlisted address reads as. Between commands no
memory write is under way: every step leaves none. -/
def Obligations.MemoryInvariant : Prop :=
  (∀ s t : State, memWf s.mem = true → step s = .next t → memWf t.mem = true) ∧
  (∀ s t : State, s.dev.stores = [] → step s = .next t → t.dev.stores = [])

/-- Memory has its canonical form right after reset. -/
def Obligations.ResetMemoryCanonical : Prop :=
  memWf State.reset.mem = true

/-! ### Reset (R53, R58, R59) -/

/-- SYS_RST_N and the standby rails: the release begins a span in `RESET` with islands 348 and 349 running; its fall and the loss of a standby rail take
the device to `RESET`, with every output released, no Bay left, and what the flash, the fuses and the arrays hold kept. -/
def Obligations.ResetAndRelease : Prop :=
  (∀ (f : Option Flash) (s : State), s.dev.board.rstN = false → ∃ t, exec (.sysRstNRelease f) s = .next t ∧
    t.time = 0 ∧ t.dev.boot.st = .reset ∧ t.dev.board.rstN = true ∧ t.dev.board.latched = false ∧ t.dev.bays = [] ∧
    t.dev.nv = { s.dev.nv with flash := f.getD s.dev.nv.flash } ∧
    (t.dev.island 348).st = .active ∧ (t.dev.island 349).st = .active ∧ (t.dev.island 0).st = .off ∧ t.dev.boot.restarts = s.dev.boot.restarts) ∧
  (∀ s : State, ∃ t, exec .sysRstNAssert s = .next t ∧
    t.dev.boot.st = .reset ∧ t.dev.board.rstN = false ∧ t.dev.board.latched = false ∧ t.dev.board.mainPwrReq = false ∧ t.dev.board.thermTrip = false ∧
    t.dev.bays = [] ∧ t.dev.nv = s.dev.nv ∧ t.dev.board.standby = s.dev.board.standby ∧
    t.dev.boot.restarts = if s.dev.board.standby then s.dev.boot.restarts else 0) ∧
  (∀ s : State, ∃ t, exec .standbyRailLoss s = .next t ∧
    t.dev.boot.st = .reset ∧ t.dev.board.standby = false ∧ t.dev.board.rstN = false ∧ t.dev.board.latched = false ∧ t.dev.board.mainPwrReq = false ∧
    t.dev.board.thermTrip = false ∧ t.dev.bays = [] ∧ t.dev.nv = s.dev.nv ∧ t.dev.boot.restarts = 0)

/-! ### Straps (R36, R38) -/

/-- R36: while SYS_RST_N is released and the straps are not latched, a sample counts from 20 µs after the release on, 20 µs after the one before it; the
eighth latches every pin at the majority of its samples, a tie at 0, and strap_unstable names the pins whose samples disagree; after it none counts. -/
def Obligations.StrapMajority : Prop :=
  (∀ (pins : BitVec 23) (s : State), s.rests = true → s.dev.board.rstN = true →
    s.dev.board.latched = true ∨ s.time < 20000 * (s.dev.board.samples.length + 1) → exec (.strapSample pins) s = .next s) ∧
  (∀ (pins : BitVec 23) (s : State), s.rests = true → s.dev.board.rstN = true → s.dev.board.latched = false →
    20000 * (s.dev.board.samples.length + 1) ≤ s.time →
    let l := s.dev.board.samples ++ [pins]
    (l.length < 8 → exec (.strapSample pins) s = .next { s with dev := { s.dev with board := { s.dev.board with samples := l } } }) ∧
    (l.length = 8 → ∃ t u, exec (.strapSample pins) s = .next t ∧ t.dev.board.latched = true ∧ t.dev.valBoard 0x2E00 7 = some u ∧
      ∀ i, i < 23 → t.dev.board.strapRaw.getLsbD i = decide (4 < pinHighs l i) ∧ u.testBit i = (pinHighs l i != 0 && pinHighs l i != 8)))

/-! ### From cold to `READY` (R59, R65 to R67, R74 to R77, R81, R86, R87) -/

/-- The slot under check has passed checks 1 to 8: it boots. The rails that MAIN_PG tells of are still down. A slot that fails checks 1 to 8 or 10
leaves its cause, and the next slot is read to be tried; when no slot is left the device enters `RECOVERY` where it has a node ID, else `FAILED`, and the main
rails stay released. -/
def Obligations.SlotChecks : Prop :=
  (∀ (k : Nat) (l : List Nat) (s : State), s.rests = true → s.dev.boot.st = .rom → s.dev.boot.tries = k :: l →
    s.dev.nv.flash.sfdpOk = true → s.dev.imageBad (flashSlot s.dev.nv.flash k) = none → s.dev.board.mainPg = false →
    exec (.romSlotCheckEnd true) s = .next { s with dev := { s.dev with
      board := { s.dev.board with mainPwrReq := true }
      boot := { s.dev.boot with
        st := .powering, slot := k, image := flashSlot s.dev.nv.flash k, fwDigest := imageDigest (flashSlot s.dev.nv.flash k)
        pgDeadline := some (s.time + 100000000) } } }) ∧
  (∀ (k c : Nat) (l : List Nat) (s : State), s.rests = true → s.dev.boot.st = .rom → s.dev.boot.tries = k :: l → l ≠ [] →
    s.dev.nv.flash.sfdpOk = true → s.dev.imageBad (flashSlot s.dev.nv.flash k) = some c →
    exec (.romSlotCheckEnd true) s = .next { s with dev := ({ s.dev.setOd 0x2001 (3 + k) c with boot := { s.dev.boot with tries := l } } : Dev).readSlot }) ∧
  (∀ (k : Nat) (s : State), s.rests = true → s.dev.boot.st = .rom → s.dev.boot.tries = [k] → s.dev.nv.flash.sfdpOk = true → s.dev.canOn = true →
    ∃ t, exec (.romSlotCheckEnd false) s = .next t ∧ t.dev.boot.st = .recovery ∧ t.dev.od 0x2001 (3 + k) = 10 ∧ t.dev.boot.watchdog = none ∧
      t.dev.board = s.dev.board)

/-- The management firmware takes the server over with no transfer open: it reads the store, applies the stored values, adopts fm_id and runs both CAN FD ports at the stored rates. Here the store holds no record.
The main rails: MAIN_PG high takes `POWERING` to `TRAINING`; a fall that was asked for takes the device no fault; one that was not asked for is
counted, recorded as a fault of class `DEVICE`, releases the rails and leads to `FAILED`; rails that never come do the same. -/
def Obligations.FirmwareAndRails : Prop :=
  (∀ s : State, s.rests = true → s.dev.boot.firmware = false → s.dev.srv.reqs = [] → s.dev.boot.st = .powering → s.dev.usdo 0 = none → s.dev.usdo 1 = none →
    storeRecs s.dev.nv.flash = [] → s.dev.nv.restoreDue = false →
    ∃ t, exec .mgmtFirmwareTakeover s = .next t ∧ t.dev.boot.firmware = true ∧ t.dev.boot.restricted = false ∧ t.dev.boot.started = true ∧
      t.dev.boot.st = .powering ∧ t.dev.nv = s.dev.nv ∧ t.dev.board = s.dev.board ∧ t.dev.out = s.dev.readBanks.out ∧
      (s.dev.canOn = true → t.dev.srv.nominal = t.dev.od 0x2002 1 ∧ t.dev.srv.dataRate = t.dev.od 0x2002 2) ∧
      (s.dev.boot.started = false → t.dev.fabric.fmId = s.dev.od 0x2A00 2)) ∧
  (∀ s : State, s.rests = true → s.dev.board.latched = true → s.dev.board.mainPg = false → s.dev.board.mainPwrReq = true → s.dev.boot.st = .powering →
    s.dev.attachMode = 0 → s.dev.fabric.ports = [] →
    ∃ t, exec .mainPgRise s = .next t ∧ t.dev.boot.st = .training ∧ t.dev.board = { s.dev.board with mainPg := true } ∧ t.dev.boot.pgDeadline = none) ∧
  (∀ s : State, s.fresh = true → s.dev.board.latched = true → s.dev.board.mainPg = true → s.dev.board.mainPwrReq = true → s.dev.boot.waitPgLow = false →
    s.dev.od 0x2E01 5 + 1 < 2 ^ 32 →
    ∃ t, exec .mainPgFall s = .next t ∧ t.dev.boot.st = .failed ∧ t.dev.board.mainPg = false ∧ t.dev.board.mainPwrReq = false ∧
      t.dev.od 0x2E01 5 = s.dev.od 0x2E01 5 + 1 ∧ t.dev.flogSeq = s.dev.flogSeq + 1 ∧ (s.logOpen = true → ∀ f ∈ t.dev.flog.head?, f.severity = 5 ∧ f.time = s.time)) ∧
  (∀ (dl : Nat) (s : State), s.fresh = true → s.dev.boot.pgDeadline = some dl → dl ≤ s.time → s.dev.boot.st = .powering → s.dev.board.mainPg = false →
    ∃ t, exec .mainRailsTimeout s = .next t ∧ t.dev.boot.st = .failed ∧ t.dev.board.mainPwrReq = false ∧ t.dev.flogSeq = s.dev.flogSeq + 1)

/-- `TRAINING`: a stack trains, or fails and the third failure leads to `FAILED`; the zeroing of HBM leaves every byte of HBM and its metadata zero; a D
section that passes its check is in service. -/
def Obligations.TrainingParts : Prop :=
  (∀ (k : Fin 8) (s : State), s.rests = true → s.dev.boot.st = .training → s.dev.boot.trained.contains k.val = false →
    exec (.hbmTrainingEnd k true) s = .next { s with dev := { s.dev with boot := { s.dev.boot with trained := listIns k.val s.dev.boot.trained } } }) ∧
  (∀ (k : Fin 8) (s : State), s.fresh = true → s.dev.boot.st = .training → s.dev.boot.trained.contains k.val = false → smGet 0 s.dev.boot.trainFails k = 2 →
    ∃ t, exec (.hbmTrainingEnd k false) s = .next t ∧ t.dev.boot.st = .failed ∧ t.dev.board.mainPwrReq = false ∧ t.dev.flogSeq = s.dev.flogSeq + 1 ∧
      (s.logOpen = true → ∀ f ∈ t.dev.flog.head?, f.severity = 5 ∧ f.island = 304 + k.val)) ∧
  (∀ s : State, s.rests = true → s.dev.boot.st = .training → s.dev.boot.zeroed = false → s.dev.boot.trained.length = 8 → s.dev.attachMode = 0 →
    ∃ t, exec .hbmZeroingEnd s = .next t ∧ t.dev = { s.dev with boot := { s.dev.boot with zeroed := true } } ∧
      (∀ a, a < 0x6000000000 → t.byte a = 0) ∧ (∀ a, 0x6000000000 ≤ a → t.byte a = s.byte a)) ∧
  (∀ s : State, s.rests = true → s.dev.boot.st = .training → s.dev.boot.dOk = false → s.dev.boot.waitPgLow = false → imageDBad s.dev.boot.image = false →
    s.dev.attachMode = 0 →
    exec .dSectionCheckEnd s = .next { s with dev := { s.dev with boot := { s.dev.boot with dOk := true } } }) ∧
  (∀ s : State, s.rests = true → s.dev.boot.st = .training → s.dev.boot.dOk = false → s.dev.boot.waitPgLow = false → imageDBad s.dev.boot.image = true →
    s.dev.boot.dFails = 0 → s.dev.boot.slot = 0 → s.dev.board.mainPg = true →
    exec .dSectionCheckEnd s = .next { s with dev := { s.dev.setOd 0x2001 3 9 with
      board := { s.dev.board with mainPwrReq := false }
      boot := { s.dev.boot with dFails := 1, waitPgLow := true, tries := [1] } } })

/-- R81: the device enters `READY` on the first ENTER_READY at which the conditions of its attach mode hold, records the tick, and the boot watchdog of
R86 stops; a watchdog that has run out leads to `FAILED`. -/
def Obligations.EntersReady : Prop :=
  (∀ s : State, s.rests = true → s.dev.attachMode ≠ 1 → s.dev.boot.st = .training → s.dev.boot.zeroed = true → s.dev.boot.dOk = true → s.dev.board.eaveReady = true →
    s.dev.fabric.ports = [] →
    ∃ t, exec .enterReady s = .next t ∧ t.dev.boot = { s.dev.boot with st := .ready, readyTime := s.time, watchdog := none } ∧ t.dev.smbStatus / 16 = 1 ∧
      t.dev.bays = s.dev.bays) ∧
  (∀ s : State, s.rests = true → s.dev.attachMode = 1 → s.dev.boot.st = .joining → s.dev.fabric.id ≠ none →
    ((List.range 12).any fun p => (s.dev.port p).st == .inService) = true →
    ∃ t, exec .enterReady s = .next t ∧ t.dev.boot = { s.dev.boot with st := .ready, readyTime := s.time, watchdog := none }) ∧
  (∀ s : State, s.rests = true → s.dev.readyNow = false → exec .enterReady s = .next s) ∧
  (∀ (dl : Nat) (s : State), s.fresh = true → s.dev.boot.watchdog = some dl → dl ≤ s.time →
    ∃ t, exec .bootWatchdogExpire s = .next t ∧ t.dev.boot.st = .failed ∧ t.dev.board.mainPwrReq = false ∧ t.dev.flogSeq = s.dev.flogSeq + 1)

/-- The Eave and PERST_N: the Eave in service, or PERST_N rising, whichever comes later, takes the link to `TRAINING`; PERST_N falling takes a link that
trains or is up to `LOST`, in attach modes 00 and 10 only. SMBus: the temperatures in whole degrees, the status word of Table — SMBus commands, a block of
the FRU identity, each with the packet error code over the address, the command code and the bytes returned; a status bit that is read is no longer
new. -/
def Obligations.EdgeOfBoard : Prop :=
  (∀ s : State, s.rests = true → s.dev.attachMode ≠ 1 → s.dev.board.mainPg = true → s.dev.board.eaveReady = false → s.dev.boot.st = .training →
    s.dev.board.perst = true → s.dev.link.st = .dark →
    exec .eaveReady s = .next { s with dev := { s.dev with
      board := { s.dev.board with eaveReady := true }, link := { s.dev.link with st := .training, limW := s.dev.od 0x2200 7, limR := s.dev.od 0x2200 8 } } }) ∧
  (∀ s : State, s.rests = true → s.dev.attachMode ≠ 1 → s.dev.board.eaveReady = true → s.dev.boot.st ≠ .reset → s.dev.board.perst = false → s.dev.link.st = .lost →
    exec .perstNRise s = .next { s with dev := { s.dev with
      board := { s.dev.board with perst := true }, link := { s.dev.link with st := .training, limW := s.dev.od 0x2200 7, limR := s.dev.od 0x2200 8 } } }) ∧
  (∀ s : State, s.rests = true → s.dev.attachMode = 1 →
    exec .perstNFall s = .next { s with dev := { s.dev with board := { s.dev.board with perst := false } } }) ∧
  (∀ s : State, s.rests = true → s.dev.attachMode ≠ 1 → s.dev.link.st = .dark ∨ s.dev.link.st = .lost →
    exec .perstNFall s = .next { s with dev := { s.dev with board := { s.dev.board with perst := false } } }) ∧
  (∀ s : State, s.rests = true → s.dev.attachMode ≠ 1 → s.dev.link.st ≠ .dark → s.dev.link.st ≠ .lost → s.dev.bays = [] →
    s.dev.pages = [] → s.dev.courses = [] → s.dev.ridge.proxy = [] → s.dev.od 0x2200 9 + 1 < 2 ^ 32 →
    ∃ t, exec .perstNFall s = .next t ∧ t.dev.link.st = .lost ∧ t.dev.board.perst = false ∧ t.dev.boot = s.dev.boot ∧ t.mem = s.mem) ∧
  (∀ s : State, s.rests = true → s.dev.smbHere = true →
    let pec (code : Nat) (bs : List Byte) : Byte := ([0xC4, BitVec.ofNat 8 code, 0xC5] ++ bs).foldl pecByte 0
    let die : List Byte := [BitVec.ofInt 8 (hottest s.dev.board.islandTemp / 8)]
    let hbm : List Byte := [BitVec.ofInt 8 (hottest s.dev.board.hbmTemp / 8)]
    let fru (k : Nat) : List Byte := fit 32 ((Config.fru Config.partName 0x00020000 Config.serial s.dev.board.strapRaw.toNat).drop (32 * k))
    exec .smbReadDieTemp s = .next { s with dev := s.dev.send (.smb die (pec 1 die)) } ∧
    exec .smbReadHbmTemp s = .next { s with dev := s.dev.send (.smb hbm (pec 2 hbm)) } ∧
    (∀ k : Fin 8, exec (.smbReadFru k) s = .next { s with dev := s.dev.send (.smb (fru k) (pec (0x20 + k) (32 :: fru k))) }) ∧
    ∃ t, exec .smbReadStatus s = .next t ∧ t.dev.out = s.dev.out ++ [.smb (leBytes 2 s.dev.smbStatus) (pec 3 (leBytes 2 s.dev.smbStatus))] ∧
      t.dev.smbAlert = false ∧ t.dev.smbStatus = s.dev.smbStatus) ∧
  (∀ s : State, s.rests = true → s.dev.smbHere = false → exec .smbReadStatus s = .next s)

/-! ### Thermal limits and SMBus (R46 to R49, R56) -/

/-- A trip temperature drives THERM_TRIP_N low and releases the main rails on its tick, and is recorded as a fault of class `DEVICE`; where a MAIN_PG
fall of the same tick stands recorded, the trip is its cause and the fall is not counted. An HBM stack at 95 °C is throttled and its patrol pass
pauses; below it, both end. VR_HOT_N is counted and limits the cores while it is low. -/
def Obligations.ThermalActions : Prop :=
  (∀ (k : Option (Fin 8)) (temp : Int) (s : State), s.fresh = true → s.dev.board.latched = true → s.dev.board.thermTrip = false → tripTemp k temp = true →
    s.dev.board.fellAt ≠ some s.time →
    ∃ t, exec (.thermalTrip k temp) s = .next t ∧ t.dev.board.thermTrip = true ∧ t.dev.board.mainPwrReq = false ∧ t.dev.flogSeq = s.dev.flogSeq + 1 ∧
      (s.logOpen = true → ∀ f ∈ t.dev.flog.head?, f.severity = 5 ∧ (f.island, f.object) = tripAt k) ∧ (s.dev.boot.st.booted = true → t.dev.boot.st = .failed) ∧
      (s.dev.boot.st = .ready → t.dev.boot.st = .ready)) ∧
  (∀ (k : Option (Fin 8)) (temp : Int) (s : State), s.rests = true → s.dev.board.latched = true → s.dev.board.thermTrip = false → tripTemp k temp = true →
    s.dev.board.fellAt = some s.time → 0 < s.dev.od 0x2E01 5 → s.dev.flog.length ≤ 1024 →
    ∃ t, exec (.thermalTrip k temp) s = .next t ∧ t.dev.board.thermTrip = true ∧ t.dev.board.mainPwrReq = false ∧ t.dev.flogSeq = s.dev.flogSeq ∧
      t.dev.od 0x2E01 5 + 1 = s.dev.od 0x2E01 5 ∧
      ((∃ f ∈ s.dev.flog, FRec.isFall s.time f = true) → ∃ f ∈ t.dev.flog, f.time = s.time ∧ f.severity = 5 ∧ (f.island, f.object) = tripAt k)) ∧
  tripTemp none 920 = true ∧ tripTemp none 919 = false ∧ tripTemp (some 3) 840 = true ∧ tripTemp (some 3) 839 = false ∧
  (∀ (k : Fin 8) (temp : Int) (s : State), s.rests = true → s.dev.board.mainPg = true → 760 ≤ temp →
    ∃ t, exec (.hbmThrottle k temp) s = .next t ∧ t.dev.board.throttled = listIns k.val s.dev.board.throttled ∧ smGet 0 t.dev.board.hbmTemp k = temp ∧
      t.dev.throttling = true ∧ ((s.dev.scrub k).running = true → (t.dev.scrub k).paused = true)) ∧
  (∀ (k : Fin 8) (temp : Int) (s : State), s.rests = true → s.dev.board.throttled.contains k.val = true → temp < 760 →
    ∃ t, exec (.hbmThrottleEnd k temp) s = .next t ∧ t.dev.board.throttled = listDel k.val s.dev.board.throttled ∧ smGet 0 t.dev.board.hbmTemp k = temp ∧
      t.dev.scrub k = { s.dev.scrub k with paused := false }) ∧
  (∀ s : State, s.rests = true → s.dev.board.latched = true → s.dev.board.vrHot = false → s.dev.od 0x2E01 6 + 1 < 2 ^ 32 →
    exec .vrHotNAssert s = .next { s with dev := ({ s.dev with board := { s.dev.board with vrHot := true } } : Dev).setOd 0x2E01 6 (s.dev.od 0x2E01 6 + 1) }) ∧
  (∀ s : State, s.rests = true → exec .vrHotNDeassert s = .next { s with dev := { s.dev with board := { s.dev.board with vrHot := false } } })

/-! ### Dictionary writes: boot, store, journal and firmware (R87, R118 to R124) -/

/-- An accepted write by any route to the entries of boot, store, journal and firmware has the effect of its rule and no other. R117: after a save, the
latest record of every stored entry in the bank in use holds its present value, or, where it has none, the value is its default; so a second save
writes nothing. -/
def Obligations.SystemEntries : Prop :=
  (∀ (r : Route) (s : State), s.accepts r 0x1010 1 (leBytes 4 0x65766173) = true → Gives (.saveAll r .done) s s.dev.saveAll) ∧
  (∀ (r : Route) (s : State), s.accepts r 0x1011 1 (leBytes 4 0x64616F6C) = true →
    Gives (.restoreAll r) s { s.dev with nv := { s.dev.nv with restoreDue := true } }) ∧
  (∀ (r : Route) (v : W64) (s : State), s.accepts r 0x2003 2 (leBytes 8 v.toNat) = true → Gives (.journalSelect r v) s (s.dev.setOd 0x2003 2 v.toNat)) ∧
  (∀ (r : Route) (s : State), s.accepts r 0x2004 4 [1] = true →
    Gives (.activate r) s { s.dev with srv := { s.dev.srv with activating := true } }) ∧
  (∀ (r : Route) (v : W32) (s : State), s.accepts r 0x2004 5 (leBytes 4 v.toNat) = true →
    Gives (.fuseSvnRaise r v) s { s.dev with nv := { s.dev.nv with fuseSvn := v.toNat } }) ∧
  (∀ (r : Route) (s : State), s.accepts r 0x2001 0xB [1] = true → s.dev.boot.st = .failed → s.dev.board.mainPg = true →
    Gives (.bootRestart r) s { s.dev with board := { s.dev.board with mainPwrReq := false }, boot := { s.dev.boot with waitPgLow := true } }) ∧
  (∀ (r : Route) (v : W64) (s : State), s.accepts r 0x2200 0xD (leBytes 8 v.toNat) = true → Gives (.violSelect r v) s (s.dev.setOd 0x2200 0xD v.toNat)) ∧
  (∀ (r : Route) (v : W64) (s : State), s.accepts r 0x2D00 2 (leBytes 8 v.toNat) = true → Gives (.logSelect r v) s (s.dev.setOd 0x2D00 2 v.toNat)) ∧
  (∀ (r : Route) (n : Fin 16) (v : W64) (s : State), s.accepts r (0x2D10 + n) 5 (leBytes 8 v.toNat) = true →
    Gives (.bayLogSelect r n v) s (s.dev.setOd (0x2D10 + n) 5 v.toNat)) ∧
  (∀ (d : Dev) (x : Nat × Nat), x ∈ storedEntries → (∀ b, flashBank d.nv.flash = some b → b.generation + 1 < 2 ^ 32) →
    (match (flashBank d.saveAll.nv.flash).bind fun b => latestRec b x.1 x.2 with
     | some r => r.value
     | none => leBytes (odSize x.1 x.2) (odDefault x.1 x.2)) = leBytes (odSize x.1 x.2) (d.od x.1 x.2))

/-! ### Dictionary writes: Bays (R132 to R135, R148, R153) -/

/-- bay_ctl by any route, in an attach mode with a host link: CLAIM gives a Bay its defaults and takes it to `CONFIGURING`; RECONFIGURE keeps what it
holds; COMMIT grants the ranges its entries ask for and takes it to `IDLE`, or waits for the scrub of what it drops. -/
def Obligations.BayActions : Prop :=
  (∀ (r : Route) (n : Fin 16) (s : State), s.accepts r (0x2100 + n) 2 [1] = true → s.dev.attachMode ≠ 1 →
    ∃ t, exec (.claim r n) s = .next t ∧ t.dev.bay n = { s.dev.bay n with st := .configuring } ∧ (∀ m, m ≠ n.val → t.dev.bay m = s.dev.bay m) ∧
      (∀ i, 3 ≤ i → i ≤ 0x1A → t.dev.od (0x2100 + n) i = odDefault (0x2100 + n) i) ∧ t.mem = s.mem) ∧
  (∀ (r : Route) (n : Fin 16) (s : State), s.accepts r (0x2100 + n) 2 [3] = true → s.dev.attachMode ≠ 1 →
    ∃ t, exec (.reconfigure r n) s = .next t ∧ t.dev.bay n = { s.dev.bay n with st := .configuring } ∧ (∀ m, m ≠ n.val → t.dev.bay m = s.dev.bay m) ∧
      t.mem = s.mem) ∧
  (∀ (r : Route) (n : Fin 16) (s : State), s.accepts r (0x2100 + n) 2 [2] = true → s.dev.attachMode ≠ 1 → s.dev.dropsUnits n = false →
    s.dev.strict n = false →
    ∃ t, exec (.commit r n) s = .next t ∧ (t.dev.bay n).st = .idle ∧ (t.dev.bay n).held = s.dev.wantRanges n ∧ (t.dev.bay n).scrubbing = false ∧
      (∀ m, m ≠ n.val → t.dev.bay m = s.dev.bay m) ∧ t.mem = s.mem) ∧
  (∀ (r : Route) (n : Fin 16) (s : State), s.accepts r (0x2100 + n) 2 [2] = true → s.dev.dropsUnits n = true → s.unshown = true →
    ∃ t, exec (.commit r n) s = .next t ∧ (t.dev.bay n) = { s.dev.bay n with scrubbing := true, next := s.dev.wantRanges n, commitRt := some r } ∧
      (∀ m, m ≠ n.val → t.dev.bay m = s.dev.bay m) ∧ t.mem = s.mem)

/-- STOP, RELEASE and RESET of a Bay with nothing under way start its drain: towards `IDLE`, or towards `FREE`. The end of a COMMIT's scrub, of a drain,
of a Bay's work and of a hold time. A scrub and a drain to `FREE` leave zeros in the HBM that the Bay gives up and change no other byte of HBM. -/
def Obligations.BayDrainsAndEnds : Prop :=
  (∀ (r : Route) (n : Fin 16) (s : State), s.accepts r (0x2100 + n) 2 [4] = true → s.dev.attachMode ≠ 1 → s.dev.unworked = true →
    ∃ t, exec (.stop r n) s = .next t ∧ (t.dev.bay n).st = .draining ∧ (t.dev.bay n).toFree = false ∧ (t.dev.bay n).held = (s.dev.bay n).held ∧
      (t.dev.bay n).drainAt = s.time ∧ ∀ m, m ≠ n.val → t.dev.bay m = s.dev.bay m) ∧
  (∀ (r : Route) (n : Fin 16) (s : State), s.accepts r (0x2100 + n) 2 [5] = true → s.dev.attachMode ≠ 1 → s.dev.unworked = true →
    s.unshown = true →
    ∃ t, exec (.release r n) s = .next t ∧ (t.dev.bay n).st = .draining ∧ (t.dev.bay n).toFree = true ∧ (t.dev.bay n).held = (s.dev.bay n).held ∧
      (t.dev.bay n).drainAt = s.time ∧ ∀ m, m ≠ n.val → t.dev.bay m = s.dev.bay m) ∧
  (∀ (r : Route) (n : Fin 16) (s : State), s.accepts r (0x2100 + n) 2 [6] = true → s.dev.attachMode ≠ 1 → s.dev.unworked = true →
    s.unshown = true → (s.dev.bay n).commitRt = none → (s.dev.bay n).st ≠ .draining →
    ∃ t, exec (.reset r n) s = .next t ∧ (t.dev.bay n).st = .draining ∧ (t.dev.bay n).toFree = true ∧ (t.dev.bay n).held = (s.dev.bay n).held ∧
      (t.dev.bay n).drainAt = s.time ∧ ∀ m, m ≠ n.val → t.dev.bay m = s.dev.bay m) ∧
  (∀ (n : Fin 16) (s : State), s.rests = true → s.dev.attachMode ≠ 1 → (s.dev.bay n).st = .configuring → (s.dev.bay n).scrubbing = true →
    s.dev.homesQuiet ((s.dev.bay n).held.hbm.minus (s.dev.bay n).next.hbm) = true →
    (∀ fn, (s.dev.bay n).commitRt = some fn → ∃ p, fn = .can p) →
    ∃ t, exec (.commitScrubEnd n) s = .next t ∧ (t.dev.bay n).st = .idle ∧ (t.dev.bay n).held = s.dev.wantRanges n ∧ (t.dev.bay n).scrubbing = false ∧
      (t.dev.bay n).commitRt = none ∧ (∀ m, m ≠ n.val → t.dev.bay m = s.dev.bay m) ∧
      ∀ a, a < 0x5E80000000 → t.byte a =
        if (s.dev.bay n).held.hbm.has (granule a) && !((s.dev.bay n).next.hbm.has (granule a)) then 0 else s.byte a) ∧
  (∀ (n : Fin 16) (s : State), s.rests = true → s.dev.attachMode ≠ 1 → (s.dev.bay n).st = .draining → s.dev.drained s.env n = true →
    (s.dev.bay n).toFree = true →
    ∃ t, exec (.drainEnd n) s = .next t ∧ t.dev.bay n = {} ∧ (∀ m, m ≠ n.val → t.dev.bay m = s.dev.bay m) ∧ 
      t.dev.page n = { fences := (s.dev.page n).fences, held := (s.dev.page n).held, sky := (s.dev.page n).sky, reads := (s.dev.page n).reads } ∧
      (∀ q, q < 8 → t.dev.queue n q = {}) ∧ t.dev.jour n = {} ∧
      ∀ a, a < 0x5E80000000 → t.byte a = if (s.dev.bay n).held.hbm.has (granule a) then 0 else s.byte a) ∧
  (∀ (n : Fin 16) (s : State), s.rests = true → s.dev.attachMode ≠ 1 → (s.dev.bay n).st = .draining → s.dev.drained s.env n = true →
    (s.dev.bay n).toFree = false → (s.dev.bay n).toParked = false →
    ∃ t, exec (.drainEnd n) s = .next t ∧ t.dev.bay n = { s.dev.bay n with st := .idle } ∧ (∀ m, m ≠ n.val → t.dev.bay m = s.dev.bay m) ∧ t.mem = s.mem) ∧
  (∀ (n : Fin 16) (s : State), s.rests = true → s.dev.attachMode ≠ 1 → (s.dev.bay n).st = .running → s.dev.bayQuiet n = true →
    ∃ t, exec (.bayBecomesIdle n) s = .next t ∧ t.dev.bay n = { s.dev.bay n with st := .idle } ∧ (∀ m, m ≠ n.val → t.dev.bay m = s.dev.bay m) ∧
      t.dev.srv = s.dev.srv ∧ t.mem = s.mem) ∧
  (∀ (n : Fin 16) (h : Nat) (s : State), s.rests = true → s.dev.attachMode ≠ 1 → (s.dev.bay n).st = .parked → (s.dev.bay n).hold = some h → h ≤ s.time →
    s.dev.unworked = true → s.unshown = true →
    ∃ t, exec (.holdTimeExpire n) s = .next t ∧ (t.dev.bay n).st = .draining ∧ (t.dev.bay n).toFree = true ∧ (t.dev.bay n).hold = none ∧
      t.dev.flogSeq = s.dev.flogSeq + 1 ∧ (∀ m, m ≠ n.val → t.dev.bay m = s.dev.bay m)) ∧
  (∀ (r : Route) (n : Fin 16) (token : List Byte) (s : State), s.accepts r (0x2D10 + n) 2 token = true → s.dev.attachMode ≠ 1 → s.dev.ownerLink n ≠ 1 →
    s.dev.bayQuiet n = true → s.dev.trans.halts = [] → s.dev.strict n = false → (s.dev.jour n).sinkAt = none →
    ∃ t, exec (.reattach r n token) s = .next t ∧ (t.dev.bay n).st = .idle ∧ (t.dev.bay n).hold = none ∧ (t.dev.bay n).held = (s.dev.bay n).held ∧
      t.dev.flogSeq = s.dev.flogSeq + 1 ∧ (∀ m, m ≠ n.val → t.dev.bay m = s.dev.bay m) ∧
      (∀ x ∈ t.dev.trans.tlb, ¬ (x.bay = n.val ∧ (x.kind = 1 ∨ x.peer = true)))) ∧
  (∀ (n : Fin 16) (s : State), s.rests = true → (s.dev.jour n).draining = true → (s.dev.bay n).st.live = true →
    (∀ i, (s.dev.spar i).mirror = false ∧ (s.dev.spar i).armed = false) →
    ∃ t, exec (.restartDrained n) s = .next t ∧ t.dev.jour n = { s.dev.jour n with draining := false } ∧
      t.dev.queue n (s.dev.jour n).q = { s.dev.queue n (s.dev.jour n).q with fe := (s.dev.jour n).pos, cmds := [] } ∧
      (∀ i, i < (s.dev.bay n).held.spar.count →
        (t.dev.spar ((s.dev.bay n).held.spar.base + i)).value = smGet 0 (s.dev.jour n).spars ((s.dev.bay n).held.spar.base + i)) ∧ t.mem = s.mem)

/-- The entries of a Bay that take a value: shares, Skylight windows, HDM granules, the sink's read position, and what the selected region slot and the
selected Thatch array are told. -/
def Obligations.BayEntries : Prop :=
  (∀ (r : Route) (n : Fin 16) (k : Fin 8) (v : W64) (s : State), s.accepts r (0x2100 + n) (0x20 + k) (leBytes 8 v.toNat) = true →
    Gives (.shareGrant r n k v) s (s.dev.setOd (0x2100 + n) (0x20 + k) (v.toNat % 2 ^ 38))) ∧
  (∀ (r : Route) (n : Fin 16) (k : Fin 8) (v : W64) (s : State), s.accepts r (0x2100 + n) (0x28 + k) (leBytes 8 v.toNat) = true →
    Gives (.shareAccept r n k v) s (s.dev.setOd (0x2100 + n) (0x28 + k) (v.toNat % 2 ^ 38))) ∧
  (∀ (r : Route) (k : Fin 16) (v : W32) (s : State), s.accepts r 0x2201 (k + 1) (leBytes 4 v.toNat) = true →
    Gives (.hdmMapWrite r k v) s (s.dev.setOd 0x2201 (k + 1) v.toNat)) ∧
  (∀ (r : Route) (n : Fin 16) (w : Fin 8) (v : W64) (s : State), s.accepts r (0x2990 + n) (w + 2) (leBytes 8 v.toNat) = true →
    Gives (.skyMapWrite r n w v) s (s.dev.setOd (0x2990 + n) (w + 2) (v.toNat % 2 ^ 33))) ∧
  (∀ (r : Route) (n : Fin 16) (v : W64) (s : State), s.accepts r (0x2C10 + n) 4 (leBytes 8 v.toNat) = true →
    Gives (.sinkReadWrite r n v) s (s.dev.setOd (0x2C10 + n) 4 v.toNat)) ∧
  (∀ (r : Route) (n : Fin 16) (v : W32) (s : State), s.accepts r (0x2C10 + n) 2 (leBytes 4 v.toNat) = true → bit v.toNat 5 = true →
    Gives (.sinkCtlWrite r n v) s ((s.dev.setOd (0x2C10 + n) 2 v.toNat).setJour n { s.dev.jour n with faulted := false })) ∧
  (∀ (r : Route) (n : Fin 16) (v : W64) (s : State), s.accepts r (0x2A60 + n) 3 (leBytes 8 v.toNat) = true →
    let k := s.dev.od (0x2A60 + n) 1
    let x := s.dev.region n k
    Gives (.regCtlWrite r n v) s (s.dev.setRegion n k { x with
      ctl := v.toNat
      st := if bit v.toNat 16 then .open_ else .unregistered })) ∧
  (∀ (r : Route) (n : Fin 16) (s : State), s.accepts r (0x2710 + n) 0x12 [1] = true →
    Gives (.calRequest r n) s (s.dev.setArr (s.dev.thSel n) { s.dev.arr (s.dev.thSel n) with calDue := true })) ∧
  (∀ (r : Route) (n : Fin 16) (v : W64) (s : State), s.accepts r (0x2910 + n) 5 (leBytes 8 (v.toNat / 2 * 2 + 1)) = true →
    ∀ k, s.dev.sparSel n = some k → (s.dev.spar k).value.toNat < (s.dev.spar k).thresh.toNat →
    Gives (.sparCtlDictArm r n v) s (s.dev.setSpar k { s.dev.spar k with
      armed := true, mirror := bit v.toNat 1, route := BitVec.ofNat 2 (v.toNat / 4), remote := bit v.toNat 4, key := BitVec.ofNat 16 (v.toNat / 0x10000) }))

/-- cq_action by any route (Table — Queue actions). gt_action, fault_resume and lath_inval by any route, on a Bay with nothing else under way. -/
def Obligations.QueueAndWorkActions : Prop :=
  (∀ (r : Route) (n : Fin 16) (q : Fin 8) (s : State), s.accepts r (0x2680 + n) (16 * q + 4) [1] = true →
    Gives (.enable r n q) s (s.dev.setQueue n q { s.dev.queue n q with st := .active, p := 0, fe := 0, fr := 0 })) ∧
  (∀ (r : Route) (n : Fin 16) (q : Fin 8) (s : State), s.accepts r (0x2680 + n) (16 * q + 4) [2] = true →
    Gives (.disable r n q) s (s.dev.setQueue n q { s.dev.queue n q with st := .disabled, p := (s.dev.queue n q).fe, cmds := [] })) ∧
  (∀ (r : Route) (n : Fin 16) (q : Fin 8) (s : State), s.accepts r (0x2680 + n) (16 * q + 4) [3] = true →
    Gives (.resume r n q) s (s.dev.setQueue n q { s.dev.queue n q with st := .active })) ∧
  (∀ (r : Route) (n : Fin 16) (q : Fin 8) (s : State), s.accepts r (0x2680 + n) (16 * q + 4) [4] = true →
    Gives (.skip r n q) s (s.dev.setQueue n q { s.dev.queue n q with
      st := .active, fe := (s.dev.queue n q).p, fr := (s.dev.queue n q).p, cmds := (s.dev.queue n q).cmds.filter fun c => c.ph != .fetched })) ∧
  (∀ (r : Route) (n : Fin 16) (s : State), s.accepts r (0x2510 + n) 7 [1] = true →
    let c := s.dev.gtSel n
    let g := s.dev.gutter c
    g.sent = [] →
    Gives (.restart r n) s (s.dev.setGutter c { g with
      st := .running, fetched := false, row := 0, off := 0, crc := if g.fetched then g.crc0 else g.crc, hostWrote := false, sent := [] })) ∧
  (∀ (r : Route) (n : Fin 16) (s : State), s.accepts r (0x2510 + n) 7 [2] = true → (s.dev.gutter (s.dev.gtSel n)).bay = n.val → s.dev.unworked = true →
    ∃ t, exec (.abort r n) s = .next t ∧ (t.dev.gutter (s.dev.gtSel n)).st = .idle) ∧
  (∀ (r : Route) (n : Fin 16) (h : Halt) (c : Nat) (s : State), s.accepts r (0x2330 + n) 3 [1] = true → s.dev.trans.halts = [h] → h.who = .gutter c →
    Gives (.faultResumeResume r n) s (({ s.dev with trans := { s.dev.trans with
      halts := [], anew := (h.who, h.space, h.dva / 4096) :: s.dev.trans.anew.filter (· != (h.who, h.space, h.dva / 4096)) } } : Dev).setGutter c
        { s.dev.gutter c with st := .running })) ∧
  (∀ (r : Route) (n : Fin 16) (h : Halt) (c : Nat) (s : State), s.accepts r (0x2330 + n) 3 [2] = true → s.dev.trans.halts = [h] → h.who = .gutter c →
    s.dev.strict n = false → s.dev.bayEvt n = false → s.dev.attachMode ≠ 1 → s.dev.trans.prgs = [] →
    ∃ t, exec (.faultResumeAbort r n) s = .next t ∧ t.dev.trans.halts = [] ∧ (t.dev.gutter c).st = .idle ∧ (t.dev.gutter c).status = 5 ∧
      t.dev.flogSeq = s.dev.flogSeq + 1) ∧
  (∀ (r : Route) (n : Fin 16) (v : W64) (s : State), s.accepts r (0x2310 + n) 0xA (leBytes 8 v.toNat) = true →
    s.dev.trans.tlb = [] → s.dev.trans.micro = [] → s.dev.trans.wcache = [] → s.dev.trans.walks = [] → s.dev.trans.treqs = [] →
    Gives (.lathInvalWrite r n v) s { s.dev with trans := { s.dev.trans with
      invals := s.dev.trans.invals ++ [{ bay := n, space := v.toNat % 4, ats := false }] } })

/-- Ports, islands and loops by any route. -/
def Obligations.DeviceEntries : Prop :=
  (∀ (r : Route) (p : Fin 12) (s : State), s.accepts r (0x2A20 + p) 5 [2] = true →
    Gives (.portCtlClear r p) s (s.dev.setPort p { s.dev.port p with st := .inService })) ∧
  (∀ (r : Route) (p : Fin 12) (s : State), s.accepts r (0x2A20 + p) 5 [1] = true → s.dev.portMay p = true → (s.dev.port p).queued = [] →
    ∃ t, exec (.portCtlRetrain r p) s = .next t ∧ (t.dev.port p).st = .training ∧ (t.dev.port p).mode = s.dev.od (0x2A20 + p) 2 ∧
      (t.dev.port p).unacked = [] ∧ (t.dev.port p).txSeq = 0) ∧
  (∀ (r : Route) (s : State), s.accepts r 0x2200 0x12 [1] = true → s.dev.courses = [] → s.dev.od 0x2200 0xA + 1 < 2 ^ 32 →
    ∃ t, exec (.linkCtlRetrain r) s = .next t ∧ t.dev.link.st = .recovering ∧ t.dev.od 0x2200 0xA = s.dev.od 0x2200 0xA + 1) ∧
  (∀ (r : Route) (s : State), s.accepts r 0x2B02 3 [3] = true → s.dev.od 0x2B02 1 < 350 →
    let i := s.dev.od 0x2B02 1
    Gives (.wake r) s (s.dev.setIsland i { s.dev.island i with st := .starting, since := s.time })) ∧
  (∀ (r : Route) (s : State), s.accepts r 0x2B02 3 [4] = true → s.dev.od 0x2B02 1 < 350 →
    let i := s.dev.od 0x2B02 1
    Gives (.retrain r) s (s.dev.setIsland i { s.dev.island i with retraining := true })) ∧
  (∀ (r : Route) (s : State), s.accepts r 0x2B02 3 [2] = true → s.dev.od 0x2B02 1 < 256 → s.dev.unworked = true →
    let i := s.dev.od 0x2B02 1
    Gives (.powerDown r) s (s.dev.setIsland i { s.dev.island i with
      toOff := true, latched := false, st := .closing, flush := false, retraining := false, since := s.time, eligible := none, closes := (s.dev.island i).closes + 1 })) ∧
  (∀ (r : Route) (s : State), s.accepts r 0x2B02 3 [1] = true → s.dev.od 0x2B02 1 < 256 → s.dev.unworked = true →
    let i := s.dev.od 0x2B02 1
    Gives (.islandReset r) s (s.dev.setIsland i { s.dev.island i with
      toOff := false, latched := false, st := .closing, flush := false, retraining := false, since := s.time, eligible := none, closes := (s.dev.island i).closes + 1 })) ∧
  (∀ (r : Route) (v : Byte) (s : State), s.accepts r 0x2B00 3 [v] = true → s.dev.od 0x2B00 3 = 0 → Gives (.loopFreeze r v) s (s.dev.setOd 0x2B00 3 v.toNat)) ∧
  (∀ (r : Route) (v : W16) (s : State), s.accepts r 0x2B01 4 (leBytes 2 v.toNat) = true → s.dev.od 0x2B01 1 < 23 → v ≠ 0 →
    ∃ t, exec (.domainOverride r v) s = .next t ∧ (t.dev.domain (s.dev.od 0x2B01 1)).override = v.toNat ∧
      (t.dev.domain (s.dev.od 0x2B01 1)).mv = max 550 (min (min 900 (s.dev.railMv - 50)) v.toNat)) ∧
  (∀ (r : Route) (v : W16) (s : State), s.accepts r 0x2B02 5 (leBytes 2 v.toNat) = true → s.dev.od 0x2B02 1 < 350 →
    Gives (.ratioOverride r v) s (s.dev.setIsland (s.dev.od 0x2B02 1) { s.dev.island (s.dev.od 0x2B02 1) with override := v.toNat })) ∧
  (∀ (r : Route) (s : State), s.accepts r 0x2B03 3 [1] = true → (s.dev.scrub (s.dev.od 0x2B03 2)).running = false →
    (s.dev.scrub (s.dev.od 0x2B03 2)).latched = false → (s.dev.island (304 + s.dev.od 0x2B03 2)).st = .active →
    Gives (.scrubRequest r) s (s.dev.setScrub (s.dev.od 0x2B03 2) { s.dev.scrub (s.dev.od 0x2B03 2) with
      running := true, paused := s.dev.board.throttled.contains (s.dev.od 0x2B03 2) })) ∧
  (∀ (r : Route) (j : Fin 18) (v : W16) (s : State), s.accepts r 0x2401 (j + 1) (leBytes (if j.val < 2 then 1 else 2) v.toNat) = true →
    s.dev.ridge.cellOn = false → s.dev.ridge.members = [] → s.dev.ridge.remote = [] → s.dev.ridge.dir = [] → 2 < j.val →
    ∃ t, exec (.cellTableWrite r j v) s = .next t ∧ t.dev.od 0x2401 (j + 1) = v.toNat ∧ (v.toNat ≠ 0xFFFF → t.dev.ridge.cellBusy = true) ∧ t.dev.ridge.cellOn = false)

/-! ### The dictionary server (R99 to R114, R119, R121, R123, R680) -/

/-- A CAN FD port that serves USDO with no transfer open and no request waiting: a read, or a write that is whole, waits at the server; a write whose
segments follow is a transfer with a deadline; the last segment hands the whole value over; a deadline that passes aborts the transfer, which is
journaled. A port in bus-off is counted and carries nothing until it has recovered. -/
def Obligations.CanServer : Prop :=
  (∀ (p : Fin 2) (idx : W16) (sub : Byte) (s : State), s.rests = true → s.dev.canHere p = true → s.dev.usdoOpen p = false → s.dev.srv.reqs = [] →
    s.dev.srv.activating = false →
    exec (.usdoInitiate p false idx sub [] true) s = .next { s with dev := { s.dev with srv := { s.dev.srv with
      reqs := [{ route := .can p, op := .read, idx := idx.toNat, sub := sub.toNat, time := s.time }] } } }) ∧
  (∀ (p : Fin 2) (idx : W16) (sub : Byte) (data : List Byte) (s : State), s.rests = true → s.dev.canHere p = true → s.dev.usdoOpen p = false →
    s.dev.closing = false → s.dev.srv.reqs = [] →
    exec (.usdoInitiate p true idx sub data false) s = .next { s with dev := (s.dev.setUsdo p (some ⟨idx.toNat, sub.toNat, true, data, s.time + s.dev.od 0x2002 3 * 1000000, .can p⟩)).send (.can p "segment response" 0 []) }) ∧
  (∀ (p : Fin 2) (data : List Byte) (x : Xfer) (s : State), s.rests = true → s.dev.canHere p = true → s.dev.usdo p = some x → x.write = true →
    s.dev.srv.reqs = [] →
    exec (.usdoSegment p data false) s = .next { s with dev := (s.dev.setUsdo p (some { x with data := x.data ++ data, deadline := s.time + s.dev.od 0x2002 3 * 1000000 })).send (.can p "segment response" 0 []) }) ∧
  (∀ (p : Fin 2) (data : List Byte) (last : Bool) (x : Xfer) (s : State), s.rests = true → s.dev.canHere p = true → s.dev.usdo p = some x →
    x.write = false → x.data.length ≤ 56 → s.dev.srv.reqs = [] →
    exec (.usdoSegment p data last) s = .next { s with dev := (s.dev.setUsdo p none).send (.can p "last segment" 0 x.data) }) ∧
  (∀ (p : Fin 2) (data : List Byte) (x : Xfer) (s : State), s.rests = true → s.dev.canHere p = true → s.dev.usdo p = some x → x.write = true →
    s.dev.srv.reqs = [] → s.dev.srv.activating = false →
    ∃ t, exec (.usdoSegment p data true) s = .next t ∧ t.dev.usdo p = none ∧
      t.dev.srv.reqs = [{ route := .can p, op := .write, idx := x.idx, sub := x.sub, data := x.data ++ data, len := (x.data ++ data).length, time := s.time }]) ∧
  (∀ (p : Fin 2) (write : Bool) (idx : W16) (sub : Byte) (data : List Byte) (last : Bool) (s : State), s.rests = true → s.dev.canHere p = true →
    s.dev.usdoOpen p = true → s.dev.srv.reqs.any (·.row) = false →
    exec (.usdoInitiate p write idx sub data last) s = .next { s with dev := ((if write then s.dev.journalChange s.env (.can p) idx.toNat sub.toNat .retry 0 else s.dev).send (.can p "abort" 0x08000021 [])).count 0x2002 7 1 }) ∧
  (∀ (p : Fin 2) (x : Xfer) (s : State), s.rests = true → s.dev.usdo p = some x → x.deadline ≤ s.time → s.dev.od 0x2002 7 + 1 < 2 ^ 32 →
    ∃ t, exec (.usdoTimeout p) s = .next t ∧ t.dev.usdo p = none ∧ 
      t.dev.out = s.dev.out ++ (if bit (s.dev.od 0x2002 4) p then [.can p "abort" 0x05040000 []] else []) ∧
      (∀ k m, (k, m) ≠ (0x2002, 7) → m < 256 → t.dev.od k m = s.dev.od k m) ∧ t.dev.srv.reqs = s.dev.srv.reqs ∧ t.mem = s.mem ∧
      (x.write = true → t.dev.srv.seq = s.dev.srv.seq + 1 ∧
        t.dev.srv.ring.head? = some ⟨s.dev.srv.seq + 1, s.time, x.idx, x.sub, p, Status.timeout.code, 0⟩)) ∧
  (∀ (p : Fin 2) (s : State), s.rests = true → s.dev.canHere p = true → s.dev.od 0x2002 (5 + p) + 1 < 2 ^ 32 →
    s.dev.srv.reqs.any (·.row) = false →
    ∃ t, exec (.canBusOff p) s = .next t ∧ t.dev.od 0x2002 (5 + p) = s.dev.od 0x2002 (5 + p) + 1 ∧ t.dev.canHere p = false ∧
      ∀ idx sub, exec (.usdoInitiate p false idx sub [] true) t = .next t) ∧
  (∀ (p : Fin 2) (s : State), s.rests = true →
    exec (.canBusOffRecovery p) s = .next { s with dev := { s.dev with board := { s.dev.board with
      busOff := smSet false s.dev.board.busOff p false, txErr := smSet 0 s.dev.board.txErr p 0, rxErr := smSet 0 s.dev.board.rxErr p 0 } } })

/-- EV_OD_CMD through an idle window of a host function: operations 1, 2 and 3 take the window and leave a request with its address, its data and its
place; operation 0 completes with `FORMAT`; a busy window rejects the command and is not disturbed. The completion vector is masked. The server
serves requests in order of arrival: a read is answered with the entry's value on its port. -/
def Obligations.WindowsAndReads : Prop :=
  (∀ (fn : Fin 17) (s : State), s.rests = true → s.dev.hostHere fn = true → s.dev.noFence fn = true → (s.dev.win fn).busy = false → s.dev.srv.reqs = [] →
    s.dev.srv.activating = false →
    let w := s.dev.win fn
    (∃ t, exec (.odRead fn) s = .next t ∧ (t.dev.win fn).busy = true ∧ (t.dev.win fn).done = false ∧ (t.dev.win fn).echo = w.tag.toNat % 65536 ∧
      t.dev.srv.reqs.map (fun q => (q.op, q.idx, q.sub, q.off)) = [(.read, w.addr.toNat % 65536, w.addr.toNat / 65536 % 256, w.off.toNat)]) ∧
    (∃ t, exec (.odWrite fn) s = .next t ∧ (t.dev.win fn).busy = true ∧
      t.dev.srv.reqs.map (fun q => (q.op, q.idx, q.sub, q.data)) =
        [(.write, w.addr.toNat % 65536, w.addr.toNat / 65536 % 256, w.bytes (min (w.len.toNat % 8192) 4097))]) ∧
    (∃ t, exec (.odWriteAppend fn) s = .next t ∧ (t.dev.win fn).busy = true ∧
      t.dev.srv.reqs.map (fun q => (q.op, q.off, q.data)) = [(.append, w.off.toNat, w.bytes (min (w.len.toNat % 8192) 4097))])) ∧
  (∀ (fn : Fin 17) (s : State), s.rests = true → s.dev.hostHere fn = true → s.dev.noFence fn = true → (s.dev.win fn).busy = false →
    s.dev.unmasked fn (if fn = 0 then 0 else 3) = false → s.dev.srv.reqs.any (·.row) = false →
    ∃ t, exec (.odCmdNone fn) s = .next t ∧ (t.dev.win fn).busy = false ∧ (t.dev.win fn).done = true ∧ (t.dev.win fn).status = Status.format.code ∧
      t.dev.srv.reqs = s.dev.srv.reqs) ∧
  (∀ (s : State), s.rests = true → s.dev.hostHere 0 = true → (s.dev.win 0).busy = true → s.dev.od 0x2002 8 + 1 < 2 ^ 32 →
    s.dev.srv.reqs.any (·.row) = false →
    exec (.odRead 0) s = .next { s with dev := (s.dev.setWin 0 { s.dev.win 0 with rejected := true }).setOd 0x2002 8 (s.dev.od 0x2002 8 + 1) }) ∧
  (∀ (fn : Fin 17) (x : Xfer) (s : State), s.rests = true → (s.dev.win fn).xfer = some x → x.deadline ≤ s.time →
    ∃ t, exec (.odWindowTimeout fn) s = .next t ∧ (t.dev.win fn).xfer = none ∧ (t.dev.win fn).dropped = true ∧ t.dev.srv.seq = s.dev.srv.seq + 1) ∧
  (∀ (q : Req) (rest : List Req) (p : Fin 2) (t : Ent) (s : State), s.rests = true → s.dev.srv.reqs = q :: rest → q.route = .can p → q.op = .read → q.off = 0 →
    ({ s.dev with srv := { s.dev.srv with reqs := rest } } : Dev).odGate (.can p) true q.idx q.sub = .inr t → t.ty ≠ .dom →
    s.dev.powered q.idx = true →
    let d : Dev := { s.dev with srv := { s.dev.srv with reqs := rest } }
    let bs := (d.odBytes s.env t q.idx q.sub).1
    (d.odBytes s.env t q.idx q.sub).2 = d → bit (d.od 0x2002 4) p = true →
    (bs.length ≤ 56 → exec (.dictRequestServe .done) s = .next { s with dev := d.send (.can p "response" 0 bs) }) ∧
    (56 < bs.length →
      let x : Xfer := ⟨q.idx, q.sub, false, bs.drop 56, s.time + s.dev.od 0x2002 3 * 1000000, .can p⟩
      exec (.dictRequestServe .done) s = .next { s with dev := (d.send (.can p "segmented response" bs.length (bs.take 56))).setUsdo p (some x) }))

/-- R99, R100, R119: a write that the server refuses, outside a strict job, changes nothing of the device but its books and the two counters of
refusals; it draws one change record with its status and no value. Here: the rows that write a whole value. R119: an accepted write draws one change
record, with the CRC-64 of the value written. Here: an entry that takes its value, the queue actions and the Bay actions that start no drain stand
for the others. -/
def Obligations.WritesJournaled : Prop :=
  (∀ (c : Instr) (r : Route) (idx sub : Nat) (bs : List Byte) (s : State) (x : Status × Nat), dictWrite c = some (r, idx, sub, bs) →
    s.refuses r idx sub bs = some x → ¬ (0x2D10 ≤ idx ∧ idx < 0x2D20 ∧ sub = 2) → s.dev.attachMode ≠ 1 →
    ∃ t, exec c s = .next t ∧
      ({ t.dev.books with srv := {}, free := 0 } : Dev) = { s.dev.books with srv := {}, free := 0 } ∧
      (∀ k m, (k, m) ≠ (0x2002, 7) → ¬ (0x2100 ≤ k ∧ k < 0x2110 ∧ m = 0x30) → t.dev.od k m = s.dev.od k m) ∧
      t.dev.srv.seq = s.dev.srv.seq + 1 ∧ t.dev.srv.ring.head? = some ⟨s.dev.srv.seq + 1, s.time, idx, sub, principal r, x.1.code, 0⟩ ∧ t.mem = s.mem) ∧
  (∀ (r : Route) (v : W64) (s : State), s.accepts r 0x2200 0xD (leBytes 8 v.toNat) = true →
    ∃ t, exec (.violSelect r v) s = .next t ∧ t.dev.srv.seq = s.dev.srv.seq + 1 ∧
      t.dev.srv.ring.head? = some ⟨s.dev.srv.seq + 1, s.time, 0x2200, 0xD, principal r, 0, crc64 (leBytes 8 v.toNat)⟩) ∧
  (∀ (r : Route) (n : Fin 16) (q : Fin 8) (s : State), s.accepts r (0x2680 + n) (16 * q + 4) [1] = true →
    ∃ t, exec (.enable r n q) s = .next t ∧ t.dev.srv.seq = s.dev.srv.seq + 1 ∧
      t.dev.srv.ring.head? = some ⟨s.dev.srv.seq + 1, s.time, 0x2680 + n, 16 * q + 4, principal r, 0, crc64 [1]⟩)

/-- Firmware: a staged image goes into the slot that did not boot and is named by a new directory copy; the staged M section takes the server over at
its idle point; an image received in `RECOVERY` that passes its checks starts. -/
def Obligations.FirmwareUpdate : Prop :=
  (∀ (i : Image) (s : State), s.rests = true → s.dev.srv.stageImg = some i → s.dev.od 0x2004 2 = 1 → s.dev.imageBadAll i = none →
    (∀ c, dirOf s.dev.nv.flash.dir0 = some c ∨ dirOf s.dev.nv.flash.dir1 = some c → c.seq + 1 < 2 ^ 32) →
    ∃ t, exec (.fwStageEnd true) s = .next t ∧ flashSlot t.dev.nv.flash s.dev.stageSlot = i ∧ flashSlot t.dev.nv.flash (1 - s.dev.stageSlot) = flashSlot s.dev.nv.flash (1 - s.dev.stageSlot) ∧
      (∀ c ∈ flashDir t.dev.nv.flash, c.active = s.dev.stageSlot) ∧ t.dev.od 0x2004 2 = 2) ∧
  (∀ (i : Image) (c : Nat) (s : State), s.rests = true → s.dev.srv.stageImg = some i → s.dev.od 0x2004 2 = 1 → s.dev.imageBadAll i = some c →
    ∃ t, exec (.fwStageEnd true) s = .next t ∧ t.dev.nv = s.dev.nv ∧ t.dev.od 0x2004 2 = 3 ∧ t.dev.od 0x2004 3 = c) ∧
  (∀ (i : Image) (s : State), s.rests = true → s.dev.srv.stageImg = some i → s.dev.srv.activating = true → s.dev.srv.reqs = [] → s.dev.usdo 0 = none → s.dev.usdo 1 = none →
    (∀ fn, (s.dev.win fn).xfer = none) → s.dev.srv.saving = none → s.dev.boot.started = true →
    ∃ t, exec .activationTakeover s = .next t ∧ t.dev.boot = { s.dev.boot with image := i, fwDigest := imageDigest i, slot := s.dev.stageSlot } ∧
      t.dev.srv.activating = false ∧ t.dev.nv = s.dev.nv ∧ t.dev.bays = s.dev.bays ∧ t.mem = s.mem ∧
      (∀ k m, (k, m) ≠ (0x2005, 3) → m < 256 → t.dev.od k m = s.dev.od k m) ∧
      (s.dev.canOn = true → t.dev.srv.nominal = s.dev.od 0x2002 1 ∧ t.dev.srv.dataRate = s.dev.od 0x2002 2)) ∧
  (∀ (p : Fin 2) (i : Image) (s : State), s.rests = true → s.dev.boot.st = .recovery → s.dev.canHere p = true → s.dev.usdo p = none → s.dev.srv.reqs = [] →
    s.dev.srv.activating = false → s.dev.imageBadAll i = none → s.dev.valueOk ⟨0x2001, 1, 0xC, 0xC, 1, .dom, .wo, false, false, 0⟩ 0x2001 0xC (leNat (imageBytes i)) = true →
    s.dev.board.mainPg = false →
    ∃ t, exec (.recoveryImageDownload p i) s = .next t ∧ t.dev.boot.st = .powering ∧ t.dev.boot.slot = 2 ∧ t.dev.boot.image = i ∧ t.dev.board.mainPwrReq = true ∧
      t.dev.nv = s.dev.nv) ∧
  (∀ (p : Fin 2) (i : Image) (s : State), s.rests = true → s.dev.boot.st = .ready → s.dev.boot.firmware = true → s.dev.canHere p = true → s.dev.usdo p = none →
    s.dev.srv.reqs = [] → s.dev.srv.activating = false → s.dev.od 0x2004 2 ≠ 1 →
    s.dev.valueOk ⟨0x2004, 1, 1, 1, 1, .dom, .wo, false, false, 0⟩ 0x2004 1 (leNat (imageBytes i)) = true →
    ∃ t, exec (.fwStage (.can p) i) s = .next t ∧ t.dev.srv.stageImg = some i ∧ t.dev.od 0x2004 2 = 1 ∧ t.dev.nv = s.dev.nv)

/-! ### The host link (R160 to R166, R184) -/

/-- The host link's own events, while no Bay is claimed and no Course runs: it trains to `UP` at the width, rate and mode that its limits allow, goes
through `RECOVERING` and back, where what it held goes out in order, and is `LOST` by DL_Down, a hot reset or a disable, which clears the enables of
its functions; from `LOST` it trains again. -/
def Obligations.LinkStates : Prop :=
  (∀ (w r : Nat) (flit cxl : Bool) (s : State), s.rests = true → s.dev.link.st = .training → s.dev.courses = [] → bit s.dev.link.cxl 1 = false →
    ∃ t, exec (.dlUp w r flit cxl) s = .next t ∧ t.dev.out = s.dev.out ++ s.dev.link.held ∧ t.mem = s.mem ∧ t.dev.bays = s.dev.bays ∧
      t.dev.link = { s.dev.link with
        st := .up, held := [], width := trainWidth w s.dev.link.limW, rate := trainRate r s.dev.link.limR flit, flit := flit
        cxl := if cxl && flit && decide (32 ≤ trainRate r s.dev.link.limR flit) then 7 else 1 }) ∧
  (∀ s : State, s.rests = true → s.dev.link.st = .up → s.dev.courses = [] → s.dev.od 0x2200 0xA + 1 < 2 ^ 32 →
    ∃ t, exec .linkRecoveryEnter s = .next t ∧ t.dev.link = { s.dev.link with st := .recovering } ∧ t.dev.od 0x2200 0xA = s.dev.od 0x2200 0xA + 1 ∧
      t.dev.bays = s.dev.bays ∧ t.dev.out = s.dev.out ∧ t.mem = s.mem) ∧
  (∀ (w r : Nat) (flit cxl : Bool) (s : State), s.rests = true → s.dev.link.st = .recovering → s.dev.courses = [] → bit s.dev.link.cxl 1 = false →
    ∃ t, exec (.linkRecoveryExit w r flit cxl) s = .next t ∧ t.dev.out = s.dev.out ++ s.dev.link.held ∧ t.dev.link.held = [] ∧ t.dev.link.st = .up ∧
      t.dev.link.width = trainWidth w s.dev.link.limW ∧ t.dev.link.rate = trainRate r s.dev.link.limR flit ∧ t.dev.bays = s.dev.bays) ∧
  (∀ (c : Instr) (s : State), c = .dlDown ∨ c = .hotResetReceived ∨ c = .linkDisable → s.rests = true → s.dev.link.st = .up ∨ s.dev.link.st = .recovering →
    s.dev.bays = [] → s.dev.pages = [] → s.dev.courses = [] → s.dev.ridge.proxy = [] → s.dev.od 0x2200 9 + 1 < 2 ^ 32 →
    ∃ t, exec c s = .next t ∧ t.dev.link.st = .lost ∧ t.dev.od 0x2200 9 = s.dev.od 0x2200 9 + 1 ∧ t.dev.link.vfEnable = false ∧ t.dev.link.cxl = 0 ∧
      t.dev.link.flit = false ∧ t.dev.link.held = [] ∧ t.dev.link.bme = [] ∧ t.dev.link.ats = [] ∧ t.dev.link.pasid = [] ∧ t.dev.link.ide = [] ∧
      t.dev.link.hdm = [] ∧ t.dev.bays = [] ∧ (∀ r ∈ t.dev.link.reqs, r.stale = true) ∧ t.dev.out = s.dev.out ∧ t.mem = s.mem) ∧
  (∀ s : State, s.rests = true → s.dev.link.st = .lost → s.dev.mayDetect = true →
    exec .ltssmDetect s = .next { s with dev := { s.dev with link := { s.dev.link with st := .training, limW := s.dev.od 0x2200 7, limR := s.dev.od 0x2200 8 } } }) ∧
  (∀ s : State, s.rests = true → s.dev.link.st = .dark → exec .dlDown s = .next s)

/-- Function resets and VF Enable, while configuration accesses complete and none is deferred: with no Bay claimed they return the functions to their
reset values; a VF reset is the loss of its Bay's owner link, which parks an idle detachable Bay and drains one that is not. The enables and sizes
of configuration space: bus mastering, the VF Resizable BAR, HDM decoders, MSI-X masks, and the answers to configuration requests; a write while the
link is `LOST` waits for the next access (R185). -/
def Obligations.FunctionResetsAndControls : Prop :=
  (∀ (tag : Nat) (s : State), s.rests = true → s.dev.cfgHere = true → s.dev.link.ideBad = [] → s.dev.link.deferred = [] → s.dev.bays = [] → s.dev.pages = [] →
    (∃ t, exec (.flrPf0 tag) s = .next t ∧ t.dev.link.vfEnable = false ∧ t.dev.link.barSize = 1 ∧ t.dev.link.hdm = [] ∧ t.dev.link.priEnable = false ∧
      (∀ f, f ≤ 16 → t.dev.link.bme.contains f = false) ∧ t.dev.out = s.dev.out ++ [.cpl tag "OK" []] ∧
      t.dev.link.st = s.dev.link.st ∧ t.dev.link.width = s.dev.link.width ∧ t.mem = s.mem) ∧
    (s.dev.link.vfEnable = true → ∃ t, exec (.vfEnableClear tag) s = .next t ∧ t.dev.link.vfEnable = false ∧
      (∀ f, 1 ≤ f → f ≤ 16 → t.dev.link.bme.contains f = false) ∧ t.dev.link.bme.contains 0 = s.dev.link.bme.contains 0 ∧
      t.dev.out = s.dev.out ++ [.cpl tag "OK" []] ∧ t.mem = s.mem)) ∧
  (∀ (n : Fin 16) (tag : Nat) (s : State), s.rests = true → s.dev.cfgHere = true → s.dev.link.ideBad = [] → s.dev.link.deferred = [] → s.dev.link.vfEnable = true → s.dev.ownerLink n = 0 →
    (s.dev.bay n).st = .idle → (s.dev.bay n).hold = none → s.dev.unworked = true → s.dev.trans.halts = [] → s.dev.pages = [] → s.dev.attachMode ≠ 1 →
    (s.dev.detachable n = true → ∃ t, exec (.flrVf n tag) s = .next t ∧ (t.dev.bay n).st = .parked ∧
      (t.dev.bay n).hold = some (s.time + s.dev.od (0x2100 + n) 0x1A * 1000000000) ∧ (t.dev.bay n).held = (s.dev.bay n).held ∧
      t.dev.flogSeq = s.dev.flogSeq + 2 ∧ (∀ m, m ≠ n.val → t.dev.bay m = s.dev.bay m) ∧ t.dev.link.bme.contains (n + 1) = false) ∧
    (s.dev.detachable n = false → s.unshown = true → ∃ t, exec (.flrVf n tag) s = .next t ∧ (t.dev.bay n).st = .draining ∧ (t.dev.bay n).toFree = true ∧
      t.dev.flogSeq = s.dev.flogSeq + 1 ∧ (∀ m, m ≠ n.val → t.dev.bay m = s.dev.bay m) ∧ t.dev.link.bme.contains (n + 1) = false)) ∧
  (∀ (f : Fin 17) (tag : Nat) (s : State), s.rests = true → s.dev.cfgHere = true → s.dev.link.ideBad = [] → s.dev.link.deferred = [] → s.dev.fnHere f = true →
    exec (.busMasterEnableClear f tag) s = .next { s with dev := ({ s.dev with link := { s.dev.link with bme := listDel f s.dev.link.bme } } : Dev).send (.cpl tag "OK" []) }) ∧
  (∀ (f : Fin 17) (tag : Nat) (s : State), s.rests = true → s.dev.cfgHere = true → s.dev.link.ideBad = [] → s.dev.link.deferred = [] → s.dev.fnHere f = true → s.dev.trans.halts = [] →
    s.dev.link.msixPend = [] → (∀ n, (s.dev.jour n).sinkAt = none) →
    exec (.busMasterEnableSet f tag) s = .next { s with dev := ({ s.dev with link := { s.dev.link with bme := listIns f s.dev.link.bme } } : Dev).send (.cpl tag "OK" []) }) ∧
  (∀ (g tag : Nat) (s : State), s.rests = true → s.dev.cfgHere = true → s.dev.link.ideBad = [] → s.dev.link.deferred = [] → s.dev.link.vfEnable = false → g ∈ [1, 2, 4, 8, 16, 32] →
    exec (.vfResizableBarWrite g tag) s = .next { s with dev := ({ s.dev with link := { s.dev.link with barSize := g } } : Dev).send (.cpl tag "OK" []) }) ∧
  (∀ (g tag : Nat) (s : State), s.rests = true → s.dev.cfgHere = false → s.dev.mayDefer = true →
    exec (.vfResizableBarWrite g tag) s = .next { s with dev := { s.dev with link := { s.dev.link with deferred := s.dev.link.deferred ++ [.barSize g] } } }) ∧
  (∀ (k : Fin 16) (base size : Nat) (s : State), s.rests = true → s.dev.cfgHere = true → s.dev.boot.st = .ready →
    (size ≤ bits (s.dev.od 0x2201 (k + 1)) 31 16 * 0x10000000 →
      exec (.hdmDecoderCommit k base size) s = .next { s with dev := { s.dev with link := { s.dev.link with
        hdm := smSet none s.dev.link.hdm k (some ⟨base, size⟩), hdmError := listDel k s.dev.link.hdmError } } }) ∧
    (bits (s.dev.od 0x2201 (k + 1)) 31 16 * 0x10000000 < size →
      exec (.hdmDecoderCommit k base size) s = .next { s with dev := { s.dev with link := { s.dev.link with
        hdm := smSet none s.dev.link.hdm k none, hdmError := listIns k s.dev.link.hdmError } } })) ∧
  (∀ (f : Fin 17) (v : Fin 8) (s : State), s.rests = true → s.dev.hostHere f = true → s.dev.link.msixPend = [] → (f = 0 → v < 4) →
    (s.dev.noFence f = true → exec (.msixUnmask f (some v)) s = .next { s with dev := { s.dev with link := { s.dev.link with msixOpen := listIns (f * 8 + v) s.dev.link.msixOpen } } }) ∧
    exec (.msixUnmask f none) s = .next { s with dev := { s.dev with link := { s.dev.link with msixOn := listIns f s.dev.link.msixOn } } }) ∧
  (∀ (tag : Nat) (f : Fin 17) (s : State), s.rests = true → s.dev.cfgHere = true → s.dev.link.ideBad = [] → s.dev.link.deferred = [] → s.dev.fnHere f = true →
    exec (.configRequest tag (.readIdentity f)) s = .next { s with dev := s.dev.send (.cpl tag "OK" (leBytes 2 Config.pciVendorId ++
      leBytes 2 (if f.val = 0 then 0x0880 else 0x0881) ++ leBytes 1 0x20 ++ leBytes 3 0x120000)) }) ∧
  (∀ (tag : Nat) (op : CfgOp) (s : State), s.rests = true → s.dev.link.st = .up → s.dev.link.ideBad = [] → s.dev.boot.st ≠ .ready →
    s.dev.boot.st ≠ .failed →
    exec (.configRequest tag op) s = .next { s with dev := s.dev.send (.cpl tag "RRS" []) })

/-! ### Transactions of the host (R177 to R183) -/

/-- IDE: keys make a stream secure; an integrity failure of a stream that covers PF0 only makes it insecure and is a violation of kind 0x0A, in the
ring. A host AtomicOp on the value of a Spar that its VF reaches: 8 bytes, aligned, in a Bay that is not `DRAINING` or `FAULTED`. The completion
carries the old value; the Spar takes the sum, the operand, or, where it equals the comparand, the operand. The Spar here is not armed and has no
mirror, and no Course runs. -/
def Obligations.IdeAndAtomics : Prop :=
  (∀ (k : Fin 4) (vfs : List (Fin 17)) (ranges : List (Nat × Nat)) (s : State), s.rests = true → s.dev.link.st = .up →
    exec (.ideKmKey k vfs ranges) s = .next { s with dev := { s.dev with link := { s.dev.link with
      ide := smSet none s.dev.link.ide k (some ⟨vfs.map (·.val), ranges.take 4⟩), ideBad := listDel k s.dev.link.ideBad } } }) ∧
  (∀ (k : Fin 4) (h : List Byte) (rs : List (Nat × Nat)) (s : State), s.rests = true → s.dev.link.st = .up → smGet none s.dev.link.ide k = some ⟨[0], rs⟩ →
    s.dev.link.ideBad.contains k.val = false → s.dev.attachMode ≠ 1 →
    ∃ t, exec (.ideIntegrityFailure k h) s = .next t ∧ t.dev.link.ideBad.contains k.val = true ∧ t.dev.link.violSeq = s.dev.link.violSeq + 1 ∧
      (∀ r ∈ t.dev.link.viol.head?, r.kind = 0xA ∧ r.time = s.time ∧ r.header = fit 40 h) ∧ t.dev.bays = s.dev.bays ∧ t.mem = s.mem) ∧
  (∀ (q : AtomicReq) (k : Nat) (s : State), s.rests = true → s.dev.hostHere q.fn = true → q.fn ≠ 0 → q.bar = 0 → q.size = 8 → q.off % 8 = 0 →
    0x4000 ≤ q.off → q.off < 0x6000 → s.dev.sparAt (q.fn - 1) q.off = some k →
    (s.dev.bay (q.fn - 1)).st ≠ .draining → (s.dev.bay (q.fn - 1)).st ≠ .faulted → (s.dev.spar k).armed = false → (s.dev.spar k).mirror = false →
    s.dev.courses = [] →
    let x := s.dev.spar k
    let old : Out := .cpl q.tag "OK" (leBytes 8 x.value.toNat)
    exec (.atomicopFetchadd q) s = .next { s with dev := (s.dev.setSpar k { x with value := x.value + BitVec.ofNat 64 q.operand }).send old } ∧
    exec (.atomicopSwap q) s = .next { s with dev := (s.dev.setSpar k { x with value := BitVec.ofNat 64 q.operand }).send old } ∧
    (x.value.toNat = q.compare % 2 ^ 64 →
      exec (.atomicopCas q) s = .next { s with dev := (s.dev.setSpar k { x with value := BitVec.ofNat 64 q.operand }).send old }) ∧
    (x.value.toNat ≠ q.compare % 2 ^ 64 → exec (.atomicopCas q) s = .next { s with dev := s.dev.send old }))

/-- Partner violations and completions. A violation whose row adds nothing is answered as its row says and recorded; a completion of a request that is
wanted hands its data, cut or padded to the length asked, to the requester; 16 ms without one end the request with `TIMEOUT`. -/
def Obligations.PartnerAndCompletions : Prop :=
  (∀ (v : Violation) (s : State), s.rests = true → s.dev.link.st = .up → v.kind ∈ [1, 3, 4, 7, 0xB, 0xC] → s.dev.attachMode ≠ 1 → s.dev.unmasked 0 2 = false →
    ∃ t, exec (.partnerViolation v) s = .next t ∧ t.dev.link.violSeq = s.dev.link.violSeq + 1 ∧
      t.dev.link.viol.head? = some ⟨s.dev.link.violSeq + 1, s.time, v.rid, v.kind, violAnswer v, fit 40 v.header⟩ ∧
      t.dev.out = (s.dev.errMsg v.kind).out ++ (if violAnswer v = 0 then [] else [.cpl v.tag (if violAnswer v = 1 then "UR" else "CA") []]) ∧ t.dev.bays = s.dev.bays ∧
      t.mem = s.mem) ∧
  (∀ (tag : Nat) (data : List Byte) (r : HostReq) (s : State), s.rests = true → s.dev.link.st = .up → s.dev.link.ideBad = [] →
    s.dev.link.reqs.find? (·.tag == tag) = some r → r.stale = false → r.dead = false →
    exec (.completionReceived tag .success data) s = .next { s with dev := { s.dev with link := { s.dev.link with
      reqs := s.dev.link.reqs.filter (·.tag != tag), rx := s.dev.link.rx ++ [(r.who, r.addr, fit r.len data, .ok)] } } }) ∧
  (∀ (tag : Nat) (data : List Byte) (r : HostReq) (s : State), s.rests = true → s.dev.link.ideBad = [] → s.dev.link.reqs.find? (·.tag == tag) = some r →
    r.stale = true → s.dev.od 0x2200 0x15 + 1 < 2 ^ 32 →
    exec (.completionReceived tag .success data) s = .next { s with dev := ({ s.dev with link := { s.dev.link with
      reqs := s.dev.link.reqs.filter (·.tag != tag) } } : Dev).setOd 0x2200 0x15 (s.dev.od 0x2200 0x15 + 1) }) ∧
  (∀ (tag : Nat) (r : HostReq) (s : State), s.rests = true → s.dev.link.reqs.find? (·.tag == tag) = some r → r.stale = false → r.dead = false →
    r.time + 16000000 ≤ s.time → s.dev.attachMode ≠ 1 →
    ∃ t, exec (.completionTimeout tag) s = .next t ∧ t.dev.link.reqs = s.dev.link.reqs.filter (·.tag != tag) ∧
      t.dev.link.rx = s.dev.link.rx ++ [(r.who, r.addr, fit r.len [], .timeout)] ∧ t.dev.link.violSeq = s.dev.link.violSeq + 1 ∧
      (∀ v ∈ t.dev.link.viol.head?, v.kind = 5 ∧ v.answer = 0))

/-! ### Bay pages (R188 to R208) -/

/-- The page of a VF: doorbells, fences, Hatch posts and acknowledgements, and the two halves of EV_TIME. Skylights: a write inside one line, where the
home needs no snoop, changes those bytes and no others; a read answers the bytes. -/
def Obligations.PagesAndSkylights : Prop :=
  (∀ (n : Fin 16) (q : Fin 8) (v : W32) (s : State), s.rests = true → s.dev.hostHere (n + 1) = true → s.dev.noFence (n + 1) = true →
    (s.dev.bay n).st.live = true → (s.dev.queue n q).st ≠ .disabled →
    ((s.dev.queue n q).p - (s.dev.queue n q).fr).toNat ≤ (v - (s.dev.queue n q).fr).toNat → (v - (s.dev.queue n q).fr).toNat ≤ 2 ^ s.dev.cqK n q →
    exec (.evDbQ n q v) s = .next { s with dev := s.dev.setQueue n q { s.dev.queue n q with p := v } }) ∧
  (∀ (n : Fin 16) (q : Fin 8) (v : W32) (s : State), s.rests = true → s.dev.hostHere (n + 1) = true → s.dev.noFence (n + 1) = true →
    (s.dev.bay n).st.live = false → s.dev.strict n = false → s.dev.od (0x2100 + n) 0x30 + 1 < 2 ^ 32 →
    exec (.evDbQ n q v) s = .next { s with dev := s.dev.setOd (0x2100 + n) 0x30 (s.dev.od (0x2100 + n) 0x30 + 1) }) ∧
  (∀ (n : Fin 16) (v : W32) (s : State), s.rests = true → s.dev.hostHere (n + 1) = true → s.dev.noFence (n + 1) = true →
    exec (.evDbFence n v) s = .next { s with dev := s.dev.setPage n { s.dev.page n with fences := [(v, s.time)] } }) ∧
  (∀ (n : Fin 16) (v : W32) (s : State), s.rests = true → s.dev.hostHere (n + 1) = true → s.dev.noFence (n + 1) = false →
    exec (.evDbFence n v) s = .next { s with dev := s.dev.setPage n { s.dev.page n with
      fences := (s.dev.page n).fences ++ [(v, s.time)], held := (s.dev.page n).held ++ [⟨false, 0x140, leBytes 4 v.toNat, none, s.time⟩] } }) ∧
  (∀ (n : Fin 16) (v : W32) (t0 : Nat) (s : State), s.rests = true → (s.dev.page n).fences = [(v, t0)] → (s.dev.page n).held = [] → (s.dev.page n).reads = [] →
    ∃ t, exec (.fenceRelease n) s = .next t ∧ t.dev.page n = { s.dev.page n with fences := [], fenceDone := v } ∧ t.dev.out = s.dev.out ∧ t.mem = s.mem) ∧
  (∀ (n : Fin 16) (tag : Nat) (s : State), s.rests = true → s.dev.hostHere (n + 1) = true → (s.dev.page n).fences = [] → (s.dev.page n).reads = [] →
    ∃ t, exec (.fenceDoneRead n tag) s = .next t ∧ t.dev.out = s.dev.out ++ [.cpl tag "OK" (leBytes 4 (s.dev.page n).fenceDone.toNat)] ∧
      (∀ m, t.dev.page m = s.dev.page m) ∧ t.dev.srv = s.dev.srv ∧ t.mem = s.mem) ∧
  (∀ (n i : Fin 16) (bs : List Byte) (s : State), s.rests = true → s.dev.hostHere (n + 1) = true → s.dev.noFence (n + 1) = true → bs.length = 64 →
    fld bs 2 1 = 0 → fld bs 3 1 ≤ 56 → (s.dev.bay n).st.awake = true → smGet .empty (s.dev.page n).inSt i = .empty → s.dev.od (0x2990 + n) 1 = 0xFFFF →
    ∃ t, exec (.hatchPost n i bs) s = .next t ∧
      t.dev = (s.dev.setPage n { s.dev.page n with inSt := smSet .empty (s.dev.page n).inSt i .full }).drawn true (slotOpen bs) ∧
      ∀ a, t.byte a = if 0x13000000000 + (32 * n + i) * 64 ≤ a ∧ a < 0x13000000000 + (32 * n + i) * 64 + 64 then
        ((slotLine s.dev.free bs)[a - (0x13000000000 + (32 * n + i) * 64)]?).getD 0 else s.byte a) ∧
  (∀ (n : Fin 16) (v : W32) (s : State), s.rests = true → s.dev.hostHere (n + 1) = true → s.dev.noFence (n + 1) = true →
    (∀ i, i < 16 → bit v.toNat i = true → (s.dev.page n).outFull.contains i = true) →
    ∃ t, exec (.htOutAck n v) s = .next t ∧ (∀ i, i < 16 → (t.dev.page n).outFull.contains i = ((s.dev.page n).outFull.contains i && !(bit v.toNat i))) ∧
      (∀ m, m ≠ n.val → t.dev.page m = s.dev.page m) ∧ t.dev.srv = s.dev.srv ∧ t.mem = s.mem) ∧
  (∀ (f : Fin 17) (tag : Nat) (s : State), s.rests = true → s.dev.hostHere f = true →
    exec (.lowHalfRead f 0x10 4 tag) s = .next { s with dev := ({ s.dev with shadows := smSet none s.dev.shadows f (some (0x10, s.time / 2 ^ 32)) } : Dev).send (.cpl tag "OK" (leBytes 4 s.time)) }) ∧
  (∀ (f : Fin 17) (tag h : Nat) (s : State), s.rests = true → s.dev.hostHere f = true → smGet none s.dev.shadows f = some (0x10, h) →
    exec (.highHalfRead f 0x14 tag) s = .next { s with dev := ({ s.dev with shadows := smSet none s.dev.shadows f none } : Dev).send (.cpl tag "OK" (leBytes 4 h)) }) ∧
  (∀ (f : Fin 17) (bs : List Byte) (s : State), s.rests = true → s.dev.hostHere f = true → s.dev.noFence f = true → bs.length = 4 →
    s.dev.srv.reqs.any (·.row) = false →
    exec (.registerWriteOther f 0xE010 bs) s = .next { s with dev := s.dev.setWin f { s.dev.win f with tag := BitVec.ofNat 32 (leNat bs) } }) ∧
  (∀ (n : Fin 16) (off a : Nat) (bs : List Byte) (s : State), s.homeFree (a / 64) = true → s.dev.hostHere (n + 1) = true → s.dev.noFence (n + 1) = true →
    bs ≠ [] → a % 64 + bs.length ≤ 64 → s.dev.skyAt n off bs.length true = .lpa a →
    ∃ t, exec (.skylightWrite n off bs) s = .next t ∧ (∀ x, t.byte x = if a ≤ x ∧ x < a + bs.length then (bs[x - a]?).getD 0 else s.byte x) ∧
      (∀ m, t.dev.page m = s.dev.page m) ∧ (∀ l, t.dev.dir l = s.dev.dir l) ∧ t.dev.out = s.dev.out ∧ t.dev.bays = s.dev.bays) ∧
  (∀ (n : Fin 16) (off len tag a : Nat) (s : State), s.homeFree (a / 64) = true → s.dev.hostHere (n + 1) = true → 0 < len → a % 64 + len ≤ 64 →
    s.dev.skyAt n off len false = .lpa a → s.poison.contains (a / 64) = false →
    ∃ t, exec (.skylightRead n off len tag) s = .next t ∧ t.dev.out = s.dev.out ++ [.cpl tag "OK" ((List.range len).map fun i => s.byte (a + i))] ∧
      (∀ m, t.dev.page m = s.dev.page m) ∧ (∀ l, t.dev.dir l = s.dev.dir l) ∧ t.mem = s.mem)

/-! ### Spars (R321 to R339) -/

/-- The Spar window of a VF, at a Spar that is not firing, in a Bay that is not `DRAINING` or `FAULTED`: SET and ADD, the threshold, arming and
disarming; the Spar is not armed and has no mirror but where said, and no Course runs. An armed Spar that reaches its threshold starts its fire
sequence on that tick, whose end takes up a re-arm that was latched. -/
def Obligations.SparWindow : Prop :=
  (∀ (n : Fin 16) (j : Fin 1024) (v : W64) (k : Nat) (s : State), s.rests = true → s.dev.hostHere (n + 1) = true → s.dev.noFence (n + 1) = true →
    s.dev.sparAt n (0x4000 + 8 * j) = some k → (s.dev.bay n).st ≠ .draining → (s.dev.bay n).st ≠ .faulted → s.dev.courses = [] →
    (s.dev.spar k).firing = false → (s.dev.spar k).mirror = false →
    let x := s.dev.spar k
    (x.armed = false →
      exec (.spValueWrite n j v) s = .next { s with dev := s.dev.setSpar k { x with value := v } } ∧
      exec (.spAdd n j v) s = .next { s with dev := s.dev.setSpar k { x with value := x.value + v } } ∧
      exec (.spThreshWrite n j v) s = .next { s with dev := s.dev.setSpar k { x with thresh := v } }) ∧
    (x.value.toNat < x.thresh.toNat →
      exec (.arm n j v) s = .next { s with dev := s.dev.setSpar k { x with
        armed := true, mirror := bit v.toNat 1, route := BitVec.ofNat 2 (v.toNat / 4), remote := bit v.toNat 4, key := BitVec.ofNat 16 (v.toNat / 0x10000) } }) ∧
    exec (.disarm n j v) s = .next { s with dev := s.dev.setSpar k { x with
      armed := false, latched := false, mirror := bit v.toNat 1, route := BitVec.ofNat 2 (v.toNat / 4), remote := bit v.toNat 4,
      key := BitVec.ofNat 16 (v.toNat / 0x10000) } } ∧
    (x.armed = true → x.thresh.toNat ≤ v.toNat → s.dev.sparBay k = some n.val → s.dev.od (0x2910 + n) 6 + 1 < 2 ^ 32 →
      exec (.spValueWrite n j v) s = .next { s with dev := (s.dev.setSpar k { x with value := v, armed := false, firing := true, fireStart := s.time }).setOd (0x2910 + n) 6 (s.dev.od (0x2910 + n) 6 + 1) })) ∧
  (∀ (k : Fin 4096) (n : Nat) (s : State), s.rests = true → (s.dev.spar k).firing = true → s.dev.sparBay k = some n → (s.dev.spar k).route = 3 →
    (s.dev.bay n).st ≠ .draining → (s.dev.bay n).st ≠ .faulted → (s.dev.spar k).value.toNat < (s.dev.spar k).thresh.toNat →
    ∃ t, exec (.sparFireEnd k) s = .next t ∧ t.dev.spar k = { s.dev.spar k with firing := false, latched := false, armed := (s.dev.spar k).latched } ∧
      (∀ m, m ≠ k.val → t.dev.spar m = s.dev.spar m) ∧ t.dev.out = s.dev.out ∧ t.mem = s.mem)

/-! ### The Ridge (R269 to R319) -/

/-- Requests at the home of a line that nobody holds: a cluster's read takes it in state E, with no snoop, and leaves it the X holder until its CmpAck;
a non-caching read takes the bytes of memory and leaves the directory as it was; so for the host, through a committed HDM decoder. Writes at the
home of a line that nobody holds, by a non-caching agent or by the host through a committed HDM decoder: the bytes of the mask, or of the operand of
an atomic operation, and no others, change; the answer is Cmp, or the old operand. The X holder's WbDirty writes the line back and leaves its entry. -/
def Obligations.RidgeReadsAndWrites : Prop :=
  (∀ (c : Instr) (a : Fin 33) (line tn w : Nat) (s : State), c = .rdShared a line true tn ∨ c = .rdOwn a line true tn ∨ c = .upgrade a line true tn →
    s.homeFree line = true → a.val < 16 → tn ≠ goneTn → s.dev.dirVictim line 0xFF = some (w, none) → s.thawed line = true →
    ∃ t, exec c s = .next t ∧
      t.dev.out = s.dev.out ++ [.ridge ("Data" ++ poisonName (s.poison.contains line)) (lineIsl line) a line tn 2 ((List.range 64).map fun i => s.byte (line * 64 + i))] ∧
      (∃ x, t.dev.dir line = some x ∧ x.kind = .x ∧ x.owner = a.val ∧ x.way = w) ∧ (∀ l, l ≠ line → t.dev.dir l = s.dev.dir l) ∧
      t.dev.lineBusy line = true ∧ t.mem = s.mem ∧ t.poison = s.poison) ∧
  (∀ (isl : Fin 350) (line tn : Nat) (mask : W64) (s : State), s.homeFree line = true → isl.val < 348 → isl.val ≠ 326 → ¬ (332 ≤ isl.val ∧ isl.val < 344) → tn ≠ goneTn →
    ∃ t, exec (.ncRead isl line tn true mask) s = .next t ∧
      t.dev.out = s.dev.out ++ [.ridge ("Data" ++ poisonName (s.poison.contains line)) (lineIsl line) isl line tn 0 ((List.range 64).map fun i => s.byte (line * 64 + i))] ∧
      (∀ l, t.dev.dir l = s.dev.dir l) ∧ t.dev.ridge.txns = [] ∧ t.mem = s.mem ∧ t.poison = s.poison) ∧
  (∀ (k : Fin 16) (off tag l : Nat) (s : State), s.homeFree l = true → s.dev.hdmLine k off = some l → (s.dev.bay k).st.live = true → s.dev.link.st = .up →
    tag ≠ goneTn →
    ∃ t, exec (.memRd k off 2 tag) s = .next t ∧
      t.dev.out = s.dev.out ++ [.cxl ("Data" ++ grantName 0 ++ poisonName (s.poison.contains l)) l tag ((List.range 64).map fun i => s.byte (l * 64 + i))] ∧
      (∀ l, t.dev.dir l = s.dev.dir l) ∧ t.mem = s.mem) ∧
  (∀ (c : Instr) (k : Fin 16) (off tag l w : Nat) (s : State), c = .memRd k off 0 tag ∨ c = .memRd k off 1 tag ∨ c = .memRdData k off tag → s.homeFree l = true →
    s.dev.hdmLine k off = some l → (s.dev.bay k).st.live = true → s.dev.link.st = .up → tag ≠ goneTn → s.dev.dirVictim l 0xFF = some (w, none) →
    s.thawed l = true →
    ∃ t, exec c s = .next t ∧
      t.dev.out = s.dev.out ++ [.cxl ("Data" ++ grantName 2 ++ poisonName (s.poison.contains l)) l tag ((List.range 64).map fun i => s.byte (l * 64 + i))] ∧
      (∃ x, t.dev.dir l = some x ∧ x.kind = .x ∧ x.owner = 16) ∧ t.mem = s.mem) ∧
  (∀ (k : Fin 16) (off tag l : Nat) (mv : Fin 3) (s : State), s.rests = true → s.dev.hdmLine k off = some l → (s.dev.bay k).st.live = false →
    s.dev.link.st = .up → s.dev.od 0x2200 0x13 + 1 < 2 ^ 32 →
    exec (.memRd k off mv tag) s = .next { s with dev := (s.dev.setOd 0x2200 0x13 (s.dev.od 0x2200 0x13 + 1)).send (.cxl ("Data" ++ grantName 0 ++ poisonName true) l tag (zeros 64)) }) ∧
  (∀ (isl : Fin 350) (line tn : Nat) (mask : W64) (data : List Byte) (s : State), s.homeFree line = true → isl.val < 348 → isl.val ≠ 326 → ¬ (332 ≤ isl.val ∧ isl.val < 344) →
    tn ≠ goneTn → s.thawed line = true →
    ∃ t, exec (.ncWrite isl line tn mask data true) s = .next t ∧ t.dev.out = s.dev.out ++ [.ridge ("Cmp" ++ poisonName false) (lineIsl line) isl line tn 0 []] ∧
      (∀ a, t.byte a = if line * 64 ≤ a ∧ a < line * 64 + 64 ∧ bit mask.toNat (a - line * 64) = true then ((fit 64 data)[a - line * 64]?).getD 0 else s.byte a) ∧
      (∀ l, t.dev.dir l = s.dev.dir l) ∧ t.dev.ridge.txns = []) ∧
  (∀ (isl : Fin 350) (line tn : Nat) (op : Fin 10) (off size operand compare : Nat) (ret : Bool) (s : State), s.homeFree line = true → isl.val < 348 → isl.val ≠ 326 →
    ¬ (332 ≤ isl.val ∧ isl.val < 344) → tn ≠ goneTn → s.dev.atomicBad line op off size ret = none → s.poison.contains line = false → s.thawed line = true →
    let old := leNat ((List.range size).map fun i => s.byte (line * 64 + off + i))
    ∃ t, exec (.ncAtomic isl line tn op off size operand compare ret true) s = .next t ∧
      t.dev.out = s.dev.out ++ [if ret then .ridge ("Data" ++ poisonName false) (lineIsl line) isl line tn 0 (leBytes size old)
                                else .ridge ("Cmp" ++ poisonName false) (lineIsl line) isl line tn 0 []] ∧
      (∀ a, t.byte a = if line * 64 + off ≤ a ∧ a < line * 64 + off + size then
        ((leBytes size (atomicResult op size old operand compare))[a - (line * 64 + off)]?).getD 0 else s.byte a) ∧
      (∀ l, t.dev.dir l = s.dev.dir l) ∧ t.dev.ridge.txns = []) ∧
  (∀ (a : Fin 33) (line tn : Nat) (data : List Byte) (poison : Bool) (x : Dir) (s : State), s.rests = true → homed line = true → a.val < 16 →
    (s.dev.island (272 + sliceOf line)).st = .active → s.dev.ridge.txns = [] → s.dev.ridge.waiting = [] → s.dev.arrays = [] →
    s.dev.dir line = some x → x.kind = .x → x.owner = a.val → tn ≠ goneTn →
    ∃ t, exec (.wbDirty a line data poison tn) s = .next t ∧ t.dev.out = s.dev.out ++ [.ridge ("WbAck" ++ poisonName false) (lineIsl line) a line tn 0 []] ∧
      t.dev.dir line = none ∧ (∀ l, l ≠ line → t.dev.dir l = s.dev.dir l) ∧ t.poison.contains line = poison ∧
      (∀ b, t.byte b = if line * 64 ≤ b ∧ b < line * 64 + 64 then ((fit 64 data)[b - line * 64]?).getD 0 else if b = sumAddr line then 0 else s.byte b)) ∧
  (∀ (c : Instr) (k : Fin 16) (off tag l : Nat) (mv : Fin 3) (mask : W64) (data : List Byte) (s : State),
    c = .memWrPtl k off mv mask data tag ∨ (c = .memWr k off mv data tag ∧ mask = BitVec.allOnes 64) → mv ≠ 2 → s.homeFree l = true →
    s.dev.hdmLine k off = some l → (s.dev.bay k).st.live = true → s.dev.link.st = .up → tag ≠ goneTn → s.thawed l = true →
    ∃ t, exec c s = .next t ∧ t.dev.out = s.dev.out ++ [.cxl ("Cmp" ++ grantName 0 ++ poisonName false) l tag []] ∧
      (∀ a, t.byte a = if l * 64 ≤ a ∧ a < l * 64 + 64 ∧ bit mask.toNat (a - l * 64) = true then ((fit 64 data)[a - l * 64]?).getD 0 else s.byte a) ∧
      (∀ l, t.dev.dir l = s.dev.dir l)) ∧
  (∀ (k : Fin 16) (off tag l : Nat) (x : Dir) (data : List Byte) (s : State), s.rests = true → homed l = true →
    (s.dev.island (272 + sliceOf l)).st = .active → s.dev.ridge.txns = [] → s.dev.ridge.waiting = [] → s.dev.arrays = [] →
    s.dev.dir l = some x → x.kind = .x → x.owner = 16 → s.dev.hdmLine k off = some l → (s.dev.bay k).st.live = true → s.dev.link.st = .up → tag ≠ goneTn →
    ∃ t, exec (.memWr k off 2 data tag) s = .next t ∧ t.dev.out = s.dev.out ++ [.cxl ("WbAck" ++ grantName 0 ++ poisonName false) l tag []] ∧
      t.dev.dir l = none ∧
      (∀ b, t.byte b = if l * 64 ≤ b ∧ b < l * 64 + 64 then ((fit 64 data)[b - l * 64]?).getD 0 else if b = sumAddr l then 0 else s.byte b))

/-- Snoops at a home and their answers: a cluster's RdOwn of a line that another holds waits for that holder alone; its answer, with dirty data or
without, lets the home grant the line; CmpAck ends the transaction; a holder that has not answered within snoop_timeout loses what it held dirty.
The caching agents: a cluster answers a snoop from its line's present state, installs what it is granted, is raised by an Upgrade, and drops a line
whose write-back is acknowledged; a request answered Retry is sent again after 1 µs, one answered Gone is not. A change of the cell takes effect
once nothing of the recall is under way. -/
def Obligations.RidgeSnoopsAndAgents : Prop :=
  (∀ (a b : Fin 33) (line tn : Nat) (x : Dir) (s : State), s.rests = true → homed line = true → (s.dev.island (272 + sliceOf line)).st = .active →
    s.dev.ridge.txns = [] → s.dev.ridge.waiting = [] → s.dev.arrays = [] → s.dev.dir line = some x → x.kind = .x → x.owner = b.val → a.val < 16 → b.val < 16 →
    a ≠ b → s.thawed line = true → tn ≠ goneTn →
    (s.dev.ridge.rowed.contains b.val = true →
      ∃ t, exec (.rdOwn a line true tn) s = .next t ∧ t.dev.out = s.dev.out ++ [.ridge ("SnpInv" ++ poisonName false) (lineIsl line) b line tn 0 []] ∧
        t.dev.ridge.txns = [{ line := line, req := { op := .rdOwn, a := a, tn := tn, time := s.time }, snp := 2, entry := some x, time := s.time, wait := [b.val] }] ∧
        t.dev.dir line = some x ∧ t.mem = s.mem) ∧
    (s.dev.ridge.rowed.contains b.val = false → (s.dev.l2 b line).st = .e →
      ∃ t, exec (.rdOwn a line true tn) s = .next t ∧
        t.dev.out = s.dev.out ++ [.ridge ("Data" ++ poisonName (s.poison.contains line)) (lineIsl line) a line tn 2 ((List.range 64).map fun i => s.byte (line * 64 + i))] ∧
        (∃ y, t.dev.dir line = some y ∧ y.kind = .x ∧ y.owner = a.val) ∧ t.dev.l2 b line = {} ∧ t.mem = s.mem)) ∧
  (∀ (a b : Fin 33) (line : Nat) (x : Dir) (t0 : Txn) (s : State), s.rests = true → homed line = true → (s.dev.island (272 + sliceOf line)).st = .active →
    s.dev.ridge.txns = [t0] → s.dev.ridge.waiting = [] → s.dev.dir line = some x → a.val < 16 → b.val < 16 →
    t0 = { line := line, req := { op := .rdOwn, a := a, tn := t0.req.tn, time := t0.req.time }, snp := 2, entry := some x, time := t0.time, wait := [b.val] } →
    t0.req.tn ≠ goneTn →
    (∃ t, exec (.snpAck b line 0) s = .next t ∧
      t.dev.out = s.dev.out ++ [.ridge ("Data" ++ poisonName (s.poison.contains line)) (lineIsl line) a line t0.req.tn 2 ((List.range 64).map fun i => s.byte (line * 64 + i))] ∧
      (∃ y, t.dev.dir line = some y ∧ y.kind = .x ∧ y.owner = a.val) ∧ t.mem = s.mem) ∧
    (∀ (data : List Byte) (p : Bool), ∃ t, exec (.snpData b line 0 data p) s = .next t ∧
      t.dev.out = s.dev.out ++ [.ridge ("Data" ++ poisonName p) (lineIsl line) a line t0.req.tn 4 (fit 64 data)] ∧
      (∃ y, t.dev.dir line = some y ∧ y.kind = .x ∧ y.owner = a.val) ∧ t.mem = s.mem)) ∧
  (∀ (a : Fin 33) (line : Nat) (t0 : Txn) (s : State), s.rests = true → s.dev.ridge.txns = [t0] → s.dev.ridge.waiting = [] → t0.line = line → t0.granted = true →
    t0.req.op.caching = true → t0.req.a = a.val →
    exec (.cmpAck a line) s = .next { s with dev := { s.dev with ridge := { s.dev.ridge with txns := [] } } }) ∧
  (∀ (a : Fin 33) (line : Nat) (x : Dir) (t0 : Txn) (s : State), s.rests = true → homed line = true → s.dev.ridge.txns = [t0] → s.dev.ridge.waiting = [] →
    17 ≤ a.val → s.dev.dir line = some x → x.kind = .x → x.owner = a.val → s.dev.lineBay line = none → t0.readsFor line a x →
    t0.time + s.dev.od 0x2400 9 * 1000 ≤ s.time → s.dev.od 0x2400 0xA + 1 < 2 ^ 32 → s.dev.od 0x2400 0xB + 1 < 2 ^ 32 →
    ∃ t, exec (.snoopTimeout a line) s = .next t ∧ t.dev.od 0x2400 0xA = s.dev.od 0x2400 0xA + 1 ∧ t.dev.od 0x2400 0xB = s.dev.od 0x2400 0xB + 1 ∧
      t.dev.dir line = none ∧ t.poison.contains line = true ∧ t.dev.ridge.txns = [] ∧
      t.dev.out = s.dev.out ++ [.ridge ("Data" ++ poisonName true) (lineIsl line) t0.req.a line t0.req.tn 0 ((List.range 64).map fun i => s.byte (line * 64 + i))]) ∧
  (∀ (c : Fin 17) (line tn : Nat) (s : State), s.rests = true → c.val < 16 → s.dev.cacheable line = true →
    let x := s.dev.l2 c line
    let i := lineIsl line
    (x.st = .m →
      exec (.snpShared c line tn) s = .next { s with dev := (s.dev.setL2 c line { x with st := .o }).send (.ridge ("SnpData" ++ poisonName x.poison) c i line tn 3 x.data) } ∧
      exec (.snpInv c line tn) s = .next { s with dev := (s.dev.setL2 c line {}).send (.ridge ("SnpData" ++ poisonName x.poison) c i line tn 0 x.data) } ∧
      exec (.snpCur c line tn) s = .next { s with dev := (s.dev.setL2 c line x).send (.ridge ("SnpData" ++ poisonName x.poison) c i line tn 4 x.data) }) ∧
    (x.st = .e →
      exec (.snpShared c line tn) s = .next { s with dev := (s.dev.setL2 c line { x with st := .s }).send (.ridge "SnpAck" c i line tn 1 []) } ∧
      exec (.snpInv c line tn) s = .next { s with dev := (s.dev.setL2 c line {}).send (.ridge "SnpAck" c i line tn 0 []) } ∧
      exec (.snpCur c line tn) s = .next { s with dev := (s.dev.setL2 c line x).send (.ridge "SnpAck" c i line tn 2 []) })) ∧
  (∀ (c : Fin 17) (line : Nat) (s : State), s.rests = true → c.val < 16 → (s.dev.l2 c line).wb = true →
    exec (.wbAck c line) s = .next { s with dev := s.dev.setL2 c line {} }) ∧
  (∀ (isl : Fin 350) (line tn : Nat) (s : State), s.rests = true → 256 ≤ isl.val → isl.val < 272 → homed line = true →
    ((s.dev.l2 (isl - 256) line).st = .s → exec (.cmp isl line tn .ok) s =
      .next { s with dev := (s.dev.rowed (isl - 256)).setL2 (isl - 256) line { s.dev.l2 (isl - 256) line with st := .e } }) ∧
    ((s.dev.l2 (isl - 256) line).st = .o → exec (.cmp isl line tn .ok) s =
      .next { s with dev := (s.dev.rowed (isl - 256)).setL2 (isl - 256) line { s.dev.l2 (isl - 256) line with st := .m } })) ∧
  (∀ (isl : Fin 350) (line tn : Nat) (data : List Byte) (st : Fin 5) (p : Bool) (s : State), s.rests = true → 256 ≤ isl.val → isl.val < 272 →
    st.val = 1 ∨ st.val = 2 ∨ st.val = 4 → homed line = true →
    ∃ t, exec (.data isl line tn data st p) s = .next t ∧ (t.dev.l2 (isl - 256) line).st = grantOf st ∧ (t.dev.l2 (isl - 256) line).data = fit 64 data ∧
      (t.dev.l2 (isl - 256) line).poison = p ∧ t.mem = s.mem ∧ t.dev.out.getLast? = some (.ridge "CmpAck" (isl - 256) (lineIsl line) line tn 0 [])) ∧
  (∀ (isl : Fin 350) (line tn : Nat) (s : State), s.rests = true → homed line = true ∨ hostKey 0 ≤ line ∨ (remoteLine? line).isSome = true →
    exec (.retry isl line tn) s = .next { s with dev := { s.dev with ridge := { s.dev.ridge with
    resends := s.dev.ridge.resends ++ [⟨isl, line, tn, s.time + 1000⟩] } } }) ∧
  (∀ (isl : Fin 350) (line tn : Nat) (r : Resend) (s : State), s.rests = true → s.dev.ridge.away = [] → s.dev.ridge.l2out = [] → r.at_ ≤ s.time →
    (s.dev.ridge.resends.find? fun r => r.isl == isl.val && r.line == line && r.tn == tn) = some r →
    exec (.retryResend isl line tn) s = .next { s with dev := ({ s.dev with ridge := { s.dev.ridge with
      resends := s.dev.ridge.resends.erase r } } : Dev).send (.ridge "resend" isl (lineIsl line) line tn 0 []) }) ∧
  (∀ (isl : Fin 350) (line tn : Nat) (s : State), s.rests = true → s.dev.ridge.away = [] → s.dev.ridge.abandoned = [] → s.dev.ridge.l2out = [] →
    exec (.gone isl line tn) s = .next { s with dev := { s.dev with ridge := { s.dev.ridge with
      resends := s.dev.ridge.resends.filter fun r => !(r.isl == isl.val && r.line == line && r.tn == tn) } } }) ∧
  (∀ s : State, s.rests = true → s.dev.ridge.cellBusy = true → s.dev.ridge.txns = [] → s.dev.ridge.waiting = [] → s.dev.ridge.remote = [] →
    s.dev.ridge.l2out = [] →
    exec .cellChangeEnd s = .next { s with dev := { s.dev with ridge := { s.dev.ridge with
      cellBusy := false, leaving := [], cellOn := s.dev.od 0x2401 1 == 1, ownSlot := s.dev.od 0x2401 2, members := s.dev.cellNext.2.2 } } })

/-- The host's lines, over CXL.cache: each of H2D_SNP_DATA, H2D_SNP_INV and H2D_SNP_CUR is answered from the state of the line in the proxy cache as Table —
Host snoops has it, leaves the line in the state of that table, and is counted; H2D_SNP_INV takes the copies of the clusters with it, and a line
whose DirtyEvict is not acknowledged yet stays until it is. HOST_GO_RESPONSE ends a DirtyEvict, or grants the line to the cluster that waits; with
CXL.cache not active none of these has an effect. The host as a holder of a line homed here, over CXL.mem: BIRSP answers the snoop of a home, with
dirty data or without, and the reader gets its answer; BICONFLICT is acknowledged and counted; BISNP_TIMEOUT takes what the host held dirty as
lost. -/
def Obligations.HostCoherence : Prop :=
  (∀ (hpa : Nat) (s : State), s.rests = true → s.dev.link.st = .up → bit s.dev.link.cxl 1 = true → s.dev.od 0x2402 6 + 1 < 2 ^ 32 →
    let l := hpa / 64
    let x := s.dev.pline l
    let answer (snp : Nat) : Out :=
      .cxl ((hostSnoop snp x.st).1 ++ poisonName ((hostSnoop snp x.st).2.1 && x.poison)) l 0 (if (hostSnoop snp x.st).2.1 then x.data else [])
    (∃ t, exec (.h2dSnpData hpa) s = .next t ∧ (t.dev.pline l).st = (hostSnoop 1 x.st).2.2 ∧ t.dev.od 0x2402 6 = s.dev.od 0x2402 6 + 1 ∧
      t.dev.out = s.dev.out ++ [answer 1] ∧ t.mem = s.mem) ∧
    (∃ t, exec (.h2dSnpInv hpa) s = .next t ∧ t.dev.pline l = (if x.wb then { x with st := .i, sharers := [] } else {}) ∧
      t.dev.od 0x2402 6 = s.dev.od 0x2402 6 + 1 ∧
      t.dev.out = s.dev.out ++ (x.sharers.map fun c => .ridge "SnpInv" 331 c (hostKey l) 0 0 []) ++ [answer 2] ∧
      (∀ c ∈ x.sharers, t.dev.l2 c (hostKey l) = {}) ∧ t.mem = s.mem) ∧
    (∃ t, exec (.h2dSnpCur hpa) s = .next t ∧ (t.dev.pline l).st = x.st ∧ t.dev.od 0x2402 6 = s.dev.od 0x2402 6 + 1 ∧
      t.dev.out = s.dev.out ++ [answer 3] ∧ t.mem = s.mem)) ∧
  (∀ (hpa : Nat) (st : Fin 5) (data : List Byte) (s : State), s.rests = true → bit s.dev.link.cxl 1 = false →
    exec (.h2dSnpData hpa) s = .next s ∧ exec (.h2dSnpInv hpa) s = .next s ∧ exec (.h2dSnpCur hpa) s = .next s ∧
    exec (.hostGoResponse hpa st data) s = .next s) ∧
  (∀ (line : Nat) (st : Fin 5) (data : Option (List Byte)) (x : Dir) (t0 : Txn) (s : State), s.rests = true → homed line = true →
    (s.dev.island (272 + sliceOf line)).st = .active → s.dev.ridge.txns = [t0] → s.dev.ridge.waiting = [] → s.dev.ridge.lateAns.contains (line, 16) = false →
    s.dev.dir line = some x → x.kind = .x → x.owner = 16 → t0.readsFor line 16 x →
    let bs := match data with | some v => fit 64 v | none => (List.range 64).map fun i => s.byte (line * 64 + i)
    let p := data.isNone && s.poison.contains line
    ∃ t, exec (.birsp line st data) s = .next t ∧
      t.dev.out = s.dev.out ++ [.ridge ("Data" ++ poisonName p) (lineIsl line) t0.req.a line t0.req.tn 0 bs] ∧ t.dev.ridge.txns = [] ∧
      t.dev.dir line = (if st.val = 0 then none else some x) ∧ t.poison.contains line = p ∧
      (∀ a, a ≠ sumAddr line → t.byte a = if line * 64 ≤ a ∧ a < line * 64 + 64 then (bs[a - line * 64]?).getD 0 else s.byte a)) ∧
  (∀ (line : Nat) (s : State), s.rests = true →
    let waits := s.dev.ridge.txns.any fun t => t.line == line && t.wait.contains 16
    (waits = true → s.dev.link.st = .up → s.dev.od 0x2402 4 + 1 < 2 ^ 32 →
      exec (.biconflict line) s = .next { s with dev := (s.dev.send (.cxl "BIConflictAck" line 0 [])).setOd 0x2402 4 (s.dev.od 0x2402 4 + 1) }) ∧
    (waits = false → exec (.biconflict line) s = .next s)) ∧
  (∀ (line : Nat) (x : Dir) (t0 : Txn) (s : State), s.rests = true → homed line = true → s.dev.ridge.txns = [t0] → s.dev.ridge.waiting = [] →
    s.dev.dir line = some x → x.kind = .x → x.owner = 16 → t0.readsFor line 16 x → t0.time + s.dev.od 0x2400 9 * 1000 ≤ s.time →
    s.dev.od 0x2402 5 + 1 < 2 ^ 32 → s.dev.attachMode ≠ 1 →
    (∀ n, s.dev.lineBay line = some n → s.dev.strict n = false ∧ s.dev.bayEvt n = false) →
    ∃ t, exec (.bisnpTimeout line) s = .next t ∧ t.dev.od 0x2402 5 = s.dev.od 0x2402 5 + 1 ∧ t.dev.dir line = none ∧ t.poison.contains line = true ∧
      t.dev.ridge.txns = [] ∧
      (s.dev.lineBay line = none → t.dev.out = s.dev.out ++
        [.ridge ("Data" ++ poisonName true) (lineIsl line) t0.req.a line t0.req.tn 0 ((List.range 64).map fun i => s.byte (line * 64 + i))])) ∧
  (∀ (hpa : Nat) (st : Fin 5) (data : List Byte) (s : State), s.rests = true → bit s.dev.link.cxl 1 = true →
    (∀ w ∈ s.dev.ridge.proxyWait, w.1 ≠ hpa / 64) →
    ((s.dev.pline (hpa / 64)).wb = true → exec (.hostGoResponse hpa st data) s = .next { s with dev := s.dev.setPline (hpa / 64) {} }) ∧
    ((s.dev.pline (hpa / 64)).wb = false → exec (.hostGoResponse hpa st data) s = .next s)) ∧
  (∀ (hpa : Nat) (c : Fin 16) (st : Fin 5) (data : List Byte) (q : HomeReq) (s : State), s.rests = true → bit s.dev.link.cxl 1 = true →
    (∀ y ∈ s.dev.ridge.proxy, y.1 % 8192 ≠ hpa / 64 % 8192) → s.dev.ridge.proxyWait = [(hpa / 64, q)] →
    q.op = .rdShared → q.a = c.val → q.who = none → q.self = false → q.tn ≠ goneTn →
    ∃ t, exec (.hostGoResponse hpa st data) s = .next t ∧ (t.dev.pline (hpa / 64)).st = (if st = 2 then .e else .s) ∧
      (t.dev.pline (hpa / 64)).data = fit 64 data ∧ (t.dev.pline (hpa / 64)).sharers = [c.val] ∧ t.dev.ridge.proxyWait = [] ∧
      t.dev.out = s.dev.out ++ [.ridge ("Data" ++ poisonName false) 331 c (hostKey (hpa / 64)) q.tn 1 (fit 64 data)] ∧ t.mem = s.mem)

/-! ### What ends in a Bay (R135 to R146, R153, R655, R666) -/

/-! ### Translation (R212 to R246) -/

/-- A walk that reads a local leaf with the permission asked for fills the Device TLB, which then serves the access; a root that is not valid is a fault
of kind NOT_PRESENT, recorded for the Bay; a translation granted by the host fills the TLB too. Invalidations. One that the host asks for removes,
on its tick, every translation of the function that came by ATS and whose host range it meets, and completes once no access that used one is open;
so does a Lath invalidation. Page requests: a success resumes the requesters that its group halted; an invalid request and a response failure end
the group, the failure for every later request too, until PRI status is cleared; a group without a response times out, which is a fault of class
JOB, and its index stays reserved. -/
def Obligations.LathWalksAndRequests : Prop :=
  (∀ (k : Walk) (s : State), s.dev.trans.walks = [k] → k.level ≤ 2 → k.leaf = none → k.table % 4096 = 0 →
    s.homeFree ((k.table + walkIdx k.dva k.level * 8) / 64) = true → s.poison.contains ((k.table + walkIdx k.dva k.level * 8) / 64) = false →
    s.dev.trans.tlb = [] → bit (s.dev.od (0x2310 + k.bay) 9) 0 = true →
    let v := s.walkEntry k
    bit v 0 = true → bit v 1 = true → lathBad v k.level = false → bit v 7 = false → bits v 5 4 = 0 → bit v (if k.write then 3 else 2) = true →
    ∃ t x, exec (.lathWalkEnd k.id false) s = .next t ∧ t.dev.trans.tlb = [x] ∧ t.dev.trans.walks = [] ∧ x.hit k.bay k.space k.dva k.write = true ∧
      t.dev.trOf x k.dva = .loc (bits v 59 12 * 4096 + k.dva % 2 ^ (12 + 9 * k.level)) ∧ t.mem = s.mem) ∧
  (∀ (k : Walk) (n : Nat) (s : State), s.rests = true → s.dev.trans.walks = [k] → k.level = 4 → k.leaf = none → k.who = .sink n → k.bay = n → n < 16 →
    bit (s.dev.od (0x2310 + n) (k.space + 1)) 0 = false → s.dev.od (0x2310 + n) 0xC + 1 < 2 ^ 32 → s.dev.bayEvt n = false →
    ∃ t, exec (.lathWalkEnd k.id false) s = .next t ∧ t.dev.trans.walks = [] ∧ t.dev.od (0x2310 + n) 0xC = s.dev.od (0x2310 + n) 0xC + 1 ∧
      t.dev.od (0x2310 + n) 0xD = k.dva ∧ t.dev.od (0x2310 + n) 0xE = kNotPresent + 256 * k.space + 1024 * 3 + 4096 * b2n k.write ∧
      (t.dev.jour n).faulted = true ∧ t.mem = s.mem) ∧
  (∀ (tag hpa log : Nat) (q : TReq) (s : State), s.rests = true → s.dev.trans.treqs = [q] → q.tag = tag → q.gone = false → q.dead = false → q.stale = false →
    12 ≤ log → q.log ≤ log → s.dev.trans.tlb = [] → bit (s.dev.od (0x2310 + q.walk.bay) 9) 0 = true → q.r = true → q.w = true →
    s.dev.link.ideBad = [] →
    ∃ t x, exec (.translationCompletion tag false hpa (2 ^ log) true true) s = .next t ∧ t.dev.trans.treqs = [] ∧ t.dev.trans.tlb = [x] ∧
      x.hit q.walk.bay q.walk.space q.walk.dva q.walk.write = true ∧ x.ats = true ∧ x.kind = 1 ∧ t.mem = s.mem) ∧
  (∀ (n : Fin 16) (itag base size : Nat) (s : State), s.rests = true → s.dev.link.st = .up → s.dev.link.ideBad = [] → s.dev.od 0x2300 6 + 1 < 2 ^ 32 →
    ∃ t i, exec (.atsInvalidateRequest n itag none base size) s = .next t ∧ t.dev.trans.invals = s.dev.trans.invals ++ [i] ∧ i.bay = n.val ∧ i.ats = true ∧
      i.itag = itag ∧ t.dev.od 0x2300 6 = s.dev.od 0x2300 6 + 1 ∧
      (∀ x, x ∈ t.dev.trans.tlb ↔ x ∈ s.dev.trans.tlb ∧ ¬ (x.bay = n.val ∧ x.ats = true ∧ x.host < base + size ∧ base < x.host + 2 ^ x.log)) ∧
      (∀ q ∈ t.dev.trans.treqs, q.walk.bay = n.val → q.host < base + size → base < q.host + 2 ^ q.log → q.stale = true) ∧ t.mem = s.mem) ∧
  (∀ (n : Fin 16) (itag : Nat) (i : Inval) (s : State), s.rests = true → s.dev.link.st = .up → s.dev.link.ideBad = [] →
    (s.dev.trans.invals.find? fun i => i.bay == n.val && i.ats && i.itag == itag) = some i → s.dev.invalDone i = true →
    exec (.atsInvalidateComplete n itag) s = .next { s with dev := ({ s.dev with trans := { s.dev.trans with invals := s.dev.trans.invals.erase i } } : Dev).send (.invalCpl (n + 1) itag) }) ∧
  (∀ (n : Fin 16) (i : Inval) (s : State), s.rests = true → (s.dev.trans.invals.find? fun i => i.bay == n.val && !i.ats) = some i → s.dev.invalDone i = true →
    i.cmd = none → s.dev.od (0x2310 + n) 0xB + 1 < 2 ^ 32 →
    exec (.lathInvalComplete n) s = .next { s with dev := ({ s.dev with trans := { s.dev.trans with invals := s.dev.trans.invals.erase i } } : Dev).setOd (0x2310 + n) 0xB (s.dev.od (0x2310 + n) 0xB + 1) }) ∧
  (∀ (n : Fin 16) (i : Inval) (s : State), s.rests = true → (s.dev.trans.invals.find? fun i => i.bay == n.val && !i.ats) = some i → s.dev.invalDone i = false →
    exec (.lathInvalComplete n) s = .next s) ∧
  (∀ (idx c : Nat) (pasid : Option (BitVec 20)) (g : Prg) (h : Halt) (s : State), s.rests = true → s.dev.link.st = .up → s.dev.link.ideBad = [] →
    s.dev.trans.prgs = [g] → g.idx = idx → g.ended = false → g.gone = false → g.pasid = pasid.map (·.toNat) → s.dev.unmasked (g.bay + 1) 5 = false →
    s.dev.bayEvt g.bay = false → s.dev.trans.halts = [h] → h.cause = 2 → h.who = .gutter c → g.who = [.gutter c] →
    h.bay = g.bay → h.space = g.space → h.page = g.page → (s.dev.gutter c).st = .halted →
    ∃ t, exec (.prgSuccess idx pasid) s = .next t ∧ t.dev.trans.prgs = [] ∧ t.dev.trans.halts = [] ∧
      t.dev.gutter c = { s.dev.gutter c with st := .running } ∧ t.dev.out = s.dev.out ∧ t.mem = s.mem) ∧
  (∀ (idx : Nat) (pasid : Option (BitVec 20)) (g : Prg) (s : State), s.rests = true → s.dev.link.st = .up → s.dev.link.ideBad = [] →
    s.dev.trans.prgs = [g] → g.idx = idx → g.ended = false → g.gone = false → g.pasid = pasid.map (·.toNat) → s.dev.trans.halts = [] → s.dev.bayEvt g.bay = false → g.bay < 16 →
    s.dev.od (0x2330 + g.bay) 7 + 1 < 2 ^ 32 →
    (∃ t, exec (.prgInvalidRequest idx pasid) s = .next t ∧ t.dev.trans.prgs = [] ∧ t.dev.od (0x2330 + g.bay) 7 = s.dev.od (0x2330 + g.bay) 7 + 1 ∧
      t.dev.link.priFailure = s.dev.link.priFailure ∧ t.mem = s.mem) ∧
    (∃ t, exec (.prgResponseFailure idx pasid) s = .next t ∧ t.dev.trans.prgs = [] ∧ t.dev.od (0x2330 + g.bay) 7 = s.dev.od (0x2330 + g.bay) 7 + 1 ∧
      t.dev.link.priFailure = true ∧ t.mem = s.mem)) ∧
  (∀ (tag : Nat) (s : State), s.rests = true → s.dev.cfgHere = true → s.dev.link.ideBad = [] → s.dev.link.deferred = [] → s.dev.trans.halts = [] →
    exec (.priStatusClear tag) s = .next { s with dev := ({ s.dev with link := { s.dev.link with priFailure := false } } : Dev).send (.cpl tag "OK" []) }) ∧
  (∀ (idx : Nat) (g : Prg) (s : State), s.rests = true → s.dev.trans.prgs = [g] → g.idx = idx → g.ended = false → g.gone = false → g.deadline ≠ 0 → g.deadline ≤ s.time →
    s.dev.trans.halts = [] → g.bay < 16 → s.dev.strict g.bay = false → s.dev.bayEvt g.bay = false → s.dev.attachMode ≠ 1 →
    ∃ t, exec (.prgTimeout idx) s = .next t ∧ t.dev.trans.prgs = [{ g with ended := true, deadline := 0, who := [] }] ∧ t.dev.flogSeq = s.dev.flogSeq + 1 ∧
      (s.logOpen = true → ∀ f ∈ t.dev.flog.head?, f.severity = 3 ∧ f.bay = g.bay ∧ f.status = Status.timeout.code) ∧ t.mem = s.mem)

/-! ### Queues: fetching, starting and the control commands (R341 to R372, R528 to R536, R605) -/

/-- A command of the highest ranking queue is fetched and its Bay runs; the next one of a queue starts where the checks of its format pass, and in a
strict Bay's open job joins the job's command stream (R346, R352, R534). -/
def Obligations.FetchAndStart : Prop :=
  (∀ (n : Fin 16) (q : Nat) (bs : List Byte) (tr : Trans) (s : State), s.rests = true → s.dev.noPrep = true → s.dev.pickQueue n = some q →
    let d := s.dev.setBay n { s.dev.bay n with lastQueue := q }
    let x := s.dev.queue n q
    x.p = x.fe + 1 → ((s.dev.bay n).st = .idle → s.dev.attachMode ≠ 1) → bs[0]? ≠ some 0x11 → bs[0]? ≠ some 0x12 →
    d.readRange s.env (.queue (8 * n + q)) n (s.dev.cqSpace n q) (s.dev.od (0x2680 + n) (0x10 * q + 1) + x.fe.toNat % 2 ^ s.dev.cqK n q * 64) 64 =
      (.got bs false, { d with trans := tr }) →
    ∃ t, exec (.commandFetch n false) s = .next t ∧ (t.dev.queue n q).cmds = x.cmds ++ [{ pos := x.fe, bytes := bs, at_ := s.time }] ∧
      (t.dev.queue n q).fe = x.fe + 1 ∧ (t.dev.queue n q).p = x.p ∧ (t.dev.bay n).st = .running ∧ (t.dev.bay n).lastQueue = q ∧ t.mem = s.mem) ∧
  (∀ (n : Fin 16) (q : Fin 8) (p : W32) (op : Nat) (c : Cmd) (s : State), s.stands n q p op .fetched c = true → s.dev.noPrep = true →
    (s.dev.queue n q).st = .active → (s.dev.bay n).st.live = true → s.dev.cmdBad n c = none → s.dev.od (0x2680 + n) 0x79 + 1 < 2 ^ 64 →
    ∃ t, exec (.commandStart n q) s = .next t ∧ (t.dev.queue n q) = { s.dev.queue n q with cmds := [{ c with ph := .started }] } ∧
      t.dev.od (0x2680 + n) 0x79 = s.dev.od (0x2680 + n) 0x79 + 1 ∧ t.mem = s.mem ∧
      (t.dev.jour n) = { s.dev.jour n with
        stream := if s.dev.strict n && (s.dev.jour n).st == .open_ && (s.dev.jour n).q == q then (s.dev.jour n).stream ++ [c.bytes] else (s.dev.jour n).stream })

/-- NOP, FENCE, HOLD and WAIT complete and leave their queue when what they wait for has come: at once, or with the event that brings it. A WAIT that
has to wait runs with its time limit. The command asks for no completion record. SIGNAL: a SET or an ADD of a Spar here, on a Spar that is neither
armed nor mirrored and while no Course could re-arm on it; or a remote ADD, whose request is kept until the peer has answered (R321, R356, R569).
LAYER inside a job, with no checkpoint asked for: counted, in a strict Bay with a LAYER record in its job's journal (R359, R541). -/
def Obligations.ControlAndSignal : Prop :=
  (∀ (n : Fin 16) (q : Fin 8) (p : W32) (c : Cmd) (s : State), s.stands n q p 0 .started c = true → c.flag 0 = false →
    exec (.nop n q p) s = .next { s with dev := s.dev.served n q }) ∧
  (∀ (n : Fin 16) (q : Fin 8) (p : W32) (c : Cmd) (s : State), s.stands n q p 1 .started c = true → c.flag 0 = false →
    (s.dev.page n).held = [] → (s.dev.page n).fences = [] → (s.dev.page n).sky = [] → (∀ k, k ≠ q.val → (s.dev.queue n k).cmds = []) →
    exec (.fence n q p) s = .next { s with dev := s.dev.served n q }) ∧
  (∀ (n : Fin 16) (q : Fin 8) (p : W32) (c : Cmd) (s : State), s.stands n q p 1 .running c = true → c.flag 0 = false →
    (s.dev.page n).held = [] → (s.dev.page n).fences = [] → (s.dev.page n).sky = [] →
    (∀ k ∈ c.snap, ((s.dev.queue n k.1).cmds.any fun x => x.pos.toNat == k.2) = false) →
    exec (.fenceComplete n q p) s = .next { s with dev := s.dev.served n q }) ∧
  (∀ (n : Fin 16) (q : Fin 8) (p : W32) (c : Cmd) (s : State), s.stands n q p 2 .started c = true → c.flag 0 = false →
    let c' := { c with deadline := if c.f 0x18 4 = 0 then none else some (s.time + c.f 0x18 4 * 1000) }
    exec (.wait n q p) s = .next { s with dev := if c.f 0x10 8 ≤ (s.dev.spar (c.f 8 2)).value.toNat then s.dev.served n q else s.dev.running n q c' }) ∧
  (∀ (n : Fin 16) (q : Fin 8) (p : W32) (c : Cmd) (s : State), s.stands n q p 2 .running c = true → c.flag 0 = false →
    c.f 0x10 8 ≤ (s.dev.spar (c.f 8 2)).value.toNat →
    exec (.waitSatisfied n q p) s = .next { s with dev := s.dev.served n q }) ∧
  (∀ (n : Fin 16) (q : Fin 8) (p : W32) (c : Cmd) (x : Nat) (s : State), s.stands n q p 2 .running c = true → c.deadline = some x → x ≤ s.time →
    (s.dev.spar (c.f 8 2)).value.toNat < c.f 0x10 8 → (s.dev.queue n q).job = none → c.flag 3 = false → s.dev.mute (.record n) = true →
    s.dev.trans.buf = [] → s.dev.od (0x2680 + n) 0x7A + 1 < 2 ^ 32 →
    ∃ t, exec (.waitTimeout n q p) s = .next t ∧ (t.dev.queue n q) = { (s.dev.served n q).queue n q with
        error := p.toNat + 2 ^ 32 * Status.timeout.code + 2 ^ 40 * 2 } ∧
      t.dev.od (0x2680 + n) 0x7A = s.dev.od (0x2680 + n) 0x7A + 1 ∧ t.dev.link.heldRecs.length = 1 ∧ t.mem = s.mem) ∧
  (∀ (n : Fin 16) (q : Fin 8) (p : W32) (c : Cmd) (s : State), s.stands n q p 4 .started c = true → c.flag 0 = false →
    exec (.hold n q p) s = .next { s with dev := s.dev.served n q }) ∧
  (∀ (n : Fin 16) (q : Fin 8) (p : W32) (c : Cmd) (s : State), s.stands n q p 4 .running c = true → c.flag 0 = false → s.dev.noPrep = true →
    exec (.holdComplete n q p) s = .next { s with dev := s.dev.served n q }) ∧
  (∀ (n : Fin 16) (q : Fin 8) (p : W32) (c : Cmd) (s : State), s.stands n q p 3 .started c = true → c.flag 0 = false → bit (c.f 0xA 2) 1 = false →
    (s.dev.spar (c.f 8 2)).armed = false → (s.dev.spar (c.f 8 2)).mirror = false → s.dev.courses = [] →
    let x := s.dev.spar (c.f 8 2)
    let v := BitVec.ofNat 64 (c.f 0x10 8)
    let d := (s.dev.served n q).setSpar (c.f 8 2) { x with value := if bit (c.f 0xA 2) 0 then v else x.value + v }
    exec (.signal n q p) s = .next { s with dev := d }) ∧
  (∀ (n : Fin 16) (q : Fin 8) (p : W32) (c : Cmd) (s : State), s.stands n q p 3 .started c = true → bit (c.f 0xA 2) 1 = true →
    ∃ t, exec (.signal n q p) s = .next t ∧ (t.dev.queue n q) = (s.dev.running n q c).queue n q ∧ t.dev.fabric.nextTn = s.dev.fabric.nextTn + 1 ∧
      t.dev.fabric.remotes = s.dev.fabric.remotes ++ [{
        tn := s.dev.fabric.nextTn
        who := .cmd (8 * n + q) p.toNat
        bay := n
        f := { ty := 0x22, vc := 4, dst := c.f 0xE 2, key := c.f 0xC 2, addr := c.f 8 2, payload := leBytes 8 (c.f 0x10 8), tn := s.dev.fabric.nextTn }
        sent := s.time }]) ∧
  (∀ (n : Fin 16) (q : Fin 8) (p : W32) (c : Cmd) (ph : CPh) (s : State), s.stands n q p 5 ph c = true → c.flag 0 = false → ph ≠ .fetched →
    (s.dev.queue n q).job.isSome = true → s.dev.od (0x2D20 + n) 1 = 0 → s.dev.roomFor n 120 = true → s.dev.od (0x2C10 + n) 0xD + 1 < 2 ^ 32 →
    s.firstRec = true →
    ∃ t, exec (if ph = .started then .layer n q p else .layerComplete n q p) s = .next t ∧
      (t.dev.queue n q) = (s.dev.served n q).queue n q ∧ t.dev.od (0x2C10 + n) 0xD = s.dev.od (0x2C10 + n) 0xD + 1 ∧
      (t.dev.jour n).layers = (s.dev.jour n).layers + (if s.dev.strict n then 1 else 0) ∧
      t.dev.jseq = s.dev.jseq + (if s.dev.strict n then 1 else 0) ∧
      (t.dev.jour n).heldRecs.length = (s.dev.jour n).heldRecs.length + (if s.dev.strict n then 1 else 0) ∧ t.mem = s.mem)

/-- BEGIN_JOB opens a job, in a strict Bay also in its journal; END_JOB closes it in an open Bay, and in a strict Bay begins its signature. The regions
of the list are ordinary memory: none is awaited and none is registered (R361, R528, R536, R605). -/
def Obligations.JobCommands : Prop :=
  (∀ (n : Fin 16) (q : Fin 8) (p : W32) (c : Cmd) (bs : List Byte) (tr : Trans) (s : State), s.stands n q p 6 .started c = true → c.flag 0 = false →
    (s.dev.queue n q).job = none → (s.dev.jour n).st = .none → c.f 0x10 8 % 32 = 0 → c.f 0x10 8 < 2 ^ 57 → 0 < c.f 0x18 2 → c.f 0x18 2 ≤ 64 →
    s.reads (.cmd (8 * n + q) p.toNat) n c.space (c.f 0x10 8) (32 * c.f 0x18 2) bs tr → s.dev.listBad n false (opsOf bs) = none →
    s.dev.regions = [] → ((regionsOf bs).all fun r => !r.await) = true → s.dev.roomFor n 248 = true → s.dev.od (0x2680 + n) 0x7C + 1 < 2 ^ 32 →
    s.firstRec = true →
    ∃ t, exec (.beginJob n q p) s = .next t ∧
      (t.dev.queue n q) = { s.dev.queue n q with cmds := [], job := some p, jobId := c.f 8 8, fr := if s.dev.strict n then p else (s.dev.queue n q).fe } ∧
      t.dev.od (0x2680 + n) 0x7C = s.dev.od (0x2680 + n) 0x7C + 1 ∧ t.mem = s.mem ∧
      (s.dev.strict n = false → t.dev.jour n = s.dev.jour n) ∧
      (s.dev.strict n = true → (t.dev.jour n).st = .open_ ∧ (t.dev.jour n).id = c.f 8 8 ∧ (t.dev.jour n).attempt = 0 ∧ (t.dev.jour n).pos = p ∧
        (t.dev.jour n).first = s.time ∧ unbound (t.dev.jour n).inputs = regionsOf bs ∧ (t.dev.jour n).stream = [c.bytes] ∧ t.dev.jseq = s.dev.jseq + 1 ∧
        (t.dev.jour n).heldRecs.length = (s.dev.jour n).heldRecs.length + 1)) ∧
  (∀ (n : Fin 16) (q : Fin 8) (p : W32) (c : Cmd) (bs ob : List Byte) (r : JobRegion) (tr tr' : Trans) (s : State),
    s.stands n q p 7 .started c = true → c.flag 0 = false → c.snap = [] →
    (s.dev.queue n q).job.isSome = true → c.f 0x10 8 % 32 = 0 → c.f 0x10 8 < 2 ^ 57 → 0 < c.f 0x18 2 → c.f 0x18 2 ≤ 64 →
    s.reads (.cmd (8 * n + q) p.toNat) n c.space (c.f 0x10 8) (32 * c.f 0x18 2) bs tr → s.dev.listBad n true (opsOf bs) = none →
    (s.dev.strict n = true → ∃ t, exec (.endJob n q p) s = .next t ∧ (t.dev.queue n q) = (s.dev.running n q c).queue n q ∧
      unbound (t.dev.jour n).outputs = regionsOf bs ∧
      t.dev.jour n = { s.dev.jour n with closing := some p, outputs := (t.dev.jour n).outputs, outSpace := c.space } ∧ t.mem = s.mem) ∧
    (s.dev.strict n = false → regionsOf bs = [r] → r.spar = 0xFFFF → s.readsAfter tr (.cmd (8 * n + q) p.toNat) n c.space r.dva r.len ob tr' →
      ∃ t, exec (.endJob n q p) s = .next t ∧
        (t.dev.queue n q) = { s.dev.queue n q with cmds := [], job := none, fr := (s.dev.queue n q).fe } ∧ t.mem = s.mem))

/-- The commands that start an operation: an invalidation, a Gutter, a PREPARED Course, an engine, a RUN, a seat, a trim, and a CHAIN of one or of two
Gutter stages, which starts every stage at once and hands over through the first one's ring, with the loads of its preparation where it was prepared (R239, R360, R386, R399, R409, R414, R416, R428, R434,
R438, R490, R495). -/
def Obligations.StartingCommands : Prop :=
  (∀ (n : Fin 16) (q : Fin 8) (p : W32) (c : Cmd) (s : State), s.stands n q p 8 .started c = true →
    s.dev.trans.tlb = [] → s.dev.trans.micro = [] → s.dev.trans.wcache = [] → s.dev.trans.walks = [] → s.dev.trans.treqs = [] →
    s.dev.invalsOf n < 8 → s.dev.underWay = [] → s.dev.link.reqs = [] → s.dev.fabric.remotes = [] →
    let tr : Trans := { s.dev.trans with invals := s.dev.trans.invals ++ [{ bay := n, space := c.f 8 8 % 4, ats := false, cmd := some (q.val, p) }] }
    exec (.lathInval n q p) s = .next { s with dev := { (s.dev.running n q c) with trans := tr } }) ∧
  (∀ (n : Fin 16) (q : Fin 8) (p : W32) (c : Cmd) (s : State), s.stands n q p 0x10 .started c = true → (s.dev.gutter (c.f 8 2)).st = .idle →
    let g : Gutter := { st := .running, bay := n, q := q, p := p, space := c.space, desc := c.f 0x10 8, addr := (s.dev.gutter (c.f 8 2)).addr }
    exec (.gutter n q p) s = .next { s with dev := (s.dev.setGutter (c.f 8 2) g).running n q c }) ∧
  (∀ (n : Fin 16) (q : Fin 8) (p : W32) (c : Cmd) (s : State), s.stands n q p 0x11 .started c = true →
    let x := s.dev.course (c.f 8 2)
    x.st = .prepared → x.bay = n.val → x.q = q.val → x.p = p →
    let y := { x with
      st := .running
      pass := 1
      burstAt := none
      stalls := if x.stall = 0 then x.stalls else smSet 0 x.stalls x.stall (smGet 0 x.stalls x.stall + (s.time - x.since))
      stall := 0
      since := s.time }
    exec (.course n q p) s = .next { s with dev := s.dev.setCourse (c.f 8 2) y }) ∧
  (∀ (n : Fin 16) (q : Fin 8) (p : W32) (c : Cmd) (x : List Byte) (tr : Trans) (s : State), s.stands n q p 0x21 .started c = true →
    let g := (engineBase (c.f 8 1)).1 + c.f 9 1
    s.reads (.cmd (8 * n + q) p.toNat) n c.space (c.f 0x10 8) 64 x tr → s.dev.descBad n (c.f 8 1) x false false false = none →
    (s.dev.engine g).queue.length + (s.dev.digestsOn g).length < 32 →
    let y := { s.dev.engine g with queue := (s.dev.engine g).queue ++ [{ bay := n, q := q, p := p, space := c.space, d := x }] }
    exec (.engine n q p) s = .next { s with dev := (({ s.dev with trans := tr } : Dev).setEngine g y).running n q c }) ∧
  (∀ (n : Fin 16) (q : Fin 8) (p : W32) (c : Cmd) (h ops args : List Byte) (tr tr1 tr2 : Trans) (s : State), s.stands n q p 0x20 .started c = true →
    let w := Who.cmd (8 * n + q) p.toNat
    c.f 8 2 ≠ 0xFFFF → 0 < fld h 0 4 → fld h 0 4 ≤ 4096 → s.reads w n c.space (c.f 0x10 8) 64 h tr →
    s.readsAfter tr w n c.space (c.f 0x10 8 + 64) (32 * fld h 0 4) ops tr1 → s.readsAfter tr1 w n c.space (c.f 0x18 8) 64 args tr2 →
    progBad h ops (fun _ => none) false = none → (∀ i, i < c.f 0xA 2 → s.dev.coreFree (c.f 8 2 + i) = true) → ops.length ≤ 0x20000 →
    let r : RunRec := ⟨s.dev.nextRun, n, q, p, c.space, ops.length / 32, none, none, (List.range (c.f 0xA 2)).map (c.f 8 2 + ·), [], none, 0, none⟩
    ∃ t, exec (.run n q p) s = .next t ∧ (t.dev.queue n q) = (s.dev.running n q c).queue n q ∧ t.dev.nextRun = s.dev.nextRun + 1 ∧
      t.dev.runs = s.dev.runs ++ [r] ∧
      (∀ i, i < c.f 0xA 2 → t.dev.core (c.f 8 2 + i) = { st := .running, run := some s.dev.nextRun, logical := i } ∧
        (∀ j, j < ops.length → t.byte (localBase (c.f 8 2 + i) + j) = (ops[j]?).getD 0) ∧
        fld (t.bytes (localBase (c.f 8 2 + i) + 0x7FFB8) 4) 0 2 = i % 65536)) ∧
  (∀ (n : Fin 16) (q : Fin 8) (p : W32) (c : Cmd) (base : Nat) (tr : Trans) (s : State), s.stands n q p 0x30 .started c = true →
    let a := c.f 8 2
    let x := s.dev.arr a
    c.f 0x10 8 % 0x100000 = 0 → s.dev.seatRange (.cmd (8 * n + q) p.toNat) n c.space (c.f 0x10 8) = (some (some base), { s.dev with trans := tr }) →
    inHbm base = true → (s.dev.bay n).held.hbm.has (granule base) = true → x.st = .unshadowed ∨ x.st = .seated ∨ x.st = .retired →
    s.dev.arrayBusy a = false → (s.dev.strict n = true → (s.dev.queue n q).job = none) → smGet 0 s.dev.nv.seats a < 10000 → s.dev.ridge.dir = [] →
    (∀ m ∈ s.mem, ¬(0x5E80000000 + base / 64 ≤ m.1 ∧ m.1 < 0x5E80000000 + base / 64 + 16384)) →
    let y := { x with
      st := .seating
      bay := n
      set := c.f 0x18 4
      shadow := base
      sparesUsed := 0
      evals := 0
      calDue := false
      calLatched := false
      pairs := []
      toTrim := []
      seatCmd := some (q.val, p) }
    let d : Dev := { s.dev with trans := tr, nv := { s.dev.nv with seats := smSet 0 s.dev.nv.seats a (smGet 0 s.dev.nv.seats a + 1) } }
    exec (.seat n q p) s = .next { s with dev := (d.setArr a y).running n q c }) ∧
  (∀ (n : Fin 16) (q : Fin 8) (p : W32) (c : Cmd) (s : State), s.stands n q p 0x31 .started c = true →
    let a := c.f 8 2
    let x := s.dev.arr a
    let k := c.f 0xA 2
    c.f 0x10 8 = 0 → x.st = .seated → (x.pair k).trimming = false → (s.dev.strict n = true → (s.dev.queue n q).job = none) →
    let y := x.setPair k { x.pair k with trimming := true, renewed := false, cmd := some (q.val, p) }
    exec (.trim n q p) s = .next { s with dev := (s.dev.setArr a y).running n q c }) ∧
  (∀ (n : Fin 16) (q : Fin 8) (p : W32) (c : Cmd) (x : List Byte) (tr : Trans) (s : State), s.stands n q p 0x12 .started c = true →
    s.dev.preparedFor n q p = none → c.f 0x10 1 = 1 → s.reads (.cmd (8 * n + q) p.toNat) n c.space (c.f 8 8) 32 x tr → x.length = 32 →
    stageForm 1 0 x none = none → tKind x = 2 → tRes x = 0xFFFF → tObj x < 256 →
    (s.dev.bay n).held.hasGutter (tObj x) = true → (s.dev.gutter (tObj x)).st = .idle →
    let a : Stage := { kind := 2, obj := tObj x, dva := tDva x, rate := tRate x }
    let g : Gutter := { st := .running, bay := n, q := q, p := p, space := c.space, desc := tDva x, stage := some 0, addr := (s.dev.gutter (tObj x)).addr }
    let d : Dev := { s.dev with
      trans := tr
      chains := s.dev.chains ++ [{ bay := n, q := q, p := p, space := c.space, stages := [a] }] }
    exec (.chain n q p) s = .next { s with dev := (d.setGutter (tObj x) g).running n q { c with snap := [] } }) ∧
  (∀ (n : Fin 16) (q : Fin 8) (p : W32) (c : Cmd) (x y : List Byte) (pg : List Nat) (tr tr1 : Trans) (s : State), s.stands n q p 0x12 .started c = true →
    s.dev.preparedFor n q p = none → c.f 0x10 1 = 2 → s.reads (.cmd (8 * n + q) p.toNat) n c.space (c.f 8 8) 64 (x ++ y) tr → x.length = 32 → y.length = 32 →
    stageForm 2 0 x none = none → stageForm 2 1 y (some x) = none → tKind x = 2 → tKind y = 2 → tRes x = 0xFFFF → tRes y = 0xFFFF →
    tObj x < 256 → tObj y < 256 → tObj x ≠ tObj y → 12 ≤ tLog x → tLog x ≤ 24 →
    (s.dev.bay n).held.hasGutter (tObj x) = true → (s.dev.bay n).held.hasGutter (tObj y) = true →
    (s.dev.gutter (tObj x)).st = .idle → (s.dev.gutter (tObj y)).st = .idle →
    ({ s.dev with trans := tr } : Dev).ringPages (.cmd (8 * n + q) p.toNat) n c.space (tRing x) (tLog x) true =
      (some (some pg), { s.dev with trans := tr1 }) →
    let loads := [(bankRes (pg.headD 0), 2 * tRate x)]
    ({ s.dev with trans := tr1 } : Dev).admits n loads = true →
    let a : Stage := { kind := 2, obj := tObj x, dva := tDva x, rate := tRate x, ring := some { pages := pg, log := tLog x } }
    let b : Stage := { kind := 2, obj := tObj y, dva := tDva y, rate := tRate y }
    let g (z : List Byte) (i : Nat) : Gutter :=
      { st := .running, bay := n, q := q, p := p, space := c.space, desc := tDva z, stage := some i, addr := (s.dev.gutter (tObj z)).addr }
    let d : Dev := { s.dev with
      trans := tr1
      chains := s.dev.chains ++ [{ bay := n, q := q, p := p, space := c.space, stages := [a, b], loads := loads }] }
    exec (.chain n q p) s = .next { s with dev := ((d.setGutter (tObj x) (g x 0)).setGutter (tObj y) (g y 1)).running n q { c with snap := [] } }) ∧
  (∀ (n : Fin 16) (q : Fin 8) (p : W32) (c : Cmd) (h : Chain) (a : Stage) (s : State), s.stands n q p 0x12 .started c = true →
    s.dev.preparedFor n q p = some h → h.stages = [a] → a.kind = 2 → a.res = 0xFFFF → (s.dev.gutter a.obj).st = .idle →
    let g : Gutter := { st := .running, bay := n, q := q, p := p, space := c.space, desc := a.dva, stage := some 0, addr := (s.dev.gutter a.obj).addr }
    let d : Dev := { s.dev with
      prepared := s.dev.prepared.filter fun x => !(x.bay == n.val && x.q == q.val && x.p == p)
      chains := s.dev.chains ++ [{ bay := n, q := q, p := p, space := c.space, stages := [a], loads := h.loads }] }
    exec (.chain n q p) s = .next { s with dev := (d.setGutter a.obj g).running n q { c with snap := [] } })

/-! ### Gutters, Courses and arbiters (R374 to R420) -/

/-- A Gutter channel fetches its descriptor and, where the checks pass, is ready to move; the last part of a descriptor without a CRC moves its bytes,
with the conversion of their elements, and the channel goes on to the next descriptor (R375 to R379, R385). In a breach of R378, where the spec
defines no result, the bytes that stand for those read are free values (log entry 2). -/
def Obligations.GutterMoves : Prop :=
  (∀ (c : Fin 256) (x : List Byte) (tr : Trans) (s : State), s.rests = true →
    let g := s.dev.gutter c
    let crc0 := if gMode x = 0 || gCont x then g.crc else 0
    let g' := { g with d := x, fetched := true, row := 0, off := 0, crc0 := crc0, crc := if gMode x = 0 then g.crc else crc0 }
    g.st = .running → g.fetched = false → g.desc % 64 = 0 → g.desc < 2 ^ 57 → s.reads (.gutter c) g.bay g.space g.desc 64 x tr →
    s.dev.gutterCheck c g' x = none →
    exec (.descriptorFetch c true) s = .next { s with dev := ({ s.dev with trans := tr } : Dev).setGutter c g' }) ∧
  (∀ (c : Fin 256) (sb : List Byte) (tr tr' : Trans) (st : List MemOp) (s : State), s.rests = true →
    let g := s.dev.gutter c
    let x := g.d
    let k := gDstLen x
    let i1 := cdiv (8 * k) (gWd x)
    (∀ r, (s.dev.arb r).proportional = false) →
    g.st = .running → g.fetched = true → g.stage = none → g.row = 0 → g.off = 0 → gRows x = 1 → 0 < k → k ≤ 64 - gDst x % 64 → gMode x = 0 →
    gSpar x = 0xFFFF → gNext x ≠ 0 → s.reads (.gutter c) g.bay g.space (gSrc x) (cdiv (i1 * gWs x) 8) sb tr →
    let s' : State := { s with dev := s.dev.drawn g.breach sb.length }
    s'.writesAfter tr (.gutter c) g.bay g.space (gDst x) (gutConvert x 0 k 0 i1 (s.dev.gutterSrc g sb)) false tr' st →
    let g' := { g with row := 1, off := 0, bytes := g.bytes + k, desc := gNext x, index := g.index + 1, fetched := false, crcMode := 0, hostWrote := false, sent := [], before := g.before ++ [x] }
    exec (.descriptorEnd c true) s = .next (s.commit (({ s'.dev with trans := tr', stores := st } : Dev).setGutter c g')))

/-- A Course takes a burst of its block list; a pass whose lines have all moved ends, and the next begins at once where a re-arm was latched, else waits
for one (R398, R410, R411). -/
def Obligations.CourseMoves : Prop :=
  (∀ (c : Fin 512) (bs : List Byte) (tr : Trans) (s : State), s.rests = true →
    let x := s.dev.course c
    let at_ := x.entry + x.entries.length
    x.st = .running → x.hdr ≠ [] → at_ < cCount x.hdr → x.entries.length ≤ 16 →
    s.reads (.course c) x.bay x.space (x.list + 64 + 32 * at_) (32 * min 64 (cCount x.hdr - at_)) bs tr → (entriesOf bs).findSome? entryBad = none →
    exec (.blockListBurstReturn c true) s =
      .next { s with dev := ({ s.dev with trans := tr } : Dev).setCourse c { x with entries := x.entries ++ entriesOf bs } }) ∧
  (∀ (c : Fin 512) (s : State), s.rests = true →
    let x := s.dev.course c
    x.st = .running → x.stage = none → x.hdr ≠ [] → x.admitted = true → cOut x.hdr = false → cCount x.hdr ≤ x.entry → cEnd x.hdr = 0xFFFF →
    x.pass < cPasses x.hdr → x.trigAt ≠ s.time →
    exec (.coursePassEnd c true) s = .next { s with dev := s.dev.setCourse c (
      if x.latched then { x with released := x.placed, latched := false, entry := 0, rep := 0, line := 0, entries := [], pass := x.pass + 1, trigs := 0 }
      else { x with released := x.placed, st := .rearmWait, trigs := 0 }) })

/-- Every arbiter's derated capacity is recomputed at a multiple of 1 µs, and proportional service ends 1 ms after the latest projected miss (R401,
R407, R419). -/
def Obligations.Arbiters : Prop :=
  (∀ (ppm : Nat) (s : State), s.rests = true → s.time % 1000 = 0 → ppm ≤ 955000 → s.dev.courses = [] →
    let d : Dev := { s.dev with board := { s.dev.board with eccRetryPpm := ppm } }
    ∃ t, exec (.derateRecompute ppm) s = .next t ∧ t.dev.board = d.board ∧ t.mem = s.mem ∧
      (∀ r, r < 59 → t.dev.arb r = { s.dev.arb r with derated := d.resDerate r }) ∧ ∀ r, 59 ≤ r → t.dev.arb r = s.dev.arb r) ∧
  (∀ (r : Fin 59) (s : State), s.rests = true → (s.dev.arb r).proportional = true → (s.dev.arb r).lastMiss + 1000000 ≤ s.time →
    (s.dev.courses.any fun c => s.dev.projectsMiss r c.2) = false →
    exec (.proportionalServiceEnd r) s = .next { s with dev := s.dev.setArb r { s.dev.arb r with proportional := false } })

/-! ### Engines (R436 to R439) -/

/-- An engine takes the operation that waits alone, and an operation that reads its source whole writes its result and completes its command. With free
order its sums are made in an order that free values choose (R460, log entry 2). -/
def Obligations.EngineOperations : Prop :=
  (∀ (g : Fin 42) (o : EngOp) (s : State), s.rests = true → (s.dev.engine g).queue = [o] → (s.dev.engine g).run = none → o.stage = none → o.bay < 16 →
    (s.dev.engine g).reserved = false → s.dev.digestAt g = none → s.dev.chainWants g = false →
    exec (.engineOpStart g) s = .next { s with dev := (s.dev.setEngine g { s.dev.engine g with queue := [], run := some { o with ord := s.dev.free }, lastBay := o.bay }).drawn (oFree o.d) (2 * oCount o.d) }) ∧
  (∀ (g : Fin 42) (o : EngOp) (c : Cmd) (bs : List Byte) (tr tr' : Trans) (st : List MemOp) (s : State),
    s.stands o.bay o.q o.p 0x21 .running c = true → c.flag 0 = false → (s.dev.engine g).run = some o → o.stage = none →
    oKind o.d ≠ 2 → oKind o.d ≠ 3 → oKind o.d ≠ 5 → oSpar o.d = 0xFFFF → s.reads (.engine g) o.bay o.space (oSrc o.d) (oSrcLen o.d) bs tr →
    s.writesAfter tr (.engine g) o.bay o.space (oDst o.d) (engResult o.sum o.d bs []) false tr' st →
    ∃ t, exec (.engineOpEnd g) s = .next t ∧ (t.dev.engine g) = { s.dev.engine g with run := none, ops := (s.dev.engine g).ops + 1 } ∧
      (t.dev.queue o.bay o.q) = (s.dev.served o.bay o.q).queue o.bay o.q ∧ t.mem = (s.commit { s.dev with stores := st }).mem)

/-! ### Rafter cores (R425 to R434, R442) -/

/-- Arithmetic and moves between memory and the core's local store: the result stands in the local store, or for STORE in memory, all else is as it was,
and the core goes on (R429, R461 to R467). With free order the binary32 sums are made in an order that free values choose (R431, R460, log entry 2).
The rings of a RUN stage: RING_TAKE takes lines of the input ring into the local store and frees their room, RING_PUT places lines of the local
store in the output ring (R442). -/
def Obligations.CoreDataAndRings : Prop :=
  (∀ (c : Fin 256) (r : RunRec) (x bs : List Byte) (tr : Trans) (s : State), s.atOp c r 1 x = true →
    s.reads (.core c) r.bay r.space (cB x) (cA x) bs tr →
    ∃ t, exec (.load c true) s = .next t ∧ t.dev = ({ s.dev with trans := tr } : Dev).stepped c ∧ s.wrote t (localBase c + cC x) bs) ∧
  (∀ (c : Fin 256) (r : RunRec) (x : List Byte) (tr : Trans) (st : List MemOp) (s : State), s.atOp c r 2 x = true →
    s.writesAfter s.dev.trans (.core c) r.bay r.space (cB x) (s.bytes (localBase c + cC x) (cA x)) false tr st →
    exec (.store c) s = .next (s.commit (({ s.dev with trans := tr, stores := st } : Dev).stepped c))) ∧
  (∀ (c : Fin 256) (r : RunRec) (x : List Byte) (s : State), s.atOp c r 3 x = true →
    let ls (off len : Nat) : List Byte := s.bytes (localBase c + off) len
    let out := unelems 4 (matvec (fun i => sumOf (cFree x) (s.dev.free + 2 * matCols x * i)) (matBf x) (cCnt x) (matCols x) (ls (cB x) (cCnt x * matCols x * matW x)) (ls (cC x) (matCols x * matW x))
      ((matBias x).map fun b => elems 4 (ls b (4 * cCnt x))))
    ∃ t, exec (.matvec c) s = .next t ∧ t.dev = (s.dev.drawn (cFree x) (2 * matCols x * cCnt x)).stepped c ∧ s.wrote t (localBase c + matOut x) out) ∧
  (∀ (c : Fin 256) (r : RunRec) (x : List Byte) (f : EltForm) (s : State), s.atOp c r 4 x = true → eltForm (cA x % 256) = some f →
    let ls (off : Nat) : List Nat := elems f.src (s.bytes (localBase c + off) (f.src * cCnt x))
    let out := unelems f.dst (eltwise (sumOf (cFree x) s.dev.free) (cA x % 256) (ls (cB x)) (if f.two then ls (cC x) else []))
    ∃ t, exec (.eltwise c) s = .next t ∧ t.dev = (s.dev.drawn (cFree x) (2 * cCnt x)).stepped c ∧ s.wrote t (localBase c + cD x) out) ∧
  (∀ (c : Fin 256) (r : RunRec) (x : List Byte) (s : State), s.atOp c r 5 x = true →
    let len := 16 + 16 * fld (s.bytes (localBase c + cC x) 4) 0 4
    let blk := s.bytes (localBase c + cC x) len
    let vs := (elems 4 (s.bytes (localBase c + cB x) (4 * cCnt x))).zipIdx.map fun v => requant (toInt 32 v.1) (rqEntry blk v.2)
    cC x + len ≤ 0x80000 → rqBad blk (cA x = 1) = none →
    ∃ t, exec (.requant c) s = .next t ∧ t.dev = s.dev.stepped c ∧ s.wrote t (localBase c + cD x) (packInt (cA x = 1) vs)) ∧
  (∀ (c : Fin 256) (r : RunRec) (x : List Byte) (h : Chain) (p : Stage) (g : Ring) (i : Nat) (s : State), s.atOp c r 6 x = true →
    r.stage = some (i + 1) → s.dev.chainOf r.bay r.q r.p = some h → h.stages[i]? = some p → p.ring = some g → p.outb = [] → s.dev.ringGate g = none →
    cB x ≤ g.fill →
    ∃ t, exec (.ringTake c) s = .next t ∧ (t.dev.chainOf r.bay r.q r.p).bind (·.inRing (i + 1)) = some { g with rel := g.rel + cB x } ∧
      t.dev.core c = (s.dev.stepped c).core c ∧ s.wrote t (localBase c + cC x) ((List.range (cB x)).map fun j => s.byte (g.lpa (g.rel + j)))) ∧
  (∀ (c : Fin 256) (r : RunRec) (x : List Byte) (h : Chain) (p : Stage) (g : Ring) (i : Nat) (s : State), s.atOp c r 7 x = true →
    r.stage = some i → s.dev.chainOf r.bay r.q r.p = some h → h.stages[i]? = some p → p.ring = some g → s.dev.ringGate g = none → cB x ≤ g.room →
    ∃ t, exec (.ringPut c) s = .next t ∧ ((t.dev.stageOf r.bay r.q r.p i).bind (·.ring)) = some { g with put := g.put + cB x } ∧
      t.dev.core c = (s.dev.stepped c).core c ∧ t.mem = (s.commit (s.dev.ringWrite g (s.bytes (localBase c + cC x) (cB x)))).mem)

/-- The control operations: the end of a program with its RUN, loops, branches, and the barrier at which the cores of a RUN meet (R429, R433, R434). -/
def Obligations.CoreControl : Prop :=
  (∀ (c : Fin 256) (r : RunRec) (x : List Byte) (k : Cmd) (s : State), s.atOp c r 0 x = true → r.cores = [c.val] → r.ended = [] → r.stage = none →
    s.stands r.bay r.q r.p 0x20 .running k = true → k.flag 0 = false → s.dev.od (0x2810 + r.bay) 5 + 1 < 2 ^ 32 → (∀ r' ∈ s.dev.runs, r'.id = r.id → r' = r) →
    ∃ t, exec (.halt c) s = .next t ∧ t.dev.core c = {} ∧ t.dev.runs = s.dev.runs.filter (·.id != r.id) ∧
      t.dev.od (0x2810 + r.bay) 5 = s.dev.od (0x2810 + r.bay) 5 + 1 ∧ (t.dev.queue r.bay r.q) = (s.dev.served r.bay r.q).queue r.bay r.q ∧ t.mem = s.mem) ∧
  (∀ (c : Fin 256) (r : RunRec) (x : List Byte) (s : State), s.atOp c r 0xA x = true →
    let core := s.dev.core c
    let left := match core.loops.find? fun l => l.1 == core.pc with | some l => l.2 | none => max 1 (cCnt x)
    exec (.loop c) s = .next { s with dev := s.dev.setCore c (
      if left ≤ 1 then { core with loops := smDel core.loops core.pc, pc := core.pc + 1, st := .running, atBarrier := false }
      else { core with loops := smIns core.pc (left - 1) (smDel core.loops core.pc), pc := core.pc - cA x }) }) ∧
  (∀ (c : Fin 256) (r : RunRec) (x : List Byte) (s : State), s.atOp c r 0xB x = true →
    let v := leNat (s.bytes (localBase c + cB x) 4)
    let taken := match cA x with | 0 => v == cC x | 1 => v != cC x | 2 => Nat.blt v (cC x) | _ => decide (cC x ≤ v)
    exec (.branch c) s = .next { s with dev := s.dev.setCore c { s.dev.core c with
      st := .running, pc := (s.dev.core c).pc + 1 + (if taken then cD x else 0), atBarrier := false } }) ∧
  (∀ (c : Fin 256) (r : RunRec) (x : List Byte) (s : State), s.atOp c r 0xC x = true →
    (r.cores = [c.val] → exec (.barrier c) s = .next { s with dev := s.dev.stepped c }) ∧
    (∀ k ∈ r.cores, k ≠ c.val → (s.dev.core k).run = some r.id → (s.dev.core k).atBarrier = false →
      exec (.barrier c) s = .next { s with dev := s.dev.setCore c { s.dev.core c with st := .waiting, atBarrier := true } }))

/-- Spar and Hatch operations of a core on objects its Bay holds, on Spars that are neither armed nor mirrored and while no Course could re-arm on them;
a core that waits goes on when its condition holds (R194, R321, R325, R429, R433). -/
def Obligations.CoreSparsAndHatch : Prop :=
  (∀ (c : Fin 256) (r : RunRec) (x : List Byte) (s : State), s.atOp c r 8 x = true → (s.dev.bay r.bay).held.spar.has (cB x) = true →
    let k := cB x
    let y := s.dev.spar k
    let v := BitVec.ofNat 64 (cC x)
    (cA x = 0 → y.armed = false → y.mirror = false →
      exec (.sparSet c) s = .next { s with dev := (s.dev.setSpar k { y with value := v }).stepped c }) ∧
    (cA x = 1 → y.armed = false → y.mirror = false → s.dev.courses = [] →
      exec (.sparAdd c) s = .next { s with dev := (s.dev.setSpar k { y with value := y.value + v }).stepped c }) ∧
    (cA x = 2 → exec (.sparWait c) s = .next { s with dev := if cC x ≤ y.value.toNat then s.dev.stepped c else s.dev.coreWait c }) ∧
    (cA x = 3 → s.dev.strict r.bay = false → y.armed = false → y.mirror = false →
      ∃ t, exec (.sparFetchadd c) s = .next t ∧ t.dev = (s.dev.setSpar k { y with value := y.value + v }).stepped c ∧
        s.wrote t (localBase c + cD x) (leBytes 8 y.value.toNat))) ∧
  (∀ (c : Fin 256) (r : RunRec) (x : List Byte) (s : State), s.atOp c r 9 x = true →
    let n := r.bay
    let g := s.dev.page n
    let i := cB x
    (cA x = 0 → ¬(s.dev.strict n = true ∧ s.dev.inJob n = true) → smGet .empty g.inSt i = .full →
      ∃ t, exec (.hatchTake c) s = .next t ∧ t.dev = (s.dev.setPage n { g with inSt := smSet .empty g.inSt i .taken }).stepped c ∧
        s.wrote t (localBase c + cC x) (s.bytes (slotAddr n i) 64)) ∧
    (cA x = 1 → smGet .empty g.inSt i = .taken →
      exec (.hatchRelease c) s = .next { s with dev := (s.dev.setPage n { g with inSt := smSet .empty g.inSt i .empty }).stepped c }) ∧
    (cA x = 2 → g.outFull.contains i = false → s.dev.bayEvt n = false →
      ∃ t, exec (.hatchFill c) s = .next t ∧ t.dev.page n = { g with outFull := listIns i g.outFull } ∧ t.dev.core c = (s.dev.stepped c).core c ∧
        s.wrote t (slotAddr n (16 + i)) (slotLine s.dev.free (s.bytes (localBase c + cC x) 64)))) ∧
  (∀ (c : Fin 256) (r : RunRec) (x : List Byte) (s : State), s.rests = true → s.poison = [] → s.dev.runOf c = some r → (s.dev.core c).st = .waiting →
    (s.dev.core c).atBarrier = false → s.bytes (localBase c + 32 * (s.dev.core c).pc) 32 = x → cOp x = 8 → cA x = 2 → cFlags x = 0 →
    (s.dev.bay r.bay).held.spar.has (cB x) = true → cC x ≤ (s.dev.spar (cB x)).value.toNat →
    exec (.coreWaitSatisfied c) s = .next { s with dev := s.dev.stepped c })

/-! ### Thatch arrays (R482 to R510) -/

/-- A seat that finds its shadow whole and no weak pair seats the array with the digest of its shadow; a trim whose fit holds is in force. Their
commands complete (R492 to R497). Calibration: its triggers, its start with the thresholds computed since the last run, its end with the fits in
force (R15, R497 to R499, R634). -/
def Obligations.ThatchSeatsAndCalibration : Prop :=
  (∀ (a : Fin 256) (m : SeatMeas) (q : Nat) (p : W32) (c : Cmd) (s : State),
    let x := s.dev.arr a
    x.st = .seating → x.seatCmd = some (q, p) → s.stands x.bay q p 0x30 .running c = true → c.flag 0 = false → s.poison = [] →
    m.shadowError = false → m.weak = [] → s.dev.shadowBusy a = false →
    ∃ t, exec (.seatEnd a m) s = .next t ∧ (t.dev.arr a).st = .seated ∧ (t.dev.arr a).digest = sha384 (s.bytes x.shadow 0x100000) ∧
      (t.dev.arr a).calRuns = x.calRuns + 1 ∧ (t.dev.arr a).calLast = s.time ∧ (t.dev.arr a).sinceCal = 0 ∧ (t.dev.arr a).set = x.set ∧
      (t.dev.queue x.bay q) = (s.dev.served x.bay q).queue x.bay q ∧ t.mem = s.mem) ∧
  (∀ (a : Fin 256) (k : Fin 1152) (f : PairFit) (ok : Bool) (q : Nat) (p : W32) (c : Cmd) (s : State),
    let x := s.dev.arr a
    let y := x.pair k
    y.trimming = true → y.cmd = some (q, p) → y.renewed = false → s.stands x.bay q p 0x31 .running c = true → c.flag 0 = false → f.residual ≤ 24 →
    y.spare = none ∨ ok = true → x.toTrim = [] → s.dev.shadowBusy a = false →
    ∃ t, exec (.trimEnd a k f ok) s = .next t ∧ (t.dev.arr a).pair k =
        { y with gHi := f.gHi, oHi := f.oHi, gLo := f.gLo, oLo := f.oLo, residual := f.residual, trimming := false, renewed := false, cmd := none } ∧
      (∀ i, i ≠ k.val → (t.dev.arr a).pair i = x.pair i) ∧ (t.dev.arr a).trims = x.trims + 1 ∧ (t.dev.arr a).digest = x.digest ∧
      (t.dev.queue x.bay q) = (s.dev.served x.bay q).queue x.bay q ∧ t.mem = s.mem) ∧
  (∀ (a : Fin 256) (s : State), s.rests = true → (s.dev.arr a).st = .seated → (s.dev.arr a).calDue = true →
    let x := s.dev.arr a
    exec (.calibrationStart a) s = .next { s with dev := s.dev.setArr a { x with
      st := .calibrating
      calDue := false
      thresholds := x.newThresholds.foldl (fun m c => smSet 0 m c.1 c.2) x.thresholds
      newThresholds := [] } }) ∧
  (∀ (a : Fin 256) (fits : List PairFit) (s : State), s.rests = true → (s.dev.arr a).st = .calibrating →
    let x := s.dev.arr a
    ∃ t, exec (.calibrationEnd a fits) s = .next t ∧ (t.dev.arr a).st = .seated ∧ (t.dev.arr a).calRuns = x.calRuns + 1 ∧
      (t.dev.arr a).calLast = s.time ∧ (t.dev.arr a).calTemp = smGet 0 s.dev.board.islandTemp (296 + a.val / 32) ∧ (t.dev.arr a).sinceCal = 0 ∧
      (t.dev.arr a).calDue = (x.calDue || x.calLatched) ∧ (t.dev.arr a).calLatched = false ∧ (∀ i, i ≠ a.val → t.dev.arr i = s.dev.arr i) ∧ t.mem = s.mem) ∧
  (∀ (a : Fin 256) (s : State), s.rests = true → (s.dev.arr a).st = .seated → (s.dev.arr a).calTimed = false →
    (s.dev.arr a).calLast + 7200000000000 ≤ s.time → (s.dev.arr a).calDue = false →
    exec (.calTimeTrigger a) s = .next { s with dev := s.dev.setArr a { s.dev.arr a with calTimed := true, calDue := true } }) ∧
  (∀ (b : Fin 8) (temp : Int) (s : State), s.rests = true → s.time % 1000000 = 0 →
    ∃ t, exec (.calTemperatureSample b temp) s = .next t ∧
      t.dev.board = { s.dev.board with islandTemp := smSet 0 s.dev.board.islandTemp (296 + b.val) temp } ∧ t.mem = s.mem ∧
      ∀ a, t.dev.arr a = if a / 32 = b.val ∧ 64 < (temp - (s.dev.arr a).calTemp).natAbs then (s.dev.arr a).trigger else s.dev.arr a)

/-- One evaluation of a THATCH stage: the next vector of its input ring, a record for every output, in the output ring where it has room, and the
arrays' counts (R485 to R488, R511). CERTIFY tests the next record of a requantise stage: a certified output is resolved, any other queues a flash
task; the last record of a vector, an audit's sample and a line that becomes whole are left to the stage's other rules (R511, R514 to R516). -/
def Obligations.ThatchEvaluationAndTests : Prop :=
  (∀ (n : Fin 16) (q : Fin 8) (p : W32) (i : Fin 8) (j : Nat) (h : Chain) (s0 s1 : Stage) (r ro : Ring) (reads : List AdcRead) (rs : List (List Byte)) (s : State),
    s.rests = true → s.poison = [] → i.val = j + 1 → s.dev.chainOf n q p = some h → h.stages[j]? = some s0 → h.stages[i.val]? = some s1 →
    s0.ring = some r → s0.outb = [] → s1.kind = 4 → s1.ended = false → s1.outb = [] → s1.ring = some ro → s.dev.ringGate r = none →
    s.dev.ringGate ro = none → (s1.vec + 1) * pad64 (lK s1.desc) ≤ r.put → (∀ k, k < s1.count → (s.dev.arr (s1.obj + k)).st ≠ .calibrating) →
    let xs := (List.range (lK s1.desc)).map fun k => s.byte (r.lpa (s1.vec * pad64 (lK s1.desc) + k))
    ((List.range (lN s1.desc)).mapM fun o => s.dev.thatchRecord s1 xs reads o (Config.freeValue (s.dev.free + o) % 2 ^ 32)) = some rs →
    (padLine rs.flatten).length ≤ ro.room →
    ∃ t, exec (.thatchEvaluation n q p i reads) s = .next t ∧ t.dev.free = s.dev.free + lN s1.desc ∧
      t.dev.stageOf n q p i = some { s1 with vec := s1.vec + 1, ring := some { ro with put := ro.put + (padLine rs.flatten).length }, full := false } ∧
      (∀ k, k < s1.count → (t.dev.arr (s1.obj + k)).evals = (s.dev.arr (s1.obj + k)).evals + 1) ∧
      t.mem = (s.commit (s.dev.ringWrite ro (padLine rs.flatten))).mem) ∧
  (∀ (n : Fin 16) (q : Fin 8) (p : W32) (i : Fin 8) (j : Nat) (h : Chain) (s0 s1 : Stage) (s : State),
    s.rests = true → i.val = j + 1 → s.dev.chainOf n q p = some h → h.stages[j]? = some s0 → h.stages[i.val]? = some s1 → s0.outb = [] →
    s1.kind = 3 → s1.ekind = 5 → oFn s1.desc = 2 → s1.ended = false → s1.outb = [] → 8 ≤ s1.inb.length → s1.idx + 1 < lN s0.desc →
    s.dev.od (0x2730 + n) 1 = 0 → (∀ k, k < 6 → s.dev.od (0x2730 + n) k + 1 < 2 ^ 32) →
    let v := certTest (toInt 32 (fld s1.inb 0 4)) (fld s1.inb 4 2) (bit (fld s1.inb 6 2) 0) (rqEntry s1.aux s1.idx)
    let s2 := { s1 with inb := s1.inb.drop 8, idx := s1.idx + 1 }
    let s3 := match v with
      | .certified b => { s2 with outs := smIns (s1.vec * pad64 (lN s0.desc) + s1.idx) (BitVec.ofNat 8 (ofInt 8 b)) s1.outs }
      | _ => s2
    certLine s3 (lN s0.desc) = none →
    ∃ t, exec (.certify n q p i) s = .next t ∧ (t.dev.stageOf n q p i).map (fun x => { x with short := s3.short, full := s3.full }) = some s3 ∧
      t.dev.od (0x2730 + n) (verdictCount v) = s.dev.od (0x2730 + n) (verdictCount v) + 1 ∧
      t.dev.tasks = match v with
        | .certified _ => s.dev.tasks
        | _ => s.dev.tasks ++ [{ bay := n, q := q, p := p, stage := i, vec := s1.vec, out := s1.idx }])

/-! ### Certified requantisation (R511 to R519) -/

/-- R511, R514: an output that is certified is the requantisation of every exact sum within its bound: the clamp of a rounded product does not fall back
as its input rises. -/
def Obligations.CertifiedIsExact : Prop :=
  ∀ (e y v : Int) (b : Nat) (flash : Bool) (k : Rq), certTest e b flash k = .certified v → e - b ≤ y → y ≤ e + b → requant y k = v

/-- R466: requantisation does not fall as its input rises, under an entry whose multiplier is positive. -/
def Obligations.RequantMonotone : Prop :=
  ∀ (x1 x2 : Int) (k : Rq), 0 < k.m → x1 ≤ x2 → requant x1 k ≤ requant x2 k

/-- A flash task or an audit ends with the exact sum, by which its output is resolved (R516 to R519). The line of the output is not yet whole. -/
def Obligations.FlashTasks : Prop :=
  ∀ (n : Fin 16) (audit : Bool) (k : Task) (h : Chain) (s0 s1 : Stage) (x : Nat) (s : State),
    s.rests = true → s.dev.nextTask n audit = some k → s.dev.chainOf n k.q k.p = some h → 0 < k.stage → h.stages[k.stage - 1]? = some s0 →
    h.stages[k.stage]? = some s1 → s.dev.flashSum s.env n k.q k.p k.stage k.vec k.out = some x → s1.idx ≠ 0 →
    (audit = true → k.est - k.bound ≤ toInt 32 x ∧ toInt 32 x ≤ k.est + k.bound) →
    s.dev.od (0x2810 + n) 4 + 1 < 2 ^ 64 → s.dev.od 0x2800 6 + 1 < 2 ^ 64 → s.dev.od (0x2730 + n) 6 + 1 < 2 ^ 64 →
    let s2 := { s1 with outs := smIns (k.vec * pad64 (lN s0.desc) + k.out) (BitVec.ofNat 8 (ofInt 8 (requant (toInt 32 x) (rqEntry s1.aux k.out)))) s1.outs }
    certLine s2 (lN s0.desc) = none →
    ∃ t, exec (if audit then .auditEnd n else .flashTaskEnd n false) s = .next t ∧ t.dev.tasks = s.dev.tasks.erase k ∧
      t.dev.stageOf n k.q k.p k.stage = some s2 ∧ t.dev.od (0x2810 + n) 4 = s.dev.od (0x2810 + n) 4 + 1 ∧
      t.dev.od 0x2800 6 = s.dev.od 0x2800 6 + 1 ∧ t.dev.od (0x2730 + n) 6 = s.dev.od (0x2730 + n) 6 + (if audit then 1 else 0)

/-! ### The journal's job and the sink (R528 to R543, R606) -/

/-- A digest of a job ends with the SHA-384 of its region and a record; the signature of a job whose digests have ended emits its signed record. The
oldest record held is written where the ring has room before its end, and the write position moves on (R540). The sink keeps no head and names no
Spar. -/
def Obligations.JobRecordsAndSinks : Prop :=
  (∀ (n : Fin 16) (i : Fin 64) (out : Bool) (r : JobRegion) (bs : List Byte) (tr : Trans) (s : State), s.rests = true →
    let j := s.dev.jour n
    j.st = .open_ → (if out then j.outputs else j.inputs)[i.val]? = some r → r.digest = none → r.slot = none → r.spar = 0xFFFF →
    (out = true → j.closing.isSome = true) → s.dev.trans.halts = [] → s.dev.roomFor n 168 = true →
    r.eng.isSome = true → (∃ g ∈ [28, 29, 30, 31], s.dev.digestAt g = some (n.val, if out then 64 + i.val else i.val)) → s.firstRec = true →
    s.reads (.job n (if out then 64 + i else i)) n (if out then j.outSpace else j.space) r.dva r.len bs tr →
    ∃ t, exec (if out then .outputDigestEnd n i else .inputDigestEnd n i) s = .next t ∧
      ((if out then (t.dev.jour n).outputs else (t.dev.jour n).inputs)[i.val]?).map (·.digest) = some (some (sha384 bs)) ∧
      t.dev.jseq = s.dev.jseq + 1 ∧ (t.dev.jour n).heldRecs.length = j.heldRecs.length + 1 ∧ (t.dev.jour n).st = .open_ ∧ t.mem = s.mem) ∧
  (∀ (n : Fin 16) (s : State), s.rests = true → (s.dev.jour n).digested = true → s.dev.roomFor n 536 = true →
    s.firstRec = true →
    ∃ t, exec (.signatureEnd n true) s = .next t ∧ (t.dev.jour n).st = .signed ∧ t.dev.jseq = s.dev.jseq + 1 ∧
      (t.dev.jour n).closeSeq = some (s.dev.jseq + 1) ∧ (t.dev.jour n).heldRecs.length = (s.dev.jour n).heldRecs.length + 1 ∧ t.mem = s.mem) ∧
  (∀ (n : Fin 16) (seq : Nat) (r : List Byte) (rest : List (Nat × List Byte)) (tr : Trans) (st : List MemOp) (s : State), s.rests = true →
    let j := s.dev.jour n
    let sz := s.dev.sinkSize n
    j.heldRecs = (seq, r) :: rest → s.dev.sinkValid n = true → j.faulted = false → r ≠ [] → r.length ≤ sz - j.w % sz →
    j.w + r.length ≤ sz + s.dev.od (0x2C10 + n) 4 → s.dev.od (0x2C10 + n) 3 = 0 → s.dev.od (0x2C10 + n) 9 = 0xFFFF → j.closeSeq ≠ some seq →
    s.writesAfter s.dev.trans (.sink n) n 0 (s.dev.od (0x2C10 + n) 1 + j.w % sz) r true tr st →
    exec (.sinkRecordWrite n) s =
      .next (s.commit (({ s.dev with trans := tr, stores := st, jtick := if s.dev.jtick.seq0 < seq then {} else s.dev.jtick } : Dev).setJour n
        { j with heldRecs := rest, w := j.w + r.length })))

/-! ### Purlin ports: states, neighbours and the link layer (R554 to R560, R583 to R586) -/

/-- A port that locks, loses its link, sends and hears HELLO, or hears none for 1 ms (R554 to R556). The link layer: a LACK acknowledges and gives
credits, an LNAK and the retransmission timeout send again what is not acknowledged, a LACK is sent every 1 µs while one is owed (R559, R560). -/
def Obligations.PortsAndLinkLayer : Prop :=
  (∀ (p : Fin 12) (s : State), s.rests = true → (s.dev.port p).st = .training → (s.dev.port p).nbValid = false →
    exec (.portLock p) s = .next { s with dev := s.dev.setPort p { s.dev.port p with st := if (s.dev.port p).mode = 0 then .linked else .inService } }) ∧
  (∀ (p : Fin 12) (s : State), s.rests = true → (s.dev.port p).st.linkUp = true → (s.dev.port p).queued = [] →
    ∃ t, exec (.portLinkLoss p) s = .next t ∧ t.mem = s.mem ∧ (∀ k, k ≠ p.val → t.dev.port k = s.dev.port k) ∧
      t.dev.port p = if s.dev.portMay p then
          { (s.dev.port p).fresh with st := .training, mode := s.dev.od (0x2A20 + p) 2, ethertype := s.dev.od 0x2A00 4 }
        else { (s.dev.port p).fresh with st := .off }) ∧
  (∀ (p : Fin 12) (s : State), s.rests = true → (s.dev.port p).st.linkUp = true → (s.dev.port p).mode = 0 →
    (s.dev.port p).lastHelloSent + 100000 ≤ s.time →
    let v := s.dev.fabId + 4096 * b2n s.dev.fabric.id.isSome + 65536 * p.val
    ∃ t, exec (.helloSend p) s = .next t ∧ t.dev.port p = { s.dev.port p with lastHelloSent := s.time } ∧ t.mem = s.mem ∧
      t.dev.out = s.dev.out ++ [.frame p { ty := 0x38, vc := 7, linkLocal := true, src := s.dev.fabId, payload := leBytes 4 v, len := 4 }]) ∧
  (∀ (p : Fin 12) (id : BitVec 12) (assigned : Bool) (port : Fin 16) (own : Nat) (s : State), s.rests = true → (s.dev.port p).st.linkUp = true →
    (s.dev.port p).mode = 0 → s.dev.fabric.id = some own → own ≠ id.toNat →
    ∃ t, exec (.hello p id assigned port) s = .next t ∧ t.mem = s.mem ∧ t.dev.port p = { s.dev.port p with
      st := if (s.dev.port p).st = .linked && assigned then .inService else (s.dev.port p).st
      nbId := id.toNat
      nbPort := port
      nbValid := true
      nbAssigned := assigned
      lastHello := s.time }) ∧
  (∀ (p : Fin 12) (s : State), s.rests = true → (s.dev.port p).st = .inService → (s.dev.port p).mode = 0 → (s.dev.port p).queued = [] →
    (s.dev.port p).lastHello + 1000000 ≤ s.time →
    ∃ t, exec (.helloTimeout p) s = .next t ∧ t.dev.port p = { s.dev.port p with st := .linked } ∧ t.mem = s.mem) ∧
  (∀ (p : Fin 12) (f : Frame) (s : State), s.rests = true → f.ty = 0x39 → (s.dev.port p).st.linkUp = true → (s.dev.port p).mode = 0 →
    (s.dev.port p).queued = [] →
    ∃ t, exec (.lack p f) s = .next t ∧
      (t.dev.port p).unacked = ((s.dev.port p).unacked.filter fun u => !((BitVec.ofNat 16 f.addr - u.1).toNat < 0x8000)) ∧
      (∀ v, v < 7 → (t.dev.port p).credit v = min 512 ((s.dev.port p).credit v + (fld f.payload (2 * v) 2 : Int))) ∧ t.dev.out = s.dev.out ∧ t.mem = s.mem) ∧
  (∀ (p : Fin 12) (f : Frame) (s : State), s.rests = true → f.ty = 0x3A → (s.dev.port p).st.linkUp = true → (s.dev.port p).mode = 0 →
    (s.dev.port p).retries < 31 →
    let fs := (s.dev.port p).unacked.filter fun u => (u.1 - BitVec.ofNat 16 f.addr).toNat < 0x8000
    fs ≠ [] → ∃ t, exec (.lnak p f) s = .next t ∧ t.dev.out = s.dev.out ++ fs.map (fun u => .frame p u.2) ∧
      (t.dev.port p).unacked = (s.dev.port p).unacked ∧ (t.dev.port p).retries = (s.dev.port p).retries + 1 ∧ t.mem = s.mem) ∧
  (∀ (p : Fin 12) (u : W16 × Frame) (rest : List (W16 × Frame)) (s : State), s.rests = true → (s.dev.port p).st.linkUp = true →
    (s.dev.port p).unacked = u :: rest → (s.dev.port p).lastSend + 20000 ≤ s.time → (s.dev.port p).retries < 31 →
    ∃ t, exec (.retransmitTimeout p) s = .next t ∧
      t.dev.out = s.dev.out ++ ((u :: rest).filter fun w => (w.1 - u.1).toNat < 0x8000).map (fun w => .frame p w.2) ∧
      (t.dev.port p).unacked = (s.dev.port p).unacked ∧ (t.dev.port p).retries = (s.dev.port p).retries + 1 ∧ (t.dev.port p).lastSend = s.time ∧ t.mem = s.mem) ∧
  (∀ (p : Fin 12) (s : State), s.rests = true → (s.dev.port p).st.linkUp = true → (s.dev.port p).owesLack = true → (s.dev.port p).lastLack + 1000 ≤ s.time →
    let back := ((List.range 7).map fun v => leBytes 2 (512 - smGet 512 (s.dev.port p).rxRoom v).toNat).flatten
    let f : Frame := { ty := 0x39, src := s.dev.fabId, addr := ((s.dev.port p).rxSeq - 1).toNat, payload := back }
    ∃ t, exec (.lackSend p) s = .next t ∧ t.dev.out = s.dev.out ++ [.frame p { f with vc := 7, linkLocal := true, len := 14 }] ∧
      t.dev.port p = { s.dev.port p with rxRoom := [], lastLack := s.time, lackFrame := some f, owesLack := false } ∧ t.mem = s.mem)

/-- A violation on a Purlin port is counted with its kind and source and recorded; the one that brings the count of its window of 1 ms to 64 takes a
port in service to QUARANTINED, its link up (R583, R584). VIOL, and a CTL_RSP, for which this device has nothing outstanding, are consumed. A sound
frame that arrives while this device has no ID is dropped and counted in no_route, unless it is link-local or directed (R589). -/
def Obligations.FabricViolations : Prop :=
  (∀ (p : Fin 12) (kind : Fin 10) (f : Frame) (s : State), s.rests = true → (s.dev.port p).st = .linked ∨ (s.dev.port p).st = .inService →
    (s.dev.port p).mode = 0 → kind.val ≠ 0 → kind.val ≠ 9 → BitVec.ofNat 16 f.seq = (s.dev.port p).rxSeq → f.src < 4096 →
    s.dev.od (0x2A20 + p) 6 + 1 < 2 ^ 32 → s.dev.od (0x2A20 + p) 8 + 1 < 2 ^ 32 →
    let n := if (s.dev.port p).window = s.time / 1000000 then (s.dev.port p).windowCount + 1 else 1
    ∃ t, exec (.fabricViolation p kind f) s = .next t ∧ t.dev.od (0x2A20 + p) 6 = s.dev.od (0x2A20 + p) 6 + 1 ∧
      t.dev.od (0x2A20 + p) 7 = kind.val + 256 * f.src ∧ t.dev.link.violSeq = s.dev.link.violSeq + 1 ∧
      (t.dev.link.viol.head?).map (·.kind) = some (0x10 + kind.val) ∧ t.mem = s.mem ∧
      (t.dev.port p).window = s.time / 1000000 ∧ (t.dev.port p).windowCount = n ∧ (t.dev.port p).st.linkUp = true ∧
      (t.dev.port p).st = (if n = 64 ∧ (s.dev.port p).st = .inService then .quarantined else (s.dev.port p).st) ∧
      t.dev.od (0x2A20 + p) 8 = s.dev.od (0x2A20 + p) 8 + (if n = 64 ∧ (s.dev.port p).st = .inService then 1 else 0)) ∧
  (∀ (p : Fin 12) (f : Frame) (s : State), s.frameHere p f = true → f.ty = 0x34 →
    exec (.viol p f) s = .next { s with dev := s.dev.tookFrame p f }) ∧
  (∀ (p : Fin 12) (f : Frame) (s : State), s.frameHere p f = true → f.ty = 0x2B → s.dev.od (0x2A20 + p) 6 + 1 < 2 ^ 32 →
    ∃ t, exec (.ctlRsp p f) s = .next t ∧ t.dev.od (0x2A20 + p) 6 = s.dev.od (0x2A20 + p) 6 + 1 ∧ t.dev.od (0x2A20 + p) 7 = 6 + 256 * f.src ∧
      t.dev.link.violSeq = s.dev.link.violSeq + 1 ∧ t.mem = s.mem) ∧
  (∀ (c : Instr) (p : Fin 12) (f : Frame) (s : State), frameRow c = some (p, f) → s.rests = true → (s.dev.port p).st = .linked ∨ (s.dev.port p).st = .inService →
    (s.dev.port p).mode = 0 → f.vc ≠ 7 → BitVec.ofNat 16 f.seq = (s.dev.port p).rxSeq → (frameCost f : Int) ≤ smGet 512 (s.dev.port p).rxRoom f.vc →
    frameBad f = false → s.dev.fabric.id = none → f.directed = false → f.linkLocal = false →
    exec c s = .next { s with dev := (s.dev.tookFrame p f).count 0x2A00 9 1 })

/-! ### Frames for this device (R335, R557, R562, R565, R569 to R576, R599) -/

/-- Requests of other devices: a PUT is accepted into its region, a GET is performed and answered, a remote ADD is made, the control aperture is read
and written, and a heartbeat is noted and answered. IDs, forwarding, and the lost owner link: the first ASSIGN from an accepted manager gives the
device its ID; a frame for another device goes on with one hop less; an owner that sends no heartbeat in time is lost (R557, R562, R565, R576). -/
def Obligations.FabricRequestsAndIdentity : Prop :=
  (∀ (p : Fin 12) (f : Frame) (n r : Nat) (s : State), s.frameHere p f = true → f.ty = 0x20 → s.dev.regionOf (f.addr % 2 ^ 48) = some (n, r) →
    let off := f.addr % 2 ^ 48 - (s.dev.region n r).base
    s.dev.placeBad n r fabPut (f.key == bits (s.dev.region n r).ctl 47 32) off f.payload.length true = none →
    let rsp : Frame := { ty := 0x28, vc := 5, dst := f.src, tn := f.tn, src := s.dev.fabId }
    let pl : Place := { id := 0, bay := n, slot := r, lpa := 0, data := [], isl := 332 + p, count := f.payload.length, reply := some rsp }
    exec (.put p f) s = .next { s with dev := (s.dev.tookFrame p f).placeWrite n r off f.payload pl }) ∧
  (∀ (p : Fin 12) (f : Frame) (n r p' : Nat) (s : State), s.frameHere p f = true → f.ty = 0x21 → s.dev.regionOf (f.addr % 2 ^ 48) = some (n, r) →
    let a := f.addr % 2 ^ 48
    let len := leNat f.payload
    s.dev.placeBad n r fabGet (f.key == bits (s.dev.region n r).ctl 47 32) (a - (s.dev.region n r).base) len false = none →
    s.homeFree (a / 64) = true → a % 64 + len ≤ 64 → s.poison.contains (a / 64) = false → s.route f.src p' 5 len = true →
    ∃ t, exec (.get p f) s = .next t ∧ s.sent t p' (s.response f 0x29 5 0 (s.bytes a len)) ∧ t.dev.places = [] ∧ t.mem = s.mem) ∧
  (∀ (p : Fin 12) (f : Frame) (n p' : Nat) (s : State), s.frameHere p f = true → f.ty = 0x22 → f.addr < 4096 → s.dev.sparBay f.addr = some n →
    let x := s.dev.spar f.addr
    x.remote = true → x.key.toNat = f.key → (s.dev.bay n).st.live = true → x.armed = false → x.mirror = false → s.dev.courses = [] →
    s.route f.src p' 5 0 = true →
    ∃ t, exec (.purlinSignal p f) s = .next t ∧ t.dev.spar f.addr = { x with value := x.value + BitVec.ofNat 64 (leNat f.payload) } ∧
      (∀ k, k ≠ f.addr → t.dev.spar k = s.dev.spar k) ∧ s.sent t p' (s.response f 0x2A 5 0 []) ∧ t.mem = s.mem) ∧
  (∀ (p : Fin 12) (f : Frame) (fn off p' : Nat) (rt : Route) (bs : List Byte) (s : State), s.frameHere p f = true → f.ty = 0x23 →
    s.dev.ctlAt f = .page fn off rt →
    let d := s.dev.tookFrame p f
    d.pageRead s.env (17 + 32 * f.src + fn) fn off (leNat f.payload) = (some bs, d) → s.route f.src p' 5 bs.length = true →
    ∃ t, exec (.ctlRd p f) s = .next t ∧ s.sent t p' (s.response f 0x2B 5 0 bs) ∧ t.mem = s.mem) ∧
  (∀ (p : Fin 12) (f : Frame) (fn p' : Nat) (rt : Route) (s : State), s.frameHere p f = true → f.ty = 0x24 → f.payload.length = 4 → fn ≠ 0 →
    s.dev.ctlAt f = .page fn 0x140 rt → s.route f.src p' 5 0 = true →
    ∃ t, exec (.ctlWr p f) s = .next t ∧ t.dev.page (fn - 1) = { s.dev.page (fn - 1) with fenceDone := BitVec.ofNat 32 (leNat f.payload) } ∧
      s.sent t p' (s.response f 0x2B 5 0 []) ∧ t.mem = s.mem) ∧
  (∀ (p : Fin 12) (f : Frame) (n : Fin 16) (p' : Nat) (s : State), s.frameHere p f = true → f.ty = 0x30 → f.aux = 2 ^ n.val → s.dev.beats n = true →
    s.dev.od (0x2A40 + n) 1 = f.src → s.time < s.dev.hbEnd n → s.route f.src p' 6 8 = true →
    ∃ t, exec (.hb p f) s = .next t ∧ t.dev.od (0x2A40 + n) 3 = s.time ∧
      s.sent t p' { s.response f 0x31 6 0 (leBytes 8 s.time) with aux := 2 ^ n.val } ∧ t.mem = s.mem) ∧
  (∀ (p : Fin 12) (f : Frame) (s : State), s.rests = true → f.ty = 0x33 → (s.dev.port p).st = .linked → (s.dev.port p).mode = 0 → f.linkLocal = true →
    f.directed = false → frameBad f = false → BitVec.ofNat 16 f.seq = (s.dev.port p).rxSeq → (frameCost f : Int) ≤ smGet 512 (s.dev.port p).rxRoom f.vc →
    s.dev.islAnswer (332 + p) = none → s.dev.fabric.id = none → s.dev.fabric.fmId = 0xFFFF ∨ f.src = s.dev.fabric.fmId →
    ∃ t, exec (.assign p f) s = .next t ∧ t.dev.fabric.id = some (leNat f.payload) ∧ t.dev.fabric.fm = f.src ∧ t.mem = s.mem) ∧
  (∀ (p : Fin 12) (f : Frame) (own p' : Nat) (s : State), s.rests = true → (s.dev.port p).st = .inService → (s.dev.port p).mode = 0 → f.vc ≠ 7 →
    BitVec.ofNat 16 f.seq = (s.dev.port p).rxSeq → (frameCost f : Int) ≤ smGet 512 (s.dev.port p).rxRoom f.vc → frameBad f = false →
    f.directed = false → f.linkLocal = false → s.dev.boot.st = .ready → s.dev.fabric.id = some own → own ≠ f.dst → 1 < f.hops →
    s.dev.queuedFor f.dst = false → s.dev.routePort f.src f.dst = some p' → (s.dev.port p').st = .inService → (s.dev.port p').queued = [] →
    (frameCost f : Int) ≤ (s.dev.port p').credit f.vc →
    ∃ t, exec (.frameForward p f) s = .next t ∧ s.sent t p' { f with hops := f.hops - 1 } ∧ t.mem = s.mem) ∧
  (∀ (n : Fin 16) (s : State), s.rests = true → s.dev.beats n = true → s.dev.hbEnd n ≤ s.time →
    ((s.dev.bay n).st = .parked → exec (.hbTimeout n) s = .next { s with dev := s.dev.setBay n { s.dev.bay n with hbLost := true } }) ∧
    ((s.dev.bay n).st = .idle → s.dev.detachable n = false → s.dev.attachMode ≠ 1 → s.dev.unworked = true → s.unshown = true →
      (s.dev.bay n).commitRt = none → ∃ t, exec (.hbTimeout n) s = .next t ∧ (t.dev.bay n).st = .draining ∧ (t.dev.bay n).toFree = true ∧ (t.dev.bay n).hbLost = true))

/-- Responses to this device's requests: the request ends and what it came to waits for its requester; one answered RETRY is sent again after 1 µs; a
request without a final response within remote_timeout of its first sending ends with TIMEOUT, and a response that arrives later is dropped (R356,
R570). -/
def Obligations.FabricResponses : Prop :=
  (∀ (p : Fin 12) (f : Frame) (r : Remote) (s : State), s.frameHere p f = true → f.ty = 0x28 ∨ f.ty = 0x29 → s.dev.fabric.remotes = [r] →
    r.tn = f.tn → r.f.dst = f.src → r.f.ty + 8 = f.ty → r.dead = false → (∃ c, r.who = .gutter c) → f.st ≠ 8 → f.poison = false →
    let d := s.dev.tookFrame p f
    let fab : Fabric := { d.fabric with remotes := [], acks := d.fabric.acks ++ [(r.who, r.f.addr, f.payload, statusOf f.st)] }
    exec (if f.ty = 0x28 then .putAck p f else .getRsp p f) s = .next { s with dev := { d with fabric := fab } }) ∧
  (∀ (p : Fin 12) (f : Frame) (r : Remote) (n : Fin 16) (q : Fin 8) (w : W32) (c : Cmd) (s : State), s.frameHere p f = true → f.ty = 0x2A →
    s.dev.fabric.remotes = [r] → r.tn = f.tn → r.f.dst = f.src → r.f.ty = 0x22 → r.dead = false → r.who = .cmd (8 * n + q) w.toNat → f.st = 0 →
    f.poison = false → s.stands n q w 3 .running c = true → c.flag 0 = false →
    ∃ t, exec (.sigAck p f) s = .next t ∧ t.dev.fabric.remotes = [] ∧ (t.dev.queue n q) = (s.dev.served n q).queue n q ∧ t.mem = s.mem) ∧
  (∀ (p : Fin 12) (f : Frame) (r : Remote) (s : State), s.frameHere p f = true → f.ty = 0x28 ∨ f.ty = 0x29 → s.dev.fabric.remotes = [r] →
    r.tn = f.tn → r.f.dst = f.src → r.f.ty + 8 = f.ty → r.dead = true ∨ f.st = 8 →
    let d := s.dev.tookFrame p f
    let fab : Fabric := { d.fabric with remotes := if r.dead then [] else [{ r with retryAt := some (s.time + 1000) }] }
    exec (if f.ty = 0x28 then .putAck p f else .getRsp p f) s = .next { s with dev := { d with fabric := fab } }) ∧
  (∀ (tn : Nat) (r : Remote) (x p' : Nat) (s : State), s.rests = true → s.dev.fabric.remotes = [r] → r.tn = tn → r.dead = false → r.retryAt = some x →
    x ≤ s.time → s.route r.f.dst p' r.f.vc r.f.payload.length = true →
    ∃ t, exec (.remoteResend tn) s = .next t ∧ t.dev.fabric.remotes = [{ r with retryAt := none }] ∧
      s.sent t p' { r.f with src := s.dev.fabId, hops := s.dev.od 0x2A00 5 } ∧ t.mem = s.mem) ∧
  (∀ (tn c : Nat) (r : Remote) (s : State), s.rests = true → s.dev.fabric.remotes = [r] → r.tn = tn → r.dead = false → r.who = .gutter c →
    r.sent + s.dev.od 0x2A00 6 * 1000 ≤ s.time →
    let dead : Remote := { r with dead := true, retryAt := none }
    let fab : Fabric := { s.dev.fabric with remotes := [dead], acks := s.dev.fabric.acks ++ [(r.who, r.f.addr, [], .timeout)] }
    exec (.remoteTimeout tn) s = .next { s with dev := { s.dev with fabric := fab } })

/-! ### Ports in Ethernet mode, PTP and placement (R578 to R582, R595 to R601) -/

/-- RoCEv2: a packet of an RDMA WRITE in sequence, first or later, becomes a placement write and moves the queue pair on; one that runs ahead is
answered with a NAK once; an RDMA READ of one line is answered with its bytes (R578, R596, R599, R600). BAR4: a write is accepted as a placement, a
read inside one line answers its bytes. A placement write inside one line, where the home needs no snoop, changes those bytes alone, and adds its
count to reg_arrived and by one ADD to the region's Spar (R595, R600). -/
def Obligations.PlacementRoutes : Prop :=
  (∀ (p : Fin 12) (k : RocePkt) (n i r : Nat) (ok : Bool) (s : State), s.roceHere p k n i = true → k.psn = s.dev.qpPsn n i → k.first = true →
    (s.dev.qp n i).msg = none → k.data.length ≤ k.dmaLen → (k.last = true → k.data.length = k.dmaLen) → s.dev.rkeySlot n k.rkey = some (r, ok) →
    s.dev.placeBad n r roceWr ok k.va k.dmaLen true = none →
    let d := (s.dev.count (0x2A20 + p) 0xF 1).placeWrite n r k.va k.data (rocePlace p k (if k.last then k.dmaLen else 0))
    let msg := if k.last then none else some (r, k.va + k.data.length, k.dmaLen - k.data.length, k.dmaLen)
    exec (.rdmaWrite p k) s = .next { s with dev := d.setQp n i { s.dev.qp n i with psn := (s.dev.qp n i).psn + 1, msg := msg, nakSent := false } }) ∧
  (∀ (p : Fin 12) (k : RocePkt) (n i r off left len : Nat) (s : State), s.roceHere p k n i = true → k.psn = s.dev.qpPsn n i → k.first = false →
    (s.dev.qp n i).msg = some (r, off, left, len) → k.data.length ≤ left → (k.last = true → k.data.length = left) →
    s.dev.placeLate n r off k.data.length true = none →
    let d := (s.dev.count (0x2A20 + p) 0xF 1).placeWrite n r off k.data (rocePlace p k (if k.last then len else 0))
    let msg := if k.last then none else some (r, off + k.data.length, left - k.data.length, len)
    exec (.rdmaWrite p k) s = .next { s with dev := d.setQp n i { s.dev.qp n i with psn := (s.dev.qp n i).psn + 1, msg := msg, nakSent := false } }) ∧
  (∀ (p : Fin 12) (k : RocePkt) (n i a : Nat) (s : State), s.roceHere p k n i = true → k.psn = (s.dev.qpPsn n i + a) % 2 ^ 24 → 0 < a → a < 2 ^ 23 →
    let d := s.dev.count (0x2A20 + p) 0xF 1
    let nak := Out.roce p "NAK PSN Sequence Error" k.qpn (s.dev.qpPsn n i) []
    let e := ((d.setQp n i { s.dev.qp n i with nakSent := true }).send nak).count (0x2A20 + p) 0x10 1
    exec (.rdmaWrite p k) s = .next { s with dev := if (s.dev.qp n i).nakSent then d else e }) ∧
  (∀ (p : Fin 12) (k : RocePkt) (n i r : Nat) (ok : Bool) (s : State), s.roceHere p k n i = true → k.psn = s.dev.qpPsn n i →
    (s.dev.qp n i).msg = none → s.dev.rkeySlot n k.rkey = some (r, ok) → s.dev.placeBad n r roceRd ok k.va k.dmaLen false = none →
    let a := (s.dev.region n r).base + k.va
    s.homeFree (a / 64) = true → 0 < k.dmaLen → a % 64 + k.dmaLen ≤ 64 → s.poison.contains (a / 64) = false →
    ∃ t, exec (.rdmaRead p k) s = .next t ∧ t.dev.out = s.dev.out ++ [.roce p "READ Response" k.qpn k.psn (s.bytes a k.dmaLen)] ∧ t.dev.places = [] ∧
      t.dev.qp n i = { s.dev.qp n i with psn := (s.dev.qp n i).psn + 1, nakSent := false } ∧ t.mem = s.mem) ∧
  (∀ (rid : W16) (ap : Fin 256) (off : Nat) (data : List Byte) (s : State), s.rests = true → s.dev.hostHere 0 = true → s.dev.boot.st = .ready →
    data ≠ [] → off % 4096 + data.length ≤ 4096 → s.dev.barBad rid.toNat ap bar4Wr off data.length true = none →
    let pl : Place := { id := 0, bay := 0, slot := 0, lpa := 0, data := [], count := data.length }
    exec (.bar4Write rid ap off data) s = .next { s with dev := s.dev.placeWrite (ap / 16) (ap % 16) off data pl }) ∧
  (∀ (rid : W16) (ap : Fin 256) (off len tag : Nat) (s : State), s.dev.hostHere 0 = true → s.dev.boot.st = .ready →
    s.dev.barBad rid.toNat ap bar4Rd off len false = none → 0 < len →
    let a := (s.dev.region (ap / 16) (ap % 16)).base + off
    s.homeFree (a / 64) = true → off % 64 + len ≤ 64 → a % 64 = off % 64 → s.poison.contains (a / 64) = false →
    ∃ t, exec (.bar4Read rid ap off len tag) s = .next t ∧ t.dev.out = s.dev.out ++ [.cpl tag "OK" (s.bytes a len)] ∧ t.dev.places = [] ∧ t.mem = s.mem) ∧
  (∀ (n : Fin 16) (x : Place) (s : State), s.dev.places = [x] → x.bay = n.val → x.read = none → x.data ≠ [] → x.lpa % 64 + x.data.length ≤ 64 →
    x.reply = none → x.tag = none → x.roce = none →
    ({ s with dev := { s.dev with places := [] } } : State).homeFree (x.lpa / 64) = true → s.dev.courses = [] →
    let g := s.dev.region n x.slot
    g.spar = 0xFFFF ∨ ((s.dev.bay n).held.spar.has g.spar = true ∧ (s.dev.spar g.spar).armed = false ∧ (s.dev.spar g.spar).mirror = false) →
    ∃ t, exec (.placementApplied n x.id) s = .next t ∧ s.wrote t x.lpa x.data ∧ t.dev.places = [] ∧
      t.dev.region n x.slot = { g with arrived := g.arrived + x.count } ∧
      (∀ k, k ≠ g.spar → t.dev.spar k = s.dev.spar k) ∧
      (g.spar ≠ 0xFFFF → t.dev.spar g.spar = { s.dev.spar g.spar with value := (s.dev.spar g.spar).value + BitVec.ofNat 64 x.count })) ∧
  (∀ (n : Fin 16) (x : Place) (f : Frame) (p' : Nat) (s : State), s.dev.places = [x] → x.bay = n.val → x.read = none → x.data ≠ [] →
    x.lpa % 64 + x.data.length ≤ 64 → x.reply = some f → x.tag = none → x.roce = none →
    ({ s with dev := { s.dev with places := [] } } : State).homeFree (x.lpa / 64) = true → s.route f.dst p' f.vc 0 = true →
    (s.dev.region n x.slot).spar = 0xFFFF →
    ∃ t, exec (.placementApplied n x.id) s = .next t ∧ s.wrote t x.lpa x.data ∧ t.dev.places = [] ∧
      s.sent t p' { f with st := 0, payload := [], poison := false, src := s.dev.fabId, hops := s.dev.od 0x2A00 5 })

/-- The replies of an Ethernet port to ARP, Neighbour Solicitation and echo requests for its address, and a PFC frame (R579). PTP (R580 to R582): a Sync
with its Follow_Up steps the offset to the measurement, the servo's rate, which the manual does not give, staying within ±100 ppm; the delay is half
the round trip; a clock announced is followed, and left after three intervals without an Announce; a port that time is not taken from sends Sync,
Follow_Up and Announce; the PPS input sets the phase of the seconds. -/
def Obligations.EthernetAndPtp : Prop :=
  (∀ (p : Fin 12) (ip : W32) (mac : BitVec 48) (s : State), s.rests = true → s.dev.etherUp p = true →
    let d := s.dev.count (0x2A20 + p) 0xF 1
    let e := (d.send (.eth p "ARP reply" mac.toNat (s.dev.macBytes ++ beBytes 4 ip.toNat))).count (0x2A20 + p) 0x10 1
    exec (.arpRequest p ip mac) s = .next { s with dev := if ip.toNat = s.dev.od (0x2A20 + p) 0xC then e else d }) ∧
  (∀ (p : Fin 12) (ip : BitVec 128) (mac : BitVec 48) (s : State), s.rests = true → s.dev.etherUp p = true →
    let d := s.dev.count (0x2A20 + p) 0xF 1
    let e := (d.send (.eth p "Neighbour Advertisement" mac.toNat (s.dev.macBytes ++ beBytes 16 ip.toNat))).count (0x2A20 + p) 0x10 1
    exec (.neighbourSolicitation p ip mac) s = .next { s with dev := if ip.toNat = s.dev.ip6 p then e else d }) ∧
  (∀ (p : Fin 12) (v6 : Bool) (ip : BitVec 128) (data : List Byte) (s : State), s.rests = true → s.dev.etherUp p = true →
    let d := s.dev.count (0x2A20 + p) 0xF 1
    let e := (d.send (.eth p (if v6 then "ICMPv6 echo reply" else "ICMP echo reply") 0 data)).count (0x2A20 + p) 0x10 1
    exec (.icmpEchoRequest p v6 ip data) s = .next { s with dev := if ip.toNat = (if v6 then s.dev.ip6 p else s.dev.od (0x2A20 + p) 0xC) then e else d }) ∧
  (∀ (p : Fin 12) (prio : Fin 8) (quanta : W16) (s : State), s.rests = true → s.dev.etherUp p = true → quanta ≠ 0 →
    ∃ t, exec (.pfcFrame p prio quanta) s = .next t ∧ t.mem = s.mem ∧ t.dev.out = s.dev.out ∧
      t.dev.port p = { s.dev.port p with paused := [(prio.val, s.time + cdiv (quanta.toNat * 512) 800)] }) ∧
  (∀ (p : Fin 12) (m : PtpMsg) (s : State), s.rests = true → s.dev.ptpUp p = true → m.domain = s.dev.od 0x2A00 0xB → s.dev.fabric.ptpPort = p.val →
    ∃ t, exec (.sync p m) s = .next t ∧ t.dev.port p = { s.dev.port p with syncTime := some (s.time, m.seq) } ∧ t.dev.out = s.dev.out ∧ t.mem = s.mem) ∧
  (∀ (p : Fin 12) (m : PtpMsg) (t2 : Nat) (s : State), s.rests = true → s.dev.ptpUp p = true → m.domain = s.dev.od 0x2A00 0xB →
    s.dev.fabric.ptpPort = p.val → (s.dev.port p).syncTime = some (t2, m.seq) →
    let off := m.time + s.dev.fabric.lastDelay - t2
    let good := if (off - s.dev.fabric.ptpOffset).natAbs < 100 then min 16 (s.dev.fabric.ptpGood + 1) else 0
    ∃ t, exec (.followUp p m) s = .next t ∧ t.dev.fabric.ptpOffset = off ∧ t.dev.fabric.ptpGood = good ∧
      t.dev.fabric.ptpState = (if good = 16 then 2 else 1) ∧ t.dev.fabric.lastDelta = t2 - m.time ∧
      -100000 ≤ t.dev.fabric.ptpRate ∧ t.dev.fabric.ptpRate ≤ 100000 ∧ t.dev.out = s.dev.out ∧ t.mem = s.mem) ∧
  (∀ (p : Fin 12) (m : PtpMsg) (s : State), s.rests = true → s.dev.ptpUp p = true → m.domain = s.dev.od 0x2A00 0xB → s.dev.fabric.ptpPort ≠ p.val →
    let o := Out.ptp p "Delay_Resp" { m with time := s.time + s.dev.fabric.ptpOffset }
    exec (.delayReq p m) s = .next { s with dev := ((s.dev.count (0x2A20 + p) 0xF 1).send o).count (0x2A20 + p) 0x10 1 }) ∧
  (∀ (p : Fin 12) (m : PtpMsg) (t3 : Nat) (s : State), s.rests = true → s.dev.ptpUp p = true → m.domain = s.dev.od 0x2A00 0xB →
    s.dev.fabric.ptpPort = p.val → s.dev.fabric.delaySent = some (t3, m.seq) →
    ∃ t, exec (.delayResp p m) s = .next t ∧ t.dev.fabric.lastDelay = (s.dev.fabric.lastDelta + (m.time - t3)) / 2 ∧
      t.dev.fabric.delaySent = none ∧ t.dev.fabric.ptpOffset = s.dev.fabric.ptpOffset ∧ t.mem = s.mem) ∧
  (∀ (p : Fin 12) (m : PtpMsg) (s : State), s.rests = true → s.dev.ptpUp p = true → m.domain = s.dev.od 0x2A00 0xB → s.dev.od 0x2A00 0xC = 0 →
    (∀ q, q ≠ p.val → (s.dev.port q).ann = none) →
    ∃ t, exec (.announce p m) s = .next t ∧ (t.dev.port p).ann = some (m.priority, m.clockClass, m.clockId) ∧ (t.dev.port p).annTime = s.time ∧
      t.dev.fabric.ptpPort = p ∧ (s.dev.fabric.ptpPort ≠ p.val → t.dev.fabric.ptpState = 1) ∧ t.mem = s.mem) ∧
  (∀ (p : Fin 12) (s : State), s.rests = true → (s.dev.port p).ann.isSome = true → (s.dev.port p).annTime + 3000000000 ≤ s.time →
    s.dev.od 0x2A00 0xC = 0 → (∀ q, q ≠ p.val → (s.dev.port q).ann = none) →
    ∃ t, exec (.announceReceiptTimeout p) s = .next t ∧ (t.dev.port p).ann = none ∧ t.dev.fabric.ptpState = 0 ∧ t.dev.fabric.ptpPort = 0xFF ∧ t.mem = s.mem) ∧
  (∀ (p : Fin 12) (s : State), s.rests = true → s.dev.ptpUp p = true → (s.dev.port p).syncLast + 125000000 ≤ s.time →
    let now : PtpMsg := { domain := s.dev.od 0x2A00 0xB, seq := (s.dev.port p).ptpSeq, clockId := s.dev.fabId, time := s.time + s.dev.fabric.ptpOffset }
    ∃ t, exec (.syncInterval p) s = .next t ∧ (t.dev.port p).syncLast = s.time ∧ (t.dev.port p).ptpSeq = (s.dev.port p).ptpSeq + 1 ∧ t.mem = s.mem ∧
      (s.dev.fabric.ptpPort = p.val → t.dev.out = s.dev.out ++ [.ptp p "Delay_Req" now] ∧ t.dev.fabric.delaySent = some (s.time, now.seq)) ∧
      (s.dev.fabric.ptpPort ≠ p.val → (s.dev.port p).annSent ≠ 0 → s.time < (s.dev.port p).annSent + 1000000000 →
        t.dev.out = s.dev.out ++ [.ptp p "Sync" now, .ptp p "Follow_Up" now])) ∧
  (∀ (s : State), s.rests = true → s.dev.od 0x2A00 0xC = 1 →
    ∃ t, exec .ppsInEdge s = .next t ∧ (s.time + t.dev.fabric.ptpOffset) % 1000000000 = 0 ∧
      (t.dev.fabric.ptpOffset - s.dev.fabric.ptpOffset).natAbs ≤ 500000000 ∧ t.dev.out = s.dev.out ∧ t.mem = s.mem) ∧
  (∀ (s : State), s.rests = true → s.dev.fabric.ptpState = 2 ∨ s.dev.fabric.ptpState = 3 → (s.time + s.dev.fabric.ptpOffset) % 1000000000 = 0 →
    s.dev.fabric.lastPps ≠ some ((s.time + s.dev.fabric.ptpOffset) / 1000000000) →
    ∃ t, exec .ppsOutPulse s = .next t ∧ t.dev.out = s.dev.out ++ [.pps] ∧ exec .ppsOutPulse t = .next t)

/-! ### Islands, loops, sense lines and the patrol scrub (R613 to R648) -/

/-- An island closes, flushes, waits out its window and starts again (R616 to R620, R625): gating closes an eligible core, or lets its L2 flush; a
flushed island enters CLOSING; with nothing outstanding the window ends, and the island is off, or STARTING; a core that starts has a zeroed local
store. Retraining of an island: its triggers, latched while it retrains, and its end (R627). -/
def Obligations.IslandsAndRetraining : Prop :=
  (∀ (i : Fin 350) (t0 : Nat) (s : State), s.rests = true → (s.dev.island i).eligible = some t0 → s.dev.od 0x2B00 5 = 1 → s.dev.gateable i = true →
    t0 + 1000000 ≤ s.time → (s.dev.island i).flush = false →
    let x := s.dev.island i
    (i.val < 256 → ∃ t, exec (.gateTimer i) s = .next t ∧ t.mem = s.mem ∧
      t.dev.island i = { x with st := .closing, toOff := true, latched := false, retraining := false, since := s.time, eligible := none, closes := x.closes + 1 }) ∧
    (256 ≤ i.val → s.dev.l2Lines (i - 256) = [] → ∃ t, exec (.gateTimer i) s = .next t ∧ t.mem = s.mem ∧
      t.dev.island i = { x with toOff := true, latched := false, flush := true })) ∧
  (∀ (i : Fin 350) (s : State), s.rests = true → (s.dev.island i).st = .active → (s.dev.island i).flush = true →
    (256 ≤ i.val ∧ i.val < 272 ∧ s.dev.l2Lines (i - 256) = [] ∧ s.dev.l2Asking (i - 256) = false) ∨
      (272 ≤ i.val ∧ i.val < 288 ∧ ∀ l x, s.dev.dir l = some x → x.kind ≠ .p) ∨ (i.val = 331 ∧ s.dev.ridge.proxy = []) →
    let x := s.dev.island i
    ∃ t, exec (.flushEnd i) s = .next t ∧ (∀ l, 272 ≤ i.val → i.val < 288 → lineIsl l = i.val → t.dev.dir l = none) ∧ t.dev.island i = { x with
      st := .closing
      flush := false
      latched := false
      retraining := false
      since := s.time
      eligible := none
      closes := x.closes + 1 }) ∧
  (∀ (i : Fin 350) (s : State), s.rests = true → (s.dev.island i).st = .closing → s.dev.islandLoad i = 0 →
    (∀ c, c < 256 → c = i.val ∨ 256 + c / 16 = i.val → s.dev.holder (·.core) c = none) →
    let x := s.dev.island i
    ∃ t, exec (.closeWindowEnd i) s = .next t ∧
      t.dev.island i = { x with st := if x.toOff then .off else .starting, toOff := false, since := s.time }) ∧
  (∀ (i : Fin 350) (s : State), s.rests = true → (s.dev.island i).st = .closing → i.val < 256 → s.dev.islandLoad i = 0 →
    (s.dev.holder (·.core) i).isSome = true → ∃ t, exec (.closeWindowEnd i) s = .next t ∧ (t.dev.island i).st = .starting) ∧
  (∀ (i : Fin 350) (s : State), s.rests = true → (s.dev.island i).st = .starting →
    ∃ t, exec (.islandStartEnd i) s = .next t ∧ (t.dev.island i).st = .active ∧ (t.dev.island i).retrains = (s.dev.island i).retrains + 1 ∧
      (t.dev.island i).retraining = (s.dev.island i).latched ∧ (t.dev.island i).latched = false ∧
      (t.dev.island i).lastRetrain = s.time ∧ (i.val < 256 → t.dev.core i = {}) ∧
      ∀ a, t.byte a = if i.val < 256 ∧ 0x11000000000 + i * 0x80000 ≤ a ∧ a < 0x11000000000 + (i + 1) * 0x80000 then 0 else s.byte a) ∧
  (∀ (i : Fin 350) (s : State), s.rests = true → (s.dev.island i).st = .active → (s.dev.island i).timed = false →
    (s.dev.island i).lastRetrain + 60000000000 ≤ s.time →
    exec (.retrainPeriod i) s = .next { s with dev := s.dev.setIsland i (Island.triggered { s.dev.island i with timed := true }) }) ∧
  (∀ (i : Fin 350) (s : State), s.rests = true → (s.dev.island i).st = .active →
    exec (.cpmMarginAlarm i) s = .next { s with dev := s.dev.setIsland i (s.dev.island i).triggered }) ∧
  (∀ (i : Fin 350) (temp : Int) (s : State), s.rests = true → (s.dev.island i).st = .active →
    let b : Board := { s.dev.board with islandTemp := smSet 0 s.dev.board.islandTemp i temp }
    let d : Dev := { s.dev with board := b }
    exec (.retrainTemperature i temp) s = .next { s with dev :=
      if 80 < (temp - (s.dev.island i).lastTemp).natAbs then d.setIsland i (s.dev.island i).triggered else d }) ∧
  (∀ (i : Fin 350) (temp : Int) (s : State), s.rests = true → (s.dev.island i).st = .active → (s.dev.island i).retraining = true →
    let x := s.dev.island i
    ∃ t, exec (.retrainingEnd i temp) s = .next t ∧ t.mem = s.mem ∧ (∀ k, k ≠ i.val → t.dev.island k = s.dev.island k) ∧
      t.dev.island i = { x with
        retraining := x.latched
        latched := false
        timed := false
        retrains := x.retrains + 1
        lastRetrain := s.time
        lastTemp := temp })

/-- The adaptive loops (R613, R629 to R634, R640): what one report makes of a domain's request and of an island's ratio; no domain ever outruns the
set-point less 50 mV; the caps step by temperature and power; a droop is counted; the loops of the banks and of placement take their readings. Sense
lines and AVSBus (R636 to R638): an open sense line freezes its rail's loop and is counted, on VDD_CORE with the safe setting 850 mV; sense_clear of
a rail whose pair is intact lets its loop resume; a set-point whose command is not acknowledged leaves the rail at its last value. -/
def Obligations.LoopsAndSenseLines : Prop :=
  (∀ (r : Slack) (s : State), s.rests = true → s.time % 10000 = 0 → s.dev.board.mainPg = true → s.dev.loopFrozen 0 = false → s.dev.loops.frozen = [] →
    r.island < 350 → (s.dev.island r.island).st = .active →
    let k := islandDomain r.island
    let q := (s.dev.domain k).request
    k < 23 → ∃ t, exec (.voltageLoopPeriod [r]) s = .next t ∧ t.mem = s.mem ∧
      (t.dev.domain k).request = (if r.slack < 4 ∨ (r.wantsMore = true ∧ r.predicted < 4) then min 900 (q + 5) else if 12 < r.slack then max 550 (q - 5) else q) ∧
      (∀ j, j ≠ k → (t.dev.domain j).request = (s.dev.domain j).request) ∧
      t.dev.railMv = t.dev.loops.coreMv ∧ 650 ≤ t.dev.railMv ∧ t.dev.railMv ≤ 950 ∧ t.dev.railMv % 5 = 0 ∧
      ∀ j, j < 23 → 550 ≤ (t.dev.domain j).mv ∧ (t.dev.domain j).mv ≤ 900 ∧ (t.dev.domain j).mv + 50 ≤ t.dev.railMv) ∧
  (∀ (r : Slack) (s : State), s.rests = true → s.time % 10000 = 0 → s.dev.board.mainPg = true → s.dev.loopFrozen 1 = false →
    r.island < 350 → (s.dev.island r.island).st = .active →
    let x := s.dev.island r.island
    let cap := s.dev.ratioCap r.island
    exec (.frequencyLoopPeriod [r]) s = .next { s with dev := s.dev.setIsland r.island { x with
      slack := r.slack
      ratio := if r.slack < 4 ∨ cap < x.ratio then max 64 (x.ratio - 1) else if 4 ≤ r.predicted ∧ x.ratio < cap then min 256 (x.ratio + 1) else x.ratio } }) ∧
  (∀ (i : Fin 350) (temp : Int) (w : Nat) (s : State), s.rests = true → s.time % 1000000 = 0 → s.dev.board.mainPg = true →
    let on := toInt 16 (s.dev.od 0x2E02 2)
    let lim := s.dev.od 0x2B00 4
    ∃ t, exec (.capStep [(i, temp)] w) s = .next t ∧ t.mem = s.mem ∧ t.dev.loops.power = w ∧
      (t.dev.island i).thermCap = (if on * 8 ≤ temp then max 64 ((s.dev.island i).thermCap - 16)
        else if temp ≤ (on - 2) * 8 then min 256 ((s.dev.island i).thermCap + 16) else (s.dev.island i).thermCap) ∧
      (∀ k, k ≠ i.val → (t.dev.island k).thermCap = (s.dev.island k).thermCap) ∧
      (∀ c, c < 256 → (t.dev.island c).powerCap = if lim < w then max 64 ((s.dev.island c).powerCap - 4)
        else if w * 100 < lim * 95 then min 256 ((s.dev.island c).powerCap + 4) else (s.dev.island c).powerCap)) ∧
  (∀ (i : Fin 350) (s : State), s.rests = true → (s.dev.island i).st = .active →
    exec (.droop i) s = .next { s with dev := (s.dev.setIsland i { s.dev.island i with stretches := (s.dev.island i).stretches + 1 }).count 0x2B00 0xC 1 }) ∧
  (∀ (b : Fin 8) (a : Fin 32) (col : Fin 4096) (v : Int) (s : State), s.rests = true → s.time % 1000000 = 0 → s.dev.loopFrozen 4 = false →
    (s.dev.island (296 + b)).st = .active →
    let k := 32 * b.val + a.val
    exec (.adcThresholdLoop b [(4096 * k + col, v)]) s = .next { s with dev := s.dev.setArr k { s.dev.arr k with
      newThresholds := smSet 0 (s.dev.arr k).newThresholds col v } }) ∧
  (∀ (c : Fin 256) (temp : Int) (s : State), s.rests = true → s.time % 1000000 = 0 → s.dev.board.mainPg = true →
    let b : Board := { s.dev.board with
      islandTemp := smSet 0 s.dev.board.islandTemp c temp
      placeTemp := if s.dev.loopFrozen 5 then s.dev.board.placeTemp else smSet 0 s.dev.board.placeTemp c temp }
    exec (.placementLoop [(c, temp)]) s = .next { s with dev := { s.dev with board := b } }) ∧
  (∀ (rail : Fin 3) (kind : Fin 4) (s : State), s.rests = true → kind.val ≠ 0 → s.dev.board.mainPg = true → smGet 0 s.dev.loops.sense rail = 0 →
    s.dev.od 0x2B00 9 + 1 < 2 ^ 32 →
    ∃ t, exec (.senseOpenDetect rail kind) s = .next t ∧ smGet 0 t.dev.loops.sense rail = kind.val ∧ smGet none t.dev.loops.frozen rail = some s.time ∧
      t.dev.od 0x2B00 9 = s.dev.od 0x2B00 9 + 1 ∧ t.dev.loops.coreMv = (if rail.val = 0 then 850 else s.dev.loops.coreMv) ∧
      t.dev.flogSeq = s.dev.flogSeq + 1 ∧ t.mem = s.mem) ∧
  (∀ (r : Route) (k : Fin 3) (v : Byte) (intact : List (Fin 3)) (s : State), v.toNat = 2 ^ k.val → s.acceptsIf r 0x2B00 0xA [v] intact = true →
    ∃ t, exec (.senseClear r v intact) s = .next t ∧ smGet 0 t.dev.loops.sense k = 0 ∧ smGet none t.dev.loops.frozen k = none ∧
      (∀ j : Fin 3, j ≠ k → smGet 0 t.dev.loops.sense j = smGet 0 s.dev.loops.sense j) ∧
      (k.val = 0 → ∀ j, j < 23 → (t.dev.domain j).request = (s.dev.domain j).mv) ∧ t.mem = s.mem) ∧
  (∀ (mv : Nat) (s : State), s.rests = true → mv = s.dev.loops.coreMv → s.dev.loops.stuck = none → s.dev.loops.prevMv ≠ mv →
    s.dev.od 0x2B00 7 + 1 < 2 ^ 32 →
    ∃ t, exec (.avsNack mv) s = .next t ∧ t.dev.railMv = s.dev.loops.prevMv ∧ t.dev.loops.coreMv = mv ∧
      t.dev.od 0x2B00 7 = s.dev.od 0x2B00 7 + 1 ∧ t.dev.out = s.dev.out ++ [.avs mv, .avs mv, .avs mv] ∧ t.mem = s.mem)

/-- The patrol scrub (R641 to R644): the interval starts a pass; a pass that ends counts the lines of its stack that it corrected, and poisons those
it could not. Which stack the interleave gives a line is free (log entry 36). -/
def Obligations.PatrolScrub : Prop :=
  (∀ (k : Fin 8) (s : State), s.rests = true → s.dev.boot.st = .ready → (s.dev.scrub k).timed = false → (s.dev.scrub k).running = false →
    (s.dev.scrub k).latched = false → (s.dev.island (304 + k)).st = .active → s.dev.board.throttled = [] →
    (s.dev.scrub k).lastEnd.getD s.dev.boot.readyTime + s.dev.od 0x2B03 1 * 1000000000 ≤ s.time →
    exec (.scrubIntervalTrigger k) s = .next { s with dev := s.dev.setScrub k { s.dev.scrub k with timed := true, running := true, paused := false } }) ∧
  (∀ (k : Fin 8) (corrected : List Nat) (s : State), s.rests = true → (s.dev.scrub k).running = true → (s.dev.scrub k).paused = false →
    s.dev.od 0x2B03 7 + corrected.length < 2 ^ 32 → s.dev.od 0x2D00 4 + corrected.length < 2 ^ 32 →
    (∀ l, l ∈ corrected → l < 0x180000000 ∧ Config.hbmStack l = k.val) →
    let x := s.dev.scrub k
    ∃ t, exec (.scrubPassEnd k corrected []) s = .next t ∧ t.dev.od 0x2B03 7 = s.dev.od 0x2B03 7 + corrected.length ∧
      t.dev.od 0x2D00 4 = s.dev.od 0x2D00 4 + corrected.length ∧ t.mem = s.mem ∧ t.poison = s.poison ∧
      t.dev.scrub k = { x with running := x.latched, latched := false, timed := false, passes := x.passes + 1, lastEnd := some s.time }) ∧
  (∀ (k : Fin 8) (l : Nat) (s : State), s.rests = true → (s.dev.scrub k).running = true → (s.dev.scrub k).paused = false → l < 0x180000000 →
    Config.hbmStack l = k.val → s.dev.od 0x2B03 8 + 1 < 2 ^ 32 →
    ∃ t, exec (.scrubPassEnd k [] [l]) s = .next t ∧ t.dev.od 0x2B03 8 = s.dev.od 0x2B03 8 + 1 ∧ t.poison.contains l = true ∧
      t.dev.flogSeq = s.dev.flogSeq + 1 ∧ t.mem = s.mem)

/-! ### What the rows of ports, clocks and loops leave alone -/

/-- The rows of the Purlin link layer, Ethernet replies, PTP, retraining and the adaptive loops touch no byte of memory, no Bay, no queue, no core, no
Bay page, no Spar, no engine and nothing non-volatile, in whatever state the device rests. -/
def Obligations.PortAndLoopFrame : Prop :=
  ∀ (c : Instr) (s : State), portOrLoopRow c = true → s.rests = true →
    ∃ t, exec c s = .next t ∧ t.mem = s.mem ∧ t.poison = s.poison ∧ t.dev.bays = s.dev.bays ∧ t.dev.queues = s.dev.queues ∧ t.dev.cores = s.dev.cores ∧
      t.dev.pages = s.dev.pages ∧ t.dev.spars = s.dev.spars ∧ t.dev.engines = s.dev.engines ∧ t.dev.nv = s.dev.nv
end

