-- ==== Sys2Proof/Laws/Memory.lean ====
section
/-! SUPPORT. Sparse tables and memory: a read after a write, and that every memory operation keeps the canonical form (DESIGN CHOICE, log entry 5). -/
namespace Sys2Proof.Machine

/-! ### Sparse tables -/

@[simp] theorem smGet_nil {α : Type} (dflt : α) (k : Nat) : smGet dflt [] k = dflt := rfl

theorem smGet_del_same {α : Type} (dflt : α) (m : SMap α) (k : Nat) : smGet dflt (smDel m k) k = dflt := by
  induction m with
  | nil => rfl
  | cons c r ih =>
    by_cases h : c.1 = k
    · simpa [smDel, h] using ih
    · have : smDel (c :: r) k = c :: smDel r k := by simp [smDel, h]
      rw [this]
      show (if c.1 = k then c.2 else smGet dflt (smDel r k) k) = dflt
      rw [if_neg h, ih]

theorem smGet_del_other {α : Type} (dflt : α) (m : SMap α) (k j : Nat) (hj : j ≠ k) : smGet dflt (smDel m k) j = smGet dflt m j := by
  induction m with
  | nil => rfl
  | cons c r ih =>
    by_cases h : c.1 = k
    · have : smDel (c :: r) k = smDel r k := by simp [smDel, h]
      rw [this, ih]
      show _ = if c.1 = j then c.2 else smGet dflt r j
      rw [if_neg fun h' => hj (h'.symm.trans h)]
    · have : smDel (c :: r) k = c :: smDel r k := by simp [smDel, h]
      rw [this]
      show (if c.1 = j then c.2 else smGet dflt (smDel r k) j) = if c.1 = j then c.2 else smGet dflt r j
      rw [ih]

theorem smGet_ins_same {α : Type} (dflt : α) (m : SMap α) (k : Nat) (v : α) (h : ∀ c ∈ m, c.1 ≠ k) : smGet dflt (smIns k v m) k = v := by
  induction m with
  | nil => simp [smIns, smGet]
  | cons c r ih =>
    unfold smIns
    split
    · simp [smGet]
    · show (if c.1 = k then c.2 else smGet dflt (smIns k v r) k) = v
      rw [if_neg (h c (by simp)), ih fun x hx => h x (by simp [hx])]

theorem smGet_ins_other {α : Type} (dflt : α) (m : SMap α) (k j : Nat) (v : α) (hj : j ≠ k) :
    smGet dflt (smIns k v m) j = smGet dflt m j := by
  induction m with
  | nil =>
    show (if k = j then v else dflt) = dflt
    rw [if_neg fun h => hj h.symm]
  | cons c r ih =>
    unfold smIns
    split
    · show (if k = j then v else smGet dflt (c :: r) j) = _
      rw [if_neg fun h => hj h.symm]
    · show (if c.1 = j then c.2 else smGet dflt (smIns k v r) j) = if c.1 = j then c.2 else smGet dflt r j
      rw [ih]

theorem smDel_ne {α : Type} (m : SMap α) (k : Nat) : ∀ c ∈ smDel m k, c.1 ≠ k := by
  intro c hc
  simpa [smDel] using (List.mem_filter.mp hc).2

/-- An object reads as it was last set. -/
@[simp] theorem smGet_set_same {α : Type} [DecidableEq α] (dflt : α) (m : SMap α) (k : Nat) (v : α) : smGet dflt (smSet dflt m k v) k = v := by
  unfold smSet
  split
  · next h => rw [smGet_del_same, h]
  · exact smGet_ins_same dflt _ k v (smDel_ne m k)

/-- Setting an object leaves the others. -/
theorem smGet_set_other {α : Type} [DecidableEq α] (dflt : α) (m : SMap α) (k j : Nat) (v : α) (hj : j ≠ k) :
    smGet dflt (smSet dflt m k v) j = smGet dflt m j := by
  unfold smSet
  split
  · exact smGet_del_other dflt m k j hj
  · rw [smGet_ins_other dflt _ k j v hj, smGet_del_other dflt m k j hj]

theorem smGet_set {α : Type} [DecidableEq α] (dflt : α) (m : SMap α) (k j : Nat) (v : α) :
    smGet dflt (smSet dflt m k v) j = if j = k then v else smGet dflt m j := by
  split
  · next h => rw [h, smGet_set_same]
  · next h => exact smGet_set_other dflt m k j v h

/-! ### The canonical form of memory -/

/-- The canonical form as two properties of the list: the addresses rise, no byte is zero. -/
theorem memWf_iff (m : List Host.Cell) : memWf m = true ↔ m.Pairwise (fun a b => a.1 < b.1) ∧ ∀ c ∈ m, c.2 ≠ 0 := by
  induction m with
  | nil => simp [memWf]
  | cons c r ih =>
    match r with
    | [] => simp [memWf]
    | c' :: r' =>
      have h : memWf (c :: c' :: r') = (c.2 != 0 && Nat.blt c.1 c'.1 && memWf (c' :: r')) := rfl
      rw [h]
      simp only [Bool.and_eq_true, bne_iff_ne, ne_eq, Nat.blt_eq, ih]
      constructor
      · rintro ⟨⟨h0, hlt⟩, hp, hz⟩
        refine ⟨List.pairwise_cons.mpr ⟨fun x hx => ?_, hp⟩, ?_⟩
        · rcases List.mem_cons.mp hx with rfl | hx'
          · exact hlt
          · exact hlt.trans ((List.pairwise_cons.mp hp).1 x hx')
        · intro x hx
          rcases List.mem_cons.mp hx with rfl | hx'
          · exact h0
          · exact hz x hx'
      · rintro ⟨hp, hz⟩
        obtain ⟨h1, h2⟩ := List.pairwise_cons.mp hp
        exact ⟨⟨hz c (by simp), h1 c' (by simp)⟩, h2, fun x hx => hz x (by simp [List.mem_cons.mp hx])⟩

theorem memWf_filter (m : List Host.Cell) (p : Host.Cell → Bool) (h : memWf m = true) : memWf (m.filter p) = true := by
  rw [memWf_iff] at h ⊢
  exact ⟨h.1.filter _, fun c hc => h.2 c (List.mem_of_mem_filter hc)⟩

theorem mem_smIns {α : Type} (k : Nat) (v : α) (m : SMap α) (c : Nat × α) (h : c ∈ smIns k v m) : c = (k, v) ∨ c ∈ m := by
  induction m with
  | nil => simpa [smIns] using h
  | cons d r ih =>
    unfold smIns at h
    split at h
    · simpa using h
    · rcases List.mem_cons.mp h with rfl | h'
      · simp
      · rcases ih h' with h'' | h'' <;> simp [h'']

theorem memWf_ins (m : List Host.Cell) (k : Nat) (v : BitVec 8) (h : memWf m = true) (hv : v ≠ 0) (hk : ∀ c ∈ m, c.1 ≠ k) :
    memWf (smIns k v m) = true := by
  rw [memWf_iff] at h ⊢
  refine ⟨?_, fun c hc => ?_⟩
  · obtain ⟨hp, -⟩ := h
    induction m with
    | nil => simp [smIns]
    | cons d r ih =>
      obtain ⟨h1, h2⟩ := List.pairwise_cons.mp hp
      unfold smIns
      split
      · next hlt =>
        refine List.pairwise_cons.mpr ⟨fun x hx => ?_, hp⟩
        rcases List.mem_cons.mp hx with rfl | hx'
        · exact hlt
        · exact hlt.trans (h1 x hx')
      · next hlt =>
        refine List.pairwise_cons.mpr ⟨fun x hx => ?_, ih (fun c hc => hk c (by simp [hc])) h2⟩
        rcases mem_smIns k v r x hx with rfl | hx'
        · exact lt_of_le_of_ne (Nat.le_of_not_lt hlt) (hk d (by simp))
        · exact h1 x hx'
  · rcases mem_smIns k v m c hc with rfl | h'
    · exact hv
    · exact h.2 c h'

/-- Writing a byte keeps the canonical form. -/
theorem memWf_set (m : List Host.Cell) (k : Nat) (v : BitVec 8) (h : memWf m = true) : memWf (smSet 0 m k v) = true := by
  unfold smSet
  split
  · exact memWf_filter m _ h
  · next hv => exact memWf_ins _ k v (memWf_filter m _ h) hv (smDel_ne m k)

/-- Every memory operation keeps the canonical form. -/
theorem memWf_onMem (m : List Host.Cell) (o : MemOp) (h : memWf m = true) : memWf (o.onMem m) = true := by
  cases o with
  | write a bs =>
    show memWf ((bs.zipIdx a).foldl (fun m c => smSet 0 m c.2 c.1) m) = true
    generalize bs.zipIdx a = l
    induction l generalizing m with
    | nil => exact h
    | cons c r ih => exact ih _ (memWf_set m c.2 c.1 h)
  | zero lo hi => exact memWf_filter m _ h
  | poison l => exact h
  | clean l => exact h

/-- The memory operations of a command keep the canonical form. -/
theorem memWf_commit (s : State) (d : Dev) (h : memWf s.mem = true) : memWf (s.commit d).mem = true := by
  show memWf (d.stores.foldr (fun o m => o.onMem m) s.mem) = true
  induction d.stores with
  | nil => exact h
  | cons o r ih => exact memWf_onMem _ o ih

/-- The memory of the machine right after reset is in canonical form. -/
theorem memWf_reset : memWf State.reset.mem = true := rfl

/-- A byte written reads back, and no other byte moves. -/
theorem smGet_write (m : List Host.Cell) (a x : Nat) (v : BitVec 8) : smGet 0 ((MemOp.write a [v]).onMem m) x = if x = a then v else smGet 0 m x :=
  smGet_set 0 m a x v

end Sys2Proof.Machine
end

