-- ==== Sys2Proof/Laws/State.lean ====
section
/-! SUPPORT. The fields of State and of the device under each update: what an update leaves is read through it, and an object reads as
it was last set, so that no proof unfolds a record update. -/
namespace Sys2Proof.Machine

variable (d : Dev) (s : State)

/-! ### What a command commits -/

@[simp] theorem State.commit_pending : (s.commit d).pending = s.pending := rfl
@[simp] theorem State.commit_time : (s.commit d).time = s.time := rfl
@[simp] theorem State.commit_dev : (s.commit d).dev = { d with stores := [] } := rfl
@[simp] theorem State.env_time : s.env.time = s.time := rfl
@[simp] theorem State.env_mem : s.env.mem = s.mem := rfl
@[simp] theorem State.env_poison : s.env.poison = s.poison := rfl
@[simp] theorem State.idle_pending : s.idle.pending = s.pending := by unfold State.idle; split <;> rfl
@[simp] theorem State.idle_mem : s.idle.mem = s.mem := by unfold State.idle; split <;> rfl
@[simp] theorem State.idle_dev : s.idle.dev = s.dev := by unfold State.idle; split <;> rfl

/-! ### An object reads as it was last set -/

@[simp] theorem Dev.setBay_bay (n : Nat) (b : Bay) : (d.setBay n b).bay n = b := smGet_set_same _ _ _ _
@[simp] theorem Dev.setPage_page (n : Nat) (b : Page) : (d.setPage n b).page n = b := smGet_set_same _ _ _ _
@[simp] theorem Dev.setSpar_spar (k : Nat) (x : Spar) : (d.setSpar k x).spar k = x := smGet_set_same _ _ _ _
@[simp] theorem Dev.setQueue_queue (n q : Nat) (x : Queue) : (d.setQueue n q x).queue n q = x := smGet_set_same _ _ _ _
@[simp] theorem Dev.setGutter_gutter (c : Nat) (x : Gutter) : (d.setGutter c x).gutter c = x := smGet_set_same _ _ _ _
@[simp] theorem Dev.setCourse_course (c : Nat) (x : Course) : (d.setCourse c x).course c = x := smGet_set_same _ _ _ _
@[simp] theorem Dev.setArb_arb (r : Nat) (x : Arb) : (d.setArb r x).arb r = x := smGet_set_same _ _ _ _
@[simp] theorem Dev.setCore_core (c : Nat) (x : Core) : (d.setCore c x).core c = x := smGet_set_same _ _ _ _
@[simp] theorem Dev.setEngine_engine (g : Nat) (x : Engine) : (d.setEngine g x).engine g = x := smGet_set_same _ _ _ _
@[simp] theorem Dev.setArr_arr (a : Nat) (x : Arr) : (d.setArr a x).arr a = x := smGet_set_same _ _ _ _
@[simp] theorem Dev.setJour_jour (n : Nat) (x : Journal) : (d.setJour n x).jour n = x := smGet_set_same _ _ _ _
@[simp] theorem Dev.setPort_port (p : Nat) (x : Port) : (d.setPort p x).port p = x := smGet_set_same _ _ _ _
@[simp] theorem Dev.setRegion_region (n r : Nat) (x : Region) : (d.setRegion n r x).region n r = x := smGet_set_same _ _ _ _
@[simp] theorem Dev.setQp_qp (n i : Nat) (x : Qp) : (d.setQp n i x).qp n i = x := smGet_set_same _ _ _ _
@[simp] theorem Dev.setIsland_island (i : Nat) (x : Island) : (d.setIsland i x).island i = x := smGet_set_same _ _ _ _
@[simp] theorem Dev.setDomain_domain (i : Nat) (x : Domain) : (d.setDomain i x).domain i = x := smGet_set_same _ _ _ _
@[simp] theorem Dev.setScrub_scrub (k : Nat) (x : Scrub) : (d.setScrub k x).scrub k = x := smGet_set_same _ _ _ _
@[simp] theorem Dev.setWin_win (fn : Nat) (w : Win) : (d.setWin fn w).win fn = w := smGet_set_same _ _ _ _
@[simp] theorem Dev.setOd_od (idx sub v : Nat) : (d.setOd idx sub v).od idx sub = v := smGet_set_same _ _ _ _

/-! ### What an update leaves -/

@[simp] theorem Dev.setBay_nv (n : Nat) (b : Bay) : (d.setBay n b).nv = d.nv := rfl
@[simp] theorem Dev.setBay_board (n : Nat) (b : Bay) : (d.setBay n b).board = d.board := rfl
@[simp] theorem Dev.setBay_boot (n : Nat) (b : Bay) : (d.setBay n b).boot = d.boot := rfl
@[simp] theorem Dev.setBay_srv (n : Nat) (b : Bay) : (d.setBay n b).srv = d.srv := rfl
@[simp] theorem Dev.setBay_link (n : Nat) (b : Bay) : (d.setBay n b).link = d.link := rfl
@[simp] theorem Dev.setBay_pages (n : Nat) (b : Bay) : (d.setBay n b).pages = d.pages := rfl
@[simp] theorem Dev.setBay_shadows (n : Nat) (b : Bay) : (d.setBay n b).shadows = d.shadows := rfl
@[simp] theorem Dev.setBay_trans (n : Nat) (b : Bay) : (d.setBay n b).trans = d.trans := rfl
@[simp] theorem Dev.setBay_ridge (n : Nat) (b : Bay) : (d.setBay n b).ridge = d.ridge := rfl
@[simp] theorem Dev.setBay_spars (n : Nat) (b : Bay) : (d.setBay n b).spars = d.spars := rfl
@[simp] theorem Dev.setBay_queues (n : Nat) (b : Bay) : (d.setBay n b).queues = d.queues := rfl
@[simp] theorem Dev.setBay_gutters (n : Nat) (b : Bay) : (d.setBay n b).gutters = d.gutters := rfl
@[simp] theorem Dev.setBay_courses (n : Nat) (b : Bay) : (d.setBay n b).courses = d.courses := rfl
@[simp] theorem Dev.setBay_arbs (n : Nat) (b : Bay) : (d.setBay n b).arbs = d.arbs := rfl
@[simp] theorem Dev.setBay_chains (n : Nat) (b : Bay) : (d.setBay n b).chains = d.chains := rfl
@[simp] theorem Dev.setBay_prepared (n : Nat) (b : Bay) : (d.setBay n b).prepared = d.prepared := rfl
@[simp] theorem Dev.setBay_released (n : Nat) (b : Bay) : (d.setBay n b).released = d.released := rfl
@[simp] theorem Dev.setBay_cores (n : Nat) (b : Bay) : (d.setBay n b).cores = d.cores := rfl
@[simp] theorem Dev.setBay_runs (n : Nat) (b : Bay) : (d.setBay n b).runs = d.runs := rfl
@[simp] theorem Dev.setBay_nextRun (n : Nat) (b : Bay) : (d.setBay n b).nextRun = d.nextRun := rfl
@[simp] theorem Dev.setBay_engines (n : Nat) (b : Bay) : (d.setBay n b).engines = d.engines := rfl
@[simp] theorem Dev.setBay_arrays (n : Nat) (b : Bay) : (d.setBay n b).arrays = d.arrays := rfl
@[simp] theorem Dev.setBay_tasks (n : Nat) (b : Bay) : (d.setBay n b).tasks = d.tasks := rfl
@[simp] theorem Dev.setBay_journals (n : Nat) (b : Bay) : (d.setBay n b).journals = d.journals := rfl
@[simp] theorem Dev.setBay_jseq (n : Nat) (b : Bay) : (d.setBay n b).jseq = d.jseq := rfl
@[simp] theorem Dev.setBay_jtick (n : Nat) (b : Bay) : (d.setBay n b).jtick = d.jtick := rfl
@[simp] theorem Dev.setBay_nonce (n : Nat) (b : Bay) : (d.setBay n b).nonce = d.nonce := rfl
@[simp] theorem Dev.setBay_fabric (n : Nat) (b : Bay) : (d.setBay n b).fabric = d.fabric := rfl
@[simp] theorem Dev.setBay_regions (n : Nat) (b : Bay) : (d.setBay n b).regions = d.regions := rfl
@[simp] theorem Dev.setBay_qps (n : Nat) (b : Bay) : (d.setBay n b).qps = d.qps := rfl
@[simp] theorem Dev.setBay_places (n : Nat) (b : Bay) : (d.setBay n b).places = d.places := rfl
@[simp] theorem Dev.setBay_nextPlace (n : Nat) (b : Bay) : (d.setBay n b).nextPlace = d.nextPlace := rfl
@[simp] theorem Dev.setBay_loops (n : Nat) (b : Bay) : (d.setBay n b).loops = d.loops := rfl
@[simp] theorem Dev.setBay_flog (n : Nat) (b : Bay) : (d.setBay n b).flog = d.flog := rfl
@[simp] theorem Dev.setBay_flogSeq (n : Nat) (b : Bay) : (d.setBay n b).flogSeq = d.flogSeq := rfl
@[simp] theorem Dev.setBay_ckpts (n : Nat) (b : Bay) : (d.setBay n b).ckpts = d.ckpts := rfl
@[simp] theorem Dev.setBay_out (n : Nat) (b : Bay) : (d.setBay n b).out = d.out := rfl
@[simp] theorem Dev.setBay_free (n : Nat) (b : Bay) : (d.setBay n b).free = d.free := rfl
@[simp] theorem Dev.setBay_ahead (n : Nat) (b : Bay) : (d.setBay n b).ahead = d.ahead := rfl
@[simp] theorem Dev.setBay_signerFailed (n : Nat) (b : Bay) : (d.setBay n b).signerFailed = d.signerFailed := rfl
@[simp] theorem Dev.setBay_faults (n : Nat) (b : Bay) : (d.setBay n b).faults = d.faults := rfl
@[simp] theorem Dev.setBay_stores (n : Nat) (b : Bay) : (d.setBay n b).stores = d.stores := rfl
@[simp] theorem Dev.setPage_nv (n : Nat) (b : Page) : (d.setPage n b).nv = d.nv := rfl
@[simp] theorem Dev.setPage_board (n : Nat) (b : Page) : (d.setPage n b).board = d.board := rfl
@[simp] theorem Dev.setPage_boot (n : Nat) (b : Page) : (d.setPage n b).boot = d.boot := rfl
@[simp] theorem Dev.setPage_srv (n : Nat) (b : Page) : (d.setPage n b).srv = d.srv := rfl
@[simp] theorem Dev.setPage_bays (n : Nat) (b : Page) : (d.setPage n b).bays = d.bays := rfl
@[simp] theorem Dev.setPage_link (n : Nat) (b : Page) : (d.setPage n b).link = d.link := rfl
@[simp] theorem Dev.setPage_shadows (n : Nat) (b : Page) : (d.setPage n b).shadows = d.shadows := rfl
@[simp] theorem Dev.setPage_trans (n : Nat) (b : Page) : (d.setPage n b).trans = d.trans := rfl
@[simp] theorem Dev.setPage_ridge (n : Nat) (b : Page) : (d.setPage n b).ridge = d.ridge := rfl
@[simp] theorem Dev.setPage_spars (n : Nat) (b : Page) : (d.setPage n b).spars = d.spars := rfl
@[simp] theorem Dev.setPage_queues (n : Nat) (b : Page) : (d.setPage n b).queues = d.queues := rfl
@[simp] theorem Dev.setPage_gutters (n : Nat) (b : Page) : (d.setPage n b).gutters = d.gutters := rfl
@[simp] theorem Dev.setPage_courses (n : Nat) (b : Page) : (d.setPage n b).courses = d.courses := rfl
@[simp] theorem Dev.setPage_arbs (n : Nat) (b : Page) : (d.setPage n b).arbs = d.arbs := rfl
@[simp] theorem Dev.setPage_chains (n : Nat) (b : Page) : (d.setPage n b).chains = d.chains := rfl
@[simp] theorem Dev.setPage_prepared (n : Nat) (b : Page) : (d.setPage n b).prepared = d.prepared := rfl
@[simp] theorem Dev.setPage_released (n : Nat) (b : Page) : (d.setPage n b).released = d.released := rfl
@[simp] theorem Dev.setPage_cores (n : Nat) (b : Page) : (d.setPage n b).cores = d.cores := rfl
@[simp] theorem Dev.setPage_runs (n : Nat) (b : Page) : (d.setPage n b).runs = d.runs := rfl
@[simp] theorem Dev.setPage_nextRun (n : Nat) (b : Page) : (d.setPage n b).nextRun = d.nextRun := rfl
@[simp] theorem Dev.setPage_engines (n : Nat) (b : Page) : (d.setPage n b).engines = d.engines := rfl
@[simp] theorem Dev.setPage_arrays (n : Nat) (b : Page) : (d.setPage n b).arrays = d.arrays := rfl
@[simp] theorem Dev.setPage_tasks (n : Nat) (b : Page) : (d.setPage n b).tasks = d.tasks := rfl
@[simp] theorem Dev.setPage_journals (n : Nat) (b : Page) : (d.setPage n b).journals = d.journals := rfl
@[simp] theorem Dev.setPage_jseq (n : Nat) (b : Page) : (d.setPage n b).jseq = d.jseq := rfl
@[simp] theorem Dev.setPage_jtick (n : Nat) (b : Page) : (d.setPage n b).jtick = d.jtick := rfl
@[simp] theorem Dev.setPage_nonce (n : Nat) (b : Page) : (d.setPage n b).nonce = d.nonce := rfl
@[simp] theorem Dev.setPage_fabric (n : Nat) (b : Page) : (d.setPage n b).fabric = d.fabric := rfl
@[simp] theorem Dev.setPage_regions (n : Nat) (b : Page) : (d.setPage n b).regions = d.regions := rfl
@[simp] theorem Dev.setPage_qps (n : Nat) (b : Page) : (d.setPage n b).qps = d.qps := rfl
@[simp] theorem Dev.setPage_places (n : Nat) (b : Page) : (d.setPage n b).places = d.places := rfl
@[simp] theorem Dev.setPage_nextPlace (n : Nat) (b : Page) : (d.setPage n b).nextPlace = d.nextPlace := rfl
@[simp] theorem Dev.setPage_loops (n : Nat) (b : Page) : (d.setPage n b).loops = d.loops := rfl
@[simp] theorem Dev.setPage_flog (n : Nat) (b : Page) : (d.setPage n b).flog = d.flog := rfl
@[simp] theorem Dev.setPage_flogSeq (n : Nat) (b : Page) : (d.setPage n b).flogSeq = d.flogSeq := rfl
@[simp] theorem Dev.setPage_ckpts (n : Nat) (b : Page) : (d.setPage n b).ckpts = d.ckpts := rfl
@[simp] theorem Dev.setPage_out (n : Nat) (b : Page) : (d.setPage n b).out = d.out := rfl
@[simp] theorem Dev.setPage_free (n : Nat) (b : Page) : (d.setPage n b).free = d.free := rfl
@[simp] theorem Dev.setPage_ahead (n : Nat) (b : Page) : (d.setPage n b).ahead = d.ahead := rfl
@[simp] theorem Dev.setPage_signerFailed (n : Nat) (b : Page) : (d.setPage n b).signerFailed = d.signerFailed := rfl
@[simp] theorem Dev.setPage_faults (n : Nat) (b : Page) : (d.setPage n b).faults = d.faults := rfl
@[simp] theorem Dev.setPage_stores (n : Nat) (b : Page) : (d.setPage n b).stores = d.stores := rfl
@[simp] theorem Dev.setWin_nv (fn : Nat) (w : Win) : (d.setWin fn w).nv = d.nv := rfl
@[simp] theorem Dev.setWin_board (fn : Nat) (w : Win) : (d.setWin fn w).board = d.board := rfl
@[simp] theorem Dev.setWin_boot (fn : Nat) (w : Win) : (d.setWin fn w).boot = d.boot := rfl
@[simp] theorem Dev.setWin_bays (fn : Nat) (w : Win) : (d.setWin fn w).bays = d.bays := rfl
@[simp] theorem Dev.setWin_link (fn : Nat) (w : Win) : (d.setWin fn w).link = d.link := rfl
@[simp] theorem Dev.setWin_pages (fn : Nat) (w : Win) : (d.setWin fn w).pages = d.pages := rfl
@[simp] theorem Dev.setWin_shadows (fn : Nat) (w : Win) : (d.setWin fn w).shadows = d.shadows := rfl
@[simp] theorem Dev.setWin_trans (fn : Nat) (w : Win) : (d.setWin fn w).trans = d.trans := rfl
@[simp] theorem Dev.setWin_ridge (fn : Nat) (w : Win) : (d.setWin fn w).ridge = d.ridge := rfl
@[simp] theorem Dev.setWin_spars (fn : Nat) (w : Win) : (d.setWin fn w).spars = d.spars := rfl
@[simp] theorem Dev.setWin_queues (fn : Nat) (w : Win) : (d.setWin fn w).queues = d.queues := rfl
@[simp] theorem Dev.setWin_gutters (fn : Nat) (w : Win) : (d.setWin fn w).gutters = d.gutters := rfl
@[simp] theorem Dev.setWin_courses (fn : Nat) (w : Win) : (d.setWin fn w).courses = d.courses := rfl
@[simp] theorem Dev.setWin_arbs (fn : Nat) (w : Win) : (d.setWin fn w).arbs = d.arbs := rfl
@[simp] theorem Dev.setWin_chains (fn : Nat) (w : Win) : (d.setWin fn w).chains = d.chains := rfl
@[simp] theorem Dev.setWin_prepared (fn : Nat) (w : Win) : (d.setWin fn w).prepared = d.prepared := rfl
@[simp] theorem Dev.setWin_released (fn : Nat) (w : Win) : (d.setWin fn w).released = d.released := rfl
@[simp] theorem Dev.setWin_cores (fn : Nat) (w : Win) : (d.setWin fn w).cores = d.cores := rfl
@[simp] theorem Dev.setWin_runs (fn : Nat) (w : Win) : (d.setWin fn w).runs = d.runs := rfl
@[simp] theorem Dev.setWin_nextRun (fn : Nat) (w : Win) : (d.setWin fn w).nextRun = d.nextRun := rfl
@[simp] theorem Dev.setWin_engines (fn : Nat) (w : Win) : (d.setWin fn w).engines = d.engines := rfl
@[simp] theorem Dev.setWin_arrays (fn : Nat) (w : Win) : (d.setWin fn w).arrays = d.arrays := rfl
@[simp] theorem Dev.setWin_tasks (fn : Nat) (w : Win) : (d.setWin fn w).tasks = d.tasks := rfl
@[simp] theorem Dev.setWin_journals (fn : Nat) (w : Win) : (d.setWin fn w).journals = d.journals := rfl
@[simp] theorem Dev.setWin_jseq (fn : Nat) (w : Win) : (d.setWin fn w).jseq = d.jseq := rfl
@[simp] theorem Dev.setWin_jtick (fn : Nat) (w : Win) : (d.setWin fn w).jtick = d.jtick := rfl
@[simp] theorem Dev.setWin_nonce (fn : Nat) (w : Win) : (d.setWin fn w).nonce = d.nonce := rfl
@[simp] theorem Dev.setWin_fabric (fn : Nat) (w : Win) : (d.setWin fn w).fabric = d.fabric := rfl
@[simp] theorem Dev.setWin_regions (fn : Nat) (w : Win) : (d.setWin fn w).regions = d.regions := rfl
@[simp] theorem Dev.setWin_qps (fn : Nat) (w : Win) : (d.setWin fn w).qps = d.qps := rfl
@[simp] theorem Dev.setWin_places (fn : Nat) (w : Win) : (d.setWin fn w).places = d.places := rfl
@[simp] theorem Dev.setWin_nextPlace (fn : Nat) (w : Win) : (d.setWin fn w).nextPlace = d.nextPlace := rfl
@[simp] theorem Dev.setWin_loops (fn : Nat) (w : Win) : (d.setWin fn w).loops = d.loops := rfl
@[simp] theorem Dev.setWin_flog (fn : Nat) (w : Win) : (d.setWin fn w).flog = d.flog := rfl
@[simp] theorem Dev.setWin_flogSeq (fn : Nat) (w : Win) : (d.setWin fn w).flogSeq = d.flogSeq := rfl
@[simp] theorem Dev.setWin_ckpts (fn : Nat) (w : Win) : (d.setWin fn w).ckpts = d.ckpts := rfl
@[simp] theorem Dev.setWin_out (fn : Nat) (w : Win) : (d.setWin fn w).out = d.out := rfl
@[simp] theorem Dev.setWin_free (fn : Nat) (w : Win) : (d.setWin fn w).free = d.free := rfl
@[simp] theorem Dev.setWin_ahead (fn : Nat) (w : Win) : (d.setWin fn w).ahead = d.ahead := rfl
@[simp] theorem Dev.setWin_signerFailed (fn : Nat) (w : Win) : (d.setWin fn w).signerFailed = d.signerFailed := rfl
@[simp] theorem Dev.setWin_faults (fn : Nat) (w : Win) : (d.setWin fn w).faults = d.faults := rfl
@[simp] theorem Dev.setWin_stores (fn : Nat) (w : Win) : (d.setWin fn w).stores = d.stores := rfl
@[simp] theorem Dev.setSpar_nv (k : Nat) (x : Spar) : (d.setSpar k x).nv = d.nv := rfl
@[simp] theorem Dev.setSpar_board (k : Nat) (x : Spar) : (d.setSpar k x).board = d.board := rfl
@[simp] theorem Dev.setSpar_boot (k : Nat) (x : Spar) : (d.setSpar k x).boot = d.boot := rfl
@[simp] theorem Dev.setSpar_srv (k : Nat) (x : Spar) : (d.setSpar k x).srv = d.srv := rfl
@[simp] theorem Dev.setSpar_bays (k : Nat) (x : Spar) : (d.setSpar k x).bays = d.bays := rfl
@[simp] theorem Dev.setSpar_link (k : Nat) (x : Spar) : (d.setSpar k x).link = d.link := rfl
@[simp] theorem Dev.setSpar_pages (k : Nat) (x : Spar) : (d.setSpar k x).pages = d.pages := rfl
@[simp] theorem Dev.setSpar_shadows (k : Nat) (x : Spar) : (d.setSpar k x).shadows = d.shadows := rfl
@[simp] theorem Dev.setSpar_trans (k : Nat) (x : Spar) : (d.setSpar k x).trans = d.trans := rfl
@[simp] theorem Dev.setSpar_ridge (k : Nat) (x : Spar) : (d.setSpar k x).ridge = d.ridge := rfl
@[simp] theorem Dev.setSpar_queues (k : Nat) (x : Spar) : (d.setSpar k x).queues = d.queues := rfl
@[simp] theorem Dev.setSpar_gutters (k : Nat) (x : Spar) : (d.setSpar k x).gutters = d.gutters := rfl
@[simp] theorem Dev.setSpar_courses (k : Nat) (x : Spar) : (d.setSpar k x).courses = d.courses := rfl
@[simp] theorem Dev.setSpar_arbs (k : Nat) (x : Spar) : (d.setSpar k x).arbs = d.arbs := rfl
@[simp] theorem Dev.setSpar_chains (k : Nat) (x : Spar) : (d.setSpar k x).chains = d.chains := rfl
@[simp] theorem Dev.setSpar_prepared (k : Nat) (x : Spar) : (d.setSpar k x).prepared = d.prepared := rfl
@[simp] theorem Dev.setSpar_released (k : Nat) (x : Spar) : (d.setSpar k x).released = d.released := rfl
@[simp] theorem Dev.setSpar_cores (k : Nat) (x : Spar) : (d.setSpar k x).cores = d.cores := rfl
@[simp] theorem Dev.setSpar_runs (k : Nat) (x : Spar) : (d.setSpar k x).runs = d.runs := rfl
@[simp] theorem Dev.setSpar_nextRun (k : Nat) (x : Spar) : (d.setSpar k x).nextRun = d.nextRun := rfl
@[simp] theorem Dev.setSpar_engines (k : Nat) (x : Spar) : (d.setSpar k x).engines = d.engines := rfl
@[simp] theorem Dev.setSpar_arrays (k : Nat) (x : Spar) : (d.setSpar k x).arrays = d.arrays := rfl
@[simp] theorem Dev.setSpar_tasks (k : Nat) (x : Spar) : (d.setSpar k x).tasks = d.tasks := rfl
@[simp] theorem Dev.setSpar_journals (k : Nat) (x : Spar) : (d.setSpar k x).journals = d.journals := rfl
@[simp] theorem Dev.setSpar_jseq (k : Nat) (x : Spar) : (d.setSpar k x).jseq = d.jseq := rfl
@[simp] theorem Dev.setSpar_jtick (k : Nat) (x : Spar) : (d.setSpar k x).jtick = d.jtick := rfl
@[simp] theorem Dev.setSpar_nonce (k : Nat) (x : Spar) : (d.setSpar k x).nonce = d.nonce := rfl
@[simp] theorem Dev.setSpar_fabric (k : Nat) (x : Spar) : (d.setSpar k x).fabric = d.fabric := rfl
@[simp] theorem Dev.setSpar_regions (k : Nat) (x : Spar) : (d.setSpar k x).regions = d.regions := rfl
@[simp] theorem Dev.setSpar_qps (k : Nat) (x : Spar) : (d.setSpar k x).qps = d.qps := rfl
@[simp] theorem Dev.setSpar_places (k : Nat) (x : Spar) : (d.setSpar k x).places = d.places := rfl
@[simp] theorem Dev.setSpar_nextPlace (k : Nat) (x : Spar) : (d.setSpar k x).nextPlace = d.nextPlace := rfl
@[simp] theorem Dev.setSpar_loops (k : Nat) (x : Spar) : (d.setSpar k x).loops = d.loops := rfl
@[simp] theorem Dev.setSpar_flog (k : Nat) (x : Spar) : (d.setSpar k x).flog = d.flog := rfl
@[simp] theorem Dev.setSpar_flogSeq (k : Nat) (x : Spar) : (d.setSpar k x).flogSeq = d.flogSeq := rfl
@[simp] theorem Dev.setSpar_ckpts (k : Nat) (x : Spar) : (d.setSpar k x).ckpts = d.ckpts := rfl
@[simp] theorem Dev.setSpar_out (k : Nat) (x : Spar) : (d.setSpar k x).out = d.out := rfl
@[simp] theorem Dev.setSpar_free (k : Nat) (x : Spar) : (d.setSpar k x).free = d.free := rfl
@[simp] theorem Dev.setSpar_ahead (k : Nat) (x : Spar) : (d.setSpar k x).ahead = d.ahead := rfl
@[simp] theorem Dev.setSpar_signerFailed (k : Nat) (x : Spar) : (d.setSpar k x).signerFailed = d.signerFailed := rfl
@[simp] theorem Dev.setSpar_faults (k : Nat) (x : Spar) : (d.setSpar k x).faults = d.faults := rfl
@[simp] theorem Dev.setSpar_stores (k : Nat) (x : Spar) : (d.setSpar k x).stores = d.stores := rfl
@[simp] theorem Dev.setQueue_nv (n q : Nat) (x : Queue) : (d.setQueue n q x).nv = d.nv := rfl
@[simp] theorem Dev.setQueue_board (n q : Nat) (x : Queue) : (d.setQueue n q x).board = d.board := rfl
@[simp] theorem Dev.setQueue_boot (n q : Nat) (x : Queue) : (d.setQueue n q x).boot = d.boot := rfl
@[simp] theorem Dev.setQueue_srv (n q : Nat) (x : Queue) : (d.setQueue n q x).srv = d.srv := rfl
@[simp] theorem Dev.setQueue_bays (n q : Nat) (x : Queue) : (d.setQueue n q x).bays = d.bays := rfl
@[simp] theorem Dev.setQueue_link (n q : Nat) (x : Queue) : (d.setQueue n q x).link = d.link := rfl
@[simp] theorem Dev.setQueue_pages (n q : Nat) (x : Queue) : (d.setQueue n q x).pages = d.pages := rfl
@[simp] theorem Dev.setQueue_shadows (n q : Nat) (x : Queue) : (d.setQueue n q x).shadows = d.shadows := rfl
@[simp] theorem Dev.setQueue_trans (n q : Nat) (x : Queue) : (d.setQueue n q x).trans = d.trans := rfl
@[simp] theorem Dev.setQueue_ridge (n q : Nat) (x : Queue) : (d.setQueue n q x).ridge = d.ridge := rfl
@[simp] theorem Dev.setQueue_spars (n q : Nat) (x : Queue) : (d.setQueue n q x).spars = d.spars := rfl
@[simp] theorem Dev.setQueue_gutters (n q : Nat) (x : Queue) : (d.setQueue n q x).gutters = d.gutters := rfl
@[simp] theorem Dev.setQueue_courses (n q : Nat) (x : Queue) : (d.setQueue n q x).courses = d.courses := rfl
@[simp] theorem Dev.setQueue_arbs (n q : Nat) (x : Queue) : (d.setQueue n q x).arbs = d.arbs := rfl
@[simp] theorem Dev.setQueue_chains (n q : Nat) (x : Queue) : (d.setQueue n q x).chains = d.chains := rfl
@[simp] theorem Dev.setQueue_prepared (n q : Nat) (x : Queue) : (d.setQueue n q x).prepared = d.prepared := rfl
@[simp] theorem Dev.setQueue_released (n q : Nat) (x : Queue) : (d.setQueue n q x).released = d.released := rfl
@[simp] theorem Dev.setQueue_cores (n q : Nat) (x : Queue) : (d.setQueue n q x).cores = d.cores := rfl
@[simp] theorem Dev.setQueue_runs (n q : Nat) (x : Queue) : (d.setQueue n q x).runs = d.runs := rfl
@[simp] theorem Dev.setQueue_nextRun (n q : Nat) (x : Queue) : (d.setQueue n q x).nextRun = d.nextRun := rfl
@[simp] theorem Dev.setQueue_engines (n q : Nat) (x : Queue) : (d.setQueue n q x).engines = d.engines := rfl
@[simp] theorem Dev.setQueue_arrays (n q : Nat) (x : Queue) : (d.setQueue n q x).arrays = d.arrays := rfl
@[simp] theorem Dev.setQueue_tasks (n q : Nat) (x : Queue) : (d.setQueue n q x).tasks = d.tasks := rfl
@[simp] theorem Dev.setQueue_journals (n q : Nat) (x : Queue) : (d.setQueue n q x).journals = d.journals := rfl
@[simp] theorem Dev.setQueue_jseq (n q : Nat) (x : Queue) : (d.setQueue n q x).jseq = d.jseq := rfl
@[simp] theorem Dev.setQueue_jtick (n q : Nat) (x : Queue) : (d.setQueue n q x).jtick = d.jtick := rfl
@[simp] theorem Dev.setQueue_nonce (n q : Nat) (x : Queue) : (d.setQueue n q x).nonce = d.nonce := rfl
@[simp] theorem Dev.setQueue_fabric (n q : Nat) (x : Queue) : (d.setQueue n q x).fabric = d.fabric := rfl
@[simp] theorem Dev.setQueue_regions (n q : Nat) (x : Queue) : (d.setQueue n q x).regions = d.regions := rfl
@[simp] theorem Dev.setQueue_qps (n q : Nat) (x : Queue) : (d.setQueue n q x).qps = d.qps := rfl
@[simp] theorem Dev.setQueue_places (n q : Nat) (x : Queue) : (d.setQueue n q x).places = d.places := rfl
@[simp] theorem Dev.setQueue_nextPlace (n q : Nat) (x : Queue) : (d.setQueue n q x).nextPlace = d.nextPlace := rfl
@[simp] theorem Dev.setQueue_loops (n q : Nat) (x : Queue) : (d.setQueue n q x).loops = d.loops := rfl
@[simp] theorem Dev.setQueue_flog (n q : Nat) (x : Queue) : (d.setQueue n q x).flog = d.flog := rfl
@[simp] theorem Dev.setQueue_flogSeq (n q : Nat) (x : Queue) : (d.setQueue n q x).flogSeq = d.flogSeq := rfl
@[simp] theorem Dev.setQueue_ckpts (n q : Nat) (x : Queue) : (d.setQueue n q x).ckpts = d.ckpts := rfl
@[simp] theorem Dev.setQueue_out (n q : Nat) (x : Queue) : (d.setQueue n q x).out = d.out := rfl
@[simp] theorem Dev.setQueue_free (n q : Nat) (x : Queue) : (d.setQueue n q x).free = d.free := rfl
@[simp] theorem Dev.setQueue_ahead (n q : Nat) (x : Queue) : (d.setQueue n q x).ahead = d.ahead := rfl
@[simp] theorem Dev.setQueue_signerFailed (n q : Nat) (x : Queue) : (d.setQueue n q x).signerFailed = d.signerFailed := rfl
@[simp] theorem Dev.setQueue_faults (n q : Nat) (x : Queue) : (d.setQueue n q x).faults = d.faults := rfl
@[simp] theorem Dev.setQueue_stores (n q : Nat) (x : Queue) : (d.setQueue n q x).stores = d.stores := rfl
@[simp] theorem Dev.setGutter_nv (c : Nat) (x : Gutter) : (d.setGutter c x).nv = d.nv := rfl
@[simp] theorem Dev.setGutter_board (c : Nat) (x : Gutter) : (d.setGutter c x).board = d.board := rfl
@[simp] theorem Dev.setGutter_boot (c : Nat) (x : Gutter) : (d.setGutter c x).boot = d.boot := rfl
@[simp] theorem Dev.setGutter_srv (c : Nat) (x : Gutter) : (d.setGutter c x).srv = d.srv := rfl
@[simp] theorem Dev.setGutter_bays (c : Nat) (x : Gutter) : (d.setGutter c x).bays = d.bays := rfl
@[simp] theorem Dev.setGutter_link (c : Nat) (x : Gutter) : (d.setGutter c x).link = d.link := rfl
@[simp] theorem Dev.setGutter_pages (c : Nat) (x : Gutter) : (d.setGutter c x).pages = d.pages := rfl
@[simp] theorem Dev.setGutter_shadows (c : Nat) (x : Gutter) : (d.setGutter c x).shadows = d.shadows := rfl
@[simp] theorem Dev.setGutter_trans (c : Nat) (x : Gutter) : (d.setGutter c x).trans = d.trans := rfl
@[simp] theorem Dev.setGutter_ridge (c : Nat) (x : Gutter) : (d.setGutter c x).ridge = d.ridge := rfl
@[simp] theorem Dev.setGutter_spars (c : Nat) (x : Gutter) : (d.setGutter c x).spars = d.spars := rfl
@[simp] theorem Dev.setGutter_queues (c : Nat) (x : Gutter) : (d.setGutter c x).queues = d.queues := rfl
@[simp] theorem Dev.setGutter_courses (c : Nat) (x : Gutter) : (d.setGutter c x).courses = d.courses := rfl
@[simp] theorem Dev.setGutter_arbs (c : Nat) (x : Gutter) : (d.setGutter c x).arbs = d.arbs := rfl
@[simp] theorem Dev.setGutter_chains (c : Nat) (x : Gutter) : (d.setGutter c x).chains = d.chains := rfl
@[simp] theorem Dev.setGutter_prepared (c : Nat) (x : Gutter) : (d.setGutter c x).prepared = d.prepared := rfl
@[simp] theorem Dev.setGutter_released (c : Nat) (x : Gutter) : (d.setGutter c x).released = d.released := rfl
@[simp] theorem Dev.setGutter_cores (c : Nat) (x : Gutter) : (d.setGutter c x).cores = d.cores := rfl
@[simp] theorem Dev.setGutter_runs (c : Nat) (x : Gutter) : (d.setGutter c x).runs = d.runs := rfl
@[simp] theorem Dev.setGutter_nextRun (c : Nat) (x : Gutter) : (d.setGutter c x).nextRun = d.nextRun := rfl
@[simp] theorem Dev.setGutter_engines (c : Nat) (x : Gutter) : (d.setGutter c x).engines = d.engines := rfl
@[simp] theorem Dev.setGutter_arrays (c : Nat) (x : Gutter) : (d.setGutter c x).arrays = d.arrays := rfl
@[simp] theorem Dev.setGutter_tasks (c : Nat) (x : Gutter) : (d.setGutter c x).tasks = d.tasks := rfl
@[simp] theorem Dev.setGutter_journals (c : Nat) (x : Gutter) : (d.setGutter c x).journals = d.journals := rfl
@[simp] theorem Dev.setGutter_jseq (c : Nat) (x : Gutter) : (d.setGutter c x).jseq = d.jseq := rfl
@[simp] theorem Dev.setGutter_jtick (c : Nat) (x : Gutter) : (d.setGutter c x).jtick = d.jtick := rfl
@[simp] theorem Dev.setGutter_nonce (c : Nat) (x : Gutter) : (d.setGutter c x).nonce = d.nonce := rfl
@[simp] theorem Dev.setGutter_fabric (c : Nat) (x : Gutter) : (d.setGutter c x).fabric = d.fabric := rfl
@[simp] theorem Dev.setGutter_regions (c : Nat) (x : Gutter) : (d.setGutter c x).regions = d.regions := rfl
@[simp] theorem Dev.setGutter_qps (c : Nat) (x : Gutter) : (d.setGutter c x).qps = d.qps := rfl
@[simp] theorem Dev.setGutter_places (c : Nat) (x : Gutter) : (d.setGutter c x).places = d.places := rfl
@[simp] theorem Dev.setGutter_nextPlace (c : Nat) (x : Gutter) : (d.setGutter c x).nextPlace = d.nextPlace := rfl
@[simp] theorem Dev.setGutter_loops (c : Nat) (x : Gutter) : (d.setGutter c x).loops = d.loops := rfl
@[simp] theorem Dev.setGutter_flog (c : Nat) (x : Gutter) : (d.setGutter c x).flog = d.flog := rfl
@[simp] theorem Dev.setGutter_flogSeq (c : Nat) (x : Gutter) : (d.setGutter c x).flogSeq = d.flogSeq := rfl
@[simp] theorem Dev.setGutter_ckpts (c : Nat) (x : Gutter) : (d.setGutter c x).ckpts = d.ckpts := rfl
@[simp] theorem Dev.setGutter_out (c : Nat) (x : Gutter) : (d.setGutter c x).out = d.out := rfl
@[simp] theorem Dev.setGutter_free (c : Nat) (x : Gutter) : (d.setGutter c x).free = d.free := rfl
@[simp] theorem Dev.setGutter_ahead (c : Nat) (x : Gutter) : (d.setGutter c x).ahead = d.ahead := rfl
@[simp] theorem Dev.setGutter_signerFailed (c : Nat) (x : Gutter) : (d.setGutter c x).signerFailed = d.signerFailed := rfl
@[simp] theorem Dev.setGutter_faults (c : Nat) (x : Gutter) : (d.setGutter c x).faults = d.faults := rfl
@[simp] theorem Dev.setGutter_stores (c : Nat) (x : Gutter) : (d.setGutter c x).stores = d.stores := rfl
@[simp] theorem Dev.setCourse_nv (c : Nat) (x : Course) : (d.setCourse c x).nv = d.nv := rfl
@[simp] theorem Dev.setCourse_board (c : Nat) (x : Course) : (d.setCourse c x).board = d.board := rfl
@[simp] theorem Dev.setCourse_boot (c : Nat) (x : Course) : (d.setCourse c x).boot = d.boot := rfl
@[simp] theorem Dev.setCourse_srv (c : Nat) (x : Course) : (d.setCourse c x).srv = d.srv := rfl
@[simp] theorem Dev.setCourse_bays (c : Nat) (x : Course) : (d.setCourse c x).bays = d.bays := rfl
@[simp] theorem Dev.setCourse_link (c : Nat) (x : Course) : (d.setCourse c x).link = d.link := rfl
@[simp] theorem Dev.setCourse_pages (c : Nat) (x : Course) : (d.setCourse c x).pages = d.pages := rfl
@[simp] theorem Dev.setCourse_shadows (c : Nat) (x : Course) : (d.setCourse c x).shadows = d.shadows := rfl
@[simp] theorem Dev.setCourse_trans (c : Nat) (x : Course) : (d.setCourse c x).trans = d.trans := rfl
@[simp] theorem Dev.setCourse_ridge (c : Nat) (x : Course) : (d.setCourse c x).ridge = d.ridge := rfl
@[simp] theorem Dev.setCourse_spars (c : Nat) (x : Course) : (d.setCourse c x).spars = d.spars := rfl
@[simp] theorem Dev.setCourse_queues (c : Nat) (x : Course) : (d.setCourse c x).queues = d.queues := rfl
@[simp] theorem Dev.setCourse_gutters (c : Nat) (x : Course) : (d.setCourse c x).gutters = d.gutters := rfl
@[simp] theorem Dev.setCourse_arbs (c : Nat) (x : Course) : (d.setCourse c x).arbs = d.arbs := rfl
@[simp] theorem Dev.setCourse_chains (c : Nat) (x : Course) : (d.setCourse c x).chains = d.chains := rfl
@[simp] theorem Dev.setCourse_prepared (c : Nat) (x : Course) : (d.setCourse c x).prepared = d.prepared := rfl
@[simp] theorem Dev.setCourse_released (c : Nat) (x : Course) : (d.setCourse c x).released = d.released := rfl
@[simp] theorem Dev.setCourse_cores (c : Nat) (x : Course) : (d.setCourse c x).cores = d.cores := rfl
@[simp] theorem Dev.setCourse_runs (c : Nat) (x : Course) : (d.setCourse c x).runs = d.runs := rfl
@[simp] theorem Dev.setCourse_nextRun (c : Nat) (x : Course) : (d.setCourse c x).nextRun = d.nextRun := rfl
@[simp] theorem Dev.setCourse_engines (c : Nat) (x : Course) : (d.setCourse c x).engines = d.engines := rfl
@[simp] theorem Dev.setCourse_arrays (c : Nat) (x : Course) : (d.setCourse c x).arrays = d.arrays := rfl
@[simp] theorem Dev.setCourse_tasks (c : Nat) (x : Course) : (d.setCourse c x).tasks = d.tasks := rfl
@[simp] theorem Dev.setCourse_journals (c : Nat) (x : Course) : (d.setCourse c x).journals = d.journals := rfl
@[simp] theorem Dev.setCourse_jseq (c : Nat) (x : Course) : (d.setCourse c x).jseq = d.jseq := rfl
@[simp] theorem Dev.setCourse_jtick (c : Nat) (x : Course) : (d.setCourse c x).jtick = d.jtick := rfl
@[simp] theorem Dev.setCourse_nonce (c : Nat) (x : Course) : (d.setCourse c x).nonce = d.nonce := rfl
@[simp] theorem Dev.setCourse_fabric (c : Nat) (x : Course) : (d.setCourse c x).fabric = d.fabric := rfl
@[simp] theorem Dev.setCourse_regions (c : Nat) (x : Course) : (d.setCourse c x).regions = d.regions := rfl
@[simp] theorem Dev.setCourse_qps (c : Nat) (x : Course) : (d.setCourse c x).qps = d.qps := rfl
@[simp] theorem Dev.setCourse_places (c : Nat) (x : Course) : (d.setCourse c x).places = d.places := rfl
@[simp] theorem Dev.setCourse_nextPlace (c : Nat) (x : Course) : (d.setCourse c x).nextPlace = d.nextPlace := rfl
@[simp] theorem Dev.setCourse_loops (c : Nat) (x : Course) : (d.setCourse c x).loops = d.loops := rfl
@[simp] theorem Dev.setCourse_flog (c : Nat) (x : Course) : (d.setCourse c x).flog = d.flog := rfl
@[simp] theorem Dev.setCourse_flogSeq (c : Nat) (x : Course) : (d.setCourse c x).flogSeq = d.flogSeq := rfl
@[simp] theorem Dev.setCourse_ckpts (c : Nat) (x : Course) : (d.setCourse c x).ckpts = d.ckpts := rfl
@[simp] theorem Dev.setCourse_out (c : Nat) (x : Course) : (d.setCourse c x).out = d.out := rfl
@[simp] theorem Dev.setCourse_free (c : Nat) (x : Course) : (d.setCourse c x).free = d.free := rfl
@[simp] theorem Dev.setCourse_ahead (c : Nat) (x : Course) : (d.setCourse c x).ahead = d.ahead := rfl
@[simp] theorem Dev.setCourse_signerFailed (c : Nat) (x : Course) : (d.setCourse c x).signerFailed = d.signerFailed := rfl
@[simp] theorem Dev.setCourse_faults (c : Nat) (x : Course) : (d.setCourse c x).faults = d.faults := rfl
@[simp] theorem Dev.setCourse_stores (c : Nat) (x : Course) : (d.setCourse c x).stores = d.stores := rfl
@[simp] theorem Dev.setArb_nv (r : Nat) (x : Arb) : (d.setArb r x).nv = d.nv := rfl
@[simp] theorem Dev.setArb_board (r : Nat) (x : Arb) : (d.setArb r x).board = d.board := rfl
@[simp] theorem Dev.setArb_boot (r : Nat) (x : Arb) : (d.setArb r x).boot = d.boot := rfl
@[simp] theorem Dev.setArb_srv (r : Nat) (x : Arb) : (d.setArb r x).srv = d.srv := rfl
@[simp] theorem Dev.setArb_bays (r : Nat) (x : Arb) : (d.setArb r x).bays = d.bays := rfl
@[simp] theorem Dev.setArb_link (r : Nat) (x : Arb) : (d.setArb r x).link = d.link := rfl
@[simp] theorem Dev.setArb_pages (r : Nat) (x : Arb) : (d.setArb r x).pages = d.pages := rfl
@[simp] theorem Dev.setArb_shadows (r : Nat) (x : Arb) : (d.setArb r x).shadows = d.shadows := rfl
@[simp] theorem Dev.setArb_trans (r : Nat) (x : Arb) : (d.setArb r x).trans = d.trans := rfl
@[simp] theorem Dev.setArb_ridge (r : Nat) (x : Arb) : (d.setArb r x).ridge = d.ridge := rfl
@[simp] theorem Dev.setArb_spars (r : Nat) (x : Arb) : (d.setArb r x).spars = d.spars := rfl
@[simp] theorem Dev.setArb_queues (r : Nat) (x : Arb) : (d.setArb r x).queues = d.queues := rfl
@[simp] theorem Dev.setArb_gutters (r : Nat) (x : Arb) : (d.setArb r x).gutters = d.gutters := rfl
@[simp] theorem Dev.setArb_courses (r : Nat) (x : Arb) : (d.setArb r x).courses = d.courses := rfl
@[simp] theorem Dev.setArb_chains (r : Nat) (x : Arb) : (d.setArb r x).chains = d.chains := rfl
@[simp] theorem Dev.setArb_prepared (r : Nat) (x : Arb) : (d.setArb r x).prepared = d.prepared := rfl
@[simp] theorem Dev.setArb_released (r : Nat) (x : Arb) : (d.setArb r x).released = d.released := rfl
@[simp] theorem Dev.setArb_cores (r : Nat) (x : Arb) : (d.setArb r x).cores = d.cores := rfl
@[simp] theorem Dev.setArb_runs (r : Nat) (x : Arb) : (d.setArb r x).runs = d.runs := rfl
@[simp] theorem Dev.setArb_nextRun (r : Nat) (x : Arb) : (d.setArb r x).nextRun = d.nextRun := rfl
@[simp] theorem Dev.setArb_engines (r : Nat) (x : Arb) : (d.setArb r x).engines = d.engines := rfl
@[simp] theorem Dev.setArb_arrays (r : Nat) (x : Arb) : (d.setArb r x).arrays = d.arrays := rfl
@[simp] theorem Dev.setArb_tasks (r : Nat) (x : Arb) : (d.setArb r x).tasks = d.tasks := rfl
@[simp] theorem Dev.setArb_journals (r : Nat) (x : Arb) : (d.setArb r x).journals = d.journals := rfl
@[simp] theorem Dev.setArb_jseq (r : Nat) (x : Arb) : (d.setArb r x).jseq = d.jseq := rfl
@[simp] theorem Dev.setArb_jtick (r : Nat) (x : Arb) : (d.setArb r x).jtick = d.jtick := rfl
@[simp] theorem Dev.setArb_nonce (r : Nat) (x : Arb) : (d.setArb r x).nonce = d.nonce := rfl
@[simp] theorem Dev.setArb_fabric (r : Nat) (x : Arb) : (d.setArb r x).fabric = d.fabric := rfl
@[simp] theorem Dev.setArb_regions (r : Nat) (x : Arb) : (d.setArb r x).regions = d.regions := rfl
@[simp] theorem Dev.setArb_qps (r : Nat) (x : Arb) : (d.setArb r x).qps = d.qps := rfl
@[simp] theorem Dev.setArb_places (r : Nat) (x : Arb) : (d.setArb r x).places = d.places := rfl
@[simp] theorem Dev.setArb_nextPlace (r : Nat) (x : Arb) : (d.setArb r x).nextPlace = d.nextPlace := rfl
@[simp] theorem Dev.setArb_loops (r : Nat) (x : Arb) : (d.setArb r x).loops = d.loops := rfl
@[simp] theorem Dev.setArb_flog (r : Nat) (x : Arb) : (d.setArb r x).flog = d.flog := rfl
@[simp] theorem Dev.setArb_flogSeq (r : Nat) (x : Arb) : (d.setArb r x).flogSeq = d.flogSeq := rfl
@[simp] theorem Dev.setArb_ckpts (r : Nat) (x : Arb) : (d.setArb r x).ckpts = d.ckpts := rfl
@[simp] theorem Dev.setArb_out (r : Nat) (x : Arb) : (d.setArb r x).out = d.out := rfl
@[simp] theorem Dev.setArb_free (r : Nat) (x : Arb) : (d.setArb r x).free = d.free := rfl
@[simp] theorem Dev.setArb_ahead (r : Nat) (x : Arb) : (d.setArb r x).ahead = d.ahead := rfl
@[simp] theorem Dev.setArb_signerFailed (r : Nat) (x : Arb) : (d.setArb r x).signerFailed = d.signerFailed := rfl
@[simp] theorem Dev.setArb_faults (r : Nat) (x : Arb) : (d.setArb r x).faults = d.faults := rfl
@[simp] theorem Dev.setArb_stores (r : Nat) (x : Arb) : (d.setArb r x).stores = d.stores := rfl
@[simp] theorem Dev.setCore_nv (c : Nat) (x : Core) : (d.setCore c x).nv = d.nv := rfl
@[simp] theorem Dev.setCore_board (c : Nat) (x : Core) : (d.setCore c x).board = d.board := rfl
@[simp] theorem Dev.setCore_boot (c : Nat) (x : Core) : (d.setCore c x).boot = d.boot := rfl
@[simp] theorem Dev.setCore_srv (c : Nat) (x : Core) : (d.setCore c x).srv = d.srv := rfl
@[simp] theorem Dev.setCore_bays (c : Nat) (x : Core) : (d.setCore c x).bays = d.bays := rfl
@[simp] theorem Dev.setCore_link (c : Nat) (x : Core) : (d.setCore c x).link = d.link := rfl
@[simp] theorem Dev.setCore_pages (c : Nat) (x : Core) : (d.setCore c x).pages = d.pages := rfl
@[simp] theorem Dev.setCore_shadows (c : Nat) (x : Core) : (d.setCore c x).shadows = d.shadows := rfl
@[simp] theorem Dev.setCore_trans (c : Nat) (x : Core) : (d.setCore c x).trans = d.trans := rfl
@[simp] theorem Dev.setCore_ridge (c : Nat) (x : Core) : (d.setCore c x).ridge = d.ridge := rfl
@[simp] theorem Dev.setCore_spars (c : Nat) (x : Core) : (d.setCore c x).spars = d.spars := rfl
@[simp] theorem Dev.setCore_queues (c : Nat) (x : Core) : (d.setCore c x).queues = d.queues := rfl
@[simp] theorem Dev.setCore_gutters (c : Nat) (x : Core) : (d.setCore c x).gutters = d.gutters := rfl
@[simp] theorem Dev.setCore_courses (c : Nat) (x : Core) : (d.setCore c x).courses = d.courses := rfl
@[simp] theorem Dev.setCore_arbs (c : Nat) (x : Core) : (d.setCore c x).arbs = d.arbs := rfl
@[simp] theorem Dev.setCore_chains (c : Nat) (x : Core) : (d.setCore c x).chains = d.chains := rfl
@[simp] theorem Dev.setCore_prepared (c : Nat) (x : Core) : (d.setCore c x).prepared = d.prepared := rfl
@[simp] theorem Dev.setCore_released (c : Nat) (x : Core) : (d.setCore c x).released = d.released := rfl
@[simp] theorem Dev.setCore_runs (c : Nat) (x : Core) : (d.setCore c x).runs = d.runs := rfl
@[simp] theorem Dev.setCore_nextRun (c : Nat) (x : Core) : (d.setCore c x).nextRun = d.nextRun := rfl
@[simp] theorem Dev.setCore_engines (c : Nat) (x : Core) : (d.setCore c x).engines = d.engines := rfl
@[simp] theorem Dev.setCore_arrays (c : Nat) (x : Core) : (d.setCore c x).arrays = d.arrays := rfl
@[simp] theorem Dev.setCore_tasks (c : Nat) (x : Core) : (d.setCore c x).tasks = d.tasks := rfl
@[simp] theorem Dev.setCore_journals (c : Nat) (x : Core) : (d.setCore c x).journals = d.journals := rfl
@[simp] theorem Dev.setCore_jseq (c : Nat) (x : Core) : (d.setCore c x).jseq = d.jseq := rfl
@[simp] theorem Dev.setCore_jtick (c : Nat) (x : Core) : (d.setCore c x).jtick = d.jtick := rfl
@[simp] theorem Dev.setCore_nonce (c : Nat) (x : Core) : (d.setCore c x).nonce = d.nonce := rfl
@[simp] theorem Dev.setCore_fabric (c : Nat) (x : Core) : (d.setCore c x).fabric = d.fabric := rfl
@[simp] theorem Dev.setCore_regions (c : Nat) (x : Core) : (d.setCore c x).regions = d.regions := rfl
@[simp] theorem Dev.setCore_qps (c : Nat) (x : Core) : (d.setCore c x).qps = d.qps := rfl
@[simp] theorem Dev.setCore_places (c : Nat) (x : Core) : (d.setCore c x).places = d.places := rfl
@[simp] theorem Dev.setCore_nextPlace (c : Nat) (x : Core) : (d.setCore c x).nextPlace = d.nextPlace := rfl
@[simp] theorem Dev.setCore_loops (c : Nat) (x : Core) : (d.setCore c x).loops = d.loops := rfl
@[simp] theorem Dev.setCore_flog (c : Nat) (x : Core) : (d.setCore c x).flog = d.flog := rfl
@[simp] theorem Dev.setCore_flogSeq (c : Nat) (x : Core) : (d.setCore c x).flogSeq = d.flogSeq := rfl
@[simp] theorem Dev.setCore_ckpts (c : Nat) (x : Core) : (d.setCore c x).ckpts = d.ckpts := rfl
@[simp] theorem Dev.setCore_out (c : Nat) (x : Core) : (d.setCore c x).out = d.out := rfl
@[simp] theorem Dev.setCore_free (c : Nat) (x : Core) : (d.setCore c x).free = d.free := rfl
@[simp] theorem Dev.setCore_ahead (c : Nat) (x : Core) : (d.setCore c x).ahead = d.ahead := rfl
@[simp] theorem Dev.setCore_signerFailed (c : Nat) (x : Core) : (d.setCore c x).signerFailed = d.signerFailed := rfl
@[simp] theorem Dev.setCore_faults (c : Nat) (x : Core) : (d.setCore c x).faults = d.faults := rfl
@[simp] theorem Dev.setCore_stores (c : Nat) (x : Core) : (d.setCore c x).stores = d.stores := rfl
@[simp] theorem Dev.setEngine_nv (g : Nat) (x : Engine) : (d.setEngine g x).nv = d.nv := rfl
@[simp] theorem Dev.setEngine_board (g : Nat) (x : Engine) : (d.setEngine g x).board = d.board := rfl
@[simp] theorem Dev.setEngine_boot (g : Nat) (x : Engine) : (d.setEngine g x).boot = d.boot := rfl
@[simp] theorem Dev.setEngine_srv (g : Nat) (x : Engine) : (d.setEngine g x).srv = d.srv := rfl
@[simp] theorem Dev.setEngine_bays (g : Nat) (x : Engine) : (d.setEngine g x).bays = d.bays := rfl
@[simp] theorem Dev.setEngine_link (g : Nat) (x : Engine) : (d.setEngine g x).link = d.link := rfl
@[simp] theorem Dev.setEngine_pages (g : Nat) (x : Engine) : (d.setEngine g x).pages = d.pages := rfl
@[simp] theorem Dev.setEngine_shadows (g : Nat) (x : Engine) : (d.setEngine g x).shadows = d.shadows := rfl
@[simp] theorem Dev.setEngine_trans (g : Nat) (x : Engine) : (d.setEngine g x).trans = d.trans := rfl
@[simp] theorem Dev.setEngine_ridge (g : Nat) (x : Engine) : (d.setEngine g x).ridge = d.ridge := rfl
@[simp] theorem Dev.setEngine_spars (g : Nat) (x : Engine) : (d.setEngine g x).spars = d.spars := rfl
@[simp] theorem Dev.setEngine_queues (g : Nat) (x : Engine) : (d.setEngine g x).queues = d.queues := rfl
@[simp] theorem Dev.setEngine_gutters (g : Nat) (x : Engine) : (d.setEngine g x).gutters = d.gutters := rfl
@[simp] theorem Dev.setEngine_courses (g : Nat) (x : Engine) : (d.setEngine g x).courses = d.courses := rfl
@[simp] theorem Dev.setEngine_arbs (g : Nat) (x : Engine) : (d.setEngine g x).arbs = d.arbs := rfl
@[simp] theorem Dev.setEngine_chains (g : Nat) (x : Engine) : (d.setEngine g x).chains = d.chains := rfl
@[simp] theorem Dev.setEngine_prepared (g : Nat) (x : Engine) : (d.setEngine g x).prepared = d.prepared := rfl
@[simp] theorem Dev.setEngine_released (g : Nat) (x : Engine) : (d.setEngine g x).released = d.released := rfl
@[simp] theorem Dev.setEngine_cores (g : Nat) (x : Engine) : (d.setEngine g x).cores = d.cores := rfl
@[simp] theorem Dev.setEngine_runs (g : Nat) (x : Engine) : (d.setEngine g x).runs = d.runs := rfl
@[simp] theorem Dev.setEngine_nextRun (g : Nat) (x : Engine) : (d.setEngine g x).nextRun = d.nextRun := rfl
@[simp] theorem Dev.setEngine_arrays (g : Nat) (x : Engine) : (d.setEngine g x).arrays = d.arrays := rfl
@[simp] theorem Dev.setEngine_tasks (g : Nat) (x : Engine) : (d.setEngine g x).tasks = d.tasks := rfl
@[simp] theorem Dev.setEngine_journals (g : Nat) (x : Engine) : (d.setEngine g x).journals = d.journals := rfl
@[simp] theorem Dev.setEngine_jseq (g : Nat) (x : Engine) : (d.setEngine g x).jseq = d.jseq := rfl
@[simp] theorem Dev.setEngine_jtick (g : Nat) (x : Engine) : (d.setEngine g x).jtick = d.jtick := rfl
@[simp] theorem Dev.setEngine_nonce (g : Nat) (x : Engine) : (d.setEngine g x).nonce = d.nonce := rfl
@[simp] theorem Dev.setEngine_fabric (g : Nat) (x : Engine) : (d.setEngine g x).fabric = d.fabric := rfl
@[simp] theorem Dev.setEngine_regions (g : Nat) (x : Engine) : (d.setEngine g x).regions = d.regions := rfl
@[simp] theorem Dev.setEngine_qps (g : Nat) (x : Engine) : (d.setEngine g x).qps = d.qps := rfl
@[simp] theorem Dev.setEngine_places (g : Nat) (x : Engine) : (d.setEngine g x).places = d.places := rfl
@[simp] theorem Dev.setEngine_nextPlace (g : Nat) (x : Engine) : (d.setEngine g x).nextPlace = d.nextPlace := rfl
@[simp] theorem Dev.setEngine_loops (g : Nat) (x : Engine) : (d.setEngine g x).loops = d.loops := rfl
@[simp] theorem Dev.setEngine_flog (g : Nat) (x : Engine) : (d.setEngine g x).flog = d.flog := rfl
@[simp] theorem Dev.setEngine_flogSeq (g : Nat) (x : Engine) : (d.setEngine g x).flogSeq = d.flogSeq := rfl
@[simp] theorem Dev.setEngine_ckpts (g : Nat) (x : Engine) : (d.setEngine g x).ckpts = d.ckpts := rfl
@[simp] theorem Dev.setEngine_out (g : Nat) (x : Engine) : (d.setEngine g x).out = d.out := rfl
@[simp] theorem Dev.setEngine_free (g : Nat) (x : Engine) : (d.setEngine g x).free = d.free := rfl
@[simp] theorem Dev.setEngine_ahead (g : Nat) (x : Engine) : (d.setEngine g x).ahead = d.ahead := rfl
@[simp] theorem Dev.setEngine_signerFailed (g : Nat) (x : Engine) : (d.setEngine g x).signerFailed = d.signerFailed := rfl
@[simp] theorem Dev.setEngine_faults (g : Nat) (x : Engine) : (d.setEngine g x).faults = d.faults := rfl
@[simp] theorem Dev.setEngine_stores (g : Nat) (x : Engine) : (d.setEngine g x).stores = d.stores := rfl
@[simp] theorem Dev.setArr_nv (a : Nat) (x : Arr) : (d.setArr a x).nv = d.nv := rfl
@[simp] theorem Dev.setArr_board (a : Nat) (x : Arr) : (d.setArr a x).board = d.board := rfl
@[simp] theorem Dev.setArr_boot (a : Nat) (x : Arr) : (d.setArr a x).boot = d.boot := rfl
@[simp] theorem Dev.setArr_srv (a : Nat) (x : Arr) : (d.setArr a x).srv = d.srv := rfl
@[simp] theorem Dev.setArr_bays (a : Nat) (x : Arr) : (d.setArr a x).bays = d.bays := rfl
@[simp] theorem Dev.setArr_link (a : Nat) (x : Arr) : (d.setArr a x).link = d.link := rfl
@[simp] theorem Dev.setArr_pages (a : Nat) (x : Arr) : (d.setArr a x).pages = d.pages := rfl
@[simp] theorem Dev.setArr_shadows (a : Nat) (x : Arr) : (d.setArr a x).shadows = d.shadows := rfl
@[simp] theorem Dev.setArr_trans (a : Nat) (x : Arr) : (d.setArr a x).trans = d.trans := rfl
@[simp] theorem Dev.setArr_ridge (a : Nat) (x : Arr) : (d.setArr a x).ridge = d.ridge := rfl
@[simp] theorem Dev.setArr_spars (a : Nat) (x : Arr) : (d.setArr a x).spars = d.spars := rfl
@[simp] theorem Dev.setArr_queues (a : Nat) (x : Arr) : (d.setArr a x).queues = d.queues := rfl
@[simp] theorem Dev.setArr_gutters (a : Nat) (x : Arr) : (d.setArr a x).gutters = d.gutters := rfl
@[simp] theorem Dev.setArr_courses (a : Nat) (x : Arr) : (d.setArr a x).courses = d.courses := rfl
@[simp] theorem Dev.setArr_arbs (a : Nat) (x : Arr) : (d.setArr a x).arbs = d.arbs := rfl
@[simp] theorem Dev.setArr_chains (a : Nat) (x : Arr) : (d.setArr a x).chains = d.chains := rfl
@[simp] theorem Dev.setArr_prepared (a : Nat) (x : Arr) : (d.setArr a x).prepared = d.prepared := rfl
@[simp] theorem Dev.setArr_released (a : Nat) (x : Arr) : (d.setArr a x).released = d.released := rfl
@[simp] theorem Dev.setArr_cores (a : Nat) (x : Arr) : (d.setArr a x).cores = d.cores := rfl
@[simp] theorem Dev.setArr_runs (a : Nat) (x : Arr) : (d.setArr a x).runs = d.runs := rfl
@[simp] theorem Dev.setArr_nextRun (a : Nat) (x : Arr) : (d.setArr a x).nextRun = d.nextRun := rfl
@[simp] theorem Dev.setArr_engines (a : Nat) (x : Arr) : (d.setArr a x).engines = d.engines := rfl
@[simp] theorem Dev.setArr_tasks (a : Nat) (x : Arr) : (d.setArr a x).tasks = d.tasks := rfl
@[simp] theorem Dev.setArr_journals (a : Nat) (x : Arr) : (d.setArr a x).journals = d.journals := rfl
@[simp] theorem Dev.setArr_jseq (a : Nat) (x : Arr) : (d.setArr a x).jseq = d.jseq := rfl
@[simp] theorem Dev.setArr_jtick (a : Nat) (x : Arr) : (d.setArr a x).jtick = d.jtick := rfl
@[simp] theorem Dev.setArr_nonce (a : Nat) (x : Arr) : (d.setArr a x).nonce = d.nonce := rfl
@[simp] theorem Dev.setArr_fabric (a : Nat) (x : Arr) : (d.setArr a x).fabric = d.fabric := rfl
@[simp] theorem Dev.setArr_regions (a : Nat) (x : Arr) : (d.setArr a x).regions = d.regions := rfl
@[simp] theorem Dev.setArr_qps (a : Nat) (x : Arr) : (d.setArr a x).qps = d.qps := rfl
@[simp] theorem Dev.setArr_places (a : Nat) (x : Arr) : (d.setArr a x).places = d.places := rfl
@[simp] theorem Dev.setArr_nextPlace (a : Nat) (x : Arr) : (d.setArr a x).nextPlace = d.nextPlace := rfl
@[simp] theorem Dev.setArr_loops (a : Nat) (x : Arr) : (d.setArr a x).loops = d.loops := rfl
@[simp] theorem Dev.setArr_flog (a : Nat) (x : Arr) : (d.setArr a x).flog = d.flog := rfl
@[simp] theorem Dev.setArr_flogSeq (a : Nat) (x : Arr) : (d.setArr a x).flogSeq = d.flogSeq := rfl
@[simp] theorem Dev.setArr_ckpts (a : Nat) (x : Arr) : (d.setArr a x).ckpts = d.ckpts := rfl
@[simp] theorem Dev.setArr_out (a : Nat) (x : Arr) : (d.setArr a x).out = d.out := rfl
@[simp] theorem Dev.setArr_free (a : Nat) (x : Arr) : (d.setArr a x).free = d.free := rfl
@[simp] theorem Dev.setArr_ahead (a : Nat) (x : Arr) : (d.setArr a x).ahead = d.ahead := rfl
@[simp] theorem Dev.setArr_signerFailed (a : Nat) (x : Arr) : (d.setArr a x).signerFailed = d.signerFailed := rfl
@[simp] theorem Dev.setArr_faults (a : Nat) (x : Arr) : (d.setArr a x).faults = d.faults := rfl
@[simp] theorem Dev.setArr_stores (a : Nat) (x : Arr) : (d.setArr a x).stores = d.stores := rfl
@[simp] theorem Dev.setJour_nv (n : Nat) (x : Journal) : (d.setJour n x).nv = d.nv := rfl
@[simp] theorem Dev.setJour_board (n : Nat) (x : Journal) : (d.setJour n x).board = d.board := rfl
@[simp] theorem Dev.setJour_boot (n : Nat) (x : Journal) : (d.setJour n x).boot = d.boot := rfl
@[simp] theorem Dev.setJour_srv (n : Nat) (x : Journal) : (d.setJour n x).srv = d.srv := rfl
@[simp] theorem Dev.setJour_bays (n : Nat) (x : Journal) : (d.setJour n x).bays = d.bays := rfl
@[simp] theorem Dev.setJour_link (n : Nat) (x : Journal) : (d.setJour n x).link = d.link := rfl
@[simp] theorem Dev.setJour_pages (n : Nat) (x : Journal) : (d.setJour n x).pages = d.pages := rfl
@[simp] theorem Dev.setJour_shadows (n : Nat) (x : Journal) : (d.setJour n x).shadows = d.shadows := rfl
@[simp] theorem Dev.setJour_trans (n : Nat) (x : Journal) : (d.setJour n x).trans = d.trans := rfl
@[simp] theorem Dev.setJour_ridge (n : Nat) (x : Journal) : (d.setJour n x).ridge = d.ridge := rfl
@[simp] theorem Dev.setJour_spars (n : Nat) (x : Journal) : (d.setJour n x).spars = d.spars := rfl
@[simp] theorem Dev.setJour_queues (n : Nat) (x : Journal) : (d.setJour n x).queues = d.queues := rfl
@[simp] theorem Dev.setJour_gutters (n : Nat) (x : Journal) : (d.setJour n x).gutters = d.gutters := rfl
@[simp] theorem Dev.setJour_courses (n : Nat) (x : Journal) : (d.setJour n x).courses = d.courses := rfl
@[simp] theorem Dev.setJour_arbs (n : Nat) (x : Journal) : (d.setJour n x).arbs = d.arbs := rfl
@[simp] theorem Dev.setJour_chains (n : Nat) (x : Journal) : (d.setJour n x).chains = d.chains := rfl
@[simp] theorem Dev.setJour_prepared (n : Nat) (x : Journal) : (d.setJour n x).prepared = d.prepared := rfl
@[simp] theorem Dev.setJour_released (n : Nat) (x : Journal) : (d.setJour n x).released = d.released := rfl
@[simp] theorem Dev.setJour_cores (n : Nat) (x : Journal) : (d.setJour n x).cores = d.cores := rfl
@[simp] theorem Dev.setJour_runs (n : Nat) (x : Journal) : (d.setJour n x).runs = d.runs := rfl
@[simp] theorem Dev.setJour_nextRun (n : Nat) (x : Journal) : (d.setJour n x).nextRun = d.nextRun := rfl
@[simp] theorem Dev.setJour_engines (n : Nat) (x : Journal) : (d.setJour n x).engines = d.engines := rfl
@[simp] theorem Dev.setJour_arrays (n : Nat) (x : Journal) : (d.setJour n x).arrays = d.arrays := rfl
@[simp] theorem Dev.setJour_tasks (n : Nat) (x : Journal) : (d.setJour n x).tasks = d.tasks := rfl
@[simp] theorem Dev.setJour_jseq (n : Nat) (x : Journal) : (d.setJour n x).jseq = d.jseq := rfl
@[simp] theorem Dev.setJour_jtick (n : Nat) (x : Journal) : (d.setJour n x).jtick = d.jtick := rfl
@[simp] theorem Dev.setJour_nonce (n : Nat) (x : Journal) : (d.setJour n x).nonce = d.nonce := rfl
@[simp] theorem Dev.setJour_fabric (n : Nat) (x : Journal) : (d.setJour n x).fabric = d.fabric := rfl
@[simp] theorem Dev.setJour_regions (n : Nat) (x : Journal) : (d.setJour n x).regions = d.regions := rfl
@[simp] theorem Dev.setJour_qps (n : Nat) (x : Journal) : (d.setJour n x).qps = d.qps := rfl
@[simp] theorem Dev.setJour_places (n : Nat) (x : Journal) : (d.setJour n x).places = d.places := rfl
@[simp] theorem Dev.setJour_nextPlace (n : Nat) (x : Journal) : (d.setJour n x).nextPlace = d.nextPlace := rfl
@[simp] theorem Dev.setJour_loops (n : Nat) (x : Journal) : (d.setJour n x).loops = d.loops := rfl
@[simp] theorem Dev.setJour_flog (n : Nat) (x : Journal) : (d.setJour n x).flog = d.flog := rfl
@[simp] theorem Dev.setJour_flogSeq (n : Nat) (x : Journal) : (d.setJour n x).flogSeq = d.flogSeq := rfl
@[simp] theorem Dev.setJour_ckpts (n : Nat) (x : Journal) : (d.setJour n x).ckpts = d.ckpts := rfl
@[simp] theorem Dev.setJour_out (n : Nat) (x : Journal) : (d.setJour n x).out = d.out := rfl
@[simp] theorem Dev.setJour_free (n : Nat) (x : Journal) : (d.setJour n x).free = d.free := rfl
@[simp] theorem Dev.setJour_ahead (n : Nat) (x : Journal) : (d.setJour n x).ahead = d.ahead := rfl
@[simp] theorem Dev.setJour_signerFailed (n : Nat) (x : Journal) : (d.setJour n x).signerFailed = d.signerFailed := rfl
@[simp] theorem Dev.setJour_faults (n : Nat) (x : Journal) : (d.setJour n x).faults = d.faults := rfl
@[simp] theorem Dev.setJour_stores (n : Nat) (x : Journal) : (d.setJour n x).stores = d.stores := rfl
@[simp] theorem Dev.setPort_nv (p : Nat) (x : Port) : (d.setPort p x).nv = d.nv := rfl
@[simp] theorem Dev.setPort_board (p : Nat) (x : Port) : (d.setPort p x).board = d.board := rfl
@[simp] theorem Dev.setPort_boot (p : Nat) (x : Port) : (d.setPort p x).boot = d.boot := rfl
@[simp] theorem Dev.setPort_srv (p : Nat) (x : Port) : (d.setPort p x).srv = d.srv := rfl
@[simp] theorem Dev.setPort_bays (p : Nat) (x : Port) : (d.setPort p x).bays = d.bays := rfl
@[simp] theorem Dev.setPort_link (p : Nat) (x : Port) : (d.setPort p x).link = d.link := rfl
@[simp] theorem Dev.setPort_pages (p : Nat) (x : Port) : (d.setPort p x).pages = d.pages := rfl
@[simp] theorem Dev.setPort_shadows (p : Nat) (x : Port) : (d.setPort p x).shadows = d.shadows := rfl
@[simp] theorem Dev.setPort_trans (p : Nat) (x : Port) : (d.setPort p x).trans = d.trans := rfl
@[simp] theorem Dev.setPort_ridge (p : Nat) (x : Port) : (d.setPort p x).ridge = d.ridge := rfl
@[simp] theorem Dev.setPort_spars (p : Nat) (x : Port) : (d.setPort p x).spars = d.spars := rfl
@[simp] theorem Dev.setPort_queues (p : Nat) (x : Port) : (d.setPort p x).queues = d.queues := rfl
@[simp] theorem Dev.setPort_gutters (p : Nat) (x : Port) : (d.setPort p x).gutters = d.gutters := rfl
@[simp] theorem Dev.setPort_courses (p : Nat) (x : Port) : (d.setPort p x).courses = d.courses := rfl
@[simp] theorem Dev.setPort_arbs (p : Nat) (x : Port) : (d.setPort p x).arbs = d.arbs := rfl
@[simp] theorem Dev.setPort_chains (p : Nat) (x : Port) : (d.setPort p x).chains = d.chains := rfl
@[simp] theorem Dev.setPort_prepared (p : Nat) (x : Port) : (d.setPort p x).prepared = d.prepared := rfl
@[simp] theorem Dev.setPort_released (p : Nat) (x : Port) : (d.setPort p x).released = d.released := rfl
@[simp] theorem Dev.setPort_cores (p : Nat) (x : Port) : (d.setPort p x).cores = d.cores := rfl
@[simp] theorem Dev.setPort_runs (p : Nat) (x : Port) : (d.setPort p x).runs = d.runs := rfl
@[simp] theorem Dev.setPort_nextRun (p : Nat) (x : Port) : (d.setPort p x).nextRun = d.nextRun := rfl
@[simp] theorem Dev.setPort_engines (p : Nat) (x : Port) : (d.setPort p x).engines = d.engines := rfl
@[simp] theorem Dev.setPort_arrays (p : Nat) (x : Port) : (d.setPort p x).arrays = d.arrays := rfl
@[simp] theorem Dev.setPort_tasks (p : Nat) (x : Port) : (d.setPort p x).tasks = d.tasks := rfl
@[simp] theorem Dev.setPort_journals (p : Nat) (x : Port) : (d.setPort p x).journals = d.journals := rfl
@[simp] theorem Dev.setPort_jseq (p : Nat) (x : Port) : (d.setPort p x).jseq = d.jseq := rfl
@[simp] theorem Dev.setPort_jtick (p : Nat) (x : Port) : (d.setPort p x).jtick = d.jtick := rfl
@[simp] theorem Dev.setPort_nonce (p : Nat) (x : Port) : (d.setPort p x).nonce = d.nonce := rfl
@[simp] theorem Dev.setPort_regions (p : Nat) (x : Port) : (d.setPort p x).regions = d.regions := rfl
@[simp] theorem Dev.setPort_qps (p : Nat) (x : Port) : (d.setPort p x).qps = d.qps := rfl
@[simp] theorem Dev.setPort_places (p : Nat) (x : Port) : (d.setPort p x).places = d.places := rfl
@[simp] theorem Dev.setPort_nextPlace (p : Nat) (x : Port) : (d.setPort p x).nextPlace = d.nextPlace := rfl
@[simp] theorem Dev.setPort_loops (p : Nat) (x : Port) : (d.setPort p x).loops = d.loops := rfl
@[simp] theorem Dev.setPort_flog (p : Nat) (x : Port) : (d.setPort p x).flog = d.flog := rfl
@[simp] theorem Dev.setPort_flogSeq (p : Nat) (x : Port) : (d.setPort p x).flogSeq = d.flogSeq := rfl
@[simp] theorem Dev.setPort_ckpts (p : Nat) (x : Port) : (d.setPort p x).ckpts = d.ckpts := rfl
@[simp] theorem Dev.setPort_out (p : Nat) (x : Port) : (d.setPort p x).out = d.out := rfl
@[simp] theorem Dev.setPort_free (p : Nat) (x : Port) : (d.setPort p x).free = d.free := rfl
@[simp] theorem Dev.setPort_ahead (p : Nat) (x : Port) : (d.setPort p x).ahead = d.ahead := rfl
@[simp] theorem Dev.setPort_signerFailed (p : Nat) (x : Port) : (d.setPort p x).signerFailed = d.signerFailed := rfl
@[simp] theorem Dev.setPort_faults (p : Nat) (x : Port) : (d.setPort p x).faults = d.faults := rfl
@[simp] theorem Dev.setPort_stores (p : Nat) (x : Port) : (d.setPort p x).stores = d.stores := rfl
@[simp] theorem Dev.setRegion_nv (n r : Nat) (x : Region) : (d.setRegion n r x).nv = d.nv := rfl
@[simp] theorem Dev.setRegion_board (n r : Nat) (x : Region) : (d.setRegion n r x).board = d.board := rfl
@[simp] theorem Dev.setRegion_boot (n r : Nat) (x : Region) : (d.setRegion n r x).boot = d.boot := rfl
@[simp] theorem Dev.setRegion_srv (n r : Nat) (x : Region) : (d.setRegion n r x).srv = d.srv := rfl
@[simp] theorem Dev.setRegion_bays (n r : Nat) (x : Region) : (d.setRegion n r x).bays = d.bays := rfl
@[simp] theorem Dev.setRegion_link (n r : Nat) (x : Region) : (d.setRegion n r x).link = d.link := rfl
@[simp] theorem Dev.setRegion_pages (n r : Nat) (x : Region) : (d.setRegion n r x).pages = d.pages := rfl
@[simp] theorem Dev.setRegion_shadows (n r : Nat) (x : Region) : (d.setRegion n r x).shadows = d.shadows := rfl
@[simp] theorem Dev.setRegion_trans (n r : Nat) (x : Region) : (d.setRegion n r x).trans = d.trans := rfl
@[simp] theorem Dev.setRegion_ridge (n r : Nat) (x : Region) : (d.setRegion n r x).ridge = d.ridge := rfl
@[simp] theorem Dev.setRegion_spars (n r : Nat) (x : Region) : (d.setRegion n r x).spars = d.spars := rfl
@[simp] theorem Dev.setRegion_queues (n r : Nat) (x : Region) : (d.setRegion n r x).queues = d.queues := rfl
@[simp] theorem Dev.setRegion_gutters (n r : Nat) (x : Region) : (d.setRegion n r x).gutters = d.gutters := rfl
@[simp] theorem Dev.setRegion_courses (n r : Nat) (x : Region) : (d.setRegion n r x).courses = d.courses := rfl
@[simp] theorem Dev.setRegion_arbs (n r : Nat) (x : Region) : (d.setRegion n r x).arbs = d.arbs := rfl
@[simp] theorem Dev.setRegion_chains (n r : Nat) (x : Region) : (d.setRegion n r x).chains = d.chains := rfl
@[simp] theorem Dev.setRegion_prepared (n r : Nat) (x : Region) : (d.setRegion n r x).prepared = d.prepared := rfl
@[simp] theorem Dev.setRegion_released (n r : Nat) (x : Region) : (d.setRegion n r x).released = d.released := rfl
@[simp] theorem Dev.setRegion_cores (n r : Nat) (x : Region) : (d.setRegion n r x).cores = d.cores := rfl
@[simp] theorem Dev.setRegion_runs (n r : Nat) (x : Region) : (d.setRegion n r x).runs = d.runs := rfl
@[simp] theorem Dev.setRegion_nextRun (n r : Nat) (x : Region) : (d.setRegion n r x).nextRun = d.nextRun := rfl
@[simp] theorem Dev.setRegion_engines (n r : Nat) (x : Region) : (d.setRegion n r x).engines = d.engines := rfl
@[simp] theorem Dev.setRegion_arrays (n r : Nat) (x : Region) : (d.setRegion n r x).arrays = d.arrays := rfl
@[simp] theorem Dev.setRegion_tasks (n r : Nat) (x : Region) : (d.setRegion n r x).tasks = d.tasks := rfl
@[simp] theorem Dev.setRegion_journals (n r : Nat) (x : Region) : (d.setRegion n r x).journals = d.journals := rfl
@[simp] theorem Dev.setRegion_jseq (n r : Nat) (x : Region) : (d.setRegion n r x).jseq = d.jseq := rfl
@[simp] theorem Dev.setRegion_jtick (n r : Nat) (x : Region) : (d.setRegion n r x).jtick = d.jtick := rfl
@[simp] theorem Dev.setRegion_nonce (n r : Nat) (x : Region) : (d.setRegion n r x).nonce = d.nonce := rfl
@[simp] theorem Dev.setRegion_fabric (n r : Nat) (x : Region) : (d.setRegion n r x).fabric = d.fabric := rfl
@[simp] theorem Dev.setRegion_qps (n r : Nat) (x : Region) : (d.setRegion n r x).qps = d.qps := rfl
@[simp] theorem Dev.setRegion_places (n r : Nat) (x : Region) : (d.setRegion n r x).places = d.places := rfl
@[simp] theorem Dev.setRegion_nextPlace (n r : Nat) (x : Region) : (d.setRegion n r x).nextPlace = d.nextPlace := rfl
@[simp] theorem Dev.setRegion_loops (n r : Nat) (x : Region) : (d.setRegion n r x).loops = d.loops := rfl
@[simp] theorem Dev.setRegion_flog (n r : Nat) (x : Region) : (d.setRegion n r x).flog = d.flog := rfl
@[simp] theorem Dev.setRegion_flogSeq (n r : Nat) (x : Region) : (d.setRegion n r x).flogSeq = d.flogSeq := rfl
@[simp] theorem Dev.setRegion_ckpts (n r : Nat) (x : Region) : (d.setRegion n r x).ckpts = d.ckpts := rfl
@[simp] theorem Dev.setRegion_out (n r : Nat) (x : Region) : (d.setRegion n r x).out = d.out := rfl
@[simp] theorem Dev.setRegion_free (n r : Nat) (x : Region) : (d.setRegion n r x).free = d.free := rfl
@[simp] theorem Dev.setRegion_ahead (n r : Nat) (x : Region) : (d.setRegion n r x).ahead = d.ahead := rfl
@[simp] theorem Dev.setRegion_signerFailed (n r : Nat) (x : Region) : (d.setRegion n r x).signerFailed = d.signerFailed := rfl
@[simp] theorem Dev.setRegion_faults (n r : Nat) (x : Region) : (d.setRegion n r x).faults = d.faults := rfl
@[simp] theorem Dev.setRegion_stores (n r : Nat) (x : Region) : (d.setRegion n r x).stores = d.stores := rfl
@[simp] theorem Dev.setQp_nv (n i : Nat) (x : Qp) : (d.setQp n i x).nv = d.nv := rfl
@[simp] theorem Dev.setQp_board (n i : Nat) (x : Qp) : (d.setQp n i x).board = d.board := rfl
@[simp] theorem Dev.setQp_boot (n i : Nat) (x : Qp) : (d.setQp n i x).boot = d.boot := rfl
@[simp] theorem Dev.setQp_srv (n i : Nat) (x : Qp) : (d.setQp n i x).srv = d.srv := rfl
@[simp] theorem Dev.setQp_bays (n i : Nat) (x : Qp) : (d.setQp n i x).bays = d.bays := rfl
@[simp] theorem Dev.setQp_link (n i : Nat) (x : Qp) : (d.setQp n i x).link = d.link := rfl
@[simp] theorem Dev.setQp_pages (n i : Nat) (x : Qp) : (d.setQp n i x).pages = d.pages := rfl
@[simp] theorem Dev.setQp_shadows (n i : Nat) (x : Qp) : (d.setQp n i x).shadows = d.shadows := rfl
@[simp] theorem Dev.setQp_trans (n i : Nat) (x : Qp) : (d.setQp n i x).trans = d.trans := rfl
@[simp] theorem Dev.setQp_ridge (n i : Nat) (x : Qp) : (d.setQp n i x).ridge = d.ridge := rfl
@[simp] theorem Dev.setQp_spars (n i : Nat) (x : Qp) : (d.setQp n i x).spars = d.spars := rfl
@[simp] theorem Dev.setQp_queues (n i : Nat) (x : Qp) : (d.setQp n i x).queues = d.queues := rfl
@[simp] theorem Dev.setQp_gutters (n i : Nat) (x : Qp) : (d.setQp n i x).gutters = d.gutters := rfl
@[simp] theorem Dev.setQp_courses (n i : Nat) (x : Qp) : (d.setQp n i x).courses = d.courses := rfl
@[simp] theorem Dev.setQp_arbs (n i : Nat) (x : Qp) : (d.setQp n i x).arbs = d.arbs := rfl
@[simp] theorem Dev.setQp_chains (n i : Nat) (x : Qp) : (d.setQp n i x).chains = d.chains := rfl
@[simp] theorem Dev.setQp_prepared (n i : Nat) (x : Qp) : (d.setQp n i x).prepared = d.prepared := rfl
@[simp] theorem Dev.setQp_released (n i : Nat) (x : Qp) : (d.setQp n i x).released = d.released := rfl
@[simp] theorem Dev.setQp_cores (n i : Nat) (x : Qp) : (d.setQp n i x).cores = d.cores := rfl
@[simp] theorem Dev.setQp_runs (n i : Nat) (x : Qp) : (d.setQp n i x).runs = d.runs := rfl
@[simp] theorem Dev.setQp_nextRun (n i : Nat) (x : Qp) : (d.setQp n i x).nextRun = d.nextRun := rfl
@[simp] theorem Dev.setQp_engines (n i : Nat) (x : Qp) : (d.setQp n i x).engines = d.engines := rfl
@[simp] theorem Dev.setQp_arrays (n i : Nat) (x : Qp) : (d.setQp n i x).arrays = d.arrays := rfl
@[simp] theorem Dev.setQp_tasks (n i : Nat) (x : Qp) : (d.setQp n i x).tasks = d.tasks := rfl
@[simp] theorem Dev.setQp_journals (n i : Nat) (x : Qp) : (d.setQp n i x).journals = d.journals := rfl
@[simp] theorem Dev.setQp_jseq (n i : Nat) (x : Qp) : (d.setQp n i x).jseq = d.jseq := rfl
@[simp] theorem Dev.setQp_jtick (n i : Nat) (x : Qp) : (d.setQp n i x).jtick = d.jtick := rfl
@[simp] theorem Dev.setQp_nonce (n i : Nat) (x : Qp) : (d.setQp n i x).nonce = d.nonce := rfl
@[simp] theorem Dev.setQp_fabric (n i : Nat) (x : Qp) : (d.setQp n i x).fabric = d.fabric := rfl
@[simp] theorem Dev.setQp_regions (n i : Nat) (x : Qp) : (d.setQp n i x).regions = d.regions := rfl
@[simp] theorem Dev.setQp_places (n i : Nat) (x : Qp) : (d.setQp n i x).places = d.places := rfl
@[simp] theorem Dev.setQp_nextPlace (n i : Nat) (x : Qp) : (d.setQp n i x).nextPlace = d.nextPlace := rfl
@[simp] theorem Dev.setQp_loops (n i : Nat) (x : Qp) : (d.setQp n i x).loops = d.loops := rfl
@[simp] theorem Dev.setQp_flog (n i : Nat) (x : Qp) : (d.setQp n i x).flog = d.flog := rfl
@[simp] theorem Dev.setQp_flogSeq (n i : Nat) (x : Qp) : (d.setQp n i x).flogSeq = d.flogSeq := rfl
@[simp] theorem Dev.setQp_ckpts (n i : Nat) (x : Qp) : (d.setQp n i x).ckpts = d.ckpts := rfl
@[simp] theorem Dev.setQp_out (n i : Nat) (x : Qp) : (d.setQp n i x).out = d.out := rfl
@[simp] theorem Dev.setQp_free (n i : Nat) (x : Qp) : (d.setQp n i x).free = d.free := rfl
@[simp] theorem Dev.setQp_ahead (n i : Nat) (x : Qp) : (d.setQp n i x).ahead = d.ahead := rfl
@[simp] theorem Dev.setQp_signerFailed (n i : Nat) (x : Qp) : (d.setQp n i x).signerFailed = d.signerFailed := rfl
@[simp] theorem Dev.setQp_faults (n i : Nat) (x : Qp) : (d.setQp n i x).faults = d.faults := rfl
@[simp] theorem Dev.setQp_stores (n i : Nat) (x : Qp) : (d.setQp n i x).stores = d.stores := rfl
@[simp] theorem Dev.setIsland_nv (i : Nat) (x : Island) : (d.setIsland i x).nv = d.nv := rfl
@[simp] theorem Dev.setIsland_board (i : Nat) (x : Island) : (d.setIsland i x).board = d.board := rfl
@[simp] theorem Dev.setIsland_boot (i : Nat) (x : Island) : (d.setIsland i x).boot = d.boot := rfl
@[simp] theorem Dev.setIsland_srv (i : Nat) (x : Island) : (d.setIsland i x).srv = d.srv := rfl
@[simp] theorem Dev.setIsland_bays (i : Nat) (x : Island) : (d.setIsland i x).bays = d.bays := rfl
@[simp] theorem Dev.setIsland_link (i : Nat) (x : Island) : (d.setIsland i x).link = d.link := rfl
@[simp] theorem Dev.setIsland_pages (i : Nat) (x : Island) : (d.setIsland i x).pages = d.pages := rfl
@[simp] theorem Dev.setIsland_shadows (i : Nat) (x : Island) : (d.setIsland i x).shadows = d.shadows := rfl
@[simp] theorem Dev.setIsland_trans (i : Nat) (x : Island) : (d.setIsland i x).trans = d.trans := rfl
@[simp] theorem Dev.setIsland_ridge (i : Nat) (x : Island) : (d.setIsland i x).ridge = d.ridge := rfl
@[simp] theorem Dev.setIsland_spars (i : Nat) (x : Island) : (d.setIsland i x).spars = d.spars := rfl
@[simp] theorem Dev.setIsland_queues (i : Nat) (x : Island) : (d.setIsland i x).queues = d.queues := rfl
@[simp] theorem Dev.setIsland_gutters (i : Nat) (x : Island) : (d.setIsland i x).gutters = d.gutters := rfl
@[simp] theorem Dev.setIsland_courses (i : Nat) (x : Island) : (d.setIsland i x).courses = d.courses := rfl
@[simp] theorem Dev.setIsland_arbs (i : Nat) (x : Island) : (d.setIsland i x).arbs = d.arbs := rfl
@[simp] theorem Dev.setIsland_chains (i : Nat) (x : Island) : (d.setIsland i x).chains = d.chains := rfl
@[simp] theorem Dev.setIsland_prepared (i : Nat) (x : Island) : (d.setIsland i x).prepared = d.prepared := rfl
@[simp] theorem Dev.setIsland_released (i : Nat) (x : Island) : (d.setIsland i x).released = d.released := rfl
@[simp] theorem Dev.setIsland_cores (i : Nat) (x : Island) : (d.setIsland i x).cores = d.cores := rfl
@[simp] theorem Dev.setIsland_runs (i : Nat) (x : Island) : (d.setIsland i x).runs = d.runs := rfl
@[simp] theorem Dev.setIsland_nextRun (i : Nat) (x : Island) : (d.setIsland i x).nextRun = d.nextRun := rfl
@[simp] theorem Dev.setIsland_engines (i : Nat) (x : Island) : (d.setIsland i x).engines = d.engines := rfl
@[simp] theorem Dev.setIsland_arrays (i : Nat) (x : Island) : (d.setIsland i x).arrays = d.arrays := rfl
@[simp] theorem Dev.setIsland_tasks (i : Nat) (x : Island) : (d.setIsland i x).tasks = d.tasks := rfl
@[simp] theorem Dev.setIsland_journals (i : Nat) (x : Island) : (d.setIsland i x).journals = d.journals := rfl
@[simp] theorem Dev.setIsland_jseq (i : Nat) (x : Island) : (d.setIsland i x).jseq = d.jseq := rfl
@[simp] theorem Dev.setIsland_jtick (i : Nat) (x : Island) : (d.setIsland i x).jtick = d.jtick := rfl
@[simp] theorem Dev.setIsland_nonce (i : Nat) (x : Island) : (d.setIsland i x).nonce = d.nonce := rfl
@[simp] theorem Dev.setIsland_fabric (i : Nat) (x : Island) : (d.setIsland i x).fabric = d.fabric := rfl
@[simp] theorem Dev.setIsland_regions (i : Nat) (x : Island) : (d.setIsland i x).regions = d.regions := rfl
@[simp] theorem Dev.setIsland_qps (i : Nat) (x : Island) : (d.setIsland i x).qps = d.qps := rfl
@[simp] theorem Dev.setIsland_places (i : Nat) (x : Island) : (d.setIsland i x).places = d.places := rfl
@[simp] theorem Dev.setIsland_nextPlace (i : Nat) (x : Island) : (d.setIsland i x).nextPlace = d.nextPlace := rfl
@[simp] theorem Dev.setIsland_flog (i : Nat) (x : Island) : (d.setIsland i x).flog = d.flog := rfl
@[simp] theorem Dev.setIsland_flogSeq (i : Nat) (x : Island) : (d.setIsland i x).flogSeq = d.flogSeq := rfl
@[simp] theorem Dev.setIsland_ckpts (i : Nat) (x : Island) : (d.setIsland i x).ckpts = d.ckpts := rfl
@[simp] theorem Dev.setIsland_out (i : Nat) (x : Island) : (d.setIsland i x).out = d.out := rfl
@[simp] theorem Dev.setIsland_free (i : Nat) (x : Island) : (d.setIsland i x).free = d.free := rfl
@[simp] theorem Dev.setIsland_ahead (i : Nat) (x : Island) : (d.setIsland i x).ahead = d.ahead := rfl
@[simp] theorem Dev.setIsland_signerFailed (i : Nat) (x : Island) : (d.setIsland i x).signerFailed = d.signerFailed := rfl
@[simp] theorem Dev.setIsland_faults (i : Nat) (x : Island) : (d.setIsland i x).faults = d.faults := rfl
@[simp] theorem Dev.setIsland_stores (i : Nat) (x : Island) : (d.setIsland i x).stores = d.stores := rfl
@[simp] theorem Dev.setDomain_nv (i : Nat) (x : Domain) : (d.setDomain i x).nv = d.nv := rfl
@[simp] theorem Dev.setDomain_board (i : Nat) (x : Domain) : (d.setDomain i x).board = d.board := rfl
@[simp] theorem Dev.setDomain_boot (i : Nat) (x : Domain) : (d.setDomain i x).boot = d.boot := rfl
@[simp] theorem Dev.setDomain_srv (i : Nat) (x : Domain) : (d.setDomain i x).srv = d.srv := rfl
@[simp] theorem Dev.setDomain_bays (i : Nat) (x : Domain) : (d.setDomain i x).bays = d.bays := rfl
@[simp] theorem Dev.setDomain_link (i : Nat) (x : Domain) : (d.setDomain i x).link = d.link := rfl
@[simp] theorem Dev.setDomain_pages (i : Nat) (x : Domain) : (d.setDomain i x).pages = d.pages := rfl
@[simp] theorem Dev.setDomain_shadows (i : Nat) (x : Domain) : (d.setDomain i x).shadows = d.shadows := rfl
@[simp] theorem Dev.setDomain_trans (i : Nat) (x : Domain) : (d.setDomain i x).trans = d.trans := rfl
@[simp] theorem Dev.setDomain_ridge (i : Nat) (x : Domain) : (d.setDomain i x).ridge = d.ridge := rfl
@[simp] theorem Dev.setDomain_spars (i : Nat) (x : Domain) : (d.setDomain i x).spars = d.spars := rfl
@[simp] theorem Dev.setDomain_queues (i : Nat) (x : Domain) : (d.setDomain i x).queues = d.queues := rfl
@[simp] theorem Dev.setDomain_gutters (i : Nat) (x : Domain) : (d.setDomain i x).gutters = d.gutters := rfl
@[simp] theorem Dev.setDomain_courses (i : Nat) (x : Domain) : (d.setDomain i x).courses = d.courses := rfl
@[simp] theorem Dev.setDomain_arbs (i : Nat) (x : Domain) : (d.setDomain i x).arbs = d.arbs := rfl
@[simp] theorem Dev.setDomain_chains (i : Nat) (x : Domain) : (d.setDomain i x).chains = d.chains := rfl
@[simp] theorem Dev.setDomain_prepared (i : Nat) (x : Domain) : (d.setDomain i x).prepared = d.prepared := rfl
@[simp] theorem Dev.setDomain_released (i : Nat) (x : Domain) : (d.setDomain i x).released = d.released := rfl
@[simp] theorem Dev.setDomain_cores (i : Nat) (x : Domain) : (d.setDomain i x).cores = d.cores := rfl
@[simp] theorem Dev.setDomain_runs (i : Nat) (x : Domain) : (d.setDomain i x).runs = d.runs := rfl
@[simp] theorem Dev.setDomain_nextRun (i : Nat) (x : Domain) : (d.setDomain i x).nextRun = d.nextRun := rfl
@[simp] theorem Dev.setDomain_engines (i : Nat) (x : Domain) : (d.setDomain i x).engines = d.engines := rfl
@[simp] theorem Dev.setDomain_arrays (i : Nat) (x : Domain) : (d.setDomain i x).arrays = d.arrays := rfl
@[simp] theorem Dev.setDomain_tasks (i : Nat) (x : Domain) : (d.setDomain i x).tasks = d.tasks := rfl
@[simp] theorem Dev.setDomain_journals (i : Nat) (x : Domain) : (d.setDomain i x).journals = d.journals := rfl
@[simp] theorem Dev.setDomain_jseq (i : Nat) (x : Domain) : (d.setDomain i x).jseq = d.jseq := rfl
@[simp] theorem Dev.setDomain_jtick (i : Nat) (x : Domain) : (d.setDomain i x).jtick = d.jtick := rfl
@[simp] theorem Dev.setDomain_nonce (i : Nat) (x : Domain) : (d.setDomain i x).nonce = d.nonce := rfl
@[simp] theorem Dev.setDomain_fabric (i : Nat) (x : Domain) : (d.setDomain i x).fabric = d.fabric := rfl
@[simp] theorem Dev.setDomain_regions (i : Nat) (x : Domain) : (d.setDomain i x).regions = d.regions := rfl
@[simp] theorem Dev.setDomain_qps (i : Nat) (x : Domain) : (d.setDomain i x).qps = d.qps := rfl
@[simp] theorem Dev.setDomain_places (i : Nat) (x : Domain) : (d.setDomain i x).places = d.places := rfl
@[simp] theorem Dev.setDomain_nextPlace (i : Nat) (x : Domain) : (d.setDomain i x).nextPlace = d.nextPlace := rfl
@[simp] theorem Dev.setDomain_flog (i : Nat) (x : Domain) : (d.setDomain i x).flog = d.flog := rfl
@[simp] theorem Dev.setDomain_flogSeq (i : Nat) (x : Domain) : (d.setDomain i x).flogSeq = d.flogSeq := rfl
@[simp] theorem Dev.setDomain_ckpts (i : Nat) (x : Domain) : (d.setDomain i x).ckpts = d.ckpts := rfl
@[simp] theorem Dev.setDomain_out (i : Nat) (x : Domain) : (d.setDomain i x).out = d.out := rfl
@[simp] theorem Dev.setDomain_free (i : Nat) (x : Domain) : (d.setDomain i x).free = d.free := rfl
@[simp] theorem Dev.setDomain_ahead (i : Nat) (x : Domain) : (d.setDomain i x).ahead = d.ahead := rfl
@[simp] theorem Dev.setDomain_signerFailed (i : Nat) (x : Domain) : (d.setDomain i x).signerFailed = d.signerFailed := rfl
@[simp] theorem Dev.setDomain_faults (i : Nat) (x : Domain) : (d.setDomain i x).faults = d.faults := rfl
@[simp] theorem Dev.setDomain_stores (i : Nat) (x : Domain) : (d.setDomain i x).stores = d.stores := rfl
@[simp] theorem Dev.setScrub_nv (k : Nat) (x : Scrub) : (d.setScrub k x).nv = d.nv := rfl
@[simp] theorem Dev.setScrub_board (k : Nat) (x : Scrub) : (d.setScrub k x).board = d.board := rfl
@[simp] theorem Dev.setScrub_boot (k : Nat) (x : Scrub) : (d.setScrub k x).boot = d.boot := rfl
@[simp] theorem Dev.setScrub_srv (k : Nat) (x : Scrub) : (d.setScrub k x).srv = d.srv := rfl
@[simp] theorem Dev.setScrub_bays (k : Nat) (x : Scrub) : (d.setScrub k x).bays = d.bays := rfl
@[simp] theorem Dev.setScrub_link (k : Nat) (x : Scrub) : (d.setScrub k x).link = d.link := rfl
@[simp] theorem Dev.setScrub_pages (k : Nat) (x : Scrub) : (d.setScrub k x).pages = d.pages := rfl
@[simp] theorem Dev.setScrub_shadows (k : Nat) (x : Scrub) : (d.setScrub k x).shadows = d.shadows := rfl
@[simp] theorem Dev.setScrub_trans (k : Nat) (x : Scrub) : (d.setScrub k x).trans = d.trans := rfl
@[simp] theorem Dev.setScrub_ridge (k : Nat) (x : Scrub) : (d.setScrub k x).ridge = d.ridge := rfl
@[simp] theorem Dev.setScrub_spars (k : Nat) (x : Scrub) : (d.setScrub k x).spars = d.spars := rfl
@[simp] theorem Dev.setScrub_queues (k : Nat) (x : Scrub) : (d.setScrub k x).queues = d.queues := rfl
@[simp] theorem Dev.setScrub_gutters (k : Nat) (x : Scrub) : (d.setScrub k x).gutters = d.gutters := rfl
@[simp] theorem Dev.setScrub_courses (k : Nat) (x : Scrub) : (d.setScrub k x).courses = d.courses := rfl
@[simp] theorem Dev.setScrub_arbs (k : Nat) (x : Scrub) : (d.setScrub k x).arbs = d.arbs := rfl
@[simp] theorem Dev.setScrub_chains (k : Nat) (x : Scrub) : (d.setScrub k x).chains = d.chains := rfl
@[simp] theorem Dev.setScrub_prepared (k : Nat) (x : Scrub) : (d.setScrub k x).prepared = d.prepared := rfl
@[simp] theorem Dev.setScrub_released (k : Nat) (x : Scrub) : (d.setScrub k x).released = d.released := rfl
@[simp] theorem Dev.setScrub_cores (k : Nat) (x : Scrub) : (d.setScrub k x).cores = d.cores := rfl
@[simp] theorem Dev.setScrub_runs (k : Nat) (x : Scrub) : (d.setScrub k x).runs = d.runs := rfl
@[simp] theorem Dev.setScrub_nextRun (k : Nat) (x : Scrub) : (d.setScrub k x).nextRun = d.nextRun := rfl
@[simp] theorem Dev.setScrub_engines (k : Nat) (x : Scrub) : (d.setScrub k x).engines = d.engines := rfl
@[simp] theorem Dev.setScrub_arrays (k : Nat) (x : Scrub) : (d.setScrub k x).arrays = d.arrays := rfl
@[simp] theorem Dev.setScrub_tasks (k : Nat) (x : Scrub) : (d.setScrub k x).tasks = d.tasks := rfl
@[simp] theorem Dev.setScrub_journals (k : Nat) (x : Scrub) : (d.setScrub k x).journals = d.journals := rfl
@[simp] theorem Dev.setScrub_jseq (k : Nat) (x : Scrub) : (d.setScrub k x).jseq = d.jseq := rfl
@[simp] theorem Dev.setScrub_jtick (k : Nat) (x : Scrub) : (d.setScrub k x).jtick = d.jtick := rfl
@[simp] theorem Dev.setScrub_nonce (k : Nat) (x : Scrub) : (d.setScrub k x).nonce = d.nonce := rfl
@[simp] theorem Dev.setScrub_fabric (k : Nat) (x : Scrub) : (d.setScrub k x).fabric = d.fabric := rfl
@[simp] theorem Dev.setScrub_regions (k : Nat) (x : Scrub) : (d.setScrub k x).regions = d.regions := rfl
@[simp] theorem Dev.setScrub_qps (k : Nat) (x : Scrub) : (d.setScrub k x).qps = d.qps := rfl
@[simp] theorem Dev.setScrub_places (k : Nat) (x : Scrub) : (d.setScrub k x).places = d.places := rfl
@[simp] theorem Dev.setScrub_nextPlace (k : Nat) (x : Scrub) : (d.setScrub k x).nextPlace = d.nextPlace := rfl
@[simp] theorem Dev.setScrub_flog (k : Nat) (x : Scrub) : (d.setScrub k x).flog = d.flog := rfl
@[simp] theorem Dev.setScrub_flogSeq (k : Nat) (x : Scrub) : (d.setScrub k x).flogSeq = d.flogSeq := rfl
@[simp] theorem Dev.setScrub_ckpts (k : Nat) (x : Scrub) : (d.setScrub k x).ckpts = d.ckpts := rfl
@[simp] theorem Dev.setScrub_out (k : Nat) (x : Scrub) : (d.setScrub k x).out = d.out := rfl
@[simp] theorem Dev.setScrub_free (k : Nat) (x : Scrub) : (d.setScrub k x).free = d.free := rfl
@[simp] theorem Dev.setScrub_ahead (k : Nat) (x : Scrub) : (d.setScrub k x).ahead = d.ahead := rfl
@[simp] theorem Dev.setScrub_signerFailed (k : Nat) (x : Scrub) : (d.setScrub k x).signerFailed = d.signerFailed := rfl
@[simp] theorem Dev.setScrub_faults (k : Nat) (x : Scrub) : (d.setScrub k x).faults = d.faults := rfl
@[simp] theorem Dev.setScrub_stores (k : Nat) (x : Scrub) : (d.setScrub k x).stores = d.stores := rfl
@[simp] theorem Dev.setOd_nv (idx sub v : Nat) : (d.setOd idx sub v).nv = d.nv := rfl
@[simp] theorem Dev.setOd_board (idx sub v : Nat) : (d.setOd idx sub v).board = d.board := rfl
@[simp] theorem Dev.setOd_boot (idx sub v : Nat) : (d.setOd idx sub v).boot = d.boot := rfl
@[simp] theorem Dev.setOd_bays (idx sub v : Nat) : (d.setOd idx sub v).bays = d.bays := rfl
@[simp] theorem Dev.setOd_link (idx sub v : Nat) : (d.setOd idx sub v).link = d.link := rfl
@[simp] theorem Dev.setOd_pages (idx sub v : Nat) : (d.setOd idx sub v).pages = d.pages := rfl
@[simp] theorem Dev.setOd_shadows (idx sub v : Nat) : (d.setOd idx sub v).shadows = d.shadows := rfl
@[simp] theorem Dev.setOd_trans (idx sub v : Nat) : (d.setOd idx sub v).trans = d.trans := rfl
@[simp] theorem Dev.setOd_ridge (idx sub v : Nat) : (d.setOd idx sub v).ridge = d.ridge := rfl
@[simp] theorem Dev.setOd_spars (idx sub v : Nat) : (d.setOd idx sub v).spars = d.spars := rfl
@[simp] theorem Dev.setOd_queues (idx sub v : Nat) : (d.setOd idx sub v).queues = d.queues := rfl
@[simp] theorem Dev.setOd_gutters (idx sub v : Nat) : (d.setOd idx sub v).gutters = d.gutters := rfl
@[simp] theorem Dev.setOd_courses (idx sub v : Nat) : (d.setOd idx sub v).courses = d.courses := rfl
@[simp] theorem Dev.setOd_arbs (idx sub v : Nat) : (d.setOd idx sub v).arbs = d.arbs := rfl
@[simp] theorem Dev.setOd_chains (idx sub v : Nat) : (d.setOd idx sub v).chains = d.chains := rfl
@[simp] theorem Dev.setOd_prepared (idx sub v : Nat) : (d.setOd idx sub v).prepared = d.prepared := rfl
@[simp] theorem Dev.setOd_released (idx sub v : Nat) : (d.setOd idx sub v).released = d.released := rfl
@[simp] theorem Dev.setOd_cores (idx sub v : Nat) : (d.setOd idx sub v).cores = d.cores := rfl
@[simp] theorem Dev.setOd_runs (idx sub v : Nat) : (d.setOd idx sub v).runs = d.runs := rfl
@[simp] theorem Dev.setOd_nextRun (idx sub v : Nat) : (d.setOd idx sub v).nextRun = d.nextRun := rfl
@[simp] theorem Dev.setOd_engines (idx sub v : Nat) : (d.setOd idx sub v).engines = d.engines := rfl
@[simp] theorem Dev.setOd_arrays (idx sub v : Nat) : (d.setOd idx sub v).arrays = d.arrays := rfl
@[simp] theorem Dev.setOd_tasks (idx sub v : Nat) : (d.setOd idx sub v).tasks = d.tasks := rfl
@[simp] theorem Dev.setOd_journals (idx sub v : Nat) : (d.setOd idx sub v).journals = d.journals := rfl
@[simp] theorem Dev.setOd_jseq (idx sub v : Nat) : (d.setOd idx sub v).jseq = d.jseq := rfl
@[simp] theorem Dev.setOd_jtick (idx sub v : Nat) : (d.setOd idx sub v).jtick = d.jtick := rfl
@[simp] theorem Dev.setOd_nonce (idx sub v : Nat) : (d.setOd idx sub v).nonce = d.nonce := rfl
@[simp] theorem Dev.setOd_fabric (idx sub v : Nat) : (d.setOd idx sub v).fabric = d.fabric := rfl
@[simp] theorem Dev.setOd_regions (idx sub v : Nat) : (d.setOd idx sub v).regions = d.regions := rfl
@[simp] theorem Dev.setOd_qps (idx sub v : Nat) : (d.setOd idx sub v).qps = d.qps := rfl
@[simp] theorem Dev.setOd_places (idx sub v : Nat) : (d.setOd idx sub v).places = d.places := rfl
@[simp] theorem Dev.setOd_nextPlace (idx sub v : Nat) : (d.setOd idx sub v).nextPlace = d.nextPlace := rfl
@[simp] theorem Dev.setOd_loops (idx sub v : Nat) : (d.setOd idx sub v).loops = d.loops := rfl
@[simp] theorem Dev.setOd_flog (idx sub v : Nat) : (d.setOd idx sub v).flog = d.flog := rfl
@[simp] theorem Dev.setOd_flogSeq (idx sub v : Nat) : (d.setOd idx sub v).flogSeq = d.flogSeq := rfl
@[simp] theorem Dev.setOd_ckpts (idx sub v : Nat) : (d.setOd idx sub v).ckpts = d.ckpts := rfl
@[simp] theorem Dev.setOd_out (idx sub v : Nat) : (d.setOd idx sub v).out = d.out := rfl
@[simp] theorem Dev.setOd_free (idx sub v : Nat) : (d.setOd idx sub v).free = d.free := rfl
@[simp] theorem Dev.setOd_ahead (idx sub v : Nat) : (d.setOd idx sub v).ahead = d.ahead := rfl
@[simp] theorem Dev.setOd_signerFailed (idx sub v : Nat) : (d.setOd idx sub v).signerFailed = d.signerFailed := rfl
@[simp] theorem Dev.setOd_faults (idx sub v : Nat) : (d.setOd idx sub v).faults = d.faults := rfl
@[simp] theorem Dev.setOd_stores (idx sub v : Nat) : (d.setOd idx sub v).stores = d.stores := rfl
@[simp] theorem Dev.send_nv (o : Out) : (d.send o).nv = d.nv := rfl
@[simp] theorem Dev.send_board (o : Out) : (d.send o).board = d.board := rfl
@[simp] theorem Dev.send_boot (o : Out) : (d.send o).boot = d.boot := rfl
@[simp] theorem Dev.send_srv (o : Out) : (d.send o).srv = d.srv := rfl
@[simp] theorem Dev.send_bays (o : Out) : (d.send o).bays = d.bays := rfl
@[simp] theorem Dev.send_link (o : Out) : (d.send o).link = d.link := rfl
@[simp] theorem Dev.send_pages (o : Out) : (d.send o).pages = d.pages := rfl
@[simp] theorem Dev.send_shadows (o : Out) : (d.send o).shadows = d.shadows := rfl
@[simp] theorem Dev.send_trans (o : Out) : (d.send o).trans = d.trans := rfl
@[simp] theorem Dev.send_ridge (o : Out) : (d.send o).ridge = d.ridge := rfl
@[simp] theorem Dev.send_spars (o : Out) : (d.send o).spars = d.spars := rfl
@[simp] theorem Dev.send_queues (o : Out) : (d.send o).queues = d.queues := rfl
@[simp] theorem Dev.send_gutters (o : Out) : (d.send o).gutters = d.gutters := rfl
@[simp] theorem Dev.send_courses (o : Out) : (d.send o).courses = d.courses := rfl
@[simp] theorem Dev.send_arbs (o : Out) : (d.send o).arbs = d.arbs := rfl
@[simp] theorem Dev.send_chains (o : Out) : (d.send o).chains = d.chains := rfl
@[simp] theorem Dev.send_prepared (o : Out) : (d.send o).prepared = d.prepared := rfl
@[simp] theorem Dev.send_released (o : Out) : (d.send o).released = d.released := rfl
@[simp] theorem Dev.send_cores (o : Out) : (d.send o).cores = d.cores := rfl
@[simp] theorem Dev.send_runs (o : Out) : (d.send o).runs = d.runs := rfl
@[simp] theorem Dev.send_nextRun (o : Out) : (d.send o).nextRun = d.nextRun := rfl
@[simp] theorem Dev.send_engines (o : Out) : (d.send o).engines = d.engines := rfl
@[simp] theorem Dev.send_arrays (o : Out) : (d.send o).arrays = d.arrays := rfl
@[simp] theorem Dev.send_tasks (o : Out) : (d.send o).tasks = d.tasks := rfl
@[simp] theorem Dev.send_journals (o : Out) : (d.send o).journals = d.journals := rfl
@[simp] theorem Dev.send_jseq (o : Out) : (d.send o).jseq = d.jseq := rfl
@[simp] theorem Dev.send_jtick (o : Out) : (d.send o).jtick = d.jtick := rfl
@[simp] theorem Dev.send_nonce (o : Out) : (d.send o).nonce = d.nonce := rfl
@[simp] theorem Dev.send_fabric (o : Out) : (d.send o).fabric = d.fabric := rfl
@[simp] theorem Dev.send_regions (o : Out) : (d.send o).regions = d.regions := rfl
@[simp] theorem Dev.send_qps (o : Out) : (d.send o).qps = d.qps := rfl
@[simp] theorem Dev.send_places (o : Out) : (d.send o).places = d.places := rfl
@[simp] theorem Dev.send_nextPlace (o : Out) : (d.send o).nextPlace = d.nextPlace := rfl
@[simp] theorem Dev.send_loops (o : Out) : (d.send o).loops = d.loops := rfl
@[simp] theorem Dev.send_flog (o : Out) : (d.send o).flog = d.flog := rfl
@[simp] theorem Dev.send_flogSeq (o : Out) : (d.send o).flogSeq = d.flogSeq := rfl
@[simp] theorem Dev.send_ckpts (o : Out) : (d.send o).ckpts = d.ckpts := rfl
@[simp] theorem Dev.send_free (o : Out) : (d.send o).free = d.free := rfl
@[simp] theorem Dev.send_ahead (o : Out) : (d.send o).ahead = d.ahead := rfl
@[simp] theorem Dev.send_signerFailed (o : Out) : (d.send o).signerFailed = d.signerFailed := rfl
@[simp] theorem Dev.send_faults (o : Out) : (d.send o).faults = d.faults := rfl
@[simp] theorem Dev.send_stores (o : Out) : (d.send o).stores = d.stores := rfl
@[simp] theorem Dev.store_nv (o : MemOp) : (d.store o).nv = d.nv := rfl
@[simp] theorem Dev.store_board (o : MemOp) : (d.store o).board = d.board := rfl
@[simp] theorem Dev.store_boot (o : MemOp) : (d.store o).boot = d.boot := rfl
@[simp] theorem Dev.store_srv (o : MemOp) : (d.store o).srv = d.srv := rfl
@[simp] theorem Dev.store_bays (o : MemOp) : (d.store o).bays = d.bays := rfl
@[simp] theorem Dev.store_link (o : MemOp) : (d.store o).link = d.link := rfl
@[simp] theorem Dev.store_pages (o : MemOp) : (d.store o).pages = d.pages := rfl
@[simp] theorem Dev.store_shadows (o : MemOp) : (d.store o).shadows = d.shadows := rfl
@[simp] theorem Dev.store_trans (o : MemOp) : (d.store o).trans = d.trans := rfl
@[simp] theorem Dev.store_ridge (o : MemOp) : (d.store o).ridge = d.ridge := rfl
@[simp] theorem Dev.store_spars (o : MemOp) : (d.store o).spars = d.spars := rfl
@[simp] theorem Dev.store_queues (o : MemOp) : (d.store o).queues = d.queues := rfl
@[simp] theorem Dev.store_gutters (o : MemOp) : (d.store o).gutters = d.gutters := rfl
@[simp] theorem Dev.store_courses (o : MemOp) : (d.store o).courses = d.courses := rfl
@[simp] theorem Dev.store_arbs (o : MemOp) : (d.store o).arbs = d.arbs := rfl
@[simp] theorem Dev.store_chains (o : MemOp) : (d.store o).chains = d.chains := rfl
@[simp] theorem Dev.store_prepared (o : MemOp) : (d.store o).prepared = d.prepared := rfl
@[simp] theorem Dev.store_released (o : MemOp) : (d.store o).released = d.released := rfl
@[simp] theorem Dev.store_cores (o : MemOp) : (d.store o).cores = d.cores := rfl
@[simp] theorem Dev.store_runs (o : MemOp) : (d.store o).runs = d.runs := rfl
@[simp] theorem Dev.store_nextRun (o : MemOp) : (d.store o).nextRun = d.nextRun := rfl
@[simp] theorem Dev.store_engines (o : MemOp) : (d.store o).engines = d.engines := rfl
@[simp] theorem Dev.store_arrays (o : MemOp) : (d.store o).arrays = d.arrays := rfl
@[simp] theorem Dev.store_tasks (o : MemOp) : (d.store o).tasks = d.tasks := rfl
@[simp] theorem Dev.store_journals (o : MemOp) : (d.store o).journals = d.journals := rfl
@[simp] theorem Dev.store_jseq (o : MemOp) : (d.store o).jseq = d.jseq := rfl
@[simp] theorem Dev.store_jtick (o : MemOp) : (d.store o).jtick = d.jtick := rfl
@[simp] theorem Dev.store_nonce (o : MemOp) : (d.store o).nonce = d.nonce := rfl
@[simp] theorem Dev.store_fabric (o : MemOp) : (d.store o).fabric = d.fabric := rfl
@[simp] theorem Dev.store_regions (o : MemOp) : (d.store o).regions = d.regions := rfl
@[simp] theorem Dev.store_qps (o : MemOp) : (d.store o).qps = d.qps := rfl
@[simp] theorem Dev.store_places (o : MemOp) : (d.store o).places = d.places := rfl
@[simp] theorem Dev.store_nextPlace (o : MemOp) : (d.store o).nextPlace = d.nextPlace := rfl
@[simp] theorem Dev.store_loops (o : MemOp) : (d.store o).loops = d.loops := rfl
@[simp] theorem Dev.store_flog (o : MemOp) : (d.store o).flog = d.flog := rfl
@[simp] theorem Dev.store_flogSeq (o : MemOp) : (d.store o).flogSeq = d.flogSeq := rfl
@[simp] theorem Dev.store_ckpts (o : MemOp) : (d.store o).ckpts = d.ckpts := rfl
@[simp] theorem Dev.store_out (o : MemOp) : (d.store o).out = d.out := rfl
@[simp] theorem Dev.store_free (o : MemOp) : (d.store o).free = d.free := rfl
@[simp] theorem Dev.store_ahead (o : MemOp) : (d.store o).ahead = d.ahead := rfl
@[simp] theorem Dev.store_signerFailed (o : MemOp) : (d.store o).signerFailed = d.signerFailed := rfl
@[simp] theorem Dev.store_faults (o : MemOp) : (d.store o).faults = d.faults := rfl
@[simp] theorem Dev.pendVec_nv (fn v : Nat) : (d.pendVec fn v).nv = d.nv := rfl
@[simp] theorem Dev.pendVec_board (fn v : Nat) : (d.pendVec fn v).board = d.board := rfl
@[simp] theorem Dev.pendVec_boot (fn v : Nat) : (d.pendVec fn v).boot = d.boot := rfl
@[simp] theorem Dev.pendVec_srv (fn v : Nat) : (d.pendVec fn v).srv = d.srv := rfl
@[simp] theorem Dev.pendVec_bays (fn v : Nat) : (d.pendVec fn v).bays = d.bays := rfl
@[simp] theorem Dev.pendVec_pages (fn v : Nat) : (d.pendVec fn v).pages = d.pages := rfl
@[simp] theorem Dev.pendVec_shadows (fn v : Nat) : (d.pendVec fn v).shadows = d.shadows := rfl
@[simp] theorem Dev.pendVec_trans (fn v : Nat) : (d.pendVec fn v).trans = d.trans := rfl
@[simp] theorem Dev.pendVec_ridge (fn v : Nat) : (d.pendVec fn v).ridge = d.ridge := rfl
@[simp] theorem Dev.pendVec_spars (fn v : Nat) : (d.pendVec fn v).spars = d.spars := rfl
@[simp] theorem Dev.pendVec_queues (fn v : Nat) : (d.pendVec fn v).queues = d.queues := rfl
@[simp] theorem Dev.pendVec_gutters (fn v : Nat) : (d.pendVec fn v).gutters = d.gutters := rfl
@[simp] theorem Dev.pendVec_courses (fn v : Nat) : (d.pendVec fn v).courses = d.courses := rfl
@[simp] theorem Dev.pendVec_arbs (fn v : Nat) : (d.pendVec fn v).arbs = d.arbs := rfl
@[simp] theorem Dev.pendVec_chains (fn v : Nat) : (d.pendVec fn v).chains = d.chains := rfl
@[simp] theorem Dev.pendVec_prepared (fn v : Nat) : (d.pendVec fn v).prepared = d.prepared := rfl
@[simp] theorem Dev.pendVec_released (fn v : Nat) : (d.pendVec fn v).released = d.released := rfl
@[simp] theorem Dev.pendVec_cores (fn v : Nat) : (d.pendVec fn v).cores = d.cores := rfl
@[simp] theorem Dev.pendVec_runs (fn v : Nat) : (d.pendVec fn v).runs = d.runs := rfl
@[simp] theorem Dev.pendVec_nextRun (fn v : Nat) : (d.pendVec fn v).nextRun = d.nextRun := rfl
@[simp] theorem Dev.pendVec_engines (fn v : Nat) : (d.pendVec fn v).engines = d.engines := rfl
@[simp] theorem Dev.pendVec_arrays (fn v : Nat) : (d.pendVec fn v).arrays = d.arrays := rfl
@[simp] theorem Dev.pendVec_tasks (fn v : Nat) : (d.pendVec fn v).tasks = d.tasks := rfl
@[simp] theorem Dev.pendVec_journals (fn v : Nat) : (d.pendVec fn v).journals = d.journals := rfl
@[simp] theorem Dev.pendVec_jseq (fn v : Nat) : (d.pendVec fn v).jseq = d.jseq := rfl
@[simp] theorem Dev.pendVec_jtick (fn v : Nat) : (d.pendVec fn v).jtick = d.jtick := rfl
@[simp] theorem Dev.pendVec_nonce (fn v : Nat) : (d.pendVec fn v).nonce = d.nonce := rfl
@[simp] theorem Dev.pendVec_fabric (fn v : Nat) : (d.pendVec fn v).fabric = d.fabric := rfl
@[simp] theorem Dev.pendVec_regions (fn v : Nat) : (d.pendVec fn v).regions = d.regions := rfl
@[simp] theorem Dev.pendVec_qps (fn v : Nat) : (d.pendVec fn v).qps = d.qps := rfl
@[simp] theorem Dev.pendVec_places (fn v : Nat) : (d.pendVec fn v).places = d.places := rfl
@[simp] theorem Dev.pendVec_nextPlace (fn v : Nat) : (d.pendVec fn v).nextPlace = d.nextPlace := rfl
@[simp] theorem Dev.pendVec_loops (fn v : Nat) : (d.pendVec fn v).loops = d.loops := rfl
@[simp] theorem Dev.pendVec_flog (fn v : Nat) : (d.pendVec fn v).flog = d.flog := rfl
@[simp] theorem Dev.pendVec_flogSeq (fn v : Nat) : (d.pendVec fn v).flogSeq = d.flogSeq := rfl
@[simp] theorem Dev.pendVec_ckpts (fn v : Nat) : (d.pendVec fn v).ckpts = d.ckpts := rfl
@[simp] theorem Dev.pendVec_out (fn v : Nat) : (d.pendVec fn v).out = d.out := rfl
@[simp] theorem Dev.pendVec_free (fn v : Nat) : (d.pendVec fn v).free = d.free := rfl
@[simp] theorem Dev.pendVec_ahead (fn v : Nat) : (d.pendVec fn v).ahead = d.ahead := rfl
@[simp] theorem Dev.pendVec_signerFailed (fn v : Nat) : (d.pendVec fn v).signerFailed = d.signerFailed := rfl
@[simp] theorem Dev.pendVec_faults (fn v : Nat) : (d.pendVec fn v).faults = d.faults := rfl
@[simp] theorem Dev.pendVec_stores (fn v : Nat) : (d.pendVec fn v).stores = d.stores := rfl

end Sys2Proof.Machine
end

