-- ==== Sys2Proof/Laws/Exec.lean ====
section
/-! SUPPORT. What a command can do, said once: it answers a next state, which is a device in `RESET`, the state as it was, or the effect
of its meaning on the device with its memory writes made (`exec_form`). -/
namespace Sys2Proof.Machine

theorem State.go_eq (s : State) (f : Env → Dev → Dev) : s.go f = .next (s.commit ((f s.env (s.dev.leadIslands s.env)).settle s.env)) := Eq.refl _

/-- The three forms of a command's outcome. -/
def HasForm (o : Outc) (s : State) : Prop := (∃ d, o = .next (s.renew d)) ∨ o = .next s ∨ ∃ f, o = s.go f

theorem go_form (s : State) (f : Env → Dev → Dev) : HasForm (s.go f) s := .inr (.inr ⟨f, Eq.refl _⟩)

theorem form_sysRstNRelease (flash : Option Flash) (s : State) : HasForm (exec (.sysRstNRelease flash) s) s := by
  show HasForm (execSysRstNRelease flash s) s
  unfold execSysRstNRelease
  split
  · exact .inr (.inl (Eq.refl _))
  · exact .inl ⟨_, Eq.refl _⟩
theorem form_sysRstNAssert (s : State) : HasForm (exec (.sysRstNAssert) s) s := by
  exact .inl ⟨_, Eq.refl _⟩
theorem form_standbyRailLoss (s : State) : HasForm (exec (.standbyRailLoss) s) s := by
  exact .inl ⟨_, Eq.refl _⟩
theorem form_strapSample (pins : BitVec 23) (s : State) : HasForm (exec (.strapSample pins) s) s := by
  show HasForm (execStrapSample pins s) s
  unfold execStrapSample
  exact go_form s _
theorem form_romSlotCheckEnd (answered : Bool) (s : State) : HasForm (exec (.romSlotCheckEnd answered) s) s := by
  show HasForm (execRomSlotCheckEnd answered s) s
  unfold execRomSlotCheckEnd
  exact go_form s _
theorem form_mgmtFirmwareTakeover (s : State) : HasForm (exec (.mgmtFirmwareTakeover) s) s := by
  show HasForm (execMgmtFirmwareTakeover s) s
  unfold execMgmtFirmwareTakeover
  exact go_form s _
theorem form_mainPgRise (s : State) : HasForm (exec (.mainPgRise) s) s := by
  show HasForm (execMainPgRise s) s
  unfold execMainPgRise
  exact go_form s _
theorem form_mainPgFall (s : State) : HasForm (exec (.mainPgFall) s) s := by
  show HasForm (execMainPgFall s) s
  unfold execMainPgFall
  exact go_form s _
theorem form_mainRailsTimeout (s : State) : HasForm (exec (.mainRailsTimeout) s) s := by
  show HasForm (execMainRailsTimeout s) s
  unfold execMainRailsTimeout
  exact go_form s _
theorem form_hbmTrainingEnd (stack : Fin 8) (trained : Bool) (s : State) : HasForm (exec (.hbmTrainingEnd stack trained) s) s := by
  show HasForm (execHbmTrainingEnd stack trained s) s
  unfold execHbmTrainingEnd
  exact go_form s _
theorem form_hbmZeroingEnd (s : State) : HasForm (exec (.hbmZeroingEnd) s) s := by
  show HasForm (execHbmZeroingEnd s) s
  unfold execHbmZeroingEnd
  exact go_form s _
theorem form_dSectionCheckEnd (s : State) : HasForm (exec (.dSectionCheckEnd) s) s := by
  show HasForm (execDSectionCheckEnd s) s
  unfold execDSectionCheckEnd
  exact go_form s _
theorem form_eaveReady (s : State) : HasForm (exec (.eaveReady) s) s := by
  show HasForm (execEaveReady s) s
  unfold execEaveReady
  exact go_form s _
theorem form_enterReady (s : State) : HasForm (exec (.enterReady) s) s := by
  show HasForm (execEnterReady s) s
  unfold execEnterReady
  exact go_form s _
theorem form_bootWatchdogExpire (s : State) : HasForm (exec (.bootWatchdogExpire) s) s := by
  show HasForm (execBootWatchdogExpire s) s
  unfold execBootWatchdogExpire
  exact go_form s _
theorem form_bootRestart (r : Route) (s : State) : HasForm (exec (.bootRestart r) s) s := by
  show HasForm (execBootRestart r s) s
  unfold execBootRestart State.odRow
  exact go_form s _
theorem form_recoveryImageDownload (p : Fin 2) (img : Image) (s : State) : HasForm (exec (.recoveryImageDownload p img) s) s := by
  show HasForm (execRecoveryImageDownload p img s) s
  unfold execRecoveryImageDownload
  exact go_form s _
theorem form_perstNRise (s : State) : HasForm (exec (.perstNRise) s) s := by
  show HasForm (execPerstNRise s) s
  unfold execPerstNRise
  exact go_form s _
theorem form_perstNFall (s : State) : HasForm (exec (.perstNFall) s) s := by
  show HasForm (execPerstNFall s) s
  unfold execPerstNFall
  exact go_form s _
theorem form_thermalTrip (stack : Option (Fin 8)) (temp : Int) (s : State) : HasForm (exec (.thermalTrip stack temp) s) s := by
  show HasForm (execThermalTrip stack temp s) s
  unfold execThermalTrip
  exact go_form s _
theorem form_hbmThrottle (stack : Fin 8) (temp : Int) (s : State) : HasForm (exec (.hbmThrottle stack temp) s) s := by
  show HasForm (execHbmThrottle stack temp s) s
  unfold execHbmThrottle
  exact go_form s _
theorem form_vrHotNAssert (s : State) : HasForm (exec (.vrHotNAssert) s) s := by
  show HasForm (execVrHotNAssert s) s
  unfold execVrHotNAssert
  exact go_form s _
theorem form_smbReadDieTemp (s : State) : HasForm (exec (.smbReadDieTemp) s) s := by
  show HasForm (execSmbReadDieTemp s) s
  unfold execSmbReadDieTemp
  exact go_form s _
theorem form_smbReadHbmTemp (s : State) : HasForm (exec (.smbReadHbmTemp) s) s := by
  show HasForm (execSmbReadHbmTemp s) s
  unfold execSmbReadHbmTemp
  exact go_form s _
theorem form_smbReadStatus (s : State) : HasForm (exec (.smbReadStatus) s) s := by
  show HasForm (execSmbReadStatus s) s
  unfold execSmbReadStatus
  exact go_form s _
theorem form_smbReadFru (block : Fin 8) (s : State) : HasForm (exec (.smbReadFru block) s) s := by
  show HasForm (execSmbReadFru block s) s
  unfold execSmbReadFru
  exact go_form s _
theorem form_configRequest (tag : Nat) (op : CfgOp) (s : State) : HasForm (exec (.configRequest tag op) s) s := by
  show HasForm (execConfigRequest tag op s) s
  unfold execConfigRequest
  exact go_form s _
theorem form_usdoInitiate (p : Fin 2) (write : Bool) (idx : W16) (sub : Byte) (data : List Byte) (last : Bool) (s : State) : HasForm (exec (.usdoInitiate p write idx sub data last) s) s := by
  show HasForm (execUsdoInitiate p write idx sub data last s) s
  unfold execUsdoInitiate
  exact go_form s _
theorem form_usdoSegment (p : Fin 2) (data : List Byte) (last : Bool) (s : State) : HasForm (exec (.usdoSegment p data last) s) s := by
  show HasForm (execUsdoSegment p data last s) s
  unfold execUsdoSegment
  exact go_form s _
theorem form_usdoTimeout (p : Fin 2) (s : State) : HasForm (exec (.usdoTimeout p) s) s := by
  show HasForm (execUsdoTimeout p s) s
  unfold execUsdoTimeout
  exact go_form s _
theorem form_canBusOff (p : Fin 2) (s : State) : HasForm (exec (.canBusOff p) s) s := by
  show HasForm (execCanBusOff p s) s
  unfold execCanBusOff
  exact go_form s _
theorem form_canBusOffRecovery (p : Fin 2) (s : State) : HasForm (exec (.canBusOffRecovery p) s) s := by
  show HasForm (execCanBusOffRecovery p s) s
  unfold execCanBusOffRecovery
  exact go_form s _
theorem form_odRead (fn : Fin 17) (s : State) : HasForm (exec (.odRead fn) s) s := by
  show HasForm (execOdRead fn s) s
  unfold execOdRead State.windowRow
  exact go_form s _
theorem form_odWrite (fn : Fin 17) (s : State) : HasForm (exec (.odWrite fn) s) s := by
  show HasForm (execOdWrite fn s) s
  unfold execOdWrite State.windowRow
  exact go_form s _
theorem form_odWriteAppend (fn : Fin 17) (s : State) : HasForm (exec (.odWriteAppend fn) s) s := by
  show HasForm (execOdWriteAppend fn s) s
  unfold execOdWriteAppend State.windowRow
  exact go_form s _
theorem form_odCmdNone (fn : Fin 17) (s : State) : HasForm (exec (.odCmdNone fn) s) s := by
  show HasForm (execOdCmdNone fn s) s
  unfold execOdCmdNone State.windowRow
  exact go_form s _
theorem form_odWindowTimeout (fn : Fin 17) (s : State) : HasForm (exec (.odWindowTimeout fn) s) s := by
  show HasForm (execOdWindowTimeout fn s) s
  unfold execOdWindowTimeout
  exact go_form s _
theorem form_dictRequestServe (x : Served) (s : State) : HasForm (exec (.dictRequestServe x) s) s := by
  show HasForm (execDictRequestServe s x) s
  unfold execDictRequestServe
  exact go_form s _
theorem form_saveAll (r : Route) (x : Served) (s : State) : HasForm (exec (.saveAll r x) s) s := by
  show HasForm (execSaveAll r s x) s
  unfold execSaveAll
  exact go_form s _
theorem form_restoreAll (r : Route) (s : State) : HasForm (exec (.restoreAll r) s) s := by
  show HasForm (execRestoreAll r s) s
  unfold execRestoreAll State.odRow
  exact go_form s _
theorem form_journalSelect (r : Route) (v : W64) (s : State) : HasForm (exec (.journalSelect r v) s) s := by
  show HasForm (execJournalSelect r v s) s
  unfold execJournalSelect State.odRow
  exact go_form s _
theorem form_fwStage (r : Route) (img : Image) (s : State) : HasForm (exec (.fwStage r img) s) s := by
  show HasForm (execFwStage r img s) s
  unfold execFwStage
  exact go_form s _
theorem form_fwStageEnd (flashOk : Bool) (s : State) : HasForm (exec (.fwStageEnd flashOk) s) s := by
  show HasForm (execFwStageEnd flashOk s) s
  unfold execFwStageEnd
  exact go_form s _
theorem form_activate (r : Route) (s : State) : HasForm (exec (.activate r) s) s := by
  show HasForm (execActivate r s) s
  unfold execActivate State.odRow
  exact go_form s _
theorem form_activationTakeover (s : State) : HasForm (exec (.activationTakeover) s) s := by
  show HasForm (execActivationTakeover s) s
  unfold execActivationTakeover
  exact go_form s _
theorem form_fuseSvnRaise (r : Route) (v : W32) (s : State) : HasForm (exec (.fuseSvnRaise r v) s) s := by
  show HasForm (execFuseSvnRaise r v s) s
  unfold execFuseSvnRaise State.odRow
  exact go_form s _
theorem form_claim (r : Route) (n : Fin 16) (s : State) : HasForm (exec (.claim r n) s) s := by
  show HasForm (execClaim r n s) s
  unfold execClaim State.odRow
  exact go_form s _
theorem form_commit (r : Route) (n : Fin 16) (s : State) : HasForm (exec (.commit r n) s) s := by
  show HasForm (execCommit r n s) s
  unfold execCommit State.odRow
  exact go_form s _
theorem form_commitScrubEnd (n : Fin 16) (s : State) : HasForm (exec (.commitScrubEnd n) s) s := by
  show HasForm (execCommitScrubEnd n s) s
  unfold execCommitScrubEnd
  exact go_form s _
theorem form_reconfigure (r : Route) (n : Fin 16) (s : State) : HasForm (exec (.reconfigure r n) s) s := by
  show HasForm (execReconfigure r n s) s
  unfold execReconfigure State.odRow
  exact go_form s _
theorem form_stop (r : Route) (n : Fin 16) (s : State) : HasForm (exec (.stop r n) s) s := by
  show HasForm (execStop r n s) s
  unfold execStop State.odRow
  exact go_form s _
theorem form_release (r : Route) (n : Fin 16) (s : State) : HasForm (exec (.release r n) s) s := by
  show HasForm (execRelease r n s) s
  unfold execRelease State.odRow
  exact go_form s _
theorem form_reset (r : Route) (n : Fin 16) (s : State) : HasForm (exec (.reset r n) s) s := by
  show HasForm (execReset r n s) s
  unfold execReset State.odRow
  exact go_form s _
theorem form_drainEnd (n : Fin 16) (s : State) : HasForm (exec (.drainEnd n) s) s := by
  show HasForm (execDrainEnd n s) s
  unfold execDrainEnd
  exact go_form s _
theorem form_bayBecomesIdle (n : Fin 16) (s : State) : HasForm (exec (.bayBecomesIdle n) s) s := by
  show HasForm (execBayBecomesIdle n s) s
  unfold execBayBecomesIdle
  exact go_form s _
theorem form_holdTimeExpire (n : Fin 16) (s : State) : HasForm (exec (.holdTimeExpire n) s) s := by
  show HasForm (execHoldTimeExpire n s) s
  unfold execHoldTimeExpire
  exact go_form s _
theorem form_shareGrant (r : Route) (n : Fin 16) (slot : Fin 8) (v : W64) (s : State) : HasForm (exec (.shareGrant r n slot v) s) s := by
  show HasForm (execShareGrant r n slot v s) s
  unfold execShareGrant State.odRow
  exact go_form s _
theorem form_shareAccept (r : Route) (n : Fin 16) (slot : Fin 8) (v : W64) (s : State) : HasForm (exec (.shareAccept r n slot v) s) s := by
  show HasForm (execShareAccept r n slot v s) s
  unfold execShareAccept State.odRow
  exact go_form s _
theorem form_dlUp (width : Nat) (rate : Nat) (flit : Bool) (cxl : Bool) (s : State) : HasForm (exec (.dlUp width rate flit cxl) s) s := by
  show HasForm (execDlUp width rate flit cxl s) s
  unfold execDlUp
  exact go_form s _
theorem form_linkRecoveryEnter (s : State) : HasForm (exec (.linkRecoveryEnter) s) s := by
  show HasForm (execLinkRecoveryEnter s) s
  unfold execLinkRecoveryEnter
  exact go_form s _
theorem form_linkRecoveryExit (width : Nat) (rate : Nat) (flit : Bool) (cxl : Bool) (s : State) : HasForm (exec (.linkRecoveryExit width rate flit cxl) s) s := by
  show HasForm (execLinkRecoveryExit width rate flit cxl s) s
  unfold execLinkRecoveryExit
  exact go_form s _
theorem form_dlDown (s : State) : HasForm (exec (.dlDown) s) s := by
  show HasForm (execDlDown s) s
  unfold execDlDown
  exact go_form s _
theorem form_hotResetReceived (s : State) : HasForm (exec (.hotResetReceived) s) s := by
  show HasForm (execHotResetReceived s) s
  unfold execHotResetReceived
  exact go_form s _
theorem form_linkDisable (s : State) : HasForm (exec (.linkDisable) s) s := by
  show HasForm (execLinkDisable s) s
  unfold execLinkDisable
  exact go_form s _
theorem form_linkCtlRetrain (r : Route) (s : State) : HasForm (exec (.linkCtlRetrain r) s) s := by
  show HasForm (execLinkCtlRetrain r s) s
  unfold execLinkCtlRetrain State.odRow
  exact go_form s _
theorem form_flrPf0 (tag : Nat) (s : State) : HasForm (exec (.flrPf0 tag) s) s := by
  show HasForm (execFlrPf0 s tag) s
  unfold execFlrPf0
  exact go_form s _
theorem form_flrVf (n : Fin 16) (tag : Nat) (s : State) : HasForm (exec (.flrVf n tag) s) s := by
  show HasForm (execFlrVf n s tag) s
  unfold execFlrVf
  exact go_form s _
theorem form_vfEnableClear (tag : Nat) (s : State) : HasForm (exec (.vfEnableClear tag) s) s := by
  show HasForm (execVfEnableClear s tag) s
  unfold execVfEnableClear
  exact go_form s _
theorem form_busMasterEnableClear (fn : Fin 17) (tag : Nat) (s : State) : HasForm (exec (.busMasterEnableClear fn tag) s) s := by
  show HasForm (execBusMasterEnableClear fn s tag) s
  unfold execBusMasterEnableClear
  exact go_form s _
theorem form_busMasterEnableSet (fn : Fin 17) (tag : Nat) (s : State) : HasForm (exec (.busMasterEnableSet fn tag) s) s := by
  show HasForm (execBusMasterEnableSet fn s tag) s
  unfold execBusMasterEnableSet
  exact go_form s _
theorem form_vfResizableBarWrite (gib : Nat) (tag : Nat) (s : State) : HasForm (exec (.vfResizableBarWrite gib tag) s) s := by
  show HasForm (execVfResizableBarWrite gib s tag) s
  unfold execVfResizableBarWrite
  exact go_form s _
theorem form_hdmDecoderCommit (k : Fin 16) (base : Nat) (size : Nat) (s : State) : HasForm (exec (.hdmDecoderCommit k base size) s) s := by
  show HasForm (execHdmDecoderCommit k base size s) s
  unfold execHdmDecoderCommit
  exact go_form s _
theorem form_hdmMapWrite (r : Route) (k : Fin 16) (v : W32) (s : State) : HasForm (exec (.hdmMapWrite r k v) s) s := by
  show HasForm (execHdmMapWrite r k v s) s
  unfold execHdmMapWrite State.odRow
  exact go_form s _
theorem form_msixUnmask (fn : Fin 17) (vec : Option (Fin 8)) (s : State) : HasForm (exec (.msixUnmask fn vec) s) s := by
  show HasForm (execMsixUnmask fn vec s) s
  unfold execMsixUnmask
  exact go_form s _
theorem form_ideKmKey (stream : Fin 4) (vfs : List (Fin 17)) (ranges : List (Nat × Nat)) (s : State) : HasForm (exec (.ideKmKey stream vfs ranges) s) s := by
  show HasForm (execIdeKmKey stream vfs s ranges) s
  unfold execIdeKmKey
  exact go_form s _
theorem form_ideIntegrityFailure (stream : Fin 4) (header : List Byte) (s : State) : HasForm (exec (.ideIntegrityFailure stream header) s) s := by
  show HasForm (execIdeIntegrityFailure stream header s) s
  unfold execIdeIntegrityFailure
  exact go_form s _
theorem form_atomicopFetchadd (q : AtomicReq) (s : State) : HasForm (exec (.atomicopFetchadd q) s) s := by
  show HasForm (execAtomicopFetchadd q s) s
  unfold execAtomicopFetchadd
  exact go_form s _
theorem form_atomicopSwap (q : AtomicReq) (s : State) : HasForm (exec (.atomicopSwap q) s) s := by
  show HasForm (execAtomicopSwap q s) s
  unfold execAtomicopSwap
  exact go_form s _
theorem form_atomicopCas (q : AtomicReq) (s : State) : HasForm (exec (.atomicopCas q) s) s := by
  show HasForm (execAtomicopCas q s) s
  unfold execAtomicopCas
  exact go_form s _
theorem form_partnerViolation (v : Violation) (s : State) : HasForm (exec (.partnerViolation v) s) s := by
  show HasForm (execPartnerViolation v s) s
  unfold execPartnerViolation
  exact go_form s _
theorem form_completionReceived (tag : Nat) (st : CplStatus) (data : List Byte) (s : State) : HasForm (exec (.completionReceived tag st data) s) s := by
  show HasForm (execCompletionReceived tag st data s) s
  unfold execCompletionReceived
  exact go_form s _
theorem form_completionTimeout (tag : Nat) (s : State) : HasForm (exec (.completionTimeout tag) s) s := by
  show HasForm (execCompletionTimeout tag s) s
  unfold execCompletionTimeout
  exact go_form s _
theorem form_violSelect (r : Route) (v : W64) (s : State) : HasForm (exec (.violSelect r v) s) s := by
  show HasForm (execViolSelect r v s) s
  unfold execViolSelect State.odRow
  exact go_form s _
theorem form_memRd (k : Fin 16) (off : Nat) (mv : Fin 3) (tag : Nat) (s : State) : HasForm (exec (.memRd k off mv tag) s) s := by
  show HasForm (execMemRd k off mv tag s) s
  unfold execMemRd
  exact go_form s _
theorem form_memRdData (k : Fin 16) (off : Nat) (tag : Nat) (s : State) : HasForm (exec (.memRdData k off tag) s) s := by
  show HasForm (execMemRdData k off tag s) s
  unfold execMemRdData
  exact go_form s _
theorem form_memWr (k : Fin 16) (off : Nat) (mv : Fin 3) (data : List Byte) (tag : Nat) (s : State) : HasForm (exec (.memWr k off mv data tag) s) s := by
  show HasForm (execMemWr k off mv data tag s) s
  unfold execMemWr
  exact go_form s _
theorem form_memWrPtl (k : Fin 16) (off : Nat) (mv : Fin 3) (mask : W64) (data : List Byte) (tag : Nat) (s : State) : HasForm (exec (.memWrPtl k off mv mask data tag) s) s := by
  show HasForm (execMemWrPtl k off mv mask data tag s) s
  unfold execMemWrPtl
  exact go_form s _
theorem form_evDbQ (n : Fin 16) (q : Fin 8) (v : W32) (s : State) : HasForm (exec (.evDbQ n q v) s) s := by
  show HasForm (execEvDbQ n q v s) s
  unfold execEvDbQ State.pageRow
  exact go_form s _
theorem form_evDbFence (n : Fin 16) (v : W32) (s : State) : HasForm (exec (.evDbFence n v) s) s := by
  show HasForm (execEvDbFence n v s) s
  unfold execEvDbFence State.pageRow
  exact go_form s _
theorem form_fenceRelease (n : Fin 16) (s : State) : HasForm (exec (.fenceRelease n) s) s := by
  show HasForm (execFenceRelease n s) s
  unfold execFenceRelease
  exact go_form s _
theorem form_fenceDoneRead (n : Fin 16) (tag : Nat) (s : State) : HasForm (exec (.fenceDoneRead n tag) s) s := by
  show HasForm (execFenceDoneRead n tag s) s
  unfold execFenceDoneRead
  exact go_form s _
theorem form_hatchPost (n : Fin 16) (slot : Fin 16) (data : List Byte) (s : State) : HasForm (exec (.hatchPost n slot data) s) s := by
  show HasForm (execHatchPost n slot data s) s
  unfold execHatchPost State.pageRow
  exact go_form s _
theorem form_htOutAck (n : Fin 16) (v : W32) (s : State) : HasForm (exec (.htOutAck n v) s) s := by
  show HasForm (execHtOutAck n v s) s
  unfold execHtOutAck State.pageRow
  exact go_form s _
theorem form_skylightWrite (n : Fin 16) (off : Nat) (data : List Byte) (s : State) : HasForm (exec (.skylightWrite n off data) s) s := by
  show HasForm (execSkylightWrite n off data s) s
  unfold execSkylightWrite
  exact go_form s _
theorem form_skylightRead (n : Fin 16) (off : Nat) (len : Nat) (tag : Nat) (s : State) : HasForm (exec (.skylightRead n off len tag) s) s := by
  show HasForm (execSkylightRead n off len tag s) s
  unfold execSkylightRead
  exact go_form s _
theorem form_skyMapWrite (r : Route) (n : Fin 16) (w : Fin 8) (v : W64) (s : State) : HasForm (exec (.skyMapWrite r n w v) s) s := by
  show HasForm (execSkyMapWrite r n w v s) s
  unfold execSkyMapWrite State.odRow
  exact go_form s _
theorem form_lowHalfRead (fn : Fin 17) (off : Nat) (tag : Nat) (len : Nat) (s : State) : HasForm (exec (.lowHalfRead fn off tag len) s) s := by
  show HasForm (execLowHalfRead fn off tag s len) s
  unfold execLowHalfRead
  exact go_form s _
theorem form_highHalfRead (fn : Fin 17) (off : Nat) (tag : Nat) (s : State) : HasForm (exec (.highHalfRead fn off tag) s) s := by
  show HasForm (execHighHalfRead fn off tag s) s
  unfold execHighHalfRead
  exact go_form s _
theorem form_registerWriteOther (fn : Fin 17) (off : Nat) (data : List Byte) (s : State) : HasForm (exec (.registerWriteOther fn off data) s) s := by
  show HasForm (execRegisterWriteOther fn off data s) s
  unfold execRegisterWriteOther State.windowRow
  exact go_form s _
theorem form_lathWalkEnd (id : Nat) (readError : Bool) (s : State) : HasForm (exec (.lathWalkEnd id readError) s) s := by
  show HasForm (execLathWalkEnd id readError s) s
  unfold execLathWalkEnd
  exact go_form s _
theorem form_translationCompletion (tag : Nat) (malformed : Bool) (hpa : Nat) (size : Nat) (canRead : Bool) (canWrite : Bool) (s : State) : HasForm (exec (.translationCompletion tag malformed hpa size canRead canWrite) s) s := by
  show HasForm (execTranslationCompletion tag malformed hpa size canRead canWrite s) s
  unfold execTranslationCompletion
  exact go_form s _
theorem form_atsInvalidateRequest (n : Fin 16) (itag : Nat) (pasid : Option (BitVec 20)) (base : Nat) (size : Nat) (s : State) : HasForm (exec (.atsInvalidateRequest n itag pasid base size) s) s := by
  show HasForm (execAtsInvalidateRequest n itag pasid base size s) s
  unfold execAtsInvalidateRequest
  exact go_form s _
theorem form_atsInvalidateComplete (n : Fin 16) (itag : Nat) (s : State) : HasForm (exec (.atsInvalidateComplete n itag) s) s := by
  show HasForm (execAtsInvalidateComplete n itag s) s
  unfold execAtsInvalidateComplete
  exact go_form s _
theorem form_lathInvalWrite (r : Route) (n : Fin 16) (v : W64) (s : State) : HasForm (exec (.lathInvalWrite r n v) s) s := by
  show HasForm (execLathInvalWrite r n v s) s
  unfold execLathInvalWrite State.odRow
  exact go_form s _
theorem form_lathInvalComplete (n : Fin 16) (s : State) : HasForm (exec (.lathInvalComplete n) s) s := by
  show HasForm (execLathInvalComplete n s) s
  unfold execLathInvalComplete
  exact go_form s _
theorem form_prgSuccess (idx : Nat) (pasid : Option (BitVec 20)) (s : State) : HasForm (exec (.prgSuccess idx pasid) s) s := by
  show HasForm (execPrgSuccess idx pasid s) s
  unfold execPrgSuccess
  exact go_form s _
theorem form_prgInvalidRequest (idx : Nat) (pasid : Option (BitVec 20)) (s : State) : HasForm (exec (.prgInvalidRequest idx pasid) s) s := by
  show HasForm (execPrgInvalidRequest idx pasid s) s
  unfold execPrgInvalidRequest
  exact go_form s _
theorem form_prgResponseFailure (idx : Nat) (pasid : Option (BitVec 20)) (s : State) : HasForm (exec (.prgResponseFailure idx pasid) s) s := by
  show HasForm (execPrgResponseFailure idx pasid s) s
  unfold execPrgResponseFailure
  exact go_form s _
theorem form_priStatusClear (tag : Nat) (s : State) : HasForm (exec (.priStatusClear tag) s) s := by
  show HasForm (execPriStatusClear s tag) s
  unfold execPriStatusClear
  exact go_form s _
theorem form_prgTimeout (idx : Nat) (s : State) : HasForm (exec (.prgTimeout idx) s) s := by
  show HasForm (execPrgTimeout idx s) s
  unfold execPrgTimeout
  exact go_form s _
theorem form_faultResumeResume (r : Route) (n : Fin 16) (s : State) : HasForm (exec (.faultResumeResume r n) s) s := by
  show HasForm (execFaultResumeResume r n s) s
  unfold execFaultResumeResume State.odRow
  exact go_form s _
theorem form_faultResumeAbort (r : Route) (n : Fin 16) (s : State) : HasForm (exec (.faultResumeAbort r n) s) s := by
  show HasForm (execFaultResumeAbort r n s) s
  unfold execFaultResumeAbort State.odRow
  exact go_form s _
theorem form_rdShared (a : Fin 33) (line : Nat) (ecc : Bool) (tn : Nat) (s : State) : HasForm (exec (.rdShared a line ecc tn) s) s := by
  show HasForm (execRdShared a line ecc s tn) s
  unfold execRdShared
  exact go_form s _
theorem form_rdOwn (a : Fin 33) (line : Nat) (ecc : Bool) (tn : Nat) (s : State) : HasForm (exec (.rdOwn a line ecc tn) s) s := by
  show HasForm (execRdOwn a line ecc s tn) s
  unfold execRdOwn
  exact go_form s _
theorem form_upgrade (a : Fin 33) (line : Nat) (ecc : Bool) (tn : Nat) (s : State) : HasForm (exec (.upgrade a line ecc tn) s) s := by
  show HasForm (execUpgrade a line ecc s tn) s
  unfold execUpgrade
  exact go_form s _
theorem form_wbDirty (a : Fin 33) (line : Nat) (data : List Byte) (poison : Bool) (tn : Nat) (s : State) : HasForm (exec (.wbDirty a line data poison tn) s) s := by
  show HasForm (execWbDirty a line data poison s tn) s
  unfold execWbDirty
  exact go_form s _
theorem form_ncRead (isl : Fin 350) (line : Nat) (tn : Nat) (ecc : Bool) (mask : W64) (s : State) : HasForm (exec (.ncRead isl line tn ecc mask) s) s := by
  show HasForm (execNcRead isl line tn ecc s mask) s
  unfold execNcRead
  exact go_form s _
theorem form_ncWrite (isl : Fin 350) (line : Nat) (tn : Nat) (mask : W64) (data : List Byte) (ecc : Bool) (s : State) : HasForm (exec (.ncWrite isl line tn mask data ecc) s) s := by
  show HasForm (execNcWrite isl line tn mask data ecc s) s
  unfold execNcWrite
  exact go_form s _
theorem form_ncAtomic (isl : Fin 350) (line : Nat) (tn : Nat) (op : Fin 10) (off : Nat) (size : Nat) (operand : Nat) (compare : Nat) (returning : Bool) (ecc : Bool) (s : State) : HasForm (exec (.ncAtomic isl line tn op off size operand compare returning ecc) s) s := by
  show HasForm (execNcAtomic isl line tn op off size operand compare returning ecc s) s
  unfold execNcAtomic
  exact go_form s _
theorem form_snpShared (c : Fin 17) (line : Nat) (tn : Nat) (s : State) : HasForm (exec (.snpShared c line tn) s) s := by
  show HasForm (execSnpShared c line s tn) s
  unfold execSnpShared
  exact go_form s _
theorem form_snpInv (c : Fin 17) (line : Nat) (tn : Nat) (s : State) : HasForm (exec (.snpInv c line tn) s) s := by
  show HasForm (execSnpInv c line s tn) s
  unfold execSnpInv
  exact go_form s _
theorem form_snpCur (c : Fin 17) (line : Nat) (tn : Nat) (s : State) : HasForm (exec (.snpCur c line tn) s) s := by
  show HasForm (execSnpCur c line s tn) s
  unfold execSnpCur
  exact go_form s _
theorem form_snpAck (a : Fin 33) (line : Nat) (st : Fin 5) (s : State) : HasForm (exec (.snpAck a line st) s) s := by
  show HasForm (execSnpAck a line st s) s
  unfold execSnpAck
  exact go_form s _
theorem form_snpData (a : Fin 33) (line : Nat) (st : Fin 5) (data : List Byte) (poison : Bool) (s : State) : HasForm (exec (.snpData a line st data poison) s) s := by
  show HasForm (execSnpData a line st data poison s) s
  unfold execSnpData
  exact go_form s _
theorem form_cmpAck (a : Fin 33) (line : Nat) (s : State) : HasForm (exec (.cmpAck a line) s) s := by
  show HasForm (execCmpAck a line s) s
  unfold execCmpAck
  exact go_form s _
theorem form_wbAck (c : Fin 17) (line : Nat) (s : State) : HasForm (exec (.wbAck c line) s) s := by
  show HasForm (execWbAck c line s) s
  unfold execWbAck
  exact go_form s _
theorem form_cmp (isl : Fin 350) (line : Nat) (tn : Nat) (st : Status) (s : State) : HasForm (exec (.cmp isl line tn st) s) s := by
  show HasForm (execCmp isl line tn st s) s
  unfold execCmp
  exact go_form s _
theorem form_data (isl : Fin 350) (line : Nat) (tn : Nat) (data : List Byte) (st : Fin 5) (poison : Bool) (s : State) : HasForm (exec (.data isl line tn data st poison) s) s := by
  show HasForm (execData isl line tn data st poison s) s
  unfold execData
  exact go_form s _
theorem form_retry (isl : Fin 350) (line : Nat) (tn : Nat) (s : State) : HasForm (exec (.retry isl line tn) s) s := by
  show HasForm (execRetry isl line tn s) s
  unfold execRetry
  exact go_form s _
theorem form_gone (isl : Fin 350) (line : Nat) (tn : Nat) (s : State) : HasForm (exec (.gone isl line tn) s) s := by
  show HasForm (execGone isl line tn s) s
  unfold execGone
  exact go_form s _
theorem form_retryResend (isl : Fin 350) (line : Nat) (tn : Nat) (s : State) : HasForm (exec (.retryResend isl line tn) s) s := by
  show HasForm (execRetryResend isl line tn s) s
  unfold execRetryResend
  exact go_form s _
theorem form_snoopTimeout (a : Fin 33) (line : Nat) (s : State) : HasForm (exec (.snoopTimeout a line) s) s := by
  show HasForm (execSnoopTimeout a line s) s
  unfold execSnoopTimeout
  exact go_form s _
theorem form_cellTableWrite (r : Route) (sub : Fin 18) (v : W16) (s : State) : HasForm (exec (.cellTableWrite r sub v) s) s := by
  show HasForm (execCellTableWrite r sub v s) s
  unfold execCellTableWrite State.odRow
  exact go_form s _
theorem form_cellChangeEnd (s : State) : HasForm (exec (.cellChangeEnd) s) s := by
  show HasForm (execCellChangeEnd s) s
  unfold execCellChangeEnd
  exact go_form s _
theorem form_birsp (line : Nat) (st : Fin 5) (data : Option (List Byte)) (s : State) : HasForm (exec (.birsp line st data) s) s := by
  show HasForm (execBirsp line st data s) s
  unfold execBirsp
  exact go_form s _
theorem form_biconflict (line : Nat) (s : State) : HasForm (exec (.biconflict line) s) s := by
  show HasForm (execBiconflict line s) s
  unfold execBiconflict
  exact go_form s _
theorem form_bisnpTimeout (line : Nat) (s : State) : HasForm (exec (.bisnpTimeout line) s) s := by
  show HasForm (execBisnpTimeout line s) s
  unfold execBisnpTimeout
  exact go_form s _
theorem form_h2dSnpData (hpa : Nat) (s : State) : HasForm (exec (.h2dSnpData hpa) s) s := by
  show HasForm (execH2dSnpData hpa s) s
  unfold execH2dSnpData
  exact go_form s _
theorem form_h2dSnpInv (hpa : Nat) (s : State) : HasForm (exec (.h2dSnpInv hpa) s) s := by
  show HasForm (execH2dSnpInv hpa s) s
  unfold execH2dSnpInv
  exact go_form s _
theorem form_h2dSnpCur (hpa : Nat) (s : State) : HasForm (exec (.h2dSnpCur hpa) s) s := by
  show HasForm (execH2dSnpCur hpa s) s
  unfold execH2dSnpCur
  exact go_form s _
theorem form_hostGoResponse (hpa : Nat) (st : Fin 5) (data : List Byte) (s : State) : HasForm (exec (.hostGoResponse hpa st data) s) s := by
  show HasForm (execHostGoResponse hpa st data s) s
  unfold execHostGoResponse
  exact go_form s _
theorem form_spValueWrite (n : Fin 16) (j : Fin 1024) (v : W64) (s : State) : HasForm (exec (.spValueWrite n j v) s) s := by
  show HasForm (execSpValueWrite n j v s) s
  unfold execSpValueWrite State.pageRow
  exact go_form s _
theorem form_spAdd (n : Fin 16) (j : Fin 1024) (v : W64) (s : State) : HasForm (exec (.spAdd n j v) s) s := by
  show HasForm (execSpAdd n j v s) s
  unfold execSpAdd State.pageRow
  exact go_form s _
theorem form_spThreshWrite (n : Fin 16) (j : Fin 1024) (v : W64) (s : State) : HasForm (exec (.spThreshWrite n j v) s) s := by
  show HasForm (execSpThreshWrite n j v s) s
  unfold execSpThreshWrite State.pageRow
  exact go_form s _
theorem form_arm (n : Fin 16) (j : Fin 1024) (v : W64) (s : State) : HasForm (exec (.arm n j v) s) s := by
  show HasForm (execArm n j v s) s
  unfold execArm State.pageRow
  exact go_form s _
theorem form_disarm (n : Fin 16) (j : Fin 1024) (v : W64) (s : State) : HasForm (exec (.disarm n j v) s) s := by
  show HasForm (execDisarm n j v s) s
  unfold execDisarm State.pageRow
  exact go_form s _
theorem form_sparCtlDictArm (r : Route) (n : Fin 16) (v : W64) (s : State) : HasForm (exec (.sparCtlDictArm r n v) s) s := by
  show HasForm (execSparCtlDictArm r n v s) s
  unfold execSparCtlDictArm State.odRow
  exact go_form s _
theorem form_sparFireEnd (sp : Fin 4096) (s : State) : HasForm (exec (.sparFireEnd sp) s) s := by
  show HasForm (execSparFireEnd sp s) s
  unfold execSparFireEnd
  exact go_form s _
theorem form_commandFetch (n : Fin 16) (readError : Bool) (s : State) : HasForm (exec (.commandFetch n readError) s) s := by
  show HasForm (execCommandFetch n readError s) s
  unfold execCommandFetch
  exact go_form s _
theorem form_commandStart (n : Fin 16) (q : Fin 8) (s : State) : HasForm (exec (.commandStart n q) s) s := by
  show HasForm (execCommandStart n q s) s
  unfold execCommandStart
  exact go_form s _
theorem form_nop (n : Fin 16) (q : Fin 8) (p : W32) (s : State) : HasForm (exec (.nop n q p) s) s := by
  show HasForm (execNop n q p s) s
  unfold execNop
  exact go_form s _
theorem form_fence (n : Fin 16) (q : Fin 8) (p : W32) (s : State) : HasForm (exec (.fence n q p) s) s := by
  show HasForm (execFence n q p s) s
  unfold execFence
  exact go_form s _
theorem form_fenceComplete (n : Fin 16) (q : Fin 8) (p : W32) (s : State) : HasForm (exec (.fenceComplete n q p) s) s := by
  show HasForm (execFenceComplete n q p s) s
  unfold execFenceComplete
  exact go_form s _
theorem form_wait (n : Fin 16) (q : Fin 8) (p : W32) (s : State) : HasForm (exec (.wait n q p) s) s := by
  show HasForm (execWait n q p s) s
  unfold execWait
  exact go_form s _
theorem form_waitSatisfied (n : Fin 16) (q : Fin 8) (p : W32) (s : State) : HasForm (exec (.waitSatisfied n q p) s) s := by
  show HasForm (execWaitSatisfied n q p s) s
  unfold execWaitSatisfied
  exact go_form s _
theorem form_waitTimeout (n : Fin 16) (q : Fin 8) (p : W32) (s : State) : HasForm (exec (.waitTimeout n q p) s) s := by
  show HasForm (execWaitTimeout n q p s) s
  unfold execWaitTimeout
  exact go_form s _
theorem form_signal (n : Fin 16) (q : Fin 8) (p : W32) (s : State) : HasForm (exec (.signal n q p) s) s := by
  show HasForm (execSignal n q p s) s
  unfold execSignal
  exact go_form s _
theorem form_hold (n : Fin 16) (q : Fin 8) (p : W32) (s : State) : HasForm (exec (.hold n q p) s) s := by
  show HasForm (execHold n q p s) s
  unfold execHold
  exact go_form s _
theorem form_holdComplete (n : Fin 16) (q : Fin 8) (p : W32) (s : State) : HasForm (exec (.holdComplete n q p) s) s := by
  show HasForm (execHoldComplete n q p s) s
  unfold execHoldComplete
  exact go_form s _
theorem form_layer (n : Fin 16) (q : Fin 8) (p : W32) (s : State) : HasForm (exec (.layer n q p) s) s := by
  show HasForm (execLayer n q p s) s
  unfold execLayer
  exact go_form s _
theorem form_layerComplete (n : Fin 16) (q : Fin 8) (p : W32) (s : State) : HasForm (exec (.layerComplete n q p) s) s := by
  show HasForm (execLayerComplete n q p s) s
  unfold execLayerComplete
  exact go_form s _
theorem form_beginJob (n : Fin 16) (q : Fin 8) (p : W32) (s : State) : HasForm (exec (.beginJob n q p) s) s := by
  show HasForm (execBeginJob n q p s) s
  unfold execBeginJob
  exact go_form s _
theorem form_endJob (n : Fin 16) (q : Fin 8) (p : W32) (s : State) : HasForm (exec (.endJob n q p) s) s := by
  show HasForm (execEndJob n q p s) s
  unfold execEndJob
  exact go_form s _
theorem form_lathInval (n : Fin 16) (q : Fin 8) (p : W32) (s : State) : HasForm (exec (.lathInval n q p) s) s := by
  show HasForm (execLathInval n q p s) s
  unfold execLathInval
  exact go_form s _
theorem form_gutter (n : Fin 16) (q : Fin 8) (p : W32) (s : State) : HasForm (exec (.gutter n q p) s) s := by
  show HasForm (execGutter n q p s) s
  unfold execGutter
  exact go_form s _
theorem form_course (n : Fin 16) (q : Fin 8) (p : W32) (s : State) : HasForm (exec (.course n q p) s) s := by
  show HasForm (execCourse n q p s) s
  unfold execCourse
  exact go_form s _
theorem form_chain (n : Fin 16) (q : Fin 8) (p : W32) (s : State) : HasForm (exec (.chain n q p) s) s := by
  show HasForm (execChain n q p s) s
  unfold execChain
  exact go_form s _
theorem form_run (n : Fin 16) (q : Fin 8) (p : W32) (s : State) : HasForm (exec (.run n q p) s) s := by
  show HasForm (execRun n q p s) s
  unfold execRun
  exact go_form s _
theorem form_engine (n : Fin 16) (q : Fin 8) (p : W32) (s : State) : HasForm (exec (.engine n q p) s) s := by
  show HasForm (execEngine n q p s) s
  unfold execEngine
  exact go_form s _
theorem form_seat (n : Fin 16) (q : Fin 8) (p : W32) (s : State) : HasForm (exec (.seat n q p) s) s := by
  show HasForm (execSeat n q p s) s
  unfold execSeat
  exact go_form s _
theorem form_trim (n : Fin 16) (q : Fin 8) (p : W32) (s : State) : HasForm (exec (.trim n q p) s) s := by
  show HasForm (execTrim n q p s) s
  unfold execTrim
  exact go_form s _
theorem form_enable (r : Route) (n : Fin 16) (q : Fin 8) (s : State) : HasForm (exec (.enable r n q) s) s := by
  show HasForm (execEnable r n q s) s
  unfold execEnable State.odRow
  exact go_form s _
theorem form_disable (r : Route) (n : Fin 16) (q : Fin 8) (s : State) : HasForm (exec (.disable r n q) s) s := by
  show HasForm (execDisable r n q s) s
  unfold execDisable State.odRow
  exact go_form s _
theorem form_resume (r : Route) (n : Fin 16) (q : Fin 8) (s : State) : HasForm (exec (.resume r n q) s) s := by
  show HasForm (execResume r n q s) s
  unfold execResume State.odRow
  exact go_form s _
theorem form_skip (r : Route) (n : Fin 16) (q : Fin 8) (s : State) : HasForm (exec (.skip r n q) s) s := by
  show HasForm (execSkip r n q s) s
  unfold execSkip State.odRow
  exact go_form s _
theorem form_descriptorFetch (c : Fin 256) (ecc : Bool) (s : State) : HasForm (exec (.descriptorFetch c ecc) s) s := by
  show HasForm (execDescriptorFetch c ecc s) s
  unfold execDescriptorFetch
  exact go_form s _
theorem form_descriptorEnd (c : Fin 256) (ecc : Bool) (s : State) : HasForm (exec (.descriptorEnd c ecc) s) s := by
  show HasForm (execDescriptorEnd c ecc s) s
  unfold execDescriptorEnd
  exact go_form s _
theorem form_restart (r : Route) (n : Fin 16) (s : State) : HasForm (exec (.restart r n) s) s := by
  show HasForm (execRestart r n s) s
  unfold execRestart State.odRow
  exact go_form s _
theorem form_abort (r : Route) (n : Fin 16) (s : State) : HasForm (exec (.abort r n) s) s := by
  show HasForm (execAbort r n s) s
  unfold execAbort State.odRow
  exact go_form s _
theorem form_blockListBurstReturn (c : Fin 512) (ecc : Bool) (s : State) : HasForm (exec (.blockListBurstReturn c ecc) s) s := by
  show HasForm (execBlockListBurstReturn c ecc s) s
  unfold execBlockListBurstReturn
  exact go_form s _
theorem form_coursePassEnd (c : Fin 512) (ecc : Bool) (s : State) : HasForm (exec (.coursePassEnd c ecc) s) s := by
  show HasForm (execCoursePassEnd c ecc s) s
  unfold execCoursePassEnd
  exact go_form s _
theorem form_derateRecompute (eccRetryPpm : Nat) (s : State) : HasForm (exec (.derateRecompute eccRetryPpm) s) s := by
  show HasForm (execDerateRecompute eccRetryPpm s) s
  unfold execDerateRecompute
  exact go_form s _
theorem form_proportionalServiceEnd (res : Fin 59) (s : State) : HasForm (exec (.proportionalServiceEnd res) s) s := by
  show HasForm (execProportionalServiceEnd res s) s
  unfold execProportionalServiceEnd
  exact go_form s _
theorem form_halt (c : Fin 256) (s : State) : HasForm (exec (.halt c) s) s := by
  show HasForm (execHalt c s) s
  unfold execHalt
  exact go_form s _
theorem form_load (c : Fin 256) (ecc : Bool) (s : State) : HasForm (exec (.load c ecc) s) s := by
  show HasForm (execLoad c ecc s) s
  unfold execLoad
  exact go_form s _
theorem form_store (c : Fin 256) (s : State) : HasForm (exec (.store c) s) s := by
  show HasForm (execStore c s) s
  unfold execStore
  exact go_form s _
theorem form_matvec (c : Fin 256) (s : State) : HasForm (exec (.matvec c) s) s := by
  show HasForm (execMatvec c s) s
  unfold execMatvec
  exact go_form s _
theorem form_eltwise (c : Fin 256) (s : State) : HasForm (exec (.eltwise c) s) s := by
  show HasForm (execEltwise c s) s
  unfold execEltwise
  exact go_form s _
theorem form_requant (c : Fin 256) (s : State) : HasForm (exec (.requant c) s) s := by
  show HasForm (execRequant c s) s
  unfold execRequant
  exact go_form s _
theorem form_ringTake (c : Fin 256) (s : State) : HasForm (exec (.ringTake c) s) s := by
  show HasForm (execRingTake c s) s
  unfold execRingTake
  exact go_form s _
theorem form_ringPut (c : Fin 256) (s : State) : HasForm (exec (.ringPut c) s) s := by
  show HasForm (execRingPut c s) s
  unfold execRingPut
  exact go_form s _
theorem form_sparSet (c : Fin 256) (s : State) : HasForm (exec (.sparSet c) s) s := by
  show HasForm (execSparSet c s) s
  unfold execSparSet
  exact go_form s _
theorem form_sparAdd (c : Fin 256) (s : State) : HasForm (exec (.sparAdd c) s) s := by
  show HasForm (execSparAdd c s) s
  unfold execSparAdd
  exact go_form s _
theorem form_sparWait (c : Fin 256) (s : State) : HasForm (exec (.sparWait c) s) s := by
  show HasForm (execSparWait c s) s
  unfold execSparWait
  exact go_form s _
theorem form_sparFetchadd (c : Fin 256) (s : State) : HasForm (exec (.sparFetchadd c) s) s := by
  show HasForm (execSparFetchadd c s) s
  unfold execSparFetchadd
  exact go_form s _
theorem form_hatchTake (c : Fin 256) (s : State) : HasForm (exec (.hatchTake c) s) s := by
  show HasForm (execHatchTake c s) s
  unfold execHatchTake
  exact go_form s _
theorem form_hatchRelease (c : Fin 256) (s : State) : HasForm (exec (.hatchRelease c) s) s := by
  show HasForm (execHatchRelease c s) s
  unfold execHatchRelease
  exact go_form s _
theorem form_hatchFill (c : Fin 256) (s : State) : HasForm (exec (.hatchFill c) s) s := by
  show HasForm (execHatchFill c s) s
  unfold execHatchFill
  exact go_form s _
theorem form_loop (c : Fin 256) (s : State) : HasForm (exec (.loop c) s) s := by
  show HasForm (execLoop c s) s
  unfold execLoop
  exact go_form s _
theorem form_branch (c : Fin 256) (s : State) : HasForm (exec (.branch c) s) s := by
  show HasForm (execBranch c s) s
  unfold execBranch
  exact go_form s _
theorem form_barrier (c : Fin 256) (s : State) : HasForm (exec (.barrier c) s) s := by
  show HasForm (execBarrier c s) s
  unfold execBarrier
  exact go_form s _
theorem form_coreWaitSatisfied (c : Fin 256) (s : State) : HasForm (exec (.coreWaitSatisfied c) s) s := by
  show HasForm (execCoreWaitSatisfied c s) s
  unfold execCoreWaitSatisfied
  exact go_form s _
theorem form_engineOpStart (g : Fin 42) (s : State) : HasForm (exec (.engineOpStart g) s) s := by
  show HasForm (execEngineOpStart g s) s
  unfold execEngineOpStart
  exact go_form s _
theorem form_engineOpEnd (g : Fin 42) (s : State) : HasForm (exec (.engineOpEnd g) s) s := by
  show HasForm (execEngineOpEnd g s) s
  unfold execEngineOpEnd
  exact go_form s _
theorem form_flashTaskEnd (n : Fin 16) (poisoned : Bool) (s : State) : HasForm (exec (.flashTaskEnd n poisoned) s) s := by
  show HasForm (execFlashTaskEnd n poisoned s) s
  unfold execFlashTaskEnd
  exact go_form s _
theorem form_thatchEvaluation (n : Fin 16) (q : Fin 8) (p : W32) (stage : Fin 8) (reads : List AdcRead) (s : State) : HasForm (exec (.thatchEvaluation n q p stage reads) s) s := by
  show HasForm (execThatchEvaluation n q p stage reads s) s
  unfold execThatchEvaluation
  exact go_form s _
theorem form_seatEnd (a : Fin 256) (m : SeatMeas) (s : State) : HasForm (exec (.seatEnd a m) s) s := by
  show HasForm (execSeatEnd a m s) s
  unfold execSeatEnd
  exact go_form s _
theorem form_trimEnd (a : Fin 256) (pair : Fin 1152) (fit : PairFit) (spareOk : Bool) (s : State) : HasForm (exec (.trimEnd a pair fit spareOk) s) s := by
  show HasForm (execTrimEnd a pair fit spareOk s) s
  unfold execTrimEnd
  exact go_form s _
theorem form_calibrationStart (a : Fin 256) (s : State) : HasForm (exec (.calibrationStart a) s) s := by
  show HasForm (execCalibrationStart a s) s
  unfold execCalibrationStart
  exact go_form s _
theorem form_calibrationEnd (a : Fin 256) (fits : List PairFit) (s : State) : HasForm (exec (.calibrationEnd a fits) s) s := by
  show HasForm (execCalibrationEnd a fits s) s
  unfold execCalibrationEnd
  exact go_form s _
theorem form_calTimeTrigger (a : Fin 256) (s : State) : HasForm (exec (.calTimeTrigger a) s) s := by
  show HasForm (execCalTimeTrigger a s) s
  unfold execCalTimeTrigger
  exact go_form s _
theorem form_calTemperatureSample (b : Fin 8) (temp : Int) (s : State) : HasForm (exec (.calTemperatureSample b temp) s) s := by
  show HasForm (execCalTemperatureSample b temp s) s
  unfold execCalTemperatureSample
  exact go_form s _
theorem form_calRequest (r : Route) (n : Fin 16) (s : State) : HasForm (exec (.calRequest r n) s) s := by
  show HasForm (execCalRequest r n s) s
  unfold execCalRequest State.odRow
  exact go_form s _
theorem form_certify (n : Fin 16) (q : Fin 8) (p : W32) (stage : Fin 8) (s : State) : HasForm (exec (.certify n q p stage) s) s := by
  show HasForm (execCertify n q p stage s) s
  unfold execCertify
  exact go_form s _
theorem form_auditEnd (n : Fin 16) (s : State) : HasForm (exec (.auditEnd n) s) s := by
  show HasForm (execAuditEnd n s) s
  unfold execAuditEnd
  exact go_form s _
theorem form_inputDigestEnd (n : Fin 16) (j : Fin 64) (s : State) : HasForm (exec (.inputDigestEnd n j) s) s := by
  show HasForm (execInputDigestEnd n j s) s
  unfold execInputDigestEnd
  exact go_form s _
theorem form_outputDigestEnd (n : Fin 16) (j : Fin 64) (s : State) : HasForm (exec (.outputDigestEnd n j) s) s := by
  show HasForm (execOutputDigestEnd n j s) s
  unfold execOutputDigestEnd
  exact go_form s _
theorem form_signatureEnd (n : Fin 16) (signerOk : Bool) (s : State) : HasForm (exec (.signatureEnd n signerOk) s) s := by
  show HasForm (execSignatureEnd n signerOk s) s
  unfold execSignatureEnd
  exact go_form s _
theorem form_sinkRecordWrite (n : Fin 16) (s : State) : HasForm (exec (.sinkRecordWrite n) s) s := by
  show HasForm (execSinkRecordWrite n s) s
  unfold execSinkRecordWrite
  exact go_form s _
theorem form_sinkReadWrite (r : Route) (n : Fin 16) (v : W64) (s : State) : HasForm (exec (.sinkReadWrite r n v) s) s := by
  show HasForm (execSinkReadWrite r n v s) s
  unfold execSinkReadWrite State.odRow
  exact go_form s _
theorem form_sinkCtlWrite (r : Route) (n : Fin 16) (v : W32) (s : State) : HasForm (exec (.sinkCtlWrite r n v) s) s := by
  show HasForm (execSinkCtlWrite r n v s) s
  unfold execSinkCtlWrite State.odRow
  exact go_form s _
theorem form_portLock (p : Fin 12) (s : State) : HasForm (exec (.portLock p) s) s := by
  show HasForm (execPortLock p s) s
  unfold execPortLock
  exact go_form s _
theorem form_portLinkLoss (p : Fin 12) (s : State) : HasForm (exec (.portLinkLoss p) s) s := by
  show HasForm (execPortLinkLoss p s) s
  unfold execPortLinkLoss
  exact go_form s _
theorem form_portCtlRetrain (r : Route) (p : Fin 12) (s : State) : HasForm (exec (.portCtlRetrain r p) s) s := by
  show HasForm (execPortCtlRetrain r p s) s
  unfold execPortCtlRetrain State.odRow
  exact go_form s _
theorem form_portCtlClear (r : Route) (p : Fin 12) (s : State) : HasForm (exec (.portCtlClear r p) s) s := by
  show HasForm (execPortCtlClear r p s) s
  unfold execPortCtlClear State.odRow
  exact go_form s _
theorem form_helloSend (p : Fin 12) (s : State) : HasForm (exec (.helloSend p) s) s := by
  show HasForm (execHelloSend p s) s
  unfold execHelloSend
  exact go_form s _
theorem form_hello (p : Fin 12) (id : BitVec 12) (assigned : Bool) (port : Fin 16) (s : State) : HasForm (exec (.hello p id assigned port) s) s := by
  show HasForm (execHello p id assigned port s) s
  unfold execHello
  exact go_form s _
theorem form_helloTimeout (p : Fin 12) (s : State) : HasForm (exec (.helloTimeout p) s) s := by
  show HasForm (execHelloTimeout p s) s
  unfold execHelloTimeout
  exact go_form s _
theorem form_assign (p : Fin 12) (f : Frame) (s : State) : HasForm (exec (.assign p f) s) s := by
  show HasForm (execAssign p f s) s
  unfold execAssign
  exact go_form s _
theorem form_lack (p : Fin 12) (f : Frame) (s : State) : HasForm (exec (.lack p f) s) s := by
  show HasForm (execLack p f s) s
  unfold execLack
  exact go_form s _
theorem form_lnak (p : Fin 12) (f : Frame) (s : State) : HasForm (exec (.lnak p f) s) s := by
  show HasForm (execLnak p f s) s
  unfold execLnak
  exact go_form s _
theorem form_lackSend (p : Fin 12) (s : State) : HasForm (exec (.lackSend p) s) s := by
  show HasForm (execLackSend p s) s
  unfold execLackSend
  exact go_form s _
theorem form_retransmitTimeout (p : Fin 12) (s : State) : HasForm (exec (.retransmitTimeout p) s) s := by
  show HasForm (execRetransmitTimeout p s) s
  unfold execRetransmitTimeout
  exact go_form s _
theorem form_fabricViolation (p : Fin 12) (kind : Fin 10) (f : Frame) (s : State) : HasForm (exec (.fabricViolation p kind f) s) s := by
  show HasForm (execFabricViolation p kind f s) s
  unfold execFabricViolation
  exact go_form s _
theorem form_put (p : Fin 12) (f : Frame) (s : State) : HasForm (exec (.put p f) s) s := by
  show HasForm (execPut p f s) s
  unfold execPut
  exact go_form s _
theorem form_get (p : Fin 12) (f : Frame) (s : State) : HasForm (exec (.get p f) s) s := by
  show HasForm (execGet p f s) s
  unfold execGet
  exact go_form s _
theorem form_purlinSignal (p : Fin 12) (f : Frame) (s : State) : HasForm (exec (.purlinSignal p f) s) s := by
  show HasForm (execPurlinSignal p f s) s
  unfold execPurlinSignal
  exact go_form s _
theorem form_ctlRd (p : Fin 12) (f : Frame) (s : State) : HasForm (exec (.ctlRd p f) s) s := by
  show HasForm (execCtlRd p f s) s
  unfold execCtlRd
  exact go_form s _
theorem form_ctlWr (p : Fin 12) (f : Frame) (s : State) : HasForm (exec (.ctlWr p f) s) s := by
  show HasForm (execCtlWr p f s) s
  unfold execCtlWr
  exact go_form s _
theorem form_putAck (p : Fin 12) (f : Frame) (s : State) : HasForm (exec (.putAck p f) s) s := by
  show HasForm (execPutAck p f s) s
  unfold execPutAck
  exact go_form s _
theorem form_getRsp (p : Fin 12) (f : Frame) (s : State) : HasForm (exec (.getRsp p f) s) s := by
  show HasForm (execGetRsp p f s) s
  unfold execGetRsp
  exact go_form s _
theorem form_sigAck (p : Fin 12) (f : Frame) (s : State) : HasForm (exec (.sigAck p f) s) s := by
  show HasForm (execSigAck p f s) s
  unfold execSigAck
  exact go_form s _
theorem form_ctlRsp (p : Fin 12) (f : Frame) (s : State) : HasForm (exec (.ctlRsp p f) s) s := by
  show HasForm (execCtlRsp p f s) s
  unfold execCtlRsp
  exact go_form s _
theorem form_remoteResend (tn : Nat) (s : State) : HasForm (exec (.remoteResend tn) s) s := by
  show HasForm (execRemoteResend tn s) s
  unfold execRemoteResend
  exact go_form s _
theorem form_remoteTimeout (tn : Nat) (s : State) : HasForm (exec (.remoteTimeout tn) s) s := by
  show HasForm (execRemoteTimeout tn s) s
  unfold execRemoteTimeout
  exact go_form s _
theorem form_hb (p : Fin 12) (f : Frame) (s : State) : HasForm (exec (.hb p f) s) s := by
  show HasForm (execHb p f s) s
  unfold execHb
  exact go_form s _
theorem form_hbTimeout (n : Fin 16) (s : State) : HasForm (exec (.hbTimeout n) s) s := by
  show HasForm (execHbTimeout n s) s
  unfold execHbTimeout
  exact go_form s _
theorem form_rdmaWrite (p : Fin 12) (k : RocePkt) (s : State) : HasForm (exec (.rdmaWrite p k) s) s := by
  show HasForm (execRdmaWrite p k s) s
  unfold execRdmaWrite
  exact go_form s _
theorem form_rdmaRead (p : Fin 12) (k : RocePkt) (s : State) : HasForm (exec (.rdmaRead p k) s) s := by
  show HasForm (execRdmaRead p k s) s
  unfold execRdmaRead
  exact go_form s _
theorem form_arpRequest (p : Fin 12) (ip : W32) (mac : BitVec 48) (s : State) : HasForm (exec (.arpRequest p ip mac) s) s := by
  show HasForm (execArpRequest p ip mac s) s
  unfold execArpRequest
  exact go_form s _
theorem form_neighbourSolicitation (p : Fin 12) (ip : BitVec 128) (mac : BitVec 48) (s : State) : HasForm (exec (.neighbourSolicitation p ip mac) s) s := by
  show HasForm (execNeighbourSolicitation p ip mac s) s
  unfold execNeighbourSolicitation
  exact go_form s _
theorem form_icmpEchoRequest (p : Fin 12) (v6 : Bool) (ip : BitVec 128) (data : List Byte) (s : State) : HasForm (exec (.icmpEchoRequest p v6 ip data) s) s := by
  show HasForm (execIcmpEchoRequest p v6 ip data s) s
  unfold execIcmpEchoRequest
  exact go_form s _
theorem form_pfcFrame (p : Fin 12) (prio : Fin 8) (quanta : W16) (s : State) : HasForm (exec (.pfcFrame p prio quanta) s) s := by
  show HasForm (execPfcFrame p prio quanta s) s
  unfold execPfcFrame
  exact go_form s _
theorem form_sync (p : Fin 12) (m : PtpMsg) (s : State) : HasForm (exec (.sync p m) s) s := by
  show HasForm (execSync p m s) s
  unfold execSync
  exact go_form s _
theorem form_followUp (p : Fin 12) (m : PtpMsg) (s : State) : HasForm (exec (.followUp p m) s) s := by
  show HasForm (execFollowUp p m s) s
  unfold execFollowUp
  exact go_form s _
theorem form_delayReq (p : Fin 12) (m : PtpMsg) (s : State) : HasForm (exec (.delayReq p m) s) s := by
  show HasForm (execDelayReq p m s) s
  unfold execDelayReq
  exact go_form s _
theorem form_delayResp (p : Fin 12) (m : PtpMsg) (s : State) : HasForm (exec (.delayResp p m) s) s := by
  show HasForm (execDelayResp p m s) s
  unfold execDelayResp
  exact go_form s _
theorem form_announce (p : Fin 12) (m : PtpMsg) (s : State) : HasForm (exec (.announce p m) s) s := by
  show HasForm (execAnnounce p m s) s
  unfold execAnnounce
  exact go_form s _
theorem form_announceReceiptTimeout (p : Fin 12) (s : State) : HasForm (exec (.announceReceiptTimeout p) s) s := by
  show HasForm (execAnnounceReceiptTimeout p s) s
  unfold execAnnounceReceiptTimeout
  exact go_form s _
theorem form_syncInterval (p : Fin 12) (s : State) : HasForm (exec (.syncInterval p) s) s := by
  show HasForm (execSyncInterval p s) s
  unfold execSyncInterval
  exact go_form s _
theorem form_ppsInEdge (s : State) : HasForm (exec (.ppsInEdge) s) s := by
  show HasForm (execPpsInEdge s) s
  unfold execPpsInEdge
  exact go_form s _
theorem form_ppsOutPulse (s : State) : HasForm (exec (.ppsOutPulse) s) s := by
  show HasForm (execPpsOutPulse s) s
  unfold execPpsOutPulse
  exact go_form s _
theorem form_bar4Write (rid : W16) (ap : Fin 256) (off : Nat) (data : List Byte) (s : State) : HasForm (exec (.bar4Write rid ap off data) s) s := by
  show HasForm (execBar4Write rid ap off data s) s
  unfold execBar4Write
  exact go_form s _
theorem form_bar4Read (rid : W16) (ap : Fin 256) (off : Nat) (len : Nat) (tag : Nat) (s : State) : HasForm (exec (.bar4Read rid ap off len tag) s) s := by
  show HasForm (execBar4Read rid ap off len tag s) s
  unfold execBar4Read
  exact go_form s _
theorem form_placementApplied (n : Fin 16) (j : Nat) (s : State) : HasForm (exec (.placementApplied n j) s) s := by
  show HasForm (execPlacementApplied n j s) s
  unfold execPlacementApplied
  exact go_form s _
theorem form_regCtlWrite (r : Route) (n : Fin 16) (v : W64) (s : State) : HasForm (exec (.regCtlWrite r n v) s) s := by
  show HasForm (execRegCtlWrite r n v s) s
  unfold execRegCtlWrite
  exact go_form s _
theorem form_islandReset (r : Route) (s : State) : HasForm (exec (.islandReset r) s) s := by
  show HasForm (execIslandReset r s) s
  unfold execIslandReset State.odRow
  exact go_form s _
theorem form_powerDown (r : Route) (s : State) : HasForm (exec (.powerDown r) s) s := by
  show HasForm (execPowerDown r s) s
  unfold execPowerDown State.odRow
  exact go_form s _
theorem form_wake (r : Route) (s : State) : HasForm (exec (.wake r) s) s := by
  show HasForm (execWake r s) s
  unfold execWake State.odRow
  exact go_form s _
theorem form_retrain (r : Route) (s : State) : HasForm (exec (.retrain r) s) s := by
  show HasForm (execRetrain r s) s
  unfold execRetrain State.odRow
  exact go_form s _
theorem form_gateTimer (j : Fin 350) (s : State) : HasForm (exec (.gateTimer j) s) s := by
  show HasForm (execGateTimer j s) s
  unfold execGateTimer
  exact go_form s _
theorem form_flushEnd (j : Fin 350) (s : State) : HasForm (exec (.flushEnd j) s) s := by
  show HasForm (execFlushEnd j s) s
  unfold execFlushEnd
  exact go_form s _
theorem form_closeWindowEnd (j : Fin 350) (s : State) : HasForm (exec (.closeWindowEnd j) s) s := by
  show HasForm (execCloseWindowEnd j s) s
  unfold execCloseWindowEnd
  exact go_form s _
theorem form_islandStartEnd (j : Fin 350) (s : State) : HasForm (exec (.islandStartEnd j) s) s := by
  show HasForm (execIslandStartEnd j s) s
  unfold execIslandStartEnd
  exact go_form s _
theorem form_retrainPeriod (j : Fin 350) (s : State) : HasForm (exec (.retrainPeriod j) s) s := by
  show HasForm (execRetrainPeriod j s) s
  unfold execRetrainPeriod
  exact go_form s _
theorem form_retrainTemperature (j : Fin 350) (temp : Int) (s : State) : HasForm (exec (.retrainTemperature j temp) s) s := by
  show HasForm (execRetrainTemperature j temp s) s
  unfold execRetrainTemperature
  exact go_form s _
theorem form_cpmMarginAlarm (j : Fin 350) (s : State) : HasForm (exec (.cpmMarginAlarm j) s) s := by
  show HasForm (execCpmMarginAlarm j s) s
  unfold execCpmMarginAlarm
  exact go_form s _
theorem form_retrainingEnd (j : Fin 350) (temp : Int) (s : State) : HasForm (exec (.retrainingEnd j temp) s) s := by
  show HasForm (execRetrainingEnd j temp s) s
  unfold execRetrainingEnd
  exact go_form s _
theorem form_voltageLoopPeriod (slacks : List Slack) (s : State) : HasForm (exec (.voltageLoopPeriod slacks) s) s := by
  show HasForm (execVoltageLoopPeriod slacks s) s
  unfold execVoltageLoopPeriod
  exact go_form s _
theorem form_frequencyLoopPeriod (slacks : List Slack) (s : State) : HasForm (exec (.frequencyLoopPeriod slacks) s) s := by
  show HasForm (execFrequencyLoopPeriod slacks s) s
  unfold execFrequencyLoopPeriod
  exact go_form s _
theorem form_capStep (temps : List (Nat × Int)) (powerW : Nat) (s : State) : HasForm (exec (.capStep temps powerW) s) s := by
  show HasForm (execCapStep temps powerW s) s
  unfold execCapStep
  exact go_form s _
theorem form_droop (j : Fin 350) (s : State) : HasForm (exec (.droop j) s) s := by
  show HasForm (execDroop j s) s
  unfold execDroop
  exact go_form s _
theorem form_adcThresholdLoop (b : Fin 8) (thresholds : List (Nat × Int)) (s : State) : HasForm (exec (.adcThresholdLoop b thresholds) s) s := by
  show HasForm (execAdcThresholdLoop b thresholds s) s
  unfold execAdcThresholdLoop
  exact go_form s _
theorem form_placementLoop (temps : List (Nat × Int)) (s : State) : HasForm (exec (.placementLoop temps) s) s := by
  show HasForm (execPlacementLoop temps s) s
  unfold execPlacementLoop
  exact go_form s _
theorem form_senseOpenDetect (rail : Fin 3) (kind : Fin 4) (s : State) : HasForm (exec (.senseOpenDetect rail kind) s) s := by
  show HasForm (execSenseOpenDetect rail kind s) s
  unfold execSenseOpenDetect
  exact go_form s _
theorem form_senseClear (r : Route) (v : Byte) (intact : List (Fin 3)) (s : State) : HasForm (exec (.senseClear r v intact) s) s := by
  show HasForm (execSenseClear r v intact s) s
  unfold execSenseClear
  exact go_form s _
theorem form_avsNack (mv : Nat) (s : State) : HasForm (exec (.avsNack mv) s) s := by
  show HasForm (execAvsNack mv s) s
  unfold execAvsNack
  exact go_form s _
theorem form_loopFreeze (r : Route) (v : Byte) (s : State) : HasForm (exec (.loopFreeze r v) s) s := by
  show HasForm (execLoopFreeze r v s) s
  unfold execLoopFreeze State.odRow
  exact go_form s _
theorem form_domainOverride (r : Route) (v : W16) (s : State) : HasForm (exec (.domainOverride r v) s) s := by
  show HasForm (execDomainOverride r v s) s
  unfold execDomainOverride State.odRow
  exact go_form s _
theorem form_ratioOverride (r : Route) (v : W16) (s : State) : HasForm (exec (.ratioOverride r v) s) s := by
  show HasForm (execRatioOverride r v s) s
  unfold execRatioOverride State.odRow
  exact go_form s _
theorem form_scrubIntervalTrigger (sp : Fin 8) (s : State) : HasForm (exec (.scrubIntervalTrigger sp) s) s := by
  show HasForm (execScrubIntervalTrigger sp s) s
  unfold execScrubIntervalTrigger
  exact go_form s _
theorem form_scrubRequest (r : Route) (s : State) : HasForm (exec (.scrubRequest r) s) s := by
  show HasForm (execScrubRequest r s) s
  unfold execScrubRequest State.odRow
  exact go_form s _
theorem form_scrubPassEnd (sp : Fin 8) (corrected : List Nat) (bad : List Nat) (s : State) : HasForm (exec (.scrubPassEnd sp corrected bad) s) s := by
  show HasForm (execScrubPassEnd sp corrected bad s) s
  unfold execScrubPassEnd
  exact go_form s _
theorem form_restartDrained (n : Fin 16) (s : State) : HasForm (exec (.restartDrained n) s) s := by
  show HasForm (execRestartDrained n s) s
  unfold execRestartDrained
  exact go_form s _
theorem form_reattach (r : Route) (n : Fin 16) (token : List Byte) (s : State) : HasForm (exec (.reattach r n token) s) s := by
  show HasForm (execReattach r n token s) s
  unfold execReattach
  exact go_form s _
theorem form_logSelect (r : Route) (v : W64) (s : State) : HasForm (exec (.logSelect r v) s) s := by
  show HasForm (execLogSelect r v s) s
  unfold execLogSelect State.odRow
  exact go_form s _
theorem form_bayLogSelect (r : Route) (n : Fin 16) (v : W64) (s : State) : HasForm (exec (.bayLogSelect r n v) s) s := by
  show HasForm (execBayLogSelect r n v s) s
  unfold execBayLogSelect State.odRow
  exact go_form s _
theorem form_ltssmDetect (s : State) : HasForm (exec (.ltssmDetect) s) s := by
  show HasForm (execLtssmDetect s) s
  unfold execLtssmDetect
  exact go_form s _
theorem form_hbmThrottleEnd (stack : Fin 8) (temp : Int) (s : State) : HasForm (exec (.hbmThrottleEnd stack temp) s) s := by
  show HasForm (execHbmThrottleEnd stack temp s) s
  unfold execHbmThrottleEnd
  exact go_form s _
theorem form_vrHotNDeassert (s : State) : HasForm (exec (.vrHotNDeassert) s) s := by
  show HasForm (execVrHotNDeassert s) s
  unfold execVrHotNDeassert
  exact go_form s _
theorem form_frameForward (p : Fin 12) (f : Frame) (s : State) : HasForm (exec (.frameForward p f) s) s := by
  show HasForm (execFrameForward p f s) s
  unfold execFrameForward
  exact go_form s _
theorem form_viol (p : Fin 12) (f : Frame) (s : State) : HasForm (exec (.viol p f) s) s := by
  show HasForm (execViol p f s) s
  unfold execViol
  exact go_form s _

theorem exec_form (c : Instr) (s : State) : HasForm (exec c s) s :=
  match c with
  | .sysRstNRelease flash => form_sysRstNRelease flash s
  | .sysRstNAssert => form_sysRstNAssert s
  | .standbyRailLoss => form_standbyRailLoss s
  | .strapSample pins => form_strapSample pins s
  | .romSlotCheckEnd answered => form_romSlotCheckEnd answered s
  | .mgmtFirmwareTakeover => form_mgmtFirmwareTakeover s
  | .mainPgRise => form_mainPgRise s
  | .mainPgFall => form_mainPgFall s
  | .mainRailsTimeout => form_mainRailsTimeout s
  | .hbmTrainingEnd stack trained => form_hbmTrainingEnd stack trained s
  | .hbmZeroingEnd => form_hbmZeroingEnd s
  | .dSectionCheckEnd => form_dSectionCheckEnd s
  | .eaveReady => form_eaveReady s
  | .enterReady => form_enterReady s
  | .bootWatchdogExpire => form_bootWatchdogExpire s
  | .bootRestart r => form_bootRestart r s
  | .recoveryImageDownload p img => form_recoveryImageDownload p img s
  | .perstNRise => form_perstNRise s
  | .perstNFall => form_perstNFall s
  | .thermalTrip stack temp => form_thermalTrip stack temp s
  | .hbmThrottle stack temp => form_hbmThrottle stack temp s
  | .vrHotNAssert => form_vrHotNAssert s
  | .smbReadDieTemp => form_smbReadDieTemp s
  | .smbReadHbmTemp => form_smbReadHbmTemp s
  | .smbReadStatus => form_smbReadStatus s
  | .smbReadFru block => form_smbReadFru block s
  | .configRequest tag op => form_configRequest tag op s
  | .usdoInitiate p write idx sub data last => form_usdoInitiate p write idx sub data last s
  | .usdoSegment p data last => form_usdoSegment p data last s
  | .usdoTimeout p => form_usdoTimeout p s
  | .canBusOff p => form_canBusOff p s
  | .canBusOffRecovery p => form_canBusOffRecovery p s
  | .odRead fn => form_odRead fn s
  | .odWrite fn => form_odWrite fn s
  | .odWriteAppend fn => form_odWriteAppend fn s
  | .odCmdNone fn => form_odCmdNone fn s
  | .odWindowTimeout fn => form_odWindowTimeout fn s
  | .dictRequestServe x => form_dictRequestServe x s
  | .saveAll r x => form_saveAll r x s
  | .restoreAll r => form_restoreAll r s
  | .journalSelect r v => form_journalSelect r v s
  | .fwStage r img => form_fwStage r img s
  | .fwStageEnd flashOk => form_fwStageEnd flashOk s
  | .activate r => form_activate r s
  | .activationTakeover => form_activationTakeover s
  | .fuseSvnRaise r v => form_fuseSvnRaise r v s
  | .claim r n => form_claim r n s
  | .commit r n => form_commit r n s
  | .commitScrubEnd n => form_commitScrubEnd n s
  | .reconfigure r n => form_reconfigure r n s
  | .stop r n => form_stop r n s
  | .release r n => form_release r n s
  | .reset r n => form_reset r n s
  | .drainEnd n => form_drainEnd n s
  | .bayBecomesIdle n => form_bayBecomesIdle n s
  | .holdTimeExpire n => form_holdTimeExpire n s
  | .shareGrant r n slot v => form_shareGrant r n slot v s
  | .shareAccept r n slot v => form_shareAccept r n slot v s
  | .dlUp width rate flit cxl => form_dlUp width rate flit cxl s
  | .linkRecoveryEnter => form_linkRecoveryEnter s
  | .linkRecoveryExit width rate flit cxl => form_linkRecoveryExit width rate flit cxl s
  | .dlDown => form_dlDown s
  | .hotResetReceived => form_hotResetReceived s
  | .linkDisable => form_linkDisable s
  | .linkCtlRetrain r => form_linkCtlRetrain r s
  | .flrPf0 tag => form_flrPf0 tag s
  | .flrVf n tag => form_flrVf n tag s
  | .vfEnableClear tag => form_vfEnableClear tag s
  | .busMasterEnableClear fn tag => form_busMasterEnableClear fn tag s
  | .busMasterEnableSet fn tag => form_busMasterEnableSet fn tag s
  | .vfResizableBarWrite gib tag => form_vfResizableBarWrite gib tag s
  | .hdmDecoderCommit k base size => form_hdmDecoderCommit k base size s
  | .hdmMapWrite r k v => form_hdmMapWrite r k v s
  | .msixUnmask fn vec => form_msixUnmask fn vec s
  | .ideKmKey stream vfs ranges => form_ideKmKey stream vfs ranges s
  | .ideIntegrityFailure stream header => form_ideIntegrityFailure stream header s
  | .atomicopFetchadd q => form_atomicopFetchadd q s
  | .atomicopSwap q => form_atomicopSwap q s
  | .atomicopCas q => form_atomicopCas q s
  | .partnerViolation v => form_partnerViolation v s
  | .completionReceived tag st data => form_completionReceived tag st data s
  | .completionTimeout tag => form_completionTimeout tag s
  | .violSelect r v => form_violSelect r v s
  | .memRd k off mv tag => form_memRd k off mv tag s
  | .memRdData k off tag => form_memRdData k off tag s
  | .memWr k off mv data tag => form_memWr k off mv data tag s
  | .memWrPtl k off mv mask data tag => form_memWrPtl k off mv mask data tag s
  | .evDbQ n q v => form_evDbQ n q v s
  | .evDbFence n v => form_evDbFence n v s
  | .fenceRelease n => form_fenceRelease n s
  | .fenceDoneRead n tag => form_fenceDoneRead n tag s
  | .hatchPost n slot data => form_hatchPost n slot data s
  | .htOutAck n v => form_htOutAck n v s
  | .skylightWrite n off data => form_skylightWrite n off data s
  | .skylightRead n off len tag => form_skylightRead n off len tag s
  | .skyMapWrite r n w v => form_skyMapWrite r n w v s
  | .lowHalfRead fn off tag len => form_lowHalfRead fn off tag len s
  | .highHalfRead fn off tag => form_highHalfRead fn off tag s
  | .registerWriteOther fn off data => form_registerWriteOther fn off data s
  | .lathWalkEnd id readError => form_lathWalkEnd id readError s
  | .translationCompletion tag malformed hpa size canRead canWrite => form_translationCompletion tag malformed hpa size canRead canWrite s
  | .atsInvalidateRequest n itag pasid base size => form_atsInvalidateRequest n itag pasid base size s
  | .atsInvalidateComplete n itag => form_atsInvalidateComplete n itag s
  | .lathInvalWrite r n v => form_lathInvalWrite r n v s
  | .lathInvalComplete n => form_lathInvalComplete n s
  | .prgSuccess idx pasid => form_prgSuccess idx pasid s
  | .prgInvalidRequest idx pasid => form_prgInvalidRequest idx pasid s
  | .prgResponseFailure idx pasid => form_prgResponseFailure idx pasid s
  | .priStatusClear tag => form_priStatusClear tag s
  | .prgTimeout idx => form_prgTimeout idx s
  | .faultResumeResume r n => form_faultResumeResume r n s
  | .faultResumeAbort r n => form_faultResumeAbort r n s
  | .rdShared a line ecc tn => form_rdShared a line ecc tn s
  | .rdOwn a line ecc tn => form_rdOwn a line ecc tn s
  | .upgrade a line ecc tn => form_upgrade a line ecc tn s
  | .wbDirty a line data poison tn => form_wbDirty a line data poison tn s
  | .ncRead isl line tn ecc mask => form_ncRead isl line tn ecc mask s
  | .ncWrite isl line tn mask data ecc => form_ncWrite isl line tn mask data ecc s
  | .ncAtomic isl line tn op off size operand compare returning ecc => form_ncAtomic isl line tn op off size operand compare returning ecc s
  | .snpShared c line tn => form_snpShared c line tn s
  | .snpInv c line tn => form_snpInv c line tn s
  | .snpCur c line tn => form_snpCur c line tn s
  | .snpAck a line st => form_snpAck a line st s
  | .snpData a line st data poison => form_snpData a line st data poison s
  | .cmpAck a line => form_cmpAck a line s
  | .wbAck c line => form_wbAck c line s
  | .cmp isl line tn st => form_cmp isl line tn st s
  | .data isl line tn data st poison => form_data isl line tn data st poison s
  | .retry isl line tn => form_retry isl line tn s
  | .gone isl line tn => form_gone isl line tn s
  | .retryResend isl line tn => form_retryResend isl line tn s
  | .snoopTimeout a line => form_snoopTimeout a line s
  | .cellTableWrite r sub v => form_cellTableWrite r sub v s
  | .cellChangeEnd => form_cellChangeEnd s
  | .birsp line st data => form_birsp line st data s
  | .biconflict line => form_biconflict line s
  | .bisnpTimeout line => form_bisnpTimeout line s
  | .h2dSnpData hpa => form_h2dSnpData hpa s
  | .h2dSnpInv hpa => form_h2dSnpInv hpa s
  | .h2dSnpCur hpa => form_h2dSnpCur hpa s
  | .hostGoResponse hpa st data => form_hostGoResponse hpa st data s
  | .spValueWrite n j v => form_spValueWrite n j v s
  | .spAdd n j v => form_spAdd n j v s
  | .spThreshWrite n j v => form_spThreshWrite n j v s
  | .arm n j v => form_arm n j v s
  | .disarm n j v => form_disarm n j v s
  | .sparCtlDictArm r n v => form_sparCtlDictArm r n v s
  | .sparFireEnd sp => form_sparFireEnd sp s
  | .commandFetch n readError => form_commandFetch n readError s
  | .commandStart n q => form_commandStart n q s
  | .nop n q p => form_nop n q p s
  | .fence n q p => form_fence n q p s
  | .fenceComplete n q p => form_fenceComplete n q p s
  | .wait n q p => form_wait n q p s
  | .waitSatisfied n q p => form_waitSatisfied n q p s
  | .waitTimeout n q p => form_waitTimeout n q p s
  | .signal n q p => form_signal n q p s
  | .hold n q p => form_hold n q p s
  | .holdComplete n q p => form_holdComplete n q p s
  | .layer n q p => form_layer n q p s
  | .layerComplete n q p => form_layerComplete n q p s
  | .beginJob n q p => form_beginJob n q p s
  | .endJob n q p => form_endJob n q p s
  | .lathInval n q p => form_lathInval n q p s
  | .gutter n q p => form_gutter n q p s
  | .course n q p => form_course n q p s
  | .chain n q p => form_chain n q p s
  | .run n q p => form_run n q p s
  | .engine n q p => form_engine n q p s
  | .seat n q p => form_seat n q p s
  | .trim n q p => form_trim n q p s
  | .enable r n q => form_enable r n q s
  | .disable r n q => form_disable r n q s
  | .resume r n q => form_resume r n q s
  | .skip r n q => form_skip r n q s
  | .descriptorFetch c ecc => form_descriptorFetch c ecc s
  | .descriptorEnd c ecc => form_descriptorEnd c ecc s
  | .restart r n => form_restart r n s
  | .abort r n => form_abort r n s
  | .blockListBurstReturn c ecc => form_blockListBurstReturn c ecc s
  | .coursePassEnd c ecc => form_coursePassEnd c ecc s
  | .derateRecompute eccRetryPpm => form_derateRecompute eccRetryPpm s
  | .proportionalServiceEnd res => form_proportionalServiceEnd res s
  | .halt c => form_halt c s
  | .load c ecc => form_load c ecc s
  | .store c => form_store c s
  | .matvec c => form_matvec c s
  | .eltwise c => form_eltwise c s
  | .requant c => form_requant c s
  | .ringTake c => form_ringTake c s
  | .ringPut c => form_ringPut c s
  | .sparSet c => form_sparSet c s
  | .sparAdd c => form_sparAdd c s
  | .sparWait c => form_sparWait c s
  | .sparFetchadd c => form_sparFetchadd c s
  | .hatchTake c => form_hatchTake c s
  | .hatchRelease c => form_hatchRelease c s
  | .hatchFill c => form_hatchFill c s
  | .loop c => form_loop c s
  | .branch c => form_branch c s
  | .barrier c => form_barrier c s
  | .coreWaitSatisfied c => form_coreWaitSatisfied c s
  | .engineOpStart g => form_engineOpStart g s
  | .engineOpEnd g => form_engineOpEnd g s
  | .flashTaskEnd n poisoned => form_flashTaskEnd n poisoned s
  | .thatchEvaluation n q p stage reads => form_thatchEvaluation n q p stage reads s
  | .seatEnd a m => form_seatEnd a m s
  | .trimEnd a pair fit spareOk => form_trimEnd a pair fit spareOk s
  | .calibrationStart a => form_calibrationStart a s
  | .calibrationEnd a fits => form_calibrationEnd a fits s
  | .calTimeTrigger a => form_calTimeTrigger a s
  | .calTemperatureSample b temp => form_calTemperatureSample b temp s
  | .calRequest r n => form_calRequest r n s
  | .certify n q p stage => form_certify n q p stage s
  | .auditEnd n => form_auditEnd n s
  | .inputDigestEnd n j => form_inputDigestEnd n j s
  | .outputDigestEnd n j => form_outputDigestEnd n j s
  | .signatureEnd n signerOk => form_signatureEnd n signerOk s
  | .sinkRecordWrite n => form_sinkRecordWrite n s
  | .sinkReadWrite r n v => form_sinkReadWrite r n v s
  | .sinkCtlWrite r n v => form_sinkCtlWrite r n v s
  | .portLock p => form_portLock p s
  | .portLinkLoss p => form_portLinkLoss p s
  | .portCtlRetrain r p => form_portCtlRetrain r p s
  | .portCtlClear r p => form_portCtlClear r p s
  | .helloSend p => form_helloSend p s
  | .hello p id assigned port => form_hello p id assigned port s
  | .helloTimeout p => form_helloTimeout p s
  | .assign p f => form_assign p f s
  | .lack p f => form_lack p f s
  | .lnak p f => form_lnak p f s
  | .lackSend p => form_lackSend p s
  | .retransmitTimeout p => form_retransmitTimeout p s
  | .fabricViolation p kind f => form_fabricViolation p kind f s
  | .put p f => form_put p f s
  | .get p f => form_get p f s
  | .purlinSignal p f => form_purlinSignal p f s
  | .ctlRd p f => form_ctlRd p f s
  | .ctlWr p f => form_ctlWr p f s
  | .putAck p f => form_putAck p f s
  | .getRsp p f => form_getRsp p f s
  | .sigAck p f => form_sigAck p f s
  | .ctlRsp p f => form_ctlRsp p f s
  | .remoteResend tn => form_remoteResend tn s
  | .remoteTimeout tn => form_remoteTimeout tn s
  | .hb p f => form_hb p f s
  | .hbTimeout n => form_hbTimeout n s
  | .rdmaWrite p k => form_rdmaWrite p k s
  | .rdmaRead p k => form_rdmaRead p k s
  | .arpRequest p ip mac => form_arpRequest p ip mac s
  | .neighbourSolicitation p ip mac => form_neighbourSolicitation p ip mac s
  | .icmpEchoRequest p v6 ip data => form_icmpEchoRequest p v6 ip data s
  | .pfcFrame p prio quanta => form_pfcFrame p prio quanta s
  | .sync p m => form_sync p m s
  | .followUp p m => form_followUp p m s
  | .delayReq p m => form_delayReq p m s
  | .delayResp p m => form_delayResp p m s
  | .announce p m => form_announce p m s
  | .announceReceiptTimeout p => form_announceReceiptTimeout p s
  | .syncInterval p => form_syncInterval p s
  | .ppsInEdge => form_ppsInEdge s
  | .ppsOutPulse => form_ppsOutPulse s
  | .bar4Write rid ap off data => form_bar4Write rid ap off data s
  | .bar4Read rid ap off len tag => form_bar4Read rid ap off len tag s
  | .placementApplied n j => form_placementApplied n j s
  | .regCtlWrite r n v => form_regCtlWrite r n v s
  | .islandReset r => form_islandReset r s
  | .powerDown r => form_powerDown r s
  | .wake r => form_wake r s
  | .retrain r => form_retrain r s
  | .gateTimer j => form_gateTimer j s
  | .flushEnd j => form_flushEnd j s
  | .closeWindowEnd j => form_closeWindowEnd j s
  | .islandStartEnd j => form_islandStartEnd j s
  | .retrainPeriod j => form_retrainPeriod j s
  | .retrainTemperature j temp => form_retrainTemperature j temp s
  | .cpmMarginAlarm j => form_cpmMarginAlarm j s
  | .retrainingEnd j temp => form_retrainingEnd j temp s
  | .voltageLoopPeriod slacks => form_voltageLoopPeriod slacks s
  | .frequencyLoopPeriod slacks => form_frequencyLoopPeriod slacks s
  | .capStep temps powerW => form_capStep temps powerW s
  | .droop j => form_droop j s
  | .adcThresholdLoop b thresholds => form_adcThresholdLoop b thresholds s
  | .placementLoop temps => form_placementLoop temps s
  | .senseOpenDetect rail kind => form_senseOpenDetect rail kind s
  | .senseClear r v intact => form_senseClear r v intact s
  | .avsNack mv => form_avsNack mv s
  | .loopFreeze r v => form_loopFreeze r v s
  | .domainOverride r v => form_domainOverride r v s
  | .ratioOverride r v => form_ratioOverride r v s
  | .scrubIntervalTrigger sp => form_scrubIntervalTrigger sp s
  | .scrubRequest r => form_scrubRequest r s
  | .scrubPassEnd sp corrected bad => form_scrubPassEnd sp corrected bad s
  | .restartDrained n => form_restartDrained n s
  | .reattach r n token => form_reattach r n token s
  | .logSelect r v => form_logSelect r v s
  | .bayLogSelect r n v => form_bayLogSelect r n v s
  | .ltssmDetect => form_ltssmDetect s
  | .hbmThrottleEnd stack temp => form_hbmThrottleEnd stack temp s
  | .vrHotNDeassert => form_vrHotNDeassert s
  | .frameForward p f => form_frameForward p f s
  | .viol p f => form_viol p f s

end Sys2Proof.Machine
end

