-- ==== Sys2Proof/Laws/Settle.lean ====
section
/-! SUPPORT. What a command that leaves nothing due ends with: nothing more (`settle_quiet`), and the state it then answers
(`go_quiet`). -/
namespace Sys2Proof.Machine

theorem smGet_all {α : Type} (dflt : α) (p : α → Bool) (h0 : p dflt = true) (m : SMap α) (h : (m.all fun c => p c.2) = true) (k : Nat) :
    p (smGet dflt m k) = true := by
  induction m with
  | nil => exact h0
  | cons c r ih =>
    simp only [List.all_cons, Bool.and_eq_true] at h
    unfold smGet
    split
    · exact h.1
    · exact ih h.2

theorem filter_of_all_not {α : Type} (p : α → Bool) (l : List α) (h : (l.all fun x => !p x) = true) : l.filter p = [] := by
  simpa [List.filter_eq_nil_iff] using h

theorem foldl_fixed {α β : Type} (f : β → α → β) (b : β) (l : List α) (h : ∀ x ∈ l, f b x = b) : l.foldl f b = b := by
  induction l with
  | nil => rfl
  | cons x r ih =>
    rw [List.foldl_cons, h x (by simp)]
    exact ih fun y hy => h y (by simp [hy])

/-- The parts of `quiet`. -/
theorem Dev.quiet_iff (d : Dev) : d.quiet = true ↔
    (d.pages.all fun c => c.2.sky.isEmpty) = true ∧ d.places = [] ∧ d.faults = [] ∧ d.ckpts = [] ∧ (d.spars.all fun c => !c.2.pend) = true ∧
    d.link.heldRecs = [] ∧ (d.fabric.ports.all fun c => c.2.still) = true ∧ d.board.smbSeen = 0 ∧ d.released = false := by
  simp only [Dev.quiet, Bool.and_eq_true, List.isEmpty_iff, beq_iff_eq, Bool.not_eq_true', and_assoc]

theorem Dev.flushPaused_still (d : Dev) (e : Env) (h : (d.fabric.ports.all fun c => c.2.still) = true) : d.flushPaused e = d := by
  refine foldl_fixed _ _ _ fun p _ => ?_
  have hp := smGet_all ({} : Port) Port.still (by decide) d.fabric.ports h p
  simp only [Port.still, Bool.and_eq_true] at hp
  have h1 : (d.port p).paused.isEmpty = true := hp.1.1
  have h2 : (d.port p).held.isEmpty = true := hp.1.2
  simp only [h1, h2, Bool.and_self, if_true]

theorem Port.stamp_still (x : Port) (t : Nat) (h : x.still = true) :
    (if x.unacked.isEmpty then { x with lastSend := 0 } else if x.lastSend = 0 then { x with lastSend := t } else x) = x := by
  simp only [Port.still, Bool.and_eq_true, beq_iff_eq] at h
  obtain ⟨-, h⟩ := h
  by_cases hu : x.unacked.isEmpty = true
  · have : x.lastSend = 0 := by simpa [hu] using h
    rw [if_pos hu, ← this]
  · have : x.lastSend ≠ 0 := by
      intro h0
      simp [h0] at h
      exact hu (by simp [h])
    rw [if_neg hu, if_neg this]

theorem Dev.stampPorts_still (d : Dev) (e : Env) (h : (d.fabric.ports.all fun c => c.2.still) = true) : d.stampPorts e = d := by
  have : (d.fabric.ports.map fun (c : Nat × Port) =>
      (c.1, if c.2.unacked.isEmpty then { c.2 with lastSend := 0 } else if c.2.lastSend = 0 then { c.2 with lastSend := e.time } else c.2)) = d.fabric.ports := by
    rw [List.all_eq_true] at h
    conv_rhs => rw [← List.map_id d.fabric.ports]
    refine List.map_congr_left fun c hc => ?_
    rw [Port.stamp_still c.2 e.time (h c hc)]
    rfl
  unfold Dev.stampPorts
  rw [this]

/-- Where nothing is due, a command ends with nothing more. -/
theorem Dev.settle_quiet (d : Dev) (e : Env) (h : d.quiet = true) : d.settle e = d := by
  obtain ⟨h1, h2, h3, h4, h5, h6, h7, h8, h9⟩ := (Dev.quiet_iff d).mp h
  have e1 : d.flushSkies e = d := by
    unfold Dev.flushSkies
    rw [filter_of_all_not _ _ (by simpa using h1)]
    rfl
  have e2 : d.flushPlaces e = d := by
    unfold Dev.flushPlaces
    rw [h2]
    rfl
  have e3 : d.settleFaults e = d := by
    unfold Dev.settleFaults
    rw [h3]
    rfl
  have e4 : d.flushCkpts e = d := by
    unfold Dev.flushCkpts
    rw [h4]
    rfl
  have e5 : d.flushMirrors e = d := by
    unfold Dev.flushMirrors Dev.writeMirrors
    rw [filter_of_all_not _ _ (by simpa using h5)]
    rfl
  have e6 : d.flushRecs e = d := by
    unfold Dev.flushRecs Dev.writeRecs
    rw [h6]
    show ({ d with link := { d.link with heldRecs := [] } } : Dev) = d
    rw [← h6]
  have e9 : d.noteSmb = d := by
    unfold Dev.noteSmb
    rw [if_pos h8]
  have e10 : d.askAgain e = d := by
    unfold Dev.askAgain
    rw [h9]
    rfl
  unfold Dev.settle
  rw [e1, e2, e3, e4, e5, e6, Dev.flushPaused_still d e h7, e10, Dev.stampPorts_still d e h7, e9]

/-! ### The commands of the tick -/

/-- No command that may go before another waits on the tick. -/
def Env.calm (e : Env) : Bool := e.tick.all fun c => !(Instr.first c)

theorem Dev.lead_calm (d : Dev) (e : Env) (p : Instr → Bool) (f : Dev → Instr → Dev) (h : e.calm = true) (hp : ∀ c, p c = true → Instr.first c = true) :
    d.lead e p f = d := by
  refine foldl_fixed _ _ _ fun c hc => ?_
  have h1 : Instr.first c = false := by
    have := List.all_eq_true.mp h c hc
    simpa using this
  have h2 : p c = false := by
    cases hpc : p c with
    | false => rfl
    | true => exact absurd (hp c hpc) (by simp [h1])
  simp [h2]

theorem Dev.leadIslands_calm (d : Dev) (e : Env) (h : e.calm = true) : d.leadIslands e = d := by
  refine Dev.lead_calm d e _ _ h fun c hc => ?_
  unfold Instr.moves at hc
  split at hc
  · rfl
  · rfl
  · rfl
  · exact absurd hc (by simp)

/-- A command waits for nothing that has gone before its turn. -/
theorem Dev.turn_rests (d : Dev) (e : Env) (c : Instr) (f : Env → Dev → Dev) (h : d.ahead = []) : Dev.turn c f e d = f e d := by
  unfold Dev.turn
  rw [h]
  rfl

theorem Dev.turnOf_rests (d : Dev) (e : Env) (p : Instr → Bool) (f : Env → Dev → Dev) (h : d.ahead = []) : Dev.turnOf p f e d = f e d := by
  unfold Dev.turnOf
  rw [h]
  rfl

theorem State.rests_iff (s : State) : s.rests = true ↔ s.dev.quiet = true ∧ s.dev.stores = [] ∧ s.dev.ahead = [] ∧ s.env.calm = true := by
  simp only [State.rests, Bool.and_eq_true, List.isEmpty_iff, and_assoc]
  exact Iff.rfl

theorem State.rests_calm (s : State) (h : s.rests = true) : s.env.calm = true := ((State.rests_iff s).mp h).2.2.2

/-- A command makes no memory write: it commits the device alone. -/
theorem State.commit_quiet (s : State) (d : Dev) (h : d.stores = []) : s.commit d = { s with dev := d } := by
  unfold State.commit
  rw [h]
  show ({ s with mem := s.mem, poison := s.poison, dev := { d with stores := [] } } : State) = _
  rw [← h]

/-- In a state that rests, a command after which nothing is due answers its own effect, its memory writes made. -/
theorem State.go_quiet (s : State) (f : Env → Dev → Dev) (h0 : s.rests = true) (h : (f s.env s.dev).quiet = true) :
    s.go f = .next (s.commit (f s.env s.dev)) := by
  show Host.Outcome.next (s.commit ((f s.env (s.dev.leadIslands s.env)).settle s.env)) = _
  rw [Dev.leadIslands_calm _ _ (s.rests_calm h0), Dev.settle_quiet _ _ h]

/-- In a state that rests, a command after which nothing is due, and that writes no memory, answers its own effect alone. -/
theorem State.go_still (s : State) (f : Env → Dev → Dev) (h0 : s.rests = true) (h : (f s.env s.dev).quiet = true) (h' : (f s.env s.dev).stores = []) :
    s.go f = .next { s with dev := f s.env s.dev } := by
  rw [State.go_quiet s f h0 h, State.commit_quiet _ _ h']

/-- In a state that rests, a command whose effect on the device is `d'`, after which nothing is due, answers its own effect. -/
theorem State.go_to (s : State) (f : Env → Dev → Dev) (d' : Dev) (h0 : s.rests = true) (h : f s.env s.dev = d') (hq : d'.quiet = true) (hs : d'.stores = []) :
    s.go f = .next { s with dev := d' } := by
  subst h
  exact State.go_still s f h0 hq hs

/-! ### Updates that make nothing due -/

@[simp] theorem Dev.quiet_nv (d : Dev) (x : Nv) : ({ d with nv := x } : Dev).quiet = d.quiet := rfl
@[simp] theorem Dev.quiet_boot (d : Dev) (x : Boot) : ({ d with boot := x } : Dev).quiet = d.quiet := rfl
@[simp] theorem Dev.quiet_srv (d : Dev) (x : Server) : ({ d with srv := x } : Dev).quiet = d.quiet := rfl
@[simp] theorem Dev.quiet_bays (d : Dev) (x : SMap Bay) : ({ d with bays := x } : Dev).quiet = d.quiet := rfl
@[simp] theorem Dev.quiet_shadows (d : Dev) (x : SMap (Option (Nat × Nat))) : ({ d with shadows := x } : Dev).quiet = d.quiet := rfl
@[simp] theorem Dev.quiet_trans (d : Dev) (x : Trans) : ({ d with trans := x } : Dev).quiet = d.quiet := rfl
@[simp] theorem Dev.quiet_ridge (d : Dev) (x : Ridge) : ({ d with ridge := x } : Dev).quiet = d.quiet := rfl
@[simp] theorem Dev.quiet_queues (d : Dev) (x : SMap Queue) : ({ d with queues := x } : Dev).quiet = d.quiet := rfl
@[simp] theorem Dev.quiet_gutters (d : Dev) (x : SMap Gutter) : ({ d with gutters := x } : Dev).quiet = d.quiet := rfl
@[simp] theorem Dev.quiet_courses (d : Dev) (x : SMap Course) : ({ d with courses := x } : Dev).quiet = d.quiet := rfl
@[simp] theorem Dev.quiet_arbs (d : Dev) (x : SMap Arb) : ({ d with arbs := x } : Dev).quiet = d.quiet := rfl
@[simp] theorem Dev.quiet_chains (d : Dev) (x : List Chain) : ({ d with chains := x } : Dev).quiet = d.quiet := rfl
@[simp] theorem Dev.quiet_prepared (d : Dev) (x : List Chain) : ({ d with prepared := x } : Dev).quiet = d.quiet := rfl
@[simp] theorem Dev.quiet_cores (d : Dev) (x : SMap Core) : ({ d with cores := x } : Dev).quiet = d.quiet := rfl
@[simp] theorem Dev.quiet_runs (d : Dev) (x : List RunRec) : ({ d with runs := x } : Dev).quiet = d.quiet := rfl
@[simp] theorem Dev.quiet_nextRun (d : Dev) (x : Nat) : ({ d with nextRun := x } : Dev).quiet = d.quiet := rfl
@[simp] theorem Dev.quiet_engines (d : Dev) (x : SMap Engine) : ({ d with engines := x } : Dev).quiet = d.quiet := rfl
@[simp] theorem Dev.quiet_arrays (d : Dev) (x : SMap Arr) : ({ d with arrays := x } : Dev).quiet = d.quiet := rfl
@[simp] theorem Dev.quiet_tasks (d : Dev) (x : List Task) : ({ d with tasks := x } : Dev).quiet = d.quiet := rfl
@[simp] theorem Dev.quiet_journals (d : Dev) (x : SMap Journal) : ({ d with journals := x } : Dev).quiet = d.quiet := rfl
@[simp] theorem Dev.quiet_jseq (d : Dev) (x : Nat) : ({ d with jseq := x } : Dev).quiet = d.quiet := rfl
@[simp] theorem Dev.quiet_jtick (d : Dev) (x : TickRecs) : ({ d with jtick := x } : Dev).quiet = d.quiet := rfl
@[simp] theorem Dev.quiet_ahead (d : Dev) (x : List Instr) : ({ d with ahead := x } : Dev).quiet = d.quiet := rfl
@[simp] theorem Dev.quiet_nonce (d : Dev) (x : Nat) : ({ d with nonce := x } : Dev).quiet = d.quiet := rfl
@[simp] theorem Dev.quiet_regions (d : Dev) (x : SMap Region) : ({ d with regions := x } : Dev).quiet = d.quiet := rfl
@[simp] theorem Dev.quiet_qps (d : Dev) (x : SMap Qp) : ({ d with qps := x } : Dev).quiet = d.quiet := rfl
@[simp] theorem Dev.quiet_nextPlace (d : Dev) (x : Nat) : ({ d with nextPlace := x } : Dev).quiet = d.quiet := rfl
@[simp] theorem Dev.quiet_loops (d : Dev) (x : Loops) : ({ d with loops := x } : Dev).quiet = d.quiet := rfl
@[simp] theorem Dev.quiet_flog (d : Dev) (x : List FRec) : ({ d with flog := x } : Dev).quiet = d.quiet := rfl
@[simp] theorem Dev.quiet_flogSeq (d : Dev) (x : Nat) : ({ d with flogSeq := x } : Dev).quiet = d.quiet := rfl
@[simp] theorem Dev.quiet_out (d : Dev) (x : List Out) : ({ d with out := x } : Dev).quiet = d.quiet := rfl
@[simp] theorem Dev.quiet_free (d : Dev) (x : Nat) : ({ d with free := x } : Dev).quiet = d.quiet := rfl
@[simp] theorem Dev.quiet_signerFailed (d : Dev) (x : Bool) : ({ d with signerFailed := x } : Dev).quiet = d.quiet := rfl
@[simp] theorem Dev.quiet_stores (d : Dev) (x : List MemOp) : ({ d with stores := x } : Dev).quiet = d.quiet := rfl
@[simp] theorem Dev.quiet_setBay (d : Dev) (n : Nat) (b : Bay) : (d.setBay n b).quiet = d.quiet := rfl
@[simp] theorem Dev.quiet_setWin (d : Dev) (fn : Nat) (w : Win) : (d.setWin fn w).quiet = d.quiet := rfl
@[simp] theorem Dev.quiet_setQueue (d : Dev) (n q : Nat) (x : Queue) : (d.setQueue n q x).quiet = d.quiet := rfl
@[simp] theorem Dev.quiet_setGutter (d : Dev) (c : Nat) (x : Gutter) : (d.setGutter c x).quiet = d.quiet := rfl
@[simp] theorem Dev.quiet_setCourse (d : Dev) (c : Nat) (x : Course) : (d.setCourse c x).quiet = d.quiet := rfl
@[simp] theorem Dev.quiet_setArb (d : Dev) (r : Nat) (x : Arb) : (d.setArb r x).quiet = d.quiet := rfl
@[simp] theorem Dev.quiet_setCore (d : Dev) (c : Nat) (x : Core) : (d.setCore c x).quiet = d.quiet := rfl
@[simp] theorem Dev.quiet_setEngine (d : Dev) (g : Nat) (x : Engine) : (d.setEngine g x).quiet = d.quiet := rfl
@[simp] theorem Dev.quiet_setArr (d : Dev) (a : Nat) (x : Arr) : (d.setArr a x).quiet = d.quiet := rfl
@[simp] theorem Dev.quiet_setJour (d : Dev) (n : Nat) (x : Journal) : (d.setJour n x).quiet = d.quiet := rfl
@[simp] theorem Dev.quiet_setRegion (d : Dev) (n r : Nat) (x : Region) : (d.setRegion n r x).quiet = d.quiet := rfl
@[simp] theorem Dev.quiet_setQp (d : Dev) (n i : Nat) (x : Qp) : (d.setQp n i x).quiet = d.quiet := rfl
@[simp] theorem Dev.quiet_setIsland (d : Dev) (i : Nat) (x : Island) : (d.setIsland i x).quiet = d.quiet := rfl
@[simp] theorem Dev.quiet_setDomain (d : Dev) (i : Nat) (x : Domain) : (d.setDomain i x).quiet = d.quiet := rfl
@[simp] theorem Dev.quiet_setScrub (d : Dev) (k : Nat) (x : Scrub) : (d.setScrub k x).quiet = d.quiet := rfl
@[simp] theorem Dev.quiet_setOd (d : Dev) (idx sub v : Nat) : (d.setOd idx sub v).quiet = d.quiet := rfl
@[simp] theorem Dev.quiet_send (d : Dev) (o : Out) : (d.send o).quiet = d.quiet := rfl
@[simp] theorem Dev.quiet_store (d : Dev) (o : MemOp) : (d.store o).quiet = d.quiet := rfl
@[simp] theorem Dev.quiet_pendVec (d : Dev) (fn v : Nat) : (d.pendVec fn v).quiet = d.quiet := rfl
@[simp] theorem Dev.quiet_count (d : Dev) (idx sub k : Nat) : (d.count idx sub k).quiet = d.quiet := by
  unfold Dev.count
  split <;> rfl
@[simp] theorem Dev.stores_count (d : Dev) (idx sub k : Nat) : (d.count idx sub k).stores = d.stores := by
  unfold Dev.count
  split <;> rfl

/-- The pins, rails and temperatures make nothing due, as long as no SMBus status bit is taken as read. -/
theorem Dev.quiet_board (d : Dev) (b : Board) (hq : d.quiet = true) (hb : b.smbSeen = d.board.smbSeen) : ({ d with board := b } : Dev).quiet = true := by
  rw [Dev.quiet_iff] at hq ⊢
  exact ⟨hq.1, hq.2.1, hq.2.2.1, hq.2.2.2.1, hq.2.2.2.2.1, hq.2.2.2.2.2.1, hq.2.2.2.2.2.2.1, hb.trans hq.2.2.2.2.2.2.2.1, hq.2.2.2.2.2.2.2.2⟩

/-- The host link makes nothing due, as long as no completion record is held anew. -/
theorem Dev.quiet_link (d : Dev) (l : Link) (hq : d.quiet = true) (hl : l.heldRecs = d.link.heldRecs) : ({ d with link := l } : Dev).quiet = true := by
  rw [Dev.quiet_iff] at hq ⊢
  exact ⟨hq.1, hq.2.1, hq.2.2.1, hq.2.2.2.1, hq.2.2.2.2.1, hl.trans hq.2.2.2.2.2.1, hq.2.2.2.2.2.2⟩

/-- The fabric makes nothing due, as long as its ports are still. -/
theorem Dev.quiet_fabric (d : Dev) (f : Fabric) (hq : d.quiet = true) (hf : (f.ports.all fun c => c.2.still) = true) :
    ({ d with fabric := f } : Dev).quiet = true := by
  rw [Dev.quiet_iff] at hq ⊢
  exact ⟨hq.1, hq.2.1, hq.2.2.1, hq.2.2.2.1, hq.2.2.2.2.1, hq.2.2.2.2.2.1, hf, hq.2.2.2.2.2.2.2⟩

end Sys2Proof.Machine
end

