-- ==== Sys2Proof/Laws/Tick.lean ====
section
/-! SUPPORT. Where no command that a rule puts first waits on the tick, nothing goes ahead of its turn: each operation that takes such
commands first leaves the device as it is (`Dev.leadLoss_calm` and the others). -/
namespace Sys2Proof.Machine

/-! ### The commands that a rule puts first are those that `Instr.first` names -/

theorem Instr.first_of_dictRoute (c : Instr) (h : (Instr.dictRoute c).isSome = true) : Instr.first c = true := by
  unfold Instr.first
  split <;> first | rfl | simp [h]

theorem Instr.first_of_pageWrite (c : Instr) (h : (Instr.pageWrite c).isSome = true) : Instr.first c = true := by
  unfold Instr.first
  split <;> first | rfl | simp [h]

theorem Instr.first_of_loses (n : Nat) (c : Instr) (h : Instr.loses n c = true) : Instr.first c = true := by
  unfold Instr.loses at h
  split at h <;> first | rfl | exact absurd h (by decide)

/-- No command that may go first waits on a calm tick. -/
theorem Env.calm_none (e : Env) (h : e.calm = true) (c : Instr) (hc : c ∈ e.tick) : Instr.first c = false := by
  simpa using List.all_eq_true.mp h c hc

/-- A choice among such commands finds none. -/
theorem Env.calm_filterMap {α : Type} (e : Env) (h : e.calm = true) (f : Instr → Option α) (hf : ∀ c, (f c).isSome = true → Instr.first c = true) :
    e.tick.filterMap f = [] := by
  rw [List.filterMap_eq_nil_iff]
  intro c hc
  have h1 := e.calm_none h c hc
  cases hv : f c with
  | none => rfl
  | some x => exact absurd (hf c (by simp [hv])) (by simp [h1])

theorem Env.calm_any (e : Env) (h : e.calm = true) (p : Instr → Bool) (hp : ∀ c, p c = true → Instr.first c = true) : e.tick.any p = false := by
  rw [List.any_eq_false]
  intro c hc hv
  exact absurd (hp c hv) (by simp [e.calm_none h c hc])

/-! ### What goes first -/

theorem Dev.leadLoss_calm (d : Dev) (e : Env) (n : Nat) (h : e.calm = true) : d.leadLoss e n = d := by
  refine Dev.lead_calm d e _ _ h fun c hc => ?_
  unfold Instr.lossOf at hc
  split at hc
  · exact absurd hc (by decide)
  · exact Instr.first_of_loses n _ hc

theorem Dev.leadOwner_calm (d : Dev) (e : Env) (n : Nat) (h : e.calm = true) : d.leadOwner e n = d := by
  unfold Dev.leadOwner
  rw [Dev.leadLoss_calm d e n h]
  refine Dev.lead_calm d e _ _ h fun c hc => ?_
  unfold Instr.hbOf at hc
  split at hc <;> first | rfl | exact absurd hc (by decide)

theorem Dev.leadBay_calm (d : Dev) (e : Env) (n : Nat) (h : e.calm = true) : d.leadBay e n = d := by
  unfold Dev.leadBay
  rw [Dev.leadOwner_calm d e n h]
  refine Dev.lead_calm d e _ _ h fun c hc => ?_
  split at hc <;> first | rfl | exact absurd hc (by decide)

theorem Dev.leadPrg_calm (d : Dev) (e : Env) (h : e.calm = true) : d.leadPrg e = d := by
  refine Dev.lead_calm d e _ _ h fun c hc => ?_
  split at hc <;> first | rfl | exact absurd hc (by decide)

theorem Dev.leadInval_calm (d : Dev) (e : Env) (h : e.calm = true) : d.leadInval e = d := by
  refine Dev.lead_calm d e _ _ h fun c hc => ?_
  split at hc <;> first | rfl | exact absurd hc (by decide)

theorem Instr.first_of_hostSnp (c : Instr) (h : (Instr.hostSnp c).isSome = true) : Instr.first c = true := by
  unfold Instr.hostSnp at h
  split at h <;> first | rfl | exact absurd h (by decide)

theorem Instr.first_of_atomic (c : Instr) (h : (Instr.atomic c).isSome = true) : Instr.first c = true := by
  unfold Instr.atomic at h
  split at h <;> first | rfl | exact absurd h (by decide)

theorem Dev.leadSnoops_calm (d : Dev) (e : Env) (l : Nat) (h : e.calm = true) : d.leadSnoops e l = d := by
  refine Dev.lead_calm d e _ _ h fun c hc => Instr.first_of_hostSnp c ?_
  cases hv : Instr.hostSnp c with
  | none => simp [hv] at hc
  | some x => rfl

theorem Dev.leadRelease_calm (d : Dev) (e : Env) (n i : Nat) (h : e.calm = true) : d.leadRelease e n i = d := by
  refine Dev.lead_calm d e _ _ h fun c hc => ?_
  split at hc <;> first | rfl | exact absurd hc (by decide)

theorem Instr.first_of_coreSpar (c : Instr) (h : (Instr.coreSpar c).isSome = true) : Instr.first c = true := by
  unfold Instr.coreSpar at h
  split at h <;> first | rfl | exact absurd h (by decide)

theorem Dev.leadCores_calm (d : Dev) (e : Env) (s k : Nat) (h : e.calm = true) : d.leadCores e s k = d := by
  unfold Dev.leadCores
  rw [e.calm_filterMap h]
  · rfl
  · intro c hc
    refine Instr.first_of_coreSpar c ?_
    cases hv : Instr.coreSpar c with
    | none => simp [hv] at hc
    | some x => rfl

theorem Dev.leadAgents_calm (d : Dev) (e : Env) (s : Nat) (h : e.calm = true) : d.leadAgents e s = d := by
  unfold Dev.leadAgents
  rw [Dev.leadCores_calm d e s 256 h]
  refine Dev.lead_calm d e _ _ h fun c hc => ?_
  unfold Dev.signalsHere at hc
  split at hc <;> first | rfl | exact absurd hc (by decide)

theorem Dev.leadPage_calm (d : Dev) (e : Env) (n off : Nat) (h : e.calm = true) : d.leadPage e n off = d := by
  have h1 : (if (0x1000 ≤ off && off < 0x1400) = true then d.leadRelease e n ((off - 0x1000) / 64) else d) = d := by
    split
    · exact Dev.leadRelease_calm d e _ _ h
    · rfl
  unfold Dev.leadPage
  rw [h1]
  dsimp only
  split
  · exact Dev.leadAgents_calm d e _ h
  · rfl

theorem Dev.pagesUpTo_calm (d : Dev) (e : Env) (fn : Nat) (p : Nat → List Byte → Bool) (h : e.calm = true) : d.pagesUpTo e fn p = [] := by
  unfold Dev.pagesUpTo
  dsimp only
  rw [List.filter_eq_nil_iff.mpr]
  · rfl
  · intro c hc hv
    refine absurd (Instr.first_of_pageWrite c ?_) (by simp [e.calm_none h c hc])
    cases hw : Instr.pageWrite c with
    | none => simp [hw] at hv
    | some w => rfl

theorem Dev.leadPages_calm (d : Dev) (e : Env) (fn : Nat) (p : Nat → List Byte → Bool) (h : e.calm = true) : d.leadPages e fn p = d := by
  unfold Dev.leadPages
  rw [Dev.pagesUpTo_calm d e fn p h]
  exact Dev.lead_calm d e _ _ h fun c hc => absurd hc (by simp)

theorem Dev.leadAck_calm (d : Dev) (e : Env) (n i : Nat) (h : e.calm = true) : d.leadAck e n i = d := Dev.leadPages_calm d e _ _ h

theorem Dev.leadEave_calm (d : Dev) (e : Env) (s : Nat) (h : e.calm = true) : d.leadEave e s = d := by
  unfold Dev.leadEave
  rw [Dev.leadAgents_calm d e s h]
  dsimp only
  split
  · rfl
  · rw [Dev.leadPages_calm d e _ _ h]
    refine Dev.lead_calm d e _ _ h fun c hc => Instr.first_of_atomic c ?_
    cases hv : Instr.atomic c with
    | none => simp [hv] at hc
    | some x => rfl

theorem Dev.leadPorts_calm (d : Dev) (e : Env) (s k : Nat) (h : e.calm = true) : d.leadPorts e s k = d := by
  unfold Dev.leadPorts
  rw [Dev.leadEave_calm d e s h, e.calm_filterMap h]
  · rfl
  · intro c hc
    split at hc
    · rfl
    · exact absurd hc (by decide)

theorem Dev.leadCtl_calm (d : Dev) (e : Env) (p : Nat) (f : Frame) (h : e.calm = true) : d.leadCtl e p f = d := by
  unfold Dev.leadCtl
  split
  · rfl
  · rw [e.calm_filterMap h]
    · rfl
    · intro c hc
      split at hc
      · rfl
      · exact absurd hc (by decide)

theorem Dev.leadViolations_calm (d : Dev) (e : Env) (p : Nat) (h : e.calm = true) : d.leadViolations e p = d := by
  refine Dev.lead_calm d e _ _ h fun c hc => ?_
  unfold Instr.violatesOn at hc
  split at hc <;> first | rfl | exact absurd hc (by decide)

theorem Dev.leadPlace_calm (d : Dev) (e : Env) (h : e.calm = true) : d.leadPlace e = d := by
  unfold Dev.leadPlace
  rw [Dev.lead_calm d e (Dev.setsRegion d) _ h]
  · refine Dev.lead_calm d e _ _ h fun c hc => ?_
    unfold Dev.seals at hc
    split at hc <;> first | rfl | exact absurd hc (by decide)
  · intro c hc
    unfold Dev.setsRegion at hc
    split at hc <;> first | rfl | exact absurd hc (by decide)

theorem Dev.leadService_calm (d : Dev) (e : Env) (w : Who) (h : e.calm = true) : d.leadService e w = d := by
  unfold Dev.leadService
  rw [e.calm_filterMap h]
  · rfl
  · intro c hc
    split at hc
    · exact absurd hc (by decide)
    · rw [Option.isSome_map] at hc
      unfold Instr.service at hc
      split at hc <;> first | rfl | exact absurd hc (by decide)

theorem Dev.leadWrite_calm (d : Dev) (e : Env) (r : Req) (h : e.calm = true) : d.leadWrite e r = d := by
  unfold Dev.leadWrite
  repeat' split
  all_goals first
    | rfl
    | exact Dev.leadPorts_calm d e _ _ h
    | exact Dev.leadOwner_calm d e _ h
    | exact Dev.leadPrg_calm d e h
    | exact Dev.leadPages_calm d e _ _ h
    | exact Dev.leadBay_calm d e _ h
    | exact Dev.leadViolations_calm d e _ h

/-- No request that ranks before another comes on a calm tick (R272). -/
theorem Dev.defers_calm (d : Dev) (e : Env) (line : Nat) (q : HomeReq) (h : e.calm = true) : d.defers e line q = false := by
  unfold Dev.defers
  rw [e.calm_any h, Bool.and_false]
  intro c hc
  simp only [Bool.and_eq_true] at hc
  unfold Dev.rowReq at hc
  cases c <;> first | rfl | exact absurd hc.2 (by simp)

/-- No invalidation that strikes a walk waits on a calm tick (R241). -/
theorem Walk.struck_calm (k : Walk) (e : Env) (h : e.calm = true) : e.tick.any k.struck = false := by
  refine e.calm_any h _ fun c hc => ?_
  unfold Walk.struck at hc
  split at hc <;> first | rfl | exact absurd hc (by decide)

/-- No owner loss waits on a calm tick (R670). -/
theorem Dev.lossWaits_calm (d : Dev) (e : Env) (n : Nat) (h : e.calm = true) : d.lossWaits e n = false := by
  unfold Dev.lossWaits
  rw [e.calm_any h, Bool.and_false]
  intro c hc
  simp only [Bool.and_eq_true] at hc
  exact Instr.first_of_loses n c hc.1

end Sys2Proof.Machine
end

