-- ==== Sys2Proof/Laws/Dict.lean ====
section
/-! SUPPORT. A dictionary write that is accepted: what its command answers, said once for every row and every route (`odRow_accepted`). -/
namespace Sys2Proof.Machine

/-! ### The books -/

@[simp] theorem Dev.books_send (d : Dev) (o : Out) : (d.send o).books = d.books := rfl
@[simp] theorem Dev.books_setWin (d : Dev) (fn : Nat) (w : Win) : (d.setWin fn w).books = d.books := rfl
@[simp] theorem Dev.books_pendVec (d : Dev) (fn v : Nat) : (d.pendVec fn v).books = d.books := rfl
@[simp] theorem Dev.books_journalChange (d : Dev) (e : Env) (rt : Route) (idx sub : Nat) (st : Status) (c : Nat) :
    (d.journalChange e rt idx sub st c).books = d.books := rfl

theorem Dev.books_hostSend (d : Dev) (o : Out) : (d.hostSend o).books = d.books := by
  unfold Dev.hostSend
  split
  · rfl
  · split <;> rfl

/-- A window's completion is told within the books, where it is not told over the fabric (R107, R175). -/
theorem Dev.books_winDone (d : Dev) (fn : Nat) (st : Status) (ab : Nat)
    (h : (!(d.unmasked fn (if fn = 0 then 0 else 3)) || !(if fn = 0 then d.attachMode == 1 else d.bayEvt (fn - 1))) = true) :
    (d.winDone fn st ab).books = d.books := by
  have hm : (d.setWin fn { d.win fn with busy := false, done := true, status := st.code, abort := ab }).books = d.books := rfl
  unfold Dev.winDone
  by_cases hf : fn = 0
  · subst hf
    simp only [if_true] at h ⊢
    unfold Dev.raisePf
    split
    · next hv =>
      unfold Dev.pfVecOk at hv
      simp only [Bool.and_eq_true] at hv
      have hu : d.unmasked 0 0 = true := hv.1
      have ha : (d.attachMode == 1) = false := by simpa [hu] using h
      unfold Dev.pfMsg
      rw [if_neg (by show ¬ ((d.attachMode == 1) = true); simp [ha]), Dev.books_hostSend]
      exact hm
    · rw [Dev.books_pendVec]; exact hm
  · simp only [if_neg hf] at h ⊢
    have hfn : fn - 1 + 1 = fn := by omega
    unfold Dev.raiseBay
    split
    · next hv =>
      unfold Dev.bayVecOk at hv
      simp only [Bool.and_eq_true] at hv
      have hu : d.unmasked fn 3 = true := by have := hv.1.1.1; rw [hfn] at this; exact this
      have hb : d.bayEvt (fn - 1) = false := by simpa [hu] using h
      unfold Dev.bayMsg
      rw [if_neg (by show ¬ (d.bayEvt (fn - 1) = true); simp [hb]), Dev.books_hostSend]
      exact hm
    · split
      · exact hm
      · rw [Dev.books_pendVec]; exact hm

theorem Dev.quiet_hostSend (d : Dev) (o : Out) (h : d.quiet = true) : (d.hostSend o).quiet = true := by
  unfold Dev.hostSend
  split
  · exact h
  · split
    · exact h
    · exact Dev.quiet_link d _ h rfl
    all_goals exact h

theorem Dev.stores_hostSend (d : Dev) (o : Out) : (d.hostSend o).stores = d.stores := by
  unfold Dev.hostSend
  split
  · rfl
  · split <;> rfl

/-- The answer to a dictionary request keeps to the books and makes nothing due (R107, R175). -/
theorem Dev.odAnswer_ok (d : Dev) (r : Route) (h : d.tells r = true) :
    (d.odAnswer r .ok 0 []).books = d.books ∧ (d.quiet = true → (d.odAnswer r .ok 0 []).quiet = true) ∧ (d.odAnswer r .ok 0 []).stores = d.stores := by
  have key (fn : Nat) (h : (!(d.unmasked fn (if fn = 0 then 0 else 3)) || !(if fn = 0 then d.attachMode == 1 else d.bayEvt (fn - 1))) = true) :
      (d.winDone fn .ok 0).books = d.books ∧ (d.quiet = true → (d.winDone fn .ok 0).quiet = true) ∧ (d.winDone fn .ok 0).stores = d.stores := by
    refine ⟨Dev.books_winDone d fn .ok 0 h, ?_⟩
    unfold Dev.winDone
    by_cases hf : fn = 0
    · subst hf
      simp only [if_true] at h ⊢
      unfold Dev.raisePf
      split
      · next hv =>
        unfold Dev.pfVecOk at hv
        simp only [Bool.and_eq_true] at hv
        have hu : d.unmasked 0 0 = true := hv.1
        have ha : (d.attachMode == 1) = false := by simpa [hu] using h
        unfold Dev.pfMsg
        rw [if_neg (by show ¬ ((d.attachMode == 1) = true); simp [ha])]
        exact ⟨fun hq => Dev.quiet_hostSend _ _ hq, Dev.stores_hostSend _ _⟩
      · exact ⟨fun hq => Dev.quiet_link _ _ hq rfl, rfl⟩
    · simp only [if_neg hf] at h ⊢
      have hfn : fn - 1 + 1 = fn := by omega
      unfold Dev.raiseBay
      split
      · next hv =>
        unfold Dev.bayVecOk at hv
        simp only [Bool.and_eq_true] at hv
        have hu : d.unmasked fn 3 = true := by have := hv.1.1.1; rw [hfn] at this; exact this
        have hb : d.bayEvt (fn - 1) = false := by simpa [hu] using h
        unfold Dev.bayMsg
        rw [if_neg (by show ¬ (d.bayEvt (fn - 1) = true); simp [hb])]
        exact ⟨fun hq => Dev.quiet_hostSend _ _ hq, Dev.stores_hostSend _ _⟩
      · split
        · exact ⟨fun hq => hq, rfl⟩
        · exact ⟨fun hq => Dev.quiet_link _ _ hq rfl, rfl⟩
  cases r with
  | can p =>
    unfold Dev.odAnswer
    dsimp only
    split
    · exact ⟨rfl, fun hq => hq, rfl⟩
    · exact ⟨rfl, fun hq => hq, rfl⟩
  | pf => exact key 0 h
  | bay n => exact key (n + 1) h
  | fabPf => exact key 0 h
  | fabBay n => exact key (n + 1) h

/-- Whether a window's completion is told to the host does not rest on the server's records. -/
theorem Dev.tells_journal (d : Dev) (r : Route) (rt : Route) (e : Env) (idx sub c : Nat) (st : Status) :
    (d.journalChange e rt idx sub st c).tells r = d.tells r := rfl

/-- An entry outside every strict job draws no DICT record (R535). -/
theorem Dev.dictRec_none (d : Dev) (e : Env) (t : Ent) (idx sub : Nat) (h : ∀ n, d.journalBay t idx sub = some n → d.inJob n = false) :
    d.dictRec e t idx sub = d := by
  unfold Dev.dictRec
  split
  · next n r l hn =>
    have : d.journalBay t idx sub = some n := congrArg Prod.fst hn
    rw [if_neg (by simp [h n this])]
  · rfl

/-- Where no further request of the tick is to come, the one that a row has brought is served. -/
theorem Dev.serveRows_one (d : Dev) (e : Env) (q : Req) (hc : e.calm = true) (h : d.srv.reqs = [q]) (hr : q.row = true) :
    d.serveRows e = ({ d with srv := { d.srv with reqs := [] } } : Dev).serveReq e q := by
  unfold Dev.serveRows
  rw [if_neg]
  · rw [h]
    simp only [List.foldl_cons, List.foldl_nil, h, List.any_cons, hr, Bool.true_or, if_true]
    unfold Dev.serveNext
    simp only [h]
  · simp only [List.any_eq_true, not_exists, not_and]
    intro c hcm hcr
    have := List.all_eq_true.mp hc c hcm
    simp [Instr.first_of_dictRoute c hcr] at this

/-- A write that is accepted: the row that carries it answers the entry's effect `a`, and, within the books, a change record and the answer.
What stays out: a COMMIT that waits for its scrub, a restart and a re-attach, which go on after the answer (R87, R135, R667), and sense_clear,
whose rails are measured. -/
theorem odRow_accepted (s : State) (r : Route) (idx sub size v : Nat) (t : Ent) (a : Dev)
    (h : s.accepts r idx sub (leBytes size v) = true)
    (ht : (s.atServer r idx sub (leBytes size v)).odGate r false idx sub = .inr t)
    (ha : (s.atServer r idx sub (leBytes size v)).odApply s.env r t idx sub (leNat (leBytes size v)) (leBytes size v) (fun _ => false) {} = a)
    (hq : a.quiet = true) (hs : a.stores = []) (hj : ∀ n, a.journalBay t idx sub = some n → a.inJob n = false) (hw : a.tells r = true)
    (hc : t.base = 0x2100 → sub = 2 → leNat (leBytes size v) = 2 → (a.bay (idx - 0x2100)).scrubbing = false)
    (hsv : idx = 0x1010 → a.srv.saving = none) (h1 : ¬ (idx = 0x2001 ∧ sub = 0xB)) (h2 : ¬ (0x2D10 ≤ idx ∧ idx < 0x2D20 ∧ sub = 2)) (h3 : ¬ (idx = 0x2B00 ∧ sub = 0xA)) :
    ∃ u, s.odRow r idx sub size v = .next u ∧ u.dev.books = a.books ∧ u.mem = s.mem ∧ u.poison = s.poison ∧ u.time = s.time ∧ u.pending = s.pending := by
  unfold State.accepts at h
  simp only [Bool.and_eq_true, ht, Option.isNone_iff_eq_none] at h
  obtain ⟨⟨hrest, hcar⟩, ⟨⟨hdom, hlen⟩, hjd⟩, -⟩ := h
  unfold State.carries at hcar
  simp only [Bool.and_eq_true, decide_eq_true_eq] at hcar
  obtain ⟨⟨⟨⟨-, -⟩, hreq⟩, hx⟩, -⟩ := hcar
  have hdom' : (t.ty == Ty.dom) = false := by simpa [bne, Bool.not_eq_true'] using hdom
  -- the write as the server ends it
  have hval : (s.atServer r idx sub (leBytes size v)).writeValue s.env r t idx sub (leBytes size v) (fun _ => false) {} =
      (a.journalChange s.env r idx sub .ok (crc64 (leBytes size v))).odAnswer r .ok 0 [] := by
    have hf : s.env.fails idx = none := rfl
    have hdr : (a.journalChange s.env r idx sub .ok (crc64 (leBytes size v))).dictRec s.env t idx sub = a.journalChange s.env r idx sub .ok (crc64 (leBytes size v)) :=
      Dev.dictRec_none _ _ _ _ _ hj
    have hsav : (a.srv.saving.isSome && decide (idx = 0x1010)) = false := by
      by_cases hi : idx = 0x1010
      · simp [hsv hi]
      · simp [hi]
    unfold Dev.writeValue
    simp only [hjd, hf, ha, hsav, Bool.false_eq_true, if_false]
    rw [hdr, if_neg]
    · unfold Dev.odAfter
      rw [if_neg (by simpa using h1), if_neg (by simpa using fun x y => not_and.mp (fun z => h2 ⟨x, z.1, z.2⟩) y)]
    · simp only [Bool.and_eq_true, decide_eq_true_eq]
      rintro ⟨⟨⟨b1, b2⟩, b3⟩, b4⟩
      have := hc b1 b2 b3
      rw [show ((a.journalChange s.env r idx sub .ok (crc64 (leBytes size v))).bay (idx - 0x2100)) = a.bay (idx - 0x2100) from rfl, this] at b4
      exact absurd b4 (by simp)
  -- the request's way to it
  have hserve : s.dev.odWrite s.env r idx sub (leBytes size v) id = (a.journalChange s.env r idx sub .ok (crc64 (leBytes size v))).odAnswer r .ok 0 [] := by
    rw [← hval]
    unfold Dev.odWrite
    split at hreq
    · next q hq1 =>
      have hqe := of_decide_eq_true hreq
      have hx' (fn : Nat) (hfn : routeFn r = some fn) : ((s.atServer r idx sub (leBytes size v)).win fn).xfer = none := by
        rw [hfn] at hx
        exact Option.isNone_iff_eq_none.mp hx
      rw [Dev.serveRows_one _ _ q (s.rests_calm hrest) hq1 (by rw [hqe])]
      show (s.atServer r idx sub (leBytes size v)).serveReq s.env q = _
      rw [hqe]
      unfold Dev.serveReq
      rw [if_neg (by show ¬ (Served.done = Served.serverFault); decide)]
      have hdr (q : Req) (hi : q.idx = idx) (hsb : q.sub = sub) :
          (s.atServer r idx sub (leBytes size v)).drawIntact q = (fun _ => false, s.atServer r idx sub (leBytes size v)) := by
        unfold Dev.drawIntact
        rw [if_neg]
        simp only [hi, hsb, Bool.and_eq_true, decide_eq_true_eq]
        exact fun z => h3 z.1
      rw [hdr _ (Eq.refl _) (Eq.refl _)]
      show (s.atServer r idx sub (leBytes size v)).serve s.env _ _ = _
      unfold Dev.serve
      rw [Dev.leadWrite_calm _ _ _ (s.rests_calm hrest)]
      have hb : (s.atServer r idx sub (leBytes size v)).breaksChunks
          { route := r, op := .write, idx := idx, sub := sub, len := (leBytes size v).length, tag := q.tag, data := leBytes size v, time := q.time, row := true } = none := by
        unfold Dev.breaksChunks
        cases hfn : routeFn r with
        | none => rfl
        | some fn => simp [hx' fn hfn]
      simp only [hb]
      have hg : (s.atServer r idx sub (leBytes size v)).odGate r (OdOp.write == OdOp.read) idx sub = .inr t := ht
      rw [hg]
      simp only [show (OdOp.write == OdOp.read) = false from rfl, Bool.false_eq_true, if_false]
      unfold Dev.serveWrite
      simp only [hdom']
      cases hfn : routeFn r with
      | none => simp [beq_iff_eq.mp hlen]
      | some fn => simp [beq_iff_eq.mp hlen]
    · exact absurd hreq (by simp)
  have hans := Dev.odAnswer_ok (a.journalChange s.env r idx sub .ok (crc64 (leBytes size v))) r hw
  refine ⟨{ s with dev := (a.journalChange s.env r idx sub .ok (crc64 (leBytes size v))).odAnswer r .ok 0 [] }, ?_, hans.1, rfl, rfl, rfl, rfl⟩
  unfold State.odRow
  exact State.go_to s _ _ hrest hserve (hans.2.1 hq) (hans.2.2.trans hs)

end Sys2Proof.Machine
end

