-- ==== Sys2Proof/WellFormed.lean ====
section
/-! DEFINITION. Which commands are well formed: operands that the bus, the link or the measurement of the command can carry. The
meanings do not rest on it: they give every command an effect. -/
namespace Sys2Proof

/-- A link width that PCIe knows (R160). -/
def goodWidth (w : Nat) : Bool := w == 1 || w == 4 || w == 8 || w == 16

/-- The length of a memory TLP's data, in bytes (R158). -/
def goodLen (n : Nat) : Bool := 1 ≤ n && n ≤ 4096

/-- An AtomicOp's operands fit its size, and its address is aligned to it (R178). -/
def AtomicReq.ok (q : AtomicReq) : Bool :=
  (q.size == 4 || q.size == 8 || q.size == 16) && q.off % q.size == 0 && decide (q.operand < 256 ^ q.size) && decide (q.compare < 256 ^ q.size)

/-- An atomic of 4, 8 or 16 bytes lies in its line, aligned (R287). -/
def goodAtom (off size : Nat) : Bool := (size == 4 || size == 8 || size == 16) && off % size == 0 && off + size ≤ 64

/-- The fields of a Purlin frame fit their widths (R558). -/
def Frame.ok (f : Frame) : Bool :=
  decide (f.ty < 256) && f.vc ≤ 7 && decide (f.dst < 4096) && decide (f.src < 4096) && decide (f.seq < 65536) && decide (f.hops < 256) &&
  decide (f.aux < 65536) && decide (f.tn < 65536) && decide (f.addr < 2 ^ 64) && f.payload.length ≤ 4136

/-- The command is well formed. -/
def Instr.wf : Instr → Bool
  | .sysRstNRelease .. | .sysRstNAssert | .standbyRailLoss | .strapSample .. | .romSlotCheckEnd .. | .mgmtFirmwareTakeover | .mainPgRise | .mainPgFall
  | .mainRailsTimeout | .hbmTrainingEnd .. | .hbmZeroingEnd | .dSectionCheckEnd | .eaveReady | .enterReady | .bootWatchdogExpire | .bootRestart ..
  | .recoveryImageDownload .. | .perstNRise | .perstNFall | .thermalTrip .. => true
  | .hbmThrottle _ temp => 760 ≤ temp
  | .vrHotNAssert | .smbReadDieTemp | .smbReadHbmTemp | .smbReadStatus | .smbReadFru .. | .configRequest .. | .usdoInitiate .. | .usdoSegment ..
  | .usdoTimeout .. | .canBusOff .. | .canBusOffRecovery .. | .odRead .. | .odWrite .. | .odWriteAppend .. | .odCmdNone .. | .odWindowTimeout ..
  | .dictRequestServe .. | .saveAll .. | .restoreAll .. | .journalSelect .. | .fwStage .. | .fwStageEnd .. | .activate .. | .activationTakeover
  | .fuseSvnRaise .. | .claim .. | .commit .. | .commitScrubEnd .. | .reconfigure .. | .stop .. | .release .. | .reset .. | .drainEnd ..
  | .bayBecomesIdle .. | .holdTimeExpire .. | .shareGrant .. | .shareAccept .. => true
  | .dlUp width _ _ _ => goodWidth width
  | .linkRecoveryEnter => true
  | .linkRecoveryExit width _ _ _ => goodWidth width
  | .dlDown | .hotResetReceived | .linkDisable | .linkCtlRetrain .. | .flrPf0 .. | .flrVf .. | .vfEnableClear .. | .busMasterEnableClear ..
  | .busMasterEnableSet .. | .vfResizableBarWrite .. => true
  | .hdmDecoderCommit _ base size => base % 0x10000000 == 0 && size % 0x10000000 == 0
  | .hdmMapWrite .. | .msixUnmask .. => true
  | .ideKmKey _ _ ranges => ranges.length ≤ 4 && ranges.all fun x => x.1 ≤ x.2
  | .ideIntegrityFailure .. => true
  | .atomicopFetchadd q => q.ok && (q.size == 4 || q.size == 8)
  | .atomicopSwap q => q.ok && (q.size == 4 || q.size == 8)
  | .atomicopCas q => q.ok
  | .partnerViolation v => v.kind ≤ 12 && v.header.length ≤ 56
  | .completionReceived _ st bs => bs.isEmpty || st == .success
  | .completionTimeout .. | .violSelect .. => true
  | .memRd _ off _ _ => off % 64 == 0
  | .memRdData _ off _ => off % 64 == 0
  | .memWr _ off _ bs _ => off % 64 == 0 && bs.length == 64
  | .memWrPtl _ off _ _ bs _ => off % 64 == 0 && bs.length == 64
  | .evDbQ .. | .evDbFence .. | .fenceRelease .. | .fenceDoneRead .. => true
  | .hatchPost _ _ bs => bs.length == 64
  | .htOutAck .. => true
  | .skylightWrite _ _ bs => goodLen bs.length
  | .skylightRead _ _ len _ => goodLen len
  | .skyMapWrite .. => true
  | .lowHalfRead _ _ _ len => goodLen len
  | .highHalfRead _ off _ => off % 8 == 4
  | .registerWriteOther .. | .lathWalkEnd .. | .translationCompletion .. => true
  | .atsInvalidateRequest _ itag _ base size => itag ≤ 31 && size % 4096 == 0 && size != 0 && base % size == 0
  | .atsInvalidateComplete _ itag => itag ≤ 31
  | .lathInvalWrite .. | .lathInvalComplete .. => true
  | .prgSuccess idx _ => idx ≤ 511
  | .prgInvalidRequest idx _ => idx ≤ 511
  | .prgResponseFailure idx _ => idx ≤ 511
  | .priStatusClear .. => true
  | .prgTimeout idx => idx ≤ 511
  | .faultResumeResume .. | .faultResumeAbort .. | .rdShared .. | .rdOwn .. | .upgrade .. => true
  | .wbDirty _ _ bs _ _ => bs.length == 64
  | .ncRead .. => true
  | .ncWrite _ _ _ _ bs _ => bs.length == 64
  | .ncAtomic _ _ _ _ off size _ _ _ _ => goodAtom off size
  | .snpShared .. | .snpInv .. | .snpCur .. | .snpAck .. => true
  | .snpData _ _ _ bs _ => bs.length == 64
  | .cmpAck .. | .wbAck .. | .cmp .. => true
  | .data _ _ _ bs _ _ => bs.length == 64
  | .retry .. | .gone .. | .retryResend .. | .snoopTimeout .. | .cellTableWrite .. | .cellChangeEnd => true
  | .birsp _ _ bs => bs.all fun d => d.length == 64
  | .biconflict .. | .bisnpTimeout .. | .h2dSnpData .. | .h2dSnpInv .. | .h2dSnpCur .. => true
  | .hostGoResponse _ _ bs => bs.length == 64
  | .spValueWrite .. | .spAdd .. | .spThreshWrite .. => true
  | .arm _ _ v => v.toNat % 2 == 1
  | .disarm _ _ v => v.toNat % 2 == 0
  | .sparCtlDictArm _ _ v => v.toNat % 2 == 1
  | .sparFireEnd .. | .commandFetch .. | .commandStart .. | .nop .. | .fence .. | .fenceComplete .. | .wait .. | .waitSatisfied .. | .waitTimeout ..
  | .signal .. | .hold .. | .holdComplete .. | .layer .. | .layerComplete .. | .beginJob .. | .endJob .. | .lathInval .. | .gutter .. | .course ..
  | .chain .. | .run .. | .engine .. | .seat .. | .trim .. | .enable .. | .disable .. | .resume .. | .skip .. | .descriptorFetch ..
  | .descriptorEnd .. | .restart .. | .abort .. | .blockListBurstReturn .. | .coursePassEnd .. | .derateRecompute .. | .proportionalServiceEnd ..
  | .halt .. | .load .. | .store .. | .matvec .. | .eltwise .. | .requant .. | .ringTake .. | .ringPut .. | .sparSet .. | .sparAdd .. | .sparWait ..
  | .sparFetchadd .. | .hatchTake .. | .hatchRelease .. | .hatchFill .. | .loop .. | .branch .. | .barrier .. | .coreWaitSatisfied ..
  | .engineOpStart .. | .engineOpEnd .. | .flashTaskEnd .. | .thatchEvaluation .. | .seatEnd .. => true
  | .trimEnd _ pair fit _ => fit.pair == pair.val
  | .calibrationStart .. | .calibrationEnd .. | .calTimeTrigger .. | .calTemperatureSample .. | .calRequest .. | .certify .. | .auditEnd ..
  | .inputDigestEnd .. | .outputDigestEnd .. | .signatureEnd .. | .sinkRecordWrite .. | .sinkReadWrite .. | .sinkCtlWrite .. | .portLock ..
  | .portLinkLoss .. | .portCtlRetrain .. | .portCtlClear .. | .helloSend .. | .hello .. | .helloTimeout .. => true
  | .assign _ f => f.ok && f.ty == 0x33
  | .lack _ f => f.ok && f.ty == 0x39
  | .lnak _ f => f.ok && f.ty == 0x3A
  | .lackSend .. | .retransmitTimeout .. => true
  | .fabricViolation _ _ f => f.ok
  | .put _ f => f.ok && f.ty == 0x20
  | .get _ f => f.ok && f.ty == 0x21
  | .purlinSignal _ f => f.ok && f.ty == 0x22
  | .ctlRd _ f => f.ok && f.ty == 0x23
  | .ctlWr _ f => f.ok && f.ty == 0x24
  | .putAck _ f => f.ok && f.ty == 0x28
  | .getRsp _ f => f.ok && f.ty == 0x29
  | .sigAck _ f => f.ok && f.ty == 0x2A
  | .ctlRsp _ f => f.ok && f.ty == 0x2B
  | .remoteResend .. | .remoteTimeout .. => true
  | .hb _ f => f.ok && f.ty == 0x30
  | .hbTimeout .. => true
  | .rdmaWrite _ k => k.data.length ≤ 4096
  | .rdmaRead _ k => k.data.isEmpty
  | .arpRequest .. | .neighbourSolicitation .. => true
  | .icmpEchoRequest _ _ _ bs => bs.length ≤ 4096
  | .pfcFrame .. | .sync .. | .followUp .. | .delayReq .. | .delayResp .. | .announce .. | .announceReceiptTimeout .. | .syncInterval .. | .ppsInEdge
  | .ppsOutPulse => true
  | .bar4Write _ _ _ bs => goodLen bs.length
  | .bar4Read _ _ _ len _ => goodLen len
  | .placementApplied .. | .regCtlWrite .. | .islandReset .. | .powerDown .. | .wake .. | .retrain .. | .gateTimer .. | .flushEnd ..
  | .closeWindowEnd .. | .islandStartEnd .. | .retrainPeriod .. | .retrainTemperature .. | .cpmMarginAlarm .. | .retrainingEnd .. => true
  | .voltageLoopPeriod slacks => slacks.all fun x => x.island < 350
  | .frequencyLoopPeriod slacks => slacks.all fun x => x.island < 350
  | .capStep temps _ => temps.all fun t => t.1 < 350
  | .droop .. | .adcThresholdLoop .. => true
  | .placementLoop temps => temps.all fun t => t.1 < 256
  | .senseOpenDetect .. | .senseClear .. | .avsNack .. | .loopFreeze .. | .domainOverride .. | .ratioOverride .. | .scrubIntervalTrigger ..
  | .scrubRequest .. | .scrubPassEnd .. | .restartDrained .. => true
  | .reattach _ _ token => token.length == 16
  | .logSelect .. | .bayLogSelect .. | .ltssmDetect => true
  | .hbmThrottleEnd _ temp => temp < 760
  | .vrHotNDeassert => true
  | .frameForward _ f => f.ok
  | .viol _ f => f.ok && f.ty == 0x34

end Sys2Proof
end

