-- ==== Sys2Proof/Tests/Slice0.lean ====
section
/-! SUPPORT. The model's own tests: ill-formed commands that `Instr.wf` refuses, and for every obligation with hypotheses a
named theorem that shows concrete states and operands meeting all of them together. -/

open Sys2Proof Sys2Proof.Machine

namespace Sys2Proof.Machine

/-- The state with its device, its board edge or its boot changed. -/
def State.onDev (s : State) (f : Dev → Dev) : State := { s with dev := f s.dev }
def State.onBoard (s : State) (f : Board → Board) : State := { s with dev := { s.dev with board := f s.dev.board } }
def State.onBoot (s : State) (f : Boot → Boot) : State := { s with dev := { s.dev with boot := f s.dev.boot } }

end Sys2Proof.Machine

namespace Sys2Proof.Tests

/-- A span that runs, the straps latched in attach mode 00 with node ID 5. -/
def span : State :=
  { time := 1000000, dev := { board := { rstN := true, standby := true, latched := true, strapRaw := 0x14 }, boot := { st := .rom, restricted := true } } }

/-- The same in a given boot state, with the rails up and the firmware running. -/
def at_ (st : BootSt) : State :=
  { span with dev := { span.dev with
    board := { span.dev.board with mainPg := true, mainPwrReq := true, eaveReady := true }
    boot := { st := st, firmware := true, started := true, zeroed := true, dOk := true, slot := 0 }
    loops := { islands := (List.range 350).map fun i => (i, { st := .active }) } } }

/-- The device in service. -/
def ready : State := at_ .ready

/-- The route by CAN FD port 0. -/
def R : Route := .can 0

/-- The host link is up. -/
def upl : State := ready.onDev fun d => { d with link := { d.link with st := .up, vfEnable := true, width := 16, rate := 64, flit := true } }

/-- Bytes put into memory. -/
def put (a : Nat) (bs : List Byte) (s : State) : State := { s with mem := (bs.zipIdx a).foldl (fun m c => smSet 0 m c.2 c.1) s.mem }

/-- Ranges of every resource that Bay 3 may hold. -/
def some3 : Ranges := { hbm := ⟨1, 2⟩, loft := ⟨0, 2⟩, core := ⟨16, 16⟩, thatch := ⟨32, 2⟩, gpack := ⟨0, 8⟩, course := ⟨0, 4⟩, spar := ⟨8, 8⟩ }

/-- Bay 3 runs and holds some of everything; space 0 maps 0x40000000 to its Loft. -/
def bay : State := ready.onDev fun d => { (d.setBay 3 { st := .running, held := some3 }) with
  trans := { tlb := [⟨3, 0, 0x40000000, 21, 0, 0, 0x10000000000, true, true, false, false, false, 0, 0⟩] } }
def va : Nat := 0x40000000
def lo : Nat := 0x10000000000

/-- A command at position 7 of queue 5 of Bay 3, alone there. -/
def cm (op : Nat) (ph : CPh) (fs : List (Nat × List Byte)) : Cmd := { pos := 7, ph := ph, bytes := fs.foldl (fun b f => patch b f.1 f.2) (fit 64 [BitVec.ofNat 8 op]) }
def wc (c : Cmd) (s : State) : State := s.onDev fun d => d.setQueue 3 5 { st := .active, p := 8, fe := 8, fr := 8, cmds := [c] }

/-- What a read or write of Bay 3's space 0 gives, and leaves of the translation caches. -/
def rd (s : State) (w : Who) (dva len : Nat) : List Byte × Trans := match s.dev.readRange s.env w 3 0 dva len with | (.got bs _, d) => (bs, d.trans) | (_, d) => ([], d.trans)
def wr (s : State) (w : Who) (dva : Nat) (bs : List Byte) : Dev := (s.dev.writeRange s.env w 3 0 dva bs false).2
def W : Who := .cmd 29 7
def withT (s : State) (t : Trans) : State := s.onDev fun d => { d with trans := t }

/-- `State.reads`, `State.readsAfter` and `State.writesAfter`, decided. -/
def isReads (s : State) (w : Who) (n sp dva len : Nat) (bs : List Byte) (tr : Trans) : Bool :=
  decide (s.dev.readRange s.env w n sp dva len = (.got bs false, { s.dev with trans := tr }))
def isReadsAfter (s : State) (tr0 : Trans) (w : Who) (n sp dva len : Nat) (bs : List Byte) (tr : Trans) : Bool :=
  decide (({ s.dev with trans := tr0 } : Dev).readRange s.env w n sp dva len = (.got bs false, { s.dev with trans := tr }))
def isWritesAfter (s : State) (tr0 : Trans) (w : Who) (n sp dva : Nat) (bs : List Byte) (strong : Bool) (tr : Trans) (st : List MemOp) : Bool :=
  decide (({ s.dev with trans := tr0 } : Dev).writeRange s.env w n sp dva bs strong = (.done, { s.dev with trans := tr, stores := st }))

end Sys2Proof.Tests

namespace Sys2Proof.Tests
/-- An image that passes every check: its key is index 0, its sections are 4 KiB of zeros, signed under the private key 1. -/
def goodImage : Image := {
  magic := 0x08801A6E, hdrVersion := 1, svn := 1, fwVersion := 1, mLen := 0x1000, dLen := 0x1000
  pubkey := beBytes 48 0xaa87ca22be8b05378eb1c71ef320ad746e1d3b628ba79b9859f741e082542a385502f25dbf55296c3a545e3872760ab7 ++
            beBytes 48 0x3617de4a96262c6f5d9e98bf9292dc29f8f41dbd289a147ce9da3113b5f0b8c00a60b1ce1d7e819d7a431d7c90ea0e5f
  mHash := beBytes 48 29689547854306711005726568764797958935595316214416159736195678474787234971860422045368312074432420509842852769486708
  dHash := beBytes 48 29689547854306711005726568764797958935595316214416159736195678474787234971860422045368312074432420509842852769486708
  sig := beBytes 48 24373467308993123606386467424614970978803199629172979496547304949869873371263800654750881610154457075015725280344668 ++ beBytes 48 32387685629099319145652396565502847201162096008289947529499519928838224409485382694902486245036413175556503555933825 }
/-- The fuses that take the key of `goodImage`. -/
def goodNv : Nv := { keyHash := [(0, beBytes 48 24874743048588822248251430709664024874255461671413543316941396567809466703024066344078347446547694428161691369950053)] }
/-- SFDP bytes with the JESD216 signature and a basic table that advertises the 1-1-4 fast read, by instruction 0x6B with 8 dummy cycles. -/
def goodSfdp : List Byte := leBytes 4 0x50444653 ++ [6, 1, 0, 0xFF] ++ [0, 6, 1, 16] ++ leBytes 3 0x10 ++ [0xFF] ++ leBytes 4 0x400000 ++ zeros 4 ++ leBytes 4 0x6B080000
end Sys2Proof.Tests

namespace Sys2Proof.Tests.P02
def wSlot : State := (span.onBoot fun b => { b with tries := [1, 0] }).onDev fun d => { d with nv := { d.nv with flash := { sfdp := goodSfdp } } }
def wSlot1 : State := wSlot.onBoot fun b => { b with tries := [0] }
def wGood : State := (span.onBoot fun b => { b with tries := [0] }).onDev fun d => { d with nv := { goodNv with flash := { sfdp := goodSfdp, slotA := goodImage } } }
def wTk : State := (at_ .powering).onBoot fun b => { b with firmware := false, started := false }
def wPg : State := (at_ .powering).onBoard fun b => { b with mainPg := false }
def wTo : State := wPg.onBoot fun b => { b with pgDeadline := some 5 }
def wTr : State := (at_ .training).onBoot fun b => { b with zeroed := false, dOk := false, trained := [0,1,2,3,4,5,7], trainFails := [(6,2)] }
def wZ : State := { (wTr.onBoot fun b => { b with trained := [0,1,2,3,4,5,6,7] }) with mem := [(5,7),(0x10000000000,9)] }
def wD : State := wTr.onBoot fun b => { b with image := { dHash := sha384 [] } }
def wR : State := at_ .training
def wJ : State := ((at_ .joining).onBoard fun b => { b with strapRaw := 0x15, eaveReady := false }).onDev fun d => { d with fabric := { d.fabric with id := some 9, ports := [(11, { st := .inService })] } }
def wW : State := wTr.onBoot fun b => { b with watchdog := some 1000000 }
def wE : State := wTr.onBoard fun b => { b with eaveReady := false, perst := true }
def wL : State := ready.onDev fun d => { d with link := { d.link with st := .lost } }
def wFall : State := match execMainPgFall ready with | .next t => t | _ => ready

end Sys2Proof.Tests.P02

namespace Sys2Proof.Tests.P03
def j1 : State := ready.onDev fun d => { d with srv := { d.srv with seq := 1, ring := [⟨1, 5, 0x1010, 1, 0, 0, 0⟩] } }
def a1 : State := ready.onDev fun d => ({ d with srv := { d.srv with stageImg := some {} } } : Dev).setOd 0x2004 2 2
def fz : State := ready.onBoot fun b => { b with image := { svn := 9 } }
def f1 : State := at_ .failed
def v1 : State := ready.onDev fun d => { d with link := { d.link with viol := [⟨1, 0, 0, 1, 0, []⟩], violSeq := 1 } }
def l1 : State := ready.onDev fun d => { d with flogSeq := 1, flog := [⟨1, 0, 5, 3, 0, 0, 0, 0, 0, 0, 0, 0, 0⟩] }
def cfgB : State := ready.onDev fun d => ((d.setBay 3 { st := .configuring }).setOd 0x2103 6 1).setOd 0x2103 7 2
def idB : State := ready.onDev fun d => (((d.setBay 3 { st := .idle, held := { hbm := ⟨1, 2⟩, core := ⟨16, 16⟩, spar := ⟨8, 8⟩, gpack := ⟨0, 8⟩, thatch := ⟨32, 2⟩, course := ⟨0, 4⟩ } }).setOd 0x2103 6 1).setOd 0x2103 7 2)
def drB : State := idB.onDev fun d => d.setBay 3 { d.bay 3 with st := .configuring }
def ruB : State := idB.onDev fun d => d.setBay 3 { d.bay 3 with st := .running }
def skB : State := idB.onDev fun d => d.setJour 3 { faulted := true }
def rgB : State := idB.onDev fun d => d.setRegion 3 0 { base := 0x10000000 }
def thB : State := idB.onDev fun d => (d.setArr 33 { st := .seated, bay := 3 }).setOd 0x2713 1 33
def spB : State := idB.onDev fun d => d.setSpar 8 { thresh := 5 }
def qE : State := idB.onDev fun d => d.setOd 0x2683 (16*7+3) 10
def qA : State := idB.onDev fun d => d.setQueue 3 7 { st := .active, p := 9, fe := 7, fr := 7, cmds := [{ pos := 7, bytes := [] }, { pos := 8, bytes := [] }] }
def qH : State := qA.onDev fun d => d.setQueue 3 7 { d.queue 3 7 with st := .halted }
def gE : State := idB.onDev fun d => (d.setGutter 2 { st := .error, bay := 3, status := 5, fetched := true, crc0 := 7, crc := 8 }).setOd 0x2513 1 2
def hA : State := ruB.onDev fun d => ({ d with trans := { d.trans with halts := [⟨.gutter 2, 3, 1, 0x5000, 0, false, 0, 9⟩] } } : Dev).setGutter 2 { st := .halted, bay := 3 }
def hh : Halt := ⟨.gutter 2, 3, 1, 0x5000, 0, false, 0, 9⟩
def pQ : State := ready.onDev fun d => (d.setPort 11 { st := .quarantined }).setOd 0x2A2B 1 1
def lU : State := ready.onDev fun d => { d with link := { d.link with st := .up } }
def iO : State := ready.onDev fun d => (d.setIsland 5 { st := .off }).setOd 0x2B02 1 5
def iA : State := ready.onDev fun d => d.setOd 0x2B02 1 5
def dO : State := ready.onDev fun d => (d.setOd 0x2B00 3 3).setOd 0x2B01 1 22 |>.setOd 0x2B02 1 5
def cE : State := ready.onDev fun d => { d with fabric := { d.fabric with id := some 9 } }

end Sys2Proof.Tests.P03

namespace Sys2Proof.Tests.P04
def x1 : Xfer := { idx := 0x2004, sub := 1, write := true, data := [1, 2], deadline := 500 }
def tr1 : State := ready.onDev fun d => d.setUsdo 1 (some x1)
def xr : Xfer := { idx := 0x1018, sub := 4, write := false, data := [9], deadline := 500 }
def tr2 : State := ready.onDev fun d => d.setUsdo 1 (some xr)
def tr3 : State := ready.onDev fun d => d.setUsdo 1 (some { xr with data := zeros 56 })
def w1 : State := upl.onDev fun d => d.setWin 4 { d.win 4 with addr := 0x041018, tag := 77, len := 3, off := 9 }
def w2 : State := upl.onDev fun d => d.setWin 0 { d.win 0 with busy := true }
def w3 : State := upl.onDev fun d => d.setWin 4 { d.win 4 with xfer := some x1 }
def rq : Req := { route := .can 1, op := .read, idx := 0x1018, sub := 1, time := 7 }
def sr : State := ready.onDev fun d => { d with srv := { d.srv with reqs := [rq] } }
def st1 (n : Nat) : State := ready.onDev fun d => ({ d with nv := goodNv, srv := { d.srv with stageImg := some goodImage } } : Dev).setOd 0x2004 2 n
def st2 : State := ready.onDev fun d => ({ d with srv := { d.srv with stageImg := some goodImage } } : Dev).setOd 0x2004 2 1
def st3 : State := (st1 2).onDev fun d => { d with srv := { d.srv with activating := true } }
def rc : State := ((at_ .recovery).onDev fun d => { d with nv := goodNv }).onBoard fun b => { b with mainPg := false, mainPwrReq := false }

end Sys2Proof.Tests.P04

namespace Sys2Proof.Tests.P05
def tr : State := ready.onDev fun d => { d with link := { d.link with st := .training, held := [.pps] } }
def rec_ : State := ready.onDev fun d => { d with link := { d.link with st := .recovering, held := [.pps] } }
def ul : State := upl.onDev fun d => { d with link := { d.link with bme := [0,3], hdm := [(0, some ⟨0, 5⟩)], reqs := [{ tag := 1, bay := some 3, who := .job 1 2, addr := 0, len := 4, time := 3 }] } }
def lost : State := ready.onDev fun d => { d with link := { d.link with st := .lost }, board := { d.board with perst := true } }
def bD (k : Nat) : State := ul.onDev fun d => (d.setBay 3 { st := .idle, held := { hbm := ⟨1, 2⟩ } }).setOd 0x2103 4 k
def ur (k : Nat) : State := (bD k).onDev fun d => { d with link := { d.link with reqs := [], bme := [0, 4] } }
def nv : State := ul.onDev fun d => { d with link := { d.link with vfEnable := false } }
def hd : State := ul.onDev fun d => d.setOd 0x2201 16 0x20001
def cj : State := (at_ .joining).onDev fun d => { d with link := { d.link with st := .up } }

end Sys2Proof.Tests.P05

namespace Sys2Proof.Tests.P06
def ul : State := upl.onDev fun d => { d with link := { d.link with ide := [(1, some { fns := [0] })] } }
def bs : State := upl.onDev fun d => (d.setBay 3 { st := .idle, held := { hbm := ⟨1, 2⟩, spar := ⟨8, 8⟩ } }).setSpar 9 { value := 7, thresh := 100 }
def at1 : AtomicReq := { fn := 4, bar := 0, off := 0x4008, size := 8, operand := 5, compare := 7, tag := 44 }
def hr : HostReq := { tag := 6, bay := some 3, who := .gutter 1, addr := 77, len := 3, time := 0 }
def rq (st : Bool) (tm : Nat) : State := { (upl.onDev fun d => { d with link := { d.link with reqs := [{ hr with stale := st }] } }) with time := tm }
def qs : State := bs.onDev fun d => d.setQueue 3 7 { st := .active, p := 3, fr := 3, fe := 3 }
def fz : State := bs.onDev fun d => d.setPage 3 { d.page 3 with fences := [(5, 100)] }
def post : List Byte := [1,2,0,56] ++ (List.replicate 60 9)
def ak : State := bs.onDev fun d => d.setPage 3 { d.page 3 with outFull := [0, 4, 15] }
def lh (f h : Nat) : State := bs.onDev fun d => { d with shadows := [(f, some (0x10, h))] }
def sk : State := bs.onDev fun d => d.setOd 0x2993 2 (2^32 + 0x10001)
def sk2 : State := { sk with mem := [(0x10000010, 1), (0x10000013, 4)] }
def ar : State := bs.onDev fun d => d.setSpar 9 { value := 7, thresh := 100, armed := true }
def fi : State := bs.onDev fun d => d.setSpar 9 { value := 7, thresh := 100, firing := true, latched := true, route := 3 }

end Sys2Proof.Tests.P06

namespace Sys2Proof.Tests.P07
def L : Nat := 0x10000000 / 64
def m0 : State := { upl with mem := [(0x10000000, 7), (0x1000003F, 9)] }
def h0 : State := m0.onDev fun d => (({ d with link := { d.link with cxl := 7, hdm := [(3, some ⟨0, 0x10000000⟩)] } } : Dev).setBay 3 { st := .idle, held := { hbm := ⟨1, 1⟩ } }).setOd 0x2201 4 0x10001
def h1 : State := h0.onDev fun d => d.setBay 3 {}
def dx (k : Nat) : Dir := { kind := .x, owner := k }
def x1 (k : Nat) : State := { (m0.onDev fun d => d.setDir L (some (dx k))) with mem := m0.mem ++ [(sumAddr L, 6)] }
def h2 : State := { (h0.onDev fun d => d.setDir L (some (dx 16))) with mem := m0.mem ++ [(sumAddr L, 6)] }
def x1r : State := (x1 15).onDev fun d => { d with ridge := { d.ridge with rowed := [15] } }
def t1 : Txn := { line := L, req := { op := .rdOwn, a := 2 }, snp := 2, entry := some (dx 15), time := m0.time, wait := [15] }
def x2 : State := (x1 15).onDev fun d => { d with ridge := { d.ridge with txns := [t1] } }
def x3 : State := m0.onDev fun d => { d with ridge := { d.ridge with txns := [{ t1 with granted := true, wait := [] }] } }
def t2 (a : Nat) : Txn := { line := L, req := { op := .ncRead, a := 300, tn := 5, ecc := true }, snp := 3, entry := some (dx a), time := 0, wait := [a] }
def x4 : State := (x1 17).onDev fun d => { d with ridge := { d.ridge with txns := [t2 17] } }
def cl (st : Coh) : State := m0.onDev fun d => d.setL2 15 L { st := st, data := [3], poison := true }
def xl (st : Coh) : CLine := { st := st, data := [3], poison := true }
def wb : State := m0.onDev fun d => d.setL2 15 L { st := .m, wb := true }
def rs : State := m0.onDev fun d => { d with ridge := { d.ridge with resends := [⟨300, L, 5, 10⟩] } }
def cb : State := m0.onDev fun d => ({ d with ridge := { d.ridge with cellBusy := true, leaving := [1] } } : Dev).setOd 0x2401 1 1
def pl (st : Coh) : State := h0.onDev fun d => d.setPline 5 { st := st, data := [3] }
def pls : State := h0.onDev fun d => d.setPline 5 { st := .s, data := [3], sharers := [2] }
def x5 : State := (x1 16).onDev fun d => { d with ridge := { d.ridge with txns := [t2 16] } }
def pw : State := h0.onDev fun d => d.setPline 5 { st := .m, wb := true }
def qg : HomeReq := { op := .rdShared, a := 15, tn := 3 }
def pg : State := h0.onDev fun d => { d with ridge := { d.ridge with proxyWait := [(5, qg)] } }

end Sys2Proof.Tests.P07

namespace Sys2Proof.Tests.P08
def rg : Ranges := { hbm := ⟨1, 2⟩, core := ⟨16, 16⟩, spar := ⟨8, 8⟩, gpack := ⟨0, 8⟩, thatch := ⟨32, 2⟩, course := ⟨0, 4⟩ }
def mm : List Host.Cell := [(0x0FFFFFFF, 1), (0x10000000, 2), (0x1FFFFFFF, 3), (0x20000000, 4), (0x30000000, 5)]
def b (f : Bay → Bay) : State := { (ready.onDev fun d => d.setBay 3 (f { held := rg })) with mem := mm }
def sc : State := b fun x => { x with st := .configuring, scrubbing := true, next := { hbm := ⟨2, 1⟩ }, commitRt := some (.can 1) }
def dr (f p : Bool) : State := b fun x => { x with st := .draining, toFree := f, toParked := p }
def ru : State := b fun x => { x with st := .running }
def pk : State := b fun x => { x with st := .parked, hold := some 5 }
def re : State := (upl.onDev fun d => ((d.setBay 3 { st := .parked, held := rg, hold := some 5 }).setOd 0x2103 0x1B 7)).onDev fun d => { d with link := { d.link with bme := [4] } }
def rd : State := ru.onDev fun d => (d.setJour 3 { st := .restarting, draining := true, q := 2, pos := 9, spars := [(8, 5)] }).setSpar 9 { value := 3 }
def wk : Walk := { id := 4, bay := 3, space := 1, dva := 0x123456, write := true, who := .sink 3, level := 1, table := 0x10001000 }
def ea : Nat := wk.table + walkIdx wk.dva wk.level * 8
def wS : State := { (ru.onDev fun d => { d with trans := { walks := [wk] } }) with mem := (leBytes 8 (0x40000000 + 0xF)).zipIdx.filterMap fun c => if c.1 = 0 then none else some (ea + c.2, c.1) }
def wF : State := ru.onDev fun d => { d with trans := { walks := [{ wk with level := 4 }] } }
def tq : TReq := { tag := 9, walk := wk, host := 0x5000, log := 12, r := true, w := true, coh := false }
def tS : State := ru.onDev fun d => { d with trans := { treqs := [tq] } }
def tl (bay : Nat) (ats : Bool) (h : Nat) : Tlb := ⟨bay, 1, 0x1000, 12, 0, 1, 0x9000, true, true, false, ats, false, h, 1⟩
def iS : State := upl.onDev fun d => { d with trans := { tlb := [tl 3 true 0x5000, tl 3 false 0x5000, tl 2 true 0x5000, tl 3 true 0x7000], treqs := [tq] } }
def i1 : Inval := { bay := 3, space := 0, ats := true, itag := 7 }
def i2 : Inval := { bay := 3, space := 0, ats := false }
def iC : State := upl.onDev fun d => { d with trans := { invals := [i1, i2] } }
def i3 : State := upl.onDev fun d => { d with trans := { invals := [{ i2 with tags := [5] }] }, link := { d.link with reqs := [{ tag := 5, bay := some 3, who := .gutter 1, addr := 0, len := 4, time := 3 }] } }
def g : Prg := { idx := 100, bay := 3, space := 1, page := 0x5000, write := true, who := [.gutter 2], deadline := 500 }
def pS : State := upl.onDev fun d => ({ d with trans := { prgs := [g], halts := [⟨.gutter 2, 3, 2, 0x5008, 1, true, 0x5000, 9⟩] } } : Dev).setGutter 2 { st := .halted, bay := 3 }
def pI : State := upl.onDev fun d => { d with trans := { prgs := [g] } }
def pF : State := upl.onDev fun d => { d with link := { d.link with priFailure := true } }

end Sys2Proof.Tests.P08

namespace Sys2Proof.Tests.P09
def fS : State := (put lo (List.replicate 64 0) bay).onDev fun d => (d.setQueue 3 5 { st := .active, p := 1 }).setOd 0x2683 0x51 va |>.setOd 0x2683 0x53 10
def nS (ph : CPh) : State := wc (cm 0 ph []) bay
def oS (op : Nat) (ph : CPh) (fs : List (Nat × List Byte)) : State := wc (cm op ph fs) bay
def wf : List (Nat × List Byte) := [(8, [9]), (0x10, [1]), (0x18, [5])]
def w1 := oS 2 .started wf
def c2 : Cmd := { cm 2 .started wf with deadline := some (w1.time + 5000) }
def spv (s : State) : State := s.onDev fun d => d.setSpar 9 { value := 1 }
def wT : State := (wc { cm 2 .running wf with deadline := some 10 } bay).onDev fun d => { d with loops := { d.loops with islands := d.loops.islands.map fun c => if c.1 = 330 then (330, { c.2 with st := .closing }) else c } }
def sg (b : Byte) : List (Nat × List Byte) := [(8, [9]), (0xA, [b]), (0x10, [5])]
def jb (b : Bool) (s : State) : State := s.onDev fun d => ((if b then d.setOd 0x2103 3 1 else d).setQueue 3 5 { d.queue 3 5 with job := some 2, jobId := 6 }).setJour 3 { st := if b then .open_ else .none, q := 5, pos := 2 }
def le : List Byte := leBytes 8 (va + 64) ++ leBytes 8 16 ++ [0, 0, 0xFF, 0xFF] ++ zeros 12
def bj (b : Bool) (op : Nat) : State := put lo le ((wc (cm op .started [(8, [6]), (0x10, leBytes 8 va), (0x18, [1])]) bay).onDev fun d => (if b then d.setOd 0x2103 3 1 else d))
def iv : List (Nat × List Byte) := [(8, [4])]
def iS : State := withT (oS 8 .started iv) {}
def gf : List (Nat × List Byte) := [(8, [2]), (0x10, leBytes 8 va)]
def cS : State := (oS 0x11 .started gf).onDev fun d => d.setCourse 2 { st := .prepared, bay := 3, q := 5, p := 7, stall := 7, since := 5 }
def ed : List Byte := patch (patch (patch (patch (patch (zeros 64) 0 [4, 0, 6]) 4 [16]) 8 (leBytes 8 (va + 0x100))) 0x10 (leBytes 8 (va + 0x200))) 0x30 [0xFF, 0xFF]
def ef : List (Nat × List Byte) := [(8, [4, 1]), (0x10, leBytes 8 va)]
def eS : State := put lo ed (oS 0x21 .started ef)
def rf : List (Nat × List Byte) := [(8, [17, 0, 2]), (0x10, leBytes 8 va), (0x18, leBytes 8 (va + 0x800))]
def rS : State := put lo (fit 64 [1] ++ fit 32 [0]) (oS 0x20 .started rf)
def t1 := (rd rS W va 64).2
def t2 := (rd (withT rS t1) W (va + 64) 32).2
def sf : List (Nat × List Byte) := [(8, [33]), (0x10, leBytes 8 0x80000000), (0x18, [2])]
def seS : State := withT (oS 0x30 .started sf) { tlb := [⟨3, 0, 0x80000000, 21, 0, 0, 0x10000000, true, true, false, false, false, 0, 0⟩] }
def tf : List (Nat × List Byte) := [(8, [33]), (0xA, [4])]
def trS : State := (oS 0x31 .started tf).onDev fun d => d.setArr 33 { st := .seated, bay := 3 }
def fT : Trans := match ({ fS.dev.setBay 3 { fS.dev.bay 3 with lastQueue := 5 } with } : Dev).readRange fS.env (.queue 29) 3 0 va 64 with | (_, d) => d.trans
def cfs : List (Nat × List Byte) := [(8, [6]), (0x10, leBytes 8 va), (0x18, [1])]
def bR : List Byte × Trans := rd (bj false 6) W va 32
def eJ (b : Bool) : State := jb b (bj b 7)
def eL : List Byte × Trans := rd (eJ false) W va 32
def eO : List Byte × Trans := rd (withT (eJ false) eL.2) W (va + 64) 16
def eX : List Byte × Trans := rd eS W va 64
def t3 := (rd (withT rS t2) W (va + 0x800) 64).2
def seT : Trans := match seS.dev.seatRange W 3 0 0x80000000 with | (_, d) => d.trans
def r0 : JobRegion := { dva := 0, len := 0, await := false, spar := 0xFFFF }
def kf (k : Byte) : List (Nat × List Byte) := [(8, leBytes 8 va), (0x10, [k])]
def sE (obj : Byte) (ring log : Nat) : List Byte := [2, 0, obj, 0, 0, 0, 0xFF, 0xFF] ++ leBytes 8 (va + 0x400) ++ leBytes 8 ring ++ leBytes 4 log ++ [9, 0, 0, 0]
def sx1 := sE 2 0 0
def sx2 := sE 2 (va + 0x10000) 13
def sy2 := sE 3 0 0
def kS1 : State := put lo sx1 (oS 0x12 .started (kf 1))
def kS2 : State := (put lo (sx2 ++ sy2) (oS 0x12 .started (kf 2))).onDev fun d => (d.setOd 0x2103 0x19 1000).setArb 27 { derated := 1500000 }
def kX1 : List Byte × Trans := rd kS1 W va 32
def kX2 : List Byte × Trans := rd kS2 W va 64
def cof : List (Nat × List Byte) := gf
def coP : State := (oS 0x11 .fetched cof).onDev fun d => d.setCourse 2 { st := .prepared, bay := 3, q := 5, p := 7, stall := 7, since := 5 }
def kF : State := put lo sx1 (oS 0x12 .fetched (kf 1))
def kP : Chain := { bay := 3, q := 5, p := 7, space := 0, stages := [{ kind := 2, obj := 5 }] }
def kT : Trans := ((withT kS2 kX2.2).dev.ringPages W 3 0 (va + 0x10000) 13 true).2.trans

end Sys2Proof.Tests.P09

namespace Sys2Proof.Tests.P10
def gd : List Byte := patch (patch (patch (patch (patch (patch (patch (zeros 64) 0 (leBytes 8 (va + 0x100))) 8 (leBytes 8 (va + 0x238))) 0x10 [8]) 0x14 [1]) 0x16 [0x11]) 0x20 (leBytes 8 (va + 0x40))) 0x28 [0xFF, 0xFF]
def gS : State := put lo gd (bay.onDev fun d => d.setGutter 2 { st := .running, bay := 3, q := 5, p := 7, desc := va, crc := 6 })
def g' : Gutter := { gS.dev.gutter 2 with d := gd, fetched := true, row := 0, off := 0, crc0 := 6, crc := 6 }
def gE : State := put (lo + 0x100) [1,2,3,4,5,6,7,0xF8] (bay.onDev fun d => d.setGutter 2 g')
def sb := (rd gE (.gutter 2) (va+0x100) 8)
def gE1 := withT gE sb.2
def ch : List Byte := patch (patch (patch (zeros 64) 0 [20]) 7 [12]) 0x10 [1] |> fun b => patch (patch b 0x14 [2]) 0x16 [9, 0, 0xFF, 0xFF]
def ent : List Byte := patch (patch (zeros 32) 0 (leBytes 8 va)) 8 [64] |> fun b => patch b 0xC [1]
def cS : State := put (lo + 0x40 + 32 * 1) ent (bay.onDev fun d => d.setCourse 2 { st := .running, bay := 3, hdr := patch ch 0 [2], list := va, entry := 0, entries := [zeros 32], admitted := true })
def cP (b : Bool) : State := bay.onDev fun d => d.setCourse 2 { st := .running, bay := 3, hdr := ch, list := va, entry := 20, pass := 1, placed := 64, admitted := true, latched := b }
def pS : State := { (ready.onDev fun d => d.setArb 58 { proportional := true, lastMiss := 0 }) with time := 1000000 }
def ed : List Byte := patch (patch (patch (patch (patch (zeros 64) 0 [4, 0, 6]) 4 [16]) 8 (leBytes 8 (va + 0x100))) 0x10 (leBytes 8 (va + 0x200))) 0x30 [0xFF, 0xFF]
def eo : EngOp := { bay := 3, q := 5, p := 7, space := 0, d := ed }
def eS : State := bay.onDev fun d => d.setEngine 29 { queue := [eo] }
def ec := cm 0x21 .running [(8, [4, 1])]
def eR : State := (wc ec bay).onDev fun d => d.setEngine 29 { run := some eo }
def eb := rd eR (.engine 29) (va + 0x100) (oSrcLen ed)
def gX := rd gS (.gutter 2) va 64
def wG := wr gE1 (.gutter 2) (va + 0x238) (gutConvert gd 0 8 0 8 sb.1)
def cX := rd cS (.course 2) (va + 96) 32
def wE := wr (withT eR eb.2) (.engine 29) (oDst ed) (engResult fsum ed eb.1 [])

end Sys2Proof.Tests.P10

namespace Sys2Proof.Tests.P11
def op (o f cnt a b c d : Nat) : List Byte := leBytes 1 o ++ leBytes 1 f ++ leBytes 2 cnt ++ leBytes 4 a ++ leBytes 8 b ++ leBytes 8 c ++ leBytes 8 d
def rr : RunRec := { id := 4, bay := 3, q := 5, p := 7, space := 0, ops := 3, cores := [18] }
def runB (s : State) (r : RunRec) (x : List Byte) : State := put (localBase 18 + 32) x (s.onDev fun d => { (d.setCore 18 { st := .running, run := some 4, pc := 1 }) with runs := [r], nextRun := 5 })
def x1 := op 1 0 0 64 va 0x1000 0
def s1 := put lo [1,2,3] (runB bay rr x1)
def x2 := op 2 0 0 64 va 0x1000 0
def s2 := put (localBase 18 + 0x1000) [1,2,3] (runB bay rr x2)
def x3 := op 3 0 1 2 0x1000 0x1040 (0x1080 + 0xFFFFFFFF * 2^32)
def s3 := put (localBase 18 + 0x1040) [5,7] (put (localBase 18 + 0x1000) [1,0xFF] (runB bay rr x3))
def x4 := op 4 0 2 0x24 0x1000 0x1040 0x1080
def x4' := op 4 0 2 0x00 0x1000 0x1040 0x1080
def s4 := put (localBase 18 + 0x1040) (leBytes 4 5 ++ leBytes 4 7) (put (localBase 18 + 0x1000) (leBytes 4 1 ++ leBytes 4 (2^32-1)) (runB bay rr x4'))
def x5 := op 5 0 2 0 0x1000 0x1040 0x1080
def rqb : List Byte := leBytes 4 1 ++ zeros 12 ++ (leBytes 4 0x40000000 ++ [31] ++ zeros 11)
def s5 := put (localBase 18 + 0x1040) rqb (put (localBase 18 + 0x1000) (leBytes 4 6 ++ leBytes 4 (2^32-1)) (runB bay rr x5))
def kc := cm 0x20 .running [(8, [18]), (0xA, [1])]
def s6 := runB (wc kc bay) rr (zeros 32)
def x7 := op 0xA 0 3 1 0 0 0
def s7 (l : SMap Nat) : State := (runB bay rr x7).onDev fun d => d.setCore 18 { d.core 18 with loops := l }
def x8 := op 0xB 0 0 2 0x1000 9 5
def s8 := put (localBase 18 + 0x1000) [8] (runB bay rr x8)
def x9 := op 0xC 0 0 0 0 0 0
def s9 := runB bay rr x9
def r2 : RunRec := { rr with cores := [18, 19] }
def s9' := (runB bay r2 x9).onDev fun d => d.setCore 19 { st := .running, run := some 4 }
def xs (a : Nat) := op 8 0 0 a 9 5 0x1000
def ss (a v : Nat) : State := (runB bay rr (xs a)).onDev fun d => d.setSpar 9 { value := BitVec.ofNat 64 v }
def xh (a : Nat) := op 9 0 0 a 15 0x1000 0
def hs (a : Nat) (st : SlotSt) : State := put (slotAddr 3 15) [4,5] (put (localBase 18 + 0x1000) [6,7,8] ((runB bay rr (xh a)).onDev fun d => d.setPage 3 { inSt := [(15, st)] }))
def sw : State := (ss 2 5).onDev fun d => d.setCore 18 { d.core 18 with st := .waiting }
def rg : Ring := { pages := [lo], log := 12, put := 192, rel := 64 }
def chn : Chain := { bay := 3, q := 5, p := 7, space := 0, stages := [{ kind := 2, ring := some rg }, { kind := 5, ring := some { rg with pages := [lo + 4096] } }, { kind := 2 }] }
def rc : RunRec := { rr with stage := some 1 }
def x13 := op 6 0 0 0 128 0x1000 0
def s13 := put (lo + 64) [9,8] ((runB bay rc x13).onDev fun d => { d with chains := [chn] })
def x14 := op 7 0 0 1 128 0x1000 0
def s14 := put (localBase 18 + 0x1000) [9,8] ((runB bay rc x14).onDev fun d => { d with chains := [chn] })
def wS2 := wr s2 (.core 18) va (fit 64 [1,2,3])
def stg0 : Stage := { kind := 2, ring := some rg }
def stg1 : Stage := { kind := 5, ring := some { rg with pages := [lo + 4096] } }

end Sys2Proof.Tests.P11

namespace Sys2Proof.Tests.P12
def sc := cm 0x30 .running [(8, [33])]
def seS : State := (wc sc bay).onDev fun d => d.setArr 33 { st := .seating, bay := 3, shadow := 0x10000000, set := 2, seatCmd := some (5, 7) }
def tc := cm 0x31 .running [(8, [33])]
def pf : PairFit := { pair := 1151, gHi := 1, oHi := 2, gLo := 3, oLo := 4, residual := 24 }
def trS : State := (wc tc bay).onDev fun d => d.setArr 33 (({ st := .seated, bay := 3 } : Arr).setPair 1151 { trimming := true, cmd := some (5, 7) })
def aS (st : ASt) (due : Bool) : State := { (bay.onDev fun d => d.setArr 33 { st := st, bay := 3, calDue := due, newThresholds := [(4, 5)] }) with time := 7200000000000 }
def rg (k : Nat) : Ring := { pages := [lo + 4096 * k], log := 12, put := 192, rel := 64 }
def ld : List Byte := patch (zeros 64) 0 [1, 0, 2, 0, 1]
def st1 : Stage := { kind := 4, obj := 33, count := 1, desc := ld, aux := zeros 8, ring := some (rg 1), vec := 1 }
def chn : Chain := { bay := 3, q := 5, p := 7, space := 0, stages := [{ kind := 2, ring := some (rg 0) }, st1, { kind := 3, ekind := 5, desc := patch (zeros 64) 0 [5, 2], idx := 0, inb := [1,0,0,0,0,0,0,0], aux := patch (zeros 32) 0 [1], placed := 0 }] }
def chS : State := bay.onDev fun d => { (d.setArr 33 { st := .seated, bay := 3 }) with chains := [chn] }
def ers : Option (List (List Byte)) := (List.range 2).mapM fun o => chS.dev.thatchRecord st1 [0] [] o (Config.freeValue (chS.dev.free + o) % 2 ^ 32)
def s2 : Stage := (chn.stages[2]?).getD st1
def v := certTest (toInt 32 (fld s2.inb 0 4)) (fld s2.inb 4 2) (bit (fld s2.inb 6 2) 0) (rqEntry s2.aux s2.idx)
def s3 : Stage := { s2 with inb := [], idx := 1, outs := [(0, 0)] }
def fl : State := chS.onDev fun d => { d with chains := [{ chn with stages := chn.stages.take 2 ++ [{ s2 with inb := [1,0,0,0,0,0,1,0] }] }] }
def tk (b : Bool) : Task := { bay := 3, q := 5, p := 7, stage := 2, vec := 0, out := 0, audit := b }
def tS (b : Bool) : State := chS.onDev fun d => { d with tasks := [tk b], chains := [{ chn with stages := chn.stages.take 2 ++ [{ s2 with idx := 1 }] }] }
def jr : JobRegion := { dva := va, len := 3, await := false, spar := 0xFFFF }
def jrI : JobRegion := { jr with eng := some (29, 0) }
def jrO : JobRegion := { jr with eng := some (30, 1) }
def jS : State := put lo [1,2,3] (bay.onDev fun d => (d.setOd 0x2103 3 1).setJour 3 { st := .open_, q := 5, inputs := [jrI], outputs := [jrO], closing := some 7 })
def sgS : State := jS.onDev fun d => d.setJour 3 { d.jour 3 with inputs := [], outputs := [{ jr with digest := some [] }] }
def skS : State := bay.onDev fun d => ((d.setOd 0x2C13 1 va).setOd 0x2C13 2 (32 + 16)).setJour 3 { heldRecs := [(4, [1,2,3,4])], w := 2^16 + 8 }
def jX := rd jS (.job 3 0) va 3
def jY := rd jS (.job 3 64) va 3
def wK := (skS.onDev fun d => d.setOd 0x2C13 4 12)
def wKd := (wK.dev.writeRange wK.env (.sink 3) 3 0 (va + 8) [1,2,3,4] true).2
def tSum (b : Bool) : Nat := ((tS b).dev.flashSum (tS b).env 3 5 7 2 0 0).getD 0
def ckT (b : Bool) : Task := { tk b with bound := 1, est := toInt 32 (tSum b) }
def chT : Chain := { chn with stages := chn.stages.take 2 ++ [{ s2 with idx := 1 }] }

end Sys2Proof.Tests.P12

namespace Sys2Proof.Tests.P13
def pt (x : Port) : State := ready.onDev fun d => { (d.setOd 0x2A23 1 1).setPort 3 x with fabric := { (d.setPort 3 x).fabric with id := some 9 } }
def a1 := pt { st := .training }
def a2 := pt { st := .inService }
def a4 := pt { st := .linked }
def a5 := { pt { st := .inService } with time := 2000000 }
def u1 : Frame := { ty := 0x20, vc := 4, seq := 4, payload := [1] , len := 1}
def b1 := pt { st := .inService, unacked := [(4, u1), (5, { u1 with seq := 5})], credits := [(3, 100)], lastSend := 900000 }
def lk : Frame := { ty := 0x39, vc := 7, addr := 4, payload := leBytes 2 0 ++ leBytes 2 600 ++ zeros 2 ++ leBytes 2 7 ++ zeros 6 }
def b9 := pt { st := .inService, owesLack := true, rxRoom := [(2, 500)], rxSeq := 6 }
def vf : Frame := { ty := 0x20, vc := 4, seq := 6, src := 8 }
def c1 := pt { st := .inService }
def fr (ty vc : Nat) (pl : List Byte) : Frame := { ty := ty, vc := vc, dst := 9, src := 8, hops := 3, payload := pl, len := pl.length, version := 1 }
def q (w n : Nat) (st : PortSt) : State := pt { st := st, rxSeq := 6, window := w, windowCount := n }
def noid : State := (pt { st := .linked }).onDev fun d => { d with fabric := { d.fabric with id := none } }
def fb := ready.onDev fun d => ((d.setPort 3 { st := .inService }) )
def a11 (r : Remote) := fb.onDev fun d => { d with fabric := { d.fabric with id := some 9, remotes := [r] } }
def rem (dd : Bool) : Remote := { tn := 5, who := .gutter 9, bay := 3, f := { ty := 0x20, vc := 4, dst := 8, addr := 0x1234, payload := [1,2] }, sent := 1000, dead := dd }
def f11 (st : Nat) := { fr 0x28 5 [] with tn := 5, st := st }
def o : State := ready.onDev fun d => d.setUsdo 1 (some { idx := 0x2004, sub := 1, write := true, data := [1, 2], deadline := 500 })
def sp (l : List (BitVec 23)) : State := { span.onBoard fun b => { b with latched := false, strapRaw := 0, samples := l } with time := 200000 }

end Sys2Proof.Tests.P13

namespace Sys2Proof.Tests.P14
def fr (ty vc : Nat) (pl : List Byte) : Frame := { ty := ty, vc := vc, dst := 9, src := 8, hops := 3, payload := pl, len := pl.length, version := 1 }
def pt (g : Dev → Dev) : State := bay.onDev fun d =>
  let d := (((d.setPort 3 { st := .inService }).setPort 4 { st := .inService }).setRegion 3 2 { base := lo, ctl := 0x7E0000 + 77 * 2^32, st := .open_ })
  g { d with fabric := { d.fabric with id := some 9, fm := 12, routes := [(8, 16)] } }
def a1 := pt id
def f1 : Frame := { fr 0x20 4 [1,2,3] with addr := lo + 70, key := 77, tn := 5 }
def f2 : Frame := { fr 0x21 4 (leBytes 4 5) with addr := lo + 40, key := 77, tn := 5 }
def a2 := put (lo + 40) [9,8,7,6,5,4] a1
def a3 := pt fun d => d.setSpar 9 { value := 7, remote := true, key := 66 }
def f3 : Frame := { fr 0x22 4 (leBytes 8 5) with addr := 9, key := 66, tn := 5 }
def a4 := pt fun d => (d.setOd 0x2103 5 1).setOd 0x2A43 1 8
def f4 : Frame := { fr 0x23 4 (leBytes 4 4) with addr := 0x40140, tn := 5 }
def pr := (a4.dev.tookFrame 3 f4).pageRead a4.env (17 + 32 * 8 + 4) 4 0x144 4
def f4' : Frame := { f4 with addr := 0x40140 }
def pr' := (a4.dev.tookFrame 3 f4').pageRead a4.env (17 + 32 * 8 + 4) 4 0x140 4
def f5 : Frame := { fr 0x24 4 (leBytes 4 99) with addr := 0x40140, tn := 5 }
def a6 := pt fun d => ((d.setOd 0x2103 5 1).setOd 0x2A43 1 8).setOd 0x2A43 3 900000
def f6 : Frame := { fr 0x30 6 [] with aux := 8, tn := 5 }
def a7 : State := (pt fun d => { d.setPort 3 { st := .linked } with fabric := { (d.setPort 3 { st := .linked }).fabric with id := none, fm := 0xFFFF } })
def f7 : Frame := { fr 0x33 6 (leBytes 2 77) with linkLocal := true, dst := 0xFFF }
def a8 := pt fun d => { d with fabric := { d.fabric with routes := [(20, 16)] } }
def f8 := { f1 with dst := 20 }
def a9 := { pt fun d => ((d.setBay 3 { st := .parked}).setOd 0x2103 5 1).setOd 0x2A43 3 9 with time := 300000000 }
def a10 := { pt fun d => (((d.setBay 3 { d.bay 3 with st := .idle}).setOd 0x2103 5 1).setOd 0x2A43 3 9).setOd 0x2103 4 0 with time := 300000000 }
def rem (ty : Nat) (w : Who) : Remote := { tn := 5, who := w, bay := 3, f := { ty := ty, vc := 4, dst := 8, addr := 0x1234, payload := [1,2] }, sent := 1000 }
def a11 (r : Remote) := pt fun d => { d with fabric := { d.fabric with remotes := [r] } }
def f11 := { fr 0x28 5 [] with tn := 5 }
def x11 := a11 (rem 0x20 (.gutter 9))
def f12 := { fr 0x29 5 [7,8] with tn := 5 }
def x12 := a11 (rem 0x21 (.gutter 9))
def c13 := cm 3 .running []
def x13 := wc c13 (a11 (rem 0x22 (.cmd 29 7)))
def f13 := { fr 0x2A 5 [] with tn := 5 }
def x14 := a11 { rem 0x21 (.gutter 9) with retryAt := some 900000 }
def h := 0x10000000
def a2h := put (h + 40) [9,8,7,6,5,4] ((pt id).onDev fun d => d.setRegion 3 2 { base := h, ctl := 0x7E0000 + 77 * 2^32, st := .open_ })
def f2h : Frame := { f2 with addr := h + 40 }

end Sys2Proof.Tests.P14

namespace Sys2Proof.Tests.P15
def fr (ty vc : Nat) (pl : List Byte) : Frame := { ty := ty, vc := vc, dst := 9, src := 8, hops := 3, payload := pl, len := pl.length, version := 1 }
def pt (g : Dev → Dev) : State := bay.onDev fun d =>
  let d := (((d.setPort 3 { st := .inService }).setPort 4 { st := .inService }).setRegion 3 2 { base := lo, ctl := 0x7E0000 + 77 * 2^32, st := .open_ })
  g { d with fabric := { d.fabric with id := some 9, fm := 12, routes := [(8, 16)] } }
def a1 := pt id
def h := 0x10000000
def a2 := put (h + 40) [9,8,7,6,5,4] ((pt id).onDev fun d => d.setRegion 3 2 { base := h, ctl := 0x7E0000 + 77 * 2^32, st := .open_ })
def et (g : Dev → Dev) : State := bay.onDev fun d =>
  let d := ((d.setPort 3 { st := .inService, mode := 1 }).setPort 4 { st := .inService }).setRegion 3 2 { base := h, ctl := 0x7E0000 + 77 * 2^32 + 0xFFFF * 2^48, st := .open_ }
  let d := (d.setOd 0x2A63 0xB (500 + 2^24 * 40 + 3 * 2^48 + 2^52)).setOd 0x2A63 0xC 0x0A000001
  g { d with fabric := { d.fabric with id := some 9, fm := 12, routes := [(8, 16)] } }
def k0 : RocePkt := { qpn := 0x880000 + 13, srcQpn := 500, srcAddr := leBytes 4 0x0A000001, psn := 40, rkey := 77 * 65536 + 0x8832, va := 70, dmaLen := 3, data := [1,2,3] }
def e1 := et id
def e2 := et fun d => d.setQp 3 1 { msg := some (2, 73, 6, 9), nakSent := true }
def e4 := put (h + 70) [9,8,7] e1
def e5 := et fun d => (d.setOd 0x2A23 0xC 0xC0A80001).setOd 0x2A23 0xD 0xFE80
def e8 := et fun d => { d with fabric := { d.fabric with ptpPort := 3, lastDelay := 30, ptpGood := 15, ptpOffset := 5000 } }
def mm : PtpMsg := { domain := e8.dev.od 0x2A00 0xB, seq := 6, time := 1005000, priority := 3, clockClass := 6, clockId := 99 }
def e9 := e8.onDev fun d => d.setPort 3 { d.port 3 with syncTime := some (1000001, 6) }
def e10 := e8.onDev fun d => { d with fabric := { d.fabric with delaySent := some (999000, 6), lastDelta := 40 } }
def e12 : State := { e8.onDev fun d => d.setPort 3 { d.port 3 with ann := some (3,6,99), annTime := 5 } with time := 4000000000 }
def e14 (o : Int) := et fun d => { d.setOd 0x2A00 0xC 1 with fabric := { d.fabric with ptpOffset := o, ptpState := 2 } }
def b1 := upl.onDev fun d => ((d.setBay 3 { st := .running }).setRegion 3 2 { base := h, ctl := 0x7E0000 + 77 * 2^32 + 0xFFFF * 2^48, st := .open_ })
def b2 := put (h + 70) [9,8,7] b1
def pl (rp : Option Frame) : Place := { id := 4, bay := 3, slot := 2, lpa := h + 70, data := [1,2,3], count := 3, reply := rp }
def b3 (rp : Option Frame) (sp : Nat) : State := (et fun d => ((d.setRegion 3 2 { d.region 3 2 with spar := sp }).setSpar 9 { value := 7 })).onDev fun d => { d with places := [pl rp] }
def rf : Frame := { ty := 0x28, vc := 5, dst := 8, tn := 5 }

end Sys2Proof.Tests.P15

namespace Sys2Proof.Tests.P16
def isl (i : Nat) (g : Island → Island) (s : State) : State := s.onDev fun d => d.setIsland i (g (d.island i))
def o1 : State := (isl 7 (fun x => { x with eligible := some 5 }) (isl 258 (fun x => { x with eligible := some 5 }) { bay with time := 1000020 })).onDev fun d => d.setOd 0x2B00 5 1
def o2 : State := [258, 272, 331].foldl (fun s i => isl i (fun x => { x with flush := true }) s) (put (sumAddr 5) [3] (bay.onDev fun d => (d.setDir 0 (some { kind := .x, owner := 1 }))))
def o3 : State := [7, 18, 258, 272, 300, 326].foldl (fun s i => isl i (fun x => { x with st := .closing, toOff := i % 4 == 2 }) s) bay
def o4 : State := put (localBase 7 + 4) [1,2] (put (localBase 8) [3] ([7, 258, 300].foldl (fun s i => isl i (fun x => { x with st := .starting }) s) bay))
def o5 : State := { bay with time := 60000000000 }
def o6 := isl 9 (fun x => { x with retraining := true, latched := true }) bay
def o8 := isl 20 (fun x => { x with ratio := 100 }) bay
def o12 : State := { bay.onDev fun d => { (d.setDomain 4 { mv := 770, request := 800 }) with loops := { (d.setDomain 4 { mv := 770, request := 800 }).loops with sense := [(0,1),(1,2)], frozen := [(0, some 5), (1, some 7)] } } with time := 200000000 }
def o13 : State := bay.onDev fun d => { d with loops := { d.loops with prevMv := 780 } }
def o14 : State := { bay with time := 200000000000000 }
def o15 : State := bay.onDev fun d => (List.range 8).foldl (fun d k => d.setScrub k { running := true, latched := true }) d
theorem o15_runs : ∀ k : Fin 8, (decide (o15.rests = true) && decide ((o15.dev.scrub k).running = true) && decide ((o15.dev.scrub k).paused = false)) = true := by decide +kernel
theorem o2_dir : o2.dev.ridge.dir = [(0, some { kind := .x, owner := 1 })] := by decide +kernel
theorem o2_homed (l : Nat) (x : Dir) (h : o2.dev.dir l = some x) : x.kind ≠ .p := by
  unfold Dev.dir at h; rw [o2_dir] at h; simp only [smGet] at h
  split at h
  · cases h; decide
  · cases h

end Sys2Proof.Tests.P16

namespace Sys2Proof.Tests

set_option linter.unusedVariables false
set_option maxRecDepth 100000
set_option Elab.async false

/-! ### Ill-formed commands, one for each check of `Instr.wf`, refused -/

/-- An AtomicOp of 4 bytes whose operand is 1, with parts changed below. -/
def atomReq : AtomicReq := { fn := 4, bar := 2, off := 8, size := 4, operand := 1 }
/-- A frame of the smallest kind, type `VIOL`. -/
def violFrame : Frame := { ty := 0x34, vc := 6 }

theorem test_wf_board : [Instr.hbmThrottle 0 759, .hbmThrottleEnd 0 760, .voltageLoopPeriod [⟨350, 0, 0, false⟩], .frequencyLoopPeriod [⟨350, 0, 0, false⟩],
    .capStep [(350, 0)] 0, .placementLoop [(256, 0)], .reattach R 3 [1]].all (fun i => !i.wf) = true := by decide +kernel
theorem test_wf_link : [Instr.dlUp 2 64 true true, .linkRecoveryExit 3 64 true true, .hdmDecoderCommit 0 1 0x10000000, .hdmDecoderCommit 0 0 1,
    .atomicopFetchadd { atomReq with size := 16 }, .atomicopSwap { atomReq with size := 16 }, .atomicopCas { atomReq with size := 3 },
    .atomicopCas { atomReq with off := 9 }, .atomicopCas { atomReq with operand := 2 ^ 32 }, .atomicopCas { atomReq with compare := 2 ^ 32 },
    .ideKmKey 0 [] [(2, 1)], .partnerViolation { kind := 13 }, .partnerViolation { kind := 1, header := zeros 57 },
    .completionReceived 0 .ur [1]].all (fun i => !i.wf) = true := by decide +kernel
theorem test_wf_host_memory : [Instr.memRd 0 1 0 0, .memRdData 0 8 0, .memWr 0 1 0 (zeros 64) 0, .memWr 0 0 0 (zeros 63) 0, .memWrPtl 0 1 0 0 (zeros 64) 0,
    .memWrPtl 0 0 0 0 (zeros 65) 0, .hatchPost 0 0 (zeros 63), .skylightWrite 0 0 [], .skylightRead 0 0 4097 0, .lowHalfRead 0 4 0 0, .highHalfRead 0 8 0,
    .bar4Write 0 0 0 [], .bar4Read 0 0 0 0 0].all (fun i => !i.wf) = true := by decide +kernel
theorem test_wf_translation : [Instr.atsInvalidateRequest 0 32 none 0 4096, .atsInvalidateRequest 0 0 none 0 1, .atsInvalidateRequest 0 0 none 0 0,
    .atsInvalidateRequest 0 0 none 4096 8192, .atsInvalidateComplete 0 32, .prgSuccess 512 none, .prgInvalidRequest 512 none,
    .prgResponseFailure 512 none, .prgTimeout 512].all (fun i => !i.wf) = true := by decide +kernel
theorem test_wf_lines : [Instr.wbDirty 0 0 [] false 0, .ncWrite 0 0 0 0 [] false, .ncAtomic 0 0 0 0 0 3 0 0 false false, .ncAtomic 0 0 0 0 1 4 0 0 false false,
    .ncAtomic 0 0 0 0 64 4 0 0 false false, .snpData 0 0 0 [] false, .data 0 0 0 [] 0 false, .birsp 0 0 (some []), .hostGoResponse 0 0 [],
    .arm 0 0 2, .disarm 0 0 3, .sparCtlDictArm R 0 2, .trimEnd 0 5 ⟨6, 0, 0, 0, 0, 0⟩ true].all (fun i => !i.wf) = true := by decide +kernel
theorem test_wf_frames : ([{ violFrame with ty := 256 }, { violFrame with vc := 8 }, { violFrame with dst := 4096 }, { violFrame with src := 4096 },
    { violFrame with seq := 65536 }, { violFrame with hops := 256 }, { violFrame with aux := 65536 }, { violFrame with tn := 65536 },
    { violFrame with addr := 2 ^ 64 }, { violFrame with payload := zeros 4137 }].all fun f => !(Instr.frameForward 0 f).wf && !(Instr.fabricViolation 0 1 f).wf) = true := by decide +kernel
theorem test_wf_frame_types : ([Instr.assign 0, .lack 0, .lnak 0, .put 0, .get 0, .purlinSignal 0, .ctlRd 0, .ctlWr 0, .putAck 0, .getRsp 0, .sigAck 0,
    .ctlRsp 0, .hb 0].all fun i => !(i violFrame).wf) = true ∧ (Instr.viol 0 { violFrame with ty := 0x30 }).wf = false := by decide +kernel
theorem test_wf_ethernet : [Instr.rdmaWrite 0 { qpn := 0, data := zeros 4097 }, .rdmaRead 0 { qpn := 0, data := [1] },
    .icmpEchoRequest 0 false 0 (zeros 4097)].all (fun i => !i.wf) = true := by decide +kernel

/-! ### The spec's worked cases -/

/-- 17_arithmetic_reference.md, worked case, step 1: the sum of 18 products has one value, 0x4B80_0001. -/
theorem test_fsum_worked_case : fsum (0x4B800000 :: List.replicate 17 0x3F800000) = 0x4B800001 := by decide +kernel
/-- 17_arithmetic_reference.md, Table — Requantised sums. -/
theorem test_requant_worked_case : ([1600, 1728, -1600, 20000].map fun x => requant x { m := 0x40000000, s := 37, z := -3, lo := -128, hi := 127 }) = [9, 11, -15, 127] := by decide +kernel
/-- 17_arithmetic_reference.md, worked case, step 4. -/
theorem test_to_bf16_worked_case : [0x41100000, 0x3F808000, 0x3F818000].map toBf16 = [0x4110, 0x3F80, 0x3F82] := by decide +kernel
/-- 19_certified_rounding.md, worked case, step 1: the bounds of arrays 68 and 70 (all planes driven: inputs 0xFF; planes 0 to 3: 0x0F). -/
theorem test_bound_worked_case : boundOf 1 7 [0xFF] = 29 ∧ boundOf 1 10 [0x0F] = 4 := by decide +kernel
/-- 19_certified_rounding.md, worked case, steps 2 and 3: output 0 is certified at 25; output 1 straddles, and its exact sum gives 26. -/
theorem test_certify_worked_case : certTest 409590 33 false { m := 0x40000000, s := 44, z := 0, lo := -128, hi := 127 } = .certified 25 ∧
    certTest 417780 33 false { m := 0x40000000, s := 44, z := 0, lo := -128, hi := 127 } = .straddles ∧
    requant 417795 { m := 0x40000000, s := 44, z := 0, lo := -128, hi := 127 } = 26 := by decide +kernel
/-- R357, R416: COMMAND_START prepares a fetched CHAIN, whose start then takes what was prepared. -/
theorem test_chain_prepared : (match execCommandStart 3 5 P09.kF with
    | .next s => (s.dev.prepared.length, s.dev.chains.length, match execChain 3 5 7 s with
      | .next t => (t.dev.prepared.length, t.dev.chains.length, (t.dev.gutter 2).st == .running)
      | _ => (9, 9, false))
    | _ => (9, 9, 9, 9, false)) = (1, 0, 0, 1, true) := by decide +kernel

/-- R457: max32(−0, +0) is +0 and min32(−0, +0) is −0; R471: rsqrt32(−0) is −∞. -/
theorem test_signed_zeros : max32 0x80000000 0 = 0 ∧ min32 0x80000000 0 = 0x80000000 ∧ rsqrt32 0x80000000 = 0xFF800000 := by decide +kernel

/-! ### Witnesses: states and operands that meet the hypotheses of each obligation, clause by clause -/


/-- What the image checks say depends on the fuses alone. -/
theorem imageBadAll_of_fuses (d d' : Dev) (i : Image) (hr : d.nv.revoked = d'.nv.revoked) (hk : d.nv.keyHash = d'.nv.keyHash)
    (hs : d.nv.fuseSvn = d'.nv.fuseSvn) : d.imageBadAll i = d'.imageBadAll i := by
  simp only [Dev.imageBadAll, Dev.imageBad, hr, hk, hs]

/-- The padded message of 4 KiB of zeros, and one block of its hash. -/
def zerosPad : List Byte := shaPad (List.replicate 4096 0)
def zerosBlock (h : List W64) (i : Nat) : List W64 := shaBlock h ((zerosPad.drop (128 * i)).take 128)
/-- Its hash values after 11, 22 and 33 blocks. -/
def zeros11 : List W64 := [5014699419835003589, 12586601432771495398, 15230552795259208944, 8961331164739572570,
  16135446833408316318, 8046331452196456181, 11478221565964139216, 3771269551719909834]
def zeros22 : List W64 := [4965138712435934358, 16396537101331216532, 15948319667040081271, 15885017690565458886,
  8309795440396315292, 9383939188079064406, 8745986628117178297, 3702858392933840681]
def zeros33 : List W64 := [13899685417101022133, 14363150171003629484, 12377938603925765969, 6877977738684071012,
  6370352632085567029, 5340898412905158516, 18070927518324921888, 1412955445118101984]
theorem zeros_first : [0, 1, 2, 3, 4, 5, 6, 7, 8, 9, 10].foldl zerosBlock shaH0 = zeros11 := by decide +kernel
theorem zeros_second : [11, 12, 13, 14, 15, 16, 17, 18, 19, 20, 21].foldl zerosBlock zeros11 = zeros22 := by decide +kernel
theorem zeros_third : [22, 23, 24, 25, 26, 27, 28, 29, 30, 31, 32].foldl zerosBlock zeros22 = zeros33 := by decide +kernel
theorem sha384_zeros : sha384 (List.replicate 4096 0) = fit 48 goodImage.mHash := by
  have hr : List.range ((shaPad (List.replicate 4096 0)).length / 128) =
      [0, 1, 2, 3, 4, 5, 6, 7, 8, 9, 10] ++ [11, 12, 13, 14, 15, 16, 17, 18, 19, 20, 21] ++
        [22, 23, 24, 25, 26, 27, 28, 29, 30, 31, 32] := by decide +kernel
  have hf : (List.range ((shaPad (List.replicate 4096 0)).length / 128)).foldl zerosBlock shaH0 = zeros33 := by
    rw [hr, List.foldl_append, List.foldl_append, zeros_first, zeros_second, zeros_third]
  have he : sha384 (List.replicate 4096 0) =
      (((List.range ((shaPad (List.replicate 4096 0)).length / 128)).foldl zerosBlock shaH0).take 6).flatMap
        fun w => beBytes 8 w.toNat := rfl
  rw [he, hf]; decide +kernel

/-- A signature is valid where the two products of its check are as given and their sum has r as its abscissa. -/
theorem ecdsaVerify_of (pub m sig : List Byte) (z w : Nat) (a b : Option (Nat × Nat)) (hz : beNat (sha384 m) = z)
    (hw : invMod (beNat (sig.drop 48)) p384n = w) (ha : p384mul (z * w % p384n) p384g 384 = a)
    (hb : p384mul (beNat (sig.take 48) * w % p384n) (some (beNat (pub.take 48), beNat (pub.drop 48))) 384 = b)
    (hr : (pub.length == 96 && sig.length == 96 && decide (beNat (pub.take 48) < p384p) && decide (beNat (pub.drop 48) < p384p) &&
      (beNat (pub.drop 48) * beNat (pub.drop 48) % p384p ==
        (beNat (pub.take 48) * beNat (pub.take 48) * beNat (pub.take 48) + (p384p - 3) * beNat (pub.take 48) + p384b) % p384p) &&
      decide (0 < beNat (sig.take 48)) && decide (beNat (sig.take 48) < p384n) &&
      decide (0 < beNat (sig.drop 48)) && decide (beNat (sig.drop 48) < p384n) &&
      (match p384add a b with
       | some (vx, _) => vx % p384n == beNat (sig.take 48)
       | none => false)) = true) : ecdsaVerify pub m sig = true := by
  subst hz hw ha hb; exact hr

/-- The signature check of `goodImage` in its parts: the digest as a number, the inverse of s, and the two products. -/
def goodZ : Nat := 3570406865776640595081207259920097155037306731045131330469746418795543903975128020107131226662695149976424339764907
def goodW : Nat := 1349727961561068333667764771332337307826854508711791225407124563852878456716254042484072151015720343814034178717689
def goodA : Option (Nat × Nat) := some (6133863455935381191001202972384532759819894799887213699380457672479820987124797427386648602787497702845512625160999,
  24736094221642255528716622343469956417360827546289630641696413964044337996813088195414561782310432508022201728130964)
def goodB : Option (Nat × Nat) := some (20608929706176938790059894545923064309687144497257369369271616944485425791274954524781932572497169965625526003604867,
  28726342456233969815717031755323979537460909663741431213121727759641428966955757157702166445303882478741503671237331)
theorem goodImage_digest : beNat (sha384 (imageHeader goodImage)) = goodZ := by decide +kernel
theorem goodImage_inverse : invMod (beNat ((fit 96 goodImage.sig).drop 48)) p384n = goodW := by decide +kernel
theorem goodImage_first : p384mul (goodZ * goodW % p384n) p384g 384 = goodA := by decide +kernel
theorem goodImage_second : p384mul (beNat ((fit 96 goodImage.sig).take 48) * goodW % p384n)
    (some (beNat ((fit 96 goodImage.pubkey).take 48), beNat ((fit 96 goodImage.pubkey).drop 48))) 384 = goodB := by decide +kernel
theorem goodImage_signed : ecdsaVerify (fit 96 goodImage.pubkey) (imageHeader goodImage) (fit 96 goodImage.sig) = true :=
  ecdsaVerify_of _ _ _ goodZ goodW goodA goodB goodImage_digest goodImage_inverse goodImage_first goodImage_second (by decide +kernel)

theorem fit_nil (n : Nat) : fit n [] = List.replicate n 0 := by simp [fit, zeros]

/-- An image passes every check where it passes each. -/
theorem imageBadAll_none (d : Dev) (i : Image) (h3 : (i.magic != 0x08801A6E || i.hdrVersion != 1) = false)
    (h4 : (i.mLen < 0x1000 || 0x100000 < i.mLen || i.dLen < 0x1000 || 0x400000 < i.dLen || i.reserved != 0) = false)
    (h5 : (3 < i.keyIndex || bit d.nv.revoked.toNat i.keyIndex || sha384 (fit 96 i.pubkey) != smGet [] d.nv.keyHash i.keyIndex) = false)
    (h6 : ecdsaVerify (fit 96 i.pubkey) (imageHeader i) (fit 96 i.sig) = true) (h7 : ¬ i.svn < d.nv.fuseSvn)
    (h8 : sha384 (fit i.mLen i.mBytes) = fit 48 i.mHash) (h9 : sha384 (fit i.dLen i.dBytes) = fit 48 i.dHash) :
    d.imageBadAll i = none := by
  unfold Dev.imageBadAll Dev.imageBad imageDBad
  simp only [h3, h4, h5, h6, h7, h8, h9, Bool.not_true, Bool.false_eq_true, if_false, bne_self_eq_false]

theorem goodImage_m : sha384 (fit goodImage.mLen goodImage.mBytes) = fit 48 goodImage.mHash :=
  (congrArg sha384 (fit_nil 4096)).trans sha384_zeros
theorem goodImage_d : sha384 (fit goodImage.dLen goodImage.dBytes) = fit 48 goodImage.dHash :=
  (congrArg sha384 (fit_nil 4096)).trans sha384_zeros

/-- `goodImage` passes every check, its signature among them. -/
theorem test_goodImage : ({ nv := goodNv } : Dev).imageBadAll goodImage = none :=
  imageBadAll_none _ _ (by decide +kernel) (by decide +kernel) (by decide +kernel) goodImage_signed (by decide +kernel)
    goodImage_m goodImage_d

theorem imageBad_of_imageBadAll (d : Dev) (i : Image) (h : d.imageBadAll i = none) : d.imageBad i = none := by
  unfold Dev.imageBadAll at h
  split at h
  · cases h
  · assumption
theorem witness_StepTakesFront :
    (((fun (c : Instr) (rest : List Instr) (s : State) => decide (s.pending = c :: rest)) (.ppsInEdge) ([.ppsOutPulse]) ({ ready with pending := [.ppsInEdge, .ppsOutPulse] }))) = true := by decide +kernel
theorem witness_DeviceTime_commands : (∀ f, Instr.ppsInEdge ≠ .sysRstNRelease f) ∧ Instr.ppsInEdge ≠ .sysRstNAssert ∧ Instr.ppsInEdge ≠ .standbyRailLoss :=
  ⟨fun _ => nofun, nofun, nofun⟩
theorem witness_DeviceTime :
    (((fun (f : Option Flash) (s : State) => decide (s.dev.board.rstN = false)) (none) ({})) &&
     ((fun (s : State) => decide (s.pending = [])) (ready))) = true := by decide +kernel
theorem witness_MemoryInvariant : memWf ready.mem = true ∧ ready.dev.stores = [] ∧ step ready = .next ready.idle := ⟨by decide +kernel, rfl, rfl⟩

theorem witness_ResetAndRelease :
    (((fun (f : Option Flash) (s : State) => decide (s.dev.board.rstN = false)) (some {}) ({}))) = true := by decide +kernel
theorem witness_StrapMajority :
    (((fun (pins : BitVec 23) (s : State) => decide (s.rests = true) && decide (s.dev.board.rstN = true) && decide (s.dev.board.latched = true ∨ s.time < 20000 * (s.dev.board.samples.length + 1))) (3) (ready)) &&
     ((fun (pins : BitVec 23) (s : State) => decide (s.rests = true) && decide (s.dev.board.rstN = true) && decide (s.dev.board.latched = false) && decide (20000 * (s.dev.board.samples.length + 1) ≤ s.time)) (6) ({ span.onBoard (fun b => { b with latched := false, strapRaw := 0, samples := [1, 2, 3, 4, 5, 6, 7] }) with time := 160000 }))) = true := by decide +kernel
theorem witness_SlotChecks_0 :
    (fun (k : Nat) (l : List Nat) (s : State) => (decide (s.rests = true) && decide (s.dev.boot.st = .rom) && decide (s.dev.boot.tries = k :: l) && decide (s.dev.nv.flash.sfdpOk = true) && decide (s.dev.board.mainPg = false)) = true ∧ s.dev.imageBad (flashSlot s.dev.nv.flash k) = none) (0) ([]) (P02.wGood) :=
  ⟨by decide +kernel, imageBad_of_imageBadAll P02.wGood.dev goodImage ((imageBadAll_of_fuses P02.wGood.dev { nv := goodNv } goodImage rfl rfl rfl).trans test_goodImage)⟩
theorem witness_SlotChecks :
    (((fun (k : Nat) (c : Nat) (l : List Nat) (s : State) => decide (s.rests = true) && decide (s.dev.boot.st = .rom) && decide (s.dev.boot.tries = k :: l) && decide (l ≠ []) && decide (s.dev.nv.flash.sfdpOk = true) && decide (s.dev.imageBad (flashSlot s.dev.nv.flash k) = some c)) (1) (3) ([0]) (P02.wSlot)) &&
     ((fun (k : Nat) (s : State) => decide (s.rests = true) && decide (s.dev.boot.st = .rom) && decide (s.dev.boot.tries = [k]) && decide (s.dev.nv.flash.sfdpOk = true) && decide (s.dev.canOn = true)) (0) (P02.wSlot1))) = true := by decide +kernel
theorem witness_FirmwareAndRails :
    (((fun (s : State) => decide (s.rests = true) && decide (s.dev.boot.firmware = false) && decide (s.dev.srv.reqs = []) && decide (s.dev.boot.st = .powering) && decide (s.dev.usdo 0 = none) && decide (s.dev.usdo 1 = none) && decide (storeRecs s.dev.nv.flash = []) && decide (s.dev.nv.restoreDue = false)) (P02.wTk)) &&
     ((fun (s : State) => decide (s.rests = true) && decide (s.dev.board.latched = true) && decide (s.dev.board.mainPg = false) && decide (s.dev.board.mainPwrReq = true) && decide (s.dev.boot.st = .powering) && decide (s.dev.attachMode = 0) && decide (s.dev.fabric.ports = [])) (P02.wPg)) &&
     ((fun (s : State) => decide (s.fresh = true) && decide (s.dev.board.latched = true) && decide (s.dev.board.mainPg = true) && decide (s.dev.board.mainPwrReq = true) && decide (s.dev.boot.waitPgLow = false) && decide (s.dev.od 0x2E01 5 + 1 < 2 ^ 32)) (ready)) &&
     ((fun (dl : Nat) (s : State) => decide (s.fresh = true) && decide (s.dev.boot.pgDeadline = some dl) && decide (dl ≤ s.time) && decide (s.dev.boot.st = .powering) && decide (s.dev.board.mainPg = false)) (5) (P02.wTo))) = true := by decide +kernel
theorem witness_TrainingParts :
    (((fun (k : Fin 8) (s : State) => decide (s.rests = true) && decide (s.dev.boot.st = .training) && decide (s.dev.boot.trained.contains k.val = false)) (6) (P02.wTr)) &&
     ((fun (k : Fin 8) (s : State) => decide (s.fresh = true) && decide (s.dev.boot.st = .training) && decide (s.dev.boot.trained.contains k.val = false) && decide (smGet 0 s.dev.boot.trainFails k = 2)) (6) (P02.wTr)) &&
     ((fun (s : State) => decide (s.rests = true) && decide (s.dev.boot.st = .training) && decide (s.dev.boot.zeroed = false) && decide (s.dev.boot.trained.length = 8) && decide (s.dev.attachMode = 0)) (P02.wZ)) &&
     ((fun (s : State) => decide (s.rests = true) && decide (s.dev.boot.st = .training) && decide (s.dev.boot.dOk = false) && decide (s.dev.boot.waitPgLow = false) && decide (imageDBad s.dev.boot.image = false) && decide (s.dev.attachMode = 0)) (P02.wD)) &&
     ((fun (s : State) => decide (s.rests = true) && decide (s.dev.boot.st = .training) && decide (s.dev.boot.dOk = false) && decide (s.dev.boot.waitPgLow = false) && decide (imageDBad s.dev.boot.image = true) && decide (s.dev.boot.dFails = 0) && decide (s.dev.boot.slot = 0) && decide (s.dev.board.mainPg = true)) (P02.wTr))) = true := by decide +kernel
theorem witness_EntersReady :
    (((fun (s : State) => decide (s.rests = true) && decide (s.dev.attachMode ≠ 1) && decide (s.dev.boot.st = .training) && decide (s.dev.boot.zeroed = true) && decide (s.dev.boot.dOk = true) && decide (s.dev.board.eaveReady = true) && decide (s.dev.fabric.ports = [])) (P02.wR)) &&
     ((fun (s : State) => decide (s.rests = true) && decide (s.dev.attachMode = 1) && decide (s.dev.boot.st = .joining) && decide (s.dev.fabric.id ≠ none) && decide (((List.range 12).any fun p => (s.dev.port p).st == .inService) = true)) (P02.wJ)) &&
     ((fun (s : State) => decide (s.rests = true) && decide (s.dev.readyNow = false)) (ready)) &&
     ((fun (dl : Nat) (s : State) => decide (s.fresh = true) && decide (s.dev.boot.watchdog = some dl) && decide (dl ≤ s.time)) (1000000) (P02.wW))) = true := by decide +kernel
theorem witness_EdgeOfBoard :
    (((fun (s : State) => decide (s.rests = true) && decide (s.dev.attachMode ≠ 1) && decide (s.dev.board.mainPg = true) && decide (s.dev.board.eaveReady = false) && decide (s.dev.boot.st = .training) && decide (s.dev.board.perst = true) && decide (s.dev.link.st = .dark)) (P02.wE)) &&
     ((fun (s : State) => decide (s.rests = true) && decide (s.dev.attachMode ≠ 1) && decide (s.dev.board.eaveReady = true) && decide (s.dev.boot.st ≠ .reset) && decide (s.dev.board.perst = false) && decide (s.dev.link.st = .lost)) (P02.wL)) &&
     ((fun (s : State) => decide (s.rests = true) && decide (s.dev.attachMode = 1)) (P02.wJ)) &&
     (((fun (s : State) => decide (s.rests = true) && decide (s.dev.attachMode ≠ 1) && decide (s.dev.link.st = .dark ∨ s.dev.link.st = .lost)) (P02.wL)) && ((fun (s : State) => decide (s.rests = true) && decide (s.dev.attachMode ≠ 1) && decide (s.dev.link.st = .dark ∨ s.dev.link.st = .lost)) (ready))) &&
     ((fun (s : State) => decide (s.rests = true) && decide (s.dev.attachMode ≠ 1) && decide (s.dev.link.st ≠ .dark) && decide (s.dev.link.st ≠ .lost) && decide (s.dev.bays = []) && decide (s.dev.pages = []) && decide (s.dev.courses = []) && decide (s.dev.ridge.proxy = []) && decide (s.dev.od 0x2200 9 + 1 < 2 ^ 32)) (upl)) &&
     ((fun (s : State) => decide (s.rests = true) && decide (s.dev.smbHere = true)) (ready)) &&
     ((fun (s : State) => decide (s.rests = true) && decide (s.dev.smbHere = false)) ({}))) = true := by decide +kernel
theorem witness_ThermalActions :
    (((fun (k : Option (Fin 8)) (temp : Int) (s : State) => decide (s.fresh = true) && decide (s.dev.board.latched = true) && decide (s.dev.board.thermTrip = false) && decide (tripTemp k temp = true) && decide (s.dev.board.fellAt ≠ some s.time)) (some 3) (840) (P02.wTr)) &&
     ((fun (k : Option (Fin 8)) (temp : Int) (s : State) => decide (s.rests = true) && decide (s.dev.board.latched = true) && decide (s.dev.board.thermTrip = false) && decide (tripTemp k temp = true) && decide (s.dev.board.fellAt = some s.time) && decide (0 < s.dev.od 0x2E01 5) && decide (s.dev.flog.length ≤ 1024)) (some 3) (840) (P02.wFall)) &&
     ((fun (k : Fin 8) (temp : Int) (s : State) => decide (s.rests = true) && decide (s.dev.board.mainPg = true) && decide (760 ≤ temp)) (7) (760) (ready)) &&
     ((fun (k : Fin 8) (temp : Int) (s : State) => decide (s.rests = true) && decide (s.dev.board.throttled.contains k.val = true) && decide (temp < 760)) (7) (759) (ready.onBoard (fun b => { b with throttled := [7] }))) &&
     ((fun (s : State) => decide (s.rests = true) && decide (s.dev.board.latched = true) && decide (s.dev.board.vrHot = false) && decide (s.dev.od 0x2E01 6 + 1 < 2 ^ 32)) (ready)) &&
     ((fun (s : State) => decide (s.rests = true)) (ready))) = true := by decide +kernel
theorem witness_SystemEntries_9 :
    (fun (d : Dev) (x : Nat × Nat) => (decide (x ∈ storedEntries)) = true ∧ ((∀ b, flashBank d.nv.flash = some b → b.generation + 1 < 2 ^ 32))) ({}) ((0x2002, 1)) :=
  ⟨by decide +kernel, fun b h => absurd (h.symm.trans (show flashBank ({} : Dev).nv.flash = none by decide +kernel)) nofun⟩
theorem witness_SystemEntries :
    (((fun (r : Route) (s : State) => decide (s.accepts r 0x1010 1 (leBytes 4 0x65766173) = true)) (R) (ready)) &&
     ((fun (r : Route) (s : State) => decide (s.accepts r 0x1011 1 (leBytes 4 0x64616F6C) = true)) (R) (ready)) &&
     ((fun (r : Route) (v : W64) (s : State) => decide (s.accepts r 0x2003 2 (leBytes 8 v.toNat) = true)) (R) (1) (P03.j1)) &&
     ((fun (r : Route) (s : State) => decide (s.accepts r 0x2004 4 [1] = true)) (R) (P03.a1)) &&
     ((fun (r : Route) (v : W32) (s : State) => decide (s.accepts r 0x2004 5 (leBytes 4 v.toNat) = true)) (R) (3) (P03.fz)) &&
     ((fun (r : Route) (s : State) => decide (s.accepts r 0x2001 0xB [1] = true) && decide (s.dev.boot.st = .failed) && decide (s.dev.board.mainPg = true)) (R) (P03.f1)) &&
     ((fun (r : Route) (v : W64) (s : State) => decide (s.accepts r 0x2200 0xD (leBytes 8 v.toNat) = true)) (R) (1) (P03.v1)) &&
     ((fun (r : Route) (v : W64) (s : State) => decide (s.accepts r 0x2D00 2 (leBytes 8 v.toNat) = true)) (R) (1) (P03.l1)) &&
     ((fun (r : Route) (n : Fin 16) (v : W64) (s : State) => decide (s.accepts r (0x2D10 + n) 5 (leBytes 8 v.toNat) = true)) (R) (3) (1) (P03.l1))) = true := by decide +kernel
theorem witness_BayActions :
    (((fun (r : Route) (n : Fin 16) (s : State) => decide (s.accepts r (0x2100 + n) 2 [1] = true) && decide (s.dev.attachMode ≠ 1)) (R) (15) (ready)) &&
     ((fun (r : Route) (n : Fin 16) (s : State) => decide (s.accepts r (0x2100 + n) 2 [3] = true) && decide (s.dev.attachMode ≠ 1)) (R) (3) (P03.idB)) &&
     ((fun (r : Route) (n : Fin 16) (s : State) => decide (s.accepts r (0x2100 + n) 2 [2] = true) && decide (s.dev.attachMode ≠ 1) && decide (s.dev.dropsUnits n = false) && decide (s.dev.strict n = false)) (R) (3) (P03.cfgB)) &&
     ((fun (r : Route) (n : Fin 16) (s : State) => decide (s.accepts r (0x2100 + n) 2 [2] = true) && decide (s.dev.dropsUnits n = true) && decide (s.unshown = true)) (R) (3) (P03.drB))) = true := by decide +kernel
theorem witness_BayDrainsAndEnds_3 :
    (fun (n : Fin 16) (s : State) => (decide (s.rests = true) && decide (s.dev.attachMode ≠ 1) && decide ((s.dev.bay n).st = .configuring) && decide ((s.dev.bay n).scrubbing = true) && decide (s.dev.homesQuiet ((s.dev.bay n).held.hbm.minus (s.dev.bay n).next.hbm) = true)) = true ∧ (∀ fn, (s.dev.bay n).commitRt = some fn → ∃ p, fn = .can p)) (3) (P08.sc) :=
  ⟨by decide +kernel, fun _ h => ⟨1, (Option.some.inj h).symm⟩⟩
theorem witness_BayDrainsAndEnds_9 :
    (fun (n : Fin 16) (s : State) => (decide (s.rests = true) && decide ((s.dev.jour n).draining = true) && decide ((s.dev.bay n).st.live = true)) = true ∧ (∀ i, (s.dev.spar i).mirror = false ∧ (s.dev.spar i).armed = false)) (3) (P08.rd) :=
  ⟨by decide +kernel, fun i => by
    show (smGet ({} : Spar) [(9, { value := 3 })] i).mirror = false ∧ (smGet ({} : Spar) [(9, { value := 3 })] i).armed = false
    simp only [smGet]; split <;> exact ⟨rfl, rfl⟩⟩
theorem witness_BayDrainsAndEnds :
    (((fun (r : Route) (n : Fin 16) (s : State) => decide (s.accepts r (0x2100 + n) 2 [4] = true) && decide (s.dev.attachMode ≠ 1) && decide (s.dev.unworked = true)) (R) (3) (P03.ruB)) &&
     ((fun (r : Route) (n : Fin 16) (s : State) => decide (s.accepts r (0x2100 + n) 2 [5] = true) && decide (s.dev.attachMode ≠ 1) && decide (s.dev.unworked = true) && decide (s.unshown = true)) (R) (3) (P03.idB)) &&
     ((fun (r : Route) (n : Fin 16) (s : State) => decide (s.accepts r (0x2100 + n) 2 [6] = true) && decide (s.dev.attachMode ≠ 1) && decide (s.dev.unworked = true) && decide (s.unshown = true) && decide ((s.dev.bay n).commitRt = none) && decide ((s.dev.bay n).st ≠ .draining)) (R) (3) (P03.idB)) &&
     ((fun (n : Fin 16) (s : State) => decide (s.rests = true) && decide (s.dev.attachMode ≠ 1) && decide ((s.dev.bay n).st = .draining) && decide (s.dev.drained s.env n = true) && decide ((s.dev.bay n).toFree = true)) (3) (P08.dr true false)) &&
     ((fun (n : Fin 16) (s : State) => decide (s.rests = true) && decide (s.dev.attachMode ≠ 1) && decide ((s.dev.bay n).st = .draining) && decide (s.dev.drained s.env n = true) && decide ((s.dev.bay n).toFree = false) && decide ((s.dev.bay n).toParked = false)) (3) (P08.dr false false)) &&
     ((fun (n : Fin 16) (s : State) => decide (s.rests = true) && decide (s.dev.attachMode ≠ 1) && decide ((s.dev.bay n).st = .running) && decide (s.dev.bayQuiet n = true)) (3) (P08.ru)) &&
     ((fun (n : Fin 16) (h : Nat) (s : State) => decide (s.rests = true) && decide (s.dev.attachMode ≠ 1) && decide ((s.dev.bay n).st = .parked) && decide ((s.dev.bay n).hold = some h) && decide (h ≤ s.time) && decide (s.dev.unworked = true) && decide (s.unshown = true)) (3) (5) (P08.pk)) &&
     ((fun (r : Route) (n : Fin 16) (token : List Byte) (s : State) => decide (s.accepts r (0x2D10 + n) 2 token = true) && decide (s.dev.attachMode ≠ 1) && decide (s.dev.ownerLink n ≠ 1) && decide (s.dev.bayQuiet n = true) && decide (s.dev.trans.halts = []) && decide (s.dev.strict n = false) && decide ((s.dev.jour n).sinkAt = none)) (R) (3) (leBytes 16 7) (P08.re))) = true := by decide +kernel
theorem witness_BayEntries :
    (((fun (r : Route) (n : Fin 16) (k : Fin 8) (v : W64) (s : State) => decide (s.accepts r (0x2100 + n) (0x20 + k) (leBytes 8 v.toNat) = true)) (R) (3) (1) (BitVec.ofNat 64 (1 + 65536 + 2^32*4 + 2^36)) (P03.idB)) &&
     ((fun (r : Route) (n : Fin 16) (k : Fin 8) (v : W64) (s : State) => decide (s.accepts r (0x2100 + n) (0x28 + k) (leBytes 8 v.toNat) = true)) (R) (3) (7) (BitVec.ofNat 64 (1 + 65536 + 2^32*4 + 2^36)) (P03.idB)) &&
     ((fun (r : Route) (k : Fin 16) (v : W32) (s : State) => decide (s.accepts r 0x2201 (k + 1) (leBytes 4 v.toNat) = true)) (R) (3) (0x10001) (P03.idB)) &&
     ((fun (r : Route) (n : Fin 16) (w : Fin 8) (v : W64) (s : State) => decide (s.accepts r (0x2990 + n) (w + 2) (leBytes 8 v.toNat) = true)) (R) (3) (7) (BitVec.ofNat 64 (2^32 + 65536 + 1)) (P03.idB)) &&
     ((fun (r : Route) (n : Fin 16) (v : W64) (s : State) => decide (s.accepts r (0x2C10 + n) 4 (leBytes 8 v.toNat) = true)) (R) (3) (0) (P03.idB)) &&
     ((fun (r : Route) (n : Fin 16) (v : W32) (s : State) => decide (s.accepts r (0x2C10 + n) 2 (leBytes 4 v.toNat) = true) && decide (bit v.toNat 5 = true)) (R) (3) (48) (P03.skB)) &&
     ((fun (r : Route) (n : Fin 16) (v : W64) (s : State) => decide (s.accepts r (0x2A60 + n) 3 (leBytes 8 v.toNat) = true)) (R) (3) (0x10001) (P03.rgB)) &&
     ((fun (r : Route) (n : Fin 16) (s : State) => decide (s.accepts r (0x2710 + n) 0x12 [1] = true)) (R) (3) (P03.thB)) &&
     ((fun (r : Route) (n : Fin 16) (v : W64) (s : State) (k : Nat) => decide (s.accepts r (0x2910 + n) 5 (leBytes 8 (v.toNat / 2 * 2 + 1)) = true) && decide (s.dev.sparSel n = some k) && decide ((s.dev.spar k).value.toNat < (s.dev.spar k).thresh.toNat)) (R) (3) (1) (P03.spB) (8))) = true := by decide +kernel
theorem witness_QueueAndWorkActions :
    (((fun (r : Route) (n : Fin 16) (q : Fin 8) (s : State) => decide (s.accepts r (0x2680 + n) (16 * q + 4) [1] = true)) (R) (3) (7) (P03.qE)) &&
     ((fun (r : Route) (n : Fin 16) (q : Fin 8) (s : State) => decide (s.accepts r (0x2680 + n) (16 * q + 4) [2] = true)) (R) (3) (7) (P03.qA)) &&
     ((fun (r : Route) (n : Fin 16) (q : Fin 8) (s : State) => decide (s.accepts r (0x2680 + n) (16 * q + 4) [3] = true)) (R) (3) (7) (P03.qH)) &&
     ((fun (r : Route) (n : Fin 16) (q : Fin 8) (s : State) => decide (s.accepts r (0x2680 + n) (16 * q + 4) [4] = true)) (R) (3) (7) (P03.qH)) &&
     ((fun (r : Route) (n : Fin 16) (s : State) => decide (s.accepts r (0x2510 + n) 7 [1] = true) && (let c := s.dev.gtSel n; let g := s.dev.gutter c; decide (g.sent = []))) (R) (3) (P03.gE)) &&
     ((fun (r : Route) (n : Fin 16) (s : State) => decide (s.accepts r (0x2510 + n) 7 [2] = true) && decide ((s.dev.gutter (s.dev.gtSel n)).bay = n.val) && decide (s.dev.unworked = true)) (R) (3) (P03.gE)) &&
     ((fun (r : Route) (n : Fin 16) (h : Halt) (c : Nat) (s : State) => decide (s.accepts r (0x2330 + n) 3 [1] = true) && decide (s.dev.trans.halts = [h]) && decide (h.who = .gutter c)) (R) (3) (P03.hh) (2) (P03.hA)) &&
     ((fun (r : Route) (n : Fin 16) (h : Halt) (c : Nat) (s : State) => decide (s.accepts r (0x2330 + n) 3 [2] = true) && decide (s.dev.trans.halts = [h]) && decide (h.who = .gutter c) && decide (s.dev.strict n = false) && decide (s.dev.bayEvt n = false) && decide (s.dev.attachMode ≠ 1) && decide (s.dev.trans.prgs = [])) (R) (3) (P03.hh) (2) (P03.hA)) &&
     ((fun (r : Route) (n : Fin 16) (v : W64) (s : State) => decide (s.accepts r (0x2310 + n) 0xA (leBytes 8 v.toNat) = true) && decide (s.dev.trans.tlb = []) && decide (s.dev.trans.micro = []) && decide (s.dev.trans.wcache = []) && decide (s.dev.trans.walks = []) && decide (s.dev.trans.treqs = [])) (R) (3) (5) (P03.idB))) = true := by decide +kernel
theorem witness_DeviceEntries :
    (((fun (r : Route) (p : Fin 12) (s : State) => decide (s.accepts r (0x2A20 + p) 5 [2] = true)) (R) (11) (P03.pQ)) &&
     ((fun (r : Route) (p : Fin 12) (s : State) => decide (s.accepts r (0x2A20 + p) 5 [1] = true) && decide (s.dev.portMay p = true) && decide ((s.dev.port p).queued = [])) (R) (11) (P03.pQ)) &&
     ((fun (r : Route) (s : State) => decide (s.accepts r 0x2200 0x12 [1] = true) && decide (s.dev.courses = []) && decide (s.dev.od 0x2200 0xA + 1 < 2 ^ 32)) (R) (P03.lU)) &&
     ((fun (r : Route) (s : State) => decide (s.accepts r 0x2B02 3 [3] = true) && decide (s.dev.od 0x2B02 1 < 350)) (R) (P03.iO)) &&
     ((fun (r : Route) (s : State) => decide (s.accepts r 0x2B02 3 [4] = true) && decide (s.dev.od 0x2B02 1 < 350)) (R) (P03.iA)) &&
     ((fun (r : Route) (s : State) => decide (s.accepts r 0x2B02 3 [2] = true) && decide (s.dev.od 0x2B02 1 < 256) && decide (s.dev.unworked = true)) (R) (P03.iA)) &&
     ((fun (r : Route) (s : State) => decide (s.accepts r 0x2B02 3 [1] = true) && decide (s.dev.od 0x2B02 1 < 256) && decide (s.dev.unworked = true)) (R) (P03.iA)) &&
     ((fun (r : Route) (v : Byte) (s : State) => decide (s.accepts r 0x2B00 3 [v] = true) && decide (s.dev.od 0x2B00 3 = 0)) (R) (3) (P03.iA)) &&
     ((fun (r : Route) (v : W16) (s : State) => decide (s.accepts r 0x2B01 4 (leBytes 2 v.toNat) = true) && decide (s.dev.od 0x2B01 1 < 23) && decide (v ≠ 0)) (R) (700) (P03.dO)) &&
     ((fun (r : Route) (v : W16) (s : State) => decide (s.accepts r 0x2B02 5 (leBytes 2 v.toNat) = true) && decide (s.dev.od 0x2B02 1 < 350)) (R) (128) (P03.dO)) &&
     ((fun (r : Route) (s : State) => decide (s.accepts r 0x2B03 3 [1] = true) && decide ((s.dev.scrub (s.dev.od 0x2B03 2)).running = false) && decide ((s.dev.scrub (s.dev.od 0x2B03 2)).latched = false) && decide ((s.dev.island (304 + s.dev.od 0x2B03 2)).st = .active)) (R) (ready)) &&
     ((fun (r : Route) (j : Fin 18) (v : W16) (s : State) => decide (s.accepts r 0x2401 (j + 1) (leBytes (if j.val < 2 then 1 else 2) v.toNat) = true) && decide (s.dev.ridge.cellOn = false) && decide (s.dev.ridge.members = []) && decide (s.dev.ridge.remote = []) && decide (s.dev.ridge.dir = []) && decide (2 < j.val)) (R) (17) (9) (P03.cE))) = true := by decide +kernel
theorem witness_CanServer :
    (((fun (p : Fin 2) (idx : W16) (sub : Byte) (s : State) => decide (s.rests = true) && decide (s.dev.canHere p = true) && decide (s.dev.usdoOpen p = false) && decide (s.dev.srv.reqs = []) && decide (s.dev.srv.activating = false)) (1) (0x1018) (4) (ready)) &&
     ((fun (p : Fin 2) (idx : W16) (sub : Byte) (data : List Byte) (s : State) => decide (s.rests = true) && decide (s.dev.canHere p = true) && decide (s.dev.usdoOpen p = false) && decide (s.dev.closing = false) && decide (s.dev.srv.reqs = [])) (1) (0x2004) (1) ([1, 2]) (ready)) &&
     ((fun (p : Fin 2) (data : List Byte) (x : Xfer) (s : State) => decide (s.rests = true) && decide (s.dev.canHere p = true) && decide (s.dev.usdo p = some x) && decide (x.write = true) && decide (s.dev.srv.reqs = [])) (1) ([3]) (P04.x1) (P04.tr1)) &&
     (((fun (p : Fin 2) (data : List Byte) (last : Bool) (x : Xfer) (s : State) => decide (s.rests = true) && decide (s.dev.canHere p = true) && decide (s.dev.usdo p = some x) && decide (x.write = false) && decide (x.data.length ≤ 56) && decide (s.dev.srv.reqs = [])) (1) ([]) (true) (P04.xr) (P04.tr2)) && ((fun (p : Fin 2) (data : List Byte) (last : Bool) (x : Xfer) (s : State) => decide (s.rests = true) && decide (s.dev.canHere p = true) && decide (s.dev.usdo p = some x) && decide (x.write = false) && decide (x.data.length ≤ 56) && decide (s.dev.srv.reqs = [])) (1) ([]) (false) ({ P04.xr with data := zeros 56 }) (P04.tr3))) &&
     ((fun (p : Fin 2) (data : List Byte) (x : Xfer) (s : State) => decide (s.rests = true) && decide (s.dev.canHere p = true) && decide (s.dev.usdo p = some x) && decide (x.write = true) && decide (s.dev.srv.reqs = []) && decide (s.dev.srv.activating = false)) (1) ([3]) (P04.x1) (P04.tr1)) &&
     (((fun (p : Fin 2) (write : Bool) (idx : W16) (sub : Byte) (data : List Byte) (last : Bool) (s : State) => decide (s.rests = true) && decide (s.dev.canHere p = true) && decide (s.dev.usdoOpen p = true) && decide (s.dev.srv.reqs.any (·.row) = false)) (1) (true) (0x1018) (4) ([]) (true) (P04.tr1)) && ((fun (p : Fin 2) (write : Bool) (idx : W16) (sub : Byte) (data : List Byte) (last : Bool) (s : State) => decide (s.rests = true) && decide (s.dev.canHere p = true) && decide (s.dev.usdoOpen p = true) && decide (s.dev.srv.reqs.any (·.row) = false)) (1) (false) (0x1018) (4) ([]) (true) (P04.tr1))) &&
     ((fun (p : Fin 2) (x : Xfer) (s : State) => decide (s.rests = true) && decide (s.dev.usdo p = some x) && decide (x.deadline ≤ s.time) && decide (s.dev.od 0x2002 7 + 1 < 2 ^ 32)) (1) (P04.x1) (P04.tr1)) &&
     ((fun (p : Fin 2) (s : State) => decide (s.rests = true) && decide (s.dev.canHere p = true) && decide (s.dev.od 0x2002 (5 + p) + 1 < 2 ^ 32) && decide (s.dev.srv.reqs.any (·.row) = false)) (1) (ready)) &&
     ((fun (p : Fin 2) (s : State) => decide (s.rests = true)) (1) (ready))) = true := by decide +kernel
theorem witness_WindowsAndReads :
    (((fun (fn : Fin 17) (s : State) => decide (s.rests = true) && decide (s.dev.hostHere fn = true) && decide (s.dev.noFence fn = true) && decide ((s.dev.win fn).busy = false) && decide (s.dev.srv.reqs = []) && decide (s.dev.srv.activating = false)) (4) (P04.w1)) &&
     ((fun (fn : Fin 17) (s : State) => decide (s.rests = true) && decide (s.dev.hostHere fn = true) && decide (s.dev.noFence fn = true) && decide ((s.dev.win fn).busy = false) && decide (s.dev.unmasked fn (if fn = 0 then 0 else 3) = false) && decide (s.dev.srv.reqs.any (·.row) = false)) (4) (P04.w1)) &&
     ((fun (s : State) => decide (s.rests = true) && decide (s.dev.hostHere 0 = true) && decide ((s.dev.win 0).busy = true) && decide (s.dev.od 0x2002 8 + 1 < 2 ^ 32) && decide (s.dev.srv.reqs.any (·.row) = false)) (P04.w2)) &&
     ((fun (fn : Fin 17) (x : Xfer) (s : State) => decide (s.rests = true) && decide ((s.dev.win fn).xfer = some x) && decide (x.deadline ≤ s.time)) (4) (P04.x1) (P04.w3)) &&
     ((fun (q : Req) (rest : List Req) (p : Fin 2) (t : Ent) (s : State) => decide (s.rests = true) && decide (s.dev.srv.reqs = q :: rest) && decide (q.route = .can p) && decide (q.op = .read) && decide (q.off = 0) && decide (({ s.dev with srv := { s.dev.srv with reqs := rest } } : Dev).odGate (.can p) true q.idx q.sub = .inr t) && decide (t.ty ≠ .dom) && decide (s.dev.powered q.idx = true) && (let d : Dev := { s.dev with srv := { s.dev.srv with reqs := rest } }; let bs := (d.odBytes s.env t q.idx q.sub).1; decide ((d.odBytes s.env t q.idx q.sub).2 = d) && decide (bit (d.od 0x2002 4) p = true))) (P04.rq) ([]) (1) ((entryOf 0x1018 1).getD ⟨0, 0, 0, 0, 0, .dom, .wo, false, false, 0⟩) (P04.sr))) = true := by decide +kernel
theorem witness_WritesJournaled :
    (((fun (c : Instr) (r : Route) (idx : Nat) (sub : Nat) (bs : List Byte) (s : State) (x : Status × Nat) => decide (dictWrite c = some (r, idx, sub, bs)) && decide (s.refuses r idx sub bs = some x) && decide (¬ (0x2D10 ≤ idx ∧ idx < 0x2D20 ∧ sub = 2)) && decide (s.dev.attachMode ≠ 1)) (.commit R 3) (R) (0x2103) (2) ([2]) (ready) ((.state, 0x08000022))) &&
     ((fun (r : Route) (v : W64) (s : State) => decide (s.accepts r 0x2200 0xD (leBytes 8 v.toNat) = true)) (R) (1) (P03.v1)) &&
     ((fun (r : Route) (n : Fin 16) (q : Fin 8) (s : State) => decide (s.accepts r (0x2680 + n) (16 * q + 4) [1] = true)) (R) (3) (7) (P03.qE))) = true := by decide +kernel
theorem witness_FirmwareUpdate_0 :
    (fun (i : Image) (s : State) => (decide (s.rests = true) && decide (s.dev.srv.stageImg = some i) && decide (s.dev.od 0x2004 2 = 1)) = true ∧ s.dev.imageBadAll i = none ∧ (∀ c, dirOf s.dev.nv.flash.dir0 = some c ∨ dirOf s.dev.nv.flash.dir1 = some c → c.seq + 1 < 2 ^ 32)) (goodImage) (P04.st1 1) :=
  ⟨by decide +kernel, (imageBadAll_of_fuses (P04.st1 1).dev { nv := goodNv } goodImage rfl rfl rfl).trans test_goodImage,
    fun c h => h.elim (fun h => absurd (h.symm.trans (show dirOf (P04.st1 1).dev.nv.flash.dir0 = none by decide +kernel)) nofun)
      (fun h => absurd (h.symm.trans (show dirOf (P04.st1 1).dev.nv.flash.dir1 = none by decide +kernel)) nofun)⟩
theorem witness_FirmwareUpdate_2 :
    (fun (i : Image) (s : State) => (decide (s.rests = true) && decide (s.dev.srv.stageImg = some i) && decide (s.dev.srv.activating = true) && decide (s.dev.srv.reqs = []) && decide (s.dev.usdo 0 = none) && decide (s.dev.usdo 1 = none) && decide (s.dev.srv.saving = none) && decide (s.dev.boot.started = true)) = true ∧ (∀ fn, (s.dev.win fn).xfer = none)) (goodImage) (P04.st3) :=
  ⟨by decide +kernel, fun _ => rfl⟩
theorem witness_FirmwareUpdate_3 :
    (fun (p : Fin 2) (i : Image) (s : State) => (decide (s.rests = true) && decide (s.dev.boot.st = .recovery) && decide (s.dev.canHere p = true) && decide (s.dev.usdo p = none) && decide (s.dev.srv.reqs = []) && decide (s.dev.srv.activating = false) && decide (s.dev.valueOk ⟨0x2001, 1, 0xC, 0xC, 1, .dom, .wo, false, false, 0⟩ 0x2001 0xC (leNat (imageBytes i)) = true) && decide (s.dev.board.mainPg = false)) = true ∧ s.dev.imageBadAll i = none) (0) (goodImage) (P04.rc) :=
  ⟨by decide +kernel, (imageBadAll_of_fuses P04.rc.dev { nv := goodNv } goodImage rfl rfl rfl).trans test_goodImage⟩
theorem witness_FirmwareUpdate :
    (((fun (i : Image) (c : Nat) (s : State) => decide (s.rests = true) && decide (s.dev.srv.stageImg = some i) && decide (s.dev.od 0x2004 2 = 1) && decide (s.dev.imageBadAll i = some c)) (goodImage) (5) (P04.st2)) &&
     ((fun (p : Fin 2) (i : Image) (s : State) => decide (s.rests = true) && decide (s.dev.boot.st = .ready) && decide (s.dev.boot.firmware = true) && decide (s.dev.canHere p = true) && decide (s.dev.usdo p = none) && decide (s.dev.srv.reqs = []) && decide (s.dev.srv.activating = false) && decide (s.dev.od 0x2004 2 ≠ 1) && decide (s.dev.valueOk ⟨0x2004, 1, 1, 1, 1, .dom, .wo, false, false, 0⟩ 0x2004 1 (leNat (imageBytes i)) = true)) (0) (goodImage) (ready))) = true := by decide +kernel
theorem witness_LinkStates :
    (((fun (w : Nat) (r : Nat) (flit : Bool) (cxl : Bool) (s : State) => decide (s.rests = true) && decide (s.dev.link.st = .training) && decide (s.dev.courses = []) && decide (bit s.dev.link.cxl 1 = false)) (16) (64) (true) (true) (P05.tr)) &&
     ((fun (s : State) => decide (s.rests = true) && decide (s.dev.link.st = .up) && decide (s.dev.courses = []) && decide (s.dev.od 0x2200 0xA + 1 < 2 ^ 32)) (upl)) &&
     ((fun (w : Nat) (r : Nat) (flit : Bool) (cxl : Bool) (s : State) => decide (s.rests = true) && decide (s.dev.link.st = .recovering) && decide (s.dev.courses = []) && decide (bit s.dev.link.cxl 1 = false)) (8) (32) (true) (false) (P05.rec_)) &&
     ((fun (c : Instr) (s : State) => decide (c = .dlDown ∨ c = .hotResetReceived ∨ c = .linkDisable) && decide (s.rests = true) && decide (s.dev.link.st = .up ∨ s.dev.link.st = .recovering) && decide (s.dev.bays = []) && decide (s.dev.pages = []) && decide (s.dev.courses = []) && decide (s.dev.ridge.proxy = []) && decide (s.dev.od 0x2200 9 + 1 < 2 ^ 32)) (.linkDisable) (P05.ul)) &&
     ((fun (s : State) => decide (s.rests = true) && decide (s.dev.link.st = .lost) && decide (s.dev.mayDetect = true)) (P05.lost)) &&
     ((fun (s : State) => decide (s.rests = true) && decide (s.dev.link.st = .dark)) (ready))) = true := by decide +kernel
theorem witness_FunctionResetsAndControls_3 :
    (fun (f : Fin 17) (tag : Nat) (s : State) => (decide (s.rests = true) && decide (s.dev.cfgHere = true) && decide (s.dev.link.ideBad = []) && decide (s.dev.link.deferred = []) && decide (s.dev.fnHere f = true) && decide (s.dev.trans.halts = []) && decide (s.dev.link.msixPend = [])) = true ∧ ((∀ n, (s.dev.jour n).sinkAt = none))) (16) (9) (P05.ul) :=
  ⟨by decide +kernel, fun _ => rfl⟩
theorem witness_FunctionResetsAndControls :
    (((fun (tag : Nat) (s : State) => decide (s.rests = true) && decide (s.dev.cfgHere = true) && decide (s.dev.link.ideBad = []) && decide (s.dev.link.deferred = []) && decide (s.dev.bays = []) && decide (s.dev.pages = [])) (9) (P05.ul)) &&
     ((fun (n : Fin 16) (tag : Nat) (s : State) => decide (s.rests = true) && decide (s.dev.cfgHere = true) && decide (s.dev.link.ideBad = []) && decide (s.dev.link.deferred = []) && decide (s.dev.link.vfEnable = true) && decide (s.dev.ownerLink n = 0) && decide ((s.dev.bay n).st = .idle) && decide ((s.dev.bay n).hold = none) && decide (s.dev.unworked = true) && decide (s.dev.trans.halts = []) && decide (s.dev.pages = []) && decide (s.dev.attachMode ≠ 1)) (3) (9) (P05.ur 1)) &&
     ((fun (f : Fin 17) (tag : Nat) (s : State) => decide (s.rests = true) && decide (s.dev.cfgHere = true) && decide (s.dev.link.ideBad = []) && decide (s.dev.link.deferred = []) && decide (s.dev.fnHere f = true)) (3) (9) (P05.ul)) &&
     ((fun (g : Nat) (tag : Nat) (s : State) => decide (s.rests = true) && decide (s.dev.cfgHere = true) && decide (s.dev.link.ideBad = []) && decide (s.dev.link.deferred = []) && decide (s.dev.link.vfEnable = false) && decide (g ∈ [1, 2, 4, 8, 16, 32])) (32) (9) (P05.nv)) &&
     ((fun (g : Nat) (tag : Nat) (s : State) => decide (s.rests = true) && decide (s.dev.cfgHere = false) && decide (s.dev.mayDefer = true)) (4) (9) (P05.lost)) &&
     ((fun (k : Fin 16) (base : Nat) (size : Nat) (s : State) => decide (s.rests = true) && decide (s.dev.cfgHere = true) && decide (s.dev.boot.st = .ready)) (15) (7) (0x20000000) (P05.hd)) &&
     ((fun (f : Fin 17) (v : Fin 8) (s : State) => decide (s.rests = true) && decide (s.dev.hostHere f = true) && decide (s.dev.link.msixPend = []) && decide ((f = 0 → v < 4))) (16) (7) (P05.ul)) &&
     ((fun (tag : Nat) (f : Fin 17) (s : State) => decide (s.rests = true) && decide (s.dev.cfgHere = true) && decide (s.dev.link.ideBad = []) && decide (s.dev.link.deferred = []) && decide (s.dev.fnHere f = true)) (9) (16) (P05.ul)) &&
     ((fun (tag : Nat) (op : CfgOp) (s : State) => decide (s.rests = true) && decide (s.dev.link.st = .up) && decide (s.dev.link.ideBad = []) && decide (s.dev.boot.st ≠ .ready) && decide (s.dev.boot.st ≠ .failed)) (9) (.vfEnableSet) (P05.cj))) = true := by decide +kernel
theorem witness_IdeAndAtomics :
    (((fun (k : Fin 4) (vfs : List (Fin 17)) (ranges : List (Nat × Nat)) (s : State) => decide (s.rests = true) && decide (s.dev.link.st = .up)) (3) ([16, 2]) ([(0x1000, 0x1FFF)]) (upl)) &&
     ((fun (k : Fin 4) (h : List Byte) (rs : List (Nat × Nat)) (s : State) => decide (s.rests = true) && decide (s.dev.link.st = .up) && decide (smGet none s.dev.link.ide k = some ⟨[0], rs⟩) && decide (s.dev.link.ideBad.contains k.val = false) && decide (s.dev.attachMode ≠ 1)) (1) ([1, 2]) ([]) (P06.ul)) &&
     ((fun (q : AtomicReq) (k : Nat) (s : State) => decide (s.rests = true) && decide (s.dev.hostHere q.fn = true) && decide (q.fn ≠ 0) && decide (q.bar = 0) && decide (q.size = 8) && decide (q.off % 8 = 0) && decide (0x4000 ≤ q.off) && decide (q.off < 0x6000) && decide (s.dev.sparAt (q.fn - 1) q.off = some k) && decide ((s.dev.bay (q.fn - 1)).st ≠ .draining) && decide ((s.dev.bay (q.fn - 1)).st ≠ .faulted) && decide ((s.dev.spar k).armed = false) && decide ((s.dev.spar k).mirror = false) && decide (s.dev.courses = [])) (P06.at1) (9) (P06.bs))) = true := by decide +kernel
theorem witness_PartnerAndCompletions :
    (((fun (v : Violation) (s : State) => decide (s.rests = true) && decide (s.dev.link.st = .up) && decide (v.kind ∈ [1, 3, 4, 7, 0xB, 0xC]) && decide (s.dev.attachMode ≠ 1) && decide (s.dev.unmasked 0 2 = false)) ({ kind := 0xC, rid := 9, tag := 5, nonPosted := true, header := [3] }) (upl)) &&
     ((fun (tag : Nat) (data : List Byte) (r : HostReq) (s : State) => decide (s.rests = true) && decide (s.dev.link.st = .up) && decide (s.dev.link.ideBad = []) && decide (s.dev.link.reqs.find? (·.tag == tag) = some r) && decide (r.stale = false) && decide (r.dead = false)) (6) ([1]) (P06.hr) (P06.rq false 9)) &&
     ((fun (tag : Nat) (data : List Byte) (r : HostReq) (s : State) => decide (s.rests = true) && decide (s.dev.link.ideBad = []) && decide (s.dev.link.reqs.find? (·.tag == tag) = some r) && decide (r.stale = true) && decide (s.dev.od 0x2200 0x15 + 1 < 2 ^ 32)) (6) ([1]) ({ P06.hr with stale := true }) (P06.rq true 9)) &&
     ((fun (tag : Nat) (r : HostReq) (s : State) => decide (s.rests = true) && decide (s.dev.link.reqs.find? (·.tag == tag) = some r) && decide (r.stale = false) && decide (r.dead = false) && decide (r.time + 16000000 ≤ s.time) && decide (s.dev.attachMode ≠ 1)) (6) (P06.hr) (P06.rq false 16000000))) = true := by decide +kernel
theorem witness_PagesAndSkylights :
    (((fun (n : Fin 16) (q : Fin 8) (v : W32) (s : State) => decide (s.rests = true) && decide (s.dev.hostHere (n + 1) = true) && decide (s.dev.noFence (n + 1) = true) && decide ((s.dev.bay n).st.live = true) && decide ((s.dev.queue n q).st ≠ .disabled) && decide (((s.dev.queue n q).p - (s.dev.queue n q).fr).toNat ≤ (v - (s.dev.queue n q).fr).toNat) && decide ((v - (s.dev.queue n q).fr).toNat ≤ 2 ^ s.dev.cqK n q)) (3) (7) (4) (P06.qs)) &&
     ((fun (n : Fin 16) (q : Fin 8) (v : W32) (s : State) => decide (s.rests = true) && decide (s.dev.hostHere (n + 1) = true) && decide (s.dev.noFence (n + 1) = true) && decide ((s.dev.bay n).st.live = false) && decide (s.dev.strict n = false) && decide (s.dev.od (0x2100 + n) 0x30 + 1 < 2 ^ 32)) (2) (7) (5) (P06.qs)) &&
     ((fun (n : Fin 16) (v : W32) (s : State) => decide (s.rests = true) && decide (s.dev.hostHere (n + 1) = true) && decide (s.dev.noFence (n + 1) = true)) (3) (5) (P06.bs)) &&
     ((fun (n : Fin 16) (v : W32) (s : State) => decide (s.rests = true) && decide (s.dev.hostHere (n + 1) = true) && decide (s.dev.noFence (n + 1) = false)) (3) (6) (P06.fz)) &&
     ((fun (n : Fin 16) (v : W32) (t0 : Nat) (s : State) => decide (s.rests = true) && decide ((s.dev.page n).fences = [(v, t0)]) && decide ((s.dev.page n).held = []) && decide ((s.dev.page n).reads = [])) (3) (5) (100) (P06.fz)) &&
     ((fun (n : Fin 16) (tag : Nat) (s : State) => decide (s.rests = true) && decide (s.dev.hostHere (n + 1) = true) && decide ((s.dev.page n).fences = []) && decide ((s.dev.page n).reads = [])) (3) (8) (P06.bs)) &&
     ((fun (n : Fin 16) (i : Fin 16) (bs : List Byte) (s : State) => decide (s.rests = true) && decide (s.dev.hostHere (n + 1) = true) && decide (s.dev.noFence (n + 1) = true) && decide (bs.length = 64) && decide (fld bs 2 1 = 0) && decide (fld bs 3 1 ≤ 56) && decide ((s.dev.bay n).st.awake = true) && decide (smGet .empty (s.dev.page n).inSt i = .empty) && decide (s.dev.od (0x2990 + n) 1 = 0xFFFF)) (3) (15) (P06.post) (P06.bs)) &&
     ((fun (n : Fin 16) (v : W32) (s : State) => decide (s.rests = true) && decide (s.dev.hostHere (n + 1) = true) && decide (s.dev.noFence (n + 1) = true) && decide ((∀ i ∈ List.range 16, bit v.toNat i = true → (s.dev.page n).outFull.contains i = true))) (3) (0x8001) (P06.ak)) &&
     ((fun (f : Fin 17) (tag : Nat) (s : State) => decide (s.rests = true) && decide (s.dev.hostHere f = true)) (0) (3) (P06.bs)) &&
     ((fun (f : Fin 17) (tag : Nat) (h : Nat) (s : State) => decide (s.rests = true) && decide (s.dev.hostHere f = true) && decide (smGet none s.dev.shadows f = some (0x10, h))) (16) (3) (9) (P06.lh 16 9)) &&
     ((fun (f : Fin 17) (bs : List Byte) (s : State) => decide (s.rests = true) && decide (s.dev.hostHere f = true) && decide (s.dev.noFence f = true) && decide (bs.length = 4) && decide (s.dev.srv.reqs.any (·.row) = false)) (4) ([1, 2, 3, 4]) (P06.bs)) &&
     ((fun (n : Fin 16) (off : Nat) (a : Nat) (bs : List Byte) (s : State) => decide (s.homeFree (a / 64) = true) && decide (s.dev.hostHere (n + 1) = true) && decide (s.dev.noFence (n + 1) = true) && decide (bs ≠ []) && decide (a % 64 + bs.length ≤ 64) && decide (s.dev.skyAt n off bs.length true = .lpa a)) (3) (0x10) (0x10000010) ([1, 2, 3, 4]) (P06.sk)) &&
     ((fun (n : Fin 16) (off : Nat) (len : Nat) (tag : Nat) (a : Nat) (s : State) => decide (s.homeFree (a / 64) = true) && decide (s.dev.hostHere (n + 1) = true) && decide (0 < len) && decide (a % 64 + len ≤ 64) && decide (s.dev.skyAt n off len false = .lpa a) && decide (s.poison.contains (a / 64) = false)) (3) (0x10) (4) (99) (0x10000010) (P06.sk2))) = true := by decide +kernel
theorem witness_SparWindow :
    (((fun (n : Fin 16) (j : Fin 1024) (v : W64) (k : Nat) (s : State) => decide (s.rests = true) && decide (s.dev.hostHere (n + 1) = true) && decide (s.dev.noFence (n + 1) = true) && decide (s.dev.sparAt n (0x4000 + 8 * j) = some k) && decide ((s.dev.bay n).st ≠ .draining) && decide ((s.dev.bay n).st ≠ .faulted) && decide (s.dev.courses = []) && decide ((s.dev.spar k).firing = false) && decide ((s.dev.spar k).mirror = false)) (3) (1) (9) (9) (P06.bs)) &&
     ((fun (k : Fin 4096) (n : Nat) (s : State) => decide (s.rests = true) && decide ((s.dev.spar k).firing = true) && decide (s.dev.sparBay k = some n) && decide ((s.dev.spar k).route = 3) && decide ((s.dev.bay n).st ≠ .draining) && decide ((s.dev.bay n).st ≠ .faulted) && decide ((s.dev.spar k).value.toNat < (s.dev.spar k).thresh.toNat)) (9) (3) (P06.fi))) = true := by decide +kernel
theorem witness_RidgeReadsAndWrites :
    (((fun (c : Instr) (a : Fin 33) (line : Nat) (tn : Nat) (w : Nat) (s : State) => decide (c = .rdShared a line true tn ∨ c = .rdOwn a line true tn ∨ c = .upgrade a line true tn) && decide (s.homeFree line = true) && decide (a.val < 16) && decide (tn ≠ goneTn) && decide (s.dev.dirVictim line 0xFF = some (w, none)) && decide (s.thawed line = true)) (.upgrade 15 P07.L true 4) (15) (P07.L) (4) (0) (P07.m0)) &&
     ((fun (isl : Fin 350) (line : Nat) (tn : Nat) (mask : W64) (s : State) => decide (s.homeFree line = true) && decide (isl.val < 348) && decide (isl.val ≠ 326) && decide (¬ (332 ≤ isl.val ∧ isl.val < 344)) && decide (tn ≠ goneTn)) (300) (P07.L) (5) (0xFF) (P07.m0)) &&
     ((fun (k : Fin 16) (off : Nat) (tag : Nat) (l : Nat) (s : State) => decide (s.homeFree l = true) && decide (s.dev.hdmLine k off = some l) && decide ((s.dev.bay k).st.live = true) && decide (s.dev.link.st = .up) && decide (tag ≠ goneTn)) (3) (0) (9) (P07.L) (P07.h0)) &&
     ((fun (c : Instr) (k : Fin 16) (off : Nat) (tag : Nat) (l : Nat) (w : Nat) (s : State) => decide (c = .memRd k off 0 tag ∨ c = .memRd k off 1 tag ∨ c = .memRdData k off tag) && decide (s.homeFree l = true) && decide (s.dev.hdmLine k off = some l) && decide ((s.dev.bay k).st.live = true) && decide (s.dev.link.st = .up) && decide (tag ≠ goneTn) && decide (s.dev.dirVictim l 0xFF = some (w, none)) && decide (s.thawed l = true)) (.memRdData 3 0 9) (3) (0) (9) (P07.L) (0) (P07.h0)) &&
     ((fun (k : Fin 16) (off : Nat) (tag : Nat) (l : Nat) (mv : Fin 3) (s : State) => decide (s.rests = true) && decide (s.dev.hdmLine k off = some l) && decide ((s.dev.bay k).st.live = false) && decide (s.dev.link.st = .up) && decide (s.dev.od 0x2200 0x13 + 1 < 2 ^ 32)) (3) (0) (9) (P07.L) (1) (P07.h1)) &&
     ((fun (isl : Fin 350) (line : Nat) (tn : Nat) (mask : W64) (data : List Byte) (s : State) => decide (s.homeFree line = true) && decide (isl.val < 348) && decide (isl.val ≠ 326) && decide (¬ (332 ≤ isl.val ∧ isl.val < 344)) && decide (tn ≠ goneTn) && decide (s.thawed line = true)) (300) (P07.L) (5) (3) ([1, 2, 3]) (P07.m0)) &&
     ((fun (isl : Fin 350) (line : Nat) (tn : Nat) (op : Fin 10) (off : Nat) (size : Nat) (operand : Nat) (compare : Nat) (ret : Bool) (s : State) => decide (s.homeFree line = true) && decide (isl.val < 348) && decide (isl.val ≠ 326) && decide (¬ (332 ≤ isl.val ∧ isl.val < 344)) && decide (tn ≠ goneTn) && decide (s.dev.atomicBad line op off size ret = none) && decide (s.poison.contains line = false) && decide (s.thawed line = true)) (300) (P07.L) (5) (0) (56) (8) (1) (0) (true) (P07.m0)) &&
     ((fun (a : Fin 33) (line : Nat) (tn : Nat) (data : List Byte) (poison : Bool) (x : Dir) (s : State) => decide (s.rests = true) && decide (homed line = true) && decide (a.val < 16) && decide ((s.dev.island (272 + sliceOf line)).st = .active) && decide (s.dev.ridge.txns = []) && decide (s.dev.ridge.waiting = []) && decide (s.dev.arrays = []) && decide (s.dev.dir line = some x) && decide (x.kind = .x) && decide (x.owner = a.val) && decide (tn ≠ goneTn)) (15) (P07.L) (4) ([1, 2, 3]) (true) (P07.dx 15) (P07.x1 15)) &&
     ((fun (c : Instr) (k : Fin 16) (off : Nat) (tag : Nat) (l : Nat) (mv : Fin 3) (mask : W64) (data : List Byte) (s : State) => decide (c = .memWrPtl k off mv mask data tag ∨ (c = .memWr k off mv data tag ∧ mask = BitVec.allOnes 64)) && decide (mv ≠ 2) && decide (s.homeFree l = true) && decide (s.dev.hdmLine k off = some l) && decide ((s.dev.bay k).st.live = true) && decide (s.dev.link.st = .up) && decide (tag ≠ goneTn) && decide (s.thawed l = true)) (.memWrPtl 3 0 1 2 [1, 2, 3] 5) (3) (0) (5) (P07.L) (1) (2) ([1, 2, 3]) (P07.h0)) &&
     ((fun (k : Fin 16) (off : Nat) (tag : Nat) (l : Nat) (x : Dir) (data : List Byte) (s : State) => decide (s.rests = true) && decide (homed l = true) && decide ((s.dev.island (272 + sliceOf l)).st = .active) && decide (s.dev.ridge.txns = []) && decide (s.dev.ridge.waiting = []) && decide (s.dev.arrays = []) && decide (s.dev.dir l = some x) && decide (x.kind = .x) && decide (x.owner = 16) && decide (s.dev.hdmLine k off = some l) && decide ((s.dev.bay k).st.live = true) && decide (s.dev.link.st = .up) && decide (tag ≠ goneTn)) (3) (0) (5) (P07.L) (P07.dx 16) ([1, 2, 3]) (P07.h2))) = true := by decide +kernel
theorem witness_RidgeSnoopsAndAgents_3 :
    (fun (a : Fin 33) (line : Nat) (x : Dir) (t0 : Txn) (s : State) => (decide (s.rests = true) && decide (homed line = true) && decide (s.dev.ridge.txns = [t0]) && decide (s.dev.ridge.waiting = []) && decide (17 ≤ a.val) && decide (s.dev.dir line = some x) && decide (x.kind = .x) && decide (x.owner = a.val) && decide (s.dev.lineBay line = none) && decide (t0.time + s.dev.od 0x2400 9 * 1000 ≤ s.time) && decide (s.dev.od 0x2400 0xA + 1 < 2 ^ 32) && decide (s.dev.od 0x2400 0xB + 1 < 2 ^ 32)) = true ∧ (t0.readsFor line a x)) (17) (P07.L) (P07.dx 17) (P07.t2 17) (P07.x4) :=
  ⟨by decide +kernel, by unfold Txn.readsFor; decide +kernel⟩
theorem witness_RidgeSnoopsAndAgents :
    ((((fun (a : Fin 33) (b : Fin 33) (line : Nat) (tn : Nat) (x : Dir) (s : State) => decide (s.rests = true) && decide (homed line = true) && decide ((s.dev.island (272 + sliceOf line)).st = .active) && decide (s.dev.ridge.txns = []) && decide (s.dev.ridge.waiting = []) && decide (s.dev.arrays = []) && decide (s.dev.dir line = some x) && decide (x.kind = .x) && decide (x.owner = b.val) && decide (a.val < 16) && decide (b.val < 16) && decide (a ≠ b) && decide (s.thawed line = true) && decide (tn ≠ goneTn)) (2) (15) (P07.L) (4) (P07.dx 15) (P07.x1 15)) && ((fun (a : Fin 33) (b : Fin 33) (line : Nat) (tn : Nat) (x : Dir) (s : State) => decide (s.rests = true) && decide (homed line = true) && decide ((s.dev.island (272 + sliceOf line)).st = .active) && decide (s.dev.ridge.txns = []) && decide (s.dev.ridge.waiting = []) && decide (s.dev.arrays = []) && decide (s.dev.dir line = some x) && decide (x.kind = .x) && decide (x.owner = b.val) && decide (a.val < 16) && decide (b.val < 16) && decide (a ≠ b) && decide (s.thawed line = true) && decide (tn ≠ goneTn)) (2) (15) (P07.L) (4) (P07.dx 15) (P07.x1r))) &&
     ((fun (a : Fin 33) (b : Fin 33) (line : Nat) (x : Dir) (t0 : Txn) (s : State) => decide (s.rests = true) && decide (homed line = true) && decide ((s.dev.island (272 + sliceOf line)).st = .active) && decide (s.dev.ridge.txns = [t0]) && decide (s.dev.ridge.waiting = []) && decide (s.dev.dir line = some x) && decide (a.val < 16) && decide (b.val < 16) && decide (t0 = { line := line, req := { op := .rdOwn, a := a, tn := t0.req.tn, time := t0.req.time }, snp := 2, entry := some x, time := t0.time, wait := [b.val] }) && decide (t0.req.tn ≠ goneTn)) (2) (15) (P07.L) (P07.dx 15) (P07.t1) (P07.x2)) &&
     ((fun (a : Fin 33) (line : Nat) (t0 : Txn) (s : State) => decide (s.rests = true) && decide (s.dev.ridge.txns = [t0]) && decide (s.dev.ridge.waiting = []) && decide (t0.line = line) && decide (t0.granted = true) && decide (t0.req.op.caching = true) && decide (t0.req.a = a.val)) (2) (P07.L) ({ P07.t1 with granted := true, wait := [] }) (P07.x3)) &&
     (((fun (c : Fin 17) (line : Nat) (tn : Nat) (s : State) => decide (s.rests = true) && decide (c.val < 16) && decide (s.dev.cacheable line = true)) (15) (P07.L) (3) (P07.cl .m)) && ((fun (c : Fin 17) (line : Nat) (tn : Nat) (s : State) => decide (s.rests = true) && decide (c.val < 16) && decide (s.dev.cacheable line = true)) (15) (P07.L) (3) (P07.cl .s))) &&
     ((fun (c : Fin 17) (line : Nat) (s : State) => decide (s.rests = true) && decide (c.val < 16) && decide ((s.dev.l2 c line).wb = true)) (15) (P07.L) (P07.wb)) &&
     ((fun (isl : Fin 350) (line : Nat) (tn : Nat) (s : State) => decide (s.rests = true) && decide (256 ≤ isl.val) && decide (isl.val < 272) && decide (homed line = true)) (271) (P07.L) (0) (P07.cl .s)) &&
     ((fun (isl : Fin 350) (line : Nat) (tn : Nat) (data : List Byte) (st : Fin 5) (p : Bool) (s : State) => decide (s.rests = true) && decide (256 ≤ isl.val) && decide (isl.val < 272) && decide (st.val = 1 ∨ st.val = 2 ∨ st.val = 4) && decide (homed line = true)) (271) (P07.L) (0) ([7]) (4) (true) (P07.m0)) &&
     ((fun (isl : Fin 350) (line : Nat) (tn : Nat) (s : State) => decide (s.rests = true) && decide (homed line = true ∨ hostKey 0 ≤ line ∨ (remoteLine? line).isSome = true)) (300) (P07.L) (5) (P07.m0)) &&
     ((fun (isl : Fin 350) (line : Nat) (tn : Nat) (r : Resend) (s : State) => decide (s.rests = true) && decide (s.dev.ridge.away = []) && decide (s.dev.ridge.l2out = []) && decide (r.at_ ≤ s.time) && decide ((s.dev.ridge.resends.find? fun r => r.isl == isl.val && r.line == line && r.tn == tn) = some r)) (300) (P07.L) (5) (⟨300, P07.L, 5, 10⟩) (P07.rs)) &&
     ((fun (isl : Fin 350) (line : Nat) (tn : Nat) (s : State) => decide (s.rests = true) && decide (s.dev.ridge.away = []) && decide (s.dev.ridge.abandoned = []) && decide (s.dev.ridge.l2out = [])) (300) (P07.L) (5) (P07.m0)) &&
     ((fun (s : State) => decide (s.rests = true) && decide (s.dev.ridge.cellBusy = true) && decide (s.dev.ridge.txns = []) && decide (s.dev.ridge.waiting = []) && decide (s.dev.ridge.remote = []) && decide (s.dev.ridge.l2out = [])) (P07.cb))) = true := by decide +kernel
theorem witness_HostCoherence_2 :
    (fun (line : Nat) (st : Fin 5) (data : Option (List Byte)) (x : Dir) (t0 : Txn) (s : State) => (decide (s.rests = true) && decide (homed line = true) && decide ((s.dev.island (272 + sliceOf line)).st = .active) && decide (s.dev.ridge.txns = [t0]) && decide (s.dev.ridge.waiting = []) && decide (s.dev.ridge.lateAns.contains (line, 16) = false) && decide (s.dev.dir line = some x) && decide (x.kind = .x) && decide (x.owner = 16)) = true ∧ (t0.readsFor line 16 x)) (P07.L) (0) (some [7]) (P07.dx 16) (P07.t2 16) (P07.x5) :=
  ⟨by decide +kernel, by unfold Txn.readsFor; decide +kernel⟩
theorem witness_HostCoherence_4 :
    (fun (line : Nat) (x : Dir) (t0 : Txn) (s : State) => (decide (s.rests = true) && decide (homed line = true) && decide (s.dev.ridge.txns = [t0]) && decide (s.dev.ridge.waiting = []) && decide (s.dev.dir line = some x) && decide (x.kind = .x) && decide (x.owner = 16) && decide (t0.time + s.dev.od 0x2400 9 * 1000 ≤ s.time) && decide (s.dev.od 0x2402 5 + 1 < 2 ^ 32) && decide (s.dev.attachMode ≠ 1)) = true ∧ (t0.readsFor line 16 x) ∧ ((∀ n, s.dev.lineBay line = some n → s.dev.strict n = false ∧ s.dev.bayEvt n = false))) (P07.L) (P07.dx 16) (P07.t2 16) (P07.x5) :=
  ⟨by decide +kernel, by unfold Txn.readsFor; decide +kernel, fun n h => absurd (h.symm.trans (show P07.x5.dev.lineBay P07.L = none by decide +kernel)) nofun⟩
theorem witness_HostCoherence :
    ((((fun (hpa : Nat) (s : State) => decide (s.rests = true) && decide (s.dev.link.st = .up) && decide (bit s.dev.link.cxl 1 = true) && decide (s.dev.od 0x2402 6 + 1 < 2 ^ 32)) (320) (P07.pl .m)) && ((fun (hpa : Nat) (s : State) => decide (s.rests = true) && decide (s.dev.link.st = .up) && decide (bit s.dev.link.cxl 1 = true) && decide (s.dev.od 0x2402 6 + 1 < 2 ^ 32)) (320) (P07.pls))) &&
     ((fun (hpa : Nat) (st : Fin 5) (data : List Byte) (s : State) => decide (s.rests = true) && decide (bit s.dev.link.cxl 1 = false)) (320) (0) ([]) (P07.m0)) &&
     (((fun (line : Nat) (s : State) => decide (s.rests = true)) (P07.L) (P07.x5)) && ((fun (line : Nat) (s : State) => decide (s.rests = true)) (P07.L + 1) (P07.x5))) &&
     (((fun (hpa : Nat) (st : Fin 5) (data : List Byte) (s : State) => decide (s.rests = true) && decide (bit s.dev.link.cxl 1 = true) && decide ((∀ w ∈ s.dev.ridge.proxyWait, w.1 ≠ hpa / 64))) (320) (0) ([]) (P07.pw)) && ((fun (hpa : Nat) (st : Fin 5) (data : List Byte) (s : State) => decide (s.rests = true) && decide (bit s.dev.link.cxl 1 = true) && decide ((∀ w ∈ s.dev.ridge.proxyWait, w.1 ≠ hpa / 64))) (320) (0) ([]) (P07.pl .m))) &&
     (((fun (hpa : Nat) (c : Fin 16) (st : Fin 5) (data : List Byte) (q : HomeReq) (s : State) => decide (s.rests = true) && decide (bit s.dev.link.cxl 1 = true) && decide ((∀ y ∈ s.dev.ridge.proxy, y.1 % 8192 ≠ hpa / 64 % 8192)) && decide (s.dev.ridge.proxyWait = [(hpa / 64, q)]) && decide (q.op = .rdShared) && decide (q.a = c.val) && decide (q.who = none) && decide (q.self = false) && decide (q.tn ≠ goneTn)) (320) (15) (2) ([8]) (P07.qg) (P07.pg)) && ((fun (hpa : Nat) (c : Fin 16) (st : Fin 5) (data : List Byte) (q : HomeReq) (s : State) => decide (s.rests = true) && decide (bit s.dev.link.cxl 1 = true) && decide ((∀ y ∈ s.dev.ridge.proxy, y.1 % 8192 ≠ hpa / 64 % 8192)) && decide (s.dev.ridge.proxyWait = [(hpa / 64, q)]) && decide (q.op = .rdShared) && decide (q.a = c.val) && decide (q.who = none) && decide (q.self = false) && decide (q.tn ≠ goneTn)) (320) (15) (1) ([8]) (P07.qg) (P07.pg)))) = true := by decide +kernel
theorem witness_LathWalksAndRequests :
    (((fun (k : Walk) (s : State) => decide (s.dev.trans.walks = [k]) && decide (k.level ≤ 2) && decide (k.leaf = none) && decide (k.table % 4096 = 0) && decide (s.homeFree ((k.table + walkIdx k.dva k.level * 8) / 64) = true) && decide (s.poison.contains ((k.table + walkIdx k.dva k.level * 8) / 64) = false) && decide (s.dev.trans.tlb = []) && decide (bit (s.dev.od (0x2310 + k.bay) 9) 0 = true) && (let v := s.walkEntry k; decide (bit v 0 = true) && decide (bit v 1 = true) && decide (lathBad v k.level = false) && decide (bit v 7 = false) && decide (bits v 5 4 = 0) && decide (bit v (if k.write then 3 else 2) = true))) (P08.wk) (P08.wS)) &&
     ((fun (k : Walk) (n : Nat) (s : State) => decide (s.rests = true) && decide (s.dev.trans.walks = [k]) && decide (k.level = 4) && decide (k.leaf = none) && decide (k.who = .sink n) && decide (k.bay = n) && decide (n < 16) && decide (bit (s.dev.od (0x2310 + n) (k.space + 1)) 0 = false) && decide (s.dev.od (0x2310 + n) 0xC + 1 < 2 ^ 32) && decide (s.dev.bayEvt n = false)) ({ P08.wk with level := 4 }) (3) (P08.wF)) &&
     ((fun (tag : Nat) (hpa : Nat) (log : Nat) (q : TReq) (s : State) => decide (s.rests = true) && decide (s.dev.trans.treqs = [q]) && decide (q.tag = tag) && decide (q.gone = false) && decide (q.dead = false) && decide (q.stale = false) && decide (12 ≤ log) && decide (q.log ≤ log) && decide (s.dev.trans.tlb = []) && decide (bit (s.dev.od (0x2310 + q.walk.bay) 9) 0 = true) && decide (q.r = true) && decide (q.w = true) && decide (s.dev.link.ideBad = [])) (9) (0x77000) (13) (P08.tq) (P08.tS)) &&
     ((fun (n : Fin 16) (itag : Nat) (base : Nat) (size : Nat) (s : State) => decide (s.rests = true) && decide (s.dev.link.st = .up) && decide (s.dev.link.ideBad = []) && decide (s.dev.od 0x2300 6 + 1 < 2 ^ 32)) (3) (7) (0x5000) (0x1000) (P08.iS)) &&
     ((fun (n : Fin 16) (itag : Nat) (i : Inval) (s : State) => decide (s.rests = true) && decide (s.dev.link.st = .up) && decide (s.dev.link.ideBad = []) && decide ((s.dev.trans.invals.find? fun i => i.bay == n.val && i.ats && i.itag == itag) = some i) && decide (s.dev.invalDone i = true)) (3) (7) (P08.i1) (P08.iC)) &&
     ((fun (n : Fin 16) (i : Inval) (s : State) => decide (s.rests = true) && decide ((s.dev.trans.invals.find? fun i => i.bay == n.val && !i.ats) = some i) && decide (s.dev.invalDone i = true) && decide (i.cmd = none) && decide (s.dev.od (0x2310 + n) 0xB + 1 < 2 ^ 32)) (3) (P08.i2) (P08.iC)) &&
     ((fun (n : Fin 16) (i : Inval) (s : State) => decide (s.rests = true) && decide ((s.dev.trans.invals.find? fun i => i.bay == n.val && !i.ats) = some i) && decide (s.dev.invalDone i = false)) (3) ({ P08.i2 with tags := [5] }) (P08.i3)) &&
     ((fun (idx : Nat) (c : Nat) (pasid : Option (BitVec 20)) (g : Prg) (h : Halt) (s : State) => decide (s.rests = true) && decide (s.dev.link.st = .up) && decide (s.dev.link.ideBad = []) && decide (s.dev.trans.prgs = [g]) && decide (g.idx = idx) && decide (g.ended = false) && decide (g.gone = false) && decide (g.pasid = pasid.map (·.toNat)) && decide (s.dev.unmasked (g.bay + 1) 5 = false) && decide (s.dev.bayEvt g.bay = false) && decide (s.dev.trans.halts = [h]) && decide (h.cause = 2) && decide (h.who = .gutter c) && decide (g.who = [.gutter c]) && decide (h.bay = g.bay) && decide (h.space = g.space) && decide (h.page = g.page) && decide ((s.dev.gutter c).st = .halted)) (100) (2) (none) (P08.g) (⟨.gutter 2, 3, 2, 0x5008, 1, true, 0x5000, 9⟩) (P08.pS)) &&
     ((fun (idx : Nat) (pasid : Option (BitVec 20)) (g : Prg) (s : State) => decide (s.rests = true) && decide (s.dev.link.st = .up) && decide (s.dev.link.ideBad = []) && decide (s.dev.trans.prgs = [g]) && decide (g.idx = idx) && decide (g.ended = false) && decide (g.gone = false) && decide (g.pasid = pasid.map (·.toNat)) && decide (s.dev.trans.halts = []) && decide (s.dev.bayEvt g.bay = false) && decide (g.bay < 16) && decide (s.dev.od (0x2330 + g.bay) 7 + 1 < 2 ^ 32)) (100) (none) (P08.g) (P08.pI)) &&
     ((fun (tag : Nat) (s : State) => decide (s.rests = true) && decide (s.dev.cfgHere = true) && decide (s.dev.link.ideBad = []) && decide (s.dev.link.deferred = []) && decide (s.dev.trans.halts = [])) (9) (P08.pF)) &&
     ((fun (idx : Nat) (g : Prg) (s : State) => decide (s.rests = true) && decide (s.dev.trans.prgs = [g]) && decide (g.idx = idx) && decide (g.ended = false) && decide (g.gone = false) && decide (g.deadline ≠ 0) && decide (g.deadline ≤ s.time) && decide (s.dev.trans.halts = []) && decide (g.bay < 16) && decide (s.dev.strict g.bay = false) && decide (s.dev.bayEvt g.bay = false) && decide (s.dev.attachMode ≠ 1)) (100) (P08.g) (P08.pI))) = true := by decide +kernel
theorem witness_FetchAndStart :
    (((fun (n : Fin 16) (q : Nat) (bs : List Byte) (tr : Trans) (s : State) => decide (s.rests = true) && decide (s.dev.noPrep = true) && decide (s.dev.pickQueue n = some q) && (let d := s.dev.setBay n { s.dev.bay n with lastQueue := q }; let x := s.dev.queue n q; decide (x.p = x.fe + 1) && decide (((s.dev.bay n).st = .idle → s.dev.attachMode ≠ 1)) && decide (bs[0]? ≠ some 0x11) && decide (bs[0]? ≠ some 0x12) && decide (d.readRange s.env (.queue (8 * n + q)) n (s.dev.cqSpace n q) (s.dev.od (0x2680 + n) (0x10 * q + 1) + x.fe.toNat % 2 ^ s.dev.cqK n q * 64) 64 = (.got bs false, { d with trans := tr })))) (3) (5) (zeros 64) (P09.fT) (P09.fS)) &&
     (((fun (n : Fin 16) (q : Fin 8) (p : W32) (op : Nat) (c : Cmd) (s : State) => decide (s.stands n q p op .fetched c = true) && decide (s.dev.noPrep = true) && decide ((s.dev.queue n q).st = .active) && decide ((s.dev.bay n).st.live = true) && decide (s.dev.cmdBad n c = none) && decide (s.dev.od (0x2680 + n) 0x79 + 1 < 2 ^ 64)) (3) (5) (7) (0) (cm 0 .fetched []) (P09.nS .fetched)) && ((fun (n : Fin 16) (q : Fin 8) (p : W32) (op : Nat) (c : Cmd) (s : State) => decide (s.stands n q p op .fetched c = true) && decide (s.dev.noPrep = true) && decide ((s.dev.queue n q).st = .active) && decide ((s.dev.bay n).st.live = true) && decide (s.dev.cmdBad n c = none) && decide (s.dev.od (0x2680 + n) 0x79 + 1 < 2 ^ 64)) (3) (5) (7) (0x11) (cm 0x11 .fetched P09.cof) (P09.coP)))) = true := by decide +kernel
theorem witness_ControlAndSignal_1 :
    (fun (n : Fin 16) (q : Fin 8) (p : W32) (c : Cmd) (s : State) => (decide (s.stands n q p 1 .started c = true) && decide (c.flag 0 = false) && decide ((s.dev.page n).held = []) && decide ((s.dev.page n).fences = []) && decide ((s.dev.page n).sky = [])) = true ∧ (∀ k, k ≠ q.val → (s.dev.queue n k).cmds = [])) (3) (5) (7) (cm 1 .started []) (P09.oS 1 .started []) :=
  ⟨by decide +kernel, fun k h => by
    show (smGet ({} : Queue) [(29, _)] (8 * 3 + k)).cmds = []
    simp only [smGet]; split
    · exact absurd (show k = 5 by omega) h
    · rfl⟩
theorem witness_ControlAndSignal :
    (((fun (n : Fin 16) (q : Fin 8) (p : W32) (c : Cmd) (s : State) => decide (s.stands n q p 0 .started c = true) && decide (c.flag 0 = false)) (3) (5) (7) (cm 0 .started []) (P09.nS .started)) &&
     ((fun (n : Fin 16) (q : Fin 8) (p : W32) (c : Cmd) (s : State) => decide (s.stands n q p 1 .running c = true) && decide (c.flag 0 = false) && decide ((s.dev.page n).held = []) && decide ((s.dev.page n).fences = []) && decide ((s.dev.page n).sky = []) && decide ((∀ k ∈ c.snap, ((s.dev.queue n k.1).cmds.any fun x => x.pos.toNat == k.2) = false))) (3) (5) (7) (cm 1 .running []) (P09.oS 1 .running [])) &&
     (((fun (n : Fin 16) (q : Fin 8) (p : W32) (c : Cmd) (s : State) => decide (s.stands n q p 2 .started c = true) && decide (c.flag 0 = false)) (3) (5) (7) (cm 2 .started P09.wf) (P09.w1)) && ((fun (n : Fin 16) (q : Fin 8) (p : W32) (c : Cmd) (s : State) => decide (s.stands n q p 2 .started c = true) && decide (c.flag 0 = false)) (3) (5) (7) (cm 2 .started P09.wf) (P09.spv P09.w1))) &&
     ((fun (n : Fin 16) (q : Fin 8) (p : W32) (c : Cmd) (s : State) => decide (s.stands n q p 2 .running c = true) && decide (c.flag 0 = false) && decide (c.f 0x10 8 ≤ (s.dev.spar (c.f 8 2)).value.toNat)) (3) (5) (7) (cm 2 .running P09.wf) (P09.spv (P09.oS 2 .running P09.wf))) &&
     ((fun (n : Fin 16) (q : Fin 8) (p : W32) (c : Cmd) (x : Nat) (s : State) => decide (s.stands n q p 2 .running c = true) && decide (c.deadline = some x) && decide (x ≤ s.time) && decide ((s.dev.spar (c.f 8 2)).value.toNat < c.f 0x10 8) && decide ((s.dev.queue n q).job = none) && decide (c.flag 3 = false) && decide (s.dev.mute (.record n) = true) && decide (s.dev.trans.buf = []) && decide (s.dev.od (0x2680 + n) 0x7A + 1 < 2 ^ 32)) (3) (5) (7) ({ cm 2 .running P09.wf with deadline := some 10 }) (10) (P09.wT)) &&
     ((fun (n : Fin 16) (q : Fin 8) (p : W32) (c : Cmd) (s : State) => decide (s.stands n q p 4 .started c = true) && decide (c.flag 0 = false)) (3) (5) (7) (cm 4 .started []) (P09.oS 4 .started [])) &&
     ((fun (n : Fin 16) (q : Fin 8) (p : W32) (c : Cmd) (s : State) => decide (s.stands n q p 4 .running c = true) && decide (c.flag 0 = false) && decide (s.dev.noPrep = true)) (3) (5) (7) (cm 4 .running []) (P09.oS 4 .running [])) &&
     (((fun (n : Fin 16) (q : Fin 8) (p : W32) (c : Cmd) (s : State) => decide (s.stands n q p 3 .started c = true) && decide (c.flag 0 = false) && decide (bit (c.f 0xA 2) 1 = false) && decide ((s.dev.spar (c.f 8 2)).armed = false) && decide ((s.dev.spar (c.f 8 2)).mirror = false) && decide (s.dev.courses = [])) (3) (5) (7) (cm 3 .started (P09.sg 0)) (P09.spv (P09.oS 3 .started (P09.sg 0)))) && ((fun (n : Fin 16) (q : Fin 8) (p : W32) (c : Cmd) (s : State) => decide (s.stands n q p 3 .started c = true) && decide (c.flag 0 = false) && decide (bit (c.f 0xA 2) 1 = false) && decide ((s.dev.spar (c.f 8 2)).armed = false) && decide ((s.dev.spar (c.f 8 2)).mirror = false) && decide (s.dev.courses = [])) (3) (5) (7) (cm 3 .started (P09.sg 1)) (P09.spv (P09.oS 3 .started (P09.sg 1))))) &&
     ((fun (n : Fin 16) (q : Fin 8) (p : W32) (c : Cmd) (s : State) => decide (s.stands n q p 3 .started c = true) && decide (bit (c.f 0xA 2) 1 = true)) (3) (5) (7) (cm 3 .started (P09.sg 2)) (P09.oS 3 .started (P09.sg 2))) &&
     (((fun (n : Fin 16) (q : Fin 8) (p : W32) (c : Cmd) (ph : CPh) (s : State) => decide (s.stands n q p 5 ph c = true) && decide (c.flag 0 = false) && decide (ph ≠ .fetched) && decide ((s.dev.queue n q).job.isSome = true) && decide (s.dev.od (0x2D20 + n) 1 = 0) && decide (s.dev.roomFor n 120 = true) && decide (s.dev.od (0x2C10 + n) 0xD + 1 < 2 ^ 32) && decide (s.firstRec = true)) (3) (5) (7) (cm 5 .started []) (.started) (P09.jb false (P09.oS 5 .started []))) && ((fun (n : Fin 16) (q : Fin 8) (p : W32) (c : Cmd) (ph : CPh) (s : State) => decide (s.stands n q p 5 ph c = true) && decide (c.flag 0 = false) && decide (ph ≠ .fetched) && decide ((s.dev.queue n q).job.isSome = true) && decide (s.dev.od (0x2D20 + n) 1 = 0) && decide (s.dev.roomFor n 120 = true) && decide (s.dev.od (0x2C10 + n) 0xD + 1 < 2 ^ 32) && decide (s.firstRec = true)) (3) (5) (7) (cm 5 .running []) (.running) (P09.jb true (P09.oS 5 .running []))))) = true := by decide +kernel
theorem witness_JobCommands :
    ((((fun (n : Fin 16) (q : Fin 8) (p : W32) (c : Cmd) (bs : List Byte) (tr : Trans) (s : State) => decide (s.stands n q p 6 .started c = true) && decide (c.flag 0 = false) && decide ((s.dev.queue n q).job = none) && decide ((s.dev.jour n).st = .none) && decide (c.f 0x10 8 % 32 = 0) && decide (c.f 0x10 8 < 2 ^ 57) && decide (0 < c.f 0x18 2) && decide (c.f 0x18 2 ≤ 64) && decide (isReads s (.cmd (8 * n + q) p.toNat) n c.space (c.f 0x10 8) (32 * c.f 0x18 2) bs tr) && decide (s.dev.listBad n false (opsOf bs) = none) && decide (s.dev.regions = []) && decide (((regionsOf bs).all fun r => !r.await) = true) && decide (s.dev.roomFor n 248 = true) && decide (s.dev.od (0x2680 + n) 0x7C + 1 < 2 ^ 32) && decide (s.firstRec = true)) (3) (5) (7) (cm 6 .started P09.cfs) (P09.bR.1) (P09.bR.2) (P09.bj false 6)) && ((fun (n : Fin 16) (q : Fin 8) (p : W32) (c : Cmd) (bs : List Byte) (tr : Trans) (s : State) => decide (s.stands n q p 6 .started c = true) && decide (c.flag 0 = false) && decide ((s.dev.queue n q).job = none) && decide ((s.dev.jour n).st = .none) && decide (c.f 0x10 8 % 32 = 0) && decide (c.f 0x10 8 < 2 ^ 57) && decide (0 < c.f 0x18 2) && decide (c.f 0x18 2 ≤ 64) && decide (isReads s (.cmd (8 * n + q) p.toNat) n c.space (c.f 0x10 8) (32 * c.f 0x18 2) bs tr) && decide (s.dev.listBad n false (opsOf bs) = none) && decide (s.dev.regions = []) && decide (((regionsOf bs).all fun r => !r.await) = true) && decide (s.dev.roomFor n 248 = true) && decide (s.dev.od (0x2680 + n) 0x7C + 1 < 2 ^ 32) && decide (s.firstRec = true)) (3) (5) (7) (cm 6 .started P09.cfs) (P09.bR.1) (P09.bR.2) (P09.bj true 6))) &&
     (((fun (n : Fin 16) (q : Fin 8) (p : W32) (c : Cmd) (bs : List Byte) (ob : List Byte) (r : JobRegion) (tr : Trans) (tr' : Trans) (s : State) => decide (s.stands n q p 7 .started c = true) && decide (c.flag 0 = false) && decide (c.snap = []) && decide ((s.dev.queue n q).job.isSome = true) && decide (c.f 0x10 8 % 32 = 0) && decide (c.f 0x10 8 < 2 ^ 57) && decide (0 < c.f 0x18 2) && decide (c.f 0x18 2 ≤ 64) && decide (isReads s (.cmd (8 * n + q) p.toNat) n c.space (c.f 0x10 8) (32 * c.f 0x18 2) bs tr) && decide (s.dev.listBad n true (opsOf bs) = none)) (3) (5) (7) (cm 7 .started P09.cfs) (P09.eL.1) (P09.eO.1) (((regionsOf P09.eL.1)[0]?).getD P09.r0) (P09.eL.2) (P09.eO.2) (P09.eJ true)) && ((fun (n : Fin 16) (q : Fin 8) (p : W32) (c : Cmd) (bs : List Byte) (ob : List Byte) (r : JobRegion) (tr : Trans) (tr' : Trans) (s : State) => decide (s.stands n q p 7 .started c = true) && decide (c.flag 0 = false) && decide (c.snap = []) && decide ((s.dev.queue n q).job.isSome = true) && decide (c.f 0x10 8 % 32 = 0) && decide (c.f 0x10 8 < 2 ^ 57) && decide (0 < c.f 0x18 2) && decide (c.f 0x18 2 ≤ 64) && decide (isReads s (.cmd (8 * n + q) p.toNat) n c.space (c.f 0x10 8) (32 * c.f 0x18 2) bs tr) && decide (s.dev.listBad n true (opsOf bs) = none)) (3) (5) (7) (cm 7 .started P09.cfs) (P09.eL.1) (P09.eO.1) (((regionsOf P09.eL.1)[0]?).getD P09.r0) (P09.eL.2) (P09.eO.2) (P09.eJ false)))) = true := by decide +kernel
theorem witness_StartingCommands :
    (((fun (n : Fin 16) (q : Fin 8) (p : W32) (c : Cmd) (s : State) => decide (s.stands n q p 8 .started c = true) && decide (s.dev.trans.tlb = []) && decide (s.dev.trans.micro = []) && decide (s.dev.trans.wcache = []) && decide (s.dev.trans.walks = []) && decide (s.dev.trans.treqs = []) && decide (s.dev.invalsOf n < 8) && decide (s.dev.underWay = []) && decide (s.dev.link.reqs = []) && decide (s.dev.fabric.remotes = [])) (3) (5) (7) (cm 8 .started P09.iv) (P09.iS)) &&
     ((fun (n : Fin 16) (q : Fin 8) (p : W32) (c : Cmd) (s : State) => decide (s.stands n q p 0x10 .started c = true) && decide ((s.dev.gutter (c.f 8 2)).st = .idle)) (3) (5) (7) (cm 0x10 .started P09.gf) (P09.oS 0x10 .started P09.gf)) &&
     ((fun (n : Fin 16) (q : Fin 8) (p : W32) (c : Cmd) (s : State) => decide (s.stands n q p 0x11 .started c = true) && (let x := s.dev.course (c.f 8 2); decide (x.st = .prepared) && decide (x.bay = n.val) && decide (x.q = q.val) && decide (x.p = p))) (3) (5) (7) (cm 0x11 .started P09.gf) (P09.cS)) &&
     ((fun (n : Fin 16) (q : Fin 8) (p : W32) (c : Cmd) (x : List Byte) (tr : Trans) (s : State) => decide (s.stands n q p 0x21 .started c = true) && (let g := (engineBase (c.f 8 1)).1 + c.f 9 1; decide (isReads s (.cmd (8 * n + q) p.toNat) n c.space (c.f 0x10 8) 64 x tr) && decide (s.dev.descBad n (c.f 8 1) x false false false = none) && decide ((s.dev.engine g).queue.length + (s.dev.digestsOn g).length < 32))) (3) (5) (7) (cm 0x21 .started P09.ef) (P09.eX.1) (P09.eX.2) (P09.eS)) &&
     ((fun (n : Fin 16) (q : Fin 8) (p : W32) (c : Cmd) (h : List Byte) (ops : List Byte) (args : List Byte) (tr : Trans) (tr1 : Trans) (tr2 : Trans) (s : State) => decide (s.stands n q p 0x20 .started c = true) && (let w := Who.cmd (8 * n + q) p.toNat; decide (c.f 8 2 ≠ 0xFFFF) && decide (0 < fld h 0 4) && decide (fld h 0 4 ≤ 4096) && decide (isReads s w n c.space (c.f 0x10 8) 64 h tr) && decide (isReadsAfter s tr w n c.space (c.f 0x10 8 + 64) (32 * fld h 0 4) ops tr1) && decide (isReadsAfter s tr1 w n c.space (c.f 0x18 8) 64 args tr2) && decide (progBad h ops (fun _ => none) false = none) && decide ((∀ i, i < c.f 0xA 2 → s.dev.coreFree (c.f 8 2 + i) = true)) && decide (ops.length ≤ 0x20000))) (3) (5) (7) (cm 0x20 .started P09.rf) (fit 64 [1]) (zeros 32) (zeros 64) (P09.t1) (P09.t2) (P09.t3) (P09.rS)) &&
     ((fun (n : Fin 16) (q : Fin 8) (p : W32) (c : Cmd) (base : Nat) (tr : Trans) (s : State) => decide (s.stands n q p 0x30 .started c = true) && (let a := c.f 8 2; let x := s.dev.arr a; decide (c.f 0x10 8 % 0x100000 = 0) && decide (s.dev.seatRange (.cmd (8 * n + q) p.toNat) n c.space (c.f 0x10 8) = (some (some base), { s.dev with trans := tr })) && decide (inHbm base = true) && decide ((s.dev.bay n).held.hbm.has (granule base) = true) && decide (x.st = .unshadowed ∨ x.st = .seated ∨ x.st = .retired) && decide (s.dev.arrayBusy a = false) && decide ((s.dev.strict n = true → (s.dev.queue n q).job = none)) && decide (smGet 0 s.dev.nv.seats a < 10000) && decide (s.dev.ridge.dir = []) && decide ((∀ m ∈ s.mem, ¬(0x5E80000000 + base / 64 ≤ m.1 ∧ m.1 < 0x5E80000000 + base / 64 + 16384))))) (3) (5) (7) (cm 0x30 .started P09.sf) (0x10000000) (P09.seT) (P09.seS)) &&
     ((fun (n : Fin 16) (q : Fin 8) (p : W32) (c : Cmd) (s : State) => decide (s.stands n q p 0x31 .started c = true) && (let a := c.f 8 2; let x := s.dev.arr a; let k := c.f 0xA 2; decide (c.f 0x10 8 = 0) && decide (x.st = .seated) && decide ((x.pair k).trimming = false) && decide ((s.dev.strict n = true → (s.dev.queue n q).job = none)))) (3) (5) (7) (cm 0x31 .started P09.tf) (P09.trS)) &&
     ((fun (n : Fin 16) (q : Fin 8) (p : W32) (c : Cmd) (x : List Byte) (tr : Trans) (s : State) => decide (s.stands n q p 0x12 .started c = true) && decide (s.dev.preparedFor n q p = none) && decide (c.f 0x10 1 = 1) && decide (isReads s (.cmd (8 * n + q) p.toNat) n c.space (c.f 8 8) 32 x tr) && decide (x.length = 32) && decide (stageForm 1 0 x none = none) && decide (tKind x = 2) && decide (tRes x = 0xFFFF) && decide (tObj x < 256) && decide ((s.dev.bay n).held.hasGutter (tObj x) = true) && decide ((s.dev.gutter (tObj x)).st = .idle)) (3) (5) (7) (cm 0x12 .started (P09.kf 1)) (P09.sx1) (P09.kX1.2) (P09.kS1)) &&
     ((fun (n : Fin 16) (q : Fin 8) (p : W32) (c : Cmd) (x : List Byte) (y : List Byte) (pg : List Nat) (tr : Trans) (tr1 : Trans) (s : State) => decide (s.stands n q p 0x12 .started c = true) && decide (s.dev.preparedFor n q p = none) && decide (c.f 0x10 1 = 2) && decide (isReads s (.cmd (8 * n + q) p.toNat) n c.space (c.f 8 8) 64 (x ++ y) tr) && decide (x.length = 32) && decide (y.length = 32) && decide (stageForm 2 0 x none = none) && decide (stageForm 2 1 y (some x) = none) && decide (tKind x = 2) && decide (tKind y = 2) && decide (tRes x = 0xFFFF) && decide (tRes y = 0xFFFF) && decide (tObj x < 256) && decide (tObj y < 256) && decide (tObj x ≠ tObj y) && decide (12 ≤ tLog x) && decide (tLog x ≤ 24) && decide ((s.dev.bay n).held.hasGutter (tObj x) = true) && decide ((s.dev.bay n).held.hasGutter (tObj y) = true) && decide ((s.dev.gutter (tObj x)).st = .idle) && decide ((s.dev.gutter (tObj y)).st = .idle) && decide (({ s.dev with trans := tr } : Dev).ringPages (.cmd (8 * n + q) p.toNat) n c.space (tRing x) (tLog x) true = (some (some pg), { s.dev with trans := tr1 })) && (let loads := [(bankRes (pg.headD 0), 2 * tRate x)]; decide (({ s.dev with trans := tr1 } : Dev).admits n loads = true))) (3) (5) (7) (cm 0x12 .started (P09.kf 2)) (P09.sx2) (P09.sy2) ([lo + 0x10000, lo + 0x11000]) (P09.kX2.2) (P09.kT) (P09.kS2)) &&
     ((fun (n : Fin 16) (q : Fin 8) (p : W32) (c : Cmd) (h : Chain) (a : Stage) (s : State) => decide (s.stands n q p 0x12 .started c = true) && decide (s.dev.preparedFor n q p = some h) && decide (h.stages = [a]) && decide (a.kind = 2) && decide (a.res = 0xFFFF) && decide ((s.dev.gutter a.obj).st = .idle)) (3) (5) (7) (cm 0x12 .started (P09.kf 1)) (P09.kP) ({ kind := 2, obj := 5 }) (P09.kS1.onDev fun d => { d with prepared := [P09.kP] }))) = true := by decide +kernel
theorem witness_GutterMoves_1 :
    (fun (c : Fin 256) (sb : List Byte) (tr : Trans) (tr' : Trans) (st : List MemOp) (s : State) => (decide (s.rests = true) && (let g := s.dev.gutter c; let x := g.d; let k := gDstLen x; let i1 := cdiv (8 * k) (gWd x); decide (g.st = .running) && decide (g.fetched = true) && decide (g.stage = none) && decide (g.row = 0) && decide (g.off = 0) && decide (gRows x = 1) && decide (0 < k) && decide (k ≤ 64 - gDst x % 64) && decide (gMode x = 0) && decide (gSpar x = 0xFFFF) && decide (gNext x ≠ 0) && decide (isReads s (.gutter c) g.bay g.space (gSrc x) (cdiv (i1 * gWs x) 8) sb tr) && (let s' : State := { s with dev := s.dev.drawn g.breach sb.length }; decide (isWritesAfter s' tr (.gutter c) g.bay g.space (gDst x) (gutConvert x 0 k 0 i1 (s.dev.gutterSrc g sb)) false tr' st)))) = true ∧ ((∀ r, (s.dev.arb r).proportional = false))) (2) (P10.sb.1) (P10.sb.2) (P10.wG.trans) (P10.wG.stores) (P10.gE) :=
  ⟨by decide +kernel, fun _ => rfl⟩
theorem witness_GutterMoves :
    (((fun (c : Fin 256) (x : List Byte) (tr : Trans) (s : State) => decide (s.rests = true) && (let g := s.dev.gutter c; let crc0 := if gMode x = 0 || gCont x then g.crc else 0; let g' := { g with d := x, fetched := true, row := 0, off := 0, crc0 := crc0, crc := if gMode x = 0 then g.crc else crc0 }; decide (g.st = .running) && decide (g.fetched = false) && decide (g.desc % 64 = 0) && decide (g.desc < 2 ^ 57) && decide (isReads s (.gutter c) g.bay g.space g.desc 64 x tr) && decide (s.dev.gutterCheck c g' x = none))) (2) (P10.gX.1) (P10.gX.2) (P10.gS))) = true := by decide +kernel
theorem witness_CourseMoves :
    (((fun (c : Fin 512) (bs : List Byte) (tr : Trans) (s : State) => decide (s.rests = true) && (let x := s.dev.course c; let at_ := x.entry + x.entries.length; decide (x.st = .running) && decide (x.hdr ≠ []) && decide (at_ < cCount x.hdr) && decide (x.entries.length ≤ 16) && decide (isReads s (.course c) x.bay x.space (x.list + 64 + 32 * at_) (32 * min 64 (cCount x.hdr - at_)) bs tr) && decide ((entriesOf bs).findSome? entryBad = none))) (2) (P10.cX.1) (P10.cX.2) (P10.cS)) &&
     (((fun (c : Fin 512) (s : State) => decide (s.rests = true) && (let x := s.dev.course c; decide (x.st = .running) && decide (x.stage = none) && decide (x.hdr ≠ []) && decide (x.admitted = true) && decide (cOut x.hdr = false) && decide (cCount x.hdr ≤ x.entry) && decide (cEnd x.hdr = 0xFFFF) && decide (x.pass < cPasses x.hdr) && decide (x.trigAt ≠ s.time))) (2) (P10.cP false)) && ((fun (c : Fin 512) (s : State) => decide (s.rests = true) && (let x := s.dev.course c; decide (x.st = .running) && decide (x.stage = none) && decide (x.hdr ≠ []) && decide (x.admitted = true) && decide (cOut x.hdr = false) && decide (cCount x.hdr ≤ x.entry) && decide (cEnd x.hdr = 0xFFFF) && decide (x.pass < cPasses x.hdr) && decide (x.trigAt ≠ s.time))) (2) (P10.cP true)))) = true := by decide +kernel
theorem witness_Arbiters :
    ((((fun (ppm : Nat) (s : State) => decide (s.rests = true) && decide (s.time % 1000 = 0) && decide (ppm ≤ 955000) && decide (s.dev.courses = [])) (0) (ready)) && ((fun (ppm : Nat) (s : State) => decide (s.rests = true) && decide (s.time % 1000 = 0) && decide (ppm ≤ 955000) && decide (s.dev.courses = [])) (955000) (ready))) &&
     ((fun (r : Fin 59) (s : State) => decide (s.rests = true) && decide ((s.dev.arb r).proportional = true) && decide ((s.dev.arb r).lastMiss + 1000000 ≤ s.time) && decide ((s.dev.courses.any fun c => s.dev.projectsMiss r c.2) = false)) (58) (P10.pS))) = true := by decide +kernel
theorem witness_EngineOperations :
    (((fun (g : Fin 42) (o : EngOp) (s : State) => decide (s.rests = true) && decide ((s.dev.engine g).queue = [o]) && decide ((s.dev.engine g).run = none) && decide (o.stage = none) && decide (o.bay < 16) && decide ((s.dev.engine g).reserved = false) && decide (s.dev.digestAt g = none) && decide (s.dev.chainWants g = false)) (29) (P10.eo) (P10.eS)) &&
     ((fun (g : Fin 42) (o : EngOp) (c : Cmd) (bs : List Byte) (tr : Trans) (tr' : Trans) (st : List MemOp) (s : State) => decide (s.stands o.bay o.q o.p 0x21 .running c = true) && decide (c.flag 0 = false) && decide ((s.dev.engine g).run = some o) && decide (o.stage = none) && decide (oKind o.d ≠ 2) && decide (oKind o.d ≠ 3) && decide (oKind o.d ≠ 5) && decide (oSpar o.d = 0xFFFF) && decide (isReads s (.engine g) o.bay o.space (oSrc o.d) (oSrcLen o.d) bs tr) && decide (isWritesAfter s tr (.engine g) o.bay o.space (oDst o.d) (engResult o.sum o.d bs []) false tr' st)) (29) (P10.eo) (P10.ec) (P10.eb.1) (P10.eb.2) (P10.wE.trans) (P10.wE.stores) (P10.eR))) = true := by decide +kernel
theorem witness_CoreDataAndRings :
    (((fun (c : Fin 256) (r : RunRec) (x : List Byte) (bs : List Byte) (tr : Trans) (s : State) => decide (s.atOp c r 1 x = true) && decide (isReads s (.core c) r.bay r.space (cB x) (cA x) bs tr)) (18) (P11.rr) (P11.x1) ((rd P11.s1 (.core 18) va 64).1) ((rd P11.s1 (.core 18) va 64).2) (P11.s1)) &&
     ((fun (c : Fin 256) (r : RunRec) (x : List Byte) (tr : Trans) (st : List MemOp) (s : State) => decide (s.atOp c r 2 x = true) && decide (isWritesAfter s s.dev.trans (.core c) r.bay r.space (cB x) (s.bytes (localBase c + cC x) (cA x)) false tr st)) (18) (P11.rr) (P11.x2) (P11.wS2.trans) (P11.wS2.stores) (P11.s2)) &&
     ((fun (c : Fin 256) (r : RunRec) (x : List Byte) (s : State) => decide (s.atOp c r 3 x = true)) (18) (P11.rr) (P11.x3) (P11.s3)) &&
     ((fun (c : Fin 256) (r : RunRec) (x : List Byte) (f : EltForm) (s : State) => decide (s.atOp c r 4 x = true) && decide (eltForm (cA x % 256) = some f)) (18) (P11.rr) (P11.x4') (((eltForm 0).getD { src := 4, dst := 4 })) (P11.s4)) &&
     ((fun (c : Fin 256) (r : RunRec) (x : List Byte) (s : State) => decide (s.atOp c r 5 x = true) && (let len := 16 + 16 * fld (s.bytes (localBase c + cC x) 4) 0 4; let blk := s.bytes (localBase c + cC x) len; let vs := (elems 4 (s.bytes (localBase c + cB x) (4 * cCnt x))).zipIdx.map fun v => requant (toInt 32 v.1) (rqEntry blk v.2); decide (cC x + len ≤ 0x80000) && decide (rqBad blk (cA x = 1) = none))) (18) (P11.rr) (P11.x5) (P11.s5)) &&
     ((fun (c : Fin 256) (r : RunRec) (x : List Byte) (h : Chain) (p : Stage) (g : Ring) (i : Nat) (s : State) => decide (s.atOp c r 6 x = true) && decide (r.stage = some (i + 1)) && decide (s.dev.chainOf r.bay r.q r.p = some h) && decide (h.stages[i]? = some p) && decide (p.ring = some g) && decide (p.outb = []) && decide (s.dev.ringGate g = none) && decide (cB x ≤ g.fill)) (18) (P11.rc) (P11.x13) (P11.chn) (P11.stg0) (P11.rg) (0) (P11.s13)) &&
     ((fun (c : Fin 256) (r : RunRec) (x : List Byte) (h : Chain) (p : Stage) (g : Ring) (i : Nat) (s : State) => decide (s.atOp c r 7 x = true) && decide (r.stage = some i) && decide (s.dev.chainOf r.bay r.q r.p = some h) && decide (h.stages[i]? = some p) && decide (p.ring = some g) && decide (s.dev.ringGate g = none) && decide (cB x ≤ g.room)) (18) (P11.rc) (P11.x14) (P11.chn) (P11.stg1) ({ P11.rg with pages := [lo + 4096] }) (1) (P11.s14))) = true := by decide +kernel
theorem witness_CoreControl :
    (((fun (c : Fin 256) (r : RunRec) (x : List Byte) (k : Cmd) (s : State) => decide (s.atOp c r 0 x = true) && decide (r.cores = [c.val]) && decide (r.ended = []) && decide (r.stage = none) && decide (s.stands r.bay r.q r.p 0x20 .running k = true) && decide (k.flag 0 = false) && decide (s.dev.od (0x2810 + r.bay) 5 + 1 < 2 ^ 32) && decide ((∀ r' ∈ s.dev.runs, r'.id = r.id → r' = r))) (18) (P11.rr) (zeros 32) (P11.kc) (P11.s6)) &&
     (((fun (c : Fin 256) (r : RunRec) (x : List Byte) (s : State) => decide (s.atOp c r 0xA x = true)) (18) (P11.rr) (P11.x7) (P11.s7 [])) && ((fun (c : Fin 256) (r : RunRec) (x : List Byte) (s : State) => decide (s.atOp c r 0xA x = true)) (18) (P11.rr) (P11.x7) (P11.s7 [(1, 1)]))) &&
     ((fun (c : Fin 256) (r : RunRec) (x : List Byte) (s : State) => decide (s.atOp c r 0xB x = true)) (18) (P11.rr) (P11.x8) (P11.s8)) &&
     (((fun (c : Fin 256) (r : RunRec) (x : List Byte) (s : State) => decide (s.atOp c r 0xC x = true)) (18) (P11.rr) (P11.x9) (P11.s9)) && ((fun (c : Fin 256) (r : RunRec) (x : List Byte) (s : State) => decide (s.atOp c r 0xC x = true)) (18) (P11.r2) (P11.x9) (P11.s9')))) = true := by decide +kernel
theorem witness_CoreSparsAndHatch :
    ((((fun (c : Fin 256) (r : RunRec) (x : List Byte) (s : State) => decide (s.atOp c r 8 x = true) && decide ((s.dev.bay r.bay).held.spar.has (cB x) = true)) (18) (P11.rr) (P11.xs 0) (P11.ss 0 3)) && ((fun (c : Fin 256) (r : RunRec) (x : List Byte) (s : State) => decide (s.atOp c r 8 x = true) && decide ((s.dev.bay r.bay).held.spar.has (cB x) = true)) (18) (P11.rr) (P11.xs 1) (P11.ss 1 3)) && ((fun (c : Fin 256) (r : RunRec) (x : List Byte) (s : State) => decide (s.atOp c r 8 x = true) && decide ((s.dev.bay r.bay).held.spar.has (cB x) = true)) (18) (P11.rr) (P11.xs 2) (P11.ss 2 3)) && ((fun (c : Fin 256) (r : RunRec) (x : List Byte) (s : State) => decide (s.atOp c r 8 x = true) && decide ((s.dev.bay r.bay).held.spar.has (cB x) = true)) (18) (P11.rr) (P11.xs 3) (P11.ss 3 3))) &&
     (((fun (c : Fin 256) (r : RunRec) (x : List Byte) (s : State) => decide (s.atOp c r 9 x = true)) (18) (P11.rr) (P11.xh 0) (P11.hs 0 .full)) && ((fun (c : Fin 256) (r : RunRec) (x : List Byte) (s : State) => decide (s.atOp c r 9 x = true)) (18) (P11.rr) (P11.xh 1) (P11.hs 1 .taken)) && ((fun (c : Fin 256) (r : RunRec) (x : List Byte) (s : State) => decide (s.atOp c r 9 x = true)) (18) (P11.rr) (P11.xh 2) (P11.hs 2 .taken))) &&
     ((fun (c : Fin 256) (r : RunRec) (x : List Byte) (s : State) => decide (s.rests = true) && decide (s.poison = []) && decide (s.dev.runOf c = some r) && decide ((s.dev.core c).st = .waiting) && decide ((s.dev.core c).atBarrier = false) && decide (s.bytes (localBase c + 32 * (s.dev.core c).pc) 32 = x) && decide (cOp x = 8) && decide (cA x = 2) && decide (cFlags x = 0) && decide ((s.dev.bay r.bay).held.spar.has (cB x) = true) && decide (cC x ≤ (s.dev.spar (cB x)).value.toNat)) (18) (P11.rr) (P11.xs 2) (P11.sw))) = true := by decide +kernel
theorem witness_ThatchSeatsAndCalibration :
    (((fun (a : Fin 256) (m : SeatMeas) (q : Nat) (p : W32) (c : Cmd) (s : State) => let x := s.dev.arr a; decide (x.st = .seating) && decide (x.seatCmd = some (q, p)) && decide (s.stands x.bay q p 0x30 .running c = true) && decide (c.flag 0 = false) && decide (s.poison = []) && decide (m.shadowError = false) && decide (m.weak = []) && decide (s.dev.shadowBusy a = false)) (33) ({}) (5) (7) (P12.sc) (P12.seS)) &&
     ((fun (a : Fin 256) (k : Fin 1152) (f : PairFit) (ok : Bool) (q : Nat) (p : W32) (c : Cmd) (s : State) => let x := s.dev.arr a; let y := x.pair k; decide (y.trimming = true) && decide (y.cmd = some (q, p)) && decide (y.renewed = false) && decide (s.stands x.bay q p 0x31 .running c = true) && decide (c.flag 0 = false) && decide (f.residual ≤ 24) && decide (y.spare = none ∨ ok = true) && decide (x.toTrim = []) && decide (s.dev.shadowBusy a = false)) (33) (1151) (P12.pf) (false) (5) (7) (P12.tc) (P12.trS)) &&
     ((fun (a : Fin 256) (s : State) => decide (s.rests = true) && decide ((s.dev.arr a).st = .seated) && decide ((s.dev.arr a).calDue = true)) (33) (P12.aS .seated true)) &&
     ((fun (a : Fin 256) (fits : List PairFit) (s : State) => decide (s.rests = true) && decide ((s.dev.arr a).st = .calibrating)) (33) ([]) (P12.aS .calibrating false)) &&
     ((fun (a : Fin 256) (s : State) => decide (s.rests = true) && decide ((s.dev.arr a).st = .seated) && decide ((s.dev.arr a).calTimed = false) && decide ((s.dev.arr a).calLast + 7200000000000 ≤ s.time) && decide ((s.dev.arr a).calDue = false)) (33) (P12.aS .seated false)) &&
     ((fun (b : Fin 8) (temp : Int) (s : State) => decide (s.rests = true) && decide (s.time % 1000000 = 0)) (1) (65) (P12.aS .seated false))) = true := by decide +kernel
theorem witness_ThatchEvaluationAndTests :
    (((fun (n : Fin 16) (q : Fin 8) (p : W32) (i : Fin 8) (j : Nat) (h : Chain) (s0 : Stage) (s1 : Stage) (r : Ring) (ro : Ring) (reads : List AdcRead) (rs : List (List Byte)) (s : State) => decide (s.rests = true) && decide (s.poison = []) && decide (i.val = j + 1) && decide (s.dev.chainOf n q p = some h) && decide (h.stages[j]? = some s0) && decide (h.stages[i.val]? = some s1) && decide (s0.ring = some r) && decide (s0.outb = []) && decide (s1.kind = 4) && decide (s1.ended = false) && decide (s1.outb = []) && decide (s1.ring = some ro) && decide (s.dev.ringGate r = none) && decide (s.dev.ringGate ro = none) && decide ((s1.vec + 1) * pad64 (lK s1.desc) ≤ r.put) && decide ((∀ k, k < s1.count → (s.dev.arr (s1.obj + k)).st ≠ .calibrating)) && (let xs := (List.range (lK s1.desc)).map fun k => s.byte (r.lpa (s1.vec * pad64 (lK s1.desc) + k)); decide (((List.range (lN s1.desc)).mapM fun o => s.dev.thatchRecord s1 xs reads o (Config.freeValue (s.dev.free + o) % 2 ^ 32)) = some rs) && decide ((padLine rs.flatten).length ≤ ro.room))) (3) (5) (7) (1) (0) (P12.chn) ({ kind := 2, ring := some (P12.rg 0) }) (P12.st1) (P12.rg 0) (P12.rg 1) ([]) ((P12.ers.getD [])) (P12.chS)) &&
     ((fun (n : Fin 16) (q : Fin 8) (p : W32) (i : Fin 8) (j : Nat) (h : Chain) (s0 : Stage) (s1 : Stage) (s : State) => decide (s.rests = true) && decide (i.val = j + 1) && decide (s.dev.chainOf n q p = some h) && decide (h.stages[j]? = some s0) && decide (h.stages[i.val]? = some s1) && decide (s0.outb = []) && decide (s1.kind = 3) && decide (s1.ekind = 5) && decide (oFn s1.desc = 2) && decide (s1.ended = false) && decide (s1.outb = []) && decide (8 ≤ s1.inb.length) && decide (s1.idx + 1 < lN s0.desc) && decide (s.dev.od (0x2730 + n) 1 = 0) && decide ((∀ k ∈ List.range 6, s.dev.od (0x2730 + n) k + 1 < 2 ^ 32)) && (let v := certTest (toInt 32 (fld s1.inb 0 4)) (fld s1.inb 4 2) (bit (fld s1.inb 6 2) 0) (rqEntry s1.aux s1.idx); let s2 := { s1 with inb := s1.inb.drop 8, idx := s1.idx + 1 }; let s3 := match v with | .certified b => { s2 with outs := smIns (s1.vec * pad64 (lN s0.desc) + s1.idx) (BitVec.ofNat 8 (ofInt 8 b)) s1.outs } | _ => s2; decide (certLine s3 (lN s0.desc) = none))) (3) (5) (7) (2) (1) (P12.chn) (P12.st1) (P12.s2) (P12.chS.onDev fun d => d.setOd 0x2733 1 0))) = true := by decide +kernel
theorem witness_CertifiedIsExact :
    (((fun (e : Int) (y : Int) (v : Int) (b : Nat) (flash : Bool) (k : Rq) => decide (certTest e b flash k = .certified v) && decide (e - b ≤ y) && decide (y ≤ e + b)) (1000) (1003) (4) (5) (false) ({ m := 0x40000000, s := 38, z := 0, lo := -128, hi := 127 }))) = true := by decide +kernel
theorem witness_RequantMonotone :
    (((fun (x1 : Int) (x2 : Int) (k : Rq) => decide (0 < k.m) && decide (x1 ≤ x2)) (-3) (5) ({ m := 0x40000000, s := 31, z := 0, lo := -128, hi := 127 }))) = true := by decide +kernel
theorem witness_FlashTasks :
    ((((fun (n : Fin 16) (audit : Bool) (k : Task) (h : Chain) (s0 : Stage) (s1 : Stage) (x : Nat) (s : State) => decide (s.rests = true) && decide (s.dev.nextTask n audit = some k) && decide (s.dev.chainOf n k.q k.p = some h) && decide (0 < k.stage) && decide (h.stages[k.stage - 1]? = some s0) && decide (h.stages[k.stage]? = some s1) && decide (s.dev.flashSum s.env n k.q k.p k.stage k.vec k.out = some x) && decide (s1.idx ≠ 0) && decide ((audit = true → k.est - k.bound ≤ toInt 32 x ∧ toInt 32 x ≤ k.est + k.bound)) && decide (s.dev.od (0x2810 + n) 4 + 1 < 2 ^ 64) && decide (s.dev.od 0x2800 6 + 1 < 2 ^ 64) && decide (s.dev.od (0x2730 + n) 6 + 1 < 2 ^ 64) && (let s2 := { s1 with outs := smIns (k.vec * pad64 (lN s0.desc) + k.out) (BitVec.ofNat 8 (ofInt 8 (requant (toInt 32 x) (rqEntry s1.aux k.out)))) s1.outs }; decide (certLine s2 (lN s0.desc) = none))) (3) (false) (P12.tk false) (P12.chT) (P12.st1) ({ P12.s2 with idx := 1 }) (P12.tSum false) (P12.tS false)) && ((fun (n : Fin 16) (audit : Bool) (k : Task) (h : Chain) (s0 : Stage) (s1 : Stage) (x : Nat) (s : State) => decide (s.rests = true) && decide (s.dev.nextTask n audit = some k) && decide (s.dev.chainOf n k.q k.p = some h) && decide (0 < k.stage) && decide (h.stages[k.stage - 1]? = some s0) && decide (h.stages[k.stage]? = some s1) && decide (s.dev.flashSum s.env n k.q k.p k.stage k.vec k.out = some x) && decide (s1.idx ≠ 0) && decide ((audit = true → k.est - k.bound ≤ toInt 32 x ∧ toInt 32 x ≤ k.est + k.bound)) && decide (s.dev.od (0x2810 + n) 4 + 1 < 2 ^ 64) && decide (s.dev.od 0x2800 6 + 1 < 2 ^ 64) && decide (s.dev.od (0x2730 + n) 6 + 1 < 2 ^ 64) && (let s2 := { s1 with outs := smIns (k.vec * pad64 (lN s0.desc) + k.out) (BitVec.ofNat 8 (ofInt 8 (requant (toInt 32 x) (rqEntry s1.aux k.out)))) s1.outs }; decide (certLine s2 (lN s0.desc) = none))) (3) (true) (P12.tk true) (P12.chT) (P12.st1) ({ P12.s2 with idx := 1 }) (P12.tSum true) (P12.tS true)))) = true := by decide +kernel
theorem witness_JobRecordsAndSinks :
    ((((fun (n : Fin 16) (i : Fin 64) (out : Bool) (r : JobRegion) (bs : List Byte) (tr : Trans) (s : State) => decide (s.rests = true) && (let j := s.dev.jour n; decide (j.st = .open_) && decide ((if out then j.outputs else j.inputs)[i.val]? = some r) && decide (r.digest = none) && decide (r.slot = none) && decide (r.spar = 0xFFFF) && decide ((out = true → j.closing.isSome = true)) && decide (s.dev.trans.halts = []) && decide (s.dev.roomFor n 168 = true) && decide (r.eng.isSome = true) && ([28, 29, 30, 31].any fun g => decide (s.dev.digestAt g = some (n.val, if out then 64 + i.val else i.val))) && decide (s.firstRec = true) && decide (isReads s (.job n (if out then 64 + i else i)) n (if out then j.outSpace else j.space) r.dva r.len bs tr))) (3) (0) (false) (P12.jrI) (P12.jX.1) (P12.jX.2) (P12.jS)) && ((fun (n : Fin 16) (i : Fin 64) (out : Bool) (r : JobRegion) (bs : List Byte) (tr : Trans) (s : State) => decide (s.rests = true) && (let j := s.dev.jour n; decide (j.st = .open_) && decide ((if out then j.outputs else j.inputs)[i.val]? = some r) && decide (r.digest = none) && decide (r.slot = none) && decide (r.spar = 0xFFFF) && decide ((out = true → j.closing.isSome = true)) && decide (s.dev.trans.halts = []) && decide (s.dev.roomFor n 168 = true) && decide (r.eng.isSome = true) && ([28, 29, 30, 31].any fun g => decide (s.dev.digestAt g = some (n.val, if out then 64 + i.val else i.val))) && decide (s.firstRec = true) && decide (isReads s (.job n (if out then 64 + i else i)) n (if out then j.outSpace else j.space) r.dva r.len bs tr))) (3) (0) (true) (P12.jrO) (P12.jY.1) (P12.jY.2) (P12.jS))) &&
     ((fun (n : Fin 16) (s : State) => decide (s.rests = true) && decide ((s.dev.jour n).digested = true) && decide (s.dev.roomFor n 536 = true) && decide (s.firstRec = true)) (3) (P12.sgS)) &&
     ((fun (n : Fin 16) (seq : Nat) (r : List Byte) (rest : List (Nat × List Byte)) (tr : Trans) (st : List MemOp) (s : State) => decide (s.rests = true) && (let j := s.dev.jour n; let sz := s.dev.sinkSize n; decide (j.heldRecs = (seq, r) :: rest) && decide (s.dev.sinkValid n = true) && decide (j.faulted = false) && decide (r ≠ []) && decide (r.length ≤ sz - j.w % sz) && decide (j.w + r.length ≤ sz + s.dev.od (0x2C10 + n) 4) && decide (s.dev.od (0x2C10 + n) 3 = 0) && decide (s.dev.od (0x2C10 + n) 9 = 0xFFFF) && decide (j.closeSeq ≠ some seq) && decide (isWritesAfter s s.dev.trans (.sink n) n 0 (s.dev.od (0x2C10 + n) 1 + j.w % sz) r true tr st))) (3) (4) ([1,2,3,4]) ([]) (P12.wKd.trans) (P12.wKd.stores) (P12.wK))) = true := by decide +kernel
theorem witness_PortsAndLinkLayer :
    (((fun (p : Fin 12) (s : State) => decide (s.rests = true) && decide ((s.dev.port p).st = .training) && decide ((s.dev.port p).nbValid = false)) (3) (P13.a1)) &&
     ((fun (p : Fin 12) (s : State) => decide (s.rests = true) && decide ((s.dev.port p).st.linkUp = true) && decide ((s.dev.port p).queued = [])) (3) (P13.a2)) &&
     ((fun (p : Fin 12) (s : State) => decide (s.rests = true) && decide ((s.dev.port p).st.linkUp = true) && decide ((s.dev.port p).mode = 0) && decide ((s.dev.port p).lastHelloSent + 100000 ≤ s.time)) (3) (P13.a2)) &&
     ((fun (p : Fin 12) (id : BitVec 12) (assigned : Bool) (port : Fin 16) (own : Nat) (s : State) => decide (s.rests = true) && decide ((s.dev.port p).st.linkUp = true) && decide ((s.dev.port p).mode = 0) && decide (s.dev.fabric.id = some own) && decide (own ≠ id.toNat)) (3) (7) (true) (2) (9) (P13.a4)) &&
     ((fun (p : Fin 12) (s : State) => decide (s.rests = true) && decide ((s.dev.port p).st = .inService) && decide ((s.dev.port p).mode = 0) && decide ((s.dev.port p).queued = []) && decide ((s.dev.port p).lastHello + 1000000 ≤ s.time)) (3) (P13.a5)) &&
     ((fun (p : Fin 12) (f : Frame) (s : State) => decide (s.rests = true) && decide (f.ty = 0x39) && decide ((s.dev.port p).st.linkUp = true) && decide ((s.dev.port p).mode = 0) && decide ((s.dev.port p).queued = [])) (3) (P13.lk) (P13.b1)) &&
     ((fun (p : Fin 12) (f : Frame) (s : State) => decide (s.rests = true) && decide (f.ty = 0x3A) && decide ((s.dev.port p).st.linkUp = true) && decide ((s.dev.port p).mode = 0) && decide ((s.dev.port p).retries < 31) && (let fs := (s.dev.port p).unacked.filter fun u => (u.1 - BitVec.ofNat 16 f.addr).toNat < 0x8000; decide (fs ≠ []))) (3) ({ ty := 0x3A, addr := 5 }) (P13.b1)) &&
     ((fun (p : Fin 12) (u : W16 × Frame) (rest : List (W16 × Frame)) (s : State) => decide (s.rests = true) && decide ((s.dev.port p).st.linkUp = true) && decide ((s.dev.port p).unacked = u :: rest) && decide ((s.dev.port p).lastSend + 20000 ≤ s.time) && decide ((s.dev.port p).retries < 31)) (3) ((4, P13.u1)) ([(5, { P13.u1 with seq := 5 })]) (P13.b1)) &&
     ((fun (p : Fin 12) (s : State) => decide (s.rests = true) && decide ((s.dev.port p).st.linkUp = true) && decide ((s.dev.port p).owesLack = true) && decide ((s.dev.port p).lastLack + 1000 ≤ s.time)) (3) (P13.b9))) = true := by decide +kernel
theorem witness_FabricViolations :
    ((((fun (p : Fin 12) (kind : Fin 10) (f : Frame) (s : State) => decide (s.rests = true) && decide ((s.dev.port p).st = .linked ∨ (s.dev.port p).st = .inService) && decide ((s.dev.port p).mode = 0) && decide (kind.val ≠ 0) && decide (kind.val ≠ 9) && decide (BitVec.ofNat 16 f.seq = (s.dev.port p).rxSeq) && decide (f.src < 4096) && decide (s.dev.od (0x2A20 + p) 6 + 1 < 2 ^ 32) && decide (s.dev.od (0x2A20 + p) 8 + 1 < 2 ^ 32)) (3) (4) (P13.vf) (P13.q 1 62 .inService)) && ((fun (p : Fin 12) (kind : Fin 10) (f : Frame) (s : State) => decide (s.rests = true) && decide ((s.dev.port p).st = .linked ∨ (s.dev.port p).st = .inService) && decide ((s.dev.port p).mode = 0) && decide (kind.val ≠ 0) && decide (kind.val ≠ 9) && decide (BitVec.ofNat 16 f.seq = (s.dev.port p).rxSeq) && decide (f.src < 4096) && decide (s.dev.od (0x2A20 + p) 6 + 1 < 2 ^ 32) && decide (s.dev.od (0x2A20 + p) 8 + 1 < 2 ^ 32)) (3) (4) (P13.vf) (P13.q 1 63 .inService)) && ((fun (p : Fin 12) (kind : Fin 10) (f : Frame) (s : State) => decide (s.rests = true) && decide ((s.dev.port p).st = .linked ∨ (s.dev.port p).st = .inService) && decide ((s.dev.port p).mode = 0) && decide (kind.val ≠ 0) && decide (kind.val ≠ 9) && decide (BitVec.ofNat 16 f.seq = (s.dev.port p).rxSeq) && decide (f.src < 4096) && decide (s.dev.od (0x2A20 + p) 6 + 1 < 2 ^ 32) && decide (s.dev.od (0x2A20 + p) 8 + 1 < 2 ^ 32)) (3) (4) (P13.vf) (P13.q 0 63 .inService)) && ((fun (p : Fin 12) (kind : Fin 10) (f : Frame) (s : State) => decide (s.rests = true) && decide ((s.dev.port p).st = .linked ∨ (s.dev.port p).st = .inService) && decide ((s.dev.port p).mode = 0) && decide (kind.val ≠ 0) && decide (kind.val ≠ 9) && decide (BitVec.ofNat 16 f.seq = (s.dev.port p).rxSeq) && decide (f.src < 4096) && decide (s.dev.od (0x2A20 + p) 6 + 1 < 2 ^ 32) && decide (s.dev.od (0x2A20 + p) 8 + 1 < 2 ^ 32)) (3) (8) (P13.vf) (P13.q 1 63 .linked))) &&
     ((fun (p : Fin 12) (f : Frame) (s : State) => decide (s.frameHere p f = true) && decide (f.ty = 0x34)) (3) (P13.fr 0x34 6 (zeros 4)) (P13.c1)) &&
     ((fun (p : Fin 12) (f : Frame) (s : State) => decide (s.frameHere p f = true) && decide (f.ty = 0x2B) && decide (s.dev.od (0x2A20 + p) 6 + 1 < 2 ^ 32)) (3) (P13.fr 0x2B 5 []) (P13.c1)) &&
     ((fun (c : Instr) (p : Fin 12) (f : Frame) (s : State) => decide (frameRow c = some (p, f)) && decide (s.rests = true) && decide ((s.dev.port p).st = .linked ∨ (s.dev.port p).st = .inService) && decide ((s.dev.port p).mode = 0) && decide (f.vc ≠ 7) && decide (BitVec.ofNat 16 f.seq = (s.dev.port p).rxSeq) && decide ((frameCost f : Int) ≤ smGet 512 (s.dev.port p).rxRoom f.vc) && decide (frameBad f = false) && decide (s.dev.fabric.id = none) && decide (f.directed = false) && decide (f.linkLocal = false)) (.put 3 (P13.fr 0x20 4 [1])) (3) (P13.fr 0x20 4 [1]) (P13.noid))) = true := by decide +kernel
theorem witness_FabricRequestsAndIdentity :
    (((fun (p : Fin 12) (f : Frame) (n : Nat) (r : Nat) (s : State) => decide (s.frameHere p f = true) && decide (f.ty = 0x20) && decide (s.dev.regionOf (f.addr % 2 ^ 48) = some (n, r)) && (let off := f.addr % 2 ^ 48 - (s.dev.region n r).base; decide (s.dev.placeBad n r fabPut (f.key == bits (s.dev.region n r).ctl 47 32) off f.payload.length true = none))) (3) (P14.f1) (3) (2) (P14.a1)) &&
     ((fun (p : Fin 12) (f : Frame) (n : Nat) (r : Nat) (p' : Nat) (s : State) => decide (s.frameHere p f = true) && decide (f.ty = 0x21) && decide (s.dev.regionOf (f.addr % 2 ^ 48) = some (n, r)) && (let a := f.addr % 2 ^ 48; let len := leNat f.payload; decide (s.dev.placeBad n r fabGet (f.key == bits (s.dev.region n r).ctl 47 32) (a - (s.dev.region n r).base) len false = none) && decide (s.homeFree (a / 64) = true) && decide (a % 64 + len ≤ 64) && decide (s.poison.contains (a / 64) = false) && decide (s.route f.src p' 5 len = true))) (3) (P14.f2h) (3) (2) (4) (P14.a2h)) &&
     ((fun (p : Fin 12) (f : Frame) (n : Nat) (p' : Nat) (s : State) => decide (s.frameHere p f = true) && decide (f.ty = 0x22) && decide (f.addr < 4096) && decide (s.dev.sparBay f.addr = some n) && (let x := s.dev.spar f.addr; decide (x.remote = true) && decide (x.key.toNat = f.key) && decide ((s.dev.bay n).st.live = true) && decide (x.armed = false) && decide (x.mirror = false) && decide (s.dev.courses = []) && decide (s.route f.src p' 5 0 = true))) (3) (P14.f3) (3) (4) (P14.a3)) &&
     ((fun (p : Fin 12) (f : Frame) (fn : Nat) (off : Nat) (p' : Nat) (rt : Route) (bs : List Byte) (s : State) => decide (s.frameHere p f = true) && decide (f.ty = 0x23) && decide (s.dev.ctlAt f = .page fn off rt) && (let d := s.dev.tookFrame p f; decide (d.pageRead s.env (17 + 32 * f.src + fn) fn off (leNat f.payload) = (some bs, d)) && decide (s.route f.src p' 5 bs.length = true))) (3) (P14.f4') (4) (0x140) (4) ((match P14.a4.dev.ctlAt P14.f4' with | .page _ _ r => r | _ => R)) ((P14.pr'.1.getD [])) (P14.a4)) &&
     ((fun (p : Fin 12) (f : Frame) (fn : Nat) (p' : Nat) (rt : Route) (s : State) => decide (s.frameHere p f = true) && decide (f.ty = 0x24) && decide (f.payload.length = 4) && decide (fn ≠ 0) && decide (s.dev.ctlAt f = .page fn 0x140 rt) && decide (s.route f.src p' 5 0 = true)) (3) (P14.f5) (4) (4) ((match P14.a4.dev.ctlAt P14.f5 with | .page _ _ r => r | _ => R)) (P14.a4)) &&
     ((fun (p : Fin 12) (f : Frame) (n : Fin 16) (p' : Nat) (s : State) => decide (s.frameHere p f = true) && decide (f.ty = 0x30) && decide (f.aux = 2 ^ n.val) && decide (s.dev.beats n = true) && decide (s.dev.od (0x2A40 + n) 1 = f.src) && decide (s.time < s.dev.hbEnd n) && decide (s.route f.src p' 6 8 = true)) (3) (P14.f6) (3) (4) (P14.a6)) &&
     ((fun (p : Fin 12) (f : Frame) (s : State) => decide (s.rests = true) && decide (f.ty = 0x33) && decide ((s.dev.port p).st = .linked) && decide ((s.dev.port p).mode = 0) && decide (f.linkLocal = true) && decide (f.directed = false) && decide (frameBad f = false) && decide (BitVec.ofNat 16 f.seq = (s.dev.port p).rxSeq) && decide ((frameCost f : Int) ≤ smGet 512 (s.dev.port p).rxRoom f.vc) && decide (s.dev.islAnswer (332 + p) = none) && decide (s.dev.fabric.id = none) && decide (s.dev.fabric.fmId = 0xFFFF ∨ f.src = s.dev.fabric.fmId)) (3) (P14.f7) (P14.a7)) &&
     ((fun (p : Fin 12) (f : Frame) (own : Nat) (p' : Nat) (s : State) => decide (s.rests = true) && decide ((s.dev.port p).st = .inService) && decide ((s.dev.port p).mode = 0) && decide (f.vc ≠ 7) && decide (BitVec.ofNat 16 f.seq = (s.dev.port p).rxSeq) && decide ((frameCost f : Int) ≤ smGet 512 (s.dev.port p).rxRoom f.vc) && decide (frameBad f = false) && decide (f.directed = false) && decide (f.linkLocal = false) && decide (s.dev.boot.st = .ready) && decide (s.dev.fabric.id = some own) && decide (own ≠ f.dst) && decide (1 < f.hops) && decide (s.dev.queuedFor f.dst = false) && decide (s.dev.routePort f.src f.dst = some p') && decide ((s.dev.port p').st = .inService) && decide ((s.dev.port p').queued = []) && decide ((frameCost f : Int) ≤ (s.dev.port p').credit f.vc)) (3) (P14.f8) (9) (4) (P14.a8)) &&
     (((fun (n : Fin 16) (s : State) => decide (s.rests = true) && decide (s.dev.beats n = true) && decide (s.dev.hbEnd n ≤ s.time)) (3) (P14.a9)) && ((fun (n : Fin 16) (s : State) => decide (s.rests = true) && decide (s.dev.beats n = true) && decide (s.dev.hbEnd n ≤ s.time)) (3) (P14.a10)))) = true := by decide +kernel
theorem witness_FabricResponses :
    ((((fun (p : Fin 12) (f : Frame) (r : Remote) (s : State) => decide (s.frameHere p f = true) && decide (f.ty = 0x28 ∨ f.ty = 0x29) && decide (s.dev.fabric.remotes = [r]) && decide (r.tn = f.tn) && decide (r.f.dst = f.src) && decide (r.f.ty + 8 = f.ty) && decide (r.dead = false) && decide (r.who = .gutter 9) && decide (f.st ≠ 8) && decide (f.poison = false)) (3) (P14.f11) (P14.rem 0x20 (.gutter 9)) (P14.x11)) && ((fun (p : Fin 12) (f : Frame) (r : Remote) (s : State) => decide (s.frameHere p f = true) && decide (f.ty = 0x28 ∨ f.ty = 0x29) && decide (s.dev.fabric.remotes = [r]) && decide (r.tn = f.tn) && decide (r.f.dst = f.src) && decide (r.f.ty + 8 = f.ty) && decide (r.dead = false) && decide (r.who = .gutter 9) && decide (f.st ≠ 8) && decide (f.poison = false)) (3) (P14.f12) (P14.rem 0x21 (.gutter 9)) (P14.x12))) &&
     ((fun (p : Fin 12) (f : Frame) (r : Remote) (n : Fin 16) (q : Fin 8) (w : W32) (c : Cmd) (s : State) => decide (s.frameHere p f = true) && decide (f.ty = 0x2A) && decide (s.dev.fabric.remotes = [r]) && decide (r.tn = f.tn) && decide (r.f.dst = f.src) && decide (r.f.ty = 0x22) && decide (r.dead = false) && decide (r.who = .cmd (8 * n + q) w.toNat) && decide (f.st = 0) && decide (f.poison = false) && decide (s.stands n q w 3 .running c = true) && decide (c.flag 0 = false)) (3) (P14.f13) (P14.rem 0x22 (.cmd 29 7)) (3) (5) (7) (P14.c13) (P14.x13)) &&
     (((fun (p : Fin 12) (f : Frame) (r : Remote) (s : State) => decide (s.frameHere p f = true) && decide (f.ty = 0x28 ∨ f.ty = 0x29) && decide (s.dev.fabric.remotes = [r]) && decide (r.tn = f.tn) && decide (r.f.dst = f.src) && decide (r.f.ty + 8 = f.ty) && decide (r.dead = true ∨ f.st = 8)) (3) ({ P14.f11 with st := 0 }) ({ P14.rem 0x20 (.gutter 9) with dead := true }) (P14.a11 { P14.rem 0x20 (.gutter 9) with dead := true })) && ((fun (p : Fin 12) (f : Frame) (r : Remote) (s : State) => decide (s.frameHere p f = true) && decide (f.ty = 0x28 ∨ f.ty = 0x29) && decide (s.dev.fabric.remotes = [r]) && decide (r.tn = f.tn) && decide (r.f.dst = f.src) && decide (r.f.ty + 8 = f.ty) && decide (r.dead = true ∨ f.st = 8)) (3) ({ P14.f11 with st := 8 }) ({ P14.rem 0x20 (.gutter 9) with dead := false }) (P14.a11 { P14.rem 0x20 (.gutter 9) with dead := false })) && ((fun (p : Fin 12) (f : Frame) (r : Remote) (s : State) => decide (s.frameHere p f = true) && decide (f.ty = 0x28 ∨ f.ty = 0x29) && decide (s.dev.fabric.remotes = [r]) && decide (r.tn = f.tn) && decide (r.f.dst = f.src) && decide (r.f.ty + 8 = f.ty) && decide (r.dead = true ∨ f.st = 8)) (3) ({ P14.f11 with st := 8 }) ({ P14.rem 0x20 (.gutter 9) with dead := true }) (P14.a11 { P14.rem 0x20 (.gutter 9) with dead := true }))) &&
     ((fun (tn : Nat) (r : Remote) (x : Nat) (p' : Nat) (s : State) => decide (s.rests = true) && decide (s.dev.fabric.remotes = [r]) && decide (r.tn = tn) && decide (r.dead = false) && decide (r.retryAt = some x) && decide (x ≤ s.time) && decide (s.route r.f.dst p' r.f.vc r.f.payload.length = true)) (5) ({ P14.rem 0x21 (.gutter 9) with retryAt := some 900000 }) (900000) (4) (P14.x14)) &&
     ((fun (tn : Nat) (c : Nat) (r : Remote) (s : State) => decide (s.rests = true) && decide (s.dev.fabric.remotes = [r]) && decide (r.tn = tn) && decide (r.dead = false) && decide (r.who = .gutter c) && decide (r.sent + s.dev.od 0x2A00 6 * 1000 ≤ s.time)) (5) (9) (P14.rem 0x21 (.gutter 9)) ({ P14.x12 with time := 900000000 }))) = true := by decide +kernel
theorem witness_PlacementRoutes :
    ((((fun (p : Fin 12) (k : RocePkt) (n : Nat) (i : Nat) (r : Nat) (ok : Bool) (s : State) => decide (s.roceHere p k n i = true) && decide (k.psn = s.dev.qpPsn n i) && decide (k.first = true) && decide ((s.dev.qp n i).msg = none) && decide (k.data.length ≤ k.dmaLen) && decide ((k.last = true → k.data.length = k.dmaLen)) && decide (s.dev.rkeySlot n k.rkey = some (r, ok)) && decide (s.dev.placeBad n r roceWr ok k.va k.dmaLen true = none)) (3) (P15.k0) (3) (1) (2) (true) (P15.e1)) && ((fun (p : Fin 12) (k : RocePkt) (n : Nat) (i : Nat) (r : Nat) (ok : Bool) (s : State) => decide (s.roceHere p k n i = true) && decide (k.psn = s.dev.qpPsn n i) && decide (k.first = true) && decide ((s.dev.qp n i).msg = none) && decide (k.data.length ≤ k.dmaLen) && decide ((k.last = true → k.data.length = k.dmaLen)) && decide (s.dev.rkeySlot n k.rkey = some (r, ok)) && decide (s.dev.placeBad n r roceWr ok k.va k.dmaLen true = none)) (3) ({ P15.k0 with last := false, dmaLen := 9 }) (3) (1) (2) (true) (P15.e1))) &&
     (((fun (p : Fin 12) (k : RocePkt) (n : Nat) (i : Nat) (r : Nat) (off : Nat) (left : Nat) (len : Nat) (s : State) => decide (s.roceHere p k n i = true) && decide (k.psn = s.dev.qpPsn n i) && decide (k.first = false) && decide ((s.dev.qp n i).msg = some (r, off, left, len)) && decide (k.data.length ≤ left) && decide ((k.last = true → k.data.length = left)) && decide (s.dev.placeLate n r off k.data.length true = none)) (3) ({ P15.k0 with first := false, last := false }) (3) (1) (2) (73) (6) (9) (P15.e2)) && ((fun (p : Fin 12) (k : RocePkt) (n : Nat) (i : Nat) (r : Nat) (off : Nat) (left : Nat) (len : Nat) (s : State) => decide (s.roceHere p k n i = true) && decide (k.psn = s.dev.qpPsn n i) && decide (k.first = false) && decide ((s.dev.qp n i).msg = some (r, off, left, len)) && decide (k.data.length ≤ left) && decide ((k.last = true → k.data.length = left)) && decide (s.dev.placeLate n r off k.data.length true = none)) (3) ({ P15.k0 with first := false, data := [1,2,3,4,5,6] }) (3) (1) (2) (73) (6) (9) (P15.e2))) &&
     ((fun (p : Fin 12) (k : RocePkt) (n : Nat) (i : Nat) (a : Nat) (s : State) => decide (s.roceHere p k n i = true) && decide (k.psn = (s.dev.qpPsn n i + a) % 2 ^ 24) && decide (0 < a) && decide (a < 2 ^ 23)) (3) ({ P15.k0 with psn := 44 }) (3) (1) (4) (P15.e1)) &&
     ((fun (p : Fin 12) (k : RocePkt) (n : Nat) (i : Nat) (r : Nat) (ok : Bool) (s : State) => decide (s.roceHere p k n i = true) && decide (k.psn = s.dev.qpPsn n i) && decide ((s.dev.qp n i).msg = none) && decide (s.dev.rkeySlot n k.rkey = some (r, ok)) && decide (s.dev.placeBad n r roceRd ok k.va k.dmaLen false = none) && (let a := (s.dev.region n r).base + k.va; decide (s.homeFree (a / 64) = true) && decide (0 < k.dmaLen) && decide (a % 64 + k.dmaLen ≤ 64) && decide (s.poison.contains (a / 64) = false))) (3) ({ P15.k0 with data := [] }) (3) (1) (2) (true) (P15.e4)) &&
     ((fun (rid : W16) (ap : Fin 256) (off : Nat) (data : List Byte) (s : State) => decide (s.rests = true) && decide (s.dev.hostHere 0 = true) && decide (s.dev.boot.st = .ready) && decide (data ≠ []) && decide (off % 4096 + data.length ≤ 4096) && decide (s.dev.barBad rid.toNat ap bar4Wr off data.length true = none)) (7) (50) (70) ([1,2,3]) (P15.b1)) &&
     ((fun (rid : W16) (ap : Fin 256) (off : Nat) (len : Nat) (tag : Nat) (s : State) => decide (s.dev.hostHere 0 = true) && decide (s.dev.boot.st = .ready) && decide (s.dev.barBad rid.toNat ap bar4Rd off len false = none) && decide (0 < len) && (let a := (s.dev.region (ap / 16) (ap % 16)).base + off; decide (s.homeFree (a / 64) = true) && decide (off % 64 + len ≤ 64) && decide (a % 64 = off % 64) && decide (s.poison.contains (a / 64) = false))) (7) (50) (70) (3) (66) (P15.b2)) &&
     (((fun (n : Fin 16) (x : Place) (s : State) => decide (s.dev.places = [x]) && decide (x.bay = n.val) && decide (x.read = none) && decide (x.data ≠ []) && decide (x.lpa % 64 + x.data.length ≤ 64) && decide (x.reply = none) && decide (x.tag = none) && decide (x.roce = none) && decide (({ s with dev := { s.dev with places := [] } } : State).homeFree (x.lpa / 64) = true) && decide (s.dev.courses = []) && (let g := s.dev.region n x.slot; decide (g.spar = 0xFFFF ∨ ((s.dev.bay n).held.spar.has g.spar = true ∧ (s.dev.spar g.spar).armed = false ∧ (s.dev.spar g.spar).mirror = false)))) (3) (P15.pl none) (P15.b3 none 9)) && ((fun (n : Fin 16) (x : Place) (s : State) => decide (s.dev.places = [x]) && decide (x.bay = n.val) && decide (x.read = none) && decide (x.data ≠ []) && decide (x.lpa % 64 + x.data.length ≤ 64) && decide (x.reply = none) && decide (x.tag = none) && decide (x.roce = none) && decide (({ s with dev := { s.dev with places := [] } } : State).homeFree (x.lpa / 64) = true) && decide (s.dev.courses = []) && (let g := s.dev.region n x.slot; decide (g.spar = 0xFFFF ∨ ((s.dev.bay n).held.spar.has g.spar = true ∧ (s.dev.spar g.spar).armed = false ∧ (s.dev.spar g.spar).mirror = false)))) (3) (P15.pl none) (P15.b3 none 0xFFFF))) &&
     ((fun (n : Fin 16) (x : Place) (f : Frame) (p' : Nat) (s : State) => decide (s.dev.places = [x]) && decide (x.bay = n.val) && decide (x.read = none) && decide (x.data ≠ []) && decide (x.lpa % 64 + x.data.length ≤ 64) && decide (x.reply = some f) && decide (x.tag = none) && decide (x.roce = none) && decide (({ s with dev := { s.dev with places := [] } } : State).homeFree (x.lpa / 64) = true) && decide (s.route f.dst p' f.vc 0 = true) && decide ((s.dev.region n x.slot).spar = 0xFFFF)) (3) (P15.pl (some P15.rf)) (P15.rf) (4) (P15.b3 (some P15.rf) 0xFFFF))) = true := by decide +kernel
theorem witness_EthernetAndPtp_8 :
    (fun (p : Fin 12) (m : PtpMsg) (s : State) => (decide (s.rests = true) && decide (s.dev.ptpUp p = true) && decide (m.domain = s.dev.od 0x2A00 0xB) && decide (s.dev.od 0x2A00 0xC = 0)) = true ∧ (∀ q, q ≠ p.val → (s.dev.port q).ann = none)) (3) (P15.mm) (P15.e1) :=
  ⟨by decide +kernel, fun q h => by
    show (smGet ({} : Port) [(3, _), (4, _)] q).ann = none
    simp only [smGet]; split
    · next e => exact absurd e.symm h
    · split <;> rfl⟩
theorem witness_EthernetAndPtp_9 :
    (fun (p : Fin 12) (s : State) => (decide (s.rests = true) && decide ((s.dev.port p).ann.isSome = true) && decide ((s.dev.port p).annTime + 3000000000 ≤ s.time) && decide (s.dev.od 0x2A00 0xC = 0)) = true ∧ (∀ q, q ≠ p.val → (s.dev.port q).ann = none)) (3) (P15.e12) :=
  ⟨by decide +kernel, fun q h => by
    show (smGet ({} : Port) [(3, _), (4, _)] q).ann = none
    simp only [smGet]; split
    · next e => exact absurd e.symm h
    · split <;> rfl⟩
theorem witness_EthernetAndPtp :
    ((((fun (p : Fin 12) (ip : W32) (mac : BitVec 48) (s : State) => decide (s.rests = true) && decide (s.dev.etherUp p = true)) (3) (0xC0A80001) (0x1122) (P15.e5)) && ((fun (p : Fin 12) (ip : W32) (mac : BitVec 48) (s : State) => decide (s.rests = true) && decide (s.dev.etherUp p = true)) (3) (3) (0x1122) (P15.e5))) &&
     ((fun (p : Fin 12) (ip : BitVec 128) (mac : BitVec 48) (s : State) => decide (s.rests = true) && decide (s.dev.etherUp p = true)) (3) (BitVec.ofNat 128 (P15.e5.dev.ip6 3)) (7) (P15.e5)) &&
     ((fun (p : Fin 12) (v6 : Bool) (ip : BitVec 128) (data : List Byte) (s : State) => decide (s.rests = true) && decide (s.dev.etherUp p = true)) (3) (false) (0xC0A80001) ([5]) (P15.e5)) &&
     ((fun (p : Fin 12) (prio : Fin 8) (quanta : W16) (s : State) => decide (s.rests = true) && decide (s.dev.etherUp p = true) && decide (quanta ≠ 0)) (3) (5) (7) (P15.e5)) &&
     ((fun (p : Fin 12) (m : PtpMsg) (s : State) => decide (s.rests = true) && decide (s.dev.ptpUp p = true) && decide (m.domain = s.dev.od 0x2A00 0xB) && decide (s.dev.fabric.ptpPort = p.val)) (3) (P15.mm) (P15.e8)) &&
     ((fun (p : Fin 12) (m : PtpMsg) (t2 : Nat) (s : State) => decide (s.rests = true) && decide (s.dev.ptpUp p = true) && decide (m.domain = s.dev.od 0x2A00 0xB) && decide (s.dev.fabric.ptpPort = p.val) && decide ((s.dev.port p).syncTime = some (t2, m.seq))) (3) (P15.mm) (1000001) (P15.e9)) &&
     ((fun (p : Fin 12) (m : PtpMsg) (s : State) => decide (s.rests = true) && decide (s.dev.ptpUp p = true) && decide (m.domain = s.dev.od 0x2A00 0xB) && decide (s.dev.fabric.ptpPort ≠ p.val)) (4) (P15.mm) (P15.e8)) &&
     ((fun (p : Fin 12) (m : PtpMsg) (t3 : Nat) (s : State) => decide (s.rests = true) && decide (s.dev.ptpUp p = true) && decide (m.domain = s.dev.od 0x2A00 0xB) && decide (s.dev.fabric.ptpPort = p.val) && decide (s.dev.fabric.delaySent = some (t3, m.seq))) (3) (P15.mm) (999000) (P15.e10)) &&
     ((fun (p : Fin 12) (s : State) => decide (s.rests = true) && decide (s.dev.ptpUp p = true) && decide ((s.dev.port p).syncLast + 125000000 ≤ s.time)) (4) (P15.e12)) &&
     ((fun (s : State) => decide (s.rests = true) && decide (s.dev.od 0x2A00 0xC = 1)) (P15.e14 (-7))) &&
     ((fun (s : State) => decide (s.rests = true) && decide (s.dev.fabric.ptpState = 2 ∨ s.dev.fabric.ptpState = 3) && decide ((s.time + s.dev.fabric.ptpOffset) % 1000000000 = 0) && decide (s.dev.fabric.lastPps ≠ some ((s.time + s.dev.fabric.ptpOffset) / 1000000000))) (P15.e14 (-1000000)))) = true := by decide +kernel
theorem witness_IslandsAndRetraining_1 :
    (fun (i : Fin 350) (s : State) => (decide (s.rests = true) && decide ((s.dev.island i).st = .active) && decide ((s.dev.island i).flush = true)) = true ∧ ((256 ≤ i.val ∧ i.val < 272 ∧ s.dev.l2Lines (i - 256) = [] ∧ s.dev.l2Asking (i - 256) = false) ∨ (272 ≤ i.val ∧ i.val < 288 ∧ ∀ l x, s.dev.dir l = some x → x.kind ≠ .p) ∨ (i.val = 331 ∧ s.dev.ridge.proxy = []))) (258) (P16.o2) ∧
    (fun (i : Fin 350) (s : State) => (decide (s.rests = true) && decide ((s.dev.island i).st = .active) && decide ((s.dev.island i).flush = true)) = true ∧ ((256 ≤ i.val ∧ i.val < 272 ∧ s.dev.l2Lines (i - 256) = [] ∧ s.dev.l2Asking (i - 256) = false) ∨ (272 ≤ i.val ∧ i.val < 288 ∧ ∀ l x, s.dev.dir l = some x → x.kind ≠ .p) ∨ (i.val = 331 ∧ s.dev.ridge.proxy = []))) (272) (P16.o2) ∧
    (fun (i : Fin 350) (s : State) => (decide (s.rests = true) && decide ((s.dev.island i).st = .active) && decide ((s.dev.island i).flush = true)) = true ∧ ((256 ≤ i.val ∧ i.val < 272 ∧ s.dev.l2Lines (i - 256) = [] ∧ s.dev.l2Asking (i - 256) = false) ∨ (272 ≤ i.val ∧ i.val < 288 ∧ ∀ l x, s.dev.dir l = some x → x.kind ≠ .p) ∨ (i.val = 331 ∧ s.dev.ridge.proxy = []))) (331) (P16.o2) :=
  ⟨⟨by decide +kernel, .inl (by decide +kernel)⟩, ⟨by decide +kernel, .inr (.inl ⟨by decide, by decide, P16.o2_homed⟩)⟩,
    by decide +kernel, .inr (.inr (by decide +kernel))⟩
theorem witness_IslandsAndRetraining :
    ((((fun (i : Fin 350) (t0 : Nat) (s : State) => decide (s.rests = true) && decide ((s.dev.island i).eligible = some t0) && decide (s.dev.od 0x2B00 5 = 1) && decide (s.dev.gateable i = true) && decide (t0 + 1000000 ≤ s.time) && decide ((s.dev.island i).flush = false)) (7) (5) (P16.o1)) && ((fun (i : Fin 350) (t0 : Nat) (s : State) => decide (s.rests = true) && decide ((s.dev.island i).eligible = some t0) && decide (s.dev.od 0x2B00 5 = 1) && decide (s.dev.gateable i = true) && decide (t0 + 1000000 ≤ s.time) && decide ((s.dev.island i).flush = false)) (258) (5) (P16.o1))) &&
     (((fun (i : Fin 350) (s : State) => decide (s.rests = true) && decide ((s.dev.island i).st = .closing) && decide (s.dev.islandLoad i = 0) && decide ((∀ c ∈ List.range 256, c = i.val ∨ 256 + c / 16 = i.val → s.dev.holder (·.core) c = none))) (7) (P16.o3)) && ((fun (i : Fin 350) (s : State) => decide (s.rests = true) && decide ((s.dev.island i).st = .closing) && decide (s.dev.islandLoad i = 0) && decide ((∀ c ∈ List.range 256, c = i.val ∨ 256 + c / 16 = i.val → s.dev.holder (·.core) c = none))) (258) (P16.o3)) && ((fun (i : Fin 350) (s : State) => decide (s.rests = true) && decide ((s.dev.island i).st = .closing) && decide (s.dev.islandLoad i = 0) && decide ((∀ c ∈ List.range 256, c = i.val ∨ 256 + c / 16 = i.val → s.dev.holder (·.core) c = none))) (272) (P16.o3)) && ((fun (i : Fin 350) (s : State) => decide (s.rests = true) && decide ((s.dev.island i).st = .closing) && decide (s.dev.islandLoad i = 0) && decide ((∀ c ∈ List.range 256, c = i.val ∨ 256 + c / 16 = i.val → s.dev.holder (·.core) c = none))) (300) (P16.o3)) && ((fun (i : Fin 350) (s : State) => decide (s.rests = true) && decide ((s.dev.island i).st = .closing) && decide (s.dev.islandLoad i = 0) && decide ((∀ c ∈ List.range 256, c = i.val ∨ 256 + c / 16 = i.val → s.dev.holder (·.core) c = none))) (326) (P16.o3))) &&
     ((fun (i : Fin 350) (s : State) => decide (s.rests = true) && decide ((s.dev.island i).st = .closing) && decide (i.val < 256) && decide (s.dev.islandLoad i = 0) && decide ((s.dev.holder (·.core) i).isSome = true)) (18) (P16.o3)) &&
     ((fun (i : Fin 350) (s : State) => decide (s.rests = true) && decide ((s.dev.island i).st = .starting)) (7) (P16.o4)) &&
     ((fun (i : Fin 350) (s : State) => decide (s.rests = true) && decide ((s.dev.island i).st = .active) && decide ((s.dev.island i).timed = false) && decide ((s.dev.island i).lastRetrain + 60000000000 ≤ s.time)) (9) (P16.o5)) &&
     ((fun (i : Fin 350) (s : State) => decide (s.rests = true) && decide ((s.dev.island i).st = .active)) (9) (P16.o5)) &&
     ((fun (i : Fin 350) (temp : Int) (s : State) => decide (s.rests = true) && decide ((s.dev.island i).st = .active)) (9) (5) (P16.o5)) &&
     ((fun (i : Fin 350) (temp : Int) (s : State) => decide (s.rests = true) && decide ((s.dev.island i).st = .active) && decide ((s.dev.island i).retraining = true)) (9) (77) (P16.o6))) = true := by decide +kernel
theorem witness_LoopsAndSenseLines :
    (((fun (r : Slack) (s : State) => decide (s.rests = true) && decide (s.time % 10000 = 0) && decide (s.dev.board.mainPg = true) && decide (s.dev.loopFrozen 0 = false) && decide (s.dev.loops.frozen = []) && decide (r.island < 350) && decide ((s.dev.island r.island).st = .active) && (let k := islandDomain r.island; let q := (s.dev.domain k).request; decide (k < 23))) ({ island := 20, slack := 3, wantsMore := false, predicted := 9 }) (bay)) &&
     ((fun (r : Slack) (s : State) => decide (s.rests = true) && decide (s.time % 10000 = 0) && decide (s.dev.board.mainPg = true) && decide (s.dev.loopFrozen 1 = false) && decide (r.island < 350) && decide ((s.dev.island r.island).st = .active)) ({ island := 20, slack := 3, wantsMore := false, predicted := 9 }) (P16.o8)) &&
     (((fun (i : Fin 350) (temp : Int) (w : Nat) (s : State) => decide (s.rests = true) && decide (s.time % 1000000 = 0) && decide (s.dev.board.mainPg = true)) (20) (800) (100) (bay)) && ((fun (i : Fin 350) (temp : Int) (w : Nat) (s : State) => decide (s.rests = true) && decide (s.time % 1000000 = 0) && decide (s.dev.board.mainPg = true)) (20) (100) (2000) (bay))) &&
     ((fun (i : Fin 350) (s : State) => decide (s.rests = true) && decide ((s.dev.island i).st = .active)) (20) (bay)) &&
     ((fun (b : Fin 8) (a : Fin 32) (col : Fin 4096) (v : Int) (s : State) => decide (s.rests = true) && decide (s.time % 1000000 = 0) && decide (s.dev.loopFrozen 4 = false) && decide ((s.dev.island (296 + b)).st = .active)) (1) (3) (7) (-4) (bay)) &&
     ((fun (c : Fin 256) (temp : Int) (s : State) => decide (s.rests = true) && decide (s.time % 1000000 = 0) && decide (s.dev.board.mainPg = true)) (7) (300) (bay)) &&
     (((fun (rail : Fin 3) (kind : Fin 4) (s : State) => decide (s.rests = true) && decide (kind.val ≠ 0) && decide (s.dev.board.mainPg = true) && decide (smGet 0 s.dev.loops.sense rail = 0) && decide (s.dev.od 0x2B00 9 + 1 < 2 ^ 32)) (0) (2) (bay)) && ((fun (rail : Fin 3) (kind : Fin 4) (s : State) => decide (s.rests = true) && decide (kind.val ≠ 0) && decide (s.dev.board.mainPg = true) && decide (smGet 0 s.dev.loops.sense rail = 0) && decide (s.dev.od 0x2B00 9 + 1 < 2 ^ 32)) (2) (2) (bay))) &&
     (((fun (r : Route) (k : Fin 3) (v : Byte) (intact : List (Fin 3)) (s : State) => decide (v.toNat = 2 ^ k.val) && decide (s.acceptsIf r 0x2B00 0xA [v] intact = true)) (R) (0) (1) ([0, 1]) (P16.o12)) && ((fun (r : Route) (k : Fin 3) (v : Byte) (intact : List (Fin 3)) (s : State) => decide (v.toNat = 2 ^ k.val) && decide (s.acceptsIf r 0x2B00 0xA [v] intact = true)) (R) (1) (2) ([0, 1]) (P16.o12))) &&
     ((fun (mv : Nat) (s : State) => decide (s.rests = true) && decide (mv = s.dev.loops.coreMv) && decide (s.dev.loops.stuck = none) && decide (s.dev.loops.prevMv ≠ mv) && decide (s.dev.od 0x2B00 7 + 1 < 2 ^ 32)) (800) (P16.o13))) = true := by decide +kernel
theorem witness_PatrolScrub_1 :
    (fun (k : Fin 8) (corrected : List Nat) (s : State) => (decide (s.rests = true) && decide ((s.dev.scrub k).running = true) && decide ((s.dev.scrub k).paused = false) && decide (s.dev.od 0x2B03 7 + corrected.length < 2 ^ 32) && decide (s.dev.od 0x2D00 4 + corrected.length < 2 ^ 32)) = true ∧ ((∀ l, l ∈ corrected → l < 0x180000000 ∧ Config.hbmStack l = k.val))) (Config.hbmStack 5) ([5]) (P16.o15) :=
  ⟨by simp only [Bool.and_eq_true]; exact ⟨⟨by simpa using P16.o15_runs _, by decide +kernel⟩, by decide +kernel⟩,
    fun l h => by rw [List.mem_singleton] at h; subst h; exact ⟨by decide, rfl⟩⟩
theorem witness_PatrolScrub_2 :
    (fun (k : Fin 8) (l : Nat) (s : State) => (decide (s.rests = true) && decide ((s.dev.scrub k).running = true) && decide ((s.dev.scrub k).paused = false) && decide (l < 0x180000000) && decide (s.dev.od 0x2B03 8 + 1 < 2 ^ 32)) = true ∧ (Config.hbmStack l = k.val)) (Config.hbmStack 0x17FFFFFFF) (0x17FFFFFFF) (P16.o15) :=
  ⟨by simp only [Bool.and_eq_true]; exact ⟨⟨by simpa using P16.o15_runs _, by decide⟩, by decide +kernel⟩, rfl⟩
theorem witness_PatrolScrub :
    (((fun (k : Fin 8) (s : State) => decide (s.rests = true) && decide (s.dev.boot.st = .ready) && decide ((s.dev.scrub k).timed = false) && decide ((s.dev.scrub k).running = false) && decide ((s.dev.scrub k).latched = false) && decide ((s.dev.island (304 + k)).st = .active) && decide (s.dev.board.throttled = []) && decide ((s.dev.scrub k).lastEnd.getD s.dev.boot.readyTime + s.dev.od 0x2B03 1 * 1000000000 ≤ s.time)) (3) (P16.o14))) = true := by decide +kernel
theorem witness_PortAndLoopFrame :
    (((fun (c : Instr) (s : State) => decide (portOrLoopRow c = true) && decide (s.rests = true)) (.portLock 3) (ready))) = true := by decide +kernel

end Sys2Proof.Tests
end

section
/-! SUPPORT. What the ROM does as the device enters it leaves the board edge and the pending work alone. -/
namespace Sys2Proof.Machine

/-- The board edge, what is due at the end of a command, and the memory writes under way are the same. -/
structure Dev.SameEdge (d d' : Dev) : Prop where
  board : d'.board = d.board
  quiet : d'.quiet = d.quiet
  stores : d'.stores = d.stores

theorem Dev.SameEdge.refl (d : Dev) : d.SameEdge d := ⟨rfl, rfl, rfl⟩

theorem Dev.SameEdge.trans {a b c : Dev} (h : a.SameEdge b) (h' : b.SameEdge c) : a.SameEdge c :=
  ⟨h'.board.trans h.board, h'.quiet.trans h.quiet, h'.stores.trans h.stores⟩

theorem Dev.sameEdge_send (d : Dev) (o : Out) : d.SameEdge (d.send o) := ⟨rfl, rfl, rfl⟩

theorem Dev.sameEdge_boot (d : Dev) (b : Boot) : d.SameEdge { d with boot := b } := ⟨rfl, rfl, rfl⟩

theorem Dev.sameEdge_fabricId (d : Dev) (x : Option Nat) : d.SameEdge { d with fabric := { d.fabric with id := x } } := ⟨rfl, rfl, rfl⟩

theorem Dev.sameEdge_setOd (d : Dev) (idx sub v : Nat) : d.SameEdge (d.setOd idx sub v) := ⟨rfl, rfl, rfl⟩

theorem Dev.sameEdge_sfdpRead (d : Dev) (a len : Nat) : d.SameEdge (d.sfdpRead a len) := d.sameEdge_send _

theorem Dev.sameEdge_flashRead (d : Dev) (a len : Nat) : d.SameEdge (d.flashRead a len) := d.sameEdge_send _

theorem Dev.sameEdge_readFlash (d : Dev) : d.SameEdge d.readFlash := by
  have sfdp (n : Nat) : d.SameEdge ((d.sfdpRead 0 16).sfdpRead d.nv.flash.sfdpTable n) :=
    (d.sameEdge_sfdpRead _ _).trans (Dev.sameEdge_sfdpRead _ _ _)
  unfold Dev.readFlash
  dsimp only
  split
  · exact ((sfdp _).trans (Dev.sameEdge_flashRead _ _ _)).trans (Dev.sameEdge_flashRead _ _ _)
  · exact sfdp _

theorem Dev.sameEdge_readSlot (d : Dev) : d.SameEdge d.readSlot := by
  have header (k : Nat) : d.SameEdge (d.flashRead (flashSlotAt k) 0x160) := d.sameEdge_flashRead _ _
  unfold Dev.readSlot
  split
  · dsimp only
    split
    · exact (header _).trans (Dev.sameEdge_flashRead _ _ _)
    · split
      · exact (header _).trans (Dev.sameEdge_flashRead _ _ _)
      · exact header _
  · exact .refl d

theorem Dev.sameEdge_romSlots (d : Dev) : d.SameEdge d.romSlots := by
  unfold Dev.romSlots
  refine d.sameEdge_readFlash.trans (.trans ?_ (Dev.sameEdge_readSlot _))
  split
  · exact Dev.sameEdge_boot _ _
  · exact (Dev.sameEdge_boot _ _).trans (Dev.sameEdge_setOd _ _ _ _)

theorem Dev.sameEdge_pauseWatchdog (d : Dev) (e : Env) : d.SameEdge (d.pauseWatchdog e) := by
  unfold Dev.pauseWatchdog
  split
  · exact d.sameEdge_boot _
  · exact .refl d

theorem Dev.sameEdge_toRecovery (d : Dev) (e : Env) : d.SameEdge (d.toRecovery e) :=
  (d.sameEdge_pauseWatchdog e).trans (Dev.sameEdge_boot _ _)

theorem Dev.sameEdge_romCan (d : Dev) : d.SameEdge d.romCan := ⟨rfl, rfl, rfl⟩

end Sys2Proof.Machine
end

section
/-! SUPPORT. The straps: the number whose bits are a test of each pin, and what their latching leaves (R36). -/
namespace Sys2Proof.Machine

theorem bit_eq_testBit (v i : Nat) : bit v i = v.testBit i := by
  unfold bit
  rw [Nat.testBit_eq_decide_div_mod_eq, Bool.beq_eq_decide_eq]

theorem highs_eq_pinHighs (l : List (BitVec 23)) (i : Nat) : highs l i = pinHighs l i := by
  simp only [highs, pinHighs, bit_eq_testBit, BitVec.testBit_toNat, List.countP_eq_length_filter]

/-- A sum of distinct powers of two is the number with those bits. -/
theorem sum_b2n_two_pow (n : Nat) (f : Nat → Bool) :
    ((List.range n).map fun i => b2n (f i) * 2 ^ i).sum = Nat.ofBits fun i : Fin n => f i := by
  induction n generalizing f with
  | zero => rfl
  | succ n ih =>
    have first : b2n (f 0) = (f 0).toNat := by cases f 0 <;> rfl
    have rest : ((List.range n).map fun i => b2n (f (i + 1)) * 2 ^ (i + 1)).sum = 2 * Nat.ofBits fun i : Fin n => f (i + 1) := by
      rw [← ih fun i => f (i + 1), ← List.sum_map_mul_left]
      simp only [pow_succ', Nat.mul_left_comm _ 2]
    rw [List.range_succ_eq_map, List.map_cons, List.sum_cons, List.map_map, Nat.ofBits_succ, pow_zero, mul_one, first, Nat.add_comm]
    exact congrArg (· + _) rest

theorem pinsWhere_eq_ofBits (l : List (BitVec 23)) (p : Nat → Bool) : pinsWhere l p = Nat.ofBits fun i : Fin 23 => p (pinHighs l i) := by
  unfold pinsWhere
  rw [sum_b2n_two_pow 23 fun i => p (highs l i)]
  simp only [highs_eq_pinHighs]

theorem getLsbD_pinsWhere (l : List (BitVec 23)) (p : Nat → Bool) {i : Nat} (hi : i < 23) :
    (BitVec.ofNat 23 (pinsWhere l p)).getLsbD i = p (pinHighs l i) := by
  rw [BitVec.getLsbD_ofNat, pinsWhere_eq_ofBits, Nat.testBit_ofBits_lt _ _ hi]
  simp only [hi, decide_true, Bool.true_and]

/-- The board edge with the straps latched at the samples `l` (R36, R38). -/
def Board.latchedAt (b : Board) (l : List (BitVec 23)) : Board :=
  { b with
    samples := l
    latched := true
    strapRaw := BitVec.ofNat 23 (pinsWhere l fun k => 5 ≤ k)
    unstable := BitVec.ofNat 23 (pinsWhere l fun k => k != 0 && k != 8)
    notes := BitVec.ofNat 3 (strapNotes (pinsWhere l fun k => 5 ≤ k)) }

/-- The latching changes the board edge as `latchedAt` says, and makes nothing due. -/
theorem Dev.latchStraps_edge (d : Dev) (e : Env) (l : List (BitVec 23)) :
    ({ d with board := d.board.latchedAt l } : Dev).SameEdge (d.latchStraps e l) := by
  unfold Dev.latchStraps
  extract_lets raw _ _ _ latched rom sent
  have hLatched : ({ d with board := d.board.latchedAt l } : Dev).SameEdge latched :=
    (Dev.sameEdge_boot _ _).trans (Dev.sameEdge_fabricId _ _)
  have hSent : rom.SameEdge sent := by
    unfold sent
    split
    · exact (rom.sameEdge_send _).trans (Dev.sameEdge_send _ _)
    · exact .refl rom
  refine (hLatched.trans (latched.sameEdge_romCan.trans hSent)).trans ?_
  split
  · exact sent.sameEdge_toRecovery e
  · exact sent.sameEdge_romSlots

theorem exec_strapSample (pins : BitVec 23) (s : State) : exec (.strapSample pins) s = execStrapSample pins s := rfl

/-- With the straps latched, or before its time, a sample does not count. -/
theorem exec_strapSample_ignored (pins : BitVec 23) (s : State) (hs : s.rests = true)
    (h : s.dev.board.latched = true ∨ s.time < 20000 * (s.dev.board.samples.length + 1)) : exec (.strapSample pins) s = .next s := by
  obtain ⟨hq, hst, -, -⟩ := (State.rests_iff s).mp hs
  have skips : (!s.dev.board.rstN || s.dev.board.latched || decide (s.time < 20000 * (s.dev.board.samples.length + 1))) = true := by
    simp [or_assoc, h]
  rw [exec_strapSample, execStrapSample]
  exact State.go_to s _ s.dev hs (if_pos skips) hq hst

section
variable {pins : BitVec 23} {s : State} (hs : s.rests = true) (hr : s.dev.board.rstN = true) (hl : s.dev.board.latched = false)
  (ht : 20000 * (s.dev.board.samples.length + 1) ≤ s.time)

include hr hl ht in
theorem strapSample_not_skipped :
    ¬(!s.dev.board.rstN || s.dev.board.latched || decide (s.time < 20000 * (s.dev.board.samples.length + 1))) = true := by
  simp [hr, hl, ht]

include hs hr hl ht

/-- A sample that counts, before the eighth, is kept. -/
theorem exec_strapSample_counts (hn : (s.dev.board.samples ++ [pins]).length < 8) :
    exec (.strapSample pins) s =
      .next { s with dev := { s.dev with board := { s.dev.board with samples := s.dev.board.samples ++ [pins] } } } := by
  obtain ⟨hq, hst, -, -⟩ := (State.rests_iff s).mp hs
  rw [exec_strapSample, execStrapSample]
  exact State.go_to s _ _ hs ((if_neg (strapSample_not_skipped hr hl ht)).trans (if_pos hn)) (Dev.quiet_board s.dev _ hq rfl) hst

/-- The eighth sample that counts latches the straps. -/
theorem exec_strapSample_latches (hn : (s.dev.board.samples ++ [pins]).length = 8) :
    exec (.strapSample pins) s = .next { s with dev := s.dev.latchStraps s.env (s.dev.board.samples ++ [pins]) } := by
  obtain ⟨hq, hst, -, -⟩ := (State.rests_iff s).mp hs
  have edge := s.dev.latchStraps_edge s.env (s.dev.board.samples ++ [pins])
  rw [exec_strapSample, execStrapSample]
  exact State.go_to s _ _ hs ((if_neg (strapSample_not_skipped hr hl ht)).trans (if_neg (by omega)))
    (edge.quiet.trans (Dev.quiet_board s.dev _ hq rfl)) (edge.stores.trans hst)

end

/-- Settles O7: the eighth sample's board edge is `latchedAt`, whose two masks are read bit by bit. -/
theorem strapMajority : Obligations.StrapMajority := by
  unfold Obligations.StrapMajority
  refine ⟨fun pins s hs _ h => exec_strapSample_ignored pins s hs h,
    fun pins s hs hr hl ht => ⟨exec_strapSample_counts hs hr hl ht, fun hn => ?_⟩⟩
  have edge := (s.dev.latchStraps_edge s.env (s.dev.board.samples ++ [pins])).board
  refine ⟨_, _, exec_strapSample_latches hs hr hl ht hn, by rw [edge]; rfl, rfl, fun i hi => ?_⟩
  rw [edge]
  exact ⟨getLsbD_pinsWhere _ _ hi, (BitVec.testBit_toNat _).trans (getLsbD_pinsWhere _ _ hi)⟩

end Sys2Proof.Machine
end

section
/-! SUPPORT. USDO on CAN FD (R101 to R105): what an initiate or a segment leaves at the server, what a refusal and an abort leave, and what a
port in bus-off does. -/
namespace Sys2Proof.Machine

/-! ### What leaves the board edge and the pending work alone -/

theorem Dev.sameEdge_count (d : Dev) (idx sub k : Nat) : d.SameEdge (d.count idx sub k) := by
  unfold Dev.count
  split
  · exact d.sameEdge_setOd _ _ _
  · exact ⟨rfl, rfl, rfl⟩

theorem Dev.sameEdge_srv (d : Dev) (x : Server) : d.SameEdge { d with srv := x } := ⟨rfl, rfl, rfl⟩

theorem Dev.sameEdge_setUsdo (d : Dev) (p : Nat) (x : Option Xfer) : d.SameEdge (d.setUsdo p x) := d.sameEdge_srv _

theorem Dev.sameEdge_journalChange (d : Dev) (e : Env) (rt : Route) (idx sub : Nat) (st : Status) (c : Nat) :
    d.SameEdge (d.journalChange e rt idx sub st c) := d.sameEdge_srv _

/-- A command from rest that leaves the edge alone answers its own effect. -/
theorem State.go_sameEdge (s : State) (f : Env → Dev → Dev) (d' : Dev) (hs : s.rests = true) (h : f s.env s.dev = d') (he : s.dev.SameEdge d') :
    s.go f = .next { s with dev := d' } := by
  obtain ⟨hq, hst, -, -⟩ := (State.rests_iff s).mp hs
  exact State.go_to s f d' hs h (he.quiet.trans hq) (he.stores.trans hst)

/-! ### Requests at the server -/

/-- Where no row has brought a request, none is served with the command. -/
theorem Dev.serveRows_none (d : Dev) (e : Env) (h : d.srv.reqs.any (·.row) = false) : d.serveRows e = d := by
  unfold Dev.serveRows
  split
  · rfl
  · exact foldl_fixed _ _ _ fun _ _ => if_neg (by simp [h])

/-- A USDO command from rest answers its own effect where no row's request waits after it. -/
theorem State.go_serveRows_none (s : State) (f : Env → Dev → Dev) (d' : Dev) (hs : s.rests = true) (h : f s.env s.dev = d')
    (hr : d'.srv.reqs.any (·.row) = false) (he : s.dev.SameEdge d') :
    s.go (fun e d => (f e d).serveRows e) = .next { s with dev := d' } :=
  State.go_sameEdge s _ d' hs (by rw [h]; exact Dev.serveRows_none d' _ hr) he

theorem Dev.closing_of_not_activating (d : Dev) (h : d.srv.activating = false) : d.closing = false := by
  simp [Dev.closing, h]

/-- A request that finds the server open and none waiting waits alone. -/
theorem Dev.odArrive_alone (d : Dev) (e : Env) (r : Req) (ha : d.srv.activating = false) (hr : d.srv.reqs = []) :
    d.odArrive e r = { d with srv := { d.srv with reqs := [{ r with time := e.time }] } } := by
  unfold Dev.odArrive
  rw [if_neg (by simp [d.closing_of_not_activating ha]), hr]
  rfl

/-! ### A port and its transfer -/

theorem Dev.canHere_iff (d : Dev) (p : Fin 2) : d.canHere p = true ↔
    (d.boot.firmware = true ∨ d.boot.restricted = true) ∧ d.canOn = true ∧ bit (d.od 0x2002 4) p = true ∧ smGet false d.board.busOff p = false := by
  simp only [Dev.canHere, Bool.and_eq_true, Bool.or_eq_true, Bool.not_eq_true', and_assoc]

theorem Dev.canOn_of_canHere {d : Dev} {p : Fin 2} (h : d.canHere p = true) : d.canOn = true := ((d.canHere_iff p).mp h).2.1

theorem Dev.enabled_of_canHere {d : Dev} {p : Fin 2} (h : d.canHere p = true) : bit (d.od 0x2002 4) p = true :=
  ((d.canHere_iff p).mp h).2.2.1

theorem Dev.chunkEnd_canOn (d : Dev) (e : Env) (h : d.canOn = true) : d.chunkEnd e = e.time + d.od 0x2002 3 * 1000000 := by
  rw [Dev.chunkEnd, if_pos h]

@[simp] theorem Dev.setUsdo_usdo (d : Dev) (p : Nat) (x : Option Xfer) : (d.setUsdo p x).usdo p = x := smGet_set_same _ _ _ _

/-- A value that fits one frame goes out as the last part, and its transfer is closed. -/
theorem Dev.usdoPart_last (d : Dev) (e : Env) (p : Fin 2) (x : Xfer) (h : x.data.length ≤ 56) :
    d.usdoPart e p x = (d.setUsdo p none).send (.can p "last segment" 0 x.data) := by
  have none_left : x.data.drop usdoChunk = [] := List.drop_eq_nil_of_le h
  have whole : x.data.take usdoChunk = x.data := List.take_of_length_le h
  rw [Dev.usdoPart, none_left, whole]
  rfl

/-! ### Counters, and what a refusal on CAN FD leaves -/

/-- A counter within its width rises. -/
theorem Dev.count_of_lt (d : Dev) (idx sub k : Nat) (h : d.od idx sub + k < 256 ^ odSize idx sub) :
    d.count idx sub k = d.setOd idx sub (d.od idx sub + k) := if_pos h

@[simp] theorem Dev.count_reqs (d : Dev) (idx sub k : Nat) : (d.count idx sub k).srv.reqs = d.srv.reqs := by
  unfold Dev.count
  split <;> rfl

/-- Setting an object of a table leaves what the others read, whatever their default. -/
theorem smGet_smSet_other {α : Type} [DecidableEq α] (dflt dflt' : α) (m : SMap α) {k j : Nat} (v : α) (hj : j ≠ k) :
    smGet dflt (smSet dflt' m k v) j = smGet dflt m j := by
  unfold smSet
  split
  · exact smGet_del_other dflt m k j hj
  · rw [smGet_ins_other dflt _ k j v hj, smGet_del_other dflt m k j hj]

/-- Setting an entry of the dictionary leaves the others. -/
theorem Dev.setOd_od_other (d : Dev) {idx sub k m : Nat} (v : Nat) (hm : m < 256) (hs : sub < 256) (h : (k, m) ≠ (idx, sub)) :
    (d.setOd idx sub v).od k m = d.od k m := by
  have key : k * 256 + m ≠ idx * 256 + sub := fun hk => h (by rw [Prod.mk.injEq]; omega)
  exact smGet_smSet_other _ _ _ v key

/-- The counter of aborts and the two of bus-off are 32 bits wide. -/
theorem odSize_usdoAborts : odSize 0x2002 7 = 4 := by decide

theorem odSize_busOff (p : Fin 2) : odSize 0x2002 (5 + p) = 4 := by
  fin_cases p <;> decide

/-- A refusal on CAN FD is an abort, counted; a disabled port sends nothing (R100, R130). -/
theorem Dev.odAnswer_can_refused (d : Dev) (p : Fin 2) (st : Status) (ab : Nat) (hst : st ≠ .ok) :
    d.odAnswer (.can p) st ab [] = if bit (d.od 0x2002 4) p then (d.send (.can p "abort" ab [])).count 0x2002 7 1 else d := by
  by_cases enabled : bit (d.od 0x2002 4) p = true
  · simp only [Dev.odAnswer, enabled, Bool.not_true, Bool.false_eq_true, if_false, if_true, if_neg hst]
  · simp only [Dev.odAnswer, enabled, Bool.not_false, Bool.false_eq_true, if_false, if_true]

theorem Dev.sameEdge_odAnswer_can (d : Dev) (p : Fin 2) (st : Status) (ab : Nat) (hst : st ≠ .ok) : d.SameEdge (d.odAnswer (.can p) st ab []) := by
  rw [d.odAnswer_can_refused p st ab hst]
  split
  · exact (d.sameEdge_send _).trans (Dev.sameEdge_count _ _ _ _)
  · exact .refl d

/-- A refusal on CAN FD changes what goes out and the counter of aborts, and nothing else. -/
theorem Dev.odAnswer_can_refused_frame (d : Dev) (p : Fin 2) (st : Status) (ab : Nat) (hst : st ≠ .ok) (hn : d.od 0x2002 7 + 1 < 2 ^ 32) :
    ∃ od, d.odAnswer (.can p) st ab [] =
        { d with out := d.out ++ (if bit (d.od 0x2002 4) p then [.can p "abort" ab []] else []), srv := { d.srv with od := od } } ∧
      ∀ k m, (k, m) ≠ (0x2002, 7) → m < 256 → ({ d with srv := { d.srv with od := od } } : Dev).od k m = d.od k m := by
  rw [d.odAnswer_can_refused p st ab hst]
  split
  · rw [Dev.count_of_lt _ _ _ _ (by rw [odSize_usdoAborts]; exact hn)]
    exact ⟨_, rfl, fun k m hk hm => d.setOd_od_other _ hm (by decide) hk⟩
  · exact ⟨d.srv.od, by rw [List.append_nil], fun k m _ _ => rfl⟩

/-- A port that serves USDO refuses with an abort. -/
theorem Dev.odRetry_canHere (d : Dev) (e : Env) (p : Fin 2) (write : Bool) (idx sub : Nat) (h : d.canHere p = true) :
    d.odRetry e (.can p) write idx sub =
      ((if write then d.journalChange e (.can p) idx sub .retry 0 else d).send (.can p "abort" 0x08000021 [])).count 0x2002 7 1 := by
  have enabled := Dev.enabled_of_canHere h
  unfold Dev.odRetry
  rw [Dev.odAnswer_can_refused _ _ _ _ (by decide)]
  cases write
  · exact if_pos enabled
  · exact if_pos enabled

/-! ### The abort of a transfer -/

theorem Dev.usdoAbort_some (d : Dev) (e : Env) (p : Fin 2) (st : Status) {x : Xfer} (h : d.usdo p = some x) :
    d.usdoAbort e p st =
      if x.write then ((d.setUsdo p none).odAnswer (.can p) st (abortOf st) []).journalChange e (.can p) x.idx x.sub st 0
      else (d.setUsdo p none).odAnswer (.can p) st (abortOf st) [] := by
  rw [Dev.usdoAbort, h]

theorem Dev.sameEdge_usdoAbort (d : Dev) (e : Env) (p : Fin 2) (st : Status) (hst : st ≠ .ok) : d.SameEdge (d.usdoAbort e p st) := by
  have answered : d.SameEdge ((d.setUsdo p none).odAnswer (.can p) st (abortOf st) []) :=
    (d.sameEdge_setUsdo _ _).trans (Dev.sameEdge_odAnswer_can _ _ _ _ hst)
  cases h : d.usdo p with
  | none => rw [Dev.usdoAbort, h]; exact .refl d
  | some x =>
    rw [d.usdoAbort_some e p st h]
    split
    · exact answered.trans (Dev.sameEdge_journalChange _ _ _ _ _ _ _)
    · exact answered

/-- An aborted transfer is closed and told, changes no entry but the counter of aborts, and, if it wrote, draws a change record (R103, R119). -/
theorem Dev.usdoAbort_frame (d : Dev) (e : Env) (p : Fin 2) (st : Status) {x : Xfer} (hst : st ≠ .ok) (h : d.usdo p = some x)
    (hn : d.od 0x2002 7 + 1 < 2 ^ 32) :
    let t := d.usdoAbort e p st
    t.usdo p = none ∧ t.out = d.out ++ (if bit (d.od 0x2002 4) p then [.can p "abort" (abortOf st) []] else []) ∧
      (∀ k m, (k, m) ≠ (0x2002, 7) → m < 256 → t.od k m = d.od k m) ∧ t.srv.reqs = d.srv.reqs ∧
      (x.write = true → t.srv.seq = d.srv.seq + 1 ∧ t.srv.ring.head? = some ⟨d.srv.seq + 1, e.time, x.idx, x.sub, p, st.code, 0⟩) := by
  obtain ⟨od, answered, others⟩ := (d.setUsdo p none).odAnswer_can_refused_frame p st (abortOf st) hst hn
  rw [d.usdoAbort_some e p st h, answered]
  cases x.write
  · exact ⟨d.setUsdo_usdo p none, rfl, others, rfl, nofun⟩
  · exact ⟨d.setUsdo_usdo p none, rfl, others, rfl, fun _ => ⟨rfl, rfl⟩⟩

/-! ### Bus-off -/

/-- The device with a port gone bus-off: its transmit error counter has passed 255, and the bus-off is counted (R105; log entry 9). -/
def Dev.atBusOff (d : Dev) (p : Fin 2) : Dev :=
  ({ d with board := { d.board with
      busOff := smSet false d.board.busOff p true
      txErr := smSet 0 d.board.txErr p 256 } } : Dev).setOd 0x2002 (5 + p) (d.od 0x2002 (5 + p) + 1)

theorem Dev.atBusOff_not_canHere (d : Dev) (p : Fin 2) : (d.atBusOff p).canHere p = false := by
  have off : smGet false (d.atBusOff p).board.busOff p = true := smGet_set_same false d.board.busOff p true
  rw [Dev.canHere, off]
  exact Bool.and_false _

/-! ### The commands -/

theorem exec_usdoInitiate (p : Fin 2) (write : Bool) (idx : W16) (sub : Byte) (data : List Byte) (last : Bool) (s : State) :
    exec (.usdoInitiate p write idx sub data last) s = execUsdoInitiate p write idx sub data last s := rfl

theorem exec_usdoSegment (p : Fin 2) (data : List Byte) (last : Bool) (s : State) :
    exec (.usdoSegment p data last) s = execUsdoSegment p data last s := rfl

theorem exec_usdoTimeout (p : Fin 2) (s : State) : exec (.usdoTimeout p) s = execUsdoTimeout p s := rfl

theorem exec_canBusOff (p : Fin 2) (s : State) : exec (.canBusOff p) s = execCanBusOff p s := rfl

theorem exec_canBusOffRecovery (p : Fin 2) (s : State) : exec (.canBusOffRecovery p) s = execCanBusOffRecovery p s := rfl

section
variable {p : Fin 2} {s : State} (hs : s.rests = true)

include hs in
/-- A port that does not serve USDO carries nothing (R73, R101, R105). -/
theorem exec_usdoInitiate_notHere (write : Bool) (idx : W16) (sub : Byte) (data : List Byte) (last : Bool) (hc : s.dev.canHere p = false)
    (hr : s.dev.srv.reqs.any (·.row) = false) : exec (.usdoInitiate p write idx sub data last) s = .next s := by
  rw [exec_usdoInitiate, execUsdoInitiate]
  exact State.go_serveRows_none s _ s.dev hs (if_pos (by rw [hc]; rfl)) hr (.refl _)

include hs in
/-- A port that goes bus-off has the bus-off counted, and serves USDO no longer. -/
theorem exec_canBusOff_counts (hc : s.dev.canHere p = true) (hn : s.dev.od 0x2002 (5 + p) + 1 < 2 ^ 32) :
    exec (.canBusOff p) s = .next { s with dev := s.dev.atBusOff p } := by
  obtain ⟨hq, hst, -, -⟩ := (State.rests_iff s).mp hs
  rw [exec_canBusOff, execCanBusOff]
  refine State.go_to s _ _ hs ?_ (Dev.quiet_board s.dev _ hq rfl) hst
  rw [if_neg (by rw [hc]; exact Bool.false_ne_true)]
  exact Dev.count_of_lt _ _ _ _ (by rw [odSize_busOff]; exact hn)

include hs in
/-- The recovery clears the bus-off and both error counters. -/
theorem exec_canBusOffRecovery_clears : exec (.canBusOffRecovery p) s = .next { s with dev := { s.dev with board := { s.dev.board with
    busOff := smSet false s.dev.board.busOff p false, txErr := smSet 0 s.dev.board.txErr p 0, rxErr := smSet 0 s.dev.board.rxErr p 0 } } } := by
  obtain ⟨hq, hst, -, -⟩ := (State.rests_iff s).mp hs
  rw [exec_canBusOffRecovery, execCanBusOffRecovery]
  exact State.go_to s _ _ hs rfl (Dev.quiet_board s.dev _ hq rfl) hst

include hs in
theorem exec_usdoTimeout_due {x : Xfer} (hx : s.dev.usdo p = some x) (ht : x.deadline ≤ s.time) :
    exec (.usdoTimeout p) s = .next { s with dev := s.dev.usdoAbort s.env p .timeout } := by
  rw [exec_usdoTimeout, execUsdoTimeout]
  refine State.go_sameEdge s _ _ hs ?_ (s.dev.sameEdge_usdoAbort _ _ _ (by decide))
  simp only [hx]
  exact if_pos ht

section
variable (hc : s.dev.canHere p = true)
include hs hc

/-- An initiate on a port with a transfer open is refused, and the transfer stays (R102). -/
theorem exec_usdoInitiate_open (write : Bool) (idx : W16) (sub : Byte) (data : List Byte) (last : Bool) (ho : s.dev.usdoOpen p = true)
    (hr : s.dev.srv.reqs.any (·.row) = false) :
    exec (.usdoInitiate p write idx sub data last) s = .next { s with dev :=
      ((if write then s.dev.journalChange s.env (.can p) idx.toNat sub.toNat .retry 0 else s.dev).send (.can p "abort" 0x08000021 [])).count 0x2002 7 1 } := by
  rw [exec_usdoInitiate, execUsdoInitiate]
  refine State.go_serveRows_none s _ _ hs ?_ ?_ ?_
  · simp only [hc, ho, Bool.not_true, Bool.false_eq_true, if_false, Bool.true_or, if_true]
    exact Dev.odRetry_canHere _ _ _ _ _ _ hc
  · rw [Dev.count_reqs]
    cases write <;> exact hr
  · cases write
    · exact (Dev.sameEdge_send _ _).trans (Dev.sameEdge_count _ _ _ _)
    · exact (Dev.sameEdge_journalChange _ _ _ _ _ _ _).trans ((Dev.sameEdge_send _ _).trans (Dev.sameEdge_count _ _ _ _))

/-- A read on an idle port waits at the server. -/
theorem exec_usdoInitiate_read (idx : W16) (sub : Byte) (ho : s.dev.usdoOpen p = false) (hr : s.dev.srv.reqs = []) (ha : s.dev.srv.activating = false) :
    exec (.usdoInitiate p false idx sub [] true) s = .next { s with dev := { s.dev with srv := { s.dev.srv with
      reqs := [{ route := .can p, op := .read, idx := idx.toNat, sub := sub.toNat, time := s.time }] } } } := by
  rw [exec_usdoInitiate, execUsdoInitiate]
  refine State.go_serveRows_none s _ _ hs ?_ rfl (Dev.sameEdge_srv _ _)
  simp only [hc, ho, s.dev.closing_of_not_activating ha, Bool.not_true, Bool.not_false, Bool.false_eq_true, if_false, Bool.or_self, if_true]
  exact Dev.odArrive_alone _ _ _ ha hr

/-- A write whose segments follow opens a transfer with its deadline (R101, R103). -/
theorem exec_usdoInitiate_write (idx : W16) (sub : Byte) (data : List Byte) (ho : s.dev.usdoOpen p = false) (hcl : s.dev.closing = false)
    (hr : s.dev.srv.reqs = []) :
    exec (.usdoInitiate p true idx sub data false) s = .next { s with dev :=
      (s.dev.setUsdo p (some ⟨idx.toNat, sub.toNat, true, data, s.time + s.dev.od 0x2002 3 * 1000000, .can p⟩)).send (.can p "segment response" 0 []) } := by
  rw [exec_usdoInitiate, execUsdoInitiate]
  refine State.go_serveRows_none s _ _ hs ?_ (congrArg (List.any · _) hr) ((Dev.sameEdge_setUsdo _ _ _).trans (Dev.sameEdge_send _ _))
  simp only [hc, ho, hcl, Bool.not_true, Bool.false_eq_true, if_false, Bool.or_self, s.dev.chunkEnd_canOn _ (Dev.canOn_of_canHere hc), State.env_time]

section
variable {x : Xfer} (hx : s.dev.usdo p = some x) (hr : s.dev.srv.reqs = [])
include hx hr

/-- A segment that is not the last is kept, and the deadline runs anew (R101, R103). -/
theorem exec_usdoSegment_more (data : List Byte) (hw : x.write = true) :
    exec (.usdoSegment p data false) s = .next { s with dev := (s.dev.setUsdo p (some { x with
      data := x.data ++ data, deadline := s.time + s.dev.od 0x2002 3 * 1000000 })).send (.can p "segment response" 0 []) } := by
  rw [exec_usdoSegment, execUsdoSegment]
  refine State.go_serveRows_none s _ _ hs ?_ (congrArg (List.any · _) hr) ((Dev.sameEdge_setUsdo _ _ _).trans (Dev.sameEdge_send _ _))
  simp only [hx, hc, hw, Bool.not_true, Bool.false_eq_true, if_false, s.dev.chunkEnd_canOn _ (Dev.canOn_of_canHere hc), State.env_time]

/-- The last part of a read closes its transfer (R101). -/
theorem exec_usdoSegment_readEnd (data : List Byte) (last : Bool) (hw : x.write = false) (hl : x.data.length ≤ 56) :
    exec (.usdoSegment p data last) s = .next { s with dev := (s.dev.setUsdo p none).send (.can p "last segment" 0 x.data) } := by
  rw [exec_usdoSegment, execUsdoSegment]
  refine State.go_serveRows_none s _ _ hs ?_ (congrArg (List.any · _) hr) ((Dev.sameEdge_setUsdo _ _ _).trans (Dev.sameEdge_send _ _))
  simp only [hx, hc, hw, Bool.not_true, Bool.not_false, Bool.false_eq_true, if_false, if_true, s.dev.usdoPart_last _ _ _ hl]

/-- The last segment of a write hands the whole value to the server (R104). -/
theorem exec_usdoSegment_last (data : List Byte) (hw : x.write = true) (ha : s.dev.srv.activating = false) :
    exec (.usdoSegment p data true) s = .next { s with dev := { s.dev.setUsdo p none with srv := { (s.dev.setUsdo p none).srv with
      reqs := [{ route := .can p, op := .write, idx := x.idx, sub := x.sub, data := x.data ++ data, len := (x.data ++ data).length, time := s.time }] } } } := by
  rw [exec_usdoSegment, execUsdoSegment]
  refine State.go_serveRows_none s _ _ hs ?_ rfl ((Dev.sameEdge_setUsdo _ _ _).trans (Dev.sameEdge_srv _ _))
  simp only [hx, hc, hw, Bool.not_true, Bool.false_eq_true, if_false, if_true]
  exact Dev.odArrive_alone (s.dev.setUsdo p none) _ _ ha hr

end
end
end

/-- A port in bus-off carries nothing, in a state that rests as the one before did. -/
theorem canBusOff_silences {p : Fin 2} {s : State} (hs : s.rests = true) (hr : s.dev.srv.reqs.any (·.row) = false) (idx : W16) (sub : Byte) :
    exec (.usdoInitiate p false idx sub [] true) { s with dev := s.dev.atBusOff p } = .next { s with dev := s.dev.atBusOff p } := by
  obtain ⟨hq, hst, hah, hcalm⟩ := (State.rests_iff s).mp hs
  have rests : ({ s with dev := s.dev.atBusOff p } : State).rests = true :=
    (State.rests_iff _).mpr ⟨Dev.quiet_board s.dev _ hq rfl, hst, hah, hcalm⟩
  exact exec_usdoInitiate_notHere rests _ _ _ _ _ (s.dev.atBusOff_not_canHere p) hr

/-- Settles O20: each clause is what one command of the port leaves. -/
theorem canServer : Obligations.CanServer := by
  unfold Obligations.CanServer
  refine ⟨fun p idx sub s hs hc ho hr ha => exec_usdoInitiate_read hs hc idx sub ho hr ha,
    fun p idx sub data s hs hc ho hcl hr => exec_usdoInitiate_write hs hc idx sub data ho hcl hr,
    fun p data x s hs hc hx hw hr => exec_usdoSegment_more hs hc hx hr data hw,
    fun p data last x s hs hc hx hw hl hr => exec_usdoSegment_readEnd hs hc hx hr data last hw hl,
    fun p data x s hs hc hx hw hr ha => ⟨_, exec_usdoSegment_last hs hc hx hr data hw ha, s.dev.setUsdo_usdo p none, rfl⟩,
    fun p write idx sub data last s hs hc ho hr => exec_usdoInitiate_open hs hc write idx sub data last ho hr,
    fun p x s hs hx ht hn => ?_,
    fun p s hs hc hn hr => ⟨_, exec_canBusOff_counts hs hc hn, Dev.setOd_od _ _ _ _, s.dev.atBusOff_not_canHere p, canBusOff_silences hs hr⟩,
    fun p s hs => exec_canBusOffRecovery_clears hs⟩
  obtain ⟨closed, out, others, reqs, journaled⟩ := s.dev.usdoAbort_frame s.env p .timeout (by decide) hx hn
  exact ⟨_, exec_usdoTimeout_due hs hx ht, closed, out, others, reqs, rfl, journaled⟩

end Sys2Proof.Machine
end

section
/-! SUPPORT. Requantisation (R464 to R466): between which integers a product is rounded, and that neither the rounding nor the clamp falls. -/
namespace Sys2Proof.Machine

/-- The rounding takes the quotient or the integer above it. -/
theorem rqRound_bounds (p : Int) (s : Nat) : p / 2 ^ s ≤ rqRound p s ∧ rqRound p s ≤ p / 2 ^ s + 1 := by
  simp only [rqRound]
  split_ifs <;> omega

/-- Over products of one quotient the rounding does not fall: the remainder rises with the product, and it alone decides whether the rounding is up. -/
theorem rqRound_le_of_div_eq {p p' : Int} {s : Nat} (h : p ≤ p') (hq : p / 2 ^ s = p' / 2 ^ s) : rqRound p s ≤ rqRound p' s := by
  simp only [rqRound, ← hq, Bool.or_eq_true, Bool.and_eq_true, decide_eq_true_eq]
  by_cases hs : s = 0
  · simp only [hs, if_true, le_refl]
  simp only [hs, if_false]
  have hr : p - p / 2 ^ s * 2 ^ s ≤ p' - p / 2 ^ s * 2 ^ s := Int.sub_le_sub_right h _
  generalize p - p / 2 ^ s * 2 ^ s = r at hr ⊢
  generalize p' - p / 2 ^ s * 2 ^ s = r' at hr ⊢
  split_ifs <;> omega

/-- R465: rounding to the nearest integer, ties to even, does not fall. Where the quotient rises, the integer above the lower quotient is at most the
higher one. -/
theorem rqRound_monotone (s : Nat) : Monotone (rqRound · s) := by
  intro p p' h
  have hq : p / 2 ^ s ≤ p' / 2 ^ s := Int.ediv_le_ediv (by positivity) h
  rcases hq.eq_or_lt with heq | hlt
  · exact rqRound_le_of_div_eq h heq
  · calc rqRound p s ≤ p / 2 ^ s + 1 := (rqRound_bounds p s).2
      _ ≤ p' / 2 ^ s := hlt
      _ ≤ rqRound p' s := (rqRound_bounds p' s).1

/-- R466: the positive multiplier keeps the order of the inputs, and the zero point and the clamp keep that of the rounded products. -/
theorem requant_monotone {k : Rq} (hm : 0 ≤ k.m) : Monotone (requant · k) := by
  intro x1 x2 h
  have hround : rqRound (x1 * k.m) k.s ≤ rqRound (x2 * k.m) k.s := rqRound_monotone k.s (Int.mul_le_mul_of_nonneg_right h hm)
  exact min_le_min_right k.hi (max_le_max_right k.lo (Int.add_le_add_right hround k.z))

/-- Settles O48: a positive multiplier is not negative. -/
theorem requantMonotone : Obligations.RequantMonotone := by
  unfold Obligations.RequantMonotone
  exact fun x1 x2 k hm h => requant_monotone hm.le h

end Sys2Proof.Machine
end

section
/-! SUPPORT. Traffic: what frames and messages that come and go leave as it was, of the ports, the counters and the rest of the device (R558 to R563). -/
namespace Sys2Proof.Machine

/-! ### Tables -/

/-- Reading a table whose objects are all changed by one function that keeps the default. -/
theorem smGet_map {α : Type} (dflt : α) (g : α → α) (h : g dflt = dflt) (m : SMap α) (k : Nat) :
    smGet dflt (m.map fun c => (c.1, g c.2)) k = g (smGet dflt m k) := by
  induction m with
  | nil => exact h.symm
  | cons c r ih =>
    show (if c.1 = k then g c.2 else smGet dflt (r.map fun c => (c.1, g c.2)) k) = g (if c.1 = k then c.2 else smGet dflt r k)
    split
    · rfl
    · exact ih

theorem smDel_smIns {α : Type} (m : SMap α) (k : Nat) (v : α) : smDel (smIns k v m) k = smDel m k := by
  induction m with
  | nil => simp [smIns, smDel]
  | cons c r ih =>
    unfold smIns
    split
    · simp [smDel]
    · unfold smDel at ih ⊢
      rw [List.filter_cons, List.filter_cons, ih]

theorem smDel_smDel {α : Type} (m : SMap α) (k : Nat) : smDel (smDel m k) k = smDel m k := by
  simp [smDel, List.filter_filter]

/-- Of two settings of an object the later one stays. -/
theorem smSet_smSet {α : Type} [DecidableEq α] (dflt : α) (m : SMap α) (k : Nat) (v w : α) :
    smSet dflt (smSet dflt m k v) k w = smSet dflt m k w := by
  have del : smDel (smSet dflt m k v) k = smDel m k := by
    unfold smSet
    split
    · exact smDel_smDel m k
    · rw [smDel_smIns, smDel_smDel]
  simp only [smSet] at del ⊢
  rw [del]

/-- A property of every object of a table, kept by setting one that has it. -/
theorem smSet_all {α : Type} [DecidableEq α] (dflt : α) (p : α → Bool) (m : SMap α) (k : Nat) (v : α) (hv : p v = true)
    (h : (m.all fun c => p c.2) = true) : ((smSet dflt m k v).all fun c => p c.2) = true := by
  rw [List.all_eq_true] at h ⊢
  intro c hc
  unfold smSet at hc
  split at hc
  · exact h c (List.mem_of_mem_filter hc)
  · rcases mem_smIns k v _ c hc with rfl | hc
    · exact hv
    · exact h c (List.mem_of_mem_filter hc)

theorem Dev.setPort_setPort (d : Dev) (p : Nat) (x y : Port) : (d.setPort p x).setPort p y = d.setPort p y :=
  congrArg (fun m => ({ d with fabric := { d.fabric with ports := m } } : Dev)) (smSet_smSet _ _ _ _ _)

theorem Dev.port_setPort (d : Dev) (p q : Nat) (x : Port) : (d.setPort p x).port q = if q = p then x else d.port q := smGet_set _ _ _ _ _

@[simp] theorem Dev.count_fabric (d : Dev) (idx sub k : Nat) : (d.count idx sub k).fabric = d.fabric := by
  unfold Dev.count
  split <;> rfl

@[simp] theorem Dev.count_link (d : Dev) (idx sub k : Nat) : (d.count idx sub k).link = d.link := by
  unfold Dev.count
  split <;> rfl

@[simp] theorem Dev.count_port (d : Dev) (idx sub k p : Nat) : (d.count idx sub k).port p = d.port p := by
  rw [Dev.port, Dev.count_fabric, Dev.port]

/-- A counter leaves the other entries. -/
theorem Dev.count_od_other (d : Dev) {idx sub n m : Nat} (k : Nat) (hm : m < 256) (hs : sub < 256) (h : (n, m) ≠ (idx, sub)) :
    (d.count idx sub k).od n m = d.od n m := by
  unfold Dev.count
  split
  · exact d.setOd_od_other _ hm hs h
  · exact (d.draw.2).setOd_od_other _ hm hs h

/-! ### Traffic -/

/-- The port without what frames that come and go move: sequence numbers, credits, queues and the state of the link layer. -/
def Port.bare (x : Port) : Port :=
  { x with txSeq := 0, rxSeq := 0, unacked := [], queued := [], credits := [], rxRoom := [], owesLack := false, lnakSent := false, lastSend := 0 }

/-- The device without what frames and messages that come and go move: ports, counters, and what waits to go out. -/
def Dev.bare (d : Dev) : Dev :=
  { d with
    fabric := { d.fabric with ports := [], chosen := [] }
    srv := {}
    link := { d.link with held := [], msixPend := [] }
    out := []
    free := 0 }

theorem Dev.stores_of_bare {d d' : Dev} (h : d'.bare = d.bare) : d'.stores = d.stores := (congrArg Dev.stores h :)

theorem Dev.violSeq_of_bare {d d' : Dev} (h : d'.bare = d.bare) : d'.link.violSeq = d.link.violSeq := (congrArg (fun x : Dev => x.link.violSeq) h :)

theorem Dev.viol_of_bare {d d' : Dev} (h : d'.bare = d.bare) : d'.link.viol = d.link.viol := (congrArg (fun x : Dev => x.link.viol) h :)

/-- The devices differ by traffic alone: by frames and messages taken or sent, and by the counters of those. -/
structure Dev.SameButTraffic (d d' : Dev) : Prop where
  bare : d'.bare = d.bare
  port : ∀ q, (d'.port q).bare = (d.port q).bare
  od : ∀ q k, k < 0xF → d'.od (portOd q) k = d.od (portOd q) k

namespace Dev.SameButTraffic

theorem refl (d : Dev) : d.SameButTraffic d := ⟨rfl, fun _ => rfl, fun _ _ _ => rfl⟩

theorem trans {a b c : Dev} (h : a.SameButTraffic b) (h' : b.SameButTraffic c) : a.SameButTraffic c :=
  ⟨h'.bare.trans h.bare, fun q => (h'.port q).trans (h.port q), fun q k hk => (h'.od q k hk).trans (h.od q k hk)⟩

theorem ite {d a b : Dev} {c : Prop} [Decidable c] (ha : d.SameButTraffic a) (hb : d.SameButTraffic b) :
    d.SameButTraffic (if c then a else b) := by
  split
  · exact ha
  · exact hb

variable {d d' : Dev} (h : d.SameButTraffic d') (q : Nat)
include h

theorem st : (d'.port q).st = (d.port q).st := (congrArg Port.st (h.port q) :)
theorem paused : (d'.port q).paused = (d.port q).paused := (congrArg Port.paused (h.port q) :)
theorem held : (d'.port q).held = (d.port q).held := (congrArg Port.held (h.port q) :)

omit q
theorem stores : d'.stores = d.stores := Dev.stores_of_bare h.bare
theorem boot : d'.boot = d.boot := (congrArg Dev.boot h.bare :)
theorem loops : d'.loops = d.loops := (congrArg Dev.loops h.bare :)
theorem fabricId : d'.fabric.id = d.fabric.id := (congrArg (fun x : Dev => x.fabric.id) h.bare :)
theorem violSeq : d'.link.violSeq = d.link.violSeq := Dev.violSeq_of_bare h.bare
theorem viol : d'.link.viol = d.link.viol := Dev.viol_of_bare h.bare

end Dev.SameButTraffic

theorem Dev.traffic_send (d : Dev) (o : Out) : d.SameButTraffic (d.send o) := ⟨rfl, fun _ => rfl, fun _ _ _ => rfl⟩

theorem Dev.traffic_pendVec (d : Dev) (fn v : Nat) : d.SameButTraffic (d.pendVec fn v) := ⟨rfl, fun _ => rfl, fun _ _ _ => rfl⟩

theorem Dev.traffic_hostSend (d : Dev) (o : Out) : d.SameButTraffic (d.hostSend o) := by
  unfold Dev.hostSend
  split
  · exact .refl d
  · split
    case h_1 => exact d.traffic_send o
    case h_2 => exact ⟨rfl, fun _ => rfl, fun _ _ _ => rfl⟩
    all_goals exact .refl d

theorem Dev.traffic_errMsg (d : Dev) (kind : Nat) : d.SameButTraffic (d.errMsg kind) := by
  unfold Dev.errMsg
  split
  · exact .refl d
  · exact .ite (d.traffic_hostSend _) (.refl d)

theorem Dev.count_bare (d : Dev) (idx sub k : Nat) : (d.count idx sub k).bare = d.bare := by
  unfold Dev.count
  split <;> rfl

/-- A counter that is not one of a port below 0xF. -/
theorem Dev.traffic_count (d : Dev) {idx sub : Nat} (k : Nat) (hs : sub < 256) (h : ∀ q m, m < 0xF → (portOd q, m) ≠ (idx, sub)) :
    d.SameButTraffic (d.count idx sub k) :=
  ⟨d.count_bare _ _ _, fun q => by rw [Dev.count_port], fun q m hm => d.count_od_other k (by omega) hs (h q m hm)⟩

/-- The count of frames dropped for want of a route is traffic. -/
theorem Dev.traffic_noRoute (d : Dev) (k : Nat) : d.SameButTraffic (d.count 0x2A00 9 k) :=
  d.traffic_count k (by decide) fun q m _ h => by
    have := congrArg Prod.fst h
    simp only [portOd] at this
    omega

/-- A port's counts of frames received and sent are traffic. -/
theorem Dev.traffic_frames (d : Dev) (p : Nat) {j : Nat} (hj : 0xF ≤ j) (hj' : j < 256) : d.SameButTraffic (d.count (portOd p) j 1) :=
  d.traffic_count 1 hj' fun q m hm h => by
    have := congrArg Prod.snd h
    simp only at this
    omega

theorem Dev.setPort_bare (d : Dev) (p : Nat) (x : Port) : (d.setPort p x).bare = d.bare := rfl

theorem Dev.traffic_setPort (d : Dev) (p : Nat) (x : Port) (h : x.bare = (d.port p).bare) : d.SameButTraffic (d.setPort p x) := by
  refine ⟨rfl, fun q => ?_, fun _ _ _ => rfl⟩
  rw [Dev.port_setPort]
  split
  · next hq => rw [hq, h]
  · rfl

theorem Dev.traffic_chosen (d : Dev) (m : SMap (List Nat)) : d.SameButTraffic { d with fabric := { d.fabric with chosen := m } } :=
  ⟨rfl, fun _ => rfl, fun _ _ _ => rfl⟩

theorem Dev.traffic_portSend (d : Dev) (p : Nat) (f : Frame) : d.SameButTraffic (d.portSend p f) := by
  refine .ite (.trans (.trans ?_ (Dev.traffic_send _ _)) (Dev.traffic_frames _ p (j := 0x10) (by decide) (by decide))) ?_
  · exact d.traffic_setPort p _ rfl
  · exact d.traffic_setPort p _ rfl

theorem Dev.traffic_switch (d : Dev) (f : Frame) : d.SameButTraffic (d.switch f) := by
  unfold Dev.switch
  refine .trans ?_ (Dev.traffic_chosen _ _)
  split
  · split
    · exact d.traffic_portSend _ f
    · exact d.traffic_noRoute 1
  · exact d.traffic_noRoute 1

theorem Dev.traffic_originate (d : Dev) (f : Frame) : d.SameButTraffic (d.originate f) := d.traffic_switch _

theorem Dev.traffic_raisePf (d : Dev) (v : Nat) : d.SameButTraffic (d.raisePf v) := by
  unfold Dev.raisePf Dev.pfMsg
  split
  · split
    · exact d.traffic_originate _
    · exact d.traffic_hostSend _
  · exact d.traffic_pendVec 0 v

/-- The frames queued for a port that leaves service are dropped as traffic. -/
theorem Dev.traffic_unqueue (d : Dev) (p : Nat) : d.SameButTraffic (d.unqueue p) :=
  (d.traffic_setPort p { d.port p with queued := [] } rfl).trans (Dev.traffic_noRoute _ _)

theorem Dev.port_stampPorts (d : Dev) (e : Env) (q : Nat) : (d.stampPorts e).port q =
    if (d.port q).unacked.isEmpty then { d.port q with lastSend := 0 }
    else if (d.port q).lastSend = 0 then { d.port q with lastSend := e.time } else d.port q :=
  smGet_map ({} : Port)
    (fun x => if x.unacked.isEmpty then { x with lastSend := 0 } else if x.lastSend = 0 then { x with lastSend := e.time } else x) rfl _ q

theorem Dev.traffic_stampPorts (d : Dev) (e : Env) : d.SameButTraffic (d.stampPorts e) := by
  refine ⟨rfl, fun q => ?_, fun _ _ _ => rfl⟩
  rw [Dev.port_stampPorts]
  split
  · rfl
  · split <;> rfl

end Sys2Proof.Machine
end

section
/-! SUPPORT. The end of a command after which the ports' retransmission timers alone are to be stamped (R559). -/
namespace Sys2Proof.Machine

theorem Dev.port_still (d : Dev) (p : Nat) (h : d.quiet = true) : (d.port p).still = true := by
  obtain ⟨-, -, -, -, -, -, ports, -, -⟩ := d.quiet_iff.mp h
  exact smGet_all ({} : Port) Port.still (by decide) d.fabric.ports ports p

/-- Nothing is due at the end of a command but the stamps of the ports' retransmission timers (R559). -/
structure Dev.QuietButTimers (d : Dev) : Prop where
  bare : d.bare.quiet = true
  paused : ∀ q, (d.port q).paused = []
  held : ∀ q, (d.port q).held = []

theorem Dev.quietButTimers_of_quiet (d : Dev) (h : d.quiet = true) : d.QuietButTimers := by
  obtain ⟨skies, places, faults, ckpts, mirrors, recs, -, smb, released⟩ := d.quiet_iff.mp h
  have still (q : Nat) : (d.port q).paused = [] ∧ (d.port q).held = [] := by
    have := d.port_still q h
    simp only [Port.still, Bool.and_eq_true, List.isEmpty_iff] at this
    exact this.1
  exact ⟨(Dev.quiet_iff _).mpr ⟨skies, places, faults, ckpts, mirrors, recs, rfl, smb, released⟩, fun q => (still q).1, fun q => (still q).2⟩

theorem Dev.QuietButTimers.traffic {d d' : Dev} (h : d.QuietButTimers) (t : d.SameButTraffic d') : d'.QuietButTimers :=
  ⟨by rw [t.bare]; exact h.bare, fun q => (t.paused q).trans (h.paused q), fun q => (t.held q).trans (h.held q)⟩

theorem Dev.QuietButTimers.count {d : Dev} (h : d.QuietButTimers) (idx sub k : Nat) : (d.count idx sub k).QuietButTimers := by
  refine ⟨by rw [Dev.count_bare]; exact h.bare, fun q => ?_, fun q => ?_⟩
  · rw [Dev.count_port]; exact h.paused q
  · rw [Dev.count_port]; exact h.held q

theorem Dev.QuietButTimers.setOd {d : Dev} (h : d.QuietButTimers) (idx sub v : Nat) : (d.setOd idx sub v).QuietButTimers := ⟨h.bare, h.paused, h.held⟩

theorem Dev.QuietButTimers.setPort {d : Dev} (h : d.QuietButTimers) (p : Nat) (x : Port) (hp : x.paused = []) (hh : x.held = []) :
    (d.setPort p x).QuietButTimers := by
  refine ⟨h.bare, fun q => ?_, fun q => ?_⟩
  · rw [Dev.port_setPort]
    split
    · exact hp
    · exact h.paused q
  · rw [Dev.port_setPort]
    split
    · exact hh
    · exact h.held q

theorem Dev.QuietButTimers.flushPaused {d : Dev} (h : d.QuietButTimers) (e : Env) : d.flushPaused e = d := by
  refine foldl_fixed _ _ _ fun p _ => ?_
  dsimp only
  rw [h.paused p, h.held p]
  rfl

theorem Dev.flushSkies_none (d : Dev) (e : Env) (h : (d.pages.all fun c => c.2.sky.isEmpty) = true) : d.flushSkies e = d := by
  unfold Dev.flushSkies
  rw [filter_of_all_not _ _ (by simpa using h)]
  rfl

theorem Dev.flushPlaces_none (d : Dev) (e : Env) (h : d.places = []) : d.flushPlaces e = d := by
  unfold Dev.flushPlaces
  rw [h]
  rfl

theorem Dev.settleFaults_none (d : Dev) (e : Env) (h : d.faults = []) : d.settleFaults e = d := by
  unfold Dev.settleFaults
  rw [h]
  rfl

theorem Dev.flushCkpts_none (d : Dev) (e : Env) (h : d.ckpts = []) : d.flushCkpts e = d := by
  unfold Dev.flushCkpts
  rw [h]
  rfl

theorem Dev.flushMirrors_none (d : Dev) (e : Env) (h : (d.spars.all fun c => !c.2.pend) = true) : d.flushMirrors e = d := by
  unfold Dev.flushMirrors Dev.writeMirrors
  rw [filter_of_all_not _ _ (by simpa using h)]
  rfl

theorem Dev.flushRecs_none (d : Dev) (e : Env) (h : d.link.heldRecs = []) : d.flushRecs e = d := by
  unfold Dev.flushRecs Dev.writeRecs
  rw [h]
  show ({ d with link := { d.link with heldRecs := [] } } : Dev) = d
  rw [← h]

theorem Dev.askAgain_none (d : Dev) (e : Env) (h : d.released = false) : d.askAgain e = d := by
  rw [Dev.askAgain, h]
  rfl

/-- A command after which timers alone are to be stamped ends with that. -/
theorem Dev.QuietButTimers.settle {d : Dev} (h : d.QuietButTimers) (e : Env) : d.settle e = d.stampPorts e := by
  obtain ⟨skies, places, faults, ckpts, mirrors, recs, -, smb, released⟩ := (Dev.quiet_iff _).mp h.bare
  have note : (d.stampPorts e).noteSmb = d.stampPorts e := if_pos smb
  rw [Dev.settle, d.flushSkies_none e skies, d.flushPlaces_none e places, d.settleFaults_none e faults, d.flushCkpts_none e ckpts,
    d.flushMirrors_none e mirrors, d.flushRecs_none e recs, h.flushPaused e, d.askAgain_none e released, note]

/-- A command from rest after which timers alone are to be stamped, and that writes no memory, answers its effect with the stamps. -/
theorem State.go_stamped (s : State) (f : Env → Dev → Dev) (d' : Dev) (hs : s.rests = true) (h : f s.env s.dev = d') (hq : d'.QuietButTimers)
    (hst : d'.stores = []) : s.go f = .next { s with dev := d'.stampPorts s.env } := by
  show Host.Outcome.next (s.commit ((f s.env (s.dev.leadIslands s.env)).settle s.env)) = _
  rw [Dev.leadIslands_calm _ _ (s.rests_calm hs), h, hq.settle, State.commit_quiet s (d'.stampPorts s.env) hst]

end Sys2Proof.Machine
end

section
/-! SUPPORT. A violation on a Purlin port: its counts, its record, the window of 1 ms, and the quarantine at its 64th (R583, R584). -/
namespace Sys2Proof.Machine

/-- The violations on the port in the window of the tick, with the one at hand. -/
def Port.violations (x : Port) (time : Nat) : Nat := if x.window = time / 1000000 then x.windowCount + 1 else 1

/-- The violation at hand is the 64th of its window, on a port in service: it quarantines the port (R584). -/
abbrev Port.atLimit (x : Port) (time : Nat) : Prop := x.violations time = 64 ∧ x.st = .inService

/-- The port after the violation at hand. -/
def Port.violated (x : Port) (time : Nat) : Port :=
  { x with
    window := time / 1000000
    windowCount := x.violations time
    st := if x.atLimit time then .quarantined else x.st }

/-- The device with a violation on the port counted, its kind and source kept. -/
def Dev.countedViolation (d : Dev) (p kind src : Nat) : Dev := (d.count (portOd p) 6 1).setOd (portOd p) 7 (kind % 256 + src % 4096 * 256)

/-- The device with a violation in its ring, and reported to AER (R179, R181). -/
def Dev.recorded (d : Dev) (e : Env) (rid kind answer : Nat) (header : List Byte) : Dev :=
  { d with link := { d.link.report kind header with
      violSeq := d.link.violSeq + 1
      viol := (⟨d.link.violSeq + 1, e.time, rid, kind, answer, fit 40 header⟩ :: d.link.viol).take 256 } }

/-- The device with a violation on the port counted, recorded and told. -/
def Dev.notedViolation (d : Dev) (e : Env) (p kind src : Nat) (header : List Byte) : Dev :=
  (d.countedViolation p kind src).violate e src (0x10 + kind) 0 header

/-- The device with the violation at hand counted in the port's window. -/
def Dev.windowedViolation (d : Dev) (e : Env) (p : Nat) : Dev :=
  d.setPort p { d.port p with window := e.time / 1000000, windowCount := (d.port p).violations e.time }

/-- The device with the port quarantined. -/
def Dev.quarantine (d : Dev) (p : Nat) : Dev :=
  ((d.unqueue p).count (portOd p) 8 1).setPort p { ((d.unqueue p).count (portOd p) 8 1).port p with st := .quarantined }

theorem odSize_portViolations (p : Fin 12) : odSize (portOd p) 6 = 4 := by
  fin_cases p <;> decide

theorem odSize_portQuarantines (p : Fin 12) : odSize (portOd p) 8 = 4 := by
  fin_cases p <;> decide

theorem Link.report_heldRecs (l : Link) (kind : Nat) (header : List Byte) : (l.report kind header).heldRecs = l.heldRecs := by
  unfold Link.report
  split
  · rfl
  · extract_lets x
    split <;> rfl

/-- What tells of a recorded violation is traffic. -/
theorem Dev.traffic_violate (d : Dev) (e : Env) (rid kind answer : Nat) (header : List Byte) :
    (d.recorded e rid kind answer header).SameButTraffic (d.violate e rid kind answer header) :=
  (Dev.traffic_errMsg _ _).trans (Dev.traffic_raisePf _ _)

theorem Dev.QuietButTimers.violate {d : Dev} (h : d.QuietButTimers) (e : Env) (rid kind answer : Nat) (header : List Byte) :
    (d.violate e rid kind answer header).QuietButTimers := by
  refine Dev.QuietButTimers.traffic ?_ (d.traffic_violate e rid kind answer header)
  exact ⟨Dev.quiet_link d.bare _ h.bare (Link.report_heldRecs _ _ _), h.paused, h.held⟩

section
variable {d : Dev} {e : Env} {p : Fin 12} {kind src : Nat} {header : List Byte}

theorem Dev.traffic_notedViolation :
    ((d.countedViolation p kind src).recorded e src (0x10 + kind) 0 header).SameButTraffic (d.notedViolation e p kind src header) :=
  Dev.traffic_violate _ _ _ _ _ _

theorem Dev.notedViolation_od_count (hn : d.od (portOd p) 6 + 1 < 2 ^ 32) :
    (d.notedViolation e p kind src header).od (portOd p) 6 = d.od (portOd p) 6 + 1 := by
  rw [Dev.traffic_notedViolation.od p 6 (by decide)]
  refine (Dev.setOd_od_other _ _ (by decide) (by decide) (by simp)).trans ?_
  rw [d.count_of_lt _ _ _ (by rw [odSize_portViolations]; exact hn), Dev.setOd_od]

theorem Dev.notedViolation_od_source :
    (d.notedViolation e p kind src header).od (portOd p) 7 = kind % 256 + src % 4096 * 256 :=
  (Dev.traffic_notedViolation.od p 7 (by decide)).trans (Dev.setOd_od _ _ _ _)

theorem Dev.notedViolation_od_other {k : Nat} (hk : k < 0xF) (h6 : k ≠ 6) (h7 : k ≠ 7) :
    (d.notedViolation e p kind src header).od (portOd p) k = d.od (portOd p) k := by
  rw [Dev.traffic_notedViolation.od p k hk]
  refine (Dev.setOd_od_other _ _ (by omega) (by decide) (by simp [h7])).trans ?_
  exact d.count_od_other 1 (by omega) (by decide) (by simp [h6])

theorem Dev.notedViolation_port (q : Nat) : ((d.notedViolation e p kind src header).port q).bare = (d.port q).bare := by
  rw [Dev.traffic_notedViolation.port q]
  exact congrArg Port.bare (d.count_port _ _ _ q)

theorem Dev.notedViolation_violSeq : (d.notedViolation e p kind src header).link.violSeq = d.link.violSeq + 1 := by
  rw [Dev.traffic_notedViolation.violSeq]
  exact congrArg (·.violSeq + 1) (d.count_link (portOd p) 6 1)

theorem Dev.notedViolation_kind : ((d.notedViolation e p kind src header).link.viol.head?).map (·.kind) = some (0x10 + kind) := by
  rw [Dev.traffic_notedViolation.viol]
  rfl

theorem Dev.notedViolation_stores : (d.notedViolation e p kind src header).stores = d.stores :=
  Dev.traffic_notedViolation.stores.trans (d.stores_count _ _ _)

theorem Dev.QuietButTimers.notedViolation (h : d.QuietButTimers) : (d.notedViolation e p kind src header).QuietButTimers := by
  unfold Dev.notedViolation Dev.countedViolation
  exact ((h.count _ _ _).setOd _ _ _).violate _ _ _ _ _

end

/-- What `quarantine` leaves but the state of the port and its count of quarantines is traffic. -/
theorem Dev.quarantine_bare (d : Dev) (p : Nat) : (d.quarantine p).bare = d.bare := by
  rw [Dev.quarantine, Dev.setPort_bare, Dev.count_bare, (d.traffic_unqueue p).bare]

theorem Dev.quarantine_port (d : Dev) (p : Nat) : (d.quarantine p).port p = { (d.unqueue p).port p with st := .quarantined } := by
  rw [Dev.quarantine, Dev.setPort_port, Dev.count_port]

theorem Dev.quarantine_od_other (d : Dev) (p : Nat) {k : Nat} (hk : k < 0xF) (h8 : k ≠ 8) : (d.quarantine p).od (portOd p) k = d.od (portOd p) k :=
  (Dev.count_od_other _ 1 (by omega) (by decide) (by simp [h8])).trans ((d.traffic_unqueue p).od p k hk)

theorem Dev.quarantine_od_count (d : Dev) (p : Fin 12) (hn : d.od (portOd p) 8 + 1 < 2 ^ 32) :
    (d.quarantine p).od (portOd p) 8 = d.od (portOd p) 8 + 1 := by
  have same := (d.traffic_unqueue p).od p 8 (by decide)
  show ((d.unqueue p).count (portOd p) 8 1).od (portOd p) 8 = _
  rw [Dev.count_of_lt _ _ _ _ (by rw [same, odSize_portQuarantines]; exact hn), Dev.setOd_od, same]

theorem Dev.QuietButTimers.quarantine {d : Dev} (h : d.QuietButTimers) (p : Nat) : (d.quarantine p).QuietButTimers := by
  have counted := (h.traffic (d.traffic_unqueue p)).count (portOd p) 8 1
  unfold Dev.quarantine
  exact counted.setPort p _ (counted.paused p) (counted.held p)

/-- What a violation of kind `kind` from `src` on port `p` at `time` leaves, of the device `d` (R583, R584). -/
structure Dev.Violated (d : Dev) (time : Nat) (p : Fin 12) (kind src : Nat) (t : Dev) : Prop where
  count : d.od (portOd p) 6 + 1 < 2 ^ 32 → t.od (portOd p) 6 = d.od (portOd p) 6 + 1
  source : t.od (portOd p) 7 = kind % 256 + src % 4096 * 256
  seq : t.link.violSeq = d.link.violSeq + 1
  kind : (t.link.viol.head?).map (·.kind) = some (0x10 + kind)
  port : (t.port p).bare = ((d.port p).violated time).bare
  quarantines : d.od (portOd p) 8 + 1 < 2 ^ 32 → t.od (portOd p) 8 =
    d.od (portOd p) 8 + if (d.port p).atLimit time then 1 else 0

namespace Dev.Violated
variable {d t : Dev} {time kind src : Nat} {p : Fin 12} (h : d.Violated time p kind src t)
include h

theorem window : (t.port p).window = time / 1000000 := (congrArg Port.window h.port :)
theorem windowCount : (t.port p).windowCount = (d.port p).violations time := (congrArg Port.windowCount h.port :)
theorem st : (t.port p).st = if (d.port p).atLimit time then .quarantined else (d.port p).st :=
  (congrArg Port.st h.port :)

/-- A violation leaves the link of its port up (R584, R585). -/
theorem linkUp (up : (d.port p).st.linkUp = true) : (t.port p).st.linkUp = true := by
  rw [h.st]
  split
  · rfl
  · exact up

/-- Traffic before and after a violation does not matter. -/
theorem traffic {c t' : Dev} (hc : c.SameButTraffic d) (ht : t.SameButTraffic t') : c.Violated time p kind src t' := by
  obtain ⟨count, source, seq, kind, port, quarantines⟩ := h
  have atLimit : (d.port p).atLimit time = (c.port p).atLimit time := (congrArg (Port.atLimit · time) (hc.port p) :)
  have violated : ((d.port p).violated time).bare = ((c.port p).violated time).bare := (congrArg (Port.violated · time) (hc.port p) :)
  rw [hc.od p 6 (by decide)] at count
  rw [hc.violSeq] at seq
  simp only [atLimit, hc.od p 8 (by decide)] at quarantines
  exact ⟨fun hn => (ht.od p 6 (by decide)).trans (count hn), (ht.od p 7 (by decide)).trans source, ht.violSeq.trans seq, by rw [ht.viol]; exact kind,
    (ht.port p).trans (port.trans violated), fun hn => (ht.od p 8 (by decide)).trans (quarantines hn)⟩

end Dev.Violated

section
variable (d : Dev) (e : Env) (p : Fin 12) (kind src : Nat) (header : List Byte)

/-- The violation is noted and counted in its window, and the one that makes it 64 quarantines a port in service. -/
theorem Dev.portViolation_eq : d.portViolation e p kind src header =
    if (d.port p).atLimit e.time then
      ((d.notedViolation e p kind src header).windowedViolation e p).quarantine p
    else (d.notedViolation e p kind src header).windowedViolation e p := by
  have port := Dev.notedViolation_port (d := d) (e := e) (p := p) (kind := kind) (src := src) (header := header) p
  have st : ((d.notedViolation e p kind src header).port p).st = (d.port p).st := (congrArg Port.st port :)
  have violations : ((d.notedViolation e p kind src header).port p).violations e.time = (d.port p).violations e.time :=
    (congrArg (Port.violations · e.time) port :)
  show (if (decide (((d.notedViolation e p kind src header).port p).violations e.time = 64) &&
    ((d.notedViolation e p kind src header).port p).st == .inService) = true then _ else _) = _
  rw [st, violations]
  exact if_congr (by simp only [Bool.and_eq_true, decide_eq_true_eq, beq_iff_eq]) rfl rfl

theorem Dev.portViolation_bare : (d.portViolation e p kind src header).bare = (d.notedViolation e p kind src header).bare := by
  rw [Dev.portViolation_eq]
  split
  · exact Dev.quarantine_bare _ _
  · rfl

theorem Dev.portViolation_od {k : Nat} (hk : k < 0xF) (h8 : k ≠ 8) :
    (d.portViolation e p kind src header).od (portOd p) k = (d.notedViolation e p kind src header).od (portOd p) k := by
  rw [Dev.portViolation_eq]
  split
  · exact Dev.quarantine_od_other _ _ hk h8
  · rfl

theorem Dev.portViolation_port : ((d.portViolation e p kind src header).port p).bare = ((d.port p).violated e.time).bare := by
  have windowed : (((d.notedViolation e p kind src header).windowedViolation e p).port p).bare =
      { (d.port p).bare with window := e.time / 1000000, windowCount := (d.port p).violations e.time } := by
    rw [Dev.windowedViolation, Dev.setPort_port]
    exact (congrArg (fun x : Port => { x with window := e.time / 1000000, windowCount := x.violations e.time }) (Dev.notedViolation_port p) :)
  rw [Dev.portViolation_eq]
  split
  · next full =>
    rw [Dev.quarantine_port, Port.violated, if_pos full]
    have unqueued := (Dev.traffic_unqueue ((d.notedViolation e p kind src header).windowedViolation e p) p).port p
    exact (congrArg (fun x : Port => { x with st := .quarantined }) (unqueued.trans windowed) :)
  · next few =>
    rw [Port.violated, if_neg few]
    exact windowed

theorem Dev.portViolation_od_quarantines (hn : d.od (portOd p) 8 + 1 < 2 ^ 32) : (d.portViolation e p kind src header).od (portOd p) 8 =
    d.od (portOd p) 8 + if (d.port p).atLimit e.time then 1 else 0 := by
  have noted : ((d.notedViolation e p kind src header).windowedViolation e p).od (portOd p) 8 = d.od (portOd p) 8 :=
    Dev.notedViolation_od_other (by decide) (by decide) (by decide)
  rw [Dev.portViolation_eq]
  split
  · rw [Dev.quarantine_od_count _ _ (by rw [noted]; exact hn), noted]
  · exact noted

theorem Dev.portViolation_violated : d.Violated e.time p kind src (d.portViolation e p kind src header) := by
  have bare := d.portViolation_bare e p kind src header
  exact ⟨fun hn => (d.portViolation_od e p kind src header (by decide) (by decide)).trans (Dev.notedViolation_od_count hn),
    (d.portViolation_od e p kind src header (by decide) (by decide)).trans Dev.notedViolation_od_source,
    (Dev.violSeq_of_bare bare).trans Dev.notedViolation_violSeq,
    by rw [Dev.viol_of_bare bare]; exact Dev.notedViolation_kind,
    d.portViolation_port e p kind src header, d.portViolation_od_quarantines e p kind src header⟩

theorem Dev.portViolation_stores : (d.portViolation e p kind src header).stores = d.stores :=
  (Dev.stores_of_bare (d.portViolation_bare e p kind src header)).trans Dev.notedViolation_stores

theorem Dev.QuietButTimers.portViolation (h : d.QuietButTimers) : (d.portViolation e p kind src header).QuietButTimers := by
  have noted := h.notedViolation (e := e) (p := p) (kind := kind) (src := src) (header := header)
  have windowed : ((d.notedViolation e p kind src header).windowedViolation e p).QuietButTimers := noted.setPort _ _ (noted.paused p) (noted.held p)
  rw [Dev.portViolation_eq]
  split
  · exact windowed.quarantine p
  · exact windowed

end

/-- A command from rest that comes, but for traffic, to a violation on a port answers what the violation leaves, and writes no memory. -/
theorem State.go_violation (s : State) (f : Env → Dev → Dev) (d' : Dev) (p : Fin 12) (kind src : Nat) (header : List Byte) (hs : s.rests = true)
    (h : f s.env s.dev = d'.portViolation s.env p kind src header) (ht : s.dev.SameButTraffic d') :
    ∃ t, s.go f = .next t ∧ s.dev.Violated s.time p kind src t.dev ∧ t.mem = s.mem := by
  obtain ⟨quiet, stores, -, -⟩ := (State.rests_iff s).mp hs
  have timers := ((s.dev.quietButTimers_of_quiet quiet).traffic ht).portViolation d' s.env p kind src header
  refine ⟨_, s.go_stamped f _ hs h timers ?_, ?_, rfl⟩
  · rw [Dev.portViolation_stores, ht.stores, stores]
  · exact (d'.portViolation_violated s.env p kind src header).traffic ht (Dev.traffic_stampPorts _ _)

end Sys2Proof.Machine
end

section
/-! SUPPORT. Frames received: what the link layer takes, what is for this device, what is dropped for want of an ID, and what is a violation (R559,
R560, R562, R583, R589). -/
namespace Sys2Proof.Machine

/-- A sound frame has the channel of its type and a source that has a number. -/
theorem sound_of_frameBad {f : Frame} (h : frameBad f = false) : frameVc f.ty = some f.vc ∧ f.src < 4096 := by
  simp only [frameBad, Bool.or_eq_false_iff, bne_eq_false_iff_eq, decide_eq_false_iff_not, Nat.not_le] at h
  obtain ⟨⟨⟨⟨⟨-, vc⟩, -⟩, -⟩, -⟩, src⟩ := h
  exact ⟨vc, src⟩

theorem PortSt.linkUp_of_carries {x : PortSt} (h : x = .linked ∨ x = .inService) : x.linkUp = true := by
  rcases h with rfl | rfl <;> rfl

/-- The frame is next in its sequence on port `p`, within the credits given, and a sound one of a sequenced channel, on a Purlin port whose link is up
and not quarantined. -/
structure Dev.Sound (d : Dev) (p : Nat) (f : Frame) : Prop where
  st : (d.port p).st = .linked ∨ (d.port p).st = .inService
  mode : (d.port p).mode = 0
  vc : f.vc ≠ 7
  seq : BitVec.ofNat 16 f.seq = (d.port p).rxSeq
  room : (frameCost f : Int) ≤ smGet 512 (d.port p).rxRoom f.vc
  good : frameBad f = false

/-- A frame next in its sequence passes the link layer, as traffic (R559). -/
theorem Dev.takeSeq_next (d : Dev) (p : Nat) (f : Frame) (h : BitVec.ofNat 16 f.seq = (d.port p).rxSeq) :
    (d.takeSeq p f).1 = true ∧ d.SameButTraffic (d.takeSeq p f).2 := by
  unfold Dev.takeSeq
  by_cases link : f.vc = 7
  · rw [if_pos link]
    exact ⟨rfl, .refl d⟩
  · rw [if_neg link, if_pos h]
    exact ⟨rfl, d.traffic_setPort p _ rfl⟩

theorem Dev.traffic_takeRoom (d : Dev) (p : Nat) (f : Frame) : d.SameButTraffic (d.takeRoom p f).2 := by
  unfold Dev.takeRoom
  dsimp only
  split
  · exact .refl d
  · split
    · exact .refl d
    · exact d.traffic_setPort p _ rfl

/-- What answers a violation is traffic (R583). -/
theorem Dev.fabViol_eq (d : Dev) (e : Env) (p kind : Nat) (f : Frame) :
    ∃ d', d.SameButTraffic d' ∧ d.fabViol e p kind f = d'.portViolation e p kind f.src (frameBytes f) :=
  ⟨_, .ite (.refl d) (.ite (d.traffic_portSend _ _) (d.traffic_originate _)), rfl⟩

theorem Dev.traffic_tookFrame (d : Dev) (p : Nat) (f : Frame) : d.SameButTraffic (d.tookFrame p f) :=
  (d.traffic_frames p (j := 0xF) (by decide) (by decide)).trans (Dev.traffic_setPort _ p _ (by rw [Dev.count_port]; rfl))

theorem Dev.quiet_setPort (d : Dev) (p : Nat) (x : Port) (h : d.quiet = true) (hx : x.still = true) : (d.setPort p x).quiet = true := by
  obtain ⟨-, -, -, -, -, -, ports, -, -⟩ := d.quiet_iff.mp h
  exact d.quiet_fabric _ h (smSet_all _ Port.still _ _ _ hx ports)

theorem Dev.quiet_tookFrame (d : Dev) (p : Nat) (f : Frame) (h : d.quiet = true) : (d.tookFrame p f).quiet = true :=
  Dev.quiet_setPort _ p _ (by rw [Dev.quiet_count]; exact h) (d.port_still p h)

namespace Dev.Sound
variable {d : Dev} {p : Nat} {f : Frame} (h : d.Sound p f)
include h

/-- The link layer takes the frame, which uses its credits (R559, R560). -/
theorem taken : ∃ l, (d.count (portOd p) 0xF 1).takeSeq p f = (true, l) ∧ l.takeRoom p f = (true, d.tookFrame p f) := by
  refine ⟨(d.count (portOd p) 0xF 1).setPort p { d.port p with rxSeq := (d.port p).rxSeq + 1, owesLack := true, lnakSent := false }, ?_, ?_⟩
  · rw [Dev.takeSeq, Dev.count_port]
    exact (if_neg h.vc).trans (if_pos h.seq)
  · rw [Dev.takeRoom, Dev.setPort_port, Dev.setPort_setPort]
    exact (if_neg h.vc).trans (if_neg (Int.not_lt.mpr h.room))

/-- The frame is none of the link's own (R559). -/
theorem sequenced : (decide (0x38 ≤ f.ty) && decide (f.ty ≤ 0x3A)) = false := by
  obtain ⟨vc, -⟩ := sound_of_frameBad h.good
  by_contra link
  simp only [Bool.not_eq_false, Bool.and_eq_true, decide_eq_true_eq] at link
  have seven : frameVc f.ty = some 7 := by
    obtain ⟨lo, hi⟩ := link
    interval_cases f.ty <;> rfl
  exact h.vc (Option.some.inj (vc.symm.trans seven))

theorem not_quarantined : ((d.port p).st == .quarantined) = false := by
  rcases h.st with st | st <;> rw [st] <;> rfl

/-- Without an ID the device drops the frame and counts it (R589). -/
theorem receive_noId (e : Env) (id : d.fabric.id = none) (directed : f.directed = false) (linkLocal : f.linkLocal = false) :
    d.receive e p f = (false, (d.tookFrame p f).count 0x2A00 9 1) := by
  obtain ⟨l, seq, room⟩ := h.taken
  have id' : (d.tookFrame p f).fabric.id = none := (d.traffic_tookFrame p f).fabricId.trans id
  simp [Dev.receive, PortSt.linkUp_of_carries h.st, h.mode, h.sequenced, seq, room, h.not_quarantined, (sound_of_frameBad h.good).1, h.good, id',
    directed, linkLocal]

/-- A device that is READY takes a frame that bears its ID on a port in service for its own (R562). -/
theorem receive_here (e : Env) (st : (d.port p).st = .inService) (id : d.fabric.id = some f.dst) (boot : d.boot.st = .ready)
    (directed : f.directed = false) (linkLocal : f.linkLocal = false) : d.receive e p f = (true, d.tookFrame p f) := by
  obtain ⟨l, seq, room⟩ := h.taken
  have id' : (d.tookFrame p f).fabric.id = some f.dst := (d.traffic_tookFrame p f).fabricId.trans id
  have boot' : (d.tookFrame p f).boot.st = .ready := by rw [(d.traffic_tookFrame p f).boot, boot]
  have notLinked : ((d.port p).st == .linked) = false := by rw [st]; rfl
  simp [Dev.receive, PortSt.linkUp_of_carries h.st, h.mode, h.sequenced, seq, room, h.not_quarantined, (sound_of_frameBad h.good).1, h.good, notLinked,
    id', boot', directed, linkLocal]

end Dev.Sound

/-- The parts of `frameHere`. -/
theorem State.frameHere_iff (s : State) (p : Nat) (f : Frame) : s.frameHere p f = true ↔
    s.rests = true ∧ s.dev.Sound p f ∧ (s.dev.port p).st = .inService ∧ s.dev.fabric.id = some f.dst ∧ s.dev.boot.st = .ready ∧ f.directed = false ∧
      f.linkLocal = false ∧ s.dev.islAnswer (332 + p) = none := by
  simp only [State.frameHere, Bool.and_eq_true, beq_iff_eq, bne_iff_ne, decide_eq_true_eq, Bool.not_eq_true', Option.isNone_iff_eq_none]
  constructor
  · rintro ⟨⟨⟨⟨⟨⟨⟨⟨⟨⟨⟨rests, st⟩, mode⟩, vc⟩, seq⟩, room⟩, good⟩, directed⟩, linkLocal⟩, boot⟩, id⟩, serves⟩
    exact ⟨rests, ⟨.inr st, mode, vc, seq, room, good⟩, st, id, boot, directed, linkLocal, serves⟩
  · rintro ⟨rests, ⟨-, mode, vc, seq, room, good⟩, st, id, boot, directed, linkLocal, serves⟩
    exact ⟨⟨⟨⟨⟨⟨⟨⟨⟨⟨⟨rests, st⟩, mode⟩, vc⟩, seq⟩, room⟩, good⟩, directed⟩, linkLocal⟩, boot⟩, id⟩, serves⟩

/-- A frame for this device comes to what its delivery does, once the link layer has taken it. -/
theorem State.frameIn_here {s : State} {p : Nat} {f : Frame} (h : s.frameHere p f = true) :
    s.dev.frameIn s.env p f = (s.dev.tookFrame p f).deliver s.env p f := by
  obtain ⟨-, sound, st, id, boot, directed, linkLocal, -⟩ := (s.frameHere_iff p f).mp h
  rw [Dev.frameIn, sound.receive_here s.env st id boot directed linkLocal]

/-- The port's island serves the frame. -/
theorem State.tookFrame_serves {s : State} {p : Nat} {f : Frame} (h : s.frameHere p f = true) :
    (s.dev.tookFrame p f).islAnswer (332 + p) = none := by
  obtain ⟨-, -, -, -, -, -, -, serves⟩ := (s.frameHere_iff p f).mp h
  rw [Dev.islAnswer, Dev.island, (s.dev.traffic_tookFrame p f).loops]
  exact serves

theorem Dev.deliver_viol (d : Dev) (e : Env) (p : Nat) (f : Frame) (h : d.islAnswer (332 + p) = none) (ty : f.ty = 0x34) : d.deliver e p f = d := by
  simp [Dev.deliver, h, ty]

theorem Dev.deliver_ctlRsp (d : Dev) (e : Env) (p : Nat) (f : Frame) (h : d.islAnswer (332 + p) = none) (ty : f.ty = 0x2B) :
    d.deliver e p f = d.fabViol e p 6 f := by
  simp [Dev.deliver, h, ty]

theorem Dev.typedFrame_of_ty (d : Dev) (e : Env) (p : Nat) {f : Frame} {ty : Nat} (h : f.ty = ty) : d.typedFrame e p f ty = d.frameIn e p f :=
  if_pos h

/-- From rest, each row of sequenced frames is the arrival of its frame. -/
theorem exec_of_frameRow {c : Instr} {p : Fin 12} {f : Frame} {s : State} (hs : s.rests = true) (h : frameRow c = some (p, f)) :
    ∃ g, exec c s = s.go g ∧ g s.env s.dev = s.dev.frameIn s.env p f := by
  obtain ⟨-, -, ahead, calm⟩ := (State.rests_iff s).mp hs
  unfold frameRow at h
  split at h
  case h_13 => cases h
  case h_1 =>
    cases h
    unfold exec
    exact ⟨_, rfl, rfl⟩
  all_goals
    obtain ⟨ty, h⟩ := Option.ite_none_right_eq_some.mp h
    cases h
    have typed := s.dev.typedFrame_of_ty s.env p ty
    unfold exec
    refine ⟨_, rfl, ?_⟩
  case h_2 => rw [Dev.leadPlace_calm _ _ calm, typed]
  case h_3 => rw [Dev.leadPlace_calm _ _ calm, typed]
  case h_4 => rw [Dev.turn_rests _ _ _ _ ahead, Dev.leadPorts_calm _ _ _ _ calm, typed]
  case h_6 => rw [Dev.turnOf_rests _ _ _ _ ahead, Dev.leadCtl_calm _ _ _ _ calm, typed]
  all_goals exact typed

/-- A frame with a violation comes, but for traffic, to the violation on its port (R583). -/
theorem Dev.fabricViolation_eq (d : Dev) (e : Env) (p kind : Nat) (f : Frame) (st : (d.port p).st = .linked ∨ (d.port p).st = .inService)
    (mode : (d.port p).mode = 0) (h0 : kind ≠ 0) (h9 : kind ≠ 9) (seq : BitVec.ofNat 16 f.seq = (d.port p).rxSeq) :
    ∃ d', d.SameButTraffic d' ∧ d.fabricViolation e p kind f = d'.portViolation e p kind f.src (frameBytes f) := by
  have counted := d.traffic_frames p (j := 0xF) (by decide) (by decide)
  obtain ⟨taken, sequenced⟩ := (d.count (portOd p) 0xF 1).takeSeq_next p f (by rw [Dev.count_port]; exact seq)
  obtain ⟨d', answered, violation⟩ := ((((d.count (portOd p) 0xF 1).takeSeq p f).2.takeRoom p f).2).fabViol_eq e p kind f
  refine ⟨d', ((counted.trans sequenced).trans (Dev.traffic_takeRoom _ p f)).trans answered, ?_⟩
  have up : ((d.port p).st == .linked || (d.port p).st == .inService) = true := by simpa using st
  rw [← violation]
  simp [Dev.fabricViolation, up, h0, h9, mode, taken]

theorem exec_fabricViolation (p : Fin 12) (kind : Fin 10) (f : Frame) (s : State) :
    exec (.fabricViolation p kind f) s = execFabricViolation p kind f s := rfl

section
variable {p : Fin 12} {f : Frame} {s : State}

theorem exec_fabricViolation_violated {kind : Fin 10} (hs : s.rests = true) (st : (s.dev.port p).st = .linked ∨ (s.dev.port p).st = .inService)
    (mode : (s.dev.port p).mode = 0) (h0 : kind.val ≠ 0) (h9 : kind.val ≠ 9) (seq : BitVec.ofNat 16 f.seq = (s.dev.port p).rxSeq) :
    ∃ t, exec (.fabricViolation p kind f) s = .next t ∧ s.dev.Violated s.time p kind f.src t.dev ∧ t.mem = s.mem := by
  obtain ⟨-, -, ahead, -⟩ := (State.rests_iff s).mp hs
  obtain ⟨d', traffic, violation⟩ := s.dev.fabricViolation_eq s.env p kind f st mode h0 h9 seq
  rw [exec_fabricViolation, execFabricViolation]
  exact s.go_violation _ d' p kind f.src _ hs (by rw [Dev.turnOf_rests _ _ _ _ ahead, violation]) traffic

theorem exec_viol_here (h : s.frameHere p f = true) (ty : f.ty = 0x34) : exec (.viol p f) s = .next { s with dev := s.dev.tookFrame p f } := by
  obtain ⟨hs, -⟩ := (s.frameHere_iff p f).mp h
  obtain ⟨quiet, stores, -, -⟩ := (State.rests_iff s).mp hs
  obtain ⟨g, row, effect⟩ := exec_of_frameRow (c := .viol p f) hs (if_pos ty)
  rw [row]
  refine s.go_to g _ hs ?_ (s.dev.quiet_tookFrame p f quiet) ((s.dev.traffic_tookFrame p f).stores.trans stores)
  rw [effect, State.frameIn_here h, Dev.deliver_viol _ _ _ _ (State.tookFrame_serves h) ty]

theorem exec_ctlRsp_violated (h : s.frameHere p f = true) (ty : f.ty = 0x2B) :
    ∃ t, exec (.ctlRsp p f) s = .next t ∧ s.dev.Violated s.time p 6 f.src t.dev ∧ t.mem = s.mem := by
  obtain ⟨hs, -⟩ := (s.frameHere_iff p f).mp h
  obtain ⟨g, row, effect⟩ := exec_of_frameRow (c := .ctlRsp p f) hs (if_pos ty)
  obtain ⟨d', traffic, violation⟩ := (s.dev.tookFrame p f).fabViol_eq s.env p 6 f
  rw [row]
  refine s.go_violation g d' p 6 f.src (frameBytes f) hs ?_ ((s.dev.traffic_tookFrame p f).trans traffic)
  rw [effect, State.frameIn_here h, Dev.deliver_ctlRsp _ _ _ _ (State.tookFrame_serves h) ty, violation]

theorem exec_frameRow_noId {c : Instr} (hs : s.rests = true) (h : frameRow c = some (p, f)) (sound : s.dev.Sound p f) (id : s.dev.fabric.id = none)
    (directed : f.directed = false) (linkLocal : f.linkLocal = false) :
    exec c s = .next { s with dev := (s.dev.tookFrame p f).count 0x2A00 9 1 } := by
  obtain ⟨quiet, stores, -, -⟩ := (State.rests_iff s).mp hs
  obtain ⟨g, row, effect⟩ := exec_of_frameRow hs h
  rw [row]
  refine s.go_to g _ hs ?_ ?_ ?_
  · rw [effect, Dev.frameIn, sound.receive_noId s.env id directed linkLocal]
  · rw [Dev.quiet_count, s.dev.quiet_tookFrame p f quiet]
  · rw [Dev.stores_count, (s.dev.traffic_tookFrame p f).stores, stores]

end

/-- Settles O52: the first clause and the third are what one violation leaves (R583, R584); a VIOL ends at the link layer, and a frame without an ID
at its count (R589). -/
theorem fabricViolations : Obligations.FabricViolations := by
  unfold Obligations.FabricViolations
  refine ⟨fun p kind f s hs st mode h0 h9 seq src h6 h8 => ?_, fun p f s h ty => exec_viol_here h ty, fun p f s h ty h6 => ?_,
    fun c p f s row hs st mode vc seq room good id directed linkLocal =>
      exec_frameRow_noId hs row ⟨st, mode, vc, seq, room, good⟩ id directed linkLocal⟩
  · obtain ⟨t, next, violated, mem⟩ := exec_fabricViolation_violated hs st mode h0 h9 seq
    have source : kind.val % 256 + f.src % 4096 * 256 = kind.val + 256 * f.src := by omega
    exact ⟨t, next, violated.count h6, violated.source.trans source, violated.seq, violated.kind, mem, violated.window, violated.windowCount,
      violated.linkUp (PortSt.linkUp_of_carries st), violated.st, violated.quarantines h8⟩
  · obtain ⟨t, next, violated, mem⟩ := exec_ctlRsp_violated h ty
    obtain ⟨-, sound, -⟩ := (s.frameHere_iff p f).mp h
    have source : 6 % 256 + f.src % 4096 * 256 = 6 + 256 * f.src := by
      have := (sound_of_frameBad sound.good).2
      omega
    exact ⟨t, next, violated.count h6, violated.source.trans source, violated.seq, mem⟩

end Sys2Proof.Machine
end

section
/-! SUPPORT. What every command and every step leaves: a next state, the waiting commands, canonical memory with no write under way, and device time. -/
namespace Sys2Proof.Machine

/-- Every command but those of SYS_RST_N and the standby rails commits what its meaning makes of the device. -/
theorem exec_commits (c : Instr) (s : State) (hrel : ∀ f, c ≠ .sysRstNRelease f) (hfall : c ≠ .sysRstNAssert) (hloss : c ≠ .standbyRailLoss) :
    ∃ d, exec c s = .next (s.commit d) := by
  cases c
  case sysRstNRelease f => exact absurd rfl (hrel f)
  case sysRstNAssert => exact absurd rfl hfall
  case standbyRailLoss => exact absurd rfl hloss
  all_goals exact ⟨_, Eq.refl _⟩

/-- A form's next state waits for what waited, and its memory is canonical where the memory before was. -/
theorem HasForm.next {o : Outc} {s : State} (h : HasForm o s) : ∃ t, o = .next t ∧ t.pending = s.pending ∧ (memWf s.mem = true → memWf t.mem = true) := by
  obtain ⟨d, rfl⟩ | rfl | ⟨f, rfl⟩ := h
  · exact ⟨_, rfl, rfl, fun _ => rfl⟩
  · exact ⟨_, rfl, rfl, id⟩
  · exact ⟨_, s.go_eq f, s.commit_pending _, memWf_commit s _⟩

/-- A device in `RESET` has no memory write under way. -/
theorem Dev.inReset_stores (d : Dev) (rstN standby : Bool) : (d.inReset rstN standby).stores = [] := rfl

/-- No memory write is under way once a command has completed. -/
theorem exec_stores {c : Instr} {s t : State} (hs : s.dev.stores = []) (h : exec c s = .next t) : t.dev.stores = [] := by
  by_cases hrel : ∃ f, c = .sysRstNRelease f
  · obtain ⟨f, rfl⟩ := hrel
    by_cases hr : s.dev.board.rstN
    · cases (if_pos hr : exec (.sysRstNRelease f) s = _).symm.trans h
      exact hs
    · cases (if_neg hr : exec (.sysRstNRelease f) s = _).symm.trans h
      rfl
  by_cases hfall : c = .sysRstNAssert
  · subst hfall
    cases h
    rfl
  by_cases hloss : c = .standbyRailLoss
  · subst hloss
    cases h
    rfl
  obtain ⟨d, hd⟩ := exec_commits c s (fun f hc => hrel ⟨f, hc⟩) hfall hloss
  cases hd.symm.trans h
  rfl

theorem step_cons {c : Instr} {rest : List Instr} {s : State} (h : s.pending = c :: rest) : step s = exec c { s with pending := rest } := by
  simp only [step, h]

theorem step_nil {s : State} (h : s.pending = []) : step s = .next s.idle := by
  simp only [step, h]

/-- Settles O4: a command leaves one of the three forms of `exec_form`, and an empty queue moves the clock alone. -/
theorem memoryInvariant : Obligations.MemoryInvariant := by
  unfold Obligations.MemoryInvariant
  refine ⟨fun s t hs h => ?_, fun s t hs h => ?_⟩
  · rcases hp : s.pending with _ | ⟨c, rest⟩
    · cases (step_nil hp).symm.trans h
      exact (congrArg memWf s.idle_mem).trans hs
    · obtain ⟨u, hu, -, hmem⟩ := (exec_form c { s with pending := rest }).next
      cases hu.symm.trans ((step_cons hp).symm.trans h)
      exact hmem hs
  · rcases hp : s.pending with _ | ⟨c, rest⟩
    · cases (step_nil hp).symm.trans h
      exact (congrArg Dev.stores s.idle_dev).trans hs
    · exact exec_stores (s := { s with pending := rest }) hs ((step_cons hp).symm.trans h)

/-- Settles O2: each of the three forms of a command's outcome is a next state. -/
theorem everyCommandCompletes : Obligations.EveryCommandCompletes := by
  unfold Obligations.EveryCommandCompletes
  intro c s
  obtain ⟨t, ht, hp, -⟩ := (exec_form c s).next
  exact ⟨t, ht, hp⟩

/-- Settles O1. -/
theorem stepTakesFront : Obligations.StepTakesFront := by
  unfold Obligations.StepTakesFront
  exact fun c rest s h => step_cons h

/-- Settles O5. -/
theorem resetMemoryCanonical : Obligations.ResetMemoryCanonical := memWf_reset

theorem exec_sysRstNRelease {f : Option Flash} {s : State} (h : s.dev.board.rstN = false) :
    exec (.sysRstNRelease f) s = .next (s.renew (s.dev.begin f)) :=
  if_neg (by simp [h])

theorem exec_sysRstNAssert (s : State) : exec .sysRstNAssert s = .next (s.renew (s.dev.inReset false s.dev.board.standby)) := rfl

theorem exec_standbyRailLoss (s : State) : exec .standbyRailLoss s = .next (s.renew (s.dev.inReset false false)) := rfl

/-- Settles O3: the commands of `exec_commits` commit their effect, and a commit leaves the clock. -/
theorem deviceTime : Obligations.DeviceTime := by
  unfold Obligations.DeviceTime
  refine ⟨fun f s hs => ⟨_, exec_sysRstNRelease hs, rfl, rfl⟩, fun s hp => step_nil hp, fun c s t hrel hfall hloss h => ?_⟩
  obtain ⟨d, hd⟩ := exec_commits c s hrel hfall hloss
  cases hd.symm.trans h
  exact s.commit_time d

/-- Settles O6: the three commands leave a device in `RESET`, and the release begins a span on it. -/
theorem resetAndRelease : Obligations.ResetAndRelease := by
  unfold Obligations.ResetAndRelease
  exact ⟨fun f s hs => ⟨_, exec_sysRstNRelease hs, rfl, rfl, rfl, rfl, rfl, rfl, rfl, rfl, rfl, rfl⟩,
    fun s => ⟨_, exec_sysRstNAssert s, rfl, rfl, rfl, rfl, rfl, rfl, rfl, rfl, rfl⟩,
    fun s => ⟨_, exec_standbyRailLoss s, rfl, rfl, rfl, rfl, rfl, rfl, rfl, rfl, rfl⟩⟩

end Sys2Proof.Machine
end

section
/-! SUPPORT. Certified requantisation (R511, R514): the outputs over an interval lie between those at its ends. -/
namespace Sys2Proof.Machine

/-- A multiplier that is not positive turns the order of the inputs round. -/
theorem requant_antitone {k : Rq} (hm : k.m ≤ 0) : Antitone (requant · k) := by
  intro x1 x2 h
  have hround : rqRound (x2 * k.m) k.s ≤ rqRound (x1 * k.m) k.s := rqRound_monotone k.s (Int.mul_le_mul_of_nonpos_right h hm)
  exact min_le_min_right k.hi (max_le_max_right k.lo (Int.add_le_add_right hround k.z))

/-- Requantisation is constant between two inputs that requantise alike. -/
theorem requant_eq_of_ends {k : Rq} {a b x : Int} (hab : requant a k = requant b k) (ha : a ≤ x) (hb : x ≤ b) : requant x k = requant a k := by
  rcases le_total 0 k.m with hm | hm
  · exact le_antisymm ((requant_monotone hm hb).trans_eq hab.symm) (requant_monotone hm ha)
  · exact le_antisymm (requant_antitone hm ha) (hab.trans_le (requant_antitone hm hb))

/-- What a certified output tells: the two ends of its interval requantise alike, and its value is that of the estimate. -/
theorem certTest_certified {e v : Int} {b : Nat} {flash : Bool} {k : Rq} (h : certTest e b flash k = .certified v) :
    requant (e - b) k = requant (e + b) k ∧ requant e k = v := by
  unfold certTest at h
  split_ifs at h with _ _ hends
  exact ⟨hends, Verdict.certified.inj h⟩

/-- Settles O47: the exact sum and the estimate both lie in the interval, over which requantisation is constant. -/
theorem certifiedIsExact : Obligations.CertifiedIsExact := by
  unfold Obligations.CertifiedIsExact
  intro e y v b flash k h hlo hhi
  obtain ⟨hends, rfl⟩ := certTest_certified h
  exact (requant_eq_of_ends hends hlo hhi).trans (requant_eq_of_ends hends (by omega) (by omega)).symm

end Sys2Proof.Machine
end

section
/-! SUPPORT. What the rows of ports, clocks and loops leave alone: the device but for the board's readings, counters, ports, clocks, loops, arrays and what
it sends. -/
namespace Sys2Proof.Machine

/-- The device without what the rows of ports, clocks and loops move. -/
def Dev.work (d : Dev) : Dev := { d with board := {}, srv := {}, fabric := {}, loops := {}, arrays := [], out := [], free := 0 }

@[simp] theorem Dev.work_send (d : Dev) (o : Out) : (d.send o).work = d.work := rfl
@[simp] theorem Dev.work_setPort (d : Dev) (p : Nat) (x : Port) : (d.setPort p x).work = d.work := rfl
@[simp] theorem Dev.work_setFabric (d : Dev) (f : Fabric) : (d.setFabric f).work = d.work := rfl
@[simp] theorem Dev.work_setIsland (d : Dev) (i : Nat) (x : Island) : (d.setIsland i x).work = d.work := rfl
@[simp] theorem Dev.work_setDomain (d : Dev) (k : Nat) (x : Domain) : (d.setDomain k x).work = d.work := rfl
@[simp] theorem Dev.work_setArr (d : Dev) (a : Nat) (x : Arr) : (d.setArr a x).work = d.work := rfl
@[simp] theorem Dev.work_draw (d : Dev) : d.draw.2.work = d.work := rfl
@[simp] theorem Dev.work_board (d : Dev) (b : Board) : ({ d with board := b } : Dev).work = d.work := rfl
@[simp] theorem Dev.work_loops (d : Dev) (l : Loops) : ({ d with loops := l } : Dev).work = d.work := rfl

@[simp] theorem Dev.work_count (d : Dev) (idx sub k : Nat) : (d.count idx sub k).work = d.work := by
  unfold Dev.count
  split <;> rfl

/-- Steps that leave the work leave it in a row. -/
theorem Dev.work_foldl {α : Type} {f : Dev → α → Dev} (hf : ∀ d x, (f d x).work = d.work) (l : List α) (d : Dev) : (l.foldl f d).work = d.work := by
  induction l generalizing d with
  | nil => rfl
  | cons x l ih => exact (ih _).trans (hf d x)

theorem Dev.work_flushPaused (d : Dev) (e : Env) : (d.flushPaused e).work = d.work := by
  refine Dev.work_foldl (fun d p => ?_) _ d
  dsimp only
  split_ifs
  · rfl
  · rfl
  · rw [Dev.work_count, Dev.work_foldl Dev.work_send, Dev.work_setPort]

/-- A device in which nothing is due but at its ports: the end of a command moves its ports and the SMBus status alone. -/
theorem Dev.work_settle {d d' : Dev} (e : Env) (hw : d'.work = d.work) (hq : d.quiet = true) : (d'.settle e).work = d.work := by
  obtain ⟨skies, places, faults, ckpts, mirrors, recs, -, -, released⟩ := d.quiet_iff.mp hq
  have hpages : d'.pages = d.pages := (congrArg Dev.pages hw :)
  have hspars : d'.spars = d.spars := (congrArg Dev.spars hw :)
  have hflush : (d'.flushPaused e).work = d.work := (d'.work_flushPaused e).trans hw
  have hnote (x : Dev) : x.noteSmb.work = x.work := by
    unfold Dev.noteSmb
    split <;> rfl
  rw [Dev.settle, d'.flushSkies_none e (hpages ▸ skies), d'.flushPlaces_none e ((congrArg Dev.places hw :).trans places),
    d'.settleFaults_none e ((congrArg Dev.faults hw :).trans faults), d'.flushCkpts_none e ((congrArg Dev.ckpts hw :).trans ckpts),
    d'.flushMirrors_none e (hspars ▸ mirrors), d'.flushRecs_none e ((congrArg (fun x : Dev => x.link.heldRecs) hw :).trans recs),
    hnote]
  generalize d'.flushPaused e = x at hflush
  rw [x.askAgain_none e ((congrArg Dev.released hflush :).trans released)]
  exact hflush

/-- A command from rest that leaves the work leaves memory and what the statement of the rows names. -/
theorem State.go_work (s : State) (f : Env → Dev → Dev) (hs : s.rests = true) (hf : (f s.env s.dev).work = s.dev.work) :
    ∃ t, s.go f = .next t ∧ t.mem = s.mem ∧ t.poison = s.poison ∧ t.dev.bays = s.dev.bays ∧ t.dev.queues = s.dev.queues ∧ t.dev.cores = s.dev.cores ∧
      t.dev.pages = s.dev.pages ∧ t.dev.spars = s.dev.spars ∧ t.dev.engines = s.dev.engines ∧ t.dev.nv = s.dev.nv := by
  obtain ⟨quiet, stores, -, calm⟩ := s.rests_iff.mp hs
  have hw : ((f s.env s.dev).settle s.env).work = s.dev.work := Dev.work_settle s.env hf quiet
  generalize hd : (f s.env s.dev).settle s.env = d at hw
  refine ⟨{ s with dev := d }, ?_, rfl, rfl, (congrArg Dev.bays hw :), (congrArg Dev.queues hw :), (congrArg Dev.cores hw :), (congrArg Dev.pages hw :),
    (congrArg Dev.spars hw :), (congrArg Dev.engines hw :), (congrArg Dev.nv hw :)⟩
  rw [s.go_eq, Dev.leadIslands_calm _ _ calm, hd, State.commit_quiet s d ((congrArg Dev.stores hw :).trans stores)]

/-! ### Ports -/

@[simp] theorem Dev.work_linkSend (d : Dev) (p : Nat) (f : Frame) : (d.linkSend p f).work = d.work := by
  rw [Dev.linkSend, Dev.work_count, Dev.work_send]

@[simp] theorem Dev.work_portSend (d : Dev) (p : Nat) (f : Frame) : (d.portSend p f).work = d.work := by
  unfold Dev.portSend
  dsimp only
  split
  · rw [Dev.work_count, Dev.work_send, Dev.work_setPort]
  · rfl

@[simp] theorem Dev.work_unqueue (d : Dev) (p : Nat) : (d.unqueue p).work = d.work := by
  rw [Dev.unqueue, Dev.work_count, Dev.work_setPort]

@[simp] theorem Dev.work_portPower (d : Dev) (p : Nat) : (d.portPower p).work = d.work := by
  unfold Dev.portPower
  dsimp only
  split <;> rfl

@[simp] theorem Dev.work_portTrain (d : Dev) (p : Nat) : (d.portTrain p).work = d.work := by
  rw [Dev.portTrain, Dev.work_setPort, Dev.work_portPower, Dev.work_unqueue]

@[simp] theorem Dev.work_portOff (d : Dev) (p : Nat) : (d.portOff p).work = d.work := by
  rw [Dev.portOff, Dev.work_setPort, Dev.work_unqueue]

@[simp] theorem Dev.work_portLost (d : Dev) (p : Nat) : (d.portLost p).work = d.work := by
  unfold Dev.portLost
  split
  · exact d.work_portTrain p
  · exact d.work_portOff p

@[simp] theorem Dev.work_portServe (d : Dev) (e : Env) (p : Nat) : (d.portServe e p).work = d.work := by
  unfold Dev.portServe
  dsimp only
  split
  · split <;> rfl
  · rfl

theorem Dev.work_linkFrame (d : Dev) (p : Nat) {f : Dev → Dev} (hf : ∀ d, (f d).work = d.work) : (d.linkFrame p f).work = d.work := by
  unfold Dev.linkFrame
  dsimp only
  split
  · rw [hf, Dev.work_count]
  · rfl

theorem Dev.work_takeLack (d : Dev) (e : Env) (p : Nat) (f : Frame) : (d.takeLack e p f).work = d.work := by
  rw [Dev.takeLack, Dev.portPump, Dev.work_foldl fun d f => d.work_portSend p f, Dev.work_setPort, Dev.work_setPort]

theorem Dev.work_retransmit (d : Dev) (e : Env) (p : Nat) (seq : W16) : (d.retransmit e p seq).work = d.work := by
  unfold Dev.retransmit
  dsimp only
  split_ifs
  · rfl
  · rw [Dev.work_portLost, Dev.work_count, Dev.work_foldl fun d u => by rw [Dev.work_count, Dev.work_send]]
  · rw [Dev.work_setPort, Dev.work_count, Dev.work_foldl fun d u => by rw [Dev.work_count, Dev.work_send]]

@[simp] theorem Dev.work_etherReply (d : Dev) (p : Nat) (ok : Bool) (kind : String) (dst : Nat) (data : List Byte) :
    (d.etherReply p ok kind dst data).work = d.work := by
  unfold Dev.etherReply
  dsimp only
  split_ifs
  · rfl
  · rw [Dev.work_count, Dev.work_send, Dev.work_count]
  · rw [Dev.work_count]

/-! ### PTP -/

theorem Dev.work_ptpIn (d : Dev) (p : Nat) (m : PtpMsg) {f : Dev → Dev} (hf : ∀ d, (f d).work = d.work) : (d.ptpIn p m f).work = d.work := by
  unfold Dev.ptpIn
  dsimp only
  split_ifs
  · rw [hf, Dev.work_count]
  · rw [Dev.work_count]
  · rfl

@[simp] theorem Dev.work_ptpSelect (d : Dev) : d.ptpSelect.work = d.work := by
  unfold Dev.ptpSelect
  dsimp only
  split
  · rfl
  · split
    · rfl
    · split <;> rfl

/-! ### Loops -/

@[simp] theorem Dev.work_retrainTrigger (d : Dev) (i : Nat) : (d.retrainTrigger i).work = d.work := by
  unfold Dev.retrainTrigger
  dsimp only
  split
  · split <;> rfl
  · rfl

@[simp] theorem Dev.work_setDomains (d : Dev) : d.setDomains.work = d.work := by
  unfold Dev.setDomains
  exact Dev.work_foldl (fun d k => d.work_setDomain k _) _ d

@[simp] theorem Dev.work_setCore_mv (d : Dev) (mv : Nat) : (d.setCore_mv mv).work = d.work := by
  unfold Dev.setCore_mv
  split <;> rfl

@[simp] theorem Dev.work_noteSlacks (d : Dev) (rs : List Slack) : (d.noteSlacks rs).work = d.work := by
  refine Dev.work_foldl (fun d r => ?_) _ d
  dsimp only
  split <;> rfl

/-! ### The rows -/

/-- What the statement of the rows says of a command: it answers a state that differs from the one before in ports, clocks, loops and counters alone. -/
def State.Keeps (s t : State) : Prop :=
  t.mem = s.mem ∧ t.poison = s.poison ∧ t.dev.bays = s.dev.bays ∧ t.dev.queues = s.dev.queues ∧ t.dev.cores = s.dev.cores ∧
    t.dev.pages = s.dev.pages ∧ t.dev.spars = s.dev.spars ∧ t.dev.engines = s.dev.engines ∧ t.dev.nv = s.dev.nv

section
variable {s : State} (hs : s.rests = true)
include hs

theorem portLock_keeps (p : Fin 12) : ∃ t, exec (.portLock p) s = .next t ∧ s.Keeps t := by
  show ∃ t, execPortLock p s = .next t ∧ _
  refine s.go_work _ hs ?_
  dsimp only
  split_ifs
  · rfl
  · exact Dev.work_portServe _ _ _
  · rfl

theorem portLinkLoss_keeps (p : Fin 12) : ∃ t, exec (.portLinkLoss p) s = .next t ∧ s.Keeps t := by
  show ∃ t, execPortLinkLoss p s = .next t ∧ _
  refine s.go_work _ hs ?_
  split_ifs
  · exact Dev.work_portLost _ _
  · rfl

theorem helloSend_keeps (p : Fin 12) : ∃ t, exec (.helloSend p) s = .next t ∧ s.Keeps t := by
  show ∃ t, execHelloSend p s = .next t ∧ _
  refine s.go_work _ hs ?_
  dsimp only
  split_ifs
  · rw [Dev.work_linkSend, Dev.work_setPort]
  · rfl

theorem hello_keeps (p : Fin 12) (id : BitVec 12) (assigned : Bool) (port : Fin 16) : ∃ t, exec (.hello p id assigned port) s = .next t ∧ s.Keeps t := by
  show ∃ t, execHello p id assigned port s = .next t ∧ _
  refine s.go_work _ hs (Dev.work_linkFrame _ _ fun d => ?_)
  dsimp only
  split_ifs
  · rw [Dev.work_count, Dev.work_setPort]
  · rw [Dev.work_portServe, Dev.work_setPort]

theorem helloTimeout_keeps (p : Fin 12) : ∃ t, exec (.helloTimeout p) s = .next t ∧ s.Keeps t := by
  show ∃ t, execHelloTimeout p s = .next t ∧ _
  refine s.go_work _ hs ?_
  dsimp only
  split_ifs
  · rw [Dev.work_setPort, Dev.work_unqueue]
  · rfl

theorem lack_keeps (p : Fin 12) (f : Frame) : ∃ t, exec (.lack p f) s = .next t ∧ s.Keeps t := by
  show ∃ t, execLack p f s = .next t ∧ _
  refine s.go_work _ hs ?_
  split_ifs
  · exact Dev.work_linkFrame _ _ fun d => d.work_takeLack _ _ _
  · rfl

theorem lnak_keeps (p : Fin 12) (f : Frame) : ∃ t, exec (.lnak p f) s = .next t ∧ s.Keeps t := by
  show ∃ t, execLnak p f s = .next t ∧ _
  refine s.go_work _ hs ?_
  split_ifs
  · exact Dev.work_linkFrame _ _ fun d => d.work_retransmit _ _ _
  · rfl

theorem lackSend_keeps (p : Fin 12) : ∃ t, exec (.lackSend p) s = .next t ∧ s.Keeps t := by
  show ∃ t, execLackSend p s = .next t ∧ _
  refine s.go_work _ hs ?_
  dsimp only
  split_ifs
  · rw [Dev.sendLack, Dev.work_linkSend, Dev.work_setPort]
  · rfl

theorem retransmitTimeout_keeps (p : Fin 12) : ∃ t, exec (.retransmitTimeout p) s = .next t ∧ s.Keeps t := by
  show ∃ t, execRetransmitTimeout p s = .next t ∧ _
  refine s.go_work _ hs ?_
  dsimp only
  split
  · rfl
  · split_ifs
    · exact Dev.work_retransmit _ _ _ _
    · rfl

theorem arpRequest_keeps (p : Fin 12) (ip : W32) (mac : BitVec 48) : ∃ t, exec (.arpRequest p ip mac) s = .next t ∧ s.Keeps t := by
  show ∃ t, execArpRequest p ip mac s = .next t ∧ _
  exact s.go_work _ hs (Dev.work_etherReply _ _ _ _ _ _)

theorem neighbourSolicitation_keeps (p : Fin 12) (ip : BitVec 128) (mac : BitVec 48) : ∃ t, exec (.neighbourSolicitation p ip mac) s = .next t ∧ s.Keeps t := by
  show ∃ t, execNeighbourSolicitation p ip mac s = .next t ∧ _
  exact s.go_work _ hs (Dev.work_etherReply _ _ _ _ _ _)

theorem icmpEchoRequest_keeps (p : Fin 12) (v6 : Bool) (ip : BitVec 128) (data : List Byte) : ∃ t, exec (.icmpEchoRequest p v6 ip data) s = .next t ∧ s.Keeps t := by
  show ∃ t, execIcmpEchoRequest p v6 ip data s = .next t ∧ _
  exact s.go_work _ hs (Dev.work_etherReply _ _ _ _ _ _)

theorem pfcFrame_keeps (p : Fin 12) (prio : Fin 8) (quanta : W16) : ∃ t, exec (.pfcFrame p prio quanta) s = .next t ∧ s.Keeps t := by
  show ∃ t, execPfcFrame p prio quanta s = .next t ∧ _
  refine s.go_work _ hs ?_
  dsimp only
  split_ifs
  · rfl
  · rw [Dev.work_setPort, Dev.work_count]
  · rw [Dev.work_setPort, Dev.work_count]

theorem sync_keeps (p : Fin 12) (m : PtpMsg) : ∃ t, exec (.sync p m) s = .next t ∧ s.Keeps t := by
  show ∃ t, execSync p m s = .next t ∧ _
  refine s.go_work _ hs (Dev.work_ptpIn _ _ _ fun d => ?_)
  split_ifs <;> rfl

theorem followUp_keeps (p : Fin 12) (m : PtpMsg) : ∃ t, exec (.followUp p m) s = .next t ∧ s.Keeps t := by
  show ∃ t, execFollowUp p m s = .next t ∧ _
  refine s.go_work _ hs (Dev.work_ptpIn _ _ _ fun d => ?_)
  split
  · split_ifs
    · rfl
    · rw [Dev.ptpSync, Dev.work_setFabric, Dev.work_draw, Dev.work_setPort]
  · rfl

theorem delayReq_keeps (p : Fin 12) (m : PtpMsg) : ∃ t, exec (.delayReq p m) s = .next t ∧ s.Keeps t := by
  show ∃ t, execDelayReq p m s = .next t ∧ _
  refine s.go_work _ hs (Dev.work_ptpIn _ _ _ fun d => ?_)
  split_ifs
  · rfl
  · rw [Dev.work_count, Dev.work_send]

theorem delayResp_keeps (p : Fin 12) (m : PtpMsg) : ∃ t, exec (.delayResp p m) s = .next t ∧ s.Keeps t := by
  show ∃ t, execDelayResp p m s = .next t ∧ _
  refine s.go_work _ hs (Dev.work_ptpIn _ _ _ fun d => ?_)
  split
  · split_ifs <;> rfl
  · rfl

theorem announce_keeps (p : Fin 12) (m : PtpMsg) : ∃ t, exec (.announce p m) s = .next t ∧ s.Keeps t := by
  show ∃ t, execAnnounce p m s = .next t ∧ _
  exact s.go_work _ hs (Dev.work_ptpIn _ _ _ fun d => by rw [Dev.work_ptpSelect, Dev.work_setPort])

theorem announceReceiptTimeout_keeps (p : Fin 12) : ∃ t, exec (.announceReceiptTimeout p) s = .next t ∧ s.Keeps t := by
  show ∃ t, execAnnounceReceiptTimeout p s = .next t ∧ _
  refine s.go_work _ hs ?_
  dsimp only
  split_ifs
  · rfl
  · rw [Dev.work_ptpSelect, Dev.work_setPort]

theorem syncInterval_keeps (p : Fin 12) : ∃ t, exec (.syncInterval p) s = .next t ∧ s.Keeps t := by
  show ∃ t, execSyncInterval p s = .next t ∧ _
  refine s.go_work _ hs ?_
  dsimp only
  split_ifs
  · rfl
  · rw [Dev.work_count, Dev.work_send, Dev.work_setFabric, Dev.work_setPort]
  · rw [Dev.work_count, Dev.work_send, Dev.work_send, Dev.work_setPort]
  · rw [Dev.work_count, Dev.work_send, Dev.work_setPort, Dev.work_count, Dev.work_send, Dev.work_send, Dev.work_setPort]

theorem ppsInEdge_keeps : ∃ t, exec .ppsInEdge s = .next t ∧ s.Keeps t := by
  show ∃ t, execPpsInEdge s = .next t ∧ _
  refine s.go_work _ hs ?_
  dsimp only
  split_ifs <;> rfl

theorem ppsOutPulse_keeps : ∃ t, exec .ppsOutPulse s = .next t ∧ s.Keeps t := by
  show ∃ t, execPpsOutPulse s = .next t ∧ _
  refine s.go_work _ hs ?_
  dsimp only
  split_ifs <;> rfl

theorem retrainPeriod_keeps (i : Fin 350) : ∃ t, exec (.retrainPeriod i) s = .next t ∧ s.Keeps t := by
  show ∃ t, execRetrainPeriod i s = .next t ∧ _
  refine s.go_work _ hs ?_
  dsimp only
  split_ifs
  · rfl
  · rw [Dev.work_retrainTrigger, Dev.work_setIsland]

theorem retrainTemperature_keeps (i : Fin 350) (temp : Int) : ∃ t, exec (.retrainTemperature i temp) s = .next t ∧ s.Keeps t := by
  show ∃ t, execRetrainTemperature i temp s = .next t ∧ _
  refine s.go_work _ hs ?_
  dsimp only
  split_ifs
  · rw [Dev.work_retrainTrigger, Dev.work_board]
  · rfl

theorem cpmMarginWarning_keeps (i : Fin 350) : ∃ t, exec (.cpmMarginAlarm i) s = .next t ∧ s.Keeps t := by
  show ∃ t, execCpmMarginAlarm i s = .next t ∧ _
  exact s.go_work _ hs (Dev.work_retrainTrigger _ _)

theorem retrainingEnd_keeps (i : Fin 350) (temp : Int) : ∃ t, exec (.retrainingEnd i temp) s = .next t ∧ s.Keeps t := by
  show ∃ t, execRetrainingEnd i temp s = .next t ∧ _
  refine s.go_work _ hs ?_
  dsimp only
  split_ifs <;> rfl

theorem voltageLoopPeriod_keeps (rs : List Slack) : ∃ t, exec (.voltageLoopPeriod rs) s = .next t ∧ s.Keeps t := by
  show ∃ t, execVoltageLoopPeriod rs s = .next t ∧ _
  refine s.go_work _ hs ?_
  dsimp only
  split_ifs
  · rfl
  · exact Dev.work_noteSlacks _ _
  · rw [Dev.work_setDomains, Dev.work_setCore_mv, Dev.work_foldl fun d k => d.work_setDomain k _, Dev.work_noteSlacks]

theorem frequencyLoopPeriod_keeps (rs : List Slack) : ∃ t, exec (.frequencyLoopPeriod rs) s = .next t ∧ s.Keeps t := by
  show ∃ t, execFrequencyLoopPeriod rs s = .next t ∧ _
  refine s.go_work _ hs ?_
  dsimp only
  split_ifs
  · rfl
  · exact Dev.work_noteSlacks _ _
  · rw [Dev.work_foldl fun d r => d.work_setIsland _ _, Dev.work_noteSlacks]

theorem capStep_keeps (temps : List (Nat × Int)) (w : Nat) : ∃ t, exec (.capStep temps w) s = .next t ∧ s.Keeps t := by
  show ∃ t, execCapStep temps w s = .next t ∧ _
  refine s.go_work _ hs ?_
  dsimp only
  split_ifs
  · rfl
  all_goals rw [Dev.work_foldl fun d c => d.work_setIsland c _, Dev.work_loops, Dev.work_foldl fun d x => by rw [Dev.work_setIsland, Dev.work_board]]

theorem droop_keeps (i : Fin 350) : ∃ t, exec (.droop i) s = .next t ∧ s.Keeps t := by
  show ∃ t, execDroop i s = .next t ∧ _
  refine s.go_work _ hs ?_
  dsimp only
  split_ifs
  · rfl
  · rw [Dev.work_count, Dev.work_setIsland]

theorem adcThresholdLoop_keeps (b : Fin 8) (thresholds : List (Nat × Int)) : ∃ t, exec (.adcThresholdLoop b thresholds) s = .next t ∧ s.Keeps t := by
  show ∃ t, execAdcThresholdLoop b thresholds s = .next t ∧ _
  refine s.go_work _ hs ?_
  split_ifs
  · rfl
  · exact Dev.work_foldl (fun d x => d.work_setArr _ _) _ _

theorem placementLoop_keeps (temps : List (Nat × Int)) : ∃ t, exec (.placementLoop temps) s = .next t ∧ s.Keeps t := by
  show ∃ t, execPlacementLoop temps s = .next t ∧ _
  refine s.go_work _ hs ?_
  dsimp only
  split_ifs <;> rfl

end

/-- Settles O60: each row leaves the work, and the end of its command does. -/
theorem portAndLoopFrame : Obligations.PortAndLoopFrame := by
  unfold Obligations.PortAndLoopFrame
  intro c s h hs
  cases c
  case portLock p => exact portLock_keeps hs p
  case portLinkLoss p => exact portLinkLoss_keeps hs p
  case helloSend p => exact helloSend_keeps hs p
  case hello p id assigned port => exact hello_keeps hs p id assigned port
  case helloTimeout p => exact helloTimeout_keeps hs p
  case lack p f => exact lack_keeps hs p f
  case lnak p f => exact lnak_keeps hs p f
  case lackSend p => exact lackSend_keeps hs p
  case retransmitTimeout p => exact retransmitTimeout_keeps hs p
  case arpRequest p ip mac => exact arpRequest_keeps hs p ip mac
  case neighbourSolicitation p ip mac => exact neighbourSolicitation_keeps hs p ip mac
  case icmpEchoRequest p v6 ip data => exact icmpEchoRequest_keeps hs p v6 ip data
  case pfcFrame p prio quanta => exact pfcFrame_keeps hs p prio quanta
  case sync p m => exact sync_keeps hs p m
  case followUp p m => exact followUp_keeps hs p m
  case delayReq p m => exact delayReq_keeps hs p m
  case delayResp p m => exact delayResp_keeps hs p m
  case announce p m => exact announce_keeps hs p m
  case announceReceiptTimeout p => exact announceReceiptTimeout_keeps hs p
  case syncInterval p => exact syncInterval_keeps hs p
  case ppsInEdge => exact ppsInEdge_keeps hs
  case ppsOutPulse => exact ppsOutPulse_keeps hs
  case retrainPeriod i => exact retrainPeriod_keeps hs i
  case retrainTemperature i temp => exact retrainTemperature_keeps hs i temp
  case cpmMarginAlarm i => exact cpmMarginWarning_keeps hs i
  case retrainingEnd i temp => exact retrainingEnd_keeps hs i temp
  case voltageLoopPeriod rs => exact voltageLoopPeriod_keeps hs rs
  case frequencyLoopPeriod rs => exact frequencyLoopPeriod_keeps hs rs
  case capStep temps w => exact capStep_keeps hs temps w
  case droop i => exact droop_keeps hs i
  case adcThresholdLoop b thresholds => exact adcThresholdLoop_keeps hs b thresholds
  case placementLoop temps => exact placementLoop_keeps hs temps
  all_goals exact absurd h Bool.false_ne_true

end Sys2Proof.Machine
end

section
/-! SUPPORT. Ports that lock, are lost and hear their neighbours, and the link layer (R554 to R560). -/
namespace Sys2Proof.Machine

/-- In a state that rests, each port's retransmission timer runs exactly while a frame waits for a LACK. -/
theorem State.rests_port {s : State} (hs : s.rests = true) (p : Nat) :
    (s.dev.port p).paused = [] ∧ (s.dev.port p).held = [] ∧ ((s.dev.port p).unacked = [] ↔ (s.dev.port p).lastSend = 0) := by
  have h := s.dev.port_still p (s.rests_iff.mp hs).1
  simp only [Port.still, Bool.and_eq_true, List.isEmpty_iff, beq_iff_eq] at h
  obtain ⟨⟨hp, hh⟩, ht⟩ := h
  exact ⟨hp, hh, by rw [← List.isEmpty_iff, ht, beq_iff_eq]⟩

/-- A port in which nothing is due, but for what does not bear on it. -/
theorem Port.still_congr {x y : Port} (h : x.still = true) (hp : y.paused = x.paused) (hh : y.held = x.held) (hu : y.unacked = x.unacked)
    (hl : y.lastSend = x.lastSend) : y.still = true := by
  simpa only [Port.still, hp, hh, hu, hl] using h

/-- A port with its link layer empty is still. -/
theorem Port.still_of_empty {x : Port} (hp : x.paused = []) (hh : x.held = []) (hu : x.unacked = []) (hl : x.lastSend = 0) : x.still = true := by
  simp only [Port.still, hp, hh, hu, hl, List.isEmpty_nil, beq_self_eq_true, Bool.and_self]

/-- A command from rest that leaves nothing due and writes no memory; `State.go_to` with the two facts about rest taken from it. -/
theorem State.rests_quiet {s : State} (hs : s.rests = true) : s.dev.quiet = true := (s.rests_iff.mp hs).1

theorem State.rests_stores {s : State} (hs : s.rests = true) : s.dev.stores = [] := (s.rests_iff.mp hs).2.1

@[simp] theorem Dev.count_stores (d : Dev) (idx sub k : Nat) : (d.count idx sub k).stores = d.stores := d.stores_count idx sub k

theorem Dev.quiet_unqueue (d : Dev) (p : Nat) (h : d.quiet = true) : (d.unqueue p).quiet = true :=
  (Dev.quiet_count _ _ _ _).trans (d.quiet_setPort p _ h (Port.still_congr (d.port_still p h) rfl rfl rfl rfl))

theorem Dev.quiet_portPower (d : Dev) (p : Nat) : (d.portPower p).quiet = d.quiet := by
  unfold Dev.portPower
  dsimp only
  split <;> rfl

theorem Dev.quiet_portLost (d : Dev) (p : Nat) (h : d.quiet = true) : (d.portLost p).quiet = true := by
  unfold Dev.portLost
  split
  · exact Dev.quiet_setPort _ _ _ ((Dev.quiet_portPower _ _).trans (d.quiet_unqueue p h)) (Port.still_of_empty rfl rfl rfl rfl)
  · exact Dev.quiet_setPort _ _ _ (d.quiet_unqueue p h) (Port.still_of_empty rfl rfl rfl rfl)

theorem Dev.stores_of_work {d d' : Dev} (h : d'.work = d.work) : d'.stores = d.stores := (congrArg Dev.stores h :)

theorem Dev.port_unqueue (d : Dev) (p q : Nat) : (d.unqueue p).port q = if q = p then { d.port p with queued := [] } else d.port q :=
  (Dev.count_port _ _ _ _ _).trans (d.port_setPort p q _)

theorem Dev.od_unqueue (d : Dev) (p : Nat) {k m : Nat} (hm : m < 256) (h : (k, m) ≠ (0x2A00, 9)) : (d.unqueue p).od k m = d.od k m :=
  Dev.count_od_other _ _ hm (by decide) h

theorem Dev.port_portPower (d : Dev) (p q : Nat) : (d.portPower p).port q = d.port q := by
  unfold Dev.portPower
  dsimp only
  split <;> rfl

theorem Dev.od_portPower (d : Dev) (p k m : Nat) : (d.portPower p).od k m = d.od k m := by
  unfold Dev.portPower
  dsimp only
  split <;> rfl

theorem Dev.port_portTrain (d : Dev) (p : Fin 12) (q : Nat) : (d.portTrain p).port q =
    if q = p then { (d.port p).fresh with st := .training, mode := d.od (0x2A20 + p) 2, ethertype := d.od 0x2A00 4 } else d.port q := by
  unfold Dev.portTrain
  dsimp only
  rw [Dev.port_setPort, Dev.port_portPower, Dev.port_portPower, Dev.port_unqueue, Dev.port_unqueue, Dev.od_portPower, Dev.od_portPower,
    d.od_unqueue p (by decide) (by simp [portOd]), d.od_unqueue p (by decide) (by decide), if_pos rfl]
  split <;> rfl

theorem Dev.port_portOff (d : Dev) (p q : Nat) : (d.portOff p).port q = if q = p then { (d.port p).fresh with st := .off } else d.port q := by
  unfold Dev.portOff
  dsimp only
  rw [Dev.port_setPort, Dev.port_unqueue, Dev.port_unqueue, if_pos rfl]
  split <;> rfl

theorem Dev.port_portLost (d : Dev) (p : Fin 12) (q : Nat) : (d.portLost p).port q = if q = p then
      (if d.portMay p then { (d.port p).fresh with st := .training, mode := d.od (0x2A20 + p) 2, ethertype := d.od 0x2A00 4 }
        else { (d.port p).fresh with st := .off }) else d.port q := by
  unfold Dev.portLost
  split
  · exact d.port_portTrain p q
  · exact d.port_portOff p q

theorem Dev.port_linkSend (d : Dev) (p q : Nat) (f : Frame) : (d.linkSend p f).port q = d.port q := Dev.count_port _ _ _ _ _

theorem Dev.quiet_linkSend (d : Dev) (p : Nat) (f : Frame) : (d.linkSend p f).quiet = d.quiet := Dev.quiet_count _ _ _ _

@[simp] theorem Dev.count_out (d : Dev) (idx sub k : Nat) : (d.count idx sub k).out = d.out := by
  unfold Dev.count
  split <;> rfl

theorem Dev.linkSend_out (d : Dev) (p : Nat) (f : Frame) :
    (d.linkSend p f).out = d.out ++ [.frame p { f with vc := 7, linkLocal := true, len := f.payload.length }] := Dev.count_out _ _ _ _

theorem Dev.linkFrame_up (d : Dev) (p : Nat) (f : Dev → Dev) (hst : (d.port p).st.linkUp = true) (hm : (d.port p).mode = 0) :
    d.linkFrame p f = f (d.count (portOd p) 0xF 1) := if_pos (by simp [hst, hm])

/-- A HELLO of the last millisecond from another assigned neighbour takes a linked Purlin port into service (R556). -/
theorem Dev.portServe_heard (d : Dev) (e : Env) (p : Nat) (x : Port) {own : Nat} (hid : d.fabric.id = some own) (hm : x.mode = 0)
    (hv : x.nbValid = true) (hn : x.nbId ≠ own) (ht : e.time < x.lastHello + 1000000) :
    (d.setPort p x).portServe e p = d.setPort p { x with st := if x.st = .linked && x.nbAssigned then .inService else x.st } := by
  have hfab : (d.setPort p x).fabric.id = some own := hid
  have hcond : (x.st == .linked && x.mode = 0 && x.nbValid && x.nbAssigned && x.nbId != own && e.time < x.lastHello + 1000000) =
      (x.st = .linked && x.nbAssigned) := by
    simp [hm, hv, hn, ht, Bool.beq_eq_decide_eq]
  unfold Dev.portServe
  rw [Dev.setPort_port, hfab]
  dsimp only
  rw [hcond]
  split
  · rw [Dev.setPort_setPort]
  · rfl

/-- A fold that gives each key of a list without repeats its new value once. -/
theorem smGet_foldl_set {α : Type} [DecidableEq α] (dflt : α) (g : Nat → α → α) (l : List Nat) (m : SMap α) (k : Nat) (hl : l.Nodup) :
    smGet dflt (l.foldl (fun m v => smSet dflt m v (g v (smGet dflt m v))) m) k = if k ∈ l then g k (smGet dflt m k) else smGet dflt m k := by
  induction l generalizing m with
  | nil => simp
  | cons v l ih =>
    obtain ⟨hv, hl⟩ := List.nodup_cons.mp hl
    rw [List.foldl_cons, ih _ hl, smGet_set]
    by_cases hk : k = v
    · subst hk
      simp [hv]
    · simp [hk]

/-- Messages sent in a row, each counted, go out in their order and move no port. -/
theorem Dev.foldl_sendCount {α : Type} (o : α → Out) (idx sub : Nat) (l : List α) (d : Dev) :
    (l.foldl (fun d u => (d.send (o u)).count idx sub 1) d).out = d.out ++ l.map o ∧
      (l.foldl (fun d u => (d.send (o u)).count idx sub 1) d).fabric = d.fabric := by
  induction l generalizing d with
  | nil => simp
  | cons u l ih =>
    obtain ⟨hout, hfab⟩ := ih ((d.send (o u)).count idx sub 1)
    refine ⟨?_, hfab.trans (Dev.count_fabric _ _ _ _)⟩
    rw [List.foldl_cons, hout, Dev.count_out]
    exact List.append_assoc d.out [o u] _

/-- What is sent again, with no retraining due (R559). -/
theorem Dev.retransmit_spec (d : Dev) (e : Env) (p : Nat) (seq : W16) (hr : (d.port p).retries < 31)
    (hf : ((d.port p).unacked.filter fun u => (u.1 - seq).toNat < 0x8000) ≠ []) :
    (d.retransmit e p seq).out = d.out ++ ((d.port p).unacked.filter fun u => (u.1 - seq).toNat < 0x8000).map (fun u => .frame p u.2) ∧
      ∀ q, (d.retransmit e p seq).port q = if q = p then { d.port p with retries := (d.port p).retries + 1, lastSend := e.time } else d.port q := by
  unfold Dev.retransmit
  dsimp only
  rw [if_neg (by simpa using hf), if_neg (by omega)]
  generalize hl : (d.port p).unacked.filter (fun u => decide ((u.1 - seq).toNat < 0x8000)) = l
  obtain ⟨hout, hfab⟩ := Dev.foldl_sendCount (fun u : W16 × Frame => Out.frame p u.2) (portOd p) 0x10 l d
  have hport (q : Nat) : ((l.foldl (fun d u => (d.send (.frame p u.2)).count (portOd p) 0x10 1) d).count (portOd p) 9 1).port q = d.port q := by
    rw [Dev.count_port, Dev.port, hfab, Dev.port]
  refine ⟨(Dev.count_out _ _ _ _).trans hout, fun q => ?_⟩
  rw [Dev.port_setPort, hport, hport]

theorem Dev.QuietButTimers.send {d : Dev} (h : d.QuietButTimers) (o : Out) : (d.send o).QuietButTimers := ⟨h.bare, h.paused, h.held⟩

theorem Dev.QuietButTimers.foldl {α : Type} {f : Dev → α → Dev} (hf : ∀ d x, d.QuietButTimers → (f d x).QuietButTimers) (l : List α) {d : Dev}
    (h : d.QuietButTimers) : (l.foldl f d).QuietButTimers := by
  induction l generalizing d with
  | nil => exact h
  | cons x l ih => exact ih (hf d x h)

theorem Dev.QuietButTimers.retransmit {d : Dev} (h : d.QuietButTimers) (e : Env) (p : Nat) (seq : W16) (hr : (d.port p).retries < 31) :
    (d.retransmit e p seq).QuietButTimers := by
  unfold Dev.retransmit
  dsimp only
  rw [if_neg (c := 32 ≤ _) (by omega)]
  split
  · exact h
  · generalize hl : (d.port p).unacked.filter (fun u => decide ((u.1 - seq).toNat < 0x8000)) = l
    have hq := (Dev.QuietButTimers.foldl (fun d (u : W16 × Frame) hd => (hd.send (.frame p u.2)).count (portOd p) 0x10 1) l h).count (portOd p) 9 1
    exact hq.setPort p _ (hq.paused p) (hq.held p)

/-- The HELLO that the device sends by a port (R556). -/
def Dev.helloFrame (d : Dev) (p : Nat) : Frame :=
  { ty := 0x38, src := d.fabId, payload := leBytes 4 (d.fabId + 4096 * b2n d.fabric.id.isSome + 65536 * p) }

section
variable {s : State} {p : Fin 12} (hs : s.rests = true)
include hs

theorem exec_portLock (hst : (s.dev.port p).st = .training) (hnb : (s.dev.port p).nbValid = false) :
    exec (.portLock p) s = .next { s with dev := s.dev.setPort p { s.dev.port p with st := if (s.dev.port p).mode = 0 then .linked else .inService } } := by
  show execPortLock p s = _
  refine s.go_to _ _ hs ?_ (s.dev.quiet_setPort p _ (State.rests_quiet hs)
    (Port.still_congr (s.dev.port_still p (State.rests_quiet hs)) rfl rfl rfl rfl)) (State.rests_stores hs)
  have hserve (x : Port) (hx : x.nbValid = false) : (s.dev.setPort p x).portServe s.env p = s.dev.setPort p x := by
    unfold Dev.portServe
    dsimp only
    split
    · exact if_neg (by simp [hx])
    · rfl
  simp only [hst, bne_self_eq_false, Bool.false_eq_true, if_false]
  split_ifs
  · exact hserve _ hnb
  · rfl


theorem exec_portLinkLoss (hst : (s.dev.port p).st.linkUp = true) : exec (.portLinkLoss p) s = .next { s with dev := s.dev.portLost p } := by
  show execPortLinkLoss p s = _
  exact s.go_to _ _ hs (if_pos hst) (s.dev.quiet_portLost p (State.rests_quiet hs))
    ((Dev.stores_of_work (s.dev.work_portLost p)).trans (State.rests_stores hs))

theorem exec_helloSend (hst : (s.dev.port p).st.linkUp = true) (hm : (s.dev.port p).mode = 0) (ht : (s.dev.port p).lastHelloSent + 100000 ≤ s.time) :
    exec (.helloSend p) s = .next { s with dev := (s.dev.setPort p { s.dev.port p with lastHelloSent := s.time }).linkSend p (s.dev.helloFrame p) } := by
  show execHelloSend p s = _
  refine s.go_to _ _ hs (if_pos ?_) ?_ ?_
  · simp [hst, hm, ht]
  · rw [Dev.quiet_linkSend]
    exact s.dev.quiet_setPort p _ (State.rests_quiet hs) (Port.still_congr (s.dev.port_still p (State.rests_quiet hs)) rfl rfl rfl rfl)
  · exact (Dev.count_stores _ _ _ _).trans (State.rests_stores hs)

theorem exec_hello (id : BitVec 12) (assigned : Bool) (port : Fin 16) {own : Nat} (hst : (s.dev.port p).st.linkUp = true) (hm : (s.dev.port p).mode = 0)
    (hid : s.dev.fabric.id = some own) (hn : own ≠ id.toNat) :
    exec (.hello p id assigned port) s = .next { s with dev := (s.dev.count (portOd p) 0xF 1).setPort p { s.dev.port p with
      st := if (s.dev.port p).st = .linked && assigned then .inService else (s.dev.port p).st
      nbId := id.toNat
      nbPort := port
      nbValid := true
      nbAssigned := assigned
      lastHello := s.time } } := by
  show execHello p id assigned port s = _
  have hid' : (s.dev.count (portOd p) 0xF 1).fabric.id = some own := by rw [Dev.count_fabric, hid]
  refine s.go_to _ _ hs ?_ (Dev.quiet_setPort _ _ _ ((Dev.quiet_count _ _ _ _).trans (State.rests_quiet hs))
    (Port.still_congr (s.dev.port_still p (State.rests_quiet hs)) rfl rfl rfl rfl)) ((Dev.count_stores _ _ _ _).trans (State.rests_stores hs))
  rw [Dev.linkFrame_up _ _ _ hst hm]
  dsimp only
  have hother (x : Port) : ¬ ((s.dev.count (portOd p) 0xF 1).setPort p x).fabric.id = some id.toNat := fun h => hn (Option.some.inj (hid'.symm.trans h))
  rw [Dev.count_port, if_neg (hother _)]
  exact Dev.portServe_heard _ _ _ _ hid' hm rfl hn.symm (Nat.lt_add_of_pos_right (by decide))

theorem exec_helloTimeout (hst : (s.dev.port p).st = .inService) (hm : (s.dev.port p).mode = 0) (ht : (s.dev.port p).lastHello + 1000000 ≤ s.time) :
    exec (.helloTimeout p) s = .next { s with dev := (s.dev.unqueue p).setPort p { (s.dev.unqueue p).port p with st := .linked } } := by
  show execHelloTimeout p s = _
  have hq := s.dev.quiet_unqueue p (State.rests_quiet hs)
  exact s.go_to _ _ hs (if_pos (by simp [hst, hm, ht])) (Dev.quiet_setPort _ _ _ hq (Port.still_congr (Dev.port_still _ p hq) rfl rfl rfl rfl))
    ((Dev.stores_of_work (Dev.work_unqueue _ _)).trans (State.rests_stores hs))

theorem exec_lackSend (hst : (s.dev.port p).st.linkUp = true) (ho : (s.dev.port p).owesLack = true) (ht : (s.dev.port p).lastLack + 1000 ≤ s.time) :
    exec (.lackSend p) s = .next { s with dev := s.dev.sendLack s.env p } := by
  show execLackSend p s = _
  refine s.go_to _ _ hs (if_pos (by simp [hst, ho, ht])) ?_ ((Dev.count_stores _ _ _ _).trans (State.rests_stores hs))
  exact (Dev.quiet_linkSend _ _ _).trans (Dev.quiet_setPort _ _ _ (State.rests_quiet hs) (Port.still_congr (s.dev.port_still p (State.rests_quiet hs)) rfl rfl rfl rfl))

/-- Frames are sent again from rest. -/
theorem go_retransmit (c : Instr) (f : Env → Dev → Dev) (d : Dev) (seq : W16) (hc : exec c s = s.go f) (hf : f s.env s.dev = d.retransmit s.env p seq)
    (hd : d.QuietButTimers) (hw : d.work = s.dev.work) (hr : (d.port p).retries < 31) :
    exec c s = .next { s with dev := (d.retransmit s.env p seq).stampPorts s.env } :=
  hc.trans (s.go_stamped _ _ hs hf (hd.retransmit s.env p seq hr)
    ((Dev.stores_of_work ((d.work_retransmit _ _ _).trans hw)).trans (State.rests_stores hs)))

theorem exec_lnak {f : Frame} (hty : f.ty = 0x3A) (hst : (s.dev.port p).st.linkUp = true) (hm : (s.dev.port p).mode = 0) (hr : (s.dev.port p).retries < 31) :
    exec (.lnak p f) s = .next { s with dev :=
      (((s.dev.count (portOd p) 0xF 1).retransmit s.env p (BitVec.ofNat 16 f.addr))).stampPorts s.env } := by
  refine go_retransmit hs _ _ _ _ (show execLnak p f s = _ from rfl) ?_ ((Dev.quietButTimers_of_quiet _ (State.rests_quiet hs)).count _ _ _)
    (Dev.work_count _ _ _ _) (by rwa [Dev.count_port])
  rw [if_pos hty, Dev.linkFrame_up _ _ _ hst hm]

theorem exec_retransmitTimeout {u : W16 × Frame} {rest : List (W16 × Frame)} (hst : (s.dev.port p).st.linkUp = true) (hu : (s.dev.port p).unacked = u :: rest)
    (ht : (s.dev.port p).lastSend + 20000 ≤ s.time) (hr : (s.dev.port p).retries < 31) :
    exec (.retransmitTimeout p) s = .next { s with dev := (s.dev.retransmit s.env p u.1).stampPorts s.env } := by
  refine go_retransmit hs _ _ _ _ (show execRetransmitTimeout p s = _ from rfl) ?_ (Dev.quietButTimers_of_quiet _ (State.rests_quiet hs)) rfl hr
  obtain ⟨-, -, hsend⟩ := State.rests_port hs p
  have hl : (s.dev.port p).lastSend ≠ 0 := fun h => by simp [hu] at hsend; exact hsend h
  dsimp only
  rw [hu]
  exact if_pos (by simp [hst, hl, ht])

/-- The port with the frames that a LACK acknowledges gone and its credits added. -/
def Port.lacked (x : Port) (time : Nat) (f : Frame) : Port :=
  { x with
    unacked := x.unacked.filter fun u => !((BitVec.ofNat 16 f.addr - u.1).toNat < 0x8000)
    credits := (List.range 7).foldl (fun m v => smSet 512 m v (min 512 (smGet 512 m v + (fld f.payload (2 * v) 2 : Int)))) x.credits
    retries := if (x.unacked.filter fun u => !((BitVec.ofNat 16 f.addr - u.1).toNat < 0x8000)).length < x.unacked.length then 0 else x.retries
    lastSend := time
    queued := [] }

omit hs in
theorem Port.lacked_credit (x : Port) (time : Nat) (f : Frame) {v : Nat} (hv : v < 7) :
    (x.lacked time f).credit v = min 512 (x.credit v + (fld f.payload (2 * v) 2 : Int)) := by
  refine (smGet_foldl_set (512 : Int) (fun v c => min 512 (c + (fld f.payload (2 * v) 2 : Int))) (List.range 7) x.credits v List.nodup_range).trans ?_
  rw [if_pos (List.mem_range.mpr hv)]
  rfl

theorem exec_lack {f : Frame} (hty : f.ty = 0x39) (hst : (s.dev.port p).st.linkUp = true) (hm : (s.dev.port p).mode = 0) (hqu : (s.dev.port p).queued = []) :
    exec (.lack p f) s = .next { s with dev :=
      ((s.dev.count (portOd p) 0xF 1).setPort p ((s.dev.port p).lacked s.time f)).stampPorts s.env } := by
  show execLack p f s = _
  obtain ⟨hpa, hh, -⟩ := State.rests_port hs p
  refine s.go_stamped _ _ hs ?_ ((((Dev.quietButTimers_of_quiet _ (State.rests_quiet hs)).count _ _ _).setPort p _ hpa hh))
    ((Dev.count_stores _ _ _ _).trans (State.rests_stores hs))
  rw [if_pos hty, Dev.linkFrame_up _ _ _ hst hm, Dev.takeLack, Dev.portPump]
  rw [Dev.setPort_port, Dev.setPort_setPort, Dev.count_port, hqu]
  rfl

end

/-- The stamps move the retransmission timers alone. -/
theorem Dev.stampPorts_port (d : Dev) (e : Env) (q : Nat) : ((d.stampPorts e).port q).unacked = (d.port q).unacked ∧
    ((d.stampPorts e).port q).credits = (d.port q).credits ∧ ((d.stampPorts e).port q).retries = (d.port q).retries := by
  rw [Dev.port_stampPorts]
  split_ifs <;> exact ⟨rfl, rfl, rfl⟩

theorem Dev.stampPorts_out (d : Dev) (e : Env) : (d.stampPorts e).out = d.out := rfl

section
variable {s : State} {p : Fin 12} (hs : s.rests = true)
include hs

theorem lack_leaves {f : Frame} (hty : f.ty = 0x39) (hst : (s.dev.port p).st.linkUp = true) (hm : (s.dev.port p).mode = 0) (hqu : (s.dev.port p).queued = []) :
    ∃ t, exec (.lack p f) s = .next t ∧
      (t.dev.port p).unacked = ((s.dev.port p).unacked.filter fun u => !((BitVec.ofNat 16 f.addr - u.1).toNat < 0x8000)) ∧
      (∀ v, v < 7 → (t.dev.port p).credit v = min 512 ((s.dev.port p).credit v + (fld f.payload (2 * v) 2 : Int))) ∧ t.dev.out = s.dev.out ∧ t.mem = s.mem := by
  refine ⟨_, exec_lack hs hty hst hm hqu, ?_, fun v hv => ?_, ?_, rfl⟩
  · exact (Dev.stampPorts_port _ _ _).1.trans (congrArg Port.unacked (Dev.setPort_port _ _ _))
  · rw [Port.credit, (Dev.stampPorts_port _ _ _).2.1, Dev.setPort_port]
    exact (s.dev.port p).lacked_credit s.time f hv
  · dsimp only
    rw [Dev.stampPorts_out, Dev.setPort_out, Dev.count_out]

theorem lnak_leaves {f : Frame} (hty : f.ty = 0x3A) (hst : (s.dev.port p).st.linkUp = true) (hm : (s.dev.port p).mode = 0) (hr : (s.dev.port p).retries < 31)
    (hf : ((s.dev.port p).unacked.filter fun u => (u.1 - BitVec.ofNat 16 f.addr).toNat < 0x8000) ≠ []) :
    ∃ t, exec (.lnak p f) s = .next t ∧
      t.dev.out = s.dev.out ++ ((s.dev.port p).unacked.filter fun u => (u.1 - BitVec.ofNat 16 f.addr).toNat < 0x8000).map (fun u => .frame p u.2) ∧
      (t.dev.port p).unacked = (s.dev.port p).unacked ∧ (t.dev.port p).retries = (s.dev.port p).retries + 1 ∧ t.mem = s.mem := by
  have hx : (s.dev.count (portOd p) 0xF 1).port p = s.dev.port p := Dev.count_port _ _ _ _ _
  obtain ⟨hout, hport⟩ := (s.dev.count (portOd p) 0xF 1).retransmit_spec s.env p (BitVec.ofNat 16 f.addr) (hx ▸ hr) (hx ▸ hf)
  rw [hx, Dev.count_out] at hout
  refine ⟨_, exec_lnak hs hty hst hm hr, ?_, ?_, ?_, rfl⟩
  · dsimp only
    rw [Dev.stampPorts_out, hout]
  · rw [(Dev.stampPorts_port _ _ _).1, hport, if_pos rfl, hx]
  · rw [(Dev.stampPorts_port _ _ _).2.2, hport, if_pos rfl, hx]

theorem retransmitTimeout_leaves {u : W16 × Frame} {rest : List (W16 × Frame)} (hst : (s.dev.port p).st.linkUp = true)
    (hu : (s.dev.port p).unacked = u :: rest) (ht : (s.dev.port p).lastSend + 20000 ≤ s.time) (hr : (s.dev.port p).retries < 31) :
    ∃ t, exec (.retransmitTimeout p) s = .next t ∧
      t.dev.out = s.dev.out ++ ((u :: rest).filter fun w => (w.1 - u.1).toNat < 0x8000).map (fun w => .frame p w.2) ∧
      (t.dev.port p).unacked = (s.dev.port p).unacked ∧ (t.dev.port p).retries = (s.dev.port p).retries + 1 ∧ (t.dev.port p).lastSend = s.time ∧ t.mem = s.mem := by
  have hf : ((s.dev.port p).unacked.filter fun w => (w.1 - u.1).toNat < 0x8000) ≠ [] := by
    rw [hu]
    exact List.ne_nil_of_mem (List.mem_filter.mpr ⟨List.mem_cons_self, by rw [BitVec.sub_self]; decide⟩)
  have hpos : s.time ≠ 0 := by omega
  obtain ⟨hout, hport⟩ := s.dev.retransmit_spec s.env p u.1 hr hf
  refine ⟨_, exec_retransmitTimeout hs hst hu ht hr, ?_, ?_, ?_, ?_, rfl⟩
  · dsimp only
    rw [Dev.stampPorts_out, hout, hu]
  · rw [(Dev.stampPorts_port _ _ _).1, hport, if_pos rfl]
  · rw [(Dev.stampPorts_port _ _ _).2.2, hport, if_pos rfl]
  · rw [Dev.port_stampPorts, hport, if_pos rfl]
    simp [hu, hpos]

end

/-- Settles O51: each clause is what one row leaves of its port. -/
theorem portsAndLinkLayer : Obligations.PortsAndLinkLayer := by
  unfold Obligations.PortsAndLinkLayer
  dsimp only
  refine ⟨fun p s hs hst hnb => exec_portLock hs hst hnb, fun p s hs hst _ => ⟨_, exec_portLinkLoss hs hst, rfl, fun k hk => ?_, ?_⟩,
    fun p s hs hst hm ht => ⟨_, exec_helloSend hs hst hm ht, ?_, rfl, Dev.linkSend_out _ _ _⟩,
    fun p id assigned port own s hs hst hm hid hn => ⟨_, exec_hello hs id assigned port hst hm hid hn, rfl, Dev.setPort_port _ _ _⟩,
    fun p s hs hst hm hqu ht => ⟨_, exec_helloTimeout hs hst hm ht, ?_, rfl⟩,
    fun p f s hs hty hst hm hqu => lack_leaves hs hty hst hm hqu, fun p f s hs hty hst hm hr hf => lnak_leaves hs hty hst hm hr hf,
    fun p u rest s hs hst hu ht hr => retransmitTimeout_leaves hs hst hu ht hr,
    fun p s hs hst ho ht => ⟨_, exec_lackSend hs hst ho ht, Dev.linkSend_out _ _ _, ?_, rfl⟩⟩
  · exact (Dev.port_portLost _ _ _).trans (if_neg hk)
  · exact (Dev.port_portLost _ _ _).trans (if_pos rfl)
  · exact (Dev.port_linkSend _ _ _ _).trans (Dev.setPort_port _ _ _)
  · rw [Dev.setPort_port, Dev.port_unqueue, if_pos rfl, hqu.symm]
  · exact (Dev.port_linkSend _ _ _ _).trans (Dev.setPort_port _ _ _)

end Sys2Proof.Machine
end

section
/-! SUPPORT. One fault that a command detects (R650 to R654): what its record moves, and what follows as the command ends. -/
namespace Sys2Proof.Machine

/-- The device without its fault log, its counters and its journals. -/
def Dev.unlogged (d : Dev) : Dev :=
  { d with srv := { d.srv with od := [] }, flog := [], flogSeq := 0, free := 0, journals := [], jseq := 0, jtick := {} }

theorem Dev.quiet_of_unlogged {d d' : Dev} (h : d'.unlogged = d.unlogged) : d'.quiet = d.quiet := (congrArg Dev.quiet h :)

theorem Dev.unlogged_setOd (d : Dev) (idx sub v : Nat) : (d.setOd idx sub v).unlogged = d.unlogged := rfl

theorem Dev.unlogged_setJour (d : Dev) (n : Nat) (j : Journal) : (d.setJour n j).unlogged = d.unlogged := rfl

theorem Dev.unlogged_count (d : Dev) (idx sub k : Nat) : (d.count idx sub k).unlogged = d.unlogged := by
  unfold Dev.count
  split <;> rfl

theorem Dev.foldl_keeps {α β : Type} (g : Dev → β) {f : Dev → α → Dev} (hf : ∀ d x, g (f d x) = g d) (l : List α) (d : Dev) : g (l.foldl f d) = g d := by
  induction l generalizing d with
  | nil => rfl
  | cons x l ih => exact (ih _).trans (hf d x)

/-- The entry is one that fault records move: a Bay's newest record, or a count of records of a class. -/
def logEntry (idx sub : Nat) : Prop := (0x2D10 ≤ idx ∧ idx < 0x2D20 ∧ sub = 8) ∨ (idx = 0x2D00 ∧ 5 ≤ sub ∧ sub ≤ 9)

theorem Dev.setLog_spec (d : Dev) (e : Env) (l : List FRec) : (d.setLog e l).unlogged = d.unlogged ∧ (d.setLog e l).flogSeq = d.flogSeq ∧
    (d.setLog e l).flog = (fRecNums e.time d.flogSeq l).take 1024 ∧
    ∀ k m, m < 256 → ¬ (0x2D10 ≤ k ∧ k < 0x2D20 ∧ m = 8) → (d.setLog e l).od k m = d.od k m := by
  unfold Dev.setLog
  dsimp only
  generalize (List.takeWhile _ _).reverse = r
  refine ⟨?_, ?_, ?_, fun k m hm h => ?_⟩
  · exact Dev.foldl_keeps Dev.unlogged (fun d x => by split <;> rfl) r _
  · exact Dev.foldl_keeps Dev.flogSeq (fun d x => by split <;> rfl) r _
  · exact Dev.foldl_keeps Dev.flog (fun d x => by split <;> rfl) r _
  · refine Dev.foldl_keeps (fun d => d.od k m) (fun d x => ?_) r _
    split
    · next hx => exact d.setOd_od_other _ hm (by decide) (by simp only [ne_eq, Prod.mk.injEq, not_and]; omega)
    · rfl

/-- The class's counter of fault records. -/
def recCount (sev : Nat) : Nat := match sev with | 2 => 5 | 3 => 6 | 4 => 7 | 5 => 8 | _ => 9

theorem recCount_bounds (sev : Nat) : 5 ≤ recCount sev ∧ recCount sev ≤ 9 := by
  unfold recCount
  split <;> decide

theorem Dev.logRec_eq (d : Dev) (e : Env) (f : FRec) : d.logRec e f =
    (({ d with flogSeq := d.flogSeq + 1 } : Dev).setLog e (fRecIns { f with time := e.time } d.flog)).count 0x2D00 (recCount f.severity) 1 := rfl

theorem Dev.count_flog (d : Dev) (idx sub k : Nat) : (d.count idx sub k).flog = d.flog := by
  unfold Dev.count
  split <;> rfl

theorem Dev.count_flogSeq (d : Dev) (idx sub k : Nat) : (d.count idx sub k).flogSeq = d.flogSeq := by
  unfold Dev.count
  split <;> rfl

/-- Where no record of the tick stands, a record goes to the head of the log. -/
theorem fRecIns_open {f : FRec} {l : List FRec} (h : ∀ x ∈ l, x.time ≠ f.time) : fRecIns f l = f :: l := by
  cases l with
  | nil => rfl
  | cons x l => simp [fRecIns, h x List.mem_cons_self]

section
variable (d : Dev) (e : Env) (f : FRec)

theorem Dev.logRec_unlogged : (d.logRec e f).unlogged = d.unlogged := by
  rw [Dev.logRec_eq, Dev.unlogged_count]
  exact (Dev.setLog_spec _ _ _).1

theorem Dev.logRec_flogSeq : (d.logRec e f).flogSeq = d.flogSeq + 1 := by
  rw [Dev.logRec_eq, Dev.count_flogSeq]
  exact (Dev.setLog_spec _ _ _).2.1

theorem Dev.logRec_od {k m : Nat} (hm : m < 256) (h : ¬ logEntry k m) : (d.logRec e f).od k m = d.od k m := by
  obtain ⟨h8, h5⟩ := not_or.mp h
  have hb := recCount_bounds f.severity
  rw [Dev.logRec_eq, Dev.count_od_other _ _ hm (by omega) (by simp only [ne_eq, Prod.mk.injEq, not_and]; omega)]
  exact (Dev.setLog_spec _ _ _).2.2.2 k m hm h8

theorem Dev.logRec_flog (h : ∀ x ∈ d.flog, x.time ≠ e.time) :
    (d.logRec e f).flog.head? = some { f with time := e.time, seq := d.flogSeq + 1 } := by
  rw [Dev.logRec_eq, Dev.count_flog, (Dev.setLog_spec _ _ _).2.2.1, fRecIns_open h]
  simp [fRecNums]

end

/-! ### The names that RESTART records give -/

theorem Dev.putRec_keeps {α : Type} (g : Dev → α) (h : ∀ d n j, g (d.setJour n j) = g d) (h' : ∀ (d : Dev) k, g { d with jseq := k } = g d) (d : Dev) (t : Nat)
    (r : TickRec) : g (d.putRec t r) = g d := (h _ _ _).trans (h' _ _)

theorem Dev.recast_keeps {α : Type} (g : Dev → α) (h : ∀ d n j, g (d.setJour n j) = g d) (h' : ∀ (d : Dev) k, g { d with jseq := k } = g d) (d : Dev) (e : Env) :
    g (d.recast e) = g d := by
  unfold Dev.recast
  rw [Dev.foldl_keeps g fun d r => Dev.putRec_keeps g h h' d e.time r]
  exact (Dev.foldl_keeps g (fun d c => h d _ _) _ _).trans (h' d _)

theorem Dev.nameRestarts_keeps {α : Type} (g : Dev → α) (h : ∀ d n j, g (d.setJour n j) = g d) (h' : ∀ (d : Dev) k, g { d with jseq := k } = g d)
    (hj : ∀ (d : Dev) x, g { d with jtick := x } = g d) (d : Dev) (e : Env) : g (d.nameRestarts e) = g d := by
  unfold Dev.nameRestarts
  dsimp only
  split
  · rfl
  · exact (Dev.recast_keeps g h h' _ e).trans (hj d _)

section
variable (d : Dev) (e : Env)

theorem Dev.nameRestarts_unlogged : (d.nameRestarts e).unlogged = d.unlogged :=
  Dev.nameRestarts_keeps Dev.unlogged (fun _ _ _ => rfl) (fun _ _ => rfl) (fun _ _ => rfl) d e

theorem Dev.nameRestarts_flogSeq : (d.nameRestarts e).flogSeq = d.flogSeq :=
  Dev.nameRestarts_keeps Dev.flogSeq (fun _ _ _ => rfl) (fun _ _ => rfl) (fun _ _ => rfl) d e

theorem Dev.nameRestarts_flog : (d.nameRestarts e).flog = d.flog :=
  Dev.nameRestarts_keeps Dev.flog (fun _ _ _ => rfl) (fun _ _ => rfl) (fun _ _ => rfl) d e

theorem Dev.nameRestarts_od (k m : Nat) : (d.nameRestarts e).od k m = d.od k m :=
  Dev.nameRestarts_keeps (fun d => d.od k m) (fun _ _ _ => rfl) (fun _ _ => rfl) (fun _ _ => rfl) d e

end

/-! ### The end of a command that detects one fault -/

/-- What one fault comes to as its command ends (R650). -/
def Dev.oneFault (d : Dev) (e : Env) (cls : FaultClass) (bay : Nat) (f : Flt) : Dev :=
  (match cls with
    | .corrected => (([] : List Nat), d.corrected)
    | .retried => ([], d.retried e bay f)
    | .job => if bay < 16 then d.jobFault e [] bay f else ([], d.logRec e (d.fltRec .job 0xFF f))
    | .bay => ([], d.bayFault e bay f)
    | .device => ([], d.deviceFault e f)).2.nameRestarts e

theorem Dev.settleFaults_one (d : Dev) (e : Env) (cls : FaultClass) (bay : Nat) (f : Flt) (hf : d.faults = []) (hc : e.calm = true) :
    (d.fault cls bay f).settleFaults e = d.oneFault e cls bay f := by
  have hw (x : Dev) : x.lossWaits e bay = false := x.lossWaits_calm e bay hc
  have hfs : (d.fault cls bay f).faults = [(cls, bay, f)] := by rw [Dev.fault, hf]; rfl
  have hback : ({ d.fault cls bay f with faults := [] } : Dev) = d := by rw [← hf]; rfl
  unfold Dev.settleFaults Dev.oneFault
  simp only [hfs, List.filter_cons, List.filter_nil, hw, Bool.not_false, if_true, Bool.false_eq_true, if_false]
  rw [if_neg (by simp [faultOrder, faultIns])]
  simp only [faultOrder, faultIns, List.foldl_cons, List.foldl_nil, hback] <;>
    exact congrArg (fun x : List Nat × Dev => x.2.nameRestarts e) (by cases cls <;> rfl)

/-- What a command ends with once its faults have taken effect. -/
def Dev.afterFaults (d : Dev) (e : Env) : Dev :=
  ((d.flushCkpts e).flushMirrors e).flushRecs e |>.flushPaused e |>.askAgain e |>.stampPorts e |>.noteSmb

theorem Dev.settle_eq (d : Dev) (e : Env) : d.settle e = (((d.flushSkies e).flushPlaces e).settleFaults e).afterFaults e := rfl

theorem Dev.afterFaults_quiet (d : Dev) (e : Env) (h : d.quiet = true) : d.afterFaults e = d := by
  obtain ⟨skies, places, faults, -, -, -, -, -, -⟩ := d.quiet_iff.mp h
  have hset := d.settle_quiet e h
  rw [d.settle_eq, d.flushSkies_none e skies, d.flushPlaces_none e places, d.settleFaults_none e faults] at hset
  exact hset

/-- A command whose one fault leaves nothing due ends with what the fault comes to. -/
theorem Dev.settle_fault (d : Dev) (e : Env) (cls : FaultClass) (bay : Nat) (f : Flt) (hq : d.quiet = true) (hc : e.calm = true)
    (hx : (d.oneFault e cls bay f).quiet = true) : (d.fault cls bay f).settle e = d.oneFault e cls bay f := by
  obtain ⟨skies, places, faults, -, -, -, -, -, -⟩ := d.quiet_iff.mp hq
  rw [Dev.settle_eq, Dev.flushSkies_none _ e (show ((d.fault cls bay f).pages.all fun c => c.2.sky.isEmpty) = true from skies),
    Dev.flushPlaces_none _ e (show (d.fault cls bay f).places = [] from places), d.settleFaults_one e cls bay f faults hc]
  exact Dev.afterFaults_quiet _ e hx

/-- A command from rest that detects one fault, writes no memory and leaves nothing else due answers what the fault comes to. -/
theorem State.go_fault (s : State) (g : Env → Dev → Dev) (d : Dev) (cls : FaultClass) (bay : Nat) (f : Flt) (hs : s.rests = true)
    (h : g s.env s.dev = d.fault cls bay f) (hq : d.quiet = true) (hx : (d.oneFault s.env cls bay f).quiet = true) :
    s.go g = .next (s.commit (d.oneFault s.env cls bay f)) := by
  rw [s.go_eq, Dev.leadIslands_calm _ _ (s.rests_calm hs), h, d.settle_fault _ cls bay f hq (s.rests_calm hs) hx]

theorem Dev.oneFault_retried (d : Dev) (e : Env) (bay : Nat) (f : Flt) :
    d.oneFault e .retried bay f = (d.logRec e (d.fltRec .retried bay f)).nameRestarts e := by
  unfold Dev.oneFault Dev.retried
  dsimp only

section
variable (d : Dev) (e : Env) (bay : Nat) (f : Flt)

theorem Dev.retried_unlogged : (d.oneFault e .retried bay f).unlogged = d.unlogged := by
  rw [Dev.oneFault_retried, Dev.nameRestarts_unlogged, Dev.logRec_unlogged]

theorem Dev.retried_flogSeq : (d.oneFault e .retried bay f).flogSeq = d.flogSeq + 1 := by
  rw [Dev.oneFault_retried, Dev.nameRestarts_flogSeq, Dev.logRec_flogSeq]

theorem Dev.retried_od {k m : Nat} (hm : m < 256) (h : ¬ logEntry k m) : (d.oneFault e .retried bay f).od k m = d.od k m := by
  rw [Dev.oneFault_retried, Dev.nameRestarts_od, Dev.logRec_od d e _ hm h]

end

end Sys2Proof.Machine
end

section
/-! SUPPORT. The patrol scrub (R641 to R644): its triggers, the lines it corrects and the line it poisons. -/
namespace Sys2Proof.Machine

/-- A counter with room rises. -/
theorem Dev.count_od_same (d : Dev) (idx sub k : Nat) (h : d.od idx sub + k < 256 ^ odSize idx sub) : (d.count idx sub k).od idx sub = d.od idx sub + k := by
  rw [d.count_of_lt idx sub k h, Dev.setOd_od]

theorem Dev.stores_of_unlogged {d d' : Dev} (h : d'.unlogged = d.unlogged) : d'.stores = d.stores := (congrArg Dev.stores h :)

/-- A counter of at least 32 bits rises below 2^32. -/
theorem Dev.count_od_32 (d : Dev) {idx sub k : Nat} (hz : 4 ≤ odSize idx sub) (h : d.od idx sub + k < 2 ^ 32) :
    (d.count idx sub k).od idx sub = d.od idx sub + k :=
  d.count_od_same idx sub k (h.trans_le (Nat.pow_le_pow_right (by decide) hz : 256 ^ 4 ≤ _))

/-- The other entries and what is no counter stand under a count. -/
theorem Dev.count_keeps {α : Type} (g : Dev → α) (hs : ∀ (d : Dev) i j v, g (d.setOd i j v) = g d) (hf : ∀ (d : Dev) k, g { d with free := k } = g d)
    (d : Dev) (idx sub k : Nat) : g (d.count idx sub k) = g d := by
  unfold Dev.count
  split
  · exact hs _ _ _ _
  · exact (hs _ _ _ _).trans (hf _ _)

theorem Dev.count_island (d : Dev) (idx sub k i : Nat) : (d.count idx sub k).island i = d.island i :=
  Dev.count_keeps (·.island i) (fun _ _ _ _ => rfl) (fun _ _ => rfl) d idx sub k

theorem Dev.count_scrub (d : Dev) (idx sub k i : Nat) : (d.count idx sub k).scrub i = d.scrub i :=
  Dev.count_keeps (·.scrub i) (fun _ _ _ _ => rfl) (fun _ _ => rfl) d idx sub k

theorem Dev.foldl_corrected {α : Type} (l : List α) (d : Dev) (h : d.od 0x2D00 4 + l.length < 2 ^ 32) :
    (l.foldl (fun d _ => d.corrected) d).od 0x2D00 4 = d.od 0x2D00 4 + l.length := by
  induction l generalizing d with
  | nil => rfl
  | cons x l ih =>
    rw [List.length_cons] at h
    have h1 : d.corrected.od 0x2D00 4 = d.od 0x2D00 4 + 1 := d.count_od_32 (by decide +kernel) (by omega)
    rw [List.foldl_cons, ih _ (by omega), h1, List.length_cons]
    omega

theorem Dev.setScrub_setScrub (d : Dev) (k : Nat) (x y : Scrub) : (d.setScrub k x).setScrub k y = d.setScrub k y :=
  congrArg (fun m => ({ d with loops := { d.loops with scrubs := m } } : Dev)) (smSet_smSet _ _ _ _ _)

theorem mem_listIns (x : Nat) (l : List Nat) : x ∈ listIns x l := by
  induction l with
  | nil => exact List.mem_singleton_self x
  | cons y l ih =>
    unfold listIns
    split_ifs with h
    · exact h ▸ List.mem_cons_self
    · exact List.mem_cons_self
    · exact List.mem_cons_of_mem y ih

/-- What is neither an entry's value nor a free value stands while lines are counted as corrected. -/
theorem Dev.foldl_corrected_keeps {α β : Type} (g : Dev → β) (hs : ∀ (d : Dev) i j v, g (d.setOd i j v) = g d)
    (hf : ∀ (d : Dev) k, g { d with free := k } = g d) (l : List α) (d : Dev) : g (l.foldl (fun d _ => d.corrected) d) = g d :=
  Dev.foldl_keeps g (fun d _ => Dev.count_keeps g hs hf d _ _ _) l d

theorem Dev.fault_setScrub (d : Dev) (cls : FaultClass) (bay : Nat) (f : Flt) (k : Nat) (x : Scrub) :
    (d.fault cls bay f).setScrub k x = (d.setScrub k x).fault cls bay f := rfl

/-- The lines that a pass names are its stack's own. -/
theorem filter_own {k : Nat} {l : List Nat} (h : ∀ x, x ∈ l → x < 0x180000000 ∧ Config.hbmStack x = k) :
    l.filter (fun x => Nat.blt x 0x180000000 && Config.hbmStack x == k) = l := by
  refine List.filter_eq_self.mpr fun x hx => ?_
  obtain ⟨hlt, hk⟩ := h x hx
  rw [Bool.and_eq_true, Nat.blt_eq, beq_iff_eq]
  exact ⟨hlt, hk⟩

/-- A pass that has reached its last line (R642, R643). -/
def Scrub.passed (x : Scrub) (time : Nat) : Scrub :=
  { x with running := x.latched, latched := false, timed := false, passes := x.passes + 1, lastEnd := some time }

/-- The device with the lines counted that a pass corrected. -/
def Dev.correctedLines (d : Dev) (l : List Nat) : Dev := l.foldl (fun d _ => d.corrected) (d.count 0x2B03 7 l.length)

theorem Dev.correctedLines_keeps {β : Type} (g : Dev → β) (hs : ∀ (d : Dev) i j v, g (d.setOd i j v) = g d)
    (hf : ∀ (d : Dev) k, g { d with free := k } = g d) (d : Dev) (l : List Nat) : g (d.correctedLines l) = g d :=
  (Dev.foldl_corrected_keeps g hs hf l _).trans (Dev.count_keeps g hs hf d _ _ _)

theorem Dev.correctedLines_od (d : Dev) (l : List Nat) (h : d.od 0x2B03 7 + l.length < 2 ^ 32) : (d.correctedLines l).od 0x2B03 7 = d.od 0x2B03 7 + l.length := by
  have hkeep : (d.correctedLines l).od 0x2B03 7 = (d.count 0x2B03 7 l.length).od 0x2B03 7 :=
    Dev.foldl_keeps (·.od 0x2B03 7) (fun d _ => d.count_od_other 1 (by decide) (by decide) (by decide)) l _
  rw [hkeep, d.count_od_32 (by decide +kernel) h]

theorem Dev.correctedLines_od_all (d : Dev) (l : List Nat) (h : d.od 0x2D00 4 + l.length < 2 ^ 32) :
    (d.correctedLines l).od 0x2D00 4 = d.od 0x2D00 4 + l.length := by
  have hkeep : (d.count 0x2B03 7 l.length).od 0x2D00 4 = d.od 0x2D00 4 := d.count_od_other _ (by decide) (by decide) (by decide)
  exact (Dev.foldl_corrected l _ (by rwa [hkeep])).trans (by rw [hkeep])

/-- The fault of a line that the patrol could not correct (R643). -/
def badLine (k line : Nat) : Flt := { status := .integrity, source := 0x11, island := 304 + k, addr := line * 64 }

/-- The device with a line poisoned and counted that the patrol could not correct. -/
def Dev.patrolled (d : Dev) (e : Env) (line : Nat) : Dev := (d.poisonLine e line).count 0x2B03 8 1

theorem Dev.poisonLine_keeps {β : Type} (g : Dev → β) (hs : ∀ (d : Dev) i j v, g (d.setOd i j v) = g d)
    (hf : ∀ (d : Dev) k, g { d with free := k } = g d) (ho : ∀ (d : Dev) o, g (d.store o) = g d) (d : Dev) (e : Env) (line : Nat) :
    g (d.poisonLine e line) = g d := by
  unfold Dev.poisonLine
  dsimp only
  split
  · rfl
  · split
    · rw [Dev.count_keeps g hs hf, Dev.count_keeps g hs hf, ho]
    · rw [Dev.count_keeps g hs hf, ho]

theorem Dev.holder_lt {d : Dev} {sel : Ranges → Rng} {x n : Nat} (h : d.holder sel x = some n) : n < 16 :=
  List.mem_range.mp (List.mem_of_find?_eq_some h)

theorem Dev.poisonLine_od (d : Dev) (e : Env) (line : Nat) {idx sub : Nat} (hm : sub < 256) (h : ¬ 0x2400 ≤ idx ∨ ¬ idx < 0x2420) :
    (d.poisonLine e line).od idx sub = d.od idx sub := by
  unfold Dev.poisonLine
  dsimp only
  have hother (d : Dev) (i j : Nat) (hi : 0x2400 ≤ i ∧ i < 0x2420) (hj : j < 256) : (d.count i j 1).od idx sub = d.od idx sub :=
    d.count_od_other 1 hm hj fun he => by cases he; omega
  split
  · rfl
  · split
    · next n hn =>
      have hlt : n < 16 := Dev.holder_lt hn
      rw [hother _ _ _ (by omega) (by decide), hother _ _ _ (by omega) (by decide)]
      rfl
    · rw [hother _ _ _ (by omega) (by decide)]
      rfl

/-- The writes that poison a line mark it. -/
theorem Dev.poisonLine_stores (d : Dev) (e : Env) (line : Nat) (h : d.stores = []) :
    (d.poisonLine e line).stores = if e.poison.contains line then [] else [.poison line] := by
  have hp : d.poisoned e line = e.poison.contains line := by
    rw [Dev.poisoned, h]
    rfl
  unfold Dev.poisonLine
  rw [hp]
  split
  · exact h
  · dsimp only
    split
    · rw [Dev.count_stores, Dev.count_stores, Dev.store, h]
    · rw [Dev.count_stores, Dev.store, h]

section
variable {s : State} {k : Fin 8} (hs : s.rests = true)
include hs

theorem exec_scrubIntervalTrigger (hb : s.dev.boot.st = .ready) (ht : (s.dev.scrub k).timed = false) (hr : (s.dev.scrub k).running = false)
    (hl : (s.dev.scrub k).latched = false) (ha : (s.dev.island (304 + k)).st = .active) (hth : s.dev.board.throttled = [])
    (hdue : (s.dev.scrub k).lastEnd.getD s.dev.boot.readyTime + s.dev.od 0x2B03 1 * 1000000000 ≤ s.time) :
    exec (.scrubIntervalTrigger k) s = .next { s with dev := s.dev.setScrub k { s.dev.scrub k with timed := true, running := true, paused := false } } := by
  show execScrubIntervalTrigger k s = _
  refine s.go_to _ _ hs ?_ ((Dev.quiet_setScrub _ _ _).trans (State.rests_quiet hs)) (State.rests_stores hs)
  have htrig (x : Scrub) (hxr : x.running = false) (hxl : x.latched = false) :
      (s.dev.setScrub k x).scrubTrigger k = s.dev.setScrub k { x with running := true, paused := false } := by
    have hi : ((s.dev.setScrub k x).island (304 + k)).st = .active := ha
    unfold Dev.scrubTrigger
    rw [if_pos (by rw [Dev.setScrub_scrub, hxr, hxl, hi]; rfl), Dev.setScrub_scrub, Dev.setScrub_setScrub, Dev.setScrub_board, hth]
    rfl
  dsimp only
  rw [if_neg (by simp [hb, ht, Nat.not_lt.mpr hdue])]
  exact htrig _ hr hl

theorem exec_scrubPassEnd_corrected {l : List Nat} (hr : (s.dev.scrub k).running = true) (hp : (s.dev.scrub k).paused = false)
    (hl : ∀ x, x ∈ l → x < 0x180000000 ∧ Config.hbmStack x = k.val) :
    exec (.scrubPassEnd k l []) s = .next { s with dev := (s.dev.correctedLines l).setScrub k ((s.dev.scrub k).passed s.time) } := by
  show execScrubPassEnd k l [] s = _
  refine s.go_to _ _ hs ?_ ?_ ?_
  · dsimp only
    rw [if_neg (by simp [hr, hp]), filter_own hl]
    simp only [List.filter_nil, List.foldl_nil, Dev.correctedLines, Scrub.passed, State.env_time]
  · rw [Dev.quiet_setScrub, Dev.correctedLines_keeps Dev.quiet (fun _ _ _ _ => rfl) (fun _ _ => rfl), State.rests_quiet hs]
  · rw [Dev.setScrub_stores, Dev.correctedLines_keeps Dev.stores (fun _ _ _ _ => rfl) (fun _ _ => rfl), State.rests_stores hs]

theorem exec_scrubPassEnd_bad {l : Nat} (hr : (s.dev.scrub k).running = true) (hp : (s.dev.scrub k).paused = false) (hl : l < 0x180000000)
    (hk : Config.hbmStack l = k.val) :
    ∃ bay, exec (.scrubPassEnd k [] [l]) s = .next (s.commit
      ((((s.dev.correctedLines []).patrolled s.env l).setScrub k ((s.dev.scrub k).passed s.time)).oneFault s.env .retried bay (badLine k l))) := by
  have hquiet : (((s.dev.correctedLines []).patrolled s.env l).setScrub k ((s.dev.scrub k).passed s.time)).quiet = true := by
    rw [Dev.quiet_setScrub, Dev.patrolled, Dev.quiet_count, Dev.poisonLine_keeps Dev.quiet (fun _ _ _ _ => rfl) (fun _ _ => rfl) (fun _ _ => rfl),
      Dev.correctedLines_keeps Dev.quiet (fun _ _ _ _ => rfl) (fun _ _ => rfl), State.rests_quiet hs]
  refine ⟨((s.dev.correctedLines []).lineBay l).getD 0xFF, ?_⟩
  show execScrubPassEnd k [] [l] s = _
  refine s.go_fault _ _ _ _ _ hs ?_ hquiet ((Dev.quiet_of_unlogged (Dev.retried_unlogged _ _ _ _)).trans hquiet)
  dsimp only
  rw [if_neg (by simp [hr, hp]), filter_own (k := k.val) (l := [l]) (by simp [hl, hk])]
  simp only [List.filter_nil, List.foldl_nil, List.foldl_cons, Dev.correctedLines, Scrub.passed, State.env_time, Dev.fault_setScrub, Dev.patrolled, badLine]

end

/-- Settles O59: each clause is what one row leaves. -/
theorem patrolScrub : Obligations.PatrolScrub := by
  unfold Obligations.PatrolScrub
  refine ⟨fun k s hs hb ht hr hl ha hth hdue => exec_scrubIntervalTrigger hs hb ht hr hl ha hth hdue,
    fun k l s hs hr hp h7 h4 hl => ⟨_, exec_scrubPassEnd_corrected hs hr hp hl, s.dev.correctedLines_od l h7, s.dev.correctedLines_od_all l h4, rfl, rfl,
      Dev.setScrub_scrub _ _ _⟩,
    fun k l s hs hr hp hl hk h8 => ?_⟩
  obtain ⟨bay, hex⟩ := exec_scrubPassEnd_bad hs hr hp hl hk
  have hod : (s.dev.correctedLines []).od 0x2B03 8 = s.dev.od 0x2B03 8 := by
    rw [Dev.correctedLines, List.foldl_nil, s.dev.count_od_other _ (by decide) (by decide) (by decide)]
  have hseq : ((s.dev.correctedLines []).patrolled s.env l).flogSeq = s.dev.flogSeq := by
    rw [Dev.patrolled, Dev.count_flogSeq, Dev.poisonLine_keeps Dev.flogSeq (fun _ _ _ _ => rfl) (fun _ _ => rfl) (fun _ _ => rfl),
      Dev.correctedLines_keeps Dev.flogSeq (fun _ _ _ _ => rfl) (fun _ _ => rfl)]
  have hstores : ((s.dev.correctedLines []).patrolled s.env l).stores = if s.poison.contains l then [] else [.poison l] := by
    rw [Dev.patrolled, Dev.count_stores, Dev.poisonLine_stores]
    · rfl
    · rw [Dev.correctedLines_keeps Dev.stores (fun _ _ _ _ => rfl) (fun _ _ => rfl), State.rests_stores hs]
  have hpat : ((s.dev.correctedLines []).patrolled s.env l).od 0x2B03 8 = s.dev.od 0x2B03 8 + 1 := by
    have hpo : ((s.dev.correctedLines []).poisonLine s.env l).od 0x2B03 8 = s.dev.od 0x2B03 8 :=
      ((s.dev.correctedLines []).poisonLine_od s.env l (by decide) (by decide)).trans hod
    rw [Dev.patrolled, Dev.count_od_32 _ (by decide +kernel) (by rwa [hpo]), hpo]
  generalize hd : (s.dev.correctedLines []).patrolled s.env l = d at hex hseq hstores hpat
  generalize hx : (d.setScrub k ((s.dev.scrub k).passed s.time)).oneFault s.env .retried bay (badLine k l) = x at hex
  have hxs : x.stores = if s.poison.contains l then [] else [.poison l] := by
    rw [← hstores, ← hx]
    exact (Dev.stores_of_unlogged (Dev.retried_unlogged _ s.env bay (badLine k l))).trans (Dev.setScrub_stores _ _ _)
  have hxo : x.od 0x2B03 8 = s.dev.od 0x2B03 8 + 1 := by
    rw [← hx, Dev.retried_od _ _ _ _ (by decide) (by unfold logEntry; omega)]
    exact hpat
  have hxf : x.flogSeq = s.dev.flogSeq + 1 := by
    rw [← hx, Dev.retried_flogSeq]
    exact congrArg (· + 1) hseq
  refine ⟨_, hex, hxo, ?_, hxf, ?_⟩
  · show (x.stores.foldr (fun o p => o.onPoison p) s.poison).contains l = true
    rw [hxs]
    split
    · next h => exact h
    · exact List.contains_iff_mem.mpr (mem_listIns l s.poison)
  · show x.stores.foldr (fun o m => o.onMem m) s.mem = s.mem
    rw [hxs]
    split <;> rfl

end Sys2Proof.Machine
end

section
/-! SUPPORT. The adaptive loops, sense lines and AVSBus (R613, R629 to R640). -/
namespace Sys2Proof.Machine

theorem Dev.setIsland_setIsland (d : Dev) (i : Nat) (x y : Island) : (d.setIsland i x).setIsland i y = d.setIsland i y :=
  congrArg (fun m => ({ d with loops := { d.loops with islands := m } } : Dev)) (smSet_smSet _ _ _ _ _)

theorem Dev.island_setIsland (d : Dev) (i j : Nat) (x : Island) : (d.setIsland i x).island j = if j = i then x else d.island j := smGet_set _ _ _ _ _

theorem Dev.domain_setDomain (d : Dev) (i j : Nat) (x : Domain) : (d.setDomain i x).domain j = if j = i then x else d.domain j := smGet_set _ _ _ _ _

/-- A fold that gives each object of a list without repeats its new value, once, from its own and from what the fold leaves alone. -/
theorem Dev.foldl_each {β γ : Type} (get : Dev → Nat → β) (set : Dev → Nat → β → Dev) (c : Dev → γ)
    (hget : ∀ d i j x, get (set d i x) j = if j = i then x else get d j) (hc : ∀ d i x, c (set d i x) = c d)
    (g : γ → Nat → β → β) (l : List Nat) (hl : l.Nodup) (d : Dev) (j : Nat) :
    get (l.foldl (fun d i => set d i (g (c d) i (get d i))) d) j = if j ∈ l then g (c d) j (get d j) else get d j := by
  induction l generalizing d with
  | nil => simp
  | cons i l ih =>
    obtain ⟨hi, hl⟩ := List.nodup_cons.mp hl
    rw [List.foldl_cons, ih hl, hget, hc]
    by_cases hj : j = i
    · subst hj
      simp [hi]
    · simp [hj]

/-- The one report of an island that is ACTIVE is read in cpm_slack (R649). -/
theorem Dev.noteSlacks_one (d : Dev) (r : Slack) (h : r.island < 350) : d.noteSlacks [r] = d.setIsland r.island { d.island r.island with slack := r.slack } :=
  if_pos h

theorem Dev.liveSlacks_one (d : Dev) (r : Slack) (h : (d.island r.island).st = .active) : d.liveSlacks [r] = [r] := by
  simp [Dev.liveSlacks, h]

section
variable {s : State} (hs : s.rests = true)
include hs

theorem exec_droop {i : Fin 350} (hi : (s.dev.island i).st = .active) : exec (.droop i) s = .next { s with
    dev := (s.dev.setIsland i { s.dev.island i with stretches := (s.dev.island i).stretches + 1 }).count 0x2B00 0xC 1 } := by
  show execDroop i s = _
  exact s.go_to _ _ hs (if_neg (by simp [hi])) ((Dev.quiet_count _ _ _ _).trans (State.rests_quiet hs)) ((Dev.count_stores _ _ _ _).trans (State.rests_stores hs))

theorem exec_frequencyLoopPeriod {r : Slack} (ht : s.time % 10000 = 0) (hm : s.dev.board.mainPg = true) (hf : s.dev.loopFrozen 1 = false)
    (hr : r.island < 350) (hi : (s.dev.island r.island).st = .active) :
    exec (.frequencyLoopPeriod [r]) s = .next { s with dev := s.dev.setIsland r.island { s.dev.island r.island with
      slack := r.slack
      ratio := s.dev.nextRatio r } } := by
  show execFrequencyLoopPeriod [r] s = _
  refine s.go_to _ _ hs ?_ (State.rests_quiet hs) (State.rests_stores hs)
  have hratio : (s.dev.setIsland r.island { s.dev.island r.island with slack := r.slack }).nextRatio r = s.dev.nextRatio r := by
    unfold Dev.nextRatio Dev.ratioCap
    simp only [Dev.setIsland_island]
    rfl
  dsimp only
  rw [if_neg (by simp [ht, Dev.railsOn, hm]), s.dev.noteSlacks_one r hr, if_neg (by rw [show (s.dev.setIsland _ _).loopFrozen 1 = s.dev.loopFrozen 1 from rfl, hf]; decide),
    Dev.liveSlacks_one _ r (by rw [Dev.setIsland_island]; exact hi), List.foldl_cons, List.foldl_nil, hratio, Dev.setIsland_setIsland, Dev.setIsland_island]

theorem exec_adcThresholdLoop {b : Fin 8} {k : Nat} {col : Fin 4096} {v : Int} (hk : k / 32 = b.val) (ht : s.time % 1000000 = 0)
    (hf : s.dev.loopFrozen 4 = false) (hi : (s.dev.island (296 + b)).st = .active) :
    exec (.adcThresholdLoop b [(4096 * k + col, v)]) s = .next { s with
      dev := s.dev.setArr k { s.dev.arr k with newThresholds := smSet 0 (s.dev.arr k).newThresholds col v } } := by
  show execAdcThresholdLoop b _ s = _
  refine s.go_to _ _ hs ?_ (State.rests_quiet hs) (State.rests_stores hs)
  have harr : (4096 * k + col.val) / 4096 = k := by omega
  have hcol : (4096 * k + col.val) % 4096 = col.val := by omega
  rw [if_neg (by simp [ht, hf, hi]), List.filter_cons_of_pos (by rw [harr, hk, beq_self_eq_true]), List.filter_nil, List.foldl_cons, List.foldl_nil]
  dsimp only
  rw [Dev.modArr, harr, hcol]

theorem exec_placementLoop {c : Fin 256} {temp : Int} (ht : s.time % 1000000 = 0) (hm : s.dev.board.mainPg = true) :
    exec (.placementLoop [(c, temp)]) s = .next { s with dev := { s.dev with board := { s.dev.board with
      islandTemp := smSet 0 s.dev.board.islandTemp c temp
      placeTemp := if s.dev.loopFrozen 5 then s.dev.board.placeTemp else smSet 0 s.dev.board.placeTemp c temp } } } := by
  show execPlacementLoop _ s = _
  refine s.go_to _ _ hs ?_ (s.dev.quiet_board _ (State.rests_quiet hs) rfl) (State.rests_stores hs)
  dsimp only
  rw [if_neg (by simp [ht, Dev.railsOn, hm]), List.filter_cons_of_pos (by rw [Nat.blt_eq]; exact c.isLt), List.filter_nil]
  rfl

end

/-! ### The caps (R630, R632) -/

/-- The thermal cap of an island after a reading. -/
def stepTherm (onset temp : Int) (cap : Nat) : Nat :=
  if onset * 8 ≤ temp then max 64 (cap - 16) else if temp ≤ (onset - 2) * 8 then min 256 (cap + 16) else cap

/-- The power cap of a core after a reading of the device power. -/
def stepPower (lim w cap : Nat) : Nat := if lim < w then max 64 (cap - 4) else if w * 100 < lim * 95 then min 256 (cap + 4) else cap

/-- The device with one island's reading taken. -/
def Dev.capRead (d : Dev) (onset : Int) (i : Nat) (temp : Int) (w : Nat) : Dev :=
  { (({ d with board := { d.board with islandTemp := smSet 0 d.board.islandTemp i temp } } : Dev).setIsland i
      { d.island i with thermCap := stepTherm onset temp (d.island i).thermCap }) with
    loops := { (d.setIsland i { d.island i with thermCap := stepTherm onset temp (d.island i).thermCap }).loops with power := w } }

/-- The device with the cores' power caps stepped. -/
def Dev.capCores (d : Dev) (lim w : Nat) : Dev :=
  (List.range 256).foldl (fun d c => d.setIsland c { d.island c with powerCap := stepPower lim w (d.island c).powerCap }) d

theorem Dev.capCores_keeps {β : Type} (g : Dev → β) (h : ∀ d c x, g (d.setIsland c x) = g d) (d : Dev) (lim w : Nat) : g (d.capCores lim w) = g d :=
  Dev.foldl_keeps g (fun d c => h d c _) _ d

theorem Dev.capCores_island (d : Dev) (lim w j : Nat) : (d.capCores lim w).island j =
    if j < 256 then { d.island j with powerCap := stepPower lim w (d.island j).powerCap } else d.island j := by
  have h := Dev.foldl_each Dev.island Dev.setIsland (fun _ => ()) Dev.island_setIsland (fun _ _ _ => rfl)
    (fun _ _ x => { x with powerCap := stepPower lim w x.powerCap }) (List.range 256) List.nodup_range d j
  simp only [List.mem_range] at h
  exact h

theorem exec_capStep {s : State} (hs : s.rests = true) {i : Fin 350} {temp : Int} {w : Nat} (ht : s.time % 1000000 = 0) (hm : s.dev.board.mainPg = true) :
    exec (.capStep [(i, temp)] w) s = .next { s with
      dev := (s.dev.capRead (toInt 16 (s.dev.od 0x2E02 2)) i temp w).capCores (s.dev.od 0x2B00 4) w } := by
  show execCapStep _ w s = _
  refine s.go_to _ _ hs ?_ ?_ ?_
  · dsimp only
    rw [if_neg (by simp [ht, Dev.railsOn, hm]), List.filter_cons_of_pos (by rw [Nat.blt_eq]; exact i.isLt), List.filter_nil, List.foldl_cons, List.foldl_nil]
    rfl
  · rw [Dev.capCores_keeps Dev.quiet fun _ _ _ => rfl]
    exact s.dev.quiet_board _ (State.rests_quiet hs) rfl
  · rw [Dev.capCores_keeps Dev.stores fun _ _ _ => rfl]
    exact State.rests_stores hs

theorem capStep_leaves {s : State} (hs : s.rests = true) {i : Fin 350} {temp : Int} {w : Nat} (ht : s.time % 1000000 = 0) (hm : s.dev.board.mainPg = true) :
    ∃ t, exec (.capStep [(i, temp)] w) s = .next t ∧ t.mem = s.mem ∧ t.dev.loops.power = w ∧
      (t.dev.island i).thermCap = stepTherm (toInt 16 (s.dev.od 0x2E02 2)) temp (s.dev.island i).thermCap ∧
      (∀ k, k ≠ i.val → (t.dev.island k).thermCap = (s.dev.island k).thermCap) ∧
      (∀ c, c < 256 → (t.dev.island c).powerCap = stepPower (s.dev.od 0x2B00 4) w (s.dev.island c).powerCap) := by
  have hread (j : Nat) : (s.dev.capRead (toInt 16 (s.dev.od 0x2E02 2)) i temp w).island j =
      if j = i then { s.dev.island i with thermCap := stepTherm (toInt 16 (s.dev.od 0x2E02 2)) temp (s.dev.island i).thermCap } else s.dev.island j :=
    s.dev.island_setIsland i j _
  have htherm (j : Nat) : (((s.dev.capRead (toInt 16 (s.dev.od 0x2E02 2)) i temp w).capCores (s.dev.od 0x2B00 4) w).island j).thermCap =
      ((s.dev.capRead (toInt 16 (s.dev.od 0x2E02 2)) i temp w).island j).thermCap := by
    rw [Dev.capCores_island]
    split <;> rfl
  have hpower : ((s.dev.capRead (toInt 16 (s.dev.od 0x2E02 2)) i temp w).capCores (s.dev.od 0x2B00 4) w).loops.power = w := by
    rw [Dev.capCores_keeps (fun d => d.loops.power) fun _ _ _ => rfl]
    rfl
  have hcore (c : Nat) (hc : c < 256) : (((s.dev.capRead (toInt 16 (s.dev.od 0x2E02 2)) i temp w).capCores (s.dev.od 0x2B00 4) w).island c).powerCap =
      stepPower (s.dev.od 0x2B00 4) w (s.dev.island c).powerCap := by
    rw [Dev.capCores_island, if_pos hc, hread]
    split
    · next h => rw [h]
    · rfl
  have hex := exec_capStep hs (i := i) (temp := temp) (w := w) ht hm
  generalize (s.dev.capRead (toInt 16 (s.dev.od 0x2E02 2)) i temp w).capCores (s.dev.od 0x2B00 4) w = d at hex hpower hcore htherm
  exact ⟨_, hex, rfl, hpower, (htherm i).trans (by rw [hread, if_pos rfl]), fun k hk => (htherm k).trans (by rw [hread, if_neg hk]), hcore⟩

/-! ### The voltage loop (R613, R629) -/

/-- A domain's regulator as it follows its request, or the value forced, under a set-point (R613, R639). -/
def Domain.follow (x : Domain) (rail : Nat) : Domain :=
  { x with mv := max 550 (min (min 900 (rail - 50)) (if x.override = 0 then x.request else x.override)) }

theorem Dev.setDomains_domain (d : Dev) (j : Nat) : d.setDomains.domain j = if j < 23 then (d.domain j).follow d.railMv else d.domain j := by
  have h := Dev.foldl_each Dev.domain Dev.setDomain Dev.railMv Dev.domain_setDomain (fun _ _ _ => rfl) (fun rail _ x => x.follow rail) (List.range 23)
    List.nodup_range d j
  simp only [List.mem_range] at h
  exact h

theorem Dev.setDomains_keeps {β : Type} (g : Dev → β) (h : ∀ d k x, g (d.setDomain k x) = g d) (d : Dev) : g d.setDomains = g d := by
  unfold Dev.setDomains
  exact Dev.foldl_keeps g (fun d k => h d k _) _ d

/-- A domain's regulator stays within 0.55 V to 0.90 V and 50 mV below the set-point. -/
theorem Domain.follow_bounds (x : Domain) {rail : Nat} (h : 600 ≤ rail) : 550 ≤ (x.follow rail).mv ∧ (x.follow rail).mv ≤ 900 ∧ (x.follow rail).mv + 50 ≤ rail := by
  show 550 ≤ max 550 _ ∧ max 550 _ ≤ 900 ∧ max 550 _ + 50 ≤ rail
  omega

theorem Dev.wantedCore_bounds (d : Dev) : 650 ≤ d.wantedCore ∧ d.wantedCore ≤ 950 ∧ d.wantedCore % 5 = 0 := by
  unfold Dev.wantedCore
  generalize cdiv _ 5 = k
  omega

theorem Dev.setCore_mv_rail (d : Dev) (mv : Nat) : (d.setCore_mv mv).railMv = mv ∧ (d.setCore_mv mv).loops.coreMv = mv := by
  unfold Dev.setCore_mv
  split
  · next h =>
    simp only [Bool.and_eq_true, decide_eq_true_eq, Option.isNone_iff_eq_none] at h
    obtain ⟨hmv, hstuck⟩ := h
    exact ⟨by rw [Dev.railMv, hstuck, Option.getD_none, hmv], hmv⟩
  · exact ⟨rfl, rfl⟩

theorem Dev.setCore_mv_keeps {β : Type} (g : Dev → β) (h : ∀ d mv, g (d.commandCore mv) = g d) (d : Dev) (mv : Nat) : g (d.setCore_mv mv) = g d := by
  unfold Dev.setCore_mv
  split
  · rfl
  · exact h d mv

/-- The device with every domain's request stepped by the reports of its islands. -/
def Dev.stepRequests (d : Dev) (rs : List Slack) : Dev :=
  (List.range 23).foldl (fun d k => d.setDomain k { d.domain k with
    request := nextRequest (d.domain k).request (rs.filter fun r => islandDomain r.island == k) }) d

theorem Dev.stepRequests_domain (d : Dev) (rs : List Slack) (j : Nat) : (d.stepRequests rs).domain j =
    if j < 23 then { d.domain j with request := nextRequest (d.domain j).request (rs.filter fun r => islandDomain r.island == j) } else d.domain j := by
  have h := Dev.foldl_each Dev.domain Dev.setDomain (fun _ => ()) Dev.domain_setDomain (fun _ _ _ => rfl)
    (fun _ k x => { x with request := nextRequest x.request (rs.filter fun r => islandDomain r.island == k) }) (List.range 23) List.nodup_range d j
  simp only [List.mem_range] at h
  exact h

theorem Dev.stepRequests_keeps {β : Type} (g : Dev → β) (h : ∀ d k x, g (d.setDomain k x) = g d) (d : Dev) (rs : List Slack) : g (d.stepRequests rs) = g d :=
  Dev.foldl_keeps g (fun d k => h d k _) _ d

/-- One report moves the request of its island's domain alone. -/
theorem Dev.stepRequests_one (d : Dev) (r : Slack) (j : Nat) : ((d.stepRequests [r]).domain j).request =
    if j = islandDomain r.island ∧ j < 23 then
      (if r.slack < 4 ∨ (r.wantsMore = true ∧ r.predicted < 4) then min 900 ((d.domain j).request + 5)
        else if 12 < r.slack then max 550 ((d.domain j).request - 5) else (d.domain j).request)
    else (d.domain j).request := by
  rw [Dev.stepRequests_domain]
  by_cases hj : j < 23
  · by_cases hr : j = islandDomain r.island
    · simp [hj, hr.symm, nextRequest]
    · simp [hj, hr, Ne.symm hr, nextRequest]
  · simp [hj]

/-- The device after the voltage loop has taken one report. -/
def Dev.voltageStep (d : Dev) (r : Slack) : Dev :=
  let d := (d.setIsland r.island { d.island r.island with slack := r.slack }).stepRequests [r]
  (d.setCore_mv d.wantedCore).setDomains

theorem Dev.voltageStep_keeps {β : Type} (g : Dev → β) (hd : ∀ d k x, g (d.setDomain k x) = g d) (hi : ∀ d k x, g (d.setIsland k x) = g d)
    (hc : ∀ d mv, g (d.commandCore mv) = g d) (d : Dev) (r : Slack) : g (d.voltageStep r) = g d := by
  unfold Dev.voltageStep
  dsimp only
  rw [Dev.setDomains_keeps g hd, Dev.setCore_mv_keeps g hc, Dev.stepRequests_keeps g hd, hi]

theorem exec_voltageLoopPeriod {s : State} (hs : s.rests = true) {r : Slack} (ht : s.time % 10000 = 0) (hm : s.dev.board.mainPg = true)
    (hf : s.dev.loopFrozen 0 = false) (hz : s.dev.loops.frozen = []) (hr : r.island < 350) (hi : (s.dev.island r.island).st = .active) :
    exec (.voltageLoopPeriod [r]) s = .next { s with dev := s.dev.voltageStep r } := by
  show execVoltageLoopPeriod [r] s = _
  refine s.go_to _ _ hs ?_ ?_ ?_
  · have hfz (x : Island) : ((s.dev.setIsland r.island x).loopFrozen 0 || (s.dev.setIsland r.island x).loops.frozen.any (·.1 == 0)) = false := by
      rw [show (s.dev.setIsland r.island x).loopFrozen 0 = s.dev.loopFrozen 0 from rfl, hf,
        show (s.dev.setIsland r.island x).loops.frozen = s.dev.loops.frozen from rfl, hz]
      rfl
    dsimp only
    rw [if_neg (by simp [ht, Dev.railsOn, hm]), s.dev.noteSlacks_one r hr, if_neg (by rw [hfz]; decide),
      Dev.liveSlacks_one _ r (by rw [Dev.setIsland_island]; exact hi)]
    rfl
  · rw [Dev.voltageStep_keeps Dev.quiet (fun _ _ _ => rfl) (fun _ _ _ => rfl) (fun _ _ => rfl), State.rests_quiet hs]
  · rw [Dev.voltageStep_keeps Dev.stores (fun _ _ _ => rfl) (fun _ _ _ => rfl) (fun _ _ => rfl), State.rests_stores hs]

theorem Dev.voltageStep_request (d : Dev) (r : Slack) (j : Nat) : ((d.voltageStep r).domain j).request =
    ((d.stepRequests [r]).domain j).request := by
  have hfollow (x : Dev) : (x.setDomains.domain j).request = (x.domain j).request := by
    rw [Dev.setDomains_domain]
    split <;> rfl
  unfold Dev.voltageStep
  dsimp only
  rw [hfollow, Dev.setCore_mv_keeps (·.domain j) fun _ _ => rfl, Dev.stepRequests_domain, Dev.stepRequests_domain]
  rfl

theorem Dev.voltageStep_rail (d : Dev) (r : Slack) : (d.voltageStep r).railMv = (d.voltageStep r).loops.coreMv ∧
    650 ≤ (d.voltageStep r).railMv ∧ (d.voltageStep r).railMv ≤ 950 ∧ (d.voltageStep r).railMv % 5 = 0 ∧
    ∀ j, j < 23 → 550 ≤ ((d.voltageStep r).domain j).mv ∧ ((d.voltageStep r).domain j).mv ≤ 900 ∧
      ((d.voltageStep r).domain j).mv + 50 ≤ (d.voltageStep r).railMv := by
  unfold Dev.voltageStep
  dsimp only
  generalize (d.setIsland r.island { d.island r.island with slack := r.slack }).stepRequests [r] = x
  obtain ⟨hlo, hhi, hstep⟩ := x.wantedCore_bounds
  obtain ⟨hrail, hcore⟩ := x.setCore_mv_rail x.wantedCore
  generalize x.setCore_mv x.wantedCore = y at hrail hcore
  rw [Dev.setDomains_keeps Dev.railMv fun _ _ _ => rfl, Dev.setDomains_keeps (·.loops.coreMv) fun _ _ _ => rfl, hrail, hcore]
  refine ⟨rfl, hlo, hhi, hstep, fun j hj => ?_⟩
  rw [Dev.setDomains_domain, if_pos hj, hrail]
  exact Domain.follow_bounds _ (by omega)

end Sys2Proof.Machine
end

section
/-! SUPPORT. A write of a whole value that the server accepts or refuses: what its command answers, to the change record and the answer
(R99, R100, R119). -/
namespace Sys2Proof.Machine

/-- The request that a row's write leaves at the server. -/
def writeReq (r : Route) (idx sub : Nat) (bs : List Byte) (tag time : Nat) (intact : Option (List Nat)) : Req :=
  { route := r, op := .write, idx := idx, sub := sub, len := bs.length, tag := tag, data := bs, time := time, row := true, intact := intact }

/-- A route carries a write: the device at the server differs in its windows alone, and the write's request comes alone. -/
structure State.Carried (s : State) (r : Route) (idx sub : Nat) (bs : List Byte) : Prop where
  rests : s.rests = true
  server : s.atServer r idx sub bs = { s.dev with srv := { s.dev.srv with wins := (s.dev.odSend s.env r idx sub bs id).srv.wins } }
  idle : s.dev.srv.reqs = []
  request : ∃ tag time, (s.dev.odSend s.env r idx sub bs id).srv.reqs = [writeReq r idx sub bs tag time none]
  closed : ∀ fn, routeFn r = some fn → ((s.atServer r idx sub bs).win fn).xfer = none
  tells : (s.atServer r idx sub bs).tells r = true

theorem State.carried_of (s : State) (r : Route) (idx sub : Nat) (bs : List Byte) (hs : s.rests = true) (h : s.carries r idx sub bs = true) :
    s.Carried r idx sub bs := by
  unfold State.carries at h
  simp only [Bool.and_eq_true, decide_eq_true_eq] at h
  obtain ⟨⟨⟨⟨hidle, hserver⟩, hreq⟩, hx⟩, htells⟩ := h
  refine ⟨hs, hserver, List.isEmpty_iff.mp hidle, ?_, fun fn hfn => ?_, htells⟩
  · split at hreq
    · next q hq => exact ⟨q.tag, q.time, hq.trans (congrArg (fun x => [x]) (of_decide_eq_true hreq))⟩
    · exact absurd hreq (by simp)
  · rw [hfn] at hx
    exact Option.isNone_iff_eq_none.mp hx

/-- The marking of a request by its row: what else the row says goes with it. -/
theorem Dev.markRow_one (d : Dev) (r : Route) (idx sub : Nat) (bs : List Byte) (tag time : Nat) (f : Req → Req)
    (h : (d.markRow r true id).srv.reqs = [writeReq r idx sub bs tag time none]) :
    d.markRow r true f =
      { d.markRow r true id with srv := { (d.markRow r true id).srv with reqs := [f (writeReq r idx sub bs tag time none)] } } := by
  unfold Dev.markRow at h ⊢
  simp only [if_true] at h ⊢
  obtain ⟨q, hq, hm⟩ := List.map_eq_singleton_iff.mp h
  have hr : q.route = r := by
    split at hm
    · next hr => exact beq_iff_eq.mp hr
    · rw [hm]; rfl
  rw [if_pos (by simp [hr])] at hm
  rw [hq, List.map_cons, List.map_nil, if_pos (by simp [hr]), show ({ q with row := true } : Req) = writeReq r idx sub bs tag time none from hm]

/-- A write that leaves a request has come to the server, and its row marks it. -/
theorem State.Carried.odSend_marks {s : State} {r : Route} {idx sub : Nat} {bs : List Byte} (h : s.Carried r idx sub bs) :
    ∃ d : Dev, ∀ f, s.dev.odSend s.env r idx sub bs f = d.markRow r true f := by
  obtain ⟨tag, time, hreq⟩ := h.request
  have hfree : (s.dev.srv.reqs.all fun q => q.route != r) = true := by rw [h.idle]; rfl
  have hempty (d : Dev) (hd : d.srv.reqs = []) (hd' : d.srv.reqs = [writeReq r idx sub bs tag time none]) : False := by
    rw [hd] at hd'
    exact absurd hd' (by simp)
  unfold Dev.odSend at hreq ⊢
  dsimp only at hreq ⊢
  rw [hfree] at hreq ⊢
  split at hreq
  · split at hreq
    · exact (hempty _ h.idle hreq).elim
    · next hhere =>
      split at hreq
      · refine (hempty _ ?_ hreq).elim
        rw [Dev.odRetry, if_pos rfl, Dev.odAnswer_can_refused _ _ _ _ (by decide)]
        split
        · rw [Dev.count_reqs]; exact h.idle
        · exact h.idle
      · next hopen => exact ⟨_, fun f => by rw [if_neg hhere, if_neg hopen]⟩
  · exact ⟨_, fun f => Eq.refl _⟩

/-- The write's request, once it has come, is served, with what its row says besides its value. -/
theorem State.Carried.odWrite_serves {s : State} {r : Route} {idx sub : Nat} {bs : List Byte} (h : s.Carried r idx sub bs) (f : Req → Req)
    (hf : ∀ tag time, (f (writeReq r idx sub bs tag time none)).row = true) :
    ∃ tag time, s.dev.odWrite s.env r idx sub bs f = (s.atServer r idx sub bs).serveReq s.env (f (writeReq r idx sub bs tag time none)) := by
  obtain ⟨tag, time, hreq⟩ := h.request
  obtain ⟨d, hd⟩ := h.odSend_marks
  have hsend : s.dev.odSend s.env r idx sub bs f =
      { s.atServer r idx sub bs with srv := { (s.atServer r idx sub bs).srv with reqs := [f (writeReq r idx sub bs tag time none)] } } := by
    unfold State.atServer
    rw [hd] at hreq
    rw [hd, hd, d.markRow_one r idx sub bs tag time f hreq]
  refine ⟨tag, time, ?_⟩
  unfold Dev.odWrite
  rw [hsend, Dev.serveRows_one _ _ (f (writeReq r idx sub bs tag time none)) (s.rests_calm h.rests) (Eq.refl _) (hf tag time)]
  rfl

/-! ### Service -/

section
variable {s : State} {r : Route} {idx sub : Nat} {bs : List Byte} (h : s.Carried r idx sub bs)
include h

theorem State.Carried.breaksChunks (tag time : Nat) (x : Option (List Nat)) :
    (s.atServer r idx sub bs).breaksChunks (writeReq r idx sub bs tag time x) = none := by
  unfold Dev.breaksChunks
  simp only [writeReq]
  cases hfn : routeFn r with
  | none => rfl
  | some fn => simp [h.closed fn hfn]

/-- A write that its gate refuses is refused. -/
theorem State.Carried.serve_barred (tag time : Nat) (x : Option (List Nat)) (g : Nat → Bool) {y : Status × Nat}
    (hg : (s.atServer r idx sub bs).odGate r false idx sub = .inl y) :
    (s.atServer r idx sub bs).serve s.env (writeReq r idx sub bs tag time x) g =
      (s.atServer r idx sub bs).odRefuse s.env r false (entryOf idx sub) idx sub y.1 y.2 {} := by
  have hg' : (s.atServer r idx sub bs).odGate (writeReq r idx sub bs tag time x).route ((writeReq r idx sub bs tag time x).op == .read)
    (writeReq r idx sub bs tag time x).idx (writeReq r idx sub bs tag time x).sub = .inl y := hg
  unfold Dev.serve
  rw [Dev.leadWrite_calm _ _ _ (s.rests_calm h.rests)]
  dsimp only
  rw [h.breaksChunks, hg']
  rfl

/-- A write of a value of the entry's size comes to checks 6 to 9. -/
theorem State.Carried.serve_whole (tag time : Nat) (x : Option (List Nat)) (g : Nat → Bool) {t : Ent}
    (hg : (s.atServer r idx sub bs).odGate r false idx sub = .inr t) (hty : t.ty ≠ .dom) (hlen : t.ty.size = bs.length) :
    (s.atServer r idx sub bs).serve s.env (writeReq r idx sub bs tag time x) g =
      (s.atServer r idx sub bs).writeValue s.env r t idx sub bs g {} := by
  have hg' : (s.atServer r idx sub bs).odGate (writeReq r idx sub bs tag time x).route ((writeReq r idx sub bs tag time x).op == .read)
    (writeReq r idx sub bs tag time x).idx (writeReq r idx sub bs tag time x).sub = .inr t := hg
  have hdom : (t.ty == Ty.dom) = false := beq_false_of_ne hty
  unfold Dev.serve
  rw [Dev.leadWrite_calm _ _ _ (s.rests_calm h.rests)]
  dsimp only
  rw [h.breaksChunks, hg']
  dsimp only
  rw [if_neg (by simp [writeReq])]
  unfold Dev.serveWrite
  simp only [hdom, writeReq]
  cases routeFn r <;> simp [hlen]

omit h in
/-- The row's request leaves the queue and is served; nothing measures a sense pair for it. -/
theorem State.Carried.serveReq_eq (tag time : Nat) (hne : ¬ (idx = 0x2B00 ∧ sub = 0xA)) :
    (s.atServer r idx sub bs).serveReq s.env (writeReq r idx sub bs tag time none) =
      (s.atServer r idx sub bs).serve s.env (writeReq r idx sub bs tag time none) fun _ => false := by
  have hd : (s.atServer r idx sub bs).drawIntact (writeReq r idx sub bs tag time none) = (fun _ => false, s.atServer r idx sub bs) := by
    unfold Dev.drawIntact
    rw [if_neg]
    simp only [writeReq, Bool.and_eq_true]
    exact fun z => hne ⟨of_decide_eq_true z.1.1, of_decide_eq_true z.1.2⟩
  unfold Dev.serveReq
  rw [if_neg (by simp [writeReq])]
  dsimp only
  rw [hd]
  rfl

omit h in
/-- The request of sense_clear is served with the pairs that its row names. -/
theorem State.Carried.serveReq_intact (tag time : Nat) (l : List Nat) (hi : idx = 0x2B00) (hs : sub = 0xA) :
    (s.atServer r idx sub bs).serveReq s.env (writeReq r idx sub bs tag time (some l)) =
      (s.atServer r idx sub bs).serve s.env (writeReq r idx sub bs tag time (some l)) l.contains := by
  have hd : (s.atServer r idx sub bs).drawIntact (writeReq r idx sub bs tag time (some l)) = (l.contains, s.atServer r idx sub bs) := by
    unfold Dev.drawIntact
    rw [if_pos (by simp [writeReq, hi, hs])]
    rfl
  unfold Dev.serveReq
  rw [if_neg (by simp [writeReq])]
  dsimp only
  rw [hd]
  rfl

end

/-! ### The write of a value -/

section
variable {d a : Dev} {e : Env} {r : Route} {t : Ent} {idx sub : Nat} {bs : List Byte} {g : Nat → Bool}
  (hj : d.odJudge e t idx sub (leNat bs) g {} = none) (hf : e.fails idx = none) (ha : d.odApply e r t idx sub (leNat bs) bs g {} = a)
  (hsave : idx = 0x1010 → a.srv.saving = none) (hjob : ∀ n, a.journalBay t idx sub = some n → a.inJob n = false)
include hj hf ha hsave hjob

/-- A write that the checks accept: its effect, its change record, its answer, and what follows the answer. -/
theorem Dev.writeValue_ok (hscrub : t.base = 0x2100 → sub = 2 → leNat bs = 2 → (a.bay (idx - 0x2100)).scrubbing = false) :
    d.writeValue e r t idx sub bs g {} = ((a.journalChange e r idx sub .ok (crc64 bs)).odAnswer r .ok 0 []).odAfter e idx sub := by
  have hrec : (a.journalChange e r idx sub .ok (crc64 bs)).dictRec e t idx sub = a.journalChange e r idx sub .ok (crc64 bs) := Dev.dictRec_none _ _ _ _ _ hjob
  unfold Dev.writeValue
  dsimp only
  rw [hj]
  dsimp only
  rw [hf, ha]
  dsimp only
  rw [if_neg (fun hs => by
    simp only [Bool.and_eq_true, decide_eq_true_eq] at hs
    rw [hsave hs.2] at hs
    exact absurd hs.1 (by decide)), hrec, if_neg]
  intro hs
  simp only [Bool.and_eq_true, decide_eq_true_eq] at hs
  obtain ⟨⟨⟨hb, hsub⟩, hv⟩, hscr⟩ := hs
  exact absurd ((hscrub hb hsub hv).symm.trans hscr) (by decide)

/-- A COMMIT whose scrub runs on has its change record, and is answered as the scrub ends (R135). -/
theorem Dev.writeValue_scrubs (hb : t.base = 0x2100) (hsub : sub = 2) (hv : leNat bs = 2) (hscr : (a.bay (idx - 0x2100)).scrubbing = true) :
    d.writeValue e r t idx sub bs g {} = a.journalChange e r idx sub .ok (crc64 bs) := by
  have hrec : (a.journalChange e r idx sub .ok (crc64 bs)).dictRec e t idx sub = a.journalChange e r idx sub .ok (crc64 bs) := Dev.dictRec_none _ _ _ _ _ hjob
  unfold Dev.writeValue
  dsimp only
  rw [hj]
  dsimp only
  rw [hf, ha]
  dsimp only
  rw [if_neg (fun hs => by
    simp only [Bool.and_eq_true, decide_eq_true_eq] at hs
    rw [hsave hs.2] at hs
    exact absurd hs.1 (by decide)), hrec, if_pos]
  simp only [Bool.and_eq_true, decide_eq_true_eq]
  exact ⟨⟨⟨hb, hsub⟩, hv⟩, hscr⟩

end

theorem Dev.odAfter_none (d : Dev) (e : Env) {idx sub : Nat} (h1 : ¬ (idx = 0x2001 ∧ sub = 0xB)) (h2 : ¬ (0x2D10 ≤ idx ∧ idx < 0x2D20 ∧ sub = 2)) :
    d.odAfter e idx sub = d := by
  unfold Dev.odAfter
  rw [if_neg (by simpa using h1), if_neg (by simpa [and_assoc] using h2)]

/-! ### What acceptance says -/

/-- The server accepts a write: the entry `t` takes it, and no strict job's journal does. -/
structure State.Accepted (s : State) (r : Route) (idx sub : Nat) (bs : List Byte) (t : Ent) (g : Nat → Bool) : Prop where
  carried : s.Carried r idx sub bs
  gate : (s.atServer r idx sub bs).odGate r false idx sub = .inr t
  ty : t.ty ≠ .dom
  size : t.ty.size = bs.length
  judged : (s.atServer r idx sub bs).odJudge s.env t idx sub (leNat bs) g {} = none
  free : ∀ n, (s.atServer r idx sub bs).journalBay t idx sub = some n → (s.atServer r idx sub bs).inJob n = false

theorem State.acceptedIf_of {s : State} {r : Route} {idx sub : Nat} {bs : List Byte} {intact : List (Fin 3)} (h : s.acceptsIf r idx sub bs intact = true) :
    ∃ t, s.Accepted r idx sub bs t fun k => intact.any fun i => i.val == k := by
  unfold State.acceptsIf at h
  simp only [Bool.and_eq_true] at h
  obtain ⟨⟨hrest, hcar⟩, h⟩ := h
  split at h
  · next t ht =>
    simp only [Bool.and_eq_true, bne_iff_ne, beq_iff_eq, Option.isNone_iff_eq_none] at h
    obtain ⟨⟨⟨hty, hsize⟩, hjudge⟩, hfree⟩ := h
    refine ⟨t, s.carried_of r idx sub bs hrest hcar, ht, hty, hsize, hjudge, fun n hn => ?_⟩
    rw [hn] at hfree
    simpa using hfree
  · exact absurd h (by decide)

theorem State.accepted_of {s : State} {r : Route} {idx sub : Nat} {bs : List Byte} (h : s.accepts r idx sub bs = true) :
    ∃ t, s.Accepted r idx sub bs t fun _ => false := by
  unfold State.accepts at h
  simp only [Bool.and_eq_true] at h
  obtain ⟨⟨hrest, hcar⟩, h⟩ := h
  split at h
  · next t ht =>
    simp only [Bool.and_eq_true, bne_iff_ne, beq_iff_eq, Option.isNone_iff_eq_none] at h
    obtain ⟨⟨⟨hty, hsize⟩, hjudge⟩, hfree⟩ := h
    refine ⟨t, s.carried_of r idx sub bs hrest hcar, ht, hty, hsize, hjudge, fun n hn => ?_⟩
    rw [hn] at hfree
    simpa using hfree
  · exact absurd h (by decide)

/-- What the gate lets through is the entry at its place. -/
theorem Dev.odGate_entry {d : Dev} {r : Route} {read : Bool} {idx sub : Nat} {t : Ent} (h : d.odGate r read idx sub = .inr t) :
    entryOf idx sub = some t ∧ d.right r t idx sub read = true := by
  unfold Dev.odGate at h
  split at h
  · exact absurd h (by simp)
  · split at h
    · exact absurd h (by simp)
    · split at h
      · exact absurd h (by simp)
      · next x hx =>
        split at h
        · exact absurd h (by simp)
        · next hr =>
          have ht : x = t := by
            split at h
            · split at h
              · exact absurd h (by simp)
              · exact Sum.inr.inj h
            · split at h
              · exact absurd h (by simp)
              · exact Sum.inr.inj h
          subst ht
          exact ⟨hx, by simpa using hr⟩

/-- What checks 6 to 8 have found right. -/
theorem Dev.odJudge_none {d : Dev} {e : Env} {t : Ent} {idx sub v : Nat} {g : Nat → Bool} {i : Image} (h : d.odJudge e t idx sub v g i = none) :
    d.valueOk t idx sub v = true ∧ d.stateOk t idx sub v = true ∧ d.entryBad e t idx sub v g i = none := by
  unfold Dev.odJudge at h
  dsimp only at h
  split at h
  · exact absurd h (by simp)
  · next hv =>
    split at h
    · exact absurd h (by simp)
    · next hst =>
      split at h
      · exact absurd h (by simp)
      · next hb => exact ⟨by simpa using hv, by simpa using hst, hb⟩

/-- The device with other dictionary windows. -/
def Dev.withWins (d : Dev) (w : SMap Win) : Dev := { d with srv := { d.srv with wins := w } }

theorem Dev.books_withWins (d : Dev) (w : SMap Win) : (d.withWins w).books = d.books := rfl

theorem Dev.quiet_withWins (d : Dev) (w : SMap Win) : (d.withWins w).quiet = d.quiet := rfl

theorem Dev.stores_withWins (d : Dev) (w : SMap Win) : (d.withWins w).stores = d.stores := rfl

theorem Dev.tells_withWins (d : Dev) (w : SMap Win) (r : Route) : (d.withWins w).tells r = d.tells r := rfl

/-- Whether a completion is told over the fabric rests on the masks, the attach mode, and the Bays' owner links. -/
theorem Dev.tells_congr {d x : Dev} (r : Route) (hb : x.board = d.board) (hl : x.link = d.link) (ho : ∀ n, n < 16 → x.od (0x2100 + n) 5 = d.od (0x2100 + n) 5) :
    x.tells r = d.tells r := by
  have hmask (fn v : Nat) : x.unmasked fn v = d.unmasked fn v := by unfold Dev.unmasked; rw [hl]
  have hmode : x.attachMode = d.attachMode := by unfold Dev.attachMode; rw [hb]
  have hevt (n : Nat) (hn : n < 16) : x.bayEvt n = d.bayEvt n := by unfold Dev.bayEvt Dev.ownerLink; rw [ho n hn, hmode]
  unfold Dev.tells
  cases r with
  | can p => rfl
  | pf => simp only [routeFn, hmask, hmode, if_true]
  | bay n => simp only [routeFn, hmask, Nat.add_sub_cancel, hevt n n.isLt, Nat.succ_ne_zero, if_false]
  | fabPf => simp only [routeFn, hmask, hmode, if_true]
  | fabBay n => simp only [routeFn, hmask, Nat.add_sub_cancel, hevt n n.isLt, Nat.succ_ne_zero, if_false]

/-- A Bay's own entry is the Bay's, whatever the device is. -/
theorem Dev.journalBay_own (d : Dev) {t : Ent} {idx sub n : Nat} (h : entBay t idx sub = some n) :
    d.journalBay t idx sub = if t.base = 0x2C10 then none else some n := by
  unfold Dev.journalBay Dev.objBay
  rw [h]

theorem Dev.journalBay_congr {d x : Dev} (t : Ent) (idx sub : Nat) (hb : x.bays = d.bays) (ho : x.od 0x2B02 1 = d.od 0x2B02 1) :
    x.journalBay t idx sub = d.journalBay t idx sub := by
  have hcore : x.entCore t sub = d.entCore t sub := by unfold Dev.entCore; rw [ho]
  have hholder (c : Nat) : x.holder (·.core) c = d.holder (·.core) c := by
    unfold Dev.holder Dev.bay
    rw [hb]
  unfold Dev.journalBay Dev.objBay
  simp only [hcore, hholder]

theorem Dev.inJob_congr {d x : Dev} (h : x.journals = d.journals) (n : Nat) : x.inJob n = d.inJob n := by
  unfold Dev.inJob Dev.jour
  rw [h]

section
variable {s : State} {r : Route} {idx sub : Nat} {bs : List Byte} {t : Ent} {g : Nat → Bool}

theorem State.Accepted.entry (h : s.Accepted r idx sub bs t g) : entryOf idx sub = some t := (Dev.odGate_entry h.gate).1

/-- The device with which the server makes an accepted write that changes no window. -/
theorem State.Accepted.server (h : s.Accepted r idx sub bs t g) : ∃ w, s.atServer r idx sub bs = s.dev.withWins w := ⟨_, h.carried.server⟩

/-- What an accepted write whose effect is `a` leaves: its change record, its answer, and what follows the answer. -/
theorem State.Accepted.odWrite_eq (h : s.Accepted r idx sub bs t fun _ => false) {a : Dev} (hne : ¬ (idx = 0x2B00 ∧ sub = 0xA))
    (ha : (s.atServer r idx sub bs).odApply s.env r t idx sub (leNat bs) bs (fun _ => false) {} = a) (hsave : idx = 0x1010 → a.srv.saving = none)
    (hjob : ∀ n, a.journalBay t idx sub = some n → a.inJob n = false)
    (hscrub : t.base = 0x2100 → sub = 2 → leNat bs = 2 → (a.bay (idx - 0x2100)).scrubbing = false)
    (f : Req → Req := id) (hf : ∀ tag time, f (writeReq r idx sub bs tag time none) = writeReq r idx sub bs tag time none := by intros; rfl) :
    s.dev.odWrite s.env r idx sub bs f = ((a.journalChange s.env r idx sub .ok (crc64 bs)).odAnswer r .ok 0 []).odAfter s.env idx sub := by
  obtain ⟨tag, time, hserve⟩ := h.carried.odWrite_serves f fun tag time => by rw [hf]; rfl
  rw [hserve, hf, State.Carried.serveReq_eq tag time hne, h.carried.serve_whole tag time none _ h.gate h.ty h.size,
    Dev.writeValue_ok h.judged (show s.env.fails idx = none from rfl) ha hsave hjob hscrub]

/-- What an accepted sense_clear whose effect is `a` leaves. -/
theorem State.Accepted.senseWrite_eq {l : List (Fin 3)} (h : s.Accepted r 0x2B00 0xA bs t fun k => l.any fun i => i.val == k) {a : Dev}
    (ha : (s.atServer r 0x2B00 0xA bs).odApply s.env r t 0x2B00 0xA (leNat bs) bs (fun k => l.any fun i => i.val == k) {} = a)
    (hjob : ∀ n, a.journalBay t 0x2B00 0xA = some n → a.inJob n = false) (hbase : t.base ≠ 0x2100) :
    s.dev.odWrite s.env r 0x2B00 0xA bs (fun q => { q with intact := some (l.map (·.val)) }) =
      (a.journalChange s.env r 0x2B00 0xA .ok (crc64 bs)).odAnswer r .ok 0 [] := by
  obtain ⟨tag, time, hserve⟩ := h.carried.odWrite_serves (fun q => { q with intact := some (l.map (·.val)) }) fun _ _ => rfl
  have hg : (fun k => l.any fun i => i.val == k) = (l.map (·.val)).contains := by
    funext k
    rw [List.contains_eq_any_beq, List.any_map]
    exact congrArg (l.any ·) (funext fun i => Bool.beq_comm)
  have hreq : ({ writeReq r 0x2B00 0xA bs tag time none with intact := some (l.map (·.val)) } : Req) =
    writeReq r 0x2B00 0xA bs tag time (some (l.map (·.val))) := rfl
  rw [hserve, hreq, State.Carried.serveReq_intact tag time _ rfl rfl, ← hg, h.carried.serve_whole tag time _ _ h.gate h.ty h.size,
    Dev.writeValue_ok h.judged (show s.env.fails 0x2B00 = none from rfl) ha (fun hi => absurd hi (by decide)) hjob (fun hb => absurd hb hbase),
    Dev.odAfter_none _ _ (by decide) (by decide)]

/-- The device with other books of what it tells: its windows, what it sends and has still to send, and the vectors it holds. -/
def Dev.toldAs (d : Dev) (w : SMap Win) (o : List Out) (p : List Nat) (l : List Out) : Dev :=
  { d with out := o, link := { d.link with msixPend := p, held := l }, srv := { d.srv with wins := w } }

theorem Dev.toldAs_hostSend (d : Dev) (x : Out) (w : SMap Win) (o : List Out) (p : List Nat) (l : List Out) :
    ∃ o' l', (d.toldAs w o p l).hostSend x = d.toldAs w o' p l' := by
  unfold Dev.hostSend
  split
  · exact ⟨o, l, rfl⟩
  · split
    · exact ⟨o ++ [x], l, rfl⟩
    · exact ⟨o, l ++ [x], rfl⟩
    all_goals exact ⟨o, l, rfl⟩

/-- A window's completion that is not told over the fabric changes what is told, and nothing else. -/
theorem Dev.winDone_told (d : Dev) (fn : Nat) (st : Status) (ab : Nat)
    (h : (!(d.unmasked fn (if fn = 0 then 0 else 3)) || !(if fn = 0 then d.attachMode == 1 else d.bayEvt (fn - 1))) = true) :
    ∃ w o p l, d.winDone fn st ab = d.toldAs w o p l := by
  have hset : d.setWin fn { d.win fn with busy := false, done := true, status := st.code, abort := ab } =
      d.toldAs (d.setWin fn { d.win fn with busy := false, done := true, status := st.code, abort := ab }).srv.wins d.out d.link.msixPend d.link.held := rfl
  unfold Dev.winDone
  dsimp only
  rw [hset]
  generalize (d.setWin fn { d.win fn with busy := false, done := true, status := st.code, abort := ab }).srv.wins = w
  by_cases hf : fn = 0
  · subst hf
    simp only [if_true] at h ⊢
    unfold Dev.raisePf
    split
    · next hv =>
      unfold Dev.pfVecOk at hv
      simp only [Bool.and_eq_true] at hv
      have hu : d.unmasked 0 0 = true := hv.1
      have ha : (d.attachMode == 1) = false := by simpa [hu] using h
      unfold Dev.pfMsg
      rw [if_neg (by show ¬ ((d.attachMode == 1) = true); simp [ha])]
      obtain ⟨o, l, he⟩ := d.toldAs_hostSend (.msix 0 0) w d.out d.link.msixPend d.link.held
      exact ⟨w, o, _, l, he⟩
    · exact ⟨w, d.out, listIns (0 * 8 + 0) d.link.msixPend, d.link.held, rfl⟩
  · simp only [if_neg hf] at h ⊢
    have hfn : fn - 1 + 1 = fn := by omega
    unfold Dev.raiseBay
    split
    · next hv =>
      unfold Dev.bayVecOk at hv
      simp only [Bool.and_eq_true] at hv
      have hu : d.unmasked fn 3 = true := by have := hv.1.1.1; rw [hfn] at this; exact this
      have hb : d.bayEvt (fn - 1) = false := by simpa [hu] using h
      unfold Dev.bayMsg
      rw [if_neg (by show ¬ (d.bayEvt (fn - 1) = true); simp [hb])]
      obtain ⟨o, l, he⟩ := d.toldAs_hostSend (.msix (fn - 1 + 1) 3) w d.out d.link.msixPend d.link.held
      exact ⟨w, o, _, l, he⟩
    · split
      · exact ⟨w, _, _, _, rfl⟩
      · exact ⟨w, d.out, listIns ((fn - 1 + 1) * 8 + 3) d.link.msixPend, d.link.held, rfl⟩

/-- The answer to an accepted request changes what is told, and nothing else. -/
theorem Dev.odAnswer_told (d : Dev) (r : Route) (h : d.tells r = true) : ∃ w o p l, d.odAnswer r .ok 0 [] = d.toldAs w o p l := by
  cases r with
  | can p =>
    unfold Dev.odAnswer
    dsimp only
    split
    · exact ⟨_, _, _, _, rfl⟩
    · exact ⟨d.srv.wins, d.out ++ [.can p "response" 0 []], d.link.msixPend, d.link.held, rfl⟩
  | pf => exact d.winDone_told 0 _ _ h
  | bay n => exact d.winDone_told (n + 1) _ _ h
  | fabPf => exact d.winDone_told 0 _ _ h
  | fabBay n => exact d.winDone_told (n + 1) _ _ h

/-- A command that leaves a dictionary write's effect `a` with its change record and its answer: all of it but the books. -/
theorem State.go_answers (s : State) (f : Env → Dev → Dev) {a : Dev} {c : Nat} (hs : s.rests = true)
    (h : f s.env s.dev = (a.journalChange s.env r idx sub .ok c).odAnswer r .ok 0 []) (hq : a.quiet = true) (hst : a.stores = []) (hw : a.tells r = true) :
    ∃ w o p l, s.go f = .next { s with dev := (a.journalChange s.env r idx sub .ok c).toldAs w o p l } := by
  obtain ⟨w, o, p, l, ht⟩ := (a.journalChange s.env r idx sub .ok c).odAnswer_told r hw
  rw [ht] at h
  exact ⟨w, o, p, l, s.go_to f _ hs h (Dev.quiet_link { a with srv := _ } _ hq rfl) hst⟩

/-- What an accepted write answers whose effect on the device is `x`, and after whose answer nothing follows. -/
theorem State.Accepted.row (h : s.Accepted r idx sub bs t fun _ => false) {x : Dev} (hne : ¬ (idx = 0x2B00 ∧ sub = 0xA))
    (hx : ∀ w, (s.dev.withWins w).odApply s.env r t idx sub (leNat bs) bs (fun _ => false) {} = x.withWins w)
    (hq : x.quiet = true) (hst : x.stores = []) (hw : x.tells r = true) (hsave : idx = 0x1010 → x.srv.saving = none)
    (hjob : ∀ n, x.journalBay t idx sub = some n → x.inJob n = false)
    (hscrub : t.base = 0x2100 → sub = 2 → leNat bs = 2 → (x.bay (idx - 0x2100)).scrubbing = false)
    (h1 : ¬ (idx = 0x2001 ∧ sub = 0xB)) (h2 : ¬ (0x2D10 ≤ idx ∧ idx < 0x2D20 ∧ sub = 2))
    (f : Req → Req := id) (hf : ∀ tag time, f (writeReq r idx sub bs tag time none) = writeReq r idx sub bs tag time none := by intros; rfl) :
    ∃ w o p l, s.go (fun e d => d.odWrite e r idx sub bs f) = .next { s with dev := (x.journalChange s.env r idx sub .ok (crc64 bs)).toldAs w o p l } := by
  obtain ⟨w, hserver⟩ := h.server
  have hwrite := h.odWrite_eq hne (a := x.withWins w) (by rw [hserver]; exact hx w) hsave hjob hscrub f hf
  rw [Dev.odAfter_none _ _ h1 h2] at hwrite
  obtain ⟨w', o, p, l, hgo⟩ := s.go_answers (fun e d => d.odWrite e r idx sub bs f) (a := x.withWins w) h.carried.rests hwrite hq hst hw
  exact ⟨w', o, p, l, hgo⟩

/-- What rests on the board, the link, the Bays and their journals, and the entries that name them, is as it was. -/
structure Dev.TellsLike (d x : Dev) : Prop where
  board : x.board = d.board
  link : x.link = d.link
  bays : x.bays = d.bays
  journals : x.journals = d.journals
  owner : ∀ n, n < 16 → x.od (0x2100 + n) 5 = d.od (0x2100 + n) 5
  selected : x.od 0x2B02 1 = d.od 0x2B02 1

/-- An accepted write whose effect `x` leaves the Bays and the link alone. -/
theorem State.Accepted.gives (h : s.Accepted r idx sub bs t fun _ => false) {x : Dev} (hne : ¬ (idx = 0x2B00 ∧ sub = 0xA))
    (hx : ∀ w, (s.dev.withWins w).odApply s.env r t idx sub (leNat bs) bs (fun _ => false) {} = x.withWins w)
    (hq : x.quiet = true) (hst : x.stores = []) (hl : s.dev.TellsLike x) (hsave : idx = 0x1010 → x.srv.saving = none)
    (hsub : t.base = 0x2100 → sub ≠ 2) (h1 : ¬ (idx = 0x2001 ∧ sub = 0xB)) (h2 : ¬ (0x2D10 ≤ idx ∧ idx < 0x2D20 ∧ sub = 2))
    (f : Req → Req := id) (hf : ∀ tag time, f (writeReq r idx sub bs tag time none) = writeReq r idx sub bs tag time none := by intros; rfl) :
    ∃ w o p l, s.go (fun e d => d.odWrite e r idx sub bs f) = .next { s with dev := (x.journalChange s.env r idx sub .ok (crc64 bs)).toldAs w o p l } := by
  obtain ⟨w, hserver⟩ := h.server
  refine h.row hne hx hq hst ?_ hsave (fun n hn => ?_) (fun hb hs => absurd hs (hsub hb)) h1 h2 f hf
  · rw [Dev.tells_congr r hl.board hl.link hl.owner, ← s.dev.tells_withWins w, ← hserver]
    exact h.carried.tells
  · have hfree := h.free n
    rw [hserver] at hfree
    rw [Dev.journalBay_congr t idx sub hl.bays hl.selected] at hn
    rw [Dev.inJob_congr hl.journals]
    exact hfree hn

end

end Sys2Proof.Machine
end

section
/-! SUPPORT. Dictionary writes: boot, store, journal and firmware (R87, R117 to R124). -/
namespace Sys2Proof.Machine

theorem leNat_leBytes (n v : Nat) (h : v < 256 ^ n) : leNat (leBytes n v) = v := by
  induction n generalizing v with
  | zero => simp at h; simp [leBytes, leNat, h]
  | succ n ih =>
    have hv : v / 256 < 256 ^ n := by rw [Nat.div_lt_iff_lt_mul (by decide), ← pow_succ]; exact h
    rw [leBytes, leNat, ih _ hv, BitVec.toNat_ofNat]
    omega

theorem leNat_w64 (v : W64) : leNat (leBytes 8 v.toNat) = v.toNat := leNat_leBytes _ _ v.isLt

theorem leNat_w32 (v : W32) : leNat (leBytes 4 v.toNat) = v.toNat := leNat_leBytes _ _ v.isLt

theorem leNat_w16 (v : W16) : leNat (leBytes 2 v.toNat) = v.toNat := leNat_leBytes _ _ v.isLt

/-- A row whose write leaves the effect `x`, its change record and its answer, gives whatever is `x` but for the books. -/
theorem gives_of {c : Instr} {s : State} {f : Env → Dev → Dev} {x y : Dev} {r : Route} {idx sub crc : Nat} (hc : exec c s = s.go f)
    (h : ∃ w o p l, s.go f = .next { s with dev := (x.journalChange s.env r idx sub .ok crc).toldAs w o p l }) (hxy : x.books = y.books) : Gives c s y := by
  obtain ⟨w, o, p, l, hgo⟩ := h
  exact ⟨_, hc.trans hgo, hxy, rfl, rfl, rfl, rfl⟩

theorem odRow_gives {c : Instr} {s : State} {x y : Dev} {r : Route} {idx sub size v crc : Nat} (hc : exec c s = s.odRow r idx sub size v)
    (h : ∃ w o p l, s.go (fun e d => d.odWrite e r idx sub (leBytes size v) id) =
      .next { s with dev := (x.journalChange s.env r idx sub .ok crc).toldAs w o p l }) (hxy : x.books = y.books) : Gives c s y :=
  gives_of (hc.trans (by unfold State.odRow; rfl)) h hxy

section
variable {s : State} {r : Route} {idx sub : Nat} {bs : List Byte} {t : Ent} {g : Nat → Bool}

theorem Dev.TellsLike.setOd (d : Dev) (idx sub v : Nat) (hs : sub < 256)
    (ho : ¬ (0x2100 ≤ idx ∧ idx < 0x2110 ∧ sub = 5) ∧ ¬ (idx = 0x2B02 ∧ sub = 1)) : d.TellsLike (d.setOd idx sub v) := by
  refine ⟨rfl, rfl, rfl, rfl, fun n hn => d.setOd_od_other v (by decide) hs fun h => ?_, d.setOd_od_other v (by decide) hs fun h => ?_⟩
  · simp only [Prod.mk.injEq] at h
    omega
  · simp only [Prod.mk.injEq] at h
    omega

/-- The entry of an accepted write, where its place is known. -/
theorem State.Accepted.entry_eq (h : s.Accepted r idx sub bs t g) {u : Ent} (hu : entryOf idx sub = some u) : t = u :=
  Option.some.inj (h.entry.symm.trans hu)

theorem Dev.odApply_takes {d : Dev} {e : Env} {v : Nat}
    (h : (if bayFamilies.contains t.base then d.ownApply e r t.base (idx - t.base) sub v bs else d.sysApply e r idx sub v g {}) = none) :
    d.odApply e r t idx sub v bs g {} = d.setOd idx sub v := by
  unfold Dev.odApply
  dsimp only
  rw [h]

theorem Dev.odApply_does {d x : Dev} {e : Env} {v : Nat}
    (h : (if bayFamilies.contains t.base then d.ownApply e r t.base (idx - t.base) sub v bs else d.sysApply e r idx sub v g {}) = some x) :
    d.odApply e r t idx sub v bs g {} = x := by
  unfold Dev.odApply
  dsimp only
  rw [h]

end

/-- The places of the dictionary at which a write's answer is its end. -/
abbrev plainPlace (idx sub : Nat) : Prop :=
  idx ≠ 0x1010 ∧ ¬ (idx = 0x2B00 ∧ sub = 0xA) ∧ ¬ (idx = 0x2001 ∧ sub = 0xB) ∧ ¬ (0x2D10 ≤ idx ∧ idx < 0x2D20 ∧ sub = 2)

section
variable {c : Instr} {s : State} {r : Route} {idx sub size v : Nat} {u : Ent}

/-- An accepted write with an effect of its own, which leaves the Bays and the link alone. -/
theorem odRow_does (hc : exec c s = s.odRow r idx sub size v) (h : s.accepts r idx sub (leBytes size v) = true) (hu : entryOf idx sub = some u)
    (hp : plainPlace idx sub) (hb : u.base = 0x2100 → sub ≠ 2) (hv : v < 256 ^ size) {x : Dev}
    (hx : s.rests = true → ∀ w, (if bayFamilies.contains u.base then (s.dev.withWins w).ownApply s.env r u.base (idx - u.base) sub v (leBytes size v)
      else (s.dev.withWins w).sysApply s.env r idx sub v (fun _ => false) {}) = some (x.withWins w))
    (hq : x.quiet = s.dev.quiet) (hst : x.stores = s.dev.stores) (hl : s.dev.TellsLike x) : Gives c s x := by
  obtain ⟨t, ha⟩ := State.accepted_of h
  have ht := ha.entry_eq hu
  subst ht
  have hs := ha.carried.rests
  obtain ⟨h1, h2, h3, h4⟩ := hp
  refine odRow_gives hc (ha.gives h2 (fun w => ?_) (hq.trans (State.rests_quiet hs)) (hst.trans (State.rests_stores hs)) hl
    (fun hi => absurd hi h1) hb h3 h4) rfl
  rw [leNat_leBytes _ _ hv]
  exact Dev.odApply_does (hx hs w)

/-- An accepted write to an entry that takes its value. -/
theorem odRow_takes (hc : exec c s = s.odRow r idx sub size v) (h : s.accepts r idx sub (leBytes size v) = true) (hu : entryOf idx sub = some u)
    (hp : plainPlace idx sub) (hb : u.base = 0x2100 → sub ≠ 2) (hv : v < 256 ^ size) 
    (hx : ∀ d e bs, (if bayFamilies.contains u.base then Dev.ownApply d e r u.base (idx - u.base) sub v bs
      else d.sysApply e r idx sub v (fun _ => false) {}) = none)
    (hs : sub < 256) (ho : ¬ (0x2100 ≤ idx ∧ idx < 0x2110 ∧ sub = 5) ∧ ¬ (idx = 0x2B02 ∧ sub = 1)) : Gives c s (s.dev.setOd idx sub v) := by
  obtain ⟨t, ha⟩ := State.accepted_of h
  have ht := ha.entry_eq hu
  subst ht
  have hrest := ha.carried.rests
  obtain ⟨h1, h2, h3, h4⟩ := hp
  refine odRow_gives hc (ha.gives (x := s.dev.setOd idx sub v) h2 (fun w => ?_) (State.rests_quiet hrest) (State.rests_stores hrest) (.setOd _ _ _ _ hs ho)
    (fun hi => absurd hi h1) hb h3 h4) rfl
  rw [leNat_leBytes _ _ hv, Dev.odApply_takes (hx _ _ _)]
  rfl

end

section
variable {r : Route} {s : State}

theorem restoreAll_gives (h : s.accepts r 0x1011 1 (leBytes 4 0x64616F6C) = true) :
    Gives (.restoreAll r) s { s.dev with nv := { s.dev.nv with restoreDue := true } } :=
  odRow_does (by rfl) h (u := ⟨0x1011, 1, 1, 1, 1, .u 4, .wo, false, false, 0⟩) (by decide +kernel)
    (by decide) (by decide) (by decide) (fun _ _ => rfl) rfl rfl ⟨rfl, rfl, rfl, rfl, fun _ _ => rfl, rfl⟩

theorem activate_gives (h : s.accepts r 0x2004 4 [1] = true) :
    Gives (.activate r) s { s.dev with srv := { s.dev.srv with activating := true } } :=
  odRow_does (size := 1) (v := 1) (by rfl) h (u := ⟨0x2004, 1, 4, 4, 1, .u 1, .wo, false, false, 0⟩) (by decide +kernel)
    (by decide) (by decide) (by decide) (fun _ _ => rfl) rfl rfl ⟨rfl, rfl, rfl, rfl, fun _ _ => rfl, rfl⟩

theorem fuseSvnRaise_gives {v : W32} (h : s.accepts r 0x2004 5 (leBytes 4 v.toNat) = true) :
    Gives (.fuseSvnRaise r v) s { s.dev with nv := { s.dev.nv with fuseSvn := v.toNat } } :=
  odRow_does (by rfl) h (u := ⟨0x2004, 1, 5, 5, 1, .u 4, .wo, false, false, 0⟩) (by decide +kernel)
    (by decide) (by decide) v.isLt (fun _ _ => rfl) rfl rfl ⟨rfl, rfl, rfl, rfl, fun _ _ => rfl, rfl⟩

theorem journalSelect_gives {v : W64} (h : s.accepts r 0x2003 2 (leBytes 8 v.toNat) = true) :
    Gives (.journalSelect r v) s (s.dev.setOd 0x2003 2 v.toNat) :=
  odRow_takes (by rfl) h (u := ⟨0x2003, 1, 2, 2, 1, .u 8, .rw, false, false, 0⟩) (by decide +kernel)
    (by decide) (by decide) v.isLt (fun _ _ _ => rfl) (by decide) (by decide)

theorem violSelect_gives {v : W64} (h : s.accepts r 0x2200 0xD (leBytes 8 v.toNat) = true) :
    Gives (.violSelect r v) s (s.dev.setOd 0x2200 0xD v.toNat) :=
  odRow_takes (by rfl) h (u := ⟨0x2200, 1, 0xD, 0xD, 1, .u 8, .rw, false, false, 0⟩) (by decide +kernel)
    (by decide) (by decide) v.isLt (fun _ _ _ => rfl) (by decide) (by decide)

theorem logSelect_gives {v : W64} (h : s.accepts r 0x2D00 2 (leBytes 8 v.toNat) = true) :
    Gives (.logSelect r v) s (s.dev.setOd 0x2D00 2 v.toNat) :=
  odRow_takes (by rfl) h (u := ⟨0x2D00, 1, 2, 2, 1, .u 8, .rw, false, false, 0⟩) (by decide +kernel)
    (by decide) (by decide) v.isLt (fun _ _ _ => rfl) (by decide) (by decide)

theorem entryOf_bayLogSelect : ∀ n : Fin 16, entryOf (0x2D10 + n) 5 = some ⟨0x2D10, 16, 5, 5, 1, .u 8, .rw, true, false, 0⟩ := by decide +kernel

theorem bayLogSelect_gives {n : Fin 16} {v : W64} (h : s.accepts r (0x2D10 + n) 5 (leBytes 8 v.toNat) = true) :
    Gives (.bayLogSelect r n v) s (s.dev.setOd (0x2D10 + n) 5 v.toNat) :=
  odRow_takes (by rfl) h (u := ⟨0x2D10, 16, 5, 5, 1, .u 8, .rw, true, false, 0⟩) (entryOf_bayLogSelect n)
    (by omega) (by decide) v.isLt (fun _ _ _ => rfl) (by decide) (by omega)

/-- What a command ends with waits for nothing where what it leaves due is what was. -/
theorem Dev.quiet_of_parts {d x : Dev} (h : d.quiet = true) (hp : x.pages = d.pages) (hl : x.places = d.places) (hf : x.faults = d.faults)
    (hc : x.ckpts = d.ckpts) (hs : x.spars = d.spars) (hr : x.link.heldRecs = d.link.heldRecs) (ho : x.fabric.ports = d.fabric.ports)
    (hb : x.board.smbSeen = d.board.smbSeen) (hv : x.released = d.released) : x.quiet = true := by
  unfold Dev.quiet at h ⊢
  rw [hp, hl, hf, hc, hs, hr, ho, hb, hv]
  exact h

theorem need_none {b : Bool} (h : (if b then none else some Status.state) = none) : b = true := by
  cases b with
  | true => rfl
  | false => exact absurd h (by simp)

theorem Dev.saveAll_withWins (d : Dev) (w : SMap Win) : (d.withWins w).saveAll = d.saveAll.withWins w := by
  have hrec : (d.withWins w).storeRec = d.storeRec := funext fun x => rfl
  have hsaved : (d.withWins w).savedFlash = d.savedFlash := by
    unfold Dev.savedFlash
    rw [hrec]
    rfl
  unfold Dev.saveAll
  rw [hsaved]
  rfl

theorem Dev.sysApply_save (d : Dev) (e : Env) (v : Nat) (i : Image) (he : e.served = .done) :
    d.sysApply e r 0x1010 1 v (fun _ => false) i = some d.saveAll := by
  unfold Dev.sysApply
  dsimp only
  rw [he]
  rfl

/-- A save whose flash holds: the banks as it leaves them. -/
theorem saveAll_gives (h : s.accepts r 0x1010 1 (leBytes 4 0x65766173) = true) : Gives (.saveAll r .done) s s.dev.saveAll := by
  obtain ⟨t, ha⟩ := State.accepted_of h
  have ht := ha.entry_eq (u := ⟨0x1010, 1, 1, 1, 1, .u 4, .wo, false, false, 0⟩) (by decide +kernel)
  subst ht
  have hs := ha.carried.rests
  obtain ⟨w, hserver⟩ := ha.server
  have hsaving : s.dev.srv.saving = none := by
    have hbad := (Dev.odJudge_none ha.judged).2.2
    rw [hserver] at hbad
    exact Option.isNone_iff_eq_none.mp (need_none hbad)
  obtain ⟨b0, b1, hbanks⟩ : ∃ b0 b1, s.dev.saveAll = s.dev.saveBanks b0 b1 := ⟨_, _, rfl⟩
  have hx (w : SMap Win) := (Dev.sysApply_save (r := r) (s.dev.withWins w) s.env (leNat (leBytes 4 0x65766173)) {} rfl).trans
    (congrArg some ((s.dev.saveAll_withWins w).trans (congrArg (·.withWins w) hbanks)))
  rw [hbanks]
  exact gives_of (show execSaveAll r s .done = _ by unfold execSaveAll; rfl)
    (ha.gives (x := s.dev.saveBanks b0 b1) (by decide) (fun w => Dev.odApply_does ((if_neg (by decide)).trans (hx w))) (State.rests_quiet hs)
      (State.rests_stores hs) ⟨rfl, rfl, rfl, rfl, fun _ _ => rfl, rfl⟩ (fun _ => hsaving) (by decide) (by decide) (by decide)
      fun q => { q with served := .done }) rfl

/-- A restart of a device that has failed: the main rails are released, and the ROM waits for them to fall. -/
theorem bootRestart_gives (h : s.accepts r 0x2001 0xB [1] = true) (hb : s.dev.boot.st = .failed) (hm : s.dev.board.mainPg = true) :
    Gives (.bootRestart r) s { s.dev with
      board := { s.dev.board with mainPwrReq := false }
      boot := { s.dev.boot with waitPgLow := true } } := by
  obtain ⟨t, ha⟩ := State.accepted_of h
  have ht := ha.entry_eq (u := ⟨0x2001, 1, 0xB, 0xB, 1, .u 1, .wo, false, false, 0⟩) (by decide +kernel)
  subst ht
  have hs := ha.carried.rests
  obtain ⟨w, hserver⟩ := ha.server
  have hwrite := ha.odWrite_eq (a := s.dev.withWins w) (by decide) (by rw [hserver]; exact Dev.odApply_does rfl) (fun hi => absurd hi (by decide))
    (fun n hn => hserver ▸ ha.free n (by rw [hserver]; exact hn)) (fun hb => absurd hb (by decide))
  obtain ⟨w', o, p, l, htold⟩ := ((s.dev.withWins w).journalChange s.env r 0x2001 0xB .ok (crc64 [1])).odAnswer_told r (by
    have := ha.carried.tells
    rw [hserver] at this
    exact this)
  have hafter (x : Dev) (hst : x.boot.st = .failed) (hpg : x.board.mainPg = true) : x.odAfter s.env 0x2001 0xB = { x with
      board := { x.board with mainPwrReq := false }
      boot := { x.boot with waitPgLow := true } } := by
    unfold Dev.odAfter
    rw [if_pos (by decide)]
    unfold Dev.bootRestart Dev.romIfDown
    rw [if_neg (by simp [hst]), if_pos (by simp [hpg])]
  rw [htold, hafter (((s.dev.withWins w).journalChange s.env r 0x2001 0xB .ok (crc64 [1])).toldAs w' o p l) hb hm] at hwrite
  exact ⟨_, (show execBootRestart r s = _ by unfold execBootRestart State.odRow; rfl).trans (s.go_to (fun e d => d.odWrite e r 0x2001 0xB [1] id) _ hs hwrite
    (Dev.quiet_of_parts (d := s.dev) (State.rests_quiet hs) rfl rfl rfl rfl rfl rfl rfl rfl rfl) (State.rests_stores hs)), rfl, rfl, rfl, rfl, rfl⟩

end

end Sys2Proof.Machine
end

section
/-! SUPPORT. The dictionary store: what a save writes is what the banks read back (R115 to R117). -/
namespace Sys2Proof.Machine

theorem leBytes_length (n v : Nat) : (leBytes n v).length = n := by
  induction n generalizing v with
  | zero => rfl
  | succ n ih => rw [leBytes, List.length_cons, ih]

/-! ### The CRC fits its field -/

theorem crc64Byte_lt {c : Nat} (b : Byte) (h : c < 2 ^ 64) : crc64Byte c b < 2 ^ 64 := by
  have hstep (l : List Nat) : ∀ c, c < 2 ^ 64 → l.foldl (fun c _ => if c < 2 ^ 63 then c * 2 else (c * 2 % 2 ^ 64) ^^^ 0x42F0E1EBA9EA3693) c < 2 ^ 64 := by
    induction l with
    | nil => exact fun c hc => hc
    | cons x l ih =>
      intro c hc
      refine ih _ ?_
      dsimp only
      split
      · omega
      · exact Nat.xor_lt_two_pow (Nat.mod_lt _ (by decide)) (by decide)
  refine hstep _ _ (Nat.xor_lt_two_pow h ?_)
  have := b.isLt
  omega

theorem crc64_lt (bs : List Byte) : crc64 bs < 2 ^ 64 := by
  have hfrom (l : List Byte) : ∀ c, c < 2 ^ 64 → crc64From c l < 2 ^ 64 := by
    induction l with
    | nil => exact fun c hc => hc
    | cons x l ih =>
      intro c hc
      rw [crc64From, List.foldl_cons, ← crc64From]
      exact ih _ (crc64Byte_lt x hc)
  unfold crc64
  exact hfrom bs 0 (by decide)

/-! ### Fields of bytes -/

theorem fld_append_left {a b : List Byte} {off n : Nat} (h : off + n ≤ a.length) : fld (a ++ b) off n = fld a off n := by
  unfold fld
  rw [List.drop_append_of_le_length (by omega), List.take_append_of_le_length (by rw [List.length_drop]; omega)]

theorem fld_append_right {a b : List Byte} {off n : Nat} (h : a.length ≤ off) : fld (a ++ b) off n = fld b (off - a.length) n := by
  unfold fld
  rw [List.drop_append, List.drop_eq_nil_of_le h, List.nil_append]

theorem fld_leBytes_skip {m v : Nat} (b : List Byte) {off n : Nat} (h : m ≤ off) : fld (leBytes m v ++ b) off n = fld b (off - m) n := by
  rw [fld_append_right (by rw [leBytes_length]; exact h), leBytes_length]

theorem fld_leBytes_append {n v : Nat} (b : List Byte) (h : v < 256 ^ n) : fld (leBytes n v ++ b) 0 n = v := by
  rw [fld_append_left (by rw [leBytes_length]; omega), fld, List.drop_zero, List.take_of_length_le (by rw [leBytes_length]), leNat_leBytes _ _ h]

theorem fld_take {bs : List Byte} {k off n : Nat} (h : off + n ≤ k) : fld (bs.take k) off n = fld bs off n := by
  unfold fld
  rw [List.drop_take, List.take_take, Nat.min_eq_left (by omega)]

/-! ### A record -/

/-- A record whose fields fit theirs. -/
def storeFits (r : StoreRec) : Prop :=
  r.index < 0xFFFF ∧ r.sub < 256 ∧ r.cls < 256 ∧ 1 ≤ r.value.length ∧ r.value.length ≤ 4096

theorem fit_length (n : Nat) (bs : List Byte) : (fit n bs).length = n := by
  simp [fit, zeros]
  omega

theorem le_cdiv8 (n : Nat) : n ≤ cdiv n 8 * 8 := by
  unfold cdiv
  omega

theorem fit_take {n : Nat} {bs : List Byte} (h : bs.length ≤ n) : (fit n bs).take bs.length = bs := by
  rw [fit, List.take_take, Nat.min_eq_left h, List.take_left]

theorem recBytes_length (r : StoreRec) : (recBytes r).length = recSize r := by
  simp only [recBytes, List.length_append, leBytes_length, fit_length, recSize]
  omega

/-- A record's bytes read back as the record. -/
theorem recOf_recBytes {r : StoreRec} (h : storeFits r) (rest : List Byte) : recOf (recBytes r ++ rest) = some r := by
  obtain ⟨hi, hs, hc, hlo, hhi⟩ := h
  have hk := le_cdiv8 r.value.length
  have hlen := recBytes_length r
  set k := cdiv r.value.length 8 * 8 with hkdef
  set head := leBytes 2 r.index ++ leBytes 1 r.sub ++ leBytes 1 r.cls ++ leBytes 4 r.value.length ++ fit k r.value with hhead
  have hheadlen : head.length = 8 + k := by
    simp only [hhead, List.length_append, leBytes_length, fit_length]
  have hbytes : recBytes r ++ rest = head ++ (leBytes 8 (crc64 head) ++ rest) := by
    rw [← List.append_assoc]
    rfl
  have hright : recBytes r ++ rest = leBytes 2 r.index ++ (leBytes 1 r.sub ++ (leBytes 1 r.cls ++ (leBytes 4 r.value.length ++
      (fit k r.value ++ (leBytes 8 (crc64 head) ++ rest))))) := by
    rw [hbytes, hhead]
    simp only [List.append_assoc]
  have hindex : fld (recBytes r ++ rest) 0 2 = r.index := by rw [hright, fld_leBytes_append _ (by omega)]
  have hsub : fld (recBytes r ++ rest) 2 1 = r.sub := by
    rw [hright, fld_leBytes_skip _ (by omega), fld_leBytes_append _ (by omega)]
  have hcls : fld (recBytes r ++ rest) 3 1 = r.cls := by
    rw [hright, fld_leBytes_skip _ (by omega), fld_leBytes_skip _ (by omega), fld_leBytes_append _ (by omega)]
  have hn : fld (recBytes r ++ rest) 4 4 = r.value.length := by
    rw [hright, fld_leBytes_skip _ (by omega), fld_leBytes_skip _ (by omega), fld_leBytes_skip _ (by omega), fld_leBytes_append _ (by omega)]
  have hcrc : fld (recBytes r ++ rest) (8 + k) 8 = crc64 head := by
    rw [hbytes, fld_append_right (by omega), hheadlen, Nat.sub_self, fld_leBytes_append _ (crc64_lt _)]
  have htake : (recBytes r ++ rest).take (8 + k) = head := by rw [hbytes, ← hheadlen, List.take_left]
  have hvalue : ((recBytes r ++ rest).drop 8).take r.value.length = r.value := by
    have h8 : (leBytes 2 r.index ++ leBytes 1 r.sub ++ leBytes 1 r.cls ++ leBytes 4 r.value.length).length = 8 := by
      simp only [List.length_append, leBytes_length]
    rw [hbytes, hhead, List.append_assoc _ (fit k r.value), ← h8, List.drop_left, List.take_append_of_le_length (by rw [fit_length]; exact hk), fit_take hk]
  unfold recOf
  dsimp only
  rw [hn, hindex, hsub, hcls, ← hkdef, hcrc, htake, hvalue, if_pos]
  simp only [List.length_append, hlen, recSize, ← hkdef, Bool.and_eq_true, bne_iff_ne, beq_self_eq_true, Nat.ble_eq, and_true]
  omega

/-- What a record reads from rests on its own bytes. -/
theorem recOf_some {bs : List Byte} {r : StoreRec} (h : recOf bs = some r) : recSize r ≤ bs.length ∧ 24 ≤ recSize r ∧
    ∀ rest, recOf (bs.take (recSize r) ++ rest) = some r := by
  unfold recOf at h
  dsimp only at h
  split at h
  · next hc =>
    simp only [Bool.and_eq_true, Nat.ble_eq, bne_iff_ne, beq_iff_eq] at hc
    obtain ⟨⟨⟨⟨hi, hlo⟩, hhi⟩, hroom⟩, hcrc⟩ := hc
    have hk := le_cdiv8 (fld bs 4 4)
    have hr := (Option.some.inj h).symm
    have hval : r.value.length = fld bs 4 4 := by
      rw [hr, List.length_take, List.length_drop]
      omega
    have hsize : recSize r = 8 + cdiv (fld bs 4 4) 8 * 8 + 8 := by
      rw [recSize, hval]
      omega
    have h24 : 8 ≤ cdiv (fld bs 4 4) 8 * 8 := by unfold cdiv; omega
    refine ⟨by omega, by omega, fun rest => ?_⟩
    have hlen : (bs.take (recSize r)).length = recSize r := by rw [List.length_take]; omega
    have hfld (off n : Nat) (hle : off + n ≤ recSize r) : fld (bs.take (recSize r) ++ rest) off n = fld bs off n := by
      rw [fld_append_left (by omega), fld_take hle]
    unfold recOf
    dsimp only
    rw [hfld 4 4 (by omega), hfld 0 2 (by omega), hfld 2 1 (by omega), hfld 3 1 (by omega), hfld _ 8 (by omega),
      List.take_append_of_le_length (by omega), List.take_take, Nat.min_eq_left (by omega), List.drop_append_of_le_length (by omega),
      List.take_append_of_le_length (by rw [List.length_drop]; omega), List.drop_take, List.take_take, Nat.min_eq_left (by omega), if_pos, hr]
    simp only [Bool.and_eq_true, Nat.ble_eq, bne_iff_ne, beq_iff_eq, List.length_append, hlen]
    exact ⟨⟨⟨⟨hi, hlo⟩, hhi⟩, by omega⟩, hcrc⟩
  · exact absurd h (by simp)

/-! ### Lists of records -/

theorem recsOf_some (fuel : Nat) {bs : List Byte} {r : StoreRec} (h : recOf bs = some r) :
    recsOf (fuel + 1) bs = (r :: (recsOf fuel (bs.drop (recSize r))).1, (recsOf fuel (bs.drop (recSize r))).2) := by
  rw [recsOf, h]

theorem recsOf_none (fuel : Nat) {bs : List Byte} (h : recOf bs = none) : recsOf fuel bs = ([], bs) := by
  cases fuel with
  | zero => rfl
  | succ fuel => rw [recsOf, h]

/-- Records read from bytes lie within them. -/
theorem recsOf_within (fuel : Nat) (bs : List Byte) :
    ((recsOf fuel bs).1.map recSize).sum ≤ bs.length ∧ 24 * (recsOf fuel bs).1.length ≤ ((recsOf fuel bs).1.map recSize).sum ∧
      (recsOf fuel bs).1.length ≤ fuel := by
  induction fuel generalizing bs with
  | zero => exact ⟨Nat.zero_le _, Nat.le_refl _, Nat.le_refl _⟩
  | succ fuel ih =>
    unfold recsOf
    split
    · next r hr =>
      obtain ⟨hlen, h24, -⟩ := recOf_some hr
      obtain ⟨h1, h2, h3⟩ := ih (bs.drop (recSize r))
      rw [List.length_drop] at h1
      simp only [List.map_cons, List.sum_cons, List.length_cons]
      omega
    · exact ⟨Nat.zero_le _, Nat.le_refl _, Nat.zero_le _⟩

/-- Records read from bytes read again from as many of them, whatever follows. -/
theorem recsOf_again (fuel fuel' : Nat) (bs rest : List Byte) (hf : (recsOf fuel bs).1.length ≤ fuel') :
    (recsOf fuel' (bs.take ((recsOf fuel bs).1.map recSize).sum ++ rest)).1 =
      (recsOf fuel bs).1 ++ (recsOf (fuel' - (recsOf fuel bs).1.length) rest).1 := by
  induction fuel generalizing bs fuel' with
  | zero => simp [recsOf]
  | succ fuel ih =>
    cases hr : recOf bs with
    | none => simp [recsOf_none _ hr]
    | some r =>
      obtain ⟨hlen, -, hagain⟩ := recOf_some hr
      rw [recsOf_some fuel hr] at hf ⊢
      simp only [List.length_cons, List.map_cons, List.sum_cons] at hf ⊢
      obtain ⟨k, rfl⟩ : ∃ k, fuel' = k + 1 := ⟨fuel' - 1, by omega⟩
      generalize hS : ((recsOf fuel (bs.drop (recSize r))).1.map recSize).sum = S at ih
      have hcut : bs.take (recSize r + S) ++ rest = bs.take (recSize r) ++ ((bs.drop (recSize r)).take S ++ rest) := by
        rw [List.take_add, List.append_assoc]
      have htake : (bs.take (recSize r)).length = recSize r := by rw [List.length_take]; omega
      have hdrop := List.drop_left' (l₂ := (bs.drop (recSize r)).take S ++ rest) htake
      have hrest := ih k (bs.drop (recSize r)) (by omega)
      rw [hS] at hrest
      rw [hcut, recsOf_some k (hagain _), hdrop, hrest, Nat.add_sub_add_right, List.cons_append]

theorem recOf_nil : recOf [] = none := by decide

/-- The bytes of records read back as the records. -/
theorem recsOf_recBytes (fuel : Nat) (l : List StoreRec) (hl : ∀ r ∈ l, storeFits r) (hf : l.length ≤ fuel) :
    (recsOf fuel (l.map recBytes).flatten).1 = l := by
  induction l generalizing fuel with
  | nil => rw [List.map_nil, List.flatten_nil, recsOf_none _ recOf_nil]
  | cons r l ih =>
    obtain ⟨k, rfl⟩ : ∃ k, fuel = k + 1 := ⟨fuel - 1, by rw [List.length_cons] at hf; omega⟩
    rw [List.length_cons] at hf
    rw [List.map_cons, List.flatten_cons, recsOf_some k (recOf_recBytes (hl r List.mem_cons_self) _), List.drop_left' (recBytes_length r),
      ih k (fun x hx => hl x (List.mem_cons_of_mem _ hx)) (by omega)]

/-! ### Banks -/

theorem flashBytes_length (bs : List Byte) (off n : Nat) : (flashBytes bs off n).length = n := by simp [flashBytes]

theorem flashBytes_getD (bs : List Byte) {k i : Nat} (h : i < k) : (flashBytes bs 0 k).getD i 0xFF = bs.getD i 0xFF := by
  simp [flashBytes, h]

/-- What the first bytes hold is what they were, whatever follows. -/
theorem flashBytes_kept {bs rest : List Byte} {off n k : Nat} (h : off + n ≤ k) : flashBytes (flashBytes bs 0 k ++ rest) off n = flashBytes bs off n := by
  show (List.range n).map (fun i => (flashBytes bs 0 k ++ rest).getD (off + i) 0xFF) = (List.range n).map fun i => bs.getD (off + i) 0xFF
  refine List.map_congr_left fun i hi => ?_
  rw [List.mem_range] at hi
  rw [List.getD_append _ _ _ _ (by rw [flashBytes_length]; omega)]
  exact flashBytes_getD bs (by omega)

/-- The bytes of a part of the flash within what is listed. -/
theorem flashBytes_listed {bs : List Byte} {off n : Nat} (h : off + n ≤ bs.length) : flashBytes bs off n = (bs.drop off).take n := by
  refine List.ext_getElem (by rw [flashBytes_length, List.length_take, List.length_drop]; omega) fun i hi _ => ?_
  rw [flashBytes_length] at hi
  have hb : off + i < bs.length := by omega
  simp [flashBytes, hb]

theorem flashBytes_drop (bs : List Byte) (a n : Nat) : (flashBytes bs 0 (a + n)).drop a = flashBytes bs a n := by
  refine List.ext_getElem (by rw [List.length_drop, flashBytes_length, flashBytes_length]; omega) fun i _ _ => ?_
  simp [flashBytes]

theorem recSize_ge {r : StoreRec} (h : storeFits r) : 24 ≤ recSize r := by
  obtain ⟨-, -, -, hlo, -⟩ := h
  unfold recSize cdiv
  omega

theorem sum_recSize_ge {l : List StoreRec} (hl : ∀ r ∈ l, storeFits r) : 24 * l.length ≤ (l.map recSize).sum := by
  induction l with
  | nil => exact Nat.le_refl _
  | cons r l ih =>
    have hr := recSize_ge (hl r List.mem_cons_self)
    have := ih fun x hx => hl x (List.mem_cons_of_mem _ hx)
    rw [List.length_cons, List.map_cons, List.sum_cons]
    omega

/-- A header reads back with its generation, and the records behind it. -/
theorem bankOf_header {g : Nat} (hg : g < 2 ^ 32) (body : List Byte) : ∃ x, bankOf (bankHeader g ++ body) = some x ∧ x.generation = g ∧
    x.recs = (recsOf (bankSize / 24) body).1 := by
  have hlen : (bankHeader g).length = 0x40 := by
    simp [bankHeader, leBytes_length, zeros]
  have hfield (off n : Nat) (h : off + n ≤ 0x40) : flashBytes (bankHeader g ++ body) off n = ((bankHeader g).drop off).take n := by
    rw [flashBytes_listed (by rw [List.length_append]; omega), List.drop_append_of_le_length (by omega), List.take_append_of_le_length (by rw [List.length_drop]; omega)]
  have hfld (off n : Nat) (h : off + n ≤ 0x40) : flashField (bankHeader g ++ body) off n = fld (bankHeader g) off n := by
    rw [flashField, hfield off n h, fld]
  set head := leBytes 4 0x08805D0E ++ leBytes 4 g ++ zeros 48 with hhead
  have hheadlen : head.length = 56 := by simp [hhead, leBytes_length, zeros]
  have hbank : bankHeader g = head ++ leBytes 8 (crc64 head) := rfl
  have hmagic : fld (bankHeader g) 0 4 = 0x08805D0E := by
    rw [hbank, hhead, List.append_assoc, List.append_assoc, List.append_assoc, fld_leBytes_append _ (by decide)]
  have hgen : fld (bankHeader g) 4 4 = g := by
    rw [hbank, hhead, List.append_assoc, List.append_assoc, List.append_assoc, fld_leBytes_skip _ (by decide), fld_leBytes_append _ hg]
  have hcrc : fld (bankHeader g) 0x38 8 = crc64 head := by
    rw [hbank, fld_append_right (by omega), hheadlen, ← List.append_nil (leBytes 8 _), fld_leBytes_append _ (crc64_lt _)]
  have htake : ((bankHeader g).drop 0).take 56 = head := by rw [List.drop_zero, hbank, ← hheadlen, List.take_left]
  unfold bankOf
  rw [hfld 0 4 (by decide), hfld 0x38 8 (by decide), hfld 4 4 (by decide), hfield 0 56 (by decide), hmagic, hcrc, hgen, htake, List.drop_left' hlen]
  exact ⟨_, if_pos (by simp), rfl, rfl⟩

/-- A bank with records appended behind its last good one. -/
theorem bankOf_appended {bs : List Byte} {x : StoreBank} (h : bankOf bs = some x) {l : List StoreRec} (hl : ∀ r ∈ l, storeFits r)
    (hroom : (l.map recSize).sum ≤ bankFree x) :
    ∃ y, bankOf (flashBytes bs 0 x.stop ++ (l.map recBytes).flatten) = some y ∧ y.generation = x.generation ∧ y.recs = x.recs ++ l := by
  unfold bankOf at h
  dsimp only at h
  split at h
  · next hc =>
    have hx := (Option.some.inj h).symm
    obtain ⟨hsum, hcount, hfuel⟩ := recsOf_within (bankSize / 24) (bs.drop 0x40)
    have hrecs : x.recs = (recsOf (bankSize / 24) (bs.drop 0x40)).1 := by rw [hx]
    have hstop : x.stop = 0x40 + (x.recs.map recSize).sum := by rw [hx]
    have hgen : x.generation = flashField bs 4 4 := by rw [hx]
    have hfit := sum_recSize_ge hl
    have hbody : (flashBytes bs 0 x.stop ++ (l.map recBytes).flatten).drop 0x40 =
        (bs.drop 0x40).take (x.recs.map recSize).sum ++ (l.map recBytes).flatten := by
      rw [List.drop_append_of_le_length (by rw [flashBytes_length]; omega), hstop, flashBytes_drop]
      congr 1
      rcases Nat.eq_zero_or_pos (x.recs.map recSize).sum with hz | hpos
      · rw [hz]; rfl
      · rw [← hrecs, List.length_drop] at hsum
        exact flashBytes_listed (by omega)
    have hcut : l.length ≤ bankSize / 24 - x.recs.length := by
      unfold bankFree at hroom
      rw [← hrecs] at hcount hfuel
      unfold bankSize at hroom hfuel ⊢
      omega
    have hread : (recsOf (bankSize / 24) ((flashBytes bs 0 x.stop ++ (l.map recBytes).flatten).drop 0x40)).1 = x.recs ++ l := by
      rw [hbody, hrecs, recsOf_again _ _ _ _ hfuel, ← hrecs, recsOf_recBytes _ l hl hcut]
    have hfield (off n : Nat) (hle : off + n ≤ 0x40) : flashField (flashBytes bs 0 x.stop ++ (l.map recBytes).flatten) off n = flashField bs off n := by
      rw [flashField, flashBytes_kept (by omega), flashField]
    unfold bankOf
    dsimp only
    rw [hfield 0 4 (by decide), hfield 0x38 8 (by decide), hfield 4 4 (by decide), flashBytes_kept (by omega), if_pos hc]
    exact ⟨_, rfl, hgen.symm, hread⟩
  · exact absurd h (by simp)

/-! ### A save -/

/-- What the bank in use says of an entry (R117; log entry 39). -/
def latestOf (b : Option StoreBank) (x : Nat × Nat) : List Byte :=
  ((b.bind fun b => latestRec b x.1 x.2).map (·.value)).getD (leBytes (odSize x.1 x.2) (odDefault x.1 x.2))

/-- Behind other records, those of some entries are the latest of those entries alone. -/
theorem latestRec_appended {d : Dev} {b : StoreBank} {recs : List StoreRec} {l : List (Nat × Nat)} (hb : b.recs = recs ++ l.map d.storeRec) (x : Nat × Nat) :
    latestRec b x.1 x.2 = if x ∈ l then some (d.storeRec x) else (recs.filter fun r => r.index == x.1 && r.sub == x.2).getLast? := by
  have hown (y : StoreRec) (hy : y ∈ (l.map d.storeRec).filter fun r => r.index == x.1 && r.sub == x.2) : x ∈ l ∧ y = d.storeRec x := by
    obtain ⟨hy, hp⟩ := List.mem_filter.mp hy
    obtain ⟨z, hz, rfl⟩ := List.mem_map.mp hy
    simp only [Dev.storeRec, Bool.and_eq_true, beq_iff_eq] at hp
    have hzx : z = x := Prod.ext hp.1 hp.2
    exact ⟨hzx ▸ hz, by rw [hzx]⟩
  unfold latestRec
  rw [hb, List.filter_append, List.getLast?_append]
  split
  · next hx =>
    have hmem : d.storeRec x ∈ (l.map d.storeRec).filter fun r => r.index == x.1 && r.sub == x.2 :=
      List.mem_filter.mpr ⟨List.mem_map.mpr ⟨x, hx, rfl⟩, by simp [Dev.storeRec]⟩
    cases hlast : ((l.map d.storeRec).filter fun r => r.index == x.1 && r.sub == x.2).getLast? with
    | none => rw [List.getLast?_eq_none_iff.mp hlast] at hmem; exact absurd hmem List.not_mem_nil
    | some y => rw [(hown y (List.mem_of_getLast? hlast)).2]; rfl
  · next hx =>
    rw [List.filter_eq_nil_iff.mpr fun y hy hp => hx (hown y (List.mem_filter.mpr ⟨hy, hp⟩)).1]
    rfl

/-- The bank in use is one of the two, and the other one is not newer. -/
theorem bankInUse_some {f : Flash} {k : Bool} {b : StoreBank} (h : bankInUse f = some (k, b)) :
    bankOf (if k then f.bank1 else f.bank0) = some b ∧
      (∀ y, bankOf (if k then f.bank0 else f.bank1) = some y → if k then y.generation < b.generation else y.generation ≤ b.generation) := by
  unfold bankInUse at h
  cases h0 : bankOf f.bank0 <;> cases h1 : bankOf f.bank1 <;> rw [h0, h1] at h
  · exact absurd h (by simp)
  · obtain ⟨rfl, rfl⟩ := Prod.mk.inj (Option.some.inj h)
    exact ⟨h1, fun y hy => absurd (h0.symm.trans hy) (by simp)⟩
  · obtain ⟨rfl, rfl⟩ := Prod.mk.inj (Option.some.inj h)
    exact ⟨h0, fun y hy => absurd (h1.symm.trans hy) (by simp)⟩
  · dsimp only at h
    split at h
    · next hlt =>
      obtain ⟨rfl, rfl⟩ := Prod.mk.inj (Option.some.inj h)
      refine ⟨h1, fun y hy => ?_⟩
      rw [← Option.some.inj (h0.symm.trans hy)]
      exact hlt
    · next hge =>
      obtain ⟨rfl, rfl⟩ := Prod.mk.inj (Option.some.inj h)
      refine ⟨h0, fun y hy => ?_⟩
      rw [← Option.some.inj (h1.symm.trans hy)]
      exact Nat.not_lt.mp hge

theorem bankInUse_none {f : Flash} (h : bankInUse f = none) : bankOf f.bank1 = none := by
  unfold bankInUse at h
  cases h0 : bankOf f.bank0 <;> cases h1 : bankOf f.bank1 <;> simp_all

/-- A flash of whose banks one holds `b`, and the other none that is newer, has `b` in use. -/
theorem flashBank_of {f : Flash} {k : Bool} {b : StoreBank} (hb : bankOf (if k then f.bank1 else f.bank0) = some b)
    (ho : ∀ y, bankOf (if k then f.bank0 else f.bank1) = some y → if k then y.generation < b.generation else y.generation ≤ b.generation) :
    flashBank f = some b := by
  unfold flashBank bankInUse
  cases k with
  | false =>
    have h0 : bankOf f.bank0 = some b := hb
    rw [h0]
    cases h1 : bankOf f.bank1 with
    | none => rfl
    | some y => exact congrArg (Option.map _) (congrArg some (if_neg (Nat.not_lt.mpr (ho y h1))))
  | true =>
    have h1 : bankOf f.bank1 = some b := hb
    rw [h1]
    cases h0 : bankOf f.bank0 with
    | none => rfl
    | some y => exact congrArg (Option.map _) (congrArg some (if_pos (ho y h0)))

theorem storeFits_storeRec (d : Dev) {x : Nat × Nat} (hx : x ∈ storedEntries) : storeFits (d.storeRec x) := by
  have hall : ∀ x ∈ storedEntries, x.1 < 0xFFFF ∧ x.2 < 256 ∧ 1 ≤ odSize x.1 x.2 ∧ odSize x.1 x.2 ≤ 4096 := by decide +kernel
  obtain ⟨h1, h2, h3, h4⟩ := hall x hx
  exact ⟨h1, h2, (by decide : 1 < 256), by rw [Dev.storeRec, leBytes_length]; exact h3, by rw [Dev.storeRec, leBytes_length]; exact h4⟩

/-- Compaction leaves a bank in use that holds the records. -/
theorem compacted_bank {f : Flash} (hg : ∀ b, flashBank f = some b → b.generation + 1 < 2 ^ 32) {l : List StoreRec} (hl : ∀ r ∈ l, storeFits r)
    (hn : l.length ≤ bankSize / 24) : ∃ b, flashBank (compacted f l) = some b ∧ b.recs = l := by
  unfold compacted
  dsimp only
  cases hu : bankInUse f with
  | none =>
    obtain ⟨b, hb, hgen, hrecs⟩ := bankOf_header (g := 1) (by decide) (l.map recBytes).flatten
    refine ⟨b, flashBank_of (k := false) hb fun y hy => ?_, hrecs.trans (recsOf_recBytes _ l hl hn)⟩
    rw [if_neg (by decide)] at hy
    exact absurd ((bankInUse_none hu).symm.trans hy) (by simp)
  | some c =>
    obtain ⟨k, a⟩ := c
    have hlt := hg a (by unfold flashBank; rw [hu]; rfl)
    obtain ⟨ha, ho⟩ := bankInUse_some hu
    obtain ⟨b, hb, hgen, hrecs⟩ := bankOf_header hlt (l.map recBytes).flatten
    refine ⟨b, ?_, hrecs.trans (recsOf_recBytes _ l hl hn)⟩
    cases k with
    | false =>
      refine flashBank_of (k := true) hb fun y hy => ?_
      rw [← Option.some.inj (ha.symm.trans hy), hgen]
      exact Nat.lt_succ_self _
    | true =>
      refine flashBank_of (k := false) hb fun y hy => ?_
      rw [← Option.some.inj (ha.symm.trans hy), hgen]
      exact Nat.le_succ _

/-- Appending leaves the bank in use with the records behind its own. -/
theorem appended_bank {f : Flash} {a : StoreBank} (hu : flashBank f = some a) {l : List StoreRec} (hl : ∀ r ∈ l, storeFits r)
    (hroom : (l.map recSize).sum ≤ bankFree a) : ∃ b, flashBank (appended f l) = some b ∧ b.recs = a.recs ++ l := by
  unfold flashBank at hu
  obtain ⟨⟨k, a'⟩, hk, rfl⟩ := Option.map_eq_some_iff.mp hu
  obtain ⟨ha, ho⟩ := bankInUse_some hk
  obtain ⟨b, hb, hgen, hrecs⟩ := bankOf_appended ha hl hroom
  refine ⟨b, ?_, hrecs⟩
  unfold appended
  dsimp only
  rw [hk]
  cases k with
  | false =>
    refine flashBank_of (k := false) hb fun y hy => ?_
    rw [hgen]
    exact ho y hy
  | true =>
    refine flashBank_of (k := true) hb fun y hy => ?_
    rw [hgen]
    exact ho y hy

/-- A save leaves a bank in use whose latest record of every stored entry holds its value. -/
theorem savedFlash_latest (d : Dev) (hg : ∀ b, flashBank d.nv.flash = some b → b.generation + 1 < 2 ^ 32) {x : Nat × Nat} (hx : x ∈ storedEntries) :
    latestOf (flashBank d.savedFlash) x = (d.storeRec x).value := by
  have hfits (l : List (Nat × Nat)) (hl : ∀ y ∈ l, y ∈ storedEntries) : ∀ r ∈ l.map d.storeRec, storeFits r := by
    intro r hr
    obtain ⟨y, hy, rfl⟩ := List.mem_map.mp hr
    exact storeFits_storeRec d (hl y hy)
  have hlatest (b : StoreBank) (recs : List StoreRec) (l : List (Nat × Nat)) (hb : b.recs = recs ++ l.map d.storeRec) (hxl : x ∈ l) :
      latestOf (some b) x = (d.storeRec x).value := by
    unfold latestOf
    rw [Option.bind_some, latestRec_appended hb, if_pos hxl]
    rfl
  have hwhole : latestOf (flashBank (compacted d.nv.flash (storedEntries.map d.storeRec))) x = (d.storeRec x).value := by
    obtain ⟨b, hb, hrecs⟩ := compacted_bank hg (hfits _ fun _ h => h) (by rw [List.length_map]; decide +kernel)
    rw [hb]
    exact hlatest b [] _ (hrecs.trans (List.nil_append _).symm) hx
  set new := storedEntries.filter fun y => (d.storeRec y).value != latestOf (flashBank d.nv.flash) y with hnew
  have hkept (hx' : x ∉ new) : latestOf (flashBank d.nv.flash) x = (d.storeRec x).value := by
    by_contra hne
    exact hx' (List.mem_filter.mpr ⟨hx, by simpa using Ne.symm hne⟩)
  have hsaved : d.savedFlash = if (new.map d.storeRec).isEmpty then d.nv.flash else
      (flashBank d.nv.flash).elim (compacted d.nv.flash (storedEntries.map d.storeRec)) fun b =>
        if !b.torn && decide (((new.map d.storeRec).map recSize).sum ≤ bankFree b) then appended d.nv.flash (new.map d.storeRec)
        else compacted d.nv.flash (storedEntries.map d.storeRec) := by
    unfold Dev.savedFlash
    dsimp only
    generalize hl : storedEntries.filter _ = new'
    have hsame : new' = new := by
      rw [← hl, hnew]
      refine List.filter_congr fun y _ => congrArg ((d.storeRec y).value != ·) ?_
      unfold latestOf
      cases (flashBank d.nv.flash).bind fun b => latestRec b y.1 y.2 <;> rfl
    rw [hsame]
    cases flashBank d.nv.flash <;> rfl
  rw [hsaved]
  split
  · next he => exact hkept (by rw [List.isEmpty_iff, List.map_eq_nil_iff] at he; rw [he]; exact List.not_mem_nil)
  · cases hf : flashBank d.nv.flash with
    | none => exact hwhole
    | some a =>
      rw [Option.elim_some]
      split
      · next hroom =>
        simp only [Bool.and_eq_true, decide_eq_true_eq] at hroom
        obtain ⟨b, hb, hrecs⟩ := appended_bank hf (hfits new fun y hy => (List.mem_filter.mp hy).1) hroom.2
        rw [hb]
        by_cases hxn : x ∈ new
        · exact hlatest b _ _ hrecs hxn
        · rw [← hkept hxn, hf]
          unfold latestOf
          rw [Option.bind_some, Option.bind_some, latestRec_appended hrecs, if_neg hxn]
          rfl
      · exact hwhole

theorem flashBank_saveAll (d : Dev) : flashBank d.saveAll.nv.flash = flashBank d.savedFlash := by
  unfold Dev.saveAll
  generalize d.savedFlash = f
  unfold flashBank bankInUse
  rfl

/-- Settles O14: a row for each entry, and the store as a save leaves it. -/
theorem systemEntries : Obligations.SystemEntries := by
  unfold Obligations.SystemEntries
  refine ⟨fun r s h => saveAll_gives h, fun r s h => restoreAll_gives h, fun r v s h => journalSelect_gives h, fun r s h => activate_gives h,
    fun r v s h => fuseSvnRaise_gives h, fun r s h hb hm => bootRestart_gives h hb hm, fun r v s h => violSelect_gives h, fun r v s h => logSelect_gives h,
    fun r n v s h => bayLogSelect_gives h, fun d x hx hg => ?_⟩
  show _ = (d.storeRec x).value
  have hsave := savedFlash_latest d hg hx
  rw [flashBank_saveAll]
  unfold latestOf at hsave
  generalize (flashBank d.savedFlash).bind (fun b => latestRec b x.1 x.2) = o at hsave ⊢
  cases o <;> exact hsave

end Sys2Proof.Machine
end

section
/-! SUPPORT. Sense lines and AVSBus (R636 to R638): an open line, its clear, and a set-point that is not acknowledged. -/
namespace Sys2Proof.Machine

/-- A command from rest that detects one retried fault, and writes no memory, answers what the fault comes to. -/
theorem State.go_retried (s : State) (g : Env → Dev → Dev) (d : Dev) (bay : Nat) (f : Flt) (hs : s.rests = true)
    (h : g s.env s.dev = d.fault .retried bay f) (hq : d.quiet = true) (hst : d.stores = []) :
    s.go g = .next { s with dev := d.oneFault s.env .retried bay f } := by
  rw [s.go_fault g d .retried bay f hs h hq ((Dev.quiet_of_unlogged (Dev.retried_unlogged _ _ _ _)).trans hq),
    s.commit_quiet _ ((Dev.stores_of_unlogged (Dev.retried_unlogged _ _ _ _)).trans hst)]

theorem Dev.loops_of_unlogged {d d' : Dev} (h : d'.unlogged = d.unlogged) : d'.loops = d.loops := (congrArg Dev.loops h :)

theorem Dev.out_of_unlogged {d d' : Dev} (h : d'.unlogged = d.unlogged) : d'.out = d.out := (congrArg Dev.out h :)

theorem Dev.retried_loops (d : Dev) (e : Env) (bay : Nat) (f : Flt) : (d.oneFault e .retried bay f).loops = d.loops :=
  Dev.loops_of_unlogged (Dev.retried_unlogged d e bay f)

theorem Dev.retried_out (d : Dev) (e : Env) (bay : Nat) (f : Flt) : (d.oneFault e .retried bay f).out = d.out :=
  Dev.out_of_unlogged (Dev.retried_unlogged d e bay f)

/-! ### An open sense line -/

theorem Dev.setDomains_fault (d : Dev) (cls : FaultClass) (bay : Nat) (f : Flt) : (d.fault cls bay f).setDomains = d.setDomains.fault cls bay f :=
  List.foldl_hom (fun d : Dev => d.fault cls bay f) (l := List.range 23) (init := d) fun _ _ => rfl

/-- The device that has found a rail's sense pair open: its loop stands, and VDD_CORE takes the safe setting. -/
def Dev.senseOpened (d : Dev) (time : Nat) (rail : Fin 3) (kind : Fin 4) : Dev :=
  let d := ({ d with loops := { d.loops with
    sense := smSet 0 d.loops.sense rail kind
    frozen := smSet none d.loops.frozen rail (some time) } } : Dev).count 0x2B00 9 1
  if rail.val = 0 then (d.commandCore 850).setDomains else d

theorem Dev.senseOpened_keeps {β : Type} (g : Dev → β) (hl : ∀ (d : Dev) l, g { d with loops := l } = g d) (hc : ∀ d mv, g (d.commandCore mv) = g d)
    (hn : ∀ d : Dev, g (d.count 0x2B00 9 1) = g d) (d : Dev) (time : Nat) (rail : Fin 3) (kind : Fin 4) : g (d.senseOpened time rail kind) = g d := by
  have hd (d : Dev) (k : Nat) (x : Domain) : g (d.setDomain k x) = g d := hl d _
  unfold Dev.senseOpened
  dsimp only
  split
  · rw [Dev.setDomains_keeps g hd, hc, hn, hl]
  · rw [hn, hl]

theorem exec_senseOpenDetect {s : State} (hs : s.rests = true) {rail : Fin 3} {kind : Fin 4} (hk : kind.val ≠ 0) (hm : s.dev.board.mainPg = true)
    (ho : smGet 0 s.dev.loops.sense rail = 0) : exec (.senseOpenDetect rail kind) s = .next { s with
      dev := (s.dev.senseOpened s.time rail kind).oneFault s.env .retried 0xFF { status := .fault, source := 0xD, island := 348, object := rail, cause := kind } } := by
  show execSenseOpenDetect rail kind s = _
  refine s.go_retried _ _ _ _ hs ?_ ?_ ?_
  · dsimp only
    rw [if_neg (by simp [hk, Dev.railsOn, hm, ho])]
    unfold Dev.senseOpened
    dsimp only
    split
    · rw [← Dev.setDomains_fault]
      rfl
    · rfl
  · rw [Dev.senseOpened_keeps Dev.quiet (fun _ _ => rfl) (fun _ _ => rfl) (fun d => d.quiet_count _ _ _), State.rests_quiet hs]
  · rw [Dev.senseOpened_keeps Dev.stores (fun _ _ => rfl) (fun _ _ => rfl) (fun d => d.count_stores _ _ _), State.rests_stores hs]

theorem Dev.senseOpened_loops (d : Dev) (time : Nat) (rail : Fin 3) (kind : Fin 4) :
    smGet 0 (d.senseOpened time rail kind).loops.sense rail = kind.val ∧ smGet none (d.senseOpened time rail kind).loops.frozen rail = some time ∧
      (d.senseOpened time rail kind).loops.coreMv = if rail.val = 0 then 850 else d.loops.coreMv := by
  have hloops (d : Dev) : (d.count 0x2B00 9 1).loops = d.loops := Dev.count_keeps Dev.loops (fun _ _ _ _ => rfl) (fun _ _ => rfl) d _ _ _
  unfold Dev.senseOpened
  dsimp only
  split
  · rw [Dev.setDomains_keeps (·.loops.sense) fun _ _ _ => rfl, Dev.setDomains_keeps (·.loops.frozen) fun _ _ _ => rfl,
      Dev.setDomains_keeps (·.loops.coreMv) fun _ _ _ => rfl]
    refine ⟨?_, ?_, rfl⟩
    · show smGet 0 (Dev.count _ 0x2B00 9 1).loops.sense rail = _
      rw [hloops]
      exact smGet_set_same 0 d.loops.sense rail kind.val
    · show smGet none (Dev.count _ 0x2B00 9 1).loops.frozen rail = _
      rw [hloops]
      exact smGet_set_same none d.loops.frozen rail (some time)
  · rw [hloops]
    exact ⟨smGet_set_same 0 d.loops.sense rail kind.val, smGet_set_same none d.loops.frozen rail (some time), rfl⟩

theorem senseOpenDetect_leaves {s : State} (hs : s.rests = true) {rail : Fin 3} {kind : Fin 4} (hk : kind.val ≠ 0) (hm : s.dev.board.mainPg = true)
    (ho : smGet 0 s.dev.loops.sense rail = 0) (hn : s.dev.od 0x2B00 9 + 1 < 2 ^ 32) :
    ∃ t, exec (.senseOpenDetect rail kind) s = .next t ∧ smGet 0 t.dev.loops.sense rail = kind.val ∧ smGet none t.dev.loops.frozen rail = some s.time ∧
      t.dev.od 0x2B00 9 = s.dev.od 0x2B00 9 + 1 ∧ t.dev.loops.coreMv = (if rail.val = 0 then 850 else s.dev.loops.coreMv) ∧
      t.dev.flogSeq = s.dev.flogSeq + 1 ∧ t.mem = s.mem := by
  obtain ⟨hsense, hfrozen, hcore⟩ := s.dev.senseOpened_loops s.time rail kind
  have hod : (s.dev.senseOpened s.time rail kind).od 0x2B00 9 = s.dev.od 0x2B00 9 + 1 := by
    have hcount (d : Dev) (h : d.od 0x2B00 9 + 1 < 2 ^ 32) : (d.count 0x2B00 9 1).od 0x2B00 9 = d.od 0x2B00 9 + 1 := d.count_od_32 (by decide +kernel) h
    unfold Dev.senseOpened
    dsimp only
    split
    · rw [Dev.setDomains_keeps (·.od 0x2B00 9) fun _ _ _ => rfl]
      exact hcount { s.dev with loops := _ } hn
    · exact hcount { s.dev with loops := _ } hn
  have hseq : (s.dev.senseOpened s.time rail kind).flogSeq = s.dev.flogSeq :=
    Dev.senseOpened_keeps Dev.flogSeq (fun _ _ => rfl) (fun _ _ => rfl) (fun d => d.count_flogSeq _ _ _) _ _ _ _
  refine ⟨_, exec_senseOpenDetect hs hk hm ho, ?_, ?_, ?_, ?_, ?_, rfl⟩
  · rw [Dev.retried_loops]; exact hsense
  · rw [Dev.retried_loops]; exact hfrozen
  · rw [Dev.retried_od _ _ _ _ (by decide) (by unfold logEntry; omega)]; exact hod
  · rw [Dev.retried_loops]; exact hcore
  · rw [Dev.retried_flogSeq, hseq]

/-! ### A set-point that is not acknowledged -/

/-- The device whose core rail stands at its last value: its command has gone out three times more. -/
def Dev.avsStuck (d : Dev) (mv : Nat) : Dev :=
  let d := (((d.send (.avs mv)).send (.avs mv)).send (.avs mv)).count 0x2B00 7 1
  ({ d with loops := { d.loops with stuck := some d.loops.prevMv } } : Dev).setDomains

theorem Dev.avsStuck_keeps {β : Type} (g : Dev → β) (hl : ∀ (d : Dev) l, g { d with loops := l } = g d) (hc : ∀ d mv, g (d.send (.avs mv)) = g d)
    (hn : ∀ d : Dev, g (d.count 0x2B00 7 1) = g d) (d : Dev) (mv : Nat) : g (d.avsStuck mv) = g d := by
  have hd (d : Dev) (k : Nat) (x : Domain) : g (d.setDomain k x) = g d := hl d _
  unfold Dev.avsStuck
  dsimp only
  rw [Dev.setDomains_keeps g hd, hl, hn, hc, hc, hc]

theorem exec_avsNack {s : State} (hs : s.rests = true) {mv : Nat} (hmv : mv = s.dev.loops.coreMv) (hst : s.dev.loops.stuck = none)
    (hp : s.dev.loops.prevMv ≠ mv) : exec (.avsNack mv) s = .next { s with
      dev := (s.dev.avsStuck mv).oneFault s.env .retried 0xFF { status := .fault, source := 0xD, island := 348, object := 0 } } := by
  show execAvsNack mv s = _
  refine s.go_retried _ _ _ _ hs ?_ ?_ ?_
  · dsimp only
    rw [if_neg (by simp [hmv.symm, hst, hp])]
    rfl
  · rw [Dev.avsStuck_keeps Dev.quiet (fun _ _ => rfl) (fun _ _ => rfl) (fun d => d.quiet_count _ _ _), State.rests_quiet hs]
  · rw [Dev.avsStuck_keeps Dev.stores (fun _ _ => rfl) (fun _ _ => rfl) (fun d => d.count_stores _ _ _), State.rests_stores hs]

theorem avsNack_leaves {s : State} (hs : s.rests = true) {mv : Nat} (hmv : mv = s.dev.loops.coreMv) (hst : s.dev.loops.stuck = none)
    (hp : s.dev.loops.prevMv ≠ mv) (hn : s.dev.od 0x2B00 7 + 1 < 2 ^ 32) :
    ∃ t, exec (.avsNack mv) s = .next t ∧ t.dev.railMv = s.dev.loops.prevMv ∧ t.dev.loops.coreMv = mv ∧
      t.dev.od 0x2B00 7 = s.dev.od 0x2B00 7 + 1 ∧ t.dev.out = s.dev.out ++ [.avs mv, .avs mv, .avs mv] ∧ t.mem = s.mem := by
  have hloops (d : Dev) : (d.count 0x2B00 7 1).loops = d.loops := Dev.count_keeps Dev.loops (fun _ _ _ _ => rfl) (fun _ _ => rfl) d _ _ _
  have hstuck : (s.dev.avsStuck mv).loops.stuck = some s.dev.loops.prevMv := by
    unfold Dev.avsStuck
    dsimp only
    rw [Dev.setDomains_keeps (·.loops.stuck) fun _ _ _ => rfl, hloops]
    rfl
  have hcore : (s.dev.avsStuck mv).loops.coreMv = mv := by
    unfold Dev.avsStuck
    dsimp only
    rw [Dev.setDomains_keeps (·.loops.coreMv) fun _ _ _ => rfl, hloops]
    exact hmv.symm
  have hod : (s.dev.avsStuck mv).od 0x2B00 7 = s.dev.od 0x2B00 7 + 1 := by
    unfold Dev.avsStuck
    dsimp only
    rw [Dev.setDomains_keeps (·.od 0x2B00 7) fun _ _ _ => rfl]
    exact Dev.count_od_32 (((s.dev.send (.avs mv)).send (.avs mv)).send (.avs mv)) (by decide +kernel) hn
  have hout : (s.dev.avsStuck mv).out = s.dev.out ++ [.avs mv, .avs mv, .avs mv] := by
    unfold Dev.avsStuck
    dsimp only
    rw [Dev.setDomains_keeps Dev.out fun _ _ _ => rfl]
    show (Dev.count _ 0x2B00 7 1).out = _
    rw [Dev.count_out]
    simp [Dev.send]
  refine ⟨_, exec_avsNack hs hmv hst hp, ?_, ?_, ?_, ?_, rfl⟩
  · unfold Dev.railMv
    rw [Dev.retried_loops, hstuck]
    rfl
  · rw [Dev.retried_loops]; exact hcore
  · rw [Dev.retried_od _ _ _ _ (by decide) (by unfold logEntry; omega)]; exact hod
  · rw [Dev.retried_out]; exact hout

/-! ### sense_clear -/

/-- A domain asks for what it has. -/
def Dev.asksItsOwn (d : Dev) (i : Nat) : Dev := d.setDomain i { d.domain i with request := (d.domain i).mv }

theorem Dev.foldl_asksItsOwn_withWins (l : List Nat) (d : Dev) (w : SMap Win) :
    l.foldl Dev.asksItsOwn (d.withWins w) = (l.foldl Dev.asksItsOwn d).withWins w := by
  induction l generalizing d with
  | nil => rfl
  | cons i l ih => exact ih (d.asksItsOwn i)

theorem Dev.foldl_asksItsOwn_keeps {β : Type} (g : Dev → β) (hd : ∀ (d : Dev) k x, g (d.setDomain k x) = g d) (l : List Nat) (d : Dev) :
    g (l.foldl Dev.asksItsOwn d) = g d := Dev.foldl_keeps g (fun d k => hd d k _) l d

/-- A rail's sense pair is whole again, and its loop no longer frozen. -/
def Dev.railIntact (d : Dev) (k : Nat) : Dev :=
  { d with loops := { d.loops with sense := smSet 0 d.loops.sense k 0, frozen := smSet none d.loops.frozen k none } }

/-- One rail's loop resumes. -/
def Dev.senseResumed (d : Dev) (k : Nat) : Dev :=
  if k = 0 then (List.range 23).foldl Dev.asksItsOwn (d.railIntact k) else d.railIntact k

theorem Dev.senseClear_eq (d : Dev) (v : Nat) : d.senseClear v = (List.range 3).foldl (fun d k => if !bit v k then d else d.senseResumed k) d := by
  unfold Dev.senseClear Dev.senseResumed Dev.railIntact
  rfl

theorem Dev.senseClear_one (d : Dev) (v : Nat) {k : Fin 3} (hv : v = 2 ^ k.val) : d.senseClear v = d.senseResumed k := by
  subst hv
  rw [Dev.senseClear_eq, show List.range 3 = [0, 1, 2] from rfl, List.foldl_cons, List.foldl_cons, List.foldl_cons, List.foldl_nil]
  fin_cases k
  · rw [if_neg (by decide : ¬ (!bit (2 ^ 0) 0) = true), if_pos (by decide : (!bit (2 ^ 0) 1) = true), if_pos (by decide : (!bit (2 ^ 0) 2) = true)]
  · rw [if_neg (by decide : ¬ (!bit (2 ^ 1) 1) = true), if_pos (by decide : (!bit (2 ^ 1) 0) = true), if_pos (by decide : (!bit (2 ^ 1) 2) = true)]
  · rw [if_neg (by decide : ¬ (!bit (2 ^ 2) 2) = true), if_pos (by decide : (!bit (2 ^ 2) 1) = true), if_pos (by decide : (!bit (2 ^ 2) 0) = true)]

theorem Dev.senseResumed_keeps {β : Type} (g : Dev → β) (hl : ∀ (d : Dev) l, g { d with loops := l } = g d) (d : Dev) (k : Nat) : g (d.senseResumed k) = g d := by
  unfold Dev.senseResumed
  split
  · rw [Dev.foldl_asksItsOwn_keeps g fun d _ _ => hl d _]
    exact hl d _
  · exact hl d _

theorem Dev.senseResumed_withWins (d : Dev) (w : SMap Win) (k : Nat) : (d.withWins w).senseResumed k = (d.senseResumed k).withWins w := by
  unfold Dev.senseResumed
  rw [show (d.withWins w).railIntact k = (d.railIntact k).withWins w from rfl, Dev.foldl_asksItsOwn_withWins]
  split <;> rfl

theorem Dev.senseResumed_loops (d : Dev) (k : Nat) : (d.senseResumed k).loops.sense = smSet 0 d.loops.sense k 0 ∧
    (d.senseResumed k).loops.frozen = smSet none d.loops.frozen k none := by
  unfold Dev.senseResumed
  split
  · rw [Dev.foldl_asksItsOwn_keeps (·.loops.sense) fun _ _ _ => rfl, Dev.foldl_asksItsOwn_keeps (·.loops.frozen) fun _ _ _ => rfl]
    exact ⟨rfl, rfl⟩
  · exact ⟨rfl, rfl⟩

theorem Dev.senseResumed_domain (d : Dev) {j : Nat} (hj : j < 23) : ((d.senseResumed 0).domain j).request = (d.domain j).mv := by
  have h := Dev.foldl_each Dev.domain Dev.setDomain (fun _ => ()) Dev.domain_setDomain (fun _ _ _ => rfl)
    (fun _ _ x => { x with request := x.mv }) (List.range 23) List.nodup_range (d.railIntact 0) j
  rw [if_pos (List.mem_range.mpr hj)] at h
  exact congrArg Domain.request h

theorem senseClear_leaves {r : Route} {k : Fin 3} {v : Byte} {intact : List (Fin 3)} {s : State} (hv : v.toNat = 2 ^ k.val)
    (h : s.acceptsIf r 0x2B00 0xA [v] intact = true) :
    ∃ w o p l, exec (.senseClear r v intact) s =
      .next { s with dev := ((s.dev.senseResumed k).journalChange s.env r 0x2B00 0xA .ok (crc64 [v])).toldAs w o p l } := by
  obtain ⟨t, ha⟩ := State.acceptedIf_of h
  have ht := ha.entry_eq (u := ⟨0x2B00, 1, 0xA, 0xA, 1, .u 1, .wo, false, false, 0⟩) (by decide +kernel)
  subst ht
  have hs := ha.carried.rests
  have hval : leNat [v] = 2 ^ k.val := by rw [← hv]; simp [leNat]
  obtain ⟨w, hserver⟩ := ha.server
  have hbad : (s.atServer r 0x2B00 0xA [v]).senseClearBad s.env (leNat [v]) (fun k => intact.any fun i => i.val == k) = none :=
    (Dev.odJudge_none ha.judged).2.2
  have htells := ha.carried.tells
  have hfree := ha.free
  rw [hserver] at hbad htells hfree
  have happly : (s.atServer r 0x2B00 0xA [v]).odApply s.env r ⟨0x2B00, 1, 0xA, 0xA, 1, .u 1, .wo, false, false, 0⟩ 0x2B00 0xA (leNat [v]) [v]
      (fun k => intact.any fun i => i.val == k) {} = (s.dev.senseResumed k).withWins w := by
    rw [hserver, ← Dev.senseResumed_withWins]
    refine Dev.odApply_does ((if_neg (by decide)).trans (congrArg some ?_))
    rw [if_pos (Option.isNone_iff_eq_none.mpr hbad)]
    exact Dev.senseClear_one _ _ hval
  have hwrite := ha.senseWrite_eq happly (fun n hn => ?_) (by decide)
  · show ∃ w o p l, execSenseClear r v intact s = _
    unfold execSenseClear
    exact s.go_answers (fun e d => d.odWrite e r 0x2B00 0xA [v] fun q => { q with intact := some (intact.map (·.val)) }) (a := (s.dev.senseResumed k).withWins w) hs hwrite
      (by rw [Dev.quiet_withWins, Dev.senseResumed_keeps Dev.quiet fun _ _ => rfl, State.rests_quiet hs])
      (by rw [Dev.stores_withWins, Dev.senseResumed_keeps Dev.stores fun _ _ => rfl, State.rests_stores hs])
      (by
        rw [Dev.tells_withWins, Dev.tells_congr (d := s.dev) r (Dev.senseResumed_keeps Dev.board (fun _ _ => rfl) _ _)
          (Dev.senseResumed_keeps Dev.link (fun _ _ => rfl) _ _) fun n _ => Dev.senseResumed_keeps (·.od (0x2100 + n) 5) (fun _ _ => rfl) _ _]
        exact htells)
  · have hbay := Dev.journalBay_congr (d := s.dev) (x := s.dev.senseResumed k) ⟨0x2B00, 1, 0xA, 0xA, 1, .u 1, .wo, false, false, 0⟩ 0x2B00 0xA
      (Dev.senseResumed_keeps Dev.bays (fun _ _ => rfl) _ _) (Dev.senseResumed_keeps (·.od 0x2B02 1) (fun _ _ => rfl) _ _)
    have hjob := Dev.inJob_congr (d := s.dev) (x := s.dev.senseResumed k) (Dev.senseResumed_keeps Dev.journals (fun _ _ => rfl) _ _) n
    exact hjob.trans (hfree n (hbay.symm.trans hn))

theorem Dev.nextRatio_eq (d : Dev) (r : Slack) : d.nextRatio r =
    if r.slack < 4 ∨ d.ratioCap r.island < (d.island r.island).ratio then max 64 ((d.island r.island).ratio - 1)
    else if 4 ≤ r.predicted ∧ (d.island r.island).ratio < d.ratioCap r.island then min 256 ((d.island r.island).ratio + 1) else (d.island r.island).ratio := by
  unfold Dev.nextRatio
  simp

/-- Settles O58: each clause is what one report, reading or command leaves. -/
theorem loopsAndSenseLines : Obligations.LoopsAndSenseLines := by
  unfold Obligations.LoopsAndSenseLines
  refine ⟨fun r s hs ht hm hf hz hr hi => ?_, fun r s hs ht hm hf hr hi => ?_,
    fun i temp w s hs ht hm => capStep_leaves hs ht hm, fun i s hs hi => exec_droop hs hi,
    fun b a col v s hs ht hf hi => ?_, fun c temp s hs ht hm => exec_placementLoop hs ht hm,
    fun rail kind s hs hk hm ho hn => senseOpenDetect_leaves hs hk hm ho hn, fun r k v intact s hv h => ?_,
    fun mv s hs hmv hst hp hn => avsNack_leaves hs hmv hst hp hn⟩
  · dsimp only
    intro hk
    obtain ⟨hrail, hlo, hhi, hstep, hdom⟩ := s.dev.voltageStep_rail r
    refine ⟨_, exec_voltageLoopPeriod hs ht hm hf hz hr hi, rfl, ?_, fun j hj => ?_, hrail, hlo, hhi, hstep, hdom⟩
    · exact (s.dev.voltageStep_request r _).trans ((s.dev.stepRequests_one r _).trans (if_pos ⟨rfl, hk⟩))
    · exact (s.dev.voltageStep_request r j).trans ((s.dev.stepRequests_one r j).trans (if_neg fun h => hj h.1))
  · dsimp only
    rw [exec_frequencyLoopPeriod hs ht hm hf hr hi, Dev.nextRatio_eq]
  · exact exec_adcThresholdLoop hs (by omega) ht hf hi
  · obtain ⟨w, o, p, l, hex⟩ := senseClear_leaves hv h
    obtain ⟨hsense, hfrozen⟩ := s.dev.senseResumed_loops k
    refine ⟨_, hex, ?_, ?_, fun j hj => ?_, fun hk j hj => ?_, rfl⟩
    · show smGet 0 (s.dev.senseResumed k).loops.sense k = 0
      rw [hsense]
      exact smGet_set_same _ _ _ _
    · show smGet none (s.dev.senseResumed k).loops.frozen k = none
      rw [hfrozen]
      exact smGet_set_same _ _ _ _
    · show smGet 0 (s.dev.senseResumed k).loops.sense j = _
      rw [hsense]
      exact smGet_smSet_other _ _ _ _ fun he => hj (Fin.ext he)
    · show ((s.dev.senseResumed k).domain j).request = _
      rw [hk]
      exact s.dev.senseResumed_domain hj

end Sys2Proof.Machine
end

section
/-! SUPPORT. What memory reads after a command's writes, and what a command that works at homes and L2s leaves due. -/
namespace Sys2Proof.Machine

/-! ### Bytes of memory after an operation -/

theorem smGet_filter_key {α : Type} (dflt : α) (p : Nat → Bool) (m : SMap α) (k : Nat) :
    smGet dflt (m.filter fun c => p c.1) k = if p k then smGet dflt m k else dflt := by
  induction m with
  | nil => simp [smGet]
  | cons c m ih =>
    rw [List.filter_cons]
    by_cases hc : c.1 = k
    · subst hc
      by_cases hp : p c.1
      · simp [hp, smGet]
      · rw [if_neg hp, ih, if_neg hp, if_neg hp]
    · by_cases hp : p c.1
      · simp [hp, smGet, hc, ih]
      · rw [if_neg hp, ih]
        simp [smGet, hc]

/-- A range of zeros reads zero, and no other byte moves. -/
theorem MemOp.zero_byte (m : List Host.Cell) (lo hi x : Nat) :
    smGet 0 ((MemOp.zero lo hi).onMem m) x = if lo ≤ x ∧ x < hi then 0 else smGet 0 m x := by
  show smGet 0 (m.filter fun c => c.1 < lo || hi ≤ c.1) x = _
  rw [smGet_filter_key 0 fun a => decide (a < lo) || decide (hi ≤ a)]
  by_cases h : lo ≤ x ∧ x < hi
  · rw [if_pos h, if_neg (by simp only [Bool.or_eq_true, decide_eq_true_eq]; omega)]
  · rw [if_neg h, if_pos (by simp only [Bool.or_eq_true, decide_eq_true_eq]; omega)]

/-- Bytes written read back, and no other byte moves. -/
theorem MemOp.write_byte (m : List Host.Cell) (a : Nat) (bs : List Byte) (x : Nat) :
    smGet 0 ((MemOp.write a bs).onMem m) x = if a ≤ x ∧ x < a + bs.length then (bs[x - a]?).getD 0 else smGet 0 m x := by
  show smGet 0 ((bs.zipIdx a).foldl (fun m c => smSet 0 m c.2 c.1) m) x = _
  induction bs generalizing a m with
  | nil => simp
  | cons b bs ih =>
    rw [List.zipIdx_cons, List.foldl_cons, ih]
    by_cases hx : x = a
    · subst hx
      rw [if_neg (by omega), smGet_set_same, if_pos (by simp)]
      simp
    · rw [smGet_set_other _ _ _ _ _ hx, List.length_cons]
      by_cases hin : a + 1 ≤ x ∧ x < a + 1 + bs.length
      · rw [if_pos hin, if_pos (by omega), show x - a = x - (a + 1) + 1 from by omega, List.getElem?_cons_succ]
      · rw [if_neg hin, if_neg (by omega)]

/-- What a command has written is what its memory operations leave, the oldest first. -/
theorem State.byte_commit (s : State) (d : Dev) (x : Nat) : (s.commit d).byte x = smGet 0 (d.stores.foldr (fun o m => o.onMem m) s.mem) x := rfl

/-! ### What is due after work at homes and L2s -/

/-- A device of which what is due is as it was. -/
theorem Dev.QuietButTimers.congr {d x : Dev} (h : d.QuietButTimers) (hp : x.pages = d.pages) (hl : x.places = d.places) (hf : x.faults = d.faults)
    (hc : x.ckpts = d.ckpts) (hs : x.spars = d.spars) (hr : x.link.heldRecs = d.link.heldRecs) (ho : ∀ q, x.port q = d.port q)
    (hb : x.board.smbSeen = d.board.smbSeen) (hv : x.released = d.released) : x.QuietButTimers := by
  refine ⟨?_, fun q => by rw [ho]; exact h.paused q, fun q => by rw [ho]; exact h.held q⟩
  have hbare := h.bare
  unfold Dev.quiet at hbare ⊢
  simp only [Dev.bare] at hbare ⊢
  rw [hp, hl, hf, hc, hs, hr, hb, hv]
  exact hbare

theorem State.rests_timers {s : State} (hs : s.rests = true) : s.dev.QuietButTimers := Dev.quietButTimers_of_quiet _ (State.rests_quiet hs)

theorem Dev.stampPorts_stores (d : Dev) (e : Env) : (d.stampPorts e).stores = d.stores := rfl

/-- A command from rest after which timers alone are to be stamped commits its effect with the stamps. -/
theorem State.go_timed (s : State) (f : Env → Dev → Dev) (d' : Dev) (hs : s.rests = true) (h : f s.env s.dev = d') (hq : d'.QuietButTimers) :
    s.go f = .next (s.commit (d'.stampPorts s.env)) := by
  show Host.Outcome.next (s.commit ((f s.env (s.dev.leadIslands s.env)).settle s.env)) = _
  rw [Dev.leadIslands_calm _ _ (s.rests_calm hs), h, hq.settle]

/-- Devices that differ by traffic and by what homes and L2s hold. -/
structure Dev.SameButRidge (d d' : Dev) : Prop where
  bare : ({ d'.bare with ridge := {}, stores := [] } : Dev) = { d.bare with ridge := {}, stores := [] }
  paused : ∀ q, (d'.port q).paused = (d.port q).paused
  held : ∀ q, (d'.port q).held = (d.port q).held

namespace Dev.SameButRidge

theorem refl (d : Dev) : d.SameButRidge d := ⟨rfl, fun _ => rfl, fun _ => rfl⟩

theorem trans {a b c : Dev} (h : a.SameButRidge b) (h' : b.SameButRidge c) : a.SameButRidge c :=
  ⟨h'.bare.trans h.bare, fun q => (h'.paused q).trans (h.paused q), fun q => (h'.held q).trans (h.held q)⟩

theorem traffic {d d' : Dev} (h : d.SameButTraffic d') : d.SameButRidge d' :=
  ⟨congrArg (fun x : Dev => ({ x with ridge := {}, stores := [] } : Dev)) h.bare, h.paused, h.held⟩

theorem ridge (d : Dev) (r : Ridge) : d.SameButRidge (d.setRidge r) := ⟨rfl, fun _ => rfl, fun _ => rfl⟩

theorem store (d : Dev) (o : MemOp) : d.SameButRidge (d.store o) := ⟨rfl, fun _ => rfl, fun _ => rfl⟩

theorem foldl {α : Type} {f : Dev → α → Dev} (hf : ∀ (d : Dev) x, d.SameButRidge (f d x)) (l : List α) (d : Dev) : d.SameButRidge (l.foldl f d) := by
  induction l generalizing d with
  | nil => exact refl d
  | cons x l ih => exact (hf d x).trans (ih (f d x))

variable {d d' : Dev} (h : d.SameButRidge d')
include h

theorem loops : d'.loops = d.loops := (congrArg Dev.loops h.bare :)

theorem timers (hq : d.QuietButTimers) : d'.QuietButTimers := by
  refine ⟨?_, fun q => (h.paused q).trans (hq.paused q), fun q => (h.held q).trans (hq.held q)⟩
  have := congrArg Dev.quiet h.bare
  exact this.trans hq.bare

end Dev.SameButRidge

theorem Dev.ridge_setSummary (d : Dev) (e : Env) (line v : Nat) : d.SameButRidge (d.setSummary e line v) := by
  unfold Dev.setSummary
  split
  · exact .refl d
  · exact .store d _

theorem Dev.ridge_setDir (d : Dev) (line : Nat) (x : Option Dir) : d.SameButRidge (d.setDir line x) := .ridge d _

theorem Dev.ridge_setL2 (d : Dev) (c line : Nat) (x : CLine) : d.SameButRidge (d.setL2 c line x) := .ridge d _

theorem Dev.ridge_l2Drop (d : Dev) (cs : List Nat) (line : Nat) : d.SameButRidge (d.l2Drop cs line) := .foldl (fun d c => d.ridge_setL2 c line {}) cs d

theorem Dev.ridge_remoteRecall (d : Dev) (line : Nat) : d.SameButRidge (d.remoteRecall line) := by
  have hsends (l : List Nat) (o : Nat → Out) : d.SameButRidge (l.foldl (fun d c => d.send (o c)) d) := .foldl (fun d _ => .traffic (d.traffic_send _)) l d
  unfold Dev.remoteRecall
  split
  · dsimp only
    have hleft := fun l o cs => ((hsends l o).trans (Dev.ridge_l2Drop _ cs line)).trans (Dev.ridge_setDir _ line none)
    split
    · exact ((hleft _ _ _).trans (.ridge _ _)).trans (.traffic (Dev.traffic_originate _ _))
    · exact hleft _ _ _
  · exact .refl d

theorem Dev.ridge_dirEvict (d : Dev) (e : Env) (line : Nat) : d.SameButRidge (d.dirEvict e line) := by
  unfold Dev.dirEvict
  split
  · exact .refl d
  · split
    · exact d.ridge_remoteRecall line
    · exact (d.ridge_setSummary e line _).trans (Dev.ridge_setDir _ line none)

theorem Dev.ridge_flushDir (d : Dev) (e : Env) (sl : Nat) : d.SameButRidge (d.flushDir e sl) := .foldl (fun d _ => d.ridge_dirEvict e _) _ d

end Sys2Proof.Machine
end

section
/-! SUPPORT. Islands that close, start and retrain (R616 to R627). -/
namespace Sys2Proof.Machine

/-! ### Entering CLOSING -/

/-- An island as it enters `CLOSING`. -/
def Island.closed (x : Island) (time : Nat) : Island :=
  { x with st := .closing, flush := false, retraining := false, latched := false, since := time, eligible := none, closes := x.closes + 1 }

/-- What an island abandons is requests alone. -/
theorem Dev.abandonReqs_keeps (d : Dev) (i : Nat) : (d.abandonReqs i).loops = d.loops ∧ (d.abandonReqs i).stores = d.stores ∧
    (d.abandonReqs i).cores = d.cores ∧ (d.QuietButTimers → (d.abandonReqs i).QuietButTimers) :=
  ⟨rfl, rfl, rfl, fun h => h.congr rfl rfl rfl rfl rfl rfl (fun _ => rfl) rfl rfl⟩

theorem Dev.scrubStop_keeps {β : Type} (g : Dev → β) (hg : ∀ d k x, g (d.setScrub k x) = g d) (d : Dev) (e : Env) (k : Nat) : g (d.scrubStop e k) = g d := by
  unfold Dev.scrubStop
  dsimp only
  split
  · rfl
  · exact hg d k _

theorem Dev.enterClosing_island (d : Dev) (e : Env) (i j : Nat) : (d.enterClosing e i).island j = if j = i then (d.island i).closed e.time else d.island j := by
  have hset : ((d.setIsland i ((d.island i).closed e.time)).abandonReqs i).island j = if j = i then (d.island i).closed e.time else d.island j :=
    d.island_setIsland i j _
  unfold Dev.enterClosing
  dsimp only
  split
  · exact (Dev.scrubStop_keeps (·.island j) (fun _ _ _ => rfl) _ _ _).trans hset
  · exact hset

theorem Dev.QuietButTimers.setIsland {d : Dev} (h : d.QuietButTimers) (i : Nat) (x : Island) : (d.setIsland i x).QuietButTimers :=
  h.congr rfl rfl rfl rfl rfl rfl (fun _ => rfl) rfl rfl

theorem Dev.QuietButTimers.enterClosing {d : Dev} (h : d.QuietButTimers) (e : Env) (i : Nat) : (d.enterClosing e i).QuietButTimers := by
  have habandon := (Dev.abandonReqs_keeps (d.setIsland i ((d.island i).closed e.time)) i).2.2.2 (h.setIsland i _)
  unfold Dev.enterClosing
  dsimp only
  split
  · unfold Dev.scrubStop
    dsimp only
    split
    · exact habandon
    · exact habandon.congr rfl rfl rfl rfl rfl rfl (fun _ => rfl) rfl rfl
  · exact habandon

theorem Dev.enterClosing_stores (d : Dev) (e : Env) (i : Nat) : (d.enterClosing e i).stores = d.stores := by
  unfold Dev.enterClosing
  dsimp only
  split
  · exact (Dev.scrubStop_keeps Dev.stores (fun _ _ _ => rfl) _ _ _).trans rfl
  · rfl

theorem Dev.enterClosing_dir (d : Dev) (e : Env) (i l : Nat) : (d.enterClosing e i).dir l = d.dir l := by
  unfold Dev.enterClosing
  dsimp only
  split
  · exact (Dev.scrubStop_keeps (·.dir l) (fun _ _ _ => rfl) _ _ _).trans rfl
  · rfl

section
variable {s : State} (hs : s.rests = true) {i : Fin 350}
include hs

theorem State.rests_ahead : s.dev.ahead = [] := (s.rests_iff.mp hs).2.2.1

theorem exec_gateTimer {d' : Dev} (h : s.dev.gateDue s.env i = d') (hq : d'.QuietButTimers) :
    exec (.gateTimer i) s = .next (s.commit (d'.stampPorts s.env)) := by
  show execGateTimer i s = _
  unfold execGateTimer
  exact s.go_timed _ _ hs ((Dev.turnOf_rests _ _ _ _ (State.rests_ahead hs)).trans h) hq

theorem exec_flushEnd {d' : Dev} (h : s.dev.flushEnd s.env i = d') (hq : d'.QuietButTimers) :
    exec (.flushEnd i) s = .next (s.commit (d'.stampPorts s.env)) := by
  show execFlushEnd i s = _
  unfold execFlushEnd
  exact s.go_timed _ _ hs ((Dev.turnOf_rests _ _ _ _ (State.rests_ahead hs)).trans h) hq

theorem exec_islandStartEnd {d' : Dev} (h : s.dev.islandStart s.env i = d') (hq : d'.QuietButTimers) :
    exec (.islandStartEnd i) s = .next (s.commit (d'.stampPorts s.env)) := by
  show execIslandStartEnd i s = _
  unfold execIslandStartEnd
  exact s.go_timed _ _ hs ((Dev.turnOf_rests _ _ _ _ (State.rests_ahead hs)).trans h) hq

end

/-! ### Gating -/

theorem Dev.gateDue_closes (d : Dev) (e : Env) {i t0 : Nat} (he : (d.island i).eligible = some t0) (hon : d.od 0x2B00 5 = 1) (hg : d.gateable i = true)
    (ht : t0 + 1000000 ≤ e.time) (hf : (d.island i).flush = false) : d.gateDue e i = d.closeIsland e i true := by
  unfold Dev.gateDue
  rw [he]
  exact if_pos (by simp [hon, hg, ht, hf])

theorem Dev.gateable_lt {d : Dev} {i : Nat} (h : d.gateable i = true) : i < 272 := by
  unfold Dev.gateable at h
  split at h
  · omega
  · simp only [Bool.and_eq_true, decide_eq_true_eq] at h
    exact h.2.1

theorem State.island_stamped (s : State) (d : Dev) (e : Env) (i : Nat) : (s.commit (d.stampPorts e)).dev.island i = d.island i := rfl

theorem gateTimer_leaves {s : State} (hs : s.rests = true) {i : Fin 350} {t0 : Nat} (he : (s.dev.island i).eligible = some t0) (hon : s.dev.od 0x2B00 5 = 1)
    (hg : s.dev.gateable i = true) (ht : t0 + 1000000 ≤ s.time) (hf : (s.dev.island i).flush = false) :
    (i.val < 256 → ∃ t, exec (.gateTimer i) s = .next t ∧ t.mem = s.mem ∧
      t.dev.island i = ({ s.dev.island i with toOff := true, latched := false } : Island).closed s.time) ∧
    (256 ≤ i.val → s.dev.l2Lines (i - 256) = [] → ∃ t, exec (.gateTimer i) s = .next t ∧ t.mem = s.mem ∧
      t.dev.island i = { s.dev.island i with toOff := true, latched := false, flush := true }) := by
  have hdue := s.dev.gateDue_closes s.env he hon hg ht hf
  have htimers := State.rests_timers hs
  refine ⟨fun hi => ?_, fun hi hl => ?_⟩
  · have hlines : ¬ holdsLines i = true := by unfold holdsLines; simp; omega
    have hclose : s.dev.gateDue s.env i = (s.dev.setIsland i { s.dev.island i with toOff := true, latched := false }).enterClosing s.env i := by
      rw [hdue, Dev.closeIsland]
      exact if_neg hlines
    refine ⟨_, exec_gateTimer hs hclose ((htimers.setIsland _ _).enterClosing _ _), ?_, ?_⟩
    · show List.foldr _ s.mem (Dev.stampPorts _ s.env).stores = s.mem
      rw [Dev.stampPorts_stores, Dev.enterClosing_stores, Dev.setIsland_stores, State.rests_stores hs]
      rfl
    · rw [State.island_stamped, Dev.enterClosing_island, if_pos rfl, Dev.setIsland_island]
      rfl
  · have hlt := Dev.gateable_lt hg
    have hlines : holdsLines i = true := by unfold holdsLines; simp; omega
    have hclose : s.dev.gateDue s.env i = s.dev.setIsland i { s.dev.island i with toOff := true, latched := false, flush := true } := by
      rw [hdue, Dev.closeIsland]
      dsimp only
      rw [if_pos hlines, Dev.setIsland_setIsland, Dev.setIsland_island]
      unfold Dev.flushOut
      rw [if_neg (by omega), if_pos (by simp; omega)]
      rw [show ∀ x, (s.dev.setIsland i x).l2Lines (i - 256) = s.dev.l2Lines (i - 256) from fun _ => rfl, hl]
      rfl
    refine ⟨_, exec_gateTimer hs hclose (htimers.setIsland _ _), ?_, ?_⟩
    · show List.foldr _ s.mem (Dev.stampPorts _ s.env).stores = s.mem
      rw [Dev.stampPorts_stores, Dev.setIsland_stores, State.rests_stores hs]
      rfl
    · rw [State.island_stamped, Dev.setIsland_island]

end Sys2Proof.Machine
end

section
/-! SUPPORT and PROOF. Flushing, closing, starting and retraining of islands (R616 to R627): O57. -/
namespace Sys2Proof.Machine

/-! ### Flushing -/

/-- A key that no entry of a map has reads as the default. -/
theorem smGet_absent {α : Type} (dflt : α) (m : SMap α) (k : Nat) (h : k ∉ m.map (·.1)) : smGet dflt m k = dflt := by
  induction m with
  | nil => rfl
  | cons c m ih =>
    rw [List.map_cons, List.mem_cons, not_or] at h
    show (if c.1 = k then c.2 else smGet dflt m k) = dflt
    rw [if_neg (fun hk => h.1 hk.symm), ih h.2]

/-- An entry that is no proxy entry goes to its summary byte, and no other entry moves. -/
theorem Dev.dir_dirEvict (d : Dev) (e : Env) (line l : Nat) (h : ∀ x, d.dir line = some x → x.kind ≠ .p) :
    (d.dirEvict e line).dir l = if l = line then none else d.dir l := by
  unfold Dev.dirEvict
  cases hd : d.dir line with
  | none =>
    by_cases hl : l = line
    · rw [if_pos hl, hl]
      exact hd
    · rw [if_neg hl]
  | some x =>
    have hk : ¬ (x.kind == DirKind.p) = true := by simpa using h x hd
    dsimp only
    rw [if_neg hk]
    have hsum : (d.setSummary e line x.summary).ridge.dir = d.ridge.dir := by
      unfold Dev.setSummary
      split <;> rfl
    show smGet none (smSet none (d.setSummary e line x.summary).ridge.dir line none) l = _
    rw [smGet_set, hsum]
    rfl

theorem Dev.dir_foldl_dirEvict (e : Env) (cs : List (Nat × Option Dir)) (d : Dev) (h : ∀ l x, d.dir l = some x → x.kind ≠ .p) (l : Nat) :
    (cs.foldl (fun d c => d.dirEvict e c.1) d).dir l = if l ∈ cs.map (·.1) then none else d.dir l := by
  induction cs generalizing d with
  | nil => simp
  | cons c cs ih =>
    have hone := fun l => d.dir_dirEvict e c.1 l (h c.1)
    rw [List.foldl_cons, ih (d.dirEvict e c.1) (fun l x hx => by
      rw [hone] at hx
      split at hx
      · cases hx
      · exact h l x hx), hone]
    by_cases hl : l = c.1 <;> by_cases hm : l ∈ cs.map (·.1) <;> simp_all

/-- Once a slice has flushed, none of its lines has an entry. -/
theorem Dev.dir_flushDir (d : Dev) (e : Env) (sl : Nat) (h : ∀ l x, d.dir l = some x → x.kind ≠ .p) {l : Nat} (hl : lineIsl l = 272 + sl) :
    (d.flushDir e sl).dir l = none := by
  rw [Dev.flushDir, Dev.dir_foldl_dirEvict e _ d h]
  split
  · rfl
  · next hm =>
    refine smGet_absent none _ l fun hin => hm ?_
    obtain ⟨c, hc, rfl⟩ := List.mem_map.mp hin
    exact List.mem_map.mpr ⟨c, List.mem_filter.mpr ⟨hc, by simpa using hl⟩, rfl⟩

theorem flushEnd_leaves {s : State} (hs : s.rests = true) {i : Fin 350} (hst : (s.dev.island i).st = .active) (hf : (s.dev.island i).flush = true)
    (hidle : (256 ≤ i.val ∧ i.val < 272 ∧ s.dev.l2Lines (i - 256) = [] ∧ s.dev.l2Asking (i - 256) = false) ∨
      (272 ≤ i.val ∧ i.val < 288 ∧ ∀ l x, s.dev.dir l = some x → x.kind ≠ .p) ∨ (i.val = 331 ∧ s.dev.ridge.proxy = [])) :
    ∃ t, exec (.flushEnd i) s = .next t ∧ (∀ l, 272 ≤ i.val → i.val < 288 → lineIsl l = i.val → t.dev.dir l = none) ∧
      t.dev.island i = (s.dev.island i).closed s.time := by
  have htimers := State.rests_timers hs
  have hon : ¬ (!((s.dev.island i).st == .active && (s.dev.island i).flush)) = true := by simp [hst, hf]
  have hout : ¬ (272 ≤ i.val ∧ i.val < 288) → s.dev.flushEnd s.env i = s.dev.enterClosing s.env i := by
    intro hno
    unfold Dev.flushEnd
    dsimp only
    rw [if_neg hon, if_neg (by simpa using hno)]
    rcases hidle with ⟨hlo, hhi, hlines, hask⟩ | ⟨hlo, hhi, -⟩ | ⟨h331, hproxy⟩
    · have hnone : s.dev.flushOut s.env i = s.dev := by
        unfold Dev.flushOut
        rw [if_neg (by omega), if_pos (by simp [hlo, hhi]), hlines]
        rfl
      rw [hnone, if_neg (by omega), if_pos (by simp [hlines, hask])]
    · exact absurd ⟨hlo, hhi⟩ hno
    · have hnone : s.dev.flushOut s.env i = s.dev := by
        unfold Dev.flushOut
        rw [if_pos h331, hproxy]
        rfl
      rw [hnone, if_pos h331, if_pos (by simp [hproxy])]
  by_cases hslice : 272 ≤ i.val ∧ i.val < 288
  · obtain ⟨hlo, hhi⟩ := hslice
    have hdir : ∀ l x, s.dev.dir l = some x → x.kind ≠ .p := by
      rcases hidle with ⟨-, h, -⟩ | ⟨-, -, h⟩ | ⟨h, -⟩
      · omega
      · exact h
      · omega
    have hfl : s.dev.flushEnd s.env i = (s.dev.flushDir s.env (i - 272)).enterClosing s.env i := by
      unfold Dev.flushEnd
      dsimp only
      rw [if_neg hon, if_pos (by simp [hlo, hhi])]
    have hsame := s.dev.ridge_flushDir s.env (i.val - 272)
    refine ⟨_, exec_flushEnd hs hfl ((hsame.timers htimers).enterClosing _ _), fun l _ _ hl => ?_, ?_⟩
    · show (Dev.enterClosing _ s.env i).dir l = none
      rw [Dev.enterClosing_dir]
      exact s.dev.dir_flushDir s.env _ hdir (by omega)
    · show (Dev.enterClosing _ s.env i).island i = _
      rw [Dev.enterClosing_island, if_pos rfl]
      exact congrArg (fun x : Loops => (smGet {} x.islands i : Island).closed s.time) hsame.loops
  · refine ⟨_, exec_flushEnd hs (hout hslice) (htimers.enterClosing _ _), fun l hlo hhi _ => absurd ⟨hlo, hhi⟩ hslice, ?_⟩
    show (Dev.enterClosing _ s.env i).island i = _
    rw [Dev.enterClosing_island, if_pos rfl]
    rfl

/-! ### The close window -/

/-- Where no entry of a map under some keys has a property, no value under those keys has it. -/
theorem smGet_filter_absent {α : Type} (dflt : α) (p : Nat → Bool) (q : α → Bool) (m : SMap α) (k : Nat) (h0 : q dflt = false)
    (h : (m.filter fun c => p c.1 && q c.2) = []) (hk : p k = true) : q (smGet dflt m k) = false := by
  induction m with
  | nil => exact h0
  | cons c m ih =>
    rw [List.filter_eq_nil_iff] at h
    show q (if c.1 = k then c.2 else smGet dflt m k) = false
    split
    · next hc =>
      have := h c (List.mem_cons_self ..)
      rw [hc, hk, Bool.true_and] at this
      exact Bool.eq_false_iff.mpr this
    · exact ih (List.filter_eq_nil_iff.mpr fun c hc => h c (List.mem_cons_of_mem _ hc))

/-- An engine with nothing queued, suspended or running. -/
def Engine.idle (x : Engine) : Bool := x.queue.isEmpty && x.suspended.isEmpty && x.run.isNone

theorem Engine.idle_iff (x : Engine) : x.idle = true ↔ x.queue = [] ∧ x.suspended = [] ∧ x.run = none := by
  simp [Engine.idle, and_assoc]

/-- Devices alike but for which entries of idle engines are kept and for halts. -/
structure Dev.SameButHalts (d x : Dev) : Prop where
  loops : x.loops = d.loops
  timers : d.QuietButTimers → x.QuietButTimers
  engines : ∀ g, x.engine g = d.engine g
  digests : x.digests = d.digests

/-- Clearing an idle engine clears nothing. -/
theorem Dev.tidyHalts_idle (d : Dev) (g : Nat) (h : (d.engine g).idle = true) :
    d.SameButHalts (d.setEngine g { d.engine g with queue := [], suspended := [], ops := (d.engine g).ops + 0 }).tidyHalts := by
  obtain ⟨hq, hs, -⟩ := (Engine.idle_iff _).mp h
  have hx : ({ d.engine g with queue := [], suspended := [], ops := (d.engine g).ops + 0 } : Engine) = d.engine g := by
    conv_rhs => rw [show d.engine g = { d.engine g with queue := (d.engine g).queue, suspended := (d.engine g).suspended } from rfl, hq, hs]
    rfl
  refine ⟨rfl, fun hq => hq.congr rfl rfl rfl rfl rfl rfl (fun _ => rfl) rfl rfl, fun k => ?_, rfl⟩
  show smGet {} (smSet {} d.engines g _) k = _
  rw [hx, smGet_set]
  split
  · next hk => rw [hk]
  · rfl

/-- What the groups of a closing island answer when all of them are idle. -/
theorem Dev.goneEngines_idle (e : Env) (gs : List Nat) (d d0 : Dev) (h0 : d0.SameButHalts d) (h : ∀ g ∈ gs, (d0.engine g).idle = true ∧ d0.digestsOn g = []) :
    d0.SameButHalts (gs.foldl (fun d g =>
      let d := if (d.engine g).run.isSome then d.engineErr e g .gone 0 0 0 else d
      let d := (d.digestsOn g).foldl (fun d c => (d.forget (· == .job c.2.2.1 c.2.2.2)).digestErr e c.2.2.1 c.2.2.2 .gone 0 0) d
      let x := d.engine g
      let os := x.queue ++ x.suspended
      os.foldl (fun d o => d.opEnd e o.bay o.q o.p o.stage .gone 0 .own) (d.setEngine g { x with queue := [], suspended := [], ops := x.ops + os.length }).tidyHalts) d) := by
  induction gs generalizing d with
  | nil => exact h0
  | cons g gs ih =>
    obtain ⟨hidle, hdig⟩ := h g (List.mem_cons_self ..)
    have hidle' : (d.engine g).idle = true := by rw [h0.engines]; exact hidle
    have hdig' : d.digestsOn g = [] := by rw [Dev.digestsOn, h0.digests]; exact hdig
    obtain ⟨hq, hs, hr⟩ := (Engine.idle_iff _).mp hidle'
    rw [List.foldl_cons]
    have hrun : ¬ (d.engine g).run.isSome = true := by simp [hr]
    dsimp only
    rw [if_neg hrun, hdig']
    simp only [List.foldl_nil]
    have hone := d.tidyHalts_idle g hidle'
    rw [hq, hs]
    exact ih _ ⟨hone.loops.trans h0.loops, fun h => hone.timers (h0.timers h), fun k => (hone.engines k).trans (h0.engines k), hone.digests.trans h0.digests⟩
      fun g hg => h g (List.mem_cons_of_mem _ hg)

/-- Arrays of a bank that neither seat nor trim are left alone. -/
theorem Dev.goneArrs_idle (d : Dev) (e : Env) (b : Nat)
    (h : (d.arrays.filter fun c => c.1 / 32 == b && (c.2.st == .seating || c.2.pairs.any fun p => p.2.trimming)) = []) :
    (List.range 32).foldl (fun d k => d.goneArr e (32 * b + k)) d = d := by
  have hone : ∀ k < 32, d.goneArr e (32 * b + k) = d := fun k hk => by
    have hidle := smGet_filter_absent ({} : Arr) (fun a => a / 32 == b) (fun x => x.st == .seating || x.pairs.any fun p => p.2.trimming) d.arrays
      (32 * b + k) rfl h (by simp; omega)
    rw [Bool.or_eq_false_iff] at hidle
    obtain ⟨hst, htrim⟩ := hidle
    have hnone : ((d.arr (32 * b + k)).pairs.filter fun p => p.2.trimming) = [] := by
      rw [List.filter_eq_nil_iff]
      intro p hp ht
      exact List.any_eq_false.mp htrim p hp ht
    have hst : ((d.arr (32 * b + k)).st == .seating) = false := hst
    unfold Dev.goneArr
    dsimp only
    rw [if_neg (fun h => Bool.false_ne_true (hst.symm.trans h)), hnone]
    rfl
  have hall : ∀ (l : List Nat), (∀ k ∈ l, k < 32) → l.foldl (fun d k => d.goneArr e (32 * b + k)) d = d := by
    intro l hl
    induction l with
    | nil => rfl
    | cons k l ih =>
      rw [List.foldl_cons, hone k (hl k (List.mem_cons_self ..))]
      exact ih fun k hk => hl k (List.mem_cons_of_mem _ hk)
  exact hall _ fun k hk => List.mem_range.mp hk

/-- The groups of an island without load are idle and digest nothing. -/
theorem Dev.engine_idle (d : Dev) {g i : Nat} (hg : engineIsland g = i)
    (h : ((d.engines.filter fun c => engineIsland c.1 == i).map fun c => c.2.queue.length + c.2.suspended.length + b2n c.2.run.isSome).sum = 0)
    (hd : (d.digests.filter fun c => engineIsland c.1 == i) = []) : (d.engine g).idle = true ∧ d.digestsOn g = [] := by
  refine ⟨?_, ?_⟩
  · have hnone : (d.engines.filter fun c => engineIsland c.1 == i && !c.2.idle) = [] := by
      rw [List.filter_eq_nil_iff]
      intro c hc hx
      obtain ⟨hi, hbusy⟩ := Bool.and_eq_true_iff.mp hx
      have hzero := List.sum_eq_zero_iff.mp h _ (List.mem_map.mpr ⟨c, List.mem_filter.mpr ⟨hc, hi⟩, rfl⟩)
      obtain ⟨hqs, hr⟩ := Nat.add_eq_zero_iff.mp hzero
      obtain ⟨hq, hs⟩ := Nat.add_eq_zero_iff.mp hqs
      have hrun : c.2.run = none := by
        cases hc : c.2.run with
        | none => rfl
        | some x => rw [hc] at hr; cases hr
      rw [(Engine.idle_iff _).mpr ⟨List.length_eq_zero_iff.mp hq, List.length_eq_zero_iff.mp hs, hrun⟩] at hbusy
      cases hbusy
    have := smGet_filter_absent ({} : Engine) (fun g => engineIsland g == i) (fun x => !x.idle) d.engines g rfl hnone (by simpa using hg)
    exact Bool.not_eq_eq_eq_not.mp this
  · rw [Dev.digestsOn, List.filter_eq_nil_iff]
    intro c hc hx
    refine (List.filter_eq_nil_iff.mp hd) c hc ?_
    rw [show c.1 = g from by simpa using hx, hg]
    exact beq_self_eq_true i

/-- An island that owes no answer gives none. -/
theorem Dev.goneAll_idle (d : Dev) (e : Env) (i : Nat) (h : d.islandLoad i = 0) :
    (d.goneAll e i).loops = d.loops ∧ (d.QuietButTimers → (d.goneAll e i).QuietButTimers) ∧ (i < 272 → d.goneAll e i = d) := by
  have hself : d.goneAll e i = d → (d.goneAll e i).loops = d.loops ∧ (d.QuietButTimers → (d.goneAll e i).QuietButTimers) ∧ (i < 272 → d.goneAll e i = d) :=
    fun h => by rw [h]; exact ⟨rfl, id, fun _ => rfl⟩
  have hempty {α : Type} {l : List α} (h : l.length = 0) : l = [] := List.length_eq_zero_iff.mp h
  unfold Dev.islandLoad at h
  unfold Dev.goneAll at hself ⊢
  by_cases hi : i < 256
  · rw [if_pos hi] at h hself ⊢
    refine hself (if_neg fun hrun => ?_)
    rw [hrun] at h
    cases h
  rw [if_neg hi] at h hself ⊢
  by_cases hi : i < 272
  · rw [if_pos hi]; exact ⟨rfl, id, fun _ => rfl⟩
  rw [if_neg hi] at h hself ⊢
  by_cases hi : i < 288
  · rw [if_pos hi] at h ⊢
    obtain ⟨ht, hw⟩ := Nat.add_eq_zero_iff.mp h
    rw [hempty ht]
    dsimp only [List.foldl_nil]
    rw [hempty hw]
    have hsame := (Dev.SameButRidge.ridge d { d.ridge with waiting := d.ridge.waiting.filter fun c => sliceOf c.1 != i - 272 || c.2.backlog }).trans
      (Dev.ridge_flushDir _ e (i - 272))
    exact ⟨hsame.loops, hsame.timers, fun h => absurd h (by omega)⟩
  rw [if_neg hi] at h hself ⊢
  by_cases hi : i < 296
  · rw [if_pos hi]; exact ⟨rfl, id, fun _ => rfl⟩
  rw [if_neg hi] at h hself ⊢
  by_cases hi : i < 304
  · rw [if_pos hi] at h hself ⊢
    obtain ⟨hstages, harrays⟩ := Nat.add_eq_zero_iff.mp h
    rw [hempty hstages] at hself ⊢
    exact hself (d.goneArrs_idle e _ (hempty harrays))
  rw [if_neg hi] at h hself ⊢
  by_cases hi : i < 312
  · rw [if_pos hi]; exact ⟨rfl, id, fun _ => rfl⟩
  rw [if_neg hi] at h hself ⊢
  by_cases hi : i < 326
  · rw [if_pos hi] at h ⊢
    obtain ⟨hengines, hdigests⟩ := Nat.add_eq_zero_iff.mp h
    have hidle := Dev.goneEngines_idle e ((List.range 42).filter fun g => engineIsland g == i) d d ⟨rfl, id, fun _ => rfl, rfl⟩ fun g hg =>
      d.engine_idle (by simpa using (List.mem_filter.mp hg).2) hengines (hempty hdigests)
    exact ⟨hidle.loops, hidle.timers, fun h => absurd h (by omega)⟩
  rw [if_neg hi] at h hself ⊢
  by_cases hi : i = 326
  · rw [if_pos hi] at h hself ⊢
    obtain ⟨hr, ht⟩ := Nat.add_eq_zero_iff.mp h
    rw [hempty hr] at hself ⊢
    dsimp only [List.foldl_nil] at hself ⊢
    rw [hempty ht] at hself ⊢
    exact hself rfl
  rw [if_neg hi] at h hself ⊢
  by_cases hi : i = 330
  · rw [if_pos hi] at h hself ⊢
    rw [hempty h] at hself ⊢
    exact hself rfl
  rw [if_neg hi] at h hself ⊢
  by_cases hi : i = 331
  · rw [if_pos hi] at h hself ⊢
    rw [hempty h]
    have hsame := Dev.SameButRidge.ridge d { d.ridge with proxyWait := [] }
    exact ⟨hsame.loops, hsame.timers, fun h => absurd h (by omega)⟩
  rw [if_neg hi] at h hself ⊢
  by_cases hi : i < 332
  · rw [if_pos hi]; exact ⟨rfl, id, fun _ => rfl⟩
  rw [if_neg hi] at h hself ⊢
  by_cases hi : i < 344
  · rw [if_pos hi] at h hself ⊢
    rw [hempty h] at hself ⊢
    exact hself rfl
  rw [if_neg hi] at h hself ⊢
  by_cases hi : i < 348
  · rw [if_pos hi] at h hself ⊢
    obtain ⟨hg, hc⟩ := Nat.add_eq_zero_iff.mp h
    rw [hempty hg, hempty hc] at hself ⊢
    exact hself rfl
  rw [if_neg hi]
  exact ⟨rfl, id, fun _ => rfl⟩

/-- A core that a Bay holds, or an L2 one of whose cores a Bay holds. -/
def Dev.islandHeld (d : Dev) (i : Nat) : Bool :=
  i < 272 && (coreIslands ⟨if i < 256 then i else 16 * (i - 256), if i < 256 then 1 else 16⟩).contains i &&
    (if i < 256 then (d.holder (·.core) i).isSome else (List.range 16).any fun c => (d.holder (·.core) (16 * (i - 256) + c)).isSome)

/-- An island as its close window ends. -/
def Island.windowed (x : Island) (held : Bool) (time : Nat) : Island :=
  { x with st := if x.toOff && !held then .off else .starting, toOff := false, since := time }

theorem Dev.islandHeld_free (d : Dev) (i : Nat) (h : ∀ c, c < 256 → c = i ∨ 256 + c / 16 = i → d.holder (·.core) c = none) : d.islandHeld i = false := by
  unfold Dev.islandHeld
  by_cases hcore : i < 256
  · rw [if_pos hcore, if_pos hcore, if_pos hcore, h i hcore (.inl rfl)]
    exact Bool.and_false _
  · by_cases hl2 : i < 272
    · rw [if_neg hcore, if_neg hcore, if_neg hcore]
      have hnone : ((List.range 16).any fun c => (d.holder (·.core) (16 * (i - 256) + c)).isSome) = false := by
        rw [List.any_eq_false]
        intro c hc
        have hc := List.mem_range.mp hc
        rw [h _ (by omega) (.inr (by omega))]
        exact Bool.false_ne_true
      rw [hnone]
      exact Bool.and_false _
    · simp [hl2]

theorem Dev.islandHeld_core (d : Dev) {i : Nat} (hcore : i < 256) (h : (d.holder (·.core) i).isSome = true) : d.islandHeld i = true := by
  unfold Dev.islandHeld
  rw [if_pos hcore, if_pos hcore, if_pos hcore, h, Bool.and_true, Bool.and_eq_true, decide_eq_true_eq]
  exact ⟨by omega, List.contains_iff_mem.mpr (List.mem_append_left _ (List.mem_map.mpr ⟨0, List.mem_range.mpr Nat.one_pos, rfl⟩))⟩

/-- The window of an island that owes no answer ends: the island is off or starts, a core or an L2 that a Bay holds starts. -/
theorem exec_closeWindowEnd {s : State} (hs : s.rests = true) {i : Fin 350} (hst : (s.dev.island i).st = .closing) (hl : s.dev.islandLoad i = 0) :
    exec (.closeWindowEnd i) s = .next (s.commit (((s.dev.goneAll s.env i).setIsland i
      ((s.dev.island i).windowed (s.dev.islandHeld i) s.time)).stampPorts s.env)) := by
  obtain ⟨hloops, htimers, hsame⟩ := s.dev.goneAll_idle s.env i hl
  have hisl : (s.dev.goneAll s.env i).island i = s.dev.island i := congrArg (fun x : Loops => (smGet {} x.islands i : Island)) hloops
  have hheld : (s.dev.goneAll s.env i).islandHeld i = s.dev.islandHeld i := by
    by_cases hi : i.val < 272
    · rw [hsame hi]
    · simp [Dev.islandHeld, hi]
  have hon : ¬ (!((s.dev.island i).st == .closing && ((s.dev.islandLoad i = 0 : Bool) || ((s.dev.island i).since + 10000 ≤ s.env.time : Bool)))) = true := by
    simp [hst, hl]
  show execCloseWindowEnd i s = _
  unfold execCloseWindowEnd
  refine s.go_timed _ _ hs ?_ ((htimers (State.rests_timers hs)).setIsland _ _)
  dsimp only
  rw [if_neg hon, hisl, hl, ← hheld]
  generalize s.dev.goneAll s.env i = d
  generalize s.dev.island i = x
  rw [show (if (272 ≤ i.val && i.val < 288) = true then x else { x with gone := x.gone + 0 }) = x by split <;> rfl]
  rfl

theorem closeWindowEnd_leaves {s : State} (hs : s.rests = true) {i : Fin 350} (hst : (s.dev.island i).st = .closing) (hl : s.dev.islandLoad i = 0) :
    ∃ t, exec (.closeWindowEnd i) s = .next t ∧ t.dev.island i = (s.dev.island i).windowed (s.dev.islandHeld i) s.time :=
  by
  refine ⟨_, exec_closeWindowEnd hs hst hl, ?_⟩
  rw [State.island_stamped]
  exact Dev.setIsland_island _ i _

/-! ### Starting and retraining -/

/-- An island as its start ends. -/
def Island.started (x : Island) (time : Nat) (temp : Int) : Island :=
  { x with st := .active, since := time, retraining := x.latched, latched := false, timed := false, retrains := x.retrains + 1, lastRetrain := time, lastTemp := temp }

/-- Marking one island for gating touches only when it became eligible. -/
theorem Dev.markGates_leaves (d : Dev) (e : Env) (i : Nat) :
    (∃ g, (d.markGates e [i]).island i = { d.island i with eligible := g }) ∧ (d.QuietButTimers → (d.markGates e [i]).QuietButTimers) ∧
    (d.markGates e [i]).cores = d.cores ∧ (d.markGates e [i]).stores = d.stores := by
  have hself : (∃ g, d.island i = { d.island i with eligible := g }) ∧ (d.QuietButTimers → d.QuietButTimers) ∧ d.cores = d.cores ∧ d.stores = d.stores :=
    ⟨⟨_, rfl⟩, id, rfl, rfl⟩
  unfold Dev.markGates
  rw [List.foldl_cons, List.foldl_nil]
  dsimp only
  split
  · split
    · exact hself
    · exact ⟨⟨_, d.setIsland_island i _⟩, fun h => h.setIsland i _, rfl, rfl⟩
  · split
    · exact ⟨⟨_, d.setIsland_island i _⟩, fun h => h.setIsland i _, rfl, rfl⟩
    · exact hself

/-- What the start of an island leaves. -/
structure Dev.Started (d x : Dev) (e : Env) (i : Nat) (o : List MemOp) : Prop where
  island : ∃ g, x.island i = { (d.island i).started e.time (smGet 0 d.board.islandTemp i) with eligible := g }
  timers : d.QuietButTimers → x.QuietButTimers
  core : i < 256 → x.core i = {}
  stores : x.stores = o ++ d.stores

namespace Dev.Started

variable {d x : Dev} {e : Env} {i : Nat} {o : List MemOp}

theorem begun (d : Dev) (e : Env) (i : Nat) (hi : 256 ≤ i) : d.Started (d.setIsland i ((d.island i).started e.time (smGet 0 d.board.islandTemp i))) e i [] :=
  ⟨⟨_, d.setIsland_island i _⟩, fun h => h.setIsland i _, fun h => absurd h (by omega), rfl⟩

theorem zeroed (d : Dev) (e : Env) (i : Nat) (m : MemOp) :
    d.Started (((d.setIsland i ((d.island i).started e.time (smGet 0 d.board.islandTemp i))).store m).setCore i {}) e i [m] :=
  ⟨⟨_, d.setIsland_island i _⟩, fun h => h.congr rfl rfl rfl rfl rfl rfl (fun _ => rfl) rfl rfl, fun _ => smGet_set_same ({} : Core) d.cores i {}, rfl⟩

theorem marked (h : d.Started x e i o) : d.Started (x.markGates e [i]) e i o := by
  obtain ⟨⟨g, hg⟩, hq, hc, ho⟩ := x.markGates_leaves e i
  obtain ⟨g', hx⟩ := h.island
  refine ⟨⟨g, hg.trans (by rw [hx])⟩, fun h' => hq (h.timers h'), fun hi => ?_, ho.trans h.stores⟩
  exact (congrArg (fun cs => (smGet {} cs i : Core)) hc).trans (h.core hi)

end Dev.Started

theorem Dev.islandStart_starts (d : Dev) (e : Env) (i : Nat) (h : (d.island i).st = .starting) : d.Started (d.islandStart e i) e i
    (if i < 256 then [MemOp.zero (0x11000000000 + i * 0x80000) (0x11000000000 + (i + 1) * 0x80000)] else []) := by
  have hst : ¬ ((d.island i).st != .starting) = true := by simp [h]
  unfold Dev.islandStart
  dsimp only
  rw [if_neg hst]
  by_cases hcore : i < 256
  · rw [if_pos hcore, if_pos hcore]
    exact (Dev.Started.zeroed d e i _).marked
  rw [if_neg hcore, if_neg hcore]
  have hbegun := Dev.Started.begun d e i (by omega)
  split
  · exact hbegun.marked
  · split
    · exact ⟨hbegun.island, fun h => (hbegun.timers h).congr rfl rfl rfl rfl rfl rfl (fun _ => rfl) rfl rfl, hbegun.core, hbegun.stores⟩
    · exact hbegun

theorem islandStartEnd_leaves {s : State} (hs : s.rests = true) {i : Fin 350} (hst : (s.dev.island i).st = .starting) :
    ∃ t, exec (.islandStartEnd i) s = .next t ∧ (t.dev.island i).st = .active ∧ (t.dev.island i).retrains = (s.dev.island i).retrains + 1 ∧
      (t.dev.island i).retraining = (s.dev.island i).latched ∧ (t.dev.island i).latched = false ∧
      (t.dev.island i).lastRetrain = s.time ∧ (i.val < 256 → t.dev.core i = {}) ∧
      ∀ a, t.byte a = if i.val < 256 ∧ 0x11000000000 + i * 0x80000 ≤ a ∧ a < 0x11000000000 + (i + 1) * 0x80000 then 0 else s.byte a := by
  obtain ⟨⟨g, hisl⟩, htimers, hcore, hstores⟩ := s.dev.islandStart_starts s.env i hst
  refine ⟨_, exec_islandStartEnd hs rfl (htimers (State.rests_timers hs)), ?_⟩
  rw [State.island_stamped, hisl]
  refine ⟨rfl, rfl, rfl, rfl, rfl, hcore, fun a => ?_⟩
  rw [State.byte_commit, Dev.stampPorts_stores, hstores, State.rests_stores hs, List.append_nil]
  by_cases hi : i.val < 256
  · rw [if_pos hi, List.foldr_cons, List.foldr_nil, MemOp.zero_byte]
    simp only [hi, true_and]
    rfl
  · rw [if_neg hi, if_neg (fun h => hi h.1)]
    rfl

theorem Dev.retrainTrigger_active (d : Dev) {i : Nat} (h : (d.island i).st = .active) : d.retrainTrigger i = d.setIsland i (d.island i).triggered := by
  unfold Dev.retrainTrigger
  dsimp only
  rw [if_neg (by simp [h])]
  rfl

section
variable {s : State} (hs : s.rests = true) {i : Fin 350}
include hs

theorem exec_retrainPeriod (hst : (s.dev.island i).st = .active) (ht : (s.dev.island i).timed = false) (hp : (s.dev.island i).lastRetrain + 60000000000 ≤ s.time) :
    exec (.retrainPeriod i) s = .next { s with dev := s.dev.setIsland i (Island.triggered { s.dev.island i with timed := true }) } := by
  show execRetrainPeriod i s = _
  unfold execRetrainPeriod
  refine s.go_to _ _ hs ?_ (State.rests_quiet hs) (State.rests_stores hs)
  dsimp only
  rw [if_neg (by rw [ht]; simp [hst]; exact decide_eq_false (Nat.not_lt.mpr hp)), Dev.retrainTrigger_active _ (by rw [Dev.setIsland_island]; exact hst), Dev.setIsland_island, Dev.setIsland_setIsland]

theorem exec_cpmMarginAlarm (hst : (s.dev.island i).st = .active) :
    exec (.cpmMarginAlarm i) s = .next { s with dev := s.dev.setIsland i (s.dev.island i).triggered } := by
  show execCpmMarginAlarm i s = _
  unfold execCpmMarginAlarm
  exact s.go_to _ _ hs (s.dev.retrainTrigger_active hst) (State.rests_quiet hs) (State.rests_stores hs)

theorem exec_retrainTemperature (temp : Int) (hst : (s.dev.island i).st = .active) :
    exec (.retrainTemperature i temp) s = .next { s with dev :=
      if 80 < (temp - (s.dev.island i).lastTemp).natAbs
      then ({ s.dev with board := { s.dev.board with islandTemp := smSet 0 s.dev.board.islandTemp i temp } } : Dev).setIsland i (s.dev.island i).triggered
      else { s.dev with board := { s.dev.board with islandTemp := smSet 0 s.dev.board.islandTemp i temp } } } := by
  show execRetrainTemperature i temp s = _
  unfold execRetrainTemperature
  refine s.go_to _ _ hs ?_ ?_ ?_
  · dsimp only
    by_cases hd : 80 < (temp - (s.dev.island i).lastTemp).natAbs
    · rw [if_pos hd]
      exact (if_pos hd).trans (Dev.retrainTrigger_active _ hst)
    · rw [if_neg hd]
      exact if_neg hd
  · split <;> exact State.rests_quiet hs
  · split <;> exact State.rests_stores hs

theorem retrainingEnd_leaves (temp : Int) (hst : (s.dev.island i).st = .active) (hr : (s.dev.island i).retraining = true) :
    ∃ t, exec (.retrainingEnd i temp) s = .next t ∧ t.mem = s.mem ∧ (∀ k, k ≠ i.val → t.dev.island k = s.dev.island k) ∧
      t.dev.island i = { s.dev.island i with
        retraining := (s.dev.island i).latched
        latched := false
        timed := false
        retrains := (s.dev.island i).retrains + 1
        lastRetrain := s.time
        lastTemp := temp } := by
  have hexec : exec (.retrainingEnd i temp) s = .next { s with dev :=
      ({ s.dev with board := { s.dev.board with islandTemp := smSet 0 s.dev.board.islandTemp i temp } } : Dev).setIsland i { s.dev.island i with
        retraining := (s.dev.island i).latched
        latched := false
        timed := false
        retrains := (s.dev.island i).retrains + 1
        lastRetrain := s.time
        lastTemp := temp } } := by
    show execRetrainingEnd i temp s = _
    unfold execRetrainingEnd
    refine s.go_to _ _ hs ?_ (State.rests_quiet hs) (State.rests_stores hs)
    dsimp only
    rw [if_neg (by simp [hst, hr])]
    rfl
  refine ⟨_, hexec, rfl, fun k hk => ?_, Dev.setIsland_island _ i _⟩
  rw [Dev.island_setIsland, if_neg hk]
  rfl

end

/-! ### O57 -/

/-- Settles O57: an island enters `CLOSING` when its gate timer or its flush says so, leaves its window as what it owes and who holds it say, and starts
or retrains with its record. -/
theorem islandsAndRetraining : Obligations.IslandsAndRetraining := by
  refine ⟨fun i t0 s hs he hon hg ht hf => ?_, fun i s hs hst hf hidle => flushEnd_leaves hs hst hf hidle,
    fun i s hs hst hl hfree => ?_, fun i s hs hst hcore hl hheld => ?_, fun i s hs hst => islandStartEnd_leaves hs hst,
    fun i s hs hst ht hp => exec_retrainPeriod hs hst ht hp, fun i s hs hst => exec_cpmMarginAlarm hs hst,
    fun i temp s hs hst => exec_retrainTemperature hs temp hst, fun i temp s hs hst hr => retrainingEnd_leaves hs temp hst hr⟩
  · obtain ⟨hcore, hl2⟩ := gateTimer_leaves hs he hon hg ht hf
    refine ⟨fun hi => ?_, hl2⟩
    obtain ⟨t, ht, hmem, hisl⟩ := hcore hi
    refine ⟨t, ht, hmem, hisl.trans ?_⟩
    simp only [Island.closed, hf]
  · obtain ⟨t, ht, hi⟩ := closeWindowEnd_leaves hs hst hl
    rw [s.dev.islandHeld_free i hfree] at hi
    refine ⟨t, ht, hi.trans ?_⟩
    simp [Island.windowed]
  · obtain ⟨t, ht, hi⟩ := closeWindowEnd_leaves hs hst hl
    rw [s.dev.islandHeld_core hcore hheld] at hi
    refine ⟨t, ht, ?_⟩
    rw [hi]
    simp [Island.windowed]

end Sys2Proof.Machine
end

section
/-! PROOF. Entries of a Bay that take a value (R140, R147, R200, R282, R498, R540, R593): O17. -/
namespace Sys2Proof.Machine

/-- From rest, what a command does to the device that rests is what counts. -/
theorem State.go_congr {s : State} {f g : Env → Dev → Dev} (hc : s.env.calm = true) (h : f s.env s.dev = g s.env s.dev) : s.go f = s.go g := by
  show Host.Outcome.next (s.commit ((f s.env (s.dev.leadIslands s.env)).settle s.env)) = Host.Outcome.next (s.commit ((g s.env (s.dev.leadIslands s.env)).settle s.env))
  rw [Dev.leadIslands_calm _ _ hc, h]

/-! ### Accepted writes with an effect of their own -/

section
variable {c : Instr} {s : State} {r : Route} {idx sub size v : Nat} {u : Ent}

/-- What an accepted write says of the device: it rests, and the entry's own rules let the value through. -/
theorem State.accepts_judged (h : s.accepts r idx sub (leBytes size v) = true) (hu : entryOf idx sub = some u) (hv : v < 256 ^ size) :
    s.rests = true ∧ ∃ w, (s.dev.withWins w).valueOk u idx sub v = true ∧ (s.dev.withWins w).stateOk u idx sub v = true ∧
      (s.dev.withWins w).entryBad s.env u idx sub v (fun _ => false) {} = none := by
  obtain ⟨t, ha⟩ := State.accepted_of h
  have ht := ha.entry_eq hu
  subst ht
  obtain ⟨w, hserver⟩ := ha.server
  have hj := ha.judged
  rw [hserver, leNat_leBytes _ _ hv] at hj
  exact ⟨ha.carried.rests, w, Dev.odJudge_none hj⟩

/-- An accepted write, by a row that serves it at once, with an effect of its own, which leaves the Bays and the link alone. -/
theorem write_acts (hc : exec c s = s.go fun e d => d.odWrite e r idx sub (leBytes size v) id) (h : s.accepts r idx sub (leBytes size v) = true)
    (hu : entryOf idx sub = some u) (hp : plainPlace idx sub) (hb : u.base = 0x2100 → sub ≠ 2) (hv : v < 256 ^ size) {x : Dev}
    (hx : ∀ w, (if bayFamilies.contains u.base then (s.dev.withWins w).ownApply s.env r u.base (idx - u.base) sub v (leBytes size v)
      else (s.dev.withWins w).sysApply s.env r idx sub v (fun _ => false) {}) = some (x.withWins w))
    (hq : x.quiet = true) (hst : x.stores = []) (hl : s.dev.TellsLike x) : Gives c s x := by
  obtain ⟨t, ha⟩ := State.accepted_of h
  have ht := ha.entry_eq hu
  subst ht
  obtain ⟨h1, h2, h3, h4⟩ := hp
  refine gives_of hc (ha.gives h2 (fun w => ?_) hq hst hl (fun hi => absurd hi h1) hb h3 h4) rfl
  rw [leNat_leBytes _ _ hv]
  exact Dev.odApply_does (hx w)

theorem odRow_go (s : State) (r : Route) (idx sub size v : Nat) :
    s.odRow r idx sub size v = s.go fun e d => d.odWrite e r idx sub (leBytes size v) id := rfl

end

section
variable {r : Route} {s : State}

/-! ### The places of the entries -/

theorem entryOf_shareGrant : ∀ (n : Fin 16) (k : Fin 8), entryOf (0x2100 + n) (0x20 + k) = some ⟨0x2100, 16, 0x20, 0x27, 1, .u 8, .rw, true, false, 0⟩ := by
  decide +kernel

theorem entryOf_shareAccept : ∀ (n : Fin 16) (k : Fin 8), entryOf (0x2100 + n) (0x28 + k) = some ⟨0x2100, 16, 0x28, 0x2F, 1, .u 8, .rw, true, false, 0⟩ := by
  decide +kernel

theorem entryOf_hdmMap : ∀ k : Fin 16, entryOf 0x2201 (k + 1) = some ⟨0x2201, 1, 1, 0x10, 1, .u 4, .rwIdle, false, false, 0⟩ := by decide +kernel

theorem entryOf_skyMap : ∀ (n : Fin 16) (w : Fin 8), entryOf (0x2990 + n) (w + 2) = some ⟨0x2990, 16, 2, 9, 1, .u 8, .rwIdle, false, false, 0⟩ := by
  decide +kernel

theorem entryOf_sinkRead : ∀ n : Fin 16, entryOf (0x2C10 + n) 4 = some ⟨0x2C10, 16, 4, 4, 1, .u 8, .rw, true, false, 0⟩ := by decide +kernel

theorem entryOf_sinkCtl : ∀ n : Fin 16, entryOf (0x2C10 + n) 2 = some ⟨0x2C10, 16, 2, 2, 1, .u 4, .rw, true, false, 0⟩ := by decide +kernel

theorem entryOf_regCtl : ∀ n : Fin 16, entryOf (0x2A60 + n) 3 = some ⟨0x2A60, 16, 3, 3, 1, .u 8, .rw, true, false, 0⟩ := by decide +kernel

theorem entryOf_calRequest : ∀ n : Fin 16, entryOf (0x2710 + n) 0x12 = some ⟨0x2710, 16, 0x12, 0x12, 1, .u 1, .wo, true, false, 0⟩ := by decide +kernel

theorem entryOf_sparCtl : ∀ n : Fin 16, entryOf (0x2910 + n) 5 = some ⟨0x2910, 16, 5, 5, 1, .u 8, .rw, true, false, 0⟩ := by decide +kernel

theorem entBay_sinkCtl : ∀ n : Fin 16, entBay ⟨0x2C10, 16, 2, 2, 1, .u 4, .rw, true, false, 0⟩ (0x2C10 + n) 2 = some n.val := by decide +kernel

/-! ### Their writes -/

theorem shareGrant_gives {n : Fin 16} {k : Fin 8} {v : W64} (h : s.accepts r (0x2100 + n) (0x20 + k) (leBytes 8 v.toNat) = true) :
    Gives (.shareGrant r n k v) s (s.dev.setOd (0x2100 + n) (0x20 + k) (v.toNat % 2 ^ 38)) := by
  refine odRow_does (by rfl) h (entryOf_shareGrant n k) (by omega) (by omega) v.isLt (fun _ w => ?_) rfl rfl (.setOd _ _ _ _ (by omega) (by omega))
  show (if 0x20 + k.val = 2 then _ else if 0x20 ≤ 0x20 + k.val then some _ else none) = _
  rw [if_neg (by omega), if_pos (by omega), Nat.add_sub_cancel_left]
  rfl

theorem shareAccept_gives {n : Fin 16} {k : Fin 8} {v : W64} (h : s.accepts r (0x2100 + n) (0x28 + k) (leBytes 8 v.toNat) = true) :
    Gives (.shareAccept r n k v) s (s.dev.setOd (0x2100 + n) (0x28 + k) (v.toNat % 2 ^ 38)) := by
  refine odRow_does (by rfl) h (entryOf_shareAccept n k) (by omega) (by omega) v.isLt (fun _ w => ?_) rfl rfl (.setOd _ _ _ _ (by omega) (by omega))
  show (if 0x28 + k.val = 2 then _ else if 0x20 ≤ 0x28 + k.val then some _ else none) = _
  rw [if_neg (by omega), if_pos (by omega), Nat.add_sub_cancel_left]
  rfl

theorem skyMapWrite_gives {n : Fin 16} {k : Fin 8} {v : W64} (h : s.accepts r (0x2990 + n) (k + 2) (leBytes 8 v.toNat) = true) :
    Gives (.skyMapWrite r n k v) s (s.dev.setOd (0x2990 + n) (k + 2) (v.toNat % 2 ^ 33)) := by
  refine odRow_does (by rfl) h (entryOf_skyMap n k) (by omega) (fun h => absurd h (by decide)) v.isLt (fun _ w => ?_) rfl rfl (.setOd _ _ _ _ (by omega) (by omega))
  show (if 2 ≤ k.val + 2 then some _ else none) = _
  rw [if_pos (by omega), Nat.add_sub_cancel_left]
  rfl

theorem hdmMapWrite_gives {k : Fin 16} {v : W32} (h : s.accepts r 0x2201 (k + 1) (leBytes 4 v.toNat) = true) :
    Gives (.hdmMapWrite r k v) s (s.dev.setOd 0x2201 (k + 1) v.toNat) := by
  refine odRow_takes (by rfl) h (entryOf_hdmMap k) (by omega) (fun h => absurd h (by decide)) v.isLt (fun d e bs => ?_) (by omega) (by omega)
  show Dev.sysApply d e r 0x2201 (k + 1) v.toNat _ _ = none
  fin_cases k <;> rfl

theorem sinkReadWrite_gives {n : Fin 16} {v : W64} (h : s.accepts r (0x2C10 + n) 4 (leBytes 8 v.toNat) = true) :
    Gives (.sinkReadWrite r n v) s (s.dev.setOd (0x2C10 + n) 4 v.toNat) :=
  odRow_takes (by rfl) h (entryOf_sinkRead n) (by omega) (by omega) v.isLt (fun _ _ _ => rfl) (by decide) (by omega)

theorem sinkCtlWrite_gives {n : Fin 16} {v : W32} (h : s.accepts r (0x2C10 + n) 2 (leBytes 4 v.toNat) = true) (h5 : bit v.toNat 5 = true) :
    Gives (.sinkCtlWrite r n v) s ((s.dev.setOd (0x2C10 + n) 2 v.toNat).setJour n { s.dev.jour n with faulted := false }) := by
  obtain ⟨t, ha⟩ := State.accepted_of h
  have ht := ha.entry_eq (entryOf_sinkCtl n)
  subst ht
  have hs := ha.carried.rests
  have hown := entBay_sinkCtl n
  have htells : ((s.dev.setOd (0x2C10 + n) 2 v.toNat).setJour n { s.dev.jour n with faulted := false }).tells r = true := by
    obtain ⟨w, hserver⟩ := ha.server
    have hlike := Dev.TellsLike.setOd s.dev (0x2C10 + n) 2 v.toNat (by decide) (by omega)
    refine (Dev.tells_congr (d := s.dev) (x := (s.dev.setOd (0x2C10 + n) 2 v.toNat).setJour n { s.dev.jour n with faulted := false }) r rfl rfl
      hlike.owner).trans ?_
    rw [← s.dev.tells_withWins w, ← hserver]
    exact ha.carried.tells
  refine gives_of (by exact odRow_go ..) (ha.row (x := (s.dev.setOd (0x2C10 + n) 2 v.toNat).setJour n { s.dev.jour n with faulted := false }) (by omega)
    (fun w => ?_) (State.rests_quiet hs) (State.rests_stores hs) htells (fun h => absurd h (by omega)) (fun m hm => ?_)
    (fun h => absurd h (by decide)) (by omega) (by omega)) rfl
  · rw [leNat_w32]
    refine Dev.odApply_does ?_
    show (if (true && bit v.toNat 5) = true then some _ else none) = _
    rw [h5, Nat.add_sub_cancel_left]
    rfl
  · rw [Dev.journalBay_own _ hown] at hm
    cases hm

theorem regCtlWrite_gives {n : Fin 16} {v : W64} (h : s.accepts r (0x2A60 + n) 3 (leBytes 8 v.toNat) = true) :
    Gives (.regCtlWrite r n v) s (s.dev.setRegion n (s.dev.od (0x2A60 + n) 1) { s.dev.region n (s.dev.od (0x2A60 + n) 1) with
      ctl := v.toNat
      st := if bit v.toNat 16 then .open_ else .unregistered }) := by
  have hs := (State.accepts_judged h (entryOf_regCtl n) v.isLt).1
  have hc : exec (.regCtlWrite r n v) s = s.go fun e d => d.odWrite e r (0x2A60 + n) 3 (leBytes 8 v.toNat) id := by
    show execRegCtlWrite r n v s = _
    unfold execRegCtlWrite
    refine s.go_congr (s.rests_calm hs) ?_
    rw [Dev.turnOf_rests _ _ _ _ (State.rests_ahead hs)]
    rfl
  refine write_acts hc h (entryOf_regCtl n) (by omega) (by omega) v.isLt (fun w => ?_) (State.rests_quiet hs) (State.rests_stores hs)
    ⟨rfl, rfl, rfl, rfl, fun _ _ => rfl, rfl⟩
  show some (Dev.regWrite _ _ 3 v.toNat _) = _
  rw [Nat.add_sub_cancel_left]
  unfold Dev.regWrite
  cases bit v.toNat 16 <;> rfl

theorem calRequest_gives {n : Fin 16} (h : s.accepts r (0x2710 + n) 0x12 [1] = true) :
    Gives (.calRequest r n) s (s.dev.setArr (s.dev.thSel n) { s.dev.arr (s.dev.thSel n) with calDue := true }) := by
  refine odRow_does (size := 1) (v := 1) (by rfl) h (entryOf_calRequest n) (by omega) (by omega) (by decide) (fun _ w => ?_) rfl rfl
    ⟨rfl, rfl, rfl, rfl, fun _ _ => rfl, rfl⟩
  show some (Dev.modArr _ (Dev.thSel _ _) _) = _
  rw [Nat.add_sub_cancel_left]
  rfl

/-- A Spar as a write that arms it leaves it. -/
def Spar.armedBy (x : Spar) (v : Nat) : Spar :=
  { x with armed := true, mirror := bit v 1, route := BitVec.ofNat 2 (v / 4), remote := bit v 4, key := BitVec.ofNat 16 (v / 0x10000) }

theorem Dev.quiet_spar (d : Dev) (h : d.quiet = true) (k : Nat) : (d.spar k).pend = false := by
  unfold Dev.quiet at h
  simp only [Bool.and_eq_true] at h
  obtain ⟨⟨⟨⟨⟨_, hspars⟩, _⟩, _⟩, _⟩, _⟩ := h
  exact (Bool.not_eq_eq_eq_not.mp (smGet_all ({} : Spar) (fun x => !x.pend) rfl d.spars hspars k) :)

theorem Dev.quiet_setSpar (d : Dev) (h : d.quiet = true) (k : Nat) (x : Spar) (hx : x.pend = false) : (d.setSpar k x).quiet = true := by
  unfold Dev.quiet at h ⊢
  simp only [Bool.and_eq_true] at h ⊢
  obtain ⟨⟨⟨⟨⟨hfirst, hspars⟩, hrec⟩, hports⟩, hsmb⟩, hrel⟩ := h
  exact ⟨⟨⟨⟨⟨hfirst, smSet_all ({} : Spar) (fun x => !x.pend) d.spars k x (by simp [hx]) hspars⟩, hrec⟩, hports⟩, hsmb⟩, hrel⟩

/-- What refuses a write to the selected Spar. -/
theorem Dev.entryBad_spar (d : Dev) (e : Env) {t : Ent} (idx v : Nat) (g : Nat → Bool) {sub : Nat} (i : Image) (hb : t.base = 0x2910) (hsub : ¬ sub ≤ 2) :
    d.entryBad e t idx sub v g i = (d.sparSel (idx - 0x2910)).elim (some .state) fun k =>
      if (d.bay (idx - 0x2910)).st == .draining || (d.bay (idx - 0x2910)).st == .faulted then some .state
      else if !(sub == 5 && bit v 0 && (d.spar k).firing) then none else some .state := by
  unfold Dev.entryBad
  rw [hb]
  show (if sub ≤ 2 then none else _) = _
  rw [if_neg hsub]
  cases d.sparSel (idx - 0x2910) <;> rfl

/-- Bit 0 does not say how a Spar is armed. -/
theorem Spar.armedBy_odd (x : Spar) (v : Nat) : x.armedBy (v / 2 * 2 + 1) = x.armedBy v := by
  have h2 (i : Nat) (hi : 0 < i) : (v / 2 * 2 + 1) / 2 ^ i = v / 2 ^ i := by
    obtain ⟨j, rfl⟩ : ∃ j, i = j + 1 := ⟨i - 1, by omega⟩
    rw [pow_succ', ← Nat.div_div_eq_div_mul, ← Nat.div_div_eq_div_mul, show (v / 2 * 2 + 1) / 2 = v / 2 by omega]
  have hb (i : Nat) (hi : 0 < i) : bit (v / 2 * 2 + 1) i = bit v i := by rw [bit, bit, h2 i hi]
  unfold Spar.armedBy
  rw [hb 1 (by decide), hb 4 (by decide), show (4 : Nat) = 2 ^ 2 from rfl, show (0x10000 : Nat) = 2 ^ 16 from rfl, h2 2 (by decide), h2 16 (by decide)]

/-- What a write to the selected Spar does. -/
theorem Dev.ownApply_spar (d : Dev) (e : Env) (r : Route) (n sub v : Nat) (bs : List Byte) :
    d.ownApply e r 0x2910 n sub v bs = (d.sparSel n).elim none fun k =>
      if sub = 3 then some (d.sparSet e k v) else if sub = 4 then some (d.sparThresh e k v) else if sub = 5 then some (d.sparCtl e k v) else none := by
  show (match d.sparSel n with | some k => _ | none => _) = _
  cases d.sparSel n <;> rfl

/-- A Spar that does not reach its threshold is armed, and does not fire. -/
theorem Dev.sparCtl_arms (d : Dev) (e : Env) (k v : Nat) (h0 : bit v 0 = true) (hf : (d.spar k).firing = false) (hp : (d.spar k).pend = false)
    (hv : (d.spar k).value.toNat < (d.spar k).thresh.toNat) : d.sparCtl e k v = d.setSpar k ((d.spar k).armedBy v) := by
  have hx : ({ (d.spar k).armedBy v with pend := (d.spar k).pend && bit v 1 } : Spar) = (d.spar k).armedBy v := by
    rw [hp]
    exact congrArg (fun b => ({ (d.spar k).armedBy v with pend := b } : Spar)) hp.symm
  have hget : (d.setSpar k ((d.spar k).armedBy v)).spar k = (d.spar k).armedBy v := smGet_set_same ({} : Spar) d.spars k _
  unfold Dev.sparCtl
  dsimp only
  rw [if_pos h0, if_neg (by simp [hf])]
  show (d.setSpar k { (d.spar k).armedBy v with pend := (d.spar k).pend && bit v 1 }).judge e k = _
  rw [hx]
  unfold Dev.judge
  dsimp only
  rw [hget, if_neg]
  have : ¬ (d.spar k).thresh.toNat ≤ (d.spar k).value.toNat := by omega
  simp [Spar.armedBy, this]

theorem sparCtlDictArm_gives {n : Fin 16} {v : W64} (h : s.accepts r (0x2910 + n) 5 (leBytes 8 (v.toNat / 2 * 2 + 1)) = true) {k : Nat}
    (hk : s.dev.sparSel n = some k) (hval : (s.dev.spar k).value.toNat < (s.dev.spar k).thresh.toNat) :
    Gives (.sparCtlDictArm r n v) s (s.dev.setSpar k ((s.dev.spar k).armedBy v.toNat)) := by
  have hv : v.toNat / 2 * 2 + 1 < 256 ^ 8 := by have := v.isLt; omega
  obtain ⟨hs, w, -, -, hbad⟩ := State.accepts_judged h (entryOf_sparCtl n) hv
  have hpend := s.dev.quiet_spar (State.rests_quiet hs) k
  have hfire : (s.dev.spar k).firing = false := by
    have hsel : (s.dev.withWins w).sparSel n = some k := hk
    rw [Dev.entryBad_spar _ _ _ _ _ _ (by decide) (by decide), Nat.add_sub_cancel_left, hsel, Option.elim_some] at hbad
    split at hbad
    · cases hbad
    · have := need_none hbad
      rw [show bit (v.toNat / 2 * 2 + 1) 0 = true by simp [bit]] at this
      exact Bool.not_eq_eq_eq_not.mp this
  have harm : (s.dev.spar k).armedBy (v.toNat / 2 * 2 + 1) = (s.dev.spar k).armedBy v.toNat := Spar.armedBy_odd _ _
  refine write_acts (by exact odRow_go ..) h (entryOf_sparCtl n) (by omega) (fun h => absurd h (by decide)) hv (fun w => ?_)
    (s.dev.quiet_setSpar (State.rests_quiet hs) k _ hpend) (State.rests_stores hs) ⟨rfl, rfl, rfl, rfl, fun _ _ => rfl, rfl⟩
  have hsel : (s.dev.withWins w).sparSel n = some k := hk
  refine (Dev.ownApply_spar (s.dev.withWins w) s.env r _ 5 _ (leBytes 8 (v.toNat / 2 * 2 + 1))).trans ?_
  rw [Nat.add_sub_cancel_left, hsel, Option.elim_some, if_neg (by decide), if_neg (by decide), if_pos rfl]
  refine congrArg some (((s.dev.withWins w).sparCtl_arms _ k _ (by simp [bit]) hfire hpend hval).trans ?_)
  exact congrArg (fun x => (s.dev.withWins w).setSpar k x) harm

end

/-- Settles O17: each entry takes its value, or does to its object what the value says. -/
theorem bayEntries : Obligations.BayEntries :=
  ⟨fun _ _ _ _ _ h => shareGrant_gives h, fun _ _ _ _ _ h => shareAccept_gives h, fun _ _ _ _ h => hdmMapWrite_gives h,
    fun _ _ _ _ _ h => skyMapWrite_gives h, fun _ _ _ _ h => sinkReadWrite_gives h, fun _ _ _ _ h h5 => sinkCtlWrite_gives h h5,
    fun _ _ _ _ h => regCtlWrite_gives h, fun _ _ _ h => calRequest_gives h, fun _ _ _ _ h _ hk hv => sparCtlDictArm_gives h hk hv⟩

end Sys2Proof.Machine
end

section
/-! PROOF. A queue's DISABLE discards what its fetched commands had prepared: O18 does not hold. -/
namespace Sys2Proof.Machine

/-- A device in service, with every island active and CAN FD port 0 open. -/
def servingState : State :=
  { time := 1000000
    dev := {
      board := { rstN := true, standby := true, latched := true, strapRaw := 0x14, mainPg := true, mainPwrReq := true, eaveReady := true }
      boot := { st := .ready, firmware := true, started := true, zeroed := true, dOk := true, slot := 0 }
      loops := { islands := (List.range 350).map fun i => (i, { st := .active }) } } }

/-- In service, Bay 0 idle, its queue 0 active with a fetched `COURSE` at position 0, whose Course 2 is prepared. -/
def preparedState : State :=
  { servingState with dev := { servingState.dev with
      bays := [(0, { st := .idle })]
      queues := [(0, { st := .active, p := 1, fe := 1, cmds := [{ pos := 0, bytes := [] }] })]
      courses := [(2, { st := .prepared, bay := 0, q := 0, p := 0 })] } }

/-- The state of Course 2 that an outcome leaves. -/
def course2 : Outc → Option CSt
  | .next t => some (t.dev.course 2).st
  | _ => none

theorem disable_unprepares : course2 (exec (.disable (.can 0) 0 0) preparedState) = some .idle := by decide +kernel

/-- Refutes O18: a DISABLE of a queue whose fetched command has a Course prepared returns that Course to `IDLE`, which the statement leaves
`PREPARED`. -/
theorem not_queueAndWorkActions : ¬ Obligations.QueueAndWorkActions := by
  unfold Obligations.QueueAndWorkActions
  rintro ⟨-, hdisable, -⟩
  obtain ⟨t, ht, hbooks, -⟩ := hdisable (.can 0) 0 0 preparedState (by decide +kernel)
  have hprepared : (t.dev.course 2).st = .prepared := (congrArg (fun d : Dev => (d.course 2).st) hbooks :)
  have hidle := disable_unprepares
  rw [ht] at hidle
  exact absurd (hprepared.symm.trans (Option.some.inj hidle)) (by decide)

end Sys2Proof.Machine
end

section
/-! PROOF. A core that powers down abandons its L2's request: O19 does not hold. -/
namespace Sys2Proof.Machine

/-- In service, island 5 selected, the L2 of cluster 0 asking for line 0 on behalf of core 5. -/
def askingState : State :=
  { servingState with dev := ({ servingState.dev with ridge := { l2out := [{ c := 0, line := 0, op := .rdShared, tn := 0, bay := 0, who := some (.core 5) }] } } : Dev).setOd 0x2B02 1 5 }

/-- For whom the L2s ask that an outcome leaves. -/
def askedFor : Outc → Option (List (Option Who))
  | .next t => some (t.dev.ridge.l2out.map (·.who))
  | _ => none

theorem powerDown_abandons : askedFor (exec (.powerDown (.can 0)) askingState) = some [none] := by decide +kernel

/-- Refutes O19: a core's island that powers down abandons what its L2 asks for on its behalf, which the statement leaves as it was. -/
theorem not_deviceEntries : ¬ Obligations.DeviceEntries := by
  unfold Obligations.DeviceEntries
  rintro ⟨-, -, -, -, -, hpowerDown, -⟩
  obtain ⟨t, ht, hbooks, -⟩ := hpowerDown (.can 0) askingState (by decide +kernel) (by decide +kernel) (by decide +kernel)
  have hkept : t.dev.ridge.l2out.map (·.who) = [some (.core 5)] := (congrArg (fun d : Dev => d.ridge.l2out.map (·.who)) hbooks :)
  have hgone := powerDown_abandons
  rw [ht] at hgone
  exact absurd (hkept.symm.trans (Option.some.inj hgone)) (by decide)

end Sys2Proof.Machine
end

section
/-! SUPPORT. Ports as the boot state moves, and a fault of the device itself where no Bay is claimed (R76, R86, R554, R653). -/
namespace Sys2Proof.Machine

/-! ### The ports move with the boot state -/

theorem Dev.quiet_portTrain (d : Dev) (p : Nat) (h : d.quiet = true) : (d.portTrain p).quiet = true :=
  Dev.quiet_setPort _ _ _ ((Dev.quiet_portPower _ _).trans (d.quiet_unqueue p h)) (Port.still_of_empty rfl rfl rfl rfl)

theorem Dev.quiet_portOff (d : Dev) (p : Nat) (h : d.quiet = true) : (d.portOff p).quiet = true :=
  Dev.quiet_setPort _ _ _ (d.quiet_unqueue p h) (Port.still_of_empty rfl rfl rfl rfl)

theorem Dev.quiet_portsMove (d : Dev) (h : d.quiet = true) : d.portsMove.quiet = true := by
  have hall : ∀ (l : List Nat) (d : Dev), d.quiet = true → (l.foldl (fun d p => if d.portMay p then (if (d.port p).st == .off then d.portTrain p else d)
      else if (d.port p).st == .off then d else d.portOff p) d).quiet = true := by
    intro l
    induction l with
    | nil => exact fun _ h => h
    | cons p l ih =>
      intro d h
      refine ih _ ?_
      dsimp only
      split
      · split
        · exact d.quiet_portTrain p h
        · exact h
      · split
        · exact h
        · exact d.quiet_portOff p h
  exact hall (List.range 12) d h

/-- What is no port, no counter and no island stands as the ports move. -/
theorem Dev.portsMove_keeps {β : Type} (g : Dev → β) (hp : ∀ (d : Dev) p x, g (d.setPort p x) = g d) (hs : ∀ (d : Dev) i j v, g (d.setOd i j v) = g d)
    (hf : ∀ (d : Dev) k, g { d with free := k } = g d) (hi : ∀ (d : Dev) i x, g (d.setIsland i x) = g d) (d : Dev) : g d.portsMove = g d := by
  have hunqueue (d : Dev) (p : Nat) : g (d.unqueue p) = g d := (Dev.count_keeps g hs hf _ _ _ _).trans (hp d p _)
  have hpower (d : Dev) (p : Nat) : g (d.portPower p) = g d := by
    unfold Dev.portPower
    dsimp only
    split
    · exact hi d _ _
    · rfl
  have htrain (d : Dev) (p : Nat) : g (d.portTrain p) = g d := (hp _ p _).trans ((hpower _ p).trans (hunqueue d p))
  have hoff (d : Dev) (p : Nat) : g (d.portOff p) = g d := (hp _ p _).trans (hunqueue d p)
  refine Dev.foldl_keeps g (fun d p => ?_) (List.range 12) d
  split
  · split
    · exact htrain d p
    · rfl
  · split
    · rfl
    · exact hoff d p

section
variable (d : Dev)

theorem Dev.portsMove_boot : d.portsMove.boot = d.boot := Dev.portsMove_keeps Dev.boot (fun _ _ _ => rfl) (fun _ _ _ _ => rfl) (fun _ _ => rfl) (fun _ _ _ => rfl) d

theorem Dev.portsMove_board : d.portsMove.board = d.board :=
  Dev.portsMove_keeps Dev.board (fun _ _ _ => rfl) (fun _ _ _ _ => rfl) (fun _ _ => rfl) (fun _ _ _ => rfl) d

theorem Dev.portsMove_bays : d.portsMove.bays = d.bays := Dev.portsMove_keeps Dev.bays (fun _ _ _ => rfl) (fun _ _ _ _ => rfl) (fun _ _ => rfl) (fun _ _ _ => rfl) d

theorem Dev.portsMove_journals : d.portsMove.journals = d.journals :=
  Dev.portsMove_keeps Dev.journals (fun _ _ _ => rfl) (fun _ _ _ _ => rfl) (fun _ _ => rfl) (fun _ _ _ => rfl) d

theorem Dev.portsMove_link : d.portsMove.link = d.link := Dev.portsMove_keeps Dev.link (fun _ _ _ => rfl) (fun _ _ _ _ => rfl) (fun _ _ => rfl) (fun _ _ _ => rfl) d

theorem Dev.portsMove_faults : d.portsMove.faults = d.faults :=
  Dev.portsMove_keeps Dev.faults (fun _ _ _ => rfl) (fun _ _ _ _ => rfl) (fun _ _ => rfl) (fun _ _ _ => rfl) d

theorem Dev.portsMove_stores : d.portsMove.stores = d.stores :=
  Dev.portsMove_keeps Dev.stores (fun _ _ _ => rfl) (fun _ _ _ _ => rfl) (fun _ _ => rfl) (fun _ _ _ => rfl) d

theorem Dev.portsMove_flogSeq : d.portsMove.flogSeq = d.flogSeq :=
  Dev.portsMove_keeps Dev.flogSeq (fun _ _ _ => rfl) (fun _ _ _ _ => rfl) (fun _ _ => rfl) (fun _ _ _ => rfl) d

theorem Dev.portsMove_flog : d.portsMove.flog = d.flog := Dev.portsMove_keeps Dev.flog (fun _ _ _ => rfl) (fun _ _ _ _ => rfl) (fun _ _ => rfl) (fun _ _ _ => rfl) d

end

/-! ### A fault of the device with no Bay claimed -/

theorem Dev.logRec_journals (d : Dev) (e : Env) (f : FRec) : (d.logRec e f).journals = d.journals := by
  rw [Dev.logRec_eq, Dev.count_keeps Dev.journals (fun _ _ _ _ => rfl) (fun _ _ => rfl)]
  unfold Dev.setLog
  dsimp only
  exact Dev.foldl_keeps Dev.journals (fun d x => by split <;> rfl) _ _

theorem Dev.link_of_unlogged {d d' : Dev} (h : d'.unlogged = d.unlogged) : d'.link = d.link := (congrArg Dev.link h :)

theorem Dev.bays_of_unlogged {d d' : Dev} (h : d'.unlogged = d.unlogged) : d'.bays = d.bays := (congrArg Dev.bays h :)

/-- A device of which no Bay is claimed, no journal is kept, and whose PF vector 1 is masked. -/
structure Dev.Unclaimed (d : Dev) : Prop where
  bays : d.bays = []
  journals : d.journals = []
  masked : d.unmasked 0 1 = false

/-- error_register, and the pending bit of the PF vector of faults, as a fault of class `DEVICE` leaves them. -/
def Dev.deviceMarked (d : Dev) : Dev := (d.pendVec 0 1).setOd 0x1001 0 (d.od 0x1001 0 / 128 * 128 % 256 + 128)

theorem Dev.deviceMarked_unlogged {d x : Dev} (h : x.unlogged = d.unlogged) : x.deviceMarked.unlogged = (d.pendVec 0 1).unlogged :=
  congrArg (fun x : Dev => ({ x with link := { x.link with msixPend := listIns (0 * 8 + 1) x.link.msixPend } } : Dev)) h

theorem Dev.deviceMarked_flogSeq (d : Dev) : d.deviceMarked.flogSeq = d.flogSeq := rfl

theorem Dev.deviceMarked_flog (d : Dev) : d.deviceMarked.flog = d.flog := rfl

theorem Dev.deviceFault_unclaimed (d : Dev) (e : Env) (f : Flt) (h : d.Unclaimed) :
    d.deviceFault e f = (d.logRec e (d.fltRec .device 0xFF f)).deviceMarked := by
  have hlog := d.logRec_unlogged e (d.fltRec .device 0xFF f)
  have hlink : (d.logRec e (d.fltRec .device 0xFF f)).link = d.link := Dev.link_of_unlogged hlog
  have hbays : (d.logRec e (d.fltRec .device 0xFF f)).bays = [] := (Dev.bays_of_unlogged hlog).trans h.bays
  have hjournals := (d.logRec_journals e (d.fltRec .device 0xFF f)).trans h.journals
  have hraise : (d.logRec e (d.fltRec .device 0xFF f)).raisePf 1 = (d.logRec e (d.fltRec .device 0xFF f)).pendVec 0 1 := by
    unfold Dev.raisePf
    refine if_neg fun hv => ?_
    have hmask : (d.logRec e (d.fltRec .device 0xFF f)).unmasked 0 1 = d.unmasked 0 1 := by unfold Dev.unmasked; rw [hlink]
    unfold Dev.pfVecOk at hv
    rw [hmask, h.masked] at hv
    cases hv
  unfold Dev.deviceFault
  dsimp only
  rw [hraise]
  generalize d.logRec e (d.fltRec .device 0xFF f) = x at hbays hjournals
  refine foldl_fixed _ _ _ fun n _ => ?_
  have hj : ((x.deviceMarked).jour n).st = .none := by
    show (smGet {} x.journals n : Journal).st = .none
    rw [hjournals]
    rfl
  have hb : (x.deviceMarked).bay n = {} := by
    show (smGet {} x.bays n : Bay) = {}
    rw [hbays]
    rfl
  show (if (x.deviceMarked.jour n).st == .open_ then _ else x.deviceMarked).toFaulted e n = x.deviceMarked
  rw [hj, if_neg (by decide)]
  unfold Dev.toFaulted
  rw [hb]
  rfl

section
variable (d : Dev) (e : Env) (f : Flt) (h : d.Unclaimed)
include h

theorem Dev.oneFault_device : d.oneFault e .device 0xFF f = (d.logRec e (d.fltRec .device 0xFF f)).deviceMarked.nameRestarts e := by
  unfold Dev.oneFault
  rw [← d.deviceFault_unclaimed e f h]

theorem Dev.device_unlogged : (d.oneFault e .device 0xFF f).unlogged = (d.pendVec 0 1).unlogged := by
  rw [d.oneFault_device e f h, Dev.nameRestarts_unlogged, Dev.deviceMarked_unlogged (d.logRec_unlogged e _)]

theorem Dev.device_flogSeq : (d.oneFault e .device 0xFF f).flogSeq = d.flogSeq + 1 := by
  rw [d.oneFault_device e f h, Dev.nameRestarts_flogSeq, Dev.deviceMarked_flogSeq, Dev.logRec_flogSeq]

theorem Dev.device_flog (ho : ∀ x ∈ d.flog, x.time ≠ e.time) :
    (d.oneFault e .device 0xFF f).flog.head? = some { d.fltRec .device 0xFF f with time := e.time, seq := d.flogSeq + 1 } := by
  rw [d.oneFault_device e f h, Dev.nameRestarts_flog, Dev.deviceMarked_flog, d.logRec_flog e _ ho]

theorem Dev.device_quiet (hq : d.quiet = true) : (d.oneFault e .device 0xFF f).quiet = true :=
  (Dev.quiet_of_unlogged (d.device_unlogged e f h)).trans hq

end

/-- A command from rest that leaves a fault of the device to take effect. -/
theorem State.go_device (s : State) (g : Env → Dev → Dev) (d : Dev) (f : Flt) (hs : s.rests = true) (h : g s.env s.dev = d.fault .device 0xFF f)
    (hd : d.Unclaimed) (hq : d.quiet = true) (hst : d.stores = []) : s.go g = .next { s with dev := d.oneFault s.env .device 0xFF f } :=
  (s.go_fault g d .device 0xFF f hs h hq (d.device_quiet s.env f hd hq)).trans
    (congrArg Host.Outcome.next (s.commit_quiet _ ((Dev.stores_of_unlogged (d.device_unlogged s.env f hd)).trans hst)))

end Sys2Proof.Machine
end

section
/-! PROOF. `TRAINING`, and the entry into `READY` (R67, R76, R81, R86): O10, O11. -/
namespace Sys2Proof.Machine

/-- A command from rest that leaves nothing due commits what it leaves. -/
theorem State.go_done (s : State) (f : Env → Dev → Dev) (d' : Dev) (hs : s.rests = true) (h : f s.env s.dev = d') (hq : d'.quiet = true) :
    s.go f = .next (s.commit d') := by
  subst h
  exact s.go_quiet f hs hq

theorem State.fresh_iff (s : State) (h : s.fresh = true) : s.rests = true ∧ s.dev.Unclaimed := by
  unfold State.fresh at h
  simp only [Bool.and_eq_true, List.isEmpty_iff] at h
  obtain ⟨⟨⟨⟨hs, hb⟩, hj⟩, hm⟩, -⟩ := h
  exact ⟨hs, hb, hj, Bool.not_eq_eq_eq_not.mp hm⟩

theorem Dev.Unclaimed.congr {d x : Dev} (h : d.Unclaimed) (hb : x.bays = d.bays) (hj : x.journals = d.journals) (hl : x.link = d.link) : x.Unclaimed :=
  ⟨hb.trans h.bays, hj.trans h.journals, by have := h.masked; unfold Dev.unmasked at this ⊢; rwa [hl]⟩

theorem Dev.logOpen_of {s : State} (h : s.logOpen = true) : ∀ f ∈ s.dev.flog, f.time ≠ s.env.time := fun f hf => by
  simpa using List.all_eq_true.mp h f hf

/-- The device as it fails. -/
def Dev.failing (d : Dev) : Dev :=
  { d with
    board := { d.board with mainPwrReq := false }
    boot := { d.boot with st := .failed, pgDeadline := none, watchdog := none, waitPgLow := false, tries := [] } }

/-- A device whose one fault waits is that device's fault on the device with none. -/
theorem Dev.eq_fault {d : Dev} {cls : FaultClass} {bay : Nat} {f : Flt} (h : d.faults = [(cls, bay, f)]) : d = ({ d with faults := [] } : Dev).fault cls bay f := by
  unfold Dev.fault
  rw [List.nil_append, ← h]

theorem Dev.boot_of_unlogged {d d' : Dev} (h : d'.unlogged = d.unlogged) : d'.boot = d.boot := (congrArg Dev.boot h :)

theorem Dev.board_of_unlogged {d d' : Dev} (h : d'.unlogged = d.unlogged) : d'.board = d.board := (congrArg Dev.board h :)

/-- What a command from rest leaves that has one fault of the device to take effect, where no Bay is claimed. -/
theorem State.go_deviceFault {s : State} (hs : s.rests = true) (g : Env → Dev → Dev) {y : Dev} {f : Flt} (h : g s.env s.dev = y.fault .device 0xFF f)
    (hc : y.Unclaimed) (hq : y.quiet = true) (hst : y.stores = []) (hn : y.flogSeq = s.dev.flogSeq) (hl : y.flog = s.dev.flog) :
    ∃ t, s.go g = .next t ∧ t.dev.boot = y.boot ∧ t.dev.board = y.board ∧ t.dev.flogSeq = s.dev.flogSeq + 1 ∧
      (s.logOpen = true → ∀ r ∈ t.dev.flog.head?, r.severity = 5 ∧ (r.island, r.object) = (f.island, f.object)) := by
  have hun := y.device_unlogged s.env f hc
  have hseq := y.device_flogSeq s.env f hc
  have hhead := y.device_flog s.env f hc
  have hgo := s.go_device g y f hs h hc hq hst
  generalize y.oneFault s.env .device 0xFF f = x at hun hseq hhead hgo
  have hboot : x.boot = y.boot := (Dev.boot_of_unlogged hun).trans rfl
  have hboard : x.board = y.board := (Dev.board_of_unlogged hun).trans rfl
  refine ⟨_, hgo, hboot, hboard, hseq.trans (by rw [hn]), fun ho r hr => ?_⟩
  have hhead := hhead (by rw [hl]; exact Dev.logOpen_of ho)
  have hr : r ∈ x.flog.head? := hr
  rw [hhead] at hr
  cases hr
  exact ⟨rfl, rfl⟩

/-- The device with other faults to take effect. -/
def Dev.withFaults (d : Dev) (l : List (FaultClass × Nat × Flt)) : Dev := { d with faults := l }

theorem Dev.count_withFaults (d : Dev) (l : List (FaultClass × Nat × Flt)) (idx sub k : Nat) : (d.withFaults l).count idx sub k = (d.count idx sub k).withFaults l := by
  unfold Dev.count
  by_cases h : d.od idx sub + k < 256 ^ odSize idx sub
  · rw [if_pos h]
    exact if_pos h
  · rw [if_neg h]
    exact if_neg h

theorem Dev.unqueue_withFaults (d : Dev) (l : List (FaultClass × Nat × Flt)) (p : Nat) : (d.withFaults l).unqueue p = (d.unqueue p).withFaults l :=
  (d.setPort p { d.port p with queued := [] }).count_withFaults l _ _ _

theorem Dev.portPower_withFaults (d : Dev) (l : List (FaultClass × Nat × Flt)) (p : Nat) : (d.withFaults l).portPower p = (d.portPower p).withFaults l := by
  unfold Dev.portPower
  dsimp only
  by_cases h : ((d.island (332 + p)).st == .off) = true
  · rw [if_pos h]
    exact if_pos h
  · rw [if_neg h]
    exact if_neg h

theorem Dev.portTrain_withFaults (d : Dev) (l : List (FaultClass × Nat × Flt)) (p : Nat) : (d.withFaults l).portTrain p = (d.portTrain p).withFaults l := by
  unfold Dev.portTrain
  dsimp only
  rw [Dev.unqueue_withFaults, Dev.portPower_withFaults]
  rfl

theorem Dev.portOff_withFaults (d : Dev) (l : List (FaultClass × Nat × Flt)) (p : Nat) : (d.withFaults l).portOff p = (d.portOff p).withFaults l := by
  unfold Dev.portOff
  dsimp only
  rw [Dev.unqueue_withFaults]
  rfl

/-- The ports move alike whatever faults wait. -/
theorem Dev.portsMove_withFaults (d : Dev) (l : List (FaultClass × Nat × Flt)) : (d.withFaults l).portsMove = d.portsMove.withFaults l := by
  unfold Dev.portsMove
  generalize List.range 12 = ps
  induction ps generalizing d with
  | nil => rfl
  | cons p ps ih =>
    rw [List.foldl_cons, List.foldl_cons, ← ih]
    congr 1
    show (if d.portMay p then (if (d.port p).st == .off then (d.withFaults l).portTrain p else d.withFaults l)
      else if (d.port p).st == .off then d.withFaults l else (d.withFaults l).portOff p) = _
    rw [Dev.portTrain_withFaults, Dev.portOff_withFaults]
    split <;> split <;> rfl

/-- The device as a boot that a fault of the board ends leaves it, but for the fault. -/
def Dev.failedBoot (d : Dev) : Dev := d.failing.portsMove

/-- A boot that a fault of the board ends. -/
theorem Dev.boardFault_fails (d : Dev) (i o : Nat) :
    (d.boardFault i o).toFailed true = d.failedBoot.fault .device 0xFF { status := .fault, source := 0xD, island := i, object := o } := by
  show (d.failing.withFaults (d.faults ++ [_])).portsMove = _
  rw [Dev.portsMove_withFaults]
  unfold Dev.failedBoot Dev.fault
  rw [Dev.portsMove_faults]
  rfl

section
variable (d : Dev)

theorem Dev.failedBoot_boot : d.failedBoot.boot.st = .failed := by rw [Dev.failedBoot, Dev.portsMove_boot]; rfl

theorem Dev.failedBoot_board : d.failedBoot.board = { d.board with mainPwrReq := false } := by rw [Dev.failedBoot, Dev.portsMove_board]; rfl

theorem Dev.failedBoot_unclaimed (h : d.Unclaimed) : d.failedBoot.Unclaimed :=
  h.congr (Dev.portsMove_bays _) (Dev.portsMove_journals _) (Dev.portsMove_link _)

theorem Dev.failedBoot_quiet (h : d.quiet = true) : d.failedBoot.quiet = true := Dev.quiet_portsMove _ h

end

/-- A boot from rest that a fault of the board ends, where no Bay is claimed: `d` is the device as the fault finds it. -/
theorem State.boardFails {s : State} (hs : s.rests = true) {c : Instr} {d : Dev} (i o : Nat)
    (h : exec c s = s.go fun _ _ => (d.boardFault i o).toFailed true) (hc : d.Unclaimed) (hq : d.quiet = true) (hst : d.stores = [])
    (hn : d.flogSeq = s.dev.flogSeq) (hl : d.flog = s.dev.flog) :
    ∃ t, exec c s = .next t ∧ t.dev.boot.st = .failed ∧ t.dev.board = { d.board with mainPwrReq := false } ∧ t.dev.flogSeq = s.dev.flogSeq + 1 ∧
      (s.logOpen = true → ∀ r ∈ t.dev.flog.head?, r.severity = 5 ∧ (r.island, r.object) = (i, o)) := by
  have hg := d.boardFault_fails i o
  have hx := d.failedBoot_boot
  have hb := d.failedBoot_board
  have hu := d.failedBoot_unclaimed hc
  have hqx := d.failedBoot_quiet hq
  have hsx : d.failedBoot.stores = [] := (Dev.portsMove_stores _).trans hst
  have hnx : d.failedBoot.flogSeq = s.dev.flogSeq := (Dev.portsMove_flogSeq _).trans hn
  have hlx : d.failedBoot.flog = s.dev.flog := (Dev.portsMove_flog _).trans hl
  generalize d.failedBoot = y at hg hx hb hu hqx hsx hnx hlx
  obtain ⟨t, ht, hboot, hboard, hseq, hlog⟩ := s.go_deviceFault hs (fun _ _ => (d.boardFault i o).toFailed true) hg hu hqx hsx hnx hlx
  exact ⟨t, h.trans ht, by rw [hboot, hx], hboard.trans hb, hseq, hlog⟩

/-! ### O10 -/

section
variable {s : State}

theorem exec_hbmTrainingEnd (hs : s.rests = true) {k : Fin 8} (hst : s.dev.boot.st = .training) (ht : s.dev.boot.trained.contains k.val = false) :
    exec (.hbmTrainingEnd k true) s = .next { s with dev := { s.dev with boot := { s.dev.boot with trained := listIns k.val s.dev.boot.trained } } } := by
  show execHbmTrainingEnd k true s = _
  unfold execHbmTrainingEnd
  refine s.go_to _ _ hs ?_ (State.rests_quiet hs) (State.rests_stores hs)
  rw [if_neg (by rw [ht, hst]; decide)]
  rfl

theorem hbmTrainingEnd_fails (hf : s.fresh = true) {k : Fin 8} (hst : s.dev.boot.st = .training) (ht : s.dev.boot.trained.contains k.val = false)
    (h2 : smGet 0 s.dev.boot.trainFails k = 2) :
    ∃ t, exec (.hbmTrainingEnd k false) s = .next t ∧ t.dev.boot.st = .failed ∧ t.dev.board.mainPwrReq = false ∧ t.dev.flogSeq = s.dev.flogSeq + 1 ∧
      (s.logOpen = true → ∀ f ∈ t.dev.flog.head?, f.severity = 5 ∧ f.island = 304 + k.val) := by
  obtain ⟨hs, hc⟩ := s.fresh_iff hf
  have hexec : exec (.hbmTrainingEnd k false) s = s.go fun _ _ =>
      (({ s.dev with boot := { s.dev.boot with trainFails := smSet 0 s.dev.boot.trainFails k 3 } } : Dev).boardFault (304 + k) k).toFailed true := by
    show execHbmTrainingEnd k false s = _
    unfold execHbmTrainingEnd
    refine s.go_congr (s.rests_calm hs) ?_
    rw [if_neg (by rw [ht, hst]; decide), if_neg (by decide)]
    dsimp only
    rw [h2]
    exact if_pos (by decide)
  obtain ⟨t, hgo, hboot, hboard, hseq, hlog⟩ := s.boardFails hs (304 + k) k hexec (hc.congr rfl rfl rfl) (State.rests_quiet hs) (State.rests_stores hs) rfl rfl
  refine ⟨t, hgo, hboot, by rw [hboard], hseq, fun ho f hf => ?_⟩
  obtain ⟨hsev, hat⟩ := hlog ho f hf
  exact ⟨hsev, (Prod.mk.inj hat).1⟩

theorem hbmZeroingEnd_leaves (hs : s.rests = true) (hst : s.dev.boot.st = .training) (hz : s.dev.boot.zeroed = false) (h8 : s.dev.boot.trained.length = 8)
    (hm : s.dev.attachMode = 0) :
    ∃ t, exec .hbmZeroingEnd s = .next t ∧ t.dev = { s.dev with boot := { s.dev.boot with zeroed := true } } ∧
      (∀ a, a < 0x6000000000 → t.byte a = 0) ∧ (∀ a, 0x6000000000 ≤ a → t.byte a = s.byte a) := by
  have hgo : exec .hbmZeroingEnd s =
      .next (s.commit (({ s.dev with boot := { s.dev.boot with zeroed := true } } : Dev).store (.zero 0 0x6000000000))) := by
    show execHbmZeroingEnd s = _
    unfold execHbmZeroingEnd
    refine s.go_done _ _ hs ?_ (State.rests_quiet hs)
    rw [if_neg (by rw [hst, hz, h8]; decide)]
    refine if_neg fun h => ?_
    simp only [Bool.and_eq_true, decide_eq_true_eq] at h
    exact absurd (hm.symm.trans h.1.1.1) (by decide)
  have hbyte (a : Nat) : (s.commit (({ s.dev with boot := { s.dev.boot with zeroed := true } } : Dev).store (.zero 0 0x6000000000))).byte a =
      if 0 ≤ a ∧ a < 0x6000000000 then 0 else s.byte a := by
    rw [State.byte_commit]
    show smGet 0 (List.foldr _ s.mem (MemOp.zero 0 0x6000000000 :: s.dev.stores)) a = _
    rw [State.rests_stores hs, List.foldr_cons, List.foldr_nil, MemOp.zero_byte]
    rfl
  refine ⟨_, hgo, ?_, fun a ha => ?_, fun a ha => ?_⟩
  · show ({ (({ s.dev with boot := { s.dev.boot with zeroed := true } } : Dev).store _) with stores := [] } : Dev) = _
    rw [← State.rests_stores hs]
    rfl
  · rw [hbyte, if_pos ⟨Nat.zero_le a, ha⟩]
  · rw [hbyte, if_neg (by omega)]

theorem exec_dSectionCheckEnd_passes (hs : s.rests = true) (hst : s.dev.boot.st = .training) (hd : s.dev.boot.dOk = false) (hw : s.dev.boot.waitPgLow = false)
    (hi : imageDBad s.dev.boot.image = false) (hm : s.dev.attachMode = 0) :
    exec .dSectionCheckEnd s = .next { s with dev := { s.dev with boot := { s.dev.boot with dOk := true } } } := by
  show execDSectionCheckEnd s = _
  unfold execDSectionCheckEnd
  refine s.go_to _ _ hs ?_ (State.rests_quiet hs) (State.rests_stores hs)
  rw [if_neg (by rw [hst, hd, hw]; decide), hi, if_neg (by decide)]
  refine if_neg fun h => ?_
  simp only [Bool.and_eq_true, decide_eq_true_eq] at h
  exact absurd (hm.symm.trans h.1.1.1) (by decide)

theorem exec_dSectionCheckEnd_fails (hs : s.rests = true) (hst : s.dev.boot.st = .training) (hd : s.dev.boot.dOk = false) (hw : s.dev.boot.waitPgLow = false)
    (hi : imageDBad s.dev.boot.image = true) (h0 : s.dev.boot.dFails = 0) (hslot : s.dev.boot.slot = 0) (hpg : s.dev.board.mainPg = true) :
    exec .dSectionCheckEnd s = .next { s with dev := { s.dev.setOd 0x2001 3 9 with
      board := { s.dev.board with mainPwrReq := false }
      boot := { s.dev.boot with dFails := 1, waitPgLow := true, tries := [1] } } } := by
  show execDSectionCheckEnd s = _
  unfold execDSectionCheckEnd
  refine s.go_to _ _ hs ?_ (State.rests_quiet hs) (State.rests_stores hs)
  rw [if_neg (by rw [hst, hd, hw]; decide), hi, if_pos rfl]
  unfold Dev.dFail
  dsimp only
  rw [hslot, show (if (0 : Nat) = 1 then 4 else 3) = 3 from rfl, show (s.dev.setOd 0x2001 3 9).boot = s.dev.boot from rfl, show (s.dev.setOd 0x2001 3 9).board = s.dev.board from rfl, h0, hslot,
    if_neg (by decide)]
  exact if_pos (by show (!true || s.dev.board.mainPg) = true; rw [hpg]; rfl)

/-- Settles O10: each part of `TRAINING` is in service once its command says so, and a third failure of a stack, or a D section that fails, ends it. -/
theorem trainingParts : Obligations.TrainingParts :=
  ⟨fun _ _ hs hst ht => exec_hbmTrainingEnd hs hst ht, fun _ _ hf hst ht h2 => hbmTrainingEnd_fails hf hst ht h2,
    fun _ hs hst hz h8 hm => hbmZeroingEnd_leaves hs hst hz h8 hm, fun _ hs hst hd hw hi hm => exec_dSectionCheckEnd_passes hs hst hd hw hi hm,
    fun _ hs hst hd hw hi h0 hslot hpg => exec_dSectionCheckEnd_fails hs hst hd hw hi h0 hslot hpg⟩

/-! ### O11 -/

theorem enterReady_leaves (hs : s.rests = true) (hr : s.dev.readyNow = true) : ∃ t, exec .enterReady s = .next t ∧
    t.dev.boot = { s.dev.boot with st := .ready, readyTime := s.time, watchdog := none } ∧ t.dev.bays = s.dev.bays := by
  have hboot := Dev.portsMove_boot { s.dev with boot := { s.dev.boot with st := .ready, readyTime := s.time, watchdog := none } }
  have hbays := Dev.portsMove_bays { s.dev with boot := { s.dev.boot with st := .ready, readyTime := s.time, watchdog := none } }
  have hquiet := Dev.quiet_portsMove { s.dev with boot := { s.dev.boot with st := .ready, readyTime := s.time, watchdog := none } } (State.rests_quiet hs)
  have hstores := (Dev.portsMove_stores { s.dev with boot := { s.dev.boot with st := .ready, readyTime := s.time, watchdog := none } }).trans (State.rests_stores hs)
  have hexec : execEnterReady s = s.go fun _ _ =>
      ({ s.dev with boot := { s.dev.boot with st := .ready, readyTime := s.time, watchdog := none } } : Dev).portsMove := by
    unfold execEnterReady
    exact s.go_congr (s.rests_calm hs) (if_pos hr)
  generalize Dev.portsMove _ = x at hboot hbays hquiet hstores hexec
  exact ⟨_, hexec.trans (s.go_to _ x hs rfl hquiet hstores), hboot, hbays⟩

theorem exec_enterReady_early (hs : s.rests = true) (hr : s.dev.readyNow = false) : exec .enterReady s = .next s := by
  show execEnterReady s = _
  unfold execEnterReady
  exact s.go_to _ _ hs (if_neg (by rw [hr]; decide)) (State.rests_quiet hs) (State.rests_stores hs)

theorem smbStatus_ready (d : Dev) (h : d.boot.st = .ready) : d.smbStatus / 16 = 1 := by
  have hb (b : Bool) : b2n b ≤ 1 := by cases b <;> decide
  have h1 := hb d.board.mainPg
  have h2 := hb d.throttling
  have h3 := hb d.board.thermTrip
  have h4 := hb (d.loops.sense.any fun c => c.2 != 0)
  unfold Dev.smbStatus
  rw [h, if_neg (by decide), show b2n (BootSt.ready == .ready) = 1 from rfl]
  omega

theorem bootWatchdogExpire_fails (hf : s.fresh = true) {dl : Nat} (hw : s.dev.boot.watchdog = some dl) (hd : dl ≤ s.time) :
    ∃ t, exec .bootWatchdogExpire s = .next t ∧ t.dev.boot.st = .failed ∧ t.dev.board.mainPwrReq = false ∧ t.dev.flogSeq = s.dev.flogSeq + 1 := by
  obtain ⟨hs, hc⟩ := s.fresh_iff hf
  have hexec : exec .bootWatchdogExpire s = s.go fun _ _ => (s.dev.boardFault 348 0xFFFF).toFailed true := by
    show execBootWatchdogExpire s = _
    unfold execBootWatchdogExpire
    refine s.go_congr (s.rests_calm hs) ?_
    rw [hw]
    exact if_pos hd
  obtain ⟨t, hgo, hboot, hboard, hseq, -⟩ := s.boardFails hs 348 0xFFFF hexec hc (State.rests_quiet hs) (State.rests_stores hs) rfl rfl
  exact ⟨t, hgo, hboot, by rw [hboard], hseq⟩

/-- Settles O11: ENTER_READY takes effect where the conditions of the attach mode hold, and the watchdog ends a boot that they do not end. -/
theorem entersReady : Obligations.EntersReady := by
  refine ⟨fun s hs hm hst hz hd he _ => ?_, fun s hs hm hst hid hp => ?_, fun s hs hr => exec_enterReady_early hs hr,
    fun dl s hf hw hd => bootWatchdogExpire_fails hf hw hd⟩
  · have hr : s.dev.readyNow = true := by
      unfold Dev.readyNow
      rw [if_neg hm, hst, hz, hd, he]
      decide
    obtain ⟨t, ht, hboot, hbays⟩ := enterReady_leaves hs hr
    exact ⟨t, ht, hboot, smbStatus_ready _ (by rw [hboot]), hbays⟩
  · have hr : s.dev.readyNow = true := by
      unfold Dev.readyNow
      rw [if_pos hm, hst, hp, Option.isSome_iff_ne_none.mpr hid]
      decide
    obtain ⟨t, ht, hboot, -⟩ := enterReady_leaves hs hr
    exact ⟨t, ht, hboot⟩

end

end Sys2Proof.Machine
end

section
/-! PROOF. The thermal limits (R46 to R48, R56, R644): O13. -/
namespace Sys2Proof.Machine

/-! ### A trip -/

/-- A device whose sensor has read a trip temperature: the rails are released and no patrol pass runs on. -/
def Dev.tripped (d : Dev) (e : Env) (k : Option (Fin 8)) (temp : Int) : Dev :=
  (List.range 8).foldl (fun d k => d.scrubStop e k)
    ({ d.takeTemp k temp with board := { (d.takeTemp k temp).board with thermTrip := true, mainPwrReq := false } } : Dev)

theorem Dev.tripped_keeps {β : Type} (g : Dev → β) (hb : ∀ (d : Dev) b, g { d with board := b } = g d) (hs : ∀ (d : Dev) k x, g (d.setScrub k x) = g d)
    (d : Dev) (e : Env) (k : Option (Fin 8)) (temp : Int) : g (d.tripped e k temp) = g d :=
  (Dev.foldl_keeps g (fun d k => d.scrubStop_keeps g hs e k) _ _).trans ((hb _ _).trans (hb _ _))

theorem Dev.tripped_board (d : Dev) (e : Env) (k : Option (Fin 8)) (temp : Int) :
    (d.tripped e k temp).board = { (d.takeTemp k temp).board with thermTrip := true, mainPwrReq := false } :=
  Dev.foldl_keeps Dev.board (fun d k => d.scrubStop_keeps Dev.board (fun _ _ _ => rfl) e k) _ _

theorem Dev.takeTemp_fellAt (d : Dev) (k : Option (Fin 8)) (temp : Int) : (d.takeTemp k temp).board.fellAt = d.board.fellAt := by cases k <;> rfl

theorem Dev.tripped_quiet (d : Dev) (e : Env) (k : Option (Fin 8)) (temp : Int) (h : d.quiet = true) : (d.tripped e k temp).quiet = true := by
  have hstop : ∀ (l : List Nat) (d : Dev), (l.foldl (fun d k => d.scrubStop e k) d).quiet = d.quiet :=
    fun l d => Dev.foldl_keeps Dev.quiet (fun d k => d.scrubStop_keeps Dev.quiet (fun _ _ _ => rfl) e k) l d
  refine (hstop _ _).trans ?_
  cases k <;> exact h

/-- What a trip does besides: a fall of the tick becomes its own, or it is a fault that ends a boot. -/
def Dev.tripEnd (d : Dev) (e : Env) (x : Nat × Nat) : Dev :=
  if d.board.fellAt = some e.time then
    ({ d.fallIsTrip e x with board := { (d.fallIsTrip e x).board with fellAt := none } } : Dev).setOd 0x2E01 5 ((d.fallIsTrip e x).od 0x2E01 5 - 1)
  else if (d.boardFault x.1 x.2).boot.st.booted then (d.boardFault x.1 x.2).toFailed true else d.boardFault x.1 x.2

section
variable {s : State} (hs : s.rests = true) {k : Option (Fin 8)} {temp : Int} (hl : s.dev.board.latched = true) (ht : s.dev.board.thermTrip = false)
  (htemp : tripTemp k temp = true)
include hs hl ht htemp

theorem exec_thermalTrip : exec (.thermalTrip k temp) s = s.go fun _ _ => (s.dev.tripped s.env k temp).tripEnd s.env (tripAt k) := by
  show execThermalTrip k temp s = _
  unfold execThermalTrip
  refine s.go_congr (s.rests_calm hs) ?_
  rw [if_neg (by rw [hl, ht, htemp]; decide)]
  unfold Dev.tripEnd Dev.tripped
  dsimp only

end

section
variable {s : State} {k : Option (Fin 8)} {temp : Int} (hl : s.dev.board.latched = true) (ht : s.dev.board.thermTrip = false) (htemp : tripTemp k temp = true)
include hl ht htemp

/-- A trip on whose tick `MAIN_PG` has not fallen. -/
theorem thermalTrip_faults (hf : s.fresh = true) (hfell : s.dev.board.fellAt ≠ some s.time) :
    ∃ t, exec (.thermalTrip k temp) s = .next t ∧ t.dev.board.thermTrip = true ∧ t.dev.board.mainPwrReq = false ∧ t.dev.flogSeq = s.dev.flogSeq + 1 ∧
      (s.logOpen = true → ∀ f ∈ t.dev.flog.head?, f.severity = 5 ∧ (f.island, f.object) = tripAt k) ∧ (s.dev.boot.st.booted = true → t.dev.boot.st = .failed) ∧
      (s.dev.boot.st = .ready → t.dev.boot.st = .ready) := by
  obtain ⟨hs, hc⟩ := s.fresh_iff hf
  have hexec := exec_thermalTrip hs hl ht htemp
  have hboard := s.dev.tripped_board s.env k temp
  have hfell' : (s.dev.tripped s.env k temp).board.fellAt ≠ some s.env.time := by
    rw [hboard]
    exact fun h => hfell ((s.dev.takeTemp_fellAt k temp).symm.trans h)
  have hboot : (s.dev.tripped s.env k temp).boot = s.dev.boot := Dev.tripped_keeps Dev.boot (fun _ _ => rfl) (fun _ _ _ => rfl) ..
  have hbays : (s.dev.tripped s.env k temp).bays = s.dev.bays := Dev.tripped_keeps Dev.bays (fun _ _ => rfl) (fun _ _ _ => rfl) ..
  have hjournals : (s.dev.tripped s.env k temp).journals = s.dev.journals := Dev.tripped_keeps Dev.journals (fun _ _ => rfl) (fun _ _ _ => rfl) ..
  have hlink : (s.dev.tripped s.env k temp).link = s.dev.link := Dev.tripped_keeps Dev.link (fun _ _ => rfl) (fun _ _ _ => rfl) ..
  have hstores : (s.dev.tripped s.env k temp).stores = s.dev.stores := Dev.tripped_keeps Dev.stores (fun _ _ => rfl) (fun _ _ _ => rfl) ..
  have hseq : (s.dev.tripped s.env k temp).flogSeq = s.dev.flogSeq := Dev.tripped_keeps Dev.flogSeq (fun _ _ => rfl) (fun _ _ _ => rfl) ..
  have hlog : (s.dev.tripped s.env k temp).flog = s.dev.flog := Dev.tripped_keeps Dev.flog (fun _ _ => rfl) (fun _ _ _ => rfl) ..
  have hquiet := s.dev.tripped_quiet s.env k temp (State.rests_quiet hs)
  generalize s.dev.tripped s.env k temp = x at hexec hboard hfell' hboot hbays hjournals hlink hstores hseq hlog hquiet
  have hst := hstores.trans (State.rests_stores hs)
  have hu := hc.congr hbays hjournals hlink
  unfold Dev.tripEnd at hexec
  rw [if_neg hfell'] at hexec
  by_cases hbooted : s.dev.boot.st.booted = true
  · rw [if_pos (show (x.boardFault (tripAt k).1 (tripAt k).2).boot.st.booted = true from (congrArg (fun b : Boot => b.st.booted) hboot).trans hbooted)] at hexec
    obtain ⟨t, hgo, hboot', hboard', hseq', hlog'⟩ := s.boardFails hs _ _ hexec hu hquiet hst hseq hlog
    refine ⟨t, hgo, by rw [hboard', hboard], by rw [hboard'], hseq', fun ho f hf => hlog' ho f hf, fun _ => hboot', fun hr => ?_⟩
    rw [hr] at hbooted
    cases hbooted
  · rw [if_neg (show ¬ (x.boardFault (tripAt k).1 (tripAt k).2).boot.st.booted = true from fun h => hbooted ((congrArg (fun b : Boot => b.st.booted) hboot).symm.trans h))] at hexec
    obtain ⟨t, hgo, hboot', hboard', hseq', hlog'⟩ := s.go_deviceFault hs (fun _ _ => x.boardFault _ _) rfl hu hquiet hst hseq hlog
    exact ⟨t, hexec.trans hgo, by rw [hboard', hboard], by rw [hboard', hboard], hseq', fun ho f hf => hlog' ho f hf, fun h => absurd h hbooted,
      fun hr => by rw [hboot', hboot, hr]⟩

end

/-! ### A trip that takes over the tick's fall of `MAIN_PG` -/

theorem fRecIns_length (f : FRec) (l : List FRec) : (fRecIns f l).length = l.length + 1 := by
  induction l with
  | nil => rfl
  | cons x l ih =>
    unfold fRecIns
    split
    · rw [List.length_cons, ih, List.length_cons]
    · rfl

theorem mem_fRecIns (f : FRec) (l : List FRec) : f ∈ fRecIns f l := by
  induction l with
  | nil => exact List.mem_singleton.mpr rfl
  | cons x l ih =>
    unfold fRecIns
    split
    · exact List.mem_cons_of_mem _ ih
    · exact List.mem_cons_self

theorem fRecNums_length (t n : Nat) (l : List FRec) : (fRecNums t n l).length = l.length := by
  induction l generalizing n with
  | nil => rfl
  | cons x l ih =>
    unfold fRecNums
    split
    · rw [List.length_cons, ih, List.length_cons]
    · rfl

/-- Numbering anew changes no record but its number. -/
theorem mem_fRecNums {t : Nat} {f : FRec} {l : List FRec} (h : f ∈ l) (n : Nat) : ∃ m, { f with seq := m } ∈ fRecNums t n l := by
  induction l generalizing n with
  | nil => cases h
  | cons x l ih =>
    unfold fRecNums
    split
    · obtain rfl | h := List.mem_cons.mp h
      · exact ⟨n, List.mem_cons_self⟩
      · obtain ⟨m, hm⟩ := ih h (n - 1)
        exact ⟨m, List.mem_cons_of_mem _ hm⟩
    · exact ⟨f.seq, h⟩

/-- The books of the fault log aside, a fall that becomes a trip leaves the device. -/
theorem Dev.fallIsTrip_spec (d : Dev) (e : Env) (x : Nat × Nat) : (d.fallIsTrip e x).unlogged = d.unlogged ∧ (d.fallIsTrip e x).flogSeq = d.flogSeq ∧
    (d.fallIsTrip e x).od 0x2E01 5 = d.od 0x2E01 5 := by
  unfold Dev.fallIsTrip
  split
  · obtain ⟨hu, hseq, -, hod⟩ := d.setLog_spec e _
    exact ⟨hu, hseq, hod _ _ (by decide) (by decide)⟩
  · exact ⟨rfl, rfl, rfl⟩

/-- The record of the fall becomes that of the trip. -/
theorem Dev.fallIsTrip_flog (d : Dev) (e : Env) (x : Nat × Nat) (hlen : d.flog.length ≤ 1024) (h : ∃ f ∈ d.flog, FRec.isFall e.time f = true) :
    ∃ f ∈ (d.fallIsTrip e x).flog, f.time = e.time ∧ f.severity = 5 ∧ (f.island, f.object) = x := by
  unfold Dev.fallIsTrip
  split
  · next f hfind =>
    have hf := List.find?_some hfind
    simp only [FRec.isFall, Bool.and_eq_true, beq_iff_eq, and_assoc] at hf
    obtain ⟨htime, hsev, -⟩ := hf
    have hmem := List.mem_of_find?_eq_some hfind
    obtain ⟨m, hm⟩ := mem_fRecNums (t := e.time) (mem_fRecIns { f with island := x.1, object := x.2 } (d.flog.erase f)) d.flogSeq
    rw [(d.setLog_spec e _).2.2.1, List.take_of_length_le]
    · exact ⟨_, hm, htime, hsev, rfl⟩
    · rw [fRecNums_length, fRecIns_length, List.length_erase_of_mem hmem]
      have := List.length_pos_of_mem hmem
      omega
  · next hnone =>
    obtain ⟨f, hf, hfall⟩ := h
    exact absurd hfall (List.find?_eq_none.mp hnone f hf)

/-- A device whose recorded fall of the tick is a trip's. -/
def Dev.fallTaken (d : Dev) (e : Env) (x : Nat × Nat) : Dev :=
  ({ d.fallIsTrip e x with board := { (d.fallIsTrip e x).board with fellAt := none } } : Dev).setOd 0x2E01 5 ((d.fallIsTrip e x).od 0x2E01 5 - 1)

theorem Dev.fallTaken_board (d : Dev) (e : Env) (x : Nat × Nat) : (d.fallTaken e x).board = { d.board with fellAt := none } :=
  congrArg (fun b : Board => { b with fellAt := none }) (board_of_unlogged (d.fallIsTrip_spec e x).1)

theorem Dev.fallTaken_quiet (d : Dev) (e : Env) (x : Nat × Nat) (h : d.quiet = true) : (d.fallTaken e x).quiet = true :=
  (show (d.fallTaken e x).quiet = (d.fallIsTrip e x).quiet from rfl).trans ((quiet_of_unlogged (d.fallIsTrip_spec e x).1).trans h)

theorem Dev.fallTaken_od (d : Dev) (e : Env) (x : Nat × Nat) (h : 0 < d.od 0x2E01 5) : (d.fallTaken e x).od 0x2E01 5 + 1 = d.od 0x2E01 5 := by
  unfold Dev.fallTaken
  rw [Dev.setOd_od, (d.fallIsTrip_spec e x).2.2]
  omega

section
variable {s : State} {k : Option (Fin 8)} {temp : Int} (hl : s.dev.board.latched = true) (ht : s.dev.board.thermTrip = false) (htemp : tripTemp k temp = true)
include hl ht htemp

theorem thermalTrip_takes_fall (hs : s.rests = true) (hfell : s.dev.board.fellAt = some s.time) (hcount : 0 < s.dev.od 0x2E01 5)
    (hlen : s.dev.flog.length ≤ 1024) :
    ∃ t, exec (.thermalTrip k temp) s = .next t ∧ t.dev.board.thermTrip = true ∧ t.dev.board.mainPwrReq = false ∧ t.dev.flogSeq = s.dev.flogSeq ∧
      t.dev.od 0x2E01 5 + 1 = s.dev.od 0x2E01 5 ∧
      ((∃ f ∈ s.dev.flog, FRec.isFall s.time f = true) → ∃ f ∈ t.dev.flog, f.time = s.time ∧ f.severity = 5 ∧ (f.island, f.object) = tripAt k) := by
  have hexec := exec_thermalTrip hs hl ht htemp
  have hboard := s.dev.tripped_board s.env k temp
  have hfell' : (s.dev.tripped s.env k temp).board.fellAt = some s.env.time := by
    rw [hboard]
    exact (s.dev.takeTemp_fellAt k temp).trans hfell
  have hstores : (s.dev.tripped s.env k temp).stores = s.dev.stores := Dev.tripped_keeps Dev.stores (fun _ _ => rfl) (fun _ _ _ => rfl) ..
  have hseq : (s.dev.tripped s.env k temp).flogSeq = s.dev.flogSeq := Dev.tripped_keeps Dev.flogSeq (fun _ _ => rfl) (fun _ _ _ => rfl) ..
  have hlog : (s.dev.tripped s.env k temp).flog = s.dev.flog := Dev.tripped_keeps Dev.flog (fun _ _ => rfl) (fun _ _ _ => rfl) ..
  have hod : (s.dev.tripped s.env k temp).od 0x2E01 5 = s.dev.od 0x2E01 5 :=
    Dev.tripped_keeps (fun d => d.od 0x2E01 5) (fun _ _ => rfl) (fun _ _ _ => rfl) ..
  have hquiet := s.dev.tripped_quiet s.env k temp (State.rests_quiet hs)
  generalize s.dev.tripped s.env k temp = x at hexec hboard hfell' hstores hseq hlog hod hquiet
  obtain ⟨hun, hseq', -⟩ := x.fallIsTrip_spec s.env (tripAt k)
  have hend : x.tripEnd s.env (tripAt k) = x.fallTaken s.env (tripAt k) := if_pos hfell'
  rw [hend] at hexec
  have hb := x.fallTaken_board s.env (tripAt k)
  refine ⟨_, hexec.trans (s.go_to _ _ hs rfl (x.fallTaken_quiet _ _ hquiet) ?_), ?_, ?_, hseq'.trans hseq, ?_, fun hfall => ?_⟩
  · exact (Dev.stores_of_unlogged hun).trans (hstores.trans (State.rests_stores hs))
  · show (x.fallTaken s.env (tripAt k)).board.thermTrip = true
    rw [hb, hboard]
  · show (x.fallTaken s.env (tripAt k)).board.mainPwrReq = false
    rw [hb, hboard]
  · exact (x.fallTaken_od _ _ (hod ▸ hcount)).trans hod
  · exact x.fallIsTrip_flog s.env (tripAt k) (hlog ▸ hlen) (hlog ▸ hfall)

end

/-! ### Throttling -/

theorem Dev.takeTemp_scrub (d : Dev) (k : Option (Fin 8)) (temp : Int) (j : Nat) : (d.takeTemp k temp).scrub j = d.scrub j := rfl

/-- A stack that has been read too hot. -/
def Dev.throttled (d : Dev) (k : Fin 8) (temp : Int) : Dev :=
  { d.takeTemp (some k) temp with board := { (d.takeTemp (some k) temp).board with throttled := listIns k.val d.board.throttled } }

theorem Dev.throttled_throttling (d : Dev) (k : Fin 8) (temp : Int) : (d.throttled k temp).throttling = true := by
  have hne : (listIns k.val d.board.throttled).isEmpty = false :=
    List.isEmpty_eq_false_iff.mpr (List.ne_nil_of_mem (mem_listIns ..))
  show (_ || !(listIns k.val d.board.throttled).isEmpty || _) = true
  rw [hne]
  simp

theorem hbmThrottle_does (k : Fin 8) (temp : Int) (s : State) (hs : s.rests = true) (hpg : s.dev.board.mainPg = true) (htemp : 760 ≤ temp) :
    ∃ t, exec (.hbmThrottle k temp) s = .next t ∧ t.dev.board.throttled = listIns k.val s.dev.board.throttled ∧ smGet 0 t.dev.board.hbmTemp k = temp ∧
      t.dev.throttling = true ∧ ((s.dev.scrub k).running = true → (t.dev.scrub k).paused = true) := by
  have hgate : ¬ (!s.dev.board.mainPg || decide (temp < 95 * 8)) = true := by
    rw [hpg]
    simp only [Bool.not_true, Bool.false_or, decide_eq_true_eq]
    omega
  have hexec : exec (.hbmThrottle k temp) s =
      s.go fun _ _ => if (s.dev.scrub k).running then (s.dev.throttled k temp).setScrub k { s.dev.scrub k with paused := true } else s.dev.throttled k temp := by
    show execHbmThrottle k temp s = _
    unfold execHbmThrottle
    exact s.go_congr (s.rests_calm hs) (if_neg hgate)
  have hst : (s.dev.throttled k temp).stores = [] := State.rests_stores hs
  have hq : (s.dev.throttled k temp).quiet = true := State.rests_quiet hs
  by_cases hrun : (s.dev.scrub k).running = true
  · rw [if_pos hrun] at hexec
    exact ⟨_, hexec.trans (s.go_to _ _ hs rfl hq hst), rfl, smGet_set_same .., s.dev.throttled_throttling k temp,
      fun _ => congrArg Scrub.paused (smGet_set_same ..)⟩
  · rw [if_neg hrun] at hexec
    exact ⟨_, hexec.trans (s.go_to _ _ hs rfl hq hst), rfl, smGet_set_same .., s.dev.throttled_throttling k temp, fun h => absurd h hrun⟩

theorem hbmThrottleEnd_does (k : Fin 8) (temp : Int) (s : State) (hs : s.rests = true) (hk : s.dev.board.throttled.contains k.val = true) (htemp : temp < 760) :
    ∃ t, exec (.hbmThrottleEnd k temp) s = .next t ∧ t.dev.board.throttled = listDel k.val s.dev.board.throttled ∧ smGet 0 t.dev.board.hbmTemp k = temp ∧
      t.dev.scrub k = { s.dev.scrub k with paused := false } := by
  have hgate : ¬ (!(s.dev.board.throttled.contains k.val) || decide (95 * 8 ≤ temp)) = true := by
    rw [hk]
    simp only [Bool.not_true, Bool.false_or, decide_eq_true_eq]
    omega
  have hexec : exec (.hbmThrottleEnd k temp) s = s.go fun _ _ =>
      ({ s.dev.takeTemp (some k) temp with board := { (s.dev.takeTemp (some k) temp).board with throttled := listDel k.val s.dev.board.throttled } } : Dev).setScrub k
        { s.dev.scrub k with paused := false } := by
    show execHbmThrottleEnd k temp s = _
    unfold execHbmThrottleEnd
    exact s.go_congr (s.rests_calm hs) (if_neg hgate)
  exact ⟨_, hexec.trans (s.go_to _ _ hs rfl (State.rests_quiet hs) (State.rests_stores hs)), rfl, smGet_set_same .., smGet_set_same ..⟩

theorem vrHotNAssert_counts (s : State) (hs : s.rests = true) (hl : s.dev.board.latched = true) (hv : s.dev.board.vrHot = false)
    (hcount : s.dev.od 0x2E01 6 + 1 < 2 ^ 32) : exec .vrHotNAssert s =
      .next { s with dev := ({ s.dev with board := { s.dev.board with vrHot := true } } : Dev).setOd 0x2E01 6 (s.dev.od 0x2E01 6 + 1) } := by
  show execVrHotNAssert s = _
  unfold execVrHotNAssert
  refine s.go_to _ _ hs ?_ (State.rests_quiet hs) (State.rests_stores hs)
  rw [if_neg (by rw [hl, hv]; decide)]
  exact Dev.count_of_lt _ _ _ _ hcount

/-- Settles O13, clause by clause. -/
theorem thermalActions : Obligations.ThermalActions := by
  unfold Obligations.ThermalActions
  refine ⟨fun k temp s hf hl ht htemp hfell => thermalTrip_faults hl ht htemp hf hfell,
    fun k temp s hs hl ht htemp hfell hcount hlen => thermalTrip_takes_fall hl ht htemp hs hfell hcount hlen, by decide, by decide, by decide, by decide,
    hbmThrottle_does, hbmThrottleEnd_does, vrHotNAssert_counts, fun s hs => ?_⟩
  exact State.go_to s (fun _ d => { d with board := { d.board with vrHot := false } }) _ hs rfl (State.rests_quiet hs) (State.rests_stores hs)

end Sys2Proof.Machine
end

section
/-! PROOF. The link states (R160 to R166, R184) and the edge of the board (R46 to R55, R88): O24, O12. -/
namespace Sys2Proof.Machine

/-! ### Nothing claimed and no Course -/

/-- With no Course, a resource takes its capacity and projects no miss. -/
theorem Dev.arbStep_idle (d : Dev) (e : Env) (r : Nat) (h : d.courses = []) : d.arbStep e r = d.setArb r { d.arb r with derated := d.resDerate r } := by
  unfold Dev.arbStep Dev.arbJudge
  rw [if_pos]
  show (!(d.courses.any _)) = true
  rw [h]
  rfl

theorem Dev.linkMoved_idle (d : Dev) (e : Env) (h : d.courses = []) : ∃ a, d.linkMoved e = { d with arbs := a } := by
  have step (d : Dev) (r : Nat) (h : d.courses = []) : ∃ a, d.arbStep e r = { d with arbs := a } := ⟨_, d.arbStep_idle e r h⟩
  obtain ⟨a, ha⟩ := step d 1 h
  obtain ⟨b, hb⟩ := step { d with arbs := a } 2 h
  exact ⟨b, (congrArg (Dev.arbStep · e 2) ha).trans hb⟩

theorem Dev.foldl_send (l : List Out) (d : Dev) : l.foldl (fun d o => d.send o) d = { d with out := d.out ++ l } := by
  induction l generalizing d with
  | nil => rw [List.append_nil, List.foldl_nil]
  | cons o l ih => rw [List.foldl_cons, ih, Dev.send, List.append_assoc, List.singleton_append]

theorem Dev.bay_unclaimed {d : Dev} (h : d.bays = []) (n : Nat) : d.bay n = {} := by
  unfold Dev.bay
  rw [h]
  rfl

theorem Dev.ownersLost_unclaimed (d : Dev) (e : Env) (h : d.bays = []) : d.ownersLost e = d := by
  refine foldl_fixed _ _ _ fun n _ => ?_
  unfold Dev.ownerLoss
  rw [Dev.bay_unclaimed h]

theorem Dev.proxyLose_empty (d : Dev) (h : d.ridge.proxy = []) : ∃ r, d.proxyLose = { d.count 0x2402 8 0 with ridge := r } := by
  unfold Dev.proxyLose
  rw [h]
  simp only [List.filter_nil, List.any_nil, List.length_nil]
  rw [List.filter_eq_nil_iff.mpr fun _ _ => Bool.false_ne_true]
  exact ⟨_, rfl⟩

theorem Dev.dropFences_unpaged (d : Dev) (e : Env) (n : Nat) (h : d.pages = []) : d.dropFences e n = d := by
  have hset : d.setPage n {} = d := by
    unfold Dev.setPage
    rw [h]
    show { d with pages := [] } = d
    rw [← h]
  have hpage : d.page n = {} := by
    unfold Dev.page
    rw [h]
    rfl
  unfold Dev.dropFences
  rw [hpage]
  show (d.setPage n {}).serveFenceReads n = d
  rw [hset]
  unfold Dev.serveFenceReads
  rw [hpage]
  exact hset

/-- The translations and requests of the host side, once the link is lost. -/
def Dev.linkStale (d : Dev) : Dev := (d.dropTlb fun x => x.ats && d.ownerLink x.bay == 0).staleReqs fun _ => true

/-- The functions and the link itself, once it is lost. -/
def Dev.linkOff (d : Dev) : Dev :=
  let d := (d.resetPf).resetFns fun f => f != 0 && d.ownerLink (f - 1) == 0
  d.setLink { d.link with st := .lost, flit := false, cxl := 0, held := [], ide := [], ideBad := [], bme := [], ats := [], pasid := [], ro := [], noSnoop := [] }

theorem Dev.linkLost_eq (d : Dev) (e : Env) :
    d.linkLost e = (bays16.foldl (fun d n => d.dropFences e n) (((d.count 0x2200 9 1).ownersLost e).proxyLose.linkStale)).linkOff.linkMoved e := by
  unfold Dev.linkLost Dev.linkOff Dev.linkStale
  with_reducible rfl

/-- A link that is lost: nothing is held, and what its functions were enabled to do is off. -/
structure Link.Lost (l : Link) : Prop where
  st : l.st = .lost
  vfs : l.vfEnable = false
  cxl : l.cxl = 0
  flit : l.flit = false
  held : l.held = []
  bme : l.bme = []
  ats : l.ats = []
  pasid : l.pasid = []
  ide : l.ide = []
  hdm : l.hdm = []

theorem Dev.linkOff_spec (d : Dev) : ∃ l, d.linkOff = { d with link := l } ∧ l.Lost ∧ l.reqs = d.link.reqs ∧ l.heldRecs = d.link.heldRecs :=
  ⟨_, rfl, ⟨rfl, rfl, rfl, rfl, rfl, rfl, rfl, rfl, rfl, rfl⟩, rfl, rfl⟩

theorem Dev.linkStale_spec (d : Dev) :
    ∃ l t, d.linkStale = { d with link := l, trans := t } ∧ (∀ r ∈ l.reqs, r.stale = true) ∧ l.heldRecs = d.link.heldRecs := by
  refine ⟨_, _, rfl, fun r hr => ?_, rfl⟩
  obtain ⟨r', -, rfl⟩ := List.mem_map.mp hr
  show (r'.stale || _) = true
  cases r'.bay <;> exact Bool.or_true _

/-- The entry to `LOST` with no Bay claimed, nothing under way on a page, no Course and an empty proxy cache: the link, its requests, translations
and resources follow, and the entry is counted. -/
theorem Dev.linkLost_unclaimed (d : Dev) (e : Env) (hbays : d.bays = []) (hpages : d.pages = []) (hcourses : d.courses = []) (hproxy : d.ridge.proxy = []) :
    ∃ a l r t, d.linkLost e = { (d.count 0x2200 9 1).count 0x2402 8 0 with arbs := a, link := l, ridge := r, trans := t } ∧ l.Lost ∧
      (∀ r ∈ l.reqs, r.stale = true) ∧ l.heldRecs = d.link.heldRecs := by
  have keeps {α : Type} (g : Dev → α) (hs : ∀ (d : Dev) i j v, g (d.setOd i j v) = g d) (hf : ∀ (d : Dev) k, g { d with free := k } = g d) :
      g ((d.count 0x2200 9 1).count 0x2402 8 0) = g d :=
    (Dev.count_keeps g hs hf ..).trans (Dev.count_keeps g hs hf ..)
  have hlink := keeps Dev.link (fun _ _ _ _ => rfl) fun _ _ => rfl
  have hpages' := (keeps Dev.pages (fun _ _ _ _ => rfl) fun _ _ => rfl).trans hpages
  have hcourses' := (keeps Dev.courses (fun _ _ _ _ => rfl) fun _ _ => rfl).trans hcourses
  have hbays' : (d.count 0x2200 9 1).bays = [] := (Dev.count_keeps Dev.bays (fun _ _ _ _ => rfl) (fun _ _ => rfl) ..).trans hbays
  have hproxy' : (d.count 0x2200 9 1).ridge.proxy = [] :=
    (congrArg Ridge.proxy (Dev.count_keeps Dev.ridge (fun _ _ _ _ => rfl) (fun _ _ => rfl) ..)).trans hproxy
  rw [d.linkLost_eq, Dev.ownersLost_unclaimed _ e hbays']
  obtain ⟨r, hr⟩ := Dev.proxyLose_empty _ hproxy'
  rw [hr]
  generalize (d.count 0x2200 9 1).count 0x2402 8 0 = x at hlink hpages' hcourses'
  obtain ⟨l, t, hstale, hreqs, hrecs⟩ := Dev.linkStale_spec { x with ridge := r }
  rw [hstale, foldl_fixed _ _ _ fun n _ => Dev.dropFences_unpaged { x with ridge := r, link := l, trans := t } e n hpages']
  obtain ⟨l', hoff, hlost, hreqs', hrecs'⟩ := Dev.linkOff_spec { x with ridge := r, link := l, trans := t }
  obtain ⟨a, ha⟩ := Dev.linkMoved_idle { x with ridge := r, link := l', trans := t } e hcourses'
  rw [hoff]
  exact ⟨a, l', r, t, ha, hlost, fun q hq => hreqs q (hreqs' ▸ hq), hrecs'.trans (hrecs.trans (congrArg Link.heldRecs hlink))⟩

/-- A command from rest that ends the link, after it has brought the device to `d`. -/
theorem State.linkLoses {s : State} (hs : s.rests = true) (c : Instr) {d : Dev} (hexec : exec c s = s.go fun _ _ => d.linkLost s.env)
    (hq : d.quiet = true) (hst : d.stores = []) (hbays : d.bays = []) (hpages : d.pages = []) (hcourses : d.courses = [])
    (hproxy : d.ridge.proxy = []) (hcount : d.od 0x2200 9 + 1 < 2 ^ 32) :
    ∃ t, exec c s = .next t ∧ t.dev.link.Lost ∧ (∀ r ∈ t.dev.link.reqs, r.stale = true) ∧ t.dev.od 0x2200 9 = d.od 0x2200 9 + 1 ∧ t.dev.bays = [] ∧
      t.dev.board = d.board ∧ t.dev.boot = d.boot ∧ t.dev.out = d.out ∧ t.mem = s.mem := by
  obtain ⟨a, l, r, tr, hlost, hl, hreqs, hrecs⟩ := d.linkLost_unclaimed s.env hbays hpages hcourses hproxy
  have keeps {α : Type} (g : Dev → α) (hs : ∀ (d : Dev) i j v, g (d.setOd i j v) = g d) (hf : ∀ (d : Dev) k, g { d with free := k } = g d) :
      g ((d.count 0x2200 9 1).count 0x2402 8 0) = g d :=
    (Dev.count_keeps g hs hf ..).trans (Dev.count_keeps g hs hf ..)
  have hq' := keeps Dev.quiet (fun _ _ _ _ => rfl) fun _ _ => rfl
  have hst' := keeps Dev.stores (fun _ _ _ _ => rfl) fun _ _ => rfl
  have hbays' := keeps Dev.bays (fun _ _ _ _ => rfl) fun _ _ => rfl
  have hboard := keeps Dev.board (fun _ _ _ _ => rfl) fun _ _ => rfl
  have hboot := keeps Dev.boot (fun _ _ _ _ => rfl) fun _ _ => rfl
  have hout := keeps Dev.out (fun _ _ _ _ => rfl) fun _ _ => rfl
  have hlink := keeps Dev.link (fun _ _ _ _ => rfl) fun _ _ => rfl
  have hod : ((d.count 0x2200 9 1).count 0x2402 8 0).od 0x2200 9 = d.od 0x2200 9 + 1 := by
    rw [Dev.count_od_other _ _ (by decide) (by decide) (by decide), Dev.count_od_32 _ (by decide) hcount]
  generalize (d.count 0x2200 9 1).count 0x2402 8 0 = y at hlost hq' hst' hbays' hboard hboot hout hlink hod
  rw [hlost] at hexec
  refine ⟨_, hexec.trans (s.go_to _ _ hs rfl ?_ (hst'.trans hst)), hl, hreqs, hod, hbays'.trans hbays, hboard, hboot, hout, rfl⟩
  exact Dev.quiet_of_parts (hq'.trans hq) rfl rfl rfl rfl rfl (hrecs.trans (congrArg Link.heldRecs hlink.symm)) rfl rfl rfl

/-! ### The host link's own events -/

theorem Dev.linkUp_io (d : Dev) (e : Env) (w r : Nat) (flit cxl : Bool) (hcourses : d.courses = []) (hcxl : bit d.link.cxl 1 = false) :
    ∃ a, d.linkUp e w r flit cxl = { d with
      arbs := a
      out := d.out ++ d.link.held
      link := { d.link with
        st := .up, held := [], width := trainWidth w d.link.limW, rate := trainRate r d.link.limR flit, flit := flit
        cxl := if cxl && flit && decide (32 ≤ trainRate r d.link.limR flit) then 7 else 1 } } := by
  unfold Dev.linkUp
  dsimp only
  rw [if_neg (by rw [hcxl]; exact Bool.false_ne_true), Dev.foldl_send]
  exact Dev.linkMoved_idle _ e hcourses

section
variable {s : State} (hs : s.rests = true) (hcourses : s.dev.courses = []) (hcxl : bit s.dev.link.cxl 1 = false)
include hs hcourses hcxl

theorem State.linkComesUp (w r : Nat) (flit cxl : Bool) (c : Instr) (hexec : exec c s = s.go fun _ _ => s.dev.linkUp s.env w r flit cxl) :
    ∃ t, exec c s = .next t ∧ t.dev.out = s.dev.out ++ s.dev.link.held ∧ t.mem = s.mem ∧ t.dev.bays = s.dev.bays ∧
      t.dev.link = { s.dev.link with
        st := .up, held := [], width := trainWidth w s.dev.link.limW, rate := trainRate r s.dev.link.limR flit, flit := flit
        cxl := if cxl && flit && decide (32 ≤ trainRate r s.dev.link.limR flit) then 7 else 1 } := by
  obtain ⟨a, ha⟩ := s.dev.linkUp_io s.env w r flit cxl hcourses hcxl
  rw [ha] at hexec
  exact ⟨_, hexec.trans (s.go_to _ _ hs rfl (State.rests_quiet hs) (State.rests_stores hs)), rfl, rfl, rfl, rfl⟩

end

theorem Dev.linkRecover_io (d : Dev) (e : Env) (hup : d.link.st = .up) (hcourses : d.courses = []) (hcount : d.od 0x2200 0xA + 1 < 2 ^ 32) :
    ∃ a, d.linkRecover e = { d.setOd 0x2200 0xA (d.od 0x2200 0xA + 1) with arbs := a, link := { d.link with st := .recovering } } := by
  have hrec : d.linkRecover e = ((d.setLink { d.link with st := .recovering }).count 0x2200 0xA 1).linkMoved e := if_neg (by rw [hup]; decide)
  have hcounted : (d.setLink { d.link with st := .recovering }).count 0x2200 0xA 1 =
      { d.setOd 0x2200 0xA (d.od 0x2200 0xA + 1) with link := { d.link with st := .recovering } } := Dev.count_of_lt _ _ _ _ hcount
  rw [hrec, hcounted]
  exact Dev.linkMoved_idle _ e hcourses

theorem linkRecoveryEnter_counts (s : State) (hs : s.rests = true) (hup : s.dev.link.st = .up) (hcourses : s.dev.courses = [])
    (hcount : s.dev.od 0x2200 0xA + 1 < 2 ^ 32) :
    ∃ t, exec .linkRecoveryEnter s = .next t ∧ t.dev.link = { s.dev.link with st := .recovering } ∧ t.dev.od 0x2200 0xA = s.dev.od 0x2200 0xA + 1 ∧
      t.dev.bays = s.dev.bays ∧ t.dev.out = s.dev.out ∧ t.mem = s.mem := by
  obtain ⟨a, ha⟩ := s.dev.linkRecover_io s.env hup hcourses hcount
  exact ⟨_, State.go_to s (fun e d => d.linkRecover e) _ hs ha (State.rests_quiet hs) (State.rests_stores hs), rfl, Dev.setOd_od .., rfl, rfl, rfl⟩

theorem Dev.linkEnd_live (d : Dev) (e : Env) (h : d.link.st ≠ .dark) (h' : d.link.st ≠ .lost) : d.linkEnd e = d.linkLost e := by
  unfold Dev.linkEnd
  split
  · rfl
  · rfl
  · rfl
  · next h1 => exact absurd h1 h
  · next h1 => exact absurd h1 h'

theorem exec_linkLoss (c : Instr) (s : State) (hc : c = .dlDown ∨ c = .hotResetReceived ∨ c = .linkDisable) (hs : s.rests = true)
    (hst : s.dev.link.st = .up ∨ s.dev.link.st = .recovering) : exec c s = s.go fun _ _ => s.dev.linkLost s.env := by
  have hlive : s.dev.link.st ≠ .dark ∧ s.dev.link.st ≠ .lost := by
    obtain h | h := hst <;> rw [h] <;> decide
  have hloss : s.dev.lossNow s.env c = s.dev.linkLost s.env := by
    obtain rfl | rfl | rfl := hc
    · refine if_pos ?_
      obtain h | h := hst <;> rw [h] <;> rfl
    · exact s.dev.linkEnd_live s.env hlive.1 hlive.2
    · exact s.dev.linkEnd_live s.env hlive.1 hlive.2
  have hexec : exec c s = s.go (Dev.turn c fun e d => d.lossNow e c) := by obtain rfl | rfl | rfl := hc <;> rfl
  rw [hexec]
  exact s.go_congr (s.rests_calm hs) ((s.dev.turn_rests s.env c _ (s.rests_ahead hs)).trans hloss)

section
variable {s : State} (hs : s.rests = true) (w r : Nat) (flit cxl : Bool)
include hs

theorem exec_dlUp (hst : s.dev.link.st = .training) : exec (.dlUp w r flit cxl) s = s.go fun _ _ => s.dev.linkUp s.env w r flit cxl :=
  s.go_congr (f := fun e d => if d.link.st == .training then d.linkUp e w r flit cxl else d) (s.rests_calm hs) (if_pos (by rw [hst]; rfl))

theorem exec_linkRecoveryExit (hst : s.dev.link.st = .recovering) :
    exec (.linkRecoveryExit w r flit cxl) s = s.go fun _ _ => s.dev.linkUp s.env w r flit cxl :=
  s.go_congr (f := fun e d => if d.link.st == .recovering then d.linkUp e w r flit cxl else d) (s.rests_calm hs) (if_pos (by rw [hst]; rfl))

end

theorem Dev.detect_lost (d : Dev) (hst : d.link.st = .lost) (hdet : d.mayDetect = true) :
    (if d.link.st == .lost then d.detect else d) = { d with link := { d.link with st := .training, limW := d.od 0x2200 7, limR := d.od 0x2200 8 } } := by
  rw [if_pos (by rw [hst]; rfl)]
  exact if_pos (by rw [hdet, hst]; rfl)

theorem Dev.dlDown_dark (d : Dev) (e : Env) (ha : d.ahead = []) (hst : d.link.st = .dark) :
    Dev.turn .dlDown (fun e d => d.lossNow e .dlDown) e d = d := by
  rw [Dev.turn_rests _ _ _ _ ha]
  exact if_neg (by rw [hst]; decide)

/-- Settles O24: a link without a claimed Bay, without a Course and with an empty proxy cache moves on its own. -/
theorem linkStates : Obligations.LinkStates := by
  unfold Obligations.LinkStates
  refine ⟨fun w r flit cxl s hs hst hcourses hcxl => ?_, linkRecoveryEnter_counts, fun w r flit cxl s hs hst hcourses hcxl => ?_,
    fun c s hc hs hst hbays hpages hcourses hproxy hcount => ?_, fun s hs hst hdet => ?_, fun s hs hst => ?_⟩
  · exact State.linkComesUp hs hcourses hcxl w r flit cxl _ (exec_dlUp hs w r flit cxl hst)
  · obtain ⟨t, hgo, hout, -, hbays, hlink⟩ := State.linkComesUp hs hcourses hcxl w r flit cxl _ (exec_linkRecoveryExit hs w r flit cxl hst)
    refine ⟨t, hgo, hout, ?_, ?_, ?_, ?_, hbays⟩ <;> rw [hlink]
  · obtain ⟨t, hgo, hl, hreqs, hod, hbays', -, -, hout, hmem⟩ := State.linkLoses hs c (exec_linkLoss c s hc hs hst) (State.rests_quiet hs)
      (State.rests_stores hs) hbays hpages hcourses hproxy hcount
    exact ⟨t, hgo, hl.st, hod, hl.vfs, hl.cxl, hl.flit, hl.held, hl.bme, hl.ats, hl.pasid, hl.ide, hl.hdm, hbays', hreqs, hout, hmem⟩
  · exact State.go_to s (fun _ d => if d.link.st == .lost then d.detect else d) _ hs (s.dev.detect_lost hst hdet) (State.rests_quiet hs)
      (State.rests_stores hs)
  · exact State.go_to s (Dev.turn .dlDown fun e d => d.lossNow e .dlDown) s.dev hs (s.dev.dlDown_dark s.env (State.rests_ahead hs) hst)
      (State.rests_quiet hs) (State.rests_stores hs)

/-! ### SMBus -/

theorem smbTemp_eq (t : Int) : smbTemp t = BitVec.ofInt 8 (t / 8) := by
  refine BitVec.eq_of_toNat_eq ?_
  rw [BitVec.toNat_ofInt]
  show (t / 8 % (2 ^ 8 : Int)).toNat % 2 ^ 8 = _
  omega

/-- Where a read of the status word alone is due, a command ends with its note. -/
theorem Dev.settle_smb (d : Dev) (e : Env) (h : ({ d with board := { d.board with smbSeen := 0 } } : Dev).quiet = true) : d.settle e = d.noteSmb := by
  obtain ⟨skies, places, faults, ckpts, mirrors, recs, ports, -, released⟩ := (Dev.quiet_iff _).mp h
  rw [Dev.settle, d.flushSkies_none e skies, d.flushPlaces_none e places, d.settleFaults_none e faults, d.flushCkpts_none e ckpts,
    d.flushMirrors_none e mirrors, d.flushRecs_none e recs, d.flushPaused_still e ports, d.askAgain_none e released, d.stampPorts_still e ports]

/-- A device of which the status bits that stand have been read. -/
def Dev.statusSeen (d : Dev) : Dev := { d with board := { d.board with smbSeen := d.smbStatus } }

theorem Dev.noteSmb_statusSeen (d : Dev) : d.statusSeen.noteSmb = d.statusSeen := by
  unfold Dev.noteSmb
  split
  · rfl
  · have hand : d.statusSeen.board.smbSeen &&& d.statusSeen.smbStatus = d.smbStatus := Nat.and_self _
    rw [hand]
    rfl

theorem Dev.statusSeen_alert (d : Dev) : d.statusSeen.smbAlert = false := by
  refine List.any_eq_false.mpr fun i _ => ?_
  show ¬ (bit d.smbStatus i && !(bit d.smbStatus i)) = true
  simp

theorem Dev.smbRead_of {d : Dev} {code : Nat} {n bs : List Byte} (hh : d.smbHere = true) (hc : d.smbCmd code = some (n, bs)) :
    d.smbRead code = d.send (.smb bs (([0xC4, BitVec.ofNat 8 code, 0xC5] ++ n ++ bs).foldl pecByte 0)) := by
  unfold Dev.smbRead
  rw [hh, hc]

section
variable {s : State} (hs : s.rests = true)
include hs

theorem State.smbReads {c : Instr} {code : Nat} {n bs : List Byte} (hexec : exec c s = s.go fun _ d => d.smbRead code) (hh : s.dev.smbHere = true)
    (hc : s.dev.smbCmd code = some (n, bs)) :
    exec c s = .next { s with dev := s.dev.send (.smb bs (([0xC4, BitVec.ofNat 8 code, 0xC5] ++ n ++ bs).foldl pecByte 0)) } :=
  hexec.trans (s.go_to _ _ hs (Dev.smbRead_of hh hc) (State.rests_quiet hs) (State.rests_stores hs))

theorem smbReadStatus_notes (hh : s.dev.smbHere = true) :
    ∃ t, exec .smbReadStatus s = .next t ∧
      t.dev.out = s.dev.out ++ [.smb (leBytes 2 s.dev.smbStatus) (([0xC4, 3, 0xC5] ++ leBytes 2 s.dev.smbStatus).foldl pecByte 0)] ∧
      t.dev.smbAlert = false ∧ t.dev.smbStatus = s.dev.smbStatus := by
  obtain ⟨-, -, -, -, -, -, -, hzero, -⟩ := (Dev.quiet_iff _).mp (State.rests_quiet hs)
  have hseen : s.dev.board.smbSeen ||| s.dev.smbStatus = s.dev.smbStatus := by rw [hzero, Nat.zero_or]
  have hread : s.dev.smbRead 3 = s.dev.send (.smb (leBytes 2 s.dev.smbStatus) (([0xC4, 3, 0xC5] ++ leBytes 2 s.dev.smbStatus).foldl pecByte 0)) :=
    Dev.smbRead_of (n := []) hh rfl
  have hsettle (o : Out) : (s.dev.send o).statusSeen.settle s.env = (s.dev.send o).statusSeen := by
    rw [Dev.settle_smb (s.dev.send o).statusSeen _ (Dev.quiet_of_parts (State.rests_quiet hs) rfl rfl rfl rfl rfl rfl rfl hzero.symm rfl), Dev.noteSmb_statusSeen]
  have hexec : exec .smbReadStatus s = s.go fun _ _ => (s.dev.smbRead 3).statusSeen := by
    show execSmbReadStatus s = _
    unfold execSmbReadStatus
    refine s.go_congr (s.rests_calm hs) ?_
    dsimp only
    rw [if_pos hh, hseen, hread]
    rfl
  have hgo : exec .smbReadStatus s = .next (s.commit (s.dev.smbRead 3).statusSeen) := by
    rw [hexec, hread]
    exact congrArg (fun d => Host.Outcome.next (s.commit d)) (hsettle _)
  refine ⟨_, hgo, ?_, Dev.statusSeen_alert _, ?_⟩
  · rw [hread]
    rfl
  · rw [hread]
    rfl

end

/-! ### The Eave and `PERST_N` -/

section
variable {s : State} (hs : s.rests = true) (hmode : s.dev.attachMode ≠ 1)
include hs hmode

theorem exec_perstNFall_linked : exec .perstNFall s = s.go fun _ _ => ({ s.dev with board := { s.dev.board with perst := false } } : Dev).linkEnd s.env := by
  refine s.go_congr (f := Dev.turn .perstNFall fun e d => d.lossNow e .perstNFall) (s.rests_calm hs) ?_
  rw [Dev.turn_rests _ _ _ _ (State.rests_ahead hs)]
  exact if_neg hmode

theorem eaveReady_trains (hpg : s.dev.board.mainPg = true) (he : s.dev.board.eaveReady = false) (hboot : s.dev.boot.st = .training)
    (hp : s.dev.board.perst = true) (hl : s.dev.link.st = .dark) :
    exec .eaveReady s = .next { s with dev := { s.dev with
      board := { s.dev.board with eaveReady := true }, link := { s.dev.link with st := .training, limW := s.dev.od 0x2200 7, limR := s.dev.od 0x2200 8 } } } := by
  show execEaveReady s = _
  unfold execEaveReady
  refine s.go_to _ _ hs ?_ (State.rests_quiet hs) (State.rests_stores hs)
  rw [if_neg (by rw [decide_eq_false hmode, hpg, he, hboot]; decide)]
  refine if_pos ?_
  show (s.dev.board.perst && true && s.dev.attachMode != 1 && (s.dev.link.st == .dark || s.dev.link.st == .lost)) = true
  rw [hp, hl, bne_iff_ne.mpr hmode]
  rfl

theorem perstNRise_trains (he : s.dev.board.eaveReady = true) (hboot : s.dev.boot.st ≠ .reset) (hp : s.dev.board.perst = false) (hl : s.dev.link.st = .lost) :
    exec .perstNRise s = .next { s with dev := { s.dev with
      board := { s.dev.board with perst := true }, link := { s.dev.link with st := .training, limW := s.dev.od 0x2200 7, limR := s.dev.od 0x2200 8 } } } := by
  show execPerstNRise s = _
  unfold execPerstNRise
  refine s.go_to _ _ hs ?_ (State.rests_quiet hs) (State.rests_stores hs)
  rw [if_neg (by rw [hp, beq_eq_false_iff_ne.mpr hboot]; decide)]
  refine if_pos ?_
  show (true && s.dev.board.eaveReady && s.dev.attachMode != 1 && (s.dev.link.st == .dark || s.dev.link.st == .lost)) = true
  rw [he, hl, bne_iff_ne.mpr hmode]
  rfl

theorem perstNFall_unlinked (hl : s.dev.link.st = .dark ∨ s.dev.link.st = .lost) :
    exec .perstNFall s = .next { s with dev := { s.dev with board := { s.dev.board with perst := false } } } := by
  rw [exec_perstNFall_linked hs hmode]
  refine s.go_to _ _ hs ?_ (State.rests_quiet hs) (State.rests_stores hs)
  show Dev.linkEnd _ s.env = _
  unfold Dev.linkEnd
  obtain h | h := hl <;> dsimp only <;> rw [h]

theorem perstNFall_loses (hd : s.dev.link.st ≠ .dark) (hl : s.dev.link.st ≠ .lost) (hbays : s.dev.bays = []) (hpages : s.dev.pages = [])
    (hcourses : s.dev.courses = []) (hproxy : s.dev.ridge.proxy = []) (hcount : s.dev.od 0x2200 9 + 1 < 2 ^ 32) :
    ∃ t, exec .perstNFall s = .next t ∧ t.dev.link.st = .lost ∧ t.dev.board.perst = false ∧ t.dev.boot = s.dev.boot ∧ t.mem = s.mem := by
  have hexec := exec_perstNFall_linked hs hmode
  rw [Dev.linkEnd_live { s.dev with board := { s.dev.board with perst := false } } s.env hd hl] at hexec
  obtain ⟨t, hgo, hlost, -, -, -, hboard, hboot, -, hmem⟩ :=
    State.linkLoses hs .perstNFall hexec (State.rests_quiet hs) (State.rests_stores hs) hbays hpages hcourses hproxy hcount
  exact ⟨t, hgo, hlost.st, by rw [hboard], hboot, hmem⟩

end

theorem perstNFall_unattached (s : State) (hs : s.rests = true) (hmode : s.dev.attachMode = 1) :
    exec .perstNFall s = .next { s with dev := { s.dev with board := { s.dev.board with perst := false } } } := by
  refine State.go_to s (Dev.turn .perstNFall fun e d => d.lossNow e .perstNFall) _ hs ?_ (State.rests_quiet hs) (State.rests_stores hs)
  rw [Dev.turn_rests _ _ _ _ (State.rests_ahead hs)]
  exact if_pos hmode

theorem smbReadStatus_absent (s : State) (hs : s.rests = true) (hh : s.dev.smbHere = false) : exec .smbReadStatus s = .next s := by
  have hread : s.dev.smbRead 3 = s.dev := by
    unfold Dev.smbRead
    rw [hh]
  show execSmbReadStatus s = _
  unfold execSmbReadStatus
  refine s.go_to _ s.dev hs ?_ (State.rests_quiet hs) (State.rests_stores hs)
  dsimp only
  rw [if_neg (by rw [hh]; decide), hread]

/-- Settles O12, clause by clause. -/
theorem edgeOfBoard : Obligations.EdgeOfBoard := by
  unfold Obligations.EdgeOfBoard
  refine ⟨fun s hs hmode hpg he hboot hp hl => eaveReady_trains hs hmode hpg he hboot hp hl,
    fun s hs hmode he hboot hp hl => perstNRise_trains hs hmode he hboot hp hl, perstNFall_unattached,
    fun s hs hmode hl => perstNFall_unlinked hs hmode hl,
    fun s hs hmode hd hl hbays hpages hcourses hproxy hcount => perstNFall_loses hs hmode hd hl hbays hpages hcourses hproxy hcount,
    fun s hs hh => ⟨?_, ?_, fun k => ?_, smbReadStatus_notes hs hh⟩, smbReadStatus_absent⟩
  · rw [← smbTemp_eq]
    exact State.smbReads (code := 1) (n := []) hs rfl hh rfl
  · rw [← smbTemp_eq]
    exact State.smbReads (code := 2) (n := []) hs rfl hh rfl
  · refine State.smbReads (code := 0x20 + k) (n := [32]) hs rfl hh ?_
    unfold Dev.smbCmd
    rw [if_neg (by omega), if_neg (by omega), if_neg (by omega), if_pos (by simp; omega), Nat.add_sub_cancel_left]

end Sys2Proof.Machine
end

section
/-! PROOF. The arbiters (R401, R407, R419): O40. -/
namespace Sys2Proof.Machine

/-- Every resource of a list takes its derated capacity. -/
def Dev.rederated (d : Dev) (l : List Nat) : Dev := l.foldl (fun d r => d.setArb r { d.arb r with derated := d.resDerate r }) d

theorem Dev.arbSteps_idle (e : Env) (l : List Nat) (d : Dev) (h : d.courses = []) : l.foldl (fun d r => d.arbStep e r) d = d.rederated l := by
  unfold Dev.rederated
  induction l generalizing d with
  | nil => rfl
  | cons r l ih =>
    rw [List.foldl_cons, List.foldl_cons, d.arbStep_idle e r h]
    exact ih _ h

/-- The other parts of the device, by which the capacities are derated, stand. -/
theorem Dev.rederated_keeps {α : Type} (g : Dev → α) (h : ∀ (d : Dev) r x, g (d.setArb r x) = g d) (d : Dev) (l : List Nat) : g (d.rederated l) = g d :=
  Dev.foldl_keeps g (fun d _ => h d _ _) l d

theorem Dev.arb_setArb (d : Dev) (r j : Nat) (x : Arb) : (d.setArb r x).arb j = if j = r then x else d.arb j :=
  smGet_set ({} : Arb) d.arbs r j x

theorem Dev.rederated_arb (d : Dev) (l : List Nat) (j : Nat) :
    (d.rederated l).arb j = if j ∈ l then { d.arb j with derated := d.resDerate j } else d.arb j := by
  unfold Dev.rederated
  induction l generalizing d with
  | nil => rfl
  | cons r l ih =>
    rw [List.foldl_cons, ih, Dev.arb_setArb]
    have hsame (x : Arb) : (d.setArb r x).resDerate j = d.resDerate j := rfl
    rw [hsame]
    by_cases hj : j = r
    · subst hj
      simp
    · simp [hj]

theorem derateRecompute_derates (ppm : Nat) (s : State) (hs : s.rests = true) (ht : s.time % 1000 = 0) (hppm : ppm ≤ 955000) (hc : s.dev.courses = []) :
    let d : Dev := { s.dev with board := { s.dev.board with eccRetryPpm := ppm } }
    ∃ t, exec (.derateRecompute ppm) s = .next t ∧ t.dev.board = d.board ∧ t.mem = s.mem ∧
      (∀ r, r < 59 → t.dev.arb r = { s.dev.arb r with derated := d.resDerate r }) ∧ ∀ r, 59 ≤ r → t.dev.arb r = s.dev.arb r := by
  intro d
  have hgate : ¬ (s.env.time % 1000 != 0 || decide (955000 < ppm)) = true := by
    rw [show s.env.time % 1000 = 0 from ht]
    simp only [bne_self_eq_false, Bool.false_or, decide_eq_true_eq]
    omega
  have hexec : exec (.derateRecompute ppm) s = s.go fun _ _ => d.rederated (List.range 59) := by
    show execDerateRecompute ppm s = _
    unfold execDerateRecompute
    refine s.go_congr (s.rests_calm hs) ((if_neg hgate).trans ?_)
    exact Dev.arbSteps_idle s.env _ d hc
  have hq : (d.rederated (List.range 59)).quiet = true := (d.rederated_keeps Dev.quiet (fun _ _ _ => rfl) _).trans (State.rests_quiet hs)
  have hst : (d.rederated (List.range 59)).stores = [] := (d.rederated_keeps Dev.stores (fun _ _ _ => rfl) _).trans (State.rests_stores hs)
  have harb := d.rederated_arb (List.range 59)
  have hboard := d.rederated_keeps Dev.board (fun _ _ _ => rfl) (List.range 59)
  generalize d.rederated (List.range 59) = x at hexec hq hst harb hboard
  refine ⟨_, hexec.trans (s.go_to _ _ hs rfl hq hst), hboard, rfl, fun r hr => ?_, fun r hr => ?_⟩
  · exact (harb r).trans (if_pos (List.mem_range.mpr hr))
  · exact (harb r).trans (if_neg fun h => absurd (List.mem_range.mp h) (by omega))

theorem Dev.arbJudge_none (d : Dev) (e : Env) (r : Nat) (h : (d.courses.any fun c => d.projectsMiss r c.2) = false) : d.arbJudge e r = d := by
  unfold Dev.arbJudge
  exact if_pos (by rw [h]; rfl)

/-- Settles O40. -/
theorem arbiters : Obligations.Arbiters := by
  unfold Obligations.Arbiters
  refine ⟨derateRecompute_derates, fun r s hs hp ht hmiss => ?_⟩
  show execProportionalServiceEnd r s = _
  unfold execProportionalServiceEnd
  refine s.go_to _ _ hs ?_ (State.rests_quiet hs) (State.rests_stores hs)
  dsimp only
  rw [s.dev.arbJudge_none s.env r hmiss]
  exact if_pos (by rw [hp, Bool.true_and]; exact decide_eq_true ht)

end Sys2Proof.Machine
end

section
/-! PROOF. The operations of a core (R425 to R437): O42, O43, O44. -/
namespace Sys2Proof.Machine

/-! ### A core at its next operation -/

/-- What `State.atOp` says. -/
structure State.AtOp (s : State) (c : Nat) (r : RunRec) (op : Nat) (x : List Byte) : Prop where
  rests : s.rests = true
  clean : s.poison = []
  run : s.dev.runOf c = some r
  st : (s.dev.core c).st = .running
  awake : s.dev.halted (.core c) = false
  inside : (s.dev.core c).pc < r.ops
  here : s.bytes (localBase c + 32 * (s.dev.core c).pc) 32 = x
  op_ : cOp x = op
  allowed : (s.dev.strict r.bay && cFlags x == 1) = false

theorem State.atOp_iff {s : State} {c : Nat} {r : RunRec} {op : Nat} {x : List Byte} (h : s.atOp c r op x = true) : s.AtOp c r op x := by
  simp only [State.atOp, Bool.and_eq_true, List.isEmpty_iff, decide_eq_true_eq, beq_iff_eq, Bool.not_eq_true', Nat.blt_eq, and_assoc] at h
  obtain ⟨h1, h2, h3, h4, h5, h6, h7, h8, h9⟩ := h
  exact ⟨h1, h2, h3, h4, h5, h6, h7, h8, h9⟩

theorem State.byte_env (s : State) {d : Dev} (h : d.stores = []) (a : Nat) : d.byte s.env a = s.byte a := by
  unfold Dev.byte
  rw [h]
  rfl

theorem State.bytes_env (s : State) {d : Dev} (h : d.stores = []) (a n : Nat) : d.bytes s.env a n = s.bytes a n :=
  List.map_congr_left fun i _ => s.byte_env h (a + i)

theorem State.poisoned_env (s : State) {d : Dev} (h : d.stores = []) (hp : s.poison = []) (l : Nat) : d.poisoned s.env l = false := by
  unfold Dev.poisoned
  rw [h]
  show s.poison.contains l = false
  rw [hp]
  rfl

theorem State.lsRead_env (s : State) {d : Dev} (h : d.stores = []) (hp : s.poison = []) (c off len : Nat) :
    d.lsRead s.env c off len = (s.bytes (localBase c + off) len, false) := by
  unfold Dev.lsRead
  rw [s.bytes_env h, List.any_eq_false.mpr fun p _ => by rw [s.poisoned_env h hp]; exact Bool.false_ne_true]

section
variable {s : State} {c op : Nat} {r : RunRec} {x : List Byte} (h : s.AtOp c r op x)
include h

theorem State.AtOp.read (off len : Nat) : s.dev.lsRead s.env c off len = (s.bytes (localBase c + off) len, false) :=
  s.lsRead_env (State.rests_stores h.rests) h.clean c off len

/-- The core performs the operation. -/
theorem State.AtOp.coreStep {sel : Nat → Bool} (hsel : sel (cA x) = true) (ecc : Bool) : s.dev.coreStep s.env c op sel ecc = s.dev.coreOp s.env c r x ecc := by
  unfold Dev.coreStep
  rw [h.run]
  dsimp only
  have hgo : ¬ ((s.dev.core c).st != .running || s.dev.halted (.core c)) = true := by rw [h.st, h.awake]; decide
  rw [if_neg hgo, if_neg (Nat.not_le.mpr h.inside), h.read, h.here]
  exact if_pos (by rw [h.op_, hsel, decide_eq_true rfl]; rfl)

/-- None of its operands is marked uncorrectable. -/
theorem State.AtOp.sound : ((opUse x).reads.any fun u => (s.dev.lsRead s.env c u.2.1 u.2.2).2) = false :=
  List.any_eq_false.mpr fun u _ => by rw [h.read]; exact Bool.false_ne_true

theorem State.AtOp.ordered : ¬ (s.dev.strict r.bay && decide (cFlags x = 1)) = true := by
  have := h.allowed
  rw [← Bool.beq_eq_decide_eq, this]
  exact Bool.false_ne_true

end

/-! ### What a core's operation comes to -/

section
variable {s : State} {c op : Nat} {r : RunRec} {x : List Byte} (h : s.AtOp c r op x)
include h

/-- A row that is an operation of a core answers what the operation makes of the device. -/
theorem State.AtOp.exec {i : Instr} {sel : Nat → Bool} {ecc : Bool} {d : Dev} (hi : Machine.exec i s = s.go fun e d => d.coreStep e c op sel ecc)
    (hsel : sel (cA x) = true) (hd : s.dev.coreOp s.env c r x ecc = d) : Machine.exec i s = s.go fun _ _ => d :=
  hi.trans (s.go_congr (s.rests_calm h.rests) ((h.coreStep hsel ecc).trans hd))

/-- The same, of an operation on a Spar, which lets cores of lower number go first. -/
theorem State.AtOp.exec_turn {i j : Instr} {a : Nat} {d : Dev} (hi : Machine.exec i s = s.go (Dev.turn j fun e d => d.coreSparStep e c a)) (hop : op = 8)
    (ha : cA x = a) (hd : s.dev.coreOp s.env c r x true = d) : Machine.exec i s = s.go fun _ _ => d := by
  subst hop
  refine hi.trans (s.go_congr (s.rests_calm h.rests) ?_)
  rw [Dev.turn_rests _ _ _ _ (State.rests_ahead h.rests)]
  have hstep : s.dev.coreStep s.env c 8 (· == a) true = d := (h.coreStep (by rw [ha]; exact beq_self_eq_true a) true).trans hd
  unfold Dev.coreSparStep
  split
  · rw [Dev.leadCores_calm _ _ _ _ (s.rests_calm h.rests)]
    exact hstep
  · exact hstep

/-- A core that goes on has done so on a device where nothing is due. -/
theorem State.AtOp.goes {i : Instr} {d : Dev} (hi : Machine.exec i s = s.go fun _ _ => d) (hq : d.quiet = true) (hst : d.stores = []) :
    Machine.exec i s = .next { s with dev := d } :=
  hi.trans (s.go_to _ _ h.rests rfl hq hst)

end

/-- A write of a core's local store is a store, and the lines that it covers are clean. -/
theorem Dev.lsWrite_stores (c off : Nat) (bs : List Byte) :
    ∃ l, (∀ d : Dev, d.lsWrite c off bs = { d with stores := l ++ .write (localBase c + off) bs :: d.stores }) ∧ ∀ o ∈ l, ∃ a, o = .clean a := by
  unfold Dev.lsWrite
  generalize (lineParts (localBase c + off) bs.length).filter _ = parts
  suffices ∃ l, (∀ d : Dev, parts.foldl (fun d p => d.store (.clean p.1)) d = { d with stores := l ++ d.stores }) ∧ ∀ o ∈ l, ∃ a, o = MemOp.clean a by
    obtain ⟨l, hl, hclean⟩ := this
    exact ⟨l, fun d => hl (d.poke (localBase c + off) bs), hclean⟩
  induction parts with
  | nil => exact ⟨[], fun d => rfl, fun o ho => absurd ho List.not_mem_nil⟩
  | cons p parts ih =>
    obtain ⟨l, hl, hclean⟩ := ih
    refine ⟨l ++ [.clean p.1], fun d => ?_, fun o ho => ?_⟩
    · rw [List.foldl_cons, hl, List.append_assoc]
      rfl
    · obtain ho | ho := List.mem_append.mp ho
      · exact hclean o ho
      · exact ⟨_, List.mem_singleton.mp ho⟩

/-- What clears poison writes no byte. -/
theorem foldr_clean (l : List MemOp) (h : ∀ o ∈ l, ∃ a, o = .clean a) (m : List Host.Cell) : l.foldr (fun o m => o.onMem m) m = m := by
  induction l with
  | nil => rfl
  | cons o l ih =>
    obtain ⟨a, rfl⟩ := h o List.mem_cons_self
    exact ih fun o ho => h o (List.mem_cons_of_mem _ ho)

/-- A device with one write to its memory, and lines that it cleans. -/
theorem State.wrote_commit (s : State) {d : Dev} {l : List MemOp} {a : Nat} {bs : List Byte} (hd : d.stores = l ++ [.write a bs])
    (hl : ∀ o ∈ l, ∃ a, o = .clean a) : s.wrote (s.commit d) a bs := by
  intro y
  rw [State.byte_commit, hd, List.foldr_append, foldr_clean l hl]
  exact MemOp.write_byte s.mem a bs y

/-- A core's write of its local store, with the device else as `d` has it, and the core's next operation. -/
theorem State.AtOp.writes {s : State} {c op : Nat} {r : RunRec} {x : List Byte} (h : s.AtOp c r op x) {i : Instr} {d : Dev} {off : Nat} {bs : List Byte}
    (hi : Machine.exec i s = s.go fun _ _ => (d.lsWrite c off bs).stepped c) (hq : d.quiet = true) (hst : d.stores = []) :
    ∃ t, Machine.exec i s = .next t ∧ t.dev = d.stepped c ∧ s.wrote t (localBase c + off) bs := by
  obtain ⟨l, hl, hclean⟩ := Dev.lsWrite_stores c off bs
  rw [hl, hst] at hi
  refine ⟨_, hi.trans (s.go_done _ _ h.rests rfl hq), ?_, s.wrote_commit (l := l) rfl hclean⟩
  show ({ d.stepped c with stores := [] } : Dev) = d.stepped c
  rw [← hst]
  rfl

/-! ### The end of a command -/

theorem Dev.queue_setQueue (d : Dev) (n q : Nat) (x : Queue) : (d.setQueue n q x).queue n q = x := smGet_set_same ({} : Queue) ..

theorem Dev.setQueue_setQueue (d : Dev) (n q : Nat) (x y : Queue) : (d.setQueue n q x).setQueue n q y = d.setQueue n q y :=
  congrArg (fun m => ({ d with queues := m } : Dev)) (smSet_smSet ({} : Queue) ..)

theorem Dev.dropCmd_alone (d : Dev) {n q : Nat} {k : Cmd} {p : W32} (hq : (d.queue n q).cmds = [k]) (hp : k.pos = p) : d.dropCmd n q p = d.served n q := by
  have hnone : (d.queue n q).cmds.filter (·.pos != p) = [] := by rw [hq]; simp [hp]
  unfold Dev.dropCmd Dev.served
  dsimp only
  rw [hnone]
  unfold Dev.moveFr
  dsimp only
  rw [Dev.queue_setQueue, Dev.setQueue_setQueue]
  have hstrict (x : Queue) : (d.setQueue n q x).strict n = d.strict n := rfl
  rw [hstrict]
  cases d.strict n <;> cases (d.queue n q).job <;> rfl

/-- A command that stands alone, and asks for no record, completes: the queue has served it. -/
theorem Dev.endCmd_alone (d : Dev) (e : Env) {n q : Nat} {k : Cmd} {p : W32} (detail : Nat) (b : Blame) (hq : (d.queue n q).cmds = [k]) (hp : k.pos = p)
    (hf : k.flag 0 = false) : d.endCmd e n q p .ok detail b = (d.served n q).runDone n k := by
  have hfind : (d.queue n q).cmd? p = some k := by
    unfold Queue.cmd?
    rw [hq]
    exact List.find?_cons_of_pos (by simp [hp])
  unfold Dev.endCmd
  rw [hfind]
  dsimp only
  rw [if_pos rfl, if_neg (by rw [hf]; decide), d.dropCmd_alone hq hp]

/-! ### A RUN of a Bay that there is not -/

/-- A RUN whose Bay number is that of the fabric's own entries. -/
def strayRun : RunRec := { id := 0, bay := 0x1F0, q := 0, p := 0, space := 0, ops := 1, cores := [0] }

/-- The command of that RUN. -/
def strayCmd : Cmd := { pos := 0, bytes := [0x20], ph := .running }

/-- Core 0 at the HALT of that RUN, and the entry that the RUN would count in, of one byte, at its largest value. -/
def strayState : State :=
  { servingState with dev := ({ servingState.dev with
      cores := [(0, { st := .running, run := some 0 })]
      runs := [strayRun]
      queues := [(8 * 0x1F0, { st := .active, cmds := [strayCmd] })] } : Dev).setOd 0x2A00 5 255 }

theorem State.AtOp.coreOp_halt {s : State} {c : Nat} {r : RunRec} {x : List Byte} (h : s.AtOp c r 0 x) :
    s.dev.coreOp s.env c r x true = s.dev.coreHalt s.env c r := by
  unfold Dev.coreOp
  dsimp only
  rw [h.sound, if_neg Bool.false_ne_true, if_neg h.ordered, h.op_]
  rfl

/-- A RUN that no stage holds ends, and its command completes on a device whose queues stand. -/
theorem Dev.runEnd_queues (d : Dev) (e : Env) {r : RunRec} (hs : r.stage = none) :
    ∃ x : Dev, d.runEnd e r .ok 0 .own = x.endCmd e r.bay r.q r.p .ok 0 .own ∧ x.queues = d.queues ∧ x.quiet = d.quiet ∧ x.stores = d.stores := by
  unfold Dev.runEnd
  dsimp only
  rw [hs, if_neg (by decide)]
  exact ⟨_, rfl, rfl, rfl, rfl⟩

theorem Dev.coreHalt_alone (d : Dev) (e : Env) {c : Nat} {r : RunRec} (hc : r.cores = [c]) (he : r.ended = []) (hs : r.stage = none) :
    ∃ x : Dev, d.coreHalt e c r = x.endCmd e r.bay r.q r.p .ok 0 .own ∧ x.queues = d.queues ∧ x.quiet = d.quiet ∧ x.stores = d.stores := by
  unfold Dev.coreHalt
  dsimp only
  rw [if_pos (by rw [hc, he]; simp)]
  exact Dev.runEnd_queues _ e (r := { r with ended := r.ended ++ [c] }) hs

/-- A counter never reads past the largest value of its entry. -/
theorem Dev.count_od_lt (d : Dev) (idx sub k : Nat) : (d.count idx sub k).od idx sub < 256 ^ odSize idx sub := by
  unfold Dev.count
  split
  · next h => rwa [Dev.setOd_od]
  · rw [Dev.setOd_od]
    exact Nat.mod_lt _ (Nat.pow_pos (by decide))

/-- The end of a RUN by its one core counts in the entry that the RUN's Bay number names. -/
theorem halt_counts {s : State} {c : Fin 256} {r : RunRec} {x : List Byte} {k : Cmd} (h : s.AtOp c r 0 x) (hc : r.cores = [c.val]) (he : r.ended = [])
    (hstage : r.stage = none) (hq : (s.dev.queue r.bay r.q).cmds = [k]) (hp : k.pos = r.p) (hop : k.op = 0x20) (hf : k.flag 0 = false) :
    ∃ d : Dev, exec (.halt c) s = .next { s with dev := d.count (0x2810 + r.bay) 5 1 } := by
  obtain ⟨d, hd, hqueues, hquiet, hst⟩ := s.dev.coreHalt_alone s.env hc he hstage
  have hq' : (d.queue r.bay r.q).cmds = [k] := by
    unfold Dev.queue
    rw [hqueues]
    exact hq
  rw [d.endCmd_alone s.env 0 .own hq' hp hf, Dev.runDone, if_pos hop] at hd
  exact ⟨_, h.goes (h.exec (i := .halt c) (sel := anyA) rfl rfl (h.coreOp_halt.trans hd)) ((Dev.quiet_count ..).trans (hquiet.trans (State.rests_quiet h.rests)))
    ((Dev.count_keeps Dev.stores (fun _ _ _ _ => rfl) (fun _ _ => rfl) ..).trans (hst.trans (State.rests_stores h.rests)))⟩

/-- Refutes O43: the RUN of its first clause may be of any Bay number, and the counter that it names then is an entry of one byte, which
does not count past 255. -/
theorem not_coreControl : ¬ Obligations.CoreControl := by
  unfold Obligations.CoreControl
  rintro ⟨hhalt, -⟩
  have hat : strayState.atOp 0 strayRun 0 (zeros 32) = true := by decide +kernel
  obtain ⟨t, ht, -, -, hod, -⟩ := hhalt 0 strayRun (zeros 32) strayCmd strayState hat rfl rfl rfl (by decide +kernel) (by decide) (by decide +kernel) (by decide)
  obtain ⟨d, hd⟩ := halt_counts (c := 0) (k := strayCmd) (State.atOp_iff hat) rfl rfl rfl rfl rfl (by decide) (by decide)
  obtain rfl := Host.Outcome.next.inj (ht.symm.trans hd)
  have hlt : (d.count (0x2810 + strayRun.bay) 5 1).od (0x2810 + strayRun.bay) 5 < 256 ^ 1 := d.count_od_lt ..
  have h255 : strayState.dev.od (0x2810 + strayRun.bay) 5 = 255 := by decide +kernel
  have heq : (d.count (0x2810 + strayRun.bay) 5 1).od (0x2810 + strayRun.bay) 5 = strayState.dev.od (0x2810 + strayRun.bay) 5 + 1 := hod
  omega

end Sys2Proof.Machine
end

section
/-! PROOF. What a core's data, Spar and Hatch operations do (R425 to R433, R194): O42, O44. -/
namespace Sys2Proof.Machine

section
variable {s : State} {c : Nat} {r : RunRec} {x : List Byte}

/-- A write of a core's local store leaves the rest of the device to the next step of the core. -/
theorem Dev.lsWrite_stepped (d : Dev) (c off : Nat) (bs : List Byte) : (d.lsWrite c off bs).coreNext c 0 = (d.lsWrite c off bs).stepped c := rfl

theorem Dev.lsWrite_drawn (d : Dev) (c off : Nat) (bs : List Byte) (f : Bool) (k : Nat) :
    (d.lsWrite c off bs).drawn f k = (d.drawn f k).lsWrite c off bs := by
  obtain ⟨l, hl, -⟩ := Dev.lsWrite_stores c off bs
  rw [hl, hl]
  cases f <;> rfl

theorem State.AtOp.coreOp_load (h : s.AtOp c r 1 x) {bs : List Byte} {tr : Trans} (hr : s.reads (.core c) r.bay r.space (cB x) (cA x) bs tr) :
    s.dev.coreOp s.env c r x true = (({ s.dev with trans := tr } : Dev).lsWrite c (cC x) bs).stepped c := by
  unfold Dev.coreOp
  dsimp only
  rw [h.sound, if_neg Bool.false_ne_true, if_neg h.ordered, h.op_, hr]
  rfl

theorem State.AtOp.coreOp_store (h : s.AtOp c r 2 x) {tr : Trans} {st : List MemOp}
    (hw : s.writesAfter s.dev.trans (.core c) r.bay r.space (cB x) (s.bytes (localBase c + cC x) (cA x)) false tr st) :
    s.dev.coreOp s.env c r x true = ({ s.dev with trans := tr, stores := st } : Dev).stepped c := by
  have hw' : s.dev.writeRange s.env (.core c) r.bay r.space (cB x) (s.dev.lsRead s.env c (cC x) (cA x)).1 false =
      (.done, { s.dev with trans := tr, stores := st }) := by
    rw [h.read]
    exact hw
  unfold Dev.coreOp
  dsimp only
  rw [h.sound, if_neg Bool.false_ne_true, if_neg h.ordered, h.op_, hw']
  rfl

theorem State.AtOp.coreOp_matvec (h : s.AtOp c r 3 x) : s.dev.coreOp s.env c r x true =
    ((s.dev.drawn (cFree x) (2 * matCols x * cCnt x)).lsWrite c (matOut x)
      (unelems 4 (matvec (fun i => sumOf (cFree x) (s.dev.free + 2 * matCols x * i)) (matBf x) (cCnt x) (matCols x)
        (s.bytes (localBase c + cB x) (cCnt x * matCols x * matW x)) (s.bytes (localBase c + cC x) (matCols x * matW x))
        ((matBias x).map fun b => elems 4 (s.bytes (localBase c + b) (4 * cCnt x)))))).stepped c := by
  unfold Dev.coreOp
  dsimp only
  rw [h.sound, if_neg Bool.false_ne_true, if_neg h.ordered, h.op_]
  simp only [h.read]
  refine Eq.trans ?_ (congrArg (Dev.stepped · c) (s.dev.lsWrite_drawn c (matOut x) _ (cFree x) _))
  rfl

theorem State.AtOp.coreOp_eltwise (h : s.AtOp c r 4 x) {f : EltForm} (hf : eltForm (cA x % 256) = some f) : s.dev.coreOp s.env c r x true =
    ((s.dev.drawn (cFree x) (2 * cCnt x)).lsWrite c (cD x)
      (unelems f.dst (eltwise (sumOf (cFree x) s.dev.free) (cA x % 256) (elems f.src (s.bytes (localBase c + cB x) (f.src * cCnt x)))
        (if f.two then elems f.src (s.bytes (localBase c + cC x) (f.src * cCnt x)) else [])))).stepped c := by
  unfold Dev.coreOp
  dsimp only
  rw [h.sound, if_neg Bool.false_ne_true, if_neg h.ordered, h.op_, hf]
  simp only [h.read]
  refine Eq.trans ?_ (congrArg (Dev.stepped · c) (s.dev.lsWrite_drawn c (cD x) _ (cFree x) _))
  rfl

theorem State.AtOp.coreOp_requant (h : s.AtOp c r 5 x) (hlen : cC x + (16 + 16 * fld (s.bytes (localBase c + cC x) 4) 0 4) ≤ 0x80000)
    (hbad : rqBad (s.bytes (localBase c + cC x) (16 + 16 * fld (s.bytes (localBase c + cC x) 4) 0 4)) (cA x = 1) = none) :
    s.dev.coreOp s.env c r x true = (s.dev.lsWrite c (cD x) (packInt (cA x = 1)
      ((elems 4 (s.bytes (localBase c + cB x) (4 * cCnt x))).zipIdx.map fun v =>
        requant (toInt 32 v.1) (rqEntry (s.bytes (localBase c + cC x) (16 + 16 * fld (s.bytes (localBase c + cC x) 4) 0 4)) v.2)))).stepped c := by
  unfold Dev.coreOp
  dsimp only
  rw [h.sound, if_neg Bool.false_ne_true, if_neg h.ordered, h.op_]
  simp only [h.read]
  rw [if_neg (Nat.not_lt.mpr hlen), hbad]
  rfl

end

/-! ### The rings of a chain -/

/-- The chain is that of the command at a position. -/
def Chain.isOf (n q : Nat) (p : W32) (h : Chain) : Bool := h.bay == n && h.q == q && h.p == p

theorem Dev.chainOf_modChain (d : Dev) (n q : Nat) (p : W32) (f : Chain → Chain) (hf : ∀ h, (f h).isOf n q p = h.isOf n q p) :
    (d.modChain n q p f).chainOf n q p = (d.chainOf n q p).map f := by
  show (d.chains.map fun h => if h.isOf n q p then f h else h).find? (Chain.isOf n q p) = (d.chains.find? (Chain.isOf n q p)).map f
  have hsame : Chain.isOf n q p ∘ (fun h => if h.isOf n q p then f h else h) = Chain.isOf n q p := by
    funext h
    show (if h.isOf n q p then f h else h).isOf n q p = h.isOf n q p
    split
    · exact hf h
    · rfl
  rw [List.find?_map, hsame]
  cases hfind : d.chains.find? (Chain.isOf n q p) with
  | none => rfl
  | some h => exact congrArg some (if_pos (List.find?_some hfind))

theorem Dev.stageOf_modStage (d : Dev) (n q : Nat) (p : W32) (i : Nat) (f : Stage → Stage) :
    (d.modStage n q p i f).stageOf n q p i = (d.stageOf n q p i).map f := by
  unfold Dev.stageOf Dev.modStage
  rw [d.chainOf_modChain n q p (fun h => { h with stages := h.stages.zipIdx.map fun s => if s.2 = i then f s.1 else s.1 }) fun _ => rfl]
  cases d.chainOf n q p with
  | none => rfl
  | some h =>
    show (h.stages.zipIdx.map fun s => if s.2 = i then f s.1 else s.1)[i]? = (h.stages[i]?).map f
    rw [List.getElem?_map, List.getElem?_zipIdx]
    cases h.stages[i]? <;> simp

/-- The ring before stage `i + 1` is that of stage `i`. -/
theorem Dev.inRing_succ (d : Dev) (n q : Nat) (p : W32) (i : Nat) :
    ((d.chainOf n q p).bind fun h => h.inRing (i + 1)) = (d.stageOf n q p i).bind (·.ring) := by
  unfold Dev.stageOf
  cases d.chainOf n q p with
  | none => rfl
  | some h => rfl

/-- A stage that holds nothing back, and whose ring is open, places nothing. -/
theorem Dev.stagePut_empty (d : Dev) {n q : Nat} {p : W32} {i : Nat} {y : Stage} {g : Ring} (hy : d.stageOf n q p i = some y) (hg : y.ring = some g)
    (ho : y.outb = []) (hopen : d.ringGate g = none) :
    ∃ ch y', d.stagePut n q p i = { d with chains := ch } ∧ (d.stagePut n q p i).stageOf n q p i = some y' ∧ y'.ring = some g ∧ y'.outb = [] := by
  have hput : d.stagePut n q p i =
      (d.modStage n q p i fun y => { y with ring := some g }).stageFull n q p i false := by
    unfold Dev.stagePut
    rw [hy]
    dsimp only
    rw [hg]
    dsimp only
    rw [hopen, ho]
    simp
    rfl
  obtain ⟨y1, hy1, hg1, ho1⟩ : ∃ y1, (d.modStage n q p i fun y => { y with ring := some g }).stageOf n q p i = some y1 ∧
      y1.ring = some g ∧ y1.outb = [] := by
    rw [d.stageOf_modStage, hy]
    exact ⟨_, rfl, rfl, ho⟩
  rw [hput]
  unfold Dev.stageFull
  dsimp only
  rw [if_neg Bool.false_ne_true]
  split
  · exact ⟨_, y1, rfl, hy1, hg1, ho1⟩
  · refine ⟨_, { y1 with full := false }, rfl, ?_, hg1, ho1⟩
    rw [Dev.stageOf_modStage, hy1]
    rfl

section
variable {s : State} {c : Nat} {r : RunRec} {x : List Byte}

theorem State.ringRead_env (s : State) {d : Dev} (h : d.stores = []) (hp : s.poison = []) (g : Ring) (off n : Nat) :
    d.ringRead s.env g off n = ((List.range n).map fun j => s.byte (g.lpa (off + j)), false) := by
  unfold Dev.ringRead
  rw [List.map_congr_left fun i _ => s.byte_env h _, List.any_eq_false.mpr fun i _ => by rw [s.poisoned_env h hp]; exact Bool.false_ne_true]

theorem State.AtOp.coreOp_ringTake (h : s.AtOp c r 6 x) {i : Nat} {y : Stage} {g : Ring} (hi : r.stage = some (i + 1))
    (hy : s.dev.stageOf r.bay r.q r.p i = some y) (hg : y.ring = some g) (ho : y.outb = []) (hopen : s.dev.ringGate g = none) (hfill : cB x ≤ g.fill) :
    ∃ ch y', s.dev.coreOp s.env c r x true =
        (({ s.dev with chains := ch } : Dev).lsWrite c (cC x) ((List.range (cB x)).map fun j => s.byte (g.lpa (g.rel + j)))).stepped c ∧
      ({ s.dev with chains := ch } : Dev).stageOf r.bay r.q r.p i = some y' ∧ y'.ring = some { g with rel := g.rel + cB x } := by
  obtain ⟨ch, y1, hput, hy1, hg1, ho1⟩ := s.dev.stagePut_empty hy hg ho hopen
  rw [hput] at hy1
  have hring : (({ s.dev with chains := ch } : Dev).chainOf r.bay r.q r.p).bind (fun h => h.inRing (i + 1)) = some g := by
    rw [Dev.inRing_succ, hy1]
    exact hg1
  have hread := s.ringRead_env (d := { s.dev with chains := ch }) (State.rests_stores h.rests) h.clean g g.rel (cB x)
  have hset : (({ s.dev with chains := ch } : Dev).setInRing r.bay r.q r.p (i + 1) { g with rel := g.rel + cB x }).stageOf r.bay r.q r.p i =
      some { y1 with ring := some { g with rel := g.rel + cB x } } := by
    unfold Dev.setInRing
    rw [Nat.add_sub_cancel, Dev.stageOf_modStage, hy1]
    rfl
  have hopen' : ({ s.dev with chains := ch } : Dev).ringGate g = none := hopen
  have hop : s.dev.coreOp s.env c r x true =
      (((({ s.dev with chains := ch } : Dev).setInRing r.bay r.q r.p (i + 1) { g with rel := g.rel + cB x }).lsWrite c (cC x)
        ((List.range (cB x)).map fun j => s.byte (g.lpa (g.rel + j)))).stagePut r.bay r.q r.p i).stepped c := by
    unfold Dev.coreOp
    dsimp only
    rw [h.sound, if_neg Bool.false_ne_true, if_neg h.ordered, h.op_, hi]
    dsimp only
    rw [Nat.add_sub_cancel, hput, hring]
    dsimp only
    rw [hopen', hread]
    exact (if_neg Bool.false_ne_true).trans ((if_neg (Nat.not_lt.mpr hfill)).trans (if_neg Bool.false_ne_true))
  obtain ⟨l, hl, -⟩ := Dev.lsWrite_stores c (cC x) ((List.range (cB x)).map fun j => s.byte (g.lpa (g.rel + j)))
  rw [hl] at hop
  obtain ⟨ch', y2, hput2, hy2, hg2, -⟩ := Dev.stagePut_empty
    ({ ({ s.dev with chains := ch } : Dev).setInRing r.bay r.q r.p (i + 1) { g with rel := g.rel + cB x } with
      stores := l ++ .write (localBase c + cC x) ((List.range (cB x)).map fun j => s.byte (g.lpa (g.rel + j))) :: s.dev.stores } : Dev)
    (y := { y1 with ring := some { g with rel := g.rel + cB x } }) hset rfl ho1 hopen
  refine ⟨ch', y2, ?_, ?_, hg2⟩
  · rw [hop, hl]
    exact congrArg (Dev.stepped · c) hput2
  · rw [hput2] at hy2
    exact hy2

theorem Dev.ringWrite_stores (d : Dev) (g : Ring) (bs : List Byte) : ∃ st, d.ringWrite g bs = { d with stores := st } := by
  unfold Dev.ringWrite
  generalize (lines64 bs).zipIdx = l
  induction l generalizing d with
  | nil => exact ⟨_, rfl⟩
  | cons y l ih =>
    obtain ⟨st, hst⟩ := ih ((d.poke (g.lpa (g.put + 64 * y.2)) y.1).store (.clean (g.lpa (g.put + 64 * y.2) / 64)))
    exact ⟨st, hst⟩

theorem State.AtOp.coreOp_ringPut (h : s.AtOp c r 7 x) {i : Nat} {y : Stage} {g : Ring} (hi : r.stage = some i)
    (hy : s.dev.stageOf r.bay r.q r.p i = some y) (hg : y.ring = some g) (hopen : s.dev.ringGate g = none) (hroom : cB x ≤ g.room) :
    s.dev.coreOp s.env c r x true = ((s.dev.ringWrite g (s.bytes (localBase c + cC x) (cB x))).modStage r.bay r.q r.p i
      fun y => { y with ring := some { g with put := g.put + cB x } }).stepped c := by
  have hring : (s.dev.stageOf r.bay r.q r.p i).bind (·.ring) = some g := by rw [hy]; exact hg
  unfold Dev.coreOp
  dsimp only
  rw [h.sound, if_neg Bool.false_ne_true, if_neg h.ordered, h.op_, hi]
  dsimp only
  simp only [h.read]
  rw [hring]
  dsimp only
  rw [hopen]
  exact (if_neg Bool.false_ne_true).trans (if_neg (Nat.not_lt.mpr hroom))

end

theorem Dev.stageOf_of {d : Dev} {n q : Nat} {p : W32} {i : Nat} {h : Chain} {y : Stage} (hc : d.chainOf n q p = some h) (hy : h.stages[i]? = some y) :
    d.stageOf n q p i = some y := by
  unfold Dev.stageOf
  rw [hc]
  exact hy

section
variable {s : State} (c : Fin 256) {r : RunRec} {x : List Byte}

theorem ringTake_takes (h : s.AtOp c r 6 x) {i : Nat} {y : Stage} {g : Ring} (hi : r.stage = some (i + 1))
    (hy : s.dev.stageOf r.bay r.q r.p i = some y) (hg : y.ring = some g) (ho : y.outb = []) (hopen : s.dev.ringGate g = none) (hfill : cB x ≤ g.fill) :
    ∃ t, exec (.ringTake c) s = .next t ∧ (t.dev.chainOf r.bay r.q r.p).bind (·.inRing (i + 1)) = some { g with rel := g.rel + cB x } ∧
      t.dev.core c = (s.dev.stepped c).core c ∧ s.wrote t (localBase c + cC x) ((List.range (cB x)).map fun j => s.byte (g.lpa (g.rel + j))) := by
  obtain ⟨ch, y', hop, hy', hg'⟩ := h.coreOp_ringTake hi hy hg ho hopen hfill
  obtain ⟨t, ht, hdev, hwrote⟩ := h.writes (h.exec (i := .ringTake c) (sel := anyA) rfl rfl hop) (State.rests_quiet h.rests) (State.rests_stores h.rests)
  refine ⟨t, ht, ?_, ?_, hwrote⟩
  · rw [hdev, Dev.inRing_succ]
    exact (congrArg (·.bind Stage.ring) hy').trans hg'
  · rw [hdev]
    rfl

theorem ringPut_puts (h : s.AtOp c r 7 x) {i : Nat} {y : Stage} {g : Ring} (hi : r.stage = some i)
    (hy : s.dev.stageOf r.bay r.q r.p i = some y) (hg : y.ring = some g) (hopen : s.dev.ringGate g = none) (hroom : cB x ≤ g.room) :
    ∃ t, exec (.ringPut c) s = .next t ∧ ((t.dev.stageOf r.bay r.q r.p i).bind (·.ring)) = some { g with put := g.put + cB x } ∧
      t.dev.core c = (s.dev.stepped c).core c ∧ t.mem = (s.commit (s.dev.ringWrite g (s.bytes (localBase c + cC x) (cB x)))).mem := by
  have hexec := h.exec (i := .ringPut c) (sel := anyA) rfl rfl (h.coreOp_ringPut hi hy hg hopen hroom)
  obtain ⟨st, hst⟩ := s.dev.ringWrite_stores g (s.bytes (localBase c + cC x) (cB x))
  rw [hst] at hexec ⊢
  refine ⟨_, hexec.trans (s.go_done _ _ h.rests rfl (State.rests_quiet h.rests)), ?_, rfl, rfl⟩
  have hstage := s.dev.stageOf_modStage r.bay r.q r.p i fun y => { y with ring := some { g with put := g.put + cB x } }
  rw [hy] at hstage
  exact congrArg (·.bind Stage.ring) hstage

end

/-- Settles O42, clause by clause. -/
theorem coreDataAndRings : Obligations.CoreDataAndRings := by
  unfold Obligations.CoreDataAndRings
  refine ⟨fun c r x bs tr s h hr => ?_, fun c r x tr st s h hw => ?_, fun c r x s h => ?_, fun c r x f s h hf => ?_, fun c r x s h => ?_,
    fun c r x h p g i s hat hi hc hp hg ho hopen hfill => ringTake_takes c (State.atOp_iff hat) hi (Dev.stageOf_of hc hp) hg ho hopen hfill,
    fun c r x h p g i s hat hi hc hp hg hopen hroom => ringPut_puts c (State.atOp_iff hat) hi (Dev.stageOf_of hc hp) hg hopen hroom⟩
  all_goals
    replace h := State.atOp_iff h
    have hq := State.rests_quiet h.rests
    have hst := State.rests_stores h.rests
  · exact h.writes (h.exec (i := .load c true) (sel := anyA) rfl rfl (h.coreOp_load hr)) hq hst
  · exact (h.exec (i := .store c) (sel := anyA) rfl rfl (h.coreOp_store hw)).trans (s.go_done _ _ h.rests rfl hq)
  · refine h.writes (h.exec (i := .matvec c) (sel := anyA) rfl rfl h.coreOp_matvec) ?_ ?_ <;> cases cFree x
    exacts [hq, hq, hst, hst]
  · refine h.writes (h.exec (i := .eltwise c) (sel := anyA) rfl rfl (h.coreOp_eltwise hf)) ?_ ?_ <;> cases cFree x
    exacts [hq, hq, hst, hst]
  · intro len blk vs hlen hbad
    exact h.writes (h.exec (i := .requant c) (sel := anyA) rfl rfl (h.coreOp_requant hlen hbad)) hq hst

/-! ### Spars -/

/-- A Spar that is neither armed nor mirrored takes a value, and nothing follows. -/
theorem Dev.sparPut_plain (d : Dev) (e : Env) (k : Nat) (v : W64) (ha : (d.spar k).armed = false) (hm : (d.spar k).mirror = false) :
    d.sparPut e k v = d.setSpar k { d.spar k with value := v } := by
  unfold Dev.sparPut
  dsimp only
  rw [hm, Bool.false_and, Bool.or_false, Bool.false_and, if_neg Bool.false_ne_true]
  unfold Dev.judge
  refine if_neg ?_
  rw [show ∀ y : Spar, (d.setSpar k y).spar k = y from fun y => smGet_set_same ({} : Spar) ..]
  dsimp only
  rw [ha]
  exact Bool.false_ne_true

theorem Dev.rearmBy_none (d : Dev) (e : Env) (k : Nat) (h : d.courses = []) : d.rearmBy e k = d := by
  unfold Dev.rearmBy
  rw [h]
  show { d with courses := [] } = d
  rw [← h]

/-- With no Course, an ADD moves a plain Spar alone. -/
theorem Dev.sparAdd_plain (d : Dev) (e : Env) (k v : Nat) (ha : (d.spar k).armed = false) (hm : (d.spar k).mirror = false) (hc : d.courses = []) :
    d.sparAdd e k v = d.setSpar k { d.spar k with value := (d.spar k).value + BitVec.ofNat 64 v } := by
  unfold Dev.sparAdd
  dsimp only
  rw [d.sparPut_plain e k _ ha hm, Dev.rearmBy_none (d.setSpar k _) e k hc, ite_self]

/-- A Spar's new value makes nothing due. -/
theorem Dev.quiet_sparValue (d : Dev) (k : Nat) (v : W64) (h : d.quiet = true) : (d.setSpar k { d.spar k with value := v }).quiet = true :=
  d.quiet_setSpar h k _ (d.quiet_spar h k)

section
variable {s : State} {c : Nat} {r : RunRec} {x : List Byte}

/-- An operation on a Spar that the core's Bay holds. -/
def Dev.coreSpar (d : Dev) (e : Env) (c : Nat) (r : RunRec) (x : List Byte) : Dev :=
  match cA x with
  | 0 => (d.sparSet e (cB x) (cC x)).coreNext c 0
  | 1 => (d.sparAdd e (cB x) (cC x)).coreNext c 0
  | 2 => if cC x ≤ (d.spar (cB x)).value.toNat then d.coreNext c 0 else d.coreWait c
  | _ =>
    if d.strict r.bay then (d.count (0x2910 + r.bay) 0xA 1).coreRefuse e c (cB x)
    else ((d.sparPut e (cB x) ((d.spar (cB x)).value + BitVec.ofNat 64 (cC x))).lsWrite c (cD x) (leBytes 8 (d.spar (cB x)).value.toNat)).coreNext c 0

theorem Dev.coreOp_spar (d : Dev) (e : Env) (hsound : ((opUse x).reads.any fun u => (d.lsRead e c u.2.1 u.2.2).2) = false)
    (hord : ¬ (d.strict r.bay && decide (cFlags x = 1)) = true) (hop : cOp x = 8) (hheld : (d.bay r.bay).held.spar.has (cB x) = true) :
    d.coreOp e c r x true = d.coreSpar e c r x := by
  unfold Dev.coreOp
  dsimp only
  rw [hsound, if_neg Bool.false_ne_true, if_neg hord, hop]
  exact if_neg (by rw [hheld]; exact Bool.false_ne_true)

end

section
variable {s : State} (c : Fin 256) {r : RunRec} {x : List Byte}

theorem sparSet_sets (h : s.AtOp c r 8 x) (hheld : (s.dev.bay r.bay).held.spar.has (cB x) = true) (ha : cA x = 0) (harm : (s.dev.spar (cB x)).armed = false)
    (hmir : (s.dev.spar (cB x)).mirror = false) : exec (.sparSet c) s =
      .next { s with dev := (s.dev.setSpar (cB x) { s.dev.spar (cB x) with value := BitVec.ofNat 64 (cC x) }).stepped c } := by
  refine h.goes (h.exec_turn (i := .sparSet c) rfl rfl ha ((s.dev.coreOp_spar s.env h.sound h.ordered h.op_ hheld).trans ?_))
    (s.dev.quiet_sparValue _ _ (State.rests_quiet h.rests)) (State.rests_stores h.rests)
  unfold Dev.coreSpar Dev.sparSet
  rw [ha, s.dev.sparPut_plain s.env _ _ harm hmir]
  rfl

theorem sparAdd_adds (h : s.AtOp c r 8 x) (hheld : (s.dev.bay r.bay).held.spar.has (cB x) = true) (ha : cA x = 1) (harm : (s.dev.spar (cB x)).armed = false)
    (hmir : (s.dev.spar (cB x)).mirror = false) (hcourses : s.dev.courses = []) : exec (.sparAdd c) s =
      .next { s with dev := (s.dev.setSpar (cB x) { s.dev.spar (cB x) with value := (s.dev.spar (cB x)).value + BitVec.ofNat 64 (cC x) }).stepped c } := by
  refine h.goes (h.exec_turn (i := .sparAdd c) rfl rfl ha ((s.dev.coreOp_spar s.env h.sound h.ordered h.op_ hheld).trans ?_))
    (s.dev.quiet_sparValue _ _ (State.rests_quiet h.rests)) (State.rests_stores h.rests)
  unfold Dev.coreSpar
  rw [ha, s.dev.sparAdd_plain s.env _ _ harm hmir hcourses]
  rfl

theorem sparWait_waits (h : s.AtOp c r 8 x) (hheld : (s.dev.bay r.bay).held.spar.has (cB x) = true) (ha : cA x = 2) :
    exec (.sparWait c) s = .next { s with dev := if cC x ≤ (s.dev.spar (cB x)).value.toNat then s.dev.stepped c else s.dev.coreWait c } := by
  have hop : s.dev.coreOp s.env c r x true = if cC x ≤ (s.dev.spar (cB x)).value.toNat then s.dev.stepped c else s.dev.coreWait c := by
    rw [s.dev.coreOp_spar s.env h.sound h.ordered h.op_ hheld]
    unfold Dev.coreSpar
    rw [ha]
    rfl
  refine h.goes (h.exec (i := .sparWait c) (sel := (· == 2)) rfl (by rw [ha]; rfl) hop) ?_ ?_
  · split <;> exact State.rests_quiet h.rests
  · split <;> exact State.rests_stores h.rests

theorem sparFetchadd_adds (h : s.AtOp c r 8 x) (hheld : (s.dev.bay r.bay).held.spar.has (cB x) = true) (ha : cA x = 3) (hstrict : s.dev.strict r.bay = false)
    (harm : (s.dev.spar (cB x)).armed = false) (hmir : (s.dev.spar (cB x)).mirror = false) :
    ∃ t, exec (.sparFetchadd c) s = .next t ∧
      t.dev = (s.dev.setSpar (cB x) { s.dev.spar (cB x) with value := (s.dev.spar (cB x)).value + BitVec.ofNat 64 (cC x) }).stepped c ∧
      s.wrote t (localBase c + cD x) (leBytes 8 (s.dev.spar (cB x)).value.toNat) := by
  refine h.writes (h.exec_turn (i := .sparFetchadd c) rfl rfl ha ((s.dev.coreOp_spar s.env h.sound h.ordered h.op_ hheld).trans ?_))
    (s.dev.quiet_sparValue _ _ (State.rests_quiet h.rests)) (State.rests_stores h.rests)
  unfold Dev.coreSpar
  rw [ha, s.dev.sparPut_plain s.env _ _ harm hmir]
  exact if_neg (by rw [hstrict]; exact Bool.false_ne_true)

/-- A core that waits at a SPAR_WAIT goes on once the Spar has reached the value. -/
theorem coreWaitSatisfied_steps (hs : s.rests = true) (hp : s.poison = []) (hrun : s.dev.runOf c = some r) (hst : (s.dev.core c).st = .waiting)
    (hat : (s.dev.core c).atBarrier = false) (hx : s.bytes (localBase c + 32 * (s.dev.core c).pc) 32 = x) (hop : cOp x = 8) (ha : cA x = 2)
    (hf : cFlags x = 0) (hheld : (s.dev.bay r.bay).held.spar.has (cB x) = true) (hv : cC x ≤ (s.dev.spar (cB x)).value.toNat) :
    exec (.coreWaitSatisfied c) s = .next { s with dev := s.dev.stepped c } := by
  have hread (off len : Nat) := s.lsRead_env (State.rests_stores hs) hp c off len
  have hsound : ((opUse x).reads.any fun u => (s.dev.lsRead s.env c u.2.1 u.2.2).2) = false :=
    List.any_eq_false.mpr fun u _ => by rw [hread]; exact Bool.false_ne_true
  have hord : ¬ (s.dev.strict r.bay && decide (cFlags x = 1)) = true := by rw [hf]; simp
  have hretry : s.dev.coreRetry s.env c = s.dev.stepped c := by
    unfold Dev.coreRetry
    rw [hrun]
    dsimp only
    rw [if_neg (show ¬ ((s.dev.core c).st != .waiting || (s.dev.core c).atBarrier) = true by rw [hst, hat]; decide), hread, hx,
      s.dev.coreOp_spar s.env hsound hord hop hheld]
    unfold Dev.coreSpar
    rw [ha]
    exact if_pos hv
  exact State.go_to s (fun e d => d.coreRetry e c) _ hs hretry (State.rests_quiet hs) (State.rests_stores hs)

end

/-! ### Hatch -/

/-- A message to the host goes out, or is held, or is dropped. -/
theorem Dev.hostSend_link (d : Dev) (o : Out) : ∃ out l, d.hostSend o = { d with out := out, link := l } ∧ l.heldRecs = d.link.heldRecs := by
  unfold Dev.hostSend
  split
  · exact ⟨_, _, rfl, rfl⟩
  · split <;> exact ⟨_, _, rfl, rfl⟩

/-- A vector of a Bay whose events go to the host is raised there, or waits. -/
theorem Dev.raiseBay_link (d : Dev) (n v : Nat) (h : d.bayEvt n = false) :
    ∃ out l, d.raiseBay n v = { d with out := out, link := l } ∧ l.heldRecs = d.link.heldRecs := by
  unfold Dev.raiseBay Dev.bayMsg
  rw [if_neg (show ¬ d.bayEvt n = true by rw [h]; exact Bool.false_ne_true)]
  split
  · exact d.hostSend_link _
  · split <;> exact ⟨_, _, rfl, rfl⟩

/-- A page whose Skylight accesses have all been applied makes nothing due. -/
theorem Dev.quiet_page (d : Dev) (h : d.quiet = true) (n : Nat) : (d.page n).sky.isEmpty = true :=
  smGet_all ({} : Page) (fun g => g.sky.isEmpty) rfl d.pages ((Dev.quiet_iff d).mp h).1 n

theorem Dev.quiet_setPage (d : Dev) (h : d.quiet = true) (n : Nat) (g : Page) (hg : g.sky.isEmpty = true) : (d.setPage n g).quiet = true := by
  obtain ⟨hpages, hrest⟩ := (Dev.quiet_iff d).mp h
  exact (Dev.quiet_iff _).mpr ⟨smSet_all ({} : Page) (fun g => g.sky.isEmpty) d.pages n g hg hpages, hrest⟩

theorem Dev.page_setPage (d : Dev) (n : Nat) (g : Page) : (d.setPage n g).page n = g := smGet_set_same ({} : Page) ..

/-- A device whose outbound slot `i` of Bay `n` has been filled. -/
def Dev.slotFilled (d : Dev) (n i : Nat) (bs : List Byte) : Dev :=
  ((d.setPage n { d.page n with outFull := listIns i (d.page n).outFull }).poke (slotAddr n (16 + i)) (slotLine d.free bs)).drawn true (slotOpen bs)

theorem Dev.slotFilled_parts (d : Dev) (h : d.quiet = true) (n i : Nat) (bs : List Byte) :
    (d.slotFilled n i bs).quiet = true ∧ (d.slotFilled n i bs).stores = .write (slotAddr n (16 + i)) (slotLine d.free bs) :: d.stores ∧
      (d.slotFilled n i bs).page n = { d.page n with outFull := listIns i (d.page n).outFull } ∧ (d.slotFilled n i bs).cores = d.cores :=
  ⟨d.quiet_setPage h n _ (d.quiet_page h n), rfl, d.page_setPage n _, rfl⟩

section
variable {s : State} (c : Fin 256) {r : RunRec} {x : List Byte}

theorem hatchTake_takes (h : s.AtOp c r 9 x) (ha : cA x = 0) (hopen : ¬ (s.dev.strict r.bay = true ∧ s.dev.inJob r.bay = true))
    (hfull : smGet .empty (s.dev.page r.bay).inSt (cB x) = .full) :
    ∃ t, exec (.hatchTake c) s = .next t ∧
      t.dev = (s.dev.setPage r.bay { s.dev.page r.bay with inSt := smSet .empty (s.dev.page r.bay).inSt (cB x) .taken }).stepped c ∧
      s.wrote t (localBase c + cC x) (s.bytes (slotAddr r.bay (cB x)) 64) := by
  refine h.writes (h.exec (i := .hatchTake c) (sel := (· == 0)) rfl (by rw [ha]; rfl) ?_)
    (s.dev.quiet_setPage (State.rests_quiet h.rests) _ _ (s.dev.quiet_page (State.rests_quiet h.rests) _)) (State.rests_stores h.rests)
  have hgate : ¬ (s.dev.strict r.bay && s.dev.inJob r.bay) = true := by rw [Bool.and_eq_true]; exact hopen
  unfold Dev.coreOp
  dsimp only
  rw [h.sound, if_neg Bool.false_ne_true, if_neg h.ordered, h.op_]
  simp only [ha]
  rw [if_neg hgate, hfull, s.bytes_env (State.rests_stores h.rests)]
  rfl

theorem hatchRelease_releases (h : s.AtOp c r 9 x) (ha : cA x = 1) (htaken : smGet .empty (s.dev.page r.bay).inSt (cB x) = .taken) :
    exec (.hatchRelease c) s =
      .next { s with dev := (s.dev.setPage r.bay { s.dev.page r.bay with inSt := smSet .empty (s.dev.page r.bay).inSt (cB x) .empty }).stepped c } := by
  have hop : s.dev.coreOp s.env c r x true =
      (s.dev.setPage r.bay { s.dev.page r.bay with inSt := smSet .empty (s.dev.page r.bay).inSt (cB x) .empty }).stepped c := by
    unfold Dev.coreOp
    dsimp only
    rw [h.sound, if_neg Bool.false_ne_true, if_neg h.ordered, h.op_]
    simp only [ha]
    rw [htaken]
    rfl
  refine h.goes (s.go_congr (f := Dev.turn (.hatchRelease c) fun e d => d.coreStep e c 9 (· == 1) true) (s.rests_calm h.rests) ?_)
    (s.dev.quiet_setPage (State.rests_quiet h.rests) _ _ (s.dev.quiet_page (State.rests_quiet h.rests) _)) (State.rests_stores h.rests)
  rw [Dev.turn_rests _ _ _ _ (State.rests_ahead h.rests), h.coreStep (by rw [ha]; rfl), hop]

theorem exec_hatchFill (h : s.AtOp c r 9 x) (ha : cA x = 2) {d : Dev} (hop : s.dev.coreOp s.env c r x true = d) :
    exec (.hatchFill c) s = s.go fun _ _ => d := by
  have hstep : s.dev.coreStep s.env c 9 (· == 2) true = d := (h.coreStep (by rw [ha]; rfl) true).trans hop
  show execHatchFill c s = _
  unfold execHatchFill
  refine s.go_congr (s.rests_calm h.rests) ?_
  split
  · rw [Dev.leadAck_calm _ _ _ _ (s.rests_calm h.rests)]
    exact hstep
  · exact hstep

theorem hatchFill_fills (h : s.AtOp c r 9 x) (ha : cA x = 2) (hout : (s.dev.page r.bay).outFull.contains (cB x) = false) (hevt : s.dev.bayEvt r.bay = false) :
    ∃ t, exec (.hatchFill c) s = .next t ∧ t.dev.page r.bay = { s.dev.page r.bay with outFull := listIns (cB x) (s.dev.page r.bay).outFull } ∧
      t.dev.core c = (s.dev.stepped c).core c ∧
      s.wrote t (slotAddr r.bay (16 + cB x)) (slotLine s.dev.free (s.bytes (localBase c + cC x) 64)) := by
  have hop : s.dev.coreOp s.env c r x true = ((s.dev.slotFilled r.bay (cB x) (s.bytes (localBase c + cC x) 64)).raiseBay r.bay 2).stepped c := by
    unfold Dev.coreOp
    dsimp only
    rw [h.sound, if_neg Bool.false_ne_true, if_neg h.ordered, h.op_]
    simp only [ha, h.read]
    exact if_neg (by rw [hout]; exact Bool.false_ne_true)
  obtain ⟨hq, hst, hpage, hcores⟩ := s.dev.slotFilled_parts (State.rests_quiet h.rests) r.bay (cB x) (s.bytes (localBase c + cC x) 64)
  have hevt' : (s.dev.slotFilled r.bay (cB x) (s.bytes (localBase c + cC x) 64)).bayEvt r.bay = false := hevt
  generalize s.dev.slotFilled r.bay (cB x) (s.bytes (localBase c + cC x) 64) = d at hop hq hst hpage hcores hevt'
  obtain ⟨out, l, hraise, hrecs⟩ := d.raiseBay_link r.bay 2 hevt'
  rw [hraise] at hop
  have hexec := exec_hatchFill c h ha hop
  rw [State.rests_stores h.rests] at hst
  refine ⟨_, hexec.trans (s.go_done _ _ h.rests rfl (Dev.quiet_of_parts hq rfl rfl rfl rfl rfl hrecs rfl rfl rfl)), hpage, ?_,
    s.wrote_commit (l := []) hst fun _ ho => absurd ho List.not_mem_nil⟩
  show (d.stepped c).core c = _
  unfold Dev.stepped Dev.setCore Dev.core
  rw [hcores]

end

/-- Settles O44, clause by clause. -/
theorem coreSparsAndHatch : Obligations.CoreSparsAndHatch := by
  unfold Obligations.CoreSparsAndHatch
  refine ⟨fun c r x s hat hheld => ?_, fun c r x s hat => ?_,
    fun c r x s hs hp hrun hst hbar hx hop ha hf hheld hv => coreWaitSatisfied_steps c hs hp hrun hst hbar hx hop ha hf hheld hv⟩
  · have h := State.atOp_iff hat
    exact ⟨sparSet_sets c h hheld, sparAdd_adds c h hheld, sparWait_waits c h hheld, sparFetchadd_adds c h hheld⟩
  · have h := State.atOp_iff hat
    exact ⟨hatchTake_takes c h, hatchRelease_releases c h, hatchFill_fills c h⟩

end Sys2Proof.Machine
end

section
/-! PROOF. Entries are kept by index × 256 + subindex, so a subindex past 255 names another entry: O22 does not hold. -/
namespace Sys2Proof.Machine

/-- The value that an outcome leaves at a subindex past 255 of index 0x2001: that of 0x2002.07, the count of USDO aborts. -/
def pastEnd : Outc → Option Nat
  | .next t => some (t.dev.od 0x2001 0x107)
  | _ => none

/-- An ENABLE of a queue of a Bay that is not claimed is refused, and CAN FD counts an abort. -/
theorem refusal_counts : pastEnd (exec (.enable (.can 0) 0 0) servingState) = some 1 := by decide +kernel

/-- Refutes O22: its first clause lets every pair but (0x2002, 7) and the counters of rejections stand, and (0x2001, 0x107) is one that names
the counter of USDO aborts. -/
theorem not_writesJournaled : ¬ Obligations.WritesJournaled := by
  unfold Obligations.WritesJournaled
  rintro ⟨hrefused, -⟩
  obtain ⟨x, hx⟩ := Option.isSome_iff_exists.mp (show (servingState.refuses (.can 0) 0x2680 4 [1]).isSome = true by decide +kernel)
  obtain ⟨t, ht, -, hod, -⟩ := hrefused (.enable (.can 0) 0 0) (.can 0) 0x2680 4 [1] servingState x rfl hx (by decide) (by decide +kernel)
  have hsame : t.dev.od 0x2001 0x107 = servingState.dev.od 0x2001 0x107 := hod 0x2001 0x107 (by decide) (by decide)
  have hzero : servingState.dev.od 0x2001 0x107 = 0 := by decide +kernel
  have hone := refusal_counts
  rw [ht] at hone
  exact absurd ((hsame.trans hzero).symm.trans (Option.some.inj hone)) (by decide)

end Sys2Proof.Machine
end

section
/-! PROOF. A VF's own page: its Spar window, and the host's AtomicOps on the values of Spars (O26, O29). -/
namespace Sys2Proof.Machine

/-! ### A write of a register of the Spar window -/

theorem bayAt_spar {off : Nat} (hlo : 0x4000 ≤ off) (hhi : off < 0xC000) (h8 : off % 8 = 0) :
    bayAt off = .reg off 8 (if 0x6000 ≤ off && off < 0x8000 then .wo else .rw) := by
  unfold bayAt
  simp (disch := omega) only [if_neg, if_pos, Bool.and_eq_true, decide_eq_true_eq]
  rw [Nat.div_mul_cancel (Nat.dvd_of_mod_eq_zero h8)]

theorem Dev.pageApply_spar (d : Dev) (e : Env) (rt : Route) (n : Fin 16) {off v : Nat} (hlo : 0x4000 ≤ off) (hhi : off < 0xC000) (h8 : off % 8 = 0)
    (hv : v < 2 ^ 64) : d.pageApply e rt (n + 1) off (leBytes 8 v) = d.sparWrite e n off v := by
  have hat : pageAt (n + 1) off = .reg off 8 (if 0x6000 ≤ off && off < 0x8000 then .wo else .rw) := bayAt_spar hlo hhi h8
  have hacc : ((if 0x6000 ≤ off && off < 0x8000 then RegAcc.wo else .rw) == .ro) = false := by split <;> rfl
  unfold Dev.pageApply
  rw [hat]
  dsimp only
  rw [hacc, leBytes_length, leNat_leBytes 8 v hv]
  simp (disch := omega) only [bne_self_eq_false, Bool.or_self, Bool.false_eq_true, if_false, if_neg, if_pos, Nat.add_sub_cancel]

/-- A write to a function's page, with no fence pending, is made at once. -/
theorem Dev.fnWrite_now (d : Dev) (e : Env) (n : Fin 16) (off : Nat) (bs : List Byte) (hf : d.noFence (n + 1) = true)
    (h : (off = 0x140 && bs.length = 4) = false) :
    d.fnWrite e n { sky := false, off := off, data := bs } = d.pageApply e (.bay (Fin.ofNat 16 n)) (n + 1) off bs := by
  unfold Dev.noFence at hf
  rw [Nat.add_sub_cancel, show ((n : Nat) + 1 == 0) = false from rfl, Bool.false_or] at hf
  unfold Dev.fnWrite
  simp only [hf, Bool.not_true, Bool.not_false, Bool.true_and, h, Bool.false_eq_true, if_false]

/-- The host reaches a function of its own: neither absent nor insecure. -/
theorem Dev.noFn_here {d : Dev} {fn : Nat} (h : d.hostHere fn = true) : d.noFn fn = false := by
  unfold Dev.noFn
  rw [h, Bool.not_true, Bool.and_false]

/-- A write of a VF's page on a tick where nothing goes first, inside the page. -/
theorem State.pageNow_vf {s : State} (hs : s.rests = true) {c : Instr} {n : Fin 16} {off : Nat} {bs : List Byte} (hp : Instr.pageWrite c = some ((n : Nat) + 1, off, bs))
    (hh : s.dev.hostHere (n + 1) = true) (hlen : bs ≠ []) (hin : off + bs.length ≤ 0x10000) :
    s.dev.pageNow s.env c = s.dev.fnWrite s.env n { sky := false, off := off, data := bs } := by
  have hcalm := s.rests_calm hs
  have hbeyond : beyondPage (n + 1) off bs.length = false := by
    unfold beyondPage
    rw [Nat.ble_eq_true_of_le hin]
    rfl
  have hoff : ¬ 0x10000 ≤ off := by
    have := List.length_pos_iff.mpr hlen
    omega
  unfold Dev.pageNow
  rw [hp]
  dsimp only
  rw [if_neg (by simpa using hlen), if_pos (by simp), Dev.leadPage_calm _ _ _ _ hcalm]
  unfold Dev.hostPage
  rw [Dev.noFn_here hh, hh, hbeyond, if_neg Bool.false_ne_true, if_neg (by decide), if_neg Bool.false_ne_true, if_neg hoff, if_neg (Nat.succ_ne_zero _),
    Dev.leadLoss_calm _ _ _ hcalm]
  rfl

/-- A row that writes a register of the Spar window. -/
theorem State.pageRow_spar {s : State} (hs : s.rests = true) {c : Instr} {n : Fin 16} {off v : Nat} (hp : Instr.pageWrite c = some ((n : Nat) + 1, off, leBytes 8 v))
    (hh : s.dev.hostHere (n + 1) = true) (hf : s.dev.noFence (n + 1) = true) (hlo : 0x4000 ≤ off) (hhi : off < 0xC000) (h8 : off % 8 = 0) (hv : v < 2 ^ 64) :
    s.pageRow c = s.go fun e d => d.sparWrite e n off v := by
  refine s.go_congr (s.rests_calm hs) ((Dev.turn_rests _ _ _ _ (s.rests_ahead hs)).trans ?_)
  rw [s.pageNow_vf hs hp hh (by intro h; simpa [leBytes_length] using congrArg List.length h) (by rw [leBytes_length]; omega),
    Dev.fnWrite_now _ _ _ _ _ hf (by simp; omega), Dev.pageApply_spar _ _ _ _ hlo hhi h8 hv]

/-! ### Operations on a Spar -/

theorem bit_or_one (v : Nat) {i : Nat} (hi : i ≠ 0) : bit (v ||| 1) i = bit v i := by
  have h1 : Nat.testBit 1 i = false := Bool.eq_false_iff.mpr fun h => hi (Nat.testBit_one_eq_true_iff_self_eq_zero.mp h)
  rw [bit_eq_testBit, bit_eq_testBit, Nat.testBit_or, h1, Bool.or_false]

theorem bit_even (v : Nat) {i : Nat} (hi : i ≠ 0) : bit (v / 2 * 2) i = bit v i := by
  obtain ⟨j, rfl⟩ := Nat.exists_eq_succ_of_ne_zero hi
  rw [bit_eq_testBit, bit_eq_testBit, Nat.testBit_succ, Nat.testBit_succ, Nat.mul_div_cancel _ (by decide)]

theorem or_one_div (v : Nat) {k : Nat} (hk : k % 2 = 0) : (v ||| 1) / k = v / k := by
  have h2 : (v ||| 1) / 2 = v / 2 := by simpa using Nat.or_div_two_pow (a := v) (b := 1) (n := 1)
  obtain ⟨j, rfl⟩ := Nat.dvd_of_mod_eq_zero hk
  rw [← Nat.div_div_eq_div_mul, ← Nat.div_div_eq_div_mul, h2]

theorem even_div (v : Nat) {k : Nat} (hk : k % 2 = 0) : v / 2 * 2 / k = v / k := by
  obtain ⟨j, rfl⟩ := Nat.dvd_of_mod_eq_zero hk
  rw [← Nat.div_div_eq_div_mul, ← Nat.div_div_eq_div_mul, Nat.mul_div_cancel _ (by decide)]

/-- Bit 0 of a write of SP_CTL says no more than which of the two it is. -/
theorem Spar.armedBy_or_one (x : Spar) (v : Nat) : x.armedBy (v ||| 1) = x.armedBy v := by
  unfold Spar.armedBy
  rw [bit_or_one v (by decide), bit_or_one v (by decide), or_one_div v (by decide), or_one_div v (by decide)]

/-- The Spar that a write of SP_CTL with bit 0 clear leaves. -/
def Spar.disarmedBy (x : Spar) (v : Nat) : Spar :=
  { x with armed := false, latched := false, mirror := bit v 1, route := BitVec.ofNat 2 (v / 4), remote := bit v 4, key := BitVec.ofNat 16 (v / 0x10000) }

theorem Spar.disarmedBy_even (x : Spar) (v : Nat) : x.disarmedBy (v / 2 * 2) = x.disarmedBy v := by
  unfold Spar.disarmedBy
  rw [bit_even v (by decide), bit_even v (by decide), even_div v (by decide), even_div v (by decide)]

theorem Dev.sparCtl_disarms (d : Dev) (e : Env) (k v : Nat) (h0 : bit v 0 = false) (hp : (d.spar k).pend = false) :
    d.sparCtl e k v = d.setSpar k ((d.spar k).disarmedBy v) := by
  have hx : ({ (d.spar k).disarmedBy v with pend := (d.spar k).pend && bit v 1 } : Spar) = (d.spar k).disarmedBy v := by
    rw [hp]
    exact congrArg (fun b => ({ (d.spar k).disarmedBy v with pend := b } : Spar)) hp.symm
  unfold Dev.sparCtl
  dsimp only
  rw [h0, if_neg Bool.false_ne_true]
  exact congrArg (d.setSpar k) hx

theorem Dev.spar_setSpar (d : Dev) (k : Nat) (x : Spar) : (d.setSpar k x).spar k = x := smGet_set_same ({} : Spar) d.spars k x

theorem Dev.setSpar_setSpar (d : Dev) (k : Nat) (x y : Spar) : (d.setSpar k x).setSpar k y = d.setSpar k y :=
  congrArg (fun l => ({ d with spars := l } : Dev)) (smSet_smSet ({} : Spar) d.spars k x y)

theorem Dev.sparThresh_plain (d : Dev) (e : Env) (k : Nat) (v : W64) (ha : (d.spar k).armed = false) :
    d.sparThresh e k v.toNat = d.setSpar k { d.spar k with thresh := v } := by
  unfold Dev.sparThresh Dev.judge
  dsimp only
  rw [Dev.spar_setSpar, BitVec.ofNat_toNat, BitVec.setWidth_eq]
  refine if_neg ?_
  dsimp only
  rw [ha]
  exact Bool.false_ne_true

/-- The Spar whose fire sequence has started. -/
def Spar.fired (x : Spar) (t : Nat) (v : W64) : Spar := { x with value := v, armed := false, firing := true, fireStart := t }

/-- An armed Spar that a value takes to its threshold starts its fire sequence, which its Bay counts (R331, R332). -/
theorem Dev.sparPut_fires (d : Dev) (e : Env) (k : Nat) (v : W64) {n : Nat} (hm : (d.spar k).mirror = false) (hp : (d.spar k).pend = false)
    (ha : (d.spar k).armed = true) (hv : (d.spar k).thresh.toNat ≤ v.toNat) (hn : d.sparBay k = some n) (h1 : (d.bay n).st ≠ .draining)
    (h2 : (d.bay n).st ≠ .faulted) : d.sparPut e k v = (d.setSpar k ((d.spar k).fired e.time v)).count (0x2910 + n) 6 1 := by
  have hmid : d.sparPut e k v = (d.setSpar k { d.spar k with value := v }).judge e k := by
    unfold Dev.sparPut
    dsimp only
    rw [hm, Bool.false_and, Bool.or_false, Bool.false_and, if_neg Bool.false_ne_true]
  have hfired : ({ d.spar k with
        value := v, armed := false, firing := true, fireStart := e.time
        pend := (d.spar k).pend || (d.spar k).mirror
        pendAt := if (d.spar k).mirror && !(d.spar k).pend then e.time else (d.spar k).pendAt } : Spar) = (d.spar k).fired e.time v := by
    rw [hm, hp, Bool.or_false, Bool.false_and, if_neg Bool.false_ne_true]
    exact congrArg (fun b => ({ (d.spar k).fired e.time v with pend := b } : Spar)) hp.symm
  have hn' : (d.setSpar k { d.spar k with value := v }).sparBay k = some n := hn
  rw [hmid]
  unfold Dev.judge
  dsimp only
  rw [hn']
  dsimp only
  rw [Dev.spar_setSpar, if_pos (by
    simp only [Bool.and_eq_true, decide_eq_true_eq, Bool.not_eq_true', Bool.or_eq_false_iff, beq_eq_false_iff_ne]
    exact ⟨⟨ha, hv⟩, h1, h2⟩)]
  unfold Dev.fire
  dsimp only
  rw [Dev.spar_setSpar, Dev.setSpar_setSpar]
  dsimp only
  rw [hfired]
  have hn2 : (d.setSpar k ((d.spar k).fired e.time v)).sparBay k = some n := hn
  rw [hn2]

/-! ### The rows of the Spar window -/

theorem Dev.sparAt_congr (d : Dev) (n : Nat) {a b : Nat} (h : (a - 0x4000) % 0x2000 / 8 = (b - 0x4000) % 0x2000 / 8) : d.sparAt n a = d.sparAt n b := by
  unfold Dev.sparAt
  rw [h]

/-- A write to the Spar window at a Spar of a Bay that neither drains nor is faulted. -/
theorem Dev.sparWrite_at (d : Dev) (e : Env) {n off v k : Nat} (h : d.sparAt n off = some k) (h1 : (d.bay n).st ≠ .draining) (h2 : (d.bay n).st ≠ .faulted) :
    d.sparWrite e n off v = if off < 0x6000 then d.sparSet e k v else if off < 0x8000 then d.sparAdd e k v
      else if off < 0xA000 then d.sparThresh e k v else d.sparCtl e k v := by
  rw [Dev.sparWrite, h]
  exact if_neg (by simp [h1, h2])

section
variable {s : State} {n : Fin 16} {j : Fin 1024} {k : Nat}

/-- A row that writes a register of the Spar window, at a Spar of the Bay. -/
theorem spar_row {c : Instr} {off v : Nat} {x : Spar} (hs : s.rests = true) (hh : s.dev.hostHere (n + 1) = true) (hf : s.dev.noFence (n + 1) = true)
    (hk : s.dev.sparAt n (0x4000 + 8 * j) = some k) (h1 : (s.dev.bay n).st ≠ .draining) (h2 : (s.dev.bay n).st ≠ .faulted)
    (hc : exec c s = s.pageRow c) (hp : Instr.pageWrite c = some ((n : Nat) + 1, off, leBytes 8 v)) (hv : v < 2 ^ 64)
    (hlo : 0x4000 ≤ off) (hhi : off < 0xC000) (h8 : off % 8 = 0) (hj : off % 0x2000 / 8 = j)
    (hx : (if off < 0x6000 then s.dev.sparSet s.env k v else if off < 0x8000 then s.dev.sparAdd s.env k v
      else if off < 0xA000 then s.dev.sparThresh s.env k v else s.dev.sparCtl s.env k v) = s.dev.setSpar k x) (hpend : x.pend = false) :
    exec c s = .next { s with dev := s.dev.setSpar k x } := by
  rw [hc, State.pageRow_spar hs hp hh hf hlo hhi h8 hv]
  refine s.go_to _ _ hs ?_ (s.dev.quiet_setSpar (State.rests_quiet hs) k x hpend) (State.rests_stores hs)
  have hat : s.dev.sparAt n off = some k := (s.dev.sparAt_congr n (by omega)).trans hk
  exact (Dev.sparWrite_at _ _ hat h1 h2).trans hx

end

/-- Writes of the Spar window on a Spar that does not fire. -/
theorem sparWindow_writes (n : Fin 16) (j : Fin 1024) (v : W64) (k : Nat) (s : State) (hs : s.rests = true) (hh : s.dev.hostHere (n + 1) = true)
    (hf : s.dev.noFence (n + 1) = true) (hk : s.dev.sparAt n (0x4000 + 8 * j) = some k) (h1 : (s.dev.bay n).st ≠ .draining)
    (h2 : (s.dev.bay n).st ≠ .faulted) (hc : s.dev.courses = []) (hm : (s.dev.spar k).mirror = false) (ha : (s.dev.spar k).armed = false) :
    exec (.spValueWrite n j v) s = .next { s with dev := s.dev.setSpar k { s.dev.spar k with value := v } } ∧
    exec (.spAdd n j v) s = .next { s with dev := s.dev.setSpar k { s.dev.spar k with value := (s.dev.spar k).value + v } } ∧
    exec (.spThreshWrite n j v) s = .next { s with dev := s.dev.setSpar k { s.dev.spar k with thresh := v } } := by
  have hpend := s.dev.quiet_spar (State.rests_quiet hs) k
  refine ⟨spar_row hs hh hf hk h1 h2 rfl rfl v.isLt (by omega) (by omega) (by omega) (by omega) ?_ hpend, spar_row hs hh hf hk h1 h2 rfl rfl v.isLt (by omega) (by omega) (by omega) (by omega) ?_ hpend,
    spar_row hs hh hf hk h1 h2 rfl rfl v.isLt (by omega) (by omega) (by omega) (by omega) ?_ hpend⟩
  · rw [if_pos (by omega)]
    unfold Dev.sparSet
    rw [Dev.sparPut_plain _ _ _ _ ha hm, BitVec.ofNat_toNat, BitVec.setWidth_eq]
  · rw [if_neg (by omega), if_pos (by omega), Dev.sparAdd_plain _ _ _ _ ha hm hc, BitVec.ofNat_toNat, BitVec.setWidth_eq]
  · rw [if_neg (by omega), if_neg (by omega), if_pos (by omega), Dev.sparThresh_plain _ _ _ _ ha]

/-- A SET that takes an armed Spar to its threshold starts its fire sequence. -/
theorem spValueWrite_fires (n : Fin 16) (j : Fin 1024) (v : W64) (k : Nat) (s : State) (hs : s.rests = true) (hh : s.dev.hostHere (n + 1) = true)
    (hf : s.dev.noFence (n + 1) = true) (hk : s.dev.sparAt n (0x4000 + 8 * j) = some k) (h1 : (s.dev.bay n).st ≠ .draining)
    (h2 : (s.dev.bay n).st ≠ .faulted) (hm : (s.dev.spar k).mirror = false) (ha : (s.dev.spar k).armed = true)
    (hv : (s.dev.spar k).thresh.toNat ≤ v.toNat) (hn : s.dev.sparBay k = some n.val) (hod : s.dev.od (0x2910 + n) 6 + 1 < 2 ^ 32) :
    exec (.spValueWrite n j v) s =
      .next { s with dev := (s.dev.setSpar k ((s.dev.spar k).fired s.time v)).setOd (0x2910 + n) 6 (s.dev.od (0x2910 + n) 6 + 1) } := by
  have hpend := s.dev.quiet_spar (State.rests_quiet hs) k
  have hsize : odSize (0x2910 + n) 6 = 4 := (by decide : ∀ n : Fin 16, odSize (0x2910 + n) 6 = 4) n
  show s.pageRow (.spValueWrite n j v) = _
  rw [State.pageRow_spar (off := 0x4000 + 8 * j) hs rfl hh hf (by omega) (by omega) (by omega) v.isLt]
  refine s.go_to _ _ hs ?_ ?_ (State.rests_stores hs)
  · rw [Dev.sparWrite_at _ _ hk h1 h2, if_pos (by omega)]
    unfold Dev.sparSet
    rw [BitVec.ofNat_toNat, BitVec.setWidth_eq, s.dev.sparPut_fires s.env k v hm hpend ha hv hn h1 h2]
    exact (s.dev.setSpar k _).count_of_lt _ _ _ (by rw [hsize]; exact hod)
  · rw [Dev.quiet_setOd]
    exact s.dev.quiet_setSpar (State.rests_quiet hs) k _ hpend

theorem Dev.maxOd_srv (d : Dev) (idx sub v : Nat) : ∃ x, d.maxOd idx sub v = { d with srv := x } := by
  unfold Dev.maxOd
  split
  · exact ⟨_, rfl⟩
  · exact ⟨_, rfl⟩

/-- A write of SP_CTL on a Spar that does not reach its threshold, and one with bit 0 clear. -/
theorem sparWindow_controls (n : Fin 16) (j : Fin 1024) (v : W64) (k : Nat) (s : State) (hs : s.rests = true) (hh : s.dev.hostHere (n + 1) = true)
    (hf : s.dev.noFence (n + 1) = true) (hk : s.dev.sparAt n (0x4000 + 8 * j) = some k) (h1 : (s.dev.bay n).st ≠ .draining)
    (h2 : (s.dev.bay n).st ≠ .faulted) (hfire : (s.dev.spar k).firing = false) :
    ((s.dev.spar k).value.toNat < (s.dev.spar k).thresh.toNat →
      exec (.arm n j v) s = .next { s with dev := s.dev.setSpar k ((s.dev.spar k).armedBy v.toNat) }) ∧
    exec (.disarm n j v) s = .next { s with dev := s.dev.setSpar k ((s.dev.spar k).disarmedBy v.toNat) } := by
  have hpend := s.dev.quiet_spar (State.rests_quiet hs) k
  have hlt : (v.toNat ||| 1) < 2 ^ 64 := Nat.or_lt_two_pow v.isLt (by decide)
  have hlt' : v.toNat / 2 * 2 < 2 ^ 64 := by have := v.isLt; omega
  refine ⟨fun hv => spar_row hs hh hf hk h1 h2 rfl rfl hlt (by omega) (by omega) (by omega) (by omega) ?_ hpend,
    spar_row hs hh hf hk h1 h2 rfl rfl hlt' (by omega) (by omega) (by omega) (by omega) ?_ hpend⟩
  all_goals rw [if_neg (by omega), if_neg (by omega), if_neg (by omega)]
  · rw [Dev.sparCtl_arms _ _ _ _ (by rw [bit_eq_testBit, Nat.testBit_or]; simp) hfire hpend hv, Spar.armedBy_or_one]
  · rw [Dev.sparCtl_disarms _ _ _ _ (by simp [bit]) hpend, Spar.disarmedBy_even]

/-- The fire sequence of a Spar that tells nobody ends; a re-arm that was latched takes effect (R332, R333). -/
theorem Dev.fireEnd_silent (d : Dev) (e : Env) (k : Nat) {n : Nat} (hp : (d.spar k).pend = false) (hfire : (d.spar k).firing = true)
    (hn : d.sparBay k = some n) (hr : (d.spar k).route = 3) (h1 : (d.bay n).st ≠ .draining) (h2 : (d.bay n).st ≠ .faulted)
    (hv : (d.spar k).value.toNat < (d.spar k).thresh.toNat) : ∃ x, d.fireEnd e k =
      ({ d with srv := x } : Dev).setSpar k { d.spar k with firing := false, latched := false, armed := (d.spar k).latched } := by
  obtain ⟨x, hx⟩ := d.maxOd_srv 0x2900 3 (e.time - (d.spar k).fireStart)
  refine ⟨x, ?_⟩
  have hvec : (d.spar k).vector = none := by
    unfold Spar.vector
    rw [hr]
    rfl
  have hst : ((d.bay n).st == .draining || (d.bay n).st == .faulted) = false := by simp [h1, h2]
  unfold Dev.fireEnd
  dsimp only
  rw [hfire, hp, if_neg (by simp), hn]
  dsimp only
  rw [hx, hvec]
  dsimp only
  rw [show ({ d with srv := x } : Dev).bay n = d.bay n from rfl, hst, Bool.not_false, Bool.and_true]
  unfold Dev.judge
  dsimp only
  rw [Dev.spar_setSpar, if_neg]
  have : ¬ (d.spar k).thresh.toNat ≤ (d.spar k).value.toNat := by omega
  simp [this]

theorem sparFireEnd_ends (k : Fin 4096) (n : Nat) (s : State) (hs : s.rests = true) (hfire : (s.dev.spar k).firing = true) (hn : s.dev.sparBay k = some n)
    (hr : (s.dev.spar k).route = 3) (h1 : (s.dev.bay n).st ≠ .draining) (h2 : (s.dev.bay n).st ≠ .faulted)
    (hv : (s.dev.spar k).value.toNat < (s.dev.spar k).thresh.toNat) :
    ∃ t, exec (.sparFireEnd k) s = .next t ∧ t.dev.spar k = { s.dev.spar k with firing := false, latched := false, armed := (s.dev.spar k).latched } ∧
      (∀ m, m ≠ k.val → t.dev.spar m = s.dev.spar m) ∧ t.dev.out = s.dev.out ∧ t.mem = s.mem := by
  have hpend := s.dev.quiet_spar (State.rests_quiet hs) k
  obtain ⟨x, hx⟩ := s.dev.fireEnd_silent s.env k hpend hfire hn hr h1 h2 hv
  refine ⟨_, s.go_to (fun e d => d.fireEnd e k) _ hs hx ?_ (State.rests_stores hs), Dev.spar_setSpar _ _ _, fun m hm => ?_, rfl, rfl⟩
  · exact Dev.quiet_setSpar _ (State.rests_quiet hs) k _ hpend
  · exact smGet_set_other ({} : Spar) _ _ _ _ hm

/-- Settles O29: each register of the window does to the Spar what R326 to R333 say, and a fire sequence ends with the re-arm it latched. -/
theorem sparWindow : Obligations.SparWindow := by
  refine ⟨fun n j v k s hs hh hf hk h1 h2 hc hfire hm => ?_, fun k n s hs => sparFireEnd_ends k n s hs⟩
  obtain ⟨harm, hdisarm⟩ := sparWindow_controls n j v k s hs hh hf hk h1 h2 hfire
  exact ⟨sparWindow_writes n j v k s hs hh hf hk h1 h2 hc hm, harm, hdisarm,
    fun ha hv hn hod => spValueWrite_fires n j v k s hs hh hf hk h1 h2 hm ha hv hn hod⟩

/-! ### What a violation records -/

/-- The link's own records: all of it but its error registers and what it has still to tell the host. -/
def Link.records (l : Link) : Link := { l with aer := [], aerFirst := none, aerLog := [], held := [], msixPend := [] }

theorem Dev.hostSend_records (d : Dev) (o : Out) : ∃ out l, d.hostSend o = { d with out := out, link := l } ∧ l.records = d.link.records := by
  unfold Dev.hostSend
  split
  · exact ⟨_, _, rfl, rfl⟩
  · split <;> exact ⟨_, _, rfl, rfl⟩

theorem Dev.sendIf_records (d : Dev) (c : Prop) [Decidable c] (o : Out) :
    ∃ out l, (if c then d.hostSend o else d) = { d with out := out, link := l } ∧ l.records = d.link.records := by
  split
  · exact d.hostSend_records o
  · exact ⟨_, _, rfl, rfl⟩

theorem Dev.errMsg_records (d : Dev) (kind : Nat) : ∃ out l, d.errMsg kind = { d with out := out, link := l } ∧ l.records = d.link.records := by
  unfold Dev.errMsg
  split
  · exact ⟨_, _, rfl, rfl⟩
  · exact d.sendIf_records _ _

/-- With a host to tell, a vector of PF0 is told it or waits. -/
theorem Dev.raisePf_records (d : Dev) (v : Nat) (h : d.attachMode ≠ 1) :
    ∃ out l, d.raisePf v = { d with out := out, link := l } ∧ l.records = d.link.records := by
  unfold Dev.raisePf Dev.pfMsg
  rw [if_neg (show ¬ (d.attachMode == 1) = true by simpa using h)]
  split
  · exact d.hostSend_records _
  · exact ⟨_, _, rfl, rfl⟩

theorem Link.report_records (l : Link) (kind : Nat) (header : List Byte) : (l.report kind header).records = l.records := by
  unfold Link.report
  split
  · rfl
  · dsimp only
    split <;> rfl

/-- The link with a violation recorded. -/
def Link.violated (l : Link) (t rid kind answer : Nat) (header : List Byte) : Link :=
  { l with violSeq := l.violSeq + 1, viol := (⟨l.violSeq + 1, t, rid, kind, answer, fit 40 header⟩ :: l.viol).take 256 }

theorem Dev.violate_records (d : Dev) (e : Env) (rid kind answer : Nat) (header : List Byte) (h : d.attachMode ≠ 1) :
    ∃ out l, d.violate e rid kind answer header = { d with out := out, link := l } ∧ l.records = (d.link.violated e.time rid kind answer header).records := by
  unfold Dev.violate
  dsimp only
  generalize hm : ({ d with link := _ } : Dev) = m
  obtain ⟨out, l, he, hl⟩ := m.errMsg_records kind
  rw [he]
  obtain ⟨out', l', hr, hl'⟩ := Dev.raisePf_records ({ m with out := out, link := l } : Dev) 2 (by rw [← hm]; exact h)
  refine ⟨out', l', hr.trans (by rw [← hm]), hl'.trans (hl.trans ?_)⟩
  rw [← hm]
  exact congrArg (fun x : Link => ({ x with
    violSeq := d.link.violSeq + 1, viol := (⟨d.link.violSeq + 1, e.time, rid, kind, answer, fit 40 header⟩ :: d.link.viol).take 256 } : Link))
    (d.link.report_records kind header)

/-- What names no function and no host address goes out at once while the link is up. -/
theorem Dev.hostSend_up (d : Dev) (o : Out) (hup : d.link.st = .up) (ho : o.fnAddr = (none, none)) : d.hostSend o = d.send o := by
  have hsec : d.insecureOut o = false := by
    unfold Dev.insecureOut
    rw [ho]
    exact List.any_eq_false.mpr fun _ _ => by simp
  unfold Dev.hostSend
  rw [hsec, hup]
  rfl

/-! ### IDE -/

theorem ideKmKey_keys (k : Fin 4) (vfs : List (Fin 17)) (ranges : List (Nat × Nat)) (s : State) (hs : s.rests = true) (hup : s.dev.link.st = .up) :
    exec (.ideKmKey k vfs ranges) s = .next { s with dev := { s.dev with link := { s.dev.link with
      ide := smSet none s.dev.link.ide k (some ⟨vfs.map (·.val), ranges.take 4⟩), ideBad := listDel k s.dev.link.ideBad } } } := by
  refine s.go_to (fun _ d => if d.link.st != .up then d else d.setLink { d.link with
    ide := smSet none d.link.ide k (some ⟨vfs.map (·.val), ranges.take 4⟩), ideBad := listDel k d.link.ideBad }) _ hs ?_
    (Dev.quiet_link _ _ (State.rests_quiet hs) rfl) (State.rests_stores hs)
  exact if_neg (by rw [hup]; decide)

/-- An integrity failure of a stream that covers PF0 only is recorded, and no Bay has a fault. -/
theorem ideIntegrityFailure_records (k : Fin 4) (h : List Byte) (rs : List (Nat × Nat)) (s : State) (hs : s.rests = true) (hup : s.dev.link.st = .up)
    (hk : smGet none s.dev.link.ide k = some ⟨[0], rs⟩) (hbad : s.dev.link.ideBad.contains k.val = false) (hat : s.dev.attachMode ≠ 1) :
    ∃ out l, exec (.ideIntegrityFailure k h) s = .next { s with dev := { s.dev with free := s.dev.free + 1, out := out, link := l } } ∧
      l.records = { s.dev.link.violated s.time (s.dev.draw.1 % 65536) 0xA 0 h with ideBad := listIns k s.dev.link.ideBad }.records := by
  obtain ⟨out, l, hv, hl⟩ := s.dev.draw.2.violate_records s.env (s.dev.draw.1 % 65536) 0xA 0 h hat
  have hide : l.ide = s.dev.link.ide := (congrArg Link.ide hl :)
  have hnow : l.ideBad = s.dev.link.ideBad := (congrArg Link.ideBad hl :)
  refine ⟨out, { l with ideBad := listIns k l.ideBad }, ?_, ?_⟩
  · refine s.go_to (fun e d => if d.link.st != .up || (smGet none d.link.ide k).isNone || d.link.ideBad.contains k.val then d
      else (d.draw.2.violate e (d.draw.1 % 65536) 0xA 0 h).ideFail k) _ hs ?_
      (Dev.quiet_link _ _ (State.rests_quiet hs) (congrArg Link.heldRecs hl :)) (State.rests_stores hs)
    dsimp only
    rw [if_neg (by rw [hup, hk, hbad]; simp), hv]
    unfold Dev.ideFail
    dsimp only
    rw [if_neg (by rw [hide, hk, hnow, hbad]; simp)]
    rw [show (bays16.filter fun n => (Dev.ideFns { s.dev.draw.2 with out := out, link := l } k).contains (n + 1)) = [] from ?_]
    · rfl
    · refine List.filter_eq_nil_iff.mpr fun n _ => ?_
      unfold Dev.ideFns
      dsimp only
      rw [hide, hk]
      simp
  · rw [hnow]
    exact congrArg (fun x : Link => ({ x with ideBad := listIns k s.dev.link.ideBad } : Link)) hl

/-! ### AtomicOps on Spars -/

section
variable {s : State} {q : AtomicReq} {k : Nat}

/-- A host AtomicOp on the value of a Spar that its function reaches, which does `y` to the device. -/
theorem atomic_row {c : Instr} {op : Nat} {y : Dev} (hs : s.rests = true) (hh : s.dev.hostHere q.fn = true) (hfn : q.fn ≠ 0) (hbar : q.bar = 0)
    (hsize : q.size = 8) (h8 : q.off % 8 = 0) (hlo : 0x4000 ≤ q.off) (hhi : q.off < 0x6000) (hk : s.dev.sparAt (q.fn - 1) q.off = some k)
    (h1 : (s.dev.bay (q.fn - 1)).st ≠ .draining) (h2 : (s.dev.bay (q.fn - 1)).st ≠ .faulted)
    (hc : exec c s = s.go (Dev.turn c fun e d => d.atomicOp e q op)) (hy : (s.dev.sparAtomic s.env k op q.operand q.compare).2 = y)
    (hq : y.quiet = true) (hst : y.stores = []) (hl : y.link = s.dev.link) :
    exec c s = .next { s with dev := y.send (.cpl q.tag "OK" (leBytes 8 (s.dev.spar k).value.toNat)) } := by
  have hup : s.dev.link.st = .up ∧ s.dev.boot.st = .ready := by
    unfold Dev.hostHere at hh
    have : (q.fn : Nat) ≠ 0 := fun h => hfn (Fin.ext h)
    simp only [this, decide_false, Bool.false_or, Bool.and_eq_true, beq_iff_eq] at hh
    exact ⟨hh.1.1, hh.1.2.2⟩
  have hfn' : (q.fn : Nat) ≠ 0 := fun h => hfn (Fin.ext h)
  rw [hc]
  refine s.go_to _ _ hs ((Dev.turn_rests _ _ _ _ (s.rests_ahead hs)).trans ?_) ((Dev.quiet_send y _).trans hq) hst
  have hdec : atomicDecoded q = true := by
    unfold atomicDecoded
    rw [if_neg hfn']
    simp only [hbar, beq_self_eq_true, Bool.true_and, Bool.or_eq_true, decide_eq_true_eq]
    omega
  unfold Dev.atomicOp
  rw [Dev.noFn_here hh, hh, hdec, hup.2, hsize, hbar]
  simp only [Bool.false_eq_true, if_false, Bool.not_true]
  rw [if_neg (by decide), if_neg (by simp [h8]), if_pos trivial, if_neg (by simp; omega), if_neg (by decide), Dev.atomicSpar, hk]
  dsimp only
  rw [if_neg (by simp [h1, h2]), Dev.leadAgents_calm _ _ _ (s.rests_calm hs), hy]
  exact y.hostSend_up _ (by rw [hl]; exact hup.1) rfl

end

/-- Settles O26: a key makes its stream secure, a failure is recorded, and an AtomicOp does to the Spar's value what it says. -/
theorem ideAndAtomics : Obligations.IdeAndAtomics := by
  refine ⟨ideKmKey_keys, fun k h rs s hs hup hk hbad hat => ?_, ?_⟩
  · obtain ⟨out, l, ht, hl⟩ := ideIntegrityFailure_records k h rs s hs hup hk hbad hat
    have hins : l.ideBad = listIns k s.dev.link.ideBad := (congrArg Link.ideBad hl :)
    have hviol : l.viol = (s.dev.link.violated s.time (s.dev.draw.1 % 65536) 0xA 0 h).viol := (congrArg Link.viol hl :)
    refine ⟨_, ht, ?_, (congrArg Link.violSeq hl :), ?_, rfl, rfl⟩
    · show l.ideBad.contains k.val = true
      rw [hins]
      exact List.contains_iff_mem.mpr (mem_listIns _ _)
    · show ∀ r ∈ l.viol.head?, _
      rw [hviol]
      rintro r ⟨rfl⟩
      exact ⟨rfl, rfl, rfl⟩
  · intro q k s hs hh hfn hbar hsize h8 hlo hhi hk h1 h2 ha hm hcourses
    have hrow := @atomic_row s q k
    have hset (v : W64) : (s.dev.setSpar k { s.dev.spar k with value := v }).quiet = true := s.dev.quiet_sparValue k v (State.rests_quiet hs)
    have hput : s.dev.sparSet s.env k q.operand = s.dev.setSpar k { s.dev.spar k with value := BitVec.ofNat 64 q.operand } :=
      s.dev.sparPut_plain s.env k _ ha hm
    refine ⟨hrow hs hh hfn hbar hsize h8 hlo hhi hk h1 h2 rfl (s.dev.sparAdd_plain s.env k _ ha hm hcourses) (hset _) (State.rests_stores hs) rfl,
      hrow hs hh hfn hbar hsize h8 hlo hhi hk h1 h2 rfl hput (hset _) (State.rests_stores hs) rfl,
      fun heq => hrow hs hh hfn hbar hsize h8 hlo hhi hk h1 h2 rfl ((if_pos heq).trans hput) (hset _) (State.rests_stores hs) rfl,
      fun hne => hrow hs hh hfn hbar hsize h8 hlo hhi hk h1 h2 rfl (if_neg hne) (State.rests_quiet hs) (State.rests_stores hs) rfl⟩

end Sys2Proof.Machine
end

section
/-! PROOF. What the host link's partner does wrong, and how the device's own requests end: O27. -/
namespace Sys2Proof.Machine

theorem Dev.setLink_link (d : Dev) (l : Link) : (d.setLink l).link = l := rfl

/-- Without a stream that is Insecure, every function is secure. -/
theorem Dev.insecure_none {d : Dev} (h : d.link.ideBad = []) (fn : Nat) : d.insecure fn = false := by
  unfold Dev.insecure
  rw [h]
  rfl

/-- The device once the request of a tag has ended. -/
theorem Dev.endReq_of (d : Dev) {tag : Nat} {r : HostReq} (bs : List Byte) (st : Status) (h : d.link.reqs.find? (·.tag == tag) = some r) :
    d.endReq tag bs st = d.setLink { d.link with
      reqs := d.link.reqs.filter (·.tag != tag)
      rx := if r.dead || r.stale then d.link.rx else d.link.rx ++ [(r.who, r.addr, fit r.len bs, st)] } := by
  unfold Dev.endReq
  rw [h]

section
variable {s : State} {tag : Nat} {r : HostReq} (hs : s.rests = true)
include hs

theorem completion_hands (data : List Byte) (hup : s.dev.link.st = .up) (hide : s.dev.link.ideBad = [])
    (hr : s.dev.link.reqs.find? (·.tag == tag) = some r) (hstale : r.stale = false) (hdead : r.dead = false) :
    exec (.completionReceived tag .success data) s = .next { s with dev := { s.dev with link := { s.dev.link with
      reqs := s.dev.link.reqs.filter (·.tag != tag), rx := s.dev.link.rx ++ [(r.who, r.addr, fit r.len data, .ok)] } } } := by
  show execCompletionReceived tag .success data s = _
  unfold execCompletionReceived
  refine s.go_to _ _ hs ?_ (Dev.quiet_link _ _ (State.rests_quiet hs) rfl) (State.rests_stores hs)
  dsimp only
  rw [hr]
  dsimp only
  rw [Dev.insecure_none hide, if_neg Bool.false_ne_true, hstale, if_neg Bool.false_ne_true, if_neg (by rw [hup]; decide), if_pos rfl, Dev.endReq_of _ _ _ hr,
    hstale, hdead]
  rfl

theorem completion_stale (data : List Byte) (hide : s.dev.link.ideBad = []) (hr : s.dev.link.reqs.find? (·.tag == tag) = some r) (hstale : r.stale = true)
    (hod : s.dev.od 0x2200 0x15 + 1 < 2 ^ 32) :
    exec (.completionReceived tag .success data) s = .next { s with dev := ({ s.dev with link := { s.dev.link with
      reqs := s.dev.link.reqs.filter (·.tag != tag) } } : Dev).setOd 0x2200 0x15 (s.dev.od 0x2200 0x15 + 1) } := by
  show execCompletionReceived tag .success data s = _
  unfold execCompletionReceived
  refine s.go_to _ _ hs ?_ ((Dev.quiet_setOd _ _ _ _).trans (Dev.quiet_link _ _ (State.rests_quiet hs) rfl)) (State.rests_stores hs)
  dsimp only
  rw [hr]
  dsimp only
  rw [Dev.insecure_none hide, if_neg Bool.false_ne_true, if_pos hstale, Dev.endReq_of _ _ _ hr, hstale, Bool.or_true, if_pos rfl]
  exact Dev.count_of_lt _ _ _ _ hod

theorem completion_timeout (hr : s.dev.link.reqs.find? (·.tag == tag) = some r) (hstale : r.stale = false) (hdead : r.dead = false)
    (ht : r.time + 16000000 ≤ s.time) (hat : s.dev.attachMode ≠ 1) :
    ∃ t, exec (.completionTimeout tag) s = .next t ∧ t.dev.link.reqs = s.dev.link.reqs.filter (·.tag != tag) ∧
      t.dev.link.rx = s.dev.link.rx ++ [(r.who, r.addr, fit r.len [], .timeout)] ∧ t.dev.link.violSeq = s.dev.link.violSeq + 1 ∧
      (∀ v ∈ t.dev.link.viol.head?, v.kind = 5 ∧ v.answer = 0) := by
  obtain ⟨out, l, hv, hl⟩ := s.dev.draw.2.violate_records s.env ((r.bay.map (· + 1)).getD 0) 5 0 (leBytes 40 s.dev.draw.1) hat
  have hreqs : l.reqs = s.dev.link.reqs := (congrArg Link.reqs hl :)
  have hrx : l.rx = s.dev.link.rx := (congrArg Link.rx hl :)
  have hviol : l.viol = (s.dev.draw.2.link.violated s.time ((r.bay.map (· + 1)).getD 0) 5 0 (leBytes 40 s.dev.draw.1)).viol := (congrArg Link.viol hl :)
  have hexec : exec (.completionTimeout tag) s = .next { s with dev := ({ s.dev.draw.2 with out := out, link := l } : Dev).setLink { l with
      reqs := l.reqs.filter (·.tag != tag), rx := l.rx ++ [(r.who, r.addr, fit r.len [], .timeout)] } } := by
    show execCompletionTimeout tag s = _
    unfold execCompletionTimeout
    refine s.go_to _ _ hs ?_ (Dev.quiet_link s.dev _ (State.rests_quiet hs) (congrArg Link.heldRecs hl :)) (State.rests_stores hs)
    dsimp only
    rw [hr]
    dsimp only
    unfold Dev.violateFn
    rw [if_neg (show ¬ s.env.time < r.time + 16000000 from Nat.not_lt.mpr ht), hstale, if_neg Bool.false_ne_true, hv, Dev.endReq_of (r := r) _ _ _ (by dsimp only; rw [hreqs]; exact hr), hstale, hdead]
    rfl
  refine ⟨_, hexec, ?_, ?_, (congrArg Link.violSeq hl :), ?_⟩
  · exact congrArg (List.filter _) hreqs
  · exact congrArg (· ++ _) hrx
  · show ∀ v ∈ l.viol.head?, _
    rw [hviol]
    rintro v ⟨rfl⟩
    exact ⟨rfl, rfl⟩

end

/-! ### Violations of the partner -/

/-- What an error message sends does not turn on the error registers. -/
theorem Dev.errMsg_out (d : Dev) (kind : Nat) (l : Link) (hup : d.link.st = .up) (hst : l.st = d.link.st) (hcfg : l.cfg = d.link.cfg)
    (hsev : l.aerSeverity = d.link.aerSeverity) : (({ d with link := l } : Dev).errMsg kind).out = (d.errMsg kind).out := by
  have key (c : Prop) [Decidable c] (fatal : Bool) :
      (if c then ({ d with link := l } : Dev).hostSend (.err fatal) else { d with link := l }).out = (if c then d.hostSend (.err fatal) else d).out := by
    rw [Dev.hostSend_up _ _ (hst.trans hup) rfl, Dev.hostSend_up _ _ hup rfl]
    split <;> rfl
  unfold Dev.errMsg
  split
  · rfl
  · dsimp only
    rw [hcfg, hsev]
    exact key _ _

theorem Dev.raisePf_masked (d : Dev) (v : Nat) (h : d.unmasked 0 v = false) : d.raisePf v = d.pendVec 0 v := by
  unfold Dev.raisePf Dev.pfVecOk
  rw [h]
  rfl

theorem Dev.violate_out (d : Dev) (e : Env) (rid kind answer : Nat) (header : List Byte) (hup : d.link.st = .up) (hm : d.unmasked 0 2 = false) :
    (d.violate e rid kind answer header).out = (d.errMsg kind).out := by
  have hrep : (d.link.report kind header).records = d.link.records := d.link.report_records kind header
  obtain ⟨out, l, he, hl⟩ := Dev.errMsg_records ({ d with link := { d.link.report kind header with
    violSeq := d.link.violSeq + 1, viol := (⟨d.link.violSeq + 1, e.time, rid, kind, answer, fit 40 header⟩ :: d.link.viol).take 256 } } : Dev) kind
  have hopen : l.msixOpen = d.link.msixOpen := ((congrArg Link.msixOpen hl :) : _ = _).trans (congrArg Link.msixOpen hrep :)
  unfold Dev.violate
  dsimp only
  rw [Dev.raisePf_masked]
  · exact d.errMsg_out kind _ hup (congrArg Link.st hrep :) (congrArg Link.cfg hrep :) (congrArg Link.aerSeverity hrep :)
  · rw [he]
    show l.msixOpen.contains _ = false
    rw [hopen]
    exact hm

/-- A violation logged and answered. -/
def Dev.violAnswered (d : Dev) (e : Env) (v : Violation) : Dev :=
  if violAnswer v = 0 then d.violate e v.rid v.kind (violAnswer v) v.header
  else (d.violate e v.rid v.kind (violAnswer v) v.header).hostSend (.cpl v.tag (if violAnswer v = 1 then "UR" else "CA") [])

theorem Dev.partnerViolation_plain (d : Dev) (e : Env) (v : Violation) (hk : v.kind ∈ [1, 3, 4, 7, 0xB, 0xC]) :
    d.partnerViolation e v = d.violAnswered e v := by
  unfold Dev.partnerViolation
  dsimp only
  split
  case h_7 => rfl
  all_goals
    rename v.kind = _ => h
    rw [h] at hk
    exact absurd hk (by decide)

/-- A violation whose row of the table adds nothing is recorded and answered. -/
theorem partnerViolation_records (v : Violation) (s : State) (hs : s.rests = true) (hup : s.dev.link.st = .up) (hk : v.kind ∈ [1, 3, 4, 7, 0xB, 0xC])
    (hat : s.dev.attachMode ≠ 1) (hm : s.dev.unmasked 0 2 = false) :
    ∃ t, exec (.partnerViolation v) s = .next t ∧ t.dev.link.violSeq = s.dev.link.violSeq + 1 ∧
      t.dev.link.viol.head? = some ⟨s.dev.link.violSeq + 1, s.time, v.rid, v.kind, violAnswer v, fit 40 v.header⟩ ∧
      t.dev.out = (s.dev.errMsg v.kind).out ++ (if violAnswer v = 0 then [] else [.cpl v.tag (if violAnswer v = 1 then "UR" else "CA") []]) ∧
      t.dev.bays = s.dev.bays ∧ t.mem = s.mem := by
  obtain ⟨out, l, hv, hl⟩ := s.dev.violate_records s.env v.rid v.kind (violAnswer v) v.header hat
  have hout : out = (s.dev.errMsg v.kind).out :=
    (congrArg Dev.out hv).symm.trans (s.dev.violate_out s.env v.rid v.kind (violAnswer v) v.header hup hm)
  have hst : l.st = .up := ((congrArg Link.st hl :) : _ = s.dev.link.st).trans hup
  have hviol : l.viol = (s.dev.link.violated s.time v.rid v.kind (violAnswer v) v.header).viol := (congrArg Link.viol hl :)
  have hexec : exec (.partnerViolation v) s = .next { s with dev := { s.dev with link := l, out :=
      out ++ (if violAnswer v = 0 then [] else [.cpl v.tag (if violAnswer v = 1 then "UR" else "CA") []]) } } := by
    show execPartnerViolation v s = _
    unfold execPartnerViolation
    refine s.go_to _ _ hs ?_ (Dev.quiet_link _ _ (State.rests_quiet hs) (congrArg Link.heldRecs hl :)) (State.rests_stores hs)
    have hkind : ¬ (s.dev.link.st != .up || decide (0xC < v.kind)) = true ∧ v.kind ≠ 0 := by
      rw [hup]
      simp only [List.mem_cons, List.not_mem_nil, or_false] at hk
      simp
      omega
    dsimp only
    rw [if_neg hkind.1, if_neg hkind.2, Dev.partnerViolation_plain _ _ _ hk]
    unfold Dev.violAnswered
    rw [hv]
    split
    · exact congrArg (fun o => ({ s.dev with link := l, out := o } : Dev)) (List.append_nil out).symm
    · exact Dev.hostSend_up _ _ hst rfl
  refine ⟨_, hexec, (congrArg Link.violSeq hl :), congrArg List.head? hviol, congrArg (· ++ _) hout, rfl, rfl⟩

/-- Settles O27: violations are answered and recorded, and a request ends with its data, as stale, or with TIMEOUT. -/
theorem partnerAndCompletions : Obligations.PartnerAndCompletions :=
  ⟨fun v s hs hup hk hat hm => partnerViolation_records v s hs hup hk hat hm,
    fun _ data _ _ hs hup hide hr hstale hdead => completion_hands hs data hup hide hr hstale hdead,
    fun _ data _ _ hs hide hr hstale hod => completion_stale hs data hide hr hstale hod,
    fun _ _ _ hs hr hstale hdead ht hat => completion_timeout hs hr hstale hdead ht hat⟩

end Sys2Proof.Machine
end

section
/-! PROOF. Without a CAN FD node number, the time limit of a segmented read is 500 ms, whatever 0x2002.03 holds (R101): O21 does not hold. -/
namespace Sys2Proof.Machine

/-- A read of the public key of the replay journal, which stands at the server from CAN FD port 0. -/
def keyRead : Req := { route := .can 0, op := .read, idx := 0x2C00, sub := 2 }

/-- In service, CAN_NODE 0, 0x2002.03 at 7 ms. -/
def namelessState : State :=
  { servingState with dev := { servingState.dev with
      board := { servingState.dev.board with strapRaw := 0 }
      srv := { reqs := [keyRead], od := [(0x200203, 7)] } } }

/-- The time limit of the transfer that an outcome leaves on port 0. -/
def portLimit : Outc → Option Nat
  | .next t => (t.dev.usdo 0).map (·.deadline)
  | _ => none

theorem keyRead_limit : portLimit (exec (.dictRequestServe .done) namelessState) = some (1000000 + 500 * 1000000) := by decide +kernel

/-- Refutes O21: its last clause takes the time limit of a segmented read from 0x2002.03 on a device without a node number too. -/
theorem not_windowsAndReads : ¬ Obligations.WindowsAndReads := by
  unfold Obligations.WindowsAndReads
  rintro ⟨-, -, -, -, hread⟩
  obtain ⟨-, hlong⟩ := hread keyRead [] 0 ⟨0x2C00, 1, 2, 2, 1, .oct 96, .const, false, false, 0⟩ namelessState (by decide +kernel) rfl rfl rfl rfl
    (by decide +kernel) (by decide) (by decide +kernel) (by decide +kernel) (by decide +kernel)
  have hlimit := keyRead_limit
  rw [hlong (by decide +kernel)] at hlimit
  exact absurd hlimit (by decide +kernel)

end Sys2Proof.Machine
end

section
/-! PROOF. A Skylight read behind a held write of its line waits with it (R198 to R201): O28 does not hold. -/
namespace Sys2Proof.Machine

/-- In service, VFs enabled: Bay 0 idle with granule 0 of HBM behind its first Skylight window, a fence of its page pending, and a write of that
window's first byte held behind it. -/
def fencedState : State :=
  { servingState with dev := { servingState.dev with
      bays := [(0, { st := .idle, held := { hbm := { base := 0, count := 1 } } })]
      link := { st := .up, vfEnable := true }
      srv := { od := [(0x299002, 0x100010000)] }
      pages := [(0, { fences := [(0, 0)], held := [{ sky := true, off := 0, data := [1] }] })] } }

/-- How many messages an outcome leaves. -/
def sentCount : Outc → Option Nat
  | .next t => some t.dev.out.length
  | _ => none

theorem fencedRead_waits : sentCount (exec (.skylightRead 0 0 1 0) fencedState) = some 0 := by decide +kernel

/-- Refutes O28: its clause of the Skylight read takes no account of a write of the line that is held behind a fence. -/
theorem not_pagesAndSkylights : ¬ Obligations.PagesAndSkylights := by
  unfold Obligations.PagesAndSkylights
  rintro ⟨-, -, -, -, -, -, -, -, -, -, -, -, hread⟩
  obtain ⟨t, ht, hout, -⟩ := hread 0 0 1 0 0 fencedState (by decide +kernel) (by decide +kernel) (by decide) (by decide) (by decide +kernel) (by decide +kernel)
  have hcount := fencedRead_waits
  rw [ht] at hcount
  have hlen : t.dev.out.length = 0 := Option.some.inj hcount
  rw [hout, List.length_append] at hlen
  exact absurd hlen (by simp)

end Sys2Proof.Machine
end

section
/-! PROOF. Courses and Gutters move (R375 to R379, R385, R398, R410, R411): O38 and O39. -/
namespace Sys2Proof.Machine

/-- In a state that rests a row that serves a requester does so at once. -/
theorem State.go_service {s : State} (hs : s.rests = true) (w : Who) (f : Env → Dev → Dev) : (s.go fun e d => d.service e w f) = s.go f := by
  refine s.go_congr (s.rests_calm hs) ?_
  show s.dev.service s.env w f = _
  unfold Dev.service
  rw [Dev.turnOf_rests _ _ _ _ (State.rests_ahead hs), Dev.leadService_calm _ _ _ (s.rests_calm hs)]

theorem Dev.course_setCourse (d : Dev) (c : Nat) (x : Course) : (d.setCourse c x).course c = x := smGet_set_same ({} : Course) ..

theorem Dev.setCourse_setCourse (d : Dev) (c : Nat) (x y : Course) : (d.setCourse c x).setCourse c y = d.setCourse c y :=
  congrArg (fun m => ({ d with courses := m } : Dev)) (smSet_smSet _ _ _ _ _)

/-! ### Courses -/

/-- A burst that can be read joins the entries of a Course that runs. -/
theorem Dev.courseBurst_reads (d : Dev) (e : Env) (c : Nat) {bs : List Byte} {tr : Trans} (hst : (d.course c).st = .running) (hh : (d.course c).hdr ≠ [])
    (hat : (d.course c).entry + (d.course c).entries.length < cCount (d.course c).hdr) (hlen : (d.course c).entries.length ≤ 16)
    (hread : d.readRange e (.course c) (d.course c).bay (d.course c).space ((d.course c).list + 64 + 32 * ((d.course c).entry + (d.course c).entries.length))
      (32 * min 64 (cCount (d.course c).hdr - ((d.course c).entry + (d.course c).entries.length))) = (.got bs false, { d with trans := tr }))
    (hgood : (entriesOf bs).findSome? Machine.entryBad = none) :
    d.courseBurst e c true = ({ d with trans := tr } : Dev).setCourse c { d.course c with entries := (d.course c).entries ++ entriesOf bs } := by
  have hprep : d.readPrep e (.course c) (d.course c).bay (d.course c).space
      ((d.course c).list + 64 + 32 * ((d.course c).entry + (d.course c).entries.length))
      (32 * min 64 (cCount (d.course c).hdr - ((d.course c).entry + (d.course c).entries.length))) = (.inl bs, { d with trans := tr }) := by
    unfold Dev.readPrep
    rw [hread]
  have hmore : ¬ (decide (cCount (d.course c).hdr ≤ (d.course c).entry + (d.course c).entries.length) ||
      decide (16 < (d.course c).entries.length)) = true := by simpa using ⟨hat, hlen⟩
  unfold Dev.courseBurst
  dsimp only
  rw [if_neg (by simp [hst, hh]), if_neg hmore,
    if_neg (show ¬ (!true) = true by decide), hprep]
  simp only [hgood]
  rw [Dev.course_setCourse]
  exact if_neg (by simp only [show ({ d with trans := tr } : Dev).course c = d.course c from rfl]; simp [hst])

theorem blockListBurstReturn_takes (c : Fin 512) (bs : List Byte) (tr : Trans) (s : State) (hs : s.rests = true) (hst : (s.dev.course c).st = .running)
    (hh : (s.dev.course c).hdr ≠ []) (hat : (s.dev.course c).entry + (s.dev.course c).entries.length < cCount (s.dev.course c).hdr)
    (hlen : (s.dev.course c).entries.length ≤ 16)
    (hread : s.reads (.course c) (s.dev.course c).bay (s.dev.course c).space
      ((s.dev.course c).list + 64 + 32 * ((s.dev.course c).entry + (s.dev.course c).entries.length))
      (32 * min 64 (cCount (s.dev.course c).hdr - ((s.dev.course c).entry + (s.dev.course c).entries.length))) bs tr)
    (hgood : (entriesOf bs).findSome? entryBad = none) :
    exec (.blockListBurstReturn c true) s = .next { s with
      dev := ({ s.dev with trans := tr } : Dev).setCourse c { s.dev.course c with entries := (s.dev.course c).entries ++ entriesOf bs } } := by
  show execBlockListBurstReturn c true s = _
  unfold execBlockListBurstReturn
  rw [State.go_service hs]
  refine s.go_to _ _ hs ?_ (s.rests_quiet hs) (s.rests_stores hs)
  dsimp only
  rw [if_neg (by simp [hst])]
  exact s.dev.courseBurst_reads s.env c hst hh hat hlen hread hgood

/-- A Course that stands alone, its ring released as far as it is placed. -/
def Course.freed (x : Course) : Course := { x with released := x.placed }

/-- The pass of an in-Course that stands alone and has moved every line ends, whatever it had released. -/
theorem Dev.courseRun_ends (d : Dev) (e : Env) (c : Nat) (hst : (d.course c).st = .running) (hstage : (d.course c).stage = none)
    (hh : (d.course c).hdr ≠ []) (hadm : (d.course c).admitted = true)
    (hall : cCount (d.course c).hdr ≤ (d.course c).entry) (hspar : cEnd (d.course c).hdr = 0xFFFF) (hpass : (d.course c).pass < cPasses (d.course c).hdr) :
    d.courseRun e c true = d.setCourse c ((d.course c).freed.passEnd e.time) := by
  have hmove : ∀ k, (d.setCourse c (d.course c).freed).courseMove e c true (k + 1) = d.setCourse c (d.course c).freed := by
    intro k
    unfold Dev.courseMove
    dsimp only
    rw [Dev.course_setCourse]
    exact if_pos (by simp [Course.freed, hall])
  have hfill : ((d.setCourse c (d.course c).freed).courseRing (d.course c).freed).fill = 0 := by
    unfold Dev.courseRing
    rw [show (d.course c).freed.stage = none from hstage]
    exact Nat.sub_self _
  unfold Dev.courseRun
  dsimp only
  rw [if_neg (by simp [hh, hadm]), if_pos (by simp [hst, hstage])]
  rw [show ({ d.course c with released := (d.course c).placed } : Course) = (d.course c).freed from rfl, hmove, Dev.course_setCourse]
  rw [show (d.course c).freed.stage = none from hstage]
  dsimp only
  unfold Dev.coursePass
  dsimp only
  rw [Dev.course_setCourse, hfill, if_neg (by simp [Course.freed, hst, hh, hall]), if_neg (by simpa [Course.freed] using hpass), Dev.setCourse_setCourse]
  unfold Dev.pulse
  exact if_pos (by simp [Course.freed, hspar])

theorem Course.passEnd_untriggered (x : Course) {t : Nat} (h : x.trigAt ≠ t) : x.passEnd t =
    if x.latched then { x with latched := false, entry := 0, rep := 0, line := 0, entries := [], pass := x.pass + 1, trigs := 0 }
    else { x with st := .rearmWait, trigs := 0 } := by
  have hk : (if x.trigAt == t then x.trigs else 0) = 0 := if_neg (by simpa using h)
  unfold Course.passEnd
  simp only [hk, if_true, List.range_zero, List.foldl_nil]
  cases x.latched <;> rfl

theorem coursePassEnd_ends (c : Fin 512) (s : State) (hs : s.rests = true) (hst : (s.dev.course c).st = .running) (hstage : (s.dev.course c).stage = none)
    (hh : (s.dev.course c).hdr ≠ []) (hadm : (s.dev.course c).admitted = true)
    (hall : cCount (s.dev.course c).hdr ≤ (s.dev.course c).entry) (hspar : cEnd (s.dev.course c).hdr = 0xFFFF)
    (hpass : (s.dev.course c).pass < cPasses (s.dev.course c).hdr) :
    exec (.coursePassEnd c true) s = .next { s with dev := s.dev.setCourse c ((s.dev.course c).freed.passEnd s.time) } := by
  show execCoursePassEnd c true s = _
  unfold execCoursePassEnd
  rw [State.go_service hs]
  exact s.go_to _ _ hs (s.dev.courseRun_ends s.env c hst hstage hh hadm hall hspar hpass) (s.rests_quiet hs) (s.rests_stores hs)

/-- Settles O39: a burst by what the Course reads of its list, the end of a pass by a Course that has nothing left to move or to release. -/
theorem courseMoves : Obligations.CourseMoves := by
  unfold Obligations.CourseMoves
  refine ⟨fun c bs tr s hs hst hh hat hlen hread hgood => blockListBurstReturn_takes c bs tr s hs hst hh hat hlen hread hgood,
    fun c s hs hst hstage hh hadm _ hall hspar hpass htrig => ?_⟩
  rw [coursePassEnd_ends c s hs hst hstage hh hadm hall hspar hpass, Course.passEnd_untriggered _ (show (s.dev.course c).freed.trigAt ≠ s.time from htrig)]
  unfold Course.freed
  cases (s.dev.course c).latched <;> rfl

/-! ### Gutters -/

theorem Dev.gutter_setGutter (d : Dev) (c : Nat) (x : Gutter) : (d.setGutter c x).gutter c = x := smGet_set_same ({} : Gutter) ..

theorem Dev.setGutter_setGutter (d : Dev) (c : Nat) (x y : Gutter) : (d.setGutter c x).setGutter c y = d.setGutter c y :=
  congrArg (fun m => ({ d with gutters := m } : Dev)) (smSet_smSet _ _ _ _ _)

/-- The channel with descriptor `x` read, its CRC begun anew or carried on (R375, R385). -/
def Gutter.took (g : Gutter) (x : List Byte) : Gutter :=
  let crc0 := if gMode x = 0 || gCont x then g.crc else 0
  { g with d := x, fetched := true, row := 0, off := 0, crc0 := crc0, crc := if gMode x = 0 then g.crc else crc0 }

theorem Dev.gutterFetch_reads (d : Dev) (e : Env) (c : Nat) {x : List Byte} {tr : Trans} (hst : (d.gutter c).st = .running)
    (hf : (d.gutter c).fetched = false) (h64 : (d.gutter c).desc % 64 = 0) (hok : (d.gutter c).desc < 2 ^ 57)
    (hread : d.readRange e (.gutter c) (d.gutter c).bay (d.gutter c).space (d.gutter c).desc 64 = (.got x false, { d with trans := tr }))
    (hgood : d.gutterCheck c ((d.gutter c).took x) x = none) :
    d.gutterFetch e c true = ({ d with trans := tr } : Dev).setGutter c ((d.gutter c).took x) := by
  have htook : (if gMode x = 0 then ({ d.gutter c with d := x, fetched := true, row := 0, off := 0, crc0 := if gMode x = 0 || gCont x then (d.gutter c).crc else 0 } : Gutter)
      else { d.gutter c with
        d := x
        fetched := true
        row := 0
        off := 0
        crc0 := if gMode x = 0 || gCont x then (d.gutter c).crc else 0
        crc := if gMode x = 0 || gCont x then (d.gutter c).crc else 0 }) = (d.gutter c).took x := by
    unfold Gutter.took
    split <;> rfl
  unfold Dev.gutterFetch
  dsimp only
  rw [if_neg (by simp [hst, hf]), if_neg (by simpa [h64, dvaOk] using hok), if_neg (show ¬ (!true) = true by decide), hread]
  dsimp only
  rw [htook, show (({ d with trans := tr } : Dev).setGutter c ((d.gutter c).took x)).gutterCheck c ((d.gutter c).took x) x = d.gutterCheck c ((d.gutter c).took x) x from rfl,
    hgood]

theorem descriptorFetch_reads (c : Fin 256) (x : List Byte) (tr : Trans) (s : State) (hs : s.rests = true) (hst : (s.dev.gutter c).st = .running)
    (hf : (s.dev.gutter c).fetched = false) (h64 : (s.dev.gutter c).desc % 64 = 0) (hok : (s.dev.gutter c).desc < 2 ^ 57)
    (hread : s.reads (.gutter c) (s.dev.gutter c).bay (s.dev.gutter c).space (s.dev.gutter c).desc 64 x tr)
    (hgood : s.dev.gutterCheck c ((s.dev.gutter c).took x) x = none) :
    exec (.descriptorFetch c true) s = .next { s with dev := ({ s.dev with trans := tr } : Dev).setGutter c ((s.dev.gutter c).took x) } :=
  s.go_to (fun e d => d.gutterFetch e c true) _ hs (s.dev.gutterFetch_reads s.env c hst hf h64 hok hread hgood) (s.rests_quiet hs) (s.rests_stores hs)

/-- The one part of a descriptor's row that lies within a line moves. -/
theorem Dev.gutterPart_moves (d d' : Dev) (e : Env) (c : Nat) {sb : List Byte} {tr : Trans} {g : Gutter} (hg : d.gutter c = g) (hstage : g.stage = none)
    (hrow : g.row = 0) (hoff : g.off = 0) (hk0 : 0 < gDstLen g.d) (hk : gDstLen g.d ≤ 64 - gDst g.d % 64) (hmode : gMode g.d = 0)
    (hread : d.readRange e (.gutter c) g.bay g.space (gSrc g.d) (cdiv (cdiv (8 * gDstLen g.d) (gWd g.d) * gWs g.d) 8) = (.got sb false, { d with trans := tr }))
    (hwrite : (({ d with trans := tr } : Dev).drawn g.breach sb.length).writeRange e (.gutter c) g.bay g.space (gDst g.d)
      (gutConvert g.d 0 (gDstLen g.d) 0 (cdiv (8 * gDstLen g.d) (gWd g.d)) (d.gutterSrc g sb)) false = (.done, d')) (hg' : d'.gutter c = g) :
    d.gutterPart e c true = (true, d'.setGutter c { g with off := gDstLen g.d, bytes := g.bytes + gDstLen g.d }) := by
  have hmin : min (gDstLen g.d) (64 - gDst g.d % 64) = gDstLen g.d := by omega
  have hgr : d.gutterRead e c (gSrc g.d) 0 (cdiv (cdiv (8 * gDstLen g.d) (gWd g.d) * gWs g.d) 8) true = (.got sb false, { d with trans := tr }) := by
    unfold Dev.gutterRead
    dsimp only
    rw [hg, hstage]
    dsimp only
    rw [Nat.add_zero, hread]
    rfl
  have hgw : (({ d with trans := tr } : Dev).drawn g.breach sb.length).gutterWrite e c (gDst g.d)
      (gutConvert g.d 0 (gDstLen g.d) 0 (cdiv (8 * gDstLen g.d) (gWd g.d)) (d.gutterSrc g sb)) = (.done, d') := by
    have hgd : (({ d with trans := tr } : Dev).drawn g.breach sb.length).gutter c = g := by
      unfold Dev.drawn
      split <;> exact hg
    unfold Dev.gutterWrite
    dsimp only
    rw [hgd, hstage]
    exact hwrite
  unfold Dev.gutterPart
  dsimp only
  rw [hg, hrow, hoff, if_neg (by omega)]
  simp only [Nat.zero_mul, Nat.mul_zero, Nat.zero_div, Nat.add_zero, Nat.zero_add, Nat.sub_zero, hmin]
  rw [hgr]
  dsimp only
  rw [show ({ d with trans := tr } : Dev).gutterSrc g sb = d.gutterSrc g sb from rfl, hgw]
  dsimp only
  rw [hg', hoff, hrow, if_pos hmode, Nat.zero_add]

/-- A row whose bytes have all moved is done. -/
theorem Dev.gutterPart_row (d : Dev) (e : Env) (c : Nat) (ecc : Bool) {g : Gutter} (hg : d.gutter c = g) (hstage : g.stage = none) (hoff : gDstLen g.d ≤ g.off) :
    d.gutterPart e c ecc = (true, d.setGutter c { g with row := g.row + 1, off := 0 }) := by
  unfold Dev.gutterPart
  dsimp only
  rw [hg, if_pos hoff, hstage]
  dsimp only
  rw [List.append_nil]

/-- A channel whose rows have all moved moves nothing. -/
theorem Dev.gutterMove_done (d : Dev) (e : Env) (c : Nat) (ecc : Bool) (k : Nat) (h : gRows (d.gutter c).d ≤ (d.gutter c).row) : d.gutterMove e c ecc k = d := by
  cases k with
  | zero => rfl
  | succ k =>
    unfold Dev.gutterMove
    exact if_pos (by simp [h])

/-- The channel once its one row of `k` bytes has moved and it goes on to the next descriptor. -/
def Gutter.passed (g : Gutter) : Gutter :=
  { g with
    row := 1
    off := 0
    bytes := g.bytes + gDstLen g.d
    desc := gNext g.d
    index := g.index + 1
    fetched := false
    crcMode := 0
    hostWrote := false
    sent := []
    before := g.before ++ [g.d] }

/-- A descriptor of one row, within a line, without a CRC and without a Spar is done with its one part. -/
theorem Dev.gutterRun_moves (d d' : Dev) (e : Env) (c : Nat) {g : Gutter} (hg : d.gutter c = g) (hst : g.st = .running) (hf : g.fetched = true)
    (hstage : g.stage = none) (hrow : g.row = 0) (hrows : gRows g.d = 1) (hmode : gMode g.d = 0) (hspar : gSpar g.d = 0xFFFF) (hnext : gNext g.d ≠ 0)
    (hpart : d.gutterPart e c true = (true, d'.setGutter c { g with off := gDstLen g.d, bytes := g.bytes + gDstLen g.d })) :
    d.gutterRun e c true = d'.setGutter c g.passed := by
  have hmove : d.gutterMove e c true (gRows g.d * (gDstLen g.d / 64 + 3)) =
      d'.setGutter c { g with row := 1, off := 0, bytes := g.bytes + gDstLen g.d } := by
    rw [show gRows g.d * (gDstLen g.d / 64 + 3) = gDstLen g.d / 64 + 1 + 1 + 1 by rw [hrows]; omega]
    unfold Dev.gutterMove
    dsimp only
    rw [hg, if_neg (by simp [hst, hrow, hrows]), hpart]
    dsimp only
    unfold Dev.gutterMove
    dsimp only
    rw [Dev.gutter_setGutter, if_neg (by simp [hst, hrow, hrows]), Dev.gutterPart_row (g := { g with off := gDstLen g.d, bytes := g.bytes + gDstLen g.d })
      _ _ _ _ (Dev.gutter_setGutter _ _ _) hstage (Nat.le_refl _)]
    dsimp only
    rw [Dev.setGutter_setGutter, hrow, Dev.gutterMove_done _ _ _ _ _ (by rw [Dev.gutter_setGutter]; exact hrows.le)]
  have hpulse : ∀ y : Dev, y.pulse e g.bay (gSpar g.d) = y := fun y => by
    unfold Dev.pulse
    exact if_pos (by simp [hspar])
  unfold Dev.gutterRun
  dsimp only
  rw [hg, if_neg (by simp [hst, hf]), hmove, Dev.gutter_setGutter, if_pos (by simp [hst, hrows])]
  unfold Dev.gutterDone
  dsimp only
  rw [Dev.gutter_setGutter, if_neg (by simp [hnext]), if_pos hmode, hpulse]
  unfold Dev.gutterNext
  dsimp only
  rw [Dev.gutter_setGutter, if_neg hnext, Dev.setGutter_setGutter, hmode]
  rfl

theorem Dev.starved_fair {d : Dev} (h : ∀ r, (d.arb r).proportional = false) (r : Option Nat) : d.starved r = false := by
  cases r with
  | none => rfl
  | some r => exact congrArg (· && _) (h r)

theorem Dev.gutterServed_fair (d : Dev) (e : Env) (c : Nat) (h : ∀ r, (d.arb r).proportional = false) : d.gutterServed e c true = d.gutterRun e c true := by
  unfold Dev.gutterServed
  dsimp only
  rw [Dev.starved_fair h, Dev.starved_fair h]
  exact if_neg (by simp)

theorem Dev.drawn_trans (d : Dev) (tr : Trans) (b : Bool) (k : Nat) : ({ d with trans := tr } : Dev).drawn b k = { d.drawn b k with trans := tr } := by
  unfold Dev.drawn
  split <;> rfl

theorem Dev.quiet_drawn (d : Dev) (b : Bool) (k : Nat) : (d.drawn b k).quiet = d.quiet := by
  unfold Dev.drawn
  split <;> rfl

theorem descriptorEnd_moves (c : Fin 256) (sb : List Byte) (tr tr' : Trans) (st : List MemOp) (s : State) (hs : s.rests = true) (g : Gutter)
    (hg : s.dev.gutter c = g) (hfair : ∀ r, (s.dev.arb r).proportional = false) (hst : g.st = .running) (hf : g.fetched = true) (hstage : g.stage = none)
    (hrow : g.row = 0) (hoff : g.off = 0) (hrows : gRows g.d = 1) (hk0 : 0 < gDstLen g.d) (hk : gDstLen g.d ≤ 64 - gDst g.d % 64)
    (hmode : gMode g.d = 0) (hspar : gSpar g.d = 0xFFFF) (hnext : gNext g.d ≠ 0)
    (hread : s.reads (.gutter c) g.bay g.space (gSrc g.d) (cdiv (cdiv (8 * gDstLen g.d) (gWd g.d) * gWs g.d) 8) sb tr)
    (hwrite : ({ s with dev := s.dev.drawn g.breach sb.length } : State).writesAfter tr (.gutter c) g.bay g.space (gDst g.d)
      (gutConvert g.d 0 (gDstLen g.d) 0 (cdiv (8 * gDstLen g.d) (gWd g.d)) (s.dev.gutterSrc g sb)) false tr' st) :
    exec (.descriptorEnd c true) s =
      .next (s.commit (({ s.dev.drawn g.breach sb.length with trans := tr', stores := st } : Dev).setGutter c g.passed)) := by
  have hg' : ({ s.dev.drawn g.breach sb.length with trans := tr', stores := st } : Dev).gutter c = g := by
    unfold Dev.drawn
    split <;> exact hg
  show execDescriptorEnd c true s = _
  unfold execDescriptorEnd
  rw [State.go_service hs]
  refine s.go_done _ _ hs ((s.dev.gutterServed_fair s.env c hfair).trans (s.dev.gutterRun_moves _ s.env c hg hst hf hstage hrow hrows hmode hspar hnext
    (s.dev.gutterPart_moves _ s.env c hg hstage hrow hoff hk0 hk hmode hread ?_ hg'))) ?_
  · rw [Dev.drawn_trans]
    exact hwrite
  · exact (s.dev.quiet_drawn _ _).trans (s.rests_quiet hs)

/-- Settles O38: a descriptor by the check that it passes, its last part by the line within which it moves. -/
theorem gutterMoves : Obligations.GutterMoves := by
  unfold Obligations.GutterMoves
  exact ⟨fun c x tr s hs hst hf h64 hok hread hgood => descriptorFetch_reads c x tr s hs hst hf h64 hok hread hgood,
    fun c sb tr tr' st s hs hfair hst hf hstage hrow hoff hrows hk0 hk hmode hspar hnext hread hwrite =>
      descriptorEnd_moves c sb tr tr' st s hs _ rfl hfair hst hf hstage hrow hoff hrows hk0 hk hmode hspar hnext hread hwrite⟩

end Sys2Proof.Machine
end

section
/-! PROOF. Operations of engines, seats, trims and calibration (R436 to R439, R492 to R499): O41 and O45. -/
namespace Sys2Proof.Machine

/-! ### A command that stands alone -/

/-- What it is that a command stands alone at its queue's place. -/
structure State.Stands (s : State) (n q : Nat) (p : W32) (op : Nat) (ph : CPh) (c : Cmd) : Prop where
  rests : s.rests = true
  cmds : (s.dev.queue n q).cmds = [c]
  pos : c.pos = p
  phase : c.ph = ph
  op_ : c.op = op
  ended : c.ended = []
  taken : s.dev.cmdWaits c = false

theorem State.stands_iff {s : State} {n q : Nat} {p : W32} {op : Nat} {ph : CPh} {c : Cmd} (h : s.stands n q p op ph c = true) : s.Stands n q p op ph c := by
  unfold State.stands at h
  simp only [Bool.and_eq_true, decide_eq_true_eq, beq_iff_eq, Bool.not_eq_true', List.isEmpty_iff] at h
  obtain ⟨⟨⟨⟨⟨⟨hs, hq⟩, hp⟩, hph⟩, hop⟩, he⟩, hw⟩ := h
  exact ⟨hs, hq, hp, hph, hop, he, hw⟩

/-- A command other than RUN that stands alone, and asks for no record, completes: the queue has served it. -/
theorem Dev.endCmd_served (d : Dev) (e : Env) {n q : Nat} {k : Cmd} {p : W32} (detail : Nat) (b : Blame) (hq : (d.queue n q).cmds = [k]) (hp : k.pos = p)
    (hf : k.flag 0 = false) (hop : k.op ≠ 0x20) : d.endCmd e n q p .ok detail b = d.served n q := by
  rw [d.endCmd_alone e detail b hq hp hf]
  exact if_neg hop

/-- What has served a queue is known by the queue and by whether its Bay is strict. -/
theorem Dev.served_queue {d d' : Dev} {n q : Nat} (hq : d'.queue n q = d.queue n q) (hstrict : d'.strict n = d.strict n) :
    (d'.served n q).queue n q = (d.served n q).queue n q := by
  unfold Dev.served
  rw [Dev.queue_setQueue, Dev.queue_setQueue, hq, hstrict]

/-! ### Engines -/

theorem Dev.engine_setEngine (d : Dev) (g : Nat) (x : Engine) : (d.setEngine g x).engine g = x := smGet_set_same ({} : Engine) ..

theorem Dev.setEngine_setEngine (d : Dev) (g : Nat) (x y : Engine) : (d.setEngine g x).setEngine g y = d.setEngine g y :=
  congrArg (fun m => ({ d with engines := m } : Dev)) (smSet_smSet _ _ _ _ _)

theorem Dev.quiet_forget (d : Dev) (p : Who → Bool) : (d.forget p).quiet = d.quiet := rfl

/-- The one operation that waits at a free engine is the next, whichever Bay the engine served last. -/
theorem Dev.engPick_one (d : Dev) (g : Nat) {o : EngOp} (hq : (d.engine g).queue = [o]) (hst : o.stage = none) (hb : o.bay < 16)
    (hr : (d.engine g).reserved = false) (hd : d.digestAt g = none) (hc : d.chainWants g = false) : d.engPick g = some o := by
  have hone (n : Nat) : ([o].find? fun o => o.bay == n) = if o.bay = n then some o else none := by
    by_cases h : o.bay = n <;> simp [h]
  have hturn : ((List.range 16).map fun i => ((d.engine g).lastBay + 1 + i) % 16).findSome? (fun n => [o].find? fun o => o.bay == n) = some o := by
    cases hres : ((List.range 16).map fun i => ((d.engine g).lastBay + 1 + i) % 16).findSome? (fun n => [o].find? fun o => o.bay == n) with
    | none =>
      rw [List.findSome?_eq_none_iff] at hres
      have := hres (((d.engine g).lastBay + 1 + (o.bay + 16 - ((d.engine g).lastBay + 1) % 16) % 16) % 16)
        (List.mem_map_of_mem (f := fun i => ((d.engine g).lastBay + 1 + i) % 16) (List.mem_range.mpr (Nat.mod_lt _ (by decide))))
      rw [hone, if_pos (by omega)] at this
      exact absurd this (by simp)
    | some y =>
      obtain ⟨n, -, hn⟩ := List.exists_of_findSome?_eq_some hres
      rw [hone] at hn
      split at hn
      · exact hn.symm
      · exact absurd hn (by simp)
  unfold Dev.engPick
  dsimp only
  rw [hq, List.find?_cons_of_neg (by simp [hst]), List.find?_nil]
  dsimp only
  rw [hr, hd, hc, if_neg (by simp)]
  exact hturn

theorem engineOpStart_takes (g : Fin 42) (o : EngOp) (s : State) (hs : s.rests = true) (hq : (s.dev.engine g).queue = [o]) (hrun : (s.dev.engine g).run = none)
    (hst : o.stage = none) (hb : o.bay < 16) (hr : (s.dev.engine g).reserved = false) (hd : s.dev.digestAt g = none) (hc : s.dev.chainWants g = false) :
    exec (.engineOpStart g) s = .next { s with
      dev := (s.dev.setEngine g { s.dev.engine g with queue := [], run := some { o with ord := s.dev.free }, lastBay := o.bay }).drawn
        (oFree o.d) (2 * oCount o.d) } := by
  show execEngineOpStart g s = _
  unfold execEngineOpStart
  refine s.go_to _ _ hs ?_ ((Dev.quiet_drawn _ _ _).trans (s.rests_quiet hs)) ?_
  · dsimp only
    rw [if_neg (by simp [hrun]), s.dev.engPick_one g hq hst hb hr hd hc]
    dsimp only
    rw [hq, List.erase_cons_head]
  · unfold Dev.drawn
    split <;> exact s.rests_stores hs

/-- The engine once its operation has ended. -/
def Engine.freed (x : Engine) : Engine := { x with run := none, ops := x.ops + 1 }

/-- An operation on its own that reads its source whole reads it, and writes its result. -/
theorem Dev.engDo_whole (d : Dev) (e : Env) (g : Nat) (o : EngOp) {bs : List Byte} {tr tr' : Trans} {st : List MemOp} (hst : o.stage = none)
    (h2 : oKind o.d ≠ 2) (h3 : oKind o.d ≠ 3) (h5 : oKind o.d ≠ 5)
    (hread : d.readRange e (.engine g) o.bay o.space (oSrc o.d) (oSrcLen o.d) = (.got bs false, { d with trans := tr }))
    (hwrite : ({ d with trans := tr } : Dev).writeRange e (.engine g) o.bay o.space (oDst o.d) (engResult o.sum o.d bs []) false =
      (.done, { d with trans := tr', stores := st })) :
    d.engDo e g o = (.ok, { d with trans := tr', stores := st }) := by
  have hsource : d.engSource e g o (oSrcLen o.d) = (.inl bs, { d with trans := tr }) := by
    unfold Dev.engSource
    rw [hst]
    dsimp only
    rw [hread]
    rfl
  have hsink : ({ d with trans := tr } : Dev).engSink e g o (engResult o.sum o.d bs []) bs = (.ok, { d with trans := tr', stores := st }) := by
    unfold Dev.engSink
    rw [hst]
    dsimp only [Option.bind]
    rw [hwrite]
  have hwhole : d.engWhole e g o = (.ok, { d with trans := tr', stores := st }) := by
    unfold Dev.engWhole
    dsimp only
    rw [if_neg h5]
    dsimp only
    rw [hsource]
    dsimp only
    rw [hsink]
  unfold Dev.engDo
  split
  next h => exact absurd h h2
  next h => exact absurd h h3
  next => exact hwhole

/-- Such an operation ends, and the command that asked for it completes. -/
theorem Dev.engEnd_ends (d : Dev) (e : Env) (g : Nat) {o : EngOp} {c : Cmd} {tr : Trans} {st : List MemOp} (hrun : (d.engine g).run = some o)
    (hst : o.stage = none) (h5 : oKind o.d ≠ 5) (hspar : oSpar o.d = 0xFFFF) (hdo : d.engDo e g o = (.ok, { d with trans := tr, stores := st }))
    (hq : (d.queue o.bay o.q).cmds = [c]) (hp : c.pos = o.p) (hop : c.op = 0x21) (hf : c.flag 0 = false) :
    d.engEnd e g = ((({ d with trans := tr, stores := st } : Dev).forget (· == .engine g)).setEngine g (d.engine g).freed).served o.bay o.q := by
  have hpulse (y : Dev) : y.pulse e o.bay (oSpar o.d) = y := by
    unfold Dev.pulse
    exact if_pos (by simp [hspar])
  unfold Dev.engEnd
  rw [hrun]
  dsimp only
  rw [if_neg (by simp [h5]), hdo]
  dsimp only
  rw [hpulse, hst]
  unfold Dev.opEnd Dev.engineFree
  rw [Dev.engine_setEngine, Dev.setEngine_setEngine]
  exact Dev.endCmd_served _ e 0 .own hq hp hf (by simp [hop])

theorem engineOpEnd_ends (g : Fin 42) (o : EngOp) (c : Cmd) (bs : List Byte) (tr tr' : Trans) (st : List MemOp) (s : State)
    (h : s.Stands o.bay o.q o.p 0x21 .running c) (hf : c.flag 0 = false) (hrun : (s.dev.engine g).run = some o) (hst : o.stage = none)
    (h2 : oKind o.d ≠ 2) (h3 : oKind o.d ≠ 3) (h5 : oKind o.d ≠ 5) (hspar : oSpar o.d = 0xFFFF)
    (hread : s.reads (.engine g) o.bay o.space (oSrc o.d) (oSrcLen o.d) bs tr)
    (hwrite : s.writesAfter tr (.engine g) o.bay o.space (oDst o.d) (engResult o.sum o.d bs []) false tr' st) :
    ∃ t, exec (.engineOpEnd g) s = .next t ∧ t.dev.engine g = { s.dev.engine g with run := none, ops := (s.dev.engine g).ops + 1 } ∧
      t.dev.queue o.bay o.q = (s.dev.served o.bay o.q).queue o.bay o.q ∧ t.mem = (s.commit { s.dev with stores := st }).mem := by
  refine ⟨_, s.go_done (fun e d => d.engEnd e g) _ h.rests (s.dev.engEnd_ends s.env g hrun hst h5 hspar
    (s.dev.engDo_whole s.env g o hst h2 h3 h5 hread hwrite) h.cmds h.pos h.op_ hf) ?_, ?_, ?_, rfl⟩
  · exact s.rests_quiet h.rests
  · exact Dev.engine_setEngine _ _ _
  · exact Dev.served_queue (d' := (({ s.dev with trans := tr', stores := st } : Dev).forget (· == .engine g)).setEngine g (s.dev.engine g).freed) rfl rfl

/-- Settles O41: a start by the one operation that waits, an end by what it reads and writes and by the command that stands alone. -/
theorem engineOperations : Obligations.EngineOperations := by
  unfold Obligations.EngineOperations
  exact ⟨fun g o s hs hq hrun hst hb hr hd hc => engineOpStart_takes g o s hs hq hrun hst hb hr hd hc,
    fun g o c bs tr tr' st s h hf hrun hst h2 h3 h5 hspar hread hwrite =>
      engineOpEnd_ends g o c bs tr tr' st s (State.stands_iff h) hf hrun hst h2 h3 h5 hspar hread hwrite⟩

/-! ### Arrays -/

theorem Dev.arr_setArr (d : Dev) (i j : Nat) (x : Arr) : (d.setArr i x).arr j = if j = i then x else d.arr j := smGet_set _ _ _ _ _

theorem Dev.arr_setArr_same (d : Dev) (i : Nat) (x : Arr) : (d.setArr i x).arr i = x := (d.arr_setArr i i x).trans (if_pos rfl)

theorem Arr.fit_pairs (x : Arr) (f : PairFit) : ∃ ps, x.fit f = { x with pairs := ps } := by
  unfold Arr.fit
  dsimp only
  split
  · exact ⟨x.pairs, rfl⟩
  · exact ⟨_, rfl⟩

theorem Arr.fits_pairs (fits : List PairFit) (x : Arr) : ∃ ps, fits.foldl Arr.fit x = { x with pairs := ps } := by
  induction fits generalizing x with
  | nil => exact ⟨x.pairs, rfl⟩
  | cons f fits ih =>
    obtain ⟨ps, h⟩ := x.fit_pairs f
    obtain ⟨ps', h'⟩ := ih (x.fit f)
    exact ⟨ps', h'.trans (by rw [h])⟩

theorem Arr.trimNext_pairs (x : Arr) : ∃ ps, x.trimNext = { x with pairs := ps } := by
  unfold Arr.trimNext
  split
  · exact ⟨x.pairs, rfl⟩
  · split
    · exact ⟨x.pairs, rfl⟩
    · exact ⟨_, rfl⟩

/-- A run's end leaves the fits in the pairs, and the trims that they call for. -/
theorem Arr.calibrated_run (x : Arr) (time : Nat) (temp : Int) (fits : List PairFit) : ∃ ps trims, x.calibrated time temp fits =
    { x with
      pairs := ps
      toTrim := trims
      calLast := time
      calTemp := temp
      sinceCal := 0
      calRuns := x.calRuns + 1
      calTimed := false
      calDue := x.calDue || x.calLatched
      calLatched := false } := by
  obtain ⟨ps, h⟩ := Arr.fits_pairs fits x
  unfold Arr.calibrated
  dsimp only
  rw [h]
  obtain ⟨ps', h'⟩ := Arr.trimNext_pairs _
  exact ⟨ps', _, h'⟩

/-- The array of a seat that has its shadow's digest. -/
def Arr.seated (x : Arr) (dg : List Byte) : Arr := { x with digest := dg, seatCmd := none, st := .seated }

theorem Dev.arr_setCells (d : Dev) (a b : Nat) (bs : List Byte) : (d.setCells a bs).arr b = d.arr b := rfl

theorem Dev.bytes_setCells (d : Dev) (e : Env) (a : Nat) (bs : List Byte) (x n : Nat) : (d.setCells a bs).bytes e x n = d.bytes e x n := rfl

theorem Dev.shadowBytes_setCells (d : Dev) (e : Env) (a : Nat) (bs : List Byte) : (d.setCells a bs).shadowBytes e a = d.shadowBytes e a := by
  unfold Dev.shadowBytes
  rw [Dev.bytes_setCells, Dev.arr_setCells]

/-- A seat that finds its shadow whole and no weak pair is seated, and its command completes. -/
theorem Dev.seatEnd_seats (d : Dev) (e : Env) (a : Nat) {m : SeatMeas} {q : Nat} {p : W32} {c : Cmd} (hst : (d.arr a).st = .seating)
    (hcmd : (d.arr a).seatCmd = some (q, p)) (hbusy : d.shadowBusy a = false) (hsh : m.shadowError = false) (hweak : m.weak = [])
    (hsound : ∀ l, d.poisoned e l = false) (hq : (d.queue (d.arr a).bay q).cmds = [c]) (hp : c.pos = p) (hop : c.op = 0x30) (hf : c.flag 0 = false)
    {bs : List Byte} (hbs : d.shadowBytes e a = bs) :
    d.seatEnd e a m = ((d.setCells a bs).setArr a (((d.arr a).seated (sha384 bs)).calibrated e.time
      (smGet 0 d.board.islandTemp (bankIsland a)) m.fits)).served (d.arr a).bay q := by
  have hany : ((List.range 16384).any fun i => d.poisoned e ((d.arr a).shadow / 64 + i)) = false :=
    List.any_eq_false.mpr fun i _ => by rw [hsound]; exact Bool.false_ne_true
  have hsame : (d.setCells a bs).shadowBytes e a = bs := (d.shadowBytes_setCells e a bs).trans hbs
  unfold Dev.seatEnd
  dsimp only
  rw [hbs, hsh, hany, if_neg (by simp [hst, hbusy]), if_neg (show ¬ (false || false) = true by decide), hweak]
  dsimp only [List.foldl]
  unfold Dev.arrCmd
  rw [hcmd, hsame]
  exact Dev.endCmd_served _ e 0 .own hq hp hf (by simp [hop])

theorem seatEnd_seats (a : Fin 256) (m : SeatMeas) (q : Nat) (p : W32) (c : Cmd) (s : State) (hst : (s.dev.arr a).st = .seating)
    (hcmd : (s.dev.arr a).seatCmd = some (q, p)) (h : s.Stands (s.dev.arr a).bay q p 0x30 .running c) (hf : c.flag 0 = false) (hpoison : s.poison = [])
    (hsh : m.shadowError = false) (hweak : m.weak = []) (hbusy : s.dev.shadowBusy a = false) :
    ∃ t, exec (.seatEnd a m) s = .next t ∧ (t.dev.arr a).st = .seated ∧ (t.dev.arr a).digest = sha384 (s.bytes (s.dev.arr a).shadow 0x100000) ∧
      (t.dev.arr a).calRuns = (s.dev.arr a).calRuns + 1 ∧ (t.dev.arr a).calLast = s.time ∧ (t.dev.arr a).sinceCal = 0 ∧
      (t.dev.arr a).set = (s.dev.arr a).set ∧ t.dev.queue (s.dev.arr a).bay q = (s.dev.served (s.dev.arr a).bay q).queue (s.dev.arr a).bay q ∧ t.mem = s.mem := by
  obtain ⟨bs, hbs⟩ : ∃ bs, s.bytes (s.dev.arr a).shadow 0x100000 = bs := ⟨_, rfl⟩
  obtain ⟨ps, trims, hcal⟩ := Arr.calibrated_run ((s.dev.arr a).seated (sha384 bs)) s.env.time (smGet 0 s.dev.board.islandTemp (bankIsland a)) m.fits
  have hbytes : s.dev.shadowBytes s.env a = bs := (s.bytes_env (s.rests_stores h.rests) _ _).trans hbs
  have hseat := s.dev.seatEnd_seats s.env a hst hcmd hbusy hsh hweak (s.poisoned_env (s.rests_stores h.rests) hpoison) h.cmds h.pos h.op_ hf hbytes
  rw [hbs]
  have harr := (Dev.arr_setArr_same (s.dev.setCells a bs) a _).trans hcal
  refine ⟨_, s.go_to (fun e d => d.seatEnd e a m) _ h.rests hseat (s.rests_quiet h.rests) (s.rests_stores h.rests), (congrArg Arr.st harr :),
    (congrArg Arr.digest harr :), (congrArg Arr.calRuns harr :), (congrArg Arr.calLast harr :), (congrArg Arr.sinceCal harr :), (congrArg Arr.set harr :),
    Dev.served_queue (d' := (s.dev.setCells a _).setArr a _) rfl rfl, rfl⟩

/-- The pair of a trim whose fit holds. -/
def Pair.fitted (y : Pair) (f : PairFit) : Pair :=
  { y with gHi := f.gHi, oHi := f.oHi, gLo := f.gLo, oLo := f.oLo, residual := f.residual, trimming := false, renewed := false, cmd := none }

/-- A trim whose fit holds is in force, and its command completes. -/
theorem Dev.trimEnd_fits (d : Dev) (e : Env) (a k : Nat) {f : PairFit} {ok : Bool} {q : Nat} {p : W32} {c : Cmd} (ht : ((d.arr a).pair k).trimming = true)
    (hcmd : ((d.arr a).pair k).cmd = some (q, p)) (hren : ((d.arr a).pair k).renewed = false) (hbusy : d.shadowBusy a = false) (hres : f.residual ≤ 24)
    (hok : ((d.arr a).pair k).spare = none ∨ ok = true) (htrim : (d.arr a).toTrim = []) (hq : (d.queue (d.arr a).bay q).cmds = [c]) (hp : c.pos = p)
    (hop : c.op = 0x31) (hf : c.flag 0 = false) :
    d.trimEnd e a k f ok = (d.setArr a { (d.arr a).setPair k (((d.arr a).pair k).fitted f) with trims := (d.arr a).trims + 1 }).served (d.arr a).bay q := by
  unfold Dev.trimEnd
  dsimp only
  rw [hren, if_neg (by simp [ht, hbusy])]
  simp only [Bool.false_eq_true, if_false]
  rw [if_pos (by rcases hok with h | h <;> simp [hres, h]), htrim]
  dsimp only [List.filter]
  unfold Arr.trimNext Dev.arrCmd
  rw [hcmd]
  dsimp only
  rw [← htrim]
  exact Dev.endCmd_served _ e 0 .own hq hp hf (by simp [hop])

theorem Arr.pair_setPair (x : Arr) (k i : Nat) (y : Pair) : (x.setPair k y).pair i = if i = k then y else x.pair i := smGet_set _ _ _ _ _

theorem trimEnd_fits (a : Fin 256) (k : Fin 1152) (f : PairFit) (ok : Bool) (q : Nat) (p : W32) (c : Cmd) (s : State)
    (ht : ((s.dev.arr a).pair k).trimming = true) (hcmd : ((s.dev.arr a).pair k).cmd = some (q, p)) (hren : ((s.dev.arr a).pair k).renewed = false)
    (h : s.Stands (s.dev.arr a).bay q p 0x31 .running c) (hf : c.flag 0 = false) (hres : f.residual ≤ 24)
    (hok : ((s.dev.arr a).pair k).spare = none ∨ ok = true) (htrim : (s.dev.arr a).toTrim = []) (hbusy : s.dev.shadowBusy a = false) :
    ∃ t, exec (.trimEnd a k f ok) s = .next t ∧ (t.dev.arr a).pair k = ((s.dev.arr a).pair k).fitted f ∧
      (∀ i, i ≠ k.val → (t.dev.arr a).pair i = (s.dev.arr a).pair i) ∧ (t.dev.arr a).trims = (s.dev.arr a).trims + 1 ∧
      (t.dev.arr a).digest = (s.dev.arr a).digest ∧
      t.dev.queue (s.dev.arr a).bay q = (s.dev.served (s.dev.arr a).bay q).queue (s.dev.arr a).bay q ∧ t.mem = s.mem := by
  have harr := s.dev.arr_setArr_same a { (s.dev.arr a).setPair k (((s.dev.arr a).pair k).fitted f) with trims := (s.dev.arr a).trims + 1 }
  refine ⟨_, s.go_to (fun e d => d.trimEnd e a k f ok) _ h.rests (s.dev.trimEnd_fits s.env a k ht hcmd hren hbusy hres hok htrim h.cmds h.pos h.op_ hf)
    (s.rests_quiet h.rests) (s.rests_stores h.rests), ?_, fun i hi => ?_, congrArg Arr.trims harr, (congrArg Arr.digest harr :),
    Dev.served_queue (d' := s.dev.setArr a _) rfl rfl, rfl⟩
  · exact (congrArg (fun x => Arr.pair x k) harr).trans ((Arr.pair_setPair _ k k _).trans (if_pos rfl))
  · exact (congrArg (fun x => Arr.pair x i) harr).trans ((Arr.pair_setPair _ k i _).trans (if_neg hi))

/-! ### Calibration -/

theorem Instr.first_of_evaluates (c : Instr) (h : (Instr.evaluates c).isSome = true) : Instr.first c = true := by
  unfold Instr.evaluates at h
  split at h
  · rfl
  · exact absurd h Bool.false_ne_true

theorem calibrationStart_starts (a : Fin 256) (s : State) (hs : s.rests = true) (hst : (s.dev.arr a).st = .seated) (hdue : (s.dev.arr a).calDue = true) :
    exec (.calibrationStart a) s = .next { s with dev := s.dev.setArr a { (s.dev.arr a).newThresh with st := .calibrating, calDue := false } } := by
  show execCalibrationStart a s = _
  unfold execCalibrationStart
  refine s.go_to _ _ hs ?_ (s.rests_quiet hs) (s.rests_stores hs)
  dsimp only
  rw [Dev.lead_calm _ _ _ _ (s.rests_calm hs)]
  · exact if_pos (by simp [hst, hdue])
  · intro c hc
    refine Instr.first_of_evaluates c ?_
    cases hv : Instr.evaluates c with
    | none => rw [hv] at hc; exact absurd hc Bool.false_ne_true
    | some x => rfl

theorem calibrationEnd_ends (a : Fin 256) (fits : List PairFit) (s : State) (hs : s.rests = true) (hst : (s.dev.arr a).st = .calibrating) :
    ∃ t, exec (.calibrationEnd a fits) s = .next t ∧ (t.dev.arr a).st = .seated ∧ (t.dev.arr a).calRuns = (s.dev.arr a).calRuns + 1 ∧
      (t.dev.arr a).calLast = s.time ∧ (t.dev.arr a).calTemp = smGet 0 s.dev.board.islandTemp (296 + a.val / 32) ∧ (t.dev.arr a).sinceCal = 0 ∧
      (t.dev.arr a).calDue = ((s.dev.arr a).calDue || (s.dev.arr a).calLatched) ∧ (t.dev.arr a).calLatched = false ∧
      (∀ i, i ≠ a.val → t.dev.arr i = s.dev.arr i) ∧ t.mem = s.mem := by
  obtain ⟨ps, trims, hcal⟩ := Arr.calibrated_run ({ s.dev.arr a with st := .seated } : Arr) s.env.time (smGet 0 s.dev.board.islandTemp (bankIsland a)) fits
  have hend : exec (.calibrationEnd a fits) s = .next { s with dev := s.dev.setArr a (({ s.dev.arr a with st := .seated } : Arr).calibrated s.env.time
      (smGet 0 s.dev.board.islandTemp (bankIsland a)) fits) } := by
    show execCalibrationEnd a fits s = _
    unfold execCalibrationEnd
    refine s.go_to _ _ hs ?_ (s.rests_quiet hs) (s.rests_stores hs)
    dsimp only
    exact if_pos (by simp [hst])
  have harr := (s.dev.arr_setArr_same a _).trans hcal
  exact ⟨_, hend, (congrArg Arr.st harr :), (congrArg Arr.calRuns harr :), (congrArg Arr.calLast harr :), (congrArg Arr.calTemp harr :),
    (congrArg Arr.sinceCal harr :), (congrArg Arr.calDue harr :), (congrArg Arr.calLatched harr :),
    fun i hi => (s.dev.arr_setArr a i _).trans (if_neg hi), rfl⟩

theorem calTimeTrigger_triggers (a : Fin 256) (s : State) (hs : s.rests = true) (hst : (s.dev.arr a).st = .seated) (htimed : (s.dev.arr a).calTimed = false)
    (ht : (s.dev.arr a).calLast + 7200000000000 ≤ s.time) (hdue : (s.dev.arr a).calDue = false) :
    exec (.calTimeTrigger a) s = .next { s with dev := s.dev.setArr a { s.dev.arr a with calTimed := true, calDue := true } } := by
  show execCalTimeTrigger a s = _
  unfold execCalTimeTrigger
  refine s.go_to _ _ hs ?_ (s.rests_quiet hs) (s.rests_stores hs)
  dsimp only
  rw [if_pos (by simp only [hst, htimed, Bool.and_eq_true, decide_eq_true_eq]; exact ⟨by decide, ht⟩)]
  unfold Arr.trigger
  dsimp only
  rw [hst, hdue]
  rfl

/-- Those of the arrays listed that `p` names are changed. -/
theorem Dev.foldl_arr {p : Arr → Prop} [DecidablePred p] {f : Arr → Arr} (l : List Nat) (hl : l.Nodup) (d : Dev) (j : Nat) :
    (l.foldl (fun d i => if p (d.arr i) then d.modArr i f else d) d).arr j = if j ∈ l ∧ p (d.arr j) then f (d.arr j) else d.arr j := by
  induction l generalizing d with
  | nil => simp
  | cons i l ih =>
    obtain ⟨hi, hl⟩ := List.nodup_cons.mp hl
    have hone : (if p (d.arr i) then d.modArr i f else d).arr j = if j = i ∧ p (d.arr j) then f (d.arr j) else d.arr j := by
      by_cases hp : p (d.arr i)
      · rw [if_pos hp]
        refine (d.arr_setArr i j _).trans ?_
        by_cases hj : j = i <;> simp [hj, hp]
      · rw [if_neg hp, if_neg]
        rintro ⟨rfl, h⟩
        exact hp h
    rw [List.foldl_cons, ih hl, hone]
    by_cases hj : j = i
    · subst hj
      simp [hi]
    · simp [hj]

theorem calTemperatureSample_samples (b : Fin 8) (temp : Int) (s : State) (hs : s.rests = true) (ht : s.time % 1000000 = 0) :
    ∃ t, exec (.calTemperatureSample b temp) s = .next t ∧
      t.dev.board = { s.dev.board with islandTemp := smSet 0 s.dev.board.islandTemp (296 + b.val) temp } ∧ t.mem = s.mem ∧
      ∀ a, t.dev.arr a = if a / 32 = b.val ∧ 64 < (temp - (s.dev.arr a).calTemp).natAbs then (s.dev.arr a).trigger else s.dev.arr a := by
  let d : Dev := { s.dev with board := { s.dev.board with islandTemp := smSet 0 s.dev.board.islandTemp (296 + b.val) temp } }
  let step (d : Dev) (i : Nat) : Dev := if 64 < (temp - (d.arr i).calTemp).natAbs then d.modArr i Arr.trigger else d
  have hkeep {β : Type} (g : Dev → β) (hg : ∀ d i x, g (Dev.setArr d i x) = g d) (l : List Nat) : g (l.foldl step d) = g d :=
    Dev.foldl_keeps g (fun d i => by show g (if _ then _ else _) = _; split <;> first | rfl | exact hg _ _ _) l d
  have hexec : exec (.calTemperatureSample b temp) s = .next { s with dev := ((List.range 32).map (32 * b.val + ·)).foldl step d } := by
    show execCalTemperatureSample b temp s = _
    unfold execCalTemperatureSample
    refine s.go_to _ _ hs ?_ ((hkeep Dev.quiet (fun _ _ _ => rfl) _).trans (s.dev.quiet_board _ (s.rests_quiet hs) rfl))
      ((hkeep Dev.stores (fun _ _ _ => rfl) _).trans (s.rests_stores hs))
    dsimp only
    rw [if_neg (by rw [show s.env.time = s.time from rfl, ht]; decide), List.foldl_map]
  refine ⟨_, hexec, hkeep Dev.board (fun _ _ _ => rfl) _, rfl, fun a => ?_⟩
  · refine (Dev.foldl_arr (p := fun x => 64 < (temp - x.calTemp).natAbs) _ (List.nodup_range.map fun i j h => by omega) d a).trans ?_
    have hmem : a ∈ (List.range 32).map (32 * b.val + ·) ↔ a / 32 = b.val := by
      rw [List.mem_map]
      exact ⟨by rintro ⟨i, hi, rfl⟩; have := List.mem_range.mp hi; omega, fun h => ⟨a % 32, List.mem_range.mpr (by omega), by omega⟩⟩
    exact if_congr (and_congr hmem Iff.rfl) rfl rfl

/-- Settles O45: each end by the fit or the shadow that it finds whole and the command that stands alone, each trigger by what it latches. -/
theorem thatchSeatsAndCalibration : Obligations.ThatchSeatsAndCalibration := by
  unfold Obligations.ThatchSeatsAndCalibration
  exact ⟨fun a m q p c s hst hcmd h hf hp hsh hweak hbusy => seatEnd_seats a m q p c s hst hcmd (State.stands_iff h) hf hp hsh hweak hbusy,
    fun a k f ok q p c s ht hcmd hren h hf hres hok htrim hbusy => trimEnd_fits a k f ok q p c s ht hcmd hren (State.stands_iff h) hf hres hok htrim hbusy,
    fun a s hs hst hdue => calibrationStart_starts a s hs hst hdue, fun a fits s hs hst => calibrationEnd_ends a fits s hs hst,
    fun a s hs hst htimed ht hdue => calTimeTrigger_triggers a s hs hst htimed ht hdue, fun b temp s hs ht => calTemperatureSample_samples b temp s hs ht⟩

end Sys2Proof.Machine
end

section
/-! PROOF. The replies of an Ethernet port, and PTP (R579 to R582): O56. -/
namespace Sys2Proof.Machine

/-! ### Ethernet -/

/-- What an Ethernet port in service does with a frame: it counts it, and answers one that is addressed to it. -/
theorem Dev.etherReply_up (d : Dev) (p : Nat) (ok : Bool) (kind : String) (dst : Nat) (data : List Byte) (hup : d.etherUp p = true) :
    d.etherReply p ok kind dst data =
      if ok then ((d.count (portOd p) 0xF 1).send (.eth p kind dst data)).count (portOd p) 0x10 1 else d.count (portOd p) 0xF 1 := by
  unfold Dev.etherReply
  rw [hup]
  rfl

/-- A frame that asks an Ethernet port is counted, and answered where it names the port's address. -/
theorem State.go_etherReply (s : State) (p : Fin 12) (f : Env → Dev → Dev) {a b : Nat} {kind : String} {dst : Nat} {data : List Byte} (hs : s.rests = true)
    (hf : f s.env s.dev = s.dev.etherReply p (a == b) kind dst data) (hup : s.dev.etherUp p = true) :
    s.go f = .next { s with
      dev := if a = b then ((s.dev.count (0x2A20 + p) 0xF 1).send (.eth p kind dst data)).count (0x2A20 + p) 0x10 1 else s.dev.count (0x2A20 + p) 0xF 1 } := by
  refine s.go_to f _ hs (hf.trans ((Dev.etherReply_up _ _ _ _ _ _ hup).trans (if_congr beq_iff_eq rfl rfl))) ?_ ?_
  · split
    · rw [Dev.quiet_count, Dev.quiet_send, Dev.quiet_count]
      exact State.rests_quiet hs
    · rw [Dev.quiet_count]
      exact State.rests_quiet hs
  · split
    · rw [Dev.count_stores]
      exact (Dev.count_stores _ _ _ _).trans (State.rests_stores hs)
    · rw [Dev.count_stores]
      exact State.rests_stores hs

/-- What the end of a pause leaves of a device in which one port's priority is paused past the tick. -/
structure Dev.Pausing (d r : Dev) (p : Nat) : Prop where
  bare : r.bare = d.bare
  port : ∀ q, r.port q = d.port q
  out : r.out = d.out

/-- A port that pauses, and holds nothing, stays as it is while the pause runs. -/
theorem Dev.Pausing.flushed {d r : Dev} {p : Nat} (e : Env) {c : Nat × Nat} (h : d.Pausing r p) (hp : (d.port p).paused = [c]) (ht : e.time < c.2)
    (hother : ∀ q, q ≠ p → (d.port q).paused = []) (hheld : ∀ q, (d.port q).held = []) (q : Nat) : d.Pausing
      (if ((r.port q).paused.isEmpty && (r.port q).held.isEmpty) = true then r else
        if (((r.port q).paused.filter fun c => e.time < c.2).any fun c => c.1 == r.od (0x2A20 + q) 0xE) = true then
          r.setPort q { r.port q with paused := (r.port q).paused.filter fun c => e.time < c.2 }
        else ((r.port q).held.foldl (fun d o => d.send o) (r.setPort q { r.port q with paused := (r.port q).paused.filter fun c => e.time < c.2, held := [] })).count
          (0x2A20 + q) 0x10 (r.port q).held.length) p := by
  rw [h.port q]
  by_cases hq : q = p
  · subst hq
    have hsame (x : Port) (hx : x = d.port q) : d.Pausing (r.setPort q x) q := by
      refine ⟨h.bare, fun k => ?_, h.out⟩
      rw [Dev.port_setPort, hx, h.port k]
      split
      · next hk => rw [hk]
      · rfl
    have hleft : ((d.port q).paused.filter fun c => e.time < c.2) = (d.port q).paused := by
      rw [hp]
      simp [ht]
    rw [hleft]
    split
    · exact h
    · split
      · exact hsame _ rfl
      · have hx := hsame { d.port q with paused := (d.port q).paused, held := [] } (by rw [← hheld q])
        rw [hheld q]
        exact ⟨(Dev.count_bare _ _ _ _).trans hx.bare, fun k => (Dev.count_port _ _ _ _ _).trans (hx.port k), (Dev.count_out _ _ _ _).trans hx.out⟩
  · rw [hother q hq, hheld q]
    exact h

/-- A device at which nothing is due but the stamps, and a pause that runs, ends its command with its ports and what it sent as they are. -/
theorem Dev.settle_pausing (d : Dev) (e : Env) (p : Nat) {c : Nat × Nat} (hb : d.bare.quiet = true) (hp : (d.port p).paused = [c]) (ht : e.time < c.2)
    (hother : ∀ q, q ≠ p → (d.port q).paused = []) (hheld : ∀ q, (d.port q).held = []) :
    ∃ r, d.settle e = r.stampPorts e ∧ d.Pausing r p := by
  have hfl : d.Pausing (d.flushPaused e) p :=
    List.foldlRecOn (motive := fun r => d.Pausing r p) (List.range 12) _ ⟨rfl, fun _ => rfl, rfl⟩
      fun r hr q _ => hr.flushed e hp ht hother hheld q
  obtain ⟨skies, places, faults, ckpts, mirrors, recs, -, smb, released⟩ := (Dev.quiet_iff _).mp hb
  obtain ⟨r, hr⟩ : ∃ r, d.flushPaused e = r := ⟨_, rfl⟩
  rw [hr] at hfl
  have hsmb : r.bare.board.smbSeen = 0 := by rw [hfl.bare]; exact smb
  have hrel : r.bare.released = false := by rw [hfl.bare]; exact released
  have note : (r.stampPorts e).noteSmb = r.stampPorts e := if_pos hsmb
  refine ⟨r, ?_, hfl⟩
  rw [Dev.settle, d.flushSkies_none e skies, d.flushPlaces_none e places, d.settleFaults_none e faults, d.flushCkpts_none e ckpts,
    d.flushMirrors_none e mirrors, d.flushRecs_none e recs, hr, Dev.askAgain_none r e hrel, note]

/-- The end of a command from rest whose effect, and its settling, are known. -/
theorem State.go_from (s : State) (f : Env → Dev → Dev) {d r : Dev} (hs : s.rests = true) (h : f s.env s.dev = d) (hr : d.settle s.env = r) :
    s.go f = .next (s.commit r) := by
  show Host.Outcome.next (s.commit ((f s.env (s.dev.leadIslands s.env)).settle s.env)) = _
  rw [Dev.leadIslands_calm _ _ (s.rests_calm hs), h, hr]

/-- Stamping leaves a port whose timer runs exactly while a frame waits. -/
theorem Dev.stampPorts_calm (d : Dev) (e : Env) (p : Nat) (h : (d.port p).unacked = [] ↔ (d.port p).lastSend = 0) : (d.stampPorts e).port p = d.port p := by
  rw [Dev.port_stampPorts]
  split
  · next he => rw [← h.mp (List.isEmpty_iff.mp he)]
  · next he => rw [if_neg fun hl => he (List.isEmpty_iff.mpr (h.mpr hl))]

theorem pfcFrame_pauses (p : Fin 12) (prio : Fin 8) (quanta : W16) (s : State) (hs : s.rests = true) (hup : s.dev.etherUp p = true) (hq : quanta ≠ 0) :
    ∃ t, exec (.pfcFrame p prio quanta) s = .next t ∧ t.mem = s.mem ∧ t.dev.out = s.dev.out ∧
      t.dev.port p = { s.dev.port p with paused := [(prio.val, s.time + cdiv (quanta.toNat * 512) 800)] } := by
  obtain ⟨hpaused, hheld, htimer⟩ := State.rests_port hs p
  obtain ⟨d', hd⟩ : ∃ d', d' = (s.dev.count (portOd p) 0xF 1).setPort p { s.dev.port p with
      paused := [(prio.val, s.time + cdiv (quanta.toNat * 512) 800)] } := ⟨_, rfl⟩
  have hport (q : Nat) : d'.port q = if q = p then { s.dev.port p with paused := [(prio.val, s.time + cdiv (quanta.toNat * 512) 800)] } else s.dev.port q := by
    rw [hd, Dev.port_setPort, Dev.count_port]
  have hpos : 0 < quanta.toNat := by
    rcases Nat.eq_zero_or_pos quanta.toNat with h | h
    · exact absurd (BitVec.eq_of_toNat_eq h) hq
    · exact h
  have htime : s.env.time < s.time + cdiv (quanta.toNat * 512) 800 := by
    show s.time < s.time + (quanta.toNat * 512 + 800 - 1) / 800
    omega
  have hbare : d'.bare = s.dev.bare := by
    rw [hd, ← s.dev.count_bare (portOd p) 0xF 1]
    generalize s.dev.count (portOd p) 0xF 1 = x
    rfl
  obtain ⟨r, hr, hpausing⟩ := d'.settle_pausing s.env p (c := (prio.val, s.time + cdiv (quanta.toNat * 512) 800))
    (by rw [hbare]; exact (State.rests_timers hs).bare)
    (by rw [hport, if_pos rfl]) htime (fun q h => by rw [hport, if_neg h]; exact (State.rests_port hs q).1)
    (fun q => by rw [hport]; split; exacts [hheld, (State.rests_port hs q).2.1])
  have hst : (r.stampPorts s.env).stores = [] := by
    show r.bare.stores = []
    rw [hpausing.bare, hbare]
    exact State.rests_stores hs
  refine ⟨{ s with dev := r.stampPorts s.env }, ?_, rfl, ?_, ?_⟩
  · show execPfcFrame p prio quanta s = _
    unfold execPfcFrame
    refine (s.go_from _ hs ?_ hr).trans (congrArg _ (State.commit_quiet s _ hst))
    rw [hup]
    dsimp only
    rw [if_neg (show ¬ (!true) = true by decide), Dev.count_port, hpaused, if_neg hq, List.filter_nil, List.nil_append, hd]
    rfl
  · show r.out = s.dev.out
    rw [hpausing.out, hd]
    exact Dev.count_out s.dev (portOd p) 0xF 1
  · have hp : r.port p = { s.dev.port p with paused := [(prio.val, s.time + cdiv (quanta.toNat * 512) 800)] } := by
      rw [hpausing.port, hport, if_pos rfl]
    rw [show ({ s with dev := r.stampPorts s.env } : State).dev = r.stampPorts s.env from rfl,
      Dev.stampPorts_calm _ _ _ (by rw [hp]; exact htimer), hp]

/-! ### PTP -/

/-- A PTP message of the device's domain, at a port that runs PTP, is counted and has its effect. -/
theorem Dev.ptpIn_here (d : Dev) (p : Nat) (m : PtpMsg) (f : Dev → Dev) (hup : d.ptpUp p = true) (hdom : m.domain = d.od 0x2A00 0xB) :
    d.ptpIn p m f = f (d.count (portOd p) 0xF 1) := by
  unfold Dev.ptpIn
  rw [if_pos hup]
  exact if_pos (hdom.trans (Dev.count_od_other _ _ (by decide) (by decide) (by simp [portOd])).symm)

/-- A PTP message that counts, from a device at rest, has the effect of its row. -/
theorem State.go_ptpIn (s : State) (p : Fin 12) (m : PtpMsg) {f : Env → Dev → Dev} (g : Dev → Dev) (d' : Dev) (hs : s.rests = true)
    (hf : f s.env s.dev = s.dev.ptpIn p m g) (hup : s.dev.ptpUp p = true) (hdom : m.domain = s.dev.od 0x2A00 0xB)
    (hg : g (s.dev.count (portOd p) 0xF 1) = d') (hq : d'.quiet = true) (hst : d'.stores = []) : s.go f = .next { s with dev := d' } :=
  s.go_to f d' hs (hf.trans ((s.dev.ptpIn_here p m g hup hdom).trans hg)) hq hst

/-- A device at rest that has counted: nothing but counters and free values differs. -/
structure State.Counted (s : State) (x : Dev) : Prop where
  quiet : x.quiet = true
  stores : x.stores = []
  out : x.out = s.dev.out
  fabric : x.fabric = s.dev.fabric

theorem State.Counted.port {s : State} {x : Dev} (h : s.Counted x) (q : Nat) : x.port q = s.dev.port q := congrArg (fun f : Fabric => smGet ({} : Port) f.ports q) h.fabric

theorem State.Counted.still {s : State} {x : Dev} (h : s.Counted x) (q : Nat) : (s.dev.port q).still = true := h.port q ▸ x.port_still q h.quiet

theorem State.counted (s : State) (idx sub k : Nat) (hs : s.rests = true) : s.Counted (s.dev.count idx sub k) :=
  ⟨(Dev.quiet_count _ _ _ _).trans (State.rests_quiet hs), (Dev.count_stores _ _ _ _).trans (State.rests_stores hs), Dev.count_out _ _ _ _,
    Dev.count_fabric _ _ _ _⟩

theorem Dev.quiet_samePorts (d : Dev) (f : Fabric) (h : d.quiet = true) (hp : f.ports = d.fabric.ports) : (d.setFabric f).quiet = true := by
  obtain ⟨-, -, -, -, -, -, ports, -, -⟩ := d.quiet_iff.mp h
  exact d.quiet_fabric f h (hp ▸ ports)

theorem sync_noted (p : Fin 12) (m : PtpMsg) (s : State) (hs : s.rests = true) (hup : s.dev.ptpUp p = true) (hdom : m.domain = s.dev.od 0x2A00 0xB)
    (hp : s.dev.fabric.ptpPort = p.val) : ∃ t, exec (.sync p m) s = .next t ∧ t.dev.port p = { s.dev.port p with syncTime := some (s.time, m.seq) } ∧
      t.dev.out = s.dev.out ∧ t.mem = s.mem := by
  have hgo := fun f g d' hf => s.go_ptpIn p m (f := f) g d' hs hf hup hdom
  have hx := s.counted (portOd p) 0xF 1 hs
  generalize s.dev.count (portOd p) 0xF 1 = x at hgo hx
  refine ⟨_, show execSync p m s = _ from hgo _ _ (x.setPort p { s.dev.port p with syncTime := some (s.time, m.seq) }) rfl ?_ ?_ hx.stores, Dev.setPort_port _ _ _, hx.out, rfl⟩
  · dsimp only
    rw [hx.fabric, hx.port, if_pos hp]
    rfl
  · exact Dev.quiet_setPort _ _ _ hx.quiet (Port.still_congr (hx.still p) rfl rfl rfl rfl)

/-- A free value taken as a rate lies within 100 ppm. -/
theorem freeRate_bounds (k : Nat) : -100000 ≤ ((k % 200001 : Nat) : Int) - 100000 ∧ ((k % 200001 : Nat) : Int) - 100000 ≤ 100000 := by omega

theorem followUp_steps (p : Fin 12) (m : PtpMsg) (t2 : Nat) (s : State) (hs : s.rests = true) (hup : s.dev.ptpUp p = true)
    (hdom : m.domain = s.dev.od 0x2A00 0xB) (hp : s.dev.fabric.ptpPort = p.val) (hsync : (s.dev.port p).syncTime = some (t2, m.seq)) :
    let off := m.time + s.dev.fabric.lastDelay - t2
    let good := if (off - s.dev.fabric.ptpOffset).natAbs < 100 then min 16 (s.dev.fabric.ptpGood + 1) else 0
    ∃ t, exec (.followUp p m) s = .next t ∧ t.dev.fabric.ptpOffset = off ∧ t.dev.fabric.ptpGood = good ∧
      t.dev.fabric.ptpState = (if good = 16 then 2 else 1) ∧ t.dev.fabric.lastDelta = t2 - m.time ∧
      -100000 ≤ t.dev.fabric.ptpRate ∧ t.dev.fabric.ptpRate ≤ 100000 ∧ t.dev.out = s.dev.out ∧ t.mem = s.mem := by
  intro off good
  have hgo := fun f g d' hf => s.go_ptpIn p m (f := f) g d' hs hf hup hdom
  have hx := s.counted (portOd p) 0xF 1 hs
  generalize s.dev.count (portOd p) 0xF 1 = x at hgo hx
  obtain ⟨d, hd⟩ : ∃ d, x.setPort p { s.dev.port p with syncTime := none } = d := ⟨_, rfl⟩
  have hq : d.quiet = true := hd ▸ Dev.quiet_setPort _ _ _ hx.quiet (Port.still_congr (hx.still p) rfl rfl rfl rfl)
  have hst : d.stores = [] := hd ▸ hx.stores
  have hout : d.out = s.dev.out := hd ▸ hx.out
  have hfab : d.fabric = { s.dev.fabric with ports := d.fabric.ports } := by
    rw [← hd, Dev.setPort, hx.fabric]
  have hoff : m.time + d.fabric.lastDelay - t2 = off := by rw [hfab]
  have hgood : (if (m.time + d.fabric.lastDelay - t2 - d.fabric.ptpOffset).natAbs < 100 then min 16 (d.fabric.ptpGood + 1) else 0) = good := by
    rw [hoff, hfab]
  have hbounds := freeRate_bounds d.draw.1
  refine ⟨_, show execFollowUp p m s = _ from hgo _ _ (d.ptpSync t2 m.time) rfl ?_ ?_ hst, hoff, hgood, congrArg (fun k => if k = 16 then 2 else 1) hgood, rfl,
    hbounds.1, hbounds.2, hout, rfl⟩
  · dsimp only
    rw [hx.port, hsync]
    dsimp only
    rw [hx.fabric, hp, hd]
    exact if_neg (by simp)
  · exact Dev.quiet_samePorts _ _ hq rfl

theorem delayReq_answers (p : Fin 12) (m : PtpMsg) (s : State) (hs : s.rests = true) (hup : s.dev.ptpUp p = true) (hdom : m.domain = s.dev.od 0x2A00 0xB)
    (hp : s.dev.fabric.ptpPort ≠ p.val) : exec (.delayReq p m) s = .next { s with
      dev := ((s.dev.count (0x2A20 + p) 0xF 1).send (.ptp p "Delay_Resp" { m with time := s.time + s.dev.fabric.ptpOffset })).count (0x2A20 + p) 0x10 1 } := by
  have hgo := fun f g d' hf => s.go_ptpIn p m (f := f) g d' hs hf hup hdom
  have hx := s.counted (portOd p) 0xF 1 hs
  show execDelayReq p m s = .next { s with
    dev := ((s.dev.count (portOd p) 0xF 1).send (.ptp p "Delay_Resp" { m with time := s.time + s.dev.fabric.ptpOffset })).count (portOd p) 0x10 1 }
  generalize s.dev.count (portOd p) 0xF 1 = x at hgo hx
  refine hgo _ _ _ rfl ?_ ?_ ?_
  · rw [hx.fabric, if_neg hp]
    rfl
  · rw [Dev.quiet_count]
    exact hx.quiet
  · rw [Dev.count_stores]
    exact hx.stores

theorem delayResp_halves (p : Fin 12) (m : PtpMsg) (t3 : Nat) (s : State) (hs : s.rests = true) (hup : s.dev.ptpUp p = true)
    (hdom : m.domain = s.dev.od 0x2A00 0xB) (hp : s.dev.fabric.ptpPort = p.val) (hsent : s.dev.fabric.delaySent = some (t3, m.seq)) :
    ∃ t, exec (.delayResp p m) s = .next t ∧ t.dev.fabric.lastDelay = (s.dev.fabric.lastDelta + (m.time - t3)) / 2 ∧
      t.dev.fabric.delaySent = none ∧ t.dev.fabric.ptpOffset = s.dev.fabric.ptpOffset ∧ t.mem = s.mem := by
  have hgo := fun f g d' hf => s.go_ptpIn p m (f := f) g d' hs hf hup hdom
  have hx := s.counted (portOd p) 0xF 1 hs
  generalize s.dev.count (portOd p) 0xF 1 = x at hgo hx
  refine ⟨_, show execDelayResp p m s = _ from hgo _ _ (x.setFabric { s.dev.fabric with delaySent := none, lastDelay := (s.dev.fabric.lastDelta + (m.time - t3)) / 2 }) rfl ?_ ?_ hx.stores,
    rfl, rfl, rfl, rfl⟩
  · dsimp only
    rw [hx.fabric, hsent]
    exact if_neg (by simp [hp])
  · exact Dev.quiet_samePorts _ _ hx.quiet (by rw [hx.fabric])

/-- What the choice of a clock takes from one port. -/
def Dev.ptpOffer (d : Dev) (b : Option (Nat × Nat × Nat × Nat)) (p : Nat) : Option (Nat × Nat × Nat × Nat) :=
  match (if d.ptpUp p then (d.port p).ann else none) with
  | none => b
  | some a => match b with
    | none => some (p, a)
    | some x => if annBetter a x.2 then some (p, a) else b

theorem Dev.bestPort_offers (d : Dev) : d.bestPort = ((List.range 12).foldl d.ptpOffer none).map (·.1) := rfl

theorem Dev.ptpOffer_none (d : Dev) (b : Option (Nat × Nat × Nat × Nat)) {q : Nat} (h : (d.port q).ann = none) : d.ptpOffer b q = b := by
  unfold Dev.ptpOffer
  rw [h, ite_self]

theorem Dev.ptpOffer_some (d : Dev) {p : Nat} {a : Nat × Nat × Nat} {b : Option (Nat × Nat × Nat × Nat)} (hup : d.ptpUp p = true)
    (h : (d.port p).ann = some a) (hb : b = none ∨ b = some (p, a)) : d.ptpOffer b p = some (p, a) := by
  unfold Dev.ptpOffer
  rw [if_pos hup, h]
  rcases hb with rfl | rfl
  · rfl
  · exact ite_self _

/-- Where one port alone has heard a clock, the offers of a list of ports that holds it end in that. -/
theorem Dev.foldl_offers (d : Dev) {p : Nat} {a : Nat × Nat × Nat} (hup : d.ptpUp p = true) (h : (d.port p).ann = some a)
    (hother : ∀ q, q ≠ p → (d.port q).ann = none) (l : List Nat) (b : Option (Nat × Nat × Nat × Nat)) (hb : b = some (p, a) ∨ (b = none ∧ p ∈ l)) :
    l.foldl d.ptpOffer b = some (p, a) := by
  induction l generalizing b with
  | nil => exact hb.resolve_right fun hb => List.not_mem_nil hb.2
  | cons q l ih =>
    by_cases hq : q = p
    · subst hq
      exact ih _ (.inl (d.ptpOffer_some hup h (hb.symm.imp_left And.left)))
    · rw [List.foldl_cons, d.ptpOffer_none b (hother q hq)]
      exact ih _ (hb.imp_right fun hb => ⟨hb.1, (List.mem_cons.mp hb.2).resolve_left (Ne.symm hq)⟩)

/-- The one port that has heard a clock is the best. -/
theorem Dev.bestPort_only (d : Dev) (p : Fin 12) {a : Nat × Nat × Nat} (hup : d.ptpUp p = true) (h : (d.port p).ann = some a)
    (hother : ∀ q, q ≠ p.val → (d.port q).ann = none) : d.bestPort = some p.val := by
  rw [Dev.bestPort_offers, d.foldl_offers hup h hother _ _ (.inr ⟨rfl, List.mem_range.mpr p.isLt⟩)]
  rfl

/-- Where no port has heard a clock, none is the best. -/
theorem Dev.bestPort_none (d : Dev) (h : ∀ q, (d.port q).ann = none) : d.bestPort = none := by
  rw [Dev.bestPort_offers, foldl_fixed _ _ _ fun q _ => d.ptpOffer_none none (h q)]
  rfl

theorem Dev.ptpUp_setPort (d : Dev) (p : Nat) (x : Port) (hx : x.st = (d.port p).st) : (d.setPort p x).ptpUp p = d.ptpUp p := by
  unfold Dev.ptpUp
  rw [Dev.setPort_port, hx]

/-- The best port is chosen: where it is the one that time came from already, nothing changes. -/
theorem Dev.ptpSelect_best (d : Dev) {p : Nat} (hm : d.od 0x2A00 0xC = 0) (hb : d.bestPort = some p) : d.ptpSelect =
    if d.fabric.ptpPort = p && d.fabric.ptpState != 3 then d
    else d.setFabric { d.fabric with ptpState := 1, ptpPort := p, ptpGood := 0, delaySent := none } := by
  unfold Dev.ptpSelect
  dsimp only
  rw [hm, hb]
  rfl

theorem Dev.ptpSelect_none (d : Dev) (hm : d.od 0x2A00 0xC = 0) (hb : d.bestPort = none) :
    d.ptpSelect = d.setFabric { d.fabric with ptpState := 0, ptpPort := 0xFF, ptpGood := 0, delaySent := none } := by
  unfold Dev.ptpSelect
  dsimp only
  rw [hm, hb]
  rfl

theorem announce_follows (p : Fin 12) (m : PtpMsg) (s : State) (hs : s.rests = true) (hup : s.dev.ptpUp p = true) (hdom : m.domain = s.dev.od 0x2A00 0xB)
    (hm : s.dev.od 0x2A00 0xC = 0) (hother : ∀ q, q ≠ p.val → (s.dev.port q).ann = none) :
    ∃ t, exec (.announce p m) s = .next t ∧ (t.dev.port p).ann = some (m.priority, m.clockClass, m.clockId) ∧ (t.dev.port p).annTime = s.time ∧
      t.dev.fabric.ptpPort = p ∧ (s.dev.fabric.ptpPort ≠ p.val → t.dev.fabric.ptpState = 1) ∧ t.mem = s.mem := by
  have hgo := fun f g d' hf => s.go_ptpIn p m (f := f) g d' hs hf hup hdom
  have hx := s.counted (portOd p) 0xF 1 hs
  have hod : (s.dev.count (portOd p) 0xF 1).od 0x2A00 0xC = 0 := (Dev.count_od_other _ _ (by decide) (by decide) (by simp [portOd])).trans hm
  generalize s.dev.count (portOd p) 0xF 1 = x at hgo hx hod
  obtain ⟨d, hd⟩ : ∃ d, x.setPort p { s.dev.port p with ann := some (m.priority, m.clockClass, m.clockId), annTime := s.time } = d := ⟨_, rfl⟩
  have hq : d.quiet = true := hd ▸ Dev.quiet_setPort _ _ _ hx.quiet (Port.still_congr (hx.still p) rfl rfl rfl rfl)
  have hst : d.stores = [] := hd ▸ hx.stores
  have hport : d.port p = { s.dev.port p with ann := some (m.priority, m.clockClass, m.clockId), annTime := s.time } := hd ▸ Dev.setPort_port _ _ _
  have hptp : d.fabric.ptpPort = s.dev.fabric.ptpPort := by rw [← hd, ← hx.fabric]; rfl
  have hbest : d.bestPort = some p.val := by
    refine d.bestPort_only p ?_ (congrArg Port.ann hport) fun q hne => ?_
    · rw [← hd, Dev.ptpUp_setPort _ _ _ (by rw [hx.port])]
      unfold Dev.ptpUp
      rw [hx.port]
      exact hup
    · rw [← hd, Dev.port_setPort, if_neg hne, hx.port]
      exact hother q hne
  have hsel := d.ptpSelect_best (by rw [← hd]; exact hod) hbest
  have hrun (d' : Dev) (h : d.ptpSelect = d') (hq : d'.quiet = true) (hst : d'.stores = []) : exec (.announce p m) s = .next { s with dev := d' } := by
    show execAnnounce p m s = _
    refine hgo _ _ d' rfl ?_ hq hst
    rw [hx.port, show s.env.time = s.time from rfl, hd, h]
  by_cases hsame : (decide (d.fabric.ptpPort = p.val) && d.fabric.ptpState != 3) = true
  · refine ⟨_, hrun d (hsel.trans (if_pos hsame)) hq hst, congrArg Port.ann hport, congrArg Port.annTime hport, ?_, ?_, rfl⟩
    · simp only [Bool.and_eq_true, decide_eq_true_eq] at hsame
      exact hsame.1
    · intro hne
      simp only [Bool.and_eq_true, decide_eq_true_eq] at hsame
      exact absurd (hptp ▸ hsame.1) hne
  · exact ⟨_, hrun _ (hsel.trans (if_neg hsame)) (Dev.quiet_samePorts _ _ hq rfl) hst, congrArg Port.ann hport, congrArg Port.annTime hport, rfl,
      fun _ => rfl, rfl⟩

theorem announceReceiptTimeout_leaves (p : Fin 12) (s : State) (hs : s.rests = true) (hann : (s.dev.port p).ann.isSome = true)
    (ht : (s.dev.port p).annTime + 3000000000 ≤ s.time) (hm : s.dev.od 0x2A00 0xC = 0) (hother : ∀ q, q ≠ p.val → (s.dev.port q).ann = none) :
    ∃ t, exec (.announceReceiptTimeout p) s = .next t ∧ (t.dev.port p).ann = none ∧ t.dev.fabric.ptpState = 0 ∧ t.dev.fabric.ptpPort = 0xFF ∧
      t.mem = s.mem := by
  obtain ⟨d, hd⟩ : ∃ d, s.dev.setPort p { s.dev.port p with ann := none } = d := ⟨_, rfl⟩
  have hq : d.quiet = true :=
    hd ▸ Dev.quiet_setPort _ _ _ (State.rests_quiet hs) (Port.still_congr (s.dev.port_still p (State.rests_quiet hs)) rfl rfl rfl rfl)
  have hst : d.stores = [] := hd ▸ State.rests_stores hs
  have hnone (q : Nat) : (d.port q).ann = none := by
    rw [← hd, Dev.port_setPort]
    split
    · rfl
    · next hne => exact hother q hne
  have hsel := d.ptpSelect_none (by rw [← hd]; exact hm) (d.bestPort_none hnone)
  refine ⟨_, show execAnnounceReceiptTimeout p s = _ from s.go_to _ (d.setFabric { d.fabric with ptpState := 0, ptpPort := 0xFF, ptpGood := 0, delaySent := none })
    hs ?_ (Dev.quiet_samePorts _ _ hq rfl) hst, hnone p, rfl, rfl, rfl⟩
  dsimp only
  rw [if_neg, hd, hsel]
  simp only [Bool.or_eq_true, decide_eq_true_eq, not_or, Option.isNone_iff_eq_none]
  exact ⟨fun h => by rw [h] at hann; exact Bool.false_ne_true hann, Nat.not_lt.mpr ht⟩

theorem ppsInEdge_sets (s : State) (hs : s.rests = true) (hm : s.dev.od 0x2A00 0xC = 1) :
    ∃ t, exec .ppsInEdge s = .next t ∧ (s.time + t.dev.fabric.ptpOffset) % 1000000000 = 0 ∧
      (t.dev.fabric.ptpOffset - s.dev.fabric.ptpOffset).natAbs ≤ 500000000 ∧ t.dev.out = s.dev.out ∧ t.mem = s.mem := by
  obtain ⟨off, hoff⟩ : ∃ off, (if (s.time + s.dev.fabric.ptpOffset) % 1000000000 < 500000000
      then s.dev.fabric.ptpOffset - (s.time + s.dev.fabric.ptpOffset) % 1000000000
      else s.dev.fabric.ptpOffset - (s.time + s.dev.fabric.ptpOffset) % 1000000000 + 1000000000) = off := ⟨_, rfl⟩
  have hphase : (s.time + off) % 1000000000 = 0 ∧ (off - s.dev.fabric.ptpOffset).natAbs ≤ 500000000 := by
    rw [← hoff]
    split <;> omega
  refine ⟨_, show execPpsInEdge s = _ from s.go_to _ (s.dev.setFabric { s.dev.fabric with ptpOffset := off }) hs ?_
    (Dev.quiet_samePorts _ _ (State.rests_quiet hs) rfl) (State.rests_stores hs), hphase.1, hphase.2, rfl, rfl⟩
  dsimp only
  rw [hm, if_neg (by decide), ← hoff]
  rfl

theorem ppsOutPulse_once (s : State) (hs : s.rests = true) (hst : s.dev.fabric.ptpState = 2 ∨ s.dev.fabric.ptpState = 3)
    (hsec : (s.time + s.dev.fabric.ptpOffset) % 1000000000 = 0) (hlast : s.dev.fabric.lastPps ≠ some ((s.time + s.dev.fabric.ptpOffset) / 1000000000)) :
    ∃ t, exec .ppsOutPulse s = .next t ∧ t.dev.out = s.dev.out ++ [.pps] ∧ exec .ppsOutPulse t = .next t := by
  obtain ⟨d, hd⟩ : ∃ d, (s.dev.setFabric { s.dev.fabric with lastPps := some ((s.time + s.dev.fabric.ptpOffset) / 1000000000) }).send .pps = d := ⟨_, rfl⟩
  have hq : d.quiet = true := hd ▸ Dev.quiet_samePorts _ _ (State.rests_quiet hs) rfl
  have hst' : d.stores = [] := hd ▸ State.rests_stores hs
  have hrest : ({ s with dev := d } : State).rests = true := by
    obtain ⟨-, -, hbox⟩ := s.rests_iff.mp hs
    exact State.rests_iff _ |>.mpr ⟨hq, hst', by subst hd; exact hbox⟩
  refine ⟨_, show execPpsOutPulse s = _ from s.go_to _ d hs ?_ hq hst', by rw [← hd]; rfl,
    show execPpsOutPulse { s with dev := d } = _ from State.go_to _ _ d hrest ?_ hq hst'⟩
  · refine (if_pos ?_).trans hd
    simp only [Bool.and_eq_true, Bool.or_eq_true, decide_eq_true_eq, bne_iff_ne]
    exact ⟨⟨hst, hsec⟩, hlast⟩
  · refine if_neg fun h => ?_
    simp only [Bool.and_eq_true, bne_iff_ne] at h
    refine h.2 ?_
    subst hd
    rfl

/-- What a port sends at the end of a Sync interval, once its sequence has moved on: `ann` is the tick of its last Announce (R580). -/
def Dev.syncSent (d : Dev) (p time ann : Nat) (now : PtpMsg) : Dev :=
  if d.fabric.ptpPort = p then
    ((d.setFabric { d.fabric with delaySent := some (time, now.seq) }).send (.ptp p "Delay_Req" now)).count (portOd p) 0x10 1
  else
    let d := (((d.send (.ptp p "Sync" now)).send (.ptp p "Follow_Up" now))).count (portOd p) 0x10 2
    if time < ann + 1000000000 && ann != 0 then d
    else ((d.setPort p { d.port p with annSent := time }).send (.ptp p "Announce" (d.announce now.seq))).count (portOd p) 0x10 1

/-- What a port sends leaves nothing due, and its Sync timer and sequence as they are. -/
theorem Dev.syncSent_port (d : Dev) (p time ann : Nat) (now : PtpMsg) (hq : d.quiet = true) :
    (d.syncSent p time ann now).quiet = true ∧ (d.syncSent p time ann now).stores = d.stores ∧
      ((d.syncSent p time ann now).port p).syncLast = (d.port p).syncLast ∧ ((d.syncSent p time ann now).port p).ptpSeq = (d.port p).ptpSeq := by
  unfold Dev.syncSent
  split
  · rw [Dev.quiet_count, Dev.count_stores, Dev.count_port]
    exact ⟨Dev.quiet_samePorts _ _ hq rfl, rfl, rfl, rfl⟩
  · have hx : ((d.send (.ptp p "Sync" now)).send (.ptp p "Follow_Up" now)).quiet = true := hq
    have hport : ((d.send (.ptp p "Sync" now)).send (.ptp p "Follow_Up" now)).port p = d.port p := rfl
    have hst : ((d.send (.ptp p "Sync" now)).send (.ptp p "Follow_Up" now)).stores = d.stores := rfl
    dsimp only
    rw [← Dev.quiet_count _ (portOd p) 0x10 2] at hx
    rw [← Dev.count_port _ (portOd p) 0x10 2] at hport
    rw [← Dev.count_stores _ (portOd p) 0x10 2] at hst
    generalize ((d.send (.ptp p "Sync" now)).send (.ptp p "Follow_Up" now)).count (portOd p) 0x10 2 = x at hx hport hst
    split
    · exact ⟨hx, hst, by rw [hport], by rw [hport]⟩
    · have hy : (x.setPort p { x.port p with annSent := time }).quiet = true :=
        Dev.quiet_setPort _ _ _ hx (Port.still_congr (x.port_still p hx) rfl rfl rfl rfl)
      have hyp : (x.setPort p { x.port p with annSent := time }).port p = { d.port p with annSent := time } := by
        rw [Dev.setPort_port, hport]
      have hys : (x.setPort p { x.port p with annSent := time }).stores = d.stores := hst
      generalize x.setPort p { x.port p with annSent := time } = y at hy hyp hys
      rw [Dev.quiet_count, Dev.count_stores, Dev.count_port]
      exact ⟨hy, hys, (congrArg Port.syncLast hyp :), (congrArg Port.ptpSeq hyp :)⟩

theorem syncInterval_sends (p : Fin 12) (s : State) (hs : s.rests = true) (hup : s.dev.ptpUp p = true)
    (ht : (s.dev.port p).syncLast + 125000000 ≤ s.time) :
    let now : PtpMsg := { domain := s.dev.od 0x2A00 0xB, seq := (s.dev.port p).ptpSeq, clockId := s.dev.fabId, time := s.time + s.dev.fabric.ptpOffset }
    ∃ t, exec (.syncInterval p) s = .next t ∧ (t.dev.port p).syncLast = s.time ∧ (t.dev.port p).ptpSeq = (s.dev.port p).ptpSeq + 1 ∧ t.mem = s.mem ∧
      (s.dev.fabric.ptpPort = p.val → t.dev.out = s.dev.out ++ [.ptp p "Delay_Req" now] ∧ t.dev.fabric.delaySent = some (s.time, now.seq)) ∧
      (s.dev.fabric.ptpPort ≠ p.val → (s.dev.port p).annSent ≠ 0 → s.time < (s.dev.port p).annSent + 1000000000 →
        t.dev.out = s.dev.out ++ [.ptp p "Sync" now, .ptp p "Follow_Up" now]) := by
  intro now
  have hstill := s.dev.port_still p (State.rests_quiet hs)
  obtain ⟨x, hx⟩ : ∃ x : Port, { s.dev.port p with syncLast := s.time, ptpSeq := (s.dev.port p).ptpSeq + 1 } = x := ⟨_, rfl⟩
  have hxs : x.still = true := hx ▸ Port.still_congr hstill rfl rfl rfl rfl
  obtain ⟨d, hd⟩ : ∃ d, s.dev.setPort p x = d := ⟨_, rfl⟩
  have hq : d.quiet = true := hd ▸ Dev.quiet_setPort _ _ _ (State.rests_quiet hs) hxs
  have hst : d.stores = [] := hd ▸ State.rests_stores hs
  have hport : d.port p = x := hd ▸ Dev.setPort_port _ _ _
  have hptp : d.fabric.ptpPort = s.dev.fabric.ptpPort := by rw [← hd]; rfl
  have hout : d.out = s.dev.out := by rw [← hd]; rfl
  have hlast : x.syncLast = s.time ∧ x.ptpSeq = (s.dev.port p).ptpSeq + 1 := by
    rw [← hx]
    exact ⟨rfl, rfl⟩
  have hrun : exec (.syncInterval p) s = .next { s with dev := d.syncSent p s.time (s.dev.port p).annSent now } := by
    show execSyncInterval p s = _
    obtain ⟨hq', hst', -⟩ := d.syncSent_port p s.time (s.dev.port p).annSent now hq
    refine s.go_to _ _ hs ?_ hq' (hst'.trans hst)
    dsimp only
    rw [if_neg, show s.env.time = s.time from rfl, hx, hd]
    · rfl
    · simp only [hup, Bool.not_true, Bool.false_or, decide_eq_true_eq]
      exact Nat.not_lt.mpr ht
  obtain ⟨-, -, hsl, hseq⟩ := d.syncSent_port p s.time (s.dev.port p).annSent now hq
  rw [hport] at hsl hseq
  refine ⟨_, hrun, hsl.trans hlast.1, hseq.trans hlast.2, rfl, fun hp => ?_, fun hp hann hlt => ?_⟩
  · have heq : d.syncSent p s.time (s.dev.port p).annSent now =
        ((d.setFabric { d.fabric with delaySent := some (s.time, now.seq) }).send (.ptp p "Delay_Req" now)).count (portOd p) 0x10 1 :=
      if_pos (hptp.trans hp)
    refine ⟨?_, ?_⟩
    · show (d.syncSent p s.time (s.dev.port p).annSent now).out = _
      rw [heq, Dev.count_out, ← hout]
      rfl
    · show (d.syncSent p s.time (s.dev.port p).annSent now).fabric.delaySent = _
      rw [heq, Dev.count_fabric]
      rfl
  · have heq : d.syncSent p s.time (s.dev.port p).annSent now =
        ((d.send (.ptp p "Sync" now)).send (.ptp p "Follow_Up" now)).count (portOd p) 0x10 2 :=
      (if_neg fun h => hp (hptp.symm.trans h)).trans (if_pos (by simp [hann, hlt]))
    show (d.syncSent p s.time (s.dev.port p).annSent now).out = _
    rw [heq, Dev.count_out, ← hout]
    exact List.append_assoc d.out [_] [_]

/-- Settles O56: the replies of an Ethernet port, a pause, and the clock that PTP follows. -/
theorem ethernetAndPtp : Obligations.EthernetAndPtp := by
  unfold Obligations.EthernetAndPtp
  exact ⟨fun p ip mac s hs hup => show execArpRequest p ip mac s = _ from s.go_etherReply p _ hs rfl hup,
    fun p ip mac s hs hup => show execNeighbourSolicitation p ip mac s = _ from s.go_etherReply p _ hs rfl hup,
    fun p v6 ip data s hs hup => show execIcmpEchoRequest p v6 ip data s = _ from s.go_etherReply p _ hs rfl hup,
    fun p prio quanta s hs hup hq => pfcFrame_pauses p prio quanta s hs hup hq, fun p m s hs hup hdom hp => sync_noted p m s hs hup hdom hp,
    fun p m t2 s hs hup hdom hp h => followUp_steps p m t2 s hs hup hdom hp h, fun p m s hs hup hdom hp => delayReq_answers p m s hs hup hdom hp,
    fun p m t3 s hs hup hdom hp h => delayResp_halves p m t3 s hs hup hdom hp h,
    fun p m s hs hup hdom hm h => announce_follows p m s hs hup hdom hm h, fun p s hs ha ht hm h => announceReceiptTimeout_leaves p s hs ha ht hm h,
    fun p s hs hup ht => syncInterval_sends p s hs hup ht, fun s hs hm => ppsInEdge_sets s hs hm, fun s hs hst hsec hl => ppsOutPulse_once s hs hst hsec hl⟩

end Sys2Proof.Machine
end

section
/-! PROOF. Responses to this device's requests over the fabric (R356, R570): O54. -/
namespace Sys2Proof.Machine

/-- The device has taken a frame at rest: nothing but its ports and counters differs. -/
structure State.Took (s : State) (d : Dev) : Prop where
  quiet : d.quiet = true
  stores : d.stores = []
  fabric : d.fabric = { s.dev.fabric with ports := d.fabric.ports }
  bare : d.bare = s.dev.bare
  od : ∀ k m, m < 256 → m ≠ 0xF → d.od k m = s.dev.od k m

theorem State.frameHere_took {s : State} {p : Nat} {f : Frame} (h : s.frameHere p f = true) : s.Took (s.dev.tookFrame p f) := by
  obtain ⟨hs, -⟩ := (s.frameHere_iff p f).mp h
  refine ⟨s.dev.quiet_tookFrame p f (State.rests_quiet hs), (s.dev.traffic_tookFrame p f).stores.trans (State.rests_stores hs), ?_,
    (s.dev.traffic_tookFrame p f).bare, fun k m hm hne => ?_⟩
  · unfold Dev.tookFrame
    dsimp only [Dev.setPort]
    rw [Dev.count_fabric]
  · exact Dev.count_od_other s.dev 1 hm (by decide) fun h => hne (congrArg Prod.snd h)

theorem State.Took.queue {s : State} {d : Dev} (h : s.Took d) (n q : Nat) : d.queue n q = s.dev.queue n q :=
  (congrArg (fun x : Dev => x.queue n q) h.bare :)

theorem State.Took.strict {s : State} {d : Dev} (h : s.Took d) (n : Nat) : d.strict n = s.dev.strict n := by
  unfold Dev.strict
  rw [h.od _ _ (by decide) (by decide)]

/-- A frame for this device does what its delivery does. -/
theorem exec_frame_here {s : State} {c : Instr} {p : Fin 12} {f : Frame} {d' : Dev} (h : s.frameHere p f = true) (hrow : frameRow c = some (p, f))
    (hd : (s.dev.tookFrame p f).deliver s.env p f = d') : ∃ g, exec c s = s.go g ∧ g s.env s.dev = d' := by
  obtain ⟨hs, -⟩ := (s.frameHere_iff p f).mp h
  obtain ⟨g, hg, heff⟩ := exec_of_frameRow hs hrow
  exact ⟨g, hg, heff.trans ((State.frameIn_here h).trans hd)⟩

theorem Dev.deliver_response (d : Dev) (e : Env) (p : Nat) (f : Frame) (h : d.islAnswer (332 + p) = none) (ty : f.ty = 0x28 ∨ f.ty = 0x29 ∨ f.ty = 0x2A) :
    d.deliver e p f = d.fabResponse e p f := by
  rcases ty with ty | ty | ty <;> simp [Dev.deliver, h, ty]

/-- The row of an acknowledgement of a PUT, or of the answer to a GET. -/
theorem frameRow_response {p : Fin 12} {f : Frame} (ty : f.ty = 0x28 ∨ f.ty = 0x29) : frameRow (if f.ty = 0x28 then .putAck p f else .getRsp p f) = some (p, f) := by
  rcases ty with ty | ty
  · rw [if_pos ty]
    exact if_pos ty
  · rw [if_neg (by omega)]
    exact if_pos ty

/-- The one request under way is the one that the frame answers. -/
theorem Dev.find_remote {r : Remote} {f : Frame} (htn : r.tn = f.tn) (hdst : r.f.dst = f.src) (hty : r.f.ty + 8 = f.ty) :
    ([r].find? fun r => r.tn == f.tn && r.f.dst == f.src && r.f.ty + 8 == f.ty) = some r :=
  List.find?_cons_of_pos (by simp [htn, hdst, hty])

theorem Dev.dropRemote_one (d : Dev) {r : Remote} (h : d.fabric.remotes = [r]) : d.dropRemote r.tn = { d with fabric := { d.fabric with remotes := [] } } := by
  unfold Dev.dropRemote
  rw [h]
  simp

/-- What a response from this device's peer does to the one request under way. -/
theorem Dev.fabResponse_one (d : Dev) (e : Env) (p : Nat) {f : Frame} {r : Remote} (hr : d.fabric.remotes = [r]) (htn : r.tn = f.tn)
    (hdst : r.f.dst = f.src) (hty : r.f.ty + 8 = f.ty) : d.fabResponse e p f =
      if r.dead then { d with fabric := { d.fabric with remotes := [] } }
      else if f.st = 8 then { d with fabric := { d.fabric with remotes := [{ r with retryAt := some (e.time + 1000) }] } }
      else ({ d with fabric := { d.fabric with remotes := [] } } : Dev).remoteEnd e r f.payload (if f.st = 0 && f.poison then .integrity else statusOf f.st) := by
  unfold Dev.fabResponse
  rw [hr, Dev.find_remote htn hdst hty]
  dsimp only
  rw [d.dropRemote_one hr, List.map_cons, List.map_nil, if_pos rfl]
  rfl

theorem Dev.remoteEnd_gutter (d : Dev) (e : Env) {r : Remote} (bs : List Byte) (st : Status) (h : ∃ c, r.who = .gutter c) :
    d.remoteEnd e r bs st = { d with fabric := { d.fabric with acks := d.fabric.acks ++ [(r.who, r.f.addr, bs, st)] } } := by
  obtain ⟨c, hc⟩ := h
  unfold Dev.remoteEnd
  rw [hc]

/-- A command from a frame taken leaves its fabric with other requests and acknowledgements: nothing is due. -/
theorem State.Took.quiet_fabric {s : State} {d : Dev} (h : s.Took d) (f : Fabric) (hp : f.ports = d.fabric.ports) : ({ d with fabric := f } : Dev).quiet = true :=
  d.quiet_samePorts f h.quiet hp

section
variable {p : Fin 12} {f : Frame} {s : State} (h : s.frameHere p f = true) (ty : f.ty = 0x28 ∨ f.ty = 0x29)
include h ty

/-- A response answers what it makes of the device's fabric. -/
theorem exec_response {fab : Fabric} (hp : fab.ports = (s.dev.tookFrame p f).fabric.ports)
    (hd : (s.dev.tookFrame p f).fabResponse s.env p f = { s.dev.tookFrame p f with fabric := fab }) :
    exec (if f.ty = 0x28 then .putAck p f else .getRsp p f) s = .next { s with dev := { s.dev.tookFrame p f with fabric := fab } } := by
  obtain ⟨hs, -⟩ := (s.frameHere_iff p f).mp h
  have took := State.frameHere_took h
  obtain ⟨g, hg, heff⟩ := exec_frame_here h (frameRow_response ty)
    (Dev.deliver_response _ s.env p f (State.tookFrame_serves h) (ty.imp_right .inl))
  rw [hg]
  exact s.go_to g _ hs (heff.trans hd) (took.quiet_fabric fab hp) took.stores

variable {r : Remote} (hr : s.dev.fabric.remotes = [r]) (htn : r.tn = f.tn) (hdst : r.f.dst = f.src) (hty : r.f.ty + 8 = f.ty)
include hr htn hdst hty

theorem response_ends (hdead : r.dead = false) (hwho : ∃ c, r.who = .gutter c) (hst : f.st ≠ 8) (hpoison : f.poison = false) :
    let d := s.dev.tookFrame p f
    let fab : Fabric := { d.fabric with remotes := [], acks := d.fabric.acks ++ [(r.who, r.f.addr, f.payload, statusOf f.st)] }
    exec (if f.ty = 0x28 then .putAck p f else .getRsp p f) s = .next { s with dev := { d with fabric := fab } } := by
  intro d fab
  have hr' : d.fabric.remotes = [r] := by
    rw [(State.frameHere_took h).fabric]
    exact hr
  refine exec_response h ty (fab := fab) rfl ?_
  rw [Dev.fabResponse_one _ s.env p hr' htn hdst hty, hdead, if_neg Bool.false_ne_true, if_neg hst, Dev.remoteEnd_gutter _ _ _ _ hwho, hpoison, Bool.and_false,
    if_neg Bool.false_ne_true]

theorem response_retries (hdead : r.dead = true ∨ f.st = 8) :
    let d := s.dev.tookFrame p f
    let fab : Fabric := { d.fabric with remotes := if r.dead then [] else [{ r with retryAt := some (s.time + 1000) }] }
    exec (if f.ty = 0x28 then .putAck p f else .getRsp p f) s = .next { s with dev := { d with fabric := fab } } := by
  intro d fab
  have hr' : d.fabric.remotes = [r] := by
    rw [(State.frameHere_took h).fabric]
    exact hr
  refine exec_response h ty (fab := fab) rfl ?_
  rw [Dev.fabResponse_one _ s.env p hr' htn hdst hty]
  by_cases hd : r.dead = true
  · rw [if_pos hd]
    show _ = ({ d with fabric := { d.fabric with remotes := if r.dead then [] else _ } } : Dev)
    rw [if_pos hd]
  · rw [if_neg hd, if_pos (hdead.resolve_left hd)]
    show _ = ({ d with fabric := { d.fabric with remotes := if r.dead then [] else _ } } : Dev)
    rw [if_neg hd]
    rfl

end

theorem sigAck_completes (p : Fin 12) (f : Frame) (r : Remote) (n : Fin 16) (q : Fin 8) (w : W32) (c : Cmd) (s : State) (h : s.frameHere p f = true)
    (ty : f.ty = 0x2A) (hr : s.dev.fabric.remotes = [r]) (htn : r.tn = f.tn) (hdst : r.f.dst = f.src) (hty : r.f.ty = 0x22) (hdead : r.dead = false)
    (hwho : r.who = .cmd (8 * n + q) w.toNat) (hst : f.st = 0) (hpoison : f.poison = false) (hc : s.stands n q w 3 .running c = true) (hf : c.flag 0 = false) :
    ∃ t, exec (.sigAck p f) s = .next t ∧ t.dev.fabric.remotes = [] ∧ (t.dev.queue n q) = (s.dev.served n q).queue n q ∧ t.mem = s.mem := by
  have hst' := State.stands_iff hc
  have took := State.frameHere_took h
  obtain ⟨g, hg, heff⟩ := exec_frame_here (c := .sigAck p f) h (if_pos ty)
    (Dev.deliver_response _ s.env p f (State.tookFrame_serves h) (.inr (.inr ty)))
  generalize s.dev.tookFrame p f = d at took heff
  obtain ⟨x, hx⟩ : ∃ x : Dev, { d with fabric := { d.fabric with remotes := [] } } = x := ⟨_, rfl⟩
  have hxq (n q : Nat) : x.queue n q = s.dev.queue n q := by
    rw [← hx]
    exact took.queue n q
  have hxs (n : Nat) : x.strict n = s.dev.strict n := by
    rw [← hx]
    exact took.strict n
  have hend : g s.env s.dev = x.served n q := by
    rw [heff, d.fabResponse_one s.env p (by rw [took.fabric]; exact hr) htn hdst (by rw [hty, ty]), hdead, if_neg Bool.false_ne_true, hx, hst,
      if_neg (by decide), hpoison]
    unfold Dev.remoteEnd
    rw [hwho]
    dsimp only
    rw [if_pos hty, show (8 * n.val + q.val) / 8 = n by omega, show (8 * n.val + q.val) % 8 = q by omega, BitVec.ofNat_toNat, BitVec.setWidth_eq]
    exact x.endCmd_served s.env 0 .own ((congrArg Queue.cmds (hxq n q)).trans hst'.cmds) hst'.pos hf (by rw [hst'.op_]; decide)
  refine ⟨_, hg.trans (s.go_to g _ hst'.rests hend ?_ ?_), ?_, Dev.served_queue (hxq n q) (hxs n), rfl⟩
  · show x.quiet = true
    rw [← hx]
    exact took.quiet_fabric _ rfl
  · show x.stores = []
    rw [← hx]
    exact took.stores
  · show x.fabric.remotes = []
    rw [← hx]

/-- A frame with one route, room and nothing before it leaves by its port. -/
theorem Dev.switch_sends (d : Dev) (f : Frame) {p : Nat} (hq : d.queuedFor f.dst = false) (hr : d.routeList f.dst = [p]) (hqueued : (d.port p).queued = [])
    (hroom : (frameCost f : Int) ≤ (d.port p).credit f.vc) :
    ∃ k, (d.switch f).out = d.out ++ [.frame p { f with seq := k, len := f.payload.length }] := by
  have hroutes : d.routesFor f.dst = [p] := (if_neg (by simp [hq])).trans hr
  have hst : (d.port p).st = .inService := by
    have hm : p ∈ d.routeList f.dst := hr ▸ List.mem_singleton.mpr rfl
    simp only [Dev.routeList, List.mem_filter, Bool.and_eq_true, beq_iff_eq] at hm
    exact hm.2.2
  have hport : d.routePort f.src f.dst = some p := by
    unfold Dev.routePort
    rw [hroutes]
    simp [Nat.mod_one]
  refine ⟨(d.port p).txSeq.toNat, ?_⟩
  show (match d.routePort f.src f.dst with
    | some p => if (d.port p).st == PortSt.inService then d.portSend p f else d.count 0x2A00 9 1
    | none => d.count 0x2A00 9 1).out = _
  rw [hport]
  dsimp only
  rw [hst, if_pos (show (PortSt.inService == PortSt.inService) = true by rfl), Dev.portSend, if_pos (by simp [hroom, hqueued]), Dev.count_out]
  rfl

theorem remoteResend_sends (tn : Nat) (r : Remote) (x p' : Nat) (s : State) (hs : s.rests = true) (hr : s.dev.fabric.remotes = [r]) (htn : r.tn = tn)
    (hdead : r.dead = false) (hat : r.retryAt = some x) (hx : x ≤ s.time) (hroute : s.route r.f.dst p' r.f.vc r.f.payload.length = true) :
    ∃ t, exec (.remoteResend tn) s = .next t ∧ t.dev.fabric.remotes = [{ r with retryAt := none }] ∧
      s.sent t p' { r.f with src := s.dev.fabId, hops := s.dev.od 0x2A00 5 } ∧ t.mem = s.mem := by
  unfold State.route at hroute
  simp only [Bool.and_eq_true, Bool.not_eq_true', beq_iff_eq, List.isEmpty_iff, decide_eq_true_eq] at hroute
  obtain ⟨⟨⟨hq, hlist⟩, hqueued⟩, hroom⟩ := hroute
  obtain ⟨d, hd⟩ : ∃ d : Dev, { s.dev with fabric := { s.dev.fabric with remotes := [{ r with retryAt := none }] } } = d := ⟨_, rfl⟩
  have hdq : d.quiet = true := hd ▸ s.dev.quiet_samePorts _ (State.rests_quiet hs) rfl
  have hds : d.stores = [] := hd ▸ State.rests_stores hs
  obtain ⟨f, hf⟩ : ∃ f : Frame, { r.f with src := s.dev.fabId, hops := s.dev.od 0x2A00 5 } = f := ⟨_, rfl⟩
  obtain ⟨k, hout⟩ : ∃ k, (d.switch f).out = d.out ++ [.frame p' { f with seq := k, len := f.payload.length }] := by
    subst hd hf
    exact Dev.switch_sends _ _ hq hlist hqueued hroom
  have htraffic := d.traffic_switch f
  refine ⟨_, show execRemoteResend tn s = _ from s.go_stamped _ (d.switch f) hs ?_ ((d.quietButTimers_of_quiet hdq).traffic htraffic)
    (htraffic.stores.trans hds), ?_, ⟨k, ?_⟩, rfl⟩
  · dsimp only
    rw [hr, List.find?_cons_of_pos (by simp [htn, hdead])]
    dsimp only
    rw [hat]
    dsimp only
    rw [show s.env.time = s.time from rfl, if_neg (Nat.not_lt.mpr hx), List.map_cons, List.map_nil, if_pos htn, hd, Dev.originate, ← hf, ← hd]
    rfl
  · show (d.switch f).fabric.remotes = _
    refine (congrArg (fun x : Dev => x.fabric.remotes) htraffic.bare :).trans ?_
    rw [← hd]
    rfl
  · show (d.switch f).out = _
    rw [hout, ← hd, ← hf]

theorem remoteTimeout_ends (tn c : Nat) (r : Remote) (s : State) (hs : s.rests = true) (hr : s.dev.fabric.remotes = [r]) (htn : r.tn = tn)
    (hdead : r.dead = false) (hwho : r.who = .gutter c) (ht : r.sent + s.dev.od 0x2A00 6 * 1000 ≤ s.time) :
    let dead : Remote := { r with dead := true, retryAt := none }
    let fab : Fabric := { s.dev.fabric with remotes := [dead], acks := s.dev.fabric.acks ++ [(r.who, r.f.addr, [], .timeout)] }
    exec (.remoteTimeout tn) s = .next { s with dev := { s.dev with fabric := fab } } := by
  intro dead fab
  show execRemoteTimeout tn s = _
  refine s.go_to _ _ hs ?_ (s.dev.quiet_samePorts _ (State.rests_quiet hs) rfl) (State.rests_stores hs)
  dsimp only
  rw [hr, List.find?_cons_of_pos (by simp [htn, hdead])]
  dsimp only
  rw [show s.env.time = s.time from rfl, if_neg (Nat.not_lt.mpr ht), List.map_cons, List.map_nil, if_pos htn, Dev.remoteEnd_gutter _ _ _ _ ⟨c, hwho⟩]

/-- Settles O54: a response ends its request or has it sent again; a request whose time is up ends, and what arrives later is dropped. -/
theorem fabricResponses : Obligations.FabricResponses := by
  unfold Obligations.FabricResponses
  exact ⟨fun p f r s h ty hr htn hdst hty hdead hwho hst hpoison => response_ends h ty hr htn hdst hty hdead hwho hst hpoison,
    fun p f r n q w c s h ty hr htn hdst hty hdead hwho hst hpoison hc hf =>
      sigAck_completes p f r n q w c s h ty hr htn hdst hty hdead hwho hst hpoison hc hf,
    fun p f r s h ty hr htn hdst hty hdead => response_retries h ty hr htn hdst hty hdead,
    fun tn r x p' s hs hr htn hdead hat hx hroute => remoteResend_sends tn r x p' s hs hr htn hdead hat hx hroute,
    fun tn c r s hs hr htn hdead hwho ht => remoteTimeout_ends tn c r s hs hr htn hdead hwho ht⟩

end Sys2Proof.Machine
end

section
/-! PROOF. Commands are fetched and start in order (R346, R352, R534): O34. -/
namespace Sys2Proof.Machine

/-! ### What waits to be prepared -/

/-- A command of a queue calls for no preparation: it is no fetched Course that is idle, and no fetched CHAIN that is not prepared. -/
def Dev.asksNone (d : Dev) (n q : Nat) (c : Cmd) : Bool :=
  c.ph != .fetched || ((c.op != 0x11 || (d.course (c.f 8 2)).st != .idle) && (c.op != 0x12 || (d.preparedFor n q c.pos).isSome))

/-- No command of the device's queues calls for preparation. -/
def Dev.AllPrepared (d : Dev) : Prop := ∀ n q, q < 8 → ∀ c ∈ (d.queue n q).cmds, d.asksNone n q c = true

/-- What holds of every entry under its own key holds of what a key reads. -/
theorem smGet_all_keyed {α : Type} (dflt : α) (p : Nat → α → Bool) (m : SMap α) (h : (m.all fun c => p c.1 c.2) = true) (k : Nat) (h0 : p k dflt = true) :
    p k (smGet dflt m k) = true := by
  induction m with
  | nil => exact h0
  | cons c r ih =>
    simp only [List.all_cons, Bool.and_eq_true] at h
    unfold smGet
    split
    · next hk => exact hk ▸ h.1
    · exact ih h.2

theorem Dev.allPrepared_of_noPrep {d : Dev} (h : d.noPrep = true) : d.AllPrepared := by
  intro n q hq
  have hk := smGet_all_keyed ({} : Queue) (fun k x => x.cmds.all fun c => d.asksNone (k / 8) (k % 8) c) d.queues h (8 * n + q) rfl
  rw [show (8 * n + q) / 8 = n by omega, show (8 * n + q) % 8 = q by omega] at hk
  exact List.all_eq_true.mp hk

/-- A device whose commands call for no preparation prepares none. -/
theorem Dev.AllPrepared.prepareAll {d : Dev} (h : d.AllPrepared) (e : Env) : d.prepareAll e = d := by
  unfold Dev.prepareAll
  refine foldl_fixed _ _ _ fun k _ => foldl_fixed _ _ _ fun c hc => ?_
  have hp := h (k.1 / 8) (k.1 % 8) (Nat.mod_lt _ (by decide)) c ((List.takeWhile_prefix _).subset hc)
  simp only [Dev.asksNone, Bool.or_eq_true, Bool.and_eq_true, bne_iff_ne] at hp
  split
  · rfl
  · next hf =>
    simp only [Bool.or_eq_true, bne_iff_ne, not_or, not_not] at hf
    obtain ⟨h11, h12⟩ := hp.resolve_left fun hne => hne hf.1
    split
    · next hop =>
      unfold Dev.coursePrepare
      exact if_pos (by simpa using h11.resolve_left fun hne => hne (beq_iff_eq.mp hop))
    · split
      · next hop =>
        unfold Dev.chainPrepare
        exact if_pos (h12.resolve_left fun hne => hne (beq_iff_eq.mp hop))
      · rfl

/-- The opcode is the first byte of the command. -/
theorem Cmd.op_ne {c : Cmd} {v : Byte} (h : c.bytes[0]? ≠ some v) (hv : v ≠ 0) : c.op ≠ v.toNat := by
  unfold Cmd.op Cmd.f fld
  cases hb : c.bytes with
  | nil =>
    intro h0
    exact hv (BitVec.eq_of_toNat_eq h0.symm)
  | cons b bs =>
    rw [hb] at h
    intro h0
    refine h (congrArg some (BitVec.eq_of_toNat_eq (.trans ?_ h0)))
    simp [leNat]

/-! ### Fetch -/

/-- The queue has one command before its producer index, which is fetched: it has none left. -/
theorem Dev.ranks_caughtUp (d : Dev) (n q : Nat) (h : (d.queue n q).p = (d.queue n q).fe) : d.ranks n q = false := by
  unfold Dev.ranks
  dsimp only
  rw [h]
  simp

/-- The queue picked ranks. -/
theorem Dev.pickQueue_ranks (d : Dev) (n : Nat) {q : Nat} (h : d.pickQueue n = some q) : d.ranks n q = true := by
  unfold Dev.pickQueue at h
  refine List.foldlRecOn (motive := fun b => ∀ q, b = some q → d.ranks n q = true) _ _ (fun q hq => by cases hq) (fun b hb x _ q hq => ?_) q h
  split at hq
  · exact hb q hq
  · next hx =>
    have hx : d.ranks n x = true := by simpa using hx
    split at hq
    · exact Option.some.inj hq ▸ hx
    · split at hq
      · exact Option.some.inj hq ▸ hx
      · exact hb q (by rw [← hq])

theorem Dev.pickQueue_lt (d : Dev) (n : Nat) {q : Nat} (h : d.pickQueue n = some q) : q < 8 := by
  unfold Dev.pickQueue at h
  refine List.foldlRecOn (motive := fun b => ∀ q, b = some q → q < 8) _ _ (fun q hq => by cases hq) (fun b hb x hx q hq => ?_) q h
  have hlt : x < 8 := by
    obtain ⟨i, -, rfl⟩ := List.mem_map.mp hx
    exact Nat.mod_lt _ (by decide)
  split at hq
  · exact hb q hq
  · split at hq
    · exact Option.some.inj hq ▸ hlt
    · split at hq
      · exact Option.some.inj hq ▸ hlt
      · exact hb q (by rw [← hq])

/-- The device once queue `q` of Bay `n` has fetched the command `c`. -/
def Dev.fetched (d : Dev) (n q : Nat) (c : Cmd) : Dev :=
  (d.setQueue n q { d.queue n q with fe := (d.queue n q).fe + 1, cmds := (d.queue n q).cmds ++ [c] }).moveFr n q

theorem Dev.queue_fetched (d : Dev) (n q : Nat) (c : Cmd) : ∃ fr, (d.fetched n q c).queue n q =
    { d.queue n q with fe := (d.queue n q).fe + 1, cmds := (d.queue n q).cmds ++ [c], fr := fr } := by
  unfold Dev.fetched Dev.moveFr
  dsimp only
  rw [Dev.queue_setQueue, Dev.queue_setQueue]
  exact ⟨_, rfl⟩

theorem Dev.queue_fetched_other (d : Dev) {n q m k : Nat} (c : Cmd) (h : 8 * m + k ≠ 8 * n + q) : (d.fetched n q c).queue m k = d.queue m k := by
  unfold Dev.fetched Dev.moveFr
  exact (smGet_set_other ({} : Queue) _ _ _ _ h).trans (smGet_set_other ({} : Queue) _ _ _ _ h)

/-- What a Bay's fetch leaves of the Bay: it runs. -/
theorem Dev.fetchOne_got (d : Dev) (e : Env) (n q : Nat) {bs : List Byte} {d' : Dev}
    (h : d.readRange e (.queue (8 * n + q)) n (d.cqSpace n q) (d.od (0x2680 + n) (0x10 * q + 1) + (d.queue n q).fe.toNat % 2 ^ d.cqK n q * 64) 64 =
      (.got bs false, d')) :
    d.fetchOne e n q false = (true, if (d'.bay n).st = .idle then (d'.fetched n q { pos := (d'.queue n q).fe, bytes := bs, at_ := e.time }).toState n .running
      else d'.fetched n q { pos := (d'.queue n q).fe, bytes := bs, at_ := e.time }) := by
  unfold Dev.fetchOne
  dsimp only
  rw [h]
  dsimp only
  rw [if_neg (by decide)]
  refine congrArg (Prod.mk true) ?_
  exact if_congr beq_iff_eq rfl rfl

/-- A batch whose queue has one command to fetch fetches that. -/
theorem Dev.fetchBatch_one (d : Dev) (e : Env) (n q k : Nat) {d' : Dev} (hr : d.ranks n q = true) (h : d.fetchOne e n q false = (true, d'))
    (hc : (d'.queue n q).p = (d'.queue n q).fe) : d.fetchBatch e n q false (k + 2) = d' := by
  unfold Dev.fetchBatch
  rw [hr, if_neg (by decide), h]
  dsimp only
  unfold Dev.fetchBatch
  rw [Dev.ranks_caughtUp _ _ _ hc]
  rfl

theorem Dev.AllPrepared.fetched {d : Dev} (h : d.AllPrepared) (n : Nat) {q : Nat} {c : Cmd} (hq : q < 8) (h11 : c.op ≠ 0x11) (h12 : c.op ≠ 0x12) :
    (d.fetched n q c).AllPrepared := by
  intro m k hk x hx
  by_cases hmk : 8 * m + k = 8 * n + q
  · obtain ⟨rfl, rfl⟩ : m = n ∧ k = q := by omega
    obtain ⟨fr, hfr⟩ := d.queue_fetched m k c
    rw [hfr] at hx
    rcases List.mem_append.mp hx with hx | hx
    · exact h m k hk x hx
    · rw [List.mem_singleton.mp hx]
      simp [Dev.asksNone, h11, h12]
  · rw [d.queue_fetched_other c hmk] at hx
    exact h m k hk x hx

/-- What says whether commands call for preparation: the queues, the Courses and the CHAINs prepared. -/
theorem Dev.AllPrepared.congr {d d' : Dev} (h : d.AllPrepared) (hq : d'.queues = d.queues) (hc : d'.courses = d.courses) (hp : d'.prepared = d.prepared) :
    d'.AllPrepared := by
  intro n q hq8 c hx
  have hx' : c ∈ (d.queue n q).cmds := by
    rw [show d.queue n q = d'.queue n q from congrArg (fun m => smGet ({} : Queue) m (8 * n + q)) hq.symm]
    exact hx
  have hcal := h n q hq8 c hx'
  unfold Dev.asksNone Dev.course Dev.preparedFor at hcal ⊢
  rw [hc, hp]
  exact hcal

/-- A Bay that runs from now on, having been idle or running, with a device that differs by traffic alone otherwise. -/
theorem Dev.runs_traffic (d : Dev) (n : Nat) (hst : (d.bay n).st = .idle ∨ (d.bay n).st = .running) :
    ∃ d', (if (d.bay n).st = .idle then d.toState n .running else d) = d' ∧ (d'.bay n).st = .running ∧ (d'.bay n).lastQueue = (d.bay n).lastQueue ∧
      (∃ bays, ({ d with bays := bays } : Dev).SameButTraffic d') := by
  rcases hst with h | h
  · have ht := (d.setBay n { d.bay n with st := .running }).traffic_raisePf 3
    have hbay : ((d.setBay n { d.bay n with st := .running }).raisePf 3).bay n = { d.bay n with st := .running } :=
      (congrArg (fun x : Dev => x.bay n) ht.bare :).trans (Dev.setBay_bay d n { d.bay n with st := .running })
    exact ⟨_, if_pos h, (congrArg Bay.st hbay :), (congrArg Bay.lastQueue hbay :), _, ht⟩
  · refine ⟨_, if_neg (by rw [h]; decide), h, rfl, d.bays, .refl d⟩

theorem commandFetch_fetches (n : Fin 16) (q : Nat) (bs : List Byte) (tr : Trans) (s : State) (hs : s.rests = true) (hprep : s.dev.noPrep = true)
    (hpick : s.dev.pickQueue n = some q) (hp : (s.dev.queue n q).p = (s.dev.queue n q).fe + 1) (h11 : bs[0]? ≠ some 0x11) (h12 : bs[0]? ≠ some 0x12)
    (hread : (s.dev.setBay n { s.dev.bay n with lastQueue := q }).readRange s.env (.queue (8 * n + q)) n (s.dev.cqSpace n q)
      (s.dev.od (0x2680 + n) (0x10 * q + 1) + (s.dev.queue n q).fe.toNat % 2 ^ s.dev.cqK n q * 64) 64 =
      (.got bs false, { s.dev.setBay n { s.dev.bay n with lastQueue := q } with trans := tr })) :
    ∃ t, exec (.commandFetch n false) s = .next t ∧
      (t.dev.queue n q).cmds = (s.dev.queue n q).cmds ++ [{ pos := (s.dev.queue n q).fe, bytes := bs, at_ := s.time }] ∧
      (t.dev.queue n q).fe = (s.dev.queue n q).fe + 1 ∧ (t.dev.queue n q).p = (s.dev.queue n q).p ∧ (t.dev.bay n).st = .running ∧
      (t.dev.bay n).lastQueue = q ∧ t.mem = s.mem := by
  have hranks := s.dev.pickQueue_ranks n hpick
  have hawake : (s.dev.bay n).st = .idle ∨ (s.dev.bay n).st = .running := by
    simp only [Dev.ranks, Bool.and_eq_true] at hranks
    obtain ⟨⟨-, hawake⟩, -⟩ := hranks
    cases hst : (s.dev.bay n).st <;> rw [hst] at hawake <;> simp_all [BaySt.awake]
  obtain ⟨d, hd⟩ : ∃ d, s.dev.setBay n { s.dev.bay n with lastQueue := q } = d := ⟨_, rfl⟩
  have hbay : d.bay n = { s.dev.bay n with lastQueue := q } := hd ▸ Dev.setBay_bay _ _ _
  have hqueue : d.queue n q = s.dev.queue n q := by rw [← hd]; rfl
  have hdr : d.ranks n q = true := by
    rw [← hranks, ← hd]
    unfold Dev.ranks
    rw [Dev.setBay_bay]
    rfl
  obtain ⟨c, hc⟩ : ∃ c : Cmd, { pos := (s.dev.queue n q).fe, bytes := bs, at_ := s.time } = c := ⟨_, rfl⟩
  obtain ⟨y, hy⟩ : ∃ y, ({ d with trans := tr } : Dev).fetched n q c = y := ⟨_, rfl⟩
  obtain ⟨fr, hyq⟩ : ∃ fr, y.queue n q = { s.dev.queue n q with fe := (s.dev.queue n q).fe + 1, cmds := (s.dev.queue n q).cmds ++ [c], fr := fr } := by
    rw [← hy, ← hqueue]
    exact Dev.queue_fetched _ n q c
  have hybay : y.bay n = { s.dev.bay n with lastQueue := q } := by rw [← hbay, ← hy]; rfl
  have hyq' : y.quiet = true := by rw [← hy, ← hd]; exact State.rests_quiet hs
  have hyst : y.stores = [] := by rw [← hy, ← hd]; exact State.rests_stores hs
  have hyprep : y.AllPrepared := by
    rw [← hy]
    refine Dev.AllPrepared.fetched ((Dev.allPrepared_of_noPrep hprep).congr ?_ ?_ ?_) n (s.dev.pickQueue_lt n hpick) ?_ ?_
    iterate 3 rw [← hd]; rfl
    · exact Cmd.op_ne (v := 0x11) (by rw [← hc]; exact h11) (by decide)
    · exact Cmd.op_ne (v := 0x12) (by rw [← hc]; exact h12) (by decide)
  have hone := d.fetchOne_got s.env n q (bs := bs) (d' := { d with trans := tr }) (by rw [hqueue, ← hd]; exact hread)
  obtain ⟨z, hz, hzst, hzlast, x, ht⟩ := y.runs_traffic n (by rw [hybay]; exact hawake)
  have hfetch : d.fetchOne s.env n q false = (true, z) := by
    rw [hone, show ({ d with trans := tr } : Dev).queue n q = s.dev.queue n q from hqueue, show s.env.time = s.time from rfl, hc, hy, ← hz,
      show ({ d with trans := tr } : Dev).bay n = y.bay n from hbay.trans hybay.symm]
  have hzq : z.queue n q = y.queue n q := (congrArg (fun x : Dev => x.queue n q) ht.bare :)
  have hzprep : z.AllPrepared := hyprep.congr (congrArg Dev.queues ht.bare :) (congrArg Dev.courses ht.bare :) (congrArg Dev.prepared ht.bare :)
  have hbatch : d.fetchBatch s.env n q false 16 = z := d.fetchBatch_one s.env n q 14 hdr hfetch (by rw [hzq, hyq]; exact hp)
  refine ⟨_, show execCommandFetch n false s = _ from s.go_stamped _ z hs ?_ ((Dev.quietButTimers_of_quiet { y with bays := x } hyq').traffic ht)
    (ht.stores.trans hyst), ?_, ?_, ?_, hzst, hzlast.trans (by rw [hybay]), rfl⟩
  · dsimp only
    rw [hpick]
    dsimp only
    rw [hd, hbatch, hzprep.prepareAll]
  · show (z.queue n q).cmds = _
    rw [hzq, hyq, hc]
  · show (z.queue n q).fe = _
    rw [hzq, hyq]
  · show (z.queue n q).p = _
    rw [hzq, hyq]

/-! ### Start -/

theorem odSize_started (n : Fin 16) : odSize (0x2680 + n) 0x79 = 8 := by
  fin_cases n <;> decide

/-- A device's effect and its count: what is read of the device apart from counters and free values stays. -/
theorem Dev.of_count {α : Type} (g : Dev → α) (hg : ∀ d : Dev, g d.bare = g d) (d : Dev) (idx sub k : Nat) : g (d.count idx sub k) = g d :=
  (hg _).symm.trans ((congrArg g (d.count_bare idx sub k)).trans (hg d))

theorem commandStart_starts (n : Fin 16) (q : Fin 8) (p : W32) (op : Nat) (c : Cmd) (s : State) (h : s.stands n q p op .fetched c = true)
    (hprep : s.dev.noPrep = true) (hact : (s.dev.queue n q).st = .active) (hlive : (s.dev.bay n).st.live = true) (hbad : s.dev.cmdBad n c = none)
    (hlt : s.dev.od (0x2680 + n) 0x79 + 1 < 2 ^ 64) :
    ∃ t, exec (.commandStart n q) s = .next t ∧ (t.dev.queue n q) = { s.dev.queue n q with cmds := [{ c with ph := .started }] } ∧
      t.dev.od (0x2680 + n) 0x79 = s.dev.od (0x2680 + n) 0x79 + 1 ∧ t.mem = s.mem ∧
      (t.dev.jour n) = { s.dev.jour n with
        stream := if s.dev.strict n && (s.dev.jour n).st == .open_ && (s.dev.jour n).q == q then (s.dev.jour n).stream ++ [c.bytes] else (s.dev.jour n).stream } := by
  have hst := State.stands_iff h
  obtain ⟨x, hx⟩ : ∃ x, s.dev.modCmd n q p (fun c => { c with ph := .started }) = x := ⟨_, rfl⟩
  have hxq : x.queue n q = { s.dev.queue n q with cmds := [{ c with ph := .started }] } := by
    rw [← hx, Dev.modCmd, Dev.setQueue_queue, hst.cmds, List.map_cons, List.map_nil, if_pos hst.pos]
  have hxod : x.od = s.dev.od := by rw [← hx]; rfl
  have hxj : x.journals = s.dev.journals := by rw [← hx]; rfl
  have hxquiet : x.quiet = true := by rw [← hx]; exact State.rests_quiet hst.rests
  have hxst : x.stores = [] := by rw [← hx]; exact State.rests_stores hst.rests
  obtain ⟨y, hy⟩ : ∃ y, x.count (0x2680 + n) 0x79 1 = y := ⟨_, rfl⟩
  have hyq : y.queue n q = x.queue n q := hy ▸ Dev.of_count (fun d => d.queue n q) (fun _ => rfl) x _ _ _
  have hyj : y.jour n = s.dev.jour n := by
    rw [← hy, Dev.of_count (fun d => d.jour n) (fun _ => rfl) x]
    exact congrArg (fun m => smGet ({} : Journal) m n) hxj
  have hyod : y.od (0x2680 + n) 0x79 = s.dev.od (0x2680 + n) 0x79 + 1 := by
    rw [← hy, Dev.count_od_same, hxod]
    rw [odSize_started, hxod]
    exact hlt
  have hystrict : y.strict n = s.dev.strict n := by
    unfold Dev.strict
    rw [← hy, Dev.count_od_other _ _ (by decide) (by decide) (by simp), hxod]
  have hyquiet : y.quiet = true := by rw [← hy, Dev.quiet_count, hxquiet]
  have hyst : y.stores = [] := by rw [← hy, Dev.count_stores, hxst]
  obtain ⟨st, hstream⟩ : ∃ st, (if s.dev.strict n && (s.dev.jour n).st == .open_ && (s.dev.jour n).q == q then (s.dev.jour n).stream ++ [c.bytes]
    else (s.dev.jour n).stream) = st := ⟨_, rfl⟩
  have hckpts : s.dev.ckpts = [] := (Dev.quiet_iff _).mp (State.rests_quiet hst.rests) |>.2.2.2.1
  have hmay : s.dev.mayBegin n q c = true := by
    unfold Dev.mayBegin
    dsimp only
    rw [hst.cmds, hact, hlive, hckpts]
    simp [hst.phase, smGet]
  have hstart : s.dev.startNext s.env n q = if (s.dev.strict n && (s.dev.jour n).st == .open_ && (s.dev.jour n).q == q) = true
      then y.setJour n { s.dev.jour n with stream := (s.dev.jour n).stream ++ [c.bytes] } else y := by
    unfold Dev.startNext
    rw [hst.cmds, List.find?_cons_of_pos (by simp [hst.phase])]
    dsimp only
    rw [hmay, if_neg (by decide), hbad]
    dsimp only
    rw [hst.pos, hx, hy, hyj, hystrict]
  rw [hstream]
  have hrun (z : Dev) (hz : s.dev.startNext s.env n q = z) (hq : z.quiet = true) (hz' : z.stores = []) :
      exec (.commandStart n q) s = .next { s with dev := z } := by
    show execCommandStart n q s = _
    refine s.go_to _ z hst.rests ?_ hq hz'
    rw [(Dev.allPrepared_of_noPrep hprep).prepareAll, hz]
  by_cases hopen : (s.dev.strict n && (s.dev.jour n).st == .open_ && (s.dev.jour n).q == q) = true
  · rw [if_pos hopen] at hstart hstream
    exact ⟨_, hrun _ hstart hyquiet hyst, hyq.trans hxq, hyod, rfl, (Dev.setJour_jour _ _ _).trans (by rw [hstream])⟩
  · rw [if_neg hopen] at hstart hstream
    exact ⟨_, hrun _ hstart hyquiet hyst, hyq.trans hxq, hyod, rfl, hyj.trans (by rw [← hstream])⟩

/-- Settles O34: the highest ranking queue's next command is fetched, and starts where the checks of its format pass. -/
theorem fetchAndStart : Obligations.FetchAndStart := by
  unfold Obligations.FetchAndStart
  exact ⟨fun n q bs tr s hs hprep hpick hp _ h11 h12 hread => commandFetch_fetches n q bs tr s hs hprep hpick hp h11 h12 hread,
    fun n q p op c s h hprep hact hlive hbad hlt => commandStart_starts n q p op c s h hprep hact hlive hbad hlt⟩

end Sys2Proof.Machine
end

section
/-! PROOF. The digests, the signature and the sink of a job (R536 to R540): O50. -/
namespace Sys2Proof.Machine

/-- A record emitted on a tick that has none yet is held as the next in number. -/
theorem Dev.emitRec_first (d : Dev) (e : Env) (n ty pos : Nat) (chained signed : Bool) (body : List Byte) (h : (d.tickRecs e).recs = []) :
    ∃ g x c, d.emitRec e n ty pos chained signed body = ({ d with jtick := g, jseq := d.jseq + 1 } : Dev).setJour n { d.jour n with
      heldRecs := (d.jour n).heldRecs ++ [(d.jseq + 1, x)]
      chain := c
      closeSeq := if ty == 9 then some (d.jseq + 1) else (d.jour n).closeSeq } := by
  unfold Dev.emitRec
  dsimp only
  rw [if_neg]
  · exact ⟨_, _, _, rfl⟩
  · split <;> simp [h]

theorem Dev.pulse_none (d : Dev) (e : Env) (n : Nat) : d.pulse e n 0xFFFF = d := if_pos rfl

/-! ### Digests -/

theorem listSet_getElem {α : Type} (l : List α) (i : Nat) (v : α) {r : α} (h : l[i]? = some r) : (listSet l i v)[i]? = some v := by
  induction l generalizing i with
  | nil => exact absurd h (by simp)
  | cons x l ih =>
    cases i with
    | zero => rfl
    | succ i => exact ih i h

/-- The regions of one of a job's two lists. -/
def Journal.regions (j : Journal) (out : Bool) : List JobRegion := if out then j.outputs else j.inputs

/-- A job whose region `i` of one of its lists is `r`. -/
def Journal.withRegion (j : Journal) (out : Bool) (i : Nat) (r : JobRegion) : Journal :=
  if out then { j with outputs := listSet j.outputs i r } else { j with inputs := listSet j.inputs i r }

theorem Journal.withRegion_at (j : Journal) (out : Bool) (i : Nat) (r : JobRegion) {r0 : JobRegion} (h : (j.regions out)[i]? = some r0) :
    ((j.withRegion out i r).regions out)[i]? = some r := by
  cases out <;> exact listSet_getElem _ _ _ h

theorem Journal.withRegion_st (j : Journal) (out : Bool) (i : Nat) (r : JobRegion) : (j.withRegion out i r).st = j.st ∧
    (j.withRegion out i r).heldRecs = j.heldRecs := by
  cases out <;> exact ⟨rfl, rfl⟩

/-- The number of a job's region in one of its lists. -/
def regionNo (out : Bool) (i : Nat) : Nat := if out then 64 + i else i

theorem Dev.jobRegion_at (d : Dev) (n : Nat) (out : Bool) {i : Nat} (hi : i < 64) : d.jobRegion n (regionNo out i) = ((d.jour n).regions out)[i]? := by
  unfold Dev.jobRegion
  cases out
  · exact if_pos hi
  · refine (if_neg ?_).trans ?_
    · show ¬ 64 + i < 64
      omega
    · show (d.jour n).outputs[64 + i - 64]? = _
      rw [Nat.add_sub_cancel_left]
      rfl

theorem Dev.modJobRegion_at (d : Dev) (n : Nat) (out : Bool) {i : Nat} (f : JobRegion → JobRegion) {r : JobRegion} (hi : i < 64)
    (h : ((d.jour n).regions out)[i]? = some r) : d.modJobRegion n (regionNo out i) f = d.setJour n ((d.jour n).withRegion out i (f r)) := by
  unfold Dev.modJobRegion
  refine congrArg (d.setJour n) ?_
  cases out
  · refine (if_pos hi).trans ?_
    show ({ d.jour n with inputs := match (d.jour n).inputs[i]? with | some r => listSet (d.jour n).inputs i (f r) | none => _ } : Journal) = _
    rw [show (d.jour n).inputs[i]? = some r from h]
    rfl
  · refine (if_neg (show ¬ 64 + i < 64 by omega)).trans ?_
    show ({ d.jour n with outputs := match (d.jour n).outputs[64 + i - 64]? with | some r => listSet (d.jour n).outputs (64 + i - 64) (f r) | none => _ } : Journal) = _
    rw [Nat.add_sub_cancel_left, show (d.jour n).outputs[i]? = some r from h]
    rfl

/-- The engine that made a digest is free of it, and the digest stands in its region. -/
theorem Dev.digestDone_at (d : Dev) (n : Nat) (out : Bool) {i : Nat} {r : JobRegion} (dg : List Byte) (hi : i < 64)
    (h : ((d.jour n).regions out)[i]? = some r) (heng : r.eng.isSome = true) : ∃ (es : SMap Engine) (js : SMap Journal),
    (d.digestDone n (regionNo out i)).modJobRegion n (regionNo out i) (fun r => { r with digest := some dg }) = { d with engines := es, journals := js } ∧
      ((smGet {} js n).regions out)[i]?.map (·.digest) = some (some dg) ∧ (smGet {} js n).st = (d.jour n).st ∧
      (smGet {} js n).heldRecs = (d.jour n).heldRecs := by
  obtain ⟨x, hx⟩ := Option.isSome_iff_exists.mp heng
  obtain ⟨j1, hj1⟩ : ∃ j1, (d.jour n).withRegion out i { r with eng := none } = j1 := ⟨_, rfl⟩
  have hat : (j1.regions out)[i]? = some { r with eng := none } := hj1 ▸ Journal.withRegion_at _ _ _ _ h
  obtain ⟨es, hes⟩ : ∃ es, smSet {} d.engines x.1 { d.engine x.1 with ops := (d.engine x.1).ops + 1 } = es := ⟨_, rfl⟩
  have hdone : d.digestDone n (regionNo out i) = ({ d with engines := es } : Dev).setJour n j1 := by
    unfold Dev.digestDone
    rw [d.jobRegion_at n out hi, h, Option.bind_some, hx]
    dsimp only
    rw [d.modJobRegion_at n out _ hi h, hj1, ← hes]
    rfl
  have hjour : (({ d with engines := es } : Dev).setJour n j1).jour n = j1 := Dev.setJour_jour _ _ _
  have hmod := Dev.modJobRegion_at _ n out (fun r => { r with digest := some dg }) hi (hjour.symm ▸ hat)
  obtain ⟨j2, hj2⟩ : ∃ j2, j1.withRegion out i { r with eng := none, digest := some dg } = j2 := ⟨_, rfl⟩
  refine ⟨es, smSet {} (d.setJour n j1).journals n j2, ?_, ?_⟩
  · rw [hdone, hmod, hjour, hj2]
    rfl
  · rw [smGet_set_same, ← hj2, Journal.withRegion_at _ _ _ _ hat, (Journal.withRegion_st _ _ _ _).1, (Journal.withRegion_st _ _ _ _).2, ← hj1,
      (Journal.withRegion_st _ _ _ _).1, (Journal.withRegion_st _ _ _ _).2]
    exact ⟨rfl, rfl, rfl⟩

/-- The signature's clock starts where all digests stand, and nothing else of the job changes. -/
theorem Dev.markSign_jour (d : Dev) (e : Env) (n : Nat) : ∃ js, d.markSign e n = { d with journals := js } ∧
    (smGet {} js n).st = (d.jour n).st ∧ (smGet {} js n).heldRecs = (d.jour n).heldRecs ∧ ∀ out, (smGet {} js n).regions out = (d.jour n).regions out := by
  unfold Dev.markSign
  split
  · refine ⟨_, rfl, ?_⟩
    rw [smGet_set_same]
    exact ⟨rfl, rfl, fun _ => rfl⟩
  · exact ⟨d.journals, rfl, rfl, rfl, fun _ => rfl⟩

/-- The digest of a region that names no Spar and no registered region ends with its record. -/
theorem Dev.digestEnd_ends (d : Dev) (e : Env) (n i : Nat) (out : Bool) {r : JobRegion} {bs : List Byte} {tr : Trans} (hi : i < 64)
    (hopen : (d.jour n).st = .open_) (hr : ((d.jour n).regions out)[i]? = some r) (hdg : r.digest = none) (hslot : r.slot = none) (hspar : r.spar = 0xFFFF)
    (hclosing : out = true → (d.jour n).closing.isSome = true) (hhalts : d.trans.halts = []) (hroom : d.roomFor n 168 = true) (heng : r.eng.isSome = true)
    (hat : ∃ g ∈ [28, 29, 30, 31], d.digestAt g = some (n, regionNo out i)) (hfirst : (d.tickRecs e).recs = [])
    (hread : d.readRange e (.job n (regionNo out i)) n (if out then (d.jour n).outSpace else (d.jour n).space) r.dva r.len = (.got bs false, { d with trans := tr })) :
    ∃ (es : SMap Engine) (js : SMap Journal) (g : TickRecs), d.digestEnd e n i out =
        { d with trans := tr, engines := es, journals := js, jtick := g, jseq := d.jseq + 1 } ∧
      ((smGet {} js n).regions out)[i]?.map (·.digest) = some (some (sha384 bs)) ∧ (smGet {} js n).st = .open_ ∧
      (smGet {} js n).heldRecs.length = (d.jour n).heldRecs.length + 1 := by
  obtain ⟨es, js, hdone, hdig, hst, hheld⟩ := ({ d with trans := tr } : Dev).digestDone_at n out (sha384 bs) hi hr heng
  obtain ⟨g, x, c, hemit⟩ := ({ d with trans := tr, engines := es, journals := js } : Dev).emitRec_first e n (if out then 3 else 2)
    (if (if out then 3 else 2) = 3 then ((smGet {} js n).closing.map (·.toNat)).getD 0xFFFFFFFF else (smGet {} js n).pos.toNat) true false
    (leBytes 2 i ++ zeros 6 ++ leBytes 8 r.dva ++ leBytes 8 r.len ++ sha384 bs) hfirst
  obtain ⟨j3, hj3⟩ : ∃ j3 : Journal, { smGet {} js n with
      heldRecs := (smGet {} js n).heldRecs ++ [(d.jseq + 1, x)]
      chain := c
      closeSeq := if (if out then 3 else 2) == 9 then some (d.jseq + 1) else (smGet {} js n).closeSeq } = j3 := ⟨_, rfl⟩
  have hj3' : (j3.regions out)[i]?.map (·.digest) = some (some (sha384 bs)) ∧ j3.st = .open_ ∧ j3.heldRecs.length = (d.jour n).heldRecs.length + 1 := by
    rw [← hj3]
    refine ⟨hdig, hst.trans hopen, ?_⟩
    show ((smGet {} js n).heldRecs ++ [(d.jseq + 1, x)]).length = _
    rw [hheld, List.length_append]
    rfl
  obtain ⟨js', hmark, hst', hheld', hregs'⟩ := (({ d with trans := tr, engines := es, journals := js, jtick := g, jseq := d.jseq + 1 } : Dev).setJour n j3).markSign_jour e n
  rw [Dev.setJour_jour] at hst' hheld' hregs'
  refine ⟨es, js', g, ?_, ?_⟩
  · unfold Dev.digestEnd
    have hregs : (if out = true then (d.jour n).outputs else (d.jour n).inputs)[i]? = some r := hr
    dsimp only
    rw [hregs, show (if out = true then 64 + i else i) = regionNo out i from rfl]
    dsimp only
    have hnone : ¬ (r.digest.isNone && r.eng.isNone && !(d.halted (.job n (regionNo out i))) &&
        (r.slot.all fun s => out || !r.await || d.allArrived n s)) = true := by
      obtain ⟨x, hx⟩ := Option.isSome_iff_exists.mp heng
      simp [hx]
    have hgo : ¬ (([28, 29, 30, 31].all fun g => d.digestAt g != some (n, regionNo out i)) || (d.jour n).st != .open_ || r.digest.isSome ||
        (out && (d.jour n).closing.isNone) || d.halted (.job n (regionNo out i)) || !(d.roomFor n 168) ||
        !(r.slot.all fun s => out || !r.await || d.allArrived n s)) = true := by
      obtain ⟨k, hk, hat⟩ := hat
      have hall : ([28, 29, 30, 31].all fun g => d.digestAt g != some (n, regionNo out i)) = false :=
        List.all_eq_false.mpr ⟨k, hk, by simp [hat]⟩
      have hcl : (out && (d.jour n).closing.isNone) = false := by
        cases out
        · rfl
        · rw [Bool.true_and, Option.isNone_eq_false_iff]
          exact hclosing rfl
      have hhalted : d.halted (.job n (regionNo out i)) = false := by
        unfold Dev.halted
        rw [hhalts]
        rfl
      rw [hall, hopen, hdg, hcl, hhalted, hroom, hslot]
      exact Bool.false_ne_true
    rw [if_neg hnone, if_neg hgo, hread]
    dsimp only
    rw [hdone, hslot, Dev.regionRec, hspar, Dev.pulse_none]
    dsimp only
    refine (congrArg (fun d : Dev => d.markSign e n) (hemit.trans ?_)).trans hmark
    rw [← hj3]
    rfl
  · rw [hst', hheld', hregs']
    exact hj3'

theorem digestEnd_records (n : Fin 16) (i : Fin 64) (out : Bool) (r : JobRegion) (bs : List Byte) (tr : Trans) (s : State) (hs : s.rests = true)
    (hopen : (s.dev.jour n).st = .open_) (hr : ((s.dev.jour n).regions out)[i.val]? = some r) (hdg : r.digest = none) (hslot : r.slot = none)
    (hspar : r.spar = 0xFFFF) (hclosing : out = true → (s.dev.jour n).closing.isSome = true) (hhalts : s.dev.trans.halts = [])
    (hroom : s.dev.roomFor n 168 = true) (heng : r.eng.isSome = true)
    (hat : ∃ g ∈ [28, 29, 30, 31], s.dev.digestAt g = some (n.val, regionNo out i)) (hfirst : s.firstRec = true)
    (hread : s.reads (.job n (regionNo out i)) n (if out then (s.dev.jour n).outSpace else (s.dev.jour n).space) r.dva r.len bs tr) :
    ∃ t, exec (if out then .outputDigestEnd n i else .inputDigestEnd n i) s = .next t ∧
      (((t.dev.jour n).regions out)[i.val]?).map (·.digest) = some (some (sha384 bs)) ∧
      t.dev.jseq = s.dev.jseq + 1 ∧ (t.dev.jour n).heldRecs.length = (s.dev.jour n).heldRecs.length + 1 ∧ (t.dev.jour n).st = .open_ ∧ t.mem = s.mem := by
  obtain ⟨es, js, g, hend, hdig, hst, hheld⟩ := s.dev.digestEnd_ends s.env n i out i.isLt hopen hr hdg hslot hspar hclosing hhalts hroom heng hat
    (List.isEmpty_iff.mp hfirst) hread
  have hgo : exec (if out then .outputDigestEnd n i else .inputDigestEnd n i) s = s.go fun e d => d.digestEnd e n i out := by
    cases out <;> rfl
  refine ⟨_, hgo.trans (s.go_to _ _ hs hend ?_ ?_), hdig, rfl, hheld, hst, rfl⟩
  · exact State.rests_quiet hs
  · exact State.rests_stores hs

/-! ### The signature -/

theorem signatureEnd_signs (n : Fin 16) (s : State) (hs : s.rests = true) (hdig : (s.dev.jour n).digested = true) (hroom : s.dev.roomFor n 536 = true)
    (hfirst : s.firstRec = true) :
    ∃ t, exec (.signatureEnd n true) s = .next t ∧ (t.dev.jour n).st = .signed ∧ t.dev.jseq = s.dev.jseq + 1 ∧
      (t.dev.jour n).closeSeq = some (s.dev.jseq + 1) ∧ (t.dev.jour n).heldRecs.length = (s.dev.jour n).heldRecs.length + 1 ∧ t.mem = s.mem := by
  obtain ⟨p, hp⟩ : ∃ p, (s.dev.jour n).closing = some p := by
    simp only [Journal.digested, Bool.and_eq_true] at hdig
    exact Option.isSome_iff_exists.mp hdig.1.1.2
  obtain ⟨g, x, c, hemit⟩ := s.dev.emitRec_first s.env n 9 p.toNat true true (s.dev.closeBody n) (List.isEmpty_iff.mp hfirst)
  obtain ⟨j, hj⟩ : ∃ j : Journal, { s.dev.jour n with heldRecs := (s.dev.jour n).heldRecs ++ [(s.dev.jseq + 1, x)], chain := c, closeSeq := some (s.dev.jseq + 1) } = j :=
    ⟨_, rfl⟩
  have hemit' : s.dev.emitRec s.env n 9 p.toNat true true (s.dev.closeBody n) = ({ s.dev with jtick := g, jseq := s.dev.jseq + 1 } : Dev).setJour n j :=
    hemit.trans (by rw [← hj]; rfl)
  obtain ⟨y, hy⟩ : ∃ y, ((({ s.dev with jtick := g, jseq := s.dev.jseq + 1 } : Dev).setJour n j).maxOd 0x2C00 6 (s.env.time - (s.dev.jour n).signFrom)) = y := ⟨_, rfl⟩
  obtain ⟨srv, hsrv⟩ : ∃ srv, y = { ({ s.dev with jtick := g, jseq := s.dev.jseq + 1 } : Dev).setJour n j with srv := srv } := hy ▸ Dev.maxOd_srv _ _ _ _
  have hyj : y.jour n = j := by rw [hsrv]; exact Dev.setJour_jour ({ s.dev with jtick := g, jseq := s.dev.jseq + 1 } : Dev) n j
  have hseq : y.jseq = s.dev.jseq + 1 := by rw [hsrv]; rfl
  refine ⟨_, show execSignatureEnd n true s = _ from s.go_to _ (y.setJour n { j with st := .signed }) hs ?_ ?_ ?_, ?_, hseq, ?_, ?_, rfl⟩
  · show s.dev.signatureEnd s.env n true = _
    unfold Dev.signatureEnd
    dsimp only
    rw [hp]
    dsimp only
    rw [hdig, if_neg (by decide), if_neg (by decide), hroom, if_neg (by decide), hemit', hy, hyj]
  · rw [Dev.quiet_setJour, hsrv]
    exact State.rests_quiet hs
  · show y.stores = []
    rw [hsrv]
    exact State.rests_stores hs
  · exact (congrArg Journal.st (Dev.setJour_jour y n { j with st := .signed }) :)
  · refine (congrArg Journal.closeSeq (Dev.setJour_jour y n { j with st := .signed }) :).trans ?_
    rw [← hj]
  · refine (congrArg (fun j : Journal => j.heldRecs.length) (Dev.setJour_jour y n { j with st := .signed }) :).trans ?_
    rw [← hj]
    exact List.length_append

/-! ### The sink -/

theorem sinkRecordWrite_writes (n : Fin 16) (seq : Nat) (r : List Byte) (rest : List (Nat × List Byte)) (tr : Trans) (st : List MemOp) (s : State)
    (hs : s.rests = true) (hheld : (s.dev.jour n).heldRecs = (seq, r) :: rest) (hvalid : s.dev.sinkValid n = true) (hfaulted : (s.dev.jour n).faulted = false)
    (hfit : r.length ≤ s.dev.sinkSize n - (s.dev.jour n).w % s.dev.sinkSize n) (hroom : (s.dev.jour n).w + r.length ≤ s.dev.sinkSize n + s.dev.od (0x2C10 + n) 4)
    (hhead : s.dev.od (0x2C10 + n) 3 = 0) (hspar : s.dev.od (0x2C10 + n) 9 = 0xFFFF) (hclose : (s.dev.jour n).closeSeq ≠ some seq)
    (hw : s.writesAfter s.dev.trans (.sink n) n 0 (s.dev.od (0x2C10 + n) 1 + (s.dev.jour n).w % s.dev.sinkSize n) r true tr st) :
    exec (.sinkRecordWrite n) s = .next (s.commit (({ s.dev with
        trans := tr
        stores := st
        jtick := if s.dev.jtick.seq0 < seq then {} else s.dev.jtick } : Dev).setJour n
          { s.dev.jour n with heldRecs := rest, w := (s.dev.jour n).w + r.length })) := by
  have hone : s.dev.writeAll s.env (.sink n) n 0 [(s.dev.od (0x2C10 + n) 1 + (s.dev.jour n).w % s.dev.sinkSize n, r)] =
      (.done, { s.dev with trans := tr, stores := st }) := by
    unfold Dev.writeAll
    simp only [List.foldl_cons, List.foldl_nil]
    rw [show s.dev.writeRange s.env (.sink n) n 0 (s.dev.od (0x2C10 + n) 1 + (s.dev.jour n).w % s.dev.sinkSize n) r true = _ from hw]
  show execSinkRecordWrite n s = _
  refine s.go_done _ _ hs ?_ ?_
  · show s.dev.sinkWrite s.env n = _
    have hno : ¬ (!(s.dev.sinkValid n) || (s.dev.jour n).faulted ||
        decide (s.dev.sinkSize n < (s.dev.jour n).w + 0 + r.length - s.dev.od (0x2C10 + n) 4)) = true := by
      rw [hvalid, hfaulted]
      simp only [Bool.not_true, Bool.false_or, decide_eq_true_eq]
      omega
    unfold Dev.sinkWrite
    dsimp only
    rw [hheld]
    dsimp only
    rw [if_pos hfit, if_neg hno, if_neg (show ¬ 16 ≤ 0 by decide), hhead, if_pos rfl, List.nil_append, List.append_nil, Nat.add_zero, hone]
    dsimp only
    refine (if_neg hclose).trans ?_
    rw [show (if s.dev.jtick.seq0 < seq then ({ s.dev with trans := tr, stores := st } : Dev).fixRecs else { s.dev with trans := tr, stores := st }) =
      { s.dev with trans := tr, stores := st, jtick := if s.dev.jtick.seq0 < seq then {} else s.dev.jtick } by split <;> rfl]
    show Dev.pulse _ s.env n (s.dev.od (0x2C10 + n) 9) = _
    rw [hspar, Dev.pulse_none]
    rfl
  · exact State.rests_quiet hs

/-- Settles O50: a digest and a signature end with their records, and the oldest record held goes into the ring. -/
theorem jobRecordsAndSinks : Obligations.JobRecordsAndSinks := by
  unfold Obligations.JobRecordsAndSinks
  exact ⟨fun n i out r bs tr s hs hopen hr hdg hslot hspar hclosing hhalts hroom heng hat hfirst hread =>
      digestEnd_records n i out r bs tr s hs hopen (by cases out <;> exact hr) hdg hslot hspar hclosing hhalts hroom heng hat hfirst hread,
    fun n s hs hdig hroom hfirst => signatureEnd_signs n s hs hdig hroom hfirst,
    fun n seq r rest tr st s hs hheld hvalid hfaulted _ hfit hroom hhead hspar hclose hw =>
      sinkRecordWrite_writes n seq r rest tr st s hs hheld hvalid hfaulted hfit hroom hhead hspar hclose hw⟩

end Sys2Proof.Machine
end

section
/-! PROOF. Evaluations of THATCH stages, the tests of their records, and the Flashing path (R485 to R488, R511 to R519): O49, O46. -/
namespace Sys2Proof.Machine

/-! ### What moves lines along a chain -/

/-- The devices differ by what chains hold, by the misses of Courses, and by the memory that rings lie in. -/
def Dev.ByChains (d d' : Dev) : Prop := ∃ ch cs st, d' = { d with chains := ch, courses := cs, stores := st }

namespace Dev.ByChains

theorem refl (d : Dev) : d.ByChains d := ⟨_, _, _, rfl⟩

theorem trans {a b c : Dev} (h : a.ByChains b) (h' : b.ByChains c) : a.ByChains c := by
  obtain ⟨ch, cs, st, rfl⟩ := h
  obtain ⟨ch', cs', st', rfl⟩ := h'
  exact ⟨ch', cs', st', rfl⟩

end Dev.ByChains

section
variable (d : Dev) (n q : Nat) (p : W32) (i : Nat)

theorem Dev.byChains_modStage (f : Stage → Stage) : d.ByChains (d.modStage n q p i f) := ⟨_, _, _, rfl⟩

theorem Dev.byChains_stageMiss (again : Bool) : d.ByChains (d.stageMiss n q p i again) := by
  unfold Dev.stageMiss
  split
  · dsimp only
    split
    · exact ⟨_, _, _, rfl⟩
    · exact .refl d
  · exact .refl d

theorem Dev.byChains_stageFull (now : Bool) : d.ByChains (d.stageFull n q p i now) := by
  unfold Dev.stageFull
  dsimp only
  have hmod : d.ByChains (if ((d.stageOf n q p i).map (·.full)).getD false == now then d else d.modStage n q p i fun s => { s with full := now }) := by
    split
    · exact .refl d
    · exact d.byChains_modStage n q p i _
  split
  · exact hmod.trans (Dev.byChains_stageMiss _ _ _ _ _ _)
  · exact hmod

theorem Dev.byChains_stagePut : d.ByChains (d.stagePut n q p i) := by
  unfold Dev.stagePut
  split
  · exact .refl d
  · split
    · exact .refl d
    · split
      · exact .refl d
      · dsimp only
        obtain ⟨st, hst⟩ := d.ringWrite_stores ‹Ring› (List.take (min (‹Stage›.outb.length / 64) (‹Ring›.room / 64) * 64) ‹Stage›.outb)
        rw [hst]
        exact Dev.ByChains.trans ⟨_, _, _, rfl⟩ (Dev.byChains_stageFull _ _ _ _ _ _)

/-- A stage's change leaves the others of its chain. -/
theorem Dev.stageOf_modStage_other (f : Stage → Stage) {j : Nat} (hj : j ≠ i) : (d.modStage n q p i f).stageOf n q p j = d.stageOf n q p j := by
  unfold Dev.stageOf Dev.modStage
  rw [d.chainOf_modChain n q p (fun h => { h with stages := h.stages.zipIdx.map fun s => if s.2 = i then f s.1 else s.1 }) fun _ => rfl]
  cases d.chainOf n q p with
  | none => rfl
  | some h =>
    show (h.stages.zipIdx.map fun s => if s.2 = i then f s.1 else s.1)[j]? = h.stages[j]?
    rw [List.getElem?_map, List.getElem?_zipIdx]
    cases h.stages[j]? <;> simp [hj]

theorem Dev.stageOf_stageMiss (k : Nat) (again : Bool) (j : Nat) : (d.stageMiss n q p k again).stageOf n q p j = d.stageOf n q p j := by
  unfold Dev.stageMiss
  split
  · dsimp only
    split <;> rfl
  · rfl

theorem Dev.stageOf_stageFull_other (now : Bool) {j : Nat} (hj : j ≠ i) : (d.stageFull n q p i now).stageOf n q p j = d.stageOf n q p j := by
  have hmod : (if ((d.stageOf n q p i).map (·.full)).getD false == now then d else d.modStage n q p i fun s => { s with full := now }).stageOf n q p j =
      d.stageOf n q p j := by
    split
    · rfl
    · exact d.stageOf_modStage_other n q p i _ hj
  unfold Dev.stageFull
  dsimp only
  split
  · exact (Dev.stageOf_stageMiss _ _ _ _ _ _ _).trans hmod
  · exact hmod

theorem Dev.stageOf_stagePut_other {j : Nat} (hj : j ≠ i) : (d.stagePut n q p i).stageOf n q p j = d.stageOf n q p j := by
  unfold Dev.stagePut
  split
  · rfl
  · split
    · rfl
    · split
      · rfl
      · dsimp only
        rw [Dev.stageOf_stageFull_other _ _ _ _ _ _ hj, Dev.stageOf_modStage_other _ _ _ _ _ _ hj]
        obtain ⟨st, hst⟩ := d.ringWrite_stores ‹Ring› (List.take (min (‹Stage›.outb.length / 64) (‹Ring›.room / 64) * 64) ‹Stage›.outb)
        rw [hst]
        rfl

end

/-! ### Outputs that are resolved -/

section
variable (d : Dev) (e : Env) (n q : Nat) (p : W32) (i : Nat)

/-- Releasing vectors touches the ring before the stage's input alone. -/
theorem Dev.certRelease_keeps : d.ByChains (d.certRelease n q p i) ∧ (d.certRelease n q p i).stageOf n q p i = d.stageOf n q p i := by
  unfold Dev.certRelease
  split
  · next s r hs hr =>
    have hi : i - 1 ≠ 0 := by
      intro h0
      rw [h0] at hr
      cases hc : d.chainOf n q p with
      | none => rw [hc] at hr; cases hr
      | some h => rw [hc] at hr; cases hr
    dsimp only
    refine ⟨(Dev.byChains_modStage _ _ _ _ _ _).trans (Dev.byChains_stagePut _ _ _ _ _), ?_⟩
    rw [Dev.stageOf_stagePut_other _ _ _ _ _ (by omega)]
    exact Dev.stageOf_modStage_other _ _ _ _ _ _ (by omega)
  · exact ⟨.refl d, rfl⟩

/-- Where no line becomes whole, settling an output leaves the stage as it is. -/
theorem Dev.certSettle_none {s : Stage} (hs : d.stageOf n q p i = some s) (hl : certLine s (lN (d.certLayer n q p i)) = none) (hidx : s.idx ≠ 0) :
    d.ByChains (d.certSettle e n q p i) ∧ (d.certSettle e n q p i).stageOf n q p i = some s := by
  have hplace (f : Nat) : d.certPlace e n q p i f = d := by
    cases f with
    | zero => rfl
    | succ f =>
      unfold Dev.certPlace
      rw [hs]
      dsimp only
      rw [hl, ite_self]
  obtain ⟨hby, hstage⟩ := d.certRelease_keeps n q p i
  unfold Dev.certSettle
  dsimp only
  rw [hplace]
  have hend : (d.certRelease n q p i).certEnd e n q p i = d.certRelease n q p i := by
    unfold Dev.certEnd
    rw [hstage, hs]
    split
    · next s' ch hs' _ =>
      cases hs'
      exact if_neg (by simp [hidx])
    · rfl
  rw [hend]
  exact ⟨hby, hstage.trans hs⟩

end

/-! ### Flash tasks -/

theorem odSize_flash (n : Fin 16) : odSize (0x2810 + n) 4 = 8 ∧ odSize (0x2730 + n) 6 = 8 := by
  fin_cases n <;> decide

/-- The device differs in its books alone: counters, free values and a job's outputs. -/
theorem Dev.jobOutputs_books (d : Dev) (n a b : Nat) : ∃ js, d.jobOutputs n a b = { d with journals := js } := by
  unfold Dev.jobOutputs
  split
  · exact ⟨_, rfl⟩
  · exact ⟨_, rfl⟩

theorem Dev.count_books (d : Dev) (idx sub k : Nat) : ∃ srv f, d.count idx sub k = { d with srv := srv, free := f } := by
  unfold Dev.count
  split
  · exact ⟨_, _, rfl⟩
  · exact ⟨_, _, rfl⟩

/-- The books of a device once a task has left its list: its counters and a job's outputs. -/
def Dev.taskCounted (d : Dev) (k : Task) : Dev :=
  ((({ d with tasks := d.tasks.erase k } : Dev).count (0x2810 + k.bay) 4 1).count 0x2800 6 1).jobOutputs k.bay 0 (b2n !k.audit)

theorem Dev.taskCounted_books (d : Dev) (k : Task) : ∃ srv f js, d.taskCounted k = { d with tasks := d.tasks.erase k, srv := srv, free := f, journals := js } := by
  unfold Dev.taskCounted
  obtain ⟨v1, f1, h1⟩ := ({ d with tasks := d.tasks.erase k } : Dev).count_books (0x2810 + k.bay) 4 1
  rw [h1]
  obtain ⟨v2, f2, h2⟩ := ({ d with tasks := d.tasks.erase k, srv := v1, free := f1 } : Dev).count_books 0x2800 6 1
  rw [h2]
  obtain ⟨js, h3⟩ := ({ d with tasks := d.tasks.erase k, srv := v2, free := f2 } : Dev).jobOutputs_books k.bay 0 (b2n !k.audit)
  rw [h3]
  exact ⟨_, _, _, rfl⟩

theorem Dev.taskCounted_od (d : Dev) (k : Task) (idx sub : Nat) :
    (d.taskCounted k).od idx sub = ((({ d with tasks := d.tasks.erase k } : Dev).count (0x2810 + k.bay) 4 1).count 0x2800 6 1).od idx sub := by
  obtain ⟨js, h⟩ := ((({ d with tasks := d.tasks.erase k } : Dev).count (0x2810 + k.bay) 4 1).count 0x2800 6 1).jobOutputs_books k.bay 0 (b2n !k.audit)
  unfold Dev.taskCounted
  rw [h]
  rfl

theorem Dev.taskCounted_counts (d : Dev) {k : Task} (n : Fin 16) (hbay : k.bay = n) (hc1 : d.od (0x2810 + n) 4 + 1 < 2 ^ 64) (hc2 : d.od 0x2800 6 + 1 < 2 ^ 64) :
    (d.taskCounted k).od (0x2810 + n) 4 = d.od (0x2810 + n) 4 + 1 ∧ (d.taskCounted k).od 0x2800 6 = d.od 0x2800 6 + 1 ∧
      (d.taskCounted k).od (0x2730 + n) 6 = d.od (0x2730 + n) 6 := by
  have h0 (idx sub : Nat) : ({ d with tasks := d.tasks.erase k } : Dev).od idx sub = d.od idx sub := rfl
  refine ⟨?_, ?_, ?_⟩
  · rw [Dev.taskCounted_od, Dev.count_od_other _ _ (by decide) (by decide) (by simp), hbay, Dev.count_od_same _ _ _ _ (by
      rw [(odSize_flash n).1]; exact hc1), h0]
  · have hother : (({ d with tasks := d.tasks.erase k } : Dev).count (0x2810 + k.bay) 4 1).od 0x2800 6 = d.od 0x2800 6 :=
      (Dev.count_od_other _ _ (by decide) (by decide) (by simp)).trans (h0 _ _)
    rw [Dev.taskCounted_od, Dev.count_od_same _ _ _ _ (by rw [hother, show odSize 0x2800 6 = 8 by decide]; exact hc2), hother]
  · rw [Dev.taskCounted_od, Dev.count_od_other _ _ (by decide) (by decide) (by simp; omega), Dev.count_od_other _ _ (by decide) (by decide) (by simp), h0]

/-- The audits of a Bay that have agreed. -/
def Dev.audited (d : Dev) (k : Task) : Dev := if k.audit then d.count (0x2730 + k.bay) 6 1 else d

theorem Dev.audited_books (d : Dev) (k : Task) : ∃ srv f, d.audited k = { d with srv := srv, free := f } := by
  unfold Dev.audited
  split
  · exact d.count_books _ _ _
  · exact ⟨_, _, rfl⟩

theorem Dev.audited_counts (d : Dev) {k : Task} (n : Fin 16) (hbay : k.bay = n) (hc : d.od (0x2730 + n) 6 + 1 < 2 ^ 64) :
    (d.audited k).od (0x2730 + n) 6 = d.od (0x2730 + n) 6 + (if k.audit then 1 else 0) ∧ (d.audited k).od (0x2810 + n) 4 = d.od (0x2810 + n) 4 ∧
      (d.audited k).od 0x2800 6 = d.od 0x2800 6 := by
  unfold Dev.audited
  rw [hbay]
  split
  · exact ⟨Dev.count_od_same _ _ _ _ (by rw [(odSize_flash n).2]; exact hc), Dev.count_od_other _ _ (by decide) (by decide) (by simp),
      Dev.count_od_other _ _ (by decide) (by decide) (by simp; omega)⟩
  · exact ⟨rfl, rfl, rfl⟩

/-- The chain that devices with the same chains show. -/
theorem Dev.stageOf_congr {d d' : Dev} (h : d'.chains = d.chains) (n q : Nat) (p : W32) (i : Nat) : d'.stageOf n q p i = d.stageOf n q p i := by
  unfold Dev.stageOf Dev.chainOf
  rw [h]

theorem Dev.ByChains.od {d d' : Dev} (h : d.ByChains d') (idx sub : Nat) : d'.od idx sub = d.od idx sub := by
  obtain ⟨_, _, _, rfl⟩ := h
  rfl

/-- A task whose sum its record allows resolves its output. -/
theorem Dev.taskEnd_resolved (d : Dev) (e : Env) {k : Task} {x : Nat} {s : Stage}
    (hsum : (d.taskCounted k).flashSum e k.bay k.q k.p k.stage k.vec k.out = some x) (hs : (d.taskCounted k).stageOf k.bay k.q k.p k.stage = some s)
    (hbound : k.audit = true → k.est - k.bound ≤ toInt 32 x ∧ toInt 32 x ≤ k.est + k.bound) : d.taskEnd e k false =
      (((d.taskCounted k).audited k).certOut k.bay k.q k.p k.stage k.vec k.out (requant (toInt 32 x) (rqEntry s.aux k.out))).certSettle e k.bay k.q k.p k.stage := by
  have hno : ¬ (k.audit && (decide (toInt 32 x < k.est - k.bound) || decide (k.est + k.bound < toInt 32 x))) = true := by
    intro h
    simp only [Bool.and_eq_true, Bool.or_eq_true, decide_eq_true_eq] at h
    obtain ⟨hlo, hhi⟩ := hbound h.1
    omega
  unfold Dev.taskCounted at hsum hs ⊢
  unfold Dev.taskEnd Dev.audited
  dsimp only at hsum hs ⊢
  rw [if_neg Bool.false_ne_true, hsum]
  dsimp only
  rw [hs]
  dsimp only
  rw [if_neg hno]

/-- A flash task or an audit whose sum stands within its record's bound, and that makes no line whole, resolves its output. -/
theorem Dev.taskEnd_resolves (d : Dev) (e : Env) (n : Fin 16) {k : Task} {h : Chain} {s0 s1 : Stage} {x : Nat} (hbay : k.bay = n) (hh : d.chainOf n k.q k.p = some h)
    (hpos : 0 < k.stage) (h0 : h.stages[k.stage - 1]? = some s0) (h1 : h.stages[k.stage]? = some s1)
    (hsum : d.flashSum e n k.q k.p k.stage k.vec k.out = some x) (hidx : s1.idx ≠ 0)
    (hbound : k.audit = true → k.est - k.bound ≤ toInt 32 x ∧ toInt 32 x ≤ k.est + k.bound) (hc1 : d.od (0x2810 + n) 4 + 1 < 2 ^ 64)
    (hc2 : d.od 0x2800 6 + 1 < 2 ^ 64) (hc3 : d.od (0x2730 + n) 6 + 1 < 2 ^ 64) {s2 : Stage}
    (hs2 : { s1 with outs := smIns (k.vec * pad64 (lN s0.desc) + k.out) (BitVec.ofNat 8 (ofInt 8 (requant (toInt 32 x) (rqEntry s1.aux k.out)))) s1.outs } = s2)
    (hline : certLine s2 (lN s0.desc) = none) :
    ∃ srv f js, ({ d with tasks := d.tasks.erase k, srv := srv, free := f, journals := js } : Dev).ByChains (d.taskEnd e k false) ∧
      (d.taskEnd e k false).stageOf n k.q k.p k.stage = some s2 ∧ (d.taskEnd e k false).od (0x2810 + n) 4 = d.od (0x2810 + n) 4 + 1 ∧
      (d.taskEnd e k false).od 0x2800 6 = d.od 0x2800 6 + 1 ∧ (d.taskEnd e k false).od (0x2730 + n) 6 = d.od (0x2730 + n) 6 + (if k.audit then 1 else 0) := by
  obtain ⟨srv, f, js, hx⟩ := d.taskCounted_books k
  obtain ⟨o1, o2, o3⟩ := d.taskCounted_counts n hbay hc1 hc2
  obtain ⟨y, hy⟩ : ∃ y, d.taskCounted k = y := ⟨_, rfl⟩
  rw [hy] at hx o1 o2 o3
  have hysum : y.flashSum e n k.q k.p k.stage k.vec k.out = some x := by rw [hx]; exact hsum
  have hys1 : y.stageOf n k.q k.p k.stage = some s1 := (Dev.stageOf_congr (by rw [hx]) _ _ _ _).trans (Dev.stageOf_of hh h1)
  have hys0 : y.stageOf n k.q k.p (k.stage - 1) = some s0 := (Dev.stageOf_congr (by rw [hx]) _ _ _ _).trans (Dev.stageOf_of hh h0)
  obtain ⟨srv', f', hz⟩ := y.audited_books k
  obtain ⟨a1, a2, a3⟩ := y.audited_counts n hbay (by rw [o3]; exact hc3)
  obtain ⟨z, hzz⟩ : ∃ z, y.audited k = z := ⟨_, rfl⟩
  rw [hzz] at hz a1 a2 a3
  have hzs1 : z.stageOf n k.q k.p k.stage = some s1 := (Dev.stageOf_congr (by rw [hz]) _ _ _ _).trans hys1
  have hzs0 : z.stageOf n k.q k.p (k.stage - 1) = some s0 := (Dev.stageOf_congr (by rw [hz]) _ _ _ _).trans hys0
  have hlayer : z.certLayer n k.q k.p k.stage = s0.desc := by
    unfold Dev.certLayer
    rw [hzs0]
    rfl
  obtain ⟨w, hw⟩ : ∃ w, z.certOut n k.q k.p k.stage k.vec k.out (requant (toInt 32 x) (rqEntry s1.aux k.out)) = w := ⟨_, rfl⟩
  have hwby : z.ByChains w := by
    rw [← hw]
    unfold Dev.certOut
    exact z.byChains_modStage n k.q k.p k.stage _
  have hws : w.stageOf n k.q k.p k.stage = some s2 := by
    rw [← hw, ← hs2]
    unfold Dev.certOut
    dsimp only
    rw [Dev.stageOf_modStage, hzs1, hlayer]
    rfl
  have hwlayer : w.certLayer n k.q k.p k.stage = s0.desc := by
    rw [← hlayer, ← hw]
    unfold Dev.certLayer Dev.certOut
    dsimp only
    rw [Dev.stageOf_modStage_other _ _ _ _ _ _ (by omega)]
  obtain ⟨hby, hstage⟩ := w.certSettle_none e n k.q k.p k.stage hws (by rw [hwlayer]; exact hline) (by rw [← hs2]; exact hidx)
  have hend : d.taskEnd e k false = w.certSettle e n k.q k.p k.stage := by
    rw [d.taskEnd_resolved e (by rw [hy, hbay]; exact hysum) (by rw [hy, hbay]; exact hys1) hbound, hy, hzz, hbay, hw]
  rw [hend]
  have hod := (hwby.trans hby).od
  refine ⟨srv', f', js, ?_, hstage, ?_, ?_, ?_⟩
  · have : z = { d with tasks := d.tasks.erase k, srv := srv', free := f', journals := js } := by rw [hz, hx]
    rw [← this]
    exact hwby.trans hby
  · rw [hod, a2, o1]
  · rw [hod, a3, o2]
  · rw [hod, a1, o3]

theorem Instr.first_of_certifies {c : Instr} (h : Instr.certifies c ≠ none) : Instr.first c = true := by
  unfold Instr.certifies at h
  split at h
  · rfl
  · exact absurd rfl h

theorem Dev.taskArrives_calm (d : Dev) (e : Env) (k : Task) (poisoned : Bool) (h : e.calm = true) : d.taskArrives e k poisoned = d.taskEnd e k poisoned := by
  unfold Dev.taskArrives
  rw [d.lead_calm e _ _ h]
  intro c hc
  exact Instr.first_of_certifies (by rw [beq_iff_eq.mp hc]; exact Option.some_ne_none _)

/-- Settles O49: a flash task or an audit ends with the exact sum, by which its output is resolved. -/
theorem flashTasks : Obligations.FlashTasks := by
  unfold Obligations.FlashTasks
  intro n audit k h s0 s1 x s hs hnext hh hpos h0 h1 hsum hidx hbound hc1 hc2 hc3 s2 hline
  obtain ⟨hbay, haudit⟩ : k.bay = n ∧ k.audit = audit := by
    have := List.find?_some hnext
    simpa using this
  obtain ⟨srv, f, js, hby, hstage, o1, o2, o3⟩ := s.dev.taskEnd_resolves s.env n hbay hh hpos h0 h1 hsum hidx (fun ha => hbound (haudit.symm.trans ha))
    hc1 hc2 hc3 (s2 := s2) rfl hline
  have hgo : exec (if audit then .auditEnd n else .flashTaskEnd n false) s =
      s.go fun e d => match d.nextTask n audit with | some t => d.taskArrives e t false | none => d := by
    cases audit <;> rfl
  obtain ⟨y, hy⟩ : ∃ y, s.dev.taskEnd s.env k false = y := ⟨_, rfl⟩
  rw [hy] at hby hstage o1 o2 o3
  refine ⟨_, hgo.trans (s.go_done _ y hs ?_ ?_), ?_, hstage, o1, o2, o3.trans (by rw [haudit])⟩
  · rw [hnext]
    dsimp only
    rw [Dev.taskArrives_calm _ _ _ _ (s.rests_calm hs), hy]
  · obtain ⟨ch, cs, st, rfl⟩ := hby
    exact State.rests_quiet hs
  · show y.tasks = _
    obtain ⟨ch, cs, st, rfl⟩ := hby
    rfl

/-! ### A stage and its output ring -/

/-- A stage whose ring is open, and has room for all whole lines that it holds, places them. -/
theorem Dev.stagePut_open (d : Dev) {n q : Nat} {p : W32} {i : Nat} {y : Stage} {g : Ring} (hy : d.stageOf n q p i = some y) (hg : y.ring = some g)
    (hopen : d.ringGate g = none) (hlen : y.outb.length % 64 = 0) (hroom : y.outb.length ≤ g.room) :
    ∃ ch, d.stagePut n q p i = { d.ringWrite g y.outb with chains := ch } ∧
      (d.stagePut n q p i).stageOf n q p i = some { y with outb := [], ring := some { g with put := g.put + y.outb.length }, full := false } := by
  have hk : min (y.outb.length / 64) (g.room / 64) * 64 = y.outb.length := by
    rw [Nat.min_eq_left (Nat.div_le_div_right hroom)]
    omega
  obtain ⟨st, hst⟩ := d.ringWrite_stores g y.outb
  obtain ⟨x, hx⟩ : ∃ x, (d.ringWrite g y.outb).modStage n q p i
      (fun s => { s with outb := s.outb.drop y.outb.length, ring := some { g with put := g.put + y.outb.length } }) = x := ⟨_, rfl⟩
  have hput : d.stagePut n q p i = x.stageFull n q p i false := by
    unfold Dev.stagePut
    rw [hy]
    dsimp only
    rw [hg]
    dsimp only
    rw [hopen, if_neg (by simp), hk, List.take_length, Nat.sub_self, hx]
    rfl
  have hxs : x.stageOf n q p i = some { y with outb := [], ring := some { g with put := g.put + y.outb.length } } := by
    have hs : (d.ringWrite g y.outb).stageOf n q p i = some y := by rw [hst]; exact hy
    rw [← hx, Dev.stageOf_modStage, hs, Option.map_some, List.drop_length]
  have hxch : ∃ ch, x = { d.ringWrite g y.outb with chains := ch } := ⟨_, hx.symm⟩
  rw [hput]
  unfold Dev.stageFull
  dsimp only
  rw [if_neg Bool.false_ne_true]
  split
  · next hf =>
    obtain ⟨ch, hch⟩ := hxch
    refine ⟨ch, hch, hxs.trans (congrArg some ?_)⟩
    rw [hxs] at hf
    have hf : y.full = false := beq_iff_eq.mp hf
    rw [← hf]
  · obtain ⟨ch, hch⟩ := hxch
    rw [hch] at hxs ⊢
    refine ⟨_, rfl, ?_⟩
    rw [Dev.stageOf_modStage, hxs]
    rfl

theorem Dev.ringWrite_nil (d : Dev) (g : Ring) : d.ringWrite g [] = d := rfl

/-- A stage that holds nothing back, and whose ring is open, has a ring that is not full. -/
theorem Dev.stagePut_notFull (d : Dev) {n q : Nat} {p : W32} {i : Nat} {y : Stage} {g : Ring} (hy : d.stageOf n q p i = some y) (hg : y.ring = some g)
    (hopen : d.ringGate g = none) (ho : y.outb = []) :
    ∃ ch, d.stagePut n q p i = { d with chains := ch } ∧ (d.stagePut n q p i).stageOf n q p i = some { y with full := false } := by
  obtain ⟨ch, hput, hs⟩ := d.stagePut_open hy hg hopen (by rw [ho]; rfl) (by rw [ho]; exact Nat.zero_le _)
  rw [ho, Dev.ringWrite_nil] at hput
  refine ⟨ch, hput, hs.trans (congrArg some ?_)⟩
  rw [ho, List.length_nil, Nat.add_zero, ← hg, ← ho]

/-- A stage that holds nothing back keeps all but the mark that its ring is full. -/
theorem Dev.stagePut_idle (d : Dev) {n q : Nat} {p : W32} {i : Nat} {y : Stage} (hy : d.stageOf n q p i = some y) (ho : y.outb = []) :
    ∃ ch f, d.stagePut n q p i = { d with chains := ch } ∧ (d.stagePut n q p i).stageOf n q p i = some { y with full := f } := by
  have hsame (h : d.stagePut n q p i = d) : ∃ ch f, d.stagePut n q p i = { d with chains := ch } ∧
      (d.stagePut n q p i).stageOf n q p i = some { y with full := f } := ⟨d.chains, y.full, h, by rw [h]; exact hy⟩
  obtain hg | ⟨g, hg⟩ := Option.eq_none_or_eq_some y.ring
  · refine hsame ?_
    unfold Dev.stagePut
    rw [hy]
    dsimp only
    rw [hg]
  · obtain hopen | ⟨st, hclosed⟩ := Option.eq_none_or_eq_some (d.ringGate g)
    · obtain ⟨ch, hput, hs⟩ := d.stagePut_notFull hy hg hopen ho
      exact ⟨ch, false, hput, hs⟩
    · refine hsame ?_
      unfold Dev.stagePut
      rw [hy]
      dsimp only
      rw [hg]
      dsimp only
      rw [hclosed]
      rfl

/-- A stage that finds its input ring no longer short keeps all but that mark, and the other stages stay. -/
theorem Dev.stageShort_not (d : Dev) {n q : Nat} {p : W32} {i : Nat} {y : Stage} (hy : d.stageOf n q p i = some y) :
    ∃ ch sh, d.stageShort n q p i false = { d with chains := ch } ∧ (d.stageShort n q p i false).stageOf n q p i = some { y with short := sh } ∧
      ∀ j, j ≠ i → (d.stageShort n q p i false).stageOf n q p j = d.stageOf n q p j := by
  have hnot : d.stageShort n q p i false =
      if ((d.stageOf n q p i).map (·.short)).getD false == false then d else d.modStage n q p i fun s => { s with short := false } := rfl
  rw [hnot]
  split
  · exact ⟨d.chains, y.short, rfl, hy, fun _ _ => rfl⟩
  · refine ⟨_, false, rfl, ?_, fun j hj => d.stageOf_modStage_other n q p i _ hj⟩
    rw [Dev.stageOf_modStage, hy]
    rfl

/-- A stage that asks for no line takes none, and keeps all but its marks. -/
theorem Dev.stageTake_zero (d : Dev) (e : Env) {n q : Nat} {p : W32} {j : Nat} {y0 y : Stage} (h0 : d.stageOf n q p j = some y0) (ho : y0.outb = [])
    (hy : d.stageOf n q p (j + 1) = some y) :
    ∃ d' y0' sh, d.stageTake e n q p (j + 1) 0 = ([], false, d') ∧ (∃ ch, d' = { d with chains := ch }) ∧ d'.stageOf n q p j = some y0' ∧
      y0'.desc = y0.desc ∧ d'.stageOf n q p (j + 1) = some { y with short := sh } := by
  obtain ⟨ch1, f1, hput, hput0⟩ := d.stagePut_idle h0 ho
  have hput1 : (d.stagePut n q p j).stageOf n q p (j + 1) = some y := (d.stageOf_stagePut_other n q p j (by omega)).trans hy
  obtain ⟨x, hx⟩ : ∃ x, d.stagePut n q p j = x := ⟨_, rfl⟩
  rw [hx] at hput hput0 hput1
  have hring : ((x.chainOf n q p).bind fun h => h.inRing (j + 1)) = y0.ring := by
    rw [Dev.inRing_succ, hput0]
    rfl
  have hsame (h : d.stageTake e n q p (j + 1) 0 = ([], false, x)) : ∃ d' y0' sh, d.stageTake e n q p (j + 1) 0 = ([], false, d') ∧
      (∃ ch, d' = { d with chains := ch }) ∧ d'.stageOf n q p j = some y0' ∧ y0'.desc = y0.desc ∧ d'.stageOf n q p (j + 1) = some { y with short := sh } :=
    ⟨x, _, y.short, h, ⟨ch1, hput⟩, hput0, rfl, hput1⟩
  obtain hg | ⟨g, hg⟩ := Option.eq_none_or_eq_some y0.ring
  · refine hsame ?_
    unfold Dev.stageTake
    dsimp only
    rw [Nat.add_sub_cancel, hx, hring, hg]
  · obtain hopen | ⟨st, hclosed⟩ := Option.eq_none_or_eq_some (x.ringGate g)
    · obtain ⟨z, hz⟩ : ∃ z, x.setInRing n q p (j + 1) { g with rel := g.rel + 0 } = z := ⟨_, rfl⟩
      have hz0 : z.stageOf n q p j = some { y0 with full := f1, ring := some { g with rel := g.rel + 0 } } := by
        rw [← hz, Dev.setInRing, Nat.add_sub_cancel, Dev.stageOf_modStage, hput0]
        rfl
      have hz1 : z.stageOf n q p (j + 1) = some y := by
        rw [← hz, Dev.setInRing, Nat.add_sub_cancel, Dev.stageOf_modStage_other _ _ _ _ _ _ (by omega), hput1]
      obtain ⟨ch2, sh, hshort, hshort1, hshort0⟩ := z.stageShort_not hz1
      obtain ⟨w, hw⟩ : ∃ w, z.stageShort n q p (j + 1) false = w := ⟨_, rfl⟩
      rw [hw] at hshort hshort1 hshort0
      obtain ⟨ch3, f3, hput', hput0'⟩ := w.stagePut_idle ((hshort0 j (by omega)).trans hz0) ho
      refine ⟨w.stagePut n q p j, _, sh, ?_, ⟨ch3, ?_⟩, hput0', rfl, ?_⟩
      · unfold Dev.stageTake
        dsimp only
        rw [Nat.add_sub_cancel, hx, hring, hg]
        dsimp only
        rw [hopen, if_neg (by simp), Nat.zero_min, Nat.zero_mul, hz, show decide (0 < 0) = false from rfl, hw]
        rfl
      · rw [hput', hshort, ← hz, hput]
        rfl
      · rw [Dev.stageOf_stagePut_other _ _ _ _ _ (by omega), hshort1]
    · refine hsame ?_
      unfold Dev.stageTake
      dsimp only
      rw [Nat.add_sub_cancel, hx, hring, hg]
      dsimp only
      rw [hclosed]
      rfl

/-- A stage whose input buffer holds what it asks for takes no line, and keeps all but its marks. -/
theorem Dev.stageFeed_full (d : Dev) (e : Env) {n q : Nat} {p : W32} {j k : Nat} {y0 y : Stage} (h0 : d.stageOf n q p j = some y0) (ho : y0.outb = [])
    (hy : d.stageOf n q p (j + 1) = some y) (hk : k ≤ y.inb.length) :
    ∃ d' y0' sh, d.stageFeed e n q p (j + 1) k = (true, d') ∧ (∃ ch, d' = { d with chains := ch }) ∧ d'.stageOf n q p j = some y0' ∧ y0'.desc = y0.desc ∧
      d'.stageOf n q p (j + 1) = some { y with short := sh } := by
  obtain ⟨x, y0', sh, htake, ⟨ch, hch⟩, hx0, hdesc, hx1⟩ := d.stageTake_zero e h0 ho hy
  refine ⟨x.modStage n q p (j + 1) fun s => { s with inb := s.inb ++ [] }, y0', sh, ?_, by rw [hch]; exact ⟨_, rfl⟩,
    (Dev.stageOf_modStage_other _ _ _ _ _ _ (by omega)).trans hx0, hdesc, ?_⟩
  · unfold Dev.stageFeed
    rw [hy]
    dsimp only
    rw [Nat.sub_eq_zero_of_le hk, show cdiv 0 64 = 0 from rfl, htake]
    dsimp only
    rw [if_neg Bool.false_ne_true, List.length_nil, Nat.add_zero, decide_eq_true hk]
  · rw [Dev.stageOf_modStage, hx1, Option.map_some, List.append_nil]

/-! ### The test of a record -/

theorem odSize_verdict (n : Fin 16) (v : Verdict) : 4 ≤ odSize (0x2730 + n) (verdictCount v) := by
  have h (k : Nat) (hk : k ∈ [2, 3, 4, 5]) : 4 ≤ odSize (0x2730 + n) k := by
    fin_cases n <;> fin_cases hk <;> decide
  cases v <;> exact h _ (by simp [verdictCount])

/-- What a test's verdict does to the books and to the list of tasks. -/
def Dev.judged (d : Dev) (n q : Nat) (p : W32) (i : Nat) (s : Stage) (v : Verdict) : Dev :=
  match v with
  | .required => (d.count (0x2730 + n) 3 1).queueTask { bay := n, q := q, p := p, stage := i, vec := s.vec, out := s.idx }
  | .wraps => (d.count (0x2730 + n) 5 1).queueTask { bay := n, q := q, p := p, stage := i, vec := s.vec, out := s.idx }
  | .straddles => (d.count (0x2730 + n) 4 1).queueTask { bay := n, q := q, p := p, stage := i, vec := s.vec, out := s.idx }
  | .certified b => ((d.count (0x2730 + n) 2 1).jobOutputs n 1 0).certOut n q p i s.vec s.idx b

/-- A verdict that does not certify counts, and queues a flash task. -/
theorem Dev.judged_queues (d : Dev) (n : Fin 16) (q : Nat) (p : W32) (i : Nat) (s : Stage) (v : Verdict) (hv : ∀ b, v ≠ .certified b) :
    d.judged n q p i s v = (d.count (0x2730 + n) (verdictCount v) 1).queueTask { bay := n, q := q, p := p, stage := i, vec := s.vec, out := s.idx } := by
  cases v with
  | certified b => exact absurd rfl (hv b)
  | required => rfl
  | wraps => rfl
  | straddles => rfl

/-- The stage once the verdict on its record stands: a certified output is resolved. -/
def Verdict.resolves (v : Verdict) (s : Stage) (at_ : Nat) : Stage :=
  match v with
  | .certified b => { s with outs := smIns at_ (BitVec.ofNat 8 (ofInt 8 b)) s.outs }
  | _ => s

/-- The tasks once the verdict stands. -/
def Verdict.tasks (v : Verdict) (l : List Task) (t : Task) : List Task :=
  match v with
  | .certified _ => l
  | _ => l ++ [t]

theorem Dev.maxOd_od_other (d : Dev) {idx sub n m : Nat} (v : Nat) (hm : m < 256) (hs : sub < 256) (h : (n, m) ≠ (idx, sub)) :
    (d.maxOd idx sub v).od n m = d.od n m := by
  unfold Dev.maxOd
  split
  · exact Dev.setOd_od_other _ _ hm hs h
  · rfl

/-- What a verdict leaves of the device. -/
theorem Dev.judged_leaves (d : Dev) (n : Fin 16) (q : Nat) (p : W32) {i : Nat} {y s : Stage} {v : Verdict} (hy : d.stageOf n q p i = some y)
    (hlt : d.od (0x2730 + n) (verdictCount v) + 1 < 2 ^ 32) (hi : i ≠ 0) :
    ∃ srv f js ts ch, d.judged n q p i s v = { d with srv := srv, free := f, journals := js, tasks := ts, chains := ch } ∧
      ts = v.tasks d.tasks { bay := n, q := q, p := p, stage := i, vec := s.vec, out := s.idx } ∧
      (d.judged n q p i s v).od (0x2730 + n) (verdictCount v) = d.od (0x2730 + n) (verdictCount v) + 1 ∧
      (d.judged n q p i s v).stageOf n q p i = some (v.resolves y (s.vec * pad64 (lN (d.certLayer n q p i)) + s.idx)) ∧
      (d.judged n q p i s v).certLayer n q p i = d.certLayer n q p i := by
  obtain ⟨srv, f, hcount⟩ := d.count_books (0x2730 + n) (verdictCount v) 1
  have hod : (d.count (0x2730 + n) (verdictCount v) 1).od (0x2730 + n) (verdictCount v) = d.od (0x2730 + n) (verdictCount v) + 1 :=
    d.count_od_32 (odSize_verdict n v) hlt
  by_cases hv : ∃ b, v = .certified b
  · obtain ⟨b, rfl⟩ := hv
    obtain ⟨x, hx⟩ : ∃ x, (d.count (0x2730 + n) 2 1).jobOutputs n 1 0 = x := ⟨_, rfl⟩
    obtain ⟨js, hjob⟩ := (d.count (0x2730 + n) 2 1).jobOutputs_books n 1 0
    have hjudged : d.judged n q p i s (.certified b) = x.certOut n q p i s.vec s.idx b := congrArg (fun x : Dev => x.certOut n q p i s.vec s.idx b) hx
    have hxod : x.od (0x2730 + n) 2 = d.od (0x2730 + n) 2 + 1 := by rw [← hx, hjob]; exact hod
    have hxd : x = { d with srv := srv, free := f, journals := js } := by
      rw [← hx, hjob, show d.count (0x2730 + n) 2 1 = _ from hcount]
    have hxs (k : Nat) : x.stageOf n q p k = d.stageOf n q p k := Dev.stageOf_congr (by rw [hxd]) _ _ _ _
    have hxl : x.certLayer n q p i = d.certLayer n q p i := by
      unfold Dev.certLayer
      rw [hxs]
    have hout : x.certOut n q p i s.vec s.idx b = x.modStage n q p i fun y => { y with
        outs := smIns (s.vec * pad64 (lN (d.certLayer n q p i)) + s.idx) (BitVec.ofNat 8 (ofInt 8 b)) y.outs } := by
      unfold Dev.certOut
      rw [hxl]
    rw [hjudged, hout]
    refine ⟨srv, f, js, d.tasks, _, congrArg (fun x : Dev => x.modStage n q p i _) hxd, rfl, hxod, ?_, ?_⟩
    · rw [Dev.stageOf_modStage, hxs, hy]
      rfl
    · rw [← hxl]
      unfold Dev.certLayer
      rw [Dev.stageOf_modStage_other _ _ _ _ _ _ (by omega)]
  · have hv : ∀ b, v ≠ .certified b := fun b h => hv ⟨b, h⟩
    have hts (l : List Task) (k : Task) : v.tasks l k = l ++ [k] := by
      cases v with
      | certified b => exact absurd rfl (hv b)
      | required => rfl
      | wraps => rfl
      | straddles => rfl
    have hres (at_ : Nat) : v.resolves y at_ = y := by
      cases v with
      | certified b => exact absurd rfl (hv b)
      | required => rfl
      | wraps => rfl
      | straddles => rfl
    rw [d.judged_queues n q p i s v hv, hts, hres]
    obtain ⟨x, hx⟩ : ∃ x, d.count (0x2730 + n) (verdictCount v) 1 = x := ⟨_, rfl⟩
    rw [hx] at hcount hod ⊢
    obtain ⟨k, hk⟩ : ∃ k : Task, { bay := n, q := q, p := p, stage := i, vec := s.vec, out := s.idx } = k := ⟨_, rfl⟩
    have hkbay : k.bay = n := by rw [← hk]
    rw [hk]
    obtain ⟨srv', hq⟩ : ∃ srv', x.queueTask k = { x with tasks := x.tasks ++ [k], srv := srv' } := by
      unfold Dev.queueTask
      exact Dev.maxOd_srv _ _ _ _
    have hqod : (x.queueTask k).od (0x2730 + n) (verdictCount v) = x.od (0x2730 + n) (verdictCount v) := by
      refine Dev.maxOd_od_other { x with tasks := x.tasks ++ [k] } _ ?_ (by decide) ?_
      · cases v <;> simp [verdictCount]
      · cases v <;> simp [verdictCount]
    refine ⟨srv', f, d.journals, _, d.chains, ?_, rfl, hqod.trans hod, ?_, ?_⟩
    · rw [hq, hcount]
    · rw [Dev.stageOf_congr (d := d) (by rw [hq, hcount])]
      exact hy
    · unfold Dev.certLayer
      rw [Dev.stageOf_congr (d := d) (by rw [hq, hcount])]

/-- The stage of a test whose record stands in its buffer, once the record is used up. -/
def Stage.tested (s : Stage) : Stage := { s with inb := s.inb.drop 8, idx := s.idx + 1 }

/-- What a test of a record in the midst of a vector does. -/
theorem Dev.certify_tests (d : Dev) (e : Env) (n : Fin 16) {q : Nat} {p : W32} {j : Nat} {s0 s1 : Stage} (h0 : d.stageOf n q p j = some s0) (ho0 : s0.outb = [])
    (h1 : d.stageOf n q p (j + 1) = some s1) (hk : s1.kind = 3) (hek : s1.ekind = 5) (hfn : oFn s1.desc = 2) (hend : s1.ended = false) (ho1 : s1.outb = [])
    (hin : 8 ≤ s1.inb.length) (hidx : s1.idx + 1 < lN s0.desc) (hevery : d.od (0x2730 + n) 1 = 0) :
    ∃ x f sh, (∃ ch, x = { d with chains := ch }) ∧ x.stageOf n q p (j + 1) = some { s1.tested with full := f, short := sh } ∧
      x.certLayer n q p (j + 1) = s0.desc ∧
      d.certify e n q p (j + 1) = (x.judged n q p (j + 1) s1
        (certTest (toInt 32 (fld s1.inb 0 4)) (fld s1.inb 4 2) (bit (fld s1.inb 6 2) 0) (rqEntry s1.aux s1.idx))).certSettle e n q p (j + 1) := by
  obtain ⟨ch1, f, hput, hput1⟩ := d.stagePut_idle h1 ho1
  have hput0 : (d.stagePut n q p (j + 1)).stageOf n q p j = some s0 := (d.stageOf_stagePut_other n q p (j + 1) (by omega)).trans h0
  obtain ⟨y, hy⟩ : ∃ y, d.stagePut n q p (j + 1) = y := ⟨_, rfl⟩
  rw [hy] at hput hput0 hput1
  obtain ⟨z, y0, sh, hfeed, ⟨ch2, hz⟩, hz0, hdesc, hz1⟩ := y.stageFeed_full e (k := 8) hput0 ho0 hput1 hin
  have hly : y.certLayer n q p (j + 1) = s0.desc := by
    unfold Dev.certLayer
    rw [Nat.add_sub_cancel, hput0]
    rfl
  obtain ⟨x, hx⟩ : ∃ x, z.modStage n q p (j + 1) (fun s => { s with inb := s.inb.drop 8, idx := s.idx + 1 }) = x := ⟨_, rfl⟩
  have hxl : x.certLayer n q p (j + 1) = s0.desc := by
    unfold Dev.certLayer
    rw [Nat.add_sub_cancel, ← hx, Dev.stageOf_modStage_other _ _ _ _ _ _ (by omega), hz0]
    exact hdesc
  refine ⟨x, f, sh, ?_, ?_, hxl, ?_⟩
  · rw [← hx, hz, hput]
    exact ⟨_, rfl⟩
  · rw [← hx, Dev.stageOf_modStage, hz1]
    rfl
  · unfold Dev.certify
    rw [h1]
    dsimp only
    rw [if_neg (by simp [hk, hek, hfn, hend]), hy, hfeed]
    dsimp only
    rw [hz1]
    dsimp only
    rw [hly]
    simp only [if_neg (Nat.not_le.mpr hidx)]
    rw [hx, fld_take (by decide), fld_take (by decide), fld_take (by decide)]
    refine congrArg (fun d : Dev => d.certSettle e n q p (j + 1)) ?_
    have hnone : ((x.count (0x2730 + n) 2 1).jobOutputs n 1 0).od (0x2730 + n) 1 = 0 := by
      obtain ⟨js, hjob⟩ := (x.count (0x2730 + n) 2 1).jobOutputs_books n 1 0
      rw [hjob]
      refine (Dev.count_od_other x 1 (by decide) (by decide) (by simp)).trans ?_
      rw [← hx, hz, hput]
      exact hevery
    rw [hnone]
    rfl

theorem certify_tests (n : Fin 16) (q : Fin 8) (p : W32) (i : Fin 8) (j : Nat) (h : Chain) (s0 s1 : Stage) (s : State) (hs : s.rests = true)
    (hi : i.val = j + 1) (hh : s.dev.chainOf n q p = some h) (h0 : h.stages[j]? = some s0) (h1 : h.stages[i.val]? = some s1) (ho0 : s0.outb = [])
    (hk : s1.kind = 3) (hek : s1.ekind = 5) (hfn : oFn s1.desc = 2) (hend : s1.ended = false) (ho1 : s1.outb = []) (hin : 8 ≤ s1.inb.length)
    (hidx : s1.idx + 1 < lN s0.desc) (hevery : s.dev.od (0x2730 + n) 1 = 0) (hlt : ∀ k, k < 6 → s.dev.od (0x2730 + n) k + 1 < 2 ^ 32) {v : Verdict}
    (hv : certTest (toInt 32 (fld s1.inb 0 4)) (fld s1.inb 4 2) (bit (fld s1.inb 6 2) 0) (rqEntry s1.aux s1.idx) = v) {s3 : Stage}
    (hs3 : v.resolves s1.tested (s1.vec * pad64 (lN s0.desc) + s1.idx) = s3) (hline : certLine s3 (lN s0.desc) = none) :
    ∃ t, exec (.certify n q p i) s = .next t ∧ (t.dev.stageOf n q p i).map (fun x => { x with short := s3.short, full := s3.full }) = some s3 ∧
      t.dev.od (0x2730 + n) (verdictCount v) = s.dev.od (0x2730 + n) (verdictCount v) + 1 ∧
      t.dev.tasks = v.tasks s.dev.tasks { bay := n, q := q, p := p, stage := i, vec := s1.vec, out := s1.idx } := by
  have hs1 : s.dev.stageOf n q p (j + 1) = some s1 := hi ▸ Dev.stageOf_of hh h1
  obtain ⟨x, f, sh, ⟨ch, hx⟩, hxs, hxl, htest⟩ := s.dev.certify_tests s.env n (Dev.stageOf_of hh h0) ho0 hs1 hk hek hfn hend ho1 hin hidx hevery
  rw [hv] at htest
  have hvlt : verdictCount v < 6 := by cases v <;> simp [verdictCount]
  obtain ⟨srv, fr, js, ts, ch', hj, hts, hod, hst, hl⟩ := x.judged_leaves n q p (s := s1) (v := v) hxs (by rw [hx]; exact hlt _ hvlt) (by omega)
  rw [hxl] at hst hl
  obtain ⟨y, hy⟩ : ∃ y, x.judged n q p (j + 1) s1 v = y := ⟨_, rfl⟩
  rw [hy] at htest hj hod hst hl
  have hres : v.resolves { s1.tested with full := f, short := sh } (s1.vec * pad64 (lN s0.desc) + s1.idx) = { s3 with full := f, short := sh } := by
    rw [← hs3]
    cases v <;> rfl
  have hidx3 : s3.idx = s1.idx + 1 := by
    rw [← hs3]
    cases v <;> rfl
  rw [hres] at hst
  obtain ⟨hby, hstage⟩ := y.certSettle_none s.env n q p (j + 1) hst (by rw [hl]; exact hline) (by rw [show ({ s3 with full := f, short := sh } : Stage).idx = s3.idx from rfl, hidx3]; omega)
  obtain ⟨z, hz⟩ : ∃ z, y.certSettle s.env n q p (j + 1) = z := ⟨_, rfl⟩
  rw [hz] at htest hby hstage
  have hzod := hby.od (0x2730 + n) (verdictCount v)
  obtain ⟨ch2, cs2, st2, hz2⟩ := hby
  refine ⟨_, show execCertify n q p i s = _ from s.go_done _ z hs ?_ ?_, ?_, ?_, ?_⟩
  · rw [Dev.turnOf_rests _ _ _ _ (s.rests_iff.mp hs).2.2.1, hi, htest]
  · rw [hz2, hj, hx]
    exact State.rests_quiet hs
  · show (z.stageOf n q p i).map _ = _
    rw [hi, hstage]
    rfl
  · show z.od _ _ = _
    rw [hzod, hod, hx]
    rfl
  · show z.tasks = _
    rw [hz2, hj, hi]
    exact hts.trans (by rw [hx])

/-! ### Evaluations -/

theorem padLine_length (bs : List Byte) : (padLine bs).length % 64 = 0 := by
  unfold padLine zeros
  rw [List.length_append, List.length_replicate]
  omega

/-- What a ring takes is written alike to devices with the same memory operations. -/
theorem Dev.ringWrite_made (g : Ring) (bs : List Byte) : ∃ l, ∀ d : Dev, d.ringWrite g bs = { d with stores := l ++ d.stores } := by
  unfold Dev.ringWrite
  generalize (lines64 bs).zipIdx = ys
  induction ys with
  | nil => exact ⟨[], fun _ => rfl⟩
  | cons y ys ih =>
    obtain ⟨l, hl⟩ := ih
    refine ⟨l ++ [.clean (g.lpa (g.put + 64 * y.2) / 64), .write (g.lpa (g.put + 64 * y.2)) y.1], fun d => ?_⟩
    rw [List.foldl_cons, hl, List.append_assoc]
    rfl

theorem Arr.trigger_evals (x : Arr) : x.trigger.evals = x.evals := by
  unfold Arr.trigger
  split <;> (try split) <;> (try split) <;> rfl

/-- One array of a stage has evaluated a vector. -/
def Dev.thatchCountOne (d : Dev) (s : Stage) (xs : List Byte) (reads : List AdcRead) (i : Nat) : Dev :=
  let a := s.obj + i
  let x := d.arr a
  let x := { x with evals := x.evals + 1, sinceCal := x.sinceCal + 1 }
  let x := if x.sinceCal = 2 ^ 20 then x.trigger else x
  let x := if d.refMiss a (lAvg s.desc) (tileOf xs (i / max 1 (lCt s.desc))) reads then { x with tvMisses := x.tvMisses + 1 }.trigger else x
  d.setArr a x

theorem Dev.thatchCount_eq (d : Dev) (s : Stage) (xs : List Byte) (reads : List AdcRead) :
    d.thatchCount s xs reads = (List.range s.count).foldl (fun d i => d.thatchCountOne s xs reads i) d := rfl

theorem Dev.thatchCountOne_sets (d : Dev) (s : Stage) (xs : List Byte) (reads : List AdcRead) (i : Nat) :
    ∃ x, d.thatchCountOne s xs reads i = d.setArr (s.obj + i) x ∧ x.evals = (d.arr (s.obj + i)).evals + 1 := by
  refine ⟨_, rfl, ?_⟩
  split
  · rw [Arr.trigger_evals]
    show (if _ then Arr.trigger _ else _).evals = _
    split
    · exact Arr.trigger_evals _
    · rfl
  · split
    · exact Arr.trigger_evals _
    · rfl

/-- An evaluation counts at each array of the stage, and changes no other thing. -/
theorem Dev.thatchCount_evals (d : Dev) (s : Stage) (xs : List Byte) (reads : List AdcRead) : ∃ as, d.thatchCount s xs reads = { d with arrays := as } ∧
    ∀ k, k < s.count → (smGet {} as (s.obj + k)).evals = (d.arr (s.obj + k)).evals + 1 := by
  rw [Dev.thatchCount_eq]
  suffices ∀ n, ∃ as, (List.range n).foldl (fun d i => d.thatchCountOne s xs reads i) d = { d with arrays := as } ∧
      ∀ k, (smGet {} as (s.obj + k)).evals = (d.arr (s.obj + k)).evals + (if k < n then 1 else 0) by
    obtain ⟨as, h, hev⟩ := this s.count
    exact ⟨as, h, fun k hk => (hev k).trans (by rw [if_pos hk])⟩
  intro n
  induction n with
  | zero => exact ⟨d.arrays, rfl, fun k => rfl⟩
  | succ n ih =>
    obtain ⟨as, h, hev⟩ := ih
    rw [List.range_succ, List.foldl_append, h]
    obtain ⟨x, hx, hxev⟩ := ({ d with arrays := as } : Dev).thatchCountOne_sets s xs reads n
    refine ⟨smSet {} as (s.obj + n) x, hx, fun k => ?_⟩
    rw [smGet_set]
    by_cases hk : k = n
    · subst hk
      rw [if_pos rfl, if_pos (Nat.lt_succ_self k), hxev]
      exact congrArg (· + 1) ((hev k).trans (by rw [if_neg (Nat.lt_irrefl k)]; rfl))
    · rw [if_neg (by omega), hev k]
      refine congrArg _ (if_congr ?_ rfl rfl)
      omega

theorem thatchEvaluation_evaluates (n : Fin 16) (q : Fin 8) (p : W32) (i : Fin 8) (j : Nat) (h : Chain) (s0 s1 : Stage) (r ro : Ring) (reads : List AdcRead)
    (rs : List (List Byte)) (s : State) (hs : s.rests = true) (hpoison : s.poison = []) (hi : i.val = j + 1) (hh : s.dev.chainOf n q p = some h)
    (h0 : h.stages[j]? = some s0) (h1 : h.stages[i.val]? = some s1) (hr : s0.ring = some r) (ho0 : s0.outb = []) (hk : s1.kind = 4) (hend : s1.ended = false)
    (ho1 : s1.outb = []) (hro : s1.ring = some ro) (hgate : s.dev.ringGate r = none) (hgateo : s.dev.ringGate ro = none)
    (hput : (s1.vec + 1) * pad64 (lK s1.desc) ≤ r.put) (hcal : ∀ k, k < s1.count → (s.dev.arr (s1.obj + k)).st ≠ .calibrating)
    (hrs : ((List.range (lN s1.desc)).mapM fun o => s.dev.thatchRecord s1 ((List.range (lK s1.desc)).map fun k => s.byte (r.lpa (s1.vec * pad64 (lK s1.desc) + k)))
      reads o (Config.freeValue (s.dev.free + o) % 2 ^ 32)) = some rs)
    (hroom : (padLine rs.flatten).length ≤ ro.room) :
    ∃ t, exec (.thatchEvaluation n q p i reads) s = .next t ∧ t.dev.free = s.dev.free + lN s1.desc ∧
      t.dev.stageOf n q p i = some { s1 with vec := s1.vec + 1, ring := some { ro with put := ro.put + (padLine rs.flatten).length }, full := false } ∧
      (∀ k, k < s1.count → (t.dev.arr (s1.obj + k)).evals = (s.dev.arr (s1.obj + k)).evals + 1) ∧
      t.mem = (s.commit (s.dev.ringWrite ro (padLine rs.flatten))).mem := by
  rw [hi] at h1 ⊢
  obtain ⟨xs, hxs⟩ : ∃ xs, ((List.range (lK s1.desc)).map fun k => s.byte (r.lpa (s1.vec * pad64 (lK s1.desc) + k))) = xs := ⟨_, rfl⟩
  rw [hxs] at hrs
  obtain ⟨bs, hbs⟩ : ∃ bs, padLine rs.flatten = bs := ⟨_, rfl⟩
  have hmod : bs.length % 64 = 0 := hbs ▸ padLine_length _
  rw [hbs] at hroom ⊢
  obtain ⟨ch1, ha, ha0⟩ := s.dev.stagePut_notFull (Dev.stageOf_of hh h0) hr hgate ho0
  have ha1 : (s.dev.stagePut n q p j).stageOf n q p (j + 1) = some s1 := (s.dev.stageOf_stagePut_other n q p j (by omega)).trans (Dev.stageOf_of hh h1)
  rw [ha] at ha0 ha1
  obtain ⟨ch2, hb, hb1⟩ := Dev.stagePut_notFull _ ha1 hro hgateo ho1
  have hb0 := (Dev.stageOf_stagePut_other ({ s.dev with chains := ch1 } : Dev) n q p (j + 1) (j := j) (by omega)).trans ha0
  rw [hb] at hb0 hb1
  obtain ⟨ev, hev⟩ : ∃ ev : Stage → Stage, (fun s => { s with vec := s.vec + 1, outb := s.outb ++ bs }) = ev := ⟨_, rfl⟩
  obtain ⟨c, hc⟩ : ∃ c, ({ s.dev with chains := ch2, free := s.dev.free + lN s1.desc } : Dev).modStage n q p (j + 1) ev = c := ⟨_, rfl⟩
  have hc1 : c.stageOf n q p (j + 1) = some { s1 with full := false, vec := s1.vec + 1, outb := bs } := by
    have hb1' : ({ s.dev with chains := ch2, free := s.dev.free + lN s1.desc } : Dev).stageOf n q p (j + 1) = some { s1 with full := false } := hb1
    rw [← hc, Dev.stageOf_modStage, hb1', ← hev, Option.map_some]
    show some { s1 with full := false, vec := s1.vec + 1, outb := s1.outb ++ bs } = _
    rw [ho1, List.nil_append]
  have hcd : ∃ ch, c = { s.dev with chains := ch, free := s.dev.free + lN s1.desc } := ⟨_, hc.symm⟩
  obtain ⟨ch3, hcd⟩ := hcd
  obtain ⟨ch4, hput4, hput1⟩ := c.stagePut_open hc1 hro (by rw [hcd]; exact hgateo) hmod hroom
  obtain ⟨l, hl⟩ := Dev.ringWrite_made ro bs
  obtain ⟨y, hy⟩ : ∃ y, c.stagePut n q p (j + 1) = y := ⟨_, rfl⟩
  rw [hy] at hput4 hput1
  obtain ⟨as, hcount, hevals⟩ := y.thatchCount_evals { s1 with full := false } xs reads
  have hring : ((({ s.dev with chains := ch2 } : Dev).chainOf n q p).bind fun h => h.inRing (j + 1)) = some r := by
    rw [Dev.inRing_succ, hb0]
    exact hr
  have hrun : s.dev.thatchEval s.env n q p (j + 1) reads = y.thatchCount { s1 with full := false } xs reads := by
    have hread := s.ringRead_env (d := { s.dev with chains := ch2 }) (State.rests_stores hs) hpoison r (s1.vec * pad64 (lK s1.desc)) (lK s1.desc)
    rw [hxs] at hread
    have hcal' : ((List.range s1.count).any fun k => (s.dev.arr (s1.obj + k)).st == .calibrating) = false :=
      List.any_eq_false.mpr fun k hk => by simpa using hcal k (List.mem_range.mp hk)
    unfold Dev.thatchEval
    dsimp only
    rw [Nat.add_sub_cancel, ha, hb, hb1, hring, hb0]
    dsimp only
    rw [if_neg (by simp [hend, ho1, show ({ s.dev with chains := ch2 } : Dev).ringGate r = none from hgate]), if_neg (Nat.not_lt.mpr hput)]
    refine (if_neg (ne_true_of_eq_false hcal')).trans ?_
    rw [hread, if_neg Bool.false_ne_true]
    rw [show ((List.range (lN s1.desc)).mapM fun o => ({ s.dev with chains := ch2 } : Dev).thatchRecord { s1 with full := false } xs reads o
      (Config.freeValue (s.dev.free + o) % 2 ^ 32)) = some rs from hrs]
    dsimp only
    rw [hbs, hev, hc, hy]
  obtain ⟨z, hz⟩ : ∃ z, y.thatchCount { s1 with full := false } xs reads = z := ⟨_, rfl⟩
  rw [hz] at hrun hcount
  have hyd : y = { s.dev with chains := ch4, free := s.dev.free + lN s1.desc, stores := l ++ s.dev.stores } := by
    rw [hput4, hl, hcd]
  have hkind : ({ s1 with full := false } : Stage).kind = 4 := hk
  refine ⟨_, show execThatchEvaluation n q p i reads s = _ from s.go_done _ z hs ?_ ?_, ?_, ?_, ?_, ?_⟩
  · rw [Dev.turnOf_rests _ _ _ _ (s.rests_iff.mp hs).2.2.1, hi]
    show (match s.dev.stageOf n q p (j + 1) with | some t => if t.kind = 4 then s.dev.thatchEval s.env n q p (j + 1) reads else s.dev | none => s.dev) = z
    rw [Dev.stageOf_of hh h1]
    dsimp only
    rw [if_pos hk, hrun]
  · rw [hcount, hyd]
    exact State.rests_quiet hs
  · show z.free = _
    rw [hcount, hyd]
  · show z.stageOf n q p (j + 1) = _
    rw [Dev.stageOf_congr (d := y) (by rw [hcount]), hput1, ho1]
  · intro k hk
    show (z.arr (s1.obj + k)).evals = _
    rw [hcount]
    exact (hevals k hk).trans (by rw [hyd]; rfl)
  · have hst : z.stores = (s.dev.ringWrite ro bs).stores := by
      rw [hcount, hyd, hl]
    show (s.commit z).mem = _
    unfold State.commit
    rw [hst]

/-- Settles O46: an evaluation of a THATCH stage, and the test of its next record by the requantise stage that follows. -/
theorem thatchEvaluationAndTests : Obligations.ThatchEvaluationAndTests := by
  unfold Obligations.ThatchEvaluationAndTests
  refine ⟨fun n q p i j h s0 s1 r ro reads rs s hs hpoison hi hh h0 h1 hr ho0 hk hend ho1 hro hgate hgateo hput hcal => ?_,
    fun n q p i j h s0 s1 s hs hi hh h0 h1 ho0 hk hek hfn hend ho1 hin hidx hevery hlt => ?_⟩
  · intro xs hrs hroom
    exact thatchEvaluation_evaluates n q p i j h s0 s1 r ro reads rs s hs hpoison hi hh h0 h1 hr ho0 hk hend ho1 hro hgate hgateo hput hcal hrs hroom
  · intro v s2 s3 hline
    exact certify_tests n q p i j h s0 s1 s hs hi hh h0 h1 ho0 hk hek hfn hend ho1 hin hidx hevery hlt (v := v) rfl (s3 := s3) rfl hline

end Sys2Proof.Machine
end

section
/-! PROOF. A completion record that an earlier access of its requester already stands issued for is written at once, however mute the requester's
island is: O35 does not hold. -/
namespace Sys2Proof.Machine

/-- The WAIT at position 0 whose deadline has passed: its Spar 0 has to reach 1. -/
def lateWait : Cmd := { pos := 0, ph := .running, deadline := some 10, bytes := [2] ++ zeros 15 ++ [1] ++ zeros 47 }

/-- In service but for the Lath walkers' island, which closes; Bay 0 runs that WAIT, and a write of its completion queue's first line stands issued
over the fabric and acknowledged. -/
def acknowledgedState : State :=
  { servingState with dev := { servingState.dev with
      loops := { islands := (List.range 350).map fun i => (i, { st := if i = 330 then .closing else .active }) }
      bays := [(0, { st := .running })]
      queues := [(0, { st := .active, p := 1, fe := 1, cmds := [lateWait] })]
      trans := { issued := [(.record 0, 0, 0, true, .fab (5 * 2 ^ 48))] }
      fabric := { acks := [(.record 0, 5 * 2 ^ 48, [], .ok)] } } }

/-- The completion records that an outcome leaves waiting. -/
def recordsHeld : Outc → Option Nat
  | .next t => some t.dev.link.heldRecs.length
  | _ => none

theorem waitTimeout_writes : recordsHeld (exec (.waitTimeout 0 0 0) acknowledgedState) = some 0 := by decide +kernel

/-- Refutes O35: the record of a WAIT that times out is held while its requester is mute, by the statement; one whose write stands acknowledged is
written on the tick. -/
theorem not_controlAndSignal : ¬ Obligations.ControlAndSignal := by
  unfold Obligations.ControlAndSignal
  rintro ⟨-, -, -, -, -, htimeout, -⟩
  obtain ⟨t, ht, -, -, hheld, -⟩ := htimeout 0 0 0 lateWait 10 acknowledgedState (by decide +kernel) rfl (by decide) (by decide +kernel) (by decide +kernel)
    (by decide +kernel) (by decide +kernel) rfl (by decide +kernel)
  have hnone := waitTimeout_writes
  rw [ht] at hnone
  exact absurd (hheld.symm.trans (Option.some.inj hnone)) (by decide)

end Sys2Proof.Machine
end

section
/-! PROOF. BEGIN_JOB and END_JOB (R361, R528, R536, R605): O36. -/
namespace Sys2Proof.Machine

/-! ### A job's regions but for their engines -/

/-- The jobs differ in the engines that make their digests alone. -/
structure Journal.Rebound (j j' : Journal) : Prop where
  rest : j' = { j with inputs := j'.inputs, outputs := j'.outputs }
  inputs : unbound j'.inputs = unbound j.inputs
  outputs : unbound j'.outputs = unbound j.outputs

theorem Journal.Rebound.refl (j : Journal) : j.Rebound j := ⟨rfl, rfl, rfl⟩

theorem Journal.Rebound.trans {a b c : Journal} (h : a.Rebound b) (h' : b.Rebound c) : a.Rebound c :=
  ⟨by rw [h'.rest, h.rest], h'.inputs.trans h.inputs, h'.outputs.trans h.outputs⟩

theorem unbound_listSet (l : List JobRegion) (i : Nat) {r : JobRegion} (x : Option (Nat × Nat)) (h : l[i]? = some r) :
    unbound (listSet l i { r with eng := x }) = unbound l := by
  induction l generalizing i with
  | nil => rfl
  | cons y l ih =>
    cases i with
    | zero =>
      obtain rfl : y = r := Option.some.inj h
      rfl
    | succ i => exact congrArg (List.cons _) (ih i h)

/-- A region's new engine changes its list in that alone. -/
theorem unbound_bind (l : List JobRegion) (i : Nat) (x : Option (Nat × Nat)) :
    unbound (match l[i]? with | some r => listSet l i { r with eng := x } | none => l) = unbound l := by
  cases h : l[i]? with
  | none => rfl
  | some r => exact unbound_listSet l i x h

/-- A digest queued binds a region to an engine, and changes no other thing. -/
theorem Dev.queueDigest_binds (d : Dev) (n i : Nat) : ∃ js, d.queueDigest n i = { d with journals := js } ∧ (d.jour n).Rebound (smGet {} js n) ∧
    (64 ≤ i → (smGet {} js n).inputs = (d.jour n).inputs) := by
  unfold Dev.queueDigest
  split
  · refine ⟨_, rfl, ?_⟩
    rw [smGet_set_same]
    by_cases hi : i < 64
    · rw [if_pos hi]
      exact ⟨⟨rfl, unbound_bind _ _ _, rfl⟩, fun h => absurd hi (by omega)⟩
    · rw [if_neg hi]
      exact ⟨⟨rfl, rfl, unbound_bind _ _ _⟩, fun _ => rfl⟩
  · exact ⟨d.journals, rfl, .refl _, fun _ => rfl⟩

/-- Digests queued one after another bind regions alone. -/
theorem Dev.queueDigests_bind {α : Type} (f : Dev → α → Dev) (n : Nat) (hf : ∀ d x, (∃ i, f d x = d.queueDigest n i) ∨ f d x = d) (l : List α) (d : Dev) :
    ∃ js, l.foldl f d = { d with journals := js } ∧ (d.jour n).Rebound (smGet {} js n) := by
  induction l generalizing d with
  | nil => exact ⟨d.journals, rfl, .refl _⟩
  | cons x l ih =>
    rw [List.foldl_cons]
    rcases hf d x with ⟨i, h⟩ | h
    · obtain ⟨js, hjs, hre, -⟩ := d.queueDigest_binds n i
      obtain ⟨js', hjs', hre'⟩ := ih { d with journals := js }
      rw [h, hjs]
      exact ⟨js', hjs', hre.trans hre'⟩
    · rw [h]
      exact ih d

/-- Digests of output regions queued one after another leave the inputs. -/
theorem Dev.queueOutputs_bind (n : Nat) (l : List Nat) (d : Dev) : ∃ js, l.foldl (fun d i => d.queueDigest n (64 + i)) d = { d with journals := js } ∧
    (d.jour n).Rebound (smGet {} js n) ∧ (smGet {} js n).inputs = (d.jour n).inputs := by
  induction l generalizing d with
  | nil => exact ⟨d.journals, rfl, .refl _, rfl⟩
  | cons i l ih =>
    obtain ⟨js, hjs, hre, hin⟩ := d.queueDigest_binds n (64 + i)
    obtain ⟨js', hjs', hre', hin'⟩ := ih { d with journals := js }
    rw [List.foldl_cons, hjs]
    exact ⟨js', hjs', hre.trans hre', hin'.trans (hin (Nat.le_add_right _ _))⟩

theorem unbound_regionsOf (bs : List Byte) : unbound (regionsOf bs) = regionsOf bs := by
  unfold unbound regionsOf
  rw [List.map_map]
  rfl

/-! ### Lists read -/

/-- A list that is read at once and passes its checks. -/
theorem Dev.readList_reads (d : Dev) (e : Env) (n q : Nat) (p : W32) {k : Cmd} {close : Bool} {bs : List Byte} {tr : Trans} (ha : k.f 0x10 8 % 32 = 0)
    (hd : k.f 0x10 8 < 2 ^ 57) (h0 : 0 < k.f 0x18 2) (h64 : k.f 0x18 2 ≤ 64)
    (hr : d.readRange e (.cmd (8 * n + q) p.toNat) n k.space (k.f 0x10 8) (32 * k.f 0x18 2) = (.got bs false, { d with trans := tr }))
    (hbad : d.listBad n close (opsOf bs) = none) : d.readList e n q p k close = (.inl bs, { d with trans := tr }) := by
  have hbad' : ({ d with trans := tr } : Dev).listBad n close (opsOf bs) = none := hbad
  unfold Dev.readList
  rw [if_neg (by simp [ha, dvaOk]; omega), if_neg (by simp; omega)]
  unfold Dev.readPrep
  rw [hr]
  dsimp only
  rw [hbad']

/-- The judgement of one entry of a list. -/
def placeOne (w : Who) (n s : Nat) (again : Bool) (c : (List JobRegion ⊕ (Nat × Option (Status × Nat))) × Dev) (r : JobRegion × Nat) :
    (List JobRegion ⊕ (Nat × Option (Status × Nat))) × Dev :=
  match c.1 with
  | .inr _ => c
  | .inl l =>
    if !r.1.await && !((List.range 16).any fun i => (c.2.region n i).st != .unregistered && (c.2.region n i).len == r.1.len) then (.inl (l ++ [r.1]), c.2)
    else match c.2.localRange w n s r.1.dva r.1.len with
      | (none, d) => (.inr (r.2, none), d)
      | (some a, d) => match a.bind fun a => d.wholeRegion n a r.1.len again with
        | some i => (.inl (l ++ [{ r.1 with slot := some i }]), d)
        | none => if r.1.await then (.inr (r.2, some (.range, 32 * r.2)), d) else (.inl (l ++ [r.1]), d)

theorem Dev.placeList_eq (d : Dev) (w : Who) (n s : Nat) (again : Bool) (rs : List JobRegion) :
    d.placeList w n s again rs = rs.zipIdx.foldl (placeOne w n s again) (.inl [], d) := rfl

/-- Where the Bay has no registered region, an entry that awaits none names none. -/
theorem placeOne_plain (w : Who) (n s : Nat) (again : Bool) {d : Dev} (l : List JobRegion) {r : JobRegion × Nat} (hreg : d.regions = []) (hr : r.1.await = false) :
    placeOne w n s again (.inl l, d) r = (.inl (l ++ [r.1]), d) := by
  have hnone : ((List.range 16).any fun i => (d.region n i).st != .unregistered && (d.region n i).len == r.1.len) = false :=
    List.any_eq_false.mpr fun i _ => by
      unfold Dev.region
      rw [hreg]
      simp [smGet]
  unfold placeOne
  dsimp only
  rw [hr, hnone]
  exact if_pos rfl

/-- Where the Bay has no registered region, and no entry awaits one, a list's entries name none. -/
theorem Dev.placeList_plain (d : Dev) (w : Who) (n s : Nat) (again : Bool) {rs : List JobRegion} (hreg : d.regions = []) (ha : (rs.all fun r => !r.await) = true) :
    d.placeList w n s again rs = (.inl rs, d) := by
  suffices ∀ (l : List (JobRegion × Nat)) (done : List JobRegion), (∀ x ∈ l, x.1.await = false) →
      l.foldl (placeOne w n s again) (.inl done, d) = (.inl (done ++ l.map (·.1)), d) by
    have hall : ∀ x ∈ rs.zipIdx, x.1.await = false := fun x hx => by
      have := List.all_eq_true.mp ha x.1 (List.fst_mem_of_mem_zipIdx hx)
      simpa using this
    have h := this rs.zipIdx [] hall
    rw [List.nil_append, List.zipIdx_map_fst] at h
    exact h
  intro l
  induction l with
  | nil => exact fun done _ => by rw [List.map_nil, List.append_nil]; rfl
  | cons x l ih =>
    intro done hx
    rw [List.foldl_cons, placeOne_plain w n s again done hreg (hx x List.mem_cons_self), ih _ fun y hy => hx y (List.mem_cons_of_mem _ hy), List.append_assoc]
    rfl

/-! ### BEGIN_JOB -/

theorem odSize_jobs (n : Fin 16) : odSize (0x2680 + n) 0x7C = 4 := by
  fin_cases n <;> decide

/-- A command that stands alone and started is the one its row finds. -/
theorem State.Stands.started {s : State} {n q : Nat} {p : W32} {op : Nat} {c : Cmd} (h : s.Stands n q p op .started c) :
    s.dev.startedCmd n q p op = some c := by
  unfold Dev.startedCmd
  rw [h.cmds]
  exact List.find?_cons_of_pos (by simp [h.pos, h.phase, h.op_, h.ended, h.taken])

/-- What a job that opens in a strict Bay's journal leaves: its record, and its regions, whose digests are queued. -/
theorem Dev.openJob_opens (d : Dev) (e : Env) (n q : Nat) (k : Cmd) {rs : List JobRegion} (hslot : ∀ r ∈ rs, r.slot = none) (hfirst : (d.tickRecs e).recs = []) :
    ∃ js g, d.openJob e n q k false rs = { d with journals := js, jtick := g, jseq := d.jseq + 1 } ∧
      (smGet {} js n).st = .open_ ∧ (smGet {} js n).id = k.f 8 8 ∧ (smGet {} js n).attempt = 0 ∧ (smGet {} js n).pos = k.pos ∧
      (smGet {} js n).first = e.time ∧ unbound (smGet {} js n).inputs = unbound rs ∧ (smGet {} js n).stream = [k.bytes] ∧
      (smGet {} js n).heldRecs.length = (d.jour n).heldRecs.length + 1 := by
  obtain ⟨j, hj⟩ : ∃ j : Journal, { d.jour n with
    st := .open_
    id := k.f 8 8
    attempt := 0
    q := q
    pos := k.pos
    space := k.space
    first := e.time
    final := e.time
    restarts := 0
    layers := 0
    lost := 0
    certified := 0
    flashed := 0
    stream := [k.bytes]
    inputs := rs
    outputs := []
    weightSet := k.f 0x1C 4
    weights := d.weightDigest n (k.f 0x1C 4)
    chain := zeros 48
    spars := ((List.range (d.bay n).held.spar.count).map fun i =>
      ((d.bay n).held.spar.base + i, (d.spar ((d.bay n).held.spar.base + i)).value)).filter fun c => c.2 != 0
    closing := none
    closeSeq := none
    draining := false } = j := ⟨_, rfl⟩
  obtain ⟨g, x, c, hemit⟩ := (d.setJour n j).emitRec_first e n 1 k.pos.toNat true false (leBytes 4 (d.od 0x1018 4) ++ leBytes 4 (d.od 0x1018 3) ++
    leBytes 16 d.nonce ++ fit 48 d.boot.fwDigest ++ d.replayBlock n ++ d.weightDigest n (k.f 0x1C 4) ++ leBytes 4 (k.f 0x1C 4) ++ leBytes 1 q ++
    leBytes 1 (d.cqK n q) ++ leBytes 2 rs.length ++ leBytes 4 k.pos.toNat ++ zeros 4) hfirst
  rw [Dev.setJour_jour] at hemit
  obtain ⟨js, hjs, hre⟩ := Dev.queueDigests_bind (fun (d : Dev) (r : JobRegion × Nat) => if r.1.await then d else d.queueDigest n r.2) n
    (fun d r => by
      by_cases ha : r.1.await = true
      · exact .inr (if_pos ha)
      · exact .inl ⟨r.2, if_neg ha⟩) rs.zipIdx (({ d.setJour n j with jtick := g, jseq := d.jseq + 1 } : Dev).setJour n { j with
      heldRecs := j.heldRecs ++ [(d.jseq + 1, x)], chain := c, closeSeq := j.closeSeq })
  rw [Dev.setJour_jour] at hre
  have hrest := hre.rest
  refine ⟨js, g, ?_, ?_⟩
  · unfold Dev.openJob
    dsimp only
    simp only [Bool.false_eq_true, if_false]
    rw [hj, hemit]
    refine (congrArg (fun d' => rs.zipIdx.foldl (fun (d : Dev) r => if r.1.await then d else d.queueDigest n r.2) d')
      (foldl_fixed _ _ _ fun r hr => ?_)).trans hjs
    rw [hslot r hr]
  · rw [hrest, ← hj]
    refine ⟨rfl, rfl, rfl, rfl, rfl, hre.inputs.trans (by rw [← hj]), rfl, ?_⟩
    exact List.length_append

/-- A BEGIN_JOB that starts and whose list passes: its job is open, in a strict Bay in its journal too. -/
theorem beginJob_opens (n : Fin 16) (q : Fin 8) (p : W32) (c : Cmd) (bs : List Byte) (tr : Trans) (s : State) (h : s.Stands n q p 6 .started c)
    (hf : c.flag 0 = false) (hjob : (s.dev.queue n q).job = none) (hjour : (s.dev.jour n).st = .none) (ha : c.f 0x10 8 % 32 = 0) (hd0 : c.f 0x10 8 < 2 ^ 57)
    (h0 : 0 < c.f 0x18 2) (h64 : c.f 0x18 2 ≤ 64) (hr : s.reads (.cmd (8 * n + q) p.toNat) n c.space (c.f 0x10 8) (32 * c.f 0x18 2) bs tr)
    (hbad : s.dev.listBad n false (opsOf bs) = none) (hreg : s.dev.regions = []) (hawait : ((regionsOf bs).all fun r => !r.await) = true)
    (hroom : s.dev.roomFor n 248 = true) (hlt : s.dev.od (0x2680 + n) 0x7C + 1 < 2 ^ 32) (hfirst : s.firstRec = true) :
    ∃ t, exec (.beginJob n q p) s = .next t ∧
      (t.dev.queue n q) = { s.dev.queue n q with cmds := [], job := some p, jobId := c.f 8 8, fr := if s.dev.strict n then p else (s.dev.queue n q).fe } ∧
      t.dev.od (0x2680 + n) 0x7C = s.dev.od (0x2680 + n) 0x7C + 1 ∧ t.mem = s.mem ∧
      (s.dev.strict n = false → t.dev.jour n = s.dev.jour n) ∧
      (s.dev.strict n = true → (t.dev.jour n).st = .open_ ∧ (t.dev.jour n).id = c.f 8 8 ∧ (t.dev.jour n).attempt = 0 ∧ (t.dev.jour n).pos = p ∧
        (t.dev.jour n).first = s.time ∧ unbound (t.dev.jour n).inputs = regionsOf bs ∧ (t.dev.jour n).stream = [c.bytes] ∧ t.dev.jseq = s.dev.jseq + 1 ∧
        (t.dev.jour n).heldRecs.length = (s.dev.jour n).heldRecs.length + 1) := by
  have hslot : ∀ r ∈ regionsOf bs, r.slot = none := fun r hr => by
    obtain ⟨i, -, rfl⟩ := List.mem_map.mp hr
    rfl
  obtain ⟨d1, hd1⟩ : ∃ d1 : Dev, d1 = { s.dev with trans := tr } := ⟨_, rfl⟩
  have hreg1 : d1.regions = [] := by rw [hd1]; exact hreg
  have hroom1 : d1.roomFor n 248 = true := by rw [hd1]; exact hroom
  have hstrict1 : d1.strict n = s.dev.strict n := by rw [hd1]; rfl
  -- the job as the journal has it
  obtain ⟨d, hopen, ⟨js, g, m, hd⟩, hplain, hopened⟩ : ∃ d : Dev, (if s.dev.strict n then d1.openJob s.env n q c false (regionsOf bs) else d1) = d ∧
      (∃ js g m, d = { d1 with journals := js, jtick := g, jseq := m }) ∧
      (s.dev.strict n = false → d.jour n = s.dev.jour n) ∧ (s.dev.strict n = true → (d.jour n).st = .open_ ∧ (d.jour n).id = c.f 8 8 ∧
        (d.jour n).attempt = 0 ∧ (d.jour n).pos = p ∧ (d.jour n).first = s.time ∧ unbound (d.jour n).inputs = regionsOf bs ∧
        (d.jour n).stream = [c.bytes] ∧ d.jseq = s.dev.jseq + 1 ∧ (d.jour n).heldRecs.length = (s.dev.jour n).heldRecs.length + 1) := by
    cases hst : s.dev.strict n with
    | false => exact ⟨d1, if_neg (by decide), ⟨_, _, _, rfl⟩, fun _ => by rw [hd1]; rfl, by simp⟩
    | true =>
      obtain ⟨js, g, hjs, h1, h2, h3, h4, h5, h6, h7, h8⟩ := d1.openJob_opens s.env n q c hslot (by rw [hd1]; exact List.isEmpty_iff.mp hfirst)
      refine ⟨_, if_pos rfl, ⟨js, g, _, hjs⟩, by simp, fun _ => ?_⟩
      rw [hjs]
      exact ⟨h1, h2, h3, h4.trans h.pos, h5, h6.trans (unbound_regionsOf bs), h7, by rw [hd1], h8.trans (by rw [hd1]; rfl)⟩
  have hq : d.queue n q = s.dev.queue n q := by rw [hd, hd1]; rfl
  have hod (i j : Nat) : d.od i j = s.dev.od i j := by rw [hd, hd1]; rfl
  have hquiet : d.quiet = true := by rw [hd, hd1]; exact s.rests_quiet h.rests
  have hstores : d.stores = [] := by rw [hd, hd1]; exact s.rests_stores h.rests
  have hcount : d.count (0x2680 + n) 0x7C 1 = d.setOd (0x2680 + n) 0x7C (s.dev.od (0x2680 + n) 0x7C + 1) := by
    rw [← hod]
    exact d.count_of_lt _ _ _ (by rw [odSize_jobs, hod]; exact hlt)
  obtain ⟨d2, hd2⟩ : ∃ d2, d2 = d.setOd (0x2680 + n) 0x7C (s.dev.od (0x2680 + n) 0x7C + 1) := ⟨_, rfl⟩
  have hstrict : d2.strict n = s.dev.strict n := by
    rw [hd2]
    exact congrArg (· == 1) ((d.setOd_od_other _ (by decide) (by decide) (by simp)).trans (hod _ _))
  have hq2 : d2.queue n q = s.dev.queue n q := by rw [hd2]; exact hq
  refine ⟨{ s with dev := (d2.setQueue n q { s.dev.queue n q with job := some p, jobId := c.f 8 8 }).served n q }, ?_, ?_, ?_, rfl, ?_, ?_⟩
  · refine show execBeginJob n q p s = _ from s.go_to _ _ h.rests ((Dev.turnOf_rests _ _ _ _ (s.rests_ahead h.rests)).trans ?_)
      (by rw [hd2]; exact hquiet) (by rw [hd2]; exact hstores)
    have hread := s.dev.readList_reads s.env n q p ha hd0 h0 h64 hr hbad
    rw [← hd1] at hread
    unfold Dev.beginJob
    rw [h.started]
    dsimp only
    rw [hjob, hjour, if_neg (by simp), show (s.dev.strict n && JobSt.none == JobSt.restarting && (s.dev.jour n).q == q && (s.dev.jour n).pos == p) = false by
      simp, hread]
    dsimp only
    rw [d1.placeList_plain _ _ _ _ hreg1 hawait]
    dsimp only
    rw [if_neg (by rw [hroom1]; simp), hstrict1, hopen, if_neg (by decide), hcount, ← hd2, hq2]
    exact Dev.endCmd_served _ _ _ _ ((congrArg Queue.cmds (Dev.setQueue_queue _ _ _ _)).trans h.cmds) h.pos hf (by rw [h.op_]; decide)
  · refine (Dev.setQueue_queue _ _ _ _).trans ?_
    rw [Dev.setQueue_queue, show (d2.setQueue n q { s.dev.queue n q with job := some p, jobId := c.f 8 8 }).strict n = s.dev.strict n from hstrict]
    rfl
  · show d2.od _ _ = _
    rw [hd2, Dev.setOd_od]
  · intro hst
    show d2.jour n = _
    rw [hd2]
    exact hplain hst
  · intro hst
    show (d2.jour n).st = _ ∧ _
    rw [hd2]
    exact hopened hst

/-! ### END_JOB -/

theorem State.Stands.modCmd {s : State} {n q : Nat} {p : W32} {op : Nat} {c : Cmd} (h : s.Stands n q p op .started c) {d : Dev} (f : Cmd → Cmd)
    (hq : d.queue n q = s.dev.queue n q) : (d.modCmd n q p f).queue n q = { s.dev.queue n q with cmds := [f c] } := by
  refine (Dev.setQueue_queue _ _ _ _).trans ?_
  rw [hq, h.cmds]
  exact congrArg (fun l => { s.dev.queue n q with cmds := l }) (congrArg (· :: []) (if_pos h.pos))

/-- What is read and kept until all of it is there stands in the buffers alone. -/
theorem Dev.keepRead_trans (d : Dev) (w : Who) (sp dva : Nat) (bs : List Byte) : ∃ tr, d.keepRead w sp dva bs = { d with trans := tr } := by
  unfold Dev.keepRead
  generalize pageParts dva bs.length = l
  induction l generalizing d with
  | nil => exact ⟨d.trans, rfl⟩
  | cons x l ih => exact ih _

section
variable {n : Fin 16} {q : Fin 8} {p : W32} {c : Cmd} {bs : List Byte} {tr : Trans} {s : State}

/-- An END_JOB of a strict Bay whose list passes: the job closes, and the digests of its outputs are queued. -/
theorem endJob_closing (h : s.Stands n q p 7 .started c) (hjob : (s.dev.queue n q).job.isSome = true) (ha : c.f 0x10 8 % 32 = 0) (hd0 : c.f 0x10 8 < 2 ^ 57)
    (h0 : 0 < c.f 0x18 2) (h64 : c.f 0x18 2 ≤ 64) (hr : s.reads (.cmd (8 * n + q) p.toNat) n c.space (c.f 0x10 8) (32 * c.f 0x18 2) bs tr)
    (hbad : s.dev.listBad n true (opsOf bs) = none) (hstrict : s.dev.strict n = true) :
    ∃ t, exec (.endJob n q p) s = .next t ∧ (t.dev.queue n q) = (s.dev.running n q c).queue n q ∧
      unbound (t.dev.jour n).outputs = regionsOf bs ∧
      t.dev.jour n = { s.dev.jour n with closing := some p, outputs := (t.dev.jour n).outputs, outSpace := c.space } ∧ t.mem = s.mem := by
  obtain ⟨js, hjs, hre, hin⟩ := Dev.queueOutputs_bind n (List.range (regionsOf bs).length)
    (({ s.dev with trans := tr } : Dev).setJour n { s.dev.jour n with closing := some p, outputs := regionsOf bs, outSpace := c.space })
  rw [Dev.setJour_jour] at hre hin
  have hread := s.dev.readList_reads s.env n q p ha hd0 h0 h64 hr hbad
  obtain ⟨d, hd⟩ : ∃ d : Dev, d = { s.dev with trans := tr, journals := js } := ⟨_, rfl⟩
  have hq : d.queue n q = s.dev.queue n q := by rw [hd]; rfl
  refine ⟨{ s with dev := d.modCmd n q p fun c => { c with ph := .running } }, ?_, ?_, ?_, ?_, rfl⟩
  · refine show execEndJob n q p s = _ from s.go_to _ _ h.rests ?_ (by rw [hd]; exact s.rests_quiet h.rests) (by rw [hd]; exact s.rests_stores h.rests)
    unfold Dev.endJob
    rw [h.started]
    dsimp only
    rw [show (s.dev.queue n q).job.isNone = false by rw [← Option.not_isSome, hjob]; rfl, if_neg (by decide), hread]
    dsimp only
    rw [if_pos (show ({ s.dev with trans := tr } : Dev).strict n = true from hstrict),
      show ({ s.dev with trans := tr } : Dev).jour n = s.dev.jour n from rfl, hjs, hd]
    rfl
  · exact (h.modCmd _ hq).trans (Dev.setQueue_queue _ _ _ _).symm
  · show unbound (d.jour n).outputs = _
    rw [hd]
    exact hre.outputs.trans (unbound_regionsOf bs)
  · show d.jour n = { s.dev.jour n with closing := some p, outputs := (d.jour n).outputs, outSpace := c.space }
    rw [hd]
    show smGet {} js n = { s.dev.jour n with closing := some p, outputs := (smGet {} js n).outputs, outSpace := c.space }
    have hrest := hre.rest
    rw [hin] at hrest
    exact hrest

/-- An END_JOB of an open Bay whose list names one region, which is whole: the job is closed. -/
theorem endJob_ends {ob : List Byte} {r : JobRegion} {tr' : Trans} (h : s.Stands n q p 7 .started c) (hf : c.flag 0 = false) (hsnap : c.snap = [])
    (hjob : (s.dev.queue n q).job.isSome = true) (ha : c.f 0x10 8 % 32 = 0) (hd0 : c.f 0x10 8 < 2 ^ 57)
    (h0 : 0 < c.f 0x18 2) (h64 : c.f 0x18 2 ≤ 64) (hr : s.reads (.cmd (8 * n + q) p.toNat) n c.space (c.f 0x10 8) (32 * c.f 0x18 2) bs tr)
    (hbad : s.dev.listBad n true (opsOf bs) = none) (hstrict : s.dev.strict n = false) (hone : regionsOf bs = [r]) (hspar : r.spar = 0xFFFF)
    (hreg : s.readsAfter tr (.cmd (8 * n + q) p.toNat) n c.space r.dva r.len ob tr') :
    ∃ t, exec (.endJob n q p) s = .next t ∧
      (t.dev.queue n q) = { s.dev.queue n q with cmds := [], job := none, fr := (s.dev.queue n q).fe } ∧ t.mem = s.mem := by
  have hread := s.dev.readList_reads s.env n q p ha hd0 h0 h64 hr hbad
  obtain ⟨tr2, hkeep⟩ := ({ s.dev with trans := tr' } : Dev).keepRead_trans (.cmd (8 * n + q) p.toNat) c.space (c.f 0x10 8) bs
  obtain ⟨d, hd⟩ : ∃ d : Dev, d = (({ s.dev with trans := tr2 } : Dev).modCmd n q p fun c => { c with snap := c.snap ++ [(0, 0)] }).forget
      (· == .cmd (8 * n + q) p.toNat) := ⟨_, rfl⟩
  have hq : d.queue n q = { s.dev.queue n q with cmds := [{ c with snap := c.snap ++ [(0, 0)] }] } := by
    rw [hd]
    exact h.modCmd (d := { s.dev with trans := tr2 }) (fun c => { c with snap := c.snap ++ [(0, 0)] }) rfl
  have hst : d.strict n = false := by rw [hd]; exact hstrict
  have hquiet : d.quiet = true := by
    rw [hd, Dev.quiet_forget]
    exact s.rests_quiet h.rests
  have hstores : d.stores = [] := by
    rw [hd]
    exact s.rests_stores h.rests
  have hclear : d.clearJob n q = d.setQueue n q { d.queue n q with job := none, fr := (d.queue n q).fe } := by
    unfold Dev.clearJob Dev.moveFr
    rw [show (d.setQueue n q { d.queue n q with job := none }).strict n = false from hst, Dev.setQueue_queue, Dev.setQueue_setQueue]
    rfl
  have hend : (d.clearJob n q).endCmd s.env n q p .ok 0 .own = (d.clearJob n q).served n q :=
    Dev.endCmd_served (k := { c with snap := c.snap ++ [(0, 0)] }) _ _ _ _ (by rw [hclear, Dev.setQueue_queue, hq]) h.pos hf
      (show c.op ≠ 0x20 by rw [h.op_]; decide)
  refine ⟨{ s with dev := (d.clearJob n q).served n q }, ?_, ?_, rfl⟩
  · refine show execEndJob n q p s = _ from s.go_to _ _ h.rests ?_ (by rw [hclear]; exact hquiet)
      (by rw [hclear]; exact hstores)
    unfold Dev.endJob
    rw [h.started]
    dsimp only
    rw [show (s.dev.queue n q).job.isNone = false by rw [← Option.not_isSome, hjob]; rfl, if_neg (by decide), hread]
    dsimp only
    rw [if_neg (show ¬ ({ s.dev with trans := tr } : Dev).strict n = true by rw [show ({ s.dev with trans := tr } : Dev).strict n = false from hstrict]; decide),
      hone, hsnap]
    show (match ({ s.dev with trans := tr } : Dev).readRange s.env (.cmd (8 * n + q) p.toNat) n c.space r.dva r.len with
      | _ => _) = _
    rw [hreg]
    dsimp only
    rw [hspar, Dev.pulse_none, hkeep, if_neg (show ¬ ([] : List (Nat × Nat)).length + 1 < [r].length from Nat.lt_irrefl 1), ← hd, hend]
  · refine (Dev.setQueue_queue _ _ _ _).trans ?_
    rw [show (d.clearJob n q).strict n = false by rw [hclear]; exact hst, hclear, Dev.setQueue_queue, hq]
    rfl

end

/-- Settles O36: the list is read at once and passes; what a job changes stands in its queue, its counter and its journal. -/
theorem jobCommands : Obligations.JobCommands := by
  unfold Obligations.JobCommands
  refine ⟨fun n q p c bs tr s h hf hjob hjour ha hd h0 h64 hr hbad hreg hawait hroom hlt hfirst =>
    beginJob_opens n q p c bs tr s (State.stands_iff h) hf hjob hjour ha hd h0 h64 hr hbad hreg hawait hroom hlt hfirst,
    fun n q p c bs ob r tr tr' s h hf hsnap hjob ha hd h0 h64 hr hbad => ⟨fun hstrict => ?_, fun hstrict hone hspar hreg => ?_⟩⟩
  · exact endJob_closing (State.stands_iff h) hjob ha hd h0 h64 hr hbad hstrict
  · exact endJob_ends (State.stands_iff h) hf hsnap hjob ha hd h0 h64 hr hbad hstrict hone hspar hreg

end Sys2Proof.Machine
end

section
/-! PROOF. Function resets and controls (R157 to R185): O25. -/
namespace Sys2Proof.Machine

/-! ### Configuration accesses -/

section
variable {d : Dev} {e : Env} {fn tag : Nat}

/-- With none deferred, an access completes on its own. -/
theorem Dev.applyDeferred_none (h : d.link.deferred = []) : d.applyDeferred e = d := by
  unfold Dev.applyDeferred Dev.setLink
  rw [h, List.foldl_nil, ← h]

theorem Dev.cfgHere_up (h : d.cfgHere = true) : d.link.st = .up := by
  unfold Dev.cfgHere at h
  rw [Bool.and_eq_true, beq_iff_eq] at h
  exact h.1

theorem Dev.mayDefer_up (h : d.link.st = .up) : d.mayDefer = false := by
  unfold Dev.mayDefer
  rw [h]
  rfl

/-- A configuration write that completes has its effect, and its completion follows. -/
theorem Dev.cfgWrite_here (f : Dev → Dev) (h : d.cfgHere = true) (hide : d.link.ideBad = []) (hdef : d.link.deferred = []) (hfn : d.fnHere fn = true) :
    d.cfgWrite e fn tag f = (f d).hostSend (.cpl tag "OK" []) := by
  unfold Dev.cfgWrite
  rw [Dev.cfgHere_up h, Dev.insecure_none hide, if_neg (by decide), h, if_neg (by decide), Dev.applyDeferred_none hdef]
  exact if_pos hfn

end

/-- A row whose configuration write changes the link alone, and leaves it up. -/
theorem State.go_cfgWrite (s : State) (fn tag : Nat) (f : Dev → Dev) {l : Link} (hs : s.rests = true) (h : s.dev.cfgHere = true) (hide : s.dev.link.ideBad = [])
    (hdef : s.dev.link.deferred = []) (hfn : s.dev.fnHere fn = true) (hf : f s.dev = { s.dev with link := l }) (hst : l.st = s.dev.link.st)
    (hrecs : l.heldRecs = s.dev.link.heldRecs) :
    (s.go fun e d => d.cfgWrite e fn tag f) = .next { s with dev := ({ s.dev with link := l } : Dev).send (.cpl tag "OK" []) } := by
  refine s.go_to _ _ hs ?_ (Dev.quiet_link s.dev l (s.rests_quiet hs) hrecs) (s.rests_stores hs)
  rw [Dev.cfgWrite_here f h hide hdef hfn, hf]
  exact Dev.hostSend_up _ _ (hst.trans (Dev.cfgHere_up h)) rfl

/-! ### Enables and sizes -/

theorem Dev.flushVecs_none {d : Dev} (h : d.link.msixPend = []) : d.flushVecs = d := by
  unfold Dev.flushVecs
  rw [h]
  rfl

/-- With no Spar pending, no record held and no sink waiting, nothing is issued to a function whose bus mastering is enabled. -/
theorem Dev.issueHeld_none {d : Dev} (e : Env) (n : Nat) (hq : d.quiet = true) (hsink : (d.jour n).sinkAt = none) : d.issueHeld e n = d := by
  obtain ⟨-, -, -, -, hpend, hrecs, -⟩ := (Dev.quiet_iff d).mp hq
  have hspars : (d.spars.filter fun c => c.2.pend && d.sparBay c.1 == some n) = [] := by
    rw [List.filter_eq_nil_iff]
    intro c hc
    have := List.all_eq_true.mp hpend c hc
    simp_all
  unfold Dev.issueHeld
  rw [hspars, hrecs, hsink]
  rfl

theorem Dev.resumeAll_none {d : Dev} (e : Env) (f : Halt → Bool) (h : d.trans.halts = []) : d.resumeAll e f = d := by
  unfold Dev.resumeAll
  rw [h]
  rfl

theorem Dev.pumpPri_none {d : Dev} (e : Env) (h : d.trans.halts = []) : d.pumpPri e = d := by
  unfold Dev.pumpPri
  rw [h]
  rfl

section
variable {s : State} (hs : s.rests = true)
include hs

theorem busMasterEnableClear_clears (f : Fin 17) (tag : Nat) (h : s.dev.cfgHere = true) (hide : s.dev.link.ideBad = []) (hdef : s.dev.link.deferred = [])
    (hfn : s.dev.fnHere f = true) : exec (.busMasterEnableClear f tag) s =
      .next { s with dev := ({ s.dev with link := { s.dev.link with bme := listDel f s.dev.link.bme } } : Dev).send (.cpl tag "OK" []) } :=
  show execBusMasterEnableClear f s tag = _ from s.go_cfgWrite f tag _ hs h hide hdef hfn rfl rfl rfl

theorem busMasterEnableSet_sets (f : Fin 17) (tag : Nat) (h : s.dev.cfgHere = true) (hide : s.dev.link.ideBad = []) (hdef : s.dev.link.deferred = [])
    (hfn : s.dev.fnHere f = true) (hhalt : s.dev.trans.halts = []) (hpend : s.dev.link.msixPend = []) (hsink : ∀ n, (s.dev.jour n).sinkAt = none) :
    exec (.busMasterEnableSet f tag) s =
      .next { s with dev := ({ s.dev with link := { s.dev.link with bme := listIns f s.dev.link.bme } } : Dev).send (.cpl tag "OK" []) } := by
  refine show execBusMasterEnableSet f s tag = _ from (State.go_congr (s.rests_calm hs) ?_).trans
    (s.go_cfgWrite f tag (fun d => d.setLink { d.link with bme := listIns f d.link.bme }) hs h hide hdef hfn rfl rfl rfl)
  rw [Dev.cfgWrite_here _ h hide hdef hfn, Dev.cfgWrite_here _ h hide hdef hfn]
  refine congrArg (Dev.hostSend · _) ?_
  obtain ⟨d, hd⟩ : ∃ d, d = s.dev.setLink { s.dev.link with bme := listIns f s.dev.link.bme } := ⟨_, rfl⟩
  have hq : d.quiet = true := by rw [hd]; exact Dev.quiet_link s.dev _ (s.rests_quiet hs) rfl
  have hhalt' : d.trans.halts = [] := by rw [hd]; exact hhalt
  have hpend' : d.link.msixPend = [] := by rw [hd]; exact hpend
  have hsink' (n : Nat) : (d.jour n).sinkAt = none := by rw [hd]; exact hsink n
  dsimp only
  rw [← hd]
  split
  · exact Dev.flushVecs_none hpend'
  · rw [Dev.issueHeld_none _ _ hq (hsink' _), Dev.resumeAll_none _ _ hhalt', Dev.pumpPri_none _ hhalt']
    exact Dev.flushVecs_none hpend'

theorem vfResizableBarWrite_sizes (g tag : Nat) (h : s.dev.cfgHere = true) (hide : s.dev.link.ideBad = []) (hdef : s.dev.link.deferred = [])
    (hvf : s.dev.link.vfEnable = false) (hg : g ∈ [1, 2, 4, 8, 16, 32]) : exec (.vfResizableBarWrite g tag) s =
      .next { s with dev := ({ s.dev with link := { s.dev.link with barSize := g } } : Dev).send (.cpl tag "OK" []) } := by
  have hset (e : Env) : s.dev.setBarSize e g = { s.dev with link := { s.dev.link with barSize := g } } := by
    unfold Dev.setBarSize
    rw [hvf, if_neg (by decide), if_pos (by simpa [or_assoc] using hg)]
    rfl
  refine show execVfResizableBarWrite g s tag = _ from (State.go_congr (s.rests_calm hs) ?_).trans
    (s.go_cfgWrite 0 tag (fun d => d.setBarSize s.env g) hs h hide hdef rfl (hset _) rfl rfl)
  rw [Dev.mayDefer_up (Dev.cfgHere_up h)]
  rfl

theorem vfResizableBarWrite_defers (g tag : Nat) (h : s.dev.mayDefer = true) : exec (.vfResizableBarWrite g tag) s =
    .next { s with dev := { s.dev with link := { s.dev.link with deferred := s.dev.link.deferred ++ [.barSize g] } } } :=
  show execVfResizableBarWrite g s tag = _ from
    s.go_to _ _ hs (if_pos h) (Dev.quiet_link _ { s.dev.link with deferred := s.dev.link.deferred ++ [.barSize g] } (s.rests_quiet hs) rfl) (s.rests_stores hs)

theorem hdmDecoderCommit_judges (k : Fin 16) (base size : Nat) (h : s.dev.cfgHere = true) (hready : s.dev.boot.st = .ready) :
    exec (.hdmDecoderCommit k base size) s = .next { s with dev := s.dev.commitHdm k base size } := by
  refine show execHdmDecoderCommit k base size s = _ from s.go_to _ _ hs ?_ ?_ ?_
  · rw [Dev.mayDefer_up (Dev.cfgHere_up h), if_neg (by decide), h, hready]
    exact if_pos (by decide)
  · unfold Dev.commitHdm
    split <;> exact Dev.quiet_link _ _ (s.rests_quiet hs) rfl
  · unfold Dev.commitHdm
    split <;> exact s.rests_stores hs

theorem configRequest_identifies (tag : Nat) (f : Fin 17) (h : s.dev.cfgHere = true) (hide : s.dev.link.ideBad = []) (hdef : s.dev.link.deferred = [])
    (hfn : s.dev.fnHere f = true) : exec (.configRequest tag (.readIdentity f)) s = .next { s with dev := s.dev.send (.cpl tag "OK"
      (leBytes 2 Config.pciVendorId ++ leBytes 2 (if f.val = 0 then 0x0880 else 0x0881) ++ leBytes 1 0x20 ++ leBytes 3 0x120000)) } := by
  have hup := Dev.cfgHere_up h
  refine show execConfigRequest tag (.readIdentity f) s = _ from s.go_to _ _ hs ?_ (s.rests_quiet hs) (s.rests_stores hs)
  rw [Dev.mayDefer_up hup, Bool.false_and, if_neg (by decide), hup, Dev.insecure_none hide, if_neg (by decide), h, if_neg (by decide),
    Dev.applyDeferred_none hdef]
  show s.dev.cfgRead f tag _ = _
  unfold Dev.cfgRead
  rw [if_pos hfn]
  exact Dev.hostSend_up _ _ hup rfl

theorem configRequest_retries (tag : Nat) (op : CfgOp) (hup : s.dev.link.st = .up) (hide : s.dev.link.ideBad = []) (hready : s.dev.boot.st ≠ .ready)
    (hfailed : s.dev.boot.st ≠ .failed) : exec (.configRequest tag op) s = .next { s with dev := s.dev.send (.cpl tag "RRS" []) } := by
  have hnot : s.dev.cfgHere = false := by
    unfold Dev.cfgHere
    simp [hready, hfailed]
  refine show execConfigRequest tag op s = _ from s.go_to _ _ hs ?_ (s.rests_quiet hs) (s.rests_stores hs)
  rw [Dev.mayDefer_up hup, Bool.false_and, if_neg (by decide), hup, Dev.insecure_none hide, if_neg (by decide), hnot, if_pos (by decide)]
  exact Dev.hostSend_up _ _ hup rfl

end

/-! ### MSI-X masks -/

/-- A write of a vector's control word in the MSI-X table, with no vector pending. -/
theorem Dev.pageApply_unmask (d : Dev) (e : Env) (rt : Route) (fn : Nat) (v : Fin 8) (h : fn = 0 → v < 4) (hpend : d.link.msixPend = []) :
    d.pageApply e rt fn (0xD00C + 16 * v) (leBytes 4 0) = { d with link := { d.link with msixOpen := listIns (fn * 8 + v) d.link.msixOpen } } := by
  have hat : pageAt fn (0xD00C + 16 * v) = .msix := by
    unfold pageAt
    split
    · next h0 =>
      have := h h0
      unfold pfAt
      rw [if_neg (by simp; omega), if_neg (by simp; omega), if_neg (by simp; omega), if_pos (by simp; omega)]
    · unfold bayAt
      have := v.isLt
      rw [if_neg (by omega), if_neg (by omega), if_neg (by simp; omega), if_neg (by simp; omega), if_neg (by simp; omega), if_neg (by simp; omega),
        if_neg (by simp; omega), if_neg (by simp; omega), if_neg (by simp; omega), if_pos (by simp; omega)]
  have hone : (List.range ((leBytes 4 0).length / 4)).foldl (fun d i => d.msixWrite fn (0xD00C + 16 * v + 4 * i) (fld (leBytes 4 0) (4 * i) 4)) d =
      d.msixWrite fn (0xD00C + 16 * v) 0 := rfl
  unfold Dev.pageApply
  rw [hat]
  dsimp only
  rw [if_pos (by simp [leBytes_length]; omega), hone]
  unfold Dev.msixWrite
  rw [if_neg (by have := v.isLt; omega), show (0xD00C + 16 * v.val - 0xD000) / 16 = v by omega, show (0xD00C + 16 * v.val) % 16 / 4 = 3 by omega]
  exact Dev.flushVecs_none hpend

theorem msixUnmask_unmasks (f : Fin 17) (v : Fin 8) (s : State) (hs : s.rests = true) (hh : s.dev.hostHere f = true) (hpend : s.dev.link.msixPend = [])
    (hv : f = 0 → v < 4) (hf : s.dev.noFence f = true) : exec (.msixUnmask f (some v)) s =
      .next { s with dev := { s.dev with link := { s.dev.link with msixOpen := listIns (f * 8 + v) s.dev.link.msixOpen } } } := by
  refine show execMsixUnmask f (some v) s = _ from s.go_to _ _ hs ((Dev.turn_rests _ _ _ _ (s.rests_ahead hs)).trans ?_)
    (Dev.quiet_link _ { s.dev.link with msixOpen := listIns (f * 8 + v) s.dev.link.msixOpen } (s.rests_quiet hs) rfl) (s.rests_stores hs)
  dsimp only
  cases f using Fin.cases with
  | zero =>
    have hin : ¬ beyondPage 0 (0xD00C + 16 * v.val) (leBytes 4 0).length = true := by
      unfold beyondPage
      rw [leBytes_length, Nat.ble_eq_true_of_le (by omega)]
      simp
    show s.dev.hostPage s.env 0 (0xD00C + 16 * v) (leBytes 4 0) = _
    unfold Dev.hostPage
    rw [show s.dev.noFn 0 = false from Dev.noFn_here hh, if_neg (by decide), show s.dev.hostHere 0 = true from hh, if_neg (by decide), if_neg hin, if_neg (by omega)]
    exact s.dev.pageApply_unmask s.env .pf 0 v (fun _ => hv rfl) hpend
  | succ n =>
    rw [s.pageNow_vf hs (c := .msixUnmask n.succ (some v)) (n := n) rfl hh (by simp [leBytes]) (by rw [leBytes_length]; omega),
      Dev.fnWrite_now _ _ _ _ _ hf (by simp; omega)]
    exact s.dev.pageApply_unmask s.env _ (n + 1) v (fun h => by omega) hpend

theorem msixUnmask_enables (f : Fin 17) (s : State) (hs : s.rests = true) (hh : s.dev.hostHere f = true) (hpend : s.dev.link.msixPend = []) :
    exec (.msixUnmask f none) s = .next { s with dev := { s.dev with link := { s.dev.link with msixOn := listIns f s.dev.link.msixOn } } } := by
  refine show execMsixUnmask f none s = _ from s.go_to _ _ hs ((Dev.turn_rests _ _ _ _ (s.rests_ahead hs)).trans ?_)
    (Dev.quiet_link _ { s.dev.link with msixOn := listIns f s.dev.link.msixOn } (s.rests_quiet hs) rfl) (s.rests_stores hs)
  dsimp only
  rw [if_pos hh]
  exact Dev.flushVecs_none hpend

/-! ### Functions that are reset -/

/-- The link but for the functions that `p` names, whose bus mastering is off. -/
structure Link.Reset (l l' : Link) (p : Nat → Bool) : Prop where
  st : l'.st = l.st
  width : l'.width = l.width
  held : l'.heldRecs = l.heldRecs
  bme : l'.bme = l.bme.filter fun f => !p f

theorem Link.Reset.trans {a b c : Link} {p q : Nat → Bool} (h : a.Reset b p) (h' : b.Reset c q) : a.Reset c fun f => p f || q f :=
  ⟨h'.st.trans h.st, h'.width.trans h.width, h'.held.trans h.held, by
    rw [h'.bme, h.bme, List.filter_filter]
    exact List.filter_congr fun f _ => by cases p f <;> cases q f <;> rfl⟩

theorem Link.Reset.off {a b : Link} {p : Nat → Bool} (h : a.Reset b p) {f : Nat} (hf : p f = true) : b.bme.contains f = false := by
  rw [h.bme, List.contains_eq_mem, decide_eq_false_iff_not]
  simp [hf]

theorem Link.Reset.same {a b : Link} {p : Nat → Bool} (h : a.Reset b p) {f : Nat} (hf : p f = false) : b.bme.contains f = a.bme.contains f := by
  rw [h.bme, List.contains_eq_mem, List.contains_eq_mem]
  simp [hf]

/-- The reset of a VF while no page has been used. -/
theorem Dev.resetVf_unpaged (d : Dev) (e : Env) (n : Nat) (h : d.pages = []) :
    ∃ l t, d.resetVf e n = { d with link := l, trans := t } ∧ d.link.Reset l (· == n + 1) :=
  ⟨_, _, Dev.dropFences_unpaged _ e n h, rfl, rfl, rfl, rfl⟩

/-- The reset of several VFs while no page has been used. -/
theorem Dev.resetVfs_unpaged (ns : List Nat) (d : Dev) (e : Env) (h : d.pages = []) :
    ∃ l t, ns.foldl (fun d n => d.resetVf e n) d = { d with link := l, trans := t } ∧ d.link.Reset l fun f => ns.any (f == · + 1) := by
  induction ns generalizing d with
  | nil => exact ⟨d.link, d.trans, rfl, rfl, rfl, rfl, (List.filter_eq_self.mpr fun _ _ => rfl).symm⟩
  | cons n ns ih =>
    obtain ⟨l, t, hone, hl⟩ := d.resetVf_unpaged e n h
    obtain ⟨l', t', hmore, hl'⟩ := ih { d with link := l, trans := t } h
    rw [List.foldl_cons, hone]
    exact ⟨l', t', hmore, hl.trans hl'⟩

section
variable {s : State} (hs : s.rests = true) (h : s.dev.cfgHere = true) (hide : s.dev.link.ideBad = []) (hdef : s.dev.link.deferred = []) (hbays : s.dev.bays = [])
  (hpages : s.dev.pages = [])
include hs h hide hdef hbays hpages

theorem flrPf0_resets (tag : Nat) : ∃ t, exec (.flrPf0 tag) s = .next t ∧ t.dev.link.vfEnable = false ∧ t.dev.link.barSize = 1 ∧ t.dev.link.hdm = [] ∧
    t.dev.link.priEnable = false ∧ (∀ f, f ≤ 16 → t.dev.link.bme.contains f = false) ∧ t.dev.out = s.dev.out ++ [.cpl tag "OK" []] ∧
    t.dev.link.st = s.dev.link.st ∧ t.dev.link.width = s.dev.link.width ∧ t.mem = s.mem := by
  obtain ⟨l, tr, hvfs, hl⟩ := Dev.resetVfs_unpaged bays16 s.dev s.env hpages
  obtain ⟨l', hl', hpf⟩ : ∃ l', ({ s.dev with link := l, trans := tr } : Dev).resetPf = { s.dev with link := l', trans := tr } ∧
      (l'.vfEnable = false ∧ l'.barSize = 1 ∧ l'.hdm = [] ∧ l'.priEnable = false) ∧ l.Reset l' (· == 0) :=
    ⟨_, rfl, ⟨rfl, rfl, rfl, rfl⟩, rfl, rfl, rfl, rfl⟩
  obtain ⟨⟨hvf, hbar, hhdm, hpri⟩, hreset⟩ := hpf
  have hall := hl.trans hreset
  have hup := Dev.cfgHere_up h
  obtain ⟨sh, hsh⟩ : ∃ sh, ({ s.dev with link := l', trans := tr } : Dev).dropShadow 0 = { s.dev with link := l', trans := tr, shadows := sh } := ⟨_, rfl⟩
  refine ⟨{ s with dev := ({ s.dev with link := l', trans := tr, shadows := sh } : Dev).send (.cpl tag "OK" []) }, ?_, hvf, hbar, hhdm, hpri, fun f hf => ?_, rfl,
    hall.st, hall.width, rfl⟩
  · refine show execFlrPf0 s tag = _ from s.go_to _ _ hs ((Dev.turn_rests _ _ _ _ (s.rests_ahead hs)).trans ?_)
      (Dev.quiet_link { s.dev with trans := tr, shadows := sh } l' (s.rests_quiet hs) hall.held) (s.rests_stores hs)
    show s.dev.flrPf s.env tag = _
    unfold Dev.flrPf
    rw [Dev.cfgWrite_here _ h hide hdef rfl]
    dsimp only
    rw [s.dev.ownersLost_unclaimed _ hbays, hvfs, hl', hsh]
    exact Dev.hostSend_up _ _ (hall.st.trans hup) rfl
  · refine hall.off ?_
    interval_cases f <;> rfl

theorem vfEnableClear_resets (tag : Nat) (hvf : s.dev.link.vfEnable = true) : ∃ t, exec (.vfEnableClear tag) s = .next t ∧ t.dev.link.vfEnable = false ∧
    (∀ f, 1 ≤ f → f ≤ 16 → t.dev.link.bme.contains f = false) ∧ t.dev.link.bme.contains 0 = s.dev.link.bme.contains 0 ∧
    t.dev.out = s.dev.out ++ [.cpl tag "OK" []] ∧ t.mem = s.mem := by
  obtain ⟨l, tr, hvfs, hl⟩ := Dev.resetVfs_unpaged bays16 s.dev s.env hpages
  have hup := Dev.cfgHere_up h
  refine ⟨{ s with dev := ({ s.dev with link := { l with vfEnable := false }, trans := tr } : Dev).send (.cpl tag "OK" []) }, ?_, rfl, fun f h1 h16 => ?_, ?_,
    rfl, rfl⟩
  · refine show execVfEnableClear s tag = _ from s.go_to _ _ hs ((Dev.turn_rests _ _ _ _ (s.rests_ahead hs)).trans ?_)
      (Dev.quiet_link { s.dev with trans := tr } { l with vfEnable := false } (s.rests_quiet hs) hl.held) (s.rests_stores hs)
    show s.dev.vfEnableOff s.env tag = _
    unfold Dev.vfEnableOff
    rw [Dev.mayDefer_up hup, if_neg (by decide), Dev.cfgWrite_here _ h hide hdef rfl]
    unfold Dev.clearVfs
    rw [hvf, if_neg (by decide)]
    dsimp only
    rw [s.dev.ownersLost_unclaimed _ hbays, hvfs]
    exact Dev.hostSend_up _ _ (hl.st.trans hup) rfl
  · refine hl.off ?_
    interval_cases f <;> rfl
  · exact hl.same rfl

end

/-! ### Messages to the host -/

/-- The link but for what waits to go out. -/
def Link.unsent (l : Link) : Link := { l with held := [], msixPend := [] }

/-- The device has signalled the host: what goes out, and what waits to, alone differ. -/
def Dev.Signalled (d d' : Dev) : Prop := ∃ out l, d' = { d with out := out, link := l } ∧ l.unsent = d.link.unsent

theorem Dev.Signalled.trans {a b c : Dev} (h : a.Signalled b) (h' : b.Signalled c) : a.Signalled c := by
  obtain ⟨o, l, rfl, hl⟩ := h
  obtain ⟨o', l', rfl, hl'⟩ := h'
  exact ⟨o', l', rfl, hl'.trans hl⟩

theorem Dev.Signalled.quiet {d d' : Dev} (h : d.Signalled d') (hq : d.quiet = true) : d'.quiet = true := by
  obtain ⟨o, l, rfl, hl⟩ := h
  exact Dev.quiet_link { d with out := o } l hq (congrArg Link.heldRecs hl :)

theorem Dev.Signalled.bme {d d' : Dev} (h : d.Signalled d') : d'.link.bme = d.link.bme := by
  obtain ⟨o, l, rfl, hl⟩ := h
  exact (congrArg Link.bme hl :)

theorem Dev.hostSend_signals (d : Dev) (o : Out) : d.Signalled (d.hostSend o) := by
  unfold Dev.hostSend
  split
  · exact ⟨_, _, rfl, rfl⟩
  · split <;> exact ⟨_, _, rfl, rfl⟩

theorem Dev.raisePf_signals (d : Dev) (v : Nat) (h : d.attachMode ≠ 1) : d.Signalled (d.raisePf v) := by
  unfold Dev.raisePf Dev.pfMsg
  rw [if_neg (show ¬ (d.attachMode == 1) = true by simpa using h)]
  split
  · exact d.hostSend_signals _
  · exact ⟨_, _, rfl, rfl⟩

theorem Dev.raiseBay_signals (d : Dev) (n v : Nat) (h : d.bayEvt n = false) : d.Signalled (d.raiseBay n v) := by
  unfold Dev.raiseBay Dev.bayMsg
  rw [if_neg (show ¬ d.bayEvt n = true by rw [h]; exact Bool.false_ne_true)]
  split
  · exact d.hostSend_signals _
  · split <;> exact ⟨_, _, rfl, rfl⟩

/-! ### Records of the fault log -/

/-- A fault record moves the log and the counters alone. -/
theorem Dev.logRec_keeps {α : Type} (g : Dev → α) (hs : ∀ (d : Dev) i j v, g (d.setOd i j v) = g d) (hf : ∀ (d : Dev) k, g { d with free := k } = g d)
    (hl : ∀ (d : Dev) l k, g { d with flog := l, flogSeq := k } = g d) (d : Dev) (e : Env) (f : FRec) : g (d.logRec e f) = g d := by
  unfold Dev.logRec
  rw [Dev.count_keeps g hs hf]
  unfold Dev.setLog
  dsimp only
  rw [Dev.foldl_keeps g fun d x => ?_]
  · exact hl d _ _
  · split
    · exact hs _ _ _ _
    · rfl

/-- An event moves the fault log and the counters alone. -/
theorem Dev.event_spec (d : Dev) (e : Env) (n cause : Nat) : ∃ srv fl k, d.event e n cause = { d with srv := srv, flog := fl, flogSeq := d.flogSeq + 1, free := k } ∧
    ∀ i j, j < 256 → ¬ logEntry i j → (d.event e n cause).od i j = d.od i j := by
  have hrest : ({ d.event e n cause with srv := {}, flog := [], flogSeq := 0, free := 0 } : Dev) = { d with srv := {}, flog := [], flogSeq := 0, free := 0 } :=
    Dev.logRec_keeps (fun d => ({ d with srv := {}, flog := [], flogSeq := 0, free := 0 } : Dev)) (fun _ _ _ _ => rfl) (fun _ _ => rfl) (fun _ _ _ => rfl) d e _
  have hseq : (d.event e n cause).flogSeq = d.flogSeq + 1 := Dev.logRec_flogSeq _ _ _
  have hod (i j : Nat) (hj : j < 256) (h : ¬ logEntry i j) : (d.event e n cause).od i j = d.od i j := Dev.logRec_od _ _ _ hj h
  generalize d.event e n cause = x at hrest hseq hod
  refine ⟨x.srv, x.flog, x.free, ?_, hod⟩
  rw [← hseq]
  have h := congrArg (fun y : Dev => ({ y with srv := x.srv, flog := x.flog, flogSeq := x.flogSeq, free := x.free } : Dev)) hrest
  exact h

/-! ### A Bay with no work under way -/

/-- What `Dev.unworked` says of the parts that the end of a Bay's work touches. -/
structure Dev.Unworked (d : Dev) : Prop where
  queues : ∀ c ∈ d.queues, c.2.cmds = [] ∧ c.2.job = none
  gutters : ∀ c ∈ d.gutters, c.2.st ≠ .running
  courses : ∀ c ∈ d.courses, c.2.st = .idle
  chains : d.chains = []
  prepared : d.prepared = []
  engines : ∀ c ∈ d.engines, c.2.run = none
  journals : d.journals = []
  trans : d.trans = { tlb := d.trans.tlb, wcache := d.trans.wcache, micro := d.trans.micro, stamp := d.trans.stamp, nextWalk := d.trans.nextWalk,
                      windows := d.trans.windows }
  proxy : d.ridge.proxy = []
  proxyWait : d.ridge.proxyWait = []
  reqs : d.link.reqs = []

theorem Dev.unworked_spec {d : Dev} (h : d.unworked = true) : d.Unworked := by
  unfold Dev.unworked at h
  simp only [Bool.and_eq_true, List.all_eq_true, List.isEmpty_iff, beq_iff_eq, decide_eq_true_eq, Bool.or_eq_true, Option.isNone_iff_eq_none, Bool.not_eq_true',
    and_assoc] at h
  obtain ⟨hq, hg, hc, hch, hpr, -, -, he, -, hj, htr, -, -, -, -, -, hp, hpw, hrq, -, -, -, -⟩ := h
  have hgut (c) (hc : c ∈ d.gutters) (h : c.2.st = .running) : False := by
    rcases hg c hc with h' | h' <;> exact absurd (h.symm.trans h') (by decide)
  exact ⟨fun c hc => ⟨(hq c hc).1, (hq c hc).2.1⟩, hgut, hc, hch, hpr,
    fun c hc => (he c hc).2.1, hj, htr, hp, hpw, hrq⟩

/-- A device with the parts that the end of a Bay's work touches as they were has no work under way either. -/
theorem Dev.Unworked.congr {d d' : Dev} (h : d.Unworked) (hq : d'.queues = d.queues) (hg : d'.gutters = d.gutters) (hc : d'.courses = d.courses)
    (hch : d'.chains = d.chains) (hpr : d'.prepared = d.prepared) (he : d'.engines = d.engines) (hj : d'.journals = d.journals) (ht : d'.trans = d.trans)
    (hr : d'.ridge = d.ridge) (hl : d'.link.reqs = d.link.reqs) : d'.Unworked :=
  ⟨hq ▸ h.queues, hg ▸ h.gutters, hc ▸ h.courses, hch.trans h.chains, hpr.trans h.prepared, he ▸ h.engines, hj.trans h.journals, ht ▸ h.trans,
    hr ▸ h.proxy, hr ▸ h.proxyWait, hl.trans h.reqs⟩

theorem Dev.Unworked.halts {d : Dev} (h : d.Unworked) : d.trans.halts = [] := by rw [h.trans]

theorem Dev.Unworked.hostBusy {d : Dev} (h : d.Unworked) (n : Nat) : d.hostBusy n = [] := by
  unfold Dev.hostBusy
  rw [h.reqs, show d.trans.treqs = [] by rw [h.trans], h.proxyWait]
  simp only [List.filterMap_nil, List.nil_append, List.append_eq_nil_iff, List.filterMap_eq_nil_iff]
  refine ⟨⟨fun c hc => if_neg ?_, fun c hc => if_neg ?_⟩, fun c hc => ?_⟩
  · simp [h.gutters c hc]
  · simp [h.courses c hc]
  · rw [h.engines c hc]
    rfl

/-- A Bay without work that parks has none to halt. -/
theorem Dev.parkWork_unworked {d : Dev} (h : d.Unworked) (e : Env) (n : Nat) : d.parkWork e n = d := by
  have htrans : d.setTrans { d.trans with
      prgs := d.trans.prgs.filter (·.bay != n)
      halts := d.trans.halts.map fun (h : Halt) => (if h.bay = n && (h.cause = 2 || h.cause = 4) then { h with cause := 5 } else h : Halt) } = d := by
    unfold Dev.setTrans
    rw [h.trans]
    show ({ d with trans := { tlb := d.trans.tlb, wcache := d.trans.wcache, micro := d.trans.micro, stamp := d.trans.stamp, nextWalk := d.trans.nextWalk,
                              windows := d.trans.windows } } : Dev) = d
    rw [← h.trans]
  unfold Dev.parkWork
  rw [htrans]
  dsimp only
  rw [h.halts, List.foldl_nil, h.hostBusy, List.foldl_nil]
  exact Dev.pumpPri_none e h.halts

/-! ### A Bay without work that drains -/

/-- The link but for what waits to go out and for the requests of the device. -/
def Link.unasked (l : Link) : Link := { l with held := [], msixPend := [], rx := [], reqs := [] }

/-- The device but for its Bays, for the parts that hold the work of its Bays, and for what goes out. -/
def Dev.unstopped (d : Dev) : Dev :=
  { d with
    srv := {}, bays := [], link := d.link.unasked, shadows := [], trans := {}, ridge := { d.ridge with txns := [], waiting := [], fresh := [], away := [], l2out := [], proxyWait := [] }
    queues := [], gutters := [], courses := [], chains := [], prepared := [], runs := [], cores := [], engines := [], tasks := [], arrays := []
    fabric := { d.fabric with acks := [], remotes := [] }, regions := [], qps := [], places := [], ckpts := [], out := [], free := 0 }

theorem Dev.unstopped_signalled {d d' : Dev} (h : d.Signalled d') : d'.unstopped = d.unstopped := by
  obtain ⟨o, l, rfl, hl⟩ := h
  have hl' : l.unasked = d.link.unasked := (congrArg (fun l : Link => ({ l with rx := [], reqs := [] } : Link)) hl :)
  exact congrArg (fun l => ({ d.unstopped with link := l } : Dev)) hl'

/-- The end of a Bay's operations, where it has none. -/
theorem Dev.stopOps_unworked {d : Dev} (h : d.Unworked) (t n : Nat) (sel : Nat → Bool) : (d.stopOps t n sel).unstopped = d.unstopped ∧
    (d.stopOps t n sel).bays = d.bays ∧ (d.stopOps t n sel).queues = d.queues ∧ (d.stopOps t n sel).srv = d.srv ∧
    (d.stopOps t n sel).places = d.places ∧ (d.stopOps t n sel).ckpts = d.ckpts ∧ (d.stopOps t n sel).trans.invals = [] := by
  have hloads : ((d.courses.any fun c => (c.2.bay == n && sel c.2.q) && c.2.st != .idle && !c.2.loads.isEmpty) ||
      ((d.chains ++ d.prepared).any fun c => (c.bay == n && sel c.q) && !c.loads.isEmpty)) = false := by
    rw [h.chains, h.prepared]
    simp only [List.append_nil, List.any_nil, Bool.or_false, List.any_eq_false]
    intro c hc
    simp [h.courses c hc]
  have hinv : d.trans.invals = [] := by rw [h.trans]
  refine ⟨?_, rfl, rfl, rfl, rfl, rfl, hinv⟩
  have hrel : (d.stopOps t n sel).released = d.released := (congrArg (d.released || ·) hloads).trans (Bool.or_false _)
  exact congrArg (fun b => ({ d.unstopped with released := b } : Dev)) hrel

/-- The end of a Bay's commands, where its queues hold none. -/
theorem Dev.endCmds_unworked {d : Dev} (h : ∀ c ∈ d.queues, c.2.cmds = []) (e : Env) (n : Nat) : ∃ qs, d.endCmds e n = { d with queues := qs } := by
  have hone (d : Dev) (q : Nat) (h : ∀ q, (d.queue n q).cmds = []) :
      (let x := d.queue n q
       let d := x.cmds.foldl (fun d c => ((d.dropCmd n q c.pos).runDone n c).addRecord e n q c .state 0 false false) d
       let x := d.queue n q
       d.setQueue n q { x with fe := x.p, fr := x.p, walk := false }) =
      d.setQueue n q { d.queue n q with fe := (d.queue n q).p, fr := (d.queue n q).p, walk := false } := by
    have hnone : (d.queue n q).cmds.foldl (fun d c => ((d.dropCmd n q c.pos).runDone n c).addRecord e n q c .state 0 false false) d = d := by
      rw [h q]
      rfl
    dsimp only
    rw [hnone]
  have hall (l : List Nat) (d : Dev) (h : ∀ q, (d.queue n q).cmds = []) : ∃ qs, l.foldl (fun d q =>
      let x := d.queue n q
      let d := x.cmds.foldl (fun d c => ((d.dropCmd n q c.pos).runDone n c).addRecord e n q c .state 0 false false) d
      let x := d.queue n q
      d.setQueue n q { x with fe := x.p, fr := x.p, walk := false }) d = { d with queues := qs } := by
    induction l generalizing d with
    | nil => exact ⟨_, rfl⟩
    | cons q l ih =>
      rw [List.foldl_cons, hone d q h]
      refine (ih (d.setQueue n q { d.queue n q with fe := (d.queue n q).p, fr := (d.queue n q).p, walk := false }) fun r => ?_)
      show (smGet {} (smSet {} d.queues _ _) _).cmds = []
      rw [smGet_set]
      split
      · exact h q
      · exact h r
  refine hall _ d fun q => ?_
  have := smGet_all ({} : Queue) (fun x => x.cmds.isEmpty) rfl d.queues (List.all_eq_true.mpr fun c hc => by rw [h c hc]; rfl) (8 * n + q)
  exact List.isEmpty_iff.mp this

/-- The end of a Bay's work, where it has none. -/
theorem Dev.stopWork_unworked {d : Dev} (h : d.Unworked) (hck : d.ckpts = []) (e : Env) (n : Nat) : (d.stopWork e n).unstopped = d.unstopped ∧
    (d.stopWork e n).bays = d.bays ∧ (d.stopWork e n).srv = d.srv ∧ (d.stopWork e n).places = d.places ∧ (d.stopWork e n).ckpts = [] := by
  obtain ⟨hrest, hbays, hqueues, hsrv, hplaces, hckpts, hinv⟩ := Dev.stopOps_unworked h e.time n fun _ => true
  unfold Dev.stopWork
  generalize d.stopOps e.time n (fun _ => true) = x at hrest hbays hqueues hsrv hplaces hckpts hinv
  obtain ⟨qs, hqs⟩ := Dev.endCmds_unworked (d := x) (fun c hc => (h.queues c (hqueues ▸ hc)).1) e n
  have hzero : ({ x with queues := qs } : Dev).trans.invals.filter (fun i => i.bay == n && !i.ats) = [] := by
    show x.trans.invals.filter _ = []
    rw [hinv]
    rfl
  dsimp only
  rw [hqs, hzero, List.length_nil, if_pos rfl]
  refine ⟨hrest, hbays, hsrv, hplaces, ?_⟩
  show smDel x.ckpts n = []
  rw [hckpts, hck]
  rfl

theorem Dev.bay_setBay (d : Dev) (n m : Nat) (b : Bay) : (d.setBay n b).bay m = if m = n then b else d.bay m :=
  smGet_set ({} : Bay) ..

theorem Dev.setBay_setBay (d : Dev) (n : Nat) (x y : Bay) : (d.setBay n x).setBay n y = d.setBay n y :=
  congrArg (fun m => ({ d with bays := m } : Dev)) (smSet_smSet ({} : Bay) ..)

/-- What one part of the end of a Bay's work leaves: the Bays, and all that `Dev.unstopped` keeps. -/
structure Dev.Stopped (d d' : Dev) : Prop where
  rest : d'.unstopped = d.unstopped
  srv : ∃ od, d'.srv = { d.srv with od := od }
  places : d'.places = d.places
  ckpts : d'.ckpts = d.ckpts
  bay : ∀ m, d'.bay m = d.bay m
  od : ∀ k j, k < 0x2A60 → j < 256 → d'.od k j = d.od k j

namespace Dev.Stopped

theorem refl (d : Dev) : d.Stopped d := ⟨rfl, ⟨_, rfl⟩, rfl, rfl, fun _ => rfl, fun _ _ _ _ => rfl⟩

theorem trans {a b c : Dev} (h : a.Stopped b) (h' : b.Stopped c) : a.Stopped c := by
  obtain ⟨o, ho⟩ := h.srv
  obtain ⟨o', ho'⟩ := h'.srv
  exact ⟨h'.rest.trans h.rest, ⟨o', by rw [ho', ho]⟩, h'.places.trans h.places, h'.ckpts.trans h.ckpts, fun m => (h'.bay m).trans (h.bay m),
    fun k j hk hj => (h'.od k j hk hj).trans (h.od k j hk hj)⟩

/-- One Bay's own change goes through it. -/
theorem setBay {d d' : Dev} (h : d.Stopped d') (n : Nat) (b : Bay) : (d.setBay n b).Stopped (d'.setBay n b) :=
  ⟨h.rest, h.srv, h.places, h.ckpts, fun m => by rw [Dev.bay_setBay, Dev.bay_setBay, h.bay], h.od⟩

theorem signalled {d d' : Dev} (h : d.Signalled d') : d.Stopped d' := by
  have hrest := Dev.unstopped_signalled h
  obtain ⟨o, l, rfl, hl⟩ := h
  exact ⟨hrest, ⟨_, rfl⟩, rfl, rfl, fun _ => rfl, fun _ _ _ _ => rfl⟩

/-- What is quiet stays so. -/
theorem quiet {d d' : Dev} (h : d.Stopped d') (hq : d.quiet = true) : d'.quiet = true := by
  have hx := h.rest
  obtain ⟨q1, q2, q3, q4, q5, q6, q7, q8, q9⟩ := (Dev.quiet_iff d).mp hq
  refine (Dev.quiet_iff d').mpr ⟨?_, h.places.trans q2, ?_, h.ckpts.trans q4, ?_, ?_, ?_, ?_, ?_⟩
  · exact (congrArg (fun x : Dev => x.pages.all fun c => c.2.sky.isEmpty) hx).trans q1
  · exact (congrArg Dev.faults hx).trans q3
  · exact (congrArg (fun x : Dev => x.spars.all fun c => !c.2.pend) hx).trans q5
  · exact (congrArg (fun x : Dev => x.link.heldRecs) hx).trans q6
  · exact (congrArg (fun x : Dev => x.fabric.ports.all fun c => c.2.still) hx).trans q7
  · exact (congrArg (fun x : Dev => x.board.smbSeen) hx).trans q8
  · exact (congrArg Dev.released hx).trans q9

end Dev.Stopped

/-- A Bay's regions go; with no placement under way nothing is answered. -/
theorem Dev.dropRegions_stopped {d : Dev} (n : Nat) (h : d.places = []) : d.Stopped (d.dropRegions n) := by
  have hfold (l : List Nat) (hi : ∀ i ∈ l, 9 + i < 256) (x : Dev) :
      x.Stopped (l.foldl (fun d i => d.setOd (0x2A60 + n) (9 + i) (odDefault (0x2A60 + n) (9 + i))) x) := by
    induction l generalizing x with
    | nil => exact .refl x
    | cons i l ih =>
      rw [List.foldl_cons]
      refine Dev.Stopped.trans ?_ (ih (fun j hj => hi j (List.mem_cons_of_mem _ hj)) _)
      exact ⟨rfl, ⟨_, rfl⟩, rfl, rfl, fun _ => rfl, fun k j hk hj => Dev.setOd_od_other _ _ hj (hi i List.mem_cons_self) (by simp; omega)⟩
  obtain ⟨rs, qs, hx⟩ : ∃ rs qs, d.dropRegions n = (List.range 8).foldl (fun d i => d.setOd (0x2A60 + n) (9 + i) (odDefault (0x2A60 + n) (9 + i)))
      { d with regions := rs, places := [], qps := qs } := by
    unfold Dev.dropRegions
    rw [h]
    exact ⟨_, _, rfl⟩
  have hgone : d.Stopped { d with regions := rs, places := [], qps := qs } := ⟨rfl, ⟨_, rfl⟩, h.symm, rfl, fun _ => rfl, fun _ _ _ _ => rfl⟩
  rw [hx]
  exact hgone.trans (hfold _ (fun i hi => by have := List.mem_range.mp hi; omega) _)

/-- Where no line is shown, the scrub of granules begins with none. -/
theorem Dev.scrubStart_unshown {d : Dev} (e : Env) (rs : List Rng) (h : d.shownLines e (fun _ => true) = []) : d.Stopped (d.scrubStart e rs) := by
  have hnone : d.shownLines e (fun l => rs.any fun r => r.has (granule (l * 64))) = [] := by
    unfold Dev.shownLines at h ⊢
    rw [List.append_eq_nil_iff, List.filterMap_eq_nil_iff, List.filterMap_eq_nil_iff] at h ⊢
    obtain ⟨hdir, hmem⟩ := h
    refine ⟨fun c hc => ?_, fun c hc => ?_⟩
    · have := hdir c hc
      simp only [Bool.and_true, ite_eq_right_iff, reduceCtorEq, imp_false] at this ⊢
      simp_all
    · have := hmem c hc
      simp only [Bool.and_true, ite_eq_right_iff, reduceCtorEq, imp_false] at this ⊢
      simp_all
  have hnone' : (d.setRidge { d.ridge with waiting := d.ridge.waiting.filter fun w => !(w.2.self && rs.any fun r => r.has (granule (w.1 * 64))) }).shownLines e
      (fun l => rs.any fun r => r.has (granule (l * 64))) = [] := hnone
  unfold Dev.scrubStart
  dsimp only
  rw [hnone']
  exact ⟨rfl, ⟨_, rfl⟩, rfl, rfl, fun _ => rfl, fun _ _ _ _ => rfl⟩

theorem Dev.stopWork_stopped {d : Dev} (h : d.Unworked) (hck : d.ckpts = []) (e : Env) (n : Nat) : d.Stopped (d.stopWork e n) := by
  obtain ⟨hrest, hbays, hsrv, hplaces, hckpts⟩ := Dev.stopWork_unworked h hck e n
  exact ⟨hrest, ⟨_, hsrv⟩, hplaces, hckpts.trans hck.symm, fun m => by unfold Dev.bay; rw [hbays], fun k j _ _ => by unfold Dev.od; rw [hsrv]⟩

/-- A Bay that drains. -/
def Bay.draining (b : Bay) (t : Nat) (toFree : Bool) : Bay :=
  { b with st := .draining, toFree := toFree, scrubbing := false, drainAt := t, toParked := b.st == .parked && !toFree, hold := if toFree then none else b.hold }

/-- A Bay without work drains: its state alone changes, beside the regions and what waits at the homes of its lines. -/
theorem Dev.drain_unworked {d : Dev} (h : d.Unworked) (hq : d.quiet = true) (e : Env) (n : Nat) (toFree : Bool) (hmode : d.attachMode ≠ 1)
    (hshown : toFree = true → d.shownLines e (fun _ => true) = []) : (d.setBay n ((d.bay n).draining e.time toFree)).Stopped (d.drain e n toFree 0 0) := by
  obtain ⟨-, hplaces, -, hckpts, -⟩ := (Dev.quiet_iff d).mp hq
  have hstop := Dev.stopWork_stopped h hckpts e n
  have hjobs (l : List Nat) (x : Dev) : x.Stopped (l.foldl (fun d q =>
      let x := d.queue n q
      if x.job.isSome then d.setQueue n q { x with job := none } else d) x) := by
    induction l generalizing x with
    | nil => exact .refl x
    | cons q l ih =>
      rw [List.foldl_cons]
      refine Dev.Stopped.trans ?_ (ih _)
      dsimp only
      split <;> exact ⟨rfl, ⟨_, rfl⟩, rfl, rfl, fun _ => rfl, fun _ _ _ _ => rfl⟩
  have hx2 := hstop.trans (hjobs (List.range 8) (d.stopWork e n))
  obtain ⟨x2, hx2'⟩ : ∃ x2, (List.range 8).foldl (fun d q =>
      let x := d.queue n q
      if x.job.isSome then d.setQueue n q { x with job := none } else d) (d.stopWork e n) = x2 := ⟨_, rfl⟩
  rw [hx2'] at hx2
  have hjour : (x2.jour n).st = .none := by
    unfold Dev.jour
    rw [show x2.journals = d.journals from (congrArg Dev.journals hx2.rest :), h.journals]
    rfl
  have habandon : (if x2.strict n then x2.abandon e n 1 0 0 else x2) = x2 := by
    split
    · exact if_pos (by rw [hjour]; rfl)
    · rfl
  -- the Bay's state
  obtain ⟨b0, hb0⟩ : ∃ b0 : Bay, b0 = { d.bay n with st := .draining } := ⟨_, rfl⟩
  have hx4 : (d.setBay n b0).Stopped (x2.toState n .draining) := by
    refine (hx2.setBay n b0).trans (Dev.Stopped.signalled ?_)
    unfold Dev.toState
    rw [hx2.bay n, ← hb0]
    refine Dev.raisePf_signals _ 3 ?_
    show x2.attachMode ≠ 1
    unfold Dev.attachMode
    rw [show x2.board = d.board from (congrArg Dev.board hx2.rest :)]
    exact hmode
  have hx6 : (d.setBay n b0).Stopped (((x2.toState n .draining).dropShadow (n + 1)).evictProxy n) := by
    have hshadow : (x2.toState n .draining).Stopped ((x2.toState n .draining).dropShadow (n + 1)) := ⟨rfl, ⟨_, rfl⟩, rfl, rfl, fun _ => rfl, fun _ _ _ _ => rfl⟩
    have hproxy : ((x2.toState n .draining).dropShadow (n + 1)).ridge.proxy = [] :=
      (congrArg (fun x : Dev => x.ridge.proxy) (hx4.trans hshadow).rest).trans h.proxy
    unfold Dev.evictProxy
    rw [hproxy]
    exact hx4.trans hshadow
  have hx7 := hx6.trans (Dev.dropRegions_stopped n (hx6.places.trans hplaces))
  obtain ⟨x7, hx7'⟩ : ∃ x7, (((x2.toState n .draining).dropShadow (n + 1)).evictProxy n).dropRegions n = x7 := ⟨_, rfl⟩
  rw [hx7'] at hx7
  have hbay : x7.bay n = b0 := (hx7.bay n).trans (d.setBay_bay n b0)
  have hlast : (d.setBay n ((d.bay n).draining e.time toFree)).Stopped (x7.setBay n ((d.bay n).draining e.time toFree)) := by
    have := hx7.setBay n ((d.bay n).draining e.time toFree)
    rw [Dev.setBay_setBay] at this
    exact this
  have hdrain : d.drain e n toFree 0 0 = if toFree then (x7.setBay n ((d.bay n).draining e.time toFree)).scrubStart e [b0.held.hbm] else
      x7.setBay n ((d.bay n).draining e.time toFree) := by
    unfold Dev.drain
    dsimp only
    rw [hx2', habandon, hx7', hbay, hb0]
    rfl
  rw [hdrain]
  split
  · next hfree =>
    refine hlast.trans (Dev.scrubStart_unshown e _ ?_)
    have hdir : (x7.setBay n ((d.bay n).draining e.time toFree)).ridge.dir = d.ridge.dir := (congrArg (fun x : Dev => x.ridge.dir) hlast.rest :)
    have hsame : (x7.setBay n ((d.bay n).draining e.time toFree)).shownLines e (fun _ => true) = d.shownLines e (fun _ => true) := by
      unfold Dev.shownLines Dev.dir
      rw [hdir]
    rw [hsame]
    exact hshown hfree
  · exact hlast

/-! ### The reset of a VF (R143 to R146, R166) -/

/-- A Bay is owned through its VF as long as the entry that says so, and the attach mode, are the same. -/
theorem Dev.bayEvt_vf {d d' : Dev} {n : Nat} (h : d.ownerLink n = 0) (hboard : d'.board = d.board) (hod : d'.od (0x2100 + n) 5 = d.od (0x2100 + n) 5) :
    d'.bayEvt n = false := by
  have hlink : d'.ownerLink n = d.ownerLink n := by
    unfold Dev.ownerLink Dev.attachMode
    rw [hod, hboard]
  unfold Dev.bayEvt
  rw [hlink, h]
  rfl

/-- A Bay without work parks: the hold time starts, the event is recorded and the host is told. -/
theorem Dev.park_unworked {d : Dev} (h : d.Unworked) (e : Env) (n : Fin 16) {hold : Nat} (hmode : d.attachMode ≠ 1) (howner : d.ownerLink n = 0)
    (hhold : (d.bay n).hold = none) (htime : e.time + d.od (0x2100 + n) 0x1A * 1000000000 = hold) :
    ∃ srv fl k out l, d.park e n = { d.setBay n { d.bay n with st := .parked, hold := some hold } with
      srv := srv, flog := fl, flogSeq := d.flogSeq + 1, free := k, out := out, link := l } ∧ l.unsent = d.link.unsent := by
  obtain ⟨b0, hb0⟩ : ∃ b0 : Bay, b0 = { d.bay n with st := .parked } := ⟨_, rfl⟩
  obtain ⟨out, l, hpf, hl⟩ := (d.setBay n b0).raisePf_signals 3 hmode
  have hstate : d.toState n .parked = { d.setBay n b0 with out := out, link := l } := by
    rw [hb0] at hpf ⊢
    exact hpf
  obtain ⟨x, hx⟩ : ∃ x, d.toState n .parked = x := ⟨_, rfl⟩
  have hod : x.od (0x2100 + n) 0x1A = d.od (0x2100 + n) 0x1A := by rw [← hx, hstate]; rfl
  have hbay : x.bay n = b0 := by rw [← hx, hstate]; exact d.setBay_bay n b0
  have hset : x.setBay n { b0 with hold := some hold } = { d.setBay n { b0 with hold := some hold } with out := out, link := l } := by
    rw [← hx, hstate]
    exact congrArg (fun m => ({ d with bays := m, out := out, link := l } : Dev)) (smSet_smSet ({} : Bay) d.bays n b0 { b0 with hold := some hold })
  obtain ⟨y, hy⟩ : ∃ y : Dev, y = { d.setBay n { b0 with hold := some hold } with out := out, link := l } := ⟨_, rfl⟩
  have hun : y.Unworked := by
    rw [hy]
    exact h.congr rfl rfl rfl rfl rfl rfl rfl rfl rfl (congrArg Link.reqs hl :)
  obtain ⟨srv, fl, k, hevent, hod'⟩ := y.event_spec e n 2
  have hevt : (y.event e n 2).bayEvt n = false :=
    Dev.bayEvt_vf howner (by rw [hevent, hy]; rfl) ((hod' _ _ (by decide) (by unfold logEntry; omega)).trans (by rw [hy]; rfl))
  obtain ⟨out', l', hraise, hl'⟩ := Dev.raiseBay_signals _ n 4 hevt
  refine ⟨srv, fl, k, out', l', ?_, ?_⟩
  · unfold Dev.park
    dsimp only
    rw [hx, hod, hbay, htime, show b0.hold = none by rw [hb0]; exact hhold, Option.getD_none, hset, ← hy, Dev.parkWork_unworked hun, hraise, hevent, hy, hb0]
    rfl
  · rw [hevent, hy] at hl'
    exact hl'.trans hl

section
variable {n : Fin 16} {s : State} (hs : s.rests = true) (h : s.dev.cfgHere = true) (hide : s.dev.link.ideBad = []) (hdef : s.dev.link.deferred = [])
  (hvf : s.dev.link.vfEnable = true) (howner : s.dev.ownerLink n = 0) (hpages : s.dev.pages = [])
include hs h hide hdef hvf howner hpages

/-- The reset of a VF is the loss of its Bay's owner link, and what it leaves of the function. -/
theorem flrVf_loses (tag : Nat) {d : Dev} (hloss : s.dev.ownerLoss s.env n = d) (hp : d.pages = s.dev.pages) (hq : d.quiet = true) (hst : d.stores = [])
    (hl : d.link.st = s.dev.link.st) : ∃ t, exec (.flrVf n tag) s = .next t ∧ t.dev.bays = d.bays ∧ t.dev.flogSeq = d.flogSeq ∧
      t.dev.link.bme.contains (n + 1) = false := by
  obtain ⟨l, tr, hreset, hl'⟩ := d.resetVf_unpaged s.env n (hp.trans hpages)
  have hup := Dev.cfgHere_up h
  refine ⟨{ s with dev := (({ d with link := l, trans := tr } : Dev).dropShadow (n + 1)).send (.cpl tag "OK" []) }, ?_, rfl, rfl, hl'.off (by simp)⟩
  refine show execFlrVf n s tag = _ from s.go_to _ _ hs ((Dev.turn_rests _ _ _ _ (s.rests_ahead hs)).trans ?_)
    (Dev.quiet_link { d with trans := tr } l hq hl'.held) hst
  show s.dev.flrVf s.env n tag = _
  unfold Dev.flrVf
  rw [Dev.cfgWrite_here _ h hide hdef (by unfold Dev.fnHere; rw [hvf]; simp), howner, if_pos (by decide), hloss, hreset]
  exact Dev.hostSend_up _ _ (hl'.st.trans (hl.trans hup)) rfl

theorem flrVf_parks (tag : Nat) (hidle : (s.dev.bay n).st = .idle) (hhold : (s.dev.bay n).hold = none) (hun : s.dev.unworked = true)
    (hmode : s.dev.attachMode ≠ 1) (hdet : s.dev.detachable n = true) : ∃ t, exec (.flrVf n tag) s = .next t ∧ (t.dev.bay n).st = .parked ∧
      (t.dev.bay n).hold = some (s.time + s.dev.od (0x2100 + n) 0x1A * 1000000000) ∧ (t.dev.bay n).held = (s.dev.bay n).held ∧
      t.dev.flogSeq = s.dev.flogSeq + 2 ∧ (∀ m, m ≠ n.val → t.dev.bay m = s.dev.bay m) ∧ t.dev.link.bme.contains (n + 1) = false := by
  obtain ⟨hold, htime⟩ : ∃ hold, s.time + s.dev.od (0x2100 + n) 0x1A * 1000000000 = hold := ⟨_, rfl⟩
  rw [htime]
  obtain ⟨srv, fl, k, hevent, hod⟩ := s.dev.event_spec s.env n 1
  obtain ⟨d, hd⟩ : ∃ d, s.dev.event s.env n 1 = d := ⟨_, rfl⟩
  rw [hd] at hevent hod
  have hod' (j : Nat) (hj : j < 256) : d.od (0x2100 + n) j = s.dev.od (0x2100 + n) j := hod _ _ hj (by unfold logEntry; omega)
  have hbay (m : Nat) : d.bay m = s.dev.bay m := by rw [hevent]; rfl
  have hun' : d.Unworked := by
    rw [hevent]
    exact (Dev.unworked_spec hun).congr rfl rfl rfl rfl rfl rfl rfl rfl rfl rfl
  have howner' : d.ownerLink n = 0 := by
    have hevt := Dev.bayEvt_vf howner (show d.board = s.dev.board by rw [hevent]) (hod' 5 (by decide))
    rw [← howner]
    unfold Dev.ownerLink Dev.attachMode
    rw [hod' 5 (by decide), show d.board = s.dev.board by rw [hevent]]
  obtain ⟨srv', fl', k', out, l, hpark, hl⟩ := Dev.park_unworked hun' s.env n (hold := hold) (by rw [hevent]; exact hmode) howner' (by rw [hbay]; exact hhold)
    (by rw [hod' _ (by decide)]; exact htime)
  rw [hbay] at hpark
  obtain ⟨x, hx⟩ : ∃ x, d.park s.env n = x := ⟨_, rfl⟩
  rw [hx] at hpark
  have hloss : s.dev.ownerLoss s.env n = x := by
    unfold Dev.ownerLoss
    dsimp only
    rw [hidle, hd]
    exact (if_pos hdet).trans hx
  have hl' : l.unsent = s.dev.link.unsent := by rw [hl, hevent]
  obtain ⟨t, ht, hbays, hseq, hbme⟩ := flrVf_loses hs h hide hdef hvf howner hpages tag hloss (by rw [hpark, hevent]; rfl)
    (by rw [hpark, hevent]; exact Dev.quiet_link s.dev l (s.rests_quiet hs) (congrArg Link.heldRecs hl' :)) (by rw [hpark, hevent]; exact s.rests_stores hs)
    (by rw [hpark]; exact (congrArg Link.st hl' :))
  have hat (m : Nat) : t.dev.bay m = if m = n.val then { s.dev.bay n with st := .parked, hold := some hold } else s.dev.bay m := by
    unfold Dev.bay
    rw [hbays, hpark, hevent]
    exact smGet_set ({} : Bay) s.dev.bays n m { s.dev.bay n with st := .parked, hold := some hold }
  refine ⟨t, ht, ?_, ?_, ?_, ?_, fun m hm => ?_, hbme⟩
  · rw [hat, if_pos rfl]
  · rw [hat, if_pos rfl]
  · rw [hat, if_pos rfl]
  · rw [hseq, hpark, hevent]
  · rw [hat, if_neg hm]

theorem flrVf_drains (tag : Nat) (hidle : (s.dev.bay n).st = .idle) (hun : s.dev.unworked = true) (hmode : s.dev.attachMode ≠ 1)
    (hdet : s.dev.detachable n = false) (hshown : s.unshown = true) : ∃ t, exec (.flrVf n tag) s = .next t ∧ (t.dev.bay n).st = .draining ∧
      (t.dev.bay n).toFree = true ∧ t.dev.flogSeq = s.dev.flogSeq + 1 ∧ (∀ m, m ≠ n.val → t.dev.bay m = s.dev.bay m) ∧
      t.dev.link.bme.contains (n + 1) = false := by
  obtain ⟨srv, fl, k, hevent, -⟩ := s.dev.event_spec s.env n 1
  obtain ⟨d, hd⟩ : ∃ d, s.dev.event s.env n 1 = d := ⟨_, rfl⟩
  rw [hd] at hevent
  have hun' : d.Unworked := by
    rw [hevent]
    exact (Dev.unworked_spec hun).congr rfl rfl rfl rfl rfl rfl rfl rfl rfl rfl
  have hbay (m : Nat) : d.bay m = s.dev.bay m := by rw [hevent]; rfl
  have hq : d.quiet = true := by rw [hevent]; exact s.rests_quiet hs
  have hx := Dev.drain_unworked hun' hq s.env n true (by rw [hevent]; exact hmode)
    (fun _ => by rw [hevent]; exact List.isEmpty_iff.mp hshown)
  have hloss : s.dev.ownerLoss s.env n = d.drain s.env n true 0 0 := by
    unfold Dev.ownerLoss
    dsimp only
    rw [hidle, hdet, hd]
    unfold Dev.resetBay
    rw [hbay, hidle]
    rfl
  generalize d.drain s.env n true 0 0 = x at hx hloss
  have hkeep : x.unstopped = d.unstopped := hx.rest
  obtain ⟨t, ht, hbays, hseq, hbme⟩ := flrVf_loses hs h hide hdef hvf howner hpages tag hloss
    ((congrArg Dev.pages hkeep).trans (by rw [hevent]; rfl)) (hx.quiet hq) ((congrArg Dev.stores hkeep).trans (by rw [hevent]; exact s.rests_stores hs))
    ((congrArg (fun y : Dev => y.link.st) hkeep).trans (by rw [hevent]; rfl))
  have hat (m : Nat) : t.dev.bay m = if m = n.val then (s.dev.bay n).draining s.env.time true else s.dev.bay m := by
    rw [← hbay m, ← hbay n]
    refine Eq.trans ?_ (d.bay_setBay n m _)
    refine Eq.trans ?_ (hx.bay m)
    unfold Dev.bay
    rw [hbays]
  refine ⟨t, ht, ?_, ?_, ?_, fun m hm => ?_, hbme⟩
  · rw [hat, if_pos rfl]
    rfl
  · rw [hat, if_pos rfl]
    rfl
  · rw [hseq, show x.flogSeq = d.flogSeq from (congrArg Dev.flogSeq hkeep :), hevent]
  · rw [hat, if_neg hm]

end

/-- Settles O25: the resets by what each takes from its functions, the loss of a Bay's owner link where the Bay has no work, and the enables by the field of
the link that each sets. -/
theorem functionResetsAndControls : Obligations.FunctionResetsAndControls := by
  unfold Obligations.FunctionResetsAndControls
  refine ⟨fun tag s hs h hide hdef hbays hpages => ⟨flrPf0_resets hs h hide hdef hbays hpages tag, vfEnableClear_resets hs h hide hdef hbays hpages tag⟩,
    fun n tag s hs h hide hdef hvf howner hidle hhold hun hhalt hpages hmode =>
      ⟨fun hdet => flrVf_parks hs h hide hdef hvf howner hpages tag hidle hhold hun hmode hdet,
        fun hdet hshown => flrVf_drains hs h hide hdef hvf howner hpages tag hidle hun hmode hdet hshown⟩,
    fun f tag s hs h hide hdef hfn => busMasterEnableClear_clears hs f tag h hide hdef hfn,
    fun f tag s hs h hide hdef hfn hhalt hpend hsink => busMasterEnableSet_sets hs f tag h hide hdef hfn hhalt hpend hsink,
    fun g tag s hs h hide hdef hvf hg => vfResizableBarWrite_sizes hs g tag h hide hdef hvf hg,
    fun g tag s hs _ h => vfResizableBarWrite_defers hs g tag h, fun k base size s hs h hready => ⟨fun hle => ?_, fun hlt => ?_⟩,
    fun f v s hs hh hpend hv => ⟨fun hf => msixUnmask_unmasks f v s hs hh hpend hv hf, msixUnmask_enables f s hs hh hpend⟩,
    fun tag f s hs h hide hdef hfn => configRequest_identifies hs tag f h hide hdef hfn,
    fun tag op s hs hup hide hready hfailed => configRequest_retries hs tag op hup hide hready hfailed⟩
  · rw [hdmDecoderCommit_judges hs k base size h hready]
    unfold Dev.commitHdm
    rw [if_neg (Nat.not_lt.mpr hle)]
    rfl
  · rw [hdmDecoderCommit_judges hs k base size h hready]
    unfold Dev.commitHdm
    rw [if_pos hlt]
    rfl

end Sys2Proof.Machine
end

section
/-! PROOF. The actions of bay_ctl, the drains and their ends (R132 to R144, R153): O15, O16. -/
namespace Sys2Proof.Machine

/-! ### bay_ctl by any route -/

theorem entryOf_bayCtl : ∀ n : Fin 16, entryOf (0x2100 + n) 2 = some ⟨0x2100, 16, 2, 2, 1, .u 1, .wo, false, false, 0⟩ := by decide +kernel

theorem entBay_bayCtl : ∀ n : Fin 16, entBay ⟨0x2100, 16, 2, 2, 1, .u 1, .wo, false, false, 0⟩ (0x2100 + n) 2 = some n.val := by decide +kernel

/-- Whether a completion is told over the fabric rests on the masks, the attach mode, and the Bays' owner links. -/
theorem Dev.tells_of {d x : Dev} {r : Route} (h : d.tells r = true) (hb : x.board = d.board) (hl : x.link.msixOpen = d.link.msixOpen)
    (ho : ∀ n, n < 16 → d.bayEvt n = false → x.bayEvt n = false) : x.tells r = true := by
  have hmask (fn v : Nat) : x.unmasked fn v = d.unmasked fn v := by unfold Dev.unmasked; rw [hl]
  have hmode : x.attachMode = d.attachMode := by unfold Dev.attachMode; rw [hb]
  unfold Dev.tells at h ⊢
  cases r with
  | can p => rfl
  | pf => simpa only [routeFn, hmask, hmode, if_true] using h
  | fabPf => simpa only [routeFn, hmask, hmode, if_true] using h
  | bay n =>
    have := ho n n.isLt
    cases hu : d.unmasked (n + 1) 3 <;> simp_all [routeFn]
  | fabBay n =>
    have := ho n n.isLt
    cases hu : d.unmasked (n + 1) 3 <;> simp_all [routeFn]

/-- bay_ctl in the dictionary's table. -/
def bayCtlEnt : Ent := ⟨0x2100, 16, 2, 2, 1, .u 1, .wo, false, false, 0⟩

theorem Dev.journalBay_bayCtl (d : Dev) (n : Fin 16) : d.journalBay bayCtlEnt (0x2100 + n) 2 = some n.val :=
  (d.journalBay_own (entBay_bayCtl n)).trans (if_neg (by decide))

theorem Dev.odApply_bayCtl (d : Dev) (e : Env) (r : Route) (n : Fin 16) {v : Nat} (hv : v < 256) :
    d.odApply e r bayCtlEnt (0x2100 + n) 2 (leNat (leBytes 1 v)) (leBytes 1 v) (fun _ => false) {} = d.bayCtl e n v r := by
  rw [leNat_leBytes _ _ hv]
  refine Dev.odApply_does ?_
  rw [if_pos (by decide), show bayCtlEnt.base = 0x2100 from rfl, Nat.add_sub_cancel_left]
  rfl

/-- An accepted write of bay_ctl is that of its entry, outside a strict job. -/
theorem State.bayCtl_accepted {s : State} {r : Route} {n : Fin 16} {bs : List Byte} (h : s.accepts r (0x2100 + n) 2 bs = true) :
    s.Accepted r (0x2100 + n) 2 bs bayCtlEnt (fun _ => false) ∧
      ∃ w, s.atServer r (0x2100 + n) 2 bs = s.dev.withWins w ∧ (s.dev.withWins w).inJob n = false ∧ s.dev.tells r = true := by
  obtain ⟨t, ha⟩ := State.accepted_of h
  have ht := ha.entry_eq (entryOf_bayCtl n)
  subst ht
  obtain ⟨w, hserver⟩ := ha.server
  have hjob := ha.free n (Dev.journalBay_bayCtl _ n)
  have htells := ha.carried.tells
  rw [hserver] at hjob htells
  exact ⟨ha, w, hserver, hjob, htells⟩

/-- A bay_ctl action whose effect is `a`, and which is answered at once: all of it, its change record and the answer. -/
theorem State.bayCtl_acts {s : State} {c : Instr} {r : Route} {n : Fin 16} {v : Nat} (hc : exec c s = s.odRow r (0x2100 + n) 2 1 v)
    (h : s.accepts r (0x2100 + n) 2 (leBytes 1 v) = true) (hv : v < 256) : s.rests = true ∧ s.dev.tells r = true ∧ ∃ w, (s.dev.withWins w).inJob n = false ∧
      ∀ a, (s.dev.withWins w).bayCtl s.env n v r = a → a.quiet = true → a.stores = [] → a.tells r = true → a.inJob n = false →
        (v = 2 → (a.bay n).scrubbing = false) →
        ∃ w o p l, exec c s = .next { s with dev := (a.journalChange s.env r (0x2100 + n) 2 .ok (crc64 (leBytes 1 v))).toldAs w o p l } := by
  obtain ⟨ha, w, hserver, hjob, htells⟩ := State.bayCtl_accepted h
  refine ⟨ha.carried.rests, htells, w, hjob, fun a hact hq hst htell hfree hscrub => ?_⟩
  have hwrite := ha.odWrite_eq (by omega) (a := a) (by rw [hserver, Dev.odApply_bayCtl _ _ _ _ hv, hact]) (fun hi => by omega)
    (fun m hm => by rw [Dev.journalBay_bayCtl] at hm; rw [← Option.some.inj hm]; exact hfree)
    (fun _ _ hv2 => by rw [leNat_leBytes _ _ hv] at hv2; rw [Nat.add_sub_cancel_left]; exact hscrub hv2)
  rw [Dev.odAfter_none _ _ (by omega) (by omega)] at hwrite
  obtain ⟨w', o, p, l, hgo⟩ := s.go_answers (fun e d => d.odWrite e r (0x2100 + n) 2 (leBytes 1 v) id) ha.carried.rests hwrite hq hst htell
  exact ⟨w', o, p, l, hc.trans hgo⟩

/-- A COMMIT whose scrub runs on: its effect and its change record. -/
theorem State.bayCtl_waits {s : State} {c : Instr} {r : Route} {n : Fin 16} (hc : exec c s = s.odRow r (0x2100 + n) 2 1 2)
    (h : s.accepts r (0x2100 + n) 2 [2] = true) : s.rests = true ∧ ∃ w, (s.dev.withWins w).inJob n = false ∧
      ∀ a, (s.dev.withWins w).commitBay s.env n r = a → a.quiet = true → a.stores = [] → a.inJob n = false → (a.bay n).scrubbing = true →
        exec c s = .next { s with dev := a.journalChange s.env r (0x2100 + n) 2 .ok (crc64 [2]) } := by
  obtain ⟨ha, w, hserver, hjob, -⟩ := State.bayCtl_accepted h
  refine ⟨ha.carried.rests, w, hjob, fun a hact hq hst hfree hscrub => ?_⟩
  have happly := (s.dev.withWins w).odApply_bayCtl s.env r n (v := 2) (by decide)
  have hwrite : s.dev.odWrite s.env r (0x2100 + n) 2 [2] id = a.journalChange s.env r (0x2100 + n) 2 .ok (crc64 [2]) := by
    obtain ⟨tag, time, hserve⟩ := ha.carried.odWrite_serves id fun tag time => rfl
    rw [hserve]
    refine (State.Carried.serveReq_eq tag time (by omega)).trans ?_
    rw [ha.carried.serve_whole tag time none _ ha.gate ha.ty ha.size, hserver]
    exact Dev.writeValue_scrubs (by rw [← hserver]; exact ha.judged) (show s.env.fails _ = none from rfl) (happly.trans hact) (fun hi => by omega)
      (fun m hm => by rw [Dev.journalBay_bayCtl] at hm; rw [← Option.some.inj hm]; exact hfree) rfl rfl rfl (by rw [Nat.add_sub_cancel_left]; exact hscrub)
  exact hc.trans (s.go_to (fun e d => d.odWrite e r (0x2100 + n) 2 [2] id) _ ha.carried.rests hwrite hq hst)

/-- What a Bay's drain leaves of what a write of bay_ctl answers with. -/
theorem Dev.Stopped.answers {d d' : Dev} {r : Route} {n : Nat} (h : d.Stopped d') (ht : d.tells r = true) (hj : d.inJob n = false) :
    d'.tells r = true ∧ d'.inJob n = false := by
  have hboard : d'.board = d.board := (congrArg Dev.board h.rest :)
  have hopen : d'.link.msixOpen = d.link.msixOpen := (congrArg (fun x : Dev => x.link.msixOpen) h.rest :)
  have hjour : d'.journals = d.journals := (congrArg Dev.journals h.rest :)
  refine ⟨Dev.tells_of ht hboard hopen fun m hm hevt => ?_, (Dev.inJob_congr hjour n).trans hj⟩
  rw [← hevt]
  unfold Dev.bayEvt Dev.ownerLink Dev.attachMode
  rw [h.od _ _ (by omega) (by decide), hboard]

section
variable {r : Route} {n : Fin 16} {s : State}

/-- A bay_ctl action that drains a Bay without work. -/
theorem State.bayCtl_drains {c : Instr} {v : Nat} (toFree : Bool) (hc : exec c s = s.odRow r (0x2100 + n) 2 1 v)
    (h : s.accepts r (0x2100 + n) 2 (leBytes 1 v) = true) (hv : v < 256) (hv2 : v ≠ 2) (hmode : s.dev.attachMode ≠ 1) (hun : s.dev.unworked = true)
    (hshown : toFree = true → s.unshown = true)
    (hact : ∀ d : Dev, d.Unworked → d.bays = s.dev.bays → ∃ x, d.Stopped x ∧ x.Unworked ∧ d.bayCtl s.env n v r = x.drain s.env n toFree 0 0) :
    ∃ t, exec c s = .next t ∧ t.dev.bay n = (s.dev.bay n).draining s.time toFree ∧ ∀ m, m ≠ n.val → t.dev.bay m = s.dev.bay m := by
  obtain ⟨hs, htells, w, hjob, hrow⟩ := State.bayCtl_acts hc h hv
  obtain ⟨d, hd⟩ : ∃ d, d = s.dev.withWins w := ⟨_, rfl⟩
  have hun' : d.Unworked := by
    rw [hd]
    exact (Dev.unworked_spec hun).congr rfl rfl rfl rfl rfl rfl rfl rfl rfl rfl
  have hq : d.quiet = true := by rw [hd]; exact s.rests_quiet hs
  rw [← hd] at hjob hrow
  obtain ⟨x, hx, hunx, hdrain⟩ := hact d hun' (by rw [hd]; rfl)
  have hboard : x.board = s.dev.board := (congrArg Dev.board hx.rest :).trans (by rw [hd]; rfl)
  have hdone := Dev.drain_unworked hunx (hx.quiet hq) s.env n toFree (by unfold Dev.attachMode; rw [hboard]; exact hmode) fun hfree => by
    have hdir : x.ridge.dir = s.dev.ridge.dir := (congrArg (fun x : Dev => x.ridge.dir) hx.rest :).trans (by rw [hd]; rfl)
    have hsame : x.shownLines s.env (fun _ => true) = s.dev.shownLines s.env (fun _ => true) := by
      unfold Dev.shownLines Dev.dir
      rw [hdir]
    rw [hsame]
    exact List.isEmpty_iff.mp (hshown hfree)
  have hset : ({ d with bays := (x.setBay n ((x.bay n).draining s.env.time toFree)).bays } : Dev).Stopped (x.drain s.env n toFree 0 0) :=
    ⟨hdone.rest.trans hx.rest, hdone.srv.imp fun _ h => h.trans (by obtain ⟨o, ho⟩ := hx.srv; rw [show (x.setBay n _).srv = x.srv from rfl, ho]),
      hdone.places.trans hx.places, hdone.ckpts.trans hx.ckpts, hdone.bay, fun k j hk hj => (hdone.od k j hk hj).trans (hx.od k j hk hj)⟩
  have hst : (x.drain s.env n toFree 0 0).stores = [] := (congrArg Dev.stores hset.rest :).trans (by rw [hd]; exact s.rests_stores hs)
  obtain ⟨htell', hjob'⟩ := hset.answers (r := r) (n := n) (by rw [hd]; exact htells) hjob
  obtain ⟨w', o, p, l, hexec⟩ := hrow _ hdrain (hdone.quiet (hx.quiet hq)) hst htell' hjob' fun h2 => absurd h2 hv2
  have hbay (m : Nat) : (x.drain s.env n toFree 0 0).bay m = if m = n.val then (s.dev.bay n).draining s.time toFree else s.dev.bay m := by
    rw [hdone.bay, Dev.bay_setBay, hx.bay, hx.bay, hd]
    rfl
  refine ⟨_, hexec, (hbay n).trans (if_pos rfl), fun m hm => (hbay m).trans (if_neg hm)⟩

theorem stop_drains (h : s.accepts r (0x2100 + n) 2 [4] = true) (hmode : s.dev.attachMode ≠ 1) (hun : s.dev.unworked = true) :
    ∃ t, exec (.stop r n) s = .next t ∧ t.dev.bay n = (s.dev.bay n).draining s.time false ∧ ∀ m, m ≠ n.val → t.dev.bay m = s.dev.bay m :=
  State.bayCtl_drains (v := 4) false rfl h (by decide) (by decide) hmode hun (fun hf => absurd hf (by decide))
    fun d hd _ => ⟨d, .refl d, hd, rfl⟩

theorem release_drains (h : s.accepts r (0x2100 + n) 2 [5] = true) (hmode : s.dev.attachMode ≠ 1) (hun : s.dev.unworked = true) (hshown : s.unshown = true) :
    ∃ t, exec (.release r n) s = .next t ∧ t.dev.bay n = (s.dev.bay n).draining s.time true ∧ ∀ m, m ≠ n.val → t.dev.bay m = s.dev.bay m :=
  State.bayCtl_drains (v := 5) true rfl h (by decide) (by decide) hmode hun (fun _ => hshown) fun d hd _ => ⟨d, .refl d, hd, rfl⟩

theorem reset_drains (h : s.accepts r (0x2100 + n) 2 [6] = true) (hmode : s.dev.attachMode ≠ 1) (hun : s.dev.unworked = true) (hshown : s.unshown = true)
    (hcommit : (s.dev.bay n).commitRt = none) (hst : (s.dev.bay n).st ≠ .draining) :
    ∃ t, exec (.reset r n) s = .next t ∧ t.dev.bay n = (s.dev.bay n).draining s.time true ∧ ∀ m, m ≠ n.val → t.dev.bay m = s.dev.bay m := by
  refine State.bayCtl_drains (v := 6) true rfl h (by decide) (by decide) hmode hun (fun _ => hshown) fun d hd hb => ?_
  have hbay : d.bay n = s.dev.bay n := by unfold Dev.bay; rw [hb]
  have hsame : ({ d.bay n with commitRt := none } : Bay) = d.bay n := by
    rw [hbay, ← hcommit]
  refine ⟨d.setBay n (d.bay n), ⟨rfl, ⟨_, rfl⟩, rfl, rfl, fun m => ?_, fun _ _ _ _ => rfl⟩, hd.congr rfl rfl rfl rfl rfl rfl rfl rfl rfl rfl, ?_⟩
  · rw [Dev.bay_setBay]
    split
    · next hm => rw [hm]
    · rfl
  · show (let w := (d.bay n).commitRt
      let x := (d.setBay n { d.bay n with commitRt := none }).resetBay s.env n
      match w with
      | some r => x.odAnswer r .state (abortOf .state) []
      | none => x) = _
    dsimp only
    rw [show (d.bay n).commitRt = none by rw [hbay]; exact hcommit, hsame]
    dsimp only
    unfold Dev.resetBay
    rw [Dev.setBay_bay, if_neg (by rw [hbay]; simpa using hst)]

end

/-! ### Memory that is zeroed -/

/-- HBM after the memory operations of `d'` is that after those of `d`, with zeros where `p` says. -/
def Dev.Zeroes (d d' : Dev) (p : Nat → Bool) : Prop :=
  ∀ m x, x < 0x5E80000000 → smGet 0 (d'.stores.foldr (fun o m => o.onMem m) m) x = if p x then 0 else smGet 0 (d.stores.foldr (fun o m => o.onMem m) m) x

theorem Dev.Zeroes.trans {a b c : Dev} {p q : Nat → Bool} (h : a.Zeroes b p) (h' : b.Zeroes c q) : a.Zeroes c fun x => p x || q x := by
  intro m x hx
  rw [h' m x hx, h m x hx]
  cases hp : p x <;> cases hq : q x <;> simp [hp, hq]

theorem Dev.Zeroes.congr {a b : Dev} {p q : Nat → Bool} (h : a.Zeroes b p) (hpq : ∀ x, x < 0x5E80000000 → p x = q x) : a.Zeroes b q :=
  fun m x hx => (h m x hx).trans (by rw [hpq x hx])

theorem Dev.zeroes_store (d : Dev) (lo hi : Nat) : d.Zeroes (d.store (.zero lo hi)) fun x => lo ≤ x && Nat.blt x hi := by
  intro m x _
  show smGet 0 ((MemOp.zero lo hi).onMem (d.stores.foldr (fun o m => o.onMem m) m)) x = _
  rw [MemOp.zero_byte]
  simp [Nat.blt_eq]

/-- Zeros beyond HBM are none of it. -/
theorem Dev.zeroes_beyond (d : Dev) {lo hi : Nat} (h : 0x5E80000000 ≤ lo) : d.Zeroes (d.store (.zero lo hi)) fun _ => false :=
  (d.zeroes_store lo hi).congr fun x hx => by
    rw [show decide (lo ≤ x) = false from decide_eq_false (by omega)]
    rfl

/-- Ranges zeroed one after another. -/
theorem Dev.foldl_zeroes {f : Dev → Rng → Dev} {p : Rng → Nat → Bool} (hf : ∀ d r, ∃ st, f d r = { d with stores := st } ∧ d.Zeroes { d with stores := st } (p r))
    (l : List Rng) (d : Dev) : ∃ st, l.foldl f d = { d with stores := st } ∧ d.Zeroes { d with stores := st } fun x => l.any (p · x) := by
  induction l generalizing d with
  | nil => exact ⟨d.stores, rfl, fun _ _ _ => rfl⟩
  | cons r l ih =>
    obtain ⟨st, hone, hz⟩ := hf d r
    obtain ⟨st', hmore, hz'⟩ := ih { d with stores := st }
    rw [List.foldl_cons, hone]
    exact ⟨st', hmore, hz.trans hz'⟩

/-- The granules of one range and not of another. -/
theorem rngsHave_minus (a b : Rng) (x : Nat) : rngsHave (a.minus b) x = (a.has x && !b.has x) := by
  unfold rngsHave Rng.minus
  rw [List.any_filter]
  simp only [List.any_cons, List.any_nil, Bool.or_false, Rng.has]
  rw [Bool.eq_iff_iff]
  simp only [Bool.or_eq_true, Bool.and_eq_true, Bool.not_eq_true', bne_iff_ne, decide_eq_true_eq, Bool.and_eq_false_iff, decide_eq_false_iff_not]
  omega

/-- The units that leave a Bay: their HBM is zeroed, and what covers them goes. -/
theorem Dev.scrubUnits_spec (d : Dev) (n : Nat) (a b : Ranges) : ∃ st tr ri co ar gu cr f, d.scrubUnits n a b =
    { d with stores := st, trans := tr, ridge := ri, cores := co, arrays := ar, gutters := gu, courses := cr, spars := d.spars.filter f } ∧
    d.Zeroes { d with stores := st } fun x => a.hbm.has (granule x) && !b.hbm.has (granule x) := by
  obtain ⟨st1, h1, hz1⟩ := Dev.foldl_zeroes (p := fun r x => r.has (granule x)) (f := fun d r =>
      (d.store (.zero (r.base * 0x10000000) ((r.base + r.count) * 0x10000000))).store
        (.zero (sumAddr (r.base * 0x10000000 / 64)) (sumAddr ((r.base + r.count) * 0x10000000 / 64))))
    (fun d r => ⟨_, rfl, ((d.zeroes_store _ _).trans (Dev.zeroes_beyond _ (by unfold sumAddr; omega))).congr fun x _ => by
      rw [Bool.or_false, Bool.eq_iff_iff]
      unfold Rng.has granule
      simp only [Bool.and_eq_true, decide_eq_true_eq, Nat.blt_eq]
      omega⟩) (a.hbm.minus b.hbm) d
  obtain ⟨st2, h2, hz2⟩ := Dev.foldl_zeroes (p := fun _ _ => false) (f := fun d r =>
      d.store (.zero (0x10000000000 + r.base * 0x100000) (0x10000000000 + (r.base + r.count) * 0x100000)))
    (fun d r => ⟨_, rfl, Dev.zeroes_beyond _ (by omega)⟩) (a.loft.minus b.loft) { d with stores := st1 }
  obtain ⟨st3, h3, hz3⟩ := Dev.foldl_zeroes (p := fun _ _ => false) (f := fun d r =>
      d.store (.zero (0x11000000000 + r.base * 0x80000) (0x11000000000 + (r.base + r.count) * 0x80000)))
    (fun d r => ⟨_, rfl, Dev.zeroes_beyond _ (by omega)⟩) (a.core.minus b.core) { d with stores := st2 }
  have hzero : d.Zeroes { d with stores := st3 } fun x => a.hbm.has (granule x) && !b.hbm.has (granule x) := by
    refine Dev.Zeroes.congr ((hz1.trans hz2).trans hz3) fun x _ => ?_
    have hnone (l : List Rng) : (l.any fun _ => false) = false := List.any_eq_false.mpr fun _ _ => Bool.false_ne_true
    rw [hnone, hnone, Bool.or_false, Bool.or_false]
    exact rngsHave_minus _ _ _
  have hscrub : ∃ tr ri co ar gu cr f, d.scrubUnits n a b =
      { d with stores := st3, trans := tr, ridge := ri, cores := co, arrays := ar, gutters := gu, courses := cr, spars := d.spars.filter f } := by
    unfold Dev.scrubUnits
    dsimp only
    rw [h1, h2, h3]
    exact ⟨_, _, _, _, _, _, _, rfl⟩
  obtain ⟨tr, ri, co, ar, gu, cr, f, h⟩ := hscrub
  exact ⟨st3, tr, ri, co, ar, gu, cr, f, h, hzero⟩

/-! ### The end of a COMMIT -/

/-- Functions that each change the loops alone. -/
theorem Dev.foldl_loops {α : Type} {f : Dev → α → Dev} (hf : ∀ d x, ∃ lo, f d x = { d with loops := lo }) (l : List α) (d : Dev) :
    ∃ lo, l.foldl f d = { d with loops := lo } := by
  induction l generalizing d with
  | nil => exact ⟨d.loops, rfl⟩
  | cons x l ih =>
    obtain ⟨lo, h⟩ := hf d x
    obtain ⟨lo', h'⟩ := ih { d with loops := lo }
    rw [List.foldl_cons, h]
    exact ⟨lo', h'⟩

theorem Dev.markGates_loops (d : Dev) (e : Env) (is : List Nat) : ∃ lo, d.markGates e is = { d with loops := lo } :=
  Dev.foldl_loops (fun d i => by
    dsimp only
    split
    · split
      · exact ⟨_, rfl⟩
      · exact ⟨_, rfl⟩
    · split
      · exact ⟨_, rfl⟩
      · exact ⟨_, rfl⟩) is d

theorem Dev.wakeIslands_loops (d : Dev) (e : Env) (is : List Nat) : ∃ lo, is.foldl (fun d i => d.wakeIsland e i) d = { d with loops := lo } :=
  Dev.foldl_loops (fun d i => by
    unfold Dev.wakeIsland
    split <;> exact ⟨_, rfl⟩) is d

/-- A Bay whose COMMIT is done. -/
def Bay.committed (b : Bay) (r : Ranges) : Bay := { b with st := .idle, held := r, next := {}, scrubbing := false, commitRt := none, hbLost := false }

/-- A COMMIT that is done: the Bay's ranges are granted, its islands wake, and the host is told. -/
theorem Dev.commitDone_spec (d : Dev) (e : Env) (n : Nat) (hn : n < 16) (hmode : d.attachMode ≠ 1) : ∃ out l od lo,
    d.commitDone e n = { d.setBay n ((d.bay n).committed (d.wantRanges n)) with out := out, link := l, srv := { d.srv with od := od }, loops := lo } ∧
    l.unsent = d.link.unsent ∧ ∀ k j, k < 0x2110 → j < 256 → (d.commitDone e n).od k j = d.od k j := by
  obtain ⟨b0, hb0⟩ : ∃ b0 : Bay, b0 = { d.bay n with held := d.wantRanges n, next := {}, scrubbing := false, commitRt := none, hbLost := false } := ⟨_, rfl⟩
  obtain ⟨out, l, hpf, hl⟩ := (d.setBay n { b0 with st := .idle }).raisePf_signals 3 hmode
  have hstate : (d.setBay n b0).toState n .idle = { d.setBay n { b0 with st := .idle } with out := out, link := l } := by
    unfold Dev.toState
    rw [Dev.setBay_bay, Dev.setBay_setBay]
    exact hpf
  obtain ⟨x, hx⟩ : ∃ x, x = (d.setBay n b0).toState n .idle := ⟨_, rfl⟩
  have hod (x : Dev) (i j v k m : Nat) (hi : 0x2110 ≤ i) (hj : j < 256) (hk : k < 0x2110) (hm : m < 256) : (x.setOd i j v).od k m = x.od k m :=
    x.setOd_od_other v hm hj (by simp; omega)
  -- the entries that a COMMIT writes itself
  obtain ⟨od1, h1, ho1⟩ : ∃ od, (if x.ownerLink n = 1 then x.setOd (0x2A40 + n) 3 e.time else x) = { x with srv := { x.srv with od := od } } ∧
      ∀ k j, k < 0x2110 → j < 256 → ({ x with srv := { x.srv with od := od } } : Dev).od k j = x.od k j := by
    split
    · exact ⟨_, rfl, fun k j hk hj => hod x _ _ e.time k j (by omega) (by decide) hk hj⟩
    · exact ⟨x.srv.od, rfl, fun _ _ _ _ => rfl⟩
  obtain ⟨y, hy⟩ : ∃ y : Dev, y = { x with srv := { x.srv with od := od1 } } := ⟨_, rfl⟩
  obtain ⟨od2, h2, ho2⟩ : ∃ od, (if y.strict n then (if y.od (0x2730 + n) 1 = 0 then y.setOd (0x2730 + n) 1 4096 else y).setOd (0x2D20 + n) 1 0 else y) =
      { x with srv := { x.srv with od := od } } ∧ ∀ k j, k < 0x2110 → j < 256 → ({ x with srv := { x.srv with od := od } } : Dev).od k j = y.od k j := by
    rw [hy]
    split
    · split
      · refine ⟨_, rfl, fun k j hk hj => ?_⟩
        exact (hod (({ x with srv := { x.srv with od := od1 } } : Dev).setOd (0x2730 + n) 1 4096) _ _ 0 k j (by omega) (by decide) hk hj).trans
          (hod { x with srv := { x.srv with od := od1 } } _ _ 4096 k j (by omega) (by decide) hk hj)
      · exact ⟨_, rfl, fun k j hk hj => hod { x with srv := { x.srv with od := od1 } } _ _ 0 k j (by omega) (by decide) hk hj⟩
    · exact ⟨od1, rfl, fun _ _ _ _ => rfl⟩
  obtain ⟨lo1, h3⟩ := Dev.wakeIslands_loops { x with srv := { x.srv with od := od2 } } e (coreIslands (d.wantRanges n).core)
  obtain ⟨lo2, h4⟩ := Dev.markGates_loops { x with srv := { x.srv with od := od2 }, loops := lo1 } e (coreIslands (d.wantRanges n).core)
  have hdone : d.commitDone e n = { x with srv := { x.srv with od := od2 }, loops := lo2 } := by
    unfold Dev.commitDone
    dsimp only
    rw [← hb0, ← hx, h1, ← hy, h2, h3, h4]
  refine ⟨out, l, od2, lo2, ?_, hl, fun k j hk hj => ?_⟩
  · rw [hdone, hx, hstate, hb0]
    rfl
  · rw [hdone]
    refine (ho2 k j hk hj).trans ?_
    rw [hy]
    refine (ho1 k j hk hj).trans ?_
    rw [hx, hstate]
    rfl

/-- What a device that differs in a part that makes nothing due leaves quiet. -/
theorem Dev.quiet_filterSpars {d : Dev} (f : Nat × Spar → Bool) (h : d.quiet = true) : ({ d with spars := d.spars.filter f } : Dev).quiet = true := by
  obtain ⟨q1, q2, q3, q4, q5, q6⟩ := (Dev.quiet_iff d).mp h
  exact (Dev.quiet_iff _).mpr ⟨q1, q2, q3, q4, List.all_eq_true.mpr fun c hc => List.all_eq_true.mp q5 c (List.mem_filter.mp hc).1, q6⟩

/-- The bytes of HBM once a command's zeros are committed. -/
theorem State.byte_zeroed (s : State) {d : Dev} {p : Nat → Bool} (hs : s.dev.stores = []) (h : s.dev.Zeroes d p) {x : Nat} (hx : x < 0x5E80000000) :
    (s.commit d).byte x = if p x then 0 else s.byte x := by
  rw [State.byte_commit, h s.mem x hx, hs]
  rfl

theorem Dev.Signalled.bay {d d' : Dev} (h : d.Signalled d') (m : Nat) : d'.bay m = d.bay m := by
  obtain ⟨o, l, rfl, -⟩ := h
  rfl

theorem Dev.Signalled.srv {d d' : Dev} (h : d.Signalled d') : d'.srv = d.srv := by
  obtain ⟨o, l, rfl, -⟩ := h
  rfl

theorem Dev.Signalled.stores {d d' : Dev} (h : d.Signalled d') : d'.stores = d.stores := by
  obtain ⟨o, l, rfl, -⟩ := h
  rfl

/-- A Bay enters a state, and PF0's vector tells of it. -/
theorem Dev.toState_signals (d : Dev) (n : Nat) (st : BaySt) (h : d.attachMode ≠ 1) : (d.setBay n { d.bay n with st := st }).Signalled (d.toState n st) :=
  (d.setBay n { d.bay n with st := st }).raisePf_signals 3 h

section
variable {n : Fin 16} {s : State} (hs : s.rests = true) (hmode : s.dev.attachMode ≠ 1)
include hs hmode

theorem commitScrubEnd_commits (hst : (s.dev.bay n).st = .configuring) (hscr : (s.dev.bay n).scrubbing = true)
    (hhomes : s.dev.homesQuiet ((s.dev.bay n).held.hbm.minus (s.dev.bay n).next.hbm) = true) (hrt : ∀ fn, (s.dev.bay n).commitRt = some fn → ∃ p, fn = .can p) :
    ∃ t, exec (.commitScrubEnd n) s = .next t ∧ t.dev.bay n = (s.dev.bay n).committed (s.dev.wantRanges n) ∧ (∀ m, m ≠ n.val → t.dev.bay m = s.dev.bay m) ∧
      ∀ a, a < 0x5E80000000 → t.byte a =
        if (s.dev.bay n).held.hbm.has (granule a) && !((s.dev.bay n).next.hbm.has (granule a)) then 0 else s.byte a := by
  obtain ⟨st, tr, ri, co, ar, gu, cr, f, hscrub, hzero⟩ := s.dev.scrubUnits_spec n (s.dev.bay n).held (s.dev.bay n).next
  obtain ⟨x, hx⟩ : ∃ x, s.dev.scrubUnits n (s.dev.bay n).held (s.dev.bay n).next = x := ⟨_, rfl⟩
  rw [hx] at hscrub
  have hbay (m : Nat) : x.bay m = s.dev.bay m := by rw [hscrub]; rfl
  have hwant : x.wantRanges n = s.dev.wantRanges n := by rw [hscrub]; rfl
  have hqx : x.quiet = true := by rw [hscrub]; exact Dev.quiet_filterSpars f (s.rests_quiet hs)
  obtain ⟨out, l, od, lo, hdone, hl, -⟩ := x.commitDone_spec s.env n n.isLt (by rw [hscrub]; exact hmode)
  rw [hwant, hbay] at hdone
  obtain ⟨lo', hgates⟩ := (x.commitDone s.env n).markGates_loops s.env (coreIslands (s.dev.bay n).held.core)
  obtain ⟨y, hy⟩ : ∃ y, (x.commitDone s.env n).markGates s.env (coreIslands (s.dev.bay n).held.core) = y := ⟨_, rfl⟩
  rw [hy, hdone] at hgates
  have hq : y.quiet = true := by
    rw [hgates]
    exact Dev.quiet_link x l hqx (congrArg Link.heldRecs hl :)
  -- the answer of a COMMIT that waited
  obtain ⟨w, o, p, l', hanswer⟩ : ∃ w o p l', (match (s.dev.bay n).commitRt with | some rt => y.odAnswer rt .ok 0 [] | none => y) = y.toldAs w o p l' := by
    cases hr : (s.dev.bay n).commitRt with
    | none => exact ⟨y.srv.wins, y.out, y.link.msixPend, y.link.held, rfl⟩
    | some rt =>
      obtain ⟨p, rfl⟩ := hrt rt hr
      exact y.odAnswer_told _ rfl
  have hexec : exec (.commitScrubEnd n) s = .next (s.commit (y.toldAs w o p l')) := by
    refine show execCommitScrubEnd n s = _ from s.go_done _ _ hs ?_ (Dev.quiet_link { y with srv := _ } _ hq rfl)
    dsimp only
    rw [hst, hscr, hhomes, hx, hy, if_neg (by decide)]
    exact hanswer
  have hbays (m : Nat) : (s.commit (y.toldAs w o p l')).dev.bay m = if m = n.val then (s.dev.bay n).committed (s.dev.wantRanges n) else s.dev.bay m := by
    show y.bay m = _
    rw [← hbay m, ← x.bay_setBay n m, hgates]
    rfl
  refine ⟨_, hexec, (hbays n).trans (if_pos rfl), fun m hm => (hbays m).trans (if_neg hm), fun a ha => ?_⟩
  refine s.byte_zeroed (p := fun a => (s.dev.bay n).held.hbm.has (granule a) && !((s.dev.bay n).next.hbm.has (granule a))) (s.rests_stores hs)
    (d := y.toldAs w o p l') ?_ ha
  intro m b hb
  rw [show (y.toldAs w o p l').stores = st by show y.stores = st; rw [hgates, hscrub]; rfl]
  exact hzero m b hb

theorem bayBecomesIdle_idles (hst : (s.dev.bay n).st = .running) (hquiet : s.dev.bayQuiet n = true) :
    ∃ t, exec (.bayBecomesIdle n) s = .next t ∧ t.dev.bay n = { s.dev.bay n with st := .idle } ∧ (∀ m, m ≠ n.val → t.dev.bay m = s.dev.bay m) ∧
      t.dev.srv = s.dev.srv ∧ t.mem = s.mem := by
  have hsig := s.dev.toState_signals n .idle hmode
  have hidle : s.dev.becomeIdle n = s.dev.toState n .idle := by
    unfold Dev.becomeIdle
    rw [hst, hquiet]
    rfl
  generalize s.dev.toState n .idle = x at hsig hidle
  have hat (m : Nat) : x.bay m = if m = n.val then { s.dev.bay n with st := .idle } else s.dev.bay m := (hsig.bay m).trans (s.dev.bay_setBay n m _)
  refine ⟨{ s with dev := x }, ?_, (hat n).trans (if_pos rfl), fun m hm => (hat m).trans (if_neg hm), hsig.srv, rfl⟩
  exact show execBayBecomesIdle n s = _ from s.go_to _ _ hs ((Dev.turn_rests _ _ _ _ (s.rests_ahead hs)).trans hidle) (hsig.quiet (s.rests_quiet hs))
    (hsig.stores.trans (s.rests_stores hs))

theorem holdTimeExpire_drains {h : Nat} (hst : (s.dev.bay n).st = .parked) (hhold : (s.dev.bay n).hold = some h) (ht : h ≤ s.time)
    (hun : s.dev.unworked = true) (hshown : s.unshown = true) : ∃ t, exec (.holdTimeExpire n) s = .next t ∧
      t.dev.bay n = (s.dev.bay n).draining s.time true ∧ t.dev.flogSeq = s.dev.flogSeq + 1 ∧ (∀ m, m ≠ n.val → t.dev.bay m = s.dev.bay m) := by
  obtain ⟨srv, fl, k, hevent, -⟩ := s.dev.event_spec s.env n 5
  obtain ⟨d, hd⟩ : ∃ d, s.dev.event s.env n 5 = d := ⟨_, rfl⟩
  rw [hd] at hevent
  have hun' : d.Unworked := by
    rw [hevent]
    exact (Dev.unworked_spec hun).congr rfl rfl rfl rfl rfl rfl rfl rfl rfl rfl
  have hbay (m : Nat) : d.bay m = s.dev.bay m := by rw [hevent]; rfl
  have hq : d.quiet = true := by rw [hevent]; exact s.rests_quiet hs
  have hx := Dev.drain_unworked hun' hq s.env n true (by rw [hevent]; exact hmode) (fun _ => by rw [hevent]; exact List.isEmpty_iff.mp hshown)
  have hend : s.dev.holdEnd s.env n = d.drain s.env n true 0 0 := by
    unfold Dev.holdEnd
    dsimp only
    rw [hhold]
    dsimp only
    rw [hst, if_neg (by simp [Nat.not_lt.mpr ht]), hd]
    unfold Dev.resetBay
    rw [hbay, hst]
    rfl
  generalize d.drain s.env n true 0 0 = x at hx hend
  have hat (m : Nat) : x.bay m = if m = n.val then (s.dev.bay n).draining s.env.time true else s.dev.bay m := by
    rw [hx.bay, Dev.bay_setBay, hbay, hbay]
  refine ⟨{ s with dev := x }, ?_, (hat n).trans (if_pos rfl), ?_, fun m hm => (hat m).trans (if_neg hm)⟩
  · exact show execHoldTimeExpire n s = _ from s.go_to _ _ hs ((Dev.turn_rests _ _ _ _ (s.rests_ahead hs)).trans hend) (hx.quiet hq)
      ((congrArg Dev.stores hx.rest :).trans (by rw [hevent]; exact s.rests_stores hs))
  · show x.flogSeq = _
    rw [show x.flogSeq = d.flogSeq from (congrArg Dev.flogSeq hx.rest :), hevent]

end

/-! ### The end of a drain -/

/-- Held records that are lost leave a journal without them. -/
theorem Dev.loseHeld_spec (d : Dev) (n : Nat) : ∃ srv js jt f, d.loseHeld n = { d with srv := srv, journals := js, jtick := jt, free := f } := by
  unfold Dev.loseHeld
  dsimp only
  split
  · exact ⟨d.srv, d.journals, d.jtick, d.free, rfl⟩
  · obtain ⟨srv, f, h⟩ := (d.fixRecs.setJour n { d.jour n with heldRecs := [] }).count_books (0x2C10 + n) 8 (d.jour n).heldRecs.length
    exact ⟨srv, _, {}, f, h⟩

/-- What a Bay that enters `FREE` leaves. -/
theorem Dev.freeBay_spec (d : Dev) (n : Nat) (hq : d.quiet = true) (hmode : d.attachMode ≠ 1) : (d.freeBay n).quiet = true ∧
    d.Zeroes (d.freeBay n) (fun x => (d.bay n).held.hbm.has (granule x)) ∧ (d.freeBay n).bay n = {} ∧ (∀ m, m ≠ n → (d.freeBay n).bay m = d.bay m) ∧
    (d.freeBay n).page n = { fences := (d.page n).fences, held := (d.page n).held, sky := (d.page n).sky, reads := (d.page n).reads } ∧
    (∀ q, q < 8 → (d.freeBay n).queue n q = {}) ∧ (d.freeBay n).jour n = {} := by
  obtain ⟨st, tr, ri, co, ar, gu, cr, f, hscrub, hzero⟩ := d.scrubUnits_spec n (d.bay n).held {}
  obtain ⟨x, hx⟩ : ∃ x : Dev, x = (d.scrubUnits n (d.bay n).held {}).store (.zero (0x13000000000 + 2048 * n) (0x13000000000 + 2048 * (n + 1))) := ⟨_, rfl⟩
  have hqx : x.quiet = true := by rw [hx, hscrub]; exact Dev.quiet_filterSpars f hq
  have hzx : d.Zeroes x fun x => (d.bay n).held.hbm.has (granule x) := by
    rw [hx, hscrub]
    refine Dev.Zeroes.congr (hzero.trans (Dev.zeroes_beyond { d with stores := st } (lo := 0x13000000000 + 2048 * n) (hi := 0x13000000000 + 2048 * (n + 1))
      (by omega))) fun y _ => ?_
    show ((d.bay n).held.hbm.has (granule y) && !(decide (0 ≤ granule y) && decide (granule y < 0 + 0)) || false) = _
    simp
  have hbx (m : Nat) : x.bay m = d.bay m := by rw [hx, hscrub]; rfl
  have hpx (m : Nat) : x.page m = d.page m := by rw [hx, hscrub]; rfl
  -- the device with what is the Bay's own gone
  obtain ⟨y, hfree, hqy, hsy, hby, hpy, hqueues, hjour, hmy⟩ : ∃ y : Dev, d.freeBay n = (y.setBay n {}).toState n .free ∧ y.quiet = true ∧ y.stores = x.stores ∧
      (∀ m, y.bay m = x.bay m) ∧ y.page n = { fences := (x.page n).fences, held := (x.page n).held, sky := (x.page n).sky, reads := (x.page n).reads } ∧
      (∀ q, q < 8 → y.queue n q = {}) ∧ y.jour n = {} ∧ y.board = x.board := by
    unfold Dev.freeBay
    rw [← hx]
    refine ⟨_, rfl, ?_, rfl, fun _ => rfl, smGet_set_same ({} : Page) .., fun q hq' => ?_, smGet_del_same ({} : Journal) .., rfl⟩
    · obtain ⟨q1, q2, q3, q4, q5, q6, q7, q8, q9⟩ := (Dev.quiet_iff x).mp hqx
      refine (Dev.quiet_iff _).mpr ⟨smSet_all ({} : Page) (fun g => g.sky.isEmpty) x.pages n _ (x.quiet_page hqx n) q1, q2, q3, q4, q5, ?_, q7, q8, q9⟩
      show x.link.heldRecs.filter _ = []
      rw [q6]
      rfl
    · refine (smGet_filter_key ({} : Queue) (fun k => k / 8 != n) x.queues (8 * n + q)).trans (if_neg ?_)
      simp
      omega
  have hsig := (y.setBay n {}).toState_signals n .free (by show y.attachMode ≠ 1; unfold Dev.attachMode; rw [hmy, hx, hscrub]; exact hmode)
  rw [← hfree] at hsig
  have hbay (m : Nat) : (d.freeBay n).bay m = if m = n then {} else d.bay m := by
    rw [hsig.bay, Dev.bay_setBay, Dev.setBay_bay]
    split
    · rfl
    · next hm => rw [Dev.bay_setBay, if_neg hm, hby, hbx]
  have hstores : (d.freeBay n).stores = x.stores := hsig.stores.trans hsy
  generalize d.freeBay n = z at hsig hbay hstores
  refine ⟨hsig.quiet hqy, fun m a ha => by rw [hstores]; exact hzx m a ha, (hbay n).trans (if_pos rfl), fun m hm => (hbay m).trans (if_neg hm), ?_, ?_, ?_⟩
  · rw [← hpx n, ← hpy]
    obtain ⟨o, l, rfl, -⟩ := hsig
    rfl
  · intro q hq'
    rw [← hqueues q hq']
    obtain ⟨o, l, rfl, -⟩ := hsig
    rfl
  · rw [← hjour]
    obtain ⟨o, l, rfl, -⟩ := hsig
    rfl

/-- The vectors that wait go out as traffic. -/
theorem Dev.traffic_flushVecs (d : Dev) : d.SameButTraffic d.flushVecs := by
  unfold Dev.flushVecs
  suffices ∀ (l : List Nat) (x : Dev), x.SameButTraffic (l.foldl (fun d k =>
      let fn := k / 8
      let v := k % 8
      if (if fn = 0 then d.pfVecOk v else d.bayVecOk (fn - 1) v) then
        let d := { d with link := { d.link with msixPend := listDel k d.link.msixPend } }
        if fn = 0 then d.pfMsg v else d.bayMsg (fn - 1) v
      else d) x) from this _ d
  intro l
  induction l with
  | nil => exact fun x => .refl x
  | cons k l ih =>
    intro x
    rw [List.foldl_cons]
    refine Dev.SameButTraffic.trans ?_ (ih _)
    have hpend : x.SameButTraffic { x with link := { x.link with msixPend := listDel k x.link.msixPend } } := ⟨rfl, fun _ => rfl, fun _ _ _ => rfl⟩
    refine Dev.SameButTraffic.ite (hpend.trans (.ite ?_ ?_)) (.refl x)
    · unfold Dev.pfMsg
      exact .ite (Dev.traffic_originate _ _) (Dev.traffic_hostSend _ _)
    · unfold Dev.bayMsg
      exact .ite (Dev.traffic_originate _ _) (Dev.traffic_hostSend _ _)

section
variable {n : Fin 16} {s : State} (hs : s.rests = true) (hmode : s.dev.attachMode ≠ 1) (hst : (s.dev.bay n).st = .draining)
  (hdone : s.dev.drained s.env n = true)
include hs hmode hst hdone

theorem drainEnd_frees (hfree : (s.dev.bay n).toFree = true) : ∃ t, exec (.drainEnd n) s = .next t ∧ t.dev.bay n = {} ∧
    (∀ m, m ≠ n.val → t.dev.bay m = s.dev.bay m) ∧
    t.dev.page n = { fences := (s.dev.page n).fences, held := (s.dev.page n).held, sky := (s.dev.page n).sky, reads := (s.dev.page n).reads } ∧
    (∀ q, q < 8 → t.dev.queue n q = {}) ∧ t.dev.jour n = {} ∧
    ∀ a, a < 0x5E80000000 → t.byte a = if (s.dev.bay n).held.hbm.has (granule a) then 0 else s.byte a := by
  obtain ⟨srv, js, jt, f, hlose⟩ := s.dev.loseHeld_spec n
  obtain ⟨d, hd⟩ : ∃ d, s.dev.loseHeld n = d := ⟨_, rfl⟩
  rw [hd] at hlose
  obtain ⟨hq, hzero, hown, hother, hpage, hqueues, hjour⟩ := d.freeBay_spec n (by rw [hlose]; exact s.rests_quiet hs) (by rw [hlose]; exact hmode)
  obtain ⟨lo, hgates⟩ := (d.freeBay n).markGates_loops s.env (coreIslands (s.dev.bay n).held.core)
  have hbay (m : Nat) : d.bay m = s.dev.bay m := by rw [hlose]; rfl
  have hend : s.dev.drainEnd s.env n = { d.freeBay n with loops := lo } := by
    unfold Dev.drainEnd
    dsimp only
    rw [hst, hdone, if_neg (by decide), hd, hfree, if_pos rfl, hgates]
  rw [show d.page n = s.dev.page n by rw [hlose]; rfl] at hpage
  generalize d.freeBay n = z at hq hzero hown hother hpage hqueues hjour hend
  refine ⟨s.commit { z with loops := lo }, ?_, hown, fun m hm => (hother m hm).trans (hbay m), hpage, hqueues, hjour, fun a ha => ?_⟩
  · exact show execDrainEnd n s = _ from s.go_done _ _ hs ((Dev.turn_rests _ _ _ _ (s.rests_ahead hs)).trans hend) hq
  · refine s.byte_zeroed (p := fun a => (s.dev.bay n).held.hbm.has (granule a)) (s.rests_stores hs) (d := { z with loops := lo }) (fun m x hx => ?_) ha
    refine (hzero m x hx).trans ?_
    rw [hbay, hlose]

theorem drainEnd_idles (hfree : (s.dev.bay n).toFree = false) (hpark : (s.dev.bay n).toParked = false) :
    ∃ t, exec (.drainEnd n) s = .next t ∧ t.dev.bay n = { s.dev.bay n with st := .idle } ∧ (∀ m, m ≠ n.val → t.dev.bay m = s.dev.bay m) ∧ t.mem = s.mem := by
  obtain ⟨srv, js, jt, f, hlose⟩ := s.dev.loseHeld_spec n
  obtain ⟨d, hd⟩ : ∃ d, s.dev.loseHeld n = d := ⟨_, rfl⟩
  rw [hd] at hlose
  have hsig := d.toState_signals n .idle (by rw [hlose]; exact hmode)
  have hend : s.dev.drainEnd s.env n = (d.toState n .idle).flushVecs := by
    unfold Dev.drainEnd
    dsimp only
    rw [hst, hdone, if_neg (by decide), hd, hfree, if_neg (by decide), hpark]
    rfl
  generalize d.toState n .idle = x at hsig hend
  have hflush := x.traffic_flushVecs
  have hqx : x.quiet = true := hsig.quiet (by rw [hlose]; exact s.rests_quiet hs)
  have hat (m : Nat) : x.bay m = if m = n.val then { s.dev.bay n with st := .idle } else s.dev.bay m := by
    rw [hsig.bay, Dev.bay_setBay, hlose]
    rfl
  have hbays : (x.flushVecs.stampPorts s.env).bays = x.bays := (congrArg Dev.bays hflush.bare :)
  have hat' (m : Nat) : (x.flushVecs.stampPorts s.env).bay m = x.bay m := by
    unfold Dev.bay
    rw [hbays]
  refine ⟨{ s with dev := x.flushVecs.stampPorts s.env }, ?_, ((hat' n).trans (hat n)).trans (if_pos rfl),
    fun m hm => ((hat' m).trans (hat m)).trans (if_neg hm), rfl⟩
  exact show execDrainEnd n s = _ from s.go_stamped _ _ hs ((Dev.turn_rests _ _ _ _ (s.rests_ahead hs)).trans hend)
    ((Dev.quietButTimers_of_quiet x hqx).traffic hflush) ((Dev.stores_of_bare hflush.bare).trans (hsig.stores.trans (by rw [hlose]; exact s.rests_stores hs)))

end

/-! ### Re-attachment -/

theorem entryOf_reattach : ∀ n : Fin 16, entryOf (0x2D10 + n) 2 = some ⟨0x2D10, 16, 2, 2, 1, .oct 16, .wo, true, false, 0⟩ := by decide +kernel

theorem entBay_reattach : ∀ n : Fin 16, entBay ⟨0x2D10, 16, 2, 2, 1, .oct 16, .wo, true, false, 0⟩ (0x2D10 + n) 2 = some n.val := by decide +kernel

/-- A Bay that is attached again: it goes on, the host is told, and the event is recorded. -/
theorem Dev.reattached_idle (d : Dev) (e : Env) (n : Fin 16) (hq : d.quiet = true) (hmode : d.attachMode ≠ 1) (hquiet : d.bayQuiet n = true)
    (hevt : d.bayEvt n = false) (hhalts : d.trans.halts = []) (hsink : (d.jour n).sinkAt = none) : (d.reattached e n).quiet = true ∧
    (d.reattached e n).stores = d.stores ∧ (d.reattached e n).trans = d.trans ∧ (d.reattached e n).flogSeq = d.flogSeq + 1 ∧
    ∀ m, (d.reattached e n).bay m = if m = n.val then { d.bay n with st := .idle } else d.bay m := by
  have hset := d.toState_signals n .idle hmode
  obtain ⟨x, hx⟩ : ∃ x, x = d.toState n .idle := ⟨_, rfl⟩
  rw [← hx] at hset
  have hqx := hset.quiet hq
  obtain ⟨o, l, hxr, hl⟩ := hset
  have hun : x.trans.halts = [] := by rw [hxr]; exact hhalts
  have hevtx : x.bayEvt n = false := by rw [hxr]; exact hevt
  have hraise := x.raiseBay_signals n 4 hevtx
  obtain ⟨y, hy⟩ : ∃ y, y = x.raiseBay n 4 := ⟨_, rfl⟩
  rw [← hy] at hraise
  have hqy := hraise.quiet hqx
  obtain ⟨o', l', hyr, -⟩ := hraise
  obtain ⟨srv, f, hcount⟩ := y.count_books (0x2D10 + n) 4 1
  obtain ⟨srv', fl, k, hevent, -⟩ := ({ y with srv := srv, free := f } : Dev).event_spec e n 3
  have hdone : d.reattached e n = { y with srv := srv', flog := fl, flogSeq := y.flogSeq + 1, free := k } := by
    have hstate : (d.setBay n { d.bay n with st := if d.bayQuiet n then .idle else .running }).raisePf 3 = x := by
      rw [hquiet, hx]
      rfl
    unfold Dev.reattached
    dsimp only
    rw [hstate, Dev.issueHeld_none _ _ hqx (by rw [hxr]; exact hsink)]
    unfold Dev.unpark
    rw [Dev.resumeAll_none _ _ hun, ← hy, hcount]
    exact hevent
  rw [hdone]
  refine ⟨hqy, by rw [hyr, hxr]; rfl, by rw [hyr, hxr]; rfl, by rw [hyr, hxr]; rfl, fun m => ?_⟩
  rw [← d.bay_setBay n m, hyr, hxr]
  rfl

theorem reattach_attaches {r : Route} {n : Fin 16} {token : List Byte} {s : State} (h : s.accepts r (0x2D10 + n) 2 token = true)
    (hmode : s.dev.attachMode ≠ 1) (howner : s.dev.ownerLink n ≠ 1) (hquiet : s.dev.bayQuiet n = true) (hhalts : s.dev.trans.halts = [])
    (hsink : (s.dev.jour n).sinkAt = none) : ∃ t, exec (.reattach r n token) s = .next t ∧
      t.dev.bay n = { s.dev.bay n with st := .idle, hold := none, hbLost := false } ∧ t.dev.flogSeq = s.dev.flogSeq + 1 ∧
      (∀ m, m ≠ n.val → t.dev.bay m = s.dev.bay m) ∧ ∀ x ∈ t.dev.trans.tlb, ¬ (x.bay = n.val ∧ (x.kind = 1 ∨ x.peer = true)) := by
  obtain ⟨t, ha⟩ := State.accepted_of h
  have ht := ha.entry_eq (entryOf_reattach n)
  subst ht
  have hs := ha.carried.rests
  obtain ⟨w, hserver⟩ := ha.server
  have htells := ha.carried.tells
  have hjournal (x : Dev) : x.journalBay ⟨0x2D10, 16, 2, 2, 1, .oct 16, .wo, true, false, 0⟩ (0x2D10 + n) 2 = some n.val :=
    (x.journalBay_own (entBay_reattach n)).trans (if_neg (by decide))
  have hfree := ha.free n (hjournal _)
  rw [hserver] at htells hfree
  -- the effect of the write
  obtain ⟨b, hb⟩ : ∃ b : Bay, b = { s.dev.bay n with hold := none, hbLost := false } := ⟨_, rfl⟩
  obtain ⟨tr, htr⟩ : ∃ tr : Trans, tr = { s.dev.trans with
      tlb := s.dev.trans.tlb.filter fun x => !(x.bay == n.val && (x.kind == 1 || x.peer))
      micro := (s.dev.trans.micro.map fun c => (c.1, c.2.filter fun x => !(x.bay == n.val && (x.kind == 1 || x.peer)))).filter fun c => !c.2.isEmpty } := ⟨_, rfl⟩
  have hact : (s.dev.withWins w).reattach s.env n = { (s.dev.withWins w).setBay n b with trans := tr } := by
    unfold Dev.reattach
    rw [hb, htr]
    exact if_neg howner
  have happly : (s.atServer r (0x2D10 + n) 2 token).odApply s.env r ⟨0x2D10, 16, 2, 2, 1, .oct 16, .wo, true, false, 0⟩ (0x2D10 + n) 2 (leNat token) token
      (fun _ => false) {} = { (s.dev.withWins w).setBay n b with trans := tr } := by
    rw [hserver, ← hact]
    refine Dev.odApply_does ?_
    rw [if_pos (by decide), Nat.add_sub_cancel_left]
    rfl
  have hwrite := ha.odWrite_eq (by omega) happly (fun hi => by omega)
    (fun m hm => by rw [hjournal] at hm; rw [← Option.some.inj hm]; exact hfree) (fun hbase => absurd hbase (by decide))
  have htell : (({ (s.dev.withWins w).setBay n b with trans := tr } : Dev).journalChange s.env r (0x2D10 + n) 2 .ok (crc64 token)).tells r = true :=
    Dev.tells_of htells rfl rfl fun _ _ h => h
  obtain ⟨w', o, p, l, htold⟩ := Dev.odAnswer_told _ r htell
  obtain ⟨y, hy⟩ : ∃ y, y = (({ (s.dev.withWins w).setBay n b with trans := tr } : Dev).journalChange s.env r (0x2D10 + n) 2 .ok (crc64 token)).toldAs w' o p l :=
    ⟨_, rfl⟩
  have hbay (m : Nat) : y.bay m = if m = n.val then b else s.dev.bay m := by
    rw [← s.dev.bay_setBay n m b, hy]
    rfl
  have hheld : (y.bay n).held = (s.dev.bay n).held := by rw [hbay, if_pos rfl, hb]
  have hqy : y.bayQuiet n = true := by
    rw [← hquiet]
    unfold Dev.bayQuiet Dev.seating
    rw [hheld, hy]
    rfl
  have hevt : y.bayEvt n = false := by
    unfold Dev.bayEvt
    rw [show y.ownerLink n = s.dev.ownerLink n by rw [hy]; rfl]
    simpa using howner
  obtain ⟨hq, hst, htrans, hseq, hat⟩ := y.reattached_idle s.env n (by rw [hy]; exact Dev.quiet_link s.dev _ (s.rests_quiet hs) rfl) (by rw [hy]; exact hmode) hqy hevt
    (by rw [hy]; show tr.halts = []; rw [htr]; exact hhalts) (by rw [hy]; exact hsink)
  have hrow : s.dev.odWrite s.env r (0x2D10 + n) 2 token id = y.reattached s.env n := by
    rw [hwrite, htold, ← hy]
    unfold Dev.odAfter
    rw [if_neg (by simp), if_pos (by simp; omega), Nat.add_sub_cancel_left]
  have hseq0 : y.flogSeq = s.dev.flogSeq := by rw [hy]; rfl
  have htlb : y.trans.tlb = s.dev.trans.tlb.filter fun x => !(x.bay == n.val && (x.kind == 1 || x.peer)) := by
    rw [hy]
    show tr.tlb = _
    rw [htr]
  have hst0 : y.stores = [] := by rw [hy]; exact s.rests_stores hs
  generalize y.reattached s.env n = z at hq hst htrans hseq hat hrow
  refine ⟨{ s with dev := z }, show execReattach r n token s = _ from s.go_to _ _ hs hrow hq (hst.trans hst0), ?_, hseq.trans (by rw [hseq0]), fun m hm => ?_,
    fun x hx => ?_⟩
  · show z.bay n = _
    rw [hat, if_pos rfl, hbay, if_pos rfl, hb]
  · show z.bay m = _
    rw [hat, if_neg hm, hbay, if_neg hm]
  · have hx' : x ∈ z.trans.tlb := hx
    rw [htrans, htlb, List.mem_filter] at hx'
    simpa [imp_iff_not_or] using hx'.2

/-! ### A restart whose drain has ended -/

/-- The Spars that are neither armed nor mirrored take the values that a job's journal has of them, one after another. -/
theorem Dev.sparSets_plain (e : Env) (n base : Nat) (l : List Nat) (d : Dev) (h : ∀ i, (d.spar i).mirror = false ∧ (d.spar i).armed = false)
    (hq : d.quiet = true) : ∃ sp, l.foldl (fun d i => d.sparSet e (base + i) (smGet 0 (d.jour n).spars (base + i)).toNat) d = { d with spars := sp } ∧
      ({ d with spars := sp } : Dev).quiet = true ∧
      ∀ i, (smGet {} sp i).value = if ∃ j ∈ l, base + j = i then smGet 0 (d.jour n).spars i else (d.spar i).value := by
  induction l generalizing d with
  | nil => exact ⟨d.spars, rfl, hq, fun i => (if_neg (by simp)).symm⟩
  | cons j l ih =>
    have hset : d.sparSet e (base + j) (smGet 0 (d.jour n).spars (base + j)).toNat = d.setSpar (base + j) { d.spar (base + j) with value := smGet 0 (d.jour n).spars (base + j) } := by
      unfold Dev.sparSet
      rw [BitVec.ofNat_toNat, BitVec.setWidth_eq]
      exact d.sparPut_plain e _ _ (h _).2 (h _).1
    have hspar (i : Nat) : (d.setSpar (base + j) { d.spar (base + j) with value := smGet 0 (d.jour n).spars (base + j) }).spar i =
        if i = base + j then { d.spar (base + j) with value := smGet 0 (d.jour n).spars (base + j) } else d.spar i := smGet_set ({} : Spar) ..
    obtain ⟨sp, hfold, hq', hval⟩ := ih (d.setSpar (base + j) { d.spar (base + j) with value := smGet 0 (d.jour n).spars (base + j) })
      (fun i => by rw [hspar]; split; exacts [h _, h i]) (d.quiet_setSpar hq _ _ (d.quiet_spar hq _))
    rw [List.foldl_cons, hset]
    refine ⟨sp, hfold, hq', fun i => ?_⟩
    rw [hval, hspar]
    by_cases hi : i = base + j
    · subst hi
      rw [if_pos rfl]
      refine (ite_self _).trans ?_
      exact (if_pos ⟨j, List.mem_cons_self, rfl⟩).symm
    · rw [if_neg hi]
      refine if_congr ?_ rfl rfl
      simp only [List.mem_cons, exists_eq_or_imp]
      exact ⟨.inr, fun h => h.resolve_left fun h' => hi h'.symm⟩

theorem restartDrained_restarts {n : Fin 16} {s : State} (hs : s.rests = true) (hdrain : (s.dev.jour n).draining = true) (hlive : (s.dev.bay n).st.live = true)
    (hplain : ∀ i, (s.dev.spar i).mirror = false ∧ (s.dev.spar i).armed = false) :
    ∃ t, exec (.restartDrained n) s = .next t ∧ t.dev.jour n = { s.dev.jour n with draining := false } ∧
      t.dev.queue n (s.dev.jour n).q = { s.dev.queue n (s.dev.jour n).q with fe := (s.dev.jour n).pos, cmds := [] } ∧
      (∀ i, i < (s.dev.bay n).held.spar.count →
        (t.dev.spar ((s.dev.bay n).held.spar.base + i)).value = smGet 0 (s.dev.jour n).spars ((s.dev.bay n).held.spar.base + i)) ∧ t.mem = s.mem := by
  obtain ⟨sp, hsp, hq, hval⟩ := Dev.sparSets_plain s.env n (s.dev.bay n).held.spar.base (List.range (s.dev.bay n).held.spar.count) s.dev hplain
    (s.rests_quiet hs)
  have hreset : s.dev.resetSpars s.env n = { s.dev with spars := sp } := hsp
  obtain ⟨x, hx⟩ : ∃ x : Dev, x = { s.dev with spars := sp, jtick := {} } := ⟨_, rfl⟩
  have hqueue : x.queue n (s.dev.jour n).q = s.dev.queue n (s.dev.jour n).q := by rw [hx]; rfl
  refine ⟨{ s with dev := ((x.setQueue n (s.dev.jour n).q { s.dev.queue n (s.dev.jour n).q with fe := (s.dev.jour n).pos, cmds := [] }).setJour n
    { s.dev.jour n with draining := false }) }, ?_, Dev.setJour_jour _ _ _, Dev.setQueue_queue _ _ _ _, fun i hi => ?_, rfl⟩
  · refine show execRestartDrained n s = _ from s.go_to _ _ hs ?_ (by rw [hx]; exact hq) (by rw [hx]; exact s.rests_stores hs)
    dsimp only
    rw [hdrain, hlive, if_neg (by decide), hreset, hx]
    rfl
  · show (x.spar _).value = _
    rw [hx]
    refine (hval _).trans (if_pos ⟨i, List.mem_range.mpr hi, rfl⟩)

/-- Settles O16: a Bay without work drains in its state alone; the end of a drain or of a scrub zeroes the HBM that leaves the Bay; each other end changes
the Bay's own state. -/
theorem bayDrainsAndEnds : Obligations.BayDrainsAndEnds := by
  unfold Obligations.BayDrainsAndEnds
  refine ⟨fun r n s h hmode hun => ?_, fun r n s h hmode hun hshown => ?_, fun r n s h hmode hun hshown hcommit hst => ?_,
    fun n s hs hmode hst hscr hhomes hrt => ?_, fun n s hs hmode hst hdone hfree => drainEnd_frees hs hmode hst hdone hfree,
    fun n s hs hmode hst hdone hfree hpark => drainEnd_idles hs hmode hst hdone hfree hpark,
    fun n s hs hmode hst hquiet => bayBecomesIdle_idles hs hmode hst hquiet, fun n h s hs hmode hst hhold ht hun hshown => ?_,
    fun r n token s h hmode howner hquiet hhalts _ hsink => ?_, fun n s hs hdrain hlive hplain => restartDrained_restarts hs hdrain hlive hplain⟩
  · obtain ⟨t, ht, hb, ho⟩ := stop_drains h hmode hun
    exact ⟨t, ht, by rw [hb]; rfl, by rw [hb]; rfl, by rw [hb]; rfl, by rw [hb]; rfl, ho⟩
  · obtain ⟨t, ht, hb, ho⟩ := release_drains h hmode hun hshown
    exact ⟨t, ht, by rw [hb]; rfl, by rw [hb]; rfl, by rw [hb]; rfl, by rw [hb]; rfl, ho⟩
  · obtain ⟨t, ht, hb, ho⟩ := reset_drains h hmode hun hshown hcommit hst
    exact ⟨t, ht, by rw [hb]; rfl, by rw [hb]; rfl, by rw [hb]; rfl, by rw [hb]; rfl, ho⟩
  · obtain ⟨t, ht, hb, ho, hmem⟩ := commitScrubEnd_commits hs hmode hst hscr hhomes hrt
    exact ⟨t, ht, by rw [hb]; rfl, by rw [hb]; rfl, by rw [hb]; rfl, by rw [hb]; rfl, ho, hmem⟩
  · obtain ⟨t, ht, hb, hseq, ho⟩ := holdTimeExpire_drains hs hmode hst hhold ht hun hshown
    exact ⟨t, ht, by rw [hb]; rfl, by rw [hb]; rfl, by rw [hb]; rfl, hseq, ho⟩
  · obtain ⟨t, ht, hb, hseq, ho, htlb⟩ := reattach_attaches h hmode howner hquiet hhalts hsink
    exact ⟨t, ht, by rw [hb], by rw [hb], by rw [hb], hseq, ho, htlb⟩

end Sys2Proof.Machine
end

section
/-! PROOF. The actions of bay_ctl that drain nothing (R132 to R135): O15. -/
namespace Sys2Proof.Machine

/-- Entries take their defaults one after another: those, and no others. -/
theorem Dev.foldl_defaults (idx : Nat) {g : Nat → Nat} (l : List Nat) (d : Dev) (hg : ∀ i ∈ l, g i < 256) :
    ∃ od, l.foldl (fun d i => d.setOd idx (g i) (odDefault idx (g i))) d = { d with srv := { d.srv with od := od } } ∧
      ∀ k j, j < 256 → ({ d with srv := { d.srv with od := od } } : Dev).od k j = if k = idx ∧ ∃ i ∈ l, g i = j then odDefault idx j else d.od k j := by
  induction l generalizing d with
  | nil => exact ⟨d.srv.od, rfl, fun k j _ => (if_neg (by simp)).symm⟩
  | cons i l ih =>
    obtain ⟨od, hfold, hod⟩ := ih (d.setOd idx (g i) (odDefault idx (g i))) fun x hx => hg x (List.mem_cons_of_mem _ hx)
    refine ⟨od, hfold, fun k j hj => (hod k j hj).trans ?_⟩
    have hi := hg i List.mem_cons_self
    by_cases hk : k = idx ∧ g i = j
    · obtain ⟨rfl, rfl⟩ := hk
      rw [Dev.setOd_od, ite_self]
      exact (if_pos ⟨rfl, i, List.mem_cons_self, rfl⟩).symm
    · rw [d.setOd_od_other _ hj hi (fun h => hk ⟨(Prod.mk.injEq .. ▸ h).1, (Prod.mk.injEq .. ▸ h).2.symm⟩)]
      refine if_congr ?_ rfl rfl
      simp only [List.mem_cons, exists_eq_or_imp]
      exact ⟨fun h => ⟨h.1, .inr h.2⟩, fun h => ⟨h.1, h.2.resolve_left fun h' => hk ⟨h.1, h'⟩⟩⟩

section
variable {r : Route} {n : Fin 16} {s : State}

/-- A bay_ctl action that takes the Bay to `CONFIGURING`, with the entries that it writes. -/
theorem State.bayCtl_configures {c : Instr} {v : Nat} (hc : exec c s = s.odRow r (0x2100 + n) 2 1 v) (h : s.accepts r (0x2100 + n) 2 (leBytes 1 v) = true)
    (hv : v < 256) (hv2 : v ≠ 2) (hmode : s.dev.attachMode ≠ 1) {p : Dev → List (Nat × Nat) → Prop}
    (hact : ∀ d : Dev, d.attachMode ≠ 1 → ∃ od, d.bayCtl s.env n v r = ({ d with srv := { d.srv with od := od } } : Dev).toState n .configuring ∧ p d od ∧
      ∀ m, m < 16 → d.bayEvt m = false → ({ d with srv := { d.srv with od := od } } : Dev).bayEvt m = false) :
    ∃ t w, exec c s = .next t ∧ t.dev.bay n = { s.dev.bay n with st := .configuring } ∧ (∀ m, m ≠ n.val → t.dev.bay m = s.dev.bay m) ∧ t.mem = s.mem ∧
      p (s.dev.withWins w) t.dev.srv.od := by
  obtain ⟨hs, htells, w, hjob, hrow⟩ := State.bayCtl_acts hc h hv
  obtain ⟨d, hd⟩ : ∃ d, d = s.dev.withWins w := ⟨_, rfl⟩
  have hbay (m : Nat) : d.bay m = s.dev.bay m := by rw [hd]; rfl
  have hq : d.quiet = true := by rw [hd]; exact s.rests_quiet hs
  have hst : d.stores = [] := by rw [hd]; exact s.rests_stores hs
  have htells' : d.tells r = true := by rw [hd]; exact htells
  rw [← hd] at hjob hrow
  obtain ⟨od, hctl, hp, hevt⟩ := hact d (by rw [hd]; exact hmode)
  obtain ⟨y, hy⟩ : ∃ y : Dev, y = { d with srv := { d.srv with od := od } } := ⟨_, rfl⟩
  rw [← hy] at hctl hevt
  have hsig := y.toState_signals n .configuring (by rw [hy, hd]; exact hmode)
  obtain ⟨o, l, ha, hl⟩ := hsig
  obtain ⟨w', o', p', l', hexec⟩ := hrow _ hctl
    (Dev.Signalled.quiet ⟨o, l, ha, hl⟩ (by rw [hy]; exact hq)) (by rw [ha, hy]; exact hst)
    (Dev.tells_of htells' (by rw [ha, hy]; rfl) (by rw [ha]; exact (congrArg Link.msixOpen hl).trans (by rw [hy]; rfl)) fun m hm he => by
      rw [ha]; exact hevt m hm he)
    ((Dev.inJob_congr (by rw [ha, hy]; rfl) n).trans hjob) (fun h2 => absurd h2 hv2)
  have hat (m : Nat) : (y.toState n .configuring).bay m = if m = n.val then { s.dev.bay n with st := .configuring } else s.dev.bay m := by
    rw [ha, ← hbay n, ← hbay m]
    refine (y.bay_setBay n m { y.bay n with st := .configuring }).trans ?_
    rw [hy]
    rfl
  refine ⟨_, w, hexec, (hat n).trans (if_pos rfl), fun m hm => (hat m).trans (if_neg hm), rfl, ?_⟩
  have hod : (y.toState n .configuring).srv.od = od := by rw [ha, hy]; rfl
  rw [← hd]
  exact hod ▸ hp

theorem odDefault_ownerLink : ∀ n : Fin 16, odDefault (0x2100 + n) 5 = 256 := by decide +kernel

/-- What CLAIM does to a device: the Bay's settings take their defaults, by which it has no owner link to signal to. -/
theorem claim_defaults (d : Dev) (hd : d.attachMode ≠ 1) : ∃ od, d.bayCtl s.env n 1 r = ({ d with srv := { d.srv with od := od } } : Dev).toState n .configuring ∧
    (∀ i, 3 ≤ i → i ≤ 0x1A → smGet (odDefault (0x2100 + n) i) od ((0x2100 + n) * 256 + i) = odDefault (0x2100 + n) i) ∧
    ∀ m, m < 16 → d.bayEvt m = false → ({ d with srv := { d.srv with od := od } } : Dev).bayEvt m = false := by
  obtain ⟨od, hfold, hod⟩ := Dev.foldl_defaults (0x2100 + n) (g := fun i => 3 + i) (List.range 0x18) d
    fun i hi => by have := List.mem_range.mp hi; omega
  refine ⟨od, congrArg (fun x : Dev => x.toState n .configuring) hfold, fun i h3 h1a => ?_, fun m hm hevt => ?_⟩
  · exact (hod _ i (by omega)).trans (if_pos ⟨rfl, i - 3, List.mem_range.mpr (by omega), by omega⟩)
  · have h5 := hod (0x2100 + m) 5 (by decide)
    obtain ⟨x, hx⟩ : ∃ x : Dev, ({ d with srv := { d.srv with od := od } } : Dev) = x := ⟨_, rfl⟩
    have hmode' : x.attachMode = d.attachMode := by rw [← hx]; rfl
    rw [hx] at h5 ⊢
    unfold Dev.bayEvt Dev.ownerLink at hevt ⊢
    rw [hmode']
    by_cases hmn : m = n.val
    · rw [hmn] at h5 ⊢
      rw [if_pos ⟨rfl, 2, List.mem_range.mpr (by decide), rfl⟩, odDefault_ownerLink] at h5
      rw [h5, if_neg (by decide), beq_false_of_ne hd]
      rfl
    · rw [if_neg fun hk => hmn (by obtain ⟨hk, -⟩ := hk; omega)] at h5
      rwa [h5]

/-- CLAIM: the Bay's settings take their defaults. -/
theorem claim_configures (h : s.accepts r (0x2100 + n) 2 [1] = true) (hmode : s.dev.attachMode ≠ 1) :
    ∃ t, exec (.claim r n) s = .next t ∧ t.dev.bay n = { s.dev.bay n with st := .configuring } ∧ (∀ m, m ≠ n.val → t.dev.bay m = s.dev.bay m) ∧
      (∀ i, 3 ≤ i → i ≤ 0x1A → t.dev.od (0x2100 + n) i = odDefault (0x2100 + n) i) ∧ t.mem = s.mem := by
  obtain ⟨t, w, ht, hn, hm, hmem, hod⟩ := State.bayCtl_configures (c := .claim r n) (v := 1) rfl h (by decide) (by decide) hmode
    (p := fun _ od => ∀ i, 3 ≤ i → i ≤ 0x1A → smGet (odDefault (0x2100 + n) i) od ((0x2100 + n) * 256 + i) = odDefault (0x2100 + n) i) claim_defaults
  exact ⟨t, ht, hn, hm, hod, hmem⟩

/-- RECONFIGURE keeps what the Bay holds. -/
theorem reconfigure_configures (h : s.accepts r (0x2100 + n) 2 [3] = true) (hmode : s.dev.attachMode ≠ 1) :
    ∃ t, exec (.reconfigure r n) s = .next t ∧ t.dev.bay n = { s.dev.bay n with st := .configuring } ∧ (∀ m, m ≠ n.val → t.dev.bay m = s.dev.bay m) ∧
      t.mem = s.mem := by
  obtain ⟨t, -, ht, hn, hm, hmem, -⟩ := State.bayCtl_configures (c := .reconfigure r n) (v := 3) rfl h (by decide) (by decide) hmode (p := fun _ _ => True)
    fun d _ => ⟨d.srv.od, rfl, trivial, fun _ _ hevt => hevt⟩
  exact ⟨t, ht, hn, hm, hmem⟩

/-- A COMMIT that drops nothing is done at once. -/
theorem commit_grants (h : s.accepts r (0x2100 + n) 2 [2] = true) (hmode : s.dev.attachMode ≠ 1) (hdrops : s.dev.dropsUnits n = false) :
    ∃ t, exec (.commit r n) s = .next t ∧ t.dev.bay n = (s.dev.bay n).committed (s.dev.wantRanges n) ∧
      (∀ m, m ≠ n.val → t.dev.bay m = s.dev.bay m) ∧ t.mem = s.mem := by
  obtain ⟨hs, htells, w, hjob, hrow⟩ := State.bayCtl_acts (c := .commit r n) (v := 2) rfl h (by decide)
  obtain ⟨d, hd⟩ : ∃ d, d = s.dev.withWins w := ⟨_, rfl⟩
  have hbay (m : Nat) : d.bay m = s.dev.bay m := by rw [hd]; rfl
  have hwant : d.wantRanges n = s.dev.wantRanges n := by rw [hd]; rfl
  have hdrops' : d.dropsUnits n = false := by rw [hd]; exact hdrops
  have hq : d.quiet = true := by rw [hd]; exact s.rests_quiet hs
  have hst : d.stores = [] := by rw [hd]; exact s.rests_stores hs
  have htells' : d.tells r = true := by rw [hd]; exact htells
  rw [← hd] at hjob hrow
  obtain ⟨out, l, od, lo, hdone, hl, hod⟩ := d.commitDone_spec s.env n n.isLt (by rw [hd]; exact hmode)
  obtain ⟨a, ha⟩ : ∃ a, d.commitDone s.env n = a := ⟨_, rfl⟩
  rw [ha] at hdone hod
  have hat (m : Nat) : a.bay m = if m = n.val then (s.dev.bay n).committed (s.dev.wantRanges n) else s.dev.bay m := by
    rw [← hbay n, ← hbay m, ← hwant, ← d.bay_setBay, hdone]
    rfl
  have hboard : a.board = d.board := by rw [hdone]; rfl
  obtain ⟨w', o', p', l', hexec⟩ := hrow a ((if_neg (by rw [hdrops']; exact Bool.false_ne_true)).trans ha)
    (by rw [hdone]; exact Dev.quiet_link d l hq (congrArg Link.heldRecs hl :)) (by rw [hdone]; exact hst)
    (Dev.tells_of htells' hboard (by rw [hdone]; exact (congrArg Link.msixOpen hl :)) fun m hm he => by
      rw [← he]
      unfold Dev.bayEvt Dev.ownerLink Dev.attachMode
      rw [hod _ _ (by omega) (by decide), hboard])
    ((Dev.inJob_congr (by rw [hdone]; rfl) n).trans hjob) (fun _ => by rw [hat, if_pos rfl]; rfl)
  exact ⟨_, hexec, (hat n).trans (if_pos rfl), fun m hm => (hat m).trans (if_neg hm), rfl⟩

/-- A COMMIT that drops units waits for their scrub. -/
theorem commit_waits (h : s.accepts r (0x2100 + n) 2 [2] = true) (hdrops : s.dev.dropsUnits n = true) (hshown : s.unshown = true) :
    ∃ t, exec (.commit r n) s = .next t ∧ t.dev.bay n = { s.dev.bay n with scrubbing := true, next := s.dev.wantRanges n, commitRt := some r } ∧
      (∀ m, m ≠ n.val → t.dev.bay m = s.dev.bay m) ∧ t.mem = s.mem := by
  obtain ⟨hs, w, hjob, hrow⟩ := State.bayCtl_waits (c := .commit r n) rfl h
  obtain ⟨d, hd⟩ : ∃ d, d = s.dev.withWins w := ⟨_, rfl⟩
  rw [← hd] at hjob hrow
  obtain ⟨y, hy⟩ : ∃ y, y = d.setBay n { s.dev.bay n with scrubbing := true, next := s.dev.wantRanges n, commitRt := some r } := ⟨_, rfl⟩
  have hnone : y.shownLines s.env (fun _ => true) = [] := by
    have hsame : y.shownLines s.env (fun _ => true) = s.dev.shownLines s.env (fun _ => true) := by rw [hy, hd]; rfl
    exact hsame.trans (List.isEmpty_iff.mp hshown)
  obtain ⟨a, ha⟩ : ∃ a, y.scrubStart s.env ((d.bay n).held.hbm.minus (d.wantRanges n).hbm) = a := ⟨_, rfl⟩
  have hstop : y.Stopped a := ha ▸ Dev.scrubStart_unshown s.env _ hnone
  have hat (m : Nat) : a.bay m = if m = n.val then { s.dev.bay n with scrubbing := true, next := s.dev.wantRanges n, commitRt := some r } else s.dev.bay m := by
    rw [hstop.bay, hy]
    refine (d.bay_setBay _ _ _).trans ?_
    rw [hd]
    rfl
  have hrest : a.stores = y.stores ∧ a.journals = y.journals := ⟨(congrArg Dev.stores hstop.rest :), (congrArg Dev.journals hstop.rest :)⟩
  have hexec := hrow a ((if_pos (by rw [hd]; exact hdrops)).trans (by rw [← ha, hy, hd]; rfl)) (hstop.quiet (by rw [hy, hd]; exact s.rests_quiet hs))
    (by rw [hrest.1, hy, hd]; exact s.rests_stores hs) ((Dev.inJob_congr (by rw [hrest.2, hy]; rfl) n).trans hjob) (by rw [hat, if_pos rfl])
  exact ⟨_, hexec, (hat n).trans (if_pos rfl), fun m hm => (hat m).trans (if_neg hm), rfl⟩

end

/-- Settles O15: CLAIM and RECONFIGURE take the Bay to `CONFIGURING`; COMMIT grants what the entries ask for, or waits for the scrub. -/
theorem bayActions : Obligations.BayActions := by
  unfold Obligations.BayActions
  refine ⟨fun r n s h hmode => claim_configures h hmode, fun r n s h hmode => reconfigure_configures h hmode, fun r n s h hmode hdrops _ => ?_,
    fun r n s h hdrops hshown => commit_waits h hdrops hshown⟩
  obtain ⟨t, ht, hn, hm, hmem⟩ := commit_grants h hmode hdrops
  exact ⟨t, ht, by rw [hn]; rfl, by rw [hn]; rfl, by rw [hn]; rfl, hm, hmem⟩

end Sys2Proof.Machine
end

section
/-! PROOF. Requests at a home that nothing is under way at, and what a transaction leaves (R269 to R300). -/
namespace Sys2Proof.Machine

/-! ### A request that starts at once -/

/-- The home of a line serves, and no request is under way at any home. -/
structure Dev.Idle (d : Dev) (e : Env) (line : Nat) : Prop where
  homed : homed line = true
  active : (d.island (272 + sliceOf line)).st = .active
  txns : d.ridge.txns = []
  waiting : d.ridge.waiting = []
  arrays : d.arrays = []
  calm : e.calm = true

section
variable {d : Dev} {e : Env} {line : Nat} {q : HomeReq}

theorem Dev.hasTracker_free (h : d.ridge.txns = []) (line : Nat) (op : RReq) : d.hasTracker line op = true := by
  have hnone (sl : Nat) (n : Option Nat) : d.trackers sl n = 0 := by
    unfold Dev.trackers
    rw [h]
    rfl
  unfold Dev.hasTracker
  simp only [hnone]
  rw [show Nat.blt ((bays16.map fun _ => 0 - 8).sum + 0) 120 = true by decide, Bool.or_true]

theorem Dev.Idle.mayStart (h : d.Idle e line) (hway : d.needsWay e line q = true → (d.dirVictim line 0xFF).isSome = true) : d.mayStart e line q = true := by
  have hbusy : d.lineBusy line = false := by
    unfold Dev.lineBusy
    rw [h.txns]
    rfl
  unfold Dev.mayStart
  rw [hbusy, d.hasTracker_free h.txns, d.defers_calm e line q h.calm, h.active]
  cases hn : d.needsWay e line q with
  | false => simp
  | true => simp [hway hn]

theorem Dev.homePump_none (h : d.ridge.waiting = []) (e : Env) : d.homePump e = d := by
  unfold Dev.homePump
  rw [h]
  rfl

/-- A request that reaches an idle home starts, and none waits behind it. -/
theorem Dev.Idle.homeArrive (h : d.Idle e line) (hway : d.needsWay e line q = true → (d.dirVictim line 0xFF).isSome = true) :
    d.homeArrive e line q = d.startTxn e line { q with time := e.time } := by
  unfold Dev.homeArrive
  dsimp only
  rw [if_pos]
  rw [h.mayStart (q := { q with time := e.time }) hway, h.waiting]
  rfl

theorem Dev.Idle.homeReq (h : d.Idle e line) (hway : d.needsWay e line q = true → (d.dirVictim line 0xFF).isSome = true) {x : Dev}
    (hx : d.startTxn e line { q with time := e.time } = x) (hw : x.ridge.waiting = []) : d.homeReq e line q = x := by
  unfold Dev.homeReq Dev.islAnswer
  rw [h.active]
  dsimp only
  rw [h.homeArrive hway, hx, Dev.homePump_none hw]

end

theorem Dev.shadowed_none {d : Dev} (h : d.arrays = []) (a len : Nat) : d.shadowed a len = false := by
  unfold Dev.shadowed
  rw [h]
  rfl

/-! ### The entry of a line -/

/-- A line's entry that has its way, or takes the way kept for it. -/
theorem Dev.putDir_entry (d : Dev) (e : Env) (line : Nat) (x : Dir) {way : Option Nat} (h : (d.dir line).isSome = true ∨ way.isSome = true) :
    ∃ y st, d.putDir e line (some x) way = d.setRidge { d.ridge with stamp := st, dir := smSet none d.ridge.dir line (some y) } ∧
      y.kind = x.kind ∧ y.owner = x.owner ∧ (d.dir line = none → way = some y.way) := by
  unfold Dev.putDir
  dsimp only
  rw [show (d.setRidge { d.ridge with stamp := d.ridge.stamp + 1 }).dir line = d.dir line from rfl]
  cases hd : d.dir line with
  | some o => exact ⟨_, _, rfl, rfl, rfl, nofun⟩
  | none =>
    cases hw : way with
    | some w => exact ⟨_, _, rfl, rfl, rfl, fun _ => rfl⟩
    | none => simp [hd, hw] at h

theorem Dev.dir_setRidge (d : Dev) (line l : Nat) (y : Option Dir) (r : Ridge) (h : r.dir = smSet none d.ridge.dir line y) :
    (d.setRidge r).dir l = if l = line then y else d.dir l := by
  unfold Dev.dir Dev.setRidge
  rw [h]
  exact smGet_set (none : Option Dir) ..

/-! ### An answer to the requester -/

/-- The requester of a request that a message brought, and that its island has not abandoned. -/
structure HomeReq.Plain (q : HomeReq) : Prop where
  who : q.who = none
  self : q.self = false
  tn : q.tn ≠ goneTn

theorem Dev.homeAnswer_caching (d : Dev) (e : Env) (line : Nat) {q : HomeReq} (hq : q.Plain) (hop : q.op.caching = true) (kind : String) (st : Nat)
    (data : List Byte) (p : Bool) (s : Status) : d.homeAnswer e line q kind st data p s = d.toAgent q.a kind line q.tn st data p := by
  unfold Dev.homeAnswer
  rw [hq.self, hq.who, hop]
  dsimp only
  rw [if_neg (by decide), if_neg hq.tn, if_pos rfl]

/-- A non-caching agent of this device, and neither the host's, nor a member's, nor the home itself. -/
theorem Dev.homeAnswer_island (d : Dev) (e : Env) (line : Nat) {q : HomeReq} (hq : q.Plain) (hop : q.op.caching = false) (ha : q.a < 348) (ha' : q.a ≠ 326)
    (kind : String) (st : Nat) (data : List Byte) (p : Bool) (s : Status) :
    d.homeAnswer e line q kind st data p s = d.send (.ridge (kind ++ poisonName p) (lineIsl line) q.a line q.tn st data) := by
  unfold Dev.homeAnswer
  rw [hq.self, hq.who, hop]
  dsimp only
  rw [if_neg (by decide), if_neg hq.tn, if_neg (by decide), if_neg ha', if_neg (show ¬ 400 ≤ q.a by omega),
    if_neg (show ¬ (decide (q.a = recallIsl) || decide (q.a = scrubIsl)) = true by
      rw [Bool.or_eq_true, decide_eq_true_eq, decide_eq_true_eq]
      unfold recallIsl scrubIsl
      omega)]

theorem Dev.toAgent_cluster (d : Dev) {a : Nat} (h : a < 16) (kind : String) (line tn st : Nat) (data : List Byte) (p : Bool) :
    d.toAgent a kind line tn st data p = d.send (.ridge (kind ++ poisonName p) (lineIsl line) a line tn st data) := if_pos h

/-! ### What a transaction leaves -/

/-- A line is granted to its reader, which holds it alone from then on. -/
theorem Dev.grants_x (d : Dev) (e : Env) (t : Txn) (st : Nat) (data : List Byte) (p : Bool) {o : Out} (hq : t.req.Plain) (hop : t.req.op.caching = true)
    (hway : (d.dir t.line).isSome = true ∨ t.way.isSome = true)
    (ho : ∀ r, (d.setRidge r).toAgent t.req.a "Data" t.line t.req.tn st data p = (d.setRidge r).send o) :
    ∃ y st', (((d.putDir e t.line (mkX t.req.r) t.way).homeAnswer e t.line t.req "Data" st data p .ok)).grant t =
      ({ d with
          ridge := { d.ridge with
            stamp := st'
            dir := smSet none d.ridge.dir t.line (some y)
            txns := { t with granted := true, wait := [] } :: d.ridge.txns.filter (·.line != t.line) } } : Dev).send o ∧
      y.kind = .x ∧ y.owner = t.req.a ∧ (d.dir t.line = none → t.way = some y.way) := by
  obtain ⟨y, st', hput, hkind, howner, hw⟩ := d.putDir_entry e t.line { kind := .x, owner := t.req.r } hway
  refine ⟨y, st', ?_, hkind, howner.trans (by unfold HomeReq.r; rw [hop]; rfl), hw⟩
  unfold mkX
  rw [hput, Dev.homeAnswer_caching _ e _ hq hop, ho]
  unfold Dev.grant
  rw [hq.self, if_neg (by decide)]
  rfl

/-- The bytes and the poison that a transaction answers with: those a snoop brought, else those of memory. -/
def Dev.found (d : Dev) (e : Env) (t : Txn) : List Byte × Bool :=
  match t.dirty with
  | some x => x.2
  | none => (d.bytes e (t.line * 64) 64, d.poisoned e t.line)

/-- What a transaction starts from that loses nothing, and whose dirty data, if a snoop brought some, is not the host's. -/
structure Txn.Sound (t : Txn) : Prop where
  lost : t.lost = false
  ecc : t.req.ecc = true
  dirty : ∀ x, t.dirty = some x → x.1 ≠ 16

section
variable {d : Dev} {e : Env} {t : Txn}

theorem Dev.finishTxn_rdOwn (h : t.Sound) (hop : t.req.op = .rdOwn) : d.finishTxn e t =
    (((d.putDir e t.line (mkX t.req.r) t.way).homeAnswer e t.line t.req "Data" (if t.dirty.isSome then 4 else 2) (d.found e t).1 (d.found e t).2 .ok)).grant t := by
  unfold Dev.finishTxn Dev.found Dev.memLine
  simp only [h.lost, h.ecc, hop, Bool.false_eq_true, if_false, if_true]
  cases hd : t.dirty with
  | none => rfl
  | some x =>
    obtain ⟨a, bs, p⟩ := x
    have ha : a ≠ 16 := h.dirty _ hd
    dsimp only
    split
    · next heq => exact absurd (congrArg (fun x => x.1) (Option.some.inj heq)) ha
    · rfl

/-- A read by a non-caching agent whose snoop has lost the line. -/
theorem Dev.finishTxn_ncRead_lost (hlost : t.lost = true) (hecc : t.req.ecc = true) (hre : t.rebuilt = none) (hop : t.req.op = .ncRead) {x : Dev}
    (hx : d.loseLine e t.line = x) : d.finishTxn e t =
    (x.homeAnswer e t.line t.req "Data" 0 (x.bytes e (t.line * 64) 64) (x.poisoned e t.line) .ok).dropTxn t.line := by
  unfold Dev.finishTxn Dev.memLine
  simp only [hlost, hecc, hre, hop, if_true, hx]
  rfl

end

/-- An entry of a line homed here leaves the directory, and its summary byte is 0. -/
theorem Dev.putDir_none (d : Dev) (e : Env) {line : Nat} (way : Option Nat) (h : homed line = true) : ∃ st,
    d.putDir e line none way = { d with stores := st ++ d.stores, ridge := { d.ridge with dir := smSet none d.ridge.dir line none } } ∧
      (st = [] ∧ d.byte e (sumAddr line) = 0 ∨ st = [.write (sumAddr line) [0]]) := by
  unfold Dev.putDir
  dsimp only
  rw [if_pos h]
  unfold Dev.setSummary
  split
  · next hb => exact ⟨[], rfl, .inl ⟨rfl, BitVec.eq_of_toNat_eq (hb.trans rfl)⟩⟩
  · exact ⟨[.write (sumAddr line) [0]], rfl, .inr rfl⟩

/-! ### Snoops -/

section
variable {d : Dev} {e : Env} {line : Nat} {q : HomeReq} {x : Dir}

/-- A request for a line that has an entry starts as the entry says. -/
theorem Dev.startTxn_entry (harr : d.arrays = []) (hfrozen : d.frozenFor line q = false) (hop : q.op ≠ .wbDirty) (hdir : d.dir line = some x) {l : List Nat}
    (hs : (snoopFor q.op q.r x).2 = l) : d.startTxn e line q =
    if l.isEmpty then (d.count 0x2400 4 1).finishTxn e { line := line, req := q, snp := (snoopFor q.op q.r x).1, entry := some x, time := e.time, wait := l }
    else (d.count 0x2400 4 1).snoopAll e { line := line, req := q, snp := (snoopFor q.op q.r x).1, entry := some x, time := e.time, wait := l } := by
  have hway : d.needsWay e line q = false := by
    unfold Dev.needsWay
    rw [hdir]
    rfl
  have hwb : (q.op == RReq.wbDirty) = false := beq_false_of_ne hop
  unfold Dev.startTxn
  simp only [Dev.shadowed_none harr, hfrozen, Bool.false_and, Bool.or_false, Bool.false_eq_true, if_false, hwb, hway, hdir, hs]

/-- The one cluster that a snoop goes to answers by rows: the snoop goes out, and its answer is waited for. -/
theorem Dev.snoopAll_waits {t : Txn} {b : Nat} (hb : b < 16) (hw : t.wait = [b]) (hrow : d.ridge.rowed.contains b = true) : d.snoopAll e t =
    ({ d with ridge := { d.ridge with txns := t :: d.ridge.txns } } : Dev).send (.ridge (snpName t.snp ++ poisonName false) (lineIsl t.line) b t.line t.req.tn 0 []) := by
  have hlive : ∀ x : Dev, x.deadAgent b = false := fun x => by
    unfold Dev.deadAgent
    rw [beq_false_of_ne (show b ≠ 16 by omega)]
    rfl
  have hone : ∀ x : Dev, x.ridge.rowed = d.ridge.rowed → x.answersAtOnce b = false := fun x hx => by
    unfold Dev.answersAtOnce
    rw [hx, hrow, Bool.not_true, Bool.and_false]
  obtain ⟨x, hx⟩ : ∃ x, d.setRidge { d.ridge with txns := t :: d.ridge.txns } = x := ⟨_, rfl⟩
  have hrx : x.ridge.rowed = d.ridge.rowed := by rw [← hx]; rfl
  have hsnoop : x.snoop t.snp b t.line t.req.tn = x.send (.ridge (snpName t.snp ++ poisonName false) (lineIsl t.line) b t.line t.req.tn 0 []) := by
    unfold Dev.snoop
    rw [if_neg (show b ≠ 16 by omega), Dev.toAgent_cluster _ hb]
  unfold Dev.snoopAll
  dsimp only
  rw [hw, hx]
  simp only [List.foldl_cons, List.foldl_nil]
  rw [hlive x, hone x hrx, if_neg (show ¬ (false || false) = true by decide), hsnoop, hlive, if_neg (show ¬ false = true by decide), hone (x.send _) hrx,
    if_neg (show ¬ false = true by decide), ← hx]
  rfl

end

/-- A transaction after the last answer that it waited for. -/
def Txn.answered (t : Txn) (a st : Nat) (dirty : Option (List Byte × Bool)) (lost : Bool) : Txn :=
  { t with wait := [], ans := t.ans ++ [(a, st)], lost := t.lost || lost, dirty := match dirty with | some x => some (a, x) | none => t.dirty }

theorem listDel_self (b : Nat) : listDel b [b] = [] := by simp [listDel]

theorem Dev.answerOf_last {d : Dev} {t : Txn} {a : Nat} (htx : d.ridge.txns = [t]) (hw : t.wait = [a]) (e : Env) (st : Nat) (dirty : Option (List Byte × Bool))
    (lost : Bool) : d.answerOf e t.line a st dirty lost =
      (if dirty.isNone && st = 0 && !lost then d.count 0x2400 7 1 else d).finishTxn e (t.answered a st dirty lost) := by
  have hfind : (d.ridge.txns.find? fun u => u.line == t.line && u.wait.contains a) = some t := by
    rw [htx]
    exact List.find?_cons_of_pos (by rw [hw]; simp)
  unfold Dev.answerOf
  rw [hfind]
  dsimp only
  unfold Dev.snpAnswer
  dsimp only
  rw [hw, listDel_self, if_pos (show ([] : List Nat).isEmpty = true from rfl)]
  unfold Txn.answered
  cases dirty <;> rfl

/-- The one cluster that a snoop goes to answers at once, and held the line clean. -/
theorem Dev.snoopAll_atOnce {d : Dev} {t : Txn} {b : Nat} (hb : b < 16) (hw : t.wait = [b]) (hrow : d.ridge.rowed.contains b = false) (htx : d.ridge.txns = [])
    (hsnp : t.snp = 2) (hst : (d.l2 b t.line).st = .e) (e : Env) : d.snoopAll e t =
    (((d.setRidge { d.ridge with txns := [t] }).setL2 b t.line {}).count 0x2400 7 1).finishTxn e (t.answered b 0 none false) := by
  have hlive : ∀ x : Dev, x.deadAgent b = false := fun x => by
    unfold Dev.deadAgent
    rw [beq_false_of_ne (show b ≠ 16 by omega)]
    rfl
  obtain ⟨x, hx⟩ : ∃ x, d.setRidge { d.ridge with txns := [t] } = x := ⟨_, rfl⟩
  have honce : x.answersAtOnce b = true := by
    have hrx : x.ridge.rowed = d.ridge.rowed := by rw [← hx]; rfl
    unfold Dev.answersAtOnce
    rw [hrx, hrow]
    simpa using hb
  have hl2 : (x.l2 b t.line).st = .e := by rw [← hx]; exact hst
  have hanswer : x.l2Snoop t.snp b t.line = (x.l2 b t.line, false, x.setL2 b t.line {}) := by
    unfold Dev.l2Snoop
    dsimp only
    rw [hsnp, hl2]
    rfl
  unfold Dev.snoopAll
  dsimp only
  rw [hw, htx, hx]
  simp only [List.foldl_cons, List.foldl_nil]
  rw [hlive x, honce, if_pos (show (false || true) = true by decide), hlive x, if_neg (show ¬ false = true by decide), honce, if_pos rfl, hanswer, hsnp, hl2]
  refine (Dev.answerOf_last (t := t) (show (x.setL2 b t.line {}).ridge.txns = [t] by rw [← hx]; rfl) hw e _ none false).trans ?_
  rfl

end Sys2Proof.Machine
end

section
/-! PROOF. Snoops, their answers, and the caching agents (R269 to R298): O31. -/
namespace Sys2Proof.Machine

theorem mem_listIns_of_mem {x : Nat} (y : Nat) {l : List Nat} (h : x ∈ l) : x ∈ listIns y l := by
  induction l with
  | nil => exact absurd h List.not_mem_nil
  | cons z l ih =>
    unfold listIns
    split
    · exact h
    · split
      · exact List.mem_cons_of_mem _ h
      · rcases List.mem_cons.mp h with rfl | hl
        · exact List.mem_cons_self
        · exact List.mem_cons_of_mem _ (ih hl)

theorem mem_of_mem_listIns {x y : Nat} {l : List Nat} (h : x ∈ listIns y l) : x = y ∨ x ∈ l := by
  induction l with
  | nil => exact .inl (List.mem_singleton.mp h)
  | cons z l ih =>
    unfold listIns at h
    split at h
    · exact .inr h
    · split at h
      · exact List.mem_cons.mp h
      · rcases List.mem_cons.mp h with rfl | hl
        · exact .inr List.mem_cons_self
        · exact (ih hl).imp_right (List.mem_cons_of_mem _)

/-! ### A home grants a line -/

section
variable {s : State} {line : Nat}

/-- A transaction ends in a grant to a cluster: from a device with nothing to store, what it leaves. -/
theorem Dev.finishTxn_granted {d : Dev} {e : Env} {t : Txn} {a : Nat} (h : t.Sound) (hop : t.req.op = .rdOwn) (hq : t.req.Plain) (ha : t.req.a = a) (ha16 : a < 16)
    (hdir : (d.dir t.line).isSome = true) : ∃ y st, d.finishTxn e t = ({ d with
      ridge := { d.ridge with
        stamp := st
        dir := smSet none d.ridge.dir t.line (some y)
        txns := { t with granted := true, wait := [] } :: d.ridge.txns.filter (·.line != t.line) } } : Dev).send
      (.ridge ("Data" ++ poisonName (d.found e t).2) (lineIsl t.line) a t.line t.req.tn (if t.dirty.isSome then 4 else 2) (d.found e t).1) ∧
      y.kind = .x ∧ y.owner = a := by
  rw [Dev.finishTxn_rdOwn h hop]
  obtain ⟨y, st, hg, hk, ho, -⟩ := d.grants_x e t (if t.dirty.isSome then 4 else 2) (d.found e t).1 (d.found e t).2 hq (by rw [hop]; rfl) (.inl hdir)
    fun r => Dev.toAgent_cluster _ (by rw [ha]; exact ha16) ..
  exact ⟨y, st, by rw [hg, ha], hk, ho.trans ha⟩

theorem State.frozenFor_thawed (h : s.thawed line = true) (q : HomeReq) : s.dev.frozenFor line q = false := by
  unfold State.thawed at h
  unfold Dev.frozenFor
  cases hl : s.dev.lineBay line with
  | none => simp
  | some n =>
    rw [hl] at h
    dsimp only at h ⊢
    rw [(Bool.not_eq_true' _).mp h, Bool.and_false]

/-- A cluster's read for ownership that waits for the answer of another. -/
def readTxn (line a tn time : Nat) (x : Dir) (b : Nat) : Txn :=
  { line := line, req := { op := .rdOwn, a := a, tn := tn, time := time }, snp := 2, entry := some x, time := time, wait := [b] }

/-- A cluster's read for ownership of a line that another holds: what starts at its home. -/
theorem rdOwn_snoops {a b : Fin 33} {tn : Nat} {x : Dir} (hs : s.rests = true) (hh : homed line = true) (hact : (s.dev.island (272 + sliceOf line)).st = .active)
    (htx : s.dev.ridge.txns = []) (hw : s.dev.ridge.waiting = []) (harr : s.dev.arrays = []) (hdir : s.dev.dir line = some x) (hk : x.kind = .x)
    (ho : x.owner = b.val) (ha : a.val < 16) (hab : a ≠ b) (hth : s.thawed line = true) :
    (s.dev.rowed a).startTxn s.env line { op := .rdOwn, a := a, tn := tn, time := s.time } = ((s.dev.rowed a).count 0x2400 4 1).snoopAll s.env (readTxn line a tn s.time x b) ∧
    ∀ y, (s.dev.rowed a).startTxn s.env line { op := .rdOwn, a := a, tn := tn, time := s.time } = y → y.ridge.waiting = [] → y.quiet = true → y.stores = [] →
      exec (.rdOwn a line true tn) s = .next { s with dev := y } := by
  have hne : a.val ≠ b.val := fun h => hab (Fin.ext h)
  have hsn : (snoopFor .rdOwn a.val x).2 = [b.val] := by
    simp [snoopFor, Dir.holders, hk, ho, listDel, hne.symm]
  have hway : (s.dev.rowed a).needsWay s.env line { op := .rdOwn, a := a, tn := tn } = false := by
    unfold Dev.needsWay
    rw [show (s.dev.rowed a).dir line = some x from hdir]
    rfl
  refine ⟨?_, fun y hy hyw hq hst => ?_⟩
  · refine (Dev.startTxn_entry (d := s.dev.rowed a) (q := { op := .rdOwn, a := a, tn := tn, time := s.time }) harr (State.frozenFor_thawed hth _) (by simp) hdir
      hsn).trans ?_
    rfl
  · refine show execRdOwn a line true s tn = _ from s.go_to _ y hs ?_ hq hst
    have hidle : (s.dev.rowed a).Idle s.env line := ⟨hh, hact, htx, hw, harr, s.rests_calm hs⟩
    unfold Dev.agentReq
    rw [if_neg (by simp [hh, Dev.agentHere, ha]), if_pos ha]
    exact hidle.homeReq (q := { op := .rdOwn, a := a, tn := tn }) (fun h => by rw [hway] at h; exact absurd h (by decide)) hy hyw

/-- What a device whose part of the dictionary alone has moved leaves of a grant. -/
theorem Dev.grant_leaves {d : Dev} {t : Txn} {a : Nat} (hq : d.quiet = true) (hst : d.stores = []) (hw : d.ridge.waiting = []) (hout : d.out = s.dev.out)
    (h : t.Sound) (hop : t.req.op = .rdOwn) (hp : t.req.Plain) (ha : t.req.a = a) (ha16 : a < 16) (hdir : (d.dir t.line).isSome = true) :
    ∃ y, d.finishTxn s.env t = y ∧ y.quiet = true ∧ y.stores = [] ∧ y.ridge.waiting = [] ∧
      y.out = s.dev.out ++ [.ridge ("Data" ++ poisonName (d.found s.env t).2) (lineIsl t.line) a t.line t.req.tn (if t.dirty.isSome then 4 else 2) (d.found s.env t).1] ∧
      (∃ z, y.dir t.line = some z ∧ z.kind = .x ∧ z.owner = a) ∧ ∀ c l, y.l2 c l = d.l2 c l := by
  obtain ⟨z, st, hfin, hk, ho⟩ := Dev.finishTxn_granted (d := d) (e := s.env) h hop hp ha ha16 hdir
  refine ⟨_, hfin, hq, hst, hw, ?_, ⟨z, ?_, hk, ho⟩, fun _ _ => rfl⟩
  · rw [← hout]
    rfl
  · show smGet none (smSet none d.ridge.dir t.line (some z)) t.line = some z
    exact smGet_set_same ..

/-- What the reader of a line that no snoop brought gets: memory's bytes. -/
theorem Dev.found_memory {d : Dev} {t : Txn} (hst : d.stores = []) (hd : t.dirty = none) :
    d.found s.env t = ((List.range 64).map fun i => s.byte (t.line * 64 + i), s.poison.contains t.line) := by
  unfold Dev.found
  rw [hd]
  dsimp only
  rw [s.bytes_env hst]
  unfold Dev.poisoned
  rw [hst]
  rfl

theorem Dev.count_eq (d : Dev) (idx sub k : Nat) : ∃ c srv f, d.count idx sub k = c ∧ c = { d with srv := srv, free := f } := by
  obtain ⟨srv, f, h⟩ := d.count_books idx sub k
  exact ⟨_, srv, f, rfl, h⟩

theorem rdOwn_waits {a b : Fin 33} {tn : Nat} {x : Dir} (hs : s.rests = true) (hh : homed line = true) (hact : (s.dev.island (272 + sliceOf line)).st = .active)
    (htx : s.dev.ridge.txns = []) (hw : s.dev.ridge.waiting = []) (harr : s.dev.arrays = []) (hdir : s.dev.dir line = some x) (hk : x.kind = .x)
    (ho : x.owner = b.val) (ha : a.val < 16) (hb : b.val < 16) (hab : a ≠ b) (hth : s.thawed line = true) (hrow : s.dev.ridge.rowed.contains b.val = true) :
    ∃ t, exec (.rdOwn a line true tn) s = .next t ∧ t.dev.out = s.dev.out ++ [.ridge ("SnpInv" ++ poisonName false) (lineIsl line) b line tn 0 []] ∧
      t.dev.ridge.txns = [{ line := line, req := { op := .rdOwn, a := a, tn := tn, time := s.time }, snp := 2, entry := some x, time := s.time, wait := [b.val] }] ∧
      t.dev.dir line = some x ∧ t.mem = s.mem := by
  obtain ⟨hstart, hexec⟩ := rdOwn_snoops (tn := tn) hs hh hact htx hw harr hdir hk ho ha hab hth
  obtain ⟨c, srv, f, hcount, hc⟩ := (s.dev.rowed a).count_eq 0x2400 4 1
  have hrow' : c.ridge.rowed.contains b.val = true := by
    rw [hc]
    exact List.contains_iff_mem.mpr (mem_listIns_of_mem _ (List.contains_iff_mem.mp hrow))
  rw [hcount, Dev.snoopAll_waits hb rfl hrow'] at hstart
  refine ⟨_, hexec _ hstart (by rw [hc]; exact hw) (by rw [hc]; exact s.rests_quiet hs) (by rw [hc]; exact s.rests_stores hs), ?_, ?_, ?_, rfl⟩
  · rw [hc]; rfl
  · rw [hc]
    show _ :: s.dev.ridge.txns = _
    rw [htx]
    rfl
  · rw [hc]; exact hdir

theorem rdOwn_granted {a b : Fin 33} {tn : Nat} {x : Dir} (hs : s.rests = true) (hh : homed line = true) (hact : (s.dev.island (272 + sliceOf line)).st = .active)
    (htx : s.dev.ridge.txns = []) (hw : s.dev.ridge.waiting = []) (harr : s.dev.arrays = []) (hdir : s.dev.dir line = some x) (hk : x.kind = .x)
    (ho : x.owner = b.val) (ha : a.val < 16) (hb : b.val < 16) (hab : a ≠ b) (hth : s.thawed line = true) (htn : tn ≠ goneTn)
    (hrow : s.dev.ridge.rowed.contains b.val = false) (he : (s.dev.l2 b line).st = .e) :
    ∃ t, exec (.rdOwn a line true tn) s = .next t ∧
      t.dev.out = s.dev.out ++ [.ridge ("Data" ++ poisonName (s.poison.contains line)) (lineIsl line) a line tn 2 ((List.range 64).map fun i => s.byte (line * 64 + i))] ∧
      (∃ y, t.dev.dir line = some y ∧ y.kind = .x ∧ y.owner = a.val) ∧ t.dev.l2 b line = {} ∧ t.mem = s.mem := by
  obtain ⟨hstart, hexec⟩ := rdOwn_snoops (tn := tn) hs hh hact htx hw harr hdir hk ho ha hab hth
  obtain ⟨c, srv, f, hcount, hc⟩ := (s.dev.rowed a).count_eq 0x2400 4 1
  have hrow' : c.ridge.rowed.contains b.val = false := by
    rw [hc, ← Bool.not_eq_true, List.contains_iff_mem]
    intro hm
    rcases mem_of_mem_listIns hm with hm | hm
    · exact hab (Fin.ext hm.symm)
    · rw [List.contains_iff_mem.mpr hm] at hrow
      exact absurd hrow (by decide)
  rw [hcount, Dev.snoopAll_atOnce hb rfl hrow' (by rw [hc]; exact htx) rfl (by rw [hc]; exact he)] at hstart
  obtain ⟨k, srv', f', hcount', hk'⟩ := Dev.count_eq ((c.setRidge { c.ridge with txns := [readTxn line a tn s.time x b] }).setL2 b line {}) 0x2400 7 1
  have hfound := Dev.found_memory (s := s) (d := k) (t := (readTxn line a tn s.time x b).answered b 0 none false)
    (by rw [hk', hc]; exact s.rests_stores hs) rfl
  obtain ⟨y, hfin, hq, hst, hwait, hout, hdir', hl2⟩ := Dev.grant_leaves (s := s) (d := k) (t := (readTxn line a tn s.time x b).answered b 0 none false) (a := a.val)
    (by rw [hk', hc]; exact s.rests_quiet hs) (by rw [hk', hc]; exact s.rests_stores hs) (by rw [hk', hc]; exact hw) (by rw [hk', hc]; rfl)
    ⟨rfl, rfl, nofun⟩ rfl ⟨rfl, rfl, htn⟩ rfl ha (by rw [hk', hc]; exact (congrArg Option.isSome hdir :))
  rw [hfound] at hout
  refine ⟨_, hexec y (hstart.trans ((congrArg (fun k : Dev => k.finishTxn s.env _) hcount').trans hfin)) hwait hq hst, hout, hdir', (hl2 _ _).trans ?_, rfl⟩
  rw [hk']
  show smGet ({} : CLine) (smSet {} c.ridge.l2 (l2Key b line) {}) (l2Key b line) = {}
  exact smGet_set_same ..

/-! ### Answers at a home -/

/-- The answer that a transaction waited for reaches its home: it ends, and nothing waits behind it. -/
theorem Dev.takeAnswer_last {d y : Dev} {t : Txn} {b : Nat} (e : Env) (hact : (d.island (272 + sliceOf t.line)).st = .active) (htx : d.ridge.txns = [t])
    (hw : t.wait = [b]) (st : Nat) (dirty : Option (List Byte × Bool))
    (hy : (if dirty.isNone && st = 0 then d.count 0x2400 7 1 else d).finishTxn e (t.answered b st dirty false) = y) (hyw : y.ridge.waiting = []) :
    d.takeAnswer e t.line b st dirty = y := by
  have hany : (d.ridge.txns.any fun u => u.line == t.line && u.wait.contains b) = true := by
    rw [htx]
    simp [hw]
  unfold Dev.takeAnswer
  dsimp only
  rw [hact, if_neg (by decide), hany, if_neg (by decide), Dev.answerOf_last htx hw, Bool.not_false, Bool.and_true, hy, Dev.homePump_none hyw]

section
variable {a b : Fin 33} {x : Dir} {t0 : Txn} (hs : s.rests = true) (hh : homed line = true) (hact : (s.dev.island (272 + sliceOf line)).st = .active)
  (htx : s.dev.ridge.txns = [t0]) (hw : s.dev.ridge.waiting = []) (hdir : s.dev.dir line = some x) (ha : a.val < 16) (hb : b.val < 16)
  (ht : t0 = { line := line, req := { op := .rdOwn, a := a, tn := t0.req.tn, time := t0.req.time }, snp := 2, entry := some x, time := t0.time, wait := [b.val] })
  (htn : t0.req.tn ≠ goneTn)
include hs hh hact htx hw hdir ha hb ht htn

/-- The last answer lets the home grant the line, with the bytes that came with it, or those of memory. -/
theorem answer_grants {c : Instr} (st : Nat) (dirty : Option (List Byte × Bool)) (hc : exec c s = s.go fun e d => if homed line then d.takeAnswer e line b st dirty else d) :
    ∃ t, exec c s = .next t ∧
      t.dev.out = s.dev.out ++ [.ridge ("Data" ++ poisonName (dirty.getD ((List.range 64).map fun i => s.byte (line * 64 + i), s.poison.contains line)).2) (lineIsl line) a
        line t0.req.tn (if dirty.isSome then 4 else 2) (dirty.getD ((List.range 64).map fun i => s.byte (line * 64 + i), s.poison.contains line)).1] ∧
      (∃ y, t.dev.dir line = some y ∧ y.kind = .x ∧ y.owner = a.val) ∧ t.mem = s.mem := by
  obtain ⟨k, srv, f, hk, hk'⟩ : ∃ k srv f, (if dirty.isNone && st = 0 then s.dev.count 0x2400 7 1 else s.dev) = k ∧ k = { s.dev with srv := srv, free := f } := by
    split
    · exact s.dev.count_eq 0x2400 7 1
    · exact ⟨_, s.dev.srv, s.dev.free, rfl, rfl⟩
  obtain ⟨tn, htn'⟩ : ∃ tn, t0.req.tn = tn := ⟨_, rfl⟩
  obtain ⟨t1, ht1⟩ : ∃ t1, t0.answered b st dirty false = t1 := ⟨_, rfl⟩
  have hline : t1.line = line := by rw [← ht1, ht]; rfl
  have hfound : k.found s.env t1 = dirty.getD ((List.range 64).map fun i => s.byte (line * 64 + i), s.poison.contains line) := by
    cases hd : dirty with
    | none => exact (Dev.found_memory (by rw [hk']; exact s.rests_stores hs) (by rw [← ht1, ht, hd]; rfl)).trans (by rw [hline]; rfl)
    | some x => rw [← ht1, hd]; rfl
  have hreq : t1.req = { op := .rdOwn, a := a, tn := tn, time := t0.req.time } := by rw [← ht1, ← htn']; exact congrArg Txn.req ht
  have hsome : t1.dirty.isSome = dirty.isSome := by rw [← ht1, ht]; cases dirty <;> rfl
  obtain ⟨y, hfin, hq, hst, hwait, hout, hdir', -⟩ := Dev.grant_leaves (s := s) (d := k) (t := t1) (a := a.val)
    (by rw [hk']; exact s.rests_quiet hs) (by rw [hk']; exact s.rests_stores hs) (by rw [hk']; exact hw) (by rw [hk'])
    ⟨by rw [← ht1, ht]; rfl, by rw [hreq], fun y hy => by
      have hd : t1.dirty = dirty.map fun x => (b.val, x) := by rw [← ht1, ht]; cases dirty <;> rfl
      rw [hd] at hy
      obtain ⟨z, -, rfl⟩ := Option.map_eq_some_iff.mp hy
      exact fun h => absurd hb (by omega)⟩ (by rw [hreq]) ⟨by rw [hreq], by rw [hreq], by rw [hreq, ← htn']; exact htn⟩ (by rw [hreq]) ha
    (by rw [hk', hline]; exact (congrArg Option.isSome hdir :))
  rw [hfound, hline, hreq, hsome] at hout
  rw [hline] at hdir'
  refine ⟨{ s with dev := y }, hc.trans (s.go_to _ y hs ?_ hq hst), by rw [htn']; exact hout, hdir', rfl⟩
  rw [if_pos hh]
  have hl0 : t0.line = line := by rw [ht]
  rw [← hl0]
  exact Dev.takeAnswer_last s.env (by rw [hl0]; exact hact) htx (by rw [ht]) st dirty (by rw [hk, ht1]; exact hfin) hwait

end

/-- CmpAck ends a granted transaction. -/
theorem cmpAck_ends {a : Fin 33} {t0 : Txn} (hs : s.rests = true) (htx : s.dev.ridge.txns = [t0]) (hw : s.dev.ridge.waiting = []) (hline : t0.line = line)
    (hg : t0.granted = true) (hop : t0.req.op.caching = true) (ha : t0.req.a = a.val) :
    exec (.cmpAck a line) s = .next { s with dev := { s.dev with ridge := { s.dev.ridge with txns := [] } } } := by
  refine show execCmpAck a line s = _ from s.go_to _ _ hs ?_ (s.rests_quiet hs) (s.rests_stores hs)
  have hfind : (s.dev.ridge.txns.find? fun t => t.line == line && t.granted && t.req.op.caching && t.req.a == a.val) = some t0 := by
    rw [htx]
    exact List.find?_cons_of_pos (by simp [hline, hg, hop, ha])
  rw [hfind]
  dsimp only
  have hdrop : s.dev.dropTxn line = { s.dev with ridge := { s.dev.ridge with txns := [] } } := by
    unfold Dev.dropTxn
    rw [htx, List.filter_cons_of_neg (by simp [hline])]
    rfl
  rw [hdrop, Dev.homePump_none (d := { s.dev with ridge := { s.dev.ridge with txns := [] } }) hw]

/-! ### A snoop that is not answered -/

/-- A line that its X holder, outside any Bay, has lost. -/
theorem Dev.loseLine_unheld {d : Dev} (e : Env) (hh : homed line = true) (hbay : d.lineBay line = none) : ∃ st,
    d.loseLine e line = ({ d with stores := st ++ .poison line :: d.stores, ridge := { d.ridge with dir := smSet none d.ridge.dir line none } } : Dev).count 0x2400 0xB 1 ∧
      (st = [] ∧ d.byte e (sumAddr line) = 0 ∨ st = [.write (sumAddr line) [0]]) := by
  obtain ⟨st, hput, hsum⟩ := (d.store (.poison line)).putDir_none e none hh
  refine ⟨st, ?_, hsum⟩
  unfold Dev.loseLine
  dsimp only
  rw [hput]
  obtain ⟨c, srv, f, hc, hc'⟩ := Dev.count_eq
    { d.store (.poison line) with stores := st ++ (d.store (.poison line)).stores, ridge := { (d.store (.poison line)).ridge with dir := smSet none (d.store (.poison line)).ridge.dir line none } }
    0x2400 0xB 1
  have hnone : c.lineBay line = none := by rw [hc']; exact hbay
  rw [hc, hnone]
  exact hc.symm

theorem contains_listIns (x : Nat) (l : List Nat) : (listIns x l).contains x = true := List.contains_iff_mem.mpr (mem_listIns x l)

/-- The stores of a lost line: its poison, and, where it was not 0, its summary byte. -/
theorem byte_lost {d : Dev} (e : Env) {line : Nat} {st : List MemOp} (hst : st = [] ∨ st = [.write (sumAddr line) [0]]) (hd : d.stores = st ++ [.poison line]) {x : Nat}
    (hx : x < 0x5E80000000) : d.byte e x = smGet 0 e.mem x := by
  unfold Dev.byte
  have hno : ¬ sumAddr line ≤ x := by unfold sumAddr; omega
  rw [hd]
  rcases hst with rfl | rfl <;> simp [MemOp.byteAt, hno]

theorem poisoned_lost {d : Dev} (e : Env) {line : Nat} {st : List MemOp} (hst : st = [] ∨ st = [.write (sumAddr line) [0]]) (hd : d.stores = st ++ [.poison line]) :
    d.poisoned e line = true := by
  unfold Dev.poisoned
  rw [hd]
  rcases hst with rfl | rfl <;> simp [MemOp.poisonAt]

theorem poison_lost {s : State} {d : Dev} {line : Nat} {st : List MemOp} (hst : st = [] ∨ st = [.write (sumAddr line) [0]]) (hd : d.stores = st ++ [.poison line]) :
    (s.commit d).poison.contains line = true := by
  unfold State.commit
  dsimp only
  rw [hd]
  rcases hst with rfl | rfl
  · exact contains_listIns line s.poison
  · exact contains_listIns line s.poison

/-- The one holder that a read waits for is taken to have lost the line: what the home answers, and leaves. -/
theorem Dev.answerOf_lost {c y : Dev} {e : Env} {t0 : Txn} {line a : Nat} {x : Dir} {st : List MemOp} (hh : homed line = true) (htx : c.ridge.txns = [t0])
    (ht : t0.readsFor line a x) (hk : x.kind = .x) (ho : x.owner = a) (hy : c.loseLine e line = y) (hst : st = [] ∨ st = [.write (sumAddr line) [0]])
    (hys : y.stores = st ++ [.poison line]) : c.answerOf e line a 0 none (t0.mayBeDirty a) =
      (y.send (.ridge ("Data" ++ poisonName true) (lineIsl line) t0.req.a line t0.req.tn 0 ((List.range 64).map fun i => smGet 0 e.mem (line * 64 + i)))).dropTxn line := by
  obtain ⟨hline, hop, hwho, hself, hecc, hra, hra', htn, hentry, hre, hwait, hans, hdirty, hlost⟩ := ht
  have hmay : t0.mayBeDirty a = true := by
    unfold Txn.mayBeDirty
    rw [hentry]
    simp [hk, ho]
  have hbytes : y.bytes e (line * 64) 64 = (List.range 64).map fun i => smGet 0 e.mem (line * 64 + i) := by
    refine List.map_congr_left fun i hi => byte_lost e hst hys ?_
    have := List.mem_range.mp hi
    have hl : line * 64 < 0x5E80000000 := by simpa [homed, inHbm] using hh
    omega
  rw [← hline, Dev.answerOf_last htx hwait, hmay]
  obtain ⟨t1, ht1⟩ : ∃ t1, t0.answered a 0 none true = t1 := ⟨_, rfl⟩
  have hline1 : t1.line = line := by rw [← ht1]; exact hline
  have hreq1 : t1.req = t0.req := by rw [← ht1]; rfl
  rw [ht1, hline]
  refine (Dev.finishTxn_ncRead_lost (t := t1) (x := y) (by rw [← ht1]; exact Bool.or_true _) (by rw [hreq1]; exact hecc) (by rw [← ht1]; exact hre)
    (by rw [hreq1]; exact hop) (by rw [hline1]; exact hy)).trans ?_
  rw [hline1, hreq1, Dev.homeAnswer_island y e _ (q := t0.req) ⟨hwho, hself, htn⟩ (by rw [hop]; rfl) hra hra', hbytes, poisoned_lost e hst hys]

theorem Dev.snoopLate_one {d : Dev} {e : Env} {t0 : Txn} {line a : Nat} (htx : d.ridge.txns = [t0]) (hline : t0.line = line) (hwait : t0.wait = [a])
    (hlate : t0.time + d.od 0x2400 9 * 1000 ≤ e.time) : d.snoopLate e line a = some t0 := by
  unfold Dev.snoopLate
  rw [htx]
  refine List.find?_cons_of_pos ?_
  rw [hline, hwait, decide_eq_true hlate]
  simp

theorem odSize_ridgeBooks : odSize 0x2400 0xA = 4 ∧ odSize 0x2400 0xB = 4 := by decide

/-- The holder of a line that does not answer in time loses what it held. -/
theorem snoopTimeout_loses {a : Fin 33} {x : Dir} {t0 : Txn} (hs : s.rests = true) (hh : homed line = true) (htx : s.dev.ridge.txns = [t0]) (hw : s.dev.ridge.waiting = [])
    (ha : 17 ≤ a.val) (hk : x.kind = .x) (ho : x.owner = a.val) (hbay : s.dev.lineBay line = none) (ht : t0.readsFor line a x)
    (hlate : t0.time + s.dev.od 0x2400 9 * 1000 ≤ s.time) (hA : s.dev.od 0x2400 0xA + 1 < 2 ^ 32) (hB : s.dev.od 0x2400 0xB + 1 < 2 ^ 32) :
    ∃ t, exec (.snoopTimeout a line) s = .next t ∧ t.dev.od 0x2400 0xA = s.dev.od 0x2400 0xA + 1 ∧ t.dev.od 0x2400 0xB = s.dev.od 0x2400 0xB + 1 ∧
      t.dev.dir line = none ∧ t.poison.contains line = true ∧ t.dev.ridge.txns = [] ∧
      t.dev.out = s.dev.out ++ [.ridge ("Data" ++ poisonName true) (lineIsl line) t0.req.a line t0.req.tn 0 ((List.range 64).map fun i => s.byte (line * 64 + i))] := by
  have hline : t0.line = line := ht.1
  have hwait : t0.wait = [a.val] := by
    obtain ⟨-, -, -, -, -, -, -, -, -, -, hwait, -⟩ := ht
    exact hwait
  obtain ⟨hszA, hszB⟩ := odSize_ridgeBooks
  obtain ⟨c, srv, f, hc, hc'⟩ := s.dev.count_eq 0x2400 0xA 1
  have hAc : c.od 0x2400 0xA = s.dev.od 0x2400 0xA + 1 := by rw [← hc, Dev.count_od_32 _ (by rw [hszA]) hA]
  have hBc : c.od 0x2400 0xB = s.dev.od 0x2400 0xB := by rw [← hc]; exact s.dev.count_od_other 1 (by decide) (by decide) (by decide)
  obtain ⟨st, hlose, hst⟩ := Dev.loseLine_unheld (d := c) s.env hh (by rw [hc']; exact hbay)
  obtain ⟨l, hl⟩ : ∃ l : Dev, l = { c with stores := st ++ .poison line :: c.stores, ridge := { c.ridge with dir := smSet none c.ridge.dir line none } } := ⟨_, rfl⟩
  have hlod (sub : Nat) : l.od 0x2400 sub = c.od 0x2400 sub := by rw [hl]; rfl
  rw [← hl] at hlose
  obtain ⟨k, srv', f', hk', hk''⟩ := l.count_eq 0x2400 0xB 1
  rw [hl] at hk''
  have hst' : st = [] ∨ st = [.write (sumAddr line) [0]] := hst.imp And.left id
  have hAk : k.od 0x2400 0xA = s.dev.od 0x2400 0xA + 1 := by rw [← hk', Dev.count_od_other _ 1 (by decide) (by decide) (by decide), hlod, hAc]
  have hBk : k.od 0x2400 0xB = s.dev.od 0x2400 0xB + 1 := by
    rw [← hk', Dev.count_od_32 _ (by rw [hszB]) (by rw [hlod, hBc]; exact hB), hlod, hBc]
  have hstores : k.stores = st ++ [.poison line] := by
    rw [hk'', hc']
    show st ++ .poison line :: s.dev.stores = _
    rw [s.rests_stores hs]
  obtain ⟨z, hz⟩ : ∃ z, (k.send (.ridge ("Data" ++ poisonName true) (lineIsl line) t0.req.a line t0.req.tn 0 ((List.range 64).map fun i => s.byte (line * 64 + i)))).dropTxn line = z :=
    ⟨_, rfl⟩
  have hzr : z.ridge = { k.ridge with txns := [] } := by
    rw [← hz]
    show ({ k.ridge with txns := k.ridge.txns.filter (·.line != line) } : Ridge) = _
    have : k.ridge.txns = [t0] := by rw [hk'', hc']; exact htx
    rw [this, List.filter_cons_of_neg (by simp [hline])]
    rfl
  have hanswer : c.answerOf s.env line a 0 none (t0.mayBeDirty a) = z :=
    (Dev.answerOf_lost hh (by rw [hc']; exact htx) ht hk ho (hlose.trans hk') hst' hstores).trans hz
  have hgo := s.go_done (fun e d => if 16 ≤ a.val then d.silent e line a else d) z hs
    (by
      rw [if_pos (by omega)]
      unfold Dev.silent
      rw [Dev.snoopLate_one htx hline hwait hlate]
      dsimp only
      rw [if_neg (by omega), hc, hanswer, Dev.homePump_none (by rw [hzr, hk'', hc']; exact hw)])
    (by rw [← hz, hk'', hc']; exact s.rests_quiet hs)
  refine ⟨_, hgo, ?_, ?_, ?_, ?_, ?_, ?_⟩
  · rw [← hAk, ← hz]; rfl
  · rw [← hBk, ← hz]; rfl
  · show smGet none z.ridge.dir line = none
    rw [hzr, hk'']
    show smGet none (smSet none c.ridge.dir line none) line = none
    exact smGet_set_same ..
  · exact poison_lost hst' (by rw [← hstores, ← hz]; rfl)
  · show z.ridge.txns = []
    rw [hzr]
  · show z.out = _
    rw [← hz, hk'', hc']
    rfl

end

/-! ### The caching agents -/

/-- A cluster's answer to a snoop, from the state of its line. -/
theorem Dev.l2Answers_eq (d : Dev) (snp c line tn : Nat) {st : Coh} (hst : (d.l2 c line).st = st) : d.l2Answers snp c line tn =
    (d.setL2 c line (if (snoopAnswer snp st).1 == .i then {} else { d.l2 c line with st := (snoopAnswer snp st).1 })).send
      (if (snoopAnswer snp st).2 then
        .ridge ("SnpData" ++ poisonName (d.l2 c line).poison) c (lineIsl line) line tn (snoopAnswer snp st).1.code (d.l2 c line).data
       else .ridge "SnpAck" c (lineIsl line) line tn (snoopAnswer snp st).1.code []) := by
  subst hst
  unfold Dev.l2Answers Dev.l2Snoop
  dsimp only
  split
  · rfl
  · rfl

/-- A snoop that reaches a cluster. -/
theorem snoop_answers {c : Fin 17} {line tn : Nat} {s : State} (hs : s.rests = true) (hc : c.val < 16) (hca : s.dev.cacheable line = true) {i : Instr} (snp : Nat)
    (hi : exec i s = s.go fun _ d => d.snooped snp c line tn) {x : Dev} (hx : s.dev.l2Answers snp c line tn = x) (hq : x.quiet = s.dev.quiet)
    (hst : x.stores = s.dev.stores) : exec i s = .next { s with dev := x } :=
  hi.trans (s.go_to _ x hs (by unfold Dev.snooped; rw [if_pos hc, if_pos hca, hx]) (hq.trans (s.rests_quiet hs)) (hst.trans (s.rests_stores hs)))

theorem remoteLine_homed {line : Nat} (h : homed line = true) : remoteLine? line = none := by
  have hl : line * 64 < 0x5E80000000 := by simpa [homed, inHbm] using h
  unfold remoteLine? awayKey
  rw [if_neg]
  simp only [Bool.and_eq_true, decide_eq_true_eq]
  omega

/-- Devices that differ by traffic and by what homes and L2s hold, with the same memory writes. -/
def Dev.SameButLines (d d' : Dev) : Prop := d.SameButRidge d' ∧ d'.stores = d.stores

namespace Dev.SameButLines

theorem refl (d : Dev) : d.SameButLines d := ⟨.refl d, rfl⟩

theorem trans {a b c : Dev} (h : a.SameButLines b) (h' : b.SameButLines c) : a.SameButLines c := ⟨h.1.trans h'.1, h'.2.trans h.2⟩

theorem traffic {d d' : Dev} (h : d.SameButTraffic d') : d.SameButLines d' := ⟨.traffic h, (congrArg Dev.stores h.bare :)⟩

theorem ridge (d : Dev) (r : Ridge) : d.SameButLines (d.setRidge r) := ⟨.ridge d r, rfl⟩

theorem foldl {α : Type} {f : Dev → α → Dev} (hf : ∀ (d : Dev) x, d.SameButLines (f d x)) (l : List α) (d : Dev) : d.SameButLines (l.foldl f d) := by
  induction l generalizing d with
  | nil => exact refl d
  | cons x l ih => exact (hf d x).trans (ih (f d x))

end Dev.SameButLines

theorem Dev.lines_remoteRecall (d : Dev) (line : Nat) : d.SameButLines (d.remoteRecall line) := by
  have hleft (l : List Nat) (o : Nat → Out) (cs : List Nat) : d.SameButLines (((l.foldl (fun d c => d.send (o c)) d).l2Drop cs line).setDir line none) :=
    ((Dev.SameButLines.foldl (fun d _ => .traffic (d.traffic_send _)) l d).trans (.foldl (fun d c => .ridge d _) cs _)).trans (.ridge _ _)
  unfold Dev.remoteRecall
  split
  · dsimp only
    split
    · exact ((hleft _ _ _).trans (.ridge _ _)).trans (.traffic (Dev.traffic_originate _ _))
    · exact hleft _ _ _
  · exact .refl d

theorem Dev.lines_l2Evict (d : Dev) (e : Env) (c line : Nat) : d.SameButLines (d.l2Evict e c line) := by
  unfold Dev.l2Evict
  split
  · unfold Dev.remoteEvict
    split
    · exact d.lines_remoteRecall line
    · dsimp only
      split
      · exact (Dev.SameButLines.ridge d _).trans (.ridge _ _)
      · exact .ridge d _
  · split
    · unfold Dev.l2WriteBack
      dsimp only
      split
      · exact (Dev.SameButLines.ridge d _).trans (.traffic (Dev.traffic_send _ _))
      · exact (Dev.SameButLines.ridge d _).trans (.ridge _ _)
    · exact .ridge d _

theorem Dev.lines_l2Way (d : Dev) (e : Env) (c line : Nat) (bay : Option Nat) : d.SameButLines (d.l2Way e c line bay).2 := by
  unfold Dev.l2Way
  dsimp only
  split
  · exact .refl d
  · split
    · exact d.lines_l2Evict e c _
    · exact .refl d

theorem Dev.lines_l2Fill (d : Dev) (e : Env) (c line : Nat) (bay : Option Nat) (st : Coh) (data : List Byte) (p : Bool) :
    d.SameButLines (d.l2Fill e c line bay st data p) := by
  unfold Dev.l2Fill
  dsimp only
  refine (?_ : d.SameButLines _).trans ((Dev.SameButLines.ridge _ _).trans (.ridge _ _))
  split
  · exact d.lines_l2Way e c line bay
  · exact .refl d

theorem Dev.l2Fill_l2 (d : Dev) (e : Env) (c line : Nat) (bay : Option Nat) (st : Coh) (data : List Byte) (p : Bool) :
    ((d.l2Fill e c line bay st data p).l2 c line).st = st ∧ ((d.l2Fill e c line bay st data p).l2 c line).data = fit 64 data ∧
      ((d.l2Fill e c line bay st data p).l2 c line).poison = p := by
  unfold Dev.l2Fill
  dsimp only
  generalize (if (d.l2 c line).st == .i then d.l2Way e c line bay else ((d.l2 c line).way, d)) = w
  have h (x : Dev) (y : CLine) : (x.setL2 c line y).l2 c line = y := smGet_set_same ..
  rw [h]
  exact ⟨rfl, rfl, rfl⟩

theorem data_installs {isl : Fin 350} {line tn : Nat} {data : List Byte} {st : Fin 5} {p : Bool} {s : State} (hs : s.rests = true) (hlo : 256 ≤ isl.val)
    (hhi : isl.val < 272) (hst : st.val = 1 ∨ st.val = 2 ∨ st.val = 4) (hh : homed line = true) :
    ∃ t, exec (.data isl line tn data st p) s = .next t ∧ (t.dev.l2 (isl - 256) line).st = grantOf st ∧ (t.dev.l2 (isl - 256) line).data = fit 64 data ∧
      (t.dev.l2 (isl - 256) line).poison = p ∧ t.mem = s.mem ∧ t.dev.out.getLast? = some (.ridge "CmpAck" (isl - 256) (lineIsl line) line tn 0 []) := by
  obtain ⟨x, hx⟩ : ∃ x, (s.dev.rowed (isl - 256)).l2Fill s.env (isl - 256) line ((s.dev.rowed (isl - 256)).l2Bay (isl - 256) line) (grantOf st) data p = x := ⟨_, rfl⟩
  obtain ⟨hridge, hstores⟩ : s.dev.SameButLines x := (Dev.SameButLines.ridge s.dev _).trans (hx ▸ Dev.lines_l2Fill _ s.env _ line _ _ data p)
  obtain ⟨h1, h2, h3⟩ := Dev.l2Fill_l2 (s.dev.rowed (isl - 256)) s.env (isl - 256) line ((s.dev.rowed (isl - 256)).l2Bay (isl - 256) line) (grantOf st) data p
  rw [hx] at h1 h2 h3
  have hgrant : (grantOf st == .s || grantOf st == .e || grantOf st == .m) = true := by
    rcases hst with h | h | h <;> rw [h] <;> rfl
  have heff : (if 256 ≤ isl.val && isl.val < 272 && (remoteLine? line).isNone then
      if s.dev.cacheable line then (s.dev.rowed (isl - 256)).l2Install s.env (isl - 256) line tn (grantOf st) data p else s.dev
      else s.dev.cellAnswer s.env tn (.data (grantOf st) (fit 64 data) p)) =
      x.send (.ridge "CmpAck" (isl - 256) (lineIsl line) line tn 0 []) := by
    rw [if_pos (by rw [remoteLine_homed hh]; simp [hlo, hhi]), if_pos (by unfold Dev.cacheable; rw [hh]; rfl)]
    unfold Dev.l2Install
    rw [if_pos (by rw [hh, hgrant]; rfl), hx]
  have hgo := s.go_timed (fun e d => if 256 ≤ isl.val && isl.val < 272 && (remoteLine? line).isNone then
      if d.cacheable line then (d.rowed (isl - 256)).l2Install e (isl - 256) line tn (grantOf st) data p else d
    else d.cellAnswer e tn (.data (grantOf st) (fit 64 data) p)) (x.send (.ridge "CmpAck" (isl - 256) (lineIsl line) line tn 0 [])) hs heff
    ((hridge.trans (.traffic (x.traffic_send _))).timers (State.rests_timers hs))
  refine ⟨_, hgo, h1, h2, h3, ?_, ?_⟩
  · show x.stores.foldr _ s.mem = s.mem
    rw [hstores, s.rests_stores hs]
    rfl
  · exact List.getLast?_concat ..

/-- Settles O31: homes, from the entry of a line and the answers to their snoops; caching agents, from the state of theirs. -/
theorem ridgeSnoopsAndAgents : Obligations.RidgeSnoopsAndAgents := by
  unfold Obligations.RidgeSnoopsAndAgents
  refine ⟨fun a b line tn x s hs hh hact htx hw harr hdir hk ho ha hb hab hth htn => ⟨fun hrow => ?_, fun hrow he => ?_⟩,
    fun a b line x t0 s hs hh hact htx hw hdir ha hb ht htn => ⟨?_, fun data p => ?_⟩,
    fun a line t0 s hs htx hw hline hg hop ha => cmpAck_ends hs htx hw hline hg hop ha,
    fun a line x t0 s hs hh htx hw ha _ hk ho hbay ht hlate hA hB => snoopTimeout_loses hs hh htx hw ha hk ho hbay ht hlate hA hB,
    fun c line tn s hs hc hca => ?_, fun c line s hs hc hwb => ?_, fun isl line tn s hs hlo hhi hh => ?_,
    fun isl line tn data st p s hs hlo hhi hst hh => data_installs hs hlo hhi hst hh, fun isl line tn s hs hkey => ?_,
    fun isl line tn r s hs haway hout hat hr => ?_, fun isl line tn s hs haway hab hout => ?_, fun s hs hbusy htx hw hrem hout => ?_⟩
  · exact rdOwn_waits hs hh hact htx hw harr hdir hk ho ha hb hab hth hrow
  · exact rdOwn_granted hs hh hact htx hw harr hdir hk ho ha hb hab hth htn hrow he
  · exact answer_grants hs hh hact htx hw hdir ha hb ht htn 0 none rfl
  · exact answer_grants hs hh hact htx hw hdir ha hb ht htn 0 (some (fit 64 data, p)) rfl
  · dsimp only
    refine ⟨fun hst => ⟨?_, ?_, ?_⟩, fun hst => ⟨?_, ?_, ?_⟩⟩
    · exact snoop_answers hs hc hca 1 rfl (s.dev.l2Answers_eq 1 c line tn hst) rfl rfl
    · exact snoop_answers hs hc hca 2 rfl (s.dev.l2Answers_eq 2 c line tn hst) rfl rfl
    · refine snoop_answers hs hc hca 3 rfl ((s.dev.l2Answers_eq 3 c line tn hst).trans ?_) rfl rfl
      rw [show ({ s.dev.l2 c line with st := (snoopAnswer 3 .m).1 } : CLine) = s.dev.l2 c line by rw [show (snoopAnswer 3 .m).1 = .m from rfl, ← hst]]
      rfl
    · exact snoop_answers hs hc hca 1 rfl (s.dev.l2Answers_eq 1 c line tn hst) rfl rfl
    · exact snoop_answers hs hc hca 2 rfl (s.dev.l2Answers_eq 2 c line tn hst) rfl rfl
    · refine snoop_answers hs hc hca 3 rfl ((s.dev.l2Answers_eq 3 c line tn hst).trans ?_) rfl rfl
      rw [show ({ s.dev.l2 c line with st := (snoopAnswer 3 .e).1 } : CLine) = s.dev.l2 c line by rw [show (snoopAnswer 3 .e).1 = .e from rfl, ← hst]]
      rfl
  · refine show execWbAck c line s = _ from s.go_to _ _ hs ?_ (s.rests_quiet hs) (s.rests_stores hs)
    rw [if_pos hc, if_pos hwb]
  · have hup {st : Coh} (hst : (s.dev.l2 (isl - 256) line).st = st) (h : (st == .s || st == .o) = true) : exec (.cmp isl line tn .ok) s =
        .next { s with dev := (s.dev.rowed (isl - 256)).setL2 (isl - 256) line { s.dev.l2 (isl - 256) line with st := st.upgraded } } := by
      refine show execCmp isl line tn .ok s = _ from s.go_to _ _ hs ?_ (s.rests_quiet hs) (s.rests_stores hs)
      dsimp only
      rw [if_pos (by rw [remoteLine_homed hh]; simp [hlo, hhi]), if_pos (by rw [hh]; rfl)]
      unfold Dev.l2Upgrade
      dsimp only
      rw [show ((s.dev.rowed (isl - 256)).l2 (isl - 256) line) = s.dev.l2 (isl - 256) line from rfl, hst, if_pos h]
    exact ⟨fun hst => hup hst rfl, fun hst => hup hst rfl⟩
  · refine show execRetry isl line tn s = _ from s.go_to _ _ hs ?_ (s.rests_quiet hs) (s.rests_stores hs)
    dsimp only
    rw [if_pos (by simpa [or_assoc] using hkey)]
    rfl
  · refine show execRetryResend isl line tn s = _ from s.go_to _ _ hs ?_ (s.rests_quiet hs) (s.rests_stores hs)
    dsimp only
    rw [hr]
    dsimp only
    rw [if_neg (show ¬ s.env.time < r.at_ from Nat.not_lt.mpr hat)]
    unfold Dev.l2Out Dev.setRidge
    dsimp only
    rw [hout, haway]
    rfl
  · refine show execGone isl line tn s = _ from s.go_to _ _ hs ?_ (s.rests_quiet hs) (s.rests_stores hs)
    dsimp only
    unfold Dev.cellAnswer Dev.l2Out Dev.setRidge
    dsimp only
    rw [hout, haway, hab]
    rfl
  · refine show execCellChangeEnd s = _ from s.go_to _ _ hs ?_ (s.rests_quiet hs) (s.rests_stores hs)
    dsimp only
    rw [htx, hw, hrem, hout, hbusy]
    rfl

end Sys2Proof.Machine
end

section
/-! PROOF. The host's lines over CXL.cache, and the host as a holder over CXL.mem (R296, R305 to R312): O32. -/
namespace Sys2Proof.Machine

theorem odSize_hostBooks : 4 ≤ odSize 0x2402 4 ∧ 4 ≤ odSize 0x2402 5 ∧ 4 ≤ odSize 0x2402 6 := by decide

theorem Dev.setPline_pline (d : Dev) (l : Nat) (x : CLine) : (d.setPline l x).pline l = x := smGet_set_same ..

/-! ### Snoops of the host -/

/-- The copies of some clusters leave, one after another. -/
theorem Dev.l2Drop_spec (cs : List Nat) (line : Nat) (d : Dev) : ∃ l2, d.l2Drop cs line = d.setRidge { d.ridge with l2 := l2 } ∧
    ∀ c, smGet ({} : CLine) l2 (l2Key c line) = if c ∈ cs then {} else d.l2 c line := by
  unfold Dev.l2Drop
  induction cs generalizing d with
  | nil => exact ⟨d.ridge.l2, rfl, fun c => (if_neg List.not_mem_nil).symm⟩
  | cons x cs ih =>
    obtain ⟨l2, hfold, hl2⟩ := ih (d.setL2 x line {})
    refine ⟨l2, hfold, fun c => (hl2 c).trans ?_⟩
    by_cases hm : c ∈ cs
    · rw [if_pos hm, if_pos (List.mem_cons_of_mem _ hm)]
    · rw [if_neg hm]
      have hset : (d.setL2 x line {}).l2 c line = if l2Key c line = l2Key x line then {} else d.l2 c line :=
        smGet_set ({} : CLine) d.ridge.l2 (l2Key x line) (l2Key c line) {}
      rw [hset]
      by_cases hcx : c = x
      · rw [hcx, if_pos rfl, if_pos List.mem_cons_self]
      · rw [if_neg (by unfold l2Key; omega), if_neg (by simp [hcx, hm])]

theorem Dev.foldl_sends {α : Type} (f : α → Out) (l : List α) (d : Dev) : l.foldl (fun d x => d.send (f x)) d = { d with out := d.out ++ l.map f } := by
  induction l generalizing d with
  | nil => simp
  | cons x l ih =>
    rw [List.foldl_cons, ih, List.map_cons]
    show ({ d with out := d.out ++ [f x] ++ l.map f } : Dev) = _
    rw [List.append_assoc]
    rfl

theorem Dev.dropSharers_spec (d : Dev) (l : Nat) : ∃ l2, d.dropSharers l =
    (({ d with out := d.out ++ (d.pline l).sharers.map fun c => .ridge "SnpInv" 331 c (hostKey l) 0 0 [] } : Dev).setRidge { d.ridge with l2 := l2 }).setPline l
      { d.pline l with sharers := [] } ∧ ∀ c ∈ (d.pline l).sharers, smGet ({} : CLine) l2 (l2Key c (hostKey l)) = {} := by
  obtain ⟨y, hy⟩ : ∃ y, (d.pline l).sharers.foldl (fun d c => d.send (.ridge "SnpInv" 331 c (hostKey l) 0 0 [])) d = y := ⟨_, rfl⟩
  have hy' := hy.symm.trans (Dev.foldl_sends (fun c => .ridge "SnpInv" 331 c (hostKey l) 0 0 []) (d.pline l).sharers d)
  obtain ⟨l2, hdrop, hl2⟩ := Dev.l2Drop_spec (d.pline l).sharers (hostKey l) y
  refine ⟨l2, ?_, fun c hc => (hl2 c).trans (if_pos hc)⟩
  unfold Dev.dropSharers
  dsimp only
  rw [hy, hdrop, hy']
  rfl

/-- What a host snoop leaves, once the copies that it takes with it have gone. -/
theorem Dev.h2dSnoop_eq {d : Dev} {hpa : Nat} (snp : Nat) (hon : bit d.link.cxl 1 = true) (hup : d.link.st = .up) (hroom : d.od 0x2402 6 + 1 < 2 ^ 32) {y : Dev}
    (hy : (if snp = 2 then d.dropSharers (hpa / 64) else d) = y) (hlink : y.link = d.link) (hod : y.srv = d.srv) : d.h2dSnoop snp hpa =
    ((y.setPline (hpa / 64) (if (hostSnoop snp (d.pline (hpa / 64)).st).2.2 == .i && !(d.pline (hpa / 64)).wb then {}
        else { y.pline (hpa / 64) with st := (hostSnoop snp (d.pline (hpa / 64)).st).2.2 })).setOd 0x2402 6 (d.od 0x2402 6 + 1)).send
      (.cxl ((hostSnoop snp (d.pline (hpa / 64)).st).1 ++ poisonName ((hostSnoop snp (d.pline (hpa / 64)).st).2.1 && (d.pline (hpa / 64)).poison)) (hpa / 64) 0
        (if (hostSnoop snp (d.pline (hpa / 64)).st).2.1 then (d.pline (hpa / 64)).data else [])) := by
  unfold Dev.h2dSnoop
  rw [hon, if_neg (by decide)]
  dsimp only
  rw [hy]
  obtain ⟨z, hz⟩ : ∃ z, y.setPline (hpa / 64) (if (hostSnoop snp (d.pline (hpa / 64)).st).2.2 == .i && !(d.pline (hpa / 64)).wb then {}
        else { y.pline (hpa / 64) with st := (hostSnoop snp (d.pline (hpa / 64)).st).2.2 }) = z := ⟨_, rfl⟩
  have hzlink : z.link = d.link := by rw [← hz]; exact hlink
  have hzod : z.od 0x2402 6 = d.od 0x2402 6 := by
    rw [← hz]
    show smGet _ y.srv.od _ = _
    rw [hod]
    rfl
  rw [hz, Dev.count_of_lt z _ _ _ (by
    rw [hzod]
    exact Nat.lt_of_lt_of_le hroom (Nat.pow_le_pow_right (n := 256) (by decide) odSize_hostBooks.2.2)), hzod]
  exact Dev.hostSend_up _ _ (by rw [show (z.setOd 0x2402 6 (d.od 0x2402 6 + 1)).link = z.link from rfl, hzlink]; exact hup) rfl

section
variable {s : State} {hpa : Nat} (hs : s.rests = true) (hup : s.dev.link.st = .up) (hon : bit s.dev.link.cxl 1 = true) (hroom : s.dev.od 0x2402 6 + 1 < 2 ^ 32)
include hs hup hon hroom

/-- A host snoop that leaves the clusters' copies: the line's state after it, its answer, and its count. -/
theorem h2d_answers {c : Instr} (snp : Nat) (h2 : snp ≠ 2) (hc : exec c s = s.go (Dev.turn c fun _ d => d.h2dSnoop snp hpa)) :
    ∃ t, exec c s = .next t ∧ (t.dev.pline (hpa / 64)).st = (hostSnoop snp (s.dev.pline (hpa / 64)).st).2.2 ∧ t.dev.od 0x2402 6 = s.dev.od 0x2402 6 + 1 ∧
      t.dev.out = s.dev.out ++ [.cxl ((hostSnoop snp (s.dev.pline (hpa / 64)).st).1 ++
        poisonName ((hostSnoop snp (s.dev.pline (hpa / 64)).st).2.1 && (s.dev.pline (hpa / 64)).poison)) (hpa / 64) 0
        (if (hostSnoop snp (s.dev.pline (hpa / 64)).st).2.1 then (s.dev.pline (hpa / 64)).data else [])] ∧ t.mem = s.mem := by
  obtain ⟨x, hx⟩ : ∃ x, s.dev.h2dSnoop snp hpa = x := ⟨_, rfl⟩
  have heq := hx.symm.trans (Dev.h2dSnoop_eq (hpa := hpa) snp hon hup hroom (if_neg h2) rfl rfl)
  have hgo := s.go_to (Dev.turn c fun _ d => d.h2dSnoop snp hpa) x hs (by rw [Dev.turn_rests _ _ _ _ (s.rests_ahead hs), hx])
    (by rw [heq]; exact s.rests_quiet hs) (by rw [heq]; exact s.rests_stores hs)
  refine ⟨_, hc.trans hgo, ?_, ?_, ?_, rfl⟩
  · show (x.pline (hpa / 64)).st = _
    rw [heq]
    refine (congrArg CLine.st (s.dev.setPline_pline _ _)).trans ?_
    split
    · next h => 
      simp only [Bool.and_eq_true, beq_iff_eq] at h
      exact h.1.symm
    · rfl
  · show x.od 0x2402 6 = _
    rw [heq]
    exact Dev.setOd_od _ _ _ _
  · show x.out = _
    rw [heq]
    rfl

/-- H2D_SNP_INV takes the clusters' copies with it. -/
theorem h2dSnpInv_answers : ∃ t, exec (.h2dSnpInv hpa) s = .next t ∧
    t.dev.pline (hpa / 64) = (if (s.dev.pline (hpa / 64)).wb then { s.dev.pline (hpa / 64) with st := .i, sharers := [] } else {}) ∧
    t.dev.od 0x2402 6 = s.dev.od 0x2402 6 + 1 ∧
    t.dev.out = s.dev.out ++ ((s.dev.pline (hpa / 64)).sharers.map fun c => .ridge "SnpInv" 331 c (hostKey (hpa / 64)) 0 0 []) ++
      [.cxl ((hostSnoop 2 (s.dev.pline (hpa / 64)).st).1 ++
        poisonName ((hostSnoop 2 (s.dev.pline (hpa / 64)).st).2.1 && (s.dev.pline (hpa / 64)).poison)) (hpa / 64) 0
        (if (hostSnoop 2 (s.dev.pline (hpa / 64)).st).2.1 then (s.dev.pline (hpa / 64)).data else [])] ∧
    (∀ c ∈ (s.dev.pline (hpa / 64)).sharers, t.dev.l2 c (hostKey (hpa / 64)) = {}) ∧ t.mem = s.mem := by
  obtain ⟨l2, hdrop, hl2⟩ := s.dev.dropSharers_spec (hpa / 64)
  obtain ⟨y, hy⟩ : ∃ y, s.dev.dropSharers (hpa / 64) = y := ⟨_, rfl⟩
  rw [hy] at hdrop
  obtain ⟨x, hx⟩ : ∃ x, s.dev.h2dSnoop 2 hpa = x := ⟨_, rfl⟩
  have hi : (hostSnoop 2 (s.dev.pline (hpa / 64)).st).2.2 = .i := by cases (s.dev.pline (hpa / 64)).st <;> rfl
  have heq := hx.symm.trans (Dev.h2dSnoop_eq (hpa := hpa) 2 hon hup hroom ((if_pos rfl).trans hy) (by rw [hdrop]; rfl) (by rw [hdrop]; rfl))
  have hyl : y.pline (hpa / 64) = { s.dev.pline (hpa / 64) with sharers := [] } := by rw [hdrop]; exact Dev.setPline_pline ..
  rw [hi, hyl] at heq
  have hgo := s.go_to (Dev.turn (.h2dSnpInv hpa) fun _ d => d.h2dSnoop 2 hpa) x hs (by rw [Dev.turn_rests _ _ _ _ (s.rests_ahead hs), hx])
    ((show x.quiet = y.quiet by rw [heq]; rfl).trans ((show y.quiet = s.dev.quiet by rw [hdrop]; rfl).trans (s.rests_quiet hs)))
    ((show x.stores = y.stores by rw [heq]; rfl).trans ((show y.stores = s.dev.stores by rw [hdrop]; rfl).trans (s.rests_stores hs)))
  refine ⟨_, show execH2dSnpInv hpa s = _ from hgo, ?_, ?_, ?_, fun c hc => ?_, rfl⟩
  · show x.pline (hpa / 64) = _
    rw [heq]
    refine (y.setPline_pline _ _).trans ?_
    cases (s.dev.pline (hpa / 64)).wb <;> rfl
  · show x.od 0x2402 6 = _
    rw [heq]
    exact Dev.setOd_od _ _ _ _
  · show x.out = _
    rw [heq]
    refine congrArg (· ++ [_]) (?_ : y.out = _)
    rw [hdrop]
    rfl
  · have hyr : y.l2 c (hostKey (hpa / 64)) = {} := by rw [hdrop]; exact hl2 c hc
    refine (?_ : x.l2 c (hostKey (hpa / 64)) = y.l2 c (hostKey (hpa / 64))).trans hyr
    rw [heq]
    rfl

end

/-! ### The host's responses -/

/-- A line of a set that holds none finds a way without evicting. -/
theorem Dev.proxyWay_free {d : Dev} {n l : Nat} (h : ∀ y ∈ d.ridge.proxy, y.1 % 8192 ≠ l % 8192) : (d.proxyWay n l).2 = d := by
  have hnone : (d.ridge.proxy.filter fun c => c.1 % 8192 == l % 8192 && !c.2.wb && bit (d.od (0x2420 + n) 1) c.2.way) = [] :=
    List.filter_eq_nil_iff.mpr fun y hy => by simp [h y hy]
  unfold Dev.proxyWay
  dsimp only
  rw [hnone]
  split <;> rfl

section
variable {s : State} {hpa : Nat} {st : Fin 5} {data : List Byte} (hs : s.rests = true) (hon : bit s.dev.link.cxl 1 = true)
include hs hon

/-- A response to a line that no request waits for: it ends a DirtyEvict, or nothing. -/
theorem hostGoResponse_unwaited (hno : ∀ w ∈ s.dev.ridge.proxyWait, w.1 ≠ hpa / 64) :
    ((s.dev.pline (hpa / 64)).wb = true → exec (.hostGoResponse hpa st data) s = .next { s with dev := s.dev.setPline (hpa / 64) {} }) ∧
    ((s.dev.pline (hpa / 64)).wb = false → exec (.hostGoResponse hpa st data) s = .next s) := by
  refine ⟨fun hwb => show execHostGoResponse hpa st data s = _ from s.go_to _ _ hs ?_ (s.rests_quiet hs) (s.rests_stores hs),
    fun hwb => show execHostGoResponse hpa st data s = _ from s.go_to _ _ hs ?_ (s.rests_quiet hs) (s.rests_stores hs)⟩
  · have h1 : (s.dev.ridge.proxyWait.filter (·.1 == hpa / 64)) = [] := List.filter_eq_nil_iff.mpr fun w hm => by simpa using hno w hm
    have h2 : (s.dev.ridge.proxyWait.filter (·.1 != hpa / 64)) = s.dev.ridge.proxyWait := List.filter_eq_self.mpr fun w hm => by simpa using hno w hm
    rw [if_pos hon]
    unfold Dev.proxyGo Dev.proxyPump
    dsimp only
    have hw : (s.dev.setPline (hpa / 64) {}).ridge.proxyWait = s.dev.ridge.proxyWait := rfl
    rw [hwb, if_pos rfl, hw, h1, h2]
    rfl
  · rw [if_pos hon]
    unfold Dev.proxyGo
    dsimp only
    rw [hwb, if_neg (by decide), List.find?_eq_none.mpr fun w hm => by simpa using hno w hm]

/-- A grant to the one cluster that waits for the line. -/
theorem hostGoResponse_grants {c : Fin 16} {q : HomeReq} (hset : ∀ y ∈ s.dev.ridge.proxy, y.1 % 8192 ≠ hpa / 64 % 8192)
    (hwait : s.dev.ridge.proxyWait = [(hpa / 64, q)]) (hop : q.op = .rdShared) (ha : q.a = c.val) (hq : q.Plain) :
    ∃ t, exec (.hostGoResponse hpa st data) s = .next t ∧ (t.dev.pline (hpa / 64)).st = (if st = 2 then .e else .s) ∧
      (t.dev.pline (hpa / 64)).data = fit 64 data ∧ (t.dev.pline (hpa / 64)).sharers = [c.val] ∧ t.dev.ridge.proxyWait = [] ∧
      t.dev.out = s.dev.out ++ [.ridge ("Data" ++ poisonName false) 331 c (hostKey (hpa / 64)) q.tn 1 (fit 64 data)] ∧ t.mem = s.mem := by
  obtain ⟨l, hl⟩ : ∃ l, hpa / 64 = l := ⟨_, rfl⟩
  rw [hl] at hset hwait
  rw [hl]
  have hempty : s.dev.pline l = {} := by
    unfold Dev.pline
    refine smGet_absent _ _ _ fun hm => ?_
    obtain ⟨y, hy, hyl⟩ := List.mem_map.mp hm
    exact hset y hy (by rw [hyl])
  obtain ⟨d, hd⟩ : ∃ d, s.dev.setRidge { s.dev.ridge with proxyWait := [] } = d := ⟨_, rfl⟩
  obtain ⟨w, hw⟩ : ∃ w, (d.proxyWay (q.bay.getD 0) l).1 = w := ⟨_, rfl⟩
  have hway : d.proxyWay (q.bay.getD 0) l = (w, d) := Prod.ext hw (Dev.proxyWay_free (by rw [← hd]; exact hset))
  have hmsg : proxyMsg q = "RdShared" := by unfold proxyMsg; rw [hop]
  -- the line as granted
  obtain ⟨y, hy⟩ : ∃ y : CLine, y = { st := if st = 2 then .e else .s, data := fit 64 data, bay := q.bay.getD 0, way := w, stamp := d.ridge.stamp + 1 } := ⟨_, rfl⟩
  obtain ⟨k, hk⟩ : ∃ k, (d.setRidge { d.ridge with stamp := d.ridge.stamp + 1 }).setPline l y = k := ⟨_, rfl⟩
  have hfill : d.proxyFill (q.bay.getD 0) l (if proxyMsg q = "RdOwn" then .m else if st.val = 2 then .e else .s) data = k := by
    unfold Dev.proxyFill
    rw [hway, hmsg, if_neg (by decide), ← hk, hy]
    simp only [Fin.ext_iff]
    rfl
  have hky : k.pline l = y := by rw [← hk]; exact Dev.setPline_pline ..
  have hdo : k.proxyDo s.env l q = (k.setPline l { y with sharers := [c.val] }).send (.ridge ("Data" ++ poisonName false) 331 c (hostKey l) q.tn 1 (fit 64 data)) := by
    unfold Dev.proxyDo
    rw [hop, hky]
    dsimp only
    rw [Dev.homeAnswer_caching _ _ _ hq (by rw [hop]; rfl), Dev.toAgent_cluster _ (by rw [ha]; exact c.isLt), ha, show y.sharers = [] by rw [hy],
      show lineIsl (hostKey l) = 331 from if_pos (by unfold hostKey; omega), show y.data = fit 64 data by rw [hy], show y.poison = false by rw [hy]]
    rfl
  obtain ⟨z, hz⟩ : ∃ z, (k.setPline l { y with sharers := [c.val] }).send (.ridge ("Data" ++ poisonName false) 331 c (hostKey l) q.tn 1 (fit 64 data)) = z := ⟨_, rfl⟩
  have hdk : k.quiet = d.quiet ∧ k.stores = d.stores ∧ k.out = d.out ∧ k.ridge.proxyWait = d.ridge.proxyWait := by rw [← hk]; exact ⟨rfl, rfl, rfl, rfl⟩
  have hsd : d.quiet = s.dev.quiet ∧ d.stores = s.dev.stores ∧ d.out = s.dev.out ∧ d.ridge.proxyWait = [] := by rw [← hd]; exact ⟨rfl, rfl, rfl, rfl⟩
  have hzk : z.quiet = k.quiet ∧ z.stores = k.stores ∧ z.out = k.out ++ [.ridge ("Data" ++ poisonName false) 331 c (hostKey l) q.tn 1 (fit 64 data)] ∧
      z.ridge.proxyWait = k.ridge.proxyWait := by rw [← hz]; exact ⟨rfl, rfl, rfl, rfl⟩
  rw [hdk.1, hdk.2.1, hdk.2.2.1, hdk.2.2.2, hsd.1, hsd.2.1, hsd.2.2.1, hsd.2.2.2] at hzk
  obtain ⟨hzq, hzst, hzo, hzw⟩ := hzk
  have hpump : z.proxyPump s.env l = z := by
    unfold Dev.proxyPump
    dsimp only
    rw [hzw]
    show ({ z with ridge := { z.ridge with proxyWait := [] } } : Dev) = z
    rw [← hzw]
  have hzl : z.pline l = { y with sharers := [c.val] } := by rw [← hz]; exact Dev.setPline_pline ..
  refine ⟨{ s with dev := z }, show execHostGoResponse hpa st data s = _ from s.go_to _ z hs ?_ (hzq.trans (s.rests_quiet hs))
    (hzst.trans (s.rests_stores hs)), ?_, ?_, ?_, hzw, ?_, rfl⟩
  · rw [if_pos hon, hl]
    unfold Dev.proxyGo
    dsimp only
    rw [hempty, if_neg (by decide), hwait, List.find?_cons_of_pos (by simp)]
    dsimp only
    rw [List.erase_cons_head, hd, if_neg (by rw [hmsg]; decide), hfill, hdo, hz, hpump]
  · exact (congrArg CLine.st hzl).trans (by rw [hy])
  · exact (congrArg CLine.data hzl).trans (by rw [hy])
  · exact congrArg CLine.sharers hzl
  · exact hzo

end

/-! ### The host as a holder -/

/-- BICONFLICT is acknowledged where the host is waited for. -/
theorem biconflict_acknowledged {line : Nat} {s : State} (hs : s.rests = true) :
    ((s.dev.ridge.txns.any fun t => t.line == line && t.wait.contains 16) = true → s.dev.link.st = .up → s.dev.od 0x2402 4 + 1 < 2 ^ 32 →
      exec (.biconflict line) s = .next { s with dev := (s.dev.send (.cxl "BIConflictAck" line 0 [])).setOd 0x2402 4 (s.dev.od 0x2402 4 + 1) }) ∧
    ((s.dev.ridge.txns.any fun t => t.line == line && t.wait.contains 16) = false → exec (.biconflict line) s = .next s) := by
  refine ⟨fun hw hup hroom => show execBiconflict line s = _ from s.go_to _ _ hs ?_ (s.rests_quiet hs) (s.rests_stores hs),
    fun hw => show execBiconflict line s = _ from s.go_to _ _ hs ?_ (s.rests_quiet hs) (s.rests_stores hs)⟩
  · rw [hw, if_pos rfl, Dev.hostSend_up _ _ hup rfl]
    exact Dev.count_of_lt _ _ _ _ (Nat.lt_of_lt_of_le hroom (Nat.pow_le_pow_right (n := 256) (by decide) odSize_hostBooks.1))
  · rw [hw, if_neg (by decide)]

/-- The host's data for a line, where it gave some, goes to memory. -/
def Dev.putBack (d : Dev) (line : Nat) (dirty : Option (List Byte)) : Dev :=
  match dirty with
  | some v => (d.poke (line * 64) (fit 64 v)).store (.clean line)
  | none => d

/-- The host's answer to the read that waited for it, with its data, or without. -/
theorem Dev.finishTxn_ncRead_host {d : Dev} {e : Env} {t : Txn} {x : Dir} {st : Nat} {dirty : Option (List Byte)} (hlost : t.lost = false) (hecc : t.req.ecc = true)
    (hop : t.req.op = .ncRead) (hr : t.req.a ≠ 326) (hentry : t.entry = some x) (hk : x.kind = .x) (ho : x.owner = 16) (hans : t.ans = [(16, st)])
    (hdirty : t.dirty = dirty.map fun v => (16, v, false)) {y z : Dev}
    (hy : d.putBack t.line dirty = y)
    (hz : (if st = 0 then y.putDir e t.line none t.way else y) = z) : d.finishTxn e t =
    (z.homeAnswer e t.line t.req "Data" 0 (dirty.getD (y.bytes e (t.line * 64) 64)) (dirty.isNone && y.poisoned e t.line) .ok).dropTxn t.line := by
  have hreq : t.req.r = 99 := by unfold HomeReq.r; rw [hop]; exact if_neg hr
  have hgone : (DirKind.x == DirKind.x && (16 == 99 || [(16, st)].contains (16, 0))) = decide (st = 0) := by
    by_cases h : st = 0
    · subst h
      rfl
    · rw [decide_eq_false h]
      simpa using fun h' => h h'.symm
  unfold Dev.finishTxn Dev.memLine
  simp only [hlost, hecc, hop, hentry, hk, ho, hans, hreq, hgone, Bool.false_eq_true, if_false, if_true, hdirty, decide_eq_true_eq]
  cases dirty with
  | none =>
    subst hy
    rw [← hz]
    rfl
  | some v =>
    have hy' : d.putLine e t.line v false = y := hy
    simp only [Option.map_some, hy']
    rw [← hz]
    rfl

theorem fit_fit (n : Nat) (bs : List Byte) : fit n (fit n bs) = fit n bs := by
  have h := fit_length n bs
  unfold fit at h ⊢
  rw [h, Nat.sub_self]
  simp [zeros]

/-- What a device whose own work wrote no memory has written of a line, and of its summary byte. -/
def lineStores (line : Nat) (bs : Option (List Byte)) (z : Bool) : List MemOp :=
  (if z then [.write (sumAddr line) [0]] else []) ++ match bs with | some v => [.clean line, .write (line * 64) v] | none => []

theorem State.byte_lineStores {s : State} {d : Dev} {line : Nat} {bs : Option (List Byte)} {z : Bool} (hd : d.stores = lineStores line bs z) (hlen : ∀ v, bs = some v → v.length = 64)
    {a : Nat} (ha : a ≠ sumAddr line) : (s.commit d).byte a =
      if line * 64 ≤ a ∧ a < line * 64 + 64 then ((bs.getD ((List.range 64).map fun i => s.byte (line * 64 + i)))[a - line * 64]?).getD 0 else s.byte a := by
  have hz (m : List Host.Cell) : smGet 0 ((if z then [MemOp.write (sumAddr line) [0]] else []).foldr (fun o m => o.onMem m) m) a = smGet 0 m a := by
    cases z with
    | false => rfl
    | true => exact (MemOp.write_byte m (sumAddr line) [0] a).trans (if_neg (by simp only [List.length_singleton]; omega))
  rw [State.byte_commit, hd]
  unfold lineStores
  rw [List.foldr_append, hz]
  cases bs with
  | none =>
    refine (?_ : s.byte a = _)
    split
    · next h =>
      have hi : a - line * 64 < 64 := by omega
      rw [Option.getD_none, List.getElem?_map, List.getElem?_range hi, Option.map_some, Option.getD_some, show line * 64 + (a - line * 64) = a by omega]
    · rfl
  | some v =>
    refine (MemOp.write_byte s.mem (line * 64) v a).trans ?_
    rw [hlen v rfl]
    rfl

theorem State.poison_lineStores {s : State} {d : Dev} {line : Nat} {bs : Option (List Byte)} {z : Bool} (hd : d.stores = lineStores line bs z) :
    (s.commit d).poison.contains line = (bs.isNone && s.poison.contains line) := by
  show (d.stores.foldr (fun o p => o.onPoison p) s.poison).contains line = _
  rw [hd]
  unfold lineStores
  rw [List.foldr_append]
  have hz (p : List Nat) : (if z then [MemOp.write (sumAddr line) [0]] else []).foldr (fun o p => o.onPoison p) p = p := by cases z <;> rfl
  rw [hz]
  cases bs with
  | none => rfl
  | some v =>
    show (listDel line s.poison).contains line = false
    simp [listDel]

/-- BIRSP lets the home answer its reader. -/
theorem birsp_answers {line : Nat} {st : Fin 5} {data : Option (List Byte)} {x : Dir} {t0 : Txn} {s : State} (hs : s.rests = true) (hh : homed line = true)
    (hact : (s.dev.island (272 + sliceOf line)).st = .active) (htx : s.dev.ridge.txns = [t0]) (hw : s.dev.ridge.waiting = [])
    (hlate : s.dev.ridge.lateAns.contains (line, 16) = false) (hdir : s.dev.dir line = some x) (hk : x.kind = .x) (ho : x.owner = 16) (ht : t0.readsFor line 16 x) :
    ∃ t, exec (.birsp line st data) s = .next t ∧
      t.dev.out = s.dev.out ++ [.ridge ("Data" ++ poisonName (data.isNone && s.poison.contains line)) (lineIsl line) t0.req.a line t0.req.tn 0
        ((data.map (fit 64)).getD ((List.range 64).map fun i => s.byte (line * 64 + i)))] ∧ t.dev.ridge.txns = [] ∧
      t.dev.dir line = (if st.val = 0 then none else some x) ∧ t.poison.contains line = (data.isNone && s.poison.contains line) ∧
      (∀ a, a ≠ sumAddr line → t.byte a = if line * 64 ≤ a ∧ a < line * 64 + 64 then
        (((data.map (fit 64)).getD ((List.range 64).map fun i => s.byte (line * 64 + i)))[a - line * 64]?).getD 0 else s.byte a) := by
  obtain ⟨hline, hop, hwho, hself, hecc, hra, hra', htn, hentry, hre, hwait, hans, hdirty, hlost⟩ := ht
  obtain ⟨dirty, hdt⟩ : ∃ dirty, data.map (fun x => (fit 64 x, false)) = dirty := ⟨_, rfl⟩
  obtain ⟨k, srv, f, hk1, hk2⟩ : ∃ k srv f, (if dirty.isNone && st.val = 0 then s.dev.count 0x2400 7 1 else s.dev) = k ∧ k = { s.dev with srv := srv, free := f } := by
    split
    · exact s.dev.count_eq 0x2400 7 1
    · exact ⟨_, s.dev.srv, s.dev.free, rfl, rfl⟩
  have hkst : k.stores = [] := by rw [hk2]; exact s.rests_stores hs
  obtain ⟨y, hy⟩ : ∃ y, k.putBack t0.line (data.map (fit 64)) = y := ⟨_, rfl⟩
  have hys : y = { k with stores := lineStores line (data.map (fit 64)) false } := by
    rw [← hy, hline]
    cases data with
    | none => 
      show k = { k with stores := [] }
      rw [← hkst]
    | some v =>
      show ({ k with stores := .clean line :: .write (line * 64) (fit 64 (fit 64 v)) :: k.stores } : Dev) = _
      rw [hkst, fit_fit]
      rfl
  obtain ⟨t1, ht1⟩ : ∃ t1, t0.answered 16 st dirty false = t1 := ⟨_, rfl⟩
  have hline1 : t1.line = line := by rw [← ht1]; exact hline
  have hreq1 : t1.req = t0.req := by rw [← ht1]; rfl
  obtain ⟨z, hz⟩ : ∃ z, (if st.val = 0 then y.putDir s.env t1.line none t1.way else y) = z := ⟨_, rfl⟩
  obtain ⟨b, dirs, hz', hdirs⟩ : ∃ b dirs, z = { k with stores := lineStores line (data.map (fit 64)) b, ridge := { k.ridge with dir := dirs } } ∧
      smGet none dirs line = if st.val = 0 then none else some x := by
    rw [← hz]
    split
    · obtain ⟨l, hput, hl⟩ := y.putDir_none s.env t1.way hh
      refine ⟨l.length == 1, smSet none k.ridge.dir line none, ?_, smGet_set_same ..⟩
      rw [hline1, hput, hys]
      rcases hl with ⟨rfl, -⟩ | rfl <;> rfl
    · exact ⟨false, k.ridge.dir, hys, by rw [hk2]; exact hdir⟩
  have hfound : (data.map (fit 64)).getD (y.bytes s.env (t1.line * 64) 64) = (data.map (fit 64)).getD ((List.range 64).map fun i => s.byte (line * 64 + i)) ∧
      ((data.map (fit 64)).isNone && y.poisoned s.env t1.line) = (data.isNone && s.poison.contains line) := by
    rw [hline1]
    cases data with
    | some v => exact ⟨rfl, rfl⟩
    | none =>
      have hyn : y.stores = [] := by rw [hys]; rfl
      refine ⟨s.bytes_env hyn _ _, ?_⟩
      show y.poisoned s.env line = s.poison.contains line
      unfold Dev.poisoned
      rw [hyn]
      rfl
  have hfin : k.finishTxn s.env t1 = (z.send (.ridge ("Data" ++ poisonName (data.isNone && s.poison.contains line)) (lineIsl line) t0.req.a line t0.req.tn 0
      ((data.map (fit 64)).getD ((List.range 64).map fun i => s.byte (line * 64 + i))))).dropTxn line := by
    refine (Dev.finishTxn_ncRead_host (t := t1) (dirty := data.map (fit 64)) (st := st) (by rw [← ht1]; exact (Bool.or_false _).trans hlost) (by rw [hreq1]; exact hecc)
      (by rw [hreq1]; exact hop) (by rw [hreq1]; exact hra') (by rw [← ht1]; exact hentry) hk ho (by rw [← ht1]; exact congrArg (· ++ [_]) hans)
      (by rw [← ht1, ← hdt]; cases data with
        | none => exact hdirty
        | some v => rfl) (by rw [hline1, ← hline]; exact hy) hz).trans ?_
    rw [hfound.1, hfound.2, hline1, hreq1, Dev.homeAnswer_island z s.env _ (q := t0.req) ⟨hwho, hself, htn⟩ (by rw [hop]; rfl) hra hra']
  obtain ⟨w, hwd⟩ : ∃ w, (z.send (.ridge ("Data" ++ poisonName (data.isNone && s.poison.contains line)) (lineIsl line) t0.req.a line t0.req.tn 0
      ((data.map (fit 64)).getD ((List.range 64).map fun i => s.byte (line * 64 + i))))).dropTxn line = w := ⟨_, rfl⟩
  have hzr : z.ridge = { s.dev.ridge with dir := dirs } := by rw [hz', hk2]
  have hwr : w.ridge = { s.dev.ridge with dir := dirs, txns := [] } := by
    rw [← hwd]
    show ({ z.ridge with txns := z.ridge.txns.filter (·.line != line) } : Ridge) = _
    have : z.ridge.txns = [t0] := by rw [hzr]; exact htx
    rw [this, List.filter_cons_of_neg (by simp [hline]), hzr]
    rfl
  have hwst : w.stores = lineStores line (data.map (fit 64)) b := by rw [← hwd, hz']; rfl
  have hgo := s.go_done (fun e d => if !(homed line) then d else
      let i := 272 + sliceOf line
      let late := data.isSome && ((d.island i).st != .active || d.ridge.lateAns.contains (line, 16))
      (if late then d.dropReply i else d).takeAnswer e line 16 st (data.map fun x => (fit 64 x, false))) w hs
    (by
      rw [hh, if_neg (by decide)]
      dsimp only
      rw [hact, hlate, if_neg (by simp), ← hline, hdt]
      refine Dev.takeAnswer_last s.env (by rw [hline]; exact hact) htx hwait st dirty ?_ (by rw [hwr]; exact hw)
      rw [hk1, ht1, hfin, hwd])
    ((show w.quiet = s.dev.quiet by rw [← hwd, hz', hk2]; rfl).trans (s.rests_quiet hs))
  refine ⟨_, show execBirsp line st data s = _ from hgo, ?_, ?_, ?_, ?_, fun a ha => ?_⟩
  · show w.out = _
    rw [← hwd, hz', hk2]
    rfl
  · show w.ridge.txns = []
    rw [hwr]
  · show smGet none w.ridge.dir line = _
    rw [hwr]
    exact hdirs
  · exact (State.poison_lineStores hwst).trans (by cases data <;> rfl)
  · exact State.byte_lineStores hwst (fun v hv => by obtain ⟨u, -, rfl⟩ := Option.map_eq_some_iff.mp hv; exact fit_length 64 u) ha

/-! ### A fault of class JOB outside a strict Bay -/

/-- A device without its dictionary, its fault log and its journals. -/
def Dev.unbooked (d : Dev) : Dev := { d with srv := {}, flog := [], flogSeq := 0, free := 0, journals := [], jseq := 0, jtick := {} }

theorem Dev.unsign_keeps {α : Type} (g : Dev → α) (h : ∀ d n j, g (d.setJour n j) = g d) (h' : ∀ (d : Dev) k, g { d with jseq := k } = g d)
    (hj : ∀ (d : Dev) x, g { d with jtick := x } = g d) (d : Dev) (e : Env) (n : Nat) : g (d.unsign e n) = g d := by
  unfold Dev.unsign
  dsimp only
  split
  · exact (h _ _ _).trans ((Dev.recast_keeps g h h' _ e).trans (hj d _))
  · rfl

/-- A fault of class JOB in a Bay that is not strict: recorded, counted and signalled. -/
theorem Dev.jobFault_spec {d : Dev} (e : Env) {n : Nat} (hn : n < 16) (f : Flt) (hstrict : d.strict n = false) (hevt : d.bayEvt n = false) :
    ∃ o l, (d.oneFault e .job n f).unbooked = ({ d with out := o, link := l } : Dev).unbooked ∧ l.unsent = d.link.unsent ∧
      ∀ i j, j < 256 → i < 0x2D00 → (d.oneFault e .job n f).od i j = d.od i j := by
  obtain ⟨a, ha⟩ : ∃ a, (d.logRec e (d.fltRec .job n f)).count (0x2D10 + n) 7 1 = a := ⟨_, rfl⟩
  have haod (i j : Nat) (hj : j < 256) (hi : i < 0x2D00) : a.od i j = d.od i j := by
    rw [← ha, Dev.count_od_other _ 1 hj (by decide) (by rw [ne_eq, Prod.mk.injEq]; omega)]
    exact Dev.logRec_od _ _ _ hj (by unfold logEntry; omega)
  have haub : a.unbooked = d.unbooked := by
    rw [← ha]
    exact (Dev.count_keeps Dev.unbooked (fun _ _ _ _ => rfl) (fun _ _ => rfl) _ _ _ _).trans
      (Dev.logRec_keeps Dev.unbooked (fun _ _ _ _ => rfl) (fun _ _ => rfl) (fun _ _ _ => rfl) _ _ _)
  have hboard : a.board = d.board := (congrArg Dev.board haub :)
  have hlink : a.link = d.link := (congrArg Dev.link haub :)
  obtain ⟨o, l, hsig, hl⟩ := a.raiseBay_signals n 4 (by
    rw [← hevt]
    unfold Dev.bayEvt Dev.ownerLink Dev.attachMode
    rw [haod _ _ (by decide) (by omega), hboard])
  obtain ⟨b, hb⟩ : ∃ b, (a.raiseBay n 4).unsign e n = b := ⟨_, rfl⟩
  have hbod (i j : Nat) (hj : j < 256) (hi : i < 0x2D00) : b.od i j = d.od i j := by
    rw [← hb, Dev.unsign_keeps (fun d => d.od i j) (fun _ _ _ => rfl) (fun _ _ => rfl) (fun _ _ => rfl), hsig]
    exact haod i j hj hi
  have hbub : b.unbooked = ({ d with out := o, link := l } : Dev).unbooked := by
    rw [← hb, Dev.unsign_keeps Dev.unbooked (fun _ _ _ => rfl) (fun _ _ => rfl) (fun _ _ => rfl), hsig]
    have h := congrArg (fun x : Dev => ({ x with out := o, link := l } : Dev)) haub
    exact h
  have hjob : d.jobFault e [] n f = ([], b) := by
    unfold Dev.jobFault
    dsimp only
    rw [ha, hb, if_neg]
    rw [show b.strict n = d.strict n by unfold Dev.strict; rw [hbod _ _ (by decide) (by omega)], hstrict]
    simp
  have hone : d.oneFault e .job n f = b.nameRestarts e := by
    unfold Dev.oneFault
    dsimp only
    rw [if_pos hn, hjob]
  refine ⟨o, l, ?_, hl.trans (congrArg Link.unsent hlink), fun i j hj hi => ?_⟩
  · rw [hone, Dev.nameRestarts_keeps Dev.unbooked (fun _ _ _ => rfl) (fun _ _ => rfl) (fun _ _ => rfl)]
    exact hbub
  · rw [hone, Dev.nameRestarts_od]
    exact hbod i j hj hi

/-- A line that is lost: its poison, its entry, its counters, and a fault for the Bay that holds it. -/
theorem Dev.loseLine_spec {d : Dev} (e : Env) {line : Nat} (hh : homed line = true) : ∃ st srv f y,
    (st = [] ∨ st = [.write (sumAddr line) [0]]) ∧
    y = { d with stores := st ++ .poison line :: d.stores, ridge := { d.ridge with dir := smSet none d.ridge.dir line none }, srv := srv, free := f } ∧
    (∀ i j, j < 256 → i < 0x2400 ∨ 0x2401 ≤ i ∧ i < 0x2410 → y.od i j = d.od i j) ∧
    d.loseLine e line = match d.lineBay line with
      | some n => y.fault .job n { source := 3, island := 272 + sliceOf line, addr := line * 64, status := .integrity }
      | none => y := by
  obtain ⟨st, hput, hsum⟩ := (d.store (.poison line)).putDir_none e none hh
  obtain ⟨x, hx⟩ : ∃ x : Dev, x = { d with stores := st ++ .poison line :: d.stores, ridge := { d.ridge with dir := smSet none d.ridge.dir line none } } := ⟨_, rfl⟩
  obtain ⟨c, srv, f, hc, hc'⟩ := x.count_eq 0x2400 0xB 1
  have hcod (i j : Nat) (hj : j < 256) (hi : i < 0x2400 ∨ 0x2401 ≤ i ∧ i < 0x2410) : c.od i j = d.od i j := by
    rw [← hc, Dev.count_od_other _ 1 hj (by decide) (by rw [ne_eq, Prod.mk.injEq]; omega), hx]
    rfl
  have hbay : c.lineBay line = d.lineBay line := by rw [hc', hx]; rfl
  have hlose : d.loseLine e line = match c.lineBay line with
      | some n => (c.count (0x2410 + n) 4 1).fault .job n { source := 3, island := 272 + sliceOf line, addr := line * 64, status := .integrity }
      | none => c := by
    unfold Dev.loseLine
    dsimp only
    rw [hput, show ({ d.store (.poison line) with stores := st ++ (d.store (.poison line)).stores, ridge := { (d.store (.poison line)).ridge with
      dir := smSet none (d.store (.poison line)).ridge.dir line none } } : Dev) = x by rw [hx]; rfl, hc] <;>
      cases c.lineBay line <;> rfl
  rw [hlose, hbay]
  cases hb : d.lineBay line with
  | none => exact ⟨st, srv, f, c, hsum.imp And.left id, by rw [hc', hx], hcod, rfl⟩
  | some n =>
    obtain ⟨k, srv', f', hk, hk'⟩ := c.count_eq (0x2410 + n) 4 1
    refine ⟨st, srv', f', k, hsum.imp And.left id, by rw [hk', hc', hx], fun i j hj hi => ?_, congrArg (fun k : Dev => k.fault .job n _) hk⟩
    rw [← hk, Dev.count_od_other _ 1 hj (by decide) (by rw [ne_eq, Prod.mk.injEq]; omega)]
    exact hcod i j hj hi

theorem Dev.lineBay_lt {d : Dev} {line n : Nat} (h : d.lineBay line = some n) : n < 16 := by
  have hm := List.mem_of_find?_eq_some h
  unfold bays16 at hm
  simpa using hm

/-- The quiet of a device rests on none of its books. -/
theorem Dev.quiet_unbooked {d d' : Dev} {o : List Out} {l : Link} (h : d'.unbooked = ({ d with out := o, link := l } : Dev).unbooked)
    (hl : l.unsent = d.link.unsent) (hq : d.quiet = true) : d'.quiet = true := by
  have h1 : d'.quiet = ({ d with out := o, link := l } : Dev).quiet := (congrArg Dev.quiet h :)
  rw [h1]
  exact Dev.quiet_link { d with out := o } l hq (congrArg Link.heldRecs hl :)

/-- BISNP_TIMEOUT: what the host held is lost. -/
theorem bisnpTimeout_loses {line : Nat} {x : Dir} {t0 : Txn} {s : State} (hs : s.rests = true) (hh : homed line = true) (htx : s.dev.ridge.txns = [t0])
    (hw : s.dev.ridge.waiting = []) (hk : x.kind = .x) (ho : x.owner = 16) (ht : t0.readsFor line 16 x) (hlate : t0.time + s.dev.od 0x2400 9 * 1000 ≤ s.time)
    (hroom : s.dev.od 0x2402 5 + 1 < 2 ^ 32) (hplain : ∀ n, s.dev.lineBay line = some n → s.dev.strict n = false ∧ s.dev.bayEvt n = false) :
    ∃ t, exec (.bisnpTimeout line) s = .next t ∧ t.dev.od 0x2402 5 = s.dev.od 0x2402 5 + 1 ∧ t.dev.dir line = none ∧ t.poison.contains line = true ∧
      t.dev.ridge.txns = [] ∧
      (s.dev.lineBay line = none → t.dev.out = s.dev.out ++
        [.ridge ("Data" ++ poisonName true) (lineIsl line) t0.req.a line t0.req.tn 0 ((List.range 64).map fun i => s.byte (line * 64 + i))]) := by
  have hline : t0.line = line := ht.1
  have hwait : t0.wait = [16] := by
    obtain ⟨-, -, -, -, -, -, -, -, -, -, hwait, -⟩ := ht
    exact hwait
  obtain ⟨c, srv, f, hc, hc'⟩ := s.dev.count_eq 0x2402 5 1
  have hcod : c.od 0x2402 5 = s.dev.od 0x2402 5 + 1 := by rw [← hc, Dev.count_od_32 _ odSize_hostBooks.2.1 hroom]
  have hcn (i j : Nat) (hj : j < 256) (hi : i < 0x2400) : c.od i j = s.dev.od i j := by
    rw [← hc]
    exact s.dev.count_od_other 1 hj (by decide) (by rw [ne_eq, Prod.mk.injEq]; omega)
  obtain ⟨st, srv', f', y, hst, hy, hyod, hlose⟩ := c.loseLine_spec s.env hh
  rw [show c.lineBay line = s.dev.lineBay line by rw [hc']; rfl] at hlose
  have hys : y.stores = st ++ [.poison line] := by rw [hy, hc']; exact congrArg (st ++ .poison line :: ·) (s.rests_stores hs)
  obtain ⟨o, hod⟩ : ∃ o, Out.ridge ("Data" ++ poisonName true) (lineIsl line) t0.req.a line t0.req.tn 0 ((List.range 64).map fun i => s.byte (line * 64 + i)) = o := ⟨_, rfl⟩
  obtain ⟨z, hz⟩ : ∃ z, (y.send o).dropTxn line = z := ⟨_, rfl⟩
  have hzr : z.ridge.txns = [] ∧ z.ridge.waiting = [] ∧ smGet none z.ridge.dir line = none := by
    have hty : y.ridge.txns = [t0] := by rw [hy, hc']; exact htx
    refine ⟨?_, by rw [← hz, hy, hc']; exact hw, ?_⟩
    · rw [← hz]
      show y.ridge.txns.filter (·.line != line) = []
      rw [hty, List.filter_cons_of_neg (by simp [hline])]
      rfl
    · rw [← hz]
      show smGet none y.ridge.dir line = none
      rw [hy]
      exact smGet_set_same (none : Option Dir) c.ridge.dir line none
  have hzq : z.quiet = true := (show z.quiet = s.dev.quiet by rw [← hz, hy, hc']; rfl).trans (s.rests_quiet hs)
  have hzst : z.stores = st ++ [.poison line] := by rw [← hz]; exact hys
  have hzod : z.od 0x2402 5 = s.dev.od 0x2402 5 + 1 := by
    rw [← hcod, ← hyod _ _ (by decide) (by decide), ← hz]
    rfl
  have hsilent {v w : Dev} (hv : c.loseLine s.env line = v) (hvs : v.stores = st ++ [.poison line]) (hwv : (v.send o).dropTxn line = w) (hww : w.ridge.waiting = []) :
      s.dev.silent s.env line 16 = w := by
    unfold Dev.silent
    rw [Dev.snoopLate_one htx hline hwait hlate]
    dsimp only
    rw [if_pos rfl, hc, Dev.answerOf_lost hh (by rw [hc']; exact htx) ht hk ho hv hst hvs]
    have hw' : (v.send (.ridge ("Data" ++ poisonName true) (lineIsl line) t0.req.a line t0.req.tn 0 ((List.range 64).map fun i => smGet 0 s.env.mem (line * 64 + i)))).dropTxn line = w := by
      rw [← hwv, ← hod]
      rfl
    rw [hw', Dev.homePump_none hww]
  cases hb : s.dev.lineBay line with
  | none =>
    rw [hb] at hlose
    have hgo := s.go_done (fun e d => d.silent e line 16) z hs (hsilent hlose hys hz hzr.2.1) hzq
    refine ⟨_, show execBisnpTimeout line s = _ from hgo, hzod, hzr.2.2, poison_lost hst hzst, hzr.1, fun _ => ?_⟩
    show z.out = _
    rw [← hz, hy, hc', hod]
    rfl
  | some n =>
    obtain ⟨hstrict, hevt⟩ := hplain n hb
    rw [hb] at hlose
    have hn := Dev.lineBay_lt hb
    have hzn (j : Nat) (hj : j < 256) : z.od (0x2100 + n) j = s.dev.od (0x2100 + n) j := by
      rw [← hcn _ _ hj (by omega), ← hyod _ _ hj (.inl (by omega)), ← hz]
      rfl
    have hboard : z.board = s.dev.board := by rw [← hz, hy, hc']; rfl
    obtain ⟨o', l, hub, hl, hod'⟩ := z.jobFault_spec s.env hn { source := 3, island := 272 + sliceOf line, addr := line * 64, status := .integrity }
      (by rw [← hstrict]; unfold Dev.strict; rw [hzn _ (by decide)])
      (by rw [← hevt]; unfold Dev.bayEvt Dev.ownerLink Dev.attachMode; rw [hzn _ (by decide), hboard])
    have hgo := s.go_fault (fun e d => d.silent e line 16) z .job n { source := 3, island := 272 + sliceOf line, addr := line * 64, status := .integrity } hs
      (hsilent hlose hys (by rw [← hz]; rfl) hzr.2.1) hzq (Dev.quiet_unbooked hub hl hzq)
    have hridge : (z.oneFault s.env .job n { source := 3, island := 272 + sliceOf line, addr := line * 64, status := .integrity }).ridge = z.ridge := (congrArg Dev.ridge hub :)
    have hstores : (z.oneFault s.env .job n { source := 3, island := 272 + sliceOf line, addr := line * 64, status := .integrity }).stores = z.stores :=
      (congrArg Dev.stores hub :)
    refine ⟨_, show execBisnpTimeout line s = _ from hgo, (hod' 0x2402 5 (by decide) (by decide)).trans hzod, ?_, poison_lost hst (hstores.trans hzst), ?_, nofun⟩
    · refine Eq.trans ?_ hzr.2.2
      exact congrArg (fun r : Ridge => smGet none r.dir line) hridge
    · exact (congrArg Ridge.txns hridge).trans hzr.1

/-- Settles O32: the host's lines, from their state in the proxy cache; the host as a holder, from its answer or its silence. -/
theorem hostCoherence : Obligations.HostCoherence := by
  unfold Obligations.HostCoherence
  refine ⟨fun hpa s hs hup hon hroom => ?_, fun hpa st data s hs hoff => ?_, fun line st data x t0 s hs hh hact htx hw hlate hdir hk ho ht => ?_,
    fun line s hs => biconflict_acknowledged hs, fun line x t0 s hs hh htx hw hdir hk ho ht hlate hroom _ hplain =>
      bisnpTimeout_loses hs hh htx hw hk ho ht hlate hroom hplain,
    fun hpa st data s hs hon hno => hostGoResponse_unwaited hs hon hno, fun hpa c st data q s hs hon hset hwait hop ha hwho hself htn => ?_⟩
  · dsimp only
    refine ⟨h2d_answers hs hup hon hroom 1 (by decide) rfl, h2dSnpInv_answers hs hup hon hroom, ?_⟩
    obtain ⟨t, ht, hst, hod, hout, hmem⟩ := h2d_answers (c := .h2dSnpCur hpa) hs hup hon hroom 3 (by decide) rfl
    refine ⟨t, ht, hst.trans ?_, hod, hout, hmem⟩
    cases (s.dev.pline (hpa / 64)).st <;> rfl
  · have hsnoop (snp : Nat) : s.dev.h2dSnoop snp hpa = s.dev := if_pos (by rw [hoff]; rfl)
    have hgo (c : Instr) (snp : Nat) (hc : exec c s = s.go (Dev.turn c fun _ d => d.h2dSnoop snp hpa)) : exec c s = .next s :=
      hc.trans (s.go_to _ s.dev hs (by rw [Dev.turn_rests _ _ _ _ (s.rests_ahead hs), hsnoop]) (s.rests_quiet hs) (s.rests_stores hs))
    refine ⟨hgo _ 1 rfl, hgo _ 2 rfl, hgo _ 3 rfl, show execHostGoResponse hpa st data s = _ from s.go_to _ s.dev hs ?_ (s.rests_quiet hs) (s.rests_stores hs)⟩
    rw [hoff, if_neg (by decide)]
  · obtain ⟨t, ht, hout, htx', hdir', hp, hb⟩ := birsp_answers (st := st) (data := data) hs hh hact htx hw hlate hdir hk ho ht
    refine ⟨t, ht, ?_, htx', hdir', hp, fun a ha => ?_⟩
    · rw [hout]
      cases data <;> rfl
    · rw [hb a ha]
      cases data <;> rfl
  · exact hostGoResponse_grants hs hon hset hwait hop ha ⟨hwho, hself, htn⟩

end Sys2Proof.Machine
end

section
/-! PROOF. Reads and writes at the home of a line that nobody holds (R173, R277 to R288, R304): O30. -/
namespace Sys2Proof.Machine

/-! ### Shares that freeze a line -/

section
variable {d x : Dev} (hb : x.bays = d.bays) (hod : ∀ m j, m < 16 → j < 256 → x.od (0x2100 + m) j = d.od (0x2100 + m) j)
include hb hod

theorem Dev.shares_congr {m : Nat} (hm : m < 16) : x.shares m = d.shares m := by
  have hbay (n : Nat) : x.bay n = d.bay n := by unfold Dev.bay; rw [hb]
  have hstrict (n : Nat) (hn : n < 16) : x.strict n = d.strict n := by unfold Dev.strict; rw [hod n 3 hn (by decide)]
  unfold Dev.shares
  rw [hbay]
  split
  · rfl
  refine List.filterMap_congr fun i hi => ?_
  have hi8 := List.mem_range.mp hi
  dsimp only
  rw [hod m _ hm (by omega)]
  have hn : bits (d.od (0x2100 + m) (0x28 + i)) 35 32 < 16 := Nat.mod_lt _ (by decide)
  rw [hbay, hstrict _ hn, hstrict m hm]
  have hany (f : Nat → Bool) : ((List.range 8).any fun j => f (x.od (0x2100 + bits (d.od (0x2100 + m) (0x28 + i)) 35 32) (0x20 + j))) =
      (List.range 8).any fun j => f (d.od (0x2100 + bits (d.od (0x2100 + m) (0x28 + i)) 35 32) (0x20 + j)) := by
    rw [Bool.eq_iff_iff, List.any_eq_true, List.any_eq_true]
    exact exists_congr fun j => and_congr_right fun hj => by rw [hod _ _ hn (by have := List.mem_range.mp hj; omega)]
  rw [hany fun g => bit g 37 && bits g 35 32 == m && bits g 31 0 == bits (d.od (0x2100 + m) (0x28 + i)) 31 0 &&
    bit g 36 == bit (d.od (0x2100 + m) (0x28 + i)) 36]

/-- Whether a line is frozen rests on the Bays and their entries. -/
theorem Dev.frozenFor_congr (line : Nat) (q : HomeReq) : x.frozenFor line q = d.frozenFor line q := by
  have hbay (l : Nat) : x.lineBay l = d.lineBay l := by
    unfold Dev.lineBay Dev.holder Dev.bay
    rw [hb]
  have hfro (n g : Nat) : x.frozenGranule n g = d.frozenGranule n g := by
    unfold Dev.frozenGranule
    rw [Bool.eq_iff_iff, List.any_eq_true, List.any_eq_true]
    refine exists_congr fun m => and_congr_right fun hm => ?_
    have hm16 : m < 16 := by unfold bays16 at hm; simpa using hm
    rw [Dev.shares_congr hb hod hm16]
    unfold Dev.strict
    rw [hod m 3 hm16 (by decide)]
  unfold Dev.frozenFor
  rw [hbay]
  simp only [hfro]

end

/-! ### A home whose line nobody holds -/

/-- The home of a line serves, nothing is under way, and nobody holds the line. -/
structure Dev.Unheld (d : Dev) (e : Env) (line : Nat) : Prop extends d.Idle e line where
  fresh : d.ridge.fresh = []
  dir : d.dir line = none
  sum : d.byte e (sumAddr line) = 0
  whole : d.poisoned e (sumAddr line / 64) = false

theorem State.homeFree_iff {s : State} {line : Nat} (h : s.homeFree line = true) : s.rests = true ∧ s.dev.Unheld s.env line := by
  unfold State.homeFree at h
  simp only [Bool.and_eq_true, beq_iff_eq, List.isEmpty_iff, Option.isNone_iff_eq_none, Bool.not_eq_true'] at h
  obtain ⟨⟨⟨⟨⟨⟨⟨⟨⟨hs, hh⟩, hact⟩, htx⟩, hw⟩, hfresh⟩, hdir⟩, hsum⟩, hpo⟩, harr⟩ := h
  refine ⟨hs, ⟨hh, hact, htx, hw, harr, s.rests_calm hs⟩, hfresh, hdir, (s.byte_env (s.rests_stores hs) _).trans hsum, ?_⟩
  unfold Dev.poisoned
  rw [s.rests_stores hs]
  exact hpo

section
variable {d : Dev} {e : Env} {line : Nat} {q : HomeReq}

theorem Dev.Unheld.needsWay (h : d.Unheld e line) (hop : q.op.caching = false) : d.needsWay e line q = false := by
  unfold Dev.needsWay
  rw [h.whole, h.sum, h.dir]
  cases ho : q.op <;> rw [ho] at hop <;> first | rfl | exact absurd hop (by decide)

/-- A request for a line that nobody holds needs no snoop: its transaction finishes at once. -/
theorem Dev.Unheld.startTxn (h : d.Unheld e line) (hop : q.op ≠ .wbDirty) (hfrozen : d.frozenFor line q = false ∨ q.op = .ncRead) {way : Option Nat}
    (hway : if q.op.caching then ∃ w, d.dirVictim line 0xFF = some (w, none) ∧ way = some w else way = none) :
    d.startTxn e line q = (d.count 0x2400 5 1).finishTxn e { line := line, req := q, way := way, time := e.time } := by
  have hwb : (q.op == RReq.wbDirty) = false := beq_false_of_ne hop
  have hkeep : (if d.needsWay e line q then d.keepWay e line 0xFF else (none, d)) = (way, d) := by
    split at hway
    · next hc =>
      obtain ⟨w, hv, hw⟩ := hway
      have hn : d.needsWay e line q = true := by
        unfold Dev.needsWay
        rw [h.dir]
        cases ho : q.op <;> rw [ho] at hc hop <;> first | rfl | exact absurd hc (by decide) | exact absurd rfl hop
      rw [if_pos hn]
      unfold Dev.keepWay
      rw [hv, hw]
    · next hc => rw [h.needsWay (by simpa using hc), if_neg (by decide), hway]
  have hsum : ∀ x : Dev, x.stores = d.stores → x.readSummary e line = (0, x) := fun x hx => by
    have hp : x.poisoned e (sumAddr line / 64) = false := by
      unfold Dev.poisoned
      rw [hx]
      exact h.whole
    have hb : x.byte e (sumAddr line) = 0 := by
      unfold Dev.byte
      rw [hx]
      exact h.sum
    unfold Dev.readSummary
    rw [hp, hb]
    rfl
  unfold Dev.startTxn
  rcases hfrozen with hfrozen | hread
  · simp only [Dev.shadowed_none h.arrays, hfrozen, Bool.false_and, Bool.or_false, Bool.false_eq_true, if_false, hwb, hkeep, h.dir,
      hsum _ (d.count_stores 0x2400 5 1), if_true]
    rfl
  · have h1 : (q.op == .ncWrite || q.op == .ncAtomic) = false := by rw [hread]; rfl
    have h2 : (q.op == .rdOwn || q.op == .upgrade) = false := by rw [hread]; rfl
    simp only [h1, h2, Bool.and_false, Bool.false_and, Bool.false_eq_true, if_false, hwb, hkeep, h.dir, hsum _ (d.count_stores 0x2400 5 1), if_true]
    rfl

/-- The transaction of a request for a line that nobody holds. -/
structure Txn.Fresh (t : Txn) : Prop where
  lost : t.lost = false
  ecc : t.req.ecc = true
  dirty : t.dirty = none
  entry : t.entry = none
  rebuilt : t.rebuilt = none
  ans : t.ans = []

section
variable {t : Txn} (h : t.Fresh)
include h

theorem Dev.finishTxn_caching (hop : t.req.op = .rdShared ∨ t.req.op = .rdOwn ∨ t.req.op = .upgrade) (harr : d.arrays = []) (hfrozen : d.frozenFor t.line t.req = false) :
    d.finishTxn e t = (((d.putDir e t.line (mkX t.req.r) t.way).homeAnswer e t.line t.req "Data" 2 (d.bytes e (t.line * 64) 64) (d.poisoned e t.line) .ok)).grant t := by
  have hrem : listDel t.req.r t.remain = [] := by
    unfold Txn.remain
    rw [h.ans, h.entry]
    rfl
  unfold Dev.finishTxn Dev.memLine
  rcases hop with hop | hop | hop <;>
    simp only [h.lost, h.ecc, h.dirty, h.entry, hop, hrem, Dev.shadowed_none harr, hfrozen, Bool.false_eq_true, if_false, if_true] <;> rfl

theorem Dev.finishTxn_ncRead (hop : t.req.op = .ncRead) : d.finishTxn e t =
    (d.homeAnswer e t.line t.req "Data" 0 (d.bytes e (t.line * 64) 64) (d.poisoned e t.line) .ok).dropTxn t.line := by
  unfold Dev.finishTxn Dev.memLine
  simp only [h.lost, h.ecc, h.dirty, h.entry, h.rebuilt, hop, Bool.false_eq_true, if_false, if_true]
  rfl

end

/-- The 64 bytes of a line, and whether they are poisoned, go to its home, which keeps no entry of it. -/
def Dev.written (d : Dev) (line : Nat) (bs : List Byte) (p : Bool) : Dev :=
  { d with
    stores := (if p then [] else [.clean line]) ++ .write (line * 64) bs :: d.stores
    ridge := { d.ridge with dir := smSet none d.ridge.dir line none } }

theorem Dev.putDir_written (hh : homed line = true) (hsum : d.byte e (sumAddr line) = 0) {bs : List Byte} (hlen : bs.length = 64) {p : Bool}
    (hp : p = true → d.poisoned e line = true) : (d.putLine e line bs p).putDir e line none none = d.written line bs p := by
  have hfit : fit 64 bs = bs := by
    rw [← hlen]
    unfold fit
    simp [zeros]
  have hput : d.putLine e line bs p = { d with stores := (if p then [] else [.clean line]) ++ .write (line * 64) bs :: d.stores } := by
    unfold Dev.putLine
    rw [hfit]
    cases hpp : p with
    | false => rfl
    | true =>
      have hpo : (d.poke (line * 64) bs).poisoned e line = true := by
        refine Eq.trans ?_ (hp hpp)
        unfold Dev.poisoned Dev.poke Dev.store
        rw [List.findSome?_cons]
        rfl
      dsimp only
      unfold Dev.poisonLine
      rw [if_pos rfl, if_pos hpo]
      rfl
  have hl : line * 64 < 0x5E80000000 := by simpa [homed, inHbm] using hh
  have hzero : ({ d with stores := (if p then [] else [.clean line]) ++ .write (line * 64) bs :: d.stores } : Dev).byte e (sumAddr line) = 0 := by
    refine Eq.trans ?_ hsum
    have hout : bs[sumAddr line - line * 64]? = none := by
      rw [List.getElem?_eq_none_iff, hlen]
      unfold sumAddr
      omega
    unfold Dev.byte
    rw [List.findSome?_append]
    cases p <;> simp [MemOp.byteAt, hout]
  rw [hput]
  unfold Dev.putDir
  dsimp only
  rw [if_pos hh]
  unfold Dev.setSummary
  have hz : ((Dev.setDir { d with stores := (if p then [] else [.clean line]) ++ .write (line * 64) bs :: d.stores } line none).byte e (sumAddr line)).toNat = 0 := by
    rw [show (Dev.setDir { d with stores := (if p then [] else [.clean line]) ++ .write (line * 64) bs :: d.stores } line none).byte e (sumAddr line) = _ from hzero]
    rfl
  rw [if_pos hz]
  rfl

theorem mergeMask_length (old new : List Byte) (mask : Nat) : (mergeMask old new mask).length = 64 := by simp [mergeMask]

/-- A write for a line that nobody holds. -/
theorem Dev.finishTxn_ncWrite {t : Txn} (h : t.Fresh) (hop : t.req.op = .ncWrite) (hway : t.way = none) (hh : homed t.line = true)
    (hsum : d.byte e (sumAddr t.line) = 0) : ∃ p, d.finishTxn e t =
      ((d.written t.line (mergeMask (d.bytes e (t.line * 64) 64) t.req.data t.req.mask) p).homeAnswer e t.line t.req "Cmp" 0 [] false .ok).dropTxn t.line := by
  refine ⟨d.poisoned e t.line && !((List.range 64).all fun i => bit t.req.mask i), ?_⟩
  rw [← Dev.putDir_written hh hsum (mergeMask_length _ _ _) (fun hp => by simp only [Bool.and_eq_true] at hp; exact hp.1)]
  unfold Dev.finishTxn Dev.memLine
  simp only [h.lost, h.ecc, h.dirty, hop, hway, Bool.false_eq_true, if_false, if_true]

/-- An atomic operation on a whole line that nobody holds. -/
theorem Dev.finishTxn_ncAtomic {t : Txn} (h : t.Fresh) (hop : t.req.op = .ncAtomic) (hway : t.way = none) (hh : homed t.line = true)
    (hsum : d.byte e (sumAddr t.line) = 0) (hpoison : d.poisoned e t.line = false) {bs new : List Byte} (hbs : d.bytes e (t.line * 64) 64 = bs)
    (hnew : patch bs t.req.off (leBytes t.req.size (atomicResult t.req.aop t.req.size (fld bs t.req.off t.req.size) t.req.operand t.req.compare)) = new)
    (hlen : new.length = 64) : d.finishTxn e t =
      (if t.req.returning then (d.written t.line new false).homeAnswer e t.line t.req "Data" 0 (leBytes t.req.size (fld bs t.req.off t.req.size)) false .ok
       else (d.written t.line new false).homeAnswer e t.line t.req "Cmp" 0 [] false .ok).dropTxn t.line := by
  rw [← Dev.putDir_written hh hsum hlen (p := false) nofun, ← hnew, ← hbs]
  unfold Dev.finishTxn Dev.memLine
  simp only [h.lost, h.ecc, h.dirty, hop, hway, hpoison, Bool.false_eq_true, if_false, if_true]

/-! ### A holder writes its line back -/

/-- The X holder's WbDirty starts, and finishes at once. -/
theorem Dev.startTxn_wbDirty {x : Dir} (hop : q.op = .wbDirty) (hdir : d.dir line = some x) (hk : x.kind = .x) (ho : x.owner = q.a) :
    d.startTxn e line q = (d.count 0x2400 4 1).finishTxn e { line := line, req := q, entry := some x, time := e.time } := by
  have h1 : (q.op == .ncWrite || q.op == .ncAtomic) = false := by rw [hop]; rfl
  have h2 : (q.op == .rdOwn || q.op == .upgrade) = false := by rw [hop]; rfl
  have h3 : (q.op == .wbDirty && decide (q.a = 16) && !(x.kind == DirKind.x && x.owner == 16)) = false := by
    rw [hk, ho]
    by_cases ha : q.a = 16 <;> simp [ha]
  have hway : d.needsWay e line q = false := by
    unfold Dev.needsWay
    rw [hdir]
    rfl
  unfold Dev.startTxn
  simp only [h1, h2, h3, hway, hdir, Bool.and_false, Bool.false_eq_true, if_false]
  rw [hop]
  rfl

/-- What the X holder's WbDirty leaves. -/
theorem Dev.finishTxn_wbDirty {t : Txn} {x : Dir} (hlost : t.lost = false) (hecc : t.req.ecc = true) (hdirty : t.dirty = none) (hop : t.req.op = .wbDirty)
    (hentry : t.entry = some x) (hk : x.kind = .x) (ho : x.owner = t.req.a) (hmask : t.req.mask = 2 ^ 64 - 1) (hway : t.way = none) : d.finishTxn e t =
    (((d.putLine e t.line (mergeMask (d.bytes e (t.line * 64) 64) t.req.data (2 ^ 64 - 1)) t.req.poison).putDir e t.line none none).homeAnswer e t.line t.req
      "WbAck" 0 [] false .ok).dropTxn t.line := by
  have hr : t.req.r = t.req.a := by unfold HomeReq.r; rw [hop]; rfl
  have hfull : ((List.range 64).all fun i => bit (2 ^ 64 - 1) i) = true := by decide
  unfold Dev.finishTxn Dev.memLine
  simp only [hlost, hecc, hdirty, hop, hentry, hk, ho, hr, hmask, hway, hfull, Bool.false_eq_true, if_false, if_true, beq_self_eq_true, Bool.not_true, Bool.and_false,
    Bool.or_false]
  rfl

/-- The stores of a line written back: its bytes, its poison, and, where it was not 0, its summary byte. -/
theorem Dev.putBackDirty_spec (hh : homed line = true) (hst : d.stores = []) (bs : List Byte) (p : Bool) : ∃ st po srv f,
    (d.putLine e line bs p).putDir e line none none =
      { d with
        stores := st ++ po ++ [.write (line * 64) (fit 64 bs)], srv := srv, free := f
        ridge := { d.ridge with dir := smSet none d.ridge.dir line none } } ∧
    (st = [] ∧ smGet 0 e.mem (sumAddr line) = 0 ∨ st = [.write (sumAddr line) [0]]) ∧
    (p = false ∧ po = [.clean line] ∨ p = true ∧ po = [] ∧ e.poison.contains line = true ∨ p = true ∧ po = [.poison line]) := by
  have hl : line * 64 < 0x5E80000000 := by simpa [homed, inHbm] using hh
  -- the line and its poison
  obtain ⟨po, srv, f, hput, hpo⟩ : ∃ po srv f, d.putLine e line bs p = { d with stores := po ++ [.write (line * 64) (fit 64 bs)], srv := srv, free := f } ∧
      (p = false ∧ po = [.clean line] ∨ p = true ∧ po = [] ∧ e.poison.contains line = true ∨ p = true ∧ po = [.poison line]) := by
    have hpoke : d.poke (line * 64) (fit 64 bs) = { d with stores := [.write (line * 64) (fit 64 bs)] } := by
      unfold Dev.poke Dev.store
      rw [hst]
    unfold Dev.putLine
    cases p with
    | false =>
      refine ⟨[.clean line], d.srv, d.free, ?_, .inl ⟨rfl, rfl⟩⟩
      rw [hpoke]
      rfl
    | true =>
      have hpoked : (d.poke (line * 64) (fit 64 bs)).poisoned e line = e.poison.contains line := by
        rw [hpoke]
        rfl
      dsimp only
      unfold Dev.poisonLine
      rw [if_pos rfl, hpoked]
      split
      · next hc =>
        refine ⟨[], d.srv, d.free, ?_, .inr (.inl ⟨rfl, rfl, hc⟩)⟩
        rw [hpoke]
        rfl
      · dsimp only
        obtain ⟨c, srv, f, hc, hc'⟩ := ((d.poke (line * 64) (fit 64 bs)).store (.poison line)).count_eq 0x2400 0xB 1
        have hc2 : c = { d with stores := [.poison line, .write (line * 64) (fit 64 bs)], srv := srv, free := f } := by
          rw [hc', hpoke]
          rfl
        rw [hc]
        split
        · next n _ =>
          obtain ⟨k, srv', f', hk, hk'⟩ := c.count_eq (0x2410 + n) 4 1
          exact ⟨[.poison line], srv', f', by rw [hk, hk', hc2]; rfl, .inr (.inr ⟨rfl, rfl⟩)⟩
        · exact ⟨[.poison line], srv, f, hc2, .inr (.inr ⟨rfl, rfl⟩)⟩
  rw [hput]
  obtain ⟨st, hdir, hsum⟩ := ({ d with stores := po ++ [.write (line * 64) (fit 64 bs)], srv := srv, free := f } : Dev).putDir_none e none hh
  refine ⟨st, po, srv, f, by rw [hdir, List.append_assoc], hsum.imp (fun h => ⟨h.1, ?_⟩) id, hpo⟩
  refine Eq.trans ?_ h.2
  have hout : (fit 64 bs)[sumAddr line - line * 64]? = none := by
    rw [List.getElem?_eq_none_iff, fit_length]
    unfold sumAddr
    omega
  unfold Dev.byte
  rcases hpo with ⟨-, rfl⟩ | ⟨-, rfl, -⟩ | ⟨-, rfl⟩ <;> simp [MemOp.byteAt, hout]

/-! ### The requests -/

theorem Dev.bytes_of_stores {x d : Dev} (h : x.stores = d.stores) (e : Env) (a n : Nat) : x.bytes e a n = d.bytes e a n := by
  unfold Dev.bytes Dev.byte
  rw [h]

theorem Dev.poisoned_of_stores {x d : Dev} (h : x.stores = d.stores) (e : Env) (l : Nat) : x.poisoned e l = d.poisoned e l := by
  unfold Dev.poisoned
  rw [h]

/-- A read of a line that nobody holds is answered with the bytes of memory. -/
theorem Dev.Unheld.reads (h : d.Unheld e line) (hop : q.op = .ncRead) (hecc : q.ecc = true) : d.startTxn e line q =
    ((d.count 0x2400 5 1).homeAnswer e line q "Data" 0 (d.bytes e (line * 64) 64) (d.poisoned e line) .ok).dropTxn line := by
  rw [h.startTxn (way := none) (by rw [hop]; decide) (.inr hop) (by rw [hop]; rfl),
    Dev.finishTxn_ncRead (t := { line := line, req := q, way := none, time := e.time }) ⟨rfl, hecc, rfl, rfl, rfl, rfl⟩ hop,
    Dev.bytes_of_stores (d.count_stores 0x2400 5 1), Dev.poisoned_of_stores (d.count_stores 0x2400 5 1)]

/-- A write of a line that nobody holds changes the bytes of its mask. -/
theorem Dev.Unheld.writes (h : d.Unheld e line) (hop : q.op = .ncWrite) (hecc : q.ecc = true) (hfrozen : d.frozenFor line q = false) : ∃ p, d.startTxn e line q =
    (((d.count 0x2400 5 1).written line (mergeMask (d.bytes e (line * 64) 64) q.data q.mask) p).homeAnswer e line q "Cmp" 0 [] false .ok).dropTxn line := by
  obtain ⟨c, hc⟩ : ∃ c, d.count 0x2400 5 1 = c := ⟨_, rfl⟩
  have hst : c.stores = d.stores := by rw [← hc]; exact d.count_stores 0x2400 5 1
  have hsum : c.byte e (sumAddr line) = 0 := by
    unfold Dev.byte
    rw [hst]
    exact h.sum
  obtain ⟨p, hp⟩ := Dev.finishTxn_ncWrite (d := c) (e := e) (t := { line := line, req := q, way := none, time := e.time }) ⟨rfl, hecc, rfl, rfl, rfl, rfl⟩ hop rfl
    h.homed hsum
  refine ⟨p, ?_⟩
  rw [h.startTxn (way := none) (by rw [hop]; decide) (.inl hfrozen) (by rw [hop]; rfl), hc, hp, Dev.bytes_of_stores hst]

/-- A caching agent that reads a line that nobody holds is granted it alone. -/
theorem Dev.Unheld.grants (h : d.Unheld e line) (hop : q.op = .rdShared ∨ q.op = .rdOwn ∨ q.op = .upgrade) (hq : q.Plain) (hecc : q.ecc = true)
    (hfrozen : d.frozenFor line q = false) {w : Nat} (hv : d.dirVictim line 0xFF = some (w, none)) {o : Out}
    (ho : ∀ x : Dev, x.link = d.link → x.toAgent q.a "Data" line q.tn 2 (d.bytes e (line * 64) 64) (d.poisoned e line) = x.send o) :
    ∃ y st srv f, d.homeReq e line q =
      ({ d with
          srv := srv
          free := f
          ridge := { d.ridge with
            stamp := st
            dir := smSet none d.ridge.dir line (some y)
            txns := [{ line := line, req := { q with time := e.time }, way := some w, time := e.time, granted := true }] } } : Dev).send o ∧
      y.kind = .x ∧ y.owner = q.a ∧ y.way = w := by
  obtain ⟨c, srv, f, hc, hc'⟩ := d.count_eq 0x2400 5 1
  have hcop : q.op.caching = true := by rcases hop with hop | hop | hop <;> rw [hop] <;> rfl
  have hst : c.stores = d.stores := by rw [← hc]; exact d.count_stores 0x2400 5 1
  have hfin := Dev.finishTxn_caching (d := c) (e := e) (t := { line := line, req := { q with time := e.time }, way := some w, time := e.time })
    ⟨rfl, hecc, rfl, rfl, rfl, rfl⟩ hop (by rw [hc']; exact h.arrays) (by
      refine Eq.trans (Dev.frozenFor_congr (by rw [hc']) (fun m j hm hj => ?_) line { q with time := e.time }) hfrozen
      rw [← hc]
      exact d.count_od_other 1 hj (by decide) (by rw [ne_eq, Prod.mk.injEq]; omega))
  obtain ⟨y, st, hg, hk, howner, hway⟩ := Dev.grants_x c e { line := line, req := { q with time := e.time }, way := some w, time := e.time } 2
    (c.bytes e (line * 64) 64) (c.poisoned e line) (o := o) ⟨hq.who, hq.self, hq.tn⟩ hcop (.inr rfl) fun r => by
      rw [Dev.bytes_of_stores hst, Dev.poisoned_of_stores hst]
      exact ho _ (by rw [hc']; rfl)
  have hstart : d.startTxn e line { q with time := e.time } = _ :=
    (h.startTxn (q := { q with time := e.time }) (way := some w) (by rcases hop with hop | hop | hop <;> simp [hop]) (.inl hfrozen)
      (by rw [if_pos hcop]; exact ⟨w, hv, rfl⟩)).trans ((congrArg (fun c : Dev => c.finishTxn e _) hc).trans (hfin.trans hg))
  refine ⟨y, st, srv, f, ?_, hk, howner, (Option.some.inj (hway (by rw [hc']; exact h.dir))).symm⟩
  refine (h.toIdle.homeReq (q := q) (fun _ => by rw [hv]; rfl) hstart (by rw [hc']; exact h.waiting)).trans ?_
  rw [hc']
  show Dev.send { d with srv := srv, free := f, ridge := { d.ridge with stamp := st, dir := _, txns := _ :: d.ridge.txns.filter _ } } o = _
  rw [h.txns]
  rfl

end

/-! ### Requests of clusters, of islands and of the host -/

section
variable {s : State} {line : Nat}

theorem Dev.Unheld.rowed {d : Dev} {e : Env} (h : d.Unheld e line) (a : Nat) : (d.rowed a).Unheld e line :=
  ⟨⟨h.homed, h.active, h.txns, h.waiting, h.arrays, h.calm⟩, h.fresh, h.dir, h.sum, h.whole⟩

/-- A line's 64 bytes and its poison, as an agent that reads it gets them. -/
theorem State.line_env (hs : s.rests = true) (line : Nat) : s.dev.bytes s.env (line * 64) 64 = ((List.range 64).map fun i => s.byte (line * 64 + i)) ∧
    s.dev.poisoned s.env line = s.poison.contains line := by
  refine ⟨s.bytes_env (s.rests_stores hs) _ _, ?_⟩
  unfold Dev.poisoned
  rw [s.rests_stores hs]
  rfl

theorem agentReq_cluster {d : Dev} {e : Env} {a : Nat} {q : HomeReq} (hh : homed line = true) (ha : a < 16) (hq : q.a = a) :
    d.agentReq e a line q = (d.rowed a).homeReq e line q := by
  unfold Dev.agentReq
  rw [if_neg (by simp [hh, Dev.agentHere, ha]), if_pos ha, ← hq]

theorem Dev.lineBusy_one {d : Dev} {t : Txn} (h : d.ridge.txns = [t]) (hl : t.line = line) : d.lineBusy line = true := by
  unfold Dev.lineBusy
  rw [h]
  simp [hl]

/-- A caching agent's read of a line that nobody holds: what goes out, and what the directory says of the line. -/
theorem grants_leaves {d : Dev} {f : Env → Dev → Dev} {q : HomeReq} {w : Nat} {o : Out} (hf : s.homeFree line = true) (hd : ∃ l, d = s.dev.setRidge { s.dev.ridge with rowed := l })
    (hgo : f s.env s.dev = d.homeReq s.env line q) (hop : q.op = .rdShared ∨ q.op = .rdOwn ∨ q.op = .upgrade) (hq : q.Plain) (hecc : q.ecc = true)
    (hv : s.dev.dirVictim line 0xFF = some (w, none)) (hth : s.thawed line = true)
    (ho : ∀ x : Dev, x.link = s.dev.link →
      x.toAgent q.a "Data" line q.tn 2 ((List.range 64).map fun i => s.byte (line * 64 + i)) (s.poison.contains line) = x.send o) :
    ∃ t, s.go f = .next t ∧ t.dev.out = s.dev.out ++ [o] ∧ (∃ x, t.dev.dir line = some x ∧ x.kind = .x ∧ x.owner = q.a ∧ x.way = w) ∧
      (∀ l, l ≠ line → t.dev.dir l = s.dev.dir l) ∧ t.dev.lineBusy line = true ∧ t.mem = s.mem ∧ t.poison = s.poison := by
  obtain ⟨hs, hun⟩ := State.homeFree_iff hf
  obtain ⟨l, rfl⟩ := hd
  have hun' : (s.dev.setRidge { s.dev.ridge with rowed := l }).Unheld s.env line :=
    ⟨⟨hun.homed, hun.active, hun.txns, hun.waiting, hun.arrays, hun.calm⟩, hun.fresh, hun.dir, hun.sum, hun.whole⟩
  obtain ⟨hb, hp⟩ := State.line_env hs line
  obtain ⟨y, st, srv, fr, hreq, hk, hown, hway⟩ := hun'.grants hop hq hecc (State.frozenFor_thawed (s := s) hth q) hv (o := o) fun x hx => by
    rw [show (s.dev.setRidge { s.dev.ridge with rowed := l }).bytes s.env (line * 64) 64 = _ from hb,
      show (s.dev.setRidge { s.dev.ridge with rowed := l }).poisoned s.env line = _ from hp]
    exact ho x hx
  refine ⟨_, s.go_to f _ hs (hgo.trans hreq) (s.rests_quiet hs) (s.rests_stores hs), rfl, ⟨y, ?_, hk, hown, hway⟩, fun k hk => ?_, Dev.lineBusy_one rfl rfl, rfl, rfl⟩
  · show smGet none (smSet none s.dev.ridge.dir line (some y)) line = some y
    exact smGet_set_same ..
  · show smGet none (smSet none s.dev.ridge.dir line (some y)) k = smGet none s.dev.ridge.dir k
    exact smGet_set_other (none : Option Dir) _ _ _ _ hk

theorem cluster_reads {c : Instr} {a : Fin 33} {tn w : Nat} (hc : c = .rdShared a line true tn ∨ c = .rdOwn a line true tn ∨ c = .upgrade a line true tn)
    (hf : s.homeFree line = true) (ha : a.val < 16) (htn : tn ≠ goneTn) (hv : s.dev.dirVictim line 0xFF = some (w, none)) (hth : s.thawed line = true) :
    ∃ t, exec c s = .next t ∧
      t.dev.out = s.dev.out ++ [.ridge ("Data" ++ poisonName (s.poison.contains line)) (lineIsl line) a line tn 2 ((List.range 64).map fun i => s.byte (line * 64 + i))] ∧
      (∃ x, t.dev.dir line = some x ∧ x.kind = .x ∧ x.owner = a.val ∧ x.way = w) ∧ (∀ l, l ≠ line → t.dev.dir l = s.dev.dir l) ∧
      t.dev.lineBusy line = true ∧ t.mem = s.mem ∧ t.poison = s.poison := by
  have hh := (State.homeFree_iff hf).2.homed
  have key (op : RReq) (hop : op = .rdShared ∨ op = .rdOwn ∨ op = .upgrade) :=
    grants_leaves (f := fun e d => d.agentReq e a line { op := op, a := a, tn := tn, ecc := true }) (q := { op := op, a := a, tn := tn, ecc := true }) hf ⟨_, rfl⟩
      (agentReq_cluster hh ha rfl) hop ⟨rfl, rfl, htn⟩ rfl hv hth fun x _ => Dev.toAgent_cluster x ha ..
  rcases hc with rfl | rfl | rfl
  · exact key .rdShared (.inl rfl)
  · exact key .rdOwn (.inr (.inl rfl))
  · exact key .upgrade (.inr (.inr rfl))

/-- What goes to the host while its link is up. -/
theorem Dev.toAgent_host {d : Dev} (hup : d.link.st = .up) (kind : String) (line tn st : Nat) (data : List Byte) (p : Bool) :
    d.toAgent 16 kind line tn st data p = d.send (.cxl (kind ++ grantName st ++ poisonName p) line tn data) :=
  d.hostSend_up _ hup rfl

theorem hdmLine_decodes {d : Dev} {k off l : Nat} (h : d.hdmLine k off = some l) : bit d.link.cxl 2 = true := by
  unfold Dev.hdmLine at h
  split at h
  · exact absurd h nofun
  · dsimp only at h
    split at h
    · next hb =>
      simp only [Bool.and_eq_true] at hb
      exact hb.1.1
    · exact absurd h nofun

theorem Dev.hdmRead_line {d : Dev} {k off l : Nat} (h : d.hdmLine k off = some l) (hlive : (d.bay k).st.live = true) (e : Env) (tag : Nat) (op : RReq) :
    d.hdmRead e k off tag op = d.homeReq e l { op := op, a := if op.caching then 16 else 326, tn := tag, mask := 2 ^ 64 - 1, bay := some k } := by
  unfold Dev.hdmRead
  rw [hdmLine_decodes h, hlive, h]
  rfl

theorem host_grants {c : Instr} {k : Fin 16} {off tag l w : Nat} (hc : c = .memRd k off 0 tag ∨ c = .memRd k off 1 tag ∨ c = .memRdData k off tag)
    (hf : s.homeFree l = true) (hl : s.dev.hdmLine k off = some l) (hlive : (s.dev.bay k).st.live = true) (hup : s.dev.link.st = .up) (htn : tag ≠ goneTn)
    (hv : s.dev.dirVictim l 0xFF = some (w, none)) (hth : s.thawed l = true) :
    ∃ t, exec c s = .next t ∧
      t.dev.out = s.dev.out ++ [.cxl ("Data" ++ grantName 2 ++ poisonName (s.poison.contains l)) l tag ((List.range 64).map fun i => s.byte (l * 64 + i))] ∧
      (∃ x, t.dev.dir l = some x ∧ x.kind = .x ∧ x.owner = 16) ∧ t.mem = s.mem := by
  have key (op : RReq) (hop : op = .rdShared ∨ op = .rdOwn ∨ op = .upgrade) (hcop : op.caching = true) :
      ∃ t, (s.go fun e d => d.hdmRead e k off tag op) = .next t ∧
        t.dev.out = s.dev.out ++ [.cxl ("Data" ++ grantName 2 ++ poisonName (s.poison.contains l)) l tag ((List.range 64).map fun i => s.byte (l * 64 + i))] ∧
        (∃ x, t.dev.dir l = some x ∧ x.kind = .x ∧ x.owner = 16) ∧ t.mem = s.mem := by
    obtain ⟨t, ht, hout, ⟨x, hx, hk, ho, -⟩, -, -, hm, -⟩ :=
      grants_leaves (f := fun e d => d.hdmRead e k off tag op) (q := { op := op, a := 16, tn := tag, mask := 2 ^ 64 - 1, bay := some k.val }) hf ⟨s.dev.ridge.rowed, rfl⟩
        ((Dev.hdmRead_line hl hlive s.env tag op).trans (by rw [if_pos hcop]; rfl)) hop ⟨rfl, rfl, htn⟩ rfl hv hth
        fun x hx => Dev.toAgent_host (by rw [hx]; exact hup) ..
    exact ⟨t, ht, hout, ⟨x, hx, hk, ho⟩, hm⟩
  rcases hc with rfl | rfl | rfl
  · exact key .rdOwn (.inr (.inl rfl)) rfl
  · exact key .rdShared (.inl rfl) rfl
  · exact key .rdShared (.inl rfl) rfl

/-- A non-caching read of a line that nobody holds. -/
theorem reads_leaves {f : Env → Dev → Dev} {q : HomeReq} {o : Out} (hf : s.homeFree line = true) (hgo : f s.env s.dev = s.dev.homeReq s.env line q) (hop : q.op = .ncRead)
    (hecc : q.ecc = true)
    (ho : ∀ x : Dev, x.link = s.dev.link →
      x.homeAnswer s.env line { q with time := s.time } "Data" 0 ((List.range 64).map fun i => s.byte (line * 64 + i)) (s.poison.contains line) .ok = x.send o) :
    ∃ t, s.go f = .next t ∧ t.dev.out = s.dev.out ++ [o] ∧ (∀ l, t.dev.dir l = s.dev.dir l) ∧ t.dev.ridge.txns = [] ∧ t.mem = s.mem ∧ t.poison = s.poison := by
  obtain ⟨hs, hun⟩ := State.homeFree_iff hf
  obtain ⟨hb, hp⟩ := State.line_env hs line
  obtain ⟨c, srv, fr, hc, hc'⟩ := s.dev.count_eq 0x2400 5 1
  have hstart : s.dev.startTxn s.env line { q with time := s.time } = (c.send o).dropTxn line := by
    rw [hun.reads (q := { q with time := s.time }) hop hecc, hc, hb, hp, ho c (by rw [hc'])]
  have hreq := hun.toIdle.homeReq (q := q) (fun h => absurd h (by rw [hun.needsWay (by rw [hop]; rfl)]; decide)) hstart (by rw [hc']; exact hun.waiting)
  refine ⟨_, s.go_to f _ hs (hgo.trans hreq) ?_ ?_, ?_, fun l => ?_, ?_, rfl, rfl⟩
  · rw [hc']; exact s.rests_quiet hs
  · rw [hc']; exact s.rests_stores hs
  · rw [hc']; rfl
  · rw [hc']; rfl
  · rw [hc']
    show s.dev.ridge.txns.filter _ = []
    rw [hun.txns]
    rfl

theorem Dev.homeAnswer_host {d : Dev} (hup : d.link.st = .up) (e : Env) (line : Nat) {q : HomeReq} (hq : q.Plain) (hop : q.op.caching = false) (ha : q.a = 326)
    (kind : String) (st : Nat) (data : List Byte) (p : Bool) (x : Status) :
    d.homeAnswer e line q kind st data p x = d.send (.cxl (kind ++ grantName st ++ poisonName p) line q.tn data) := by
  rw [← Dev.toAgent_host hup]
  unfold Dev.homeAnswer
  rw [hq.self, hq.who, hop]
  dsimp only
  rw [if_neg (by decide), if_neg hq.tn, if_neg (by decide), if_pos ha]

theorem islReq_own {d : Dev} {e : Env} {q : HomeReq} (hh : homed line = true) (ha : ¬ (332 ≤ q.a ∧ q.a < 344)) : d.islReq e line q = d.homeReq e line q := by
  unfold Dev.islReq
  rw [if_neg (by simp [hh]), if_neg (by simpa using ha)]

/-! ### Writes -/

/-- The bytes that a write of a line leaves. -/
theorem State.byte_written {d : Dev} {bs : List Byte} {p : Bool} (hst : d.stores = (if p then [] else [.clean line]) ++ [.write (line * 64) bs]) (hlen : bs.length = 64)
    (a : Nat) : (s.commit d).byte a = if line * 64 ≤ a ∧ a < line * 64 + 64 then (bs[a - line * 64]?).getD 0 else s.byte a := by
  have hw : (s.commit d).byte a = smGet 0 ((MemOp.write (line * 64) bs).onMem s.mem) a := by
    rw [State.byte_commit, hst]
    cases p <;> rfl
  rw [hw, MemOp.write_byte, hlen]
  rfl

theorem mergeMask_get (old new : List Byte) (mask : Nat) {i : Nat} (hi : i < 64) :
    ((mergeMask old new mask)[i]?).getD 0 = if bit mask i then (new[i]?).getD 0 else (old[i]?).getD 0 := by
  unfold mergeMask
  rw [List.getElem?_map, List.getElem?_range hi]
  rfl

theorem State.bytes_get (s : State) (line : Nat) {i : Nat} (hi : i < 64) : ((((List.range 64).map fun i => s.byte (line * 64 + i)))[i]?).getD 0 = s.byte (line * 64 + i) := by
  rw [List.getElem?_map, List.getElem?_range hi]
  rfl

/-- What a home has done that has written a line for a requester and answered it. -/
theorem wrote_leaves {f : Env → Dev → Dev} {q : HomeReq} {o : Out} {bs : List Byte} {p : Bool} {c : Dev} {srv : Server} {fr : Nat} (hf : s.homeFree line = true)
    (hgo : f s.env s.dev = s.dev.homeReq s.env line q) (hop : q.op.caching = false) (hc : c = { s.dev with srv := srv, free := fr }) (hlen : bs.length = 64)
    (hstart : s.dev.startTxn s.env line { q with time := s.time } = ((c.written line bs p).send o).dropTxn line) :
    ∃ t, s.go f = .next t ∧ t.dev.out = s.dev.out ++ [o] ∧
      (∀ a, t.byte a = if line * 64 ≤ a ∧ a < line * 64 + 64 then (bs[a - line * 64]?).getD 0 else s.byte a) ∧ (∀ l, t.dev.dir l = s.dev.dir l) ∧
      t.dev.ridge.txns = [] := by
  obtain ⟨hs, hun⟩ := State.homeFree_iff hf
  have hreq := hun.toIdle.homeReq (q := q) (fun h => absurd h (by rw [hun.needsWay hop]; decide)) hstart (by rw [hc]; exact hun.waiting)
  refine ⟨_, s.go_done f _ hs (hgo.trans hreq) ?_, ?_, State.byte_written (p := p) ?_ hlen, fun l => ?_, ?_⟩
  · rw [hc]; exact s.rests_quiet hs
  · rw [hc]; rfl
  · rw [hc]
    show (if p then [] else [MemOp.clean line]) ++ .write (line * 64) bs :: s.dev.stores = _
    rw [s.rests_stores hs]
  · rw [hc]
    show smGet none (smSet none s.dev.ridge.dir line none) l = smGet none s.dev.ridge.dir l
    rw [smGet_set (none : Option Dir)]
    split
    · next hl => rw [hl]; exact hun.dir.symm
    · rfl
  · rw [hc]
    show s.dev.ridge.txns.filter _ = []
    rw [hun.txns]
    rfl

/-- A non-caching write of a line that nobody holds. -/
theorem writes_leaves {f : Env → Dev → Dev} {q : HomeReq} {o : Out} (hf : s.homeFree line = true) (hgo : f s.env s.dev = s.dev.homeReq s.env line q) (hop : q.op = .ncWrite)
    (hecc : q.ecc = true) (hth : s.thawed line = true)
    (ho : ∀ x : Dev, x.link = s.dev.link → x.homeAnswer s.env line { q with time := s.time } "Cmp" 0 [] false .ok = x.send o) :
    ∃ t, s.go f = .next t ∧ t.dev.out = s.dev.out ++ [o] ∧
      (∀ a, t.byte a = if line * 64 ≤ a ∧ a < line * 64 + 64 ∧ bit q.mask (a - line * 64) = true then (q.data[a - line * 64]?).getD 0 else s.byte a) ∧
      (∀ l, t.dev.dir l = s.dev.dir l) ∧ t.dev.ridge.txns = [] := by
  obtain ⟨hs, hun⟩ := State.homeFree_iff hf
  obtain ⟨c, srv, fr, hc, hc'⟩ := s.dev.count_eq 0x2400 5 1
  obtain ⟨p, hstart⟩ := hun.writes (q := { q with time := s.time }) hop hecc (State.frozenFor_thawed hth _)
  rw [hc, ho (c.written line _ p) (by rw [hc']; rfl), (State.line_env hs line).1] at hstart
  obtain ⟨t, ht, hout, hbyte, hdir, htx⟩ := wrote_leaves (p := p) hf hgo (by rw [hop]; rfl) hc' (mergeMask_length _ _ _) hstart
  refine ⟨t, ht, hout, fun a => ?_, hdir, htx⟩
  rw [hbyte]
  by_cases ha : line * 64 ≤ a ∧ a < line * 64 + 64
  · have hi : a - line * 64 < 64 := by omega
    rw [if_pos ha, mergeMask_get _ _ _ hi, s.bytes_get line hi, show line * 64 + (a - line * 64) = a by omega]
    simp [ha]
  · rw [if_neg ha, if_neg fun h => ha ⟨h.1, h.2.1⟩]

theorem Dev.hdmWrite_line {d : Dev} {k off l : Nat} (h : d.hdmLine k off = some l) (hlive : (d.bay k).st.live = true) (harr : d.arrays = []) (e : Env) (mv mask : Nat)
    (data : List Byte) (tag : Nat) : d.hdmWrite e k off mv mask data tag =
      d.homeReq e l (if mv = 2 then { op := .wbDirty, a := 16, tn := tag, mask := mask, data := fit 64 data }
        else { op := .ncWrite, a := 326, tn := tag, mask := mask, data := fit 64 data }) := by
  unfold Dev.hdmWrite
  rw [hdmLine_decodes h, hlive, h]
  dsimp only
  rw [Dev.shadowed_none harr, if_neg (by decide), if_neg (by decide), if_neg (by decide)]
  split <;> rfl

theorem host_writes {c : Instr} {k : Fin 16} {off tag l : Nat} {mv : Fin 3} {mask : W64} {data : List Byte}
    (hc : c = .memWrPtl k off mv mask data tag ∨ (c = .memWr k off mv data tag ∧ mask = BitVec.allOnes 64)) (hmv : mv ≠ 2) (hf : s.homeFree l = true)
    (hl : s.dev.hdmLine k off = some l) (hlive : (s.dev.bay k).st.live = true) (hup : s.dev.link.st = .up) (htn : tag ≠ goneTn) (hth : s.thawed l = true) :
    ∃ t, exec c s = .next t ∧ t.dev.out = s.dev.out ++ [.cxl ("Cmp" ++ grantName 0 ++ poisonName false) l tag []] ∧
      (∀ a, t.byte a = if l * 64 ≤ a ∧ a < l * 64 + 64 ∧ bit mask.toNat (a - l * 64) = true then ((fit 64 data)[a - l * 64]?).getD 0 else s.byte a) ∧
      (∀ l, t.dev.dir l = s.dev.dir l) := by
  have hexec : exec c s = s.go fun e d => d.hdmWrite e k off mv mask.toNat data tag := by
    rcases hc with rfl | ⟨rfl, rfl⟩
    · rfl
    · rw [show (BitVec.allOnes 64).toNat = 2 ^ 64 - 1 from by decide]
      rfl
  have hmv' : mv.val ≠ 2 := fun h => hmv (Fin.ext h)
  obtain ⟨t, ht, hout, hbyte, hdir, -⟩ := writes_leaves (f := fun e d => d.hdmWrite e k off mv mask.toNat data tag)
    (q := { op := .ncWrite, a := 326, tn := tag, mask := mask.toNat, data := fit 64 data }) hf
    ((Dev.hdmWrite_line hl hlive (State.homeFree_iff hf).2.arrays s.env mv mask.toNat data tag).trans (by rw [if_neg hmv'])) rfl rfl hth
    fun x hx => Dev.homeAnswer_host (by rw [hx]; exact hup) s.env l ⟨rfl, rfl, htn⟩ rfl rfl ..
  exact ⟨t, hexec.trans ht, hout, hbyte, hdir⟩

/-! ### Atomic operations -/

theorem patch_length {bs x : List Byte} {off n : Nat} (hbs : bs.length = n) (h : off + x.length ≤ n) : (patch bs off x).length = n := by
  unfold patch
  rw [List.length_append, List.length_append, List.length_take, List.length_drop]
  omega

theorem patch_get {bs x : List Byte} {off : Nat} (hoff : off ≤ bs.length) (i : Nat) :
    (patch bs off x)[i]? = if off ≤ i ∧ i < off + x.length then x[i - off]? else bs[i]? := by
  have htake : (bs.take off).length = off := by rw [List.length_take]; omega
  unfold patch
  rcases Nat.lt_or_ge i off with h | h
  · rw [List.append_assoc, List.getElem?_append_left (by omega), List.getElem?_take_of_lt h, if_neg (by omega)]
  rcases Nat.lt_or_ge i (off + x.length) with h' | h'
  · rw [List.append_assoc, List.getElem?_append_right (by omega), List.getElem?_append_left (by omega), htake, if_pos ⟨h, h'⟩]
  · rw [List.getElem?_append_right (by rw [List.length_append]; omega), List.getElem?_drop, List.length_append, htake, if_neg (by omega)]
    congr 1
    omega

theorem map_range_slice (g : Nat → Byte) (base : Nat) {off size : Nat} (h : off + size ≤ 64) :
    (((List.range 64).map fun i => g (base + i)).drop off).take size = (List.range size).map fun i => g (base + off + i) := by
  refine List.ext_getElem? fun i => ?_
  rcases Nat.lt_or_ge i size with hi | hi
  · rw [List.getElem?_take_of_lt hi, List.getElem?_drop, List.getElem?_map, List.getElem?_map, List.getElem?_range (show off + i < 64 by omega), List.getElem?_range hi,
      Option.map_some, Option.map_some, Nat.add_assoc]
  · rw [List.getElem?_eq_none_iff.mpr (by rw [List.length_take]; omega), List.getElem?_eq_none_iff.mpr (by rw [List.length_map, List.length_range]; omega)]

theorem atomicBad_fits {d : Dev} {line op off size : Nat} {ret : Bool} (h : d.atomicBad line op off size ret = none) : off + size ≤ 64 := by
  unfold Dev.atomicBad at h
  split at h
  · exact absurd h nofun
  · next hn =>
    simp only [Bool.or_eq_true, decide_eq_true_eq, not_or] at hn
    omega

/-- An atomic operation on a whole line that nobody holds. -/
theorem Dev.Unheld.atomics {d : Dev} {e : Env} {q : HomeReq} (h : d.Unheld e line) (hop : q.op = .ncAtomic) (hecc : q.ecc = true) (hfrozen : d.frozenFor line q = false)
    (hpoison : d.poisoned e line = false) {bs new : List Byte} (hbs : d.bytes e (line * 64) 64 = bs)
    (hnew : patch bs q.off (leBytes q.size (atomicResult q.aop q.size (fld bs q.off q.size) q.operand q.compare)) = new) (hlen : new.length = 64) :
    d.startTxn e line q = (if q.returning then ((d.count 0x2400 5 1).written line new false).homeAnswer e line q "Data" 0 (leBytes q.size (fld bs q.off q.size)) false .ok
      else ((d.count 0x2400 5 1).written line new false).homeAnswer e line q "Cmp" 0 [] false .ok).dropTxn line := by
  obtain ⟨c, hc⟩ : ∃ c, d.count 0x2400 5 1 = c := ⟨_, rfl⟩
  have hst : c.stores = d.stores := by rw [← hc]; exact d.count_stores 0x2400 5 1
  rw [h.startTxn (way := none) (by rw [hop]; decide) (.inl hfrozen) (by rw [hop]; rfl), hc]
  exact Dev.finishTxn_ncAtomic (d := c) (e := e) (t := { line := line, req := q, way := none, time := e.time }) ⟨rfl, hecc, rfl, rfl, rfl, rfl⟩ hop rfl
    h.homed (by unfold Dev.byte; rw [hst]; exact h.sum) ((Dev.poisoned_of_stores hst _ _).trans hpoison) ((Dev.bytes_of_stores hst _ _ _).trans hbs) hnew hlen

/-- A non-caching agent's request for an atomic operation. -/
def atomicReq (isl tn op off size operand compare : Nat) (ret : Bool) (time : Nat) : HomeReq :=
  { op := .ncAtomic, a := isl, tn := tn, aop := op, off := off, size := size, operand := operand, compare := compare, returning := ret, time := time }

theorem ncAtomic_leaves {isl : Fin 350} {tn off size operand compare : Nat} {op : Fin 10} {ret : Bool} (hf : s.homeFree line = true) (h1 : isl.val < 348) (h2 : isl.val ≠ 326)
    (h3 : ¬ (332 ≤ isl.val ∧ isl.val < 344)) (htn : tn ≠ goneTn) (hbad : s.dev.atomicBad line op off size ret = none) (hpo : s.poison.contains line = false)
    (hth : s.thawed line = true) {old : Nat} (hold : old = leNat ((List.range size).map fun i => s.byte (line * 64 + off + i))) :
    ∃ t, exec (.ncAtomic isl line tn op off size operand compare ret true) s = .next t ∧
      t.dev.out = s.dev.out ++ [if ret then .ridge ("Data" ++ poisonName false) (lineIsl line) isl line tn 0 (leBytes size old)
                                else .ridge ("Cmp" ++ poisonName false) (lineIsl line) isl line tn 0 []] ∧
      (∀ a, t.byte a = if line * 64 + off ≤ a ∧ a < line * 64 + off + size then
        ((leBytes size (atomicResult op size old operand compare))[a - (line * 64 + off)]?).getD 0 else s.byte a) ∧
      (∀ l, t.dev.dir l = s.dev.dir l) ∧ t.dev.ridge.txns = [] := by
  obtain ⟨hs, hun⟩ := State.homeFree_iff hf
  obtain ⟨hb, hp⟩ := State.line_env hs line
  have hfit := atomicBad_fits hbad
  obtain ⟨c, srv, fr, hc, hc'⟩ := s.dev.count_eq 0x2400 5 1
  obtain ⟨bs, hbs⟩ : ∃ bs, ((List.range 64).map fun i => s.byte (line * 64 + i)) = bs := ⟨_, rfl⟩
  have hlen : bs.length = 64 := by rw [← hbs]; simp
  have hfld : fld bs off size = old := by rw [hold, ← map_range_slice s.byte (line * 64) hfit, hbs]; rfl
  obtain ⟨new, hnew⟩ : ∃ new, patch bs off (leBytes size (atomicResult op size old operand compare)) = new := ⟨_, rfl⟩
  have hnlen : new.length = 64 := by rw [← hnew]; exact patch_length hlen (by rw [leBytes_length]; exact hfit)
  have hstart : s.dev.startTxn s.env line (atomicReq isl tn op off size operand compare ret s.time) = ((c.written line new false).send
      (if ret then .ridge ("Data" ++ poisonName false) (lineIsl line) isl line tn 0 (leBytes size old)
       else .ridge ("Cmp" ++ poisonName false) (lineIsl line) isl line tn 0 [])).dropTxn line := by
    have hans := fun kind data => Dev.homeAnswer_island (c.written line new false) s.env line (q := atomicReq isl tn op off size operand compare ret s.time)
      ⟨rfl, rfl, htn⟩ rfl h1 h2 kind 0 data false .ok
    rw [hun.atomics (q := atomicReq isl tn op off size operand compare ret s.time) rfl rfl (State.frozenFor_thawed hth _) (hp.trans hpo) (hb.trans hbs)
      (show patch bs off (leBytes size (atomicResult op size (fld bs off size) operand compare)) = new by rw [hfld]; exact hnew) hnlen, hc, hans, hans]
    show Dev.dropTxn (if ret then (c.written line new false).send (.ridge _ _ isl line tn 0 (leBytes size (fld bs off size))) else _) line = _
    rw [hfld]
    cases ret <;> rfl
  obtain ⟨t, ht, hout, hbyte, hdir, htx⟩ := wrote_leaves (q := atomicReq isl tn op off size operand compare ret 0) (f := fun e d => if !(homed line) then d else
      match d.atomicBad line op off size ret with
      | some st => d.homeAnswer e line (atomicReq isl tn op off size operand compare ret 0) "Cmp" st.code [] false st
      | none => d.islReq e line (atomicReq isl tn op off size operand compare ret 0)) hf
    (by
      rw [hun.homed, hbad]
      exact islReq_own hun.homed h3) rfl hc' hnlen hstart
  refine ⟨t, ht, hout, fun a => ?_, hdir, htx⟩
  rw [hbyte, ← hnew]
  by_cases ha : line * 64 ≤ a ∧ a < line * 64 + 64
  · have hi : a - line * 64 < 64 := by omega
    rw [if_pos ha, patch_get (by omega), leBytes_length]
    by_cases hin : line * 64 + off ≤ a ∧ a < line * 64 + off + size
    · rw [if_pos (by omega), if_pos hin, Nat.sub_sub]
    · rw [if_neg (by omega), if_neg hin, ← hbs, s.bytes_get line hi, show line * 64 + (a - line * 64) = a by omega]
  · rw [if_neg ha, if_neg (by omega)]

/-! ### Write-backs -/

theorem fit_get {n : Nat} {bs : List Byte} {i : Nat} (hi : i < n) : ((fit n bs)[i]?).getD 0 = (bs[i]?).getD 0 := by
  unfold fit zeros
  rw [List.getElem?_take_of_lt hi]
  rcases Nat.lt_or_ge i bs.length with h | h
  · rw [List.getElem?_append_left h]
  · rw [List.getElem?_append_right h, List.getElem?_replicate, if_pos (by omega), List.getElem?_eq_none_iff.mpr h]
    rfl

theorem bit_allOnes {i : Nat} (hi : i < 64) : bit (2 ^ 64 - 1) i = true :=
  List.all_eq_true.mp (by decide : ((List.range 64).all fun i => bit (2 ^ 64 - 1) i) = true) i (List.mem_range.mpr hi)

/-- The X holder writes its line back: the home holds its bytes and its poison, and no entry of it. -/
theorem writesBack_leaves {f : Env → Dev → Dev} {q : HomeReq} {o : Out} {x : Dir} {l : List Nat} (hs : s.rests = true) (hh : homed line = true)
    (hact : (s.dev.island (272 + sliceOf line)).st = .active) (htx : s.dev.ridge.txns = []) (hw : s.dev.ridge.waiting = []) (harr : s.dev.arrays = [])
    (hdir : s.dev.dir line = some x) (hk : x.kind = .x) (hown : x.owner = q.a) (hop : q.op = .wbDirty) (hecc : q.ecc = true) (hmask : q.mask = 2 ^ 64 - 1)
    (hgo : f s.env s.dev = (s.dev.setRidge { s.dev.ridge with rowed := l }).homeReq s.env line q)
    (ho : ∀ y : Dev, y.link = s.dev.link → y.homeAnswer s.env line { q with time := s.time } "WbAck" 0 [] false .ok = y.send o) :
    ∃ t, s.go f = .next t ∧ t.dev.out = s.dev.out ++ [o] ∧ t.dev.dir line = none ∧ (∀ l, l ≠ line → t.dev.dir l = s.dev.dir l) ∧ t.poison.contains line = q.poison ∧
      (∀ b, t.byte b = if line * 64 ≤ b ∧ b < line * 64 + 64 then (q.data[b - line * 64]?).getD 0 else if b = sumAddr line then 0 else s.byte b) := by
  obtain ⟨c, srv, fr, hc, hc'⟩ := (s.dev.setRidge { s.dev.ridge with rowed := l }).count_eq 0x2400 4 1
  obtain ⟨bs, hbs⟩ : ∃ bs, mergeMask (c.bytes s.env (line * 64) 64) q.data (2 ^ 64 - 1) = bs := ⟨_, rfl⟩
  have hlen : bs.length = 64 := by rw [← hbs]; exact mergeMask_length _ _ _
  have hget : ∀ i, i < 64 → (bs[i]?).getD 0 = (q.data[i]?).getD 0 := fun i hi => by
    rw [← hbs, mergeMask_get _ _ _ hi, if_pos (bit_allOnes hi)]
  obtain ⟨st, po, srv', fr', hput, hst, hpo⟩ := Dev.putBackDirty_spec (d := c) (e := s.env) hh (by rw [hc']; exact s.rests_stores hs) bs q.poison
  obtain ⟨z, hz⟩ : ∃ z, (c.putLine s.env line bs q.poison).putDir s.env line none none = z := ⟨_, rfl⟩
  have hz' : z = { s.dev with
      stores := st ++ po ++ [.write (line * 64) bs], srv := srv', free := fr'
      ridge := { s.dev.ridge with rowed := l, dir := smSet none s.dev.ridge.dir line none } } := by
    rw [← hz, hput, hc']
    have hfit : fit 64 bs = bs := by
      rw [← hlen]
      unfold fit
      simp [zeros]
    rw [hfit]
    rfl
  have hstart : (s.dev.setRidge { s.dev.ridge with rowed := l }).startTxn s.env line { q with time := s.time } = (z.send o).dropTxn line := by
    rw [Dev.startTxn_wbDirty (q := { q with time := s.time }) hop (show (s.dev.setRidge { s.dev.ridge with rowed := l }).dir line = some x from hdir) hk hown, hc,
      Dev.finishTxn_wbDirty (d := c) (t := { line := line, req := { q with time := s.time }, entry := some x, time := s.env.time }) rfl hecc rfl hop rfl hk hown hmask rfl]
    dsimp only
    rw [hbs, hz, ho z (by rw [hz'])]
  have hidle : (s.dev.setRidge { s.dev.ridge with rowed := l }).Idle s.env line := ⟨hh, hact, htx, hw, harr, s.rests_calm hs⟩
  have hway : (s.dev.setRidge { s.dev.ridge with rowed := l }).needsWay s.env line q = false := by
    unfold Dev.needsWay
    rw [show (s.dev.setRidge { s.dev.ridge with rowed := l }).dir line = some x from hdir]
    rfl
  have hreq := hidle.homeReq (q := q) (fun h => absurd h (by rw [hway]; decide)) hstart (by rw [hz']; exact hw)
  have hsum : line * 64 + 64 ≤ sumAddr line := by
    have hl : line * 64 < 0x5E80000000 := by simpa [homed, inHbm] using hh
    unfold sumAddr
    omega
  refine ⟨_, s.go_done f _ hs (hgo.trans hreq) (by rw [hz']; exact s.rests_quiet hs), by rw [hz']; rfl, ?_, fun k hk => ?_, ?_, fun b => ?_⟩
  · rw [hz']
    show smGet none (smSet none s.dev.ridge.dir line none) line = none
    exact smGet_set_same ..
  · rw [hz']
    show smGet none (smSet none s.dev.ridge.dir line none) k = smGet none s.dev.ridge.dir k
    exact smGet_set_other (none : Option Dir) _ _ _ _ hk
  · show ((z.send o).dropTxn line |>.stores.foldr (fun o p => o.onPoison p) s.poison).contains line = q.poison
    rw [hz']
    show ((st ++ po ++ [MemOp.write (line * 64) bs]).foldr (fun o p => o.onPoison p) s.poison).contains line = q.poison
    rw [List.append_assoc, List.foldr_append]
    have hst' (p : List Nat) : st.foldr (fun o p => o.onPoison p) p = p := by rcases hst with ⟨rfl, -⟩ | rfl <;> rfl
    rw [hst']
    rcases hpo with ⟨hp, rfl⟩ | ⟨hp, rfl, hin⟩ | ⟨hp, rfl⟩
    · rw [hp]
      show (listDel line s.poison).contains line = false
      simp [listDel]
    · rw [hp]
      exact hin
    · rw [hp]
      exact contains_listIns line s.poison
  · have hby : (s.commit ((z.send o).dropTxn line)).byte b = smGet 0 (st.foldr (fun o m => o.onMem m) ((MemOp.write (line * 64) bs).onMem s.mem)) b := by
      rw [State.byte_commit, hz']
      show smGet 0 ((st ++ po ++ [MemOp.write (line * 64) bs]).foldr (fun o m => o.onMem m) s.mem) b = _
      rw [List.append_assoc, List.foldr_append]
      rcases hpo with ⟨-, rfl⟩ | ⟨-, rfl, -⟩ | ⟨-, rfl⟩ <;> rfl
    have hmem (b : Nat) : smGet 0 ((MemOp.write (line * 64) bs).onMem s.mem) b = if line * 64 ≤ b ∧ b < line * 64 + 64 then (q.data[b - line * 64]?).getD 0 else s.byte b := by
      rw [MemOp.write_byte, hlen]
      split
      · exact hget _ (by omega)
      · rfl
    rw [hby]
    rcases hst with ⟨rfl, h0⟩ | rfl
    · refine (hmem b).trans ?_
      by_cases hb : b = sumAddr line
      · rw [if_neg (by omega), if_neg (by omega), if_pos hb, hb]
        exact h0
      · rw [if_neg hb]
    · refine (MemOp.write_byte _ (sumAddr line) [0] b).trans ?_
      rw [List.length_singleton]
      by_cases hb : b = sumAddr line
      · rw [if_pos (by omega), if_neg (by omega), if_pos hb, hb, Nat.sub_self]
        rfl
      · rw [if_neg (by omega)]
        refine (hmem b).trans ?_
        rw [if_neg hb]

end

/-- Settles O30: each request starts at once at its idle home, and finishes on its tick. -/
theorem ridgeReadsAndWrites : Obligations.RidgeReadsAndWrites := by
  refine ⟨fun c a line tn w s hc hf ha htn hv hth => cluster_reads hc hf ha htn hv hth, fun isl line tn mask s hf h1 h2 h3 htn => ?_,
    fun k off tag l s hf hl hlive hup htn => ?_, fun c k off tag l w s hc hf hl hlive hup htn hv hth => host_grants hc hf hl hlive hup htn hv hth,
    fun k off tag l mv s hs hl hdead hup hroom => ?_, fun isl line tn mask data s hf h1 h2 h3 htn hth => ?_,
    fun isl line tn op off size operand compare ret s hf h1 h2 h3 htn hbad hpo hth => ncAtomic_leaves hf h1 h2 h3 htn hbad hpo hth rfl,
    fun a line tn data poison x s hs hh ha hact htx hw harr hdir hk hown htn => ?_,
    fun c k off tag l mv mask data s hc hmv hf hl hlive hup htn hth => host_writes hc hmv hf hl hlive hup htn hth,
    fun k off tag l x data s hs hh hact htx hw harr hdir hk hown hl hlive hup htn => ?_⟩
  · exact reads_leaves (f := fun e d => d.islReq e line { op := .ncRead, a := isl, tn := tn, mask := mask.toNat, ecc := true }) hf
      (islReq_own (State.homeFree_iff hf).2.homed h3) rfl rfl
      fun x _ => Dev.homeAnswer_island x s.env line (q := { op := .ncRead, a := isl, tn := tn, mask := mask.toNat, time := s.time }) ⟨rfl, rfl, htn⟩ rfl h1 h2 ..
  · obtain ⟨t, ht, hout, hdir, -, hm, -⟩ := reads_leaves (f := fun e d => d.hdmRead e k off tag .ncRead) hf (Dev.hdmRead_line hl hlive s.env tag .ncRead) rfl rfl
      fun x hx => Dev.homeAnswer_host (by rw [hx]; exact hup) s.env l ⟨rfl, rfl, htn⟩ rfl rfl ..
    exact ⟨t, ht, hout, hdir, hm⟩
  · refine show (s.go fun e d => d.hdmRead e k off tag _) = _ from s.go_to _ _ hs ?_
      ((Dev.quiet_out _ _).trans ((Dev.quiet_setOd ..).trans (s.rests_quiet hs))) (s.rests_stores hs)
    unfold Dev.hdmRead
    rw [hdmLine_decodes hl, hdead, hl, s.dev.count_of_lt 0x2200 0x13 1 (by rwa [show odSize 0x2200 0x13 = 4 by decide])]
    exact Dev.toAgent_host (d := s.dev.setOd 0x2200 0x13 _) hup ..
  · exact writes_leaves (f := fun e d => d.islReq e line { op := .ncWrite, a := isl, tn := tn, mask := mask.toNat, data := fit 64 data, ecc := true }) hf
      (islReq_own (State.homeFree_iff hf).2.homed h3) rfl rfl hth
      fun x _ => Dev.homeAnswer_island x s.env line (q := { op := .ncWrite, a := isl, tn := tn, mask := mask.toNat, data := fit 64 data, time := s.time }) ⟨rfl, rfl, htn⟩ rfl h1 h2 ..
  · obtain ⟨t, ht, hout, hnone, hdirs, hpo, hbyte⟩ :=
      writesBack_leaves (f := fun e d => d.agentReq e a line { op := .wbDirty, a := a, tn := tn, data := data, mask := 2 ^ 64 - 1, poison := poison })
        hs hh hact htx hw harr hdir hk hown rfl rfl rfl (agentReq_cluster hh ha rfl)
        fun y _ => (Dev.homeAnswer_caching y s.env line ⟨rfl, rfl, htn⟩ rfl ..).trans (Dev.toAgent_cluster y ha ..)
    refine ⟨t, ht, hout, hnone, hdirs, hpo, fun b => (hbyte b).trans ?_⟩
    split
    · next hb => exact (fit_get (by omega)).symm
    · rfl
  · obtain ⟨t, ht, hout, hnone, -, -, hbyte⟩ :=
      writesBack_leaves (f := fun e d => d.hdmWrite e k off 2 (2 ^ 64 - 1) data tag) (l := s.dev.ridge.rowed)
        hs hh hact htx hw harr hdir hk hown rfl rfl rfl ((Dev.hdmWrite_line hl hlive harr s.env 2 _ data tag).trans (by rw [if_pos rfl]; rfl))
        fun y hy => (Dev.homeAnswer_caching y s.env l ⟨rfl, rfl, htn⟩ rfl ..).trans (Dev.toAgent_host (by rw [hy]; exact hup) ..)
    exact ⟨t, ht, hout, hnone, hbyte⟩

end Sys2Proof.Machine
end

section
/-! PROOF. Accesses of this device's own islands at an idle home, and placements (R595 to R600): O55. -/
namespace Sys2Proof.Machine

/-! ### One line, read or written by an island that waits for it -/

/-- An access within one line. -/
theorem lineParts_one {a len : Nat} (hlen : 0 < len) (hfit : a % 64 + len ≤ 64) : lineParts a len = [(a / 64, a % 64, len)] := by
  have hn : (a + len - 1) / 64 + 1 - a / 64 = 1 := by omega
  have hlo : max a (a / 64 * 64) = a := by omega
  have hhi : min (a + len) (a / 64 * 64 + 64) = a + len := by omega
  unfold lineParts
  rw [if_neg (by omega), hn, List.range_one, List.map_singleton]
  dsimp only
  rw [Nat.add_zero, hlo, hhi, Nat.add_sub_cancel_left, show a - a / 64 * 64 = a % 64 by omega]

/-- The bytes of the mask of a part of a line. -/
theorem bit_partMask (off len i : Nat) : bit (partMask off len) i = (decide (off ≤ i) && decide (i < off + len)) := by
  have h : bit (partMask off len) i = (partMask off len).testBit i := by
    rw [Nat.testBit_eq_decide_div_mod_eq]
    unfold bit
    rw [Bool.eq_iff_iff, beq_iff_eq, decide_eq_true_eq]
  rw [h, partMask, Nat.testBit_mul_two_pow, Nat.testBit_two_pow_sub_one]
  by_cases hi : off ≤ i
  · simp [hi]
    omega
  · simp [hi]

/-- The request of an island that waits for the answer. -/
structure HomeReq.Own (q : HomeReq) (w : Who) : Prop where
  who : q.who = some w
  self : q.self = false
  ecc : q.ecc = true

section
variable {d : Dev} {e : Env} {line : Nat} {q : HomeReq} {w : Who}

theorem Dev.homeAnswer_own (d : Dev) (e : Env) (line : Nat) (hq : q.Own w) (kind : String) (st : Nat) (data : List Byte) (p : Bool) (s : Status) :
    d.homeAnswer e line q kind st data p s = d.setRidge { d.ridge with fresh := d.ridge.fresh ++ [(w, line, data, p, s)] } := by
  unfold Dev.homeAnswer
  rw [hq.self, hq.who]
  rfl

/-- The requests of this device's own islands are not held back by a shared granule. -/
theorem Dev.frozenFor_own (d : Dev) (line : Nat) (hq : q.Own w) : d.frozenFor line q = false := by
  unfold Dev.frozenFor
  rw [hq.who]
  rfl

/-- The entries of the dictionary other than the books of the coherent windows are as they were. -/
def Dev.OdKept (d x : Dev) : Prop := ∀ idx sub, sub < 256 → (idx, sub) ≠ (0x2400, 5) → x.od idx sub = d.od idx sub

theorem Dev.count_kept (d : Dev) {c : Dev} {k : Nat} (h : d.count 0x2400 5 k = c) : d.OdKept c := fun idx sub hsub hidx => by
  rw [← h]
  exact d.count_od_other k hsub (by decide) hidx

/-- An island's read of a line that nobody holds: its answer waits for it. -/
theorem Dev.Unheld.ownRead (h : d.Unheld e line) (hop : q.op = .ncRead) (hq : q.Own w) : ∃ c srv f, c = { d with srv := srv, free := f } ∧ d.OdKept c ∧
    (d.homeArrive e line q).homePump e =
      c.setRidge { c.ridge with fresh := [(w, line, d.bytes e (line * 64) 64, d.poisoned e line, .ok)] } := by
  obtain ⟨c, srv, f, hc, hc'⟩ := d.count_eq 0x2400 5 1
  refine ⟨c, srv, f, hc', d.count_kept hc, ?_⟩
  rw [h.toIdle.homeArrive fun hn => absurd hn (by rw [h.needsWay (by rw [hop]; rfl)]; decide), h.reads (q := { q with time := e.time }) hop hq.ecc, hc,
    c.homeAnswer_own e line (q := { q with time := e.time }) ⟨hq.who, hq.self, hq.ecc⟩]
  have hr : c.ridge = d.ridge := by rw [hc']
  have hx : (c.setRidge { c.ridge with fresh := c.ridge.fresh ++ [(w, line, d.bytes e (line * 64) 64, d.poisoned e line, Status.ok)] }).dropTxn line =
      c.setRidge { c.ridge with fresh := [(w, line, d.bytes e (line * 64) 64, d.poisoned e line, Status.ok)] } := by
    unfold Dev.dropTxn
    show c.setRidge { c.ridge with fresh := c.ridge.fresh ++ [_], txns := c.ridge.txns.filter _ } = c.setRidge { c.ridge with fresh := [_] }
    rw [hr, h.fresh, h.txns]
    show c.setRidge { d.ridge with fresh := [_], txns := [] } = c.setRidge { d.ridge with fresh := [_] }
    rw [← h.txns]
  rw [hx, Dev.homePump_none (by show c.ridge.waiting = []; rw [hr, h.waiting])]

/-- An island's write of a line that nobody holds: the bytes of its mask change, and its answer waits for it. -/
theorem Dev.Unheld.ownWrite (h : d.Unheld e line) (hop : q.op = .ncWrite) (hq : q.Own w) : ∃ p c srv f r, c = { d with srv := srv, free := f } ∧ d.OdKept c ∧
    (d.homeArrive e line q).homePump e = (c.written line (mergeMask (d.bytes e (line * 64) 64) q.data q.mask) p).setRidge { r with fresh := [(w, line, [], false, .ok)] } ∧
      r = { d.ridge with dir := smSet none d.ridge.dir line none } := by
  obtain ⟨c, srv, f, hc, hc'⟩ := d.count_eq 0x2400 5 1
  have hq' : ({ q with time := e.time } : HomeReq).Own w := ⟨hq.who, hq.self, hq.ecc⟩
  obtain ⟨p, hst⟩ := h.writes (q := { q with time := e.time }) hop hq.ecc (d.frozenFor_own line hq')
  refine ⟨p, c, srv, f, _, hc', d.count_kept hc, ?_, rfl⟩
  rw [h.toIdle.homeArrive fun hn => absurd hn (by rw [h.needsWay (by rw [hop]; rfl)]; decide), hst, hc, Dev.homeAnswer_own _ e line hq']
  obtain ⟨x, hx⟩ : ∃ x, c.written line (mergeMask (d.bytes e (line * 64) 64) q.data q.mask) p = x := ⟨_, rfl⟩
  have hr : x.ridge = { d.ridge with dir := smSet none d.ridge.dir line none } := by rw [← hx, hc']; rfl
  rw [hx]
  have hy : (x.setRidge { x.ridge with fresh := x.ridge.fresh ++ [(w, line, [], false, Status.ok)] }).dropTxn line =
      x.setRidge { ({ d.ridge with dir := smSet none d.ridge.dir line none } : Ridge) with fresh := [(w, line, [], false, Status.ok)] } := by
    unfold Dev.dropTxn
    show x.setRidge { x.ridge with fresh := x.ridge.fresh ++ [_], txns := x.ridge.txns.filter _ } = _
    rw [hr]
    show x.setRidge { d.ridge with dir := _, fresh := d.ridge.fresh ++ [_], txns := d.ridge.txns.filter _ } = x.setRidge { d.ridge with dir := _, fresh := [_] }
    rw [h.fresh, h.txns]
    show x.setRidge { d.ridge with dir := _, fresh := [_], txns := [] } = x.setRidge { d.ridge with dir := _, fresh := [_] }
    rw [← h.txns]
  rw [hy]
  refine Dev.homePump_none ?_ e
  exact h.waiting

theorem Dev.Unheld.asked (h : d.Unheld e line) (w : Who) : d.asked w .here line = false := by
  unfold Dev.asked Dev.asking
  rw [h.fresh, h.txns, h.waiting]
  rfl

/-- An island's request for a line that nobody holds reaches its home. -/
theorem Dev.Unheld.ask (h : d.Unheld e line) (w : Who) (q : HomeReq) : d.ask e w .here line q = (d.homeArrive e line { q with who := some w }).homePump e := by
  unfold Dev.ask Dev.islAnswer
  rw [h.asked w]
  dsimp only
  rw [h.active]
  rfl

/-- The one answer that an island waits for is taken. -/
theorem Dev.gather_one {x : Dev} {r : Ridge} {f : List Byte × Bool × Status} (hr : r.fresh = []) (hask : d.ask e w .here line q = x.setRidge { r with fresh := [(w, line, f)] }) :
    d.gather e w .here [(line, q)] = (some [f], x.setRidge r) := by
  have hk : Dest.here.key line = line := rfl
  unfold Dev.gather
  simp only [List.foldl_cons, List.foldl_nil, hask, List.map_cons, List.map_nil, hk]
  have hfind : (x.setRidge { r with fresh := [(w, line, f)] }).ridge.fresh.find? (fun f => f.1 == w && f.2.1 == line) = some (w, line, f) :=
    List.find?_cons_of_pos (by simp)
  rw [hfind]
  simp only [List.all_cons, List.all_nil, Option.isSome_some, Bool.and_true, if_true, List.filterMap_cons, id, List.filterMap_nil, List.map_cons, List.map_nil,
    List.foldl_cons, List.foldl_nil]
  refine congrArg (Prod.mk _) ?_
  show x.setRidge { r with fresh := [(w, line, f)].erase (w, line, f) } = x.setRidge r
  rw [List.erase_cons_head, ← hr]

/-- An island reads bytes of a line that nobody holds. -/
theorem Dev.Unheld.readLines {a len isl : Nat} (h : d.Unheld e (a / 64)) (hlen : 0 < len) (hfit : a % 64 + len ≤ 64) : ∃ c srv f, c = { d with srv := srv, free := f } ∧ d.OdKept c ∧
    d.readLines e w .here isl a len = (.got (d.bytes e a len) (d.poisoned e (a / 64)), c) := by
  obtain ⟨c, srv, f, hc, hod, hask⟩ := h.ownRead (q := { op := .ncRead, a := isl, mask := partMask (a % 64) len, who := some w }) (w := w) rfl ⟨rfl, rfl, rfl⟩
  have hr : c.ridge = d.ridge := by rw [hc]
  have hg := Dev.gather_one (q := { op := .ncRead, a := isl, mask := partMask (a % 64) len }) (r := c.ridge) (by rw [hr, h.fresh])
    ((h.ask w { op := .ncRead, a := isl, mask := partMask (a % 64) len }).trans hask)
  have hbytes : ((d.bytes e (a / 64 * 64) 64).drop (a % 64)).take len = d.bytes e a len := by
    refine (map_range_slice (d.byte e) (a / 64 * 64) hfit).trans ?_
    rw [show a / 64 * 64 + a % 64 = a by omega]
    rfl
  refine ⟨c, srv, f, hc, hod, ?_⟩
  unfold Dev.readLines
  rw [lineParts_one hlen hfit]
  simp only [List.map_cons, List.map_nil]
  rw [hg]
  simp only [List.find?_cons, List.find?_nil, bne_self_eq_false, List.zip_cons_cons, List.zip_nil_right, List.map_cons, List.map_nil, List.flatten_cons, List.flatten_nil,
    List.append_nil, List.any_cons, List.any_nil, Bool.or_false, hbytes]
  rfl

/-- What an island's write leaves of a line that nobody holds. -/
def Dev.wroteOwn (d : Dev) (line : Nat) (bs : List Byte) (p : Bool) (srv : Server) (f : Nat) : Dev := { d.written line bs p with srv := srv, free := f }

/-- An island writes bytes of a line that nobody holds. -/
theorem Dev.Unheld.writeLines {a isl : Nat} {bs : List Byte} (h : d.Unheld e (a / 64)) (hlen : bs ≠ []) (hfit : a % 64 + bs.length ≤ 64) : ∃ p srv f,
    d.writeLines e w .here isl a bs =
      (.done, d.wroteOwn (a / 64) (mergeMask (d.bytes e (a / 64 * 64) 64) (zeros (a % 64) ++ bs) (partMask (a % 64) bs.length)) p srv f) ∧
    d.OdKept { d with srv := srv, free := f } := by
  have hpart : zeros (a % 64) ++ (bs.drop (a / 64 * 64 + a % 64 - a)).take bs.length = zeros (a % 64) ++ bs := by
    rw [show a / 64 * 64 + a % 64 - a = 0 by omega, List.drop_zero, List.take_length]
  obtain ⟨p, c, srv, f, r, hc, hod, hask, hr⟩ :=
    h.ownWrite (q := { op := .ncWrite, a := isl, mask := partMask (a % 64) bs.length, data := zeros (a % 64) ++ bs, who := some w }) (w := w) rfl ⟨rfl, rfl, rfl⟩
  have hg := Dev.gather_one (q := { op := .ncWrite, a := isl, mask := partMask (a % 64) bs.length, data := zeros (a % 64) ++ bs }) (by rw [hr]; exact h.fresh)
    ((h.ask w { op := .ncWrite, a := isl, mask := partMask (a % 64) bs.length, data := zeros (a % 64) ++ bs }).trans hask)
  refine ⟨p, srv, f, ?_, by rw [← hc]; exact hod⟩
  unfold Dev.writeLines
  rw [lineParts_one (List.length_pos_iff.mpr hlen) hfit]
  simp only [List.map_cons, List.map_nil]
  rw [hpart, hg]
  simp only [List.find?_cons, List.find?_nil, bne_self_eq_false]
  rw [hr, hc]
  rfl

/-- The bytes that an island's write leaves. -/
theorem State.wrote_own {s : State} {d x : Dev} {a : Nat} {bs : List Byte} {p : Bool} (hfit : a % 64 + bs.length ≤ 64) (hst : d.stores = []) {m : List Byte}
    (hm : mergeMask (d.bytes s.env (a / 64 * 64) 64) (zeros (a % 64) ++ bs) (partMask (a % 64) bs.length) = m)
    (hx : x.stores = (if p then [] else [.clean (a / 64)]) ++ [.write (a / 64 * 64) m]) : s.wrote (s.commit x) a bs := by
  intro b
  rw [State.byte_written (p := p) hx (by rw [← hm]; exact mergeMask_length _ _ _)]
  by_cases hb : a / 64 * 64 ≤ b ∧ b < a / 64 * 64 + 64
  · have hi : b - a / 64 * 64 < 64 := by omega
    rw [if_pos hb, ← hm, mergeMask_get _ _ _ hi, bit_partMask, s.bytes_env hst]
    by_cases hin : a ≤ b ∧ b < a + bs.length
    · rw [if_pos (by simp; omega), if_pos hin, List.getElem?_append_right (by simp [zeros]; omega)]
      congr 2
      simp only [zeros, List.length_replicate]
      omega
    · rw [if_neg (by simp; omega), if_neg hin]
      refine (s.bytes_get (a / 64) hi).trans ?_
      rw [show a / 64 * 64 + (b - a / 64 * 64) = b by omega]
  · rw [if_neg hb, if_neg (by omega)]

end

/-! ### Commands that leave a placement -/

/-- A device at which nothing is due but a placement write. -/
theorem Dev.settle_placed {d : Dev} {e : Env} {x : Place} (hp : d.places = [x]) (hr : x.read = none) (hq : ({ d with places := [] } : Dev).quiet = true) : d.settle e = d := by
  obtain ⟨skies, -, faults, ckpts, mirrors, recs, ports, smb, released⟩ := (Dev.quiet_iff _).mp hq
  have hplaces : d.flushPlaces e = d := by
    unfold Dev.flushPlaces
    rw [hp]
    show (match x.read with | some k => d.placeFetch e x k | none => d) = d
    rw [hr]
  have note : d.noteSmb = d := if_pos smb
  rw [Dev.settle, d.flushSkies_none e skies, hplaces, d.settleFaults_none e faults, d.flushCkpts_none e ckpts, d.flushMirrors_none e mirrors, d.flushRecs_none e recs,
    Dev.flushPaused_still d e ports, d.askAgain_none e released, Dev.stampPorts_still d e ports, note]

/-- The end of a command that leaves a placement write. -/
theorem State.go_placed (s : State) (f : Env → Dev → Dev) {d : Dev} {x : Place} (hs : s.rests = true) (h : f s.env s.dev = d) (hp : d.places = [x]) (hr : x.read = none)
    (hq : ({ d with places := [] } : Dev).quiet = true) (hst : d.stores = []) : s.go f = .next { s with dev := d } := by
  rw [s.go_from f hs h (Dev.settle_placed hp hr hq), s.commit_quiet d hst]

section
variable {d : Dev} {n r off : Nat} {bs : List Byte} {x : Place}

theorem Dev.places_placeWrite : (d.placeWrite n r off bs x).places = d.places ++ [{ x with id := d.nextPlace, bay := n, slot := r, lpa := (d.region n r).base + off, data := bs }] := by
  unfold Dev.placeWrite
  dsimp only
  split <;> rfl

theorem Dev.quiet_placeWrite : ({ d.placeWrite n r off bs x with places := [] } : Dev).quiet = ({ d with places := [] } : Dev).quiet := by
  unfold Dev.placeWrite
  dsimp only
  split <;> rfl

theorem Dev.placeWrite_keeps : (d.placeWrite n r off bs x).stores = d.stores ∧ (d.placeWrite n r off bs x).qps = d.qps := by
  unfold Dev.placeWrite
  dsimp only
  split <;> exact ⟨rfl, rfl⟩

theorem Dev.quiet_unplaced (h : d.quiet = true) : ({ d with places := [] } : Dev).quiet = true := by
  obtain ⟨-, places, -⟩ := (Dev.quiet_iff _).mp h
  rw [← places]
  exact h

end

/-! ### RoCEv2 -/

theorem qpOf_lt {qpn n i : Nat} (h : qpOf qpn = some (n, i)) : n < 16 ∧ i < 4 := by
  unfold qpOf at h
  split at h
  · next hq =>
    simp only [Bool.and_eq_true, decide_eq_true_eq] at hq
    have hni := Option.some.inj h
    rw [Prod.mk.injEq] at hni
    omega
  · exact absurd h nofun

section
variable {s : State} {p : Fin 12} {k : RocePkt} {n i : Nat}

/-- A packet that its queue pair takes: what its PSN says of it. -/
theorem roceIn_here (h : s.roceHere p k n i = true) : s.rests = true ∧ n < 16 ∧ i < 4 ∧ (s.dev.count (portOd p) 0xF 1).qpPsn n i = s.dev.qpPsn n i ∧
    ∀ {c : Dev} {write : Bool} {a : Nat}, s.dev.count (portOd p) 0xF 1 = c → k.psn = (s.dev.qpPsn n i + a) % 2 ^ 24 → a < 2 ^ 23 → s.dev.roceIn s.env p k write =
      if a = 0 then (if write then c.roceWrite n i p k else c.roceRead s.env n i p k)
      else if (c.qp n i).nakSent then c else (c.setQp n i { c.qp n i with nakSent := true }).roceOut p "NAK PSN Sequence Error" k.qpn (s.dev.qpPsn n i) [] := by
  unfold State.roceHere at h
  simp only [Bool.and_eq_true, decide_eq_true_eq, Bool.not_eq_true', Nat.ble_eq] at h
  obtain ⟨⟨⟨⟨⟨⟨⟨hs, hup⟩, hicrc⟩, hwf⟩, hlen⟩, hqp⟩, htakes⟩, hecn⟩ := h
  obtain ⟨hn, hi⟩ := qpOf_lt hqp
  have hod : ∀ j, j < 256 → (s.dev.count (portOd p) 0xF 1).od (0x2A60 + n) j = s.dev.od (0x2A60 + n) j := fun j hj =>
    s.dev.count_od_other 1 hj (by decide) (by rw [ne_eq, Prod.mk.injEq]; unfold portOd; omega)
  have hpsn : (s.dev.count (portOd p) 0xF 1).qpPsn n i = s.dev.qpPsn n i := by
    unfold Dev.qpPsn Dev.qpConf
    rw [hod _ (by omega)]
    obtain ⟨c, srv, f, hc, hc'⟩ := s.dev.count_eq (portOd p) 0xF 1
    rw [hc, hc']
    rfl
  refine ⟨hs, hn, hi, hpsn, fun {c write a} hc ha ha' => ?_⟩
  have htakes' : c.qpTakes n i p k = true := by
    rw [← hc]
    unfold Dev.qpTakes Dev.qpConf at htakes ⊢
    rw [hod _ (by omega), hod _ (by omega)]
    exact htakes
  have hcnp : c.cnp s.env p k = c := by
    unfold Dev.cnp
    rw [hecn]
    rfl
  have hlt : s.dev.qpPsn n i < 2 ^ 24 := Nat.mod_lt _ (by decide)
  have hahead : (k.psn + 2 ^ 24 - c.qpPsn n i) % 2 ^ 24 = a := by
    rw [← hc, hpsn, ha]
    omega
  unfold Dev.roceIn
  dsimp only
  rw [hup, hc, hicrc, hwf, hqp]
  dsimp only
  rw [htakes', hcnp, hahead, if_neg (by decide), if_neg (by decide), if_neg (by simpa using hlen), if_neg (by decide), if_pos ha', ← hc, hpsn]

/-- The packet of a write that a queue pair takes: a placement, and the queue pair moves on. -/
theorem rdmaWrite_places {r off count : Nat} {msg : Option (Nat × Nat × Nat × Nat)} (h : s.roceHere p k n i = true) (hpsn : k.psn = s.dev.qpPsn n i)
    (hw : ∀ c srv f, c = { s.dev with srv := srv, free := f } → c.roceWrite n i p k = (c.placeWrite n r off k.data (rocePlace p k count)).qpNext n i 1 msg) :
    exec (.rdmaWrite p k) s = .next { s with dev := (((s.dev.count (portOd p) 0xF 1).placeWrite n r off k.data (rocePlace p k count)).setQp n i
      { s.dev.qp n i with psn := (s.dev.qp n i).psn + 1, msg := msg, nakSent := false }) } := by
  obtain ⟨hs, hn, hi, -, hin⟩ := roceIn_here h
  obtain ⟨c, srv, f, hc, hc'⟩ := s.dev.count_eq (portOd p) 0xF 1
  have hlt : s.dev.qpPsn n i < 2 ^ 24 := Nat.mod_lt _ (by decide)
  obtain ⟨hpst, hpq⟩ := Dev.placeWrite_keeps (d := c) (n := n) (r := r) (off := off) (bs := k.data) (x := rocePlace p k count)
  have hplaces := Dev.places_placeWrite (d := c) (n := n) (r := r) (off := off) (bs := k.data) (x := rocePlace p k count)
  have hquiet := Dev.quiet_placeWrite (d := c) (n := n) (r := r) (off := off) (bs := k.data) (x := rocePlace p k count)
  obtain ⟨-, hnone, -⟩ := (Dev.quiet_iff _).mp (s.rests_quiet hs)
  rw [hc]
  obtain ⟨y, hy⟩ : ∃ y, c.placeWrite n r off k.data (rocePlace p k count) = y := ⟨_, rfl⟩
  rw [hy] at hplaces hquiet hpst hpq ⊢
  have hqp : y.qp n i = s.dev.qp n i := by
    unfold Dev.qp
    rw [hpq, hc']
  refine show execRdmaWrite p k s = _ from s.go_placed _ hs ?_ (x := { rocePlace p k count with id := c.nextPlace, bay := n, slot := r, lpa := (c.region n r).base + off, data := k.data })
    ?_ rfl ?_ ?_
  · dsimp only
    rw [Dev.leadPlace_calm _ _ (s.rests_calm hs), hin (a := 0) hc (by rw [hpsn, Nat.add_zero, Nat.mod_eq_of_lt hlt]) (by decide), if_pos rfl, if_pos rfl, hw c srv f hc', hy]
    unfold Dev.qpNext
    rw [hqp]
  · refine hplaces.trans ?_
    rw [hc', hnone]
    rfl
  · refine Eq.trans (b := ({ y with places := [] } : Dev).quiet) rfl (hquiet.trans ?_)
    rw [hc']
    exact Dev.quiet_unplaced (s.rests_quiet hs)
  · refine hpst.trans ?_
    rw [hc']
    exact s.rests_stores hs

/-- A packet that runs ahead is answered with a NAK once. -/
theorem rdmaWrite_naks {a : Nat} (h : s.roceHere p k n i = true) (hpsn : k.psn = (s.dev.qpPsn n i + a) % 2 ^ 24) (ha : 0 < a) (ha' : a < 2 ^ 23) :
    exec (.rdmaWrite p k) s = .next { s with dev := if (s.dev.qp n i).nakSent then s.dev.count (portOd p) 0xF 1 else
      (((s.dev.count (portOd p) 0xF 1).setQp n i { s.dev.qp n i with nakSent := true }).send (.roce p "NAK PSN Sequence Error" k.qpn (s.dev.qpPsn n i) [])).count (portOd p) 0x10 1 } := by
  obtain ⟨hs, hn, hi, -, hin⟩ := roceIn_here h
  obtain ⟨c, srv, f, hc, hc'⟩ := s.dev.count_eq (portOd p) 0xF 1
  have hqp : c.qp n i = s.dev.qp n i := by rw [hc']; rfl
  have hout : (c.setQp n i { s.dev.qp n i with nakSent := true }).roceOut p "NAK PSN Sequence Error" k.qpn (s.dev.qpPsn n i) [] =
      ((c.setQp n i { s.dev.qp n i with nakSent := true }).send (.roce p "NAK PSN Sequence Error" k.qpn (s.dev.qpPsn n i) [])).count (portOd p) 0x10 1 := by
    have hpaused : ((c.setQp n i { s.dev.qp n i with nakSent := true }).port p).paused = [] := by
      rw [hc']
      exact (State.rests_port hs p).1
    unfold Dev.roceOut
    dsimp only
    rw [hpaused]
    rfl
  rw [hc]
  refine show execRdmaWrite p k s = _ from s.go_to _ _ hs ?_ ?_ ?_
  · dsimp only
    rw [Dev.leadPlace_calm _ _ (s.rests_calm hs), hin hc hpsn ha', if_neg (by omega), hqp, hout]
  · split
    · rw [hc']; exact s.rests_quiet hs
    · refine (Dev.quiet_count _ _ _ _).trans ?_
      rw [hc']
      exact s.rests_quiet hs
  · split
    · rw [hc']; exact s.rests_stores hs
    · refine (Dev.count_stores _ _ _ _).trans ?_
      rw [hc']
      exact s.rests_stores hs

/-- A placement read inside one line that nobody holds is performed at once. -/
theorem Dev.flushPlaces_read {d : Dev} {e : Env} {r off len a : Nat} (x : Place) (hnone : d.places = []) (ha : a = (d.region n r).base + off) (h : d.Unheld e (a / 64))
    (hlen : 0 < len) (hfit : a % 64 + len ≤ 64) : ∃ srv f, d.OdKept { d with nextPlace := d.nextPlace + 1, srv := srv, free := f } ∧ (d.placeRead n r off len x).flushPlaces e =
      ({ d with nextPlace := d.nextPlace + 1, srv := srv, free := f } : Dev).placeReply
        { x with id := d.nextPlace, bay := n, slot := r, lpa := a, data := [], read := some len } .ok (d.bytes e a len) (d.poisoned e (a / 64)) := by
  subst ha
  obtain ⟨y, hy⟩ : ∃ y, d.placeRead n r off len x = y := ⟨_, rfl⟩
  have hun : y.Unheld e (((d.region n r).base + off) / 64) := by
    rw [← hy]
    exact ⟨⟨h.homed, h.active, h.txns, h.waiting, h.arrays, h.calm⟩, h.fresh, h.dir, h.sum, h.whole⟩
  obtain ⟨c, srv, f, hc, hod, hread⟩ := hun.readLines (w := .place d.nextPlace) (isl := x.isl) hlen hfit
  have hplaces : y.places = [{ x with id := d.nextPlace, bay := n, slot := r, lpa := (d.region n r).base + off, data := [], read := some len }] := by
    rw [← hy]
    show d.places ++ [_] = _
    rw [hnone]
    rfl
  refine ⟨srv, f, fun idx sub hsub hidx => ?_, ?_⟩
  · have hk := hod idx sub hsub hidx
    rw [hc, ← hy] at hk
    exact hk
  rw [hy]
  unfold Dev.flushPlaces
  rw [hplaces]
  show y.placeFetch e _ len = _
  unfold Dev.placeFetch
  dsimp only
  rw [hread]
  dsimp only
  have hdrop : c.dropPlace { x with id := d.nextPlace, bay := n, slot := r, lpa := (d.region n r).base + off, data := [], read := some len } =
      { d with nextPlace := d.nextPlace + 1, srv := srv, free := f } := by
    unfold Dev.dropPlace
    rw [show c.places = y.places by rw [hc], hplaces, List.erase_cons_head, hc, ← hy]
    show ({ d with nextPlace := d.nextPlace + 1, srv := srv, free := f, places := [] } : Dev) = { d with nextPlace := d.nextPlace + 1, srv := srv, free := f }
    rw [← hnone]
  rw [hdrop, ← hy]
  rfl

/-- The read of one line is performed at once. -/
theorem rdmaRead_answers {r : Nat} {ok : Bool} (h : s.roceHere p k n i = true) (hpsn : k.psn = s.dev.qpPsn n i) (hmsg : (s.dev.qp n i).msg = none)
    (hslot : s.dev.rkeySlot n k.rkey = some (r, ok)) (hbad : s.dev.placeBad n r roceRd ok k.va k.dmaLen false = none) {a : Nat} (hbase : a = (s.dev.region n r).base + k.va)
    (hf : s.homeFree (a / 64) = true) (hlen : 0 < k.dmaLen) (hfit : a % 64 + k.dmaLen ≤ 64) (hpo : s.poison.contains (a / 64) = false) :
    ∃ t, exec (.rdmaRead p k) s = .next t ∧ t.dev.out = s.dev.out ++ [.roce p "READ Response" k.qpn k.psn (s.bytes a k.dmaLen)] ∧ t.dev.places = [] ∧
      t.dev.qp n i = { s.dev.qp n i with psn := (s.dev.qp n i).psn + 1, nakSent := false } ∧ t.mem = s.mem := by
  obtain ⟨hs, hn, hi, -, hin⟩ := roceIn_here h
  obtain ⟨-, hun⟩ := State.homeFree_iff hf
  obtain ⟨c, srv, f, hc, hc'⟩ := s.dev.count_eq (portOd p) 0xF 1
  have hlt : s.dev.qpPsn n i < 2 ^ 24 := Nat.mod_lt _ (by decide)
  obtain ⟨-, hnone, -⟩ := (Dev.quiet_iff _).mp (s.rests_quiet hs)
  obtain ⟨hb, hp⟩ : s.dev.bytes s.env a k.dmaLen = s.bytes a k.dmaLen ∧ s.dev.poisoned s.env (a / 64) = false :=
    ⟨s.bytes_env (s.rests_stores hs) _ _, (State.line_env hs _).2.trans hpo⟩
  obtain ⟨q, hnext⟩ : ∃ q, ({ s.dev.qp n i with psn := (s.dev.qp n i).psn + 1, msg := none, nakSent := false } : Qp) = q := ⟨_, rfl⟩
  have hq : q = { s.dev.qp n i with psn := (s.dev.qp n i).psn + 1, nakSent := false } := by rw [← hnext, ← hmsg]
  obtain ⟨z, hz⟩ : ∃ z, c.setQp n i q = z := ⟨_, rfl⟩
  obtain ⟨srv', f', -, hflush⟩ := Dev.flushPlaces_read (d := z) (e := s.env) (n := n) (r := r) (off := k.va) (len := k.dmaLen) (a := a)
    { rocePlace p k 0 with roce := some (p, k.qpn, k.psn, true) } (by rw [← hz, hc']; exact hnone) (by rw [← hz, hc']; exact hbase)
    (by rw [← hz, hc']; exact ⟨⟨hun.homed, hun.active, hun.txns, hun.waiting, hun.arrays, hun.calm⟩, hun.fresh, hun.dir, hun.sum, hun.whole⟩) hlen hfit
  rw [Dev.bytes_of_stores (show z.stores = s.dev.stores by rw [← hz, hc']; rfl), Dev.poisoned_of_stores (show z.stores = s.dev.stores by rw [← hz, hc']; rfl), hb, hp] at hflush
  obtain ⟨y, hy⟩ : ∃ y : Dev, ({ z with nextPlace := z.nextPlace + 1, srv := srv', free := f' } : Dev) = y := ⟨_, rfl⟩
  rw [hy] at hflush
  have hread : c.roceRead s.env n i p k = (y.send (.roce p "READ Response" k.qpn k.psn (s.bytes a k.dmaLen))).count (portOd p) 0x10 1 := by
    have hqp : c.qp n i = s.dev.qp n i := by rw [hc']; rfl
    have hplaces : c.places = [] := by rw [hc']; exact hnone
    have hslot' : c.rkeySlot n k.rkey = some (r, ok) := by rw [hc']; exact hslot
    have hbad' : c.placeBad n r roceRd ok k.va k.dmaLen false = none := by rw [hc']; exact hbad
    have hone : max 1 (cdiv k.dmaLen 4096) = 1 := by unfold cdiv; omega
    have hpaused : (y.port p).paused = [] := by
      rw [← hy, ← hz, hc']
      exact (State.rests_port hs p).1
    unfold Dev.roceRead
    rw [hqp, hmsg, hplaces, hslot', if_neg (by simp)]
    dsimp only
    rw [hbad', hone]
    refine Eq.trans (b := (z.placeRead n r k.va k.dmaLen { rocePlace p k 0 with roce := some (p, k.qpn, k.psn, true) }).flushPlaces s.env) ?_ (hflush.trans ?_)
    · rw [← hz, ← hnext, ← hqp]
      rfl
    · show y.roceOut p "READ Response" k.qpn k.psn (s.bytes a k.dmaLen) = _
      unfold Dev.roceOut
      dsimp only
      rw [hpaused]
      rfl
  refine ⟨_, show execRdmaRead p k s = _ from s.go_to _ ((y.send (.roce p "READ Response" k.qpn k.psn (s.bytes a k.dmaLen))).count (portOd p) 0x10 1) hs ?_ ?_ ?_, ?_, ?_, ?_, rfl⟩
  · rw [Dev.leadPlace_calm _ _ (s.rests_calm hs), hin (a := 0) hc (by rw [hpsn, Nat.add_zero, Nat.mod_eq_of_lt hlt]) (by decide), if_pos rfl, if_neg (by decide), hread]
  · refine (Dev.quiet_count _ _ _ _).trans ?_
    rw [← hy, ← hz, hc']
    exact s.rests_quiet hs
  · refine (Dev.count_stores _ _ _ _).trans ?_
    rw [← hy, ← hz, hc']
    exact s.rests_stores hs
  · refine (Dev.count_out _ _ _ _).trans ?_
    rw [← hy, ← hz, hc']
    rfl
  · obtain ⟨v, srv, f, hv, hv'⟩ := (y.send (.roce p "READ Response" k.qpn k.psn (s.bytes a k.dmaLen))).count_eq (portOd p) 0x10 1
    show Dev.places (Dev.count _ _ _ _) = []
    rw [hv, hv', ← hy, ← hz, hc']
    exact hnone
  · obtain ⟨v, srv, f, hv, hv'⟩ := (y.send (.roce p "READ Response" k.qpn k.psn (s.bytes a k.dmaLen))).count_eq (portOd p) 0x10 1
    show Dev.qp (Dev.count _ _ _ _) n i = _
    rw [hv, hv', ← hy, ← hz]
    refine Eq.trans ?_ hq
    show smGet {} (smSet {} c.qps (4 * n + i) q) (4 * n + i) = q
    exact smGet_set_same ..

end

/-! ### BAR4 -/

theorem bar4Write_places {rid : W16} {ap : Fin 256} {off : Nat} {data : List Byte} {s : State} (hs : s.rests = true) (hhere : s.dev.hostHere 0 = true)
    (hready : s.dev.boot.st = .ready) (hdata : data ≠ []) (hfit : off % 4096 + data.length ≤ 4096) (hbad : s.dev.barBad rid.toNat ap bar4Wr off data.length true = none)
    {x : Place} (hx : x = { id := 0, bay := 0, slot := 0, lpa := 0, data := [], count := data.length }) :
    exec (.bar4Write rid ap off data) s = .next { s with dev := s.dev.placeWrite (ap / 16) (ap % 16) off data x } := by
  have hlen : 0 < data.length := List.length_pos_iff.mpr hdata
  have hpage : off / 4096 = (off + data.length - 1) / 4096 := by omega
  obtain ⟨-, hnone, -⟩ := (Dev.quiet_iff _).mp (s.rests_quiet hs)
  refine show execBar4Write rid ap off data s = _ from s.go_placed _ hs ?_
    (x := { x with id := s.dev.nextPlace, bay := ap / 16, slot := ap % 16, lpa := (s.dev.region (ap / 16) (ap % 16)).base + off, data := data })
    (by rw [Dev.places_placeWrite, hnone]; rfl) (by rw [hx]) (Dev.quiet_placeWrite.trans (Dev.quiet_unplaced (s.rests_quiet hs)))
    (Dev.placeWrite_keeps.1.trans (s.rests_stores hs))
  rw [Dev.leadPlace_calm _ _ (s.rests_calm hs)]
  dsimp only
  rw [hhere, hready, ← hpage, hbad, hx]
  simp

theorem bar4Read_answers {rid : W16} {ap : Fin 256} {off len tag a : Nat} {s : State} (hhere : s.dev.hostHere 0 = true) (hready : s.dev.boot.st = .ready)
    (hbad : s.dev.barBad rid.toNat ap bar4Rd off len false = none) (hlen : 0 < len) (hbase : a = (s.dev.region (ap / 16) (ap % 16)).base + off)
    (hf : s.homeFree (a / 64) = true) (hfit : off % 64 + len ≤ 64) (halign : a % 64 = off % 64) (hpo : s.poison.contains (a / 64) = false) :
    ∃ t, exec (.bar4Read rid ap off len tag) s = .next t ∧ t.dev.out = s.dev.out ++ [.cpl tag "OK" (s.bytes a len)] ∧ t.dev.places = [] ∧ t.mem = s.mem := by
  obtain ⟨hs, hun⟩ := State.homeFree_iff hf
  have hpage : off / 4096 = (off + len - 1) / 4096 := by omega
  have hup : s.dev.link.st = .up := by
    unfold Dev.hostHere at hhere
    simp only [Bool.and_eq_true, beq_iff_eq] at hhere
    exact hhere.1.1
  obtain ⟨-, hnone, -⟩ := (Dev.quiet_iff _).mp (s.rests_quiet hs)
  obtain ⟨srv, f, -, hflush⟩ := Dev.flushPlaces_read (d := s.dev) (e := s.env) (n := ap / 16) (r := ap % 16) (off := off) (len := len) (a := a)
    { id := 0, bay := 0, slot := 0, lpa := 0, data := [], tag := some tag } hnone hbase hun hlen (by rw [halign]; exact hfit)
  rw [(s.bytes_env (s.rests_stores hs) a len), (State.line_env hs _).2.trans hpo] at hflush
  obtain ⟨y, hy⟩ : ∃ y : Dev, ({ s.dev with nextPlace := s.dev.nextPlace + 1, srv := srv, free := f } : Dev) = y := ⟨_, rfl⟩
  rw [hy] at hflush
  refine ⟨_, show execBar4Read rid ap off len tag s = _ from s.go_to _ (y.send (.cpl tag "OK" (s.bytes a len))) hs ?_ ?_ ?_, ?_, ?_, rfl⟩
  · rw [Dev.leadPlace_calm _ _ (s.rests_calm hs)]
    dsimp only
    rw [hhere, hready, ← hpage, hbad]
    simp only [Bool.not_true, Bool.false_eq_true, if_false, bne_self_eq_false]
    refine hflush.trans ?_
    exact y.hostSend_up _ (by rw [← hy]; exact hup) rfl
  · rw [← hy]; exact s.rests_quiet hs
  · rw [← hy]; exact s.rests_stores hs
  · rw [← hy]; rfl
  · rw [← hy]; exact hnone

/-! ### A placement performed -/

section
variable {s : State} {x : Place} {n : Fin 16}

/-- A placement write inside one line that nobody holds: its bytes stand, and it is no longer kept. -/
theorem placeApply_writes (hp : s.dev.places = [x]) (hdata : x.data ≠ []) (hfit : x.lpa % 64 + x.data.length ≤ 64)
    (hf : ({ s with dev := { s.dev with places := [] } } : State).homeFree (x.lpa / 64) = true) : ∃ y : Dev, ∃ r st srv f,
    y = { s.dev with places := [], stores := st, srv := srv, free := f, ridge := r } ∧ y.quiet = true ∧ s.env.calm = true ∧ s.dev.OdKept y ∧
    (∀ z : Dev, z.stores = y.stores → s.wrote (s.commit z) x.lpa x.data) ∧ s.dev.placeApply s.env x = (y.placeCount s.env x).placeReply x .ok [] false := by
  obtain ⟨hs, hun⟩ := State.homeFree_iff hf
  have hst0 : s.dev.stores = [] := State.rests_stores (s := { s with dev := { s.dev with places := [] } }) hs
  have hun' : s.dev.Unheld s.env (x.lpa / 64) := ⟨⟨hun.homed, hun.active, hun.txns, hun.waiting, hun.arrays, hun.calm⟩, hun.fresh, hun.dir, hun.sum, hun.whole⟩
  obtain ⟨p, srv, f, hw, hod⟩ := hun'.writeLines (w := .place x.id) (isl := x.isl) hdata hfit
  obtain ⟨m, hm⟩ : ∃ m, mergeMask (s.dev.bytes s.env (x.lpa / 64 * 64) 64) (zeros (x.lpa % 64) ++ x.data) (partMask (x.lpa % 64) x.data.length) = m := ⟨_, rfl⟩
  rw [hm] at hw
  have hturn : s.dev.placeTurn x = true := by
    unfold Dev.placeTurn
    rw [hp]
    simp
  obtain ⟨v, hv⟩ : ∃ v, s.dev.wroteOwn (x.lpa / 64) m p srv f = v := ⟨_, rfl⟩
  have hdrop : v.dropPlace x = { v with places := [] } := by
    unfold Dev.dropPlace
    rw [show v.places = [x] by rw [← hv]; exact hp, List.erase_cons_head]
  rw [hv] at hw
  refine ⟨{ v with places := [] }, v.ridge, v.stores, srv, f, by rw [← hv]; rfl, ?_, hun.calm, ?_, fun z hz => ?_, ?_⟩
  · rw [← hv]
    exact State.rests_quiet (s := { s with dev := { s.dev with places := [] } }) hs
  · rw [← hv]
    exact hod
  · refine State.wrote_own (p := p) hfit hst0 hm (hz.trans ?_)
    rw [← hv]
    show (if p then [] else [MemOp.clean (x.lpa / 64)]) ++ .write (x.lpa / 64 * 64) m :: s.dev.stores = _
    rw [hst0]
  · unfold Dev.placeApply
    rw [hturn, hw]
    show ((v.dropPlace x).placeCount s.env x).placeReply x .ok [] false = _
    rw [hdrop]

theorem placementApplied_go {z : Dev} (hp : s.dev.places = [x]) (hbay : x.bay = n.val) (hread : x.read = none) (hcalm : s.env.calm = true)
    (hz : s.dev.placeApply s.env x = z) : exec (.placementApplied n x.id) s = .next (s.commit (z.settle s.env)) := by
  show Host.Outcome.next (s.commit (Dev.settle _ s.env)) = _
  rw [Dev.leadIslands_calm _ _ hcalm]
  dsimp only
  have hfind : (s.dev.places.find? fun p => p.id == x.id && p.bay == n.val && p.read.isNone) = some x := by
    rw [hp]
    exact List.find?_cons_of_pos (by simp [hbay, hread])
  rw [hfind]
  dsimp only
  rw [hz]

theorem Dev.region_setRegion (d : Dev) (n r : Nat) (x : Region) : (d.setRegion n r x).region n r = x := by
  unfold Dev.region Dev.setRegion
  exact smGet_set_same ..

/-- A placement adds its count to the region, and by one ADD to its Spar. -/
theorem placement_counts {g : Region} (hp : s.dev.places = [x]) (hbay : x.bay = n.val) (hread : x.read = none) (hdata : x.data ≠ []) (hfit : x.lpa % 64 + x.data.length ≤ 64)
    (hreply : x.reply = none) (htag : x.tag = none) (hroce : x.roce = none) (hf : ({ s with dev := { s.dev with places := [] } } : State).homeFree (x.lpa / 64) = true)
    (hc : s.dev.courses = []) (hg : g = s.dev.region n x.slot)
    (hspar : g.spar = 0xFFFF ∨ ((s.dev.bay n).held.spar.has g.spar = true ∧ (s.dev.spar g.spar).armed = false ∧ (s.dev.spar g.spar).mirror = false)) :
    ∃ t, exec (.placementApplied n x.id) s = .next t ∧ s.wrote t x.lpa x.data ∧ t.dev.places = [] ∧ t.dev.region n x.slot = { g with arrived := g.arrived + x.count } ∧
      (∀ k, k ≠ g.spar → t.dev.spar k = s.dev.spar k) ∧
      (g.spar ≠ 0xFFFF → t.dev.spar g.spar = { s.dev.spar g.spar with value := (s.dev.spar g.spar).value + BitVec.ofNat 64 x.count }) := by
  obtain ⟨y, r, st, srv, f, hy, hq, hcalm, -, hwrote, happly⟩ := placeApply_writes hp hdata hfit hf
  have hgo := placementApplied_go hp hbay hread hcalm happly
  obtain ⟨v, hv⟩ : ∃ v, y.setRegion n x.slot { g with arrived := g.arrived + x.count } = v := ⟨_, rfl⟩
  have hvq : v.quiet = true := by rw [← hv]; exact hq
  have hvst : v.stores = y.stores := by rw [← hv]; rfl
  have hvp : v.places = [] := by rw [← hv, hy]; rfl
  have hvr : v.region n x.slot = { g with arrived := g.arrived + x.count } := by rw [← hv]; exact Dev.region_setRegion ..
  have hvs (k : Nat) : v.spar k = s.dev.spar k := by rw [← hv, hy]; rfl
  have hyr : y.region n x.slot = g := by rw [hy, hg]; rfl
  have hplain (d : Dev) : d.placeReply x .ok [] false = d := by
    unfold Dev.placeReply
    rw [hreply, htag, hroce]
  rw [hplain] at hgo
  by_cases hno : x.count = 0 ∨ g.spar = 0xFFFF
  · have hcount : y.placeCount s.env x = v := by
      unfold Dev.placeCount
      dsimp only
      rw [hbay, hyr, hv, if_pos (by rcases hno with h | h <;> simp [h])]
    rw [hcount, Dev.settle_quiet v s.env hvq] at hgo
    refine ⟨_, hgo, hwrote v hvst, hvp, hvr, fun k _ => hvs k, fun hne => ?_⟩
    have h0 : x.count = 0 := hno.resolve_right hne
    refine (hvs g.spar).trans ?_
    rw [h0, show (BitVec.ofNat 64 0) = 0#64 from rfl, BitVec.add_zero]
  · obtain ⟨h0, hne⟩ := not_or.mp hno
    obtain ⟨hheld, harmed, hmirror⟩ := hspar.resolve_left hne
    have hadd := v.sparAdd_plain s.env g.spar x.count (by rw [hvs]; exact harmed) (by rw [hvs]; exact hmirror) (by rw [← hv, hy]; exact hc)
    have hcount : y.placeCount s.env x = v.setSpar g.spar { v.spar g.spar with value := (v.spar g.spar).value + BitVec.ofNat 64 x.count } := by
      have hheld' : (v.bay n).held.spar.has g.spar = true := by rw [← hv, hy]; exact hheld
      unfold Dev.placeCount
      dsimp only
      rw [hbay, hyr, hv, hheld', if_neg (by simp [h0, hne])]
      exact hadd
    rw [hcount, Dev.settle_quiet _ s.env (Dev.quiet_sparValue v g.spar _ hvq)] at hgo
    refine ⟨_, hgo, hwrote _ hvst, hvp, hvr, fun k hk => ?_, fun _ => ?_⟩
    · refine Eq.trans ?_ (hvs k)
      show smGet {} (smSet {} v.spars g.spar _) k = smGet {} v.spars k
      exact smGet_set_other _ _ _ _ _ hk
    · rw [← hvs]
      show smGet {} (smSet {} v.spars g.spar _) g.spar = _
      exact smGet_set_same ..

/-- A placement that a Purlin access asked for is answered when it has been performed. -/
theorem placement_replies {f : Frame} {p' : Nat} (hp : s.dev.places = [x]) (hbay : x.bay = n.val) (hread : x.read = none) (hdata : x.data ≠ [])
    (hfit : x.lpa % 64 + x.data.length ≤ 64) (hreply : x.reply = some f) (htag : x.tag = none) (hroce : x.roce = none)
    (hf : ({ s with dev := { s.dev with places := [] } } : State).homeFree (x.lpa / 64) = true) (hr : s.route f.dst p' f.vc 0 = true) (hspar : (s.dev.region n x.slot).spar = 0xFFFF) :
    ∃ t, exec (.placementApplied n x.id) s = .next t ∧ s.wrote t x.lpa x.data ∧ t.dev.places = [] ∧
      s.sent t p' { f with st := 0, payload := [], poison := false, src := s.dev.fabId, hops := s.dev.od 0x2A00 5 } := by
  obtain ⟨y, r, st, srv, fr, hy, hq, hcalm, hod, hwrote, happly⟩ := placeApply_writes hp hdata hfit hf
  have hgo := placementApplied_go hp hbay hread hcalm happly
  have hyr : (y.region n x.slot).spar = 0xFFFF := by rw [hy]; exact hspar
  obtain ⟨v, hv⟩ : ∃ v, y.setRegion n x.slot { y.region n x.slot with arrived := (y.region n x.slot).arrived + x.count } = v := ⟨_, rfl⟩
  have hcount : y.placeCount s.env x = v := by
    unfold Dev.placeCount
    dsimp only
    rw [hbay, hv, if_pos (by simp [hyr])]
  have hreplied : v.placeReply x .ok [] false = v.originate { f with st := 0, payload := [], len := 0, poison := false } := by
    unfold Dev.placeReply
    rw [hreply, htag, hroce]
    rfl
  obtain ⟨g, hg⟩ : ∃ g : Frame, ({ f with st := 0, payload := [], len := 0, poison := false, src := s.dev.fabId, hops := s.dev.od 0x2A00 5 } : Frame) = g := ⟨_, rfl⟩
  have horig : v.originate { f with st := 0, payload := [], len := 0, poison := false } = v.switch g := by
    have hodv : v.od 0x2A00 5 = s.dev.od 0x2A00 5 := by
      rw [← hv]
      exact hod 0x2A00 5 (by decide) (by decide)
    unfold Dev.originate
    rw [hodv, ← hg, ← hv, hy]
    rfl
  unfold State.route at hr
  simp only [Bool.and_eq_true, Bool.not_eq_true', beq_iff_eq, List.isEmpty_iff, decide_eq_true_eq] at hr
  obtain ⟨⟨⟨hqueue, hlist⟩, hqueued⟩, hroom⟩ := hr
  obtain ⟨k, hout⟩ := v.switch_sends g (p := p') (by rw [← hv, hy, ← hg]; exact hqueue) (by rw [← hv, hy, ← hg]; exact hlist) (by rw [← hv, hy]; exact hqueued)
    (by rw [← hv, hy, ← hg]; exact hroom)
  have htraffic := v.traffic_switch g
  have hqt : (v.switch g).QuietButTimers := (v.quietButTimers_of_quiet (by rw [← hv]; exact hq)).traffic htraffic
  rw [hcount, hreplied, horig, hqt.settle] at hgo
  refine ⟨_, hgo, hwrote _ ?_, ?_, k, ?_⟩
  · refine Eq.trans ?_ (htraffic.stores.trans (by rw [← hv]; rfl))
    rfl
  · refine Eq.trans ?_ ((congrArg Dev.places htraffic.bare :).trans (by rw [← hv, hy]; rfl))
    rfl
  · refine Eq.trans (b := (v.switch g).out) rfl (hout.trans ?_)
    rw [← hv, hy, ← hg]
    rfl

end

/-- Settles O55: what each access does at its home, which nobody else keeps busy. -/
theorem placementRoutes : Obligations.PlacementRoutes := by
  refine ⟨fun p k n i r ok s h hpsn hfirst hmsg hlen hlast hslot hbad => ?_, fun p k n i r off left len s h hpsn hfirst hmsg hlen hlast hlate => ?_,
    fun p k n i a s h hpsn ha ha' => rdmaWrite_naks h hpsn ha ha', fun p k n i r ok s h hpsn hmsg hslot hbad => ?_,
    fun rid ap off data s hs hhere hready hdata hfit hbad => ?_, fun rid ap off len tag s hhere hready hbad hlen => ?_,
    fun n x s hp hbay hread hdata hfit hreply htag hroce hf hc => ?_,
    fun n x f p' s hp hbay hread hdata hfit hreply htag hroce hf hr hspar => placement_replies hp hbay hread hdata hfit hreply htag hroce hf hr hspar⟩
  · refine rdmaWrite_places h hpsn fun c srv f hc => ?_
    have hmsg' : (c.qp n i).msg = none := by rw [hc]; exact hmsg
    have hslot' : c.rkeySlot n k.rkey = some (r, ok) := by rw [hc]; exact hslot
    have hbad' : c.placeBad n r roceWr ok k.va k.dmaLen true = none := by rw [hc]; exact hbad
    have hlast' : (k.last && k.data.length != k.dmaLen) = false := by
      cases hl : k.last with
      | false => rfl
      | true => simp [hlast hl]
    unfold Dev.roceWrite
    rw [hfirst, hmsg', hlast', if_pos rfl, if_neg (by simpa using hlen), hslot']
    dsimp only
    rw [hbad']
  · refine rdmaWrite_places h hpsn fun c srv f hc => ?_
    have hmsg' : (c.qp n i).msg = some (r, off, left, len) := by rw [hc]; exact hmsg
    have hlate' : c.placeLate n r off k.data.length true = none := by rw [hc]; exact hlate
    have hlast' : (k.last && k.data.length != left) = false := by
      cases hl : k.last with
      | false => rfl
      | true => simp [hlast hl]
    unfold Dev.roceWrite
    rw [hfirst, hmsg', if_neg (by decide)]
    dsimp only
    rw [hlast', if_neg (by simpa using hlen), hlate']
  · intro a hf hlen hfit hpo
    exact rdmaRead_answers h hpsn hmsg hslot hbad rfl hf hlen hfit hpo
  · exact bar4Write_places hs hhere hready hdata hfit hbad rfl
  · intro a hf hfit halign hpo
    exact bar4Read_answers hhere hready hbad hlen rfl hf hfit halign hpo
  · intro g hspar
    exact placement_counts hp hbay hread hdata hfit hreply htag hroce hf hc rfl hspar

end Sys2Proof.Machine
end

section
/-! PROOF. A GET whose region's slot the table of regions lists twice is served from the slot's first entry, not from the one that holds its
address: O53 does not hold. -/
namespace Sys2Proof.Machine

/-- A region of 4 KiB that a GET with key 0 may read. -/
def openRegion (base : Nat) : Region := { base := base, ctl := 2 ^ 22, st := .open_ }

/-- In service on port 0 with ID 1, and a route by it to device 2; the table of regions lists Bay 0's slot 0 twice, at 0x1000 and at 0; byte 0 of
memory is 1. -/
def listedTwice : State :=
  { servingState with
    mem := [(0, 1)]
    dev := { servingState.dev with
      bays := [(0, { st := .idle })]
      fabric := { id := some 1, routes := [(2, 1)], ports := [(0, { st := .inService })] }
      regions := [(0, openRegion 0x1000), (0, openRegion 0)] } }

/-- Device 2 asks for the byte at 0. -/
def getFirst : Frame := { ty := 0x21, vc := 4, src := 2, dst := 1, hops := 1, payload := leBytes 4 1, len := 4 }

/-- The payload of a frame that goes out. -/
def payloadOf : Out → Option (List Byte)
  | .frame _ f => some f.payload
  | _ => none

/-- The payloads of the frames that an outcome sends. -/
def sentPayloads : Outc → Option (List (List Byte))
  | .next t => some (t.dev.out.filterMap payloadOf)
  | _ => none

theorem getFirst_reads_other : sentPayloads (exec (.get 0 getFirst) listedTwice) = some [[0]] := by decide +kernel

/-- Refutes O53: its clause of the GET takes the region that the address finds for the one that the slot's number finds. -/
theorem not_fabricRequestsAndIdentity : ¬ Obligations.FabricRequestsAndIdentity := by
  unfold Obligations.FabricRequestsAndIdentity
  rintro ⟨-, hget, -⟩
  obtain ⟨t, ht, ⟨k, hout⟩, -⟩ := hget 0 getFirst 0 0 0 listedTwice (by decide +kernel) rfl (by decide +kernel) (by decide +kernel) (by decide +kernel) (by decide)
    (by decide +kernel) (by decide +kernel)
  have hsent := getFirst_reads_other
  rw [ht] at hsent
  have hzero : t.dev.out.filterMap payloadOf = [[0]] := Option.some.inj hsent
  have hone : listedTwice.bytes 0 1 = [1] := by decide +kernel
  rw [hout] at hzero
  have hbytes : [listedTwice.bytes 0 1] = [[0]] := hzero
  rw [hone] at hbytes
  exact absurd hbytes (by decide)

end Sys2Proof.Machine
end

section
/-! PROOF. Walks, invalidations and page requests (R222 to R258): O33. -/
namespace Sys2Proof.Machine

/-! ### A walk that reads a local leaf -/

section
variable {d : Dev} {e : Env} {line : Nat}

/-- An island of this device reads a line that nobody holds. -/
theorem Dev.Unheld.ncAccess (h : d.Unheld e line) (w : Who) {q : HomeReq} (hop : q.op = .ncRead) (hecc : q.ecc = true) (hself : q.self = false) :
    ∃ c srv f, c = { d with srv := srv, free := f } ∧ d.OdKept c ∧
      d.ncAccess e w line q = (.data (d.bytes e (line * 64) 64) (d.poisoned e line), c) := by
  obtain ⟨c, srv, f, hc, hod, hread⟩ := h.ownRead (q := { q with who := some w }) (w := w) hop ⟨rfl, hself, hecc⟩
  have hnone : d.takeFresh w line = (none, d) := by
    unfold Dev.takeFresh
    rw [h.fresh]
    rfl
  have hasking : d.asking w line = false := by
    unfold Dev.asking
    rw [h.txns, h.waiting]
    rfl
  have hserves : d.islAnswer (272 + sliceOf line) = none := by
    unfold Dev.islAnswer
    rw [h.active]
  obtain ⟨x, hx⟩ : ∃ x, c.setRidge { c.ridge with fresh := [(w, line, d.bytes e (line * 64) 64, d.poisoned e line, Status.ok)] } = x := ⟨_, rfl⟩
  have htake : x.takeFresh w line = (some (d.bytes e (line * 64) 64, d.poisoned e line, Status.ok), c) := by
    unfold Dev.takeFresh
    rw [show x.ridge.fresh = [(w, line, d.bytes e (line * 64) 64, d.poisoned e line, Status.ok)] by rw [← hx]; rfl, List.find?_cons_of_pos (by simp)]
    dsimp only
    rw [List.erase_cons_head, ← hx]
    refine congrArg (Prod.mk _) ?_
    show c.setRidge { c.ridge with fresh := [] } = c
    rw [← h.fresh, show d.ridge.fresh = c.ridge.fresh by rw [hc]]
    rfl
  refine ⟨c, srv, f, hc, hod, ?_⟩
  unfold Dev.ncAccess
  simp only [hnone, hasking, hserves, Bool.false_eq_true, if_false]
  rw [hread, hx, htake]
  simp [hop]

end

/-- An empty Device TLB takes an entry into the first way of the Bay's mask. -/
theorem Dev.fillTlb_first {d : Dev} {x : Tlb} (dva : Nat) (htlb : d.trans.tlb = []) (hmask : bit (d.od (0x2310 + x.bay) 9) 0 = true) :
    d.fillTlb x dva = d.setTrans { d.trans with tlb := [{ x with way := 0, stamp := d.trans.stamp + 1 }], stamp := d.trans.stamp + 1 } := by
  unfold Dev.fillTlb
  dsimp only
  rw [htlb]
  have hfind : ((List.range 8).find? fun w => bit (d.od (0x2310 + x.bay) 9) w && !(([] : List Tlb).any fun y => y.set == x.set && y.way == w)) = some 0 := by
    rw [show List.range 8 = 0 :: [1, 2, 3, 4, 5, 6, 7] from rfl, List.find?_cons_of_pos (by simp [hmask])]
  rw [List.filter_nil, hfind]

/-- The one walk under way is over. -/
theorem Dev.dropWalk_one {d : Dev} {k : Walk} (h : d.trans.walks = [k]) : d.dropWalk k.id = d.setTrans { d.trans with walks := [] } := by
  unfold Dev.dropWalk
  rw [h, List.filter_cons_of_neg (by simp)]
  rfl

/-- A translation of the page of a DVA serves an access of it. -/
theorem Tlb.hit_page {x : Tlb} {n sp dva : Nat} {write : Bool} (hb : x.bay = n) (hs : x.space = sp) (hva : x.va = dva / 2 ^ x.log * 2 ^ x.log)
    (hp : (if write then x.w else x.r) = true) : x.hit n sp dva write = true := by
  have hpos : 0 < 2 ^ x.log := Nat.two_pow_pos _
  have hdiv := Nat.div_add_mod dva (2 ^ x.log)
  have hmod := Nat.mod_lt dva hpos
  have hmul : dva / 2 ^ x.log * 2 ^ x.log = 2 ^ x.log * (dva / 2 ^ x.log) := Nat.mul_comm ..
  unfold Tlb.hit
  rw [hb, hs, hp, hva, hmul]
  generalize 2 ^ x.log * (dva / 2 ^ x.log) = m at *
  generalize 2 ^ x.log = p at *
  simp
  omega

/-- A walk that reads a local leaf with the permission asked for fills the Device TLB. -/
theorem lathWalk_fills {k : Walk} {s : State} (hw : s.dev.trans.walks = [k]) (hlevel : k.level ≤ 2) (hleaf : k.leaf = none) (htable : k.table % 4096 = 0)
    (hf : s.homeFree ((k.table + walkIdx k.dva k.level * 8) / 64) = true) (hpo : s.poison.contains ((k.table + walkIdx k.dva k.level * 8) / 64) = false)
    (htlb : s.dev.trans.tlb = []) (hmask : bit (s.dev.od (0x2310 + k.bay) 9) 0 = true) {v : Nat} (hv : v = s.walkEntry k) (h0 : bit v 0 = true) (h1 : bit v 1 = true)
    (hbad : lathBad v k.level = false) (h7 : bit v 7 = false) (hkind : bits v 5 4 = 0) (hperm : bit v (if k.write then 3 else 2) = true) :
    ∃ t x, exec (.lathWalkEnd k.id false) s = .next t ∧ t.dev.trans.tlb = [x] ∧ t.dev.trans.walks = [] ∧ x.hit k.bay k.space k.dva k.write = true ∧
      t.dev.trOf x k.dva = .loc (bits v 59 12 * 4096 + k.dva % 2 ^ (12 + 9 * k.level)) ∧ t.mem = s.mem := by
  obtain ⟨hs, hun⟩ := State.homeFree_iff hf
  obtain ⟨a, ha⟩ : ∃ a, a = k.table + walkIdx k.dva k.level * 8 := ⟨_, rfl⟩
  rw [← ha] at hf hpo hun
  obtain ⟨c, srv, f, hc, hod, hread⟩ := hun.ncAccess (.walker k.id) (q := { op := .ncRead, a := 330, ecc := !false }) rfl rfl rfl
  obtain ⟨hb, hp⟩ := State.line_env hs (a / 64)
  have hentry : fld ((List.range 64).map fun i => s.byte (a / 64 * 64 + i)) (a % 64) 8 = v := by
    unfold fld
    rw [map_range_slice s.byte (a / 64 * 64) (by omega), hv]
    unfold State.walkEntry
    rw [← ha, show a / 64 * 64 + a % 64 = a by omega]
  have hwr : s.dev.walkRead s.env k a false = (some (v, false), c) := by
    unfold Dev.walkRead
    rw [hread, hb, hp, hpo]
    dsimp only
    rw [hentry]
  have hstep : s.dev.walkStep s.env k false = (.leaf v k.level false, c) := by
    unfold Dev.walkStep
    rw [hleaf]
    dsimp only
    rw [if_neg (by omega), ← ha, hwr]
    dsimp only
    rw [h0, hbad, h1, h7]
    simp
  have hrun : s.dev.walkRun s.env k false 7 = (.leaf v k.level false, c) := by
    unfold Dev.walkRun
    rw [Bool.false_and, hstep]
  -- the entry that the leaf makes
  obtain ⟨x, hx⟩ : ∃ x : Tlb, x = ⟨k.bay, k.space, k.dva / 2 ^ (12 + 9 * k.level) * 2 ^ (12 + 9 * k.level), 12 + 9 * k.level, 0, 0,
    bits v 59 12 * 4096 / 2 ^ (12 + 9 * k.level) * 2 ^ (12 + 9 * k.level), bit v 2, bit v 3, bit v 6, false, false,
    bits v 59 12 * 4096 / 2 ^ (12 + 9 * k.level) * 2 ^ (12 + 9 * k.level), 0⟩ := ⟨_, rfl⟩
  obtain ⟨y, hy⟩ : ∃ y, (c.dropAnew k).dropWalk k.id = y := ⟨_, rfl⟩
  have hleafs : c.walkLeaf s.env k v k.level false = (.filled, y.fillTlb x k.dva) := by
    unfold Dev.walkLeaf
    dsimp only
    rw [hkind, if_neg (by cases hw : k.write <;> rw [hw] at hperm <;> simpa using hperm), if_pos (by decide), hy, hx]
    rfl
  have hyw : y = (c.dropAnew k).setTrans { (c.dropAnew k).trans with walks := [] } := by
    rw [← hy]
    exact Dev.dropWalk_one (by rw [hc]; exact hw)
  have hfill := Dev.fillTlb_first (d := y) (x := x) k.dva (by rw [hyw, hc]; exact htlb)
    (by rw [hyw, hx]; exact (congrArg (bit · 0) (hod _ 9 (by decide) (by simp))).trans hmask)
  have hmod : bits v 59 12 * 4096 % 2 ^ (12 + 9 * k.level) = 0 := by
    unfold lathBad at hbad
    simp only [h1, hkind, if_true, Bool.or_eq_false_iff, bne_eq_false_iff_eq] at hbad
    omega
  have hstruck : s.env.tick.any k.struck = false := Walk.struck_calm k _ (s.rests_calm hs)
  refine ⟨_, { x with way := 0, stamp := y.trans.stamp + 1 }, show execLathWalkEnd k.id false s = _ from s.go_to _ (y.setTrans { y.trans with tlb := [{ x with way := 0, stamp := y.trans.stamp + 1 }], stamp := y.trans.stamp + 1 }) hs ?_ (by rw [hyw, hc]; exact s.rests_quiet hs)
    (by rw [hyw, hc]; exact s.rests_stores hs), rfl, by rw [hyw]; rfl, ?_, ?_, rfl⟩
  · rw [hw, List.find?_cons_of_pos (by simp)]
    dsimp only
    rw [hstruck, if_neg (by decide)]
    unfold Dev.walkEnd
    rw [hrun]
    dsimp only
    rw [hleafs, hfill]
    rfl
  · exact Tlb.hit_page (by rw [hx]) (by rw [hx]) (by rw [hx]) (by rw [hx]; cases hw : k.write <;> rw [hw] at hperm <;> exact hperm)
  · rw [hx]
    show Tr.loc (bits v 59 12 * 4096 / 2 ^ (12 + 9 * k.level) * 2 ^ (12 + 9 * k.level) + (k.dva - k.dva / 2 ^ (12 + 9 * k.level) * 2 ^ (12 + 9 * k.level))) = _
    have hsub : k.dva - k.dva / 2 ^ (12 + 9 * k.level) * 2 ^ (12 + 9 * k.level) = k.dva % 2 ^ (12 + 9 * k.level) := by
      have hdiv := Nat.div_add_mod k.dva (2 ^ (12 + 9 * k.level))
      rw [Nat.mul_comm]
      omega
    rw [Nat.div_mul_cancel (Nat.dvd_of_mod_eq_zero hmod), hsub]

/-! ### A walk whose root is not valid -/

theorem odSize_faultBooks {n : Nat} (hn : n < 16) : odSize (0x2310 + n) 0xC = 4 ∧ odSize (0x2310 + n) 0xB = 4 ∧ odSize 0x2300 6 = 4 ∧ odSize (0x2330 + n) 7 = 4 := by
  revert n
  decide

theorem Dev.dropWalk_trans (d : Dev) (id : Nat) : d.dropWalk id = d.setTrans { d.trans with walks := d.trans.walks.filter (·.id != id) } := rfl

/-- A sink whose root is not valid: the fault is recorded for its Bay, and the sink stops. -/
theorem lathWalk_faults {k : Walk} {n : Nat} {s : State} (hs : s.rests = true) (hw : s.dev.trans.walks = [k]) (hlevel : k.level = 4) (hleaf : k.leaf = none)
    (hwho : k.who = .sink n) (hbay : k.bay = n) (hn : n < 16) (hroot : bit (s.dev.od (0x2310 + n) (k.space + 1)) 0 = false) (hroom : s.dev.od (0x2310 + n) 0xC + 1 < 2 ^ 32)
    (hevt : s.dev.bayEvt n = false) :
    ∃ t, exec (.lathWalkEnd k.id false) s = .next t ∧ t.dev.trans.walks = [] ∧ t.dev.od (0x2310 + n) 0xC = s.dev.od (0x2310 + n) 0xC + 1 ∧
      t.dev.od (0x2310 + n) 0xD = k.dva ∧ t.dev.od (0x2310 + n) 0xE = kNotPresent + 256 * k.space + 1024 * 3 + 4096 * b2n k.write ∧
      (t.dev.jour n).faulted = true ∧ t.mem = s.mem := by
  have hend : s.dev.walkEnd s.env k false = (.fault kNotPresent 3, s.dev) := by
    have hstep : s.dev.walkStep s.env k (false && k.level != 4) = (.fault kNotPresent 3, s.dev) := by
      unfold Dev.walkStep
      rw [hleaf]
      dsimp only
      rw [if_pos hlevel, hbay, hroot]
      simp
    unfold Dev.walkEnd Dev.walkRun
    rw [hstep]
  obtain ⟨c, hc⟩ : ∃ c, s.dev.setTrans { s.dev.trans with walks := [] } = c := ⟨_, rfl⟩
  obtain ⟨y, hy⟩ : ∃ y, c.noteFault n k.space k.dva kNotPresent 3 k.write = y := ⟨_, rfl⟩
  have hyd : ∃ srv f, y = { c with srv := srv, free := f } := by
    obtain ⟨v, srv, f, hv, hv'⟩ := c.count_eq (0x2310 + n) 0xC 1
    rw [← hy]
    unfold Dev.noteFault
    rw [hv, hv']
    exact ⟨_, _, rfl⟩
  obtain ⟨srv, f, hyd⟩ := hyd
  have hod : y.od (0x2310 + n) 0xC = s.dev.od (0x2310 + n) 0xC + 1 ∧ y.od (0x2310 + n) 0xD = k.dva ∧
      y.od (0x2310 + n) 0xE = kNotPresent + 256 * k.space + 1024 * 3 + 4096 * b2n k.write ∧ ∀ i j, j < 256 → i < 0x2310 → y.od i j = s.dev.od i j := by
    have hcod (i j : Nat) : c.od i j = s.dev.od i j := by rw [← hc]; rfl
    rw [← hy]
    unfold Dev.noteFault
    refine ⟨?_, ?_, Dev.setOd_od .., fun i j hj hi => ?_⟩
    · rw [Dev.setOd_od_other _ _ (by decide) (by decide) (by simp), Dev.setOd_od_other _ _ (by decide) (by decide) (by simp),
        Dev.count_od_32 _ (by rw [(odSize_faultBooks hn).1]) (by rw [hcod]; exact hroom), hcod]
    · rw [Dev.setOd_od_other _ _ (by decide) (by decide) (by simp), Dev.setOd_od]
    · rw [Dev.setOd_od_other _ _ hj (by decide) (by rw [ne_eq, Prod.mk.injEq]; omega), Dev.setOd_od_other _ _ hj (by decide) (by rw [ne_eq, Prod.mk.injEq]; omega),
        Dev.count_od_other _ 1 hj (by decide) (by rw [ne_eq, Prod.mk.injEq]; omega), hcod]
  obtain ⟨hC, hD, hE, hlow⟩ := hod
  obtain ⟨z, hz⟩ : ∃ z, y.setJour n { y.jour n with faulted := true } = z := ⟨_, rfl⟩
  obtain ⟨o, l, hsig, hl⟩ := z.raiseBay_signals n 5 (by
    rw [← hevt, ← hz]
    unfold Dev.bayEvt Dev.ownerLink Dev.attachMode
    rw [show (y.setJour n { y.jour n with faulted := true }).od (0x2100 + n) 5 = s.dev.od (0x2100 + n) 5 from hlow _ _ (by decide) (by omega),
      show (y.setJour n { y.jour n with faulted := true }).board = s.dev.board by rw [hyd, ← hc]; rfl])
  have heff : s.dev.walkAnswer s.env k 0 (.fault kNotPresent 3) = z.raiseBay n 5 := by
    have hdrop : s.dev.dropWalk k.id = c := by rw [Dev.dropWalk_one hw, hc]
    unfold Dev.walkAnswer Dev.walkError Dev.transFault Dev.mayHalt
    dsimp only
    rw [hwho, hbay, hdrop]
    show (c.noteFault n k.space k.dva kNotPresent 3 k.write).sinkFault n = _
    rw [hy]
    unfold Dev.sinkFault
    rw [hz]
  refine ⟨_, show execLathWalkEnd k.id false s = _ from s.go_to _ (z.raiseBay n 5) hs ?_ ?_ ?_, ?_, ?_, ?_, ?_, ?_, rfl⟩
  · rw [hw, List.find?_cons_of_pos (by simp)]
    dsimp only
    rw [Walk.struck_calm k _ (s.rests_calm hs), if_neg (by decide), hend]
    exact heff
  · refine Dev.Signalled.quiet ⟨o, l, hsig, hl⟩ ?_
    rw [← hz, hyd, ← hc]
    exact s.rests_quiet hs
  · rw [hsig, ← hz, hyd, ← hc]
    exact s.rests_stores hs
  · show (z.raiseBay n 5).trans.walks = []
    rw [hsig, ← hz, hyd, ← hc]
    rfl
  · refine Eq.trans ?_ hC
    show (z.raiseBay n 5).od _ _ = _
    rw [hsig, ← hz]
    rfl
  · refine Eq.trans ?_ hD
    show (z.raiseBay n 5).od _ _ = _
    rw [hsig, ← hz]
    rfl
  · refine Eq.trans ?_ hE
    show (z.raiseBay n 5).od _ _ = _
    rw [hsig, ← hz]
    rfl
  · show ((z.raiseBay n 5).jour n).faulted = true
    rw [hsig, ← hz]
    show (smGet {} (smSet {} y.journals n _) n).faulted = true
    rw [smGet_set_same]

/-! ### Translations that the host grants, and invalidations -/

section
variable {s : State}

/-- A translation that the host grants fills the Device TLB. -/
theorem translationCompletion_fills {tag hpa log : Nat} {q : TReq} (hs : s.rests = true) (hq : s.dev.trans.treqs = [q]) (htag : q.tag = tag) (hgone : q.gone = false)
    (hdead : q.dead = false) (hstale : q.stale = false) (hlog : 12 ≤ log) (hle : q.log ≤ log) (htlb : s.dev.trans.tlb = [])
    (hmask : bit (s.dev.od (0x2310 + q.walk.bay) 9) 0 = true) (hr : q.r = true) (hw : q.w = true) (hide : s.dev.link.ideBad = []) :
    ∃ t x, exec (.translationCompletion tag false hpa (2 ^ log) true true) s = .next t ∧ t.dev.trans.treqs = [] ∧ t.dev.trans.tlb = [x] ∧
      x.hit q.walk.bay q.walk.space q.walk.dva q.walk.write = true ∧ x.ats = true ∧ x.kind = 1 ∧ t.mem = s.mem := by
  have hsize : (false || decide (2 ^ log < 4096) || (2 ^ Nat.log2 (2 ^ log) != 2 ^ log)) = false := by
    have hpow : 2 ^ 12 ≤ 2 ^ log := Nat.pow_le_pow_right (by decide) hlog
    rw [Nat.log2_two_pow, bne_self_eq_false, Bool.or_false, Bool.false_or, decide_eq_false_iff_not]
    omega
  obtain ⟨c, hc⟩ : ∃ c, s.dev.setTrans { s.dev.trans with treqs := [] } = c := ⟨_, rfl⟩
  have hdrop : s.dev.setTrans { s.dev.trans with treqs := s.dev.trans.treqs.filter (·.tag != q.tag) } = c := by
    rw [hq, List.filter_cons_of_neg (by simp), ← hc]
    rfl
  obtain ⟨va, hva⟩ : ∃ va, va = q.walk.dva / 2 ^ q.log * 2 ^ q.log := ⟨_, rfl⟩
  obtain ⟨host, hhost⟩ : ∃ host, host = q.host + (va - va) := ⟨_, rfl⟩
  obtain ⟨x, hx⟩ : ∃ x : Tlb, x = ⟨q.walk.bay, q.walk.space, va, q.log, 0, 1, hpa / 2 ^ log * 2 ^ log + host % 2 ^ log, true, true, q.coh, true, false, host, 0⟩ := ⟨_, rfl⟩
  have hdone : s.dev.transDone q false hpa log true true = (.filled, (c.dropAnew q.walk).fillTlb x q.walk.dva) := by
    unfold Dev.transDone
    dsimp only
    rw [hdrop, hr, hw, Nat.min_eq_left hle, ← hva, ← hhost, hx]
    simp
  have hfill := Dev.fillTlb_first (d := c.dropAnew q.walk) (x := x) q.walk.dva (by rw [← hc]; exact htlb) (by rw [← hc, hx]; exact hmask)
  obtain ⟨y, hy⟩ : ∃ y, c.dropAnew q.walk = y := ⟨_, rfl⟩
  rw [hy] at hdone hfill
  refine ⟨_, { x with way := 0, stamp := y.trans.stamp + 1 }, show execTranslationCompletion tag false hpa (2 ^ log) true true s = _ from s.go_to _
    (y.setTrans { y.trans with tlb := [{ x with way := 0, stamp := y.trans.stamp + 1 }], stamp := y.trans.stamp + 1 }) hs ?_ (by rw [← hy, ← hc]; exact s.rests_quiet hs)
    (by rw [← hy, ← hc]; exact s.rests_stores hs), by rw [← hy, ← hc]; rfl, rfl, Tlb.hit_page (by rw [hx]) (by rw [hx]) (by rw [hx]; exact hva) (by rw [hx]; simp),
    by rw [hx], by rw [hx], rfl⟩
  dsimp only
  rw [Dev.leadInval_calm _ _ (s.rests_calm hs), hq, List.find?_cons_of_pos (by simp [htag])]
  dsimp only
  rw [hsize, Dev.insecure_none hide]
  simp only [hgone, hdead, hstale, Bool.false_eq_true, if_false, Bool.false_and, Nat.log2_two_pow, hdone, hfill]
  rfl

/-- The translations of a function that came by ATS and whose host range an invalidation meets. -/
def atsNamed (n base size : Nat) (x : Tlb) : Bool := x.bay == n && x.ats && true && (Nat.blt x.host (base + size) && Nat.blt base (x.host + 2 ^ x.log))

theorem atsNamed_iff {n base size : Nat} {x : Tlb} : atsNamed n base size x = true ↔ x.bay = n ∧ x.ats = true ∧ x.host < base + size ∧ base < x.host + 2 ^ x.log := by
  unfold atsNamed
  rw [Bool.and_true, Bool.and_eq_true, Bool.and_eq_true, Bool.and_eq_true, beq_iff_eq, Nat.blt_eq, Nat.blt_eq, and_assoc]

/-- An invalidation that the host asks for: every translation that it names goes, and it is kept until its accesses are over. -/
theorem atsInvalidateRequest_drops {n : Fin 16} {itag base size : Nat} (hs : s.rests = true) (hup : s.dev.link.st = .up) (hide : s.dev.link.ideBad = [])
    (hroom : s.dev.od 0x2300 6 + 1 < 2 ^ 32) :
    ∃ t i, exec (.atsInvalidateRequest n itag none base size) s = .next t ∧ t.dev.trans.invals = s.dev.trans.invals ++ [i] ∧ i.bay = n.val ∧ i.ats = true ∧
      i.itag = itag ∧ t.dev.od 0x2300 6 = s.dev.od 0x2300 6 + 1 ∧
      (∀ x, x ∈ t.dev.trans.tlb ↔ x ∈ s.dev.trans.tlb ∧ ¬ (x.bay = n.val ∧ x.ats = true ∧ x.host < base + size ∧ base < x.host + 2 ^ x.log)) ∧
      (∀ q ∈ t.dev.trans.treqs, q.walk.bay = n.val → q.host < base + size → base < q.host + 2 ^ q.log → q.stale = true) ∧ t.mem = s.mem := by
  obtain ⟨c, hc⟩ : ∃ c, s.dev.dropTlb (atsNamed n base size) = c := ⟨_, rfl⟩
  obtain ⟨y, srv, f, hy, hy'⟩ := c.count_eq 0x2300 6 1
  obtain ⟨o, ho⟩ : ∃ o, s.dev.openAccesses (s.dev.allTlb.filter (atsNamed n base size)) = o := ⟨_, rfl⟩
  obtain ⟨i, hi⟩ : ∃ i : Inval, i = { bay := n, space := 0, ats := true, itag := itag, tags := o.1, tns := o.2.1, lines := o.2.2 } := ⟨_, rfl⟩
  obtain ⟨z, hz⟩ : ∃ z, y.setTrans { y.trans with
      treqs := y.trans.treqs.map fun (t : TReq) => ({ t with stale := t.stale || (t.walk.bay == n && true && (Nat.blt t.host (base + size) && Nat.blt base (t.host + 2 ^ t.log))) } : TReq)
      invals := y.trans.invals ++ [i] } = z := ⟨_, rfl⟩
  have heff : s.dev.atsInvalidate n itag none base size = z := by
    unfold Dev.atsInvalidate
    rw [hup, Dev.insecure_none hide, if_neg (by decide), ← hz, ← hy, ← hc, hi, ← ho]
    rfl
  refine ⟨_, i, show execAtsInvalidateRequest n itag none base size s = _ from s.go_to _ z hs ((Dev.turn_rests _ _ _ _ (State.rests_ahead hs)).trans heff) ?_ ?_,
    ?_, by rw [hi], by rw [hi], by rw [hi], ?_, fun x => ?_, fun q hq hbay hlo hhi => ?_, rfl⟩
  · rw [← hz, hy', ← hc]; exact s.rests_quiet hs
  · rw [← hz, hy', ← hc]; exact s.rests_stores hs
  · show z.trans.invals = _
    rw [← hz, hy', ← hc]
    rfl
  · have hcod : c.od 0x2300 6 = s.dev.od 0x2300 6 := by rw [← hc]; rfl
    have hyod : y.od 0x2300 6 = s.dev.od 0x2300 6 + 1 := by
      rw [← hy, Dev.count_od_32 _ (by decide) (by rw [hcod]; exact hroom), hcod]
    refine Eq.trans ?_ hyod
    show z.od 0x2300 6 = _
    rw [← hz]
    rfl
  · show x ∈ z.trans.tlb ↔ _
    rw [← hz, hy', ← hc, ← atsNamed_iff]
    show x ∈ s.dev.trans.tlb.filter (fun x => !atsNamed n base size x) ↔ _
    rw [List.mem_filter, Bool.not_eq_true', Bool.not_eq_true]
  · have hq' : q ∈ z.trans.treqs := hq
    rw [← hz] at hq'
    obtain ⟨t, -, ht⟩ := List.mem_map.mp hq'
    rw [← ht] at hbay hlo hhi ⊢
    have hb : (t.walk.bay == n.val) = true := beq_iff_eq.mpr hbay
    have hl : Nat.blt t.host (base + size) = true := Nat.blt_eq.mpr hlo
    have hh : Nat.blt base (t.host + 2 ^ t.log) = true := Nat.blt_eq.mpr hhi
    show (t.stale || (t.walk.bay == n.val && true && (Nat.blt t.host (base + size) && Nat.blt base (t.host + 2 ^ t.log)))) = true
    rw [hb, hl, hh]
    simp

theorem atsInvalidateComplete_answers {n : Fin 16} {itag : Nat} {i : Inval} (hs : s.rests = true) (hup : s.dev.link.st = .up) (hide : s.dev.link.ideBad = [])
    (hi : (s.dev.trans.invals.find? fun i => i.bay == n.val && i.ats && i.itag == itag) = some i) (hdone : s.dev.invalDone i = true) :
    exec (.atsInvalidateComplete n itag) s =
      .next { s with dev := ({ s.dev with trans := { s.dev.trans with invals := s.dev.trans.invals.erase i } } : Dev).send (.invalCpl (n + 1) itag) } := by
  refine show execAtsInvalidateComplete n itag s = _ from s.go_to _ _ hs ?_ (s.rests_quiet hs) (s.rests_stores hs)
  rw [hi]
  dsimp only
  rw [hdone, if_neg (by decide)]
  unfold Dev.hostSend
  rw [if_neg (by unfold Dev.insecureOut; rw [show (s.dev.setTrans { s.dev.trans with invals := s.dev.trans.invals.erase i }).link.ideBad = [] from hide]; simp),
    show (s.dev.setTrans { s.dev.trans with invals := s.dev.trans.invals.erase i }).link.st = .up from hup]
  rfl

theorem lathInvalComplete_counts {n : Fin 16} {i : Inval} (hs : s.rests = true) (hi : (s.dev.trans.invals.find? fun i => i.bay == n.val && !i.ats) = some i)
    (hdone : s.dev.invalDone i = true) (hcmd : i.cmd = none) (hroom : s.dev.od (0x2310 + n) 0xB + 1 < 2 ^ 32) :
    exec (.lathInvalComplete n) s =
      .next { s with dev := ({ s.dev with trans := { s.dev.trans with invals := s.dev.trans.invals.erase i } } : Dev).setOd (0x2310 + n) 0xB (s.dev.od (0x2310 + n) 0xB + 1) } := by
  refine show execLathInvalComplete n s = _ from s.go_to _ _ hs ?_ (s.rests_quiet hs) (s.rests_stores hs)
  obtain ⟨c, hc⟩ : ∃ c, s.dev.setTrans { s.dev.trans with invals := s.dev.trans.invals.erase i } = c := ⟨_, rfl⟩
  have hod : c.od (0x2310 + n) 0xB = s.dev.od (0x2310 + n) 0xB := by rw [← hc]; rfl
  rw [hi]
  dsimp only
  rw [hdone, hcmd, if_neg (by decide), hc, c.count_of_lt _ _ 1 (by rw [(odSize_faultBooks n.isLt).2.1, hod]; exact hroom), hod, ← hc]
  rfl

theorem lathInvalComplete_waits {n : Fin 16} {i : Inval} (hs : s.rests = true) (hi : (s.dev.trans.invals.find? fun i => i.bay == n.val && !i.ats) = some i)
    (hopen : s.dev.invalDone i = false) : exec (.lathInvalComplete n) s = .next s := by
  refine show execLathInvalComplete n s = _ from s.go_to _ s.dev hs ?_ (s.rests_quiet hs) (s.rests_stores hs)
  rw [hi]
  dsimp only
  rw [hopen]
  rfl

end

/-! ### Page requests -/

section
variable {s : State}

/-- A vector that is masked goes nowhere. -/
theorem Dev.raiseBay_masked {d : Dev} {n v : Nat} (h : d.unmasked (n + 1) v = false) : ∃ l, d.raiseBay n v = { d with link := l } ∧ l.unsent = d.link.unsent := by
  unfold Dev.raiseBay Dev.bayVecOk
  rw [h, if_neg (by simp)]
  split
  · exact ⟨_, rfl, rfl⟩
  · exact ⟨_, rfl, rfl⟩

/-- The response to the one group outstanding. -/
theorem Dev.prgResponse_live {d : Dev} {e : Env} {idx : Nat} {pasid : Option (BitVec 20)} {g : Prg} {f : Dev → Prg → Dev} (hup : d.link.st = .up) (hide : d.link.ideBad = [])
    (hp : d.trans.prgs = [g]) (hidx : g.idx = idx) (hend : g.ended = false) (hgone : g.gone = false) (hpasid : g.pasid = pasid.map (·.toNat)) :
    d.prgResponse e idx pasid f = (f d g).pumpPri e := by
  unfold Dev.prgResponse
  rw [hp, List.find?_cons_of_pos (by simp [hidx])]
  dsimp only
  rw [Dev.insecure_none hide, hgone, hup, hpasid, hend]
  simp

theorem Dev.dropPrg_one {d : Dev} {g : Prg} {idx : Nat} (hp : d.trans.prgs = [g]) (hidx : g.idx = idx) : d.dropPrg idx = d.setTrans { d.trans with prgs := [] } := by
  unfold Dev.dropPrg
  rw [hp, List.filter_cons_of_neg (by simp [hidx])]
  rfl

/-- A success resumes the channel that its group halted. -/
theorem prgSuccess_resumes {idx c : Nat} {pasid : Option (BitVec 20)} {g : Prg} {h : Halt} (hs : s.rests = true) (hup : s.dev.link.st = .up) (hide : s.dev.link.ideBad = [])
    (hp : s.dev.trans.prgs = [g]) (hidx : g.idx = idx) (hend : g.ended = false) (hgone : g.gone = false) (hpasid : g.pasid = pasid.map (·.toNat))
    (hmask : s.dev.unmasked (g.bay + 1) 5 = false) (hh : s.dev.trans.halts = [h]) (hcause : h.cause = 2) (hwho : h.who = .gutter c) (hgwho : g.who = [.gutter c])
    (hbay : h.bay = g.bay) (hspace : h.space = g.space) (hpage : h.page = g.page) :
    ∃ t, exec (.prgSuccess idx pasid) s = .next t ∧ t.dev.trans.prgs = [] ∧ t.dev.trans.halts = [] ∧
      t.dev.gutter c = { s.dev.gutter c with st := .running } ∧ t.dev.out = s.dev.out ∧ t.mem = s.mem := by
  have hhalts : s.dev.prgHalts g = [h] := by
    unfold Dev.prgHalts
    rw [hh, List.filter_cons_of_pos (by simp [hcause, hbay, hspace, hpage, hgwho, hwho])]
    rfl
  obtain ⟨z, hz⟩ : ∃ z, (s.dev.setTrans { s.dev.trans with prgs := [] }).resumeReq s.env h = z := ⟨_, rfl⟩
  have hzd : ∃ tr, z = ({ s.dev with trans := tr } : Dev).setGutter c { s.dev.gutter c with st := .running } ∧ tr.prgs = [] ∧ tr.halts = [] := by
    rw [← hz]
    unfold Dev.resumeReq
    rw [hwho]
    refine ⟨_, rfl, rfl, ?_⟩
    show s.dev.trans.halts.erase h = []
    rw [hh, List.erase_cons_head]
  obtain ⟨tr, hzd, hprgs, hnone⟩ := hzd
  obtain ⟨l, hraise, hl⟩ := Dev.raiseBay_masked (d := z) (n := g.bay) (v := 5) (by rw [hzd]; exact hmask)
  have heff : s.dev.prgSuccess s.env idx pasid = { z with link := l } := by
    unfold Dev.prgSuccess
    rw [Dev.leadInval_calm _ _ (s.rests_calm hs), Dev.prgResponse_live hup hide hp hidx hend hgone hpasid, hhalts, Dev.dropPrg_one hp hidx]
    show Dev.pumpPri (Dev.raiseBay (Dev.resumeReq _ s.env h) g.bay 5) s.env = _
    rw [hz, hraise, Dev.pumpPri_none _ (by rw [hzd]; exact hnone)]
  refine ⟨_, show execPrgSuccess idx pasid s = _ from s.go_to _ { z with link := l } hs ((Dev.turn_rests _ _ _ _ (State.rests_ahead hs)).trans heff) ?_ ?_, ?_, ?_, ?_, ?_, rfl⟩
  · refine Dev.quiet_link z l ?_ (congrArg Link.heldRecs hl :)
    rw [hzd]
    exact s.rests_quiet hs
  · rw [hzd]; exact s.rests_stores hs
  · rw [hzd]; exact hprgs
  · rw [hzd]; exact hnone
  · show z.gutter c = _
    rw [hzd]
    exact Dev.gutter_setGutter ({ s.dev with trans := tr } : Dev) c _
  · rw [hzd]; rfl

/-- A group that the host refuses, and no requester of which is halted: it is counted and over. -/
theorem Dev.prgInvalid_unhalted {d : Dev} {e : Env} {g : Prg} (hp : d.trans.prgs = [g]) (hh : d.trans.halts = []) :
    d.prgInvalid e g = (d.setTrans { d.trans with prgs := [] }).count (0x2330 + g.bay) 7 1 := by
  have hnone : d.prgHalts g = [] := by
    unfold Dev.prgHalts
    rw [hh]
    rfl
  unfold Dev.prgInvalid
  rw [hnone, Dev.dropPrg_one hp rfl]
  rfl

/-- What stands after a group that the host refused has been counted and its vector raised. -/
theorem Dev.refused_spec {d : Dev} {g : Prg} (hp : d.trans.prgs = [g]) (hh : d.trans.halts = []) (hevt : d.bayEvt g.bay = false) (hbay : g.bay < 16)
    (hroom : d.od (0x2330 + g.bay) 7 + 1 < 2 ^ 32) (e : Env) : ∃ z srv f o l, (d.prgInvalid e g).raiseBay g.bay 5 = z ∧
      z = { d with srv := srv, free := f, out := o, link := l, trans := { d.trans with prgs := [] } } ∧ l.unsent = d.link.unsent ∧
      z.od (0x2330 + g.bay) 7 = d.od (0x2330 + g.bay) 7 + 1 := by
  rw [Dev.prgInvalid_unhalted hp hh]
  obtain ⟨c, hc⟩ : ∃ c, d.setTrans { d.trans with prgs := [] } = c := ⟨_, rfl⟩
  obtain ⟨y, srv, f, hy, hy'⟩ := c.count_eq (0x2330 + g.bay) 7 1
  have hcod (i j : Nat) : c.od i j = d.od i j := by rw [← hc]; rfl
  have hyod : y.od (0x2330 + g.bay) 7 = d.od (0x2330 + g.bay) 7 + 1 := by
    rw [← hy, Dev.count_od_32 _ (by rw [(odSize_faultBooks hbay).2.2.2]) (by rw [hcod]; exact hroom), hcod]
  obtain ⟨o, l, hsig, hl⟩ := y.raiseBay_signals g.bay 5 (by
    rw [← hevt]
    unfold Dev.bayEvt Dev.ownerLink Dev.attachMode
    rw [show y.od (0x2100 + g.bay) 5 = d.od (0x2100 + g.bay) 5 by
        rw [← hy, Dev.count_od_other _ 1 (by decide) (by decide) (by rw [ne_eq, Prod.mk.injEq]; omega), hcod],
      show y.board = d.board by rw [hy', ← hc]; rfl])
  refine ⟨_, srv, f, o, l, by rw [hc, hy], ?_, hl.trans (by rw [hy', ← hc]; rfl), ?_⟩
  · rw [hsig, hy', ← hc]
    rfl
  · rw [hsig]
    exact hyod

theorem prgRefused_counts {idx : Nat} {pasid : Option (BitVec 20)} {g : Prg} (hs : s.rests = true) (hup : s.dev.link.st = .up) (hide : s.dev.link.ideBad = [])
    (hp : s.dev.trans.prgs = [g]) (hidx : g.idx = idx) (hend : g.ended = false) (hgone : g.gone = false) (hpasid : g.pasid = pasid.map (·.toNat))
    (hh : s.dev.trans.halts = []) (hevt : s.dev.bayEvt g.bay = false) (hbay : g.bay < 16) (hroom : s.dev.od (0x2330 + g.bay) 7 + 1 < 2 ^ 32) :
    (∃ t, exec (.prgInvalidRequest idx pasid) s = .next t ∧ t.dev.trans.prgs = [] ∧ t.dev.od (0x2330 + g.bay) 7 = s.dev.od (0x2330 + g.bay) 7 + 1 ∧
      t.dev.link.priFailure = s.dev.link.priFailure ∧ t.mem = s.mem) ∧
    (∃ t, exec (.prgResponseFailure idx pasid) s = .next t ∧ t.dev.trans.prgs = [] ∧ t.dev.od (0x2330 + g.bay) 7 = s.dev.od (0x2330 + g.bay) 7 + 1 ∧
      t.dev.link.priFailure = true ∧ t.mem = s.mem) := by
  constructor
  · obtain ⟨z, srv, f, o, l, hz, hzd, hl, hod⟩ := Dev.refused_spec hp hh hevt hbay hroom s.env
    have heff : s.dev.prgRefused s.env idx pasid = z := by
      unfold Dev.prgRefused
      rw [Dev.leadInval_calm _ _ (s.rests_calm hs), Dev.prgResponse_live hup hide hp hidx hend hgone hpasid, hz, Dev.pumpPri_none _ (by rw [hzd]; exact hh)]
    refine ⟨_, show execPrgInvalidRequest idx pasid s = _ from s.go_to _ z hs ((Dev.turn_rests _ _ _ _ (State.rests_ahead hs)).trans heff) ?_ ?_, ?_, hod, ?_, rfl⟩
    · rw [hzd]
      exact Dev.quiet_link ({ s.dev with srv := srv, free := f, out := o, trans := { s.dev.trans with prgs := [] } } : Dev) l (s.rests_quiet hs) (congrArg Link.heldRecs hl :)
    · rw [hzd]; exact s.rests_stores hs
    · rw [hzd]
    · rw [hzd]
      exact (congrArg Link.priFailure hl :)
  · obtain ⟨d, hd⟩ : ∃ d : Dev, d = { s.dev with link := { s.dev.link with priFailure := true } } := ⟨_, rfl⟩
    obtain ⟨z, srv, f, o, l, hz, hzd, hl, hod⟩ := Dev.refused_spec (d := d) (g := g) (by rw [hd]; exact hp) (by rw [hd]; exact hh) (by rw [hd]; exact hevt) hbay
      (by rw [hd]; exact hroom) s.env
    have heff : s.dev.prgFailure s.env idx pasid = z := by
      unfold Dev.prgFailure
      rw [Dev.leadInval_calm _ _ (s.rests_calm hs), Dev.prgResponse_live hup hide hp hidx hend hgone hpasid, ← hd]
      dsimp only
      rw [hz, show z.trans.prgs = [] by rw [hzd]]
      exact Dev.pumpPri_none _ (by rw [hzd, hd]; exact hh)
    refine ⟨_, show execPrgResponseFailure idx pasid s = _ from s.go_to _ z hs ((Dev.turn_rests _ _ _ _ (State.rests_ahead hs)).trans heff) ?_ ?_, ?_,
      hod.trans (by rw [hd]; rfl), ?_, rfl⟩
    · rw [hzd, hd]
      exact Dev.quiet_link ({ s.dev with srv := srv, free := f, out := o, trans := { s.dev.trans with prgs := [] } } : Dev) l (s.rests_quiet hs)
        (by have h1 : l.heldRecs = d.link.heldRecs := (congrArg Link.heldRecs hl :)
            rw [h1, hd])
    · rw [hzd, hd]; exact s.rests_stores hs
    · rw [hzd]
    · have h1 : l.priFailure = d.link.priFailure := (congrArg Link.priFailure hl :)
      rw [hzd]
      exact h1.trans (by rw [hd])

theorem priStatusClear_clears {tag : Nat} (hs : s.rests = true) (h : s.dev.cfgHere = true) (hide : s.dev.link.ideBad = []) (hdef : s.dev.link.deferred = [])
    (hh : s.dev.trans.halts = []) : exec (.priStatusClear tag) s =
      .next { s with dev := ({ s.dev with link := { s.dev.link with priFailure := false } } : Dev).send (.cpl tag "OK" []) } := by
  refine show execPriStatusClear s tag = _ from (State.go_congr (s.rests_calm hs) ?_).trans
    (s.go_cfgWrite 0 tag (fun d => d.setLink { d.link with priFailure := false }) hs h hide hdef rfl rfl rfl rfl)
  rw [Dev.cfgWrite_here _ h hide hdef rfl, Dev.cfgWrite_here _ h hide hdef rfl]
  exact congrArg (Dev.hostSend · _) (Dev.pumpPri_none _ hh)

/-- A fault of class `JOB` in a Bay that is not strict stands at the head of the fault log. -/
theorem Dev.jobFault_logged {d : Dev} (e : Env) {n : Nat} (hn : n < 16) (f : Flt) (hstrict : d.strict n = false) (hevt : d.bayEvt n = false) :
    (d.oneFault e .job n f).flogSeq = d.flogSeq + 1 ∧ ((∀ x ∈ d.flog, x.time ≠ e.time) →
      (d.oneFault e .job n f).flog.head? = some { d.fltRec .job n f with time := e.time, seq := d.flogSeq + 1 }) := by
  obtain ⟨r, hr⟩ : ∃ r, d.fltRec .job n f = r := ⟨_, rfl⟩
  obtain ⟨a, ha⟩ : ∃ a, (d.logRec e r).count (0x2D10 + n) 7 1 = a := ⟨_, rfl⟩
  have hastrict : a.strict n = false := by
    rw [← hstrict, ← ha]
    unfold Dev.strict
    rw [Dev.count_od_other _ 1 (by decide) (by decide) (by rw [ne_eq, Prod.mk.injEq]; omega), Dev.logRec_od _ _ _ (by decide) (by unfold logEntry; omega)]
  have haevt : a.bayEvt n = false := by
    rw [← hevt, ← ha]
    unfold Dev.bayEvt Dev.ownerLink Dev.attachMode
    rw [Dev.count_od_other _ 1 (by decide) (by decide) (by rw [ne_eq, Prod.mk.injEq]; omega), Dev.logRec_od _ _ _ (by decide) (by unfold logEntry; omega),
      Dev.count_keeps Dev.board (fun _ _ _ _ => rfl) (fun _ _ => rfl), Dev.board_of_unlogged (Dev.logRec_unlogged _ _ _)]
  obtain ⟨o, l, hsig, -⟩ := a.raiseBay_signals n 4 haevt
  have hkeep {α : Type} (p : Dev → α) (h : ∀ d n j, p (d.setJour n j) = p d) (h' : ∀ (d : Dev) k, p { d with jseq := k } = p d)
      (hj : ∀ (d : Dev) x, p { d with jtick := x } = p d) (hs : ∀ (d : Dev) o l, p { d with out := o, link := l } = p d) : p (d.oneFault e .job n f) = p a := by
    have hb : p ((a.raiseBay n 4).unsign e n) = p a := by rw [Dev.unsign_keeps p h h' hj, hsig, hs]
    have hjob : d.jobFault e [] n f = ([], (a.raiseBay n 4).unsign e n) := by
      unfold Dev.jobFault
      dsimp only
      rw [hr, ha, if_neg]
      rw [Dev.unsign_keeps (fun d => d.strict n) (fun _ _ _ => rfl) (fun _ _ => rfl) (fun _ _ => rfl), hsig]
      simp [show ({ a with out := o, link := l } : Dev).strict n = false from hastrict]
    have hone : d.oneFault e .job n f = ((a.raiseBay n 4).unsign e n).nameRestarts e := by
      unfold Dev.oneFault
      dsimp only
      rw [if_pos hn, hjob]
    rw [hone, Dev.nameRestarts_keeps p h h' hj, hb]
  rw [hkeep Dev.flogSeq (fun _ _ _ => rfl) (fun _ _ => rfl) (fun _ _ => rfl) (fun _ _ _ => rfl),
    hkeep Dev.flog (fun _ _ _ => rfl) (fun _ _ => rfl) (fun _ _ => rfl) (fun _ _ _ => rfl), ← ha, Dev.count_flog, Dev.count_flogSeq, Dev.logRec_flogSeq, hr]
  exact ⟨rfl, fun h => Dev.logRec_flog _ _ _ h⟩

/-- 16 ms and more without a response: the group is over, counted and recorded, and its index stays reserved. -/
theorem prgTimeout_ends {idx : Nat} {g : Prg} (hs : s.rests = true) (hp : s.dev.trans.prgs = [g]) (hidx : g.idx = idx) (hend : g.ended = false) (hgone : g.gone = false)
    (hdead : g.deadline ≠ 0) (hdue : g.deadline ≤ s.time) (hh : s.dev.trans.halts = []) (hbay : g.bay < 16) (hstrict : s.dev.strict g.bay = false)
    (hevt : s.dev.bayEvt g.bay = false) :
    ∃ t, exec (.prgTimeout idx) s = .next t ∧ t.dev.trans.prgs = [{ g with ended := true, deadline := 0, who := [] }] ∧ t.dev.flogSeq = s.dev.flogSeq + 1 ∧
      (s.logOpen = true → ∀ f ∈ t.dev.flog.head?, f.severity = 3 ∧ f.bay = g.bay ∧ f.status = Status.timeout.code) ∧ t.mem = s.mem := by
  obtain ⟨c, hc⟩ : ∃ c, s.dev.setTrans { s.dev.trans with prgs := [{ g with ended := true, deadline := 0, who := [] }] } = c := ⟨_, rfl⟩
  obtain ⟨y, srv, fr, hy, hyd⟩ := c.count_eq (0x2330 + g.bay) 7 1
  obtain ⟨f, hf⟩ : ∃ f : Flt, f = { status := .timeout, source := 2, island := 330, cause := 2, addr := 0 } := ⟨_, rfl⟩
  have hyod (i j : Nat) (hj : j < 256) (hi : i < 0x2330) : y.od i j = s.dev.od i j := by
    rw [← hy, Dev.count_od_other _ 1 hj (by decide) (by rw [ne_eq, Prod.mk.injEq]; omega), ← hc]
    rfl
  have hboard : y.board = s.dev.board := by rw [hyd, ← hc]; rfl
  have hystrict : y.strict g.bay = false := by
    rw [← hstrict]
    unfold Dev.strict
    rw [hyod _ _ (by decide) (by omega)]
  have hyevt : y.bayEvt g.bay = false := by
    rw [← hevt]
    unfold Dev.bayEvt Dev.ownerLink Dev.attachMode
    rw [hyod _ _ (by decide) (by omega), hboard]
  have hnone : s.dev.prgHalts g = [] := by
    unfold Dev.prgHalts
    rw [hh]
    rfl
  have hyq : y.quiet = true := by
    rw [hyd, ← hc]
    exact s.rests_quiet hs
  obtain ⟨o, l, hub, hl, _⟩ := Dev.jobFault_spec s.env hbay f hystrict hyevt
  obtain ⟨hseq, hlog⟩ := Dev.jobFault_logged s.env hbay f hystrict hyevt
  have hexec : exec (.prgTimeout idx) s = .next (s.commit (y.oneFault s.env .job g.bay f)) := by
    show execPrgTimeout idx s = _
    refine s.go_fault _ y .job g.bay f hs ?_ ?_ ?_
    · have hlive : ¬ (s.env.time < g.deadline ∨ g.deadline = 0 ∨ g.gone = true) := by
        rw [show s.env.time = s.time from rfl, hgone]
        simp only [Bool.false_eq_true, or_false, not_or]
        omega
      dsimp only
      rw [hp, List.find?_cons_of_pos (by simp [hidx])]
      dsimp only
      rw [if_neg (by simp only [Bool.or_eq_true, decide_eq_true_eq, or_assoc]; exact hlive), hend, if_neg (by decide), hnone, List.map_cons, List.map_nil, if_pos hidx, hc, hy, hf]
      rfl
    · exact hyq
    · exact Dev.quiet_unbooked hub hl hyq
  generalize y.oneFault s.env .job g.bay f = x at hexec hub hseq hlog
  have hxs : x.stores = [] := by
    rw [show x.stores = y.stores from (congrArg Dev.stores hub :), hyd, ← hc]
    exact s.rests_stores hs
  rw [s.commit_quiet x hxs] at hexec
  refine ⟨_, hexec, ?_, ?_, fun ho => ?_, rfl⟩
  · show x.trans.prgs = _
    rw [show x.trans = y.trans from (congrArg Dev.trans hub :), hyd, ← hc]
    rfl
  · show x.flogSeq = _
    rw [hseq, hyd, ← hc]
    rfl
  · have hopen : ∀ r ∈ y.flog, r.time ≠ s.env.time := by
      rw [hyd, ← hc]
      exact Dev.logOpen_of ho
    rintro r (hr : r ∈ x.flog.head?)
    rw [hlog hopen, Option.mem_some_iff] at hr
    subst hr
    exact ⟨rfl, rfl, by rw [hf]; rfl⟩

end

/-- Settles O33. -/
theorem lathWalksAndRequests : Obligations.LathWalksAndRequests := by
  unfold Obligations.LathWalksAndRequests
  refine ⟨?_, ?_, ?_, ?_, ?_, ?_, ?_, ?_, ?_, ?_, ?_⟩
  · intro k s hw hlevel hleaf htable hf hpo htlb hmask v h0 h1 hbad h7 hkind hperm
    exact lathWalk_fills hw hlevel hleaf htable hf hpo htlb hmask rfl h0 h1 hbad h7 hkind hperm
  · intro k n s hs hw hlevel hleaf hwho hbay hn hroot hroom hevt
    exact lathWalk_faults hs hw hlevel hleaf hwho hbay hn hroot hroom hevt
  · intro tag hpa log q s hs hq htag hgone hdead hstale hlog hqlog htlb hmask hr hw hide
    exact translationCompletion_fills hs hq htag hgone hdead hstale hlog hqlog htlb hmask hr hw hide
  · intro n itag base size s hs hup hide hroom
    exact atsInvalidateRequest_drops hs hup hide hroom
  · intro n itag i s hs hup hide hi hdone
    exact atsInvalidateComplete_answers hs hup hide hi hdone
  · intro n i s hs hi hdone hcmd hroom
    exact lathInvalComplete_counts hs hi hdone hcmd hroom
  · intro n i s hs hi hdone
    exact lathInvalComplete_waits hs hi hdone
  · intro idx c pasid g h s hs hup hide hp hidx hend hgone hpasid hmask _ hh hcause hwho hgwho hbay hspace hpage _
    exact prgSuccess_resumes hs hup hide hp hidx hend hgone hpasid hmask hh hcause hwho hgwho hbay hspace hpage
  · intro idx pasid g s hs hup hide hp hidx hend hgone hpasid hh hevt hbay hroom
    exact prgRefused_counts hs hup hide hp hidx hend hgone hpasid hh hevt hbay hroom
  · intro tag s hs h hide hdef hh
    exact priStatusClear_clears hs h hide hdef hh
  · intro idx g s hs hp hidx hend hgone hdead hdue hh hbay hstrict hevt _
    exact prgTimeout_ends hs hp hidx hend hgone hdead hdue hh hbay hstrict hevt

end Sys2Proof.Machine
end

section
/-! PROOF. Firmware: staging, activation and the recovery image (R64, R71 to R76, R120 to R127): O23. -/
namespace Sys2Proof.Machine

/-! ### A directory copy that names the staged slot -/

/-- A directory copy reads back as it was written. -/
theorem dirOf_dirBytes {c : DirCopy} (hseq : c.seq < 2 ^ 32) (hact : c.active < 2 ^ 8) : dirOf (dirBytes c) = some c := by
  set head := leBytes 4 0x0880D1C7 ++ leBytes 4 c.seq ++ leBytes 1 c.active ++ zeros 7 with hhead
  have hlen : head.length = 16 := by simp [hhead, leBytes_length, zeros]
  have hdir : dirBytes c = head ++ leBytes 8 (crc64 head) := rfl
  have hall : (dirBytes c).length = 24 := by rw [hdir, List.length_append, hlen, leBytes_length]
  have hfld (off n : Nat) (h : off + n ≤ 24) : flashField (dirBytes c) off n = fld (dirBytes c) off n := by
    rw [flashField, flashBytes_listed (by omega), fld]
  have hmagic : fld (dirBytes c) 0 4 = 0x0880D1C7 := by
    rw [hdir, hhead, List.append_assoc, List.append_assoc, List.append_assoc, fld_leBytes_append _ (by decide)]
  have hs : fld (dirBytes c) 4 4 = c.seq := by
    rw [hdir, hhead, List.append_assoc, List.append_assoc, List.append_assoc, fld_leBytes_skip _ (by decide), fld_leBytes_append _ hseq]
  have ha : fld (dirBytes c) 8 1 = c.active := by
    rw [hdir, hhead, List.append_assoc, List.append_assoc, List.append_assoc, fld_leBytes_skip _ (by decide), fld_leBytes_skip _ (by decide),
      fld_leBytes_append _ hact]
  have hcrc : fld (dirBytes c) 0x10 8 = crc64 head := by
    rw [hdir, fld_append_right (by omega), hlen, ← List.append_nil (leBytes 8 _), fld_leBytes_append _ (crc64_lt _)]
  have htake : flashBytes (dirBytes c) 0 16 = head := by
    rw [flashBytes_listed (by omega), List.drop_zero, hdir, ← hlen, List.take_left]
  unfold dirOf
  rw [hfld 0 4 (by decide), hfld 0x10 8 (by decide), hfld 4 4 (by decide), hfld 8 1 (by decide), hmagic, hcrc, hs, ha, htake]
  exact if_pos (by simp)

/-- The directory in force after a staging names the staged slot: its copy is the newest. -/
theorem flashDir_staged {f : Flash} {k : Nat} {i : Image} (hk : k < 2) (hseq : ∀ c, dirOf f.dir0 = some c ∨ dirOf f.dir1 = some c → c.seq + 1 < 2 ^ 32) :
    ∀ c ∈ flashDir (stagedFlash f k i), c.active = k := by
  obtain ⟨g, hg⟩ : ∃ g, (if k = 0 then { f with slotA := i } else { f with slotB := i } : Flash) = g := ⟨_, rfl⟩
  have h0 : g.dir0 = f.dir0 := by rw [← hg]; split <;> rfl
  have h1 : g.dir1 = f.dir1 := by rw [← hg]; split <;> rfl
  rw [← h0, ← h1] at hseq
  unfold stagedFlash
  dsimp only
  rw [hg]
  have hread {n : Nat} (hn : n + 1 < 2 ^ 32) : dirOf (dirBytes { seq := n + 1, active := k }) = some { seq := n + 1, active := k } :=
    dirOf_dirBytes hn (show k < 2 ^ 8 by omega)
  unfold flashDir
  cases ha : dirOf g.dir0 with
  | none =>
    cases hb : dirOf g.dir1 with
    | none =>
      simp [ha, hread (n := 0)]
    | some b =>
      simp [hb, hread (hseq b (.inr hb))]
  | some a =>
    have hsa := hseq a (.inl ha)
    cases hb : dirOf g.dir1 with
    | none =>
      simp [ha, hread hsa]
    | some b =>
      have hsb := hseq b (.inr hb)
      by_cases hle : b.seq ≤ a.seq
      · simp [hle, ha, hread hsa]
      · have hmax : max a.seq b.seq = b.seq := by omega
        have hnot : ¬ b.seq + 1 < b.seq := by omega
        simp [hle, hb, hmax, hread hsb]

theorem flashSlot_staged (f : Flash) {k : Nat} (i : Image) (hk : k < 2) :
    flashSlot (stagedFlash f k i) k = i ∧ flashSlot (stagedFlash f k i) (1 - k) = flashSlot f (1 - k) := by
  have hdirs (g : Flash) (b : Bool) (x : List Byte) (j : Nat) : flashSlot (if b = true then { g with dir1 := x } else { g with dir0 := x }) j = flashSlot g j := by
    cases b <;> rfl
  unfold stagedFlash
  dsimp only
  rw [hdirs, hdirs]
  obtain rfl | rfl : k = 0 ∨ k = 1 := by omega
  · exact ⟨rfl, rfl⟩
  · exact ⟨rfl, rfl⟩

theorem Dev.stageSlot_lt (d : Dev) : d.stageSlot < 2 := by
  unfold Dev.stageSlot
  split <;> decide

section
variable {s : State} {i : Image}

/-- An image that passes its checks goes into the slot that did not boot. -/
theorem fwStageEnd_stages (hs : s.rests = true) (hi : s.dev.srv.stageImg = some i) (hrun : s.dev.od 0x2004 2 = 1) (hgood : s.dev.imageBadAll i = none)
    (hseq : ∀ c, dirOf s.dev.nv.flash.dir0 = some c ∨ dirOf s.dev.nv.flash.dir1 = some c → c.seq + 1 < 2 ^ 32) :
    ∃ t, exec (.fwStageEnd true) s = .next t ∧ flashSlot t.dev.nv.flash s.dev.stageSlot = i ∧ flashSlot t.dev.nv.flash (1 - s.dev.stageSlot) = flashSlot s.dev.nv.flash (1 - s.dev.stageSlot) ∧
      (∀ c ∈ flashDir t.dev.nv.flash, c.active = s.dev.stageSlot) ∧ t.dev.od 0x2004 2 = 2 := by
  obtain ⟨f, hf⟩ : ∃ f, stagedFlash s.dev.nv.flash s.dev.stageSlot i = f := ⟨_, rfl⟩
  obtain ⟨d, hd⟩ : ∃ d : Dev, d = { s.dev with nv := { s.dev.nv with flash := f } } := ⟨_, rfl⟩
  obtain ⟨hslot, hother⟩ := flashSlot_staged s.dev.nv.flash i s.dev.stageSlot_lt
  have hdir := flashDir_staged (i := i) s.dev.stageSlot_lt hseq
  rw [hf] at hslot hother hdir
  refine ⟨_, show execFwStageEnd true s = _ from s.go_to _ (((d.setOd 0x2004 2 2).setOd 0x2004 3 0).setOd 0x2004 6 i.fwVersion) hs ?_ ?_ ?_, ?_, ?_, ?_, ?_⟩
  · dsimp only
    rw [hi]
    dsimp only
    rw [hrun, if_neg (by decide), hgood, hf, hd]
  · rw [hd]; exact s.rests_quiet hs
  · rw [hd]; exact s.rests_stores hs
  · rw [hd]; exact hslot
  · rw [hd]; exact hother
  · rw [hd]; exact hdir
  · show (((d.setOd 0x2004 2 2).setOd 0x2004 3 0).setOd 0x2004 6 i.fwVersion).od 0x2004 2 = 2
    rw [Dev.setOd_od_other _ _ (by decide) (by decide) (by decide), Dev.setOd_od_other _ _ (by decide) (by decide) (by decide), Dev.setOd_od]

/-- An image that fails a check is not written. -/
theorem fwStageEnd_fails {c : Nat} (hs : s.rests = true) (hi : s.dev.srv.stageImg = some i) (hrun : s.dev.od 0x2004 2 = 1) (hbad : s.dev.imageBadAll i = some c) :
    ∃ t, exec (.fwStageEnd true) s = .next t ∧ t.dev.nv = s.dev.nv ∧ t.dev.od 0x2004 2 = 3 ∧ t.dev.od 0x2004 3 = c := by
  refine ⟨_, show execFwStageEnd true s = _ from s.go_to _ ((s.dev.setOd 0x2004 2 3).setOd 0x2004 3 c) hs ?_ (s.rests_quiet hs) (s.rests_stores hs), rfl, ?_, Dev.setOd_od ..⟩
  · dsimp only
    rw [hi]
    dsimp only
    rw [hrun, if_neg (by decide), hbad]
  · show ((s.dev.setOd 0x2004 2 3).setOd 0x2004 3 c).od 0x2004 2 = 3
    rw [Dev.setOd_od_other _ _ (by decide) (by decide) (by decide), Dev.setOd_od]

end

/-! ### The activation of the staged image -/

/-- The store is read again by new firmware: what it reads on its pins, and the records it finds spoiled. -/
theorem Dev.readStore_started {d : Dev} (h : d.boot.started = true) : ∃ o k, d.readStore = ({ d with out := o } : Dev).count 0x2005 3 k := by
  have hbanks : ∃ o, d.readBanks = { d with out := o } := by
    unfold Dev.readBanks
    dsimp only
    split
    · exact ⟨_, rfl⟩
    · exact ⟨_, rfl⟩
  obtain ⟨o, ho⟩ := hbanks
  obtain ⟨k, hk⟩ : ∃ k, ((storeRecs d.nv.flash).filter fun r => !(({ d with out := o } : Dev).recGood r)).length = k := ⟨_, rfl⟩
  refine ⟨o, k, ?_⟩
  unfold Dev.readStore
  dsimp only
  rw [ho, hk]
  obtain ⟨c, srv, f, hc, hcd⟩ := Dev.count_eq { d with out := o } 0x2005 3 k
  rw [hc]
  exact if_pos (by rw [hcd]; exact h)

theorem Dev.usdoAbortAll_none {d : Dev} (e : Env) (h0 : d.usdo 0 = none) (h1 : d.usdo 1 = none) : d.usdoAbortAll e = d := by
  have h (p : Fin 2) (hp : d.usdo p = none) : d.usdoAbort e p .retry = d := by
    unfold Dev.usdoAbort
    rw [hp]
  unfold Dev.usdoAbortAll
  rw [h 0 h0, h 1 h1]

theorem Dev.winDiscardAll_none {d : Dev} (e : Env) (h : ∀ fn, (d.win fn).xfer = none) : d.winDiscardAll e = d := by
  refine foldl_fixed _ _ _ fun fn _ => ?_
  unfold Dev.winDiscard
  dsimp only
  rw [h fn]

theorem activationTakeover_starts {s : State} {i : Image} (hs : s.rests = true) (hi : s.dev.srv.stageImg = some i) (hact : s.dev.srv.activating = true)
    (hreqs : s.dev.srv.reqs = []) (h0 : s.dev.usdo 0 = none) (h1 : s.dev.usdo 1 = none) (hx : ∀ fn, (s.dev.win fn).xfer = none) (hsave : s.dev.srv.saving = none)
    (hstart : s.dev.boot.started = true) :
    ∃ t, exec .activationTakeover s = .next t ∧ t.dev.boot = { s.dev.boot with image := i, fwDigest := imageDigest i, slot := s.dev.stageSlot } ∧
      t.dev.srv.activating = false ∧ t.dev.nv = s.dev.nv ∧ t.dev.bays = s.dev.bays ∧ t.mem = s.mem ∧
      (∀ k m, (k, m) ≠ (0x2005, 3) → m < 256 → t.dev.od k m = s.dev.od k m) ∧
      (s.dev.canOn = true → t.dev.srv.nominal = s.dev.od 0x2002 1 ∧ t.dev.srv.dataRate = s.dev.od 0x2002 2) := by
  obtain ⟨o, n, hstore⟩ := Dev.readStore_started hstart
  obtain ⟨c, hc⟩ : ∃ c, ({ s.dev with out := o } : Dev).count 0x2005 3 n = c := ⟨_, rfl⟩
  have hkeep {α : Type} (g : Dev → α) (h : ∀ (d : Dev) i j v, g (d.setOd i j v) = g d) (h' : ∀ (d : Dev) x, g { d with free := x } = g d) :
      g c = g { s.dev with out := o } := by
    rw [← hc]
    exact Dev.count_keeps g h h' _ _ _ _
  have hod (k m : Nat) (hkm : (k, m) ≠ (0x2005, 3)) (hm : m < 256) : c.od k m = s.dev.od k m := by
    rw [← hc, Dev.count_od_other _ n hm (by decide) hkm]
    rfl
  have hboot : c.boot = s.dev.boot := hkeep Dev.boot (fun _ _ _ _ => rfl) fun _ _ => rfl
  have hboard : c.board = s.dev.board := hkeep Dev.board (fun _ _ _ _ => rfl) fun _ _ => rfl
  have hon : c.canOn = s.dev.canOn := by
    unfold Dev.canOn Dev.canNode
    rw [hboard]
  have hstart : (s.dev.firmwareStart s.env).winDiscardAll s.env = c.setRates (c.od 0x2002 1) (c.od 0x2002 2) := by
    unfold Dev.firmwareStart
    dsimp only
    rw [Dev.usdoAbortAll_none _ h0 h1, hstore, hc]
    refine Dev.winDiscardAll_none _ fun fn => ?_
    exact (congrArg Win.xfer (hkeep (fun d => d.win fn) (fun _ _ _ _ => rfl) fun _ _ => rfl)).trans (hx fn)
  obtain ⟨d, hd⟩ : ∃ d, c.setRates (c.od 0x2002 1) (c.od 0x2002 2) = d := ⟨_, rfl⟩
  have hslot : d.stageSlot = s.dev.stageSlot := by
    rw [← hd]
    unfold Dev.stageSlot
    show (if c.boot.slot = 0 then 1 else 0) = _
    rw [hboot]
  rw [hd] at hstart
  refine ⟨_, show execActivationTakeover s = _ from s.go_to _ { d with
      srv := { d.srv with activating := false }
      boot := { d.boot with image := i, fwDigest := imageDigest i, slot := d.stageSlot } } hs ?_ ?_ ?_, ?_, rfl, ?_, ?_, rfl, ?_, ?_⟩
  · have hclosing : s.dev.closing = true := by
      unfold Dev.closing
      rw [hact, hreqs, hsave]
      rfl
    dsimp only
    rw [hi]
    dsimp only
    rw [hclosing, if_neg (by decide), hstart]
  · show d.quiet = true
    rw [← hd]
    exact (hkeep Dev.quiet (fun _ _ _ _ => rfl) fun _ _ => rfl).trans (s.rests_quiet hs)
  · show d.stores = []
    rw [← hd]
    exact (hkeep Dev.stores (fun _ _ _ _ => rfl) fun _ _ => rfl).trans (s.rests_stores hs)
  · show ({ d.boot with image := i, fwDigest := imageDigest i, slot := d.stageSlot } : Boot) = _
    rw [hslot, ← hd, show (c.setRates (c.od 0x2002 1) (c.od 0x2002 2)).boot = c.boot from rfl, hboot]
  · show d.nv = _
    rw [← hd]
    exact hkeep Dev.nv (fun _ _ _ _ => rfl) fun _ _ => rfl
  · show d.bays = _
    rw [← hd]
    exact hkeep Dev.bays (fun _ _ _ _ => rfl) fun _ _ => rfl
  · intro k m hkm hm
    show d.od k m = _
    rw [← hd]
    exact hod k m hkm hm
  · intro h
    show d.srv.nominal = _ ∧ d.srv.dataRate = _
    rw [← hd, ← hod 0x2002 1 (by decide) (by decide), ← hod 0x2002 2 (by decide) (by decide)]
    exact ⟨if_pos (hon.trans h), if_pos (hon.trans h)⟩

/-! ### An image that comes by CAN FD -/

/-- An entry of the device that takes an image. -/
structure ImageEntry (idx sub : Nat) (t : Ent) : Prop where
  entry : entryOf idx sub = some t
  listed : indexExists idx = true
  dom : t.ty = .dom
  writes : t.acc = .wo
  family : bayFamilies.contains t.base = false
  journal : ∀ d : Dev, d.journalBay t idx sub = none
  low : idx < 0x2100
  base : t.base < 0x2100
  store : idx ≠ 0x1010
  sub_ : sub ≠ 0xB

theorem imageEntry_recovery : ImageEntry 0x2001 0xC ⟨0x2001, 1, 0xC, 0xC, 1, .dom, .wo, false, false, 0⟩ :=
  ⟨by decide +kernel, by decide +kernel, rfl, rfl, by decide +kernel, fun _ => rfl, by decide, by decide, by decide, by decide⟩

theorem imageEntry_stage : ImageEntry 0x2004 1 ⟨0x2004, 1, 1, 1, 1, .dom, .wo, false, false, 0⟩ :=
  ⟨by decide +kernel, by decide +kernel, rfl, rfl, by decide +kernel, fun _ => rfl, by decide, by decide, by decide, by decide⟩

section
variable {s : State} {p : Fin 2} {i : Image} {idx sub : Nat} {t : Ent} (ht : ImageEntry idx sub t)
include ht

/-- The gate lets an image through to its entry. -/
theorem ImageEntry.gate {d : Dev} (hearly : d.boot.firmware = true ∨ earlyIndex idx = true) : d.odGate (.can p) false idx sub = .inr t := by
  unfold Dev.odGate
  rw [if_neg (by
    unfold Dev.earlyOnly
    obtain h | h := hearly <;> simp [h]), if_neg (by simp [ht.listed]), ht.entry]
  simp [Dev.right, ht.writes]

/-- The checks of an image's write. -/
theorem ImageEntry.judged {d : Dev} {e : Env} {v : Nat} (hvalue : d.valueOk t idx sub v = true) (hfit : d.entryBad e t idx sub v (fun _ => false) i = none) :
    d.odJudge e t idx sub v (fun _ => false) i = none := by
  have hstate : d.stateOk t idx sub v = true := by
    unfold Dev.stateOk Dev.powered
    rw [ht.writes, ht.family]
    simp [ht.low]
  unfold Dev.odJudge
  dsimp only
  rw [hvalue, hstate, hfit, ht.journal]
  rfl

/-- An image sent to an idle port comes to the server at once; it has the effect of its entry, a change record and its answer. -/
theorem ImageEntry.serves (hs : s.rests = true) (hcan : s.dev.canHere p = true) (husdo : s.dev.usdo p = none) (hreqs : s.dev.srv.reqs = [])
    (hact : s.dev.srv.activating = false) (hearly : s.dev.boot.firmware = true ∨ earlyIndex idx = true)
    (hvalue : s.dev.valueOk t idx sub (leNat (imageBytes i)) = true)
    (hfit : ∀ e, s.dev.entryBad e t idx sub (leNat (imageBytes i)) (fun _ => false) i = none) {a : Dev}
    (ha : ∀ e : Env, e.time = s.time → s.dev.odApply e (.can p) t idx sub (leNat (imageBytes i)) (imageBytes i) (fun _ => false) i = a) :
    (s.dev.imageSend s.env (.can p) idx sub i).serveRows s.env =
      (a.journalChange s.env (.can p) idx sub .ok (crc64 (imageBytes i))).odAnswer (.can p) .ok 0 [] := by
  obtain ⟨r, hr⟩ : ∃ r : Req, r = { route := .can p, op := .write, idx := idx, sub := sub, img := some i, row := true, time := s.env.time } := ⟨_, rfl⟩
  have hsend : s.dev.imageSend s.env (.can p) idx sub i = { s.dev with srv := { s.dev.srv with reqs := [r] } } := by
    have hopen : s.dev.usdoOpen p = false := by
      unfold Dev.usdoOpen
      rw [husdo, hreqs]
      rfl
    unfold Dev.imageSend Dev.odArrive Dev.closing
    dsimp only
    rw [hcan, hopen, hact, hreqs, hr]
    rfl
  have hback : ({ s.dev with srv := { s.dev.srv with reqs := [] } } : Dev) = s.dev := by rw [← hreqs]
  rw [hsend, Dev.serveRows_one _ _ r (s.rests_calm hs) rfl (by rw [hr])]
  show ({ s.dev with srv := { s.dev.srv with reqs := [] } } : Dev).serveReq s.env r = _
  rw [hback, hr]
  have hdraw (q : Req) (hq : q.idx = idx) : s.dev.drawIntact q = (fun _ => false, s.dev) := by
    unfold Dev.drawIntact
    rw [if_neg (by have := ht.low; simp only [hq, Bool.and_eq_true, decide_eq_true_eq]; omega)]
  unfold Dev.serveReq
  rw [if_neg nofun, hdraw _ rfl]
  show s.dev.serve s.env { route := .can p, op := .write, idx := idx, sub := sub, img := some i, row := true, time := s.env.time } (fun _ => false) = _
  unfold Dev.serve
  rw [Dev.leadWrite_calm _ _ _ (s.rests_calm hs)]
  dsimp only [Dev.breaksChunks, routeFn]
  rw [show (OdOp.write == OdOp.read) = false from rfl, ht.gate hearly]
  dsimp only
  rw [if_neg (by decide)]
  unfold Dev.serveWrite
  dsimp only [routeFn]
  rw [show (t.ty == Ty.dom) = true by rw [ht.dom]; rfl]
  dsimp only
  unfold Dev.writeValue
  dsimp only
  rw [ht.judged hvalue (hfit _)]
  dsimp only
  rw [show s.env.fails idx = none from rfl]
  dsimp only
  rw [ha _ rfl, if_neg (by simp [ht.store]), Dev.dictRec_none _ _ _ _ _ (fun n hn => by rw [ht.journal] at hn; exact absurd hn (by simp)),
    if_neg (by have := ht.base; simp only [Bool.and_eq_true, decide_eq_true_eq]; omega), Dev.odAfter_none _ _ (by have := ht.sub_; omega) (by have := ht.low; omega)]

end

/-- The answer on a port whose CAN is in force. -/
theorem Dev.odAnswer_port {d : Dev} {p : Fin 2} (h : bit (d.od 0x2002 4) p = true) : d.odAnswer (.can p) .ok 0 [] = d.send (.can p "response" 0 []) := by
  unfold Dev.odAnswer
  dsimp only
  rw [h]
  rfl

section
variable {s : State} {p : Fin 2} {i : Image}

theorem Dev.canHere_port {d : Dev} {p : Fin 2} (h : d.canHere p = true) : bit (d.od 0x2002 4) p = true := by
  unfold Dev.canHere at h
  simp only [Bool.and_eq_true] at h
  exact h.1.2

/-- An image received in `RECOVERY` that passes its checks starts. -/
theorem recoveryImage_starts (hs : s.rests = true) (hst : s.dev.boot.st = .recovery) (hcan : s.dev.canHere p = true) (husdo : s.dev.usdo p = none)
    (hreqs : s.dev.srv.reqs = []) (hact : s.dev.srv.activating = false) (hgood : s.dev.imageBadAll i = none)
    (hvalue : s.dev.valueOk ⟨0x2001, 1, 0xC, 0xC, 1, .dom, .wo, false, false, 0⟩ 0x2001 0xC (leNat (imageBytes i)) = true) (hpg : s.dev.board.mainPg = false) :
    ∃ t, exec (.recoveryImageDownload p i) s = .next t ∧ t.dev.boot.st = .powering ∧ t.dev.boot.slot = 2 ∧ t.dev.boot.image = i ∧ t.dev.board.mainPwrReq = true ∧
      t.dev.nv = s.dev.nv := by
  obtain ⟨v, hv⟩ : ∃ v, leNat (imageBytes i) = v := ⟨_, rfl⟩
  obtain ⟨b, hb⟩ : ∃ b : Boot, b = ({ s.dev.boot with st := .powering, slot := 2, image := i, fwDigest := imageDigest i, pgDeadline := some (s.time + 100000000), watchdog := some (s.time + s.dev.boot.watchdogLeft) } : Boot) :=
    ⟨_, rfl⟩
  obtain ⟨a, hd⟩ : ∃ a : Dev, a = { s.dev with board := { s.dev.board with mainPwrReq := true }, boot := b } := ⟨_, rfl⟩
  have hstart (e : Env) (he : e.time = s.time) : s.dev.startImage e i 2 = a := by
    unfold Dev.startImage
    dsimp only
    rw [if_neg (by rw [hpg]; decide), if_pos (by rw [hst]; rfl), he, hd, hb]
  have heff := imageEntry_recovery.serves (i := i) hs hcan husdo hreqs hact (.inr rfl) hvalue (fun e => by
      unfold Dev.entryBad
      dsimp only
      rw [hst, hgood]
      rfl)
    (fun e he => by
      unfold Dev.odApply
      exact hstart e he)
  have hport : a.od 0x2002 4 = s.dev.od 0x2002 4 := by rw [hd]; rfl
  rw [Dev.odAnswer_port (d := a.journalChange s.env (.can p) 0x2001 0xC .ok _) ((congrArg (bit · p) hport).trans (Dev.canHere_port hcan))] at heff
  generalize crc64 (imageBytes i) = x at heff
  refine ⟨_, show execRecoveryImageDownload p i s = _ from s.go_to _ _ hs heff ?_ ?_, ?_, ?_, ?_, ?_, ?_⟩
  · rw [hd]; exact s.rests_quiet hs
  · rw [hd]; exact s.rests_stores hs
  · rw [hd, hb]; rfl
  · rw [hd, hb]; rfl
  · rw [hd, hb]; rfl
  · rw [hd]; rfl
  · rw [hd]; rfl

/-- An image to stage is kept, and its checks run. -/
theorem fwStage_keeps (hs : s.rests = true) (hfirm : s.dev.boot.firmware = true) (hcan : s.dev.canHere p = true)
    (husdo : s.dev.usdo p = none) (hreqs : s.dev.srv.reqs = []) (hact : s.dev.srv.activating = false) (hrun : s.dev.od 0x2004 2 ≠ 1)
    (hvalue : s.dev.valueOk ⟨0x2004, 1, 1, 1, 1, .dom, .wo, false, false, 0⟩ 0x2004 1 (leNat (imageBytes i)) = true) :
    ∃ t, exec (.fwStage (.can p) i) s = .next t ∧ t.dev.srv.stageImg = some i ∧ t.dev.od 0x2004 2 = 1 ∧ t.dev.nv = s.dev.nv := by
  obtain ⟨a, hd⟩ : ∃ a : Dev, a = ({ s.dev with srv := { s.dev.srv with stageImg := some i } } : Dev).setOd 0x2004 2 1 := ⟨_, rfl⟩
  have heff := imageEntry_stage.serves (i := i) (a := a) hs hcan husdo hreqs hact (.inl hfirm) hvalue (fun e => by
      unfold Dev.entryBad
      dsimp only
      exact if_pos (bne_iff_ne.mpr hrun))
    (fun e _ => by
      rw [hd]
      rfl)
  have hport : a.od 0x2002 4 = s.dev.od 0x2002 4 := by
    rw [hd, Dev.setOd_od_other _ _ (by decide) (by decide) (by decide)]
    rfl
  rw [Dev.odAnswer_port (d := a.journalChange s.env (.can p) 0x2004 1 .ok _) ((congrArg (bit · p) hport).trans (Dev.canHere_port hcan))] at heff
  generalize crc64 (imageBytes i) = x at heff
  refine ⟨_, show execFwStage (.can p) i s = _ from s.go_to _ _ hs heff ?_ ?_, ?_, ?_, ?_⟩
  · rw [hd]; exact s.rests_quiet hs
  · rw [hd]; exact s.rests_stores hs
  · rw [hd]; rfl
  · show a.od 0x2004 2 = 1
    rw [hd, Dev.setOd_od]
  · rw [hd]; rfl

end

/-- Settles O23. -/
theorem firmwareUpdate : Obligations.FirmwareUpdate := by
  unfold Obligations.FirmwareUpdate
  refine ⟨?_, ?_, ?_, ?_, ?_⟩
  · intro i s hs hi hrun hgood hseq
    exact fwStageEnd_stages hs hi hrun hgood hseq
  · intro i c s hs hi hrun hbad
    exact fwStageEnd_fails hs hi hrun hbad
  · intro i s hs hi hact hreqs h0 h1 hx hsave hstart
    exact activationTakeover_starts hs hi hact hreqs h0 h1 hx hsave hstart
  · intro p i s hs hst hcan husdo hreqs hact hgood hvalue hpg
    exact recoveryImage_starts hs hst hcan husdo hreqs hact hgood hvalue hpg
  · intro p i s hs _ hfirm hcan husdo hreqs hact hrun hvalue
    exact fwStage_keeps hs hfirm hcan husdo hreqs hact hrun hvalue

end Sys2Proof.Machine
end

section
/-! PROOF. Commands that start an operation (R239, R360, R386, R399, R409, R414, R416, R428, R434, R438, R490, R495): O37. -/
namespace Sys2Proof.Machine

section
variable {s : State} {n q : Nat} {p : W32} {op : Nat} {c : Cmd}

/-- The one command of a queue is changed in its place. -/
theorem State.Stands.modCmd_eq (h : s.Stands n q p op .started c) {d : Dev} (hq : d.queue n q = s.dev.queue n q) (f : Cmd → Cmd) :
    d.modCmd n q p f = d.setQueue n q { d.queue n q with cmds := [f c] } := by
  unfold Dev.modCmd
  dsimp only
  rw [hq, h.cmds, List.map_cons, List.map_nil, if_pos h.pos]

/-- The one command of a queue runs. -/
theorem State.Stands.runs (h : s.Stands n q p op .started c) {d : Dev} (hq : d.queue n q = s.dev.queue n q) :
    (d.modCmd n q p fun c => { c with ph := .running }) = d.running n q c := h.modCmd_eq hq _

end

/-! ### An invalidation -/

theorem Dev.dropTlb_empty {d : Dev} (f : Tlb → Bool) (htlb : d.trans.tlb = []) (hmicro : d.trans.micro = []) : d.dropTlb f = d := by
  have htrans : ({ d.trans with tlb := [], micro := [] } : Trans) = d.trans := by rw [← htlb, ← hmicro]
  unfold Dev.dropTlb
  rw [htlb, hmicro]
  show d.setTrans { d.trans with tlb := [], micro := [] } = d
  rw [htrans]
  rfl

theorem Dev.restartWalks_none {d : Dev} (n sp : Nat) (hwalks : d.trans.walks = []) (htreqs : d.trans.treqs = []) : d.restartWalks n sp = d := by
  have htrans : ({ d.trans with walks := [], treqs := [] } : Trans) = d.trans := by rw [← hwalks, ← htreqs]
  unfold Dev.restartWalks
  rw [hwalks, htreqs]
  show d.setTrans { d.trans with walks := [], treqs := [] } = d
  rw [htrans]
  rfl

/-- An invalidation is accepted where the function uses no translation. -/
theorem Dev.acceptInval_bare {d : Dev} {n v : Nat} (cmd : Option (Nat × W32)) (htlb : d.trans.tlb = []) (hmicro : d.trans.micro = []) (hcache : d.trans.wcache = [])
    (hwalks : d.trans.walks = []) (htreqs : d.trans.treqs = []) (hunder : d.underWay = []) (hreqs : d.link.reqs = []) (hrem : d.fabric.remotes = []) :
    d.acceptInval n v cmd = { d with trans := { d.trans with invals := d.trans.invals ++ [{ bay := n, space := v % 4, ats := false, cmd := cmd }] } } := by
  have hopen (l : List Tlb) : d.openAccesses l = ([], [], []) := by
    unfold Dev.openAccesses
    rw [hunder, hreqs, hrem]
    rfl
  unfold Dev.acceptInval
  dsimp only
  rw [hopen, Dev.dropTlb_empty _ htlb hmicro, hcache, List.filter_nil, ← hcache]
  exact Dev.restartWalks_none (d := d.setTrans _) _ _ hwalks htreqs

theorem lathInval_starts {n : Fin 16} {q : Fin 8} {p : W32} {c : Cmd} {s : State} (h : s.Stands n q p 8 .started c)
    (htlb : s.dev.trans.tlb = []) (hmicro : s.dev.trans.micro = []) (hcache : s.dev.trans.wcache = []) (hwalks : s.dev.trans.walks = [])
    (htreqs : s.dev.trans.treqs = []) (hroom : s.dev.invalsOf n < 8) (hunder : s.dev.underWay = []) (hreqs : s.dev.link.reqs = []) (hrem : s.dev.fabric.remotes = []) :
    exec (.lathInval n q p) s = .next { s with dev := { (s.dev.running n q c) with trans := { s.dev.trans with
      invals := s.dev.trans.invals ++ [{ bay := n, space := c.f 8 8 % 4, ats := false, cmd := some (q.val, p) }] } } } := by
  refine show execLathInval n q p s = _ from s.go_to _ _ h.rests ?_ (s.rests_quiet h.rests) (s.rests_stores h.rests)
  dsimp only
  rw [h.started]
  dsimp only
  rw [if_neg (by omega), show s.dev.setRunning n q p = s.dev.running n q c from h.runs rfl]
  exact Dev.acceptInval_bare _ htlb hmicro hcache hwalks htreqs hunder hreqs hrem

/-! ### Gutters, Courses, engines, trims -/

theorem gutter_starts {n : Fin 16} {q : Fin 8} {p : W32} {c : Cmd} {s : State} (h : s.Stands n q p 0x10 .started c) (hidle : (s.dev.gutter (c.f 8 2)).st = .idle) :
    exec (.gutter n q p) s = .next { s with dev := (s.dev.setGutter (c.f 8 2) { st := .running, bay := n, q := q, p := p, space := c.space, desc := c.f 0x10 8, addr := (s.dev.gutter (c.f 8 2)).addr }).running n q c } := by
  refine show execGutter n q p s = _ from s.go_to _ _ h.rests ?_ (s.rests_quiet h.rests) (s.rests_stores h.rests)
  dsimp only
  rw [h.started]
  dsimp only
  rw [if_pos (show ((s.dev.gutter (c.f 8 2)).st == .idle) = true by rw [hidle]; rfl), if_pos (by rw [hidle]; rfl)]
  exact h.runs rfl

theorem course_starts {n : Fin 16} {q : Fin 8} {p : W32} {c : Cmd} {s : State} (h : s.Stands n q p 0x11 .started c) {x : Course} (hx : s.dev.course (c.f 8 2) = x)
    (hst : x.st = .prepared) (hbay : x.bay = n.val) (hq : x.q = q.val) (hp : x.p = p) :
    exec (.course n q p) s = .next { s with dev := s.dev.setCourse (c.f 8 2) (({ x with st := .running, pass := 1, burstAt := none } : Course).stallTo s.time 0) } := by
  refine show execCourse n q p s = _ from s.go_to _ _ h.rests ?_ (s.rests_quiet h.rests) (s.rests_stores h.rests)
  show s.dev.courseCmd s.env n q p = _
  unfold Dev.courseCmd
  rw [h.started]
  dsimp only
  rw [hx, if_pos (by simp [hst, hbay, hq, hp])]
  unfold Dev.courseStall
  rw [Dev.course_setCourse, Dev.setCourse_setCourse]
  rfl

theorem engine_starts {n : Fin 16} {q : Fin 8} {p : W32} {c : Cmd} {x : List Byte} {tr : Trans} {s : State} {g : Nat} (h : s.Stands n q p 0x21 .started c)
    (hg : (engineBase (c.f 8 1)).1 + c.f 9 1 = g) (hr : s.reads (.cmd (8 * n + q) p.toNat) n c.space (c.f 0x10 8) 64 x tr)
    (hgood : s.dev.descBad n (c.f 8 1) x false false false = none) (hroom : (s.dev.engine g).queue.length + (s.dev.digestsOn g).length < 32) :
    exec (.engine n q p) s = .next { s with dev := (({ s.dev with trans := tr } : Dev).setEngine g
      { s.dev.engine g with queue := (s.dev.engine g).queue ++ [{ bay := n, q := q, p := p, space := c.space, d := x }] }).running n q c } := by
  refine show execEngine n q p s = _ from s.go_to _ _ h.rests ?_ (s.rests_quiet h.rests) (s.rests_stores h.rests)
  show s.dev.engineCmd s.env n q p = _
  unfold Dev.engineCmd
  rw [h.started]
  dsimp only
  rw [show s.dev.readRange s.env (.cmd (8 * n + q) p.toNat) n c.space (c.f 0x10 8) 64 = (.got x false, { s.dev with trans := tr }) from hr]
  dsimp only
  rw [show ({ s.dev with trans := tr } : Dev).descBad n (c.f 8 1) x false false false = none from hgood, hg]
  dsimp only
  have hfull : ¬ 32 ≤ (s.dev.engine g).queue.length + (s.dev.digestsOn g).length := by omega
  exact (if_neg hfull).trans (h.runs rfl)

theorem trim_starts {n : Fin 16} {q : Fin 8} {p : W32} {c : Cmd} {x : Arr} {k : Nat} {s : State} (h : s.Stands n q p 0x31 .started c)
    (hx : s.dev.arr (c.f 8 2) = x) (hk : c.f 0xA 2 = k) (hsrc : c.f 0x10 8 = 0) (hst : x.st = .seated) (htrim : (x.pair k).trimming = false)
    (hjob : s.dev.strict n = true → (s.dev.queue n q).job = none) :
    exec (.trim n q p) s = .next { s with dev := (s.dev.setArr (c.f 8 2) (x.setPair k { x.pair k with trimming := true, renewed := false, cmd := some (q.val, p) })).running n q c } := by
  have hfree : (s.dev.strict n && s.dev.cmdInJob n q) = false := by
    unfold Dev.cmdInJob
    cases hs : s.dev.strict n with
    | false => rfl
    | true => rw [hjob hs]; rfl
  refine show execTrim n q p s = _ from s.go_to _ _ h.rests ?_ (s.rests_quiet h.rests) (s.rests_stores h.rests)
  show s.dev.trimCmd s.env n q p = _
  unfold Dev.trimCmd
  rw [h.started]
  dsimp only
  rw [hx, hk, hsrc, hfree, if_neg (by simp [hst, htrim]), if_pos rfl]
  unfold Dev.modArr
  rw [hx]
  exact h.runs rfl

/-! ### A seat -/

/-- No line of a shadow's range is known to a home or has metadata: a seat snoops nothing. -/
theorem Dev.seatSnoops_none {d : Dev} {e : Env} (a : Nat) {base : Nat} (hdir : d.ridge.dir = [])
    (hmem : ∀ m ∈ e.mem, ¬(0x5E80000000 + base / 64 ≤ m.1 ∧ m.1 < 0x5E80000000 + base / 64 + 16384)) : d.seatSnoops e a base = d := by
  unfold Dev.seatSnoops
  dsimp only
  rw [hdir, List.map_nil, List.nil_append, List.filter_eq_nil_iff.mpr]
  · rfl
  · intro l hl
    obtain ⟨x, hx, rfl⟩ := List.mem_map.mp hl
    obtain ⟨hx, hlow⟩ := List.mem_filter.mp hx
    obtain ⟨m, hm, rfl⟩ := List.mem_map.mp hx
    have hlow := of_decide_eq_true hlow
    have := hmem m hm
    simp only [Bool.and_eq_true, decide_eq_true_eq, Nat.blt_eq]
    omega

theorem seat_starts {n : Fin 16} {q : Fin 8} {p : W32} {c : Cmd} {base a : Nat} {x : Arr} {tr : Trans} {s : State} (h : s.Stands n q p 0x30 .started c)
    (ha : c.f 8 2 = a) (hx : s.dev.arr a = x) (hsrc : c.f 0x10 8 % 0x100000 = 0)
    (hrange : s.dev.seatRange (.cmd (8 * n + q) p.toNat) n c.space (c.f 0x10 8) = (some (some base), { s.dev with trans := tr }))
    (hhbm : inHbm base = true) (hheld : (s.dev.bay n).held.hbm.has (granule base) = true) (hst : x.st = .unshadowed ∨ x.st = .seated ∨ x.st = .retired)
    (hbusy : s.dev.arrayBusy a = false) (hjob : s.dev.strict n = true → (s.dev.queue n q).job = none) (hseats : smGet 0 s.dev.nv.seats a < 10000)
    (hdir : s.dev.ridge.dir = []) (hmem : ∀ m ∈ s.mem, ¬(0x5E80000000 + base / 64 ≤ m.1 ∧ m.1 < 0x5E80000000 + base / 64 + 16384))
    {y : Arr} (hy : y = { x with st := .seating, bay := n, set := c.f 0x18 4, shadow := base, sparesUsed := 0, evals := 0, calDue := false, calLatched := false, pairs := [], toTrim := [], seatCmd := some (q.val, p) })
    {d : Dev} (hd : d = { s.dev with trans := tr, nv := { s.dev.nv with seats := smSet 0 s.dev.nv.seats a (smGet 0 s.dev.nv.seats a + 1) } }) :
    exec (.seat n q p) s = .next { s with dev := (d.setArr a y).running n q c } := by
  have hfree : (s.dev.strict n && s.dev.cmdInJob n q) = false := by
    unfold Dev.cmdInJob
    cases hs : s.dev.strict n with
    | false => rfl
    | true => rw [hjob hs]; rfl
  have hstate : (x.st == .unshadowed || x.st == .seated || x.st == .retired) = true := by
    obtain h | h | h := hst <;> rw [h] <;> rfl
  obtain ⟨z, hz⟩ : ∃ z : Dev, { s.dev with trans := tr } = z := ⟨_, rfl⟩
  have hz1 : (!(inHbm base && (z.bay n).held.hbm.has (granule base))) = false := by
    rw [show z.bay n = s.dev.bay n by rw [← hz]; rfl, hhbm, hheld]
    rfl
  have hz2 : (!(x.st == .unshadowed || x.st == .seated || x.st == .retired) || z.arrayBusy a || (z.strict n && z.cmdInJob n q)) = false := by
    rw [hstate, show z.arrayBusy a = s.dev.arrayBusy a by rw [← hz]; rfl, hbusy, show (z.strict n && z.cmdInJob n q) = (s.dev.strict n && s.dev.cmdInJob n q) by rw [← hz]; rfl,
      hfree]
    rfl
  have hz3 : ¬ 10000 ≤ smGet 0 z.nv.seats a := by
    rw [← hz]
    exact Nat.not_le.mpr hseats
  rw [hz] at hrange
  refine show execSeat n q p s = _ from s.go_to _ _ h.rests ?_ (by rw [hd]; exact s.rests_quiet h.rests) (by rw [hd]; exact s.rests_stores h.rests)
  show s.dev.seatCmd s.env n q p = _
  unfold Dev.seatCmd
  rw [h.started]
  dsimp only
  rw [ha, hx, if_neg (by simp [hsrc]), hrange]
  dsimp only
  rw [hz1, hz2, if_neg Bool.false_ne_true, if_neg Bool.false_ne_true, if_neg hz3, Dev.seatSnoops_none (e := s.env) a (by rw [← hz]; exact hdir) hmem, hd, hy, ← hz]
  exact h.runs rfl

/-! ### A RUN -/

theorem leNat_leBytes_mod (n v : Nat) : leNat (leBytes n v) = v % 256 ^ n := by
  induction n generalizing v with
  | zero => rw [Nat.pow_zero, Nat.mod_one]; rfl
  | succ n ih =>
    have hsplit : v % 256 ^ (n + 1) = v % 256 + 256 * (v / 256 % 256 ^ n) := by rw [pow_succ', Nat.mod_mul]
    rw [leBytes, leNat, ih, BitVec.toNat_ofNat, hsplit]

/-- A byte of memory as it stands once the writes under way are made. -/
def Dev.inMem (d : Dev) (m : List Host.Cell) (x : Nat) : Byte := smGet 0 (d.stores.foldr (fun o m => o.onMem m) m) x

theorem State.byte_inMem (s : State) (d : Dev) (x : Nat) : (s.commit d).byte x = d.inMem s.mem x := rfl

theorem Dev.inMem_poke (d : Dev) (m : List Host.Cell) (a : Nat) (bs : List Byte) (x : Nat) :
    (d.poke a bs).inMem m x = if a ≤ x ∧ x < a + bs.length then (bs[x - a]?).getD 0 else d.inMem m x := MemOp.write_byte _ _ _ _

theorem Dev.inMem_setCore (d : Dev) (m : List Host.Cell) (c : Nat) (x : Core) (a : Nat) : (d.setCore c x).inMem m a = d.inMem m a := rfl

theorem Dev.core_setCore (d : Dev) (c j : Nat) (x : Core) : (d.setCore c x).core j = if j = c then x else d.core j := smGet_set ({} : Core) d.cores c j x

/-- One core is loaded: the program, the arguments, its place among the cores of its RUN (R428, R434). -/
def Dev.coreLoad (d : Dev) (id k : Nat) (ops args : List Byte) (c : Nat × Nat) : Dev :=
  (((d.poke (localBase c.1) ops).poke (localBase c.1 + 0x7FFC0) (fit 64 args)).poke (localBase c.1 + 0x7FFB8) (leBytes 2 c.2 ++ leBytes 2 k)).setCore c.1
    { st := .running, run := some id, logical := c.2 }

/-- What differs in the cores and in memory alone. -/
def Dev.SameButCores (d d' : Dev) : Prop := ∃ cs st, d' = { d with cores := cs, stores := st }

theorem Dev.SameButCores.poke {d d' : Dev} (h : d.SameButCores d') (a : Nat) (bs : List Byte) : d.SameButCores (d'.poke a bs) := by
  obtain ⟨cs, st, rfl⟩ := h
  exact ⟨cs, .write a bs :: st, rfl⟩

theorem Dev.SameButCores.setCore {d d' : Dev} (h : d.SameButCores d') (c : Nat) (x : Core) : d.SameButCores (d'.setCore c x) := by
  obtain ⟨cs, st, rfl⟩ := h
  exact ⟨smSet {} cs c x, st, rfl⟩

theorem Dev.SameButCores.coreLoad {d d' : Dev} (h : d.SameButCores d') (id k : Nat) (ops args : List Byte) (c : Nat × Nat) :
    d.SameButCores (d'.coreLoad id k ops args c) := (((h.poke _ _).poke _ _).poke _ _).setCore _ _

/-- Loading touches the cores and memory alone. -/
theorem Dev.coreLoads_shape (d : Dev) (id k : Nat) (ops args : List Byte) (l : List (Nat × Nat)) :
    d.SameButCores (l.foldl (fun d c => d.coreLoad id k ops args c) d) := by
  induction l using List.reverseRecOn with
  | nil => exact ⟨d.cores, d.stores, rfl⟩
  | append_singleton l c ih =>
    rw [List.foldl_append]
    exact ih.coreLoad id k ops args c

/-- The cores of a RUN are loaded one after another, and the RUN is on record. -/
theorem Dev.runStart_loads (d : Dev) (r : RunRec) (ops args : List Byte) {z : Dev} {cs : SMap Core} {st : List MemOp}
    (hz : r.cores.zipIdx.foldl (fun d c => d.coreLoad r.id r.cores.length ops args c) d = z) (hshape : z = { d with cores := cs, stores := st }) :
    d.runStart r ops args = { z with runs := d.runs ++ [r], nextRun := d.nextRun + 1 } := by
  have hrun : d.runStart r ops args = { z with runs := z.runs ++ [r], nextRun := z.nextRun + 1 } := by
    rw [← hz]
    rfl
  rw [hrun, hshape]

/-- What a core holds once it is loaded. -/
structure Dev.Loaded (d : Dev) (m : List Host.Cell) (id k : Nat) (ops : List Byte) (c i : Nat) : Prop where
  core : d.core c = { st := .running, run := some id, logical := i }
  program : ∀ j, j < ops.length → d.inMem m (localBase c + j) = (ops[j]?).getD 0
  place : ∀ j, j < 4 → d.inMem m (localBase c + 0x7FFB8 + j) = ((leBytes 2 i ++ leBytes 2 k)[j]?).getD 0

section
variable {d : Dev} {m : List Host.Cell} {id k : Nat} {ops args : List Byte}

/-- Where the bytes of a core that is loaded come from. -/
theorem Dev.inMem_coreLoad (c : Nat × Nat) (x : Nat) : (d.coreLoad id k ops args c).inMem m x =
    if localBase c.1 + 0x7FFB8 ≤ x ∧ x < localBase c.1 + 0x7FFB8 + 4 then ((leBytes 2 c.2 ++ leBytes 2 k)[x - (localBase c.1 + 0x7FFB8)]?).getD 0
    else if localBase c.1 + 0x7FFC0 ≤ x ∧ x < localBase c.1 + 0x7FFC0 + 64 then ((fit 64 args)[x - (localBase c.1 + 0x7FFC0)]?).getD 0
    else if localBase c.1 ≤ x ∧ x < localBase c.1 + ops.length then (ops[x - localBase c.1]?).getD 0
    else d.inMem m x := by
  have hplace : (leBytes 2 c.2 ++ leBytes 2 k).length = 4 := by rw [List.length_append, leBytes_length, leBytes_length]
  unfold Dev.coreLoad
  rw [Dev.inMem_setCore, Dev.inMem_poke, Dev.inMem_poke, Dev.inMem_poke, hplace, fit_length]

theorem Dev.coreLoad_loaded (hlen : ops.length ≤ 0x20000) (c : Nat × Nat) : (d.coreLoad id k ops args c).Loaded m id k ops c.1 c.2 := by
  refine ⟨(Dev.core_setCore _ _ _ _).trans (if_pos rfl), fun j hj => ?_, fun j hj => ?_⟩
  · rw [Dev.inMem_coreLoad]
    generalize localBase c.1 = b
    rw [if_neg (by omega), if_neg (by omega), if_pos (by omega), Nat.add_sub_cancel_left]
  · rw [Dev.inMem_coreLoad]
    generalize localBase c.1 + 0x7FFB8 = b
    rw [if_pos (by omega), Nat.add_sub_cancel_left]

theorem localBase_apart {b c : Nat} (h : b ≠ c) : localBase b + 0x80000 ≤ localBase c ∨ localBase c + 0x80000 ≤ localBase b := by
  unfold localBase
  omega

/-- The loading of a core touches no other. -/
theorem Dev.coreLoad_other (hlen : ops.length ≤ 0x20000) {c : Nat × Nat} {b i : Nat} (hb : b ≠ c.1) (h : d.Loaded m id k ops b i) :
    (d.coreLoad id k ops args c).Loaded m id k ops b i := by
  have hfar (x : Nat) (h0 : localBase b ≤ x) (h1 : x < localBase b + 0x80000) : (d.coreLoad id k ops args c).inMem m x = d.inMem m x := by
    have hapart := localBase_apart hb
    rw [Dev.inMem_coreLoad]
    generalize localBase c.1 = u at hapart ⊢
    generalize localBase b = v at hapart h0 h1
    rw [if_neg (by omega), if_neg (by omega), if_neg (by omega)]
  refine ⟨(Dev.core_setCore _ _ _ _).trans ((if_neg hb).trans h.core), fun j hj => ?_, fun j hj => ?_⟩
  · rw [hfar _ (by omega) (by omega)]
    exact h.program j hj
  · rw [hfar _ (by omega) (by omega)]
    exact h.place j hj

/-- Every core of the list is loaded. -/
theorem Dev.coreLoads_loaded (hlen : ops.length ≤ 0x20000) (l : List (Nat × Nat)) (hl : (l.map (·.1)).Nodup) :
    ∀ c ∈ l, (l.foldl (fun d c => d.coreLoad id k ops args c) d).Loaded m id k ops c.1 c.2 := by
  induction l using List.reverseRecOn with
  | nil => exact fun c hc => absurd hc (by simp)
  | append_singleton l x ih =>
    rw [List.map_append, List.nodup_append] at hl
    obtain ⟨hl, -, hx⟩ := hl
    intro c hc
    rw [List.foldl_append, List.foldl_cons, List.foldl_nil]
    obtain hc | hc := List.mem_append.mp hc
    · exact Dev.coreLoad_other hlen (hx _ (List.mem_map_of_mem hc) _ (by simp)) (ih hl c hc)
    · rw [List.mem_singleton.mp hc]
      exact Dev.coreLoad_loaded hlen x

end

/-- What a RUN reads before it starts: its header, its program and its arguments (R428). -/
theorem Dev.runLoad_reads {d d1 d2 d3 : Dev} {e : Env} {w : Who} {n sp prog args : Nat} {h ops xs : List Byte} (h0 : 0 < fld h 0 4) (h1 : fld h 0 4 ≤ 4096)
    (hr : d.readRange e w n sp prog 64 = (.got h false, d1)) (hr1 : d1.readRange e w n sp (prog + 64) (32 * fld h 0 4) = (.got ops false, d2))
    (hr2 : d2.readRange e w n sp args 64 = (.got xs false, d3)) (hgood : progBad h ops (fun _ => none) false = none) :
    d.runLoad e w n sp prog args (fun _ => none) false = (.inl (ops, xs), d3) := by
  have hprep {a b : Dev} {x len : Nat} {bs : List Byte} (hx : a.readRange e w n sp x len = (.got bs false, b)) : a.readPrep e w n sp x len = (.inl bs, b) := by
    unfold Dev.readPrep
    rw [hx]
  unfold Dev.runLoad
  rw [hprep hr]
  dsimp only
  rw [if_neg (by simp only [Bool.or_eq_true, decide_eq_true_eq]; omega), hprep hr1]
  dsimp only
  rw [hgood]
  dsimp only
  rw [if_neg Bool.false_ne_true, hprep hr2]

theorem run_starts {n : Fin 16} {q : Fin 8} {p : W32} {c : Cmd} {h ops args : List Byte} {tr tr1 tr2 : Trans} {s : State} {first count : Nat}
    (hst : s.Stands n q p 0x20 .started c) (hf : c.f 8 2 = first) (hc : c.f 0xA 2 = count) (hfirst : first ≠ 0xFFFF) (h0 : 0 < fld h 0 4) (h1 : fld h 0 4 ≤ 4096)
    (hr : s.reads (.cmd (8 * n + q) p.toNat) n c.space (c.f 0x10 8) 64 h tr)
    (hr1 : s.readsAfter tr (.cmd (8 * n + q) p.toNat) n c.space (c.f 0x10 8 + 64) (32 * fld h 0 4) ops tr1)
    (hr2 : s.readsAfter tr1 (.cmd (8 * n + q) p.toNat) n c.space (c.f 0x18 8) 64 args tr2) (hgood : progBad h ops (fun _ => none) false = none)
    (hfree : ∀ i, i < count → s.dev.coreFree (first + i) = true) (hlen : ops.length ≤ 0x20000) :
    ∃ t, exec (.run n q p) s = .next t ∧ (t.dev.queue n q) = (s.dev.running n q c).queue n q ∧ t.dev.nextRun = s.dev.nextRun + 1 ∧
      t.dev.runs = s.dev.runs ++ [⟨s.dev.nextRun, n, q, p, c.space, ops.length / 32, none, none, (List.range count).map (first + ·), [], none, 0, none⟩] ∧
      (∀ i, i < count → t.dev.core (first + i) = { st := .running, run := some s.dev.nextRun, logical := i } ∧
        (∀ j, j < ops.length → t.byte (localBase (first + i) + j) = (ops[j]?).getD 0) ∧
        fld (t.bytes (localBase (first + i) + 0x7FFB8) 4) 0 2 = i % 65536) := by
  obtain ⟨cs, hcs⟩ : ∃ cs, (List.range count).map (first + ·) = cs := ⟨_, rfl⟩
  obtain ⟨r, hrr⟩ : ∃ r : RunRec, r = ⟨s.dev.nextRun, n, q, p, c.space, ops.length / 32, none, none, cs, [], none, 0, none⟩ := ⟨_, rfl⟩
  obtain ⟨z, hz⟩ : ∃ z : Dev, { s.dev with trans := tr2 } = z := ⟨_, rfl⟩
  have hcores : z.runCores n first count = some cs := by
    unfold Dev.runCores
    rw [if_neg hfirst]
    dsimp only
    rw [hcs, if_pos]
    rw [← hcs, List.all_eq_true]
    intro x hx
    obtain ⟨i, hi, rfl⟩ := List.mem_map.mp hx
    rw [← hz]
    exact hfree i (List.mem_range.mp hi)
  obtain ⟨y, hy⟩ : ∃ y, cs.zipIdx.foldl (fun d c => d.coreLoad s.dev.nextRun cs.length ops args c) z = y := ⟨_, rfl⟩
  obtain ⟨co, mo, hshape⟩ := z.coreLoads_shape s.dev.nextRun cs.length ops args cs.zipIdx
  rw [hy] at hshape
  have hloaded : ∀ x ∈ cs.zipIdx, y.Loaded s.mem s.dev.nextRun cs.length ops x.1 x.2 := by
    rw [← hy]
    refine Dev.coreLoads_loaded hlen _ ?_
    rw [List.zipIdx_map_fst, ← hcs]
    exact List.nodup_range.map fun a b hab => by omega
  have heff : s.dev.runCmd s.env n q p = ({ y with runs := s.dev.runs ++ [r], nextRun := s.dev.nextRun + 1 } : Dev).running n q c := by
    unfold Dev.runCmd
    rw [hst.started]
    dsimp only
    rw [hf, hc, if_neg (by simp [hfirst]), Dev.runLoad_reads h0 h1 hr hr1 hr2 hgood, hz]
    dsimp only
    rw [hcores]
    dsimp only
    rw [if_neg hfirst, show z.nextRun = s.dev.nextRun by rw [← hz], ← hrr, Dev.runStart_loads z r ops args (by rw [hrr]; exact hy) hshape,
      show z.runs = s.dev.runs by rw [← hz], show z.nextRun = s.dev.nextRun by rw [← hz]]
    refine hst.runs ?_
    rw [hshape, ← hz]
    rfl
  refine ⟨_, show execRun n q p s = _ from s.go_done _ _ hst.rests heff ?_, ?_, rfl, ?_, fun i hi => ?_⟩
  · rw [hshape, ← hz]
    exact s.rests_quiet hst.rests
  · refine (Dev.queue_setQueue _ _ _ _).trans (Eq.trans ?_ (Dev.queue_setQueue _ _ _ _).symm)
    rw [hshape, ← hz]
    rfl
  · show s.dev.runs ++ [r] = _
    rw [hrr, hcs]
  · have hmem : (first + i, i) ∈ cs.zipIdx := by
      rw [← hcs, List.mem_zipIdx_iff_getElem?]
      simp [hi]
    obtain ⟨hcore, hprog, hplace⟩ := hloaded _ hmem
    refine ⟨hcore, hprog, ?_⟩
    have hbytes : (s.commit (({ y with runs := s.dev.runs ++ [r], nextRun := s.dev.nextRun + 1 } : Dev).running n q c)).bytes (localBase (first + i) + 0x7FFB8) 4 =
        leBytes 2 i ++ leBytes 2 cs.length := by
      refine List.ext_getElem (by rw [State.bytes, List.length_map, List.length_range, List.length_append, leBytes_length, leBytes_length]) fun j hj hj' => ?_
      have hj : j < 4 := by rwa [State.bytes, List.length_map, List.length_range] at hj
      simp only [State.bytes, List.getElem_map, List.getElem_range]
      exact (hplace j hj).trans (by rw [List.getElem?_eq_getElem hj', Option.getD_some])
    rw [hbytes, fld_append_left (by rw [leBytes_length]), fld, List.drop_zero, List.take_of_length_le (by rw [leBytes_length]), leNat_leBytes_mod]
    rfl

/-! ### Chains of Gutter stages -/

/-- The stages of a chain that are Gutters without a reservation. -/
def Stage.Plain (x : Stage) : Prop := x.kind = 2 ∧ x.res = 0xFFFF

theorem Dev.gutter_setGutter_other (d : Dev) {c j : Nat} (x : Gutter) (h : j ≠ c) : (d.setGutter c x).gutter j = d.gutter j :=
  smGet_set_other ({} : Gutter) d.gutters _ _ _ h

/-- The Gutter of a stage as it starts. -/
def Dev.stageGutter (d : Dev) (n q : Nat) (p : W32) (sp i : Nat) (x : Stage) : Gutter :=
  { st := .running, bay := n, q := q, p := p, space := sp, desc := x.dva, stage := some i, addr := (d.gutter x.obj).addr }

theorem Dev.stageStart_plain (d : Dev) (e : Env) (n q : Nat) (p : W32) (sp i : Nat) {x : Stage} (hx : x.Plain) (cores : List Nat) :
    d.stageStart e n q p sp i x cores = d.setGutter x.obj (d.stageGutter n q p sp i x) := by
  unfold Dev.stageStart
  rw [hx.1]
  exact if_pos hx.2

theorem chainEngines_plain {l : List Stage} (h : ∀ x ∈ l, x.Plain) : chainEngines l = [] := by
  unfold chainEngines
  rw [List.filter_eq_nil_iff.mpr fun x hx => by simp [(h x hx).1]]
  rfl

theorem Dev.chainDeep_plain (d : Dev) (n sp : Nat) {l : List Stage} (h : ∀ x ∈ l, x.Plain) : d.chainDeep n sp l = true := by
  unfold Dev.chainDeep
  exact List.all_eq_true.mpr fun x hx => by simp [(h x hx).1]

/-- Stages that are Gutters take no core. -/
theorem Dev.chainCores_plain (d : Dev) (n : Nat) {l : List Stage} (h : ∀ x ∈ l, x.Plain) : d.chainCores n l = l.map fun _ => some [] := by
  unfold Dev.chainCores
  generalize hf : (fun (c : List Nat × List (Option (List Nat))) (s : Stage) => _) = f
  have hstep (acc : List (Option (List Nat))) {x : Stage} (hx : x.Plain) : f ([], acc) x = ([], acc ++ [some []]) := by
    rw [← hf]
    exact if_pos (by rw [hx.1]; decide)
  have hall (acc : List (Option (List Nat))) : l.foldl f ([], acc) = ([], acc ++ l.map fun _ => some []) := by
    clear hf
    induction l generalizing acc with
    | nil => rw [List.map_nil, List.append_nil, List.foldl_nil]
    | cons x l ih =>
      rw [List.foldl_cons, hstep acc (h x List.mem_cons_self), ih fun y hy => h y (List.mem_cons_of_mem _ hy), List.map_cons, List.append_assoc, List.singleton_append]
  rw [hall, List.nil_append]

theorem Dev.admits_none (d : Dev) (n : Nat) : d.admits n [] = true := rfl

/-- The chain on record, with the loads of its preparation or its own. -/
def Dev.chained (d : Dev) (n q : Nat) (p : W32) (sp : Nat) (l : List Stage) (loads : List (Nat × Nat)) : Dev :=
  { d with
    prepared := d.prepared.filter fun c => !(c.bay == n && c.q == q && c.p == p)
    chains := d.chains ++ [{ bay := n, q := q, p := p, space := sp, stages := l, loads := loads }] }

/-- A chain of Gutter stages that is admitted starts every stage at once. -/
theorem Dev.chainGo_plain {d : Dev} (e : Env) (n q : Nat) (p : W32) (sp : Nat) {l : List Stage} {held : Option (List (Nat × Nat))} {loads : List (Nat × Nat)} (keep : Dev → Dev)
    (h : ∀ x ∈ l, x.Plain) (hloads : held.getD (d.chainLoads n sp l) = loads) (hadmit : held.isNone = true → d.admits n loads = true) :
    d.chainGo e n q p sp l held keep = (l.zipIdx.foldl (fun d x => d.setGutter x.1.obj (d.stageGutter n q p sp x.2 x.1)) (d.chained n q p sp l loads)).modCmd n q p
      fun c => { c with ph := .running, snap := [] } := by
  have hcores : (d.chainCores n l).any Option.isNone = false := by
    rw [d.chainCores_plain n h]
    simp
  have hquota : (held.isNone && !(d.admits n loads && d.chainDeep n sp l)) = false := by
    rw [d.chainDeep_plain n sp h]
    cases hh : held.isNone with
    | false => rfl
    | true => rw [hadmit hh]; rfl
  have hzip : (l.zip (l.map fun _ => some ([] : List Nat))).zipIdx = l.zipIdx.map fun x => ((x.1, some []), x.2) :=
    List.ext_getElem (by simp) fun i _ _ => by simp
  unfold Dev.chainGo
  dsimp only
  rw [chainEngines_plain h, hcores, List.any_nil, Bool.or_false, if_neg Bool.false_ne_true, hloads, hquota, if_neg Bool.false_ne_true, d.chainCores_plain n h, hzip, List.foldl_map]
  refine congrArg (fun d : Dev => d.modCmd n q p fun c => { c with ph := .running, snap := [] }) (List.foldl_ext _ _ _ fun d x hx => ?_)
  exact d.stageStart_plain e n q p sp x.2 (h x.1 (List.fst_mem_of_mem_zipIdx hx)) _

section
variable {s : State} {n : Fin 16} {q : Fin 8} {p : W32} {c : Cmd}

/-- A chain whose preparation stands starts its one stage. -/
theorem chain_prepared {h : Chain} {a : Stage} (hst : s.Stands n q p 0x12 .started c) (hprep : s.dev.preparedFor n q p = some h) (hss : h.stages = [a]) (ha : a.Plain)
    (hidle : (s.dev.gutter a.obj).st = .idle) {d : Dev}
    (hd : d = { s.dev with prepared := s.dev.prepared.filter fun x => !(x.bay == n.val && x.q == q && x.p == p), chains := s.dev.chains ++ [{ bay := n, q := q, p := p, space := c.space, stages := [a], loads := h.loads }] }) :
    exec (.chain n q p) s = .next { s with dev := (d.setGutter a.obj (s.dev.stageGutter n q p c.space 0 a)).running n q { c with snap := [] } } := by
  have hfree : s.dev.stageState n q p a = false := by
    unfold Dev.stageState
    rw [ha.1]
    simp [hidle, ha.2]
  have hplain : ∀ x ∈ [a], x.Plain := fun x hx => by rwa [List.mem_singleton.mp hx]
  refine show execChain n q p s = _ from s.go_to _ _ hst.rests ?_ (by rw [hd]; exact s.rests_quiet hst.rests) (by rw [hd]; exact s.rests_stores hst.rests)
  show s.dev.chainCmd s.env n q p = _
  unfold Dev.chainCmd
  rw [hst.started]
  dsimp only
  rw [hprep]
  dsimp only
  rw [hss, List.find?_cons_of_neg (by rw [hfree]; exact Bool.false_ne_true), List.find?_nil]
  dsimp only
  rw [Dev.chainGo_plain (loads := h.loads) _ _ _ _ _ id hplain rfl (fun hn => Bool.noConfusion hn), hd]
  exact hst.modCmd_eq (d := (s.dev.chained n q p c.space [a] h.loads).setGutter a.obj (s.dev.stageGutter n q p c.space 0 a)) rfl _

/-! ### What a chain of Gutter stages reads -/

/-- A stage descriptor whose stage is a Gutter of the Bay at rest, without a reservation (R414). -/
structure State.GutterStage (s : State) (n : Nat) (x : List Byte) : Prop where
  length : x.length = 32
  kind : tKind x = 2
  res : tRes x = 0xFFFF
  obj : tObj x < 256
  held : (s.dev.bay n).held.hasGutter (tObj x) = true
  idle : (s.dev.gutter (tObj x)).st = .idle

/-- The stage that a descriptor names. -/
def gutterStage (x : List Byte) : Stage := { kind := 2, obj := tObj x, dva := tDva x, rate := tRate x }

/-- What `stageForm` says of a Gutter's descriptor: it names no engine type and no count. -/
theorem stageForm_gutter {k i : Nat} {x : List Byte} {prev : Option (List Byte)} (h : stageForm k i x prev = none) (hk : tKind x = 2) :
    tEng x = 0 ∧ tCount x = 0 ∧ (i + 1 = k → tRing x = 0) ∧ (i + 1 ≠ k → tRing x ≠ 0) := by
  unfold stageForm firstBad at h
  dsimp only at h
  rw [Option.map_map, Option.map_eq_none_iff, List.find?_eq_none] at h
  simp only [hk, List.mem_cons, List.not_mem_nil, or_false, forall_eq_or_imp, forall_eq] at h
  obtain ⟨-, -, heng, hcount, -, -, hring, -⟩ := h
  refine ⟨by simpa using heng, by simpa using hcount, fun hi => ?_, fun hi => ?_⟩
  · simpa [hi] using hring
  · intro hzero
    simp [hi, hzero] at hring

theorem Ld.stage_gutter {l : Ld} {e : Env} {w : Who} {n q : Nat} {p : W32} {sp i : Nat} {x : List Byte} {prev : Option (List Byte)} {ring : Nat → Option Nat}
    (hk : tKind x = 2) (hres : tRes x = 0xFFFF) (heng : tEng x = 0) (hcount : tCount x = 0) : l.stage e w n q p sp i x prev ring = (.inl (gutterStage x), l) := by
  unfold Ld.stage
  dsimp only
  rw [hk, hres, heng, hcount]
  exact if_neg (by simp)

/-- Stage descriptors of Gutters that pass their checks, each with the one before it. -/
structure Dev.GutterStages (d : Dev) (n k : Nat) (xs : List (List Byte)) : Prop where
  form : ∀ x ∈ xs.zipIdx, stageForm k x.2 x.1 (if x.2 = 0 then none else xs[x.2 - 1]?) = none
  range : ∀ x ∈ xs.zipIdx, stageRange k x.2 x.1 = none
  access : ∀ x ∈ xs, d.stageAccess n x = false
  gutter : ∀ x ∈ xs, tKind x = 2 ∧ tRes x = 0xFFFF ∧ tEng x = 0 ∧ tCount x = 0

/-- A chain whose stages are Gutters is loaded: its descriptors are read, and its rings found. -/
theorem Dev.chainLoad_gutters {d d1 d2 : Dev} {e : Env} {n q : Nat} {p : W32} {k : Cmd} {busy : Dev → Stage → Bool} {tb : List Byte} {xs : List (List Byte)} {rs : List (Option Ring)}
    (hread : d.readRange e (.cmd (8 * n + q) p.toNat) n k.space (k.f 8 8) (32 * k.f 0x10 1) = (.got tb false, d1))
    (hxs : ((List.range (k.f 0x10 1)).map fun i => (tb.drop (32 * i)).take 32) = xs) (h : d1.GutterStages n (k.f 0x10 1) xs)
    (hbusy : ∀ x ∈ xs, busy d1 (gutterStage x) = false) (htwice : stageTwice (xs.map gutterStage) = false)
    (hrings : d1.chainRings (.cmd (8 * n + q) p.toNat) n k.space xs = (some (.inl rs), d2)) (hclash : ringClash rs = none) (hout : d2.outCourseBad xs = none) :
    d.chainLoad e n q p k busy = (.ok (((xs.map gutterStage).zip rs).map fun c => ({ c.1 with ring := c.2 } : Stage)), ⟨d2, [(k.f 8 8, tb)]⟩) := by
  have hprep : (Ld.mk d []).read e (.cmd (8 * n + q) p.toNat) n k.space (k.f 8 8) (32 * k.f 0x10 1) = (.inl tb, ⟨d1, [(k.f 8 8, tb)]⟩) := by
    unfold Ld.read Dev.readPrep
    dsimp only
    rw [hread]
    rfl
  have hform : (xs.zipIdx.findSome? fun x => stageForm (k.f 0x10 1) x.2 x.1 (if x.2 = 0 then none else xs[x.2 - 1]?)) = none := List.findSome?_eq_none_iff.mpr h.form
  have hrange : (xs.zipIdx.findSome? fun x => stageRange (k.f 0x10 1) x.2 x.1) = none := List.findSome?_eq_none_iff.mpr h.range
  have haccess : (xs.any fun x => d1.stageAccess n x) = false := List.any_eq_false.mpr fun x hx => by rw [h.access x hx]; exact Bool.false_ne_true
  have hnot : ((xs.map gutterStage).any (busy d1)) = false := by
    rw [List.any_map]
    exact List.any_eq_false.mpr fun x hx => by rw [Function.comp_apply, hbusy x hx]; exact Bool.false_ne_true
  unfold Dev.chainLoad
  dsimp only
  rw [hprep]
  dsimp only
  rw [hxs, hform]
  dsimp only
  rw [hrange]
  dsimp only
  rw [haccess, if_neg Bool.false_ne_true]
  generalize hf : (fun (c : (List Stage ⊕ Prep) × Ld) (x : List Byte × Nat) => _) = f
  have hstep (ss : List Stage) {x : List Byte × Nat} (hx : x.1 ∈ xs) : f (.inl ss, ⟨d1, [(k.f 8 8, tb)]⟩) x = (.inl (ss ++ [gutterStage x.1]), ⟨d1, [(k.f 8 8, tb)]⟩) := by
    obtain ⟨h1, h2, h3, h4⟩ := h.gutter _ hx
    rw [← hf]
    dsimp only
    rw [Ld.stage_gutter h1 h2 h3 h4]
  have hall (l : List (List Byte × Nat)) (ss : List Stage) (hl : ∀ x ∈ l, x.1 ∈ xs) :
      l.foldl f (.inl ss, ⟨d1, [(k.f 8 8, tb)]⟩) = (.inl (ss ++ l.map fun x => gutterStage x.1), ⟨d1, [(k.f 8 8, tb)]⟩) := by
    clear hf
    induction l generalizing ss with
    | nil => rw [List.map_nil, List.append_nil, List.foldl_nil]
    | cons x l ih =>
      rw [List.foldl_cons, hstep ss (hl x List.mem_cons_self), ih _ fun y hy => hl y (List.mem_cons_of_mem _ hy), List.map_cons, List.append_assoc, List.singleton_append]
  have hmap : (xs.zipIdx.map fun x => gutterStage x.1) = xs.map gutterStage := by
    rw [show (fun x : List Byte × Nat => gutterStage x.1) = gutterStage ∘ Prod.fst from rfl, ← List.map_map, List.zipIdx_map_fst]
  rw [hall _ _ fun x hx => List.fst_mem_of_mem_zipIdx hx, List.nil_append, hmap]
  dsimp only
  rw [hnot, htwice, Bool.or_false, if_neg Bool.false_ne_true, hrings]
  dsimp only
  rw [hclash, Option.map_none, Option.orElse_none, hout]

/-- Where no chain is prepared for a command, none is dropped as it starts. -/
theorem Dev.chained_unprepared {d : Dev} {n q : Nat} {p : W32} (sp : Nat) (l : List Stage) (loads : List (Nat × Nat)) (h : d.preparedFor n q p = none) :
    d.chained n q p sp l loads = { d with chains := d.chains ++ [{ bay := n, q := q, p := p, space := sp, stages := l, loads := loads }] } := by
  have hkeep : (d.prepared.filter fun c => !(c.bay == n && c.q == q && c.p == p)) = d.prepared :=
    List.filter_eq_self.mpr fun x hx => by
      have hx := List.find?_eq_none.mp h x hx
      rw [Bool.not_eq_true] at hx
      rw [hx]
      rfl
  unfold Dev.chained
  rw [hkeep]

theorem gutterStage_plain (x : List Byte) : (gutterStage x).Plain := ⟨rfl, rfl⟩

theorem State.GutterStage.stageRange {k i : Nat} {x : List Byte} (h : s.GutterStage n x) (hlog : i + 1 ≠ k → 12 ≤ tLog x ∧ tLog x ≤ 24) : stageRange k i x = none := by
  have hkind := h.kind
  have hobj := h.obj
  have hres := h.res
  unfold Machine.stageRange firstBad
  dsimp only
  rw [Option.map_map, Option.map_eq_none_iff, List.find?_eq_none]
  simp only [hkind, hres, List.mem_cons, List.not_mem_nil, or_false, forall_eq_or_imp, forall_eq]
  refine ⟨by simp, by simp; omega, by simp, by simp, ?_⟩
  by_cases hi : i + 1 = k
  · simp [hi]
  · have := hlog hi
    simp
    omega

theorem State.GutterStage.stageAccess {x : List Byte} (h : s.GutterStage n x) : s.dev.stageAccess n x = false := by
  unfold Dev.stageAccess
  dsimp only
  rw [h.kind]
  simp [h.held, h.res]

theorem State.GutterStage.stageFree {x : List Byte} (h : s.GutterStage n x) (q : Nat) (p : W32) : s.dev.stageState n q p (gutterStage x) = false := by
  unfold Dev.stageState gutterStage
  simp [h.idle]

/-- A chain of one Gutter stage is read and starts. -/
theorem chain_single {x : List Byte} {tr : Trans} (hst : s.Stands n q p 0x12 .started c) (hprep : s.dev.preparedFor n q p = none) (hcnt : c.f 0x10 1 = 1)
    (hr : s.reads (.cmd (8 * n + q) p.toNat) n c.space (c.f 8 8) 32 x tr) (hform : stageForm 1 0 x none = none) (hx : s.GutterStage n x) {d : Dev}
    (hd : d = { s.dev with trans := tr, chains := s.dev.chains ++ [{ bay := n, q := q, p := p, space := c.space, stages := [gutterStage x] }] }) :
    exec (.chain n q p) s = .next { s with dev := (d.setGutter (tObj x) (s.dev.stageGutter n q p c.space 0 (gutterStage x))).running n q { c with snap := [] } } := by
  obtain ⟨heng, hcount, hring, -⟩ := stageForm_gutter hform hx.kind
  have hring := hring rfl
  obtain ⟨z, hz⟩ : ∃ z : Dev, { s.dev with trans := tr } = z := ⟨_, rfl⟩
  have hload : s.dev.chainLoad s.env n q p c (fun d x => d.stageState n q p x) = (.ok [gutterStage x], ⟨z, [(c.f 8 8, x)]⟩) := by
    refine Dev.chainLoad_gutters (xs := [x]) (rs := [none]) (d1 := z) ?_ ?_ ?_ ?_ rfl ?_ rfl ?_
    · rw [hcnt, ← hz]; exact hr
    · rw [hcnt]
      simp [List.range_one, hx.length]
    · rw [hcnt, ← hz]
      refine ⟨?_, ?_, ?_, ?_⟩
      · intro y hy
        rw [List.mem_singleton.mp hy]
        exact hform
      · intro y hy
        rw [List.mem_singleton.mp hy]
        exact hx.stageRange fun h => absurd rfl h
      · intro y hy
        rw [List.mem_singleton.mp hy]
        exact hx.stageAccess
      · intro y hy
        rw [List.mem_singleton.mp hy]
        exact ⟨hx.kind, hx.res, heng, hcount⟩
    · intro y hy
      rw [List.mem_singleton.mp hy, ← hz]
      exact hx.stageFree q p
    · unfold Dev.chainRings
      simp [hx.kind, hring]
    · unfold Dev.outCourseBad
      simp
  refine show execChain n q p s = _ from s.go_to _ _ hst.rests ?_ (by rw [hd]; exact s.rests_quiet hst.rests) (by rw [hd]; exact s.rests_stores hst.rests)
  show s.dev.chainCmd s.env n q p = _
  unfold Dev.chainCmd
  rw [hst.started]
  dsimp only
  rw [hprep]
  dsimp only
  rw [hload]
  dsimp only
  rw [Dev.chainGo_plain (loads := []) _ _ _ _ _ _ (fun y hy => by rw [List.mem_singleton.mp hy]; exact gutterStage_plain x) rfl (fun _ => rfl),
    Dev.chained_unprepared _ _ _ (by rw [← hz]; exact hprep), ← hz, hd]
  exact hst.modCmd_eq (d := ({ s.dev with trans := tr, chains := s.dev.chains ++ [{ bay := n, q := q, p := p, space := c.space, stages := [gutterStage x] }] } : Dev).setGutter (tObj x) (s.dev.stageGutter n q p c.space 0 (gutterStage x))) rfl _

/-- A chain of two Gutter stages is read, its ring is found, and both start. -/
theorem chain_pair {x y : List Byte} {pg : List Nat} {tr tr1 : Trans} (hst : s.Stands n q p 0x12 .started c) (hprep : s.dev.preparedFor n q p = none) (hcnt : c.f 0x10 1 = 2)
    (hr : s.reads (.cmd (8 * n + q) p.toNat) n c.space (c.f 8 8) 64 (x ++ y) tr) (hform : stageForm 2 0 x none = none) (hform' : stageForm 2 1 y (some x) = none)
    (hx : s.GutterStage n x) (hy : s.GutterStage n y) (hne : tObj x ≠ tObj y) (hlog : 12 ≤ tLog x ∧ tLog x ≤ 24)
    (hpages : ({ s.dev with trans := tr } : Dev).ringPages (.cmd (8 * n + q) p.toNat) n c.space (tRing x) (tLog x) true = (some (some pg), { s.dev with trans := tr1 }))
    {loads : List (Nat × Nat)} (hloads : loads = [(bankRes (pg.headD 0), 2 * tRate x)]) (hadmit : ({ s.dev with trans := tr1 } : Dev).admits n loads = true)
    {a : Stage} (ha : a = { gutterStage x with ring := some { pages := pg, log := tLog x } }) {d : Dev}
    (hd : d = { s.dev with trans := tr1, chains := s.dev.chains ++ [{ bay := n, q := q, p := p, space := c.space, stages := [a, gutterStage y], loads := loads }] }) :
    exec (.chain n q p) s = .next { s with dev := ((d.setGutter (tObj x) (s.dev.stageGutter n q p c.space 0 (gutterStage x))).setGutter (tObj y) (s.dev.stageGutter n q p c.space 1 (gutterStage y))).running n q { c with snap := [] } } := by
  obtain ⟨heng, hcount, -, hring⟩ := stageForm_gutter hform hx.kind
  obtain ⟨heng', hcount', hring', -⟩ := stageForm_gutter hform' hy.kind
  have hring := hring (by decide)
  have hring' := hring' rfl
  have hforall {P : List Byte → Prop} (h : P x) (h' : P y) : ∀ u ∈ [x, y], P u := fun u hu => by
    obtain rfl | hu := List.mem_cons.mp hu
    · exact h
    · rwa [List.mem_singleton.mp hu]
  have hindexed {P : List Byte × Nat → Prop} (h : P (x, 0)) (h' : P (y, 1)) : ∀ u ∈ [x, y].zipIdx, P u := fun u hu => by
    obtain rfl | hu := List.mem_cons.mp hu
    · exact h
    · rwa [List.mem_singleton.mp hu]
  obtain ⟨z, hz⟩ : ∃ z : Dev, { s.dev with trans := tr } = z := ⟨_, rfl⟩
  obtain ⟨z1, hz1⟩ : ∃ z : Dev, { s.dev with trans := tr1 } = z := ⟨_, rfl⟩
  rw [hz, hz1] at hpages
  rw [hz1] at hadmit
  have hload : s.dev.chainLoad s.env n q p c (fun d x => d.stageState n q p x) = (.ok [a, gutterStage y], ⟨z1, [(c.f 8 8, x ++ y)]⟩) := by
    refine (Dev.chainLoad_gutters (xs := [x, y]) (rs := [some { pages := pg, log := tLog x }, none]) (d1 := z) (d2 := z1) ?_ ?_ ?_ ?_ ?_ ?_ ?_ ?_).trans (by rw [ha]; rfl)
    · rw [hcnt, ← hz]; exact hr
    · rw [hcnt]
      simp [List.range_succ, List.drop_left' hx.length, List.take_left' hx.length, hy.length]
    · rw [hcnt, ← hz]
      exact ⟨hindexed hform hform', hindexed (hx.stageRange fun _ => hlog) (hy.stageRange fun h => absurd rfl h), hforall hx.stageAccess hy.stageAccess,
        hforall ⟨hx.kind, hx.res, heng, hcount⟩ ⟨hy.kind, hy.res, heng', hcount'⟩⟩
    · rw [← hz]
      exact hforall (hx.stageFree q p) (hy.stageFree q p)
    · simp [stageTwice, List.range_succ, gutterStage, hne]
    · unfold Dev.chainRings
      simp [hx.kind, hy.kind, hring, hring', hpages]
    · simp [ringClash, List.range_succ]
    · unfold Dev.outCourseBad
      simp [hy.kind]
  have hplain : ∀ u ∈ [a, gutterStage y], u.Plain := fun u hu => by
    obtain rfl | hu := List.mem_cons.mp hu
    · rw [ha]; exact ⟨rfl, rfl⟩
    · rw [List.mem_singleton.mp hu]; exact gutterStage_plain y
  have hown : (none : Option (List (Nat × Nat))).getD (z1.chainLoads n c.space [a, gutterStage y]) = loads := by
    rw [Option.getD_none, hloads, ha]
    unfold Dev.chainLoads Dev.stageRates gutterStage
    by_cases h0 : tRate x = 0 <;> simp [h0]
  refine show execChain n q p s = _ from s.go_to _ _ hst.rests ?_ (by rw [hd]; exact s.rests_quiet hst.rests) (by rw [hd]; exact s.rests_stores hst.rests)
  show s.dev.chainCmd s.env n q p = _
  unfold Dev.chainCmd
  rw [hst.started]
  dsimp only
  rw [hprep]
  dsimp only
  rw [hload]
  dsimp only
  rw [Dev.chainGo_plain (loads := loads) _ _ _ _ _ _ hplain hown (fun _ => hadmit), Dev.chained_unprepared _ _ _ (by rw [← hz1]; exact hprep), ← hz1, ← hd]
  have hsecond (g : Gutter) : (d.setGutter (tObj x) g).stageGutter n q p c.space 1 (gutterStage y) = s.dev.stageGutter n q p c.space 1 (gutterStage y) := by
    have hother : (d.setGutter (tObj x) g).gutter (tObj y) = s.dev.gutter (tObj y) := by
      rw [Dev.gutter_setGutter_other _ _ (Ne.symm hne), hd]
      rfl
    unfold Dev.stageGutter
    rw [show (gutterStage y).obj = tObj y from rfl, hother]
  have hfirst : d.stageGutter n q p c.space 0 a = s.dev.stageGutter n q p c.space 0 (gutterStage x) := by
    rw [hd, ha]
    rfl
  show Dev.modCmd ((d.setGutter a.obj (d.stageGutter n q p c.space 0 a)).setGutter (tObj y) ((d.setGutter a.obj (d.stageGutter n q p c.space 0 a)).stageGutter n q p c.space 1 (gutterStage y)))
    n q p _ = _
  rw [hfirst, show a.obj = tObj x by rw [ha]; rfl, hsecond]
  exact hst.modCmd_eq (by rw [hd]; rfl) _

end

/-- Settles O37. -/
theorem startingCommands : Obligations.StartingCommands := by
  unfold Obligations.StartingCommands
  refine ⟨?_, ?_, ?_, ?_, ?_, ?_, ?_, ?_, ?_, ?_⟩
  · intro n q p c s h htlb hmicro hcache hwalks htreqs hroom hunder hreqs hrem tr
    exact lathInval_starts (State.stands_iff h) htlb hmicro hcache hwalks htreqs hroom hunder hreqs hrem
  · intro n q p c s h hidle g
    exact gutter_starts (State.stands_iff h) hidle
  · intro n q p c s h x hst hbay hq hp y
    exact course_starts (State.stands_iff h) rfl hst hbay hq hp
  · intro n q p c x tr s h g hr hgood hroom y
    exact engine_starts (State.stands_iff h) rfl hr hgood hroom
  · intro n q p c h ops args tr tr1 tr2 s hst w hfirst h0 h1 hr hr1 hr2 hgood hfree hlen r
    exact run_starts (State.stands_iff hst) rfl rfl hfirst h0 h1 hr hr1 hr2 hgood hfree hlen
  · intro n q p c base tr s h a x hsrc hrange hhbm hheld hst hbusy hjob hseats hdir hmem y d
    exact seat_starts (State.stands_iff h) rfl rfl hsrc hrange hhbm hheld hst hbusy hjob hseats hdir hmem rfl rfl
  · intro n q p c s h a x k hsrc hst htrim hjob y
    exact trim_starts (State.stands_iff h) rfl rfl hsrc hst htrim hjob
  · intro n q p c x tr s h hprep hcnt hr hlen hform hkind hres hobj hheld hidle a g d
    exact chain_single (State.stands_iff h) hprep hcnt hr hform ⟨hlen, hkind, hres, hobj, hheld, hidle⟩ rfl
  · intro n q p c x y pg tr tr1 s h hprep hcnt hr hlen hlen' hform hform' hkind hkind' hres hres' hobj hobj' hne hlo hhi hheld hheld' hidle hidle' hpages loads hadmit a b g d
    exact chain_pair (State.stands_iff h) hprep hcnt hr hform hform' ⟨hlen, hkind, hres, hobj, hheld, hidle⟩ ⟨hlen', hkind', hres', hobj', hheld', hidle'⟩ hne ⟨hlo, hhi⟩ hpages rfl hadmit rfl rfl
  · intro n q p c h a s hst hprep hss hkind hres hidle g d
    exact chain_prepared (State.stands_iff hst) hprep hss ⟨hkind, hres⟩ hidle rfl

end Sys2Proof.Machine
end
